-- ==== Sys2Proof/Word.lean ====
section
/-!
DEFINITION. The word types of the module's interfaces: a byte, a 32-bit register word (R10) and a 64-bit register (R12).
-/
namespace Sys2Proof

/-- One byte. -/
abbrev Byte := BitVec 8

/-- One BAR0 word (R10). -/
abbrev Word := BitVec 32

/-- One 64-bit value (R12). -/
abbrev Quad := BitVec 64

end Sys2Proof
end

