-- ==== Sys2Proof/Syntax.lean ====
section
/-!
DEFINITION. The commands and events of spec/opcode_table.json: `Instr` has one constructor for each row. An operand is what
the sender or the surroundings supply: the register offset and value of a host access, the bytes of a frame, a sample, the
bytes that a read of host memory returned.
-/
namespace Sys2Proof

/-- The space that a host access names: a BAR (R319), or the configuration space of the function (R318). -/
inductive Bar where
  | bar0 | bar2 | bar4 | cfg
  deriving DecidableEq, Repr

/-- How a portion of a received frame ends: further portions follow, the frame ends, or the frame ends and held a PCS error or
an uncorrectable codeword (R93). -/
inductive RxEnd where
  | more | last | error
  deriving DecidableEq, Repr

/-- A coefficient request of the link partner (R86): one step up or down of c(−1), c(0) or c(1), or a preset with the
coefficients that the standard defines for it. -/
inductive CoeffReq where
  | step (which : Fin 3) (up : Bool)
  | preset (pre post : BitVec 7) (main : BitVec 7)
  deriving DecidableEq, Repr

/-- The fetch of an Anvil step: the micro-PC, the bits of its word that copies A and B of the control store return inverted
(R372, R375), and whether the access that the word makes has lost to foreground requests that remain ungranted at its
arbitration point (R49, R51). -/
structure Fetch where
  upc : BitVec 15
  flipA : BitVec 112
  flipB : BitVec 112
  waits : Bool
  deriving DecidableEq, Repr

/-- What the error check of a memory word found when it was read. -/
inductive EccState where
  | clean | corrected | uncorrectable
  deriving DecidableEq, Repr

/-- What the error checks of a lookup found: a word corrected, a word beyond correction, the winning row of the ASE failing
parity (R178), and the second winner failing as well. -/
inductive LookErr where
  | clean | corrected | bad | parity | parityTwice
  deriving DecidableEq, Repr

/-- What the checks of the two copies of the queue engine's control state find in what a command reads (R404): both pass, one
passes, or neither. -/
inductive Copies where
  | both
  | one
  | neither
  deriving DecidableEq, Repr

/-- What the error check of a Crucible row finds when a segment of a frame is read (R214): one word of the row at a data
position corrected or rebuilt, or two words beyond correction. -/
inductive ReadErr where
  | clean
  | corrected (seg : Nat) (pos : Fin 9)
  | rebuilt (seg : Nat) (pos : Fin 9)
  | lost (seg : Nat) (pos : Fin 9)
  deriving DecidableEq, Repr

/-- What the error checks of an action program's reads found: word `w` of those it fetched, or the action-data line of that
word, beyond correction (R200). -/
inductive ActErr where
  | clean
  | word (w : Fin 16)
  | line (w : Fin 16)
  deriving DecidableEq, Repr

/-- A word that Planish visits (R379): a word of the exact-match table, a Filigree node, a line of the result memory, an idle
row of a Crucible stripe with the position of the word that fails, a 72-bit word of the counter and flow stores, or an ASE
entry with what its row's parity shows and the replicas whose slot at that position is good. -/
inductive Scrub where
  | em (word : BitVec 23)
  | filigree (node : BitVec 19)
  | result (line : BitVec 19)
  | row (stripe : Byte) (row : BitVec 13) (pos : Fin 9)
  | qdr (word : BitVec 25)
  | ase (bank : Fin 1024) (index : BitVec 11) (parity : Bool) (good : Byte)
  deriving DecidableEq, Repr

/-- A failing unit that a test of Assay finds (R421, R424): a row or a column of an SRAM array, with its group and location; a
Crucible bank; a TCAM row of an ASE bank; or a unit without spares. -/
inductive AssayUnit where
  | row (ram : BitVec 24) (group : Fin 16) (loc : Word)
  | column (ram : BitVec 24) (group : Fin 16) (loc : Word)
  | crucible (bank : Fin 2304)
  | tcam (bank : Fin 1024) (index : BitVec 11)
  | other (group : Fin 16) (loc : Word)
  deriving DecidableEq, Repr

/-- The commands and events of the opcode table, one constructor per row. -/
inductive Instr where
  /-- REG_WRITE (R13): a host write of the word `v` at an offset of a BAR or of configuration space. -/
  | regWrite (b : Bar) (off : BitVec 26) (v : Word)
  /-- RC_FIELD_READ (R13): a host read of a word, with the RC fields that it has, at an offset of a BAR or of configuration
  space. -/
  | rcFieldRead (b : Bar) (off : BitVec 26)
  /-- LOW_WORD_READ (R12): a host read of the low word of a 64-bit register. -/
  | lowWordRead (off : BitVec 26)
  /-- HIGH_WORD_READ (R12): a host read of the high word of a 64-bit register. -/
  | highWordRead (off : BitVec 26)
  /-- HIGH_WORD_WRITE (R12): a host write of the high word of a 64-bit register. -/
  | highWordWrite (off : BitVec 26) (v : Word)
  /-- BAR0_BAD_ACCESS (R10). -/
  | bar0BadAccess
  /-- BAR4_BAD_ACCESS (R447). -/
  | bar4BadAccess
  /-- RX_FRAME (R93): a portion of a frame reaches the MAC of port `p`. -/
  | rxFrame (p : Fin 1024) (data : List Byte) (fin : RxEnd)
  /-- PARSE (R106): a pipe grants an ingress header slot. -/
  | parse (pipe : Fin 64) (slot : Fin 2)
  /-- STAGE_LOOKUP_ISSUE (R184): the stage's packet issues its four lookups, with what their error checks find. -/
  | stageLookupIssue (pipe : Fin 64) (stage : Fin 32) (e0 e1 e2 e3 : LookErr)
  /-- STAGE_ACTION_RUN (R197): the stage's action program runs, with what the error checks of its reads and of the frame's read
  find. -/
  | stageActionRun (pipe : Fin 64) (stage : Fin 32) (err : ActErr) (rd : ReadErr)
  /-- HOLD_LIST_LINK (R228): requester `r`. -/
  | holdListLink (r : Fin 8712)
  /-- RESIDUE_LINK (R258). -/
  | residueLink (port : Fin 1088)
  /-- REPL_RESUME (R259): requester `r`. -/
  | replResume (r : Fin 8712)
  /-- SCHED_SELECT (R246): a port, the header slot of its pipe, and what the checks of the control state's copies find. -/
  | schedSelect (port : Fin 1089) (slot : Fin 2) (copies : Copies)
  /-- LAUNCH_TIME_REACHED (R267). -/
  | launchTimeReached (queue : BitVec 19)
  /-- TX_START (R22): `rd`: what the error checks of the frame's reads find. -/
  | txStart (p : Fin 1024) (rd : ReadErr)
  /-- TX_UNDERRUN (R23). -/
  | txUnderrun (p : Fin 1024)
  /-- TX_COMPLETE (R230): `rd`: what the error checks of the frame's reads find. -/
  | txComplete (p : Fin 1024) (rd : ReadErr)
  /-- TRM_WINDOW_END (R39): monitor `n`, its count and that of its replica. -/
  | trmWindowEnd (n : Fin 81) (count replica : Word)
  /-- HOURS_INCREMENT (R37): the microword of Anvil's count; `ok` false: the record's line does not read back (R384). -/
  | hoursIncrement (f : Fetch) (ok : Bool)
  /-- DROOP_DETECT (R45): a detector's reading of VCORE, in mV. -/
  | droopDetect (detector : Fin 32) (mv : BitVec 12)
  /-- DROOP_RECOVER (R45). -/
  | droopRecover (shard : Fin 8)
  /-- VCORE_UNDERVOLT (R47): VCORE in mV. -/
  | vcoreUndervolt (mv : BitVec 12)
  /-- BG_STARVED (R51): the activity whose access waits. -/
  | bgStarved (a : Fin 7)
  /-- LOAD_BANK (R67). -/
  | loadBank (bank : Fin 2)
  /-- LOAD_HOST (R67). -/
  | loadHost
  /-- WRITE_BANK (R64): `ok` false: the commit record's line does not read back (R384). -/
  | writeBank (bank : Fin 2) (ok : Bool)
  /-- VERIFY_BANK (R77). -/
  | verifyBank (bank : Fin 2)
  /-- SWAP (R72). -/
  | swap
  /-- IMG_ABORT (R77): the bytes that the command has fetched. -/
  | imgAbort (bytes : List Byte)
  /-- IMG_FETCH_ERROR (R61): the bytes fetched before the failure. -/
  | imgFetchError (bytes : List Byte)
  /-- IMG_VERIFY_COMPLETE (R61): the bytes fetched; `bad`: the module-store line that does not read back. -/
  | imgVerifyComplete (bytes : List Byte) (bad : Option (BitVec 21))
  /-- FULL_LOAD_READY (R67). -/
  | fullLoadReady
  /-- BANK_COMMIT (R64): `ok` false: the commit record's line does not read back (R384). -/
  | bankCommit (ok : Bool)
  /-- EPOCH_RETIRE (R72). -/
  | epochRetire
  /-- RETIRE_OVERDUE (R74). -/
  | retireOverdue
  /-- RETIRE_FORCE (R74). -/
  | retireForce
  /-- AN_COMPLETE (R90): `tech`: the resolved technology as a PHY code of R78; `lp`: the partner's pause ability bits. -/
  | anComplete (p : Fin 1024) (tech : Byte) (lp : BitVec 2)
  /-- AN_FAIL (R80). -/
  | anFail (p : Fin 1024)
  /-- LT_COEFF_REQUEST (R86): the partner's request. -/
  | ltCoeffRequest (lane : Fin 1024) (r : CoeffReq)
  /-- TRAINING_COMPLETE (R90). -/
  | trainingComplete (p : Fin 1024)
  /-- TRAIN_FAIL (R90). -/
  | trainFail (p : Fin 1024)
  /-- LINK_UP (R90). -/
  | linkUp (p : Fin 1024)
  /-- ALIGN_TIMEOUT (R90). -/
  | alignTimeout (p : Fin 1024)
  /-- LINK_DOWN (R90). -/
  | linkDown (p : Fin 1024)
  /-- PORT_DOWN_HOLD_EXPIRE (R260). -/
  | portDownHoldExpire (p : Fin 1024)
  /-- PORT_ENABLE (R90). -/
  | portEnable (p : Fin 1024)
  /-- PORT_DISABLE (R91). -/
  | portDisable (p : Fin 1024)
  /-- TEST_ENTER (R90). -/
  | testEnter (p : Fin 1024)
  /-- TEST_EXIT (R90). -/
  | testExit (p : Fin 1024)
  /-- PORT_RESTART (R90). -/
  | portRestart (p : Fin 1024)
  /-- FEC_CLEAR (R105). -/
  | fecClear (p : Fin 1024)
  /-- TX_FFE_WRITE (R87). -/
  | txFfeWrite (lane : Fin 1024) (v : Word)
  /-- ADAPT_RESTART (R88). -/
  | adaptRestart (lane : Fin 1024)
  /-- PAUSE_FRAME_RX (R96): a PFC frame with its enable vector and eight times, or (`pfc` false) a PAUSE frame with time `q0`. -/
  | pauseFrameRx (p : Fin 1024) (pfc : Bool) (vector : Byte) (q0 q1 q2 q3 q4 q5 q6 q7 : BitVec 16)
  /-- PAUSE_TIMER_EXPIRE (R96). -/
  | pauseTimerExpire (p : Fin 1024) (prio : Fin 8)
  /-- PAUSE_TX (R95). -/
  | pauseTx (p : Fin 1024)
  /-- PAUSE_REFRESH (R95). -/
  | pauseRefresh (p : Fin 1024) (prio : Fin 8)
  /-- STORM_ENTER (R98). -/
  | stormEnter (p : Fin 1024) (prio : Fin 8)
  /-- STORM_EXIT (R98). -/
  | stormExit (p : Fin 1024) (prio : Fin 8)
  /-- CHK_LOCK (R101): the PAM4 symbols that the lane receives, up to those that lock the checker. -/
  | chkLock (lane : Fin 1024) (syms : List (Fin 4))
  /-- LOCK_LOST (R101): the PAM4 symbols that the lane receives, up to those that lose the lock. -/
  | lockLost (lane : Fin 1024) (syms : List (Fin 4))
  /-- CHK_CLEAR (R101). -/
  | chkClear (lane : Fin 1024)
  /-- INJECT (R102). -/
  | inject (lane : Fin 1024)
  /-- EM_INSERT (R149). -/
  | emInsert (t : Fin 16)
  /-- EM_REPLACE (R149). -/
  | emReplace (t : Fin 16)
  /-- EM_DELETE (R149). -/
  | emDelete (t : Fin 16)
  /-- EM_SEARCH (R149). -/
  | emSearch (t : Fin 16)
  /-- LEARN_INSERT (R150). -/
  | learnInsert
  /-- AGE_VISIT (R152): the step's microword, and the table. -/
  | ageVisit (f : Fetch) (t : Fin 16)
  /-- EM_CLASP_REQUEST (R154). -/
  | emClaspRequest (r : Fin 8192)
  /-- EM_CLASP_GRANT (R154). -/
  | emClaspGrant (r : Fin 8192)
  /-- EM_CLASP_RELEASE (R154). -/
  | emClaspRelease (r : Fin 8192)
  /-- ASE_WRITE_AT (R173). -/
  | aseWriteAt (p : Fin 64)
  /-- ASE_INSERT_AT (R174). -/
  | aseInsertAt (p : Fin 64)
  /-- ASE_DELETE_AT (R173). -/
  | aseDeleteAt (p : Fin 64)
  /-- ASE_SEARCH_CMD (R173): partition, replica, and what the error checks find. -/
  | aseSearchCmd (p : Fin 64) (r : Fin 128) (e : LookErr)
  /-- ASE_STEP (R177): partition, replica, and what the error checks find. -/
  | aseStep (p : Fin 64) (r : Fin 128) (e : LookErr)
  /-- ASE_READ_AT (R173). -/
  | aseReadAt (p : Fin 64) (r : Fin 128)
  /-- ASE_CLASP_REQUEST (R172). -/
  | aseClaspRequest (b : Fin 1024)
  /-- ASE_CLASP_GRANT (R172). -/
  | aseClaspGrant (b : Fin 1024)
  /-- ASE_CLASP_RELEASE (R172). -/
  | aseClaspRelease (b : Fin 1024)
  /-- MIGRATE_CMD (R236). -/
  | migrateCmd (b : Fin 4096)
  /-- BANK_MIGRATION_START (R236): the step's microword. -/
  | bankMigrationStart (f : Fetch)
  /-- BANK_MIGRATION_DONE (R236): the step's microword; `ok` false: the spare map's line does not read back (R384). -/
  | bankMigrationDone (f : Fetch) (ok : Bool)
  /-- PLANISH_SCRUB_STEP (R379): the step's microword, the word, what its check finds, and whether it ends a pass. -/
  | planishScrubStep (f : Fetch) (w : Scrub) (e : EccState) (last : Bool)
  /-- CALIBRATION_STEP (R379): the step's microword, a lane and its receiver's settings as found. -/
  | calibrationStep (f : Fetch) (lane : Fin 1024) (eq : Word) (snr : BitVec 16)
  /-- COUNTER_FLUSH_STEP (R307): the step's microword, the shard, and what the check of the pair finds. -/
  | counterFlushStep (f : Fetch) (shard : Fin 8) (e : EccState)
  /-- WEAR_LEVEL_STEP (R379): the step's microword, a line, and whether it reads back. -/
  | wearLevelStep (f : Fetch) (line : BitVec 22) (ok : Bool)
  /-- TELEMETRY_EXPORT_STEP (R302): the step's microword, the set that is checked in each shard, and the shards and ways whose
  entries have an uncorrectable error. -/
  | telemetryExportStep (f : Fetch) (set : Fin 16384) (bad : List (Fin 8 × Fin 4))
  /-- MIGRATION_ROW_COPY (R236): the step's microword. -/
  | migrationRowCopy (f : Fetch)
  /-- ANVIL_TRAP (R374): the handler's microword, and the traps raised while the handler runs. -/
  | anvilTrap (f : Fetch) (raised : Byte)
  /-- VARIANT_SWITCH (R376): routine `r`. -/
  | variantSwitch (r : Fin 256)
  /-- TIME_SET (R276). -/
  | timeSet
  /-- TIME_STEP (R276). -/
  | timeStep
  /-- TIME_SNAPSHOT (R276). -/
  | timeSnapshot
  /-- TIME_RATE_COMMIT (R276): the high word of TIME_RATE. -/
  | timeRateCommit (high : Word)
  /-- HOLDOVER (R278). -/
  | holdover
  /-- REFCLK_LOST (R273). -/
  | refclkLost
  /-- REFCLK_RESTORED (R273). -/
  | refclkRestored
  /-- CHIPLET_REFCLK_LOST (R454): chiplet `n`. -/
  | chipletRefclkLost (n : Fin 8)
  /-- TRIGGER_ARM (R284). -/
  | triggerArm (n : Fin 16)
  /-- TRIGGER_FIRE (R285). -/
  | triggerFire (n : Fin 16)
  /-- PIN_CAPTURE (R288): PPS_IN (0) or TRIG_IN[pin − 1], and the edge. -/
  | pinCapture (pin : Fin 3) (falling : Bool)
  /-- PPS_ABSENT (R288). -/
  | ppsAbsent
  /-- PPS_OUT_PULSE (R289). -/
  | ppsOutPulse
  /-- PPS_OUT_PULSE_END (R289). -/
  | ppsOutPulseEnd
  /-- CONFIG_CHANGE (R264). -/
  | configChange (p : Fin 1024)
  /-- GATE_DISABLE (R264). -/
  | gateDisable (p : Fin 1024)
  /-- GATE_CONFIG_START (R264). -/
  | gateConfigStart (p : Fin 1024)
  /-- GATE_ENTRY_CHANGE (R263). -/
  | gateEntryChange (p : Fin 1024)
  /-- FS_RD_PTR_WRITE (R303): the value written. -/
  | fsRdPtrWrite (shard : Fin 8) (v : BitVec 20)
  /-- FS_BATCH_SEND (R304): the step's microword, and the shard. -/
  | fsBatchSend (f : Fetch) (shard : Fin 8)
  /-- COUNTER_FLUSH (R308). -/
  | counterFlush
  /-- COUNTER_FLUSH_DONE (R308). -/
  | counterFlushDone
  /-- LOUPE_START (R311). -/
  | loupeStart
  /-- LOUPE_STOP (R311). -/
  | loupeStop
  /-- LOUPE_WINDOW_END (R311). -/
  | loupeWindowEnd
  /-- LOUPE_COUNTER_WRAP (R310): counter `i` of unit `u` counts `n` further events. -/
  | loupeCounterWrap (u : Fin 72) (i : Fin 8) (n : BitVec 48)
  /-- SAMPLING_OVERFLOW (R312): sampling counter `k` counts `n` further events. -/
  | samplingOverflow (k : Fin 8) (n : BitVec 48)
  /-- SAMPLING_CTRL_WRITE (R312): a value for CTRL, or with `reload` for RELOAD. -/
  | samplingCtrlWrite (k : Fin 8) (reload : Bool) (v : Quad)
  /-- BW_WINDOW_END (R313). -/
  | bwWindowEnd
  /-- BEZEL_WRITE (R320): bytes with their byte enables at a window offset. -/
  | bezelWrite (off : BitVec 24) (data : List Byte) (en : List Bool)
  /-- POISONED_WRITE (R320). -/
  | poisonedWrite (b : Bar)
  /-- RING_POLL (R328). -/
  | ringPoll (n : Fin 88)
  /-- RING_ENABLE (R329). -/
  | ringEnable (n : Fin 88)
  /-- RING_DISABLE (R329). -/
  | ringDisable (n : Fin 88)
  /-- RING_COAL_EXPIRE (R324). -/
  | ringCoalExpire (n : Fin 88)
  /-- RX_RING_WRITE (R331): `rd`: what the error checks of the frame's reads find. -/
  | rxRingWrite (r : Fin 64) (rd : ReadErr)
  /-- RX_RING_STALL (R332). -/
  | rxRingStall (r : Fin 64)
  /-- TX_RING_TAKE (R334). -/
  | txRingTake (t : Fin 16)
  /-- DMA_GO (R341). -/
  | dmaGo (c : Fin 32)
  /-- DMA_BURST (R342): the bytes that host memory returned, where the source lies there. -/
  | dmaBurst (c : Fin 32) (data : List Byte)
  /-- DMA_READBACK_DONE (R344): `ok` false: the read-back failed. -/
  | dmaReadbackDone (c : Fin 32) (ok : Bool)
  /-- DMA_ABORT (R346). -/
  | dmaAbort (c : Fin 32)
  /-- CLEAR_HALT (R348). -/
  | clearHalt (c : Fin 32)
  /-- SHADOW_ARM (R348). -/
  | shadowArm (c : Fin 32)
  /-- SHADOW_CANCEL (R348). -/
  | shadowCancel (c : Fin 32)
  /-- SHADOW_FIELD_WRITE (R349): the word at an offset of the channel's window. -/
  | shadowFieldWrite (c : Fin 32) (off : BitVec 8) (v : Word)
  /-- PCIE_LINK_DOWN (R322). -/
  | pcieLinkDown
  /-- BUS_MASTER_DISABLE (R322). -/
  | busMasterDisable
  /-- D3HOT_ENTRY (R322). -/
  | d3hotEntry
  /-- HOST_RESUME (R322). -/
  | hostResume
  /-- MSIX_UNMASK (R323): vector `v`. -/
  | msixUnmask (v : Fin 256)
  /-- GLB_INT_EN_WRITE (R445): the value of EN. -/
  | glbIntEnWrite (en : BitVec 14)
  /-- RAIL_SAMPLE (R352): mV and 0.1 A; `valid` false: the sample fails its check. -/
  | railSample (rail : Fin 7) (mv : BitVec 18) (da : BitVec 14) (valid : Bool)
  /-- POWER_WINDOW_END (R355). -/
  | powerWindowEnd
  /-- PHASE_SELECT (R358). -/
  | phaseSelect (n : Fin 16)
  /-- PHASE_ENTRY_WRITE (R371): word `w` of entry `n`. -/
  | phaseEntryWrite (n : Fin 16) (w : Fin 2) (v : Word)
  /-- OP_TRANSITION_DONE (R361): VCORE in mV. -/
  | opTransitionDone (mv : BitVec 12)
  /-- TEMP_SAMPLE (R364): sensors and their readings. -/
  | tempSample (readings : List (Fin 288 × BitVec 16))
  /-- THERMAL_STEP (R366). -/
  | thermalStep
  /-- POWER_FAIL (R368): `pin`: PWR_WARN_N, otherwise VIN; the microword of the commit; `ok` false: a record's line does not
  read back (R384). -/
  | powerFail (pin : Bool) (f : Fetch) (ok : Bool)
  /-- PFAIL_DONE (R368). -/
  | pfailDone
  /-- POWER_RECOVERY (R369). -/
  | powerRecovery
  /-- FAULT_DECISION (R392). -/
  | faultDecision
  /-- FAULT_RECORD (R394): `ok` false: the record's line does not read back (R384). -/
  | faultRecord (ok : Bool)
  /-- MASK_WINDOW_END (R403). -/
  | maskWindowEnd
  /-- AUTO_RESET (R397). -/
  | autoReset
  /-- FIRST_CLR (R394). -/
  | firstClr
  /-- FAULT_N_CLR (R400). -/
  | faultNClr
  /-- ALIVE_RESTART (R400). -/
  | aliveRestart
  /-- PORT_SAFE_RELEASE (R399). -/
  | portSafeRelease (p : Fin 1024)
  /-- INJECT_EVENT (R405). -/
  | injectEvent
  /-- INJECT_MEMORY (R405). -/
  | injectMemory
  /-- INJECT_LANE (R405). -/
  | injectLane
  /-- FUSE_SLOT (R413): the block that host memory returned; `fuseOk` false: fuse programming does not verify. -/
  | fuseSlot (b : List Byte) (fuseOk : Bool)
  /-- FUSE_IMAGE_KEY (R413): the block that host memory returned; `fuseOk` false: fuse programming does not verify. -/
  | fuseImageKey (b : List Byte) (fuseOk : Bool)
  /-- ENTER_FIELD (R413): the block that host memory returned; `fuseOk` false: fuse programming does not verify. -/
  | enterField (b : List Byte) (fuseOk : Bool)
  /-- ENTER_SERVICE (R414): the block that host memory returned. -/
  | enterService (b : List Byte)
  /-- REVOKE_SLOT (R413): the block that host memory returned; `fuseOk` false: fuse programming does not verify. -/
  | revokeSlot (b : List Byte) (fuseOk : Bool)
  /-- RAISE_FLOOR (R413): the block that host memory returned; `fuseOk` false: fuse programming does not verify. -/
  | raiseFloor (b : List Byte) (fuseOk : Bool)
  /-- RETIRE (R416): the block that host memory returned; `fuseOk` false: fuse programming does not verify. -/
  | retire (b : List Byte) (fuseOk : Bool)
  /-- GET_VERSION (R417). -/
  | getVersion
  /-- GET_CAPABILITIES (R417). -/
  | getCapabilities
  /-- NEGOTIATE_ALGORITHMS (R417). -/
  | negotiateAlgorithms
  /-- GET_DIGESTS (R417). -/
  | getDigests
  /-- GET_CERTIFICATE (R417): the offset and length asked for. -/
  | getCertificate (off len : BitVec 16)
  /-- CHALLENGE (R417): the measurement summary type asked for. -/
  | challenge (summary : Byte)
  /-- GET_MEASUREMENTS (R418): the operation, and whether a signature is asked for. -/
  | getMeasurements (op : Byte) (signed : Bool)
  /-- BYPASS (R419). -/
  | bypass
  /-- IDCODE (R419). -/
  | idcode
  /-- SAMPLE_PRELOAD (R419): the pins sampled, or with `preload` the new contents of the chain. -/
  | samplePreload (preload : Bool) (cells : BitVec 32)
  /-- EXTEST (R419). -/
  | extest
  /-- INTERNAL_SCAN (R419). -/
  | internalScan
  /-- ASSAY_GO (R422): the reference differences in ppm by chiplet, and whether V_MEAS settled. -/
  | assayGo (ppm : List (BitVec 9)) (vcoreOk : Bool)
  /-- ASSAY_TEST_DONE (R421, R30): the failing units that the test found; for the buffer-bandwidth test, the segment accesses
  completed and the tokens of the eight Crucible sections, summed. -/
  | assayTestDone (units : List AssayUnit) (accesses tokens : BitVec 64)
  /-- ASSAY_ABORT (R423). -/
  | assayAbort
  /-- ASSAY_CONDITION_FAIL (R423): the condition of order 5 + `order`. -/
  | assayConditionFail (order : Fin 5)
  /-- POWER_ON (R428): SMB_ADDR[1:0], and whether RESET_N is low at step 2. -/
  | powerOn (addr : BitVec 2) (resetLow : Bool)
  /-- RESET_N_ASSERT (R430). -/
  | resetNAssert
  /-- RESET_N_RELEASE (R432). -/
  | resetNRelease
  /-- MODULE_RESET (R432): the CONFIRM field of the write. -/
  | moduleReset (confirm : BitVec 16)
  /-- SOFT_RESET (R432): the CONFIRM field of the write. -/
  | softReset (confirm : BitVec 16)
  /-- PIPE_GO (R433): the TARGET field of the write. -/
  | pipeGo (target : BitVec 11)
  /-- PORT_GO (R434): the TARGET field of the write. -/
  | portGo (target : BitVec 11)
  /-- INPUT_GLITCH (R436): a filtered input; `excess`: too soon after the last. -/
  | inputGlitch (pin : Fin 5) (excess : Bool)
  /-- INPUT_STUCK (R437). -/
  | inputStuck (pin : Fin 5)
  /-- INPUT_UNSTUCK (R437). -/
  | inputUnstuck (pin : Fin 5)
  /-- SMB_SET_POINTER (R455): `pecOk` false: a wrong PEC byte. -/
  | smbSetPointer (p : Word) (pecOk : Bool)
  /-- SMB_READ (R456). -/
  | smbRead
  /-- SMB_WRITE (R456): `pecOk` false: a wrong PEC byte. -/
  | smbWrite (off v : Word) (pecOk : Bool)
  /-- SMB_ALERT_RESPONSE (R457). -/
  | smbAlertResponse
  /-- LINK_OK_CHANGE (R89): what the receiver of port `p` reports now, and the codewords decoded since the last change. -/
  | linkOkChange (p : Fin 1024) (lf rf hiSer deskew : Bool) (am : BitVec 6) (cw : List (Option (Fin 16)))
  /-- CDR_LOCK_CHANGE (R290): whether the lane's receiver sees a signal, and whether it has CDR_LOCK, from now on. -/
  | cdrLockChange (lane : Fin 1024) (signal lock : Bool)
  /-- PCIE_LINK_UP (R428): the trained speed and width. -/
  | pcieLinkUp (speed : BitVec 4) (width : BitVec 4)
  /-- SHAPER_DEBT_REPAID (R248): kind 0 a queue, 1 a class node, 2 a port node. -/
  | shaperDebtRepaid (kind : Fin 3) (index : BitVec 19)
  /-- L_ENERGY_WINDOW_END (R30). -/
  | lEnergyWindowEnd
  /-- LANES_READY (R428). -/
  | lanesReady
  deriving DecidableEq, Repr

end Sys2Proof
end

