-- ==== Sys2Proof/Config.lean ====
section
/-!
DEFINITION. The values that the spec leaves open: opaque functions, of which nothing can be computed or proved. Each is
applied to `State.draws`, the model's count of values drawn, or to the operands it depends on (log 1).
-/
namespace Sys2Proof.Config

/-- A random number of the security controller: MIL_NONCE and SPDM nonces (R412, R425). -/
opaque freeNonce : Nat → BitVec 256

/-- The value compared with a marking or sampling probability (R254, R299, R305). -/
opaque freeFraction : Nat → BitVec 32

/-- A choice, or a value of any width, that the spec leaves open (R87, R88, R99, R111). -/
opaque freeChoice : Nat → Nat

/-- An ECDSA signature of the module over a message (R417): the identity key and the random number are the module's own. -/
opaque freeSignature : Nat → BitVec 768

/-- Bytes that a memory test leaves, by address (R423). -/
opaque freeCells : Nat → List (Nat × BitVec 8)

/-- Flow-cache entries that a memory test leaves: the way, and the entry's bits (R423). -/
opaque freeFlows : Nat → List (Nat × BitVec 256)

/-- A byte that is read and that the frame, the record or the instance does not have, by draw and position (R118, R188). -/
opaque freeWindow : Nat → Nat → BitVec 8

/-- Data bits of the Anvil control store, by micro-PC (R372): the spec gives the ROM no contents. -/
opaque microData : Nat → BitVec 104

/-- The static term of P_EST for an operating point and the hottest core-die sensor, and the power of a number of events of a
kind in a window, from the fused coefficients (R354): the spec gives neither their units nor which coefficient is which. -/
opaque estStatic : List Nat → Nat → Nat → Nat
opaque estPower : List Nat → Nat → Nat → Nat

/-- The PHY latency of a PHY type on receive and on transmit, in 2^−16 ns, RS-FEC and the delimiter's position included: R97
bounds it, and R279 takes it off or adds it. -/
opaque phyLatency : Nat → Bool → Nat

/-- SRAM write-plus-read energy per bit at an operating point, in units of 0.1 nJ × 2^−20, fused at test (R30). -/
opaque sramEnergy : Nat → Nat

/-- The bit at a position of SSPRQ, which IEEE 802.3 defines and the spec does not repeat (R100). -/
opaque ssprq : Nat → Bool

/-- SHA-384 of the Anvil ROM, whose contents the spec does not give (R418). -/
opaque romDigest : Unit → BitVec 384

end Sys2Proof.Config
end

