-- ==== Sys2Proof/Machine/Bits.lean ====
section
/-!
DEFINITION. Bit fields, byte lists and two's complement, as the tables of the spec use them: little-endian integers in
memory, images and descriptors; big-endian words in packets.
-/
namespace Sys2Proof.Machine

/-- Bits [lo + wd - 1 : lo] of a number. -/
def bits (v lo wd : Nat) : Nat := v / 2 ^ lo % 2 ^ wd

/-- Bit `i` of a number. -/
def bit (v i : Nat) : Bool := v.testBit i

/-- 1 for true. -/
def b2n (b : Bool) : Nat := if b then 1 else 0

/-- Replace bits [lo + wd - 1 : lo] of `v` by the low bits of `x`. -/
def putBits (v lo wd x : Nat) : Nat :=
  v - 2 ^ lo * (v / 2 ^ lo % 2 ^ wd) + 2 ^ lo * (x % 2 ^ wd)

/-- Set bit `i`. -/
def bitSet (v i : Nat) : Nat := putBits v i 1 1

/-- Clear bit `i`. -/
def bitClear (v i : Nat) : Nat := putBits v i 1 0

/-- The two's-complement value of the low `wd` bits. -/
def signed (v wd : Nat) : Int :=
  if v % 2 ^ wd < 2 ^ (wd - 1) then Int.ofNat (v % 2 ^ wd) else Int.ofNat (v % 2 ^ wd) - Int.ofNat (2 ^ wd)

/-- The low `wd` bits of an integer. -/
def wrapInt (v : Int) (wd : Nat) : Nat := (v % (2 ^ wd : Int)).toNat

/-- Ceiling division. -/
def ceilDiv (a b : Nat) : Nat := (a + b - 1) / b

/-- `v` held to at most `m`. -/
def satTo (m v : Nat) : Nat := if m < v then m else v

/-- A byte list as a little-endian number. -/
def leNat : List Byte → Nat
  | [] => 0
  | b :: bs => b.toNat + 256 * leNat bs

/-- A byte list as a big-endian number. -/
def beNat (l : List Byte) : Nat := l.foldl (fun a b => a * 256 + b.toNat) 0

/-- `n` bytes of a number, little-endian. -/
def leBytes : Nat → Nat → List Byte
  | 0, _ => []
  | n + 1, v => BitVec.ofNat 8 v :: leBytes n (v / 256)

/-- `n` bytes of a number, big-endian. -/
def beBytes (n v : Nat) : List Byte := (leBytes n v).reverse

/-- `n` bytes of `l` from position `p`. Bytes beyond the end are left out. -/
def slice (l : List Byte) (p n : Nat) : List Byte := (l.drop p).take n

/-- Byte `p` of a list, 0 beyond its end. -/
def byteAt (l : List Byte) (p : Nat) : Nat := (l.getD p 0).toNat

/-- Little-endian number in bytes p to p + n - 1 of a list, bytes beyond its end read as 0. -/
def le (l : List Byte) (p n : Nat) : Nat := leNat (slice l p n)

/-- Big-endian number in bytes p to p + n - 1 of a list. -/
def be (l : List Byte) (p n : Nat) : Nat := beNat (slice l p n)

/-- Whether n bytes from p are all zero. -/
def zeroBytes (l : List Byte) (p n : Nat) : Bool := (slice l p n).all (fun b => b == 0)

/-- Overwrite bytes of `l` from position `p` with `bs`; the length is kept. -/
def overlay (l : List Byte) (p : Nat) (bs : List Byte) : List Byte :=
  l.take p ++ bs.take (l.length - p) ++ l.drop (p + bs.length)

/-- `n` zero bytes. -/
def zeros (n : Nat) : List Byte := List.replicate n 0

/-- The list cut or padded with zero bytes to `n` bytes. -/
def padTo (n : Nat) (l : List Byte) : List Byte := l.take n ++ zeros (n - l.length)

/-- Repeat `f` n times. -/
def iterate {α : Type} (f : α → α) : Nat → α → α
  | 0, x => x
  | n + 1, x => iterate f n (f x)

/-- Apply `f 0`, `f 1` and so on up to `f (n - 1)`, in that order. -/
def upTo {α : Type} (n : Nat) (f : Nat → α → α) (x : α) : α := (List.range n).foldl (fun a i => f i a) x

/-! ### The checksums of R63 and R382 -/

/-- One bit step of the reflected CRC-32C (polynomial 0x1EDC_6F41 reversed, 0x82F6_3B78). -/
def crcBit (c : Nat) : Nat := if c % 2 = 1 then (c / 2) ^^^ 0x82F63B78 else c / 2

/-- One byte step of CRC-32C. -/
def crcByte (c : Nat) (b : Byte) : Nat := iterate crcBit 8 (c ^^^ b.toNat)

/-- Standard CRC-32C: initial value 0xFFFF_FFFF and final inversion. -/
def crc32c (l : List Byte) : Nat := (l.foldl crcByte 0xFFFFFFFF) ^^^ 0xFFFFFFFF

/-- One bit step of a reflected CRC with the reversed polynomial `poly`. -/
def crcBitWith (poly c : Nat) : Nat := if c % 2 = 1 then (c / 2) ^^^ poly else c / 2

/-- Reflected CRC of a byte list with an initial value and no final inversion (R139). -/
def crcWith (poly init : Nat) (l : List Byte) : Nat :=
  l.foldl (fun c b => iterate (crcBitWith poly) 8 (c ^^^ b.toNat)) init

/-- The reversed polynomials of CRC-32C and of the IEEE 802.3 CRC-32. -/
def polyCrc32c : Nat := 0x82F63B78
def polyCrc32 : Nat := 0xEDB88320

/-- The FCS of a frame's other bytes, in wire order. -/
def fcsOf (l : List Byte) : List Byte := leBytes 4 ((crcWith polyCrc32 0xFFFFFFFF l) ^^^ 0xFFFFFFFF)

/-- One's-complement sum of two 16-bit numbers. -/
def ocAdd (a b : Nat) : Nat := let t := a + b; if t < 65536 then t else t - 65535

/-- One's-complement sum of the big-endian 16-bit words of a byte list, an odd last byte padded with zero. -/
def ocSum : List Byte → Nat
  | [] => 0
  | [a] => a.toNat * 256
  | a :: b :: t => ocAdd (a.toNat * 256 + b.toNat) (ocSum t)

end Sys2Proof.Machine
end

