-- ==== Sys2Proof/Machine/Catalogue.lean ====
section
/-!
DEFINITION. The values that the module holds in fuses and in ROM, and those the spec lists as defaults in tables of their
own: the voltage table (R34, R36), the thermal thresholds (R365), Anvil's shares and routine catalogue (R379, R388), the
default phase (R356), the ordering code (R443) and the fault catalogue (R389 to R392, R396).
-/
namespace Sys2Proof.Machine

/-- Where a register field's reset value comes from, when it is not one number for all instances. -/
inductive ResetKind where
  | const | step | hEol | vSol | vEol | trimMax | estCoef | tgWarn | tgQuench | tgCrit | romId | romRev | share | shareMin
  | variants | routineClass | fltImpl | fltClass | fltKind | fltN | fltW | fltReactBase | fltReactEsc | silRev | orderCode
  | phPref | phMin | phValid | phCap | phK | phBMax
  deriving DecidableEq, Repr

/-- Entry `i` of a short table, `d` beyond its end. -/
def nthNat (l : List Nat) (i d : Nat) : Nat := l.getD i d

/-- Fused start-of-life voltages, mV, within the ranges of R34. DESIGN CHOICE (log 3): the low end of each range. -/
def fusedVSol (op : Nat) : Nat := nthNat [550, 570, 600, 630, 660, 700, 740, 770] op 550

/-- Fused end-of-life voltages, mV, within the ranges of R34. DESIGN CHOICE (log 3). -/
def fusedVEol (op : Nat) : Nat := nthNat [550, 580, 610, 650, 690, 730, 770, 810] op 550

/-- Fused largest trim: 0 for OP0 to OP3 (R52). DESIGN CHOICE (log 3): 20 steps, the worked example of R43, above. -/
def fusedTrimMax (op : Nat) : Nat := if 4 ≤ op then 20 else 0

/-- Fused life length H_EOL, hours. DESIGN CHOICE (log 3): the worked example of R43. -/
def fusedHEol : Nat := 87600

/-- A threshold in the 0.25 °C units above −40 °C of R371. -/
def quarterDegrees (celsius : Nat) : Nat := (celsius + 40) * 4

/-- The WARN default of a thermal group (R365). -/
def thermWarn (g : Nat) : Nat := quarterDegrees (if g < 16 then 95 else if g = 16 then 90 else 110)

/-- The QUENCH default of a thermal group (R365). -/
def thermQuench (g : Nat) : Nat := quarterDegrees (if g < 16 then 105 else if g = 16 then 100 else 120)

/-- The fused CRIT of a thermal group (R365). -/
def thermCrit (g : Nat) : Nat :=
  quarterDegrees (if g < 8 then 118 else if g < 16 then 115 else if g = 16 then 110 else 130)

/-- The default share of an Anvil activity (R379). -/
def defaultShare (a : Nat) : Nat := nthNat [64, 24, 32, 32, 8, 32, 16] a 0

/-- The minimum share of an Anvil activity (R379). -/
def minShare (a : Nat) : Nat := nthNat [40, 16, 16, 16, 4, 16, 8] a 0

/-- Variants of an Anvil routine in the ROM. DESIGN CHOICE (log 4): routines 0 to 9, with four variants each. -/
def romVariants (r : Nat) : Nat := if r ≤ 9 then 4 else 0

/-- Class of an Anvil routine (R388). DESIGN CHOICE (log 4): routine r has class r. -/
def romClass (r : Nat) : Nat := if r ≤ 9 then r else 0

/-- The decided classes of R391. -/
def classNote : Nat := 0
def classMinor : Nat := 1
def classSevere : Nat := 2
def classFatal : Nat := 3

/-- How many sources a fault group has (R389). -/
def groupSources (g : Nat) : Nat := nthNat [12, 16, 6, 16, 12, 16, 16, 10, 8, 10, 14, 10, 16, 12, 10, 16] g 0

/-- Whether a source number exists (R389, R390: indexes run from 0 within a group). -/
def faultImplemented (src : Nat) : Bool := src % 16 < groupSources (src / 16)

/-- Base class and scope kind of the sources that a chapter names, numbered under R390. A scope kind that no chapter
states is a DESIGN CHOICE (log 5). -/
def namedFaults : List (Nat × Nat × Nat) := [
  (0x00, 1, 0), (0x01, 2, 0), (0x02, 0, 0),
  (0x10, 3, 0), (0x11, 2, 0), (0x12, 1, 0), (0x13, 1, 0), (0x14, 1, 0), (0x15, 1, 7), (0x16, 0, 7), (0x17, 3, 7),
  (0x20, 0, 0), (0x21, 1, 0),
  (0x30, 1, 1), (0x31, 1, 1), (0x32, 0, 1),
  (0x40, 0, 2), (0x41, 1, 2), (0x42, 1, 2), (0x43, 0, 2), (0x44, 1, 2)] ++ [
  (0x50, 1, 4), (0x51, 1, 4), (0x52, 1, 4), (0x53, 1, 4), (0x54, 1, 4),
  (0x60, 2, 4), (0x61, 0, 1), (0x62, 1, 1), (0x63, 1, 0), (0x64, 1, 4), (0x65, 1, 4),
  (0x70, 2, 4),
  (0x80, 1, 0), (0x81, 0, 0), (0x82, 0, 0),
  (0x90, 0, 3), (0x91, 1, 0),
  (0xA0, 0, 0), (0xA1, 0, 0), (0xA2, 1, 6)] ++ [
  (0xB0, 0, 0), (0xB1, 2, 0), (0xB2, 1, 0), (0xB3, 0, 0),
  (0xC0, 1, 5), (0xC1, 1, 3),
  (0xD0, 1, 4),
  (0xE0, 1, 0), (0xE1, 2, 0), (0xE2, 2, 0),
  (0xF0, 1, 0), (0xF1, 1, 0), (0xF2, 1, 0), (0xF3, 1, 0)]

/-- The base class of a source (R391). An internal check that no chapter names is taken as a note. DESIGN CHOICE (log 5). -/
def faultBaseClass (src : Nat) : Nat :=
  match namedFaults.find? (fun r => r.1 == src) with
  | some r => r.2.1
  | none => 0

/-- The scope kind of a source (R393). -/
def faultScopeKind (src : Nat) : Nat :=
  match namedFaults.find? (fun r => r.1 == src) with
  | some r => r.2.2
  | none => 0

/-- The VCORE source of R47, the one source with AUTO_RESET (R396). -/
def srcVcore : Nat := 0x10

/-- The default reaction set of a decided class (R396), in the bit layout of REACT. -/
def defaultReact (cls : Nat) : Nat := nthNat [0x00, 0x01, 0x11, 0x19] cls 0

/-- The reset value of REACT_BASE (R396). -/
def reactBaseReset (src : Nat) : Nat :=
  defaultReact (faultBaseClass src) + (if src = srcVcore then 0x40 else 0)

/-- The reset value of REACT_ESC (R396): an escalated event is decided severe. -/
def reactEscReset (src : Nat) : Nat :=
  if faultBaseClass src = classFatal then reactBaseReset src else defaultReact classSevere

/-- The ordering code BVD1024-L, bytes 4k to 4k + 3 (R443). -/
def orderCode (k : Nat) : Nat := nthNat [0x31445642, 0x2D343230, 0x0000004C, 0x00000000] k 0

/-- The reset value of instance `i` of a field whose Reset column is of kind `k`, with the column's number `n`. -/
def resetOf (k : ResetKind) (n i : Nat) : Nat :=
  match k with
  | .const => n
  | .step => n + i
  | .hEol => fusedHEol
  | .vSol => fusedVSol i
  | .vEol => fusedVEol i
  | .trimMax => fusedTrimMax i
  | .estCoef => 0
  | .tgWarn => thermWarn i
  | .tgQuench => thermQuench i
  | .tgCrit => thermCrit i
  | .romId => 0
  | .romRev => 0
  | .share => defaultShare i
  | .shareMin => minShare i
  | .variants => romVariants i
  | .routineClass => romClass i
  | .fltImpl => if faultImplemented i then 1 else 0
  | .fltClass => faultBaseClass i
  | .fltKind => faultScopeKind i
  | .fltN => 0
  | .fltW => 1
  | .fltReactBase => reactBaseReset i
  | .fltReactEsc => reactEscReset i
  | .silRev => 0
  | .orderCode => orderCode i
  | .phPref => if i = 0 then 7 else 0
  | .phMin => if i = 0 then 4 else 0
  | .phValid => if i = 0 then 1 else 0
  | .phCap => if i = 0 then 1900 else 0
  | .phK => if i = 0 then 64 else 0
  | .phBMax => if i = 0 then 128 else 0

end Sys2Proof.Machine
end

