-- ==== Sys2Proof/Machine/RegMap.lean ====
section
/-!
DEFINITION. The register map: one descriptor per register field of the tables R52, R77, R104, R105, R132, R133, R157,
R182, R212, R240, R271, R293, R316, R351, R371, R388, R406, R425, R426, R438, R443 to R446, with the BAR0 offset, bit
position, width, array strides and counts, type (R13), reset value (R14) and stored-as rule of the field's row.
-/
namespace Sys2Proof.Machine

/-- The field types of R13. -/
inductive FTy where
  | ro | rw | w1c | rc | wo
  deriving DecidableEq, Repr

/-- One register field, or one array of equal fields. Instance (i, j) lies in the word at `off + s1 * i + s2 * j`, from
bit `lo`, `wd` bits wide (a field wider than 32 bits runs on into the next word, R12). -/
structure Fld where
  off : Nat
  lo : Nat
  wd : Nat
  s1 : Nat
  n1 : Nat
  s2 : Nat
  n2 : Nat
  ty : FTy
  /-- The Reset column's number, where it gives one. -/
  rst : Nat
  /-- The source of the reset value where the column gives no number. -/
  rk : ResetKind
  /-- The stored-as rule: a written value in [lo, hi] is stored as v. -/
  st : List (Nat × Nat × Nat)
  /-- A dash in the Reset column (R14). -/
  keep : Bool
  deriving DecidableEq, Repr

/-- The bit address of an instance of a field: the one key under which its value is held. An index outside the array gives a
key that lies above every register's. -/
def Fld.key (f : Fld) (i j : Nat) : Nat :=
  (f.off + f.s1 * i + f.s2 * j) * 8 + f.lo + 2 ^ 40 * (i / f.n1 + j / f.n2)

/-- The value of a field after a reset that affects its block (R14). -/
def Fld.reset (f : Fld) (i : Nat) : Nat := resetOf f.rk f.rst i

/-- The stored-as rule of a field applied to a written value. -/
def Fld.stored (f : Fld) (v : Nat) : Nat :=
  match f.st.find? (fun r => r.1 ≤ v && v ≤ r.2.1) with
  | some r => r.2.2
  | none => v

namespace Reg

/-! ### CORE -/
def CORE.CUR_OP : Fld := ⟨0x00200000, 0, 3, 0x0, 1, 0x0, 1, .ro, 0, .const, [], false⟩
def CORE.TGT_OP : Fld := ⟨0x00200000, 4, 3, 0x0, 1, 0x0, 1, .ro, 0, .const, [], false⟩
def CORE.IN_TRANSITION : Fld := ⟨0x00200000, 8, 1, 0x0, 1, 0x0, 1, .ro, 0, .const, [], false⟩
def CORE.LOOP_ACTIVE : Fld := ⟨0x00200000, 9, 1, 0x0, 1, 0x0, 1, .ro, 0, .const, [], false⟩
def CORE.AT_TRIM_LIMIT : Fld := ⟨0x00200000, 10, 1, 0x0, 1, 0x0, 1, .ro, 0, .const, [], false⟩
def CORE.DROOP_ACTIVE : Fld := ⟨0x00200000, 11, 1, 0x0, 1, 0x0, 1, .ro, 0, .const, [], false⟩
def CORE.V_BASE : Fld := ⟨0x00200004, 0, 12, 0x0, 1, 0x0, 1, .ro, 550, .const, [], false⟩
def CORE.TRIM : Fld := ⟨0x00200004, 16, 8, 0x0, 1, 0x0, 1, .ro, 0, .const, [], false⟩
def CORE.V_SET : Fld := ⟨0x00200008, 0, 12, 0x0, 1, 0x0, 1, .ro, 550, .const, [], false⟩
def CORE.V_MEAS : Fld := ⟨0x00200008, 16, 12, 0x0, 1, 0x0, 1, .ro, 0, .const, [], false⟩
def CORE.HOURS : Fld := ⟨0x0020000c, 0, 32, 0x0, 1, 0x0, 1, .ro, 0, .const, [], true⟩
def CORE.H_EOL : Fld := ⟨0x00200010, 0, 20, 0x0, 1, 0x0, 1, .ro, 0, .hEol, [], false⟩
def CORE.LOOP_EN : Fld := ⟨0x00200020, 0, 1, 0x0, 1, 0x0, 1, .rw, 1, .const, [], false⟩
def CORE.RELAX_MARGIN : Fld := ⟨0x00200020, 4, 4, 0x0, 1, 0x0, 1, .rw, 3, .const, [(0, 0, 1)], false⟩
def CORE.RELAX_WINDOWS : Fld := ⟨0x00200020, 8, 16, 0x0, 1, 0x0, 1, .rw, 100, .const, [(0, 0, 1)], false⟩
def CORE.FLOOR_MISS : Fld := ⟨0x00200024, 0, 1, 0x0, 1, 0x0, 1, .w1c, 0, .const, [], false⟩
def CORE.TRIM_LIMIT_HIT : Fld := ⟨0x00200024, 1, 1, 0x0, 1, 0x0, 1, .w1c, 0, .const, [], false⟩
def CORE.MISS_WINDOWS : Fld := ⟨0x00200024, 16, 16, 0x0, 1, 0x0, 1, .rc, 0, .const, [], false⟩
def CORE.DROOP_THRESH : Fld := ⟨0x00200030, 0, 8, 0x0, 1, 0x0, 1, .rw, 30, .const, [(0, 9, 10), (61, 255, 60)], false⟩
def CORE.RECOVER_THRESH : Fld := ⟨0x00200030, 8, 8, 0x0, 1, 0x0, 1, .rw, 15, .const, [], false⟩
def CORE.MIN_HOLD : Fld := ⟨0x00200030, 16, 8, 0x0, 1, 0x0, 1, .rw, 1, .const, [(0, 0, 1)], false⟩
def CORE.DROOP_EVENTS : Fld := ⟨0x00200034, 0, 32, 0x0, 1, 0x0, 1, .ro, 0, .const, [], false⟩
def CORE.BG_WAIT_LIMIT : Fld := ⟨0x00200040, 0, 16, 0x0, 1, 0x0, 1, .rw, 1000, .const, [(0, 0, 1)], false⟩
def CORE.BG_STARVED_EVENTS : Fld := ⟨0x00200044, 0, 16, 0x0, 1, 0x0, 1, .rc, 0, .const, [], false⟩
def CORE.MIN_COUNT : Fld := ⟨0x00200050, 0, 32, 0x0, 1, 0x0, 1, .ro, 0, .const, [], false⟩
def CORE.MIN_INDEX : Fld := ⟨0x00200054, 0, 7, 0x0, 1, 0x0, 1, .ro, 0, .const, [], false⟩
def CORE.V_SOL : Fld := ⟨0x00200100, 0, 12, 0x4, 8, 0x0, 1, .ro, 0, .vSol, [], false⟩
def CORE.V_EOL : Fld := ⟨0x00200100, 12, 12, 0x4, 8, 0x0, 1, .ro, 0, .vEol, [], false⟩
def CORE.TRIM_MAX : Fld := ⟨0x00200100, 24, 8, 0x4, 8, 0x0, 1, .ro, 0, .trimMax, [], false⟩
def CORE.TRM_COUNT : Fld := ⟨0x00201000, 0, 32, 0x10, 81, 0x0, 1, .ro, 0, .const, [], false⟩
def CORE.TRM_REPLICA : Fld := ⟨0x00201004, 0, 32, 0x10, 81, 0x0, 1, .ro, 0, .const, [], false⟩
def CORE.TRM_LCORE : Fld := ⟨0x00201008, 0, 16, 0x10, 81, 0x0, 1, .ro, 0, .const, [], false⟩
def CORE.SKIPPED : Fld := ⟨0x00201008, 16, 1, 0x10, 81, 0x0, 1, .ro, 0, .const, [], false⟩
def CORE.TRM_LOW : Fld := ⟨0x0020100c, 0, 32, 0x10, 81, 0x0, 1, .rc, 4294967295, .const, [], false⟩
def CORE.part0 : List Fld := [CORE.CUR_OP, CORE.TGT_OP, CORE.IN_TRANSITION, CORE.LOOP_ACTIVE, CORE.AT_TRIM_LIMIT, CORE.DROOP_ACTIVE, CORE.V_BASE, CORE.TRIM, CORE.V_SET, CORE.V_MEAS, CORE.HOURS, CORE.H_EOL, CORE.LOOP_EN, CORE.RELAX_MARGIN, CORE.RELAX_WINDOWS, CORE.FLOOR_MISS]
def CORE.part1 : List Fld := [CORE.TRIM_LIMIT_HIT, CORE.MISS_WINDOWS, CORE.DROOP_THRESH, CORE.RECOVER_THRESH, CORE.MIN_HOLD, CORE.DROOP_EVENTS, CORE.BG_WAIT_LIMIT, CORE.BG_STARVED_EVENTS, CORE.MIN_COUNT, CORE.MIN_INDEX, CORE.V_SOL, CORE.V_EOL, CORE.TRIM_MAX, CORE.TRM_COUNT, CORE.TRM_REPLICA, CORE.TRM_LCORE]
def CORE.part2 : List Fld := [CORE.SKIPPED, CORE.TRM_LOW]
def CORE.fields : List Fld := CORE.part0 ++ CORE.part1 ++ CORE.part2

/-! ### IMG -/
def IMG.ACTIVITY : Fld := ⟨0x00100000, 0, 4, 0x0, 1, 0x0, 1, .ro, 0, .const, [], false⟩
def IMG.RUN_SRC : Fld := ⟨0x00100000, 4, 2, 0x0, 1, 0x0, 1, .ro, 0, .const, [], false⟩
def IMG.READY : Fld := ⟨0x00100000, 6, 1, 0x0, 1, 0x0, 1, .ro, 0, .const, [], false⟩
def IMG.SWAP_ENABLED : Fld := ⟨0x00100000, 7, 1, 0x0, 1, 0x0, 1, .ro, 0, .const, [], false⟩
def IMG.EPOCH : Fld := ⟨0x00100000, 8, 1, 0x0, 1, 0x0, 1, .ro, 0, .const, [], false⟩
def IMG.RETIRING : Fld := ⟨0x00100000, 9, 1, 0x0, 1, 0x0, 1, .ro, 0, .const, [], false⟩
def IMG.RETIRE_OVERDUE : Fld := ⟨0x00100000, 10, 1, 0x0, 1, 0x0, 1, .w1c, 0, .const, [], false⟩
def IMG.OPCODE : Fld := ⟨0x00100004, 0, 4, 0x0, 1, 0x0, 1, .wo, 0, .const, [], false⟩
def IMG.BANK : Fld := ⟨0x00100004, 4, 1, 0x0, 1, 0x0, 1, .wo, 0, .const, [], false⟩
def IMG.RESULT : Fld := ⟨0x00100008, 0, 8, 0x0, 1, 0x0, 1, .ro, 0, .const, [], false⟩
def IMG.FAIL_SECTION : Fld := ⟨0x00100008, 8, 8, 0x0, 1, 0x0, 1, .ro, 255, .const, [], false⟩
def IMG.LAST_OPCODE : Fld := ⟨0x00100008, 16, 4, 0x0, 1, 0x0, 1, .ro, 0, .const, [], false⟩
def IMG.CMD_DONE : Fld := ⟨0x00100008, 20, 1, 0x0, 1, 0x0, 1, .w1c, 0, .const, [], false⟩
def IMG.RETIRED : Fld := ⟨0x00100008, 21, 1, 0x0, 1, 0x0, 1, .w1c, 0, .const, [], false⟩
def IMG.DETAIL : Fld := ⟨0x0010000c, 0, 32, 0x0, 1, 0x0, 1, .ro, 0, .const, [], false⟩
def IMG.SRC_ADDR : Fld := ⟨0x00100010, 0, 64, 0x0, 1, 0x0, 1, .rw, 0, .const, [], false⟩
def IMG.SRC_LEN : Fld := ⟨0x00100018, 0, 32, 0x0, 1, 0x0, 1, .rw, 0, .const, [], false⟩
def IMG.BOOT_PREF : Fld := ⟨0x00100020, 0, 1, 0x0, 1, 0x0, 1, .rw, 0, .const, [], true⟩
def IMG.A_VALID : Fld := ⟨0x00100024, 0, 1, 0x0, 1, 0x0, 1, .ro, 0, .const, [], true⟩
def IMG.B_VALID : Fld := ⟨0x00100028, 0, 1, 0x0, 1, 0x0, 1, .ro, 0, .const, [], true⟩
def IMG.A_SEQUENCE : Fld := ⟨0x00100024, 1, 31, 0x0, 1, 0x0, 1, .ro, 0, .const, [], true⟩
def IMG.B_SEQUENCE : Fld := ⟨0x00100028, 1, 31, 0x0, 1, 0x0, 1, .ro, 0, .const, [], true⟩
def IMG.IMAGE_ID : Fld := ⟨0x00100030, 0, 32, 0x0, 1, 0x0, 1, .ro, 0, .const, [], false⟩
def IMG.SECVER : Fld := ⟨0x00100034, 0, 32, 0x0, 1, 0x0, 1, .ro, 0, .const, [], false⟩
def IMG.DIGEST : Fld := ⟨0x00100040, 0, 32, 0x4, 12, 0x0, 1, .ro, 0, .const, [], false⟩
def IMG.SWAP_TRIG_EN : Fld := ⟨0x00100080, 0, 1, 0x0, 1, 0x0, 1, .rw, 0, .const, [], false⟩
def IMG.SWAP_TRIG_SEL : Fld := ⟨0x00100080, 1, 4, 0x0, 1, 0x0, 1, .rw, 0, .const, [], false⟩
def IMG.INFLIGHT : Fld := ⟨0x00100090, 0, 32, 0x4, 2, 0x0, 1, .ro, 0, .const, [], false⟩
def IMG.RETIRE_TIMEOUT : Fld := ⟨0x00100098, 0, 16, 0x0, 1, 0x0, 1, .rw, 1000, .const, [(0, 0, 1), (60001, 65535, 60000)], false⟩
def IMG.RETIRE_FORCE : Fld := ⟨0x00100098, 16, 1, 0x0, 1, 0x0, 1, .wo, 0, .const, [], false⟩
def IMG.RETIRE_DISCARDS : Fld := ⟨0x0010009c, 0, 32, 0x0, 1, 0x0, 1, .rc, 0, .const, [], false⟩
def IMG.LOAD_DISCARDS : Fld := ⟨0x001000a0, 0, 32, 0x0, 1, 0x0, 1, .rc, 0, .const, [], false⟩
def IMG.VERIFY_US : Fld := ⟨0x001000b0, 0, 16, 0x0, 1, 0x0, 1, .ro, 0, .const, [], false⟩
def IMG.CONFIG_US : Fld := ⟨0x001000b0, 16, 16, 0x0, 1, 0x0, 1, .ro, 0, .const, [], false⟩
def IMG.part0 : List Fld := [IMG.ACTIVITY, IMG.RUN_SRC, IMG.READY, IMG.SWAP_ENABLED, IMG.EPOCH, IMG.RETIRING, IMG.RETIRE_OVERDUE, IMG.OPCODE, IMG.BANK, IMG.RESULT, IMG.FAIL_SECTION, IMG.LAST_OPCODE, IMG.CMD_DONE, IMG.RETIRED, IMG.DETAIL, IMG.SRC_ADDR]
def IMG.part1 : List Fld := [IMG.SRC_LEN, IMG.BOOT_PREF, IMG.A_VALID, IMG.B_VALID, IMG.A_SEQUENCE, IMG.B_SEQUENCE, IMG.IMAGE_ID, IMG.SECVER, IMG.DIGEST, IMG.SWAP_TRIG_EN, IMG.SWAP_TRIG_SEL, IMG.INFLIGHT, IMG.RETIRE_TIMEOUT, IMG.RETIRE_FORCE, IMG.RETIRE_DISCARDS, IMG.LOAD_DISCARDS]
def IMG.part2 : List Fld := [IMG.VERIFY_US, IMG.CONFIG_US]
def IMG.fields : List Fld := IMG.part0 ++ IMG.part1 ++ IMG.part2

/-! ### LANE -/
def LANE.TX_POL : Fld := ⟨0x00400000, 0, 1, 0x400, 1024, 0x0, 1, .rw, 0, .const, [], false⟩
def LANE.RX_POL : Fld := ⟨0x00400000, 1, 1, 0x400, 1024, 0x0, 1, .rw, 0, .const, [], false⟩
def LANE.ADAPT_FREEZE : Fld := ⟨0x00400000, 2, 1, 0x400, 1024, 0x0, 1, .rw, 0, .const, [], false⟩
def LANE.ADAPT_RESTART : Fld := ⟨0x00400000, 3, 1, 0x400, 1024, 0x0, 1, .wo, 0, .const, [], false⟩
def LANE.SIGNAL_DETECT : Fld := ⟨0x00400004, 0, 1, 0x400, 1024, 0x0, 1, .ro, 0, .const, [], false⟩
def LANE.CDR_LOCK : Fld := ⟨0x00400004, 1, 1, 0x400, 1024, 0x0, 1, .ro, 0, .const, [], false⟩
def LANE.ADAPT_CONVERGED : Fld := ⟨0x00400004, 2, 1, 0x400, 1024, 0x0, 1, .ro, 0, .const, [], false⟩
def LANE.FFE_REJECT : Fld := ⟨0x00400004, 3, 1, 0x400, 1024, 0x0, 1, .w1c, 0, .const, [], false⟩
def LANE.TRAINING_ACTIVE : Fld := ⟨0x00400004, 4, 1, 0x400, 1024, 0x0, 1, .ro, 0, .const, [], false⟩
def LANE.PRE : Fld := ⟨0x00400010, 0, 7, 0x400, 1024, 0x0, 1, .rw, 0, .const, [], false⟩
def LANE.MAIN : Fld := ⟨0x00400010, 8, 7, 0x400, 1024, 0x0, 1, .rw, 64, .const, [], false⟩
def LANE.POST : Fld := ⟨0x00400010, 16, 7, 0x400, 1024, 0x0, 1, .rw, 0, .const, [], false⟩
def LANE.CTLE_PEAK : Fld := ⟨0x00400020, 0, 4, 0x400, 1024, 0x0, 1, .ro, 0, .const, [], false⟩
def LANE.DFE_TAP1 : Fld := ⟨0x00400020, 8, 8, 0x400, 1024, 0x0, 1, .ro, 0, .const, [], false⟩
def LANE.RX_FFE_PRE : Fld := ⟨0x00400020, 16, 8, 0x400, 1024, 0x0, 1, .ro, 0, .const, [], false⟩
def LANE.SNR : Fld := ⟨0x00400024, 0, 16, 0x400, 1024, 0x0, 1, .ro, 0, .const, [], false⟩
def LANE.GEN_EN : Fld := ⟨0x00400040, 0, 1, 0x400, 1024, 0x0, 1, .rw, 0, .const, [], false⟩
def LANE.GEN_PATTERN : Fld := ⟨0x00400040, 1, 3, 0x400, 1024, 0x0, 1, .rw, 0, .const, [], false⟩
def LANE.GEN_INVERT : Fld := ⟨0x00400040, 4, 1, 0x400, 1024, 0x0, 1, .rw, 0, .const, [], false⟩
def LANE.INJ_MODE : Fld := ⟨0x00400040, 5, 3, 0x400, 1024, 0x0, 1, .rw, 0, .const, [(4, 7, 0)], false⟩
def LANE.BURST_LEN : Fld := ⟨0x00400040, 8, 8, 0x400, 1024, 0x0, 1, .rw, 1, .const, [(0, 0, 1)], false⟩
def LANE.RATE_EXP : Fld := ⟨0x00400040, 16, 6, 0x400, 1024, 0x0, 1, .rw, 20, .const, [(0, 9, 10), (41, 63, 40)], false⟩
def LANE.INJECT : Fld := ⟨0x00400040, 22, 1, 0x400, 1024, 0x0, 1, .wo, 0, .const, [], false⟩
def LANE.USER : Fld := ⟨0x00400048, 0, 64, 0x400, 1024, 0x0, 1, .rw, 0, .const, [], false⟩
def LANE.CHK_EN : Fld := ⟨0x00400060, 0, 1, 0x400, 1024, 0x0, 1, .rw, 0, .const, [], false⟩
def LANE.CHK_PATTERN : Fld := ⟨0x00400060, 1, 3, 0x400, 1024, 0x0, 1, .rw, 0, .const, [], false⟩
def LANE.CHK_INVERT : Fld := ⟨0x00400060, 4, 1, 0x400, 1024, 0x0, 1, .rw, 0, .const, [], false⟩
def LANE.CHK_CLEAR : Fld := ⟨0x00400060, 5, 1, 0x400, 1024, 0x0, 1, .wo, 0, .const, [], false⟩
def LANE.CHK_LOCK : Fld := ⟨0x00400064, 0, 1, 0x400, 1024, 0x0, 1, .ro, 0, .const, [], false⟩
def LANE.LOCK_LOST : Fld := ⟨0x00400064, 1, 1, 0x400, 1024, 0x0, 1, .w1c, 0, .const, [], false⟩
def LANE.BIT_ERRORS : Fld := ⟨0x00400068, 0, 64, 0x400, 1024, 0x0, 1, .ro, 0, .const, [], false⟩
def LANE.SYM_ERRORS : Fld := ⟨0x00400070, 0, 64, 0x400, 1024, 0x0, 1, .ro, 0, .const, [], false⟩
def LANE.BITS_CHECKED : Fld := ⟨0x00400078, 0, 64, 0x400, 1024, 0x0, 1, .ro, 0, .const, [], false⟩
def LANE.part0 : List Fld := [LANE.TX_POL, LANE.RX_POL, LANE.ADAPT_FREEZE, LANE.ADAPT_RESTART, LANE.SIGNAL_DETECT, LANE.CDR_LOCK, LANE.ADAPT_CONVERGED, LANE.FFE_REJECT, LANE.TRAINING_ACTIVE, LANE.PRE, LANE.MAIN, LANE.POST, LANE.CTLE_PEAK, LANE.DFE_TAP1, LANE.RX_FFE_PRE, LANE.SNR]
def LANE.part1 : List Fld := [LANE.GEN_EN, LANE.GEN_PATTERN, LANE.GEN_INVERT, LANE.INJ_MODE, LANE.BURST_LEN, LANE.RATE_EXP, LANE.INJECT, LANE.USER, LANE.CHK_EN, LANE.CHK_PATTERN, LANE.CHK_INVERT, LANE.CHK_CLEAR, LANE.CHK_LOCK, LANE.LOCK_LOST, LANE.BIT_ERRORS, LANE.SYM_ERRORS]
def LANE.part2 : List Fld := [LANE.BITS_CHECKED]
def LANE.fields : List Fld := LANE.part0 ++ LANE.part1 ++ LANE.part2

/-! ### PORT -/
def PORT.ADMIN_UP : Fld := ⟨0x00500000, 0, 1, 0x200, 1024, 0x0, 1, .rw, 0, .const, [], false⟩
def PORT.AN_EN : Fld := ⟨0x00500000, 1, 1, 0x200, 1024, 0x0, 1, .rw, 0, .const, [], false⟩
def PORT.LT_EN : Fld := ⟨0x00500000, 2, 1, 0x200, 1024, 0x0, 1, .rw, 0, .const, [], false⟩
def PORT.TEST_MODE : Fld := ⟨0x00500000, 3, 1, 0x200, 1024, 0x0, 1, .rw, 0, .const, [], false⟩
def PORT.LOOPBACK : Fld := ⟨0x00500000, 4, 2, 0x200, 1024, 0x0, 1, .rw, 0, .const, [(3, 3, 0)], false⟩
def PORT.FEC_CLEAR : Fld := ⟨0x00500000, 6, 1, 0x200, 1024, 0x0, 1, .wo, 0, .const, [], false⟩
def PORT.RESTART : Fld := ⟨0x00500000, 7, 1, 0x200, 1024, 0x0, 1, .wo, 0, .const, [], false⟩
def PORT.LINK_STATE : Fld := ⟨0x00500004, 0, 3, 0x200, 1024, 0x0, 1, .ro, 0, .const, [], false⟩
def PORT.LINK_UP : Fld := ⟨0x00500004, 3, 1, 0x200, 1024, 0x0, 1, .ro, 0, .const, [], false⟩
def PORT.LF_RX : Fld := ⟨0x00500004, 4, 1, 0x200, 1024, 0x0, 1, .ro, 0, .const, [], false⟩
def PORT.RF_RX : Fld := ⟨0x00500004, 5, 1, 0x200, 1024, 0x0, 1, .ro, 0, .const, [], false⟩
def PORT.HI_SER : Fld := ⟨0x00500004, 6, 1, 0x200, 1024, 0x0, 1, .ro, 0, .const, [], false⟩
def PORT.DESKEW_OK : Fld := ⟨0x00500004, 7, 1, 0x200, 1024, 0x0, 1, .ro, 0, .const, [], false⟩
def PORT.AM_LOCKED : Fld := ⟨0x00500004, 8, 6, 0x200, 1024, 0x0, 1, .ro, 0, .const, [], false⟩
def PORT.PCS_LANES : Fld := ⟨0x00500004, 14, 6, 0x200, 1024, 0x0, 1, .ro, 0, .const, [], false⟩
def PORT.LP_PAUSE : Fld := ⟨0x00500004, 20, 2, 0x200, 1024, 0x0, 1, .ro, 0, .const, [], false⟩
def PORT.AN_DONE : Fld := ⟨0x00500004, 22, 1, 0x200, 1024, 0x0, 1, .ro, 0, .const, [], false⟩
def PORT.TRAIN_DONE : Fld := ⟨0x00500004, 23, 1, 0x200, 1024, 0x0, 1, .ro, 0, .const, [], false⟩
def PORT.EV_LINK_UP_EVT : Fld := ⟨0x00500008, 0, 1, 0x200, 1024, 0x0, 1, .w1c, 0, .const, [], false⟩
def PORT.IE_LINK_UP_EVT : Fld := ⟨0x0050000c, 0, 1, 0x200, 1024, 0x0, 1, .rw, 0, .const, [], false⟩
def PORT.EV_LINK_DOWN_EVT : Fld := ⟨0x00500008, 1, 1, 0x200, 1024, 0x0, 1, .w1c, 0, .const, [], false⟩
def PORT.IE_LINK_DOWN_EVT : Fld := ⟨0x0050000c, 1, 1, 0x200, 1024, 0x0, 1, .rw, 0, .const, [], false⟩
def PORT.EV_AN_FAIL : Fld := ⟨0x00500008, 2, 1, 0x200, 1024, 0x0, 1, .w1c, 0, .const, [], false⟩
def PORT.IE_AN_FAIL : Fld := ⟨0x0050000c, 2, 1, 0x200, 1024, 0x0, 1, .rw, 0, .const, [], false⟩
def PORT.EV_TRAIN_FAIL : Fld := ⟨0x00500008, 3, 1, 0x200, 1024, 0x0, 1, .w1c, 0, .const, [], false⟩
def PORT.IE_TRAIN_FAIL : Fld := ⟨0x0050000c, 3, 1, 0x200, 1024, 0x0, 1, .rw, 0, .const, [], false⟩
def PORT.EV_ALIGN_TIMEOUT_EVT : Fld := ⟨0x00500008, 4, 1, 0x200, 1024, 0x0, 1, .w1c, 0, .const, [], false⟩
def PORT.IE_ALIGN_TIMEOUT_EVT : Fld := ⟨0x0050000c, 4, 1, 0x200, 1024, 0x0, 1, .rw, 0, .const, [], false⟩
def PORT.EV_STORM_ENTER : Fld := ⟨0x00500008, 5, 1, 0x200, 1024, 0x0, 1, .w1c, 0, .const, [], false⟩
def PORT.IE_STORM_ENTER : Fld := ⟨0x0050000c, 5, 1, 0x200, 1024, 0x0, 1, .rw, 0, .const, [], false⟩
def PORT.EV_STORM_EXIT : Fld := ⟨0x00500008, 6, 1, 0x200, 1024, 0x0, 1, .w1c, 0, .const, [], false⟩
def PORT.IE_STORM_EXIT : Fld := ⟨0x0050000c, 6, 1, 0x200, 1024, 0x0, 1, .rw, 0, .const, [], false⟩
def PORT.EV_HI_SER_EVT : Fld := ⟨0x00500008, 7, 1, 0x200, 1024, 0x0, 1, .w1c, 0, .const, [], false⟩
def PORT.IE_HI_SER_EVT : Fld := ⟨0x0050000c, 7, 1, 0x200, 1024, 0x0, 1, .rw, 0, .const, [], false⟩
def PORT.LINK_DEBOUNCE : Fld := ⟨0x00500010, 0, 8, 0x200, 1024, 0x0, 1, .rw, 0, .const, [], false⟩
def PORT.ALIGN_TIMEOUT : Fld := ⟨0x00500010, 8, 16, 0x200, 1024, 0x0, 1, .rw, 500, .const, [(0, 0, 1)], false⟩
def PORT.MAC_SA : Fld := ⟨0x00500018, 0, 48, 0x200, 1024, 0x0, 1, .rw, 0, .const, [], false⟩
def PORT.FC_MODE : Fld := ⟨0x00500020, 0, 2, 0x200, 1024, 0x0, 1, .rw, 0, .const, [(3, 3, 0)], false⟩
def PORT.PFC_TX_EN : Fld := ⟨0x00500020, 8, 8, 0x200, 1024, 0x0, 1, .rw, 255, .const, [], false⟩
def PORT.PFC_RX_EN : Fld := ⟨0x00500020, 16, 8, 0x200, 1024, 0x0, 1, .rw, 255, .const, [], false⟩
def PORT.XOFF_QUANTA : Fld := ⟨0x00500024, 0, 16, 0x200, 1024, 0x0, 1, .rw, 65535, .const, [(0, 0, 1)], false⟩
def PORT.REFRESH : Fld := ⟨0x00500024, 16, 16, 0x200, 1024, 0x0, 1, .rw, 32768, .const, [], false⟩
def PORT.RX_PAUSED : Fld := ⟨0x00500028, 0, 8, 0x200, 1024, 0x0, 1, .ro, 0, .const, [], false⟩
def PORT.TX_ASSERTED : Fld := ⟨0x00500028, 8, 8, 0x200, 1024, 0x0, 1, .ro, 0, .const, [], false⟩
def PORT.STORM_ACTIVE : Fld := ⟨0x00500028, 16, 8, 0x200, 1024, 0x0, 1, .ro, 0, .const, [], false⟩
def PORT.T_STORM : Fld := ⟨0x00500030, 0, 10, 0x200, 1024, 0x0, 1, .rw, 100, .const, [(0, 0, 1), (1001, 1023, 1000)], false⟩
def PORT.HYST : Fld := ⟨0x00500030, 16, 10, 0x200, 1024, 0x0, 1, .rw, 100, .const, [(0, 0, 1), (1001, 1023, 1000)], false⟩
def PORT.STORM_EN : Fld := ⟨0x00500030, 31, 1, 0x200, 1024, 0x0, 1, .rw, 1, .const, [], false⟩
def PORT.FCS_ERR : Fld := ⟨0x00500040, 0, 32, 0x200, 1024, 0x0, 1, .rc, 0, .const, [], false⟩
def PORT.RUNT : Fld := ⟨0x00500044, 0, 32, 0x200, 1024, 0x0, 1, .rc, 0, .const, [], false⟩
def PORT.OVERSIZE : Fld := ⟨0x00500048, 0, 32, 0x200, 1024, 0x0, 1, .rc, 0, .const, [], false⟩
def PORT.RX_ERRORS : Fld := ⟨0x0050004c, 0, 32, 0x200, 1024, 0x0, 1, .rc, 0, .const, [], false⟩
def PORT.MAC_CTRL_OTHER : Fld := ⟨0x00500050, 0, 32, 0x200, 1024, 0x0, 1, .rc, 0, .const, [], false⟩
def PORT.PAUSE_IGNORED : Fld := ⟨0x00500054, 0, 32, 0x200, 1024, 0x0, 1, .rc, 0, .const, [], false⟩
def PORT.TX_UNDERRUN : Fld := ⟨0x00500058, 0, 32, 0x200, 1024, 0x0, 1, .rc, 0, .const, [], false⟩
def PORT.LINK_FLAPS : Fld := ⟨0x0050005c, 0, 32, 0x200, 1024, 0x0, 1, .rc, 0, .const, [], false⟩
def PORT.PAUSE_RX : Fld := ⟨0x00500060, 0, 32, 0x200, 1024, 0x0, 1, .rc, 0, .const, [], false⟩
def PORT.PAUSE_TX : Fld := ⟨0x00500064, 0, 32, 0x200, 1024, 0x0, 1, .rc, 0, .const, [], false⟩
def PORT.XON_RX : Fld := ⟨0x00500068, 0, 32, 0x200, 1024, 0x0, 1, .rc, 0, .const, [], false⟩
def PORT.XON_TX : Fld := ⟨0x0050006c, 0, 32, 0x200, 1024, 0x0, 1, .rc, 0, .const, [], false⟩
def PORT.PFC_RX_XOFF : Fld := ⟨0x00500080, 0, 32, 0x200, 1024, 0x8, 8, .rc, 0, .const, [], false⟩
def PORT.PFC_TX_XOFF : Fld := ⟨0x00500084, 0, 32, 0x200, 1024, 0x8, 8, .rc, 0, .const, [], false⟩
def PORT.STORM_DISCARDS : Fld := ⟨0x005000c0, 0, 32, 0x200, 1024, 0x4, 8, .rc, 0, .const, [], false⟩
def PORT.CW_TOTAL : Fld := ⟨0x00500100, 0, 64, 0x200, 1024, 0x0, 1, .ro, 0, .const, [], false⟩
def PORT.CW_CORR : Fld := ⟨0x00500108, 0, 64, 0x200, 1024, 0x0, 1, .ro, 0, .const, [], false⟩
def PORT.CW_UNCORR : Fld := ⟨0x00500110, 0, 64, 0x200, 1024, 0x0, 1, .ro, 0, .const, [], false⟩
def PORT.SYM_CORR : Fld := ⟨0x00500118, 0, 64, 0x200, 1024, 0x0, 1, .ro, 0, .const, [], false⟩
def PORT.FEC_BIN : Fld := ⟨0x00500140, 0, 32, 0x200, 1024, 0x4, 16, .ro, 0, .const, [], false⟩
def PORT.part0 : List Fld := [PORT.ADMIN_UP, PORT.AN_EN, PORT.LT_EN, PORT.TEST_MODE, PORT.LOOPBACK, PORT.FEC_CLEAR, PORT.RESTART, PORT.LINK_STATE, PORT.LINK_UP, PORT.LF_RX, PORT.RF_RX, PORT.HI_SER, PORT.DESKEW_OK, PORT.AM_LOCKED, PORT.PCS_LANES, PORT.LP_PAUSE]
def PORT.part1 : List Fld := [PORT.AN_DONE, PORT.TRAIN_DONE, PORT.EV_LINK_UP_EVT, PORT.IE_LINK_UP_EVT, PORT.EV_LINK_DOWN_EVT, PORT.IE_LINK_DOWN_EVT, PORT.EV_AN_FAIL, PORT.IE_AN_FAIL, PORT.EV_TRAIN_FAIL, PORT.IE_TRAIN_FAIL, PORT.EV_ALIGN_TIMEOUT_EVT, PORT.IE_ALIGN_TIMEOUT_EVT, PORT.EV_STORM_ENTER, PORT.IE_STORM_ENTER, PORT.EV_STORM_EXIT, PORT.IE_STORM_EXIT]
def PORT.part2 : List Fld := [PORT.EV_HI_SER_EVT, PORT.IE_HI_SER_EVT, PORT.LINK_DEBOUNCE, PORT.ALIGN_TIMEOUT, PORT.MAC_SA, PORT.FC_MODE, PORT.PFC_TX_EN, PORT.PFC_RX_EN, PORT.XOFF_QUANTA, PORT.REFRESH, PORT.RX_PAUSED, PORT.TX_ASSERTED, PORT.STORM_ACTIVE, PORT.T_STORM, PORT.HYST, PORT.STORM_EN]
def PORT.part3 : List Fld := [PORT.FCS_ERR, PORT.RUNT, PORT.OVERSIZE, PORT.RX_ERRORS, PORT.MAC_CTRL_OTHER, PORT.PAUSE_IGNORED, PORT.TX_UNDERRUN, PORT.LINK_FLAPS, PORT.PAUSE_RX, PORT.PAUSE_TX, PORT.XON_RX, PORT.XON_TX, PORT.PFC_RX_XOFF, PORT.PFC_TX_XOFF, PORT.STORM_DISCARDS, PORT.CW_TOTAL]
def PORT.part4 : List Fld := [PORT.CW_CORR, PORT.CW_UNCORR, PORT.SYM_CORR, PORT.FEC_BIN]
def PORT.fields : List Fld := PORT.part0 ++ PORT.part1 ++ PORT.part2 ++ PORT.part3 ++ PORT.part4

/-! ### PARSE -/
def PARSE.GRAPH : Fld := ⟨0x00600000, 0, 6, 0x1000, 64, 0x0, 1, .ro, 0, .const, [], false⟩
def PARSE.START_STATE : Fld := ⟨0x00600000, 8, 8, 0x1000, 64, 0x0, 1, .ro, 0, .const, [], false⟩
def PARSE.CAUSE_ACTION : Fld := ⟨0x00600004, 0, 16, 0x1000, 64, 0x0, 1, .rw, 0, .const, [], false⟩
def PARSE.MALF_RING : Fld := ⟨0x00600004, 16, 6, 0x1000, 64, 0x0, 1, .rw, 0, .const, [], false⟩
def PARSE.SP_ENABLE : Fld := ⟨0x00600008, 0, 4, 0x1000, 64, 0x0, 1, .rw, 0, .const, [], false⟩
def PARSE.SP_RING1 : Fld := ⟨0x0060000c, 0, 6, 0x1000, 64, 0x0, 1, .rw, 0, .const, [], false⟩
def PARSE.SP_RING2 : Fld := ⟨0x0060000c, 8, 6, 0x1000, 64, 0x0, 1, .rw, 0, .const, [], false⟩
def PARSE.SP_RING3 : Fld := ⟨0x0060000c, 16, 6, 0x1000, 64, 0x0, 1, .rw, 0, .const, [], false⟩
def PARSE.SP_RING4 : Fld := ⟨0x0060000c, 24, 6, 0x1000, 64, 0x0, 1, .rw, 0, .const, [], false⟩
def PARSE.SP_RING5 : Fld := ⟨0x00600010, 0, 6, 0x1000, 64, 0x0, 1, .rw, 0, .const, [], false⟩
def PARSE.SP_RING6 : Fld := ⟨0x00600010, 8, 6, 0x1000, 64, 0x0, 1, .rw, 0, .const, [], false⟩
def PARSE.MIRROR_QUEUE : Fld := ⟨0x00600014, 0, 19, 0x1000, 64, 0x0, 1, .rw, 0, .const, [], false⟩
def PARSE.RUNT_MIN : Fld := ⟨0x00600018, 0, 9, 0x1000, 64, 0x0, 1, .rw, 0, .const, [(0, 63, 64), (257, 511, 256)], false⟩
def PARSE.PASSES : Fld := ⟨0x00600020, 0, 64, 0x1000, 64, 0x0, 1, .ro, 0, .const, [], false⟩
def PARSE.LM_CAUSE : Fld := ⟨0x00600028, 0, 4, 0x1000, 64, 0x0, 1, .ro, 0, .const, [], false⟩
def PARSE.LM_STATE : Fld := ⟨0x00600028, 8, 8, 0x1000, 64, 0x0, 1, .ro, 0, .const, [], false⟩
def PARSE.LM_CURSOR : Fld := ⟨0x00600028, 16, 10, 0x1000, 64, 0x0, 1, .ro, 0, .const, [], false⟩
def PARSE.LM_VALID : Fld := ⟨0x00600028, 31, 1, 0x1000, 64, 0x0, 1, .w1c, 0, .const, [], false⟩
def PARSE.MALF_COUNT : Fld := ⟨0x00600040, 0, 32, 0x1000, 64, 0x4, 8, .rc, 0, .const, [], false⟩
def PARSE.LATE_SHORT : Fld := ⟨0x00600060, 0, 32, 0x1000, 64, 0x0, 1, .rc, 0, .const, [], false⟩
def PARSE.SP_COUNT : Fld := ⟨0x00600080, 0, 32, 0x1000, 64, 0x4, 7, .rc, 0, .const, [], false⟩
def PARSE.SP_POLICED : Fld := ⟨0x006000a0, 0, 32, 0x1000, 64, 0x4, 7, .rc, 0, .const, [], false⟩
def PARSE.POL_RATE : Fld := ⟨0x00600100, 0, 32, 0x1000, 64, 0x8, 7, .rw, 0, .const, [], false⟩
def PARSE.POL_BURST : Fld := ⟨0x00600104, 0, 16, 0x1000, 64, 0x8, 7, .rw, 0, .const, [(0, 0, 1)], false⟩
def PARSE.part0 : List Fld := [PARSE.GRAPH, PARSE.START_STATE, PARSE.CAUSE_ACTION, PARSE.MALF_RING, PARSE.SP_ENABLE, PARSE.SP_RING1, PARSE.SP_RING2, PARSE.SP_RING3, PARSE.SP_RING4, PARSE.SP_RING5, PARSE.SP_RING6, PARSE.MIRROR_QUEUE, PARSE.RUNT_MIN, PARSE.PASSES, PARSE.LM_CAUSE, PARSE.LM_STATE]
def PARSE.part1 : List Fld := [PARSE.LM_CURSOR, PARSE.LM_VALID, PARSE.MALF_COUNT, PARSE.LATE_SHORT, PARSE.SP_COUNT, PARSE.SP_POLICED, PARSE.POL_RATE, PARSE.POL_BURST]
def PARSE.fields : List Fld := PARSE.part0 ++ PARSE.part1

/-! ### FIL -/
def FIL.SPLIT : Fld := ⟨0x00770000, 0, 1, 0x0, 1, 0x0, 1, .ro, 0, .const, [], false⟩
def FIL.SET_COUNT : Fld := ⟨0x00770000, 1, 7, 0x0, 1, 0x0, 1, .ro, 0, .const, [], false⟩
def FIL.NODE_BASE : Fld := ⟨0x00770100, 0, 19, 0x20, 64, 0x0, 1, .ro, 0, .const, [], false⟩
def FIL.KEY_BITS : Fld := ⟨0x00770104, 0, 9, 0x20, 64, 0x0, 1, .ro, 0, .const, [], false⟩
def FIL.RULE_COUNT : Fld := ⟨0x00770108, 0, 18, 0x20, 64, 0x0, 1, .ro, 0, .const, [], false⟩
def FIL.ROOT : Fld := ⟨0x0077010c, 0, 19, 0x20, 64, 0x0, 1, .ro, 0, .const, [], false⟩
def FIL.LOOKUPS : Fld := ⟨0x00770110, 0, 32, 0x20, 64, 0x0, 1, .rc, 0, .const, [], false⟩
def FIL.HITS : Fld := ⟨0x00770114, 0, 32, 0x20, 64, 0x0, 1, .rc, 0, .const, [], false⟩
def FIL.ERRORS : Fld := ⟨0x00770118, 0, 32, 0x20, 64, 0x0, 1, .rc, 0, .const, [], false⟩
def FIL.part0 : List Fld := [FIL.SPLIT, FIL.SET_COUNT, FIL.NODE_BASE, FIL.KEY_BITS, FIL.RULE_COUNT, FIL.ROOT, FIL.LOOKUPS, FIL.HITS, FIL.ERRORS]
def FIL.fields : List Fld := FIL.part0

/-! ### EM -/
def EM.TABLE_COUNT : Fld := ⟨0x00700000, 0, 5, 0x0, 1, 0x0, 1, .ro, 0, .const, [], false⟩
def EM.ENGINE_BUSY : Fld := ⟨0x00700000, 8, 1, 0x0, 1, 0x0, 1, .ro, 0, .const, [], false⟩
def EM.ECC_CORR : Fld := ⟨0x00700004, 0, 32, 0x0, 1, 0x0, 1, .rc, 0, .const, [], false⟩
def EM.CMD_TABLE : Fld := ⟨0x00700010, 0, 4, 0x0, 1, 0x0, 1, .wo, 0, .const, [], false⟩
def EM.CMD_OPCODE : Fld := ⟨0x00700010, 4, 4, 0x0, 1, 0x0, 1, .wo, 0, .const, [], false⟩
def EM.CMD_CODE : Fld := ⟨0x00700014, 0, 4, 0x0, 1, 0x0, 1, .ro, 0, .const, [], false⟩
def EM.CMD_BUSY : Fld := ⟨0x00700014, 4, 1, 0x0, 1, 0x0, 1, .ro, 0, .const, [], false⟩
def EM.CMD_DONE : Fld := ⟨0x00700014, 5, 1, 0x0, 1, 0x0, 1, .w1c, 0, .const, [], false⟩
def EM.CMD_CMD_OVERRUN : Fld := ⟨0x00700014, 6, 1, 0x0, 1, 0x0, 1, .w1c, 0, .const, [], false⟩
def EM.CMD_LOCATION : Fld := ⟨0x00700014, 8, 23, 0x0, 1, 0x0, 1, .ro, 0, .const, [], false⟩
def EM.CMD_IN_STASH : Fld := ⟨0x00700014, 31, 1, 0x0, 1, 0x0, 1, .ro, 0, .const, [], false⟩
def EM.CMD_KEY : Fld := ⟨0x00700020, 0, 32, 0x4, 7, 0x0, 1, .rw, 0, .const, [], false⟩
def EM.CMD_RESULT : Fld := ⟨0x0070003c, 0, 32, 0x0, 1, 0x0, 1, .rw, 0, .const, [], false⟩
def EM.CMD_FLAGS : Fld := ⟨0x00700040, 0, 16, 0x0, 1, 0x0, 1, .rw, 0, .const, [], false⟩
def EM.T_ENTRIES : Fld := ⟨0x00701000, 0, 23, 0x40, 16, 0x0, 1, .ro, 0, .const, [], false⟩
def EM.T_STASHED : Fld := ⟨0x00701004, 0, 12, 0x40, 16, 0x0, 1, .ro, 0, .const, [], false⟩
def EM.T_AGE_PERIOD : Fld := ⟨0x00701008, 0, 12, 0x40, 16, 0x0, 1, .rw, 0, .const, [(0, 0, 1), (3601, 4095, 3600)], false⟩
def EM.T_LEARN_RATE : Fld := ⟨0x0070100c, 0, 32, 0x40, 16, 0x0, 1, .rw, 0, .const, [], false⟩
def EM.T_LEARN_BURST : Fld := ⟨0x00701010, 0, 16, 0x40, 16, 0x0, 1, .rw, 0, .const, [(0, 0, 1)], false⟩
def EM.T_LOOKUPS : Fld := ⟨0x00701014, 0, 32, 0x40, 16, 0x0, 1, .rc, 0, .const, [], false⟩
def EM.T_HITS : Fld := ⟨0x00701018, 0, 32, 0x40, 16, 0x0, 1, .rc, 0, .const, [], false⟩
def EM.T_LEARNS : Fld := ⟨0x0070101c, 0, 32, 0x40, 16, 0x0, 1, .rc, 0, .const, [], false⟩
def EM.T_LEARN_DROP : Fld := ⟨0x00701020, 0, 32, 0x40, 16, 0x0, 1, .rc, 0, .const, [], false⟩
def EM.T_LEARN_FAIL : Fld := ⟨0x00701024, 0, 32, 0x40, 16, 0x0, 1, .rc, 0, .const, [], false⟩
def EM.T_AGED : Fld := ⟨0x00701028, 0, 32, 0x40, 16, 0x0, 1, .rc, 0, .const, [], false⟩
def EM.T_AGE_SKIPPED : Fld := ⟨0x0070102c, 0, 32, 0x40, 16, 0x0, 1, .rc, 0, .const, [], false⟩
def EM.T_NOTICE_LOST : Fld := ⟨0x00701030, 0, 32, 0x40, 16, 0x0, 1, .rc, 0, .const, [], false⟩
def EM.T_DUPLICATES : Fld := ⟨0x00701034, 0, 32, 0x40, 16, 0x0, 1, .rc, 0, .const, [], false⟩
def EM.T_ERRORS : Fld := ⟨0x00701038, 0, 32, 0x40, 16, 0x0, 1, .rc, 0, .const, [], false⟩
def EM.REQ : Fld := ⟨0x00710000, 0, 32, 0x4, 256, 0x0, 1, .rw, 0, .const, [], false⟩
def EM.HELD : Fld := ⟨0x00710400, 0, 32, 0x4, 256, 0x0, 1, .ro, 0, .const, [], false⟩
def EM.part0 : List Fld := [EM.TABLE_COUNT, EM.ENGINE_BUSY, EM.ECC_CORR, EM.CMD_TABLE, EM.CMD_OPCODE, EM.CMD_CODE, EM.CMD_BUSY, EM.CMD_DONE, EM.CMD_CMD_OVERRUN, EM.CMD_LOCATION, EM.CMD_IN_STASH, EM.CMD_KEY, EM.CMD_RESULT, EM.CMD_FLAGS, EM.T_ENTRIES, EM.T_STASHED]
def EM.part1 : List Fld := [EM.T_AGE_PERIOD, EM.T_LEARN_RATE, EM.T_LEARN_BURST, EM.T_LOOKUPS, EM.T_HITS, EM.T_LEARNS, EM.T_LEARN_DROP, EM.T_LEARN_FAIL, EM.T_AGED, EM.T_AGE_SKIPPED, EM.T_NOTICE_LOST, EM.T_DUPLICATES, EM.T_ERRORS, EM.REQ, EM.HELD]
def EM.fields : List Fld := EM.part0 ++ EM.part1

/-! ### ASE -/
def ASE.PART_COUNT : Fld := ⟨0x00740000, 0, 7, 0x0, 1, 0x0, 1, .ro, 0, .const, [], false⟩
def ASE.ENGINE_BUSY : Fld := ⟨0x00740000, 8, 1, 0x0, 1, 0x0, 1, .ro, 0, .const, [], false⟩
def ASE.SRAM_CORR : Fld := ⟨0x00740004, 0, 32, 0x0, 1, 0x0, 1, .rc, 0, .const, [], false⟩
def ASE.PL_BANK : Fld := ⟨0x00740008, 0, 10, 0x0, 1, 0x0, 1, .ro, 0, .const, [], false⟩
def ASE.PL_INDEX : Fld := ⟨0x00740008, 11, 11, 0x0, 1, 0x0, 1, .ro, 0, .const, [], false⟩
def ASE.PL_REPAIRED : Fld := ⟨0x00740008, 22, 1, 0x0, 1, 0x0, 1, .ro, 0, .const, [], false⟩
def ASE.PL_BY_SEARCH : Fld := ⟨0x00740008, 23, 1, 0x0, 1, 0x0, 1, .ro, 0, .const, [], false⟩
def ASE.PL_VALID : Fld := ⟨0x00740008, 31, 1, 0x0, 1, 0x0, 1, .w1c, 0, .const, [], false⟩
def ASE.CMD_PARTITION : Fld := ⟨0x00740010, 0, 6, 0x0, 1, 0x0, 1, .wo, 0, .const, [], false⟩
def ASE.CMD_OPCODE : Fld := ⟨0x00740010, 8, 4, 0x0, 1, 0x0, 1, .wo, 0, .const, [], false⟩
def ASE.CMD_REPLICA : Fld := ⟨0x00740010, 16, 7, 0x0, 1, 0x0, 1, .wo, 0, .const, [], false⟩
def ASE.POS_BANK : Fld := ⟨0x00740014, 0, 10, 0x0, 1, 0x0, 1, .rw, 0, .const, [], false⟩
def ASE.POS_INDEX : Fld := ⟨0x00740014, 16, 11, 0x0, 1, 0x0, 1, .rw, 0, .const, [], false⟩
def ASE.CMD_CODE : Fld := ⟨0x00740018, 0, 4, 0x0, 1, 0x0, 1, .ro, 0, .const, [], false⟩
def ASE.CMD_BUSY : Fld := ⟨0x00740018, 4, 1, 0x0, 1, 0x0, 1, .ro, 0, .const, [], false⟩
def ASE.CMD_DONE : Fld := ⟨0x00740018, 5, 1, 0x0, 1, 0x0, 1, .w1c, 0, .const, [], false⟩
def ASE.CMD_CMD_OVERRUN : Fld := ⟨0x00740018, 6, 1, 0x0, 1, 0x0, 1, .w1c, 0, .const, [], false⟩
def ASE.CMD_MULTI : Fld := ⟨0x00740018, 7, 1, 0x0, 1, 0x0, 1, .ro, 0, .const, [], false⟩
def ASE.CMD_MOVES : Fld := ⟨0x0074001c, 0, 32, 0x0, 1, 0x0, 1, .ro, 0, .const, [], false⟩
def ASE.OP_KEY : Fld := ⟨0x00740020, 0, 32, 0x4, 10, 0x0, 1, .rw, 0, .const, [], false⟩
def ASE.OP_MASK : Fld := ⟨0x00740050, 0, 32, 0x4, 10, 0x0, 1, .rw, 0, .const, [], false⟩
def ASE.OP_PRIORITY : Fld := ⟨0x00740080, 0, 16, 0x0, 1, 0x0, 1, .rw, 0, .const, [], false⟩
def ASE.OP_USER : Fld := ⟨0x00740080, 16, 8, 0x0, 1, 0x0, 1, .rw, 0, .const, [], false⟩
def ASE.OP_RESULT : Fld := ⟨0x00740084, 0, 32, 0x0, 1, 0x0, 1, .rw, 0, .const, [], false⟩
def ASE.F_BANK : Fld := ⟨0x00740088, 0, 10, 0x0, 1, 0x0, 1, .ro, 0, .const, [], false⟩
def ASE.F_INDEX : Fld := ⟨0x00740088, 11, 11, 0x0, 1, 0x0, 1, .ro, 0, .const, [], false⟩
def ASE.F_SHADOW : Fld := ⟨0x00740088, 22, 1, 0x0, 1, 0x0, 1, .ro, 0, .const, [], false⟩
def ASE.F_FOUND : Fld := ⟨0x00740088, 31, 1, 0x0, 1, 0x0, 1, .ro, 0, .const, [], false⟩
def ASE.P_ENTRIES : Fld := ⟨0x00741000, 0, 22, 0x40, 64, 0x0, 1, .ro, 0, .const, [], false⟩
def ASE.P_BANK_BASE : Fld := ⟨0x00741004, 0, 10, 0x40, 64, 0x0, 1, .ro, 0, .const, [], false⟩
def ASE.P_BANK_COUNT : Fld := ⟨0x00741004, 11, 11, 0x40, 64, 0x0, 1, .ro, 0, .const, [], false⟩
def ASE.P_WIDE : Fld := ⟨0x00741004, 22, 1, 0x40, 64, 0x0, 1, .ro, 0, .const, [], false⟩
def ASE.P_GAPPED : Fld := ⟨0x00741004, 23, 1, 0x40, 64, 0x0, 1, .ro, 0, .const, [], false⟩
def ASE.P_REPLICAS : Fld := ⟨0x00741004, 24, 8, 0x40, 64, 0x0, 1, .ro, 0, .const, [], false⟩
def ASE.P_GAP : Fld := ⟨0x00741008, 0, 7, 0x40, 64, 0x0, 1, .ro, 0, .const, [], false⟩
def ASE.P_SEL_BITS : Fld := ⟨0x00741008, 8, 4, 0x40, 64, 0x0, 1, .ro, 0, .const, [], false⟩
def ASE.P_MISS_RESULT : Fld := ⟨0x0074100c, 0, 32, 0x40, 64, 0x0, 1, .ro, 0, .const, [], false⟩
def ASE.P_SEARCHES : Fld := ⟨0x00741010, 0, 32, 0x40, 64, 0x0, 1, .rc, 0, .const, [], false⟩
def ASE.P_HITS : Fld := ⟨0x00741014, 0, 32, 0x40, 64, 0x0, 1, .rc, 0, .const, [], false⟩
def ASE.P_MULTI_HITS : Fld := ⟨0x00741018, 0, 32, 0x40, 64, 0x0, 1, .rc, 0, .const, [], false⟩
def ASE.P_ERRORS : Fld := ⟨0x0074101c, 0, 32, 0x40, 64, 0x0, 1, .rc, 0, .const, [], false⟩
def ASE.P_MOVES : Fld := ⟨0x00741020, 0, 32, 0x40, 64, 0x0, 1, .rc, 0, .const, [], false⟩
def ASE.P_OVERLOAD : Fld := ⟨0x00741024, 0, 32, 0x40, 64, 0x0, 1, .rc, 0, .const, [], false⟩
def ASE.P_PEAK_BANK : Fld := ⟨0x00741028, 0, 10, 0x40, 64, 0x0, 1, .ro, 0, .const, [], false⟩
def ASE.P_PEAK_LOAD : Fld := ⟨0x00741028, 16, 16, 0x40, 64, 0x0, 1, .ro, 0, .const, [], false⟩
def ASE.REQ : Fld := ⟨0x00750000, 0, 32, 0x4, 32, 0x0, 1, .rw, 0, .const, [], false⟩
def ASE.HELD : Fld := ⟨0x00750080, 0, 32, 0x4, 32, 0x0, 1, .ro, 0, .const, [], false⟩
def ASE.part0 : List Fld := [ASE.PART_COUNT, ASE.ENGINE_BUSY, ASE.SRAM_CORR, ASE.PL_BANK, ASE.PL_INDEX, ASE.PL_REPAIRED, ASE.PL_BY_SEARCH, ASE.PL_VALID, ASE.CMD_PARTITION, ASE.CMD_OPCODE, ASE.CMD_REPLICA, ASE.POS_BANK, ASE.POS_INDEX, ASE.CMD_CODE, ASE.CMD_BUSY, ASE.CMD_DONE]
def ASE.part1 : List Fld := [ASE.CMD_CMD_OVERRUN, ASE.CMD_MULTI, ASE.CMD_MOVES, ASE.OP_KEY, ASE.OP_MASK, ASE.OP_PRIORITY, ASE.OP_USER, ASE.OP_RESULT, ASE.F_BANK, ASE.F_INDEX, ASE.F_SHADOW, ASE.F_FOUND, ASE.P_ENTRIES, ASE.P_BANK_BASE, ASE.P_BANK_COUNT, ASE.P_WIDE]
def ASE.part2 : List Fld := [ASE.P_GAPPED, ASE.P_REPLICAS, ASE.P_GAP, ASE.P_SEL_BITS, ASE.P_MISS_RESULT, ASE.P_SEARCHES, ASE.P_HITS, ASE.P_MULTI_HITS, ASE.P_ERRORS, ASE.P_MOVES, ASE.P_OVERLOAD, ASE.P_PEAK_BANK, ASE.P_PEAK_LOAD, ASE.REQ, ASE.HELD]
def ASE.fields : List Fld := ASE.part0 ++ ASE.part1 ++ ASE.part2

/-! ### MAP -/
def MAP.PROFILE_COUNT : Fld := ⟨0x00800000, 0, 7, 0x0, 1, 0x0, 1, .ro, 0, .const, [], false⟩
def MAP.AREA_WORDS : Fld := ⟨0x00800000, 8, 11, 0x0, 1, 0x0, 1, .ro, 0, .const, [], false⟩
def MAP.PROFILE : Fld := ⟨0x00801000, 0, 6, 0x100, 64, 0x0, 1, .ro, 0, .const, [], false⟩
def MAP.RECIRC_OUT : Fld := ⟨0x00801004, 0, 32, 0x100, 64, 0x0, 1, .rc, 0, .const, [], false⟩
def MAP.RECIRC_LIMIT : Fld := ⟨0x00801008, 0, 32, 0x100, 64, 0x0, 1, .rc, 0, .const, [], false⟩
def MAP.VERDICT_DROPS : Fld := ⟨0x0080100c, 0, 32, 0x100, 64, 0x0, 1, .rc, 0, .const, [], false⟩
def MAP.NO_DEST : Fld := ⟨0x00801010, 0, 32, 0x100, 64, 0x0, 1, .rc, 0, .const, [], false⟩
def MAP.EG_DROPS : Fld := ⟨0x00801014, 0, 32, 0x100, 64, 0x0, 1, .rc, 0, .const, [], false⟩
def MAP.ACTION_ERR : Fld := ⟨0x00801018, 0, 32, 0x100, 64, 0x0, 1, .rc, 0, .const, [], false⟩
def MAP.COUNT_RANGE : Fld := ⟨0x0080101c, 0, 32, 0x100, 64, 0x0, 1, .rc, 0, .const, [], false⟩
def MAP.EDIT_ERR : Fld := ⟨0x00801020, 0, 32, 0x100, 64, 0x0, 1, .rc, 0, .const, [], false⟩
def MAP.EDIT_OVERSIZE : Fld := ⟨0x00801024, 0, 32, 0x100, 64, 0x0, 1, .rc, 0, .const, [], false⟩
def MAP.EDIT_PAD : Fld := ⟨0x00801028, 0, 32, 0x100, 64, 0x0, 1, .rc, 0, .const, [], false⟩
def MAP.LE_STAGE : Fld := ⟨0x00801030, 0, 5, 0x100, 64, 0x0, 1, .ro, 0, .const, [], false⟩
def MAP.LE_KIND : Fld := ⟨0x00801030, 5, 3, 0x100, 64, 0x0, 1, .ro, 0, .const, [], false⟩
def MAP.LE_WORD : Fld := ⟨0x00801030, 8, 10, 0x100, 64, 0x0, 1, .ro, 0, .const, [], false⟩
def MAP.LE_VALID : Fld := ⟨0x00801030, 31, 1, 0x100, 64, 0x0, 1, .w1c, 0, .const, [], false⟩
def MAP.part0 : List Fld := [MAP.PROFILE_COUNT, MAP.AREA_WORDS, MAP.PROFILE, MAP.RECIRC_OUT, MAP.RECIRC_LIMIT, MAP.VERDICT_DROPS, MAP.NO_DEST, MAP.EG_DROPS, MAP.ACTION_ERR, MAP.COUNT_RANGE, MAP.EDIT_ERR, MAP.EDIT_OVERSIZE, MAP.EDIT_PAD, MAP.LE_STAGE, MAP.LE_KIND, MAP.LE_WORD]
def MAP.part1 : List Fld := [MAP.LE_VALID]
def MAP.fields : List Fld := MAP.part0 ++ MAP.part1

/-! ### CRUC -/
def CRUC.LEGACY_ARB : Fld := ⟨0x00900000, 0, 1, 0x0, 1, 0x0, 1, .ro, 0, .const, [], false⟩
def CRUC.CT_EN : Fld := ⟨0x00900000, 1, 1, 0x0, 1, 0x0, 1, .rw, 1, .const, [], false⟩
def CRUC.SHARED_FREE : Fld := ⟨0x00900004, 0, 22, 0x0, 1, 0x0, 1, .ro, 0, .const, [], false⟩
def CRUC.SHARED_SIZE : Fld := ⟨0x00900008, 0, 22, 0x0, 1, 0x0, 1, .ro, 0, .const, [], false⟩
def CRUC.BASE_UNIT : Fld := ⟨0x00900010, 0, 10, 0x10, 4, 0x0, 1, .ro, 0, .const, [], false⟩
def CRUC.UNITS : Fld := ⟨0x00900010, 10, 10, 0x10, 4, 0x0, 1, .ro, 0, .const, [], false⟩
def CRUC.SIZE : Fld := ⟨0x00900010, 20, 6, 0x10, 4, 0x0, 1, .ro, 0, .const, [], false⟩
def CRUC.INGOTS : Fld := ⟨0x00900014, 0, 21, 0x10, 4, 0x0, 1, .ro, 0, .const, [], false⟩
def CRUC.FREE : Fld := ⟨0x00900018, 0, 21, 0x10, 4, 0x0, 1, .ro, 0, .const, [], false⟩
def CRUC.QUARANTINED : Fld := ⟨0x0090001c, 0, 21, 0x10, 4, 0x0, 1, .ro, 0, .const, [], false⟩
def CRUC.HR_RESERVE : Fld := ⟨0x00900050, 0, 21, 0x0, 1, 0x0, 1, .ro, 0, .const, [], false⟩
def CRUC.HR_IN_USE : Fld := ⟨0x00900054, 0, 21, 0x0, 1, 0x0, 1, .ro, 0, .const, [], false⟩
def CRUC.ALLOC : Fld := ⟨0x00900060, 0, 32, 0x4, 4, 0x0, 1, .rc, 0, .const, [], false⟩
def CRUC.FALLBACK : Fld := ⟨0x00900070, 0, 32, 0x4, 4, 0x0, 1, .rc, 0, .const, [], false⟩
def CRUC.EXHAUSTED : Fld := ⟨0x00900080, 0, 32, 0x4, 4, 0x0, 1, .rc, 0, .const, [], false⟩
def CRUC.CHAIN_FRAMES : Fld := ⟨0x00900090, 0, 32, 0x0, 1, 0x0, 1, .rc, 0, .const, [], false⟩
def CRUC.SPILL_FRAMES : Fld := ⟨0x00900094, 0, 32, 0x0, 1, 0x0, 1, .rc, 0, .const, [], false⟩
def CRUC.SPILL_SEGS : Fld := ⟨0x00900098, 0, 32, 0x0, 1, 0x0, 1, .rc, 0, .const, [], false⟩
def CRUC.SPILL_FAIL : Fld := ⟨0x0090009c, 0, 32, 0x0, 1, 0x0, 1, .rc, 0, .const, [], false⟩
def CRUC.HANDLE_ERR : Fld := ⟨0x009000a0, 0, 32, 0x0, 1, 0x0, 1, .rc, 0, .const, [], false⟩
def CRUC.CT_FRAMES : Fld := ⟨0x009000a4, 0, 32, 0x0, 1, 0x0, 1, .rc, 0, .const, [], false⟩
def CRUC.CT_STOMPED : Fld := ⟨0x009000a8, 0, 32, 0x0, 1, 0x0, 1, .rc, 0, .const, [], false⟩
def CRUC.PARSE_ABANDON : Fld := ⟨0x009000ac, 0, 32, 0x0, 1, 0x0, 1, .rc, 0, .const, [], false⟩
def CRUC.HOLD_FULL : Fld := ⟨0x009000b0, 0, 32, 0x0, 1, 0x0, 1, .rc, 0, .const, [], false⟩
def CRUC.SEG_LOST : Fld := ⟨0x009000b4, 0, 32, 0x0, 1, 0x0, 1, .rc, 0, .const, [], false⟩
def CRUC.CORR : Fld := ⟨0x009000b8, 0, 32, 0x0, 1, 0x0, 1, .rc, 0, .const, [], false⟩
def CRUC.REBUILT : Fld := ⟨0x009000bc, 0, 32, 0x0, 1, 0x0, 1, .rc, 0, .const, [], false⟩
def CRUC.QL_SLOT : Fld := ⟨0x009000c0, 0, 21, 0x0, 1, 0x0, 1, .ro, 0, .const, [], false⟩
def CRUC.QL_POOL : Fld := ⟨0x009000c0, 21, 2, 0x0, 1, 0x0, 1, .ro, 0, .const, [], false⟩
def CRUC.QL_CHECK : Fld := ⟨0x009000c0, 23, 3, 0x0, 1, 0x0, 1, .ro, 0, .const, [], false⟩
def CRUC.QL_VALID : Fld := ⟨0x009000c0, 31, 1, 0x0, 1, 0x0, 1, .w1c, 0, .const, [], false⟩
def CRUC.CE_LIMIT : Fld := ⟨0x00900100, 0, 16, 0x0, 1, 0x0, 1, .rw, 16, .const, [(0, 0, 1)], false⟩
def CRUC.CE_WINDOW : Fld := ⟨0x00900100, 16, 16, 0x0, 1, 0x0, 1, .rw, 1000, .const, [(0, 0, 1)], false⟩
def CRUC.MC_BANK : Fld := ⟨0x00900104, 0, 12, 0x0, 1, 0x0, 1, .wo, 0, .const, [], false⟩
def CRUC.MC_GO : Fld := ⟨0x00900104, 12, 1, 0x0, 1, 0x0, 1, .wo, 0, .const, [], false⟩
def CRUC.MS_BANK : Fld := ⟨0x00900108, 0, 12, 0x0, 1, 0x0, 1, .ro, 0, .const, [], false⟩
def CRUC.MS_ACTIVE : Fld := ⟨0x00900108, 12, 1, 0x0, 1, 0x0, 1, .ro, 0, .const, [], false⟩
def CRUC.MS_DONE : Fld := ⟨0x00900108, 13, 1, 0x0, 1, 0x0, 1, .w1c, 0, .const, [], false⟩
def CRUC.MS_SPARES_LEFT : Fld := ⟨0x00900108, 14, 7, 0x0, 1, 0x0, 1, .ro, 0, .const, [], true⟩
def CRUC.MS_DEGRADED : Fld := ⟨0x00900108, 21, 1, 0x0, 1, 0x0, 1, .ro, 0, .const, [], false⟩
def CRUC.SM_REPLACES : Fld := ⟨0x00900200, 0, 12, 0x4, 64, 0x0, 1, .ro, 0, .const, [], true⟩
def CRUC.SM_USED : Fld := ⟨0x00900200, 31, 1, 0x4, 64, 0x0, 1, .ro, 0, .const, [], true⟩
def CRUC.RP_MIN : Fld := ⟨0x00901000, 0, 16, 0x10, 64, 0x0, 1, .rw, 0, .const, [], false⟩
def CRUC.RP_HDRM : Fld := ⟨0x00901000, 16, 16, 0x10, 64, 0x0, 1, .rw, 0, .const, [], false⟩
def CRUC.RP_FIFO_XOFF : Fld := ⟨0x00901004, 0, 11, 0x10, 64, 0x0, 1, .rw, 0, .const, [(0, 0, 1), (1025, 2047, 1024)], false⟩
def CRUC.RP_FIFO_XON : Fld := ⟨0x00901004, 16, 11, 0x10, 64, 0x0, 1, .rw, 0, .const, [], false⟩
def CRUC.RP_XON_DELTA : Fld := ⟨0x00901008, 0, 16, 0x10, 64, 0x0, 1, .rw, 0, .const, [], false⟩
def CRUC.RP_ALPHA : Fld := ⟨0x00901008, 16, 4, 0x10, 64, 0x0, 1, .rw, 0, .const, [(11, 14, 10)], false⟩
def CRUC.RP_SHR_MAX : Fld := ⟨0x0090100c, 0, 22, 0x10, 64, 0x0, 1, .rw, 0, .const, [], false⟩
def CRUC.Q_MIN : Fld := ⟨0x00902000, 0, 22, 0x8, 64, 0x0, 1, .rw, 0, .const, [], false⟩
def CRUC.BETA : Fld := ⟨0x00902004, 0, 4, 0x8, 64, 0x0, 1, .rw, 0, .const, [(11, 14, 10)], false⟩
def CRUC.MAP_PROFILE0 : Fld := ⟨0x00904000, 0, 6, 0x4, 2178, 0x0, 1, .rw, 0, .const, [], false⟩
def CRUC.MAP_PROFILE1 : Fld := ⟨0x00904000, 8, 6, 0x4, 2178, 0x0, 1, .rw, 0, .const, [], false⟩
def CRUC.MAP_PROFILE2 : Fld := ⟨0x00904000, 16, 6, 0x4, 2178, 0x0, 1, .rw, 0, .const, [], false⟩
def CRUC.MAP_PROFILE3 : Fld := ⟨0x00904000, 24, 6, 0x4, 2178, 0x0, 1, .rw, 0, .const, [], false⟩
def CRUC.CT_MASK : Fld := ⟨0x00908000, 0, 16, 0x4, 1024, 0x0, 1, .rw, 0, .const, [], false⟩
def CRUC.MIN_USED : Fld := ⟨0x00910000, 0, 16, 0x10, 8712, 0x0, 1, .ro, 0, .const, [], false⟩
def CRUC.FIFO_USED : Fld := ⟨0x00910000, 16, 11, 0x10, 8712, 0x0, 1, .ro, 0, .const, [], false⟩
def CRUC.SHR_USED : Fld := ⟨0x00910004, 0, 22, 0x10, 8712, 0x0, 1, .ro, 0, .const, [], false⟩
def CRUC.HDRM_USED : Fld := ⟨0x00910008, 0, 16, 0x10, 8712, 0x0, 1, .ro, 0, .const, [], false⟩
def CRUC.XOFF : Fld := ⟨0x00910008, 16, 1, 0x10, 8712, 0x0, 1, .ro, 0, .const, [], false⟩
def CRUC.HELD : Fld := ⟨0x00910008, 17, 1, 0x10, 8712, 0x0, 1, .ro, 0, .const, [], false⟩
def CRUC.HOLD_LEN : Fld := ⟨0x00910008, 18, 10, 0x10, 8712, 0x0, 1, .ro, 0, .const, [], false⟩
def CRUC.BREACH : Fld := ⟨0x0091000c, 0, 32, 0x10, 8712, 0x0, 1, .rc, 0, .const, [], false⟩
def CRUC.part0 : List Fld := [CRUC.LEGACY_ARB, CRUC.CT_EN, CRUC.SHARED_FREE, CRUC.SHARED_SIZE, CRUC.BASE_UNIT, CRUC.UNITS, CRUC.SIZE, CRUC.INGOTS, CRUC.FREE, CRUC.QUARANTINED, CRUC.HR_RESERVE, CRUC.HR_IN_USE, CRUC.ALLOC, CRUC.FALLBACK, CRUC.EXHAUSTED, CRUC.CHAIN_FRAMES]
def CRUC.part1 : List Fld := [CRUC.SPILL_FRAMES, CRUC.SPILL_SEGS, CRUC.SPILL_FAIL, CRUC.HANDLE_ERR, CRUC.CT_FRAMES, CRUC.CT_STOMPED, CRUC.PARSE_ABANDON, CRUC.HOLD_FULL, CRUC.SEG_LOST, CRUC.CORR, CRUC.REBUILT, CRUC.QL_SLOT, CRUC.QL_POOL, CRUC.QL_CHECK, CRUC.QL_VALID, CRUC.CE_LIMIT]
def CRUC.part2 : List Fld := [CRUC.CE_WINDOW, CRUC.MC_BANK, CRUC.MC_GO, CRUC.MS_BANK, CRUC.MS_ACTIVE, CRUC.MS_DONE, CRUC.MS_SPARES_LEFT, CRUC.MS_DEGRADED, CRUC.SM_REPLACES, CRUC.SM_USED, CRUC.RP_MIN, CRUC.RP_HDRM, CRUC.RP_FIFO_XOFF, CRUC.RP_FIFO_XON, CRUC.RP_XON_DELTA, CRUC.RP_ALPHA]
def CRUC.part3 : List Fld := [CRUC.RP_SHR_MAX, CRUC.Q_MIN, CRUC.BETA, CRUC.MAP_PROFILE0, CRUC.MAP_PROFILE1, CRUC.MAP_PROFILE2, CRUC.MAP_PROFILE3, CRUC.CT_MASK, CRUC.MIN_USED, CRUC.FIFO_USED, CRUC.SHR_USED, CRUC.HDRM_USED, CRUC.XOFF, CRUC.HELD, CRUC.HOLD_LEN, CRUC.BREACH]
def CRUC.fields : List Fld := CRUC.part0 ++ CRUC.part1 ++ CRUC.part2 ++ CRUC.part3

/-! ### QSCH -/
def QSCH.REPL_STALLED : Fld := ⟨0x00a00000, 0, 1, 0x0, 1, 0x0, 1, .ro, 0, .const, [], false⟩
def QSCH.POLICER_DROPS : Fld := ⟨0x00a00010, 0, 32, 0x0, 1, 0x0, 1, .rc, 0, .const, [], false⟩
def QSCH.MC_INVALID : Fld := ⟨0x00a00014, 0, 32, 0x0, 1, 0x0, 1, .rc, 0, .const, [], false⟩
def QSCH.MC_NO_COPY : Fld := ⟨0x00a00018, 0, 32, 0x0, 1, 0x0, 1, .rc, 0, .const, [], false⟩
def QSCH.REPL_STALLS : Fld := ⟨0x00a0001c, 0, 32, 0x0, 1, 0x0, 1, .rc, 0, .const, [], false⟩
def QSCH.ECN_SKIPPED : Fld := ⟨0x00a00020, 0, 32, 0x0, 1, 0x0, 1, .rc, 0, .const, [], false⟩
def QSCH.BAD_QUEUE : Fld := ⟨0x00a00024, 0, 32, 0x0, 1, 0x0, 1, .rc, 0, .const, [], false⟩
def QSCH.RES_USED : Fld := ⟨0x00a00100, 0, 14, 0x4, 64, 0x0, 1, .ro, 0, .const, [], false⟩
def QSCH.PORT_DOWN_HOLD : Fld := ⟨0x00a10000, 0, 7, 0x40, 1024, 0x0, 1, .rw, 0, .const, [(101, 127, 100)], false⟩
def QSCH.HOLD_ACTIVE : Fld := ⟨0x00a10000, 8, 1, 0x40, 1024, 0x0, 1, .ro, 0, .const, [], false⟩
def QSCH.GATE_EN : Fld := ⟨0x00a10004, 0, 1, 0x40, 1024, 0x0, 1, .rw, 0, .const, [], false⟩
def QSCH.ADMIN_LIST : Fld := ⟨0x00a10004, 1, 1, 0x40, 1024, 0x0, 1, .rw, 0, .const, [], false⟩
def QSCH.OPER_LIST : Fld := ⟨0x00a10004, 2, 1, 0x40, 1024, 0x0, 1, .ro, 0, .const, [], false⟩
def QSCH.OPER_VALID : Fld := ⟨0x00a10004, 3, 1, 0x40, 1024, 0x0, 1, .ro, 0, .const, [], false⟩
def QSCH.CONFIG_PENDING : Fld := ⟨0x00a10004, 4, 1, 0x40, 1024, 0x0, 1, .ro, 0, .const, [], false⟩
def QSCH.CONFIG_CHANGE : Fld := ⟨0x00a10004, 5, 1, 0x40, 1024, 0x0, 1, .wo, 0, .const, [], false⟩
def QSCH.CONFIG_ERR : Fld := ⟨0x00a10004, 6, 1, 0x40, 1024, 0x0, 1, .w1c, 0, .const, [], false⟩
def QSCH.ADMIN_LEN : Fld := ⟨0x00a10004, 8, 9, 0x40, 1024, 0x0, 1, .rw, 0, .const, [], false⟩
def QSCH.ADMIN_CYCLE : Fld := ⟨0x00a10008, 0, 30, 0x40, 1024, 0x0, 1, .rw, 0, .const, [], false⟩
def QSCH.ADMIN_BASE_NS : Fld := ⟨0x00a1000c, 0, 30, 0x40, 1024, 0x0, 1, .rw, 0, .const, [], false⟩
def QSCH.ADMIN_BASE_SEC : Fld := ⟨0x00a10010, 0, 48, 0x40, 1024, 0x0, 1, .rw, 0, .const, [], false⟩
def QSCH.LATE_LIMIT : Fld := ⟨0x00a10018, 0, 20, 0x40, 1024, 0x0, 1, .rw, 1000, .const, [], false⟩
def QSCH.LATE_ACTION : Fld := ⟨0x00a10018, 20, 1, 0x40, 1024, 0x0, 1, .rw, 0, .const, [], false⟩
def QSCH.HORIZON : Fld := ⟨0x00a10018, 21, 10, 0x40, 1024, 0x0, 1, .rw, 1000, .const, [(0, 0, 1), (1001, 1023, 1000)], false⟩
def QSCH.FLUSHED : Fld := ⟨0x00a10020, 0, 32, 0x40, 1024, 0x0, 1, .rc, 0, .const, [], false⟩
def QSCH.DOWN_DISCARDS : Fld := ⟨0x00a10024, 0, 32, 0x40, 1024, 0x0, 1, .rc, 0, .const, [], false⟩
def QSCH.MC_RESIDUE_DISCARDS : Fld := ⟨0x00a10028, 0, 32, 0x40, 1024, 0x0, 1, .rc, 0, .const, [], false⟩
def QSCH.LATE_SENT : Fld := ⟨0x00a1002c, 0, 32, 0x40, 1024, 0x0, 1, .rc, 0, .const, [], false⟩
def QSCH.LATE_DISCARDS : Fld := ⟨0x00a10030, 0, 32, 0x40, 1024, 0x0, 1, .rc, 0, .const, [], false⟩
def QSCH.GATE_OVERSIZE : Fld := ⟨0x00a10034, 0, 32, 0x40, 1024, 0x0, 1, .rc, 0, .const, [], false⟩
def QSCH.LAUNCH_REFUSED : Fld := ⟨0x00a10038, 0, 32, 0x40, 1024, 0x0, 1, .rc, 0, .const, [], false⟩
def QSCH.part0 : List Fld := [QSCH.REPL_STALLED, QSCH.POLICER_DROPS, QSCH.MC_INVALID, QSCH.MC_NO_COPY, QSCH.REPL_STALLS, QSCH.ECN_SKIPPED, QSCH.BAD_QUEUE, QSCH.RES_USED, QSCH.PORT_DOWN_HOLD, QSCH.HOLD_ACTIVE, QSCH.GATE_EN, QSCH.ADMIN_LIST, QSCH.OPER_LIST, QSCH.OPER_VALID, QSCH.CONFIG_PENDING, QSCH.CONFIG_CHANGE]
def QSCH.part1 : List Fld := [QSCH.CONFIG_ERR, QSCH.ADMIN_LEN, QSCH.ADMIN_CYCLE, QSCH.ADMIN_BASE_NS, QSCH.ADMIN_BASE_SEC, QSCH.LATE_LIMIT, QSCH.LATE_ACTION, QSCH.HORIZON, QSCH.FLUSHED, QSCH.DOWN_DISCARDS, QSCH.MC_RESIDUE_DISCARDS, QSCH.LATE_SENT, QSCH.LATE_DISCARDS, QSCH.GATE_OVERSIZE, QSCH.LAUNCH_REFUSED]
def QSCH.fields : List Fld := QSCH.part0 ++ QSCH.part1

/-! ### TIME -/
def TIME.TOD_VALID : Fld := ⟨0x00b00000, 0, 1, 0x0, 1, 0x0, 1, .ro, 0, .const, [], true⟩
def TIME.HOLDOVER : Fld := ⟨0x00b00000, 1, 1, 0x0, 1, 0x0, 1, .ro, 0, .const, [], false⟩
def TIME.REFCLK_LOST : Fld := ⟨0x00b00000, 2, 1, 0x0, 1, 0x0, 1, .ro, 0, .const, [], false⟩
def TIME.PPS_ABSENT : Fld := ⟨0x00b00000, 3, 1, 0x0, 1, 0x0, 1, .ro, 0, .const, [], false⟩
def TIME.HOLDOVER_EVT : Fld := ⟨0x00b00004, 0, 1, 0x0, 1, 0x0, 1, .w1c, 0, .const, [], false⟩
def TIME.REFCLK_LOST_EVT : Fld := ⟨0x00b00004, 1, 1, 0x0, 1, 0x0, 1, .w1c, 0, .const, [], false⟩
def TIME.CAPTURE_EVT : Fld := ⟨0x00b00004, 2, 3, 0x0, 1, 0x0, 1, .w1c, 0, .const, [], false⟩
def TIME.STEP_ERR : Fld := ⟨0x00b00004, 5, 1, 0x0, 1, 0x0, 1, .w1c, 0, .const, [], false⟩
def TIME.INT_EN : Fld := ⟨0x00b00008, 0, 6, 0x0, 1, 0x0, 1, .rw, 0, .const, [], false⟩
def TIME.FRC : Fld := ⟨0x00b00010, 0, 64, 0x0, 1, 0x0, 1, .ro, 0, .const, [], true⟩
def TIME.ADJ_DELTA : Fld := ⟨0x00b00018, 0, 64, 0x0, 1, 0x0, 1, .rw, 0, .const, [], false⟩
def TIME.SET_SEC : Fld := ⟨0x00b00020, 0, 48, 0x0, 1, 0x0, 1, .rw, 0, .const, [], false⟩
def TIME.SET_NS : Fld := ⟨0x00b00028, 0, 30, 0x0, 1, 0x0, 1, .rw, 0, .const, [(1000000000, 1073741823, 999999999)], false⟩
def TIME.SET_FRAC : Fld := ⟨0x00b0002c, 0, 16, 0x0, 1, 0x0, 1, .rw, 0, .const, [], false⟩
def TIME.CMD_OPCODE : Fld := ⟨0x00b00030, 0, 2, 0x0, 1, 0x0, 1, .wo, 0, .const, [], false⟩
def TIME.RATE : Fld := ⟨0x00b00038, 0, 40, 0x0, 1, 0x0, 1, .rw, 0, .const, [], true⟩
def TIME.HOLD_TIMEOUT : Fld := ⟨0x00b00040, 0, 16, 0x0, 1, 0x0, 1, .rw, 1000, .const, [], false⟩
def TIME.OFF_SEC : Fld := ⟨0x00b00048, 0, 48, 0x0, 1, 0x0, 1, .ro, 0, .const, [], true⟩
def TIME.OFF_NS : Fld := ⟨0x00b00050, 0, 30, 0x0, 1, 0x0, 1, .ro, 0, .const, [], true⟩
def TIME.OFF_FRAC : Fld := ⟨0x00b00054, 0, 16, 0x0, 1, 0x0, 1, .ro, 0, .const, [], true⟩
def TIME.REF : Fld := ⟨0x00b00058, 0, 64, 0x0, 1, 0x0, 1, .ro, 0, .const, [], true⟩
def TIME.SNAP_FRC : Fld := ⟨0x00b00060, 0, 64, 0x0, 1, 0x0, 1, .ro, 0, .const, [], false⟩
def TIME.SNAP_SEC : Fld := ⟨0x00b00068, 0, 48, 0x0, 1, 0x0, 1, .ro, 0, .const, [], false⟩
def TIME.SNAP_NS : Fld := ⟨0x00b00070, 0, 30, 0x0, 1, 0x0, 1, .ro, 0, .const, [], false⟩
def TIME.SNAP_FRAC : Fld := ⟨0x00b00074, 0, 16, 0x0, 1, 0x0, 1, .ro, 0, .const, [], false⟩
def TIME.C_POL : Fld := ⟨0x00b00100, 0, 1, 0x20, 3, 0x0, 1, .rw, 0, .const, [], false⟩
def TIME.C_COUNT : Fld := ⟨0x00b00104, 0, 32, 0x20, 3, 0x0, 1, .ro, 0, .const, [], false⟩
def TIME.C_CAP_SEC : Fld := ⟨0x00b00108, 0, 48, 0x20, 3, 0x0, 1, .ro, 0, .const, [], false⟩
def TIME.C_CAP_NS : Fld := ⟨0x00b00110, 0, 30, 0x20, 3, 0x0, 1, .ro, 0, .const, [], false⟩
def TIME.C_CAP_FRAC : Fld := ⟨0x00b00114, 0, 16, 0x20, 3, 0x0, 1, .ro, 0, .const, [], false⟩
def TIME.PO_PPS_OUT_EN : Fld := ⟨0x00b00180, 0, 1, 0x0, 1, 0x0, 1, .rw, 0, .const, [], false⟩
def TIME.PO_SRC : Fld := ⟨0x00b00180, 1, 1, 0x0, 1, 0x0, 1, .rw, 0, .const, [], false⟩
def TIME.PO_TRIG_SEL : Fld := ⟨0x00b00180, 2, 4, 0x0, 1, 0x0, 1, .rw, 0, .const, [], false⟩
def TIME.PO_WIDTH : Fld := ⟨0x00b00180, 8, 16, 0x0, 1, 0x0, 1, .rw, 100, .const, [(0, 0, 1)], false⟩
def TIME.PO_PPS_OUT_ADJ : Fld := ⟨0x00b00184, 0, 16, 0x0, 1, 0x0, 1, .rw, 0, .const, [], false⟩
def TIME.SY_LANE : Fld := ⟨0x00b001a0, 0, 10, 0x4, 2, 0x0, 1, .rw, 0, .const, [], false⟩
def TIME.SY_DIV2 : Fld := ⟨0x00b001a0, 10, 1, 0x4, 2, 0x0, 1, .rw, 0, .const, [], false⟩
def TIME.SY_EN : Fld := ⟨0x00b001a0, 11, 1, 0x4, 2, 0x0, 1, .rw, 0, .const, [], false⟩
def TIME.SY_SQUELCHED : Fld := ⟨0x00b001a0, 12, 1, 0x4, 2, 0x0, 1, .ro, 1, .const, [], false⟩
def TIME.T_EN : Fld := ⟨0x00b00200, 0, 1, 0x20, 16, 0x0, 1, .rw, 0, .const, [], false⟩
def TIME.T_PERIODIC : Fld := ⟨0x00b00200, 1, 1, 0x20, 16, 0x0, 1, .rw, 0, .const, [], false⟩
def TIME.T_ARM : Fld := ⟨0x00b00200, 2, 1, 0x20, 16, 0x0, 1, .wo, 0, .const, [], false⟩
def TIME.T_ARMED : Fld := ⟨0x00b00200, 3, 1, 0x20, 16, 0x0, 1, .ro, 0, .const, [], false⟩
def TIME.T_FIRED : Fld := ⟨0x00b00200, 4, 1, 0x20, 16, 0x0, 1, .w1c, 0, .const, [], false⟩
def TIME.T_LATE_ARM : Fld := ⟨0x00b00200, 5, 1, 0x20, 16, 0x0, 1, .w1c, 0, .const, [], false⟩
def TIME.T_IE : Fld := ⟨0x00b00200, 6, 1, 0x20, 16, 0x0, 1, .rw, 0, .const, [], false⟩
def TIME.T_PERIOD : Fld := ⟨0x00b00204, 0, 30, 0x20, 16, 0x0, 1, .rw, 0, .const, [], false⟩
def TIME.T_TIME_SEC : Fld := ⟨0x00b00208, 0, 48, 0x20, 16, 0x0, 1, .rw, 0, .const, [], false⟩
def TIME.T_TIME_NS : Fld := ⟨0x00b00210, 0, 30, 0x20, 16, 0x0, 1, .rw, 0, .const, [(1000000000, 1073741823, 999999999)], false⟩
def TIME.T_MISSED : Fld := ⟨0x00b00214, 0, 32, 0x20, 16, 0x0, 1, .rc, 0, .const, [], false⟩
def TIME.T_FIRINGS : Fld := ⟨0x00b00218, 0, 32, 0x20, 16, 0x0, 1, .ro, 0, .const, [], false⟩
def TIME.PTP_ETH : Fld := ⟨0x00b10000, 0, 1, 0x20, 1024, 0x0, 1, .rw, 0, .const, [], false⟩
def TIME.PTP_UDP4 : Fld := ⟨0x00b10000, 1, 1, 0x20, 1024, 0x0, 1, .rw, 0, .const, [], false⟩
def TIME.PTP_UDP6 : Fld := ⟨0x00b10000, 2, 1, 0x20, 1024, 0x0, 1, .rw, 0, .const, [], false⟩
def TIME.ONE_STEP : Fld := ⟨0x00b10000, 3, 1, 0x20, 1024, 0x0, 1, .rw, 0, .const, [], false⟩
def TIME.TC_MODE : Fld := ⟨0x00b10000, 4, 2, 0x20, 1024, 0x0, 1, .rw, 0, .const, [(3, 3, 0)], false⟩
def TIME.TWO_STEP_CAP : Fld := ⟨0x00b10000, 6, 1, 0x20, 1024, 0x0, 1, .rw, 0, .const, [], false⟩
def TIME.TS_RING : Fld := ⟨0x00b10000, 8, 3, 0x20, 1024, 0x0, 1, .rw, 0, .const, [], false⟩
def TIME.TS_RX_ADJ : Fld := ⟨0x00b10004, 0, 16, 0x20, 1024, 0x0, 1, .rw, 0, .const, [], false⟩
def TIME.TS_TX_ADJ : Fld := ⟨0x00b10004, 16, 16, 0x20, 1024, 0x0, 1, .rw, 0, .const, [], false⟩
def TIME.LINK_DELAY : Fld := ⟨0x00b10008, 0, 24, 0x20, 1024, 0x0, 1, .rw, 0, .const, [], false⟩
def TIME.TS_LOST : Fld := ⟨0x00b1000c, 0, 32, 0x20, 1024, 0x0, 1, .rc, 0, .const, [], false⟩
def TIME.PTP_RX : Fld := ⟨0x00b10010, 0, 32, 0x20, 1024, 0x0, 1, .rc, 0, .const, [], false⟩
def TIME.TS_CAPTURED : Fld := ⟨0x00b10014, 0, 32, 0x20, 1024, 0x0, 1, .rc, 0, .const, [], false⟩
def TIME.TC_UPDATED : Fld := ⟨0x00b10018, 0, 32, 0x20, 1024, 0x0, 1, .rc, 0, .const, [], false⟩
def TIME.TC_SKIPPED : Fld := ⟨0x00b1001c, 0, 32, 0x20, 1024, 0x0, 1, .rc, 0, .const, [], false⟩
def TIME.part0 : List Fld := [TIME.TOD_VALID, TIME.HOLDOVER, TIME.REFCLK_LOST, TIME.PPS_ABSENT, TIME.HOLDOVER_EVT, TIME.REFCLK_LOST_EVT, TIME.CAPTURE_EVT, TIME.STEP_ERR, TIME.INT_EN, TIME.FRC, TIME.ADJ_DELTA, TIME.SET_SEC, TIME.SET_NS, TIME.SET_FRAC, TIME.CMD_OPCODE, TIME.RATE]
def TIME.part1 : List Fld := [TIME.HOLD_TIMEOUT, TIME.OFF_SEC, TIME.OFF_NS, TIME.OFF_FRAC, TIME.REF, TIME.SNAP_FRC, TIME.SNAP_SEC, TIME.SNAP_NS, TIME.SNAP_FRAC, TIME.C_POL, TIME.C_COUNT, TIME.C_CAP_SEC, TIME.C_CAP_NS, TIME.C_CAP_FRAC, TIME.PO_PPS_OUT_EN, TIME.PO_SRC]
def TIME.part2 : List Fld := [TIME.PO_TRIG_SEL, TIME.PO_WIDTH, TIME.PO_PPS_OUT_ADJ, TIME.SY_LANE, TIME.SY_DIV2, TIME.SY_EN, TIME.SY_SQUELCHED, TIME.T_EN, TIME.T_PERIODIC, TIME.T_ARM, TIME.T_ARMED, TIME.T_FIRED, TIME.T_LATE_ARM, TIME.T_IE, TIME.T_PERIOD, TIME.T_TIME_SEC]
def TIME.part3 : List Fld := [TIME.T_TIME_NS, TIME.T_MISSED, TIME.T_FIRINGS, TIME.PTP_ETH, TIME.PTP_UDP4, TIME.PTP_UDP6, TIME.ONE_STEP, TIME.TC_MODE, TIME.TWO_STEP_CAP, TIME.TS_RING, TIME.TS_RX_ADJ, TIME.TS_TX_ADJ, TIME.LINK_DELAY, TIME.TS_LOST, TIME.PTP_RX, TIME.TS_CAPTURED]
def TIME.part4 : List Fld := [TIME.TC_UPDATED, TIME.TC_SKIPPED]
def TIME.fields : List Fld := TIME.part0 ++ TIME.part1 ++ TIME.part2 ++ TIME.part3 ++ TIME.part4

/-! ### TELE -/
def TELE.FLAGS : Fld := ⟨0x00c00000, 0, 4, 0x0, 1, 0x0, 1, .ro, 0, .const, [], false⟩
def TELE.HOP_ID : Fld := ⟨0x00c00004, 0, 32, 0x0, 1, 0x0, 1, .rw, 0, .const, [], false⟩
def TELE.FC_IDLE : Fld := ⟨0x00c00008, 0, 16, 0x0, 1, 0x0, 1, .rw, 0, .const, [(0, 0, 1), (60001, 65535, 60000)], false⟩
def TELE.FC_ACTIVE : Fld := ⟨0x00c00008, 16, 16, 0x0, 1, 0x0, 1, .rw, 0, .const, [(0, 0, 1), (60001, 65535, 60000)], false⟩
def TELE.HM_SKIPPED : Fld := ⟨0x00c00010, 0, 32, 0x0, 1, 0x0, 1, .rc, 0, .const, [], false⟩
def TELE.IOAM_FULL : Fld := ⟨0x00c00014, 0, 32, 0x0, 1, 0x0, 1, .rc, 0, .const, [], false⟩
def TELE.SHIM_FULL : Fld := ⟨0x00c00018, 0, 32, 0x0, 1, 0x0, 1, .rc, 0, .const, [], false⟩
def TELE.HM_FIXUP_SKIPPED : Fld := ⟨0x00c0001c, 0, 32, 0x0, 1, 0x0, 1, .rc, 0, .const, [], false⟩
def TELE.FC_EVICTED : Fld := ⟨0x00c00020, 0, 32, 0x0, 1, 0x0, 1, .rc, 0, .const, [], false⟩
def TELE.FC_ECC : Fld := ⟨0x00c00024, 0, 32, 0x0, 1, 0x0, 1, .rc, 0, .const, [], false⟩
def TELE.CNT_ECC : Fld := ⟨0x00c00028, 0, 32, 0x0, 1, 0x0, 1, .rc, 0, .const, [], false⟩
def TELE.HM_REASON : Fld := ⟨0x00c00030, 0, 3, 0x0, 1, 0x0, 1, .ro, 0, .const, [], false⟩
def TELE.HM_EG_PORT : Fld := ⟨0x00c00030, 3, 11, 0x0, 1, 0x0, 1, .ro, 0, .const, [], false⟩
def TELE.HM_VALID : Fld := ⟨0x00c00030, 31, 1, 0x0, 1, 0x0, 1, .w1c, 0, .const, [], false⟩
def TELE.FLUSH : Fld := ⟨0x00c00040, 0, 1, 0x0, 1, 0x0, 1, .wo, 0, .const, [], false⟩
def TELE.FL_BUSY : Fld := ⟨0x00c00040, 1, 1, 0x0, 1, 0x0, 1, .ro, 0, .const, [], false⟩
def TELE.FL_DONE : Fld := ⟨0x00c00040, 2, 1, 0x0, 1, 0x0, 1, .w1c, 0, .const, [], false⟩
def TELE.FLUSH_PERIOD : Fld := ⟨0x00c00040, 16, 16, 0x0, 1, 0x0, 1, .rw, 1000, .const, [(0, 99, 100)], false⟩
def TELE.BW_WINDOW : Fld := ⟨0x00c00050, 0, 20, 0x0, 1, 0x0, 1, .rw, 1000, .const, [(0, 0, 1), (1000001, 1048575, 1000000)], false⟩
def TELE.EWMA_SHIFT : Fld := ⟨0x00c00050, 20, 4, 0x0, 1, 0x0, 1, .rw, 4, .const, [], false⟩
def TELE.LP_START : Fld := ⟨0x00c00060, 0, 1, 0x0, 1, 0x0, 1, .wo, 0, .const, [], false⟩
def TELE.LP_STOP : Fld := ⟨0x00c00060, 1, 1, 0x0, 1, 0x0, 1, .wo, 0, .const, [], false⟩
def TELE.LP_RUNNING : Fld := ⟨0x00c00060, 2, 1, 0x0, 1, 0x0, 1, .ro, 0, .const, [], false⟩
def TELE.LP_DONE : Fld := ⟨0x00c00060, 3, 1, 0x0, 1, 0x0, 1, .w1c, 0, .const, [], false⟩
def TELE.LP_START_MISSED : Fld := ⟨0x00c00060, 4, 1, 0x0, 1, 0x0, 1, .w1c, 0, .const, [], false⟩
def TELE.LP_TRIG_EN : Fld := ⟨0x00c00060, 5, 1, 0x0, 1, 0x0, 1, .rw, 0, .const, [], false⟩
def TELE.LP_TRIG_SEL : Fld := ⟨0x00c00060, 6, 4, 0x0, 1, 0x0, 1, .rw, 0, .const, [], false⟩
def TELE.LOUPE_LEN : Fld := ⟨0x00c00068, 0, 64, 0x0, 1, 0x0, 1, .rw, 0, .const, [], false⟩
def TELE.FS_WR_PTR : Fld := ⟨0x00c00100, 0, 20, 0x10, 8, 0x0, 1, .ro, 0, .const, [], false⟩
def TELE.FS_RD_PTR : Fld := ⟨0x00c00104, 0, 20, 0x10, 8, 0x0, 1, .rw, 0, .const, [], false⟩
def TELE.FS_FS_LOST : Fld := ⟨0x00c00108, 0, 32, 0x10, 8, 0x0, 1, .rc, 0, .const, [], false⟩
def TELE.COL_SENT : Fld := ⟨0x00c00200, 0, 32, 0x10, 16, 0x0, 1, .rc, 0, .const, [], false⟩
def TELE.COL_LOST : Fld := ⟨0x00c00204, 0, 32, 0x10, 16, 0x0, 1, .rc, 0, .const, [], false⟩
def TELE.COL_DEPTH : Fld := ⟨0x00c00208, 0, 11, 0x10, 16, 0x0, 1, .ro, 0, .const, [], false⟩
def TELE.S_UNIT : Fld := ⟨0x00c00400, 0, 7, 0x20, 8, 0x0, 1, .rw, 0, .const, [], false⟩
def TELE.S_EVENT : Fld := ⟨0x00c00400, 8, 8, 0x20, 8, 0x0, 1, .rw, 0, .const, [], false⟩
def TELE.S_EN : Fld := ⟨0x00c00400, 16, 1, 0x20, 8, 0x0, 1, .rw, 0, .const, [], false⟩
def TELE.S_IE : Fld := ⟨0x00c00400, 17, 1, 0x20, 8, 0x0, 1, .rw, 0, .const, [], false⟩
def TELE.S_OVF : Fld := ⟨0x00c00400, 18, 1, 0x20, 8, 0x0, 1, .w1c, 0, .const, [], false⟩
def TELE.S_PRIV_REJECT : Fld := ⟨0x00c00400, 19, 1, 0x20, 8, 0x0, 1, .w1c, 0, .const, [], false⟩
def TELE.S_RELOAD : Fld := ⟨0x00c00408, 0, 48, 0x20, 8, 0x0, 1, .rw, 0, .const, [], false⟩
def TELE.S_VALUE : Fld := ⟨0x00c00410, 0, 48, 0x20, 8, 0x0, 1, .ro, 0, .const, [], false⟩
def TELE.S_LOST : Fld := ⟨0x00c00418, 0, 32, 0x20, 8, 0x0, 1, .rc, 0, .const, [], false⟩
def TELE.U_EVENT0 : Fld := ⟨0x00c10000, 0, 8, 0x100, 72, 0x0, 1, .rw, 0, .const, [], false⟩
def TELE.U_EVENT1 : Fld := ⟨0x00c10000, 8, 8, 0x100, 72, 0x0, 1, .rw, 0, .const, [], false⟩
def TELE.U_EVENT2 : Fld := ⟨0x00c10000, 16, 8, 0x100, 72, 0x0, 1, .rw, 0, .const, [], false⟩
def TELE.U_EVENT3 : Fld := ⟨0x00c10000, 24, 8, 0x100, 72, 0x0, 1, .rw, 0, .const, [], false⟩
def TELE.U_EVENT4 : Fld := ⟨0x00c10004, 0, 8, 0x100, 72, 0x0, 1, .rw, 0, .const, [], false⟩
def TELE.U_EVENT5 : Fld := ⟨0x00c10004, 8, 8, 0x100, 72, 0x0, 1, .rw, 0, .const, [], false⟩
def TELE.U_EVENT6 : Fld := ⟨0x00c10004, 16, 8, 0x100, 72, 0x0, 1, .rw, 0, .const, [], false⟩
def TELE.U_EVENT7 : Fld := ⟨0x00c10004, 24, 8, 0x100, 72, 0x0, 1, .rw, 0, .const, [], false⟩
def TELE.U_WRAP : Fld := ⟨0x00c10008, 0, 8, 0x100, 72, 0x0, 1, .w1c, 0, .const, [], false⟩
def TELE.U_TICKS : Fld := ⟨0x00c10010, 0, 64, 0x100, 72, 0x0, 1, .ro, 0, .const, [], false⟩
def TELE.U_CNT : Fld := ⟨0x00c10020, 0, 48, 0x100, 72, 0x8, 8, .ro, 0, .const, [], false⟩
def TELE.RX_LAST : Fld := ⟨0x00c20000, 0, 32, 0x20, 1024, 0x0, 1, .ro, 0, .const, [], false⟩
def TELE.RX_PEAK : Fld := ⟨0x00c20004, 0, 32, 0x20, 1024, 0x0, 1, .rc, 0, .const, [], false⟩
def TELE.RX_EWMA : Fld := ⟨0x00c20008, 0, 32, 0x20, 1024, 0x0, 1, .ro, 0, .const, [], false⟩
def TELE.TX_LAST : Fld := ⟨0x00c2000c, 0, 32, 0x20, 1024, 0x0, 1, .ro, 0, .const, [], false⟩
def TELE.TX_PEAK : Fld := ⟨0x00c20010, 0, 32, 0x20, 1024, 0x0, 1, .rc, 0, .const, [], false⟩
def TELE.TX_EWMA : Fld := ⟨0x00c20014, 0, 32, 0x20, 1024, 0x0, 1, .ro, 0, .const, [], false⟩
def TELE.part0 : List Fld := [TELE.FLAGS, TELE.HOP_ID, TELE.FC_IDLE, TELE.FC_ACTIVE, TELE.HM_SKIPPED, TELE.IOAM_FULL, TELE.SHIM_FULL, TELE.HM_FIXUP_SKIPPED, TELE.FC_EVICTED, TELE.FC_ECC, TELE.CNT_ECC, TELE.HM_REASON, TELE.HM_EG_PORT, TELE.HM_VALID, TELE.FLUSH, TELE.FL_BUSY]
def TELE.part1 : List Fld := [TELE.FL_DONE, TELE.FLUSH_PERIOD, TELE.BW_WINDOW, TELE.EWMA_SHIFT, TELE.LP_START, TELE.LP_STOP, TELE.LP_RUNNING, TELE.LP_DONE, TELE.LP_START_MISSED, TELE.LP_TRIG_EN, TELE.LP_TRIG_SEL, TELE.LOUPE_LEN, TELE.FS_WR_PTR, TELE.FS_RD_PTR, TELE.FS_FS_LOST, TELE.COL_SENT]
def TELE.part2 : List Fld := [TELE.COL_LOST, TELE.COL_DEPTH, TELE.S_UNIT, TELE.S_EVENT, TELE.S_EN, TELE.S_IE, TELE.S_OVF, TELE.S_PRIV_REJECT, TELE.S_RELOAD, TELE.S_VALUE, TELE.S_LOST, TELE.U_EVENT0, TELE.U_EVENT1, TELE.U_EVENT2, TELE.U_EVENT3, TELE.U_EVENT4]
def TELE.part3 : List Fld := [TELE.U_EVENT5, TELE.U_EVENT6, TELE.U_EVENT7, TELE.U_WRAP, TELE.U_TICKS, TELE.U_CNT, TELE.RX_LAST, TELE.RX_PEAK, TELE.RX_EWMA, TELE.TX_LAST, TELE.TX_PEAK, TELE.TX_EWMA]
def TELE.fields : List Fld := TELE.part0 ++ TELE.part1 ++ TELE.part2 ++ TELE.part3

/-! ### HOST -/
def HOST.LINK_SPEED : Fld := ⟨0x00d00000, 0, 4, 0x0, 1, 0x0, 1, .ro, 0, .const, [], false⟩
def HOST.LINK_WIDTH : Fld := ⟨0x00d00000, 8, 4, 0x0, 1, 0x0, 1, .ro, 0, .const, [], false⟩
def HOST.LINK_UP : Fld := ⟨0x00d00000, 12, 1, 0x0, 1, 0x0, 1, .ro, 0, .const, [], false⟩
def HOST.BUS_MASTER : Fld := ⟨0x00d00000, 13, 1, 0x0, 1, 0x0, 1, .ro, 0, .const, [], false⟩
def HOST.D3HOT : Fld := ⟨0x00d00000, 14, 1, 0x0, 1, 0x0, 1, .ro, 0, .const, [], false⟩
def HOST.LINK_DOWN_EVT : Fld := ⟨0x00d00004, 0, 1, 0x0, 1, 0x0, 1, .w1c, 0, .const, [], false⟩
def HOST.POISONED : Fld := ⟨0x00d00004, 1, 1, 0x0, 1, 0x0, 1, .w1c, 0, .const, [], false⟩
def HOST.ACCESS_ERR : Fld := ⟨0x00d00004, 2, 1, 0x0, 1, 0x0, 1, .w1c, 0, .const, [], false⟩
def HOST.INT_EN : Fld := ⟨0x00d00008, 0, 3, 0x0, 1, 0x0, 1, .rw, 0, .const, [], false⟩
def HOST.GLB_VECTOR : Fld := ⟨0x00d00010, 0, 8, 0x0, 1, 0x0, 1, .rw, 120, .const, [], false⟩
def HOST.FAULT_VECTOR : Fld := ⟨0x00d00010, 8, 8, 0x0, 1, 0x0, 1, .rw, 121, .const, [], false⟩
def HOST.R_EN : Fld := ⟨0x00d01000, 0, 1, 0x40, 88, 0x0, 1, .rw, 0, .const, [], false⟩
def HOST.R_INT_EN : Fld := ⟨0x00d01000, 1, 1, 0x40, 88, 0x0, 1, .rw, 0, .const, [], false⟩
def HOST.R_VECTOR : Fld := ⟨0x00d01000, 8, 8, 0x40, 88, 0x0, 1, .rw, 0, .step, [], false⟩
def HOST.R_COAL_US : Fld := ⟨0x00d01000, 16, 8, 0x40, 88, 0x0, 1, .rw, 0, .const, [], false⟩
def HOST.R_DESC_BASE : Fld := ⟨0x00d01004, 0, 24, 0x40, 88, 0x0, 1, .rw, 0, .const, [], false⟩
def HOST.R_LOG2_COUNT : Fld := ⟨0x00d01008, 0, 4, 0x40, 88, 0x0, 1, .rw, 3, .const, [], false⟩
def HOST.R_INDEX : Fld := ⟨0x00d0100c, 0, 12, 0x40, 88, 0x0, 1, .ro, 0, .const, [], false⟩
def HOST.R_GEN : Fld := ⟨0x00d0100c, 12, 1, 0x40, 88, 0x0, 1, .ro, 1, .const, [], false⟩
def HOST.R_CAN_ACCEPT : Fld := ⟨0x00d0100c, 13, 1, 0x40, 88, 0x0, 1, .ro, 0, .const, [], false⟩
def HOST.R_STALLED : Fld := ⟨0x00d0100c, 14, 1, 0x40, 88, 0x0, 1, .ro, 0, .const, [], false⟩
def HOST.R_PENDING : Fld := ⟨0x00d01010, 0, 1, 0x40, 88, 0x0, 1, .w1c, 0, .const, [], false⟩
def HOST.R_CONFIG_ERR : Fld := ⟨0x00d01010, 1, 1, 0x40, 88, 0x0, 1, .w1c, 0, .const, [], false⟩
def HOST.R_STALL_EVT : Fld := ⟨0x00d01010, 2, 1, 0x40, 88, 0x0, 1, .w1c, 0, .const, [], false⟩
def HOST.R_RX_STALL : Fld := ⟨0x00d01014, 0, 10, 0x40, 88, 0x0, 1, .rw, 100, .const, [(1001, 1023, 1000)], false⟩
def HOST.R_PIPE : Fld := ⟨0x00d01014, 16, 6, 0x40, 88, 0x0, 1, .ro, 0, .const, [], false⟩
def HOST.R_COMPLETED : Fld := ⟨0x00d01018, 0, 32, 0x40, 88, 0x0, 1, .rc, 0, .const, [], false⟩
def HOST.R_DISCARDS : Fld := ⟨0x00d0101c, 0, 32, 0x40, 88, 0x0, 1, .rc, 0, .const, [], false⟩
def HOST.D_SRC : Fld := ⟨0x00d10000, 0, 64, 0x100, 32, 0x0, 1, .rw, 0, .const, [], false⟩
def HOST.D_DST : Fld := ⟨0x00d10008, 0, 64, 0x100, 32, 0x0, 1, .rw, 0, .const, [], false⟩
def HOST.D_COUNT : Fld := ⟨0x00d10010, 0, 24, 0x100, 32, 0x0, 1, .rw, 0, .const, [], false⟩
def HOST.D_SRC_W : Fld := ⟨0x00d10014, 0, 6, 0x100, 32, 0x0, 1, .rw, 0, .const, [], false⟩
def HOST.D_DST_W : Fld := ⟨0x00d10014, 8, 6, 0x100, 32, 0x0, 1, .rw, 0, .const, [], false⟩
def HOST.D_NARROW_OK : Fld := ⟨0x00d10014, 16, 1, 0x100, 32, 0x0, 1, .rw, 0, .const, [], false⟩
def HOST.D_HALF_IE : Fld := ⟨0x00d10014, 17, 1, 0x100, 32, 0x0, 1, .rw, 0, .const, [], false⟩
def HOST.D_FULL_IE : Fld := ⟨0x00d10014, 18, 1, 0x100, 32, 0x0, 1, .rw, 0, .const, [], false⟩
def HOST.D_GO : Fld := ⟨0x00d10018, 0, 1, 0x100, 32, 0x0, 1, .wo, 0, .const, [], false⟩
def HOST.D_ABORT : Fld := ⟨0x00d10018, 1, 1, 0x100, 32, 0x0, 1, .wo, 0, .const, [], false⟩
def HOST.D_CLEAR_HALT : Fld := ⟨0x00d10018, 2, 1, 0x100, 32, 0x0, 1, .wo, 0, .const, [], false⟩
def HOST.D_VECTOR : Fld := ⟨0x00d10018, 8, 8, 0x100, 32, 0x0, 1, .rw, 88, .step, [], false⟩
def HOST.D_STATE : Fld := ⟨0x00d1001c, 0, 2, 0x100, 32, 0x0, 1, .ro, 0, .const, [], false⟩
def HOST.D_RESULT : Fld := ⟨0x00d1001c, 4, 4, 0x100, 32, 0x0, 1, .ro, 0, .const, [], false⟩
def HOST.D_DONE : Fld := ⟨0x00d1001c, 8, 1, 0x100, 32, 0x0, 1, .w1c, 0, .const, [], false⟩
def HOST.D_HALF : Fld := ⟨0x00d1001c, 9, 1, 0x100, 32, 0x0, 1, .w1c, 0, .const, [], false⟩
def HOST.D_OVERLAP_DESC : Fld := ⟨0x00d1001c, 10, 1, 0x100, 32, 0x0, 1, .ro, 0, .const, [], false⟩
def HOST.D_WRITE_REJECTED : Fld := ⟨0x00d1001c, 11, 1, 0x100, 32, 0x0, 1, .w1c, 0, .const, [], false⟩
def HOST.D_BUSY_WRITE : Fld := ⟨0x00d1001c, 12, 1, 0x100, 32, 0x0, 1, .w1c, 0, .const, [], false⟩
def HOST.D_TAKEN : Fld := ⟨0x00d1001c, 13, 1, 0x100, 32, 0x0, 1, .w1c, 0, .const, [], false⟩
def HOST.D_RESIDUE : Fld := ⟨0x00d10020, 0, 24, 0x100, 32, 0x0, 1, .ro, 0, .const, [], false⟩
def HOST.D_FAIL_ADDR : Fld := ⟨0x00d10028, 0, 64, 0x100, 32, 0x0, 1, .ro, 0, .const, [], false⟩
def HOST.D_SH_SRC : Fld := ⟨0x00d10040, 0, 64, 0x100, 32, 0x0, 1, .rw, 0, .const, [], false⟩
def HOST.D_SH_DST : Fld := ⟨0x00d10048, 0, 64, 0x100, 32, 0x0, 1, .rw, 0, .const, [], false⟩
def HOST.D_SH_COUNT : Fld := ⟨0x00d10050, 0, 24, 0x100, 32, 0x0, 1, .rw, 0, .const, [], false⟩
def HOST.D_SH_CFG : Fld := ⟨0x00d10054, 0, 19, 0x100, 32, 0x0, 1, .rw, 0, .const, [], false⟩
def HOST.D_SHADOW_VALID : Fld := ⟨0x00d10058, 0, 1, 0x100, 32, 0x0, 1, .rw, 0, .const, [], false⟩
def HOST.D_HANDOVERS : Fld := ⟨0x00d1005c, 0, 32, 0x100, 32, 0x0, 1, .rc, 0, .const, [], false⟩
def HOST.part0 : List Fld := [HOST.LINK_SPEED, HOST.LINK_WIDTH, HOST.LINK_UP, HOST.BUS_MASTER, HOST.D3HOT, HOST.LINK_DOWN_EVT, HOST.POISONED, HOST.ACCESS_ERR, HOST.INT_EN, HOST.GLB_VECTOR, HOST.FAULT_VECTOR, HOST.R_EN, HOST.R_INT_EN, HOST.R_VECTOR, HOST.R_COAL_US, HOST.R_DESC_BASE]
def HOST.part1 : List Fld := [HOST.R_LOG2_COUNT, HOST.R_INDEX, HOST.R_GEN, HOST.R_CAN_ACCEPT, HOST.R_STALLED, HOST.R_PENDING, HOST.R_CONFIG_ERR, HOST.R_STALL_EVT, HOST.R_RX_STALL, HOST.R_PIPE, HOST.R_COMPLETED, HOST.R_DISCARDS, HOST.D_SRC, HOST.D_DST, HOST.D_COUNT, HOST.D_SRC_W]
def HOST.part2 : List Fld := [HOST.D_DST_W, HOST.D_NARROW_OK, HOST.D_HALF_IE, HOST.D_FULL_IE, HOST.D_GO, HOST.D_ABORT, HOST.D_CLEAR_HALT, HOST.D_VECTOR, HOST.D_STATE, HOST.D_RESULT, HOST.D_DONE, HOST.D_HALF, HOST.D_OVERLAP_DESC, HOST.D_WRITE_REJECTED, HOST.D_BUSY_WRITE, HOST.D_TAKEN]
def HOST.part3 : List Fld := [HOST.D_RESIDUE, HOST.D_FAIL_ADDR, HOST.D_SH_SRC, HOST.D_SH_DST, HOST.D_SH_COUNT, HOST.D_SH_CFG, HOST.D_SHADOW_VALID, HOST.D_HANDOVERS]
def HOST.fields : List Fld := HOST.part0 ++ HOST.part1 ++ HOST.part2 ++ HOST.part3

/-! ### PWR -/
def PWR.PHASE : Fld := ⟨0x00e00000, 0, 4, 0x0, 1, 0x0, 1, .ro, 0, .const, [], false⟩
def PWR.LIMIT : Fld := ⟨0x00e00000, 4, 2, 0x0, 1, 0x0, 1, .ro, 0, .const, [], false⟩
def PWR.Q_LIMIT : Fld := ⟨0x00e00000, 6, 3, 0x0, 1, 0x0, 1, .ro, 7, .const, [], false⟩
def PWR.T_LIMIT : Fld := ⟨0x00e00000, 9, 3, 0x0, 1, 0x0, 1, .ro, 7, .const, [], false⟩
def PWR.QUENCH_ACTIVE : Fld := ⟨0x00e00000, 12, 1, 0x0, 1, 0x0, 1, .ro, 0, .const, [], false⟩
def PWR.DISAGREE : Fld := ⟨0x00e00000, 13, 1, 0x0, 1, 0x0, 1, .ro, 0, .const, [], false⟩
def PWR.MEAS_FAIL : Fld := ⟨0x00e00000, 14, 1, 0x0, 1, 0x0, 1, .ro, 0, .const, [], false⟩
def PWR.THERM_LEVEL : Fld := ⟨0x00e00000, 15, 2, 0x0, 1, 0x0, 1, .ro, 0, .const, [], false⟩
def PWR.PFAIL : Fld := ⟨0x00e00000, 17, 1, 0x0, 1, 0x0, 1, .ro, 0, .const, [], false⟩
def PWR.PFAIL_DONE : Fld := ⟨0x00e00000, 18, 1, 0x0, 1, 0x0, 1, .ro, 0, .const, [], false⟩
def PWR.QUENCH_BUBBLES : Fld := ⟨0x00e00000, 24, 8, 0x0, 1, 0x0, 1, .ro, 0, .const, [], false⟩
def PWR.PHASE_SEL : Fld := ⟨0x00e00004, 0, 4, 0x0, 1, 0x0, 1, .wo, 0, .const, [], false⟩
def PWR.PHASE_ERR : Fld := ⟨0x00e00008, 0, 1, 0x0, 1, 0x0, 1, .w1c, 0, .const, [], false⟩
def PWR.OV_EVT : Fld := ⟨0x00e00008, 1, 1, 0x0, 1, 0x0, 1, .w1c, 0, .const, [], false⟩
def PWR.THERM_WARN_EVT : Fld := ⟨0x00e00008, 2, 1, 0x0, 1, 0x0, 1, .w1c, 0, .const, [], false⟩
def PWR.SENSOR_FAIL_EVT : Fld := ⟨0x00e00008, 3, 1, 0x0, 1, 0x0, 1, .w1c, 0, .const, [], false⟩
def PWR.QUENCH_EVT : Fld := ⟨0x00e00008, 4, 1, 0x0, 1, 0x0, 1, .w1c, 0, .const, [], false⟩
def PWR.LIMIT_EVT : Fld := ⟨0x00e00008, 5, 1, 0x0, 1, 0x0, 1, .w1c, 0, .const, [], false⟩
def PWR.INT_EN : Fld := ⟨0x00e0000c, 0, 6, 0x0, 1, 0x0, 1, .rw, 0, .const, [], false⟩
def PWR.PIN_EN0 : Fld := ⟨0x00e00010, 0, 1, 0x0, 1, 0x0, 1, .rw, 0, .const, [], false⟩
def PWR.PIN_EN1 : Fld := ⟨0x00e00010, 8, 1, 0x0, 1, 0x0, 1, .rw, 0, .const, [], false⟩
def PWR.PIN_PHASE0 : Fld := ⟨0x00e00010, 4, 4, 0x0, 1, 0x0, 1, .rw, 0, .const, [], false⟩
def PWR.PIN_PHASE1 : Fld := ⟨0x00e00010, 12, 4, 0x0, 1, 0x0, 1, .rw, 0, .const, [], false⟩
def PWR.PHASE_CHANGES : Fld := ⟨0x00e00014, 0, 32, 0x0, 1, 0x0, 1, .rc, 0, .const, [], false⟩
def PWR.PT_EN : Fld := ⟨0x00e00020, 0, 1, 0x4, 4, 0x0, 1, .rw, 0, .const, [], false⟩
def PWR.PT_TRIG_SEL : Fld := ⟨0x00e00020, 4, 4, 0x4, 4, 0x0, 1, .rw, 0, .const, [], false⟩
def PWR.PT_PHASE : Fld := ⟨0x00e00020, 8, 4, 0x4, 4, 0x0, 1, .rw, 0, .const, [], false⟩
def PWR.E_PREF_OP : Fld := ⟨0x00e00100, 0, 3, 0x10, 16, 0x0, 1, .rw, 0, .phPref, [], false⟩
def PWR.E_MIN_OP : Fld := ⟨0x00e00100, 8, 3, 0x10, 16, 0x0, 1, .rw, 0, .phMin, [], false⟩
def PWR.E_VALID : Fld := ⟨0x00e00100, 16, 1, 0x10, 16, 0x0, 1, .rw, 0, .phValid, [], false⟩
def PWR.E_CAP : Fld := ⟨0x00e00104, 0, 16, 0x10, 16, 0x0, 1, .rw, 0, .phCap, [], false⟩
def PWR.E_K : Fld := ⟨0x00e00104, 16, 8, 0x10, 16, 0x0, 1, .rw, 0, .phK, [], false⟩
def PWR.E_B_MAX : Fld := ⟨0x00e00104, 24, 8, 0x10, 16, 0x0, 1, .rw, 0, .phBMax, [], false⟩
def PWR.P_MEAS : Fld := ⟨0x00e00200, 0, 16, 0x0, 1, 0x0, 1, .ro, 0, .const, [], false⟩
def PWR.P_EST : Fld := ⟨0x00e00200, 16, 16, 0x0, 1, 0x0, 1, .ro, 0, .const, [], false⟩
def PWR.P_USED : Fld := ⟨0x00e00204, 0, 16, 0x0, 1, 0x0, 1, .ro, 0, .const, [], false⟩
def PWR.P_PEAK : Fld := ⟨0x00e00204, 16, 16, 0x0, 1, 0x0, 1, .rc, 0, .const, [], false⟩
def PWR.L_ENERGY : Fld := ⟨0x00e00208, 0, 16, 0x0, 1, 0x0, 1, .ro, 0, .const, [], false⟩
def PWR.L_ENERGY_VALID : Fld := ⟨0x00e00208, 16, 1, 0x0, 1, 0x0, 1, .ro, 0, .const, [], false⟩
def PWR.EST_COEF : Fld := ⟨0x00e00210, 0, 32, 0x4, 16, 0x0, 1, .ro, 0, .estCoef, [], false⟩
def PWR.RAIL_V : Fld := ⟨0x00e00300, 0, 18, 0x4, 7, 0x0, 1, .ro, 0, .const, [], false⟩
def PWR.RAIL_I : Fld := ⟨0x00e00300, 18, 14, 0x4, 7, 0x0, 1, .ro, 0, .const, [], false⟩
def PWR.TG_WARN : Fld := ⟨0x00e00800, 0, 10, 0x10, 18, 0x0, 1, .rw, 0, .tgWarn, [], false⟩
def PWR.TG_QUENCH : Fld := ⟨0x00e00800, 16, 10, 0x10, 18, 0x0, 1, .rw, 0, .tgQuench, [], false⟩
def PWR.TG_CRIT : Fld := ⟨0x00e00804, 0, 10, 0x10, 18, 0x0, 1, .rw, 0, .tgCrit, [], false⟩
def PWR.TG_LEVEL : Fld := ⟨0x00e00804, 16, 2, 0x10, 18, 0x0, 1, .ro, 0, .const, [], false⟩
def PWR.TG_HOTTEST : Fld := ⟨0x00e00808, 0, 16, 0x10, 18, 0x0, 1, .ro, 0, .const, [], false⟩
def PWR.TG_HOT_SENSOR : Fld := ⟨0x00e00808, 16, 9, 0x10, 18, 0x0, 1, .ro, 0, .const, [], false⟩
def PWR.TEMP : Fld := ⟨0x00e01000, 0, 16, 0x4, 288, 0x0, 1, .ro, 0, .const, [], false⟩
def PWR.FAILED : Fld := ⟨0x00e01000, 16, 1, 0x4, 288, 0x0, 1, .ro, 0, .const, [], false⟩
def PWR.part0 : List Fld := [PWR.PHASE, PWR.LIMIT, PWR.Q_LIMIT, PWR.T_LIMIT, PWR.QUENCH_ACTIVE, PWR.DISAGREE, PWR.MEAS_FAIL, PWR.THERM_LEVEL, PWR.PFAIL, PWR.PFAIL_DONE, PWR.QUENCH_BUBBLES, PWR.PHASE_SEL, PWR.PHASE_ERR, PWR.OV_EVT, PWR.THERM_WARN_EVT, PWR.SENSOR_FAIL_EVT]
def PWR.part1 : List Fld := [PWR.QUENCH_EVT, PWR.LIMIT_EVT, PWR.INT_EN, PWR.PIN_EN0, PWR.PIN_EN1, PWR.PIN_PHASE0, PWR.PIN_PHASE1, PWR.PHASE_CHANGES, PWR.PT_EN, PWR.PT_TRIG_SEL, PWR.PT_PHASE, PWR.E_PREF_OP, PWR.E_MIN_OP, PWR.E_VALID, PWR.E_CAP, PWR.E_K]
def PWR.part2 : List Fld := [PWR.E_B_MAX, PWR.P_MEAS, PWR.P_EST, PWR.P_USED, PWR.P_PEAK, PWR.L_ENERGY, PWR.L_ENERGY_VALID, PWR.EST_COEF, PWR.RAIL_V, PWR.RAIL_I, PWR.TG_WARN, PWR.TG_QUENCH, PWR.TG_CRIT, PWR.TG_LEVEL, PWR.TG_HOTTEST, PWR.TG_HOT_SENSOR]
def PWR.part3 : List Fld := [PWR.TEMP, PWR.FAILED]
def PWR.fields : List Fld := PWR.part0 ++ PWR.part1 ++ PWR.part2 ++ PWR.part3

/-! ### ANVL -/
def ANVL.ROM_ID : Fld := ⟨0x00f00000, 0, 16, 0x0, 1, 0x0, 1, .ro, 0, .romId, [], false⟩
def ANVL.ROM_REV : Fld := ⟨0x00f00000, 16, 8, 0x0, 1, 0x0, 1, .ro, 0, .romRev, [], false⟩
def ANVL.VARIANTS_LOADED : Fld := ⟨0x00f00000, 24, 1, 0x0, 1, 0x0, 1, .ro, 0, .const, [], false⟩
def ANVL.SET_ID : Fld := ⟨0x00f00004, 0, 32, 0x0, 1, 0x0, 1, .ro, 0, .const, [], false⟩
def ANVL.ACT_HALTED : Fld := ⟨0x00f00008, 0, 7, 0x0, 1, 0x0, 1, .ro, 0, .const, [], false⟩
def ANVL.PFAIL_COMMIT : Fld := ⟨0x00f00008, 8, 1, 0x0, 1, 0x0, 1, .ro, 0, .const, [], false⟩
def ANVL.MC_CORR : Fld := ⟨0x00f0000c, 0, 1, 0x0, 1, 0x0, 1, .w1c, 0, .const, [], false⟩
def ANVL.MC_UNCORR : Fld := ⟨0x00f0000c, 1, 1, 0x0, 1, 0x0, 1, .w1c, 0, .const, [], false⟩
def ANVL.MS_LOW : Fld := ⟨0x00f0000c, 2, 1, 0x0, 1, 0x0, 1, .w1c, 0, .const, [], false⟩
def ANVL.MC_LIST_FULL : Fld := ⟨0x00f0000c, 3, 1, 0x0, 1, 0x0, 1, .w1c, 0, .const, [], false⟩
def ANVL.COVER_MISS : Fld := ⟨0x00f0000c, 8, 7, 0x0, 1, 0x0, 1, .w1c, 0, .const, [], false⟩
def ANVL.ML_UPC : Fld := ⟨0x00f00010, 0, 15, 0x0, 1, 0x0, 1, .ro, 0, .const, [], false⟩
def ANVL.ML_SECOND : Fld := ⟨0x00f00010, 15, 1, 0x0, 1, 0x0, 1, .ro, 0, .const, [], false⟩
def ANVL.ML_REDIRECTED : Fld := ⟨0x00f00010, 19, 1, 0x0, 1, 0x0, 1, .ro, 0, .const, [], false⟩
def ANVL.ML_ACTIVITY : Fld := ⟨0x00f00010, 16, 3, 0x0, 1, 0x0, 1, .ro, 0, .const, [], false⟩
def ANVL.ML_VALID : Fld := ⟨0x00f00010, 31, 1, 0x0, 1, 0x0, 1, .w1c, 0, .const, [], false⟩
def ANVL.MC_COUNT : Fld := ⟨0x00f00014, 0, 32, 0x0, 1, 0x0, 1, .rc, 0, .const, [], false⟩
def ANVL.TRAPS : Fld := ⟨0x00f00018, 0, 32, 0x0, 1, 0x0, 1, .rc, 0, .const, [], false⟩
def ANVL.REDIRECT_USED : Fld := ⟨0x00f0001c, 0, 7, 0x0, 1, 0x0, 1, .ro, 0, .const, [], true⟩
def ANVL.SHARE : Fld := ⟨0x00f00020, 0, 8, 0x4, 7, 0x0, 1, .rw, 0, .share, [], false⟩
def ANVL.MIN : Fld := ⟨0x00f00020, 8, 8, 0x4, 7, 0x0, 1, .ro, 0, .shareMin, [], false⟩
def ANVL.PLANISH_MS : Fld := ⟨0x00f00040, 0, 16, 0x0, 1, 0x0, 1, .ro, 0, .const, [], false⟩
def ANVL.ASE_PASS_US : Fld := ⟨0x00f00044, 0, 18, 0x0, 1, 0x0, 1, .ro, 0, .const, [], false⟩
def ANVL.FLUSH_PASS_US : Fld := ⟨0x00f00048, 0, 16, 0x0, 1, 0x0, 1, .ro, 0, .const, [], false⟩
def ANVL.SCRUB_CORR : Fld := ⟨0x00f00050, 0, 32, 0x0, 1, 0x0, 1, .rc, 0, .const, [], false⟩
def ANVL.SCRUB_UNCORR : Fld := ⟨0x00f00054, 0, 32, 0x0, 1, 0x0, 1, .rc, 0, .const, [], false⟩
def ANVL.REMAP_USED : Fld := ⟨0x00f00100, 0, 16, 0x0, 1, 0x0, 1, .ro, 0, .const, [], true⟩
def ANVL.REMAP_FREE : Fld := ⟨0x00f00100, 16, 16, 0x0, 1, 0x0, 1, .ro, 0, .const, [], true⟩
def ANVL.MS_WRITES : Fld := ⟨0x00f00104, 0, 32, 0x0, 1, 0x0, 1, .rc, 0, .const, [], false⟩
def ANVL.VARIANTS : Fld := ⟨0x00f01000, 0, 3, 0x4, 256, 0x0, 1, .ro, 0, .variants, [], false⟩
def ANVL.SELECTED : Fld := ⟨0x00f01000, 4, 2, 0x4, 256, 0x0, 1, .ro, 0, .const, [], false⟩
def ANVL.CLASS : Fld := ⟨0x00f01000, 8, 4, 0x4, 256, 0x0, 1, .ro, 0, .routineClass, [], false⟩
def ANVL.part0 : List Fld := [ANVL.ROM_ID, ANVL.ROM_REV, ANVL.VARIANTS_LOADED, ANVL.SET_ID, ANVL.ACT_HALTED, ANVL.PFAIL_COMMIT, ANVL.MC_CORR, ANVL.MC_UNCORR, ANVL.MS_LOW, ANVL.MC_LIST_FULL, ANVL.COVER_MISS, ANVL.ML_UPC, ANVL.ML_SECOND, ANVL.ML_REDIRECTED, ANVL.ML_ACTIVITY, ANVL.ML_VALID]
def ANVL.part1 : List Fld := [ANVL.MC_COUNT, ANVL.TRAPS, ANVL.REDIRECT_USED, ANVL.SHARE, ANVL.MIN, ANVL.PLANISH_MS, ANVL.ASE_PASS_US, ANVL.FLUSH_PASS_US, ANVL.SCRUB_CORR, ANVL.SCRUB_UNCORR, ANVL.REMAP_USED, ANVL.REMAP_FREE, ANVL.MS_WRITES, ANVL.VARIANTS, ANVL.SELECTED, ANVL.CLASS]
def ANVL.fields : List Fld := ANVL.part0 ++ ANVL.part1

/-! ### FLT -/
def FLT.WORST : Fld := ⟨0x01000000, 0, 2, 0x0, 1, 0x0, 1, .ro, 0, .const, [], false⟩
def FLT.FIRST_VALID : Fld := ⟨0x01000000, 2, 1, 0x0, 1, 0x0, 1, .ro, 0, .const, [], true⟩
def FLT.FAULT_ACTIVE : Fld := ⟨0x01000000, 3, 1, 0x0, 1, 0x0, 1, .ro, 0, .const, [], false⟩
def FLT.ALIVE_STOPPED : Fld := ⟨0x01000000, 4, 1, 0x0, 1, 0x0, 1, .ro, 0, .const, [], false⟩
def FLT.MODULE_SAFE : Fld := ⟨0x01000000, 5, 1, 0x0, 1, 0x0, 1, .ro, 0, .const, [], false⟩
def FLT.INT_PENDING : Fld := ⟨0x01000000, 6, 1, 0x0, 1, 0x0, 1, .w1c, 0, .const, [], false⟩
def FLT.INJ_REFUSED : Fld := ⟨0x01000000, 7, 1, 0x0, 1, 0x0, 1, .w1c, 0, .const, [], false⟩
def FLT.FIRST_MIN : Fld := ⟨0x01000004, 0, 2, 0x0, 1, 0x0, 1, .rw, 1, .const, [], false⟩
def FLT.EVR_MIN : Fld := ⟨0x01000004, 2, 2, 0x0, 1, 0x0, 1, .rw, 1, .const, [], false⟩
def FLT.FLOG_MIN : Fld := ⟨0x01000004, 4, 2, 0x0, 1, 0x0, 1, .rw, 2, .const, [], false⟩
def FLT.FAULT_RING_EN : Fld := ⟨0x01000004, 8, 1, 0x0, 1, 0x0, 1, .rw, 0, .const, [], false⟩
def FLT.FAULT_RING : Fld := ⟨0x01000004, 12, 3, 0x0, 1, 0x0, 1, .rw, 0, .const, [], false⟩
def FLT.FIRST_CLR : Fld := ⟨0x01000008, 0, 1, 0x0, 1, 0x0, 1, .wo, 0, .const, [], false⟩
def FLT.FAULT_N_CLR : Fld := ⟨0x01000008, 1, 1, 0x0, 1, 0x0, 1, .wo, 0, .const, [], false⟩
def FLT.ALIVE_RESTART : Fld := ⟨0x01000008, 2, 1, 0x0, 1, 0x0, 1, .wo, 0, .const, [], false⟩
def FLT.LOST : Fld := ⟨0x0100000c, 0, 16, 0x0, 1, 0x0, 1, .rc, 0, .const, [], true⟩
def FLT.EVR_LOST : Fld := ⟨0x0100000c, 16, 16, 0x0, 1, 0x0, 1, .rc, 0, .const, [], false⟩
def FLT.FLOG_LOST : Fld := ⟨0x01000010, 0, 32, 0x0, 1, 0x0, 1, .rc, 0, .const, [], false⟩
def FLT.SEQ : Fld := ⟨0x01000014, 0, 32, 0x0, 1, 0x0, 1, .ro, 0, .const, [], true⟩
def FLT.HIST_HEAD : Fld := ⟨0x01000018, 0, 5, 0x0, 1, 0x0, 1, .ro, 0, .const, [], true⟩
def FLT.HIST_COUNT : Fld := ⟨0x01000018, 5, 6, 0x0, 1, 0x0, 1, .ro, 0, .const, [], true⟩
def FLT.MASK_PORT : Fld := ⟨0x0100001c, 0, 16, 0x0, 1, 0x0, 1, .rw, 10, .const, [(0, 0, 1)], false⟩
def FLT.MASK_PIPE : Fld := ⟨0x0100001c, 16, 16, 0x0, 1, 0x0, 1, .rw, 50, .const, [(0, 0, 1)], false⟩
def FLT.FIRST : Fld := ⟨0x01000020, 0, 32, 0x4, 8, 0x0, 1, .ro, 0, .const, [], true⟩
def FLT.PORT_SAFE : Fld := ⟨0x01000080, 0, 32, 0x4, 32, 0x0, 1, .w1c, 0, .const, [], false⟩
def FLT.HIST : Fld := ⟨0x01000100, 0, 32, 0x20, 32, 0x4, 8, .ro, 0, .const, [], true⟩
def FLT.INJ_KIND : Fld := ⟨0x01000400, 0, 2, 0x0, 1, 0x0, 1, .rw, 0, .const, [], false⟩
def FLT.INJ_CRUC : Fld := ⟨0x01000400, 2, 1, 0x0, 1, 0x0, 1, .rw, 0, .const, [], false⟩
def FLT.INJ_SRC : Fld := ⟨0x01000400, 8, 8, 0x0, 1, 0x0, 1, .rw, 0, .const, [], false⟩
def FLT.INJ_BITS : Fld := ⟨0x01000400, 16, 2, 0x0, 1, 0x0, 1, .rw, 1, .const, [(0, 0, 1), (3, 3, 1)], false⟩
def FLT.INJ_GO : Fld := ⟨0x01000400, 31, 1, 0x0, 1, 0x0, 1, .wo, 0, .const, [], false⟩
def FLT.INJ_SCOPE : Fld := ⟨0x01000404, 0, 16, 0x0, 1, 0x0, 1, .rw, 0, .const, [], false⟩
def FLT.INJ_TARGET : Fld := ⟨0x01000408, 0, 64, 0x0, 1, 0x0, 1, .rw, 0, .const, [], false⟩
def FLT.S_IMPLEMENTED : Fld := ⟨0x01010000, 0, 1, 0x10, 256, 0x0, 1, .ro, 0, .fltImpl, [], false⟩
def FLT.S_BASE_CLASS : Fld := ⟨0x01010000, 1, 2, 0x10, 256, 0x0, 1, .ro, 0, .fltClass, [], false⟩
def FLT.S_SCOPE_KIND : Fld := ⟨0x01010000, 4, 4, 0x10, 256, 0x0, 1, .ro, 0, .fltKind, [], false⟩
def FLT.S_N : Fld := ⟨0x01010000, 8, 8, 0x10, 256, 0x0, 1, .rw, 0, .fltN, [], false⟩
def FLT.S_W : Fld := ⟨0x01010000, 16, 16, 0x10, 256, 0x0, 1, .rw, 0, .fltW, [(0, 0, 1)], false⟩
def FLT.S_REACT_BASE : Fld := ⟨0x01010004, 0, 7, 0x10, 256, 0x0, 1, .rw, 0, .fltReactBase, [], false⟩
def FLT.S_REACT_ESC : Fld := ⟨0x01010004, 8, 7, 0x10, 256, 0x0, 1, .rw, 0, .fltReactEsc, [], false⟩
def FLT.S_EVENTS : Fld := ⟨0x01010008, 0, 32, 0x10, 256, 0x0, 1, .rc, 0, .const, [], false⟩
def FLT.S_SUPPRESSED : Fld := ⟨0x0101000c, 0, 32, 0x10, 256, 0x0, 1, .rc, 0, .const, [], false⟩
def FLT.part0 : List Fld := [FLT.WORST, FLT.FIRST_VALID, FLT.FAULT_ACTIVE, FLT.ALIVE_STOPPED, FLT.MODULE_SAFE, FLT.INT_PENDING, FLT.INJ_REFUSED, FLT.FIRST_MIN, FLT.EVR_MIN, FLT.FLOG_MIN, FLT.FAULT_RING_EN, FLT.FAULT_RING, FLT.FIRST_CLR, FLT.FAULT_N_CLR, FLT.ALIVE_RESTART, FLT.LOST]
def FLT.part1 : List Fld := [FLT.EVR_LOST, FLT.FLOG_LOST, FLT.SEQ, FLT.HIST_HEAD, FLT.HIST_COUNT, FLT.MASK_PORT, FLT.MASK_PIPE, FLT.FIRST, FLT.PORT_SAFE, FLT.HIST, FLT.INJ_KIND, FLT.INJ_CRUC, FLT.INJ_SRC, FLT.INJ_BITS, FLT.INJ_GO, FLT.INJ_SCOPE]
def FLT.part2 : List Fld := [FLT.INJ_TARGET, FLT.S_IMPLEMENTED, FLT.S_BASE_CLASS, FLT.S_SCOPE_KIND, FLT.S_N, FLT.S_W, FLT.S_REACT_BASE, FLT.S_REACT_ESC, FLT.S_EVENTS, FLT.S_SUPPRESSED]
def FLT.fields : List Fld := FLT.part0 ++ FLT.part1 ++ FLT.part2

/-! ### MIL -/
def MIL.LC_STATE : Fld := ⟨0x00001000, 0, 2, 0x0, 1, 0x0, 1, .ro, 0, .const, [], false⟩
def MIL.IDENTITY_OK : Fld := ⟨0x00001000, 2, 1, 0x0, 1, 0x0, 1, .ro, 0, .const, [], false⟩
def MIL.IMAGE_KEY_FUSED : Fld := ⟨0x00001000, 3, 1, 0x0, 1, 0x0, 1, .ro, 0, .const, [], false⟩
def MIL.SLOT_FUSED : Fld := ⟨0x00001000, 4, 4, 0x0, 1, 0x0, 1, .ro, 0, .const, [], false⟩
def MIL.SLOT_REVOKED : Fld := ⟨0x00001000, 8, 4, 0x0, 1, 0x0, 1, .ro, 0, .const, [], false⟩
def MIL.SEC_FLOOR : Fld := ⟨0x00001000, 12, 8, 0x0, 1, 0x0, 1, .ro, 0, .const, [], false⟩
def MIL.CMD_BUSY : Fld := ⟨0x00001000, 20, 1, 0x0, 1, 0x0, 1, .ro, 0, .const, [], false⟩
def MIL.SERIAL : Fld := ⟨0x00001008, 0, 64, 0x0, 1, 0x0, 1, .ro, 0, .const, [], false⟩
def MIL.NONCE : Fld := ⟨0x00001010, 0, 32, 0x4, 4, 0x0, 1, .ro, 0, .const, [], false⟩
def MIL.CMD_ADDR : Fld := ⟨0x00001020, 0, 64, 0x0, 1, 0x0, 1, .rw, 0, .const, [], false⟩
def MIL.GO : Fld := ⟨0x00001028, 0, 1, 0x0, 1, 0x0, 1, .wo, 0, .const, [], false⟩
def MIL.RESULT : Fld := ⟨0x0000102c, 0, 8, 0x0, 1, 0x0, 1, .ro, 0, .const, [], false⟩
def MIL.LAST_COMMAND : Fld := ⟨0x0000102c, 8, 8, 0x0, 1, 0x0, 1, .ro, 0, .const, [], false⟩
def MIL.DONE : Fld := ⟨0x0000102c, 16, 1, 0x0, 1, 0x0, 1, .w1c, 0, .const, [], false⟩
def MIL.ID_PUB : Fld := ⟨0x00001100, 0, 32, 0x4, 24, 0x0, 1, .ro, 0, .const, [], false⟩
def MIL.SLOT_HASH : Fld := ⟨0x00001200, 0, 32, 0x40, 4, 0x4, 12, .ro, 0, .const, [], false⟩
def MIL.part0 : List Fld := [MIL.LC_STATE, MIL.IDENTITY_OK, MIL.IMAGE_KEY_FUSED, MIL.SLOT_FUSED, MIL.SLOT_REVOKED, MIL.SEC_FLOOR, MIL.CMD_BUSY, MIL.SERIAL, MIL.NONCE, MIL.CMD_ADDR, MIL.GO, MIL.RESULT, MIL.LAST_COMMAND, MIL.DONE, MIL.ID_PUB, MIL.SLOT_HASH]
def MIL.fields : List Fld := MIL.part0

/-! ### ASY -/
def ASY.CMD_TESTS : Fld := ⟨0x01002000, 0, 5, 0x0, 1, 0x0, 1, .rw, 0, .const, [], false⟩
def ASY.CMD_REPAIR : Fld := ⟨0x01002000, 8, 2, 0x0, 1, 0x0, 1, .rw, 0, .const, [], false⟩
def ASY.CMD_ABORT : Fld := ⟨0x01002000, 30, 1, 0x0, 1, 0x0, 1, .wo, 0, .const, [], false⟩
def ASY.CMD_GO : Fld := ⟨0x01002000, 31, 1, 0x0, 1, 0x0, 1, .wo, 0, .const, [], false⟩
def ASY.STATE : Fld := ⟨0x01002004, 0, 2, 0x0, 1, 0x0, 1, .ro, 0, .const, [], false⟩
def ASY.REFUSAL : Fld := ⟨0x01002004, 4, 4, 0x0, 1, 0x0, 1, .ro, 0, .const, [], false⟩
def ASY.CURRENT : Fld := ⟨0x01002004, 8, 3, 0x0, 1, 0x0, 1, .ro, 0, .const, [], false⟩
def ASY.DONE : Fld := ⟨0x01002004, 16, 1, 0x0, 1, 0x0, 1, .w1c, 0, .const, [], false⟩
def ASY.ABORTED : Fld := ⟨0x01002004, 17, 1, 0x0, 1, 0x0, 1, .w1c, 0, .const, [], false⟩
def ASY.WORST_PPM : Fld := ⟨0x01002008, 0, 9, 0x0, 1, 0x0, 1, .ro, 0, .const, [], false⟩
def ASY.WORST_CLK : Fld := ⟨0x01002008, 9, 4, 0x0, 1, 0x0, 1, .ro, 0, .const, [], false⟩
def ASY.LBUF : Fld := ⟨0x01002050, 0, 16, 0x0, 1, 0x0, 1, .ro, 0, .const, [], false⟩
def ASY.LBUF_VALID : Fld := ⟨0x01002050, 16, 1, 0x0, 1, 0x0, 1, .ro, 0, .const, [], false⟩
def ASY.FAILS : Fld := ⟨0x01002100, 0, 32, 0x10, 5, 0x0, 1, .ro, 0, .const, [], false⟩
def ASY.REPAIRED : Fld := ⟨0x01002104, 0, 32, 0x10, 5, 0x0, 1, .ro, 0, .const, [], false⟩
def ASY.UNREPAIRED : Fld := ⟨0x01002108, 0, 32, 0x10, 5, 0x0, 1, .ro, 0, .const, [], false⟩
def ASY.SPARES_LEFT : Fld := ⟨0x0100210c, 0, 32, 0x10, 5, 0x0, 1, .ro, 0, .const, [], false⟩
def ASY.part0 : List Fld := [ASY.CMD_TESTS, ASY.CMD_REPAIR, ASY.CMD_ABORT, ASY.CMD_GO, ASY.STATE, ASY.REFUSAL, ASY.CURRENT, ASY.DONE, ASY.ABORTED, ASY.WORST_PPM, ASY.WORST_CLK, ASY.LBUF, ASY.LBUF_VALID, ASY.FAILS, ASY.REPAIRED, ASY.UNREPAIRED]
def ASY.part1 : List Fld := [ASY.SPARES_LEFT]
def ASY.fields : List Fld := ASY.part0 ++ ASY.part1

/-! ### GLB -/
def GLB.LAST_KIND : Fld := ⟨0x00000100, 0, 3, 0x0, 1, 0x0, 1, .ro, 0, .const, [], true⟩
def GLB.MODULE_RESETS : Fld := ⟨0x00000100, 8, 8, 0x0, 1, 0x0, 1, .ro, 0, .const, [], true⟩
def GLB.THERM_HELD : Fld := ⟨0x00000100, 16, 1, 0x0, 1, 0x0, 1, .ro, 0, .const, [], true⟩
def GLB.RESULT_FIRST : Fld := ⟨0x00000104, 0, 8, 0x0, 1, 0x0, 1, .ro, 255, .const, [], false⟩
def GLB.RESULT_SECOND : Fld := ⟨0x00000104, 8, 8, 0x0, 1, 0x0, 1, .ro, 255, .const, [], false⟩
def GLB.FIRST_BANK : Fld := ⟨0x00000104, 16, 1, 0x0, 1, 0x0, 1, .ro, 0, .const, [], false⟩
def GLB.WAIT_HOST : Fld := ⟨0x00000104, 17, 1, 0x0, 1, 0x0, 1, .ro, 0, .const, [], false⟩
def GLB.LANES_READY : Fld := ⟨0x00000104, 18, 1, 0x0, 1, 0x0, 1, .ro, 0, .const, [], false⟩
def GLB.STEP : Fld := ⟨0x00000104, 20, 4, 0x0, 1, 0x0, 1, .ro, 0, .const, [], false⟩
def GLB.MODULE_RESET : Fld := ⟨0x00000110, 0, 1, 0x0, 1, 0x0, 1, .wo, 0, .const, [], false⟩
def GLB.SOFT_RESET : Fld := ⟨0x00000110, 1, 1, 0x0, 1, 0x0, 1, .wo, 0, .const, [], false⟩
def GLB.CONFIRM : Fld := ⟨0x00000110, 16, 16, 0x0, 1, 0x0, 1, .wo, 0, .const, [], false⟩
def GLB.TARGET : Fld := ⟨0x00000114, 0, 11, 0x0, 1, 0x0, 1, .rw, 0, .const, [], false⟩
def GLB.PIPE_GO : Fld := ⟨0x00000114, 12, 1, 0x0, 1, 0x0, 1, .wo, 0, .const, [], false⟩
def GLB.PORT_GO : Fld := ⟨0x00000114, 13, 1, 0x0, 1, 0x0, 1, .wo, 0, .const, [], false⟩
def GLB.BUSY : Fld := ⟨0x00000114, 14, 1, 0x0, 1, 0x0, 1, .ro, 0, .const, [], false⟩
def GLB.IGNORED : Fld := ⟨0x00000114, 15, 1, 0x0, 1, 0x0, 1, .w1c, 0, .const, [], false⟩
def GLB.PIN_LEVEL : Fld := ⟨0x00000180, 0, 1, 0x10, 5, 0x0, 1, .ro, 0, .const, [], false⟩
def GLB.PIN_STUCK : Fld := ⟨0x00000180, 1, 1, 0x10, 5, 0x0, 1, .ro, 0, .const, [], false⟩
def GLB.PIN_STUCK_EVT : Fld := ⟨0x00000180, 2, 1, 0x10, 5, 0x0, 1, .w1c, 0, .const, [], true⟩
def GLB.PIN_GLITCHES : Fld := ⟨0x00000184, 0, 16, 0x10, 5, 0x0, 1, .rc, 0, .const, [], true⟩
def GLB.PIN_EXCESS : Fld := ⟨0x00000184, 16, 16, 0x10, 5, 0x0, 1, .rc, 0, .const, [], true⟩
def GLB.DEVICE : Fld := ⟨0x00000000, 0, 16, 0x0, 1, 0x0, 1, .ro, 53540, .const, [], false⟩
def GLB.SIL_REV : Fld := ⟨0x00000000, 16, 4, 0x0, 1, 0x0, 1, .ro, 0, .silRev, [], false⟩
def GLB.CODE : Fld := ⟨0x00000004, 0, 32, 0x4, 4, 0x0, 1, .ro, 0, .orderCode, [], false⟩
def GLB.MINOR : Fld := ⟨0x00000014, 0, 8, 0x0, 1, 0x0, 1, .ro, 0, .const, [], false⟩
def GLB.MAJOR : Fld := ⟨0x00000014, 8, 8, 0x0, 1, 0x0, 1, .ro, 1, .const, [], false⟩
def GLB.SCRATCH : Fld := ⟨0x00000018, 0, 32, 0x0, 1, 0x0, 1, .rw, 0, .const, [], false⟩
def GLB.SUM_IMG : Fld := ⟨0x00000200, 0, 1, 0x0, 1, 0x0, 1, .ro, 0, .const, [], false⟩
def GLB.SUM_PORT : Fld := ⟨0x00000200, 1, 1, 0x0, 1, 0x0, 1, .ro, 0, .const, [], false⟩
def GLB.SUM_EM : Fld := ⟨0x00000200, 2, 1, 0x0, 1, 0x0, 1, .ro, 0, .const, [], false⟩
def GLB.SUM_ASE : Fld := ⟨0x00000200, 3, 1, 0x0, 1, 0x0, 1, .ro, 0, .const, [], false⟩
def GLB.SUM_CRUC : Fld := ⟨0x00000200, 4, 1, 0x0, 1, 0x0, 1, .ro, 0, .const, [], false⟩
def GLB.SUM_TIME : Fld := ⟨0x00000200, 5, 1, 0x0, 1, 0x0, 1, .ro, 0, .const, [], false⟩
def GLB.SUM_TRIG : Fld := ⟨0x00000200, 6, 1, 0x0, 1, 0x0, 1, .ro, 0, .const, [], false⟩
def GLB.SUM_TELE : Fld := ⟨0x00000200, 7, 1, 0x0, 1, 0x0, 1, .ro, 0, .const, [], false⟩
def GLB.SUM_SAMPLING : Fld := ⟨0x00000200, 8, 1, 0x0, 1, 0x0, 1, .ro, 0, .const, [], false⟩
def GLB.SUM_HOST : Fld := ⟨0x00000200, 9, 1, 0x0, 1, 0x0, 1, .ro, 0, .const, [], false⟩
def GLB.SUM_PWR : Fld := ⟨0x00000200, 10, 1, 0x0, 1, 0x0, 1, .ro, 0, .const, [], false⟩
def GLB.SUM_MILEST : Fld := ⟨0x00000200, 11, 1, 0x0, 1, 0x0, 1, .ro, 0, .const, [], false⟩
def GLB.SUM_ASSAY : Fld := ⟨0x00000200, 12, 1, 0x0, 1, 0x0, 1, .ro, 0, .const, [], false⟩
def GLB.SUM_PIN : Fld := ⟨0x00000200, 13, 1, 0x0, 1, 0x0, 1, .ro, 0, .const, [], false⟩
def GLB.INT_EN : Fld := ⟨0x00000204, 0, 14, 0x0, 1, 0x0, 1, .rw, 0, .const, [], false⟩
def GLB.PENDING : Fld := ⟨0x00000208, 0, 1, 0x0, 1, 0x0, 1, .w1c, 0, .const, [], false⟩
def GLB.PORT_SUM : Fld := ⟨0x00000280, 0, 32, 0x4, 32, 0x0, 1, .ro, 0, .const, [], false⟩
def GLB.part0 : List Fld := [GLB.LAST_KIND, GLB.MODULE_RESETS, GLB.THERM_HELD, GLB.RESULT_FIRST, GLB.RESULT_SECOND, GLB.FIRST_BANK, GLB.WAIT_HOST, GLB.LANES_READY, GLB.STEP, GLB.MODULE_RESET, GLB.SOFT_RESET, GLB.CONFIRM, GLB.TARGET, GLB.PIPE_GO, GLB.PORT_GO, GLB.BUSY]
def GLB.part1 : List Fld := [GLB.IGNORED, GLB.PIN_LEVEL, GLB.PIN_STUCK, GLB.PIN_STUCK_EVT, GLB.PIN_GLITCHES, GLB.PIN_EXCESS, GLB.DEVICE, GLB.SIL_REV, GLB.CODE, GLB.MINOR, GLB.MAJOR, GLB.SCRATCH, GLB.SUM_IMG, GLB.SUM_PORT, GLB.SUM_EM, GLB.SUM_ASE]
def GLB.part2 : List Fld := [GLB.SUM_CRUC, GLB.SUM_TIME, GLB.SUM_TRIG, GLB.SUM_TELE, GLB.SUM_SAMPLING, GLB.SUM_HOST, GLB.SUM_PWR, GLB.SUM_MILEST, GLB.SUM_ASSAY, GLB.SUM_PIN, GLB.INT_EN, GLB.PENDING, GLB.PORT_SUM]
def GLB.fields : List Fld := GLB.part0 ++ GLB.part1 ++ GLB.part2

end Reg

end Sys2Proof.Machine
end

