-- ==== Sys2Proof/Machine/Sparse.lean ====
section
/-!
DEFINITION. Sparse tables: lists of (key, value) pairs with rising keys. Registers, per-port and per-queue records and the
device memory are held in them; a key that a table does not list reads as a default.
-/
namespace Sys2Proof.Machine

/-- A sparse table. -/
abbrev Tab (α : Type) := List (Nat × α)

/-- The value listed under a key, if any. -/
def tabFind {α : Type} : Tab α → Nat → Option α
  | [], _ => none
  | (a, x) :: t, k => if a = k then some x else tabFind t k

/-- The value of a key, or the default for a key that is not listed. -/
def tabGet {α : Type} (d : α) (t : Tab α) (k : Nat) : α := (tabFind t k).getD d

/-- List `v` under `k`, in key order. -/
def tabPut {α : Type} : Tab α → Nat → α → Tab α
  | [], k, v => [(k, v)]
  | (a, x) :: t, k, v =>
    if k < a then (k, v) :: (a, x) :: t
    else if a = k then (k, v) :: t
    else (a, x) :: tabPut t k v

/-- Unlist a key. -/
def tabDel {α : Type} : Tab α → Nat → Tab α
  | [], _ => []
  | (a, x) :: t, k => if a = k then tabDel t k else (a, x) :: tabDel t k

/-- Change the value of a key. -/
def tabMap {α : Type} (d : α) (t : Tab α) (k : Nat) (f : α → α) : Tab α := tabPut t k (f (tabGet d t k))

/-! ### The device memory (R448) -/

/-- The byte at a device address. A byte that nothing has written reads 0 (R448: reserved bytes within an item read as 0;
DESIGN CHOICE (log 6) for the others). -/
def memByte (m : List Host.Cell) (a : Nat) : Byte := tabGet 0 m a

/-- Write one byte, keeping the canonical form: a zero byte is not listed. -/
def memPut (m : List Host.Cell) (a : Nat) (b : Byte) : List Host.Cell :=
  if b = 0 then tabDel m a else tabPut m a b

/-- Little-endian number in `n` bytes from address `a`. -/
def memRead (m : List Host.Cell) (a : Nat) : Nat → Nat
  | 0 => 0
  | n + 1 => (memByte m a).toNat + 256 * memRead m (a + 1) n

/-- The `n` bytes from address `a`. -/
def memBytes (m : List Host.Cell) (a : Nat) : Nat → List Byte
  | 0 => []
  | n + 1 => memByte m a :: memBytes m (a + 1) n

/-- Write the low `8 * n` bits of `v` little-endian from address `a`. -/
def memWrite (m : List Host.Cell) (a : Nat) : Nat → Nat → List Host.Cell
  | 0, _ => m
  | n + 1, v => memWrite (memPut m a (BitVec.ofNat 8 v)) (a + 1) n (v / 256)

/-- Write a list of bytes from address `a`. -/
def memStore (m : List Host.Cell) (a : Nat) : List Byte → List Host.Cell
  | [] => m
  | b :: bs => memStore (memPut m a b) (a + 1) bs

/-- The canonical form of the device memory: addresses strictly rising, and no listed byte equal to what an unlisted
address reads as. -/
def memWf : List Host.Cell → Bool
  | [] => true
  | [(_, b)] => b != 0
  | (a, b) :: (a', b') :: t => b != 0 && decide (a < a') && memWf ((a', b') :: t)

end Sys2Proof.Machine
end

