-- ==== Sys2Proof/Machine/State.lean ====
section
/-!
DEFINITION. The state of the module: everything the spec lets it hold, as plain data. Register fields live in `regs`, under
the bit addresses of the register map; the memories that the device address space reaches live in `dev`; the rest, which no
register shows, lives in one record per subsystem.
-/
namespace Sys2Proof.Machine

/-- Why the module stops. No command stops it: the constructor exists so that the type is not empty. It is raised by
nothing, so it is neither safe nor unsafe. -/
inductive Fault where
  | halted
  deriving DecidableEq, Repr

/-- Why a command is refused. -/
inductive Refusal where
  /-- Raised by `exec`'s arm of a command that has no meaning yet; safe. -/
  | notModelled (mnemonic : String)
  deriving DecidableEq, Repr

/-- What a lane's transmitter sends (R80, R91, R92, R100, R103): nothing; Local Fault ordered sets; idles; a test pattern with
its settings; what the lane receives; auto-negotiation with the technology and the symmetric pause ability advertised, or else
the port's own signal, with Remote Fault or without. -/
inductive LineSig where
  | electricalIdle
  | localFault
  | idles
  | pattern (pat : Nat) (invert : Bool) (user : Nat) (rate : Option Nat)
  | returned
  | negotiate (tech : Nat) (pause remoteFault : Bool)
  | link (remoteFault : Bool)
  deriving DecidableEq, Repr

/-- What the module gives to the outside, oldest first. -/
inductive Out where
  /-- An MSI-X message: vector, address and data (R323). -/
  | msix (vector addr data : Nat)
  /-- A frame on a front port's wire, FCS included; `bad`: it ended with an inverted FCS. -/
  | frame (port : Nat) (bytes : List Byte) (bad : Bool)
  /-- A pause frame on a front port's wire (R95). -/
  | pause (port : Nat) (bytes : List Byte)
  /-- A write into host memory (R339). -/
  | hostWrite (addr : Nat) (bytes : List Byte)
  /-- An SPDM response, byte for byte (R417). -/
  | spdm (bytes : List Byte)
  /-- Bytes returned to the SMBus controller; none: the byte was not acknowledged (R455 to R457). -/
  | smb (bytes : List Byte)
  | smbNack
  /-- Transmitted bits inverted on a lane (R102, R405). -/
  | flip (lane bits : Nat)
  /-- From now on one bit in every 2^exp that a lane transmits is inverted (R102, R405). -/
  | flipRate (lane exp : Nat)
  /-- The answer to a link partner's coefficient request (R86): 0 updated, 1 coefficient at limit, 2 equalization limit. -/
  | coeff (lane answer : Nat)
  /-- What a lane sends from now on (R92). -/
  | line (lane : Nat) (sig : LineSig)
  /-- Bits shifted out of the JTAG data register, least significant first (R419). -/
  | tdo (width value : Nat)
  deriving DecidableEq, Repr

/-! ### Touchstone (R272 to R293) -/

/-- What an ARM latched (R284): the instant and the period, in the units of corrected time and in ns. -/
structure Trig where
  periodic : Bool := false
  period : Nat := 0
  base : Nat := 0
  pend : Nat := 0
  deriving DecidableEq, Repr

/-- A mapping of R274: OFF in 2^-16 ns, REF and RATE. -/
structure TimeMap where
  off : Nat := 0
  ref : Nat := 0
  rate : Nat := 0
  deriving DecidableEq, Repr

structure TimeSt where
  /-- The mapping before the last change (R276). -/
  old : TimeMap := {}
  trig : Tab Trig := []
  /-- FRC of the last update (R278). -/
  lastUpdate : Nat := 0
  /-- PPS_IN accepted since power-on, and the FRC of its last accepted edge (R288). -/
  ppsSeen : Bool := false
  ppsLast : Nat := 0
  /-- The level of PPS_OUT and the FRC at which it returns low (R289). -/
  ppsHigh : Bool := false
  ppsEnd : Nat := 0
  /-- The second of the last second-boundary pulse, plus one (R289, SRC = 0). -/
  ppsSecond : Nat := 0
  /-- Pulses waiting: trigger and trigger instant (R289, SRC = 1). -/
  ppsDue : List (Nat × Nat) := []
  /-- FRC until which SYNCE_CLK_OUT[k] is held low (R290). -/
  synceLow : Tab Nat := []
  deriving DecidableEq, Repr

/-! ### Core, power and thermal control (R31 to R52, R352 to R371) -/

/-- A droop response of a shard (R45): FRC of its last detection, and FRC since which every reading of VCORE has been within
the recovery band. -/
structure Droop where
  start : Nat
  band : Option Nat := none
  deriving DecidableEq, Repr

structure CoreSt where
  /-- No image has been configured since the last reset, or since Assay unloaded it: READY has not set (R356, R428). -/
  idle : Bool := true
  /-- FRC at which the token windows that run now began (R39). -/
  trmAt : Nat := 0
  /-- TRIM of each row (R40). -/
  trim : Tab Nat := []
  /-- The run of windows that qualify for relaxing (R40). -/
  relaxRun : Nat := 0
  /-- Monitors whose window has ended, in the windows that end now (R39). -/
  ended : List Nat := []
  /-- The windows that end now overlap a transition or a droop response (R41). -/
  skip : Bool := false
  /-- Shards with a droop response (R45). -/
  droop : Tab Droop := []
  deriving DecidableEq, Repr

/-- The governing values of a phase entry (R356). -/
structure PhaseVal where
  pref : Nat := 7
  min : Nat := 4
  cap : Nat := 1900
  k : Nat := 64
  bMax : Nat := 128
  deriving DecidableEq, Repr

/-- The selection applied on an edge of the timing clock (R358): its FRC, its rank, and what it replaced: the phase, the
governing values, Q_LIMIT and the runs of R363. `done`: it was applied, not refused. -/
structure PhaseEdge where
  at_ : Nat
  rank : Nat
  done : Bool
  phase : Nat
  govern : PhaseVal
  qLimit : Nat
  over_ : Nat
  under : Nat
  deriving DecidableEq, Repr

structure PwrSt where
  /-- The values the controller governs with (R371), and those of the entry in force that a write has left for the next
  window. -/
  govern : PhaseVal := {}
  nextGovern : Option PhaseVal := none
  edge : Option PhaseEdge := none
  /-- FRC at which the 10 µs window that runs now began (R354). -/
  winAt : Nat := 0
  /-- Powered hours (R37): FRC from which the input has been valid, and ticks of valid input before that which no increment
  has counted. -/
  hoursAt : Nat := 0
  hoursBank : Nat := 0
  /-- VIN × IIN of the samples of this window, in units of 0.1 mW·10³ (mV × 0.1 A), how many, and whether one was bad. -/
  winSum : Nat := 0
  winCount : Nat := 0
  winBad : Bool := false
  vin : Nat := 0
  /-- Run of consecutive failed samples and windows (R355). -/
  badSamples : Nat := 0
  disagreeRun : Nat := 0
  agreeRun : Nat := 0
  validRun : Nat := 0
  /-- Runs of rails outside tolerance, of VIN above 76 V and of VIN below 34 V (R353, R368). -/
  railRun : Tab Nat := []
  vinHigh : Nat := 0
  vinLow : Nat := 0
  /-- Runs of windows over and under the cap (R363). -/
  overRun : Nat := 0
  underRun : Nat := 0
  /-- n of R362. -/
  bubbles : Nat := 0
  /-- FRC of the last reading of a sensor (R364). -/
  sensorAt : Tab Nat := []
  /-- FRC of the next 10 ms step of T_LIMIT (R366). -/
  thermNext : Nat := 0
  /-- FRC since which every group has been below QUENCH − 5 °C. -/
  belowSince : Option Nat := none
  thermFloor : Bool := false
  /-- T_LIMIT is rising after the QUENCH level was left. -/
  rising : Bool := false
  /-- THERM_TRIP_N asserted, and FRC since which every working sensor has been below CRIT − 10 °C (R367). -/
  thermTrip : Bool := false
  coolSince : Option Nat := none
  /-- FRC since which the input has been good after a power failure (R369). -/
  goodSince : Option Nat := none
  deriving DecidableEq, Repr

/-! ### Faults (R389 to R406) -/

/-- An event on its way to the fault unit. -/
structure FaultEvt where
  src : Nat
  index : Nat
  detail : Nat
  injected : Bool := false
  /-- The scope kind an injected event names (R405); otherwise the catalogue's. -/
  kind : Option Nat := none
  deriving DecidableEq, Repr

/-- A decided event (R393). -/
structure FaultRec where
  src : Nat
  cls : Nat
  escalated : Bool
  suppressed : Bool
  injected : Bool
  react : Nat
  kind : Nat
  index : Nat
  count : Nat
  frc : Nat
  detail : Nat
  seq : Nat
  deriving DecidableEq, Repr

/-- A mask window (R403): scope kind 0 module, 1 port, 2 pipe; `until_` none lasts until the reset that ends safe state. -/
structure MaskWin where
  kind : Nat
  index : Nat
  until_ : Option Nat
  raiser : Nat
  seen : List Nat
  deriving DecidableEq, Repr

/-- A memory injection that waits for a write (R405). -/
structure MemInj where
  cruc : Bool
  target : Nat
  nbits : Nat
  deriving DecidableEq, Repr

structure FltSt where
  /-- Events reported, in the order in which they are decided (R392). -/
  reported : List FaultEvt := []
  /-- The recorder queue (R394). -/
  queue : List FaultRec := []
  /-- The open escalation window of a source: FRC of its start and its count (R392). -/
  esc : Tab (Nat × Nat) := []
  masks : List MaskWin := []
  /-- A fatal event has been decided since the last reset (R400). -/
  fatal : Bool := false
  /-- FRC at which an AUTO_RESET starts its module reset (R397). -/
  autoResetAt : Option Nat := none
  /-- FRC of the start of the second in which fault lines are counted, and the lines (R385). -/
  flogSecond : Nat := 0
  flogCount : Nat := 0
  injMem : List MemInj := []
  /-- Device addresses whose word holds inverted bits, with their number (R405). -/
  injHit : List (Nat × Nat) := []
  deriving DecidableEq, Repr

/-! ### Anvil (R372 to R388) -/

structure AnvilSt where
  /-- FRC of the last reset: the passes that run then start there (R380, R387). -/
  since : Nat := 0
  /-- The frame of 256 steps (R379): steps taken, steps given by activity, and the activity next in rotating order. -/
  slot : Nat := 0
  given : Tab Nat := []
  rot : Nat := 0
  /-- Activities whose access waits for a grant, with the FRC since which, and those already counted (R51). -/
  waitAt : Tab Nat := []
  starved : List Nat := []
  /-- The shares of the last full load (R388). -/
  shares : Tab Nat := []
  /-- Pool lines taken (R384). -/
  poolNext : Nat := 0
  /-- Traps that wait for the handler that runs (R374). -/
  traps : Nat := 0
  /-- The redirect list (R375). -/
  redirect : List Nat := []
  /-- FRC of the last abandoned routine of an activity, plus one (R375). -/
  abandoned : Tab Nat := []
  /-- The micro-PC, the four working registers and the two loop counters, and the trap frame (R374). -/
  upc : Nat := 0
  work : List Quad := [0, 0, 0, 0]
  loops : List (BitVec 16) := [0, 0]
  frame : Option (Nat × List Quad × List (BitVec 16)) := none
  /-- Selected variants waiting for a routine boundary (R376). -/
  selected : Tab Nat := []
  /-- Next position of an activity's pass, and the FRC at which the pass started (R379, R380). -/
  cursor : Tab Nat := []
  passAt : Tab Nat := []
  /-- The current line of each journal of R381, plus one, by KIND. -/
  journal : Tab Nat := []
  /-- Module-store lines remapped: line number to pool line (R384). -/
  remap : Tab Nat := []
  deriving DecidableEq, Repr

/-! ### The host interface (R317 to R351, R455 to R457) -/

/-- The running transfer of a DMA channel (R339 to R346). -/
structure Dma where
  /-- Elements written, in the order of R342 or R343. -/
  moved : Nat := 0
  /-- Every element is written; the read-back is outstanding. -/
  readback : Bool := false
  /-- Delivered bytes of destination units not yet complete: (address, byte). -/
  partial_ : List Host.Cell := []
  /-- Bytes of the burst for host space that no request has carried yet, and their first address (R342). -/
  gather : Option (Nat × List Byte) := none
  deriving DecidableEq, Repr

structure HostSt where
  /-- Read latches of the 64-bit registers, by the offset of the low word: the host's own and the SMBus target's (R12). -/
  latch : Tab Nat := []
  smbLatch : Tab Nat := []
  /-- Low words written and not yet committed, by offset (R12). -/
  low : Tab Nat := []
  /-- MSI-X table words, by 4 × vector + word; an unlisted word holds its reset value (R447). -/
  msix : Tab Nat := []
  /-- The pending-bit array (R447). -/
  pba : Nat := 0
  /-- The function mask of the MSI-X capability. -/
  funcMask : Bool := false
  /-- Words of configuration space that have been written, by offset; an unlisted word holds its reset value (R318). -/
  cfg : Tab Nat := []
  /-- FRC at which the message of a ring with PENDING is due (R324). -/
  coalAt : Tab Nat := []
  /-- FRC since which a receive ring has not been able to accept its head (R332). -/
  stallSince : Tab Nat := []
  /-- Entries completed since a ring was enabled (R326). -/
  ringSeq : Tab Nat := []
  /-- The running transfers, by channel. -/
  dma : Tab Dma := []
  /-- The channel at which the rotating service of running channels goes on (R342). -/
  dmaNext : Nat := 0
  /-- The BAR0 pointer of the SMBus target (R455). -/
  smbPtr : Nat := 0
  deriving DecidableEq, Repr

/-! ### Image, life cycle, self-test, pins and start-up -/

/-- Where a running image command stands (R61, R67, R72). -/
inductive ImgPhase where
  | verifying | configuring | waitTrigger | bankWritten
  deriving DecidableEq, Repr

/-- The image command that runs: the opcode of IMG_CMD, or 0 for the load at start-up. -/
structure ImgCmd where
  op : Nat
  bank : Nat
  phase : ImgPhase
  /-- FRC of the command, or of the end of verification. -/
  at_ : Nat
  deriving DecidableEq, Repr

structure ImgSt where
  cmd : Option ImgCmd := none
  /-- Section payloads of the running image by TYPE, rule-set sections as of the full load. -/
  run : Tab (List Byte) := []
  /-- IMAGE_DIGEST and IMAGE_LENGTH of an image that a bank write or a swap has verified and not yet committed or flipped. -/
  nextDigest : List Byte := []
  nextLen : Nat := 0
  /-- IMAGE_DIGEST of the running rule-set update (R418). -/
  update : List Byte := []
  /-- FRC of the last flip, and whether RETIRE_TIMEOUT has since been judged (R74). -/
  flipAt : Nat := 0
  overdue : Bool := false
  /-- Ports frozen by a full load (R68). -/
  frozen : List Nat := []
  /-- Banks that start-up has still to try (R429), the first first. -/
  bootLeft : List Nat := []
  deriving DecidableEq, Repr

/-- The life-cycle states that the fuses hold (R407); SERVICE is not fused. -/
inductive LifeFuse where
  | manufacture | field | retired
  deriving DecidableEq, Repr

/-- The code of a life-cycle state in LC_STATE (R407). -/
def LifeFuse.code : LifeFuse → Nat
  | .manufacture => 0
  | .field => 1
  | .retired => 3

structure MilSt where
  fused : LifeFuse := .manufacture
  /-- SERVICE, until the next reset (R407). -/
  service : Bool := false
  serial : Nat := 0
  /-- The identity private key, none once RETIRE has destroyed it, and the public key (R410). -/
  idKey : Option Nat := some 1
  idPub : List Byte := []
  imageKey : Option (List Byte) := none
  /-- Fused public-key hashes by slot (R60). -/
  slots : Tab (List Byte) := [(0, List.replicate 48 0)]
  revoked : Nat := 0
  floor : Nat := 0
  nonce : Nat := 0
  certChain : List Byte := []
  /-- SPDM negotiation: 0 nothing, 1 version given, 2 capabilities given, 3 algorithms agreed (R417). -/
  spdm : Nat := 0
  deriving DecidableEq, Repr

/-- A spare that replaces a failing unit: of an SRAM array's rows (0), of its columns (1) or an ASE bank's rows (2), the number of
the array or bank, the location replaced, and whether fuses hold the repair (R421, R423). -/
structure Repair where
  kind : Nat
  unit : Nat
  loc : Nat
  fused : Bool
  deriving DecidableEq, Repr

structure AssaySt where
  running : Bool := false
  left : List Nat := []
  /-- Assay holds OP5 and freezes TRIM (R422). -/
  hold : Bool := false
  /-- REPAIR of the command, as GO found it (R421). -/
  repair : Nat := 0
  /-- Spare rows and columns in use (R421, R423). -/
  repairs : List Repair := []
  deriving DecidableEq, Repr

/-- What JTAG holds (R419). -/
inductive JtagIr where
  | bypass | idcode | samplePreload | extest | internalScan
  deriving DecidableEq, Repr

/-- A pipe or port reset that waits until READY sets (R435). -/
inductive WaitReset where
  | pipe (p : Nat)
  | port (p : Nat)
  deriving DecidableEq, Repr

structure PinSt where
  /-- FRC of the last accepted activation, plus one; 0 for none, and of the last release (R436). -/
  acceptedAt : Tab Nat := []
  releasedAt : Tab Nat := []
  pgood : Bool := false
  /-- SMB_ADDR[1:0] as sampled at power-on (R455). -/
  smbAddr : Nat := 0
  jtag : JtagIr := .idcode
  /-- The boundary-scan cells (R419). -/
  scan : Nat := 0
  deriving DecidableEq, Repr

structure BootSt where
  /-- The rails are up: the power-on sequence has passed step 2 (R428). -/
  powered : Bool := false
  /-- Held in reset by RESET_N (R430). -/
  held : Bool := false
  /-- A soft module reset before step 3 (R441). -/
  soft : Bool := false
  /-- RESET_N held a power-on at step 2 (R428). -/
  cold : Bool := false
  waiting : List WaitReset := []
  deriving DecidableEq, Repr

/-! ### Frames and packets (R18 to R27, R185 to R188, R213 to R240) -/

/-- A frame as the module holds it, FCS included. -/
structure Frame where
  bytes : List Byte := []
  /-- Received whole and accepted by the MAC. -/
  done : Bool := false
  /-- Ingress port of this pass (R117) and requester (R222). -/
  port : Nat := 0
  req : Nat := 0
  /-- IN_TS of R294, in 2^-16 ns, and the front port that took it; none for a CPU frame. -/
  ts : Nat := 0
  front : Option Nat := none
  /-- Segments charged to MIN, SHARED and HDRM (R223). -/
  cMin : Nat := 0
  cShr : Nat := 0
  cHdrm : Nat := 0
  /-- Its first segment was charged to HDRM (R218). -/
  hr : Bool := false
  deriving DecidableEq, Repr

/-- An element of the ingress list of a requester (R226): a frame in the ingress FIFO, or the handle of a frame that bypassed
the FIFO into Crucible (R21). -/
inductive Arr where
  | fifo (f : Frame)
  | parked (h : Nat)
  deriving DecidableEq, Repr

/-- Where the frame that a port is receiving goes: the tail of its requester's list, a stored frame, the MAC itself for a MAC
control frame (its first bytes), or nowhere once it has been discarded. -/
inductive RxAt where
  | fifo (r : Nat)
  | stored (h : Nat)
  | ctrl (head : List Byte)
  | dead
  deriving DecidableEq, Repr

/-- The frame that a port is receiving: where it goes, its bytes so far, the running CRC of its bytes, the FIFO places
reserved for it, and whether it was stored under R21. -/
structure Rx where
  at_ : RxAt := .dead
  len : Nat := 0
  crc : Nat := 0xFFFFFFFF
  places : Nat := 0
  r21 : Bool := false
  deriving DecidableEq, Repr

/-- A charge made with E in place of FRAME_LEN, to be settled (R250): the node's status address, and whether it is a deficit
or a shaper bucket. -/
structure Settle where
  addr : Nat
  deficit : Bool
  e : Nat
  deriving DecidableEq, Repr

/-- A frame stored in Crucible, under the handle of its first ingot. -/
structure Stored where
  f : Frame := {}
  /-- Segments of the first ingot, and further S ingots: in use, and set aside (R220, R221). -/
  cap : Nat := 1
  chain : List Nat := []
  aside : List Nat := []
  spilled : Bool := false
  /-- The reference count, once the instances are known (R230). -/
  refs : Nat := 0
  epoch : Nat := 0
  pipe : Nat := 0
  /-- DECL_LEN, if DECL_VALID = 1. -/
  decl : Option Nat := none
  /-- Counts to post when the frame is fully received: shard and index (R193). -/
  counts : List (Nat × Nat) := []
  settles : List Settle := []
  /-- Slots whose word holds inverted bits, with their number and the bank (R405). -/
  flips : List (Nat × Nat) := []
  deriving DecidableEq, Repr

/-- The verdict (R186). -/
structure Verdict where
  disp : Nat := 0
  queue : Nat := 0x7FFFF
  mcast : Nat := 0
  mirror : Nat := 0
  cpu : Nat := 0
  strip : Nat := 0
  policer : Nat := 0
  launch : Nat := 0
  tele : Nat := 0
  deriving DecidableEq, Repr

/-- A lookup that a stage has issued (R184): the bytes it writes and where, the counter it counts at, and for an exact-match
lookup the table and key. -/
structure Look where
  dst : Nat := 0
  out : List Byte := []
  count : Option Nat := none
  em : Option (Nat × List Byte) := none
  deriving DecidableEq, Repr

/-- A packet in the ingress stages of a pipe. -/
structure Pkt where
  h : Nat
  pipe : Nat
  slot : Nat := 0
  /-- The record of R185, with the parser metadata in bytes 112–127. -/
  rec_ : List Byte := []
  origin : Nat := 0
  v : Verdict := {}
  stage : Nat := 0
  issued : Bool := false
  looks : List Look := []
  /-- Quench fraction above 0 in the pipe at the parse (R294). -/
  quench : Bool := false
  deriving DecidableEq, Repr

/-- A packet instance: what the queue engine carries with a handle (R186 to R188, R230). -/
structure Inst where
  h : Nat
  queue : Nat
  inPort : Nat := 0
  req : Nat := 0
  inPipe : Nat := 0
  epoch : Nat := 0
  pass : Nat := 0
  copy : Nat := 0
  depth : Nat := 0
  marks : List Nat := [0, 0, 0, 0]
  markValid : Nat := 0
  colour : Nat := 0
  /-- Carry area: ingress record bytes 80–111. -/
  carry : List Byte := []
  tele : Nat := 0
  /-- The launch time as captured, the launch instant, and whether it has been reached (R267). -/
  launch : Option Nat := none
  launchAt : Nat := 0
  launched : Bool := false
  /-- The removal of the verdict's STRIP: origin and length. -/
  strip : Option (Nat × Nat) := none
  reason : Nat := 0
  prio : Nat := 0
  quench : Bool := false
  ecn : Bool := false
  ct : Bool := false
  deriving DecidableEq, Repr

/-- A multicast packet whose replication has stopped (R259): members still to serve, in order, and the copy's template. -/
structure Stall where
  i : Inst
  left : List Nat
  group : Nat
  /-- Replication had begun and has stopped; otherwise the packet has joined behind others. -/
  stopped : Bool := false
  deriving DecidableEq, Repr

/-- An element of a hold list (R228). -/
inductive Hold where
  | inst (i : Inst)
  | repl (x : Stall)
  deriving DecidableEq, Repr

/-- An edit of R204: kind, position in the stored frame, length of the range, bytes written. -/
structure Edit where
  kind : Nat
  pos : Nat
  len : Nat
  data : List Byte := []
  deriving DecidableEq, Repr

/-- An instance in the egress stages of a pipe, or waiting behind them for its departure. -/
structure Eg where
  i : Inst
  port : Nat
  pipe : Nat
  slot : Nat := 0
  rec_ : List Byte := []
  disp : Nat := 0
  tele : Nat := 0
  edits : List Edit := []
  stage : Nat := 20
  issued : Bool := false
  looks : List Look := []
  /-- STATE of R294 at entry to egress stage 0, and the corrected time then. -/
  state : Nat := 0
  at_ : Nat := 0
  /-- Fixed when the frame falls due: the first row of R22 applies. -/
  due : Option Bool := none
  deriving DecidableEq, Repr

/-- What a port sends, or a CPU queue delivers: an instance, or a postcard of a collector (R306). -/
inductive Item where
  | inst (e : Eg)
  | card (c : Nat) (bytes : List Byte)
  deriving DecidableEq, Repr

/-- A CPU frame that waits for an ingress slot: its handle, and with DIRECT its queue (R335). -/
structure CpuFrame where
  h : Nat
  queue : Option Nat := none
  deriving DecidableEq, Repr

/-- A transmission: the item, the bytes of the frame's first `taken` as edited, the transmit timestamp, and whether the record,
fold and postcard still wait for the frame's length. `tags`: where the edited bytes come from, if an ECN mark waits for bytes
that have yet to arrive (R255). -/
structure Tx where
  item : Item
  /-- FRC at the start. -/
  at_ : Nat := 0
  head : List Byte := []
  taken : Nat := 512
  tags : List Nat := []
  ts : Nat := 0
  late : Bool := false
  /-- Segments read so far. -/
  segs : Nat := 0
  deriving DecidableEq, Repr

/-- A recirculated frame that waits for an ingress slot (R203). -/
structure Recirc where
  e : Eg
  bytes : List Byte
  deriving DecidableEq, Repr

/-- A pool's free list (R218): ingots never allocated since the load, in ascending order from `fresh`, then those released. -/
structure Pool where
  fresh : Nat := 0
  back : List Nat := []
  deriving DecidableEq, Repr

/-- The bank migrations (R236): banks waiting, each with whether errors of its own made it wait; bank, spare and next row of
the one that runs; corrected words of a bank with the FRC at which its window started; and the failing banks that no spare
could replace (R237). -/
structure Migrate where
  queue : List (Nat × Bool) := []
  cur : Option (Nat × Nat × Nat) := none
  ce : Tab (Nat × Nat) := []
  failing : List Nat := []
  deriving DecidableEq, Repr

/-! ### Measured activity (R30, R354) -/

/-- What the module's meters have counted: segment accesses, Lookup Fabric bank operations and QDR transactions of the running
10 µs window (R354); and of the running 1 s window its start, the VCORE plus VSRAM energy in units of 0.1 nJ, and the bytes
sent (R30). -/
structure ActSt where
  segs : Nat := 0
  banks : Nat := 0
  qdr : Nat := 0
  secAt : Nat := 0
  energy : Nat := 0
  bytes : Nat := 0
  deriving DecidableEq, Repr

/-! ### Arbitration, buckets and tables -/

/-- An arbitration point (R49): rotating pointer, losers with the longest-waiting first, and the requesters granted in this
token. -/
structure Arb where
  ptr : Nat := 0
  losers : List Nat := []
  granted : List Nat := []
  deriving DecidableEq, Repr

/-- A token bucket: its level, in a unit that the fill of one tick makes whole, at an FRC value. -/
structure Bucket where
  level : Int
  at_ : Nat
  deriving DecidableEq, Repr

/-- A learn request (R150). -/
structure Learn where
  table : Nat
  key : List Byte
  result : Nat
  move : Bool
  deriving DecidableEq, Repr

/-- A table command that EM_CMD has accepted and whose turn has not come: the engine serves accepted requests in
arrival order (R145), so it waits behind the learns accepted before it, counted in `ahead`. -/
structure EmCmd where
  table : Nat
  op : Nat
  ahead : Nat
  deriving DecidableEq, Repr

/-- The cursor of the last ASE SEARCH (R177): partition and key, and for each bank covered, relative to the replica's first
bank, one more than the index last reported there. -/
structure AseCursor where
  part : Nat
  key : Nat
  banks : List (Nat × Nat)
  deriving DecidableEq, Repr

/-- A delta-cache entry (R307). -/
structure Delta where
  index : Nat
  packets : Nat
  bytes : Nat
  deriving DecidableEq, Repr

/-- A flow-cache entry (R301). -/
structure Flow where
  id : Nat
  packets : Nat := 0
  bytes : Nat := 0
  first : Nat := 0
  last : Nat := 0
  depth : Nat := 0
  flags : Nat := 0
  res : Nat := 0
  deriving DecidableEq, Repr

/-- A gate control list that runs or waits (R262 to R264): list, entries, cycle and start instant (2^-16 ns). -/
structure GateList where
  list : Nat
  len : Nat
  cycle : Nat
  start : Nat
  deriving DecidableEq, Repr

/-- The gates of a port: running list, pending list, and the entry in force. -/
structure Gate where
  oper : Option GateList := none
  next : Option GateList := none
  entry : Nat := 0
  deriving DecidableEq, Repr

/-- What the link of a front port remembers: FRC since which link OK has had its value, FRC at which ALIGN was entered, FRC at
which the hold of R260 started. -/
structure LinkSt where
  okAt : Nat := 0
  /-- LT_EN at the last entry to the first state (R90). -/
  lt : Bool := false
  alignAt : Nat := 0
  holdAt : Nat := 0
  deriving DecidableEq, Repr

/-- A lane's pattern checker (R101): the last 31 bits, how many of them have been seen, the position in a pattern that is no
PRBS, the run of error-free bits while it searches, and for each error of the last 1,024 bits how many further bits it counts
for. -/
structure Chk where
  hist : Nat := 0
  seen : Nat := 0
  pos : Nat := 0
  run : Nat := 0
  wrong : List Nat := []
  deriving DecidableEq, Repr

/-- A lane's pattern generator (R100, R102): the last 31 bits, the position in a pattern that is no PRBS, bits still to invert,
and bits sent. -/
structure Gen where
  hist : Nat := 1
  pos : Nat := 0
  flips : Nat := 0
  count : Nat := 0
  deriving DecidableEq, Repr

/-- Pause received for a priority (R96, R98): end of the timer while it runs, FRC since which it is in force, FRC since which
it has been clear. -/
structure Pause where
  until_ : Option Nat := none
  since : Nat := 0
  clearAt : Nat := 0
  deriving DecidableEq, Repr

/-- Ports, parsers and Crucible. -/
structure BufSt where
  /-- The fraction of a bubble that a pipe's ingress header slots have accumulated, in 1/256 (R46, R362). -/
  slots : Tab Nat := []
  link : Tab LinkSt := []
  /-- What each lane sends, unless it is in electrical idle (R92). -/
  line : Tab LineSig := []
  /-- Pattern checkers and generators, by lane. -/
  chk : Tab Chk := []
  gen : Tab Gen := []
  /-- By 8 × port + priority. -/
  pause : Tab Pause := []
  /-- Ports that owe a pause frame, and the FRC of the last one that carried a requester's XOFF (R95). -/
  pauseDue : List Nat := []
  pauseAt : Tab Nat := []
  rx : Tab Rx := []
  /-- Ingress lists by requester (R226). -/
  lists : Tab (List Arr) := []
  /-- The parser's arbitration among its sources, by pipe, and among its lists (R25, R226). -/
  arbSrc : Tab Arb := []
  arbList : Tab Arb := []
  /-- Slow-path policers, by 8 × pipe + policer. -/
  slow : Tab Bucket := []
  recirc : Tab Recirc := []
  /-- CPU frames that wait for an ingress slot, by pipe (R335). -/
  cpuIn : Tab (List CpuFrame) := []
  pools : Tab Pool := []
  /-- Quarantined ingots, and ingots in use to be quarantined at their release (R231). -/
  quar : List Nat := []
  quarNext : List Nat := []
  store : Tab Stored := []
  /-- Requesters of the configured ports, whose XOFF is evaluated (R224, R225). -/
  reqs : List Nat := []
  /-- Fitting pool of a requester's pending physical refusal (R226). -/
  refused : Tab Nat := []
  mig : Migrate := {}
  deriving DecidableEq, Repr

/-- Stages, tables and lookups. -/
structure PipeSt where
  ing : Tab (List Pkt) := []
  eg : Tab (List Eg) := []
  /-- ROOT, NODES_USED, RULE_COUNT, MISS_RESULT and the held root node of each tree set, by 64 × epoch + set (R126, R128). -/
  trees : Tab (List Byte) := []
  learnQ : List Learn := []
  learn : Tab Bucket := []
  ase : Option AseCursor := none
  /-- A command of EM_CMD that waits behind the learns accepted before it (R145). -/
  emCmd : Option EmCmd := none
  /-- The move source of the command engine: bank and index (R175). -/
  move : Option (Nat × Nat) := none
  /-- Operations of each ASE bank in the running 10 µs window (R182). -/
  aseOps : Tab Nat := []
  deriving DecidableEq, Repr

/-- Queues and scheduling. -/
structure QueSt where
  /-- The arbitration at each pipe's egress point (R25). -/
  arbEg : Tab Arb := []
  queues : Tab (List Inst) := []
  holds : Tab (List Hold) := []
  residue : Tab (List Inst) := []
  /-- Buckets by the device address of their status bytes. -/
  buckets : Tab Bucket := []
  /-- DWRR pointers: 32 × port + group of a port, 2^20 + 16 × port + class of a class, 2^21 for the CPU port. -/
  ptr : Tab Nat := []
  /-- DWRR deficits of the collectors (R306). -/
  colDef : Tab Nat := []
  gates : Tab Gate := []
  /-- Items behind the egress stages, by port, and the transmission that runs. -/
  txq : Tab (List Item) := []
  tx : Tab Tx := []
  deriving DecidableEq, Repr

/-- Telemetry. -/
structure TeleSt where
  deltas : Tab (List Delta) := []
  /-- Deltas that a FLUSH still has to flush: shard and index (R308). -/
  flushing : List (Nat × Nat) := []
  /-- Flow-cache entries, by (16,384 × shard + set) × 4 + way. -/
  flows : Tab Flow := []
  cols : Tab (List (List Byte)) := []
  /-- FRC at which each waiting record of a shard's flow store was written, the oldest first, while Anvil exports (R304). -/
  fsAt : Tab (List Nat) := []
  loupeAt : Nat := 0
  bwAt : Nat := 0
  /-- Bytes of the running bandwidth window, and EWMA with 16 fraction bits, by 2 × port + direction. -/
  bw : Tab Nat := []
  ewma : Tab Nat := []
  deriving DecidableEq, Repr

/-! ### The module -/

structure State where
  /-- Commands waiting, first in, first out. -/
  pending : List Instr := []
  /-- Register fields by bit address; an unlisted field holds its reset value (R14). -/
  regs : Tab Nat := []
  /-- The memories of the device address space (R448), by device address. -/
  dev : List Host.Cell := []
  /-- The model's own counter of free values drawn (log 1). -/
  draws : Nat := 0
  /-- What the last host read returned. -/
  readData : Quad := 0
  outbox : List Out := []
  time : TimeSt := {}
  core : CoreSt := {}
  pwr : PwrSt := {}
  flt : FltSt := {}
  act : ActSt := {}
  anvil : AnvilSt := {}
  host : HostSt := {}
  img : ImgSt := {}
  mil : MilSt := {}
  assay : AssaySt := {}
  pins : PinSt := {}
  boot : BootSt := {}
  buf : BufSt := {}
  pipe : PipeSt := {}
  que : QueSt := {}
  tele : TeleSt := {}
  deriving DecidableEq, Repr

/-- The module before its first power-on, in the life-cycle state in which it leaves Bolvald (R408). -/
def State.reset : State := {}

end Sys2Proof.Machine
end

