-- ==== Sys2Proof/Machine/Ops.lean ====
section
/-!
DEFINITION. The named operations over registers, counters, device memory and outputs, and corrected time (R274, R275).
-/
namespace Sys2Proof.Machine
open Reg

/-- The outcome of every meaning. -/
abbrev Result := Host.Outcome State Fault Refusal

/-! ### Registers -/

/-- The value of a register field, instance (i, j). -/
def State.get (s : State) (f : Fld) (i : Nat := 0) (j : Nat := 0) : Nat :=
  (tabFind s.regs (f.key i j)).getD (f.reset i)

/-- Set a register field to the low bits of `v`. -/
def State.set (s : State) (f : Fld) (v : Nat) (i : Nat := 0) (j : Nat := 0) : State :=
  { s with regs := tabPut s.regs (f.key i j) (v % 2 ^ f.wd) }

/-- A one-bit field as a Boolean. -/
def State.flag (s : State) (f : Fld) (i : Nat := 0) (j : Nat := 0) : Bool := s.get f i j != 0

/-- Set a one-bit field. -/
def State.setB (s : State) (f : Fld) (b : Bool) (i : Nat := 0) (j : Nat := 0) : State := s.set f (b2n b) i j

/-- Add to a counter that saturates at its width (the counters marked RC). -/
def State.add (s : State) (f : Fld) (n : Nat) (i : Nat := 0) (j : Nat := 0) : State :=
  s.set f (satTo (2 ^ f.wd - 1) (s.get f i j + n)) i j

/-- Count one. -/
def State.inc (s : State) (f : Fld) (i : Nat := 0) (j : Nat := 0) : State := s.add f 1 i j

/-- Count one on a counter that wraps. -/
def State.incWrap (s : State) (f : Fld) (i : Nat := 0) (j : Nat := 0) : State := s.set f (s.get f i j + 1) i j

/-- Set bit `b` of a field. -/
def State.setBit (s : State) (f : Fld) (b : Nat) (i : Nat := 0) (j : Nat := 0) : State :=
  s.set f (bitSet (s.get f i j) b) i j

/-- Clear bit `b` of a field. -/
def State.clearBit (s : State) (f : Fld) (b : Nat) (i : Nat := 0) (j : Nat := 0) : State :=
  s.set f (bitClear (s.get f i j) b) i j

/-- Bit `b` of a field. -/
def State.bitOf (s : State) (f : Fld) (b : Nat) (i : Nat := 0) (j : Nat := 0) : Bool := bit (s.get f i j) b

/-! ### Device memory and outputs -/

/-- Little-endian number in the device memory. -/
def State.mem (s : State) (a n : Nat) : Nat := memRead s.dev a n

/-- A write of `n` bytes from `a` consumes the memory injections armed on them, and overwrites bits inverted before (R405). -/
def State.injTake (s : State) (a n : Nat) : State :=
  if s.flt.injMem.isEmpty && s.flt.injHit.isEmpty then s
  else
    let hit := fun (m : MemInj) => !m.cruc && decide (a ≤ m.target) && decide (m.target < a + n)
    let old := s.flt.injHit.filter (fun h => !(decide (a ≤ h.1) && decide (h.1 < a + n)))
    let new := (s.flt.injMem.filter hit).map (fun m => (m.target, m.nbits))
    { s with flt := { s.flt with injMem := s.flt.injMem.filter (fun m => !hit m), injHit := old ++ new } }

/-- The most bits inverted in a word among `n` bytes from `a`. -/
def State.injAt (s : State) (a n : Nat) : Nat :=
  s.flt.injHit.foldl (fun k h => if a ≤ h.1 && h.1 < a + n then max k h.2 else k) 0

/-- The words among `n` bytes from `a` have been corrected or rewritten. -/
def State.injClear (s : State) (a n : Nat) : State :=
  { s with flt := { s.flt with injHit := s.flt.injHit.filter (fun h => !(decide (a ≤ h.1) && decide (h.1 < a + n))) } }

/-- Write a number into the device memory, little-endian. -/
def State.memSet (s : State) (a n v : Nat) : State := { s.injTake a n with dev := memWrite s.dev a n v }

/-- Bytes of the device memory. -/
def State.memAt (s : State) (a n : Nat) : List Byte := memBytes s.dev a n

/-- Write bytes into the device memory. -/
def State.memStore (s : State) (a : Nat) (bs : List Byte) : State :=
  { s.injTake a bs.length with dev := Machine.memStore s.dev a bs }

/-- Whether a device address lies in [lo, hi). -/
def inRange (lo hi a : Nat) : Bool := lo ≤ a && a < hi

/-- Zero every listed byte of the addresses [lo, hi). -/
def State.memZero (s : State) (lo hi : Nat) : State :=
  { s with dev := s.dev.filter (fun c => !inRange lo hi c.1) }

/-- Give an output. -/
def State.emit (s : State) (o : Out) : State := { s with outbox := s.outbox ++ [o] }

/-- A state change that happens only under a condition. -/
def State.when (s : State) (c : Bool) (f : State → State) : State := if c then f s else s

/-- Draw the next free value's number. -/
def State.draw (s : State) : State := { s with draws := s.draws + 1 }

/-- The 64-bit number of `n` consecutive words of a register array, low word first. -/
def State.words (s : State) (f : Fld) (n i : Nat) : List Byte :=
  (List.range n).flatMap (fun k => leBytes 4 (s.get f i k))

/-! ### Base addresses of the device space (R448) -/

def emBase : Nat := 0x100000000
def stashBase : Nat := 0x110000000
def aseBase : Nat := 0x200000000
def filBase : Nat := 0x300000000
def resultBase : Nat := 0x400000000
def directBase : Nat := 0x410000000
def actionBase : Nat := 0x420000000
def queueBase : Nat := 0x500000000
def classBase : Nat := 0x510000000
def portNodeBase : Nat := 0x520000000
def policerBase : Nat := 0x530000000
def groupBase : Nat := 0x540000000
def gateBase : Nat := 0x550000000
def counterBase : Nat := 0x600000000
def flowBase : Nat := 0x700000000
def storeBase : Nat := 0x800000000

/-! ### Time -/

/-- Ticks of the 1.25 GHz timing clock in a microsecond and in a millisecond (R272). -/
def ticksPerUs : Nat := 1250
def ticksPerMs : Nat := 1250000

/-- The free-running counter (R272). -/
def State.frc (s : State) : Nat := s.get TIME.FRC

/-- A time value of R275 in units of 2^-16 ns. -/
def timeOf (sec ns frac : Nat) : Nat := (sec * 1000000000 + ns) * 65536 + frac

/-- The fields SEC, NS and FRAC of a time value. -/
def timeSec (t : Nat) : Nat := t / 65536 / 1000000000
def timeNs (t : Nat) : Nat := t / 65536 % 1000000000
def timeFrac (t : Nat) : Nat := t % 65536

/-- The short format of R275: NS in bits [29:0], SEC modulo 2^34 above. -/
def shortTime (t : Nat) : Nat := timeNs t + (timeSec t % 2 ^ 34) * 2 ^ 30

/-- Corrected time at an FRC value not before REF (R274): the exact value truncated to 2^-16 ns. One tick is
0.8 × 65,536 = 524,288 / 10 units. -/
def State.timeAt (s : State) (frc : Nat) : Nat :=
  timeOf (s.get TIME.OFF_SEC) (s.get TIME.OFF_NS) (s.get TIME.OFF_FRAC) +
    ((frc - s.get TIME.REF) * 524288 * (2 ^ 48 + signed (s.get TIME.RATE) 40).toNat) / (10 * 2 ^ 48)

/-- The mapping in force (R274). -/
def State.timeMap (s : State) : TimeMap :=
  { off := timeOf (s.get TIME.OFF_SEC) (s.get TIME.OFF_NS) (s.get TIME.OFF_FRAC), ref := s.get TIME.REF, rate := s.get TIME.RATE }

/-- Corrected time of a mapping at an FRC value. -/
def TimeMap.time (m : TimeMap) (frc : Nat) : Nat :=
  m.off + ((frc - m.ref) * 524288 * (2 ^ 48 + signed m.rate 40).toNat) / (10 * 2 ^ 48)

/-- Corrected time `ticks` ago, under the mapping that was then in force: at most one change back (R276, R288). -/
def State.timeAgo (s : State) (ticks : Nat) : Nat :=
  let f := s.frc - ticks
  if s.get TIME.REF ≤ f then s.timeAt f else s.time.old.time f

/-- Corrected time now. -/
def State.now (s : State) : Nat := s.timeAt s.frc

/-- The time base in 2^-16 ns units of a duration in ns. -/
def nsUnits (ns : Nat) : Nat := ns * 65536

/-- Whether at least `ticks` have passed since the FRC stamp `from_`. -/
def State.elapsed (s : State) (from_ ticks : Nat) : Bool := decide (from_ + ticks ≤ s.frc)

/-! ### Ports and numbering (R3 to R8) -/

def pipeOf (lane : Nat) : Nat := lane / 16
def shardOf (lane : Nat) : Nat := lane / 128
def cpuPort : Nat := 1088
def recircPort (pipe : Nat) : Nat := 1024 + pipe

/-- Life-cycle state as MIL_STATUS shows it (R407). -/
def State.lcState (s : State) : Nat := if s.mil.service then 2 else s.mil.fused.code

/-- The module is powered and not held in reset (R430, R432). -/
def State.live (s : State) : Bool := s.boot.powered && !s.boot.held

/-- The block of a BAR0 offset answers during a soft module reset before step 3 (R441): GLB, TIME, HOST and FLT. -/
def openInSoft (off : Nat) : Bool :=
  off < 0x100000 || inRange 0xB00000 0xC00000 off || inRange 0xD00000 0xE00000 off || decide (0x1000000 ≤ off)

/-- A host access to a BAR0 offset reaches its block. -/
def State.regOpen (s : State) (off : Nat) : Bool := s.live && (!s.boot.soft || openInSoft off)

/-- The effect of a host write to a register, where the write reaches the register's block (R441). -/
def State.viaHost (s : State) (f : Fld) (g : State → State) : State := if s.regOpen f.off then g s else s

def lcManufacture : Nat := 0
def lcField : Nat := 1
def lcService : Nat := 2
def lcRetired : Nat := 3

end Sys2Proof.Machine
end

