-- ==== Sys2Proof/Machine/Flags.lean ====
section
/-!
DEFINITION. Event flags and what they set off: interrupt messages (R322, R323), the GLB interrupt summary (R444, R445), and
events reported to the fault unit (R389 to R392).
-/
namespace Sys2Proof.Machine
open Reg

/-! ### MSI-X messages -/

/-- A word of the MSI-X table: 0 address low, 1 address high, 2 data, 3 vector control (R447). -/
def State.msixWord (s : State) (v w : Nat) : Nat := tabGet (if w = 3 then 1 else 0) s.host.msix (4 * v + w)

/-- Whether vector `v` or the function is masked (R323). -/
def State.msixMasked (s : State) (v : Nat) : Bool := s.host.funcMask || bit (s.msixWord v 3) 0

/-- Whether messages leave the module: Bus Master Enable is 1 and the function is in D0 (R322). -/
def State.msixOpen (s : State) : Bool := s.flag HOST.BUS_MASTER && !s.flag HOST.D3HOT

/-- The message of vector `v` goes out. -/
def State.msixEmit (s : State) (v : Nat) : State :=
  s.emit (.msix v (s.msixWord v 0 + 2 ^ 32 * s.msixWord v 1) (s.msixWord v 2))

/-- A message of vector `v` falls due: sent, or held in the pending-bit array (R322, R323). -/
def State.msixSend (s : State) (v : Nat) : State :=
  if s.msixOpen && !s.msixMasked v then s.msixEmit v
  else { s with host := { s.host with pba := bitSet s.host.pba v } }

/-- Send the held message of vector `v` if nothing holds it any longer. -/
def State.msixRelease (s : State) (v : Nat) : State :=
  if bit s.host.pba v && s.msixOpen && !s.msixMasked v then
    State.msixEmit { s with host := { s.host with pba := bitClear s.host.pba v } } v
  else s

/-- Send every held message that nothing holds any longer (R322). -/
def State.msixReleaseAll (s : State) : State := upTo 256 (fun v s => s.msixRelease v) s

/-! ### The GLB summary -/

/-- Bits of GLB_INT_SUM (R444). -/
def sumImg : Nat := 0
def sumPort : Nat := 1
def sumEm : Nat := 2
def sumAse : Nat := 3
def sumCruc : Nat := 4
def sumTime : Nat := 5
def sumTrig : Nat := 6
def sumTele : Nat := 7
def sumSampling : Nat := 8
def sumHost : Nat := 9
def sumPwr : Nat := 10
def sumMilest : Nat := 11
def sumAssay : Nat := 12
def sumPin : Nat := 13

/-- PENDING sets; when it rises the GLB_VECTOR message is sent (R445). -/
def State.glbPend (s : State) : State :=
  if s.flag GLB.PENDING then s else (s.setB GLB.PENDING true).msixSend (s.get HOST.GLB_VECTOR)

/-- A contributing event bit of summary bit `b` becomes set with its own enable on (R445). -/
def State.glbRaise (s : State) (b : Nat) : State := if s.bitOf GLB.INT_EN b then s.glbPend else s

/-- Set an event bit whose own enable is `en` and that feeds summary bit `b`. -/
def State.event (s : State) (f : Fld) (i : Nat) (en : Bool) (b : Nat) : State :=
  if s.flag f i then s else (s.setB f true i).when en (fun s => s.glbRaise b)

/-- Set an event bit whose place in a packed event field is `k`. -/
def State.eventBit (s : State) (f : Fld) (k : Nat) (en : Bool) (b : Nat) : State :=
  if s.bitOf f k then s else (s.setBit f k).when en (fun s => s.glbRaise b)

/-- An event of the PWR block with its INT_EN bit (R371). -/
def State.pwrEvent (s : State) (f : Fld) : State := s.event f 0 (s.bitOf PWR.INT_EN f.lo) sumPwr

/-- An event of the TIME block (R293). -/
def State.timeEvent (s : State) (f : Fld) : State := s.event f 0 (s.bitOf TIME.INT_EN f.lo) sumTime

/-- An event of the HOST block (R351). -/
def State.hostEvent (s : State) (f : Fld) : State := s.event f 0 (s.bitOf HOST.INT_EN f.lo) sumHost

/-- An event of a port with its PORT_INT_EN bit (R105, R446). -/
def State.portEvent (s : State) (ev ie : Fld) (p : Nat) : State := s.event ev p (s.flag ie p) sumPort

/-! ### Faults -/

/-- Fault sources, numbered under R390. -/
def srcRatio : Nat := 0x00
def srcFloor : Nat := 0x01
def srcStarved : Nat := 0x02
def srcRail : Nat := 0x11
def srcOverVoltage : Nat := 0x12
def srcMeasFail : Nat := 0x13
def srcDisagree : Nat := 0x14
def srcSensor : Nat := 0x15
def srcThermWarn : Nat := 0x16
def srcThermCrit : Nat := 0x17
def srcImage : Nat := 0x20
def srcRetire : Nat := 0x21
def srcUnderrun : Nat := 0x30
def srcStorm : Nat := 0x31
def srcGateOversize : Nat := 0x32
def srcAction : Nat := 0x40
def srcDirectEcc : Nat := 0x41
def srcStoreEcc : Nat := 0x42
def srcRecirc : Nat := 0x43
def srcAssayPipeline : Nat := 0x44
def srcFiligree : Nat := 0x50
def srcEmEcc : Nat := 0x51
def srcAseParity : Nat := 0x52
def srcAseRepair : Nat := 0x53
def srcAssayLookup : Nat := 0x54
def srcSegLost : Nat := 0x60
def srcSpill : Nat := 0x61
def srcBreach : Nat := 0x62
def srcHandle : Nat := 0x63
def srcDegraded : Nat := 0x64
def srcAssayBuffer : Nat := 0x65
def srcQueueCopies : Nat := 0x70
def srcRefclk : Nat := 0x80
def srcHoldover : Nat := 0x81
def srcPpsAbsent : Nat := 0x82
def srcFlowEcc : Nat := 0x90
def srcCounterEcc : Nat := 0x91
def srcAccess : Nat := 0xA0
def srcPoisoned : Nat := 0xA1
def srcStalled : Nat := 0xA2
def srcRedirect : Nat := 0xB0
def srcAnvil : Nat := 0xB1
def srcCoverMiss : Nat := 0xB2
def srcStoreLow : Nat := 0xB3
def srcAssayChiplet : Nat := 0xC0
def srcChipletRef : Nat := 0xC1
def srcAssayMemory : Nat := 0xD0
def srcMilest : Nat := 0xE0
def srcExtest : Nat := 0xE1
def srcFuse : Nat := 0xE2
def srcResetStuck : Nat := 0xF0
def srcWarnStuck : Nat := 0xF1
def srcPpsStuck : Nat := 0xF2
def srcTrigStuck : Nat := 0xF3

/-- A source reports an event at scope index `index` (R391, R393). It is decided by FAULT_DECISION. -/
def State.fault (s : State) (src : Nat) (index : Nat := 0) (detail : Nat := 0) : State :=
  { s with flt := { s.flt with reported := s.flt.reported ++ [{ src := src, index := index, detail := detail }] } }

/-- The event of a memory injection: the source's ordinary event, marked INJECTED (R405). -/
def State.faultInjected (s : State) (src index detail : Nat) : State :=
  { s with flt := { s.flt with reported :=
    s.flt.reported ++ [{ src := src, index := index, detail := detail, injected := true }] } }

end Sys2Proof.Machine
end

