-- ==== Sys2Proof/Machine/ConfigWords.lean ====
section
/-!
DEFINITION. The configuration space of the function (R317, R318): its words, which bits software writes, and what a read
returns. The layout is that of PCI Express; the offsets of the capabilities are the model's (PRESUMED and DESIGN CHOICE,
log 79).
-/
namespace Sys2Proof.Machine
open Reg

/-! ### Offsets -/

def cfgCommand : Nat := 0x04
def cfgPm : Nat := 0x40
def cfgPmCsr : Nat := 0x44
def cfgMsix : Nat := 0x50
def cfgPcie : Nat := 0x60
def cfgDevCtl : Nat := 0x68
def cfgLinkCtl : Nat := 0x70
def cfgAer : Nat := 0x100
def cfgDsn : Nat := 0x150
def cfgDoe : Nat := 0x160

/-- Device Control at reset: max payload 128 B, max read request 512 B, relaxed ordering and no-snoop permitted. -/
def cfgDevCtlReset : Nat := 0x2810

/-- Words with bits that software writes: offset, those bits, and the reset value of the whole word. -/
def cfgRw : List (Nat × Nat × Nat) := [
  (cfgCommand, 0x00000542, 0x00100000),
  (0x0C, 0xFF, 0),
  (0x10, 0xFC000000, 0x4), (0x14, 0xFFFFFFFF, 0),
  (0x18, 0xFF000000, 0xC), (0x1C, 0xFFFFFFFF, 0),
  (0x20, 0xFFFF0000, 0x4), (0x24, 0xFFFFFFFF, 0),
  (0x3C, 0xFF, 0),
  (cfgPmCsr, 0x100, 0x8),
  (cfgMsix, 0x80000000, 0x00FF6011),
  (cfgDevCtl, 0x79EF, cfgDevCtlReset),
  (cfgLinkCtl, 0xC3, 0),
  (0x88, 0x1000, 0), (0x90, 0xF, 5),
  (cfgAer + 0x08, 0x07FFF030, 0), (cfgAer + 0x0C, 0x07FFF030, 0x00462030), (cfgAer + 0x14, 0xF1C1, 0xE000),
  (cfgAer + 0x18, 0x140, 0x00A0)]

/-- Words that software does not write, with their values: identity, class and revision, subsystem, capability headers, and what
the module supports. -/
def State.cfgRo (s : State) : List (Nat × Nat) := [
  (0x00, s.get GLB.DEVICE * 2 ^ 16 + 0x1D7B),
  (0x08, 0x02800000 + s.get GLB.SIL_REV),
  (0x2C, 0x00011D7B),
  (0x34, cfgPm),
  (cfgPm, 0x00035001),
  (cfgMsix + 4, 0x00000004), (cfgMsix + 8, 0x00008004),
  (cfgPcie, 0x00020010), (cfgPcie + 4, 0x00008022), (cfgPcie + 0x0C, 0x00000885),
  (cfgPcie + 0x24, 0x00030000), (cfgPcie + 0x2C, 0x0000003E),
  (cfgAer, 0x15020001),
  (cfgDsn, 0x16010003), (cfgDsn + 4, s.mil.serial % 2 ^ 32), (cfgDsn + 8, s.mil.serial / 2 ^ 32),
  (cfgDoe, 0x0001002E)]

/-- Bits of a word that show state held elsewhere: Bus Master Enable, the power state, the function mask, and the trained link. -/
def State.cfgLive (s : State) (off : Nat) : Nat :=
  if off = cfgCommand then 4 * s.get HOST.BUS_MASTER
  else if off = cfgPmCsr then 3 * s.get HOST.D3HOT
  else if off = cfgMsix then b2n s.host.funcMask * 2 ^ 30
  else if off = cfgLinkCtl then (s.get HOST.LINK_SPEED + 16 * s.get HOST.LINK_WIDTH) * 2 ^ 16
  else 0

/-- The value of a word's bits that configuration space itself holds. -/
def State.cfgHeld (s : State) (off : Nat) : Nat :=
  match cfgRw.find? (fun x => x.1 == off) with
  | some x => tabGet x.2.2 s.host.cfg off
  | none => match s.cfgRo.find? (fun x => x.1 == off) with
    | some x => x.2
    | none => 0

/-- What a read of the word at an offset returns; words that no capability has read 0. -/
def State.cfgWord (s : State) (off : Nat) : Nat := s.cfgHeld off ||| s.cfgLive off

/-- A write stores the bits that software writes. -/
def State.cfgStore (s : State) (off v : Nat) : State :=
  match cfgRw.find? (fun x => x.1 == off) with
  | some x =>
    let old := tabGet x.2.2 s.host.cfg off
    { s with host := { s.host with cfg := tabPut s.host.cfg off ((old &&& (2 ^ 32 - 1 - x.2.1)) ||| (v &&& x.2.1)) } }
  | none => s

end Sys2Proof.Machine
end

