-- ==== Sys2Proof/Machine/Power.lean ====
section
/-!
DEFINITION. Operating points, the rate loop and droop (R31 to R52), and power, phases, Quench and thermal control (R352 to
R371). Measured values are operands: the voltage of a sample, the tokens of a window, the readings of the sensors.
-/
namespace Sys2Proof.Machine
open Reg

/-! ### Base voltage and trim (R38, R40) -/

/-- The base voltage of row `op` (R38). -/
def State.baseVoltage (s : State) (op : Nat) : Nat :=
  let hEol := s.get CORE.H_EOL * 10
  let h := min (s.get CORE.HOURS) hEol
  let sol := s.get CORE.V_SOL op
  let eol := s.get CORE.V_EOL op
  -- v as a fraction num / den, in mV
  let den := if hEol = 0 then 1 else hEol
  let num := if hEol = 0 then eol else sol * hEol + eol * h - sol * h
  min (max (2 * ceilDiv num (2 * den)) 550) 850

/-- TRIM of row `op`: 0 at OP0 to OP3 (R41). -/
def State.trimOf (s : State) (op : Nat) : Nat := if 4 ≤ op then tabGet 0 s.core.trim op else 0

/-- Set the trim of the current row, and V_SET with it. -/
def State.setTrim (s : State) (op t : Nat) : State :=
  let s := { s with core := { s.core with trim := if 4 ≤ op then tabPut s.core.trim op t else s.core.trim } }
  (s.set CORE.TRIM t).set CORE.V_SET (s.get CORE.V_BASE + 2 * t)

/-- Recompute V_BASE for the current row and hold V_SET to 850 mV (R38, R40). -/
def State.refreshRow (s : State) : State :=
  let op := s.get CORE.CUR_OP
  let vb := s.baseVoltage op
  let s := s.set CORE.V_BASE vb
  s.setTrim op (min (s.trimOf op) ((850 - vb) / 2))

/-- V_SET of a row that is not current: where a transition towards it ends. -/
def State.rowVoltage (s : State) (op : Nat) : Nat :=
  let vb := s.baseVoltage op
  vb + 2 * min (s.trimOf op) ((850 - vb) / 2)

/-- The rate loop evaluates windows (R40, R41, R422). -/
def State.loopActive (s : State) : Bool :=
  decide (4 ≤ s.get CORE.CUR_OP) && s.flag CORE.LOOP_EN && !s.assay.hold

/-- AT_TRIM_LIMIT of R52. -/
def State.atTrimLimit (s : State) : Bool :=
  s.loopActive && (s.get CORE.TRIM == s.get CORE.TRIM_MAX (s.get CORE.CUR_OP) ||
    decide (850 < s.get CORE.V_BASE + 2 * (s.get CORE.TRIM + 1)))

/-- A transition or a droop response is in progress, so that windows that end now are SKIPPED (R41). -/
def State.disturbed (s : State) : Bool := s.flag CORE.IN_TRANSITION || !s.core.droop.isEmpty

/-- The floor count of a window (R39). -/
def floorCount (op : Nat) : Nat := nthNat [0, 0, 0, 0, 16000, 20000, 25000, 30000] op 0

/-- The lowest count among the monitors whose window counts, with its monitor: the first one on a tie (R40). -/
def State.lowestCount (s : State) : Option (Nat × Nat) :=
  (List.range 81).foldl (fun best n =>
    if s.flag CORE.SKIPPED n then best
    else match best with
      | none => some (s.get CORE.TRM_COUNT n, n)
      | some (c, m) => if s.get CORE.TRM_COUNT n < c then some (s.get CORE.TRM_COUNT n, n) else some (c, m)) none

/-- The table of R40 for a window of the current row whose lowest count is `c`. -/
def State.loopStep (s : State) (c : Nat) : State :=
  let op := s.get CORE.CUR_OP
  let floor := floorCount op
  let t := s.trimOf op
  if c < floor then
    let s := { s with core := { s.core with relaxRun := 0 } }.inc CORE.MISS_WINDOWS
    if t < s.get CORE.TRIM_MAX op && decide (s.get CORE.V_BASE + 2 * (t + 1) ≤ 850) then s.setTrim op (t + 1)
    else ((s.setB CORE.FLOOR_MISS true).setB CORE.TRIM_LIMIT_HIT true).fault srcFloor
  else if floor * (100 + s.get CORE.RELAX_MARGIN) ≤ c * 100 then
    let run := s.core.relaxRun + 1
    if s.get CORE.RELAX_WINDOWS ≤ run && 0 < t then
      State.setTrim { s with core := { s.core with relaxRun := 0 } } op (t - 1)
    else { s with core := { s.core with relaxRun := run } }
  else { s with core := { s.core with relaxRun := 0 } }

/-- The windows of all monitors have ended: MIN_COUNT is shown and the loop evaluates (R40, R52). -/
def State.loopEval (s : State) : State :=
  match s.lowestCount with
  | none => s
  | some (c, n) =>
    let s := (s.set CORE.MIN_COUNT c).set CORE.MIN_INDEX n
    if s.loopActive then s.loopStep c else s

/-- The ratio of R43 is not stated: no replica transfer. -/
def lcoreOpen (count replica : Nat) : Bool := replica == 0 || decide (65536 ≤ 32768 * count / replica)

/-- TRM_LCORE (R43). With no replica transfer, or where the ratio does not fit its 16 bits, the value is not stated: a free
value (log 70). -/
def lcoreRatio (count replica draw : Nat) : Nat :=
  if lcoreOpen count replica then (Config.freeFraction draw).toNat % 65536 else 32768 * count / replica

/-- A ratio below 0.90 (R43); one that does not fit 16 bits is above it. -/
def lcoreLow (count replica draw : Nat) : Bool :=
  if replica = 0 then decide (lcoreRatio count replica draw < 29492) else decide (32768 * count / replica < 29492)

/-- Operations per token of an ASE bank in the window, × 100, in its Lookup Fabric section (R33, R158, R182). -/
def State.aseLoad (s : State) (bank : Nat) : Nat :=
  let ops := tabGet 0 s.pipe.aseOps bank
  let tokens := s.get CORE.TRM_COUNT (72 + bank / 128)
  satTo 65535 (if tokens = 0 then ops * 65535 else ops * 100 / tokens)

/-- PEAK_BANK, PEAK_LOAD and OVERLOAD of each ASE partition at the end of a window (R182). -/
def State.aseWindow (s : State) : State :=
  let s := upTo (s.get ASE.PART_COUNT) (fun p s =>
    let base := s.get ASE.P_BANK_BASE p
    let n := s.get ASE.P_BANK_COUNT p * s.get ASE.P_REPLICAS p
    let banks := (s.pipe.aseOps.map (fun x => x.1)).filter (fun b => decide (base ≤ b) && decide (b < base + n))
    let best := banks.foldl (fun b c => if s.aseLoad b < s.aseLoad c then c else b) (banks.headD base)
    let loaded := banks.any (fun b => decide (17 * s.get CORE.TRM_COUNT (72 + b / 128) < 10 * tabGet 0 s.pipe.aseOps b))
    ((s.set ASE.P_PEAK_BANK best p).set ASE.P_PEAK_LOAD (s.aseLoad best) p).when loaded (fun s => s.inc ASE.P_OVERLOAD p)) s
  { s with pipe := { s.pipe with aseOps := [] } }

/-- Ticks in a 10 µs window (R39). -/
def windowTicks : Nat := 10 * ticksPerUs

/-- The window that runs has lasted its 12,500 ticks, and monitor `n` has not ended it yet (R39). -/
def State.trmDue (s : State) (n : Nat) : Bool :=
  s.boot.powered && s.elapsed s.core.trmAt windowTicks && !s.core.ended.contains n

/-- TRM_WINDOW_END: monitor `n` completes its window (R39, R41, R43). -/
def State.trmWindow (s : State) (n count replica : Nat) : State :=
  if !s.trmDue n then s else
  let skipped := s.core.skip || s.disturbed
  let l := lcoreRatio count replica s.draws
  let low := lcoreLow count replica s.draws
  let s := s.when (lcoreOpen count replica) (fun s => s.draw)
  let s := (((s.set CORE.TRM_COUNT count n).set CORE.TRM_REPLICA replica n).set CORE.TRM_LCORE l n).setB
    CORE.SKIPPED skipped n
  let s := s.when (!skipped) (fun s =>
    (s.set CORE.TRM_LOW (min count (s.get CORE.TRM_LOW n)) n).when low (fun s => s.fault srcRatio))
  let ended := n :: s.core.ended
  if ended.length = 81 then
    let s := s.loopEval.aseWindow
    { s with core := { s.core with ended := [], skip := s.disturbed, trmAt := s.core.trmAt + windowTicks } }
  else { s with core := { s.core with ended := ended } }

def execTrmWindowEnd (n : Fin 81) (count replica : Word) (s : State) : Result :=
  .next (s.trmWindow n.val count.toNat replica.toNat)

/-! ### Droop (R44 to R47) -/

/-- A reading of VCORE: every response that runs notes since when VCORE has stayed within the recovery band (R45). -/
def State.vcoreSeen (s : State) (mv : Nat) : State :=
  let inBand := decide (s.get CORE.V_SET ≤ mv + s.get CORE.RECOVER_THRESH)
  let note := fun (x : Nat × Droop) => (x.1, { x.2 with band := if inBand then some (x.2.band.getD s.frc) else none })
  { s with core := { s.core with droop := s.core.droop.map note } }

/-- A detector of a shard reads `mv` (R45). Each start of a response is counted; a further detection while one runs keeps it
running. -/
def State.droopSeen (s : State) (shard mv : Nat) : State :=
  let s := s.vcoreSeen mv
  if mv + s.get CORE.DROOP_THRESH < s.get CORE.V_SET then
    match tabFind s.core.droop shard with
    | some _ => s
    | none =>
      let s := { s with core := { s.core with droop := tabPut s.core.droop shard { start := s.frc }, skip := true } }
      s.inc CORE.DROOP_EVENTS
  else s

def execDroopDetect (detector : Fin 32) (mv : BitVec 12) (s : State) : Result :=
  .next (s.droopSeen (detector.val / 4) mv.toNat)

/-- The response of a shard ends once VCORE has stayed within the recovery band for MIN_HOLD; it lasts at least as long
(R45). -/
def State.droopEnd (s : State) (shard : Nat) : State :=
  match tabFind s.core.droop shard with
  | some { start := start, band := some since } =>
    let hold := s.get CORE.MIN_HOLD * ticksPerUs
    if s.elapsed since hold && s.elapsed start hold then
      { s with core := { s.core with droop := tabDel s.core.droop shard } }
    else s
  | _ => s

def execDroopRecover (shard : Fin 8) (s : State) : Result := .next (s.droopEnd shard.val)

/-- VCORE below 450 mV raises the fatal VCORE fault; its reactions lead to safe state and module reset (R47, R396). -/
def execVcoreUndervolt (mv : BitVec 12) (s : State) : Result :=
  .next (s.when (decide (mv.toNat < 450)) (fun s => s.fault srcVcore))

/-- Bubbles in 256 ingress header slots of a pipe: the larger of the Quench fraction and, under a droop response of the pipe's
shard, one in eight; the two are not added (R46). -/
def State.bubbles (s : State) (pipe : Nat) : Nat :=
  max s.pwr.bubbles (if (tabFind s.core.droop (pipe / 8)).isSome then 32 else 0)

/-- The pipe's next ingress header slot carries a bubble: the fractions of the slots are added up, and the slot in which the
sum reaches a whole carries one, so that they are spread evenly (R45, R362). -/
def State.bubbleNext (s : State) (pipe : Nat) : Bool :=
  decide (256 ≤ tabGet 0 s.buf.slots pipe + s.bubbles pipe)

/-- The pipe uses an ingress header slot. -/
def State.slotUse (s : State) (pipe : Nat) : State :=
  let n := (tabGet 0 s.buf.slots pipe + s.bubbles pipe) % 256
  { s with buf := { s.buf with slots := if n = 0 then tabDel s.buf.slots pipe else tabPut s.buf.slots pipe n } }

/-! ### The operating point (R360, R361) -/

/-- The limits of R360 in table order. -/
def State.opLimits (s : State) : List Nat :=
  [s.pwr.govern.pref, max (s.get PWR.Q_LIMIT) s.pwr.govern.min, max (s.get PWR.T_LIMIT) 1,
    if s.flag PWR.PFAIL then 0 else 7]

/-- The target: the lowest limit. OP0 until READY sets, and while no image is configured (R356, R428); OP5 while Assay holds
it (R422). -/
def State.opTarget (s : State) : Nat :=
  if s.flag PWR.PFAIL then 0
  else if s.assay.hold then 5
  else if s.core.idle then 0
  else s.opLimits.foldl min 7

/-- Start or redirect a transition to `t` (R361). -/
def State.moveTo (s : State) (t : Nat) : State :=
  if t = s.get CORE.TGT_OP then s
  else
    let s := (s.set CORE.TGT_OP t).setB CORE.IN_TRANSITION true
    { s with core := { s.core with skip := true } }

/-- Recompute the target and STATUS.LIMIT (R360). -/
def State.retarget (s : State) : State :=
  let lims := s.opLimits
  let m := lims.foldl min 7
  let limit := lims.findIdx (fun x => x == m)
  let old := s.get PWR.LIMIT
  let s := s.set PWR.LIMIT limit
  let s := s.when (limit != old) (fun s => s.pwrEvent PWR.LIMIT_EVT)
  s.moveTo s.opTarget

/-! ### The end of Assay (R422, R423) -/

/-- Assay ends: the operating point is released, and READY reads 0 (R423). -/
def State.assayEnd (s : State) : State :=
  let s := { s with assay := { s.assay with running := false, left := [], hold := false } }
  (((s.set ASY.STATE 3).event ASY.DONE 0 true sumAssay).setB IMG.READY false).retarget

/-- Assay stops at once (R423). -/
def State.assayStop (s : State) (reason : Nat) : State :=
  if s.assay.running then ((s.setB ASY.ABORTED true).set ASY.REFUSAL reason).assayEnd else s

/-- The first of the conditions of orders 5 to 7 that does not hold, 0 if all hold (R422). -/
def State.assayUnmet (s : State) : Nat :=
  if s.flag PWR.PFAIL then 5
  else if s.get PWR.THERM_LEVEL != 0 then 6
  else if s.pwr.vin < 40000 || 60000 < s.pwr.vin then 7
  else 0

/-- A running Assay stops as soon as one of them fails (R423). -/
def State.assayWatch (s : State) : State := s.when (s.assayUnmet != 0) (fun s => s.assayStop s.assayUnmet)

/-- VCORE has settled at `mv`: within 5 mV of the target's V_SET, the operating point is declared (R361, R38, R40). -/
def State.opSettled (s : State) (mv : Nat) : State :=
  let t := s.get CORE.TGT_OP
  let v := s.rowVoltage t
  if s.flag CORE.IN_TRANSITION && decide (mv ≤ v + 5) && decide (v ≤ mv + 5) then
    let s := (s.set CORE.CUR_OP t).setB CORE.IN_TRANSITION false
    State.refreshRow { s with core := { s.core with relaxRun := 0, skip := true } }
  else s

def execOpTransitionDone (mv : BitVec 12) (s : State) : Result := .next (s.opSettled mv.toNat)

/-! ### Phases (R356 to R359, R371) -/

/-- What the registers of phase entry `n` hold. -/
def State.phaseVal (s : State) (n : Nat) : PhaseVal :=
  { pref := s.get PWR.E_PREF_OP n, min := s.get PWR.E_MIN_OP n, cap := s.get PWR.E_CAP n, k := s.get PWR.E_K n,
    bMax := s.get PWR.E_B_MAX n }

/-- The value rules of R356 (code 0x0E03 of R357). -/
def phaseOk (v : PhaseVal) : Bool :=
  decide (1 ≤ v.pref) && decide (v.pref ≤ 7) && decide (1 ≤ v.min) && decide (v.min ≤ v.pref) &&
  decide (60 ≤ v.cap) && decide (v.cap ≤ 2000) && v.k != 0 && decide (v.bMax ≤ 192)

/-- The entry may be selected: VALID, with values that R356 allows. -/
def State.phaseValid (s : State) (n : Nat) : Bool := s.flag PWR.E_VALID n && phaseOk (s.phaseVal n)

/-- A selected phase takes effect (R359, R363). -/
def State.phaseApply (s : State) (n : Nat) : State :=
  let v := s.phaseVal n
  let s := (s.set PWR.PHASE n).inc PWR.PHASE_CHANGES
  let s := { s with pwr := { s.pwr with govern := v, nextGovern := none, overRun := 0, underRun := 0 } }
  (s.set PWR.Q_LIMIT v.pref).retarget

/-- The selection of a lower rank that this edge has applied gives way: what it replaced returns (R358). -/
def State.phaseUndo (s : State) (e : PhaseEdge) : State :=
  if e.done then
    let s := (s.set PWR.PHASE e.phase).set PWR.PHASE_CHANGES (s.get PWR.PHASE_CHANGES - 1)
    let s := { s with pwr := { s.pwr with govern := e.govern, overRun := e.over_, underRun := e.under } }
    s.set PWR.Q_LIMIT e.qLimit
  else s

/-- The selection is the highest of its edge, and is applied or refused. -/
def State.phaseTake (s : State) (n rank : Nat) : State :=
  let ok := s.phaseValid n
  let e : PhaseEdge := { at_ := s.frc, rank := rank, done := ok, phase := s.get PWR.PHASE, govern := s.pwr.govern,
                         qLimit := s.get PWR.Q_LIMIT, over_ := s.pwr.overRun, under := s.pwr.underRun }
  let s := if ok then s.phaseApply n else s.pwrEvent PWR.PHASE_ERR
  { s with pwr := { s.pwr with edge := some e } }

/-- Ranks of R358: time trigger k, TRIG_IN[n], a register write. -/
def rankPin (n : Nat) : Nat := 4 + n
def rankWrite : Nat := 6

/-- A selection of phase `n` (R358). Of the selections that one edge of the timing clock records, only the highest counts: one
that comes after a higher is not applied, and one that comes after a lower replaces it. Register writes of one edge are taken
in their order. -/
def State.phaseSelect (s : State) (n rank : Nat) : State :=
  match s.pwr.edge with
  | some e =>
    if e.at_ != s.frc || (rank == rankWrite && e.rank == rankWrite) then s.phaseTake n rank
    else if e.rank ≤ rank then s
    else (s.phaseUndo e).phaseTake n rank
  | none => s.phaseTake n rank

/-- A write of word `w` (0 or 1) of phase entry `n`: stored unchanged, an error where R356 does not allow it (R371). -/
def State.phaseWrite (s : State) (n w v : Nat) : State :=
  let s := if w = 0 then
      ((s.set PWR.E_PREF_OP (bits v 0 3) n).set PWR.E_MIN_OP (bits v 8 3) n).set PWR.E_VALID (bits v 16 1) n
    else ((s.set PWR.E_CAP (bits v 0 16) n).set PWR.E_K (bits v 16 8) n).set PWR.E_B_MAX (bits v 24 8) n
  let s := s.when (s.phaseValid n && n == s.get PWR.PHASE) (fun s =>
    { s with pwr := { s.pwr with nextGovern := some (s.phaseVal n) } })
  s.when (s.flag PWR.E_VALID n && !phaseOk (s.phaseVal n)) (fun s => s.pwrEvent PWR.PHASE_ERR)

/-- PHASE_SELECT: a write of PHASE_SEL (R358). -/
def execPhaseSelect (n : Fin 16) (s : State) : Result := .next (s.viaHost PWR.PHASE_SEL (fun s => s.phaseSelect n.val rankWrite))

/-- PHASE_ENTRY_WRITE: word 0 or word 1 of an entry (R371). -/
def execPhaseEntryWrite (n : Fin 16) (w : Fin 2) (v : Word) (s : State) : Result :=
  .next (s.viaHost PWR.E_PREF_OP (fun s => s.phaseWrite n.val w.val v.toNat))

/-! ### Rail samples (R352, R353, R355) -/

/-- Nominal voltage of rails 2 to 6, mV (R352). -/
def railNominal (i : Nat) : Nat := nthNat [0, 0, 800, 900, 1200, 1100, 1800] i 0

/-- Outside ±5 % of nominal (R353). -/
def railOut (i mv : Nat) : Bool := decide (mv * 100 < railNominal i * 95) || decide (railNominal i * 105 < mv * 100)

/-- A run that counts consecutive samples under a condition. -/
def runOf (c : Bool) (n : Nat) : Nat := if c then n + 1 else 0

/-- The input sample: over-voltage, under-voltage and the power window (R353 to R355, R368). -/
def State.vinSample (s : State) (mv da : Nat) (valid : Bool) : State :=
  let p := s.pwr
  let s := { s with pwr := { p with
    vin := if valid then mv else p.vin,
    vinHigh := if valid then runOf (decide (76000 < mv)) p.vinHigh else p.vinHigh,
    vinLow := if valid then runOf (decide (mv < 34000)) p.vinLow else p.vinLow,
    goodSince := if valid && decide (36000 < mv) then some (p.goodSince.getD s.frc) else none,
    winSum := if valid then p.winSum + mv * da else p.winSum,
    winCount := if valid then p.winCount + 1 else p.winCount,
    winBad := p.winBad || !valid,
    badSamples := runOf (!valid) p.badSamples } }
  let s := s.when (s.pwr.vinHigh == 10 && p.vinHigh == 9) (fun s => (s.pwrEvent PWR.OV_EVT).fault srcOverVoltage)
  (s.when (decide (10 ≤ s.pwr.badSamples) && !s.flag PWR.MEAS_FAIL) (fun s =>
    (s.setB PWR.MEAS_FAIL true).fault srcMeasFail)).assayWatch

/-- RAIL_SAMPLE: rail `i` reports `mv` and `da` tenths of an ampere; `valid` false: the sample is missing or the converter
reports an error. PGOOD follows the rails (R432). -/
def State.railSample (s : State) (i mv da : Nat) (valid : Bool) : State :=
  let s := if valid then (s.set PWR.RAIL_V mv i).set PWR.RAIL_I da i else s
  let s := s.when (valid && (i == 1 || i == 2)) (fun s =>
    { s with act := { s.act with energy := s.act.energy + mv * da } })
  if i = 0 then s.vinSample mv da valid
  else if !valid then s
  else if i = 1 then (s.set CORE.V_MEAS mv).vcoreSeen mv
  else
    let run := runOf (railOut i mv) (tabGet 0 s.pwr.railRun i)
    let s := { s with pwr := { s.pwr with railRun := tabPut s.pwr.railRun i run } }
    let good := s.boot.powered && (List.range 7).all (fun r => tabGet 0 s.pwr.railRun r == 0)
    let s := { s with pins := { s.pins with pgood := good } }
    s.when (run == 10) (fun s => s.fault srcRail)

def execRailSample (rail : Fin 7) (mv : BitVec 18) (da : BitVec 14) (valid : Bool) (s : State) : Result :=
  .next (s.railSample rail.val mv.toNat da.toNat valid)

/-! ### The power window (R354, R355, R362, R363) -/

/-- The two values differ by more than 20 % of the measured one (R355). -/
def disagree (est meas : Nat) : Bool := decide (meas < 5 * (est - meas)) || decide (meas < 5 * (meas - est))

/-- The flags DISAGREE and MEAS_FAIL at a window end (R355). -/
def State.measFlags (s : State) (est meas : Nat) (bad : Bool) : State :=
  let d := disagree est meas
  let p := s.pwr
  let s := { s with pwr := { p with
    disagreeRun := if bad then 0 else runOf d p.disagreeRun,
    agreeRun := if bad then 0 else runOf (!d) p.agreeRun,
    validRun := runOf (!bad) p.validRun } }
  let s := s.when (s.flag PWR.MEAS_FAIL && decide (100 ≤ s.pwr.validRun)) (fun s => s.setB PWR.MEAS_FAIL false)
  let s := s.when (s.flag PWR.DISAGREE && decide (100 ≤ s.pwr.agreeRun)) (fun s => s.setB PWR.DISAGREE false)
  s.when (!s.flag PWR.MEAS_FAIL && !s.flag PWR.DISAGREE && decide (100 ≤ s.pwr.disagreeRun)) (fun s =>
    (s.setB PWR.DISAGREE true).fault srcDisagree)

/-- P_USED (R355). -/
def State.powerUsed (s : State) (est meas : Nat) : Nat :=
  if s.flag PWR.MEAS_FAIL then est + 150
  else if s.flag PWR.DISAGREE then max est meas
  else meas

/-- n of R362: bubbles in each 256 ingress header slots, from P_USED and the phase's cap, gain and largest fraction. -/
def quenchBubbles (v : PhaseVal) (used : Nat) : Nat :=
  if v.cap < used && v.cap != 0 then min v.bMax (ceilDiv (16 * v.k * (used - v.cap)) v.cap) else 0

/-- Place `n` bubbles and show them (R362). -/
def State.setBubbles (s : State) (n : Nat) : State :=
  let was := s.flag PWR.QUENCH_ACTIVE
  let s := { s with pwr := { s.pwr with bubbles := n } }
  let s := (s.set PWR.QUENCH_BUBBLES (min n 255)).setB PWR.QUENCH_ACTIVE (n != 0)
  s.when (n != 0 && !was) (fun s => s.pwrEvent PWR.QUENCH_EVT)

/-- The Quench limit at a window end (R363). -/
def State.qLimitStep (s : State) (used n : Nat) : State :=
  let v := s.pwr.govern
  let high := decide (v.cap < used) && decide (v.bMax ≤ n)
  let under := decide (used ≤ v.cap)
  let o := runOf high s.pwr.overRun
  let u := runOf under s.pwr.underRun
  let q := s.get PWR.Q_LIMIT
  if o = 100 then
    (State.set { s with pwr := { s.pwr with overRun := 0, underRun := 0 } } PWR.Q_LIMIT (max (q - 1) v.min)).retarget
  else if u = 1000 then
    (State.set { s with pwr := { s.pwr with overRun := 0, underRun := 0 } } PWR.Q_LIMIT (min (q + 1) v.pref)).retarget
  else { s with pwr := { s.pwr with overRun := o, underRun := u } }

/-- The values that a write has left to the entry in force govern from the next window: the last that R356 allowed (R371). -/
def State.reloadPhase (s : State) : State :=
  match s.pwr.nextGovern with
  | some v => { s with pwr := { s.pwr with govern := v, nextGovern := none } }
  | none => s

/-- The hottest working core-die sensor, in 0.125 °C units above −40 °C; 0 with none. -/
def State.hottestCore (s : State) : Nat :=
  (List.range 224).foldl (fun m n =>
    if s.flag PWR.FAILED n then m else max m (signed (s.get PWR.TEMP n) 16 + 320).toNat) 0

/-- Lanes powered: the LANES of the running PORT_MAP's ports (R81, R428 step 7), but none after a power failure (R368). -/
def State.lanesPowered (s : State) : Nat :=
  if s.flag PWR.PFAIL then 0
  else (List.range 1024).foldl (fun n p => n + le (tabGet [] s.img.run 0x01) (8 + 16 * p) 1) 0

/-- Numbers of the events of R354 in the window that ends: tokens, segment accesses, Lookup Fabric bank operations, QDR
transactions, powered lanes. -/
def State.activity (s : State) : List Nat :=
  [(List.range 81).foldl (fun t n => t + s.get CORE.TRM_COUNT n) 0, s.act.segs, s.act.banks, s.act.qdr, s.lanesPowered]

/-- P_EST, W (R354): a static term for the operating point and the hottest core-die sensor, plus fused per-event energies. -/
def State.estimate (s : State) : Nat :=
  let coefs := (List.range 16).map (fun j => s.get PWR.EST_COEF j)
  let acts := s.activity
  let power := (List.range 5).foldl (fun t k => t + Config.estPower coefs k (nthNat acts k 0)) 0
  satTo 0xFFFF (Config.estStatic coefs (s.get CORE.CUR_OP) s.hottestCore + power)

/-- The window that runs has lasted its 10 µs (R354). -/
def State.powerDue (s : State) : Bool := s.boot.powered && s.elapsed s.pwr.winAt windowTicks

/-- The end of the power window. P_MEAS is the mean of the samples, in W (R354). -/
def State.powerWindow (s : State) : State :=
  let p := s.pwr
  let est := s.estimate
  let s := { s with act := { s.act with segs := 0, banks := 0, qdr := 0 } }
  let meas := if p.winCount = 0 then s.get PWR.P_MEAS else p.winSum / (p.winCount * 10000)
  let s := (s.set PWR.P_MEAS meas).set PWR.P_EST est
  let s := s.measFlags est meas p.winBad
  let used := s.powerUsed est meas
  let s := (s.set PWR.P_USED used).set PWR.P_PEAK (max used (s.get PWR.P_PEAK))
  let s := s.reloadPhase
  let n0 := quenchBubbles s.pwr.govern used
  let n := if s.pwr.thermFloor then max n0 s.pwr.govern.bMax else n0
  let s := { s with pwr := { s.pwr with winSum := 0, winCount := 0, winBad := false, winAt := p.winAt + windowTicks } }
  ((s.setBubbles n).qLimitStep used n).retarget

/-- POWER_WINDOW_END: the window aligned to the token windows has run its 10 µs (R354, R355). -/
def execPowerWindowEnd (s : State) : Result := .next (s.when s.powerDue (fun s => s.powerWindow))

/-! ### The energy window (R30) -/

/-- Bits switched in the window: eight times the sum of the egress byte counts. -/
def State.egressBits (s : State) : Nat := 8 * s.act.bytes

/-- Traffic above 10 % of the line rate of the 1,024 lanes, 204.8 Tbit/s, over the 1 s window (R28, R30). -/
def State.trafficMet (s : State) : Bool := decide (20480000000000 < s.egressBits)

/-- L-energy × 4,096: the window's energy over its bits, and that over the energy of an SRAM write plus read (R30). -/
def State.lEnergy (s : State) : Nat :=
  s.act.energy * 2 ^ 20 * 4096 / (s.egressBits * Config.sramEnergy (s.get CORE.CUR_OP))

/-- L_ENERGY_WINDOW_END: a window of 1 s ends. Without the traffic the condition is not met, and the older ratio stays; a
ratio that does not fit is shown as the largest (DESIGN CHOICE, log 72). -/
def State.energyWindow (s : State) : State :=
  if !s.boot.powered || !s.elapsed s.act.secAt (1000 * ticksPerMs) then s
  else
    let met := s.trafficMet
    let ratio := s.lEnergy
    let s := { s with act := { s.act with secAt := s.act.secAt + 1000 * ticksPerMs, energy := 0, bytes := 0 } }
    let s := s.setB PWR.L_ENERGY_VALID met
    s.when met (fun s => (s.set PWR.L_ENERGY (satTo 0xFFFF ratio)).when (decide (10240 < ratio)) (fun s => s.fault srcRatio))

def execLEnergyWindowEnd (s : State) : Result := .next s.energyWindow

/-! ### Temperature (R364 to R366) -/

/-- The group of a sensor (R364). -/
def sensorGroup (n : Nat) : Nat :=
  if n < 224 then n / 28 else if n < 256 then 8 + (n - 224) / 4 else if n < 272 then 16 else 17

/-- A reading in 0.125 °C units, offset so that −40 °C is 0: the scale of a threshold times two. -/
def offsetReading (r : Nat) : Int := signed r 16 + 320

/-- The reading lies outside −40 to 150 °C (R364). -/
def readingBad (r : Nat) : Bool := decide (offsetReading r < 0) || decide (1520 < offsetReading r)

/-- Sensor `n` is failed or working: at the change to failed, the event and the fault (R364). -/
def State.sensorState (s : State) (n : Nat) (bad : Bool) : State :=
  let was := s.flag PWR.FAILED n
  (s.setB PWR.FAILED bad n).when (bad && !was) (fun s => (s.pwrEvent PWR.SENSOR_FAIL_EVT).fault srcSensor n)

/-- One reading. -/
def State.sensorRead (s : State) (n r : Nat) : State :=
  let s := { s with pwr := { s.pwr with sensorAt := tabPut s.pwr.sensorAt n s.frc } }
  (s.set PWR.TEMP r n).sensorState n (readingBad r)

/-- Sensors that have not produced a reading for 1 ms are failed (R364). -/
def State.sensorsLate (s : State) : State :=
  upTo 288 (fun n s => if s.elapsed (tabGet 0 s.pwr.sensorAt n) ticksPerMs then s.sensorState n true else s) s

/-- The hottest working sensor of a group: the first one on a tie. -/
def State.hottest (s : State) (g : Nat) : Option (Int × Nat) :=
  ((List.range 288).filter (fun n => sensorGroup n == g && !s.flag PWR.FAILED n)).foldl (fun best n =>
    let r := offsetReading (s.get PWR.TEMP n)
    match best with
    | none => some (r, n)
    | some (b, m) => if b < r then some (r, n) else some (b, m)) none

/-- The group's hottest sensor is above a threshold; a group without a working sensor counts as above QUENCH (R364). -/
def aboveThr (hot : Option (Int × Nat)) (thr : Nat) (failed : Bool) : Bool :=
  match hot with
  | some (r, _) => decide (2 * (thr : Int) < r)
  | none => failed

/-- The group's hottest sensor is below a threshold less `margin` °C. -/
def belowThr (hot : Option (Int × Nat)) (thr margin : Nat) : Bool :=
  match hot with
  | some (r, _) => decide (r < 2 * (thr : Int) - 8 * (margin : Int))
  | none => false

/-- The level of a group after a sample (R366). A level of QUENCH lasts until it is left for every group at once; CRIT lasts
while THERM_TRIP_N is asserted (R367). -/
def State.groupLevel (s : State) (g : Nat) : Nat :=
  let hot := s.hottest g
  let old := s.get PWR.TG_LEVEL g
  if aboveThr hot (s.get PWR.TG_CRIT g) false || (old == 3 && s.pwr.thermTrip) then 3
  else if aboveThr hot (s.get PWR.TG_QUENCH g) true || decide (2 ≤ old) then 2
  else if aboveThr hot (s.get PWR.TG_WARN g) true || (old == 1 && !belowThr hot (s.get PWR.TG_WARN g) 5) then 1
  else 0

/-- THERM_LEVEL shows the highest level of any group. -/
def State.showThermLevel (s : State) : State :=
  s.set PWR.THERM_LEVEL ((List.range 18).foldl (fun m g => max m (s.get PWR.TG_LEVEL g)) 0)

/-- A group is at the QUENCH level or above. -/
def State.anyQuench (s : State) : Bool := (List.range 18).any (fun g => decide (2 ≤ s.get PWR.TG_LEVEL g))

/-- Judge a group: entering a level takes that level's action (R366). The 10 ms steps run on from the first group's entry. -/
def State.judgeGroup (s : State) (g : Nat) : State :=
  let old := s.get PWR.TG_LEVEL g
  let new := s.groupLevel g
  let hot := s.hottest g
  let stepping := s.anyQuench
  let sensor := match hot with | some (_, n) => n | none => 0
  let s := match hot with
    | some (_, n) => (s.set PWR.TG_HOTTEST (s.get PWR.TEMP n) g).set PWR.TG_HOT_SENSOR n g
    | none => s
  let s := s.set PWR.TG_LEVEL new g
  let s := s.when (old == 0 && decide (1 ≤ new)) (fun s => (s.pwrEvent PWR.THERM_WARN_EVT).fault srcThermWarn sensor)
  let s := s.when (decide (old < 2) && decide (2 ≤ new)) (fun s =>
    let s := s.set PWR.T_LIMIT (max 1 (s.get PWR.T_LIMIT - 1))
    let next := if stepping then s.pwr.thermNext else s.frc + 10 * ticksPerMs
    { s with pwr := { s.pwr with rising := false, thermNext := next } })
  s.when (decide (old < 3) && new == 3) (fun s =>
    State.fault { s with pwr := { s.pwr with thermTrip := true } } srcThermCrit sensor)

/-- Every group is below its QUENCH − 5 °C. -/
def State.allBelowQuench (s : State) : Bool :=
  (List.range 18).all (fun g => belowThr (s.hottest g) (s.get PWR.TG_QUENCH g) 5)

/-- Every working sensor is below its group's CRIT − 10 °C (R367). -/
def State.allCool (s : State) : Bool :=
  (List.range 18).all (fun g => (s.hottest g).isNone || belowThr (s.hottest g) (s.get PWR.TG_CRIT g) 10)

/-- The QUENCH level is left once every group has been below QUENCH − 5 °C for 100 ms (R366). -/
def State.leaveQuench (s : State) : State :=
  let below := s.allBelowQuench
  let since := if below then some (s.pwr.belowSince.getD s.frc) else none
  let cool := if s.allCool then some (s.pwr.coolSince.getD s.frc) else none
  let s := { s with pwr := { s.pwr with belowSince := since, coolSince := cool } }
  let hot := (List.range 18).any (fun g => s.get PWR.TG_LEVEL g == 2)
  match since with
  | some t =>
    if hot && s.elapsed t (100 * ticksPerMs) then
      let s := upTo 18 (fun g s =>
        if s.get PWR.TG_LEVEL g = 2 then
          s.set PWR.TG_LEVEL (b2n (!belowThr (s.hottest g) (s.get PWR.TG_WARN g) 5)) g
        else s) s
      { s with pwr := { s.pwr with thermFloor := false, rising := true, thermNext := s.frc + 10 * ticksPerMs } }
    else s
  | none => s

/-- TEMP_SAMPLE: the sensors that produced a reading, with it (R364, R366). -/
def State.tempSample (s : State) (readings : List (Fin 288 × BitVec 16)) : State :=
  let s := readings.foldl (fun s r => s.sensorRead r.1.val r.2.toNat) s
  let s := s.sensorsLate
  let s := upTo 18 (fun g s => s.judgeGroup g) s
  ((s.leaveQuench.showThermLevel).assayWatch).retarget

def execTempSample (readings : List (Fin 288 × BitVec 16)) (s : State) : Result := .next (s.tempSample readings)

/-- The 10 ms step of T_LIMIT (R366). -/
def State.thermalStep (s : State) : State :=
  if s.frc < s.pwr.thermNext then s
  else
    let next := s.frc + 10 * ticksPerMs
    let t := s.get PWR.T_LIMIT
    if s.anyQuench then
      let s := { s with pwr := { s.pwr with thermNext := next } }
      if 1 < t then (s.set PWR.T_LIMIT (t - 1)).retarget
      else
        let s := { s with pwr := { s.pwr with thermFloor := true } }
        s.setBubbles (max s.pwr.bubbles s.pwr.govern.bMax)
    else if s.pwr.rising then
      let s := { s with pwr := { s.pwr with thermNext := next, rising := decide (t + 1 < 7) } }
      (s.set PWR.T_LIMIT (min 7 (t + 1))).retarget
    else s

def execThermalStep (s : State) : Result := .next s.thermalStep

end Sys2Proof.Machine
end

