-- ==== Sys2Proof/Machine/Anvil.lean ====
section
/-!
DEFINITION. Anvil (R372 to R388): microword fetches and machine checks, traps, variants, and the module store with its
journals. The work of each activity stands with the memories it works on.
-/
namespace Sys2Proof.Machine
open Reg

/-! ### The module store (R381 to R386) -/

/-- Where the line at a module-store offset is kept: its pool line if it was remapped (R384). -/
def State.storeAt (s : State) (off : Nat) : Nat :=
  match tabFind s.anvil.remap (off / 64) with
  | some pool => 0x0F000000 + 64 * pool + off % 64
  | none => off

/-- `n` bytes of the module store from an offset, line by line. -/
def State.storeRead (s : State) (off n : Nat) : List Byte :=
  (List.range n).map (fun k => memByte s.dev (storeBase + s.storeAt (off + k)))

/-- Pool lines free (R384). -/
def State.poolFree (s : State) : Nat := 16384 - s.anvil.poolNext

/-- Put 64 bytes where the line at an offset is kept. -/
def State.storePut (s : State) (off : Nat) (line : List Byte) : State :=
  (s.memStore (storeBase + s.storeAt off) (padTo 64 line)).inc ANVL.MS_WRITES

/-- Remap the line at an offset to the next free pool line; below 1,024 free lines MS_LOW sets (R384). -/
def State.storeRemap (s : State) (off : Nat) : State :=
  let next := s.anvil.poolNext
  let s := { s with anvil := { s.anvil with remap := tabPut s.anvil.remap (off / 64) next, poolNext := next + 1 } }
  s.when (decide (s.poolFree < 1024)) (fun s => (s.setB ANVL.MS_LOW true).fault srcStoreLow)

/-- The line at an offset reads back as it was written: no bit of it has been inverted (R405). -/
def State.readsBack (s : State) (off : Nat) : Bool := s.injAt (storeBase + s.storeAt (off / 64 * 64)) 64 == 0

/-- Read back a line that has been written, at most `n` more times: while it does not read back it is remapped and written
again; the second component is false when no pool line was free (R384). -/
def State.storeSettle : Nat → State → Nat → List Byte → State × Bool
  | 0, s, _, _ => (s, true)
  | n + 1, s, off, line =>
    if s.readsBack off then (s, true)
    else if s.poolFree = 0 then (s, false)
    else State.storeSettle n ((s.storeRemap off).storePut off line) off line

/-- Write the line at an offset. `ok` false: it does not read back correctly; neither does a line that an injected error has
struck (R405). It is then remapped and written again; the second component is false when no pool line was free (R384). -/
def State.storeWrite (s : State) (off : Nat) (line : List Byte) (ok : Bool) : State × Bool :=
  let tries := 1 + s.flt.injMem.length
  let s := s.storePut off line
  if ok then State.storeSettle tries s off line
  else if s.poolFree = 0 then (s, false)
  else State.storeSettle tries ((s.storeRemap off).storePut off line) off line

/-- A line of R382: header, CRC-32C and payload. -/
def storeLine (kind seq : Nat) (payload : List Byte) : List Byte :=
  let hdr := leBytes 4 (kind % 256 + 256 * (seq % 2 ^ 24))
  let body := padTo 56 payload
  hdr ++ leBytes 4 (crc32c (hdr ++ body)) ++ body

/-- A line is valid when its CRC is correct and its KIND matches its region (R382). -/
def lineValid (kind : Nat) (line : List Byte) : Bool :=
  le line 0 1 == kind && le line 4 4 == crc32c (line.take 4 ++ (line.drop 8).take 56)

/-- Base offset and number of lines of the journal of a KIND (R381). -/
def journalBase (kind : Nat) : Nat :=
  if kind = 5 then 0x0E010000 else if kind = 6 then 0x0E100000 else 0x0E000000 + 0x1000 * (kind - 1)
def journalLines (kind : Nat) : Nat := if kind = 5 then 4096 else if kind = 6 then 16384 else 64

/-- The current record of a journal: its whole line, none if the journal holds no valid line (R383). -/
def State.record (s : State) (kind : Nat) : Option (List Byte) :=
  match tabGet 0 s.anvil.journal kind with
  | 0 => none
  | p + 1 =>
    let line := s.storeRead (journalBase kind + 64 * p) 64
    if lineValid kind line then some line else none

/-- Write a journal record in the ring position after the current one, with JSEQ one greater (R383). A line that can be
neither written nor remapped is abandoned for the next position (R384). The first record's JSEQ is 0. DESIGN CHOICE (log 7). -/
def State.journalWrite (s : State) (kind : Nat) (payload : List Byte) (ok : Bool) : State :=
  let n := journalLines kind
  let cur := tabGet 0 s.anvil.journal kind
  let pos := cur % n
  let seq := match s.record kind with
    | some line => (le line 0 4 / 256 + 1) % 2 ^ 24
    | none => 0
  let line := storeLine kind seq payload
  let (s, done) := s.storeWrite (journalBase kind + 64 * pos) line ok
  if done then { s with anvil := { s.anvil with journal := tabPut s.anvil.journal kind (pos + 1) } }
  else
    let pos2 := (pos + 1) % n
    let s := s.storePut (journalBase kind + 64 * pos2) line
    { s with anvil := { s.anvil with journal := tabPut s.anvil.journal kind (pos2 + 1) } }

/-- The commit record of a bank (R63, R382): VALID, IMAGE_LENGTH, SEQUENCE and IMAGE_DIGEST. -/
structure CommitRec where
  valid : Bool
  length : Nat
  seq : Nat
  digest : List Byte
  deriving DecidableEq, Repr

def State.commitRec (s : State) (bank : Nat) : CommitRec :=
  match s.record (1 + bank) with
  | some l => { valid := bit (le l 8 4) 31, length := bits (le l 8 4) 0 27, seq := le l 12 4, digest := slice l 16 48 }
  | none => { valid := false, length := 0, seq := 0, digest := zeros 48 }

/-- Show the commit records in IMG_BANK_A_STATUS and IMG_BANK_B_STATUS (R77). -/
def State.showBanks (s : State) : State :=
  let a := s.commitRec 0
  let b := s.commitRec 1
  (((s.setB IMG.A_VALID a.valid).set IMG.A_SEQUENCE a.seq).setB IMG.B_VALID b.valid).set IMG.B_SEQUENCE b.seq

/-- Write a bank's commit record (R63, R64). -/
def State.commitWrite (s : State) (bank : Nat) (c : CommitRec) (ok : Bool) : State :=
  (s.journalWrite (1 + bank)
    (leBytes 4 (c.length % 2 ^ 27 + 2 ^ 31 * b2n c.valid) ++ leBytes 4 c.seq ++ padTo 48 c.digest) ok).showBanks

/-- Write BOOT_PREF (R66). -/
def State.bootPrefWrite (s : State) (v : Nat) : State :=
  (s.journalWrite 3 (leBytes 1 (v % 2)) true).set IMG.BOOT_PREF v

/-- Commit the hours record (R37). -/
def State.hoursCommit (s : State) (ok : Bool) : State := s.journalWrite 5 (leBytes 4 (s.get CORE.HOURS)) ok

/-- What the module reads from its store when it starts: hours, BOOT_PREF, commit records, spare map (R14, R428 step 3). -/
def State.storeSense (s : State) : State :=
  let hours := match s.record 5 with | some l => le l 8 4 | none => 0
  let pref := match s.record 3 with | some l => le l 8 1 % 2 | none => 0
  let s := (s.set CORE.HOURS hours).set IMG.BOOT_PREF pref
  let s := upTo 64 (fun k s =>
    let line := s.storeRead (0x0E003000 + 64 * k) 64
    if lineValid 4 line then (s.set CRUC.SM_REPLACES (le line 8 2 % 4096) k).setB CRUC.SM_USED true k else s) s
  s.showBanks

/-! ### Microword fetches (R372, R375) -/

/-- Parity group `i` of a microword has even parity: its bits are those at positions j with j mod 8 = i, the last of them the
parity bit (R372). -/
def groupEven (w : BitVec 112) (i : Nat) : Bool :=
  !(List.range 14).foldl (fun b k => xor b (w.getLsbD (8 * k + i))) false

/-- A microword passes parity (R372). -/
def parityGood (w : BitVec 112) : Bool := (List.range 8).all (fun i => groupEven w i)

/-- The parity bits of a microword's data (R372). -/
def parityBits (d : BitVec 104) : BitVec 8 :=
  BitVec.ofNat 8 ((List.range 8).foldl (fun n i =>
    n + 2 ^ i * b2n ((List.range 13).foldl (fun b k => xor b (d.getLsbD (8 * k + i))) false)) 0)

/-- The control store: the microword at an address, the same in copies A and B (R372). -/
def microword (upc : BitVec 15) : BitVec 112 :=
  parityBits (Config.microData upc.toNat) ++ Config.microData upc.toNat

/-- What a copy returns with some of its bits inverted passes parity. The stored word does, so this is the parity of the
inverted bits: `parityGood (microword upc ^^^ flips) = parityGood flips`. -/
def copyGood (flips : BitVec 112) : Bool := parityGood flips

/-- Activities of R379. -/
def actPlanish : Nat := 0
def actCalibration : Nat := 1
def actTarnish : Nat := 2
def actFlush : Nat := 3
def actWear : Nat := 4
def actExport : Nat := 5
def actMigration : Nat := 6

/-- A machine check is recorded in ANVL_MC_LAST. -/
def State.mcLast (s : State) (upc act : Nat) (second redirected : Bool) : State :=
  ((((s.set ANVL.ML_UPC upc).setB ANVL.ML_SECOND second).setB ANVL.ML_REDIRECTED redirected).set ANVL.ML_ACTIVITY act).setB
    ANVL.ML_VALID true |>.inc ANVL.MC_COUNT

/-- The word was good in copy B: the list takes its address, or is full (R375). -/
def State.mcCorrected (s : State) (upc act : Nat) : State :=
  if s.anvil.redirect.contains upc then s
  else
    let room := decide (s.anvil.redirect.length < 64)
    let s := (s.mcLast upc act false room).setB ANVL.MC_CORR true
    if room then
      let s := { s with anvil := { s.anvil with redirect := s.anvil.redirect ++ [upc] } }
      (s.set ANVL.REDIRECT_USED s.anvil.redirect.length).fault srcRedirect
    else s.setB ANVL.MC_LIST_FULL true

/-- An activity's routine starts again from its beginning: the sweeps of the sixteen tables, whose cursors stand at 16 + t, and
the rows of the migration that runs, are part of it (R375). -/
def State.routineRestart (s : State) (act : Nat) : State :=
  let cur := (tabDel s.anvil.cursor act).filter (fun c => !(act == actTarnish && (inRange 16 32 c.1 || inRange 64 80 c.1)))
  let s := { s with anvil := { s.anvil with cursor := cur } }
  match s.buf.mig.cur with
  | some (b, sp, _) =>
    if act = actMigration then { s with buf := { s.buf with mig := { s.buf.mig with cur := some (b, sp, 0) } } } else s
  | none => s

/-- The word failed in both copies: the routine is abandoned and starts again; a second time within 1 s halts the activity
(R375). `act` 7: a trap handler, the hours count or the commit of R387, none of which halts. -/
def State.mcFailed (s : State) (upc act : Nat) : State :=
  let s := ((s.mcLast upc act true false).setB ANVL.MC_UNCORR true).fault srcAnvil
  let last := tabGet 0 s.anvil.abandoned act
  let again := last != 0 && !s.elapsed (last - 1) (1000 * ticksPerMs + 1)
  let s := { s with anvil := { s.anvil with abandoned := tabPut s.anvil.abandoned act (s.frc + 1) } }
  (s.routineRestart act).when (again && decide (act < 7)) (fun s => s.setBit ANVL.ACT_HALTED act)

/-- What a fetch comes to: the word executes, after the machine check that an error in copy A raises; or it is lost. An address
in the redirect list is fetched from copy B without a machine check (R375). -/
inductive Fetched where
  | runs | corrected | lost
  deriving DecidableEq, Repr

def State.fetched (s : State) (f : Fetch) : Fetched :=
  if s.anvil.redirect.contains f.upc.toNat then (if copyGood f.flipB then .runs else .lost)
  else if copyGood f.flipA then .runs
  else if copyGood f.flipB then .corrected
  else .lost

/-- A word of a routine that takes no share: a handler, the hours count or the commit. A routine abandoned here starts again,
and its work is then done (R375, R379). -/
def State.anvilOwn (s : State) (f : Fetch) (work : State → State) : State :=
  match s.fetched f with
  | .runs => work s
  | .corrected => work (s.mcCorrected f.upc.toNat 7)
  | .lost => work (s.mcFailed f.upc.toNat 7)

/-! ### The background schedule (R379) -/

/-- Activities 0 to 5 sweep without end; a migration has work while one runs or waits. -/
def State.hasWork (s : State) (act : Nat) : Bool :=
  act != actMigration || s.buf.mig.cur.isSome || !s.buf.mig.queue.isEmpty

/-- Steps that the running frame still owes to the activities that have work. -/
def State.owed (s : State) : Nat :=
  (List.range 7).foldl (fun n a => if s.hasWork a then n + (s.get ANVL.SHARE a - tabGet 0 s.anvil.given a) else n) 0

/-- The activity that the next step left over goes to: the first with work in rotating order. -/
def State.nextOver (s : State) : Option Nat :=
  ((List.range 7).map (fun k => (s.anvil.rot + k) % 7)).find? (fun a => s.hasWork a)

/-- The next step is the activity's: one of its share in this frame, or one left over in its turn. -/
def State.stepGranted (s : State) (act : Nat) : Bool :=
  decide (tabGet 0 s.anvil.given act < s.get ANVL.SHARE act) ||
    (decide (s.owed < 256 - s.anvil.slot) && s.nextOver == some act)

/-- The step is taken: it counts in the frame, and after the 256th a new frame begins. -/
def State.stepTake (s : State) (act : Nat) : State :=
  let g := tabGet 0 s.anvil.given act
  let rot := if g < s.get ANVL.SHARE act then s.anvil.rot else (act + 1) % 7
  if s.anvil.slot + 1 < 256 then
    { s with anvil := { s.anvil with slot := s.anvil.slot + 1, given := tabPut s.anvil.given act (g + 1), rot := rot } }
  else { s with anvil := { s.anvil with slot := 0, given := [], rot := rot } }

/-- The activity's access waits for a grant (R51). -/
def State.accessWaits (s : State) (act : Nat) : State :=
  if (tabFind s.anvil.waitAt act).isSome then s
  else { s with anvil := { s.anvil with waitAt := tabPut s.anvil.waitAt act s.frc } }

/-- The activity's access is granted. -/
def State.accessGranted (s : State) (act : Nat) : State :=
  { s with anvil := { s.anvil with
    waitAt := tabDel s.anvil.waitAt act, starved := s.anvil.starved.filter (fun a => a != act) } }

/-- An activity's step, when the schedule gives it one: the fetch, then the work if the word executes and its access is
granted; a request that is not stays pending, and the step counts all the same (R51, R379). A halted activity has no steps
(R375), and none has any between a power failure and the reset that follows it (R387). -/
def State.anvilStep (s : State) (act : Nat) (f : Fetch) (work : State → State) : State :=
  if s.bitOf ANVL.ACT_HALTED act || s.flag ANVL.PFAIL_COMMIT || !s.boot.powered || !s.stepGranted act then s
  else
    let s := s.stepTake act
    match s.fetched f with
    | .lost => s.mcFailed f.upc.toNat act
    | .corrected =>
      let s := s.mcCorrected f.upc.toNat act
      if f.waits then s.accessWaits act else work (s.accessGranted act)
    | .runs => if f.waits then s.accessWaits act else work (s.accessGranted act)

/-- BG_STARVED: an access has waited longer than BG_WAIT_LIMIT. It is counted once, and stays pending (R51). -/
def State.bgStarved (s : State) (act : Nat) : State :=
  match tabFind s.anvil.waitAt act with
  | some t =>
    if s.anvil.starved.contains act || !s.elapsed t (s.get CORE.BG_WAIT_LIMIT * ticksPerUs + 1) then s
    else
      let s := { s with anvil := { s.anvil with starved := act :: s.anvil.starved } }
      (s.inc CORE.BG_STARVED_EVENTS).fault srcStarved
  | none => s

def execBgStarved (a : Fin 7) (s : State) : Result := .next (s.bgStarved a.val)

/-! ### Traps (R374) -/

/-- A trap is taken: the frame is saved, and the handler runs. -/
def State.trapEnter (s : State) (f : Fetch) : State :=
  let s := { s with anvil := { s.anvil with
    frame := some (s.anvil.upc, s.anvil.work, s.anvil.loops), traps := s.anvil.traps - 1 } }
  (s.inc ANVL.TRAPS).anvilOwn f (fun s => s)

/-- The handler returns: the frame is restored, and the interrupted routine resumes as if no trap had occurred. -/
def State.trapReturn (s : State) : State :=
  match s.anvil.frame with
  | some (u, w, l) => { s with anvil := { s.anvil with upc := u, work := w, loops := l, frame := none } }
  | none => s

/-- ANVIL_TRAP: a trap, and the traps raised while its handler runs, which stay pending until it returns and are then taken in
turn. After a power failure Anvil runs nothing but the commit (R387). -/
def State.anvilTrap (s : State) (f : Fetch) (raised : Nat) : State :=
  if s.flag ANVL.PFAIL_COMMIT || !s.boot.powered then s
  else
    let s := { s with anvil := { s.anvil with traps := 1 + raised } }
    iterate (fun s => (s.trapEnter f).trapReturn) (1 + raised) s

def execAnvilTrap (f : Fetch) (raised : Byte) (s : State) : Result := .next (s.anvilTrap f raised.toNat)

/-! ### The hours count (R37) -/

/-- Ticks in 360 s (R37). -/
def hoursTicks : Nat := 360000 * ticksPerMs

/-- Ticks of valid input that no increment has counted. -/
def State.hoursTime (s : State) : Nat := s.pwr.hoursBank + (s.frc - s.pwr.hoursAt)

/-- HOURS_INCREMENT: 360 s of valid input have passed; HOURS increases, the record is committed and V_BASE recomputed (R37,
R38). H never decreases: the register holds its largest value (DESIGN CHOICE, log 69). -/
def State.hoursStep (s : State) (f : Fetch) (ok : Bool) : State :=
  if !s.boot.powered || s.flag PWR.PFAIL || decide (s.hoursTime < hoursTicks) then s
  else
    let s := { s with pwr := { s.pwr with hoursBank := s.hoursTime - hoursTicks, hoursAt := s.frc } }
    s.anvilOwn f (fun s => ((s.set CORE.HOURS (satTo 0xFFFFFFFF (s.get CORE.HOURS + 1))).hoursCommit ok).refreshRow)

def execHoursIncrement (f : Fetch) (ok : Bool) (s : State) : Result := .next (s.hoursStep f ok)

/-- VARIANT_SWITCH: a routine takes its selected variant at its first boundary after the load (R376). -/
def State.variantSwitch (s : State) (r : Nat) : State :=
  match tabFind s.anvil.selected r with
  | some v => State.set { s with anvil := { s.anvil with selected := tabDel s.anvil.selected r } } ANVL.SELECTED v r
  | none => s

def execVariantSwitch (r : Fin 256) (s : State) : Result := .next (s.variantSwitch r.val)

/-- A write of SHARE (R379): not below the minimum, and the sum kept to 256 unless the minimum forbids it. -/
def State.shareWrite (s : State) (a v : Nat) : State :=
  let others := (List.range 7).foldl (fun n b => if b = a then n else n + s.get ANVL.SHARE b) 0
  let v := max v (minShare a)
  let v := if 256 < others + v then max (256 - others) (minShare a) else v
  s.set ANVL.SHARE v a

/-- A pass of an activity ends: its duration in ticks, and a new pass starts (R380). The first pass began at the last reset
(R387). -/
def State.passEnd (s : State) (act : Nat) : Nat × State :=
  (s.frc - tabGet s.anvil.since s.anvil.passAt act,
    { s with anvil := { s.anvil with passAt := tabPut s.anvil.passAt act s.frc, cursor := tabPut s.anvil.cursor act 0 } })

/-- A pass overran its coverage (R380). -/
def State.coverMiss (s : State) (act : Nat) : State := (s.setBit ANVL.COVER_MISS act).fault srcCoverMiss

/-- WEAR_LEVEL_STEP: one line of the module store is read, written and read back; `ok` false: it does not read back
(R379, R384). -/
def execWearLevelStep (f : Fetch) (line : BitVec 22) (ok : Bool) (s : State) : Result :=
  .next (s.anvilStep actWear f (fun s =>
    (s.storeWrite (64 * line.toNat) (s.storeRead (64 * line.toNat) 64) ok).1))

/-! ### Checks of ANVIL_VARIANTS (R377, R378) -/

/-- The payload of ANVIL_VARIANTS: the failure code with its index, none if it is good. -/
def checkAnvil (p : List Byte) : Option Nat :=
  let n := le p 8 4
  if le p 0 4 != 1 || decide (256 < n) || p.length != 0x20 + 4 * n then some 0x0F01
  else
    let share := fun a => le p (0x10 + a) 1
    let shareBad := (List.range 7).find? (fun a => decide (share a < minShare a))
    let sum := (List.range 7).foldl (fun t a => t + share a) 0
    let badEntry := (List.range n).findSome? (fun e =>
      let q := 0x20 + 4 * e
      let r := le p q 2
      let v := le p (q + 2) 1
      let twice := (List.range e).any (fun d => le p (0x20 + 4 * d) 2 == r)
      if decide (256 ≤ r) || romVariants r == 0 || decide (romVariants r ≤ v) || twice then some (0x0F02 + 0x10000 * e)
      else if le p (q + 3) 1 != 0 then some (0x0F04 + 0x10000 * e) else none)
    if !zeroBytes p 0x0C 4 then some 0x0F04
    else
      match shareBad with
      | some a => some (0x0F03 + 0x10000 * a)
      | none =>
        if decide (256 < sum) then some (0x0F03 + 0x10000 * 6) else if !zeroBytes p 0x17 9 then some 0x0F04 else badEntry

/-- A full load applies ANVIL_VARIANTS (R376): shares, SET_ID, and a selection that waits for each routine's boundary. -/
def State.applyAnvil (s : State) (p : List Byte) : State :=
  let n := le p 8 4
  let s := (s.set ANVL.SET_ID (le p 4 4)).setB ANVL.VARIANTS_LOADED true
  let s := upTo 7 (fun a s => s.set ANVL.SHARE (le p (0x10 + a) 1) a) s
  let shares := (List.range 7).map (fun a => (a, le p (0x10 + a) 1))
  let named := (List.range n).map (fun e => (le p (0x20 + 4 * e) 2, le p (0x20 + 4 * e + 2) 1))
  let sel := (List.range 256).foldl (fun (t : Tab Nat) r =>
    let v := match named.find? (fun x => x.1 == r) with | some x => x.2 | none => 0
    if v = s.get ANVL.SELECTED r then t else tabPut t r v) []
  { s with anvil := { s.anvil with selected := sel, shares := shares } }

end Sys2Proof.Machine
end

