-- ==== Sys2Proof/Machine/Loupe.lean ====
section
/-!
DEFINITION. Loupe (R310 to R313): the counters of the pipe and shard units, windows, the sampling counters, and the
bandwidth of each port; and the ports and sections of the running image, by which all are indexed.
-/
namespace Sys2Proof.Machine
open Reg

/-! ### The running image's sections and ports (R57, R81) -/

/-- The payload of a section of the running image, as of the full load; empty if it is absent. -/
def State.sect (s : State) (t : Nat) : List Byte := tabGet [] s.img.run t

def secPortMap : Nat := 0x01
def secParse : Nat := 0x02
def secStages : Nat := 0x03
def secProgram : Nat := 0x04
def secEm : Nat := 0x05
def secAse : Nat := 0x06
def secFilAlloc : Nat := 0x07
def secFilTrees : Nat := 0x08
def secActData : Nat := 0x09
def secPools : Nat := 0x0A
def secQueues : Nat := 0x0B
def secTiming : Nat := 0x0C
def secPhases : Nat := 0x0D
def secAnvil : Nat := 0x0E
def secInit : Nat := 0x0F
def secTele : Nat := 0x10
def secHost : Nat := 0x11

/-- `n` bytes of the PORT_MAP descriptor of lane `p`, from byte `k` (R81). -/
def State.desc (s : State) (p k n : Nat) : Nat := le (s.sect secPortMap) (8 + 16 * p + k) n

/-- LANES of the port that starts at lane `p`. -/
def State.lanesOf (s : State) (p : Nat) : Nat := s.desc p 0 1

/-- Lane `p` is the first lane of a configured port (R5). -/
def State.isPort (s : State) (p : Nat) : Bool := decide (p < 1024) && s.lanesOf p != 0

/-- The port that a lane belongs to (R5): it starts at most 7 lanes below. -/
def State.portOfLane (s : State) (lane : Nat) : Option Nat :=
  ((List.range 8).map (fun k => lane - k)).find? (fun p => s.isPort p && decide (lane < p + s.lanesOf p))

/-- The configured ports. -/
def State.portList (s : State) : List Nat := (List.range 1024).filter (fun p => s.isPort p)

/-- MAX_FRAME of an ingress or egress port: 9,728 B for the recirculation and CPU ports (R205, R220). -/
def State.maxFrame (s : State) (p : Nat) : Nat := if p < 1024 then s.desc p 12 2 else 9728

/-- A port's rate in units of 100 Gbit/s (R232). -/
def State.portRate (s : State) (p : Nat) : Nat := if s.desc p 1 1 = 1 then 1 else 2 * s.lanesOf p

/-- Values of LINK_STATE (R90). -/
def linkDisabled : Nat := 0
def linkAn : Nat := 1
def linkTraining : Nat := 2
def linkAlign : Nat := 3
def linkUp : Nat := 4
def linkTest : Nat := 5
def linkSafe : Nat := 6

def State.linkState (s : State) (p : Nat) : Nat := s.get PORT.LINK_STATE p

/-- The port is in UP. -/
def State.portUp (s : State) (p : Nat) : Bool := s.isPort p && s.linkState p == linkUp

/-! ### Counting -/

/-- Whether an event code is one of the unit's kind (R310): units 0–63 are pipes, 64–71 shards. -/
def eventCodeOk (u code : Nat) : Bool :=
  code == 0 || (if u < 64 then decide (code ≤ 0x0F) else decide (0x20 ≤ code) && decide (code ≤ 0x29))

/-- EVENT field `i` of a unit. -/
def evField (i : Nat) : Fld :=
  match i with
  | 0 => TELE.U_EVENT0 | 1 => TELE.U_EVENT1 | 2 => TELE.U_EVENT2 | 3 => TELE.U_EVENT3
  | 4 => TELE.U_EVENT4 | 5 => TELE.U_EVENT5 | 6 => TELE.U_EVENT6 | _ => TELE.U_EVENT7

/-- Programmable counter `i` of unit `u` counts `n` events; passing 2^48 − 1 it wraps and sets WRAP. -/
def State.loupeAdd (s : State) (u i n : Nat) : State :=
  let v := s.get TELE.U_CNT u i + n
  (s.set TELE.U_CNT v u i).when (decide (2 ^ 48 ≤ v)) (fun s => s.setBit TELE.U_WRAP i u)

/-- Sampling counter `k` counts `n` events (R312): each time it passes 2^48 − 1 it reloads with RELOAD, counts on from there,
and sets OVF, or counts LOST where OVF is set. -/
def State.sampleAdd (s : State) (k n : Nat) : State :=
  let v := s.get TELE.S_VALUE k + n
  if v < 2 ^ 48 then s.set TELE.S_VALUE v k
  else
    let reload := s.get TELE.S_RELOAD k
    let lap := 2 ^ 48 - reload
    let passes := 1 + (v - 2 ^ 48) / lap
    let s := s.set TELE.S_VALUE (reload + (v - 2 ^ 48) % lap) k
    if s.flag TELE.S_OVF k then s.add TELE.S_LOST passes k
    else (s.event TELE.S_OVF k (s.flag TELE.S_IE k) sumSampling).add TELE.S_LOST (passes - 1) k

/-- Codes of segment accesses and of Lookup Fabric operations. -/
def evSegWrite : Nat := 0x20
def evSegRead : Nat := 0x21
def evLookup : Nat := 0x23
def evBackground : Nat := 0x24

/-- What the events of a code add to the activity that P_EST is made of (R354). -/
def State.activityAdd (s : State) (code n : Nat) : State :=
  if code = evSegWrite || code = evSegRead then { s with act := { s.act with segs := s.act.segs + n } }
  else if code = evLookup || code = evBackground then { s with act := { s.act with banks := s.act.banks + n } }
  else s

/-- Words of the QDR memories are read or written (R354). -/
def State.qdrOp (s : State) (n : Nat) : State := { s with act := { s.act with qdr := s.act.qdr + n } }

/-- `n` events of a code occur at unit `u` (127 for module events). -/
def State.tally (s : State) (u code : Nat) (n : Nat := 1) : State :=
  let s := s.activityAdd code n
  let s := if s.flag TELE.LP_RUNNING && decide (u < 72) then
      upTo 8 (fun i s => if s.get (evField i) u == code then s.loupeAdd u i n else s) s
    else s
  upTo 8 (fun k s =>
    if s.flag TELE.S_EN k && s.get TELE.S_UNIT k == u && s.get TELE.S_EVENT k == code then s.sampleAdd k n else s) s

/-- Event codes of R310 and R312. -/
def evIngress : Nat := 0x01
def evEgress : Nat := 0x02
def evQuench : Nat := 0x03
def evDroop : Nat := 0x04
def evRecirc : Nat := 0x05
def evSlow : Nat := 0x06
def evMalformed : Nat := 0x07
def evEm : Nat := 0x08
def evAse : Nat := 0x09
def evFil : Nat := 0x0A
def evLoadad : Nat := 0x0B
def evWait : Nat := 0x0C
def evFifo : Nat := 0x0D
def evXoff : Nat := 0x0E
def evActErr : Nat := 0x0F
def evRebuilt : Nat := 0x22
def evFold : Nat := 0x25
def evFlowNew : Nat := 0x26
def evEvict : Nat := 0x27
def evCard : Nat := 0x28
def evFlush : Nat := 0x29
def evLink : Nat := 0x40
def evSelect : Nat := 0x41
def evFault : Nat := 0x42

/-- Loupe unit of the shard section of a Lookup Fabric bank (R134, R158). -/
def bankUnit (b : Nat) : Nat := 64 + b / 128

/-- `n` operations of a bank for packets, and for the engines and Anvil (R49, R310). -/
def State.bankOps (s : State) (b n : Nat) : State := s.tally (bankUnit b) evLookup n
def State.bankWork (s : State) (b n : Nat) : State := s.tally (bankUnit b) evBackground n

/-- Loupe unit of a pipe's shard. -/
def shardUnit (pipe : Nat) : Nat := 64 + pipe / 8

/-- LOUPE_COUNTER_WRAP: programmable counter `i` counts `n` further events of its code, which the model's other steps do not
show, and they carry it past 2^48 − 1. -/
def State.loupeWrap (s : State) (u i n : Nat) : State :=
  if s.flag TELE.LP_RUNNING && s.get (evField i) u != 0 && decide (2 ^ 48 ≤ s.get TELE.U_CNT u i + n) then s.loupeAdd u i n
  else s

def execLoupeCounterWrap (u : Fin 72) (i : Fin 8) (n : BitVec 48) (s : State) : Result :=
  .next (s.loupeWrap u.val i.val n.toNat)

/-- SAMPLING_OVERFLOW: sampling counter `k` counts `n` further events, which carry it past its limit. -/
def State.sampleOverflow (s : State) (k n : Nat) : State :=
  if s.flag TELE.S_EN k && decide (2 ^ 48 ≤ s.get TELE.S_VALUE k + n) then s.sampleAdd k n else s

def execSamplingOverflow (k : Fin 8) (n : BitVec 48) (s : State) : Result := .next (s.sampleOverflow k.val n.toNat)

/-! ### Windows (R311) -/

/-- A start clears every tick and programmable counter and every WRAP bit; while RUNNING it is missed. -/
def State.loupeStart (s : State) : State :=
  if s.flag TELE.LP_RUNNING then s.setB TELE.LP_START_MISSED true
  else
    let s := upTo 72 (fun u s =>
      upTo 8 (fun i s => s.set TELE.U_CNT 0 u i) ((s.set TELE.U_TICKS 0 u).set TELE.U_WRAP 0 u)) s
    State.setB { s with tele := { s.tele with loupeAt := s.frc } } TELE.LP_RUNNING true

def execLoupeStart (s : State) : Result := .next (s.viaHost TELE.LP_START (fun s => s.loupeStart))

/-- The window ends: the counters hold their values, and TICKS the ticks since the start. -/
def State.loupeEnd (s : State) (ticks : Nat) : State :=
  let s := upTo 72 (fun u s => s.set TELE.U_TICKS ticks u) s
  (s.setB TELE.LP_RUNNING false).event TELE.LP_DONE 0 true sumTele

/-- LOUPE_STOP. -/
def State.loupeStop (s : State) : State :=
  if s.flag TELE.LP_RUNNING then s.loupeEnd (s.frc - s.tele.loupeAt) else s

def execLoupeStop (s : State) : Result := .next (s.viaHost TELE.LP_STOP (fun s => s.loupeStop))

/-- LOUPE_WINDOW_END: LOUPE_LEN ticks have elapsed. -/
def State.loupeWindowEnd (s : State) : State :=
  let n := s.get TELE.LOUPE_LEN
  if s.flag TELE.LP_RUNNING && n != 0 && s.elapsed s.tele.loupeAt n then s.loupeEnd n else s

def execLoupeWindowEnd (s : State) : Result := .next s.loupeWindowEnd

/-- The tick counter of a unit as it reads: it counts while the window runs. -/
def State.loupeTicks (s : State) (u : Nat) : Nat :=
  if s.flag TELE.LP_RUNNING then s.frc - s.tele.loupeAt else s.get TELE.U_TICKS u

/-! ### Sampling counters (R312) -/

/-- Writes of CTRL and RELOAD are accepted in MANUFACTURE and SERVICE, and in FIELD when the running image allows them. -/
def State.samplingOpen (s : State) : Bool :=
  s.lcState == lcManufacture || s.lcState == lcService || (s.lcState == lcField && bit (s.get TELE.FLAGS) 1)

/-- The code that a sampling counter stores for a unit. -/
def sampleCode (u code : Nat) : Nat :=
  if u = 127 then (if 0x40 ≤ code && code ≤ 0x42 then code else 0)
  else if u < 72 && eventCodeOk u code then code else 0

/-- A write of a sampling counter's CTRL word: W1C bits apart, refused with PRIV_REJECT where it is not allowed. A counter
counts up from RELOAD. -/
def State.sampleCtrl (s : State) (k v : Nat) : State :=
  if s.samplingOpen then
    let u := bits v 0 7
    let rise := !s.flag TELE.S_EN k && bit v 16
    let s := ((s.set TELE.S_UNIT u k).set TELE.S_EVENT (sampleCode u (bits v 8 8)) k).setB TELE.S_EN (bit v 16) k
    let s := s.setB TELE.S_IE (bit v 17) k
    let s := (s.when (bit v 18) (fun s => s.setB TELE.S_OVF false k)).when (bit v 19) (fun s =>
      s.setB TELE.S_PRIV_REJECT false k)
    s.when rise (fun s => s.set TELE.S_VALUE (s.get TELE.S_RELOAD k) k)
  else s.setB TELE.S_PRIV_REJECT true k

/-- A write of RELOAD. -/
def State.sampleReload (s : State) (k v : Nat) : State :=
  if s.samplingOpen then s.set TELE.S_RELOAD v k else s.setB TELE.S_PRIV_REJECT true k

/-- SAMPLING_CTRL_WRITE: of CTRL (a word), or of RELOAD (its 48 bits). -/
def execSamplingCtrlWrite (k : Fin 8) (reload : Bool) (v : Quad) (s : State) : Result :=
  .next (s.viaHost TELE.S_EN (fun s =>
    if reload then s.sampleReload k.val (v.toNat % 2 ^ 48) else s.sampleCtrl k.val (v.toNat % 2 ^ 32)))

/-! ### Port bandwidth (R313) -/

/-- The MAC of port `p` has received (0) or sent (1) a frame of `n` bytes. What is sent counts in the traffic of R30 too. -/
def State.bwCount (s : State) (p dir n : Nat) : State :=
  { s with
    act := if dir = 1 then { s.act with bytes := s.act.bytes + n } else s.act
    tele := { s.tele with bw := tabPut s.tele.bw (2 * p + dir) (tabGet 0 s.tele.bw (2 * p + dir) + n) } }

/-- One direction of one port at a window end: LAST, PEAK and EWMA. -/
def State.bwUpdate (s : State) (p dir : Nat) (last peak ewma : Fld) : State :=
  let mbit := tabGet 0 s.tele.bw (2 * p + dir) * 8 / s.get TELE.BW_WINDOW
  let e : Int := (tabGet 0 s.tele.ewma (2 * p + dir) : Nat)
  let step : Int := ((mbit * 65536 : Nat) : Int) - e
  let e := (e + step.fdiv (2 ^ s.get TELE.EWMA_SHIFT : Nat)).toNat
  let s := { s with tele := { s.tele with
    bw := tabDel s.tele.bw (2 * p + dir), ewma := tabPut s.tele.ewma (2 * p + dir) e } }
  ((s.set last mbit p).set peak (max mbit (s.get peak p)) p).set ewma (e / 65536) p

/-- BW_WINDOW_END: the window that began at the last multiple of its length ends. -/
def State.bwEnd (s : State) : State :=
  let len := ticksPerUs * s.get TELE.BW_WINDOW
  if (s.tele.bwAt / len + 1) * len ≤ s.frc then
    let s := s.portList.foldl (fun s p =>
      (s.bwUpdate p 0 TELE.RX_LAST TELE.RX_PEAK TELE.RX_EWMA).bwUpdate p 1 TELE.TX_LAST TELE.TX_PEAK TELE.TX_EWMA) s
    { s with tele := { s.tele with bwAt := s.frc / len * len } }
  else s

def execBwWindowEnd (s : State) : Result := .next s.bwEnd

end Sys2Proof.Machine
end

