-- ==== Sys2Proof/Machine/Cards.lean ====
section
/-!
DEFINITION. Postcards and their collectors (R305, R306), and the Hallmark record of an instance (R294, R295): formed at its
departure, or at its discard.
-/
namespace Sys2Proof.Machine
open Reg

/-! ### Postcards (R305, R306) -/

/-- Bytes of a collector's entry in TELEMETRY (R314), from byte `k`. -/
def State.colField (s : State) (c k n : Nat) : Nat := le (s.sect secTele) (0x120 + 160 * c + k) n

def State.colValid (s : State) (c : Nat) : Bool := bit (s.colField c 0 1) 0

/-- DEST of a collector: true for a Bezel ring. -/
def State.colRing (s : State) (c : Nat) : Bool := bit (s.colField c 0 1) 1

def State.colFifo (s : State) (c : Nat) : List (List Byte) := tabGet [] s.tele.cols c

/-- The IPv6 pseudo-header sum of a UDP datagram. -/
def udp6Sum (ip udp : List Byte) : Nat :=
  ocAdd (ocSum (slice ip 8 32)) (ocAdd (udp.length % 65536) (ocAdd 17 (ocSum udp)))

/-- The checksum field for a one's-complement sum. -/
def ocCheck (sum : Nat) : Nat := 65535 - sum

/-- Fix lengths and checksums of the template's headers (R305): `l3`, `l4` are offsets, 0xFF for none. -/
def cardFix (l : List Byte) (l3 l4 : Nat) : List Byte :=
  let v := byteAt l l3 / 16
  let l := if l3 = 0xFF then l
    else if v = 4 then
      let l := overlay l (l3 + 2) (beBytes 2 (l.length - l3))
      let l := overlay l (l3 + 10) [0, 0]
      overlay l (l3 + 10) (beBytes 2 (ocCheck (ocSum (slice l l3 (4 * (byteAt l l3 % 16))))))
    else overlay l (l3 + 4) (beBytes 2 (l.length - l3 - 40))
  if l4 = 0xFF then l
  else
    let l := overlay (overlay l (l4 + 4) (beBytes 2 (l.length - l4))) (l4 + 6) [0, 0]
    if l3 != 0xFF && v == 6 then
      let c := ocCheck (udp6Sum (l.drop l3) (l.drop l4))
      overlay l (l4 + 6) (beBytes 2 (if c = 0 then 0xFFFF else c))
    else l

/-- A postcard of collector `c`: template, payload, FCS. -/
def State.cardBytes (s : State) (c : Nat) (payload : List Byte) : List Byte :=
  let tpl := slice (s.sect secTele) (0x120 + 160 * c + 0x20) (s.colField c 6 1)
  let l := cardFix (tpl ++ payload) (s.colField c 7 1) (s.colField c 8 1)
  l ++ fcsOf l

/-- Room in a collector's FIFO. -/
def State.colRoom (s : State) (c : Nat) : Bool := s.colValid c && decide ((s.colFifo c).length < 1024)

/-- Put a postcard into its collector's FIFO. -/
def State.colPush (s : State) (c : Nat) (card : List Byte) : State :=
  { s with tele := { s.tele with cols := tabPut s.tele.cols c (s.colFifo c ++ [card]) } }

/-- Generate a postcard in a shard; it is lost if the FIFO is full or the collector is not VALID (R306). -/
def State.postcard (s : State) (shard c : Nat) (payload : List Byte) : State :=
  let s := s.tally (64 + shard) evCard
  if s.colRoom c then s.colPush c (s.cardBytes c payload) else s.inc TELE.COL_LOST c

/-! ### The Hallmark record (R294) -/

/-- `n` bytes of telemetry profile `p`, from byte `k` (R296). -/
def State.teleProfile (s : State) (p k n : Nat) : Nat := le (s.sect secTele) (0x20 + 32 * p + k) n

/-- PROFILE of a TELE_CTL value (R295). -/
def telePick (tele : Nat) : Nat := bits tele 4 3

/-- IN_TS of the frame under a handle. -/
def State.inTs (s : State) (h : Nat) : Nat := (tabGet {} s.buf.store h).f.ts

/-- QSEL: class and sub-queue of a front-port queue. -/
def qsel (q : Nat) : Nat := if q < 0x40000 then q % 256 else 0

/-- The record of an instance with egress timestamp `ts`. -/
def State.hmRecord (s : State) (e : Eg) (ts : Nat) (discarded : Bool) : List Byte :=
  let i := e.i
  beBytes 4 (s.get TELE.HOP_ID) ++ beBytes 8 (shortTime (s.inTs i.h)) ++ beBytes 8 (shortTime ts) ++ beBytes 3 i.depth ++
    beBytes 1 e.state ++ beBytes 2 i.inPort ++ beBytes 2 e.port ++ beBytes 1 i.inPipe ++ beBytes 1 e.pipe ++
    beBytes 1 (qsel i.queue) ++ beBytes 1 (i.pass % 8 + 8 * i.copy + 32 * i.colour + 128 * b2n discarded)

/-- A Hallmark request is skipped for a reason (R296, R297). -/
def State.hmSkip (s : State) (port reason : Nat) : State :=
  (((s.inc TELE.HM_SKIPPED).set TELE.HM_REASON reason).set TELE.HM_EG_PORT port).setB TELE.HM_VALID true

/-- Send an instance's postcard to its profile's collector. Where the collector is absent, the request is ignored and counted
(R296), and the postcard is lost (R306). -/
def State.cardSend (s : State) (e : Eg) (rec_ : List Byte) : State :=
  let c := s.teleProfile (telePick e.tele) 7 1 % 16
  if s.colValid c then s.postcard (e.pipe / 8) c (rec_ ++ e.rec_.take 64) else (s.hmSkip e.port 6).inc TELE.COL_LOST c

/-- An instance that has entered egress stage 0 is discarded: a postcard, if DROP_CARD asks for it. -/
def State.dropCard (s : State) (e : Eg) : State :=
  if bit e.tele 7 then s.cardSend e (s.hmRecord e s.now true) else s

/-- The same for several. -/
def State.dropCards (s : State) (l : List Eg) : State := l.foldl (fun s e => s.dropCard e) s

/-- A transmission that has begun is discarded: a postcard, unless the record was formed at the departure (R294). -/
def State.txDrop (s : State) (t : Tx) : State :=
  match t.item with
  | .inst e => s.when t.late (fun s => s.dropCard e)
  | .card _ _ => s

end Sys2Proof.Machine
end

