-- ==== Sys2Proof/Machine/Crucible.lean ====
section
/-!
DEFINITION. Crucible (R213 to R240): requesters and their accounts, XOFF and HELD, the pools and their free lists, handles and
reference counts, and the discards that release what a frame holds.
-/
namespace Sys2Proof.Machine
open Reg

/-! ### Field access -/

def State.putStore (s : State) (h : Nat) (x : Stored) : State :=
  { s with buf := { s.buf with store := tabPut s.buf.store h x } }

def State.getStore (s : State) (h : Nat) : Stored := tabGet {} s.buf.store h

/-- Segments of `n` bytes (R223). -/
def segsOf (n : Nat) : Nat := ceilDiv n 256

def Frame.segs (f : Frame) : Nat := segsOf f.bytes.length

/-- Bytes of a stored frame so far. -/
def State.storedLen (s : State) (h : Nat) : Nat := (s.getStore h).f.bytes.length

/-! ### Requester accounts (R222 to R225) -/

/-- Requester profile of requester `r`. -/
def State.reqProfile (s : State) (r : Nat) : Nat :=
  s.get (if r % 4 = 0 then CRUC.MAP_PROFILE0 else if r % 4 = 1 then CRUC.MAP_PROFILE1
    else if r % 4 = 2 then CRUC.MAP_PROFILE2 else CRUC.MAP_PROFILE3) (r / 4)

/-- SHARED_FREE (R224). -/
def State.sharedFree (s : State) : Nat :=
  s.get CRUC.SHARED_SIZE - s.buf.reqs.foldl (fun n r => n + s.get CRUC.SHR_USED r) 0

/-- 128 × Limit(r), so that α = 2^(ALPHA − 7) stays whole (R224). -/
def State.limit128 (s : State) (free r : Nat) : Nat :=
  let p := s.reqProfile r
  let top := 128 * s.get CRUC.RP_SHR_MAX p
  let a := s.get CRUC.RP_ALPHA p
  if a = 15 then top else min top (free * 2 ^ a)

/-- The ingress list of a requester. -/
def State.inList (s : State) (r : Nat) : List Arr := tabGet [] s.buf.lists r

def State.setList (s : State) (r : Nat) (l : List Arr) : State :=
  { s with buf := { s.buf with lists := if l.isEmpty then tabDel s.buf.lists r else tabPut s.buf.lists r l } }

/-- FIFO_USED: segments of `r` in the ingress FIFO. -/
def State.fifoUsed (s : State) (r : Nat) : Nat :=
  (s.inList r).foldl (fun n a => match a with | .fifo f => n + f.segs | .parked _ => n) 0

/-- A frame of `r` stored under R21 is still unparsed. -/
def State.parkedWaits (s : State) (r : Nat) : Bool :=
  (s.inList r).any (fun a => match a with | .fifo _ => false | .parked _ => true)

/-- A set condition of XOFF (R225). -/
def State.xoffSet (s : State) (free r : Nat) : Bool :=
  let p := s.reqProfile r
  decide (s.limit128 free r ≤ 128 * s.get CRUC.SHR_USED r) ||
    decide (s.get CRUC.RP_FIFO_XOFF p ≤ s.fifoUsed r) || s.parkedWaits r

/-- All clear conditions of XOFF (R225). -/
def State.xoffClear (s : State) (free r : Nat) : Bool :=
  let p := s.reqProfile r
  decide (128 * (s.get CRUC.SHR_USED r + s.get CRUC.RP_XON_DELTA p) ≤ s.limit128 free r) &&
    decide (s.fifoUsed r ≤ s.get CRUC.RP_FIFO_XON p) && !s.parkedWaits r

/-- A priority of a port is asserted (R95). -/
def State.asserted (s : State) (port prio : Nat) : Bool := s.flag CRUC.XOFF (8 * port + prio)

/-- Priorities of a port that are asserted (FC_STATUS TX_ASSERTED). -/
def State.assertedMask (s : State) (port : Nat) : Nat :=
  (List.range 8).foldl (fun m p => if s.asserted port p then m + 2 ^ p else m) 0

/-- A crossing of the admission or release threshold of a front port's requester: whether a pause frame falls due (R95). -/
def State.pauseWanted (s : State) (port prio : Nat) (others : Nat) : Bool :=
  match s.get PORT.FC_MODE port with
  | 1 => s.bitOf PORT.PFC_TX_EN prio port
  | 2 => others == 0
  | _ => false

/-- Port `p` owes a pause frame. -/
def State.pauseOwe (s : State) (p : Nat) : State :=
  if s.buf.pauseDue.contains p then s else { s with buf := { s.buf with pauseDue := s.buf.pauseDue ++ [p] } }

/-- XOFF of `r` changes. -/
def State.xoffPut (s : State) (r : Nat) (v : Bool) : State :=
  let port := r / 8
  let prio := r % 8
  let others := bitClear (s.assertedMask port) prio
  let s := s.setB CRUC.XOFF v r
  let s := s.when (v && decide (port < 1088)) (fun s => s.tally (if port < 1024 then pipeOf port else port - 1024) evXoff)
  let s : State := { s with buf := { s.buf with pauseAt := tabPut s.buf.pauseAt r s.frc } }
  if port < 1024 && s.pauseWanted port prio others then s.pauseOwe port else s

/-- The account condition of HELD (R225). -/
def State.heldSet (s : State) (free r : Nat) : Bool :=
  decide (s.get CRUC.RP_MIN (s.reqProfile r) ≤ s.get CRUC.MIN_USED r) && decide (s.limit128 free r ≤ 128 * s.get CRUC.SHR_USED r)

/-- Note whether the account condition of HELD holds. -/
def State.heldPut (s : State) (r : Nat) (v : Bool) : State := if s.flag CRUC.HELD r = v then s else s.setB CRUC.HELD v r

/-- Evaluate Limit, HELD's account condition and XOFF of every configured port's requesters, as at every charge and every
release (R224, R225). -/
def State.xoffEval (s : State) : State :=
  let free := s.sharedFree
  s.buf.reqs.foldl (fun s r =>
    let s := s.heldPut r (s.heldSet free r)
    if s.xoffSet free r then (if s.flag CRUC.XOFF r then s else s.xoffPut r true)
    else if s.flag CRUC.XOFF r && s.xoffClear free r then s.xoffPut r false else s) s

/-- References that a hold list element stands for. -/
def Hold.insts : Hold → List Inst
  | .inst i => [i]
  | .repl x => x.left.map (fun _ => x.i)

/-- The instance whose pipe and requester a hold list element has. -/
def Hold.head : Hold → Inst
  | .inst i => i
  | .repl x => x.i

def State.holdList (s : State) (r : Nat) : List Hold := tabGet [] s.que.holds r

/-- Instances in the hold store of a pipe (R228). -/
def State.holdCount (s : State) (pipe : Nat) : Nat :=
  s.que.holds.foldl (fun n l => l.2.foldl (fun n x => if x.head.inPipe = pipe then n + 1 else n) n) 0

def State.holdFull (s : State) (pipe : Nat) : Bool := decide (512 ≤ s.holdCount pipe)

/-- HELD (R225), for a requester whose frames `pipe` parses: its account condition as last evaluated, the others as they
stand. -/
def State.heldIn (s : State) (r pipe : Nat) : Bool :=
  s.flag CRUC.HELD r || !(s.holdList r).isEmpty || (tabFind s.buf.refused r).isSome || s.holdFull pipe

/-- The pipe that parses a requester's frames: its port's; a CPU requester has none of its own. -/
def reqPipe (r : Nat) : Nat := if r / 8 < 1024 then pipeOf (r / 8) else r / 8 - 1024

/-- HELD as CRUC shows it. -/
def State.held (s : State) (r : Nat) : Bool := s.heldIn r (reqPipe r)

/-- What the charge of one segment answers (R223, R227). -/
inductive Charge where
  | min | shr | hdrm | breach
  deriving DecidableEq, Repr

/-- The account that the next segment of `r` is charged to. -/
def State.chargeFor (s : State) (r : Nat) (parked : Bool) : Charge :=
  let p := s.reqProfile r
  if r / 8 < 1024 && (s.flag CRUC.XOFF r || parked) then
    if s.get CRUC.RP_HDRM p ≤ s.get CRUC.HDRM_USED r then .breach else .hdrm
  else if s.get CRUC.MIN_USED r < s.get CRUC.RP_MIN p then .min else .shr

/-- Charge one segment of `f`: the frame with its new charge, or none on a headroom breach. -/
def State.chargeSeg (s : State) (f : Frame) (parked : Bool) : Option (Frame × State) :=
  let r := f.req
  let first := f.cMin + f.cShr + f.cHdrm == 0
  match s.chargeFor r parked with
  | .breach => none
  | .hdrm => some ({ f with cHdrm := f.cHdrm + 1, hr := f.hr || first },
      (s.set CRUC.HDRM_USED (s.get CRUC.HDRM_USED r + 1) r).xoffEval)
  | .min => some ({ f with cMin := f.cMin + 1 }, (s.set CRUC.MIN_USED (s.get CRUC.MIN_USED r + 1) r).xoffEval)
  | .shr => some ({ f with cShr := f.cShr + 1 }, (s.set CRUC.SHR_USED (s.get CRUC.SHR_USED r + 1) r).xoffEval)

/-- Charge `n` segments. -/
def State.chargeSegs (s : State) (f : Frame) (parked : Bool) : Nat → Option (Frame × State)
  | 0 => some (f, s)
  | n + 1 =>
    match s.chargeSeg f parked with
    | some (f, s) => State.chargeSegs s f parked n
    | none => none

/-- Return exactly the charges recorded with a frame (R223). -/
def State.uncharge (s : State) (f : Frame) : State :=
  let r := f.req
  (((s.set CRUC.MIN_USED (s.get CRUC.MIN_USED r - f.cMin) r).set CRUC.SHR_USED (s.get CRUC.SHR_USED r - f.cShr) r).set
    CRUC.HDRM_USED (s.get CRUC.HDRM_USED r - f.cHdrm) r).xoffEval

/-! ### Pools and ingots (R215 to R221) -/

/-- Segments of an ingot of pool `n`. -/
def poolSize (n : Nat) : Nat := if n = 0 then 1 else if n = 1 then 6 else if n = 2 then 18 else 38

/-- BASE of pool `n` (R216). -/
def State.poolBase (s : State) (n : Nat) : Nat := 4096 * s.get CRUC.BASE_UNIT n

/-- The handle of ingot `k` of pool `n` (R217). -/
def State.handleOf (s : State) (n k : Nat) : Nat := n * 2 ^ 21 + s.poolBase n + poolSize n * k

/-- Pool code and slot of a handle. -/
def handlePool (h : Nat) : Nat := bits h 21 2
def handleSlot (h : Nat) : Nat := bits h 0 21

def State.pool (s : State) (n : Nat) : Pool := tabGet {} s.buf.pools n

def State.setPool (s : State) (n : Nat) (p : Pool) : State := { s with buf := { s.buf with pools := tabPut s.buf.pools n p } }

/-- Ingots of pool `n` in quarantine. -/
def State.quarCount (s : State) (n : Nat) : Nat := (s.buf.quar.filter (fun h => handlePool h == n)).length

/-- The ingot index of a handle in its pool. -/
def State.ingotIndex (s : State) (h : Nat) : Nat := (handleSlot h - s.poolBase (handlePool h)) / poolSize (handlePool h)

/-- Ingots in the free list of pool `n`: a quarantined ingot has left it (R231). -/
def State.poolFreeCount (s : State) (n : Nat) : Nat :=
  let p := s.pool n
  let gone := (s.buf.quar.filter (fun h => handlePool h == n && decide (p.fresh ≤ s.ingotIndex h))).length
  s.get CRUC.INGOTS n - p.fresh - gone + p.back.length

/-- The first ingot from `k` on that is not in quarantine. -/
def State.freshFrom (s : State) (n k : Nat) : Nat → Nat
  | 0 => k
  | fuel + 1 => if s.buf.quar.contains (s.handleOf n k) then State.freshFrom s n (k + 1) fuel else k

/-- Take the head of the free list of pool `n` (R218). -/
def State.takeIngot (s : State) (n : Nat) : Option (Nat × State) :=
  let p := s.pool n
  let k := s.freshFrom n p.fresh s.buf.quar.length
  if k < s.get CRUC.INGOTS n then
    some (s.handleOf n k, s.setPool n { p with fresh := k + 1 })
  else match p.back with
    | [] => none
    | h :: rest => some (h, s.setPool n { fresh := k, back := rest })

/-- Take `m` S ingots. -/
def State.takeS (s : State) : Nat → List Nat × State
  | 0 => ([], s)
  | m + 1 =>
    match s.takeIngot 0 with
    | some (h, s) => let (l, s) := State.takeS s m; (h :: l, s)
    | none => ([], s)

/-- Return an ingot to the tail of its list, or to quarantine (R218, R231); refusals that waited for its pool end (R226). -/
def State.giveIngot (s : State) (h : Nat) : State :=
  let n := handlePool h
  if s.buf.quarNext.contains h then
    { s with buf := { s.buf with quarNext := s.buf.quarNext.filter (fun x => x != h), quar := s.buf.quar ++ [h] } }
  else
    let s := s.setPool n { s.pool n with back := (s.pool n).back ++ [h] }
    { s with buf := { s.buf with refused := s.buf.refused.filter (fun x => decide (n < x.2)) } }

/-- HR_IN_USE: what the free ingots of S fall short of the reserve. -/
def State.hrInUse (s : State) : Nat := s.get CRUC.HR_RESERVE - s.poolFreeCount 0

/-- Pool `n` can supply an ingot to a frame that is, or is not, charged to headroom (R218). -/
def State.canSupply (s : State) (n : Nat) (hr : Bool) : Bool :=
  if n = 0 && !hr then decide (s.get CRUC.HR_RESERVE < s.poolFreeCount 0) else decide (0 < s.poolFreeCount n)

/-- The fitting pool of a declared length: J for what exceeds L (R219). -/
def fitPool (len : Nat) : Nat := if len ≤ 256 then 0 else if len ≤ 1536 then 1 else if len ≤ 4608 then 2 else 3

/-- Allocate by declared length: the handle, its segments and the new state, or none on a physical refusal (R219). -/
def State.allocDecl (s : State) (len : Nat) (hr : Bool) : Option (Nat × Nat × State) :=
  let fit := fitPool len
  match ((List.range 4).filter (fun n => decide (fit ≤ n))).find? (fun n => s.canSupply n hr) with
  | some n =>
    match s.takeIngot n with
    | some (h, s) => some (h, poolSize n, (s.inc CRUC.ALLOC n).when (n != fit) (fun s => s.inc CRUC.FALLBACK n))
    | none => none
  | none => none

/-- Set aside the S ingots of a chained frame: none on a physical refusal (R220). The first segment takes the first of them;
an ingot counts as allocated when a segment takes it. -/
def State.allocChain (s : State) (maxFrame : Nat) (hr : Bool) : Option (List Nat × State) :=
  let k := ceilDiv maxFrame 256
  let need := if hr then k else k + s.get CRUC.HR_RESERVE
  if need ≤ s.poolFreeCount 0 then
    let (l, s) := s.takeS k
    some (l, (s.inc CRUC.ALLOC 0).inc CRUC.CHAIN_FRAMES)
  else none

/-- A physical refusal keeps the requester HELD (R226). -/
def State.refuse (s : State) (r fit : Nat) : State :=
  State.inc { s with buf := { s.buf with refused := tabPut s.buf.refused r fit } } CRUC.EXHAUSTED fit

/-! ### Handles (R217, R230, R231) -/

/-- Whether a slot lies within the ingots of pool `n`. -/
def State.slotIn (s : State) (n slot : Nat) : Bool :=
  decide (s.poolBase n ≤ slot) && decide (slot < s.poolBase n + poolSize n * s.get CRUC.INGOTS n)

/-- The check of a handle: 0 good, 1 range, 2 alignment, 3 not in use. -/
def State.handleCheck (s : State) (h : Nat) : Nat :=
  let n := handlePool h
  let slot := handleSlot h
  if !s.slotIn n slot then 1
  else if (slot - s.poolBase n) % poolSize n != 0 then 2
  else if (tabFind s.buf.store h).isNone then 3 else 0

/-- The ingot is in use: a frame's first ingot, or in its chain, or set aside (R231). -/
def State.ingotInUse (s : State) (h : Nat) : Bool :=
  s.buf.store.any (fun x => x.1 == h || x.2.chain.contains h || x.2.aside.contains h)

/-- Quarantine the ingot that contains a slot, if one does. -/
def State.quarantine (s : State) (slot : Nat) : State :=
  match (List.range 4).find? (fun n => s.slotIn n slot) with
  | none => s
  | some n =>
    let h := s.handleOf n ((slot - s.poolBase n) / poolSize n)
    if s.buf.quar.contains h || s.buf.quarNext.contains h then s
    else if s.ingotInUse h then { s with buf := { s.buf with quarNext := s.buf.quarNext ++ [h] } }
    else
      let p := s.pool n
      let s := s.setPool n { p with back := p.back.filter (fun x => x != h) }
      { s with buf := { s.buf with quar := s.buf.quar ++ [h] } }

/-- A handle has failed check `c` (R231): counted, recorded, reported, quarantined. -/
def State.handleErr (s : State) (h c : Nat) : State :=
  let s := (((s.inc CRUC.HANDLE_ERR).set CRUC.QL_SLOT (handleSlot h)).set CRUC.QL_POOL (handlePool h)).set CRUC.QL_CHECK c
  ((s.setB CRUC.QL_VALID true).fault srcHandle).quarantine (handleSlot h)

/-- A frame leaves its ingots, which return to the tails of their lists. -/
def State.vacate (s : State) (h : Nat) : State :=
  let x := s.getStore h
  let s := { s with buf := { s.buf with store := tabDel s.buf.store h } }
  (h :: x.chain ++ x.aside).foldl (fun s g => s.giveIngot g) s

/-- Release a frame: its handle is checked (R231), its ingots and its charges are returned. -/
def State.release (s : State) (h : Nat) : State :=
  let c := s.handleCheck h
  if c != 0 then s.handleErr h c else (s.vacate h).uncharge (s.getStore h).f

/-- An instance of an epoch leaves or is discarded (R71). -/
def State.inflightDec (s : State) (e : Nat) : State := s.set IMG.INFLIGHT (s.get IMG.INFLIGHT e - 1) e

/-- A packet is first parsed, or a copy is made. -/
def State.inflightInc (s : State) (e : Nat) : State := s.set IMG.INFLIGHT (s.get IMG.INFLIGHT e + 1) e

/-- The reference count of a frame decrements once; at zero the frame is released (R230, R231). -/
def State.decRef (s : State) (h : Nat) : State :=
  let c := s.handleCheck h
  if c != 0 then s.handleErr h c
  else
    let x := s.getStore h
    if x.refs = 0 then s.handleErr h 4
    else if x.refs = 1 then s.release h
    else s.putStore h { x with refs := x.refs - 1 }

/-- An instance ends: it leaves the module or is discarded. -/
def State.instEnd (s : State) (i : Inst) : State := (s.inflightDec i.epoch).decRef i.h

/-! ### Removing instances -/

/-- The instances of a container that satisfy `p`. -/
def holdRemoved (p : Inst → Bool) (l : List Hold) : List Inst := (l.filter (fun x => p x.head)).flatMap (fun x => x.insts)

def Item.inst? : Item → Option Inst
  | .inst e => some e.i
  | .card _ _ => none

/-- The instance in the egress stages that an item behind them is. -/
def Item.eg? : Item → Option Eg
  | .inst e => some e
  | .card _ _ => none

def Item.hits (p : Inst → Bool) (x : Item) : Bool := match x.inst? with | some i => p i | none => false

/-- Drop empty lists of a table. -/
def tabTidy {α : Type} (t : Tab (List α)) : Tab (List α) := t.filter (fun x => !x.2.isEmpty)

/-- Filter every list of a table. -/
def tabFilter {α : Type} (p : α → Bool) (t : Tab (List α)) : Tab (List α) := tabTidy (t.map (fun x => (x.1, x.2.filter p)))

/-- Remove every instance that satisfies `p` and is not in transmission: queues, hold lists, residue, egress stages, egress
FIFOs, recirculation. -/
def State.pullInsts (s : State) (p : Inst → Bool) : List Inst × State :=
  let q := s.que
  let s := s.dropCards (s.pipe.eg.flatMap (fun x => x.2.filter (fun e => p e.i)) ++
    q.txq.flatMap (fun x => (x.2.filter (fun t => t.hits p)).filterMap (fun t => t.eg?)))
  let got := q.queues.flatMap (fun x => x.2.filter p) ++ q.holds.flatMap (fun x => holdRemoved p x.2) ++
    q.residue.flatMap (fun x => x.2.filter p) ++ s.pipe.eg.flatMap (fun x => (x.2.filter (fun e => p e.i)).map (fun e => e.i)) ++
    q.txq.flatMap (fun x => (x.2.filter (fun t => t.hits p)).filterMap (fun t => t.inst?)) ++
    (s.buf.recirc.filter (fun x => p x.2.e.i)).map (fun x => x.2.e.i)
  let q := { q with queues := tabFilter (fun i => !p i) q.queues, holds := tabFilter (fun x => !p x.head) q.holds,
                    residue := tabFilter (fun i => !p i) q.residue, txq := tabFilter (fun t => !t.hits p) q.txq }
  (got, { s with que := q, pipe := { s.pipe with eg := tabFilter (fun e => !p e.i) s.pipe.eg },
                 buf := { s.buf with recirc := s.buf.recirc.filter (fun x => !p x.2.e.i) } })

/-- The bytes of a transmission so far, with the rest of the frame as stored. -/
def State.txSoFar (s : State) (t : Tx) : List Byte :=
  match t.item with
  | .inst e => t.head ++ (s.getStore e.i.h).f.bytes.drop t.taken
  | .card _ b => b

/-- The frame that port `p` sends ends with an inverted FCS (R205): it counts as sent (R313), and its instance as discarded
(R295). -/
def State.txStomp (s : State) (p : Nat) (t : Tx) : State :=
  let b := s.txSoFar t
  (((s.emit (.frame p b true)).bwCount p 1 b.length).txDrop t)

/-- Transmissions of instances that satisfy `p` end with an inverted FCS; the instances they carried. -/
def State.stompTx (s : State) (p : Inst → Bool) : List Inst × State :=
  let hit := s.que.tx.filter (fun x => x.2.item.hits p)
  let s := hit.foldl (fun s x => s.txStomp x.1 x.2) s
  (hit.filterMap (fun x => x.2.item.inst?), { s with que := { s.que with tx := s.que.tx.filter (fun x => !x.2.item.hits p) } })

/-- Packets in the ingress stages that satisfy `p` are removed. -/
def State.pullPkts (s : State) (p : Pkt → Bool) : List Pkt × State :=
  (s.pipe.ing.flatMap (fun x => x.2.filter p),
    { s with pipe := { s.pipe with ing := tabFilter (fun k => !p k) s.pipe.ing } })

/-- Every packet and instance of a stored frame ends, and the frame is released (R221, R227, R233): instances in transmission
with an inverted FCS. A frame still in its list is only released. -/
def State.purge (s : State) (h : Nat) : State :=
  let x := s.getStore h
  let (ps, s) := s.pullPkts (fun k => k.h == h)
  let (is, s) := s.pullInsts (fun i => i.h == h)
  let (ts, s) := s.stompTx (fun i => i.h == h)
  let s := iterate (fun s => s.inflightDec x.epoch) (ps.length + is.length + ts.length) s
  let s := s.add CRUC.CT_STOMPED ts.length
  let s := { s with buf := { s.buf with cpuIn := tabFilter (fun g => g.h != h) s.buf.cpuIn } }
  s.release h

/-- Discard every packet and instance that satisfies the predicates, wherever it is; the number discarded (R74, R398, R433).
Transmissions end with an inverted FCS. -/
def State.discardWhere (s : State) (pk : Pkt → Bool) (p : Inst → Bool) : Nat × State :=
  let (ps, s) := s.pullPkts pk
  let (is, s) := s.pullInsts p
  let (ts, s) := s.stompTx p
  let s := ps.foldl (fun s k => (s.inflightDec (s.getStore k.h).epoch).release k.h) s
  let s := (is ++ ts).foldl (fun s i => s.instEnd i) s
  (ps.length + is.length + ts.length, s)

/-- Frames waiting in ingress lists, being received, or waiting for the CPU source of a parser. -/
def State.waitingFrames (s : State) : Nat :=
  s.buf.lists.foldl (fun n x => n + x.2.length) 0 + s.buf.cpuIn.foldl (fun n x => n + x.2.length) 0

/-- Discard everything that the module holds; the number of packets discarded. -/
def State.discardPackets (s : State) : Nat × State :=
  let n := s.waitingFrames
  let (m, s) := s.discardWhere (fun _ => true) (fun _ => true)
  let lists := s.buf.lists
  let s := { s with buf := { s.buf with
    lists := [], rx := s.buf.rx.map (fun (x : Nat × Rx) => (x.1, { x.2 with at_ := RxAt.dead })) } }
  let s := lists.foldl (fun s x => x.2.foldl (fun s a =>
    match a with
    | .fifo f => s.uncharge f
    | .parked h => s.release h) s) s
  let cpu : Tab (List CpuFrame) := s.buf.cpuIn
  let s := cpu.foldl (fun s x => x.2.foldl (fun s g => s.release g.h) s) { s with buf := { s.buf with cpuIn := [] } }
  (n + m, s)

end Sys2Proof.Machine
end

