-- ==== Sys2Proof/Machine/Telemetry.lean ====
section
/-!
DEFINITION. Counters on their way to the counter store (R193, R307 to R309), the flow cache and the flow store (R301 to
R304).
-/
namespace Sys2Proof.Machine
open Reg

/-! ### Delta caches and the counter store (R307 to R309) -/

def State.deltaList (s : State) (shard : Nat) : List Delta := tabGet [] s.tele.deltas shard

def State.setDeltas (s : State) (shard : Nat) (l : List Delta) : State :=
  { s with tele := { s.tele with deltas := if l.isEmpty then tabDel s.tele.deltas shard else tabPut s.tele.deltas shard l } }

/-- What the error check finds in a word that is read: the given finding, or inverted bits that were injected (R405). -/
def State.eccOf (s : State) (a n : Nat) (e : EccState) : EccState :=
  match s.injAt a n, e with
  | 0, e => e
  | 1, .clean => .corrected
  | 1, e => e
  | _, _ => .uncorrectable

/-- A source's event at an address: marked INJECTED if the address holds injected bits (R405). -/
def State.faultAt (s : State) (src a n index : Nat) : State :=
  if s.injAt a n = 0 then s.fault src index else s.faultInjected src index 0

/-- The atomic read-add-write of a pair, of two QDR words (R307); a pair with an uncorrectable error takes the delta as its value (R309). -/
def State.pairAdd (s : State) (d : Delta) (e : EccState) : State :=
  let a := counterBase + 16 * d.index
  if s.eccOf a 16 e = .uncorrectable then
    let s := ((s.inc TELE.CNT_ECC).faultAt srcCounterEcc a 16 0).qdrOp 4
    (s.memSet a 8 d.packets).memSet (a + 8) 8 d.bytes
  else ((s.qdrOp 4).memSet a 8 (s.mem a 8 + d.packets)).memSet (a + 8) 8 (s.mem (a + 8) 8 + d.bytes)

/-- Flush the entry of an index in a shard's delta cache, if it is there. -/
def State.deltaFlush (s : State) (shard index : Nat) (e : EccState) : State :=
  match (s.deltaList shard).find? (fun d => d.index == index) with
  | some d =>
    let s := s.setDeltas shard ((s.deltaList shard).filter (fun d => d.index != index))
    (s.pairAdd d e).tally (64 + shard) evFlush
  | none => s

/-- Count one packet of `len` bytes at an index (R193, R307). The list is in order of use, the least recent first. -/
def State.deltaPost (s : State) (shard index len : Nat) : State :=
  let full := fun (d : Delta) => decide (2 ^ 16 ≤ d.packets + 1) || decide (2 ^ 24 ≤ d.bytes + len)
  let s := match (s.deltaList shard).find? (fun d => d.index == index) with
    | some d => s.when (full d) (fun s => s.deltaFlush shard index .clean)
    | none =>
      match s.deltaList shard with
      | d :: _ => s.when (decide (16384 ≤ (s.deltaList shard).length)) (fun s => s.deltaFlush shard d.index .clean)
      | [] => s
  let l := s.deltaList shard
  let old := (l.find? (fun d => d.index == index)).getD { index := index, packets := 0, bytes := 0 }
  s.setDeltas shard (l.filter (fun d => d.index != index) ++
    [{ index := index, packets := old.packets + 1, bytes := old.bytes + len }])

/-- A count for the frame `h`, made in pipe `pipe`: posted once the frame has been fully received (R193). -/
def State.count (s : State) (pipe h index : Nat) : State :=
  if 8388607 < index then s.inc MAP.COUNT_RANGE pipe
  else
    let x := s.getStore h
    if x.f.done then s.deltaPost (pipe / 8) index x.f.bytes.length
    else s.putStore h { x with counts := x.counts ++ [(pipe / 8, index)] }

/-- COUNTER_FLUSH: every delta present at the write is to be flushed (R308). -/
def State.counterFlush (s : State) : State :=
  let all := s.tele.deltas.flatMap (fun x => x.2.map (fun d => (x.1, d.index)))
  State.setB { s with tele := { s.tele with flushing := all } } TELE.FL_BUSY true

def execCounterFlush (s : State) : Result := .next (s.viaHost TELE.FLUSH (fun s => s.counterFlush))

/-- COUNTER_FLUSH_DONE: all of them are in QDR and DONE sets. -/
def State.counterFlushDone (s : State) : State :=
  if s.flag TELE.FL_BUSY then
    let s := s.tele.flushing.foldl (fun s x => s.deltaFlush x.1 x.2 .clean) s
    let s := { s with tele := { s.tele with flushing := [] } }
    (s.setB TELE.FL_BUSY false).event TELE.FL_DONE 0 true sumTele
  else s

def execCounterFlushDone (s : State) : Result := .next s.counterFlushDone

/-- The flush interval of R307 in microseconds; none at OP0. -/
def State.flushLimit (s : State) : Option Nat :=
  let op := s.get CORE.CUR_OP
  if op = 0 then none
  else if op < 4 then some (max (s.get TELE.FLUSH_PERIOD) 1000) else some (s.get TELE.FLUSH_PERIOD)

/-- A flush pass has ended: its duration is shown, and an overrun is a coverage miss (R380). -/
def State.flushPass (s : State) : State :=
  let (t, s) := s.passEnd actFlush
  let s := s.set ANVL.FLUSH_PASS_US (satTo 65535 (t / ticksPerUs))
  match s.flushLimit with
  | some us => s.when (decide (us * ticksPerUs < t)) (fun s => s.coverMiss actFlush)
  | none => s

/-- COUNTER_FLUSH_STEP: a line of eight entries of each shard is flushed, 2,048 lines in a pass: the entries least recently
used. `shard`, `e`: what the error check finds in the pairs of one shard. -/
def State.flushStep (s : State) (shard : Nat) (e : EccState) : State :=
  let c := tabGet 0 s.anvil.cursor actFlush
  let s := upTo 8 (fun k s =>
    ((s.deltaList k).take 8).foldl (fun s d => s.deltaFlush k d.index (if k = shard then e else .clean)) s) s
  if c + 1 < 2048 then { s with anvil := { s.anvil with cursor := tabPut s.anvil.cursor actFlush (c + 1) } }
  else s.flushPass

def execCounterFlushStep (f : Fetch) (shard : Fin 8) (e : EccState) (s : State) : Result :=
  .next (s.anvilStep actFlush f (fun s => s.flushStep shard.val e))

/-! ### Flow cache and flow store (R301 to R304) -/

/-- FRC bits [41:10]. -/
def State.frcShort (s : State) : Nat := bits s.frc 10 32

/-- A flow-cache entry in the 32 B format of R301, with its eviction reason. -/
def Flow.bytes32 (f : Flow) (reason : Nat) : List Byte :=
  leBytes 8 f.id ++ leBytes 4 f.packets ++ leBytes 6 f.bytes ++ leBytes 4 f.first ++ leBytes 4 f.last ++
    leBytes 3 f.depth ++ leBytes 1 (f.flags % 32 + 32 * reason) ++ leBytes 2 f.res

/-- Records waiting in the flow store of a shard (R303). -/
def State.fsWaiting (s : State) (shard : Nat) : Nat :=
  (s.get TELE.FS_WR_PTR shard + 2 ^ 20 - s.get TELE.FS_RD_PTR shard) % 2 ^ 20

/-- Address of a flow-store record. -/
def flowAddr (shard i : Nat) : Nat := flowBase + 32 * (524288 * shard + i % 524288)

/-- Note when a record that Anvil is to export was written. -/
def State.fsStamp (s : State) (shard : Nat) : State :=
  if bit (s.get TELE.FLAGS) 2 then
    { s with tele := { s.tele with fsAt := tabPut s.tele.fsAt shard (tabGet [] s.tele.fsAt shard ++ [s.frc]) } }
  else s

/-- `k` records have left the front of a flow store. -/
def State.fsPop (s : State) (shard k : Nat) : State :=
  let s := s.set TELE.FS_RD_PTR (s.get TELE.FS_RD_PTR shard + k) shard
  { s with tele := { s.tele with fsAt := tabPut s.tele.fsAt shard ((tabGet [] s.tele.fsAt shard).drop k) } }

/-- A record is written at WR_PTR; on a full store FS_OVERWRITE decides, and FS_LOST counts (R303). -/
def State.fsWrite (s : State) (shard : Nat) (rec_ : List Byte) : State :=
  let full := s.fsWaiting shard == 524288
  if full && !bit (s.get TELE.FLAGS) 3 then s.inc TELE.FS_FS_LOST shard
  else
    let s := if full then (s.inc TELE.FS_FS_LOST shard).fsPop shard 1 else s
    let wr := s.get TELE.FS_WR_PTR shard
    (((s.qdrOp 4).memStore (flowAddr shard wr) rec_).set TELE.FS_WR_PTR (wr + 1) shard).fsStamp shard

/-- Evict a flow-cache entry: copied to the flow store and gone from its way (R302). -/
def State.flowEvict (s : State) (key reason : Nat) : State :=
  match tabFind s.tele.flows key with
  | some f =>
    let shard := key / 65536
    let s := { s with tele := { s.tele with flows := tabDel s.tele.flows key } }
    ((s.fsWrite shard (f.bytes32 reason)).inc TELE.FC_EVICTED).tally (64 + shard) evEvict
  | none => s

/-- What a fold adds (R294, R301): identifier, frame length, QDEPTH, OP, Quench, droop, and EG_TS − IN_TS in 16 ns units. -/
structure Fold where
  id : Nat
  len : Nat
  depth : Nat
  op : Nat
  quench : Bool
  droop : Bool
  res : Nat

/-- A flow entry after one record. -/
def Flow.add (f : Flow) (x : Fold) (now : Nat) : Flow :=
  { f with
    packets := f.packets + 1, bytes := f.bytes + x.len, last := now, depth := max f.depth x.depth,
    flags := min (f.flags % 8) x.op + 8 * b2n (bit f.flags 3 || x.quench) + 16 * b2n (bit f.flags 4 || x.droop),
    res := max f.res (satTo 0xFFFF x.res) }

/-- A new flow entry with one record. -/
def Flow.start (x : Fold) (now : Nat) : Flow :=
  Flow.add { id := x.id, first := now, flags := 7 } x now

def State.putFlow (s : State) (key : Nat) (f : Flow) : State :=
  { s with tele := { s.tele with flows := tabPut s.tele.flows key f } }

/-- The way of a full set to evict: the oldest LAST_SEEN, the lowest way on a tie. -/
def State.oldestWay (s : State) (set : Nat) : Nat :=
  let age := fun w => (s.frcShort + 2 ^ 32 - (tabGet (Flow.start ⟨0, 0, 0, 0, false, false, 0⟩ 0) s.tele.flows (4 * set + w)).last) % 2 ^ 32
  (List.range 4).foldl (fun best w => if age best < age w then w else best) 0

/-- Fold a record into its set (R302). -/
def State.flowFold (s : State) (shard : Nat) (x : Fold) : State :=
  let seed := le (s.sect secTele) 0x0C 4
  let set := 16384 * shard + crcWith polyCrc32c seed (leBytes 8 x.id) % 16384
  let now := s.frcShort
  match (List.range 4).find? (fun w => match tabFind s.tele.flows (4 * set + w) with | some f => f.id == x.id | none => false) with
  | some w =>
    let f := tabGet (Flow.start x now) s.tele.flows (4 * set + w)
    if 2 ^ 32 ≤ f.packets + 1 || 2 ^ 48 ≤ f.bytes + x.len then
      ((s.flowEvict (4 * set + w) 3).putFlow (4 * set + w) (Flow.start x now)).tally (64 + shard) evFlowNew
    else (s.putFlow (4 * set + w) (f.add x now)).tally (64 + shard) evFold
  | none =>
    match (List.range 4).find? (fun w => (tabFind s.tele.flows (4 * set + w)).isNone) with
    | some w => (s.putFlow (4 * set + w) (Flow.start x now)).tally (64 + shard) evFlowNew
    | none =>
      let w := s.oldestWay set
      ((s.flowEvict (4 * set + w) 2).putFlow (4 * set + w) (Flow.start x now)).tally (64 + shard) evFlowNew

/-- Whether an entry is FC_ACTIVE or FC_IDLE old: the reason of its eviction. -/
def State.flowDue (s : State) (f : Flow) : Option Nat :=
  let age := fun t => (s.frcShort + 2 ^ 32 - t) % 2 ^ 32 * 1024
  if s.get TELE.FC_IDLE * ticksPerMs ≤ age f.last then some 0
  else if s.get TELE.FC_ACTIVE * ticksPerMs ≤ age f.first then some 1 else none

/-- An entry with an uncorrectable error is invalidated (R302). -/
def State.flowBad (s : State) (key : Nat) : State :=
  if (tabFind s.tele.flows key).isSome then
    (State.inc { s with tele := { s.tele with flows := tabDel s.tele.flows key } } TELE.FC_ECC).fault srcFlowEcc (key / 65536)
  else s

/-- An entry is evicted for the reason for which it is due, if it is due. -/
def State.flowExpire (s : State) (key : Nat) : Option Nat → State
  | some r => s.flowEvict key r
  | none => s

/-- The entries of a set of a shard's flow cache that are due are evicted. -/
def State.setExpire (s : State) (set : Nat) : State :=
  upTo 4 (fun w s =>
    match tabFind s.tele.flows (4 * set + w) with
    | some f => s.flowExpire (4 * set + w) (s.flowDue f)
    | none => s) s

/-- TELEMETRY_EXPORT_STEP: the same set of each shard's flow cache is checked (R379); `bad`: the shards and ways whose entries
have an uncorrectable error. -/
def State.exportStep (s : State) (set : Nat) (bad : List (Fin 8 × Fin 4)) : State :=
  let s := bad.foldl (fun s x => s.flowBad (4 * (16384 * x.1.val + set) + x.2.val)) s
  upTo 8 (fun k s => s.setExpire (16384 * k + set)) s

def execTelemetryExportStep (f : Fetch) (set : Fin 16384) (bad : List (Fin 8 × Fin 4)) (s : State) : Result :=
  .next (s.anvilStep actExport f (fun s => s.exportStep set.val bad))

/-- FS_RD_PTR_WRITE: a value that does not lie from RD_PTR to WR_PTR is stored as WR_PTR; ignored while Anvil exports
(R303, R304). -/
def State.fsReadPtr (s : State) (shard v : Nat) : State :=
  if bit (s.get TELE.FLAGS) 2 then s
  else
    let step := (v + 2 ^ 20 - s.get TELE.FS_RD_PTR shard) % 2 ^ 20
    s.set TELE.FS_RD_PTR (if step ≤ s.fsWaiting shard then v else s.get TELE.FS_WR_PTR shard) shard

def execFsRdPtrWrite (shard : Fin 8) (v : BitVec 20) (s : State) : Result :=
  .next (s.viaHost TELE.FS_RD_PTR (fun s => s.fsReadPtr shard.val v.toNat))

/-! ### Batch postcards (R304) -/

/-- FS_BATCH_SEND: Anvil sends a batch of up to four records when four wait, or 1 ms after the oldest was written, if the
collector accepts it (R304). -/
def State.batchSend (s : State) (shard : Nat) : State :=
  let c := le (s.sect secTele) 0x18 1
  let n := s.fsWaiting shard
  let old := match tabGet [] s.tele.fsAt shard with | t :: _ => s.elapsed t ticksPerMs | [] => false
  if bit (s.get TELE.FLAGS) 2 && s.colRoom c && (decide (4 ≤ n) || (decide (1 ≤ n) && old)) then
    let k := min 4 n
    let rd := s.get TELE.FS_RD_PTR shard
    let recs := (List.range k).flatMap (fun j => s.memAt (flowAddr shard (rd + j)) 32)
    let s := ((s.qdrOp (4 * k)).tally (64 + shard) evCard).colPush c (s.cardBytes c recs)
    s.fsPop shard k
  else s

/-- The batch is work of Anvil's telemetry export (R379): a halted activity and a module after a power failure send none. -/
def execFsBatchSend (f : Fetch) (shard : Fin 8) (s : State) : Result :=
  .next (s.anvilStep actExport f (fun s => s.batchSend shard.val))

end Sys2Proof.Machine
end

