-- ==== Sys2Proof/Machine/Queues.lean ====
section
/-!
DEFINITION. From the end of ingress to the queues (R201, R228, R241 to R244, R248, R251 to R261, R267, R268): token buckets,
policers, linking, hold lists, multicast replication and residue, and queues of ports that go down.
-/
namespace Sys2Proof.Machine
open Reg

/-! ### Configuration memory (R243, R244) -/

def queueAddr (q : Nat) : Nat := queueBase + 64 * q
def classAddr (port c : Nat) : Nat := classBase + 32 * (16 * port + c)
def portAddr (port : Nat) : Nat := portNodeBase + 64 * port
def policerAddr (i : Nat) : Nat := policerBase + 32 * i
def groupAddr (g : Nat) : Nat := groupBase + 256 * g

/-- Queue identifiers (R7). -/
def recircQueue (pipe c : Nat) : Nat := 0x40000 + 16 * pipe + c
def cpuQueue (ring : Nat) : Nat := 0x40400 + ring

/-- A queue of a recirculation port. -/
def isRecircQueue (q : Nat) : Bool := decide (0x40000 ≤ q) && decide (q < 0x40400)
def isCpuQueue (q : Nat) : Bool := decide (0x40400 ≤ q) && decide (q < 0x40440)

/-- The port that serves a queue. -/
def queuePort (q : Nat) : Nat := if q < 0x40000 then q / 256 else if isRecircQueue q then 1024 + (q - 0x40000) / 16 else cpuPort

/-- Class of a queue. -/
def queueClass (q : Nat) : Nat := if q < 0x40000 then q / 16 % 16 else if isRecircQueue q then q % 16 else 0

/-- An instance may be directed to the queue (R7, R241): collector queues hold postcards alone. -/
def State.queueListed (s : State) (q : Nat) : Bool :=
  if q < 0x40000 then s.isPort (q / 256) else isRecircQueue q || isCpuQueue q

/-- PFC priority of a class of a front or recirculation port (R242). -/
def State.classPrio (s : State) (port c : Nat) : Nat :=
  let a := portAddr port
  if bit (s.mem a 1) 1 then bits (s.mem (a + 4) 8) (3 * c) 3 else c / 2

/-! ### Token buckets (R123, R150, R248, R253) -/

/-- Units of a byte: a rate in kbit/s fills one unit in a tick of 0.8 ns. -/
def byteUnit : Int := 10000000
/-- Units of a packet: a rate of one per second fills one unit in a tick. -/
def packetUnit : Int := 1250000000

/-- A bucket's level now: full if the table does not list it. -/
def bucketLevel (b : Option Bucket) (rate : Nat) (cap : Int) (now : Nat) : Int :=
  match b with
  | some b => min cap (b.level + ((rate * (now - b.at_) : Nat) : Int))
  | none => cap

/-- A node of R248: address of its SHAPE_RATE, of its status bytes, and whether SHAPE_EN is set. -/
structure Shaper where
  cfg : Nat
  status : Nat
  enabled : Bool

def State.queueShaper (s : State) (q : Nat) : Shaper :=
  { cfg := queueAddr q + 4, status := queueAddr q + 0x28, enabled := bit (s.mem (queueAddr q + 1) 1) 0 }

def State.classShaper (s : State) (port c : Nat) : Shaper :=
  { cfg := classAddr port c + 4, status := classAddr port c + 0x10, enabled := bit (s.mem (classAddr port c + 1) 1) 0 }

def State.portShaper (s : State) (port : Nat) : Shaper :=
  { cfg := portAddr port + 0x0C, status := portAddr port + 0x20, enabled := bit (s.mem (portAddr port) 1) 0 }

/-- SHAPE_BURST of a shaper, in units. -/
def State.shaperCap (s : State) (x : Shaper) : Int := (s.mem (x.cfg + 4) 3 : Int) * byteUnit

/-- BUCKET of a shaper, in units. -/
def State.shaperLevel (s : State) (x : Shaper) : Int :=
  bucketLevel (tabFind s.que.buckets x.status) (s.mem x.cfg 4) (s.shaperCap x) s.frc

/-- The node lets its path be selected: SHAPE_EN = 0, or not in debt (R245). -/
def State.shaperOk (s : State) (x : Shaper) : Bool := !x.enabled || decide (0 ≤ s.shaperLevel x)

def State.putBucket (s : State) (a : Nat) (level : Int) : State :=
  { s with que := { s.que with buckets := tabPut s.que.buckets a { level := level, at_ := s.frc } } }

/-- Change a bucket by `d` bytes: capped at the burst, and at −2^31 B. -/
def State.shaperMove (s : State) (x : Shaper) (d : Int) : State :=
  if x.enabled then
    s.putBucket x.status (max (-(2147483648 : Int) * byteUnit) (min (s.shaperCap x) (s.shaperLevel x + d * byteUnit)))
  else s

/-- OVERHEAD of a shaper: the byte after SHAPE_BURST. -/
def State.shaperOverhead (s : State) (x : Shaper) : Int := signed (s.mem (x.cfg + 7) 1) 8

/-- Charge a selection of `len` bytes: L_s, at least 1 B. -/
def State.shaperCharge (s : State) (x : Shaper) (len : Nat) : State :=
  s.shaperMove x (-(max 1 ((len : Int) + s.shaperOverhead x)))

/-- SHAPER_DEBT_REPAID: a node's bucket has refilled to zero. The level is brought up to now. -/
def State.debtRepaid (s : State) (x : Shaper) : State :=
  if x.enabled && (tabFind s.que.buckets x.status).isSome && decide (0 ≤ s.shaperLevel x) then
    s.putBucket x.status (s.shaperLevel x)
  else s

/-- The node that a SHAPER_DEBT_REPAID names: 0 a queue, 1 a class node (16 × port + class), 2 a port node. -/
def State.shaperNode (s : State) (kind index : Nat) : Shaper :=
  if kind = 0 then s.queueShaper index else if kind = 1 then s.classShaper (index / 16) (index % 16) else s.portShaper index

def execShaperDebtRepaid (kind : Fin 3) (index : BitVec 19) (s : State) : Result :=
  .next (s.debtRepaid (s.shaperNode kind.val index.toNat))

/-! ### Slow-path policers (R123) -/

def State.slowCap (s : State) (pipe i : Nat) : Int := (s.get PARSE.POL_BURST pipe i : Int) * packetUnit

def State.slowLevel (s : State) (pipe i : Nat) : Int :=
  bucketLevel (tabFind s.buf.slow (8 * pipe + i)) (s.get PARSE.POL_RATE pipe i) (s.slowCap pipe i) s.frc

def State.slowPut (s : State) (pipe i : Nat) (level : Int) : State :=
  { s with buf := { s.buf with slow := tabPut s.buf.slow (8 * pipe + i) { level := level, at_ := s.frc } } }

/-- A slow-path frame meets policer `i` of its pipe: it is delivered, or discarded and counted. -/
def State.slowPass (s : State) (pipe i : Nat) : Bool × State :=
  let l := s.slowLevel pipe i
  let s := s.tally pipe evSlow
  if s.get PARSE.POL_RATE pipe i = 0 || l < packetUnit then (false, (s.slowPut pipe i l).inc PARSE.SP_POLICED pipe i)
  else (true, (s.slowPut pipe i (l - packetUnit)).inc PARSE.SP_COUNT pipe i)

/-! ### Ingress policers (R251 to R253) -/

/-- TC (k = 0) or TP (k = 1) of a policer, in units. -/
def State.policerLevel (s : State) (i k : Nat) : Int :=
  let a := policerAddr i
  bucketLevel (tabFind s.que.buckets (a + 0x18 + 4 * k)) (s.mem (a + 4 * k) 4) ((s.mem (a + 8 + 4 * k) 4 : Int) * byteUnit) s.frc

/-- The two-rate three-colour marker of R252: the colour, and the policer after it. -/
def State.policerMark (s : State) (i inColour len : Nat) : Nat × State :=
  let a := policerAddr i
  let aware := bit (s.mem (a + 0x10) 1) 0
  let tc := s.policerLevel i 0
  let tp := s.policerLevel i 1
  let b := (len : Int) * byteUnit
  let put := fun (s : State) (tc tp : Int) => (s.putBucket (a + 0x18) tc).putBucket (a + 0x1C) tp
  if (aware && decide (2 ≤ inColour)) || decide (tp < b) then (2, put s tc tp)
  else if (aware && inColour == 1) || decide (tc < b) then (1, put s tc (tp - b))
  else (0, put s (tc - b) (tp - b))

/-- Evaluate a policer for frame `h`: the colour, whether the packet is discarded, and the new state (R253). -/
def State.policerEval (s : State) (pipe h i inColour len : Nat) : Nat × Bool × State :=
  let a := policerAddr i
  let flags := s.mem (a + 0x10) 1
  let (c, s) := s.policerMark i inColour len
  let s := s.when (bit flags 3) (fun s => s.count pipe h (bits (s.mem (a + 0x14) 4) 0 23 + c))
  let drop := (c == 1 && bit flags 1) || (c == 2 && bit flags 2)
  (c, drop, s.when drop (fun s => s.inc QSCH.POLICER_DROPS))

/-! ### Queues (R228, R241) -/

def State.queue (s : State) (q : Nat) : List Inst := tabGet [] s.que.queues q

def State.setQueue (s : State) (q : Nat) (l : List Inst) : State :=
  { s with que := { s.que with queues := if l.isEmpty then tabDel s.que.queues q else tabPut s.que.queues q l } }

/-- D(q): data segments of the instances in the queue. -/
def State.depth (s : State) (q : Nat) : Nat := (s.queue q).foldl (fun n i => n + segsOf (s.storedLen i.h)) 0

/-- The queue profile admits an instance at depth `d`. -/
def State.admits (s : State) (q d : Nat) : Bool :=
  let p := s.mem (queueAddr q) 1
  let b := s.get CRUC.BETA p
  let m := s.get CRUC.Q_MIN p
  decide (d < m) || b == 15 || decide (128 * (d - m) < s.sharedFree * 2 ^ b)

/-- A hold of R260 runs at a front port. -/
def State.holdActive (s : State) (p : Nat) : Bool := s.flag QSCH.HOLD_ACTIVE p

/-- What a front port's state does with an instance that is to be linked into one of its queues (R260): nothing, keep it
waiting, or discard it. -/
inductive PortGate where
  | open_ | wait | down
  deriving DecidableEq, Repr

def State.portGate (s : State) (q : Nat) : PortGate :=
  if q < 0x40000 then
    if s.portUp (q / 256) then .open_ else if s.holdActive (q / 256) then .wait else .down
  else .open_

/-- The corrected time of a captured launch time: the seconds that agree modulo 2^34 and lie nearest the current time
(R267). -/
def State.launchInstant (s : State) (raw : Nat) : Nat :=
  let now := s.now
  let span := 2 ^ 34
  let base := timeSec now - timeSec now % span + bits raw 30 34
  let at_ := fun sec => timeOf sec (bits raw 0 30) 0
  let far := fun t => (t - now) + (now - t)
  let best := if span ≤ base && far (at_ (base - span)) < far (at_ base) then base - span else base
  at_ (if far (at_ (base + span)) < far (at_ best) then base + span else best)

/-- The instance is timed in its queue (R267): front-port queues, mirror copies apart. -/
def timed (i : Inst) : Bool := i.launch.isSome && decide (i.queue < 0x40000) && i.copy != 2

/-- A launch time that linking refuses (R268). -/
def State.launchRefused (s : State) (i : Inst) : Bool :=
  match i.launch with
  | some raw =>
    timed i && (decide (1000000000 ≤ bits raw 0 30) ||
      decide (s.now + nsUnits (s.get QSCH.HORIZON (i.queue / 256) * 1000000) < s.launchInstant raw))
  | none => false

/-- The marking decision of R254 at depth `d`. -/
def State.ecnDecide (s : State) (q d : Nat) : Bool × State :=
  let a := queueAddr q
  let lo := bits (s.mem (a + 0x0C) 4) 0 22
  let hi := bits (s.mem (a + 0x10) 4) 0 22
  if !bit (s.mem (a + 1) 1) 1 || d < lo then (false, s)
  else if hi ≤ d || hi ≤ lo then (true, s)
  else
    let num := (s.mem (a + 0x14) 1 + 1) * (d - lo)
    let den := 256 * (hi - lo)
    (decide ((Config.freeFraction s.draws).toNat * den < num * 2 ^ 32), s.draw)

/-- The operating point that governs R22: the lower of source and target during a transition. -/
def State.governingOp (s : State) : Nat :=
  if s.flag CORE.IN_TRANSITION then min (s.get CORE.CUR_OP) (s.get CORE.TGT_OP) else s.get CORE.CUR_OP

/-- An instance of a queue that has been selected and has not ended. -/
def State.inFlight (s : State) (p : Inst → Bool) : Bool :=
  s.pipe.eg.any (fun x => x.2.any (fun e => p e.i)) || s.que.txq.any (fun x => x.2.any (fun t => t.hits p)) ||
    s.que.tx.any (fun x => x.2.item.hits p)

/-- The instance cuts through (R232). -/
def State.cutsThrough (s : State) (i : Inst) : Bool :=
  let q := i.queue
  let port := q / 256
  s.flag CRUC.CT_EN && decide (q < 0x40000) && decide (i.inPort < 1024) &&
    s.bitOf CRUC.CT_MASK (queueClass q) i.inPort && (s.queue q).isEmpty && !s.inFlight (fun j => j.queue == q) &&
    decide (s.portRate port ≤ s.portRate i.inPort) && i.copy != 2 && decide (4 ≤ s.governingOp)

/-- Link an instance into its queue: handle check, launch check, depth, marking decision, cut-through (R228, R231, R232,
R254, R268). -/
def State.link (s : State) (i : Inst) : State :=
  let c := s.handleCheck i.h
  if c != 0 then (s.inflightDec i.epoch).handleErr i.h c
  else if s.launchRefused i then (s.inc QSCH.LAUNCH_REFUSED (i.queue / 256)).instEnd i
  else
    let d := s.depth i.queue
    let (mark, s) := s.ecnDecide i.queue d
    let ct := s.cutsThrough i
    let at_ := match i.launch with | some raw => if timed i then s.launchInstant raw else 0 | none => 0
    let i := { i with depth := d, ecn := mark, ct := ct, launchAt := at_, launched := !timed i || decide (at_ ≤ s.now) }
    let s := s.when ct (fun s => s.inc CRUC.CT_FRAMES)
    let s := s.when (isRecircQueue i.queue) (fun s => s.inc MAP.RECIRC_OUT i.inPipe)
    (s.setQueue i.queue (s.queue i.queue ++ [i])).tally 127 evLink

def State.setHolds (s : State) (r : Nat) (l : List Hold) : State :=
  { s with que := { s.que with holds := if l.isEmpty then tabDel s.que.holds r else tabPut s.que.holds r l } }

/-- A requester's hold list changes where `x` joins it; an episode of a full hold store is counted when it begins: `full`, it
was full before (R228). -/
def State.holdPut (s : State) (r : Nat) (l : List Hold) (x : Hold) (full : Bool) : State :=
  let s := s.setHolds r l
  s.when (!full && s.holdFull x.head.inPipe) (fun s => s.inc CRUC.HOLD_FULL)

/-- An element joins its requester's hold list. -/
def State.holdJoin (s : State) (r : Nat) (x : Hold) : State :=
  s.holdPut r (s.holdList r ++ [x]) x (s.holdFull x.head.inPipe)

/-- A queue of an instance admits it now. -/
def State.linkable (s : State) (i : Inst) : Bool :=
  s.portGate i.queue == .open_ && s.admits i.queue (s.depth i.queue)

/-- Discard an instance whose port is down with no hold running (R260). -/
def State.downDiscard (s : State) (i : Inst) : State :=
  (if i.copy = 1 then s.inc QSCH.MC_RESIDUE_DISCARDS (i.queue / 256) else s.inc QSCH.DOWN_DISCARDS (i.queue / 256)).instEnd i

/-- Enqueue an instance (R228, R241, R260). -/
def State.enqueue (s : State) (i : Inst) : State :=
  if !s.queueListed i.queue then (s.inc QSCH.BAD_QUEUE).instEnd i
  else if s.portGate i.queue = .down then s.downDiscard i
  else if (s.holdList i.req).isEmpty && s.linkable i then s.link i
  else s.holdJoin i.req (.inst i)

/-! ### Multicast (R256 to R259) -/

def State.residueOf (s : State) (port : Nat) : List Inst := tabGet [] s.que.residue port

def State.setResidue (s : State) (port : Nat) (l : List Inst) : State :=
  { s with que := { s.que with residue := if l.isEmpty then tabDel s.que.residue port else tabPut s.que.residue port l } }

/-- Pipe of a front or recirculation port. -/
def portPipe (p : Nat) : Nat := if p < 1024 then pipeOf p else p - 1024

/-- Residue entries in use in an egress pipe. -/
def State.residueUsed (s : State) (pipe : Nat) : Nat :=
  s.que.residue.foldl (fun n x => if portPipe x.1 = pipe then n + x.2.length else n) 0

/-- Member ports of a group, in ascending order. -/
def State.members (s : State) (g : Nat) : List Nat :=
  (List.range 1088).filter (fun n => bit (s.mem (groupAddr g + n / 8) 1) (n % 8))

/-- The queue of a group's copy at a member (R257). -/
def State.copyQueue (s : State) (g n : Nat) : Nat :=
  let sel := s.mem (groupAddr g + 0x88) 1
  if n < 1024 then 256 * n + 16 * (sel % 16) + sel / 16 else recircQueue (n - 1024) (sel % 16)

/-- MC_READY of a group. -/
def State.mcReady (s : State) (g : Nat) : Nat := bits (s.mem (groupAddr g + 0x8C) 4) 0 22

/-- A member is ready, its residue list apart (R258). -/
def State.memberReady (s : State) (g n q : Nat) : Bool :=
  (decide (1024 ≤ n) || (s.portUp n && !s.holdActive n)) && (s.mcReady g == 0 || decide (s.depth q < s.mcReady g))

/-- A copy at a member needs a residue entry, and its pipe's store is full: replication stops there (R259). -/
def State.replBlocked (s : State) (g n : Nat) : Bool :=
  let q := s.copyQueue g n
  s.queueListed q && s.portGate q != .down && !((s.residueOf n).isEmpty && s.memberReady g n q) &&
    decide (8192 ≤ s.residueUsed (portPipe n))

/-- Serve members in order; where residue space is missing, what is left stands at the head of the requester's hold list, and
the stop is counted (R258, R259). A copy carries its group in `depth` until it is linked. `full`: the packet's hold store was
full before. -/
def State.replicate (s : State) (i : Inst) (g : Nat) (full : Bool) : List Nat → State
  | [] => s
  | n :: rest =>
    let q := s.copyQueue g n
    let c := { i with queue := q, copy := 1, depth := g }
    if s.replBlocked g n then
      let x : Hold := .repl { i := i, left := n :: rest, group := g, stopped := true }
      (s.holdPut i.req (x :: s.holdList i.req) x full).inc QSCH.REPL_STALLS
    else if !s.queueListed q then State.replicate ((s.inc QSCH.BAD_QUEUE).instEnd c) i g full rest
    else if s.portGate q = .down then State.replicate (s.downDiscard c) i g full rest
    else if (s.residueOf n).isEmpty && s.memberReady g n q then State.replicate (s.link c) i g full rest
    else State.replicate (s.setResidue n (s.residueOf n ++ [c])) i g full rest

/-- A multicast packet reaches the replicator: behind the requester's hold list, if there is one (R228). -/
def State.multicast (s : State) (i : Inst) (g : Nat) (members : List Nat) : State :=
  if (s.holdList i.req).isEmpty then s.replicate i g (s.holdFull i.inPipe) members
  else s.holdJoin i.req (.repl { i := i, left := members, group := g })

/-- A replication that has stopped is stopped still. -/
def State.replStopped (s : State) (x : Stall) : Bool :=
  x.stopped && (match x.left with | n :: _ => s.replBlocked x.group n | [] => false)

/-- The head of a hold list leaves it and is linked, discarded because its port is down, or replicated (R228, R259, R260). -/
def State.holdServe (s : State) (r : Nat) : State :=
  match s.holdList r with
  | [] => s
  | .inst i :: rest =>
    if s.portGate i.queue = .down then (s.setHolds r rest).downDiscard i
    else if s.linkable i then (s.setHolds r rest).link i else s
  | .repl x :: rest =>
    if s.replStopped x then s else (s.setHolds r rest).replicate x.i x.group (s.holdFull x.i.inPipe) x.left

/-- HOLD_LIST_LINK: the head of a requester's hold list is linked once its queue admits it. -/
def execHoldListLink (r : Fin 8712) (s : State) : Result := .next (s.holdServe r.val)

/-- REPL_RESUME: a stalled replication at the head of a hold list resumes. -/
def State.replResume (s : State) (r : Nat) : State :=
  match s.holdList r with
  | .repl _ :: _ => s.holdServe r
  | _ => s

def execReplResume (r : Fin 8712) (s : State) : Result := .next (s.replResume r.val)

/-- RESIDUE_LINK: the head of a member's residue list is linked once the member is ready, the list apart (R258). -/
def State.residueLink (s : State) (n : Nat) : State :=
  match s.residueOf n with
  | [] => s
  | i :: rest => if s.memberReady i.depth n i.queue then (s.setResidue n rest).link i else s

def execResidueLink (port : Fin 1088) (s : State) : Result := .next (s.residueLink port.val)

/-! ### Ports that go down (R260, R261) -/

/-- Every queued instance of a front port is discarded and counted in FLUSHED, every residue copy in MC_RESIDUE_DISCARDS. An
instance that the scheduler has selected and whose transmission has not started counts as queued. -/
def State.flushPort (s : State) (p : Nat) : State :=
  let queued := s.que.queues.flatMap (fun x => if x.1 / 256 = p && x.1 < 0x40000 then x.2 else [])
  let out := s.pipe.eg.flatMap (fun x => (x.2.filter (fun e => e.port == p)).map (fun e => e.i)) ++
    (tabGet [] s.que.txq p).filterMap (fun t => t.inst?)
  let res := s.residueOf p
  let s := s.dropCards (s.pipe.eg.flatMap (fun x => x.2.filter (fun e => e.port == p)) ++
    (tabGet [] s.que.txq p).filterMap (fun t => t.eg?))
  let s := { s with
    que := { s.que with queues := s.que.queues.filter (fun x => !(x.1 / 256 = p && x.1 < 0x40000)),
                        residue := tabDel s.que.residue p, txq := tabDel s.que.txq p }
    pipe := { s.pipe with eg := tabFilter (fun e => e.port != p) s.pipe.eg } }
  let s := (s.add QSCH.FLUSHED (queued.length + out.length) p).add QSCH.MC_RESIDUE_DISCARDS res.length p
  (queued ++ out ++ res).foldl (fun s i => s.instEnd i) s

/-- A front port leaves UP: its hold starts, or its queues are flushed. -/
def State.portHold (s : State) (p : Nat) : State :=
  if s.get QSCH.PORT_DOWN_HOLD p = 0 then s.flushPort p
  else
    let l := tabGet {} s.buf.link p
    State.setB { s with buf := { s.buf with link := tabPut s.buf.link p { l with holdAt := s.frc } } } QSCH.HOLD_ACTIVE true p

/-- PORT_DOWN_HOLD_EXPIRE: H has elapsed, from the hold's start, with the port not in UP. -/
def State.holdExpire (s : State) (p : Nat) : State :=
  if s.holdActive p && !s.portUp p && s.elapsed (tabGet {} s.buf.link p).holdAt (s.get QSCH.PORT_DOWN_HOLD p * ticksPerMs) then
    (s.setB QSCH.HOLD_ACTIVE false p).flushPort p
  else s

def execPortDownHoldExpire (p : Fin 1024) (s : State) : Result := .next (s.holdExpire p.val)

/-! ### End of ingress (R201) -/

/-- Metadata bits of a record (R117). -/
def metaBits (rec_ : List Byte) (lo wd : Nat) : Nat := bits (le rec_ 112 16) lo wd

/-- The instance that a packet becomes in a queue. -/
def Pkt.toInst (k : Pkt) (s : State) (queue copy : Nat) : Inst :=
  let m := metaBits k.rec_
  let x := s.getStore k.h
  { h := k.h, queue := queue, inPort := m 0 11, req := x.f.req, inPipe := k.pipe, epoch := m 14 1, pass := m 15 3,
    copy := copy, marks := [m 87 9, m 96 9, m 105 9, m 114 9], markValid := m 124 4, carry := slice k.rec_ 80 32,
    tele := k.v.tele, strip := if k.v.strip = 1 then some (k.origin, m 75 8) else none, prio := m 11 3, quench := k.quench }

/-- An event of R200: ACTION_ERR, MAP_LAST_ERR and its fault. -/
def State.actionErr (s : State) (pipe stage kind word src : Nat) : State :=
  let s := ((s.set MAP.LE_STAGE stage pipe).set MAP.LE_KIND kind pipe).set MAP.LE_WORD word pipe
  (((s.setB MAP.LE_VALID true pipe).inc MAP.ACTION_ERR pipe).tally pipe evActErr).fault src pipe

/-- What the table of R201 decides for a packet, its mirror copy apart. -/
inductive Fate where
  | discard
  | queue (i : Inst)
  | group (i : Inst) (g : Nat) (members : List Nat)

/-- The number of instances. -/
def Fate.count : Fate → Nat
  | .discard => 0
  | .queue _ => 1
  | .group _ _ m => m.length

/-- The MCAST row and those after it. -/
def State.fateForward (s : State) (k : Pkt) (i : Inst) : Fate × State :=
  if bit k.v.mcast 16 then
    let g := bits k.v.mcast 0 16
    let flags := s.mem (groupAddr g + 0x89) 1
    if !bit flags 0 then (.discard, s.inc QSCH.MC_INVALID)
    else
      let l := (s.members g).filter (fun n => !(bit flags 1 && n == i.inPort))
      if l.isEmpty then (.discard, s.inc QSCH.MC_NO_COPY) else (.group i g l, s)
  else if k.v.queue = 0x7FFFF then (.discard, s.inc MAP.NO_DEST k.pipe)
  else if isRecircQueue k.v.queue && i.pass == 3 then
    (.discard, (s.inc MAP.RECIRC_LIMIT k.pipe).fault srcRecirc k.pipe)
  else (.queue { i with queue := k.v.queue }, s)

/-- A TO_CPU delivery under a slow-path policer. -/
def State.fateCpu (s : State) (k : Pkt) (i : Inst) (ring policer reason : Nat) : Fate × State :=
  match s.slowPass k.pipe policer with
  | (true, s) => (.queue { i with queue := cpuQueue ring, reason := reason }, s)
  | (false, s) => (.discard, s)

/-- The rows of R201 after MIRROR, with the packet's colour; `len`: the length that a policer is evaluated with. -/
def State.fate (s : State) (k : Pkt) (i : Inst) (len : Nat) : Nat × Fate × State :=
  if k.v.disp = 1 then (0, .discard, s.inc MAP.VERDICT_DROPS k.pipe)
  else if k.v.disp = 2 then
    let reason := bits k.v.cpu 0 8
    (0, if reason = 5 then s.fateCpu k i (s.get PARSE.SP_RING5 k.pipe) 4 5
        else s.fateCpu k i (bits k.v.cpu 8 6) 5 reason)
  else if bit k.v.policer 18 then
    match s.policerEval k.pipe k.h (bits k.v.policer 0 16) (bits k.v.policer 16 2) len with
    | (c, true, s) => (c, .discard, s)
    | (c, false, s) => (c, s.fateForward k { i with colour := c })
  else (0, s.fateForward k i)

/-- The instances of a packet are known: the reference count is set and INFLIGHT counts the copies; a packet with none is
discarded (R71, R230). -/
def State.setRefs (s : State) (h n : Nat) : State :=
  let x := s.getStore h
  if n = 0 then (s.inflightDec x.epoch).release h
  else
    let s := s.putStore h { x with refs := n }
    s.set IMG.INFLIGHT (s.get IMG.INFLIGHT x.epoch + (n - 1)) x.epoch

/-- The launch time captured at the end of ingress stage 19 (R187). -/
def State.launchCapture (s : State) (k : Pkt) : Option Nat × State :=
  if bit k.v.launch 7 then
    let off := bits k.v.launch 0 7
    if 120 < off then (none, s.actionErr k.pipe 19 6 0 srcAction) else (some (le k.rec_ off 8), s)
  else (none, s)

/-- The length for the policer of R252: none while it is not known. -/
def State.policerLen (s : State) (k : Pkt) : Option Nat :=
  let x := s.getStore k.h
  if metaBits k.rec_ 33 1 = 1 then some (metaBits k.rec_ 34 14)
  else match x.decl with
    | some n => some n
    | none => if x.f.done then some x.f.bytes.length else none

/-- Resolve the verdict of a packet that has left ingress stage 19 (R201). A policer without a length waits for the frame's
end: the packet stays, and the answer is false. -/
def State.endIngress (s : State) (k : Pkt) : Bool × State :=
  let need := k.v.disp == 0 && bit k.v.policer 18
  match s.policerLen k, need with
  | none, true => (false, s)
  | len, _ =>
    let (launch, s) := s.launchCapture k
    let i := { k.toInst s 0 0 with launch := launch }
    let mir := bit k.v.mirror 19
    let (colour, f, s) := s.fate k i (len.getD 0)
    let s := s.setRefs k.h (f.count + b2n mir)
    let s := s.when mir (fun s => s.enqueue
      { i with queue := bits k.v.mirror 0 19, copy := 2, launch := none, colour := colour })
    let s := match f with
      | .discard => s
      | .queue i => s.enqueue i
      | .group i g l => s.multicast i g l
    (true, s)

end Sys2Proof.Machine
end

