-- ==== Sys2Proof/Machine/Gates.lean ====
section
/-!
DEFINITION. Time gates (R262 to R266): the gate control lists, the change of lists, the entry in force, and whether a frame
fits its class's open window.
-/
namespace Sys2Proof.Machine
open Reg

/-! ### Lists (R262, R263) -/

/-- GATES and INTERVAL of entry `i` of a list. -/
def gateAddr (port list i : Nat) : Nat := gateBase + 0x1000 * port + 0x800 * list + 8 * i
def State.gateBits (s : State) (port list i : Nat) : Nat := s.mem (gateAddr port list i) 2
def State.gateInterval (s : State) (port list i : Nat) : Nat := s.mem (gateAddr port list i + 4) 4

/-- A stretch of a cycle: entry, GATES, start and end in ns. -/
structure GateSeg where
  entry : Nat
  gates : Nat
  from_ : Nat
  to_ : Nat
  deriving DecidableEq, Repr

/-- The stretches of a cycle of `g`, from entry `i` at `at_` ns on: entries beyond CYCLE do not run, and the last entry stays
to the end of the cycle. -/
def State.gateSegs (s : State) (port : Nat) (g : GateList) (i at_ : Nat) : Nat → List GateSeg
  | 0 => []
  | fuel + 1 =>
    let last := i + 1 == g.len
    let end_ := if last then g.cycle else min g.cycle (at_ + s.gateInterval port g.list i)
    let rest := if last || g.cycle ≤ end_ then [] else State.gateSegs s port g (i + 1) end_ fuel
    if at_ < end_ then { entry := i, gates := s.gateBits port g.list i, from_ := at_, to_ := end_ } :: rest else rest

def State.gateCycle (s : State) (port : Nat) (g : GateList) : List GateSeg := s.gateSegs port g 0 0 g.len

/-- Position in the cycle of `g` at corrected time `t` (2^-16 ns). -/
def GateList.pos (g : GateList) (t : Nat) : Nat :=
  if g.cycle = 0 then 0 else (((t : Int) - (g.start : Int)) % (nsUnits g.cycle : Int)).toNat

/-- The entry of `g` in force at corrected time `t`. -/
def State.gateEntryAt (s : State) (port : Nat) (g : GateList) (t : Nat) : Nat :=
  match (s.gateCycle port g).find? (fun x => decide (g.pos t < nsUnits x.to_)) with
  | some x => x.entry
  | none => 0

/-! ### Changing lists (R264, R266) -/

def State.gate (s : State) (port : Nat) : Gate := tabGet {} s.que.gates port

def State.putGate (s : State) (port : Nat) (g : Gate) : State := { s with que := { s.que with gates := tabPut s.que.gates port g } }

/-- The start instant of a change written now. -/
def State.gateStartInstant (s : State) (base cycle : Nat) : Nat :=
  let lim := s.now + nsUnits 2000
  if lim ≤ base then base else base + cycle * ceilDiv (lim - base) cycle

/-- CONFIG_CHANGE: the admin list is latched and its start scheduled, or the write is refused. -/
def State.configChange (s : State) (p : Nat) : State :=
  if !s.isPort p || !s.flag QSCH.GATE_EN p then s
  else
    let len := s.get QSCH.ADMIN_LEN p
    let cycle := s.get QSCH.ADMIN_CYCLE p
    let ns := s.get QSCH.ADMIN_BASE_NS p
    if len = 0 || 256 < len || cycle < 1000 || 1000000000 < cycle || 1000000000 ≤ ns then s.setB QSCH.CONFIG_ERR true p
    else
      let start := s.gateStartInstant (timeOf (s.get QSCH.ADMIN_BASE_SEC p) ns 0) (nsUnits cycle)
      let g : GateList := { list := s.get QSCH.ADMIN_LIST p, len := len, cycle := cycle, start := start }
      (s.putGate p { s.gate p with next := some g }).setB QSCH.CONFIG_PENDING true p

def execConfigChange (p : Fin 1024) (s : State) : Result := .next (s.viaHost QSCH.CONFIG_CHANGE (fun s => s.configChange p.val))

/-- A write of GATE_EN = 0: a pending change is cancelled, no list is operational, every gate is open. -/
def State.gateDisable (s : State) (p : Nat) : State :=
  if !s.isPort p then s
  else
    let s := (s.setB QSCH.GATE_EN false p).setB QSCH.CONFIG_PENDING false p
    { (s.setB QSCH.OPER_VALID false p) with que := { s.que with gates := tabDel s.que.gates p } }

def execGateDisable (p : Fin 1024) (s : State) : Result := .next (s.viaHost QSCH.GATE_EN (fun s => s.gateDisable p.val))

/-- A list becomes operational, with the entry that covers the current time in force. -/
def State.gateRun (s : State) (p : Nat) (g : GateList) : State :=
  let s := s.putGate p { oper := some g, next := none, entry := s.gateEntryAt p g s.now }
  ((s.setB QSCH.CONFIG_PENDING false p).setB QSCH.OPER_VALID true p).set QSCH.OPER_LIST g.list p

/-- GATE_CONFIG_START: the start instant has been reached. -/
def State.gateStart (s : State) (p : Nat) : State :=
  match (s.gate p).next with
  | some g => if g.start ≤ s.now then s.gateRun p g else s
  | none => s

def execGateConfigStart (p : Fin 1024) (s : State) : Result := .next (s.gateStart p.val)

/-- GATE_ENTRY_CHANGE: the entry that covers the current time takes force. -/
def State.gateEntry (s : State) (p : Nat) : State :=
  match (s.gate p).oper with
  | some g => s.putGate p { s.gate p with entry := s.gateEntryAt p g s.now }
  | none => s

def execGateEntryChange (p : Fin 1024) (s : State) : Result := .next (s.gateEntry p.val)

/-- Corrected time has jumped: pending starts now in the past start, and running lists are relocated. -/
def State.gatesRelocate (s : State) : State :=
  s.que.gates.foldl (fun s x => (s.gateStart x.1).gateEntry x.1) s

/-! ### Gates and frames (R245, R262, R265) -/

/-- The gate of class `c` of a port is open. -/
def State.gateOpen (s : State) (p c : Nat) : Bool :=
  if !s.flag QSCH.GATE_EN p then true
  else match (s.gate p).oper with
    | some g => bit (s.gateBits p g.list (s.gate p).entry) c
    | none => true

/-- The first instant from `t` on at which list `g` holds the gate of class `c` closed. -/
def State.gateClose (s : State) (p : Nat) (g : GateList) (c t : Nat) : Option Nat :=
  let shut := (s.gateCycle p g).filter (fun x => !bit x.gates c)
  let pos := g.pos t
  match shut.find? (fun x => decide (pos < nsUnits x.to_)) with
  | some x => some (t + (max pos (nsUnits x.from_) - pos))
  | none =>
    match shut with
    | x :: _ => some (t + (nsUnits g.cycle - pos) + nsUnits x.from_)
    | [] => none

/-- The next instant at which the gate of class `c` closes, across a pending start. -/
def State.gateNextClose (s : State) (p c : Nat) : Option Nat :=
  if !s.flag QSCH.GATE_EN p then none
  else
    let g := s.gate p
    let first := match g.oper with | some l => s.gateClose p l c s.now | none => none
    match g.next with
    | some l =>
      match first with
      | some t => if t < l.start then some t else s.gateClose p l c (max l.start s.now)
      | none => s.gateClose p l c (max l.start s.now)
    | none => first

/-- Time on the wire of `len` bytes of scheduling length, in 2^-16 ns. -/
def State.wireTime (s : State) (p len : Nat) : Nat := ceilDiv (len * 8 * 65536) (100 * s.portRate p)

/-- A frame of scheduling length `len`, which the MAC can start at `start` at the earliest, ends before the gate of its class
closes. -/
def State.gateFits (s : State) (p c len start : Nat) : Bool :=
  match s.gateNextClose p c with
  | some t => decide (start + s.wireTime p len ≤ t)
  | none => true

/-- The longest continuous open window of class `c` in the operational list, in ns: none when its gate never closes. -/
def State.gateLongest (s : State) (p c : Nat) : Option Nat :=
  match (s.gate p).oper with
  | some g =>
    let l := s.gateCycle p g
    if l.all (fun x => bit x.gates c) then none
    else
      let r := (l ++ l).foldl (fun (a : Nat × Nat) x =>
        let run := if bit x.gates c then a.1 + (x.to_ - x.from_) else 0
        (run, max a.2 run)) (0, 0)
      some r.2
  | none => none

/-- A frame that can never fit. -/
def State.gateOversize (s : State) (p c len : Nat) : Bool :=
  s.flag QSCH.GATE_EN p && (match s.gateLongest p c with | some n => decide (nsUnits n < s.wireTime p len) | none => false)

end Sys2Proof.Machine
end

