-- ==== Sys2Proof/Machine/Banks.lean ====
section
/-!
DEFINITION. The banks of Crucible (R213, R214, R236, R237): reads with their error checks, bits inverted by injection (R405),
and the migration of banks to spares.
-/
namespace Sys2Proof.Machine
open Reg

/-- First segment slot of segment `j` of a stored frame. -/
def Stored.slot (x : Stored) (h j : Nat) : Nat :=
  if j < x.cap then handleSlot h + j else handleSlot (x.chain.getD (j - x.cap) 0)

/-- The bank at a position of a segment slot's stripe. -/
def bankOf (slot pos : Nat) : Nat := 9 * (slot % 256) + pos

/-- Row of a segment slot in its stripe. -/
def rowOf (slot : Nat) : Nat := slot / 256

/-- The exclusive or of two words. -/
def wordXor (a b : List Byte) : List Byte := a.zipWith (fun x y => x ^^^ y) b

/-- Segment `j` of a frame in a whole row; what the frame does not fill is free (log 1). -/
def State.segment (s : State) (x : Stored) (j : Nat) : List Byte :=
  (List.range 256).map (fun k =>
    if 256 * j + k < x.f.bytes.length then x.f.bytes.getD (256 * j + k) 0 else Config.freeWindow s.draws k)

/-- The word at a position of a row that holds `seg`: bytes 32 k to 32 k + 31 at data position k, and at position 8 the
exclusive or of the eight data words (R213). -/
def rowWord (seg : List Byte) (pos : Nat) : List Byte :=
  if pos < 8 then slice seg (32 * pos) 32 else (List.range 8).foldl (fun w k => wordXor w (slice seg (32 * k) 32)) (zeros 32)

/-- A word rebuilt as the exclusive or of the other eight words of its row (R214). -/
def rowRebuild (seg : List Byte) (pos : Nat) : List Byte :=
  ((List.range 9).filter (fun k => k != pos)).foldl (fun w k => wordXor w (rowWord seg k)) (zeros 32)

/-- The word in a row of a bank: of the frame whose segment lies there; none in a free row, whose content the spec leaves
open. A spare holds the words of the bank that it replaced. -/
def State.bankWord (s : State) (bank row : Nat) : Option (List Byte) :=
  let slot := 256 * row + bank / 9
  (s.buf.store.findSome? (fun x =>
    (List.range x.2.f.segs).findSome? (fun j => if x.2.slot x.1 j = slot then some (s.segment x.2 j) else none))).map
      (fun seg => rowWord seg (bank % 9))

/-! ### Failing banks (R236, R237) -/

/-- Spares that are free. -/
def State.sparesLeft (s : State) : Nat := 64 - ((List.range 64).filter (fun k => s.flag CRUC.SM_USED k)).length

/-- A bank fails and no spare is left: it stays in service, and the words it holds are rebuilt at every read. -/
def State.bankDegrade (s : State) (b : Nat) : State :=
  if s.buf.mig.failing.contains b then s
  else
    let m := { s.buf.mig with failing := s.buf.mig.failing ++ [b] }
    State.fault (State.setB { s with buf := { s.buf with mig := m } } CRUC.MS_DEGRADED true) srcDegraded b

/-- A bank is to be migrated: it waits, unless it waits or moves already. `own`: errors of the bank ask for it. -/
def State.migTrigger (s : State) (b : Nat) (own : Bool) : State :=
  let m := s.buf.mig
  let busy := m.queue.any (fun x => x.1 == b) || (match m.cur with | some c => c.1 == b | none => false) || m.failing.contains b
  if busy then s
  else if s.sparesLeft = 0 then (if own then s.bankDegrade b else s)
  else if 64 ≤ m.queue.length then s
  else { s with buf := { s.buf with mig := { m with queue := m.queue ++ [(b, own)] } } }

/-- A word of a bank has been corrected: the bank's count in its window, which asks for a migration at CE_LIMIT. -/
def State.wordCorrected (s : State) (b : Nat) : State :=
  let s := s.inc CRUC.CORR
  let (n, at_) := match tabFind s.buf.mig.ce b with
    | some (n, t) => if s.elapsed t (s.get CRUC.CE_WINDOW * ticksPerMs) then (1, s.frc) else (n + 1, t)
    | none => (1, s.frc)
  let put := fun (s : State) (t : Tab (Nat × Nat)) => { s with buf := { s.buf with mig := { s.buf.mig with ce := t } } }
  if s.get CRUC.CE_LIMIT ≤ n then (put s (tabDel s.buf.mig.ce b)).migTrigger b true
  else put s (tabPut s.buf.mig.ce b (n, at_))

/-- A word of a bank has been rebuilt. -/
def State.wordRebuilt (s : State) (b : Nat) : State := (s.inc CRUC.REBUILT).migTrigger b true

/-! ### Reading and writing segments -/

/-- Positions of a slot's row that hold bits inverted by injection, with their number. -/
def Stored.flipsAt (x : Stored) (slot : Nat) : List (Nat × Nat) :=
  x.flips.filterMap (fun f => if f.1 = slot then some (f.2 % 16, f.2 / 16) else none)

/-- Read one row: false when two words of it cannot be corrected. Words that fail: of failing banks, of injections with two
bits, and what the operand says. -/
def State.readRow (s : State) (x : Stored) (slot seg : Nat) (e : ReadErr) : Bool × State :=
  let flips := x.flipsAt slot
  let here := fun n => n == seg
  let bad : List Nat := (s.buf.mig.failing.filter (fun b => b / 9 == slot % 256)).map (fun b => b % 9) ++
    (flips.filter (fun f => f.2 == 2)).map (fun f => f.1) ++
    (match e with | .rebuilt n p => if here n then [p.val] else [] | _ => [])
  let soft : List Nat := (flips.filter (fun f => f.2 == 1)).map (fun f => f.1) ++
    (match e with | .corrected n p => if here n then [p.val] else [] | _ => [])
  let bad : List Nat := bad.eraseDups
  let twice := match e with | .lost n _ => here n | _ => false
  let s := (soft.filter (fun p => !bad.contains p)).foldl (fun s p => s.wordCorrected (bankOf slot p)) s
  if twice || decide (2 ≤ bad.length) then
    let pos := match e with | .lost _ p => p.val | _ => bad.headD 0
    let s := s.inc CRUC.SEG_LOST
    (false, if flips.isEmpty then s.fault srcSegLost (bankOf slot pos) else s.faultInjected srcSegLost (bankOf slot pos) 0)
  else (true, bad.foldl (fun s p => s.wordRebuilt (bankOf slot p)) s)

/-- Read segments `from_` to `n - 1` of a stored frame, in order, for pipe `pipe`: false when one is lost. -/
def State.readFrame (s : State) (pipe h from_ n : Nat) (e : ReadErr) : Bool × State :=
  let x := s.getStore h
  let s := s.tally (64 + pipe / 8) evSegRead (n - from_)
  if x.flips.isEmpty && s.buf.mig.failing.isEmpty && e == .clean then (true, s)
  else (List.range n).foldl (fun (a : Bool × State) j =>
    if a.1 && decide (from_ ≤ j) then a.2.readRow x (x.slot h j) j e else a) (true, s)

/-- The stripe and row of a word that a memory injection names (R405); a spare in service stands for the bank it replaced. -/
def State.injWord (s : State) (target : Nat) : Nat × Nat :=
  let b := target % 4096
  let b := if 2304 ≤ b && b < 2368 then s.get CRUC.SM_REPLACES (b - 2304) else b
  (b, 256 * (target / 4096 % 8192) + b / 9)

/-- Segments `from_` to `n - 1` of a stored frame are written: memory injections armed on their words are consumed. -/
def State.segsWritten (s : State) (h from_ n : Nat) : State :=
  if s.flt.injMem.isEmpty then s
  else
    let x := s.getStore h
    let slots := (List.range n).filterMap (fun j => if from_ ≤ j then some (x.slot h j) else none)
    let hit := fun (m : MemInj) => m.cruc && slots.contains (s.injWord m.target).2
    let new := (s.flt.injMem.filter hit).map (fun m =>
      let w := s.injWord m.target
      (w.2, w.1 % 9 + 16 * m.nbits))
    let s := { s with flt := { s.flt with injMem := s.flt.injMem.filter (fun m => !hit m) } }
    s.putStore h { x with flips := x.flips ++ new }

/-! ### Migration (R236) -/

/-- MIGRATE_CMD: a write of GO with a bank number queues a migration. A number above 2,303 names no bank. -/
def State.migrateCmd (s : State) (b : Nat) : State := if b < 2304 then s.migTrigger b false else s

def execMigrateCmd (b : Fin 4096) (s : State) : Result := .next (s.viaHost CRUC.MC_GO (fun s => s.migrateCmd b.val))

/-- The free spare with the lowest number. -/
def State.freeSpare (s : State) : Option Nat := (List.range 64).find? (fun k => !s.flag CRUC.SM_USED k)

/-- BANK_MIGRATION_START: Anvil starts the next queued migration, on the lowest free spare; without one, a failing bank
stays in service. -/
def State.migStart (s : State) : State :=
  match s.buf.mig.cur, s.buf.mig.queue with
  | none, (b, own) :: rest =>
    let s := { s with buf := { s.buf with mig := { s.buf.mig with queue := rest } } }
    match s.freeSpare with
    | some k =>
      State.setB (State.set { s with buf := { s.buf with mig := { s.buf.mig with cur := some (b, k, 0) } } } CRUC.MS_BANK b)
        CRUC.MS_ACTIVE true
    | none => if own then s.bankDegrade b else s
  | _, _ => s

def execBankMigrationStart (f : Fetch) (s : State) : Result := .next (s.anvilStep actMigration f (fun s => s.migStart))

/-- MIGRATION_ROW_COPY: the next row is copied into the spare, every word rebuilt from the other eight banks. -/
def State.migRow (s : State) : State :=
  match s.buf.mig.cur with
  | some (b, k, r) =>
    if r < 8192 then { s with buf := { s.buf with mig := { s.buf.mig with cur := some (b, k, r + 1) } } } else s
  | none => s

def execMigrationRowCopy (f : Fetch) (s : State) : Result := .next (s.anvilStep actMigration f (fun s => s.migRow))

/-- Words of a bank hold inverted bits no longer: the spare holds rebuilt ones. -/
def State.flipsDrop (s : State) (b : Nat) : State :=
  let keep := fun (f : Nat × Nat) => !(f.1 % 256 == b / 9 && f.2 % 16 == b % 9)
  { s with buf := { s.buf with
    store := s.buf.store.map (fun (x : Nat × Stored) => (x.1, { x.2 with flips := x.2.flips.filter keep })) } }

/-- BANK_MIGRATION_DONE: all rows are copied; the spare takes the bank's place and the spare map's line is written (R383).
`ok` false: the line does not read back (R384). -/
def State.migDone (s : State) (ok : Bool) : State :=
  match s.buf.mig.cur with
  | some (b, k, r) =>
    if r < 8192 then s
    else
      let m := { s.buf.mig with cur := none, ce := tabDel s.buf.mig.ce b }
      let s := { s with buf := { s.buf with mig := m } }
      let s := ((s.set CRUC.SM_REPLACES b k).setB CRUC.SM_USED true k).flipsDrop b
      let s := (s.storeWrite (0x0E003000 + 64 * k) (storeLine 4 0 (leBytes 2 b)) ok).1
      (s.setB CRUC.MS_ACTIVE false).event CRUC.MS_DONE 0 true sumCruc
  | none => s

def execBankMigrationDone (f : Fetch) (ok : Bool) (s : State) : Result :=
  .next (s.anvilStep actMigration f (fun s => s.migDone ok))

/-- A reset or a power failure ends the migration that runs, and those that wait. -/
def State.migrationAbandon (s : State) : State :=
  State.setB { s with buf := { s.buf with mig := { s.buf.mig with cur := none, queue := [] } } } CRUC.MS_ACTIVE false

end Sys2Proof.Machine
end

