-- ==== Sys2Proof/Machine/Patterns.lean ====
section
/-!
DEFINITION. The test patterns of R100 and the checker of R101 as functions on bits: the PRBS polynomials, the Gray coding onto
PAM4 symbols, the next bit of a pattern, and one step of the checker.
-/
namespace Sys2Proof.Machine
open Reg

/-! ### Patterns (R100) -/

/-- Exponents of a PRBS polynomial, the order first: x⁹ + x⁵ + 1, x¹³ + x¹² + x² + x + 1, x¹⁵ + x¹⁴ + 1, x³¹ + x²⁸ + 1. -/
def prbsTaps (pat : Nat) : List Nat :=
  match pat with
  | 0 => [9, 5]
  | 1 => [13, 12, 2, 1]
  | 2 => [15, 14]
  | _ => [31, 28]

/-- Order of a PRBS polynomial. -/
def prbsOrder (pat : Nat) : Nat := (prbsTaps pat).headD 31

/-- A PRBS pattern; the others are SSPRQ (4) and the user pattern (5). -/
def isPrbs (pat : Nat) : Bool := decide (pat < 4)

/-- The next bit of a PRBS after `hist`, whose bit k − 1 is the bit k places back. -/
def prbsNext (pat hist : Nat) : Bool := (prbsTaps pat).foldl (fun b t => xor b (bit hist (t - 1))) false

/-- A bit more in a history of 31 bits. -/
def histPut (hist : Nat) (b : Bool) : Nat := (2 * hist + b2n b) % 2 ^ 31

/-- Bits in a period of a pattern that is not a PRBS. -/
def patternPeriod (pat : Nat) : Nat := if pat = 5 then 64 else 131070

/-- The bit at a position of the user pattern, bit 0 first, or of SSPRQ, which IEEE 802.3 defines and the spec does not
repeat. -/
def fixedBit (pat user pos : Nat) : Bool := if pat = 5 then bit user (pos % 64) else Config.ssprq (pos % 131070)

/-- The bit that a pattern has next, after `hist` or at `pos`. -/
def patternBit (pat user hist pos : Nat) : Bool := if isPrbs pat then prbsNext pat hist else fixedBit pat user pos

/-- The PAM4 level that carries two bits, the first sent first (Gray coding). -/
def grayLevel (a b : Bool) : Nat := if a then (if b then 2 else 3) else (if b then 1 else 0)

/-- The two bits that a PAM4 level carries. -/
def grayBits (level : Nat) : Bool × Bool := (decide (2 ≤ level), level == 1 || level == 2)

/-- The levels of a list of bits, two bits a symbol. -/
def pamLevels : List Bool → List Nat
  | a :: b :: t => grayLevel a b :: pamLevels t
  | _ => []

/-! ### The checker (R101) -/

/-- What a lane's checker is set to: pattern, inverted, user pattern. -/
structure ChkSet where
  pat : Nat
  inv : Bool
  user : Nat
  deriving DecidableEq, Repr

/-- A checker at work: its record, its lock, whether lock was lost, and what it has counted. -/
structure ChkRun where
  c : Chk
  lock : Bool
  lost : Bool := false
  bits : Nat := 0
  errs : Nat := 0
  syms : Nat := 0
  deriving DecidableEq, Repr

/-- Searching: 1,024 consecutive error-free bits lock the checker. A PRBS is expected from the bits received; in another
pattern a wrong bit moves the checker on to the next alignment. -/
def ChkRun.search (r : ChkRun) (m : ChkSet) (b : Bool) : ChkRun :=
  let c := r.c
  let known := !isPrbs m.pat || decide (prbsOrder m.pat ≤ c.seen)
  let good := known && b == patternBit m.pat m.user c.hist c.pos
  let run := if good then c.run + 1 else 0
  let pos := if good then (c.pos + 1) % patternPeriod m.pat else c.pos
  let c := { c with hist := histPut c.hist b, seen := min 31 (c.seen + 1), pos := pos, run := run }
  if 1024 ≤ run then { r with c := { c with run := 0, wrong := [] }, lock := true } else { r with c := c }

/-- Locked: the bit is checked against the pattern that goes on from the lock; 256 errors within 1,024 bits lose the lock, and
the checker searches again. -/
def ChkRun.check (r : ChkRun) (m : ChkSet) (b : Bool) : ChkRun × Bool :=
  let c := r.c
  let want := patternBit m.pat m.user c.hist c.pos
  let bad := b != want
  let wrong := (if bad then [1024] else []) ++ c.wrong.filterMap (fun n => if n ≤ 1 then none else some (n - 1))
  let c := { c with hist := histPut c.hist want, pos := (c.pos + 1) % patternPeriod m.pat, wrong := wrong }
  let r := { r with bits := r.bits + 1, errs := r.errs + b2n bad }
  if 256 ≤ wrong.length then ({ r with c := { pos := c.pos }, lock := false, lost := true }, bad)
  else ({ r with c := c }, bad)

/-- A received bit. -/
def ChkRun.bit (r : ChkRun) (m : ChkSet) (b : Bool) : ChkRun × Bool :=
  let b := xor b m.inv
  if r.lock then r.check m b else (r.search m b, false)

/-- A received PAM4 symbol: its two bits, and one more wrong symbol where either is wrong. -/
def ChkRun.symbol (r : ChkRun) (m : ChkSet) (level : Nat) : ChkRun :=
  let (a, b) := grayBits level
  let (r, w) := r.bit m a
  let (r, x) := r.bit m b
  { r with syms := r.syms + b2n (w || x) }

/-! ### The generator (R100, R102) -/

/-- What a lane's generator is set to: pattern, inverted, user pattern, and in mode 3 the exponent of its error rate. -/
structure GenSet where
  pat : Nat
  inv : Bool
  user : Nat
  rate : Option Nat
  deriving DecidableEq, Repr

/-- The generator's next bit: of the pattern, inverted where GEN_INVERT or an injected error says so. -/
def Gen.bit (g : Gen) (m : GenSet) : Bool × Gen :=
  let b := patternBit m.pat m.user g.hist g.pos
  let due := match m.rate with
    | some e => (g.count + 1) % 2 ^ e == 0
    | none => false
  let g' : Gen := { hist := histPut g.hist b, pos := (g.pos + 1) % patternPeriod m.pat, flips := g.flips - 1, count := g.count + 1 }
  (xor (xor b m.inv) (due || decide (0 < g.flips)), g')

/-- The generator's next `n` bits. -/
def Gen.bits : Nat → Gen → GenSet → List Bool × Gen
  | 0, g, _ => ([], g)
  | n + 1, g, m =>
    let (b, g) := g.bit m
    let (l, g) := Gen.bits n g m
    (b :: l, g)

end Sys2Proof.Machine
end

