-- ==== Sys2Proof/Machine/Ports.lean ====
section
/-!
DEFINITION. Ports and lanes (R78 to R105): the transmit equaliser, the link state machine, pause and its timers, the storm
guard, and the pattern generators and checkers.
-/
namespace Sys2Proof.Machine
open Reg

/-! ### Lanes (R84 to R88) -/

/-- The lanes of the port that starts at lane `p`. -/
def State.portLanes (s : State) (p : Nat) : List Nat := (List.range (s.lanesOf p)).map (fun k => p + k)

/-- A coefficient set that R85 allows: pre, main and post in steps. -/
def ffeOk (pre main post : Int) : Bool :=
  decide (-16 ≤ pre) && decide (pre ≤ 0) && decide (32 ≤ main) && decide (main ≤ 64) && decide (-24 ≤ post) && decide (post ≤ 0) &&
    decide (main - pre - post ≤ 64) && decide (16 ≤ main + pre + post)

/-- The range of a coefficient alone. -/
def coeffInRange (which : Nat) (v : Int) : Bool :=
  if which = 0 then decide (-16 ≤ v) && decide (v ≤ 0)
  else if which = 1 then decide (32 ≤ v) && decide (v ≤ 64) else decide (-24 ≤ v) && decide (v ≤ 0)

/-- The coefficients in force on a lane. -/
def State.ffe (s : State) (lane : Nat) : Int × Int × Int :=
  (signed (s.get LANE.PRE lane) 7, (s.get LANE.MAIN lane : Int), signed (s.get LANE.POST lane) 7)

def State.ffePut (s : State) (lane : Nat) (pre main post : Int) : State :=
  ((s.set LANE.PRE (wrapInt pre 7) lane).set LANE.MAIN (wrapInt main 7) lane).set LANE.POST (wrapInt post 7) lane

/-- TX_FFE_WRITE: accepted whole or rejected whole (R87). -/
def State.ffeWrite (s : State) (lane v : Nat) : State :=
  if (s.portOfLane lane).isNone then s
  else
    let pre := signed (bits v 0 7) 7
    let main : Int := (bits v 8 7 : Nat)
    let post := signed (bits v 16 7) 7
    if !s.flag LANE.TRAINING_ACTIVE lane && ffeOk pre main post then s.ffePut lane pre main post
    else s.setB LANE.FFE_REJECT true lane

def execTxFfeWrite (lane : Fin 1024) (v : Word) (s : State) : Result :=
  .next (s.viaHost LANE.PRE (fun s => s.ffeWrite lane.val v.toNat))

/-- The coefficients that a request asks for. -/
def State.ffeAsked (s : State) (lane : Nat) (r : CoeffReq) : Int × Int × Int :=
  let (a, b, c) := s.ffe lane
  match r with
  | .step w up =>
    let d : Int := if up then 1 else -1
    if w.val = 0 then (a + d, b, c) else if w.val = 1 then (a, b + d, c) else (a, b, c + d)
  | .preset pre post main => (signed pre.toNat 7, (main.toNat : Int), signed post.toNat 7)

/-- A request would leave a coefficient's range. -/
def askedInRange (r : CoeffReq) (x : Int × Int × Int) : Bool :=
  match r with
  | .step w _ => coeffInRange w.val (if w.val = 0 then x.1 else if w.val = 1 then x.2.1 else x.2.2)
  | .preset _ _ _ => coeffInRange 0 x.1 && coeffInRange 1 x.2.1 && coeffInRange 2 x.2.2

/-- LT_COEFF_REQUEST: answered while link training runs on the lane (R86). -/
def State.ltRequest (s : State) (lane : Nat) (r : CoeffReq) : State :=
  if !s.flag LANE.TRAINING_ACTIVE lane then s
  else
    let x := s.ffeAsked lane r
    if !askedInRange r x then s.emit (.coeff lane 1)
    else if !ffeOk x.1 x.2.1 x.2.2 then s.emit (.coeff lane 2)
    else (s.ffePut lane x.1 x.2.1 x.2.2).emit (.coeff lane 0)

def execLtCoeffRequest (lane : Fin 1024) (r : CoeffReq) (s : State) : Result := .next (s.ltRequest lane.val r)

/-- Every coefficient set that R85 allows. -/
def ffeSets : List (Int × Int × Int) :=
  (List.range 17).flatMap (fun (a : Nat) => (List.range 33).flatMap (fun (b : Nat) => (List.range 25).filterMap (fun (c : Nat) =>
    let x : Int × Int × Int := (-(a : Int), 32 + (b : Int), -(c : Int))
    if ffeOk x.1 x.2.1 x.2.2 then some x else none)))

/-- Link training starts on a lane, from the initial condition of the standard, which the spec does not give: a free set of
coefficients within R85 (R87, log 24). -/
def State.trainLane (s : State) (lane : Nat) : State :=
  let x := ffeSets.getD (Config.freeChoice s.draws % ffeSets.length) (0, 64, 0)
  (s.draw.ffePut lane x.1 x.2.1 x.2.2).setB LANE.TRAINING_ACTIVE true lane

/-- ADAPT_RESTART: the receiver settings are discarded (R88). What they become carries no guarantee: free values. -/
def State.adaptRestart (s : State) (lane : Nat) : State :=
  if (s.portOfLane lane).isNone then s
  else
    let n := Config.freeChoice s.draws
    ((((s.draw.setB LANE.ADAPT_CONVERGED false lane).set LANE.CTLE_PEAK n lane).set LANE.DFE_TAP1 (n / 16) lane).set
      LANE.RX_FFE_PRE (n / 4096) lane).set LANE.SNR (n / 2 ^ 20) lane

def execAdaptRestart (lane : Fin 1024) (s : State) : Result :=
  .next (s.viaHost LANE.ADAPT_RESTART (fun s => s.adaptRestart lane.val))

/-- Calibration of one lane: the receiver's settings as found, and convergence, unless ADAPT_FREEZE holds them. -/
def State.calibrate (s : State) (lane eq snr : Nat) : State :=
  if (s.portOfLane lane).isNone || s.flag LANE.ADAPT_FREEZE lane || !s.flag LANE.CDR_LOCK lane then s
  else
    ((((s.set LANE.CTLE_PEAK eq lane).set LANE.DFE_TAP1 (eq / 2 ^ 8) lane).set LANE.RX_FFE_PRE (eq / 2 ^ 16) lane).set
      LANE.SNR snr lane).setB LANE.ADAPT_CONVERGED true lane

/-- CALIBRATION_STEP: lane adaptation housekeeping with what the lane's receiver shows, RX_EQ and RX_SNR (R379). Sensor and
rail-monitor calibration leaves nothing that a register or a rule shows. -/
def execCalibrationStep (f : Fetch) (lane : Fin 1024) (eq : Word) (snr : BitVec 16) (s : State) : Result :=
  .next (s.anvilStep actCalibration f (fun s => s.calibrate lane.val eq.toNat snr.toNat))

/-! ### Pause timers (R94, R96) -/

def State.pauseOf (s : State) (p prio : Nat) : Pause := tabGet {} s.buf.pause (8 * p + prio)

def State.putPause (s : State) (p prio : Nat) (x : Pause) : State :=
  { s with buf := { s.buf with pause := tabPut s.buf.pause (8 * p + prio) x } }

/-- The pause timer of a priority runs. -/
def State.rxPaused (s : State) (p prio : Nat) : Bool :=
  match (s.pauseOf p prio).until_ with | some t => decide (s.frc < t) | none => false

def State.rxPausedMask (s : State) (p : Nat) : Nat :=
  (List.range 8).foldl (fun m q => if s.rxPaused p q then m + 2 ^ q else m) 0

/-- Ticks of `n` quanta at a port's rate: a quantum is 5.12 ns at 100 Gbit/s (R96). -/
def State.quantaTicks (s : State) (p n : Nat) : Nat := ceilDiv (64 * n) (10 * s.portRate p)

/-- Load the timer of a priority: quanta 0 clears it. -/
def State.pauseLoad (s : State) (p prio n : Nat) : State :=
  let x := s.pauseOf p prio
  if n = 0 then s.putPause p prio { x with until_ := none, clearAt := s.frc }
  else s.putPause p prio
    { x with until_ := some (s.frc + s.quantaTicks p n), since := if s.rxPaused p prio then x.since else s.frc }

/-- A pause frame is received: `pfc` false is a link-level PAUSE, of quanta `quanta 0`. -/
def State.pauseRx (s : State) (p : Nat) (pfc : Bool) (vector : Nat) (quanta : Nat → Nat) : State :=
  let mode := s.get PORT.FC_MODE p
  if !((mode == 1 && pfc) || (mode == 2 && !pfc)) then s.inc PORT.PAUSE_IGNORED p
  else if pfc then
    let named := (List.range 8).filter (fun q => bit vector q)
    let s := named.foldl (fun s q => s.when (quanta q != 0) (fun s => s.inc PORT.PFC_RX_XOFF p q)) s
    let s := s.when (named.all (fun q => quanta q == 0)) (fun s => s.inc PORT.XON_RX p)
    named.foldl (fun s q => s.when (s.bitOf PORT.PFC_RX_EN q p) (fun s => s.pauseLoad p q (quanta q))) s
  else
    let s := s.inc (if quanta 0 = 0 then PORT.XON_RX else PORT.PAUSE_RX) p
    upTo 8 (fun q s => s.pauseLoad p q (quanta 0)) s

/-- PAUSE_FRAME_RX: a received pause frame, in UP. It counts as a frame of 64 B (R313; log 75). -/
def execPauseFrameRx (p : Fin 1024) (pfc : Bool) (vector : Byte) (q0 q1 q2 q3 q4 q5 q6 q7 : BitVec 16) (s : State) : Result :=
  .next (s.when (s.portUp p.val && s.live) (fun s =>
    (s.bwCount p.val 0 64).pauseRx p.val pfc vector.toNat (fun k => (([q0, q1, q2, q3, q4, q5, q6, q7].getD k 0)).toNat)))

/-- PAUSE_TIMER_EXPIRE: a priority's timer has reached zero. -/
def State.pauseExpire (s : State) (p prio : Nat) : State :=
  let x := s.pauseOf p prio
  match x.until_ with
  | some t => if t ≤ s.frc then s.putPause p prio { x with until_ := none, clearAt := t } else s
  | none => s

def execPauseTimerExpire (p : Fin 1024) (prio : Fin 8) (s : State) : Result := .next (s.pauseExpire p.val prio.val)

/-- The port leaves UP or is reset: its received-pause state is cleared (R91). -/
def State.pauseClear (s : State) (p : Nat) : State :=
  upTo 8 (fun q s => match (s.pauseOf p q).until_ with | some _ => s.pauseLoad p q 0 | none => s) s

/-! ### Pause frames sent (R95) -/

/-- Quanta that a pause frame of the port requests on a priority now. -/
def State.pauseValue (s : State) (p q : Nat) : Nat := if s.asserted p q then s.get PORT.XOFF_QUANTA p else 0

/-- A pause frame of port `p` with its body after the source address. -/
def State.pauseFrame (s : State) (p : Nat) (body : List Byte) : List Byte :=
  let l := [0x01, 0x80, 0xC2, 0x00, 0x00, 0x01] ++ leBytes 6 (s.get PORT.MAC_SA p) ++ beBytes 2 0x8808 ++ body
  padTo 60 l ++ fcsOf (padTo 60 l)

/-- Note when the asserted priorities of a port were last announced. -/
def State.pauseStamp (s : State) (p : Nat) : State :=
  upTo 8 (fun q s => s.when (s.asserted p q) (fun s =>
    { s with buf := { s.buf with pauseAt := tabPut s.buf.pauseAt (8 * p + q) s.frc } })) s

/-- Send the port's pause frame as things stand. -/
def State.pauseSend (s : State) (p : Nat) : State :=
  match s.get PORT.FC_MODE p with
  | 1 =>
    let en := s.get PORT.PFC_TX_EN p
    let v := fun q => if bit en q then s.pauseValue p q else 0
    let f := s.pauseFrame p (beBytes 2 0x0101 ++ beBytes 2 en ++ (List.range 8).flatMap (fun q => beBytes 2 (v q)))
    let s := ((s.emit (.pause p f)).bwCount p 1 f.length).pauseStamp p
    let s := upTo 8 (fun q s => s.when (v q != 0) (fun s => s.inc PORT.PFC_TX_XOFF p q)) s
    s.when ((List.range 8).all (fun q => v q == 0)) (fun s => s.inc PORT.XON_TX p)
  | 2 =>
    let n := if s.assertedMask p = 0 then 0 else s.get PORT.XOFF_QUANTA p
    let f := s.pauseFrame p (beBytes 2 0x0001 ++ beBytes 2 n)
    let s := ((s.emit (.pause p f)).bwCount p 1 f.length).pauseStamp p
    s.inc (if n = 0 then PORT.XON_TX else PORT.PAUSE_TX) p
  | _ => s

/-- PAUSE_TX: a port in UP that owes a pause frame sends it. -/
def State.pauseTx (s : State) (p : Nat) : State :=
  if s.portUp p && s.live && s.buf.pauseDue.contains p then
    State.pauseSend { s with buf := { s.buf with pauseDue := s.buf.pauseDue.filter (fun x => x != p) } } p
  else s

def execPauseTx (p : Fin 1024) (s : State) : Result := .next (s.pauseTx p.val)

/-- A priority of a port takes part in the port's pause frames. -/
def State.pauseMember (s : State) (p q : Nat) : Bool :=
  (s.get PORT.FC_MODE p == 1 && s.bitOf PORT.PFC_TX_EN q p) || s.get PORT.FC_MODE p == 2

/-- PAUSE_REFRESH: REFRESH quanta after an asserted priority was last announced, the frame is repeated. -/
def State.pauseRefresh (s : State) (p q : Nat) : State :=
  if s.portUp p && s.live && s.asserted p q && s.pauseMember p q &&
      s.elapsed (tabGet 0 s.buf.pauseAt (8 * p + q)) (s.quantaTicks p (s.get PORT.REFRESH p)) then s.pauseSend p
  else s

def execPauseRefresh (p : Fin 1024) (prio : Fin 8) (s : State) : Result := .next (s.pauseRefresh p.val prio.val)

/-! ### Storm guard (R98, R99) -/

def State.stormActive (s : State) (p q : Nat) : Bool := s.bitOf PORT.STORM_ACTIVE q p

/-- Whether T_STORM has passed with the pause in force: none when a clear within 2 ns of it leaves either order open. -/
def State.stormDue (s : State) (p q : Nat) : Option Bool :=
  let x := s.pauseOf p q
  let due := x.since + s.get PORT.T_STORM p * ticksPerMs
  match x.until_ with
  | some t =>
    if s.frc < t then some (decide (due ≤ s.frc))
    else if t + 2 < due then some false else if due + 2 < t then some true else none
  | none => if due ≤ x.clearAt + 2 && x.clearAt ≤ due + 2 then none else some false

/-- Storm state begins. -/
def State.stormBegin (s : State) (p q : Nat) : State :=
  ((s.setBit PORT.STORM_ACTIVE q p).portEvent PORT.EV_STORM_ENTER PORT.IE_STORM_ENTER p).fault srcStorm p

/-- STORM_ENTER: the received pause of a priority has been in force for T_STORM. -/
def State.stormEnter (s : State) (p q : Nat) : State :=
  if s.isPort p && s.flag PORT.STORM_EN p && !s.stormActive p q && s.live then
    match s.stormDue p q with
    | some true => s.stormBegin p q
    | some false => s
    | none => s.draw.when (Config.freeChoice s.draws % 2 == 0) (fun s => s.stormBegin p q)
  else s

def execStormEnter (p : Fin 1024) (prio : Fin 8) (s : State) : Result := .next (s.stormEnter p.val prio.val)

/-- Storm state ends. -/
def State.stormEnd (s : State) (p q : Nat) : State :=
  (s.clearBit PORT.STORM_ACTIVE q p).portEvent PORT.EV_STORM_EXIT PORT.IE_STORM_EXIT p

/-- STORM_EXIT: the pause has stayed clear for HYST. -/
def State.stormExit (s : State) (p q : Nat) : State :=
  let x := s.pauseOf p q
  let clear := match x.until_ with | some t => t | none => x.clearAt
  if s.stormActive p q && !s.rxPaused p q && s.elapsed clear (s.get PORT.HYST p * ticksPerMs) then s.stormEnd p q else s

def execStormExit (p : Fin 1024) (prio : Fin 8) (s : State) : Result := .next (s.stormExit p.val prio.val)

/-! ### Frames cut short -/

/-- The frame that a port is receiving is discarded, wherever its segments are. -/
def State.rxDrop (s : State) (p : Nat) : State :=
  match (tabGet {} s.buf.rx p).at_ with
  | .fifo r =>
    match (s.inList r).getLast? with
    | some (.fifo f) =>
      if f.port = p && !f.done then (s.setList r (s.inList r).dropLast).uncharge f else s
    | _ => s
  | .stored h =>
    let x := s.getStore h
    if (tabFind s.buf.store h).isSome && x.f.port == p && !x.f.done then
      let r := x.f.req
      (s.setList r ((s.inList r).filter (fun a => a != .parked h))).purge h |>.xoffEval
    else s
  | _ => s

/-- A state change cuts short the frame that a port receives (R91). -/
def State.rxAbort (s : State) (p : Nat) : State :=
  if (tabFind s.buf.rx p).isSome then
    let s := (s.rxDrop p).inc PORT.RX_ERRORS p
    { s with buf := { s.buf with rx := tabDel s.buf.rx p } }
  else s

/-- The frame that a port sends is cut short with an inverted FCS; its instance is discarded (R91, R434). -/
def State.txCut (s : State) (p : Nat) : State :=
  match tabFind s.que.tx p with
  | some t =>
    let s := s.txStomp p t
    let s := { s with que := { s.que with tx := tabDel s.que.tx p } }
    match t.item with
    | .inst e => s.instEnd e.i
    | .card _ _ => s
  | none => s

/-! ### The link state machine (R89 to R91) -/

/-- The state machine is frozen by a full load (R68). -/
def State.frozen (s : State) (p : Nat) : Bool := s.img.frozen.contains p

/-- The link is OK (R89). -/
def State.linkOk (s : State) (p : Nat) : Bool :=
  s.get PORT.AM_LOCKED p == s.get PORT.PCS_LANES p && s.flag PORT.DESKEW_OK p && !s.flag PORT.HI_SER p &&
    !s.flag PORT.LF_RX p && !s.flag PORT.RF_RX p

def State.linkRec (s : State) (p : Nat) : LinkSt := tabGet {} s.buf.link p

def State.putLink (s : State) (p : Nat) (x : LinkSt) : State := { s with buf := { s.buf with link := tabPut s.buf.link p x } }

/-- The first of AN, TRAINING and ALIGN that the port's settings allow. -/
def State.firstState (s : State) (p : Nat) : Nat :=
  if s.flag PORT.AN_EN p then linkAn else if s.flag PORT.LT_EN p then linkTraining else linkAlign

/-- The state after AN, by LT_EN as it was at the entry to the first state (R90). -/
def State.afterAn (s : State) (p : Nat) : Nat := if (s.linkRec p).lt then linkTraining else linkAlign

/-! ### What the transmitters send (R80, R92, R100, R103) -/

/-- The link is not OK for a local reason, or the receiver sees Local Fault: Remote Fault is sent (R92). -/
def State.sendsRemoteFault (s : State) (p : Nat) : Bool :=
  s.flag PORT.LF_RX p || s.get PORT.AM_LOCKED p != s.get PORT.PCS_LANES p || !s.flag PORT.DESKEW_OK p || s.flag PORT.HI_SER p

/-- The settings of a lane's generator. -/
def State.genSet (s : State) (lane : Nat) : GenSet :=
  { pat := s.get LANE.GEN_PATTERN lane, inv := s.flag LANE.GEN_INVERT lane, user := s.get LANE.USER lane
    rate := if s.get LANE.INJ_MODE lane = 3 then some (s.get LANE.RATE_EXP lane) else none }

/-- What a lane of a port in TEST sends. -/
def State.testSig (s : State) (p lane : Nat) : LineSig :=
  if s.get PORT.LOOPBACK p = 1 then .idles
  else if s.get PORT.LOOPBACK p = 2 then .returned
  else if s.flag LANE.GEN_EN lane && s.lcState != lcRetired then
    let m := s.genSet lane
    .pattern m.pat m.inv m.user m.rate
  else .idles

/-- A full load is between its steps 1 and 4 (R67). -/
def State.imgConfiguring (s : State) : Bool :=
  match s.img.cmd with | some c => c.phase == .configuring | none => false

/-- What a lane of port `p` sends: in every other state than those named, the port's own signal. -/
def State.portSig (s : State) (p lane : Nat) : LineSig :=
  let st := s.linkState p
  if st = linkDisabled then .electricalIdle
  else if st = linkSafe || s.imgConfiguring then .localFault
  else if st = linkTest then s.testSig p lane
  else if st = linkAn then
    .negotiate (s.desc p 2 1) (s.get PORT.FC_MODE p == 2) (s.sendsRemoteFault p)
  else .link (s.sendsRemoteFault p)

/-- What a lane sends. In a module that is held in reset, without power or after a power failure, no lane sends (R368, R432). -/
def State.laneSig (s : State) (lane : Nat) : LineSig :=
  match s.portOfLane lane with
  | some p => if s.live && !s.flag PWR.PFAIL then s.portSig p lane else .electricalIdle
  | none => .electricalIdle

/-- A lane sends `x` from now on. -/
def State.lineSend (s : State) (lane : Nat) (x : LineSig) : State :=
  if tabGet .electricalIdle s.buf.line lane = x then s
  else
    let t := if x = .electricalIdle then tabDel s.buf.line lane else tabPut s.buf.line lane x
    State.emit { s with buf := { s.buf with line := t } } (.line lane x)

/-- The lanes of a port send what its state says. -/
def State.portLine (s : State) (p : Nat) : State := (s.portLanes p).foldl (fun s l => s.lineSend l (s.laneSig l)) s

/-- Every lane sends what the state says. -/
def State.allLines (s : State) : State :=
  let s := s.buf.line.foldl (fun s x => s.lineSend x.1 (s.laneSig x.1)) s
  s.portList.foldl (fun s p => s.portLine p) s

/-- No lane sends any longer. -/
def State.linesOff (s : State) : State := s.buf.line.foldl (fun s x => s.lineSend x.1 .electricalIdle) s

/-! ### Entering and leaving states -/

/-- The checkers and training of the port's lanes stop; the lanes are in another state from now on. -/
def State.lanesQuiet (s : State) (p : Nat) : State :=
  (s.portLanes p).foldl (fun s l =>
    let s := (s.setB LANE.TRAINING_ACTIVE false l).setB LANE.CHK_LOCK false l
    { s with buf := { s.buf with chk := tabDel s.buf.chk l, gen := tabDel s.buf.gen l } }) s

/-- A lane's generator starts in a state that the spec leaves open: a free value, not all zero (R100). -/
def State.genStart (s : State) (l : Nat) : State :=
  let g : Gen := { hist := (2 * Config.freeChoice s.draws + 1) % 2 ^ 31 }
  State.draw { s with buf := { s.buf with gen := tabPut s.buf.gen l g } }

/-- Enter a state other than UP. -/
def State.linkGo (s : State) (p st : Nat) : State :=
  let s := ((s.lanesQuiet p).set PORT.LINK_STATE st p).setB PORT.LINK_UP false p
  let s := s.when (st == linkAn) (fun s => s.setB PORT.AN_DONE false p)
  let s := s.when (st == linkAn || st == linkTraining) (fun s => s.setB PORT.TRAIN_DONE false p)
  let s := s.when (st == linkTraining) (fun s => (s.portLanes p).foldl (fun s l => s.trainLane l) s)
  let s := s.when (st == linkTest) (fun s => (s.portLanes p).foldl (fun s l => s.genStart l) s)
  (s.putLink p { s.linkRec p with alignAt := s.frc }).portLine p

/-- The port leaves UP, for any reason (R91, R260). -/
def State.leaveUp (s : State) (p : Nat) : State :=
  if s.portUp p then
    let s := ((s.setB PORT.LINK_UP false p).set PORT.LINK_STATE linkDisabled p).inc PORT.LINK_FLAPS p
    (((s.portEvent PORT.EV_LINK_DOWN_EVT PORT.IE_LINK_DOWN_EVT p).pauseClear p).rxAbort p).portHold p
  else s

/-- Leave the state of a port for another than UP. -/
def State.linkTo (s : State) (p st : Nat) : State := (s.leaveUp p).linkGo p st

/-- Leave the state of a port for the first state that its settings allow now: a change of AN_EN or LT_EN takes effect here
(R90). -/
def State.linkFirst (s : State) (p : Nat) : State :=
  let s := s.leaveUp p
  (s.putLink p { s.linkRec p with lt := s.flag PORT.LT_EN p }).linkGo p (s.firstState p)

/-- The port enters UP: a hold ends, and pause is sent at once for priorities already asserted (R95, R260). -/
def State.enterUp (s : State) (p : Nat) : State :=
  let s := ((s.set PORT.LINK_STATE linkUp p).setB PORT.LINK_UP true p).setB QSCH.HOLD_ACTIVE false p
  let s := (s.portEvent PORT.EV_LINK_UP_EVT PORT.IE_LINK_UP_EVT p).portLine p
  s.when ((List.range 8).any (fun q => s.asserted p q && s.pauseMember p q)) (fun s => s.pauseOwe p)

/-- Traffic may run: the lanes are calibrated, the running image is configured (R77), no image is being applied, the module
is not in SERVICE (R407), and no safe state holds the ports. -/
def State.portsGo (s : State) : Bool :=
  s.live && s.flag IMG.READY && s.lcState != lcService && s.flag GLB.LANES_READY && !s.flag FLT.MODULE_SAFE &&
    !s.flag PWR.PFAIL && (match s.img.cmd with | some c => c.phase != .configuring | none => true) && s.get IMG.RUN_SRC != 0

/-- A DISABLED port proceeds as its settings say. In RETIRED it stays DISABLED (R416). -/
def State.portStart (s : State) (p : Nat) : State :=
  if s.isPort p && s.lcState != lcRetired && s.linkState p == linkDisabled && !s.bitOf FLT.PORT_SAFE (p % 32) (p / 32) then
    if s.flag PORT.TEST_MODE p && s.live then s.linkGo p linkTest
    else if s.flag PORT.ADMIN_UP p && s.portsGo then s.linkFirst p else s
  else s

/-- The port is in a state, and its state machine runs. -/
def State.inState (s : State) (p st : Nat) : Bool := s.isPort p && s.live && s.linkState p == st && !s.frozen p

/-- AN_FAIL: auto-negotiation restarts. -/
def State.anFail (s : State) (p : Nat) : State :=
  if s.inState p linkAn then (s.portEvent PORT.EV_AN_FAIL PORT.IE_AN_FAIL p).linkFirst p else s

/-- AN_COMPLETE, with the partner's pause ability bits. It fails where the technology resolved is not the port's own (R80). -/
def State.anComplete (s : State) (p tech lp : Nat) : State :=
  if !s.inState p linkAn then s
  else
    let s := s.set PORT.LP_PAUSE lp p
    if tech != s.desc p 2 1 then s.anFail p else (s.setB PORT.AN_DONE true p).linkGo p (s.afterAn p)

def execAnComplete (p : Fin 1024) (tech : Byte) (lp : BitVec 2) (s : State) : Result :=
  .next (s.anComplete p.val tech.toNat lp.toNat)

def execAnFail (p : Fin 1024) (s : State) : Result := .next (s.anFail p.val)

/-- TRAINING_COMPLETE: on every lane. -/
def State.trainComplete (s : State) (p : Nat) : State :=
  if s.inState p linkTraining then (s.linkGo p linkAlign).setB PORT.TRAIN_DONE true p else s

def execTrainingComplete (p : Fin 1024) (s : State) : Result := .next (s.trainComplete p.val)

/-- TRAIN_FAIL: to AN, or training restarts. -/
def State.trainFail (s : State) (p : Nat) : State :=
  if s.inState p linkTraining then
    (s.portEvent PORT.EV_TRAIN_FAIL PORT.IE_TRAIN_FAIL p).linkFirst p
  else s

def execTrainFail (p : Fin 1024) (s : State) : Result := .next (s.trainFail p.val)

/-- LINK_UP: link OK has held for 1 ms in ALIGN. -/
def State.linkUpNow (s : State) (p : Nat) : State :=
  if s.inState p linkAlign && s.linkOk p && s.elapsed (s.linkRec p).okAt ticksPerMs then s.enterUp p else s

def execLinkUp (p : Fin 1024) (s : State) : Result := .next (s.linkUpNow p.val)

/-- ALIGN_TIMEOUT: not UP within the time. -/
def State.alignTimeout (s : State) (p : Nat) : State :=
  if s.inState p linkAlign && s.elapsed (s.linkRec p).alignAt (s.get PORT.ALIGN_TIMEOUT p * ticksPerMs) then
    (s.portEvent PORT.EV_ALIGN_TIMEOUT_EVT PORT.IE_ALIGN_TIMEOUT_EVT p).linkFirst p
  else s

def execAlignTimeout (p : Fin 1024) (s : State) : Result := .next (s.alignTimeout p.val)

/-- LINK_DOWN: the link has not been OK for LINK_DEBOUNCE. -/
def State.linkDownNow (s : State) (p : Nat) : State :=
  if s.inState p linkUp && !s.linkOk p && s.elapsed (s.linkRec p).okAt (s.get PORT.LINK_DEBOUNCE p * 125000) then
    s.linkTo p linkAlign
  else s

def execLinkDown (p : Fin 1024) (s : State) : Result := .next (s.linkDownNow p.val)

/-- A write of ADMIN_UP. In SERVICE it is ignored (R414). -/
def State.adminUp (s : State) (p : Nat) (v : Bool) : State :=
  if !s.isPort p || s.lcState == lcService then s
  else
    let s := s.setB PORT.ADMIN_UP v p
    if v then (if s.frozen p then s else s.portStart p)
    else if s.frozen p || s.linkState p == linkTest || s.linkState p == linkSafe || s.linkState p == linkDisabled then s
    else s.linkTo p linkDisabled

def execPortEnable (p : Fin 1024) (s : State) : Result := .next (s.viaHost PORT.ADMIN_UP (fun s => s.adminUp p.val true))
def execPortDisable (p : Fin 1024) (s : State) : Result := .next (s.viaHost PORT.ADMIN_UP (fun s => s.adminUp p.val false))

/-- A write of TEST_MODE. -/
def State.testMode (s : State) (p : Nat) (v : Bool) : State :=
  if !s.isPort p then s
  else
    let s := s.setB PORT.TEST_MODE v p
    if s.frozen p || s.lcState == lcRetired then s
    else if v then (if s.linkState p == linkSafe || s.linkState p == linkTest then s else s.linkTo p linkTest)
    else if s.linkState p == linkTest then (s.linkTo p linkDisabled).portStart p else s

/-- A freeze of a port's state machine ends: what was written of ADMIN_UP and TEST_MODE meanwhile takes effect (R68). -/
def State.portSettle (s : State) (p : Nat) : State :=
  let st := s.linkState p
  if s.flag PORT.TEST_MODE p != (st == linkTest) then s.testMode p (s.flag PORT.TEST_MODE p)
  else if !s.flag PORT.ADMIN_UP p && decide (linkAn ≤ st) && decide (st ≤ linkUp) then s.linkTo p linkDisabled
  else s

def execTestEnter (p : Fin 1024) (s : State) : Result := .next (s.viaHost PORT.TEST_MODE (fun s => s.testMode p.val true))
def execTestExit (p : Fin 1024) (s : State) : Result := .next (s.viaHost PORT.TEST_MODE (fun s => s.testMode p.val false))

/-- A write of RESTART. -/
def State.portRestart (s : State) (p : Nat) : State :=
  let st := s.linkState p
  if s.isPort p && !s.frozen p && decide (linkAn ≤ st) && decide (st ≤ linkUp) then s.linkFirst p else s

def execPortRestart (p : Fin 1024) (s : State) : Result := .next (s.viaHost PORT.RESTART (fun s => s.portRestart p.val))

/-- A write of FEC_CLEAR. -/
def State.fecClear (s : State) (p : Nat) : State :=
  let s := (((s.set PORT.CW_TOTAL 0 p).set PORT.CW_CORR 0 p).set PORT.CW_UNCORR 0 p).set PORT.SYM_CORR 0 p
  upTo 16 (fun b s => s.set PORT.FEC_BIN 0 p b) s

def execFecClear (p : Fin 1024) (s : State) : Result :=
  .next (s.viaHost PORT.FEC_CLEAR (fun s => s.when (s.isPort p.val) (fun s => s.fecClear p.val)))

/-- Codewords received: each with its number of corrected symbols, or uncorrectable. -/
def State.fecCount (s : State) (p : Nat) (l : List (Option (Fin 16))) : State :=
  l.foldl (fun s c =>
    let s := s.inc PORT.CW_TOTAL p
    match c with
    | none => s.inc PORT.CW_UNCORR p
    | some b =>
      ((s.when (b.val != 0) (fun s => s.inc PORT.CW_CORR p)).add PORT.SYM_CORR b.val p).inc PORT.FEC_BIN p b.val) s

/-- What the receiver of a port reports changes (R89): Local and Remote Fault, high symbol error rate, deskew, PCS lanes
locked; and the codewords decoded since the last change. -/
def State.linkChange (s : State) (p : Nat) (lf rf hiSer deskew : Bool) (am : Nat) (cw : List (Option (Fin 16))) : State :=
  if !s.isPort p || !s.live then s
  else
    let was := s.linkOk p
    let rose := hiSer && !s.flag PORT.HI_SER p
    let s := (((s.setB PORT.LF_RX lf p).setB PORT.RF_RX rf p).setB PORT.HI_SER hiSer p).setB PORT.DESKEW_OK deskew p
    let s := ((s.set PORT.AM_LOCKED am p).fecCount p cw).when rose (fun s => s.portEvent PORT.EV_HI_SER_EVT PORT.IE_HI_SER_EVT p)
    (s.when (s.linkOk p != was) (fun s => s.putLink p { s.linkRec p with okAt := s.frc })).portLine p

def execLinkOkChange (p : Fin 1024) (lf rf hiSer deskew : Bool) (am : BitVec 6) (cw : List (Option (Fin 16))) (s : State) :
    Result := .next (s.linkChange p.val lf rf hiSer deskew am.toNat cw)

/-- CHIPLET_REFCLK_LOST: the lanes of chiplet n lose lock, their ports leave UP under R90, and a minor fault is raised
(R454). -/
def State.chipletLost (s : State) (n : Nat) : State :=
  let s := upTo 128 (fun k s =>
    let lane := 128 * n + k
    let s := s.setB LANE.CDR_LOCK false lane
    if s.isPort lane then
      let was := s.linkOk lane
      let s := (s.setB PORT.DESKEW_OK false lane).set PORT.AM_LOCKED 0 lane
      (s.when was (fun s => s.putLink lane { s.linkRec lane with okAt := s.frc })).portLine lane
    else s) s
  s.fault srcChipletRef n

/-! ### Safe state and resets of ports (R91, R398, R399, R434) -/

/-- A port enters SAFE. The frame it sends is completed; `cut`: the module enters safe state, and it is cut short (R91). -/
def State.portSafe (s : State) (p : Nat) (cut : Bool) : State :=
  if s.isPort p && s.linkState p != linkSafe then (s.when cut (fun s => s.txCut p)).linkTo p linkSafe
  else s.when (cut && s.isPort p) (fun s => s.txCut p)

/-- A port leaves SAFE for DISABLED and proceeds under R90. -/
def State.portLeaveSafe (s : State) (p : Nat) : State :=
  if s.isPort p && s.linkState p == linkSafe then (s.linkGo p linkDisabled).portStart p else s

/-- A port goes to DISABLED from any state; the frame it sends is completed (R91). -/
def State.portDown (s : State) (p : Nat) : State := if s.isPort p then s.linkTo p linkDisabled else s

/-- Every front port goes to DISABLED. -/
def State.allPortsDisabled (s : State) : State := s.portList.foldl (fun s p => s.portDown p) s

/-- The port reset of R434. While module safe state holds, the port stays in SAFE: only a reset of the module ends it
(R398). -/
def State.portReset (s : State) (p : Nat) : State :=
  if !s.isPort p then s
  else
    let s := ((s.txCut p).leaveUp p).pauseClear p
    let s := s.when (s.get PORT.STORM_ACTIVE p != 0) (fun s =>
      (s.set PORT.STORM_ACTIVE 0 p).portEvent PORT.EV_STORM_EXIT PORT.IE_STORM_EXIT p)
    let s := (((s.setB PORT.LF_RX false p).setB PORT.RF_RX false p).setB PORT.HI_SER false p).setB PORT.DESKEW_OK false p
    let s := (((s.set PORT.AM_LOCKED 0 p).set PORT.LP_PAUSE 0 p).setB PORT.AN_DONE false p).setB PORT.TRAIN_DONE false p
    let s := (s.portLanes p).foldl (fun s l => s.adaptRestart l) s
    let s := s.clearBit FLT.PORT_SAFE (p % 32) (p / 32)
    if s.flag FLT.MODULE_SAFE then s.linkGo p linkSafe else (s.linkGo p linkDisabled).portStart p

/-- LANES_READY: lane calibration has completed; ports with ADMIN_UP = 1 leave DISABLED (R428 step 9). -/
def State.lanesReady (s : State) : State :=
  if s.live && s.flag IMG.READY && !s.flag GLB.LANES_READY then
    let s := (s.setB GLB.LANES_READY true).set GLB.STEP 9
    s.portList.foldl (fun s p => s.portStart p) s
  else s

def execLanesReady (s : State) : Result := .next s.lanesReady

/-! ### Patterns (R100 to R102) -/

/-- The pattern units of a lane work: its port is in TEST, and the module is not RETIRED. -/
def State.laneTest (s : State) (lane : Nat) : Bool :=
  match s.portOfLane lane with
  | some p => s.linkState p == linkTest && s.live && s.lcState != lcRetired
  | none => false

/-- The settings of a lane's checker. -/
def State.chkSet (s : State) (lane : Nat) : ChkSet :=
  { pat := s.get LANE.CHK_PATTERN lane, inv := s.flag LANE.CHK_INVERT lane, user := s.get LANE.USER lane }

/-- The next `n` symbols of a lane's generator. -/
def State.genTake (s : State) (lane n : Nat) : List Nat × State :=
  let (bs, g) := Gen.bits (2 * n) (tabGet {} s.buf.gen lane) (s.genSet lane)
  (pamLevels bs, { s with buf := { s.buf with gen := tabPut s.buf.gen lane g } })

/-- Polarity inversion turns a level round (R104). -/
def polarity (inv : Bool) (level : Nat) : Nat := if inv then 3 - level else level

/-- The symbols that the lane's checker sees for `syms` at its contacts: in the near-end loopback what its own generator sends
(R103). -/
def State.chkSees (s : State) (lane : Nat) (syms : List Nat) : List Nat × State :=
  match s.portOfLane lane with
  | some p =>
    if s.get PORT.LOOPBACK p = 1 && s.flag LANE.GEN_EN lane then
      let (l, s) := s.genTake lane syms.length
      (l.map (fun x => polarity (s.flag LANE.RX_POL lane != s.flag LANE.TX_POL lane) x), s)
    else (syms.map (fun x => polarity (s.flag LANE.RX_POL lane) x), s)
  | none => (syms, s)

/-- The checker of a lane takes received symbols: it locks, counts while it is locked, and loses its lock (R101). -/
def State.chkFeed (s : State) (lane : Nat) (syms : List Nat) : State :=
  if !(s.laneTest lane && s.flag LANE.CHK_EN lane) then s
  else
    let (l, s) := s.chkSees lane syms
    let m := s.chkSet lane
    let r : ChkRun := { c := tabGet {} s.buf.chk lane, lock := s.flag LANE.CHK_LOCK lane }
    let r := l.foldl (fun r x => r.symbol m x) r
    let s := { s with buf := { s.buf with chk := tabPut s.buf.chk lane r.c } }
    let s := ((s.add LANE.BITS_CHECKED r.bits lane).add LANE.BIT_ERRORS r.errs lane).add LANE.SYM_ERRORS r.syms lane
    (s.setB LANE.CHK_LOCK r.lock lane).when r.lost (fun s => s.setB LANE.LOCK_LOST true lane)

/-- CHK_LOCK: the symbols received up to those that lock the checker. -/
def execChkLock (lane : Fin 1024) (syms : List (Fin 4)) (s : State) : Result :=
  .next (s.chkFeed lane.val (syms.map (fun x => x.val)))

/-- LOCK_LOST: the symbols received up to those that lose the lock. -/
def execLockLost (lane : Fin 1024) (syms : List (Fin 4)) (s : State) : Result :=
  .next (s.chkFeed lane.val (syms.map (fun x => x.val)))

/-- CHK_CLEAR, and a change of CHK_EN from 0 to 1. -/
def State.chkClear (s : State) (lane : Nat) : State :=
  (((s.set LANE.BIT_ERRORS 0 lane).set LANE.SYM_ERRORS 0 lane).set LANE.BITS_CHECKED 0 lane).setB LANE.LOCK_LOST false lane

def execChkClear (lane : Fin 1024) (s : State) : Result :=
  .next (s.viaHost LANE.CHK_CLEAR (fun s => s.when (s.portOfLane lane.val).isSome (fun s => s.chkClear lane.val)))

/-- Invert transmitted bits of a lane as INJ_MODE says. -/
def State.laneInject (s : State) (lane : Nat) : State :=
  match s.get LANE.INJ_MODE lane with
  | 1 => s.emit (.flip lane 1)
  | 2 => s.emit (.flip lane (s.get LANE.BURST_LEN lane))
  | 3 => s.emit (.flipRate lane (s.get LANE.RATE_EXP lane))
  | _ => s

/-- INJECT: a single error or a burst in the generated pattern. In mode 3 the errors come without it (`GenSet.rate`), and in
the other modes the write does nothing. -/
def State.genInject (s : State) (lane : Nat) : State :=
  if s.laneTest lane && s.flag LANE.GEN_EN lane && s.get LANE.INJ_MODE lane != 3 then
    let n := match s.get LANE.INJ_MODE lane with | 1 => 1 | 2 => s.get LANE.BURST_LEN lane | _ => 0
    let g := tabGet {} s.buf.gen lane
    State.laneInject { s with buf := { s.buf with gen := tabPut s.buf.gen lane { g with flips := g.flips + n } } } lane
  else s

def execInject (lane : Fin 1024) (s : State) : Result := .next (s.viaHost LANE.INJECT (fun s => s.genInject lane.val))

/-! ### SyncE (R290) -/

/-- Whether output `k` is squelched. -/
def State.synceSquelch (s : State) (k : Nat) : Bool :=
  !s.flag TIME.SY_EN k || (s.portOfLane (s.get TIME.SY_LANE k)).isNone || !s.flag LANE.CDR_LOCK (s.get TIME.SY_LANE k)

/-- Recompute SQUELCHED; an output that leaves squelch, or whose LANE changed, is held low for 1 µs. -/
def State.synceUpdate (s : State) (k : Nat) (laneChanged : Bool) : State :=
  let was := s.flag TIME.SY_SQUELCHED k
  let is := s.synceSquelch k
  let s := s.setB TIME.SY_SQUELCHED is k
  s.when ((was && !is) || laneChanged) (fun s =>
    { s with time := { s.time with synceLow := tabPut s.time.synceLow k (s.frc + ticksPerUs) } })

/-- CDR_LOCK_CHANGE of a lane (R290). -/
def State.cdrLock (s : State) (lane : Nat) (signal lock : Bool) : State :=
  upTo 2 (fun k s => s.synceUpdate k false) ((s.setB LANE.SIGNAL_DETECT signal lane).setB LANE.CDR_LOCK (signal && lock) lane)

def execCdrLockChange (lane : Fin 1024) (signal lock : Bool) (s : State) : Result := .next (s.cdrLock lane.val signal lock)

end Sys2Proof.Machine
end

