-- ==== Sys2Proof/Machine/Parser.lean ====
section
/-!
DEFINITION. The parse engine (R106 to R123): the walk over the image's graph, the parser metadata, malformed packets and the
slow path; and with it admission into Crucible (R219 to R221, R226) and the parser's arbitration (R25, R49).
-/
namespace Sys2Proof.Machine
open Reg

/-! ### The walk (R107 to R112, R118) -/

/-- What the walk reads: a graph (R114, R115), the window, the frame's length and whether it ends within the window, the
limits of the port and pipe, and the number of the free bytes that stand for bytes the frame does not have. -/
structure WalkEnv where
  graph : List Byte
  win : List Byte
  len : Nat
  known : Bool
  maxFrame : Nat
  runt : Nat
  spEnable : Nat
  seed : Nat

/-- Where the walk stands. `flags`: IPV4_OPT, FRAG, HBH, TTL_LE1. -/
structure Walk where
  rec_ : List Byte := zeros 112
  cursor : Nat := 0
  state : Nat := 0
  states : Nat := 0
  marks : List Nat := [0, 0, 0, 0]
  markValid : Nat := 0
  origin : Option Nat := none
  strip : Nat := 0
  decl : Option Nat := none
  dlenSet : Bool := false
  outer : Nat := 0
  prev6 : Bool := false
  ext : List Nat := [0, 0, 0, 0, 0, 0, 0, 0]
  flags : Nat := 0

/-- How a walk ends. -/
inductive WalkEnd where
  | accept
  | slow (reason : Nat)
  | bad (cause : Nat)
  deriving DecidableEq, Repr

/-- Byte `p` of the window; a free byte where the frame has none (log 20). -/
def WalkEnv.byte (e : WalkEnv) (p : Nat) : Nat :=
  match e.win[p]? with
  | some b => b.toNat
  | none => (Config.freeWindow e.seed p).toNat

/-- Big-endian word of `n` bytes at `p`. -/
def WalkEnv.word (e : WalkEnv) (p n : Nat) : Nat := (List.range n).foldl (fun a k => a * 256 + e.byte (p + k)) 0

/-- A read of `n` bytes at `p` leaves the frame or the window. -/
def WalkEnv.outside (e : WalkEnv) (p n : Nat) : Bool := n != 0 && decide (e.win.length < p + n)

/-- The entry of state `i` (R115). -/
def WalkEnv.entry (e : WalkEnv) (i : Nat) : List Byte := slice e.graph (128 + 160 * i) 160

/-- HDR_LEN of a state at a cursor. -/
def WalkEnv.hdrLen (e : WalkEnv) (st : List Byte) (cur : Nat) : Nat :=
  if bit (le st 0 2) 12 then
    let w := e.word (cur + byteAt st 4) 2
    le st 2 2 + (((w / 2 ^ bits (byteAt st 5) 0 4) &&& le st 6 2) * 2 ^ bits (byteAt st 5) 4 3)
  else le st 2 2

/-- NEXT of transition `i`. -/
def transNext (st : List Byte) (i : Nat) : Nat := le st (0x14 + 12 * i + 8) 2

/-- The state has a transition in use. -/
def hasTrans (st : List Byte) : Bool := (List.range 8).any (fun i => transNext st i != 0xFFFF)

/-- SRC_OFF, LEN and DST_OFF of extraction `i`. -/
def extractOf (st : List Byte) (i : Nat) : Nat × Nat × Nat :=
  (byteAt st (0x74 + 4 * i), byteAt st (0x75 + 4 * i), byteAt st (0x76 + 4 * i))

/-- A byte that the state reads lies outside (R108, step 2). -/
def WalkEnv.readsOutside (e : WalkEnv) (k : Walk) (st : List Byte) (hlen : Nat) : Bool :=
  let c := le st 0 2
  e.outside k.cursor hlen || (bit c 12 && e.outside (k.cursor + byteAt st 4) 2) ||
    (bit c 13 && !k.dlenSet && e.outside (k.cursor + byteAt st 8) 2) ||
    (hasTrans st && e.outside (k.cursor + byteAt st 0x0C) 4) ||
    (List.range 8).any (fun i => let x := extractOf st i; e.outside (k.cursor + x.1) x.2.1)

/-- The next-state code (R109). -/
def WalkEnv.next (e : WalkEnv) (k : Walk) (st : List Byte) : Nat :=
  let w := e.word (k.cursor + byteAt st 0x0C) 4 &&& le st 0x10 4
  match (List.range 8).find? (fun i => transNext st i != 0xFFFF &&
    (w &&& le st (0x14 + 12 * i + 4) 4) == le st (0x14 + 12 * i) 4) with
  | some i => transNext st i
  | none => le st 0x0E 2

/-- The state's extractions (R110); a command whose source leaves the frame or the window writes nothing (R120). -/
def WalkEnv.extract (e : WalkEnv) (k : Walk) (st : List Byte) : List Byte :=
  (List.range 8).foldl (fun r i =>
    let x := extractOf st i
    if e.outside (k.cursor + x.1) x.2.1 then r else overlay r x.2.2 (slice e.win (k.cursor + x.1) x.2.1)) k.rec_

/-- A finding of one state: causes, and slow-path reasons that SP_ENABLE governs. -/
structure Finding where
  causes : List Nat := []
  reasons : List Nat := []

/-- CHECK of a state (R118, R121, R122): the walk with its flags and chain counts, and what is found. -/
def WalkEnv.check (e : WalkEnv) (k : Walk) (st : List Byte) : Walk × Finding :=
  let c := le st 0 2
  let cur := k.cursor
  let set := fun (f : Nat) (b : Bool) (i : Nat) => if b then bitSet f i else f
  match bits c 4 3 with
  | 1 =>
    let k := { k with outer := k.outer + 1, prev6 := false }
    let outer := k.outer == 1
    let ihl := e.byte cur % 16
    let frag := bits (e.word (cur + 6) 2) 0 14 != 0
    let opt := decide (5 < ihl)
    let bad3 := e.byte cur / 16 != 4 || decide (ihl < 5) || decide (e.word (cur + 2) 2 < 4 * ihl)
    let sum := ocSum ((List.range (4 * ihl)).map (fun i => BitVec.ofNat 8 (e.byte (cur + i))))
    let fl := set (set (set k.flags opt 0) frag 1) (decide (e.byte (cur + 8) ≤ 1)) 3
    let k := if outer then { k with flags := fl } else k
    (k, { causes := (if bad3 then [3] else []) ++ (if sum != 0xFFFF then [4] else []),
          reasons := if outer then (if frag then [1] else []) ++ (if opt then [3] else []) else [] })
  | 2 =>
    let k := { k with outer := k.outer + 1, prev6 := true, ext := [0, 0, 0, 0, 0, 0, 0, 0] }
    (if k.outer == 1 then { k with flags := set k.flags (decide (e.byte (cur + 7) ≤ 1)) 3 } else k, {})
  | 3 =>
    let cls := bits c 7 3
    let n := k.ext.getD cls 0 + 1
    let bad7 := (cls == 1 && !k.prev6) || (cls == 2 && decide (2 < n)) || (inRange 3 7 cls && decide (1 < n))
    let outer := k.outer == 1
    let k := { k with prev6 := false, ext := k.ext.set cls n,
                      flags := set (set k.flags (outer && cls == 4) 1) (outer && cls == 1) 2 }
    (k, { causes := if bad7 then [7] else [],
          reasons := if outer then (if cls == 4 then [2] else []) ++ (if cls == 1 then [4] else []) else [] })
  | _ => ({ k with prev6 := false }, {})

/-- The declared length, where this state sets it (R112); whether it is a length mismatch. -/
def WalkEnv.declare (e : WalkEnv) (k : Walk) (st : List Byte) (hlen : Nat) : Walk × Bool :=
  if bit (le st 0 2) 13 && !k.dlenSet then
    let v := e.word (k.cursor + byteAt st 8) 2
    let d : Int := (k.cursor + v : Nat) + signed (le st 0x0A 2) 16
    if v = 0 then ({ k with dlenSet := true }, false)
    else
      let n := d.toNat
      ({ k with dlenSet := true, decl := some n },
        decide ((e.maxFrame : Int) < d) || decide (d < ((k.cursor + hlen : Nat) : Int)) ||
          (e.known && (decide (e.len < n) || (decide (n < e.len) && decide (64 < e.len)))))
  else (k, false)

/-- Marks and strip flags (R111); whether the strip candidate exceeds 192 B, in which case the earlier candidate stays. -/
def WalkEnv.mark (e : WalkEnv) (k : Walk) (st : List Byte) (hlen : Nat) : Walk × Bool :=
  let c := le st 0 2
  let m := bits c 1 3
  let at_ := if k.cursor < 512 then k.cursor else Config.freeChoice e.seed % 512
  let k := if 1 ≤ m && m ≤ 4 then { k with marks := k.marks.set (m - 1) at_, markValid := bitSet k.markValid (m - 1) } else k
  let k := if bit c 10 then { k with origin := some k.cursor } else k
  if bit c 11 then
    let n := k.cursor + hlen - k.origin.getD 0
    if 192 < n then (k, true) else ({ k with strip := n }, false)
  else (k, false)

/-- The lowest of a list of numbers. -/
def lowest (l : List Nat) : Option Nat :=
  l.foldl (fun a n => match a with | some m => some (min m n) | none => some n) none

/-- One state (R108, R118, R119, R122): the walk after it, and its end if it ends. -/
def WalkEnv.step (e : WalkEnv) (k : Walk) : Walk × Option WalkEnd :=
  let st := e.entry k.state
  let hlen := e.hdrLen st k.cursor
  let out := e.readsOutside k st hlen
  let next := e.next k st
  let k := { k with states := k.states + 1 }
  let (k1, f) := e.check k st
  let (k2, mismatch) := e.declare k1 st hlen
  let (k3, deep) := e.mark k2 st hlen
  let k4 := { k3 with rec_ := e.extract k3 st }
  let runt := next == 0x100 && decide (0 < k4.strip) && e.known && decide (e.len < e.runt + k4.strip)
  let causes := f.causes ++ (if out then [if e.known then 1 else 6] else []) ++ (if mismatch then [2] else []) ++
    (if deep then [6] else []) ++ (if 0x101 < next then [5] else []) ++
    (if next ≤ 0xFF && 24 ≤ k4.states then [6] else []) ++ (if runt then [8] else [])
  let reasons := f.reasons.filter (fun r => bit e.spEnable (r - 1)) ++ (if next = 0x101 then [6] else [])
  match lowest causes, lowest reasons with
  | some c, _ => (k4, some (.bad c))
  | none, some r => (k4, some (.slow r))
  | none, none =>
    if next = 0x100 then (k4, some .accept) else ({ k4 with state := next, cursor := k4.cursor + hlen }, none)

/-- At most `fuel` states. -/
def WalkEnv.run (e : WalkEnv) (k : Walk) : Nat → Walk × WalkEnd
  | 0 => (k, .bad 6)
  | fuel + 1 =>
    match e.step k with
    | (k, some x) => (k, x)
    | (k, none) => WalkEnv.run e k fuel

/-- The graph of a pipe (R113). -/
def State.graphOf (s : State) (pipe : Nat) : List Byte := slice (s.sect secParse) (0x48 + 41088 * s.get PARSE.GRAPH pipe) 41088

/-- Parse a frame, of which `bytes` have arrived. -/
def State.walkFrame (s : State) (pipe port : Nat) (bytes : List Byte) (done : Bool) : Walk × WalkEnd :=
  let e : WalkEnv := {
    graph := s.graphOf pipe, win := bytes.take 512, len := bytes.length, known := done && decide (bytes.length ≤ 512),
    maxFrame := s.maxFrame port, runt := s.get PARSE.RUNT_MIN pipe, spEnable := s.get PARSE.SP_ENABLE pipe, seed := s.draws }
  e.run { state := s.get PARSE.START_STATE pipe } 24

/-! ### Metadata (R117) -/

/-- What a parse is made with: the port and priority, the epoch and pass of the packet, and whether the frame ends in the
window. -/
structure ParseCtx where
  pipe : Nat
  slot : Nat
  port : Nat
  prio : Nat
  epoch : Nat
  pass : Nat
  len : Nat
  known : Bool

/-- The parser's declared length: none for a malformed packet (R120). -/
def Walk.declared (k : Walk) (x : WalkEnd) : Option Nat := match x with | .bad _ => none | _ => k.decl

/-- The walk of a frame that Crucible stored unparsed: it is handled as a frame without a declared length (R21, R220). -/
def Walk.undeclared (k : Walk) : Walk := { k with decl := none }

/-- STATUS, CAUSE and SP_REASON, given the action for the cause. -/
def WalkEnd.codes (x : WalkEnd) (action : Nat) : Nat × Nat × Nat :=
  match x with
  | .accept => (0, 0, 0)
  | .slow r => (1, 0, r)
  | .bad c => if action = 1 then (1, c, 0x10 + c - 1) else (2, c, 0)

/-- The metadata word. -/
def ParseCtx.metaWord (c : ParseCtx) (k : Walk) (x : WalkEnd) (action : Nat) : Nat :=
  let d := k.declared x
  let m := fun i => k.marks.getD i 0
  let y := x.codes action
  c.port + 2 ^ 11 * c.prio + 2 ^ 14 * c.epoch + 2 ^ 15 * c.pass + 2 ^ 18 * b2n d.isSome + 2 ^ 19 * d.getD 0 +
    2 ^ 33 * b2n c.known + 2 ^ 34 * (if c.known then c.len else 0) + 2 ^ 48 * y.1 + 2 ^ 50 * y.2.1 + 2 ^ 54 * y.2.2 +
    2 ^ 62 * k.state + 2 ^ 70 * k.states + 2 ^ 75 * k.strip + 2 ^ 83 * k.flags + 2 ^ 87 * m 0 + 2 ^ 96 * m 1 +
    2 ^ 105 * m 2 + 2 ^ 114 * m 3 + 2 ^ 124 * k.markValid

/-! ### Admission into Crucible (R219 to R221, R226) -/

/-- Chain `n` further segments to a frame: set-aside ingots first, then spilling. False when no S ingot is free: the segments
spilled until then have been counted, and their ingots are the frame's. -/
def State.growChain (s : State) (x : Stored) : Nat → Bool × Stored × State
  | 0 => (true, x, s)
  | n + 1 =>
    match x.aside with
    | g :: rest => State.growChain (s.inc CRUC.ALLOC 0) { x with aside := rest, chain := x.chain ++ [g] } n
    | [] =>
      match s.takeIngot 0 with
      | some (g, s) =>
        let s := ((s.inc CRUC.ALLOC 0).inc CRUC.SPILL_SEGS).when (!x.spilled) (fun s => s.inc CRUC.SPILL_FRAMES)
        State.growChain s { x with chain := x.chain ++ [g], spilled := true } n
      | none => (false, x, s)

/-- Store a frame under `h` with ingots for all its segments; false on a spill failure, which discards it (R221). -/
def State.fit (s : State) (h : Nat) (x : Stored) : Bool × State :=
  let from_ := (s.getStore h).f.segs
  match s.growChain x (x.f.segs - x.cap - x.chain.length) with
  | (true, x, s) => (true, (s.putStore h x).segsWritten h from_ x.f.segs)
  | (false, x, s) => (false, (((s.putStore h x).inc CRUC.SPILL_FAIL).fault srcSpill x.f.port).purge h)

/-- The frame has ended: set-aside ingots that it has not used return to the tail of the list (R220). -/
def State.endAside (s : State) (h : Nat) : State :=
  let x := s.getStore h
  x.aside.foldl (fun s g => s.giveIngot g) (s.putStore h { x with aside := [] })

/-- Allocate for a parsed frame: its handle and store entry, or none on a physical refusal. -/
def State.grantRoom (s : State) (f : Frame) (decl : Option Nat) : Option (Nat × Stored × State) :=
  match decl with
  | some d =>
    match s.allocDecl d f.hr with
    | some (h, cap, s) => some (h, { f := f, cap := cap, decl := some d }, s)
    | none => none
  | none =>
    match s.allocChain (s.maxFrame f.port) f.hr with
    | some (h :: rest, s) => some (h, { f := f, cap := 1, aside := rest }, s)
    | _ => none

/-! ### After the parse (R119 to R123) -/

/-- CAUSE_ACTION of a cause. -/
def State.causeAction (s : State) (pipe : Nat) (x : WalkEnd) : Nat :=
  match x with
  | .bad c => bits (s.get PARSE.CAUSE_ACTION pipe) (2 * (c - 1)) 2
  | _ => 3

/-- The parse is dropped before admission. -/
def State.parseDrops (s : State) (pipe : Nat) (x : WalkEnd) : Bool := s.causeAction pipe x == 0

/-- Counters of a parse that is not abandoned. -/
def State.countParse (s : State) (pipe : Nat) (k : Walk) (x : WalkEnd) : State :=
  let s := (s.inc PARSE.PASSES pipe).draw
  match x with
  | .bad c =>
    let s := ((s.inc PARSE.MALF_COUNT pipe (c - 1)).tally pipe evMalformed).set PARSE.LM_CAUSE c pipe
    ((s.set PARSE.LM_STATE k.state pipe).set PARSE.LM_CURSOR k.cursor pipe).setB PARSE.LM_VALID true pipe
  | _ => s

/-- SP_RING of a slow-path reason. -/
def State.spRing (s : State) (pipe r : Nat) : Nat :=
  s.get (match r with
    | 1 => PARSE.SP_RING1 | 2 => PARSE.SP_RING2 | 3 => PARSE.SP_RING3 | 4 => PARSE.SP_RING4 | 5 => PARSE.SP_RING5
    | _ => PARSE.SP_RING6) pipe

/-- A frame that bypasses the ingress stages becomes one instance. -/
def State.bypass (s : State) (i : Inst) : State := (s.setRefs i.h 1).enqueue { i with carry := [] }

/-- The frame goes to a receive ring under a slow-path policer, or is discarded by it (R123). -/
def State.toRing (s : State) (pipe policer ring reason : Nat) (i : Inst) : State :=
  match s.slowPass pipe policer with
  | (true, s) => s.bypass { i with queue := cpuQueue ring, reason := reason }
  | (false, s) => s.setRefs i.h 0

/-- Packets in the ingress stages of a pipe, in order. -/
def State.ingress (s : State) (pipe : Nat) : List Pkt := tabGet [] s.pipe.ing pipe

def State.setIngress (s : State) (pipe : Nat) (l : List Pkt) : State :=
  { s with pipe := { s.pipe with ing := if l.isEmpty then tabDel s.pipe.ing pipe else tabPut s.pipe.ing pipe l } }

/-- An admitted frame goes on: into the ingress stages, to a receive ring, or as a mirror copy. -/
def State.route (s : State) (c : ParseCtx) (h : Nat) (k : Walk) (x : WalkEnd) : State :=
  let act := s.causeAction c.pipe x
  let p : Pkt := {
    h := h, pipe := c.pipe, slot := c.slot, rec_ := k.rec_ ++ leBytes 16 (c.metaWord k x act), origin := k.origin.getD 0,
    quench := s.pwr.bubbles != 0 }
  match x with
  | .slow r => s.toRing c.pipe (if r = 6 then 5 else r - 1) (s.spRing c.pipe r) r (p.toInst s 0 0)
  | .bad n =>
    if act = 1 then s.toRing c.pipe 6 (s.get PARSE.MALF_RING c.pipe) (0x10 + n - 1) (p.toInst s 0 0)
    else if act = 2 then s.bypass (p.toInst s (s.get PARSE.MIRROR_QUEUE c.pipe) 2)
    else s.setIngress c.pipe (s.ingress c.pipe ++ [p])
  | .accept => s.setIngress c.pipe (s.ingress c.pipe ++ [p])

/-- A frame that has ended proves shorter than its declared length (R119). -/
def State.lateShort (s : State) (pipe : Nat) (f : Frame) (decl : Option Nat) : State :=
  match decl with
  | some d => s.when (f.done && decide (512 < f.bytes.length) && decide (f.bytes.length < d)) (fun s => s.inc PARSE.LATE_SHORT pipe)
  | none => s

/-- The first parse stamps the current epoch and counts the packet in flight (R69, R71). -/
def State.firstParse (s : State) (h : Nat) (pipe : Nat) (decl : Option Nat) : State :=
  let e := s.get IMG.EPOCH
  (s.inflightInc e).putStore h { s.getStore h with epoch := e, pipe := pipe, decl := decl }

/-- The port that is receiving the frame at the tail of list `r` receives into `h` from now on. -/
def State.rxMove (s : State) (port h : Nat) : State :=
  match tabFind s.buf.rx port with
  | some x => { s with buf := { s.buf with rx := tabPut s.buf.rx port { x with at_ := .stored h } } }
  | none => s

/-- Parse the head of the list of a front port's requester. -/
def State.parseHead (s : State) (pipe slot r : Nat) : State :=
  match s.inList r with
  | [] => s
  | .parked h :: rest =>
    let f := (s.getStore h).f
    let (k, x) := s.walkFrame pipe f.port f.bytes f.done
    let k := k.undeclared
    let s := (s.setList r rest).countParse pipe k x
    if s.parseDrops pipe x then s.release h
    else
      let c : ParseCtx := { pipe := pipe, slot := slot, port := f.port, prio := r % 8, epoch := s.get IMG.EPOCH, pass := 0,
                            len := f.bytes.length, known := f.done && decide (f.bytes.length ≤ 512) }
      ((s.firstParse h pipe none).route c h k x).xoffEval
  | .fifo f :: rest =>
    let (k, x) := s.walkFrame pipe f.port f.bytes f.done
    let decl := k.declared x
    if s.parseDrops pipe x then ((s.setList r rest).countParse pipe k x).uncharge f
    else
      match s.grantRoom f decl with
      | none => ((s.inc CRUC.PARSE_ABANDON).draw).refuse r ((decl.map fitPool).getD 0)
      | some (h, y, s) =>
        let s := (s.setList r rest).countParse pipe k x
        let s := if f.done then s else s.rxMove f.port h
        match s.fit h y with
        | (false, s) => s.xoffEval
        | (true, s) =>
          let c : ParseCtx := { pipe := pipe, slot := slot, port := f.port, prio := r % 8, epoch := s.get IMG.EPOCH, pass := 0,
                                len := f.bytes.length, known := f.done && decide (f.bytes.length ≤ 512) }
          let s := (s.tally (shardUnit pipe) evSegWrite f.segs).when f.done (fun s => s.endAside h)
          let s := s.firstParse h pipe decl
          ((s.lateShort pipe f decl).route c h k x).xoffEval

/-- Requester of a recirculated instance at its port (R222). -/
def State.recircReq (s : State) (i : Inst) (pipe : Nat) : Nat :=
  8 * recircPort pipe + s.classPrio (recircPort pipe) (queueClass i.queue)

/-- Parse the recirculated frame that waits at a pipe (R203). -/
def State.parseRecirc (s : State) (pipe slot : Nat) (w : Recirc) : State :=
  let i := w.e.i
  let port := recircPort pipe
  let r := s.recircReq i pipe
  let f : Frame := { bytes := w.bytes, done := true, port := port, req := r, ts := (s.getStore i.h).f.ts,
                       front := (s.getStore i.h).f.front }
  let (k, x) := s.walkFrame pipe port f.bytes true
  let decl := k.declared x
  let gone := fun (s : State) => { s with buf := { s.buf with recirc := tabDel s.buf.recirc pipe } }
  if s.parseDrops pipe x then ((gone (s.countParse pipe k x)).tally pipe evRecirc).instEnd i
  else
    match s.grantRoom f decl with
    | none => ((s.inc CRUC.PARSE_ABANDON).draw).refuse r ((decl.map fitPool).getD 0)
    | some (h, y, s) =>
      let s := (gone (s.countParse pipe k x)).tally pipe evRecirc
      match s.chargeSegs f false f.segs with
      | none => s
      | some (f, s) =>
        match s.fit h { y with f := f, epoch := i.epoch, pipe := pipe } with
        | (false, s) => s.instEnd i
        | (true, s) =>
          let c : ParseCtx := { pipe := pipe, slot := slot, port := port, prio := r % 8, epoch := i.epoch, pass := i.pass + 1,
                                len := f.bytes.length, known := decide (f.bytes.length ≤ 512) }
          let s := ((s.tally (shardUnit pipe) evSegWrite f.segs).endAside h).decRef i.h
          ((s.lateShort pipe f decl).route c h k x).xoffEval

/-- Frames that wait at a pipe's CPU source, in order. -/
def State.cpuList (s : State) (pipe : Nat) : List CpuFrame := tabGet [] s.buf.cpuIn pipe

def State.setCpuList (s : State) (pipe : Nat) (l : List CpuFrame) : State :=
  { s with buf := { s.buf with cpuIn := if l.isEmpty then tabDel s.buf.cpuIn pipe else tabPut s.buf.cpuIn pipe l } }

/-- A DIRECT frame takes its slot: it is not parsed, and goes to its queue (R335). -/
def State.cpuDirect (s : State) (pipe h q : Nat) : State :=
  let r := (s.getStore h).f.req
  let s := s.firstParse h pipe (s.getStore h).decl
  s.bypass { h := h, queue := q, inPort := cpuPort, req := r, inPipe := pipe, epoch := s.get IMG.EPOCH, prio := r % 8 }

/-- A CPU frame goes on after its parse, under handle `h`. -/
def State.cpuRoute (s : State) (pipe slot h : Nat) (k : Walk) (x : WalkEnd) : State :=
  let f := (s.getStore h).f
  let c : ParseCtx := { pipe := pipe, slot := slot, port := cpuPort, prio := f.req % 8, epoch := s.get IMG.EPOCH, pass := 0,
                        len := f.bytes.length, known := decide (f.bytes.length ≤ 512) }
  let s := s.firstParse h pipe (k.declared x)
  ((s.lateShort pipe f (k.declared x)).route c h k x).xoffEval

/-- A stored frame that has proved malformed leaves the ingot of its descriptor's length for a chain of S ingots, under a new
handle (R120, R220): none on a physical refusal. -/
def State.rechain (s : State) (h : Nat) : Option (Nat × Bool × State) :=
  let f := (s.getStore h).f
  match s.grantRoom f none with
  | none => none
  | some (g, y, s) =>
    match (s.vacate h).fit g y with
    | (ok, s) => some (g, ok, s.when ok (fun s => s.endAside g))

/-- The frame at the head of a pipe's CPU source takes a slot: it is stored, and its declared length is that of its descriptor
(R335). -/
def State.parseCpu (s : State) (pipe slot : Nat) (g : CpuFrame) : State :=
  let f := (s.getStore g.h).f
  let gone := fun (s : State) => s.setCpuList pipe ((s.cpuList pipe).drop 1)
  match g.queue with
  | some q => (gone s).cpuDirect pipe g.h q
  | none =>
    let (k, x) := s.walkFrame pipe cpuPort f.bytes true
    let past := fun (s : State) => (gone s).countParse pipe k x
    if s.parseDrops pipe x then (past s).release g.h
    else
      match x with
      | .bad _ =>
        match s.rechain g.h with
        | none => ((s.inc CRUC.PARSE_ABANDON).draw).refuse f.req 0
        | some (h, true, s) => (past s).cpuRoute pipe slot h k x
        | some (_, false, s) => (past s).xoffEval
      | _ => (past s).cpuRoute pipe slot g.h k x

/-! ### Arbitration (R25, R49, R226) -/

/-- The requester that a point of `n` positions grants next. -/
def Arb.pick (a : Arb) (n : Nat) (pending : List Nat) : Option Nat :=
  match a.losers.find? (fun x => pending.contains x) with
  | some x => some x
  | none =>
    match ((List.range n).map (fun k => (a.ptr + k) % n)).find? (fun x => pending.contains x) with
    | some x => some x
    | none => none

/-- Grant `x`. -/
def Arb.grant (a : Arb) (n x : Nat) : Arb :=
  { ptr := (x + 1) % n, losers := a.losers.filter (fun y => y != x), granted := x :: a.granted }

/-- The token ends: requesters that have been pending and not granted have lost; one that no longer waits has not. -/
def Arb.settle (a : Arb) (n : Nat) (pending : List Nat) : Arb :=
  let old := a.losers.filter (fun x => pending.contains x)
  let new := ((List.range n).map (fun k => (a.ptr + k) % n)).filter
    (fun x => pending.contains x && !old.contains x && !a.granted.contains x)
  { a with losers := old ++ new, granted := [] }

/-- A token begins: one before it whose last slot was not used ends first. -/
def Arb.open_ (a : Arb) (n : Nat) (pending : List Nat) : Arb := if a.granted.isEmpty then a else a.settle n pending

def Frame.ready (f : Frame) : Bool := f.done || decide (512 ≤ f.bytes.length)

/-- The frame at the head of a list. -/
def State.headFrame (s : State) (r : Nat) : Option Frame :=
  match s.inList r with
  | .fifo f :: _ => some f
  | .parked h :: _ => some (s.getStore h).f
  | [] => none

/-- Lists of a pipe that contend: their head can be parsed and their requester is not HELD. -/
def State.listsReady (s : State) (pipe : Nat) : List Nat :=
  (List.range 128).filter (fun i =>
    (match s.headFrame (128 * pipe + i) with | some f => f.ready | none => false) && !s.heldIn (128 * pipe + i) pipe)

/-- A frame that has been refused for want of an ingot keeps its requester out of the arbitration (R226). -/
def State.notRefused (s : State) (r : Nat) : Bool := (tabFind s.buf.refused r).isNone

/-- Sources that contend. Their positions under the rotating pointer are 0 the ingress FIFO, 1 the recirculation port, 2 CPU
frames: DESIGN CHOICE, as the spec numbers none (log 74). -/
def State.sourcesReady (s : State) (pipe : Nat) : List Nat :=
  (if (s.listsReady pipe).isEmpty then [] else [0]) ++
    (match tabFind s.buf.recirc pipe with
      | some w => if s.notRefused (s.recircReq w.e.i pipe) then [1] else []
      | none => []) ++
    (match s.cpuList pipe with
      | g :: _ => if g.queue.isSome || s.notRefused (s.getStore g.h).f.req then [2] else []
      | [] => [])

def State.arbSrc (s : State) (pipe : Nat) : Arb := tabGet {} s.buf.arbSrc pipe
def State.arbList (s : State) (pipe : Nat) : Arb := tabGet {} s.buf.arbList pipe
def State.setArbSrc (s : State) (pipe : Nat) (a : Arb) : State := { s with buf := { s.buf with arbSrc := tabPut s.buf.arbSrc pipe a } }
def State.setArbList (s : State) (pipe : Nat) (a : Arb) : State :=
  { s with buf := { s.buf with arbList := tabPut s.buf.arbList pipe a } }

/-- The granted source's packet takes the slot. -/
def State.parseFrom (s : State) (pipe slot src : Nat) : State :=
  let s := s.tally pipe evIngress
  match src with
  | 0 =>
    let a := s.arbList pipe
    match a.pick 128 (s.listsReady pipe) with
    | some i => (s.setArbList pipe (a.grant 128 i)).parseHead pipe slot (128 * pipe + i)
    | none => s
  | 1 =>
    match tabFind s.buf.recirc pipe with
    | some w => s.parseRecirc pipe slot w
    | none => s
  | _ =>
    match s.cpuList pipe with
    | g :: _ => s.parseCpu pipe slot g
    | [] => s

/-- Both points of a pipe change between tokens. -/
def State.arbTurn (s : State) (pipe : Nat) (f : Arb → Nat → List Nat → Arb) : State :=
  (s.setArbSrc pipe (f (s.arbSrc pipe) 3 (s.sourcesReady pipe))).setArbList pipe (f (s.arbList pipe) 128 (s.listsReady pipe))

/-- A slot that carries a bubble is counted: a droop's where its fraction is the larger (R46, R310). -/
def State.bubbleTally (s : State) (pipe : Nat) : State :=
  s.tally pipe (if s.pwr.bubbles < s.bubbles pipe then evDroop else evQuench)

/-- A slot is granted to one of the contending sources. -/
def State.slotGrant (s : State) (pipe slot : Nat) : State :=
  let a := s.arbSrc pipe
  match a.pick 3 (s.sourcesReady pipe) with
  | some x => (s.setArbSrc pipe (a.grant 3 x)).parseFrom pipe slot x
  | none => s

/-- An ingress header slot of a pipe: slot 0 begins a token, slot 1 ends it. It carries a bubble where the pipe's fraction
asks for one (R45, R46, R362). From PFAIL on no pipe admits anything (R368). -/
def State.parseSlot (s : State) (pipe slot : Nat) : State :=
  if s.flag PWR.PFAIL then s
  else
    let s := s.when (slot == 0) (fun s => s.arbTurn pipe Arb.open_)
    let s := if s.bubbleNext pipe then (s.slotUse pipe).bubbleTally pipe else (s.slotUse pipe).slotGrant pipe slot
    s.when (slot == 1) (fun s => s.arbTurn pipe Arb.settle)

/-- PARSE: a pipe grants an ingress header slot of the token, 0 or 1, to one of its sources. -/
def execParse (pipe : Fin 64) (slot : Fin 2) (s : State) : Result := .next (s.parseSlot pipe.val slot.val)

end Sys2Proof.Machine
end

