-- ==== Sys2Proof/Machine/Filigree.lean ====
section
/-!
DEFINITION. What a lookup returns and writes (R189 to R191), the epoch areas (R70), and Filigree (R124 to R131).
-/
namespace Sys2Proof.Machine
open Reg

/-! ### Lookup results (R191) -/

/-- What a lookup returns. -/
structure Hit where
  hit : Bool := false
  error : Bool := false
  multi : Bool := false
  static : Bool := false
  user : Nat := 0
  prio : Nat := 0
  result : Nat := 0
  pos : Nat := 0
  deriving DecidableEq, Repr

/-- The 12 B result block. -/
def Hit.block (x : Hit) : List Byte :=
  leBytes 1 (b2n x.hit + 2 * b2n x.error + 4 * b2n x.multi + 8 * b2n x.static + 16) ++ leBytes 1 x.user ++ leBytes 2 x.prio ++
    leBytes 4 x.result ++ leBytes 4 x.pos

/-- What the error check of words at an address finds: the operand's finding, or injected bits (R405). -/
def State.lookErr (s : State) (a n : Nat) (e : LookErr) : LookErr :=
  match s.injAt a n, e with
  | 0, e => e
  | 1, .clean => .corrected
  | 1, e => e
  | _, _ => .bad

/-! ### Epoch areas (R70) -/

/-- SWAP_ENABLE of the running image. -/
def State.swapOn (s : State) : Bool := s.flag IMG.SWAP_ENABLED

/-- Start and size of an epoch's area in a resource of `n` items. -/
def State.areaBase (s : State) (n epoch : Nat) : Nat := if s.swapOn then n / 2 * epoch else 0
def State.areaSize (s : State) (n : Nat) : Nat := if s.swapOn then n / 2 else n

/-- Nodes of node memory, lines of result memory, words of an action store. -/
def filNodes : Nat := 524288
def resultLines : Nat := 524288
def actionWords : Nat := 1024

/-! ### Tree sets (R125, R126) -/

/-- `n` bytes of set `i`'s entry in FILIGREE_ALLOC, from byte `k`. -/
def State.filField (s : State) (i k n : Nat) : Nat := le (s.sect secFilAlloc) (8 + 32 * i + k) n

/-- Descriptor and held root node of a set in an epoch. -/
def State.tree (s : State) (epoch i : Nat) : List Byte := tabGet (zeros 80) s.pipe.trees (64 * epoch + i)

def treeRoot (t : List Byte) : Nat := le t 0 4
def treeRules (t : List Byte) : Nat := le t 8 4
def treeMiss (t : List Byte) : Nat := le t 12 4

/-- Device address of relative node `n` of a set. -/
def State.nodeAddr (s : State) (epoch i n : Nat) : Nat := filBase + 64 * (s.areaBase filNodes epoch + s.filField i 0 4 + n)

/-- Bank of the node at an address (R124). Its shard section is that of the table bank of the same number: DEDUCED (log 78). -/
def nodeBank (a : Nat) : Nat := (a - filBase) / 64 % 1024

/-- Node type. -/
def nodeType (b : List Byte) : Nat := bits (byteAt b 0) 0 2

/-! ### The search (R128, R129) -/

/-- How a search ends: the addresses it read, and the RULE node that matched, if any. -/
structure TreeEnd where
  read : List Nat := []
  error : Bool := false
  rule : Option (List Byte) := none

/-- The rule's VALUE and MASK. -/
def ruleKey (node next : List Byte) : Nat × Nat :=
  if bit (byteAt node 0) 2 then (le node 16 40, le next 0 40) else (le node 16 20, le node 36 20)

/-- The rules of a leaf, in RULE_PTR order. -/
def State.leafSearch (s : State) (epoch i key count : Nat) (leaf : List Byte) (k : Nat) (r : List Nat) : Nat → TreeEnd
  | 0 => { read := r }
  | fuel + 1 =>
    if count ≤ k then { read := r }
    else
      let n := bits (le leaf (4 + 4 * k) 4) 0 19
      let a := s.nodeAddr epoch i n
      let node := s.memAt a 64
      let wide := bit (byteAt node 0) 2
      if s.filField i 4 4 ≤ n + b2n wide then { read := r, error := true }
      else if nodeType node != 3 then { read := a :: r, error := true }
      else
        let r := if wide then a :: (a + 64) :: r else a :: r
        let (value, mask) := ruleKey node (s.memAt (a + 64) 64)
        if key &&& mask = value then { read := r, rule := some node }
        else State.leafSearch s epoch i key count leaf (k + 1) r fuel

/-- The path from a node, at most `fuel` nodes long. -/
def State.pathSearch (s : State) (epoch i key : Nat) (node : List Byte) (r : List Nat) : Nat → TreeEnd
  | 0 => { read := r, error := true }
  | fuel + 1 =>
    match nodeType node with
    | 0 => { read := r }
    | 1 =>
      let n := bits (le node 4 4) 0 19 + bits key (le node 2 2) (byteAt node 1)
      if s.filField i 4 4 ≤ n || fuel = 0 then { read := r, error := true }
      else
        let a := s.nodeAddr epoch i n
        State.pathSearch s epoch i key (s.memAt a 64) (a :: r) fuel
    | 2 =>
      let c := byteAt node 1
      if c = 0 then { read := r, error := true } else s.leafSearch epoch i key c node 0 r 8
    | _ => { read := r, error := true }

/-- A lookup of `pipe` in set `i`, with its counters and fault. The key is cut to KEY_BITS. -/
def State.filLookup (s : State) (pipe epoch i key : Nat) (e : LookErr) : Hit × State :=
  let t := s.tree epoch i
  let x := s.pathSearch epoch i (key % 2 ^ s.filField i 8 2) (t.drop 16) [] 16
  let err := x.read.foldl (fun e a => s.lookErr a 64 e) e
  let s := (s.inc FIL.LOOKUPS i).tally pipe evFil
  let s := x.read.foldl (fun s a => s.bankOps (nodeBank a) 1) s
  let s := x.read.foldl (fun s a => if s.injAt a 64 = 1 then s.injClear a 64 else s) s
  if x.error || err = .bad then
    let inj := x.read.any (fun a => s.injAt a 64 != 0)
    let s := s.inc FIL.ERRORS i
    ({ error := true, result := treeMiss t }, if inj then s.faultInjected srcFiligree i 0 else s.fault srcFiligree i)
  else
    match x.rule with
    | some r => ({ hit := true, prio := le r 2 2, result := le r 8 4, pos := bits (le r 4 4) 0 18 }, s.inc FIL.HITS i)
    | none => ({ result := treeMiss t }, s)

/-- The window of each set shows the current epoch (R133). -/
def State.filShow (s : State) : State :=
  let n := le (s.sect secFilAlloc) 4 4
  upTo n (fun i s =>
    let t := s.tree (s.get IMG.EPOCH) i
    (s.set FIL.RULE_COUNT (treeRules t) i).set FIL.ROOT (treeRoot t) i) s

end Sys2Proof.Machine
end

