-- ==== Sys2Proof/Machine/Rings.lean ====
section
/-!
DEFINITION. The Bezel window and its rings (R320, R324 to R329, R336): the ring protocol that receive, transmit and event
rings share, and event rings whole.
-/
namespace Sys2Proof.Machine
open Reg

/-! ### The ring protocol (R326, R327) -/

/-- Entries of ring `n` (R325). -/
def State.ringSize (s : State) (n : Nat) : Nat := 2 ^ s.get HOST.R_LOG2_COUNT n

/-- Index of the `k`-th entry from INDEX, and the lap generation that gives it. -/
def State.ringPos (s : State) (n k : Nat) : Nat × Nat :=
  let i := s.get HOST.R_INDEX n + k
  let g := s.get HOST.R_GEN n
  (i % s.ringSize n, (g + i / s.ringSize n) % 2)

/-- Window offset of the `k`-th entry from INDEX. -/
def State.ringEntry (s : State) (n k : Nat) : Nat := s.get HOST.R_DESC_BASE n + 32 * (s.ringPos n k).1

/-- The entry's ring word. -/
def State.ringWord (s : State) (n k : Nat) : Nat := s.mem (s.ringEntry n k + 28) 4

/-- The `k`-th entry from INDEX has been given: OWN = 1 and GEN = G (R327). -/
def State.ringGiven (s : State) (n k : Nat) : Bool :=
  bit (s.ringWord n k) 0 && bits (s.ringWord n k) 1 1 == (s.ringPos n k).2

/-- PENDING of ring `n` sets at a completed entry; when it rises, the message is due after COAL_US (R324). A message that is due
already goes at its own time. -/
def State.ringPend (s : State) (n : Nat) : State :=
  if !s.flag HOST.R_INT_EN n || s.flag HOST.R_PENDING n then s
  else
    let s := s.setB HOST.R_PENDING true n
    if s.get HOST.R_COAL_US n = 0 then s.msixSend (s.get HOST.R_VECTOR n)
    else if (tabFind s.host.coalAt n).isSome then s
    else { s with host := { s.host with
      coalAt := tabPut s.host.coalAt n (s.frc + s.get HOST.R_COAL_US n * ticksPerUs) } }

/-- The module completes the entry at INDEX: ring word with OWN = 0, GEN = G, STATUS and SEQ, then INDEX advances
(R326, R327). -/
def State.ringComplete (s : State) (n status : Nat) (sop eop : Bool) : State :=
  let g := s.get HOST.R_GEN n
  let seq := tabGet 0 s.host.ringSeq n + 1
  let w := 2 * g + 4 * b2n sop + 8 * b2n eop + 16 * (status % 16) + 65536 * (seq % 65536)
  let i := s.get HOST.R_INDEX n
  let s := s.memSet (s.ringEntry n 0 + 28) 4 w
  let s := { s with host := { s.host with ringSeq := tabPut s.host.ringSeq n seq } }
  let wrap := i + 1 == s.ringSize n
  let s := (s.set HOST.R_INDEX (if wrap then 0 else i + 1) n).when wrap (fun s => s.set HOST.R_GEN (1 - g) n)
  (s.inc HOST.R_COMPLETED n).ringPend n

/-- RING_COAL_EXPIRE: the wait of a ring's message ends (R324). -/
def State.coalExpire (s : State) (n : Nat) : State :=
  match tabFind s.host.coalAt n with
  | some t =>
    if t ≤ s.frc then
      State.msixSend { s with host := { s.host with coalAt := tabDel s.host.coalAt n } } (s.get HOST.R_VECTOR n)
    else s
  | none => s

def execRingCoalExpire (n : Fin 88) (s : State) : Result := .next (s.coalExpire n.val)

/-! ### Enabling (R329) -/

/-- DESC_BASE is a multiple of 32, LOG2_COUNT is 3–12 and the ring lies within the window. -/
def State.ringConfigOk (s : State) (n : Nat) : Bool :=
  let l := s.get HOST.R_LOG2_COUNT n
  s.get HOST.R_DESC_BASE n % 32 == 0 && decide (3 ≤ l) && decide (l ≤ 12) &&
    decide (s.get HOST.R_DESC_BASE n + 32 * 2 ^ l ≤ 0x1000000)

/-- A write of EN = 1. -/
def State.ringEnable (s : State) (n : Nat) : State :=
  if s.flag HOST.R_EN n then s
  else if s.ringConfigOk n then
    let s := { s with host := { s.host with ringSeq := tabDel s.host.ringSeq n, stallSince := tabDel s.host.stallSince n } }
    ((s.setB HOST.R_EN true n).set HOST.R_INDEX 0 n).set HOST.R_GEN 1 n
  else s.setB HOST.R_CONFIG_ERR true n

def execRingEnable (n : Fin 88) (s : State) : Result := .next (s.viaHost HOST.R_EN (fun s => (s.ringEnable n.val)))

/-- A write of EN = 0. Every entry and frame is one step here, so none is in progress. -/
def State.ringDisable (s : State) (n : Nat) : State := s.setB HOST.R_EN false n

def execRingDisable (n : Fin 88) (s : State) : Result := .next (s.viaHost HOST.R_EN (fun s => (s.ringDisable n.val)))

/-- Every ring stops: EN clears (R68, R368, R414). -/
def State.ringsStop (s : State) : State := upTo 88 (fun n s => s.ringDisable n) s

/-! ### Event rings (R336) -/

/-- Ring number of event ring `e` (R325). -/
def eventRing (e : Nat) : Nat := 80 + e

/-- Write an event record (bytes 0–27) to event ring `e`. The second component is false when the event is lost. -/
def State.eventRingWrite (s : State) (e : Nat) (rec_ : List Byte) : State × Bool :=
  let n := eventRing e
  if s.flag HOST.R_EN n && s.ringGiven n 0 then
    ((s.memStore (s.ringEntry n 0) (padTo 28 rec_)).ringComplete n 0 true true, true)
  else (s.inc HOST.R_DISCARDS n, false)

/-! ### Host writes to the window (R320) -/

/-- Bytes of a write with their byte enables, each at its window offset. -/
def State.bezelStore (s : State) (off : Nat) : List Byte → List Bool → State
  | b :: bs, e :: es =>
    State.bezelStore (if e && decide (off < 0x1000000) then s.memStore off [b] else s) (off + 1) bs es
  | _, _ => s

end Sys2Proof.Machine
end

