-- ==== Sys2Proof/Machine/ExactMatch.lean ====
section
/-!
DEFINITION. The exact-match table (R134 to R157): candidates, lookups, the insertion engine with EM_CMD and learning, the
Tarnish sweep, and Clasp.
-/
namespace Sys2Proof.Machine
open Reg

/-! ### Tables and entries (R134 to R140) -/

/-- `n` bytes of table `t`'s entry in EM_CONFIG, from byte `k`. -/
def State.emField (s : State) (t k n : Nat) : Nat := le (s.sect secEm) (0x10 + 64 * t + k) n

def State.emDouble (s : State) (t : Nat) : Bool := bit (s.emField t 5 1) 0
def State.emHitTrack (s : State) (t : Nat) : Bool := bit (s.emField t 5 1) 1
def State.emLearnEn (s : State) (t : Nat) : Bool := bit (s.emField t 5 1) 2
def State.emAgeEn (s : State) (t : Nat) : Bool := bit (s.emField t 5 1) 3

/-- Key bytes and entry bytes of a table. -/
def State.emKeyLen (s : State) (t : Nat) : Nat := if s.emDouble t then 26 else 10
def State.emSize (s : State) (t : Nat) : Nat := if s.emDouble t then 32 else 16

/-- A key cut to KEY_BITS, in key bytes. -/
def State.emKey (s : State) (t key : Nat) : List Byte := leBytes (s.emKeyLen t) (key % 2 ^ s.emField t 4 1)

/-- An entry: key bytes, RESULT, FLAGS. -/
structure EmEntry where
  key : List Byte
  result : Nat
  flags : Nat
  deriving DecidableEq, Repr

def EmEntry.valid (e : EmEntry) : Bool := bit e.flags 0
def EmEntry.bytes (e : EmEntry) : List Byte := e.key ++ leBytes 4 e.result ++ leBytes 2 e.flags

/-- Where an entry stands: in the table, by entry index, or in a stash slot. -/
inductive EmAt where
  | row (e : Nat)
  | stash (i : Nat)
  deriving DecidableEq, Repr

def emAddr (e : Nat) : Nat := emBase + 16 * e
def stashAddr (i : Nat) : Nat := stashBase + 64 * i

def EmAt.addr : EmAt → Nat
  | .row e => emAddr e
  | .stash i => stashAddr i

/-- The entry of table `t` at an address. -/
def State.emRead (s : State) (t a : Nat) : EmEntry :=
  let n := s.emKeyLen t
  { key := s.memAt a n, result := s.mem (a + n) 4, flags := s.mem (a + n + 4) 2 }

def State.emPut (s : State) (a : Nat) (e : EmEntry) : State := s.memStore a e.bytes

/-- Write the flags of the entry at an address. -/
def State.emFlags (s : State) (t a v : Nat) : State := s.memSet (a + s.emKeyLen t + 4) 2 v

/-- h_w of a key (R139). -/
def State.emHash (s : State) (t w : Nat) (key : List Byte) : Nat :=
  crcWith (if s.emField t 6 1 = 0 then polyCrc32c else polyCrc32) (s.emField t (8 + 4 * w) 4) key

/-- The candidate of way `w`, as an entry index. -/
def State.emCand (s : State) (t : Nat) (key : List Byte) (w : Nat) : Nat :=
  let h := s.emHash t w key
  let b := 256 * w + (if s.emDouble t then h % 256 / 2 * 2 else h % 256)
  1024 * (s.emField t 0 2 + h / 256 % s.emField t 2 2) + b

def State.emCands (s : State) (t : Nat) (key : List Byte) : List Nat := (List.range 4).map (fun w => s.emCand t key w)

/-- The stash slots of a key's shard. -/
def State.emStash (s : State) (t : Nat) (key : List Byte) : List Nat :=
  (List.range 256).map (fun i => 256 * bits (s.emHash t 0 key) 8 3 + i)

/-- A stash slot is in use, and its table. -/
def State.stashUsed (s : State) (i : Nat) : Bool := bit (s.mem (stashAddr i + 33) 1) 0
def State.stashTable (s : State) (i : Nat) : Nat := s.mem (stashAddr i + 32) 1 % 16

/-- Every place that holds a valid copy of a key, in lookup order (R142). -/
def State.emFind (s : State) (t : Nat) (key : List Byte) : List EmAt :=
  let here := fun a => let e := s.emRead t a; e.valid && e.key == key
  ((s.emCands t key).filter (fun e => here (emAddr e))).map EmAt.row ++
    ((s.emStash t key).filter (fun i => s.stashUsed i && s.stashTable i == t && here (stashAddr i))).map EmAt.stash

/-! ### Lookup (R142, R143, R156) -/

/-- Bank of an entry index (R134). -/
def emBank (e : Nat) : Nat := e % 1024

/-- Operations that a table's entry takes: one in each of its banks (R144). -/
def State.emCost (s : State) (t : Nat) : Nat := if s.emDouble t then 2 else 1

/-- The engine or Tarnish works on an entry: background operations of its banks (R144). -/
def State.emWork (s : State) (t e n : Nat) : State := s.bankWork (emBank e) (n * s.emCost t)

/-- The engine reads the candidates of a key. -/
def State.emScan (s : State) (t : Nat) (key : List Byte) : State :=
  (s.emCands t key).foldl (fun s c => s.emWork t c 1) s

/-- Addresses of the words that a lookup reads. -/
def State.emWords (s : State) (t : Nat) (key : List Byte) : List Nat :=
  (s.emCands t key).flatMap (fun c => (List.range (s.emCost t)).map (fun k => emAddr (c + k)))

/-- A word among them is beyond correction: the operand's, or one of injected bits (R156, R405). -/
def State.emBad (s : State) (words : List Nat) (e : LookErr) : Bool :=
  e == .bad || words.any (fun a => decide (2 ≤ s.injAt a 16))

/-- Each word with a single-bit error is corrected, written back and counted (R156). -/
def State.emCorrect (s : State) (words : List Nat) (e : LookErr) : State :=
  let l := words.filter (fun a => s.injAt a 16 == 1)
  (l.foldl (fun s a => s.injClear a 16) s).add EM.ECC_CORR (l.length + b2n (e == .corrected))

/-- A hit-set: one further operation of the entry's bank (R143, R144). -/
def State.emHitSet (s : State) (t : Nat) (x : EmAt) (flags : Nat) : State :=
  let s := s.emFlags t x.addr (bitSet flags 3)
  match x with
  | .row e => s.bankOps (emBank e) 1
  | .stash _ => s

/-- A lookup of `pipe` in table `t`. -/
def State.emLookup (s : State) (pipe t key : Nat) (e : LookErr) : Hit × State :=
  let k := s.emKey t key
  let miss := s.emField t 0x28 4
  let words := s.emWords t k
  let s := (s.inc EM.T_LOOKUPS t).tally pipe evEm
  let s := (s.emCands t k).foldl (fun s c => s.bankOps (emBank c) (s.emCost t)) s
  let s := s.emCorrect words e
  if s.emBad words e then
    let s := s.inc EM.T_ERRORS t
    ({ error := true, result := miss },
      match words.find? (fun a => decide (2 ≤ s.injAt a 16)) with
      | some a => s.faultInjected srcEmEcc (emBank ((a - emBase) / 16)) 0
      | none => s.fault srcEmEcc)
  else
    match s.emFind t k with
    | [] => ({ result := miss }, s)
    | x :: more =>
      let v := s.emRead t x.addr
      let s := (s.inc EM.T_HITS t).when (!more.isEmpty) (fun s => s.inc EM.T_DUPLICATES t)
      let s := s.when (s.emHitTrack t && !bit v.flags 3) (fun s => s.emHitSet t x v.flags)
      let pos := match x with | .row e => e | .stash i => i + 2 ^ 31
      ({ hit := true, static := bit v.flags 1, user := bits v.flags 8 8, result := v.result, pos := pos }, s)

/-! ### The insertion engine (R145, R146) -/

/-- Clasp holds the region of an entry (R154). -/
def State.emHeld (s : State) (e : Nat) : Bool := s.bitOf EM.HELD (e / 1024 % 32) (e / 32768)

/-- How an insertion or a change ends, in the codes of EM_CMD_STATUS. -/
inductive EmEnd where
  | ok (x : EmAt)
  | full
  | locked
  deriving DecidableEq, Repr

/-- The engine may write an entry. -/
def State.emFree (s : State) (locks : Bool) (t e : Nat) : Bool :=
  !(s.emRead t (emAddr e)).valid && !(locks && s.emHeld e)

/-- The displaced entry at the end of a path may move, and to which candidates. -/
def State.emMoves (s : State) (t : Nat) (path : List Nat) : List Nat :=
  match path.getLast? with
  | some e => (s.emCands t (s.emRead t (emAddr e)).key).filter (fun c => !path.contains c)
  | none => []

/-- Breadth-first search for a chain of at most `depth` displacements, over the paths of one level. Each path starts at a
candidate of the new key. The answer ends with the empty place. -/
def State.emChain (s : State) (locks : Bool) (t : Nat) (paths : List (List Nat)) : Nat → Option (List Nat)
  | 0 => none
  | depth + 1 =>
    match paths.findSome? (fun p => ((s.emMoves t p).find? (fun c => s.emFree locks t c)).map (fun c => p ++ [c])) with
    | some p => some p
    | none => State.emChain s locks t
        (paths.flatMap (fun p => ((s.emMoves t p).filter (fun c => !(locks && s.emHeld c))).map (fun c => p ++ [c]))) depth

/-- The places a new key's entry takes: an empty candidate alone, or a chain of displacements; Clasp obeyed or not. -/
def State.emPlace (s : State) (locks : Bool) (t : Nat) (key : List Byte) : Option (List Nat) :=
  let c := s.emCands t key
  match c.find? (fun e => s.emFree locks t e) with
  | some e => some [e]
  | none => s.emChain locks t ((c.filter (fun e => !(locks && s.emHeld e))).map (fun e => [e])) (s.emField t 7 1)

/-- Move the entry at `a` to `b`: the copy first, then the old place is invalidated. -/
def State.emMove (s : State) (t a b : Nat) : State :=
  let v := s.emRead t (emAddr a)
  let s := (s.emPut (emAddr b) { v with flags := bitClear (bitSet v.flags 3) 4 }).emWork t b 1
  (s.emFlags t (emAddr a) (bitClear v.flags 0)).bankWork (emBank a) 1

/-- Move the entries of a chain, the far end first. -/
def State.emShift (s : State) (t : Nat) : List Nat → State
  | a :: b :: rest => (State.emShift s t (b :: rest)).emMove t a b
  | _ => s

/-- Insert an entry whose key is absent. -/
def State.emInsert (s : State) (t : Nat) (v : EmEntry) : EmEnd × State :=
  match s.emPlace true t v.key with
  | some (e :: rest) => (.ok (.row e), ((s.emShift t (e :: rest)).emPut (emAddr e) v).emWork t e 1)
  | _ =>
    match (s.emStash t v.key).find? (fun i => !s.stashUsed i) with
    | some i =>
      (.ok (.stash i), ((s.memStore (stashAddr i) (padTo 32 v.bytes)).memSet (stashAddr i + 32) 1 t).memSet (stashAddr i + 33) 1 1)
    | none => (if (s.emPlace false t v.key).isSome then .locked else .full, s)

/-- The engine may change the entry at a place. -/
def State.emWritable (s : State) (x : EmAt) : Bool := match x with | .row e => !s.emHeld e | .stash _ => true

/-- Invalidate the entry at a place. -/
def State.emRemove (s : State) (t : Nat) (x : EmAt) : State :=
  let s := s.emFlags t x.addr (bitClear (s.emRead t x.addr).flags 0)
  match x with
  | .row _ => s
  | .stash i => s.memSet (stashAddr i + 33) 1 0

/-! ### EM_CMD (R149) -/

def emOk : Nat := 0
def emExists : Nat := 1
def emNotFound : Nat := 2
def emFull : Nat := 3
def emLocked : Nat := 4
def emBadTable : Nat := 5
def emBadOpcode : Nat := 6

/-- The key in the operand registers. -/
def State.emOpKey (s : State) (t : Nat) : List Byte :=
  s.emKey t (leNat (((List.range 7).flatMap (fun k => leBytes 4 (s.get EM.CMD_KEY k))).take (s.emKeyLen t)))

/-- The entry in the operand registers, with VALID set. -/
def State.emOperand (s : State) (t : Nat) : EmEntry :=
  { key := s.emOpKey t, result := s.get EM.CMD_RESULT, flags := bitSet (s.get EM.CMD_FLAGS &&& 0xFF1F) 0 }

/-- LOCATION and IN_STASH of a command. -/
def State.emShow (s : State) (x : EmAt) : State :=
  match x with
  | .row e => (s.set EM.CMD_LOCATION e).setB EM.CMD_IN_STASH false
  | .stash i => (s.set EM.CMD_LOCATION i).setB EM.CMD_IN_STASH true

/-- A command completes with a code. -/
def State.emDone (s : State) (code : Nat) : State :=
  (s.set EM.CMD_CODE code).event EM.CMD_DONE 0 true sumEm

/-- An insertion's end as a command's. -/
def State.emEndCmd (r : EmEnd × State) : State :=
  match r with
  | (.ok x, s) => (s.emShow x).emDone emOk
  | (.full, s) => s.emDone emFull
  | (.locked, s) => s.emDone emLocked

/-- A command on a table that the image defines. -/
def State.emTable (s : State) (t : Nat) (f : State → State) : State :=
  if t < s.get EM.TABLE_COUNT then f s else s.emDone emBadTable

/-- INSERT. -/
def State.emCmdInsert (s : State) (t : Nat) : State :=
  s.emTable t (fun s =>
    match s.emFind t (s.emOpKey t) with
    | x :: _ => (s.emShow x).emDone emExists
    | [] => State.emEndCmd (s.emInsert t (s.emOperand t)))

/-- REPLACE. -/
def State.emCmdReplace (s : State) (t : Nat) : State :=
  s.emTable t (fun s =>
    match s.emFind t (s.emOpKey t) with
    | x :: _ =>
      if s.emWritable x then ((s.emPut x.addr (s.emOperand t)).emShow x).emDone emOk else (s.emShow x).emDone emLocked
    | [] => State.emEndCmd (s.emInsert t (s.emOperand t)))

/-- DELETE. -/
def State.emCmdDelete (s : State) (t : Nat) : State :=
  s.emTable t (fun s =>
    match s.emFind t (s.emOpKey t) with
    | x :: _ => if s.emWritable x then ((s.emRemove t x).emShow x).emDone emOk else (s.emShow x).emDone emLocked
    | [] => s.emDone emNotFound)

/-- SEARCH. -/
def State.emCmdSearch (s : State) (t : Nat) : State :=
  s.emTable t (fun s =>
    match s.emFind t (s.emOpKey t) with
    | x :: _ =>
      let v := s.emRead t x.addr
      (((s.set EM.CMD_RESULT v.result).set EM.CMD_FLAGS v.flags).emShow x).emDone emOk
    | [] => s.emDone emNotFound)

/-- The engine runs a command. -/
def State.emRun (s : State) (t op : Nat) : State :=
  let s := s.when (decide (t < s.get EM.TABLE_COUNT)) (fun s => s.emScan t (s.emOpKey t))
  match op with
  | 1 => s.emCmdInsert t
  | 2 => s.emCmdReplace t
  | 3 => s.emCmdDelete t
  | 4 => s.emCmdSearch t
  | _ => s.emDone emBadOpcode

/-- The insertion engine works: learns or a command wait for it (R157). -/
def State.emBusy (s : State) : Bool := s.pipe.emCmd.isSome || !s.pipe.learnQ.isEmpty

/-- A write of EM_CMD: the command takes its place behind the learns accepted before it, and runs at once if there are none
(R145). While one waits, a further write is an overrun (R157). -/
def State.emCommand (s : State) (t op : Nat) : State :=
  if s.pipe.emCmd.isSome then s.setB EM.CMD_CMD_OVERRUN true
  else if s.pipe.learnQ.isEmpty then s.emRun t op
  else { s with pipe := { s.pipe with emCmd := some { table := t, op := op, ahead := s.pipe.learnQ.length } } }

/-- A learn has been handled: a command whose turn has come runs. -/
def State.emTurn (s : State) : State :=
  match s.pipe.emCmd with
  | none => s
  | some c =>
    if c.ahead ≤ 1 then State.emRun { s with pipe := { s.pipe with emCmd := none } } c.table c.op
    else { s with pipe := { s.pipe with emCmd := some { c with ahead := c.ahead - 1 } } }

def execEmInsert (t : Fin 16) (s : State) : Result := .next (s.viaHost EM.CMD_OPCODE (fun s => s.emCommand t.val 1))
def execEmReplace (t : Fin 16) (s : State) : Result := .next (s.viaHost EM.CMD_OPCODE (fun s => s.emCommand t.val 2))
def execEmDelete (t : Fin 16) (s : State) : Result := .next (s.viaHost EM.CMD_OPCODE (fun s => s.emCommand t.val 3))
def execEmSearch (t : Fin 16) (s : State) : Result := .next (s.viaHost EM.CMD_OPCODE (fun s => s.emCommand t.val 4))

/-! ### Learning (R150, R151) -/

def State.learnCap (s : State) (t : Nat) : Int := (s.get EM.T_LEARN_BURST t : Int) * packetUnit

def State.learnLevel (s : State) (t : Nat) : Int :=
  bucketLevel (tabFind s.pipe.learn t) (s.get EM.T_LEARN_RATE t) (s.learnCap t) s.frc

def State.learnPut (s : State) (t : Nat) (level : Int) : State :=
  { s with pipe := { s.pipe with learn := tabPut s.pipe.learn t { level := level, at_ := s.frc } } }

/-- A learn request of an action program: it passes the table's bucket and joins the queue, or is dropped. -/
def State.learnRequest (s : State) (x : Learn) : State :=
  if !s.emLearnEn x.table then s
  else
    let l := s.learnLevel x.table
    if s.get EM.T_LEARN_RATE x.table = 0 || l < packetUnit || 4096 ≤ s.pipe.learnQ.length then
      (s.learnPut x.table l).inc EM.T_LEARN_DROP x.table
    else
      let s := s.learnPut x.table (l - packetUnit)
      { s with pipe := { s.pipe with learnQ := s.pipe.learnQ ++ [x] } }

/-- A notice (R151), if NOTIFY asks for the event. -/
def State.emNotice (s : State) (t ev : Nat) (x : Option EmAt) (v : EmEntry) : State :=
  if bit (s.emField t 0x1D 1) (ev - 1) then
    let loc := match x with | some (.row e) => e | some (.stash i) => i + 2 ^ 31 | none => 0
    let rec_ := leBytes 1 ev ++ leBytes 1 t ++ leBytes 2 v.flags ++ leBytes 4 loc ++ leBytes 4 v.result ++
      padTo 10 v.key ++ zeros 2 ++ leBytes 4 s.frcShort
    match s.eventRingWrite (s.emField t 0x1C 1 % 8) rec_ with
    | (s, true) => s
    | (s, false) => s.inc EM.T_NOTICE_LOST t
  else s

/-- A learn whose key is absent. -/
def State.learnNew (s : State) (x : Learn) : State :=
  let v : EmEntry := { key := x.key, result := x.result, flags := 0x000D }
  match s.emInsert x.table v with
  | (.ok at_, s) => (s.inc EM.T_LEARNS x.table).emNotice x.table 1 (some at_) v
  | (_, s) => (s.inc EM.T_LEARN_FAIL x.table).emNotice x.table 4 none { v with flags := 0 }

/-- A learn in mode MOVE whose key is present at `at_`. -/
def State.learnMove (s : State) (x : Learn) (at_ : EmAt) : State :=
  let v := s.emRead x.table at_.addr
  if bit v.flags 1 || v.result == x.result then s
  else if !s.emWritable at_ then s.inc EM.T_LEARN_FAIL x.table
  else
    let v := { v with result := x.result, flags := bitSet v.flags 3 }
    ((s.emPut at_.addr v).inc EM.T_LEARNS x.table).emNotice x.table 2 (some at_) v

/-- The engine handles a request. -/
def State.learnOne (s : State) (x : Learn) : State :=
  let s := s.emScan x.table x.key
  match s.emFind x.table x.key with
  | [] => s.learnNew x
  | at_ :: _ => if x.move then s.learnMove x at_ else s

/-- LEARN_INSERT: the engine handles the request at the front of the learn queue, and then a command that has waited for it. -/
def State.learnServe (s : State) : State :=
  match s.pipe.learnQ with
  | [] => s
  | x :: rest => (State.learnOne { s with pipe := { s.pipe with learnQ := rest } } x).emTurn

def execLearnInsert (s : State) : Result := .next s.learnServe

/-! ### Ageing (R152) -/

/-- A visit of the entry of table `t` at a place. -/
def State.ageEntry (s : State) (t : Nat) (x : EmAt) : State :=
  let v := s.emRead t x.addr
  if !v.valid || bit v.flags 1 then s
  else if bit v.flags 3 then s.emFlags t x.addr (bitClear (bitClear v.flags 3) 4)
  else if !bit v.flags 4 then s.emFlags t x.addr (bitSet v.flags 4)
  else
    let s := (s.emRemove t x).inc EM.T_AGED t
    s.emNotice t 3 (some x) { v with flags := bitClear v.flags 0 }

/-- A visit of a row's entry: one operation on the bank that holds its flags. -/
def State.ageVisit (s : State) (t e : Nat) : State := (s.bankWork (emBank e + s.emCost t - 1) 1).ageEntry t (.row e)

/-- Keys of a table's Tarnish pass among Anvil's cursors: its position, the region skipped last, and (among the starts) the
period that the pass runs with. -/
def ageKey (t : Nat) : Nat := 16 + t
def ageSkipKey (t : Nat) : Nat := 64 + t
def agePeriodKey (t : Nat) : Nat := 80 + t

/-- The sweep skips a region that Clasp holds: one visit of the region, however many steps it lasts. -/
def State.ageSkip (s : State) (t row : Nat) : State :=
  if tabGet 0 s.anvil.cursor (ageSkipKey t) = row + 1 then s
  else State.inc { s with anvil := { s.anvil with cursor := tabPut s.anvil.cursor (ageSkipKey t) (row + 1) } } EM.T_AGE_SKIPPED t

/-- Steps of a pass in a row, one entry in each of four banks a step; a pass takes all rows and then the 2,048 stash slots. -/
def State.ageRowSteps (s : State) (t : Nat) : Nat := 256 / s.emCost t
def State.ageSteps (s : State) (t : Nat) : Nat := s.emField t 2 2 * s.ageRowSteps t + 512

/-- The four visits of a step at position `pos` of a table's pass (R379). -/
def State.ageVisits (s : State) (t pos : Nat) : State :=
  let n := s.ageRowSteps t
  let rows := s.emField t 2 2
  if pos < rows * n then
    let row := s.emField t 0 2 + pos / n
    if s.emHeld (1024 * row) then s.ageSkip t row
    else upTo 4 (fun k s => s.ageVisit t (1024 * row + s.emCost t * (4 * (pos % n) + k))) s
  else upTo 4 (fun k s =>
    let i := 4 * (pos - rows * n) + k
    if s.stashUsed i && s.stashTable i == t then s.ageEntry t (.stash i) else s) s

/-- The start and the period, in ticks, of the pass that a step at position `pos` belongs to: at its first step a new pass
starts, one period after the last. None: the step is not due. Positions fall due in even steps over the period; a pass that
has fallen more than 1 % behind starts its count anew, so that no entry is visited again before 99 % of the period (R152). -/
def State.agePass (s : State) (t pos : Nat) : Option (Nat × Nat) :=
  let old := tabGet 0 s.anvil.passAt (agePeriodKey t)
  let last := tabGet 0 s.anvil.passAt (ageKey t)
  let period := if pos = 0 then s.get EM.T_AGE_PERIOD t * 1000 * ticksPerMs else old
  let start := if pos = 0 then (if old = 0 then s.frc else last + old) else last
  let due := start + pos * period / s.ageSteps t
  if s.frc < due then none
  else some (if due + period / 100 < s.frc then start + (s.frc - due) else start, period)

/-- The next step of a table's pass. -/
def State.ageStep (s : State) (t : Nat) : State :=
  if !(decide (t < s.get EM.TABLE_COUNT) && s.emAgeEn t) then s
  else
    let pos := tabGet 0 s.anvil.cursor (ageKey t)
    match s.agePass t pos with
    | none => s
    | some (start, period) =>
      let next := if pos + 1 < s.ageSteps t then pos + 1 else 0
      let s := s.ageVisits t pos
      let passAt := tabPut (tabPut s.anvil.passAt (ageKey t) start) (agePeriodKey t) period
      let cursor := tabPut s.anvil.cursor (ageKey t) next
      let cursor := if next = 0 then tabDel cursor (ageSkipKey t) else cursor
      { s with anvil := { s.anvil with passAt := passAt, cursor := cursor } }

/-- AGE_VISIT: a Tarnish step on table `t`. -/
def execAgeVisit (f : Fetch) (t : Fin 16) (s : State) : Result := .next (s.anvilStep actTarnish f (fun s => s.ageStep t.val))

/-! ### Clasp (R154) -/

/-- A write of 1 to a request bit. -/
def State.emClaspReq (s : State) (r : Nat) : State := s.setBit EM.REQ (r % 32) (r / 32)

/-- Operations in the region have completed: its HELD bit sets. -/
def State.emClaspGrant (s : State) (r : Nat) : State :=
  if s.bitOf EM.REQ (r % 32) (r / 32) then s.setBit EM.HELD (r % 32) (r / 32) else s

/-- A write of 0 to a request bit. -/
def State.emClaspFree (s : State) (r : Nat) : State :=
  (s.clearBit EM.REQ (r % 32) (r / 32)).clearBit EM.HELD (r % 32) (r / 32)

def execEmClaspRequest (r : Fin 8192) (s : State) : Result := .next (s.viaHost EM.REQ (fun s => s.emClaspReq r.val))
def execEmClaspGrant (r : Fin 8192) (s : State) : Result := .next (s.emClaspGrant r.val)
def execEmClaspRelease (r : Fin 8192) (s : State) : Result := .next (s.viaHost EM.REQ (fun s => s.emClaspFree r.val))

/-! ### Live figures -/

/-- STASHED of table `t`. -/
def State.emStashed (s : State) (t : Nat) : Nat :=
  ((List.range 2048).filter (fun i => s.stashUsed i && s.stashTable i == t)).length

/-- ENTRIES of table `t`: valid entries of its rows, found by their listed flag bytes, and those stashed. -/
def State.emEntries (s : State) (t : Nat) : Nat :=
  let lo := emAddr (1024 * s.emField t 0 2)
  let hi := emAddr (1024 * (s.emField t 0 2 + s.emField t 2 2))
  let n := s.emSize t
  (s.dev.filter (fun c => inRange lo hi c.1 && (c.1 - lo) % n == n - 2 && c.2.toNat % 2 == 1)).length + s.emStashed t

end Sys2Proof.Machine
end

