-- ==== Sys2Proof/Machine/Ase.lean ====
section
/-!
DEFINITION. The associative search engine (R158 to R182): slots, searches with their selector and verification, the command
engine, and Clasp.
-/
namespace Sys2Proof.Machine
open Reg

/-! ### Partitions (R166, R167) -/

/-- `n` bytes of partition `p`'s entry in ASE_PARTITION, from byte `k`. -/
def State.aseField (s : State) (p k n : Nat) : Nat := le (s.sect secAse) (0x10 + 32 * p + k) n

def State.aseWide (s : State) (p : Nat) : Bool := bit (s.aseField p 4 1) 0
def State.aseReplicas (s : State) (p : Nat) : Nat := s.aseField p 6 1

/-- Key bits of a partition. -/
def State.aseKeyBits (s : State) (p : Nat) : Nat := if s.aseWide p then 320 else 160

/-- First bank of replica `r`. -/
def State.aseBank (s : State) (p r : Nat) : Nat := s.aseField p 0 2 + r * s.aseField p 2 2

/-- Address of SELECTOR[s] in the section. -/
def State.aseSelector (s : State) (i : Nat) : Nat := 0x10 + 32 * le (s.sect secAse) 4 4 + 16 * i

/-- The banks that a search covers; a wide pair is named by its even bank. -/
def State.aseCover (s : State) (p r key : Nat) : List Nat :=
  let base := s.aseBank p r
  let n := s.aseField p 7 1
  if n = 0 then
    if s.aseWide p then (List.range (s.aseField p 2 2 / 2)).map (fun k => base + 2 * k)
    else (List.range (s.aseField p 2 2)).map (fun k => base + k)
  else
    let a := s.aseSelector (s.aseField p 0x0A 2 + bits key (s.aseField p 8 2) n)
    let sec := s.sect secAse
    (List.range (le sec a 2)).map (fun k => base + le sec (a + 8 + 2 * k) 2)

/-! ### Slots (R159 to R162) -/

/-- The slot of bank `b`, index `i`. -/
def slotAddr (b i : Nat) : Nat := aseBase + 128 * (2048 * (b / 2) + i) + 64 * (b % 2)

/-- FLAGS of a slot. -/
def State.slotFlags (s : State) (b i : Nat) : Nat := s.mem (slotAddr b i + 42) 2

def State.slotValid (s : State) (b i : Nat) : Bool := bit (s.slotFlags b i) 0

/-- The half of a key that a slot compares. -/
def State.halfMatch (s : State) (b i key : Nat) : Bool :=
  let m := s.mem (slotAddr b i + 20) 20
  s.slotValid b i && (key % 2 ^ 160 &&& m) == (s.mem (slotAddr b i) 20 &&& m)

/-- The entry matches a key. -/
def State.slotMatch (s : State) (wide : Bool) (b i key : Nat) : Bool :=
  s.halfMatch b i key && (!wide || s.halfMatch (b + 1) i (key / 2 ^ 160))

/-- The matching indexes of a bank, ascending. -/
def State.bankMatches (s : State) (wide : Bool) (b key : Nat) : List Nat :=
  (List.range 2048).filter (fun i => s.slotMatch wide b i key)

/-- A shadow copy whose move source still holds VALID: the entry counts in MULTI at its source alone (R162, R175). -/
def State.slotCopy (s : State) (b i : Nat) : Bool :=
  bit (s.slotFlags b i) 2 && (match s.pipe.move with | some m => m.1 == b && s.slotValid m.1 m.2 | none => false)

def State.slotPrio (s : State) (b i : Nat) : Nat := s.mem (slotAddr b i + 40) 2

/-- Precedence of R162 between two entries. -/
def State.slotBefore (s : State) (x y : Nat × Nat) : Bool :=
  let a := s.slotPrio x.1 x.2
  let b := s.slotPrio y.1 y.2
  decide (b < a) || (a == b && (decide (x.1 < y.1) || (x.1 == y.1 && decide (x.2 ≤ y.2))))

/-- The best of a list of entries. -/
def State.slotBest (s : State) (l : List (Nat × Nat)) : Option (Nat × Nat) :=
  l.foldl (fun best x =>
    match best with
    | none => some x
    | some y => if s.slotBefore y x then some y else some x) none

/-- The winner among the banks, and whether more than one entry matches. -/
def State.aseMatch (s : State) (p key : Nat) (banks : List Nat) : Option (Nat × Nat) × Bool :=
  let all := banks.map (fun b => (b, s.bankMatches (s.aseWide p) b key))
  (s.slotBest (all.filterMap (fun x => match x.2 with | i :: _ => some (x.1, i) | [] => none)),
    decide (1 < all.foldl (fun n x => n + (x.2.filter (fun i => !s.slotCopy x.1 i)).length) 0))

/-! ### Search and verification (R163, R178) -/

/-- Write the FLAGS of an entry, both halves of a wide one. -/
def State.slotSetFlags (s : State) (wide : Bool) (b i : Nat) (f : Nat → Nat) : State :=
  let s := s.memSet (slotAddr b i + 42) 2 (f (s.slotFlags b i))
  if wide then s.memSet (slotAddr (b + 1) i + 42) 2 (f (s.slotFlags (b + 1) i)) else s

/-- Clear VALID. -/
def State.slotClear (s : State) (wide : Bool) (b i : Nat) : State := s.slotSetFlags wide b i (fun v => bitClear v 0)

/-- A parity event is recorded, counted and reported. -/
def State.parityEvent (s : State) (p b i : Nat) (bySearch repaired : Bool) (src : Nat) : State :=
  let s := ((s.set ASE.PL_BANK b).set ASE.PL_INDEX i).setB ASE.PL_REPAIRED repaired
  let s := ((s.setB ASE.PL_BY_SEARCH bySearch).setB ASE.PL_VALID true).inc ASE.P_ERRORS p
  s.faultAt src (slotAddr (b / 2 * 2) i) 128 b

/-- The banks of an entry: both of the pair for a wide one (R161). -/
def slotBanks (wide : Bool) (b : Nat) : List Nat := if wide then [b, b + 1] else [b]

/-- What the checks of an entry find: each row's parity and each SRAM image's ECC, with the bits injected there (R158, R161,
R405). -/
def State.slotErr (s : State) (wide : Bool) (b i : Nat) (e : LookErr) : LookErr :=
  if (slotBanks wide b).any (fun b => s.injAt (slotAddr b i) 40 == 1) then .parity
  else (slotBanks wide b).foldl (fun e b => s.lookErr (slotAddr b i + 40) 24 e) e

/-- Injected bits of the entry's rows, or of its SRAM images, are gone: the words have been rewritten. -/
def State.slotMend (s : State) (wide : Bool) (b i k n : Nat) : State :=
  (slotBanks wide b).foldl (fun s b => s.injClear (slotAddr b i + k) n) s

/-- The entry's row fails parity: the event is recorded, and VALID is cleared (R178, R179). -/
def State.slotFail (s : State) (p : Nat) (wide : Bool) (b i : Nat) (bySearch : Bool) (src : Nat) : State :=
  ((s.parityEvent p b i bySearch false src).slotMend wide b i 0 40).slotClear wide b i

/-- A double-bit error of the entry's SRAM image. -/
def State.slotBad (s : State) (p b i src : Nat) : State := (s.inc ASE.P_ERRORS p).faultAt src (slotAddr (b / 2 * 2) i) 128 b

/-- A single-bit error of the entry's SRAM image is corrected, written back and counted. -/
def State.slotFix (s : State) (wide : Bool) (b i : Nat) : State := (s.inc ASE.SRAM_CORR).slotMend wide b i 40 24

/-- The result of a winner. -/
def State.slotHit (s : State) (b i : Nat) (multi : Bool) : Hit :=
  let a := slotAddr b i
  { hit := true, multi := multi, user := bits (s.slotFlags b i) 8 8, prio := s.slotPrio b i, result := s.mem (a + 44) 4,
    pos := 2048 * b + i }

/-- Answer a search's winner whose row passed parity; a double-bit error of its SRAM image returns ERROR. -/
def State.aseAnswer (s : State) (p : Nat) (w : Option (Nat × Nat)) (multi : Bool) (e : LookErr) :
    Hit × Option (Nat × Nat) × State :=
  let miss : Hit := { result := s.aseField p 0x0C 4 }
  match w with
  | none => (miss, none, s)
  | some (b, i) =>
    match s.slotErr (s.aseWide p) b i e with
    | .bad => ({ miss with error := true }, none, s.slotBad p b i srcAseParity)
    | .corrected => (s.slotHit b i multi, some (b, i), (s.slotFix (s.aseWide p) b i).inc ASE.P_HITS p)
    | _ => (s.slotHit b i multi, some (b, i), s.inc ASE.P_HITS p)

/-- `n` operations of bank `b`, in the window that runs (R182) and among its section's: background (`bg`) for the command
engine and Planish, foreground otherwise (R170). -/
def State.aseOp (s : State) (bg : Bool) (n b : Nat) : State :=
  let s := { s with pipe := { s.pipe with aseOps := tabPut s.pipe.aseOps b (tabGet 0 s.pipe.aseOps b + n) } }
  if bg then s.bankWork b n else s.bankOps b n

/-- `n` operations of an entry's banks by the command engine or Planish. -/
def State.aseWork (s : State) (wide : Bool) (b n : Nat) : State := (slotBanks wide b).foldl (fun s b => s.aseOp true n b) s

/-- One operation of each bank that a search covers; a wide pair costs two (R170). -/
def State.aseOps (s : State) (bg wide : Bool) (banks : List Nat) : State :=
  (banks.flatMap (slotBanks wide)).foldl (fun s b => s.aseOp bg 1 b) s

/-- Search partition `p` in replica `r`, for a packet or for the command engine (`bg`). A winner whose row fails parity is
cleared, and the search repeats once. -/
def State.aseSearch (s : State) (bg : Bool) (p r key : Nat) (e : LookErr) : Hit × Option (Nat × Nat) × State :=
  let key := key % 2 ^ s.aseKeyBits p
  let wide := s.aseWide p
  let banks := s.aseCover p r key
  let s := (s.inc ASE.P_SEARCHES p).aseOps bg wide banks
  let (w, multi) := s.aseMatch p key banks
  let e1 := match w with | some (b, i) => s.slotErr wide b i e | none => e
  let count := fun (x : Hit × Option (Nat × Nat) × State) =>
    (x.1, x.2.1, x.2.2.when x.1.multi (fun s => s.inc ASE.P_MULTI_HITS p))
  match w, e1 with
  | some (b, i), .parity | some (b, i), .parityTwice =>
    let s := (s.slotFail p wide b i true srcAseParity).aseOps bg wide banks
    let (w2, multi2) := s.aseMatch p key banks
    match w2, e1 with
    | some (b2, i2), .parityTwice =>
      ({ error := true, result := s.aseField p 0x0C 4 }, none, s.slotFail p wide b2 i2 true srcAseParity)
    | some (b2, i2), _ =>
      if s.slotErr wide b2 i2 .clean = .parity then
        ({ error := true, result := s.aseField p 0x0C 4 }, none, s.slotFail p wide b2 i2 true srcAseParity)
      else count (s.aseAnswer p w2 multi2 .clean)
    | none, _ => count (s.aseAnswer p none multi2 .clean)
  | _, _ => count (s.aseAnswer p w multi e)

/-- A stage's lookup: replica (2 × pipe + slot) mod REPLICAS. -/
def State.aseLookup (s : State) (pipe slot p key : Nat) (e : LookErr) : Hit × State :=
  let r := (2 * pipe + slot) % s.aseReplicas p
  let (h, _, s) := s.aseSearch false p r key e
  (h, s.tally pipe evAse)

/-! ### The command engine (R173 to R177) -/

def aseOk : Nat := 0
def aseNoMatch : Nat := 1
def aseFull : Nat := 2
def aseLocked : Nat := 3
def aseBadPart : Nat := 4
def aseBadPos : Nat := 5
def aseBadOpcode : Nat := 6
def aseEnd : Nat := 7
def aseParity : Nat := 8

/-- A command completes with a code. -/
def State.aseDone (s : State) (code : Nat) : State := (s.set ASE.CMD_CODE code).event ASE.CMD_DONE 0 true sumAse

/-- `n` bytes of an operand array. -/
def State.aseOperand (s : State) (f : Fld) : List Byte := (List.range 10).flatMap (fun k => leBytes 4 (s.get f k))

/-- A half slot: key and mask (R160), PRIORITY, FLAGS, RESULT. -/
def slotBytes (key mask : Nat) (prio flags result : Nat) : List Byte :=
  leBytes 20 (key &&& mask) ++ leBytes 20 mask ++ leBytes 2 prio ++ leBytes 2 flags ++ leBytes 4 result ++ zeros 16

/-- Write the operand entry at bank `b`, index `i`, in one operation per bank. -/
def State.asePut (s : State) (wide : Bool) (b i : Nat) : State :=
  let s := s.aseWork wide b 1
  let key := leNat (s.aseOperand ASE.OP_KEY)
  let mask := leNat (s.aseOperand ASE.OP_MASK)
  let flags := 1 + 2 * b2n wide
  let s := s.memStore (slotAddr b i) (slotBytes (key % 2 ^ 160) (mask % 2 ^ 160) (s.get ASE.OP_PRIORITY)
    (flags + 256 * s.get ASE.OP_USER) (s.get ASE.OP_RESULT))
  if wide then s.memStore (slotAddr (b + 1) i) (slotBytes (key / 2 ^ 160) (mask / 2 ^ 160) 0 flags 0) else s

/-- Clasp holds a bank, or a bank of the pair (R172). -/
def State.aseHeld (s : State) (wide : Bool) (b : Nat) : Bool :=
  s.bitOf ASE.HELD (b % 32) (b / 32) || (wide && s.bitOf ASE.HELD ((b + 1) % 32) ((b + 1) / 32))

/-- The position's bank in each replica. -/
def State.asePosBanks (s : State) (p : Nat) : List Nat :=
  (List.range (s.aseReplicas p)).map (fun r => s.aseBank p r + s.get ASE.POS_BANK)

/-- A command that names a position. -/
def State.asePos (s : State) (p : Nat) (f : State → State) : State :=
  if !decide (p < s.get ASE.PART_COUNT) then s.aseDone aseBadPart
  else if s.aseField p 2 2 ≤ s.get ASE.POS_BANK || (s.aseWide p && s.get ASE.POS_BANK % 2 == 1) then s.aseDone aseBadPos
  else f s

/-- A command that changes entries, in every replica, ascending. -/
def State.aseChange (s : State) (p : Nat) (f : State → State) : State :=
  s.asePos p (fun s => if (s.asePosBanks p).any (fun b => s.aseHeld (s.aseWide p) b) then s.aseDone aseLocked else f s)

/-- WRITE_AT. -/
def State.aseWriteAt (s : State) (p : Nat) : State :=
  s.aseChange p (fun s =>
    ((s.asePosBanks p).foldl (fun s b => s.asePut (s.aseWide p) b (s.get ASE.POS_INDEX)) s).aseDone aseOk)

/-- DELETE_AT. -/
def State.aseDeleteAt (s : State) (p : Nat) : State :=
  s.aseChange p (fun s =>
    ((s.asePosBanks p).foldl (fun s b => (s.aseWork (s.aseWide p) b 1).slotClear (s.aseWide p) b (s.get ASE.POS_INDEX)) s).aseDone aseOk)

/-- The free slot of R174 among the indexes [lo, hi): the lowest at or above `i`, else the highest below. -/
def State.freeSlot (s : State) (b i lo hi : Nat) : Option Nat :=
  match ((List.range 2048).filter (fun k => decide (i ≤ k) && decide (k < hi))).find? (fun k => !s.slotValid b k) with
  | some f => some f
  | none => ((List.range 2048).reverse.filter (fun k => decide (lo ≤ k) && decide (k < i))).find? (fun k => !s.slotValid b k)

/-- The free slot for an insertion at `i`. -/
def State.aseFree (s : State) (p b i : Nat) : Option Nat :=
  let g := s.aseField p 5 1
  if bit (s.aseField p 4 1) 1 then
    match s.freeSlot b i (i / g * g) (min 2048 (i / g * g + g)) with
    | some f => some f
    | none => s.freeSlot b i 0 2048
  else s.freeSlot b i 0 2048

/-- Copy the slot at index `a` of bank `b` to index `c`, with MOVE_SHADOW set. -/
def State.moveHalf (s : State) (b a c : Nat) : State :=
  let x := s.memAt (slotAddr b a) 64
  s.memStore (slotAddr b c) (slice x 0 42 ++ leBytes 2 (s.slotFlags b a ||| 4) ++ slice x 44 20)

/-- Step 1 of a move: the entry is copied to index `c` with MOVE_SHADOW = 1, and index `a` is its move source (R175). -/
def State.moveCopy (s : State) (wide : Bool) (b a c : Nat) : State :=
  let s := (slotBanks wide b).foldl (fun s b => s.moveHalf b a c) (s.aseWork wide b 1)
  { s with pipe := { s.pipe with move := some (b, a) } }

/-- Step 2: VALID is cleared in the source. -/
def State.moveVacate (s : State) (wide : Bool) (b a : Nat) : State := (s.aseWork wide b 1).slotClear wide b a

/-- Step 3: MOVE_SHADOW is cleared in the copy. -/
def State.moveSettle (s : State) (wide : Bool) (b c : Nat) : State :=
  let s := (s.aseWork wide b 1).slotSetFlags wide b c (fun v => bitClear v 2)
  { s with pipe := { s.pipe with move := none } }

/-- Move an entry to an adjacent slot: the three operations in order. -/
def State.aseMove (s : State) (wide : Bool) (b a c : Nat) : State :=
  ((s.moveCopy wide b a c).moveVacate wide b a).moveSettle wide b c

/-- Insert at index `i` of bank `b` with free slot `f`; the number of moves. -/
def State.aseInsertBank (s : State) (wide : Bool) (b i f : Nat) : Nat × State :=
  if f < i then
    let s := (List.range (i - 1 - f)).foldl (fun s k => s.aseMove wide b (f + 1 + k) (f + k)) s
    (i - 1 - f, s.asePut wide b (i - 1))
  else
    let s := (List.range (f - i)).foldl (fun s k => s.aseMove wide b (f - 1 - k) (f - k)) s
    (f - i, s.asePut wide b i)

/-- INSERT_AT; MOVES shows the moves of this command, none if it ends without inserting (R182). -/
def State.aseInsertAt (s : State) (p : Nat) : State :=
  (s.set ASE.CMD_MOVES 0).aseChange p (fun s =>
    let i := s.get ASE.POS_INDEX
    let banks := s.asePosBanks p
    if banks.any (fun b => (s.aseFree p b i).isNone) then s.aseDone aseFull
    else
      let (n, s) := banks.foldl (fun (x : Nat × State) b =>
        match x.2.aseFree p b i with
        | some f => let y := x.2.aseInsertBank (x.2.aseWide p) b i f; (x.1 + y.1, y.2)
        | none => x) (0, s)
      ((s.set ASE.CMD_MOVES n).add ASE.P_MOVES n p).aseDone aseOk)

/-- ASE_FOUND and the operands PRIORITY, USER and RESULT show an entry. -/
def State.aseFound (s : State) (b i : Nat) : State :=
  let f := s.slotFlags b i
  let s := ((s.set ASE.F_BANK b).set ASE.F_INDEX i).setB ASE.F_FOUND true
  ((s.set ASE.OP_PRIORITY (s.slotPrio b i)).set ASE.OP_USER (bits f 8 8)).set ASE.OP_RESULT (s.mem (slotAddr b i + 44) 4)

/-- A command that names a replica; one that the partition does not have is a bad position (log 22). -/
def State.aseReplica (s : State) (p r : Nat) (f : State → State) : State :=
  if !decide (p < s.get ASE.PART_COUNT) then s.aseDone aseBadPart
  else if s.aseReplicas p ≤ r then s.aseDone aseBadPos else f s

/-- The cursor after index `i` of bank `b`, relative to the replica's first, has been reported. -/
def AseCursor.report (c : AseCursor) (b i : Nat) : AseCursor :=
  { c with banks := c.banks.map (fun x => if x.1 = b then (b, i + 1) else x) }

/-- SEARCH. -/
def State.aseCmdSearch (s : State) (p r : Nat) (e : LookErr) : State :=
  s.aseReplica p r (fun s =>
    let key := leNat (s.aseOperand ASE.OP_KEY) % 2 ^ s.aseKeyBits p
    let c : AseCursor := { part := p, key := key, banks := (s.aseCover p r key).map (fun b => (b - s.aseBank p r, 0)) }
    let (h, w, s) := s.aseSearch true p r key e
    let s := s.setB ASE.CMD_MULTI h.multi
    match w with
    | some (b, i) =>
      (State.aseFound { s with pipe := { s.pipe with ase := some (c.report (b - s.aseBank p r) i) } } b i).aseDone aseOk
    | none => (State.setB { s with pipe := { s.pipe with ase := some c } } ASE.F_FOUND false).aseDone
        (if h.error then aseParity else aseNoMatch))

/-- The lowest unreported match of each bank of the cursor, taken in replica `r`; shadow copies are skipped. -/
def State.aseRest (s : State) (c : AseCursor) (r : Nat) : List (Nat × Nat) :=
  c.banks.filterMap (fun x =>
    let b := s.aseBank c.part r + x.1
    ((s.bankMatches (s.aseWide c.part) b c.key).find? (fun i => decide (x.2 ≤ i) && !bit (s.slotFlags b i) 2)).map
      (fun i => (b, i)))

/-- STEP reports an entry, and the cursor moves past it. -/
def State.aseReport (s : State) (c : AseCursor) (r : Nat) (w : Nat × Nat) : State :=
  (State.aseFound { s with pipe := { s.pipe with ase := some (c.report (w.1 - s.aseBank c.part r) w.2) } } w.1 w.2).aseDone aseOk

/-- STEP ends without an entry. -/
def State.aseNone (s : State) (code : Nat) : State := (s.setB ASE.F_FOUND false).aseDone code

/-- STEP: the unreported matches compete, and the winner is verified as a search's is (R177, R178). -/
def State.aseStep (s : State) (c : AseCursor) (r : Nat) (e : LookErr) : State :=
  let p := c.part
  let wide := s.aseWide p
  let banks := c.banks.map (fun x => s.aseBank p r + x.1)
  let s := s.aseOps true wide banks
  match s.slotBest (s.aseRest c r) with
  | none => s.aseNone aseEnd
  | some w =>
    let e1 := s.slotErr wide w.1 w.2 e
    match e1 with
    | .parity | .parityTwice =>
      let s := (s.slotFail p wide w.1 w.2 true srcAseParity).aseOps true wide banks
      (match s.slotBest (s.aseRest c r) with
      | none => s.aseNone aseEnd
      | some w2 =>
        (match s.slotErr wide w2.1 w2.2 (if e1 = .parityTwice then .parity else .clean) with
        | .parity | .parityTwice => (s.slotFail p wide w2.1 w2.2 true srcAseParity).aseNone aseParity
        | .bad => (s.slotBad p w2.1 w2.2 srcAseParity).aseNone aseParity
        | .corrected => (s.slotFix wide w2.1 w2.2).aseReport c r w2
        | .clean => s.aseReport c r w2))
    | .bad => (s.slotBad p w.1 w.2 srcAseParity).aseNone aseParity
    | .corrected => (s.slotFix wide w.1 w.2).aseReport c r w
    | .clean => s.aseReport c r w

/-- A STEP command, judged on its partition and its replica as the others are; it goes on in the partition of the last
SEARCH, in the replica that it names (R182, log 22). -/
def State.aseCmdStep (s : State) (p r : Nat) (e : LookErr) : State :=
  s.aseReplica p r (fun s =>
    match s.pipe.ase with
    | none => s.aseNone aseEnd
    | some c => if s.aseReplicas c.part ≤ r then s.aseDone aseBadPos else s.aseStep c r e)

/-- READ_AT. -/
def State.aseReadAt (s : State) (p r : Nat) : State :=
  s.asePos p (fun s => s.aseReplica p r (fun s =>
    let b := s.aseBank p r + s.get ASE.POS_BANK
    let i := s.get ASE.POS_INDEX
    let s := s.aseWork (s.aseWide p) b 1
    let a := slotAddr b i
    let two := fun (k : Nat) => s.memAt (a + k) 20 ++ (if s.aseWide p then s.memAt (slotAddr (b + 1) i + k) 20 else zeros 20)
    let key := two 0
    let mask := two 20
    let s := upTo (if s.aseWide p then 10 else 5) (fun k s =>
      (s.set ASE.OP_KEY (le key (4 * k) 4) k).set ASE.OP_MASK (le mask (4 * k) 4) k) s
    let s := (s.aseFound b i).setB ASE.F_FOUND (s.slotValid b i)
    (s.setB ASE.F_SHADOW (bit (s.slotFlags b i) 2)).aseDone aseOk))

/-- A write of ASE_CMD. -/
def State.aseCommand (s : State) (p op r : Nat) (e : LookErr) : State :=
  match op with
  | 1 => s.aseWriteAt p
  | 2 => s.aseInsertAt p
  | 3 => s.aseDeleteAt p
  | 4 => s.aseCmdSearch p r e
  | 5 => s.aseCmdStep p r e
  | 6 => s.aseReadAt p r
  | _ => s.aseDone aseBadOpcode

def execAseWriteAt (p : Fin 64) (s : State) : Result := .next (s.viaHost ASE.CMD_OPCODE (fun s => s.aseWriteAt p.val))
def execAseInsertAt (p : Fin 64) (s : State) : Result := .next (s.viaHost ASE.CMD_OPCODE (fun s => s.aseInsertAt p.val))
def execAseDeleteAt (p : Fin 64) (s : State) : Result := .next (s.viaHost ASE.CMD_OPCODE (fun s => s.aseDeleteAt p.val))
def execAseSearchCmd (p : Fin 64) (r : Fin 128) (e : LookErr) (s : State) : Result :=
  .next (s.viaHost ASE.CMD_OPCODE (fun s => s.aseCmdSearch p.val r.val e))
def execAseStep (p : Fin 64) (r : Fin 128) (e : LookErr) (s : State) : Result :=
  .next (s.viaHost ASE.CMD_OPCODE (fun s => s.aseCmdStep p.val r.val e))
def execAseReadAt (p : Fin 64) (r : Fin 128) (s : State) : Result :=
  .next (s.viaHost ASE.CMD_OPCODE (fun s => s.aseReadAt p.val r.val))

/-! ### Clasp (R172) -/

def State.aseClaspReq (s : State) (b : Nat) : State := s.setBit ASE.REQ (b % 32) (b / 32)

/-- Writes in the bank have completed: its HELD bit sets. -/
def State.aseClaspGrant (s : State) (b : Nat) : State :=
  if s.bitOf ASE.REQ (b % 32) (b / 32) then s.setBit ASE.HELD (b % 32) (b / 32) else s

def State.aseClaspFree (s : State) (b : Nat) : State :=
  (s.clearBit ASE.REQ (b % 32) (b / 32)).clearBit ASE.HELD (b % 32) (b / 32)

def execAseClaspRequest (b : Fin 1024) (s : State) : Result := .next (s.viaHost ASE.REQ (fun s => s.aseClaspReq b.val))
def execAseClaspGrant (b : Fin 1024) (s : State) : Result := .next (s.aseClaspGrant b.val)
def execAseClaspRelease (b : Fin 1024) (s : State) : Result := .next (s.viaHost ASE.REQ (fun s => s.aseClaspFree b.val))

/-! ### Live figures and Planish (R179, R182) -/

/-- ENTRIES: valid entries of replica 0, found by their listed flag bytes. -/
def State.aseEntries (s : State) (p : Nat) : Nat :=
  let base := s.aseBank p 0
  let n := s.aseField p 2 2
  (s.dev.filter (fun c =>
    let k := (c.1 - aseBase) / 64
    let b := k / 2 / 2048 * 2 + k % 2
    inRange aseBase (aseBase + 0x8000000) c.1 && c.1 % 64 == 42 && c.2.toNat % 2 == 1 &&
      decide (base ≤ b) && decide (b < base + n) && (!s.aseWide p || b % 2 == 0))).length

/-- The partition and replica that own a bank. -/
def State.aseOwner (s : State) (b : Nat) : Option (Nat × Nat) :=
  match (List.range (s.get ASE.PART_COUNT)).find? (fun p =>
    decide (s.aseBank p 0 ≤ b) && decide (b < s.aseBank p (s.aseReplicas p))) with
  | some p => some (p, (b - s.aseBank p 0) / s.aseField p 2 2)
  | none => none

/-- The first other replica whose slot at the position passes both checks and whose bank is not held (R179). -/
def State.aseDonor (s : State) (p r b i : Nat) (good : Nat → Bool) : Option Nat :=
  let wide := s.aseWide p
  let rel := b - s.aseBank p r
  ((List.range (s.aseReplicas p)).find? (fun q =>
    let d := s.aseBank p q + rel
    q != r && good q && s.slotErr wide d i .clean == .clean && !s.aseHeld wide d)).map (fun q => s.aseBank p q + rel)

/-- A row that failed parity: its entry is copied from a replica, or cleared. Planish writes nothing in a held bank: there the
event is recorded alone (R172, R179). -/
def State.planishRepair (s : State) (p r b i : Nat) (good : Nat → Bool) : State :=
  let wide := s.aseWide p
  if s.aseHeld wide b then s.parityEvent p b i false false srcAseRepair
  else match s.aseDonor p r b i good with
    | some d =>
      let s := ((s.parityEvent p b i false true srcAseRepair).aseWork wide d 1).aseWork wide b 1
      if wide then (s.memStore (slotAddr b i) (s.memAt (slotAddr d i) 64)).memStore (slotAddr (b + 1) i)
        (s.memAt (slotAddr (d + 1) i) 64)
      else s.memStore (slotAddr b i) (s.memAt (slotAddr d i) 64)
    | none => (s.aseWork wide b 1).slotFail p wide b i false srcAseRepair

/-- Planish checks one entry: `e`, what its row and SRAM image show; `good`, replicas whose slot at that position passes both
checks. -/
def State.planishAse (s : State) (b i : Nat) (e : LookErr) (good : Nat → Bool) : State :=
  match s.aseOwner b with
  | none => s
  | some (p, r) =>
    let wide := s.aseWide p
    let b := if wide then b / 2 * 2 else b
    let s := s.aseWork wide b 1
    match s.slotErr wide b i e with
    | .parity | .parityTwice => s.planishRepair p r b i good
    | .corrected => if s.aseHeld wide b then s.inc ASE.SRAM_CORR else s.slotFix wide b i
    | .bad => s.slotBad p b i srcAseRepair
    | .clean => s

end Sys2Proof.Machine
end

