-- ==== Sys2Proof/Machine/Editor.lean ====
section
/-!
DEFINITION. The header editor (R204, R205): edits and the strip, ECN marks (R255), Hallmark insertion (R296 to R300), and the
PTP messages of R280 to R283.
-/
namespace Sys2Proof.Machine
open Reg

/-! ### Recording edits (R204) -/

/-- Net growth of the frame by an edit: KIND 0 REPLACE, 1 INSERT, 2 REMOVE. -/
def Edit.growth (e : Edit) : Int := if e.kind = 1 then (e.len : Int) else if e.kind = 2 then -(e.len : Int) else 0

def editsGrowth (l : List Edit) : Int := l.foldl (fun n e => n + e.growth) 0

/-- Two edits may stand together: `a` recorded earlier, `e` new. -/
def Edit.apart (a e : Edit) : Bool :=
  if a.kind = 1 then e.kind == 1 || !(decide (e.pos < a.pos) && decide (a.pos < e.pos + e.len))
  else if e.kind = 1 then !(decide (a.pos < e.pos) && decide (e.pos < a.pos + a.len))
  else a.len == 0 || e.len == 0 || decide (a.pos + a.len ≤ e.pos) || decide (e.pos + e.len ≤ a.pos)

/-- The conditions of R204, the mark's validity apart. `limit`: bytes of the window that lie in the frame without its FCS. -/
def editOk (edits : List Edit) (limit : Nat) (e : Edit) : Bool :=
  decide (e.kind < 3) &&
    (if e.kind = 1 then decide (e.pos ≤ 511) && decide (e.pos ≤ limit) else decide (e.pos + e.len ≤ limit)) &&
    decide (edits.length < 8) && edits.all (fun a => a.apart e) && decide (editsGrowth (edits ++ [e]) ≤ 128)

/-- Bytes of the window that edits can reach. A frame that still arrives has more than 512 bytes. -/
def Frame.editLimit (f : Frame) : Nat := if f.done then min 512 (f.bytes.length - 4) else 512

/-- The stored position that a mark and an offset name, for an instance: none if the mark is not valid. -/
def Inst.markPos (i : Inst) (m off : Nat) : Option Nat :=
  if bit i.markValid m then some (i.marks.getD m 0 + off) else none

/-- An edit that breaks R204 is ignored (R200). -/
def State.editErr (s : State) (pipe stage word : Nat) : State :=
  let s := ((s.set MAP.LE_STAGE stage pipe).set MAP.LE_KIND 4 pipe).set MAP.LE_WORD word pipe
  ((s.setB MAP.LE_VALID true pipe).inc MAP.EDIT_ERR pipe).fault srcAction pipe

/-- Record an edit, or ignore it. -/
def State.editRecord (s : State) (e : Eg) (x : Edit) (word : Nat) : Eg × State :=
  if editOk e.edits (s.getStore e.i.h).f.editLimit x then ({ e with edits := e.edits ++ [x] }, s)
  else (e, s.editErr e.pipe e.stage word)

/-- The verdict's STRIP is recorded first. -/
def State.stripRecord (s : State) (e : Eg) : Eg × State :=
  match e.i.strip with
  | some (origin, len) => s.editRecord e { kind := 2, pos := origin, len := len } 0
  | none => (e, s)

/-! ### The edited head -/

/-- Bytes of the edited head, each with its position in the stored frame plus one, or 0 for an inserted byte. -/
abbrev Tagged := List (Nat × Byte)

/-- The byte of stored position `p` after the edits. -/
def editByte (edits : List Edit) (p : Nat) (b : Byte) : Tagged :=
  match edits.find? (fun e => e.kind != 1 && decide (e.pos ≤ p) && decide (p < e.pos + e.len)) with
  | some e => if e.kind = 0 then [(p + 1, e.data.getD (p - e.pos) 0)] else []
  | none => [(p + 1, b)]

/-- Bytes inserted before stored position `p`. -/
def editInserts (edits : List Edit) (p : Nat) : Tagged :=
  (edits.filter (fun e => e.kind == 1 && e.pos == p)).flatMap (fun e => e.data.map (fun b => (0, b)))

/-- Apply edits to the first bytes of a frame, from stored position `p` on. -/
def editApply (edits : List Edit) (p : Nat) : List Byte → Tagged
  | [] => editInserts edits p
  | b :: bs => editInserts edits p ++ editByte edits p b ++ editApply edits (p + 1) bs

/-- Where stored position `p` stands in the edited head: nowhere if an edit removed it. -/
def tagFind (l : Tagged) (p : Nat) : Option Nat := l.findIdx? (fun x => x.1 == p + 1)

/-- Where the `n` bytes from stored position `p` stand. -/
def tagFindRun (l : Tagged) (p n : Nat) : Option (List Nat) := (List.range n).mapM (fun k => tagFind l (p + k))

def tagByte (l : Tagged) (i : Nat) : Nat := ((l.getD i (0, 0)).2).toNat

def tagPut (l : Tagged) (i v : Nat) : Tagged := l.set i ((l.getD i (0, 0)).1, BitVec.ofNat 8 v)

/-- The 16-bit word in the bytes at indexes `i` and `j`, and its change. -/
def tagWord (l : Tagged) (i j : Nat) : Nat := 256 * tagByte l i + tagByte l j
def tagPutWord (l : Tagged) (i j v : Nat) : Tagged := tagPut (tagPut l i (v / 256)) j v

/-- Incremental update of a checksum whose data changes from one word to another. -/
def ocUpdate (check old new : Nat) : Nat := 65535 - ocAdd (ocAdd (65535 - check) (65535 - old)) new

/-! ### ECN marks (R255) -/

/-- The frame with CE set: none if it cannot be marked. The second component says whether the field changed. -/
def ecnApply (l : Tagged) (m : Nat) : Option (Tagged × Bool) :=
  match tagFind l m, tagFind l (m + 1) with
  | some i, some j =>
    let b := tagByte l j
    if tagByte l i / 16 = 4 then
      match tagFind l (m + 10), tagFind l (m + 11) with
      | some c, some d =>
        if b % 4 = 1 || b % 4 = 2 then
          let b2 := b / 4 * 4 + 3
          let old := tagWord l i j
          let l2 := tagPut l j b2
          some (tagPutWord l2 c d (ocUpdate (tagWord l c d) old (tagWord l2 i j)), true)
        else some (l, false)
      | _, _ => none
    else if tagByte l i / 16 = 6 then
      let f := b / 16 % 4
      if f = 1 || f = 2 then some (tagPut l j (bitSet (bitSet b 4) 5), true) else some (l, false)
    else none
  | _, _ => none

/-- Mark an instance decided for marking. -/
def State.ecnMark (s : State) (i : Inst) (l : Tagged) : Tagged × State :=
  if !i.ecn then (l, s)
  else
    let m := bits (s.mem (queueAddr i.queue + 1) 1) 2 2
    match (i.markPos m 0).bind (fun p => ecnApply l p) with
    | some (l, true) => (l, s.memSet (queueAddr i.queue + 0x30) 4 (s.mem (queueAddr i.queue + 0x30) 4 + 1))
    | some (l, false) => (l, s)
    | none => (l, s.inc QSCH.ECN_SKIPPED)

/-! ### Hallmark insertion (R296 to R300) -/

/-- What an insertion does: the edits with it, bytes written at stored positions, and how much the frame grows. `done`: a
record goes into the frame. -/
structure HmPlan where
  edits : List Edit
  pokes : List (Nat × Byte) := []
  grow : Nat := 0
  done : Bool := false

/-- Bytes written at consecutive stored positions. -/
def pokesAt (p : Nat) (l : List Byte) : List (Nat × Byte) := (List.range l.length).map (fun k => (p + k, l.getD k 0))

/-- INS_TYPE 1, IOAM, at P = `p` (R298). -/
def State.hmIoam (s : State) (e : Eg) (p limit prof : Nat) (win rec_ : List Byte) : HmPlan × State :=
  let skip := fun r => (({ edits := e.edits } : HmPlan), s.hmSkip e.port r)
  if limit < p + 8 then skip 1
  else
    let w := be win (p + 2) 2
    if be win p 2 != s.teleProfile prof 0x0A 2 || be win (p + 4) 3 != 2 || bits w 11 5 != 0 then skip 2
    else
      let left := bits w 0 7
      if left < 9 then ({ edits := e.edits, pokes := pokesAt (p + 2) (beBytes 2 (bitSet w 10)) }, s.inc TELE.IOAM_FULL)
      else
        let q := p + 8 + 4 * (left - 9)
        if limit < q + 36 then skip 1
        else
          let data := beBytes 4 (8 * 2 ^ 24 + s.teleProfile prof 0x0C 4 % 2 ^ 24) ++ rec_
          let hdr : Edit := { kind := 0, pos := p, len := 8 }
          let x : Edit := { kind := 0, pos := q, len := 36, data := data }
          if editOk e.edits limit hdr && editOk e.edits limit x then
            ({ edits := e.edits, pokes := pokesAt (p + 2) (beBytes 2 (w - 9)) ++ pokesAt q data, done := true }, s)
          else skip 3

/-- INS_TYPE 2 and 3, shims, at P = `p` (R299). `len`: length of the edited frame. -/
def State.hmShim (s : State) (e : Eg) (p limit prof len : Nat) (win rec_ : List Byte) : HmPlan × State :=
  let skip := fun r => (({ edits := e.edits } : HmPlan), s.hmSkip e.port r)
  let dom := s.teleProfile prof 0x10 4
  let insert := fun (q : Nat) (data : List Byte) (pokes : List (Nat × Byte)) =>
    let x : Edit := { kind := 1, pos := q, len := data.length, data := data }
    if !editOk e.edits limit x then skip 3
    else if s.maxFrame e.port < len + data.length then skip 4
    else (({ edits := e.edits ++ [x], pokes := pokes, grow := data.length, done := true } : HmPlan), s)
  if s.teleProfile prof 0 1 = 2 then
    if limit < p || 511 < p then skip 1
    else insert p ([0x10, 1, BitVec.ofNat 8 (s.teleProfile prof 6 1), 0] ++ beBytes 4 dom ++ rec_) []
  else if limit < p + 8 then skip 1
  else if byteAt win p / 16 != 1 || be win (p + 4) 4 != dom then skip 5
  else
    let hops := byteAt win (p + 1)
    if byteAt win (p + 2) ≤ hops then
      ({ edits := e.edits, pokes := pokesAt p [BitVec.ofNat 8 (bitSet (byteAt win p) 0)] }, s.inc TELE.SHIM_FULL)
    else insert (p + 8 + 32 * hops) rec_ (pokesAt (p + 1) [BitVec.ofNat 8 (hops + 1)])

/-- The insertion that an instance asks for. -/
def State.hmPlan (s : State) (e : Eg) (len : Nat) (win rec_ : List Byte) : HmPlan × State :=
  if !bit e.tele 0 then ({ edits := e.edits }, s)
  else
    let prof := telePick e.tele
    let limit := (s.getStore e.i.h).f.editLimit
    let t := s.teleProfile prof 0 1
    if t = 0 then ({ edits := e.edits }, s.hmSkip e.port 6)
    else match e.i.markPos (s.teleProfile prof 1 1 % 4) (s.teleProfile prof 2 2) with
      | none => ({ edits := e.edits }, s.hmSkip e.port 1)
      | some p => if t = 1 then s.hmIoam e p limit prof win rec_ else s.hmShim e p limit prof len win rec_

/-- Write the pokes into the head; a byte that an edit removed is not written. -/
def tagPokes (l : Tagged) (pokes : List (Nat × Byte)) : Tagged :=
  pokes.foldl (fun l x => match tagFind l x.1 with | some i => tagPut l i x.2.toNat | none => l) l

/-- Add `g` to the length of the IP header at stored position `p` (R300): none if it is not there. -/
def ipGrow (l : Tagged) (p g : Nat) : Option Tagged :=
  match tagFindRun l p 12 with
  | some ix =>
    let at_ := fun k => ix.getD k 0
    let v := tagByte l (at_ 0) / 16
    if v = 4 then
      let old := tagWord l (at_ 2) (at_ 3)
      let new := (old + g) % 65536
      let c := ocUpdate (tagWord l (at_ 10) (at_ 11)) old new
      some (tagPutWord (tagPutWord l (at_ 2) (at_ 3) new) (at_ 10) (at_ 11) c)
    else if v = 6 then some (tagPutWord l (at_ 4) (at_ 5) (tagWord l (at_ 4) (at_ 5) + g))
    else none
  | none => none

/-- What a byte at index `i` adds to the sum of a UDP datagram whose header is at index `u`. -/
def ocWeigh (i u b : Nat) : Nat := if (i + u) % 2 = 0 then 256 * b else b

/-- The UDP header at stored position `p` takes the insertion: its length grows by `g`, and a non-zero checksum is updated for
the bytes changed (`before`, `pokes`) and inserted (`ins`, at index `at_`), and for the length in header and pseudo-header. -/
def udpGrow (l : Tagged) (p g : Nat) (before : Tagged) (pokes : List (Nat × Byte)) (at_ : Nat) (ins : List Byte) :
    Option Tagged :=
  match tagFindRun l p 8 with
  | some ix =>
    let k := fun n => ix.getD n 0
    let u := k 0
    let len := tagWord l (k 4) (k 5)
    let l2 := if g = 0 then l else tagPutWord l (k 4) (k 5) (len + g)
    let check := tagWord l (k 6) (k 7)
    if check = 0 then some l2
    else
      let c := pokes.foldl (fun c x =>
        match tagFind l x.1, tagFind before x.1 with
        | some i, some j => ocUpdate c (ocWeigh i u (tagByte before j)) (ocWeigh i u x.2.toNat)
        | _, _ => c) check
      let c := (List.range ins.length).foldl (fun c n => ocUpdate c 0 (ocWeigh (at_ + n) u (ins.getD n 0).toNat)) c
      let c := ocUpdate (ocUpdate c 0 g) 0 g
      some (tagPutWord l2 (k 6) (k 7) (if c = 0 then 65535 else c))
  | none => none

/-- The length and checksum updates that follow an insertion (R300). -/
def State.hmFix (s : State) (e : Eg) (plan : HmPlan) (win : List Byte) (before l : Tagged) : Tagged × State :=
  if !plan.done then (l, s)
  else
    let prof := telePick e.tele
    let l3 := s.teleProfile prof 4 1
    let l4 := s.teleProfile prof 5 1
    let (l, s) := if bit l3 7 && plan.grow != 0 then
        match (e.i.markPos (l3 % 4) 0).bind (fun p => ipGrow l p plan.grow) with
        | some l => (l, s)
        | none => (l, s.inc TELE.HM_FIXUP_SKIPPED)
      else (l, s)
    if bit l4 7 then
      let ins := match plan.edits.getLast? with | some x => if plan.grow = 0 then [] else x.data | none => []
      let at_ := match plan.edits.getLast? with
        | some x => (editApply plan.edits 0 (win.take x.pos)).length - ins.length
        | none => 0
      match (e.i.markPos (l4 % 4) 0).bind (fun p => udpGrow l p plan.grow before plan.pokes at_ ins) with
      | some l => (l, s)
      | none => (l, s.inc TELE.HM_FIXUP_SKIPPED)
    else (l, s)

/-! ### PTP messages (R280 to R283) -/

/-- A recognised message: offset of the PTP header, and of the UDP header if there is one. -/
structure PtpAt where
  hdr : Nat
  udp : Option Nat
  deriving DecidableEq, Repr

def isVlanTag (t : Nat) : Bool := t == 0x8100 || t == 0x88A8

/-- Where the EtherType stands, after at most two VLAN tags. -/
def etherTypeAt (b : List Byte) : Nat :=
  if isVlanTag (be b 12 2) then (if isVlanTag (be b 16 2) then 20 else 16) else 12

/-- The PTP message of a frame, if a port recognises one (R280). -/
def State.ptpFind (s : State) (p : Nat) (b : List Byte) : Option PtpAt :=
  let t := etherTypeAt b
  let ip := t + 2
  let port := fun k => be b k 2 == 319 || be b k 2 == 320
  let x : Option PtpAt :=
    if be b t 2 = 0x88F7 then (if s.flag TIME.PTP_ETH p then some ⟨ip, none⟩ else none)
    else if be b t 2 = 0x0800 then
      if s.flag TIME.PTP_UDP4 p && byteAt b ip == 0x45 && byteAt b (ip + 9) == 17 && be b (ip + 6) 2 % 2 ^ 14 == 0 &&
          port (ip + 22) then some ⟨ip + 28, some (ip + 20)⟩ else none
    else if be b t 2 = 0x86DD then
      if s.flag TIME.PTP_UDP6 p && byteAt b ip / 16 == 6 && byteAt b (ip + 6) == 17 && port (ip + 42) then
        some ⟨ip + 48, some (ip + 40)⟩ else none
    else none
  match x with
  | some y =>
    if decide (y.hdr + 34 ≤ b.length) && byteAt b (y.hdr + 1) % 16 == 2 && decide (byteAt b (y.hdr + 1) / 16 ≤ 1) then some y
    else none
  | none => none

/-- Messages 0x0 to 0x3 are event messages; 0x0 is Sync. -/
def ptpType (b : List Byte) (y : PtpAt) : Nat := byteAt b y.hdr % 16

/-- A non-zero UDP checksum follows a change of the datagram from `old` to `new`. -/
def ptpUdpFix (y : PtpAt) (old new : List Byte) : List Byte :=
  match y.udp with
  | some u =>
    if be old (u + 6) 2 = 0 then new
    else
      let c := ocUpdate (be old (u + 6) 2) (ocSum (old.drop (u + 8))) (ocSum (new.drop (u + 8)))
      overlay new (u + 6) (beBytes 2 (if c = 0 then 65535 else c))
  | none => new

/-- correctionField, in 2^-16 ns. -/
def ptpCorr (b : List Byte) (y : PtpAt) : Int := signed (be b (y.hdr + 8) 8) 64

def ptpSetCorr (b : List Byte) (y : PtpAt) (v : Int) : List Byte := overlay b (y.hdr + 8) (beBytes 8 (wrapInt v 64))

/-- The transparent clock (R281), for a frame that a front port received, recirculated since or not: residence time, and
LINK_DELAY of that port for a Sync under TC_MODE 2. -/
def State.ptpTransparent (s : State) (e : Eg) (y : PtpAt) (ts : Nat) (b : List Byte) : List Byte × State :=
  let mode := s.get TIME.TC_MODE e.port
  match (s.getStore e.i.h).f.front with
  | none => (b, s)
  | some p =>
    if mode = 0 then (b, s)
    else
      let delay : Nat := if mode = 2 && ptpType b y = 0 then s.get TIME.LINK_DELAY p * 4096 else 0
      let v := ptpCorr b y + ((ts : Int) - (s.inTs e.i.h : Int)) + (delay : Int)
      if (2 ^ 63 : Int) ≤ v || v < -(2 ^ 63 : Int) then (b, s.inc TIME.TC_SKIPPED e.port)
      else (ptpUdpFix y b (ptpSetCorr b y v), s.inc TIME.TC_UPDATED e.port)

/-- A one-step Sync from the CPU port (R282). -/
def State.ptpOneStep (s : State) (e : Eg) (y : PtpAt) (ts : Nat) (b : List Byte) : List Byte :=
  if s.flag TIME.ONE_STEP e.port && e.i.inPort == cpuPort && ptpType b y == 0 && !bit (byteAt b (y.hdr + 6)) 1 then
    let c := overlay b (y.hdr + 34) (beBytes 6 (timeSec ts) ++ beBytes 4 (timeNs ts))
    ptpUdpFix y b (ptpSetCorr c y (ptpCorr b y + (timeFrac ts : Nat)))
  else b

/-- The TX_TIMESTAMP record of an event message from the CPU port (R283). -/
def State.ptpRecord (s : State) (e : Eg) (y : PtpAt) (ts : Nat) (b : List Byte) : State :=
  if s.flag TIME.TWO_STEP_CAP e.port && e.i.inPort == cpuPort then
    let h := y.hdr
    let rec_ := leBytes 1 0x20 ++ slice b h 1 ++ slice b (h + 4) 1 ++ zeros 1 ++ leBytes 2 e.port ++
      leBytes 2 (be b (h + 30) 2) ++ leBytes 6 (timeSec ts) ++ leBytes 4 (timeNs ts) ++ leBytes 2 (timeFrac ts) ++
      slice b (h + 20) 8
    let (s, ok) := s.eventRingWrite (s.get TIME.TS_RING e.port) rec_
    s.inc (if ok then TIME.TS_CAPTURED else TIME.TS_LOST) e.port
  else s

/-- PTP on egress through a front port. -/
def State.ptpEgress (s : State) (e : Eg) (ts : Nat) (b : List Byte) : List Byte × State :=
  match s.ptpFind e.port b with
  | some y =>
    if 3 < ptpType b y then (b, s)
    else
      let (b, s) := s.ptpTransparent e y ts b
      let b := s.ptpOneStep e y ts b
      (b, s.ptpRecord e y ts b)
  | none => (b, s)

/-! ### Departure -/

/-- The frame length that governs a departure: the frame's, or E of R250 while it still arrives. -/
def State.knownLen (s : State) (h : Nat) : Nat :=
  let x := s.getStore h
  if x.f.done then x.f.bytes.length else x.decl.getD (s.maxFrame x.f.port)

/-- The edited head of a departing frame: its bytes, how many bytes of the stored frame it stands for, and where its bytes come
from if an ECN mark waits for bytes beyond it. -/
structure Head where
  bytes : List Byte
  taken : Nat
  tags : List Nat := []

/-- The bytes that an ECN mark needs have arrived. -/
def State.ecnHere (s : State) (i : Inst) (f : Frame) : Bool :=
  !i.ecn || f.done ||
    (match i.markPos (bits (s.mem (queueAddr i.queue + 1) 1) 2 2) 0 with | some p => decide (p + 12 ≤ 512) | none => true)

/-- The head of an instance as it leaves: edits, Hallmark insertion, ECN mark, and on a front port PTP. Of a whole frame the
head takes in the bytes behind the first 512 that an ECN mark can reach. -/
def State.departHead (s : State) (e : Eg) (ts : Nat) (rec_ : List Byte) : Head × State :=
  let f := (s.getStore e.i.h).f
  let win := f.bytes.take 512
  let more := if f.done then slice f.bytes 512 12 else []
  let len := ((s.knownLen e.i.h : Int) + editsGrowth e.edits).toNat
  let (plan, s) := s.hmPlan e len win rec_
  let before := editApply plan.edits 0 win
  let (l, s) := s.hmFix e plan win before (tagPokes before plan.pokes)
  let l := l ++ editApply [] 512 more
  let here := s.ecnHere e.i f
  let (l, s) := if here then s.ecnMark e.i l else (l, s)
  let b := l.map (fun x => x.2)
  let (b, s) := if e.port < 1024 then s.ptpEgress e ts b else (b, s)
  ({ bytes := b, taken := 512 + more.length, tags := if here then [] else l.map (fun x => x.1) }, s)

/-- The ECN mark that has waited for the frame's bytes is applied (R255). -/
def State.ecnLate (s : State) (e : Eg) (h : Head) : Head × State :=
  if h.tags.isEmpty then (h, s)
  else
    let more := slice (s.getStore e.i.h).f.bytes h.taken 12
    let (l, s) := s.ecnMark e.i (h.tags.zip h.bytes ++ editApply [] h.taken more)
    ({ bytes := l.map (fun x => x.2), taken := h.taken + more.length }, s)

/-- A whole departing frame: its head, the rest as stored, padded if it was edited and is short, and a new FCS. The second
component says whether it was padded (R205). -/
def State.departFrame (s : State) (e : Eg) (head : Head) : List Byte × Bool :=
  let all := head.bytes ++ (s.getStore e.i.h).f.bytes.drop head.taken
  let body := all.take (all.length - 4)
  let pad := !e.edits.isEmpty && decide (body.length < 60)
  let body := if pad then padTo 60 body else body
  (body ++ fcsOf body, pad)

/-- The edited frame is longer than its port takes (R205). -/
def State.oversize (s : State) (e : Eg) : Bool :=
  !e.edits.isEmpty && decide ((s.maxFrame e.port : Int) < (s.storedLen e.i.h : Int) + editsGrowth e.edits)

/-- Fold the record of an instance into the flow cache, if it asks for it (R295, R301). -/
def State.foldRecord (s : State) (e : Eg) (ts : Nat) : State :=
  if !bit e.tele 1 then s
  else if !bit (s.get TELE.FLAGS) 0 then s.hmSkip e.port 6
  else
    let res := (ts - s.inTs e.i.h) / 65536 / 16
    s.flowFold (e.pipe / 8) {
      id := le e.rec_ (s.teleProfile (telePick e.tele) 9 1) 8, len := s.storedLen e.i.h, depth := e.i.depth,
      op := e.state % 8, quench := bit e.state 4 || bit e.state 5, droop := bit e.state 6, res := res }

/-- Send the postcard that an instance asks for, sampled by its profile (R305). -/
def State.cardAsk (s : State) (e : Eg) (rec_ : List Byte) : State :=
  if bit e.tele 3 then s.cardSend e rec_
  else if bit e.tele 2 then
    let exp := s.teleProfile (telePick e.tele) 8 1
    let take := decide ((Config.freeFraction s.draws).toNat * 2 ^ exp < 2 ^ 32)
    let s := s.draw
    if take then s.cardSend e rec_
    else if s.colValid (s.teleProfile (telePick e.tele) 7 1 % 16) then s else s.hmSkip e.port 6
  else s

end Sys2Proof.Machine
end

