-- ==== Sys2Proof/Machine/Stages.lean ====
section
/-!
DEFINITION. The match-action stages (R183 to R203): keys and lookups, action words, and what follows the last stage of ingress
and of egress.
-/
namespace Sys2Proof.Machine
open Reg

/-! ### Stages (R183, R208) -/

/-- `n` bytes of the descriptor of a stage of a pipe, from byte `k`. -/
def State.stageField (s : State) (pipe stage k n : Nat) : Nat :=
  le (s.sect secStages) (0x50 + 5184 * s.get MAP.PROFILE pipe + 160 * stage + k) n

/-- What a stage works on, in ingress or egress: the record, the verdict (in egress DISP and TELE_CTL alone), and in egress
the instance. -/
structure Work where
  egress : Bool
  pipe : Nat
  stage : Nat
  slot : Nat
  h : Nat
  epoch : Nat
  rec_ : List Byte
  v : Verdict
  looks : List Look
  e : Option Eg := none

def Pkt.work (k : Pkt) : Work :=
  { egress := false, pipe := k.pipe, stage := k.stage, slot := k.slot, h := k.h, epoch := metaBits k.rec_ 14 1, rec_ := k.rec_,
    v := k.v, looks := k.looks }

def Eg.work (e : Eg) : Work :=
  { egress := true, pipe := e.pipe, stage := e.stage, slot := e.slot, h := e.i.h, epoch := e.i.epoch, rec_ := e.rec_,
    v := { disp := e.disp, tele := e.tele }, looks := e.looks, e := some e }

/-! ### Record fields (R185, R195) -/

/-- The record as a number, record bit i being bit i. Bits beyond the record are free (log 23). -/
def recNat (r : List Byte) (draw b w : Nat) : Nat :=
  leNat r + (if 1024 < b + w then 2 ^ 1024 * Config.freeChoice draw else 0)

/-- The field of `w` bits at bit `b`. -/
def fieldGet (r : List Byte) (draw : Nat) (bigEndian : Bool) (b w : Nat) : Nat :=
  if bigEndian then be r (b / 8) (w / 8) else bits (recNat r draw b w) b w

/-- The record with a field written; bytes 112–127 keep their contents (R198). -/
def fieldSet (r : List Byte) (bigEndian : Bool) (b w v : Nat) : List Byte :=
  let n := if bigEndian then overlay r (b / 8) (beBytes (w / 8) v) else leBytes 128 (putBits (leNat r) b w v)
  n.take 112 ++ r.drop 112

/-- The record with bytes written from byte `p`; bytes 112–127 keep their contents. -/
def recPut (r : List Byte) (p : Nat) (l : List Byte) : List Byte := (overlay r p l).take 112 ++ r.drop 112

/-! ### Lookups (R184, R189 to R193) -/

/-- The key bytes that the segments of a lookup assemble. -/
def State.keyBytes (s : State) (w : Work) (l : Nat) : List Byte :=
  (List.range 8).flatMap (fun i =>
    let g := s.stageField w.pipe w.stage (32 * l + 4 + 2 * i) 2
    let seg := slice w.rec_ (bits g 0 7) (bits g 7 6)
    if bit g 13 then seg.reverse else seg)

/-- The counter index of a hit or a miss (R193). -/
def State.lookCount (s : State) (w : Work) (l : Nat) (x : Hit) : Option Nat :=
  let c := s.stageField w.pipe w.stage (32 * l + 0x15) 1
  let base := s.stageField w.pipe w.stage (32 * l + 0x18) 4
  if x.hit then
    (if bits c 0 2 = 1 then some (base + x.pos) else if bits c 0 2 = 2 then some (base + x.result % 2 ^ 23) else none)
  else if bit c 7 then some (s.stageField w.pipe w.stage (32 * l + 0x1C) 4) else none

/-- Bytes of an entry of a stage's direct table, and its key width (R189, R192). -/
def directSize (fmt : Nat) : Nat := if fmt = 1 then 4 else if fmt = 2 then 8 else 16
def directBits (fmt : Nat) : Nat := if fmt = 1 then 12 else if fmt = 2 then 11 else 10

/-- Device address of entry `k` of a direct table (R206). -/
def directAddr (pipe stage size k : Nat) : Nat := directBase + 0x4000 * (32 * pipe + stage) + size * k

/-- A direct lookup (R192). -/
def State.directLook (s : State) (w : Work) (l key : Nat) (e : LookErr) : Look × State :=
  let fmt := s.stageField w.pipe w.stage 0x83 1
  let n := directSize fmt
  let k := key % 2 ^ directBits fmt
  let a := directAddr w.pipe w.stage n k
  let dst := s.stageField w.pipe w.stage (32 * l + 0x14) 1
  if s.lookErr a n e = .bad then
    let inj := s.injAt a n != 0
    let t := s.actionErr w.pipe w.stage 3 0 srcDirectEcc
    ({ dst := dst, out := zeros n }, if inj then
        State.faultInjected { t with flt := s.flt } srcDirectEcc w.pipe 0
      else t)
  else
    let x : Hit := { hit := true, result := s.mem a 4, pos := k }
    ({ dst := dst, out := s.memAt a n, count := s.lookCount w l x }, s.injClear a n)

/-- Issue lookup `l` of a stage. -/
def State.lookIssue (s : State) (w : Work) (l : Nat) (e : LookErr) : Look × State :=
  let ty := s.stageField w.pipe w.stage (32 * l) 1
  let tgt := s.stageField w.pipe w.stage (32 * l + 1) 1
  let cond := s.stageField w.pipe w.stage (32 * l + 2) 2
  let dst := s.stageField w.pipe w.stage (32 * l + 0x14) 1
  let key := leNat (s.keyBytes w l)
  let issued := !bit cond 14 || (bit (leNat w.rec_) (bits cond 0 10) == bit cond 15)
  let em := if ty = 1 then some (tgt, s.emKey tgt key) else none
  if ty = 0 then ({}, s)
  else if !issued then
    ({ dst := dst, out := zeros (if ty = 4 then directSize (s.stageField w.pipe w.stage 0x83 1) else 12), em := em }, s)
  else if ty = 4 then s.directLook w l key e
  else
    let (x, s) := if ty = 1 then s.emLookup w.pipe tgt key e
      else if ty = 2 then s.aseLookup w.pipe w.slot tgt key e else s.filLookup w.pipe w.epoch tgt key e
    ({ dst := dst, out := x.block, count := s.lookCount w l x, em := em }, s)

/-- Issue the four lookups of a stage: all keys are built from the record as it is at entry. -/
def State.looksIssue (s : State) (w : Work) (errs : List LookErr) : List Look × State :=
  (List.range 4).foldl (fun (a : List Look × State) l =>
    let (x, s) := a.2.lookIssue w l (errs.getD l .clean)
    (a.1 ++ [x], s)) ([], s)

/-- Change the first element that satisfies `p`. -/
def replaceFirst {α : Type} (p : α → Bool) (f : α → α) : List α → List α
  | [] => []
  | x :: l => if p x then f x :: l else x :: replaceFirst p f l

/-- Drop the first element that satisfies `p`. -/
def dropFirst {α : Type} (p : α → Bool) : List α → List α
  | [] => []
  | x :: l => if p x then l else x :: dropFirst p l

/-- Instances in the egress stages of a pipe. -/
def State.egress (s : State) (pipe : Nat) : List Eg := tabGet [] s.pipe.eg pipe

def State.setEgress (s : State) (pipe : Nat) (l : List Eg) : State :=
  { s with pipe := { s.pipe with eg := if l.isEmpty then tabDel s.pipe.eg pipe else tabPut s.pipe.eg pipe l } }

/-- STAGE_LOOKUP_ISSUE: stage `stage` of a pipe takes the packet that waits longest for it. -/
def State.stageIssue (s : State) (pipe stage : Nat) (errs : List LookErr) : State :=
  if stage < 20 then
    let p := fun (k : Pkt) => k.stage == stage && !k.issued
    match (s.ingress pipe).find? p with
    | some k =>
      let (l, s) := s.looksIssue k.work errs
      s.setIngress pipe (replaceFirst p (fun k => { k with issued := true, looks := l }) (s.ingress pipe))
    | none => s
  else
    let p := fun (k : Eg) => k.stage == stage && !k.issued
    match (s.egress pipe).find? p with
    | some k =>
      let (l, s) := s.looksIssue k.work errs
      s.setEgress pipe (replaceFirst p (fun k => { k with issued := true, looks := l }) (s.egress pipe))
    | none => s

/-- STAGE_LOOKUP_ISSUE, with what the error checks of the four lookups find. -/
def execStageLookupIssue (pipe : Fin 64) (stage : Fin 32) (e0 e1 e2 e3 : LookErr) (s : State) : Result :=
  .next (s.stageIssue pipe.val stage.val [e0, e1, e2, e3])

/-! ### Action words (R194 to R200) -/

/-- The fields of an action word (R194). -/
def awOp (w : Nat) : Nat := bits w 59 5
def awEnd (w : Nat) : Bool := bit w 58
def awPred (w : Nat) : Bool := bit w 57
def awBe (w : Nat) : Bool := bit w 56
def awDst (w : Nat) : Nat := bits w 46 10
def awWidth (w : Nat) : Nat := bits w 41 5 + 1
def awImm (w : Nat) : Nat := bits w 0 32

/-- Action-store word `pc` of the area of the packet's epoch (R197). -/
def State.wordNo (s : State) (w : Work) (pc : Nat) : Nat := s.areaBase actionWords w.epoch + pc

/-- Store a value in a verdict field (R186). -/
def Verdict.put (v : Verdict) (code x : Nat) : Verdict :=
  match code with
  | 0 => { v with disp := if x % 4 = 3 then 1 else x % 4 }
  | 1 => { v with queue := x % 2 ^ 19 }
  | 2 => { v with mcast := x % 2 ^ 17 }
  | 3 => { v with mirror := x % 2 ^ 20 }
  | 4 => { v with cpu := x % 2 ^ 14 }
  | 5 => { v with strip := x % 2 }
  | 6 => { v with policer := x % 2 ^ 19 }
  | 7 => { v with launch := x % 2 ^ 8 }
  | 8 => { v with tele := x % 2 ^ 8 }
  | _ => v

/-- A write to the verdict; in egress only DISP, never to 2, and TELE_CTL (R198). -/
def State.verdictPut (s : State) (w : Work) (pc code x : Nat) : Work × State :=
  if w.egress && !((code == 0 && x % 4 != 2) || code == 8) then (w, s.actionErr w.pipe w.stage 5 (s.wordNo w pc) srcAction)
  else ({ w with v := w.v.put code x }, s)

/-- LOADAD (R196, R199, R200): `bad`: the line has an uncorrectable error. -/
def State.loadAd (s : State) (w : Work) (pc dst src width imm : Nat) (be_ bad : Bool) : Work × State :=
  let line := s.stageField w.pipe w.stage 0x8C 4 + fieldGet w.rec_ s.draws be_ src width
  let s := s.tally w.pipe evLoadad
  if s.areaSize resultLines ≤ line then (w, s.actionErr w.pipe w.stage 2 (s.wordNo w pc) srcAction)
  else
    let a := resultBase + 64 * (s.areaBase resultLines w.epoch + line)
    let n := bits imm 10 6 + 1
    let inj := s.injAt a 64
    if bad || decide (2 ≤ inj) then
      let t := s.actionErr w.pipe w.stage 3 (s.wordNo w pc) srcDirectEcc
      ({ w with rec_ := recPut w.rec_ (dst / 8) (zeros n) },
        if inj = 0 then t else State.faultInjected { t with flt := s.flt } srcDirectEcc w.pipe 0)
    else ({ w with rec_ := recPut w.rec_ (dst / 8) (s.memAt a n) }, s.injClear a 64)

/-- LEARN: the table and key of a lookup of this stage. -/
def State.learnWord (s : State) (w : Work) (imm result : Nat) : State :=
  match (w.looks.getD (bits imm 0 2) {}).em with
  | some (t, key) => s.learnRequest { table := t, key := key, result := result % 2 ^ 32, move := bit imm 2 }
  | none => s

/-- EDIT: bytes from record byte `p`; bytes beyond the record are free (log 23). -/
def State.editWord (s : State) (w : Work) (pc p imm : Nat) : Work × State :=
  match w.e with
  | none => (w, s)
  | some e =>
    let kind := bits imm 0 2
    let len := bits imm 13 7
    match e.i.markPos (bits imm 2 2) (bits imm 4 9) with
    | none => (w, s.editErr w.pipe w.stage (s.wordNo w pc))
    | some pos =>
      let data := (List.range len).map (fun k => if p + k < 128 then w.rec_.getD (p + k) 0 else Config.freeWindow s.draws (p + k))
      let (e, s) := s.editRecord e { kind := kind, pos := pos, len := len, data := if kind = 2 then [] else data }
        (s.wordNo w pc)
      ({ w with e := some e }, s)

/-- A word whose effect is not suppressed: the work and P after it. -/
def State.wordRun (s : State) (w : Work) (p : Bool) (pc word : Nat) (bad : Bool) : Work × Bool × State :=
  let imm := awImm word
  let wd := awWidth word
  let dst := awDst word
  let src := bits imm 0 10
  let be_ := awBe word
  let f := fieldGet w.rec_ s.draws be_ dst wd
  let sv := fieldGet w.rec_ s.draws be_ src wd
  let iv := imm % 2 ^ wd
  let put := fun v => ({ w with rec_ := fieldSet w.rec_ be_ dst wd (v % 2 ^ wd) }, p, s)
  match awOp word with
  | 0x01 => put iv
  | 0x02 => put sv
  | 0x03 => put (f + iv)
  | 0x04 => put (f + sv)
  | 0x05 => put (f + 2 ^ wd - sv)
  | 0x06 => put (f &&& iv)
  | 0x07 => put (f ||| iv)
  | 0x08 => put (f ^^^ iv)
  | 0x09 => put (f / 2 ^ (imm % 32))
  | 0x0A => put (f * 2 ^ (imm % 32))
  | 0x0B => (w, f == iv, s)
  | 0x0C => (w, f != iv, s)
  | 0x0D => (w, decide (f < iv), s)
  | 0x0E => (w, decide (iv ≤ f), s)
  | 0x0F => let (w, s) := s.verdictPut w pc (dst % 16) imm; (w, p, s)
  | 0x10 => let (w, s) := s.verdictPut w pc (dst % 16) sv; (w, p, s)
  | 0x11 => let (w, s) := s.loadAd w pc dst src wd imm be_ bad; (w, p, s)
  | 0x12 => (w, p, s.learnWord w imm f)
  | 0x13 => (w, p, s.count w.pipe w.h (s.stageField w.pipe w.stage 0x88 4 + f))
  | 0x14 => let (w, s) := s.editWord w pc (dst / 8) imm; (w, p, s)
  | 0x16 => put (ocAdd f (imm % 65536))
  | _ => (w, p, s)

/-- Device address of word `pc` of the area of an epoch. -/
def State.wordAddr (s : State) (w : Work) (pc : Nat) : Nat :=
  actionBase + 0x2000 * (32 * w.pipe + w.stage) + 8 * s.wordNo w pc

/-- Run words from `pc`, the `n`-th on; none: an action-store error discards the instance (R197, R200). -/
def State.wordsRun (s : State) (w : Work) (p : Bool) (pc n : Nat) (err : ActErr) : Nat → Option Work × State
  | 0 => (some w, s)
  | fuel + 1 =>
    if s.areaSize actionWords ≤ pc then (some w, s)
    else
      let a := s.wordAddr w pc
      let inj := s.injAt a 8
      if err == .word (Fin.ofNat 16 n) || decide (2 ≤ inj) then
        let t := s.actionErr w.pipe w.stage 3 (s.wordNo w pc) srcStoreEcc
        (none, if inj = 0 then t else State.faultInjected { t with flt := s.flt } srcStoreEcc w.pipe 0)
      else
        let s := s.injClear a 8
        let word := s.mem a 8
        let live := !awPred word || p
        let (w, p, s) := if live then s.wordRun w p pc word (err == .line (Fin.ofNat 16 n)) else (w, p, s.draw)
        let next := if live && awOp word == 0x15 then pc + 1 + awImm word % 16 else pc + 1
        if awEnd word then (some w, s) else State.wordsRun s.draw w p next (n + 1) err fuel

/-- The action program of a stage: entry word, then at most 16 words. -/
def State.programRun (s : State) (w : Work) (err : ActErr) : Option Work × State :=
  let wd := s.stageField w.pipe w.stage 0x82 1
  let sel := if wd = 0 then 0 else fieldGet w.rec_ s.draws false (s.stageField w.pipe w.stage 0x80 2 % 1024) wd
  let entry := s.stageField w.pipe w.stage 0x84 2 + sel
  if s.areaSize actionWords ≤ entry then (some w, s.actionErr w.pipe w.stage 1 (s.wordNo w entry) srcAction)
  else s.wordsRun w true entry 0 err 16

/-- Results are written in lookup order, counts are made, and the program runs. -/
def State.stageRun (s : State) (w : Work) (err : ActErr) : Option Work × State :=
  let r := w.looks.foldl (fun r l => recPut r l.dst l.out) w.rec_
  let s := w.looks.foldl (fun s l => match l.count with | some i => s.count w.pipe w.h i | none => s) s
  s.programRun { w with rec_ := r } err

/-! ### After the last stage (R201 to R203, R212) -/

/-- Packets that have left ingress stage 19, in order; one that waits for its frame's length holds back those of its
requester behind it (R202, R252). -/
def State.resolveList (s : State) (pipe : Nat) (blocked : List Nat) : List Pkt → State
  | [] => s
  | k :: rest =>
    let r := (s.getStore k.h).f.req
    if k.stage != 20 then State.resolveList s pipe blocked rest
    else if blocked.contains r then State.resolveList s pipe blocked rest
    else
      match (s.setIngress pipe (dropFirst (fun x => x == k) (s.ingress pipe))).endIngress k with
      | (true, s) => State.resolveList s pipe blocked rest
      | (false, _) => State.resolveList s pipe (r :: blocked) rest

def State.resolve (s : State) (pipe : Nat) : State := s.resolveList pipe [] (s.ingress pipe)

/-- An instance in the egress stages ends there: a postcard if DROP_CARD asks for it, and its references. -/
def State.egDiscard (s : State) (e : Eg) : State := (s.dropCard e).instEnd e.i

/-- An instance leaves port 1024 + q: read from Crucible, edited, and waiting for pipe q's parser (R203). -/
def State.recircDepart (s : State) (e : Eg) (rd : ReadErr) : State :=
  let (ok, s) := s.readFrame e.pipe e.i.h 0 (segsOf (s.storedLen e.i.h)) rd
  if !ok then s.egDiscard e
  else if s.oversize e then (s.inc MAP.EDIT_OVERSIZE e.pipe).egDiscard e
  else
    let rec_ := s.hmRecord e e.at_ false
    let (head, s) := s.departHead e e.at_ rec_
    let (bytes, pad) := s.departFrame e head
    let s := ((s.when pad (fun s => s.inc MAP.EDIT_PAD e.pipe)).foldRecord e e.at_).cardAsk e rec_
    { s with buf := { s.buf with recirc := tabPut s.buf.recirc e.pipe { e := e, bytes := bytes } } }

/-- Items behind the egress stages of a port. -/
def State.txList (s : State) (port : Nat) : List Item := tabGet [] s.que.txq port

def State.setTxList (s : State) (port : Nat) (l : List Item) : State :=
  { s with que := { s.que with txq := if l.isEmpty then tabDel s.que.txq port else tabPut s.que.txq port l } }

/-- The frame at the head of a front port's egress FIFO is due once the MAC has finished the one before it: its start quantity
is fixed now, once (R22). -/
def State.txDue (s : State) (p : Nat) : State :=
  match s.txList p with
  | .inst e :: rest =>
    if 1024 ≤ p || (tabFind s.que.tx p).isSome || e.due.isSome then s
    else s.setTxList p (.inst { e with due := some (decide (4 ≤ s.governingOp)) } :: rest)
  | _ => s

/-- An instance leaves egress stage 11. -/
def State.endEgress (s : State) (e : Eg) (rd : ReadErr) : State :=
  if e.disp = 1 then (s.inc MAP.EG_DROPS e.pipe).egDiscard e
  else if 1024 ≤ e.port && e.port < 1088 then s.recircDepart e rd
  else (s.setTxList e.port (s.txList e.port ++ [.inst e])).txDue e.port

/-- STAGE_ACTION_RUN on an ingress packet. -/
def State.ingressRun (s : State) (pipe : Nat) (k : Pkt) (err : ActErr) : State :=
  let gone := fun (s : State) => s.setIngress pipe (dropFirst (fun x => x == k) (s.ingress pipe))
  match s.stageRun k.work err with
  | (none, s) => (gone s).setRefs k.h 0
  | (some w, s) =>
    let k2 := { k with rec_ := w.rec_, v := w.v, stage := k.stage + 1, issued := false, looks := [] }
    let s := s.setIngress pipe (replaceFirst (fun x => x == k) (fun _ => k2) (s.ingress pipe))
    if k2.stage = 20 then s.resolve pipe else s

/-- STAGE_ACTION_RUN on an egress instance. -/
def State.egressRun (s : State) (pipe : Nat) (k : Eg) (err : ActErr) (rd : ReadErr) : State :=
  let gone := fun (s : State) => s.setEgress pipe (dropFirst (fun x => x == k) (s.egress pipe))
  match s.stageRun k.work err with
  | (none, s) => (gone s).egDiscard k
  | (some w, s) =>
    let e := w.e.getD k
    let e := { e with rec_ := w.rec_, disp := w.v.disp, tele := w.v.tele, stage := k.stage + 1, issued := false, looks := [] }
    if e.stage = 32 then (gone s).endEgress e rd
    else s.setEgress pipe (replaceFirst (fun x => x == k) (fun _ => e) (s.egress pipe))

/-- STAGE_ACTION_RUN: the packet that entered the stage first and whose results have returned. A token in which the stage
holds only packets that wait for theirs is counted (R184, R310). -/
def State.stageAct (s : State) (pipe stage : Nat) (err : ActErr) (rd : ReadErr) : State :=
  if stage < 20 then
    match (s.ingress pipe).find? (fun k => k.stage == stage && k.issued) with
    | some k => s.ingressRun pipe k err
    | none => s.when ((s.ingress pipe).any (fun k => k.stage == stage)) (fun s => s.tally pipe evWait)
  else
    match (s.egress pipe).find? (fun k => k.stage == stage && k.issued) with
    | some k => s.egressRun pipe k err rd
    | none => s.when ((s.egress pipe).any (fun k => k.stage == stage)) (fun s => s.tally pipe evWait)

/-- STAGE_ACTION_RUN, with what the error checks of its reads find; `rd`: of the frame, when it leaves a recirculation port. -/
def execStageActionRun (pipe : Fin 64) (stage : Fin 32) (err : ActErr) (rd : ReadErr) (s : State) : Result :=
  .next (s.stageAct pipe.val stage.val err rd)

end Sys2Proof.Machine
end

