-- ==== Sys2Proof/Machine/Ingress.lean ====
section
/-!
DEFINITION. Reception (R18, R19, R21, R82, R93): a front port's frame arrives in portions, is charged segment by segment, and
enters the ingress FIFO or Crucible; the settlement of a frame that has ended (R193, R250); and the pipe reset (R433).
-/
namespace Sys2Proof.Machine
open Reg

/-- A time with a signed adjustment in ps. -/
def tsAdjust (t adj : Nat) : Nat := ((t : Int) + (signed adj 16 * 65536).fdiv 1000).toNat

/-- Largest PHY latency of a port's lane class, in ns (R97). -/
def State.phyMax (s : State) (p : Nat) (tx : Bool) : Nat :=
  if s.desc p 1 1 = 1 then (if tx then 240 else 460) else (if tx then 160 else 320)

/-- PHY latency of a port, in 2^−16 ns: R97 bounds it, its value is free. -/
def State.phyLatency (s : State) (p : Nat) (tx : Bool) : Nat :=
  min (Config.phyLatency (s.desc p 2 1) tx) (nsUnits (s.phyMax p tx))

/-- The receive timestamp of a frame whose timestamp point is at a port's MAC boundary now (R279). -/
def State.rxStamp (s : State) (p : Nat) : Nat := tsAdjust (s.now - s.phyLatency p false) (s.get TIME.TS_RX_ADJ p)

/-- The transmit timestamp of a frame whose timestamp point is at a port's MAC boundary now (R279). -/
def State.txStamp (s : State) (p : Nat) : Nat := tsAdjust (s.now + s.phyLatency p true) (s.get TIME.TS_TX_ADJ p)

/-! ### Priority (R82) -/

/-- The DSCP of a frame that carries an IP header directly after its Ethernet header. -/
def frameDscp (b : List Byte) : Option Nat :=
  let t := etherTypeAt b
  if be b t 2 = 0x0800 then some (byteAt b (t + 3) / 4)
  else if be b t 2 = 0x86DD then some (be b (t + 2) 2 / 16 % 256 / 4) else none

/-- PCP_MAP applied to the outermost tag's PCP, or DEFAULT_PRIO. -/
def State.pcpPrio (s : State) (p : Nat) (b : List Byte) : Nat :=
  if isVlanTag (be b 12 2) then bits (s.desc p 8 4) (3 * (byteAt b 14 / 32)) 3 else s.desc p 5 1 % 8

/-- The PFC priority that the MAC assigns. -/
def State.framePrio (s : State) (p : Nat) (b : List Byte) : Nat :=
  if s.desc p 4 1 = 1 then
    match frameDscp b with
    | some d => le (s.sect secPortMap) (0x4008 + 64 * s.desc p 6 1 + d) 1 % 8
    | none => s.pcpPrio p b
  else s.pcpPrio p b

/-! ### The ingress FIFO (R18, R21) -/

/-- FIFO places of a pipe that hold a segment. -/
def State.fifoHeld (s : State) (pipe : Nat) : Nat :=
  (s.buf.lists.filter (fun x => x.1 / 128 == pipe)).foldl (fun n x => n + s.fifoUsed x.1) 0

/-- FIFO places of a pipe reserved for frames that still arrive. -/
def State.fifoReserved (s : State) (pipe : Nat) : Nat :=
  (s.buf.rx.filter (fun x => x.1 / 16 == pipe)).foldl (fun n x => n + (x.2.places - segsOf x.2.len)) 0

def State.putRx (s : State) (p : Nat) (x : Rx) : State := { s with buf := { s.buf with rx := tabPut s.buf.rx p x } }

def State.rxOf (s : State) (p : Nat) : Rx := tabGet {} s.buf.rx p

/-- The frame that a port receives has been discarded; what still arrives of it goes nowhere. -/
def State.rxDead (s : State) (p : Nat) : State := s.putRx p { s.rxOf p with at_ := .dead, places := 0 }

/-- A headroom breach of requester `r` (R227). -/
def State.rxBreach (s : State) (p r : Nat) : State := (((s.rxDrop p).inc CRUC.BREACH r).fault srcBreach p r).rxDead p

/-- The first segment of a frame arrives: a MAC control frame stays in the MAC; any other goes to the FIFO, or to Crucible
when the FIFO is full. -/
def State.rxBegin (s : State) (p : Nat) (b : List Byte) : State :=
  if be b 12 2 = 0x8808 then s.putRx p { at_ := .ctrl (b.take 64) }
  else
    let r := 8 * p + s.framePrio p b
    let need := segsOf (s.maxFrame p)
    let f : Frame := { port := p, req := r, ts := s.rxStamp p, front := some p }
    if s.fifoHeld (pipeOf p) + s.fifoReserved (pipeOf p) + need ≤ 1024 then
      (s.setList r (s.inList r ++ [.fifo f])).putRx p { at_ := .fifo r, places := need }
    else
      match s.grantRoom { f with hr := true } none with
      | some (h, x, s) =>
        ((s.putStore h x).setList r (s.inList r ++ [.parked h])).putRx p { at_ := .stored h, r21 := true } |>.xoffEval
      | none => (s.putRx p {}).rxBreach p r

/-- One segment, of at most 256 bytes, is charged and written. -/
def State.rxSegment (s : State) (p : Nat) (b : List Byte) : State :=
  let x := s.rxOf p
  match x.at_ with
  | .fifo r =>
    match (s.inList r).getLast? with
    | some (.fifo f) =>
      if f.port != p || f.done then s.rxDead p
      else
        match s.chargeSeg f false with
        | none => s.rxBreach p r
        | some (f, s) =>
          let s := s.setList r ((s.inList r).dropLast ++ [.fifo { f with bytes := f.bytes ++ b }])
          (s.tally (pipeOf p) evFifo).xoffEval
    | _ => s.rxDead p
  | .stored h =>
    let y := s.getStore h
    if (tabFind s.buf.store h).isNone || y.f.port != p || y.f.done then s.rxDead p
    else
      match s.chargeSeg y.f x.r21 with
      | none => s.rxBreach p y.f.req
      | some (f, s) =>
        match s.fit h { y with f := { f with bytes := f.bytes ++ b } } with
        | (true, s) => s.tally (shardUnit (pipeOf p)) evSegWrite
        | (false, s) => ((s.setList f.req ((s.inList f.req).filter (fun a => a != .parked h))).rxDead p).xoffEval
  | _ => s

/-- The bytes of a portion, in segments. -/
def segments (b : List Byte) : List (List Byte) := (List.range (segsOf b.length)).map (fun k => slice b (256 * k) 256)

/-- A portion arrives. -/
def State.rxPortion (s : State) (p : Nat) (b : List Byte) : State :=
  let s := if (tabFind s.buf.rx p).isSome then s else s.rxBegin p b
  let s := (segments b).foldl (fun s seg => s.rxSegment p seg) s
  let x := s.rxOf p
  s.putRx p { x with len := x.len + b.length, crc := crcWith polyCrc32 x.crc b }

/-! ### The end of a frame -/

/-- The shaper node of a status address. -/
def State.shaperAt (s : State) (a : Nat) : Shaper :=
  if a < classBase then s.queueShaper ((a - queueBase) / 64)
  else if a < portNodeBase then s.classShaper ((a - classBase) / 512) ((a - classBase) / 32 % 16)
  else s.portShaper ((a - portNodeBase) / 64)

/-- Settle a charge made with E: the difference to the frame's length is credited or debited (R250). -/
def State.settleOne (s : State) (len : Nat) (x : Settle) : State :=
  let d := (x.e : Int) - (len : Int)
  if x.deficit then s.memSet x.addr 4 (wrapInt (signed (s.mem x.addr 4) 32 + d) 32)
  else s.shaperMove (s.shaperAt x.addr) d

/-- The last segment of a stored frame is written: the charges made with E are settled. -/
def State.settleAll (s : State) (h len : Nat) : State :=
  let l := (s.getStore h).settles
  l.foldl (fun s x => s.settleOne len x) (s.putStore h { s.getStore h with settles := [] })

/-- A stored frame has been received whole: it is counted, its set-aside ingots return, and packets that waited for its length
go on (R119, R193, R220, R252). -/
def State.frameDone (s : State) (h : Nat) : State :=
  let x := s.getStore h
  let s := s.putStore h { x with f := { x.f with done := true }, counts := [] }
  let s := x.counts.foldl (fun s c => s.deltaPost c.1 c.2 x.f.bytes.length) s
  let s := ((s.endAside h).settleAll h x.f.bytes.length).lateShort x.pipe { x.f with done := true } x.decl
  (s.resolve (pipeOf x.f.port)).xoffEval

/-- Whether the frame that a port receives is still held. -/
def State.rxLive (s : State) (p : Nat) : Bool :=
  match (s.rxOf p).at_ with
  | .fifo r => (match (s.inList r).getLast? with | some (.fifo f) => f.port == p && !f.done | _ => false)
  | .stored h => (tabFind s.buf.store h).isSome && (s.getStore h).f.port == p && !(s.getStore h).f.done
  | _ => false

/-- The first bytes of the frame that a port receives. -/
def State.rxHead (s : State) (p : Nat) : List Byte :=
  match (s.rxOf p).at_ with
  | .fifo r => (match (s.inList r).getLast? with | some (.fifo f) => f.bytes.take 512 | _ => [])
  | .stored h => (s.getStore h).f.bytes.take 512
  | _ => []

/-- A good MAC control frame (R93, R94). -/
def State.rxControl (s : State) (p : Nat) (b : List Byte) : State :=
  match be b 14 2 with
  | 0x0001 => s.pauseRx p false 0 (fun _ => be b 16 2)
  | 0x0101 => s.pauseRx p true (be b 16 2) (fun k => be b (18 + 2 * k) 2)
  | _ => s.inc PORT.MAC_CTRL_OTHER p

/-- A good frame ends. -/
def State.rxGood (s : State) (p : Nat) : State :=
  let x := s.rxOf p
  let s := s.when (s.rxLive p && (s.ptpFind p (s.rxHead p)).isSome) (fun s => s.inc TIME.PTP_RX p)
  match x.at_ with
  | .fifo r =>
    match (s.inList r).getLast? with
    | some (.fifo f) =>
      if f.port = p && !f.done then s.setList r ((s.inList r).dropLast ++ [.fifo { f with done := true }]) else s
    | _ => s
  | .stored h => if s.rxLive p then s.frameDone h else s
  | .ctrl b => s.rxControl p b
  | .dead => s

/-- A bad frame ends (R93, R233). -/
def State.rxBad (s : State) (p : Nat) (f : Fld) : State :=
  let x := s.rxOf p
  let s := s.inc f p
  let s := match x.at_ with | .stored h => if s.rxLive p then s.settleAll h x.len else s | _ => s
  s.rxDrop p

/-- The CRC register after a frame with a good FCS. -/
def goodCrc : Nat := 0xDEBB20E3

/-- The last portion has arrived: the frame's bytes count now, good or bad (R313), and the checks of R93 follow, in order. -/
def State.rxEnd (s : State) (p : Nat) (error : Bool) : State :=
  let x := s.rxOf p
  let s := s.bwCount p 0 x.len
  let s := if error then s.rxBad p PORT.RX_ERRORS
    else if x.len < 64 then s.rxBad p PORT.RUNT
    else if s.maxFrame p < x.len then s.rxBad p PORT.OVERSIZE
    else if x.crc != goodCrc then s.rxBad p PORT.FCS_ERR
    else s.rxGood p
  { s with buf := { s.buf with rx := tabDel s.buf.rx p } }

/-- RX_FRAME: a front port in UP receives a portion of a frame, its FCS included; every portion but the last is a whole
number of segments. Nothing is received while ingress admission is stopped. -/
def State.rxFrame (s : State) (p : Nat) (b : List Byte) (fin : RxEnd) : State :=
  if s.portUp p && s.portsGo then
    match fin with
    | .more => s.rxPortion p b
    | .last => (s.rxPortion p b).rxEnd p false
    | .error => (s.rxPortion p b).rxEnd p true
  else s

def execRxFrame (p : Fin 1024) (data : List Byte) (fin : RxEnd) (s : State) : Result := .next (s.rxFrame p.val data fin)

/-! ### The pipe reset (R433) -/

/-- The unparsed frames of a pipe's requesters are discarded. -/
def State.listsDrop (s : State) (pipe : Nat) : State :=
  let l := s.buf.lists.filter (fun x => x.1 / 128 == pipe)
  let s := { s with buf := { s.buf with lists := s.buf.lists.filter (fun x => x.1 / 128 != pipe) } }
  l.foldl (fun s x => x.2.foldl (fun s a =>
    match a with
    | .fifo f => s.uncharge f
    | .parked h => s.release h) s) s

/-- The instances of the hold lists whose packets passed a pipe are discarded. -/
def State.holdsDrop (s : State) (pipe : Nat) : State :=
  let l := s.que.holds.flatMap (fun x => holdRemoved (fun i => i.inPipe == pipe) x.2)
  let s := { s with que := { s.que with holds := tabFilter (fun x => x.head.inPipe != pipe) s.que.holds } }
  l.foldl (fun s i => s.instEnd i) s

/-- The instances in a pipe's egress stages are discarded. -/
def State.egressDrop (s : State) (pipe : Nat) : State :=
  let l := s.egress pipe
  l.foldl (fun s e => s.egDiscard e) (s.setEgress pipe [])

/-- The packets in a pipe's ingress stages are discarded. -/
def State.ingressDrop (s : State) (pipe : Nat) : State :=
  let l := s.ingress pipe
  l.foldl (fun s k => (s.inflightDec (s.getStore k.h).epoch).release k.h) (s.setIngress pipe [])

/-- The pipe reset: a port reset of every front port, and what the pipe holds is discarded. -/
def State.pipeReset (s : State) (pipe : Nat) : State :=
  let s := (List.range 16).foldl (fun s k => s.portReset (16 * pipe + k)) s
  let s := (((s.listsDrop pipe).ingressDrop pipe).egressDrop pipe).holdsDrop pipe
  { s with buf := { s.buf with arbSrc := tabDel s.buf.arbSrc pipe, arbList := tabDel s.buf.arbList pipe } } |>.xoffEval

end Sys2Proof.Machine
end

