-- ==== Sys2Proof/Machine/Sched.lean ====
section
/-!
DEFINITION. Choosing the next frame (R241, R245 to R250, R265, R267, R268, R306): eligibility, DWRR, what a selection charges,
and the instance that enters the egress stages (R188).
-/
namespace Sys2Proof.Machine
open Reg

/-! ### DWRR (R246) -/

/-- A member of a DWRR level: quantum and length in bytes. -/
structure Member where
  id : Nat
  ok : Bool
  empty : Bool
  len : Nat
  quantum : Nat
  d : Int
  deriving DecidableEq, Repr

/-- The member after `p`, in rotation. -/
def memberNext (l : List Member) (p : Nat) : Nat :=
  match l.find? (fun m => decide (p < m.id)) with
  | some m => m.id
  | none => (l.map (fun m => m.id)).headD 0

/-- Change the deficit of member `p`. -/
def memberPut (l : List Member) (p : Nat) (f : Member → Int) : List Member :=
  l.map (fun m => if m.id = p then { m with d := f m } else m)

/-- The loop of R246 from pointer `p`. -/
def dwrrLoop (l : List Member) (p : Nat) : Nat → List Member × Nat
  | 0 => (l, p)
  | fuel + 1 =>
    match l.find? (fun m => m.id == p) with
    | none => (l, p)
    | some m =>
      if m.ok && decide ((m.len : Int) ≤ m.d) then (memberPut l p (fun m => m.d - (m.len : Int)), p)
      else
        let l := if m.empty then memberPut l p (fun _ => 0) else l
        let n := memberNext l p
        dwrrLoop (memberPut l n (fun m => if m.ok then m.d + (m.quantum : Int) else m.d)) n fuel

/-- Turns of the pointer after which an eligible member has earned its frame. -/
def dwrrFuel (l : List Member) : Nat :=
  1 + l.length * (l.filter (fun m => m.ok)).foldl (fun n m => n + 2 + ceilDiv ((m.len : Int) - m.d).toNat (max 1 m.quantum)) 1

/-- Choose: the members with their deficits after the choice, and the member chosen, where the pointer stays; none if no member
is eligible. A pointer on no member of the level stands for the next member. -/
def dwrrChoose (l : List Member) (ptr : Nat) : Option (List Member × Nat) :=
  if l.any (fun m => m.ok) then
    let p := if l.any (fun m => m.id == ptr) then ptr else memberNext l ptr
    some (dwrrLoop l p (dwrrFuel l))
  else none

/-! ### Sub-queues (R245) -/

/-- Wire overhead of a port (R246). -/
def State.wireOvh (s : State) (port : Nat) : Int := signed (s.mem (portAddr port + 1) 1) 8

/-- L_w: scheduling length at a port. -/
def State.wireLen (s : State) (port len : Nat) : Nat := ((len : Int) + s.wireOvh port).toNat

/-- Length of an item at its transmission. -/
def State.itemLen (s : State) (x : Item) : Nat :=
  match x with
  | .inst e => ((s.knownLen e.i.h : Int) + editsGrowth e.edits).toNat
  | .card _ b => b.length

/-- The earliest instant at which the MAC of a front port can start another frame: after the one that it sends, and those that
have been selected before (R265). -/
def State.macStart (s : State) (port : Nat) : Nat :=
  let time := fun x => s.wireTime port (s.wireLen port (s.itemLen x))
  let free := match tabFind s.que.tx port with
    | some t => max s.now (s.timeAt t.at_ + time t.item)
    | none => s.now
  let ahead := ((s.egress (pipeOf port)).filter (fun e => e.port == port)).map Item.inst ++ s.txList port
  ahead.foldl (fun t x => t + time x) free

/-- QUANTUM of a node in bytes: 0 acts as 1. -/
def State.quantumAt (s : State) (a : Nat) : Nat := 64 * max 1 (s.mem a 2)

/-- A signed status word. -/
def State.signedAt (s : State) (a : Nat) : Int := signed (s.mem a 4) 32

/-- The head of a queue may leave it: whole, or cutting through with its first bytes written (R232, R233); launched (R267). -/
def State.headReady (s : State) (i : Inst) : Bool :=
  let f := (s.getStore i.h).f
  (f.done || (i.ct && decide (512 ≤ f.bytes.length))) && i.launched

/-- Collectors that are members of a class of a port (R306). -/
def State.colMembers (s : State) (port c : Nat) : List Nat :=
  (List.range 16).filter (fun k => s.colValid k && !s.colRing k && s.colField k 1 1 % 16 == c && s.colField k 2 2 == port)

/-- The first postcard of a collector. -/
def State.colHead (s : State) (k : Nat) : Option (List Byte) := (s.colFifo k).head?

/-- Sub-queue `k` of class `c` of a front port, as a DWRR member; `start`: when the MAC can start its frame. -/
def State.subMember (s : State) (port c k start : Nat) : Member :=
  let q := 256 * port + 16 * c + k
  let d := s.signedAt (queueAddr q + 0x2C)
  let quantum := s.quantumAt (queueAddr q + 2)
  match s.queue q with
  | [] => { id := k, ok := false, empty := true, len := 0, quantum := quantum, d := d }
  | i :: _ =>
    let len := s.wireLen port (s.knownLen i.h)
    { id := k, ok := s.headReady i && s.shaperOk (s.queueShaper q) && s.gateFits port c len start, empty := false,
      len := len, quantum := quantum, d := d }

/-- A collector as a DWRR member, numbered from 16. -/
def State.colMember (s : State) (port c k start : Nat) : Member :=
  let d := (tabGet 0 s.que.colDef k : Nat)
  let quantum := 64 * max 1 (s.colField k 4 2)
  match s.colHead k with
  | none => { id := 16 + k, ok := false, empty := true, len := 0, quantum := quantum, d := (d : Int) }
  | some b =>
    let len := s.wireLen port b.length
    { id := 16 + k, ok := s.gateFits port c len start, empty := false, len := len, quantum := quantum, d := (d : Int) }

def State.subMembers (s : State) (port c : Nat) : List Member :=
  let start := s.macStart port
  (List.range 16).map (fun k => s.subMember port c k start) ++ (s.colMembers port c).map (fun k => s.colMember port c k start)

def State.rrPtr (s : State) (k : Nat) : Nat := tabGet 0 s.que.ptr k

def State.putRr (s : State) (k v : Nat) : State := { s with que := { s.que with ptr := tabPut s.que.ptr k v } }

/-- Pointer of a class, of a group of a port, and of the CPU port's rotation. -/
def classPtr (port c : Nat) : Nat := 2 ^ 20 + 16 * port + c
def groupPtr (port g : Nat) : Nat := 32 * port + g
def cpuPtr : Nat := 2 ^ 21

/-- The sub-queue level of a class: what it would supply. -/
def State.subChoose (s : State) (port c : Nat) : Option (List Member × Nat) :=
  dwrrChoose (s.subMembers port c) (s.rrPtr (classPtr port c))

/-! ### Classes and ports (R245) -/

/-- A paused priority stops its classes, unless it is in storm state (R96, R98). -/
def State.classFlows (s : State) (port c : Nat) : Bool :=
  let prio := s.classPrio port c
  !s.rxPaused port prio || s.stormActive port prio

/-- Class `c` of a front port as a DWRR member. -/
def State.classMember (s : State) (port c : Nat) : Member :=
  let a := classAddr port c
  let l := s.subMembers port c
  let pick := s.subChoose port c
  { id := c, ok := pick.isSome && s.classFlows port c && s.gateOpen port c && s.shaperOk (s.classShaper port c),
    empty := l.all (fun m => m.empty), quantum := s.quantumAt (a + 2), d := s.signedAt (a + 0x14),
    len := match pick with | some x => ((x.1.find? (fun m => m.id == x.2)).map (fun m => m.len)).getD 0 | none => 0 }

/-- GROUP of a class. -/
def State.classGroup (s : State) (port c : Nat) : Nat := s.mem (classAddr port c) 1 % 8

/-- The highest group with an eligible class, among class members of a port. -/
def State.topGroup (s : State) (port : Nat) (l : List Member) : Option Nat :=
  (List.range 8).reverse.find? (fun g => l.any (fun m => m.ok && s.classGroup port m.id == g))

/-- Segments of a port's egress FIFO (R18) that selected frames take. -/
def State.egFifoUsed (s : State) (port : Nat) : Nat :=
  let cap := fun (n : Nat) => min 64 (segsOf n)
  let eg := s.pipe.eg.foldl (fun n x => (x.2.filter (fun e => e.port == port)).foldl (fun n e => n + cap (s.storedLen e.i.h)) n) 0
  let item := fun (x : Item) => match x with | .inst e => cap (s.storedLen e.i.h) | .card _ b => cap b.length
  let q := (s.txList port).foldl (fun n x => n + item x) 0
  eg + q + (match tabFind s.que.tx port with | some t => item t.item | none => 0)

/-- Room for the largest start quantity (R22, R245). -/
def State.egFifoRoom (s : State) (port : Nat) : Bool :=
  let need := if 4 ≤ s.governingOp then 512 else s.maxFrame port
  decide (s.egFifoUsed port + min 64 (segsOf need) ≤ 64)

/-- A front port is eligible. -/
def State.portOk (s : State) (port : Nat) : Bool :=
  s.portUp port && s.egFifoRoom port && s.shaperOk (s.portShaper port)

/-! ### What enters egress (R188, R294) -/

/-- Bytes of an EG_EXTRACT command: zero behind an invalid mark and beyond the frame; free where a cut-through frame has not
arrived (log 20). -/
def State.egCopy (s : State) (i : Inst) (cmd : List Byte) : List Byte :=
  let f := (s.getStore i.h).f
  let c := byteAt cmd 0
  let n := byteAt cmd 3
  if !bit c 7 then []
  else match i.markPos (c % 4) (le cmd 1 2) with
    | none => zeros n
    | some p => (List.range n).map (fun k =>
        if p + k < f.bytes.length then f.bytes.getD (p + k) 0
        else if f.done then 0 else Config.freeWindow s.draws (p + k))

/-- The EG_EXTRACT commands of a pipe's profile (R208). -/
def State.egExtract (s : State) (pipe : Nat) (i : Inst) : List Byte :=
  let a := 0x50 + 5184 * s.get MAP.PROFILE pipe + 0x1400
  padTo 64 ((List.range 8).flatMap (fun k => s.egCopy i (slice (s.sect secStages) (a + 4 * k) 4)))

/-- The egress metadata. FRAME_LEN of a frame that still arrives is free. -/
def State.egMeta (s : State) (port : Nat) (i : Inst) : Nat :=
  let f := (s.getStore i.h).f
  let len := if f.done then f.bytes.length else Config.freeChoice s.draws
  let m := fun k => i.marks.getD k 0 % 2 ^ 9
  port + i.inPort * 2 ^ 11 + (i.queue % 2 ^ 19) * 2 ^ 22 + (i.epoch % 2) * 2 ^ 41 + (i.pass % 8) * 2 ^ 42 +
    (i.copy % 4) * 2 ^ 45 + (i.depth % 2 ^ 22) * 2 ^ 47 + m 0 * 2 ^ 69 + m 1 * 2 ^ 78 + m 2 * 2 ^ 87 + m 3 * 2 ^ 96 +
    (i.markValid % 16) * 2 ^ 105 + (len % 2 ^ 14) * 2 ^ 109 + (i.colour % 4) * 2 ^ 123

/-- STATE of R294 at entry to egress stage 0 of a pipe. -/
def State.hmState (s : State) (pipe : Nat) (i : Inst) : Nat :=
  s.get CORE.CUR_OP + 8 * s.get CORE.IN_TRANSITION + 16 * b2n i.quench + 32 * b2n (s.pwr.bubbles != 0) +
    64 * b2n (tabFind s.core.droop (pipe / 8)).isSome + 128 * (i.epoch % 2)

/-- The egress record of an instance at entry to egress stage 0. -/
def State.egRecord (s : State) (port pipe : Nat) (i : Inst) : List Byte :=
  s.egExtract pipe i ++ padTo 32 i.carry ++ zeros 16 ++ leBytes 16 (s.egMeta port i)

/-- An instance enters egress stage 0 of a pipe, in slot `slot` of the token. -/
def State.enterEgress (s : State) (port pipe slot : Nat) (i : Inst) : State :=
  let e : Eg := { i := i, port := port, pipe := pipe, slot := slot, rec_ := s.egRecord port pipe i, tele := i.tele,
                  state := s.hmState pipe i, at_ := s.now }
  let (e, s) := s.draw.stripRecord e
  (s.setEgress pipe (s.egress pipe ++ [e])).tally pipe evEgress

/-! ### Selections -/

/-- Write back the deficits of a class's members. -/
def State.subCommit (s : State) (port c : Nat) (l : List Member) (p : Nat) : State :=
  (l.foldl (fun s m =>
    if m.id < 16 then
      let a := queueAddr (256 * port + 16 * c + m.id) + 0x2C
      if s.signedAt a = m.d then s else s.memSet a 4 (wrapInt m.d 32)
    else { s with que := { s.que with colDef := tabPut s.que.colDef (m.id - 16) m.d.toNat } }) s).putRr (classPtr port c) p

/-- Write back the deficits of a group's classes. -/
def State.classCommit (s : State) (port g : Nat) (l : List Member) (p : Nat) : State :=
  (l.foldl (fun s m =>
    let a := classAddr port m.id + 0x14
    if s.signedAt a = m.d then s else s.memSet a 4 (wrapInt m.d 32)) s).putRr (groupPtr port g) p

/-- Charges made with E, to be settled when the frame's length is known (R250). -/
def State.settleLater (s : State) (h e : Nat) (deficits : List Nat) (shapers : List Shaper) : State :=
  let x := s.getStore h
  if x.f.done then s
  else s.putStore h { x with settles := x.settles ++ deficits.map (fun a => { addr := a, deficit := true, e := e }) ++
    (shapers.filter (fun n => n.enabled)).map (fun n => { addr := n.status, deficit := false, e := e }) }

/-- The instance at the head of a queue leaves it. -/
def State.popQueue (s : State) (q : Nat) : State := s.setQueue q ((s.queue q).drop 1)

/-- The frame is checked at the start of its read (R231). -/
def State.readStart (s : State) (i : Inst) (go : State → State) : State :=
  let c := s.handleCheck i.h
  if c != 0 then (s.inflightDec i.epoch).handleErr i.h c else go s

/-- A selected instance of a front port: late, or on its way (R268). -/
def State.sendInst (s : State) (port slot : Nat) (i : Inst) : State :=
  let late := timed i && decide (i.launchAt + nsUnits (s.get QSCH.LATE_LIMIT port) < s.now)
  if late && s.flag QSCH.LATE_ACTION port then (s.inc QSCH.LATE_DISCARDS port).instEnd i
  else s.readStart i (fun s =>
    (s.when late (fun s => s.inc QSCH.LATE_SENT port)).enterEgress port (pipeOf port) slot i)

/-- The head of sub-queue or collector `k` of class `c` is selected by a port in storm state: discarded, nothing charged
(R98, R246). -/
def State.stormTake (s : State) (port c k : Nat) : State :=
  let s := s.inc PORT.STORM_DISCARDS port (s.classPrio port c)
  if k < 16 then
    let q := 256 * port + 16 * c + k
    match s.queue q with
    | i :: _ => (s.popQueue q).instEnd i
    | [] => s
  else { s with tele := { s.tele with cols := tabPut s.tele.cols (k - 16) ((s.colFifo (k - 16)).drop 1) } }

/-- The head of sub-queue or collector `k` of class `c` is selected: deficits and shapers are charged, and it is sent. -/
def State.take (s : State) (port slot c k : Nat) : State :=
  let cs := s.classShaper port c
  let ps := s.portShaper port
  if k < 16 then
    let q := 256 * port + 16 * c + k
    match s.queue q with
    | i :: _ =>
      let len := s.knownLen i.h
      let qs := s.queueShaper q
      let s := ((s.shaperCharge qs len).shaperCharge cs len).shaperCharge ps len
      let s := s.settleLater i.h len [queueAddr q + 0x2C, classAddr port c + 0x14] [qs, cs, ps]
      (s.popQueue q).sendInst port slot i
    | [] => s
  else
    match s.colHead (k - 16) with
    | some b =>
      let s := (s.shaperCharge cs b.length).shaperCharge ps b.length
      let s := { s with tele := { s.tele with cols := tabPut s.tele.cols (k - 16) ((s.colFifo (k - 16)).drop 1) } }
      (s.setTxList port (s.txList port ++ [.card (k - 16) b])).tally (pipeOf port) evEgress
    | none => s

/-- Discard at the head of sub-queue `k` of class `c` what can never fit its gate (R265). -/
def State.gateDrop (s : State) (port c k : Nat) : Nat → State
  | 0 => s
  | fuel + 1 =>
    let q := 256 * port + 16 * c + k
    match s.queue q with
    | i :: _ =>
      if s.headReady i && s.gateOversize port c (s.wireLen port (s.knownLen i.h)) then
        State.gateDrop ((((s.popQueue q).inc QSCH.GATE_OVERSIZE port).fault srcGateOversize port).instEnd i) port c k fuel
      else s
    | [] => s

/-- The same at every sub-queue of a port with gates in use. -/
def State.gateDrops (s : State) (port : Nat) : State :=
  if s.flag QSCH.GATE_EN port then
    upTo 256 (fun n s => s.gateDrop port (n / 16) (n % 16) (s.queue (256 * port + n)).length) s
  else s

/-- What a front port would select: group, class with the group's classes after the choice, sub-queue or collector with the
class's members after the choice. -/
structure Pick where
  g : Nat
  classes : List Member
  c : Nat
  subs : List Member
  k : Nat

/-- The choice of an eligible front port (R246). -/
def State.frontPick (s : State) (port : Nat) : Option Pick :=
  if !s.isPort port || !s.portOk port then none
  else
    let classes := (List.range 16).map (fun c => s.classMember port c)
    match s.topGroup port classes with
    | none => none
    | some g =>
      match dwrrChoose (classes.filter (fun m => s.classGroup port m.id == g)) (s.rrPtr (groupPtr port g)) with
      | none => none
      | some (l, c) =>
        match s.subChoose port c with
        | none => none
        | some (m, k) => some { g := g, classes := l, c := c, subs := m, k := k }

/-- The class of a choice is in storm state: what it would send is discarded (R98). -/
def State.pickStorms (s : State) (port : Nat) (x : Pick) : Bool := s.stormActive port (s.classPrio port x.c)

/-- A front port makes a selection. -/
def State.selectFront (s : State) (port slot : Nat) : State :=
  match s.frontPick port with
  | none => s
  | some x =>
    let s := s.tally 127 evSelect
    if s.pickStorms port x then s.stormTake port x.c x.k
    else ((s.classCommit port x.g x.classes x.c).subCommit port x.c x.subs x.k).take port slot x.c x.k

/-! ### Recirculation and CPU ports (R241) -/

/-- Class `c` of recirculation port 1024 + `pipe` as a DWRR member: one queue. -/
def State.recircMember (s : State) (pipe c : Nat) : Member :=
  let port := recircPort pipe
  let q := recircQueue pipe c
  let a := classAddr port c
  let quantum := s.quantumAt (a + 2)
  let d := s.signedAt (a + 0x14)
  match s.queue q with
  | [] => { id := c, ok := false, empty := true, len := 0, quantum := quantum, d := d }
  | i :: _ =>
    { id := c, ok := s.headReady i && s.shaperOk (s.queueShaper q) && s.shaperOk (s.classShaper port c) &&
        !s.held (8 * port + s.classPrio port c),
      empty := false, len := s.wireLen port (s.knownLen i.h), quantum := quantum, d := d }

/-- The recirculation port may select: no frame that it has selected waits to enter the parser (R203). -/
def State.recircFree (s : State) (pipe : Nat) : Bool :=
  (tabFind s.buf.recirc pipe).isNone && !(s.egress pipe).any (fun e => e.port == recircPort pipe)

/-- The choice of recirculation port 1024 + `pipe`: group, the group's classes after the choice, class. -/
def State.recircPick (s : State) (pipe : Nat) : Option (Nat × List Member × Nat) :=
  if !s.recircFree pipe then none
  else
    let port := recircPort pipe
    let classes := (List.range 16).map (fun c => s.recircMember pipe c)
    match s.topGroup port classes with
    | none => none
    | some g =>
      (dwrrChoose (classes.filter (fun m => s.classGroup port m.id == g)) (s.rrPtr (groupPtr port g))).map (fun x => (g, x.1, x.2))

/-- Recirculation port 1024 + `pipe` makes a selection. -/
def State.selectRecirc (s : State) (pipe slot : Nat) : State :=
  let port := recircPort pipe
  match s.recircPick pipe with
  | none => s
  | some (g, l, c) =>
    let q := recircQueue pipe c
    match s.queue q with
    | [] => s
    | i :: _ =>
      let len := s.knownLen i.h
      let s := (s.tally 127 evSelect).classCommit port g l c
      let s := (s.shaperCharge (s.queueShaper q) len).shaperCharge (s.classShaper port c) len
      (s.popQueue q).readStart i (fun s => s.enterEgress port pipe slot i)

/-- Entries of a receive ring that a frame of `len` bytes, its FCS included, needs by the test of R331. -/
def ringNeed (len : Nat) : Nat := min 5 (ceilDiv (len + 124) 2048)

/-- Receive ring `r` has been given the `n` entries from INDEX on. -/
def State.ringHas (s : State) (r n : Nat) : Bool :=
  s.flag HOST.R_EN r && decide (n ≤ s.ringSize r) && (List.range n).all (fun k => s.ringGiven r k)

/-- An item on its way to receive ring `r`. -/
def State.ringBusy (s : State) (r : Nat) : Bool :=
  s.pipe.eg.any (fun x => x.2.any (fun e => e.i.queue == cpuQueue r)) ||
    (s.txList cpuPort).any (fun t => match t with
      | .inst e => e.i.queue == cpuQueue r
      | .card c _ => s.colField c 2 2 == r)

/-- Ring `r` can accept the head of its CPU queue. -/
def State.ringAccepts (s : State) (r : Nat) : Bool :=
  match s.queue (cpuQueue r) with
  | i :: _ => s.ringHas r (ringNeed (s.storedLen i.h))
  | [] => s.ringHas r 1

/-- Collectors delivered to rings. -/
def State.colOnRing (s : State) (c : Nat) : Bool := s.colValid c && s.colRing c && decide (s.colField c 2 2 < 64)

/-- Ring `r` is STALLED still: it leaves that state as soon as it can accept a frame (R332). -/
def State.ringStalled (s : State) (r : Nat) : Bool := s.flag HOST.R_STALLED r && !s.ringAccepts r

/-- Member `m` of the CPU port's rotation can be served: a CPU queue (0 to 63), or a collector (64 to 79). -/
def State.cpuReady (s : State) (m : Nat) : Bool :=
  if m < 64 then
    match s.queue (cpuQueue m) with
    | i :: _ => s.headReady i && (s.ringStalled m || (s.ringAccepts m && !s.ringBusy m))
    | [] => false
  else
    let c := m - 64
    match s.colHead c with
    | some b => s.colOnRing c && s.ringHas (s.colField c 2 2) (ceilDiv b.length 2048) && !s.ringBusy (s.colField c 2 2)
    | none => false

/-- A ring leaves STALLED as soon as it can accept a frame (R332); the time since which it cannot is kept. -/
def State.ringWatch (s : State) (r : Nat) : State :=
  if (s.queue (cpuQueue r)).isEmpty || s.ringAccepts r then
    let s := if s.flag HOST.R_STALLED r && s.ringAccepts r then s.setB HOST.R_STALLED false r else s
    { s with host := { s.host with stallSince := tabDel s.host.stallSince r } }
  else if (tabFind s.host.stallSince r).isSome then s
  else { s with host := { s.host with stallSince := tabPut s.host.stallSince r s.frc } }

/-- The choice of the CPU port: the next member in rotation that can be served. -/
def State.cpuPick (s : State) : Option Nat :=
  let p := s.rrPtr cpuPtr
  ((List.range 80).map (fun k => (p + k) % 80)).find? (fun m => s.cpuReady m)

/-- The member's frame takes an egress slot: not the discard of a stalled ring, nor a postcard for a ring, since neither runs
the egress stages (log 76). -/
def State.cpuSlot (s : State) (m : Nat) : Bool := decide (m < 64) && !s.ringStalled m

/-- The CPU port makes a selection: one frame per turn. -/
def State.selectCpu (s : State) (slot : Nat) : State :=
  let s := upTo 64 (fun r s => s.ringWatch r) s
  match s.cpuPick with
  | none => s
  | some m =>
    let s := (s.tally 127 evSelect).putRr cpuPtr ((m + 1) % 80)
    if m < 64 then
      match s.queue (cpuQueue m) with
      | i :: _ =>
        let s := s.popQueue (cpuQueue m)
        if s.flag HOST.R_STALLED m then (s.inc HOST.R_DISCARDS m).instEnd i
        else s.readStart i (fun s => s.enterEgress cpuPort (s.get HOST.R_PIPE m) slot i)
      | [] => s
    else
      let c := m - 64
      match s.colHead c with
      | some b =>
        let s := { s with tele := { s.tele with cols := tabPut s.tele.cols c ((s.colFifo c).drop 1) } }
        s.setTxList cpuPort (s.txList cpuPort ++ [.card c b])
      | none => s

/-! ### The egress point of a pipe (R25, R49, R50)

Its sources have the positions 0 to 15, the pipe's front ports; 16, its recirculation port; 17, the CPU port: DESIGN CHOICE, as
the spec numbers none (log 74). -/

def State.arbEg (s : State) (pipe : Nat) : Arb := tabGet {} s.que.arbEg pipe

def State.setArbEg (s : State) (pipe : Nat) (a : Arb) : State :=
  { s with que := { s.que with arbEg := tabPut s.que.arbEg pipe a } }

/-- Sources of a pipe that contend for an egress slot. -/
def State.egReady (s : State) (pipe : Nat) : List Nat :=
  (List.range 16).filter (fun k =>
    match s.frontPick (16 * pipe + k) with | some x => !s.pickStorms (16 * pipe + k) x | none => false) ++
    (if (s.recircPick pipe).isSome then [16] else []) ++
    (match s.cpuPick with | some m => if s.cpuSlot m && s.get HOST.R_PIPE m == pipe then [17] else [] | none => [])

/-- Pipe and position of a port at the egress point: the CPU port's are those of the ring that it would serve. -/
def State.egSource (s : State) (port : Nat) : Nat × Nat :=
  if port < 1024 then (pipeOf port, port % 16) else if port < 1088 then (port - 1024, 16)
  else (match s.cpuPick with | some m => if m < 64 then s.get HOST.R_PIPE m else 0 | none => 0, 17)

/-- A port's choice takes no egress slot: what it discards or sends does not run the egress stages (R246). -/
def State.slotless (s : State) (port : Nat) : Bool :=
  if port < 1024 then (match s.frontPick port with | some x => s.pickStorms port x | none => false)
  else if port < 1088 then false
  else (match s.cpuPick with | some m => !s.cpuSlot m | none => false)

/-- A port makes its selection. -/
def State.portSelect (s : State) (port slot : Nat) : State :=
  if port < 1024 then s.selectFront port slot
  else if port < 1088 then s.selectRecirc (port - 1024) slot
  else s.selectCpu slot

/-- SCHED_SELECT: a port makes its selection of a token (R247): in egress slot `slot` of its pipe, where the arbitration grants
it to the port, or without a slot. -/
def State.schedSelect (s : State) (port slot : Nat) : State :=
  if !s.live then s
  else
    let s := s.when (decide (port < 1024) && s.isPort port) (fun s => s.gateDrops port)
    let (pipe, x) := s.egSource port
    let s := s.when (slot == 0 && !(s.arbEg pipe).granted.isEmpty) (fun s =>
      s.setArbEg pipe ((s.arbEg pipe).open_ 18 (s.egReady pipe)))
    let a := s.arbEg pipe
    if a.granted.contains x then s
    else if s.slotless port then (s.portSelect port slot).setArbEg pipe { a with granted := x :: a.granted }
    else if a.pick 18 ((s.egReady pipe).filter (fun y => !a.granted.contains y)) = some x then
      let s := (s.portSelect port slot).setArbEg pipe (a.grant 18 x)
      s.when (slot == 1) (fun s => s.setArbEg pipe ((s.arbEg pipe).settle 18 (s.egReady pipe)))
    else s

/-- SCHED_SELECT, with what the checks of the queue engine's control state find (R404): a failure of both copies raises its
fault, and the port selects nothing (log 73). -/
def execSchedSelect (port : Fin 1089) (slot : Fin 2) (copies : Copies) (s : State) : Result :=
  .next (match copies with
    | .neither => s.when s.live (fun s => s.fault srcQueueCopies)
    | _ => s.schedSelect port.val slot.val)

/-- LAUNCH_TIME_REACHED: the head of a queue has reached its launch instant (R267). -/
def State.launchReached (s : State) (q : Nat) : State :=
  match s.queue q with
  | i :: rest => if !i.launched && decide (i.launchAt ≤ s.now) then s.setQueue q ({ i with launched := true } :: rest) else s
  | [] => s

def execLaunchTimeReached (queue : BitVec 19) (s : State) : Result := .next (s.launchReached queue.toNat)

end Sys2Proof.Machine
end

