-- ==== Sys2Proof/Machine/Egress.lean ====
section
/-!
DEFINITION. Transmission (R22, R23, R205, R214, R230, R255, R279) and the rings that carry frames (R320, R328 to R335): receive
rings, transmit rings, and host writes to the Bezel window.
-/
namespace Sys2Proof.Machine
open Reg

/-! ### Transmission -/

/-- The egress FIFO holds the start quantity of an item, as fixed when it fell due (R22). -/
def State.startReady (s : State) (x : Item) : Bool :=
  match x with
  | .card _ _ => true
  | .inst e =>
    let f := (s.getStore e.i.h).f
    f.done || (e.due == some true && decide (512 ≤ f.bytes.length))

def State.putTx (s : State) (p : Nat) (t : Tx) : State := { s with que := { s.que with tx := tabPut s.que.tx p t } }

/-- The transmission of a port is over: the next frame falls due. -/
def State.delTx (s : State) (p : Nat) : State := State.txDue { s with que := { s.que with tx := tabDel s.que.tx p } } p

/-- The read of an instance that departs starts (R231); one whose handle fails is discarded (R295). -/
def State.departStart (s : State) (e : Eg) (go : State → State) : State :=
  (s.when (s.handleCheck e.i.h != 0) (fun s => s.dropCard e)).readStart e.i go

/-- Fold and postcard of a departing instance (R295). -/
def State.departCards (s : State) (e : Eg) (ts : Nat) : State := (s.foldRecord e ts).cardAsk e (s.hmRecord e ts false)

/-- An instance starts: its frame is read, edited and stamped; fold and postcard wait for a frame that still arrives. -/
def State.txBegin (s : State) (p : Nat) (e : Eg) (rd : ReadErr) : State :=
  let f := (s.getStore e.i.h).f
  let n := if f.done then segsOf f.bytes.length else f.bytes.length / 256
  let (ok, s) := s.readFrame e.pipe e.i.h 0 n rd
  if !ok then s.egDiscard e
  else if f.done && s.oversize e then (s.inc MAP.EDIT_OVERSIZE e.pipe).egDiscard e
  else
    let ts := s.txStamp p
    let (head, s) := s.departHead e ts (s.hmRecord e ts false)
    let s := s.putTx p { item := .inst e, at_ := s.frc, head := head.bytes, taken := head.taken, tags := head.tags, ts := ts,
                         late := !f.done, segs := n }
    if f.done then s.departCards e ts else s

/-- TX_START: the MAC of a front port in UP starts the item at the head of its egress FIFO. -/
def State.txStart (s : State) (p : Nat) (rd : ReadErr) : State :=
  if !s.portUp p || !s.live || (tabFind s.que.tx p).isSome then s
  else
    let s := s.txDue p
    match s.txList p with
    | x :: rest =>
      if !s.startReady x then s
      else
        let s := s.setTxList p rest
        match x with
        | .card _ _ => s.putTx p { item := x, at_ := s.frc }
        | .inst e => s.departStart e (fun s => s.txBegin p e rd)
    | [] => s

def execTxStart (p : Fin 1024) (rd : ReadErr) (s : State) : Result := .next (s.txStart p.val rd)

/-- The transmission of a port ends with an inverted FCS. -/
def State.txBad (s : State) (p : Nat) (t : Tx) : State :=
  let s := (s.txStomp p t).delTx p
  match t.item with
  | .inst e => s.instEnd e.i
  | .card _ _ => s

/-- TX_UNDERRUN (R23). -/
def State.txUnderrun (s : State) (p : Nat) : State :=
  match tabFind s.que.tx p with
  | some t => ((s.txBad p t).inc PORT.TX_UNDERRUN p).fault srcUnderrun p
  | none => s

def execTxUnderrun (p : Fin 1024) (s : State) : Result := .next (s.txUnderrun p.val)

/-- A frame has left a port. -/
def State.txSent (s : State) (p : Nat) (bytes : List Byte) : State :=
  ((s.emit (.frame p bytes false)).delTx p).bwCount p 1 bytes.length

/-- The rest of an instance's frame has been sent: the rest of its segments is read, and the frame is whole. -/
def State.txEnd (s : State) (p : Nat) (t : Tx) (e : Eg) (rd : ReadErr) : State :=
  let f := (s.getStore e.i.h).f
  let (ok, s) := s.readFrame e.pipe e.i.h t.segs (segsOf f.bytes.length) rd
  if !ok then s.txBad p t
  else if t.late && s.oversize e then (s.inc MAP.EDIT_OVERSIZE e.pipe).txBad p t
  else
    let (head, s) := s.ecnLate e { bytes := t.head, taken := t.taken, tags := t.tags }
    let (bytes, pad) := s.departFrame e head
    let s := (s.when pad (fun s => s.inc MAP.EDIT_PAD e.pipe)).txSent p bytes
    (s.when t.late (fun s => s.departCards e t.ts)).instEnd e.i

/-- TX_COMPLETE: the last bit of a transmission has left; a frame that still arrives cannot have left. -/
def State.txComplete (s : State) (p : Nat) (rd : ReadErr) : State :=
  match tabFind s.que.tx p with
  | some t =>
    match t.item with
    | .card c b => (s.txSent p b).inc TELE.COL_SENT c
    | .inst e => if (s.getStore e.i.h).f.done then s.txEnd p t e rd else s
  | none => s

def execTxComplete (p : Fin 1024) (rd : ReadErr) (s : State) : Result := .next (s.txComplete p.val rd)

/-! ### Receive rings (R330 to R332) -/

/-- Bytes 4–27 of the SOP entry of an instance. -/
def State.rxMeta (s : State) (e : Eg) (len : Nat) : List Byte :=
  let i := e.i
  leBytes 2 len ++ leBytes 2 i.inPort ++ leBytes 1 i.reason ++
    leBytes 1 (i.prio % 8 + 8 * (i.colour % 4) + 32 * (i.epoch % 2) + 64 * (i.copy % 4)) ++ leBytes 1 i.inPipe ++ zeros 1 ++
    leBytes 8 (shortTime (s.inTs i.h)) ++ slice e.rec_ 96 4 ++ zeros 4

/-- Bytes 4–27 of the SOP entry of a postcard: length and reason; what the format says of an instance is free. -/
def State.cardMeta (s : State) (len : Nat) : List Byte :=
  let free := fun (a n : Nat) => (List.range n).map (fun k => Config.freeWindow s.draws (a + k))
  leBytes 2 len ++ free 6 2 ++ leBytes 1 0x30 ++ free 9 2 ++ zeros 1 ++ free 12 12 ++ zeros 4

/-- Write a frame, without its FCS, into the entries of ring `r` from number `k` of `n` on. -/
def State.rxEntries (s : State) (r k : Nat) (first data : List Byte) : Nat → State
  | 0 => s
  | n + 1 =>
    let a := s.ringEntry r 0
    let part := data.take 2048
    let s := s.memStore (2048 * (s.mem a 2 % 8192)) part
    let s := s.memStore (a + 2) (leBytes 2 part.length ++ (if k = 0 then first else zeros 24))
    State.rxEntries (s.ringComplete r 0 (k == 0) (n == 0)) r (k + 1) first (data.drop 2048) n

/-- Deliver a frame to ring `r`. -/
def State.rxDeliver (s : State) (r : Nat) (first data : List Byte) : State :=
  (s.rxEntries r 0 first data (ceilDiv data.length 2048)).ringWatch r

/-- The ring that an item behind the CPU port's egress stages goes to. -/
def State.itemRing (s : State) (x : Item) : Nat :=
  match x with
  | .inst e => e.i.queue - 0x40400
  | .card c _ => s.colField c 2 2

/-- The `n` entries from INDEX on have been given. A ring whose EN has been cleared completes the frame in progress (R329). -/
def State.ringOpen (s : State) (r n : Nat) : Bool :=
  decide (n ≤ s.ringSize r) && (List.range n).all (fun k => s.ringGiven r k)

/-- An instance is written to its ring. -/
def State.rxInst (s : State) (r : Nat) (e : Eg) (rd : ReadErr) : State :=
  let (ok, s) := s.readFrame e.pipe e.i.h 0 (segsOf (s.storedLen e.i.h)) rd
  if !ok then s.egDiscard e
  else if s.oversize e then (s.inc MAP.EDIT_OVERSIZE e.pipe).egDiscard e
  else
    let (head, s) := s.departHead e e.at_ (s.hmRecord e e.at_ false)
    let (bytes, pad) := s.departFrame e head
    let data := bytes.take (bytes.length - 4)
    let s := (s.when pad (fun s => s.inc MAP.EDIT_PAD e.pipe)).departCards e e.at_
    (s.rxDeliver r (s.rxMeta e data.length) data).instEnd e.i

/-- RX_RING_WRITE: the CPU port writes the first item for ring `r`, whose entries have been given. -/
def State.rxRingWrite (s : State) (r : Nat) (rd : ReadErr) : State :=
  let p := fun (x : Item) => s.itemRing x == r
  match (s.txList cpuPort).find? p with
  | none => s
  | some x =>
    let gone := s.setTxList cpuPort (dropFirst p (s.txList cpuPort))
    match x with
    | .inst e =>
      if s.ringOpen r (ringNeed (s.storedLen e.i.h)) then gone.departStart e (fun s => s.rxInst r e rd) else s
    | .card c b =>
      if s.ringOpen r (ceilDiv b.length 2048) then
        ((gone.draw).rxDeliver r (gone.cardMeta (b.length - 4)) (b.take (b.length - 4))).inc TELE.COL_SENT c
      else s

def execRxRingWrite (r : Fin 64) (rd : ReadErr) (s : State) : Result := .next (s.rxRingWrite r.val rd)

/-- RX_RING_STALL: the ring has not been able to accept the head of its queue for RX_STALL ms (R332). -/
def State.rxStall (s : State) (r : Nat) : State :=
  let s := s.ringWatch r
  let ms := s.get HOST.R_RX_STALL r
  match tabFind s.host.stallSince r with
  | some t =>
    if ms != 0 && !s.flag HOST.R_STALLED r && s.elapsed t (ms * ticksPerMs) then
      ((s.setB HOST.R_STALLED true r).setB HOST.R_STALL_EVT true r).fault srcStalled r
    else s
  | none => s

def execRxRingStall (r : Fin 64) (s : State) : Result := .next (s.rxStall r.val)

/-! ### Transmit rings (R333 to R335) -/

/-- The 32 bytes of the `k`-th entry from INDEX. -/
def State.ringBytes (s : State) (n k : Nat) : List Byte := s.memAt (s.ringEntry n k) 32

/-- SOP and EOP of an entry. -/
def entrySop (b : List Byte) : Bool := bit (le b 28 4) 2
def entryEop (b : List Byte) : Bool := bit (le b 28 4) 3

/-- What the entries from INDEX on hold: not all given yet, no proper chain (entries to write back), or a frame of entries. -/
inductive TxChain where
  | wait
  | bad (n : Nat)
  | frame (l : List (List Byte))
  deriving DecidableEq, Repr

/-- Gather entries up to the one with EOP, at most `fuel` more. -/
def State.txGather (s : State) (n : Nat) (got : List (List Byte)) : Nat → TxChain
  | 0 => .bad got.length
  | fuel + 1 =>
    if !s.ringGiven n got.length then .wait
    else
      let b := s.ringBytes n got.length
      if got.isEmpty && !entrySop b then .bad 1
      else if entryEop b then .frame (got ++ [b])
      else State.txGather s n (got ++ [b]) fuel

/-- DATA_LEN of a frame's entries. -/
def txLen (l : List (List Byte)) : Nat := l.foldl (fun n b => n + le b 2 2) 0

def txLenBad (l : List (List Byte)) : Bool :=
  l.any (fun b => le b 2 2 == 0 || decide (2048 < le b 2 2)) || decide (txLen l < 60) || decide (9724 < txLen l)

/-- A destination that DIRECT does not allow (status 3). -/
def State.txQueueBad (s : State) (sop : List Byte) : Bool :=
  let q := le sop 8 4 % 2 ^ 19
  bit (byteAt sop 4) 0 && !(if q < 0x40000 then s.isPort (q / 256) else isRecircQueue q)

/-- A reserved bit or byte that is not 0 (status 4): MODE, PRIO and QUEUE count in the SOP entry alone. -/
def txFieldBad (l : List (List Byte)) : Bool :=
  let sop := l.headD []
  decide (2 ≤ byteAt sop 4) || decide (8 ≤ byteAt sop 5) || bits (le sop 8 4) 19 13 != 0 ||
    l.any (fun b => !zeroBytes b 6 2 || !zeroBytes b 12 16 || byteAt b 29 != 0)

/-- The refusal status of a frame, or 0. The spec states no order among several causes: DEDUCED, the table's order (log 21). -/
def State.txStatus (s : State) (l : List (List Byte)) : Nat :=
  if txLenBad l then 1 else if s.txQueueBad (l.headD []) then 3 else if txFieldBad l then 4 else 0

/-- Write a frame's entries back with a status; SOP and EOP stay as given. -/
def State.txBack (s : State) (n status : Nat) : List (List Byte) → State
  | [] => s
  | b :: rest => State.txBack (s.ringComplete n status (entrySop b) (entryEop b)) n status rest

/-- The frame of the entries' slots, with the FCS that the MAC appends. -/
def State.txData (s : State) (l : List (List Byte)) : List Byte :=
  let d := l.flatMap (fun b => s.memAt (2048 * (le b 0 2 % 8192)) (le b 2 2))
  d ++ fcsOf d

/-- The frame is stored in Crucible: its handle, or none on a physical refusal, which keeps the requester HELD. -/
def State.txStore (s : State) (pipe r : Nat) (bytes : List Byte) : Option Nat × State :=
  let f : Frame := { bytes := bytes, done := true, port := cpuPort, req := r, ts := s.now }
  match s.grantRoom f (some bytes.length) with
  | none => (none, s.refuse r (fitPool bytes.length))
  | some (h, y, s1) =>
    match s1.chargeSegs { f with bytes := [] } false f.segs with
    | none => (none, s)
    | some (g, s) =>
      match s.fit h { y with f := { g with bytes := bytes }, pipe := pipe } with
      | (true, s) => (some h, (s.tally (shardUnit pipe) evSegWrite f.segs).xoffEval)
      | (false, s) => (none, s)

/-- A stored CPU frame waits for an ingress slot of its pipe, with the queue that DIRECT names (R335). -/
def State.txSend (s : State) (pipe h : Nat) (sop : List Byte) : State :=
  let queue := if bit (byteAt sop 4) 0 then some (le sop 8 4 % 2 ^ 19) else none
  s.setCpuList pipe (s.cpuList pipe ++ [{ h := h, queue := queue }])

/-- The module takes the frame at INDEX of transmit ring `t`, if all of its entries have been given. -/
def State.txTake (s : State) (t : Nat) : State :=
  let n := 64 + t
  if !s.flag HOST.R_EN n || !s.portsGo then s
  else
    match s.txGather n [] 5 with
    | .wait => s
    | .bad k => (s.txBack n 2 ((List.range k).map (fun j => s.ringBytes n j))).inc HOST.R_DISCARDS n
    | .frame l =>
      let st := s.txStatus l
      if st != 0 then (s.txBack n st l).inc HOST.R_DISCARDS n
      else
        let sop := l.headD []
        let r := 8 * cpuPort + byteAt sop 5 % 8
        let pipe := s.get HOST.R_PIPE n
        if s.heldIn r pipe then s
        else
          match s.txStore pipe r (s.txData l) with
          | (some h, s) => (s.txBack n 0 l).txSend pipe h sop
          | (none, s) => s

def execTxRingTake (t : Fin 16) (s : State) : Result := .next (s.txTake t.val)

/-! ### Examination and host writes (R320, R328) -/

/-- The module examines the entry at INDEX of ring `n`. -/
def State.ringExamine (s : State) (n : Nat) : State :=
  if n < 64 then s.ringWatch n else if n < 80 then s.txTake (n - 64) else s

def execRingPoll (n : Fin 88) (s : State) : Result := .next (s.when s.live (fun s => s.ringExamine n.val))

/-- A write to the window at [off, off + len) prompts the examination of the rings whose ring word at INDEX it wrote. -/
def State.ringsPrompt (s : State) (off len : Nat) : State :=
  upTo 88 (fun n s =>
    let a := s.ringEntry n 0 + 28
    if s.flag HOST.R_EN n && decide (off < a + 4) && decide (a < off + len) then s.ringExamine n else s) s

/-- BEZEL_WRITE: a host write to BAR2. -/
def State.bezelWrite (s : State) (off : Nat) (data : List Byte) (en : List Bool) : State :=
  if s.regOpen HOST.LINK_UP.off then (s.bezelStore off data en).ringsPrompt off data.length else s

def execBezelWrite (off : BitVec 24) (data : List Byte) (en : List Bool) (s : State) : Result :=
  .next (s.bezelWrite off.toNat data en)

/-- POISONED_WRITE: a poisoned write to BAR0 or BAR2 is discarded (R320, which names
these two alone). -/
def State.poisoned (s : State) (b : Bar) : State :=
  if s.live && (b == .bar0 || b == .bar2) then (s.hostEvent HOST.POISONED).fault srcPoisoned else s

def execPoisonedWrite (b : Bar) (s : State) : Result := .next (s.poisoned b)

end Sys2Proof.Machine
end

