-- ==== Sys2Proof/Machine/DeviceSpace.lean ====
section
/-!
DEFINITION. The device address space (R340, R448): which address belongs to which item, what a read of it returns, which writes
a region accepts, and what a commit unit stores (R73, R148, R160, R171, R206, R243, R244, R249, R253, R262, R264, R308).
-/
namespace Sys2Proof.Machine
open Reg

/-! ### Items (R448) -/

/-- The regions of the device address space. -/
inductive Region where
  | bezel | em | stash | ase | filigree | result | direct | action | queue | classNode | portNode | policer | group | gate
  | counter | flow | store
  deriving DecidableEq, Repr

/-- An item: its region, address and size, which is the size of its commit unit. -/
structure Item448 where
  region : Region
  base : Nat
  size : Nat
  deriving DecidableEq, Repr

/-- First and last address of each region. -/
def regionTable : List (Region × Nat × Nat) := [
  (.bezel, 0, 0xFFFFFF), (.em, emBase, 0x107FFFFFF), (.stash, stashBase, 0x11001FFFF), (.ase, aseBase, 0x207FFFFFF),
  (.filigree, filBase, 0x301FFFFFF), (.result, resultBase, 0x401FFFFFF), (.direct, directBase, 0x411FFFFFF),
  (.action, actionBase, 0x420FFFFFF)] ++ [
  (.queue, queueBase, 0x5010113FF), (.classNode, classBase, 0x510087FFF), (.portNode, portNodeBase, 0x52001103F),
  (.policer, policerBase, 0x5301FFFFF), (.group, groupBase, 0x540FFFFFF), (.gate, gateBase, 0x5503FFFFF)] ++ [
  (.counter, counterBase, 0x607FFFFFF), (.flow, flowBase, 0x707FFFFFF), (.store, storeBase, 0x80FFFFFFF)]

/-- The table whose rows hold an exact-match entry. -/
def State.emOwner (s : State) (e : Nat) : Option Nat :=
  (List.range (s.get EM.TABLE_COUNT)).find? (fun t =>
    decide (s.emField t 0 2 ≤ e / 1024) && decide (e / 1024 < s.emField t 0 2 + s.emField t 2 2))

/-- Pipe and stage of an address of a match-action memory with `n` bytes for each stage. -/
def stageOf (off n : Nat) : Nat × Nat := (off / n / 32, off / n % 32)

/-- Size of the commit unit at an offset of a region; 0 where no item lies there. -/
def State.unitSize (s : State) (r : Region) (off : Nat) : Nat :=
  match r with
  | .bezel => 1
  | .em => match s.emOwner (off / 16) with | some t => s.emSize t | none => 16
  | .stash => 64
  | .ase =>
    let b := off / 128 / 2048 * 2
    match s.aseOwner b with | some (p, _) => if s.aseWide p then 128 else 64 | none => 64
  | .direct =>
    let x := stageOf off 0x4000
    let fmt := s.stageField x.1 x.2 0x83 1
    if fmt = 0 then 0 else directSize fmt
  | .action => 8
  | .classNode | .policer | .flow => 32
  | .group => 256
  | .gate => 8
  | .counter => 16
  | _ => 64

/-- The item that an address belongs to: none for an unlisted address. -/
def State.itemAt (s : State) (a : Nat) : Option Item448 :=
  match regionTable.find? (fun x => decide (x.2.1 ≤ a) && decide (a ≤ x.2.2)) with
  | some (r, lo, _) =>
    let n := s.unitSize r (a - lo)
    if n = 0 then none else some { region := r, base := lo + (a - lo) / n * n, size := n }
  | none => none

/-! ### Reads (R244, R308, R340) -/

/-- Whole bytes of a bucket level. -/
def wholeBytes (level : Int) : Int := level.fdiv byteUnit

/-- The live value of a status word that is held elsewhere, by its address: DEPTH, INSTANCES, BUCKET, TC and TP. -/
def State.statusWord (s : State) (r : Region) (base off : Nat) : Option Nat :=
  let bucket := fun (x : Shaper) => some (wrapInt (wholeBytes (if x.enabled then s.shaperLevel x else 0)) 32)
  match r with
  | .queue =>
    let q := (base - queueBase) / 64
    if off = 0x20 then some (s.depth q)
    else if off = 0x24 then some (s.queue q).length
    else if off = 0x28 then bucket (s.queueShaper q) else none
  | .classNode =>
    let k := (base - classBase) / 32
    if off = 0x10 then bucket (s.classShaper (k / 16) (k % 16)) else none
  | .portNode => if off = 0x20 then bucket (s.portShaper ((base - portNodeBase) / 64)) else none
  | .policer =>
    let i := (base - policerBase) / 32
    if off = 0x18 then some (wrapInt (wholeBytes (s.policerLevel i 0)) 32)
    else if off = 0x1C then some (wrapInt (wholeBytes (s.policerLevel i 1)) 32) else none
  | _ => none

/-- The byte at a listed address. -/
def State.devByte (s : State) (x : Item448) (a : Nat) : Byte :=
  match x.region with
  | .store => memByte s.dev (storeBase + s.storeAt (a - storeBase))
  | _ =>
    match s.statusWord x.region x.base ((a - x.base) / 4 * 4) with
    | some v => BitVec.ofNat 8 (v / 256 ^ (a % 4))
    | none => memByte s.dev a

/-- Read `n` bytes: the first unlisted address is a source error. -/
def State.devRead (s : State) (a : Nat) : Nat → List Byte ⊕ Nat
  | 0 => .inl []
  | n + 1 =>
    match s.itemAt a with
    | none => .inr a
    | some x =>
      match State.devRead s (a + 1) n with
      | .inl l => .inl (s.devByte x a :: l)
      | .inr bad => .inr bad

/-! ### Which writes are accepted -/

/-- The epoch that is not current. -/
def State.idleEpoch (s : State) : Nat := 1 - s.get IMG.EPOCH

/-- A SWAP is at step 2 of R72: it fetches and verifies. -/
def State.swapFetching (s : State) : Bool :=
  match s.img.cmd with | some c => c.op == 5 && c.phase == .verifying | none => false

/-- Item `k` of a resource of `n` items lies in the area of epoch `e`. -/
def State.inArea (s : State) (n e k : Nat) : Bool := decide (s.areaBase n e ≤ k) && decide (k < s.areaBase n e + s.areaSize n)

/-- Writes of the idle epoch's area alone, outside step 2 of R72 and the retirement of its last rule set (R206). -/
def State.idleOnly (s : State) (n k : Nat) : Bool :=
  s.swapOn && s.inArea n s.idleEpoch k && !s.flag IMG.RETIRING && !s.swapFetching

/-- A gate list whose entries DMA may not write now: operational or pending (R264). -/
def State.gateLocked (s : State) (port list i : Nat) : Bool :=
  let g := s.gate port
  let hit := fun (x : Option GateList) => match x with | some l => l.list == list && decide (i < l.len) | none => false
  hit g.oper || hit g.next

/-- The bank of an ASE slot, or the even bank of a pair of slots (R159, R171). -/
def slotBank (x : Item448) : Nat :=
  (x.base - aseBase) / 128 / 2048 * 2 + (if x.size = 64 then (x.base - aseBase) / 64 % 2 else 0)

/-- The region accepts a write of the item. In SERVICE only the Bezel window does (R414). -/
def State.writable (s : State) (x : Item448) : Bool :=
  if s.lcState == lcService && x.region != .bezel then false
  else match x.region with
  | .bezel | .direct | .queue | .classNode | .portNode | .policer | .group | .counter => true
  | .em => (s.emOwner ((x.base - emBase) / 16)).isSome && s.emHeld ((x.base - emBase) / 16)
  | .ase =>
    let b := slotBank x
    (s.aseOwner b).isSome && s.bitOf ASE.HELD (b % 32) (b / 32) &&
      (x.size == 64 || s.bitOf ASE.HELD ((b + 1) % 32) ((b + 1) / 32))
  | .filigree => s.idleOnly filNodes ((x.base - filBase) / 64)
  | .action => s.idleOnly actionWords ((x.base - actionBase) / 8 % 1024)
  | .result =>
    let k := (x.base - resultBase) / 64
    !(s.swapOn && s.inArea resultLines s.idleEpoch k && (s.flag IMG.RETIRING || s.swapFetching))
  | .gate =>
    let off := x.base - gateBase
    !s.gateLocked (off / 0x1000) (off / 0x800 % 2) (off / 8 % 256)
  | .stash | .flow | .store => false

/-! ### What a unit stores -/

/-- A signed byte held to −64 to +63. -/
def clampOvh (v : Nat) : Nat := wrapInt (max (-64) (min 63 (signed v 8))) 8

/-- QUANTUM held to 1,023. -/
def clampQuantum (v : Nat) : Nat := min 1023 v

/-- The stored form of a queue entry (R244), with its status bytes as they stand. -/
def State.queueStored (s : State) (a : Nat) (b : List Byte) : List Byte :=
  leBytes 1 (min 63 (le b 0 1)) ++ leBytes 1 (le b 1 1 % 16) ++ leBytes 2 (clampQuantum (le b 2 2)) ++ slice b 4 7 ++
    leBytes 1 (clampOvh (le b 11 1)) ++ leBytes 4 (le b 0x0C 4 % 2 ^ 22) ++ leBytes 4 (le b 0x10 4 % 2 ^ 22) ++ slice b 0x14 1 ++
    zeros 11 ++ s.memAt (a + 0x20) 20 ++ zeros 12

/-- The stored form of a class node. -/
def State.classStored (s : State) (a : Nat) (b : List Byte) : List Byte :=
  leBytes 1 (le b 0 1 % 8) ++ leBytes 1 (le b 1 1 % 2) ++ leBytes 2 (clampQuantum (le b 2 2)) ++ slice b 4 7 ++
    leBytes 1 (clampOvh (le b 11 1)) ++ zeros 4 ++ s.memAt (a + 0x10) 8 ++ zeros 8

/-- The stored form of a port node. -/
def State.portStored (s : State) (a : Nat) (b : List Byte) : List Byte :=
  leBytes 1 (le b 0 1 % 4) ++ leBytes 1 (clampOvh (le b 1 1)) ++ zeros 2 ++ leBytes 8 (le b 4 8 % 2 ^ 48) ++ slice b 0x0C 7 ++
    leBytes 1 (clampOvh (le b 0x13 1)) ++ zeros 12 ++ s.memAt (a + 0x20) 4 ++ zeros 28

/-- The stored form of a policer. -/
def State.policerStored (s : State) (a : Nat) (b : List Byte) : List Byte :=
  slice b 0 16 ++ leBytes 1 (le b 0x10 1 % 16) ++ zeros 3 ++ leBytes 4 (le b 0x14 4 % 2 ^ 23) ++ s.memAt (a + 0x18) 8

/-- The stored form of a multicast group. -/
def groupStored (b : List Byte) : List Byte :=
  slice b 0 0x89 ++ leBytes 1 (le b 0x89 1 % 4) ++ zeros 2 ++ leBytes 4 (le b 0x8C 4 % 2 ^ 22) ++ zeros 112

/-- The stored form of an ASE slot: masked key bits and MOVE_SHADOW are stored as 0 (R160), reserved bits as 0. -/
def slotStored (b : List Byte) : List Byte :=
  leBytes 20 (le b 0 20 &&& le b 20 20) ++ slice b 20 22 ++ leBytes 2 (le b 42 2 &&& 0xFF03) ++ slice b 44 4 ++ zeros 16

/-- A shaper's bucket is brought up to now before its configuration changes, so that it goes on from its fill; SHAPE_EN from 0
to 1 starts it full (R248, R249). -/
def State.shaperBefore (s : State) (x : Shaper) : State :=
  if x.enabled then s.putBucket x.status (s.shaperLevel x)
  else { s with que := { s.que with buckets := tabDel s.que.buckets x.status } }

/-- A policer's buckets are brought up to now, so that they keep their fills, or fill if all of CIR, PIR, CBS and PBS were 0
(R253). -/
def State.policerBefore (s : State) (i : Nat) : State :=
  let a := policerAddr i
  if zeroBytes (s.memAt a 16) 0 16 then
    { s with que := { s.que with buckets := tabDel (tabDel s.que.buckets (a + 0x18)) (a + 0x1C) } }
  else
    let put := fun (s : State) (k : Nat) => s.putBucket (a + 0x18 + 4 * k) (s.policerLevel i k)
    put (put s 0) 1

/-- A counter pair is written: pending deltas of its index are discarded in every shard (R308). -/
def State.pairDiscard (s : State) (i : Nat) : State :=
  upTo 8 (fun k s => s.setDeltas k ((s.deltaList k).filter (fun d => d.index != i))) s

/-- A commit unit is complete: it commits whole. -/
def State.devCommit (s : State) (x : Item448) (b : List Byte) : State :=
  match x.region with
  | .ase =>
    let s := (slotBanks (x.size = 128) (slotBank x)).foldl (fun s b => s.aseOp false 1 b) s
    if x.size = 128 then s.memStore x.base (slotStored (b.take 64) ++ slotStored (b.drop 64))
    else s.memStore x.base (slotStored b)
  | .queue => (s.shaperBefore (s.queueShaper ((x.base - queueBase) / 64))).memStore x.base (s.queueStored x.base b)
  | .classNode =>
    let k := (x.base - classBase) / 32
    (s.shaperBefore (s.classShaper (k / 16) (k % 16))).memStore x.base (s.classStored x.base b)
  | .portNode => (s.shaperBefore (s.portShaper ((x.base - portNodeBase) / 64))).memStore x.base (s.portStored x.base b)
  | .policer => (s.policerBefore ((x.base - policerBase) / 32)).memStore x.base (s.policerStored x.base b)
  | .group => s.memStore x.base (groupStored b)
  | .gate => s.memStore x.base (slice b 0 2 ++ zeros 2 ++ slice b 4 4)
  | .counter => (s.pairDiscard ((x.base - counterBase) / 16)).memStore x.base b
  | _ => s.memStore x.base b

/-- Deliver one byte of a transfer: it joins the bytes of its unit that have come, and the complete unit commits. A write that
the region refuses, or of an unlisted address, is a destination error at that address. -/
def State.devDeliver (s : State) (part : List Host.Cell) (a : Nat) (b : Byte) : (State × List Host.Cell) ⊕ Nat :=
  match s.itemAt a with
  | none => .inr a
  | some x =>
    if !s.writable x then .inr a
    else
      let part := tabPut part a b
      let here := part.filter (fun c => decide (x.base ≤ c.1) && decide (c.1 < x.base + x.size))
      if here.length = x.size then
        .inl (s.devCommit x (here.map (fun c => c.2)), part.filter (fun c => !(decide (x.base ≤ c.1) && decide (c.1 < x.base + x.size))))
      else .inl (s, part)

end Sys2Proof.Machine
end

