-- ==== Sys2Proof/Machine/Dma.lean ====
section
/-!
DEFINITION. DMA transfers (R339 to R350): the checks at the start, bursts, the read-back, endings, and the shadow set with
its hand-over.
-/
namespace Sys2Proof.Machine
open Reg

/-- Channel states (R351). -/
def dmaIdle : Nat := 0
def dmaRunning : Nat := 1
def dmaHalted : Nat := 2

/-- Result codes (R347). -/
def dmaOk : Nat := 0
def dmaBadConfig : Nat := 1
def dmaOverlapWidth : Nat := 2
def dmaSrcErr : Nat := 3
def dmaDestErr : Nat := 4
def dmaReadbackErr : Nat := 5
def dmaAborted : Nat := 6
def dmaLink : Nat := 7

/-- Space of an address and its offset in the space (R340). -/
def addrSpace (a : Nat) : Nat := bits a 60 4
def addrOffset (a : Nat) : Nat := bits a 0 60

/-- Element widths SW and DW, bytes. -/
def State.dmaSw (s : State) (c : Nat) : Nat := s.get HOST.D_SRC_W c + 1
def State.dmaDw (s : State) (c : Nat) : Nat := s.get HOST.D_DST_W c + 1

/-- The channel's record. -/
def State.dmaRec (s : State) (c : Nat) : Dma := tabGet {} s.host.dma c

def State.dmaPut (s : State) (c : Nat) (d : Dma) : State :=
  { s with host := { s.host with dma := tabPut s.host.dma c d } }

/-- A range of `len` bytes from an address lies in its space and is aligned as R341 asks. -/
def rangeOk (a len : Nat) : Bool :=
  if addrSpace a = 0 then decide (addrOffset a + len ≤ 2 ^ 60)
  else addrSpace a == 1 && bits a 36 24 == 0 && decide (addrOffset a + len ≤ 2 ^ 36) && a % 4 == 0

/-- Source and destination ranges are in one space and intersect (R341). -/
def State.dmaOverlap (s : State) (c : Nat) : Bool :=
  let src := s.get HOST.D_SRC c
  let dst := s.get HOST.D_DST c
  let n := s.get HOST.D_COUNT c
  addrSpace src == addrSpace dst && decide (addrOffset src < addrOffset dst + n * s.dmaDw c) &&
    decide (addrOffset dst < addrOffset src + n * s.dmaSw c)

/-- The checks of R341: the failing result, none if the transfer may run. -/
def State.dmaCheck (s : State) (c : Nat) : Option Nat :=
  let n := s.get HOST.D_COUNT c
  let sw := s.dmaSw c
  let dw := s.dmaDw c
  if n = 0 || !rangeOk (s.get HOST.D_SRC c) (n * sw) || !rangeOk (s.get HOST.D_DST c) (n * dw) then some dmaBadConfig
  else if dw < sw && !s.flag HOST.D_NARROW_OK c then some dmaBadConfig
  else if s.dmaOverlap c && sw != dw then some dmaOverlapWidth
  else none

/-- The channel's message (R323, R345: without coalescing). -/
def State.dmaMessage (s : State) (c : Nat) : State := s.msixSend (s.get HOST.D_VECTOR c)

/-- Status of an ending other than OK: written, message sent, HALTED (R345). -/
def State.dmaHalt (s : State) (c result residue : Nat) : State :=
  let s := ((s.set HOST.D_RESULT result c).set HOST.D_RESIDUE residue c).setB HOST.D_DONE true c
  ((s.set HOST.D_STATE dmaHalted c).dmaPut c {}).dmaMessage c

/-- Elements not written. -/
def State.dmaLeft (s : State) (c : Nat) : Nat := s.get HOST.D_COUNT c - (s.dmaRec c).moved

/-- The transfer starts under R341. -/
def State.dmaStart (s : State) (c : Nat) : State :=
  match s.dmaCheck c with
  | some r => (s.setB HOST.D_OVERLAP_DESC false c).dmaHalt c r (s.get HOST.D_COUNT c)
  | none =>
    let desc := s.dmaOverlap c && decide (s.get HOST.D_SRC c < s.get HOST.D_DST c)
    ((s.setB HOST.D_OVERLAP_DESC desc c).set HOST.D_STATE dmaRunning c).dmaPut c {}

/-- A hand-over samples SHADOW_VALID and, if it is 1, takes the shadow (R348). -/
def State.dmaHandover (s : State) (c : Nat) : State :=
  if s.flag HOST.D_SHADOW_VALID c then
    let cfg := s.get HOST.D_SH_CFG c
    let s := ((s.set HOST.D_SRC (s.get HOST.D_SH_SRC c) c).set HOST.D_DST (s.get HOST.D_SH_DST c) c).set HOST.D_COUNT
      (s.get HOST.D_SH_COUNT c) c
    let s := ((s.set HOST.D_SRC_W (bits cfg 0 6) c).set HOST.D_DST_W (bits cfg 8 6) c).setB HOST.D_NARROW_OK (bit cfg 16) c
    let s := (s.setB HOST.D_HALF_IE (bit cfg 17) c).setB HOST.D_FULL_IE (bit cfg 18) c
    (((s.setB HOST.D_SHADOW_VALID false c).setB HOST.D_TAKEN true c).inc HOST.D_HANDOVERS c).dmaStart c
  else s

/-- DMA_GO: ignored, with BUSY_WRITE, on a channel that is not IDLE (R348, R349). -/
def State.dmaGo (s : State) (c : Nat) : State :=
  if s.get HOST.D_STATE c = dmaIdle then s.dmaStart c else s.setB HOST.D_BUSY_WRITE true c

def execDmaGo (c : Fin 32) (s : State) : Result := .next (s.viaHost HOST.D_GO (fun s => (s.dmaGo c.val)))

/-- DMA_ABORT of the running transfer. A burst is one step, so none is in progress (R346). -/
def State.dmaAbort (s : State) (c : Nat) : State :=
  if s.get HOST.D_STATE c = dmaRunning then s.dmaHalt c dmaAborted (s.dmaLeft c) else s

def execDmaAbort (c : Fin 32) (s : State) : Result := .next (s.viaHost HOST.D_ABORT (fun s => (s.dmaAbort c.val)))

/-- CLEAR_HALT: to IDLE, and a valid shadow is taken at once (R348). -/
def State.dmaClearHalt (s : State) (c : Nat) : State :=
  if s.get HOST.D_STATE c = dmaHalted then (s.set HOST.D_STATE dmaIdle c).dmaHandover c else s

def execClearHalt (c : Fin 32) (s : State) : Result := .next (s.viaHost HOST.D_CLEAR_HALT (fun s => (s.dmaClearHalt c.val)))

/-- SHADOW_ARM (R348). -/
def State.shadowArm (s : State) (c : Nat) : State :=
  let s := s.setB HOST.D_SHADOW_VALID true c
  if s.get HOST.D_STATE c = dmaIdle then s.dmaHandover c else s

def execShadowArm (c : Fin 32) (s : State) : Result := .next (s.viaHost HOST.D_SHADOW_VALID (fun s => (s.shadowArm c.val)))

/-- SHADOW_CANCEL (R348). -/
def execShadowCancel (c : Fin 32) (s : State) : Result := .next (s.viaHost HOST.D_SHADOW_VALID (fun s => (s.setB HOST.D_SHADOW_VALID false c.val)))

/-- A write of the word at an offset of channel `c`'s shadow set (R12, R349). -/
def shadowWord (s : State) (c off v : Nat) : State :=
  let base := 0x00D10000 + 0x100 * c
  if s.flag HOST.D_SHADOW_VALID c then
    -- rejected whole, and the latched low word is discarded as well (R349)
    let drop := if off = 0x40 || off = 0x44 then base + 0x40 else if off = 0x48 || off = 0x4C then base + 0x48 else 0
    let s := s.setB HOST.D_WRITE_REJECTED true c
    { s with host := { s.host with low := tabDel s.host.low drop } }
  else if off = 0x40 || off = 0x48 then { s with host := { s.host with low := tabPut s.host.low (base + off) v } }
  else if off = 0x44 || off = 0x4C then
    let f := if off = 0x44 then HOST.D_SH_SRC else HOST.D_SH_DST
    let low := (tabFind s.host.low (base + off - 4)).getD (s.get f c % 2 ^ 32)
    State.set { s with host := { s.host with low := tabDel s.host.low (base + off - 4) } } f (low + 2 ^ 32 * v) c
  else if off = 0x50 then s.set HOST.D_SH_COUNT v c
  else if off = 0x54 then s.set HOST.D_SH_CFG (v &&& 0x73F3F) c
  else s

/-- SHADOW_FIELD_WRITE: a word of the shadow set, by its offset in the channel window (R349, R12). -/
def execShadowFieldWrite (c : Fin 32) (off : BitVec 8) (v : Word) (s : State) : Result :=
  .next (s.viaHost HOST.D_SH_SRC (fun s => (shadowWord s c.val off.toNat v.toNat)))

/-! ### Bursts (R339, R342, R343) -/

/-- Elements of one burst (R342). -/
def burstElems (dw : Nat) : Nat := 4096 / dw

/-- The element moved `k`-th in the order of R342 or R343. -/
def State.dmaElem (s : State) (c k : Nat) : Nat :=
  if s.flag HOST.D_OVERLAP_DESC c then s.get HOST.D_COUNT c - 1 - k else k

/-- Zero-extend or truncate an element to DW bytes (R339). -/
def fitElem (dw : Nat) (e : List Byte) : List Byte := padTo dw e

/-- Read a source element: its bytes, or the failing address. Host bytes come with the command, in the order in which the
burst's elements are read; where they end, the read failed (R345). -/
def State.dmaSource (s : State) (c k i : Nat) (data : List Byte) : List Byte ⊕ Nat :=
  let sw := s.dmaSw c
  let a := s.get HOST.D_SRC c + k * sw
  if addrSpace a = 0 then
    if (i + 1) * sw ≤ data.length then .inl (slice data (i * sw) sw) else .inr (a + (data.length - i * sw))
  else
    match s.devRead (addrOffset a) sw with
    | .inl b => .inl b
    | .inr bad => .inr (2 ^ 60 + bad)

/-- Max payload size of a request: the setting of Device Control, at most the 512 B that the module supports (R317). -/
def State.maxPayload (s : State) : Nat := 128 * 2 ^ min 2 (bits (tabGet cfgDevCtlReset s.host.cfg cfgDevCtl) 5 3)

/-- The requests of `n` host bytes from `a`: split at 4 KiB address boundaries and at the max payload size (R342). -/
def splitHost (pay : Nat) : Nat → Nat → List Byte → List (Nat × List Byte)
  | 0, _, _ => []
  | _ + 1, _, [] => []
  | fuel + 1, a, bs =>
    let n := min pay (4096 - a % 4096)
    (a, bs.take n) :: splitHost pay fuel (a + n) (bs.drop n)

/-- The gathered host bytes of the burst leave, in their requests. -/
def State.dmaFlush (s : State) (c : Nat) : State :=
  match (s.dmaRec c).gather with
  | none => s
  | some (a, bs) =>
    (splitHost s.maxPayload bs.length a bs).foldl (fun s x => s.emit (.hostWrite x.1 x.2))
      (s.dmaPut c { s.dmaRec c with gather := none })

/-- An element joins the host bytes that go on where the gathered ones end; others leave before it. -/
def State.dmaGather (s : State) (c a : Nat) (e : List Byte) : State :=
  match (s.dmaRec c).gather with
  | some (a0, bs) =>
    if a0 + bs.length = a then s.dmaPut c { s.dmaRec c with gather := some (a0, bs ++ e) }
    else let s := s.dmaFlush c; s.dmaPut c { s.dmaRec c with gather := some (a, e) }
  | none => s.dmaPut c { s.dmaRec c with gather := some (a, e) }

/-- Deliver the bytes of a device element from `p`: they gather until their commit unit is complete, which then commits under
its region's rule; at a refusal, the first refused address. Units that committed before it stand (R345). -/
def State.dmaUnits (s : State) (c p : Nat) : List Byte → State × Option Nat
  | [] => (s, none)
  | b :: bs =>
    match s.devDeliver (s.dmaRec c).partial_ p b with
    | .inl (s, part) => State.dmaUnits (s.dmaPut c { s.dmaRec c with partial_ := part }) c (p + 1) bs
    | .inr bad => (s, some (2 ^ 60 + bad))

/-- Deliver a destination element, into host space or into device space. -/
def State.dmaDeliver (s : State) (c k : Nat) (e : List Byte) : State × Option Nat :=
  let a := s.get HOST.D_DST c + k * s.dmaDw c
  if addrSpace a = 0 then (s.dmaGather c (addrOffset a) e, none) else s.dmaUnits c (addrOffset a) e

/-- HALF sets, and its message is sent, once the first ceil(COUNT / 2) elements are written (R344): their requests go before
it (R321). -/
def State.dmaHalf (s : State) (c : Nat) : State :=
  if s.flag HOST.D_HALF_IE c && (s.dmaRec c).moved == ceilDiv (s.get HOST.D_COUNT c) 2 then
    ((s.dmaFlush c).setB HOST.D_HALF true c).dmaMessage c
  else s

/-- A host-space end of the transfer cannot be reached: no Bus Master Enable, or D3hot (R322). -/
def State.dmaBlocked (s : State) (c : Nat) : Bool :=
  !s.msixOpen && (addrSpace (s.get HOST.D_SRC c) == 0 || addrSpace (s.get HOST.D_DST c) == 0)

/-- Move element by element; `i` counts the elements of this burst, so that host data is read from its place. -/
def State.dmaMove (s : State) (c i : Nat) (data : List Byte) : Nat → State
  | 0 => s
  | n + 1 =>
    let d := s.dmaRec c
    if s.get HOST.D_COUNT c ≤ d.moved then s
    else
      let k := s.dmaElem c d.moved
      match s.dmaSource c k i data with
      | .inr bad => ((s.dmaFlush c).set HOST.D_FAIL_ADDR bad c).dmaHalt c dmaSrcErr (s.dmaLeft c)
      | .inl e =>
        match s.dmaDeliver c k (fitElem (s.dmaDw c) e) with
        | (s, some bad) => (s.set HOST.D_FAIL_ADDR bad c).dmaHalt c dmaDestErr (s.dmaLeft c)
        | (s, none) =>
          let s := (s.dmaPut c { s.dmaRec c with moved := d.moved + 1 }).dmaHalf c
          State.dmaMove s c (i + 1) data n

/-- A burst into the Bezel window prompts the examination of the rings whose ring word lies in the destination (R328). -/
def State.dmaPrompt (s : State) (c : Nat) : State :=
  let a := s.get HOST.D_DST c
  if addrSpace a = 1 && decide (addrOffset a < 0x1000000) then
    s.ringsPrompt (addrOffset a) (s.get HOST.D_COUNT c * s.dmaDw c)
  else s

/-- A channel has a burst to serve. -/
def State.dmaReady (s : State) (c : Nat) : Bool := s.get HOST.D_STATE c == dmaRunning && !(s.dmaRec c).readback

/-- The channel whose burst is next in rotating order (R342). -/
def State.dmaTurn (s : State) : Option Nat :=
  ((List.range 32).map (fun k => (s.host.dmaNext + k) % 32)).find? (fun c => s.dmaReady c)

/-- DMA_BURST: one burst of the running channel whose turn it is (R342). -/
def State.dmaBurst (s : State) (c : Nat) (data : List Byte) : State :=
  if s.dmaTurn != some c then s
  else
    let s := { s with host := { s.host with dmaNext := (c + 1) % 32 } }
    if s.dmaBlocked c then s.dmaHalt c dmaLink (s.dmaLeft c)
    else
    let s := ((s.dmaMove c 0 data (burstElems (s.dmaDw c))).dmaFlush c).dmaPrompt c
    if s.get HOST.D_STATE c = dmaRunning && s.dmaLeft c == 0 then s.dmaPut c { s.dmaRec c with readback := true } else s

def execDmaBurst (c : Fin 32) (data : List Byte) (s : State) : Result := .next (s.dmaBurst c.val data)

/-- DMA_READBACK_DONE: status OK, message under FULL_IE and the hand-over, or READBACK_ERR (R344, R348). -/
def State.dmaReadback (s : State) (c : Nat) (ok : Bool) : State :=
  if s.get HOST.D_STATE c != dmaRunning || !(s.dmaRec c).readback then s
  else if !ok then s.dmaHalt c dmaReadbackErr 0
  else
    let s := ((s.set HOST.D_RESULT dmaOk c).set HOST.D_RESIDUE 0 c).setB HOST.D_DONE true c
    let s := ((s.set HOST.D_STATE dmaIdle c).dmaPut c {}).when (s.flag HOST.D_FULL_IE c) (fun s => s.dmaMessage c)
    s.dmaHandover c

def execDmaReadbackDone (c : Fin 32) (ok : Bool) (s : State) : Result := .next (s.dmaReadback c.val ok)

/-! ### Link events (R322) -/

/-- The transfer has a host-space element not yet written or read. -/
def State.dmaHostLeft (s : State) (c : Nat) : Bool :=
  (addrSpace (s.get HOST.D_SRC c) == 0 || addrSpace (s.get HOST.D_DST c) == 0) && s.dmaLeft c != 0

/-- Transfers with a host-space element not yet written or read end with LINK; `all` true: every running transfer
(R368, R414, R431). -/
def State.dmaLinkEnd (s : State) (all : Bool) : State :=
  upTo 32 (fun c s =>
    if s.get HOST.D_STATE c = dmaRunning && (all || s.dmaHostLeft c) then s.dmaHalt c dmaLink (s.dmaLeft c) else s) s

end Sys2Proof.Machine
end

