-- ==== Sys2Proof/Machine/Planish.lean ====
section
/-!
DEFINITION. Planish, Anvil's scrub (R214, R379, R380): one word a step, and the measured passes.
-/
namespace Sys2Proof.Machine
open Reg

/-- Key of the ASE pass among the passes that are measured: activities are 0 to 6, tables 16 to 31. -/
def passAse : Nat := 32

/-- A word of the device space: corrected and rewritten, or found beyond correction. -/
def State.scrubWord (s : State) (a n : Nat) (e : EccState) : State :=
  match s.eccOf a n e with
  | .corrected => (s.inc ANVL.SCRUB_CORR).injClear a n
  | .uncorrectable => s.inc ANVL.SCRUB_UNCORR
  | .clean => s

/-- A segment slot holds a segment of a frame. -/
def State.slotUsed (s : State) (slot : Nat) : Bool :=
  s.buf.store.any (fun x => (List.range x.2.f.segs).any (fun j => x.2.slot x.1 j == slot))

/-- An idle row of Crucible: a word corrected counts against its bank, and a word that SECDED cannot correct is rebuilt. -/
def State.scrubRow (s : State) (stripe row pos : Nat) (e : EccState) : State :=
  let slot := 256 * row + stripe
  if s.slotUsed slot then s
  else match e with
    | .corrected => (s.inc ANVL.SCRUB_CORR).wordCorrected (bankOf slot pos)
    | .uncorrectable => (s.inc ANVL.SCRUB_CORR).wordRebuilt (bankOf slot pos)
    | .clean => s

/-- Device address of a QDR word: the counter store, then the flow store. -/
def qdrAddr (w : Nat) : Nat := if w < 2 ^ 24 then counterBase + 8 * w else flowBase + 8 * (w - 2 ^ 24)

/-- One ASE entry check of R179. -/
def State.scrubAse (s : State) (b i : Nat) (parity : Bool) (good : Nat) (e : EccState) : State :=
  let seen := if parity then .parity else (match e with
    | .corrected => LookErr.corrected | .uncorrectable => .bad | .clean => .clean)
  let s := match e with
    | .corrected => s.inc ANVL.SCRUB_CORR
    | .uncorrectable => s.inc ANVL.SCRUB_UNCORR
    | .clean => s
  s.planishAse b i seen (fun q => bit good q)

/-- Operations that a check of a Lookup Fabric word of bank `b` takes: the read, and the rewrite of a corrected word. -/
def State.scrubBank (s : State) (b a n : Nat) (e : EccState) : State :=
  (s.bankWork b (if s.eccOf a n e = .corrected then 2 else 1)).scrubWord a n e

/-- Planish visits a word. -/
def State.scrub (s : State) (w : Scrub) (e : EccState) : State :=
  match w with
  | .em k => s.scrubBank (emBank k.toNat) (emBase + 16 * k.toNat) 16 e
  | .filigree k => s.scrubBank (nodeBank (filBase + 64 * k.toNat)) (filBase + 64 * k.toNat) 64 e
  | .result k => s.scrubWord (resultBase + 64 * k.toNat) 64 e
  | .row st r p => s.scrubRow st.toNat r.toNat p.val e
  | .qdr k => s.scrubWord (qdrAddr k.toNat) 8 e
  | .ase b i par good => s.scrubAse b.val i.toNat par good.toNat e

/-- The pass that a word belongs to ends: its duration is shown, and an overrun is a coverage miss (R380). -/
def State.scrubPass (s : State) (w : Scrub) : State :=
  match w with
  | .ase _ _ _ _ =>
    let (t, s) := s.passEnd passAse
    (s.set ANVL.ASE_PASS_US (satTo 262143 (t / ticksPerUs))).when (s.get CORE.CUR_OP != 0 && decide (250 * ticksPerMs < t))
      (fun s => s.coverMiss actPlanish)
  | _ =>
    let (t, s) := s.passEnd actPlanish
    (s.set ANVL.PLANISH_MS (satTo 65535 (t / ticksPerMs))).when (s.get CORE.CUR_OP != 0 && decide (10000 * ticksPerMs < t))
      (fun s => s.coverMiss actPlanish)

/-- PLANISH_SCRUB_STEP: Planish visits a word; `e`: what its check bits show; `last`: the word ends its pass. -/
def execPlanishScrubStep (f : Fetch) (w : Scrub) (e : EccState) (last : Bool) (s : State) : Result :=
  .next (s.anvilStep actPlanish f (fun s => (s.scrub w e).when last (fun s => s.scrubPass w)))

end Sys2Proof.Machine
end

