-- ==== Sys2Proof/Machine/Checks.lean ====
section
/-!
DEFINITION. Step 17 of R61, first part: how a section is checked, and the checks of PORT_MAP (R83), PARSE_GRAPH (R116),
FILIGREE_ALLOC and FILIGREE_TREES (R130). A check answers IMG_FAIL_DETAIL of the first failure: the section's header fields and
LENGTH first, then its items in payload order, the lowest code of an item, a relation of two items at the later one (log 25).
-/
namespace Sys2Proof.Machine

/-- Section payloads by TYPE: the image under verification, or for a rule-set update the running image's as well. -/
abbrev Sections := Tab (List Byte)

/-- The payload of a section, empty if the image does not hold it. -/
def secOf (c : Sections) (t : Nat) : List Byte := tabGet [] c t

/-- The code of the first condition that holds. -/
def firstCode : List (Bool × Nat) → Option Nat
  | [] => none
  | (b, c) :: t => if b then some c else firstCode t

/-- The first failure among items 0 to n − 1. -/
def firstItem (n : Nat) (f : Nat → Option Nat) : Option Nat := (List.range n).findSome? f

/-- The first failure of a list of checks made in order. -/
def firstOf : List (Option Nat) → Option Nat
  | [] => none
  | some c :: _ => some c
  | none :: t => firstOf t

/-- A number lies outside lo to hi. -/
def outside (lo hi v : Nat) : Bool := decide (v < lo) || decide (hi < v)

/-! ### PORT_MAP (R78, R81, R83) -/

/-- Lanes, lane class, auto-negotiation and link training of a PHY type. -/
def phyRow (code : Nat) : Option (Nat × Nat × Bool × Bool) :=
  let kind := code % 16
  let row := fun (lanes speed : Nat) =>
    if kind = 1 || kind = 2 then some (lanes, speed, true, true)
    else if kind = 3 then some (lanes, speed, false, true)
    else if kind = 4 then some (lanes, speed, false, false) else none
  match code / 16 with
  | 0 => row 1 0
  | 1 => row 2 0
  | 2 => row 4 0
  | 3 => row 8 0
  | 4 => row 1 1
  | _ => none

/-- LANES is a legal value and lane `n` is a multiple of it. -/
def lanesOk (n lanes : Nat) : Bool := [1, 2, 4, 8].contains lanes && n % lanes == 0

/-- The descriptor of lane `n`. -/
def mapDesc (p : List Byte) (n : Nat) : List Byte := slice p (8 + 16 * n) 16

/-- A port that starts below lane `n` covers it. -/
def laneCovered (p : List Byte) (n : Nat) : Bool :=
  (List.range 7).any (fun k =>
    let q := n - 1 - k
    let lanes := byteAt (mapDesc p q) 0
    decide (k + 1 ≤ n) && lanesOk q lanes && decide (n < q + lanes))

/-- The code of the descriptor of lane `n` of a map with `tables` DSCP tables. -/
def checkDesc (p : List Byte) (tables n : Nat) : Option Nat :=
  let d := mapDesc p n
  let lanes := byteAt d 0
  let speed := byteAt d 1
  let flags := byteAt d 3
  let zero := zeroBytes d 0 16
  if lanes = 0 then (if zero then none else some 0x0403)
  else
    let phy := phyRow (byteAt d 2)
    let phyBad := match phy with
      | some r => r.1 != lanes || r.2.1 != speed
      | none => true
    let offers := match phy with
      | some r => (!bit flags 1 || r.2.2.1) && (!bit flags 2 || r.2.2.2)
      | none => true
    let sel := byteAt d 6
    let prioBad := decide (1 < byteAt d 4) || decide (7 < byteAt d 5) || byteAt d 11 != 0 ||
      (if byteAt d 4 = 1 then decide (tables ≤ sel) else sel != 0)
    firstCode [
      (!lanesOk n lanes, 0x0402),
      (laneCovered p n && !zero, 0x0403),
      (decide (1 < speed) || (speed == 1 && lanes != 1), 0x0404),
      (phyBad, 0x0405),
      (!offers, 0x0406),
      (prioBad, 0x0407),
      (outside 64 9728 (le d 12 2) || bits flags 3 2 == 3, 0x0408),
      (decide (32 ≤ flags) || byteAt d 7 != 0 || le d 14 2 != 0, 0x0409)]

/-- PORT_MAP (R83). -/
def checkPortMap (p : List Byte) : Option Nat :=
  let tables := le p 4 4
  if le p 0 4 != 1 || decide (64 < tables) || p.length != 0x4008 + 64 * tables then some 0x0401
  else firstOf [
    firstItem 1024 (fun n => (checkDesc p tables n).map (fun c => c + 0x10000 * n)),
    firstItem tables (fun t =>
      if (slice p (0x4008 + 64 * t) 64).any (fun b => decide (7 < b.toNat)) then some (0x040A + 0x10000 * t) else none)]

/-- Lane `p` of a map is the first lane of a port. -/
def mapPort (map : List Byte) (p : Nat) : Bool := decide (p < 1024) && byteAt (mapDesc map p) 0 != 0

/-! ### PARSE_GRAPH (R113 to R116) -/

/-- VALID of a state entry. -/
def graphValid (st : List Byte) : Bool := bit (byteAt st 0) 0

/-- The next-state codes that a state names. An unused transition names none. -/
def graphNexts (st : List Byte) : List Nat :=
  ((List.range 8).map (fun t => le st (0x14 + 12 * t + 8) 2)).filter (fun c => c != 0xFFFF) ++ [le st 0x0E 2]

/-- The extraction commands in use: LEN and DST_OFF. -/
def graphExtracts (st : List Byte) : List (Nat × Nat) :=
  ((List.range 8).map (fun x => (byteAt st (0x74 + 4 * x + 1), byteAt st (0x74 + 4 * x + 2)))).filter (fun x => x.1 != 0)

/-- The code of state `n` of a graph. -/
def checkState (states : List (List Byte)) (start n : Nat) : Option Nat :=
  let st := states.getD n []
  let valid := fun k => graphValid (states.getD k [])
  if !graphValid st then
    let named := (List.range n).any (fun k => valid k && (graphNexts (states.getD k [])).contains n)
    firstCode [(n == start, 0x0503), (named, 0x0504), (!zeroBytes st 0 160, 0x0508)]
  else
    let ctl := le st 0 2
    let nextBad := (graphNexts st).any (fun c => decide (0x102 < c) || (decide (c < n) && !valid c))
    let ext := graphExtracts st
    let extBad := ext.any (fun x => decide (64 < x.1) || decide (112 < x.2 + x.1)) ||
      decide (64 < ext.foldl (fun a x => a + x.1) 0)
    let check := bits ctl 4 3
    let checkBad := decide (3 < check) || decide (4 < bits ctl 1 3) || (check == 3 && bits ctl 7 3 == 0)
    let rangeBad := decide (512 < le st 2 2) || decide (62 < byteAt st 4) || decide (62 < byteAt st 8) || decide (252 < byteAt st 0x0C)
    let rsv := bits ctl 14 2 != 0 || bit (byteAt st 5) 7 || byteAt st 9 != 0 || byteAt st 0x0D != 0 || !zeroBytes st 0x94 12 ||
      (List.range 8).any (fun t => le st (0x14 + 12 * t + 10) 2 != 0 || byteAt st (0x74 + 4 * t + 3) != 0)
    firstCode [(nextBad, 0x0504), (extBad, 0x0505), (checkBad, 0x0507), (rangeBad || rsv, 0x0508)]

/-- The largest queue identifier in use (R7). -/
def lastQueue : Nat := 0x4044F

/-- The code of a graph header. -/
def checkGraphHead (h : List Byte) : Option Nat :=
  let caseBad := (List.range 8).any (fun c => decide (3 < byteAt h (4 + c))) || decide (lastQueue < le h 0x0C 4) ||
    (List.range 7).any (fun r => decide (63 < byteAt h (0x10 + r))) || outside 64 256 (le h 2 2) ||
    (List.range 7).any (fun i => outside 1 65535 (le h (0x18 + 8 * i + 4) 4))
  firstCode [(caseBad, 0x0506), (decide (16 ≤ byteAt h 1) || byteAt h 0x17 != 0 || !zeroBytes h 0x50 48, 0x0508)]

/-- A graph: its header, then its states. -/
def checkGraph (g : List Byte) (k : Nat) : Option Nat :=
  let states := (List.range 256).map (fun n => slice g (128 + 160 * n) 160)
  firstOf [
    (checkGraphHead g).map (fun c => c + 0x1000000 * k),
    firstItem 256 (fun n => (checkState states (byteAt g 0) n).map (fun c => c + 0x10000 * n + 0x1000000 * k))]

/-- PARSE_GRAPH (R116). -/
def checkParse (p : List Byte) : Option Nat :=
  let n := le p 4 4
  if le p 0 4 != 1 || outside 1 64 n || p.length != 0x48 + 41088 * n then some 0x0501
  else firstOf [
    firstItem 64 (fun i => if n ≤ byteAt p (8 + i) then some 0x0502 else none),
    firstItem n (fun k => checkGraph (slice p (0x48 + 41088 * k) 41088) k)]

/-! ### FILIGREE_ALLOC (R124, R125, R130) -/

/-- SWAP_ENABLE of a STAGE_LAYOUT payload. -/
def layoutSwap (c : Sections) : Bool := bit (byteAt (secOf c secStages) 4) 0

/-- Size of an epoch area of a resource of `n` items. -/
def areaOf (c : Sections) (n : Nat) : Nat := if layoutSwap c then n / 2 else n

/-- SET_COUNT and a field of set `i`. -/
def setCount (c : Sections) : Nat := le (secOf c secFilAlloc) 4 4
def setField (c : Sections) (i k n : Nat) : Nat := le (secOf c secFilAlloc) (8 + 32 * i + k) n

/-- Two ranges of base and length share an item. -/
def rangesMeet (a n b m : Nat) : Bool := decide (a < b + m) && decide (b < a + n) && n != 0 && m != 0

/-- FILIGREE_ALLOC (R130). -/
def checkFilAlloc (c : Sections) : Option Nat :=
  let p := secOf c secFilAlloc
  let n := setCount c
  if le p 0 4 != 1 || outside 1 64 n || p.length != 8 + 32 * n then some 0x0581
  else firstItem n (fun i =>
    let base := setField c i 0 4
    let cnt := setField c i 4 4
    let overlap := (List.range i).any (fun j => rangesMeet (setField c j 0 4) (setField c j 4 4) base cnt)
    (firstCode [
      (overlap || decide (areaOf c 524288 < base + cnt), 0x0582),
      (outside 1 320 (setField c i 8 2) || outside 1 262144 (setField c i 0x0C 4), 0x0583),
      (setField c i 0x0A 2 != 0 || !zeroBytes p (8 + 32 * i + 0x10) 16, 0x0588)]).map (fun x => x + 0x10000 * i))

/-! ### FILIGREE_TREES (R126 to R130) -/

/-- A node record of an array; one that the array does not hold is EMPTY. -/
def nodeAt (nodes : List (List Byte)) (n : Nat) : List Byte := nodes.getD n []

def recType (x : List Byte) : Nat := byteAt x 0 % 4

/-- The second half of a wide rule: it is not a node of its own. -/
def secondHalves (wide : Bool) (nodes : List (List Byte)) : List Nat :=
  if wide then
    (nodes.foldl (fun (a : Nat × Bool × List Nat) x =>
      if a.2.1 then (a.1 + 1, false, a.1 :: a.2.2) else (a.1 + 1, recType x == 3, a.2.2)) (0, false, [])).2.2
  else []

/-- The nodes that a path node names, and whether it names rules. -/
def nodeRefs (x : List Byte) : List Nat × Bool :=
  if recType x = 1 then ((List.range (2 ^ min 8 (byteAt x 1))).map (fun k => le x 4 4 % 2 ^ 19 + k), false)
  else if recType x = 2 then ((List.range (min 8 (byteAt x 1))).map (fun k => le x (4 + 4 * k) 4 % 2 ^ 19), true)
  else ([], false)

/-- A reference to node `m` is bad: out of the set's range, or of the wrong kind. -/
def refBad (nodes : List (List Byte)) (halves : List Nat) (count : Nat) (rule : Bool) (m : Nat) : Bool :=
  decide (count ≤ m) || (if rule then recType (nodeAt nodes m) != 3 || halves.contains m
    else recType (nodeAt nodes m) == 3 || halves.contains m)

/-- VALUE and MASK of a rule at node `n`, as numbers. -/
def recKey (nodes : List (List Byte)) (wide : Bool) (n : Nat) : Nat × Nat :=
  let x := nodeAt nodes n
  if wide then (le x 16 40, le (nodeAt nodes (n + 1)) 0 40) else (le x 16 20, le x 36 20)

/-- What of a node is reserved. -/
def nodeRsv (nodes : List (List Byte)) (wide : Bool) (n : Nat) : Bool :=
  let x := nodeAt nodes n
  match recType x with
  | 0 => !zeroBytes x 0 64
  | 1 => byteAt x 0 != 1 || bits (le x 4 4) 19 13 != 0 || !zeroBytes x 8 56
  | 2 => byteAt x 0 != 2 || le x 2 2 != 0 || (List.range 8).any (fun k => bits (le x (4 + 4 * k) 4) 19 13 != 0) || !zeroBytes x 36 28
  | _ => decide (8 ≤ byteAt x 0) || byteAt x 1 != 0 || bits (le x 4 4) 18 14 != 0 || !zeroBytes x 12 4 || !zeroBytes x 56 8 ||
      (wide && !zeroBytes (nodeAt nodes (n + 1)) 40 24)

/-- The references of nodes up to `n` that are bad and lie, with their source, at `n` at the latest: judged at the later. -/
def refsBadAt (nodes : List (List Byte)) (halves : List Nat) (count n : Nat) : Bool :=
  let one := fun (i : Nat) =>
    let r := nodeRefs (nodeAt nodes i)
    !halves.contains i && r.1.any (fun m =>
      refBad nodes halves count r.2 m && (if m < nodes.length then max i m == n else i == n))
  (List.range (n + 1)).any one

/-- A leaf whose rules' PRIORITY increases along its order, judged at the latest of the leaf and its rules. -/
def orderBadAt (nodes : List (List Byte)) (halves : List Nat) (n : Nat) : Bool :=
  (List.range (n + 1)).any (fun i =>
    let x := nodeAt nodes i
    let ptrs := (nodeRefs x).1
    let prio := ptrs.map (fun m => le (nodeAt nodes m) 2 2)
    !halves.contains i && recType x == 2 && ptrs.foldl max i == n &&
      (List.range (prio.length - 1)).any (fun k => decide (prio.getD k 0 < prio.getD (k + 1) 0)))

/-- The code of node `n` of a set with NODE_COUNT `count` and KEY_BITS `kb`. -/
def checkNode (nodes : List (List Byte)) (halves : List Nat) (count kb n : Nat) : Option Nat :=
  if halves.contains n then none
  else
    let x := nodeAt nodes n
    let wide := decide (160 < kb)
    let isRule := recType x == 3
    let inner := recType x == 1 && (outside 1 8 (byteAt x 1) || decide (kb < le x 2 2 + byteAt x 1))
    let cut := isRule && wide && decide (nodes.length ≤ n + 1)
    let key := recKey nodes wide n
    let leafBad := recType x == 2 && outside 1 8 (byteAt x 1)
    let ruleBad := isRule && (bit (byteAt x 0) 2 != wide || key.1 &&& key.2 != key.1)
    firstCode [
      (inner || cut || refsBadAt nodes halves count n, 0x0585),
      (leafBad || ruleBad || orderBadAt nodes halves n, 0x0587),
      (nodeRsv nodes wide n, 0x0588)]

/-- The nodes that one more step of a path reaches. -/
def pathStep (nodes : List (List Byte)) (at_ : List Nat) : List Nat :=
  (at_.flatMap (fun n => if recType (nodeAt nodes n) = 1 then (nodeRefs (nodeAt nodes n)).1 else [])).eraseDups

/-- A path from the root has more than 16 nodes: some 16th node is INTERNAL. -/
def pathTooLong (nodes : List (List Byte)) (root : Nat) : Bool := !(iterate (pathStep nodes) 16 [root]).isEmpty

/-- FORMAT, SET_COUNT and descriptors of FILIGREE_TREES. -/
def treeDesc (p : List Byte) (i k : Nat) : Nat := le p (8 + 16 * i + k) 4

/-- Where the node array of set `i` starts. -/
def treeStart (p : List Byte) (i : Nat) : Nat :=
  let n := le p 4 4
  (List.range i).foldl (fun a j => a + 64 * treeDesc p j 4) (64 * ceilDiv (8 + 16 * n) 64)

/-- The nodes of set `i`. -/
def treeNodes (p : List Byte) (i : Nat) : List (List Byte) :=
  let at_ := treeStart p i
  (List.range (treeDesc p i 4)).map (fun k => slice p (at_ + 64 * k) 64)

/-- The rule records of an array. -/
def ruleCount (nodes : List (List Byte)) (halves : List Nat) : Nat :=
  ((List.range nodes.length).filter (fun n => recType (nodeAt nodes n) == 3 && !halves.contains n)).length

/-- The node array of set `i`: its nodes in order, then what relates them all (log 25). -/
def checkTree (c : Sections) (i : Nat) : Option Nat :=
  let p := secOf c secFilTrees
  let nodes := treeNodes p i
  let kb := setField c i 8 2
  let halves := secondHalves (decide (160 < kb)) nodes
  let root := treeDesc p i 0
  firstOf [
    firstItem nodes.length (fun n => checkNode nodes halves (setField c i 4 4) kb n),
    firstCode [
      (treeDesc p i 8 != ruleCount nodes halves, 0x0584),
      (refBad nodes halves (setField c i 4 4) false root, 0x0585),
      (pathTooLong nodes root, 0x0586)]]

/-- FILIGREE_TREES (R130), against the FILIGREE_ALLOC of the image or, for an update, of the running image (R209). -/
def checkFilTrees (c : Sections) : Option Nat :=
  let p := secOf c secFilTrees
  let n := le p 4 4
  if le p 0 4 != 1 || outside 1 64 n then some 0x0581
  else if p.length != treeStart p n then some 0x0581
  else if n != setCount c then some 0x0584
  else firstOf [
    firstItem n (fun i =>
      if decide (setField c i 4 4 < treeDesc p i 4) || decide (setField c i 0x0C 4 < treeDesc p i 8) then
        some (0x0584 + 0x10000 * i) else none),
    firstItem n (fun i => (checkTree c i).map (fun x => x + 0x10000 * i))]

end Sys2Proof.Machine
end

