-- ==== Sys2Proof/Machine/ChecksLookup.lean ====
section
/-!
DEFINITION. Step 17 of R61, second part: the checks of EM_CONFIG and TABLE_INIT (R138, R141, R181, R211), ASE_PARTITION (R181),
STAGE_LAYOUT, ACTION_PROGRAM and ACTION_DATA (R211).
-/
namespace Sys2Proof.Machine
open Reg

/-! ### EM_CONFIG (R137, R138) -/

/-- A field of table `t`. -/
def emSec (c : Sections) (t k n : Nat) : Nat := le (secOf c secEm) (0x10 + 64 * t + k) n

/-- TABLE_COUNT, PART_COUNT: 0 where the section is absent. -/
def emCount (c : Sections) : Nat := le (secOf c secEm) 4 4

/-- The code of table `t`. -/
def checkEmTable (c : Sections) (t : Nat) : Option Nat :=
  let f := emSec c t
  let p := secOf c secEm
  let mode := f 5 1
  let meets := (List.range t).any (fun u => rangesMeet (emSec c u 0 2) (emSec c u 2 2) (f 0 2) (f 2 2))
  firstCode [
    (f 2 2 == 0 || decide (8192 < f 0 2 + f 2 2) || meets, 0x0602),
    (outside 1 (if bit mode 0 then 208 else 80) (f 4 1), 0x0603),
    (decide (1 < f 6 1) || outside 1 4 (f 7 1) || outside 1 3600 (f 0x18 4), 0x0604),
    ((bit mode 2 && bit mode 0) || decide (7 < f 0x1C 1) || outside 1 65535 (f 0x24 4), 0x0605),
    (decide (16 ≤ mode) || decide (16 ≤ f 0x1D 1) || f 0x1E 2 != 0 || !zeroBytes p (0x10 + 64 * t + 0x2C) 20, 0x0606)]

/-- EM_CONFIG (R138). -/
def checkEm (c : Sections) : Option Nat :=
  let p := secOf c secEm
  let n := emCount c
  if le p 0 4 != 1 || outside 1 16 n || p.length != 0x10 + 64 * n then some 0x0601
  else if !zeroBytes p 8 8 then some 0x0606
  else firstItem n (fun t => (checkEmTable c t).map (fun x => x + 0x10000 * t))

/-! ### ASE_PARTITION (R166, R181) -/

def aseSec (c : Sections) (p k n : Nat) : Nat := le (secOf c secAse) (0x10 + 32 * p + k) n
def partCount (c : Sections) : Nat := le (secOf c secAse) 4 4
def selCount (c : Sections) : Nat := le (secOf c secAse) 8 4

/-- WIDE of a partition. -/
def partWide (c : Sections) (p : Nat) : Bool := bit (aseSec c p 4 1) 0

/-- The selector entries of a partition: the first, and how many. -/
def partSel (c : Sections) (p : Nat) : Nat × Nat :=
  (aseSec c p 0x0A 2, if aseSec c p 7 1 = 0 then 0 else 2 ^ min 8 (aseSec c p 7 1))

/-- The code of partition `p`. -/
def checkPart (c : Sections) (p : Nat) : Option Nat :=
  let f := aseSec c p
  let wide := partWide c p
  let banks := fun q => aseSec c q 2 2 * aseSec c q 6 1
  let meets := (List.range p).any (fun q => rangesMeet (aseSec c q 0 2) (banks q) (f 0 2) (banks p))
  let gapBad := if bit (f 4 1) 1 then outside 2 64 (f 5 1) else f 5 1 != 0
  let n := f 7 1
  let selMeets := (List.range p).any (fun q => rangesMeet (partSel c q).1 (partSel c q).2 (partSel c p).1 (partSel c p).2)
  firstCode [
    (outside 1 1024 (f 2 2) || decide (1024 < f 0 2 + banks p) || meets || (wide && (f 0 2 % 2 == 1 || f 2 2 % 2 == 1)), 0x0702),
    (!([1, 2, 4, 8, 16, 32, 64, 128].contains (f 6 1)) || gapBad, 0x0703),
    (decide (8 < n) || decide ((if wide then 320 else 160) < f 8 2 + n) || (n == 0 && decide (4 < f 2 2)) ||
      (n != 0 && decide (selCount c < (partSel c p).1 + (partSel c p).2)) || selMeets, 0x0704),
    (decide (4 ≤ f 4 1) || !zeroBytes (secOf c secAse) (0x10 + 32 * p + 0x10) 16, 0x0708)]

/-- The code of selector entry `i`, in the partition that it belongs to (0 for an entry of none). -/
def checkSel (c : Sections) (i : Nat) : Option Nat :=
  let sel := slice (secOf c secAse) (0x10 + 32 * partCount c + 16 * i) 16
  let owner := (List.range (partCount c)).find? (fun p => decide ((partSel c p).1 ≤ i) && decide (i < (partSel c p).1 + (partSel c p).2))
  let n := le sel 0 2
  let bankBad := match owner with
    | some p =>
      let wide := partWide c p
      (wide && decide (2 < n)) || (List.range (min 4 n)).any (fun k =>
        let b := le sel (8 + 2 * k) 2
        decide (aseSec c p 2 2 ≤ b) || (wide && b % 2 == 1))
    | none => false
  (firstCode [(outside 1 4 n || bankBad, 0x0705), (!zeroBytes sel 2 6, 0x0708)]).map (fun x => x + 0x10000 * owner.getD 0)

/-- ASE_PARTITION (R181). -/
def checkAse (c : Sections) : Option Nat :=
  let p := secOf c secAse
  let n := partCount c
  if le p 0 4 != 1 || outside 1 64 n || decide (16384 < selCount c) || p.length != 0x10 + 32 * n + 16 * selCount c then some 0x0701
  else if le p 0x0C 4 != 0 then some 0x0708
  else firstOf [
    firstItem n (fun k => (checkPart c k).map (fun x => x + 0x10000 * k)),
    firstItem (selCount c) (fun i => checkSel c i)]

/-! ### STAGE_LAYOUT (R208, R211) -/

def profileCount (c : Sections) : Nat := le (secOf c secStages) 8 4

/-- The descriptor of a stage of a profile. -/
def stageDesc (c : Sections) (profile stage : Nat) : List Byte := slice (secOf c secStages) (0x50 + 5184 * profile + 160 * stage) 160

/-- Entry size of a direct table. -/
def directBytes (fmt : Nat) : Nat := if fmt = 1 then 4 else if fmt = 2 then 8 else 16

/-- Words of an epoch area of an action store. -/
def areaWords (c : Sections) : Nat := areaOf c 1024

/-- Lookup `k` of a stage descriptor. -/
def lookDesc (st : List Byte) (k : Nat) : List Byte := slice st (32 * k) 32

/-- TYPE names a target that the image defines, and COUNT_SRC is valid for it. -/
def targetOk (c : Sections) (l : List Byte) : Bool :=
  let target := byteAt l 1
  let cnt := byteAt l 0x15 % 4
  cnt != 3 && (match byteAt l 0 with
    | 1 => decide (target < emCount c) && cnt != 1
    | 2 => decide (target < partCount c)
    | 3 => decide (target < setCount c)
    | 4 => target == 0
    | _ => false)

/-- The most bytes that a lookup's key may have (R189). -/
def keyMax (c : Sections) (l : List Byte) : Nat :=
  match byteAt l 0 with
  | 1 => if bit (emSec c (byteAt l 1) 5 1) 0 then 26 else 10
  | 2 => if partWide c (byteAt l 1) then 40 else 20
  | 3 => 40
  | _ => 2

/-- The key segments in use: SRC and LEN. -/
def keySegs (l : List Byte) : List (Nat × Nat) :=
  ((List.range 8).map (fun k => (bits (le l (4 + 2 * k) 2) 0 7, bits (le l (4 + 2 * k) 2) 7 6))).filter (fun x => x.2 != 0)

/-- Key segments beyond the record or beyond the maximum. -/
def segsBad (c : Sections) (l : List Byte) : Bool :=
  let segs := keySegs l
  segs.any (fun x => decide (128 < x.1 + x.2) || decide (40 < x.2)) || decide (keyMax c l < segs.foldl (fun a x => a + x.2) 0)

/-- A lookup's result does not fit below byte 112, or it is direct in a stage without a direct table. -/
def dstBad (fmt : Nat) (l : List Byte) : Bool :=
  if byteAt l 0 = 4 then outside 1 3 fmt || decide (112 < byteAt l 0x14 + directBytes fmt) else decide (112 < byteAt l 0x14 + 12)

/-- Reserved bits of a lookup descriptor. -/
def lookRsv (l : List Byte) : Bool :=
  bits (le l 2 2) 10 4 != 0 || (List.range 8).any (fun k => decide (2 ^ 14 ≤ le l (4 + 2 * k) 2)) || bits (byteAt l 0x15) 2 5 != 0 ||
    le l 0x16 2 != 0 || decide (2 ^ 23 ≤ le l 0x18 4) || decide (2 ^ 23 ≤ le l 0x1C 4)

/-- The code of a stage descriptor. -/
def checkStage (c : Sections) (st : List Byte) : Option Nat :=
  let all := (List.range 4).map (fun k => lookDesc st k)
  let used := all.filter (fun l => byteAt l 0 != 0)
  let fmt := byteAt st 0x83
  firstCode [
    (used.any (fun l => !targetOk c l), 0x0802),
    (used.any (fun l => segsBad c l), 0x0803),
    (used.any (fun l => dstBad fmt l) || decide (3 < fmt), 0x0804),
    (decide (areaWords c ≤ le st 0x84 2) || decide (9 < byteAt st 0x82) || decide (areaOf c 524288 ≤ le st 0x8C 4 % 2 ^ 19), 0x0805),
    (all.any lookRsv || decide (1024 ≤ le st 0x80 2) || le st 0x86 2 != 0 || decide (2 ^ 23 ≤ le st 0x88 4) ||
      decide (2 ^ 19 ≤ le st 0x8C 4) || !zeroBytes st 0x90 16, 0x0809)]

/-- The code of the EG_EXTRACT entries and what follows them. -/
def checkExtract (x : List Byte) : Option Nat :=
  let ent := (List.range 8).map (fun k => slice x (4 * k) 4)
  let used := ent.filter (fun e => bit (byteAt e 0) 7)
  firstCode [
    (used.any (fun e => decide (511 < le e 1 2) || outside 1 64 (byteAt e 3)) ||
      decide (64 < used.foldl (fun a e => a + byteAt e 3) 0), 0x0805),
    (ent.any (fun e => bits (byteAt e 0) 2 5 != 0) || !zeroBytes x 32 32, 0x0809)]

/-- STAGE_LAYOUT (R211). -/
def checkStages (c : Sections) : Option Nat :=
  let p := secOf c secStages
  let n := profileCount c
  if le p 0 4 != 1 || outside 1 64 n || p.length != 0x50 + 5184 * n then some 0x0801
  else firstOf [
    firstCode [(decide (2 ≤ le p 4 4) || le p 0x0C 4 != 0, 0x0809)],
    firstItem 64 (fun i => if n ≤ byteAt p (0x10 + i) then some 0x0801 else none),
    firstItem n (fun k => firstOf [
      firstItem 32 (fun s => (checkStage c (stageDesc c k s)).map (fun x => x + 0x10000 * s + 0x200000 * k)),
      (checkExtract (slice p (0x50 + 5184 * k + 0x1400) 64)).map (fun x => x + 0x200000 * k)])]

/-! ### ACTION_PROGRAM and ACTION_DATA (R194 to R198, R204, R209, R211) -/

/-- Opcodes that write the field F, read F, or read the field S. -/
def writesF (op : Nat) : Bool := outside 1 0x0A op == false || op == 0x16
def fieldOp (op : Nat) : Bool := writesF op || (outside 0x0B 0x0E op == false) || op == 0x12 || op == 0x13
def readsS (op : Nat) : Bool := [0x02, 0x04, 0x05, 0x10, 0x11].contains op

/-- A verdict write that R186, R187 and R198 refuse. -/
def verdictBad (egress : Bool) (op dst imm : Nat) : Bool :=
  decide (8 < dst) || (op == 0x0F && dst == 7 && decide (120 < imm % 128)) ||
    (egress && ((dst != 0 && dst != 8) || (op == 0x0F && dst == 0 && imm % 4 == 2)))

/-- LEARN names a lookup of a stage that is not EM, or a table without LEARN_EN. -/
def learnBad (c : Sections) (st : List Byte) (imm : Nat) : Bool :=
  let l := lookDesc st (imm % 4)
  byteAt l 0 != 1 || !bit (emSec c (byteAt l 1) 5 1) 2

/-- An EDIT word that never runs (R204). -/
def editBad (egress : Bool) (imm : Nat) : Bool :=
  !egress || imm % 4 == 3 || outside 1 (if imm % 4 = 2 then 127 else 64) (bits imm 13 7) || decide (2 ^ 20 ≤ imm)

/-- The code of an action word of a stage. -/
def checkWord (c : Sections) (st : List Byte) (egress : Bool) (w : Nat) : Option Nat :=
  let op := awOp w
  let imm := awImm w
  let dst := awDst w
  let wd := awWidth w
  let be_ := awBe w
  let verdict := op == 0x0F || op == 0x10
  firstCode [
    (decide (0x16 < op) || (op == 0x16 && wd != 16) || (op == 0x12 && wd != 32) ||
      (be_ && fieldOp op && (dst % 8 != 0 || wd % 8 != 0)) || (be_ && readsS op && (bits imm 0 10 % 8 != 0 || wd % 8 != 0)) ||
      (writesF op && decide (896 < dst + wd)) || (op == 0x11 && decide (896 ≤ dst)) || (verdict && verdictBad egress op dst imm), 0x0806),
    ((op == 0x12 && learnBad c st imm) || (op == 0x14 && editBad egress imm) ||
      (op == 0x11 && (dst % 8 != 0 || decide (112 < dst / 8 + bits imm 10 6 + 1))), 0x0807),
    (bits w 32 9 != 0 || (readsS op && decide (2 ^ (if op = 0x11 then 16 else 10) ≤ imm)), 0x0809)]

/-- The first failing word of a stage's program. -/
def checkWords (c : Sections) (profile stage : Nat) : List Byte → Nat → Option Nat
  | _, 0 => none
  | l, n + 1 =>
    match checkWord c (stageDesc c profile stage) (decide (20 ≤ stage)) (le l 0 8) with
    | some x => some (x + 0x10000 * stage + 0x200000 * profile)
    | none => checkWords c profile stage (l.drop 8) n

/-- ACTION_PROGRAM (R209, R211), against the STAGE_LAYOUT of the image or, for an update, of the running image. -/
def checkProgram (c : Sections) : Option Nat :=
  let p := secOf c secProgram
  let n := profileCount c
  let w := areaWords c
  if le p 0 4 != 1 || le p 4 4 != n || p.length != 8 + 256 * w * n then some 0x0801
  else firstItem (32 * n) (fun k => checkWords c (k / 32) (k % 32) (slice p (8 + 8 * w * k) (8 * w)) w)

/-- ACTION_DATA (R209, R211). -/
def checkActData (c : Sections) : Option Nat :=
  let p := secOf c secActData
  let n := le p 4 4
  firstCode [
    (le p 0 4 != 1 || p.length != 8 + 64 * n, 0x0801),
    (decide (areaOf c 524288 < n), 0x0808)]

/-! ### TABLE_INIT (R141, R138, R180, R181, R210, R211) -/

/-- A record: its KIND, BODY_LENGTH and body. -/
structure InitRec where
  kind : Nat
  blen : Nat
  body : List Byte
  deriving DecidableEq, Repr

/-- The records of a TABLE_INIT payload, and the index of a record that runs beyond its end or is followed by bytes that belong
to none. -/
def initRecs (l : List Byte) (k : Nat) : Nat → List InitRec × Option Nat
  | 0 => ([], if l.isEmpty then none else some (k - 1))
  | n + 1 =>
    if l.length < 8 || l.length < 8 + le l 4 4 then ([], some k)
    else
      let r : InitRec := { kind := le l 0 4, blen := le l 4 4, body := slice l 8 (le l 4 4) }
      let t := initRecs (l.drop (8 + r.blen)) (k + 1) n
      (r :: t.1, t.2)

/-- Entry `k` of a KIND 1 record, in the form of table `t`. -/
def initEntry (c : Sections) (t : Nat) (b : List Byte) (k : Nat) : EmEntry :=
  let e := slice b (8 + 32 * k) 32
  let n := if bit (emSec c t 5 1) 0 then 26 else 10
  { key := e.take n, result := le e 26 4, flags := bitSet (le e 30 2) 0 }

/-- A scratch module that holds the sections alone: the insertion engine runs in it as it will at the load. -/
def scratchOf (c : Sections) : State := { State.reset with img := { run := c } }

/-- Insert entries `k` onwards of a KIND 1 record: the first that fails, or the module with all of them. -/
def emRecord (c : Sections) (t : Nat) (b : List Byte) (s : State) (k : Nat) : Nat → Nat ⊕ State
  | 0 => .inr s
  | n + 1 =>
    let raw := slice b (8 + 32 * k) 32
    let v := initEntry c t b k
    if bits (le raw 30 2) 5 3 != 0 then .inl 0x0606
    else if le raw 0 26 / 2 ^ emSec c t 4 1 != 0 || !(s.emFind t v.key).isEmpty then .inl 0x0607
    else
      match s.emInsert t v with
      | (.ok _, s) => emRecord c t b s (k + 1) n
      | _ => .inl 0x0607

/-- The code of slot image `k` of a KIND 2 record of a partition. -/
def checkSlot (wide : Bool) (img : List Byte) : Option Nat :=
  let halves := if wide then [img.take 64, img.drop 64] else [img]
  let fl := fun (h : List Byte) => le h 42 2
  let odd := img.drop 64
  firstCode [
    (halves.any (fun h => bit (fl h) 1 != wide || bit (fl h) 2) || (wide && bit (fl img) 0 != bit (fl odd) 0), 0x0707),
    (halves.any (fun h => bits (fl h) 3 5 != 0 || !zeroBytes h 48 16) ||
      (wide && (le odd 40 2 != 0 || le odd 44 4 != 0 || bits (fl odd) 8 8 != 0)), 0x0708)]

/-- A KIND 2 record. -/
def checkAseRec (c : Sections) (k : Nat) (r : InitRec) : Option Nat :=
  let p := le r.body 0 4
  let bank := le r.body 4 4
  let n := le r.body 12 4
  let wide := partWide c p
  let size := if wide then 128 else 64
  let at_ := 0x10000 * (p % 64)
  if partCount c ≤ p then some (0x0706 + at_)
  else if r.blen != 16 + size * n then some (0x0608 + 0x10000 * k)
  else if aseSec c p 2 2 ≤ bank || (wide && bank % 2 == 1) then some (0x0705 + at_)
  else if 2048 < le r.body 8 4 + n then some (0x0706 + at_)
  else firstItem n (fun i => (checkSlot wide (slice r.body (16 + size * i) size)).map (fun x => x + at_))

/-- The pipes that a KIND 3 record names. -/
def recPipes (pipe : Nat) : List Nat := if pipe = 0xFFFFFFFF then List.range 64 else if pipe < 64 then [pipe] else []

/-- DIRECT_FMT of a stage of a pipe, and the pipe's profile. -/
def pipeDirect (c : Sections) (pipe stage : Nat) : Nat × Nat :=
  let k := byteAt (secOf c secStages) (0x10 + pipe)
  (byteAt (stageDesc c k stage) 0x83, k)

/-- A KIND 3 record. -/
def checkDirectRec (c : Sections) (k : Nat) (r : InitRec) : Option Nat :=
  let pipe := le r.body 0 4
  let stage := le r.body 4 4
  let first := le r.body 8 4
  let n := le r.body 12 4
  let at_ := 0x10000 * (stage % 32)
  let fmts := (recPipes pipe).map (fun p => pipeDirect c p stage)
  let sizeBad := decide (stage < 32) && fmts.any (fun x => !outside 1 3 x.1 &&
    (r.blen != 8 * ceilDiv (16 + n * directBytes x.1) 8 || (r.body.drop (16 + n * directBytes x.1)).any (fun b => b != 0)))
  if sizeBad || decide (r.blen < 16) then some (0x0608 + 0x10000 * k)
  else if 32 ≤ stage || fmts.isEmpty then some (0x0808 + at_)
  else (fmts.find? (fun x => outside 1 3 x.1 || decide (16384 / directBytes x.1 < first + n))).map
    (fun x => 0x0808 + at_ + 0x200000 * x.2)

/-- The records from index `k` on, in a scratch module that holds the exact-match entries of those before. -/
def checkInitRecs (c : Sections) (s : State) (k : Nat) : List InitRec → Option Nat
  | [] => none
  | r :: t =>
    if r.kind = 1 then
      let table := le r.body 0 4
      let n := le r.body 4 4
      let at_ := 0x10000 * (table % 16)
      if emCount c ≤ table then some (0x0607 + at_)
      else if r.blen != 8 + 32 * n then some (0x0608 + 0x10000 * k)
      else match emRecord c table r.body s 0 n with
        | .inl x => some (x + at_)
        | .inr s => checkInitRecs c s (k + 1) t
    else
      let here := if r.blen % 8 != 0 && (r.kind = 2 || r.kind = 3) then some (0x0608 + 0x10000 * k)
        else if r.kind = 2 then checkAseRec c k r
        else if r.kind = 3 then checkDirectRec c k r else some 0x0607
      match here with
      | some x => some x
      | none => checkInitRecs c s (k + 1) t

/-- TABLE_INIT. -/
def checkInit (c : Sections) : Option Nat :=
  let p := secOf c secInit
  if le p 0 4 != 1 || p.length < 8 then some 0x0608
  else
    let r := initRecs (p.drop 8) 0 (min (le p 4 4) p.length)
    match r.2 with
    | some k => some (0x0608 + 0x10000 * k)
    | none => checkInitRecs c (scratchOf c) 0 r.1

end Sys2Proof.Machine
end

