-- ==== Sys2Proof/Machine/ChecksQueues.lean ====
section
/-!
DEFINITION. Step 17 of R61, third part: the checks of CRUCIBLE_POOLS (R239), QUEUE_TREE (R270), TIMING (R292), TELEMETRY (R315),
HOST_BINDING (R338) and PHASE_TABLE (R357), and the check of every section in table order.
-/
namespace Sys2Proof.Machine
open Reg

/-! ### CRUCIBLE_POOLS (R238, R239) -/

/-- ALPHA or BETA has a listed value. -/
def alphaOk (v : Nat) : Bool := decide (v ≤ 10) || v == 15

/-- CRUCIBLE_POOLS (R239). -/
def checkPools (c : Sections) : Option Nat :=
  let p := secOf c secPools
  if le p 0 4 != 1 || p.length != 0x3030 then some 0x0901
  else
    let units := fun n => le p (8 + 2 * n) 2
    let map := slice p 0x420 8712
    let mins := map.foldl (fun a b => a + (if b.toNat < 64 then le p (0x20 + 16 * b.toNat) 2 else 0)) 0
    let hr := le p 0x10 4
    let prof := fun (i : Nat) =>
      let q := slice p (0x20 + 16 * i) 16
      firstCode [
        (!alphaOk (byteAt q 0xA) || outside 1 1024 (le q 4 2) || decide (le q 4 2 ≤ le q 6 2), 0x0904),
        (byteAt q 0xB != 0, 0x0907)]
    let qprof := fun (i : Nat) =>
      let q := slice p (0x2630 + 8 * i) 8
      firstCode [(!alphaOk (byteAt q 4), 0x0904), (!zeroBytes q 5 3, 0x0907)]
    firstOf [
      firstCode [(decide (2 ≤ le p 4 4), 0x0907)],
      firstCode [(units 0 + units 1 + units 2 + units 3 != 512 || units 0 == 0 || units 3 == 0, 0x0902)],
      firstCode [(decide (4096 * units 0 < hr) || decide (2097152 < le p 0x14 4 + hr + mins), 0x0903)],
      firstCode [(!zeroBytes p 0x18 8, 0x0907)],
      firstItem 64 (fun i => (prof i).map (fun x => x + 0x10000 * i)),
      firstItem 8712 (fun r => if 63 < byteAt p (0x420 + r) then some (0x0905 + 0x10000 * r) else none),
      firstCode [(!zeroBytes p 0x2628 8, 0x0907)],
      firstItem 64 (fun i => (qprof i).map (fun x => x + 0x10000 * i)),
      firstItem 1024 (fun n =>
        if le p (0x2830 + 2 * n) 2 != 0 && !mapPort (secOf c secPortMap) n then some (0x0906 + 0x10000 * n) else none)]

/-! ### QUEUE_TREE (R244, R251, R256, R269, R270) -/

/-- Entry size and index range of a region; 0 for an unknown one. -/
def treeRegion (r : Nat) : Nat × Nat :=
  match r with
  | 1 => (64, 0x40450)
  | 2 => (32, 17408)
  | 3 => (64, 1089)
  | 4 => (32, 65536)
  | 5 => (256, 65536)
  | _ => (0, 0)

/-- A record: REGION, FIRST, COUNT, whether its reserved bytes are 0, and its entries' bytes. -/
structure TreeRec where
  region : Nat
  first : Nat
  count : Nat
  clean : Bool
  data : List Byte
  deriving DecidableEq, Repr

/-- The records of a QUEUE_TREE payload up to the first of an unknown REGION, and whether they end exactly at its end. After an
unknown REGION nothing can be said of the end. -/
def treeRecs (l : List Byte) : Nat → List TreeRec × Bool
  | 0 => ([], l.isEmpty)
  | n + 1 =>
    if l.length < 16 then ([], false)
    else
      let size := (treeRegion (le l 0 2)).1 * le l 8 4
      let r : TreeRec := { region := le l 0 2, first := le l 4 4, count := le l 8 4, clean := zeroBytes l 2 2 && zeroBytes l 12 4,
                           data := slice l 16 size }
      if (treeRegion r.region).1 = 0 then ([r], true)
      else if l.length < 16 + size then ([], false)
      else
        let t := treeRecs (l.drop (16 + size)) n
        (r :: t.1, t.2)

/-- A signed byte outside −64 to +63. -/
def ovhBad (b : Nat) : Bool := decide (signed b 8 < -64) || decide (63 < signed b 8)

/-- A field of an entry is out of range. -/
def entryRange (region : Nat) (e : List Byte) : Bool :=
  match region with
  | 1 => ovhBad (byteAt e 0x0B) || decide (1023 < le e 2 2) || decide (63 < byteAt e 0)
  | 2 => ovhBad (byteAt e 0x0B) || decide (1023 < le e 2 2)
  | 3 => ovhBad (byteAt e 1) || ovhBad (byteAt e 0x13)
  | _ => false

/-- Reserved bits and bytes, and status bytes, of an entry. -/
def entryRsv (region : Nat) (e : List Byte) : Bool :=
  match region with
  | 1 => decide (16 ≤ byteAt e 1) || decide (2 ^ 22 ≤ le e 0x0C 4) || decide (2 ^ 22 ≤ le e 0x10 4) || !zeroBytes e 0x15 43
  | 2 => decide (8 ≤ byteAt e 0) || decide (2 ≤ byteAt e 1) || !zeroBytes e 0x0C 20
  | 3 => decide (4 ≤ byteAt e 0) || le e 2 2 != 0 || decide (2 ^ 48 ≤ le e 4 8) || !zeroBytes e 0x14 44
  | 4 => decide (16 ≤ byteAt e 0x10) || !zeroBytes e 0x11 3 || decide (2 ^ 23 ≤ le e 0x14 4) || !zeroBytes e 0x18 8
  | _ => decide (4 ≤ byteAt e 0x89) || !zeroBytes e 0x8A 2 || decide (2 ^ 22 ≤ le e 0x8C 4) || !zeroBytes e 0x90 112

/-- An entry belongs to, or names as member, a front-port number that is not a port's first lane. -/
def entryPort (map : List Byte) (region index : Nat) (e : List Byte) : Bool :=
  match region with
  | 1 => decide (index < 0x40000) && !mapPort map (index / 256)
  | 2 => decide (index < 16384) && !mapPort map (index / 16)
  | 5 => (List.range 1024).any (fun n => bit (byteAt e (n / 8)) (n % 8) && !mapPort map n)
  | _ => false

/-- The code of record `k`, after those before it. -/
def checkTreeRec (map : List Byte) (before : List TreeRec) (r : TreeRec) : Option Nat :=
  let lim := (treeRegion r.region).2
  let size := (treeRegion r.region).1
  firstOf [
    firstCode [(size == 0 || decide (lim < r.first + r.count), 0x0A02), (!r.clean, 0x0A06)],
    firstItem r.count (fun i =>
      let e := slice r.data (size * i) size
      let idx := r.first + i
      firstCode [
        (before.any (fun q => q.region == r.region && decide (q.first ≤ idx) && decide (idx < q.first + q.count)), 0x0A03),
        (entryRange r.region e, 0x0A04),
        (entryPort map r.region idx e, 0x0A05),
        (entryRsv r.region e, 0x0A06)])]

/-- QUEUE_TREE (R270). -/
def checkQueueTree (c : Sections) : Option Nat :=
  let p := secOf c secQueues
  let t := treeRecs (p.drop 16) (min (le p 4 4) p.length)
  if le p 0 4 != 1 || p.length < 16 || !t.2 then some 0x0A01
  else if !zeroBytes p 8 8 then some 0x0A06
  else firstItem t.1.length (fun k =>
    (checkTreeRec (secOf c secPortMap) (t.1.take k) (t.1.getD k ⟨0, 0, 0, true, []⟩)).map (fun x => x + 0x10000 * k))

/-! ### TIMING (R291, R292) -/

/-- The gate records: each with its header and its entries. -/
def gateRecs (l : List Byte) : Nat → Option (List (List Byte))
  | 0 => if l.isEmpty then some [] else none
  | n + 1 =>
    let size := 32 + 8 * le l 4 2
    if l.length < 32 || l.length < size then none
    else (gateRecs (l.drop size) n).map (fun t => l.take size :: t)

/-- The code of trigger record `i`. -/
def checkTrig (p : List Byte) (i : Nat) : Option Nat :=
  let r := fun k => slice p (0x10 + 32 * k) 32
  let x := r i
  let fl := byteAt x 1
  firstCode [
    (decide (15 < byteAt x 0) || (List.range i).any (fun j => byteAt (r j) 0 == byteAt x 0) ||
      (bit fl 1 && outside 1000 1000000000 (le x 4 4)), 0x0B04),
    (decide (1000000000 ≤ le x 8 4), 0x0B05),
    (decide (4 ≤ fl) || le x 2 2 != 0 || le x 0x0C 4 != 0 || decide (2 ^ 48 ≤ le x 0x10 8) || !zeroBytes x 0x18 8, 0x0B06)]

/-- The code of a gate record, after those before it. -/
def checkGateRec (map : List Byte) (before : List (List Byte)) (x : List Byte) : Option Nat :=
  let fl := byteAt x 3
  let n := le x 4 2
  firstCode [
    (!mapPort map (le x 0 2) || decide (1 < byteAt x 2) || before.any (fun y => y.take 3 == x.take 3), 0x0B02),
    (outside 1 256 n || outside 1000 1000000000 (le x 8 4), 0x0B03),
    (decide (1000000000 ≤ le x 0x0C 4), 0x0B05),
    ((bit fl 1 && !bit fl 0) || decide (4 ≤ fl) || le x 6 2 != 0 || decide (2 ^ 48 ≤ le x 0x10 8) || !zeroBytes x 0x18 8 ||
      (List.range n).any (fun i => le x (32 + 8 * i + 2) 2 != 0), 0x0B06)]

/-- TIMING (R292). Record indexes go on from the trigger records to the gate records. -/
def checkTiming (c : Sections) : Option Nat :=
  let p := secOf c secTiming
  let gates := le p 4 4
  let trigs := le p 8 4
  if le p 0 4 != 1 || decide (2048 < gates) || decide (16 < trigs) || decide (p.length < 0x10 + 32 * trigs) then some 0x0B01
  else match gateRecs (p.drop (0x10 + 32 * trigs)) gates with
    | none => some 0x0B01
    | some g =>
      if le p 0x0C 4 != 0 then some 0x0B06
      else firstOf [
        firstItem trigs (fun i => (checkTrig p i).map (fun x => x + 0x10000 * i)),
        firstItem gates (fun i =>
          (checkGateRec (secOf c secPortMap) (g.take i) (g.getD i [])).map (fun x => x + 0x10000 * (trigs + i)))]

/-! ### TELEMETRY (R296, R314, R315) -/

/-- VALID of collector `k`. -/
def collValid (p : List Byte) (k : Nat) : Bool := decide (k < 16) && bit (byteAt p (0x120 + 160 * k)) 0

/-- The code of profile `i`. -/
def checkTeleProfile (p : List Byte) (i : Nat) : Option Nat :=
  let x := slice p (0x20 + 32 * i) 32
  let rsv := fun k => bits (byteAt x k) 2 5 != 0
  firstCode [
    (decide (3 < byteAt x 0) || decide (511 < le x 2 2) || byteAt x 6 == 0 || decide (24 < byteAt x 8) || decide (56 < byteAt x 9),
      0x0C03),
    (decide (4 ≤ byteAt x 1) || rsv 4 || rsv 5 || byteAt x 15 != 0 || !zeroBytes x 0x14 12, 0x0C06)]

/-- The code of collector `i`. -/
def checkCollector (c : Sections) (i : Nat) : Option Nat :=
  let p := secOf c secTele
  let x := slice p (0x120 + 160 * i) 160
  let fl := byteAt x 0
  let len := byteAt x 6
  let offBad := fun k => byteAt x k != 0xFF && decide (len ≤ byteAt x k)
  firstCode [
    (bit (byteAt p 4) 2 && byteAt p 0x18 == i && !collValid p i, 0x0C02),
    (if bit fl 1 then decide (63 < le x 2 2) else !mapPort (secOf c secPortMap) (le x 2 2), 0x0C04),
    (decide (128 < len) || outside 1 1023 (le x 4 2) || offBad 7 || offBad 8, 0x0C05),
    (decide (4 ≤ fl) || decide (16 ≤ byteAt x 1) || !zeroBytes x 9 23 || !zeroBytes x (0x20 + min 128 len) (128 - len), 0x0C06)]

/-- TELEMETRY (R315). -/
def checkTele (c : Sections) : Option Nat :=
  let p := secOf c secTele
  if le p 0 4 != 1 || p.length != 0xB20 then some 0x0C01
  else firstOf [
    firstCode [
      (outside 1 60000 (le p 0x10 4) || outside 1 60000 (le p 0x14 4) || (bit (byteAt p 4) 2 && decide (15 < byteAt p 0x18)), 0x0C02),
      (decide (16 ≤ le p 4 4) || !zeroBytes p 0x19 7, 0x0C06)],
    firstItem 8 (fun i => (checkTeleProfile p i).map (fun x => x + 0x10000 * i)),
    firstItem 16 (fun i => (checkCollector c i).map (fun x => x + 0x10000 * i))]

/-! ### HOST_BINDING (R338) and PHASE_TABLE (R357) -/

/-- HOST_BINDING: rings as R325 numbers them, 0–63 receive and 64–79 transmit. -/
def checkHost (c : Sections) : Option Nat :=
  let p := secOf c secHost
  if le p 0 4 != 1 || p.length != 0x58 then some 0x0D01
  else firstItem 80 (fun r => if 63 < byteAt p (8 + r) then some (0x0D02 + 0x10000 * r) else none)

/-- PHASE_TABLE: an entry that DEFAULT_PHASE names without VALID is reported at the entry. -/
def checkPhases (c : Sections) : Option Nat :=
  let p := secOf c secPhases
  let dflt := le p 4 4
  if le p 0 4 != 1 || p.length != 0x110 then some 0x0E01
  else firstOf [
    firstCode [(decide (15 < dflt), 0x0E02), (!zeroBytes p 8 8, 0x0E04)],
    firstItem 16 (fun i =>
      let x := slice p (0x10 + 16 * i) 16
      let valid := bit (byteAt x 2) 0
      let v : PhaseVal := { pref := byteAt x 0, min := byteAt x 1, cap := le x 4 2, k := byteAt x 6, bMax := byteAt x 7 }
      (firstCode [
        (i == dflt && !valid, 0x0E02),
        (valid && !phaseOk v, 0x0E03),
        (decide (2 ≤ byteAt x 2) || byteAt x 3 != 0 || !zeroBytes x 8 8, 0x0E04)]).map (fun c => c + 0x10000 * i))]

/-! ### Every section -/

/-- Step 17 for the section of a TYPE. An annotation has no content to check. -/
def checkSection (c : Sections) (type_ : Nat) : Option Nat :=
  match type_ with
  | 0x01 => checkPortMap (secOf c 0x01)
  | 0x02 => checkParse (secOf c 0x02)
  | 0x03 => checkStages c
  | 0x04 => checkProgram c
  | 0x05 => checkEm c
  | 0x06 => checkAse c
  | 0x07 => checkFilAlloc c
  | 0x08 => checkFilTrees c
  | 0x09 => checkActData c
  | 0x0A => checkPools c
  | 0x0B => checkQueueTree c
  | 0x0C => checkTiming c
  | 0x0D => checkPhases c
  | 0x0E => checkAnvil (secOf c 0x0E)
  | 0x0F => checkInit c
  | 0x10 => checkTele c
  | 0x11 => checkHost c
  | _ => none

end Sys2Proof.Machine
end

