-- ==== Sys2Proof/Machine/ImageVerify.lean ====
section
/-!
DEFINITION. Verification of an image (R53 to R62): the seventeen steps of R61, over the bytes that a bank or the host supplies.
-/
namespace Sys2Proof.Machine
open Reg

/-! ### Results (R62) -/

def resOk : Nat := 0x00
def resLength : Nat := 0x01
def resMagic : Nat := 0x02
def resFormat : Nat := 0x03
def resOrdering : Nat := 0x04
def resTable : Nat := 0x05
def resType : Nat := 0x06
def resMissing : Nat := 0x07
def resSigBlock : Nat := 0x08
def resKeySlot : Nat := 0x09
def resKeyHash : Nat := 0x0A
def resSignature : Nat := 0x0B
def resSecver : Nat := 0x0C
def resBase : Nat := 0x0D
def resDigest : Nat := 0x0E
def resNoKey : Nat := 0x0F
def resDecrypt : Nat := 0x10
def resSemantic : Nat := 0x11
def resBusy : Nat := 0x12
def resState : Nat := 0x13
def resStore : Nat := 0x14
def resFetch : Nat := 0x15
def resAborted : Nat := 0x16
def resRunning : Nat := 0xFF

/-- A failure: the result, FAIL_SECTION and DETAIL. -/
structure VFail where
  code : Nat
  section_ : Nat := 0xFF
  detail : Nat := 0
  deriving DecidableEq, Repr

/-- What a verified image gives: its sections by TYPE, decrypted, and its identity. -/
structure Verified where
  secs : Sections
  id : Nat
  secver : Nat
  digest : List Byte
  deriving DecidableEq, Repr

/-- What the checks run against: the KIND that the command accepts, the length supplied, the bytes that arrived, and whether a
failing read ended the fetch after them. -/
structure VImage where
  kind : Nat
  supplied : Nat
  img : List Byte
  cut : Bool := false
  deriving DecidableEq, Repr

/-! ### The container (R53 to R56) -/

def VImage.u (v : VImage) (at_ n : Nat) : Nat := le v.img at_ n
def VImage.count (v : VImage) : Nat := v.u 0x1C 2
def VImage.tableEnd (v : VImage) : Nat := 0x100 + 96 * v.count
def VImage.sigAt (v : VImage) : Nat := v.u 0x28 4

/-- Entry `i` of the section table. -/
def VImage.entry (v : VImage) (i : Nat) : List Byte := slice v.img (0x100 + 96 * i) 96
def entType (e : List Byte) : Nat := le e 0 2
def entEnc (e : List Byte) : Bool := bit (le e 2 2) 0
def entOff (e : List Byte) : Nat := le e 4 4
def entLen (e : List Byte) : Nat := le e 8 4

/-- Payload of section `i` as stored. -/
def VImage.payload (v : VImage) (i : Nat) : List Byte := slice v.img (entOff (v.entry i)) (entLen (v.entry i))

/-- The signed message: header and section table (R60). -/
def VImage.message (v : VImage) : List Byte := v.img.take v.tableEnd

/-- Byte `k` of the signature block on. -/
def VImage.sig (v : VImage) (k n : Nat) : List Byte := slice v.img (v.sigAt + k) n

/-- The end of section `i`. -/
def VImage.sectionEnd (v : VImage) (i : Nat) : Nat := entOff (v.entry i) + entLen (v.entry i)

/-- The end of the part before section `i`. -/
def VImage.before (v : VImage) (i : Nat) : Nat :=
  if i = 0 then v.tableEnd else v.sectionEnd (i - 1)

/-- A check of R61 that needs the first `need` bytes of the image: it is run once they have arrived, or when none are still to
come. -/
def VImage.chk (v : VImage) (need : Nat) (bad : Bool) (code : Nat) (section_ : Nat := 0xFF) : Option VFail :=
  if v.cut && decide (v.img.length < need) then none
  else if bad then some { code := code, section_ := section_ } else none

/-- A check made for each section in table order. -/
def VImage.each (v : VImage) (f : Nat → Option VFail) : Option VFail := (List.range v.count).findSome? f

/-- Steps 1 to 4. -/
def VImage.header (v : VImage) : Option VFail :=
  let len := v.u 0x18 4
  v.chk 0x1C (outside 0x260 0x7000000 len || len != v.supplied) resLength <|>
  v.chk 4 (v.u 0 4 != 0x4E474C52) resMagic <|>
  v.chk 8 (v.u 4 2 != 1 || v.u 6 2 != 0) resFormat <|>
  v.chk 0x18 (slice v.img 8 16 != padTo 16 [0x42, 0x56, 0x44, 0x31, 0x30, 0x32, 0x34, 0x2D, 0x4C]) resOrdering <|>
  v.chk 0x100 (v.u 0x1E 2 != v.kind || outside 1 64 v.count || v.u 0x2C 4 != 0 || !zeroBytes v.img 0x60 160 ||
    (v.kind == 1 && !zeroBytes v.img 0x30 48)) resFormat

/-- Step 5: the table entries (R53, R55), and the zero bytes between the parts. -/
def VImage.table (v : VImage) : Option VFail :=
  let n := v.tableEnd
  v.chk n (v.sigAt % 64 != 0 || v.u 0x18 4 != v.sigAt + 256 || decide (v.sigAt < n)) resTable <|>
  v.each (fun i =>
    let e := v.entry i
    let plain := !entEnc e && !zeroBytes e 0x40 28
    v.chk n (decide (2 ≤ le e 2 2) || entOff e % 64 != 0 || decide (entOff e < v.before i) || entLen e == 0 ||
      decide (v.sigAt < entOff e + entLen e) || le e 0x0C 4 != 0 || le e 0x5C 4 != 0 || plain) resTable i <|>
    v.chk (max n (entOff e)) (!zeroBytes v.img (v.before i) (entOff e - v.before i)) resTable i) <|>
  v.chk (max n v.sigAt) (!zeroBytes v.img (v.before v.count) (v.sigAt - v.before v.count)) resTable

/-- Types of R57. -/
def annotation (t : Nat) : Bool := decide (0x7F00 ≤ t) && decide (t ≤ 0x7FFF)
def ruleSetType (t : Nat) : Bool := t == secProgram || t == secFilTrees || t == secActData
def knownType (t : Nat) : Bool := (decide (1 ≤ t) && decide (t ≤ 0x11)) || annotation t
def requiredTypes : List Nat := [secPortMap, secParse, secStages, secProgram, secPools, secQueues, secAnvil]

/-- Steps 6 and 7 (R57, R58). -/
def VImage.types (v : VImage) : Option VFail :=
  let n := v.tableEnd
  let all := (List.range v.count).map (fun i => entType (v.entry i))
  v.each (fun i =>
    let t := entType (v.entry i)
    v.chk n (!knownType t || (all.take i).contains t || (v.kind == 2 && !ruleSetType t && !annotation t)) resType i) <|>
  v.chk n (if v.kind = 1 then requiredTypes.any (fun t => !all.contains t) else !all.any ruleSetType) resMissing

/-- A key slot is fused and not revoked (R60). -/
def State.slotGood (s : State) (k : Nat) : Bool := decide (k < 4) && (tabFind s.mil.slots k).isSome && !bit s.mil.revoked k

/-- Steps 8 to 13: the signature block, the floor and the base of an update. -/
def State.vSignature (s : State) (v : VImage) : Option VFail :=
  let need := v.sigAt + 256
  let slot := byteAt (v.sig 4 1) 0
  v.chk need (le (v.sig 0 4) 0 4 != 0x47534C52 || !zeroBytes (v.sig 5 3) 0 3 || !zeroBytes (v.sig 0xC8 56) 0 56) resSigBlock <|>
  v.chk need (!s.slotGood slot) resKeySlot <|>
  v.chk need (tabFind s.mil.slots slot != some (sha384 (v.sig 8 96))) resKeyHash <|>
  v.chk need (!ecdsaVerify (v.sig 8 96) v.message (v.sig 0x68 48) (v.sig 0x98 48)) resSignature <|>
  v.chk 0x24 (decide (v.u 0x20 4 < s.mil.floor)) resSecver <|>
  v.chk 0x60 (v.kind == 2 && slice v.img 0x30 48 != (List.range 12).flatMap (fun k => leBytes 4 (s.get IMG.DIGEST k))) resBase

/-- A section's plaintext: none if its GCM tag fails (R59). -/
def State.vOpen (s : State) (v : VImage) (i : Nat) : Option (List Byte) :=
  let e := v.entry i
  if entEnc e then gcmOpen (s.mil.imageKey.getD []) (slice e 0x40 12) (e.take 12) (v.payload i) (slice e 0x4C 16)
  else some (v.payload i)

/-- Steps 14 to 16: digests, and encrypted sections. -/
def State.vSections (s : State) (v : VImage) : Option VFail :=
  let end_ := fun i => max v.tableEnd (v.sectionEnd i)
  v.each (fun i => v.chk (end_ i) (sha384 (v.payload i) != slice (v.entry i) 0x10 48) resDigest i) <|>
  v.each (fun i => v.chk v.tableEnd (entEnc (v.entry i) && s.mil.imageKey.isNone) resNoKey i) <|>
  v.each (fun i => v.chk (end_ i) (entEnc (v.entry i) && (s.vOpen v i).isNone) resDecrypt i)

/-- The sections by TYPE, decrypted. -/
def State.vSecs (s : State) (v : VImage) : Sections :=
  (List.range v.count).foldl (fun t i => tabPut t (entType (v.entry i)) ((s.vOpen v i).getD [])) []

/-- Step 17, over the image's own sections, and for an update over those of the running image as well (R209). -/
def State.vContent (s : State) (v : VImage) (secs : Sections) : Option VFail :=
  let ctx := if v.kind = 2 then secs.foldl (fun t x => tabPut t x.1 x.2) s.img.run else secs
  v.each (fun i => (checkSection ctx (entType (v.entry i))).map (fun d => { code := resSemantic, section_ := i, detail := d }))

/-- The first failure of steps 1 to 16. An image whose fetch failed fails with FETCH at the latest. -/
def State.vFailure (s : State) (v : VImage) : Option VFail :=
  v.header <|> v.table <|> v.types <|> s.vSignature v <|> s.vSections v <|> (if v.cut then some { code := resFetch } else none)

/-- Verify an image under R61; `all` false: steps 1 to 16 alone (R64, R77). -/
def State.verify (s : State) (v : VImage) (all : Bool) : VFail ⊕ Verified :=
  match s.vFailure v with
  | some f => .inl f
  | none =>
    let secs := s.vSecs v
    match (if all then s.vContent v secs else none) with
    | some f => .inl f
    | none => .inr { secs := secs, id := v.u 0x24 4, secver := v.u 0x20 4, digest := sha384 v.message }

end Sys2Proof.Machine
end

