-- ==== Sys2Proof/Machine/ImageApply.lean ====
section
/-!
DEFINITION. What a full load does to the module (R67, R68): traffic stops, every table, counter and queue is cleared, and the
sections are applied (R57); and how a rule set is written into an epoch's areas (R72, R209).
-/
namespace Sys2Proof.Machine
open Reg

/-- A bit address is that of an instance of a field. -/
def Fld.hasKey (f : Fld) (k : Nat) : Bool :=
  if k < f.key 0 0 then false
  else
    let d := k - f.key 0 0
    let q := if f.n1 = 1 then 0 else d / (8 * f.s1)
    let r := if f.n1 = 1 then d else d % (8 * f.s1)
    decide (q < f.n1) && (if f.n2 = 1 then r == 0 else r % (8 * f.s2) == 0 && decide (r / (8 * f.s2) < f.n2))

/-- Write bytes of an image; a waiting memory injection meets these writes like any other (R405). -/
def State.fill (s : State) (a : Nat) (bs : List Byte) : State := s.memStore a bs

/-- Write an area of `n` bytes: the bytes given, and zeros after them. -/
def State.fillArea (s : State) (a n : Nat) (bs : List Byte) : State :=
  ((s.memZero a (a + n)).fill a bs).injTake (a + bs.length) (n - bs.length)

/-- Copy what the addresses [lo, hi) hold to the addresses from `to_`. -/
def State.copyRange (s : State) (lo hi to_ : Nat) : State :=
  let src := s.dev.filter (fun c => inRange lo hi c.1)
  let s := (s.memZero to_ (to_ + (hi - lo))).injTake to_ (hi - lo)
  { s with dev := src.foldl (fun m c => memPut m (to_ + (c.1 - lo)) c.2) s.dev }

/-! ### Steps 1 and 2 (R67, R68) -/

/-- The bytes that describe a port's lanes: its lanes' descriptors, and the DSCP table that it selects. -/
def portBytes (map : List Byte) (p : Nat) : List Byte :=
  let d := mapDesc map p
  slice map (8 + 16 * p) (16 * byteAt d 0) ++ (if byteAt d 4 = 1 then slice map (0x4008 + 64 * byteAt d 6) 64 else [])

/-- A port that the running image and the new one describe alike. -/
def portUnchanged (old new : List Byte) (p : Nat) : Bool := mapPort old p && portBytes old p == portBytes new p

/-- Step 1: READY clears, and every port that sends shows Local Fault; changed ports leave their state, and complete the frame
that they send (R91); the state machines of unchanged ports freeze. Step 2: packets are discarded, every one of them counted,
and rings stop. -/
def State.loadStop (s : State) (map : List Byte) : State :=
  let old := s.sect secPortMap
  let same := (List.range 1024).filter (fun p => portUnchanged old map p)
  let moved := s.portList.filter (fun p => !same.contains p)
  let s := ((s.setB IMG.READY false).set IMG.ACTIVITY 5).allLines
  let s := moved.foldl (fun s p => s.txComplete p .clean) s
  let (n, s) := s.discardPackets
  let s := moved.foldl (fun s p => s.portDown p) (s.add IMG.LOAD_DISCARDS n)
  State.ringsStop { s with img := { s.img with frozen := same } }

/-! ### Clearing (R68) -/

/-- The counters and the state of tables and queues that registers hold. The counters are the fields of type RC of the traffic
blocks, and those of their RO fields that count (log 26). The DMA channels' registers stay. -/
def loadCleared : List Fld :=
  (PORT.fields ++ LANE.fields ++ PARSE.fields ++ FIL.fields ++ EM.fields ++ ASE.fields ++ MAP.fields ++ CRUC.fields ++
    QSCH.fields ++ TIME.fields ++ TELE.fields).filter (fun f => f.ty == .rc) ++
  [PORT.CW_TOTAL, PORT.CW_CORR, PORT.CW_UNCORR, PORT.SYM_CORR, PORT.FEC_BIN, PARSE.PASSES, TELE.FS_WR_PTR, TELE.FS_RD_PTR] ++
  [HOST.R_COMPLETED, HOST.R_DISCARDS, TELE.U_TICKS, TELE.U_CNT, TELE.U_WRAP, TELE.S_VALUE, TELE.RX_LAST, TELE.RX_EWMA,
    TELE.TX_LAST, TELE.TX_EWMA] ++
  [EM.REQ, EM.HELD, ASE.REQ, ASE.HELD, CRUC.MIN_USED, CRUC.SHR_USED, CRUC.HDRM_USED, CRUC.XOFF, CRUC.HELD, QSCH.HOLD_ACTIVE,
    TELE.FL_BUSY, ANVL.ACT_HALTED, IMG.EPOCH, IMG.RETIRING, IMG.INFLIGHT]

/-- The front port in whose window, or whose lane's window, a register lies. -/
def ownerOf (map : List Byte) (k : Nat) : Option Nat :=
  let off := k / 8
  if inRange 0x500000 0x580000 off then some ((off - 0x500000) / 0x200)
  else if inRange 0x400000 0x500000 off then
    let lane := (off - 0x400000) / 0x400
    some (((List.range 8).map (fun k => lane - k)).find? (fun p => mapPort map p && decide (lane < p + byteAt (mapDesc map p) 0)) |>.getD 1024)
  else none

/-- The registers of ports and lanes that are not those of an unchanged port start afresh. -/
def State.portWindowsClear (s : State) (map : List Byte) : State :=
  { s with regs := s.regs.filter (fun c =>
      match ownerOf map c.1 with
      | some p => s.img.frozen.contains p
      | none => true) }

/-- The key of a Tarnish pass among Anvil's cursors: the new image's tables are swept from their beginning. -/
def tarnishKey (k : Nat) : Bool := k == actTarnish || inRange 16 32 k || inRange 64 96 k

/-- Tables, counters, learned entries, caches and queues are cleared; what belongs to the links of unchanged ports stays. -/
def State.loadClear (s : State) : State :=
  let keep := fun (p : Nat) => s.img.frozen.contains p
  let buf := s.buf
  let s := (s.memZero emBase gateBase).memZero (gateBase + 0x1000000) storeBase
  let s := { s with
    regs := s.regs.filter (fun c => !loadCleared.any (fun f => f.hasKey c.1))
    buf := { link := buf.link.filter (fun x => keep x.1), pause := buf.pause.filter (fun x => keep (x.1 / 8)),
             rx := buf.rx.filter (fun x => keep x.1), pauseAt := buf.pauseAt.filter (fun x => keep (x.1 / 8)), mig := buf.mig,
             line := buf.line, chk := buf.chk, gen := buf.gen, slots := buf.slots }
    pipe := {}
    que := { gates := s.que.gates }
    tele := { bwAt := s.tele.bwAt, loupeAt := s.frc }
    anvil := { s.anvil with cursor := s.anvil.cursor.filter (fun c => !tarnishKey c.1),
                            passAt := s.anvil.passAt.filter (fun c => !tarnishKey c.1) } }
  { s with flt := { s.flt with injHit := s.flt.injHit.filter (fun h => decide (storeBase ≤ h.1) || decide (h.1 < emBase)) } }

/-! ### Ports (R81, R105) -/

/-- PCS lanes of a PHY type. PRESUMED from IEEE 802.3 (log 27). -/
def pcsLanes (lanes speed : Nat) : Nat :=
  if speed = 1 then 20 else if lanes = 1 then 8 else if lanes = 2 then 16 else if lanes = 4 then 32 else 16

/-- A new or changed port starts from its descriptor. -/
def State.portFresh (s : State) (p : Nat) : State :=
  let fl := s.desc p 3 1
  let s := ((s.setB PORT.ADMIN_UP (bit fl 0) p).setB PORT.AN_EN (bit fl 1) p).setB PORT.LT_EN (bit fl 2) p
  let s := (s.set PORT.FC_MODE (bits fl 3 2) p).set PORT.PCS_LANES (pcsLanes (s.lanesOf p) (s.desc p 1 1)) p
  let safe := s.flag FLT.MODULE_SAFE || s.bitOf FLT.PORT_SAFE (p % 32) (p / 32)
  s.when safe (fun s => s.set PORT.LINK_STATE linkSafe p)

/-- PORT_MAP. -/
def State.portsApply (s : State) : State :=
  s.portList.foldl (fun s p => if s.img.frozen.contains p then s else s.portFresh p) s

/-! ### Parser, tables and stages -/

/-- PARSE_GRAPH: the graph header of a pipe sets its PARSE registers (R114, R132). -/
def State.parseApply (s : State) (p : Nat) : State :=
  let sec := s.sect secParse
  let g := byteAt sec (8 + p)
  let h := slice sec (0x48 + 41088 * g) 128
  let acts := (List.range 8).foldl (fun n c => n + byteAt h (4 + c) * 4 ^ c) 0
  let s := ((s.set PARSE.GRAPH g p).set PARSE.START_STATE (byteAt h 0) p).set PARSE.CAUSE_ACTION acts p
  let s := ((s.set PARSE.MALF_RING (byteAt h 0x10) p).set PARSE.SP_ENABLE (byteAt h 1) p).set PARSE.SP_RING1 (byteAt h 0x11) p
  let s := ((s.set PARSE.SP_RING2 (byteAt h 0x12) p).set PARSE.SP_RING3 (byteAt h 0x13) p).set PARSE.SP_RING4 (byteAt h 0x14) p
  let s := ((s.set PARSE.SP_RING5 (byteAt h 0x15) p).set PARSE.SP_RING6 (byteAt h 0x16) p).set PARSE.MIRROR_QUEUE (le h 0x0C 4) p
  let s := s.set PARSE.RUNT_MIN (le h 2 2) p
  upTo 7 (fun i s => (s.set PARSE.POL_RATE (le h (0x18 + 8 * i) 4) p i).set PARSE.POL_BURST (le h (0x1C + 8 * i) 4) p i) s

/-- EM_CONFIG (R137, R157). -/
def State.emApply (s : State) : State :=
  let n := le (s.sect secEm) 4 4
  upTo 16 (fun t s =>
    ((s.set EM.T_AGE_PERIOD (s.emField t 0x18 4) t).set EM.T_LEARN_RATE (s.emField t 0x20 4) t).set
      EM.T_LEARN_BURST (s.emField t 0x24 4) t) (s.set EM.TABLE_COUNT n)

/-- ASE_PARTITION (R166, R182). Partitions that the section does not hold read 0. -/
def State.aseApply (s : State) : State :=
  let n := le (s.sect secAse) 4 4
  upTo 64 (fun p s =>
    let f := fun k w => if p < n then s.aseField p k w else 0
    let s := ((s.set ASE.P_BANK_BASE (f 0 2) p).set ASE.P_BANK_COUNT (f 2 2) p).set ASE.P_WIDE (f 4 1) p
    let s := ((s.setB ASE.P_GAPPED (bit (f 4 1) 1) p).set ASE.P_REPLICAS (f 6 1) p).set ASE.P_GAP (f 5 1) p
    let s := ((s.set ASE.P_SEL_BITS (f 7 1) p).set ASE.P_MISS_RESULT (f 0x0C 4) p).set ASE.P_PEAK_BANK 0 p
    s.set ASE.P_PEAK_LOAD 0 p) (s.set ASE.PART_COUNT n)

/-- FILIGREE_ALLOC (R125, R133). -/
def State.filApply (s : State) : State :=
  let n := le (s.sect secFilAlloc) 4 4
  upTo 64 (fun i s =>
    let f := fun k w => if i < n then s.filField i k w else 0
    let s := (s.set FIL.NODE_BASE (f 0 4) i).set FIL.KEY_BITS (f 8 2) i
    (s.set FIL.RULE_COUNT 0 i).set FIL.ROOT 0 i) ((s.set FIL.SET_COUNT n).setB FIL.SPLIT s.swapOn)

/-- STAGE_LAYOUT (R208, R212). -/
def State.stagesApply (s : State) : State :=
  let sec := s.sect secStages
  let s := (s.set MAP.PROFILE_COUNT (le sec 8 4)).set MAP.AREA_WORDS (s.areaSize actionWords)
  upTo 64 (fun p s => s.set MAP.PROFILE (byteAt sec (0x10 + p)) p) s

/-! ### Rule sets (R58, R72, R126, R209) -/

/-- ACTION_PROGRAM into the action stores of epoch `e`: each pipe's from its profile. -/
def State.programWrite (s : State) (prog : List Byte) (e : Nat) : State :=
  let w := s.areaSize actionWords
  upTo 64 (fun p s => upTo 32 (fun g s =>
    s.fill (actionBase + 0x2000 * (32 * p + g) + 8 * s.areaBase actionWords e)
      (slice prog (8 + 8 * w * (32 * s.get MAP.PROFILE p + g)) (8 * w))) s) s

/-- ACTION_DATA from line 0 of the area of epoch `e`; the rest of the area is zero. -/
def State.dataWrite (s : State) (data : List Byte) (e : Nat) : State :=
  let a := resultBase + 64 * s.areaBase resultLines e
  s.fillArea a (64 * s.areaSize resultLines) (slice data 8 (64 * le data 4 4))

/-- FILIGREE_TREES into the area of epoch `e`: each array at its set's NODE_BASE, the reserved nodes beyond it zero, and the
root node held with the set's descriptor (R128). -/
def State.treesWrite (s : State) (trees : List Byte) (e : Nat) : State :=
  upTo (le trees 4 4) (fun i s =>
    let a := s.nodeAddr e i 0
    let nodes := slice trees (treeStart trees i) (64 * treeDesc trees i 4)
    let s := s.fillArea a (64 * s.filField i 4 4) nodes
    let t := slice trees (8 + 16 * i) 16 ++ padTo 64 (slice nodes (64 * treeDesc trees i 0) 64)
    { s with pipe := { s.pipe with trees := tabPut s.pipe.trees (64 * e + i) t } }) s

/-- The other epoch's action programs, action data and trees are copied into the areas of epoch `e`. -/
def State.programCopy (s : State) (e : Nat) : State :=
  let n := 8 * s.areaSize actionWords
  upTo 2048 (fun k s =>
    let a := actionBase + 0x2000 * k
    let from_ := a + 8 * s.areaBase actionWords (1 - e)
    s.copyRange from_ (from_ + n) (a + 8 * s.areaBase actionWords e)) s

def State.dataCopy (s : State) (e : Nat) : State :=
  let from_ := resultBase + 64 * s.areaBase resultLines (1 - e)
  s.copyRange from_ (from_ + 64 * s.areaSize resultLines) (resultBase + 64 * s.areaBase resultLines e)

def State.treesCopy (s : State) (e : Nat) : State :=
  let from_ := filBase + 64 * s.areaBase filNodes (1 - e)
  let s := s.copyRange from_ (from_ + 64 * s.areaSize filNodes) (filBase + 64 * s.areaBase filNodes e)
  upTo 64 (fun i s =>
    { s with pipe := { s.pipe with trees := tabPut s.pipe.trees (64 * e + i) (s.tree (1 - e) i) } }) s

/-- An update's sections into the areas of epoch `e`, an omitted type copied (R58). -/
def State.updateWrite (s : State) (secs : Sections) (e : Nat) : State :=
  let s := match tabFind secs secProgram with | some b => s.programWrite b e | none => s.programCopy e
  let s := match tabFind secs secActData with | some b => s.dataWrite b e | none => s.dataCopy e
  match tabFind secs secFilTrees with | some b => s.treesWrite b e | none => s.treesCopy e

/-! ### Buffer, queues, telemetry and host -/

/-- CRUCIBLE_POOLS: the pools and the profiles (R238, R240). -/
def State.poolsApply (s : State) : State :=
  let p := s.sect secPools
  let units := fun n => le p (8 + 2 * n) 2
  let s := ((s.set CRUC.LEGACY_ARB (le p 4 4)).set CRUC.SHARED_SIZE (le p 0x14 4)).set CRUC.HR_RESERVE (le p 0x10 4)
  let s := upTo 4 (fun n s =>
    let base := (List.range n).foldl (fun t k => t + units k) 0
    let s := (s.set CRUC.BASE_UNIT base n).set CRUC.UNITS (units n) n
    (s.set CRUC.SIZE (poolSize n) n).set CRUC.INGOTS (4096 * units n / poolSize n) n) s
  let s := upTo 64 (fun i s =>
    let q := slice p (0x20 + 16 * i) 16
    let s := ((s.set CRUC.RP_MIN (le q 0 2) i).set CRUC.RP_HDRM (le q 2 2) i).set CRUC.RP_FIFO_XOFF (le q 4 2) i
    let s := ((s.set CRUC.RP_FIFO_XON (le q 6 2) i).set CRUC.RP_XON_DELTA (le q 8 2) i).set CRUC.RP_ALPHA (byteAt q 0xA) i
    s.set CRUC.RP_SHR_MAX (le q 0xC 4) i) s
  let s := upTo 64 (fun i s =>
    (s.set CRUC.Q_MIN (le p (0x2630 + 8 * i) 4) i).set CRUC.BETA (byteAt p (0x2634 + 8 * i)) i) s
  let s := upTo 2178 (fun w s =>
    let m := fun k => byteAt p (0x420 + 4 * w + k)
    (((s.set CRUC.MAP_PROFILE0 (m 0) w).set CRUC.MAP_PROFILE1 (m 1) w).set CRUC.MAP_PROFILE2 (m 2) w).set
      CRUC.MAP_PROFILE3 (m 3) w) s
  upTo 1024 (fun n s => s.set CRUC.CT_MASK (le p (0x2830 + 2 * n) 2) n) s

/-- The requesters of the configured ports, of the recirculation ports and of the CPU port (R222). -/
def State.reqsApply (s : State) : State :=
  let ports := s.portList ++ (List.range 65).map (fun k => 1024 + k)
  State.xoffEval { s with buf := { s.buf with reqs := ports.flatMap (fun p => (List.range 8).map (fun q => 8 * p + q)) } }

/-- Device address of entry `i` of a QUEUE_TREE region (R244, R251, R253, R256). -/
def treeEntryAddr (region i : Nat) : Nat :=
  match region with
  | 1 => queueAddr i
  | 2 => classBase + 32 * i
  | 3 => portAddr i
  | 4 => policerAddr i
  | _ => groupAddr i

/-- QUEUE_TREE (R269). -/
def State.queuesApply (s : State) : State :=
  let p := s.sect secQueues
  (treeRecs (p.drop 16) (min (le p 4 4) p.length)).1.foldl (fun s r => s.fill (treeEntryAddr r.region r.first) r.data) s

/-- TELEMETRY (R314, R316). -/
def State.teleApply (s : State) : State :=
  let p := s.sect secTele
  let s := (s.set TELE.FLAGS (le p 4 4)).set TELE.HOP_ID (le p 8 4)
  (s.set TELE.FC_IDLE (le p 0x10 4)).set TELE.FC_ACTIVE (le p 0x14 4)

/-- HOST_BINDING (R337). -/
def State.hostApply (s : State) : State :=
  let p := s.sect secHost
  upTo 80 (fun r s => s.set HOST.R_PIPE
    (if p.isEmpty then (if r < 64 then r else 4 * (r - 64)) else byteAt p (8 + r)) r) s

/-! ### TABLE_INIT (R141, R180, R210) -/

/-- KIND 1: entries through the insertion engine. -/
def State.initEm (s : State) (r : InitRec) : State :=
  let t := le r.body 0 4
  upTo (le r.body 4 4) (fun k s => (s.emInsert t (initEntry s.img.run t r.body k)).2) s

/-- KIND 2: slot images of one bank, written into every replica. -/
def State.initAse (s : State) (r : InitRec) : State :=
  let p := le r.body 0 4
  let bank := le r.body 4 4
  let first := le r.body 8 4
  let size := if s.aseWide p then 128 else 64
  upTo (s.aseReplicas p) (fun c s => upTo (le r.body 12 4) (fun i s =>
    let b := s.aseBank p c + bank
    let img := slice r.body (16 + size * i) size
    if s.aseWide p then s.fill (slotAddr b (first + i)) (slotStored (img.take 64) ++ slotStored (img.drop 64))
    else s.fill (slotAddr b (first + i)) (slotStored img)) s) s

/-- KIND 3: entries of a direct table, of one pipe or of all. -/
def State.initDirect (s : State) (r : InitRec) : State :=
  let stage := le r.body 4 4
  (recPipes (le r.body 0 4)).foldl (fun s p =>
    let size := directSize (s.stageField p stage 0x83 1)
    s.fill (directAddr p stage size (le r.body 8 4)) (slice r.body 16 (size * le r.body 12 4))) s

/-- The records in order. -/
def State.initApply (s : State) : State :=
  let p := s.sect secInit
  (initRecs (p.drop 8) 0 (min (le p 4 4) p.length)).1.foldl (fun s r =>
    if r.kind = 1 then s.initEm r else if r.kind = 2 then s.initAse r else if r.kind = 3 then s.initDirect r else s) s

/-! ### Step 3 -/

/-- The identity of the image that runs from now on. -/
def State.runShow (s : State) (v : Verified) (src : Nat) : State :=
  let s := ((s.set IMG.RUN_SRC src).set IMG.IMAGE_ID v.id).set IMG.SECVER v.secver
  let s := upTo 12 (fun k s => s.set IMG.DIGEST (le v.digest (4 * k) 4) k) s
  s.setB IMG.SWAP_ENABLED (layoutSwap v.secs)

/-- Step 3: everything is cleared, and the sections are applied. TIMING and PHASE_TABLE take effect at step 4 (R291, R356). -/
def State.loadApply (s : State) (v : Verified) (src : Nat) : State :=
  let s := s.loadClear
  let s := { s with img := { s.img with run := v.secs, update := [], overdue := false } }
  let s := ((s.runShow v src).portWindowsClear (secOf v.secs secPortMap)).portsApply
  let s := upTo 64 (fun p s => s.parseApply p) s
  let s := (((s.emApply).aseApply).filApply).stagesApply
  let s := (s.programWrite (s.sect secProgram) 0).dataWrite (s.sect secActData) 0
  let s := (s.treesWrite (s.sect secFilTrees) 0).filShow
  let s := (((s.poolsApply).queuesApply).teleApply).hostApply
  let s := ((s.initApply).applyAnvil (s.sect secAnvil)).reqsApply
  upTo 2 (fun k s => s.synceUpdate k false) s.allLines

end Sys2Proof.Machine
end

