-- ==== Sys2Proof/Machine/Image.lean ====
section
/-!
DEFINITION. The image loader (R61 to R77): the commands, full loads, bank writes, rule-set swaps, epochs and their retirement,
and the images that start-up tries (R429).
-/
namespace Sys2Proof.Machine
open Reg

/-! ### Results (R62, R77) -/

def opLoadBank : Nat := 1
def opLoadHost : Nat := 2
def opWriteBank : Nat := 3
def opVerifyBank : Nat := 4
def opSwap : Nat := 5
def opAbort : Nat := 6

/-- The result fields, and the note fault of a failure. -/
def State.imgShow (s : State) (f : VFail) : State :=
  let s := ((s.set IMG.RESULT f.code).set IMG.FAIL_SECTION f.section_).set IMG.DETAIL f.detail
  s.when (!([resOk, resBusy, resState].contains f.code)) (fun s => s.fault srcImage)

/-- A command has completed or is refused. A refusal while another command runs shows in RESULT, FAIL_SECTION and LAST_OPCODE
until that command ends: DESIGN CHOICE, as the spec does not say what they show (log 77). -/
def State.imgReport (s : State) (op : Nat) (f : VFail) : State :=
  ((s.imgShow f).set IMG.LAST_OPCODE op).event IMG.CMD_DONE 0 true sumImg

/-- The running command ends. The load at start-up is no command: nothing is reported (log 25). -/
def State.imgEnd (s : State) (f : VFail) : State :=
  match s.img.cmd with
  | some c =>
    let s := State.set { s with img := { s.img with cmd := none } } IMG.ACTIVITY 0
    if c.op = 0 then s else s.imgReport c.op f
  | none => s

/-- A command starts. -/
def State.imgStart (s : State) (op bank act : Nat) : State :=
  let s := { s with img := { s.img with cmd := some { op := op, bank := bank, phase := .verifying, at_ := s.frc } } }
  let s := ((s.set IMG.RESULT resRunning).set IMG.FAIL_SECTION 0xFF).set IMG.DETAIL 0
  (s.set IMG.LAST_OPCODE op).set IMG.ACTIVITY act

/-- Bank `bank` is the only valid one (R65). -/
def State.onlyValid (s : State) (bank : Nat) : Bool := (s.commitRec bank).valid && !(s.commitRec (1 - bank)).valid

/-- The result of the refusal of a command written now, if it is refused (R65, R70, R72, R77, R414, R416). Where several causes
apply, STATE comes before BUSY and BUSY before FETCH: DESIGN CHOICE, as the spec states no order (log 77). -/
def State.imgRefusal (s : State) (op bank : Nat) : Option Nat :=
  let lc := s.lcState
  let host := [opLoadHost, opWriteBank, opSwap].contains op
  if !(decide (1 ≤ op) && decide (op ≤ 5)) || lc == lcRetired || s.img.cmd.isSome then some resState
  else if lc == lcService && [opLoadBank, opLoadHost, opSwap].contains op then some resState
  else if op = opSwap && (!s.flag IMG.READY || !s.flag IMG.SWAP_ENABLED) then some resState
  else if op = opWriteBank && s.onlyValid bank then some resState
  else if op = opSwap && s.flag IMG.RETIRING then some resBusy
  else if host && s.get IMG.SRC_ADDR % 64 != 0 then some resFetch
  else none

/-- A bank's commit record is written with VALID = 0 (R64 step 1). -/
def State.bankInvalidate (s : State) (bank : Nat) (ok : Bool) : State :=
  s.commitWrite bank { s.commitRec bank with valid := false } ok

/-- ACTIVITY from the start of a command to the end of its verification: a command that writes while it fetches and verifies
shows the writing, LOAD_HOST its fetch (DESIGN CHOICE, as the spec does not say which shows: log 77). -/
def startActivity (op : Nat) : Nat :=
  if op = opWriteBank then 3 else if op = opSwap then 6 else if op = opLoadHost then 1 else 2

/-- A command other than ABORT is written. `ok` false: the line of the commit record that WRITE_BANK writes does not read
back. -/
def State.imgCommand (s : State) (op bank : Nat) (ok : Bool) : State :=
  match s.imgRefusal op bank with
  | some code => s.imgReport op { code := code }
  | none =>
    let s := s.imgStart op bank (startActivity op)
    s.when (op == opWriteBank) (fun s => s.bankInvalidate bank ok)

def execLoadBank (bank : Fin 2) (s : State) : Result :=
  .next (s.viaHost IMG.OPCODE (fun s => s.imgCommand opLoadBank bank.val true))

def execLoadHost (s : State) : Result := .next (s.viaHost IMG.OPCODE (fun s => s.imgCommand opLoadHost 0 true))

def execWriteBank (bank : Fin 2) (ok : Bool) (s : State) : Result :=
  .next (s.viaHost IMG.OPCODE (fun s => s.imgCommand opWriteBank bank.val ok))

def execVerifyBank (bank : Fin 2) (s : State) : Result :=
  .next (s.viaHost IMG.OPCODE (fun s => s.imgCommand opVerifyBank bank.val true))

def execSwap (s : State) : Result := .next (s.viaHost IMG.OPCODE (fun s => s.imgCommand opSwap 0 true))

/-! ### Epochs (R69 to R74) -/

/-- The epoch flips, and the old one retires from now on; the swap is complete. -/
def State.epochFlip (s : State) : State :=
  let s := (s.set IMG.EPOCH (1 - s.get IMG.EPOCH)).setB IMG.RETIRING true
  let s := { s with img := { s.img with update := s.img.nextDigest, flipAt := s.frc, overdue := false } }
  s.filShow.imgEnd { code := resOk }

/-- A swap waits for trigger `n`, which fires (R72 step 4). The trigger's number is read at the firing, SWAP_TRIG_EN when the
checks end: DESIGN CHOICE, as the spec does not say when they are sampled (log 77). -/
def State.swapTrigger (s : State) (n : Nat) : State :=
  match s.img.cmd with
  | some c => if c.phase == .waitTrigger && s.get IMG.SWAP_TRIG_SEL == n then s.epochFlip else s
  | none => s

/-- The old epoch has retired. -/
def State.epochRetired (s : State) : State := (s.setB IMG.RETIRING false).event IMG.RETIRED 0 true sumImg

/-- The epoch that retires. -/
def State.oldEpoch (s : State) : Nat := 1 - s.get IMG.EPOCH

/-- EPOCH_RETIRE: its in-flight count has reached zero. -/
def execEpochRetire (s : State) : Result :=
  .next (s.when (s.flag IMG.RETIRING && s.get IMG.INFLIGHT s.oldEpoch == 0) (fun s => s.epochRetired))

/-- RETIRE_OVERDUE: RETIRE_TIMEOUT after the flip. -/
def State.retireOverdue (s : State) : State :=
  if s.flag IMG.RETIRING && !s.img.overdue && s.elapsed s.img.flipAt (s.get IMG.RETIRE_TIMEOUT * ticksPerMs) then
    let s := { s with img := { s.img with overdue := true } }
    (s.setB IMG.RETIRE_OVERDUE true).fault srcRetire
  else s

def execRetireOverdue (s : State) : Result := .next s.retireOverdue

/-- RETIRE_FORCE: every remaining instance of the old epoch is discarded. -/
def State.retireForce (s : State) : State :=
  if s.flag IMG.RETIRING then
    let old := s.oldEpoch
    let (n, s) := s.discardWhere (fun k => (s.getStore k.h).epoch == old) (fun i => i.epoch == old)
    ((s.add IMG.RETIRE_DISCARDS n).epochRetired).xoffEval
  else s

def execRetireForce (s : State) : Result := .next (s.viaHost IMG.RETIRE_FORCE (fun s => s.retireForce))

/-! ### Verification ends -/

/-- The image of a bank: one whose record is not valid supplies no length (log 25). -/
def State.bankImage (s : State) (bank : Nat) : List Byte :=
  let c := s.commitRec bank
  if c.valid then s.storeRead (bank * 0x07000000) c.length else []

/-- The lines of an image are written into a bank, as far as the bank reaches; `bad` is a line that does not read back (R384).
False: a line could be written nowhere. -/
def State.bankLines (s : State) (bank : Nat) (img : List Byte) (bad : Option Nat) : State × Bool :=
  let img := img.take 0x07000000
  (List.range (ceilDiv img.length 64)).foldl (fun (a : State × Bool) k =>
    let r := a.1.storeWrite (bank * 0x07000000 + 64 * k) (slice img (64 * k) 64) (bad != some k)
    (r.1, a.2 && r.2)) (s, true)

/-- WRITE_BANK after its fetch: the bytes are in the bank; the checks of the fetched and of the stored bytes decide (R64). -/
def State.bankVerified (s : State) (c : ImgCmd) (v : VImage) (bad : Option Nat) : State :=
  let (s, stored) := s.bankLines c.bank v.img bad
  match s.verify v false with
  | .inl f => s.imgEnd f
  | .inr x =>
    if !stored then s.imgEnd { code := resStore }
    else
      match s.verify { v with img := s.storeRead (c.bank * 0x07000000) v.img.length } false with
      | .inl f => s.imgEnd f
      | .inr _ =>
        State.set { s with img := { s.img with
          cmd := some { c with phase := .bankWritten }, nextDigest := x.digest, nextLen := v.img.length } } IMG.ACTIVITY 4

/-- A rule-set section into the areas of epoch `e`. -/
def State.ruleWrite (s : State) (type_ : Nat) (b : List Byte) (e : Nat) : State :=
  if type_ = secProgram then s.programWrite b e
  else if type_ = secActData then s.dataWrite b e
  else if type_ = secFilTrees then s.treesWrite b e
  else s

/-- Rule-set sections of an update that ended early which may have been written: those that arrived, opened and meet their own
checks, in table order, and none of an image whose container is not good. -/
def State.swapWritable (s : State) (v : VImage) : List Nat :=
  if (v.header <|> v.table <|> v.types).isSome then []
  else (List.range v.count).filter (fun i =>
    ruleSetType (entType (v.entry i)) && decide (v.tableEnd ≤ v.img.length) && decide (v.sectionEnd i ≤ v.img.length) &&
      (match s.vOpen v i with
        | some b => (checkSection (tabPut s.img.run (entType (v.entry i)) b) (entType (v.entry i))).isNone
        | none => false))

/-- A SWAP that fails or is ended has written while it verified: the idle areas hold partial content (R72 steps 2 and 3). Which
is open: a free number of whole sections (log 62). -/
def State.swapPartial (s : State) (v : VImage) : State :=
  let l := s.swapWritable v
  let n := Config.freeChoice s.draws % (l.length + 1)
  (l.take n).foldl (fun s i => s.ruleWrite (entType (v.entry i)) ((s.vOpen v i).getD []) s.idleEpoch) s.draw

/-- SWAP after its checks: the idle areas are written, and the epoch flips at once or at a trigger (R72). -/
def State.swapVerified (s : State) (c : ImgCmd) (x : Verified) : State :=
  let s := s.updateWrite x.secs s.idleEpoch
  let s := { s with img := { s.img with nextDigest := x.digest } }
  if s.flag IMG.SWAP_TRIG_EN then
    State.set { s with img := { s.img with cmd := some { c with phase := .waitTrigger } } } IMG.ACTIVITY 7
  else s.epochFlip

/-- A full load after its checks: steps 1 to 3 of R67, and R428 step 7 when the load ends start-up's search for an image. A
retirement in progress ends without setting RETIRED (log 25). -/
def State.configure (s : State) (c : ImgCmd) (x : Verified) : State :=
  let src := if c.op = opLoadHost then 3 else 1 + c.bank
  let s := { s with img := { s.img with cmd := some { c with phase := .configuring, at_ := s.frc } } }
  let s := (s.loadStop (secOf x.secs secPortMap)).loadApply x src
  (s.when (c.op == 0 || s.flag GLB.WAIT_HOST) (fun s => s.set GLB.STEP 7)).setB GLB.WAIT_HOST false

/-- Start-up tries the banks of a list, the first first; with none left it waits for the host, unless the module is RETIRED
(R429, log 25). -/
def State.bootTry (s : State) : List Nat → State
  | [] =>
    let s := State.set { s with img := { s.img with cmd := none, bootLeft := [] } } IMG.ACTIVITY 0
    s.setB GLB.WAIT_HOST true
  | b :: rest =>
    if (s.commitRec b).valid then
      let c : ImgCmd := { op := 0, bank := b, phase := .verifying, at_ := s.frc }
      State.set { s with img := { s.img with cmd := some c, bootLeft := rest } } IMG.ACTIVITY 2
    else State.bootTry (s.set (if rest.isEmpty then GLB.RESULT_SECOND else GLB.RESULT_FIRST) 0xFE) rest

/-- Start-up goes on to the next bank. -/
def State.bootNext (s : State) : State := s.bootTry s.img.bootLeft

/-- A bank that start-up tried has been verified, with a result (R428 steps 5 and 6, R438). -/
def State.bootVerified (s : State) (code : Nat) : State :=
  let second := s.img.bootLeft.isEmpty
  let s := s.set GLB.STEP (if second && s.get GLB.RESULT_FIRST != 0xFE then 6 else 5)
  s.set (if second then GLB.RESULT_SECOND else GLB.RESULT_FIRST) code

/-- The image that the running command verifies: `bytes` is what host memory returned, `cut` whether a read failed after
them. -/
def State.imgSource (s : State) (c : ImgCmd) (bytes : List Byte) (cut : Bool) : VImage :=
  if [opLoadHost, opWriteBank, opSwap].contains c.op then
    let len := s.get IMG.SRC_LEN
    let img := bytes.take len
    { kind := if c.op = opSwap then 2 else 1, supplied := len, img := img, cut := cut || decide (img.length < len) }
  else
    let img := s.bankImage c.bank
    { kind := 1, supplied := img.length, img := img }

/-- Verification ends with the result of its first failing check, or with OK. -/
def State.imgJudge (s : State) (c : ImgCmd) (v : VImage) (bad : Option Nat) : State :=
  let s := s.set IMG.VERIFY_US (satTo 0xFFFF ((s.frc - c.at_) / ticksPerUs))
  if c.op = opWriteBank then s.bankVerified c v bad
  else
    match s.verify v (c.op != opVerifyBank) with
    | .inl f =>
      if c.op = 0 then ((s.imgShow f).bootVerified f.code).bootNext
      else (s.when (c.op == opSwap) (fun s => s.swapPartial v)).imgEnd f
    | .inr x =>
      if c.op = opVerifyBank then s.imgEnd { code := resOk }
      else if c.op = opSwap then s.swapVerified c x
      else if c.op = 0 then (s.bootVerified resOk).configure c x
      else s.configure c x

/-- IMG_VERIFY_COMPLETE: the bytes that the command fetched from host memory (a command on a bank reads its own), and a line
of WRITE_BANK's that did not read back. -/
def State.imgVerified (s : State) (bytes : List Byte) (cut : Bool) (bad : Option Nat) : State :=
  match s.img.cmd with
  | some c => if c.phase == .verifying && s.live then s.imgJudge c (s.imgSource c bytes cut) bad else s
  | none => s

def execImgVerifyComplete (bytes : List Byte) (bad : Option (BitVec 21)) (s : State) : Result :=
  .next (s.imgVerified bytes false (bad.map (fun b => b.toNat)))

/-- The running command fetches from host memory. -/
def State.imgFetching (s : State) : Bool :=
  match s.img.cmd with
  | some c => c.phase == .verifying && [opLoadHost, opWriteBank, opSwap].contains c.op
  | none => false

/-- IMG_FETCH_ERROR: a source read failed after the bytes that arrived. -/
def execImgFetchError (bytes : List Byte) (s : State) : Result :=
  .next (s.when s.imgFetching (fun s => s.imgVerified (bytes.take (s.get IMG.SRC_LEN - 1)) true none))

/-- A host-link event ends a command that fetches (R322). -/
def State.imgLinkEvent (s : State) : State := s.when s.imgFetching (fun s => s.imgEnd { code := resFetch })

/-- What a command that is ended during verification has written by then, of the bytes that have arrived: WRITE_BANK its
lines, SWAP a part of the idle areas. -/
def State.imgCut (s : State) (c : ImgCmd) (bytes : List Byte) : State :=
  if c.phase != .verifying then s
  else if c.op = opWriteBank then (s.bankLines c.bank (bytes.take (bytes.length / 64 * 64)) none).1
  else if c.op = opSwap then s.swapPartial (s.imgSource c bytes true)
  else s

/-- ABORT, with the bytes that have arrived: a command that configures, and the load at start-up, cannot be aborted; nor can a
finished swap (R77). -/
def State.imgAbort (s : State) (bytes : List Byte) : State :=
  match s.img.cmd with
  | some c =>
    if c.op = 0 || c.phase == .configuring then s.imgReport opAbort { code := resState }
    else (s.imgCut c (bytes.take (s.get IMG.SRC_LEN - 1))).imgEnd { code := resAborted }
  | none => s.imgReport opAbort { code := resState }

def execImgAbort (bytes : List Byte) (s : State) : Result := .next (s.viaHost IMG.OPCODE (fun s => s.imgAbort bytes))

/-- BANK_COMMIT: the commit record with VALID = 1; `ok` false: its line does not read back (R64 step 4, R384). -/
def State.bankCommit (s : State) (ok : Bool) : State :=
  match s.img.cmd with
  | some c =>
    if c.phase == .bankWritten then
      let seq := (max (s.commitRec 0).seq (s.commitRec 1).seq + 1) % 2 ^ 32
      let s := s.commitWrite c.bank { valid := true, length := s.img.nextLen, seq := seq, digest := s.img.nextDigest } ok
      s.imgEnd { code := resOk }
    else s
  | none => s

def execBankCommit (ok : Bool) (s : State) : Result := .next (s.bankCommit ok)

/-! ### What other chapters ask of the loader -/

/-- A power failure ends a command that writes the module store (R368 step 4), and the load at start-up (R435). -/
def State.imgStoreAbort (s : State) : State :=
  match s.img.cmd with
  | some c =>
    if c.op = opWriteBank then s.imgEnd { code := resStore }
    else if c.op = 0 then State.imgEnd { s with img := { s.img with bootLeft := [] } } { code := resStore } else s
  | none => s

/-- ENTER_SERVICE and RETIRE end any command (R414, R416). -/
def State.imgEndRunning (s : State) (code : Nat) : State :=
  let s := s.imgEnd { code := code }
  { s with img := { s.img with bootLeft := [], frozen := [] } }

/-- No image runs any longer (R416). -/
def State.imgUnload (s : State) : State :=
  let s := { s with img := { s.img with run := [], update := [] }, core := { s.core with idle := true } }
  upTo 2 (fun k s => s.synceUpdate k false) (((s.setB IMG.READY false).set IMG.RUN_SRC 0).setB IMG.SWAP_ENABLED false)

end Sys2Proof.Machine
end

