-- ==== Sys2Proof/Machine/Touchstone.lean ====
section
/-!
DEFINITION. Touchstone (R272 to R293): the commands that set, step and steer corrected time, holdover, the time triggers,
the capture pins, PPS_OUT and SyncE.
-/
namespace Sys2Proof.Machine
open Reg

/-! ### Corrected time (R276 to R278) -/

/-- OFF = t and REF = FRC. -/
def State.setOff (s : State) (t : Nat) : State :=
  let s := { s with time := { s.time with old := s.timeMap } }
  (((s.set TIME.OFF_SEC (timeSec t)).set TIME.OFF_NS (timeNs t)).set TIME.OFF_FRAC (timeFrac t)).set TIME.REF s.frc

/-- An update: the next one is awaited from here, and holdover ends (R278). -/
def State.timeUpdate (s : State) : State :=
  State.setB { s with time := { s.time with lastUpdate := s.frc } } TIME.HOLDOVER false

/-! ### Triggers (R284 to R287) -/

/-- The trigger's record. -/
def State.trigRec (s : State) (n : Nat) : Trig := tabGet {} s.time.trig n

/-- PPS_OUT pulses wait for the pending instant of trigger `n` (R289). -/
def State.ppsSchedule (s : State) (n pend : Nat) : State :=
  { s with time := { s.time with ppsDue := s.time.ppsDue ++ [(n, pend)] } }

/-- A pending instant is cancelled: its pulse is no longer due. -/
def State.ppsCancel (s : State) (n pend : Nat) : State :=
  { s with time := { s.time with ppsDue := s.time.ppsDue.filter (fun x => !(x.1 == n && x.2 == pend)) } }

/-- Arm trigger `n` for `pend`. -/
def State.trigArmed (s : State) (n : Nat) (t : Trig) : State :=
  let s := { s with time := { s.time with trig := tabPut s.time.trig n t } }
  (s.setB TIME.T_ARMED true n).ppsSchedule n t.pend

/-- Disarm trigger `n`, cancelling a pending firing. -/
def State.trigDisarm (s : State) (n : Nat) : State :=
  let s := s.when (s.flag TIME.T_ARMED n) (fun s => s.ppsCancel n (s.trigRec n).pend)
  s.setB TIME.T_ARMED false n

/-- The first instant of `base + k * per` that is at least `t`. -/
def firstInstant (base per t : Nat) : Nat := if t ≤ base then base else base + per * ceilDiv (t - base) per

/-- TRIGGER_ARM: the settings are latched and the table of R284 decides. A refused ARM leaves the trigger disarmed. -/
def State.trigArm (s : State) (n : Nat) : State :=
  let periodic := s.flag TIME.T_PERIODIC n
  let per := s.get TIME.T_PERIOD n
  let base := timeOf (s.get TIME.T_TIME_SEC n) (s.get TIME.T_TIME_NS n) 0
  let lim := s.now + nsUnits 2000
  let s := s.trigDisarm n
  if !s.flag TIME.T_EN n then s
  else if !periodic then
    if lim ≤ base then s.trigArmed n { periodic := false, period := 0, base := base, pend := base }
    else s.setB TIME.T_LATE_ARM true n
  else if decide (per < 1000) || decide (1000000000 < per) then s.setB TIME.T_LATE_ARM true n
  else s.trigArmed n
    { periodic := true, period := nsUnits per, base := base, pend := firstInstant base (nsUnits per) lim }

def execTriggerArm (n : Fin 16) (s : State) : Result := .next (s.viaHost TIME.T_ARM (fun s => (s.trigArm n.val)))

/-- The consumers that select trigger `n` act (R287): a rule-set swap, a phase change (the lowest k of the triggers that
select a phase on this firing, R358) and a Loupe window. -/
def State.trigConsumers (s : State) (n : Nat) : State :=
  let s := s.swapTrigger n
  let s := match (List.range 4).find? (fun k => s.flag PWR.PT_EN k && s.get PWR.PT_TRIG_SEL k == n) with
    | some k => s.phaseSelect (s.get PWR.PT_PHASE k) k
    | none => s
  s.when (s.flag TELE.LP_TRIG_EN && s.get TELE.LP_TRIG_SEL == n) (fun s => s.loupeStart)

/-- One firing of trigger `n` (R285). -/
def State.trigFire (s : State) (n : Nat) : State :=
  ((s.event TIME.T_FIRED n (s.flag TIME.T_IE n) sumTrig).incWrap TIME.T_FIRINGS n).trigConsumers n

/-- After a firing: a one-shot disarms, a periodic trigger is armed for its pending instant plus PERIOD (R285). -/
def State.trigRearm (s : State) (n : Nat) : State :=
  let t := s.trigRec n
  if t.periodic then s.trigArmed n { t with pend := t.pend + t.period } else s.setB TIME.T_ARMED false n

/-- A trigger whose pending instant corrected time has reached fires. -/
def State.trigDue (s : State) (n : Nat) : State :=
  if s.flag TIME.T_ARMED n && decide ((s.trigRec n).pend ≤ s.now) then (s.trigFire n).trigRearm n else s

def execTriggerFire (n : Fin 16) (s : State) : Result := .next (s.trigDue n.val)

/-- Triggers and gate changes due at or before a commit edge take place with the old mapping (R276). -/
def State.trigsDue (s : State) : State := (upTo 16 (fun n s => s.trigDue n) s).gatesRelocate

/-- A step has moved corrected time past pending instants of trigger `n`: it fires once and MISSED counts the others (R286). -/
def State.trigStepped (s : State) (n : Nat) : State :=
  let t := s.trigRec n
  let now := s.now
  if s.flag TIME.T_ARMED n && decide (t.pend ≤ now) then
    let s := s.trigFire n
    if t.periodic then
      let passed := (now - t.pend) / t.period + 1
      (s.add TIME.T_MISSED (passed - 1) n).trigArmed n { t with pend := t.pend + passed * t.period }
    else s.setB TIME.T_ARMED false n
  else s

/-! ### PPS_OUT (R289) -/

/-- Corrected time less PPS_OUT_ADJ. -/
def State.ppsNow (s : State) : Int := (s.now : Int) - signed (s.get TIME.PO_PPS_OUT_ADJ) 16 * 65536

/-- The second in which PPS_OUT's view of corrected time lies, from 1. -/
def State.ppsSecondNow (s : State) : Nat :=
  if s.ppsNow < 0 then 0 else timeSec s.ppsNow.toNat + 1

/-- After a step or at enabling, only later second boundaries give a pulse. -/
def State.ppsRebase (s : State) : State :=
  let exact := decide (0 ≤ s.ppsNow) && s.ppsNow.toNat % 65536000000000 == 0
  { s with time := { s.time with ppsSecond := if exact then s.ppsSecondNow - 1 else s.ppsSecondNow } }

/-- The write of PPS_OUT_CTRL has been stored; `o` is the state before it. The output is low with PPS_OUT_EN = 0. At enabling,
and at a change of the source or the trigger, only instants that still lie ahead give a pulse (R289). -/
def State.ppsCtrl (s o : State) : State :=
  let en := s.flag TIME.PO_PPS_OUT_EN
  let fresh := !o.flag TIME.PO_PPS_OUT_EN || s.get TIME.PO_SRC != o.get TIME.PO_SRC ||
    s.get TIME.PO_TRIG_SEL != o.get TIME.PO_TRIG_SEL
  let s := s.when fresh (fun s => State.ppsRebase { s with time := { s.time with
    ppsDue := s.time.ppsDue.filter (fun x => decide (s.ppsNow ≤ (x.2 : Int))) } })
  if en then s else { s with time := { s.time with ppsHigh := false } }

/-- Start a pulse; one that is due while the output is high restarts the width. -/
def State.ppsPulse (s : State) : State :=
  { s with time := { s.time with ppsHigh := true, ppsEnd := s.frc + s.get TIME.PO_WIDTH * ticksPerUs } }

/-- PPS_OUT_PULSE: a second boundary, or an instant of the selected trigger, has been reached. -/
def State.ppsOut (s : State) : State :=
  if !s.flag TIME.PO_PPS_OUT_EN then s
  else if s.flag TIME.PO_SRC then
    let sel := s.get TIME.PO_TRIG_SEL
    match s.time.ppsDue.find? (fun x => x.1 == sel && decide ((x.2 : Int) ≤ s.ppsNow)) with
    | some x => (s.ppsCancel x.1 x.2).ppsPulse
    | none => s
  else if s.time.ppsSecond < s.ppsSecondNow then
    State.ppsPulse { s with time := { s.time with ppsSecond := s.ppsSecondNow } }
  else s

def execPpsOutPulse (s : State) : Result := .next s.ppsOut

/-- PPS_OUT_PULSE_END: WIDTH has elapsed. -/
def execPpsOutPulseEnd (s : State) : Result :=
  .next (s.when (s.time.ppsHigh && decide (s.time.ppsEnd ≤ s.frc)) (fun s =>
    { s with time := { s.time with ppsHigh := false } }))

/-! ### Setting and steering (R276) -/

/-- What a jump of corrected time sets off: triggers passed fire once, gates are relocated (R266, R286). -/
def State.afterJump (s : State) : State := ((upTo 16 (fun n s => s.trigStepped n) s).gatesRelocate).ppsRebase

/-- TIME_CMD = SET. -/
def State.timeSet (s : State) : State :=
  let s := s.trigsDue
  let t := timeOf (s.get TIME.SET_SEC) (s.get TIME.SET_NS) (s.get TIME.SET_FRAC)
  (((s.setOff t).setB TIME.TOD_VALID true).timeUpdate).afterJump

def execTimeSet (s : State) : Result := .next (s.viaHost TIME.CMD_OPCODE (fun s => s.timeSet))

/-- TIME_CMD = STEP: a result below zero is refused. -/
def State.timeStep (s : State) : State :=
  let s := s.trigsDue
  let t := (s.now : Int) + signed (s.get TIME.ADJ_DELTA) 64
  if t < 0 then s.timeEvent TIME.STEP_ERR
  else (((s.setOff t.toNat).setB TIME.TOD_VALID true).timeUpdate).afterJump

def execTimeStep (s : State) : Result := .next (s.viaHost TIME.CMD_OPCODE (fun s => s.timeStep))

/-- TIME_CMD = SNAPSHOT. -/
def State.timeSnapshot (s : State) : State :=
  let t := s.now
  (((s.set TIME.SNAP_FRC s.frc).set TIME.SNAP_SEC (timeSec t)).set TIME.SNAP_NS (timeNs t)).set TIME.SNAP_FRAC (timeFrac t)

def execTimeSnapshot (s : State) : Result := .next (s.viaHost TIME.CMD_OPCODE (fun s => s.timeSnapshot))

/-- The offset of TIME_RATE's low word. -/
def rateOffset : Nat := 0x00B00038

/-- The commit of TIME_RATE by its high word: the old rate is folded into OFF (R276, R12). -/
def State.rateCommit (s : State) (high : Nat) : State :=
  let s := s.trigsDue
  let low := (tabFind s.host.low rateOffset).getD (s.get TIME.RATE % 2 ^ 32)
  let s := { s with host := { s.host with low := tabDel s.host.low rateOffset } }
  ((s.setOff s.now).set TIME.RATE (low + 2 ^ 32 * high)).timeUpdate

def execTimeRateCommit (high : Word) (s : State) : Result := .next (s.viaHost TIME.RATE (fun s => (s.rateCommit high.toNat)))

/-- HOLDOVER: no update within HOLD_TIMEOUT of the last one (R278). -/
def State.holdover (s : State) : State :=
  if s.flag TIME.TOD_VALID && s.get TIME.HOLD_TIMEOUT != 0 && !s.flag TIME.HOLDOVER &&
      s.elapsed s.time.lastUpdate (s.get TIME.HOLD_TIMEOUT * ticksPerMs) then
    ((s.setB TIME.HOLDOVER true).timeEvent TIME.HOLDOVER_EVT).fault srcHoldover
  else s

def execHoldover (s : State) : Result := .next s.holdover

/-- The loss of REFCLK_P/N[0] is detected (R273). -/
def State.refclkLost (s : State) : State :=
  if s.flag TIME.REFCLK_LOST then s
  else ((s.setB TIME.REFCLK_LOST true).timeEvent TIME.REFCLK_LOST_EVT).fault srcRefclk

def execRefclkLost (s : State) : Result := .next s.refclkLost

/-- The reference has been good again for 10 ms (R273). -/
def execRefclkRestored (s : State) : Result := .next (s.setB TIME.REFCLK_LOST false)

/-! ### Pins (R288, R436) -/

/-- The minimum interval of a capture input, in ticks (R436). -/
def pinInterval (pin : Nat) : Nat := if pin = 0 then 500 * ticksPerMs else ticksPerUs

/-- The accept time of a capture input, in ticks: 100 ns (R436). -/
def acceptTicks : Nat := 125

/-- PIN_CAPTURE: an edge of PPS_IN (0) or TRIG_IN[pin − 1] that has lasted its accept time; the capture records the corrected
time of the edge itself. One too soon after the last
accepted is ignored and counted in EXCESS; a stuck input captures nothing (R436, R437). -/
def State.pinCapture (s : State) (pin : Nat) (falling : Bool) : State :=
  let g := 2 + pin
  let last := tabGet 0 s.pins.acceptedAt g
  let want := if pin = 0 then false else s.flag TIME.C_POL pin
  if falling != want || s.flag GLB.PIN_STUCK g then s
  else if last != 0 && !s.elapsed (last - 1) (pinInterval pin) then (s.setB GLB.PIN_LEVEL true g).inc GLB.PIN_EXCESS g
  else
    let t := s.timeAgo acceptTicks
    let s := { s with pins := { s.pins with acceptedAt := tabPut s.pins.acceptedAt g (s.frc + 1) } }
    let s := ((s.set TIME.C_CAP_SEC (timeSec t) pin).set TIME.C_CAP_NS (timeNs t) pin).set TIME.C_CAP_FRAC (timeFrac t) pin
    let s := (s.incWrap TIME.C_COUNT pin).setB GLB.PIN_LEVEL true g
    let s := s.eventBit TIME.CAPTURE_EVT pin (s.bitOf TIME.INT_EN (2 + pin)) sumTime
    if pin = 0 then
      State.setB { s with time := { s.time with ppsSeen := true, ppsLast := s.frc } } TIME.PPS_ABSENT false
    else if s.flag (if pin = 1 then PWR.PIN_EN0 else PWR.PIN_EN1) then
      s.phaseSelect (s.get (if pin = 1 then PWR.PIN_PHASE0 else PWR.PIN_PHASE1)) (rankPin (pin - 1))
    else s

def execPinCapture (pin : Fin 3) (falling : Bool) (s : State) : Result := .next (s.pinCapture pin.val falling)

/-- PPS_ABSENT: no accepted edge for 1,500 ms (R288). -/
def execPpsAbsent (s : State) : Result :=
  .next (s.when (s.time.ppsSeen && !s.flag TIME.PPS_ABSENT && s.elapsed s.time.ppsLast (1500 * ticksPerMs))
    (fun s => (s.setB TIME.PPS_ABSENT true).fault srcPpsAbsent))

/-! ### Chiplet references (R454) -/

/-- CHIPLET_REFCLK_LOST: REFCLK_P/N[n] is lost. A SyncE output that follows a lane of the chiplet is squelched (R290, R454). -/
def execChipletRefclkLost (n : Fin 8) (s : State) : Result :=
  .next (s.when s.live (fun s => upTo 2 (fun k s => s.synceUpdate k false) (s.chipletLost n.val)))

end Sys2Proof.Machine
end

