-- ==== Sys2Proof/Machine/Startup.lean ====
section
/-!
DEFINITION. Start-up, the end of a full load, the reset kinds and the input filters (R67, R427 to R438), safe state (R398), and power
failure and recovery (R368, R369, R387).
-/
namespace Sys2Proof.Machine
open Reg

/-! ### What each kind keeps (R431) -/

/-- Fields that every reset but power-on keeps: those whose Reset column is a dash (R14), and the pin-filter registers
(R431). -/
def dashFields : List Fld :=
  (CORE.fields ++ IMG.fields ++ CRUC.fields ++ TIME.fields ++ ANVL.fields ++ FLT.fields ++ GLB.fields).filter (fun f => f.keep) ++
  [GLB.PIN_LEVEL, GLB.PIN_STUCK]

/-- A dash field keeps its value through every reset but power-on. -/
def keepsValue (k : Nat) : Bool := dashFields.any (fun f => f.hasKey k)


/-- A bit address lies in the HOST block. -/
def inHostBlock (k : Nat) : Bool := inRange (0xD00000 * 8) (0xE00000 * 8) k

/-- The registers after a module reset, or after a soft module reset, which keeps the HOST block. -/
def resetRegs (soft : Bool) (regs : Tab Nat) : Tab Nat :=
  regs.filter (fun c => keepsValue c.1 || (soft && inHostBlock c.1))

/-! ### Discards, safe state and the end of Assay (R398, R414, R423) -/

/-- A fresh MIL_NONCE (R412). -/
def State.freshNonce (s : State) : State :=
  State.draw { s with mil := { s.mil with nonce := (Config.freeNonce s.draws).toNat % 2 ^ 128 } }

/-- Every packet in the module is discarded. -/
def State.discardAll (s : State) : State := (s.discardPackets).2.xoffEval

/-- Module safe state: every front port enters SAFE, and every packet instance is discarded (R398). -/
def State.moduleSafe (s : State) : State :=
  let s := s.setB FLT.MODULE_SAFE true
  (s.portList.foldl (fun s p => s.portSafe p true) s).discardAll

/-! ### Step 4 of a full load (R67, R291, R356, R428) -/

/-- The time section: every trigger is disarmed and every gate stopped first (R291). -/
def State.trigRecApply (s : State) (x : List Byte) : State :=
  let n := byteAt x 0 % 16
  let s := ((s.setB TIME.T_EN true n).setB TIME.T_PERIODIC (bit (byteAt x 1) 1) n).set TIME.T_PERIOD (le x 4 4) n
  let s := (s.set TIME.T_TIME_NS (le x 8 4) n).set TIME.T_TIME_SEC (le x 0x10 8) n
  s.when (bit (byteAt x 1) 0) (fun s => s.trigArm n)

def State.gateRecApply (s : State) (x : List Byte) : State :=
  let p := le x 0 2
  let list := byteAt x 2
  let s := (s.fill (gateAddr p list 0) (x.drop 32)).when (bit (byteAt x 3) 0) (fun s => s.setB QSCH.GATE_EN true p)
  s.when (bit (byteAt x 3) 1) (fun s =>
    let s := ((s.set QSCH.ADMIN_LIST list p).set QSCH.ADMIN_LEN (le x 4 2) p).set QSCH.ADMIN_CYCLE (le x 8 4) p
    ((s.set QSCH.ADMIN_BASE_NS (le x 0x0C 4) p).set QSCH.ADMIN_BASE_SEC (le x 0x10 8) p).configChange p)

def State.timingApply (s : State) : State :=
  let s := upTo 16 (fun n s => s.trigDisarm n) s
  let s := upTo 1024 (fun p s =>
    ((s.setB QSCH.GATE_EN false p).setB QSCH.CONFIG_PENDING false p).setB QSCH.OPER_VALID false p) s
  let s := State.memZero { s with que := { s.que with gates := [] } } gateBase (gateBase + 0x1000000)
  let p := s.sect secTiming
  let trigs := le p 8 4
  let s := upTo trigs (fun i s => s.trigRecApply (slice p (0x10 + 32 * i) 32)) s
  ((gateRecs (p.drop (0x10 + 32 * trigs)) (le p 4 4)).getD []).foldl (fun s x => s.gateRecApply x) s

/-- The phase table, or its defaults without the section (R356). -/
def State.phasesApply (s : State) : State :=
  let p := s.sect secPhases
  let fields := [PWR.E_PREF_OP, PWR.E_MIN_OP, PWR.E_VALID, PWR.E_CAP, PWR.E_K, PWR.E_B_MAX]
  if p.isEmpty then
    State.phaseApply { s with regs := s.regs.filter (fun c => !fields.any (fun f => f.hasKey c.1)) } 0
  else
    let s := upTo 16 (fun n s =>
      let x := slice p (0x10 + 16 * n) 16
      let s := ((s.set PWR.E_PREF_OP (byteAt x 0) n).set PWR.E_MIN_OP (byteAt x 1) n).set PWR.E_VALID (byteAt x 2) n
      ((s.set PWR.E_CAP (le x 4 2) n).set PWR.E_K (byteAt x 6) n).set PWR.E_B_MAX (byteAt x 7) n) s
    s.phaseApply (le p 4 4)

/-! ### Pipe and port resets (R433 to R435) -/

/-- The reset itself. -/
def State.resetRun (s : State) (r : WaitReset) : State :=
  match r with
  | .pipe p => s.pipeReset p
  | .port p => s.portReset p

/-- The requests that waited for READY run. -/
def State.resetWaiting (s : State) : State :=
  let w := s.boot.waiting
  State.setB (w.foldl (fun s r => s.resetRun r) { s with boot := { s.boot with waiting := [] } }) GLB.BUSY false

/-- FULL_LOAD_READY: READY sets, the freeze of unchanged ports ends, TIMING and PHASE_TABLE take effect, and ports start. A
link that is not OK now is judged from this instant (R68). -/
def State.loadReady (s : State) (c : ImgCmd) : State :=
  let s := (s.setB IMG.READY true).set IMG.CONFIG_US (satTo 0xFFFF ((s.frc - c.at_) / (10 * ticksPerUs)))
  let kept := s.img.frozen
  let s := kept.foldl (fun s p => if s.linkOk p then s else s.putLink p { s.linkRec p with okAt := s.frc }) s
  let s := { s with img := { s.img with frozen := [] }, core := { s.core with idle := false } }
  let s := State.phasesApply (State.timingApply s)
  let s := s.when (s.get GLB.STEP == 7) (fun s => s.set GLB.STEP 8)
  let s := if c.op = 0 then (s.imgEnd { code := resOk }).imgShow { code := resOk } else s.imgEnd { code := resOk }
  let s := kept.foldl (fun s p => s.portSettle p) (upTo 2 (fun k s => s.synceUpdate k false) s)
  let s := s.allLines
  (s.portList.foldl (fun s p => s.portStart p) s).resetWaiting

def execFullLoadReady (s : State) : Result :=
  .next (match s.img.cmd with
    | some c => if c.phase == .configuring && s.live then s.loadReady c else s
    | none => s)

/-! ### Module-level resets -/

/-- The thermal latch of R367: THERM_TRIP_N stays asserted unless a module reset finds every working sensor cool for 1 s. -/
def State.thermLatch (s : State) (soft : Bool) : Bool :=
  s.pwr.thermTrip && (soft || match s.pwr.coolSince with
    | some t => !s.elapsed t (1000 * ticksPerMs)
    | none => true)

/-- The state that a module reset (`soft` false) or a soft module reset leaves before start-up goes on. -/
def State.resetTo (s : State) (soft : Bool) : State :=
  let latch := s.thermLatch soft
  let s := ((s.portList.foldl (fun s p => s.txCut p) s).linesOff).when soft (fun s => (s.dmaLinkEnd true).ringsStop)
  let s := { s with
    regs := resetRegs soft s.regs
    dev := s.dev.filter (fun c => decide (storeBase ≤ c.1) || (soft && decide (c.1 < 0x1000000)))
    time := { ppsSeen := s.time.ppsSeen, ppsLast := s.time.ppsLast, lastUpdate := s.time.lastUpdate }
    core := { trim := if soft then s.core.trim else [], trmAt := s.frc }
    pwr := { thermTrip := latch, coolSince := s.pwr.coolSince, sensorAt := s.pwr.sensorAt, vin := s.pwr.vin, winAt := s.frc,
             hoursAt := s.frc, hoursBank := if s.flag PWR.PFAIL then s.pwr.hoursBank else s.hoursTime }
    act := { secAt := s.frc }
    flt := { reported := s.flt.reported, queue := s.flt.queue, flogSecond := s.flt.flogSecond, flogCount := s.flt.flogCount,
             masks := if latch then s.flt.masks.filter (fun w => w.kind == 0) else [] }
    anvil := { redirect := s.anvil.redirect, journal := s.anvil.journal, remap := s.anvil.remap,
               poolNext := s.anvil.poolNext, shares := s.anvil.shares, since := s.frc }
    host := if soft then { s.host with dma := [], low := [], stallSince := [], coalAt := [] } else {}
    img := {}
    mil := { s.mil with service := false, spdm := 0 }
    assay := { repairs := s.assay.repairs }
    boot := { powered := s.boot.powered, soft := soft }
    buf := {}
    pipe := {}
    que := {}
    tele := {} }
  let s := s.freshNonce
  let s := s.anvil.shares.foldl (fun s x => s.set ANVL.SHARE x.2 x.1) s
  let s := s.setB GLB.THERM_HELD latch
  (s.when latch (fun s => s.setB FLT.MODULE_SAFE true)).refreshRow

/-- Step 3 of R428 is complete: Anvil has booted, and the module chooses its image (R429). In RETIRED, and while the thermal
latch holds, no bank is tried. While a power failure lasts, start-up does not go on: it resumes only through R369 or a power-on
(R435). -/
def State.bootOn (s : State) : State :=
  if s.flag PWR.PFAIL then s else
  let s := { s with boot := { s.boot with soft := false } }
  let s := (s.storeSense).set GLB.STEP 4
  let a := s.get IMG.BOOT_PREF
  let s := s.set GLB.FIRST_BANK a
  if s.lcState = lcRetired || s.pwr.thermTrip then ((s.set GLB.RESULT_FIRST 0xFE).set GLB.RESULT_SECOND 0xFE).bootTry []
  else s.bootTry [a, 1 - a]

/-- A module reset of a kind that LAST_KIND shows, from the release, write or decision that starts it (R432). A power failure
that lasts is not ended by it (R435; DEDUCED, log 66). -/
def State.moduleReset (s : State) (kind : Nat) : State :=
  let fails := s.flag PWR.PFAIL
  let s := (s.resetTo false).set GLB.LAST_KIND kind
  ((s.inc GLB.MODULE_RESETS).when fails (fun s => (s.setB PWR.PFAIL true).setB ANVL.PFAIL_COMMIT true)).bootOn

/-- A soft module reset; the blocks that R441 names do not answer until step 3. A power failure that lasts is ended by its
recovery alone, kind 5 (R369, R435; log 66). -/
def State.softReset (s : State) (kind : Nat) : State :=
  let fails := s.flag PWR.PFAIL && kind != 5
  let s := (s.resetTo true).set GLB.LAST_KIND kind
  ((s.inc GLB.MODULE_RESETS).when fails (fun s => (s.setB PWR.PFAIL true).setB ANVL.PFAIL_COMMIT true)).set GLB.STEP 2

/-- The soft module reset reaches step 3. -/
def State.softFinish (s : State) : State := if s.boot.soft then s.bootOn else s

/-- Time passes while no command waits: one tick of the timing clock while the rails are up (log 2), and a soft module reset
goes on. -/
def State.tick (s : State) : State :=
  if !s.boot.powered then s
  else
    let s := s.incWrap TIME.FRC
    s.when (!s.boot.held) (fun s => s.softFinish)

/-- The confirmation word of GLB_RESET_CMD (R438). -/
def resetConfirm : Nat := 0xD124

/-- A write of GLB_RESET_CMD: a soft reset requested during one is absorbed by it (R435), and a module reset prevails where
both bits are written (DESIGN CHOICE, log 29). -/
def State.resetCommand (s : State) (module soft : Bool) (confirm : Nat) : State :=
  if confirm != resetConfirm then s
  else if module then s.moduleReset 3
  else if soft && !s.boot.soft then s.softReset 4 else s

def execModuleReset (confirm : BitVec 16) (s : State) : Result :=
  .next (s.viaHost GLB.MODULE_RESET (fun s => s.resetCommand true false confirm.toNat))

def execSoftReset (confirm : BitVec 16) (s : State) : Result :=
  .next (s.viaHost GLB.SOFT_RESET (fun s => s.resetCommand false true confirm.toNat))

/-- POWER_ON: everything but the module store and the fuses starts afresh, with the FRC at 0; RESET_N low at step 2 stops the
sequence there (R427, R428, R431). `addr`: SMB_ADDR[1:0] as sampled at step 2. -/
def State.powerOn (s : State) (addr : Nat) (resetLow : Bool) : State :=
  let s : State := { State.reset with
    pending := s.pending
    draws := s.draws
    outbox := s.outbox
    dev := s.dev.filter (fun c => decide (storeBase ≤ c.1))
    anvil := { journal := s.anvil.journal, remap := s.anvil.remap, poolNext := s.anvil.poolNext }
    mil := { s.mil with service := false, spdm := 0 }
    assay := { repairs := s.assay.repairs.filter (fun r => r.fused) }
    pins := { pgood := true, smbAddr := addr % 4 }
    boot := { powered := true, held := resetLow, cold := resetLow } }
  let s := s.freshNonce.refreshRow
  if resetLow then (s.set GLB.STEP 2).setB GLB.PIN_LEVEL true 0 else s.bootOn

def execPowerOn (addr : BitVec 2) (resetLow : Bool) (s : State) : Result := .next (s.powerOn addr.toNat resetLow)

/-- RESET_N_ASSERT: held in reset, unless it begins within 10 ms of the previous release (R430, R436). -/
def State.resetAssert (s : State) : State :=
  let rel := tabGet 0 s.pins.releasedAt 0
  if !s.boot.powered || s.boot.held then s
  else if rel != 0 && !s.elapsed (rel - 1) (10 * ticksPerMs) then s.inc GLB.PIN_EXCESS 0
  else
    let s := { s with pins := { s.pins with acceptedAt := tabPut s.pins.acceptedAt 0 (s.frc + 1) } }
    let s := ((s.setB GLB.PIN_LEVEL true 0).discardAll).linesOff
    { s with boot := { s.boot with held := true } }

def execResetNAssert (s : State) : Result := .next s.resetAssert

/-- RESET_N_RELEASE: the module reset sequence runs; a stuck input's fault is raised at release, with the hold time in ms
(R432, R437). A power-on that was held goes on (R428). -/
def State.resetRelease (s : State) : State :=
  if !s.boot.held then s
  else
    let t0 := tabGet 0 s.pins.acceptedAt 0 - 1
    let stuck := s.flag GLB.PIN_STUCK 0
    let cold := s.boot.cold
    let s := { s with
      pins := { s.pins with releasedAt := tabPut s.pins.releasedAt 0 (s.frc + 1) }
      boot := { s.boot with held := false, cold := false } }
    let s := if cold then s.bootOn else s.moduleReset 1
    (s.setB GLB.PIN_LEVEL false 0).when stuck (fun s =>
      (s.setB GLB.PIN_STUCK false 0).fault srcResetStuck 0 (satTo 0xFFFFFFFF ((s.frc - t0) / ticksPerMs)))

def execResetNRelease (s : State) : Result := .next s.resetRelease

/-! ### Requests for pipe and port resets (R435) -/

/-- A request: absorbed by a soft module reset, ignored in RETIRED or while no image runs, waiting while a full load configures
(R435). -/
def State.resetRequest (s : State) (r : WaitReset) : State :=
  if s.boot.soft then s
  else if s.lcState = lcRetired || s.get IMG.RUN_SRC = 0 && !s.imgConfiguring then s.setB GLB.IGNORED true
  else if s.imgConfiguring then
    State.setB { s with boot := { s.boot with waiting := s.boot.waiting ++ [r] } } GLB.BUSY true
  else s.resetRun r

/-- A write of PIPE_GO with a pipe number. -/
def State.pipeGo (s : State) (n : Nat) : State := s.when (decide (n < 64)) (fun s => s.resetRequest (.pipe n))

/-- A write of PORT_GO: ignored for a number that is not the first lane of a port (R438). -/
def State.portGo (s : State) (n : Nat) : State :=
  if s.boot.soft then s
  else if s.lcState = lcRetired || s.get IMG.RUN_SRC = 0 && !s.imgConfiguring then s.setB GLB.IGNORED true
  else s.when (s.isPort n) (fun s => s.resetRequest (.port n))

def execPipeGo (target : BitVec 11) (s : State) : Result :=
  .next (s.viaHost GLB.PIPE_GO (fun s => (s.set GLB.TARGET target.toNat).pipeGo target.toNat))

def execPortGo (target : BitVec 11) (s : State) : Result :=
  .next (s.viaHost GLB.PORT_GO (fun s => (s.set GLB.TARGET target.toNat).portGo target.toNat))

/-! ### Input filters (R436, R437) -/

/-- INPUT_GLITCH: a pulse shorter than the accept time, or (`excess`) an activation too soon after the last. -/
def execInputGlitch (pin : Fin 5) (excess : Bool) (s : State) : Result :=
  .next (s.when s.boot.powered (fun s => s.inc (if excess then GLB.PIN_EXCESS else GLB.PIN_GLITCHES) pin.val))

/-- The fault of an input that becomes stuck: RESET_N's is raised at its release (R437). -/
def stuckSource (pin : Nat) : Option Nat :=
  if pin = 0 then none else if pin = 1 then some srcWarnStuck else if pin = 2 then some srcPpsStuck else some srcTrigStuck

/-- An accepted input has been active for the time that makes it stuck: 2 s for PPS_IN, 1 s for the others. An activation that
began before the model saw the pin is taken as the event says (R436, log 13). -/
def State.activeLong (s : State) (pin : Nat) : Bool :=
  let at_ := tabGet 0 s.pins.acceptedAt pin
  !s.flag GLB.PIN_LEVEL pin || at_ == 0 || s.elapsed (at_ - 1) ((if pin = 2 then 2000 else 1000) * ticksPerMs - acceptTicks)

/-- INPUT_STUCK: PWR_WARN_N counts as stuck only with VIN at 40 V or more (R436). -/
def State.inputStuck (s : State) (pin : Nat) : State :=
  if s.flag GLB.PIN_STUCK pin || (pin == 1 && decide (s.pwr.vin < 40000)) || !s.activeLong pin then s
  else
    let s := ((s.setB GLB.PIN_LEVEL true pin).setB GLB.PIN_STUCK true pin).event GLB.PIN_STUCK_EVT pin true sumPin
    match stuckSource pin with
    | some src => s.fault src
    | none => s

def execInputStuck (pin : Fin 5) (s : State) : Result := .next (s.inputStuck pin.val)

/-- INPUT_UNSTUCK: inactive for the release time. RESET_N is released by RESET_N_RELEASE. -/
def State.inputUnstuck (s : State) (pin : Nat) : State :=
  if pin = 0 then s
  else
    let s := { s with pins := { s.pins with releasedAt := tabPut s.pins.releasedAt pin (s.frc + 1) } }
    (s.setB GLB.PIN_LEVEL false pin).setB GLB.PIN_STUCK false pin

def execInputUnstuck (pin : Fin 5) (s : State) : Result := .next (s.inputUnstuck pin.val)

/-! ### Power failure (R368, R369, R387) -/

/-- The fault records of R395: the history ring oldest first, FIRST last, each from its register words. -/
def State.pfailRecords (s : State) (ok : Bool) : State :=
  let n := s.get FLT.HIST_COUNT
  let h := s.get FLT.HIST_HEAD
  let line := fun (f : Nat → Nat) => (List.range 8).flatMap (fun k => leBytes 4 (f k))
  let s := upTo n (fun j s =>
    let i := (h + 32 - n + j) % 32
    s.journalWrite 6 (line (fun k => s.get FLT.HIST i k)) ok) s
  s.when (s.flag FLT.FIRST_VALID) (fun s => s.journalWrite 6 (line (fun k => s.get FLT.FIRST k)) ok)

/-- The sequence of R368: admission stops, rings and DMA stop, lanes power down, the target becomes OP0, and Anvil commits
the records (R387). A module-store command in progress ends with STORE. -/
def State.powerFail (s : State) (f : Fetch) (ok : Bool) : State :=
  let s := { s with pwr := { s.pwr with hoursBank := s.hoursTime } }
  let s := s.setB PWR.PFAIL true
  let s := ((s.ringsStop).dmaLinkEnd true).imgStoreAbort
  let s := (s.allPortsDisabled).retarget
  let s := s.assayStop 5
  let s := { s with anvil := { s.anvil with frame := none, traps := 0, waitAt := [], starved := [] } }
  let s := s.setB ANVL.PFAIL_COMMIT true
  s.anvilOwn f (fun s => ((s.hoursCommit ok).migrationAbandon).pfailRecords ok)

/-- POWER_FAIL: PWR_WARN_N accepted asserted (`pin`), or VIN below 34 V in two consecutive samples. A stuck pin is ignored, one
within 10 ms of its deassertion is counted in EXCESS, and while PFAIL is set an assertion shows in LEVEL alone (R436, R437). -/
def State.powerFailEvent (s : State) (pin : Bool) (f : Fetch) (ok : Bool) : State :=
  let rel := tabGet 0 s.pins.releasedAt 1
  if !s.boot.powered then s
  else if pin then
    if s.flag GLB.PIN_STUCK 1 then s
    else
      let s := s.setB GLB.PIN_LEVEL true 1
      if s.flag PWR.PFAIL then s
      else if rel != 0 && !s.elapsed (rel - 1) (10 * ticksPerMs) then s.inc GLB.PIN_EXCESS 1
      else State.powerFail { s with pins := { s.pins with acceptedAt := tabPut s.pins.acceptedAt 1 (s.frc + 1) } } f ok
  else s.when (decide (2 ≤ s.pwr.vinLow) && !s.flag PWR.PFAIL) (fun s => s.powerFail f ok)

def execPowerFail (pin : Bool) (f : Fetch) (ok : Bool) (s : State) : Result := .next (s.powerFailEvent pin f ok)

/-- PFAIL_DONE: the commit is complete (R368 step 5). -/
def execPfailDone (s : State) : Result := .next (s.when (s.flag PWR.PFAIL) (fun s => s.setB PWR.PFAIL_DONE true))

/-- POWER_RECOVERY: the input has stayed above 36 V for 10 ms with PWR_WARN_N deasserted or stuck (R369, R437). -/
def State.powerRecovery (s : State) : State :=
  let pinOk := !s.flag GLB.PIN_LEVEL 1 || s.flag GLB.PIN_STUCK 1
  let vinOk := match s.pwr.goodSince with | some t => s.elapsed t (10 * ticksPerMs) | none => false
  s.when (s.flag PWR.PFAIL && pinOk && vinOk) (fun s => s.softReset 5)

def execPowerRecovery (s : State) : Result := .next s.powerRecovery

end Sys2Proof.Machine
end

