-- ==== Sys2Proof/Machine/HostLink.lean ====
section
/-!
DEFINITION. The host link (R317, R322, R428): its events, and what writes of configuration space do.
-/
namespace Sys2Proof.Machine
open Reg

/-- Transfers and image fetches that use the host space end, at a link event (R322). -/
def State.linkEvent (s : State) : State := (s.dmaLinkEnd false).imgLinkEvent

/-- PERST_N asserted, hot reset or link down: configuration space and the MSI-X table return to their reset values, and messages
not yet sent, those of the transfers that end now among them, are dropped. -/
def State.pcieDown (s : State) : State :=
  let s := (((s.setB HOST.LINK_UP false).setB HOST.BUS_MASTER false).setB HOST.D3HOT false).linkEvent
  State.hostEvent { s with host := { s.host with msix := [], pba := 0, funcMask := false, cfg := [], coalAt := [] } }
    HOST.LINK_DOWN_EVT

def execPcieLinkDown (s : State) : Result := .next (s.when s.live (fun s => s.pcieDown))

/-- PCIE_LINK_UP with the trained speed (1–5) and width. -/
def execPcieLinkUp (speed : BitVec 4) (width : BitVec 4) (s : State) : Result :=
  .next (s.when s.live (fun s =>
    ((s.set HOST.LINK_SPEED speed.toNat).set HOST.LINK_WIDTH width.toNat).setB HOST.LINK_UP true))

/-- Bus Master Enable is cleared. -/
def State.masterOff (s : State) : State := (s.setB HOST.BUS_MASTER false).linkEvent

def execBusMasterDisable (s : State) : Result := .next (s.when s.live (fun s => s.masterOff))

/-- The function enters D3hot. -/
def State.d3Enter (s : State) : State := (s.setB HOST.D3HOT true).linkEvent

def execD3hotEntry (s : State) : Result := .next (s.when s.live (fun s => s.d3Enter))

/-- HOST_RESUME: Bus Master Enable is 1 and the function is in D0; held messages go out. -/
def execHostResume (s : State) : Result :=
  .next (s.when s.live (fun s => ((s.setB HOST.BUS_MASTER true).setB HOST.D3HOT false).msixReleaseAll))

/-- MSIX_UNMASK of a vector: its mask bit clears and a pending message is sent (R323). -/
def execMsixUnmask (v : Fin 256) (s : State) : Result :=
  .next (s.when s.live (fun s =>
    State.msixRelease { s with host := { s.host with msix := tabPut s.host.msix (4 * v.val + 3) 0 } } v.val))

/-! ### Configuration writes (R318, R322, R323) -/

/-- A write of the Command register: Bus Master Enable, which is HOST.BUS_MASTER. -/
def State.cfgMaster (s : State) (on : Bool) : State :=
  if on then (s.setB HOST.BUS_MASTER true).msixReleaseAll else s.when (s.flag HOST.BUS_MASTER) (fun s => s.masterOff)

/-- A write of PowerState: D0 and D3hot are the states that the module supports (R317); another value changes nothing. -/
def State.cfgPower (s : State) (v : Nat) : State :=
  if v = 0 then (s.setB HOST.D3HOT false).msixReleaseAll
  else if v = 3 then s.when (!s.flag HOST.D3HOT) (fun s => s.d3Enter) else s

/-- A write of the function mask; held messages go out when it clears (R323). -/
def State.cfgMask (s : State) (on : Bool) : State :=
  State.msixReleaseAll { s with host := { s.host with funcMask := on } }

/-- A host write of a word of configuration space. -/
def State.cfgWrite (s : State) (off v : Nat) : State :=
  let s := s.cfgStore off v
  if off = cfgCommand then s.cfgMaster (bit v 2)
  else if off = cfgPmCsr then s.cfgPower (bits v 0 2)
  else if off = cfgMsix then s.cfgMask (bit v 30)
  else s

end Sys2Proof.Machine
end

