-- ==== Sys2Proof/Machine/Faults.lean ====
section
/-!
DEFINITION. The fault unit (R389 to R406): deciding, recording, reacting, masking and injecting.
-/
namespace Sys2Proof.Machine
open Reg

/-! ### Records (R393, R394) -/

/-- CLASS of a record. -/
def FaultRec.classByte (r : FaultRec) : Nat :=
  r.cls + 4 * b2n r.escalated + 8 * b2n r.suppressed + 16 * b2n r.injected

/-- The 32 B record, RING 0. -/
def FaultRec.bytes (r : FaultRec) : List Byte :=
  leBytes 1 0x40 ++ leBytes 1 r.src ++ leBytes 1 r.classByte ++ leBytes 1 r.react ++
  leBytes 2 (r.index % 4096 + 4096 * r.kind) ++ leBytes 2 (satTo 0xFFFF r.count) ++ leBytes 8 r.frc ++
  leBytes 4 r.detail ++ leBytes 4 r.seq ++ zeros 8

/-- Write a record into the eight words of a register array. -/
def State.recWords (s : State) (f : Fld) (r : FaultRec) (i : Nat) (first : Bool) : State :=
  upTo 8 (fun k s => if first then s.set f (le r.bytes (4 * k) 4) k else s.set f (le r.bytes (4 * k) 4) i k) s

/-! ### Masks (R402, R403) -/

/-- Groups whose sources a window of a kind masks. -/
def maskGroups (kind : Nat) : List Nat :=
  if kind = 0 then [3, 12, 7, 4, 6, 10] else if kind = 1 then [3, 12, 7] else [3, 12, 7, 4, 6]

/-- Whether a scope (kind, index) lies within the scope of a window. -/
def State.maskScope (s : State) (w : MaskWin) (kind index : Nat) : Bool :=
  if w.kind = 0 then true
  else if w.kind = 1 then
    (kind == 1 && index == w.index) || (kind == 5 && s.portOfLane index == some w.index)
  else
    (kind == 2 && index == w.index) || (kind == 1 && index == recircPort w.index) ||
    ((kind == 1 || kind == 5) && decide (index < 1024) && pipeOf index == w.index)

/-- The windows that mask an event: none for the raising source, nor for a fatal source. -/
def State.maskFor (s : State) (src kind index : Nat) : List MaskWin :=
  if s.get FLT.S_BASE_CLASS src = 3 then []
  else s.flt.masks.filter (fun w =>
    w.raiser != src && (maskGroups w.kind).contains (src / 16) && s.maskScope w kind index &&
    (match w.until_ with | some e => decide (s.frc < e) | none => true))

/-- Open a window. -/
def State.maskOpen (s : State) (kind index raiser : Nat) (ms : Option Nat) : State :=
  let e := match ms with | some m => some (s.frc + m * ticksPerMs) | none => none
  let w : MaskWin := { kind := kind, index := index, until_ := e, raiser := raiser, seen := [] }
  { s with flt := { s.flt with masks := s.flt.masks ++ [w] } }

/-! ### Deciding (R391, R392, R394) -/

/-- The event enters the recorder queue, or LOST counts it. -/
def State.recQueue (s : State) (r : FaultRec) : State :=
  if 64 ≤ s.flt.queue.length then s.inc FLT.LOST
  else { s with flt := { s.flt with queue := s.flt.queue ++ [r] } }

/-- FIRST captures the record if it is free and the class is high enough. -/
def State.firstCapture (s : State) (r : FaultRec) : State :=
  if !s.flag FLT.FIRST_VALID && decide (s.get FLT.FIRST_MIN ≤ r.cls) then
    (s.recWords FLT.FIRST r 0 true).setB FLT.FIRST_VALID true
  else s

/-- Escalation counting of a note or minor source: the count after this event, whether it escalates, and the new state. -/
def State.escalate (s : State) (src : Nat) : Nat × Bool × State :=
  let n := s.get FLT.S_N src
  let fresh := match tabFind s.flt.esc src with
    | some (start, _) => s.elapsed start (s.get FLT.S_W src * ticksPerMs + 1)
    | none => true
  let cnt := if fresh then 1 else (tabGet (0, 0) s.flt.esc src).2 + 1
  let start := if fresh then s.frc else (tabGet (0, 0) s.flt.esc src).1
  if n != 0 && decide (n ≤ cnt) then (cnt, true, { s with flt := { s.flt with esc := tabDel s.flt.esc src } })
  else (cnt, false, { s with flt := { s.flt with esc := tabPut s.flt.esc src (start, cnt) } })

/-- A masked event: SUPPRESSED counts it, and it is recorded where it is the first of its source in one of the windows that
mask it (R403). -/
def State.decideMasked (s : State) (e : FaultEvt) (kind seq : Nat) (ws : List MaskWin) : State :=
  let cls := s.get FLT.S_BASE_CLASS e.src
  let s := ((s.inc FLT.S_SUPPRESSED e.src).inc FLT.S_EVENTS e.src).set FLT.WORST (max cls (s.get FLT.WORST))
  if ws.all (fun w => w.seen.contains e.src) then s
  else
    let masks := s.flt.masks.map (fun x => if ws.contains x then { x with seen := e.src :: x.seen } else x)
    let s := { s with flt := { s.flt with masks := masks } }
    s.recQueue { src := e.src, cls := s.get FLT.S_BASE_CLASS e.src, escalated := false, suppressed := true,
                 injected := e.injected, react := 0, kind := kind, index := e.index,
                 count := (tabGet (0, 0) s.flt.esc e.src).2, frc := s.frc, detail := e.detail, seq := seq }

/-! ### Reactions (R396 to R398) -/

/-- INT: INT_PENDING sets; when it rises the FAULT_VECTOR message is sent. -/
def State.faultInt (s : State) : State :=
  if s.flag FLT.INT_PENDING then s else (s.setB FLT.INT_PENDING true).msixSend (s.get HOST.FAULT_VECTOR)

/-- The port reset or pipe reset of BLOCK_RESET. -/
def State.blockReset (s : State) (kind index : Nat) : State :=
  if kind = 1 then s.resetRequest (.port index) else if kind = 2 then s.resetRequest (.pipe index) else s

/-- PORT_SAFE of a port. -/
def State.portSafeReact (s : State) (index : Nat) : State :=
  if s.isPort index then (s.setBit FLT.PORT_SAFE (index % 32) (index / 32)).portSafe index false else s

/-- The mask windows of a decision open before its consequences can arrive (R402, R403). -/
def State.maskReact (s : State) (src kind index set : Nat) : State :=
  let s := s.when (bit set 3) (fun s => s.maskOpen 0 0 src none)
  let s := s.when ((bit set 2 || bit set 1) && kind == 1) (fun s => s.maskOpen 1 index src (some (s.get FLT.MASK_PORT)))
  s.when (bit set 1 && kind == 2) (fun s => s.maskOpen 2 index src (some (s.get FLT.MASK_PIPE)))

/-- The reactions of a decision, in the order of R397. -/
def State.react (s : State) (src kind index set : Nat) : State :=
  let s := s.maskReact src kind index set
  let s := s.when (bit set 3) (fun s => s.moduleSafe)
  let s := s.when (bit set 2) (fun s => s.portSafeReact index)
  let s := s.when (bit set 1) (fun s => s.blockReset kind index)
  let s := s.when (bit set 4) (fun s => s.setB FLT.FAULT_ACTIVE true)
  let s := s.when (bit set 0) (fun s => s.faultInt)
  let s := s.when (bit set 5) (fun s => s.setB FLT.ALIVE_STOPPED true)
  s.when (bit set 6) (fun s =>
    { s with flt := { s.flt with autoResetAt := some (s.flt.autoResetAt.getD (s.frc + 10 * ticksPerMs)) } })

/-- The reactions performed for a decided event: the source's set for it, less those that its scope does not allow (R397),
and the ALIVE stop of every severe or fatal decision (R396). -/
def State.reactSet (s : State) (src kind cls : Nat) (escalated : Bool) : Nat :=
  let set := if escalated then s.get FLT.S_REACT_ESC src else s.get FLT.S_REACT_BASE src
  let set := if kind = 1 then set else bitClear set 2
  let set := if kind = 1 || kind = 2 then set else bitClear set 1
  if 2 ≤ cls then bitSet set 5 else set

/-- An event that no window masks is decided. -/
def State.decideOpen (s : State) (e : FaultEvt) (kind seq : Nat) : State :=
  let base := s.get FLT.S_BASE_CLASS e.src
  let (cnt, esc, s) := if base ≤ 1 then s.escalate e.src else (0, false, s)
  let cls := if esc then 2 else base
  let set := s.reactSet e.src kind cls esc
  let r : FaultRec := { src := e.src, cls := cls, escalated := esc, suppressed := false, injected := e.injected,
                        react := set, kind := kind, index := e.index, count := cnt, frc := s.frc, detail := e.detail,
                        seq := seq }
  let s := (s.inc FLT.S_EVENTS e.src).set FLT.WORST (max cls (s.get FLT.WORST))
  let s := { s with flt := { s.flt with fatal := s.flt.fatal || cls == 3 } }
  ((s.firstCapture r).recQueue r).react e.src kind e.index set

/-- FAULT_DECISION: the oldest reported event is decided (R392, R394). -/
def State.faultDecide (s : State) : State :=
  match s.flt.reported with
  | [] => s
  | e :: rest =>
    let s := { s with flt := { s.flt with reported := rest } }
    let kind := e.kind.getD (s.get FLT.S_SCOPE_KIND e.src)
    let seq := s.get FLT.SEQ
    let s := s.incWrap FLT.SEQ
    match s.maskFor e.src kind e.index with
    | [] => s.decideOpen e kind seq
    | ws => s.decideMasked e kind seq ws

/-- FAULT_DECISION. While the module is held in reset nothing is decided: FAULT_N does not change (R400). -/
def execFaultDecision (s : State) : Result := .next (s.when s.live (fun s => s.faultDecide))

/-- The ALIVE pin toggles: not after a severe or fatal decision, and not while the module is held in reset (R400). -/
def State.alive (s : State) : Bool := s.live && !s.flag FLT.ALIVE_STOPPED

/-! ### The recorder (R394, R395) -/

/-- The history ring's next entry. -/
def State.histWrite (s : State) (r : FaultRec) : State :=
  let h := s.get FLT.HIST_HEAD
  let s := s.recWords FLT.HIST r h false
  (s.set FLT.HIST_HEAD ((h + 1) % 32)).set FLT.HIST_COUNT (min 32 (s.get FLT.HIST_COUNT + 1))

/-- The event ring, when it is enabled and the class is high enough. -/
def State.ringRecord (s : State) (r : FaultRec) : State :=
  if s.flag FLT.FAULT_RING_EN && decide (s.get FLT.EVR_MIN ≤ r.cls) then
    let (s, done) := s.eventRingWrite (s.get FLT.FAULT_RING) (r.bytes.take 28)
    if done then s else s.inc FLT.EVR_LOST
  else s

/-- A module-store fault line (R395). -/
def State.faultLine (s : State) (bytes : List Byte) (ok : Bool) : State := s.journalWrite 6 bytes ok

/-- The module-store ring: at most 1,000 lines in a second (R385, R394). -/
def State.storeRecord (s : State) (r : FaultRec) (ok : Bool) : State :=
  if r.cls < s.get FLT.FLOG_MIN then s
  else
    let fresh := s.elapsed s.flt.flogSecond (1000 * ticksPerMs)
    let start := if fresh then s.frc else s.flt.flogSecond
    let cnt := if fresh then 0 else s.flt.flogCount
    if 1000 ≤ cnt then s.inc FLT.FLOG_LOST
    else State.faultLine { s with flt := { s.flt with flogSecond := start, flogCount := cnt + 1 } } r.bytes ok

/-- FAULT_RECORD: the recorder takes one event (the sampling counters' event 0x42, R312); `ok` false: its module-store line does not read back (R384). -/
def State.faultRecord (s : State) (ok : Bool) : State :=
  match s.flt.queue with
  | [] => s
  | r :: rest =>
    State.storeRecord (((State.histWrite { s with flt := { s.flt with queue := rest } } r).tally 127 evFault).ringRecord r) r ok

def execFaultRecord (ok : Bool) (s : State) : Result := .next (s.faultRecord ok)

/-- MASK_WINDOW_END: windows whose length has elapsed close (R403). -/
def State.maskEnd (s : State) : State :=
  let open_ := s.flt.masks.filter (fun w => match w.until_ with | some e => decide (s.frc < e) | none => true)
  { s with flt := { s.flt with masks := open_ } }

def execMaskWindowEnd (s : State) : Result := .next s.maskEnd

/-- AUTO_RESET: 10 ms after the decision a module reset starts (R397). -/
def State.autoReset (s : State) : State :=
  match s.flt.autoResetAt with
  | some t => if t ≤ s.frc then s.moduleReset 2 else s
  | none => s

def execAutoReset (s : State) : Result := .next s.autoReset

/-! ### Commands of the FLT block (R399, R400, R405) -/

def execFirstClr (s : State) : Result := .next (s.viaHost FLT.FIRST_CLR (fun s => ((s.setB FLT.FIRST_VALID false).set FLT.WORST 0)))

def execFaultNClr (s : State) : Result := .next (s.viaHost FLT.FAULT_N_CLR (fun s => (s.when (!s.flt.fatal) (fun s => s.setB FLT.FAULT_ACTIVE false))))

def execAliveRestart (s : State) : Result := .next (s.viaHost FLT.ALIVE_RESTART (fun s => (s.when (!s.flt.fatal) (fun s => s.setB FLT.ALIVE_STOPPED false))))

/-- PORT_SAFE_RELEASE: the port leaves SAFE for DISABLED and proceeds under R90 (R399); module safe state is not ended by
it (R398). -/
def State.portSafeRelease (s : State) (p : Nat) : State :=
  if s.bitOf FLT.PORT_SAFE (p % 32) (p / 32) then
    let s := s.clearBit FLT.PORT_SAFE (p % 32) (p / 32)
    if s.flag FLT.MODULE_SAFE then s else s.portLeaveSafe p
  else s

def execPortSafeRelease (p : Fin 1024) (s : State) : Result := .next (s.viaHost FLT.PORT_SAFE (fun s => (s.portSafeRelease p.val)))

/-- INJ_GO is ignored, and INJ_REFUSED sets, outside MANUFACTURE, for kind 0, and for kind 1 with a source that does not
exist (R405). -/
def State.injGate (s : State) (f : State → State) : State :=
  let kind := s.get FLT.INJ_KIND
  if s.lcState != lcManufacture || kind == 0 || (kind == 1 && !s.flag FLT.S_IMPLEMENTED (s.get FLT.INJ_SRC)) then
    s.setB FLT.INJ_REFUSED true
  else f s

/-- Kind 1: the source reports one event at scope INJ_SCOPE. -/
def State.injEvent (s : State) : State :=
  let scope := s.get FLT.INJ_SCOPE
  let e : FaultEvt := { src := s.get FLT.INJ_SRC, index := scope % 4096, detail := 0, injected := true,
                        kind := some (scope / 4096) }
  { s with flt := { s.flt with reported := s.flt.reported ++ [e] } }

/-- Kind 2: the next write to a word inverts bits of it. -/
def State.injMemory (s : State) : State :=
  let cruc := s.flag FLT.INJ_CRUC
  let m : MemInj := { cruc := cruc, target := s.get FLT.INJ_TARGET % 2 ^ (if cruc then 25 else 36), nbits := s.get FLT.INJ_BITS }
  { s with flt := { s.flt with injMem := s.flt.injMem ++ [m] } }

/-- Kind 3: transmitted bits of a lane in UP are inverted in the modes of R102. -/
def State.injLane (s : State) : State :=
  let lane := s.get FLT.INJ_TARGET % 1024
  match s.portOfLane lane with
  | some p => if s.portUp p then s.laneInject lane else s
  | none => s

/-- A write of INJ_GO, by the kind that INJ_KIND selects. -/
def State.injGo (s : State) : State :=
  s.injGate (fun s =>
    match s.get FLT.INJ_KIND with
    | 1 => s.injEvent
    | 2 => s.injMemory
    | _ => s.injLane)

def execInjectEvent (s : State) : Result :=
  .next (s.viaHost FLT.INJ_GO (fun s => (s.injGate (fun s => if s.get FLT.INJ_KIND = 1 then s.injEvent else s))))

def execInjectMemory (s : State) : Result :=
  .next (s.viaHost FLT.INJ_GO (fun s => (s.injGate (fun s => if s.get FLT.INJ_KIND = 2 then s.injMemory else s))))

def execInjectLane (s : State) : Result :=
  .next (s.viaHost FLT.INJ_GO (fun s => (s.injGate (fun s => if s.get FLT.INJ_KIND = 3 then s.injLane else s))))

end Sys2Proof.Machine
end

