-- ==== Sys2Proof/Machine/Security.lean ====
section
/-!
DEFINITION. The life cycle and Milest's commands (R407 to R416), attestation (R417, R418), JTAG (R419) and Assay (R421 to
R424).
-/
namespace Sys2Proof.Machine
open Reg

/-! ### Milest commands (R411 to R413) -/

/-- The fields of a command block (R411). -/
def blkCommand (b : List Byte) : Nat := le b 4 2
def blkSlot (b : List Byte) : Nat := le b 6 1
def blkArg (b : List Byte) (k : Nat) : Nat := byteAt b (0x20 + k)
def blkKey (b : List Byte) : List Byte := slice b 0x40 96

/-- How many ARG bytes a command uses (R413). -/
def argBytes (code : Nat) : Nat := if code = 2 then 32 else if code = 1 || code = 5 || code = 6 then 1 else 0

/-- The states in which a command is allowed (R413). -/
def commandAllowed (code lc : Nat) : Bool :=
  if code ≤ 3 then lc == lcManufacture else if code = 4 then lc == lcField else lc != lcRetired

/-- The command is signed in the current state: never in MANUFACTURE (R412, R413). -/
def State.slotFused (s : State) (k : Nat) : Bool := (tabFind s.mil.slots k).isSome

/-- Some fused slot other than `k` stays unrevoked. -/
def State.otherSlot (s : State) (k : Nat) : Bool :=
  (List.range 4).any (fun j => j != k && s.slotFused j && !bit s.mil.revoked j)

/-- Step 9: ARG is valid for the command. -/
def State.argOk (s : State) (code : Nat) (b : List Byte) : Bool :=
  let a := blkArg b 0
  if code = 1 then decide (1 ≤ a) && decide (a ≤ 3) && !s.slotFused a
  else if code = 2 then s.mil.imageKey.isNone
  else if code = 5 then
    decide (a ≤ 3) && a != blkSlot b && s.otherSlot a
  else if code = 6 then decide (s.mil.floor < a)
  else true

/-- The checks of R412 in order: the first failure's result, 0 when the block passes. -/
def State.milestCheck (s : State) (b : List Byte) : Nat :=
  let code := blkCommand b
  let signed := s.lcState != lcManufacture
  let n := argBytes code
  if b.length < 256 || s.get MIL.CMD_ADDR % 64 != 0 then 0x09
  else if le b 0 4 != 0x4D434C4D || code == 0 || decide (7 < code) || le b 7 1 != 0 || !zeroBytes b (0x20 + n) (32 - n) then
    0x01
  else if le b 8 8 != s.mil.serial then 0x02
  else if le b 0x10 16 != s.mil.nonce then 0x03
  else if !commandAllowed code s.lcState then 0x04
  else if signed && (decide (3 < blkSlot b) || !s.slotFused (blkSlot b) || bit s.mil.revoked (blkSlot b)) then 0x05
  else if signed && tabFind s.mil.slots (blkSlot b) != some (sha384 (blkKey b)) then 0x06
  else if signed && !ecdsaVerify (blkKey b) (b.take 64) (slice b 0xA0 48) (slice b 0xD0 48) then 0x07
  else if !s.argOk code b then 0x08
  else 0x00

/-- The memories of R414 step 4: the Bezel window, the match-action and lookup memories, the counter and flow stores, the flow
caches, and Crucible, whose ingots are all free by then. -/
def State.zeroMemories (s : State) : State :=
  let s := (s.memZero 0 queueBase).memZero counterBase storeBase
  { s with
    flt := { s.flt with injHit := s.flt.injHit.filter (fun h =>
      !(decide (h.1 < queueBase) || inRange counterBase storeBase h.1)) }
    tele := { s.tele with flows := [] } }

/-- Steps 1 to 3 of R414: the image command ends, ports go to DISABLED, every instance is discarded, rings and DMA stop. -/
def State.stopTraffic (s : State) : State :=
  let s := s.imgEndRunning 0x16
  let s := s.allPortsDisabled
  ((s.discardAll).ringsStop).dmaLinkEnd true

/-- The effect of a command that has passed its checks (R413 to R416). -/
def State.milestEffect (s : State) (code : Nat) (b : List Byte) : State :=
  let a := blkArg b 0
  match code with
  | 1 => { s with mil := { s.mil with slots := tabPut s.mil.slots a (sha384 (blkKey b)) } }
  | 2 => { s with mil := { s.mil with imageKey := some (slice b 0x20 32) } }
  | 3 => State.setB { s with mil := { s.mil with fused := .field } } CORE.LOOP_EN true
  | 4 =>
    let s := s.stopTraffic.zeroMemories
    let s := s.portList.foldl (fun s p => s.setB PORT.ADMIN_UP false p) s
    { s with mil := { s.mil with service := true } }
  | 5 => { s with mil := { s.mil with revoked := bitSet s.mil.revoked a } }
  | 6 => { s with mil := { s.mil with floor := a } }
  | _ =>
    let s := ((s.stopTraffic.zeroMemories).setB FLT.MODULE_SAFE true).imgUnload
    let mil := { s.mil with fused := .retired, service := false, idKey := none, imageKey := none }
    State.setB { s with mil := mil } CORE.LOOP_EN true

/-- A Milest command ends with a result (R425). -/
def State.milestEnd (s : State) (result code : Nat) : State :=
  let s := ((s.set MIL.RESULT result).set MIL.LAST_COMMAND code).event MIL.DONE 0 true sumMilest
  let s := s.when ([2, 3, 5, 6, 7].contains result) (fun s => s.fault srcMilest)
  (s.when (result == 0x0A) (fun s => s.fault srcFuse)).freshNonce

/-- A command block arrives from host memory (fewer than 256 bytes: the fetch failed). `fuseOk` false: fuse programming did
not verify, and the effect is not made (R425). -/
def State.milest (s : State) (b : List Byte) (fuseOk : Bool) : State :=
  let code := blkCommand b
  let r := s.milestCheck b
  if r != 0 then s.milestEnd r code
  else if !fuseOk && code != 4 then s.milestEnd 0x0A code
  else (s.milestEffect code b).milestEnd 0 code

/-- The command of a row: a block that names another row's command is not this row's; one whose COMMAND is no command's comes
with any of them, and is refused (R412, log 60). -/
def State.milestRow (s : State) (code : Nat) (b : List Byte) (fuseOk : Bool) : State :=
  if b.length < 256 || blkCommand b = code || !inRange 1 8 (blkCommand b) then s.milest b fuseOk else s

def execFuseSlot (b : List Byte) (fuseOk : Bool) (s : State) : Result := .next (s.viaHost MIL.GO (fun s => (s.milestRow 1 b fuseOk)))
def execFuseImageKey (b : List Byte) (fuseOk : Bool) (s : State) : Result := .next (s.viaHost MIL.GO (fun s => (s.milestRow 2 b fuseOk)))
def execEnterField (b : List Byte) (fuseOk : Bool) (s : State) : Result := .next (s.viaHost MIL.GO (fun s => (s.milestRow 3 b fuseOk)))
def execEnterService (b : List Byte) (s : State) : Result := .next (s.viaHost MIL.GO (fun s => (s.milestRow 4 b true)))
def execRevokeSlot (b : List Byte) (fuseOk : Bool) (s : State) : Result := .next (s.viaHost MIL.GO (fun s => (s.milestRow 5 b fuseOk)))
def execRaiseFloor (b : List Byte) (fuseOk : Bool) (s : State) : Result := .next (s.viaHost MIL.GO (fun s => (s.milestRow 6 b fuseOk)))
def execRetire (b : List Byte) (fuseOk : Bool) (s : State) : Result := .next (s.viaHost MIL.GO (fun s => (s.milestRow 7 b fuseOk)))

/-! ### Attestation (R417, R418). The message layouts are those of DMTF DSP0274. PRESUMED (log 8). -/

/-- SPDM version 1.2 in a message header. -/
def spdmHeader (code p1 p2 : Nat) : List Byte := leBytes 1 0x12 ++ leBytes 1 code ++ leBytes 1 p1 ++ leBytes 1 p2

/-- An ERROR response. -/
def spdmError (code : Nat) : List Byte := spdmHeader 0x7F code 0

/-- Answer a request that the negotiation has reached and that the life-cycle state allows (R416). -/
def State.spdmAnswer (s : State) (need : Nat) (retired : Bool) (f : State → State) : State :=
  if !s.live then s
  else if s.lcState = lcRetired && !retired then s.emit (.spdm (spdmError 0x07))
  else if s.mil.spdm < need then s.emit (.spdm (spdmError 0x04))
  else f s

def execGetVersion (s : State) : Result :=
  .next (s.spdmAnswer 0 true (fun s =>
    State.emit { s with mil := { s.mil with spdm := 1 } }
      (.spdm (leBytes 1 0x10 ++ leBytes 1 0x04 ++ zeros 3 ++ leBytes 1 1 ++ leBytes 2 0x1200))))

/-- CERT_CAP, CHAL_CAP and MEAS_CAP with signatures (R417). -/
def spdmCaps : Nat := 0x16

def execGetCapabilities (s : State) : Result :=
  .next (s.spdmAnswer 1 true (fun s =>
    State.emit { s with mil := { s.mil with spdm := 2 } }
      (.spdm (spdmHeader 0x61 0 0 ++ zeros 4 ++ leBytes 4 spdmCaps ++ leBytes 4 4096 ++ leBytes 4 4096))))

/-- ECDSA P-384, SHA-384, measurement hash SHA-384 (R417). -/
def execNegotiateAlgorithms (s : State) : Result :=
  .next (s.spdmAnswer 2 false (fun s =>
    State.emit { s with mil := { s.mil with spdm := 3 } }
      (.spdm (spdmHeader 0x63 0 0 ++ leBytes 2 36 ++ leBytes 1 1 ++ zeros 1 ++ leBytes 4 4 ++ leBytes 4 0x80 ++
        leBytes 4 2 ++ zeros 16))))

def execGetDigests (s : State) : Result :=
  .next (s.spdmAnswer 3 false (fun s => s.emit (.spdm (spdmHeader 0x01 0 1 ++ sha384 s.mil.certChain))))

/-- GET_CERTIFICATE of slot 0, from an offset, at most a length (R417). In RETIRED it is answered without the negotiation
of algorithms, which R416 does not answer. -/
def execGetCertificate (off len : BitVec 16) (s : State) : Result :=
  .next (s.spdmAnswer (if s.lcState = lcRetired then 2 else 3) true (fun s =>
    let part := slice s.mil.certChain off.toNat len.toNat
    s.emit (.spdm (spdmHeader 0x02 0 0 ++ leBytes 2 part.length ++
      leBytes 2 (s.mil.certChain.length - off.toNat - part.length) ++ part))))

/-- One measurement block in the DMTF format: index, type and value. -/
def measBlock (index type_ : Nat) (value : List Byte) : List Byte :=
  leBytes 1 index ++ leBytes 1 1 ++ leBytes 2 (value.length + 3) ++ leBytes 1 type_ ++ leBytes 2 value.length ++ value

/-- The value of a measurement block at this instant (R418). -/
def State.measurement (s : State) (index : Nat) : List Byte :=
  match index with
  | 1 => measBlock 1 0x00 (beBytes 48 (Config.romDigest ()).toNat ++ leBytes 2 (s.get ANVL.ROM_ID) ++
      leBytes 1 (s.get ANVL.ROM_REV))
  | 2 => measBlock 2 0x82 (leBytes 1 s.lcState ++ (List.range 4).flatMap (fun k => (tabFind s.mil.slots k).getD (zeros 48)) ++
      leBytes 1 s.mil.revoked ++ leBytes 1 s.mil.floor ++ leBytes 1 (b2n s.mil.imageKey.isSome))
  | 3 => measBlock 3 0x03 (if s.get IMG.RUN_SRC = 0 then zeros 48 else (List.range 12).flatMap (fun k => leBytes 4 (s.get IMG.DIGEST k)))
  | 4 => measBlock 4 0x03 (if s.img.update.isEmpty then zeros 48 else s.img.update)
  | _ => measBlock 5 0x83 (leBytes 4 (s.get ANVL.SET_ID) ++ (List.range 256).flatMap (fun r => leBytes 1 (s.get ANVL.SELECTED r)))

/-- CHALLENGE with the requester's summary type: CHALLENGE_AUTH with a nonce and a signature of the module's own. -/
def execChallenge (summary : Byte) (s : State) : Result :=
  .next (s.spdmAnswer 3 false (fun s =>
    let nonce := beBytes 32 (Config.freeNonce s.draws).toNat
    let sig := beBytes 96 (Config.freeSignature (s.draws + 1)).toNat
    let sum := if summary = 0 then [] else sha384 ((List.range 5).flatMap (fun k => s.measurement (k + 1)))
    (s.draw.draw).emit (.spdm (spdmHeader 0x03 0 1 ++ sha384 s.mil.certChain ++ nonce ++ sum ++ zeros 2 ++ sig))))

/-- GET_MEASUREMENTS: operation 0 asks how many blocks there are, 0xFF for all of them, another value for one; `signed`
asks for a signature (R418). -/
def execGetMeasurements (op : Byte) (signed : Bool) (s : State) : Result :=
  .next (s.spdmAnswer 3 false (fun s =>
    let idx := if op = 0xFF then [1, 2, 3, 4, 5] else if op = 0 then [] else [op.toNat]
    if idx.any (fun k => decide (5 < k)) then s.emit (.spdm (spdmError 0x01))
    else
      let rec_ := idx.flatMap (fun k => s.measurement k)
      let nonce := beBytes 32 (Config.freeNonce s.draws).toNat
      let sig := if signed then beBytes 96 (Config.freeSignature (s.draws + 1)).toNat else []
      (s.draw.draw).emit (.spdm (spdmHeader 0x60 (if op = 0 then 5 else 0) 0 ++ leBytes 1 idx.length ++
        leBytes 3 rec_.length ++ rec_ ++ nonce ++ zeros 2 ++ sig))))

/-! ### JTAG (R419) -/

/-- Load an instruction where the state offers it; otherwise BYPASS is selected. -/
def State.jtagLoad (s : State) (i : JtagIr) : State := { s with pins := { s.pins with jtag := i } }

def State.jtagBypass (s : State) : State := (s.jtagLoad .bypass).emit (.tdo 1 0)

/-- An instruction shifted in while the rails are up; one that the state does not offer selects BYPASS. -/
def State.jtagIr (s : State) (offered : Bool) (f : State → State) : State :=
  s.when s.boot.powered (fun s => if offered then f s else s.jtagBypass)

def execBypass (s : State) : Result := .next (s.jtagIr true (fun s => s.jtagBypass))

/-- IDCODE is 0xnD12_427B, n the silicon revision. -/
def execIdcode (s : State) : Result :=
  .next (s.jtagIr true (fun s => (s.jtagLoad .idcode).emit (.tdo 32 (s.get GLB.SIL_REV * 2 ^ 28 + 0xD12427B))))

/-- SAMPLE/PRELOAD: the chain samples the pins, `preload` false, or is loaded with new values. -/
def execSamplePreload (preload : Bool) (cells : BitVec 32) (s : State) : Result :=
  .next (s.jtagIr (s.lcState != lcRetired) (fun s =>
    let out := if preload then s.pins.scan else cells.toNat
    let s := s.jtagLoad .samplePreload
    State.emit { s with pins := { s.pins with scan := cells.toNat } } (.tdo 32 out)))

/-- EXTEST: outside MANUFACTURE it enters module safe state and raises a severe fault. -/
def execExtest (s : State) : Result :=
  .next (s.jtagIr (s.lcState != lcRetired) (fun s =>
    (s.jtagLoad .extest).when (s.lcState != lcManufacture) (fun s => s.moduleSafe.fault srcExtest)))

/-- Internal scan and the scan-based logic test, in MANUFACTURE only. -/
def execInternalScan (s : State) : Result :=
  .next (s.jtagIr (s.lcState == lcManufacture) (fun s => s.jtagLoad .internalScan))

/-! ### Assay (R421 to R424) -/

/-- The refusal code of the first check of orders 1 to 7 that fails, 0 if none does (R422). -/
def State.assayCheck (s : State) : Nat :=
  let lc := s.lcState
  let rep := s.get ASY.CMD_REPAIR
  if lc != lcManufacture && lc != lcService then 1
  else if s.assay.running then 2
  else if s.get ASY.CMD_TESTS = 0 then 3
  else if rep == 3 || (rep == 2 && lc != lcManufacture) then 4
  else s.assayUnmet

/-- The largest difference of check 8 and its chiplet. -/
def worstPpm (ppm : List (BitVec 9)) : Nat × Nat :=
  ((List.range 8).foldl (fun (b : Nat × Nat) n =>
    let v := (ppm.getD n 0).toNat
    if b.1 < v then (v, n) else b) (0, 0))

/-- The device addresses that a test writes with patterns: the memory test every volatile memory it covers, the TCAM test the
ASE. -/
def testWrites (t a : Nat) : Bool :=
  if t = 0 then decide (a < queueBase) || inRange counterBase storeBase a
  else if t = 1 then inRange aseBase filBase a
  else false

/-- A flow-cache entry of given bits. -/
def flowOf (v : Nat) : Flow :=
  { id := bits v 0 64, packets := bits v 64 32, bytes := bits v 96 48, first := bits v 144 32, last := bits v 176 32
    depth := bits v 208 22, flags := bits v 230 5, res := bits v 235 16 }

/-- A test begins. The memories it tests, the flow caches among them, hold patterns from now on, which the spec does not give:
free bytes and entries (log 28). -/
def State.assayEnter (s : State) (t : Nat) : State :=
  let s := s.set ASY.CURRENT t
  if t ≤ 1 then
    let kept := s.dev.filter (fun c => !testWrites t c.1)
    let cells := (Config.freeCells s.draws).filter (fun c => testWrites t c.1)
    let flows := if t = 0 then (Config.freeFlows s.draws).foldl (fun l x => tabPut l (x.1 % 2 ^ 19) (flowOf x.2.toNat)) []
      else s.tele.flows
    State.draw { s with dev := cells.foldl (fun m c => memPut m c.1 c.2) kept, tele := { s.tele with flows := flows } }
  else s

/-- Start the selected tests in bit order (R421, R422). -/
def State.assayStart (s : State) : State :=
  let tests := (List.range 5).filter (fun t => s.bitOf ASY.CMD_TESTS t)
  let s := s.when (s.lcState == lcManufacture) (fun s => s.stopTraffic)
  let s := { s with assay := { s.assay with running := true, left := tests, hold := true, repair := s.get ASY.CMD_REPAIR } }
  let s := (s.set ASY.STATE 2).set ASY.REFUSAL 0
  let s := upTo 5 (fun t s => 
    (((s.set ASY.FAILS 0 t).set ASY.REPAIRED 0 t).set ASY.UNREPAIRED 0 t).set ASY.SPARES_LEFT 0 t) s
  ((s.setB ASY.LBUF_VALID false).retarget).assayEnter (tests.headD 0)

/-- ASSAY_GO: `ppm` are the reference differences of check 8; `vcoreOk`: V_MEAS settled at OP5 (check 9). A refusal shows
its code and changes nothing else. -/
def State.assayGo (s : State) (ppm : List (BitVec 9)) (vcoreOk : Bool) : State :=
  let r := s.assayCheck
  if r != 0 then s.set ASY.REFUSAL r
  else
    let w := worstPpm ppm
    let s := (s.set ASY.WORST_PPM w.1).set ASY.WORST_CLK w.2
    if 100 < w.1 then s.set ASY.REFUSAL 8
    else if !vcoreOk then s.set ASY.REFUSAL 9
    else s.assayStart

def execAssayGo (ppm : List (BitVec 9)) (vcoreOk : Bool) (s : State) : Result := .next (s.viaHost ASY.CMD_GO (fun s => (s.assayGo ppm vcoreOk)))

/-- The fault source of a group that owns a failing unit (R424). -/
def assaySource (group : Nat) : Nat :=
  match group with
  | 4 => srcAssayPipeline
  | 5 => srcAssayLookup
  | 6 => srcAssayBuffer
  | 12 => srcAssayChiplet
  | _ => srcAssayMemory

/-- A failing unit's spares, where test `t` has them: kind, array or bank, and how many there are (R421). -/
def assaySpares : AssayUnit → Nat → Option (Nat × Nat × Nat)
  | .row m _ _, 0 => some (0, m.toNat, 4)
  | .column m _ _, 0 => some (1, m.toNat, 2)
  | .tcam b _, 1 => some (2, b.val, 16)
  | _, _ => none

/-- The group that owns a failing unit, and its location (R424). -/
def assayPlace : AssayUnit → Nat × Nat
  | .row _ g l | .column _ g l | .other g l => (g.val, l.toNat)
  | .crucible b => (6, b.val)
  | .tcam b i => (5, 2048 * b.val + i.toNat)

/-- What a test has counted so far; `left`: the fewest spares left to a repaired unit. -/
structure AssayTally where
  repaired : Nat := 0
  unrepaired : Nat := 0
  left : Option Nat := none

/-- A repair, with the spares that its resource has left. -/
def AssayTally.mended (x : AssayTally) (n : Nat) : AssayTally :=
  { x with repaired := x.repaired + 1, left := some (min n (x.left.getD n)) }

/-- Spares of a resource that are in use. -/
def State.sparesUsed (s : State) (kind unit : Nat) : Nat :=
  (s.assay.repairs.filter (fun r => r.kind == kind && r.unit == unit)).length

/-- Crucible spares that are free and that no waiting or running migration is to take (R236). -/
def State.sparesFree (s : State) : Nat :=
  s.sparesLeft - s.buf.mig.queue.length - (match s.buf.mig.cur with | some _ => 1 | none => 0)

/-- A failing unit that Assay cannot repair: a minor fault of its group (R424). -/
def State.unitLost (x : AssayTally × State) (u : AssayUnit) : AssayTally × State :=
  ({ x.1 with unrepaired := x.1.unrepaired + 1 }, x.2.fault (assaySource (assayPlace u).1) 0 (assayPlace u).2)

/-- A failing unit that test `t` found: a Crucible bank takes a spare bank whatever REPAIR says, another unit a spare of its
resource if REPAIR asks for repairs and one is left (R421). -/
def State.unitFound (t : Nat) (x : AssayTally × State) (u : AssayUnit) : AssayTally × State :=
  let s := x.2
  match u, assaySpares u t with
  | .crucible b, _ =>
    if t = 0 && s.sparesFree != 0 then (x.1.mended (s.sparesFree - 1), s.migTrigger b.val false) else State.unitLost x u
  | _, some (kind, unit, n) =>
    if s.assay.repair != 0 && decide (s.sparesUsed kind unit < n) then
      let r : Repair := { kind := kind, unit := unit, loc := (assayPlace u).2, fused := s.assay.repair == 2 }
      (x.1.mended (n - s.sparesUsed kind unit - 1), { s with assay := { s.assay with repairs := s.assay.repairs ++ [r] } })
    else State.unitLost x u
  | _, none => State.unitLost x u

/-- The counts and the repairs of test `t` (R421). -/
def State.assayCount (s : State) (t : Nat) (units : List AssayUnit) : State :=
  let (n, s) := units.foldl (State.unitFound t) ({}, s)
  ((((s.set ASY.FAILS units.length t).set ASY.REPAIRED n.repaired t).set ASY.UNREPAIRED n.unrepaired t).set ASY.SPARES_LEFT
    (n.left.getD 0) t)

/-- No number of 16 bits is the L-buffer ratio. -/
def lbufOpen (accesses tokens : Nat) : Bool := tokens == 0 || decide (65536 ≤ accesses * 4096 / (64 * tokens))

/-- L-buffer × 4,096: accesses completed over the raw rate of 512 in a token, the mean of the eight sections (R28, R30). A ratio
that 16 bits do not hold is free (log 1). -/
def lbufRatio (accesses tokens draw : Nat) : Nat :=
  if lbufOpen accesses tokens then (Config.freeFraction draw).toNat % 65536 else accesses * 4096 / (64 * tokens)

/-- The buffer-bandwidth test shows its ratio; one below 0.85 is a fault (R30). -/
def State.assayBuffer (s : State) (accesses tokens : Nat) : State :=
  let r := lbufRatio accesses tokens s.draws
  let s := s.when (lbufOpen accesses tokens) (fun s => s.draw)
  ((s.set ASY.LBUF r).setB ASY.LBUF_VALID true).when (decide (r < 3481)) (fun s => s.fault srcRatio)

/-- ASSAY_TEST_DONE: the running test ends (R421, R423, R424), and the next begins. -/
def State.assayTestDone (s : State) (units : List AssayUnit) (accesses tokens : Nat) : State :=
  match s.assay.left with
  | [] => s
  | t :: rest =>
    let s := State.assayCount { s with assay := { s.assay with left := rest } } t units
    let s := s.when (t == 4) (fun s => s.assayBuffer accesses tokens)
    match rest with
    | [] => s.assayEnd
    | n :: _ => s.assayEnter n

def execAssayTestDone (units : List AssayUnit) (accesses tokens : BitVec 64) (s : State) : Result :=
  .next (s.assayTestDone units accesses.toNat tokens.toNat)

def execAssayAbort (s : State) : Result := .next (s.viaHost ASY.CMD_ABORT (fun s => (s.assayStop 10)))

/-- ASSAY_CONDITION_FAIL: one of the conditions of orders 5 to 9 fails. The module itself sees orders 5 to 7; the reference
clocks and VCORE are measured (R422, R423). -/
def State.assayFail (s : State) (order : Nat) : State := s.when (decide (8 ≤ order) || s.assayUnmet == order) (fun s => s.assayStop order)

def execAssayConditionFail (order : Fin 5) (s : State) : Result := .next (s.assayFail (5 + order.val))

end Sys2Proof.Machine
end

