-- ==== Sys2Proof/Machine/Views.lean ====
section
/-!
DEFINITION. What the registers read as (R10 to R14, R439 to R446): which fields lie in a BAR0 word, the fields that show live
state, the interrupt summary, and the value of a word.
-/
namespace Sys2Proof.Machine
open Reg

/-! ### The fields of a word -/

/-- A field instance that lies in a word; `high`: the word is the second of a 64-bit register (R12). -/
structure FldAt where
  fld : Fld
  i : Nat
  j : Nat
  high : Bool
  deriving DecidableEq, Repr

/-- A field of a 64-bit register. -/
def Fld.wide (f : Fld) : Bool := decide (32 < f.wd)

/-- The instance (i, j) of an array at distance `d` from its first word, if one begins there. -/
def Fld.instAt (f : Fld) (d : Nat) : Option (Nat × Nat) :=
  let i := if f.s1 = 0 then 0 else min (d / f.s1) (f.n1 - 1)
  let r := d - f.s1 * i
  let j := if f.s2 = 0 then 0 else r / f.s2
  if f.s1 * i + f.s2 * j = d && j < f.n2 then some (i, j) else none

/-- The instance whose first word is the word at `w`. -/
def Fld.at_ (f : Fld) (w : Nat) : Option (Nat × Nat) := if f.off ≤ w then f.instAt (w - f.off) else none

/-- The instance of a field that lies in the word at `w`. -/
def Fld.hit (f : Fld) (w : Nat) : Option FldAt :=
  match f.at_ w with
  | some (i, j) => some { fld := f, i := i, j := j, high := false }
  | none =>
    if f.wide then
      match f.at_ (w - 4) with
      | some (i, j) => some { fld := f, i := i, j := j, high := true }
      | none => none
    else none

/-- The fields of the block that a BAR0 offset lies in (R439). -/
def blockFields (w : Nat) : List Fld :=
  if w < 0x100000 then GLB.fields ++ MIL.fields
  else if w < 0x200000 then IMG.fields
  else if w < 0x400000 then CORE.fields
  else if w < 0x500000 then LANE.fields
  else if w < 0x600000 then PORT.fields
  else if w < 0x700000 then PARSE.fields
  else if w < 0x800000 then EM.fields ++ ASE.fields ++ FIL.fields
  else if w < 0x900000 then MAP.fields
  else if w < 0xA00000 then CRUC.fields
  else if w < 0xB00000 then QSCH.fields
  else if w < 0xC00000 then TIME.fields
  else if w < 0xD00000 then TELE.fields
  else if w < 0xE00000 then HOST.fields
  else if w < 0xF00000 then PWR.fields
  else if w < 0x1000000 then ANVL.fields
  else FLT.fields ++ ASY.fields

/-- The fields of the word at `w`. -/
def wordHits (w : Nat) : List FldAt := (blockFields w).filterMap (fun f => f.hit w)

/-- The field of a 64-bit register of which `w` is a word. A 64-bit register has one field. -/
def wideHit (w : Nat) : Option FldAt := (wordHits w).find? (fun h => h.fld.wide)

/-- A port has windows: a front port if it is configured, a service port always. -/
def State.portWindows (s : State) (p : Nat) : Bool := decide (1024 ≤ p) || s.isPort p

/-- The field belongs to a window that a front port, one of its requesters or a lane owns: one that no configured port has reads
as zero and takes no write (R5, R440). A word of the requester map is of half a port's requesters. -/
def State.windowUsed (s : State) (f : Fld) (i : Nat) : Bool :=
  if inRange 0x904000 0x908000 f.off then s.portWindows (i / 2)
  else if inRange 0x910000 0xA00000 f.off then s.portWindows (i / 8)
  else if inRange 0x400000 0x500000 f.off then (s.portOfLane i).isSome
  else if inRange 0x500000 0x600000 f.off || inRange 0x908000 0x909000 f.off || inRange 0xA10000 0xB00000 f.off ||
      inRange 0xB10000 0xC00000 f.off || inRange 0xC20000 0xD00000 f.off then s.isPort i
  else true

/-! ### The interrupt summary (R444, R446) -/

/-- An enabled event of port `p` (R446). -/
def State.portSum (s : State) (p : Nat) : Bool :=
  s.isPort p &&
    [(PORT.EV_LINK_UP_EVT, PORT.IE_LINK_UP_EVT), (PORT.EV_LINK_DOWN_EVT, PORT.IE_LINK_DOWN_EVT),
     (PORT.EV_AN_FAIL, PORT.IE_AN_FAIL), (PORT.EV_TRAIN_FAIL, PORT.IE_TRAIN_FAIL),
     (PORT.EV_ALIGN_TIMEOUT_EVT, PORT.IE_ALIGN_TIMEOUT_EVT), (PORT.EV_STORM_ENTER, PORT.IE_STORM_ENTER),
     (PORT.EV_STORM_EXIT, PORT.IE_STORM_EXIT), (PORT.EV_HI_SER_EVT, PORT.IE_HI_SER_EVT)].any
      (fun x => s.flag x.1 p && s.flag x.2 p)

/-- GLB_PORT_SUM_w. -/
def State.portSumWord (s : State) (w : Nat) : Nat :=
  (List.range 32).foldl (fun n j => if s.portSum (32 * w + j) then n + 2 ^ j else n) 0

/-- An event of a block that has an INT_EN bit at the event's own place. -/
def State.eventsOn (s : State) (en : Fld) (l : List Fld) : Bool := l.any (fun f => s.flag f && s.bitOf en f.lo)

/-- Summary bit `b` (R444). -/
def State.sumBit (s : State) (b : Nat) : Bool :=
  match b with
  | 0 => s.flag IMG.CMD_DONE || s.flag IMG.RETIRED
  | 1 => (List.range 1024).any (fun p => s.portSum p)
  | 2 => s.flag EM.CMD_DONE
  | 3 => s.flag ASE.CMD_DONE
  | 4 => s.flag CRUC.MS_DONE
  | 5 => s.eventsOn TIME.INT_EN [TIME.HOLDOVER_EVT, TIME.REFCLK_LOST_EVT, TIME.STEP_ERR] ||
      (List.range 3).any (fun k => s.bitOf TIME.CAPTURE_EVT k && s.bitOf TIME.INT_EN (2 + k))
  | 6 => (List.range 16).any (fun n => s.flag TIME.T_FIRED n && s.flag TIME.T_IE n)
  | 7 => s.flag TELE.FL_DONE || s.flag TELE.LP_DONE
  | 8 => (List.range 8).any (fun k => s.flag TELE.S_OVF k && s.flag TELE.S_IE k)
  | 9 => s.eventsOn HOST.INT_EN [HOST.LINK_DOWN_EVT, HOST.POISONED, HOST.ACCESS_ERR]
  | 10 => s.eventsOn PWR.INT_EN
      [PWR.PHASE_ERR, PWR.OV_EVT, PWR.THERM_WARN_EVT, PWR.SENSOR_FAIL_EVT, PWR.QUENCH_EVT, PWR.LIMIT_EVT]
  | 11 => s.flag MIL.DONE
  | 12 => s.flag ASY.DONE
  | 13 => (List.range 5).any (fun n => s.flag GLB.PIN_STUCK_EVT n)
  | _ => false

/-! ### Fields that show live state -/

/-- A Milest field (R425): fuses and the nonce. -/
def State.viewMilest (s : State) (f : Fld) (i j : Nat) : Option Nat :=
  if f = MIL.LC_STATE then some s.lcState
  else if f = MIL.IDENTITY_OK then some (b2n s.mil.idKey.isSome)
  else if f = MIL.IMAGE_KEY_FUSED then some (b2n s.mil.imageKey.isSome)
  else if f = MIL.SLOT_FUSED then some ((List.range 4).foldl (fun n k => if s.slotFused k then n + 2 ^ k else n) 0)
  else if f = MIL.SLOT_REVOKED then some s.mil.revoked
  else if f = MIL.SEC_FLOOR then some s.mil.floor
  else if f = MIL.SERIAL then some s.mil.serial
  else if f = MIL.NONCE then some (s.mil.nonce / 2 ^ (32 * i))
  else if f = MIL.ID_PUB then some (le s.mil.idPub (4 * i) 4)
  else if f = MIL.SLOT_HASH then some (le ((tabFind s.mil.slots i).getD []) (4 * j) 4)
  else none

/-- A field of the GLB block: the summaries. -/
def State.viewGlb (s : State) (f : Fld) (i j : Nat) : Option Nat :=
  if f.off = GLB.SUM_IMG.off then some (b2n (s.sumBit f.lo))
  else if f = GLB.PORT_SUM then some (s.portSumWord i)
  else s.viewMilest f i j

/-- A field of the CORE block (R52). -/
def State.viewCore (s : State) (f : Fld) : Option Nat :=
  if f = CORE.LOOP_ACTIVE then some (b2n s.loopActive)
  else if f = CORE.AT_TRIM_LIMIT then some (b2n s.atTrimLimit)
  else if f = CORE.DROOP_ACTIVE then some (b2n (!s.core.droop.isEmpty))
  else none

/-- A field of a port (R105). -/
def State.viewPort (s : State) (f : Fld) (i : Nat) : Option Nat :=
  if f = PORT.RX_PAUSED then some (s.rxPausedMask i)
  else if f = PORT.TX_ASSERTED then some (s.assertedMask i)
  else none

/-- A field of the LKUP block (R157, R182). -/
def State.viewLookup (s : State) (f : Fld) (i : Nat) : Option Nat :=
  if f = EM.T_ENTRIES then some (s.emEntries i)
  else if f = EM.ENGINE_BUSY then some (b2n s.emBusy)
  else if f = EM.CMD_BUSY then some (b2n s.pipe.emCmd.isSome)
  else if f = EM.T_STASHED then some (s.emStashed i)
  else if f = ASE.P_ENTRIES then some (s.aseEntries i)
  else none

/-- A field of the CRUC block (R240). -/
def State.viewCruc (s : State) (f : Fld) (i : Nat) : Option Nat :=
  if f = CRUC.SHARED_FREE then some s.sharedFree
  else if f = CRUC.FREE then some (s.poolFreeCount i)
  else if f = CRUC.QUARANTINED then some (s.quarCount i)
  else if f = CRUC.HR_IN_USE then some s.hrInUse
  else if f = CRUC.MS_SPARES_LEFT then some s.sparesLeft
  else if f = CRUC.FIFO_USED then some (s.fifoUsed i)
  else if f = CRUC.HELD then some (b2n (s.held i))
  else if f = CRUC.HOLD_LEN then some (s.holdList i).length
  else none

/-- A field of the QSCH and TELE blocks (R271, R316). -/
def State.viewQueues (s : State) (f : Fld) (i : Nat) : Option Nat :=
  if f = QSCH.REPL_STALLED then
    some (b2n (s.que.holds.any (fun l => l.2.any (fun x => match x with | .repl y => y.stopped | .inst _ => false))))
  else if f = QSCH.RES_USED then some (s.residueUsed i)
  else if f = TELE.COL_DEPTH then some (s.colFifo i).length
  else if f = TELE.U_TICKS then some (s.loupeTicks i)
  else none

/-- A field of the TIME, HOST and ANVL blocks (R293, R351, R388). -/
def State.viewHost (s : State) (f : Fld) (i : Nat) : Option Nat :=
  if f = HOST.R_RX_STALL && 64 ≤ i then some 0
  else if f = HOST.R_CAN_ACCEPT then
    some (b2n (if i < 64 then s.ringAccepts i else if i < 80 then false else s.flag HOST.R_EN i && s.ringGiven i 0))
  else if f = TIME.T_TIME_SEC && s.flag TIME.T_ARMED i then some (timeSec (s.trigRec i).pend)
  else if f = TIME.T_TIME_NS && s.flag TIME.T_ARMED i then some (timeNs (s.trigRec i).pend)
  else if f = ANVL.REMAP_USED then some s.anvil.poolNext
  else if f = ANVL.REMAP_FREE then some s.poolFree
  else none

/-- The live value of a field, if it shows live state. -/
def State.view (s : State) (f : Fld) (i j : Nat) : Option Nat :=
  if f.off < 0x100000 then s.viewGlb f i j
  else if f.off < 0x400000 then s.viewCore f
  else if f.off < 0x600000 then s.viewPort f i
  else if f.off < 0x800000 then s.viewLookup f i
  else if f.off < 0xA00000 then s.viewCruc f i
  else if f.off < 0xB00000 || inRange 0xC00000 0xD00000 f.off then s.viewQueues f i
  else s.viewHost f i

/-- What a field instance reads as: 0 for a write-only field (R13) and in a window that no port owns. -/
def State.fieldRead (s : State) (f : Fld) (i j : Nat) : Nat :=
  if f.ty == .wo || !s.windowUsed f i then 0 else (s.view f i j).getD (s.get f i j) % 2 ^ f.wd

/-- The part of a field's value that its word shows. -/
def State.hitRead (s : State) (h : FldAt) : Nat :=
  let v := s.fieldRead h.fld h.i h.j
  if h.high then v / 2 ^ 32 else v % 2 ^ 32 * 2 ^ h.fld.lo

/-- The value of the word at `w`: offsets that no table lists read 0 (R11). -/
def State.wordRead (s : State) (w : Nat) : Nat := (wordHits w).foldl (fun n h => n + s.hitRead h) 0 % 2 ^ 32

end Sys2Proof.Machine
end

