-- ==== Sys2Proof/Machine/HostWrite.lean ====
section
/-!
DEFINITION. A host write of a BAR0 word (R10 to R14): the fields of the word are stored under their types and stored-as rules,
a 64-bit register is committed by its high word, and the bits that start something set off the operation of their own command
where the word alone says all that it needs.
-/
namespace Sys2Proof.Machine
open Reg

/-! ### Stored values that depend on other registers -/

/-- REACT of a source as it is stored (R396, R397). -/
def State.reactStored (s : State) (src v : Nat) : Nat :=
  let kind := s.get FLT.S_SCOPE_KIND src
  let fatal := s.get FLT.S_BASE_CLASS src = 3
  let v := if kind = 1 || kind = 2 then v else bitClear v 1
  let v := if kind = 1 then v else bitClear v 2
  let v := if fatal then bitSet (bitSet v 3) 4 else v
  if src = 0x10 then bitSet v 6 else bitClear v 6

/-- REFRESH as it is stored beside XOFF_QUANTA (R105). -/
def refreshStored (quanta v : Nat) : Nat := if v = 0 || quanta ≤ v then max 1 (quanta / 2) else v

/-- The event code that a Loupe counter stores for its unit (R310). -/
def State.eventStored (f : Fld) (u v : Nat) : Nat :=
  if (List.range 8).any (fun k => f = evField k) && !eventCodeOk u v then 0 else v

/-- The value under which a write of `x` to an instance of a RW field is stored; `v` is the whole word. -/
def State.rwStored (s : State) (f : Fld) (i v x : Nat) : Nat :=
  if f = CORE.RECOVER_THRESH then min x (s.get CORE.DROOP_THRESH - 5)
  else if f = CORE.LOOP_EN then (if s.lcState = lcManufacture || s.lcState = lcService then x else 1)
  else if f = PORT.AN_EN then (match phyRow (s.desc i 2 1) with | some (_, _, true, _) => x | _ => 0)
  else if f = PORT.LT_EN then (match phyRow (s.desc i 2 1) with | some (_, _, _, true) => x | _ => 0)
  else if f = PORT.REFRESH then refreshStored (max 1 (bits v 0 16)) x
  else if f = CRUC.RP_FIFO_XON then min x (s.get CRUC.RP_FIFO_XOFF i - 1)
  else if f = TIME.C_POL && i = 0 then 0
  else if f = HOST.R_RX_STALL && 64 ≤ i then 0
  else if f = EM.CMD_FLAGS then x - x % 2 + s.get EM.CMD_FLAGS % 2
  else if f = PWR.TG_CRIT then min x (thermCrit i)
  else if f = FLT.S_REACT_BASE || f = FLT.S_REACT_ESC then s.reactStored i x
  else State.eventStored f i (f.stored x)

/-- Fields that a register's own operation writes, or that a write ignores in the present state. -/
def ownWrite : List Fld := [
  LANE.PRE, LANE.MAIN, LANE.POST, PORT.ADMIN_UP, PORT.TEST_MODE, EM.REQ, ASE.REQ, QSCH.GATE_EN, TELE.FS_RD_PTR, TELE.S_UNIT,
  TELE.S_EVENT, TELE.S_EN, TELE.S_IE] ++ [
  TELE.S_OVF, TELE.S_PRIV_REJECT, HOST.R_EN, PWR.E_PREF_OP, PWR.E_MIN_OP, PWR.E_VALID, PWR.E_CAP, PWR.E_K, PWR.E_B_MAX,
  ANVL.SHARE, FLT.PORT_SAFE, GLB.INT_EN, IMG.BOOT_PREF]

/-- A field that holds a ring's place, which a write leaves while the ring runs (R329). -/
def ringPlace (f : Fld) : Bool := f = HOST.R_DESC_BASE || f = HOST.R_LOG2_COUNT

/-- An operand of EM_CMD: while a command waits, writes to it are ignored (R157). -/
def emOperandField (f : Fld) : Bool := f = EM.CMD_KEY || f = EM.CMD_RESULT || f = EM.CMD_FLAGS

/-- Before a rate or a burst changes, the bucket that it governs is brought up to now (R123, R150). -/
def State.bucketBefore (s : State) (f : Fld) (i j : Nat) : State :=
  if f = PARSE.POL_RATE || f = PARSE.POL_BURST then s.slowPut i j (s.slowLevel i j)
  else if f = EM.T_LEARN_RATE || f = EM.T_LEARN_BURST then s.learnPut i (s.learnLevel i)
  else s

/-- A write of `x` to a field instance, by its type (R13); `v` is the whole word. -/
def State.fieldWrite (s : State) (f : Fld) (i j v x : Nat) : State :=
  if !s.windowUsed f i || ownWrite.contains f || (ringPlace f && s.flag HOST.R_EN i) ||
      (emOperandField f && s.pipe.emCmd.isSome) then s
  else
    match f.ty with
    | .rw => (s.bucketBefore f i j).set f (s.rwStored f i v x) i j
    | .w1c => s.set f (s.get f i j - (s.get f i j &&& x)) i j
    | _ => s

/-- The fields of a word that is no part of a 64-bit register. -/
def State.narrowWrite (s : State) (w v : Nat) : State :=
  (wordHits w).foldl (fun s h => s.fieldWrite h.fld h.i h.j v (bits v h.fld.lo h.fld.wd)) s

/-! ### 64-bit registers (R12) -/

/-- The commit of a 64-bit register. -/
def State.wideCommit (s : State) (h : FldAt) (v : Nat) : State :=
  if h.fld = TELE.S_RELOAD then s.sampleReload h.i v
  else if h.fld = LANE.USER then
    let s := s.fieldWrite h.fld h.i h.j v v
    s.lineSend h.i (s.laneSig h.i)
  else s.fieldWrite h.fld h.i h.j v v

/-- A word of a 64-bit register: the low word waits, the high word commits both. -/
def State.wideWrite (s : State) (h : FldAt) (w v : Nat) : State :=
  if h.fld.ty != .rw then s
  else if !h.high then { s with host := { s.host with low := tabPut s.host.low w v } }
  else if h.fld = TIME.RATE then s.rateCommit v
  else
    let low := (tabFind s.host.low (w - 4)).getD (s.get h.fld h.i h.j % 2 ^ 32)
    State.wideCommit { s with host := { s.host with low := tabDel s.host.low (w - 4) } } h (low + 2 ^ 32 * v)

/-! ### Registers whose write is an operation -/

/-- The instance whose word is at `w`, of a field of one index. -/
def Fld.index (f : Fld) (w : Nat) : Option Nat := (f.at_ w).map (fun x => x.1)

/-- A Clasp request word: bits that fall release at once. -/
def State.claspWord (s : State) (req held : Fld) (k v : Nat) : State :=
  (s.set req v k).set held (s.get held k &&& v) k

/-- The bits of PORT_CTRL that act, after its other fields are stored. -/
def State.portCtrl (s : State) (p v : Nat) : State :=
  if !s.isPort p then s
  else
    let s := s.when (bit v 3 != s.flag PORT.TEST_MODE p) (fun s => s.testMode p (bit v 3))
    let s := s.when (bit v 0 != s.flag PORT.ADMIN_UP p) (fun s => s.adminUp p (bit v 0))
    (s.when (bit v 7) (fun s => s.portRestart p)).when (bit v 6) (fun s => s.fecClear p)

/-- A lane's or a port's settings have changed: what the lanes of its port send follows (R92, R100). -/
def State.actLine (s : State) (w : Nat) : State :=
  match LANE.GEN_EN.index w, PORT.ADMIN_UP.index w with
  | some l, _ => s.lineSend l (s.laneSig l)
  | _, some p => s.portLine p
  | _, _ => s

/-- What a write to the LANE and PORT blocks does beyond storing. -/
def State.actPort (s : State) (w v : Nat) : State :=
  State.actLine (match PORT.ADMIN_UP.index w, LANE.ADAPT_RESTART.index w, LANE.PRE.index w, LANE.INJECT.index w with
  | some p, _, _, _ => s.portCtrl p v
  | _, some l, _, _ => s.when (bit v 3) (fun s => s.adaptRestart l)
  | _, _, some l, _ => s.ffeWrite l v
  | _, _, _, some l => s.when (bit v 22) (fun s => s.genInject l)
  | _, _, _, _ =>
    match LANE.CHK_CLEAR.index w with
    | some l => s.when (bit v 5 && (s.portOfLane l).isSome) (fun s => s.chkClear l)
    | none => s) w

/-- What a write to the IMG block does: IMG_CMD, BOOT_PREF and RETIRE_FORCE (R77). -/
def State.actImage (s : State) (w v : Nat) : State :=
  if w = IMG.OPCODE.off then
    (if bits v 0 4 = opAbort then s.imgAbort [] else s.imgCommand (bits v 0 4) (bits v 4 1) true)
  else if w = IMG.BOOT_PREF.off then s.bootPrefWrite (bits v 0 1)
  else if w = IMG.RETIRE_FORCE.off then s.when (bit v 16) (fun s => s.retireForce)
  else s

/-- What a write to the LKUP block does: commands and Clasp requests (R149, R154, R172, R173). -/
def State.actLookup (s : State) (w v : Nat) : State :=
  if w = EM.CMD_OPCODE.off then s.emCommand (bits v 0 4) (bits v 4 4)
  else if w = ASE.CMD_OPCODE.off then s.aseCommand (bits v 0 6) (bits v 8 4) (bits v 16 7) .clean
  else
    match EM.REQ.index w, ASE.REQ.index w with
    | some k, _ => s.claspWord EM.REQ EM.HELD k v
    | _, some k => s.claspWord ASE.REQ ASE.HELD k v
    | _, _ => s

/-- GATE_EN and CONFIG_CHANGE of a port (R264). -/
def State.gateCtrl (s : State) (p v : Nat) : State :=
  if !s.isPort p then s
  else if bit v 0 then (s.setB QSCH.GATE_EN true p).when (bit v 5) (fun s => s.configChange p)
  else s.gateDisable p

/-- What a write to the CRUC and QSCH blocks does. A profile counts from the next evaluation on (R240); a new H counts from the
start of a hold that runs (R261). -/
def State.actQueues (s : State) (w v : Nat) : State :=
  if w = CRUC.MC_GO.off then s.when (bit v 12) (fun s => s.migrateCmd (bits v 0 12))
  else
    match QSCH.GATE_EN.index w, QSCH.PORT_DOWN_HOLD.index w with
    | some p, _ => s.gateCtrl p v
    | _, some p => s.holdExpire p
    | _, _ => s

/-- What a write to the TIME block does (R276, R284, R290); `o` is the state before the write. -/
def State.actTime (s o : State) (w v : Nat) : State :=
  if w = TIME.CMD_OPCODE.off then
    (match bits v 0 2 with | 1 => s.timeSet | 2 => s.timeStep | 3 => s.timeSnapshot | _ => s)
  else if w = TIME.PO_PPS_OUT_EN.off then s.ppsCtrl o
  else
    match TIME.T_ARM.index w, TIME.SY_LANE.index w with
    | some n, _ => s.when (bit v 2) (fun s => s.trigArm n)
    | _, some k => s.synceUpdate k (s.get TIME.SY_LANE k != o.get TIME.SY_LANE k)
    | _, _ => s

/-- What a write to the TELE block does (R303, R308, R311, R312). -/
def State.actTele (s : State) (w v : Nat) : State :=
  if w = TELE.FLUSH.off then s.when (bit v 0) (fun s => s.counterFlush)
  else if w = TELE.LP_START.off then (s.when (bit v 0) (fun s => s.loupeStart)).when (bit v 1) (fun s => s.loupeStop)
  else
    match TELE.FS_RD_PTR.index w, TELE.S_EN.index w with
    | some k, _ => s.fsReadPtr k (bits v 0 20)
    | _, some k => s.sampleCtrl k v
    | _, _ => s

/-- What a write to a DMA channel's control word does (R341, R346, R348). -/
def State.dmaCtrl (s : State) (c v : Nat) : State :=
  ((s.when (bit v 1) (fun s => s.dmaAbort c)).when (bit v 2) (fun s => s.dmaClearHalt c)).when (bit v 0) (fun s => s.dmaGo c)

/-- What a write to the HOST block does (R329, R348). -/
def State.actHost (s : State) (w v : Nat) : State :=
  match HOST.R_EN.index w, HOST.D_GO.index w, HOST.D_SHADOW_VALID.index w with
  | some n, _, _ => if bit v 0 then s.ringEnable n else s.ringDisable n
  | _, some c, _ => s.dmaCtrl c v
  | _, _, some c => if bit v 0 then s.shadowArm c else s.setB HOST.D_SHADOW_VALID false c
  | _, _, _ => s

/-- What a write to the PWR and ANVL blocks does (R358, R371, R379). -/
def State.actPower (s : State) (w v : Nat) : State :=
  if w = PWR.PHASE_SEL.off then s.phaseSelect (bits v 0 4) rankWrite
  else
    match PWR.E_PREF_OP.index w, PWR.E_CAP.index w, ANVL.SHARE.index w with
    | some n, _, _ => s.phaseWrite n 0 v
    | _, some n, _ => s.phaseWrite n 1 v
    | _, _, some a => s.shareWrite a (bits v 0 8)
    | _, _, _ => s

/-- FLT_CMD (R399, R400). -/
def State.fltCommand (s : State) (v : Nat) : State :=
  let s := s.when (bit v 0) (fun s => (s.setB FLT.FIRST_VALID false).set FLT.WORST 0)
  let s := s.when (bit v 1 && !s.flt.fatal) (fun s => s.setB FLT.FAULT_ACTIVE false)
  s.when (bit v 2 && !s.flt.fatal) (fun s => s.setB FLT.ALIVE_STOPPED false)

/-- What a write to the FLT block does: its commands, PORT_SAFE, injection, and Assay's ABORT. GO of Assay needs what the
ASSAY_GO command carries. -/
def State.actFault (s : State) (w v : Nat) : State :=
  if w = FLT.FIRST_CLR.off then s.fltCommand v
  else if w = FLT.INJ_GO.off then s.when (bit v 31) (fun s => s.injGo)
  else if w = ASY.CMD_ABORT.off then s.when (bit v 30) (fun s => s.assayStop 10)
  else
    match FLT.PORT_SAFE.index w with
    | some k => upTo 32 (fun j s => s.when (bit v j) (fun s => s.portSafeRelease (32 * k + j))) s
    | none => s

/-- A write of GLB_INT_EN: an EN bit that rises while its summary bit is 1 sets PENDING (R445). -/
def State.intEnWrite (s : State) (v : Nat) : State :=
  let old := s.get GLB.INT_EN
  let s := s.set GLB.INT_EN v
  s.when ((List.range 14).any (fun b => bit v b && !bit old b && s.sumBit b)) (fun s => s.glbPend)

/-- What a write to the GLB block does (R438, R445). GO of Milest needs the block that the Milest commands carry. -/
def State.actGlb (s : State) (w v : Nat) : State :=
  if w = GLB.MODULE_RESET.off then s.resetCommand (bit v 0) (bit v 1) (bits v 16 16)
  else if w = GLB.PIPE_GO.off then
    (s.when (bit v 12) (fun s => s.pipeGo (bits v 0 11))).when (bit v 13) (fun s => s.portGo (bits v 0 11))
  else if w = GLB.INT_EN.off then s.intEnWrite v
  else s

/-- What a write of a word does beyond storing its fields; `o` is the state before the write. -/
def State.wordAct (s o : State) (w v : Nat) : State :=
  if w < 0x100000 then s.actGlb w v
  else if w < 0x200000 then s.actImage w v
  else if w < 0x400000 then s
  else if w < 0x600000 then s.actPort w v
  else if w < 0x700000 then s
  else if w < 0x800000 then s.actLookup w v
  else if w < 0x900000 then s
  else if w < 0xB00000 then s.actQueues w v
  else if w < 0xC00000 then s.actTime o w v
  else if w < 0xD00000 then s.actTele w v
  else if w < 0xE00000 then s.actHost w v
  else if w < 0x1000000 then s.actPower w v
  else s.actFault w v

/-! ### The write -/

/-- GEN_CTRL or CHK_CTRL with a reserved pattern: the write is ignored whole (R100). -/
def patternReserved (w v : Nat) : Bool :=
  ((LANE.GEN_EN.index w).isSome || (LANE.CHK_EN.index w).isSome) && decide (6 ≤ bits v 1 3)

/-- A change of CHK_EN from 0 to 1 clears the checker (R101). -/
def State.chkRise (s : State) (w v : Nat) : State :=
  match LANE.CHK_EN.index w with
  | some l => s.when (bit v 0 && !s.flag LANE.CHK_EN l && (s.portOfLane l).isSome) (fun s => s.chkClear l)
  | none => s

/-- The channel whose active set the word belongs to (R349). -/
def activeSet (w : Nat) : Option Nat :=
  if inRange 0xD10000 0xD12000 w && decide ((w - 0xD10000) % 0x100 < 0x18) then some ((w - 0xD10000) / 0x100) else none

/-- The channel whose shadow set the word belongs to. -/
def shadowSet (w : Nat) : Option Nat :=
  if inRange 0xD10000 0xD12000 w && inRange 0x40 0x58 ((w - 0xD10000) % 0x100) then some ((w - 0xD10000) / 0x100) else none

/-- The write, in a block that answers. -/
def State.wordStore (s : State) (w v : Nat) : State :=
  match activeSet w, shadowSet w with
  | some c, _ =>
    if s.get HOST.D_STATE c = dmaRunning then s.setB HOST.D_BUSY_WRITE true c
    else match wideHit w with
      | some h => s.wideWrite h w v
      | none => s.narrowWrite w v
  | _, some c => shadowWord s c ((w - 0xD10000) % 0x100) v
  | _, _ =>
    match wideHit w with
    | some h => s.wideWrite h w v
    | none => if patternReserved w v then s else ((s.chkRise w v).narrowWrite w v).wordAct s w v

/-- A host write of the word at `w`, where its block answers (R441). -/
def State.hostWrite (s : State) (w v : Nat) : State := if s.regOpen w then s.wordStore w v else s

end Sys2Proof.Machine
end

