-- ==== Sys2Proof/Machine/HostAccess.lean ====
section
/-!
DEFINITION. The host's accesses to BARs and to configuration space (R10 to R13, R318 to R320, R445, R447), and the SMBus target (R455 to R457).
-/
namespace Sys2Proof.Machine
open Reg

/-! ### Host reads -/

/-- The completion of a host read. -/
def State.answer (s : State) (v : Nat) : State := { s with readData := BitVec.ofNat 64 v }

/-- A RC field that has been read holds its reset value again (R13). -/
def State.rcClear (s : State) (h : FldAt) : State :=
  if h.fld.ty == .rc && s.windowUsed h.fld h.i then s.set h.fld (h.fld.reset h.i) h.i h.j else s

/-- The low word of a 64-bit register is read: the latch takes the high word (R12). -/
def State.lowRead (s : State) (w : Nat) : State :=
  let latch := tabPut s.host.latch w (s.wordRead (w + 4))
  State.answer { s with host := { s.host with latch := latch } } (s.wordRead w)

/-- The high word of a 64-bit register is read: the latch's value, or with an empty latch the current one (R12). -/
def State.highRead (s : State) (w : Nat) : State :=
  match tabFind s.host.latch (w - 4) with
  | some v => State.answer { s with host := { s.host with latch := tabDel s.host.latch (w - 4) } } v
  | none => s.answer (s.wordRead w)

/-- A word that is no part of a 64-bit register is read: its RC fields clear. -/
def State.narrowRead (s : State) (w : Nat) : State :=
  (wordHits w).foldl (fun s h => s.rcClear h) (s.answer (s.wordRead w))

/-- A host read of the word at `w`; a block that does not answer reads 0 (R441). -/
def State.hostRead (s : State) (w : Nat) : State :=
  if !s.regOpen w then s.answer 0
  else match wideHit w with
    | some h => if h.high then s.highRead w else s.lowRead w
    | none => s.narrowRead w

/-- An access of another size or alignment: without effect, reading 0, with ACCESS_ERR and a note fault (R10, R351). -/
def State.badAccess (s : State) : State :=
  if s.live then ((s.answer 0).hostEvent HOST.ACCESS_ERR).fault srcAccess else s.answer 0

/-- What a read of the BAR4 word at an offset returns: the MSI-X table, the pending-bit array, and 0 elsewhere (R319, R447). -/
def State.msixRead (s : State) (off : Nat) : Nat :=
  if off < 0x1000 then s.msixWord (off / 16) (off / 4 % 4)
  else if inRange 0x8000 0x8020 off then bits s.host.pba (8 * (off - 0x8000)) 32
  else 0

/-- A host read of the word at an offset of a BAR or of configuration space. An offset that is no word's is a bad access of BAR0
or BAR4 (R10, R447); the Bezel window takes any alignment (R320). -/
def State.busRead (s : State) (b : Bar) (off : Nat) : State :=
  match b with
  | .bar0 => if off % 4 = 0 then s.hostRead off else s.badAccess
  | .bar2 => s.answer (if s.live then le (s.memAt (off % 0x1000000) 4) 0 4 else 0)
  | .bar4 => if off % 4 = 0 then s.answer (if s.live then s.msixRead (off % 0x10000) else 0) else s.badAccess
  | .cfg => s.answer (if s.live then s.cfgWord (off % 0x1000 / 4 * 4) else 0)

/-- RC_FIELD_READ: a host read of a word with the RC fields that it has. -/
def execRcFieldRead (b : Bar) (off : BitVec 26) (s : State) : Result := .next (s.busRead b off.toNat)

/-- LOW_WORD_READ: a host read of the low word of a 64-bit register. -/
def execLowWordRead (off : BitVec 26) (s : State) : Result := .next (s.busRead .bar0 off.toNat)

/-- HIGH_WORD_READ: a host read of the high word of a 64-bit register. -/
def execHighWordRead (off : BitVec 26) (s : State) : Result := .next (s.busRead .bar0 off.toNat)

def execBar0BadAccess (s : State) : Result := .next s.badAccess

/-- BAR4_BAD_ACCESS: recorded as R10 records a BAR0 event (R447). -/
def execBar4BadAccess (s : State) : Result := .next s.badAccess

/-! ### Host writes -/

/-- The bits of a MSI-X table word that software writes (R447). -/
def msixMask (w : Nat) (v : Nat) : Nat := if w = 0 then v / 4 * 4 else if w = 3 then v % 2 else v

/-- A write of the BAR4 word at an offset: the MSI-X table takes it, other offsets ignore it; a mask that clears lets a held
message go (R323, R447). -/
def State.msixWrite (s : State) (off v : Nat) : State :=
  if off < 0x1000 && s.live then
    let k := off / 4
    let s := { s with host := { s.host with msix := tabPut s.host.msix k (msixMask (k % 4) v) } }
    s.msixRelease (k / 4)
  else s

/-- A write of a word in a BAR or in configuration space; the Bezel window takes its four bytes (R320). -/
def State.busWrite (s : State) (b : Bar) (off v : Nat) : State :=
  match b with
  | .bar0 => if off % 4 = 0 then s.hostWrite off v else s.badAccess
  | .bar2 => s.bezelWrite (off % 0x1000000) (leBytes 4 v) [true, true, true, true]
  | .bar4 => if off % 4 = 0 then s.msixWrite (off % 0x10000) v else s.badAccess
  | .cfg => if s.live then s.cfgWrite (off % 0x1000 / 4 * 4) v else s

/-- REG_WRITE: a host write of a word. -/
def execRegWrite (b : Bar) (off : BitVec 26) (v : Word) (s : State) : Result := .next (s.busWrite b off.toNat v.toNat)

/-- HIGH_WORD_WRITE: the high word of a 64-bit register, which commits both. -/
def execHighWordWrite (off : BitVec 26) (v : Word) (s : State) : Result := .next (s.busWrite .bar0 off.toNat v.toNat)

/-- GLB_INT_EN_WRITE (R445). -/
def execGlbIntEnWrite (en : BitVec 14) (s : State) : Result :=
  .next (s.viaHost GLB.INT_EN (fun s => s.intEnWrite en.toNat))

/-! ### SMBus (R455 to R457) -/

/-- The target answers from step 2 of R428 on, also while the module is held in reset (R456). -/
def State.smbLive (s : State) (f : State → State) : State := s.when s.boot.powered f

/-- What an SMBus read of the word at `w` returns: a host read's value, with latches of its own and no other effect (R456). -/
def State.smbWord (s : State) (w : Nat) : Nat × State :=
  if 0x4000000 ≤ w || (s.boot.soft && !openInSoft w) then (0, s)
  else match wideHit w with
    | some h =>
      if h.high then
        match tabFind s.host.smbLatch (w - 4) with
        | some v => (v, { s with host := { s.host with smbLatch := tabDel s.host.smbLatch (w - 4) } })
        | none => (s.wordRead w, s)
      else
        let latch := tabPut s.host.smbLatch w (s.wordRead (w + 4))
        (s.wordRead w, { s with host := { s.host with smbLatch := latch } })
    | none => (s.wordRead w, s)

/-- Set the pointer; `pecOk` false: the controller's PEC byte is wrong, and the transaction is ignored (R455). -/
def State.smbPointer (s : State) (p : Nat) (pecOk : Bool) : State :=
  if !pecOk || p % 4 != 0 then s.emit .smbNack
  else State.emit { s with host := { s.host with smbPtr := p } } (.smb [])

def execSmbSetPointer (p : Word) (pecOk : Bool) (s : State) : Result :=
  .next (s.smbLive (fun s => s.smbPointer p.toNat pecOk))

/-- The word at the pointer, then the pointer moves on by 4. -/
def State.smbRead (s : State) : State :=
  let p := s.host.smbPtr
  let (v, s) := s.smbWord p
  State.emit { s with host := { s.host with smbPtr := (p + 4) % 2 ^ 32 } } (.smb (leBytes 4 v))

def execSmbRead (s : State) : Result := .next (s.smbLive (fun s => s.smbRead))

/-- A write to one of the three registers that accept it; any other offset is not acknowledged (R456). -/
def State.smbWrite (s : State) (off v : Nat) (pecOk : Bool) : State :=
  if !pecOk || !([GLB.MODULE_RESET.off, GLB.SCRATCH.off, PWR.PHASE_SEL.off].contains off) then s.emit .smbNack
  else (s.emit (.smb [])).hostWrite off v

def execSmbWrite (off v : Word) (pecOk : Bool) (s : State) : Result :=
  .next (s.smbLive (fun s => s.smbWrite off.toNat v.toNat pecOk))

/-- The target's 7-bit address (R455). -/
def State.smbAddress (s : State) : Nat := 0x2C + s.pins.smbAddr

/-- SMB_ALERT_N is asserted (R457). -/
def State.smbAlert (s : State) : Bool :=
  s.flag FLT.FAULT_ACTIVE || s.get PWR.THERM_LEVEL != 0 || s.flag PWR.PFAIL ||
    (List.range 5).any (fun n => s.flag GLB.PIN_STUCK n)

/-- SMB_ALERT_RESPONSE: the target's own address, in bits [7:1] of the byte (SMBus; PRESUMED, log 30). -/
def execSmbAlertResponse (s : State) : Result :=
  .next (s.smbLive (fun s => s.emit (.smb (leBytes 1 (2 * s.smbAddress)))))

end Sys2Proof.Machine
end

