-- ==== Sys2Proof/Machine/Dispatch.lean ====
section
/-!
DEFINITION. One arm for each command: a direct call of its meaning.
-/
namespace Sys2Proof.Machine

def exec (i : Instr) (s : State) : Host.Outcome State Fault Refusal :=
  match i with
  | .regWrite b off v => Sys2Proof.Machine.execRegWrite b off v s
  | .rcFieldRead b off => Sys2Proof.Machine.execRcFieldRead b off s
  | .lowWordRead off => Sys2Proof.Machine.execLowWordRead off s
  | .highWordRead off => Sys2Proof.Machine.execHighWordRead off s
  | .highWordWrite off v => Sys2Proof.Machine.execHighWordWrite off v s
  | .bar0BadAccess => Sys2Proof.Machine.execBar0BadAccess s
  | .bar4BadAccess => Sys2Proof.Machine.execBar4BadAccess s
  | .rxFrame p data fin => Sys2Proof.Machine.execRxFrame p data fin s
  | .parse pipe slot => Sys2Proof.Machine.execParse pipe slot s
  | .stageLookupIssue pipe stage e0 e1 e2 e3 => Sys2Proof.Machine.execStageLookupIssue pipe stage e0 e1 e2 e3 s
  | .stageActionRun pipe stage err rd => Sys2Proof.Machine.execStageActionRun pipe stage err rd s
  | .holdListLink r => Sys2Proof.Machine.execHoldListLink r s
  | .residueLink port => Sys2Proof.Machine.execResidueLink port s
  | .replResume r => Sys2Proof.Machine.execReplResume r s
  | .schedSelect port slot copies => Sys2Proof.Machine.execSchedSelect port slot copies s
  | .launchTimeReached queue => Sys2Proof.Machine.execLaunchTimeReached queue s
  | .txStart p rd => Sys2Proof.Machine.execTxStart p rd s
  | .txUnderrun p => Sys2Proof.Machine.execTxUnderrun p s
  | .txComplete p rd => Sys2Proof.Machine.execTxComplete p rd s
  | .trmWindowEnd n count replica => Sys2Proof.Machine.execTrmWindowEnd n count replica s
  | .hoursIncrement f ok => Sys2Proof.Machine.execHoursIncrement f ok s
  | .droopDetect detector mv => Sys2Proof.Machine.execDroopDetect detector mv s
  | .droopRecover shard => Sys2Proof.Machine.execDroopRecover shard s
  | .vcoreUndervolt mv => Sys2Proof.Machine.execVcoreUndervolt mv s
  | .bgStarved a => Sys2Proof.Machine.execBgStarved a s
  | .loadBank bank => Sys2Proof.Machine.execLoadBank bank s
  | .loadHost => Sys2Proof.Machine.execLoadHost s
  | .writeBank bank ok => Sys2Proof.Machine.execWriteBank bank ok s
  | .verifyBank bank => Sys2Proof.Machine.execVerifyBank bank s
  | .swap => Sys2Proof.Machine.execSwap s
  | .imgAbort bytes => Sys2Proof.Machine.execImgAbort bytes s
  | .imgFetchError bytes => Sys2Proof.Machine.execImgFetchError bytes s
  | .imgVerifyComplete bytes bad => Sys2Proof.Machine.execImgVerifyComplete bytes bad s
  | .fullLoadReady => Sys2Proof.Machine.execFullLoadReady s
  | .bankCommit ok => Sys2Proof.Machine.execBankCommit ok s
  | .epochRetire => Sys2Proof.Machine.execEpochRetire s
  | .retireOverdue => Sys2Proof.Machine.execRetireOverdue s
  | .retireForce => Sys2Proof.Machine.execRetireForce s
  | .anComplete p tech lp => Sys2Proof.Machine.execAnComplete p tech lp s
  | .anFail p => Sys2Proof.Machine.execAnFail p s
  | .ltCoeffRequest lane r => Sys2Proof.Machine.execLtCoeffRequest lane r s
  | .trainingComplete p => Sys2Proof.Machine.execTrainingComplete p s
  | .trainFail p => Sys2Proof.Machine.execTrainFail p s
  | .linkUp p => Sys2Proof.Machine.execLinkUp p s
  | .alignTimeout p => Sys2Proof.Machine.execAlignTimeout p s
  | .linkDown p => Sys2Proof.Machine.execLinkDown p s
  | .portDownHoldExpire p => Sys2Proof.Machine.execPortDownHoldExpire p s
  | .portEnable p => Sys2Proof.Machine.execPortEnable p s
  | .portDisable p => Sys2Proof.Machine.execPortDisable p s
  | .testEnter p => Sys2Proof.Machine.execTestEnter p s
  | .testExit p => Sys2Proof.Machine.execTestExit p s
  | .portRestart p => Sys2Proof.Machine.execPortRestart p s
  | .fecClear p => Sys2Proof.Machine.execFecClear p s
  | .txFfeWrite lane v => Sys2Proof.Machine.execTxFfeWrite lane v s
  | .adaptRestart lane => Sys2Proof.Machine.execAdaptRestart lane s
  | .pauseFrameRx p pfc vector q0 q1 q2 q3 q4 q5 q6 q7 => Sys2Proof.Machine.execPauseFrameRx p pfc vector q0 q1 q2 q3 q4 q5 q6 q7 s
  | .pauseTimerExpire p prio => Sys2Proof.Machine.execPauseTimerExpire p prio s
  | .pauseTx p => Sys2Proof.Machine.execPauseTx p s
  | .pauseRefresh p prio => Sys2Proof.Machine.execPauseRefresh p prio s
  | .stormEnter p prio => Sys2Proof.Machine.execStormEnter p prio s
  | .stormExit p prio => Sys2Proof.Machine.execStormExit p prio s
  | .chkLock lane syms => Sys2Proof.Machine.execChkLock lane syms s
  | .lockLost lane syms => Sys2Proof.Machine.execLockLost lane syms s
  | .chkClear lane => Sys2Proof.Machine.execChkClear lane s
  | .inject lane => Sys2Proof.Machine.execInject lane s
  | .emInsert t => Sys2Proof.Machine.execEmInsert t s
  | .emReplace t => Sys2Proof.Machine.execEmReplace t s
  | .emDelete t => Sys2Proof.Machine.execEmDelete t s
  | .emSearch t => Sys2Proof.Machine.execEmSearch t s
  | .learnInsert => Sys2Proof.Machine.execLearnInsert s
  | .ageVisit f t => Sys2Proof.Machine.execAgeVisit f t s
  | .emClaspRequest r => Sys2Proof.Machine.execEmClaspRequest r s
  | .emClaspGrant r => Sys2Proof.Machine.execEmClaspGrant r s
  | .emClaspRelease r => Sys2Proof.Machine.execEmClaspRelease r s
  | .aseWriteAt p => Sys2Proof.Machine.execAseWriteAt p s
  | .aseInsertAt p => Sys2Proof.Machine.execAseInsertAt p s
  | .aseDeleteAt p => Sys2Proof.Machine.execAseDeleteAt p s
  | .aseSearchCmd p r e => Sys2Proof.Machine.execAseSearchCmd p r e s
  | .aseStep p r e => Sys2Proof.Machine.execAseStep p r e s
  | .aseReadAt p r => Sys2Proof.Machine.execAseReadAt p r s
  | .aseClaspRequest b => Sys2Proof.Machine.execAseClaspRequest b s
  | .aseClaspGrant b => Sys2Proof.Machine.execAseClaspGrant b s
  | .aseClaspRelease b => Sys2Proof.Machine.execAseClaspRelease b s
  | .migrateCmd b => Sys2Proof.Machine.execMigrateCmd b s
  | .bankMigrationStart f => Sys2Proof.Machine.execBankMigrationStart f s
  | .bankMigrationDone f ok => Sys2Proof.Machine.execBankMigrationDone f ok s
  | .planishScrubStep f w e last => Sys2Proof.Machine.execPlanishScrubStep f w e last s
  | .calibrationStep f lane eq snr => Sys2Proof.Machine.execCalibrationStep f lane eq snr s
  | .counterFlushStep f shard e => Sys2Proof.Machine.execCounterFlushStep f shard e s
  | .wearLevelStep f line ok => Sys2Proof.Machine.execWearLevelStep f line ok s
  | .telemetryExportStep f set bad => Sys2Proof.Machine.execTelemetryExportStep f set bad s
  | .migrationRowCopy f => Sys2Proof.Machine.execMigrationRowCopy f s
  | .anvilTrap f raised => Sys2Proof.Machine.execAnvilTrap f raised s
  | .variantSwitch r => Sys2Proof.Machine.execVariantSwitch r s
  | .timeSet => Sys2Proof.Machine.execTimeSet s
  | .timeStep => Sys2Proof.Machine.execTimeStep s
  | .timeSnapshot => Sys2Proof.Machine.execTimeSnapshot s
  | .timeRateCommit high => Sys2Proof.Machine.execTimeRateCommit high s
  | .holdover => Sys2Proof.Machine.execHoldover s
  | .refclkLost => Sys2Proof.Machine.execRefclkLost s
  | .refclkRestored => Sys2Proof.Machine.execRefclkRestored s
  | .chipletRefclkLost n => Sys2Proof.Machine.execChipletRefclkLost n s
  | .triggerArm n => Sys2Proof.Machine.execTriggerArm n s
  | .triggerFire n => Sys2Proof.Machine.execTriggerFire n s
  | .pinCapture pin falling => Sys2Proof.Machine.execPinCapture pin falling s
  | .ppsAbsent => Sys2Proof.Machine.execPpsAbsent s
  | .ppsOutPulse => Sys2Proof.Machine.execPpsOutPulse s
  | .ppsOutPulseEnd => Sys2Proof.Machine.execPpsOutPulseEnd s
  | .configChange p => Sys2Proof.Machine.execConfigChange p s
  | .gateDisable p => Sys2Proof.Machine.execGateDisable p s
  | .gateConfigStart p => Sys2Proof.Machine.execGateConfigStart p s
  | .gateEntryChange p => Sys2Proof.Machine.execGateEntryChange p s
  | .fsRdPtrWrite shard v => Sys2Proof.Machine.execFsRdPtrWrite shard v s
  | .fsBatchSend f shard => Sys2Proof.Machine.execFsBatchSend f shard s
  | .counterFlush => Sys2Proof.Machine.execCounterFlush s
  | .counterFlushDone => Sys2Proof.Machine.execCounterFlushDone s
  | .loupeStart => Sys2Proof.Machine.execLoupeStart s
  | .loupeStop => Sys2Proof.Machine.execLoupeStop s
  | .loupeWindowEnd => Sys2Proof.Machine.execLoupeWindowEnd s
  | .loupeCounterWrap u k n => Sys2Proof.Machine.execLoupeCounterWrap u k n s
  | .samplingOverflow k n => Sys2Proof.Machine.execSamplingOverflow k n s
  | .samplingCtrlWrite k reload v => Sys2Proof.Machine.execSamplingCtrlWrite k reload v s
  | .bwWindowEnd => Sys2Proof.Machine.execBwWindowEnd s
  | .bezelWrite off data en => Sys2Proof.Machine.execBezelWrite off data en s
  | .poisonedWrite b => Sys2Proof.Machine.execPoisonedWrite b s
  | .ringPoll n => Sys2Proof.Machine.execRingPoll n s
  | .ringEnable n => Sys2Proof.Machine.execRingEnable n s
  | .ringDisable n => Sys2Proof.Machine.execRingDisable n s
  | .ringCoalExpire n => Sys2Proof.Machine.execRingCoalExpire n s
  | .rxRingWrite r rd => Sys2Proof.Machine.execRxRingWrite r rd s
  | .rxRingStall r => Sys2Proof.Machine.execRxRingStall r s
  | .txRingTake t => Sys2Proof.Machine.execTxRingTake t s
  | .dmaGo c => Sys2Proof.Machine.execDmaGo c s
  | .dmaBurst c data => Sys2Proof.Machine.execDmaBurst c data s
  | .dmaReadbackDone c ok => Sys2Proof.Machine.execDmaReadbackDone c ok s
  | .dmaAbort c => Sys2Proof.Machine.execDmaAbort c s
  | .clearHalt c => Sys2Proof.Machine.execClearHalt c s
  | .shadowArm c => Sys2Proof.Machine.execShadowArm c s
  | .shadowCancel c => Sys2Proof.Machine.execShadowCancel c s
  | .shadowFieldWrite c off v => Sys2Proof.Machine.execShadowFieldWrite c off v s
  | .pcieLinkDown => Sys2Proof.Machine.execPcieLinkDown s
  | .busMasterDisable => Sys2Proof.Machine.execBusMasterDisable s
  | .d3hotEntry => Sys2Proof.Machine.execD3hotEntry s
  | .hostResume => Sys2Proof.Machine.execHostResume s
  | .msixUnmask v => Sys2Proof.Machine.execMsixUnmask v s
  | .glbIntEnWrite en => Sys2Proof.Machine.execGlbIntEnWrite en s
  | .railSample rail mv da valid => Sys2Proof.Machine.execRailSample rail mv da valid s
  | .powerWindowEnd => Sys2Proof.Machine.execPowerWindowEnd s
  | .phaseSelect n => Sys2Proof.Machine.execPhaseSelect n s
  | .phaseEntryWrite n w v => Sys2Proof.Machine.execPhaseEntryWrite n w v s
  | .opTransitionDone mv => Sys2Proof.Machine.execOpTransitionDone mv s
  | .tempSample readings => Sys2Proof.Machine.execTempSample readings s
  | .thermalStep => Sys2Proof.Machine.execThermalStep s
  | .powerFail pin f ok => Sys2Proof.Machine.execPowerFail pin f ok s
  | .pfailDone => Sys2Proof.Machine.execPfailDone s
  | .powerRecovery => Sys2Proof.Machine.execPowerRecovery s
  | .faultDecision => Sys2Proof.Machine.execFaultDecision s
  | .faultRecord ok => Sys2Proof.Machine.execFaultRecord ok s
  | .maskWindowEnd => Sys2Proof.Machine.execMaskWindowEnd s
  | .autoReset => Sys2Proof.Machine.execAutoReset s
  | .firstClr => Sys2Proof.Machine.execFirstClr s
  | .faultNClr => Sys2Proof.Machine.execFaultNClr s
  | .aliveRestart => Sys2Proof.Machine.execAliveRestart s
  | .portSafeRelease p => Sys2Proof.Machine.execPortSafeRelease p s
  | .injectEvent => Sys2Proof.Machine.execInjectEvent s
  | .injectMemory => Sys2Proof.Machine.execInjectMemory s
  | .injectLane => Sys2Proof.Machine.execInjectLane s
  | .fuseSlot b fuseOk => Sys2Proof.Machine.execFuseSlot b fuseOk s
  | .fuseImageKey b fuseOk => Sys2Proof.Machine.execFuseImageKey b fuseOk s
  | .enterField b fuseOk => Sys2Proof.Machine.execEnterField b fuseOk s
  | .enterService b => Sys2Proof.Machine.execEnterService b s
  | .revokeSlot b fuseOk => Sys2Proof.Machine.execRevokeSlot b fuseOk s
  | .raiseFloor b fuseOk => Sys2Proof.Machine.execRaiseFloor b fuseOk s
  | .retire b fuseOk => Sys2Proof.Machine.execRetire b fuseOk s
  | .getVersion => Sys2Proof.Machine.execGetVersion s
  | .getCapabilities => Sys2Proof.Machine.execGetCapabilities s
  | .negotiateAlgorithms => Sys2Proof.Machine.execNegotiateAlgorithms s
  | .getDigests => Sys2Proof.Machine.execGetDigests s
  | .getCertificate off len => Sys2Proof.Machine.execGetCertificate off len s
  | .challenge summary => Sys2Proof.Machine.execChallenge summary s
  | .getMeasurements op signed => Sys2Proof.Machine.execGetMeasurements op signed s
  | .bypass => Sys2Proof.Machine.execBypass s
  | .idcode => Sys2Proof.Machine.execIdcode s
  | .samplePreload preload cells => Sys2Proof.Machine.execSamplePreload preload cells s
  | .extest => Sys2Proof.Machine.execExtest s
  | .internalScan => Sys2Proof.Machine.execInternalScan s
  | .assayGo ppm vcoreOk => Sys2Proof.Machine.execAssayGo ppm vcoreOk s
  | .assayTestDone units accesses tokens => Sys2Proof.Machine.execAssayTestDone units accesses tokens s
  | .assayAbort => Sys2Proof.Machine.execAssayAbort s
  | .assayConditionFail order => Sys2Proof.Machine.execAssayConditionFail order s
  | .powerOn addr resetLow => Sys2Proof.Machine.execPowerOn addr resetLow s
  | .resetNAssert => Sys2Proof.Machine.execResetNAssert s
  | .resetNRelease => Sys2Proof.Machine.execResetNRelease s
  | .moduleReset confirm => Sys2Proof.Machine.execModuleReset confirm s
  | .softReset confirm => Sys2Proof.Machine.execSoftReset confirm s
  | .pipeGo target => Sys2Proof.Machine.execPipeGo target s
  | .portGo target => Sys2Proof.Machine.execPortGo target s
  | .inputGlitch pin excess => Sys2Proof.Machine.execInputGlitch pin excess s
  | .inputStuck pin => Sys2Proof.Machine.execInputStuck pin s
  | .inputUnstuck pin => Sys2Proof.Machine.execInputUnstuck pin s
  | .smbSetPointer p pecOk => Sys2Proof.Machine.execSmbSetPointer p pecOk s
  | .smbRead => Sys2Proof.Machine.execSmbRead s
  | .smbWrite off v pecOk => Sys2Proof.Machine.execSmbWrite off v pecOk s
  | .smbAlertResponse => Sys2Proof.Machine.execSmbAlertResponse s
  | .linkOkChange p lf rf hiSer deskew am cw => Sys2Proof.Machine.execLinkOkChange p lf rf hiSer deskew am cw s
  | .cdrLockChange lane signal lock => Sys2Proof.Machine.execCdrLockChange lane signal lock s
  | .pcieLinkUp speed width => Sys2Proof.Machine.execPcieLinkUp speed width s
  | .shaperDebtRepaid kind index => Sys2Proof.Machine.execShaperDebtRepaid kind index s
  | .lEnergyWindowEnd => Sys2Proof.Machine.execLEnergyWindowEnd s
  | .lanesReady => Sys2Proof.Machine.execLanesReady s

end Sys2Proof.Machine
end

