-- ==== Sys2Proof/Safety.lean ====
section
/-!
DEFINITION. The terms in which claims about the module are made: what a command completes with, what it leaves unchanged, and
what no command may undo.
-/
namespace Sys2Proof.Machine

/-- The command runs: it answers a next state, of which `P` holds. -/
def Completes (c : Instr) (s : State) (P : State → Prop) : Prop := ∃ t, exec c s = .next t ∧ P t

/-- An activity of Anvil executes its microword: not halted (R375), not stopped by a power failure (R387), and powered. -/
abbrev AnvilRuns (s : State) (act : Nat) : Prop :=
  s.bitOf Reg.ANVL.ACT_HALTED act = false ∧ s.flag Reg.ANVL.PFAIL_COMMIT = false ∧ s.boot.powered = true ∧
    s.stepGranted act = true

/-- The fetch's word executes from a copy that passes parity, and its access does not wait. -/
abbrev FetchClean (s : State) (f : Fetch) : Prop := s.fetched f = .runs ∧ f.waits = false

/-- The state in which a granted step does its work: the step is counted, and its access waits no longer (R51, R379). -/
abbrev State.stepped (s : State) (act : Nat) : State := (s.stepTake act).accessGranted act

/-- The checker of a lane compares its own generator's bits, in the near-end loopback (R103). -/
def State.chkLoops (s : State) (lane : Nat) : Bool :=
  match s.portOfLane lane with
  | some p => s.get Reg.PORT.LOOPBACK p == 1 && s.flag Reg.LANE.GEN_EN lane
  | none => false

/-- A lane's checker after the symbols `syms` at its contacts (R101). -/
def State.chkRun (s : State) (lane : Nat) (syms : List (Fin 4)) : ChkRun :=
  (syms.map (fun x => polarity (s.flag Reg.LANE.RX_POL lane) x.val)).foldl (fun r x => r.symbol (s.chkSet lane) x)
    { c := tabGet {} s.buf.chk lane, lock := s.flag Reg.LANE.CHK_LOCK lane }

/-- Nothing but register fields differs between `s` and `t`. -/
def RegsOnly (s t : State) : Prop := { t with regs := s.regs } = s

/-- Every register field other than those listed reads the same in `s` and `t`. -/
def RegsSame (s t : State) (keys : List Nat) : Prop := ∀ k, k ∉ keys → tabFind t.regs k = tabFind s.regs k

/-- Nothing but the register fields listed differs between `s` and `t`. -/
def OnlyFields (s t : State) (keys : List Nat) : Prop := RegsOnly s t ∧ RegsSame s t keys

/-- Every register but the instances of the fields listed holds the same value in `s` and `t`. -/
def OnlyWrites (fs : List Fld) (s t : State) : Prop :=
  ∀ k, (∀ f ∈ fs, ∀ i j, k ≠ f.key i j) → tabFind t.regs k = tabFind s.regs k

/-- The canonical form of the device memory. -/
abbrev MemInv (s : State) : Prop := memWf s.dev = true

/-- What the fuses and the secrets of the module may become: the life-cycle state never goes back (R408), a fused slot keeps
its hash and a revoked one stays revoked (R60, R413), the floor never falls (R413), and a destroyed identity key does not
return (R410). -/
structure FusesGrow (a b : MilSt) : Prop where
  life : a.fused.code ≤ b.fused.code
  slots : ∀ k h, tabFind a.slots k = some h → tabFind b.slots k = some h
  revoked : ∀ k, bit a.revoked k = true → bit b.revoked k = true
  floor : a.floor ≤ b.floor
  serial : b.serial = a.serial
  identity : a.idKey = none → b.idKey = none

/-! ### What a command may touch -/

/-- The parts of the state, the queue apart. -/
inductive Part where
  | regs | dev | draws | readData | outbox | time | core | pwr | flt | act | anvil
  | host | img | mil | assay | pins | boot | buf | pipe | que | tele
  deriving DecidableEq, Repr

/-- A part is the same in `s` and `t`. -/
def Part.Same (s t : State) : Part → Prop
  | .regs => t.regs = s.regs
  | .dev => t.dev = s.dev
  | .draws => t.draws = s.draws
  | .readData => t.readData = s.readData
  | .outbox => t.outbox = s.outbox
  | .time => t.time = s.time
  | .core => t.core = s.core
  | .pwr => t.pwr = s.pwr
  | .flt => t.flt = s.flt
  | .act => t.act = s.act
  | .anvil => t.anvil = s.anvil
  | .host => t.host = s.host
  | .img => t.img = s.img
  | .mil => t.mil = s.mil
  | .assay => t.assay = s.assay
  | .pins => t.pins = s.pins
  | .boot => t.boot = s.boot
  | .buf => t.buf = s.buf
  | .pipe => t.pipe = s.pipe
  | .que => t.que = s.que
  | .tele => t.tele = s.tele

/-- Every part that is not listed is the same in `s` and `t`, and so is the queue. -/
structure Touches (ps : List Part) (s t : State) : Prop where
  pending : t.pending = s.pending
  same : ∀ p, p ∉ ps → p.Same s t

/-- Every part of the state but those listed. -/
def allBut (ps : List Part) : List Part :=
  [.regs, .dev, .draws, .readData, .outbox, .time, .core, .pwr, .flt, .act, .anvil, .host, .img, .mil, .assay, .pins, .boot, .buf, .pipe, .que, .tele].filter
    (fun p => !ps.contains p)

/-- The parts of the state that a command may touch. -/
def touchedBy : Instr → List Part
  | .regWrite .. => allBut [.pins]
  | .rcFieldRead .. => [.regs, .readData, .outbox, .flt, .host]
  | .lowWordRead .. => [.regs, .readData, .outbox, .flt, .host]
  | .highWordRead .. => [.regs, .readData, .outbox, .flt, .host]
  | .highWordWrite .. => allBut [.pins]
  | .bar0BadAccess => [.regs, .readData, .outbox, .flt, .host]
  | .bar4BadAccess => [.regs, .readData, .outbox, .flt, .host]
  | .rxFrame .. => [.regs, .dev, .draws, .outbox, .flt, .act, .host, .buf, .pipe, .que, .tele]
  | .parse .. => [.regs, .draws, .outbox, .flt, .act, .host, .buf, .pipe, .que, .tele]
  | .stageLookupIssue .. => [.regs, .dev, .outbox, .flt, .act, .host, .pipe]
  | .stageActionRun .. => [.regs, .dev, .draws, .outbox, .flt, .act, .host, .buf, .pipe, .que, .tele]
  | .holdListLink .. => [.regs, .draws, .outbox, .flt, .act, .host, .buf, .que]
  | .residueLink .. => [.regs, .draws, .outbox, .flt, .act, .host, .buf, .que]
  | .replResume .. => [.regs, .draws, .outbox, .flt, .act, .host, .buf, .que]
  | .schedSelect .. => [.regs, .dev, .draws, .outbox, .flt, .act, .host, .buf, .pipe, .que, .tele]
  | .launchTimeReached .. => [.que]
  | .txStart .. => [.regs, .dev, .draws, .outbox, .flt, .act, .host, .buf, .que, .tele]
  | .txUnderrun .. => [.regs, .outbox, .flt, .act, .host, .buf, .que, .tele]
  | .txComplete .. => [.regs, .dev, .draws, .outbox, .flt, .act, .host, .buf, .que, .tele]
  | .trmWindowEnd .. => [.regs, .draws, .core, .flt, .pipe]
  | .hoursIncrement .. => [.regs, .dev, .core, .pwr, .flt, .anvil, .buf]
  | .droopDetect .. => [.regs, .core]
  | .droopRecover .. => [.core]
  | .vcoreUndervolt .. => [.flt]
  | .bgStarved .. => [.regs, .flt, .anvil]
  | .loadBank .. => [.regs, .dev, .outbox, .flt, .anvil, .host, .img]
  | .loadHost => [.regs, .dev, .outbox, .flt, .anvil, .host, .img]
  | .writeBank .. => [.regs, .dev, .outbox, .flt, .anvil, .host, .img]
  | .verifyBank .. => [.regs, .dev, .outbox, .flt, .anvil, .host, .img]
  | .swap => [.regs, .dev, .outbox, .flt, .anvil, .host, .img]
  | .imgAbort .. => [.regs, .dev, .draws, .outbox, .flt, .act, .anvil, .host, .img, .pipe]
  | .imgFetchError .. => allBut [.readData, .core, .pwr, .mil, .assay, .pins, .boot]
  | .imgVerifyComplete .. => allBut [.readData, .core, .pwr, .mil, .assay, .pins, .boot]
  | .fullLoadReady => allBut [.readData, .anvil, .mil, .assay, .pins]
  | .bankCommit .. => [.regs, .dev, .outbox, .flt, .anvil, .host, .img]
  | .epochRetire => [.regs, .outbox, .host]
  | .retireOverdue => [.regs, .flt, .img]
  | .retireForce => [.regs, .outbox, .flt, .act, .host, .buf, .pipe, .que, .tele]
  | .anComplete .. => [.regs, .draws, .outbox, .flt, .act, .host, .buf, .pipe, .que, .tele]
  | .anFail .. => [.regs, .draws, .outbox, .flt, .act, .host, .buf, .pipe, .que, .tele]
  | .ltCoeffRequest .. => [.regs, .outbox]
  | .trainingComplete .. => [.regs, .draws, .outbox, .buf]
  | .trainFail .. => [.regs, .draws, .outbox, .flt, .act, .host, .buf, .pipe, .que, .tele]
  | .linkUp .. => [.regs, .outbox, .host, .buf]
  | .alignTimeout .. => [.regs, .draws, .outbox, .flt, .act, .host, .buf, .pipe, .que, .tele]
  | .linkDown .. => [.regs, .draws, .outbox, .flt, .act, .host, .buf, .pipe, .que, .tele]
  | .portDownHoldExpire .. => [.regs, .outbox, .flt, .act, .host, .buf, .pipe, .que, .tele]
  | .portEnable .. => [.regs, .draws, .outbox, .flt, .act, .host, .buf, .pipe, .que, .tele]
  | .portDisable .. => [.regs, .draws, .outbox, .flt, .act, .host, .buf, .pipe, .que, .tele]
  | .testEnter .. => [.regs, .draws, .outbox, .flt, .act, .host, .buf, .pipe, .que, .tele]
  | .testExit .. => [.regs, .draws, .outbox, .flt, .act, .host, .buf, .pipe, .que, .tele]
  | .portRestart .. => [.regs, .draws, .outbox, .flt, .act, .host, .buf, .pipe, .que, .tele]
  | .fecClear .. => [.regs]
  | .txFfeWrite .. => [.regs]
  | .adaptRestart .. => [.regs, .draws]
  | .pauseFrameRx .. => [.regs, .act, .buf, .tele]
  | .pauseTimerExpire .. => [.buf]
  | .pauseTx .. => [.regs, .outbox, .act, .buf, .tele]
  | .pauseRefresh .. => [.regs, .outbox, .act, .buf, .tele]
  | .stormEnter .. => [.regs, .draws, .outbox, .flt, .host]
  | .stormExit .. => [.regs, .outbox, .host]
  | .chkLock .. => [.regs, .buf]
  | .lockLost .. => [.regs, .buf]
  | .chkClear .. => [.regs]
  | .inject .. => [.outbox, .buf]
  | .emInsert .. => [.regs, .dev, .outbox, .flt, .act, .host, .pipe]
  | .emReplace .. => [.regs, .dev, .outbox, .flt, .act, .host, .pipe]
  | .emDelete .. => [.regs, .dev, .outbox, .flt, .act, .host, .pipe]
  | .emSearch .. => [.regs, .dev, .outbox, .flt, .act, .host, .pipe]
  | .learnInsert => [.regs, .dev, .outbox, .flt, .act, .host, .pipe]
  | .ageVisit .. => [.regs, .dev, .outbox, .flt, .act, .anvil, .host, .buf]
  | .emClaspRequest .. => [.regs]
  | .emClaspGrant .. => [.regs]
  | .emClaspRelease .. => [.regs]
  | .aseWriteAt .. => [.regs, .dev, .outbox, .flt, .act, .host, .pipe]
  | .aseInsertAt .. => [.regs, .dev, .outbox, .flt, .act, .host, .pipe]
  | .aseDeleteAt .. => [.regs, .dev, .outbox, .flt, .act, .host, .pipe]
  | .aseSearchCmd .. => [.regs, .dev, .outbox, .flt, .act, .host, .pipe]
  | .aseStep .. => [.regs, .dev, .outbox, .flt, .act, .host, .pipe]
  | .aseReadAt .. => [.regs, .outbox, .act, .host, .pipe]
  | .aseClaspRequest .. => [.regs]
  | .aseClaspGrant .. => [.regs]
  | .aseClaspRelease .. => [.regs]
  | .migrateCmd .. => [.regs, .flt, .buf]
  | .bankMigrationStart .. => [.regs, .flt, .anvil, .buf]
  | .bankMigrationDone .. => [.regs, .dev, .outbox, .flt, .anvil, .host, .buf]
  | .planishScrubStep .. => [.regs, .dev, .outbox, .flt, .act, .anvil, .host, .buf, .pipe]
  | .calibrationStep .. => [.regs, .flt, .anvil, .buf]
  | .counterFlushStep .. => [.regs, .dev, .outbox, .flt, .act, .anvil, .host, .buf, .tele]
  | .wearLevelStep .. => [.regs, .dev, .flt, .anvil, .buf]
  | .telemetryExportStep .. => [.regs, .dev, .outbox, .flt, .act, .anvil, .host, .buf, .tele]
  | .migrationRowCopy .. => [.regs, .flt, .anvil, .buf]
  | .anvilTrap .. => [.regs, .flt, .anvil, .buf]
  | .variantSwitch .. => [.regs, .anvil]
  | .timeSet => [.regs, .outbox, .time, .core, .pwr, .flt, .host, .img, .que, .tele]
  | .timeStep => [.regs, .outbox, .time, .core, .pwr, .flt, .host, .img, .que, .tele]
  | .timeSnapshot => [.regs]
  | .timeRateCommit .. => [.regs, .outbox, .time, .core, .pwr, .flt, .host, .img, .que, .tele]
  | .holdover => [.regs, .outbox, .flt, .host]
  | .refclkLost => [.regs, .outbox, .flt, .host]
  | .refclkRestored => [.regs]
  | .chipletRefclkLost .. => [.regs, .outbox, .time, .flt, .buf]
  | .triggerArm .. => [.regs, .time]
  | .triggerFire .. => [.regs, .outbox, .time, .core, .pwr, .flt, .host, .img, .tele]
  | .pinCapture .. => [.regs, .outbox, .time, .core, .pwr, .host, .pins]
  | .ppsAbsent => [.regs, .flt]
  | .ppsOutPulse => [.time]
  | .ppsOutPulseEnd => [.time]
  | .configChange .. => [.regs, .que]
  | .gateDisable .. => [.regs, .que]
  | .gateConfigStart .. => [.regs, .que]
  | .gateEntryChange .. => [.que]
  | .fsRdPtrWrite .. => [.regs]
  | .fsBatchSend .. => [.regs, .outbox, .flt, .act, .anvil, .host, .buf, .tele]
  | .counterFlush => [.regs, .tele]
  | .counterFlushDone => [.regs, .dev, .outbox, .flt, .act, .host, .tele]
  | .loupeStart => [.regs, .tele]
  | .loupeStop => [.regs, .outbox, .host]
  | .loupeWindowEnd => [.regs, .outbox, .host]
  | .loupeCounterWrap .. => [.regs]
  | .samplingOverflow .. => [.regs, .outbox, .host]
  | .samplingCtrlWrite .. => [.regs]
  | .bwWindowEnd => [.regs, .tele]
  | .bezelWrite .. => [.regs, .dev, .outbox, .flt, .act, .host, .buf, .pipe, .que, .tele]
  | .poisonedWrite .. => [.regs, .outbox, .flt, .host]
  | .ringPoll .. => [.regs, .dev, .outbox, .flt, .act, .host, .buf, .pipe, .que, .tele]
  | .ringEnable .. => [.regs, .host]
  | .ringDisable .. => [.regs]
  | .ringCoalExpire .. => [.outbox, .host]
  | .rxRingWrite .. => [.regs, .dev, .draws, .outbox, .flt, .act, .host, .buf, .que, .tele]
  | .rxRingStall .. => [.regs, .flt, .host]
  | .txRingTake .. => [.regs, .dev, .outbox, .flt, .act, .host, .buf, .pipe, .que, .tele]
  | .dmaGo .. => [.regs, .outbox, .host]
  | .dmaBurst .. => [.regs, .dev, .outbox, .flt, .act, .host, .buf, .pipe, .que, .tele]
  | .dmaReadbackDone .. => [.regs, .outbox, .host]
  | .dmaAbort .. => [.regs, .outbox, .host]
  | .clearHalt .. => [.regs, .outbox, .host]
  | .shadowArm .. => [.regs, .outbox, .host]
  | .shadowCancel .. => [.regs]
  | .shadowFieldWrite .. => [.regs, .host]
  | .pcieLinkDown => [.regs, .outbox, .flt, .host, .img]
  | .busMasterDisable => [.regs, .outbox, .flt, .host, .img]
  | .d3hotEntry => [.regs, .outbox, .flt, .host, .img]
  | .hostResume => [.regs, .outbox, .host]
  | .msixUnmask .. => [.outbox, .host]
  | .glbIntEnWrite .. => [.regs, .outbox, .host]
  | .railSample .. => [.regs, .outbox, .core, .pwr, .flt, .act, .host, .assay, .pins]
  | .powerWindowEnd => [.regs, .outbox, .core, .pwr, .flt, .act, .host]
  | .phaseSelect .. => [.regs, .outbox, .core, .pwr, .host]
  | .phaseEntryWrite .. => [.regs, .outbox, .pwr, .host]
  | .opTransitionDone .. => [.regs, .core]
  | .tempSample .. => [.regs, .outbox, .core, .pwr, .flt, .host, .assay]
  | .thermalStep => [.regs, .outbox, .core, .pwr, .host]
  | .powerFail .. => allBut [.readData, .time, .mil, .boot]
  | .pfailDone => [.regs]
  | .powerRecovery => allBut [.readData, .pins]
  | .faultDecision => [.regs, .draws, .outbox, .flt, .act, .host, .boot, .buf, .pipe, .que, .tele]
  | .faultRecord .. => [.regs, .dev, .outbox, .flt, .act, .anvil, .host]
  | .maskWindowEnd => [.flt]
  | .autoReset => allBut [.readData, .pins]
  | .firstClr => [.regs]
  | .faultNClr => [.regs]
  | .aliveRestart => [.regs]
  | .portSafeRelease .. => [.regs, .draws, .outbox, .flt, .act, .host, .buf, .pipe, .que, .tele]
  | .injectEvent => [.regs, .flt]
  | .injectMemory => [.regs, .flt]
  | .injectLane => [.regs, .outbox]
  | .fuseSlot .. => allBut [.readData, .pwr, .anvil, .assay, .pins, .boot]
  | .fuseImageKey .. => allBut [.readData, .pwr, .anvil, .assay, .pins, .boot]
  | .enterField .. => allBut [.readData, .pwr, .anvil, .assay, .pins, .boot]
  | .enterService .. => allBut [.readData, .pwr, .anvil, .assay, .pins, .boot]
  | .revokeSlot .. => allBut [.readData, .pwr, .anvil, .assay, .pins, .boot]
  | .raiseFloor .. => allBut [.readData, .pwr, .anvil, .assay, .pins, .boot]
  | .retire .. => allBut [.readData, .pwr, .anvil, .assay, .pins, .boot]
  | .getVersion => [.outbox, .mil]
  | .getCapabilities => [.outbox, .mil]
  | .negotiateAlgorithms => [.outbox, .mil]
  | .getDigests => [.outbox]
  | .getCertificate .. => [.outbox]
  | .challenge .. => [.draws, .outbox]
  | .getMeasurements .. => [.draws, .outbox]
  | .bypass => [.outbox, .pins]
  | .idcode => [.outbox, .pins]
  | .samplePreload .. => [.outbox, .pins]
  | .extest => [.regs, .draws, .outbox, .flt, .act, .host, .pins, .buf, .pipe, .que, .tele]
  | .internalScan => [.outbox, .pins]
  | .assayGo .. => allBut [.readData, .time, .pwr, .anvil, .mil, .pins, .boot]
  | .assayTestDone .. => [.regs, .dev, .draws, .outbox, .core, .flt, .host, .assay, .buf, .tele]
  | .assayAbort => [.regs, .outbox, .core, .host, .assay]
  | .assayConditionFail .. => [.regs, .outbox, .core, .host, .assay]
  | .powerOn .. => allBut []
  | .resetNAssert => [.regs, .outbox, .flt, .act, .host, .pins, .boot, .buf, .pipe, .que, .tele]
  | .resetNRelease => allBut [.readData]
  | .moduleReset .. => allBut [.readData, .pins]
  | .softReset .. => allBut [.readData, .pins]
  | .pipeGo .. => [.regs, .draws, .outbox, .flt, .act, .host, .boot, .buf, .pipe, .que, .tele]
  | .portGo .. => [.regs, .draws, .outbox, .flt, .act, .host, .boot, .buf, .pipe, .que, .tele]
  | .inputGlitch .. => [.regs]
  | .inputStuck .. => [.regs, .outbox, .flt, .host]
  | .inputUnstuck .. => [.regs, .pins]
  | .smbSetPointer .. => [.outbox, .host]
  | .smbRead => [.outbox, .host]
  | .smbWrite .. => allBut [.readData, .pins]
  | .smbAlertResponse => [.outbox]
  | .linkOkChange .. => [.regs, .outbox, .host, .buf]
  | .cdrLockChange .. => [.regs, .time]
  | .pcieLinkUp .. => [.regs]
  | .shaperDebtRepaid .. => [.que]
  | .lEnergyWindowEnd => [.regs, .flt, .act]
  | .lanesReady => [.regs, .draws, .outbox, .flt, .act, .host, .buf, .pipe, .que, .tele]

/-! ### What registers a command may write -/

/-- What counting an event for Loupe and the sampling counters may write (R310, R312). -/
def tallyFields : List Fld := [Reg.GLB.PENDING, Reg.TELE.S_LOST, Reg.TELE.S_OVF, Reg.TELE.S_VALUE, Reg.TELE.U_CNT, Reg.TELE.U_WRAP]

/-- What giving back a packet's ingots may write (R224, R225, R231, R71). -/
def releaseFields : List Fld := [Reg.CRUC.HANDLE_ERR, Reg.CRUC.HDRM_USED, Reg.CRUC.HELD, Reg.CRUC.MIN_USED, Reg.CRUC.QL_CHECK, Reg.CRUC.QL_POOL, Reg.CRUC.QL_SLOT, Reg.CRUC.QL_VALID, Reg.CRUC.SHR_USED, Reg.CRUC.XOFF, Reg.IMG.INFLIGHT]

/-- What taking ingots for a packet may write (R218 to R221). -/
def allocFields : List Fld := [Reg.CRUC.ALLOC, Reg.CRUC.CHAIN_FRAMES, Reg.CRUC.FALLBACK, Reg.CRUC.SPILL_FAIL, Reg.CRUC.SPILL_FRAMES, Reg.CRUC.SPILL_SEGS]

/-- What queueing a postcard may write (R296, R306). -/
def cardFields : List Fld := [Reg.TELE.COL_LOST, Reg.TELE.HM_EG_PORT, Reg.TELE.HM_REASON, Reg.TELE.HM_SKIPPED, Reg.TELE.HM_VALID]

/-- What ending an image command may write (R77). -/
def resultFields : List Fld := [Reg.IMG.ACTIVITY, Reg.IMG.CMD_DONE, Reg.IMG.DETAIL, Reg.IMG.FAIL_SECTION, Reg.IMG.LAST_OPCODE, Reg.IMG.RESULT]

/-- What the fetch of a microword may write (R375). -/
def checkFields : List Fld := [Reg.ANVL.ACT_HALTED, Reg.ANVL.MC_CORR, Reg.ANVL.MC_COUNT, Reg.ANVL.MC_LIST_FULL, Reg.ANVL.MC_UNCORR, Reg.ANVL.ML_ACTIVITY, Reg.ANVL.ML_REDIRECTED, Reg.ANVL.ML_SECOND, Reg.ANVL.ML_UPC, Reg.ANVL.ML_VALID, Reg.ANVL.REDIRECT_USED]

/-- What a write of the module store may write (R384, R385). -/
def storeFields : List Fld := [Reg.ANVL.MS_LOW, Reg.ANVL.MS_WRITES]

/-- What a change of a port's link state may write (R90). -/
def linkFields : List Fld := [Reg.LANE.CHK_LOCK, Reg.LANE.MAIN, Reg.LANE.POST, Reg.LANE.PRE, Reg.LANE.TRAINING_ACTIVE, Reg.PORT.AN_DONE, Reg.PORT.LINK_STATE, Reg.PORT.LINK_UP, Reg.PORT.TRAIN_DONE]

/-- What a change of the target operating point may write (R360, R361). -/
def targetFields : List Fld := [Reg.CORE.IN_TRANSITION, Reg.CORE.TGT_OP, Reg.PWR.LIMIT, Reg.PWR.LIMIT_EVT]

/-- What the end of a DMA transfer may write (R344 to R346). -/
def dmaEndFields : List Fld := [Reg.HOST.D_DONE, Reg.HOST.D_RESIDUE, Reg.HOST.D_RESULT, Reg.HOST.D_STATE]

/-- What taking over the shadow set may write (R348). -/
def shadowFields : List Fld := [Reg.HOST.D_COUNT, Reg.HOST.D_DST, Reg.HOST.D_DST_W, Reg.HOST.D_FULL_IE, Reg.HOST.D_HALF_IE, Reg.HOST.D_HANDOVERS, Reg.HOST.D_NARROW_OK, Reg.HOST.D_SRC, Reg.HOST.D_SRC_W, Reg.HOST.D_TAKEN]

/-- What the edits at egress may write (R204, R255, R281, R283, R297 to R299). -/
def editFields : List Fld := [Reg.QSCH.ECN_SKIPPED, Reg.TELE.HM_FIXUP_SKIPPED, Reg.TELE.IOAM_FULL, Reg.TELE.SHIM_FULL, Reg.TIME.TC_SKIPPED, Reg.TIME.TC_UPDATED, Reg.TIME.TS_CAPTURED, Reg.TIME.TS_LOST]

/-- What a parity error of the search engine may write (R178, R179). -/
def repairFields : List Fld := [Reg.ASE.PL_BANK, Reg.ASE.PL_BY_SEARCH, Reg.ASE.PL_INDEX, Reg.ASE.PL_REPAIRED, Reg.ASE.PL_VALID, Reg.ASE.P_ERRORS, Reg.ASE.SRAM_CORR]

/-- What a commit record may write (R63). -/
def commitFields : List Fld := [Reg.IMG.A_SEQUENCE, Reg.IMG.A_VALID, Reg.IMG.B_SEQUENCE, Reg.IMG.B_VALID]

/-- What a port that leaves UP may write (R91, R261). -/
def leaveFields : List Fld := [Reg.CRUC.CT_STOMPED, Reg.PORT.EV_LINK_DOWN_EVT, Reg.PORT.LINK_FLAPS, Reg.PORT.RX_ERRORS, Reg.QSCH.FLUSHED, Reg.QSCH.HOLD_ACTIVE, Reg.QSCH.MC_RESIDUE_DISCARDS]

/-- What the end of an exact-match command may write (R145). -/
def emEndFields : List Fld := [Reg.EM.CMD_CODE, Reg.EM.CMD_DONE, Reg.EM.CMD_FLAGS, Reg.EM.CMD_IN_STASH, Reg.EM.CMD_LOCATION, Reg.EM.CMD_RESULT]

/-- What a Milest command may write beside its effect (R411, R412). -/
def milestFields : List Fld := [Reg.MIL.DONE, Reg.MIL.LAST_COMMAND, Reg.MIL.RESULT]

/-- A command that may write registers at large: an access of the host to any register (R10 to R13, R457), a reset (R431), or a
full load (R67). -/
def writesAtLarge : Instr → Bool
  | .regWrite .. => true
  | .rcFieldRead .. => true
  | .lowWordRead .. => true
  | .highWordRead .. => true
  | .highWordWrite .. => true
  | .imgFetchError .. => true
  | .imgVerifyComplete .. => true
  | .fullLoadReady => true
  | .powerRecovery => true
  | .autoReset => true
  | .powerOn .. => true
  | .resetNRelease => true
  | .moduleReset .. => true
  | .softReset .. => true
  | .smbWrite .. => true
  | _ => false

/-- The register fields that a command may write, the commands of `writesAtLarge` apart. -/
def writtenBy : Instr → List Fld
  | .regWrite .. => []
  | .rcFieldRead .. => []
  | .lowWordRead .. => []
  | .highWordRead .. => []
  | .highWordWrite .. => []
  | .bar0BadAccess => [Reg.HOST.ACCESS_ERR, Reg.GLB.PENDING]
  | .bar4BadAccess => [Reg.HOST.ACCESS_ERR, Reg.GLB.PENDING]
  | .rxFrame .. => tallyFields ++ releaseFields ++ allocFields ++ cardFields ++ [Reg.PORT.FCS_ERR, Reg.PORT.RUNT, Reg.PORT.OVERSIZE, Reg.PORT.RX_ERRORS, Reg.PORT.MAC_CTRL_OTHER, Reg.PORT.PAUSE_IGNORED, Reg.PORT.PAUSE_RX, Reg.PORT.XON_RX, Reg.PORT.PFC_RX_XOFF, Reg.PARSE.LATE_SHORT, Reg.PARSE.SP_COUNT, Reg.PARSE.SP_POLICED, Reg.MAP.RECIRC_OUT, Reg.MAP.RECIRC_LIMIT, Reg.MAP.VERDICT_DROPS, Reg.MAP.NO_DEST, Reg.MAP.ACTION_ERR, Reg.MAP.COUNT_RANGE, Reg.MAP.LE_STAGE, Reg.MAP.LE_KIND, Reg.MAP.LE_WORD, Reg.MAP.LE_VALID, Reg.CRUC.CT_FRAMES, Reg.CRUC.CT_STOMPED, Reg.CRUC.HOLD_FULL, Reg.CRUC.BREACH, Reg.QSCH.POLICER_DROPS, Reg.QSCH.MC_INVALID, Reg.QSCH.MC_NO_COPY, Reg.QSCH.REPL_STALLS, Reg.QSCH.BAD_QUEUE, Reg.QSCH.DOWN_DISCARDS, Reg.QSCH.MC_RESIDUE_DISCARDS, Reg.QSCH.LAUNCH_REFUSED, Reg.TIME.PTP_RX, Reg.TELE.CNT_ECC]
  | .parse .. => tallyFields ++ releaseFields ++ allocFields ++ cardFields ++ [Reg.PARSE.PASSES, Reg.PARSE.LM_CAUSE, Reg.PARSE.LM_STATE, Reg.PARSE.LM_CURSOR, Reg.PARSE.LM_VALID, Reg.PARSE.MALF_COUNT, Reg.PARSE.LATE_SHORT, Reg.PARSE.SP_COUNT, Reg.PARSE.SP_POLICED, Reg.MAP.RECIRC_OUT, Reg.CRUC.EXHAUSTED, Reg.CRUC.CT_FRAMES, Reg.CRUC.CT_STOMPED, Reg.CRUC.PARSE_ABANDON, Reg.CRUC.HOLD_FULL, Reg.QSCH.BAD_QUEUE, Reg.QSCH.DOWN_DISCARDS, Reg.QSCH.MC_RESIDUE_DISCARDS, Reg.QSCH.LAUNCH_REFUSED]
  | .stageLookupIssue .. => tallyFields ++ repairFields ++ [Reg.FIL.LOOKUPS, Reg.FIL.HITS, Reg.FIL.ERRORS, Reg.EM.ECC_CORR, Reg.EM.T_LOOKUPS, Reg.EM.T_HITS, Reg.EM.T_DUPLICATES, Reg.EM.T_ERRORS, Reg.ASE.P_SEARCHES, Reg.ASE.P_HITS, Reg.ASE.P_MULTI_HITS, Reg.MAP.ACTION_ERR, Reg.MAP.LE_STAGE, Reg.MAP.LE_KIND, Reg.MAP.LE_WORD, Reg.MAP.LE_VALID]
  | .stageActionRun .. => tallyFields ++ releaseFields ++ cardFields ++ editFields ++ [Reg.PARSE.SP_COUNT, Reg.PARSE.SP_POLICED, Reg.EM.T_LEARN_DROP, Reg.MAP.RECIRC_OUT, Reg.MAP.RECIRC_LIMIT, Reg.MAP.VERDICT_DROPS, Reg.MAP.NO_DEST, Reg.MAP.EG_DROPS, Reg.MAP.ACTION_ERR, Reg.MAP.COUNT_RANGE, Reg.MAP.EDIT_ERR, Reg.MAP.EDIT_OVERSIZE, Reg.MAP.EDIT_PAD, Reg.MAP.LE_STAGE, Reg.MAP.LE_KIND, Reg.MAP.LE_WORD, Reg.MAP.LE_VALID, Reg.CRUC.CT_FRAMES, Reg.CRUC.HOLD_FULL, Reg.CRUC.SEG_LOST, Reg.CRUC.CORR, Reg.CRUC.REBUILT, Reg.CRUC.MS_DEGRADED, Reg.QSCH.POLICER_DROPS, Reg.QSCH.MC_INVALID, Reg.QSCH.MC_NO_COPY, Reg.QSCH.REPL_STALLS, Reg.QSCH.BAD_QUEUE, Reg.QSCH.DOWN_DISCARDS, Reg.QSCH.MC_RESIDUE_DISCARDS, Reg.QSCH.LAUNCH_REFUSED, Reg.TELE.FC_EVICTED, Reg.TELE.CNT_ECC, Reg.TELE.FS_WR_PTR, Reg.TELE.FS_RD_PTR, Reg.TELE.FS_FS_LOST, Reg.HOST.R_INDEX, Reg.HOST.R_GEN, Reg.HOST.R_PENDING, Reg.HOST.R_COMPLETED, Reg.HOST.R_DISCARDS]
  | .holdListLink .. => tallyFields ++ releaseFields ++ [Reg.MAP.RECIRC_OUT, Reg.CRUC.CT_FRAMES, Reg.CRUC.HOLD_FULL, Reg.QSCH.REPL_STALLS, Reg.QSCH.BAD_QUEUE, Reg.QSCH.DOWN_DISCARDS, Reg.QSCH.MC_RESIDUE_DISCARDS, Reg.QSCH.LAUNCH_REFUSED]
  | .residueLink .. => tallyFields ++ releaseFields ++ [Reg.MAP.RECIRC_OUT, Reg.CRUC.CT_FRAMES, Reg.QSCH.LAUNCH_REFUSED]
  | .replResume .. => tallyFields ++ releaseFields ++ [Reg.MAP.RECIRC_OUT, Reg.CRUC.CT_FRAMES, Reg.CRUC.HOLD_FULL, Reg.QSCH.REPL_STALLS, Reg.QSCH.BAD_QUEUE, Reg.QSCH.DOWN_DISCARDS, Reg.QSCH.MC_RESIDUE_DISCARDS, Reg.QSCH.LAUNCH_REFUSED]
  | .schedSelect .. => tallyFields ++ releaseFields ++ [Reg.PORT.STORM_DISCARDS, Reg.MAP.EDIT_ERR, Reg.MAP.LE_STAGE, Reg.MAP.LE_KIND, Reg.MAP.LE_WORD, Reg.MAP.LE_VALID, Reg.QSCH.LATE_SENT, Reg.QSCH.LATE_DISCARDS, Reg.QSCH.GATE_OVERSIZE, Reg.HOST.R_STALLED, Reg.HOST.R_DISCARDS]
  | .launchTimeReached .. => []
  | .txStart .. => tallyFields ++ releaseFields ++ cardFields ++ editFields ++ [Reg.MAP.EDIT_OVERSIZE, Reg.CRUC.SEG_LOST, Reg.CRUC.CORR, Reg.CRUC.REBUILT, Reg.CRUC.MS_DEGRADED, Reg.TELE.FC_EVICTED, Reg.TELE.FS_WR_PTR, Reg.TELE.FS_RD_PTR, Reg.TELE.FS_FS_LOST, Reg.HOST.R_INDEX, Reg.HOST.R_GEN, Reg.HOST.R_PENDING, Reg.HOST.R_COMPLETED, Reg.HOST.R_DISCARDS]
  | .txUnderrun .. => tallyFields ++ releaseFields ++ cardFields ++ [Reg.PORT.TX_UNDERRUN]
  | .txComplete .. => tallyFields ++ releaseFields ++ cardFields ++ [Reg.MAP.EDIT_OVERSIZE, Reg.MAP.EDIT_PAD, Reg.CRUC.SEG_LOST, Reg.CRUC.CORR, Reg.CRUC.REBUILT, Reg.CRUC.MS_DEGRADED, Reg.QSCH.ECN_SKIPPED, Reg.TELE.FC_EVICTED, Reg.TELE.FS_WR_PTR, Reg.TELE.FS_RD_PTR, Reg.TELE.FS_FS_LOST, Reg.TELE.COL_SENT]
  | .trmWindowEnd .. => [Reg.CORE.TRIM, Reg.CORE.V_SET, Reg.CORE.FLOOR_MISS, Reg.CORE.TRIM_LIMIT_HIT, Reg.CORE.MISS_WINDOWS, Reg.CORE.MIN_COUNT, Reg.CORE.MIN_INDEX, Reg.CORE.TRM_COUNT, Reg.CORE.TRM_REPLICA, Reg.CORE.TRM_LCORE, Reg.CORE.SKIPPED, Reg.CORE.TRM_LOW, Reg.ASE.P_OVERLOAD, Reg.ASE.P_PEAK_BANK, Reg.ASE.P_PEAK_LOAD]
  | .hoursIncrement .. => checkFields ++ storeFields ++ [Reg.CORE.V_BASE, Reg.CORE.TRIM, Reg.CORE.V_SET, Reg.CORE.HOURS]
  | .droopDetect .. => [Reg.CORE.DROOP_EVENTS]
  | .droopRecover .. => []
  | .vcoreUndervolt .. => []
  | .bgStarved .. => [Reg.CORE.BG_STARVED_EVENTS]
  | .loadBank .. => resultFields ++ storeFields ++ commitFields ++ [Reg.GLB.PENDING]
  | .loadHost => resultFields ++ storeFields ++ commitFields ++ [Reg.GLB.PENDING]
  | .writeBank .. => resultFields ++ storeFields ++ commitFields ++ [Reg.GLB.PENDING]
  | .verifyBank .. => resultFields ++ storeFields ++ commitFields ++ [Reg.GLB.PENDING]
  | .swap => resultFields ++ storeFields ++ commitFields ++ [Reg.GLB.PENDING]
  | .imgAbort .. => tallyFields ++ resultFields ++ storeFields
  | .imgFetchError .. => []
  | .imgVerifyComplete .. => []
  | .fullLoadReady => []
  | .bankCommit .. => resultFields ++ storeFields ++ commitFields ++ [Reg.GLB.PENDING]
  | .epochRetire => [Reg.IMG.RETIRING, Reg.IMG.RETIRED, Reg.GLB.PENDING]
  | .retireOverdue => [Reg.IMG.RETIRE_OVERDUE]
  | .retireForce => tallyFields ++ releaseFields ++ cardFields ++ [Reg.IMG.RETIRING, Reg.IMG.RETIRED, Reg.IMG.RETIRE_DISCARDS]
  | .anComplete .. => tallyFields ++ releaseFields ++ cardFields ++ linkFields ++ leaveFields ++ [Reg.PORT.LP_PAUSE, Reg.PORT.EV_AN_FAIL]
  | .anFail .. => tallyFields ++ releaseFields ++ cardFields ++ linkFields ++ leaveFields ++ [Reg.PORT.EV_AN_FAIL]
  | .ltCoeffRequest .. => [Reg.LANE.PRE, Reg.LANE.MAIN, Reg.LANE.POST]
  | .trainingComplete .. => linkFields
  | .trainFail .. => tallyFields ++ releaseFields ++ cardFields ++ linkFields ++ leaveFields ++ [Reg.PORT.EV_TRAIN_FAIL]
  | .linkUp .. => [Reg.PORT.LINK_STATE, Reg.PORT.LINK_UP, Reg.PORT.EV_LINK_UP_EVT, Reg.QSCH.HOLD_ACTIVE, Reg.GLB.PENDING]
  | .alignTimeout .. => tallyFields ++ releaseFields ++ cardFields ++ linkFields ++ leaveFields ++ [Reg.PORT.EV_ALIGN_TIMEOUT_EVT]
  | .linkDown .. => tallyFields ++ releaseFields ++ cardFields ++ linkFields ++ leaveFields
  | .portDownHoldExpire .. => tallyFields ++ releaseFields ++ cardFields ++ [Reg.QSCH.HOLD_ACTIVE, Reg.QSCH.FLUSHED, Reg.QSCH.MC_RESIDUE_DISCARDS]
  | .portEnable .. => tallyFields ++ releaseFields ++ cardFields ++ linkFields ++ leaveFields ++ [Reg.PORT.ADMIN_UP]
  | .portDisable .. => tallyFields ++ releaseFields ++ cardFields ++ linkFields ++ leaveFields ++ [Reg.PORT.ADMIN_UP]
  | .testEnter .. => tallyFields ++ releaseFields ++ cardFields ++ linkFields ++ leaveFields ++ [Reg.PORT.TEST_MODE]
  | .testExit .. => tallyFields ++ releaseFields ++ cardFields ++ linkFields ++ leaveFields ++ [Reg.PORT.TEST_MODE]
  | .portRestart .. => tallyFields ++ releaseFields ++ cardFields ++ linkFields ++ leaveFields
  | .fecClear .. => [Reg.PORT.CW_TOTAL, Reg.PORT.CW_CORR, Reg.PORT.CW_UNCORR, Reg.PORT.SYM_CORR, Reg.PORT.FEC_BIN]
  | .txFfeWrite .. => [Reg.LANE.FFE_REJECT, Reg.LANE.PRE, Reg.LANE.MAIN, Reg.LANE.POST]
  | .adaptRestart .. => [Reg.LANE.ADAPT_CONVERGED, Reg.LANE.CTLE_PEAK, Reg.LANE.DFE_TAP1, Reg.LANE.RX_FFE_PRE, Reg.LANE.SNR]
  | .pauseFrameRx .. => [Reg.PORT.PAUSE_IGNORED, Reg.PORT.PAUSE_RX, Reg.PORT.XON_RX, Reg.PORT.PFC_RX_XOFF]
  | .pauseTimerExpire .. => []
  | .pauseTx .. => [Reg.PORT.PAUSE_TX, Reg.PORT.XON_TX, Reg.PORT.PFC_TX_XOFF]
  | .pauseRefresh .. => [Reg.PORT.PAUSE_TX, Reg.PORT.XON_TX, Reg.PORT.PFC_TX_XOFF]
  | .stormEnter .. => [Reg.PORT.EV_STORM_ENTER, Reg.PORT.STORM_ACTIVE, Reg.GLB.PENDING]
  | .stormExit .. => [Reg.PORT.EV_STORM_EXIT, Reg.PORT.STORM_ACTIVE, Reg.GLB.PENDING]
  | .chkLock .. => [Reg.LANE.CHK_LOCK, Reg.LANE.LOCK_LOST, Reg.LANE.BIT_ERRORS, Reg.LANE.SYM_ERRORS, Reg.LANE.BITS_CHECKED]
  | .lockLost .. => [Reg.LANE.CHK_LOCK, Reg.LANE.LOCK_LOST, Reg.LANE.BIT_ERRORS, Reg.LANE.SYM_ERRORS, Reg.LANE.BITS_CHECKED]
  | .chkClear .. => [Reg.LANE.LOCK_LOST, Reg.LANE.BIT_ERRORS, Reg.LANE.SYM_ERRORS, Reg.LANE.BITS_CHECKED]
  | .inject .. => []
  | .emInsert .. => tallyFields ++ emEndFields ++ [Reg.EM.CMD_CMD_OVERRUN]
  | .emReplace .. => tallyFields ++ emEndFields ++ [Reg.EM.CMD_CMD_OVERRUN]
  | .emDelete .. => tallyFields ++ emEndFields ++ [Reg.EM.CMD_CMD_OVERRUN]
  | .emSearch .. => tallyFields ++ emEndFields ++ [Reg.EM.CMD_CMD_OVERRUN]
  | .learnInsert => tallyFields ++ emEndFields ++ [Reg.EM.T_LEARNS, Reg.EM.T_LEARN_FAIL, Reg.EM.T_NOTICE_LOST, Reg.HOST.R_INDEX, Reg.HOST.R_GEN, Reg.HOST.R_PENDING, Reg.HOST.R_COMPLETED, Reg.HOST.R_DISCARDS]
  | .ageVisit .. => tallyFields ++ checkFields ++ [Reg.EM.T_AGED, Reg.EM.T_AGE_SKIPPED, Reg.EM.T_NOTICE_LOST, Reg.HOST.R_INDEX, Reg.HOST.R_GEN, Reg.HOST.R_PENDING, Reg.HOST.R_COMPLETED, Reg.HOST.R_DISCARDS]
  | .emClaspRequest .. => [Reg.EM.REQ]
  | .emClaspGrant .. => [Reg.EM.HELD]
  | .emClaspRelease .. => [Reg.EM.REQ, Reg.EM.HELD]
  | .aseWriteAt .. => tallyFields ++ [Reg.ASE.CMD_CODE, Reg.ASE.CMD_DONE]
  | .aseInsertAt .. => tallyFields ++ [Reg.ASE.CMD_CODE, Reg.ASE.CMD_DONE, Reg.ASE.CMD_MOVES, Reg.ASE.P_MOVES]
  | .aseDeleteAt .. => tallyFields ++ [Reg.ASE.CMD_CODE, Reg.ASE.CMD_DONE]
  | .aseSearchCmd .. => tallyFields ++ repairFields ++ [Reg.ASE.CMD_CODE, Reg.ASE.CMD_DONE, Reg.ASE.CMD_MULTI, Reg.ASE.OP_PRIORITY, Reg.ASE.OP_USER, Reg.ASE.OP_RESULT, Reg.ASE.F_BANK, Reg.ASE.F_INDEX, Reg.ASE.F_FOUND, Reg.ASE.P_SEARCHES, Reg.ASE.P_HITS, Reg.ASE.P_MULTI_HITS]
  | .aseStep .. => tallyFields ++ repairFields ++ [Reg.ASE.CMD_CODE, Reg.ASE.CMD_DONE, Reg.ASE.OP_PRIORITY, Reg.ASE.OP_USER, Reg.ASE.OP_RESULT, Reg.ASE.F_BANK, Reg.ASE.F_INDEX, Reg.ASE.F_FOUND]
  | .aseReadAt .. => tallyFields ++ [Reg.ASE.CMD_CODE, Reg.ASE.CMD_DONE, Reg.ASE.OP_KEY, Reg.ASE.OP_MASK, Reg.ASE.OP_PRIORITY, Reg.ASE.OP_USER, Reg.ASE.OP_RESULT, Reg.ASE.F_BANK, Reg.ASE.F_INDEX, Reg.ASE.F_SHADOW, Reg.ASE.F_FOUND]
  | .aseClaspRequest .. => [Reg.ASE.REQ]
  | .aseClaspGrant .. => [Reg.ASE.HELD]
  | .aseClaspRelease .. => [Reg.ASE.REQ, Reg.ASE.HELD]
  | .migrateCmd .. => [Reg.CRUC.MS_DEGRADED]
  | .bankMigrationStart .. => checkFields ++ [Reg.CRUC.MS_BANK, Reg.CRUC.MS_ACTIVE, Reg.CRUC.MS_DEGRADED]
  | .bankMigrationDone .. => checkFields ++ storeFields ++ [Reg.CRUC.MS_ACTIVE, Reg.CRUC.MS_DONE, Reg.CRUC.SM_REPLACES, Reg.CRUC.SM_USED, Reg.GLB.PENDING]
  | .planishScrubStep .. => tallyFields ++ checkFields ++ repairFields ++ [Reg.CRUC.CORR, Reg.CRUC.REBUILT, Reg.CRUC.MS_DEGRADED, Reg.ANVL.COVER_MISS, Reg.ANVL.PLANISH_MS, Reg.ANVL.ASE_PASS_US, Reg.ANVL.SCRUB_CORR, Reg.ANVL.SCRUB_UNCORR]
  | .calibrationStep .. => checkFields ++ [Reg.LANE.ADAPT_CONVERGED, Reg.LANE.CTLE_PEAK, Reg.LANE.DFE_TAP1, Reg.LANE.RX_FFE_PRE, Reg.LANE.SNR]
  | .counterFlushStep .. => tallyFields ++ checkFields ++ [Reg.TELE.CNT_ECC, Reg.ANVL.COVER_MISS, Reg.ANVL.FLUSH_PASS_US]
  | .wearLevelStep .. => checkFields ++ storeFields
  | .telemetryExportStep .. => tallyFields ++ checkFields ++ [Reg.TELE.FC_EVICTED, Reg.TELE.FC_ECC, Reg.TELE.FS_WR_PTR, Reg.TELE.FS_RD_PTR, Reg.TELE.FS_FS_LOST]
  | .migrationRowCopy .. => checkFields
  | .anvilTrap .. => checkFields ++ [Reg.ANVL.TRAPS]
  | .variantSwitch .. => [Reg.ANVL.SELECTED]
  | .timeSet => resultFields ++ targetFields ++ [Reg.IMG.EPOCH, Reg.IMG.RETIRING, Reg.FIL.RULE_COUNT, Reg.FIL.ROOT, Reg.QSCH.OPER_LIST, Reg.QSCH.OPER_VALID, Reg.QSCH.CONFIG_PENDING, Reg.TIME.TOD_VALID, Reg.TIME.HOLDOVER, Reg.TIME.OFF_SEC, Reg.TIME.OFF_NS, Reg.TIME.OFF_FRAC, Reg.TIME.REF, Reg.TIME.T_ARMED, Reg.TIME.T_FIRED, Reg.TIME.T_MISSED, Reg.TIME.T_FIRINGS, Reg.TELE.LP_RUNNING, Reg.TELE.LP_START_MISSED, Reg.TELE.U_WRAP, Reg.TELE.U_TICKS, Reg.TELE.U_CNT, Reg.PWR.PHASE, Reg.PWR.Q_LIMIT, Reg.PWR.PHASE_ERR, Reg.PWR.PHASE_CHANGES, Reg.GLB.PENDING]
  | .timeStep => resultFields ++ targetFields ++ [Reg.IMG.EPOCH, Reg.IMG.RETIRING, Reg.FIL.RULE_COUNT, Reg.FIL.ROOT, Reg.QSCH.OPER_LIST, Reg.QSCH.OPER_VALID, Reg.QSCH.CONFIG_PENDING, Reg.TIME.TOD_VALID, Reg.TIME.HOLDOVER, Reg.TIME.STEP_ERR, Reg.TIME.OFF_SEC, Reg.TIME.OFF_NS, Reg.TIME.OFF_FRAC, Reg.TIME.REF, Reg.TIME.T_ARMED, Reg.TIME.T_FIRED, Reg.TIME.T_MISSED, Reg.TIME.T_FIRINGS, Reg.TELE.LP_RUNNING, Reg.TELE.LP_START_MISSED, Reg.TELE.U_WRAP, Reg.TELE.U_TICKS, Reg.TELE.U_CNT, Reg.PWR.PHASE, Reg.PWR.Q_LIMIT, Reg.PWR.PHASE_ERR, Reg.PWR.PHASE_CHANGES, Reg.GLB.PENDING]
  | .timeSnapshot => [Reg.TIME.SNAP_FRC, Reg.TIME.SNAP_SEC, Reg.TIME.SNAP_NS, Reg.TIME.SNAP_FRAC]
  | .timeRateCommit .. => resultFields ++ targetFields ++ [Reg.IMG.EPOCH, Reg.IMG.RETIRING, Reg.FIL.RULE_COUNT, Reg.FIL.ROOT, Reg.QSCH.OPER_LIST, Reg.QSCH.OPER_VALID, Reg.QSCH.CONFIG_PENDING, Reg.TIME.HOLDOVER, Reg.TIME.RATE, Reg.TIME.OFF_SEC, Reg.TIME.OFF_NS, Reg.TIME.OFF_FRAC, Reg.TIME.REF, Reg.TIME.T_ARMED, Reg.TIME.T_FIRED, Reg.TIME.T_FIRINGS, Reg.TELE.LP_RUNNING, Reg.TELE.LP_START_MISSED, Reg.TELE.U_WRAP, Reg.TELE.U_TICKS, Reg.TELE.U_CNT, Reg.PWR.PHASE, Reg.PWR.Q_LIMIT, Reg.PWR.PHASE_ERR, Reg.PWR.PHASE_CHANGES, Reg.GLB.PENDING]
  | .holdover => [Reg.TIME.HOLDOVER, Reg.TIME.HOLDOVER_EVT, Reg.GLB.PENDING]
  | .refclkLost => [Reg.TIME.REFCLK_LOST, Reg.TIME.REFCLK_LOST_EVT, Reg.GLB.PENDING]
  | .refclkRestored => [Reg.TIME.REFCLK_LOST]
  | .chipletRefclkLost .. => [Reg.LANE.CDR_LOCK, Reg.PORT.DESKEW_OK, Reg.PORT.AM_LOCKED, Reg.TIME.SY_SQUELCHED]
  | .triggerArm .. => [Reg.TIME.T_ARMED, Reg.TIME.T_LATE_ARM]
  | .triggerFire .. => resultFields ++ targetFields ++ [Reg.IMG.EPOCH, Reg.IMG.RETIRING, Reg.FIL.RULE_COUNT, Reg.FIL.ROOT, Reg.TIME.T_ARMED, Reg.TIME.T_FIRED, Reg.TIME.T_FIRINGS, Reg.TELE.LP_RUNNING, Reg.TELE.LP_START_MISSED, Reg.TELE.U_WRAP, Reg.TELE.U_TICKS, Reg.TELE.U_CNT, Reg.PWR.PHASE, Reg.PWR.Q_LIMIT, Reg.PWR.PHASE_ERR, Reg.PWR.PHASE_CHANGES, Reg.GLB.PENDING]
  | .pinCapture .. => targetFields ++ [Reg.TIME.PPS_ABSENT, Reg.TIME.CAPTURE_EVT, Reg.TIME.C_COUNT, Reg.TIME.C_CAP_SEC, Reg.TIME.C_CAP_NS, Reg.TIME.C_CAP_FRAC, Reg.PWR.PHASE, Reg.PWR.Q_LIMIT, Reg.PWR.PHASE_ERR, Reg.PWR.PHASE_CHANGES, Reg.GLB.PIN_LEVEL, Reg.GLB.PIN_EXCESS, Reg.GLB.PENDING]
  | .ppsAbsent => [Reg.TIME.PPS_ABSENT]
  | .ppsOutPulse => []
  | .ppsOutPulseEnd => []
  | .configChange .. => [Reg.QSCH.CONFIG_PENDING, Reg.QSCH.CONFIG_ERR]
  | .gateDisable .. => [Reg.QSCH.GATE_EN, Reg.QSCH.OPER_VALID, Reg.QSCH.CONFIG_PENDING]
  | .gateConfigStart .. => [Reg.QSCH.OPER_LIST, Reg.QSCH.OPER_VALID, Reg.QSCH.CONFIG_PENDING]
  | .gateEntryChange .. => []
  | .fsRdPtrWrite .. => [Reg.TELE.FS_RD_PTR]
  | .fsBatchSend .. => tallyFields ++ checkFields ++ [Reg.TELE.FS_RD_PTR]
  | .counterFlush => [Reg.TELE.FL_BUSY]
  | .counterFlushDone => tallyFields ++ [Reg.TELE.CNT_ECC, Reg.TELE.FL_BUSY, Reg.TELE.FL_DONE]
  | .loupeStart => [Reg.TELE.LP_RUNNING, Reg.TELE.LP_START_MISSED, Reg.TELE.U_WRAP, Reg.TELE.U_TICKS, Reg.TELE.U_CNT]
  | .loupeStop => [Reg.TELE.LP_RUNNING, Reg.TELE.LP_DONE, Reg.TELE.U_TICKS, Reg.GLB.PENDING]
  | .loupeWindowEnd => [Reg.TELE.LP_RUNNING, Reg.TELE.LP_DONE, Reg.TELE.U_TICKS, Reg.GLB.PENDING]
  | .loupeCounterWrap .. => [Reg.TELE.U_WRAP, Reg.TELE.U_CNT]
  | .samplingOverflow .. => [Reg.TELE.S_OVF, Reg.TELE.S_VALUE, Reg.TELE.S_LOST, Reg.GLB.PENDING]
  | .samplingCtrlWrite .. => [Reg.TELE.S_UNIT, Reg.TELE.S_EVENT, Reg.TELE.S_EN, Reg.TELE.S_IE, Reg.TELE.S_OVF, Reg.TELE.S_PRIV_REJECT, Reg.TELE.S_RELOAD, Reg.TELE.S_VALUE]
  | .bwWindowEnd => [Reg.TELE.RX_LAST, Reg.TELE.RX_PEAK, Reg.TELE.RX_EWMA, Reg.TELE.TX_LAST, Reg.TELE.TX_PEAK, Reg.TELE.TX_EWMA]
  | .bezelWrite .. => tallyFields ++ releaseFields ++ allocFields ++ cardFields ++ [Reg.CRUC.EXHAUSTED, Reg.CRUC.CT_STOMPED, Reg.HOST.R_INDEX, Reg.HOST.R_GEN, Reg.HOST.R_STALLED, Reg.HOST.R_PENDING, Reg.HOST.R_COMPLETED, Reg.HOST.R_DISCARDS]
  | .poisonedWrite .. => [Reg.HOST.POISONED, Reg.GLB.PENDING]
  | .ringPoll .. => tallyFields ++ releaseFields ++ allocFields ++ cardFields ++ [Reg.CRUC.EXHAUSTED, Reg.CRUC.CT_STOMPED, Reg.HOST.R_INDEX, Reg.HOST.R_GEN, Reg.HOST.R_STALLED, Reg.HOST.R_PENDING, Reg.HOST.R_COMPLETED, Reg.HOST.R_DISCARDS]
  | .ringEnable .. => [Reg.HOST.R_EN, Reg.HOST.R_INDEX, Reg.HOST.R_GEN, Reg.HOST.R_CONFIG_ERR]
  | .ringDisable .. => [Reg.HOST.R_EN]
  | .ringCoalExpire .. => []
  | .rxRingWrite .. => tallyFields ++ releaseFields ++ cardFields ++ editFields ++ [Reg.MAP.EDIT_OVERSIZE, Reg.MAP.EDIT_PAD, Reg.CRUC.SEG_LOST, Reg.CRUC.CORR, Reg.CRUC.REBUILT, Reg.CRUC.MS_DEGRADED, Reg.TELE.FC_EVICTED, Reg.TELE.FS_WR_PTR, Reg.TELE.FS_RD_PTR, Reg.TELE.FS_FS_LOST, Reg.TELE.COL_SENT, Reg.HOST.R_INDEX, Reg.HOST.R_GEN, Reg.HOST.R_STALLED, Reg.HOST.R_PENDING, Reg.HOST.R_COMPLETED, Reg.HOST.R_DISCARDS]
  | .rxRingStall .. => [Reg.HOST.R_STALLED, Reg.HOST.R_STALL_EVT]
  | .txRingTake .. => tallyFields ++ releaseFields ++ allocFields ++ cardFields ++ [Reg.CRUC.EXHAUSTED, Reg.CRUC.CT_STOMPED, Reg.HOST.R_INDEX, Reg.HOST.R_GEN, Reg.HOST.R_PENDING, Reg.HOST.R_COMPLETED, Reg.HOST.R_DISCARDS]
  | .dmaGo .. => dmaEndFields ++ [Reg.HOST.D_OVERLAP_DESC, Reg.HOST.D_BUSY_WRITE]
  | .dmaBurst .. => tallyFields ++ releaseFields ++ allocFields ++ cardFields ++ dmaEndFields ++ [Reg.CRUC.EXHAUSTED, Reg.CRUC.CT_STOMPED, Reg.HOST.R_INDEX, Reg.HOST.R_GEN, Reg.HOST.R_STALLED, Reg.HOST.R_PENDING, Reg.HOST.R_COMPLETED, Reg.HOST.R_DISCARDS, Reg.HOST.D_HALF, Reg.HOST.D_FAIL_ADDR]
  | .dmaReadbackDone .. => dmaEndFields ++ shadowFields ++ [Reg.HOST.D_OVERLAP_DESC, Reg.HOST.D_SHADOW_VALID]
  | .dmaAbort .. => dmaEndFields
  | .clearHalt .. => dmaEndFields ++ shadowFields ++ [Reg.HOST.D_OVERLAP_DESC, Reg.HOST.D_SHADOW_VALID]
  | .shadowArm .. => dmaEndFields ++ shadowFields ++ [Reg.HOST.D_OVERLAP_DESC, Reg.HOST.D_SHADOW_VALID]
  | .shadowCancel .. => [Reg.HOST.D_SHADOW_VALID]
  | .shadowFieldWrite .. => [Reg.HOST.D_WRITE_REJECTED, Reg.HOST.D_SH_SRC, Reg.HOST.D_SH_DST, Reg.HOST.D_SH_COUNT, Reg.HOST.D_SH_CFG]
  | .pcieLinkDown => resultFields ++ dmaEndFields ++ [Reg.HOST.LINK_UP, Reg.HOST.BUS_MASTER, Reg.HOST.D3HOT, Reg.HOST.LINK_DOWN_EVT, Reg.GLB.PENDING]
  | .busMasterDisable => resultFields ++ dmaEndFields ++ [Reg.HOST.BUS_MASTER, Reg.GLB.PENDING]
  | .d3hotEntry => resultFields ++ dmaEndFields ++ [Reg.HOST.D3HOT, Reg.GLB.PENDING]
  | .hostResume => [Reg.HOST.BUS_MASTER, Reg.HOST.D3HOT]
  | .msixUnmask .. => []
  | .glbIntEnWrite .. => [Reg.GLB.INT_EN, Reg.GLB.PENDING]
  | .railSample .. => targetFields ++ [Reg.CORE.V_MEAS, Reg.IMG.READY, Reg.PWR.MEAS_FAIL, Reg.PWR.OV_EVT, Reg.PWR.RAIL_V, Reg.PWR.RAIL_I, Reg.ASY.STATE, Reg.ASY.REFUSAL, Reg.ASY.DONE, Reg.ASY.ABORTED, Reg.GLB.PENDING]
  | .powerWindowEnd => targetFields ++ [Reg.PWR.Q_LIMIT, Reg.PWR.QUENCH_ACTIVE, Reg.PWR.DISAGREE, Reg.PWR.MEAS_FAIL, Reg.PWR.QUENCH_BUBBLES, Reg.PWR.QUENCH_EVT, Reg.PWR.P_MEAS, Reg.PWR.P_EST, Reg.PWR.P_USED, Reg.PWR.P_PEAK, Reg.GLB.PENDING]
  | .phaseSelect .. => targetFields ++ [Reg.PWR.PHASE, Reg.PWR.Q_LIMIT, Reg.PWR.PHASE_ERR, Reg.PWR.PHASE_CHANGES, Reg.GLB.PENDING]
  | .phaseEntryWrite .. => [Reg.PWR.PHASE_ERR, Reg.PWR.E_PREF_OP, Reg.PWR.E_MIN_OP, Reg.PWR.E_VALID, Reg.PWR.E_CAP, Reg.PWR.E_K, Reg.PWR.E_B_MAX, Reg.GLB.PENDING]
  | .opTransitionDone .. => [Reg.CORE.CUR_OP, Reg.CORE.IN_TRANSITION, Reg.CORE.V_BASE, Reg.CORE.TRIM, Reg.CORE.V_SET]
  | .tempSample .. => targetFields ++ [Reg.IMG.READY, Reg.PWR.T_LIMIT, Reg.PWR.THERM_LEVEL, Reg.PWR.THERM_WARN_EVT, Reg.PWR.SENSOR_FAIL_EVT, Reg.PWR.TG_LEVEL, Reg.PWR.TG_HOTTEST, Reg.PWR.TG_HOT_SENSOR, Reg.PWR.TEMP, Reg.PWR.FAILED, Reg.ASY.STATE, Reg.ASY.REFUSAL, Reg.ASY.DONE, Reg.ASY.ABORTED, Reg.GLB.PENDING]
  | .thermalStep => targetFields ++ [Reg.PWR.T_LIMIT, Reg.PWR.QUENCH_ACTIVE, Reg.PWR.QUENCH_BUBBLES, Reg.PWR.QUENCH_EVT, Reg.GLB.PENDING]
  | .powerFail .. => tallyFields ++ releaseFields ++ cardFields ++ resultFields ++ checkFields ++ storeFields ++ linkFields ++ targetFields ++ dmaEndFields ++ leaveFields ++ [Reg.IMG.READY, Reg.CRUC.MS_ACTIVE, Reg.HOST.R_EN, Reg.PWR.PFAIL, Reg.ANVL.PFAIL_COMMIT, Reg.ASY.STATE, Reg.ASY.REFUSAL, Reg.ASY.DONE, Reg.ASY.ABORTED, Reg.GLB.PIN_LEVEL, Reg.GLB.PIN_EXCESS]
  | .pfailDone => [Reg.PWR.PFAIL_DONE]
  | .powerRecovery => []
  | .faultDecision => tallyFields ++ releaseFields ++ cardFields ++ linkFields ++ leaveFields ++ [Reg.LANE.ADAPT_CONVERGED, Reg.LANE.CTLE_PEAK, Reg.LANE.DFE_TAP1, Reg.LANE.RX_FFE_PRE, Reg.LANE.SNR, Reg.PORT.LF_RX, Reg.PORT.RF_RX, Reg.PORT.HI_SER, Reg.PORT.DESKEW_OK, Reg.PORT.AM_LOCKED, Reg.PORT.LP_PAUSE, Reg.PORT.EV_STORM_EXIT, Reg.PORT.STORM_ACTIVE, Reg.FLT.WORST, Reg.FLT.FIRST_VALID, Reg.FLT.FAULT_ACTIVE, Reg.FLT.ALIVE_STOPPED, Reg.FLT.MODULE_SAFE, Reg.FLT.INT_PENDING, Reg.FLT.LOST, Reg.FLT.SEQ, Reg.FLT.FIRST, Reg.FLT.PORT_SAFE, Reg.FLT.S_EVENTS, Reg.FLT.S_SUPPRESSED, Reg.GLB.BUSY, Reg.GLB.IGNORED]
  | .faultRecord .. => tallyFields ++ storeFields ++ [Reg.HOST.R_INDEX, Reg.HOST.R_GEN, Reg.HOST.R_PENDING, Reg.HOST.R_COMPLETED, Reg.HOST.R_DISCARDS, Reg.FLT.EVR_LOST, Reg.FLT.FLOG_LOST, Reg.FLT.HIST_HEAD, Reg.FLT.HIST_COUNT, Reg.FLT.HIST]
  | .maskWindowEnd => []
  | .autoReset => []
  | .firstClr => [Reg.FLT.WORST, Reg.FLT.FIRST_VALID]
  | .faultNClr => [Reg.FLT.FAULT_ACTIVE]
  | .aliveRestart => [Reg.FLT.ALIVE_STOPPED]
  | .portSafeRelease .. => tallyFields ++ releaseFields ++ cardFields ++ linkFields ++ leaveFields ++ [Reg.FLT.PORT_SAFE]
  | .injectEvent => [Reg.FLT.INJ_REFUSED]
  | .injectMemory => [Reg.FLT.INJ_REFUSED]
  | .injectLane => [Reg.FLT.INJ_REFUSED]
  | .fuseSlot .. => tallyFields ++ releaseFields ++ cardFields ++ resultFields ++ linkFields ++ dmaEndFields ++ leaveFields ++ milestFields ++ [Reg.CORE.LOOP_EN, Reg.IMG.RUN_SRC, Reg.IMG.READY, Reg.IMG.SWAP_ENABLED, Reg.PORT.ADMIN_UP, Reg.TIME.SY_SQUELCHED, Reg.HOST.R_EN, Reg.FLT.MODULE_SAFE]
  | .fuseImageKey .. => tallyFields ++ releaseFields ++ cardFields ++ resultFields ++ linkFields ++ dmaEndFields ++ leaveFields ++ milestFields ++ [Reg.CORE.LOOP_EN, Reg.IMG.RUN_SRC, Reg.IMG.READY, Reg.IMG.SWAP_ENABLED, Reg.PORT.ADMIN_UP, Reg.TIME.SY_SQUELCHED, Reg.HOST.R_EN, Reg.FLT.MODULE_SAFE]
  | .enterField .. => tallyFields ++ releaseFields ++ cardFields ++ resultFields ++ linkFields ++ dmaEndFields ++ leaveFields ++ milestFields ++ [Reg.CORE.LOOP_EN, Reg.IMG.RUN_SRC, Reg.IMG.READY, Reg.IMG.SWAP_ENABLED, Reg.PORT.ADMIN_UP, Reg.TIME.SY_SQUELCHED, Reg.HOST.R_EN, Reg.FLT.MODULE_SAFE]
  | .enterService .. => tallyFields ++ releaseFields ++ cardFields ++ resultFields ++ linkFields ++ dmaEndFields ++ leaveFields ++ milestFields ++ [Reg.CORE.LOOP_EN, Reg.IMG.RUN_SRC, Reg.IMG.READY, Reg.IMG.SWAP_ENABLED, Reg.PORT.ADMIN_UP, Reg.TIME.SY_SQUELCHED, Reg.HOST.R_EN, Reg.FLT.MODULE_SAFE]
  | .revokeSlot .. => tallyFields ++ releaseFields ++ cardFields ++ resultFields ++ linkFields ++ dmaEndFields ++ leaveFields ++ milestFields ++ [Reg.CORE.LOOP_EN, Reg.IMG.RUN_SRC, Reg.IMG.READY, Reg.IMG.SWAP_ENABLED, Reg.PORT.ADMIN_UP, Reg.TIME.SY_SQUELCHED, Reg.HOST.R_EN, Reg.FLT.MODULE_SAFE]
  | .raiseFloor .. => tallyFields ++ releaseFields ++ cardFields ++ resultFields ++ linkFields ++ dmaEndFields ++ leaveFields ++ milestFields ++ [Reg.CORE.LOOP_EN, Reg.IMG.RUN_SRC, Reg.IMG.READY, Reg.IMG.SWAP_ENABLED, Reg.PORT.ADMIN_UP, Reg.TIME.SY_SQUELCHED, Reg.HOST.R_EN, Reg.FLT.MODULE_SAFE]
  | .retire .. => tallyFields ++ releaseFields ++ cardFields ++ resultFields ++ linkFields ++ dmaEndFields ++ leaveFields ++ milestFields ++ [Reg.CORE.LOOP_EN, Reg.IMG.RUN_SRC, Reg.IMG.READY, Reg.IMG.SWAP_ENABLED, Reg.PORT.ADMIN_UP, Reg.TIME.SY_SQUELCHED, Reg.HOST.R_EN, Reg.FLT.MODULE_SAFE]
  | .getVersion => []
  | .getCapabilities => []
  | .negotiateAlgorithms => []
  | .getDigests => []
  | .getCertificate .. => []
  | .challenge .. => []
  | .getMeasurements .. => []
  | .bypass => []
  | .idcode => []
  | .samplePreload .. => []
  | .extest => tallyFields ++ releaseFields ++ cardFields ++ linkFields ++ leaveFields ++ [Reg.FLT.MODULE_SAFE]
  | .internalScan => []
  | .assayGo .. => tallyFields ++ releaseFields ++ cardFields ++ resultFields ++ linkFields ++ targetFields ++ dmaEndFields ++ leaveFields ++ [Reg.HOST.R_EN, Reg.ASY.STATE, Reg.ASY.REFUSAL, Reg.ASY.CURRENT, Reg.ASY.WORST_PPM, Reg.ASY.WORST_CLK, Reg.ASY.LBUF_VALID, Reg.ASY.FAILS, Reg.ASY.REPAIRED, Reg.ASY.UNREPAIRED, Reg.ASY.SPARES_LEFT]
  | .assayTestDone .. => targetFields ++ [Reg.IMG.READY, Reg.CRUC.MS_DEGRADED, Reg.ASY.STATE, Reg.ASY.CURRENT, Reg.ASY.DONE, Reg.ASY.LBUF, Reg.ASY.LBUF_VALID, Reg.ASY.FAILS, Reg.ASY.REPAIRED, Reg.ASY.UNREPAIRED, Reg.ASY.SPARES_LEFT, Reg.GLB.PENDING]
  | .assayAbort => targetFields ++ [Reg.IMG.READY, Reg.ASY.STATE, Reg.ASY.REFUSAL, Reg.ASY.DONE, Reg.ASY.ABORTED, Reg.GLB.PENDING]
  | .assayConditionFail .. => targetFields ++ [Reg.IMG.READY, Reg.ASY.STATE, Reg.ASY.REFUSAL, Reg.ASY.DONE, Reg.ASY.ABORTED, Reg.GLB.PENDING]
  | .powerOn .. => []
  | .resetNAssert => tallyFields ++ releaseFields ++ cardFields ++ [Reg.GLB.PIN_LEVEL, Reg.GLB.PIN_EXCESS]
  | .resetNRelease => []
  | .moduleReset .. => []
  | .softReset .. => []
  | .pipeGo .. => tallyFields ++ releaseFields ++ cardFields ++ linkFields ++ leaveFields ++ [Reg.LANE.ADAPT_CONVERGED, Reg.LANE.CTLE_PEAK, Reg.LANE.DFE_TAP1, Reg.LANE.RX_FFE_PRE, Reg.LANE.SNR, Reg.PORT.LF_RX, Reg.PORT.RF_RX, Reg.PORT.HI_SER, Reg.PORT.DESKEW_OK, Reg.PORT.AM_LOCKED, Reg.PORT.LP_PAUSE, Reg.PORT.EV_STORM_EXIT, Reg.PORT.STORM_ACTIVE, Reg.FLT.PORT_SAFE, Reg.GLB.TARGET, Reg.GLB.BUSY, Reg.GLB.IGNORED]
  | .portGo .. => tallyFields ++ releaseFields ++ cardFields ++ linkFields ++ leaveFields ++ [Reg.LANE.ADAPT_CONVERGED, Reg.LANE.CTLE_PEAK, Reg.LANE.DFE_TAP1, Reg.LANE.RX_FFE_PRE, Reg.LANE.SNR, Reg.PORT.LF_RX, Reg.PORT.RF_RX, Reg.PORT.HI_SER, Reg.PORT.DESKEW_OK, Reg.PORT.AM_LOCKED, Reg.PORT.LP_PAUSE, Reg.PORT.EV_STORM_EXIT, Reg.PORT.STORM_ACTIVE, Reg.FLT.PORT_SAFE, Reg.GLB.TARGET, Reg.GLB.BUSY, Reg.GLB.IGNORED]
  | .inputGlitch .. => [Reg.GLB.PIN_GLITCHES, Reg.GLB.PIN_EXCESS]
  | .inputStuck .. => [Reg.GLB.PIN_LEVEL, Reg.GLB.PIN_STUCK, Reg.GLB.PIN_STUCK_EVT, Reg.GLB.PENDING]
  | .inputUnstuck .. => [Reg.GLB.PIN_LEVEL, Reg.GLB.PIN_STUCK]
  | .smbSetPointer .. => []
  | .smbRead => []
  | .smbWrite .. => []
  | .smbAlertResponse => []
  | .linkOkChange .. => [Reg.PORT.LF_RX, Reg.PORT.RF_RX, Reg.PORT.HI_SER, Reg.PORT.DESKEW_OK, Reg.PORT.AM_LOCKED, Reg.PORT.EV_HI_SER_EVT, Reg.PORT.CW_TOTAL, Reg.PORT.CW_CORR, Reg.PORT.CW_UNCORR, Reg.PORT.SYM_CORR, Reg.PORT.FEC_BIN, Reg.GLB.PENDING]
  | .cdrLockChange .. => [Reg.LANE.SIGNAL_DETECT, Reg.LANE.CDR_LOCK, Reg.TIME.SY_SQUELCHED]
  | .pcieLinkUp .. => [Reg.HOST.LINK_SPEED, Reg.HOST.LINK_WIDTH, Reg.HOST.LINK_UP]
  | .shaperDebtRepaid .. => []
  | .lEnergyWindowEnd => [Reg.PWR.L_ENERGY, Reg.PWR.L_ENERGY_VALID]
  | .lanesReady => tallyFields ++ releaseFields ++ cardFields ++ linkFields ++ leaveFields ++ [Reg.GLB.LANES_READY, Reg.GLB.STEP]

/-! ### Invariants and groups of commands -/

/-- The set point of VCORE lies in its range (R35): the base voltage, the set point itself, and the base with the trim that the
current row holds. -/
abbrev VcoreInv (s : State) : Prop :=
  550 ≤ s.get Reg.CORE.V_BASE ∧ 550 ≤ s.get Reg.CORE.V_SET ∧ s.get Reg.CORE.V_SET ≤ 850 ∧
    s.get Reg.CORE.V_BASE + 2 * s.trimOf (s.get Reg.CORE.CUR_OP) ≤ 850

/-- SERVICE lies over a fused FIELD state (R408, R415). -/
abbrev ServiceInv (s : State) : Prop := s.mil.service = true → s.mil.fused = .field

/-- The event bits of a port, each with its enable (R446). -/
def portEventPairs : List (Fld × Fld) :=
  [(Reg.PORT.EV_LINK_UP_EVT, Reg.PORT.IE_LINK_UP_EVT), (Reg.PORT.EV_LINK_DOWN_EVT, Reg.PORT.IE_LINK_DOWN_EVT),
   (Reg.PORT.EV_AN_FAIL, Reg.PORT.IE_AN_FAIL), (Reg.PORT.EV_TRAIN_FAIL, Reg.PORT.IE_TRAIN_FAIL),
   (Reg.PORT.EV_ALIGN_TIMEOUT_EVT, Reg.PORT.IE_ALIGN_TIMEOUT_EVT), (Reg.PORT.EV_STORM_ENTER, Reg.PORT.IE_STORM_ENTER),
   (Reg.PORT.EV_STORM_EXIT, Reg.PORT.IE_STORM_EXIT), (Reg.PORT.EV_HI_SER_EVT, Reg.PORT.IE_HI_SER_EVT)]

/-- The commands of the IMG block, each with its opcode and the bank it names (R77). -/
def imageCommand : Instr → Option (Nat × Nat)
  | .loadBank b => some (opLoadBank, b.val)
  | .loadHost => some (opLoadHost, 0)
  | .writeBank b _ => some (opWriteBank, b.val)
  | .verifyBank b => some (opVerifyBank, b.val)
  | .swap => some (opSwap, 0)
  | _ => none

/-- A command that may reset the module: a reset itself, power, or a write of the host or the board controller that asks for one
(R428 to R434). -/
def mayReset : Instr → Bool
  | .regWrite .. => true
  | .highWordWrite .. => true
  | .smbWrite .. => true
  | .powerOn .. => true
  | .resetNRelease => true
  | .moduleReset .. => true
  | .softReset .. => true
  | .autoReset => true
  | .powerRecovery => true
  | _ => false

/-- A command whose only stores into the device memory are lines of the module store (R63, R383, R384). -/
def storesInModuleStore : Instr → Bool
  | .hoursIncrement .. => true
  | .loadBank .. => true
  | .loadHost => true
  | .writeBank .. => true
  | .verifyBank .. => true
  | .swap => true
  | .bankCommit .. => true
  | .wearLevelStep .. => true
  | .bankMigrationDone .. => true
  | _ => false

/-- A command whose only stores into the device memory are counter pairs and flow records (R303, R307). -/
def storesCounters : Instr → Bool
  | .counterFlushStep .. => true
  | .counterFlushDone => true
  | .telemetryExportStep .. => true
  | _ => false

end Sys2Proof.Machine
end

