-- ==== Sys2Proof/Certificates/Slice0/Obligations.lean ====
section
/-!
DEFINITION. The statements for the provers: the machine as a whole first, then what the commands of each block do, then single
rules. `Completes c s P` says that `exec c s` answers a next state with `P`.
-/
open Sys2Proof Sys2Proof.Machine Sys2Proof.Machine.Reg

/-- A step takes the command at the front of the queue and runs it on the state with the queue's rest. -/
def Obligations.StepRunsFrontCommand : Prop :=
  ∀ (s : State) (c : Instr) (rest : List Instr), s.pending = c :: rest → step s = exec c { s with pending := rest }

/-- The model's choice for an empty queue (log 2): an unpowered module idles, and a powered one counts one tick of the FRC
(R9, R273). -/
def Obligations.EmptyQueueLetsTimePass : Prop :=
  (∀ s : State, s.pending = [] → s.boot.powered = false → step s = .next s) ∧
  (∀ s : State, s.pending = [] → s.boot.powered = true → s.boot.soft = false →
    step s = .next (s.set TIME.FRC (s.frc + 1))) ∧
  (∀ s : State, s.pending = [] → s.boot.powered = true →
    ∃ t, step s = .next t ∧ t.pending = [] ∧ t.frc = (s.frc + 1) % 2 ^ 64)

/-- Every command answers a next state, from every state, and leaves the queue alone. -/
def Obligations.EveryCommandCompletes : Prop :=
  ∀ (c : Instr) (s : State), ∃ t, exec c s = .next t ∧ t.pending = s.pending

/-- The frame of every command: the parts of the state, the device memory among them, that it leaves as they were. -/
def Obligations.CommandsTouchOnlyTheirParts : Prop :=
  ∀ (c : Instr) (s t : State), exec c s = .next t → Touches (touchedBy c) s t

/-- The frame of every command on the registers: each register that is no instance of a field of `writtenBy` keeps its value. -/
def Obligations.CommandsWriteOnlyTheirRegisters : Prop :=
  ∀ (c : Instr) (s t : State), writesAtLarge c = false → exec c s = .next t → OnlyWrites (writtenBy c) s t

/-- Outputs are only ever appended. -/
def Obligations.OutputsAreOnlyAppended : Prop :=
  ∀ (c : Instr) (s t : State), exec c s = .next t → s.outbox <+: t.outbox

/-- Before the first power-on every register field holds the value of its Reset column (R14), nothing waits, and the fuses hold
what R408 says a module leaves Bolvald with. -/
def Obligations.ResetHoldsTheSpecsValues : Prop :=
  (∀ (f : Fld) (i j : Nat), State.reset.get f i j = f.reset i) ∧
  State.reset.pending = [] ∧ State.reset.outbox = [] ∧ State.reset.boot.powered = false ∧ (∀ a, memByte State.reset.dev a = 0) ∧
  State.reset.lcState = lcManufacture ∧ State.reset.mil.floor = 0 ∧ State.reset.mil.revoked = 0 ∧
  State.reset.mil.imageKey = none ∧ State.reset.mil.idKey.isSome = true ∧
  (tabFind State.reset.mil.slots 0).isSome = true ∧ tabFind State.reset.mil.slots 1 = none ∧
  tabFind State.reset.mil.slots 2 = none ∧ tabFind State.reset.mil.slots 3 = none

/-- The device memory of the state before power-on has its canonical form. -/
def Obligations.ResetMemoryIsCanonical : Prop := MemInv State.reset

/-- Every step keeps the canonical form of the device memory: equal memories are equal lists. -/
def Obligations.StepKeepsMemoryCanonical : Prop :=
  ∀ s t : State, MemInv s → step s = .next t → MemInv t

/-- R408. -/
def Obligations.LifeCycleFollowsItsPaths : Prop :=
  (State.reset.lcState = lcManufacture ∧ State.reset.mil.floor = 0 ∧ State.reset.mil.idKey.isSome = true ∧
    (tabFind State.reset.mil.slots 0).isSome = true) ∧
  (∀ (c : Instr) (s t : State), ServiceInv s → exec c s = .next t → ServiceInv t ∧
    (t.lcState = s.lcState ∨
     (s.lcState = lcManufacture ∧ t.lcState = lcField ∧ ∃ b ok, c = .enterField b ok) ∨
     (s.lcState = lcField ∧ t.lcState = lcService ∧ ∃ b, c = .enterService b) ∨
     (s.lcState = lcService ∧ t.lcState = lcField ∧ mayReset c = true) ∨
     (s.lcState ≠ lcRetired ∧ t.lcState = lcRetired ∧ ∃ b ok, c = .retire b ok)))

/-- No step undoes a fuse (R60, R408, R410, R413). -/
def Obligations.FusesNeverGoBack : Prop :=
  ∀ s t : State, step s = .next t → FusesGrow s.mil t.mil

/-- The monitors of the self-timed core (R39, R43 to R47, R51). -/
def Obligations.CoreMonitorsReport : Prop :=
  (∀ (s : State) (n : Fin 81) (count replica : Word), s.trmDue n = true → s.core.skip = false → s.disturbed = false →
    s.core.ended.length < 80 → lcoreOpen count.toNat replica.toNat = false → 29492 * replica.toNat ≤ 32768 * count.toNat →
    exec (.trmWindowEnd n count replica) s = .next
      { (((((s.set CORE.TRM_COUNT count.toNat n).set CORE.TRM_REPLICA replica.toNat n).set CORE.TRM_LCORE
          (32768 * count.toNat / replica.toNat) n).setB CORE.SKIPPED false n).set CORE.TRM_LOW
          (min count.toNat (s.get CORE.TRM_LOW n)) n) with
        core := { s.core with ended := n.val :: s.core.ended } }) ∧
  (∀ (s : State) (n : Fin 81) (count replica : Word), s.trmDue n = false → exec (.trmWindowEnd n count replica) s = .next s) ∧
  (∀ (s : State) (d : Fin 32) (mv : BitVec 12), mv.toNat + s.get CORE.DROOP_THRESH < s.get CORE.V_SET →
    tabFind s.core.droop (d.val / 4) = none →
    Completes (.droopDetect d mv) s (fun t => tabFind t.core.droop (d.val / 4) = some { start := s.frc } ∧ t.core.skip = true ∧
      t.get CORE.DROOP_EVENTS = satTo (2 ^ 32 - 1) (s.get CORE.DROOP_EVENTS + 1) ∧
      ∀ e, e ≠ d.val / 4 → (tabFind t.core.droop e).isSome = (tabFind s.core.droop e).isSome)) ∧
  (∀ (s : State) (shard : Fin 8) (start since : Nat), tabFind s.core.droop shard = some { start := start, band := some since } →
    start + s.get CORE.MIN_HOLD * 1250 ≤ s.frc → since + s.get CORE.MIN_HOLD * 1250 ≤ s.frc →
    exec (.droopRecover shard) s = .next { s with core := { s.core with droop := tabDel s.core.droop shard } }) ∧
  (∀ (s : State) (shard : Fin 8) (start : Nat), tabFind s.core.droop shard = some { start := start, band := none } →
    exec (.droopRecover shard) s = .next s) ∧
  (∀ (s : State) (mv : BitVec 12), mv.toNat < 450 → exec (.vcoreUndervolt mv) s = .next (s.fault 0x10)) ∧
  (∀ (s : State) (a : Fin 7) (at_ : Nat), tabFind s.anvil.waitAt a = some at_ → s.anvil.starved.contains a.val = false →
    at_ + s.get CORE.BG_WAIT_LIMIT * 1250 < s.frc →
    exec (.bgStarved a) s = .next ((State.inc { s with anvil := { s.anvil with starved := a.val :: s.anvil.starved } }
      CORE.BG_STARVED_EVENTS).fault 0x02)) ∧
  (∀ (s : State) (mv : BitVec 12), s.flag CORE.IN_TRANSITION = true → s.get CORE.TGT_OP < 8 →
    mv.toNat ≤ s.rowVoltage (s.get CORE.TGT_OP) + 5 → s.rowVoltage (s.get CORE.TGT_OP) ≤ mv.toNat + 5 →
    Completes (.opTransitionDone mv) s (fun t => t.get CORE.CUR_OP = s.get CORE.TGT_OP ∧ t.flag CORE.IN_TRANSITION = false ∧
      t.core.relaxRun = 0 ∧ t.core.skip = true))

/-- Power, phases and temperature (R352 to R366, R371). -/
def Obligations.PowerCommandsTakeEffect : Prop :=
  (∀ (s : State) (n : Fin 16), s.regOpen PWR.PHASE_SEL.off = true → s.phaseValid n = true → s.pwr.edge.map PhaseEdge.at_ ≠ some s.frc →
    Completes (.phaseSelect n) s (fun t => t.pwr.govern = s.phaseVal n ∧ t.pwr.overRun = 0 ∧ t.pwr.underRun = 0 ∧
      t.get PWR.PHASE = n.val ∧ t.get PWR.PHASE_CHANGES = satTo (2 ^ 32 - 1) (s.get PWR.PHASE_CHANGES + 1))) ∧
  (∀ (s : State) (n : Fin 16), s.regOpen PWR.PHASE_SEL.off = true → s.phaseValid n = false → s.pwr.edge.map PhaseEdge.at_ ≠ some s.frc →
    Completes (.phaseSelect n) s (fun t => t.flag PWR.PHASE_ERR = true ∧ t.pwr.govern = s.pwr.govern ∧
      t.get PWR.PHASE = s.get PWR.PHASE)) ∧
  (∀ (s : State) (n : Fin 16) (e : PhaseEdge), s.regOpen PWR.PHASE_SEL.off = true → s.pwr.edge = some e → e.at_ = s.frc →
    e.rank < 6 → exec (.phaseSelect n) s = .next s) ∧
  (∀ (s : State) (n : Fin 16) (v : Word), s.regOpen PWR.E_PREF_OP.off = true →
    Completes (.phaseEntryWrite n 0 v) s (fun t => t.get PWR.E_PREF_OP n = bits v.toNat 0 3 ∧
      t.get PWR.E_MIN_OP n = bits v.toNat 8 3 ∧ t.get PWR.E_VALID n = bits v.toNat 16 1)) ∧
  (∀ (s : State) (n : Fin 16) (v : Word), s.regOpen PWR.E_PREF_OP.off = true →
    Completes (.phaseEntryWrite n 1 v) s (fun t => t.get PWR.E_CAP n = bits v.toNat 0 16 ∧
      t.get PWR.E_K n = bits v.toNat 16 8 ∧ t.get PWR.E_B_MAX n = bits v.toNat 24 8)) ∧
  (∀ (s : State) (rail : Fin 7) (mv : BitVec 18) (da : BitVec 14),
    Completes (.railSample rail mv da true) s (fun t => t.get PWR.RAIL_V rail = mv.toNat ∧ t.get PWR.RAIL_I rail = da.toNat)) ∧
  (∀ (s : State) (rail : Fin 7) (mv : BitVec 18) (da : BitVec 14), rail.val ≠ 0 →
    exec (.railSample rail mv da false) s = .next s) ∧
  (∀ s : State, s.powerDue = true → s.pwr.winCount ≠ 0 →
    Completes .powerWindowEnd s (fun t => t.get PWR.P_EST = s.estimate ∧
      t.get PWR.P_MEAS = s.pwr.winSum / (s.pwr.winCount * 10000) % 2 ^ 16 ∧
      t.pwr.winSum = 0 ∧ t.pwr.winCount = 0 ∧ t.pwr.winBad = false ∧ t.pwr.winAt = s.pwr.winAt + 12500)) ∧
  (∀ s : State, s.powerDue = false → exec .powerWindowEnd s = .next s) ∧
  (∀ s : State, s.boot.powered = true → s.act.secAt + 1250000000 ≤ s.frc →
    Completes .lEnergyWindowEnd s (fun t => t.flag PWR.L_ENERGY_VALID = s.trafficMet ∧
      t.get PWR.L_ENERGY = (if s.trafficMet then min 65535 s.lEnergy else s.get PWR.L_ENERGY) ∧
      t.flt = (if s.trafficMet = true ∧ 10240 < s.lEnergy then s.fault 0x00 else s).flt ∧
      t.act.energy = 0 ∧ t.act.bytes = 0 ∧ t.act.secAt = s.act.secAt + 1250000000)) ∧
  (∀ s : State, s.frc < s.act.secAt + 1250000000 → exec .lEnergyWindowEnd s = .next s) ∧
  (∀ (s : State) (readings : List (Fin 288 × BitVec 16)) (n : Fin 288) (r : BitVec 16),
    Completes (.tempSample (readings ++ [(n, r)])) s (fun t => t.get PWR.TEMP n = r.toNat ∧
      tabFind t.pwr.sensorAt n = some s.frc)) ∧
  (∀ s : State, s.pwr.thermNext ≤ s.frc → s.anyQuench = true → 1 < s.get PWR.T_LIMIT → s.get PWR.T_LIMIT < 8 →
    Completes .thermalStep s (fun t => t.get PWR.T_LIMIT = s.get PWR.T_LIMIT - 1 ∧
      t.pwr.thermNext = s.frc + 12500000))

/-- Anvil's housekeeping, the module store and Crucible's bank migration (R37, R236, R374, R376, R379, R384). -/
def Obligations.AnvilCommandsTakeEffect : Prop :=
  (∀ (s : State) (f : Fetch) (ok : Bool), s.boot.powered = true → s.flag PWR.PFAIL = false → 450000000000 ≤ s.hoursTime →
    s.get CORE.HOURS + 1 < 2 ^ 32 →
    Completes (.hoursIncrement f ok) s (fun t => t.get CORE.HOURS = s.get CORE.HOURS + 1 ∧
      t.hoursTime = s.hoursTime - 450000000000)) ∧
  (∀ (s : State) (f : Fetch) (ok : Bool), s.hoursTime < 450000000000 → exec (.hoursIncrement f ok) s = .next s) ∧
  (∀ (s : State) (f : Fetch) (raised : Byte), s.flag ANVL.PFAIL_COMMIT = false → s.boot.powered = true → s.fetched f = .runs →
    Completes (.anvilTrap f raised) s (fun t => t.get ANVL.TRAPS = satTo (2 ^ 32 - 1) (s.get ANVL.TRAPS + (1 + raised.toNat)) ∧
      t.anvil = { s.anvil with frame := none, traps := 0 })) ∧
  (∀ (s : State) (f : Fetch) (raised : Byte), s.flag ANVL.PFAIL_COMMIT = true → exec (.anvilTrap f raised) s = .next s) ∧
  (∀ (s : State) (r : Fin 256) (v : Nat), tabFind s.anvil.selected r = some v →
    exec (.variantSwitch r) s = .next (State.set { s with anvil := { s.anvil with
      selected := tabDel s.anvil.selected r } } ANVL.SELECTED v r)) ∧
  (∀ (s : State) (f : Fetch) (line : BitVec 22), AnvilRuns s actWear → FetchClean s f → s.flt.injMem = [] →
    Completes (.wearLevelStep f line true) s (fun t => t.get ANVL.MS_WRITES = satTo (2 ^ 32 - 1) (s.get ANVL.MS_WRITES + 1) ∧
      ∀ a, memByte t.dev a = memByte s.dev a)) ∧
  (∀ (s : State) (f : Fetch) (line : BitVec 22) (ok : Bool), AnvilRuns s actWear → s.fetched f = .lost →
    exec (.wearLevelStep f line ok) s = .next ((s.stepTake actWear).mcFailed f.upc.toNat actWear)) ∧
  (∀ (s : State) (f : Fetch) (line : BitVec 22) (ok : Bool), s.bitOf ANVL.ACT_HALTED actWear = true ∨
    s.flag ANVL.PFAIL_COMMIT = true ∨ s.stepGranted actWear = false → exec (.wearLevelStep f line ok) s = .next s) ∧
  (∀ (s : State) (b : Fin 4096), s.regOpen CRUC.MC_GO.off = true → b.val < 2304 → s.buf.mig.cur = none →
    s.buf.mig.queue = [] → s.buf.mig.failing = [] → s.sparesLeft ≠ 0 →
    exec (.migrateCmd b) s = .next { s with buf := { s.buf with mig := { s.buf.mig with queue := [(b.val, false)] } } }) ∧
  (∀ (s : State) (f : Fetch) (b k : Nat) (own : Bool) (rest : List (Nat × Bool)), AnvilRuns s actMigration → FetchClean s f →
    s.buf.mig.cur = none → s.buf.mig.queue = (b, own) :: rest → s.freeSpare = some k →
    exec (.bankMigrationStart f) s = .next (((State.set { s.stepped actMigration with buf := { s.buf with
      mig := { s.buf.mig with queue := rest, cur := some (b, k, 0) } } } CRUC.MS_BANK b).setB CRUC.MS_ACTIVE true))) ∧
  (∀ (s : State) (f : Fetch) (b k r : Nat), AnvilRuns s actMigration → FetchClean s f → s.buf.mig.cur = some (b, k, r) →
    r < 8192 →
    exec (.migrationRowCopy f) s = .next { s.stepped actMigration with buf := { s.buf with
      mig := { s.buf.mig with cur := some (b, k, r + 1) } } }) ∧
  (∀ (s : State) (f : Fetch) (b k r : Nat), AnvilRuns s actMigration → FetchClean s f → s.buf.mig.cur = some (b, k, r) →
    8192 ≤ r → k < 64 →
    Completes (.bankMigrationDone f true) s (fun t => t.get CRUC.SM_REPLACES k = b % 2 ^ 12 ∧
      t.flag CRUC.SM_USED k = true ∧ t.flag CRUC.MS_ACTIVE = false ∧ t.flag CRUC.MS_DONE = true ∧ t.buf.mig.cur = none))

/-- Rings, interrupt coalescing and Loupe (R311 to R313, R324, R329). -/
def Obligations.RingAndLoupeCommandsTakeEffect : Prop :=
  (∀ (s : State) (n : Fin 88) (due : Nat), tabFind s.host.coalAt n = some due → due ≤ s.frc → s.msixOpen = true →
    s.msixMasked (s.get HOST.R_VECTOR n) = false →
    exec (.ringCoalExpire n) s = .next { s with
      host := { s.host with coalAt := tabDel s.host.coalAt n }
      outbox := s.outbox ++ [.msix (s.get HOST.R_VECTOR n)
        (s.msixWord (s.get HOST.R_VECTOR n) 0 + 2 ^ 32 * s.msixWord (s.get HOST.R_VECTOR n) 1)
        (s.msixWord (s.get HOST.R_VECTOR n) 2)] }) ∧
  (∀ (s : State) (n : Fin 88), s.regOpen HOST.R_EN.off = true → s.flag HOST.R_EN n = false → s.ringConfigOk n = true →
    Completes (.ringEnable n) s (fun t => t.flag HOST.R_EN n = true ∧ t.get HOST.R_INDEX n = 0 ∧ t.get HOST.R_GEN n = 1)) ∧
  (∀ (s : State) (n : Fin 88), s.regOpen HOST.R_EN.off = true →
    exec (.ringDisable n) s = .next (s.setB HOST.R_EN false n)) ∧
  (∀ s : State, s.regOpen TELE.LP_START.off = true → s.flag TELE.LP_RUNNING = false →
    Completes .loupeStart s (fun t => t.flag TELE.LP_RUNNING = true ∧ t.tele.loupeAt = s.frc ∧
      ∀ u < 72, ∀ i < 8, t.get TELE.U_CNT u i = 0)) ∧
  (∀ s : State, s.regOpen TELE.LP_STOP.off = true → s.flag TELE.LP_RUNNING = true →
    Completes .loupeStop s (fun t => t.flag TELE.LP_RUNNING = false ∧ t.flag TELE.LP_DONE = true)) ∧
  (∀ s : State, s.flag TELE.LP_RUNNING = true → s.get TELE.LOUPE_LEN ≠ 0 → s.tele.loupeAt + s.get TELE.LOUPE_LEN ≤ s.frc →
    Completes .loupeWindowEnd s (fun t => t.flag TELE.LP_RUNNING = false ∧ t.flag TELE.LP_DONE = true)) ∧
  (∀ (s : State) (u : Fin 72) (i : Fin 8) (n : BitVec 48), s.flag TELE.LP_RUNNING = true → s.get (evField i) u ≠ 0 →
    2 ^ 48 ≤ s.get TELE.U_CNT u i + n.toNat →
    Completes (.loupeCounterWrap u i n) s (fun t =>
      t.get TELE.U_CNT u i = (s.get TELE.U_CNT u i + n.toNat) % 2 ^ 48 ∧ t.bitOf TELE.U_WRAP i u = true)) ∧
  (∀ (s : State) (k : Fin 8) (n : BitVec 48), s.flag TELE.S_EN k = true → 2 ^ 48 ≤ s.get TELE.S_VALUE k + n.toNat →
    s.flag TELE.S_OVF k = false →
    Completes (.samplingOverflow k n) s (fun t => t.flag TELE.S_OVF k = true ∧
      t.get TELE.S_VALUE k = (s.get TELE.S_RELOAD k +
        (s.get TELE.S_VALUE k + n.toNat - 2 ^ 48) % (2 ^ 48 - s.get TELE.S_RELOAD k)) % 2 ^ 48 ∧
      t.get TELE.S_LOST k = satTo (2 ^ TELE.S_LOST.wd - 1) (s.get TELE.S_LOST k +
        (s.get TELE.S_VALUE k + n.toNat - 2 ^ 48) / (2 ^ 48 - s.get TELE.S_RELOAD k)))) ∧
  (∀ (s : State) (k : Fin 8) (v : Quad), s.regOpen TELE.S_EN.off = true → s.samplingOpen = true →
    exec (.samplingCtrlWrite k true v) s = .next (s.set TELE.S_RELOAD (v.toNat % 2 ^ 48) k)) ∧
  (∀ (s : State) (k : Fin 8) (v : Quad), s.regOpen TELE.S_EN.off = true → s.samplingOpen = true →
    Completes (.samplingCtrlWrite k false v) s (fun t =>
      t.get TELE.S_UNIT k = bits v.toNat 0 7 ∧ t.get TELE.S_EVENT k = sampleCode (bits v.toNat 0 7) (bits v.toNat 8 8) ∧
      t.flag TELE.S_EN k = bit v.toNat 16 ∧ t.flag TELE.S_IE k = bit v.toNat 17)) ∧
  (∀ s : State, (s.tele.bwAt / (1250 * s.get TELE.BW_WINDOW) + 1) * (1250 * s.get TELE.BW_WINDOW) ≤ s.frc →
    Completes .bwWindowEnd s (fun t => t.tele.bwAt = s.frc / (1250 * s.get TELE.BW_WINDOW) * (1250 * s.get TELE.BW_WINDOW) ∧
      ∀ p ∈ s.portList, tabFind t.tele.bw (2 * p) = none ∧ tabFind t.tele.bw (2 * p + 1) = none))

/-- Counters, flow records and their stores (R302 to R304, R307, R308). -/
def Obligations.TelemetryCommandsTakeEffect : Prop :=
  (∀ s : State, s.regOpen TELE.FLUSH.off = true →
    Completes .counterFlush s (fun t => t.flag TELE.FL_BUSY = true ∧
      ∀ shard, ∀ d ∈ s.deltaList shard, (shard, d.index) ∈ t.tele.flushing)) ∧
  (∀ s : State, s.flag TELE.FL_BUSY = true →
    Completes .counterFlushDone s (fun t => t.flag TELE.FL_BUSY = false ∧ t.flag TELE.FL_DONE = true ∧ t.tele.flushing = [])) ∧
  (∀ (s : State) (f : Fetch) (e : Fin 8) (d : Delta), AnvilRuns s actFlush → FetchClean s f → tabGet 0 s.anvil.cursor actFlush < 2047 →
    s.tele.deltas = [(e.val, [d])] →
    Completes (.counterFlushStep f e .clean) s (fun t => t.tele.deltas = [] ∧
      tabGet 0 t.anvil.cursor actFlush = tabGet 0 s.anvil.cursor actFlush + 1)) ∧
  (∀ (s : State) (f : Fetch) (e : Fin 8) (set : Fin 16384) (x : Flow) (r : Nat), AnvilRuns s actExport → FetchClean s f →
    s.tele.flows = [(4 * (16384 * e.val + set.val), x)] → s.flowDue x = some r →
    Completes (.telemetryExportStep f set []) s (fun t => t.tele.flows = [] ∧
      t.get TELE.FC_EVICTED = satTo (2 ^ 32 - 1) (s.get TELE.FC_EVICTED + 1))) ∧
  (∀ (s : State) (shard : Fin 8) (v : BitVec 20), s.regOpen TELE.FS_RD_PTR.off = true → bit (s.get TELE.FLAGS) 2 = false →
    Completes (.fsRdPtrWrite shard v) s (fun t => t.get TELE.FS_RD_PTR shard =
      if (v.toNat + 2 ^ 20 - s.get TELE.FS_RD_PTR shard) % 2 ^ 20 ≤ s.fsWaiting shard then v.toNat
      else s.get TELE.FS_WR_PTR shard % 2 ^ 20)) ∧
  (∀ (s u : State) (f : Fetch) (shard : Fin 8), AnvilRuns s actExport → FetchClean s f → u = s.stepped actExport →
    bit (u.get TELE.FLAGS) 2 = true → u.colRoom (le (u.sect secTele) 0x18 1) = true → 4 ≤ u.fsWaiting shard →
    exec (.fsBatchSend f shard) s = .next ((((u.qdrOp 16).tally (64 + shard) evCard).colPush (le (u.sect secTele) 0x18 1)
      (u.cardBytes (le (u.sect secTele) 0x18 1) ((List.range 4).flatMap (fun j =>
        u.memAt (flowAddr shard (u.get TELE.FS_RD_PTR shard + j)) 32)))).fsPop shard 4))

/-- Shapers, hold lists, residue and the hold of a port that is down (R228, R245, R258 to R260). -/
def Obligations.QueueCommandsTakeEffect : Prop :=
  (∀ (s : State) (k : Fin 3) (n : BitVec 19), (s.shaperNode k n.toNat).enabled = true →
    (tabFind s.que.buckets (s.shaperNode k n.toNat).status).isSome = true → 0 ≤ s.shaperLevel (s.shaperNode k n.toNat) →
    Completes (.shaperDebtRepaid k n) s (fun t => Touches [.que] s t ∧
      tabFind t.que.buckets (s.shaperNode k n.toNat).status =
        some { level := s.shaperLevel (s.shaperNode k n.toNat), at_ := s.frc })) ∧
  (∀ (s : State) (r : Fin 8712) (i : Inst) (rest : List Hold), s.holdList r = .inst i :: rest →
    s.portGate i.queue ≠ .down → s.linkable i = true → s.handleCheck i.h = 0 → s.launchRefused i = false →
    Completes (.holdListLink r) s (fun t => t.holdList r = rest ∧
      ∃ j, t.queue i.queue = s.queue i.queue ++ [j] ∧ j.h = i.h ∧ j.copy = i.copy)) ∧
  (∀ (s : State) (p : Fin 1088) (i : Inst) (rest : List Inst), s.residueOf p = i :: rest →
    s.memberReady i.depth p i.queue = true → s.handleCheck i.h = 0 → s.launchRefused i = false →
    Completes (.residueLink p) s (fun t => t.residueOf p = rest ∧
      ∃ j, t.queue i.queue = s.queue i.queue ++ [j] ∧ j.h = i.h)) ∧
  (∀ (s : State) (r : Fin 8712) (x : Stall) (n : Nat) (rest : List Hold), s.holdList r = .repl x :: rest → x.left = [n] →
    s.queueListed (s.copyQueue x.group n) = true → s.portGate (s.copyQueue x.group n) ≠ .down → s.residueOf n = [] →
    s.memberReady x.group n (s.copyQueue x.group n) = true → s.handleCheck x.i.h = 0 → x.i.launch = none →
    Completes (.replResume r) s (fun t => t.holdList r = rest ∧
      ∃ j, t.queue (s.copyQueue x.group n) = s.queue (s.copyQueue x.group n) ++ [j] ∧ j.h = x.i.h ∧ j.copy = 1)) ∧
  (∀ (s : State) (p : Fin 1024), s.holdActive p = true → s.portUp p = false →
    (tabGet {} s.buf.link p).holdAt + s.get QSCH.PORT_DOWN_HOLD p * 1250000 ≤ s.frc →
    Completes (.portDownHoldExpire p) s (fun t => t.residueOf p = [] ∧ ∀ q, q / 256 = p.val → q < 0x40000 → t.queue q = []))

/-- The commands of the exact-match engine (R145, R149) and its learn queue and ageing (R150, R152). -/
def Obligations.ExactMatchCommandsTakeEffect : Prop :=
  (∀ (s : State) (t : Fin 16) (e : Nat), s.regOpen EM.CMD_OPCODE.off = true → s.emBusy = false → t.val < s.get EM.TABLE_COUNT →
    s.emFind t (s.emOpKey t) = [] → s.emPlace true t (s.emOpKey t) = some [e] →
    Completes (.emInsert t) s (fun u => u.dev = memStore s.dev (emAddr e) (s.emOperand t).bytes ∧
      u.get EM.CMD_CODE = 0 ∧ u.get EM.CMD_LOCATION = e % 2 ^ 23 ∧ u.flag EM.CMD_IN_STASH = false ∧ u.flag EM.CMD_DONE = true)) ∧
  (∀ (s : State) (t : Fin 16) (x : EmAt) (more : List EmAt), s.regOpen EM.CMD_OPCODE.off = true → s.emBusy = false →
    t.val < s.get EM.TABLE_COUNT → s.emFind t (s.emOpKey t) = x :: more → s.emWritable x = true →
    Completes (.emReplace t) s (fun u => u.dev = memStore s.dev x.addr (s.emOperand t).bytes ∧
      u.get EM.CMD_CODE = 0 ∧ u.flag EM.CMD_DONE = true)) ∧
  (∀ (s : State) (t : Fin 16) (e : Nat) (more : List EmAt), s.regOpen EM.CMD_OPCODE.off = true → s.emBusy = false →
    t.val < s.get EM.TABLE_COUNT → s.emFind t (s.emOpKey t) = .row e :: more → s.emHeld e = false →
    Completes (.emDelete t) s (fun u =>
      u.dev = memWrite s.dev (emAddr e + s.emKeyLen t + 4) 2 (bitClear (s.emRead t (emAddr e)).flags 0) ∧
      u.get EM.CMD_CODE = 0 ∧ u.flag EM.CMD_DONE = true)) ∧
  (∀ (s : State) (t : Fin 16) (x : EmAt) (more : List EmAt), s.regOpen EM.CMD_OPCODE.off = true → s.emBusy = false →
    t.val < s.get EM.TABLE_COUNT → s.emFind t (s.emOpKey t) = x :: more →
    Completes (.emSearch t) s (fun u => u.dev = s.dev ∧ u.get EM.CMD_RESULT = (s.emRead t x.addr).result % 2 ^ 32 ∧
      u.get EM.CMD_FLAGS = (s.emRead t x.addr).flags % 2 ^ 16 ∧ u.get EM.CMD_CODE = 0)) ∧
  (∀ (s : State) (t : Fin 16), s.regOpen EM.CMD_OPCODE.off = true → s.pipe.emCmd = none → s.pipe.learnQ ≠ [] →
    exec (.emInsert t) s = .next { s with pipe := { s.pipe with
      emCmd := some { table := t, op := 1, ahead := s.pipe.learnQ.length } } }) ∧
  (∀ (s : State) (t : Fin 16), s.regOpen EM.CMD_OPCODE.off = true → s.pipe.emCmd.isSome = true →
    exec (.emDelete t) s = .next (s.setB EM.CMD_CMD_OVERRUN true)) ∧
  (∀ (s : State) (x : Learn) (rest : List Learn) (e : Nat), s.pipe.emCmd = none → s.pipe.learnQ = x :: rest →
    s.emFind x.table x.key = [] → s.emPlace true x.table x.key = some [e] →
    Completes .learnInsert s (fun u => u.pipe = { s.pipe with learnQ := rest } ∧
      u.dev = memStore s.dev (emAddr e) (EmEntry.bytes { key := x.key, result := x.result, flags := 0x000D }))) ∧
  (∀ (s : State) (f : Fetch) (t : Fin 16) (j e : Nat), AnvilRuns s actTarnish → FetchClean s f →
    t.val < s.get EM.TABLE_COUNT → s.emAgeEn t = true → tabGet 0 s.anvil.cursor (16 + t) = 0 →
    tabGet 0 s.anvil.passAt (80 + t) = 0 ∨ tabGet 0 s.anvil.passAt (16 + t) + tabGet 0 s.anvil.passAt (80 + t) ≤ s.frc →
    s.emField t 2 2 ≠ 0 → s.emHeld (1024 * s.emField t 0 2) = false → j < 4 → e = 1024 * s.emField t 0 2 + s.emCost t * j →
    (∀ k < 4, k ≠ j → (s.emRead t (emAddr (1024 * s.emField t 0 2 + s.emCost t * k))).valid = false) →
    (s.emRead t (emAddr e)).valid = true → bit (s.emRead t (emAddr e)).flags 1 = false →
    bit (s.emRead t (emAddr e)).flags 3 = true →
    Completes (.ageVisit f t) s (fun u => tabGet 0 u.anvil.cursor (16 + t) = 1 ∧
      u.dev = memWrite s.dev (emAddr e + s.emKeyLen t + 4) 2 (bitClear (bitClear (s.emRead t (emAddr e)).flags 3) 4)))

/-- Clasp on the exact-match table and on the ASE (R154, R172). -/
def Obligations.ClaspCommandsTakeEffect : Prop :=
  (∀ (s : State) (r : Fin 8192), s.regOpen EM.REQ.off = true →
    Completes (.emClaspRequest r) s (fun t => Touches [.regs] s t ∧ t.bitOf EM.REQ (r % 32) (r / 32) = true ∧
      RegsSame s t [EM.REQ.key (r / 32) 0])) ∧
  (∀ (s : State) (r : Fin 8192), s.bitOf EM.REQ (r % 32) (r / 32) = true →
    Completes (.emClaspGrant r) s (fun t => Touches [.regs] s t ∧ t.bitOf EM.HELD (r % 32) (r / 32) = true ∧
      RegsSame s t [EM.HELD.key (r / 32) 0])) ∧
  (∀ (s : State) (r : Fin 8192), s.regOpen EM.REQ.off = true →
    Completes (.emClaspRelease r) s (fun t => Touches [.regs] s t ∧ t.bitOf EM.REQ (r % 32) (r / 32) = false ∧
      t.bitOf EM.HELD (r % 32) (r / 32) = false ∧ RegsSame s t [EM.REQ.key (r / 32) 0, EM.HELD.key (r / 32) 0])) ∧
  (∀ (s : State) (b : Fin 1024), s.regOpen ASE.REQ.off = true →
    Completes (.aseClaspRequest b) s (fun t => Touches [.regs] s t ∧ t.bitOf ASE.REQ (b % 32) (b / 32) = true ∧
      RegsSame s t [ASE.REQ.key (b / 32) 0])) ∧
  (∀ (s : State) (b : Fin 1024), s.bitOf ASE.REQ (b % 32) (b / 32) = true →
    Completes (.aseClaspGrant b) s (fun t => Touches [.regs] s t ∧ t.bitOf ASE.HELD (b % 32) (b / 32) = true ∧
      RegsSame s t [ASE.HELD.key (b / 32) 0])) ∧
  (∀ (s : State) (b : Fin 1024), s.regOpen ASE.REQ.off = true →
    Completes (.aseClaspRelease b) s (fun t => Touches [.regs] s t ∧ t.bitOf ASE.REQ (b % 32) (b / 32) = false ∧
      t.bitOf ASE.HELD (b % 32) (b / 32) = false ∧ RegsSame s t [ASE.REQ.key (b / 32) 0, ASE.HELD.key (b / 32) 0]))

/-- The commands of the associative search engine on a narrow partition of one replica (R173 to R177). -/
def Obligations.AseCommandsTakeEffect : Prop :=
  ∀ (s : State) (p : Fin 64) (b : Nat), s.regOpen ASE.CMD_OPCODE.off = true → p.val < s.get ASE.PART_COUNT →
    s.get ASE.POS_BANK < s.aseField p 2 2 → s.aseWide p = false → s.aseReplicas p = 1 → b = s.aseBank p 0 + s.get ASE.POS_BANK →
    (s.aseHeld false b = false →
      Completes (.aseWriteAt p) s (fun t => t.get ASE.CMD_CODE = 0 ∧ t.flag ASE.CMD_DONE = true ∧
        t.dev = memStore s.dev (slotAddr b (s.get ASE.POS_INDEX)) (slotBytes (leNat (s.aseOperand ASE.OP_KEY) % 2 ^ 160)
          (leNat (s.aseOperand ASE.OP_MASK) % 2 ^ 160) (s.get ASE.OP_PRIORITY) (1 + 256 * s.get ASE.OP_USER)
          (s.get ASE.OP_RESULT)))) ∧
    (s.aseHeld false b = false → s.aseFree p b (s.get ASE.POS_INDEX) = some (s.get ASE.POS_INDEX) →
      Completes (.aseInsertAt p) s (fun t => t.get ASE.CMD_CODE = 0 ∧ t.get ASE.CMD_MOVES = 0 ∧
        t.dev = memStore s.dev (slotAddr b (s.get ASE.POS_INDEX)) (slotBytes (leNat (s.aseOperand ASE.OP_KEY) % 2 ^ 160)
          (leNat (s.aseOperand ASE.OP_MASK) % 2 ^ 160) (s.get ASE.OP_PRIORITY) (1 + 256 * s.get ASE.OP_USER)
          (s.get ASE.OP_RESULT)))) ∧
    (s.aseHeld false b = false →
      Completes (.aseDeleteAt p) s (fun t => t.get ASE.CMD_CODE = 0 ∧ t.slotValid b (s.get ASE.POS_INDEX) = false ∧
        ∀ a, a < slotAddr b (s.get ASE.POS_INDEX) + 42 ∨ slotAddr b (s.get ASE.POS_INDEX) + 44 ≤ a →
          memByte t.dev a = memByte s.dev a)) ∧
    Completes (.aseReadAt p 0) s (fun t => t.get ASE.CMD_CODE = 0 ∧ t.dev = s.dev ∧
      t.flag ASE.F_FOUND = s.slotValid b (s.get ASE.POS_INDEX) ∧
      t.get ASE.OP_PRIORITY = s.slotPrio b (s.get ASE.POS_INDEX) % 2 ^ 16 ∧
      t.get ASE.OP_RESULT = s.mem (slotAddr b (s.get ASE.POS_INDEX) + 44) 4 % 2 ^ 32)

/-- SEARCH and STEP of the associative search engine (R163, R177). -/
def Obligations.AseSearchesTakeEffect : Prop :=
  (∀ (s : State) (p : Fin 64) (b i : Nat) (multi : Bool), s.regOpen ASE.CMD_OPCODE.off = true →
    p.val < s.get ASE.PART_COUNT → s.aseReplicas p ≠ 0 → s.flt.injHit = [] →
    s.aseMatch p (leNat (s.aseOperand ASE.OP_KEY) % 2 ^ s.aseKeyBits p)
      (s.aseCover p 0 (leNat (s.aseOperand ASE.OP_KEY) % 2 ^ s.aseKeyBits p)) = (some (b, i), multi) →
    Completes (.aseSearchCmd p 0 .clean) s (fun t => t.get ASE.CMD_CODE = 0 ∧ t.flag ASE.F_FOUND = true ∧
      t.get ASE.F_BANK = b % 2 ^ 10 ∧ t.get ASE.F_INDEX = i % 2 ^ 11 ∧ t.flag ASE.CMD_MULTI = multi ∧
      t.get ASE.OP_RESULT = s.mem (slotAddr b i + 44) 4 % 2 ^ 32 ∧ t.dev = s.dev)) ∧
  (∀ (s : State) (p : Fin 64) (r : Fin 128) (c : AseCursor) (b o k i : Nat), s.regOpen ASE.CMD_OPCODE.off = true →
    p.val < s.get ASE.PART_COUNT → r.val < s.aseReplicas p → s.pipe.ase = some c → r.val < s.aseReplicas c.part →
    s.flt.injHit = [] → c.banks = [(o, k)] → b = s.aseBank c.part r + o →
    (s.bankMatches (s.aseWide c.part) b c.key).find? (fun j => decide (k ≤ j) && !bit (s.slotFlags b j) 2) = some i →
    Completes (.aseStep p r .clean) s (fun t => t.get ASE.CMD_CODE = 0 ∧ t.flag ASE.F_FOUND = true ∧
      t.get ASE.F_BANK = b % 2 ^ 10 ∧ t.get ASE.F_INDEX = i % 2 ^ 11 ∧
      t.pipe.ase = some { c with banks := [(o, i + 1)] })) ∧
  (∀ (s : State) (p : Fin 64) (r : Fin 128) (e : LookErr), s.regOpen ASE.CMD_OPCODE.off = true →
    p.val < s.get ASE.PART_COUNT → r.val < s.aseReplicas p → s.pipe.ase = none →
    Completes (.aseStep p r e) s (fun t => t.get ASE.CMD_CODE = 7 ∧ t.flag ASE.F_FOUND = false))

/-- The parser's grant, the stages, and Planish (R25, R184, R197, R379). -/
def Obligations.PipeCommandsTakeEffect : Prop :=
  (∀ (s : State) (n : Fin 64) (g : CpuFrame) (rest : List CpuFrame), s.flag PWR.PFAIL = false → s.bubbleNext n = false →
    s.listsReady n = [] → tabFind s.buf.recirc n = none → s.cpuList n = g :: rest →
    (g.queue.isSome = true ∨ s.notRefused (s.getStore g.h).f.req = true) → (s.arbSrc n).losers = [] →
    exec (.parse n 0) s = .next (((((s.arbTurn n Arb.open_).slotUse n).setArbSrc n
      { ptr := 0, losers := [], granted := [2] }).tally n evIngress).parseCpu n 0 g)) ∧
  (∀ (s : State) (n : Fin 64), s.flag PWR.PFAIL = false → s.bubbleNext n = true →
    Completes (.parse n 0) s (fun t => t.que = s.que ∧ t.pipe = s.pipe ∧ t.dev = s.dev ∧ t.buf.store = s.buf.store ∧
      t.buf.lists = s.buf.lists ∧ t.buf.recirc = s.buf.recirc ∧ t.buf.cpuIn = s.buf.cpuIn ∧
      tabGet 0 t.buf.slots n = (tabGet 0 s.buf.slots n + s.bubbles n) % 256)) ∧
  (∀ (s : State) (n : Fin 64) (slot : Fin 2), s.flag PWR.PFAIL = true → exec (.parse n slot) s = .next s) ∧
  (∀ (s : State) (n : Fin 64) (st : Fin 32) (k : Pkt) (e0 e1 e2 e3 : LookErr), st.val < 20 → s.ingress n = [k] →
    k.stage = st.val → k.issued = false →
    Completes (.stageLookupIssue n st e0 e1 e2 e3) s (fun t =>
      ∃ l, l.length = 4 ∧ t.ingress n = [{ k with issued := true, looks := l }])) ∧
  (∀ (s : State) (n : Fin 64) (st : Fin 32) (k : Pkt) (rd : ReadErr) (w : Nat), st.val < 19 → s.ingress n = [k] →
    k.pipe = n.val → k.stage = st.val → k.issued = true → k.looks = [] → s.flt.injHit = [] → s.stageField n st 0x82 1 = 0 →
    s.stageField n st 0x84 2 < s.areaSize actionWords → w = s.mem (s.wordAddr k.work (s.stageField n st 0x84 2)) 8 →
    awOp w = 1 → awPred w = false → awEnd w = true →
    Completes (.stageActionRun n st .clean rd) s (fun t => t.ingress n =
      [{ k with stage := k.stage + 1, issued := false, rec_ := fieldSet k.rec_ (awBe w) (awDst w) (awWidth w) (awImm w % 2 ^ awWidth w) }])) ∧
  (∀ (s : State) (f : Fetch) (k : BitVec 19), AnvilRuns s actPlanish → FetchClean s f → s.flt.injHit = [] →
    Completes (.planishScrubStep f (.filigree k) .corrected false) s (fun t => t.dev = s.dev ∧
      t.get ANVL.SCRUB_CORR = satTo (2 ^ 32 - 1) (s.get ANVL.SCRUB_CORR + 1)))

/-- The link state machine of a port (R80, R89 to R91). -/
def Obligations.LinkCommandsTakeEffect : Prop :=
  (∀ (s : State) (p : Fin 1024) (tech : Byte) (lp : BitVec 2), s.inState p linkAn = true → tech.toNat = s.desc p 2 1 →
    (s.linkRec p).lt = false →
    Completes (.anComplete p tech lp) s (fun t => t.linkState p = linkAlign ∧ t.flag PORT.AN_DONE p = true ∧
      t.get PORT.LP_PAUSE p = lp.toNat)) ∧
  (∀ (s : State) (p : Fin 1024) (tech : Byte) (lp : BitVec 2), s.inState p linkAn = true → tech.toNat ≠ s.desc p 2 1 →
    Completes (.anComplete p tech lp) s (fun t => t.linkState p = s.firstState p ∧ t.flag PORT.EV_AN_FAIL p = true ∧
      t.get PORT.LP_PAUSE p = lp.toNat)) ∧
  (∀ (s : State) (p : Fin 1024), s.inState p linkAn = true →
    Completes (.anFail p) s (fun t => t.linkState p = s.firstState p ∧ t.flag PORT.EV_AN_FAIL p = true ∧
      (t.linkRec p).lt = s.flag PORT.LT_EN p)) ∧
  (∀ (s : State) (p : Fin 1024), s.inState p linkTraining = true →
    Completes (.trainingComplete p) s (fun t => t.linkState p = linkAlign ∧ t.flag PORT.TRAIN_DONE p = true)) ∧
  (∀ (s : State) (p : Fin 1024), s.inState p linkTraining = true →
    Completes (.trainFail p) s (fun t => t.linkState p = s.firstState p ∧ t.flag PORT.EV_TRAIN_FAIL p = true)) ∧
  (∀ (s : State) (p : Fin 1024), s.inState p linkAlign = true → s.linkOk p = true →
    (s.linkRec p).okAt + 1250000 ≤ s.frc →
    Completes (.linkUp p) s (fun t => t.linkState p = linkUp ∧ t.flag PORT.LINK_UP p = true ∧ t.holdActive p = false)) ∧
  (∀ (s : State) (p : Fin 1024), s.inState p linkAlign = true →
    (s.linkRec p).alignAt + s.get PORT.ALIGN_TIMEOUT p * 1250000 ≤ s.frc →
    Completes (.alignTimeout p) s (fun t => t.linkState p = s.firstState p ∧ t.flag PORT.EV_ALIGN_TIMEOUT_EVT p = true)) ∧
  (∀ (s : State) (p : Fin 1024), s.inState p linkUp = true → s.linkOk p = false →
    (s.linkRec p).okAt + s.get PORT.LINK_DEBOUNCE p * 125000 ≤ s.frc →
    Completes (.linkDown p) s (fun t => t.linkState p = linkAlign ∧ t.flag PORT.LINK_UP p = false)) ∧
  (∀ (s : State) (p : Fin 1024) (lf rf deskew : Bool) (am : BitVec 6), s.isPort p = true → s.live = true →
    Completes (.linkOkChange p lf rf false deskew am []) s (fun t => t.flag PORT.LF_RX p = lf ∧ t.flag PORT.RF_RX p = rf ∧
      t.flag PORT.HI_SER p = false ∧ t.flag PORT.DESKEW_OK p = deskew ∧ t.get PORT.AM_LOCKED p = am.toNat ∧
      (∀ l ∈ s.portLanes p, tabGet .electricalIdle t.buf.line l = t.laneSig l) ∧
      (t.linkOk p ≠ s.linkOk p → (t.linkRec p).okAt = s.frc)))

/-- What software commands a port to do (R90, R91, R414, R416, R428). -/
def Obligations.PortCommandsTakeEffect : Prop :=
  (∀ (s : State) (p : Fin 1024), s.regOpen PORT.ADMIN_UP.off = true → s.isPort p = true → s.frozen p = false →
    s.linkState p = linkDisabled → s.lcState ≠ lcRetired → s.flag PORT.TEST_MODE p = false → s.flag PORT.AN_EN p = true →
    s.bitOf FLT.PORT_SAFE (p % 32) (p / 32) = false → s.portsGo = true →
    Completes (.portEnable p) s (fun t => t.linkState p = linkAn ∧ t.flag PORT.ADMIN_UP p = true)) ∧
  (∀ (s : State) (p : Fin 1024), s.regOpen PORT.ADMIN_UP.off = true → s.isPort p = true → s.frozen p = false →
    s.lcState ≠ lcService → linkAn ≤ s.linkState p → s.linkState p ≤ linkUp →
    Completes (.portDisable p) s (fun t => t.linkState p = linkDisabled ∧ t.flag PORT.LINK_UP p = false ∧
      (s.linkState p ≠ linkUp → t.flag PORT.ADMIN_UP p = false))) ∧
  (∀ (s : State) (p : Fin 1024), s.regOpen PORT.TEST_MODE.off = true → s.isPort p = true → s.frozen p = false →
    s.lcState ≠ lcRetired → s.linkState p ≤ linkUp →
    Completes (.testEnter p) s (fun t => t.linkState p = linkTest ∧ t.flag PORT.LINK_UP p = false)) ∧
  (∀ (s : State) (p : Fin 1024), s.regOpen PORT.TEST_MODE.off = true → s.isPort p = true → s.frozen p = false →
    s.lcState ≠ lcRetired → s.linkState p = linkTest → s.flag PORT.ADMIN_UP p = false →
    Completes (.testExit p) s (fun t => t.linkState p = linkDisabled ∧ t.flag PORT.TEST_MODE p = false)) ∧
  (∀ (s : State) (p : Fin 1024), s.regOpen PORT.RESTART.off = true → s.isPort p = true → s.frozen p = false →
    linkAn ≤ s.linkState p → s.linkState p ≤ linkUp →
    Completes (.portRestart p) s (fun t => t.linkState p = s.firstState p ∧ t.flag PORT.LINK_UP p = false)) ∧
  (∀ (s : State) (p : Fin 1024), s.regOpen PORT.FEC_CLEAR.off = true → s.isPort p = true →
    Completes (.fecClear p) s (fun t => t.get PORT.CW_TOTAL p = 0 ∧ t.get PORT.CW_CORR p = 0 ∧ t.get PORT.CW_UNCORR p = 0 ∧
      t.get PORT.SYM_CORR p = 0 ∧ ∀ b, b < 16 → t.get PORT.FEC_BIN p b = 0)) ∧
  (∀ s : State, s.live = true → s.flag IMG.READY = true → s.flag GLB.LANES_READY = false →
    Completes .lanesReady s (fun t => t.flag GLB.LANES_READY = true ∧ t.get GLB.STEP = 9)) ∧
  (∀ (s : State) (n : Fin 8), s.live = true →
    Completes (.chipletRefclkLost n) s (fun t => t.flt = (s.fault srcChipletRef n).flt ∧
      ∀ k, k < 128 → t.flag LANE.CDR_LOCK (128 * n + k) = false))

/-- Lanes: equalisation, training, adaptation, and the pattern checkers (R85 to R88, R100 to R102, R379). -/
def Obligations.LaneCommandsTakeEffect : Prop :=
  (∀ (s : State) (l : Fin 1024) (v : Word), s.regOpen LANE.PRE.off = true → (s.portOfLane l).isSome = true →
    s.flag LANE.TRAINING_ACTIVE l = false →
    ffeOk (signed (bits v.toNat 0 7) 7) (bits v.toNat 8 7 : Nat) (signed (bits v.toNat 16 7) 7) = true →
    Completes (.txFfeWrite l v) s (fun t => t.get LANE.PRE l = bits v.toNat 0 7 ∧ t.get LANE.MAIN l = bits v.toNat 8 7 ∧
      t.get LANE.POST l = bits v.toNat 16 7)) ∧
  (∀ (s : State) (l : Fin 1024) (v : Word), s.regOpen LANE.PRE.off = true → (s.portOfLane l).isSome = true →
    ffeOk (signed (bits v.toNat 0 7) 7) (bits v.toNat 8 7 : Nat) (signed (bits v.toNat 16 7) 7) = false →
    Completes (.txFfeWrite l v) s (fun t => t.ffe l = s.ffe l ∧ t.flag LANE.FFE_REJECT l = true)) ∧
  (∀ (s : State) (l : Fin 1024) (r : CoeffReq), s.flag LANE.TRAINING_ACTIVE l = true →
    Completes (.ltCoeffRequest l r) s (fun t => ∃ a, a ≤ 2 ∧ t.outbox = s.outbox ++ [.coeff l a] ∧
      (a ≠ 0 → t.regs = s.regs))) ∧
  (∀ (s : State) (l : Fin 1024), s.regOpen LANE.ADAPT_RESTART.off = true → (s.portOfLane l).isSome = true →
    Completes (.adaptRestart l) s (fun t => t.flag LANE.ADAPT_CONVERGED l = false ∧ t.draws = s.draws + 1)) ∧
  (∀ (s : State) (f : Fetch) (l : Fin 1024) (eq : Word) (snr : BitVec 16), AnvilRuns s actCalibration → FetchClean s f →
    (s.portOfLane l).isSome = true → s.flag LANE.ADAPT_FREEZE l = false → s.flag LANE.CDR_LOCK l = true →
    Completes (.calibrationStep f l eq snr) s (fun t => t.flag LANE.ADAPT_CONVERGED l = true ∧
      t.get LANE.SNR l = snr.toNat)) ∧
  (∀ (s : State) (l : Fin 1024) (syms : List (Fin 4)), s.laneTest l = true → s.flag LANE.CHK_EN l = true →
    s.chkLoops l = false →
    Completes (.chkLock l syms) s (fun t =>
      t.flag LANE.CHK_LOCK l = (s.chkRun l syms).lock ∧ t.get LANE.BIT_ERRORS l =
        satTo (2 ^ LANE.BIT_ERRORS.wd - 1) (s.get LANE.BIT_ERRORS l + (s.chkRun l syms).errs))) ∧
  (∀ (s : State) (l : Fin 1024) (syms : List (Fin 4)), s.laneTest l = true → s.flag LANE.CHK_EN l = true →
    s.chkLoops l = false → (s.chkRun l syms).lost = true →
    Completes (.lockLost l syms) s (fun t => t.flag LANE.LOCK_LOST l = true ∧ t.flag LANE.CHK_LOCK l = (s.chkRun l syms).lock ∧
      t.get LANE.BITS_CHECKED l = satTo (2 ^ LANE.BITS_CHECKED.wd - 1) (s.get LANE.BITS_CHECKED l + (s.chkRun l syms).bits))) ∧
  (∀ (s : State) (l : Fin 1024), s.regOpen LANE.CHK_CLEAR.off = true → (s.portOfLane l).isSome = true →
    Completes (.chkClear l) s (fun t => t.get LANE.BIT_ERRORS l = 0 ∧ t.get LANE.SYM_ERRORS l = 0 ∧
      t.get LANE.BITS_CHECKED l = 0 ∧ t.flag LANE.LOCK_LOST l = false)) ∧
  (∀ (s : State) (l : Fin 1024), s.regOpen LANE.INJECT.off = true → s.laneTest l = true → s.flag LANE.GEN_EN l = true →
    s.get LANE.INJ_MODE l = 1 → Completes (.inject l) s (fun t => Touches [.outbox, .buf] s t ∧ t.outbox = s.outbox ++ [.flip l 1] ∧
      (tabGet {} t.buf.gen l).flips = (tabGet {} s.buf.gen l).flips + 1))

/-- Pause and the storm guard (R94 to R99). -/
def Obligations.PauseCommandsTakeEffect : Prop :=
  (∀ (s : State) (p : Fin 1024) (v : Byte) (q0 q1 q2 q3 q4 q5 q6 q7 : BitVec 16), s.portUp p = true → s.live = true →
    s.get PORT.FC_MODE p = 2 → q0 ≠ 0 →
    Completes (.pauseFrameRx p false v q0 q1 q2 q3 q4 q5 q6 q7) s (fun t =>
      ∀ q, q < 8 → (t.pauseOf p q).until_ = some (s.frc + s.quantaTicks p q0.toNat))) ∧
  (∀ (s : State) (p : Fin 1024) (q : Fin 8) (at_ : Nat), (s.pauseOf p q).until_ = some at_ → at_ ≤ s.frc →
    Completes (.pauseTimerExpire p q) s (fun t => Touches [.buf] s t ∧ t.rxPaused p q = false ∧
      (t.pauseOf p q).clearAt = at_)) ∧
  (∀ (s : State) (p : Fin 1024), s.portUp p = true → s.live = true → s.buf.pauseDue.contains p.val = true →
    s.get PORT.FC_MODE p = 2 →
    Completes (.pauseTx p) s (fun t => t.buf.pauseDue.contains p.val = false ∧
      t.outbox = s.outbox ++ [.pause p (s.pauseFrame p (beBytes 2 1 ++ beBytes 2
        (if s.assertedMask p = 0 then 0 else s.get PORT.XOFF_QUANTA p)))])) ∧
  (∀ (s : State) (p : Fin 1024) (q : Fin 8), s.portUp p = true → s.live = true → s.asserted p q = true →
    s.get PORT.FC_MODE p = 2 →
    tabGet 0 s.buf.pauseAt (8 * p + q) + s.quantaTicks p (s.get PORT.REFRESH p) ≤ s.frc →
    Completes (.pauseRefresh p q) s (fun t => t.outbox = s.outbox ++ [.pause p (s.pauseFrame p (beBytes 2 1 ++ beBytes 2
      (if s.assertedMask p = 0 then 0 else s.get PORT.XOFF_QUANTA p)))])) ∧
  (∀ (s : State) (p : Fin 1024) (q : Fin 8), s.isPort p = true → s.flag PORT.STORM_EN p = true →
    s.stormActive p q = false → s.live = true → s.stormDue p q = some true →
    Completes (.stormEnter p q) s (fun t => t.stormActive p q = true ∧ t.flag PORT.EV_STORM_ENTER p = true ∧
      t.flt = (s.fault srcStorm p).flt)) ∧
  (∀ (s : State) (p : Fin 1024) (q : Fin 8), s.stormActive p q = true → (s.pauseOf p q).until_ = none →
    (s.pauseOf p q).clearAt + s.get PORT.HYST p * 1250000 ≤ s.frc →
    Completes (.stormExit p q) s (fun t => t.stormActive p q = false ∧ t.flag PORT.EV_STORM_EXIT p = true))

/-- Ingress, gates, selections and launch times (R18, R93, R246, R262 to R267). -/
def Obligations.IngressAndGateCommandsTakeEffect : Prop :=
  (∀ (s : State) (p : Fin 1024) (b : List Byte) (r : Nat) (f : Frame) (x : Rx), s.portUp p = true → s.portsGo = true →
    tabFind s.buf.rx p = some x → x.at_ = .fifo r → s.inList r = [.fifo f] → f.port = p.val → f.done = false → b ≠ [] →
    b.length ≤ 256 → (s.chargeSeg f false).isSome = true →
    Completes (.rxFrame p b .more) s (fun t => (t.rxOf p).len = x.len + b.length ∧
      (t.rxOf p).crc = crcWith polyCrc32 x.crc b ∧ ∃ g, t.inList r = [.fifo g] ∧ g.bytes = f.bytes ++ b ∧ g.done = false)) ∧
  (∀ (s : State) (p : Fin 1024) (start : Nat), s.regOpen QSCH.CONFIG_CHANGE.off = true → s.isPort p = true →
    s.flag QSCH.GATE_EN p = true →
    1 ≤ s.get QSCH.ADMIN_LEN p → s.get QSCH.ADMIN_LEN p ≤ 256 → 1000 ≤ s.get QSCH.ADMIN_CYCLE p →
    s.get QSCH.ADMIN_CYCLE p ≤ 1000000000 → s.get QSCH.ADMIN_BASE_NS p < 1000000000 →
    start = s.gateStartInstant (timeOf (s.get QSCH.ADMIN_BASE_SEC p) (s.get QSCH.ADMIN_BASE_NS p) 0)
      (nsUnits (s.get QSCH.ADMIN_CYCLE p)) →
    Completes (.configChange p) s (fun t => t.flag QSCH.CONFIG_PENDING p = true ∧ (t.gate p).oper = (s.gate p).oper ∧
      (t.gate p).next = some ⟨s.get QSCH.ADMIN_LIST p, s.get QSCH.ADMIN_LEN p, s.get QSCH.ADMIN_CYCLE p, start⟩)) ∧
  (∀ (s : State) (p : Fin 1024), s.regOpen QSCH.GATE_EN.off = true → s.isPort p = true →
    Completes (.gateDisable p) s (fun t => t.flag QSCH.GATE_EN p = false ∧ t.flag QSCH.CONFIG_PENDING p = false ∧
      t.flag QSCH.OPER_VALID p = false ∧ t.gate p = {} ∧ ∀ c, t.gateOpen p c = true)) ∧
  (∀ (s : State) (p : Fin 1024) (g : GateList), (s.gate p).next = some g → g.start ≤ s.now →
    Completes (.gateConfigStart p) s (fun t => t.gate p = { oper := some g, next := none, entry := s.gateEntryAt p g s.now } ∧
      t.flag QSCH.CONFIG_PENDING p = false ∧ t.flag QSCH.OPER_VALID p = true)) ∧
  (∀ (s : State) (p : Fin 1024) (g : GateList), (s.gate p).oper = some g →
    Completes (.gateEntryChange p) s (fun t => Touches [.que] s t ∧
      t.gate p = { s.gate p with entry := s.gateEntryAt p g s.now })) ∧
  (∀ (s : State) (q : BitVec 19) (i : Inst) (rest : List Inst), s.queue q.toNat = i :: rest → i.launched = false →
    i.launchAt ≤ s.now →
    Completes (.launchTimeReached q) s (fun t => Touches [.que] s t ∧
      t.queue q.toNat = { i with launched := true } :: rest)) ∧
  (∀ (s : State) (p : Fin 1089) (copies : Copies) (g k : Nat) (l m : List Member) (c j : Nat), p.val < 1024 →
    s.isPort p = true → s.live = true → copies ≠ .neither → s.flag QSCH.GATE_EN p = false → s.portOk p = true →
    s.topGroup p ((List.range 16).map (fun c => s.classMember p c)) = some g →
    dwrrChoose (((List.range 16).map (fun c => s.classMember p c)).filter (fun x => s.classGroup p x.id == g))
      (s.rrPtr (groupPtr p g)) = some (l, c) →
    s.subChoose p c = some (m, j) → k = s.classPrio p c → s.stormActive p k = false →
    (s.arbEg (pipeOf p)).granted = [] → (s.arbEg (pipeOf p)).pick 18 (s.egReady (pipeOf p)) = some (p % 16) →
    exec (.schedSelect p 0 copies) s =
      .next (((((s.tally 127 evSelect).classCommit p g l c).subCommit p c m j).take p 0 c j).setArbEg (pipeOf p)
        ((s.arbEg (pipeOf p)).grant 18 (p % 16)))) ∧
  (∀ (s : State) (p : Fin 1089) (slot : Fin 2) (copies : Copies), p.val < 1024 → s.isPort p = true → s.live = true →
    copies ≠ .neither → s.flag QSCH.GATE_EN p = false → s.slotless p = false → (s.arbEg (pipeOf p)).granted = [] →
    (s.arbEg (pipeOf p)).pick 18 (s.egReady (pipeOf p)) ≠ some (p % 16) → exec (.schedSelect p slot copies) s = .next s) ∧
  (∀ (s : State) (p : Fin 1089) (slot : Fin 2), s.live = true →
    exec (.schedSelect p slot .neither) s = .next (s.fault srcQueueCopies))

/-- Transmission, rings and the host's window (R22, R23, R230, R320, R328 to R334). -/
def Obligations.EgressCommandsTakeEffect : Prop :=
  (∀ (s : State) (p : Fin 1024) (rd : ReadErr) (c : Nat) (b : List Byte) (rest : List Item), s.portUp p = true →
    s.live = true → tabFind s.que.tx p = none → s.txList p = .card c b :: rest →
    Completes (.txStart p rd) s (fun t => Touches [.que] s t ∧ tabFind t.que.tx p = some { item := .card c b, at_ := s.frc } ∧
      t.txList p = rest)) ∧
  (∀ (s : State) (p : Fin 1024) (rd : ReadErr) (e : Eg) (rest : List Item), s.portUp p = true → s.live = true →
    tabFind s.que.tx p = none → (s.txDue p).txList p = .inst e :: rest → s.startReady (.inst e) = true →
    s.handleCheck e.i.h = 0 → exec (.txStart p rd) s = .next (((s.txDue p).setTxList p rest).txBegin p e rd)) ∧
  (∀ (s : State) (p : Fin 1024) (rd : ReadErr) (e : Eg) (rest : List Item), s.portUp p = true → s.live = true →
    tabFind s.que.tx p = none → s.txList p = .inst e :: rest → e.due = none → (s.getStore e.i.h).f.done = false →
    ((s.getStore e.i.h).f.bytes.length < 512 ∨ s.governingOp < 4) →
    Completes (.txStart p rd) s (fun t => Touches [.que] s t ∧ tabFind t.que.tx p = none ∧
      t.txList p = .inst { e with due := some (decide (4 ≤ s.governingOp)) } :: rest)) ∧
  (∀ (s : State) (p : Fin 1024) (x : Tx), tabFind s.que.tx p = some x →
    Completes (.txUnderrun p) s (fun t => tabFind t.que.tx p = none ∧
      ∃ l, t.outbox = s.outbox ++ .frame p (s.txSoFar x) true :: l)) ∧
  (∀ (s : State) (p : Fin 1024) (rd : ReadErr) (x : Tx) (c : Nat) (b : List Byte), tabFind s.que.tx p = some x →
    x.item = .card c b →
    Completes (.txComplete p rd) s (fun t => tabFind t.que.tx p = none ∧ t.outbox = s.outbox ++ [.frame p b false] ∧
      t.get TELE.COL_SENT c = satTo (2 ^ 32 - 1) (s.get TELE.COL_SENT c + 1))) ∧
  (∀ (s : State) (p : Fin 1024) (rd : ReadErr) (x : Tx) (e : Eg), tabFind s.que.tx p = some x → x.item = .inst e →
    (s.getStore e.i.h).f.done = true →
    Completes (.txComplete p rd) s (fun t => tabFind t.que.tx p = none)) ∧
  (∀ (s : State) (r : Fin 64) (rd : ReadErr) (c : Nat) (b : List Byte), s.txList cpuPort = [.card c b] →
    s.itemRing (.card c b) = r.val → s.ringOpen r (ceilDiv b.length 2048) = true →
    Completes (.rxRingWrite r rd) s (fun t => t.txList cpuPort = [] ∧ t.draws = s.draws + 1)) ∧
  (∀ (s : State) (r : Fin 64) (rd : ReadErr) (e : Eg), s.txList cpuPort = [.inst e] → s.itemRing (.inst e) = r.val →
    s.ringOpen r (ringNeed (s.storedLen e.i.h)) = true → s.handleCheck e.i.h = 0 →
    exec (.rxRingWrite r rd) s = .next ((s.setTxList cpuPort []).rxInst r e rd)) ∧
  (∀ (s : State) (r : Fin 64) (at_ : Nat), (s.queue (cpuQueue r)).isEmpty = false → s.ringAccepts r = false →
    tabFind s.host.stallSince r = some at_ → s.get HOST.R_RX_STALL r ≠ 0 → s.flag HOST.R_STALLED r = false →
    at_ + s.get HOST.R_RX_STALL r * 1250000 ≤ s.frc →
    Completes (.rxRingStall r) s (fun t => t.flag HOST.R_STALLED r = true ∧ t.flag HOST.R_STALL_EVT r = true ∧
      t.flt = (s.fault srcStalled r).flt)) ∧
  (∀ (s u : State) (n : Fin 16) (l : List (List Byte)) (h : Nat), s.flag HOST.R_EN (64 + n) = true → s.portsGo = true →
    s.txGather (64 + n) [] 5 = .frame l → s.txStatus l = 0 →
    s.heldIn (8 * cpuPort + byteAt (l.headD []) 5 % 8) (s.get HOST.R_PIPE (64 + n)) = false →
    s.txStore (s.get HOST.R_PIPE (64 + n)) (8 * cpuPort + byteAt (l.headD []) 5 % 8) (s.txData l) = (some h, u) →
    exec (.txRingTake n) s = .next ((u.txBack (64 + n) 0 l).txSend (s.get HOST.R_PIPE (64 + n)) h (l.headD []))) ∧
  (∀ (s : State) (n : Fin 88), s.live = true → n.val < 64 → s.flag HOST.R_STALLED n = true → s.ringAccepts n = true →
    Completes (.ringPoll n) s (fun t => t.flag HOST.R_STALLED n = false ∧ tabFind t.host.stallSince n = none)) ∧
  (∀ (s : State) (off : BitVec 24) (b : Byte), s.regOpen HOST.LINK_UP.off = true →
    (∀ n, n < 88 → s.flag HOST.R_EN n = false) →
    Completes (.bezelWrite off [b] [true]) s (fun t => ∀ a, memByte t.dev a = if a = off.toNat then b else memByte s.dev a)) ∧
  (∀ (s : State) (b : Bar), s.live = true → b = .bar0 ∨ b = .bar2 →
    Completes (.poisonedWrite b) s (fun t => t.flag HOST.POISONED = true ∧ t.flt = (s.fault srcPoisoned).flt)) ∧
  (∀ (s : State) (b : Bar), b ≠ .bar0 → b ≠ .bar2 → exec (.poisonedWrite b) s = .next s)

/-- The DMA channels and their shadow set (R339 to R349). -/
def Obligations.DmaCommandsTakeEffect : Prop :=
  (∀ (s : State) (c : Fin 32), s.regOpen HOST.D_GO.off = true → s.get HOST.D_STATE c = dmaIdle → s.dmaCheck c = none →
    Completes (.dmaGo c) s (fun t => t.get HOST.D_STATE c = dmaRunning ∧ t.dmaRec c = {})) ∧
  (∀ (s : State) (c : Fin 32), s.regOpen HOST.D_GO.off = true → s.get HOST.D_STATE c ≠ dmaIdle →
    exec (.dmaGo c) s = .next (s.setB HOST.D_BUSY_WRITE true c)) ∧
  (∀ (s : State) (c : Fin 32) (data : List Byte), s.get HOST.D_STATE c = dmaRunning → s.dmaTurn = some c.val → s.dmaRec c = {} →
    s.msixOpen = true →
    s.get HOST.D_COUNT c = 1 → addrSpace (s.get HOST.D_SRC c) = 0 → addrSpace (s.get HOST.D_DST c) = 0 →
    s.get HOST.D_DST_W c ≤ 63 → s.dmaSw c = s.dmaDw c → data.length = s.dmaDw c → s.flag HOST.D_HALF_IE c = false →
    Completes (.dmaBurst c data) s (fun t => (t.dmaRec c).moved = 1 ∧ (t.dmaRec c).readback = true ∧
      t.host.dmaNext = (c + 1) % 32 ∧ t.outbox = s.outbox ++
        (splitHost s.maxPayload data.length (addrOffset (s.get HOST.D_DST c)) data).map (fun x => .hostWrite x.1 x.2))) ∧
  (∀ (s : State) (c : Fin 32) (data : List Byte), s.dmaTurn ≠ some c.val → exec (.dmaBurst c data) s = .next s) ∧
  (∀ (s : State) (c : Fin 32), s.get HOST.D_STATE c = dmaRunning → (s.dmaRec c).readback = true →
    s.flag HOST.D_SHADOW_VALID c = false →
    Completes (.dmaReadbackDone c true) s (fun t => t.get HOST.D_STATE c = dmaIdle ∧ t.get HOST.D_RESULT c = dmaOk ∧
      t.get HOST.D_RESIDUE c = 0 ∧ t.flag HOST.D_DONE c = true)) ∧
  (∀ (s : State) (c : Fin 32), s.get HOST.D_STATE c = dmaRunning → (s.dmaRec c).readback = true →
    Completes (.dmaReadbackDone c false) s (fun t => t.get HOST.D_STATE c = dmaHalted ∧
      t.get HOST.D_RESULT c = dmaReadbackErr ∧ t.flag HOST.D_DONE c = true)) ∧
  (∀ (s : State) (c : Fin 32), s.regOpen HOST.D_ABORT.off = true → s.get HOST.D_STATE c = dmaRunning →
    Completes (.dmaAbort c) s (fun t => t.get HOST.D_STATE c = dmaHalted ∧ t.get HOST.D_RESULT c = dmaAborted ∧
      t.get HOST.D_RESIDUE c = s.dmaLeft c % 2 ^ 24 ∧ t.flag HOST.D_DONE c = true)) ∧
  (∀ (s : State) (c : Fin 32), s.regOpen HOST.D_CLEAR_HALT.off = true → s.get HOST.D_STATE c = dmaHalted →
    s.flag HOST.D_SHADOW_VALID c = false → exec (.clearHalt c) s = .next (s.set HOST.D_STATE dmaIdle c)) ∧
  (∀ (s : State) (c : Fin 32), s.regOpen HOST.D_SHADOW_VALID.off = true →
    Completes (.shadowArm c) s (fun t => t.flag HOST.D_SHADOW_VALID c = decide (s.get HOST.D_STATE c ≠ dmaIdle) ∧
      (s.get HOST.D_STATE c = dmaIdle → t.flag HOST.D_TAKEN c = true ∧
        t.get HOST.D_SRC c = s.get HOST.D_SH_SRC c % 2 ^ 64 ∧ t.get HOST.D_DST c = s.get HOST.D_SH_DST c % 2 ^ 64))) ∧
  (∀ (s : State) (c : Fin 32), s.regOpen HOST.D_SHADOW_VALID.off = true →
    exec (.shadowCancel c) s = .next (s.setB HOST.D_SHADOW_VALID false c)) ∧
  (∀ (s : State) (c : Fin 32) (v : Word), s.regOpen HOST.D_SH_SRC.off = true → s.flag HOST.D_SHADOW_VALID c = false →
    exec (.shadowFieldWrite c 0x50 v) s = .next (s.set HOST.D_SH_COUNT v.toNat c)) ∧
  (∀ (s : State) (c : Fin 32) (off : BitVec 8) (v : Word), s.regOpen HOST.D_SH_SRC.off = true →
    s.flag HOST.D_SHADOW_VALID c = true →
    Completes (.shadowFieldWrite c off v) s (fun t => t.flag HOST.D_WRITE_REJECTED c = true ∧
      t.get HOST.D_SH_SRC c = s.get HOST.D_SH_SRC c ∧ t.get HOST.D_SH_DST c = s.get HOST.D_SH_DST c ∧
      t.get HOST.D_SH_COUNT c = s.get HOST.D_SH_COUNT c ∧ t.get HOST.D_SH_CFG c = s.get HOST.D_SH_CFG c))

/-- Image commands and what ends them (R61, R64, R67, R72, R77). -/
def Obligations.ImageCommandsTakeEffect : Prop :=
  (∀ (s : State) (b : Fin 2), s.regOpen IMG.OPCODE.off = true → s.imgRefusal opLoadBank b = none →
    Completes (.loadBank b) s (fun t => t.img.cmd = some ⟨opLoadBank, b, .verifying, s.frc⟩ ∧
      t.get IMG.RESULT = resRunning ∧ t.get IMG.LAST_OPCODE = opLoadBank ∧ t.get IMG.ACTIVITY = 2)) ∧
  (∀ s : State, s.regOpen IMG.OPCODE.off = true → s.imgRefusal opLoadHost 0 = none →
    Completes .loadHost s (fun t => t.img.cmd = some ⟨opLoadHost, 0, .verifying, s.frc⟩ ∧
      t.get IMG.RESULT = resRunning ∧ t.get IMG.LAST_OPCODE = opLoadHost ∧ t.get IMG.ACTIVITY = 1)) ∧
  (∀ (s : State) (b : Fin 2) (ok : Bool), s.regOpen IMG.OPCODE.off = true → s.imgRefusal opWriteBank b = none →
    Completes (.writeBank b ok) s (fun t => t.img.cmd = some ⟨opWriteBank, b, .verifying, s.frc⟩ ∧
      t.get IMG.RESULT = resRunning ∧ t.get IMG.LAST_OPCODE = opWriteBank ∧ t.get IMG.ACTIVITY = 3)) ∧
  (∀ (s : State) (b : Fin 2), s.regOpen IMG.OPCODE.off = true → s.imgRefusal opVerifyBank b = none →
    Completes (.verifyBank b) s (fun t => t.img.cmd = some ⟨opVerifyBank, b, .verifying, s.frc⟩ ∧
      t.get IMG.RESULT = resRunning ∧ t.get IMG.LAST_OPCODE = opVerifyBank ∧ t.get IMG.ACTIVITY = 2)) ∧
  (∀ s : State, s.regOpen IMG.OPCODE.off = true → s.imgRefusal opSwap 0 = none →
    Completes .swap s (fun t => t.img.cmd = some ⟨opSwap, 0, .verifying, s.frc⟩ ∧
      t.get IMG.RESULT = resRunning ∧ t.get IMG.LAST_OPCODE = opSwap ∧ t.get IMG.ACTIVITY = 6)) ∧
  (∀ (s : State) (c : ImgCmd) (bytes : List Byte), s.regOpen IMG.OPCODE.off = true → s.img.cmd = some c → c.op ≠ 0 →
    c.phase ≠ .configuring →
    Completes (.imgAbort bytes) s (fun t => t.img.cmd = none ∧ t.get IMG.RESULT = resAborted ∧ t.get IMG.LAST_OPCODE = c.op % 16 ∧
      t.get IMG.ACTIVITY = 0 ∧ t.flag IMG.CMD_DONE = true)) ∧
  (∀ (s u : State) (c : ImgCmd) (bytes : List Byte) (f : VFail), s.img.cmd = some c → c.phase = .verifying →
    c.op = opLoadHost → s.live = true → u = s.set IMG.VERIFY_US (satTo 0xFFFF ((s.frc - c.at_) / 1250)) →
    u.verify (s.imgSource c (bytes.take (s.get IMG.SRC_LEN - 1)) true) true = .inl f →
    Completes (.imgFetchError bytes) s (fun t => t.img.cmd = none ∧ t.get IMG.RESULT = f.code % 2 ^ 8 ∧
      t.get IMG.LAST_OPCODE = opLoadHost ∧ t.flag IMG.CMD_DONE = true)) ∧
  (∀ (s u : State) (c : ImgCmd) (bytes : List Byte), s.img.cmd = some c → c.phase = .verifying →
    c.op = opVerifyBank → s.live = true → u = s.set IMG.VERIFY_US (satTo 0xFFFF ((s.frc - c.at_) / 1250)) →
    Completes (.imgVerifyComplete bytes none) s (fun t => t.img.cmd = none ∧
      t.get IMG.RESULT = (match u.verify (s.imgSource c bytes false) false with | .inl f => f.code % 2 ^ 8 | .inr _ => resOk) ∧
      t.get IMG.LAST_OPCODE = opVerifyBank ∧ t.flag IMG.CMD_DONE = true)) ∧
  (∀ (s : State) (c : ImgCmd) (ok : Bool), s.img.cmd = some c → c.phase = .bankWritten → c.op ≠ 0 →
    Completes (.bankCommit ok) s (fun t => t.img.cmd = none ∧ t.get IMG.RESULT = resOk ∧ t.flag IMG.CMD_DONE = true)) ∧
  (∀ s : State, s.flag IMG.RETIRING = true → s.get IMG.INFLIGHT s.oldEpoch = 0 →
    Completes .epochRetire s (fun t => t.flag IMG.RETIRING = false ∧ t.flag IMG.RETIRED = true)) ∧
  (∀ s : State, s.flag IMG.RETIRING = true → s.img.overdue = false →
    s.img.flipAt + s.get IMG.RETIRE_TIMEOUT * 1250000 ≤ s.frc →
    Completes .retireOverdue s (fun t => t.flag IMG.RETIRE_OVERDUE = true ∧ t.img.overdue = true ∧
      t.flt = (s.fault srcRetire).flt)) ∧
  (∀ s : State, s.regOpen IMG.RETIRE_FORCE.off = true → s.flag IMG.RETIRING = true →
    Completes .retireForce s (fun t => t.flag IMG.RETIRING = false ∧ t.flag IMG.RETIRED = true))

/-- Corrected time is set, stepped, steered and shown (R274 to R276). -/
def Obligations.TimeCommandsTakeEffect : Prop :=
  (∀ s : State, s.regOpen TIME.CMD_OPCODE.off = true → s.frc < 2 ^ 64 → (∀ n, n < 16 → s.flag TIME.T_ARMED n = false) →
    s.que.gates = [] → s.get TIME.SET_SEC < 2 ^ 48 → s.get TIME.SET_NS < 1000000000 → s.get TIME.SET_FRAC < 65536 →
    Completes .timeSet s (fun t => t.now = timeOf (s.get TIME.SET_SEC) (s.get TIME.SET_NS) (s.get TIME.SET_FRAC) ∧
      t.get TIME.REF = s.frc ∧ t.flag TIME.TOD_VALID = true ∧ t.flag TIME.HOLDOVER = false ∧ t.time.lastUpdate = s.frc)) ∧
  (∀ (s : State) (n : Nat), s.regOpen TIME.CMD_OPCODE.off = true → s.frc < 2 ^ 64 →
    (∀ n, n < 16 → s.flag TIME.T_ARMED n = false) → s.que.gates = [] →
    (n : Int) = (s.now : Int) + signed (s.get TIME.ADJ_DELTA) 64 → timeSec n < 2 ^ 48 →
    Completes .timeStep s (fun t => t.now = n ∧ t.get TIME.REF = s.frc ∧ t.flag TIME.TOD_VALID = true)) ∧
  (∀ s : State, s.regOpen TIME.CMD_OPCODE.off = true → (s.now : Int) + signed (s.get TIME.ADJ_DELTA) 64 < 0 →
    (∀ n, n < 16 → s.flag TIME.T_ARMED n = false) →
    Completes .timeStep s (fun t => t.now = s.now ∧ t.flag TIME.STEP_ERR = true)) ∧
  (∀ s : State, s.regOpen TIME.CMD_OPCODE.off = true →
    Completes .timeSnapshot s (fun t => t.get TIME.SNAP_FRC = s.frc % 2 ^ 64 ∧ t.get TIME.SNAP_SEC = timeSec s.now % 2 ^ 48 ∧
      t.get TIME.SNAP_NS = timeNs s.now ∧ t.get TIME.SNAP_FRAC = timeFrac s.now ∧ t.now = s.now)) ∧
  (∀ (s : State) (high : Word), s.regOpen TIME.RATE.off = true → s.frc < 2 ^ 64 →
    (∀ n, n < 16 → s.flag TIME.T_ARMED n = false) → timeSec s.now < 2 ^ 48 → tabFind s.host.low rateOffset = none →
    Completes (.timeRateCommit high) s (fun t => t.now = s.now ∧ t.flag TIME.HOLDOVER = false ∧
      t.get TIME.RATE = (s.get TIME.RATE % 2 ^ 32 + 2 ^ 32 * high.toNat) % 2 ^ 40))

/-- Clocks, triggers, capture pins and PPS_OUT (R273, R278, R284, R285, R288 to R290). -/
def Obligations.TimingEventsTakeEffect : Prop :=
  (∀ s : State, s.flag TIME.TOD_VALID = true → s.get TIME.HOLD_TIMEOUT ≠ 0 → s.flag TIME.HOLDOVER = false →
    s.time.lastUpdate + s.get TIME.HOLD_TIMEOUT * 1250000 ≤ s.frc →
    Completes .holdover s (fun t => t.flag TIME.HOLDOVER = true ∧ t.flag TIME.HOLDOVER_EVT = true ∧
      t.flt = (s.fault srcHoldover).flt)) ∧
  (∀ s : State, s.flag TIME.REFCLK_LOST = false →
    Completes .refclkLost s (fun t => t.flag TIME.REFCLK_LOST = true ∧ t.flag TIME.REFCLK_LOST_EVT = true ∧
      t.flt = (s.fault srcRefclk).flt)) ∧
  (∀ s : State, exec .refclkRestored s = .next (s.setB TIME.REFCLK_LOST false)) ∧
  (∀ (s : State) (n : Fin 16), s.regOpen TIME.T_ARM.off = true → s.flag TIME.T_EN n = true →
    s.flag TIME.T_PERIODIC n = false →
    s.now + nsUnits 2000 ≤ timeOf (s.get TIME.T_TIME_SEC n) (s.get TIME.T_TIME_NS n) 0 →
    Completes (.triggerArm n) s (fun t => t.flag TIME.T_ARMED n = true ∧ (t.trigRec n).periodic = false ∧
      (t.trigRec n).pend = timeOf (s.get TIME.T_TIME_SEC n) (s.get TIME.T_TIME_NS n) 0)) ∧
  (∀ (s : State) (n : Fin 16), s.flag TIME.T_ARMED n = true → (s.trigRec n).pend ≤ s.now → (s.trigRec n).periodic = false →
    s.img.cmd = none → (∀ k, k < 4 → s.flag PWR.PT_EN k = false) → s.flag TELE.LP_TRIG_EN = false →
    Completes (.triggerFire n) s (fun t => t.flag TIME.T_ARMED n = false ∧ t.flag TIME.T_FIRED n = true ∧
      t.get TIME.T_FIRINGS n = (s.get TIME.T_FIRINGS n + 1) % 2 ^ 32)) ∧
  (∀ s : State, s.flag GLB.PIN_STUCK 2 = false → tabGet 0 s.pins.acceptedAt 2 = 0 →
    Completes (.pinCapture 0 false) s (fun t => t.get TIME.C_CAP_SEC 0 = timeSec (s.timeAgo acceptTicks) % 2 ^ 48 ∧
      t.get TIME.C_CAP_NS 0 = timeNs (s.timeAgo acceptTicks) ∧ t.get TIME.C_CAP_FRAC 0 = timeFrac (s.timeAgo acceptTicks) ∧
      t.get TIME.C_COUNT 0 = (s.get TIME.C_COUNT 0 + 1) % 2 ^ 32 ∧ t.flag TIME.PPS_ABSENT = false ∧
      t.time.ppsSeen = true ∧ t.time.ppsLast = s.frc)) ∧
  (∀ s : State, s.time.ppsSeen = true → s.flag TIME.PPS_ABSENT = false → s.time.ppsLast + 1875000000 ≤ s.frc →
    Completes .ppsAbsent s (fun t => t.flag TIME.PPS_ABSENT = true ∧ t.flt = (s.fault srcPpsAbsent).flt)) ∧
  (∀ s : State, s.flag TIME.PO_PPS_OUT_EN = true → s.flag TIME.PO_SRC = false → s.time.ppsSecond < s.ppsSecondNow →
    exec .ppsOutPulse s = .next { s with time := { s.time with
      ppsSecond := s.ppsSecondNow, ppsHigh := true, ppsEnd := s.frc + s.get TIME.PO_WIDTH * 1250 } }) ∧
  (∀ s : State, s.time.ppsHigh = true → s.time.ppsEnd ≤ s.frc →
    exec .ppsOutPulseEnd s = .next { s with time := { s.time with ppsHigh := false } }) ∧
  (∀ (s : State) (l : Fin 1024) (signal lock : Bool),
    Completes (.cdrLockChange l signal lock) s (fun t => t.flag LANE.CDR_LOCK l = (signal && lock) ∧
      t.flag LANE.SIGNAL_DETECT l = signal))

/-- Power-on and the module resets (R427 to R432, R438, R441). -/
def Obligations.ResetCommandsTakeEffect : Prop :=
  (∀ (s : State) (addr : BitVec 2) (low : Bool),
    Completes (.powerOn addr low) s (fun t => t.boot.powered = true ∧ t.boot.held = low ∧ t.pins.smbAddr = addr.toNat ∧
      t.mil.fused = s.mil.fused ∧ t.mil.service = false ∧ t.que = {} ∧ t.buf = {} ∧ (low = true → t.get GLB.STEP = 2))) ∧
  (∀ s : State, s.boot.powered = true → s.boot.held = false → tabGet 0 s.pins.releasedAt 0 = 0 →
    Completes .resetNAssert s (fun t => t.boot = { s.boot with held := true } ∧
      tabGet 0 t.pins.acceptedAt 0 = s.frc + 1)) ∧
  (∀ s : State, s.boot.held = true → s.boot.cold = false →
    Completes .resetNRelease s (fun t => t.boot.held = false ∧ t.get GLB.LAST_KIND = 1 ∧ t.que = {} ∧ t.buf = {} ∧
      t.mil.fused = s.mil.fused ∧ t.mil.service = false)) ∧
  (∀ s : State, s.regOpen GLB.MODULE_RESET.off = true →
    Completes (.moduleReset 0xD124) s (fun t => t.get GLB.LAST_KIND = 3 ∧ t.que = {} ∧ t.buf = {} ∧ t.host = {} ∧
      t.mil.fused = s.mil.fused ∧ t.mil.service = false)) ∧
  (∀ (s : State) (c : BitVec 16), s.regOpen GLB.MODULE_RESET.off = true → c ≠ 0xD124 →
    exec (.moduleReset c) s = .next s ∧ exec (.softReset c) s = .next s) ∧
  (∀ s : State, s.regOpen GLB.SOFT_RESET.off = true → s.boot.soft = false →
    Completes (.softReset 0xD124) s (fun t => t.get GLB.LAST_KIND = 4 ∧ t.boot.soft = true ∧ t.get GLB.STEP = 2 ∧
      t.que = {} ∧ t.buf = {} ∧ t.host.msix = s.host.msix)) ∧
  (∀ (s : State) (at_ : Nat), s.flt.autoResetAt = some at_ → at_ ≤ s.frc →
    Completes .autoReset s (fun t => t.get GLB.LAST_KIND = 2 ∧ t.que = {} ∧ t.buf = {}))

/-- Pipe and port resets, the end of a full load, input filters and power failure (R67, R368, R369, R433 to R438). -/
def Obligations.StartupCommandsTakeEffect : Prop :=
  (∀ (s : State) (n : BitVec 11), s.regOpen GLB.PIPE_GO.off = true → s.boot.soft = false → n.toNat < 64 →
    s.lcState ≠ lcRetired → s.get IMG.RUN_SRC ≠ 0 → s.imgConfiguring = false →
    exec (.pipeGo n) s = .next ((s.set GLB.TARGET n.toNat).pipeReset n.toNat)) ∧
  (∀ (s : State) (n : BitVec 11), s.regOpen GLB.PORT_GO.off = true → s.boot.soft = false → s.isPort n.toNat = true → s.lcState ≠ lcRetired →
    s.get IMG.RUN_SRC ≠ 0 → s.imgConfiguring = false →
    exec (.portGo n) s = .next ((s.set GLB.TARGET n.toNat).portReset n.toNat)) ∧
  (∀ (s : State) (n : BitVec 11), s.regOpen GLB.PIPE_GO.off = true → s.boot.soft = false → n.toNat < 64 →
    s.lcState ≠ lcRetired → s.imgConfiguring = true →
    Completes (.pipeGo n) s (fun t => t.boot.waiting = s.boot.waiting ++ [.pipe n.toNat] ∧ t.flag GLB.BUSY = true)) ∧
  (∀ (s : State) (c : ImgCmd), s.img.cmd = some c → c.phase = .configuring → s.live = true →
    Completes .fullLoadReady s (fun t => t.img = { s.img with cmd := none, frozen := [] } ∧ t.boot.waiting = [])) ∧
  (∀ (s : State) (pin : Fin 5), s.boot.powered = true →
    exec (.inputGlitch pin false) s = .next (s.inc GLB.PIN_GLITCHES pin) ∧
    exec (.inputGlitch pin true) s = .next (s.inc GLB.PIN_EXCESS pin)) ∧
  (∀ (s : State) (pin : Fin 5), 2 ≤ pin.val → s.flag GLB.PIN_STUCK pin = false → s.activeLong pin = true →
    Completes (.inputStuck pin) s (fun t => t.flag GLB.PIN_STUCK pin = true ∧ t.flag GLB.PIN_STUCK_EVT pin = true ∧
      t.flag GLB.PIN_LEVEL pin = true ∧ t.flt = (s.fault (if pin.val = 2 then srcPpsStuck else srcTrigStuck)).flt)) ∧
  (∀ (s : State) (pin : Fin 5), pin ≠ 0 →
    Completes (.inputUnstuck pin) s (fun t => t.flag GLB.PIN_STUCK pin = false ∧ t.flag GLB.PIN_LEVEL pin = false ∧
      tabGet 0 t.pins.releasedAt pin = s.frc + 1)) ∧
  (∀ (s : State) (f : Fetch) (ok : Bool), s.flag PWR.PFAIL = false → s.boot.powered = true → s.flag GLB.PIN_STUCK 1 = false →
    tabGet 0 s.pins.releasedAt 1 = 0 →
    Completes (.powerFail true f ok) s (fun t => t.flag PWR.PFAIL = true ∧ t.flag ANVL.PFAIL_COMMIT = true ∧
      t.flag GLB.PIN_LEVEL 1 = true ∧ t.get CORE.TGT_OP = 0 ∧ ∀ n, n < 88 → t.flag HOST.R_EN n = false)) ∧
  (∀ (s : State) (f : Fetch) (ok : Bool), s.flag PWR.PFAIL = true → s.boot.powered = true → s.flag GLB.PIN_STUCK 1 = false →
    exec (.powerFail true f ok) s = .next (s.setB GLB.PIN_LEVEL true 1)) ∧
  (∀ s : State, s.flag PWR.PFAIL = true → exec .pfailDone s = .next (s.setB PWR.PFAIL_DONE true)) ∧
  (∀ (s : State) (at_ : Nat), s.flag PWR.PFAIL = true → s.flag GLB.PIN_LEVEL 1 = false → s.pwr.goodSince = some at_ →
    at_ + 12500000 ≤ s.frc →
    Completes .powerRecovery s (fun t => t.get GLB.LAST_KIND = 5 ∧ t.boot.soft = true ∧ t.get GLB.STEP = 2))

/-- Events of the host link and messages (R317, R322, R323). -/
def Obligations.HostLinkEventsTakeEffect : Prop :=
  (∀ s : State, s.live = true →
    Completes .pcieLinkDown s (fun t => t.flag HOST.LINK_UP = false ∧ t.flag HOST.BUS_MASTER = false ∧
      t.flag HOST.D3HOT = false ∧ t.flag HOST.LINK_DOWN_EVT = true ∧ t.host.msix = [] ∧ t.host.coalAt = [] ∧
      t.host.cfg = [] ∧ t.host.funcMask = false)) ∧
  (∀ (s : State) (speed width : BitVec 4), s.live = true →
    Completes (.pcieLinkUp speed width) s (fun t => t.get HOST.LINK_SPEED = speed.toNat ∧
      t.get HOST.LINK_WIDTH = width.toNat ∧ t.flag HOST.LINK_UP = true)) ∧
  (∀ s : State, s.live = true → Completes .busMasterDisable s (fun t => t.flag HOST.BUS_MASTER = false)) ∧
  (∀ s : State, s.live = true → Completes .d3hotEntry s (fun t => t.flag HOST.D3HOT = true)) ∧
  (∀ s : State, s.live = true →
    Completes .hostResume s (fun t => t.flag HOST.BUS_MASTER = true ∧ t.flag HOST.D3HOT = false)) ∧
  (∀ (s : State) (v : Fin 256), s.live = true → s.msixOpen = true → s.host.funcMask = false → bit s.host.pba v = true →
    Completes (.msixUnmask v) s (fun t => bit t.host.pba v = false ∧ t.msixMasked v = false ∧
      t.outbox = s.outbox ++ [.msix v (s.msixWord v 0 + 2 ^ 32 * s.msixWord v 1) (s.msixWord v 2)]))

/-- The fault unit: deciding, recording, masks, commands and injection (R392 to R405). -/
def Obligations.FaultCommandsTakeEffect : Prop :=
  (∀ (s : State) (e : FaultEvt) (rest : List FaultEvt), s.flt.reported = e :: rest → s.flt.masks = [] → e.src < 256 →
    s.get FLT.S_BASE_CLASS e.src ≤ 1 → s.get FLT.S_N e.src = 0 → s.get FLT.S_REACT_BASE e.src = 0 →
    s.flag FLT.FIRST_VALID = true → s.flt.queue.length < 64 → s.live = true →
    Completes .faultDecision s (fun t => t.flt.reported = rest ∧
      t.get FLT.S_EVENTS e.src = satTo (2 ^ 32 - 1) (s.get FLT.S_EVENTS e.src + 1) ∧
      t.get FLT.SEQ = (s.get FLT.SEQ + 1) % 2 ^ 32 ∧
      ∃ r, t.flt.queue = s.flt.queue ++ [r] ∧ r.src = e.src ∧ r.cls = s.get FLT.S_BASE_CLASS e.src ∧
        r.seq = s.get FLT.SEQ ∧ r.frc = s.frc ∧ r.suppressed = false)) ∧
  (∀ (s : State) (r : FaultRec) (rest : List FaultRec) (ok : Bool), s.flt.queue = r :: rest → s.get FLT.HIST_HEAD < 32 →
    s.flag FLT.FAULT_RING_EN = false → r.cls < s.get FLT.FLOG_MIN →
    Completes (.faultRecord ok) s (fun t => t.flt = { s.flt with queue := rest } ∧
      t.get FLT.HIST_HEAD = (s.get FLT.HIST_HEAD + 1) % 32 ∧ t.get FLT.HIST_COUNT = min 32 (s.get FLT.HIST_COUNT + 1))) ∧
  (∀ s : State, Completes .maskWindowEnd s (fun t => Touches [.flt] s t ∧
    ∀ w, w ∈ t.flt.masks ↔ w ∈ s.flt.masks ∧ (w.until_ = none ∨ ∃ e, w.until_ = some e ∧ s.frc < e))) ∧
  (∀ s : State, s.regOpen FLT.FIRST_CLR.off = true →
    Completes .firstClr s (fun t => t.flag FLT.FIRST_VALID = false ∧ t.get FLT.WORST = 0)) ∧
  (∀ s : State, s.regOpen FLT.FAULT_N_CLR.off = true → s.flt.fatal = false →
    exec .faultNClr s = .next (s.setB FLT.FAULT_ACTIVE false)) ∧
  (∀ s : State, s.regOpen FLT.ALIVE_RESTART.off = true → s.flt.fatal = false →
    exec .aliveRestart s = .next (s.setB FLT.ALIVE_STOPPED false)) ∧
  (∀ s : State, s.flt.fatal = true → exec .faultNClr s = .next s ∧ exec .aliveRestart s = .next s) ∧
  (∀ (s : State) (p : Fin 1024), s.regOpen FLT.PORT_SAFE.off = true → s.bitOf FLT.PORT_SAFE (p % 32) (p / 32) = true →
    s.flag FLT.MODULE_SAFE = false → s.isPort p = true → s.linkState p = linkSafe → s.flag PORT.ADMIN_UP p = false →
    s.flag PORT.TEST_MODE p = false →
    Completes (.portSafeRelease p) s (fun t => t.linkState p = linkDisabled ∧
      t.bitOf FLT.PORT_SAFE (p % 32) (p / 32) = false)) ∧
  (∀ s : State, s.regOpen FLT.INJ_GO.off = true → s.lcState = lcManufacture → s.get FLT.INJ_KIND = 1 →
    s.flag FLT.S_IMPLEMENTED (s.get FLT.INJ_SRC) = true →
    Completes .injectEvent s (fun t => ∃ e, t.flt = { s.flt with reported := s.flt.reported ++ [e] } ∧
      e.src = s.get FLT.INJ_SRC ∧ e.injected = true ∧ e.index = s.get FLT.INJ_SCOPE % 4096)) ∧
  (∀ s : State, s.regOpen FLT.INJ_GO.off = true → s.lcState = lcManufacture → s.get FLT.INJ_KIND = 2 →
    exec .injectMemory s = .next { s with flt := { s.flt with injMem := s.flt.injMem ++
      [⟨s.flag FLT.INJ_CRUC, s.get FLT.INJ_TARGET % 2 ^ (if s.flag FLT.INJ_CRUC then 25 else 36),
        s.get FLT.INJ_BITS⟩] } }) ∧
  (∀ (s : State) (p : Nat), s.regOpen FLT.INJ_GO.off = true → s.lcState = lcManufacture → s.get FLT.INJ_KIND = 3 →
    s.portOfLane (s.get FLT.INJ_TARGET % 1024) = some p → s.portUp p = true →
    s.get LANE.INJ_MODE (s.get FLT.INJ_TARGET % 1024) = 1 →
    exec .injectLane s = .next (s.emit (.flip (s.get FLT.INJ_TARGET % 1024) 1)))

/-- Milest's commands, each with a block that passes the checks and fuses that verify (R411 to R416). -/
def Obligations.MilestCommandsTakeEffect : Prop :=
  ∀ (s : State) (b : List Byte) (n : Nat), s.regOpen MIL.GO.off = true → 256 ≤ b.length → s.milestCheck b = 0 →
    n = (Config.freeNonce s.draws).toNat % 2 ^ 128 →
    (blkCommand b = 1 → Completes (.fuseSlot b true) s (fun t => t.get MIL.RESULT = 0 ∧ t.get MIL.LAST_COMMAND = 1 ∧
      t.mil = { s.mil with slots := tabPut s.mil.slots (blkArg b 0) (sha384 (blkKey b)), nonce := n })) ∧
    (blkCommand b = 2 → Completes (.fuseImageKey b true) s (fun t => t.get MIL.RESULT = 0 ∧ t.get MIL.LAST_COMMAND = 2 ∧
      t.mil = { s.mil with imageKey := some (slice b 0x20 32), nonce := n })) ∧
    (blkCommand b = 3 → Completes (.enterField b true) s (fun t => t.get MIL.RESULT = 0 ∧ t.get MIL.LAST_COMMAND = 3 ∧
      t.flag CORE.LOOP_EN = true ∧ t.mil = { s.mil with fused := .field, nonce := n })) ∧
    (blkCommand b = 4 → Completes (.enterService b) s (fun t => t.get MIL.RESULT = 0 ∧ t.get MIL.LAST_COMMAND = 4 ∧
      t.lcState = lcService ∧ t.tele.flows = [] ∧ ∀ a, a < queueBase → memByte t.dev a = 0)) ∧
    (blkCommand b = 5 → Completes (.revokeSlot b true) s (fun t => t.get MIL.RESULT = 0 ∧ t.get MIL.LAST_COMMAND = 5 ∧
      t.mil = { s.mil with revoked := bitSet s.mil.revoked (blkArg b 0), nonce := n })) ∧
    (blkCommand b = 6 → Completes (.raiseFloor b true) s (fun t => t.get MIL.RESULT = 0 ∧ t.get MIL.LAST_COMMAND = 6 ∧
      t.mil = { s.mil with floor := blkArg b 0, nonce := n })) ∧
    (blkCommand b = 7 → Completes (.retire b true) s (fun t => t.get MIL.RESULT = 0 ∧ t.get MIL.LAST_COMMAND = 7 ∧
      t.lcState = lcRetired ∧ t.mil.idKey = none ∧ t.mil.imageKey = none ∧ t.mil.slots = s.mil.slots))

/-- A Milest block that fails a check, or whose fuse programming does not verify, changes no fuse (R412, R425). -/
def Obligations.MilestFailureLeavesFuses : Prop :=
  ∀ (s : State) (b : List Byte) (ok : Bool) (r n : Nat), s.regOpen MIL.GO.off = true →
    r = (if s.milestCheck b ≠ 0 then s.milestCheck b else 0x0A) → (s.milestCheck b ≠ 0 ∨ ok = false) →
    n = (Config.freeNonce s.draws).toNat % 2 ^ 128 →
    (b.length < 256 ∨ blkCommand b = 1 ∨ inRange 1 8 (blkCommand b) = false → Completes (.fuseSlot b ok) s (fun t =>
      t.get MIL.RESULT = r ∧ t.mil = { s.mil with nonce := n })) ∧
    (b.length < 256 ∨ blkCommand b = 2 ∨ inRange 1 8 (blkCommand b) = false → Completes (.fuseImageKey b ok) s (fun t =>
      t.get MIL.RESULT = r ∧ t.mil = { s.mil with nonce := n })) ∧
    (b.length < 256 ∨ blkCommand b = 3 ∨ inRange 1 8 (blkCommand b) = false → Completes (.enterField b ok) s (fun t =>
      t.get MIL.RESULT = r ∧ t.mil = { s.mil with nonce := n })) ∧
    (b.length < 256 ∨ blkCommand b = 5 ∨ inRange 1 8 (blkCommand b) = false → Completes (.revokeSlot b ok) s (fun t =>
      t.get MIL.RESULT = r ∧ t.mil = { s.mil with nonce := n })) ∧
    (b.length < 256 ∨ blkCommand b = 6 ∨ inRange 1 8 (blkCommand b) = false → Completes (.raiseFloor b ok) s (fun t =>
      t.get MIL.RESULT = r ∧ t.mil = { s.mil with nonce := n })) ∧
    (b.length < 256 ∨ blkCommand b = 7 ∨ inRange 1 8 (blkCommand b) = false → Completes (.retire b ok) s (fun t =>
      t.get MIL.RESULT = r ∧ t.mil = { s.mil with nonce := n })) ∧
    (s.milestCheck b ≠ 0 → b.length < 256 ∨ blkCommand b = 4 ∨ inRange 1 8 (blkCommand b) = false →
      Completes (.enterService b) s (fun t => t.get MIL.RESULT = r ∧ t.mil = { s.mil with nonce := n }))

/-- Attestation: each request is answered with one response (R416 to R418). -/
def Obligations.AttestationRequestsAreAnswered : Prop :=
  (∀ s : State, s.live = true →
    Completes .getVersion s (fun t => t.mil = { s.mil with spdm := 1 } ∧ ∃ m, t.outbox = s.outbox ++ [.spdm m])) ∧
  (∀ s : State, s.live = true → 1 ≤ s.mil.spdm →
    Completes .getCapabilities s (fun t => t.mil = { s.mil with spdm := 2 } ∧ ∃ m, t.outbox = s.outbox ++ [.spdm m])) ∧
  (∀ s : State, s.live = true → s.lcState ≠ lcRetired → 2 ≤ s.mil.spdm →
    Completes .negotiateAlgorithms s (fun t => t.mil = { s.mil with spdm := 3 } ∧ ∃ m, t.outbox = s.outbox ++ [.spdm m])) ∧
  (∀ s : State, s.live = true → s.lcState ≠ lcRetired → 3 ≤ s.mil.spdm →
    Completes .getDigests s (fun t => ∃ h, t = { s with outbox := s.outbox ++ [.spdm (h ++ sha384 s.mil.certChain)] })) ∧
  (∀ (s : State) (off len : BitVec 16), s.live = true → 3 ≤ s.mil.spdm →
    Completes (.getCertificate off len) s (fun t => ∃ h,
      t = { s with outbox := s.outbox ++ [.spdm (h ++ slice s.mil.certChain off.toNat len.toNat)] })) ∧
  (∀ (s : State) (sum : Byte), s.live = true → s.lcState ≠ lcRetired → 3 ≤ s.mil.spdm →
    Completes (.challenge sum) s (fun t => t.mil = s.mil ∧ t.draws = s.draws + 2 ∧
      ∃ h u, t.outbox = s.outbox ++ [.spdm (h ++ sha384 s.mil.certChain ++ u)])) ∧
  (∀ (s : State) (signed : Bool), s.live = true → s.lcState ≠ lcRetired → 3 ≤ s.mil.spdm →
    Completes (.getMeasurements 0xFF signed) s (fun t => t.mil = s.mil ∧ ∃ h u, t.outbox = s.outbox ++
      [.spdm (h ++ [1, 2, 3, 4, 5].flatMap (fun k => s.measurement k) ++ u)]))

/-- JTAG and Assay (R419, R421 to R424). -/
def Obligations.JtagAndAssayCommandsTakeEffect : Prop :=
  (∀ s : State, s.boot.powered = true →
    exec .bypass s = .next { s with pins := { s.pins with jtag := .bypass }, outbox := s.outbox ++ [.tdo 1 0] }) ∧
  (∀ s : State, s.boot.powered = true →
    exec .idcode s = .next { s with pins := { s.pins with jtag := .idcode },
                                    outbox := s.outbox ++ [.tdo 32 (s.get GLB.SIL_REV * 2 ^ 28 + 0xD12427B)] }) ∧
  (∀ (s : State) (pre : Bool) (c : BitVec 32), s.boot.powered = true → s.lcState ≠ lcRetired →
    exec (.samplePreload pre c) s = .next { s with pins := { s.pins with jtag := .samplePreload, scan := c.toNat },
                                                   outbox := s.outbox ++ [.tdo 32 (if pre then s.pins.scan else c.toNat)] }) ∧
  (∀ s : State, s.boot.powered = true → s.lcState = lcManufacture →
    exec .extest s = .next { s with pins := { s.pins with jtag := .extest } } ∧
    exec .internalScan s = .next { s with pins := { s.pins with jtag := .internalScan } }) ∧
  (∀ s : State, s.boot.powered = true → s.lcState ≠ lcManufacture → s.lcState ≠ lcRetired →
    Completes .extest s (fun t => t.pins.jtag = .extest ∧ ∃ l, t.flt.reported = l ++ [{ src := srcExtest, index := 0, detail := 0 }])) ∧
  (∀ (s : State) (ppm : List (BitVec 9)), s.regOpen ASY.CMD_GO.off = true → s.assayCheck = 0 → (worstPpm ppm).1 ≤ 100 →
    Completes (.assayGo ppm true) s (fun t => t.get ASY.STATE = 2 ∧ t.get ASY.REFUSAL = 0 ∧
      t.assay = { s.assay with running := true, left := (List.range 5).filter (fun k => s.bitOf ASY.CMD_TESTS k), hold := true,
                               repair := s.get ASY.CMD_REPAIR })) ∧
  (∀ (s : State) (ppm : List (BitVec 9)) (ok : Bool), s.regOpen ASY.CMD_GO.off = true → s.assayCheck ≠ 0 →
    exec (.assayGo ppm ok) s = .next (s.set ASY.REFUSAL s.assayCheck)) ∧
  (∀ (s : State) (n : Fin 5) (accesses tokens : BitVec 64), s.assay.left = [n.val] →
    Completes (.assayTestDone [] accesses tokens) s (fun t => t.get ASY.STATE = 3 ∧ t.flag ASY.DONE = true ∧
      t.get ASY.FAILS n = 0 ∧ t.flag IMG.READY = false ∧
      t.assay = { s.assay with running := false, left := [], hold := false })) ∧
  (∀ (s : State) (accesses tokens : BitVec 64), s.assay.left = [4] →
    lbufOpen accesses.toNat tokens.toNat = false →
    Completes (.assayTestDone [] accesses tokens) s (fun t => t.flag ASY.LBUF_VALID = true ∧
      t.get ASY.LBUF = accesses.toNat * 4096 / (64 * tokens.toNat))) ∧
  (∀ (s : State) (m : BitVec 24) (g : Fin 16) (l : Word) (accesses tokens : BitVec 64), s.assay.left = [0] →
    s.assay.repair ≠ 0 → s.sparesUsed 0 m.toNat < 4 →
    Completes (.assayTestDone [.row m g l] accesses tokens) s (fun t => t.get ASY.FAILS 0 = 1 ∧ t.get ASY.REPAIRED 0 = 1 ∧
      t.get ASY.UNREPAIRED 0 = 0 ∧ t.get ASY.SPARES_LEFT 0 = 3 - s.sparesUsed 0 m.toNat ∧
      t.assay.repairs = s.assay.repairs ++ [⟨0, m.toNat, l.toNat, s.assay.repair == 2⟩])) ∧
  (∀ (s : State) (m : BitVec 24) (g : Fin 16) (l : Word) (accesses tokens : BitVec 64), s.assay.left = [0] →
    s.assay.repair = 0 ∨ 4 ≤ s.sparesUsed 0 m.toNat →
    Completes (.assayTestDone [.row m g l] accesses tokens) s (fun t => t.get ASY.FAILS 0 = 1 ∧ t.get ASY.REPAIRED 0 = 0 ∧
      t.get ASY.UNREPAIRED 0 = 1 ∧ t.flt = (s.fault (assaySource g) 0 l.toNat).flt ∧
      t.assay.repairs = s.assay.repairs)) ∧
  (∀ s : State, s.regOpen ASY.CMD_ABORT.off = true → s.assay.running = true →
    Completes .assayAbort s (fun t => t.flag ASY.ABORTED = true ∧ t.get ASY.REFUSAL = 10 ∧ t.get ASY.STATE = 3 ∧
      t.assay.running = false)) ∧
  (∀ (s : State) (order : Fin 5), s.assay.running = true → order.val < 3 → s.assayUnmet ≠ 5 + order.val →
    exec (.assayConditionFail order) s = .next s) ∧
  (∀ (s : State) (order : Fin 5), s.assay.running = true → 3 ≤ order.val ∨ s.assayUnmet = 5 + order.val →
    Completes (.assayConditionFail order) s (fun t => t.flag ASY.ABORTED = true ∧ t.get ASY.REFUSAL = 5 + order.val ∧
      t.get ASY.STATE = 3 ∧ t.assay.running = false))

/-- Register accesses of the host and the SMBus target (R10 to R13, R445, R447, R455 to R457). -/
def Obligations.HostAccessesTakeEffect : Prop :=
  (∀ (s : State) (v : Word), s.live = true →
    Completes (.regWrite .bar0 0x18 v) s (fun t => t.get GLB.SCRATCH = v.toNat ∧ OnlyFields s t [GLB.SCRATCH.key 0 0])) ∧
  (∀ (s : State) (off : BitVec 26) (v : Word), s.live = true → off.toNat < 0x1000 → off.toNat % 16 = 8 →
    bit s.host.pba (off.toNat / 16) = false →
    Completes (.regWrite .bar4 off v) s (fun t => Touches [.host] s t ∧ t.msixWord (off.toNat / 16) 2 = v.toNat)) ∧
  (∀ s : State, s.regOpen 0xC00020 = true →
    Completes (.rcFieldRead .bar0 0xC00020) s (fun t => t.readData.toNat = s.get TELE.FC_EVICTED % 2 ^ 32 ∧
      t.get TELE.FC_EVICTED = 0)) ∧
  (∀ (s : State) (off : BitVec 26) (h : FldAt), s.regOpen off.toNat = true → off.toNat % 4 = 0 →
    wideHit off.toNat = some h → h.high = false →
    Completes (.lowWordRead off) s (fun t => t.readData.toNat = s.wordRead off.toNat ∧
      tabFind t.host.latch off.toNat = some (s.wordRead (off.toNat + 4)))) ∧
  (∀ (s : State) (off : BitVec 26) (h : FldAt) (v : Nat), s.regOpen off.toNat = true → off.toNat % 4 = 0 →
    wideHit off.toNat = some h → h.high = true → tabFind s.host.latch (off.toNat - 4) = some v → v < 2 ^ 32 →
    Completes (.highWordRead off) s (fun t => t.readData.toNat = v ∧ tabFind t.host.latch (off.toNat - 4) = none)) ∧
  (∀ (s : State) (low : Nat) (v : Word), s.regOpen 0xB00024 = true → tabFind s.host.low 0xB00020 = some low →
    Completes (.highWordWrite 0xB00024 v) s (fun t => t.get TIME.SET_SEC = (low + 2 ^ 32 * v.toNat) % 2 ^ 48 ∧
      tabFind t.host.low 0xB00020 = none)) ∧
  (∀ s : State, s.live = true →
    Completes .bar0BadAccess s (fun t => t.readData = 0 ∧ t.flag HOST.ACCESS_ERR = true ∧ t.flt = (s.fault srcAccess).flt) ∧
    Completes .bar4BadAccess s (fun t => t.readData = 0 ∧ t.flag HOST.ACCESS_ERR = true ∧ t.flt = (s.fault srcAccess).flt)) ∧
  (∀ (s : State) (en : BitVec 14), s.regOpen GLB.INT_EN.off = true →
    Completes (.glbIntEnWrite en) s (fun t => t.get GLB.INT_EN = en.toNat)) ∧
  (∀ (s : State) (p : Word), s.boot.powered = true → p.toNat % 4 = 0 →
    exec (.smbSetPointer p true) s = .next { s with host := { s.host with smbPtr := p.toNat }, outbox := s.outbox ++ [.smb []] }) ∧
  (∀ s : State, s.boot.powered = true →
    Completes .smbRead s (fun t => t.host.smbPtr = (s.host.smbPtr + 4) % 2 ^ 32 ∧
      t.outbox = s.outbox ++ [.smb (leBytes 4 (s.smbWord s.host.smbPtr).1)])) ∧
  (∀ (s : State) (v : Word), s.live = true →
    Completes (.smbWrite 0x18 v true) s (fun t => t.get GLB.SCRATCH = v.toNat ∧ t.outbox = s.outbox ++ [.smb []])) ∧
  (∀ s : State, s.boot.powered = true →
    exec .smbAlertResponse s = .next { s with outbox := s.outbox ++ [.smb (leBytes 1 (2 * s.smbAddress))] })

/-- R360, where nothing holds the operating point (R422) and an image runs. -/
def Obligations.TargetIsTheLowestLimit : Prop :=
  ∀ (s : State) (q t m : Nat), s.pwr.govern.pref ≤ 7 → s.assay.hold = false → s.core.idle = false →
    q = max (s.get PWR.Q_LIMIT) s.pwr.govern.min → t = max (s.get PWR.T_LIMIT) 1 →
    m = (if s.flag PWR.PFAIL then 0 else min s.pwr.govern.pref (min q t)) →
    s.retarget.get CORE.TGT_OP = m ∧
    s.retarget.get PWR.LIMIT = (if s.pwr.govern.pref = m then 0 else if q = m then 1 else if t = m then 2 else 3) ∧
    (m ≠ s.get CORE.TGT_OP → s.retarget.flag CORE.IN_TRANSITION = true)

/-- R359. -/
def Obligations.PhaseSelectionGoverns : Prop :=
  (∀ (s : State) (n : Fin 16), s.regOpen PWR.PHASE_SEL.off = true → s.phaseValid n = true →
    (∀ e, s.pwr.edge = some e → e.at_ ≠ s.frc ∨ e.rank = rankWrite) →
    Completes (.phaseSelect n) s (fun t =>
      t.pwr.govern.cap = s.get PWR.E_CAP n ∧ t.pwr.govern.k = s.get PWR.E_K n ∧ t.pwr.govern.bMax = s.get PWR.E_B_MAX n ∧
      t.get PWR.Q_LIMIT = s.get PWR.E_PREF_OP n % 8 ∧ t.get CORE.TGT_OP = t.opTarget % 8 ∧
      t.get PWR.PHASE_CHANGES = satTo (2 ^ 32 - 1) (s.get PWR.PHASE_CHANGES + 1)) ∧
    Completes (.phaseSelect n) s (fun t => t.dev = s.dev ∧ t.que = s.que ∧ t.buf = s.buf)) ∧
  (∀ (s : State) (n : Fin 16) (e : PhaseEdge), s.regOpen PWR.PHASE_SEL.off = true → s.pwr.edge = some e → e.at_ = s.frc →
    e.rank < rankWrite → exec (.phaseSelect n) s = .next s)

/-- R353, with the fault classes of the catalogue. -/
def Obligations.TenBadSamplesRaiseAFault : Prop :=
  (∀ (s : State) (rail : Fin 7) (mv : BitVec 18) (da : BitVec 14), 2 ≤ rail.val → railOut rail mv.toNat = true →
    tabGet 0 s.pwr.railRun rail = 9 →
    Completes (.railSample rail mv da true) s (fun t => t.flt = (s.fault srcRail).flt)) ∧
  (∀ (s : State) (rail : Fin 7) (mv : BitVec 18) (da : BitVec 14), 2 ≤ rail.val → railOut rail mv.toNat = false →
    Completes (.railSample rail mv da true) s (fun t => t.flt = s.flt ∧ tabGet 0 t.pwr.railRun rail = 0)) ∧
  (∀ (s : State) (mv : BitVec 18) (da : BitVec 14), 76000 < mv.toNat → s.pwr.vinHigh = 9 →
    Completes (.railSample 0 mv da true) s (fun t => t.flag PWR.OV_EVT = true ∧ t.flt = (s.fault srcOverVoltage).flt)) ∧
  (∀ (s : State) (mv : BitVec 18) (da : BitVec 14), mv.toNat ≤ 76000 →
    Completes (.railSample 0 mv da true) s (fun t => t.flt = s.flt ∧ t.pwr.vinHigh = 0)) ∧
  State.reset.get FLT.S_BASE_CLASS srcRail = classSevere ∧ State.reset.get FLT.S_BASE_CLASS srcOverVoltage = classMinor

/-- R346. -/
def Obligations.DmaAbortEndsTheTransfer : Prop :=
  (∀ (s : State) (c : Fin 32), s.regOpen HOST.D_ABORT.off = true → s.get HOST.D_STATE c = dmaRunning →
    Completes (.dmaAbort c) s (fun t => t.get HOST.D_RESULT c = dmaAborted ∧
      t.get HOST.D_RESIDUE c = (s.get HOST.D_COUNT c - (s.dmaRec c).moved) % 2 ^ 24 ∧ t.get HOST.D_STATE c = dmaHalted ∧
      t.flag HOST.D_DONE c = true ∧ (t.dmaRec c).readback = false ∧ t.dev = s.dev ∧
      (s.msixOpen = true → s.msixMasked (s.get HOST.D_VECTOR c) = false → t.outbox = s.outbox ++ [.msix (s.get HOST.D_VECTOR c)
        (s.msixWord (s.get HOST.D_VECTOR c) 0 + 2 ^ 32 * s.msixWord (s.get HOST.D_VECTOR c) 1)
        (s.msixWord (s.get HOST.D_VECTOR c) 2)]))) ∧
  (∀ (s : State) (c : Fin 32), s.get HOST.D_STATE c ≠ dmaRunning → exec (.dmaAbort c) s = .next s)

/-- R415. -/
def Obligations.ServiceEndsWithThePower : Prop :=
  ∀ (s : State) (addr : BitVec 2) (low : Bool), s.mil.fused = .field →
    Completes (.powerOn addr low) s (fun t => t.lcState = lcField ∧ t.tele.flows = [] ∧ t.buf = {} ∧
      ∀ a, a < storeBase → memByte t.dev a = 0)

/-- R446, as an SMBus read of the register shows it. -/
def Obligations.PortSummaryShowsEnabledEvents : Prop :=
  (∀ (s : State) (w : Fin 32), s.boot.powered = true → s.host.smbPtr = 0x280 + 4 * w.val →
    Completes .smbRead s (fun t => ∃ n, t.outbox = s.outbox ++ [.smb (leBytes 4 n)] ∧ n < 2 ^ 32 ∧
      ∀ j < 32, (bit n j = true ↔ s.isPort (32 * w + j) = true ∧
        ∃ x ∈ portEventPairs, s.flag x.1 (32 * w + j) = true ∧ s.flag x.2 (32 * w + j) = true))) ∧
  (∀ (s : State) (p : Nat), p < 1024 → s.boot.powered = true → s.host.smbPtr = 0x200 → s.isPort p = true →
    s.flag PORT.EV_LINK_DOWN_EVT p = true → s.flag PORT.IE_LINK_DOWN_EVT p = true →
    Completes .smbRead s (fun t => ∃ n, t.outbox = s.outbox ++ [.smb (leBytes 4 n)] ∧ bit n 1 = true))

/-- R457. -/
def Obligations.SmbAlertFollowsItsConditions : Prop :=
  (∀ s : State, s.smbAlert = true ↔ s.get FLT.FAULT_ACTIVE ≠ 0 ∨ 1 ≤ s.get PWR.THERM_LEVEL ∨ s.get PWR.PFAIL ≠ 0 ∨
    ∃ n < 5, s.get GLB.PIN_STUCK n ≠ 0) ∧
  (∀ s : State, s.boot.powered = true → Completes .smbAlertResponse s (fun t => t.smbAlert = s.smbAlert ∧
    t.outbox = s.outbox ++ [.smb (leBytes 1 (2 * s.smbAddress))]))

/-- What R456 says of SMBus accesses: a write elsewhere is refused without effect, and a read alters no register. -/
def Obligations.SmbAccessesLeaveRegistersAlone : Prop :=
  (∀ (s : State) (off v : Word) (ok : Bool), s.boot.powered = true →
    ok = false ∨ (off.toNat ≠ GLB.MODULE_RESET.off ∧ off.toNat ≠ GLB.SCRATCH.off ∧ off.toNat ≠ PWR.PHASE_SEL.off) →
    exec (.smbWrite off v ok) s = .next { s with outbox := s.outbox ++ [.smbNack] }) ∧
  (∀ s : State, s.boot.powered = true → Completes .smbRead s (fun t => t.regs = s.regs ∧ t.host.latch = s.host.latch ∧
    t.dev = s.dev))

/-- R65. -/
def Obligations.WriteBankSparesTheLastValidBank : Prop :=
  (∀ (s : State) (b : Fin 2) (ok : Bool), s.regOpen IMG.OPCODE.off = true → (s.commitRec b).valid = true →
    (s.commitRec (1 - b.val)).valid = false →
    Completes (.writeBank b ok) s (fun t => t.get IMG.RESULT = resState ∧ t.get IMG.LAST_OPCODE = opWriteBank ∧
      t.flag IMG.CMD_DONE = true ∧ t.dev = s.dev ∧ t.anvil = s.anvil ∧ t.img = s.img)) ∧
  (∀ (s : State) (b : Fin 2), (s.commitRec 0).valid = false → (s.commitRec 1).valid = false → s.lcState ≠ lcRetired →
    s.img.cmd = none → s.get IMG.SRC_ADDR % 64 = 0 → s.imgRefusal opWriteBank b = none)

/-- Commands that the IMG block refuses (R70, R77, R414, R416): the result says why, and nothing else happens. -/
def Obligations.ImageCommandsAreRefused : Prop :=
  ∀ (s : State) (c : Instr) (op bank r : Nat), s.regOpen IMG.OPCODE.off = true →
    imageCommand c = some (op, bank) → s.imgRefusal op bank = some r →
    Completes c s (fun t => t.get IMG.RESULT = r % 256 ∧ t.get IMG.FAIL_SECTION = 0xFF ∧ t.get IMG.LAST_OPCODE = op ∧
      t.flag IMG.CMD_DONE = true ∧ t.img = s.img ∧ t.dev = s.dev ∧ t.get IMG.ACTIVITY = s.get IMG.ACTIVITY) ∧
    (s.img.cmd.isSome = true → r = resState) ∧ (op = opSwap → s.img.cmd = none → s.flag IMG.SWAP_ENABLED = false → r = resState)

/-- R309. -/
def Obligations.FlushReplacesAnUnreadablePair : Prop :=
  (∀ (s : State) (d : Delta) (e : EccState) (a : Nat), a = counterBase + 16 * d.index → s.eccOf a 16 e = .uncorrectable →
    (s.pairAdd d e).mem a 8 = d.packets % 2 ^ 64 ∧ (s.pairAdd d e).mem (a + 8) 8 = d.bytes % 2 ^ 64 ∧
    (s.pairAdd d e).get TELE.CNT_ECC = satTo (2 ^ 32 - 1) (s.get TELE.CNT_ECC + 1) ∧
    ∃ l v, (s.pairAdd d e).flt.reported = l ++ [v] ∧ v.src = srcCounterEcc ∧
      State.reset.get FLT.S_BASE_CLASS v.src = classMinor) ∧
  (∀ (s : State) (addr : BitVec 2) (low : Bool), Completes (.powerOn addr low) s (fun t =>
    ∀ a, counterBase ≤ a → a < flowBase → memByte t.dev a = 0)) ∧
  (∀ (s : State) (a : Nat), counterBase ≤ a → a < flowBase → memByte s.loadClear.dev a = 0)

/-- A flush adds: the pair holds the sum, each half modulo 2^64 (R307). -/
def Obligations.FlushAddsToItsPair : Prop :=
  ∀ (s : State) (d : Delta) (e : EccState) (a : Nat), a = counterBase + 16 * d.index → s.eccOf a 16 e ≠ .uncorrectable →
    (s.pairAdd d e).mem a 8 = (s.mem a 8 + d.packets) % 2 ^ 64 ∧
    (s.pairAdd d e).mem (a + 8) 8 = (s.mem (a + 8) 8 + d.bytes) % 2 ^ 64 ∧
    (∀ b, b < a ∨ a + 16 ≤ b → memByte (s.pairAdd d e).dev b = memByte s.dev b) ∧ (s.pairAdd d e).regs = s.regs

/-- R160. -/
def Obligations.MaskedKeyBitsAreStoredAsZero : Prop :=
  (∀ (s : State) (x : Item448) (b : List Byte) (k : Nat), x.region = .ase → x.size = 64 → b.length = 64 → k < 160 →
    bit (le b 20 20) k = false → bit ((s.devCommit x b).mem x.base 20) k = false) ∧
  (∀ (s : State) (x : Item448) (b : List Byte), x.region = .ase → x.size = 64 → b.length = 64 →
    bit ((s.devCommit x b).mem (x.base + 42) 2) 2 = false) ∧
  (∀ (key mask prio flags result k : Nat), bit mask k = false → k < 160 →
    bit (le (slotBytes key mask prio flags result) 0 20) k = false)

/-- An event ring takes an event when its entry has been given, and loses it otherwise (R336). -/
def Obligations.EventRingsTakeOrLoseEvents : Prop :=
  (∀ (s : State) (e : Nat) (rec_ : List Byte), s.flag HOST.R_EN (eventRing e) = true → s.ringGiven (eventRing e) 0 = true →
    (s.eventRingWrite e rec_).2 = true ∧
    ∀ k, k < 28 → memByte (s.eventRingWrite e rec_).1.dev (s.ringEntry (eventRing e) 0 + k) = (padTo 28 rec_).getD k 0) ∧
  (∀ (s : State) (e : Nat) (rec_ : List Byte), s.flag HOST.R_EN (eventRing e) = false ∨ s.ringGiven (eventRing e) 0 = false →
    s.eventRingWrite e rec_ = (s.inc HOST.R_DISCARDS (eventRing e), false))

/-- The set point keeps within the range of R35 where the module changes it. -/
def Obligations.VcoreStaysInRange : Prop :=
  (∀ (s : State) (f : Fetch) (ok : Bool), VcoreInv s → Completes (.hoursIncrement f ok) s VcoreInv) ∧
  (∀ (s : State) (mv : BitVec 12), VcoreInv s → Completes (.opTransitionDone mv) s VcoreInv) ∧
  (∀ (s : State) (n : Fin 81) (count replica : Word), VcoreInv s → Completes (.trmWindowEnd n count replica) s VcoreInv) ∧
  (∀ (s : State) (addr : BitVec 2) (low : Bool), Completes (.powerOn addr low) s VcoreInv) ∧
  (∀ s : State, s.regOpen GLB.MODULE_RESET.off = true → Completes (.moduleReset 0xD124) s VcoreInv) ∧
  (∀ (c : Instr) (s t : State), writesAtLarge c = false → CORE.V_SET ∉ writtenBy c → exec c s = .next t →
    t.get CORE.V_SET = s.get CORE.V_SET ∧ t.get CORE.V_BASE = s.get CORE.V_BASE)

/-- Touchstone's count and offset survive every reset but a loss of power (R9, R277, R431). -/
def Obligations.TimeSurvivesResets : Prop :=
  (∀ (c : Instr) (s t : State), writesAtLarge c = false → exec c s = .next t → t.frc = s.frc) ∧
  (∀ (c : Instr) (s t : State), writesAtLarge c = false → s.flag TIME.TOD_VALID = true → exec c s = .next t →
    t.flag TIME.TOD_VALID = true) ∧
  (∀ (s : State) (v : BitVec 16), Completes (.moduleReset v) s (fun t => t.frc = s.frc ∧
    t.flag TIME.TOD_VALID = s.flag TIME.TOD_VALID)) ∧
  (∀ (s : State) (v : BitVec 16), Completes (.softReset v) s (fun t => t.frc = s.frc ∧
    t.flag TIME.TOD_VALID = s.flag TIME.TOD_VALID)) ∧
  (∀ s : State, Completes .autoReset s (fun t => t.frc = s.frc ∧ t.flag TIME.TOD_VALID = s.flag TIME.TOD_VALID)) ∧
  (∀ s : State, Completes .powerRecovery s (fun t => t.frc = s.frc ∧ t.flag TIME.TOD_VALID = s.flag TIME.TOD_VALID)) ∧
  (∀ s : State, s.boot.cold = false →
    Completes .resetNRelease s (fun t => t.frc = s.frc ∧ t.flag TIME.TOD_VALID = s.flag TIME.TOD_VALID)) ∧
  (∀ (s : State) (addr : BitVec 2) (low : Bool), Completes (.powerOn addr low) s (fun t => t.frc = 0 ∧
    t.flag TIME.TOD_VALID = false ∧ t.now = 0))

/-- LOOP_EN (R42). -/
def Obligations.LoopEnableIsLocked : Prop :=
  (∀ (s : State) (v : Word), s.lcState = lcField ∨ s.lcState = lcRetired → s.get CORE.LOOP_EN = 1 →
    Completes (.regWrite .bar0 0x200020 v) s (fun t => t.get CORE.LOOP_EN = 1)) ∧
  (∀ (s : State) (v : Word), s.live = true → s.boot.soft = false → s.lcState = lcManufacture ∨ s.lcState = lcService →
    Completes (.regWrite .bar0 0x200020 v) s (fun t => t.get CORE.LOOP_EN = bits v.toNat 0 1)) ∧
  (∀ (c : Instr) (s t : State), writesAtLarge c = false → CORE.LOOP_EN ∉ writtenBy c → exec c s = .next t →
    t.get CORE.LOOP_EN = s.get CORE.LOOP_EN) ∧
  (∀ s : State, s.regOpen GLB.MODULE_RESET.off = true →
    Completes (.moduleReset 0xD124) s (fun t => t.get CORE.LOOP_EN = 1))

/-- A DMA write of a counter pair commits whole and discards what waits for the pair (R308). -/
def Obligations.PairWriteDiscardsItsDeltas : Prop :=
  ∀ (s : State) (x : Item448) (b : List Byte) (n : Nat), x.region = .counter → x.size = 16 → x.base = counterBase + 16 * n →
    b.length = 16 →
    (∀ k < 16, memByte (s.devCommit x b).dev (x.base + k) = b.getD k 0) ∧
    (∀ a, a < x.base ∨ x.base + 16 ≤ a → memByte (s.devCommit x b).dev a = memByte s.dev a) ∧
    (∀ shard < 8, ∀ d ∈ (s.devCommit x b).deltaList shard, d.index ≠ n)

/-- Commands that store only in the module store, or only in the counter and flow stores, leave the device memory below alone
(R63, R302, R307, R381). -/
def Obligations.StoresKeepToTheirRegion : Prop :=
  (∀ (c : Instr) (s t : State), storesInModuleStore c = true → exec c s = .next t →
    ∀ a, a < storeBase → memByte t.dev a = memByte s.dev a) ∧
  (∀ (c : Instr) (s t : State), storesCounters c = true → exec c s = .next t →
    ∀ a, a < counterBase → memByte t.dev a = memByte s.dev a)
end

