-- ==== Sys2Proof/Laws/Sparse.lean ====
section
/-!
SUPPORT. Laws of sparse tables and of the device memory: what is listed is found again, every other key is left alone, and
every operation of the memory keeps its canonical form.
-/
namespace Sys2Proof.Machine

/-! ### Tables -/

@[simp] theorem tabFind_tabPut_self {α : Type} (t : Tab α) (k : Nat) (v : α) : tabFind (tabPut t k v) k = some v := by
  induction t with
  | nil => simp [tabPut, tabFind]
  | cons c t ih =>
    obtain ⟨a, x⟩ := c
    simp only [tabPut]
    split
    · simp [tabFind]
    · split
      · simp [tabFind]
      · simp [tabFind, *]

theorem tabFind_tabPut_of_ne {α : Type} (t : Tab α) (k : Nat) (v : α) (l : Nat) (h : l ≠ k) :
    tabFind (tabPut t k v) l = tabFind t l := by
  induction t with
  | nil => simp [tabPut, tabFind, Ne.symm h]
  | cons c t ih =>
    obtain ⟨a, x⟩ := c
    simp only [tabPut]
    split
    · simp [tabFind, Ne.symm h]
    · split
      · subst_vars; simp [tabFind, Ne.symm h]
      · simp only [tabFind, ih]

theorem tabFind_tabPut {α : Type} (t : Tab α) (k : Nat) (v : α) (l : Nat) :
    tabFind (tabPut t k v) l = if l = k then some v else tabFind t l := by
  split
  · subst_vars; simp
  · exact tabFind_tabPut_of_ne t k v l ‹_›

@[simp] theorem tabFind_tabDel_self {α : Type} (t : Tab α) (k : Nat) : tabFind (tabDel t k) k = none := by
  induction t with
  | nil => rfl
  | cons c t ih =>
    obtain ⟨a, x⟩ := c
    simp only [tabDel]
    split
    · exact ih
    · simp [tabFind, *]

theorem tabFind_tabDel_of_ne {α : Type} (t : Tab α) (k l : Nat) (h : l ≠ k) : tabFind (tabDel t k) l = tabFind t l := by
  induction t with
  | nil => rfl
  | cons c t ih =>
    obtain ⟨a, x⟩ := c
    simp only [tabDel]
    split
    · subst_vars; simp [tabFind, Ne.symm h, ih]
    · simp only [tabFind, ih]

@[simp] theorem tabGet_tabPut_self {α : Type} (d : α) (t : Tab α) (k : Nat) (v : α) : tabGet d (tabPut t k v) k = v := by
  simp [tabGet]

theorem tabGet_tabPut_of_ne {α : Type} (d : α) (t : Tab α) (k : Nat) (v : α) (l : Nat) (h : l ≠ k) :
    tabGet d (tabPut t k v) l = tabGet d t l := by
  simp [tabGet, tabFind_tabPut_of_ne t k v l h]

@[simp] theorem tabGet_tabDel_self {α : Type} (d : α) (t : Tab α) (k : Nat) : tabGet d (tabDel t k) k = d := by
  simp [tabGet]

theorem tabGet_tabDel_of_ne {α : Type} (d : α) (t : Tab α) (k l : Nat) (h : l ≠ k) :
    tabGet d (tabDel t k) l = tabGet d t l := by
  simp [tabGet, tabFind_tabDel_of_ne t k l h]

/-! ### One byte of the device memory -/

@[simp] theorem memByte_memPut_self (m : List Host.Cell) (a : Nat) (b : Byte) : memByte (memPut m a b) a = b := by
  unfold memByte memPut
  split
  · simp [*]
  · simp

theorem memByte_memPut_of_ne (m : List Host.Cell) (a : Nat) (b : Byte) (c : Nat) (h : c ≠ a) :
    memByte (memPut m a b) c = memByte m c := by
  unfold memByte memPut
  split
  · exact tabGet_tabDel_of_ne 0 m a c h
  · exact tabGet_tabPut_of_ne 0 m a b c h

/-- A number written leaves every other byte alone. -/
theorem memByte_memWrite_of_outside (n : Nat) : ∀ (m : List Host.Cell) (a v c : Nat), (c < a ∨ a + n ≤ c) →
    memByte (memWrite m a n v) c = memByte m c := by
  induction n with
  | zero => intros; rfl
  | succ n ih =>
    intro m a v c h
    rw [memWrite, ih _ _ _ _ (by omega), memByte_memPut_of_ne _ _ _ _ (by omega)]

/-- Bytes stored leave every other byte alone. -/
theorem memByte_memStore_of_outside (l : List Byte) : ∀ (m : List Host.Cell) (a c : Nat), (c < a ∨ a + l.length ≤ c) →
    memByte (memStore m a l) c = memByte m c := by
  induction l with
  | nil => intros; rfl
  | cons b l ih =>
    intro m a c h
    simp only [List.length_cons] at h
    rw [memStore, ih _ _ _ (by omega), memByte_memPut_of_ne _ _ _ _ (by omega)]

/-- A byte after bytes have been stored: the byte stored there, or the byte that was there. -/
theorem memByte_memStore (l : List Byte) : ∀ (m : List Host.Cell) (a c : Nat),
    memByte (memStore m a l) c = if a ≤ c ∧ c < a + l.length then l.getD (c - a) 0 else memByte m c := by
  induction l with
  | nil => intro m a c; rw [if_neg (by simp only [List.length_nil]; omega)]; rfl
  | cons b l ih =>
    intro m a c
    rw [memStore, ih]
    by_cases h : c = a
    · subst h
      simp
    · rw [memByte_memPut_of_ne _ _ _ _ h]
      by_cases k : a + 1 ≤ c ∧ c < a + 1 + l.length
      · rw [if_pos k, if_pos (by simp only [List.length_cons]; omega), show c - a = c - (a + 1) + 1 by omega, List.getD_cons_succ]
      · rw [if_neg k, if_neg (by simp only [List.length_cons]; omega)]

/-- Reads depend on the bytes they cover alone. -/
theorem memRead_congr (n : Nat) : ∀ (m m' : List Host.Cell) (a : Nat),
    (∀ c, a ≤ c → c < a + n → memByte m' c = memByte m c) → memRead m' a n = memRead m a n := by
  induction n with
  | zero => intros; rfl
  | succ n ih =>
    intro m m' a h
    rw [memRead, memRead, h a (by omega) (by omega), ih m m' (a + 1) (fun c h1 h2 => h c (by omega) (by omega))]

theorem memRead_memWrite_of_apart (m : List Host.Cell) (a n v c k : Nat) (h : c + k ≤ a ∨ a + n ≤ c) :
    memRead (memWrite m a n v) c k = memRead m c k :=
  memRead_congr k _ _ _ (fun d _ _ => memByte_memWrite_of_outside n m a v d (by omega))

/-- A number reads back as written. -/
theorem memRead_memWrite_self (n : Nat) : ∀ (m : List Host.Cell) (a v : Nat),
    memRead (memWrite m a n v) a n = v % 256 ^ n := by
  induction n with
  | zero => intro m a v; simp [memRead, Nat.mod_one]
  | succ n ih =>
    intro m a v
    rw [memRead, memWrite, ih, memByte_memWrite_of_outside n _ _ _ _ (by omega), memByte_memPut_self,
      BitVec.toNat_ofNat, show 256 ^ (n + 1) = 256 * 256 ^ n from Nat.pow_succ', Nat.mod_mul]

/-! ### The canonical form -/

/-- The canonical form, as a property of neighbours and of each cell. -/
theorem memWf_iff (m : List Host.Cell) :
    memWf m = true ↔ m.Pairwise (fun x y => x.1 < y.1) ∧ ∀ c ∈ m, c.2 ≠ 0 := by
  rw [← List.isChain_iff_pairwise]
  induction m with
  | nil => simp [memWf]
  | cons c t ih =>
    cases t with
    | nil => obtain ⟨a, b⟩ := c; simp [memWf]
    | cons d t =>
      obtain ⟨a, b⟩ := c
      obtain ⟨a', b'⟩ := d
      simp only [memWf, Bool.and_eq_true, bne_iff_ne, ne_eq, decide_eq_true_eq, ih, List.isChain_cons_cons, List.mem_cons,
        forall_eq_or_imp]
      tauto

theorem mem_tabPut {α : Type} (t : Tab α) (k : Nat) (v : α) : ∀ c ∈ tabPut t k v, c = (k, v) ∨ c ∈ t := by
  induction t with
  | nil => simp [tabPut]
  | cons d t ih =>
    obtain ⟨a, x⟩ := d
    intro c hc
    simp only [tabPut] at hc
    split at hc
    · simp at hc; simp; tauto
    · split at hc
      · simp at hc; simp; tauto
      · rcases List.mem_cons.mp hc with h | h
        · simp [h]
        · rcases ih c h with h | h <;> simp [h]

theorem mem_tabDel {α : Type} (t : Tab α) (k : Nat) : ∀ c ∈ tabDel t k, c ∈ t := by
  induction t with
  | nil => simp [tabDel]
  | cons d t ih =>
    obtain ⟨a, x⟩ := d
    intro c hc
    simp only [tabDel] at hc
    split at hc
    · exact List.mem_cons_of_mem _ (ih c hc)
    · rcases List.mem_cons.mp hc with h | h
      · simp [h]
      · exact List.mem_cons_of_mem _ (ih c h)

theorem pairwise_tabPut {α : Type} (t : Tab α) (k : Nat) (v : α) (h : t.Pairwise (fun x y => x.1 < y.1)) :
    (tabPut t k v).Pairwise (fun x y => x.1 < y.1) := by
  induction t with
  | nil => simp [tabPut]
  | cons d t ih =>
    obtain ⟨a, x⟩ := d
    have ht := (List.pairwise_cons.mp h).2
    have hd := (List.pairwise_cons.mp h).1
    simp only [tabPut]
    split
    · refine List.pairwise_cons.mpr ⟨fun c hc => ?_, h⟩
      rcases List.mem_cons.mp hc with h | h
      · simpa [h] using ‹k < a›
      · exact lt_trans ‹k < a› (hd c h)
    · split
      · subst_vars; exact List.pairwise_cons.mpr ⟨hd, ht⟩
      · refine List.pairwise_cons.mpr ⟨fun c hc => ?_, ih ht⟩
        rcases mem_tabPut t k v c hc with h | h
        · simp only [h]; omega
        · exact hd c h

theorem pairwise_tabDel {α : Type} (t : Tab α) (k : Nat) (h : t.Pairwise (fun x y => x.1 < y.1)) :
    (tabDel t k).Pairwise (fun x y => x.1 < y.1) := by
  induction t with
  | nil => simp [tabDel]
  | cons d t ih =>
    obtain ⟨a, x⟩ := d
    have ht := (List.pairwise_cons.mp h).2
    have hd := (List.pairwise_cons.mp h).1
    simp only [tabDel]
    split
    · exact ih ht
    · exact List.pairwise_cons.mpr ⟨fun c hc => hd c (mem_tabDel t k c hc), ih ht⟩

/-- Writing a byte keeps the canonical form. -/
theorem memWf_memPut (m : List Host.Cell) (a : Nat) (b : Byte) (h : memWf m = true) : memWf (memPut m a b) = true := by
  rw [memWf_iff] at *
  unfold memPut
  split
  · exact ⟨pairwise_tabDel m a h.1, fun c hc => h.2 c (mem_tabDel m a c hc)⟩
  · refine ⟨pairwise_tabPut m a b h.1, fun c hc => ?_⟩
    rcases mem_tabPut m a b c hc with e | e
    · simpa [e] using ‹¬b = 0›
    · exact h.2 c e

/-- Writing a number keeps the canonical form. -/
theorem memWf_memWrite (n : Nat) : ∀ (m : List Host.Cell) (a v : Nat), memWf m = true → memWf (memWrite m a n v) = true := by
  induction n with
  | zero => exact fun _ _ _ h => h
  | succ n ih => exact fun m a v h => ih _ _ _ (memWf_memPut m a _ h)

/-- Storing bytes keeps the canonical form. -/
theorem memWf_memStore (l : List Byte) : ∀ (m : List Host.Cell) (a : Nat), memWf m = true → memWf (memStore m a l) = true := by
  induction l with
  | nil => exact fun _ _ h => h
  | cons b l ih => exact fun m a h => ih _ _ (memWf_memPut m a b h)

/-- Unlisting cells keeps the canonical form. -/
theorem memWf_filter (m : List Host.Cell) (p : Host.Cell → Bool) (h : memWf m = true) : memWf (m.filter p) = true := by
  rw [memWf_iff] at *
  exact ⟨h.1.filter p, fun c hc => h.2 c (List.mem_of_mem_filter hc)⟩

end Sys2Proof.Machine
end

