-- ==== Sys2Proof/Laws/State.lean ====
section
/-!
SUPPORT. Laws of State: what each elementary update leaves of every field, and what a register field reads after a register
field has been set.
-/
namespace Sys2Proof.Machine

/-! ### set -/

@[simp] theorem State.set_pending (s : State) (f : Fld) (v i j : Nat) : (s.set f v i j).pending = s.pending := rfl
@[simp] theorem State.set_dev (s : State) (f : Fld) (v i j : Nat) : (s.set f v i j).dev = s.dev := rfl
@[simp] theorem State.set_draws (s : State) (f : Fld) (v i j : Nat) : (s.set f v i j).draws = s.draws := rfl
@[simp] theorem State.set_readData (s : State) (f : Fld) (v i j : Nat) : (s.set f v i j).readData = s.readData := rfl
@[simp] theorem State.set_outbox (s : State) (f : Fld) (v i j : Nat) : (s.set f v i j).outbox = s.outbox := rfl
@[simp] theorem State.set_time (s : State) (f : Fld) (v i j : Nat) : (s.set f v i j).time = s.time := rfl
@[simp] theorem State.set_core (s : State) (f : Fld) (v i j : Nat) : (s.set f v i j).core = s.core := rfl
@[simp] theorem State.set_pwr (s : State) (f : Fld) (v i j : Nat) : (s.set f v i j).pwr = s.pwr := rfl
@[simp] theorem State.set_flt (s : State) (f : Fld) (v i j : Nat) : (s.set f v i j).flt = s.flt := rfl
@[simp] theorem State.set_act (s : State) (f : Fld) (v i j : Nat) : (s.set f v i j).act = s.act := rfl
@[simp] theorem State.set_anvil (s : State) (f : Fld) (v i j : Nat) : (s.set f v i j).anvil = s.anvil := rfl
@[simp] theorem State.set_host (s : State) (f : Fld) (v i j : Nat) : (s.set f v i j).host = s.host := rfl
@[simp] theorem State.set_img (s : State) (f : Fld) (v i j : Nat) : (s.set f v i j).img = s.img := rfl
@[simp] theorem State.set_mil (s : State) (f : Fld) (v i j : Nat) : (s.set f v i j).mil = s.mil := rfl
@[simp] theorem State.set_assay (s : State) (f : Fld) (v i j : Nat) : (s.set f v i j).assay = s.assay := rfl
@[simp] theorem State.set_pins (s : State) (f : Fld) (v i j : Nat) : (s.set f v i j).pins = s.pins := rfl
@[simp] theorem State.set_boot (s : State) (f : Fld) (v i j : Nat) : (s.set f v i j).boot = s.boot := rfl
@[simp] theorem State.set_buf (s : State) (f : Fld) (v i j : Nat) : (s.set f v i j).buf = s.buf := rfl
@[simp] theorem State.set_pipe (s : State) (f : Fld) (v i j : Nat) : (s.set f v i j).pipe = s.pipe := rfl
@[simp] theorem State.set_que (s : State) (f : Fld) (v i j : Nat) : (s.set f v i j).que = s.que := rfl
@[simp] theorem State.set_tele (s : State) (f : Fld) (v i j : Nat) : (s.set f v i j).tele = s.tele := rfl

/-! ### emit -/

@[simp] theorem State.emit_pending (s : State) (o : Out) : (s.emit o).pending = s.pending := rfl
@[simp] theorem State.emit_regs (s : State) (o : Out) : (s.emit o).regs = s.regs := rfl
@[simp] theorem State.emit_dev (s : State) (o : Out) : (s.emit o).dev = s.dev := rfl
@[simp] theorem State.emit_draws (s : State) (o : Out) : (s.emit o).draws = s.draws := rfl
@[simp] theorem State.emit_readData (s : State) (o : Out) : (s.emit o).readData = s.readData := rfl
@[simp] theorem State.emit_time (s : State) (o : Out) : (s.emit o).time = s.time := rfl
@[simp] theorem State.emit_core (s : State) (o : Out) : (s.emit o).core = s.core := rfl
@[simp] theorem State.emit_pwr (s : State) (o : Out) : (s.emit o).pwr = s.pwr := rfl
@[simp] theorem State.emit_flt (s : State) (o : Out) : (s.emit o).flt = s.flt := rfl
@[simp] theorem State.emit_act (s : State) (o : Out) : (s.emit o).act = s.act := rfl
@[simp] theorem State.emit_anvil (s : State) (o : Out) : (s.emit o).anvil = s.anvil := rfl
@[simp] theorem State.emit_host (s : State) (o : Out) : (s.emit o).host = s.host := rfl
@[simp] theorem State.emit_img (s : State) (o : Out) : (s.emit o).img = s.img := rfl
@[simp] theorem State.emit_mil (s : State) (o : Out) : (s.emit o).mil = s.mil := rfl
@[simp] theorem State.emit_assay (s : State) (o : Out) : (s.emit o).assay = s.assay := rfl
@[simp] theorem State.emit_pins (s : State) (o : Out) : (s.emit o).pins = s.pins := rfl
@[simp] theorem State.emit_boot (s : State) (o : Out) : (s.emit o).boot = s.boot := rfl
@[simp] theorem State.emit_buf (s : State) (o : Out) : (s.emit o).buf = s.buf := rfl
@[simp] theorem State.emit_pipe (s : State) (o : Out) : (s.emit o).pipe = s.pipe := rfl
@[simp] theorem State.emit_que (s : State) (o : Out) : (s.emit o).que = s.que := rfl
@[simp] theorem State.emit_tele (s : State) (o : Out) : (s.emit o).tele = s.tele := rfl

/-! ### draw -/

@[simp] theorem State.draw_pending (s : State)  : (s.draw).pending = s.pending := rfl
@[simp] theorem State.draw_regs (s : State)  : (s.draw).regs = s.regs := rfl
@[simp] theorem State.draw_dev (s : State)  : (s.draw).dev = s.dev := rfl
@[simp] theorem State.draw_readData (s : State)  : (s.draw).readData = s.readData := rfl
@[simp] theorem State.draw_outbox (s : State)  : (s.draw).outbox = s.outbox := rfl
@[simp] theorem State.draw_time (s : State)  : (s.draw).time = s.time := rfl
@[simp] theorem State.draw_core (s : State)  : (s.draw).core = s.core := rfl
@[simp] theorem State.draw_pwr (s : State)  : (s.draw).pwr = s.pwr := rfl
@[simp] theorem State.draw_flt (s : State)  : (s.draw).flt = s.flt := rfl
@[simp] theorem State.draw_act (s : State)  : (s.draw).act = s.act := rfl
@[simp] theorem State.draw_anvil (s : State)  : (s.draw).anvil = s.anvil := rfl
@[simp] theorem State.draw_host (s : State)  : (s.draw).host = s.host := rfl
@[simp] theorem State.draw_img (s : State)  : (s.draw).img = s.img := rfl
@[simp] theorem State.draw_mil (s : State)  : (s.draw).mil = s.mil := rfl
@[simp] theorem State.draw_assay (s : State)  : (s.draw).assay = s.assay := rfl
@[simp] theorem State.draw_pins (s : State)  : (s.draw).pins = s.pins := rfl
@[simp] theorem State.draw_boot (s : State)  : (s.draw).boot = s.boot := rfl
@[simp] theorem State.draw_buf (s : State)  : (s.draw).buf = s.buf := rfl
@[simp] theorem State.draw_pipe (s : State)  : (s.draw).pipe = s.pipe := rfl
@[simp] theorem State.draw_que (s : State)  : (s.draw).que = s.que := rfl
@[simp] theorem State.draw_tele (s : State)  : (s.draw).tele = s.tele := rfl

/-! ### fault -/

@[simp] theorem State.fault_pending (s : State) (a b c : Nat) : (s.fault a b c).pending = s.pending := rfl
@[simp] theorem State.fault_regs (s : State) (a b c : Nat) : (s.fault a b c).regs = s.regs := rfl
@[simp] theorem State.fault_dev (s : State) (a b c : Nat) : (s.fault a b c).dev = s.dev := rfl
@[simp] theorem State.fault_draws (s : State) (a b c : Nat) : (s.fault a b c).draws = s.draws := rfl
@[simp] theorem State.fault_readData (s : State) (a b c : Nat) : (s.fault a b c).readData = s.readData := rfl
@[simp] theorem State.fault_outbox (s : State) (a b c : Nat) : (s.fault a b c).outbox = s.outbox := rfl
@[simp] theorem State.fault_time (s : State) (a b c : Nat) : (s.fault a b c).time = s.time := rfl
@[simp] theorem State.fault_core (s : State) (a b c : Nat) : (s.fault a b c).core = s.core := rfl
@[simp] theorem State.fault_pwr (s : State) (a b c : Nat) : (s.fault a b c).pwr = s.pwr := rfl
@[simp] theorem State.fault_act (s : State) (a b c : Nat) : (s.fault a b c).act = s.act := rfl
@[simp] theorem State.fault_anvil (s : State) (a b c : Nat) : (s.fault a b c).anvil = s.anvil := rfl
@[simp] theorem State.fault_host (s : State) (a b c : Nat) : (s.fault a b c).host = s.host := rfl
@[simp] theorem State.fault_img (s : State) (a b c : Nat) : (s.fault a b c).img = s.img := rfl
@[simp] theorem State.fault_mil (s : State) (a b c : Nat) : (s.fault a b c).mil = s.mil := rfl
@[simp] theorem State.fault_assay (s : State) (a b c : Nat) : (s.fault a b c).assay = s.assay := rfl
@[simp] theorem State.fault_pins (s : State) (a b c : Nat) : (s.fault a b c).pins = s.pins := rfl
@[simp] theorem State.fault_boot (s : State) (a b c : Nat) : (s.fault a b c).boot = s.boot := rfl
@[simp] theorem State.fault_buf (s : State) (a b c : Nat) : (s.fault a b c).buf = s.buf := rfl
@[simp] theorem State.fault_pipe (s : State) (a b c : Nat) : (s.fault a b c).pipe = s.pipe := rfl
@[simp] theorem State.fault_que (s : State) (a b c : Nat) : (s.fault a b c).que = s.que := rfl
@[simp] theorem State.fault_tele (s : State) (a b c : Nat) : (s.fault a b c).tele = s.tele := rfl

/-! ### memZero -/

@[simp] theorem State.memZero_pending (s : State) (a b : Nat) : (s.memZero a b).pending = s.pending := rfl
@[simp] theorem State.memZero_regs (s : State) (a b : Nat) : (s.memZero a b).regs = s.regs := rfl
@[simp] theorem State.memZero_draws (s : State) (a b : Nat) : (s.memZero a b).draws = s.draws := rfl
@[simp] theorem State.memZero_readData (s : State) (a b : Nat) : (s.memZero a b).readData = s.readData := rfl
@[simp] theorem State.memZero_outbox (s : State) (a b : Nat) : (s.memZero a b).outbox = s.outbox := rfl
@[simp] theorem State.memZero_time (s : State) (a b : Nat) : (s.memZero a b).time = s.time := rfl
@[simp] theorem State.memZero_core (s : State) (a b : Nat) : (s.memZero a b).core = s.core := rfl
@[simp] theorem State.memZero_pwr (s : State) (a b : Nat) : (s.memZero a b).pwr = s.pwr := rfl
@[simp] theorem State.memZero_flt (s : State) (a b : Nat) : (s.memZero a b).flt = s.flt := rfl
@[simp] theorem State.memZero_act (s : State) (a b : Nat) : (s.memZero a b).act = s.act := rfl
@[simp] theorem State.memZero_anvil (s : State) (a b : Nat) : (s.memZero a b).anvil = s.anvil := rfl
@[simp] theorem State.memZero_host (s : State) (a b : Nat) : (s.memZero a b).host = s.host := rfl
@[simp] theorem State.memZero_img (s : State) (a b : Nat) : (s.memZero a b).img = s.img := rfl
@[simp] theorem State.memZero_mil (s : State) (a b : Nat) : (s.memZero a b).mil = s.mil := rfl
@[simp] theorem State.memZero_assay (s : State) (a b : Nat) : (s.memZero a b).assay = s.assay := rfl
@[simp] theorem State.memZero_pins (s : State) (a b : Nat) : (s.memZero a b).pins = s.pins := rfl
@[simp] theorem State.memZero_boot (s : State) (a b : Nat) : (s.memZero a b).boot = s.boot := rfl
@[simp] theorem State.memZero_buf (s : State) (a b : Nat) : (s.memZero a b).buf = s.buf := rfl
@[simp] theorem State.memZero_pipe (s : State) (a b : Nat) : (s.memZero a b).pipe = s.pipe := rfl
@[simp] theorem State.memZero_que (s : State) (a b : Nat) : (s.memZero a b).que = s.que := rfl
@[simp] theorem State.memZero_tele (s : State) (a b : Nat) : (s.memZero a b).tele = s.tele := rfl

/-! ### injTake -/

@[simp] theorem State.injTake_pending (s : State) (a n : Nat) : (s.injTake a n).pending = s.pending := by unfold State.injTake; split <;> rfl
@[simp] theorem State.injTake_regs (s : State) (a n : Nat) : (s.injTake a n).regs = s.regs := by unfold State.injTake; split <;> rfl
@[simp] theorem State.injTake_dev (s : State) (a n : Nat) : (s.injTake a n).dev = s.dev := by unfold State.injTake; split <;> rfl
@[simp] theorem State.injTake_draws (s : State) (a n : Nat) : (s.injTake a n).draws = s.draws := by unfold State.injTake; split <;> rfl
@[simp] theorem State.injTake_readData (s : State) (a n : Nat) : (s.injTake a n).readData = s.readData := by unfold State.injTake; split <;> rfl
@[simp] theorem State.injTake_outbox (s : State) (a n : Nat) : (s.injTake a n).outbox = s.outbox := by unfold State.injTake; split <;> rfl
@[simp] theorem State.injTake_time (s : State) (a n : Nat) : (s.injTake a n).time = s.time := by unfold State.injTake; split <;> rfl
@[simp] theorem State.injTake_core (s : State) (a n : Nat) : (s.injTake a n).core = s.core := by unfold State.injTake; split <;> rfl
@[simp] theorem State.injTake_pwr (s : State) (a n : Nat) : (s.injTake a n).pwr = s.pwr := by unfold State.injTake; split <;> rfl
@[simp] theorem State.injTake_act (s : State) (a n : Nat) : (s.injTake a n).act = s.act := by unfold State.injTake; split <;> rfl
@[simp] theorem State.injTake_anvil (s : State) (a n : Nat) : (s.injTake a n).anvil = s.anvil := by unfold State.injTake; split <;> rfl
@[simp] theorem State.injTake_host (s : State) (a n : Nat) : (s.injTake a n).host = s.host := by unfold State.injTake; split <;> rfl
@[simp] theorem State.injTake_img (s : State) (a n : Nat) : (s.injTake a n).img = s.img := by unfold State.injTake; split <;> rfl
@[simp] theorem State.injTake_mil (s : State) (a n : Nat) : (s.injTake a n).mil = s.mil := by unfold State.injTake; split <;> rfl
@[simp] theorem State.injTake_assay (s : State) (a n : Nat) : (s.injTake a n).assay = s.assay := by unfold State.injTake; split <;> rfl
@[simp] theorem State.injTake_pins (s : State) (a n : Nat) : (s.injTake a n).pins = s.pins := by unfold State.injTake; split <;> rfl
@[simp] theorem State.injTake_boot (s : State) (a n : Nat) : (s.injTake a n).boot = s.boot := by unfold State.injTake; split <;> rfl
@[simp] theorem State.injTake_buf (s : State) (a n : Nat) : (s.injTake a n).buf = s.buf := by unfold State.injTake; split <;> rfl
@[simp] theorem State.injTake_pipe (s : State) (a n : Nat) : (s.injTake a n).pipe = s.pipe := by unfold State.injTake; split <;> rfl
@[simp] theorem State.injTake_que (s : State) (a n : Nat) : (s.injTake a n).que = s.que := by unfold State.injTake; split <;> rfl
@[simp] theorem State.injTake_tele (s : State) (a n : Nat) : (s.injTake a n).tele = s.tele := by unfold State.injTake; split <;> rfl

/-! ### injClear -/

@[simp] theorem State.injClear_pending (s : State) (a n : Nat) : (s.injClear a n).pending = s.pending := rfl
@[simp] theorem State.injClear_regs (s : State) (a n : Nat) : (s.injClear a n).regs = s.regs := rfl
@[simp] theorem State.injClear_dev (s : State) (a n : Nat) : (s.injClear a n).dev = s.dev := rfl
@[simp] theorem State.injClear_draws (s : State) (a n : Nat) : (s.injClear a n).draws = s.draws := rfl
@[simp] theorem State.injClear_readData (s : State) (a n : Nat) : (s.injClear a n).readData = s.readData := rfl
@[simp] theorem State.injClear_outbox (s : State) (a n : Nat) : (s.injClear a n).outbox = s.outbox := rfl
@[simp] theorem State.injClear_time (s : State) (a n : Nat) : (s.injClear a n).time = s.time := rfl
@[simp] theorem State.injClear_core (s : State) (a n : Nat) : (s.injClear a n).core = s.core := rfl
@[simp] theorem State.injClear_pwr (s : State) (a n : Nat) : (s.injClear a n).pwr = s.pwr := rfl
@[simp] theorem State.injClear_act (s : State) (a n : Nat) : (s.injClear a n).act = s.act := rfl
@[simp] theorem State.injClear_anvil (s : State) (a n : Nat) : (s.injClear a n).anvil = s.anvil := rfl
@[simp] theorem State.injClear_host (s : State) (a n : Nat) : (s.injClear a n).host = s.host := rfl
@[simp] theorem State.injClear_img (s : State) (a n : Nat) : (s.injClear a n).img = s.img := rfl
@[simp] theorem State.injClear_mil (s : State) (a n : Nat) : (s.injClear a n).mil = s.mil := rfl
@[simp] theorem State.injClear_assay (s : State) (a n : Nat) : (s.injClear a n).assay = s.assay := rfl
@[simp] theorem State.injClear_pins (s : State) (a n : Nat) : (s.injClear a n).pins = s.pins := rfl
@[simp] theorem State.injClear_boot (s : State) (a n : Nat) : (s.injClear a n).boot = s.boot := rfl
@[simp] theorem State.injClear_buf (s : State) (a n : Nat) : (s.injClear a n).buf = s.buf := rfl
@[simp] theorem State.injClear_pipe (s : State) (a n : Nat) : (s.injClear a n).pipe = s.pipe := rfl
@[simp] theorem State.injClear_que (s : State) (a n : Nat) : (s.injClear a n).que = s.que := rfl
@[simp] theorem State.injClear_tele (s : State) (a n : Nat) : (s.injClear a n).tele = s.tele := rfl

/-! ### memSet -/

@[simp] theorem State.memSet_pending (s : State) (a n v : Nat) : (s.memSet a n v).pending = s.pending := by unfold State.memSet; simp
@[simp] theorem State.memSet_regs (s : State) (a n v : Nat) : (s.memSet a n v).regs = s.regs := by unfold State.memSet; simp
@[simp] theorem State.memSet_draws (s : State) (a n v : Nat) : (s.memSet a n v).draws = s.draws := by unfold State.memSet; simp
@[simp] theorem State.memSet_readData (s : State) (a n v : Nat) : (s.memSet a n v).readData = s.readData := by unfold State.memSet; simp
@[simp] theorem State.memSet_outbox (s : State) (a n v : Nat) : (s.memSet a n v).outbox = s.outbox := by unfold State.memSet; simp
@[simp] theorem State.memSet_time (s : State) (a n v : Nat) : (s.memSet a n v).time = s.time := by unfold State.memSet; simp
@[simp] theorem State.memSet_core (s : State) (a n v : Nat) : (s.memSet a n v).core = s.core := by unfold State.memSet; simp
@[simp] theorem State.memSet_pwr (s : State) (a n v : Nat) : (s.memSet a n v).pwr = s.pwr := by unfold State.memSet; simp
@[simp] theorem State.memSet_act (s : State) (a n v : Nat) : (s.memSet a n v).act = s.act := by unfold State.memSet; simp
@[simp] theorem State.memSet_anvil (s : State) (a n v : Nat) : (s.memSet a n v).anvil = s.anvil := by unfold State.memSet; simp
@[simp] theorem State.memSet_host (s : State) (a n v : Nat) : (s.memSet a n v).host = s.host := by unfold State.memSet; simp
@[simp] theorem State.memSet_img (s : State) (a n v : Nat) : (s.memSet a n v).img = s.img := by unfold State.memSet; simp
@[simp] theorem State.memSet_mil (s : State) (a n v : Nat) : (s.memSet a n v).mil = s.mil := by unfold State.memSet; simp
@[simp] theorem State.memSet_assay (s : State) (a n v : Nat) : (s.memSet a n v).assay = s.assay := by unfold State.memSet; simp
@[simp] theorem State.memSet_pins (s : State) (a n v : Nat) : (s.memSet a n v).pins = s.pins := by unfold State.memSet; simp
@[simp] theorem State.memSet_boot (s : State) (a n v : Nat) : (s.memSet a n v).boot = s.boot := by unfold State.memSet; simp
@[simp] theorem State.memSet_buf (s : State) (a n v : Nat) : (s.memSet a n v).buf = s.buf := by unfold State.memSet; simp
@[simp] theorem State.memSet_pipe (s : State) (a n v : Nat) : (s.memSet a n v).pipe = s.pipe := by unfold State.memSet; simp
@[simp] theorem State.memSet_que (s : State) (a n v : Nat) : (s.memSet a n v).que = s.que := by unfold State.memSet; simp
@[simp] theorem State.memSet_tele (s : State) (a n v : Nat) : (s.memSet a n v).tele = s.tele := by unfold State.memSet; simp

/-! ### memStore -/

@[simp] theorem State.memStore_pending (s : State) (a : Nat) (l : List Byte) : (s.memStore a l).pending = s.pending := by unfold State.memStore; simp
@[simp] theorem State.memStore_regs (s : State) (a : Nat) (l : List Byte) : (s.memStore a l).regs = s.regs := by unfold State.memStore; simp
@[simp] theorem State.memStore_draws (s : State) (a : Nat) (l : List Byte) : (s.memStore a l).draws = s.draws := by unfold State.memStore; simp
@[simp] theorem State.memStore_readData (s : State) (a : Nat) (l : List Byte) : (s.memStore a l).readData = s.readData := by unfold State.memStore; simp
@[simp] theorem State.memStore_outbox (s : State) (a : Nat) (l : List Byte) : (s.memStore a l).outbox = s.outbox := by unfold State.memStore; simp
@[simp] theorem State.memStore_time (s : State) (a : Nat) (l : List Byte) : (s.memStore a l).time = s.time := by unfold State.memStore; simp
@[simp] theorem State.memStore_core (s : State) (a : Nat) (l : List Byte) : (s.memStore a l).core = s.core := by unfold State.memStore; simp
@[simp] theorem State.memStore_pwr (s : State) (a : Nat) (l : List Byte) : (s.memStore a l).pwr = s.pwr := by unfold State.memStore; simp
@[simp] theorem State.memStore_act (s : State) (a : Nat) (l : List Byte) : (s.memStore a l).act = s.act := by unfold State.memStore; simp
@[simp] theorem State.memStore_anvil (s : State) (a : Nat) (l : List Byte) : (s.memStore a l).anvil = s.anvil := by unfold State.memStore; simp
@[simp] theorem State.memStore_host (s : State) (a : Nat) (l : List Byte) : (s.memStore a l).host = s.host := by unfold State.memStore; simp
@[simp] theorem State.memStore_img (s : State) (a : Nat) (l : List Byte) : (s.memStore a l).img = s.img := by unfold State.memStore; simp
@[simp] theorem State.memStore_mil (s : State) (a : Nat) (l : List Byte) : (s.memStore a l).mil = s.mil := by unfold State.memStore; simp
@[simp] theorem State.memStore_assay (s : State) (a : Nat) (l : List Byte) : (s.memStore a l).assay = s.assay := by unfold State.memStore; simp
@[simp] theorem State.memStore_pins (s : State) (a : Nat) (l : List Byte) : (s.memStore a l).pins = s.pins := by unfold State.memStore; simp
@[simp] theorem State.memStore_boot (s : State) (a : Nat) (l : List Byte) : (s.memStore a l).boot = s.boot := by unfold State.memStore; simp
@[simp] theorem State.memStore_buf (s : State) (a : Nat) (l : List Byte) : (s.memStore a l).buf = s.buf := by unfold State.memStore; simp
@[simp] theorem State.memStore_pipe (s : State) (a : Nat) (l : List Byte) : (s.memStore a l).pipe = s.pipe := by unfold State.memStore; simp
@[simp] theorem State.memStore_que (s : State) (a : Nat) (l : List Byte) : (s.memStore a l).que = s.que := by unfold State.memStore; simp
@[simp] theorem State.memStore_tele (s : State) (a : Nat) (l : List Byte) : (s.memStore a l).tele = s.tele := by unfold State.memStore; simp


/-! ### Registers -/

/-- Setting a register field changes nothing but what it holds. -/
theorem State.set_eq (s : State) (f : Fld) (v i j : Nat) :
    s.set f v i j = { s with regs := tabPut s.regs (f.key i j) (v % 2 ^ f.wd) } := rfl

@[simp] theorem State.get_set_self (s : State) (f : Fld) (v i j : Nat) : (s.set f v i j).get f i j = v % 2 ^ f.wd := by
  simp [State.get, State.set]

theorem State.get_set_of_ne (s : State) (f g : Fld) (v i j k l : Nat) (h : g.key k l ≠ f.key i j) :
    (s.set f v i j).get g k l = s.get g k l := by
  simp [State.get, State.set, tabFind_tabPut_of_ne _ _ _ _ h]

/-- A register field reads from the register file alone. -/
theorem State.get_congr (s t : State) (f : Fld) (i j : Nat) (h : t.regs = s.regs) : t.get f i j = s.get f i j := by
  simp [State.get, h]

theorem State.flag_congr (s t : State) (f : Fld) (i j : Nat) (h : t.regs = s.regs) : t.flag f i j = s.flag f i j := by
  simp [State.flag, State.get_congr s t f i j h]

@[simp] theorem State.flag_setB_self (s : State) (f : Fld) (b : Bool) (i j : Nat) (h : f.wd ≠ 0) :
    (s.setB f b i j).flag f i j = b := by
  have h2 : 1 < 2 ^ f.wd := Nat.one_lt_two_pow h
  cases b <;> simp [State.flag, State.setB, b2n, Nat.mod_eq_of_lt h2]

theorem State.flag_set_of_ne (s : State) (f g : Fld) (v i j k l : Nat) (h : g.key k l ≠ f.key i j) :
    (s.set f v i j).flag g k l = s.flag g k l := by
  simp [State.flag, State.get_set_of_ne s f g v i j k l h]

/-! ### Conditions -/

@[simp] theorem State.when_true (s : State) (f : State → State) : s.when true f = f s := rfl
@[simp] theorem State.when_false (s : State) (f : State → State) : s.when false f = s := rfl

/-- What holds of a state and of what a change makes of it holds after the change under a condition. -/
theorem State.when_cases {P : State → Prop} (s : State) (c : Bool) (f : State → State) (h0 : P s) (h1 : c = true → P (f s)) :
    P (s.when c f) := by
  cases c
  · exact h0
  · exact h1 rfl

/-! ### The device memory -/

@[simp] theorem State.memSet_dev (s : State) (a n v : Nat) : (s.memSet a n v).dev = memWrite s.dev a n v := by
  simp [State.memSet]

@[simp] theorem State.memStore_dev (s : State) (a : Nat) (l : List Byte) : (s.memStore a l).dev = Machine.memStore s.dev a l := by
  simp [State.memStore]

/-- A number stored reads back. -/
theorem State.mem_memSet_self (s : State) (a n v : Nat) : (s.memSet a n v).mem a n = v % 256 ^ n := by
  simp [State.mem, memRead_memWrite_self]

/-- A number stored leaves every number apart from it alone. -/
theorem State.mem_memSet_of_apart (s : State) (a n v c k : Nat) (h : c + k ≤ a ∨ a + n ≤ c) :
    (s.memSet a n v).mem c k = s.mem c k := by
  simp [State.mem, memRead_memWrite_of_apart _ _ _ _ _ _ h]

/-! ### Repetition -/

/-- What every step of a fold keeps, the fold keeps. -/
theorem foldl_keeps {α β : Type} (P : α → Prop) (f : α → β → α) (h : ∀ x b, P x → P (f x b)) :
    ∀ (l : List β) (x : α), P x → P (l.foldl f x) := by
  intro l
  induction l with
  | nil => exact fun _ hx => hx
  | cons b l ih => exact fun x hx => ih _ (h x b hx)

theorem upTo_keeps {α : Type} (P : α → Prop) (n : Nat) (f : Nat → α → α) (x : α) (h : ∀ k y, P y → P (f k y)) (hx : P x) :
    P (upTo n f x) := foldl_keeps P _ (fun y k hy => h k y hy) _ _ hx

theorem iterate_keeps {α : Type} (P : α → Prop) (f : α → α) (h : ∀ y, P y → P (f y)) :
    ∀ (n : Nat) (x : α), P x → P (iterate f n x) := by
  intro n
  induction n with
  | zero => exact fun _ hx => hx
  | succ n ih => exact fun x hx => ih _ (h x hx)

end Sys2Proof.Machine
end

