-- ==== Sys2Proof/Laws/Get.lean ====
section
/-!
SUPPORT. What a register field reads after the small operations: setting another field, raising an event, reporting a fault.
-/
namespace Sys2Proof.Machine
open Reg

/-- What a field reads after a field has been set. -/
theorem State.get_set (s : State) (f g : Fld) (v i j k l : Nat) :
    (s.set f v i j).get g k l = if g.key k l = f.key i j then v % 2 ^ f.wd else s.get g k l := by
  unfold State.get State.set
  rw [tabFind_tabPut]
  split <;> rfl

@[simp] theorem State.get_emit (s : State) (o : Out) (g : Fld) (k l : Nat) : (s.emit o).get g k l = s.get g k l := rfl
@[simp] theorem State.get_draw (s : State) (g : Fld) (k l : Nat) : s.draw.get g k l = s.get g k l := rfl
@[simp] theorem State.get_fault (s : State) (a b c : Nat) (g : Fld) (k l : Nat) : (s.fault a b c).get g k l = s.get g k l := rfl
@[simp] theorem State.get_memSet (s : State) (a n v : Nat) (g : Fld) (k l : Nat) : (s.memSet a n v).get g k l = s.get g k l :=
  State.get_congr _ _ _ _ _ (by simp)
@[simp] theorem State.get_memStore (s : State) (a : Nat) (b : List Byte) (g : Fld) (k l : Nat) :
    (s.memStore a b).get g k l = s.get g k l := State.get_congr _ _ _ _ _ (by simp)

/-- Setting a one-bit field, seen at another field. -/
theorem State.get_setB_of_ne {s : State} {f g : Fld} {b : Bool} {i j k l : Nat} (h : g.key k l ≠ f.key i j) :
    (s.setB f b i j).get g k l = s.get g k l := State.get_set_of_ne s f g _ i j k l h

theorem State.get_inc_of_ne {s : State} {f g : Fld} {i j k l : Nat} (h : g.key k l ≠ f.key i j) :
    (s.inc f i j).get g k l = s.get g k l := State.get_set_of_ne s f g _ i j k l h

theorem State.get_add_of_ne {s : State} {f g : Fld} {n i j k l : Nat} (h : g.key k l ≠ f.key i j) :
    (s.add f n i j).get g k l = s.get g k l := State.get_set_of_ne s f g _ i j k l h

/-- A counter that counts one reads one more, and stops at its width. -/
theorem State.get_inc_self (s : State) (f : Fld) (i j : Nat) :
    (s.inc f i j).get f i j = satTo (2 ^ f.wd - 1) (s.get f i j + 1) := by
  unfold State.inc State.add
  rw [State.get_set_self]
  apply Nat.mod_eq_of_lt
  have h := Nat.two_pow_pos f.wd
  unfold satTo
  split <;> omega

/-- What a condition under which nothing else changes a field leaves of it. -/
theorem State.get_when_of {s : State} {c : Bool} {f : State → State} {g : Fld} {k l : Nat}
    (h : (f s).get g k l = s.get g k l) : (s.when c f).get g k l = s.get g k l := by
  cases c
  · rfl
  · exact h

@[simp] theorem State.get_msixSend (s : State) (v : Nat) (g : Fld) (k l : Nat) : (s.msixSend v).get g k l = s.get g k l := by
  unfold State.msixSend
  split <;> rfl

theorem State.get_glbRaise_of_ne {s : State} {b : Nat} {g : Fld} {k l : Nat} (h : g.key k l ≠ GLB.PENDING.key 0 0) :
    (s.glbRaise b).get g k l = s.get g k l := by
  unfold State.glbRaise State.glbPend
  split
  · split
    · rfl
    · rw [State.get_msixSend, State.get_setB_of_ne h]
  · rfl

/-- Raising an event changes the event's own bit and PENDING, and no other field. -/
theorem State.get_event_of_ne {s : State} {f g : Fld} {i b k l : Nat} {en : Bool} (h : g.key k l ≠ f.key i 0)
    (hp : g.key k l ≠ GLB.PENDING.key 0 0) : (s.event f i en b).get g k l = s.get g k l := by
  unfold State.event
  split
  · rfl
  · exact (State.get_when_of (f := fun s => s.glbRaise b) (State.get_glbRaise_of_ne hp)).trans (State.get_setB_of_ne h)

/-- An event's bit reads 1 after the event. -/
theorem State.flag_event_self {s : State} {f : Fld} {i b : Nat} {en : Bool} (h : f.wd ≠ 0)
    (hp : f.key i 0 ≠ GLB.PENDING.key 0 0) : (s.event f i en b).flag f i = true := by
  unfold State.event
  split
  · assumption
  · unfold State.flag
    rw [State.get_when_of (f := fun s => s.glbRaise b) (State.get_glbRaise_of_ne hp)]
    exact State.flag_setB_self s f true i 0 h

theorem State.get_pwrEvent_of_ne {s : State} {f g : Fld} {k l : Nat} (h : g.key k l ≠ f.key 0 0)
    (hp : g.key k l ≠ GLB.PENDING.key 0 0) : (s.pwrEvent f).get g k l = s.get g k l := State.get_event_of_ne h hp

/-- Recomputing the target changes LIMIT, its event, PENDING, TGT_OP and IN_TRANSITION, and no other field. -/
theorem State.get_retarget_of_ne {s : State} {g : Fld} {k l : Nat} (h1 : g.key k l ≠ PWR.LIMIT.key 0 0)
    (h2 : g.key k l ≠ PWR.LIMIT_EVT.key 0 0) (h3 : g.key k l ≠ GLB.PENDING.key 0 0) (h4 : g.key k l ≠ CORE.TGT_OP.key 0 0)
    (h5 : g.key k l ≠ CORE.IN_TRANSITION.key 0 0) : s.retarget.get g k l = s.get g k l := by
  have h : ∀ (y : State) n, (y.moveTo n).get g k l = y.get g k l := by
    intro y n
    unfold State.moveTo
    split
    · rfl
    · exact (State.get_setB_of_ne h5).trans (State.get_set_of_ne _ _ _ _ _ _ _ _ h4)
  unfold State.retarget
  dsimp only
  rw [h]
  exact (State.get_when_of (f := fun s => s.pwrEvent PWR.LIMIT_EVT) (State.get_pwrEvent_of_ne h2 h3)).trans
    (State.get_set_of_ne _ _ _ _ _ _ _ _ h1)

/-- Recomputing the row changes V_BASE, TRIM and V_SET, and no other field. -/
theorem State.get_refreshRow_of_ne {s : State} {g : Fld} {k l : Nat} (h1 : g.key k l ≠ CORE.V_BASE.key 0 0)
    (h2 : g.key k l ≠ CORE.TRIM.key 0 0) (h3 : g.key k l ≠ CORE.V_SET.key 0 0) :
    s.refreshRow.get g k l = s.get g k l := by
  unfold State.refreshRow State.setTrim
  dsimp only
  rw [State.get_set_of_ne _ _ _ _ _ _ _ _ h3, State.get_set_of_ne _ _ _ _ _ _ _ _ h2]
  exact State.get_set_of_ne _ _ _ _ _ _ _ _ h1

/-- Putting a line into the module store changes MS_WRITES, and no other field. -/
theorem State.get_storePut_of_ne {s : State} {off : Nat} {line : List Byte} {g : Fld} {k l : Nat}
    (h : g.key k l ≠ ANVL.MS_WRITES.key 0 0) : (s.storePut off line).get g k l = s.get g k l :=
  (State.get_inc_of_ne h).trans (State.get_memStore _ _ _ _ _ _)

/-- Remapping a line of the module store changes MS_LOW, and no other field. -/
theorem State.get_storeRemap_of_ne {s : State} {off : Nat} {g : Fld} {k l : Nat} (h : g.key k l ≠ ANVL.MS_LOW.key 0 0) :
    (s.storeRemap off).get g k l = s.get g k l := by
  unfold State.storeRemap
  exact State.get_when_of (f := fun s => (s.setB ANVL.MS_LOW true).fault srcStoreLow) (State.get_setB_of_ne h)

/-- Reading a line back until it is right changes MS_WRITES and MS_LOW, and no other field. -/
theorem State.get_storeSettle_of_ne {off : Nat} {line : List Byte} {g : Fld} {k l : Nat}
    (h : g.key k l ≠ ANVL.MS_WRITES.key 0 0) (h2 : g.key k l ≠ ANVL.MS_LOW.key 0 0) (n : Nat) (s : State) :
    (State.storeSettle n s off line).1.get g k l = s.get g k l := by
  induction n generalizing s with
  | zero => rfl
  | succ n ih =>
    unfold State.storeSettle
    repeat' split
    · rfl
    · rfl
    · exact (ih _).trans ((State.get_storePut_of_ne h).trans (State.get_storeRemap_of_ne h2))

/-- Writing a line of the module store changes MS_WRITES and MS_LOW, and no other field. -/
theorem State.get_storeWrite_of_ne {s : State} {off : Nat} {line : List Byte} {ok : Bool} {g : Fld} {k l : Nat}
    (h : g.key k l ≠ ANVL.MS_WRITES.key 0 0) (h2 : g.key k l ≠ ANVL.MS_LOW.key 0 0) :
    (s.storeWrite off line ok).1.get g k l = s.get g k l := by
  unfold State.storeWrite
  dsimp only
  split
  · exact (State.get_storeSettle_of_ne h h2 _ _).trans (State.get_storePut_of_ne h)
  · split
    · exact State.get_storePut_of_ne h
    · exact (State.get_storeSettle_of_ne h h2 _ _).trans ((State.get_storePut_of_ne h).trans
        ((State.get_storeRemap_of_ne h2).trans (State.get_storePut_of_ne h)))

/-- Writing a journal record changes MS_WRITES and MS_LOW, and no other field. -/
theorem State.get_journalWrite_of_ne {s : State} {kind : Nat} {payload : List Byte} {ok : Bool} {g : Fld} {k l : Nat}
    (h : g.key k l ≠ ANVL.MS_WRITES.key 0 0) (h2 : g.key k l ≠ ANVL.MS_LOW.key 0 0) :
    (s.journalWrite kind payload ok).get g k l = s.get g k l := by
  unfold State.journalWrite
  dsimp only
  repeat' split
  all_goals first
    | exact State.get_storeWrite_of_ne h h2
    | exact (State.get_storePut_of_ne h).trans (State.get_storeWrite_of_ne h h2)

/-- Saturation is a minimum. -/
theorem satTo_eq (m v : Nat) : satTo m v = min m v := by unfold satTo; split <;> omega

/-- A field reads the same where the registers are the same. -/
theorem State.get_congr_regs {s t : State} (h : t.regs = s.regs) (f : Fld) (i j : Nat) : t.get f i j = s.get f i j := by
  simp [State.get, h]

/-- A host write that reaches its block acts. -/
theorem viaHost_open {s : State} {f : Fld} {g : State → State} (h : s.regOpen f.off = true) : s.viaHost f g = g s := by
  simp [State.viaHost, h]

/-- A bit that has been set reads 1. -/
theorem bit_bitSet_self (n k : Nat) : bit (bitSet n k) k = true := by
  unfold bit bitSet putBits
  have hr : n % 2 ^ k < 2 ^ k := Nat.mod_lt _ (by positivity)
  have e : n = 2 ^ k * (2 * (n / 2 ^ k / 2) + n / 2 ^ k % 2) + n % 2 ^ k := by
    rw [Nat.div_add_mod (n / 2 ^ k) 2, Nat.div_add_mod]
  have e2 : n - 2 ^ k * (n / 2 ^ k % 2 ^ 1) + 2 ^ k * (1 % 2 ^ 1) = 2 ^ k * (2 * (n / 2 ^ k / 2) + 1) + n % 2 ^ k := by
    rw [Nat.mul_add] at e ⊢
    norm_num
    omega
  rw [e2, Nat.testBit_two_pow_mul_add _ hr, if_neg (by omega), Nat.sub_self, Nat.testBit_zero]
  simp

/-- Counting events at a unit changes fields of Loupe and of the sampling counters, and GLB PENDING, and no other field. -/
theorem State.get_tally_of_ne {s : State} {u code n : Nat} {g : Fld} {k l : Nat}
    (h : g.key k l < 0x6002000 ∨ 0x60A4000 ≤ g.key k l) (hp : g.key k l ≠ GLB.PENDING.key 0 0) :
    (s.tally u code n).get g k l = s.get g k l := by
  have h1 : ∀ (y : State) i, i < 8 → u < 72 → (y.loupeAdd u i n).get g k l = y.get g k l := by
    intro y i hi hu
    have e : g.key k l ≠ TELE.U_CNT.key u i := by simp only [Fld.key, TELE.U_CNT] at h ⊢; omega
    have e2 : g.key k l ≠ TELE.U_WRAP.key u 0 := by simp only [Fld.key, TELE.U_WRAP] at h ⊢; omega
    unfold State.loupeAdd
    exact (State.get_when_of (State.get_set_of_ne _ _ _ _ _ _ _ _ e2)).trans (State.get_set_of_ne _ _ _ _ _ _ _ _ e)
  have h2 : ∀ (y : State) i, i < 8 → (y.sampleAdd i n).get g k l = y.get g k l := by
    intro y i hi
    have e : g.key k l ≠ TELE.S_VALUE.key i 0 := by simp only [Fld.key, TELE.S_VALUE] at h ⊢; omega
    have e2 : g.key k l ≠ TELE.S_OVF.key i 0 := by simp only [Fld.key, TELE.S_OVF] at h ⊢; omega
    have e3 : g.key k l ≠ TELE.S_LOST.key i 0 := by simp only [Fld.key, TELE.S_LOST] at h ⊢; omega
    unfold State.sampleAdd
    dsimp only
    split
    · exact State.get_set_of_ne _ _ _ _ _ _ _ _ e
    · split
      · exact (State.get_add_of_ne e3).trans (State.get_set_of_ne _ _ _ _ _ _ _ _ e)
      · exact (State.get_add_of_ne e3).trans ((State.get_event_of_ne e2 hp).trans (State.get_set_of_ne _ _ _ _ _ _ _ _ e))
  have fold : ∀ (f : Nat → State → State), (∀ i y, i < 8 → (f i y).get g k l = y.get g k l) → ∀ y, (upTo 8 f y).get g k l = y.get g k l := by
    intro f hf y
    have : ∀ (is : List Nat), (∀ i ∈ is, i < 8) → ∀ y, (is.foldl (fun a i => f i a) y).get g k l = y.get g k l := by
      intro is
      induction is with
      | nil => intros; rfl
      | cons i is ih => exact fun hi y => (ih (fun j hj => hi j (by simp [hj])) _).trans (hf i y (hi i (by simp)))
    exact this _ (fun i hi => by simpa using hi) y
  have a : ∀ y : State, (upTo 8 (fun k s => if s.flag TELE.S_EN k && s.get TELE.S_UNIT k == u && s.get TELE.S_EVENT k == code then s.sampleAdd k n else s) y).get g k l = y.get g k l := by
    refine fold _ ?_
    intro i y hi
    split
    · exact h2 y i hi
    · rfl
  have act : (s.activityAdd code n).get g k l = s.get g k l := by
    unfold State.activityAdd
    repeat' split
    all_goals rfl
  unfold State.tally
  refine (a _).trans (Eq.trans ?_ act)
  split
  · rename_i hc
    have hu : u < 72 := by simp only [Bool.and_eq_true, decide_eq_true_eq] at hc; exact hc.2
    refine fold _ ?_ _
    intro i y hi
    split
    · exact h1 y i hi hu
    · rfl
  · rfl

end Sys2Proof.Machine
end

