-- ==== Sys2Proof/Laws/Keeps.lean ====
section
/-!
SUPPORT. What every command keeps, as one relation between a state and what a command makes of it: the queue stays, the device
memory keeps its canonical form, the fuses only grow, and outputs are only appended. The files beside this one hold one lemma
for each operation of the machine.
-/
namespace Sys2Proof.Machine
set_option Elab.async false

theorem FusesGrow.refl (a : MilSt) : FusesGrow a a :=
  ⟨le_refl _, fun _ _ h => h, fun _ h => h, le_refl _, rfl, fun h => h⟩

theorem FusesGrow.trans {a b c : MilSt} (h : FusesGrow a b) (k : FusesGrow b c) : FusesGrow a c :=
  ⟨le_trans h.life k.life, fun i x e => k.slots i x (h.slots i x e), fun i e => k.revoked i (h.revoked i e),
    le_trans h.floor k.floor, k.serial.trans h.serial, fun e => k.identity (h.identity e)⟩

/-- What every operation keeps between `s` and `t`. -/
structure Keeps (s t : State) : Prop where
  pending : t.pending = s.pending
  mem : MemInv s → MemInv t
  fuses : FusesGrow s.mil t.mil
  outbox : s.outbox <+: t.outbox

namespace Keeps

theorem refl (s : State) : Keeps s s := ⟨rfl, fun h => h, .refl _, List.prefix_rfl⟩

theorem trans {s t u : State} (h : Keeps s t) (k : Keeps t u) : Keeps s u :=
  ⟨k.pending.trans h.pending, fun i => k.mem (h.mem i), h.fuses.trans k.fuses, h.outbox.trans k.outbox⟩

/-- An update of the device memory and of what the fuses hold. -/
theorem of_all {s x t : State} (h : Keeps s x) (hd : memWf x.dev = true → memWf t.dev = true) (hm : FusesGrow x.mil t.mil)
    (hp : t.pending = x.pending) (ho : t.outbox = x.outbox) : Keeps s t :=
  ⟨hp.trans h.pending, fun i => hd (h.mem i), h.fuses.trans hm, ho ▸ h.outbox⟩

/-- An update that touches none of the four fields keeps them. -/
theorem of_eq {s x t : State} (h : Keeps s x) (hp : t.pending = x.pending) (hd : t.dev = x.dev) (hm : t.mil = x.mil)
    (ho : t.outbox = x.outbox) : Keeps s t :=
  ⟨hp.trans h.pending, fun i => by have k := h.mem i; unfold MemInv at *; rwa [hd], hm ▸ h.fuses, ho ▸ h.outbox⟩

/-- An update that touches the device memory keeps the four fields if it keeps the memory's form. -/
theorem of_dev {s x t : State} (h : Keeps s x) (hd : memWf x.dev = true → memWf t.dev = true) (hp : t.pending = x.pending)
    (hm : t.mil = x.mil) (ho : t.outbox = x.outbox) : Keeps s t :=
  ⟨hp.trans h.pending, fun i => hd (h.mem i), hm ▸ h.fuses, ho ▸ h.outbox⟩

/-- An update that touches what the fuses hold keeps the four fields if the fuses grow. -/
theorem of_mil {s x t : State} (h : Keeps s x) (hm : FusesGrow x.mil t.mil) (hp : t.pending = x.pending)
    (hd : t.dev = x.dev) (ho : t.outbox = x.outbox) : Keeps s t :=
  ⟨hp.trans h.pending, fun i => by have k := h.mem i; unfold MemInv at *; rwa [hd], h.fuses.trans hm, ho ▸ h.outbox⟩

/-- The same for an update written with the fields it names. -/
theorem upd {s x : State} {regs draws readData time core pwr flt act anvil host img assay pins boot buf pipe que tele} (h : Keeps s x) :
    Keeps s (State.mk x.pending regs x.dev draws readData x.outbox time core pwr flt act anvil host img x.mil assay pins boot buf pipe que tele) := .of_eq h rfl rfl rfl rfl

/-- The negotiation of R417 is no part of what the fuses hold. -/
theorem spdm {s x : State} {n : Nat} (h : Keeps s x) : Keeps s { x with mil := { x.mil with spdm := n } } :=
  .of_mil h ⟨le_refl _, fun _ _ e => e, fun _ e => e, le_refl _, rfl, fun e => e⟩ rfl rfl rfl

/-- A choice keeps what both its outcomes keep. -/
theorem choose {s x y : State} {c : Prop} [Decidable c] (h : Keeps s x) (k : Keeps s y) : Keeps s (if c then x else y) := by
  split
  · exact h
  · exact k

theorem foldl {α : Type} {s x : State} {f : State → α → State} {l : List α} (hf : ∀ y b, Keeps s y → Keeps s (f y b))
    (h : Keeps s x) : Keeps s (l.foldl f x) := foldl_keeps (Keeps s) f hf l x h

/-- The same for a fold that carries the state beside something else. -/
theorem foldl_snd {α β : Type} {s : State} {x : β × State} {f : β × State → α → β × State} {l : List α}
    (hf : ∀ y b, Keeps s y.2 → Keeps s (f y b).2) (h : Keeps s x.2) : Keeps s (l.foldl f x).2 :=
  foldl_keeps (fun y : β × State => Keeps s y.2) f hf l x h

theorem foldl_fst {α β : Type} {s : State} {x : State × β} {f : State × β → α → State × β} {l : List α}
    (hf : ∀ y b, Keeps s y.1 → Keeps s (f y b).1) (h : Keeps s x.1) : Keeps s (l.foldl f x).1 :=
  foldl_keeps (fun y : State × β => Keeps s y.1) f hf l x h

theorem foldl_third {α β γ : Type} {s : State} {x : β × γ × State} {f : β × γ × State → α → β × γ × State} {l : List α}
    (hf : ∀ y b, Keeps s y.2.2 → Keeps s (f y b).2.2) (h : Keeps s x.2.2) : Keeps s (l.foldl f x).2.2 :=
  foldl_keeps (fun y : β × γ × State => Keeps s y.2.2) f hf l x h

theorem upTo {s x : State} {n : Nat} {f : Nat → State → State} (hf : ∀ k y, Keeps s y → Keeps s (f k y))
    (h : Keeps s x) : Keeps s (Machine.upTo n f x) := upTo_keeps (Keeps s) n f x hf h

theorem iterate {s x : State} {n : Nat} {f : State → State} (hf : ∀ y, Keeps s y → Keeps s (f y)) (h : Keeps s x) :
    Keeps s (Machine.iterate f n x) := iterate_keeps (Keeps s) f hf n x h

end Keeps

theorem State.when_keeps {s x : State} {c : Bool} {f : State → State} (hf : ∀ y, Keeps s y → Keeps s (f y))
    (h : Keeps s x) : Keeps s (x.when c f) := State.when_cases x c f h (fun _ => hf x h)

/-- A routine that has the step and whose fetch is clean takes the step and does its work. -/
theorem anvil_good {s : State} {act : Nat} {f : Fetch} {w : State → State} (h : AnvilRuns s act) (hf : FetchClean s f) :
    s.anvilStep act f w = w (s.stepped act) := by
  have e : (s.stepTake act).fetched f = .runs := by
    rw [← hf.1]
    unfold State.stepTake
    dsimp only
    split <;> rfl
  simp [State.anvilStep, h.1, h.2.1, h.2.2.1, h.2.2.2, e, hf.2]

end Sys2Proof.Machine
end

