-- ==== Sys2Proof/Laws/KeepsCore.lean ====
section
/-!
SUPPORT. What the operations of the core, power, Anvil, the rings and Loupe keep: one lemma for each.
-/
namespace Sys2Proof.Machine
set_option Elab.async false

/-! ### Machine/Ops.lean -/

theorem State.set_keeps {s x} {f v i j} (h : Keeps s x) : Keeps s (State.set x f v i j) := .upd h

theorem State.setB_keeps {s x} {a1 a2 a3 a4} (h : Keeps s x) : Keeps s (State.setB x a1 a2 a3 a4) := by
  unfold State.setB
  repeat' first
    | with_reducible assumption
    | intro _ _
    | intro _
    | with_reducible apply State.set_keeps

theorem State.add_keeps {s x} {a1 a2 a3 a4} (h : Keeps s x) : Keeps s (State.add x a1 a2 a3 a4) := by
  unfold State.add
  repeat' first
    | with_reducible assumption
    | intro _ _
    | intro _
    | with_reducible apply State.set_keeps

theorem State.inc_keeps {s x} {a1 a2 a3} (h : Keeps s x) : Keeps s (State.inc x a1 a2 a3) := by
  unfold State.inc
  repeat' first
    | with_reducible assumption
    | intro _ _
    | intro _
    | with_reducible apply State.add_keeps

theorem State.incWrap_keeps {s x} {a1 a2 a3} (h : Keeps s x) : Keeps s (State.incWrap x a1 a2 a3) := by
  unfold State.incWrap
  repeat' first
    | with_reducible assumption
    | intro _ _
    | intro _
    | with_reducible apply State.set_keeps

theorem State.setBit_keeps {s x} {a1 a2 a3 a4} (h : Keeps s x) : Keeps s (State.setBit x a1 a2 a3 a4) := by
  unfold State.setBit
  repeat' first
    | with_reducible assumption
    | intro _ _
    | intro _
    | with_reducible apply State.set_keeps

theorem State.clearBit_keeps {s x} {a1 a2 a3 a4} (h : Keeps s x) : Keeps s (State.clearBit x a1 a2 a3 a4) := by
  unfold State.clearBit
  repeat' first
    | with_reducible assumption
    | intro _ _
    | intro _
    | with_reducible apply State.set_keeps

theorem State.injTake_keeps {s x} {a1 a2} (h : Keeps s x) : Keeps s (State.injTake x a1 a2) := by
  unfold State.injTake
  repeat' first
    | with_reducible assumption
    | intro _ _
    | intro _
    | with_reducible apply Keeps.choose
    | split
    | dsimp only
    | with_reducible apply Keeps.upd

theorem State.injClear_keeps {s x} {a1 a2} (h : Keeps s x) : Keeps s (State.injClear x a1 a2) := by
  unfold State.injClear
  repeat' first
    | with_reducible assumption
    | intro _ _
    | intro _
    | split
    | dsimp only
    | with_reducible apply Keeps.upd

theorem State.memSet_keeps {s x} {a n v} (h : Keeps s x) : Keeps s (State.memSet x a n v) :=
  .of_dev h (fun i => by simpa using memWf_memWrite n _ _ _ i) (by simp) (by simp) (by simp)

theorem State.memStore_keeps {s x} {a l} (h : Keeps s x) : Keeps s (State.memStore x a l) :=
  .of_dev h (fun i => by simpa using memWf_memStore l _ _ i) (by simp) (by simp) (by simp)

theorem State.memZero_keeps {s x} {a b} (h : Keeps s x) : Keeps s (State.memZero x a b) :=
  .of_dev h (fun i => memWf_filter _ _ i) rfl rfl rfl

theorem State.emit_keeps {s x} {o} (h : Keeps s x) : Keeps s (State.emit x o) :=
  ⟨h.pending, h.mem, h.fuses, h.outbox.trans (List.prefix_append _ _)⟩

theorem State.draw_keeps {s x} (h : Keeps s x) : Keeps s (State.draw x) := by
  unfold State.draw
  repeat' first
    | with_reducible assumption
    | intro _ _
    | intro _
    | split
    | dsimp only
    | with_reducible apply Keeps.upd

theorem State.viaHost_keeps {s x} {a1 a2} (h2 : ∀ y, Keeps s y → Keeps s (a2 y)) (h : Keeps s x) :
    Keeps s (State.viaHost x a1 a2) := by
  unfold State.viaHost
  repeat' first
    | with_reducible assumption
    | intro _ _
    | intro _
    | apply h2
    | with_reducible apply Keeps.choose

/-! ### Machine/Flags.lean -/

theorem State.msixEmit_keeps {s x} {a1} (h : Keeps s x) : Keeps s (State.msixEmit x a1) := by
  unfold State.msixEmit
  repeat' first
    | with_reducible assumption
    | intro _ _
    | intro _
    | with_reducible apply State.emit_keeps

theorem State.msixSend_keeps {s x} {a1} (h : Keeps s x) : Keeps s (State.msixSend x a1) := by
  unfold State.msixSend
  repeat' first
    | with_reducible assumption
    | intro _ _
    | intro _
    | with_reducible apply Keeps.choose
    | with_reducible apply State.msixEmit_keeps
    | split
    | dsimp only
    | with_reducible apply Keeps.upd

theorem State.msixRelease_keeps {s x} {a1} (h : Keeps s x) : Keeps s (State.msixRelease x a1) := by
  unfold State.msixRelease
  repeat' first
    | with_reducible assumption
    | intro _ _
    | intro _
    | with_reducible apply Keeps.choose
    | with_reducible apply State.msixEmit_keeps
    | split
    | dsimp only
    | with_reducible apply Keeps.upd

theorem State.msixReleaseAll_keeps {s x} (h : Keeps s x) : Keeps s (State.msixReleaseAll x) := by
  unfold State.msixReleaseAll
  repeat' first
    | with_reducible assumption
    | intro _ _
    | intro _
    | with_reducible apply Keeps.upTo
    | with_reducible apply State.msixRelease_keeps

theorem State.glbPend_keeps {s x} (h : Keeps s x) : Keeps s (State.glbPend x) := by
  unfold State.glbPend
  repeat' first
    | with_reducible assumption
    | intro _ _
    | intro _
    | with_reducible apply Keeps.choose
    | with_reducible apply State.setB_keeps
    | with_reducible apply State.msixSend_keeps

theorem State.glbRaise_keeps {s x} {a1} (h : Keeps s x) : Keeps s (State.glbRaise x a1) := by
  unfold State.glbRaise
  repeat' first
    | with_reducible assumption
    | intro _ _
    | intro _
    | with_reducible apply Keeps.choose
    | with_reducible apply State.glbPend_keeps

theorem State.event_keeps {s x} {a1 a2 a3 a4} (h : Keeps s x) : Keeps s (State.event x a1 a2 a3 a4) := by
  unfold State.event
  repeat' first
    | with_reducible assumption
    | intro _ _
    | intro _
    | with_reducible apply Keeps.choose
    | with_reducible apply State.when_keeps
    | with_reducible apply State.setB_keeps
    | with_reducible apply State.when_keeps
    | with_reducible apply State.glbRaise_keeps

theorem State.eventBit_keeps {s x} {a1 a2 a3 a4} (h : Keeps s x) : Keeps s (State.eventBit x a1 a2 a3 a4) := by
  unfold State.eventBit
  repeat' first
    | with_reducible assumption
    | intro _ _
    | intro _
    | with_reducible apply Keeps.choose
    | with_reducible apply State.when_keeps
    | with_reducible apply State.setBit_keeps
    | with_reducible apply State.when_keeps
    | with_reducible apply State.glbRaise_keeps

theorem State.pwrEvent_keeps {s x} {a1} (h : Keeps s x) : Keeps s (State.pwrEvent x a1) := by
  unfold State.pwrEvent
  repeat' first
    | with_reducible assumption
    | intro _ _
    | intro _
    | with_reducible apply State.event_keeps

theorem State.timeEvent_keeps {s x} {a1} (h : Keeps s x) : Keeps s (State.timeEvent x a1) := by
  unfold State.timeEvent
  repeat' first
    | with_reducible assumption
    | intro _ _
    | intro _
    | with_reducible apply State.event_keeps

theorem State.hostEvent_keeps {s x} {a1} (h : Keeps s x) : Keeps s (State.hostEvent x a1) := by
  unfold State.hostEvent
  repeat' first
    | with_reducible assumption
    | intro _ _
    | intro _
    | with_reducible apply State.event_keeps

theorem State.portEvent_keeps {s x} {a1 a2 a3} (h : Keeps s x) : Keeps s (State.portEvent x a1 a2 a3) := by
  unfold State.portEvent
  repeat' first
    | with_reducible assumption
    | intro _ _
    | intro _
    | with_reducible apply State.event_keeps

theorem State.fault_keeps {s x} {a1 a2 a3} (h : Keeps s x) : Keeps s (State.fault x a1 a2 a3) := by
  unfold State.fault
  repeat' first
    | with_reducible assumption
    | intro _ _
    | intro _
    | split
    | dsimp only
    | with_reducible apply Keeps.upd

theorem State.faultInjected_keeps {s x} {a1 a2 a3} (h : Keeps s x) : Keeps s (State.faultInjected x a1 a2 a3) := by
  unfold State.faultInjected
  repeat' first
    | with_reducible assumption
    | intro _ _
    | intro _
    | split
    | dsimp only
    | with_reducible apply Keeps.upd

/-! ### Machine/ConfigWords.lean -/

theorem State.cfgStore_keeps {s x} {a1 a2} (h : Keeps s x) : Keeps s (State.cfgStore x a1 a2) := by
  unfold State.cfgStore
  repeat' first
    | with_reducible assumption
    | intro _ _
    | intro _
    | split
    | dsimp only
    | with_reducible apply Keeps.upd

/-! ### Machine/Power.lean -/

theorem State.setTrim_keeps {s x} {a1 a2} (h : Keeps s x) : Keeps s (State.setTrim x a1 a2) := by
  unfold State.setTrim
  repeat' first
    | with_reducible assumption
    | intro _ _
    | intro _
    | with_reducible apply Keeps.choose
    | with_reducible apply State.set_keeps
    | split
    | dsimp only
    | with_reducible apply Keeps.upd

theorem State.refreshRow_keeps {s x} (h : Keeps s x) : Keeps s (State.refreshRow x) := by
  unfold State.refreshRow
  repeat' first
    | with_reducible assumption
    | intro _ _
    | intro _
    | with_reducible apply State.set_keeps
    | with_reducible apply State.setTrim_keeps

theorem State.loopStep_keeps {s x} {a1} (h : Keeps s x) : Keeps s (State.loopStep x a1) := by
  unfold State.loopStep
  repeat' first
    | with_reducible assumption
    | intro _ _
    | intro _
    | with_reducible apply Keeps.choose
    | with_reducible apply State.setB_keeps
    | with_reducible apply State.inc_keeps
    | with_reducible apply State.fault_keeps
    | with_reducible apply State.setTrim_keeps
    | split
    | dsimp only
    | with_reducible apply Keeps.upd

theorem State.loopEval_keeps {s x} (h : Keeps s x) : Keeps s (State.loopEval x) := by
  unfold State.loopEval
  repeat' first
    | with_reducible assumption
    | intro _ _
    | intro _
    | with_reducible apply Keeps.choose
    | with_reducible apply State.set_keeps
    | with_reducible apply State.loopStep_keeps
    | split

theorem State.aseWindow_keeps {s x} (h : Keeps s x) : Keeps s (State.aseWindow x) := by
  unfold State.aseWindow
  repeat' first
    | with_reducible assumption
    | intro _ _
    | intro _
    | with_reducible apply Keeps.choose
    | with_reducible apply State.when_keeps
    | with_reducible apply Keeps.foldl
    | with_reducible apply Keeps.foldl_snd
    | with_reducible apply Keeps.foldl_fst
    | with_reducible apply Keeps.foldl_third
    | with_reducible apply Keeps.upTo
    | with_reducible apply State.set_keeps
    | with_reducible apply State.inc_keeps
    | with_reducible apply State.when_keeps
    | split
    | dsimp only
    | with_reducible apply Keeps.upd

theorem State.trmWindow_keeps {s x} {a1 a2 a3} (h : Keeps s x) : Keeps s (State.trmWindow x a1 a2 a3) := by
  unfold State.trmWindow
  repeat' first
    | with_reducible assumption
    | intro _ _
    | intro _
    | with_reducible apply Keeps.choose
    | with_reducible apply State.when_keeps
    | with_reducible apply State.set_keeps
    | with_reducible apply State.setB_keeps
    | with_reducible apply State.when_keeps
    | with_reducible apply State.draw_keeps
    | with_reducible apply State.fault_keeps
    | with_reducible apply State.loopEval_keeps
    | with_reducible apply State.aseWindow_keeps
    | split
    | dsimp only
    | with_reducible apply Keeps.upd

theorem State.vcoreSeen_keeps {s x} {a1} (h : Keeps s x) : Keeps s (State.vcoreSeen x a1) := by
  unfold State.vcoreSeen
  repeat' first
    | with_reducible assumption
    | intro _ _
    | intro _
    | with_reducible apply Keeps.choose
    | split
    | dsimp only
    | with_reducible apply Keeps.upd

theorem State.droopSeen_keeps {s x} {a1 a2} (h : Keeps s x) : Keeps s (State.droopSeen x a1 a2) := by
  unfold State.droopSeen
  repeat' first
    | with_reducible assumption
    | intro _ _
    | intro _
    | with_reducible apply Keeps.choose
    | with_reducible apply State.inc_keeps
    | with_reducible apply State.vcoreSeen_keeps
    | split
    | dsimp only
    | with_reducible apply Keeps.upd

theorem State.droopEnd_keeps {s x} {a1} (h : Keeps s x) : Keeps s (State.droopEnd x a1) := by
  unfold State.droopEnd
  repeat' first
    | with_reducible assumption
    | intro _ _
    | intro _
    | with_reducible apply Keeps.choose
    | split
    | dsimp only
    | with_reducible apply Keeps.upd

theorem State.slotUse_keeps {s x} {a1} (h : Keeps s x) : Keeps s (State.slotUse x a1) := by
  unfold State.slotUse
  repeat' first
    | with_reducible assumption
    | intro _ _
    | intro _
    | with_reducible apply Keeps.choose
    | split
    | dsimp only
    | with_reducible apply Keeps.upd

theorem State.moveTo_keeps {s x} {a1} (h : Keeps s x) : Keeps s (State.moveTo x a1) := by
  unfold State.moveTo
  repeat' first
    | with_reducible assumption
    | intro _ _
    | intro _
    | with_reducible apply Keeps.choose
    | with_reducible apply State.set_keeps
    | with_reducible apply State.setB_keeps
    | split
    | dsimp only
    | with_reducible apply Keeps.upd

theorem State.retarget_keeps {s x} (h : Keeps s x) : Keeps s (State.retarget x) := by
  unfold State.retarget
  repeat' first
    | with_reducible assumption
    | intro _ _
    | intro _
    | with_reducible apply State.when_keeps
    | with_reducible apply Keeps.foldl
    | with_reducible apply Keeps.foldl_snd
    | with_reducible apply Keeps.foldl_fst
    | with_reducible apply Keeps.foldl_third
    | with_reducible apply State.set_keeps
    | with_reducible apply State.when_keeps
    | with_reducible apply State.pwrEvent_keeps
    | with_reducible apply State.moveTo_keeps

theorem State.assayEnd_keeps {s x} (h : Keeps s x) : Keeps s (State.assayEnd x) := by
  unfold State.assayEnd
  repeat' first
    | with_reducible assumption
    | intro _ _
    | intro _
    | with_reducible apply State.set_keeps
    | with_reducible apply State.setB_keeps
    | with_reducible apply State.event_keeps
    | with_reducible apply State.retarget_keeps
    | split
    | dsimp only
    | with_reducible apply Keeps.upd

theorem State.assayStop_keeps {s x} {a1} (h : Keeps s x) : Keeps s (State.assayStop x a1) := by
  unfold State.assayStop
  repeat' first
    | with_reducible assumption
    | intro _ _
    | intro _
    | with_reducible apply Keeps.choose
    | with_reducible apply State.set_keeps
    | with_reducible apply State.setB_keeps
    | with_reducible apply State.assayEnd_keeps

theorem State.assayWatch_keeps {s x} (h : Keeps s x) : Keeps s (State.assayWatch x) := by
  unfold State.assayWatch
  repeat' first
    | with_reducible assumption
    | intro _ _
    | intro _
    | with_reducible apply State.when_keeps
    | with_reducible apply State.when_keeps
    | with_reducible apply State.assayStop_keeps

theorem State.opSettled_keeps {s x} {a1} (h : Keeps s x) : Keeps s (State.opSettled x a1) := by
  unfold State.opSettled
  repeat' first
    | with_reducible assumption
    | intro _ _
    | intro _
    | with_reducible apply Keeps.choose
    | with_reducible apply State.set_keeps
    | with_reducible apply State.setB_keeps
    | with_reducible apply State.refreshRow_keeps
    | split
    | dsimp only
    | with_reducible apply Keeps.upd

theorem State.phaseApply_keeps {s x} {a1} (h : Keeps s x) : Keeps s (State.phaseApply x a1) := by
  unfold State.phaseApply
  repeat' first
    | with_reducible assumption
    | intro _ _
    | intro _
    | with_reducible apply State.set_keeps
    | with_reducible apply State.inc_keeps
    | with_reducible apply State.retarget_keeps
    | split
    | dsimp only
    | with_reducible apply Keeps.upd

theorem State.phaseUndo_keeps {s x} {a1} (h : Keeps s x) : Keeps s (State.phaseUndo x a1) := by
  unfold State.phaseUndo
  repeat' first
    | with_reducible assumption
    | intro _ _
    | intro _
    | with_reducible apply Keeps.choose
    | with_reducible apply State.set_keeps
    | split
    | dsimp only
    | with_reducible apply Keeps.upd

theorem State.phaseTake_keeps {s x} {a1 a2} (h : Keeps s x) : Keeps s (State.phaseTake x a1 a2) := by
  unfold State.phaseTake
  repeat' first
    | with_reducible assumption
    | intro _ _
    | intro _
    | with_reducible apply Keeps.choose
    | with_reducible apply State.pwrEvent_keeps
    | with_reducible apply State.phaseApply_keeps
    | split
    | dsimp only
    | with_reducible apply Keeps.upd

theorem State.phaseSelect_keeps {s x} {a1 a2} (h : Keeps s x) : Keeps s (State.phaseSelect x a1 a2) := by
  unfold State.phaseSelect
  repeat' first
    | with_reducible assumption
    | intro _ _
    | intro _
    | with_reducible apply Keeps.choose
    | with_reducible apply State.phaseUndo_keeps
    | with_reducible apply State.phaseTake_keeps
    | split

theorem State.phaseWrite_keeps {s x} {a1 a2 a3} (h : Keeps s x) : Keeps s (State.phaseWrite x a1 a2 a3) := by
  unfold State.phaseWrite
  repeat' first
    | with_reducible assumption
    | intro _ _
    | intro _
    | with_reducible apply Keeps.choose
    | with_reducible apply State.when_keeps
    | with_reducible apply State.set_keeps
    | with_reducible apply State.when_keeps
    | with_reducible apply State.pwrEvent_keeps
    | split
    | dsimp only
    | with_reducible apply Keeps.upd

theorem State.vinSample_keeps {s x} {a1 a2 a3} (h : Keeps s x) : Keeps s (State.vinSample x a1 a2 a3) := by
  unfold State.vinSample
  repeat' first
    | with_reducible assumption
    | intro _ _
    | intro _
    | with_reducible apply Keeps.choose
    | with_reducible apply State.when_keeps
    | with_reducible apply State.setB_keeps
    | with_reducible apply State.when_keeps
    | with_reducible apply State.pwrEvent_keeps
    | with_reducible apply State.fault_keeps
    | with_reducible apply State.assayWatch_keeps
    | split
    | dsimp only
    | with_reducible apply Keeps.upd

theorem State.railSample_keeps {s x} {a1 a2 a3 a4} (h : Keeps s x) : Keeps s (State.railSample x a1 a2 a3 a4) := by
  unfold State.railSample
  repeat' first
    | with_reducible assumption
    | intro _ _
    | intro _
    | with_reducible apply Keeps.choose
    | with_reducible apply State.when_keeps
    | with_reducible apply State.set_keeps
    | with_reducible apply State.when_keeps
    | with_reducible apply State.fault_keeps
    | with_reducible apply State.vcoreSeen_keeps
    | with_reducible apply State.vinSample_keeps
    | split
    | dsimp only
    | with_reducible apply Keeps.upd

theorem State.measFlags_keeps {s x} {a1 a2 a3} (h : Keeps s x) : Keeps s (State.measFlags x a1 a2 a3) := by
  unfold State.measFlags
  repeat' first
    | with_reducible assumption
    | intro _ _
    | intro _
    | with_reducible apply Keeps.choose
    | with_reducible apply State.when_keeps
    | with_reducible apply State.setB_keeps
    | with_reducible apply State.when_keeps
    | with_reducible apply State.fault_keeps
    | split
    | dsimp only
    | with_reducible apply Keeps.upd

theorem State.setBubbles_keeps {s x} {a1} (h : Keeps s x) : Keeps s (State.setBubbles x a1) := by
  unfold State.setBubbles
  repeat' first
    | with_reducible assumption
    | intro _ _
    | intro _
    | with_reducible apply State.when_keeps
    | with_reducible apply State.set_keeps
    | with_reducible apply State.setB_keeps
    | with_reducible apply State.when_keeps
    | with_reducible apply State.pwrEvent_keeps
    | split
    | dsimp only
    | with_reducible apply Keeps.upd

theorem State.qLimitStep_keeps {s x} {a1 a2} (h : Keeps s x) : Keeps s (State.qLimitStep x a1 a2) := by
  unfold State.qLimitStep
  repeat' first
    | with_reducible assumption
    | intro _ _
    | intro _
    | with_reducible apply Keeps.choose
    | with_reducible apply State.set_keeps
    | with_reducible apply State.retarget_keeps
    | split
    | dsimp only
    | with_reducible apply Keeps.upd

theorem State.reloadPhase_keeps {s x} (h : Keeps s x) : Keeps s (State.reloadPhase x) := by
  unfold State.reloadPhase
  repeat' first
    | with_reducible assumption
    | intro _ _
    | intro _
    | split
    | dsimp only
    | with_reducible apply Keeps.upd

theorem State.powerWindow_keeps {s x} (h : Keeps s x) : Keeps s (State.powerWindow x) := by
  unfold State.powerWindow
  repeat' first
    | with_reducible assumption
    | intro _ _
    | intro _
    | with_reducible apply Keeps.choose
    | with_reducible apply State.set_keeps
    | with_reducible apply State.retarget_keeps
    | with_reducible apply State.measFlags_keeps
    | with_reducible apply State.setBubbles_keeps
    | with_reducible apply State.qLimitStep_keeps
    | with_reducible apply State.reloadPhase_keeps
    | split
    | dsimp only
    | with_reducible apply Keeps.upd

theorem State.energyWindow_keeps {s x} (h : Keeps s x) : Keeps s (State.energyWindow x) := by
  unfold State.energyWindow
  repeat' first
    | with_reducible assumption
    | intro _ _
    | intro _
    | with_reducible apply Keeps.choose
    | with_reducible apply State.when_keeps
    | with_reducible apply State.set_keeps
    | with_reducible apply State.setB_keeps
    | with_reducible apply State.when_keeps
    | with_reducible apply State.fault_keeps
    | split
    | dsimp only
    | with_reducible apply Keeps.upd

theorem State.sensorState_keeps {s x} {a1 a2} (h : Keeps s x) : Keeps s (State.sensorState x a1 a2) := by
  unfold State.sensorState
  repeat' first
    | with_reducible assumption
    | intro _ _
    | intro _
    | with_reducible apply State.when_keeps
    | with_reducible apply State.setB_keeps
    | with_reducible apply State.when_keeps
    | with_reducible apply State.pwrEvent_keeps
    | with_reducible apply State.fault_keeps

theorem State.sensorRead_keeps {s x} {a1 a2} (h : Keeps s x) : Keeps s (State.sensorRead x a1 a2) := by
  unfold State.sensorRead
  repeat' first
    | with_reducible assumption
    | intro _ _
    | intro _
    | with_reducible apply State.set_keeps
    | with_reducible apply State.sensorState_keeps
    | split
    | dsimp only
    | with_reducible apply Keeps.upd

theorem State.sensorsLate_keeps {s x} (h : Keeps s x) : Keeps s (State.sensorsLate x) := by
  unfold State.sensorsLate
  repeat' first
    | with_reducible assumption
    | intro _ _
    | intro _
    | with_reducible apply Keeps.choose
    | with_reducible apply Keeps.upTo
    | with_reducible apply State.sensorState_keeps

theorem State.showThermLevel_keeps {s x} (h : Keeps s x) : Keeps s (State.showThermLevel x) := by
  unfold State.showThermLevel
  repeat' first
    | with_reducible assumption
    | intro _ _
    | intro _
    | with_reducible apply Keeps.foldl
    | with_reducible apply Keeps.foldl_snd
    | with_reducible apply Keeps.foldl_fst
    | with_reducible apply Keeps.foldl_third
    | with_reducible apply State.set_keeps

theorem State.judgeGroup_keeps {s x} {a1} (h : Keeps s x) : Keeps s (State.judgeGroup x a1) := by
  unfold State.judgeGroup
  repeat' first
    | with_reducible assumption
    | intro _ _
    | intro _
    | with_reducible apply Keeps.choose
    | with_reducible apply State.when_keeps
    | with_reducible apply State.set_keeps
    | with_reducible apply State.when_keeps
    | with_reducible apply State.pwrEvent_keeps
    | with_reducible apply State.fault_keeps
    | split
    | dsimp only
    | with_reducible apply Keeps.upd

theorem State.leaveQuench_keeps {s x} (h : Keeps s x) : Keeps s (State.leaveQuench x) := by
  unfold State.leaveQuench
  repeat' first
    | with_reducible assumption
    | intro _ _
    | intro _
    | with_reducible apply Keeps.choose
    | with_reducible apply Keeps.upTo
    | with_reducible apply State.set_keeps
    | split
    | dsimp only
    | with_reducible apply Keeps.upd

theorem State.tempSample_keeps {s x} {a1} (h : Keeps s x) : Keeps s (State.tempSample x a1) := by
  unfold State.tempSample
  repeat' first
    | with_reducible assumption
    | intro _ _
    | intro _
    | with_reducible apply Keeps.foldl
    | with_reducible apply Keeps.foldl_snd
    | with_reducible apply Keeps.foldl_fst
    | with_reducible apply Keeps.foldl_third
    | with_reducible apply Keeps.upTo
    | with_reducible apply State.retarget_keeps
    | with_reducible apply State.assayWatch_keeps
    | with_reducible apply State.sensorRead_keeps
    | with_reducible apply State.sensorsLate_keeps
    | with_reducible apply State.showThermLevel_keeps
    | with_reducible apply State.judgeGroup_keeps
    | with_reducible apply State.leaveQuench_keeps

theorem State.thermalStep_keeps {s x} (h : Keeps s x) : Keeps s (State.thermalStep x) := by
  unfold State.thermalStep
  repeat' first
    | with_reducible assumption
    | intro _ _
    | intro _
    | with_reducible apply Keeps.choose
    | with_reducible apply State.set_keeps
    | with_reducible apply State.retarget_keeps
    | with_reducible apply State.setBubbles_keeps
    | split
    | dsimp only
    | with_reducible apply Keeps.upd

/-! ### Machine/Anvil.lean -/

theorem State.storePut_keeps {s x} {a1 a2} (h : Keeps s x) : Keeps s (State.storePut x a1 a2) := by
  unfold State.storePut
  repeat' first
    | with_reducible assumption
    | intro _ _
    | intro _
    | with_reducible apply State.inc_keeps
    | with_reducible apply State.memStore_keeps

theorem State.storeRemap_keeps {s x} {a1} (h : Keeps s x) : Keeps s (State.storeRemap x a1) := by
  unfold State.storeRemap
  repeat' first
    | with_reducible assumption
    | intro _ _
    | intro _
    | with_reducible apply State.when_keeps
    | with_reducible apply State.setB_keeps
    | with_reducible apply State.when_keeps
    | with_reducible apply State.fault_keeps
    | split
    | dsimp only
    | with_reducible apply Keeps.upd

theorem State.storeSettle_keeps {s n x a l} (h : Keeps s x) : Keeps s (State.storeSettle n x a l).1 := by
  induction n generalizing x with
  | zero => exact h
  | succ n ih =>
    simp only [State.storeSettle]
    split
    · exact h
    · split
      · exact h
      · exact ih (State.storePut_keeps (State.storeRemap_keeps h))

theorem State.storeWrite_keeps {s x} {a1 a2 a3} (h : Keeps s x) : Keeps s (State.storeWrite x a1 a2 a3).1 := by
  unfold State.storeWrite
  repeat' first
    | with_reducible assumption
    | intro _ _
    | intro _
    | with_reducible apply Keeps.choose
    | with_reducible apply State.storePut_keeps
    | with_reducible apply State.storeRemap_keeps
    | with_reducible apply State.storeSettle_keeps
    | split
    | dsimp only
theorem State.storeWrite_keepsE {s x} {a1 a2 a3} {t r1} (e : State.storeWrite x a1 a2 a3 = (t, r1)) (h : Keeps s x) :
    Keeps s t := by
  have k := State.storeWrite_keeps (s := s) (x := x) (a1 := a1) (a2 := a2) (a3 := a3) h
  rwa [e] at k

theorem State.journalWrite_keeps {s x} {a1 a2 a3} (h : Keeps s x) : Keeps s (State.journalWrite x a1 a2 a3) := by
  unfold State.journalWrite
  repeat' first
    | with_reducible assumption
    | intro _ _
    | intro _
    | with_reducible apply Keeps.choose
    | with_reducible apply State.storePut_keeps
    | with_reducible apply State.storeWrite_keeps
    | refine State.storeWrite_keepsE (by with_reducible assumption) ?_
    | split
    | dsimp only
    | with_reducible apply Keeps.upd

theorem State.showBanks_keeps {s x} (h : Keeps s x) : Keeps s (State.showBanks x) := by
  unfold State.showBanks
  repeat' first
    | with_reducible assumption
    | intro _ _
    | intro _
    | with_reducible apply State.set_keeps
    | with_reducible apply State.setB_keeps

theorem State.commitWrite_keeps {s x} {a1 a2 a3} (h : Keeps s x) : Keeps s (State.commitWrite x a1 a2 a3) := by
  unfold State.commitWrite
  repeat' first
    | with_reducible assumption
    | intro _ _
    | intro _
    | with_reducible apply State.journalWrite_keeps
    | with_reducible apply State.showBanks_keeps

theorem State.bootPrefWrite_keeps {s x} {a1} (h : Keeps s x) : Keeps s (State.bootPrefWrite x a1) := by
  unfold State.bootPrefWrite
  repeat' first
    | with_reducible assumption
    | intro _ _
    | intro _
    | with_reducible apply State.set_keeps
    | with_reducible apply State.journalWrite_keeps

theorem State.hoursCommit_keeps {s x} {a1} (h : Keeps s x) : Keeps s (State.hoursCommit x a1) := by
  unfold State.hoursCommit
  repeat' first
    | with_reducible assumption
    | intro _ _
    | intro _
    | with_reducible apply State.journalWrite_keeps

theorem State.storeSense_keeps {s x} (h : Keeps s x) : Keeps s (State.storeSense x) := by
  unfold State.storeSense
  repeat' first
    | with_reducible assumption
    | intro _ _
    | intro _
    | with_reducible apply Keeps.choose
    | with_reducible apply Keeps.upTo
    | with_reducible apply State.set_keeps
    | with_reducible apply State.setB_keeps
    | with_reducible apply State.showBanks_keeps

theorem State.mcLast_keeps {s x} {a1 a2 a3 a4} (h : Keeps s x) : Keeps s (State.mcLast x a1 a2 a3 a4) := by
  unfold State.mcLast
  repeat' first
    | with_reducible assumption
    | intro _ _
    | intro _
    | with_reducible apply State.set_keeps
    | with_reducible apply State.setB_keeps
    | with_reducible apply State.inc_keeps

theorem State.mcCorrected_keeps {s x} {a1 a2} (h : Keeps s x) : Keeps s (State.mcCorrected x a1 a2) := by
  unfold State.mcCorrected
  repeat' first
    | with_reducible assumption
    | intro _ _
    | intro _
    | with_reducible apply Keeps.choose
    | with_reducible apply State.set_keeps
    | with_reducible apply State.setB_keeps
    | with_reducible apply State.fault_keeps
    | with_reducible apply State.mcLast_keeps
    | split
    | dsimp only
    | with_reducible apply Keeps.upd

theorem State.routineRestart_keeps {s x} {a1} (h : Keeps s x) : Keeps s (State.routineRestart x a1) := by
  unfold State.routineRestart
  repeat' first
    | with_reducible assumption
    | intro _ _
    | intro _
    | with_reducible apply Keeps.choose
    | split
    | dsimp only
    | with_reducible apply Keeps.upd

theorem State.mcFailed_keeps {s x} {a1 a2} (h : Keeps s x) : Keeps s (State.mcFailed x a1 a2) := by
  unfold State.mcFailed
  repeat' first
    | with_reducible assumption
    | intro _ _
    | intro _
    | with_reducible apply State.when_keeps
    | with_reducible apply State.setB_keeps
    | with_reducible apply State.setBit_keeps
    | with_reducible apply State.when_keeps
    | with_reducible apply State.fault_keeps
    | with_reducible apply State.mcLast_keeps
    | with_reducible apply State.routineRestart_keeps
    | split
    | dsimp only
    | with_reducible apply Keeps.upd

theorem State.anvilOwn_keeps {s x} {a1 a2} (h2 : ∀ y, Keeps s y → Keeps s (a2 y)) (h : Keeps s x) :
    Keeps s (State.anvilOwn x a1 a2) := by
  unfold State.anvilOwn
  repeat' first
    | with_reducible assumption
    | intro _ _
    | intro _
    | apply h2
    | with_reducible apply State.mcCorrected_keeps
    | with_reducible apply State.mcFailed_keeps
    | split

theorem State.stepTake_keeps {s x} {a1} (h : Keeps s x) : Keeps s (State.stepTake x a1) := by
  unfold State.stepTake
  repeat' first
    | with_reducible assumption
    | intro _ _
    | intro _
    | with_reducible apply Keeps.choose
    | split
    | dsimp only
    | with_reducible apply Keeps.upd

theorem State.accessWaits_keeps {s x} {a1} (h : Keeps s x) : Keeps s (State.accessWaits x a1) := by
  unfold State.accessWaits
  repeat' first
    | with_reducible assumption
    | intro _ _
    | intro _
    | with_reducible apply Keeps.choose
    | split
    | dsimp only
    | with_reducible apply Keeps.upd

theorem State.accessGranted_keeps {s x} {a1} (h : Keeps s x) : Keeps s (State.accessGranted x a1) := by
  unfold State.accessGranted
  repeat' first
    | with_reducible assumption
    | intro _ _
    | intro _
    | split
    | dsimp only
    | with_reducible apply Keeps.upd

theorem State.anvilStep_keeps {s x} {a1 a2 a3} (h3 : ∀ y, Keeps s y → Keeps s (a3 y)) (h : Keeps s x) :
    Keeps s (State.anvilStep x a1 a2 a3) := by
  unfold State.anvilStep
  repeat' first
    | with_reducible assumption
    | intro _ _
    | intro _
    | apply h3
    | with_reducible apply Keeps.choose
    | with_reducible apply State.mcCorrected_keeps
    | with_reducible apply State.mcFailed_keeps
    | with_reducible apply State.stepTake_keeps
    | with_reducible apply State.accessWaits_keeps
    | with_reducible apply State.accessGranted_keeps
    | split
    | dsimp only

theorem State.bgStarved_keeps {s x} {a1} (h : Keeps s x) : Keeps s (State.bgStarved x a1) := by
  unfold State.bgStarved
  repeat' first
    | with_reducible assumption
    | intro _ _
    | intro _
    | with_reducible apply Keeps.choose
    | with_reducible apply State.inc_keeps
    | with_reducible apply State.fault_keeps
    | split
    | dsimp only
    | with_reducible apply Keeps.upd

theorem State.trapEnter_keeps {s x} {a1} (h : Keeps s x) : Keeps s (State.trapEnter x a1) := by
  unfold State.trapEnter
  repeat' first
    | with_reducible assumption
    | intro _ _
    | intro _
    | with_reducible apply State.inc_keeps
    | with_reducible apply State.anvilOwn_keeps
    | split
    | dsimp only
    | with_reducible apply Keeps.upd

theorem State.trapReturn_keeps {s x} (h : Keeps s x) : Keeps s (State.trapReturn x) := by
  unfold State.trapReturn
  repeat' first
    | with_reducible assumption
    | intro _ _
    | intro _
    | split
    | dsimp only
    | with_reducible apply Keeps.upd

theorem State.anvilTrap_keeps {s x} {a1 a2} (h : Keeps s x) : Keeps s (State.anvilTrap x a1 a2) := by
  unfold State.anvilTrap
  repeat' first
    | with_reducible assumption
    | intro _ _
    | intro _
    | with_reducible apply Keeps.choose
    | with_reducible apply Keeps.iterate
    | with_reducible apply State.trapEnter_keeps
    | with_reducible apply State.trapReturn_keeps
    | split
    | dsimp only
    | with_reducible apply Keeps.upd

theorem State.hoursStep_keeps {s x} {a1 a2} (h : Keeps s x) : Keeps s (State.hoursStep x a1 a2) := by
  unfold State.hoursStep
  repeat' first
    | with_reducible assumption
    | intro _ _
    | intro _
    | with_reducible apply Keeps.choose
    | with_reducible apply State.set_keeps
    | with_reducible apply State.refreshRow_keeps
    | with_reducible apply State.hoursCommit_keeps
    | with_reducible apply State.anvilOwn_keeps
    | split
    | dsimp only
    | with_reducible apply Keeps.upd

theorem State.variantSwitch_keeps {s x} {a1} (h : Keeps s x) : Keeps s (State.variantSwitch x a1) := by
  unfold State.variantSwitch
  repeat' first
    | with_reducible assumption
    | intro _ _
    | intro _
    | with_reducible apply State.set_keeps
    | split
    | dsimp only
    | with_reducible apply Keeps.upd

theorem State.shareWrite_keeps {s x} {a1 a2} (h : Keeps s x) : Keeps s (State.shareWrite x a1 a2) := by
  unfold State.shareWrite
  repeat' first
    | with_reducible assumption
    | intro _ _
    | intro _
    | with_reducible apply Keeps.choose
    | with_reducible apply Keeps.foldl
    | with_reducible apply Keeps.foldl_snd
    | with_reducible apply Keeps.foldl_fst
    | with_reducible apply Keeps.foldl_third
    | with_reducible apply State.set_keeps

theorem State.passEnd_keeps {s x} {a1} (h : Keeps s x) : Keeps s (State.passEnd x a1).2 := by
  unfold State.passEnd
  repeat' first
    | with_reducible assumption
    | intro _ _
    | intro _
    | split
    | dsimp only
    | with_reducible apply Keeps.upd
theorem State.passEnd_keepsE {s x} {a1} {r0 t} (e : State.passEnd x a1 = (r0, t)) (h : Keeps s x) : Keeps s t := by
  have k := State.passEnd_keeps (s := s) (x := x) (a1 := a1) h
  rwa [e] at k

theorem State.coverMiss_keeps {s x} {a1} (h : Keeps s x) : Keeps s (State.coverMiss x a1) := by
  unfold State.coverMiss
  repeat' first
    | with_reducible assumption
    | intro _ _
    | intro _
    | with_reducible apply State.setBit_keeps
    | with_reducible apply State.fault_keeps

theorem State.applyAnvil_keeps {s x} {a1} (h : Keeps s x) : Keeps s (State.applyAnvil x a1) := by
  unfold State.applyAnvil
  repeat' first
    | with_reducible assumption
    | intro _ _
    | intro _
    | with_reducible apply Keeps.choose
    | with_reducible apply Keeps.foldl
    | with_reducible apply Keeps.foldl_snd
    | with_reducible apply Keeps.foldl_fst
    | with_reducible apply Keeps.foldl_third
    | with_reducible apply Keeps.upTo
    | with_reducible apply State.set_keeps
    | with_reducible apply State.setB_keeps
    | split
    | dsimp only
    | with_reducible apply Keeps.upd

/-! ### Machine/Rings.lean -/

theorem State.ringPend_keeps {s x} {a1} (h : Keeps s x) : Keeps s (State.ringPend x a1) := by
  unfold State.ringPend
  repeat' first
    | with_reducible assumption
    | intro _ _
    | intro _
    | with_reducible apply Keeps.choose
    | with_reducible apply State.setB_keeps
    | with_reducible apply State.msixSend_keeps
    | split
    | dsimp only
    | with_reducible apply Keeps.upd

theorem State.ringComplete_keeps {s x} {a1 a2 a3 a4} (h : Keeps s x) : Keeps s (State.ringComplete x a1 a2 a3 a4) := by
  unfold State.ringComplete
  repeat' first
    | with_reducible assumption
    | intro _ _
    | intro _
    | with_reducible apply Keeps.choose
    | with_reducible apply State.when_keeps
    | with_reducible apply State.set_keeps
    | with_reducible apply State.inc_keeps
    | with_reducible apply State.memSet_keeps
    | with_reducible apply State.when_keeps
    | with_reducible apply State.ringPend_keeps
    | split
    | dsimp only
    | with_reducible apply Keeps.upd

theorem State.coalExpire_keeps {s x} {a1} (h : Keeps s x) : Keeps s (State.coalExpire x a1) := by
  unfold State.coalExpire
  repeat' first
    | with_reducible assumption
    | intro _ _
    | intro _
    | with_reducible apply Keeps.choose
    | with_reducible apply State.msixSend_keeps
    | split
    | dsimp only
    | with_reducible apply Keeps.upd

theorem State.ringEnable_keeps {s x} {a1} (h : Keeps s x) : Keeps s (State.ringEnable x a1) := by
  unfold State.ringEnable
  repeat' first
    | with_reducible assumption
    | intro _ _
    | intro _
    | with_reducible apply Keeps.choose
    | with_reducible apply State.set_keeps
    | with_reducible apply State.setB_keeps
    | split
    | dsimp only
    | with_reducible apply Keeps.upd

theorem State.ringDisable_keeps {s x} {a1} (h : Keeps s x) : Keeps s (State.ringDisable x a1) := by
  unfold State.ringDisable
  repeat' first
    | with_reducible assumption
    | intro _ _
    | intro _
    | with_reducible apply State.setB_keeps

theorem State.ringsStop_keeps {s x} (h : Keeps s x) : Keeps s (State.ringsStop x) := by
  unfold State.ringsStop
  repeat' first
    | with_reducible assumption
    | intro _ _
    | intro _
    | with_reducible apply Keeps.upTo
    | with_reducible apply State.ringDisable_keeps

theorem State.eventRingWrite_keeps {s x} {a1 a2} (h : Keeps s x) : Keeps s (State.eventRingWrite x a1 a2).1 := by
  unfold State.eventRingWrite
  repeat' first
    | with_reducible assumption
    | intro _ _
    | intro _
    | with_reducible apply Keeps.choose
    | with_reducible apply State.inc_keeps
    | with_reducible apply State.memStore_keeps
    | with_reducible apply State.ringComplete_keeps
    | split
    | dsimp only
theorem State.eventRingWrite_keepsE {s x} {a1 a2} {t r1} (e : State.eventRingWrite x a1 a2 = (t, r1)) (h : Keeps s x) :
    Keeps s t := by
  have k := State.eventRingWrite_keeps (s := s) (x := x) (a1 := a1) (a2 := a2) h
  rwa [e] at k

theorem State.bezelStore_keeps {s x} {o l e} (h : Keeps s x) : Keeps s (State.bezelStore x o l e) := by
  fun_induction State.bezelStore x o l e with
  | case1 x o b bs e es ih =>
    apply ih
    split
    · exact State.memStore_keeps h
    · exact h
  | case2 => exact h

/-! ### Machine/Loupe.lean -/

theorem State.loupeAdd_keeps {s x} {a1 a2 a3} (h : Keeps s x) : Keeps s (State.loupeAdd x a1 a2 a3) := by
  unfold State.loupeAdd
  repeat' first
    | with_reducible assumption
    | intro _ _
    | intro _
    | with_reducible apply State.when_keeps
    | with_reducible apply State.set_keeps
    | with_reducible apply State.setBit_keeps

theorem State.sampleAdd_keeps {s x} {a1 a2} (h : Keeps s x) : Keeps s (State.sampleAdd x a1 a2) := by
  unfold State.sampleAdd
  repeat' first
    | with_reducible assumption
    | intro _ _
    | intro _
    | with_reducible apply Keeps.choose
    | with_reducible apply State.set_keeps
    | with_reducible apply State.add_keeps
    | with_reducible apply State.event_keeps

theorem State.activityAdd_keeps {s x} {a1 a2} (h : Keeps s x) : Keeps s (State.activityAdd x a1 a2) := by
  unfold State.activityAdd
  repeat' first
    | with_reducible assumption
    | intro _ _
    | intro _
    | with_reducible apply Keeps.choose
    | split
    | dsimp only
    | with_reducible apply Keeps.upd

theorem State.qdrOp_keeps {s x} {a1} (h : Keeps s x) : Keeps s (State.qdrOp x a1) := by
  unfold State.qdrOp
  repeat' first
    | with_reducible assumption
    | intro _ _
    | intro _
    | split
    | dsimp only
    | with_reducible apply Keeps.upd

theorem State.tally_keeps {s x} {a1 a2 a3} (h : Keeps s x) : Keeps s (State.tally x a1 a2 a3) := by
  unfold State.tally
  repeat' first
    | with_reducible assumption
    | intro _ _
    | intro _
    | with_reducible apply Keeps.choose
    | with_reducible apply Keeps.upTo
    | with_reducible apply State.loupeAdd_keeps
    | with_reducible apply State.sampleAdd_keeps
    | with_reducible apply State.activityAdd_keeps

theorem State.bankOps_keeps {s x} {a1 a2} (h : Keeps s x) : Keeps s (State.bankOps x a1 a2) := by
  unfold State.bankOps
  repeat' first
    | with_reducible assumption
    | intro _ _
    | intro _
    | with_reducible apply State.tally_keeps

theorem State.bankWork_keeps {s x} {a1 a2} (h : Keeps s x) : Keeps s (State.bankWork x a1 a2) := by
  unfold State.bankWork
  repeat' first
    | with_reducible assumption
    | intro _ _
    | intro _
    | with_reducible apply State.tally_keeps

theorem State.loupeWrap_keeps {s x} {a1 a2 a3} (h : Keeps s x) : Keeps s (State.loupeWrap x a1 a2 a3) := by
  unfold State.loupeWrap
  repeat' first
    | with_reducible assumption
    | intro _ _
    | intro _
    | with_reducible apply Keeps.choose
    | with_reducible apply State.loupeAdd_keeps

theorem State.sampleOverflow_keeps {s x} {a1 a2} (h : Keeps s x) : Keeps s (State.sampleOverflow x a1 a2) := by
  unfold State.sampleOverflow
  repeat' first
    | with_reducible assumption
    | intro _ _
    | intro _
    | with_reducible apply Keeps.choose
    | with_reducible apply State.sampleAdd_keeps

theorem State.loupeStart_keeps {s x} (h : Keeps s x) : Keeps s (State.loupeStart x) := by
  unfold State.loupeStart
  repeat' first
    | with_reducible assumption
    | intro _ _
    | intro _
    | with_reducible apply Keeps.choose
    | with_reducible apply Keeps.upTo
    | with_reducible apply State.set_keeps
    | with_reducible apply State.setB_keeps
    | split
    | dsimp only
    | with_reducible apply Keeps.upd

theorem State.loupeEnd_keeps {s x} {a1} (h : Keeps s x) : Keeps s (State.loupeEnd x a1) := by
  unfold State.loupeEnd
  repeat' first
    | with_reducible assumption
    | intro _ _
    | intro _
    | with_reducible apply Keeps.upTo
    | with_reducible apply State.set_keeps
    | with_reducible apply State.setB_keeps
    | with_reducible apply State.event_keeps

theorem State.loupeStop_keeps {s x} (h : Keeps s x) : Keeps s (State.loupeStop x) := by
  unfold State.loupeStop
  repeat' first
    | with_reducible assumption
    | intro _ _
    | intro _
    | with_reducible apply Keeps.choose
    | with_reducible apply State.loupeEnd_keeps

theorem State.loupeWindowEnd_keeps {s x} (h : Keeps s x) : Keeps s (State.loupeWindowEnd x) := by
  unfold State.loupeWindowEnd
  repeat' first
    | with_reducible assumption
    | intro _ _
    | intro _
    | with_reducible apply Keeps.choose
    | with_reducible apply State.loupeEnd_keeps

theorem State.sampleCtrl_keeps {s x} {a1 a2} (h : Keeps s x) : Keeps s (State.sampleCtrl x a1 a2) := by
  unfold State.sampleCtrl
  repeat' first
    | with_reducible assumption
    | intro _ _
    | intro _
    | with_reducible apply Keeps.choose
    | with_reducible apply State.when_keeps
    | with_reducible apply State.set_keeps
    | with_reducible apply State.setB_keeps

theorem State.sampleReload_keeps {s x} {a1 a2} (h : Keeps s x) : Keeps s (State.sampleReload x a1 a2) := by
  unfold State.sampleReload
  repeat' first
    | with_reducible assumption
    | intro _ _
    | intro _
    | with_reducible apply Keeps.choose
    | with_reducible apply State.set_keeps
    | with_reducible apply State.setB_keeps

theorem State.bwCount_keeps {s x} {a1 a2 a3} (h : Keeps s x) : Keeps s (State.bwCount x a1 a2 a3) := by
  unfold State.bwCount
  repeat' first
    | with_reducible assumption
    | intro _ _
    | intro _
    | with_reducible apply Keeps.choose
    | split
    | dsimp only
    | with_reducible apply Keeps.upd

theorem State.bwUpdate_keeps {s x} {a1 a2 a3 a4 a5} (h : Keeps s x) : Keeps s (State.bwUpdate x a1 a2 a3 a4 a5) := by
  unfold State.bwUpdate
  repeat' first
    | with_reducible assumption
    | intro _ _
    | intro _
    | with_reducible apply State.set_keeps
    | split
    | dsimp only
    | with_reducible apply Keeps.upd

theorem State.bwEnd_keeps {s x} (h : Keeps s x) : Keeps s (State.bwEnd x) := by
  unfold State.bwEnd
  repeat' first
    | with_reducible assumption
    | intro _ _
    | intro _
    | with_reducible apply Keeps.choose
    | with_reducible apply Keeps.foldl
    | with_reducible apply Keeps.foldl_snd
    | with_reducible apply Keeps.foldl_fst
    | with_reducible apply Keeps.foldl_third
    | with_reducible apply State.bwUpdate_keeps
    | split
    | dsimp only
    | with_reducible apply Keeps.upd

/-! ### Machine/Cards.lean -/

theorem State.colPush_keeps {s x} {a1 a2} (h : Keeps s x) : Keeps s (State.colPush x a1 a2) := by
  unfold State.colPush
  repeat' first
    | with_reducible assumption
    | intro _ _
    | intro _
    | split
    | dsimp only
    | with_reducible apply Keeps.upd

theorem State.postcard_keeps {s x} {a1 a2 a3} (h : Keeps s x) : Keeps s (State.postcard x a1 a2 a3) := by
  unfold State.postcard
  repeat' first
    | with_reducible assumption
    | intro _ _
    | intro _
    | with_reducible apply Keeps.choose
    | with_reducible apply State.inc_keeps
    | with_reducible apply State.tally_keeps
    | with_reducible apply State.colPush_keeps

theorem State.hmSkip_keeps {s x} {a1 a2} (h : Keeps s x) : Keeps s (State.hmSkip x a1 a2) := by
  unfold State.hmSkip
  repeat' first
    | with_reducible assumption
    | intro _ _
    | intro _
    | with_reducible apply State.set_keeps
    | with_reducible apply State.setB_keeps
    | with_reducible apply State.inc_keeps

theorem State.cardSend_keeps {s x} {a1 a2} (h : Keeps s x) : Keeps s (State.cardSend x a1 a2) := by
  unfold State.cardSend
  repeat' first
    | with_reducible assumption
    | intro _ _
    | intro _
    | with_reducible apply Keeps.choose
    | with_reducible apply State.inc_keeps
    | with_reducible apply State.postcard_keeps
    | with_reducible apply State.hmSkip_keeps

theorem State.dropCard_keeps {s x} {a1} (h : Keeps s x) : Keeps s (State.dropCard x a1) := by
  unfold State.dropCard
  repeat' first
    | with_reducible assumption
    | intro _ _
    | intro _
    | with_reducible apply Keeps.choose
    | with_reducible apply State.cardSend_keeps

theorem State.dropCards_keeps {s x} {a1} (h : Keeps s x) : Keeps s (State.dropCards x a1) := by
  unfold State.dropCards
  repeat' first
    | with_reducible assumption
    | intro _ _
    | intro _
    | with_reducible apply Keeps.foldl
    | with_reducible apply Keeps.foldl_snd
    | with_reducible apply Keeps.foldl_fst
    | with_reducible apply Keeps.foldl_third
    | with_reducible apply State.dropCard_keeps

theorem State.txDrop_keeps {s x} {a1} (h : Keeps s x) : Keeps s (State.txDrop x a1) := by
  unfold State.txDrop
  repeat' first
    | with_reducible assumption
    | intro _ _
    | intro _
    | with_reducible apply State.when_keeps
    | with_reducible apply State.when_keeps
    | with_reducible apply State.dropCard_keeps
    | split

end Sys2Proof.Machine
end

