-- ==== Sys2Proof/Laws/KeepsBuffer.lean ====
section
/-!
SUPPORT. What the operations of Crucible, its banks, telemetry, the queue engine and the parser keep: one lemma for each.
-/
namespace Sys2Proof.Machine
set_option Elab.async false

/-! ### Machine/Crucible.lean -/

theorem State.putStore_keeps {s x} {a1 a2} (h : Keeps s x) : Keeps s (State.putStore x a1 a2) := by
  unfold State.putStore
  repeat' first
    | with_reducible assumption
    | intro _ _
    | intro _
    | split
    | dsimp only
    | with_reducible apply Keeps.upd

theorem State.setList_keeps {s x} {a1 a2} (h : Keeps s x) : Keeps s (State.setList x a1 a2) := by
  unfold State.setList
  repeat' first
    | with_reducible assumption
    | intro _ _
    | intro _
    | with_reducible apply Keeps.choose
    | split
    | dsimp only
    | with_reducible apply Keeps.upd

theorem State.pauseOwe_keeps {s x} {a1} (h : Keeps s x) : Keeps s (State.pauseOwe x a1) := by
  unfold State.pauseOwe
  repeat' first
    | with_reducible assumption
    | intro _ _
    | intro _
    | with_reducible apply Keeps.choose
    | split
    | dsimp only
    | with_reducible apply Keeps.upd

theorem State.xoffPut_keeps {s x} {a1 a2} (h : Keeps s x) : Keeps s (State.xoffPut x a1 a2) := by
  unfold State.xoffPut
  repeat' first
    | with_reducible assumption
    | intro _ _
    | intro _
    | with_reducible apply Keeps.choose
    | with_reducible apply State.when_keeps
    | with_reducible apply State.setB_keeps
    | with_reducible apply State.when_keeps
    | with_reducible apply State.tally_keeps
    | with_reducible apply State.pauseOwe_keeps
    | split
    | dsimp only
    | with_reducible apply Keeps.upd

theorem State.heldPut_keeps {s x} {a1 a2} (h : Keeps s x) : Keeps s (State.heldPut x a1 a2) := by
  unfold State.heldPut
  repeat' first
    | with_reducible assumption
    | intro _ _
    | intro _
    | with_reducible apply Keeps.choose
    | with_reducible apply State.setB_keeps

theorem State.xoffEval_keeps {s x} (h : Keeps s x) : Keeps s (State.xoffEval x) := by
  unfold State.xoffEval
  repeat' first
    | with_reducible assumption
    | intro _ _
    | intro _
    | with_reducible apply Keeps.choose
    | with_reducible apply Keeps.foldl
    | with_reducible apply Keeps.foldl_snd
    | with_reducible apply Keeps.foldl_fst
    | with_reducible apply Keeps.foldl_third
    | with_reducible apply State.xoffPut_keeps
    | with_reducible apply State.heldPut_keeps

theorem State.chargeSeg_keepsE {s x f p r t} (e : State.chargeSeg x f p = some (r, t)) (h : Keeps s x) : Keeps s t := by
  unfold State.chargeSeg at e
  dsimp only at e
  split at e <;> simp only [Option.some.injEq, Prod.mk.injEq, reduceCtorEq] at e
  all_goals (obtain ⟨-, rfl⟩ := e; exact State.xoffEval_keeps (State.set_keeps h))

theorem State.chargeSegs_keepsE {s x f p n r t} (e : State.chargeSegs x f p n = some (r, t)) (h : Keeps s x) :
    Keeps s t := by
  induction n generalizing x f with
  | zero => cases e; exact h
  | succ n ih =>
    simp only [State.chargeSegs] at e
    split at e
    · exact ih e (State.chargeSeg_keepsE (by assumption) h)
    · cases e

theorem State.uncharge_keeps {s x} {a1} (h : Keeps s x) : Keeps s (State.uncharge x a1) := by
  unfold State.uncharge
  repeat' first
    | with_reducible assumption
    | intro _ _
    | intro _
    | with_reducible apply State.set_keeps
    | with_reducible apply State.xoffEval_keeps

theorem State.setPool_keeps {s x} {a1 a2} (h : Keeps s x) : Keeps s (State.setPool x a1 a2) := by
  unfold State.setPool
  repeat' first
    | with_reducible assumption
    | intro _ _
    | intro _
    | split
    | dsimp only
    | with_reducible apply Keeps.upd

theorem State.takeIngot_keepsE {s x n r t} (e : State.takeIngot x n = some (r, t)) (h : Keeps s x) : Keeps s t := by
  unfold State.takeIngot at e
  dsimp only at e
  split at e
  · cases e; exact State.setPool_keeps h
  · split at e <;> cases e
    exact State.setPool_keeps h

theorem State.takeS_keeps {s x n} (h : Keeps s x) : Keeps s (State.takeS x n).2 := by
  induction n generalizing x with
  | zero => exact h
  | succ n ih =>
    simp only [State.takeS]
    split
    · exact ih (State.takeIngot_keepsE (by assumption) h)
    · exact h

theorem State.takeS_keepsE {s x n r t} (e : State.takeS x n = (r, t)) (h : Keeps s x) : Keeps s t := by
  have k := State.takeS_keeps (n := n) h
  rwa [e] at k

theorem State.giveIngot_keeps {s x} {a1} (h : Keeps s x) : Keeps s (State.giveIngot x a1) := by
  unfold State.giveIngot
  repeat' first
    | with_reducible assumption
    | intro _ _
    | intro _
    | with_reducible apply Keeps.choose
    | with_reducible apply State.setPool_keeps
    | split
    | dsimp only
    | with_reducible apply Keeps.upd

theorem State.allocDecl_keepsE {s x a b r q t} (e : State.allocDecl x a b = some (r, q, t)) (h : Keeps s x) :
    Keeps s t := by
  unfold State.allocDecl at e
  dsimp only at e
  split at e
  · split at e <;> cases e
    exact State.when_keeps (fun _ => State.inc_keeps) (State.inc_keeps (State.takeIngot_keepsE (by assumption) h))
  · cases e

theorem State.allocChain_keepsE {s x a b r t} (e : State.allocChain x a b = some (r, t)) (h : Keeps s x) : Keeps s t := by
  unfold State.allocChain at e
  by_cases c : (if b then ceilDiv a 256 else ceilDiv a 256 + x.get Reg.CRUC.HR_RESERVE) ≤ x.poolFreeCount 0
  · simp only [c, if_true] at e
    cases e
    exact State.inc_keeps (State.inc_keeps (State.takeS_keeps h))
  · simp only [c, if_false] at e
    cases e

theorem State.refuse_keeps {s x} {a1 a2} (h : Keeps s x) : Keeps s (State.refuse x a1 a2) := by
  unfold State.refuse
  repeat' first
    | with_reducible assumption
    | intro _ _
    | intro _
    | with_reducible apply State.inc_keeps
    | split
    | dsimp only
    | with_reducible apply Keeps.upd

theorem State.quarantine_keeps {s x} {a1} (h : Keeps s x) : Keeps s (State.quarantine x a1) := by
  unfold State.quarantine
  repeat' first
    | with_reducible assumption
    | intro _ _
    | intro _
    | with_reducible apply Keeps.choose
    | with_reducible apply State.setPool_keeps
    | split
    | dsimp only
    | with_reducible apply Keeps.upd

theorem State.handleErr_keeps {s x} {a1 a2} (h : Keeps s x) : Keeps s (State.handleErr x a1 a2) := by
  unfold State.handleErr
  repeat' first
    | with_reducible assumption
    | intro _ _
    | intro _
    | with_reducible apply State.set_keeps
    | with_reducible apply State.setB_keeps
    | with_reducible apply State.inc_keeps
    | with_reducible apply State.fault_keeps
    | with_reducible apply State.quarantine_keeps

theorem State.vacate_keeps {s x} {a1} (h : Keeps s x) : Keeps s (State.vacate x a1) := by
  unfold State.vacate
  repeat' first
    | with_reducible assumption
    | intro _ _
    | intro _
    | with_reducible apply Keeps.foldl
    | with_reducible apply Keeps.foldl_snd
    | with_reducible apply Keeps.foldl_fst
    | with_reducible apply Keeps.foldl_third
    | with_reducible apply State.giveIngot_keeps
    | split
    | dsimp only
    | with_reducible apply Keeps.upd

theorem State.release_keeps {s x} {a1} (h : Keeps s x) : Keeps s (State.release x a1) := by
  unfold State.release
  repeat' first
    | with_reducible assumption
    | intro _ _
    | intro _
    | with_reducible apply Keeps.choose
    | with_reducible apply State.uncharge_keeps
    | with_reducible apply State.handleErr_keeps
    | with_reducible apply State.vacate_keeps

theorem State.inflightDec_keeps {s x} {a1} (h : Keeps s x) : Keeps s (State.inflightDec x a1) := by
  unfold State.inflightDec
  repeat' first
    | with_reducible assumption
    | intro _ _
    | intro _
    | with_reducible apply State.set_keeps

theorem State.inflightInc_keeps {s x} {a1} (h : Keeps s x) : Keeps s (State.inflightInc x a1) := by
  unfold State.inflightInc
  repeat' first
    | with_reducible assumption
    | intro _ _
    | intro _
    | with_reducible apply State.set_keeps

theorem State.decRef_keeps {s x} {a1} (h : Keeps s x) : Keeps s (State.decRef x a1) := by
  unfold State.decRef
  repeat' first
    | with_reducible assumption
    | intro _ _
    | intro _
    | with_reducible apply Keeps.choose
    | with_reducible apply State.putStore_keeps
    | with_reducible apply State.handleErr_keeps
    | with_reducible apply State.release_keeps

theorem State.instEnd_keeps {s x} {a1} (h : Keeps s x) : Keeps s (State.instEnd x a1) := by
  unfold State.instEnd
  repeat' first
    | with_reducible assumption
    | intro _ _
    | intro _
    | with_reducible apply State.inflightDec_keeps
    | with_reducible apply State.decRef_keeps

theorem State.pullInsts_keeps {s x} {a1} (h : Keeps s x) : Keeps s (State.pullInsts x a1).2 := by
  unfold State.pullInsts
  repeat' first
    | with_reducible assumption
    | intro _ _
    | intro _
    | with_reducible apply State.dropCards_keeps
    | split
    | dsimp only
    | with_reducible apply Keeps.upd
theorem State.pullInsts_keepsE {s x} {a1} {r0 t} (e : State.pullInsts x a1 = (r0, t)) (h : Keeps s x) : Keeps s t := by
  have k := State.pullInsts_keeps (s := s) (x := x) (a1 := a1) h
  rwa [e] at k

theorem State.txStomp_keeps {s x} {a1 a2} (h : Keeps s x) : Keeps s (State.txStomp x a1 a2) := by
  unfold State.txStomp
  repeat' first
    | with_reducible assumption
    | intro _ _
    | intro _
    | with_reducible apply State.emit_keeps
    | with_reducible apply State.bwCount_keeps
    | with_reducible apply State.txDrop_keeps

theorem State.stompTx_keeps {s x} {a1} (h : Keeps s x) : Keeps s (State.stompTx x a1).2 := by
  unfold State.stompTx
  repeat' first
    | with_reducible assumption
    | intro _ _
    | intro _
    | with_reducible apply Keeps.foldl
    | with_reducible apply Keeps.foldl_snd
    | with_reducible apply Keeps.foldl_fst
    | with_reducible apply Keeps.foldl_third
    | with_reducible apply State.txStomp_keeps
    | split
    | dsimp only
    | with_reducible apply Keeps.upd
theorem State.stompTx_keepsE {s x} {a1} {r0 t} (e : State.stompTx x a1 = (r0, t)) (h : Keeps s x) : Keeps s t := by
  have k := State.stompTx_keeps (s := s) (x := x) (a1 := a1) h
  rwa [e] at k

theorem State.pullPkts_keeps {s x} {a1} (h : Keeps s x) : Keeps s (State.pullPkts x a1).2 := by
  unfold State.pullPkts
  repeat' first
    | with_reducible assumption
    | intro _ _
    | intro _
    | split
    | dsimp only
    | with_reducible apply Keeps.upd
theorem State.pullPkts_keepsE {s x} {a1} {r0 t} (e : State.pullPkts x a1 = (r0, t)) (h : Keeps s x) : Keeps s t := by
  have k := State.pullPkts_keeps (s := s) (x := x) (a1 := a1) h
  rwa [e] at k

theorem State.purge_keeps {s x} {a1} (h : Keeps s x) : Keeps s (State.purge x a1) := by
  unfold State.purge
  repeat' first
    | with_reducible assumption
    | intro _ _
    | intro _
    | with_reducible apply Keeps.iterate
    | with_reducible apply State.add_keeps
    | with_reducible apply State.release_keeps
    | with_reducible apply State.inflightDec_keeps
    | with_reducible apply State.pullInsts_keeps
    | with_reducible apply State.stompTx_keeps
    | with_reducible apply State.pullPkts_keeps
    | refine State.pullInsts_keepsE (by with_reducible assumption) ?_
    | refine State.stompTx_keepsE (by with_reducible assumption) ?_
    | refine State.pullPkts_keepsE (by with_reducible assumption) ?_
    | split
    | dsimp only
    | with_reducible apply Keeps.upd

theorem State.discardWhere_keeps {s x} {a1 a2} (h : Keeps s x) : Keeps s (State.discardWhere x a1 a2).2 := by
  unfold State.discardWhere
  repeat' first
    | with_reducible assumption
    | intro _ _
    | intro _
    | with_reducible apply Keeps.foldl
    | with_reducible apply Keeps.foldl_snd
    | with_reducible apply Keeps.foldl_fst
    | with_reducible apply Keeps.foldl_third
    | with_reducible apply State.release_keeps
    | with_reducible apply State.inflightDec_keeps
    | with_reducible apply State.instEnd_keeps
    | with_reducible apply State.pullInsts_keeps
    | with_reducible apply State.stompTx_keeps
    | with_reducible apply State.pullPkts_keeps
theorem State.discardWhere_keepsE {s x} {a1 a2} {r0 t} (e : State.discardWhere x a1 a2 = (r0, t)) (h : Keeps s x) :
    Keeps s t := by
  have k := State.discardWhere_keeps (s := s) (x := x) (a1 := a1) (a2 := a2) h
  rwa [e] at k

theorem State.discardPackets_keeps {s x} (h : Keeps s x) : Keeps s (State.discardPackets x).2 := by
  unfold State.discardPackets
  repeat' first
    | with_reducible assumption
    | intro _ _
    | intro _
    | with_reducible apply Keeps.foldl
    | with_reducible apply Keeps.foldl_snd
    | with_reducible apply Keeps.foldl_fst
    | with_reducible apply Keeps.foldl_third
    | with_reducible apply State.uncharge_keeps
    | with_reducible apply State.release_keeps
    | with_reducible apply State.discardWhere_keeps
    | refine State.discardWhere_keepsE (by with_reducible assumption) ?_
    | split
    | dsimp only
    | with_reducible apply Keeps.upd
theorem State.discardPackets_keepsE {s x} {r0 t} (e : State.discardPackets x = (r0, t)) (h : Keeps s x) : Keeps s t := by
  have k := State.discardPackets_keeps (s := s) (x := x) h
  rwa [e] at k

/-! ### Machine/Banks.lean -/

theorem State.bankDegrade_keeps {s x} {a1} (h : Keeps s x) : Keeps s (State.bankDegrade x a1) := by
  unfold State.bankDegrade
  repeat' first
    | with_reducible assumption
    | intro _ _
    | intro _
    | with_reducible apply Keeps.choose
    | with_reducible apply State.setB_keeps
    | with_reducible apply State.fault_keeps
    | split
    | dsimp only
    | with_reducible apply Keeps.upd

theorem State.migTrigger_keeps {s x} {a1 a2} (h : Keeps s x) : Keeps s (State.migTrigger x a1 a2) := by
  unfold State.migTrigger
  repeat' first
    | with_reducible assumption
    | intro _ _
    | intro _
    | with_reducible apply Keeps.choose
    | with_reducible apply State.bankDegrade_keeps
    | split
    | dsimp only
    | with_reducible apply Keeps.upd

theorem State.wordCorrected_keeps {s x} {a1} (h : Keeps s x) : Keeps s (State.wordCorrected x a1) := by
  unfold State.wordCorrected
  repeat' first
    | with_reducible assumption
    | intro _ _
    | intro _
    | with_reducible apply Keeps.choose
    | with_reducible apply State.inc_keeps
    | with_reducible apply State.migTrigger_keeps
    | split
    | dsimp only
    | with_reducible apply Keeps.upd

theorem State.wordRebuilt_keeps {s x} {a1} (h : Keeps s x) : Keeps s (State.wordRebuilt x a1) := by
  unfold State.wordRebuilt
  repeat' first
    | with_reducible assumption
    | intro _ _
    | intro _
    | with_reducible apply State.inc_keeps
    | with_reducible apply State.migTrigger_keeps

theorem State.readRow_keeps {s x} {a1 a2 a3 a4} (h : Keeps s x) : Keeps s (State.readRow x a1 a2 a3 a4).2 := by
  unfold State.readRow
  repeat' first
    | with_reducible assumption
    | intro _ _
    | intro _
    | with_reducible apply Keeps.choose
    | with_reducible apply Keeps.foldl
    | with_reducible apply Keeps.foldl_snd
    | with_reducible apply Keeps.foldl_fst
    | with_reducible apply Keeps.foldl_third
    | with_reducible apply State.inc_keeps
    | with_reducible apply State.fault_keeps
    | with_reducible apply State.faultInjected_keeps
    | with_reducible apply State.wordCorrected_keeps
    | with_reducible apply State.wordRebuilt_keeps
    | split
    | dsimp only
theorem State.readRow_keepsE {s x} {a1 a2 a3 a4} {r0 t} (e : State.readRow x a1 a2 a3 a4 = (r0, t)) (h : Keeps s x) :
    Keeps s t := by
  have k := State.readRow_keeps (s := s) (x := x) (a1 := a1) (a2 := a2) (a3 := a3) (a4 := a4) h
  rwa [e] at k

theorem State.readFrame_keeps {s x} {a1 a2 a3 a4 a5} (h : Keeps s x) : Keeps s (State.readFrame x a1 a2 a3 a4 a5).2 := by
  unfold State.readFrame
  repeat' first
    | with_reducible assumption
    | intro _ _
    | intro _
    | with_reducible apply Keeps.choose
    | with_reducible apply Keeps.foldl
    | with_reducible apply Keeps.foldl_snd
    | with_reducible apply Keeps.foldl_fst
    | with_reducible apply Keeps.foldl_third
    | with_reducible apply State.tally_keeps
    | with_reducible apply State.readRow_keeps
    | refine State.readRow_keepsE (by with_reducible assumption) ?_
    | split
    | dsimp only
theorem State.readFrame_keepsE {s x} {a1 a2 a3 a4 a5} {r0 t} (e : State.readFrame x a1 a2 a3 a4 a5 = (r0, t)) (h : Keeps s x) :
    Keeps s t := by
  have k := State.readFrame_keeps (s := s) (x := x) (a1 := a1) (a2 := a2) (a3 := a3) (a4 := a4) (a5 := a5) h
  rwa [e] at k

theorem State.segsWritten_keeps {s x} {a1 a2 a3} (h : Keeps s x) : Keeps s (State.segsWritten x a1 a2 a3) := by
  unfold State.segsWritten
  repeat' first
    | with_reducible assumption
    | intro _ _
    | intro _
    | with_reducible apply Keeps.choose
    | with_reducible apply State.putStore_keeps
    | split
    | dsimp only
    | with_reducible apply Keeps.upd

theorem State.migrateCmd_keeps {s x} {a1} (h : Keeps s x) : Keeps s (State.migrateCmd x a1) := by
  unfold State.migrateCmd
  repeat' first
    | with_reducible assumption
    | intro _ _
    | intro _
    | with_reducible apply Keeps.choose
    | with_reducible apply State.migTrigger_keeps

theorem State.migStart_keeps {s x} (h : Keeps s x) : Keeps s (State.migStart x) := by
  unfold State.migStart
  repeat' first
    | with_reducible assumption
    | intro _ _
    | intro _
    | with_reducible apply Keeps.choose
    | with_reducible apply State.set_keeps
    | with_reducible apply State.setB_keeps
    | with_reducible apply State.bankDegrade_keeps
    | split
    | dsimp only
    | with_reducible apply Keeps.upd

theorem State.migRow_keeps {s x} (h : Keeps s x) : Keeps s (State.migRow x) := by
  unfold State.migRow
  repeat' first
    | with_reducible assumption
    | intro _ _
    | intro _
    | with_reducible apply Keeps.choose
    | split
    | dsimp only
    | with_reducible apply Keeps.upd

theorem State.flipsDrop_keeps {s x} {a1} (h : Keeps s x) : Keeps s (State.flipsDrop x a1) := by
  unfold State.flipsDrop
  repeat' first
    | with_reducible assumption
    | intro _ _
    | intro _
    | split
    | dsimp only
    | with_reducible apply Keeps.upd

theorem State.migDone_keeps {s x} {a1} (h : Keeps s x) : Keeps s (State.migDone x a1) := by
  unfold State.migDone
  repeat' first
    | with_reducible assumption
    | intro _ _
    | intro _
    | with_reducible apply Keeps.choose
    | with_reducible apply State.set_keeps
    | with_reducible apply State.setB_keeps
    | with_reducible apply State.event_keeps
    | with_reducible apply State.storeWrite_keeps
    | with_reducible apply State.flipsDrop_keeps
    | refine State.storeWrite_keepsE (by with_reducible assumption) ?_
    | split
    | dsimp only
    | with_reducible apply Keeps.upd

theorem State.migrationAbandon_keeps {s x} (h : Keeps s x) : Keeps s (State.migrationAbandon x) := by
  unfold State.migrationAbandon
  repeat' first
    | with_reducible assumption
    | intro _ _
    | intro _
    | with_reducible apply State.setB_keeps
    | split
    | dsimp only
    | with_reducible apply Keeps.upd

/-! ### Machine/Telemetry.lean -/

theorem State.setDeltas_keeps {s x} {a1 a2} (h : Keeps s x) : Keeps s (State.setDeltas x a1 a2) := by
  unfold State.setDeltas
  repeat' first
    | with_reducible assumption
    | intro _ _
    | intro _
    | with_reducible apply Keeps.choose
    | split
    | dsimp only
    | with_reducible apply Keeps.upd

theorem State.faultAt_keeps {s x} {a1 a2 a3 a4} (h : Keeps s x) : Keeps s (State.faultAt x a1 a2 a3 a4) := by
  unfold State.faultAt
  repeat' first
    | with_reducible assumption
    | intro _ _
    | intro _
    | with_reducible apply Keeps.choose
    | with_reducible apply State.fault_keeps
    | with_reducible apply State.faultInjected_keeps

theorem State.pairAdd_keeps {s x} {a1 a2} (h : Keeps s x) : Keeps s (State.pairAdd x a1 a2) := by
  unfold State.pairAdd
  repeat' first
    | with_reducible assumption
    | intro _ _
    | intro _
    | with_reducible apply Keeps.choose
    | with_reducible apply State.inc_keeps
    | with_reducible apply State.memSet_keeps
    | with_reducible apply State.qdrOp_keeps
    | with_reducible apply State.faultAt_keeps

theorem State.deltaFlush_keeps {s x} {a1 a2 a3} (h : Keeps s x) : Keeps s (State.deltaFlush x a1 a2 a3) := by
  unfold State.deltaFlush
  repeat' first
    | with_reducible assumption
    | intro _ _
    | intro _
    | with_reducible apply State.tally_keeps
    | with_reducible apply State.setDeltas_keeps
    | with_reducible apply State.pairAdd_keeps
    | split

theorem State.deltaPost_keeps {s x} {a1 a2 a3} (h : Keeps s x) : Keeps s (State.deltaPost x a1 a2 a3) := by
  unfold State.deltaPost
  repeat' first
    | with_reducible assumption
    | intro _ _
    | intro _
    | with_reducible apply State.when_keeps
    | with_reducible apply State.when_keeps
    | with_reducible apply State.setDeltas_keeps
    | with_reducible apply State.deltaFlush_keeps
    | split

theorem State.count_keeps {s x} {a1 a2 a3} (h : Keeps s x) : Keeps s (State.count x a1 a2 a3) := by
  unfold State.count
  repeat' first
    | with_reducible assumption
    | intro _ _
    | intro _
    | with_reducible apply Keeps.choose
    | with_reducible apply State.inc_keeps
    | with_reducible apply State.putStore_keeps
    | with_reducible apply State.deltaPost_keeps

theorem State.counterFlush_keeps {s x} (h : Keeps s x) : Keeps s (State.counterFlush x) := by
  unfold State.counterFlush
  repeat' first
    | with_reducible assumption
    | intro _ _
    | intro _
    | with_reducible apply State.setB_keeps
    | split
    | dsimp only
    | with_reducible apply Keeps.upd

theorem State.counterFlushDone_keeps {s x} (h : Keeps s x) : Keeps s (State.counterFlushDone x) := by
  unfold State.counterFlushDone
  repeat' first
    | with_reducible assumption
    | intro _ _
    | intro _
    | with_reducible apply Keeps.choose
    | with_reducible apply Keeps.foldl
    | with_reducible apply Keeps.foldl_snd
    | with_reducible apply Keeps.foldl_fst
    | with_reducible apply Keeps.foldl_third
    | with_reducible apply State.setB_keeps
    | with_reducible apply State.event_keeps
    | with_reducible apply State.deltaFlush_keeps
    | split
    | dsimp only
    | with_reducible apply Keeps.upd

theorem State.flushPass_keeps {s x} (h : Keeps s x) : Keeps s (State.flushPass x) := by
  unfold State.flushPass
  repeat' first
    | with_reducible assumption
    | intro _ _
    | intro _
    | with_reducible apply State.when_keeps
    | with_reducible apply State.set_keeps
    | with_reducible apply State.when_keeps
    | with_reducible apply State.passEnd_keeps
    | with_reducible apply State.coverMiss_keeps
    | refine State.passEnd_keepsE (by with_reducible assumption) ?_
    | split
    | dsimp only

theorem State.flushStep_keeps {s x} {a1 a2} (h : Keeps s x) : Keeps s (State.flushStep x a1 a2) := by
  unfold State.flushStep
  repeat' first
    | with_reducible assumption
    | intro _ _
    | intro _
    | with_reducible apply Keeps.choose
    | with_reducible apply Keeps.foldl
    | with_reducible apply Keeps.foldl_snd
    | with_reducible apply Keeps.foldl_fst
    | with_reducible apply Keeps.foldl_third
    | with_reducible apply Keeps.upTo
    | with_reducible apply State.deltaFlush_keeps
    | with_reducible apply State.flushPass_keeps
    | split
    | dsimp only
    | with_reducible apply Keeps.upd

theorem State.fsStamp_keeps {s x} {a1} (h : Keeps s x) : Keeps s (State.fsStamp x a1) := by
  unfold State.fsStamp
  repeat' first
    | with_reducible assumption
    | intro _ _
    | intro _
    | with_reducible apply Keeps.choose
    | split
    | dsimp only
    | with_reducible apply Keeps.upd

theorem State.fsPop_keeps {s x} {a1 a2} (h : Keeps s x) : Keeps s (State.fsPop x a1 a2) := by
  unfold State.fsPop
  repeat' first
    | with_reducible assumption
    | intro _ _
    | intro _
    | with_reducible apply State.set_keeps
    | split
    | dsimp only
    | with_reducible apply Keeps.upd

theorem State.fsWrite_keeps {s x} {a1 a2} (h : Keeps s x) : Keeps s (State.fsWrite x a1 a2) := by
  unfold State.fsWrite
  repeat' first
    | with_reducible assumption
    | intro _ _
    | intro _
    | with_reducible apply Keeps.choose
    | with_reducible apply State.set_keeps
    | with_reducible apply State.inc_keeps
    | with_reducible apply State.memStore_keeps
    | with_reducible apply State.qdrOp_keeps
    | with_reducible apply State.fsStamp_keeps
    | with_reducible apply State.fsPop_keeps

theorem State.flowEvict_keeps {s x} {a1 a2} (h : Keeps s x) : Keeps s (State.flowEvict x a1 a2) := by
  unfold State.flowEvict
  repeat' first
    | with_reducible assumption
    | intro _ _
    | intro _
    | with_reducible apply State.inc_keeps
    | with_reducible apply State.tally_keeps
    | with_reducible apply State.fsWrite_keeps
    | split
    | dsimp only
    | with_reducible apply Keeps.upd

theorem State.putFlow_keeps {s x} {a1 a2} (h : Keeps s x) : Keeps s (State.putFlow x a1 a2) := by
  unfold State.putFlow
  repeat' first
    | with_reducible assumption
    | intro _ _
    | intro _
    | split
    | dsimp only
    | with_reducible apply Keeps.upd

theorem State.flowFold_keeps {s x} {a1 a2} (h : Keeps s x) : Keeps s (State.flowFold x a1 a2) := by
  unfold State.flowFold
  repeat' first
    | with_reducible assumption
    | intro _ _
    | intro _
    | with_reducible apply Keeps.choose
    | with_reducible apply State.set_keeps
    | with_reducible apply State.add_keeps
    | with_reducible apply State.tally_keeps
    | with_reducible apply State.flowEvict_keeps
    | with_reducible apply State.putFlow_keeps
    | split
    | dsimp only

theorem State.flowBad_keeps {s x} {a1} (h : Keeps s x) : Keeps s (State.flowBad x a1) := by
  unfold State.flowBad
  repeat' first
    | with_reducible assumption
    | intro _ _
    | intro _
    | with_reducible apply Keeps.choose
    | with_reducible apply State.inc_keeps
    | with_reducible apply State.fault_keeps
    | split
    | dsimp only
    | with_reducible apply Keeps.upd

theorem State.flowExpire_keeps {s x} {a1 a2} (h : Keeps s x) : Keeps s (State.flowExpire x a1 a2) := by
  unfold State.flowExpire
  repeat' first
    | with_reducible assumption
    | intro _ _
    | intro _
    | with_reducible apply State.flowEvict_keeps
    | split

theorem State.setExpire_keeps {s x} {a1} (h : Keeps s x) : Keeps s (State.setExpire x a1) := by
  unfold State.setExpire
  repeat' first
    | with_reducible assumption
    | intro _ _
    | intro _
    | with_reducible apply Keeps.upTo
    | with_reducible apply State.set_keeps
    | with_reducible apply State.flowExpire_keeps
    | split

theorem State.exportStep_keeps {s x} {a1 a2} (h : Keeps s x) : Keeps s (State.exportStep x a1 a2) := by
  unfold State.exportStep
  repeat' first
    | with_reducible assumption
    | intro _ _
    | intro _
    | with_reducible apply Keeps.foldl
    | with_reducible apply Keeps.foldl_snd
    | with_reducible apply Keeps.foldl_fst
    | with_reducible apply Keeps.foldl_third
    | with_reducible apply Keeps.upTo
    | with_reducible apply State.set_keeps
    | with_reducible apply State.flowBad_keeps
    | with_reducible apply State.setExpire_keeps

theorem State.fsReadPtr_keeps {s x} {a1 a2} (h : Keeps s x) : Keeps s (State.fsReadPtr x a1 a2) := by
  unfold State.fsReadPtr
  repeat' first
    | with_reducible assumption
    | intro _ _
    | intro _
    | with_reducible apply Keeps.choose
    | with_reducible apply State.set_keeps

theorem State.batchSend_keeps {s x} {a1} (h : Keeps s x) : Keeps s (State.batchSend x a1) := by
  unfold State.batchSend
  repeat' first
    | with_reducible assumption
    | intro _ _
    | intro _
    | with_reducible apply Keeps.choose
    | with_reducible apply State.qdrOp_keeps
    | with_reducible apply State.tally_keeps
    | with_reducible apply State.colPush_keeps
    | with_reducible apply State.fsPop_keeps

/-! ### Machine/Queues.lean -/

theorem State.putBucket_keeps {s x} {a1 a2} (h : Keeps s x) : Keeps s (State.putBucket x a1 a2) := by
  unfold State.putBucket
  repeat' first
    | with_reducible assumption
    | intro _ _
    | intro _
    | split
    | dsimp only
    | with_reducible apply Keeps.upd

theorem State.shaperMove_keeps {s x} {a1 a2} (h : Keeps s x) : Keeps s (State.shaperMove x a1 a2) := by
  unfold State.shaperMove
  repeat' first
    | with_reducible assumption
    | intro _ _
    | intro _
    | with_reducible apply Keeps.choose
    | with_reducible apply State.putBucket_keeps

theorem State.shaperCharge_keeps {s x} {a1 a2} (h : Keeps s x) : Keeps s (State.shaperCharge x a1 a2) := by
  unfold State.shaperCharge
  repeat' first
    | with_reducible assumption
    | intro _ _
    | intro _
    | with_reducible apply State.shaperMove_keeps

theorem State.debtRepaid_keeps {s x} {a1} (h : Keeps s x) : Keeps s (State.debtRepaid x a1) := by
  unfold State.debtRepaid
  repeat' first
    | with_reducible assumption
    | intro _ _
    | intro _
    | with_reducible apply Keeps.choose
    | with_reducible apply State.putBucket_keeps

theorem State.slowPut_keeps {s x} {a1 a2 a3} (h : Keeps s x) : Keeps s (State.slowPut x a1 a2 a3) := by
  unfold State.slowPut
  repeat' first
    | with_reducible assumption
    | intro _ _
    | intro _
    | split
    | dsimp only
    | with_reducible apply Keeps.upd

theorem State.slowPass_keeps {s x} {a1 a2} (h : Keeps s x) : Keeps s (State.slowPass x a1 a2).2 := by
  unfold State.slowPass
  repeat' first
    | with_reducible assumption
    | intro _ _
    | intro _
    | with_reducible apply Keeps.choose
    | with_reducible apply State.inc_keeps
    | with_reducible apply State.tally_keeps
    | with_reducible apply State.slowPut_keeps
    | split
    | dsimp only
theorem State.slowPass_keepsE {s x} {a1 a2} {r0 t} (e : State.slowPass x a1 a2 = (r0, t)) (h : Keeps s x) : Keeps s t := by
  have k := State.slowPass_keeps (s := s) (x := x) (a1 := a1) (a2 := a2) h
  rwa [e] at k

theorem State.policerMark_keeps {s x} {a1 a2 a3} (h : Keeps s x) : Keeps s (State.policerMark x a1 a2 a3).2 := by
  unfold State.policerMark
  repeat' first
    | with_reducible assumption
    | intro _ _
    | intro _
    | with_reducible apply Keeps.choose
    | with_reducible apply State.putBucket_keeps
    | split
    | dsimp only
theorem State.policerMark_keepsE {s x} {a1 a2 a3} {r0 t} (e : State.policerMark x a1 a2 a3 = (r0, t)) (h : Keeps s x) :
    Keeps s t := by
  have k := State.policerMark_keeps (s := s) (x := x) (a1 := a1) (a2 := a2) (a3 := a3) h
  rwa [e] at k

theorem State.policerEval_keeps {s x} {a1 a2 a3 a4 a5} (h : Keeps s x) :
    Keeps s (State.policerEval x a1 a2 a3 a4 a5).2.2 := by
  unfold State.policerEval
  repeat' first
    | with_reducible assumption
    | intro _ _
    | intro _
    | with_reducible apply State.when_keeps
    | with_reducible apply State.inc_keeps
    | with_reducible apply State.when_keeps
    | with_reducible apply State.count_keeps
    | with_reducible apply State.policerMark_keeps
theorem State.policerEval_keepsE {s x} {a1 a2 a3 a4 a5} {r0 r1 t} (e : State.policerEval x a1 a2 a3 a4 a5 = (r0, r1, t)) (h : Keeps s x) :
    Keeps s t := by
  have k := State.policerEval_keeps (s := s) (x := x) (a1 := a1) (a2 := a2) (a3 := a3) (a4 := a4) (a5 := a5) h
  rwa [e] at k

theorem State.setQueue_keeps {s x} {a1 a2} (h : Keeps s x) : Keeps s (State.setQueue x a1 a2) := by
  unfold State.setQueue
  repeat' first
    | with_reducible assumption
    | intro _ _
    | intro _
    | with_reducible apply Keeps.choose
    | split
    | dsimp only
    | with_reducible apply Keeps.upd

theorem State.ecnDecide_keeps {s x} {a1 a2} (h : Keeps s x) : Keeps s (State.ecnDecide x a1 a2).2 := by
  unfold State.ecnDecide
  repeat' first
    | with_reducible assumption
    | intro _ _
    | intro _
    | with_reducible apply Keeps.choose
    | with_reducible apply State.draw_keeps
    | split
    | dsimp only
theorem State.ecnDecide_keepsE {s x} {a1 a2} {r0 t} (e : State.ecnDecide x a1 a2 = (r0, t)) (h : Keeps s x) :
    Keeps s t := by
  have k := State.ecnDecide_keeps (s := s) (x := x) (a1 := a1) (a2 := a2) h
  rwa [e] at k

theorem State.link_keeps {s x} {a1} (h : Keeps s x) : Keeps s (State.link x a1) := by
  unfold State.link
  repeat' first
    | with_reducible assumption
    | intro _ _
    | intro _
    | with_reducible apply Keeps.choose
    | with_reducible apply State.when_keeps
    | with_reducible apply State.inc_keeps
    | with_reducible apply State.when_keeps
    | with_reducible apply State.tally_keeps
    | with_reducible apply State.handleErr_keeps
    | with_reducible apply State.inflightDec_keeps
    | with_reducible apply State.instEnd_keeps
    | with_reducible apply State.setQueue_keeps
    | with_reducible apply State.ecnDecide_keeps

theorem State.setHolds_keeps {s x} {a1 a2} (h : Keeps s x) : Keeps s (State.setHolds x a1 a2) := by
  unfold State.setHolds
  repeat' first
    | with_reducible assumption
    | intro _ _
    | intro _
    | with_reducible apply Keeps.choose
    | split
    | dsimp only
    | with_reducible apply Keeps.upd

theorem State.holdPut_keeps {s x} {a1 a2 a3 a4} (h : Keeps s x) : Keeps s (State.holdPut x a1 a2 a3 a4) := by
  unfold State.holdPut
  repeat' first
    | with_reducible assumption
    | intro _ _
    | intro _
    | with_reducible apply State.when_keeps
    | with_reducible apply State.inc_keeps
    | with_reducible apply State.when_keeps
    | with_reducible apply State.setHolds_keeps

theorem State.holdJoin_keeps {s x} {a1 a2} (h : Keeps s x) : Keeps s (State.holdJoin x a1 a2) := by
  unfold State.holdJoin
  repeat' first
    | with_reducible assumption
    | intro _ _
    | intro _
    | with_reducible apply State.holdPut_keeps

theorem State.downDiscard_keeps {s x} {a1} (h : Keeps s x) : Keeps s (State.downDiscard x a1) := by
  unfold State.downDiscard
  repeat' first
    | with_reducible assumption
    | intro _ _
    | intro _
    | with_reducible apply Keeps.choose
    | with_reducible apply State.inc_keeps
    | with_reducible apply State.instEnd_keeps

theorem State.enqueue_keeps {s x} {a1} (h : Keeps s x) : Keeps s (State.enqueue x a1) := by
  unfold State.enqueue
  repeat' first
    | with_reducible assumption
    | intro _ _
    | intro _
    | with_reducible apply Keeps.choose
    | with_reducible apply State.inc_keeps
    | with_reducible apply State.instEnd_keeps
    | with_reducible apply State.link_keeps
    | with_reducible apply State.holdJoin_keeps
    | with_reducible apply State.downDiscard_keeps

theorem State.setResidue_keeps {s x} {a1 a2} (h : Keeps s x) : Keeps s (State.setResidue x a1 a2) := by
  unfold State.setResidue
  repeat' first
    | with_reducible assumption
    | intro _ _
    | intro _
    | with_reducible apply Keeps.choose
    | split
    | dsimp only
    | with_reducible apply Keeps.upd

theorem State.replicate_keeps {s x i g full l} (h : Keeps s x) : Keeps s (State.replicate x i g full l) := by
  induction l generalizing x with
  | nil => exact h
  | cons n rest ih =>
    simp only [State.replicate]
    split
    · exact State.inc_keeps (State.holdPut_keeps h)
    · split
      · exact ih (State.instEnd_keeps (State.inc_keeps h))
      · split
        · exact ih (State.downDiscard_keeps h)
        · split
          · exact ih (State.link_keeps h)
          · exact ih (State.setResidue_keeps h)

theorem State.multicast_keeps {s x} {a1 a2 a3} (h : Keeps s x) : Keeps s (State.multicast x a1 a2 a3) := by
  unfold State.multicast
  repeat' first
    | with_reducible assumption
    | intro _ _
    | intro _
    | with_reducible apply Keeps.choose
    | with_reducible apply State.holdJoin_keeps
    | with_reducible apply State.replicate_keeps

theorem State.holdServe_keeps {s x} {a1} (h : Keeps s x) : Keeps s (State.holdServe x a1) := by
  unfold State.holdServe
  repeat' first
    | with_reducible assumption
    | intro _ _
    | intro _
    | with_reducible apply Keeps.choose
    | with_reducible apply State.link_keeps
    | with_reducible apply State.setHolds_keeps
    | with_reducible apply State.downDiscard_keeps
    | with_reducible apply State.replicate_keeps
    | split

theorem State.replResume_keeps {s x} {a1} (h : Keeps s x) : Keeps s (State.replResume x a1) := by
  unfold State.replResume
  repeat' first
    | with_reducible assumption
    | intro _ _
    | intro _
    | with_reducible apply State.holdServe_keeps
    | split

theorem State.residueLink_keeps {s x} {a1} (h : Keeps s x) : Keeps s (State.residueLink x a1) := by
  unfold State.residueLink
  repeat' first
    | with_reducible assumption
    | intro _ _
    | intro _
    | with_reducible apply Keeps.choose
    | with_reducible apply State.link_keeps
    | with_reducible apply State.setResidue_keeps
    | split

theorem State.flushPort_keeps {s x} {a1} (h : Keeps s x) : Keeps s (State.flushPort x a1) := by
  unfold State.flushPort
  repeat' first
    | with_reducible assumption
    | intro _ _
    | intro _
    | with_reducible apply Keeps.choose
    | with_reducible apply Keeps.foldl
    | with_reducible apply Keeps.foldl_snd
    | with_reducible apply Keeps.foldl_fst
    | with_reducible apply Keeps.foldl_third
    | with_reducible apply State.add_keeps
    | with_reducible apply State.dropCards_keeps
    | with_reducible apply State.instEnd_keeps
    | split
    | dsimp only
    | with_reducible apply Keeps.upd

theorem State.portHold_keeps {s x} {a1} (h : Keeps s x) : Keeps s (State.portHold x a1) := by
  unfold State.portHold
  repeat' first
    | with_reducible assumption
    | intro _ _
    | intro _
    | with_reducible apply Keeps.choose
    | with_reducible apply State.setB_keeps
    | with_reducible apply State.link_keeps
    | with_reducible apply State.flushPort_keeps
    | split
    | dsimp only
    | with_reducible apply Keeps.upd

theorem State.holdExpire_keeps {s x} {a1} (h : Keeps s x) : Keeps s (State.holdExpire x a1) := by
  unfold State.holdExpire
  repeat' first
    | with_reducible assumption
    | intro _ _
    | intro _
    | with_reducible apply Keeps.choose
    | with_reducible apply State.setB_keeps
    | with_reducible apply State.link_keeps
    | with_reducible apply State.flushPort_keeps

theorem State.actionErr_keeps {s x} {a1 a2 a3 a4 a5} (h : Keeps s x) : Keeps s (State.actionErr x a1 a2 a3 a4 a5) := by
  unfold State.actionErr
  repeat' first
    | with_reducible assumption
    | intro _ _
    | intro _
    | with_reducible apply State.set_keeps
    | with_reducible apply State.setB_keeps
    | with_reducible apply State.inc_keeps
    | with_reducible apply State.fault_keeps
    | with_reducible apply State.tally_keeps

theorem State.fateForward_keeps {s x} {a1 a2} (h : Keeps s x) : Keeps s (State.fateForward x a1 a2).2 := by
  unfold State.fateForward
  repeat' first
    | with_reducible assumption
    | intro _ _
    | intro _
    | with_reducible apply Keeps.choose
    | with_reducible apply State.inc_keeps
    | with_reducible apply State.fault_keeps
    | split
    | dsimp only
theorem State.fateForward_keepsE {s x} {a1 a2} {r0 t} (e : State.fateForward x a1 a2 = (r0, t)) (h : Keeps s x) :
    Keeps s t := by
  have k := State.fateForward_keeps (s := s) (x := x) (a1 := a1) (a2 := a2) h
  rwa [e] at k

theorem State.fateCpu_keeps {s x} {a1 a2 a3 a4 a5} (h : Keeps s x) : Keeps s (State.fateCpu x a1 a2 a3 a4 a5).2 := by
  unfold State.fateCpu
  repeat' first
    | with_reducible assumption
    | intro _ _
    | intro _
    | with_reducible apply State.slowPass_keeps
    | refine State.slowPass_keepsE (by with_reducible assumption) ?_
    | split
theorem State.fateCpu_keepsE {s x} {a1 a2 a3 a4 a5} {r0 t} (e : State.fateCpu x a1 a2 a3 a4 a5 = (r0, t)) (h : Keeps s x) :
    Keeps s t := by
  have k := State.fateCpu_keeps (s := s) (x := x) (a1 := a1) (a2 := a2) (a3 := a3) (a4 := a4) (a5 := a5) h
  rwa [e] at k

theorem State.fate_keeps {s x} {a1 a2 a3} (h : Keeps s x) : Keeps s (State.fate x a1 a2 a3).2.2 := by
  unfold State.fate
  repeat' first
    | with_reducible assumption
    | intro _ _
    | intro _
    | with_reducible apply Keeps.choose
    | with_reducible apply State.inc_keeps
    | with_reducible apply State.policerEval_keeps
    | with_reducible apply State.fateForward_keeps
    | with_reducible apply State.fateCpu_keeps
    | refine State.policerEval_keepsE (by with_reducible assumption) ?_
    | refine State.fateForward_keepsE (by with_reducible assumption) ?_
    | refine State.fateCpu_keepsE (by with_reducible assumption) ?_
    | split
    | dsimp only
theorem State.fate_keepsE {s x} {a1 a2 a3} {r0 r1 t} (e : State.fate x a1 a2 a3 = (r0, r1, t)) (h : Keeps s x) :
    Keeps s t := by
  have k := State.fate_keeps (s := s) (x := x) (a1 := a1) (a2 := a2) (a3 := a3) h
  rwa [e] at k

theorem State.setRefs_keeps {s x} {a1 a2} (h : Keeps s x) : Keeps s (State.setRefs x a1 a2) := by
  unfold State.setRefs
  repeat' first
    | with_reducible assumption
    | intro _ _
    | intro _
    | with_reducible apply Keeps.choose
    | with_reducible apply State.set_keeps
    | with_reducible apply State.putStore_keeps
    | with_reducible apply State.release_keeps
    | with_reducible apply State.inflightDec_keeps

theorem State.launchCapture_keeps {s x} {a1} (h : Keeps s x) : Keeps s (State.launchCapture x a1).2 := by
  unfold State.launchCapture
  repeat' first
    | with_reducible assumption
    | intro _ _
    | intro _
    | with_reducible apply Keeps.choose
    | with_reducible apply State.actionErr_keeps
    | split
    | dsimp only
theorem State.launchCapture_keepsE {s x} {a1} {r0 t} (e : State.launchCapture x a1 = (r0, t)) (h : Keeps s x) :
    Keeps s t := by
  have k := State.launchCapture_keeps (s := s) (x := x) (a1 := a1) h
  rwa [e] at k

theorem State.endIngress_keeps {s x} {a1} (h : Keeps s x) : Keeps s (State.endIngress x a1).2 := by
  unfold State.endIngress
  repeat' first
    | with_reducible assumption
    | intro _ _
    | intro _
    | with_reducible apply State.when_keeps
    | with_reducible apply State.when_keeps
    | with_reducible apply State.count_keeps
    | with_reducible apply State.enqueue_keeps
    | with_reducible apply State.multicast_keeps
    | with_reducible apply State.fate_keeps
    | with_reducible apply State.setRefs_keeps
    | with_reducible apply State.launchCapture_keeps
    | refine State.fate_keepsE (by with_reducible assumption) ?_
    | refine State.launchCapture_keepsE (by with_reducible assumption) ?_
    | split
    | dsimp only
theorem State.endIngress_keepsE {s x} {a1} {r0 t} (e : State.endIngress x a1 = (r0, t)) (h : Keeps s x) : Keeps s t := by
  have k := State.endIngress_keeps (s := s) (x := x) (a1 := a1) h
  rwa [e] at k

/-! ### Machine/Parser.lean -/

theorem State.growChain_keeps {s x y n} (h : Keeps s x) : Keeps s (State.growChain x y n).2.2 := by
  induction n generalizing x y with
  | zero => exact h
  | succ n ih =>
    simp only [State.growChain]
    split
    · exact ih (State.inc_keeps h)
    · split
      · exact ih (State.when_keeps (fun _ => State.inc_keeps)
          (State.inc_keeps (State.inc_keeps (State.takeIngot_keepsE (by assumption) h))))
      · exact h

theorem State.growChain_keepsE {s x y n b r t} (e : State.growChain x y n = (b, r, t)) (h : Keeps s x) :
    Keeps s t := by
  have k := State.growChain_keeps (y := y) (n := n) h
  rwa [e] at k

theorem State.fit_keeps {s x} {a1 a2} (h : Keeps s x) : Keeps s (State.fit x a1 a2).2 := by
  unfold State.fit
  repeat' first
    | with_reducible assumption
    | intro _ _
    | intro _
    | with_reducible apply State.inc_keeps
    | with_reducible apply State.fault_keeps
    | with_reducible apply State.putStore_keeps
    | with_reducible apply State.purge_keeps
    | with_reducible apply State.segsWritten_keeps
    | with_reducible apply State.growChain_keeps
    | refine State.growChain_keepsE (by with_reducible assumption) ?_
    | split
theorem State.fit_keepsE {s x} {a1 a2} {r0 t} (e : State.fit x a1 a2 = (r0, t)) (h : Keeps s x) : Keeps s t := by
  have k := State.fit_keeps (s := s) (x := x) (a1 := a1) (a2 := a2) h
  rwa [e] at k

theorem State.endAside_keeps {s x} {a1} (h : Keeps s x) : Keeps s (State.endAside x a1) := by
  unfold State.endAside
  repeat' first
    | with_reducible assumption
    | intro _ _
    | intro _
    | with_reducible apply Keeps.foldl
    | with_reducible apply Keeps.foldl_snd
    | with_reducible apply Keeps.foldl_fst
    | with_reducible apply Keeps.foldl_third
    | with_reducible apply State.putStore_keeps
    | with_reducible apply State.giveIngot_keeps

theorem State.grantRoom_keepsE {s x f d a b t} (e : State.grantRoom x f d = some (a, b, t)) (h : Keeps s x) :
    Keeps s t := by
  unfold State.grantRoom at e
  split at e <;> split at e <;> cases e
  · exact State.allocDecl_keepsE (by assumption) h
  · exact State.allocChain_keepsE (by assumption) h

theorem State.countParse_keeps {s x} {a1 a2 a3} (h : Keeps s x) : Keeps s (State.countParse x a1 a2 a3) := by
  unfold State.countParse
  repeat' first
    | with_reducible assumption
    | intro _ _
    | intro _
    | with_reducible apply State.set_keeps
    | with_reducible apply State.setB_keeps
    | with_reducible apply State.inc_keeps
    | with_reducible apply State.draw_keeps
    | with_reducible apply State.tally_keeps
    | split

theorem State.bypass_keeps {s x} {a1} (h : Keeps s x) : Keeps s (State.bypass x a1) := by
  unfold State.bypass
  repeat' first
    | with_reducible assumption
    | intro _ _
    | intro _
    | with_reducible apply State.enqueue_keeps
    | with_reducible apply State.setRefs_keeps

theorem State.toRing_keeps {s x} {a1 a2 a3 a4 a5} (h : Keeps s x) : Keeps s (State.toRing x a1 a2 a3 a4 a5) := by
  unfold State.toRing
  repeat' first
    | with_reducible assumption
    | intro _ _
    | intro _
    | with_reducible apply State.slowPass_keeps
    | with_reducible apply State.setRefs_keeps
    | with_reducible apply State.bypass_keeps
    | refine State.slowPass_keepsE (by with_reducible assumption) ?_
    | split

theorem State.setIngress_keeps {s x} {a1 a2} (h : Keeps s x) : Keeps s (State.setIngress x a1 a2) := by
  unfold State.setIngress
  repeat' first
    | with_reducible assumption
    | intro _ _
    | intro _
    | with_reducible apply Keeps.choose
    | split
    | dsimp only
    | with_reducible apply Keeps.upd

theorem State.route_keeps {s x} {a1 a2 a3 a4} (h : Keeps s x) : Keeps s (State.route x a1 a2 a3 a4) := by
  unfold State.route
  repeat' first
    | with_reducible assumption
    | intro _ _
    | intro _
    | with_reducible apply Keeps.choose
    | with_reducible apply State.bypass_keeps
    | with_reducible apply State.toRing_keeps
    | with_reducible apply State.setIngress_keeps
    | split

theorem State.lateShort_keeps {s x} {a1 a2 a3} (h : Keeps s x) : Keeps s (State.lateShort x a1 a2 a3) := by
  unfold State.lateShort
  repeat' first
    | with_reducible assumption
    | intro _ _
    | intro _
    | with_reducible apply State.when_keeps
    | with_reducible apply State.inc_keeps
    | with_reducible apply State.when_keeps
    | split

theorem State.firstParse_keeps {s x} {a1 a2 a3} (h : Keeps s x) : Keeps s (State.firstParse x a1 a2 a3) := by
  unfold State.firstParse
  repeat' first
    | with_reducible assumption
    | intro _ _
    | intro _
    | with_reducible apply State.putStore_keeps
    | with_reducible apply State.inflightInc_keeps

theorem State.rxMove_keeps {s x} {a1 a2} (h : Keeps s x) : Keeps s (State.rxMove x a1 a2) := by
  unfold State.rxMove
  repeat' first
    | with_reducible assumption
    | intro _ _
    | intro _
    | split
    | dsimp only
    | with_reducible apply Keeps.upd

theorem State.parseHead_keeps {s x} {a1 a2 a3} (h : Keeps s x) : Keeps s (State.parseHead x a1 a2 a3) := by
  unfold State.parseHead
  repeat' first
    | with_reducible assumption
    | intro _ _
    | intro _
    | with_reducible apply Keeps.choose
    | with_reducible apply State.when_keeps
    | with_reducible apply State.inc_keeps
    | with_reducible apply State.when_keeps
    | with_reducible apply State.draw_keeps
    | with_reducible apply State.tally_keeps
    | with_reducible apply State.setList_keeps
    | with_reducible apply State.xoffEval_keeps
    | with_reducible apply State.uncharge_keeps
    | with_reducible apply State.refuse_keeps
    | with_reducible apply State.release_keeps
    | with_reducible apply State.fit_keeps
    | with_reducible apply State.endAside_keeps
    | with_reducible apply State.countParse_keeps
    | with_reducible apply State.route_keeps
    | with_reducible apply State.lateShort_keeps
    | with_reducible apply State.firstParse_keeps
    | with_reducible apply State.rxMove_keeps
    | refine State.fit_keepsE (by with_reducible assumption) ?_
    | refine State.grantRoom_keepsE (by with_reducible assumption) ?_
    | split
    | dsimp only

theorem State.parseRecirc_keeps {s x} {a1 a2 a3} (h : Keeps s x) : Keeps s (State.parseRecirc x a1 a2 a3) := by
  unfold State.parseRecirc
  repeat' first
    | with_reducible assumption
    | intro _ _
    | intro _
    | with_reducible apply Keeps.choose
    | with_reducible apply State.inc_keeps
    | with_reducible apply State.draw_keeps
    | with_reducible apply State.tally_keeps
    | with_reducible apply State.xoffEval_keeps
    | with_reducible apply State.refuse_keeps
    | with_reducible apply State.decRef_keeps
    | with_reducible apply State.instEnd_keeps
    | with_reducible apply State.fit_keeps
    | with_reducible apply State.endAside_keeps
    | with_reducible apply State.countParse_keeps
    | with_reducible apply State.route_keeps
    | with_reducible apply State.lateShort_keeps
    | refine State.chargeSegs_keepsE (by with_reducible assumption) ?_
    | refine State.fit_keepsE (by with_reducible assumption) ?_
    | refine State.grantRoom_keepsE (by with_reducible assumption) ?_
    | split
    | dsimp only
    | with_reducible apply Keeps.upd

theorem State.setCpuList_keeps {s x} {a1 a2} (h : Keeps s x) : Keeps s (State.setCpuList x a1 a2) := by
  unfold State.setCpuList
  repeat' first
    | with_reducible assumption
    | intro _ _
    | intro _
    | with_reducible apply Keeps.choose
    | split
    | dsimp only
    | with_reducible apply Keeps.upd

theorem State.cpuDirect_keeps {s x} {a1 a2 a3} (h : Keeps s x) : Keeps s (State.cpuDirect x a1 a2 a3) := by
  unfold State.cpuDirect
  repeat' first
    | with_reducible assumption
    | intro _ _
    | intro _
    | with_reducible apply State.bypass_keeps
    | with_reducible apply State.firstParse_keeps

theorem State.cpuRoute_keeps {s x} {a1 a2 a3 a4 a5} (h : Keeps s x) : Keeps s (State.cpuRoute x a1 a2 a3 a4 a5) := by
  unfold State.cpuRoute
  repeat' first
    | with_reducible assumption
    | intro _ _
    | intro _
    | with_reducible apply State.xoffEval_keeps
    | with_reducible apply State.route_keeps
    | with_reducible apply State.lateShort_keeps
    | with_reducible apply State.firstParse_keeps

theorem State.rechain_keepsE {s x n r b t} (e : State.rechain x n = some (r, b, t)) (h : Keeps s x) :
    Keeps s t := by
  unfold State.rechain at e
  dsimp only at e
  split at e
  · cases e
  · cases e
    exact State.when_keeps (fun _ => State.endAside_keeps)
      (State.fit_keeps (State.vacate_keeps (State.grantRoom_keepsE (by assumption) h)))

theorem State.parseCpu_keeps {s x} {a1 a2 a3} (h : Keeps s x) : Keeps s (State.parseCpu x a1 a2 a3) := by
  unfold State.parseCpu
  repeat' first
    | with_reducible assumption
    | intro _ _
    | intro _
    | with_reducible apply Keeps.choose
    | with_reducible apply State.inc_keeps
    | with_reducible apply State.draw_keeps
    | with_reducible apply State.xoffEval_keeps
    | with_reducible apply State.refuse_keeps
    | with_reducible apply State.release_keeps
    | with_reducible apply State.countParse_keeps
    | with_reducible apply State.setCpuList_keeps
    | with_reducible apply State.cpuDirect_keeps
    | with_reducible apply State.cpuRoute_keeps
    | refine State.rechain_keepsE (by with_reducible assumption) ?_
    | split

theorem State.setArbSrc_keeps {s x} {a1 a2} (h : Keeps s x) : Keeps s (State.setArbSrc x a1 a2) := by
  unfold State.setArbSrc
  repeat' first
    | with_reducible assumption
    | intro _ _
    | intro _
    | split
    | dsimp only
    | with_reducible apply Keeps.upd

theorem State.setArbList_keeps {s x} {a1 a2} (h : Keeps s x) : Keeps s (State.setArbList x a1 a2) := by
  unfold State.setArbList
  repeat' first
    | with_reducible assumption
    | intro _ _
    | intro _
    | split
    | dsimp only
    | with_reducible apply Keeps.upd

theorem State.parseFrom_keeps {s x} {a1 a2 a3} (h : Keeps s x) : Keeps s (State.parseFrom x a1 a2 a3) := by
  unfold State.parseFrom
  repeat' first
    | with_reducible assumption
    | intro _ _
    | intro _
    | with_reducible apply State.tally_keeps
    | with_reducible apply State.parseHead_keeps
    | with_reducible apply State.parseRecirc_keeps
    | with_reducible apply State.parseCpu_keeps
    | with_reducible apply State.setArbList_keeps
    | split
    | dsimp only

theorem State.arbTurn_keeps {s x} {a1 a2} (h : Keeps s x) : Keeps s (State.arbTurn x a1 a2) := by
  unfold State.arbTurn
  repeat' first
    | with_reducible assumption
    | intro _ _
    | intro _
    | with_reducible apply State.setArbSrc_keeps
    | with_reducible apply State.setArbList_keeps

theorem State.bubbleTally_keeps {s x} {a1} (h : Keeps s x) : Keeps s (State.bubbleTally x a1) := by
  unfold State.bubbleTally
  repeat' first
    | with_reducible assumption
    | intro _ _
    | intro _
    | with_reducible apply Keeps.choose
    | with_reducible apply State.tally_keeps

theorem State.slotGrant_keeps {s x} {a1 a2} (h : Keeps s x) : Keeps s (State.slotGrant x a1 a2) := by
  unfold State.slotGrant
  repeat' first
    | with_reducible assumption
    | intro _ _
    | intro _
    | with_reducible apply State.setArbSrc_keeps
    | with_reducible apply State.parseFrom_keeps
    | split
    | dsimp only

theorem State.parseSlot_keeps {s x} {a1 a2} (h : Keeps s x) : Keeps s (State.parseSlot x a1 a2) := by
  unfold State.parseSlot
  repeat' first
    | with_reducible assumption
    | intro _ _
    | intro _
    | with_reducible apply Keeps.choose
    | with_reducible apply State.when_keeps
    | with_reducible apply State.when_keeps
    | with_reducible apply State.slotUse_keeps
    | with_reducible apply State.arbTurn_keeps
    | with_reducible apply State.bubbleTally_keeps
    | with_reducible apply State.slotGrant_keeps

end Sys2Proof.Machine
end

