-- ==== Sys2Proof/Laws/KeepsTables.lean ====
section
/-!
SUPPORT. What the operations of the lookup structures keep: one lemma for each.
-/
namespace Sys2Proof.Machine
set_option Elab.async false

/-! ### Machine/Filigree.lean -/

theorem State.filLookup_keeps {s x} {a1 a2 a3 a4 a5} (h : Keeps s x) : Keeps s (State.filLookup x a1 a2 a3 a4 a5).2 := by
  unfold State.filLookup
  repeat' first
    | with_reducible assumption
    | intro _ _
    | intro _
    | with_reducible apply Keeps.choose
    | with_reducible apply Keeps.foldl
    | with_reducible apply Keeps.foldl_snd
    | with_reducible apply Keeps.foldl_fst
    | with_reducible apply Keeps.foldl_third
    | with_reducible apply State.inc_keeps
    | with_reducible apply State.injClear_keeps
    | with_reducible apply State.fault_keeps
    | with_reducible apply State.faultInjected_keeps
    | with_reducible apply State.tally_keeps
    | with_reducible apply State.bankOps_keeps
    | split
    | dsimp only
theorem State.filLookup_keepsE {s x} {a1 a2 a3 a4 a5} {r0 t} (e : State.filLookup x a1 a2 a3 a4 a5 = (r0, t)) (h : Keeps s x) :
    Keeps s t := by
  have k := State.filLookup_keeps (s := s) (x := x) (a1 := a1) (a2 := a2) (a3 := a3) (a4 := a4) (a5 := a5) h
  rwa [e] at k

theorem State.filShow_keeps {s x} (h : Keeps s x) : Keeps s (State.filShow x) := by
  unfold State.filShow
  repeat' first
    | with_reducible assumption
    | intro _ _
    | intro _
    | with_reducible apply Keeps.upTo
    | with_reducible apply State.set_keeps

/-! ### Machine/ExactMatch.lean -/

theorem State.emPut_keeps {s x} {a1 a2} (h : Keeps s x) : Keeps s (State.emPut x a1 a2) := by
  unfold State.emPut
  repeat' first
    | with_reducible assumption
    | intro _ _
    | intro _
    | with_reducible apply State.memStore_keeps

theorem State.emFlags_keeps {s x} {a1 a2 a3} (h : Keeps s x) : Keeps s (State.emFlags x a1 a2 a3) := by
  unfold State.emFlags
  repeat' first
    | with_reducible assumption
    | intro _ _
    | intro _
    | with_reducible apply State.memSet_keeps

theorem State.emWork_keeps {s x} {a1 a2 a3} (h : Keeps s x) : Keeps s (State.emWork x a1 a2 a3) := by
  unfold State.emWork
  repeat' first
    | with_reducible assumption
    | intro _ _
    | intro _
    | with_reducible apply State.bankWork_keeps

theorem State.emScan_keeps {s x} {a1 a2} (h : Keeps s x) : Keeps s (State.emScan x a1 a2) := by
  unfold State.emScan
  repeat' first
    | with_reducible assumption
    | intro _ _
    | intro _
    | with_reducible apply Keeps.foldl
    | with_reducible apply Keeps.foldl_snd
    | with_reducible apply Keeps.foldl_fst
    | with_reducible apply Keeps.foldl_third
    | with_reducible apply State.emWork_keeps

theorem State.emCorrect_keeps {s x} {a1 a2} (h : Keeps s x) : Keeps s (State.emCorrect x a1 a2) := by
  unfold State.emCorrect
  repeat' first
    | with_reducible assumption
    | intro _ _
    | intro _
    | with_reducible apply Keeps.foldl
    | with_reducible apply Keeps.foldl_snd
    | with_reducible apply Keeps.foldl_fst
    | with_reducible apply Keeps.foldl_third
    | with_reducible apply State.add_keeps
    | with_reducible apply State.injClear_keeps

theorem State.emHitSet_keeps {s x} {a1 a2 a3} (h : Keeps s x) : Keeps s (State.emHitSet x a1 a2 a3) := by
  unfold State.emHitSet
  repeat' first
    | with_reducible assumption
    | intro _ _
    | intro _
    | with_reducible apply State.bankOps_keeps
    | with_reducible apply State.emFlags_keeps
    | split

theorem State.emLookup_keeps {s x} {a1 a2 a3 a4} (h : Keeps s x) : Keeps s (State.emLookup x a1 a2 a3 a4).2 := by
  unfold State.emLookup
  repeat' first
    | with_reducible assumption
    | intro _ _
    | intro _
    | with_reducible apply Keeps.choose
    | with_reducible apply State.when_keeps
    | with_reducible apply Keeps.foldl
    | with_reducible apply Keeps.foldl_snd
    | with_reducible apply Keeps.foldl_fst
    | with_reducible apply Keeps.foldl_third
    | with_reducible apply State.inc_keeps
    | with_reducible apply State.when_keeps
    | with_reducible apply State.fault_keeps
    | with_reducible apply State.faultInjected_keeps
    | with_reducible apply State.tally_keeps
    | with_reducible apply State.bankOps_keeps
    | with_reducible apply State.emCorrect_keeps
    | with_reducible apply State.emHitSet_keeps
    | split
    | dsimp only
theorem State.emLookup_keepsE {s x} {a1 a2 a3 a4} {r0 t} (e : State.emLookup x a1 a2 a3 a4 = (r0, t)) (h : Keeps s x) :
    Keeps s t := by
  have k := State.emLookup_keeps (s := s) (x := x) (a1 := a1) (a2 := a2) (a3 := a3) (a4 := a4) h
  rwa [e] at k

theorem State.emMove_keeps {s x} {a1 a2 a3} (h : Keeps s x) : Keeps s (State.emMove x a1 a2 a3) := by
  unfold State.emMove
  repeat' first
    | with_reducible assumption
    | intro _ _
    | intro _
    | with_reducible apply State.bankWork_keeps
    | with_reducible apply State.emPut_keeps
    | with_reducible apply State.emFlags_keeps
    | with_reducible apply State.emWork_keeps

theorem State.emShift_keeps {s x n l} (h : Keeps s x) : Keeps s (State.emShift x n l) := by
  fun_induction State.emShift x n l with
  | case1 a b rest ih => exact State.emMove_keeps ih
  | case2 => exact h

theorem State.emInsert_keeps {s x} {a1 a2} (h : Keeps s x) : Keeps s (State.emInsert x a1 a2).2 := by
  unfold State.emInsert
  repeat' first
    | with_reducible assumption
    | intro _ _
    | intro _
    | with_reducible apply Keeps.choose
    | with_reducible apply State.memSet_keeps
    | with_reducible apply State.memStore_keeps
    | with_reducible apply State.emPut_keeps
    | with_reducible apply State.emWork_keeps
    | with_reducible apply State.emShift_keeps
    | split
theorem State.emInsert_keepsE {s x} {a1 a2} {r0 t} (e : State.emInsert x a1 a2 = (r0, t)) (h : Keeps s x) : Keeps s t := by
  have k := State.emInsert_keeps (s := s) (x := x) (a1 := a1) (a2 := a2) h
  rwa [e] at k

theorem State.emRemove_keeps {s x} {a1 a2} (h : Keeps s x) : Keeps s (State.emRemove x a1 a2) := by
  unfold State.emRemove
  repeat' first
    | with_reducible assumption
    | intro _ _
    | intro _
    | with_reducible apply State.memSet_keeps
    | with_reducible apply State.emFlags_keeps
    | split

theorem State.emShow_keeps {s x} {a1} (h : Keeps s x) : Keeps s (State.emShow x a1) := by
  unfold State.emShow
  repeat' first
    | with_reducible assumption
    | intro _ _
    | intro _
    | with_reducible apply State.set_keeps
    | with_reducible apply State.setB_keeps
    | split

theorem State.emDone_keeps {s x} {a1} (h : Keeps s x) : Keeps s (State.emDone x a1) := by
  unfold State.emDone
  repeat' first
    | with_reducible assumption
    | intro _ _
    | intro _
    | with_reducible apply State.set_keeps
    | with_reducible apply State.event_keeps

theorem State.emEndCmd_keeps {s r} (h : Keeps s r.2) : Keeps s (State.emEndCmd r) := by
  unfold State.emEndCmd
  split
  · exact State.emDone_keeps (State.emShow_keeps h)
  · exact State.emDone_keeps h
  · exact State.emDone_keeps h

theorem State.emTable_keeps {s x} {a1 a2} (h2 : ∀ y, Keeps s y → Keeps s (a2 y)) (h : Keeps s x) :
    Keeps s (State.emTable x a1 a2) := by
  unfold State.emTable
  repeat' first
    | with_reducible assumption
    | intro _ _
    | intro _
    | apply h2
    | with_reducible apply Keeps.choose
    | with_reducible apply State.emDone_keeps

theorem State.emCmdInsert_keeps {s x} {a1} (h : Keeps s x) : Keeps s (State.emCmdInsert x a1) := by
  unfold State.emCmdInsert
  repeat' first
    | with_reducible assumption
    | intro _ _
    | intro _
    | with_reducible apply State.emInsert_keeps
    | with_reducible apply State.emShow_keeps
    | with_reducible apply State.emDone_keeps
    | with_reducible apply State.emEndCmd_keeps
    | with_reducible apply State.emTable_keeps
    | refine State.emInsert_keepsE (by with_reducible assumption) ?_
    | split

theorem State.emCmdReplace_keeps {s x} {a1} (h : Keeps s x) : Keeps s (State.emCmdReplace x a1) := by
  unfold State.emCmdReplace
  repeat' first
    | with_reducible assumption
    | intro _ _
    | intro _
    | with_reducible apply Keeps.choose
    | with_reducible apply State.emPut_keeps
    | with_reducible apply State.emInsert_keeps
    | with_reducible apply State.emShow_keeps
    | with_reducible apply State.emDone_keeps
    | with_reducible apply State.emEndCmd_keeps
    | with_reducible apply State.emTable_keeps
    | refine State.emInsert_keepsE (by with_reducible assumption) ?_
    | split

theorem State.emCmdDelete_keeps {s x} {a1} (h : Keeps s x) : Keeps s (State.emCmdDelete x a1) := by
  unfold State.emCmdDelete
  repeat' first
    | with_reducible assumption
    | intro _ _
    | intro _
    | with_reducible apply Keeps.choose
    | with_reducible apply State.emRemove_keeps
    | with_reducible apply State.emShow_keeps
    | with_reducible apply State.emDone_keeps
    | with_reducible apply State.emTable_keeps
    | split

theorem State.emCmdSearch_keeps {s x} {a1} (h : Keeps s x) : Keeps s (State.emCmdSearch x a1) := by
  unfold State.emCmdSearch
  repeat' first
    | with_reducible assumption
    | intro _ _
    | intro _
    | with_reducible apply State.set_keeps
    | with_reducible apply State.emShow_keeps
    | with_reducible apply State.emDone_keeps
    | with_reducible apply State.emTable_keeps
    | split

theorem State.emRun_keeps {s x} {a1 a2} (h : Keeps s x) : Keeps s (State.emRun x a1 a2) := by
  unfold State.emRun
  repeat' first
    | with_reducible assumption
    | intro _ _
    | intro _
    | with_reducible apply State.when_keeps
    | with_reducible apply State.when_keeps
    | with_reducible apply State.emScan_keeps
    | with_reducible apply State.emDone_keeps
    | with_reducible apply State.emCmdInsert_keeps
    | with_reducible apply State.emCmdReplace_keeps
    | with_reducible apply State.emCmdDelete_keeps
    | with_reducible apply State.emCmdSearch_keeps
    | split

theorem State.emCommand_keeps {s x} {a1 a2} (h : Keeps s x) : Keeps s (State.emCommand x a1 a2) := by
  unfold State.emCommand
  repeat' first
    | with_reducible assumption
    | intro _ _
    | intro _
    | with_reducible apply Keeps.choose
    | with_reducible apply State.setB_keeps
    | with_reducible apply State.emRun_keeps
    | split
    | dsimp only
    | with_reducible apply Keeps.upd

theorem State.emTurn_keeps {s x} (h : Keeps s x) : Keeps s (State.emTurn x) := by
  unfold State.emTurn
  repeat' first
    | with_reducible assumption
    | intro _ _
    | intro _
    | with_reducible apply Keeps.choose
    | with_reducible apply State.emRun_keeps
    | split
    | dsimp only
    | with_reducible apply Keeps.upd

theorem State.learnPut_keeps {s x} {a1 a2} (h : Keeps s x) : Keeps s (State.learnPut x a1 a2) := by
  unfold State.learnPut
  repeat' first
    | with_reducible assumption
    | intro _ _
    | intro _
    | split
    | dsimp only
    | with_reducible apply Keeps.upd

theorem State.learnRequest_keeps {s x} {a1} (h : Keeps s x) : Keeps s (State.learnRequest x a1) := by
  unfold State.learnRequest
  repeat' first
    | with_reducible assumption
    | intro _ _
    | intro _
    | with_reducible apply Keeps.choose
    | with_reducible apply State.inc_keeps
    | with_reducible apply State.learnPut_keeps
    | split
    | dsimp only
    | with_reducible apply Keeps.upd

theorem State.emNotice_keeps {s x} {a1 a2 a3 a4} (h : Keeps s x) : Keeps s (State.emNotice x a1 a2 a3 a4) := by
  unfold State.emNotice
  repeat' first
    | with_reducible assumption
    | intro _ _
    | intro _
    | with_reducible apply Keeps.choose
    | with_reducible apply State.inc_keeps
    | with_reducible apply State.eventRingWrite_keeps
    | refine State.eventRingWrite_keepsE (by with_reducible assumption) ?_
    | split
    | dsimp only

theorem State.learnNew_keeps {s x} {a1} (h : Keeps s x) : Keeps s (State.learnNew x a1) := by
  unfold State.learnNew
  repeat' first
    | with_reducible assumption
    | intro _ _
    | intro _
    | with_reducible apply State.inc_keeps
    | with_reducible apply State.emInsert_keeps
    | with_reducible apply State.emNotice_keeps
    | refine State.emInsert_keepsE (by with_reducible assumption) ?_
    | split
    | dsimp only

theorem State.learnMove_keeps {s x} {a1 a2} (h : Keeps s x) : Keeps s (State.learnMove x a1 a2) := by
  unfold State.learnMove
  repeat' first
    | with_reducible assumption
    | intro _ _
    | intro _
    | with_reducible apply Keeps.choose
    | with_reducible apply State.inc_keeps
    | with_reducible apply State.emPut_keeps
    | with_reducible apply State.emNotice_keeps

theorem State.learnOne_keeps {s x} {a1} (h : Keeps s x) : Keeps s (State.learnOne x a1) := by
  unfold State.learnOne
  repeat' first
    | with_reducible assumption
    | intro _ _
    | intro _
    | with_reducible apply Keeps.choose
    | with_reducible apply State.emScan_keeps
    | with_reducible apply State.learnNew_keeps
    | with_reducible apply State.learnMove_keeps
    | split
    | dsimp only

theorem State.learnServe_keeps {s x} (h : Keeps s x) : Keeps s (State.learnServe x) := by
  unfold State.learnServe
  repeat' first
    | with_reducible assumption
    | intro _ _
    | intro _
    | with_reducible apply State.emTurn_keeps
    | with_reducible apply State.learnOne_keeps
    | split
    | dsimp only
    | with_reducible apply Keeps.upd

theorem State.ageEntry_keeps {s x} {a1 a2} (h : Keeps s x) : Keeps s (State.ageEntry x a1 a2) := by
  unfold State.ageEntry
  repeat' first
    | with_reducible assumption
    | intro _ _
    | intro _
    | with_reducible apply Keeps.choose
    | with_reducible apply State.inc_keeps
    | with_reducible apply State.emFlags_keeps
    | with_reducible apply State.emRemove_keeps
    | with_reducible apply State.emNotice_keeps

theorem State.ageVisit_keeps {s x} {a1 a2} (h : Keeps s x) : Keeps s (State.ageVisit x a1 a2) := by
  unfold State.ageVisit
  repeat' first
    | with_reducible assumption
    | intro _ _
    | intro _
    | with_reducible apply State.bankWork_keeps
    | with_reducible apply State.ageEntry_keeps

theorem State.ageSkip_keeps {s x} {a1 a2} (h : Keeps s x) : Keeps s (State.ageSkip x a1 a2) := by
  unfold State.ageSkip
  repeat' first
    | with_reducible assumption
    | intro _ _
    | intro _
    | with_reducible apply Keeps.choose
    | with_reducible apply State.inc_keeps
    | split
    | dsimp only
    | with_reducible apply Keeps.upd

theorem State.ageVisits_keeps {s x} {a1 a2} (h : Keeps s x) : Keeps s (State.ageVisits x a1 a2) := by
  unfold State.ageVisits
  repeat' first
    | with_reducible assumption
    | intro _ _
    | intro _
    | with_reducible apply Keeps.choose
    | with_reducible apply Keeps.upTo
    | with_reducible apply State.ageEntry_keeps
    | with_reducible apply State.ageVisit_keeps
    | with_reducible apply State.ageSkip_keeps

theorem State.ageStep_keeps {s x} {a1} (h : Keeps s x) : Keeps s (State.ageStep x a1) := by
  unfold State.ageStep
  repeat' first
    | with_reducible assumption
    | intro _ _
    | intro _
    | with_reducible apply Keeps.choose
    | with_reducible apply State.ageVisits_keeps
    | split
    | dsimp only
    | with_reducible apply Keeps.upd

theorem State.emClaspReq_keeps {s x} {a1} (h : Keeps s x) : Keeps s (State.emClaspReq x a1) := by
  unfold State.emClaspReq
  repeat' first
    | with_reducible assumption
    | intro _ _
    | intro _
    | with_reducible apply State.setBit_keeps

theorem State.emClaspGrant_keeps {s x} {a1} (h : Keeps s x) : Keeps s (State.emClaspGrant x a1) := by
  unfold State.emClaspGrant
  repeat' first
    | with_reducible assumption
    | intro _ _
    | intro _
    | with_reducible apply Keeps.choose
    | with_reducible apply State.setBit_keeps

theorem State.emClaspFree_keeps {s x} {a1} (h : Keeps s x) : Keeps s (State.emClaspFree x a1) := by
  unfold State.emClaspFree
  repeat' first
    | with_reducible assumption
    | intro _ _
    | intro _
    | with_reducible apply State.clearBit_keeps

/-! ### Machine/Ase.lean -/

theorem State.slotSetFlags_keeps {s x} {a1 a2 a3 a4} (h : Keeps s x) : Keeps s (State.slotSetFlags x a1 a2 a3 a4) := by
  unfold State.slotSetFlags
  repeat' first
    | with_reducible assumption
    | intro _ _
    | intro _
    | with_reducible apply Keeps.choose
    | with_reducible apply State.memSet_keeps

theorem State.slotClear_keeps {s x} {a1 a2 a3} (h : Keeps s x) : Keeps s (State.slotClear x a1 a2 a3) := by
  unfold State.slotClear
  repeat' first
    | with_reducible assumption
    | intro _ _
    | intro _
    | with_reducible apply State.slotSetFlags_keeps

theorem State.parityEvent_keeps {s x} {a1 a2 a3 a4 a5 a6} (h : Keeps s x) :
    Keeps s (State.parityEvent x a1 a2 a3 a4 a5 a6) := by
  unfold State.parityEvent
  repeat' first
    | with_reducible assumption
    | intro _ _
    | intro _
    | with_reducible apply State.set_keeps
    | with_reducible apply State.setB_keeps
    | with_reducible apply State.inc_keeps
    | with_reducible apply State.faultAt_keeps

theorem State.slotMend_keeps {s x} {a1 a2 a3 a4 a5} (h : Keeps s x) : Keeps s (State.slotMend x a1 a2 a3 a4 a5) := by
  unfold State.slotMend
  repeat' first
    | with_reducible assumption
    | intro _ _
    | intro _
    | with_reducible apply Keeps.foldl
    | with_reducible apply Keeps.foldl_snd
    | with_reducible apply Keeps.foldl_fst
    | with_reducible apply Keeps.foldl_third
    | with_reducible apply State.injClear_keeps

theorem State.slotFail_keeps {s x} {a1 a2 a3 a4 a5 a6} (h : Keeps s x) : Keeps s (State.slotFail x a1 a2 a3 a4 a5 a6) := by
  unfold State.slotFail
  repeat' first
    | with_reducible assumption
    | intro _ _
    | intro _
    | with_reducible apply State.slotClear_keeps
    | with_reducible apply State.parityEvent_keeps
    | with_reducible apply State.slotMend_keeps

theorem State.slotBad_keeps {s x} {a1 a2 a3 a4} (h : Keeps s x) : Keeps s (State.slotBad x a1 a2 a3 a4) := by
  unfold State.slotBad
  repeat' first
    | with_reducible assumption
    | intro _ _
    | intro _
    | with_reducible apply State.inc_keeps
    | with_reducible apply State.faultAt_keeps

theorem State.slotFix_keeps {s x} {a1 a2 a3} (h : Keeps s x) : Keeps s (State.slotFix x a1 a2 a3) := by
  unfold State.slotFix
  repeat' first
    | with_reducible assumption
    | intro _ _
    | intro _
    | with_reducible apply State.inc_keeps
    | with_reducible apply State.slotMend_keeps

theorem State.aseAnswer_keeps {s x} {a1 a2 a3 a4} (h : Keeps s x) : Keeps s (State.aseAnswer x a1 a2 a3 a4).2.2 := by
  unfold State.aseAnswer
  repeat' first
    | with_reducible assumption
    | intro _ _
    | intro _
    | with_reducible apply State.inc_keeps
    | with_reducible apply State.slotBad_keeps
    | with_reducible apply State.slotFix_keeps
    | split
theorem State.aseAnswer_keepsE {s x} {a1 a2 a3 a4} {r0 r1 t} (e : State.aseAnswer x a1 a2 a3 a4 = (r0, r1, t)) (h : Keeps s x) :
    Keeps s t := by
  have k := State.aseAnswer_keeps (s := s) (x := x) (a1 := a1) (a2 := a2) (a3 := a3) (a4 := a4) h
  rwa [e] at k

theorem State.aseOp_keeps {s x} {a1 a2 a3} (h : Keeps s x) : Keeps s (State.aseOp x a1 a2 a3) := by
  unfold State.aseOp
  repeat' first
    | with_reducible assumption
    | intro _ _
    | intro _
    | with_reducible apply Keeps.choose
    | with_reducible apply State.bankOps_keeps
    | with_reducible apply State.bankWork_keeps
    | split
    | dsimp only
    | with_reducible apply Keeps.upd

theorem State.aseWork_keeps {s x} {a1 a2 a3} (h : Keeps s x) : Keeps s (State.aseWork x a1 a2 a3) := by
  unfold State.aseWork
  repeat' first
    | with_reducible assumption
    | intro _ _
    | intro _
    | with_reducible apply Keeps.foldl
    | with_reducible apply Keeps.foldl_snd
    | with_reducible apply Keeps.foldl_fst
    | with_reducible apply Keeps.foldl_third
    | with_reducible apply State.aseOp_keeps

theorem State.aseOps_keeps {s x} {a1 a2 a3} (h : Keeps s x) : Keeps s (State.aseOps x a1 a2 a3) := by
  unfold State.aseOps
  repeat' first
    | with_reducible assumption
    | intro _ _
    | intro _
    | with_reducible apply Keeps.foldl
    | with_reducible apply Keeps.foldl_snd
    | with_reducible apply Keeps.foldl_fst
    | with_reducible apply Keeps.foldl_third
    | with_reducible apply State.aseOp_keeps

theorem State.aseSearch_keeps {s x} {a1 a2 a3 a4 a5} (h : Keeps s x) : Keeps s (State.aseSearch x a1 a2 a3 a4 a5).2.2 := by
  unfold State.aseSearch
  repeat' first
    | with_reducible assumption
    | intro _ _
    | intro _
    | with_reducible apply Keeps.choose
    | with_reducible apply State.when_keeps
    | with_reducible apply State.inc_keeps
    | with_reducible apply State.when_keeps
    | with_reducible apply State.count_keeps
    | with_reducible apply State.slotFail_keeps
    | with_reducible apply State.aseAnswer_keeps
    | with_reducible apply State.aseOps_keeps
    | refine State.aseAnswer_keepsE (by with_reducible assumption) ?_
    | split
    | dsimp only
theorem State.aseSearch_keepsE {s x} {a1 a2 a3 a4 a5} {r0 r1 t} (e : State.aseSearch x a1 a2 a3 a4 a5 = (r0, r1, t)) (h : Keeps s x) :
    Keeps s t := by
  have k := State.aseSearch_keeps (s := s) (x := x) (a1 := a1) (a2 := a2) (a3 := a3) (a4 := a4) (a5 := a5) h
  rwa [e] at k

theorem State.aseLookup_keeps {s x} {a1 a2 a3 a4 a5} (h : Keeps s x) : Keeps s (State.aseLookup x a1 a2 a3 a4 a5).2 := by
  unfold State.aseLookup
  repeat' first
    | with_reducible assumption
    | intro _ _
    | intro _
    | with_reducible apply State.tally_keeps
    | with_reducible apply State.aseSearch_keeps
theorem State.aseLookup_keepsE {s x} {a1 a2 a3 a4 a5} {r0 t} (e : State.aseLookup x a1 a2 a3 a4 a5 = (r0, t)) (h : Keeps s x) :
    Keeps s t := by
  have k := State.aseLookup_keeps (s := s) (x := x) (a1 := a1) (a2 := a2) (a3 := a3) (a4 := a4) (a5 := a5) h
  rwa [e] at k

theorem State.aseDone_keeps {s x} {a1} (h : Keeps s x) : Keeps s (State.aseDone x a1) := by
  unfold State.aseDone
  repeat' first
    | with_reducible assumption
    | intro _ _
    | intro _
    | with_reducible apply State.set_keeps
    | with_reducible apply State.event_keeps

theorem State.asePut_keeps {s x} {a1 a2 a3} (h : Keeps s x) : Keeps s (State.asePut x a1 a2 a3) := by
  unfold State.asePut
  repeat' first
    | with_reducible assumption
    | intro _ _
    | intro _
    | with_reducible apply Keeps.choose
    | with_reducible apply State.memStore_keeps
    | with_reducible apply State.aseWork_keeps

theorem State.asePos_keeps {s x} {a1 a2} (h2 : ∀ y, Keeps s y → Keeps s (a2 y)) (h : Keeps s x) :
    Keeps s (State.asePos x a1 a2) := by
  unfold State.asePos
  repeat' first
    | with_reducible assumption
    | intro _ _
    | intro _
    | apply h2
    | with_reducible apply Keeps.choose
    | with_reducible apply State.aseDone_keeps

theorem State.aseChange_keeps {s x} {a1 a2} (h2 : ∀ y, Keeps s y → Keeps s (a2 y)) (h : Keeps s x) :
    Keeps s (State.aseChange x a1 a2) := by
  unfold State.aseChange
  repeat' first
    | with_reducible assumption
    | intro _ _
    | intro _
    | apply h2
    | with_reducible apply Keeps.choose
    | with_reducible apply State.aseDone_keeps
    | with_reducible apply State.asePos_keeps

theorem State.aseWriteAt_keeps {s x} {a1} (h : Keeps s x) : Keeps s (State.aseWriteAt x a1) := by
  unfold State.aseWriteAt
  repeat' first
    | with_reducible assumption
    | intro _ _
    | intro _
    | with_reducible apply Keeps.foldl
    | with_reducible apply Keeps.foldl_snd
    | with_reducible apply Keeps.foldl_fst
    | with_reducible apply Keeps.foldl_third
    | with_reducible apply State.aseDone_keeps
    | with_reducible apply State.asePut_keeps
    | with_reducible apply State.aseChange_keeps

theorem State.aseDeleteAt_keeps {s x} {a1} (h : Keeps s x) : Keeps s (State.aseDeleteAt x a1) := by
  unfold State.aseDeleteAt
  repeat' first
    | with_reducible assumption
    | intro _ _
    | intro _
    | with_reducible apply Keeps.foldl
    | with_reducible apply Keeps.foldl_snd
    | with_reducible apply Keeps.foldl_fst
    | with_reducible apply Keeps.foldl_third
    | with_reducible apply State.slotClear_keeps
    | with_reducible apply State.aseWork_keeps
    | with_reducible apply State.aseDone_keeps
    | with_reducible apply State.aseChange_keeps

theorem State.moveHalf_keeps {s x} {a1 a2 a3} (h : Keeps s x) : Keeps s (State.moveHalf x a1 a2 a3) := by
  unfold State.moveHalf
  repeat' first
    | with_reducible assumption
    | intro _ _
    | intro _
    | with_reducible apply State.memStore_keeps

theorem State.moveCopy_keeps {s x} {a1 a2 a3 a4} (h : Keeps s x) : Keeps s (State.moveCopy x a1 a2 a3 a4) := by
  unfold State.moveCopy
  repeat' first
    | with_reducible assumption
    | intro _ _
    | intro _
    | with_reducible apply Keeps.foldl
    | with_reducible apply Keeps.foldl_snd
    | with_reducible apply Keeps.foldl_fst
    | with_reducible apply Keeps.foldl_third
    | with_reducible apply State.aseWork_keeps
    | with_reducible apply State.moveHalf_keeps
    | split
    | dsimp only
    | with_reducible apply Keeps.upd

theorem State.moveVacate_keeps {s x} {a1 a2 a3} (h : Keeps s x) : Keeps s (State.moveVacate x a1 a2 a3) := by
  unfold State.moveVacate
  repeat' first
    | with_reducible assumption
    | intro _ _
    | intro _
    | with_reducible apply State.slotClear_keeps
    | with_reducible apply State.aseWork_keeps

theorem State.moveSettle_keeps {s x} {a1 a2 a3} (h : Keeps s x) : Keeps s (State.moveSettle x a1 a2 a3) := by
  unfold State.moveSettle
  repeat' first
    | with_reducible assumption
    | intro _ _
    | intro _
    | with_reducible apply State.slotSetFlags_keeps
    | with_reducible apply State.aseWork_keeps
    | split
    | dsimp only
    | with_reducible apply Keeps.upd

theorem State.aseMove_keeps {s x} {a1 a2 a3 a4} (h : Keeps s x) : Keeps s (State.aseMove x a1 a2 a3 a4) := by
  unfold State.aseMove
  repeat' first
    | with_reducible assumption
    | intro _ _
    | intro _
    | with_reducible apply State.moveCopy_keeps
    | with_reducible apply State.moveVacate_keeps
    | with_reducible apply State.moveSettle_keeps

theorem State.aseInsertBank_keeps {s x} {a1 a2 a3 a4} (h : Keeps s x) : Keeps s (State.aseInsertBank x a1 a2 a3 a4).2 := by
  unfold State.aseInsertBank
  repeat' first
    | with_reducible assumption
    | intro _ _
    | intro _
    | with_reducible apply Keeps.choose
    | with_reducible apply Keeps.foldl
    | with_reducible apply Keeps.foldl_snd
    | with_reducible apply Keeps.foldl_fst
    | with_reducible apply Keeps.foldl_third
    | with_reducible apply State.asePut_keeps
    | with_reducible apply State.aseMove_keeps
    | split
theorem State.aseInsertBank_keepsE {s x} {a1 a2 a3 a4} {r0 t} (e : State.aseInsertBank x a1 a2 a3 a4 = (r0, t)) (h : Keeps s x) :
    Keeps s t := by
  have k := State.aseInsertBank_keeps (s := s) (x := x) (a1 := a1) (a2 := a2) (a3 := a3) (a4 := a4) h
  rwa [e] at k

theorem State.aseInsertAt_keeps {s x} {a1} (h : Keeps s x) : Keeps s (State.aseInsertAt x a1) := by
  unfold State.aseInsertAt
  repeat' first
    | with_reducible assumption
    | intro _ _
    | intro _
    | with_reducible apply Keeps.choose
    | with_reducible apply Keeps.foldl
    | with_reducible apply Keeps.foldl_snd
    | with_reducible apply Keeps.foldl_fst
    | with_reducible apply Keeps.foldl_third
    | with_reducible apply State.set_keeps
    | with_reducible apply State.add_keeps
    | with_reducible apply State.aseDone_keeps
    | with_reducible apply State.aseChange_keeps
    | with_reducible apply State.aseInsertBank_keeps
    | refine State.aseInsertBank_keepsE (by with_reducible assumption) ?_
    | split

theorem State.aseFound_keeps {s x} {a1 a2} (h : Keeps s x) : Keeps s (State.aseFound x a1 a2) := by
  unfold State.aseFound
  repeat' first
    | with_reducible assumption
    | intro _ _
    | intro _
    | with_reducible apply State.set_keeps
    | with_reducible apply State.setB_keeps

theorem State.aseReplica_keeps {s x} {a1 a2 a3} (h3 : ∀ y, Keeps s y → Keeps s (a3 y)) (h : Keeps s x) :
    Keeps s (State.aseReplica x a1 a2 a3) := by
  unfold State.aseReplica
  repeat' first
    | with_reducible assumption
    | intro _ _
    | intro _
    | apply h3
    | with_reducible apply Keeps.choose
    | with_reducible apply State.aseDone_keeps

theorem State.aseCmdSearch_keeps {s x} {a1 a2 a3} (h : Keeps s x) : Keeps s (State.aseCmdSearch x a1 a2 a3) := by
  unfold State.aseCmdSearch
  repeat' first
    | with_reducible assumption
    | intro _ _
    | intro _
    | with_reducible apply Keeps.choose
    | with_reducible apply State.setB_keeps
    | with_reducible apply State.aseSearch_keeps
    | with_reducible apply State.aseDone_keeps
    | with_reducible apply State.aseFound_keeps
    | with_reducible apply State.aseReplica_keeps
    | refine State.aseSearch_keepsE (by with_reducible assumption) ?_
    | split
    | dsimp only
    | with_reducible apply Keeps.upd

theorem State.aseReport_keeps {s x} {a1 a2 a3} (h : Keeps s x) : Keeps s (State.aseReport x a1 a2 a3) := by
  unfold State.aseReport
  repeat' first
    | with_reducible assumption
    | intro _ _
    | intro _
    | with_reducible apply State.aseDone_keeps
    | with_reducible apply State.aseFound_keeps
    | split
    | dsimp only
    | with_reducible apply Keeps.upd

theorem State.aseNone_keeps {s x} {a1} (h : Keeps s x) : Keeps s (State.aseNone x a1) := by
  unfold State.aseNone
  repeat' first
    | with_reducible assumption
    | intro _ _
    | intro _
    | with_reducible apply State.setB_keeps
    | with_reducible apply State.aseDone_keeps

theorem State.aseStep_keeps {s x} {a1 a2 a3} (h : Keeps s x) : Keeps s (State.aseStep x a1 a2 a3) := by
  unfold State.aseStep
  repeat' first
    | with_reducible assumption
    | intro _ _
    | intro _
    | with_reducible apply Keeps.choose
    | with_reducible apply State.slotFail_keeps
    | with_reducible apply State.slotBad_keeps
    | with_reducible apply State.slotFix_keeps
    | with_reducible apply State.aseOps_keeps
    | with_reducible apply State.aseReport_keeps
    | with_reducible apply State.aseNone_keeps
    | split
    | dsimp only

theorem State.aseCmdStep_keeps {s x} {a1 a2 a3} (h : Keeps s x) : Keeps s (State.aseCmdStep x a1 a2 a3) := by
  unfold State.aseCmdStep
  repeat' first
    | with_reducible assumption
    | intro _ _
    | intro _
    | with_reducible apply Keeps.choose
    | with_reducible apply State.aseDone_keeps
    | with_reducible apply State.aseReplica_keeps
    | with_reducible apply State.aseNone_keeps
    | with_reducible apply State.aseStep_keeps
    | split

theorem State.aseReadAt_keeps {s x} {a1 a2} (h : Keeps s x) : Keeps s (State.aseReadAt x a1 a2) := by
  unfold State.aseReadAt
  repeat' first
    | with_reducible assumption
    | intro _ _
    | intro _
    | with_reducible apply Keeps.choose
    | with_reducible apply Keeps.upTo
    | with_reducible apply State.set_keeps
    | with_reducible apply State.setB_keeps
    | with_reducible apply State.aseWork_keeps
    | with_reducible apply State.aseDone_keeps
    | with_reducible apply State.asePos_keeps
    | with_reducible apply State.aseFound_keeps
    | with_reducible apply State.aseReplica_keeps

theorem State.aseCommand_keeps {s x} {a1 a2 a3 a4} (h : Keeps s x) : Keeps s (State.aseCommand x a1 a2 a3 a4) := by
  unfold State.aseCommand
  repeat' first
    | with_reducible assumption
    | intro _ _
    | intro _
    | with_reducible apply State.aseDone_keeps
    | with_reducible apply State.aseWriteAt_keeps
    | with_reducible apply State.aseDeleteAt_keeps
    | with_reducible apply State.aseInsertAt_keeps
    | with_reducible apply State.aseCmdSearch_keeps
    | with_reducible apply State.aseCmdStep_keeps
    | with_reducible apply State.aseReadAt_keeps
    | split

theorem State.aseClaspReq_keeps {s x} {a1} (h : Keeps s x) : Keeps s (State.aseClaspReq x a1) := by
  unfold State.aseClaspReq
  repeat' first
    | with_reducible assumption
    | intro _ _
    | intro _
    | with_reducible apply State.setBit_keeps

theorem State.aseClaspGrant_keeps {s x} {a1} (h : Keeps s x) : Keeps s (State.aseClaspGrant x a1) := by
  unfold State.aseClaspGrant
  repeat' first
    | with_reducible assumption
    | intro _ _
    | intro _
    | with_reducible apply Keeps.choose
    | with_reducible apply State.setBit_keeps

theorem State.aseClaspFree_keeps {s x} {a1} (h : Keeps s x) : Keeps s (State.aseClaspFree x a1) := by
  unfold State.aseClaspFree
  repeat' first
    | with_reducible assumption
    | intro _ _
    | intro _
    | with_reducible apply State.clearBit_keeps

theorem State.planishRepair_keeps {s x} {a1 a2 a3 a4 a5} (h : Keeps s x) :
    Keeps s (State.planishRepair x a1 a2 a3 a4 a5) := by
  unfold State.planishRepair
  repeat' first
    | with_reducible assumption
    | intro _ _
    | intro _
    | with_reducible apply Keeps.choose
    | with_reducible apply State.memStore_keeps
    | with_reducible apply State.parityEvent_keeps
    | with_reducible apply State.slotFail_keeps
    | with_reducible apply State.aseWork_keeps
    | split

theorem State.planishAse_keeps {s x} {a1 a2 a3 a4} (h : Keeps s x) : Keeps s (State.planishAse x a1 a2 a3 a4) := by
  unfold State.planishAse
  repeat' first
    | with_reducible assumption
    | intro _ _
    | intro _
    | with_reducible apply Keeps.choose
    | with_reducible apply State.inc_keeps
    | with_reducible apply State.slotBad_keeps
    | with_reducible apply State.slotFix_keeps
    | with_reducible apply State.aseWork_keeps
    | with_reducible apply State.planishRepair_keeps
    | split
    | dsimp only

/-! ### Machine/Planish.lean -/

theorem State.scrubWord_keeps {s x} {a1 a2 a3} (h : Keeps s x) : Keeps s (State.scrubWord x a1 a2 a3) := by
  unfold State.scrubWord
  repeat' first
    | with_reducible assumption
    | intro _ _
    | intro _
    | with_reducible apply State.inc_keeps
    | with_reducible apply State.injClear_keeps
    | split

theorem State.scrubRow_keeps {s x} {a1 a2 a3 a4} (h : Keeps s x) : Keeps s (State.scrubRow x a1 a2 a3 a4) := by
  unfold State.scrubRow
  repeat' first
    | with_reducible assumption
    | intro _ _
    | intro _
    | with_reducible apply Keeps.choose
    | with_reducible apply State.inc_keeps
    | with_reducible apply State.wordCorrected_keeps
    | with_reducible apply State.wordRebuilt_keeps
    | split

theorem State.scrubAse_keeps {s x} {a1 a2 a3 a4 a5} (h : Keeps s x) : Keeps s (State.scrubAse x a1 a2 a3 a4 a5) := by
  unfold State.scrubAse
  repeat' first
    | with_reducible assumption
    | intro _ _
    | intro _
    | with_reducible apply Keeps.choose
    | with_reducible apply State.inc_keeps
    | with_reducible apply State.planishAse_keeps
    | split

theorem State.scrubBank_keeps {s x} {a1 a2 a3 a4} (h : Keeps s x) : Keeps s (State.scrubBank x a1 a2 a3 a4) := by
  unfold State.scrubBank
  repeat' first
    | with_reducible assumption
    | intro _ _
    | intro _
    | with_reducible apply Keeps.choose
    | with_reducible apply State.bankWork_keeps
    | with_reducible apply State.scrubWord_keeps

theorem State.scrub_keeps {s x} {a1 a2} (h : Keeps s x) : Keeps s (State.scrub x a1 a2) := by
  unfold State.scrub
  repeat' first
    | with_reducible assumption
    | intro _ _
    | intro _
    | with_reducible apply State.scrubWord_keeps
    | with_reducible apply State.scrubRow_keeps
    | with_reducible apply State.scrubAse_keeps
    | with_reducible apply State.scrubBank_keeps
    | split

theorem State.scrubPass_keeps {s x} {a1} (h : Keeps s x) : Keeps s (State.scrubPass x a1) := by
  unfold State.scrubPass
  repeat' first
    | with_reducible assumption
    | intro _ _
    | intro _
    | with_reducible apply State.when_keeps
    | with_reducible apply State.set_keeps
    | with_reducible apply State.when_keeps
    | with_reducible apply State.passEnd_keeps
    | with_reducible apply State.coverMiss_keeps
    | refine State.passEnd_keepsE (by with_reducible assumption) ?_
    | split

end Sys2Proof.Machine
end

