-- ==== Sys2Proof/Laws/KeepsPipes.lean ====
section
/-!
SUPPORT. What the operations of the stages, the ports, the gates and the schedulers keep: one lemma for each.
-/
namespace Sys2Proof.Machine
set_option Elab.async false

/-! ### Machine/Editor.lean -/

theorem State.editErr_keeps {s x} {a1 a2 a3} (h : Keeps s x) : Keeps s (State.editErr x a1 a2 a3) := by
  unfold State.editErr
  repeat' first
    | with_reducible assumption
    | intro _ _
    | intro _
    | with_reducible apply State.set_keeps
    | with_reducible apply State.setB_keeps
    | with_reducible apply State.inc_keeps
    | with_reducible apply State.fault_keeps

theorem State.editRecord_keeps {s x} {a1 a2 a3} (h : Keeps s x) : Keeps s (State.editRecord x a1 a2 a3).2 := by
  unfold State.editRecord
  repeat' first
    | with_reducible assumption
    | intro _ _
    | intro _
    | with_reducible apply Keeps.choose
    | with_reducible apply State.editErr_keeps
    | split
theorem State.editRecord_keepsE {s x} {a1 a2 a3} {r0 t} (e : State.editRecord x a1 a2 a3 = (r0, t)) (h : Keeps s x) :
    Keeps s t := by
  have k := State.editRecord_keeps (s := s) (x := x) (a1 := a1) (a2 := a2) (a3 := a3) h
  rwa [e] at k

theorem State.stripRecord_keeps {s x} {a1} (h : Keeps s x) : Keeps s (State.stripRecord x a1).2 := by
  unfold State.stripRecord
  repeat' first
    | with_reducible assumption
    | intro _ _
    | intro _
    | with_reducible apply State.editRecord_keeps
    | refine State.editRecord_keepsE (by with_reducible assumption) ?_
    | split
theorem State.stripRecord_keepsE {s x} {a1} {r0 t} (e : State.stripRecord x a1 = (r0, t)) (h : Keeps s x) : Keeps s t := by
  have k := State.stripRecord_keeps (s := s) (x := x) (a1 := a1) h
  rwa [e] at k

theorem State.ecnMark_keeps {s x} {a1 a2} (h : Keeps s x) : Keeps s (State.ecnMark x a1 a2).2 := by
  unfold State.ecnMark
  repeat' first
    | with_reducible assumption
    | intro _ _
    | intro _
    | with_reducible apply Keeps.choose
    | with_reducible apply State.inc_keeps
    | with_reducible apply State.memSet_keeps
    | split
    | dsimp only
theorem State.ecnMark_keepsE {s x} {a1 a2} {r0 t} (e : State.ecnMark x a1 a2 = (r0, t)) (h : Keeps s x) : Keeps s t := by
  have k := State.ecnMark_keeps (s := s) (x := x) (a1 := a1) (a2 := a2) h
  rwa [e] at k

theorem State.hmIoam_keeps {s x} {a1 a2 a3 a4 a5 a6} (h : Keeps s x) : Keeps s (State.hmIoam x a1 a2 a3 a4 a5 a6).2 := by
  unfold State.hmIoam
  repeat' first
    | with_reducible assumption
    | intro _ _
    | intro _
    | with_reducible apply Keeps.choose
    | with_reducible apply State.inc_keeps
    | with_reducible apply State.hmSkip_keeps
    | split
    | dsimp only
theorem State.hmIoam_keepsE {s x} {a1 a2 a3 a4 a5 a6} {r0 t} (e : State.hmIoam x a1 a2 a3 a4 a5 a6 = (r0, t)) (h : Keeps s x) :
    Keeps s t := by
  have k := State.hmIoam_keeps (s := s) (x := x) (a1 := a1) (a2 := a2) (a3 := a3) (a4 := a4) (a5 := a5) (a6 := a6) h
  rwa [e] at k

theorem State.hmShim_keeps {s x} {a1 a2 a3 a4 a5 a6 a7} (h : Keeps s x) :
    Keeps s (State.hmShim x a1 a2 a3 a4 a5 a6 a7).2 := by
  unfold State.hmShim
  repeat' first
    | with_reducible assumption
    | intro _ _
    | intro _
    | with_reducible apply Keeps.choose
    | with_reducible apply State.inc_keeps
    | with_reducible apply State.hmSkip_keeps
    | split
    | dsimp only
theorem State.hmShim_keepsE {s x} {a1 a2 a3 a4 a5 a6 a7} {r0 t} (e : State.hmShim x a1 a2 a3 a4 a5 a6 a7 = (r0, t)) (h : Keeps s x) :
    Keeps s t := by
  have k := State.hmShim_keeps (s := s) (x := x) (a1 := a1) (a2 := a2) (a3 := a3) (a4 := a4) (a5 := a5) (a6 := a6) (a7 := a7) h
  rwa [e] at k

theorem State.hmPlan_keeps {s x} {a1 a2 a3 a4} (h : Keeps s x) : Keeps s (State.hmPlan x a1 a2 a3 a4).2 := by
  unfold State.hmPlan
  repeat' first
    | with_reducible assumption
    | intro _ _
    | intro _
    | with_reducible apply Keeps.choose
    | with_reducible apply State.hmSkip_keeps
    | with_reducible apply State.hmIoam_keeps
    | with_reducible apply State.hmShim_keeps
    | refine State.hmIoam_keepsE (by with_reducible assumption) ?_
    | refine State.hmShim_keepsE (by with_reducible assumption) ?_
    | split
    | dsimp only
theorem State.hmPlan_keepsE {s x} {a1 a2 a3 a4} {r0 t} (e : State.hmPlan x a1 a2 a3 a4 = (r0, t)) (h : Keeps s x) :
    Keeps s t := by
  have k := State.hmPlan_keeps (s := s) (x := x) (a1 := a1) (a2 := a2) (a3 := a3) (a4 := a4) h
  rwa [e] at k

theorem State.hmFix_keeps {s x} {a1 a2 a3 a4 a5} (h : Keeps s x) : Keeps s (State.hmFix x a1 a2 a3 a4 a5).2 := by
  unfold State.hmFix
  repeat' first
    | with_reducible assumption
    | intro _ _
    | intro _
    | with_reducible apply Keeps.choose
    | with_reducible apply State.inc_keeps
    | split
    | dsimp only
theorem State.hmFix_keepsE {s x} {a1 a2 a3 a4 a5} {r0 t} (e : State.hmFix x a1 a2 a3 a4 a5 = (r0, t)) (h : Keeps s x) :
    Keeps s t := by
  have k := State.hmFix_keeps (s := s) (x := x) (a1 := a1) (a2 := a2) (a3 := a3) (a4 := a4) (a5 := a5) h
  rwa [e] at k

theorem State.ptpTransparent_keeps {s x} {a1 a2 a3 a4} (h : Keeps s x) :
    Keeps s (State.ptpTransparent x a1 a2 a3 a4).2 := by
  unfold State.ptpTransparent
  repeat' first
    | with_reducible assumption
    | intro _ _
    | intro _
    | with_reducible apply Keeps.choose
    | with_reducible apply State.inc_keeps
    | split
    | dsimp only
theorem State.ptpTransparent_keepsE {s x} {a1 a2 a3 a4} {r0 t} (e : State.ptpTransparent x a1 a2 a3 a4 = (r0, t)) (h : Keeps s x) :
    Keeps s t := by
  have k := State.ptpTransparent_keeps (s := s) (x := x) (a1 := a1) (a2 := a2) (a3 := a3) (a4 := a4) h
  rwa [e] at k

theorem State.ptpRecord_keeps {s x} {a1 a2 a3 a4} (h : Keeps s x) : Keeps s (State.ptpRecord x a1 a2 a3 a4) := by
  unfold State.ptpRecord
  repeat' first
    | with_reducible assumption
    | intro _ _
    | intro _
    | with_reducible apply Keeps.choose
    | with_reducible apply State.inc_keeps
    | with_reducible apply State.eventRingWrite_keeps

theorem State.ptpEgress_keeps {s x} {a1 a2 a3} (h : Keeps s x) : Keeps s (State.ptpEgress x a1 a2 a3).2 := by
  unfold State.ptpEgress
  repeat' first
    | with_reducible assumption
    | intro _ _
    | intro _
    | with_reducible apply Keeps.choose
    | with_reducible apply State.ptpTransparent_keeps
    | with_reducible apply State.ptpRecord_keeps
    | refine State.ptpTransparent_keepsE (by with_reducible assumption) ?_
    | split
theorem State.ptpEgress_keepsE {s x} {a1 a2 a3} {r0 t} (e : State.ptpEgress x a1 a2 a3 = (r0, t)) (h : Keeps s x) :
    Keeps s t := by
  have k := State.ptpEgress_keeps (s := s) (x := x) (a1 := a1) (a2 := a2) (a3 := a3) h
  rwa [e] at k

theorem State.departHead_keeps {s x} {a1 a2 a3} (h : Keeps s x) : Keeps s (State.departHead x a1 a2 a3).2 := by
  unfold State.departHead
  repeat' first
    | with_reducible assumption
    | intro _ _
    | intro _
    | with_reducible apply Keeps.choose
    | with_reducible apply State.ecnMark_keeps
    | with_reducible apply State.hmPlan_keeps
    | with_reducible apply State.hmFix_keeps
    | with_reducible apply State.ptpEgress_keeps
    | refine State.ecnMark_keepsE (by with_reducible assumption) ?_
    | refine State.hmPlan_keepsE (by with_reducible assumption) ?_
    | refine State.hmFix_keepsE (by with_reducible assumption) ?_
    | refine State.ptpEgress_keepsE (by with_reducible assumption) ?_
    | split
    | dsimp only
theorem State.departHead_keepsE {s x} {a1 a2 a3} {r0 t} (e : State.departHead x a1 a2 a3 = (r0, t)) (h : Keeps s x) :
    Keeps s t := by
  have k := State.departHead_keeps (s := s) (x := x) (a1 := a1) (a2 := a2) (a3 := a3) h
  rwa [e] at k

theorem State.ecnLate_keeps {s x} {a1 a2} (h : Keeps s x) : Keeps s (State.ecnLate x a1 a2).2 := by
  unfold State.ecnLate
  repeat' first
    | with_reducible assumption
    | intro _ _
    | intro _
    | with_reducible apply Keeps.choose
    | with_reducible apply State.ecnMark_keeps
    | refine State.ecnMark_keepsE (by with_reducible assumption) ?_
    | split
theorem State.ecnLate_keepsE {s x} {a1 a2} {r0 t} (e : State.ecnLate x a1 a2 = (r0, t)) (h : Keeps s x) : Keeps s t := by
  have k := State.ecnLate_keeps (s := s) (x := x) (a1 := a1) (a2 := a2) h
  rwa [e] at k

theorem State.foldRecord_keeps {s x} {a1 a2} (h : Keeps s x) : Keeps s (State.foldRecord x a1 a2) := by
  unfold State.foldRecord
  repeat' first
    | with_reducible assumption
    | intro _ _
    | intro _
    | with_reducible apply Keeps.choose
    | with_reducible apply State.hmSkip_keeps
    | with_reducible apply State.flowFold_keeps

theorem State.cardAsk_keeps {s x} {a1 a2} (h : Keeps s x) : Keeps s (State.cardAsk x a1 a2) := by
  unfold State.cardAsk
  repeat' first
    | with_reducible assumption
    | intro _ _
    | intro _
    | with_reducible apply Keeps.choose
    | with_reducible apply State.draw_keeps
    | with_reducible apply State.hmSkip_keeps
    | with_reducible apply State.cardSend_keeps

/-! ### Machine/Stages.lean -/

theorem State.directLook_keeps {s x} {a1 a2 a3 a4} (h : Keeps s x) : Keeps s (State.directLook x a1 a2 a3 a4).2 := by
  unfold State.directLook
  repeat' first
    | with_reducible assumption
    | intro _ _
    | intro _
    | with_reducible apply Keeps.choose
    | with_reducible apply State.injClear_keeps
    | with_reducible apply State.faultInjected_keeps
    | with_reducible apply State.count_keeps
    | with_reducible apply State.actionErr_keeps
    | split
    | dsimp only
    | with_reducible apply Keeps.upd
theorem State.directLook_keepsE {s x} {a1 a2 a3 a4} {r0 t} (e : State.directLook x a1 a2 a3 a4 = (r0, t)) (h : Keeps s x) :
    Keeps s t := by
  have k := State.directLook_keeps (s := s) (x := x) (a1 := a1) (a2 := a2) (a3 := a3) (a4 := a4) h
  rwa [e] at k

theorem State.lookIssue_keeps {s x} {a1 a2 a3} (h : Keeps s x) : Keeps s (State.lookIssue x a1 a2 a3).2 := by
  unfold State.lookIssue
  repeat' first
    | with_reducible assumption
    | intro _ _
    | intro _
    | with_reducible apply Keeps.choose
    | with_reducible apply State.count_keeps
    | with_reducible apply State.filLookup_keeps
    | with_reducible apply State.emLookup_keeps
    | with_reducible apply State.aseLookup_keeps
    | with_reducible apply State.directLook_keeps
    | refine State.filLookup_keepsE (by with_reducible assumption) ?_
    | refine State.emLookup_keepsE (by with_reducible assumption) ?_
    | refine State.aseLookup_keepsE (by with_reducible assumption) ?_
    | refine State.directLook_keepsE (by with_reducible assumption) ?_
    | split
    | dsimp only
theorem State.lookIssue_keepsE {s x} {a1 a2 a3} {r0 t} (e : State.lookIssue x a1 a2 a3 = (r0, t)) (h : Keeps s x) :
    Keeps s t := by
  have k := State.lookIssue_keeps (s := s) (x := x) (a1 := a1) (a2 := a2) (a3 := a3) h
  rwa [e] at k

theorem State.looksIssue_keeps {s x} {a1 a2} (h : Keeps s x) : Keeps s (State.looksIssue x a1 a2).2 := by
  unfold State.looksIssue
  repeat' first
    | with_reducible assumption
    | intro _ _
    | intro _
    | with_reducible apply Keeps.foldl
    | with_reducible apply Keeps.foldl_snd
    | with_reducible apply Keeps.foldl_fst
    | with_reducible apply Keeps.foldl_third
    | with_reducible apply State.lookIssue_keeps
theorem State.looksIssue_keepsE {s x} {a1 a2} {r0 t} (e : State.looksIssue x a1 a2 = (r0, t)) (h : Keeps s x) :
    Keeps s t := by
  have k := State.looksIssue_keeps (s := s) (x := x) (a1 := a1) (a2 := a2) h
  rwa [e] at k

theorem State.setEgress_keeps {s x} {a1 a2} (h : Keeps s x) : Keeps s (State.setEgress x a1 a2) := by
  unfold State.setEgress
  repeat' first
    | with_reducible assumption
    | intro _ _
    | intro _
    | with_reducible apply Keeps.choose
    | split
    | dsimp only
    | with_reducible apply Keeps.upd

theorem State.stageIssue_keeps {s x} {a1 a2 a3} (h : Keeps s x) : Keeps s (State.stageIssue x a1 a2 a3) := by
  unfold State.stageIssue
  repeat' first
    | with_reducible assumption
    | intro _ _
    | intro _
    | with_reducible apply Keeps.choose
    | with_reducible apply State.setIngress_keeps
    | with_reducible apply State.looksIssue_keeps
    | with_reducible apply State.setEgress_keeps
    | refine State.looksIssue_keepsE (by with_reducible assumption) ?_
    | split
    | dsimp only

theorem State.verdictPut_keeps {s x} {a1 a2 a3 a4} (h : Keeps s x) : Keeps s (State.verdictPut x a1 a2 a3 a4).2 := by
  unfold State.verdictPut
  repeat' first
    | with_reducible assumption
    | intro _ _
    | intro _
    | with_reducible apply Keeps.choose
    | with_reducible apply State.actionErr_keeps
    | split
theorem State.verdictPut_keepsE {s x} {a1 a2 a3 a4} {r0 t} (e : State.verdictPut x a1 a2 a3 a4 = (r0, t)) (h : Keeps s x) :
    Keeps s t := by
  have k := State.verdictPut_keeps (s := s) (x := x) (a1 := a1) (a2 := a2) (a3 := a3) (a4 := a4) h
  rwa [e] at k

theorem State.loadAd_keeps {s x} {a1 a2 a3 a4 a5 a6 a7 a8} (h : Keeps s x) :
    Keeps s (State.loadAd x a1 a2 a3 a4 a5 a6 a7 a8).2 := by
  unfold State.loadAd
  repeat' first
    | with_reducible assumption
    | intro _ _
    | intro _
    | with_reducible apply Keeps.choose
    | with_reducible apply State.injClear_keeps
    | with_reducible apply State.faultInjected_keeps
    | with_reducible apply State.tally_keeps
    | with_reducible apply State.actionErr_keeps
    | split
    | dsimp only
    | with_reducible apply Keeps.upd
theorem State.loadAd_keepsE {s x} {a1 a2 a3 a4 a5 a6 a7 a8} {r0 t} (e : State.loadAd x a1 a2 a3 a4 a5 a6 a7 a8 = (r0, t)) (h : Keeps s x) :
    Keeps s t := by
  have k := State.loadAd_keeps (s := s) (x := x) (a1 := a1) (a2 := a2) (a3 := a3) (a4 := a4) (a5 := a5) (a6 := a6) (a7 := a7) (a8 := a8) h
  rwa [e] at k

theorem State.learnWord_keeps {s x} {a1 a2 a3} (h : Keeps s x) : Keeps s (State.learnWord x a1 a2 a3) := by
  unfold State.learnWord
  repeat' first
    | with_reducible assumption
    | intro _ _
    | intro _
    | with_reducible apply State.learnRequest_keeps
    | split

theorem State.editWord_keeps {s x} {a1 a2 a3 a4} (h : Keeps s x) : Keeps s (State.editWord x a1 a2 a3 a4).2 := by
  unfold State.editWord
  repeat' first
    | with_reducible assumption
    | intro _ _
    | intro _
    | with_reducible apply Keeps.choose
    | with_reducible apply State.editErr_keeps
    | with_reducible apply State.editRecord_keeps
    | refine State.editRecord_keepsE (by with_reducible assumption) ?_
    | split
theorem State.editWord_keepsE {s x} {a1 a2 a3 a4} {r0 t} (e : State.editWord x a1 a2 a3 a4 = (r0, t)) (h : Keeps s x) :
    Keeps s t := by
  have k := State.editWord_keeps (s := s) (x := x) (a1 := a1) (a2 := a2) (a3 := a3) (a4 := a4) h
  rwa [e] at k

theorem State.wordRun_keeps {s x} {a1 a2 a3 a4 a5} (h : Keeps s x) : Keeps s (State.wordRun x a1 a2 a3 a4 a5).2.2 := by
  unfold State.wordRun
  repeat' first
    | with_reducible assumption
    | intro _ _
    | intro _
    | with_reducible apply State.count_keeps
    | with_reducible apply State.verdictPut_keeps
    | with_reducible apply State.loadAd_keeps
    | with_reducible apply State.learnWord_keeps
    | with_reducible apply State.editWord_keeps
    | refine State.verdictPut_keepsE (by with_reducible assumption) ?_
    | refine State.loadAd_keepsE (by with_reducible assumption) ?_
    | refine State.editWord_keepsE (by with_reducible assumption) ?_
    | split
theorem State.wordRun_keepsE {s x} {a1 a2 a3 a4 a5} {r0 r1 t} (e : State.wordRun x a1 a2 a3 a4 a5 = (r0, r1, t)) (h : Keeps s x) :
    Keeps s t := by
  have k := State.wordRun_keeps (s := s) (x := x) (a1 := a1) (a2 := a2) (a3 := a3) (a4 := a4) (a5 := a5) h
  rwa [e] at k

theorem State.wordsRun_keeps {s x wk p pc n err l} (h : Keeps s x) : Keeps s (State.wordsRun x wk p pc n err l).2 := by
  induction l generalizing x wk p pc n with
  | zero => exact h
  | succ l ih =>
    simp only [State.wordsRun]
    split
    · exact h
    · split
      · split
        · exact State.actionErr_keeps h
        · exact State.faultInjected_keeps (Keeps.upd (State.actionErr_keeps h))
      · split
        · dsimp only
          split
          · exact State.wordRun_keeps (State.injClear_keeps h)
          · exact State.draw_keeps (State.injClear_keeps h)
        · refine ih (State.draw_keeps ?_)
          split
          · exact State.wordRun_keeps (State.injClear_keeps h)
          · exact State.draw_keeps (State.injClear_keeps h)

theorem State.wordsRun_keepsE {s x wk p pc n err l r t} (e : State.wordsRun x wk p pc n err l = (r, t)) (h : Keeps s x) :
    Keeps s t := by
  have k := State.wordsRun_keeps (wk := wk) (p := p) (pc := pc) (n := n) (err := err) (l := l) h
  rwa [e] at k

theorem State.programRun_keeps {s x} {a1 a2} (h : Keeps s x) : Keeps s (State.programRun x a1 a2).2 := by
  unfold State.programRun
  repeat' first
    | with_reducible assumption
    | intro _ _
    | intro _
    | with_reducible apply Keeps.choose
    | with_reducible apply State.actionErr_keeps
    | with_reducible apply State.wordsRun_keeps
    | refine State.wordsRun_keepsE (by with_reducible assumption) ?_
    | split
    | dsimp only
theorem State.programRun_keepsE {s x} {a1 a2} {r0 t} (e : State.programRun x a1 a2 = (r0, t)) (h : Keeps s x) :
    Keeps s t := by
  have k := State.programRun_keeps (s := s) (x := x) (a1 := a1) (a2 := a2) h
  rwa [e] at k

theorem State.stageRun_keeps {s x} {a1 a2} (h : Keeps s x) : Keeps s (State.stageRun x a1 a2).2 := by
  unfold State.stageRun
  repeat' first
    | with_reducible assumption
    | intro _ _
    | intro _
    | with_reducible apply Keeps.foldl
    | with_reducible apply Keeps.foldl_snd
    | with_reducible apply Keeps.foldl_fst
    | with_reducible apply Keeps.foldl_third
    | with_reducible apply State.count_keeps
    | with_reducible apply State.programRun_keeps
    | refine State.programRun_keepsE (by with_reducible assumption) ?_
    | split
theorem State.stageRun_keepsE {s x} {a1 a2} {r0 t} (e : State.stageRun x a1 a2 = (r0, t)) (h : Keeps s x) : Keeps s t := by
  have k := State.stageRun_keeps (s := s) (x := x) (a1 := a1) (a2 := a2) h
  rwa [e] at k

theorem State.resolveList_keeps {s x p b l} (h : Keeps s x) : Keeps s (State.resolveList x p b l) := by
  induction l generalizing x b with
  | nil => exact h
  | cons k rest ih =>
    simp only [State.resolveList]
    split
    · exact ih h
    · split
      · exact ih h
      · split
        · exact ih (State.endIngress_keepsE (by assumption) (State.setIngress_keeps h))
        · exact ih h

theorem State.resolve_keeps {s x} {a1} (h : Keeps s x) : Keeps s (State.resolve x a1) := by
  unfold State.resolve
  repeat' first
    | with_reducible assumption
    | intro _ _
    | intro _
    | with_reducible apply State.resolveList_keeps

theorem State.egDiscard_keeps {s x} {a1} (h : Keeps s x) : Keeps s (State.egDiscard x a1) := by
  unfold State.egDiscard
  repeat' first
    | with_reducible assumption
    | intro _ _
    | intro _
    | with_reducible apply State.dropCard_keeps
    | with_reducible apply State.instEnd_keeps

theorem State.recircDepart_keeps {s x} {a1 a2} (h : Keeps s x) : Keeps s (State.recircDepart x a1 a2) := by
  unfold State.recircDepart
  repeat' first
    | with_reducible assumption
    | intro _ _
    | intro _
    | with_reducible apply Keeps.choose
    | with_reducible apply State.when_keeps
    | with_reducible apply State.inc_keeps
    | with_reducible apply State.when_keeps
    | with_reducible apply State.readFrame_keeps
    | with_reducible apply State.departHead_keeps
    | with_reducible apply State.foldRecord_keeps
    | with_reducible apply State.cardAsk_keeps
    | with_reducible apply State.egDiscard_keeps
    | refine State.readFrame_keepsE (by with_reducible assumption) ?_
    | refine State.departHead_keepsE (by with_reducible assumption) ?_
    | split
    | dsimp only
    | with_reducible apply Keeps.upd

theorem State.setTxList_keeps {s x} {a1 a2} (h : Keeps s x) : Keeps s (State.setTxList x a1 a2) := by
  unfold State.setTxList
  repeat' first
    | with_reducible assumption
    | intro _ _
    | intro _
    | with_reducible apply Keeps.choose
    | split
    | dsimp only
    | with_reducible apply Keeps.upd

theorem State.txDue_keeps {s x} {a1} (h : Keeps s x) : Keeps s (State.txDue x a1) := by
  unfold State.txDue
  repeat' first
    | with_reducible assumption
    | intro _ _
    | intro _
    | with_reducible apply Keeps.choose
    | with_reducible apply State.setTxList_keeps
    | split

theorem State.endEgress_keeps {s x} {a1 a2} (h : Keeps s x) : Keeps s (State.endEgress x a1 a2) := by
  unfold State.endEgress
  repeat' first
    | with_reducible assumption
    | intro _ _
    | intro _
    | with_reducible apply Keeps.choose
    | with_reducible apply State.inc_keeps
    | with_reducible apply State.egDiscard_keeps
    | with_reducible apply State.recircDepart_keeps
    | with_reducible apply State.setTxList_keeps
    | with_reducible apply State.txDue_keeps

theorem State.ingressRun_keeps {s x} {a1 a2 a3} (h : Keeps s x) : Keeps s (State.ingressRun x a1 a2 a3) := by
  unfold State.ingressRun
  repeat' first
    | with_reducible assumption
    | intro _ _
    | intro _
    | with_reducible apply Keeps.choose
    | with_reducible apply State.setRefs_keeps
    | with_reducible apply State.setIngress_keeps
    | with_reducible apply State.stageRun_keeps
    | with_reducible apply State.resolve_keeps
    | refine State.stageRun_keepsE (by with_reducible assumption) ?_
    | split

theorem State.egressRun_keeps {s x} {a1 a2 a3 a4} (h : Keeps s x) : Keeps s (State.egressRun x a1 a2 a3 a4) := by
  unfold State.egressRun
  repeat' first
    | with_reducible assumption
    | intro _ _
    | intro _
    | with_reducible apply Keeps.choose
    | with_reducible apply State.setEgress_keeps
    | with_reducible apply State.stageRun_keeps
    | with_reducible apply State.egDiscard_keeps
    | with_reducible apply State.endEgress_keeps
    | refine State.stageRun_keepsE (by with_reducible assumption) ?_
    | split

theorem State.stageAct_keeps {s x} {a1 a2 a3 a4} (h : Keeps s x) : Keeps s (State.stageAct x a1 a2 a3 a4) := by
  unfold State.stageAct
  repeat' first
    | with_reducible assumption
    | intro _ _
    | intro _
    | with_reducible apply Keeps.choose
    | with_reducible apply State.when_keeps
    | with_reducible apply State.when_keeps
    | with_reducible apply State.tally_keeps
    | with_reducible apply State.ingressRun_keeps
    | with_reducible apply State.egressRun_keeps
    | split

/-! ### Machine/Ports.lean -/

theorem State.ffePut_keeps {s x} {a1 a2 a3 a4} (h : Keeps s x) : Keeps s (State.ffePut x a1 a2 a3 a4) := by
  unfold State.ffePut
  repeat' first
    | with_reducible assumption
    | intro _ _
    | intro _
    | with_reducible apply State.set_keeps

theorem State.ffeWrite_keeps {s x} {a1 a2} (h : Keeps s x) : Keeps s (State.ffeWrite x a1 a2) := by
  unfold State.ffeWrite
  repeat' first
    | with_reducible assumption
    | intro _ _
    | intro _
    | with_reducible apply Keeps.choose
    | with_reducible apply State.setB_keeps
    | with_reducible apply State.ffePut_keeps

theorem State.ltRequest_keeps {s x} {a1 a2} (h : Keeps s x) : Keeps s (State.ltRequest x a1 a2) := by
  unfold State.ltRequest
  repeat' first
    | with_reducible assumption
    | intro _ _
    | intro _
    | with_reducible apply Keeps.choose
    | with_reducible apply State.emit_keeps
    | with_reducible apply State.ffePut_keeps

theorem State.trainLane_keeps {s x} {a1} (h : Keeps s x) : Keeps s (State.trainLane x a1) := by
  unfold State.trainLane
  repeat' first
    | with_reducible assumption
    | intro _ _
    | intro _
    | with_reducible apply State.setB_keeps
    | with_reducible apply State.draw_keeps
    | with_reducible apply State.ffePut_keeps

theorem State.adaptRestart_keeps {s x} {a1} (h : Keeps s x) : Keeps s (State.adaptRestart x a1) := by
  unfold State.adaptRestart
  repeat' first
    | with_reducible assumption
    | intro _ _
    | intro _
    | with_reducible apply Keeps.choose
    | with_reducible apply State.set_keeps
    | with_reducible apply State.setB_keeps
    | with_reducible apply State.draw_keeps

theorem State.calibrate_keeps {s x} {a1 a2 a3} (h : Keeps s x) : Keeps s (State.calibrate x a1 a2 a3) := by
  unfold State.calibrate
  repeat' first
    | with_reducible assumption
    | intro _ _
    | intro _
    | with_reducible apply Keeps.choose
    | with_reducible apply State.set_keeps
    | with_reducible apply State.setB_keeps

theorem State.putPause_keeps {s x} {a1 a2 a3} (h : Keeps s x) : Keeps s (State.putPause x a1 a2 a3) := by
  unfold State.putPause
  repeat' first
    | with_reducible assumption
    | intro _ _
    | intro _
    | split
    | dsimp only
    | with_reducible apply Keeps.upd

theorem State.pauseLoad_keeps {s x} {a1 a2 a3} (h : Keeps s x) : Keeps s (State.pauseLoad x a1 a2 a3) := by
  unfold State.pauseLoad
  repeat' first
    | with_reducible assumption
    | intro _ _
    | intro _
    | with_reducible apply Keeps.choose
    | with_reducible apply State.putPause_keeps

theorem State.pauseRx_keeps {s x} {a1 a2 a3 a4} (h : Keeps s x) : Keeps s (State.pauseRx x a1 a2 a3 a4) := by
  unfold State.pauseRx
  repeat' first
    | with_reducible assumption
    | intro _ _
    | intro _
    | with_reducible apply Keeps.choose
    | with_reducible apply State.when_keeps
    | with_reducible apply Keeps.foldl
    | with_reducible apply Keeps.foldl_snd
    | with_reducible apply Keeps.foldl_fst
    | with_reducible apply Keeps.foldl_third
    | with_reducible apply Keeps.upTo
    | with_reducible apply State.inc_keeps
    | with_reducible apply State.when_keeps
    | with_reducible apply State.pauseLoad_keeps

theorem State.pauseExpire_keeps {s x} {a1 a2} (h : Keeps s x) : Keeps s (State.pauseExpire x a1 a2) := by
  unfold State.pauseExpire
  repeat' first
    | with_reducible assumption
    | intro _ _
    | intro _
    | with_reducible apply Keeps.choose
    | with_reducible apply State.putPause_keeps
    | split
    | dsimp only

theorem State.pauseClear_keeps {s x} {a1} (h : Keeps s x) : Keeps s (State.pauseClear x a1) := by
  unfold State.pauseClear
  repeat' first
    | with_reducible assumption
    | intro _ _
    | intro _
    | with_reducible apply Keeps.upTo
    | with_reducible apply State.pauseLoad_keeps
    | split

theorem State.pauseStamp_keeps {s x} {a1} (h : Keeps s x) : Keeps s (State.pauseStamp x a1) := by
  unfold State.pauseStamp
  repeat' first
    | with_reducible assumption
    | intro _ _
    | intro _
    | with_reducible apply State.when_keeps
    | with_reducible apply Keeps.upTo
    | with_reducible apply State.when_keeps
    | split
    | dsimp only
    | with_reducible apply Keeps.upd

theorem State.pauseSend_keeps {s x} {a1} (h : Keeps s x) : Keeps s (State.pauseSend x a1) := by
  unfold State.pauseSend
  repeat' first
    | with_reducible assumption
    | intro _ _
    | intro _
    | with_reducible apply Keeps.choose
    | with_reducible apply State.when_keeps
    | with_reducible apply Keeps.upTo
    | with_reducible apply State.inc_keeps
    | with_reducible apply State.emit_keeps
    | with_reducible apply State.when_keeps
    | with_reducible apply State.bwCount_keeps
    | with_reducible apply State.pauseStamp_keeps
    | split

theorem State.pauseTx_keeps {s x} {a1} (h : Keeps s x) : Keeps s (State.pauseTx x a1) := by
  unfold State.pauseTx
  repeat' first
    | with_reducible assumption
    | intro _ _
    | intro _
    | with_reducible apply Keeps.choose
    | with_reducible apply State.pauseSend_keeps
    | split
    | dsimp only
    | with_reducible apply Keeps.upd

theorem State.pauseRefresh_keeps {s x} {a1 a2} (h : Keeps s x) : Keeps s (State.pauseRefresh x a1 a2) := by
  unfold State.pauseRefresh
  repeat' first
    | with_reducible assumption
    | intro _ _
    | intro _
    | with_reducible apply Keeps.choose
    | with_reducible apply State.pauseSend_keeps

theorem State.stormBegin_keeps {s x} {a1 a2} (h : Keeps s x) : Keeps s (State.stormBegin x a1 a2) := by
  unfold State.stormBegin
  repeat' first
    | with_reducible assumption
    | intro _ _
    | intro _
    | with_reducible apply State.setBit_keeps
    | with_reducible apply State.portEvent_keeps
    | with_reducible apply State.fault_keeps

theorem State.stormEnter_keeps {s x} {a1 a2} (h : Keeps s x) : Keeps s (State.stormEnter x a1 a2) := by
  unfold State.stormEnter
  repeat' first
    | with_reducible assumption
    | intro _ _
    | intro _
    | with_reducible apply Keeps.choose
    | with_reducible apply State.when_keeps
    | with_reducible apply State.when_keeps
    | with_reducible apply State.draw_keeps
    | with_reducible apply State.stormBegin_keeps
    | split

theorem State.stormEnd_keeps {s x} {a1 a2} (h : Keeps s x) : Keeps s (State.stormEnd x a1 a2) := by
  unfold State.stormEnd
  repeat' first
    | with_reducible assumption
    | intro _ _
    | intro _
    | with_reducible apply State.clearBit_keeps
    | with_reducible apply State.portEvent_keeps

theorem State.stormExit_keeps {s x} {a1 a2} (h : Keeps s x) : Keeps s (State.stormExit x a1 a2) := by
  unfold State.stormExit
  repeat' first
    | with_reducible assumption
    | intro _ _
    | intro _
    | with_reducible apply Keeps.choose
    | with_reducible apply State.stormEnd_keeps

theorem State.rxDrop_keeps {s x} {a1} (h : Keeps s x) : Keeps s (State.rxDrop x a1) := by
  unfold State.rxDrop
  repeat' first
    | with_reducible assumption
    | intro _ _
    | intro _
    | with_reducible apply Keeps.choose
    | with_reducible apply State.setList_keeps
    | with_reducible apply State.xoffEval_keeps
    | with_reducible apply State.uncharge_keeps
    | with_reducible apply State.purge_keeps
    | split

theorem State.rxAbort_keeps {s x} {a1} (h : Keeps s x) : Keeps s (State.rxAbort x a1) := by
  unfold State.rxAbort
  repeat' first
    | with_reducible assumption
    | intro _ _
    | intro _
    | with_reducible apply Keeps.choose
    | with_reducible apply State.inc_keeps
    | with_reducible apply State.rxDrop_keeps
    | split
    | dsimp only
    | with_reducible apply Keeps.upd

theorem State.txCut_keeps {s x} {a1} (h : Keeps s x) : Keeps s (State.txCut x a1) := by
  unfold State.txCut
  repeat' first
    | with_reducible assumption
    | intro _ _
    | intro _
    | with_reducible apply State.instEnd_keeps
    | with_reducible apply State.txStomp_keeps
    | split
    | dsimp only
    | with_reducible apply Keeps.upd

theorem State.putLink_keeps {s x} {a1 a2} (h : Keeps s x) : Keeps s (State.putLink x a1 a2) := by
  unfold State.putLink
  repeat' first
    | with_reducible assumption
    | intro _ _
    | intro _
    | with_reducible apply State.link_keeps
    | split
    | dsimp only
    | with_reducible apply Keeps.upd

theorem State.lineSend_keeps {s x} {a1 a2} (h : Keeps s x) : Keeps s (State.lineSend x a1 a2) := by
  unfold State.lineSend
  repeat' first
    | with_reducible assumption
    | intro _ _
    | intro _
    | with_reducible apply Keeps.choose
    | with_reducible apply State.emit_keeps
    | split
    | dsimp only
    | with_reducible apply Keeps.upd

theorem State.portLine_keeps {s x} {a1} (h : Keeps s x) : Keeps s (State.portLine x a1) := by
  unfold State.portLine
  repeat' first
    | with_reducible assumption
    | intro _ _
    | intro _
    | with_reducible apply Keeps.foldl
    | with_reducible apply Keeps.foldl_snd
    | with_reducible apply Keeps.foldl_fst
    | with_reducible apply Keeps.foldl_third
    | with_reducible apply State.lineSend_keeps

theorem State.allLines_keeps {s x} (h : Keeps s x) : Keeps s (State.allLines x) := by
  unfold State.allLines
  repeat' first
    | with_reducible assumption
    | intro _ _
    | intro _
    | with_reducible apply Keeps.foldl
    | with_reducible apply Keeps.foldl_snd
    | with_reducible apply Keeps.foldl_fst
    | with_reducible apply Keeps.foldl_third
    | with_reducible apply State.lineSend_keeps
    | with_reducible apply State.portLine_keeps

theorem State.linesOff_keeps {s x} (h : Keeps s x) : Keeps s (State.linesOff x) := by
  unfold State.linesOff
  repeat' first
    | with_reducible assumption
    | intro _ _
    | intro _
    | with_reducible apply Keeps.foldl
    | with_reducible apply Keeps.foldl_snd
    | with_reducible apply Keeps.foldl_fst
    | with_reducible apply Keeps.foldl_third
    | with_reducible apply State.lineSend_keeps

theorem State.lanesQuiet_keeps {s x} {a1} (h : Keeps s x) : Keeps s (State.lanesQuiet x a1) := by
  unfold State.lanesQuiet
  repeat' first
    | with_reducible assumption
    | intro _ _
    | intro _
    | with_reducible apply Keeps.foldl
    | with_reducible apply Keeps.foldl_snd
    | with_reducible apply Keeps.foldl_fst
    | with_reducible apply Keeps.foldl_third
    | with_reducible apply State.setB_keeps
    | split
    | dsimp only
    | with_reducible apply Keeps.upd

theorem State.genStart_keeps {s x} {a1} (h : Keeps s x) : Keeps s (State.genStart x a1) := by
  unfold State.genStart
  repeat' first
    | with_reducible assumption
    | intro _ _
    | intro _
    | with_reducible apply State.draw_keeps
    | split
    | dsimp only
    | with_reducible apply Keeps.upd

theorem State.linkGo_keeps {s x} {a1 a2} (h : Keeps s x) : Keeps s (State.linkGo x a1 a2) := by
  unfold State.linkGo
  repeat' first
    | with_reducible assumption
    | intro _ _
    | intro _
    | with_reducible apply State.when_keeps
    | with_reducible apply Keeps.foldl
    | with_reducible apply Keeps.foldl_snd
    | with_reducible apply Keeps.foldl_fst
    | with_reducible apply Keeps.foldl_third
    | with_reducible apply State.set_keeps
    | with_reducible apply State.setB_keeps
    | with_reducible apply State.when_keeps
    | with_reducible apply State.trainLane_keeps
    | with_reducible apply State.putLink_keeps
    | with_reducible apply State.portLine_keeps
    | with_reducible apply State.lanesQuiet_keeps
    | with_reducible apply State.genStart_keeps

theorem State.leaveUp_keeps {s x} {a1} (h : Keeps s x) : Keeps s (State.leaveUp x a1) := by
  unfold State.leaveUp
  repeat' first
    | with_reducible assumption
    | intro _ _
    | intro _
    | with_reducible apply Keeps.choose
    | with_reducible apply State.set_keeps
    | with_reducible apply State.setB_keeps
    | with_reducible apply State.inc_keeps
    | with_reducible apply State.portEvent_keeps
    | with_reducible apply State.portHold_keeps
    | with_reducible apply State.pauseClear_keeps
    | with_reducible apply State.rxAbort_keeps

theorem State.linkTo_keeps {s x} {a1 a2} (h : Keeps s x) : Keeps s (State.linkTo x a1 a2) := by
  unfold State.linkTo
  repeat' first
    | with_reducible assumption
    | intro _ _
    | intro _
    | with_reducible apply State.linkGo_keeps
    | with_reducible apply State.leaveUp_keeps

theorem State.linkFirst_keeps {s x} {a1} (h : Keeps s x) : Keeps s (State.linkFirst x a1) := by
  unfold State.linkFirst
  repeat' first
    | with_reducible assumption
    | intro _ _
    | intro _
    | with_reducible apply State.putLink_keeps
    | with_reducible apply State.linkGo_keeps
    | with_reducible apply State.leaveUp_keeps

theorem State.enterUp_keeps {s x} {a1} (h : Keeps s x) : Keeps s (State.enterUp x a1) := by
  unfold State.enterUp
  repeat' first
    | with_reducible assumption
    | intro _ _
    | intro _
    | with_reducible apply State.when_keeps
    | with_reducible apply State.set_keeps
    | with_reducible apply State.setB_keeps
    | with_reducible apply State.when_keeps
    | with_reducible apply State.portEvent_keeps
    | with_reducible apply State.pauseOwe_keeps
    | with_reducible apply State.portLine_keeps

theorem State.portStart_keeps {s x} {a1} (h : Keeps s x) : Keeps s (State.portStart x a1) := by
  unfold State.portStart
  repeat' first
    | with_reducible assumption
    | intro _ _
    | intro _
    | with_reducible apply Keeps.choose
    | with_reducible apply State.linkGo_keeps
    | with_reducible apply State.linkFirst_keeps

theorem State.anFail_keeps {s x} {a1} (h : Keeps s x) : Keeps s (State.anFail x a1) := by
  unfold State.anFail
  repeat' first
    | with_reducible assumption
    | intro _ _
    | intro _
    | with_reducible apply Keeps.choose
    | with_reducible apply State.portEvent_keeps
    | with_reducible apply State.linkFirst_keeps

theorem State.anComplete_keeps {s x} {a1 a2 a3} (h : Keeps s x) : Keeps s (State.anComplete x a1 a2 a3) := by
  unfold State.anComplete
  repeat' first
    | with_reducible assumption
    | intro _ _
    | intro _
    | with_reducible apply Keeps.choose
    | with_reducible apply State.set_keeps
    | with_reducible apply State.setB_keeps
    | with_reducible apply State.linkGo_keeps
    | with_reducible apply State.anFail_keeps

theorem State.trainComplete_keeps {s x} {a1} (h : Keeps s x) : Keeps s (State.trainComplete x a1) := by
  unfold State.trainComplete
  repeat' first
    | with_reducible assumption
    | intro _ _
    | intro _
    | with_reducible apply Keeps.choose
    | with_reducible apply State.setB_keeps
    | with_reducible apply State.linkGo_keeps

theorem State.trainFail_keeps {s x} {a1} (h : Keeps s x) : Keeps s (State.trainFail x a1) := by
  unfold State.trainFail
  repeat' first
    | with_reducible assumption
    | intro _ _
    | intro _
    | with_reducible apply Keeps.choose
    | with_reducible apply State.portEvent_keeps
    | with_reducible apply State.linkFirst_keeps

theorem State.linkUpNow_keeps {s x} {a1} (h : Keeps s x) : Keeps s (State.linkUpNow x a1) := by
  unfold State.linkUpNow
  repeat' first
    | with_reducible assumption
    | intro _ _
    | intro _
    | with_reducible apply Keeps.choose
    | with_reducible apply State.enterUp_keeps

theorem State.alignTimeout_keeps {s x} {a1} (h : Keeps s x) : Keeps s (State.alignTimeout x a1) := by
  unfold State.alignTimeout
  repeat' first
    | with_reducible assumption
    | intro _ _
    | intro _
    | with_reducible apply Keeps.choose
    | with_reducible apply State.portEvent_keeps
    | with_reducible apply State.linkFirst_keeps

theorem State.linkDownNow_keeps {s x} {a1} (h : Keeps s x) : Keeps s (State.linkDownNow x a1) := by
  unfold State.linkDownNow
  repeat' first
    | with_reducible assumption
    | intro _ _
    | intro _
    | with_reducible apply Keeps.choose
    | with_reducible apply State.linkTo_keeps

theorem State.adminUp_keeps {s x} {a1 a2} (h : Keeps s x) : Keeps s (State.adminUp x a1 a2) := by
  unfold State.adminUp
  repeat' first
    | with_reducible assumption
    | intro _ _
    | intro _
    | with_reducible apply Keeps.choose
    | with_reducible apply State.setB_keeps
    | with_reducible apply State.linkTo_keeps
    | with_reducible apply State.portStart_keeps

theorem State.testMode_keeps {s x} {a1 a2} (h : Keeps s x) : Keeps s (State.testMode x a1 a2) := by
  unfold State.testMode
  repeat' first
    | with_reducible assumption
    | intro _ _
    | intro _
    | with_reducible apply Keeps.choose
    | with_reducible apply State.setB_keeps
    | with_reducible apply State.linkTo_keeps
    | with_reducible apply State.portStart_keeps

theorem State.portSettle_keeps {s x} {a1} (h : Keeps s x) : Keeps s (State.portSettle x a1) := by
  unfold State.portSettle
  repeat' first
    | with_reducible assumption
    | intro _ _
    | intro _
    | with_reducible apply Keeps.choose
    | with_reducible apply State.linkTo_keeps
    | with_reducible apply State.testMode_keeps

theorem State.portRestart_keeps {s x} {a1} (h : Keeps s x) : Keeps s (State.portRestart x a1) := by
  unfold State.portRestart
  repeat' first
    | with_reducible assumption
    | intro _ _
    | intro _
    | with_reducible apply Keeps.choose
    | with_reducible apply State.linkFirst_keeps

theorem State.fecClear_keeps {s x} {a1} (h : Keeps s x) : Keeps s (State.fecClear x a1) := by
  unfold State.fecClear
  repeat' first
    | with_reducible assumption
    | intro _ _
    | intro _
    | with_reducible apply Keeps.upTo
    | with_reducible apply State.set_keeps

theorem State.fecCount_keeps {s x} {a1 a2} (h : Keeps s x) : Keeps s (State.fecCount x a1 a2) := by
  unfold State.fecCount
  repeat' first
    | with_reducible assumption
    | intro _ _
    | intro _
    | with_reducible apply State.when_keeps
    | with_reducible apply Keeps.foldl
    | with_reducible apply Keeps.foldl_snd
    | with_reducible apply Keeps.foldl_fst
    | with_reducible apply Keeps.foldl_third
    | with_reducible apply State.add_keeps
    | with_reducible apply State.inc_keeps
    | with_reducible apply State.when_keeps
    | split

theorem State.linkChange_keeps {s x} {a1 a2 a3 a4 a5 a6 a7} (h : Keeps s x) :
    Keeps s (State.linkChange x a1 a2 a3 a4 a5 a6 a7) := by
  unfold State.linkChange
  repeat' first
    | with_reducible assumption
    | intro _ _
    | intro _
    | with_reducible apply Keeps.choose
    | with_reducible apply State.when_keeps
    | with_reducible apply State.set_keeps
    | with_reducible apply State.setB_keeps
    | with_reducible apply State.when_keeps
    | with_reducible apply State.portEvent_keeps
    | with_reducible apply State.putLink_keeps
    | with_reducible apply State.portLine_keeps
    | with_reducible apply State.fecCount_keeps

theorem State.chipletLost_keeps {s x} {a1} (h : Keeps s x) : Keeps s (State.chipletLost x a1) := by
  unfold State.chipletLost
  repeat' first
    | with_reducible assumption
    | intro _ _
    | intro _
    | with_reducible apply Keeps.choose
    | with_reducible apply State.when_keeps
    | with_reducible apply Keeps.upTo
    | with_reducible apply State.set_keeps
    | with_reducible apply State.setB_keeps
    | with_reducible apply State.when_keeps
    | with_reducible apply State.fault_keeps
    | with_reducible apply State.putLink_keeps
    | with_reducible apply State.portLine_keeps

theorem State.portSafe_keeps {s x} {a1 a2} (h : Keeps s x) : Keeps s (State.portSafe x a1 a2) := by
  unfold State.portSafe
  repeat' first
    | with_reducible assumption
    | intro _ _
    | intro _
    | with_reducible apply Keeps.choose
    | with_reducible apply State.when_keeps
    | with_reducible apply State.when_keeps
    | with_reducible apply State.txCut_keeps
    | with_reducible apply State.linkTo_keeps

theorem State.portLeaveSafe_keeps {s x} {a1} (h : Keeps s x) : Keeps s (State.portLeaveSafe x a1) := by
  unfold State.portLeaveSafe
  repeat' first
    | with_reducible assumption
    | intro _ _
    | intro _
    | with_reducible apply Keeps.choose
    | with_reducible apply State.linkGo_keeps
    | with_reducible apply State.portStart_keeps

theorem State.portDown_keeps {s x} {a1} (h : Keeps s x) : Keeps s (State.portDown x a1) := by
  unfold State.portDown
  repeat' first
    | with_reducible assumption
    | intro _ _
    | intro _
    | with_reducible apply Keeps.choose
    | with_reducible apply State.linkTo_keeps

theorem State.allPortsDisabled_keeps {s x} (h : Keeps s x) : Keeps s (State.allPortsDisabled x) := by
  unfold State.allPortsDisabled
  repeat' first
    | with_reducible assumption
    | intro _ _
    | intro _
    | with_reducible apply Keeps.foldl
    | with_reducible apply Keeps.foldl_snd
    | with_reducible apply Keeps.foldl_fst
    | with_reducible apply Keeps.foldl_third
    | with_reducible apply State.portDown_keeps

theorem State.portReset_keeps {s x} {a1} (h : Keeps s x) : Keeps s (State.portReset x a1) := by
  unfold State.portReset
  repeat' first
    | with_reducible assumption
    | intro _ _
    | intro _
    | with_reducible apply Keeps.choose
    | with_reducible apply State.when_keeps
    | with_reducible apply Keeps.foldl
    | with_reducible apply Keeps.foldl_snd
    | with_reducible apply Keeps.foldl_fst
    | with_reducible apply Keeps.foldl_third
    | with_reducible apply State.set_keeps
    | with_reducible apply State.setB_keeps
    | with_reducible apply State.clearBit_keeps
    | with_reducible apply State.when_keeps
    | with_reducible apply State.portEvent_keeps
    | with_reducible apply State.adaptRestart_keeps
    | with_reducible apply State.pauseClear_keeps
    | with_reducible apply State.txCut_keeps
    | with_reducible apply State.linkGo_keeps
    | with_reducible apply State.leaveUp_keeps
    | with_reducible apply State.portStart_keeps

theorem State.lanesReady_keeps {s x} (h : Keeps s x) : Keeps s (State.lanesReady x) := by
  unfold State.lanesReady
  repeat' first
    | with_reducible assumption
    | intro _ _
    | intro _
    | with_reducible apply Keeps.choose
    | with_reducible apply Keeps.foldl
    | with_reducible apply Keeps.foldl_snd
    | with_reducible apply Keeps.foldl_fst
    | with_reducible apply Keeps.foldl_third
    | with_reducible apply State.set_keeps
    | with_reducible apply State.setB_keeps
    | with_reducible apply State.portStart_keeps

theorem State.genTake_keeps {s x} {a1 a2} (h : Keeps s x) : Keeps s (State.genTake x a1 a2).2 := by
  unfold State.genTake
  repeat' first
    | with_reducible assumption
    | intro _ _
    | intro _
    | split
    | dsimp only
    | with_reducible apply Keeps.upd
theorem State.genTake_keepsE {s x} {a1 a2} {r0 t} (e : State.genTake x a1 a2 = (r0, t)) (h : Keeps s x) : Keeps s t := by
  have k := State.genTake_keeps (s := s) (x := x) (a1 := a1) (a2 := a2) h
  rwa [e] at k

theorem State.chkSees_keeps {s x} {a1 a2} (h : Keeps s x) : Keeps s (State.chkSees x a1 a2).2 := by
  unfold State.chkSees
  repeat' first
    | with_reducible assumption
    | intro _ _
    | intro _
    | with_reducible apply Keeps.choose
    | with_reducible apply State.genTake_keeps
    | refine State.genTake_keepsE (by with_reducible assumption) ?_
    | split
theorem State.chkSees_keepsE {s x} {a1 a2} {r0 t} (e : State.chkSees x a1 a2 = (r0, t)) (h : Keeps s x) : Keeps s t := by
  have k := State.chkSees_keeps (s := s) (x := x) (a1 := a1) (a2 := a2) h
  rwa [e] at k

theorem State.chkFeed_keeps {s x} {a1 a2} (h : Keeps s x) : Keeps s (State.chkFeed x a1 a2) := by
  unfold State.chkFeed
  repeat' first
    | with_reducible assumption
    | intro _ _
    | intro _
    | with_reducible apply Keeps.choose
    | with_reducible apply State.when_keeps
    | with_reducible apply Keeps.foldl
    | with_reducible apply Keeps.foldl_snd
    | with_reducible apply Keeps.foldl_fst
    | with_reducible apply Keeps.foldl_third
    | with_reducible apply State.setB_keeps
    | with_reducible apply State.add_keeps
    | with_reducible apply State.when_keeps
    | with_reducible apply State.chkSees_keeps
    | refine State.chkSees_keepsE (by with_reducible assumption) ?_
    | split
    | dsimp only
    | with_reducible apply Keeps.upd

theorem State.chkClear_keeps {s x} {a1} (h : Keeps s x) : Keeps s (State.chkClear x a1) := by
  unfold State.chkClear
  repeat' first
    | with_reducible assumption
    | intro _ _
    | intro _
    | with_reducible apply State.set_keeps
    | with_reducible apply State.setB_keeps

theorem State.laneInject_keeps {s x} {a1} (h : Keeps s x) : Keeps s (State.laneInject x a1) := by
  unfold State.laneInject
  repeat' first
    | with_reducible assumption
    | intro _ _
    | intro _
    | with_reducible apply State.emit_keeps
    | split

theorem State.genInject_keeps {s x} {a1} (h : Keeps s x) : Keeps s (State.genInject x a1) := by
  unfold State.genInject
  repeat' first
    | with_reducible assumption
    | intro _ _
    | intro _
    | with_reducible apply Keeps.choose
    | with_reducible apply State.laneInject_keeps
    | split
    | dsimp only
    | with_reducible apply Keeps.upd

theorem State.synceUpdate_keeps {s x} {a1 a2} (h : Keeps s x) : Keeps s (State.synceUpdate x a1 a2) := by
  unfold State.synceUpdate
  repeat' first
    | with_reducible assumption
    | intro _ _
    | intro _
    | with_reducible apply State.when_keeps
    | with_reducible apply State.setB_keeps
    | with_reducible apply State.when_keeps
    | split
    | dsimp only
    | with_reducible apply Keeps.upd

theorem State.cdrLock_keeps {s x} {a1 a2 a3} (h : Keeps s x) : Keeps s (State.cdrLock x a1 a2 a3) := by
  unfold State.cdrLock
  repeat' first
    | with_reducible assumption
    | intro _ _
    | intro _
    | with_reducible apply Keeps.upTo
    | with_reducible apply State.setB_keeps
    | with_reducible apply State.synceUpdate_keeps

/-! ### Machine/Ingress.lean -/

theorem State.putRx_keeps {s x} {a1 a2} (h : Keeps s x) : Keeps s (State.putRx x a1 a2) := by
  unfold State.putRx
  repeat' first
    | with_reducible assumption
    | intro _ _
    | intro _
    | split
    | dsimp only
    | with_reducible apply Keeps.upd

theorem State.rxDead_keeps {s x} {a1} (h : Keeps s x) : Keeps s (State.rxDead x a1) := by
  unfold State.rxDead
  repeat' first
    | with_reducible assumption
    | intro _ _
    | intro _
    | with_reducible apply State.putRx_keeps

theorem State.rxBreach_keeps {s x} {a1 a2} (h : Keeps s x) : Keeps s (State.rxBreach x a1 a2) := by
  unfold State.rxBreach
  repeat' first
    | with_reducible assumption
    | intro _ _
    | intro _
    | with_reducible apply State.inc_keeps
    | with_reducible apply State.fault_keeps
    | with_reducible apply State.rxDrop_keeps
    | with_reducible apply State.rxDead_keeps

theorem State.rxBegin_keeps {s x} {a1 a2} (h : Keeps s x) : Keeps s (State.rxBegin x a1 a2) := by
  unfold State.rxBegin
  repeat' first
    | with_reducible assumption
    | intro _ _
    | intro _
    | with_reducible apply Keeps.choose
    | with_reducible apply State.putStore_keeps
    | with_reducible apply State.setList_keeps
    | with_reducible apply State.xoffEval_keeps
    | with_reducible apply State.putRx_keeps
    | with_reducible apply State.rxBreach_keeps
    | refine State.grantRoom_keepsE (by with_reducible assumption) ?_
    | split

theorem State.rxSegment_keeps {s x} {a1 a2} (h : Keeps s x) : Keeps s (State.rxSegment x a1 a2) := by
  unfold State.rxSegment
  repeat' first
    | with_reducible assumption
    | intro _ _
    | intro _
    | with_reducible apply Keeps.choose
    | with_reducible apply State.tally_keeps
    | with_reducible apply State.setList_keeps
    | with_reducible apply State.xoffEval_keeps
    | with_reducible apply State.fit_keeps
    | with_reducible apply State.rxDead_keeps
    | with_reducible apply State.rxBreach_keeps
    | refine State.chargeSeg_keepsE (by with_reducible assumption) ?_
    | refine State.fit_keepsE (by with_reducible assumption) ?_
    | split
    | dsimp only

theorem State.rxPortion_keeps {s x} {a1 a2} (h : Keeps s x) : Keeps s (State.rxPortion x a1 a2) := by
  unfold State.rxPortion
  repeat' first
    | with_reducible assumption
    | intro _ _
    | intro _
    | with_reducible apply Keeps.choose
    | with_reducible apply Keeps.foldl
    | with_reducible apply Keeps.foldl_snd
    | with_reducible apply Keeps.foldl_fst
    | with_reducible apply Keeps.foldl_third
    | with_reducible apply State.putRx_keeps
    | with_reducible apply State.rxBegin_keeps
    | with_reducible apply State.rxSegment_keeps

theorem State.settleOne_keeps {s x} {a1 a2} (h : Keeps s x) : Keeps s (State.settleOne x a1 a2) := by
  unfold State.settleOne
  repeat' first
    | with_reducible assumption
    | intro _ _
    | intro _
    | with_reducible apply Keeps.choose
    | with_reducible apply State.memSet_keeps
    | with_reducible apply State.shaperMove_keeps

theorem State.settleAll_keeps {s x} {a1 a2} (h : Keeps s x) : Keeps s (State.settleAll x a1 a2) := by
  unfold State.settleAll
  repeat' first
    | with_reducible assumption
    | intro _ _
    | intro _
    | with_reducible apply Keeps.foldl
    | with_reducible apply Keeps.foldl_snd
    | with_reducible apply Keeps.foldl_fst
    | with_reducible apply Keeps.foldl_third
    | with_reducible apply State.putStore_keeps
    | with_reducible apply State.settleOne_keeps

theorem State.frameDone_keeps {s x} {a1} (h : Keeps s x) : Keeps s (State.frameDone x a1) := by
  unfold State.frameDone
  repeat' first
    | with_reducible assumption
    | intro _ _
    | intro _
    | with_reducible apply Keeps.foldl
    | with_reducible apply Keeps.foldl_snd
    | with_reducible apply Keeps.foldl_fst
    | with_reducible apply Keeps.foldl_third
    | with_reducible apply State.putStore_keeps
    | with_reducible apply State.xoffEval_keeps
    | with_reducible apply State.deltaPost_keeps
    | with_reducible apply State.endAside_keeps
    | with_reducible apply State.lateShort_keeps
    | with_reducible apply State.resolve_keeps
    | with_reducible apply State.settleAll_keeps

theorem State.rxControl_keeps {s x} {a1 a2} (h : Keeps s x) : Keeps s (State.rxControl x a1 a2) := by
  unfold State.rxControl
  repeat' first
    | with_reducible assumption
    | intro _ _
    | intro _
    | with_reducible apply State.inc_keeps
    | with_reducible apply State.pauseRx_keeps
    | split

theorem State.rxGood_keeps {s x} {a1} (h : Keeps s x) : Keeps s (State.rxGood x a1) := by
  unfold State.rxGood
  repeat' first
    | with_reducible assumption
    | intro _ _
    | intro _
    | with_reducible apply Keeps.choose
    | with_reducible apply State.when_keeps
    | with_reducible apply State.inc_keeps
    | with_reducible apply State.when_keeps
    | with_reducible apply State.setList_keeps
    | with_reducible apply State.frameDone_keeps
    | with_reducible apply State.rxControl_keeps
    | split
    | dsimp only

theorem State.rxBad_keeps {s x} {a1 a2} (h : Keeps s x) : Keeps s (State.rxBad x a1 a2) := by
  unfold State.rxBad
  repeat' first
    | with_reducible assumption
    | intro _ _
    | intro _
    | with_reducible apply Keeps.choose
    | with_reducible apply State.inc_keeps
    | with_reducible apply State.rxDrop_keeps
    | with_reducible apply State.settleAll_keeps
    | split

theorem State.rxEnd_keeps {s x} {a1 a2} (h : Keeps s x) : Keeps s (State.rxEnd x a1 a2) := by
  unfold State.rxEnd
  repeat' first
    | with_reducible assumption
    | intro _ _
    | intro _
    | with_reducible apply Keeps.choose
    | with_reducible apply State.bwCount_keeps
    | with_reducible apply State.rxGood_keeps
    | with_reducible apply State.rxBad_keeps
    | split
    | dsimp only
    | with_reducible apply Keeps.upd

theorem State.rxFrame_keeps {s x} {a1 a2 a3} (h : Keeps s x) : Keeps s (State.rxFrame x a1 a2 a3) := by
  unfold State.rxFrame
  repeat' first
    | with_reducible assumption
    | intro _ _
    | intro _
    | with_reducible apply Keeps.choose
    | with_reducible apply State.rxPortion_keeps
    | with_reducible apply State.rxEnd_keeps
    | split

theorem State.listsDrop_keeps {s x} {a1} (h : Keeps s x) : Keeps s (State.listsDrop x a1) := by
  unfold State.listsDrop
  repeat' first
    | with_reducible assumption
    | intro _ _
    | intro _
    | with_reducible apply Keeps.foldl
    | with_reducible apply Keeps.foldl_snd
    | with_reducible apply Keeps.foldl_fst
    | with_reducible apply Keeps.foldl_third
    | with_reducible apply State.uncharge_keeps
    | with_reducible apply State.release_keeps
    | split
    | dsimp only
    | with_reducible apply Keeps.upd

theorem State.holdsDrop_keeps {s x} {a1} (h : Keeps s x) : Keeps s (State.holdsDrop x a1) := by
  unfold State.holdsDrop
  repeat' first
    | with_reducible assumption
    | intro _ _
    | intro _
    | with_reducible apply Keeps.foldl
    | with_reducible apply Keeps.foldl_snd
    | with_reducible apply Keeps.foldl_fst
    | with_reducible apply Keeps.foldl_third
    | with_reducible apply State.instEnd_keeps
    | split
    | dsimp only
    | with_reducible apply Keeps.upd

theorem State.egressDrop_keeps {s x} {a1} (h : Keeps s x) : Keeps s (State.egressDrop x a1) := by
  unfold State.egressDrop
  repeat' first
    | with_reducible assumption
    | intro _ _
    | intro _
    | with_reducible apply Keeps.foldl
    | with_reducible apply Keeps.foldl_snd
    | with_reducible apply Keeps.foldl_fst
    | with_reducible apply Keeps.foldl_third
    | with_reducible apply State.setEgress_keeps
    | with_reducible apply State.egDiscard_keeps

theorem State.ingressDrop_keeps {s x} {a1} (h : Keeps s x) : Keeps s (State.ingressDrop x a1) := by
  unfold State.ingressDrop
  repeat' first
    | with_reducible assumption
    | intro _ _
    | intro _
    | with_reducible apply Keeps.foldl
    | with_reducible apply Keeps.foldl_snd
    | with_reducible apply Keeps.foldl_fst
    | with_reducible apply Keeps.foldl_third
    | with_reducible apply State.release_keeps
    | with_reducible apply State.inflightDec_keeps
    | with_reducible apply State.setIngress_keeps

theorem State.pipeReset_keeps {s x} {a1} (h : Keeps s x) : Keeps s (State.pipeReset x a1) := by
  unfold State.pipeReset
  repeat' first
    | with_reducible assumption
    | intro _ _
    | intro _
    | with_reducible apply Keeps.foldl
    | with_reducible apply Keeps.foldl_snd
    | with_reducible apply Keeps.foldl_fst
    | with_reducible apply Keeps.foldl_third
    | with_reducible apply State.xoffEval_keeps
    | with_reducible apply State.portReset_keeps
    | with_reducible apply State.listsDrop_keeps
    | with_reducible apply State.holdsDrop_keeps
    | with_reducible apply State.egressDrop_keeps
    | with_reducible apply State.ingressDrop_keeps
    | split
    | dsimp only
    | with_reducible apply Keeps.upd

/-! ### Machine/Gates.lean -/

theorem State.putGate_keeps {s x} {a1 a2} (h : Keeps s x) : Keeps s (State.putGate x a1 a2) := by
  unfold State.putGate
  repeat' first
    | with_reducible assumption
    | intro _ _
    | intro _
    | split
    | dsimp only
    | with_reducible apply Keeps.upd

theorem State.configChange_keeps {s x} {a1} (h : Keeps s x) : Keeps s (State.configChange x a1) := by
  unfold State.configChange
  repeat' first
    | with_reducible assumption
    | intro _ _
    | intro _
    | with_reducible apply Keeps.choose
    | with_reducible apply State.setB_keeps
    | with_reducible apply State.putGate_keeps

theorem State.gateDisable_keeps {s x} {a1} (h : Keeps s x) : Keeps s (State.gateDisable x a1) := by
  unfold State.gateDisable
  repeat' first
    | with_reducible assumption
    | intro _ _
    | intro _
    | with_reducible apply Keeps.choose
    | with_reducible apply State.setB_keeps
    | split
    | dsimp only
    | with_reducible apply Keeps.upd

theorem State.gateRun_keeps {s x} {a1 a2} (h : Keeps s x) : Keeps s (State.gateRun x a1 a2) := by
  unfold State.gateRun
  repeat' first
    | with_reducible assumption
    | intro _ _
    | intro _
    | with_reducible apply State.set_keeps
    | with_reducible apply State.setB_keeps
    | with_reducible apply State.putGate_keeps

theorem State.gateStart_keeps {s x} {a1} (h : Keeps s x) : Keeps s (State.gateStart x a1) := by
  unfold State.gateStart
  repeat' first
    | with_reducible assumption
    | intro _ _
    | intro _
    | with_reducible apply Keeps.choose
    | with_reducible apply State.gateRun_keeps
    | split

theorem State.gateEntry_keeps {s x} {a1} (h : Keeps s x) : Keeps s (State.gateEntry x a1) := by
  unfold State.gateEntry
  repeat' first
    | with_reducible assumption
    | intro _ _
    | intro _
    | with_reducible apply State.putGate_keeps
    | split

theorem State.gatesRelocate_keeps {s x} (h : Keeps s x) : Keeps s (State.gatesRelocate x) := by
  unfold State.gatesRelocate
  repeat' first
    | with_reducible assumption
    | intro _ _
    | intro _
    | with_reducible apply Keeps.foldl
    | with_reducible apply Keeps.foldl_snd
    | with_reducible apply Keeps.foldl_fst
    | with_reducible apply Keeps.foldl_third
    | with_reducible apply State.gateStart_keeps
    | with_reducible apply State.gateEntry_keeps

/-! ### Machine/Sched.lean -/

theorem State.putRr_keeps {s x} {a1 a2} (h : Keeps s x) : Keeps s (State.putRr x a1 a2) := by
  unfold State.putRr
  repeat' first
    | with_reducible assumption
    | intro _ _
    | intro _
    | split
    | dsimp only
    | with_reducible apply Keeps.upd

theorem State.enterEgress_keeps {s x} {a1 a2 a3 a4} (h : Keeps s x) : Keeps s (State.enterEgress x a1 a2 a3 a4) := by
  unfold State.enterEgress
  repeat' first
    | with_reducible assumption
    | intro _ _
    | intro _
    | with_reducible apply State.draw_keeps
    | with_reducible apply State.tally_keeps
    | with_reducible apply State.stripRecord_keeps
    | with_reducible apply State.setEgress_keeps

theorem State.subCommit_keeps {s x} {a1 a2 a3 a4} (h : Keeps s x) : Keeps s (State.subCommit x a1 a2 a3 a4) := by
  unfold State.subCommit
  repeat' first
    | with_reducible assumption
    | intro _ _
    | intro _
    | with_reducible apply Keeps.choose
    | with_reducible apply Keeps.foldl
    | with_reducible apply Keeps.foldl_snd
    | with_reducible apply Keeps.foldl_fst
    | with_reducible apply Keeps.foldl_third
    | with_reducible apply State.memSet_keeps
    | with_reducible apply State.putRr_keeps
    | split
    | dsimp only
    | with_reducible apply Keeps.upd

theorem State.classCommit_keeps {s x} {a1 a2 a3 a4} (h : Keeps s x) : Keeps s (State.classCommit x a1 a2 a3 a4) := by
  unfold State.classCommit
  repeat' first
    | with_reducible assumption
    | intro _ _
    | intro _
    | with_reducible apply Keeps.choose
    | with_reducible apply Keeps.foldl
    | with_reducible apply Keeps.foldl_snd
    | with_reducible apply Keeps.foldl_fst
    | with_reducible apply Keeps.foldl_third
    | with_reducible apply State.memSet_keeps
    | with_reducible apply State.putRr_keeps

theorem State.settleLater_keeps {s x} {a1 a2 a3 a4} (h : Keeps s x) : Keeps s (State.settleLater x a1 a2 a3 a4) := by
  unfold State.settleLater
  repeat' first
    | with_reducible assumption
    | intro _ _
    | intro _
    | with_reducible apply Keeps.choose
    | with_reducible apply State.putStore_keeps

theorem State.popQueue_keeps {s x} {a1} (h : Keeps s x) : Keeps s (State.popQueue x a1) := by
  unfold State.popQueue
  repeat' first
    | with_reducible assumption
    | intro _ _
    | intro _
    | with_reducible apply State.setQueue_keeps

theorem State.readStart_keeps {s x} {a1 a2} (h2 : ∀ y, Keeps s y → Keeps s (a2 y)) (h : Keeps s x) :
    Keeps s (State.readStart x a1 a2) := by
  unfold State.readStart
  repeat' first
    | with_reducible assumption
    | intro _ _
    | intro _
    | apply h2
    | with_reducible apply Keeps.choose
    | with_reducible apply State.handleErr_keeps
    | with_reducible apply State.inflightDec_keeps

theorem State.sendInst_keeps {s x} {a1 a2 a3} (h : Keeps s x) : Keeps s (State.sendInst x a1 a2 a3) := by
  unfold State.sendInst
  repeat' first
    | with_reducible assumption
    | intro _ _
    | intro _
    | with_reducible apply Keeps.choose
    | with_reducible apply State.when_keeps
    | with_reducible apply State.inc_keeps
    | with_reducible apply State.when_keeps
    | with_reducible apply State.instEnd_keeps
    | with_reducible apply State.enterEgress_keeps
    | with_reducible apply State.readStart_keeps

theorem State.stormTake_keeps {s x} {a1 a2 a3} (h : Keeps s x) : Keeps s (State.stormTake x a1 a2 a3) := by
  unfold State.stormTake
  repeat' first
    | with_reducible assumption
    | intro _ _
    | intro _
    | with_reducible apply Keeps.choose
    | with_reducible apply State.inc_keeps
    | with_reducible apply State.instEnd_keeps
    | with_reducible apply State.popQueue_keeps
    | split
    | dsimp only
    | with_reducible apply Keeps.upd

theorem State.take_keeps {s x} {a1 a2 a3 a4} (h : Keeps s x) : Keeps s (State.take x a1 a2 a3 a4) := by
  unfold State.take
  repeat' first
    | with_reducible assumption
    | intro _ _
    | intro _
    | with_reducible apply Keeps.choose
    | with_reducible apply State.tally_keeps
    | with_reducible apply State.shaperCharge_keeps
    | with_reducible apply State.setTxList_keeps
    | with_reducible apply State.settleLater_keeps
    | with_reducible apply State.popQueue_keeps
    | with_reducible apply State.sendInst_keeps
    | split
    | dsimp only
    | with_reducible apply Keeps.upd

theorem State.gateDrop_keeps {s x p c k n} (h : Keeps s x) : Keeps s (State.gateDrop x p c k n) := by
  induction n generalizing x with
  | zero => exact h
  | succ n ih =>
    simp only [State.gateDrop]
    split
    · split
      · exact ih (State.instEnd_keeps (State.fault_keeps (State.inc_keeps (State.popQueue_keeps h))))
      · exact h
    · exact h

theorem State.gateDrops_keeps {s x} {a1} (h : Keeps s x) : Keeps s (State.gateDrops x a1) := by
  unfold State.gateDrops
  repeat' first
    | with_reducible assumption
    | intro _ _
    | intro _
    | with_reducible apply Keeps.choose
    | with_reducible apply Keeps.upTo
    | with_reducible apply State.gateDrop_keeps

theorem State.selectFront_keeps {s x} {a1 a2} (h : Keeps s x) : Keeps s (State.selectFront x a1 a2) := by
  unfold State.selectFront
  repeat' first
    | with_reducible assumption
    | intro _ _
    | intro _
    | with_reducible apply Keeps.choose
    | with_reducible apply State.tally_keeps
    | with_reducible apply State.subCommit_keeps
    | with_reducible apply State.classCommit_keeps
    | with_reducible apply State.stormTake_keeps
    | with_reducible apply State.take_keeps
    | split

theorem State.selectRecirc_keeps {s x} {a1 a2} (h : Keeps s x) : Keeps s (State.selectRecirc x a1 a2) := by
  unfold State.selectRecirc
  repeat' first
    | with_reducible assumption
    | intro _ _
    | intro _
    | with_reducible apply State.tally_keeps
    | with_reducible apply State.shaperCharge_keeps
    | with_reducible apply State.enterEgress_keeps
    | with_reducible apply State.classCommit_keeps
    | with_reducible apply State.popQueue_keeps
    | with_reducible apply State.readStart_keeps
    | split
    | dsimp only

theorem State.ringWatch_keeps {s x} {a1} (h : Keeps s x) : Keeps s (State.ringWatch x a1) := by
  unfold State.ringWatch
  repeat' first
    | with_reducible assumption
    | intro _ _
    | intro _
    | with_reducible apply Keeps.choose
    | with_reducible apply State.setB_keeps
    | split
    | dsimp only
    | with_reducible apply Keeps.upd

theorem State.selectCpu_keeps {s x} {a1} (h : Keeps s x) : Keeps s (State.selectCpu x a1) := by
  unfold State.selectCpu
  repeat' first
    | with_reducible assumption
    | intro _ _
    | intro _
    | with_reducible apply Keeps.choose
    | with_reducible apply Keeps.upTo
    | with_reducible apply State.inc_keeps
    | with_reducible apply State.tally_keeps
    | with_reducible apply State.instEnd_keeps
    | with_reducible apply State.setTxList_keeps
    | with_reducible apply State.putRr_keeps
    | with_reducible apply State.enterEgress_keeps
    | with_reducible apply State.popQueue_keeps
    | with_reducible apply State.readStart_keeps
    | with_reducible apply State.ringWatch_keeps
    | split
    | dsimp only
    | with_reducible apply Keeps.upd

theorem State.setArbEg_keeps {s x} {a1 a2} (h : Keeps s x) : Keeps s (State.setArbEg x a1 a2) := by
  unfold State.setArbEg
  repeat' first
    | with_reducible assumption
    | intro _ _
    | intro _
    | split
    | dsimp only
    | with_reducible apply Keeps.upd

theorem State.portSelect_keeps {s x} {a1 a2} (h : Keeps s x) : Keeps s (State.portSelect x a1 a2) := by
  unfold State.portSelect
  repeat' first
    | with_reducible assumption
    | intro _ _
    | intro _
    | with_reducible apply Keeps.choose
    | with_reducible apply State.selectFront_keeps
    | with_reducible apply State.selectRecirc_keeps
    | with_reducible apply State.selectCpu_keeps

theorem State.schedSelect_keeps {s x} {a1 a2} (h : Keeps s x) : Keeps s (State.schedSelect x a1 a2) := by
  unfold State.schedSelect
  repeat' first
    | with_reducible assumption
    | intro _ _
    | intro _
    | with_reducible apply Keeps.choose
    | with_reducible apply State.when_keeps
    | with_reducible apply State.when_keeps
    | with_reducible apply State.gateDrops_keeps
    | with_reducible apply State.setArbEg_keeps
    | with_reducible apply State.portSelect_keeps

theorem State.launchReached_keeps {s x} {a1} (h : Keeps s x) : Keeps s (State.launchReached x a1) := by
  unfold State.launchReached
  repeat' first
    | with_reducible assumption
    | intro _ _
    | intro _
    | with_reducible apply Keeps.choose
    | with_reducible apply State.setQueue_keeps
    | split

/-! ### Machine/Egress.lean -/

theorem State.putTx_keeps {s x} {a1 a2} (h : Keeps s x) : Keeps s (State.putTx x a1 a2) := by
  unfold State.putTx
  repeat' first
    | with_reducible assumption
    | intro _ _
    | intro _
    | split
    | dsimp only
    | with_reducible apply Keeps.upd

theorem State.delTx_keeps {s x} {a1} (h : Keeps s x) : Keeps s (State.delTx x a1) := by
  unfold State.delTx
  repeat' first
    | with_reducible assumption
    | intro _ _
    | intro _
    | with_reducible apply State.txDue_keeps
    | split
    | dsimp only
    | with_reducible apply Keeps.upd

theorem State.departStart_keeps {s x} {a1 a2} (h2 : ∀ y, Keeps s y → Keeps s (a2 y)) (h : Keeps s x) :
    Keeps s (State.departStart x a1 a2) := by
  unfold State.departStart
  repeat' first
    | with_reducible assumption
    | intro _ _
    | intro _
    | apply h2
    | with_reducible apply State.when_keeps
    | with_reducible apply State.when_keeps
    | with_reducible apply State.dropCard_keeps
    | with_reducible apply State.readStart_keeps

theorem State.departCards_keeps {s x} {a1 a2} (h : Keeps s x) : Keeps s (State.departCards x a1 a2) := by
  unfold State.departCards
  repeat' first
    | with_reducible assumption
    | intro _ _
    | intro _
    | with_reducible apply State.foldRecord_keeps
    | with_reducible apply State.cardAsk_keeps

theorem State.txBegin_keeps {s x} {a1 a2 a3} (h : Keeps s x) : Keeps s (State.txBegin x a1 a2 a3) := by
  unfold State.txBegin
  repeat' first
    | with_reducible assumption
    | intro _ _
    | intro _
    | with_reducible apply Keeps.choose
    | with_reducible apply State.inc_keeps
    | with_reducible apply State.readFrame_keeps
    | with_reducible apply State.departHead_keeps
    | with_reducible apply State.egDiscard_keeps
    | with_reducible apply State.putTx_keeps
    | with_reducible apply State.departCards_keeps

theorem State.txStart_keeps {s x} {a1 a2} (h : Keeps s x) : Keeps s (State.txStart x a1 a2) := by
  unfold State.txStart
  repeat' first
    | with_reducible assumption
    | intro _ _
    | intro _
    | with_reducible apply Keeps.choose
    | with_reducible apply State.setTxList_keeps
    | with_reducible apply State.txDue_keeps
    | with_reducible apply State.putTx_keeps
    | with_reducible apply State.departStart_keeps
    | with_reducible apply State.txBegin_keeps
    | split
    | dsimp only

theorem State.txBad_keeps {s x} {a1 a2} (h : Keeps s x) : Keeps s (State.txBad x a1 a2) := by
  unfold State.txBad
  repeat' first
    | with_reducible assumption
    | intro _ _
    | intro _
    | with_reducible apply State.instEnd_keeps
    | with_reducible apply State.txStomp_keeps
    | with_reducible apply State.delTx_keeps
    | split

theorem State.txUnderrun_keeps {s x} {a1} (h : Keeps s x) : Keeps s (State.txUnderrun x a1) := by
  unfold State.txUnderrun
  repeat' first
    | with_reducible assumption
    | intro _ _
    | intro _
    | with_reducible apply State.inc_keeps
    | with_reducible apply State.fault_keeps
    | with_reducible apply State.txBad_keeps
    | split

theorem State.txSent_keeps {s x} {a1 a2} (h : Keeps s x) : Keeps s (State.txSent x a1 a2) := by
  unfold State.txSent
  repeat' first
    | with_reducible assumption
    | intro _ _
    | intro _
    | with_reducible apply State.emit_keeps
    | with_reducible apply State.bwCount_keeps
    | with_reducible apply State.delTx_keeps

theorem State.txEnd_keeps {s x} {a1 a2 a3 a4} (h : Keeps s x) : Keeps s (State.txEnd x a1 a2 a3 a4) := by
  unfold State.txEnd
  repeat' first
    | with_reducible assumption
    | intro _ _
    | intro _
    | with_reducible apply Keeps.choose
    | with_reducible apply State.when_keeps
    | with_reducible apply State.inc_keeps
    | with_reducible apply State.when_keeps
    | with_reducible apply State.instEnd_keeps
    | with_reducible apply State.readFrame_keeps
    | with_reducible apply State.ecnLate_keeps
    | with_reducible apply State.departCards_keeps
    | with_reducible apply State.txBad_keeps
    | with_reducible apply State.txSent_keeps

theorem State.txComplete_keeps {s x} {a1 a2} (h : Keeps s x) : Keeps s (State.txComplete x a1 a2) := by
  unfold State.txComplete
  repeat' first
    | with_reducible assumption
    | intro _ _
    | intro _
    | with_reducible apply Keeps.choose
    | with_reducible apply State.inc_keeps
    | with_reducible apply State.txSent_keeps
    | with_reducible apply State.txEnd_keeps
    | split

theorem State.rxEntries_keeps {s x r k f d n} (h : Keeps s x) : Keeps s (State.rxEntries x r k f d n) := by
  induction n generalizing x k d with
  | zero => exact h
  | succ n ih => exact ih (State.ringComplete_keeps (State.memStore_keeps (State.memStore_keeps h)))

theorem State.rxDeliver_keeps {s x} {a1 a2 a3} (h : Keeps s x) : Keeps s (State.rxDeliver x a1 a2 a3) := by
  unfold State.rxDeliver
  repeat' first
    | with_reducible assumption
    | intro _ _
    | intro _
    | with_reducible apply State.ringWatch_keeps
    | with_reducible apply State.rxEntries_keeps

theorem State.rxInst_keeps {s x} {a1 a2 a3} (h : Keeps s x) : Keeps s (State.rxInst x a1 a2 a3) := by
  unfold State.rxInst
  repeat' first
    | with_reducible assumption
    | intro _ _
    | intro _
    | with_reducible apply Keeps.choose
    | with_reducible apply State.when_keeps
    | with_reducible apply State.inc_keeps
    | with_reducible apply State.when_keeps
    | with_reducible apply State.instEnd_keeps
    | with_reducible apply State.readFrame_keeps
    | with_reducible apply State.departHead_keeps
    | with_reducible apply State.egDiscard_keeps
    | with_reducible apply State.take_keeps
    | with_reducible apply State.departCards_keeps
    | with_reducible apply State.rxDeliver_keeps

theorem State.rxRingWrite_keeps {s x} {a1 a2} (h : Keeps s x) : Keeps s (State.rxRingWrite x a1 a2) := by
  unfold State.rxRingWrite
  repeat' first
    | with_reducible assumption
    | intro _ _
    | intro _
    | with_reducible apply Keeps.choose
    | with_reducible apply State.inc_keeps
    | with_reducible apply State.draw_keeps
    | with_reducible apply State.setTxList_keeps
    | with_reducible apply State.take_keeps
    | with_reducible apply State.departStart_keeps
    | with_reducible apply State.rxDeliver_keeps
    | with_reducible apply State.rxInst_keeps
    | split
    | dsimp only

theorem State.rxStall_keeps {s x} {a1} (h : Keeps s x) : Keeps s (State.rxStall x a1) := by
  unfold State.rxStall
  repeat' first
    | with_reducible assumption
    | intro _ _
    | intro _
    | with_reducible apply Keeps.choose
    | with_reducible apply State.setB_keeps
    | with_reducible apply State.fault_keeps
    | with_reducible apply State.ringWatch_keeps
    | split
    | dsimp only

theorem State.txBack_keeps {s x n st l} (h : Keeps s x) : Keeps s (State.txBack x n st l) := by
  induction l generalizing x with
  | nil => exact h
  | cons b l ih => exact ih (State.ringComplete_keeps h)

theorem State.txStore_keeps {s x} {a1 a2 a3} (h : Keeps s x) : Keeps s (State.txStore x a1 a2 a3).2 := by
  unfold State.txStore
  repeat' first
    | with_reducible assumption
    | intro _ _
    | intro _
    | with_reducible apply State.tally_keeps
    | with_reducible apply State.xoffEval_keeps
    | with_reducible apply State.refuse_keeps
    | with_reducible apply State.fit_keeps
    | refine State.chargeSegs_keepsE (by with_reducible assumption) ?_
    | refine State.fit_keepsE (by with_reducible assumption) ?_
    | refine State.grantRoom_keepsE (by with_reducible assumption) ?_
    | split
    | dsimp only
theorem State.txStore_keepsE {s x} {a1 a2 a3} {r0 t} (e : State.txStore x a1 a2 a3 = (r0, t)) (h : Keeps s x) :
    Keeps s t := by
  have k := State.txStore_keeps (s := s) (x := x) (a1 := a1) (a2 := a2) (a3 := a3) h
  rwa [e] at k

theorem State.txSend_keeps {s x} {a1 a2 a3} (h : Keeps s x) : Keeps s (State.txSend x a1 a2 a3) := by
  unfold State.txSend
  repeat' first
    | with_reducible assumption
    | intro _ _
    | intro _
    | with_reducible apply Keeps.choose
    | with_reducible apply State.setCpuList_keeps

theorem State.txTake_keeps {s x} {a1} (h : Keeps s x) : Keeps s (State.txTake x a1) := by
  unfold State.txTake
  repeat' first
    | with_reducible assumption
    | intro _ _
    | intro _
    | with_reducible apply Keeps.choose
    | with_reducible apply State.inc_keeps
    | with_reducible apply State.txBack_keeps
    | with_reducible apply State.txStore_keeps
    | with_reducible apply State.txSend_keeps
    | refine State.txStore_keepsE (by with_reducible assumption) ?_
    | split

theorem State.ringExamine_keeps {s x} {a1} (h : Keeps s x) : Keeps s (State.ringExamine x a1) := by
  unfold State.ringExamine
  repeat' first
    | with_reducible assumption
    | intro _ _
    | intro _
    | with_reducible apply Keeps.choose
    | with_reducible apply State.ringWatch_keeps
    | with_reducible apply State.txTake_keeps

theorem State.ringsPrompt_keeps {s x} {a1 a2} (h : Keeps s x) : Keeps s (State.ringsPrompt x a1 a2) := by
  unfold State.ringsPrompt
  repeat' first
    | with_reducible assumption
    | intro _ _
    | intro _
    | with_reducible apply Keeps.choose
    | with_reducible apply Keeps.upTo
    | with_reducible apply State.ringExamine_keeps

theorem State.bezelWrite_keeps {s x} {a1 a2 a3} (h : Keeps s x) : Keeps s (State.bezelWrite x a1 a2 a3) := by
  unfold State.bezelWrite
  repeat' first
    | with_reducible assumption
    | intro _ _
    | intro _
    | with_reducible apply Keeps.choose
    | with_reducible apply State.bezelStore_keeps
    | with_reducible apply State.ringsPrompt_keeps

theorem State.poisoned_keeps {s x} {a1} (h : Keeps s x) : Keeps s (State.poisoned x a1) := by
  unfold State.poisoned
  repeat' first
    | with_reducible assumption
    | intro _ _
    | intro _
    | with_reducible apply Keeps.choose
    | with_reducible apply State.hostEvent_keeps
    | with_reducible apply State.fault_keeps

end Sys2Proof.Machine
end

