-- ==== Sys2Proof/Laws/KeepsHost.lean ====
section
/-!
SUPPORT. What the operations of DMA and the image keep: one lemma for each.
-/
namespace Sys2Proof.Machine
set_option Elab.async false

/-! ### Machine/DeviceSpace.lean -/

theorem State.shaperBefore_keeps {s x} {a1} (h : Keeps s x) : Keeps s (State.shaperBefore x a1) := by
  unfold State.shaperBefore
  repeat' first
    | with_reducible assumption
    | intro _ _
    | intro _
    | with_reducible apply Keeps.choose
    | with_reducible apply State.putBucket_keeps
    | split
    | dsimp only
    | with_reducible apply Keeps.upd

theorem State.policerBefore_keeps {s x} {a1} (h : Keeps s x) : Keeps s (State.policerBefore x a1) := by
  unfold State.policerBefore
  repeat' first
    | with_reducible assumption
    | intro _ _
    | intro _
    | with_reducible apply Keeps.choose
    | with_reducible apply State.putBucket_keeps
    | split
    | dsimp only
    | with_reducible apply Keeps.upd

theorem State.pairDiscard_keeps {s x} {a1} (h : Keeps s x) : Keeps s (State.pairDiscard x a1) := by
  unfold State.pairDiscard
  repeat' first
    | with_reducible assumption
    | intro _ _
    | intro _
    | with_reducible apply Keeps.upTo
    | with_reducible apply State.setDeltas_keeps

theorem State.devCommit_keeps {s x} {a1 a2} (h : Keeps s x) : Keeps s (State.devCommit x a1 a2) := by
  unfold State.devCommit
  repeat' first
    | with_reducible assumption
    | intro _ _
    | intro _
    | with_reducible apply Keeps.choose
    | with_reducible apply Keeps.foldl
    | with_reducible apply Keeps.foldl_snd
    | with_reducible apply Keeps.foldl_fst
    | with_reducible apply Keeps.foldl_third
    | with_reducible apply State.memStore_keeps
    | with_reducible apply State.aseOp_keeps
    | with_reducible apply State.take_keeps
    | with_reducible apply State.shaperBefore_keeps
    | with_reducible apply State.policerBefore_keeps
    | with_reducible apply State.pairDiscard_keeps
    | split

theorem State.devDeliver_keepsE {s x p a b t q} (e : State.devDeliver x p a b = .inl (t, q)) (h : Keeps s x) :
    Keeps s t := by
  unfold State.devDeliver at e
  dsimp only at e
  split at e
  · cases e
  · split at e
    · cases e
    · split at e <;> cases e
      · exact State.devCommit_keeps h
      · exact h

/-! ### Machine/Dma.lean -/

theorem State.dmaPut_keeps {s x} {a1 a2} (h : Keeps s x) : Keeps s (State.dmaPut x a1 a2) := by
  unfold State.dmaPut
  repeat' first
    | with_reducible assumption
    | intro _ _
    | intro _
    | split
    | dsimp only
    | with_reducible apply Keeps.upd

theorem State.dmaMessage_keeps {s x} {a1} (h : Keeps s x) : Keeps s (State.dmaMessage x a1) := by
  unfold State.dmaMessage
  repeat' first
    | with_reducible assumption
    | intro _ _
    | intro _
    | with_reducible apply State.msixSend_keeps

theorem State.dmaHalt_keeps {s x} {a1 a2 a3} (h : Keeps s x) : Keeps s (State.dmaHalt x a1 a2 a3) := by
  unfold State.dmaHalt
  repeat' first
    | with_reducible assumption
    | intro _ _
    | intro _
    | with_reducible apply State.set_keeps
    | with_reducible apply State.setB_keeps
    | with_reducible apply State.dmaPut_keeps
    | with_reducible apply State.dmaMessage_keeps

theorem State.dmaStart_keeps {s x} {a1} (h : Keeps s x) : Keeps s (State.dmaStart x a1) := by
  unfold State.dmaStart
  repeat' first
    | with_reducible assumption
    | intro _ _
    | intro _
    | with_reducible apply State.set_keeps
    | with_reducible apply State.setB_keeps
    | with_reducible apply State.dmaPut_keeps
    | with_reducible apply State.dmaHalt_keeps
    | split

theorem State.dmaHandover_keeps {s x} {a1} (h : Keeps s x) : Keeps s (State.dmaHandover x a1) := by
  unfold State.dmaHandover
  repeat' first
    | with_reducible assumption
    | intro _ _
    | intro _
    | with_reducible apply Keeps.choose
    | with_reducible apply State.set_keeps
    | with_reducible apply State.setB_keeps
    | with_reducible apply State.inc_keeps
    | with_reducible apply State.dmaStart_keeps

theorem State.dmaGo_keeps {s x} {a1} (h : Keeps s x) : Keeps s (State.dmaGo x a1) := by
  unfold State.dmaGo
  repeat' first
    | with_reducible assumption
    | intro _ _
    | intro _
    | with_reducible apply Keeps.choose
    | with_reducible apply State.setB_keeps
    | with_reducible apply State.dmaStart_keeps

theorem State.dmaAbort_keeps {s x} {a1} (h : Keeps s x) : Keeps s (State.dmaAbort x a1) := by
  unfold State.dmaAbort
  repeat' first
    | with_reducible assumption
    | intro _ _
    | intro _
    | with_reducible apply Keeps.choose
    | with_reducible apply State.dmaHalt_keeps

theorem State.dmaClearHalt_keeps {s x} {a1} (h : Keeps s x) : Keeps s (State.dmaClearHalt x a1) := by
  unfold State.dmaClearHalt
  repeat' first
    | with_reducible assumption
    | intro _ _
    | intro _
    | with_reducible apply Keeps.choose
    | with_reducible apply State.set_keeps
    | with_reducible apply State.dmaHandover_keeps

theorem State.shadowArm_keeps {s x} {a1} (h : Keeps s x) : Keeps s (State.shadowArm x a1) := by
  unfold State.shadowArm
  repeat' first
    | with_reducible assumption
    | intro _ _
    | intro _
    | with_reducible apply Keeps.choose
    | with_reducible apply State.setB_keeps
    | with_reducible apply State.dmaHandover_keeps

theorem shadowWord_keeps {s x} {a1 a2 a3} (h : Keeps s x) : Keeps s (shadowWord x a1 a2 a3) := by
  unfold shadowWord
  repeat' first
    | with_reducible assumption
    | intro _ _
    | intro _
    | with_reducible apply Keeps.choose
    | with_reducible apply State.set_keeps
    | with_reducible apply State.setB_keeps
    | split
    | dsimp only
    | with_reducible apply Keeps.upd

theorem State.dmaFlush_keeps {s x} {a1} (h : Keeps s x) : Keeps s (State.dmaFlush x a1) := by
  unfold State.dmaFlush
  repeat' first
    | with_reducible assumption
    | intro _ _
    | intro _
    | with_reducible apply Keeps.foldl
    | with_reducible apply Keeps.foldl_snd
    | with_reducible apply Keeps.foldl_fst
    | with_reducible apply Keeps.foldl_third
    | with_reducible apply State.emit_keeps
    | with_reducible apply State.dmaPut_keeps
    | split

theorem State.dmaGather_keeps {s x} {a1 a2 a3} (h : Keeps s x) : Keeps s (State.dmaGather x a1 a2 a3) := by
  unfold State.dmaGather
  repeat' first
    | with_reducible assumption
    | intro _ _
    | intro _
    | with_reducible apply Keeps.choose
    | with_reducible apply State.dmaPut_keeps
    | with_reducible apply State.dmaFlush_keeps
    | split

theorem State.dmaUnits_keeps {s x c p l} (h : Keeps s x) : Keeps s (State.dmaUnits x c p l).1 := by
  induction l generalizing x p with
  | nil => exact h
  | cons b l ih =>
    simp only [State.dmaUnits]
    split
    · exact ih (State.dmaPut_keeps (State.devDeliver_keepsE (by assumption) h))
    · exact h

theorem State.dmaDeliver_keeps {s x} {a1 a2 a3} (h : Keeps s x) : Keeps s (State.dmaDeliver x a1 a2 a3).1 := by
  unfold State.dmaDeliver
  repeat' first
    | with_reducible assumption
    | intro _ _
    | intro _
    | with_reducible apply Keeps.choose
    | with_reducible apply State.dmaGather_keeps
    | with_reducible apply State.dmaUnits_keeps
    | split
    | dsimp only
theorem State.dmaDeliver_keepsE {s x} {a1 a2 a3} {t r1} (e : State.dmaDeliver x a1 a2 a3 = (t, r1)) (h : Keeps s x) :
    Keeps s t := by
  have k := State.dmaDeliver_keeps (s := s) (x := x) (a1 := a1) (a2 := a2) (a3 := a3) h
  rwa [e] at k

theorem State.dmaHalf_keeps {s x} {a1} (h : Keeps s x) : Keeps s (State.dmaHalf x a1) := by
  unfold State.dmaHalf
  repeat' first
    | with_reducible assumption
    | intro _ _
    | intro _
    | with_reducible apply Keeps.choose
    | with_reducible apply State.setB_keeps
    | with_reducible apply State.dmaMessage_keeps
    | with_reducible apply State.dmaFlush_keeps

theorem State.dmaMove_keeps {s x c i d n} (h : Keeps s x) : Keeps s (State.dmaMove x c i d n) := by
  induction n generalizing x i with
  | zero => exact h
  | succ n ih =>
    simp only [State.dmaMove]
    split
    · exact h
    · split
      · exact State.dmaHalt_keeps (State.set_keeps (State.dmaFlush_keeps h))
      · split
        · exact State.dmaHalt_keeps (State.set_keeps (State.dmaDeliver_keepsE (by assumption) h))
        · exact ih (State.dmaHalf_keeps (State.dmaPut_keeps (State.dmaDeliver_keepsE (by assumption) h)))

theorem State.dmaPrompt_keeps {s x} {a1} (h : Keeps s x) : Keeps s (State.dmaPrompt x a1) := by
  unfold State.dmaPrompt
  repeat' first
    | with_reducible assumption
    | intro _ _
    | intro _
    | with_reducible apply Keeps.choose
    | with_reducible apply State.ringsPrompt_keeps

theorem State.dmaBurst_keeps {s x} {a1 a2} (h : Keeps s x) : Keeps s (State.dmaBurst x a1 a2) := by
  unfold State.dmaBurst
  repeat' first
    | with_reducible assumption
    | intro _ _
    | intro _
    | with_reducible apply Keeps.choose
    | with_reducible apply State.dmaPut_keeps
    | with_reducible apply State.dmaHalt_keeps
    | with_reducible apply State.dmaFlush_keeps
    | with_reducible apply State.dmaMove_keeps
    | with_reducible apply State.dmaPrompt_keeps
    | split
    | dsimp only
    | with_reducible apply Keeps.upd

theorem State.dmaReadback_keeps {s x} {a1 a2} (h : Keeps s x) : Keeps s (State.dmaReadback x a1 a2) := by
  unfold State.dmaReadback
  repeat' first
    | with_reducible assumption
    | intro _ _
    | intro _
    | with_reducible apply Keeps.choose
    | with_reducible apply State.when_keeps
    | with_reducible apply State.set_keeps
    | with_reducible apply State.setB_keeps
    | with_reducible apply State.when_keeps
    | with_reducible apply State.dmaPut_keeps
    | with_reducible apply State.dmaMessage_keeps
    | with_reducible apply State.dmaHalt_keeps
    | with_reducible apply State.dmaHandover_keeps

theorem State.dmaLinkEnd_keeps {s x} {a1} (h : Keeps s x) : Keeps s (State.dmaLinkEnd x a1) := by
  unfold State.dmaLinkEnd
  repeat' first
    | with_reducible assumption
    | intro _ _
    | intro _
    | with_reducible apply Keeps.choose
    | with_reducible apply Keeps.upTo
    | with_reducible apply State.dmaHalt_keeps

/-! ### Machine/ImageApply.lean -/

theorem State.fill_keeps {s x} {a1 a2} (h : Keeps s x) : Keeps s (State.fill x a1 a2) := by
  unfold State.fill
  repeat' first
    | with_reducible assumption
    | intro _ _
    | intro _
    | with_reducible apply State.memStore_keeps

theorem State.fillArea_keeps {s x} {a1 a2 a3} (h : Keeps s x) : Keeps s (State.fillArea x a1 a2 a3) := by
  unfold State.fillArea
  repeat' first
    | with_reducible assumption
    | intro _ _
    | intro _
    | with_reducible apply State.injTake_keeps
    | with_reducible apply State.memZero_keeps
    | with_reducible apply State.fill_keeps

theorem State.copyRange_keeps {s x a b c} (h : Keeps s x) : Keeps s (State.copyRange x a b c) :=
  .of_dev (State.injTake_keeps (State.memZero_keeps h))
    (foldl_keeps (fun m => memWf m = true) _ (fun m d i => memWf_memPut m _ d.2 i) _ _) rfl rfl rfl

theorem State.loadStop_keeps {s x} {a1} (h : Keeps s x) : Keeps s (State.loadStop x a1) := by
  unfold State.loadStop
  repeat' first
    | with_reducible assumption
    | intro _ _
    | intro _
    | with_reducible apply Keeps.foldl
    | with_reducible apply Keeps.foldl_snd
    | with_reducible apply Keeps.foldl_fst
    | with_reducible apply Keeps.foldl_third
    | with_reducible apply State.set_keeps
    | with_reducible apply State.setB_keeps
    | with_reducible apply State.add_keeps
    | with_reducible apply State.ringsStop_keeps
    | with_reducible apply State.discardPackets_keeps
    | with_reducible apply State.allLines_keeps
    | with_reducible apply State.portDown_keeps
    | with_reducible apply State.txComplete_keeps
    | refine State.discardPackets_keepsE (by with_reducible assumption) ?_
    | split
    | dsimp only
    | with_reducible apply Keeps.upd

theorem State.portWindowsClear_keeps {s x} {a1} (h : Keeps s x) : Keeps s (State.portWindowsClear x a1) := by
  unfold State.portWindowsClear
  repeat' first
    | with_reducible assumption
    | intro _ _
    | intro _
    | split
    | dsimp only
    | with_reducible apply Keeps.upd

theorem State.loadClear_keeps {s x} (h : Keeps s x) : Keeps s (State.loadClear x) := by
  unfold State.loadClear
  repeat' first
    | with_reducible assumption
    | intro _ _
    | intro _
    | with_reducible apply State.memZero_keeps
    | with_reducible apply State.link_keeps
    | split
    | dsimp only
    | with_reducible apply Keeps.upd

theorem State.portFresh_keeps {s x} {a1} (h : Keeps s x) : Keeps s (State.portFresh x a1) := by
  unfold State.portFresh
  repeat' first
    | with_reducible assumption
    | intro _ _
    | intro _
    | with_reducible apply State.when_keeps
    | with_reducible apply State.set_keeps
    | with_reducible apply State.setB_keeps

theorem State.portsApply_keeps {s x} (h : Keeps s x) : Keeps s (State.portsApply x) := by
  unfold State.portsApply
  repeat' first
    | with_reducible assumption
    | intro _ _
    | intro _
    | with_reducible apply Keeps.choose
    | with_reducible apply Keeps.foldl
    | with_reducible apply Keeps.foldl_snd
    | with_reducible apply Keeps.foldl_fst
    | with_reducible apply Keeps.foldl_third
    | with_reducible apply State.portFresh_keeps

theorem State.parseApply_keeps {s x} {a1} (h : Keeps s x) : Keeps s (State.parseApply x a1) := by
  unfold State.parseApply
  repeat' first
    | with_reducible assumption
    | intro _ _
    | intro _
    | with_reducible apply Keeps.foldl
    | with_reducible apply Keeps.foldl_snd
    | with_reducible apply Keeps.foldl_fst
    | with_reducible apply Keeps.foldl_third
    | with_reducible apply Keeps.upTo
    | with_reducible apply State.set_keeps

theorem State.emApply_keeps {s x} (h : Keeps s x) : Keeps s (State.emApply x) := by
  unfold State.emApply
  repeat' first
    | with_reducible assumption
    | intro _ _
    | intro _
    | with_reducible apply Keeps.upTo
    | with_reducible apply State.set_keeps

theorem State.aseApply_keeps {s x} (h : Keeps s x) : Keeps s (State.aseApply x) := by
  unfold State.aseApply
  repeat' first
    | with_reducible assumption
    | intro _ _
    | intro _
    | with_reducible apply Keeps.choose
    | with_reducible apply Keeps.upTo
    | with_reducible apply State.set_keeps
    | with_reducible apply State.setB_keeps

theorem State.filApply_keeps {s x} (h : Keeps s x) : Keeps s (State.filApply x) := by
  unfold State.filApply
  repeat' first
    | with_reducible assumption
    | intro _ _
    | intro _
    | with_reducible apply Keeps.choose
    | with_reducible apply Keeps.upTo
    | with_reducible apply State.set_keeps
    | with_reducible apply State.setB_keeps

theorem State.stagesApply_keeps {s x} (h : Keeps s x) : Keeps s (State.stagesApply x) := by
  unfold State.stagesApply
  repeat' first
    | with_reducible assumption
    | intro _ _
    | intro _
    | with_reducible apply Keeps.upTo
    | with_reducible apply State.set_keeps

theorem State.programWrite_keeps {s x} {a1 a2} (h : Keeps s x) : Keeps s (State.programWrite x a1 a2) := by
  unfold State.programWrite
  repeat' first
    | with_reducible assumption
    | intro _ _
    | intro _
    | with_reducible apply Keeps.upTo
    | with_reducible apply State.fill_keeps

theorem State.dataWrite_keeps {s x} {a1 a2} (h : Keeps s x) : Keeps s (State.dataWrite x a1 a2) := by
  unfold State.dataWrite
  repeat' first
    | with_reducible assumption
    | intro _ _
    | intro _
    | with_reducible apply State.fillArea_keeps

theorem State.treesWrite_keeps {s x} {a1 a2} (h : Keeps s x) : Keeps s (State.treesWrite x a1 a2) := by
  unfold State.treesWrite
  repeat' first
    | with_reducible assumption
    | intro _ _
    | intro _
    | with_reducible apply Keeps.upTo
    | with_reducible apply State.fillArea_keeps
    | split
    | dsimp only
    | with_reducible apply Keeps.upd

theorem State.programCopy_keeps {s x} {a1} (h : Keeps s x) : Keeps s (State.programCopy x a1) := by
  unfold State.programCopy
  repeat' first
    | with_reducible assumption
    | intro _ _
    | intro _
    | with_reducible apply Keeps.upTo
    | with_reducible apply State.copyRange_keeps

theorem State.dataCopy_keeps {s x} {a1} (h : Keeps s x) : Keeps s (State.dataCopy x a1) := by
  unfold State.dataCopy
  repeat' first
    | with_reducible assumption
    | intro _ _
    | intro _
    | with_reducible apply State.copyRange_keeps

theorem State.treesCopy_keeps {s x} {a1} (h : Keeps s x) : Keeps s (State.treesCopy x a1) := by
  unfold State.treesCopy
  repeat' first
    | with_reducible assumption
    | intro _ _
    | intro _
    | with_reducible apply Keeps.upTo
    | with_reducible apply State.copyRange_keeps
    | split
    | dsimp only
    | with_reducible apply Keeps.upd

theorem State.updateWrite_keeps {s x} {a1 a2} (h : Keeps s x) : Keeps s (State.updateWrite x a1 a2) := by
  unfold State.updateWrite
  repeat' first
    | with_reducible assumption
    | intro _ _
    | intro _
    | with_reducible apply State.programWrite_keeps
    | with_reducible apply State.dataWrite_keeps
    | with_reducible apply State.treesWrite_keeps
    | with_reducible apply State.programCopy_keeps
    | with_reducible apply State.dataCopy_keeps
    | with_reducible apply State.treesCopy_keeps
    | split

theorem State.poolsApply_keeps {s x} (h : Keeps s x) : Keeps s (State.poolsApply x) := by
  unfold State.poolsApply
  repeat' first
    | with_reducible assumption
    | intro _ _
    | intro _
    | with_reducible apply Keeps.foldl
    | with_reducible apply Keeps.foldl_snd
    | with_reducible apply Keeps.foldl_fst
    | with_reducible apply Keeps.foldl_third
    | with_reducible apply Keeps.upTo
    | with_reducible apply State.set_keeps

theorem State.reqsApply_keeps {s x} (h : Keeps s x) : Keeps s (State.reqsApply x) := by
  unfold State.reqsApply
  repeat' first
    | with_reducible assumption
    | intro _ _
    | intro _
    | with_reducible apply State.xoffEval_keeps
    | split
    | dsimp only
    | with_reducible apply Keeps.upd

theorem State.queuesApply_keeps {s x} (h : Keeps s x) : Keeps s (State.queuesApply x) := by
  unfold State.queuesApply
  repeat' first
    | with_reducible assumption
    | intro _ _
    | intro _
    | with_reducible apply Keeps.foldl
    | with_reducible apply Keeps.foldl_snd
    | with_reducible apply Keeps.foldl_fst
    | with_reducible apply Keeps.foldl_third
    | with_reducible apply State.fill_keeps

theorem State.teleApply_keeps {s x} (h : Keeps s x) : Keeps s (State.teleApply x) := by
  unfold State.teleApply
  repeat' first
    | with_reducible assumption
    | intro _ _
    | intro _
    | with_reducible apply State.set_keeps

theorem State.hostApply_keeps {s x} (h : Keeps s x) : Keeps s (State.hostApply x) := by
  unfold State.hostApply
  repeat' first
    | with_reducible assumption
    | intro _ _
    | intro _
    | with_reducible apply Keeps.choose
    | with_reducible apply Keeps.upTo
    | with_reducible apply State.set_keeps

theorem State.initEm_keeps {s x} {a1} (h : Keeps s x) : Keeps s (State.initEm x a1) := by
  unfold State.initEm
  repeat' first
    | with_reducible assumption
    | intro _ _
    | intro _
    | with_reducible apply Keeps.upTo
    | with_reducible apply State.emInsert_keeps

theorem State.initAse_keeps {s x} {a1} (h : Keeps s x) : Keeps s (State.initAse x a1) := by
  unfold State.initAse
  repeat' first
    | with_reducible assumption
    | intro _ _
    | intro _
    | with_reducible apply Keeps.choose
    | with_reducible apply Keeps.upTo
    | with_reducible apply State.take_keeps
    | with_reducible apply State.fill_keeps

theorem State.initDirect_keeps {s x} {a1} (h : Keeps s x) : Keeps s (State.initDirect x a1) := by
  unfold State.initDirect
  repeat' first
    | with_reducible assumption
    | intro _ _
    | intro _
    | with_reducible apply Keeps.foldl
    | with_reducible apply Keeps.foldl_snd
    | with_reducible apply Keeps.foldl_fst
    | with_reducible apply Keeps.foldl_third
    | with_reducible apply State.fill_keeps

theorem State.initApply_keeps {s x} (h : Keeps s x) : Keeps s (State.initApply x) := by
  unfold State.initApply
  repeat' first
    | with_reducible assumption
    | intro _ _
    | intro _
    | with_reducible apply Keeps.choose
    | with_reducible apply Keeps.foldl
    | with_reducible apply Keeps.foldl_snd
    | with_reducible apply Keeps.foldl_fst
    | with_reducible apply Keeps.foldl_third
    | with_reducible apply State.initEm_keeps
    | with_reducible apply State.initAse_keeps
    | with_reducible apply State.initDirect_keeps

theorem State.runShow_keeps {s x} {a1 a2} (h : Keeps s x) : Keeps s (State.runShow x a1 a2) := by
  unfold State.runShow
  repeat' first
    | with_reducible assumption
    | intro _ _
    | intro _
    | with_reducible apply Keeps.upTo
    | with_reducible apply State.set_keeps
    | with_reducible apply State.setB_keeps

theorem State.loadApply_keeps {s x} {a1 a2} (h : Keeps s x) : Keeps s (State.loadApply x a1 a2) := by
  unfold State.loadApply
  repeat' first
    | with_reducible assumption
    | intro _ _
    | intro _
    | with_reducible apply Keeps.upTo
    | with_reducible apply State.applyAnvil_keeps
    | with_reducible apply State.filShow_keeps
    | with_reducible apply State.allLines_keeps
    | with_reducible apply State.synceUpdate_keeps
    | with_reducible apply State.portWindowsClear_keeps
    | with_reducible apply State.loadClear_keeps
    | with_reducible apply State.portsApply_keeps
    | with_reducible apply State.parseApply_keeps
    | with_reducible apply State.emApply_keeps
    | with_reducible apply State.aseApply_keeps
    | with_reducible apply State.filApply_keeps
    | with_reducible apply State.stagesApply_keeps
    | with_reducible apply State.programWrite_keeps
    | with_reducible apply State.dataWrite_keeps
    | with_reducible apply State.treesWrite_keeps
    | with_reducible apply State.poolsApply_keeps
    | with_reducible apply State.reqsApply_keeps
    | with_reducible apply State.queuesApply_keeps
    | with_reducible apply State.teleApply_keeps
    | with_reducible apply State.hostApply_keeps
    | with_reducible apply State.initApply_keeps
    | with_reducible apply State.runShow_keeps
    | split
    | dsimp only
    | with_reducible apply Keeps.upd

/-! ### Machine/Image.lean -/

theorem State.imgShow_keeps {s x} {a1} (h : Keeps s x) : Keeps s (State.imgShow x a1) := by
  unfold State.imgShow
  repeat' first
    | with_reducible assumption
    | intro _ _
    | intro _
    | with_reducible apply State.when_keeps
    | with_reducible apply State.set_keeps
    | with_reducible apply State.when_keeps
    | with_reducible apply State.fault_keeps

theorem State.imgReport_keeps {s x} {a1 a2} (h : Keeps s x) : Keeps s (State.imgReport x a1 a2) := by
  unfold State.imgReport
  repeat' first
    | with_reducible assumption
    | intro _ _
    | intro _
    | with_reducible apply State.set_keeps
    | with_reducible apply State.event_keeps
    | with_reducible apply State.imgShow_keeps

theorem State.imgEnd_keeps {s x} {a1} (h : Keeps s x) : Keeps s (State.imgEnd x a1) := by
  unfold State.imgEnd
  repeat' first
    | with_reducible assumption
    | intro _ _
    | intro _
    | with_reducible apply Keeps.choose
    | with_reducible apply State.set_keeps
    | with_reducible apply State.imgReport_keeps
    | split
    | dsimp only
    | with_reducible apply Keeps.upd

theorem State.imgStart_keeps {s x} {a1 a2 a3} (h : Keeps s x) : Keeps s (State.imgStart x a1 a2 a3) := by
  unfold State.imgStart
  repeat' first
    | with_reducible assumption
    | intro _ _
    | intro _
    | with_reducible apply State.set_keeps
    | split
    | dsimp only
    | with_reducible apply Keeps.upd

theorem State.bankInvalidate_keeps {s x} {a1 a2} (h : Keeps s x) : Keeps s (State.bankInvalidate x a1 a2) := by
  unfold State.bankInvalidate
  repeat' first
    | with_reducible assumption
    | intro _ _
    | intro _
    | with_reducible apply State.commitWrite_keeps

theorem State.imgCommand_keeps {s x} {a1 a2 a3} (h : Keeps s x) : Keeps s (State.imgCommand x a1 a2 a3) := by
  unfold State.imgCommand
  repeat' first
    | with_reducible assumption
    | intro _ _
    | intro _
    | with_reducible apply State.when_keeps
    | with_reducible apply State.when_keeps
    | with_reducible apply State.imgReport_keeps
    | with_reducible apply State.imgStart_keeps
    | with_reducible apply State.bankInvalidate_keeps
    | split

theorem State.epochFlip_keeps {s x} (h : Keeps s x) : Keeps s (State.epochFlip x) := by
  unfold State.epochFlip
  repeat' first
    | with_reducible assumption
    | intro _ _
    | intro _
    | with_reducible apply State.set_keeps
    | with_reducible apply State.setB_keeps
    | with_reducible apply State.filShow_keeps
    | with_reducible apply State.imgEnd_keeps
    | split
    | dsimp only
    | with_reducible apply Keeps.upd

theorem State.swapTrigger_keeps {s x} {a1} (h : Keeps s x) : Keeps s (State.swapTrigger x a1) := by
  unfold State.swapTrigger
  repeat' first
    | with_reducible assumption
    | intro _ _
    | intro _
    | with_reducible apply Keeps.choose
    | with_reducible apply State.epochFlip_keeps
    | split

theorem State.epochRetired_keeps {s x} (h : Keeps s x) : Keeps s (State.epochRetired x) := by
  unfold State.epochRetired
  repeat' first
    | with_reducible assumption
    | intro _ _
    | intro _
    | with_reducible apply State.setB_keeps
    | with_reducible apply State.event_keeps

theorem State.retireOverdue_keeps {s x} (h : Keeps s x) : Keeps s (State.retireOverdue x) := by
  unfold State.retireOverdue
  repeat' first
    | with_reducible assumption
    | intro _ _
    | intro _
    | with_reducible apply Keeps.choose
    | with_reducible apply State.setB_keeps
    | with_reducible apply State.fault_keeps
    | split
    | dsimp only
    | with_reducible apply Keeps.upd

theorem State.retireForce_keeps {s x} (h : Keeps s x) : Keeps s (State.retireForce x) := by
  unfold State.retireForce
  repeat' first
    | with_reducible assumption
    | intro _ _
    | intro _
    | with_reducible apply Keeps.choose
    | with_reducible apply State.add_keeps
    | with_reducible apply State.xoffEval_keeps
    | with_reducible apply State.discardWhere_keeps
    | with_reducible apply State.epochRetired_keeps

theorem State.bankLines_keeps {s x} {a1 a2 a3} (h : Keeps s x) : Keeps s (State.bankLines x a1 a2 a3).1 := by
  unfold State.bankLines
  repeat' first
    | with_reducible assumption
    | intro _ _
    | intro _
    | with_reducible apply Keeps.foldl
    | with_reducible apply Keeps.foldl_snd
    | with_reducible apply Keeps.foldl_fst
    | with_reducible apply Keeps.foldl_third
    | with_reducible apply State.storeWrite_keeps
theorem State.bankLines_keepsE {s x} {a1 a2 a3} {t r1} (e : State.bankLines x a1 a2 a3 = (t, r1)) (h : Keeps s x) :
    Keeps s t := by
  have k := State.bankLines_keeps (s := s) (x := x) (a1 := a1) (a2 := a2) (a3 := a3) h
  rwa [e] at k

theorem State.bankVerified_keeps {s x} {a1 a2 a3} (h : Keeps s x) : Keeps s (State.bankVerified x a1 a2 a3) := by
  unfold State.bankVerified
  repeat' first
    | with_reducible assumption
    | intro _ _
    | intro _
    | with_reducible apply Keeps.choose
    | with_reducible apply State.set_keeps
    | with_reducible apply State.imgEnd_keeps
    | with_reducible apply State.bankLines_keeps
    | refine State.bankLines_keepsE (by with_reducible assumption) ?_
    | split
    | dsimp only
    | with_reducible apply Keeps.upd

theorem State.ruleWrite_keeps {s x} {a1 a2 a3} (h : Keeps s x) : Keeps s (State.ruleWrite x a1 a2 a3) := by
  unfold State.ruleWrite
  repeat' first
    | with_reducible assumption
    | intro _ _
    | intro _
    | with_reducible apply Keeps.choose
    | with_reducible apply State.programWrite_keeps
    | with_reducible apply State.dataWrite_keeps
    | with_reducible apply State.treesWrite_keeps

theorem State.swapPartial_keeps {s x} {a1} (h : Keeps s x) : Keeps s (State.swapPartial x a1) := by
  unfold State.swapPartial
  repeat' first
    | with_reducible assumption
    | intro _ _
    | intro _
    | with_reducible apply Keeps.foldl
    | with_reducible apply Keeps.foldl_snd
    | with_reducible apply Keeps.foldl_fst
    | with_reducible apply Keeps.foldl_third
    | with_reducible apply State.draw_keeps
    | with_reducible apply State.take_keeps
    | with_reducible apply State.ruleWrite_keeps

theorem State.swapVerified_keeps {s x} {a1 a2} (h : Keeps s x) : Keeps s (State.swapVerified x a1 a2) := by
  unfold State.swapVerified
  repeat' first
    | with_reducible assumption
    | intro _ _
    | intro _
    | with_reducible apply Keeps.choose
    | with_reducible apply State.set_keeps
    | with_reducible apply State.updateWrite_keeps
    | with_reducible apply State.epochFlip_keeps
    | split
    | dsimp only
    | with_reducible apply Keeps.upd

theorem State.configure_keeps {s x} {a1 a2} (h : Keeps s x) : Keeps s (State.configure x a1 a2) := by
  unfold State.configure
  repeat' first
    | with_reducible assumption
    | intro _ _
    | intro _
    | with_reducible apply Keeps.choose
    | with_reducible apply State.when_keeps
    | with_reducible apply State.set_keeps
    | with_reducible apply State.setB_keeps
    | with_reducible apply State.when_keeps
    | with_reducible apply State.loadStop_keeps
    | with_reducible apply State.loadApply_keeps
    | split
    | dsimp only
    | with_reducible apply Keeps.upd

theorem State.bootTry_keeps {s x l} (h : Keeps s x) : Keeps s (State.bootTry x l) := by
  induction l generalizing x with
  | nil => exact State.setB_keeps (State.set_keeps (Keeps.upd h))
  | cons b l ih =>
    simp only [State.bootTry]
    split
    · exact State.set_keeps (Keeps.upd h)
    · exact ih (State.set_keeps h)

theorem State.bootNext_keeps {s x} (h : Keeps s x) : Keeps s (State.bootNext x) := by
  unfold State.bootNext
  repeat' first
    | with_reducible assumption
    | intro _ _
    | intro _
    | with_reducible apply State.bootTry_keeps

theorem State.bootVerified_keeps {s x} {a1} (h : Keeps s x) : Keeps s (State.bootVerified x a1) := by
  unfold State.bootVerified
  repeat' first
    | with_reducible assumption
    | intro _ _
    | intro _
    | with_reducible apply Keeps.choose
    | with_reducible apply State.set_keeps

theorem State.imgJudge_keeps {s x} {a1 a2 a3} (h : Keeps s x) : Keeps s (State.imgJudge x a1 a2 a3) := by
  unfold State.imgJudge
  repeat' first
    | with_reducible assumption
    | intro _ _
    | intro _
    | with_reducible apply Keeps.choose
    | with_reducible apply State.when_keeps
    | with_reducible apply State.set_keeps
    | with_reducible apply State.when_keeps
    | with_reducible apply State.imgShow_keeps
    | with_reducible apply State.imgEnd_keeps
    | with_reducible apply State.bankVerified_keeps
    | with_reducible apply State.swapPartial_keeps
    | with_reducible apply State.swapVerified_keeps
    | with_reducible apply State.configure_keeps
    | with_reducible apply State.bootNext_keeps
    | with_reducible apply State.bootVerified_keeps
    | split

theorem State.imgVerified_keeps {s x} {a1 a2 a3} (h : Keeps s x) : Keeps s (State.imgVerified x a1 a2 a3) := by
  unfold State.imgVerified
  repeat' first
    | with_reducible assumption
    | intro _ _
    | intro _
    | with_reducible apply Keeps.choose
    | with_reducible apply State.imgJudge_keeps
    | split

theorem State.imgLinkEvent_keeps {s x} (h : Keeps s x) : Keeps s (State.imgLinkEvent x) := by
  unfold State.imgLinkEvent
  repeat' first
    | with_reducible assumption
    | intro _ _
    | intro _
    | with_reducible apply State.when_keeps
    | with_reducible apply State.when_keeps
    | with_reducible apply State.imgEnd_keeps

theorem State.imgCut_keeps {s x} {a1 a2} (h : Keeps s x) : Keeps s (State.imgCut x a1 a2) := by
  unfold State.imgCut
  repeat' first
    | with_reducible assumption
    | intro _ _
    | intro _
    | with_reducible apply Keeps.choose
    | with_reducible apply State.take_keeps
    | with_reducible apply State.bankLines_keeps
    | with_reducible apply State.swapPartial_keeps

theorem State.imgAbort_keeps {s x} {a1} (h : Keeps s x) : Keeps s (State.imgAbort x a1) := by
  unfold State.imgAbort
  repeat' first
    | with_reducible assumption
    | intro _ _
    | intro _
    | with_reducible apply Keeps.choose
    | with_reducible apply State.take_keeps
    | with_reducible apply State.imgReport_keeps
    | with_reducible apply State.imgEnd_keeps
    | with_reducible apply State.imgCut_keeps
    | split

theorem State.bankCommit_keeps {s x} {a1} (h : Keeps s x) : Keeps s (State.bankCommit x a1) := by
  unfold State.bankCommit
  repeat' first
    | with_reducible assumption
    | intro _ _
    | intro _
    | with_reducible apply Keeps.choose
    | with_reducible apply State.commitWrite_keeps
    | with_reducible apply State.imgEnd_keeps
    | split

theorem State.imgStoreAbort_keeps {s x} (h : Keeps s x) : Keeps s (State.imgStoreAbort x) := by
  unfold State.imgStoreAbort
  repeat' first
    | with_reducible assumption
    | intro _ _
    | intro _
    | with_reducible apply Keeps.choose
    | with_reducible apply State.imgEnd_keeps
    | split
    | dsimp only
    | with_reducible apply Keeps.upd

theorem State.imgEndRunning_keeps {s x} {a1} (h : Keeps s x) : Keeps s (State.imgEndRunning x a1) := by
  unfold State.imgEndRunning
  repeat' first
    | with_reducible assumption
    | intro _ _
    | intro _
    | with_reducible apply State.imgEnd_keeps
    | split
    | dsimp only
    | with_reducible apply Keeps.upd

theorem State.imgUnload_keeps {s x} (h : Keeps s x) : Keeps s (State.imgUnload x) := by
  unfold State.imgUnload
  repeat' first
    | with_reducible assumption
    | intro _ _
    | intro _
    | with_reducible apply Keeps.upTo
    | with_reducible apply State.set_keeps
    | with_reducible apply State.setB_keeps
    | with_reducible apply State.synceUpdate_keeps
    | split
    | dsimp only
    | with_reducible apply Keeps.upd

end Sys2Proof.Machine
end

