-- ==== Sys2Proof/Laws/KeepsModule.lean ====
section
/-!
SUPPORT. What the operations of time, resets, faults, security and host accesses keep: one lemma for each.
-/
namespace Sys2Proof.Machine
set_option Elab.async false

/-! ### Machine/Touchstone.lean -/

theorem State.setOff_keeps {s x} {a1} (h : Keeps s x) : Keeps s (State.setOff x a1) := by
  unfold State.setOff
  repeat' first
    | with_reducible assumption
    | intro _ _
    | intro _
    | with_reducible apply State.set_keeps
    | split
    | dsimp only
    | with_reducible apply Keeps.upd

theorem State.timeUpdate_keeps {s x} (h : Keeps s x) : Keeps s (State.timeUpdate x) := by
  unfold State.timeUpdate
  repeat' first
    | with_reducible assumption
    | intro _ _
    | intro _
    | with_reducible apply State.setB_keeps
    | split
    | dsimp only
    | with_reducible apply Keeps.upd

theorem State.ppsSchedule_keeps {s x} {a1 a2} (h : Keeps s x) : Keeps s (State.ppsSchedule x a1 a2) := by
  unfold State.ppsSchedule
  repeat' first
    | with_reducible assumption
    | intro _ _
    | intro _
    | split
    | dsimp only
    | with_reducible apply Keeps.upd

theorem State.ppsCancel_keeps {s x} {a1 a2} (h : Keeps s x) : Keeps s (State.ppsCancel x a1 a2) := by
  unfold State.ppsCancel
  repeat' first
    | with_reducible assumption
    | intro _ _
    | intro _
    | split
    | dsimp only
    | with_reducible apply Keeps.upd

theorem State.trigArmed_keeps {s x} {a1 a2} (h : Keeps s x) : Keeps s (State.trigArmed x a1 a2) := by
  unfold State.trigArmed
  repeat' first
    | with_reducible assumption
    | intro _ _
    | intro _
    | with_reducible apply State.setB_keeps
    | with_reducible apply State.ppsSchedule_keeps
    | split
    | dsimp only
    | with_reducible apply Keeps.upd

theorem State.trigDisarm_keeps {s x} {a1} (h : Keeps s x) : Keeps s (State.trigDisarm x a1) := by
  unfold State.trigDisarm
  repeat' first
    | with_reducible assumption
    | intro _ _
    | intro _
    | with_reducible apply State.when_keeps
    | with_reducible apply State.setB_keeps
    | with_reducible apply State.when_keeps
    | with_reducible apply State.ppsCancel_keeps

theorem State.trigArm_keeps {s x} {a1} (h : Keeps s x) : Keeps s (State.trigArm x a1) := by
  unfold State.trigArm
  repeat' first
    | with_reducible assumption
    | intro _ _
    | intro _
    | with_reducible apply Keeps.choose
    | with_reducible apply State.setB_keeps
    | with_reducible apply State.trigArmed_keeps
    | with_reducible apply State.trigDisarm_keeps

theorem State.trigConsumers_keeps {s x} {a1} (h : Keeps s x) : Keeps s (State.trigConsumers x a1) := by
  unfold State.trigConsumers
  repeat' first
    | with_reducible assumption
    | intro _ _
    | intro _
    | with_reducible apply State.when_keeps
    | with_reducible apply State.when_keeps
    | with_reducible apply State.phaseSelect_keeps
    | with_reducible apply State.loupeStart_keeps
    | with_reducible apply State.swapTrigger_keeps
    | split

theorem State.trigFire_keeps {s x} {a1} (h : Keeps s x) : Keeps s (State.trigFire x a1) := by
  unfold State.trigFire
  repeat' first
    | with_reducible assumption
    | intro _ _
    | intro _
    | with_reducible apply State.incWrap_keeps
    | with_reducible apply State.event_keeps
    | with_reducible apply State.trigConsumers_keeps

theorem State.trigRearm_keeps {s x} {a1} (h : Keeps s x) : Keeps s (State.trigRearm x a1) := by
  unfold State.trigRearm
  repeat' first
    | with_reducible assumption
    | intro _ _
    | intro _
    | with_reducible apply Keeps.choose
    | with_reducible apply State.setB_keeps
    | with_reducible apply State.trigArmed_keeps

theorem State.trigDue_keeps {s x} {a1} (h : Keeps s x) : Keeps s (State.trigDue x a1) := by
  unfold State.trigDue
  repeat' first
    | with_reducible assumption
    | intro _ _
    | intro _
    | with_reducible apply Keeps.choose
    | with_reducible apply State.trigFire_keeps
    | with_reducible apply State.trigRearm_keeps

theorem State.trigsDue_keeps {s x} (h : Keeps s x) : Keeps s (State.trigsDue x) := by
  unfold State.trigsDue
  repeat' first
    | with_reducible assumption
    | intro _ _
    | intro _
    | with_reducible apply Keeps.upTo
    | with_reducible apply State.gatesRelocate_keeps
    | with_reducible apply State.trigDue_keeps

theorem State.trigStepped_keeps {s x} {a1} (h : Keeps s x) : Keeps s (State.trigStepped x a1) := by
  unfold State.trigStepped
  repeat' first
    | with_reducible assumption
    | intro _ _
    | intro _
    | with_reducible apply Keeps.choose
    | with_reducible apply State.setB_keeps
    | with_reducible apply State.add_keeps
    | with_reducible apply State.trigArmed_keeps
    | with_reducible apply State.trigFire_keeps

theorem State.ppsRebase_keeps {s x} (h : Keeps s x) : Keeps s (State.ppsRebase x) := by
  unfold State.ppsRebase
  repeat' first
    | with_reducible assumption
    | intro _ _
    | intro _
    | with_reducible apply Keeps.choose
    | split
    | dsimp only
    | with_reducible apply Keeps.upd

theorem State.ppsCtrl_keeps {s x} {a1} (h : Keeps s x) : Keeps s (State.ppsCtrl x a1) := by
  unfold State.ppsCtrl
  repeat' first
    | with_reducible assumption
    | intro _ _
    | intro _
    | with_reducible apply Keeps.choose
    | with_reducible apply State.when_keeps
    | with_reducible apply State.when_keeps
    | with_reducible apply State.ppsRebase_keeps
    | split
    | dsimp only
    | with_reducible apply Keeps.upd

theorem State.ppsPulse_keeps {s x} (h : Keeps s x) : Keeps s (State.ppsPulse x) := by
  unfold State.ppsPulse
  repeat' first
    | with_reducible assumption
    | intro _ _
    | intro _
    | split
    | dsimp only
    | with_reducible apply Keeps.upd

theorem State.ppsOut_keeps {s x} (h : Keeps s x) : Keeps s (State.ppsOut x) := by
  unfold State.ppsOut
  repeat' first
    | with_reducible assumption
    | intro _ _
    | intro _
    | with_reducible apply Keeps.choose
    | with_reducible apply State.ppsCancel_keeps
    | with_reducible apply State.ppsPulse_keeps
    | split
    | dsimp only
    | with_reducible apply Keeps.upd

theorem State.afterJump_keeps {s x} (h : Keeps s x) : Keeps s (State.afterJump x) := by
  unfold State.afterJump
  repeat' first
    | with_reducible assumption
    | intro _ _
    | intro _
    | with_reducible apply Keeps.upTo
    | with_reducible apply State.gatesRelocate_keeps
    | with_reducible apply State.trigStepped_keeps
    | with_reducible apply State.ppsRebase_keeps

theorem State.timeSet_keeps {s x} (h : Keeps s x) : Keeps s (State.timeSet x) := by
  unfold State.timeSet
  repeat' first
    | with_reducible assumption
    | intro _ _
    | intro _
    | with_reducible apply State.setB_keeps
    | with_reducible apply State.setOff_keeps
    | with_reducible apply State.timeUpdate_keeps
    | with_reducible apply State.trigsDue_keeps
    | with_reducible apply State.afterJump_keeps

theorem State.timeStep_keeps {s x} (h : Keeps s x) : Keeps s (State.timeStep x) := by
  unfold State.timeStep
  repeat' first
    | with_reducible assumption
    | intro _ _
    | intro _
    | with_reducible apply Keeps.choose
    | with_reducible apply State.setB_keeps
    | with_reducible apply State.timeEvent_keeps
    | with_reducible apply State.setOff_keeps
    | with_reducible apply State.timeUpdate_keeps
    | with_reducible apply State.trigsDue_keeps
    | with_reducible apply State.afterJump_keeps

theorem State.timeSnapshot_keeps {s x} (h : Keeps s x) : Keeps s (State.timeSnapshot x) := by
  unfold State.timeSnapshot
  repeat' first
    | with_reducible assumption
    | intro _ _
    | intro _
    | with_reducible apply State.set_keeps

theorem State.rateCommit_keeps {s x} {a1} (h : Keeps s x) : Keeps s (State.rateCommit x a1) := by
  unfold State.rateCommit
  repeat' first
    | with_reducible assumption
    | intro _ _
    | intro _
    | with_reducible apply State.set_keeps
    | with_reducible apply State.setOff_keeps
    | with_reducible apply State.timeUpdate_keeps
    | with_reducible apply State.trigsDue_keeps
    | split
    | dsimp only
    | with_reducible apply Keeps.upd

theorem State.holdover_keeps {s x} (h : Keeps s x) : Keeps s (State.holdover x) := by
  unfold State.holdover
  repeat' first
    | with_reducible assumption
    | intro _ _
    | intro _
    | with_reducible apply Keeps.choose
    | with_reducible apply State.setB_keeps
    | with_reducible apply State.timeEvent_keeps
    | with_reducible apply State.fault_keeps

theorem State.refclkLost_keeps {s x} (h : Keeps s x) : Keeps s (State.refclkLost x) := by
  unfold State.refclkLost
  repeat' first
    | with_reducible assumption
    | intro _ _
    | intro _
    | with_reducible apply Keeps.choose
    | with_reducible apply State.setB_keeps
    | with_reducible apply State.timeEvent_keeps
    | with_reducible apply State.fault_keeps

theorem State.pinCapture_keeps {s x} {a1 a2} (h : Keeps s x) : Keeps s (State.pinCapture x a1 a2) := by
  unfold State.pinCapture
  repeat' first
    | with_reducible assumption
    | intro _ _
    | intro _
    | with_reducible apply Keeps.choose
    | with_reducible apply State.set_keeps
    | with_reducible apply State.setB_keeps
    | with_reducible apply State.inc_keeps
    | with_reducible apply State.incWrap_keeps
    | with_reducible apply State.eventBit_keeps
    | with_reducible apply State.phaseSelect_keeps
    | split
    | dsimp only
    | with_reducible apply Keeps.upd

/-! ### Machine/Startup.lean -/

theorem State.freshNonce_keeps {s x} (h : Keeps s x) : Keeps s (State.freshNonce x) :=
  .of_mil h ⟨le_refl _, fun _ _ e => e, fun _ e => e, le_refl _, rfl, fun e => e⟩ rfl rfl rfl

theorem State.discardAll_keeps {s x} (h : Keeps s x) : Keeps s (State.discardAll x) := by
  unfold State.discardAll
  repeat' first
    | with_reducible assumption
    | intro _ _
    | intro _
    | with_reducible apply State.xoffEval_keeps
    | with_reducible apply State.discardPackets_keeps

theorem State.moduleSafe_keeps {s x} (h : Keeps s x) : Keeps s (State.moduleSafe x) := by
  unfold State.moduleSafe
  repeat' first
    | with_reducible assumption
    | intro _ _
    | intro _
    | with_reducible apply Keeps.foldl
    | with_reducible apply Keeps.foldl_snd
    | with_reducible apply Keeps.foldl_fst
    | with_reducible apply Keeps.foldl_third
    | with_reducible apply State.setB_keeps
    | with_reducible apply State.portSafe_keeps
    | with_reducible apply State.discardAll_keeps

theorem State.trigRecApply_keeps {s x} {a1} (h : Keeps s x) : Keeps s (State.trigRecApply x a1) := by
  unfold State.trigRecApply
  repeat' first
    | with_reducible assumption
    | intro _ _
    | intro _
    | with_reducible apply State.when_keeps
    | with_reducible apply State.set_keeps
    | with_reducible apply State.setB_keeps
    | with_reducible apply State.when_keeps
    | with_reducible apply State.trigArm_keeps

theorem State.gateRecApply_keeps {s x} {a1} (h : Keeps s x) : Keeps s (State.gateRecApply x a1) := by
  unfold State.gateRecApply
  repeat' first
    | with_reducible assumption
    | intro _ _
    | intro _
    | with_reducible apply State.when_keeps
    | with_reducible apply State.set_keeps
    | with_reducible apply State.setB_keeps
    | with_reducible apply State.when_keeps
    | with_reducible apply State.configChange_keeps
    | with_reducible apply State.fill_keeps

theorem State.timingApply_keeps {s x} (h : Keeps s x) : Keeps s (State.timingApply x) := by
  unfold State.timingApply
  repeat' first
    | with_reducible assumption
    | intro _ _
    | intro _
    | with_reducible apply Keeps.foldl
    | with_reducible apply Keeps.foldl_snd
    | with_reducible apply Keeps.foldl_fst
    | with_reducible apply Keeps.foldl_third
    | with_reducible apply Keeps.upTo
    | with_reducible apply State.setB_keeps
    | with_reducible apply State.memZero_keeps
    | with_reducible apply State.trigDisarm_keeps
    | with_reducible apply State.trigRecApply_keeps
    | with_reducible apply State.gateRecApply_keeps
    | split
    | dsimp only
    | with_reducible apply Keeps.upd

theorem State.phasesApply_keeps {s x} (h : Keeps s x) : Keeps s (State.phasesApply x) := by
  unfold State.phasesApply
  repeat' first
    | with_reducible assumption
    | intro _ _
    | intro _
    | with_reducible apply Keeps.choose
    | with_reducible apply Keeps.upTo
    | with_reducible apply State.set_keeps
    | with_reducible apply State.phaseApply_keeps
    | split
    | dsimp only
    | with_reducible apply Keeps.upd

theorem State.resetRun_keeps {s x} {a1} (h : Keeps s x) : Keeps s (State.resetRun x a1) := by
  unfold State.resetRun
  repeat' first
    | with_reducible assumption
    | intro _ _
    | intro _
    | with_reducible apply State.portReset_keeps
    | with_reducible apply State.pipeReset_keeps
    | split

theorem State.resetWaiting_keeps {s x} (h : Keeps s x) : Keeps s (State.resetWaiting x) := by
  unfold State.resetWaiting
  repeat' first
    | with_reducible assumption
    | intro _ _
    | intro _
    | with_reducible apply Keeps.foldl
    | with_reducible apply Keeps.foldl_snd
    | with_reducible apply Keeps.foldl_fst
    | with_reducible apply Keeps.foldl_third
    | with_reducible apply State.setB_keeps
    | with_reducible apply State.resetRun_keeps
    | split
    | dsimp only
    | with_reducible apply Keeps.upd

theorem State.loadReady_keeps {s x} {a1} (h : Keeps s x) : Keeps s (State.loadReady x a1) := by
  unfold State.loadReady
  repeat' first
    | with_reducible assumption
    | intro _ _
    | intro _
    | with_reducible apply Keeps.choose
    | with_reducible apply State.when_keeps
    | with_reducible apply Keeps.foldl
    | with_reducible apply Keeps.foldl_snd
    | with_reducible apply Keeps.foldl_fst
    | with_reducible apply Keeps.foldl_third
    | with_reducible apply Keeps.upTo
    | with_reducible apply State.set_keeps
    | with_reducible apply State.setB_keeps
    | with_reducible apply State.when_keeps
    | with_reducible apply State.putLink_keeps
    | with_reducible apply State.allLines_keeps
    | with_reducible apply State.portStart_keeps
    | with_reducible apply State.portSettle_keeps
    | with_reducible apply State.synceUpdate_keeps
    | with_reducible apply State.imgShow_keeps
    | with_reducible apply State.imgEnd_keeps
    | with_reducible apply State.timingApply_keeps
    | with_reducible apply State.phasesApply_keeps
    | with_reducible apply State.resetWaiting_keeps
    | split
    | dsimp only
    | with_reducible apply Keeps.upd

theorem State.resetTo_keeps {s x soft} (h : Keeps s x) : Keeps s (State.resetTo x soft) := by
  have k : Keeps s (((x.portList.foldl (fun s p => s.txCut p) x).linesOff).when soft (fun s => (s.dmaLinkEnd true).ringsStop)) :=
    State.when_keeps (fun _ hy => State.ringsStop_keeps (State.dmaLinkEnd_keeps hy))
      (State.linesOff_keeps (Keeps.foldl (fun _ _ hy => State.txCut_keeps hy) h))
  unfold State.resetTo
  refine State.refreshRow_keeps (State.when_keeps (fun _ hy => State.setB_keeps hy)
    (State.setB_keeps (Keeps.foldl (fun _ _ hy => State.set_keeps hy) (State.freshNonce_keeps ?_))))
  exact .of_all k (memWf_filter _ _) ⟨le_refl _, fun _ _ e => e, fun _ e => e, le_refl _, rfl, fun e => e⟩ rfl rfl

theorem State.bootOn_keeps {s x} (h : Keeps s x) : Keeps s (State.bootOn x) := by
  unfold State.bootOn
  repeat' first
    | with_reducible assumption
    | intro _ _
    | intro _
    | with_reducible apply Keeps.choose
    | with_reducible apply State.set_keeps
    | with_reducible apply State.storeSense_keeps
    | with_reducible apply State.bootTry_keeps
    | split
    | dsimp only
    | with_reducible apply Keeps.upd

theorem State.moduleReset_keeps {s x} {a1} (h : Keeps s x) : Keeps s (State.moduleReset x a1) := by
  unfold State.moduleReset
  repeat' first
    | with_reducible assumption
    | intro _ _
    | intro _
    | with_reducible apply State.when_keeps
    | with_reducible apply State.set_keeps
    | with_reducible apply State.setB_keeps
    | with_reducible apply State.inc_keeps
    | with_reducible apply State.resetTo_keeps
    | with_reducible apply State.bootOn_keeps

theorem State.softReset_keeps {s x} {a1} (h : Keeps s x) : Keeps s (State.softReset x a1) := by
  unfold State.softReset
  repeat' first
    | with_reducible assumption
    | intro _ _
    | intro _
    | with_reducible apply State.when_keeps
    | with_reducible apply State.set_keeps
    | with_reducible apply State.setB_keeps
    | with_reducible apply State.inc_keeps
    | with_reducible apply State.resetTo_keeps

theorem State.softFinish_keeps {s x} (h : Keeps s x) : Keeps s (State.softFinish x) := by
  unfold State.softFinish
  repeat' first
    | with_reducible assumption
    | intro _ _
    | intro _
    | with_reducible apply Keeps.choose
    | with_reducible apply State.bootOn_keeps

theorem State.tick_keeps {s x} (h : Keeps s x) : Keeps s (State.tick x) := by
  unfold State.tick
  repeat' first
    | with_reducible assumption
    | intro _ _
    | intro _
    | with_reducible apply Keeps.choose
    | with_reducible apply State.when_keeps
    | with_reducible apply State.incWrap_keeps
    | with_reducible apply State.when_keeps
    | with_reducible apply State.softFinish_keeps

theorem State.resetCommand_keeps {s x} {a1 a2 a3} (h : Keeps s x) : Keeps s (State.resetCommand x a1 a2 a3) := by
  unfold State.resetCommand
  repeat' first
    | with_reducible assumption
    | intro _ _
    | intro _
    | with_reducible apply Keeps.choose
    | with_reducible apply State.moduleReset_keeps
    | with_reducible apply State.softReset_keeps

theorem State.powerOn_keeps {s x a b} (h : Keeps s x) : Keeps s (State.powerOn x a b) := by
  unfold State.powerOn
  dsimp only
  split
  · refine State.setB_keeps (State.set_keeps (State.refreshRow_keeps (State.freshNonce_keeps ?_)))
    exact .of_all h (memWf_filter _ _) ⟨le_refl _, fun _ _ e => e, fun _ e => e, le_refl _, rfl, fun e => e⟩ rfl rfl
  · refine State.bootOn_keeps (State.refreshRow_keeps (State.freshNonce_keeps ?_))
    exact .of_all h (memWf_filter _ _) ⟨le_refl _, fun _ _ e => e, fun _ e => e, le_refl _, rfl, fun e => e⟩ rfl rfl

theorem State.resetAssert_keeps {s x} (h : Keeps s x) : Keeps s (State.resetAssert x) := by
  unfold State.resetAssert
  repeat' first
    | with_reducible assumption
    | intro _ _
    | intro _
    | with_reducible apply Keeps.choose
    | with_reducible apply State.setB_keeps
    | with_reducible apply State.inc_keeps
    | with_reducible apply State.linesOff_keeps
    | with_reducible apply State.discardAll_keeps
    | split
    | dsimp only
    | with_reducible apply Keeps.upd

theorem State.resetRelease_keeps {s x} (h : Keeps s x) : Keeps s (State.resetRelease x) := by
  unfold State.resetRelease
  repeat' first
    | with_reducible assumption
    | intro _ _
    | intro _
    | with_reducible apply Keeps.choose
    | with_reducible apply State.when_keeps
    | with_reducible apply State.setB_keeps
    | with_reducible apply State.when_keeps
    | with_reducible apply State.fault_keeps
    | with_reducible apply State.bootOn_keeps
    | with_reducible apply State.moduleReset_keeps
    | split
    | dsimp only
    | with_reducible apply Keeps.upd

theorem State.resetRequest_keeps {s x} {a1} (h : Keeps s x) : Keeps s (State.resetRequest x a1) := by
  unfold State.resetRequest
  repeat' first
    | with_reducible assumption
    | intro _ _
    | intro _
    | with_reducible apply Keeps.choose
    | with_reducible apply State.setB_keeps
    | with_reducible apply State.resetRun_keeps
    | split
    | dsimp only
    | with_reducible apply Keeps.upd

theorem State.pipeGo_keeps {s x} {a1} (h : Keeps s x) : Keeps s (State.pipeGo x a1) := by
  unfold State.pipeGo
  repeat' first
    | with_reducible assumption
    | intro _ _
    | intro _
    | with_reducible apply State.when_keeps
    | with_reducible apply State.when_keeps
    | with_reducible apply State.resetRequest_keeps

theorem State.portGo_keeps {s x} {a1} (h : Keeps s x) : Keeps s (State.portGo x a1) := by
  unfold State.portGo
  repeat' first
    | with_reducible assumption
    | intro _ _
    | intro _
    | with_reducible apply Keeps.choose
    | with_reducible apply State.when_keeps
    | with_reducible apply State.setB_keeps
    | with_reducible apply State.when_keeps
    | with_reducible apply State.resetRequest_keeps

theorem State.inputStuck_keeps {s x} {a1} (h : Keeps s x) : Keeps s (State.inputStuck x a1) := by
  unfold State.inputStuck
  repeat' first
    | with_reducible assumption
    | intro _ _
    | intro _
    | with_reducible apply Keeps.choose
    | with_reducible apply State.setB_keeps
    | with_reducible apply State.event_keeps
    | with_reducible apply State.fault_keeps
    | split

theorem State.inputUnstuck_keeps {s x} {a1} (h : Keeps s x) : Keeps s (State.inputUnstuck x a1) := by
  unfold State.inputUnstuck
  repeat' first
    | with_reducible assumption
    | intro _ _
    | intro _
    | with_reducible apply Keeps.choose
    | with_reducible apply State.setB_keeps
    | split
    | dsimp only
    | with_reducible apply Keeps.upd

theorem State.pfailRecords_keeps {s x} {a1} (h : Keeps s x) : Keeps s (State.pfailRecords x a1) := by
  unfold State.pfailRecords
  repeat' first
    | with_reducible assumption
    | intro _ _
    | intro _
    | with_reducible apply State.when_keeps
    | with_reducible apply Keeps.upTo
    | with_reducible apply State.when_keeps
    | with_reducible apply State.journalWrite_keeps

theorem State.powerFail_keeps {s x} {a1 a2} (h : Keeps s x) : Keeps s (State.powerFail x a1 a2) := by
  unfold State.powerFail
  repeat' first
    | with_reducible assumption
    | intro _ _
    | intro _
    | with_reducible apply State.setB_keeps
    | with_reducible apply State.retarget_keeps
    | with_reducible apply State.assayStop_keeps
    | with_reducible apply State.hoursCommit_keeps
    | with_reducible apply State.anvilOwn_keeps
    | with_reducible apply State.ringsStop_keeps
    | with_reducible apply State.migrationAbandon_keeps
    | with_reducible apply State.allPortsDisabled_keeps
    | with_reducible apply State.dmaLinkEnd_keeps
    | with_reducible apply State.imgStoreAbort_keeps
    | with_reducible apply State.pfailRecords_keeps
    | split
    | dsimp only
    | with_reducible apply Keeps.upd

theorem State.powerFailEvent_keeps {s x} {a1 a2 a3} (h : Keeps s x) : Keeps s (State.powerFailEvent x a1 a2 a3) := by
  unfold State.powerFailEvent
  repeat' first
    | with_reducible assumption
    | intro _ _
    | intro _
    | with_reducible apply Keeps.choose
    | with_reducible apply State.when_keeps
    | with_reducible apply State.setB_keeps
    | with_reducible apply State.inc_keeps
    | with_reducible apply State.when_keeps
    | with_reducible apply State.powerFail_keeps
    | split
    | dsimp only
    | with_reducible apply Keeps.upd

theorem State.powerRecovery_keeps {s x} (h : Keeps s x) : Keeps s (State.powerRecovery x) := by
  unfold State.powerRecovery
  repeat' first
    | with_reducible assumption
    | intro _ _
    | intro _
    | with_reducible apply State.when_keeps
    | with_reducible apply State.when_keeps
    | with_reducible apply State.softReset_keeps

/-! ### Machine/HostLink.lean -/

theorem State.linkEvent_keeps {s x} (h : Keeps s x) : Keeps s (State.linkEvent x) := by
  unfold State.linkEvent
  repeat' first
    | with_reducible assumption
    | intro _ _
    | intro _
    | with_reducible apply State.dmaLinkEnd_keeps
    | with_reducible apply State.imgLinkEvent_keeps

theorem State.pcieDown_keeps {s x} (h : Keeps s x) : Keeps s (State.pcieDown x) := by
  unfold State.pcieDown
  repeat' first
    | with_reducible assumption
    | intro _ _
    | intro _
    | with_reducible apply State.setB_keeps
    | with_reducible apply State.hostEvent_keeps
    | with_reducible apply State.linkEvent_keeps
    | split
    | dsimp only
    | with_reducible apply Keeps.upd

theorem State.masterOff_keeps {s x} (h : Keeps s x) : Keeps s (State.masterOff x) := by
  unfold State.masterOff
  repeat' first
    | with_reducible assumption
    | intro _ _
    | intro _
    | with_reducible apply State.setB_keeps
    | with_reducible apply State.linkEvent_keeps

theorem State.d3Enter_keeps {s x} (h : Keeps s x) : Keeps s (State.d3Enter x) := by
  unfold State.d3Enter
  repeat' first
    | with_reducible assumption
    | intro _ _
    | intro _
    | with_reducible apply State.setB_keeps
    | with_reducible apply State.linkEvent_keeps

theorem State.cfgMaster_keeps {s x} {a1} (h : Keeps s x) : Keeps s (State.cfgMaster x a1) := by
  unfold State.cfgMaster
  repeat' first
    | with_reducible assumption
    | intro _ _
    | intro _
    | with_reducible apply Keeps.choose
    | with_reducible apply State.when_keeps
    | with_reducible apply State.setB_keeps
    | with_reducible apply State.when_keeps
    | with_reducible apply State.msixReleaseAll_keeps
    | with_reducible apply State.masterOff_keeps

theorem State.cfgPower_keeps {s x} {a1} (h : Keeps s x) : Keeps s (State.cfgPower x a1) := by
  unfold State.cfgPower
  repeat' first
    | with_reducible assumption
    | intro _ _
    | intro _
    | with_reducible apply Keeps.choose
    | with_reducible apply State.when_keeps
    | with_reducible apply State.setB_keeps
    | with_reducible apply State.when_keeps
    | with_reducible apply State.msixReleaseAll_keeps
    | with_reducible apply State.d3Enter_keeps

theorem State.cfgMask_keeps {s x} {a1} (h : Keeps s x) : Keeps s (State.cfgMask x a1) := by
  unfold State.cfgMask
  repeat' first
    | with_reducible assumption
    | intro _ _
    | intro _
    | with_reducible apply State.msixReleaseAll_keeps
    | split
    | dsimp only
    | with_reducible apply Keeps.upd

theorem State.cfgWrite_keeps {s x} {a1 a2} (h : Keeps s x) : Keeps s (State.cfgWrite x a1 a2) := by
  unfold State.cfgWrite
  repeat' first
    | with_reducible assumption
    | intro _ _
    | intro _
    | with_reducible apply Keeps.choose
    | with_reducible apply State.cfgStore_keeps
    | with_reducible apply State.cfgMaster_keeps
    | with_reducible apply State.cfgPower_keeps
    | with_reducible apply State.cfgMask_keeps

/-! ### Machine/Faults.lean -/

theorem State.recWords_keeps {s x} {a1 a2 a3 a4} (h : Keeps s x) : Keeps s (State.recWords x a1 a2 a3 a4) := by
  unfold State.recWords
  repeat' first
    | with_reducible assumption
    | intro _ _
    | intro _
    | with_reducible apply Keeps.choose
    | with_reducible apply Keeps.upTo
    | with_reducible apply State.set_keeps

theorem State.maskOpen_keeps {s x} {a1 a2 a3 a4} (h : Keeps s x) : Keeps s (State.maskOpen x a1 a2 a3 a4) := by
  unfold State.maskOpen
  repeat' first
    | with_reducible assumption
    | intro _ _
    | intro _
    | split
    | dsimp only
    | with_reducible apply Keeps.upd

theorem State.recQueue_keeps {s x} {a1} (h : Keeps s x) : Keeps s (State.recQueue x a1) := by
  unfold State.recQueue
  repeat' first
    | with_reducible assumption
    | intro _ _
    | intro _
    | with_reducible apply Keeps.choose
    | with_reducible apply State.inc_keeps
    | split
    | dsimp only
    | with_reducible apply Keeps.upd

theorem State.firstCapture_keeps {s x} {a1} (h : Keeps s x) : Keeps s (State.firstCapture x a1) := by
  unfold State.firstCapture
  repeat' first
    | with_reducible assumption
    | intro _ _
    | intro _
    | with_reducible apply Keeps.choose
    | with_reducible apply State.setB_keeps
    | with_reducible apply State.recWords_keeps

theorem State.escalate_keeps {s x} {a1} (h : Keeps s x) : Keeps s (State.escalate x a1).2.2 := by
  unfold State.escalate
  repeat' first
    | with_reducible assumption
    | intro _ _
    | intro _
    | with_reducible apply Keeps.choose
    | split
    | dsimp only
    | with_reducible apply Keeps.upd
theorem State.escalate_keepsE {s x} {a1} {r0 r1 t} (e : State.escalate x a1 = (r0, r1, t)) (h : Keeps s x) : Keeps s t := by
  have k := State.escalate_keeps (s := s) (x := x) (a1 := a1) h
  rwa [e] at k

theorem State.decideMasked_keeps {s x} {a1 a2 a3 a4} (h : Keeps s x) : Keeps s (State.decideMasked x a1 a2 a3 a4) := by
  unfold State.decideMasked
  repeat' first
    | with_reducible assumption
    | intro _ _
    | intro _
    | with_reducible apply Keeps.choose
    | with_reducible apply State.set_keeps
    | with_reducible apply State.inc_keeps
    | with_reducible apply State.count_keeps
    | with_reducible apply State.recQueue_keeps
    | split
    | dsimp only
    | with_reducible apply Keeps.upd

theorem State.faultInt_keeps {s x} (h : Keeps s x) : Keeps s (State.faultInt x) := by
  unfold State.faultInt
  repeat' first
    | with_reducible assumption
    | intro _ _
    | intro _
    | with_reducible apply Keeps.choose
    | with_reducible apply State.setB_keeps
    | with_reducible apply State.msixSend_keeps

theorem State.blockReset_keeps {s x} {a1 a2} (h : Keeps s x) : Keeps s (State.blockReset x a1 a2) := by
  unfold State.blockReset
  repeat' first
    | with_reducible assumption
    | intro _ _
    | intro _
    | with_reducible apply Keeps.choose
    | with_reducible apply State.resetRequest_keeps

theorem State.portSafeReact_keeps {s x} {a1} (h : Keeps s x) : Keeps s (State.portSafeReact x a1) := by
  unfold State.portSafeReact
  repeat' first
    | with_reducible assumption
    | intro _ _
    | intro _
    | with_reducible apply Keeps.choose
    | with_reducible apply State.setBit_keeps
    | with_reducible apply State.portSafe_keeps

theorem State.maskReact_keeps {s x} {a1 a2 a3 a4} (h : Keeps s x) : Keeps s (State.maskReact x a1 a2 a3 a4) := by
  unfold State.maskReact
  repeat' first
    | with_reducible assumption
    | intro _ _
    | intro _
    | with_reducible apply State.when_keeps
    | with_reducible apply State.set_keeps
    | with_reducible apply State.when_keeps
    | with_reducible apply State.maskOpen_keeps

theorem State.react_keeps {s x} {a1 a2 a3 a4} (h : Keeps s x) : Keeps s (State.react x a1 a2 a3 a4) := by
  unfold State.react
  repeat' first
    | with_reducible assumption
    | intro _ _
    | intro _
    | with_reducible apply State.when_keeps
    | with_reducible apply State.set_keeps
    | with_reducible apply State.setB_keeps
    | with_reducible apply State.when_keeps
    | with_reducible apply State.moduleSafe_keeps
    | with_reducible apply State.faultInt_keeps
    | with_reducible apply State.blockReset_keeps
    | with_reducible apply State.portSafeReact_keeps
    | with_reducible apply State.maskReact_keeps
    | split
    | dsimp only
    | with_reducible apply Keeps.upd

theorem State.decideOpen_keeps {s x} {a1 a2 a3} (h : Keeps s x) : Keeps s (State.decideOpen x a1 a2 a3) := by
  unfold State.decideOpen
  repeat' first
    | with_reducible assumption
    | intro _ _
    | intro _
    | with_reducible apply Keeps.choose
    | with_reducible apply State.set_keeps
    | with_reducible apply State.inc_keeps
    | with_reducible apply State.count_keeps
    | with_reducible apply State.recQueue_keeps
    | with_reducible apply State.firstCapture_keeps
    | with_reducible apply State.escalate_keeps
    | with_reducible apply State.react_keeps
    | refine State.escalate_keepsE (by with_reducible assumption) ?_
    | split
    | dsimp only
    | with_reducible apply Keeps.upd

theorem State.faultDecide_keeps {s x} (h : Keeps s x) : Keeps s (State.faultDecide x) := by
  unfold State.faultDecide
  repeat' first
    | with_reducible assumption
    | intro _ _
    | intro _
    | with_reducible apply State.incWrap_keeps
    | with_reducible apply State.decideMasked_keeps
    | with_reducible apply State.decideOpen_keeps
    | split
    | dsimp only
    | with_reducible apply Keeps.upd

theorem State.histWrite_keeps {s x} {a1} (h : Keeps s x) : Keeps s (State.histWrite x a1) := by
  unfold State.histWrite
  repeat' first
    | with_reducible assumption
    | intro _ _
    | intro _
    | with_reducible apply State.set_keeps
    | with_reducible apply State.recWords_keeps

theorem State.ringRecord_keeps {s x} {a1} (h : Keeps s x) : Keeps s (State.ringRecord x a1) := by
  unfold State.ringRecord
  repeat' first
    | with_reducible assumption
    | intro _ _
    | intro _
    | with_reducible apply Keeps.choose
    | with_reducible apply State.inc_keeps
    | with_reducible apply State.eventRingWrite_keeps

theorem State.faultLine_keeps {s x} {a1 a2} (h : Keeps s x) : Keeps s (State.faultLine x a1 a2) := by
  unfold State.faultLine
  repeat' first
    | with_reducible assumption
    | intro _ _
    | intro _
    | with_reducible apply State.journalWrite_keeps

theorem State.storeRecord_keeps {s x} {a1 a2} (h : Keeps s x) : Keeps s (State.storeRecord x a1 a2) := by
  unfold State.storeRecord
  repeat' first
    | with_reducible assumption
    | intro _ _
    | intro _
    | with_reducible apply Keeps.choose
    | with_reducible apply State.inc_keeps
    | with_reducible apply State.faultLine_keeps
    | split
    | dsimp only
    | with_reducible apply Keeps.upd

theorem State.faultRecord_keeps {s x} {a1} (h : Keeps s x) : Keeps s (State.faultRecord x a1) := by
  unfold State.faultRecord
  repeat' first
    | with_reducible assumption
    | intro _ _
    | intro _
    | with_reducible apply State.tally_keeps
    | with_reducible apply State.histWrite_keeps
    | with_reducible apply State.ringRecord_keeps
    | with_reducible apply State.storeRecord_keeps
    | split
    | dsimp only
    | with_reducible apply Keeps.upd

theorem State.maskEnd_keeps {s x} (h : Keeps s x) : Keeps s (State.maskEnd x) := by
  unfold State.maskEnd
  repeat' first
    | with_reducible assumption
    | intro _ _
    | intro _
    | split
    | dsimp only
    | with_reducible apply Keeps.upd

theorem State.autoReset_keeps {s x} (h : Keeps s x) : Keeps s (State.autoReset x) := by
  unfold State.autoReset
  repeat' first
    | with_reducible assumption
    | intro _ _
    | intro _
    | with_reducible apply Keeps.choose
    | with_reducible apply State.moduleReset_keeps
    | split

theorem State.portSafeRelease_keeps {s x} {a1} (h : Keeps s x) : Keeps s (State.portSafeRelease x a1) := by
  unfold State.portSafeRelease
  repeat' first
    | with_reducible assumption
    | intro _ _
    | intro _
    | with_reducible apply Keeps.choose
    | with_reducible apply State.clearBit_keeps
    | with_reducible apply State.portLeaveSafe_keeps

theorem State.injGate_keeps {s x} {a1} (h1 : ∀ y, Keeps s y → Keeps s (a1 y)) (h : Keeps s x) :
    Keeps s (State.injGate x a1) := by
  unfold State.injGate
  repeat' first
    | with_reducible assumption
    | intro _ _
    | intro _
    | apply h1
    | with_reducible apply Keeps.choose
    | with_reducible apply State.setB_keeps

theorem State.injEvent_keeps {s x} (h : Keeps s x) : Keeps s (State.injEvent x) := by
  unfold State.injEvent
  repeat' first
    | with_reducible assumption
    | intro _ _
    | intro _
    | split
    | dsimp only
    | with_reducible apply Keeps.upd

theorem State.injMemory_keeps {s x} (h : Keeps s x) : Keeps s (State.injMemory x) := by
  unfold State.injMemory
  repeat' first
    | with_reducible assumption
    | intro _ _
    | intro _
    | with_reducible apply Keeps.choose
    | split
    | dsimp only
    | with_reducible apply Keeps.upd

theorem State.injLane_keeps {s x} (h : Keeps s x) : Keeps s (State.injLane x) := by
  unfold State.injLane
  repeat' first
    | with_reducible assumption
    | intro _ _
    | intro _
    | with_reducible apply Keeps.choose
    | with_reducible apply State.laneInject_keeps
    | split
    | dsimp only

theorem State.injGo_keeps {s x} (h : Keeps s x) : Keeps s (State.injGo x) := by
  unfold State.injGo
  repeat' first
    | with_reducible assumption
    | intro _ _
    | intro _
    | with_reducible apply State.injGate_keeps
    | with_reducible apply State.injEvent_keeps
    | with_reducible apply State.injMemory_keeps
    | with_reducible apply State.injLane_keeps
    | split

/-! ### Machine/Security.lean -/

theorem State.zeroMemories_keeps {s x} (h : Keeps s x) : Keeps s (State.zeroMemories x) := by
  unfold State.zeroMemories
  repeat' first
    | with_reducible assumption
    | intro _ _
    | intro _
    | with_reducible apply State.memZero_keeps
    | split
    | dsimp only
    | with_reducible apply Keeps.upd

theorem State.stopTraffic_keeps {s x} (h : Keeps s x) : Keeps s (State.stopTraffic x) := by
  unfold State.stopTraffic
  repeat' first
    | with_reducible assumption
    | intro _ _
    | intro _
    | with_reducible apply State.ringsStop_keeps
    | with_reducible apply State.allPortsDisabled_keeps
    | with_reducible apply State.dmaLinkEnd_keeps
    | with_reducible apply State.imgEndRunning_keeps
    | with_reducible apply State.discardAll_keeps

/-- A command block that passes every check asks for an allowed command with a valid argument (R412, R413). -/
theorem State.milestCheck_zero {x b} (e : State.milestCheck x b = 0) :
    x.argOk (blkCommand b) b = true ∧ commandAllowed (blkCommand b) x.lcState = true := by
  unfold State.milestCheck at e
  dsimp only at e
  repeat' split at e
  all_goals try cases e
  simp_all

/-- Setting a bit leaves every set bit set. -/
theorem bit_bitSet_of_bit {n k j : Nat} (h : bit n j = true) : bit (bitSet n k) j = true := by
  unfold bit bitSet putBits at *
  have hr : n % 2 ^ k < 2 ^ k := Nat.mod_lt _ (by positivity)
  have e : n = 2 ^ k * (2 * (n / 2 ^ k / 2) + n / 2 ^ k % 2) + n % 2 ^ k := by
    rw [Nat.div_add_mod (n / 2 ^ k) 2, Nat.div_add_mod]
  have e2 : n - 2 ^ k * (n / 2 ^ k % 2 ^ 1) + 2 ^ k * (1 % 2 ^ 1) = 2 ^ k * (2 * (n / 2 ^ k / 2) + 1) + n % 2 ^ k := by
    rw [Nat.mul_add] at e ⊢
    norm_num
    omega
  rw [e2, Nat.testBit_two_pow_mul_add _ hr]
  have h2 := h
  rw [e, Nat.testBit_two_pow_mul_add _ hr] at h2
  by_cases c : j < k
  · rw [if_pos c] at h2 ⊢
    exact h2
  · rw [if_neg c] at h2 ⊢
    rcases Nat.eq_zero_or_pos (j - k) with c | c
    · rw [c, Nat.testBit_zero]
      simp
    · obtain ⟨d, c⟩ := Nat.exists_eq_succ_of_ne_zero (Nat.pos_iff_ne_zero.mp c)
      rw [c, Nat.testBit_succ] at h2 ⊢
      have p : (2 * (n / 2 ^ k / 2) + n / 2 ^ k % 2) / 2 = n / 2 ^ k / 2 := by omega
      have q : (2 * (n / 2 ^ k / 2) + 1) / 2 = n / 2 ^ k / 2 := by omega
      rw [p] at h2
      rw [q]
      exact h2

/-- The effect of a command that passed its checks: the fuses only grow. -/
theorem State.milestEffect_keeps {s x code b} (ha : x.argOk code b = true) (hc : commandAllowed code x.lcState = true)
    (h : Keeps s x) : Keeps s (State.milestEffect x code b) := by
  unfold State.milestEffect
  dsimp only
  split
  · refine .of_mil h ⟨le_refl _, fun k v e => ?_, fun _ e => e, le_refl _, rfl, fun e => e⟩ rfl rfl rfl
    have hk : k ≠ blkArg b 0 := by
      rintro rfl
      simp [State.argOk, State.slotFused, e] at ha
    simpa [tabFind_tabPut_of_ne _ _ _ _ hk] using e
  · exact .of_mil h ⟨le_refl _, fun _ _ e => e, fun _ e => e, le_refl _, rfl, fun e => e⟩ rfl rfl rfl
  · refine State.setB_keeps (.of_mil h ⟨?_, fun _ _ e => e, fun _ e => e, le_refl _, rfl, fun e => e⟩ rfl rfl rfl)
    have hl : x.lcState = 0 := by simpa [commandAllowed, lcManufacture] using hc
    unfold State.lcState at hl
    split at hl
    · omega
    · simp [hl]
  · have k : Keeps s (x.stopTraffic.zeroMemories.portList.foldl (fun s p => s.setB Reg.PORT.ADMIN_UP false p) x.stopTraffic.zeroMemories) :=
      Keeps.foldl (fun _ _ hy => State.setB_keeps hy) (State.zeroMemories_keeps (State.stopTraffic_keeps h))
    generalize List.foldl _ x.stopTraffic.zeroMemories x.stopTraffic.zeroMemories.portList = y at k ⊢
    exact .of_mil k ⟨le_refl _, fun _ _ e => e, fun _ e => e, le_refl _, rfl, fun e => e⟩ rfl rfl rfl
  · exact .of_mil h ⟨le_refl _, fun _ _ e => e, fun _ e => bit_bitSet_of_bit e, le_refl _, rfl, fun e => e⟩ rfl rfl rfl
  · refine .of_mil h ⟨le_refl _, fun _ _ e => e, fun _ e => e, ?_, rfl, fun e => e⟩ rfl rfl rfl
    simp [State.argOk] at ha
    exact le_of_lt ha
  · have k : Keeps s ((x.stopTraffic.zeroMemories).setB Reg.FLT.MODULE_SAFE true).imgUnload :=
      State.imgUnload_keeps (State.setB_keeps (State.zeroMemories_keeps (State.stopTraffic_keeps h)))
    generalize ((x.stopTraffic.zeroMemories).setB Reg.FLT.MODULE_SAFE true).imgUnload = y at k
    refine State.setB_keeps (.of_mil k ⟨?_, fun _ _ e => e, fun _ e => e, le_refl _, rfl, fun _ => rfl⟩ rfl rfl rfl)
    show y.mil.fused.code ≤ 3
    cases y.mil.fused <;> decide

theorem State.milestEnd_keeps {s x} {a1 a2} (h : Keeps s x) : Keeps s (State.milestEnd x a1 a2) := by
  unfold State.milestEnd
  repeat' first
    | with_reducible assumption
    | intro _ _
    | intro _
    | with_reducible apply State.when_keeps
    | with_reducible apply State.set_keeps
    | with_reducible apply State.when_keeps
    | with_reducible apply State.event_keeps
    | with_reducible apply State.fault_keeps
    | with_reducible apply State.freshNonce_keeps

theorem State.milest_keeps {s x b ok} (h : Keeps s x) : Keeps s (State.milest x b ok) := by
  unfold State.milest
  dsimp only
  split
  · exact State.milestEnd_keeps h
  · rename_i e
    have c := State.milestCheck_zero (x := x) (b := b) (by simpa using e)
    split
    · exact State.milestEnd_keeps h
    · exact State.milestEnd_keeps (State.milestEffect_keeps c.1 c.2 h)

theorem State.milestRow_keeps {s x} {a1 a2 a3} (h : Keeps s x) : Keeps s (State.milestRow x a1 a2 a3) := by
  unfold State.milestRow
  repeat' first
    | with_reducible assumption
    | intro _ _
    | intro _
    | with_reducible apply Keeps.choose
    | with_reducible apply State.milest_keeps

theorem State.spdmAnswer_keeps {s x} {a1 a2 a3} (h3 : ∀ y, Keeps s y → Keeps s (a3 y)) (h : Keeps s x) :
    Keeps s (State.spdmAnswer x a1 a2 a3) := by
  unfold State.spdmAnswer
  repeat' first
    | with_reducible assumption
    | intro _ _
    | intro _
    | apply h3
    | with_reducible apply Keeps.choose
    | with_reducible apply State.emit_keeps

theorem State.jtagLoad_keeps {s x} {a1} (h : Keeps s x) : Keeps s (State.jtagLoad x a1) := by
  unfold State.jtagLoad
  repeat' first
    | with_reducible assumption
    | intro _ _
    | intro _
    | split
    | dsimp only
    | with_reducible apply Keeps.upd

theorem State.jtagBypass_keeps {s x} (h : Keeps s x) : Keeps s (State.jtagBypass x) := by
  unfold State.jtagBypass
  repeat' first
    | with_reducible assumption
    | intro _ _
    | intro _
    | with_reducible apply State.emit_keeps
    | with_reducible apply State.bypass_keeps
    | with_reducible apply State.jtagLoad_keeps

theorem State.jtagIr_keeps {s x} {a1 a2} (h2 : ∀ y, Keeps s y → Keeps s (a2 y)) (h : Keeps s x) :
    Keeps s (State.jtagIr x a1 a2) := by
  unfold State.jtagIr
  repeat' first
    | with_reducible assumption
    | intro _ _
    | intro _
    | apply h2
    | with_reducible apply Keeps.choose
    | with_reducible apply State.when_keeps
    | with_reducible apply State.when_keeps
    | with_reducible apply State.jtagBypass_keeps

/-- Writing a list of cells keeps the canonical form. -/
theorem memWf_cells {l : List Host.Cell} {m : List Host.Cell} (h : memWf m = true) :
    memWf (l.foldl (fun m c => memPut m c.1 c.2) m) = true :=
  foldl_keeps (fun m => memWf m = true) _ (fun m d j => memWf_memPut m d.1 d.2 j) _ _ h

theorem State.assayEnter_keeps {s x t} (h : Keeps s x) : Keeps s (State.assayEnter x t) := by
  unfold State.assayEnter
  have k : Keeps s (x.set Reg.ASY.CURRENT t) := State.set_keeps h
  generalize x.set Reg.ASY.CURRENT t = y at k
  dsimp only
  split
  · exact State.draw_keeps (.of_dev k (fun i => memWf_cells (memWf_filter _ _ i)) rfl rfl rfl)
  · exact k

theorem State.assayStart_keeps {s x} (h : Keeps s x) : Keeps s (State.assayStart x) := by
  unfold State.assayStart
  repeat' first
    | with_reducible assumption
    | intro _ _
    | intro _
    | with_reducible apply State.when_keeps
    | with_reducible apply Keeps.upTo
    | with_reducible apply State.set_keeps
    | with_reducible apply State.setB_keeps
    | with_reducible apply State.when_keeps
    | with_reducible apply State.retarget_keeps
    | with_reducible apply State.stopTraffic_keeps
    | with_reducible apply State.assayEnter_keeps
    | split
    | dsimp only
    | with_reducible apply Keeps.upd

theorem State.assayGo_keeps {s x} {a1 a2} (h : Keeps s x) : Keeps s (State.assayGo x a1 a2) := by
  unfold State.assayGo
  repeat' first
    | with_reducible assumption
    | intro _ _
    | intro _
    | with_reducible apply Keeps.choose
    | with_reducible apply State.set_keeps
    | with_reducible apply State.assayStart_keeps

theorem State.unitLost_keeps {s y u} (h : Keeps s y.2) : Keeps s (State.unitLost y u).2 :=
  State.fault_keeps h

theorem State.unitFound_keeps {s t y u} (h : Keeps s y.2) : Keeps s (State.unitFound t y u).2 := by
  unfold State.unitFound
  dsimp only
  split
  · split
    · exact State.migTrigger_keeps h
    · exact State.unitLost_keeps h
  · split
    · exact Keeps.upd h
    · exact State.unitLost_keeps h
  · exact State.unitLost_keeps h

theorem State.assayCount_keeps {s x t l} (h : Keeps s x) : Keeps s (State.assayCount x t l) := by
  have k : Keeps s (l.foldl (State.unitFound t) (({} : AssayTally), x)).2 :=
    Keeps.foldl_snd (fun _ _ hy => State.unitFound_keeps hy) h
  unfold State.assayCount
  exact State.set_keeps (State.set_keeps
    (State.set_keeps (State.set_keeps k)))

theorem State.assayBuffer_keeps {s x} {a1 a2} (h : Keeps s x) : Keeps s (State.assayBuffer x a1 a2) := by
  unfold State.assayBuffer
  repeat' first
    | with_reducible assumption
    | intro _ _
    | intro _
    | with_reducible apply State.when_keeps
    | with_reducible apply State.set_keeps
    | with_reducible apply State.setB_keeps
    | with_reducible apply State.when_keeps
    | with_reducible apply State.draw_keeps
    | with_reducible apply State.fault_keeps

theorem State.assayTestDone_keeps {s x} {a1 a2 a3} (h : Keeps s x) : Keeps s (State.assayTestDone x a1 a2 a3) := by
  unfold State.assayTestDone
  repeat' first
    | with_reducible assumption
    | intro _ _
    | intro _
    | with_reducible apply State.when_keeps
    | with_reducible apply State.when_keeps
    | with_reducible apply State.assayEnd_keeps
    | with_reducible apply State.assayEnter_keeps
    | with_reducible apply State.assayCount_keeps
    | with_reducible apply State.assayBuffer_keeps
    | split
    | dsimp only
    | with_reducible apply Keeps.upd

theorem State.assayFail_keeps {s x} {a1} (h : Keeps s x) : Keeps s (State.assayFail x a1) := by
  unfold State.assayFail
  repeat' first
    | with_reducible assumption
    | intro _ _
    | intro _
    | with_reducible apply State.when_keeps
    | with_reducible apply State.when_keeps
    | with_reducible apply State.assayStop_keeps

/-! ### Machine/HostWrite.lean -/

theorem State.bucketBefore_keeps {s x} {a1 a2 a3} (h : Keeps s x) : Keeps s (State.bucketBefore x a1 a2 a3) := by
  unfold State.bucketBefore
  repeat' first
    | with_reducible assumption
    | intro _ _
    | intro _
    | with_reducible apply Keeps.choose
    | with_reducible apply State.slowPut_keeps
    | with_reducible apply State.learnPut_keeps

theorem State.fieldWrite_keeps {s x} {a1 a2 a3 a4 a5} (h : Keeps s x) : Keeps s (State.fieldWrite x a1 a2 a3 a4 a5) := by
  unfold State.fieldWrite
  repeat' first
    | with_reducible assumption
    | intro _ _
    | intro _
    | with_reducible apply Keeps.choose
    | with_reducible apply State.set_keeps
    | with_reducible apply State.bucketBefore_keeps
    | split

theorem State.narrowWrite_keeps {s x} {a1 a2} (h : Keeps s x) : Keeps s (State.narrowWrite x a1 a2) := by
  unfold State.narrowWrite
  repeat' first
    | with_reducible assumption
    | intro _ _
    | intro _
    | with_reducible apply Keeps.foldl
    | with_reducible apply Keeps.foldl_snd
    | with_reducible apply Keeps.foldl_fst
    | with_reducible apply Keeps.foldl_third
    | with_reducible apply State.fieldWrite_keeps

theorem State.wideCommit_keeps {s x} {a1 a2} (h : Keeps s x) : Keeps s (State.wideCommit x a1 a2) := by
  unfold State.wideCommit
  repeat' first
    | with_reducible assumption
    | intro _ _
    | intro _
    | with_reducible apply Keeps.choose
    | with_reducible apply State.sampleReload_keeps
    | with_reducible apply State.lineSend_keeps
    | with_reducible apply State.fieldWrite_keeps

theorem State.wideWrite_keeps {s x} {a1 a2 a3} (h : Keeps s x) : Keeps s (State.wideWrite x a1 a2 a3) := by
  unfold State.wideWrite
  repeat' first
    | with_reducible assumption
    | intro _ _
    | intro _
    | with_reducible apply Keeps.choose
    | with_reducible apply State.rateCommit_keeps
    | with_reducible apply State.wideCommit_keeps
    | split
    | dsimp only
    | with_reducible apply Keeps.upd

theorem State.claspWord_keeps {s x} {a1 a2 a3 a4} (h : Keeps s x) : Keeps s (State.claspWord x a1 a2 a3 a4) := by
  unfold State.claspWord
  repeat' first
    | with_reducible assumption
    | intro _ _
    | intro _
    | with_reducible apply State.set_keeps

theorem State.portCtrl_keeps {s x} {a1 a2} (h : Keeps s x) : Keeps s (State.portCtrl x a1 a2) := by
  unfold State.portCtrl
  repeat' first
    | with_reducible assumption
    | intro _ _
    | intro _
    | with_reducible apply Keeps.choose
    | with_reducible apply State.when_keeps
    | with_reducible apply State.when_keeps
    | with_reducible apply State.adminUp_keeps
    | with_reducible apply State.testMode_keeps
    | with_reducible apply State.portRestart_keeps
    | with_reducible apply State.fecClear_keeps

theorem State.actLine_keeps {s x} {a1} (h : Keeps s x) : Keeps s (State.actLine x a1) := by
  unfold State.actLine
  repeat' first
    | with_reducible assumption
    | intro _ _
    | intro _
    | with_reducible apply State.lineSend_keeps
    | with_reducible apply State.portLine_keeps
    | split

theorem State.actPort_keeps {s x} {a1 a2} (h : Keeps s x) : Keeps s (State.actPort x a1 a2) := by
  unfold State.actPort
  repeat' first
    | with_reducible assumption
    | intro _ _
    | intro _
    | with_reducible apply State.when_keeps
    | with_reducible apply State.when_keeps
    | with_reducible apply State.ffeWrite_keeps
    | with_reducible apply State.adaptRestart_keeps
    | with_reducible apply State.chkClear_keeps
    | with_reducible apply State.genInject_keeps
    | with_reducible apply State.portCtrl_keeps
    | with_reducible apply State.actLine_keeps
    | split

theorem State.actImage_keeps {s x} {a1 a2} (h : Keeps s x) : Keeps s (State.actImage x a1 a2) := by
  unfold State.actImage
  repeat' first
    | with_reducible assumption
    | intro _ _
    | intro _
    | with_reducible apply Keeps.choose
    | with_reducible apply State.when_keeps
    | with_reducible apply State.when_keeps
    | with_reducible apply State.bootPrefWrite_keeps
    | with_reducible apply State.imgCommand_keeps
    | with_reducible apply State.retireForce_keeps
    | with_reducible apply State.imgAbort_keeps

theorem State.actLookup_keeps {s x} {a1 a2} (h : Keeps s x) : Keeps s (State.actLookup x a1 a2) := by
  unfold State.actLookup
  repeat' first
    | with_reducible assumption
    | intro _ _
    | intro _
    | with_reducible apply Keeps.choose
    | with_reducible apply State.emCommand_keeps
    | with_reducible apply State.aseCommand_keeps
    | with_reducible apply State.claspWord_keeps
    | split

theorem State.gateCtrl_keeps {s x} {a1 a2} (h : Keeps s x) : Keeps s (State.gateCtrl x a1 a2) := by
  unfold State.gateCtrl
  repeat' first
    | with_reducible assumption
    | intro _ _
    | intro _
    | with_reducible apply Keeps.choose
    | with_reducible apply State.when_keeps
    | with_reducible apply State.setB_keeps
    | with_reducible apply State.when_keeps
    | with_reducible apply State.configChange_keeps
    | with_reducible apply State.gateDisable_keeps

theorem State.actQueues_keeps {s x} {a1 a2} (h : Keeps s x) : Keeps s (State.actQueues x a1 a2) := by
  unfold State.actQueues
  repeat' first
    | with_reducible assumption
    | intro _ _
    | intro _
    | with_reducible apply Keeps.choose
    | with_reducible apply State.when_keeps
    | with_reducible apply State.when_keeps
    | with_reducible apply State.migrateCmd_keeps
    | with_reducible apply State.holdExpire_keeps
    | with_reducible apply State.gateCtrl_keeps
    | split

theorem State.actTime_keeps {s x} {a1 a2 a3} (h : Keeps s x) : Keeps s (State.actTime x a1 a2 a3) := by
  unfold State.actTime
  repeat' first
    | with_reducible assumption
    | intro _ _
    | intro _
    | with_reducible apply Keeps.choose
    | with_reducible apply State.when_keeps
    | with_reducible apply State.when_keeps
    | with_reducible apply State.synceUpdate_keeps
    | with_reducible apply State.trigArm_keeps
    | with_reducible apply State.ppsCtrl_keeps
    | with_reducible apply State.timeSet_keeps
    | with_reducible apply State.timeStep_keeps
    | with_reducible apply State.timeSnapshot_keeps
    | split

theorem State.actTele_keeps {s x} {a1 a2} (h : Keeps s x) : Keeps s (State.actTele x a1 a2) := by
  unfold State.actTele
  repeat' first
    | with_reducible assumption
    | intro _ _
    | intro _
    | with_reducible apply Keeps.choose
    | with_reducible apply State.when_keeps
    | with_reducible apply State.when_keeps
    | with_reducible apply State.loupeStart_keeps
    | with_reducible apply State.loupeStop_keeps
    | with_reducible apply State.sampleCtrl_keeps
    | with_reducible apply State.counterFlush_keeps
    | with_reducible apply State.fsReadPtr_keeps
    | split

theorem State.dmaCtrl_keeps {s x} {a1 a2} (h : Keeps s x) : Keeps s (State.dmaCtrl x a1 a2) := by
  unfold State.dmaCtrl
  repeat' first
    | with_reducible assumption
    | intro _ _
    | intro _
    | with_reducible apply State.when_keeps
    | with_reducible apply State.when_keeps
    | with_reducible apply State.dmaGo_keeps
    | with_reducible apply State.dmaAbort_keeps
    | with_reducible apply State.dmaClearHalt_keeps

theorem State.actHost_keeps {s x} {a1 a2} (h : Keeps s x) : Keeps s (State.actHost x a1 a2) := by
  unfold State.actHost
  repeat' first
    | with_reducible assumption
    | intro _ _
    | intro _
    | with_reducible apply Keeps.choose
    | with_reducible apply State.setB_keeps
    | with_reducible apply State.ringEnable_keeps
    | with_reducible apply State.ringDisable_keeps
    | with_reducible apply State.shadowArm_keeps
    | with_reducible apply State.dmaCtrl_keeps
    | split

theorem State.actPower_keeps {s x} {a1 a2} (h : Keeps s x) : Keeps s (State.actPower x a1 a2) := by
  unfold State.actPower
  repeat' first
    | with_reducible assumption
    | intro _ _
    | intro _
    | with_reducible apply Keeps.choose
    | with_reducible apply State.phaseSelect_keeps
    | with_reducible apply State.phaseWrite_keeps
    | with_reducible apply State.shareWrite_keeps
    | split

theorem State.fltCommand_keeps {s x} {a1} (h : Keeps s x) : Keeps s (State.fltCommand x a1) := by
  unfold State.fltCommand
  repeat' first
    | with_reducible assumption
    | intro _ _
    | intro _
    | with_reducible apply State.when_keeps
    | with_reducible apply State.set_keeps
    | with_reducible apply State.setB_keeps

theorem State.actFault_keeps {s x} {a1 a2} (h : Keeps s x) : Keeps s (State.actFault x a1 a2) := by
  unfold State.actFault
  repeat' first
    | with_reducible assumption
    | intro _ _
    | intro _
    | with_reducible apply Keeps.choose
    | with_reducible apply State.when_keeps
    | with_reducible apply Keeps.upTo
    | with_reducible apply State.when_keeps
    | with_reducible apply State.assayStop_keeps
    | with_reducible apply State.portSafeRelease_keeps
    | with_reducible apply State.injGo_keeps
    | with_reducible apply State.fltCommand_keeps
    | split

theorem State.intEnWrite_keeps {s x} {a1} (h : Keeps s x) : Keeps s (State.intEnWrite x a1) := by
  unfold State.intEnWrite
  repeat' first
    | with_reducible assumption
    | intro _ _
    | intro _
    | with_reducible apply State.when_keeps
    | with_reducible apply State.set_keeps
    | with_reducible apply State.when_keeps
    | with_reducible apply State.glbPend_keeps

theorem State.actGlb_keeps {s x} {a1 a2} (h : Keeps s x) : Keeps s (State.actGlb x a1 a2) := by
  unfold State.actGlb
  repeat' first
    | with_reducible assumption
    | intro _ _
    | intro _
    | with_reducible apply Keeps.choose
    | with_reducible apply State.when_keeps
    | with_reducible apply State.when_keeps
    | with_reducible apply State.resetCommand_keeps
    | with_reducible apply State.pipeGo_keeps
    | with_reducible apply State.portGo_keeps
    | with_reducible apply State.intEnWrite_keeps

theorem State.wordAct_keeps {s x} {a1 a2 a3} (h : Keeps s x) : Keeps s (State.wordAct x a1 a2 a3) := by
  unfold State.wordAct
  repeat' first
    | with_reducible assumption
    | intro _ _
    | intro _
    | with_reducible apply Keeps.choose
    | with_reducible apply State.actPort_keeps
    | with_reducible apply State.actImage_keeps
    | with_reducible apply State.actLookup_keeps
    | with_reducible apply State.actQueues_keeps
    | with_reducible apply State.actTime_keeps
    | with_reducible apply State.actTele_keeps
    | with_reducible apply State.actHost_keeps
    | with_reducible apply State.actPower_keeps
    | with_reducible apply State.actFault_keeps
    | with_reducible apply State.actGlb_keeps

theorem State.chkRise_keeps {s x} {a1 a2} (h : Keeps s x) : Keeps s (State.chkRise x a1 a2) := by
  unfold State.chkRise
  repeat' first
    | with_reducible assumption
    | intro _ _
    | intro _
    | with_reducible apply State.when_keeps
    | with_reducible apply State.when_keeps
    | with_reducible apply State.chkClear_keeps
    | split

theorem State.wordStore_keeps {s x} {a1 a2} (h : Keeps s x) : Keeps s (State.wordStore x a1 a2) := by
  unfold State.wordStore
  repeat' first
    | with_reducible assumption
    | intro _ _
    | intro _
    | with_reducible apply Keeps.choose
    | with_reducible apply State.setB_keeps
    | with_reducible apply shadowWord_keeps
    | with_reducible apply State.narrowWrite_keeps
    | with_reducible apply State.wideWrite_keeps
    | with_reducible apply State.wordAct_keeps
    | with_reducible apply State.chkRise_keeps
    | split

theorem State.hostWrite_keeps {s x} {a1 a2} (h : Keeps s x) : Keeps s (State.hostWrite x a1 a2) := by
  unfold State.hostWrite
  repeat' first
    | with_reducible assumption
    | intro _ _
    | intro _
    | with_reducible apply Keeps.choose
    | with_reducible apply State.wordStore_keeps

/-! ### Machine/HostAccess.lean -/

theorem State.answer_keeps {s x} {a1} (h : Keeps s x) : Keeps s (State.answer x a1) := by
  unfold State.answer
  repeat' first
    | with_reducible assumption
    | intro _ _
    | intro _
    | split
    | dsimp only
    | with_reducible apply Keeps.upd

theorem State.rcClear_keeps {s x} {a1} (h : Keeps s x) : Keeps s (State.rcClear x a1) := by
  unfold State.rcClear
  repeat' first
    | with_reducible assumption
    | intro _ _
    | intro _
    | with_reducible apply Keeps.choose
    | with_reducible apply State.set_keeps

theorem State.lowRead_keeps {s x} {a1} (h : Keeps s x) : Keeps s (State.lowRead x a1) := by
  unfold State.lowRead
  repeat' first
    | with_reducible assumption
    | intro _ _
    | intro _
    | with_reducible apply State.answer_keeps
    | split
    | dsimp only
    | with_reducible apply Keeps.upd

theorem State.highRead_keeps {s x} {a1} (h : Keeps s x) : Keeps s (State.highRead x a1) := by
  unfold State.highRead
  repeat' first
    | with_reducible assumption
    | intro _ _
    | intro _
    | with_reducible apply State.answer_keeps
    | split
    | dsimp only
    | with_reducible apply Keeps.upd

theorem State.narrowRead_keeps {s x} {a1} (h : Keeps s x) : Keeps s (State.narrowRead x a1) := by
  unfold State.narrowRead
  repeat' first
    | with_reducible assumption
    | intro _ _
    | intro _
    | with_reducible apply Keeps.foldl
    | with_reducible apply Keeps.foldl_snd
    | with_reducible apply Keeps.foldl_fst
    | with_reducible apply Keeps.foldl_third
    | with_reducible apply State.answer_keeps
    | with_reducible apply State.rcClear_keeps

theorem State.hostRead_keeps {s x} {a1} (h : Keeps s x) : Keeps s (State.hostRead x a1) := by
  unfold State.hostRead
  repeat' first
    | with_reducible assumption
    | intro _ _
    | intro _
    | with_reducible apply Keeps.choose
    | with_reducible apply State.answer_keeps
    | with_reducible apply State.lowRead_keeps
    | with_reducible apply State.highRead_keeps
    | with_reducible apply State.narrowRead_keeps
    | split

theorem State.badAccess_keeps {s x} (h : Keeps s x) : Keeps s (State.badAccess x) := by
  unfold State.badAccess
  repeat' first
    | with_reducible assumption
    | intro _ _
    | intro _
    | with_reducible apply Keeps.choose
    | with_reducible apply State.hostEvent_keeps
    | with_reducible apply State.fault_keeps
    | with_reducible apply State.answer_keeps

theorem State.busRead_keeps {s x} {a1 a2} (h : Keeps s x) : Keeps s (State.busRead x a1 a2) := by
  unfold State.busRead
  repeat' first
    | with_reducible assumption
    | intro _ _
    | intro _
    | with_reducible apply Keeps.choose
    | with_reducible apply State.answer_keeps
    | with_reducible apply State.hostRead_keeps
    | with_reducible apply State.badAccess_keeps
    | split

theorem State.msixWrite_keeps {s x} {a1 a2} (h : Keeps s x) : Keeps s (State.msixWrite x a1 a2) := by
  unfold State.msixWrite
  repeat' first
    | with_reducible assumption
    | intro _ _
    | intro _
    | with_reducible apply Keeps.choose
    | with_reducible apply State.msixRelease_keeps
    | split
    | dsimp only
    | with_reducible apply Keeps.upd

theorem State.busWrite_keeps {s x} {a1 a2 a3} (h : Keeps s x) : Keeps s (State.busWrite x a1 a2 a3) := by
  unfold State.busWrite
  repeat' first
    | with_reducible assumption
    | intro _ _
    | intro _
    | with_reducible apply Keeps.choose
    | with_reducible apply State.bezelWrite_keeps
    | with_reducible apply State.cfgWrite_keeps
    | with_reducible apply State.hostWrite_keeps
    | with_reducible apply State.badAccess_keeps
    | with_reducible apply State.msixWrite_keeps
    | split

theorem State.smbLive_keeps {s x} {a1} (h1 : ∀ y, Keeps s y → Keeps s (a1 y)) (h : Keeps s x) :
    Keeps s (State.smbLive x a1) := by
  unfold State.smbLive
  repeat' first
    | with_reducible assumption
    | intro _ _
    | intro _
    | apply h1
    | with_reducible apply State.when_keeps

theorem State.smbWord_keeps {s x} {a1} (h : Keeps s x) : Keeps s (State.smbWord x a1).2 := by
  unfold State.smbWord
  repeat' first
    | with_reducible assumption
    | intro _ _
    | intro _
    | with_reducible apply Keeps.choose
    | split
    | dsimp only
    | with_reducible apply Keeps.upd
theorem State.smbWord_keepsE {s x} {a1} {r0 t} (e : State.smbWord x a1 = (r0, t)) (h : Keeps s x) : Keeps s t := by
  have k := State.smbWord_keeps (s := s) (x := x) (a1 := a1) h
  rwa [e] at k

theorem State.smbPointer_keeps {s x} {a1 a2} (h : Keeps s x) : Keeps s (State.smbPointer x a1 a2) := by
  unfold State.smbPointer
  repeat' first
    | with_reducible assumption
    | intro _ _
    | intro _
    | with_reducible apply Keeps.choose
    | with_reducible apply State.emit_keeps
    | split
    | dsimp only
    | with_reducible apply Keeps.upd

theorem State.smbRead_keeps {s x} (h : Keeps s x) : Keeps s (State.smbRead x) := by
  unfold State.smbRead
  repeat' first
    | with_reducible assumption
    | intro _ _
    | intro _
    | with_reducible apply State.emit_keeps
    | with_reducible apply State.smbWord_keeps
    | refine State.smbWord_keepsE (by with_reducible assumption) ?_
    | split
    | dsimp only
    | with_reducible apply Keeps.upd

theorem State.smbWrite_keeps {s x} {a1 a2 a3} (h : Keeps s x) : Keeps s (State.smbWrite x a1 a2 a3) := by
  unfold State.smbWrite
  repeat' first
    | with_reducible assumption
    | intro _ _
    | intro _
    | with_reducible apply Keeps.choose
    | with_reducible apply State.emit_keeps
    | with_reducible apply State.hostWrite_keeps

end Sys2Proof.Machine
end

