-- ==== Sys2Proof/Laws/KeepsExec.lean ====
section
/-!
SUPPORT. Every meaning answers a next state, which keeps what every operation keeps.
-/
namespace Sys2Proof.Machine
set_option Elab.async false

theorem execTrmWindowEnd_keeps {s} {a0 a1 a2} : ∃ t, execTrmWindowEnd a0 a1 a2 s = .next t ∧ Keeps s t := by
  refine ⟨_, rfl, ?_⟩
  repeat' first
    | with_reducible assumption
    | with_reducible exact Keeps.refl _
    | intro _ _
    | intro _
    | with_reducible apply State.trmWindow_keeps

theorem execDroopDetect_keeps {s} {a0 a1} : ∃ t, execDroopDetect a0 a1 s = .next t ∧ Keeps s t := by
  refine ⟨_, rfl, ?_⟩
  repeat' first
    | with_reducible assumption
    | with_reducible exact Keeps.refl _
    | intro _ _
    | intro _
    | with_reducible apply State.droopSeen_keeps

theorem execDroopRecover_keeps {s} {a0} : ∃ t, execDroopRecover a0 s = .next t ∧ Keeps s t := by
  refine ⟨_, rfl, ?_⟩
  repeat' first
    | with_reducible assumption
    | with_reducible exact Keeps.refl _
    | intro _ _
    | intro _
    | with_reducible apply State.droopEnd_keeps

theorem execVcoreUndervolt_keeps {s} {a0} : ∃ t, execVcoreUndervolt a0 s = .next t ∧ Keeps s t := by
  refine ⟨_, rfl, ?_⟩
  repeat' first
    | with_reducible assumption
    | with_reducible exact Keeps.refl _
    | intro _ _
    | intro _
    | with_reducible apply State.fault_keeps
    | with_reducible apply State.when_keeps

theorem execOpTransitionDone_keeps {s} {a0} : ∃ t, execOpTransitionDone a0 s = .next t ∧ Keeps s t := by
  refine ⟨_, rfl, ?_⟩
  repeat' first
    | with_reducible assumption
    | with_reducible exact Keeps.refl _
    | intro _ _
    | intro _
    | with_reducible apply State.opSettled_keeps

theorem execPhaseSelect_keeps {s} {a0} : ∃ t, execPhaseSelect a0 s = .next t ∧ Keeps s t := by
  refine ⟨_, rfl, ?_⟩
  repeat' first
    | with_reducible assumption
    | with_reducible exact Keeps.refl _
    | intro _ _
    | intro _
    | with_reducible apply State.viaHost_keeps
    | with_reducible apply State.phaseSelect_keeps

theorem execPhaseEntryWrite_keeps {s} {a0 a1 a2} : ∃ t, execPhaseEntryWrite a0 a1 a2 s = .next t ∧ Keeps s t := by
  refine ⟨_, rfl, ?_⟩
  repeat' first
    | with_reducible assumption
    | with_reducible exact Keeps.refl _
    | intro _ _
    | intro _
    | with_reducible apply State.viaHost_keeps
    | with_reducible apply State.phaseWrite_keeps

theorem execRailSample_keeps {s} {a0 a1 a2 a3} : ∃ t, execRailSample a0 a1 a2 a3 s = .next t ∧ Keeps s t := by
  refine ⟨_, rfl, ?_⟩
  repeat' first
    | with_reducible assumption
    | with_reducible exact Keeps.refl _
    | intro _ _
    | intro _
    | with_reducible apply State.railSample_keeps

theorem execPowerWindowEnd_keeps {s} : ∃ t, execPowerWindowEnd s = .next t ∧ Keeps s t := by
  refine ⟨_, rfl, ?_⟩
  repeat' first
    | with_reducible assumption
    | with_reducible exact Keeps.refl _
    | intro _ _
    | intro _
    | with_reducible apply State.powerWindow_keeps
    | with_reducible apply State.when_keeps

theorem execLEnergyWindowEnd_keeps {s} : ∃ t, execLEnergyWindowEnd s = .next t ∧ Keeps s t := by
  refine ⟨_, rfl, ?_⟩
  repeat' first
    | with_reducible assumption
    | with_reducible exact Keeps.refl _
    | intro _ _
    | intro _
    | with_reducible apply State.energyWindow_keeps

theorem execTempSample_keeps {s} {a0} : ∃ t, execTempSample a0 s = .next t ∧ Keeps s t := by
  refine ⟨_, rfl, ?_⟩
  repeat' first
    | with_reducible assumption
    | with_reducible exact Keeps.refl _
    | intro _ _
    | intro _
    | with_reducible apply State.tempSample_keeps

theorem execThermalStep_keeps {s} : ∃ t, execThermalStep s = .next t ∧ Keeps s t := by
  refine ⟨_, rfl, ?_⟩
  repeat' first
    | with_reducible assumption
    | with_reducible exact Keeps.refl _
    | intro _ _
    | intro _
    | with_reducible apply State.thermalStep_keeps

theorem execBgStarved_keeps {s} {a0} : ∃ t, execBgStarved a0 s = .next t ∧ Keeps s t := by
  refine ⟨_, rfl, ?_⟩
  repeat' first
    | with_reducible assumption
    | with_reducible exact Keeps.refl _
    | intro _ _
    | intro _
    | with_reducible apply State.bgStarved_keeps

theorem execAnvilTrap_keeps {s} {a0 a1} : ∃ t, execAnvilTrap a0 a1 s = .next t ∧ Keeps s t := by
  refine ⟨_, rfl, ?_⟩
  repeat' first
    | with_reducible assumption
    | with_reducible exact Keeps.refl _
    | intro _ _
    | intro _
    | with_reducible apply State.anvilTrap_keeps

theorem execHoursIncrement_keeps {s} {a0 a1} : ∃ t, execHoursIncrement a0 a1 s = .next t ∧ Keeps s t := by
  refine ⟨_, rfl, ?_⟩
  repeat' first
    | with_reducible assumption
    | with_reducible exact Keeps.refl _
    | intro _ _
    | intro _
    | with_reducible apply State.hoursStep_keeps

theorem execVariantSwitch_keeps {s} {a0} : ∃ t, execVariantSwitch a0 s = .next t ∧ Keeps s t := by
  refine ⟨_, rfl, ?_⟩
  repeat' first
    | with_reducible assumption
    | with_reducible exact Keeps.refl _
    | intro _ _
    | intro _
    | with_reducible apply State.variantSwitch_keeps

theorem execWearLevelStep_keeps {s} {a0 a1 a2} : ∃ t, execWearLevelStep a0 a1 a2 s = .next t ∧ Keeps s t := by
  refine ⟨_, rfl, ?_⟩
  repeat' first
    | with_reducible assumption
    | with_reducible exact Keeps.refl _
    | intro _ _
    | intro _
    | with_reducible apply State.anvilStep_keeps
    | with_reducible apply State.storeWrite_keeps

theorem execRingCoalExpire_keeps {s} {a0} : ∃ t, execRingCoalExpire a0 s = .next t ∧ Keeps s t := by
  refine ⟨_, rfl, ?_⟩
  repeat' first
    | with_reducible assumption
    | with_reducible exact Keeps.refl _
    | intro _ _
    | intro _
    | with_reducible apply State.coalExpire_keeps

theorem execRingEnable_keeps {s} {a0} : ∃ t, execRingEnable a0 s = .next t ∧ Keeps s t := by
  refine ⟨_, rfl, ?_⟩
  repeat' first
    | with_reducible assumption
    | with_reducible exact Keeps.refl _
    | intro _ _
    | intro _
    | with_reducible apply State.viaHost_keeps
    | with_reducible apply State.ringEnable_keeps

theorem execRingDisable_keeps {s} {a0} : ∃ t, execRingDisable a0 s = .next t ∧ Keeps s t := by
  refine ⟨_, rfl, ?_⟩
  repeat' first
    | with_reducible assumption
    | with_reducible exact Keeps.refl _
    | intro _ _
    | intro _
    | with_reducible apply State.viaHost_keeps
    | with_reducible apply State.ringDisable_keeps

theorem execLoupeCounterWrap_keeps {s} {a0 a1 a2} : ∃ t, execLoupeCounterWrap a0 a1 a2 s = .next t ∧ Keeps s t := by
  refine ⟨_, rfl, ?_⟩
  repeat' first
    | with_reducible assumption
    | with_reducible exact Keeps.refl _
    | intro _ _
    | intro _
    | with_reducible apply State.loupeWrap_keeps

theorem execSamplingOverflow_keeps {s} {a0 a1} : ∃ t, execSamplingOverflow a0 a1 s = .next t ∧ Keeps s t := by
  refine ⟨_, rfl, ?_⟩
  repeat' first
    | with_reducible assumption
    | with_reducible exact Keeps.refl _
    | intro _ _
    | intro _
    | with_reducible apply State.sampleOverflow_keeps

theorem execLoupeStart_keeps {s} : ∃ t, execLoupeStart s = .next t ∧ Keeps s t := by
  refine ⟨_, rfl, ?_⟩
  repeat' first
    | with_reducible assumption
    | with_reducible exact Keeps.refl _
    | intro _ _
    | intro _
    | with_reducible apply State.viaHost_keeps
    | with_reducible apply State.loupeStart_keeps

theorem execLoupeStop_keeps {s} : ∃ t, execLoupeStop s = .next t ∧ Keeps s t := by
  refine ⟨_, rfl, ?_⟩
  repeat' first
    | with_reducible assumption
    | with_reducible exact Keeps.refl _
    | intro _ _
    | intro _
    | with_reducible apply State.viaHost_keeps
    | with_reducible apply State.loupeStop_keeps

theorem execLoupeWindowEnd_keeps {s} : ∃ t, execLoupeWindowEnd s = .next t ∧ Keeps s t := by
  refine ⟨_, rfl, ?_⟩
  repeat' first
    | with_reducible assumption
    | with_reducible exact Keeps.refl _
    | intro _ _
    | intro _
    | with_reducible apply State.loupeWindowEnd_keeps

theorem execSamplingCtrlWrite_keeps {s} {a0 a1 a2} : ∃ t, execSamplingCtrlWrite a0 a1 a2 s = .next t ∧ Keeps s t := by
  refine ⟨_, rfl, ?_⟩
  repeat' first
    | with_reducible assumption
    | with_reducible exact Keeps.refl _
    | intro _ _
    | intro _
    | with_reducible apply Keeps.choose
    | with_reducible apply State.viaHost_keeps
    | with_reducible apply State.sampleReload_keeps
    | with_reducible apply State.sampleCtrl_keeps

theorem execBwWindowEnd_keeps {s} : ∃ t, execBwWindowEnd s = .next t ∧ Keeps s t := by
  refine ⟨_, rfl, ?_⟩
  repeat' first
    | with_reducible assumption
    | with_reducible exact Keeps.refl _
    | intro _ _
    | intro _
    | with_reducible apply State.bwEnd_keeps

theorem execMigrateCmd_keeps {s} {a0} : ∃ t, execMigrateCmd a0 s = .next t ∧ Keeps s t := by
  refine ⟨_, rfl, ?_⟩
  repeat' first
    | with_reducible assumption
    | with_reducible exact Keeps.refl _
    | intro _ _
    | intro _
    | with_reducible apply State.viaHost_keeps
    | with_reducible apply State.migrateCmd_keeps

theorem execBankMigrationStart_keeps {s} {a0} : ∃ t, execBankMigrationStart a0 s = .next t ∧ Keeps s t := by
  refine ⟨_, rfl, ?_⟩
  repeat' first
    | with_reducible assumption
    | with_reducible exact Keeps.refl _
    | intro _ _
    | intro _
    | with_reducible apply State.anvilStep_keeps
    | with_reducible apply State.migStart_keeps

theorem execMigrationRowCopy_keeps {s} {a0} : ∃ t, execMigrationRowCopy a0 s = .next t ∧ Keeps s t := by
  refine ⟨_, rfl, ?_⟩
  repeat' first
    | with_reducible assumption
    | with_reducible exact Keeps.refl _
    | intro _ _
    | intro _
    | with_reducible apply State.anvilStep_keeps
    | with_reducible apply State.migRow_keeps

theorem execBankMigrationDone_keeps {s} {a0 a1} : ∃ t, execBankMigrationDone a0 a1 s = .next t ∧ Keeps s t := by
  refine ⟨_, rfl, ?_⟩
  repeat' first
    | with_reducible assumption
    | with_reducible exact Keeps.refl _
    | intro _ _
    | intro _
    | with_reducible apply State.anvilStep_keeps
    | with_reducible apply State.migDone_keeps

theorem execCounterFlush_keeps {s} : ∃ t, execCounterFlush s = .next t ∧ Keeps s t := by
  refine ⟨_, rfl, ?_⟩
  repeat' first
    | with_reducible assumption
    | with_reducible exact Keeps.refl _
    | intro _ _
    | intro _
    | with_reducible apply State.viaHost_keeps
    | with_reducible apply State.counterFlush_keeps

theorem execCounterFlushDone_keeps {s} : ∃ t, execCounterFlushDone s = .next t ∧ Keeps s t := by
  refine ⟨_, rfl, ?_⟩
  repeat' first
    | with_reducible assumption
    | with_reducible exact Keeps.refl _
    | intro _ _
    | intro _
    | with_reducible apply State.counterFlushDone_keeps

theorem execCounterFlushStep_keeps {s} {a0 a1 a2} : ∃ t, execCounterFlushStep a0 a1 a2 s = .next t ∧ Keeps s t := by
  refine ⟨_, rfl, ?_⟩
  repeat' first
    | with_reducible assumption
    | with_reducible exact Keeps.refl _
    | intro _ _
    | intro _
    | with_reducible apply State.anvilStep_keeps
    | with_reducible apply State.flushStep_keeps

theorem execTelemetryExportStep_keeps {s} {a0 a1 a2} : ∃ t, execTelemetryExportStep a0 a1 a2 s = .next t ∧ Keeps s t := by
  refine ⟨_, rfl, ?_⟩
  repeat' first
    | with_reducible assumption
    | with_reducible exact Keeps.refl _
    | intro _ _
    | intro _
    | with_reducible apply State.anvilStep_keeps
    | with_reducible apply State.set_keeps
    | with_reducible apply State.exportStep_keeps

theorem execFsRdPtrWrite_keeps {s} {a0 a1} : ∃ t, execFsRdPtrWrite a0 a1 s = .next t ∧ Keeps s t := by
  refine ⟨_, rfl, ?_⟩
  repeat' first
    | with_reducible assumption
    | with_reducible exact Keeps.refl _
    | intro _ _
    | intro _
    | with_reducible apply State.viaHost_keeps
    | with_reducible apply State.fsReadPtr_keeps

theorem execFsBatchSend_keeps {s} {a0 a1} : ∃ t, execFsBatchSend a0 a1 s = .next t ∧ Keeps s t := by
  refine ⟨_, rfl, ?_⟩
  repeat' first
    | with_reducible assumption
    | with_reducible exact Keeps.refl _
    | intro _ _
    | intro _
    | with_reducible apply State.anvilStep_keeps
    | with_reducible apply State.batchSend_keeps

theorem execShaperDebtRepaid_keeps {s} {a0 a1} : ∃ t, execShaperDebtRepaid a0 a1 s = .next t ∧ Keeps s t := by
  refine ⟨_, rfl, ?_⟩
  repeat' first
    | with_reducible assumption
    | with_reducible exact Keeps.refl _
    | intro _ _
    | intro _
    | with_reducible apply State.debtRepaid_keeps

theorem execHoldListLink_keeps {s} {a0} : ∃ t, execHoldListLink a0 s = .next t ∧ Keeps s t := by
  refine ⟨_, rfl, ?_⟩
  repeat' first
    | with_reducible assumption
    | with_reducible exact Keeps.refl _
    | intro _ _
    | intro _
    | with_reducible apply State.holdServe_keeps

theorem execReplResume_keeps {s} {a0} : ∃ t, execReplResume a0 s = .next t ∧ Keeps s t := by
  refine ⟨_, rfl, ?_⟩
  repeat' first
    | with_reducible assumption
    | with_reducible exact Keeps.refl _
    | intro _ _
    | intro _
    | with_reducible apply State.replResume_keeps

theorem execResidueLink_keeps {s} {a0} : ∃ t, execResidueLink a0 s = .next t ∧ Keeps s t := by
  refine ⟨_, rfl, ?_⟩
  repeat' first
    | with_reducible assumption
    | with_reducible exact Keeps.refl _
    | intro _ _
    | intro _
    | with_reducible apply State.residueLink_keeps

theorem execPortDownHoldExpire_keeps {s} {a0} : ∃ t, execPortDownHoldExpire a0 s = .next t ∧ Keeps s t := by
  refine ⟨_, rfl, ?_⟩
  repeat' first
    | with_reducible assumption
    | with_reducible exact Keeps.refl _
    | intro _ _
    | intro _
    | with_reducible apply State.holdExpire_keeps

theorem execParse_keeps {s} {a0 a1} : ∃ t, execParse a0 a1 s = .next t ∧ Keeps s t := by
  refine ⟨_, rfl, ?_⟩
  repeat' first
    | with_reducible assumption
    | with_reducible exact Keeps.refl _
    | intro _ _
    | intro _
    | with_reducible apply State.parseSlot_keeps

theorem execEmInsert_keeps {s} {a0} : ∃ t, execEmInsert a0 s = .next t ∧ Keeps s t := by
  refine ⟨_, rfl, ?_⟩
  repeat' first
    | with_reducible assumption
    | with_reducible exact Keeps.refl _
    | intro _ _
    | intro _
    | with_reducible apply State.emCommand_keeps
    | with_reducible apply State.viaHost_keeps

theorem execEmReplace_keeps {s} {a0} : ∃ t, execEmReplace a0 s = .next t ∧ Keeps s t := by
  refine ⟨_, rfl, ?_⟩
  repeat' first
    | with_reducible assumption
    | with_reducible exact Keeps.refl _
    | intro _ _
    | intro _
    | with_reducible apply State.emCommand_keeps
    | with_reducible apply State.viaHost_keeps

theorem execEmDelete_keeps {s} {a0} : ∃ t, execEmDelete a0 s = .next t ∧ Keeps s t := by
  refine ⟨_, rfl, ?_⟩
  repeat' first
    | with_reducible assumption
    | with_reducible exact Keeps.refl _
    | intro _ _
    | intro _
    | with_reducible apply State.emCommand_keeps
    | with_reducible apply State.viaHost_keeps

theorem execEmSearch_keeps {s} {a0} : ∃ t, execEmSearch a0 s = .next t ∧ Keeps s t := by
  refine ⟨_, rfl, ?_⟩
  repeat' first
    | with_reducible assumption
    | with_reducible exact Keeps.refl _
    | intro _ _
    | intro _
    | with_reducible apply State.emCommand_keeps
    | with_reducible apply State.viaHost_keeps

theorem execLearnInsert_keeps {s} : ∃ t, execLearnInsert s = .next t ∧ Keeps s t := by
  refine ⟨_, rfl, ?_⟩
  repeat' first
    | with_reducible assumption
    | with_reducible exact Keeps.refl _
    | intro _ _
    | intro _
    | with_reducible apply State.learnServe_keeps

theorem execAgeVisit_keeps {s} {a0 a1} : ∃ t, execAgeVisit a0 a1 s = .next t ∧ Keeps s t := by
  refine ⟨_, rfl, ?_⟩
  repeat' first
    | with_reducible assumption
    | with_reducible exact Keeps.refl _
    | intro _ _
    | intro _
    | with_reducible apply State.anvilStep_keeps
    | with_reducible apply State.ageStep_keeps

theorem execEmClaspRequest_keeps {s} {a0} : ∃ t, execEmClaspRequest a0 s = .next t ∧ Keeps s t := by
  refine ⟨_, rfl, ?_⟩
  repeat' first
    | with_reducible assumption
    | with_reducible exact Keeps.refl _
    | intro _ _
    | intro _
    | with_reducible apply State.viaHost_keeps
    | with_reducible apply State.emClaspReq_keeps

theorem execEmClaspGrant_keeps {s} {a0} : ∃ t, execEmClaspGrant a0 s = .next t ∧ Keeps s t := by
  refine ⟨_, rfl, ?_⟩
  repeat' first
    | with_reducible assumption
    | with_reducible exact Keeps.refl _
    | intro _ _
    | intro _
    | with_reducible apply State.emClaspGrant_keeps

theorem execEmClaspRelease_keeps {s} {a0} : ∃ t, execEmClaspRelease a0 s = .next t ∧ Keeps s t := by
  refine ⟨_, rfl, ?_⟩
  repeat' first
    | with_reducible assumption
    | with_reducible exact Keeps.refl _
    | intro _ _
    | intro _
    | with_reducible apply State.emClaspFree_keeps
    | with_reducible apply State.viaHost_keeps

theorem execAseWriteAt_keeps {s} {a0} : ∃ t, execAseWriteAt a0 s = .next t ∧ Keeps s t := by
  refine ⟨_, rfl, ?_⟩
  repeat' first
    | with_reducible assumption
    | with_reducible exact Keeps.refl _
    | intro _ _
    | intro _
    | with_reducible apply State.viaHost_keeps
    | with_reducible apply State.aseWriteAt_keeps

theorem execAseInsertAt_keeps {s} {a0} : ∃ t, execAseInsertAt a0 s = .next t ∧ Keeps s t := by
  refine ⟨_, rfl, ?_⟩
  repeat' first
    | with_reducible assumption
    | with_reducible exact Keeps.refl _
    | intro _ _
    | intro _
    | with_reducible apply State.viaHost_keeps
    | with_reducible apply State.aseInsertAt_keeps

theorem execAseDeleteAt_keeps {s} {a0} : ∃ t, execAseDeleteAt a0 s = .next t ∧ Keeps s t := by
  refine ⟨_, rfl, ?_⟩
  repeat' first
    | with_reducible assumption
    | with_reducible exact Keeps.refl _
    | intro _ _
    | intro _
    | with_reducible apply State.viaHost_keeps
    | with_reducible apply State.aseDeleteAt_keeps

theorem execAseSearchCmd_keeps {s} {a0 a1 a2} : ∃ t, execAseSearchCmd a0 a1 a2 s = .next t ∧ Keeps s t := by
  refine ⟨_, rfl, ?_⟩
  repeat' first
    | with_reducible assumption
    | with_reducible exact Keeps.refl _
    | intro _ _
    | intro _
    | with_reducible apply State.viaHost_keeps
    | with_reducible apply State.aseCmdSearch_keeps

theorem execAseStep_keeps {s} {a0 a1 a2} : ∃ t, execAseStep a0 a1 a2 s = .next t ∧ Keeps s t := by
  refine ⟨_, rfl, ?_⟩
  repeat' first
    | with_reducible assumption
    | with_reducible exact Keeps.refl _
    | intro _ _
    | intro _
    | with_reducible apply State.viaHost_keeps
    | with_reducible apply State.aseCmdStep_keeps

theorem execAseReadAt_keeps {s} {a0 a1} : ∃ t, execAseReadAt a0 a1 s = .next t ∧ Keeps s t := by
  refine ⟨_, rfl, ?_⟩
  repeat' first
    | with_reducible assumption
    | with_reducible exact Keeps.refl _
    | intro _ _
    | intro _
    | with_reducible apply State.aseReadAt_keeps
    | with_reducible apply State.viaHost_keeps

theorem execAseClaspRequest_keeps {s} {a0} : ∃ t, execAseClaspRequest a0 s = .next t ∧ Keeps s t := by
  refine ⟨_, rfl, ?_⟩
  repeat' first
    | with_reducible assumption
    | with_reducible exact Keeps.refl _
    | intro _ _
    | intro _
    | with_reducible apply State.viaHost_keeps
    | with_reducible apply State.aseClaspReq_keeps

theorem execAseClaspGrant_keeps {s} {a0} : ∃ t, execAseClaspGrant a0 s = .next t ∧ Keeps s t := by
  refine ⟨_, rfl, ?_⟩
  repeat' first
    | with_reducible assumption
    | with_reducible exact Keeps.refl _
    | intro _ _
    | intro _
    | with_reducible apply State.aseClaspGrant_keeps

theorem execAseClaspRelease_keeps {s} {a0} : ∃ t, execAseClaspRelease a0 s = .next t ∧ Keeps s t := by
  refine ⟨_, rfl, ?_⟩
  repeat' first
    | with_reducible assumption
    | with_reducible exact Keeps.refl _
    | intro _ _
    | intro _
    | with_reducible apply State.viaHost_keeps
    | with_reducible apply State.aseClaspFree_keeps

theorem execPlanishScrubStep_keeps {s} {a0 a1 a2 a3} : ∃ t, execPlanishScrubStep a0 a1 a2 a3 s = .next t ∧ Keeps s t := by
  refine ⟨_, rfl, ?_⟩
  repeat' first
    | with_reducible assumption
    | with_reducible exact Keeps.refl _
    | intro _ _
    | intro _
    | with_reducible apply State.anvilStep_keeps
    | with_reducible apply State.scrubPass_keeps
    | with_reducible apply State.when_keeps
    | with_reducible apply State.scrub_keeps

theorem execStageLookupIssue_keeps {s} {a0 a1 a2 a3 a4 a5} : ∃ t, execStageLookupIssue a0 a1 a2 a3 a4 a5 s = .next t ∧ Keeps s t := by
  refine ⟨_, rfl, ?_⟩
  repeat' first
    | with_reducible assumption
    | with_reducible exact Keeps.refl _
    | intro _ _
    | intro _
    | with_reducible apply State.stageIssue_keeps

theorem execStageActionRun_keeps {s} {a0 a1 a2 a3} : ∃ t, execStageActionRun a0 a1 a2 a3 s = .next t ∧ Keeps s t := by
  refine ⟨_, rfl, ?_⟩
  repeat' first
    | with_reducible assumption
    | with_reducible exact Keeps.refl _
    | intro _ _
    | intro _
    | with_reducible apply State.stageAct_keeps

theorem execTxFfeWrite_keeps {s} {a0 a1} : ∃ t, execTxFfeWrite a0 a1 s = .next t ∧ Keeps s t := by
  refine ⟨_, rfl, ?_⟩
  repeat' first
    | with_reducible assumption
    | with_reducible exact Keeps.refl _
    | intro _ _
    | intro _
    | with_reducible apply State.ffeWrite_keeps
    | with_reducible apply State.viaHost_keeps

theorem execLtCoeffRequest_keeps {s} {a0 a1} : ∃ t, execLtCoeffRequest a0 a1 s = .next t ∧ Keeps s t := by
  refine ⟨_, rfl, ?_⟩
  repeat' first
    | with_reducible assumption
    | with_reducible exact Keeps.refl _
    | intro _ _
    | intro _
    | with_reducible apply State.ltRequest_keeps

theorem execAdaptRestart_keeps {s} {a0} : ∃ t, execAdaptRestart a0 s = .next t ∧ Keeps s t := by
  refine ⟨_, rfl, ?_⟩
  repeat' first
    | with_reducible assumption
    | with_reducible exact Keeps.refl _
    | intro _ _
    | intro _
    | with_reducible apply State.viaHost_keeps
    | with_reducible apply State.adaptRestart_keeps

theorem execCalibrationStep_keeps {s} {a0 a1 a2 a3} : ∃ t, execCalibrationStep a0 a1 a2 a3 s = .next t ∧ Keeps s t := by
  refine ⟨_, rfl, ?_⟩
  repeat' first
    | with_reducible assumption
    | with_reducible exact Keeps.refl _
    | intro _ _
    | intro _
    | with_reducible apply State.anvilStep_keeps
    | with_reducible apply State.calibrate_keeps

theorem execPauseFrameRx_keeps {s} {a0 a1 a2 a3 a4 a5 a6 a7 a8 a9 a10} : ∃ t, execPauseFrameRx a0 a1 a2 a3 a4 a5 a6 a7 a8 a9 a10 s = .next t ∧ Keeps s t := by
  refine ⟨_, rfl, ?_⟩
  repeat' first
    | with_reducible assumption
    | with_reducible exact Keeps.refl _
    | intro _ _
    | intro _
    | with_reducible apply State.bwCount_keeps
    | with_reducible apply State.pauseRx_keeps
    | with_reducible apply State.when_keeps

theorem execPauseTimerExpire_keeps {s} {a0 a1} : ∃ t, execPauseTimerExpire a0 a1 s = .next t ∧ Keeps s t := by
  refine ⟨_, rfl, ?_⟩
  repeat' first
    | with_reducible assumption
    | with_reducible exact Keeps.refl _
    | intro _ _
    | intro _
    | with_reducible apply State.pauseExpire_keeps

theorem execPauseTx_keeps {s} {a0} : ∃ t, execPauseTx a0 s = .next t ∧ Keeps s t := by
  refine ⟨_, rfl, ?_⟩
  repeat' first
    | with_reducible assumption
    | with_reducible exact Keeps.refl _
    | intro _ _
    | intro _
    | with_reducible apply State.pauseTx_keeps

theorem execPauseRefresh_keeps {s} {a0 a1} : ∃ t, execPauseRefresh a0 a1 s = .next t ∧ Keeps s t := by
  refine ⟨_, rfl, ?_⟩
  repeat' first
    | with_reducible assumption
    | with_reducible exact Keeps.refl _
    | intro _ _
    | intro _
    | with_reducible apply State.pauseRefresh_keeps

theorem execStormEnter_keeps {s} {a0 a1} : ∃ t, execStormEnter a0 a1 s = .next t ∧ Keeps s t := by
  refine ⟨_, rfl, ?_⟩
  repeat' first
    | with_reducible assumption
    | with_reducible exact Keeps.refl _
    | intro _ _
    | intro _
    | with_reducible apply State.stormEnter_keeps

theorem execStormExit_keeps {s} {a0 a1} : ∃ t, execStormExit a0 a1 s = .next t ∧ Keeps s t := by
  refine ⟨_, rfl, ?_⟩
  repeat' first
    | with_reducible assumption
    | with_reducible exact Keeps.refl _
    | intro _ _
    | intro _
    | with_reducible apply State.stormExit_keeps

theorem execAnComplete_keeps {s} {a0 a1 a2} : ∃ t, execAnComplete a0 a1 a2 s = .next t ∧ Keeps s t := by
  refine ⟨_, rfl, ?_⟩
  repeat' first
    | with_reducible assumption
    | with_reducible exact Keeps.refl _
    | intro _ _
    | intro _
    | with_reducible apply State.anComplete_keeps

theorem execAnFail_keeps {s} {a0} : ∃ t, execAnFail a0 s = .next t ∧ Keeps s t := by
  refine ⟨_, rfl, ?_⟩
  repeat' first
    | with_reducible assumption
    | with_reducible exact Keeps.refl _
    | intro _ _
    | intro _
    | with_reducible apply State.anFail_keeps

theorem execTrainingComplete_keeps {s} {a0} : ∃ t, execTrainingComplete a0 s = .next t ∧ Keeps s t := by
  refine ⟨_, rfl, ?_⟩
  repeat' first
    | with_reducible assumption
    | with_reducible exact Keeps.refl _
    | intro _ _
    | intro _
    | with_reducible apply State.trainComplete_keeps

theorem execTrainFail_keeps {s} {a0} : ∃ t, execTrainFail a0 s = .next t ∧ Keeps s t := by
  refine ⟨_, rfl, ?_⟩
  repeat' first
    | with_reducible assumption
    | with_reducible exact Keeps.refl _
    | intro _ _
    | intro _
    | with_reducible apply State.trainFail_keeps

theorem execLinkUp_keeps {s} {a0} : ∃ t, execLinkUp a0 s = .next t ∧ Keeps s t := by
  refine ⟨_, rfl, ?_⟩
  repeat' first
    | with_reducible assumption
    | with_reducible exact Keeps.refl _
    | intro _ _
    | intro _
    | with_reducible apply State.linkUpNow_keeps

theorem execAlignTimeout_keeps {s} {a0} : ∃ t, execAlignTimeout a0 s = .next t ∧ Keeps s t := by
  refine ⟨_, rfl, ?_⟩
  repeat' first
    | with_reducible assumption
    | with_reducible exact Keeps.refl _
    | intro _ _
    | intro _
    | with_reducible apply State.alignTimeout_keeps

theorem execLinkDown_keeps {s} {a0} : ∃ t, execLinkDown a0 s = .next t ∧ Keeps s t := by
  refine ⟨_, rfl, ?_⟩
  repeat' first
    | with_reducible assumption
    | with_reducible exact Keeps.refl _
    | intro _ _
    | intro _
    | with_reducible apply State.linkDownNow_keeps

theorem execPortEnable_keeps {s} {a0} : ∃ t, execPortEnable a0 s = .next t ∧ Keeps s t := by
  refine ⟨_, rfl, ?_⟩
  repeat' first
    | with_reducible assumption
    | with_reducible exact Keeps.refl _
    | intro _ _
    | intro _
    | with_reducible apply State.viaHost_keeps
    | with_reducible apply State.adminUp_keeps

theorem execPortDisable_keeps {s} {a0} : ∃ t, execPortDisable a0 s = .next t ∧ Keeps s t := by
  refine ⟨_, rfl, ?_⟩
  repeat' first
    | with_reducible assumption
    | with_reducible exact Keeps.refl _
    | intro _ _
    | intro _
    | with_reducible apply State.viaHost_keeps
    | with_reducible apply State.adminUp_keeps

theorem execTestEnter_keeps {s} {a0} : ∃ t, execTestEnter a0 s = .next t ∧ Keeps s t := by
  refine ⟨_, rfl, ?_⟩
  repeat' first
    | with_reducible assumption
    | with_reducible exact Keeps.refl _
    | intro _ _
    | intro _
    | with_reducible apply State.viaHost_keeps
    | with_reducible apply State.testMode_keeps

theorem execTestExit_keeps {s} {a0} : ∃ t, execTestExit a0 s = .next t ∧ Keeps s t := by
  refine ⟨_, rfl, ?_⟩
  repeat' first
    | with_reducible assumption
    | with_reducible exact Keeps.refl _
    | intro _ _
    | intro _
    | with_reducible apply State.viaHost_keeps
    | with_reducible apply State.testMode_keeps

theorem execPortRestart_keeps {s} {a0} : ∃ t, execPortRestart a0 s = .next t ∧ Keeps s t := by
  refine ⟨_, rfl, ?_⟩
  repeat' first
    | with_reducible assumption
    | with_reducible exact Keeps.refl _
    | intro _ _
    | intro _
    | with_reducible apply State.viaHost_keeps
    | with_reducible apply State.portRestart_keeps

theorem execFecClear_keeps {s} {a0} : ∃ t, execFecClear a0 s = .next t ∧ Keeps s t := by
  refine ⟨_, rfl, ?_⟩
  repeat' first
    | with_reducible assumption
    | with_reducible exact Keeps.refl _
    | intro _ _
    | intro _
    | with_reducible apply State.viaHost_keeps
    | with_reducible apply State.fecClear_keeps
    | with_reducible apply State.when_keeps

theorem execLinkOkChange_keeps {s} {a0 a1 a2 a3 a4 a5 a6} : ∃ t, execLinkOkChange a0 a1 a2 a3 a4 a5 a6 s = .next t ∧ Keeps s t := by
  refine ⟨_, rfl, ?_⟩
  repeat' first
    | with_reducible assumption
    | with_reducible exact Keeps.refl _
    | intro _ _
    | intro _
    | with_reducible apply State.linkChange_keeps

theorem execLanesReady_keeps {s} : ∃ t, execLanesReady s = .next t ∧ Keeps s t := by
  refine ⟨_, rfl, ?_⟩
  repeat' first
    | with_reducible assumption
    | with_reducible exact Keeps.refl _
    | intro _ _
    | intro _
    | with_reducible apply State.lanesReady_keeps

theorem execChkLock_keeps {s} {a0 a1} : ∃ t, execChkLock a0 a1 s = .next t ∧ Keeps s t := by
  refine ⟨_, rfl, ?_⟩
  repeat' first
    | with_reducible assumption
    | with_reducible exact Keeps.refl _
    | intro _ _
    | intro _
    | with_reducible apply State.chkFeed_keeps

theorem execLockLost_keeps {s} {a0 a1} : ∃ t, execLockLost a0 a1 s = .next t ∧ Keeps s t := by
  refine ⟨_, rfl, ?_⟩
  repeat' first
    | with_reducible assumption
    | with_reducible exact Keeps.refl _
    | intro _ _
    | intro _
    | with_reducible apply State.chkFeed_keeps

theorem execChkClear_keeps {s} {a0} : ∃ t, execChkClear a0 s = .next t ∧ Keeps s t := by
  refine ⟨_, rfl, ?_⟩
  repeat' first
    | with_reducible assumption
    | with_reducible exact Keeps.refl _
    | intro _ _
    | intro _
    | with_reducible apply State.viaHost_keeps
    | with_reducible apply State.chkClear_keeps
    | with_reducible apply State.when_keeps

theorem execInject_keeps {s} {a0} : ∃ t, execInject a0 s = .next t ∧ Keeps s t := by
  refine ⟨_, rfl, ?_⟩
  repeat' first
    | with_reducible assumption
    | with_reducible exact Keeps.refl _
    | intro _ _
    | intro _
    | with_reducible apply State.viaHost_keeps
    | with_reducible apply State.genInject_keeps

theorem execCdrLockChange_keeps {s} {a0 a1 a2} : ∃ t, execCdrLockChange a0 a1 a2 s = .next t ∧ Keeps s t := by
  refine ⟨_, rfl, ?_⟩
  repeat' first
    | with_reducible assumption
    | with_reducible exact Keeps.refl _
    | intro _ _
    | intro _
    | with_reducible apply State.cdrLock_keeps

theorem execRxFrame_keeps {s} {a0 a1 a2} : ∃ t, execRxFrame a0 a1 a2 s = .next t ∧ Keeps s t := by
  refine ⟨_, rfl, ?_⟩
  repeat' first
    | with_reducible assumption
    | with_reducible exact Keeps.refl _
    | intro _ _
    | intro _
    | with_reducible apply State.rxFrame_keeps

theorem execConfigChange_keeps {s} {a0} : ∃ t, execConfigChange a0 s = .next t ∧ Keeps s t := by
  refine ⟨_, rfl, ?_⟩
  repeat' first
    | with_reducible assumption
    | with_reducible exact Keeps.refl _
    | intro _ _
    | intro _
    | with_reducible apply State.viaHost_keeps
    | with_reducible apply State.configChange_keeps

theorem execGateDisable_keeps {s} {a0} : ∃ t, execGateDisable a0 s = .next t ∧ Keeps s t := by
  refine ⟨_, rfl, ?_⟩
  repeat' first
    | with_reducible assumption
    | with_reducible exact Keeps.refl _
    | intro _ _
    | intro _
    | with_reducible apply State.viaHost_keeps
    | with_reducible apply State.gateDisable_keeps

theorem execGateConfigStart_keeps {s} {a0} : ∃ t, execGateConfigStart a0 s = .next t ∧ Keeps s t := by
  refine ⟨_, rfl, ?_⟩
  repeat' first
    | with_reducible assumption
    | with_reducible exact Keeps.refl _
    | intro _ _
    | intro _
    | with_reducible apply State.gateStart_keeps

theorem execGateEntryChange_keeps {s} {a0} : ∃ t, execGateEntryChange a0 s = .next t ∧ Keeps s t := by
  refine ⟨_, rfl, ?_⟩
  repeat' first
    | with_reducible assumption
    | with_reducible exact Keeps.refl _
    | intro _ _
    | intro _
    | with_reducible apply State.gateEntry_keeps

theorem execSchedSelect_keeps {s} {a0 a1 a2} : ∃ t, execSchedSelect a0 a1 a2 s = .next t ∧ Keeps s t := by
  refine ⟨_, rfl, ?_⟩
  repeat' first
    | with_reducible assumption
    | with_reducible exact Keeps.refl _
    | intro _ _
    | intro _
    | with_reducible apply State.fault_keeps
    | with_reducible apply State.schedSelect_keeps
    | with_reducible apply State.when_keeps
    | split

theorem execLaunchTimeReached_keeps {s} {a0} : ∃ t, execLaunchTimeReached a0 s = .next t ∧ Keeps s t := by
  refine ⟨_, rfl, ?_⟩
  repeat' first
    | with_reducible assumption
    | with_reducible exact Keeps.refl _
    | intro _ _
    | intro _
    | with_reducible apply State.launchReached_keeps

theorem execTxStart_keeps {s} {a0 a1} : ∃ t, execTxStart a0 a1 s = .next t ∧ Keeps s t := by
  refine ⟨_, rfl, ?_⟩
  repeat' first
    | with_reducible assumption
    | with_reducible exact Keeps.refl _
    | intro _ _
    | intro _
    | with_reducible apply State.txStart_keeps

theorem execTxUnderrun_keeps {s} {a0} : ∃ t, execTxUnderrun a0 s = .next t ∧ Keeps s t := by
  refine ⟨_, rfl, ?_⟩
  repeat' first
    | with_reducible assumption
    | with_reducible exact Keeps.refl _
    | intro _ _
    | intro _
    | with_reducible apply State.txUnderrun_keeps

theorem execTxComplete_keeps {s} {a0 a1} : ∃ t, execTxComplete a0 a1 s = .next t ∧ Keeps s t := by
  refine ⟨_, rfl, ?_⟩
  repeat' first
    | with_reducible assumption
    | with_reducible exact Keeps.refl _
    | intro _ _
    | intro _
    | with_reducible apply State.txComplete_keeps

theorem execRxRingWrite_keeps {s} {a0 a1} : ∃ t, execRxRingWrite a0 a1 s = .next t ∧ Keeps s t := by
  refine ⟨_, rfl, ?_⟩
  repeat' first
    | with_reducible assumption
    | with_reducible exact Keeps.refl _
    | intro _ _
    | intro _
    | with_reducible apply State.rxRingWrite_keeps

theorem execRxRingStall_keeps {s} {a0} : ∃ t, execRxRingStall a0 s = .next t ∧ Keeps s t := by
  refine ⟨_, rfl, ?_⟩
  repeat' first
    | with_reducible assumption
    | with_reducible exact Keeps.refl _
    | intro _ _
    | intro _
    | with_reducible apply State.rxStall_keeps

theorem execTxRingTake_keeps {s} {a0} : ∃ t, execTxRingTake a0 s = .next t ∧ Keeps s t := by
  refine ⟨_, rfl, ?_⟩
  repeat' first
    | with_reducible assumption
    | with_reducible exact Keeps.refl _
    | intro _ _
    | intro _
    | with_reducible apply State.txTake_keeps

theorem execRingPoll_keeps {s} {a0} : ∃ t, execRingPoll a0 s = .next t ∧ Keeps s t := by
  refine ⟨_, rfl, ?_⟩
  repeat' first
    | with_reducible assumption
    | with_reducible exact Keeps.refl _
    | intro _ _
    | intro _
    | with_reducible apply State.ringExamine_keeps
    | with_reducible apply State.when_keeps

theorem execBezelWrite_keeps {s} {a0 a1 a2} : ∃ t, execBezelWrite a0 a1 a2 s = .next t ∧ Keeps s t := by
  refine ⟨_, rfl, ?_⟩
  repeat' first
    | with_reducible assumption
    | with_reducible exact Keeps.refl _
    | intro _ _
    | intro _
    | with_reducible apply State.bezelWrite_keeps

theorem execPoisonedWrite_keeps {s} {a0} : ∃ t, execPoisonedWrite a0 s = .next t ∧ Keeps s t := by
  refine ⟨_, rfl, ?_⟩
  repeat' first
    | with_reducible assumption
    | with_reducible exact Keeps.refl _
    | intro _ _
    | intro _
    | with_reducible apply State.poisoned_keeps

theorem execDmaGo_keeps {s} {a0} : ∃ t, execDmaGo a0 s = .next t ∧ Keeps s t := by
  refine ⟨_, rfl, ?_⟩
  repeat' first
    | with_reducible assumption
    | with_reducible exact Keeps.refl _
    | intro _ _
    | intro _
    | with_reducible apply State.viaHost_keeps
    | with_reducible apply State.dmaGo_keeps

theorem execDmaAbort_keeps {s} {a0} : ∃ t, execDmaAbort a0 s = .next t ∧ Keeps s t := by
  refine ⟨_, rfl, ?_⟩
  repeat' first
    | with_reducible assumption
    | with_reducible exact Keeps.refl _
    | intro _ _
    | intro _
    | with_reducible apply State.viaHost_keeps
    | with_reducible apply State.dmaAbort_keeps

theorem execClearHalt_keeps {s} {a0} : ∃ t, execClearHalt a0 s = .next t ∧ Keeps s t := by
  refine ⟨_, rfl, ?_⟩
  repeat' first
    | with_reducible assumption
    | with_reducible exact Keeps.refl _
    | intro _ _
    | intro _
    | with_reducible apply State.viaHost_keeps
    | with_reducible apply State.dmaClearHalt_keeps

theorem execShadowArm_keeps {s} {a0} : ∃ t, execShadowArm a0 s = .next t ∧ Keeps s t := by
  refine ⟨_, rfl, ?_⟩
  repeat' first
    | with_reducible assumption
    | with_reducible exact Keeps.refl _
    | intro _ _
    | intro _
    | with_reducible apply State.shadowArm_keeps
    | with_reducible apply State.viaHost_keeps

theorem execShadowCancel_keeps {s} {a0} : ∃ t, execShadowCancel a0 s = .next t ∧ Keeps s t := by
  refine ⟨_, rfl, ?_⟩
  repeat' first
    | with_reducible assumption
    | with_reducible exact Keeps.refl _
    | intro _ _
    | intro _
    | with_reducible apply State.viaHost_keeps
    | with_reducible apply State.setB_keeps

theorem execShadowFieldWrite_keeps {s} {a0 a1 a2} : ∃ t, execShadowFieldWrite a0 a1 a2 s = .next t ∧ Keeps s t := by
  refine ⟨_, rfl, ?_⟩
  repeat' first
    | with_reducible assumption
    | with_reducible exact Keeps.refl _
    | intro _ _
    | intro _
    | with_reducible apply State.viaHost_keeps
    | with_reducible apply shadowWord_keeps

theorem execDmaBurst_keeps {s} {a0 a1} : ∃ t, execDmaBurst a0 a1 s = .next t ∧ Keeps s t := by
  refine ⟨_, rfl, ?_⟩
  repeat' first
    | with_reducible assumption
    | with_reducible exact Keeps.refl _
    | intro _ _
    | intro _
    | with_reducible apply State.dmaBurst_keeps

theorem execDmaReadbackDone_keeps {s} {a0 a1} : ∃ t, execDmaReadbackDone a0 a1 s = .next t ∧ Keeps s t := by
  refine ⟨_, rfl, ?_⟩
  repeat' first
    | with_reducible assumption
    | with_reducible exact Keeps.refl _
    | intro _ _
    | intro _
    | with_reducible apply State.dmaReadback_keeps

theorem execLoadBank_keeps {s} {a0} : ∃ t, execLoadBank a0 s = .next t ∧ Keeps s t := by
  refine ⟨_, rfl, ?_⟩
  repeat' first
    | with_reducible assumption
    | with_reducible exact Keeps.refl _
    | intro _ _
    | intro _
    | with_reducible apply State.viaHost_keeps
    | with_reducible apply State.imgCommand_keeps

theorem execLoadHost_keeps {s} : ∃ t, execLoadHost s = .next t ∧ Keeps s t := by
  refine ⟨_, rfl, ?_⟩
  repeat' first
    | with_reducible assumption
    | with_reducible exact Keeps.refl _
    | intro _ _
    | intro _
    | with_reducible apply State.viaHost_keeps
    | with_reducible apply State.imgCommand_keeps

theorem execWriteBank_keeps {s} {a0 a1} : ∃ t, execWriteBank a0 a1 s = .next t ∧ Keeps s t := by
  refine ⟨_, rfl, ?_⟩
  repeat' first
    | with_reducible assumption
    | with_reducible exact Keeps.refl _
    | intro _ _
    | intro _
    | with_reducible apply State.viaHost_keeps
    | with_reducible apply State.imgCommand_keeps

theorem execVerifyBank_keeps {s} {a0} : ∃ t, execVerifyBank a0 s = .next t ∧ Keeps s t := by
  refine ⟨_, rfl, ?_⟩
  repeat' first
    | with_reducible assumption
    | with_reducible exact Keeps.refl _
    | intro _ _
    | intro _
    | with_reducible apply State.viaHost_keeps
    | with_reducible apply State.imgCommand_keeps

theorem execSwap_keeps {s} : ∃ t, execSwap s = .next t ∧ Keeps s t := by
  refine ⟨_, rfl, ?_⟩
  repeat' first
    | with_reducible assumption
    | with_reducible exact Keeps.refl _
    | intro _ _
    | intro _
    | with_reducible apply State.viaHost_keeps
    | with_reducible apply State.imgCommand_keeps

theorem execEpochRetire_keeps {s} : ∃ t, execEpochRetire s = .next t ∧ Keeps s t := by
  refine ⟨_, rfl, ?_⟩
  repeat' first
    | with_reducible assumption
    | with_reducible exact Keeps.refl _
    | intro _ _
    | intro _
    | with_reducible apply State.epochRetired_keeps
    | with_reducible apply State.when_keeps

theorem execRetireOverdue_keeps {s} : ∃ t, execRetireOverdue s = .next t ∧ Keeps s t := by
  refine ⟨_, rfl, ?_⟩
  repeat' first
    | with_reducible assumption
    | with_reducible exact Keeps.refl _
    | intro _ _
    | intro _
    | with_reducible apply State.retireOverdue_keeps

theorem execRetireForce_keeps {s} : ∃ t, execRetireForce s = .next t ∧ Keeps s t := by
  refine ⟨_, rfl, ?_⟩
  repeat' first
    | with_reducible assumption
    | with_reducible exact Keeps.refl _
    | intro _ _
    | intro _
    | with_reducible apply State.viaHost_keeps
    | with_reducible apply State.retireForce_keeps

theorem execImgVerifyComplete_keeps {s} {a0 a1} : ∃ t, execImgVerifyComplete a0 a1 s = .next t ∧ Keeps s t := by
  refine ⟨_, rfl, ?_⟩
  repeat' first
    | with_reducible assumption
    | with_reducible exact Keeps.refl _
    | intro _ _
    | intro _
    | with_reducible apply State.imgVerified_keeps

theorem execImgFetchError_keeps {s} {a0} : ∃ t, execImgFetchError a0 s = .next t ∧ Keeps s t := by
  refine ⟨_, rfl, ?_⟩
  repeat' first
    | with_reducible assumption
    | with_reducible exact Keeps.refl _
    | intro _ _
    | intro _
    | with_reducible apply State.take_keeps
    | with_reducible apply State.imgVerified_keeps
    | with_reducible apply State.when_keeps

theorem execImgAbort_keeps {s} {a0} : ∃ t, execImgAbort a0 s = .next t ∧ Keeps s t := by
  refine ⟨_, rfl, ?_⟩
  repeat' first
    | with_reducible assumption
    | with_reducible exact Keeps.refl _
    | intro _ _
    | intro _
    | with_reducible apply State.imgAbort_keeps
    | with_reducible apply State.viaHost_keeps

theorem execBankCommit_keeps {s} {a0} : ∃ t, execBankCommit a0 s = .next t ∧ Keeps s t := by
  refine ⟨_, rfl, ?_⟩
  repeat' first
    | with_reducible assumption
    | with_reducible exact Keeps.refl _
    | intro _ _
    | intro _
    | with_reducible apply State.bankCommit_keeps

theorem execTriggerArm_keeps {s} {a0} : ∃ t, execTriggerArm a0 s = .next t ∧ Keeps s t := by
  refine ⟨_, rfl, ?_⟩
  repeat' first
    | with_reducible assumption
    | with_reducible exact Keeps.refl _
    | intro _ _
    | intro _
    | with_reducible apply State.viaHost_keeps
    | with_reducible apply State.trigArm_keeps

theorem execTriggerFire_keeps {s} {a0} : ∃ t, execTriggerFire a0 s = .next t ∧ Keeps s t := by
  refine ⟨_, rfl, ?_⟩
  repeat' first
    | with_reducible assumption
    | with_reducible exact Keeps.refl _
    | intro _ _
    | intro _
    | with_reducible apply State.trigDue_keeps

theorem execPpsOutPulse_keeps {s} : ∃ t, execPpsOutPulse s = .next t ∧ Keeps s t := by
  refine ⟨_, rfl, ?_⟩
  repeat' first
    | with_reducible assumption
    | with_reducible exact Keeps.refl _
    | intro _ _
    | intro _
    | with_reducible apply State.ppsOut_keeps

theorem execPpsOutPulseEnd_keeps {s} : ∃ t, execPpsOutPulseEnd s = .next t ∧ Keeps s t := by
  refine ⟨_, rfl, ?_⟩
  repeat' first
    | with_reducible assumption
    | with_reducible exact Keeps.refl _
    | intro _ _
    | intro _
    | with_reducible apply State.when_keeps
    | split
    | dsimp only
    | with_reducible apply Keeps.upd

theorem execTimeSet_keeps {s} : ∃ t, execTimeSet s = .next t ∧ Keeps s t := by
  refine ⟨_, rfl, ?_⟩
  repeat' first
    | with_reducible assumption
    | with_reducible exact Keeps.refl _
    | intro _ _
    | intro _
    | with_reducible apply State.timeSet_keeps
    | with_reducible apply State.viaHost_keeps

theorem execTimeStep_keeps {s} : ∃ t, execTimeStep s = .next t ∧ Keeps s t := by
  refine ⟨_, rfl, ?_⟩
  repeat' first
    | with_reducible assumption
    | with_reducible exact Keeps.refl _
    | intro _ _
    | intro _
    | with_reducible apply State.viaHost_keeps
    | with_reducible apply State.timeStep_keeps

theorem execTimeSnapshot_keeps {s} : ∃ t, execTimeSnapshot s = .next t ∧ Keeps s t := by
  refine ⟨_, rfl, ?_⟩
  repeat' first
    | with_reducible assumption
    | with_reducible exact Keeps.refl _
    | intro _ _
    | intro _
    | with_reducible apply State.timeSnapshot_keeps
    | with_reducible apply State.viaHost_keeps

theorem execTimeRateCommit_keeps {s} {a0} : ∃ t, execTimeRateCommit a0 s = .next t ∧ Keeps s t := by
  refine ⟨_, rfl, ?_⟩
  repeat' first
    | with_reducible assumption
    | with_reducible exact Keeps.refl _
    | intro _ _
    | intro _
    | with_reducible apply State.viaHost_keeps
    | with_reducible apply State.rateCommit_keeps

theorem execHoldover_keeps {s} : ∃ t, execHoldover s = .next t ∧ Keeps s t := by
  refine ⟨_, rfl, ?_⟩
  repeat' first
    | with_reducible assumption
    | with_reducible exact Keeps.refl _
    | intro _ _
    | intro _
    | with_reducible apply State.holdover_keeps

theorem execRefclkLost_keeps {s} : ∃ t, execRefclkLost s = .next t ∧ Keeps s t := by
  refine ⟨_, rfl, ?_⟩
  repeat' first
    | with_reducible assumption
    | with_reducible exact Keeps.refl _
    | intro _ _
    | intro _
    | with_reducible apply State.refclkLost_keeps

theorem execRefclkRestored_keeps {s} : ∃ t, execRefclkRestored s = .next t ∧ Keeps s t := by
  refine ⟨_, rfl, ?_⟩
  repeat' first
    | with_reducible assumption
    | with_reducible exact Keeps.refl _
    | intro _ _
    | intro _
    | with_reducible apply State.setB_keeps

theorem execPinCapture_keeps {s} {a0 a1} : ∃ t, execPinCapture a0 a1 s = .next t ∧ Keeps s t := by
  refine ⟨_, rfl, ?_⟩
  repeat' first
    | with_reducible assumption
    | with_reducible exact Keeps.refl _
    | intro _ _
    | intro _
    | with_reducible apply State.pinCapture_keeps

theorem execPpsAbsent_keeps {s} : ∃ t, execPpsAbsent s = .next t ∧ Keeps s t := by
  refine ⟨_, rfl, ?_⟩
  repeat' first
    | with_reducible assumption
    | with_reducible exact Keeps.refl _
    | intro _ _
    | intro _
    | with_reducible apply State.setB_keeps
    | with_reducible apply State.fault_keeps
    | with_reducible apply State.when_keeps

theorem execChipletRefclkLost_keeps {s} {a0} : ∃ t, execChipletRefclkLost a0 s = .next t ∧ Keeps s t := by
  refine ⟨_, rfl, ?_⟩
  repeat' first
    | with_reducible assumption
    | with_reducible exact Keeps.refl _
    | intro _ _
    | intro _
    | with_reducible apply Keeps.upTo
    | with_reducible apply State.synceUpdate_keeps
    | with_reducible apply State.when_keeps
    | with_reducible apply State.chipletLost_keeps

theorem execFullLoadReady_keeps {s} : ∃ t, execFullLoadReady s = .next t ∧ Keeps s t := by
  refine ⟨_, rfl, ?_⟩
  repeat' first
    | with_reducible assumption
    | with_reducible exact Keeps.refl _
    | intro _ _
    | intro _
    | with_reducible apply Keeps.choose
    | with_reducible apply State.loadReady_keeps
    | split

theorem execModuleReset_keeps {s} {a0} : ∃ t, execModuleReset a0 s = .next t ∧ Keeps s t := by
  refine ⟨_, rfl, ?_⟩
  repeat' first
    | with_reducible assumption
    | with_reducible exact Keeps.refl _
    | intro _ _
    | intro _
    | with_reducible apply State.viaHost_keeps
    | with_reducible apply State.resetCommand_keeps

theorem execSoftReset_keeps {s} {a0} : ∃ t, execSoftReset a0 s = .next t ∧ Keeps s t := by
  refine ⟨_, rfl, ?_⟩
  repeat' first
    | with_reducible assumption
    | with_reducible exact Keeps.refl _
    | intro _ _
    | intro _
    | with_reducible apply State.viaHost_keeps
    | with_reducible apply State.resetCommand_keeps

theorem execPowerOn_keeps {s} {a0 a1} : ∃ t, execPowerOn a0 a1 s = .next t ∧ Keeps s t := by
  refine ⟨_, rfl, ?_⟩
  repeat' first
    | with_reducible assumption
    | with_reducible exact Keeps.refl _
    | intro _ _
    | intro _
    | with_reducible apply State.powerOn_keeps

theorem execResetNAssert_keeps {s} : ∃ t, execResetNAssert s = .next t ∧ Keeps s t := by
  refine ⟨_, rfl, ?_⟩
  repeat' first
    | with_reducible assumption
    | with_reducible exact Keeps.refl _
    | intro _ _
    | intro _
    | with_reducible apply State.resetAssert_keeps

theorem execResetNRelease_keeps {s} : ∃ t, execResetNRelease s = .next t ∧ Keeps s t := by
  refine ⟨_, rfl, ?_⟩
  repeat' first
    | with_reducible assumption
    | with_reducible exact Keeps.refl _
    | intro _ _
    | intro _
    | with_reducible apply State.resetRelease_keeps

theorem execPipeGo_keeps {s} {a0} : ∃ t, execPipeGo a0 s = .next t ∧ Keeps s t := by
  refine ⟨_, rfl, ?_⟩
  repeat' first
    | with_reducible assumption
    | with_reducible exact Keeps.refl _
    | intro _ _
    | intro _
    | with_reducible apply State.viaHost_keeps
    | with_reducible apply State.pipeGo_keeps
    | with_reducible apply State.set_keeps

theorem execPortGo_keeps {s} {a0} : ∃ t, execPortGo a0 s = .next t ∧ Keeps s t := by
  refine ⟨_, rfl, ?_⟩
  repeat' first
    | with_reducible assumption
    | with_reducible exact Keeps.refl _
    | intro _ _
    | intro _
    | with_reducible apply State.viaHost_keeps
    | with_reducible apply State.set_keeps
    | with_reducible apply State.portGo_keeps

theorem execInputGlitch_keeps {s} {a0 a1} : ∃ t, execInputGlitch a0 a1 s = .next t ∧ Keeps s t := by
  refine ⟨_, rfl, ?_⟩
  repeat' first
    | with_reducible assumption
    | with_reducible exact Keeps.refl _
    | intro _ _
    | intro _
    | with_reducible apply Keeps.choose
    | with_reducible apply State.inc_keeps
    | with_reducible apply State.when_keeps

theorem execInputStuck_keeps {s} {a0} : ∃ t, execInputStuck a0 s = .next t ∧ Keeps s t := by
  refine ⟨_, rfl, ?_⟩
  repeat' first
    | with_reducible assumption
    | with_reducible exact Keeps.refl _
    | intro _ _
    | intro _
    | with_reducible apply State.inputStuck_keeps

theorem execInputUnstuck_keeps {s} {a0} : ∃ t, execInputUnstuck a0 s = .next t ∧ Keeps s t := by
  refine ⟨_, rfl, ?_⟩
  repeat' first
    | with_reducible assumption
    | with_reducible exact Keeps.refl _
    | intro _ _
    | intro _
    | with_reducible apply State.inputUnstuck_keeps

theorem execPowerFail_keeps {s} {a0 a1 a2} : ∃ t, execPowerFail a0 a1 a2 s = .next t ∧ Keeps s t := by
  refine ⟨_, rfl, ?_⟩
  repeat' first
    | with_reducible assumption
    | with_reducible exact Keeps.refl _
    | intro _ _
    | intro _
    | with_reducible apply State.powerFailEvent_keeps

theorem execPfailDone_keeps {s} : ∃ t, execPfailDone s = .next t ∧ Keeps s t := by
  refine ⟨_, rfl, ?_⟩
  repeat' first
    | with_reducible assumption
    | with_reducible exact Keeps.refl _
    | intro _ _
    | intro _
    | with_reducible apply State.setB_keeps
    | with_reducible apply State.when_keeps

theorem execPowerRecovery_keeps {s} : ∃ t, execPowerRecovery s = .next t ∧ Keeps s t := by
  refine ⟨_, rfl, ?_⟩
  repeat' first
    | with_reducible assumption
    | with_reducible exact Keeps.refl _
    | intro _ _
    | intro _
    | with_reducible apply State.powerRecovery_keeps

theorem execPcieLinkDown_keeps {s} : ∃ t, execPcieLinkDown s = .next t ∧ Keeps s t := by
  refine ⟨_, rfl, ?_⟩
  repeat' first
    | with_reducible assumption
    | with_reducible exact Keeps.refl _
    | intro _ _
    | intro _
    | with_reducible apply State.pcieDown_keeps
    | with_reducible apply State.when_keeps

theorem execPcieLinkUp_keeps {s} {a0 a1} : ∃ t, execPcieLinkUp a0 a1 s = .next t ∧ Keeps s t := by
  refine ⟨_, rfl, ?_⟩
  repeat' first
    | with_reducible assumption
    | with_reducible exact Keeps.refl _
    | intro _ _
    | intro _
    | with_reducible apply State.set_keeps
    | with_reducible apply State.setB_keeps
    | with_reducible apply State.when_keeps

theorem execBusMasterDisable_keeps {s} : ∃ t, execBusMasterDisable s = .next t ∧ Keeps s t := by
  refine ⟨_, rfl, ?_⟩
  repeat' first
    | with_reducible assumption
    | with_reducible exact Keeps.refl _
    | intro _ _
    | intro _
    | with_reducible apply State.masterOff_keeps
    | with_reducible apply State.when_keeps

theorem execD3hotEntry_keeps {s} : ∃ t, execD3hotEntry s = .next t ∧ Keeps s t := by
  refine ⟨_, rfl, ?_⟩
  repeat' first
    | with_reducible assumption
    | with_reducible exact Keeps.refl _
    | intro _ _
    | intro _
    | with_reducible apply State.d3Enter_keeps
    | with_reducible apply State.when_keeps

theorem execHostResume_keeps {s} : ∃ t, execHostResume s = .next t ∧ Keeps s t := by
  refine ⟨_, rfl, ?_⟩
  repeat' first
    | with_reducible assumption
    | with_reducible exact Keeps.refl _
    | intro _ _
    | intro _
    | with_reducible apply State.msixReleaseAll_keeps
    | with_reducible apply State.setB_keeps
    | with_reducible apply State.when_keeps

theorem execMsixUnmask_keeps {s} {a0} : ∃ t, execMsixUnmask a0 s = .next t ∧ Keeps s t := by
  refine ⟨_, rfl, ?_⟩
  repeat' first
    | with_reducible assumption
    | with_reducible exact Keeps.refl _
    | intro _ _
    | intro _
    | with_reducible apply State.msixRelease_keeps
    | with_reducible apply State.when_keeps
    | split
    | dsimp only
    | with_reducible apply Keeps.upd

theorem execFaultDecision_keeps {s} : ∃ t, execFaultDecision s = .next t ∧ Keeps s t := by
  refine ⟨_, rfl, ?_⟩
  repeat' first
    | with_reducible assumption
    | with_reducible exact Keeps.refl _
    | intro _ _
    | intro _
    | with_reducible apply State.faultDecide_keeps
    | with_reducible apply State.when_keeps

theorem execFaultRecord_keeps {s} {a0} : ∃ t, execFaultRecord a0 s = .next t ∧ Keeps s t := by
  refine ⟨_, rfl, ?_⟩
  repeat' first
    | with_reducible assumption
    | with_reducible exact Keeps.refl _
    | intro _ _
    | intro _
    | with_reducible apply State.faultRecord_keeps

theorem execMaskWindowEnd_keeps {s} : ∃ t, execMaskWindowEnd s = .next t ∧ Keeps s t := by
  refine ⟨_, rfl, ?_⟩
  repeat' first
    | with_reducible assumption
    | with_reducible exact Keeps.refl _
    | intro _ _
    | intro _
    | with_reducible apply State.maskEnd_keeps

theorem execAutoReset_keeps {s} : ∃ t, execAutoReset s = .next t ∧ Keeps s t := by
  refine ⟨_, rfl, ?_⟩
  repeat' first
    | with_reducible assumption
    | with_reducible exact Keeps.refl _
    | intro _ _
    | intro _
    | with_reducible apply State.autoReset_keeps

theorem execFirstClr_keeps {s} : ∃ t, execFirstClr s = .next t ∧ Keeps s t := by
  refine ⟨_, rfl, ?_⟩
  repeat' first
    | with_reducible assumption
    | with_reducible exact Keeps.refl _
    | intro _ _
    | intro _
    | with_reducible apply State.viaHost_keeps
    | with_reducible apply State.set_keeps
    | with_reducible apply State.setB_keeps

theorem execFaultNClr_keeps {s} : ∃ t, execFaultNClr s = .next t ∧ Keeps s t := by
  refine ⟨_, rfl, ?_⟩
  repeat' first
    | with_reducible assumption
    | with_reducible exact Keeps.refl _
    | intro _ _
    | intro _
    | with_reducible apply State.viaHost_keeps
    | with_reducible apply State.setB_keeps
    | with_reducible apply State.when_keeps

theorem execAliveRestart_keeps {s} : ∃ t, execAliveRestart s = .next t ∧ Keeps s t := by
  refine ⟨_, rfl, ?_⟩
  repeat' first
    | with_reducible assumption
    | with_reducible exact Keeps.refl _
    | intro _ _
    | intro _
    | with_reducible apply State.viaHost_keeps
    | with_reducible apply State.setB_keeps
    | with_reducible apply State.when_keeps

theorem execPortSafeRelease_keeps {s} {a0} : ∃ t, execPortSafeRelease a0 s = .next t ∧ Keeps s t := by
  refine ⟨_, rfl, ?_⟩
  repeat' first
    | with_reducible assumption
    | with_reducible exact Keeps.refl _
    | intro _ _
    | intro _
    | with_reducible apply State.viaHost_keeps
    | with_reducible apply State.portSafeRelease_keeps

theorem execInjectEvent_keeps {s} : ∃ t, execInjectEvent s = .next t ∧ Keeps s t := by
  refine ⟨_, rfl, ?_⟩
  repeat' first
    | with_reducible assumption
    | with_reducible exact Keeps.refl _
    | intro _ _
    | intro _
    | with_reducible apply Keeps.choose
    | with_reducible apply State.viaHost_keeps
    | with_reducible apply State.injEvent_keeps
    | with_reducible apply State.injGate_keeps

theorem execInjectMemory_keeps {s} : ∃ t, execInjectMemory s = .next t ∧ Keeps s t := by
  refine ⟨_, rfl, ?_⟩
  repeat' first
    | with_reducible assumption
    | with_reducible exact Keeps.refl _
    | intro _ _
    | intro _
    | with_reducible apply Keeps.choose
    | with_reducible apply State.viaHost_keeps
    | with_reducible apply State.injMemory_keeps
    | with_reducible apply State.injGate_keeps

theorem execInjectLane_keeps {s} : ∃ t, execInjectLane s = .next t ∧ Keeps s t := by
  refine ⟨_, rfl, ?_⟩
  repeat' first
    | with_reducible assumption
    | with_reducible exact Keeps.refl _
    | intro _ _
    | intro _
    | with_reducible apply Keeps.choose
    | with_reducible apply State.viaHost_keeps
    | with_reducible apply State.injLane_keeps
    | with_reducible apply State.injGate_keeps

theorem execFuseSlot_keeps {s} {a0 a1} : ∃ t, execFuseSlot a0 a1 s = .next t ∧ Keeps s t := by
  refine ⟨_, rfl, ?_⟩
  repeat' first
    | with_reducible assumption
    | with_reducible exact Keeps.refl _
    | intro _ _
    | intro _
    | with_reducible apply State.viaHost_keeps
    | with_reducible apply State.milestRow_keeps

theorem execFuseImageKey_keeps {s} {a0 a1} : ∃ t, execFuseImageKey a0 a1 s = .next t ∧ Keeps s t := by
  refine ⟨_, rfl, ?_⟩
  repeat' first
    | with_reducible assumption
    | with_reducible exact Keeps.refl _
    | intro _ _
    | intro _
    | with_reducible apply State.viaHost_keeps
    | with_reducible apply State.milestRow_keeps

theorem execEnterField_keeps {s} {a0 a1} : ∃ t, execEnterField a0 a1 s = .next t ∧ Keeps s t := by
  refine ⟨_, rfl, ?_⟩
  repeat' first
    | with_reducible assumption
    | with_reducible exact Keeps.refl _
    | intro _ _
    | intro _
    | with_reducible apply State.viaHost_keeps
    | with_reducible apply State.milestRow_keeps

theorem execEnterService_keeps {s} {a0} : ∃ t, execEnterService a0 s = .next t ∧ Keeps s t := by
  refine ⟨_, rfl, ?_⟩
  repeat' first
    | with_reducible assumption
    | with_reducible exact Keeps.refl _
    | intro _ _
    | intro _
    | with_reducible apply State.viaHost_keeps
    | with_reducible apply State.milestRow_keeps

theorem execRevokeSlot_keeps {s} {a0 a1} : ∃ t, execRevokeSlot a0 a1 s = .next t ∧ Keeps s t := by
  refine ⟨_, rfl, ?_⟩
  repeat' first
    | with_reducible assumption
    | with_reducible exact Keeps.refl _
    | intro _ _
    | intro _
    | with_reducible apply State.viaHost_keeps
    | with_reducible apply State.milestRow_keeps

theorem execRaiseFloor_keeps {s} {a0 a1} : ∃ t, execRaiseFloor a0 a1 s = .next t ∧ Keeps s t := by
  refine ⟨_, rfl, ?_⟩
  repeat' first
    | with_reducible assumption
    | with_reducible exact Keeps.refl _
    | intro _ _
    | intro _
    | with_reducible apply State.viaHost_keeps
    | with_reducible apply State.milestRow_keeps

theorem execRetire_keeps {s} {a0 a1} : ∃ t, execRetire a0 a1 s = .next t ∧ Keeps s t := by
  refine ⟨_, rfl, ?_⟩
  repeat' first
    | with_reducible assumption
    | with_reducible exact Keeps.refl _
    | intro _ _
    | intro _
    | with_reducible apply State.viaHost_keeps
    | with_reducible apply State.milestRow_keeps

theorem execGetVersion_keeps {s} : ∃ t, execGetVersion s = .next t ∧ Keeps s t := by
  refine ⟨_, rfl, ?_⟩
  repeat' first
    | with_reducible assumption
    | with_reducible exact Keeps.refl _
    | intro _ _
    | intro _
    | with_reducible apply State.emit_keeps
    | with_reducible apply State.spdmAnswer_keeps
    | split
    | dsimp only
    | with_reducible apply Keeps.spdm

theorem execGetCapabilities_keeps {s} : ∃ t, execGetCapabilities s = .next t ∧ Keeps s t := by
  refine ⟨_, rfl, ?_⟩
  repeat' first
    | with_reducible assumption
    | with_reducible exact Keeps.refl _
    | intro _ _
    | intro _
    | with_reducible apply State.emit_keeps
    | with_reducible apply State.spdmAnswer_keeps
    | split
    | dsimp only
    | with_reducible apply Keeps.spdm

theorem execNegotiateAlgorithms_keeps {s} : ∃ t, execNegotiateAlgorithms s = .next t ∧ Keeps s t := by
  refine ⟨_, rfl, ?_⟩
  repeat' first
    | with_reducible assumption
    | with_reducible exact Keeps.refl _
    | intro _ _
    | intro _
    | with_reducible apply State.emit_keeps
    | with_reducible apply State.spdmAnswer_keeps
    | split
    | dsimp only
    | with_reducible apply Keeps.spdm

theorem execGetDigests_keeps {s} : ∃ t, execGetDigests s = .next t ∧ Keeps s t := by
  refine ⟨_, rfl, ?_⟩
  repeat' first
    | with_reducible assumption
    | with_reducible exact Keeps.refl _
    | intro _ _
    | intro _
    | with_reducible apply State.emit_keeps
    | with_reducible apply State.spdmAnswer_keeps

theorem execGetCertificate_keeps {s} {a0 a1} : ∃ t, execGetCertificate a0 a1 s = .next t ∧ Keeps s t := by
  refine ⟨_, rfl, ?_⟩
  repeat' first
    | with_reducible assumption
    | with_reducible exact Keeps.refl _
    | intro _ _
    | intro _
    | with_reducible apply Keeps.choose
    | with_reducible apply State.emit_keeps
    | with_reducible apply State.spdmAnswer_keeps

theorem execChallenge_keeps {s} {a0} : ∃ t, execChallenge a0 s = .next t ∧ Keeps s t := by
  refine ⟨_, rfl, ?_⟩
  repeat' first
    | with_reducible assumption
    | with_reducible exact Keeps.refl _
    | intro _ _
    | intro _
    | with_reducible apply Keeps.choose
    | with_reducible apply State.emit_keeps
    | with_reducible apply State.draw_keeps
    | with_reducible apply State.spdmAnswer_keeps

theorem execGetMeasurements_keeps {s} {a0 a1} : ∃ t, execGetMeasurements a0 a1 s = .next t ∧ Keeps s t := by
  refine ⟨_, rfl, ?_⟩
  repeat' first
    | with_reducible assumption
    | with_reducible exact Keeps.refl _
    | intro _ _
    | intro _
    | with_reducible apply Keeps.choose
    | with_reducible apply State.emit_keeps
    | with_reducible apply State.draw_keeps
    | with_reducible apply State.spdmAnswer_keeps

theorem execBypass_keeps {s} : ∃ t, execBypass s = .next t ∧ Keeps s t := by
  refine ⟨_, rfl, ?_⟩
  repeat' first
    | with_reducible assumption
    | with_reducible exact Keeps.refl _
    | intro _ _
    | intro _
    | with_reducible apply State.jtagIr_keeps
    | with_reducible apply State.jtagBypass_keeps

theorem execIdcode_keeps {s} : ∃ t, execIdcode s = .next t ∧ Keeps s t := by
  refine ⟨_, rfl, ?_⟩
  repeat' first
    | with_reducible assumption
    | with_reducible exact Keeps.refl _
    | intro _ _
    | intro _
    | with_reducible apply State.jtagIr_keeps
    | with_reducible apply State.emit_keeps
    | with_reducible apply State.jtagLoad_keeps

theorem execSamplePreload_keeps {s} {a0 a1} : ∃ t, execSamplePreload a0 a1 s = .next t ∧ Keeps s t := by
  refine ⟨_, rfl, ?_⟩
  repeat' first
    | with_reducible assumption
    | with_reducible exact Keeps.refl _
    | intro _ _
    | intro _
    | with_reducible apply Keeps.choose
    | with_reducible apply State.jtagIr_keeps
    | with_reducible apply State.emit_keeps
    | with_reducible apply State.jtagLoad_keeps
    | split
    | dsimp only
    | with_reducible apply Keeps.upd

theorem execExtest_keeps {s} : ∃ t, execExtest s = .next t ∧ Keeps s t := by
  refine ⟨_, rfl, ?_⟩
  repeat' first
    | with_reducible assumption
    | with_reducible exact Keeps.refl _
    | intro _ _
    | intro _
    | with_reducible apply State.jtagIr_keeps
    | with_reducible apply State.moduleSafe_keeps
    | with_reducible apply State.jtagLoad_keeps
    | with_reducible apply State.fault_keeps
    | with_reducible apply State.when_keeps

theorem execInternalScan_keeps {s} : ∃ t, execInternalScan s = .next t ∧ Keeps s t := by
  refine ⟨_, rfl, ?_⟩
  repeat' first
    | with_reducible assumption
    | with_reducible exact Keeps.refl _
    | intro _ _
    | intro _
    | with_reducible apply State.jtagIr_keeps
    | with_reducible apply State.jtagLoad_keeps

theorem execAssayGo_keeps {s} {a0 a1} : ∃ t, execAssayGo a0 a1 s = .next t ∧ Keeps s t := by
  refine ⟨_, rfl, ?_⟩
  repeat' first
    | with_reducible assumption
    | with_reducible exact Keeps.refl _
    | intro _ _
    | intro _
    | with_reducible apply State.viaHost_keeps
    | with_reducible apply State.assayGo_keeps

theorem execAssayTestDone_keeps {s} {a0 a1 a2} : ∃ t, execAssayTestDone a0 a1 a2 s = .next t ∧ Keeps s t := by
  refine ⟨_, rfl, ?_⟩
  repeat' first
    | with_reducible assumption
    | with_reducible exact Keeps.refl _
    | intro _ _
    | intro _
    | with_reducible apply State.assayTestDone_keeps

theorem execAssayAbort_keeps {s} : ∃ t, execAssayAbort s = .next t ∧ Keeps s t := by
  refine ⟨_, rfl, ?_⟩
  repeat' first
    | with_reducible assumption
    | with_reducible exact Keeps.refl _
    | intro _ _
    | intro _
    | with_reducible apply State.viaHost_keeps
    | with_reducible apply State.assayStop_keeps

theorem execAssayConditionFail_keeps {s} {a0} : ∃ t, execAssayConditionFail a0 s = .next t ∧ Keeps s t := by
  refine ⟨_, rfl, ?_⟩
  repeat' first
    | with_reducible assumption
    | with_reducible exact Keeps.refl _
    | intro _ _
    | intro _
    | with_reducible apply State.assayFail_keeps

theorem execRcFieldRead_keeps {s} {a0 a1} : ∃ t, execRcFieldRead a0 a1 s = .next t ∧ Keeps s t := by
  refine ⟨_, rfl, ?_⟩
  repeat' first
    | with_reducible assumption
    | with_reducible exact Keeps.refl _
    | intro _ _
    | intro _
    | with_reducible apply State.busRead_keeps

theorem execLowWordRead_keeps {s} {a0} : ∃ t, execLowWordRead a0 s = .next t ∧ Keeps s t := by
  refine ⟨_, rfl, ?_⟩
  repeat' first
    | with_reducible assumption
    | with_reducible exact Keeps.refl _
    | intro _ _
    | intro _
    | with_reducible apply State.busRead_keeps

theorem execHighWordRead_keeps {s} {a0} : ∃ t, execHighWordRead a0 s = .next t ∧ Keeps s t := by
  refine ⟨_, rfl, ?_⟩
  repeat' first
    | with_reducible assumption
    | with_reducible exact Keeps.refl _
    | intro _ _
    | intro _
    | with_reducible apply State.busRead_keeps

theorem execBar0BadAccess_keeps {s} : ∃ t, execBar0BadAccess s = .next t ∧ Keeps s t := by
  refine ⟨_, rfl, ?_⟩
  repeat' first
    | with_reducible assumption
    | with_reducible exact Keeps.refl _
    | intro _ _
    | intro _
    | with_reducible apply State.badAccess_keeps

theorem execBar4BadAccess_keeps {s} : ∃ t, execBar4BadAccess s = .next t ∧ Keeps s t := by
  refine ⟨_, rfl, ?_⟩
  repeat' first
    | with_reducible assumption
    | with_reducible exact Keeps.refl _
    | intro _ _
    | intro _
    | with_reducible apply State.badAccess_keeps

theorem execRegWrite_keeps {s} {a0 a1 a2} : ∃ t, execRegWrite a0 a1 a2 s = .next t ∧ Keeps s t := by
  refine ⟨_, rfl, ?_⟩
  repeat' first
    | with_reducible assumption
    | with_reducible exact Keeps.refl _
    | intro _ _
    | intro _
    | with_reducible apply State.busWrite_keeps

theorem execHighWordWrite_keeps {s} {a0 a1} : ∃ t, execHighWordWrite a0 a1 s = .next t ∧ Keeps s t := by
  refine ⟨_, rfl, ?_⟩
  repeat' first
    | with_reducible assumption
    | with_reducible exact Keeps.refl _
    | intro _ _
    | intro _
    | with_reducible apply State.busWrite_keeps

theorem execGlbIntEnWrite_keeps {s} {a0} : ∃ t, execGlbIntEnWrite a0 s = .next t ∧ Keeps s t := by
  refine ⟨_, rfl, ?_⟩
  repeat' first
    | with_reducible assumption
    | with_reducible exact Keeps.refl _
    | intro _ _
    | intro _
    | with_reducible apply State.viaHost_keeps
    | with_reducible apply State.intEnWrite_keeps

theorem execSmbSetPointer_keeps {s} {a0 a1} : ∃ t, execSmbSetPointer a0 a1 s = .next t ∧ Keeps s t := by
  refine ⟨_, rfl, ?_⟩
  repeat' first
    | with_reducible assumption
    | with_reducible exact Keeps.refl _
    | intro _ _
    | intro _
    | with_reducible apply State.smbLive_keeps
    | with_reducible apply State.smbPointer_keeps

theorem execSmbRead_keeps {s} : ∃ t, execSmbRead s = .next t ∧ Keeps s t := by
  refine ⟨_, rfl, ?_⟩
  repeat' first
    | with_reducible assumption
    | with_reducible exact Keeps.refl _
    | intro _ _
    | intro _
    | with_reducible apply State.smbLive_keeps
    | with_reducible apply State.smbRead_keeps

theorem execSmbWrite_keeps {s} {a0 a1 a2} : ∃ t, execSmbWrite a0 a1 a2 s = .next t ∧ Keeps s t := by
  refine ⟨_, rfl, ?_⟩
  repeat' first
    | with_reducible assumption
    | with_reducible exact Keeps.refl _
    | intro _ _
    | intro _
    | with_reducible apply State.smbWrite_keeps
    | with_reducible apply State.smbLive_keeps

theorem execSmbAlertResponse_keeps {s} : ∃ t, execSmbAlertResponse s = .next t ∧ Keeps s t := by
  refine ⟨_, rfl, ?_⟩
  repeat' first
    | with_reducible assumption
    | with_reducible exact Keeps.refl _
    | intro _ _
    | intro _
    | with_reducible apply State.emit_keeps
    | with_reducible apply State.smbLive_keeps

end Sys2Proof.Machine
end

