-- ==== Sys2Proof/Laws/Touches.lean ====
section
/-!
SUPPORT. What an operation touches: how the frames of State updates compose. The files beside this one hold one lemma for each
operation of the machine.
-/
namespace Sys2Proof.Machine
set_option Elab.async false

theorem Part.Same.refl (s : State) (p : Part) : p.Same s s := by
  cases p <;> rfl

theorem Part.Same.trans {s t u : State} {p : Part} (h : p.Same s t) (k : p.Same t u) : p.Same s u := by
  cases p <;> exact Eq.trans k h

namespace Touches

theorem refl (ps : List Part) (s : State) : Touches ps s s := ⟨rfl, fun p _ => .refl s p⟩

theorem trans {ps : List Part} {s t u : State} (h : Touches ps s t) (k : Touches ps t u) : Touches ps s u :=
  ⟨k.pending.trans h.pending, fun p m => (h.same p m).trans (k.same p m)⟩

theorem mono {ps qs : List Part} {s t : State} (h : Touches ps s t) (k : ps ⊆ qs) : Touches qs s t :=
  ⟨h.pending, fun p m => h.same p (fun n => m (k n))⟩

/-- An update written with the fields it names: each of them is allowed or unchanged. -/
theorem upd {ps : List Part} {s x : State} {regs dev draws readData outbox time core pwr flt act anvil host img mil assay pins boot buf pipe que tele} (h : Touches ps s x)
    (k_regs : Part.regs ∈ ps ∨ regs = x.regs)
    (k_dev : Part.dev ∈ ps ∨ dev = x.dev)
    (k_draws : Part.draws ∈ ps ∨ draws = x.draws)
    (k_readData : Part.readData ∈ ps ∨ readData = x.readData)
    (k_outbox : Part.outbox ∈ ps ∨ outbox = x.outbox)
    (k_time : Part.time ∈ ps ∨ time = x.time)
    (k_core : Part.core ∈ ps ∨ core = x.core)
    (k_pwr : Part.pwr ∈ ps ∨ pwr = x.pwr)
    (k_flt : Part.flt ∈ ps ∨ flt = x.flt)
    (k_act : Part.act ∈ ps ∨ act = x.act)
    (k_anvil : Part.anvil ∈ ps ∨ anvil = x.anvil)
    (k_host : Part.host ∈ ps ∨ host = x.host)
    (k_img : Part.img ∈ ps ∨ img = x.img)
    (k_mil : Part.mil ∈ ps ∨ mil = x.mil)
    (k_assay : Part.assay ∈ ps ∨ assay = x.assay)
    (k_pins : Part.pins ∈ ps ∨ pins = x.pins)
    (k_boot : Part.boot ∈ ps ∨ boot = x.boot)
    (k_buf : Part.buf ∈ ps ∨ buf = x.buf)
    (k_pipe : Part.pipe ∈ ps ∨ pipe = x.pipe)
    (k_que : Part.que ∈ ps ∨ que = x.que)
    (k_tele : Part.tele ∈ ps ∨ tele = x.tele) :
    Touches ps s (State.mk x.pending regs dev draws readData outbox time core pwr flt act anvil host img mil assay pins boot buf pipe que tele) := by
  refine h.trans ⟨rfl, fun p m => ?_⟩
  cases p
  · exact k_regs.resolve_left m
  · exact k_dev.resolve_left m
  · exact k_draws.resolve_left m
  · exact k_readData.resolve_left m
  · exact k_outbox.resolve_left m
  · exact k_time.resolve_left m
  · exact k_core.resolve_left m
  · exact k_pwr.resolve_left m
  · exact k_flt.resolve_left m
  · exact k_act.resolve_left m
  · exact k_anvil.resolve_left m
  · exact k_host.resolve_left m
  · exact k_img.resolve_left m
  · exact k_mil.resolve_left m
  · exact k_assay.resolve_left m
  · exact k_pins.resolve_left m
  · exact k_boot.resolve_left m
  · exact k_buf.resolve_left m
  · exact k_pipe.resolve_left m
  · exact k_que.resolve_left m
  · exact k_tele.resolve_left m

theorem img {ps : List Part} {s x : State} {v : ImgSt} (h : Touches ps s x) (k : Part.img ∈ ps := by assumption) :
    Touches ps s { x with img := v } :=
  h.trans ⟨rfl, fun p m => by cases p <;> first | rfl | exact absurd k m⟩

theorem mil {ps : List Part} {s x : State} {v : MilSt} (h : Touches ps s x) (k : Part.mil ∈ ps := by assumption) :
    Touches ps s { x with mil := v } :=
  h.trans ⟨rfl, fun p m => by cases p <;> first | rfl | exact absurd k m⟩

theorem flt {ps : List Part} {s x : State} {v : FltSt} (h : Touches ps s x) (k : Part.flt ∈ ps := by assumption) :
    Touches ps s { x with flt := v } :=
  h.trans ⟨rfl, fun p m => by cases p <;> first | rfl | exact absurd k m⟩

theorem assay {ps : List Part} {s x : State} {v : AssaySt} (h : Touches ps s x) (k : Part.assay ∈ ps := by assumption) :
    Touches ps s { x with assay := v } :=
  h.trans ⟨rfl, fun p m => by cases p <;> first | rfl | exact absurd k m⟩

/-- A choice touches what its outcomes touch. -/
theorem choose {ps : List Part} {s x y : State} {c : Prop} [Decidable c] (h : Touches ps s x) (k : Touches ps s y) :
    Touches ps s (if c then x else y) := by
  split
  · exact h
  · exact k

theorem foldl {ps : List Part} {α : Type} {s x : State} {f : State → α → State} {l : List α}
    (hf : ∀ y b, Touches ps s y → Touches ps s (f y b)) (h : Touches ps s x) : Touches ps s (l.foldl f x) :=
  foldl_keeps (Touches ps s) f hf l x h

theorem foldl_snd {ps : List Part} {α β : Type} {s : State} {x : β × State} {f : β × State → α → β × State} {l : List α}
    (hf : ∀ y b, Touches ps s y.2 → Touches ps s (f y b).2) (h : Touches ps s x.2) : Touches ps s (l.foldl f x).2 :=
  foldl_keeps (fun y : β × State => Touches ps s y.2) f hf l x h

theorem foldl_fst {ps : List Part} {α β : Type} {s : State} {x : State × β} {f : State × β → α → State × β} {l : List α}
    (hf : ∀ y b, Touches ps s y.1 → Touches ps s (f y b).1) (h : Touches ps s x.1) : Touches ps s (l.foldl f x).1 :=
  foldl_keeps (fun y : State × β => Touches ps s y.1) f hf l x h

theorem foldl_third {ps : List Part} {α β γ : Type} {s : State} {x : β × γ × State}
    {f : β × γ × State → α → β × γ × State} {l : List α}
    (hf : ∀ y b, Touches ps s y.2.2 → Touches ps s (f y b).2.2) (h : Touches ps s x.2.2) :
    Touches ps s (l.foldl f x).2.2 :=
  foldl_keeps (fun y : β × γ × State => Touches ps s y.2.2) f hf l x h

theorem upTo {ps : List Part} {s x : State} {n : Nat} {f : Nat → State → State}
    (hf : ∀ k y, Touches ps s y → Touches ps s (f k y)) (h : Touches ps s x) : Touches ps s (Machine.upTo n f x) :=
  upTo_keeps (Touches ps s) n f x hf h

theorem iterate {ps : List Part} {s x : State} {n : Nat} {f : State → State}
    (hf : ∀ y, Touches ps s y → Touches ps s (f y)) (h : Touches ps s x) : Touches ps s (Machine.iterate f n x) :=
  iterate_keeps (Touches ps s) f hf n x h

end Touches

theorem State.when_touches {ps : List Part} {s x : State} {c : Bool} {f : State → State}
    (hf : ∀ y, Touches ps s y → Touches ps s (f y)) (h : Touches ps s x) : Touches ps s (x.when c f) :=
  State.when_cases x c f h (fun _ => hf x h)

end Sys2Proof.Machine
end

