-- ==== Sys2Proof/Laws/TouchesCore.lean ====
section
/-!
SUPPORT. What the operations of the core, power, Anvil, the rings and Loupe touch: one lemma for each.
-/
namespace Sys2Proof.Machine
set_option Elab.async false

/-! ### Machine/Ops.lean -/

theorem State.set_touches {ps s x} {f v i j} (h : Touches ps s x) (p_regs : Part.regs ∈ ps := by assumption) :
    Touches ps s (State.set x f v i j) :=
  h.trans ⟨rfl, fun p m => by cases p <;> first | rfl | exact absurd p_regs m⟩

theorem State.setB_touches {ps s x} {a1 a2 a3 a4} (h : Touches ps s x) (p_regs : Part.regs ∈ ps := by assumption) :
    Touches ps s (State.setB x a1 a2 a3 a4) := by
  unfold State.setB
  repeat' first
    | with_reducible assumption
    | intro _ _
    | intro _
    | with_reducible apply State.set_touches

theorem State.add_touches {ps s x} {a1 a2 a3 a4} (h : Touches ps s x) (p_regs : Part.regs ∈ ps := by assumption) :
    Touches ps s (State.add x a1 a2 a3 a4) := by
  unfold State.add
  repeat' first
    | with_reducible assumption
    | intro _ _
    | intro _
    | with_reducible apply State.set_touches

theorem State.inc_touches {ps s x} {a1 a2 a3} (h : Touches ps s x) (p_regs : Part.regs ∈ ps := by assumption) :
    Touches ps s (State.inc x a1 a2 a3) := by
  unfold State.inc
  repeat' first
    | with_reducible assumption
    | intro _ _
    | intro _
    | with_reducible apply State.add_touches

theorem State.incWrap_touches {ps s x} {a1 a2 a3} (h : Touches ps s x) (p_regs : Part.regs ∈ ps := by assumption) :
    Touches ps s (State.incWrap x a1 a2 a3) := by
  unfold State.incWrap
  repeat' first
    | with_reducible assumption
    | intro _ _
    | intro _
    | with_reducible apply State.set_touches

theorem State.setBit_touches {ps s x} {a1 a2 a3 a4} (h : Touches ps s x) (p_regs : Part.regs ∈ ps := by assumption) :
    Touches ps s (State.setBit x a1 a2 a3 a4) := by
  unfold State.setBit
  repeat' first
    | with_reducible assumption
    | intro _ _
    | intro _
    | with_reducible apply State.set_touches

theorem State.clearBit_touches {ps s x} {a1 a2 a3 a4} (h : Touches ps s x) (p_regs : Part.regs ∈ ps := by assumption) :
    Touches ps s (State.clearBit x a1 a2 a3 a4) := by
  unfold State.clearBit
  repeat' first
    | with_reducible assumption
    | intro _ _
    | intro _
    | with_reducible apply State.set_touches

theorem State.injTake_touches {ps s x} {a1 a2} (h : Touches ps s x) (p_flt : Part.flt ∈ ps := by assumption) :
    Touches ps s (State.injTake x a1 a2) := by
  unfold State.injTake
  repeat' first
    | with_reducible assumption
    | intro _ _
    | intro _
    | with_reducible apply Touches.choose
    | split
    | dsimp only
    | with_reducible apply Touches.upd
    | exact Or.inl (by assumption)
    | exact Or.inr rfl

theorem State.injClear_touches {ps s x} {a1 a2} (h : Touches ps s x) (p_flt : Part.flt ∈ ps := by assumption) :
    Touches ps s (State.injClear x a1 a2) := by
  unfold State.injClear
  repeat' first
    | with_reducible assumption
    | intro _ _
    | intro _
    | split
    | dsimp only
    | with_reducible apply Touches.upd
    | exact Or.inl (by assumption)
    | exact Or.inr rfl

theorem State.memSet_touches {ps s x} {a1 a2 a3}
    (h : Touches ps s x) (p_dev : Part.dev ∈ ps := by assumption) (p_flt : Part.flt ∈ ps := by assumption) :
    Touches ps s (State.memSet x a1 a2 a3) := by
  unfold State.memSet
  repeat' first
    | with_reducible assumption
    | intro _ _
    | intro _
    | with_reducible apply State.injTake_touches
    | split
    | dsimp only
    | with_reducible apply Touches.upd
    | exact Or.inl (by assumption)
    | exact Or.inr rfl

theorem State.memStore_touches {ps s x} {a1 a2}
    (h : Touches ps s x) (p_dev : Part.dev ∈ ps := by assumption) (p_flt : Part.flt ∈ ps := by assumption) :
    Touches ps s (State.memStore x a1 a2) := by
  unfold State.memStore
  repeat' first
    | with_reducible assumption
    | intro _ _
    | intro _
    | with_reducible apply State.injTake_touches
    | split
    | dsimp only
    | with_reducible apply Touches.upd
    | exact Or.inl (by assumption)
    | exact Or.inr rfl

theorem State.memZero_touches {ps s x} {a1 a2} (h : Touches ps s x) (p_dev : Part.dev ∈ ps := by assumption) :
    Touches ps s (State.memZero x a1 a2) := by
  unfold State.memZero
  repeat' first
    | with_reducible assumption
    | intro _ _
    | intro _
    | split
    | dsimp only
    | with_reducible apply Touches.upd
    | exact Or.inl (by assumption)
    | exact Or.inr rfl

theorem State.emit_touches {ps s x} {a1} (h : Touches ps s x) (p_outbox : Part.outbox ∈ ps := by assumption) :
    Touches ps s (State.emit x a1) := by
  unfold State.emit
  repeat' first
    | with_reducible assumption
    | intro _ _
    | intro _
    | split
    | dsimp only
    | with_reducible apply Touches.upd
    | exact Or.inl (by assumption)
    | exact Or.inr rfl

theorem State.draw_touches {ps s x} (h : Touches ps s x) (p_draws : Part.draws ∈ ps := by assumption) :
    Touches ps s (State.draw x) := by
  unfold State.draw
  repeat' first
    | with_reducible assumption
    | intro _ _
    | intro _
    | split
    | dsimp only
    | with_reducible apply Touches.upd
    | exact Or.inl (by assumption)
    | exact Or.inr rfl

theorem State.viaHost_touches {ps s x} {a1 a2} (h2 : ∀ y, Touches ps s y → Touches ps s (a2 y)) (h : Touches ps s x) :
    Touches ps s (State.viaHost x a1 a2) := by
  unfold State.viaHost
  repeat' first
    | with_reducible assumption
    | intro _ _
    | intro _
    | apply h2
    | with_reducible apply Touches.choose

/-! ### Machine/Flags.lean -/

theorem State.msixEmit_touches {ps s x} {a1} (h : Touches ps s x) (p_outbox : Part.outbox ∈ ps := by assumption) :
    Touches ps s (State.msixEmit x a1) := by
  unfold State.msixEmit
  repeat' first
    | with_reducible assumption
    | intro _ _
    | intro _
    | with_reducible apply State.emit_touches

theorem State.msixSend_touches {ps s x} {a1}
    (h : Touches ps s x) (p_outbox : Part.outbox ∈ ps := by assumption) (p_host : Part.host ∈ ps := by assumption) :
    Touches ps s (State.msixSend x a1) := by
  unfold State.msixSend
  repeat' first
    | with_reducible assumption
    | intro _ _
    | intro _
    | with_reducible apply Touches.choose
    | with_reducible apply State.msixEmit_touches
    | split
    | dsimp only
    | with_reducible apply Touches.upd
    | exact Or.inl (by assumption)
    | exact Or.inr rfl

theorem State.msixRelease_touches {ps s x} {a1}
    (h : Touches ps s x) (p_outbox : Part.outbox ∈ ps := by assumption) (p_host : Part.host ∈ ps := by assumption) :
    Touches ps s (State.msixRelease x a1) := by
  unfold State.msixRelease
  repeat' first
    | with_reducible assumption
    | intro _ _
    | intro _
    | with_reducible apply Touches.choose
    | with_reducible apply State.msixEmit_touches
    | split
    | dsimp only
    | with_reducible apply Touches.upd
    | exact Or.inl (by assumption)
    | exact Or.inr rfl

theorem State.msixReleaseAll_touches {ps s x}
    (h : Touches ps s x) (p_outbox : Part.outbox ∈ ps := by assumption) (p_host : Part.host ∈ ps := by assumption) :
    Touches ps s (State.msixReleaseAll x) := by
  unfold State.msixReleaseAll
  repeat' first
    | with_reducible assumption
    | intro _ _
    | intro _
    | with_reducible apply Touches.upTo
    | with_reducible apply State.msixRelease_touches

theorem State.glbPend_touches {ps s x}
    (h : Touches ps s x) (p_regs : Part.regs ∈ ps := by assumption) (p_outbox : Part.outbox ∈ ps := by assumption) (p_host : Part.host ∈ ps := by assumption) :
    Touches ps s (State.glbPend x) := by
  unfold State.glbPend
  repeat' first
    | with_reducible assumption
    | intro _ _
    | intro _
    | with_reducible apply Touches.choose
    | with_reducible apply State.setB_touches
    | with_reducible apply State.msixSend_touches

theorem State.glbRaise_touches {ps s x} {a1}
    (h : Touches ps s x) (p_regs : Part.regs ∈ ps := by assumption) (p_outbox : Part.outbox ∈ ps := by assumption) (p_host : Part.host ∈ ps := by assumption) :
    Touches ps s (State.glbRaise x a1) := by
  unfold State.glbRaise
  repeat' first
    | with_reducible assumption
    | intro _ _
    | intro _
    | with_reducible apply Touches.choose
    | with_reducible apply State.glbPend_touches

theorem State.event_touches {ps s x} {a1 a2 a3 a4}
    (h : Touches ps s x) (p_regs : Part.regs ∈ ps := by assumption) (p_outbox : Part.outbox ∈ ps := by assumption) (p_host : Part.host ∈ ps := by assumption) :
    Touches ps s (State.event x a1 a2 a3 a4) := by
  unfold State.event
  repeat' first
    | with_reducible assumption
    | intro _ _
    | intro _
    | with_reducible apply Touches.choose
    | with_reducible apply State.when_touches
    | with_reducible apply State.setB_touches
    | with_reducible apply State.when_touches
    | with_reducible apply State.glbRaise_touches

theorem State.eventBit_touches {ps s x} {a1 a2 a3 a4}
    (h : Touches ps s x) (p_regs : Part.regs ∈ ps := by assumption) (p_outbox : Part.outbox ∈ ps := by assumption) (p_host : Part.host ∈ ps := by assumption) :
    Touches ps s (State.eventBit x a1 a2 a3 a4) := by
  unfold State.eventBit
  repeat' first
    | with_reducible assumption
    | intro _ _
    | intro _
    | with_reducible apply Touches.choose
    | with_reducible apply State.when_touches
    | with_reducible apply State.setBit_touches
    | with_reducible apply State.when_touches
    | with_reducible apply State.glbRaise_touches

theorem State.pwrEvent_touches {ps s x} {a1}
    (h : Touches ps s x) (p_regs : Part.regs ∈ ps := by assumption) (p_outbox : Part.outbox ∈ ps := by assumption) (p_host : Part.host ∈ ps := by assumption) :
    Touches ps s (State.pwrEvent x a1) := by
  unfold State.pwrEvent
  repeat' first
    | with_reducible assumption
    | intro _ _
    | intro _
    | with_reducible apply State.event_touches

theorem State.timeEvent_touches {ps s x} {a1}
    (h : Touches ps s x) (p_regs : Part.regs ∈ ps := by assumption) (p_outbox : Part.outbox ∈ ps := by assumption) (p_host : Part.host ∈ ps := by assumption) :
    Touches ps s (State.timeEvent x a1) := by
  unfold State.timeEvent
  repeat' first
    | with_reducible assumption
    | intro _ _
    | intro _
    | with_reducible apply State.event_touches

theorem State.hostEvent_touches {ps s x} {a1}
    (h : Touches ps s x) (p_regs : Part.regs ∈ ps := by assumption) (p_outbox : Part.outbox ∈ ps := by assumption) (p_host : Part.host ∈ ps := by assumption) :
    Touches ps s (State.hostEvent x a1) := by
  unfold State.hostEvent
  repeat' first
    | with_reducible assumption
    | intro _ _
    | intro _
    | with_reducible apply State.event_touches

theorem State.portEvent_touches {ps s x} {a1 a2 a3}
    (h : Touches ps s x) (p_regs : Part.regs ∈ ps := by assumption) (p_outbox : Part.outbox ∈ ps := by assumption) (p_host : Part.host ∈ ps := by assumption) :
    Touches ps s (State.portEvent x a1 a2 a3) := by
  unfold State.portEvent
  repeat' first
    | with_reducible assumption
    | intro _ _
    | intro _
    | with_reducible apply State.event_touches

theorem State.fault_touches {ps s x} {a1 a2 a3} (h : Touches ps s x) (p_flt : Part.flt ∈ ps := by assumption) :
    Touches ps s (State.fault x a1 a2 a3) := by
  unfold State.fault
  repeat' first
    | with_reducible assumption
    | intro _ _
    | intro _
    | split
    | dsimp only
    | with_reducible apply Touches.upd
    | exact Or.inl (by assumption)
    | exact Or.inr rfl

theorem State.faultInjected_touches {ps s x} {a1 a2 a3} (h : Touches ps s x) (p_flt : Part.flt ∈ ps := by assumption) :
    Touches ps s (State.faultInjected x a1 a2 a3) := by
  unfold State.faultInjected
  repeat' first
    | with_reducible assumption
    | intro _ _
    | intro _
    | split
    | dsimp only
    | with_reducible apply Touches.upd
    | exact Or.inl (by assumption)
    | exact Or.inr rfl

/-! ### Machine/ConfigWords.lean -/

theorem State.cfgStore_touches {ps s x} {a1 a2} (h : Touches ps s x) (p_host : Part.host ∈ ps := by assumption) :
    Touches ps s (State.cfgStore x a1 a2) := by
  unfold State.cfgStore
  repeat' first
    | with_reducible assumption
    | intro _ _
    | intro _
    | split
    | dsimp only
    | with_reducible apply Touches.upd
    | exact Or.inl (by assumption)
    | exact Or.inr rfl

/-! ### Machine/Power.lean -/

theorem State.setTrim_touches {ps s x} {a1 a2}
    (h : Touches ps s x) (p_regs : Part.regs ∈ ps := by assumption) (p_core : Part.core ∈ ps := by assumption) :
    Touches ps s (State.setTrim x a1 a2) := by
  unfold State.setTrim
  repeat' first
    | with_reducible assumption
    | intro _ _
    | intro _
    | with_reducible apply Touches.choose
    | with_reducible apply State.set_touches
    | split
    | dsimp only
    | with_reducible apply Touches.upd
    | exact Or.inl (by assumption)
    | exact Or.inr rfl

theorem State.refreshRow_touches {ps s x}
    (h : Touches ps s x) (p_regs : Part.regs ∈ ps := by assumption) (p_core : Part.core ∈ ps := by assumption) :
    Touches ps s (State.refreshRow x) := by
  unfold State.refreshRow
  repeat' first
    | with_reducible assumption
    | intro _ _
    | intro _
    | with_reducible apply State.set_touches
    | with_reducible apply State.setTrim_touches

theorem State.loopStep_touches {ps s x} {a1}
    (h : Touches ps s x) (p_regs : Part.regs ∈ ps := by assumption) (p_core : Part.core ∈ ps := by assumption) (p_flt : Part.flt ∈ ps := by assumption) :
    Touches ps s (State.loopStep x a1) := by
  unfold State.loopStep
  repeat' first
    | with_reducible assumption
    | intro _ _
    | intro _
    | with_reducible apply Touches.choose
    | with_reducible apply State.setB_touches
    | with_reducible apply State.inc_touches
    | with_reducible apply State.fault_touches
    | with_reducible apply State.setTrim_touches
    | split
    | dsimp only
    | with_reducible apply Touches.upd
    | exact Or.inl (by assumption)
    | exact Or.inr rfl

theorem State.loopEval_touches {ps s x}
    (h : Touches ps s x) (p_regs : Part.regs ∈ ps := by assumption) (p_core : Part.core ∈ ps := by assumption) (p_flt : Part.flt ∈ ps := by assumption) :
    Touches ps s (State.loopEval x) := by
  unfold State.loopEval
  repeat' first
    | with_reducible assumption
    | intro _ _
    | intro _
    | with_reducible apply Touches.choose
    | with_reducible apply State.set_touches
    | with_reducible apply State.loopStep_touches
    | split

theorem State.aseWindow_touches {ps s x}
    (h : Touches ps s x) (p_regs : Part.regs ∈ ps := by assumption) (p_pipe : Part.pipe ∈ ps := by assumption) :
    Touches ps s (State.aseWindow x) := by
  unfold State.aseWindow
  repeat' first
    | with_reducible assumption
    | intro _ _
    | intro _
    | with_reducible apply Touches.choose
    | with_reducible apply State.when_touches
    | with_reducible apply Touches.foldl
    | with_reducible apply Touches.foldl_snd
    | with_reducible apply Touches.foldl_fst
    | with_reducible apply Touches.foldl_third
    | with_reducible apply Touches.upTo
    | with_reducible apply State.set_touches
    | with_reducible apply State.inc_touches
    | with_reducible apply State.when_touches
    | split
    | dsimp only
    | with_reducible apply Touches.upd
    | exact Or.inl (by assumption)
    | exact Or.inr rfl

theorem State.trmWindow_touches {ps s x} {a1 a2 a3}
    (h : Touches ps s x) (p_regs : Part.regs ∈ ps := by assumption) (p_draws : Part.draws ∈ ps := by assumption) (p_core : Part.core ∈ ps := by assumption) (p_flt : Part.flt ∈ ps := by assumption) (p_pipe : Part.pipe ∈ ps := by assumption) :
    Touches ps s (State.trmWindow x a1 a2 a3) := by
  unfold State.trmWindow
  repeat' first
    | with_reducible assumption
    | intro _ _
    | intro _
    | with_reducible apply Touches.choose
    | with_reducible apply State.when_touches
    | with_reducible apply State.set_touches
    | with_reducible apply State.setB_touches
    | with_reducible apply State.when_touches
    | with_reducible apply State.draw_touches
    | with_reducible apply State.fault_touches
    | with_reducible apply State.loopEval_touches
    | with_reducible apply State.aseWindow_touches
    | split
    | dsimp only
    | with_reducible apply Touches.upd
    | exact Or.inl (by assumption)
    | exact Or.inr rfl

theorem State.vcoreSeen_touches {ps s x} {a1} (h : Touches ps s x) (p_core : Part.core ∈ ps := by assumption) :
    Touches ps s (State.vcoreSeen x a1) := by
  unfold State.vcoreSeen
  repeat' first
    | with_reducible assumption
    | intro _ _
    | intro _
    | with_reducible apply Touches.choose
    | split
    | dsimp only
    | with_reducible apply Touches.upd
    | exact Or.inl (by assumption)
    | exact Or.inr rfl

theorem State.droopSeen_touches {ps s x} {a1 a2}
    (h : Touches ps s x) (p_regs : Part.regs ∈ ps := by assumption) (p_core : Part.core ∈ ps := by assumption) :
    Touches ps s (State.droopSeen x a1 a2) := by
  unfold State.droopSeen
  repeat' first
    | with_reducible assumption
    | intro _ _
    | intro _
    | with_reducible apply Touches.choose
    | with_reducible apply State.inc_touches
    | with_reducible apply State.vcoreSeen_touches
    | split
    | dsimp only
    | with_reducible apply Touches.upd
    | exact Or.inl (by assumption)
    | exact Or.inr rfl

theorem State.droopEnd_touches {ps s x} {a1} (h : Touches ps s x) (p_core : Part.core ∈ ps := by assumption) :
    Touches ps s (State.droopEnd x a1) := by
  unfold State.droopEnd
  repeat' first
    | with_reducible assumption
    | intro _ _
    | intro _
    | with_reducible apply Touches.choose
    | split
    | dsimp only
    | with_reducible apply Touches.upd
    | exact Or.inl (by assumption)
    | exact Or.inr rfl

theorem State.slotUse_touches {ps s x} {a1} (h : Touches ps s x) (p_buf : Part.buf ∈ ps := by assumption) :
    Touches ps s (State.slotUse x a1) := by
  unfold State.slotUse
  repeat' first
    | with_reducible assumption
    | intro _ _
    | intro _
    | with_reducible apply Touches.choose
    | split
    | dsimp only
    | with_reducible apply Touches.upd
    | exact Or.inl (by assumption)
    | exact Or.inr rfl

theorem State.moveTo_touches {ps s x} {a1}
    (h : Touches ps s x) (p_regs : Part.regs ∈ ps := by assumption) (p_core : Part.core ∈ ps := by assumption) :
    Touches ps s (State.moveTo x a1) := by
  unfold State.moveTo
  repeat' first
    | with_reducible assumption
    | intro _ _
    | intro _
    | with_reducible apply Touches.choose
    | with_reducible apply State.set_touches
    | with_reducible apply State.setB_touches
    | split
    | dsimp only
    | with_reducible apply Touches.upd
    | exact Or.inl (by assumption)
    | exact Or.inr rfl

theorem State.retarget_touches {ps s x}
    (h : Touches ps s x) (p_regs : Part.regs ∈ ps := by assumption) (p_outbox : Part.outbox ∈ ps := by assumption) (p_core : Part.core ∈ ps := by assumption) (p_host : Part.host ∈ ps := by assumption) :
    Touches ps s (State.retarget x) := by
  unfold State.retarget
  repeat' first
    | with_reducible assumption
    | intro _ _
    | intro _
    | with_reducible apply State.when_touches
    | with_reducible apply Touches.foldl
    | with_reducible apply Touches.foldl_snd
    | with_reducible apply Touches.foldl_fst
    | with_reducible apply Touches.foldl_third
    | with_reducible apply State.set_touches
    | with_reducible apply State.when_touches
    | with_reducible apply State.pwrEvent_touches
    | with_reducible apply State.moveTo_touches

theorem State.assayEnd_touches {ps s x}
    (h : Touches ps s x) (p_regs : Part.regs ∈ ps := by assumption) (p_outbox : Part.outbox ∈ ps := by assumption) (p_core : Part.core ∈ ps := by assumption) (p_host : Part.host ∈ ps := by assumption) (p_assay : Part.assay ∈ ps := by assumption) :
    Touches ps s (State.assayEnd x) := by
  unfold State.assayEnd
  repeat' first
    | with_reducible assumption
    | intro _ _
    | intro _
    | with_reducible apply State.set_touches
    | with_reducible apply State.setB_touches
    | with_reducible apply State.event_touches
    | with_reducible apply State.retarget_touches
    | split
    | dsimp only
    | with_reducible apply Touches.upd
    | exact Or.inl (by assumption)
    | exact Or.inr rfl

theorem State.assayStop_touches {ps s x} {a1}
    (h : Touches ps s x) (p_regs : Part.regs ∈ ps := by assumption) (p_outbox : Part.outbox ∈ ps := by assumption) (p_core : Part.core ∈ ps := by assumption) (p_host : Part.host ∈ ps := by assumption) (p_assay : Part.assay ∈ ps := by assumption) :
    Touches ps s (State.assayStop x a1) := by
  unfold State.assayStop
  repeat' first
    | with_reducible assumption
    | intro _ _
    | intro _
    | with_reducible apply Touches.choose
    | with_reducible apply State.set_touches
    | with_reducible apply State.setB_touches
    | with_reducible apply State.assayEnd_touches

theorem State.assayWatch_touches {ps s x}
    (h : Touches ps s x) (p_regs : Part.regs ∈ ps := by assumption) (p_outbox : Part.outbox ∈ ps := by assumption) (p_core : Part.core ∈ ps := by assumption) (p_host : Part.host ∈ ps := by assumption) (p_assay : Part.assay ∈ ps := by assumption) :
    Touches ps s (State.assayWatch x) := by
  unfold State.assayWatch
  repeat' first
    | with_reducible assumption
    | intro _ _
    | intro _
    | with_reducible apply State.when_touches
    | with_reducible apply State.when_touches
    | with_reducible apply State.assayStop_touches

theorem State.opSettled_touches {ps s x} {a1}
    (h : Touches ps s x) (p_regs : Part.regs ∈ ps := by assumption) (p_core : Part.core ∈ ps := by assumption) :
    Touches ps s (State.opSettled x a1) := by
  unfold State.opSettled
  repeat' first
    | with_reducible assumption
    | intro _ _
    | intro _
    | with_reducible apply Touches.choose
    | with_reducible apply State.set_touches
    | with_reducible apply State.setB_touches
    | with_reducible apply State.refreshRow_touches
    | split
    | dsimp only
    | with_reducible apply Touches.upd
    | exact Or.inl (by assumption)
    | exact Or.inr rfl

theorem State.phaseApply_touches {ps s x} {a1}
    (h : Touches ps s x) (p_regs : Part.regs ∈ ps := by assumption) (p_outbox : Part.outbox ∈ ps := by assumption) (p_core : Part.core ∈ ps := by assumption) (p_pwr : Part.pwr ∈ ps := by assumption) (p_host : Part.host ∈ ps := by assumption) :
    Touches ps s (State.phaseApply x a1) := by
  unfold State.phaseApply
  repeat' first
    | with_reducible assumption
    | intro _ _
    | intro _
    | with_reducible apply State.set_touches
    | with_reducible apply State.inc_touches
    | with_reducible apply State.retarget_touches
    | split
    | dsimp only
    | with_reducible apply Touches.upd
    | exact Or.inl (by assumption)
    | exact Or.inr rfl

theorem State.phaseUndo_touches {ps s x} {a1}
    (h : Touches ps s x) (p_regs : Part.regs ∈ ps := by assumption) (p_pwr : Part.pwr ∈ ps := by assumption) :
    Touches ps s (State.phaseUndo x a1) := by
  unfold State.phaseUndo
  repeat' first
    | with_reducible assumption
    | intro _ _
    | intro _
    | with_reducible apply Touches.choose
    | with_reducible apply State.set_touches
    | split
    | dsimp only
    | with_reducible apply Touches.upd
    | exact Or.inl (by assumption)
    | exact Or.inr rfl

theorem State.phaseTake_touches {ps s x} {a1 a2}
    (h : Touches ps s x) (p_regs : Part.regs ∈ ps := by assumption) (p_outbox : Part.outbox ∈ ps := by assumption) (p_core : Part.core ∈ ps := by assumption) (p_pwr : Part.pwr ∈ ps := by assumption) (p_host : Part.host ∈ ps := by assumption) :
    Touches ps s (State.phaseTake x a1 a2) := by
  unfold State.phaseTake
  repeat' first
    | with_reducible assumption
    | intro _ _
    | intro _
    | with_reducible apply Touches.choose
    | with_reducible apply State.pwrEvent_touches
    | with_reducible apply State.phaseApply_touches
    | split
    | dsimp only
    | with_reducible apply Touches.upd
    | exact Or.inl (by assumption)
    | exact Or.inr rfl

theorem State.phaseSelect_touches {ps s x} {a1 a2}
    (h : Touches ps s x) (p_regs : Part.regs ∈ ps := by assumption) (p_outbox : Part.outbox ∈ ps := by assumption) (p_core : Part.core ∈ ps := by assumption) (p_pwr : Part.pwr ∈ ps := by assumption) (p_host : Part.host ∈ ps := by assumption) :
    Touches ps s (State.phaseSelect x a1 a2) := by
  unfold State.phaseSelect
  repeat' first
    | with_reducible assumption
    | intro _ _
    | intro _
    | with_reducible apply Touches.choose
    | with_reducible apply State.phaseUndo_touches
    | with_reducible apply State.phaseTake_touches
    | split

theorem State.phaseWrite_touches {ps s x} {a1 a2 a3}
    (h : Touches ps s x) (p_regs : Part.regs ∈ ps := by assumption) (p_outbox : Part.outbox ∈ ps := by assumption) (p_pwr : Part.pwr ∈ ps := by assumption) (p_host : Part.host ∈ ps := by assumption) :
    Touches ps s (State.phaseWrite x a1 a2 a3) := by
  unfold State.phaseWrite
  repeat' first
    | with_reducible assumption
    | intro _ _
    | intro _
    | with_reducible apply Touches.choose
    | with_reducible apply State.when_touches
    | with_reducible apply State.set_touches
    | with_reducible apply State.when_touches
    | with_reducible apply State.pwrEvent_touches
    | split
    | dsimp only
    | with_reducible apply Touches.upd
    | exact Or.inl (by assumption)
    | exact Or.inr rfl

theorem State.vinSample_touches {ps s x} {a1 a2 a3}
    (h : Touches ps s x) (p_regs : Part.regs ∈ ps := by assumption) (p_outbox : Part.outbox ∈ ps := by assumption) (p_core : Part.core ∈ ps := by assumption) (p_pwr : Part.pwr ∈ ps := by assumption) (p_flt : Part.flt ∈ ps := by assumption) (p_host : Part.host ∈ ps := by assumption) (p_assay : Part.assay ∈ ps := by assumption) :
    Touches ps s (State.vinSample x a1 a2 a3) := by
  unfold State.vinSample
  repeat' first
    | with_reducible assumption
    | intro _ _
    | intro _
    | with_reducible apply Touches.choose
    | with_reducible apply State.when_touches
    | with_reducible apply State.setB_touches
    | with_reducible apply State.when_touches
    | with_reducible apply State.pwrEvent_touches
    | with_reducible apply State.fault_touches
    | with_reducible apply State.assayWatch_touches
    | split
    | dsimp only
    | with_reducible apply Touches.upd
    | exact Or.inl (by assumption)
    | exact Or.inr rfl

theorem State.railSample_touches {ps s x} {a1 a2 a3 a4}
    (h : Touches ps s x) (p_regs : Part.regs ∈ ps := by assumption) (p_outbox : Part.outbox ∈ ps := by assumption) (p_core : Part.core ∈ ps := by assumption) (p_pwr : Part.pwr ∈ ps := by assumption) (p_flt : Part.flt ∈ ps := by assumption) (p_act : Part.act ∈ ps := by assumption) (p_host : Part.host ∈ ps := by assumption) (p_assay : Part.assay ∈ ps := by assumption) (p_pins : Part.pins ∈ ps := by assumption) :
    Touches ps s (State.railSample x a1 a2 a3 a4) := by
  unfold State.railSample
  repeat' first
    | with_reducible assumption
    | intro _ _
    | intro _
    | with_reducible apply Touches.choose
    | with_reducible apply State.when_touches
    | with_reducible apply State.set_touches
    | with_reducible apply State.when_touches
    | with_reducible apply State.fault_touches
    | with_reducible apply State.vcoreSeen_touches
    | with_reducible apply State.vinSample_touches
    | split
    | dsimp only
    | with_reducible apply Touches.upd
    | exact Or.inl (by assumption)
    | exact Or.inr rfl

theorem State.measFlags_touches {ps s x} {a1 a2 a3}
    (h : Touches ps s x) (p_regs : Part.regs ∈ ps := by assumption) (p_pwr : Part.pwr ∈ ps := by assumption) (p_flt : Part.flt ∈ ps := by assumption) :
    Touches ps s (State.measFlags x a1 a2 a3) := by
  unfold State.measFlags
  repeat' first
    | with_reducible assumption
    | intro _ _
    | intro _
    | with_reducible apply Touches.choose
    | with_reducible apply State.when_touches
    | with_reducible apply State.setB_touches
    | with_reducible apply State.when_touches
    | with_reducible apply State.fault_touches
    | split
    | dsimp only
    | with_reducible apply Touches.upd
    | exact Or.inl (by assumption)
    | exact Or.inr rfl

theorem State.setBubbles_touches {ps s x} {a1}
    (h : Touches ps s x) (p_regs : Part.regs ∈ ps := by assumption) (p_outbox : Part.outbox ∈ ps := by assumption) (p_pwr : Part.pwr ∈ ps := by assumption) (p_host : Part.host ∈ ps := by assumption) :
    Touches ps s (State.setBubbles x a1) := by
  unfold State.setBubbles
  repeat' first
    | with_reducible assumption
    | intro _ _
    | intro _
    | with_reducible apply State.when_touches
    | with_reducible apply State.set_touches
    | with_reducible apply State.setB_touches
    | with_reducible apply State.when_touches
    | with_reducible apply State.pwrEvent_touches
    | split
    | dsimp only
    | with_reducible apply Touches.upd
    | exact Or.inl (by assumption)
    | exact Or.inr rfl

theorem State.qLimitStep_touches {ps s x} {a1 a2}
    (h : Touches ps s x) (p_regs : Part.regs ∈ ps := by assumption) (p_outbox : Part.outbox ∈ ps := by assumption) (p_core : Part.core ∈ ps := by assumption) (p_pwr : Part.pwr ∈ ps := by assumption) (p_host : Part.host ∈ ps := by assumption) :
    Touches ps s (State.qLimitStep x a1 a2) := by
  unfold State.qLimitStep
  repeat' first
    | with_reducible assumption
    | intro _ _
    | intro _
    | with_reducible apply Touches.choose
    | with_reducible apply State.set_touches
    | with_reducible apply State.retarget_touches
    | split
    | dsimp only
    | with_reducible apply Touches.upd
    | exact Or.inl (by assumption)
    | exact Or.inr rfl

theorem State.reloadPhase_touches {ps s x} (h : Touches ps s x) (p_pwr : Part.pwr ∈ ps := by assumption) :
    Touches ps s (State.reloadPhase x) := by
  unfold State.reloadPhase
  repeat' first
    | with_reducible assumption
    | intro _ _
    | intro _
    | split
    | dsimp only
    | with_reducible apply Touches.upd
    | exact Or.inl (by assumption)
    | exact Or.inr rfl

theorem State.powerWindow_touches {ps s x}
    (h : Touches ps s x) (p_regs : Part.regs ∈ ps := by assumption) (p_outbox : Part.outbox ∈ ps := by assumption) (p_core : Part.core ∈ ps := by assumption) (p_pwr : Part.pwr ∈ ps := by assumption) (p_flt : Part.flt ∈ ps := by assumption) (p_act : Part.act ∈ ps := by assumption) (p_host : Part.host ∈ ps := by assumption) :
    Touches ps s (State.powerWindow x) := by
  unfold State.powerWindow
  repeat' first
    | with_reducible assumption
    | intro _ _
    | intro _
    | with_reducible apply Touches.choose
    | with_reducible apply State.set_touches
    | with_reducible apply State.retarget_touches
    | with_reducible apply State.measFlags_touches
    | with_reducible apply State.setBubbles_touches
    | with_reducible apply State.qLimitStep_touches
    | with_reducible apply State.reloadPhase_touches
    | split
    | dsimp only
    | with_reducible apply Touches.upd
    | exact Or.inl (by assumption)
    | exact Or.inr rfl

theorem State.energyWindow_touches {ps s x}
    (h : Touches ps s x) (p_regs : Part.regs ∈ ps := by assumption) (p_flt : Part.flt ∈ ps := by assumption) (p_act : Part.act ∈ ps := by assumption) :
    Touches ps s (State.energyWindow x) := by
  unfold State.energyWindow
  repeat' first
    | with_reducible assumption
    | intro _ _
    | intro _
    | with_reducible apply Touches.choose
    | with_reducible apply State.when_touches
    | with_reducible apply State.set_touches
    | with_reducible apply State.setB_touches
    | with_reducible apply State.when_touches
    | with_reducible apply State.fault_touches
    | split
    | dsimp only
    | with_reducible apply Touches.upd
    | exact Or.inl (by assumption)
    | exact Or.inr rfl

theorem State.sensorState_touches {ps s x} {a1 a2}
    (h : Touches ps s x) (p_regs : Part.regs ∈ ps := by assumption) (p_outbox : Part.outbox ∈ ps := by assumption) (p_flt : Part.flt ∈ ps := by assumption) (p_host : Part.host ∈ ps := by assumption) :
    Touches ps s (State.sensorState x a1 a2) := by
  unfold State.sensorState
  repeat' first
    | with_reducible assumption
    | intro _ _
    | intro _
    | with_reducible apply State.when_touches
    | with_reducible apply State.setB_touches
    | with_reducible apply State.when_touches
    | with_reducible apply State.pwrEvent_touches
    | with_reducible apply State.fault_touches

theorem State.sensorRead_touches {ps s x} {a1 a2}
    (h : Touches ps s x) (p_regs : Part.regs ∈ ps := by assumption) (p_outbox : Part.outbox ∈ ps := by assumption) (p_pwr : Part.pwr ∈ ps := by assumption) (p_flt : Part.flt ∈ ps := by assumption) (p_host : Part.host ∈ ps := by assumption) :
    Touches ps s (State.sensorRead x a1 a2) := by
  unfold State.sensorRead
  repeat' first
    | with_reducible assumption
    | intro _ _
    | intro _
    | with_reducible apply State.set_touches
    | with_reducible apply State.sensorState_touches
    | split
    | dsimp only
    | with_reducible apply Touches.upd
    | exact Or.inl (by assumption)
    | exact Or.inr rfl

theorem State.sensorsLate_touches {ps s x}
    (h : Touches ps s x) (p_regs : Part.regs ∈ ps := by assumption) (p_outbox : Part.outbox ∈ ps := by assumption) (p_flt : Part.flt ∈ ps := by assumption) (p_host : Part.host ∈ ps := by assumption) :
    Touches ps s (State.sensorsLate x) := by
  unfold State.sensorsLate
  repeat' first
    | with_reducible assumption
    | intro _ _
    | intro _
    | with_reducible apply Touches.choose
    | with_reducible apply Touches.upTo
    | with_reducible apply State.sensorState_touches

theorem State.showThermLevel_touches {ps s x} (h : Touches ps s x) (p_regs : Part.regs ∈ ps := by assumption) :
    Touches ps s (State.showThermLevel x) := by
  unfold State.showThermLevel
  repeat' first
    | with_reducible assumption
    | intro _ _
    | intro _
    | with_reducible apply Touches.foldl
    | with_reducible apply Touches.foldl_snd
    | with_reducible apply Touches.foldl_fst
    | with_reducible apply Touches.foldl_third
    | with_reducible apply State.set_touches

theorem State.judgeGroup_touches {ps s x} {a1}
    (h : Touches ps s x) (p_regs : Part.regs ∈ ps := by assumption) (p_outbox : Part.outbox ∈ ps := by assumption) (p_pwr : Part.pwr ∈ ps := by assumption) (p_flt : Part.flt ∈ ps := by assumption) (p_host : Part.host ∈ ps := by assumption) :
    Touches ps s (State.judgeGroup x a1) := by
  unfold State.judgeGroup
  repeat' first
    | with_reducible assumption
    | intro _ _
    | intro _
    | with_reducible apply Touches.choose
    | with_reducible apply State.when_touches
    | with_reducible apply State.set_touches
    | with_reducible apply State.when_touches
    | with_reducible apply State.pwrEvent_touches
    | with_reducible apply State.fault_touches
    | split
    | dsimp only
    | with_reducible apply Touches.upd
    | exact Or.inl (by assumption)
    | exact Or.inr rfl

theorem State.leaveQuench_touches {ps s x}
    (h : Touches ps s x) (p_regs : Part.regs ∈ ps := by assumption) (p_pwr : Part.pwr ∈ ps := by assumption) :
    Touches ps s (State.leaveQuench x) := by
  unfold State.leaveQuench
  repeat' first
    | with_reducible assumption
    | intro _ _
    | intro _
    | with_reducible apply Touches.choose
    | with_reducible apply Touches.upTo
    | with_reducible apply State.set_touches
    | split
    | dsimp only
    | with_reducible apply Touches.upd
    | exact Or.inl (by assumption)
    | exact Or.inr rfl

theorem State.tempSample_touches {ps s x} {a1}
    (h : Touches ps s x) (p_regs : Part.regs ∈ ps := by assumption) (p_outbox : Part.outbox ∈ ps := by assumption) (p_core : Part.core ∈ ps := by assumption) (p_pwr : Part.pwr ∈ ps := by assumption) (p_flt : Part.flt ∈ ps := by assumption) (p_host : Part.host ∈ ps := by assumption) (p_assay : Part.assay ∈ ps := by assumption) :
    Touches ps s (State.tempSample x a1) := by
  unfold State.tempSample
  repeat' first
    | with_reducible assumption
    | intro _ _
    | intro _
    | with_reducible apply Touches.foldl
    | with_reducible apply Touches.foldl_snd
    | with_reducible apply Touches.foldl_fst
    | with_reducible apply Touches.foldl_third
    | with_reducible apply Touches.upTo
    | with_reducible apply State.retarget_touches
    | with_reducible apply State.assayWatch_touches
    | with_reducible apply State.sensorRead_touches
    | with_reducible apply State.sensorsLate_touches
    | with_reducible apply State.showThermLevel_touches
    | with_reducible apply State.judgeGroup_touches
    | with_reducible apply State.leaveQuench_touches

theorem State.thermalStep_touches {ps s x}
    (h : Touches ps s x) (p_regs : Part.regs ∈ ps := by assumption) (p_outbox : Part.outbox ∈ ps := by assumption) (p_core : Part.core ∈ ps := by assumption) (p_pwr : Part.pwr ∈ ps := by assumption) (p_host : Part.host ∈ ps := by assumption) :
    Touches ps s (State.thermalStep x) := by
  unfold State.thermalStep
  repeat' first
    | with_reducible assumption
    | intro _ _
    | intro _
    | with_reducible apply Touches.choose
    | with_reducible apply State.set_touches
    | with_reducible apply State.retarget_touches
    | with_reducible apply State.setBubbles_touches
    | split
    | dsimp only
    | with_reducible apply Touches.upd
    | exact Or.inl (by assumption)
    | exact Or.inr rfl

/-! ### Machine/Anvil.lean -/

theorem State.storePut_touches {ps s x} {a1 a2}
    (h : Touches ps s x) (p_regs : Part.regs ∈ ps := by assumption) (p_dev : Part.dev ∈ ps := by assumption) (p_flt : Part.flt ∈ ps := by assumption) :
    Touches ps s (State.storePut x a1 a2) := by
  unfold State.storePut
  repeat' first
    | with_reducible assumption
    | intro _ _
    | intro _
    | with_reducible apply State.inc_touches
    | with_reducible apply State.memStore_touches

theorem State.storeRemap_touches {ps s x} {a1}
    (h : Touches ps s x) (p_regs : Part.regs ∈ ps := by assumption) (p_flt : Part.flt ∈ ps := by assumption) (p_anvil : Part.anvil ∈ ps := by assumption) :
    Touches ps s (State.storeRemap x a1) := by
  unfold State.storeRemap
  repeat' first
    | with_reducible assumption
    | intro _ _
    | intro _
    | with_reducible apply State.when_touches
    | with_reducible apply State.setB_touches
    | with_reducible apply State.when_touches
    | with_reducible apply State.fault_touches
    | split
    | dsimp only
    | with_reducible apply Touches.upd
    | exact Or.inl (by assumption)
    | exact Or.inr rfl

theorem State.storeSettle_touches {ps s n x a l}
    (h : Touches ps s x) (p_regs : Part.regs ∈ ps := by assumption) (p_dev : Part.dev ∈ ps := by assumption) (p_flt : Part.flt ∈ ps := by assumption) (p_anvil : Part.anvil ∈ ps := by assumption) :
    Touches ps s (State.storeSettle n x a l).1 := by
  induction n generalizing x with
  | zero => exact h
  | succ n ih =>
    simp only [State.storeSettle]
    split
    · exact h
    · split
      · exact h
      · exact ih (State.storePut_touches (State.storeRemap_touches h))

theorem State.storeWrite_touches {ps s x} {a1 a2 a3}
    (h : Touches ps s x) (p_regs : Part.regs ∈ ps := by assumption) (p_dev : Part.dev ∈ ps := by assumption) (p_flt : Part.flt ∈ ps := by assumption) (p_anvil : Part.anvil ∈ ps := by assumption) :
    Touches ps s (State.storeWrite x a1 a2 a3).1 := by
  unfold State.storeWrite
  repeat' first
    | with_reducible assumption
    | intro _ _
    | intro _
    | with_reducible apply Touches.choose
    | with_reducible apply State.storePut_touches
    | with_reducible apply State.storeRemap_touches
    | with_reducible apply State.storeSettle_touches
    | split
    | dsimp only
theorem State.storeWrite_touchesE {ps s x} {a1 a2 a3} {t r1} (e : State.storeWrite x a1 a2 a3 = (t, r1))
    (h : Touches ps s x) (p_regs : Part.regs ∈ ps := by assumption) (p_dev : Part.dev ∈ ps := by assumption) (p_flt : Part.flt ∈ ps := by assumption) (p_anvil : Part.anvil ∈ ps := by assumption) :
    Touches ps s t := by
  have k := State.storeWrite_touches (ps := ps) (s := s) (x := x) (a1 := a1) (a2 := a2) (a3 := a3) h
  rwa [e] at k

theorem State.journalWrite_touches {ps s x} {a1 a2 a3}
    (h : Touches ps s x) (p_regs : Part.regs ∈ ps := by assumption) (p_dev : Part.dev ∈ ps := by assumption) (p_flt : Part.flt ∈ ps := by assumption) (p_anvil : Part.anvil ∈ ps := by assumption) :
    Touches ps s (State.journalWrite x a1 a2 a3) := by
  unfold State.journalWrite
  repeat' first
    | with_reducible assumption
    | intro _ _
    | intro _
    | with_reducible apply Touches.choose
    | with_reducible apply State.storePut_touches
    | with_reducible apply State.storeWrite_touches
    | refine State.storeWrite_touchesE (by with_reducible assumption) ?_
    | split
    | dsimp only
    | with_reducible apply Touches.upd
    | exact Or.inl (by assumption)
    | exact Or.inr rfl

theorem State.showBanks_touches {ps s x} (h : Touches ps s x) (p_regs : Part.regs ∈ ps := by assumption) :
    Touches ps s (State.showBanks x) := by
  unfold State.showBanks
  repeat' first
    | with_reducible assumption
    | intro _ _
    | intro _
    | with_reducible apply State.set_touches
    | with_reducible apply State.setB_touches

theorem State.commitWrite_touches {ps s x} {a1 a2 a3}
    (h : Touches ps s x) (p_regs : Part.regs ∈ ps := by assumption) (p_dev : Part.dev ∈ ps := by assumption) (p_flt : Part.flt ∈ ps := by assumption) (p_anvil : Part.anvil ∈ ps := by assumption) :
    Touches ps s (State.commitWrite x a1 a2 a3) := by
  unfold State.commitWrite
  repeat' first
    | with_reducible assumption
    | intro _ _
    | intro _
    | with_reducible apply State.journalWrite_touches
    | with_reducible apply State.showBanks_touches

theorem State.bootPrefWrite_touches {ps s x} {a1}
    (h : Touches ps s x) (p_regs : Part.regs ∈ ps := by assumption) (p_dev : Part.dev ∈ ps := by assumption) (p_flt : Part.flt ∈ ps := by assumption) (p_anvil : Part.anvil ∈ ps := by assumption) :
    Touches ps s (State.bootPrefWrite x a1) := by
  unfold State.bootPrefWrite
  repeat' first
    | with_reducible assumption
    | intro _ _
    | intro _
    | with_reducible apply State.set_touches
    | with_reducible apply State.journalWrite_touches

theorem State.hoursCommit_touches {ps s x} {a1}
    (h : Touches ps s x) (p_regs : Part.regs ∈ ps := by assumption) (p_dev : Part.dev ∈ ps := by assumption) (p_flt : Part.flt ∈ ps := by assumption) (p_anvil : Part.anvil ∈ ps := by assumption) :
    Touches ps s (State.hoursCommit x a1) := by
  unfold State.hoursCommit
  repeat' first
    | with_reducible assumption
    | intro _ _
    | intro _
    | with_reducible apply State.journalWrite_touches

theorem State.storeSense_touches {ps s x} (h : Touches ps s x) (p_regs : Part.regs ∈ ps := by assumption) :
    Touches ps s (State.storeSense x) := by
  unfold State.storeSense
  repeat' first
    | with_reducible assumption
    | intro _ _
    | intro _
    | with_reducible apply Touches.choose
    | with_reducible apply Touches.upTo
    | with_reducible apply State.set_touches
    | with_reducible apply State.setB_touches
    | with_reducible apply State.showBanks_touches

theorem State.mcLast_touches {ps s x} {a1 a2 a3 a4} (h : Touches ps s x) (p_regs : Part.regs ∈ ps := by assumption) :
    Touches ps s (State.mcLast x a1 a2 a3 a4) := by
  unfold State.mcLast
  repeat' first
    | with_reducible assumption
    | intro _ _
    | intro _
    | with_reducible apply State.set_touches
    | with_reducible apply State.setB_touches
    | with_reducible apply State.inc_touches

theorem State.mcCorrected_touches {ps s x} {a1 a2}
    (h : Touches ps s x) (p_regs : Part.regs ∈ ps := by assumption) (p_flt : Part.flt ∈ ps := by assumption) (p_anvil : Part.anvil ∈ ps := by assumption) :
    Touches ps s (State.mcCorrected x a1 a2) := by
  unfold State.mcCorrected
  repeat' first
    | with_reducible assumption
    | intro _ _
    | intro _
    | with_reducible apply Touches.choose
    | with_reducible apply State.set_touches
    | with_reducible apply State.setB_touches
    | with_reducible apply State.fault_touches
    | with_reducible apply State.mcLast_touches
    | split
    | dsimp only
    | with_reducible apply Touches.upd
    | exact Or.inl (by assumption)
    | exact Or.inr rfl

theorem State.routineRestart_touches {ps s x} {a1}
    (h : Touches ps s x) (p_anvil : Part.anvil ∈ ps := by assumption) (p_buf : Part.buf ∈ ps := by assumption) :
    Touches ps s (State.routineRestart x a1) := by
  unfold State.routineRestart
  repeat' first
    | with_reducible assumption
    | intro _ _
    | intro _
    | with_reducible apply Touches.choose
    | split
    | dsimp only
    | with_reducible apply Touches.upd
    | exact Or.inl (by assumption)
    | exact Or.inr rfl

theorem State.mcFailed_touches {ps s x} {a1 a2}
    (h : Touches ps s x) (p_regs : Part.regs ∈ ps := by assumption) (p_flt : Part.flt ∈ ps := by assumption) (p_anvil : Part.anvil ∈ ps := by assumption) (p_buf : Part.buf ∈ ps := by assumption) :
    Touches ps s (State.mcFailed x a1 a2) := by
  unfold State.mcFailed
  repeat' first
    | with_reducible assumption
    | intro _ _
    | intro _
    | with_reducible apply State.when_touches
    | with_reducible apply State.setB_touches
    | with_reducible apply State.setBit_touches
    | with_reducible apply State.when_touches
    | with_reducible apply State.fault_touches
    | with_reducible apply State.mcLast_touches
    | with_reducible apply State.routineRestart_touches
    | split
    | dsimp only
    | with_reducible apply Touches.upd
    | exact Or.inl (by assumption)
    | exact Or.inr rfl

theorem State.anvilOwn_touches {ps s x} {a1 a2} (h2 : ∀ y, Touches ps s y → Touches ps s (a2 y))
    (h : Touches ps s x) (p_regs : Part.regs ∈ ps := by assumption) (p_flt : Part.flt ∈ ps := by assumption) (p_anvil : Part.anvil ∈ ps := by assumption) (p_buf : Part.buf ∈ ps := by assumption) :
    Touches ps s (State.anvilOwn x a1 a2) := by
  unfold State.anvilOwn
  repeat' first
    | with_reducible assumption
    | intro _ _
    | intro _
    | apply h2
    | with_reducible apply State.mcCorrected_touches
    | with_reducible apply State.mcFailed_touches
    | split

theorem State.stepTake_touches {ps s x} {a1} (h : Touches ps s x) (p_anvil : Part.anvil ∈ ps := by assumption) :
    Touches ps s (State.stepTake x a1) := by
  unfold State.stepTake
  repeat' first
    | with_reducible assumption
    | intro _ _
    | intro _
    | with_reducible apply Touches.choose
    | split
    | dsimp only
    | with_reducible apply Touches.upd
    | exact Or.inl (by assumption)
    | exact Or.inr rfl

theorem State.accessWaits_touches {ps s x} {a1} (h : Touches ps s x) (p_anvil : Part.anvil ∈ ps := by assumption) :
    Touches ps s (State.accessWaits x a1) := by
  unfold State.accessWaits
  repeat' first
    | with_reducible assumption
    | intro _ _
    | intro _
    | with_reducible apply Touches.choose
    | split
    | dsimp only
    | with_reducible apply Touches.upd
    | exact Or.inl (by assumption)
    | exact Or.inr rfl

theorem State.accessGranted_touches {ps s x} {a1} (h : Touches ps s x) (p_anvil : Part.anvil ∈ ps := by assumption) :
    Touches ps s (State.accessGranted x a1) := by
  unfold State.accessGranted
  repeat' first
    | with_reducible assumption
    | intro _ _
    | intro _
    | split
    | dsimp only
    | with_reducible apply Touches.upd
    | exact Or.inl (by assumption)
    | exact Or.inr rfl

theorem State.anvilStep_touches {ps s x} {a1 a2 a3} (h3 : ∀ y, Touches ps s y → Touches ps s (a3 y))
    (h : Touches ps s x) (p_regs : Part.regs ∈ ps := by assumption) (p_flt : Part.flt ∈ ps := by assumption) (p_anvil : Part.anvil ∈ ps := by assumption) (p_buf : Part.buf ∈ ps := by assumption) :
    Touches ps s (State.anvilStep x a1 a2 a3) := by
  unfold State.anvilStep
  repeat' first
    | with_reducible assumption
    | intro _ _
    | intro _
    | apply h3
    | with_reducible apply Touches.choose
    | with_reducible apply State.mcCorrected_touches
    | with_reducible apply State.mcFailed_touches
    | with_reducible apply State.stepTake_touches
    | with_reducible apply State.accessWaits_touches
    | with_reducible apply State.accessGranted_touches
    | split
    | dsimp only

theorem State.bgStarved_touches {ps s x} {a1}
    (h : Touches ps s x) (p_regs : Part.regs ∈ ps := by assumption) (p_flt : Part.flt ∈ ps := by assumption) (p_anvil : Part.anvil ∈ ps := by assumption) :
    Touches ps s (State.bgStarved x a1) := by
  unfold State.bgStarved
  repeat' first
    | with_reducible assumption
    | intro _ _
    | intro _
    | with_reducible apply Touches.choose
    | with_reducible apply State.inc_touches
    | with_reducible apply State.fault_touches
    | split
    | dsimp only
    | with_reducible apply Touches.upd
    | exact Or.inl (by assumption)
    | exact Or.inr rfl

theorem State.trapEnter_touches {ps s x} {a1}
    (h : Touches ps s x) (p_regs : Part.regs ∈ ps := by assumption) (p_flt : Part.flt ∈ ps := by assumption) (p_anvil : Part.anvil ∈ ps := by assumption) (p_buf : Part.buf ∈ ps := by assumption) :
    Touches ps s (State.trapEnter x a1) := by
  unfold State.trapEnter
  repeat' first
    | with_reducible assumption
    | intro _ _
    | intro _
    | with_reducible apply State.inc_touches
    | with_reducible apply State.anvilOwn_touches
    | split
    | dsimp only
    | with_reducible apply Touches.upd
    | exact Or.inl (by assumption)
    | exact Or.inr rfl

theorem State.trapReturn_touches {ps s x} (h : Touches ps s x) (p_anvil : Part.anvil ∈ ps := by assumption) :
    Touches ps s (State.trapReturn x) := by
  unfold State.trapReturn
  repeat' first
    | with_reducible assumption
    | intro _ _
    | intro _
    | split
    | dsimp only
    | with_reducible apply Touches.upd
    | exact Or.inl (by assumption)
    | exact Or.inr rfl

theorem State.anvilTrap_touches {ps s x} {a1 a2}
    (h : Touches ps s x) (p_regs : Part.regs ∈ ps := by assumption) (p_flt : Part.flt ∈ ps := by assumption) (p_anvil : Part.anvil ∈ ps := by assumption) (p_buf : Part.buf ∈ ps := by assumption) :
    Touches ps s (State.anvilTrap x a1 a2) := by
  unfold State.anvilTrap
  repeat' first
    | with_reducible assumption
    | intro _ _
    | intro _
    | with_reducible apply Touches.choose
    | with_reducible apply Touches.iterate
    | with_reducible apply State.trapEnter_touches
    | with_reducible apply State.trapReturn_touches
    | split
    | dsimp only
    | with_reducible apply Touches.upd
    | exact Or.inl (by assumption)
    | exact Or.inr rfl

theorem State.hoursStep_touches {ps s x} {a1 a2}
    (h : Touches ps s x) (p_regs : Part.regs ∈ ps := by assumption) (p_dev : Part.dev ∈ ps := by assumption) (p_core : Part.core ∈ ps := by assumption) (p_pwr : Part.pwr ∈ ps := by assumption) (p_flt : Part.flt ∈ ps := by assumption) (p_anvil : Part.anvil ∈ ps := by assumption) (p_buf : Part.buf ∈ ps := by assumption) :
    Touches ps s (State.hoursStep x a1 a2) := by
  unfold State.hoursStep
  repeat' first
    | with_reducible assumption
    | intro _ _
    | intro _
    | with_reducible apply Touches.choose
    | with_reducible apply State.set_touches
    | with_reducible apply State.refreshRow_touches
    | with_reducible apply State.hoursCommit_touches
    | with_reducible apply State.anvilOwn_touches
    | split
    | dsimp only
    | with_reducible apply Touches.upd
    | exact Or.inl (by assumption)
    | exact Or.inr rfl

theorem State.variantSwitch_touches {ps s x} {a1}
    (h : Touches ps s x) (p_regs : Part.regs ∈ ps := by assumption) (p_anvil : Part.anvil ∈ ps := by assumption) :
    Touches ps s (State.variantSwitch x a1) := by
  unfold State.variantSwitch
  repeat' first
    | with_reducible assumption
    | intro _ _
    | intro _
    | with_reducible apply State.set_touches
    | split
    | dsimp only
    | with_reducible apply Touches.upd
    | exact Or.inl (by assumption)
    | exact Or.inr rfl

theorem State.shareWrite_touches {ps s x} {a1 a2} (h : Touches ps s x) (p_regs : Part.regs ∈ ps := by assumption) :
    Touches ps s (State.shareWrite x a1 a2) := by
  unfold State.shareWrite
  repeat' first
    | with_reducible assumption
    | intro _ _
    | intro _
    | with_reducible apply Touches.choose
    | with_reducible apply Touches.foldl
    | with_reducible apply Touches.foldl_snd
    | with_reducible apply Touches.foldl_fst
    | with_reducible apply Touches.foldl_third
    | with_reducible apply State.set_touches

theorem State.passEnd_touches {ps s x} {a1} (h : Touches ps s x) (p_anvil : Part.anvil ∈ ps := by assumption) :
    Touches ps s (State.passEnd x a1).2 := by
  unfold State.passEnd
  repeat' first
    | with_reducible assumption
    | intro _ _
    | intro _
    | split
    | dsimp only
    | with_reducible apply Touches.upd
    | exact Or.inl (by assumption)
    | exact Or.inr rfl
theorem State.passEnd_touchesE {ps s x} {a1} {r0 t} (e : State.passEnd x a1 = (r0, t))
    (h : Touches ps s x) (p_anvil : Part.anvil ∈ ps := by assumption) :
    Touches ps s t := by
  have k := State.passEnd_touches (ps := ps) (s := s) (x := x) (a1 := a1) h
  rwa [e] at k

theorem State.coverMiss_touches {ps s x} {a1}
    (h : Touches ps s x) (p_regs : Part.regs ∈ ps := by assumption) (p_flt : Part.flt ∈ ps := by assumption) :
    Touches ps s (State.coverMiss x a1) := by
  unfold State.coverMiss
  repeat' first
    | with_reducible assumption
    | intro _ _
    | intro _
    | with_reducible apply State.setBit_touches
    | with_reducible apply State.fault_touches

theorem State.applyAnvil_touches {ps s x} {a1}
    (h : Touches ps s x) (p_regs : Part.regs ∈ ps := by assumption) (p_anvil : Part.anvil ∈ ps := by assumption) :
    Touches ps s (State.applyAnvil x a1) := by
  unfold State.applyAnvil
  repeat' first
    | with_reducible assumption
    | intro _ _
    | intro _
    | with_reducible apply Touches.choose
    | with_reducible apply Touches.foldl
    | with_reducible apply Touches.foldl_snd
    | with_reducible apply Touches.foldl_fst
    | with_reducible apply Touches.foldl_third
    | with_reducible apply Touches.upTo
    | with_reducible apply State.set_touches
    | with_reducible apply State.setB_touches
    | split
    | dsimp only
    | with_reducible apply Touches.upd
    | exact Or.inl (by assumption)
    | exact Or.inr rfl

/-! ### Machine/Rings.lean -/

theorem State.ringPend_touches {ps s x} {a1}
    (h : Touches ps s x) (p_regs : Part.regs ∈ ps := by assumption) (p_outbox : Part.outbox ∈ ps := by assumption) (p_host : Part.host ∈ ps := by assumption) :
    Touches ps s (State.ringPend x a1) := by
  unfold State.ringPend
  repeat' first
    | with_reducible assumption
    | intro _ _
    | intro _
    | with_reducible apply Touches.choose
    | with_reducible apply State.setB_touches
    | with_reducible apply State.msixSend_touches
    | split
    | dsimp only
    | with_reducible apply Touches.upd
    | exact Or.inl (by assumption)
    | exact Or.inr rfl

theorem State.ringComplete_touches {ps s x} {a1 a2 a3 a4}
    (h : Touches ps s x) (p_regs : Part.regs ∈ ps := by assumption) (p_dev : Part.dev ∈ ps := by assumption) (p_outbox : Part.outbox ∈ ps := by assumption) (p_flt : Part.flt ∈ ps := by assumption) (p_host : Part.host ∈ ps := by assumption) :
    Touches ps s (State.ringComplete x a1 a2 a3 a4) := by
  unfold State.ringComplete
  repeat' first
    | with_reducible assumption
    | intro _ _
    | intro _
    | with_reducible apply Touches.choose
    | with_reducible apply State.when_touches
    | with_reducible apply State.set_touches
    | with_reducible apply State.inc_touches
    | with_reducible apply State.memSet_touches
    | with_reducible apply State.when_touches
    | with_reducible apply State.ringPend_touches
    | split
    | dsimp only
    | with_reducible apply Touches.upd
    | exact Or.inl (by assumption)
    | exact Or.inr rfl

theorem State.coalExpire_touches {ps s x} {a1}
    (h : Touches ps s x) (p_outbox : Part.outbox ∈ ps := by assumption) (p_host : Part.host ∈ ps := by assumption) :
    Touches ps s (State.coalExpire x a1) := by
  unfold State.coalExpire
  repeat' first
    | with_reducible assumption
    | intro _ _
    | intro _
    | with_reducible apply Touches.choose
    | with_reducible apply State.msixSend_touches
    | split
    | dsimp only
    | with_reducible apply Touches.upd
    | exact Or.inl (by assumption)
    | exact Or.inr rfl

theorem State.ringEnable_touches {ps s x} {a1}
    (h : Touches ps s x) (p_regs : Part.regs ∈ ps := by assumption) (p_host : Part.host ∈ ps := by assumption) :
    Touches ps s (State.ringEnable x a1) := by
  unfold State.ringEnable
  repeat' first
    | with_reducible assumption
    | intro _ _
    | intro _
    | with_reducible apply Touches.choose
    | with_reducible apply State.set_touches
    | with_reducible apply State.setB_touches
    | split
    | dsimp only
    | with_reducible apply Touches.upd
    | exact Or.inl (by assumption)
    | exact Or.inr rfl

theorem State.ringDisable_touches {ps s x} {a1} (h : Touches ps s x) (p_regs : Part.regs ∈ ps := by assumption) :
    Touches ps s (State.ringDisable x a1) := by
  unfold State.ringDisable
  repeat' first
    | with_reducible assumption
    | intro _ _
    | intro _
    | with_reducible apply State.setB_touches

theorem State.ringsStop_touches {ps s x} (h : Touches ps s x) (p_regs : Part.regs ∈ ps := by assumption) :
    Touches ps s (State.ringsStop x) := by
  unfold State.ringsStop
  repeat' first
    | with_reducible assumption
    | intro _ _
    | intro _
    | with_reducible apply Touches.upTo
    | with_reducible apply State.ringDisable_touches

theorem State.eventRingWrite_touches {ps s x} {a1 a2}
    (h : Touches ps s x) (p_regs : Part.regs ∈ ps := by assumption) (p_dev : Part.dev ∈ ps := by assumption) (p_outbox : Part.outbox ∈ ps := by assumption) (p_flt : Part.flt ∈ ps := by assumption) (p_host : Part.host ∈ ps := by assumption) :
    Touches ps s (State.eventRingWrite x a1 a2).1 := by
  unfold State.eventRingWrite
  repeat' first
    | with_reducible assumption
    | intro _ _
    | intro _
    | with_reducible apply Touches.choose
    | with_reducible apply State.inc_touches
    | with_reducible apply State.memStore_touches
    | with_reducible apply State.ringComplete_touches
    | split
    | dsimp only
theorem State.eventRingWrite_touchesE {ps s x} {a1 a2} {t r1} (e : State.eventRingWrite x a1 a2 = (t, r1))
    (h : Touches ps s x) (p_regs : Part.regs ∈ ps := by assumption) (p_dev : Part.dev ∈ ps := by assumption) (p_outbox : Part.outbox ∈ ps := by assumption) (p_flt : Part.flt ∈ ps := by assumption) (p_host : Part.host ∈ ps := by assumption) :
    Touches ps s t := by
  have k := State.eventRingWrite_touches (ps := ps) (s := s) (x := x) (a1 := a1) (a2 := a2) h
  rwa [e] at k

theorem State.bezelStore_touches {ps s x} {o l e}
    (h : Touches ps s x) (p_dev : Part.dev ∈ ps := by assumption) (p_flt : Part.flt ∈ ps := by assumption) :
    Touches ps s (State.bezelStore x o l e) := by
  fun_induction State.bezelStore x o l e with
  | case1 x o b bs e es ih =>
    apply ih
    split
    · exact State.memStore_touches h
    · exact h
  | case2 => exact h

/-! ### Machine/Loupe.lean -/

theorem State.loupeAdd_touches {ps s x} {a1 a2 a3} (h : Touches ps s x) (p_regs : Part.regs ∈ ps := by assumption) :
    Touches ps s (State.loupeAdd x a1 a2 a3) := by
  unfold State.loupeAdd
  repeat' first
    | with_reducible assumption
    | intro _ _
    | intro _
    | with_reducible apply State.when_touches
    | with_reducible apply State.set_touches
    | with_reducible apply State.setBit_touches

theorem State.sampleAdd_touches {ps s x} {a1 a2}
    (h : Touches ps s x) (p_regs : Part.regs ∈ ps := by assumption) (p_outbox : Part.outbox ∈ ps := by assumption) (p_host : Part.host ∈ ps := by assumption) :
    Touches ps s (State.sampleAdd x a1 a2) := by
  unfold State.sampleAdd
  repeat' first
    | with_reducible assumption
    | intro _ _
    | intro _
    | with_reducible apply Touches.choose
    | with_reducible apply State.set_touches
    | with_reducible apply State.add_touches
    | with_reducible apply State.event_touches

theorem State.activityAdd_touches {ps s x} {a1 a2} (h : Touches ps s x) (p_act : Part.act ∈ ps := by assumption) :
    Touches ps s (State.activityAdd x a1 a2) := by
  unfold State.activityAdd
  repeat' first
    | with_reducible assumption
    | intro _ _
    | intro _
    | with_reducible apply Touches.choose
    | split
    | dsimp only
    | with_reducible apply Touches.upd
    | exact Or.inl (by assumption)
    | exact Or.inr rfl

theorem State.qdrOp_touches {ps s x} {a1} (h : Touches ps s x) (p_act : Part.act ∈ ps := by assumption) :
    Touches ps s (State.qdrOp x a1) := by
  unfold State.qdrOp
  repeat' first
    | with_reducible assumption
    | intro _ _
    | intro _
    | split
    | dsimp only
    | with_reducible apply Touches.upd
    | exact Or.inl (by assumption)
    | exact Or.inr rfl

theorem State.tally_touches {ps s x} {a1 a2 a3}
    (h : Touches ps s x) (p_regs : Part.regs ∈ ps := by assumption) (p_outbox : Part.outbox ∈ ps := by assumption) (p_act : Part.act ∈ ps := by assumption) (p_host : Part.host ∈ ps := by assumption) :
    Touches ps s (State.tally x a1 a2 a3) := by
  unfold State.tally
  repeat' first
    | with_reducible assumption
    | intro _ _
    | intro _
    | with_reducible apply Touches.choose
    | with_reducible apply Touches.upTo
    | with_reducible apply State.loupeAdd_touches
    | with_reducible apply State.sampleAdd_touches
    | with_reducible apply State.activityAdd_touches

theorem State.bankOps_touches {ps s x} {a1 a2}
    (h : Touches ps s x) (p_regs : Part.regs ∈ ps := by assumption) (p_outbox : Part.outbox ∈ ps := by assumption) (p_act : Part.act ∈ ps := by assumption) (p_host : Part.host ∈ ps := by assumption) :
    Touches ps s (State.bankOps x a1 a2) := by
  unfold State.bankOps
  repeat' first
    | with_reducible assumption
    | intro _ _
    | intro _
    | with_reducible apply State.tally_touches

theorem State.bankWork_touches {ps s x} {a1 a2}
    (h : Touches ps s x) (p_regs : Part.regs ∈ ps := by assumption) (p_outbox : Part.outbox ∈ ps := by assumption) (p_act : Part.act ∈ ps := by assumption) (p_host : Part.host ∈ ps := by assumption) :
    Touches ps s (State.bankWork x a1 a2) := by
  unfold State.bankWork
  repeat' first
    | with_reducible assumption
    | intro _ _
    | intro _
    | with_reducible apply State.tally_touches

theorem State.loupeWrap_touches {ps s x} {a1 a2 a3} (h : Touches ps s x) (p_regs : Part.regs ∈ ps := by assumption) :
    Touches ps s (State.loupeWrap x a1 a2 a3) := by
  unfold State.loupeWrap
  repeat' first
    | with_reducible assumption
    | intro _ _
    | intro _
    | with_reducible apply Touches.choose
    | with_reducible apply State.loupeAdd_touches

theorem State.sampleOverflow_touches {ps s x} {a1 a2}
    (h : Touches ps s x) (p_regs : Part.regs ∈ ps := by assumption) (p_outbox : Part.outbox ∈ ps := by assumption) (p_host : Part.host ∈ ps := by assumption) :
    Touches ps s (State.sampleOverflow x a1 a2) := by
  unfold State.sampleOverflow
  repeat' first
    | with_reducible assumption
    | intro _ _
    | intro _
    | with_reducible apply Touches.choose
    | with_reducible apply State.sampleAdd_touches

theorem State.loupeStart_touches {ps s x}
    (h : Touches ps s x) (p_regs : Part.regs ∈ ps := by assumption) (p_tele : Part.tele ∈ ps := by assumption) :
    Touches ps s (State.loupeStart x) := by
  unfold State.loupeStart
  repeat' first
    | with_reducible assumption
    | intro _ _
    | intro _
    | with_reducible apply Touches.choose
    | with_reducible apply Touches.upTo
    | with_reducible apply State.set_touches
    | with_reducible apply State.setB_touches
    | split
    | dsimp only
    | with_reducible apply Touches.upd
    | exact Or.inl (by assumption)
    | exact Or.inr rfl

theorem State.loupeEnd_touches {ps s x} {a1}
    (h : Touches ps s x) (p_regs : Part.regs ∈ ps := by assumption) (p_outbox : Part.outbox ∈ ps := by assumption) (p_host : Part.host ∈ ps := by assumption) :
    Touches ps s (State.loupeEnd x a1) := by
  unfold State.loupeEnd
  repeat' first
    | with_reducible assumption
    | intro _ _
    | intro _
    | with_reducible apply Touches.upTo
    | with_reducible apply State.set_touches
    | with_reducible apply State.setB_touches
    | with_reducible apply State.event_touches

theorem State.loupeStop_touches {ps s x}
    (h : Touches ps s x) (p_regs : Part.regs ∈ ps := by assumption) (p_outbox : Part.outbox ∈ ps := by assumption) (p_host : Part.host ∈ ps := by assumption) :
    Touches ps s (State.loupeStop x) := by
  unfold State.loupeStop
  repeat' first
    | with_reducible assumption
    | intro _ _
    | intro _
    | with_reducible apply Touches.choose
    | with_reducible apply State.loupeEnd_touches

theorem State.loupeWindowEnd_touches {ps s x}
    (h : Touches ps s x) (p_regs : Part.regs ∈ ps := by assumption) (p_outbox : Part.outbox ∈ ps := by assumption) (p_host : Part.host ∈ ps := by assumption) :
    Touches ps s (State.loupeWindowEnd x) := by
  unfold State.loupeWindowEnd
  repeat' first
    | with_reducible assumption
    | intro _ _
    | intro _
    | with_reducible apply Touches.choose
    | with_reducible apply State.loupeEnd_touches

theorem State.sampleCtrl_touches {ps s x} {a1 a2} (h : Touches ps s x) (p_regs : Part.regs ∈ ps := by assumption) :
    Touches ps s (State.sampleCtrl x a1 a2) := by
  unfold State.sampleCtrl
  repeat' first
    | with_reducible assumption
    | intro _ _
    | intro _
    | with_reducible apply Touches.choose
    | with_reducible apply State.when_touches
    | with_reducible apply State.set_touches
    | with_reducible apply State.setB_touches

theorem State.sampleReload_touches {ps s x} {a1 a2} (h : Touches ps s x) (p_regs : Part.regs ∈ ps := by assumption) :
    Touches ps s (State.sampleReload x a1 a2) := by
  unfold State.sampleReload
  repeat' first
    | with_reducible assumption
    | intro _ _
    | intro _
    | with_reducible apply Touches.choose
    | with_reducible apply State.set_touches
    | with_reducible apply State.setB_touches

theorem State.bwCount_touches {ps s x} {a1 a2 a3}
    (h : Touches ps s x) (p_act : Part.act ∈ ps := by assumption) (p_tele : Part.tele ∈ ps := by assumption) :
    Touches ps s (State.bwCount x a1 a2 a3) := by
  unfold State.bwCount
  repeat' first
    | with_reducible assumption
    | intro _ _
    | intro _
    | with_reducible apply Touches.choose
    | split
    | dsimp only
    | with_reducible apply Touches.upd
    | exact Or.inl (by assumption)
    | exact Or.inr rfl

theorem State.bwUpdate_touches {ps s x} {a1 a2 a3 a4 a5}
    (h : Touches ps s x) (p_regs : Part.regs ∈ ps := by assumption) (p_tele : Part.tele ∈ ps := by assumption) :
    Touches ps s (State.bwUpdate x a1 a2 a3 a4 a5) := by
  unfold State.bwUpdate
  repeat' first
    | with_reducible assumption
    | intro _ _
    | intro _
    | with_reducible apply State.set_touches
    | split
    | dsimp only
    | with_reducible apply Touches.upd
    | exact Or.inl (by assumption)
    | exact Or.inr rfl

theorem State.bwEnd_touches {ps s x}
    (h : Touches ps s x) (p_regs : Part.regs ∈ ps := by assumption) (p_tele : Part.tele ∈ ps := by assumption) :
    Touches ps s (State.bwEnd x) := by
  unfold State.bwEnd
  repeat' first
    | with_reducible assumption
    | intro _ _
    | intro _
    | with_reducible apply Touches.choose
    | with_reducible apply Touches.foldl
    | with_reducible apply Touches.foldl_snd
    | with_reducible apply Touches.foldl_fst
    | with_reducible apply Touches.foldl_third
    | with_reducible apply State.bwUpdate_touches
    | split
    | dsimp only
    | with_reducible apply Touches.upd
    | exact Or.inl (by assumption)
    | exact Or.inr rfl

/-! ### Machine/Cards.lean -/

theorem State.colPush_touches {ps s x} {a1 a2} (h : Touches ps s x) (p_tele : Part.tele ∈ ps := by assumption) :
    Touches ps s (State.colPush x a1 a2) := by
  unfold State.colPush
  repeat' first
    | with_reducible assumption
    | intro _ _
    | intro _
    | split
    | dsimp only
    | with_reducible apply Touches.upd
    | exact Or.inl (by assumption)
    | exact Or.inr rfl

theorem State.postcard_touches {ps s x} {a1 a2 a3}
    (h : Touches ps s x) (p_regs : Part.regs ∈ ps := by assumption) (p_outbox : Part.outbox ∈ ps := by assumption) (p_act : Part.act ∈ ps := by assumption) (p_host : Part.host ∈ ps := by assumption) (p_tele : Part.tele ∈ ps := by assumption) :
    Touches ps s (State.postcard x a1 a2 a3) := by
  unfold State.postcard
  repeat' first
    | with_reducible assumption
    | intro _ _
    | intro _
    | with_reducible apply Touches.choose
    | with_reducible apply State.inc_touches
    | with_reducible apply State.tally_touches
    | with_reducible apply State.colPush_touches

theorem State.hmSkip_touches {ps s x} {a1 a2} (h : Touches ps s x) (p_regs : Part.regs ∈ ps := by assumption) :
    Touches ps s (State.hmSkip x a1 a2) := by
  unfold State.hmSkip
  repeat' first
    | with_reducible assumption
    | intro _ _
    | intro _
    | with_reducible apply State.set_touches
    | with_reducible apply State.setB_touches
    | with_reducible apply State.inc_touches

theorem State.cardSend_touches {ps s x} {a1 a2}
    (h : Touches ps s x) (p_regs : Part.regs ∈ ps := by assumption) (p_outbox : Part.outbox ∈ ps := by assumption) (p_act : Part.act ∈ ps := by assumption) (p_host : Part.host ∈ ps := by assumption) (p_tele : Part.tele ∈ ps := by assumption) :
    Touches ps s (State.cardSend x a1 a2) := by
  unfold State.cardSend
  repeat' first
    | with_reducible assumption
    | intro _ _
    | intro _
    | with_reducible apply Touches.choose
    | with_reducible apply State.inc_touches
    | with_reducible apply State.postcard_touches
    | with_reducible apply State.hmSkip_touches

theorem State.dropCard_touches {ps s x} {a1}
    (h : Touches ps s x) (p_regs : Part.regs ∈ ps := by assumption) (p_outbox : Part.outbox ∈ ps := by assumption) (p_act : Part.act ∈ ps := by assumption) (p_host : Part.host ∈ ps := by assumption) (p_tele : Part.tele ∈ ps := by assumption) :
    Touches ps s (State.dropCard x a1) := by
  unfold State.dropCard
  repeat' first
    | with_reducible assumption
    | intro _ _
    | intro _
    | with_reducible apply Touches.choose
    | with_reducible apply State.cardSend_touches

theorem State.dropCards_touches {ps s x} {a1}
    (h : Touches ps s x) (p_regs : Part.regs ∈ ps := by assumption) (p_outbox : Part.outbox ∈ ps := by assumption) (p_act : Part.act ∈ ps := by assumption) (p_host : Part.host ∈ ps := by assumption) (p_tele : Part.tele ∈ ps := by assumption) :
    Touches ps s (State.dropCards x a1) := by
  unfold State.dropCards
  repeat' first
    | with_reducible assumption
    | intro _ _
    | intro _
    | with_reducible apply Touches.foldl
    | with_reducible apply Touches.foldl_snd
    | with_reducible apply Touches.foldl_fst
    | with_reducible apply Touches.foldl_third
    | with_reducible apply State.dropCard_touches

theorem State.txDrop_touches {ps s x} {a1}
    (h : Touches ps s x) (p_regs : Part.regs ∈ ps := by assumption) (p_outbox : Part.outbox ∈ ps := by assumption) (p_act : Part.act ∈ ps := by assumption) (p_host : Part.host ∈ ps := by assumption) (p_tele : Part.tele ∈ ps := by assumption) :
    Touches ps s (State.txDrop x a1) := by
  unfold State.txDrop
  repeat' first
    | with_reducible assumption
    | intro _ _
    | intro _
    | with_reducible apply State.when_touches
    | with_reducible apply State.when_touches
    | with_reducible apply State.dropCard_touches
    | split

end Sys2Proof.Machine
end

