-- ==== Sys2Proof/Laws/TouchesBuffer.lean ====
section
/-!
SUPPORT. What the operations of Crucible, its banks, telemetry, the queue engine and the parser touch: one lemma for each.
-/
namespace Sys2Proof.Machine
set_option Elab.async false

/-! ### Machine/Crucible.lean -/

theorem State.putStore_touches {ps s x} {a1 a2} (h : Touches ps s x) (p_buf : Part.buf ∈ ps := by assumption) :
    Touches ps s (State.putStore x a1 a2) := by
  unfold State.putStore
  repeat' first
    | with_reducible assumption
    | intro _ _
    | intro _
    | split
    | dsimp only
    | with_reducible apply Touches.upd
    | exact Or.inl (by assumption)
    | exact Or.inr rfl

theorem State.setList_touches {ps s x} {a1 a2} (h : Touches ps s x) (p_buf : Part.buf ∈ ps := by assumption) :
    Touches ps s (State.setList x a1 a2) := by
  unfold State.setList
  repeat' first
    | with_reducible assumption
    | intro _ _
    | intro _
    | with_reducible apply Touches.choose
    | split
    | dsimp only
    | with_reducible apply Touches.upd
    | exact Or.inl (by assumption)
    | exact Or.inr rfl

theorem State.pauseOwe_touches {ps s x} {a1} (h : Touches ps s x) (p_buf : Part.buf ∈ ps := by assumption) :
    Touches ps s (State.pauseOwe x a1) := by
  unfold State.pauseOwe
  repeat' first
    | with_reducible assumption
    | intro _ _
    | intro _
    | with_reducible apply Touches.choose
    | split
    | dsimp only
    | with_reducible apply Touches.upd
    | exact Or.inl (by assumption)
    | exact Or.inr rfl

theorem State.xoffPut_touches {ps s x} {a1 a2}
    (h : Touches ps s x) (p_regs : Part.regs ∈ ps := by assumption) (p_outbox : Part.outbox ∈ ps := by assumption) (p_act : Part.act ∈ ps := by assumption) (p_host : Part.host ∈ ps := by assumption) (p_buf : Part.buf ∈ ps := by assumption) :
    Touches ps s (State.xoffPut x a1 a2) := by
  unfold State.xoffPut
  repeat' first
    | with_reducible assumption
    | intro _ _
    | intro _
    | with_reducible apply Touches.choose
    | with_reducible apply State.when_touches
    | with_reducible apply State.setB_touches
    | with_reducible apply State.when_touches
    | with_reducible apply State.tally_touches
    | with_reducible apply State.pauseOwe_touches
    | split
    | dsimp only
    | with_reducible apply Touches.upd
    | exact Or.inl (by assumption)
    | exact Or.inr rfl

theorem State.heldPut_touches {ps s x} {a1 a2} (h : Touches ps s x) (p_regs : Part.regs ∈ ps := by assumption) :
    Touches ps s (State.heldPut x a1 a2) := by
  unfold State.heldPut
  repeat' first
    | with_reducible assumption
    | intro _ _
    | intro _
    | with_reducible apply Touches.choose
    | with_reducible apply State.setB_touches

theorem State.xoffEval_touches {ps s x}
    (h : Touches ps s x) (p_regs : Part.regs ∈ ps := by assumption) (p_outbox : Part.outbox ∈ ps := by assumption) (p_act : Part.act ∈ ps := by assumption) (p_host : Part.host ∈ ps := by assumption) (p_buf : Part.buf ∈ ps := by assumption) :
    Touches ps s (State.xoffEval x) := by
  unfold State.xoffEval
  repeat' first
    | with_reducible assumption
    | intro _ _
    | intro _
    | with_reducible apply Touches.choose
    | with_reducible apply Touches.foldl
    | with_reducible apply Touches.foldl_snd
    | with_reducible apply Touches.foldl_fst
    | with_reducible apply Touches.foldl_third
    | with_reducible apply State.xoffPut_touches
    | with_reducible apply State.heldPut_touches

theorem State.chargeSeg_touchesE {ps s x f p r t} (e : State.chargeSeg x f p = some (r, t))
    (h : Touches ps s x) (p_regs : Part.regs ∈ ps := by assumption) (p_outbox : Part.outbox ∈ ps := by assumption) (p_act : Part.act ∈ ps := by assumption) (p_host : Part.host ∈ ps := by assumption) (p_buf : Part.buf ∈ ps := by assumption) :
    Touches ps s t := by
  unfold State.chargeSeg at e
  dsimp only at e
  split at e <;> simp only [Option.some.injEq, Prod.mk.injEq, reduceCtorEq] at e
  all_goals (obtain ⟨-, rfl⟩ := e; exact State.xoffEval_touches (State.set_touches h))

theorem State.chargeSegs_touchesE {ps s x f p n r t} (e : State.chargeSegs x f p n = some (r, t)) (h : Touches ps s x) (p_regs : Part.regs ∈ ps := by assumption) (p_outbox : Part.outbox ∈ ps := by assumption) (p_act : Part.act ∈ ps := by assumption) (p_host : Part.host ∈ ps := by assumption) (p_buf : Part.buf ∈ ps := by assumption) :
    Touches ps s t := by
  induction n generalizing x f with
  | zero => cases e; exact h
  | succ n ih =>
    simp only [State.chargeSegs] at e
    split at e
    · exact ih e (State.chargeSeg_touchesE (by assumption) h)
    · cases e

theorem State.uncharge_touches {ps s x} {a1}
    (h : Touches ps s x) (p_regs : Part.regs ∈ ps := by assumption) (p_outbox : Part.outbox ∈ ps := by assumption) (p_act : Part.act ∈ ps := by assumption) (p_host : Part.host ∈ ps := by assumption) (p_buf : Part.buf ∈ ps := by assumption) :
    Touches ps s (State.uncharge x a1) := by
  unfold State.uncharge
  repeat' first
    | with_reducible assumption
    | intro _ _
    | intro _
    | with_reducible apply State.set_touches
    | with_reducible apply State.xoffEval_touches

theorem State.setPool_touches {ps s x} {a1 a2} (h : Touches ps s x) (p_buf : Part.buf ∈ ps := by assumption) :
    Touches ps s (State.setPool x a1 a2) := by
  unfold State.setPool
  repeat' first
    | with_reducible assumption
    | intro _ _
    | intro _
    | split
    | dsimp only
    | with_reducible apply Touches.upd
    | exact Or.inl (by assumption)
    | exact Or.inr rfl

theorem State.takeIngot_touchesE {ps s x n r t} (e : State.takeIngot x n = some (r, t))
    (h : Touches ps s x) (p_buf : Part.buf ∈ ps := by assumption) :
    Touches ps s t := by
  unfold State.takeIngot at e
  dsimp only at e
  split at e
  · cases e; exact State.setPool_touches h
  · split at e <;> cases e
    exact State.setPool_touches h

theorem State.takeS_touches {ps s x n} (h : Touches ps s x) (p_buf : Part.buf ∈ ps := by assumption) :
    Touches ps s (State.takeS x n).2 := by
  induction n generalizing x with
  | zero => exact h
  | succ n ih =>
    simp only [State.takeS]
    split
    · exact ih (State.takeIngot_touchesE (by assumption) h)
    · exact h

theorem State.takeS_touchesE {ps s x n r t} (e : State.takeS x n = (r, t)) (h : Touches ps s x) (p_buf : Part.buf ∈ ps := by assumption) :
    Touches ps s t := by
  have k := State.takeS_touches (n := n) h
  rwa [e] at k

theorem State.giveIngot_touches {ps s x} {a1} (h : Touches ps s x) (p_buf : Part.buf ∈ ps := by assumption) :
    Touches ps s (State.giveIngot x a1) := by
  unfold State.giveIngot
  repeat' first
    | with_reducible assumption
    | intro _ _
    | intro _
    | with_reducible apply Touches.choose
    | with_reducible apply State.setPool_touches
    | split
    | dsimp only
    | with_reducible apply Touches.upd
    | exact Or.inl (by assumption)
    | exact Or.inr rfl

theorem State.allocDecl_touchesE {ps s x a b r q t} (e : State.allocDecl x a b = some (r, q, t)) (h : Touches ps s x) (p_regs : Part.regs ∈ ps := by assumption) (p_buf : Part.buf ∈ ps := by assumption) :
    Touches ps s t := by
  unfold State.allocDecl at e
  dsimp only at e
  split at e
  · split at e <;> cases e
    exact State.when_touches (fun _ => State.inc_touches) (State.inc_touches (State.takeIngot_touchesE (by assumption) h))
  · cases e

theorem State.allocChain_touchesE {ps s x a b r t} (e : State.allocChain x a b = some (r, t))
    (h : Touches ps s x) (p_regs : Part.regs ∈ ps := by assumption) (p_buf : Part.buf ∈ ps := by assumption) :
    Touches ps s t := by
  unfold State.allocChain at e
  by_cases c : (if b then ceilDiv a 256 else ceilDiv a 256 + x.get Reg.CRUC.HR_RESERVE) ≤ x.poolFreeCount 0
  · simp only [c, if_true] at e
    cases e
    exact State.inc_touches (State.inc_touches (State.takeS_touches h))
  · simp only [c, if_false] at e
    cases e

theorem State.refuse_touches {ps s x} {a1 a2}
    (h : Touches ps s x) (p_regs : Part.regs ∈ ps := by assumption) (p_buf : Part.buf ∈ ps := by assumption) :
    Touches ps s (State.refuse x a1 a2) := by
  unfold State.refuse
  repeat' first
    | with_reducible assumption
    | intro _ _
    | intro _
    | with_reducible apply State.inc_touches
    | split
    | dsimp only
    | with_reducible apply Touches.upd
    | exact Or.inl (by assumption)
    | exact Or.inr rfl

theorem State.quarantine_touches {ps s x} {a1} (h : Touches ps s x) (p_buf : Part.buf ∈ ps := by assumption) :
    Touches ps s (State.quarantine x a1) := by
  unfold State.quarantine
  repeat' first
    | with_reducible assumption
    | intro _ _
    | intro _
    | with_reducible apply Touches.choose
    | with_reducible apply State.setPool_touches
    | split
    | dsimp only
    | with_reducible apply Touches.upd
    | exact Or.inl (by assumption)
    | exact Or.inr rfl

theorem State.handleErr_touches {ps s x} {a1 a2}
    (h : Touches ps s x) (p_regs : Part.regs ∈ ps := by assumption) (p_flt : Part.flt ∈ ps := by assumption) (p_buf : Part.buf ∈ ps := by assumption) :
    Touches ps s (State.handleErr x a1 a2) := by
  unfold State.handleErr
  repeat' first
    | with_reducible assumption
    | intro _ _
    | intro _
    | with_reducible apply State.set_touches
    | with_reducible apply State.setB_touches
    | with_reducible apply State.inc_touches
    | with_reducible apply State.fault_touches
    | with_reducible apply State.quarantine_touches

theorem State.vacate_touches {ps s x} {a1} (h : Touches ps s x) (p_buf : Part.buf ∈ ps := by assumption) :
    Touches ps s (State.vacate x a1) := by
  unfold State.vacate
  repeat' first
    | with_reducible assumption
    | intro _ _
    | intro _
    | with_reducible apply Touches.foldl
    | with_reducible apply Touches.foldl_snd
    | with_reducible apply Touches.foldl_fst
    | with_reducible apply Touches.foldl_third
    | with_reducible apply State.giveIngot_touches
    | split
    | dsimp only
    | with_reducible apply Touches.upd
    | exact Or.inl (by assumption)
    | exact Or.inr rfl

theorem State.release_touches {ps s x} {a1}
    (h : Touches ps s x) (p_regs : Part.regs ∈ ps := by assumption) (p_outbox : Part.outbox ∈ ps := by assumption) (p_flt : Part.flt ∈ ps := by assumption) (p_act : Part.act ∈ ps := by assumption) (p_host : Part.host ∈ ps := by assumption) (p_buf : Part.buf ∈ ps := by assumption) :
    Touches ps s (State.release x a1) := by
  unfold State.release
  repeat' first
    | with_reducible assumption
    | intro _ _
    | intro _
    | with_reducible apply Touches.choose
    | with_reducible apply State.uncharge_touches
    | with_reducible apply State.handleErr_touches
    | with_reducible apply State.vacate_touches

theorem State.inflightDec_touches {ps s x} {a1} (h : Touches ps s x) (p_regs : Part.regs ∈ ps := by assumption) :
    Touches ps s (State.inflightDec x a1) := by
  unfold State.inflightDec
  repeat' first
    | with_reducible assumption
    | intro _ _
    | intro _
    | with_reducible apply State.set_touches

theorem State.inflightInc_touches {ps s x} {a1} (h : Touches ps s x) (p_regs : Part.regs ∈ ps := by assumption) :
    Touches ps s (State.inflightInc x a1) := by
  unfold State.inflightInc
  repeat' first
    | with_reducible assumption
    | intro _ _
    | intro _
    | with_reducible apply State.set_touches

theorem State.decRef_touches {ps s x} {a1}
    (h : Touches ps s x) (p_regs : Part.regs ∈ ps := by assumption) (p_outbox : Part.outbox ∈ ps := by assumption) (p_flt : Part.flt ∈ ps := by assumption) (p_act : Part.act ∈ ps := by assumption) (p_host : Part.host ∈ ps := by assumption) (p_buf : Part.buf ∈ ps := by assumption) :
    Touches ps s (State.decRef x a1) := by
  unfold State.decRef
  repeat' first
    | with_reducible assumption
    | intro _ _
    | intro _
    | with_reducible apply Touches.choose
    | with_reducible apply State.putStore_touches
    | with_reducible apply State.handleErr_touches
    | with_reducible apply State.release_touches

theorem State.instEnd_touches {ps s x} {a1}
    (h : Touches ps s x) (p_regs : Part.regs ∈ ps := by assumption) (p_outbox : Part.outbox ∈ ps := by assumption) (p_flt : Part.flt ∈ ps := by assumption) (p_act : Part.act ∈ ps := by assumption) (p_host : Part.host ∈ ps := by assumption) (p_buf : Part.buf ∈ ps := by assumption) :
    Touches ps s (State.instEnd x a1) := by
  unfold State.instEnd
  repeat' first
    | with_reducible assumption
    | intro _ _
    | intro _
    | with_reducible apply State.inflightDec_touches
    | with_reducible apply State.decRef_touches

theorem State.pullInsts_touches {ps s x} {a1}
    (h : Touches ps s x) (p_regs : Part.regs ∈ ps := by assumption) (p_outbox : Part.outbox ∈ ps := by assumption) (p_act : Part.act ∈ ps := by assumption) (p_host : Part.host ∈ ps := by assumption) (p_buf : Part.buf ∈ ps := by assumption) (p_pipe : Part.pipe ∈ ps := by assumption) (p_que : Part.que ∈ ps := by assumption) (p_tele : Part.tele ∈ ps := by assumption) :
    Touches ps s (State.pullInsts x a1).2 := by
  unfold State.pullInsts
  repeat' first
    | with_reducible assumption
    | intro _ _
    | intro _
    | with_reducible apply State.dropCards_touches
    | split
    | dsimp only
    | with_reducible apply Touches.upd
    | exact Or.inl (by assumption)
    | exact Or.inr rfl
theorem State.pullInsts_touchesE {ps s x} {a1} {r0 t} (e : State.pullInsts x a1 = (r0, t))
    (h : Touches ps s x) (p_regs : Part.regs ∈ ps := by assumption) (p_outbox : Part.outbox ∈ ps := by assumption) (p_act : Part.act ∈ ps := by assumption) (p_host : Part.host ∈ ps := by assumption) (p_buf : Part.buf ∈ ps := by assumption) (p_pipe : Part.pipe ∈ ps := by assumption) (p_que : Part.que ∈ ps := by assumption) (p_tele : Part.tele ∈ ps := by assumption) :
    Touches ps s t := by
  have k := State.pullInsts_touches (ps := ps) (s := s) (x := x) (a1 := a1) h
  rwa [e] at k

theorem State.txStomp_touches {ps s x} {a1 a2}
    (h : Touches ps s x) (p_regs : Part.regs ∈ ps := by assumption) (p_outbox : Part.outbox ∈ ps := by assumption) (p_act : Part.act ∈ ps := by assumption) (p_host : Part.host ∈ ps := by assumption) (p_tele : Part.tele ∈ ps := by assumption) :
    Touches ps s (State.txStomp x a1 a2) := by
  unfold State.txStomp
  repeat' first
    | with_reducible assumption
    | intro _ _
    | intro _
    | with_reducible apply State.emit_touches
    | with_reducible apply State.bwCount_touches
    | with_reducible apply State.txDrop_touches

theorem State.stompTx_touches {ps s x} {a1}
    (h : Touches ps s x) (p_regs : Part.regs ∈ ps := by assumption) (p_outbox : Part.outbox ∈ ps := by assumption) (p_act : Part.act ∈ ps := by assumption) (p_host : Part.host ∈ ps := by assumption) (p_que : Part.que ∈ ps := by assumption) (p_tele : Part.tele ∈ ps := by assumption) :
    Touches ps s (State.stompTx x a1).2 := by
  unfold State.stompTx
  repeat' first
    | with_reducible assumption
    | intro _ _
    | intro _
    | with_reducible apply Touches.foldl
    | with_reducible apply Touches.foldl_snd
    | with_reducible apply Touches.foldl_fst
    | with_reducible apply Touches.foldl_third
    | with_reducible apply State.txStomp_touches
    | split
    | dsimp only
    | with_reducible apply Touches.upd
    | exact Or.inl (by assumption)
    | exact Or.inr rfl
theorem State.stompTx_touchesE {ps s x} {a1} {r0 t} (e : State.stompTx x a1 = (r0, t))
    (h : Touches ps s x) (p_regs : Part.regs ∈ ps := by assumption) (p_outbox : Part.outbox ∈ ps := by assumption) (p_act : Part.act ∈ ps := by assumption) (p_host : Part.host ∈ ps := by assumption) (p_que : Part.que ∈ ps := by assumption) (p_tele : Part.tele ∈ ps := by assumption) :
    Touches ps s t := by
  have k := State.stompTx_touches (ps := ps) (s := s) (x := x) (a1 := a1) h
  rwa [e] at k

theorem State.pullPkts_touches {ps s x} {a1} (h : Touches ps s x) (p_pipe : Part.pipe ∈ ps := by assumption) :
    Touches ps s (State.pullPkts x a1).2 := by
  unfold State.pullPkts
  repeat' first
    | with_reducible assumption
    | intro _ _
    | intro _
    | split
    | dsimp only
    | with_reducible apply Touches.upd
    | exact Or.inl (by assumption)
    | exact Or.inr rfl
theorem State.pullPkts_touchesE {ps s x} {a1} {r0 t} (e : State.pullPkts x a1 = (r0, t))
    (h : Touches ps s x) (p_pipe : Part.pipe ∈ ps := by assumption) :
    Touches ps s t := by
  have k := State.pullPkts_touches (ps := ps) (s := s) (x := x) (a1 := a1) h
  rwa [e] at k

theorem State.purge_touches {ps s x} {a1}
    (h : Touches ps s x) (p_regs : Part.regs ∈ ps := by assumption) (p_outbox : Part.outbox ∈ ps := by assumption) (p_flt : Part.flt ∈ ps := by assumption) (p_act : Part.act ∈ ps := by assumption) (p_host : Part.host ∈ ps := by assumption) (p_buf : Part.buf ∈ ps := by assumption) (p_pipe : Part.pipe ∈ ps := by assumption) (p_que : Part.que ∈ ps := by assumption) (p_tele : Part.tele ∈ ps := by assumption) :
    Touches ps s (State.purge x a1) := by
  unfold State.purge
  repeat' first
    | with_reducible assumption
    | intro _ _
    | intro _
    | with_reducible apply Touches.iterate
    | with_reducible apply State.add_touches
    | with_reducible apply State.release_touches
    | with_reducible apply State.inflightDec_touches
    | with_reducible apply State.pullInsts_touches
    | with_reducible apply State.stompTx_touches
    | with_reducible apply State.pullPkts_touches
    | refine State.pullInsts_touchesE (by with_reducible assumption) ?_
    | refine State.stompTx_touchesE (by with_reducible assumption) ?_
    | refine State.pullPkts_touchesE (by with_reducible assumption) ?_
    | split
    | dsimp only
    | with_reducible apply Touches.upd
    | exact Or.inl (by assumption)
    | exact Or.inr rfl

theorem State.discardWhere_touches {ps s x} {a1 a2}
    (h : Touches ps s x) (p_regs : Part.regs ∈ ps := by assumption) (p_outbox : Part.outbox ∈ ps := by assumption) (p_flt : Part.flt ∈ ps := by assumption) (p_act : Part.act ∈ ps := by assumption) (p_host : Part.host ∈ ps := by assumption) (p_buf : Part.buf ∈ ps := by assumption) (p_pipe : Part.pipe ∈ ps := by assumption) (p_que : Part.que ∈ ps := by assumption) (p_tele : Part.tele ∈ ps := by assumption) :
    Touches ps s (State.discardWhere x a1 a2).2 := by
  unfold State.discardWhere
  repeat' first
    | with_reducible assumption
    | intro _ _
    | intro _
    | with_reducible apply Touches.foldl
    | with_reducible apply Touches.foldl_snd
    | with_reducible apply Touches.foldl_fst
    | with_reducible apply Touches.foldl_third
    | with_reducible apply State.release_touches
    | with_reducible apply State.inflightDec_touches
    | with_reducible apply State.instEnd_touches
    | with_reducible apply State.pullInsts_touches
    | with_reducible apply State.stompTx_touches
    | with_reducible apply State.pullPkts_touches
theorem State.discardWhere_touchesE {ps s x} {a1 a2} {r0 t} (e : State.discardWhere x a1 a2 = (r0, t))
    (h : Touches ps s x) (p_regs : Part.regs ∈ ps := by assumption) (p_outbox : Part.outbox ∈ ps := by assumption) (p_flt : Part.flt ∈ ps := by assumption) (p_act : Part.act ∈ ps := by assumption) (p_host : Part.host ∈ ps := by assumption) (p_buf : Part.buf ∈ ps := by assumption) (p_pipe : Part.pipe ∈ ps := by assumption) (p_que : Part.que ∈ ps := by assumption) (p_tele : Part.tele ∈ ps := by assumption) :
    Touches ps s t := by
  have k := State.discardWhere_touches (ps := ps) (s := s) (x := x) (a1 := a1) (a2 := a2) h
  rwa [e] at k

theorem State.discardPackets_touches {ps s x}
    (h : Touches ps s x) (p_regs : Part.regs ∈ ps := by assumption) (p_outbox : Part.outbox ∈ ps := by assumption) (p_flt : Part.flt ∈ ps := by assumption) (p_act : Part.act ∈ ps := by assumption) (p_host : Part.host ∈ ps := by assumption) (p_buf : Part.buf ∈ ps := by assumption) (p_pipe : Part.pipe ∈ ps := by assumption) (p_que : Part.que ∈ ps := by assumption) (p_tele : Part.tele ∈ ps := by assumption) :
    Touches ps s (State.discardPackets x).2 := by
  unfold State.discardPackets
  repeat' first
    | with_reducible assumption
    | intro _ _
    | intro _
    | with_reducible apply Touches.foldl
    | with_reducible apply Touches.foldl_snd
    | with_reducible apply Touches.foldl_fst
    | with_reducible apply Touches.foldl_third
    | with_reducible apply State.uncharge_touches
    | with_reducible apply State.release_touches
    | with_reducible apply State.discardWhere_touches
    | refine State.discardWhere_touchesE (by with_reducible assumption) ?_
    | split
    | dsimp only
    | with_reducible apply Touches.upd
    | exact Or.inl (by assumption)
    | exact Or.inr rfl
theorem State.discardPackets_touchesE {ps s x} {r0 t} (e : State.discardPackets x = (r0, t))
    (h : Touches ps s x) (p_regs : Part.regs ∈ ps := by assumption) (p_outbox : Part.outbox ∈ ps := by assumption) (p_flt : Part.flt ∈ ps := by assumption) (p_act : Part.act ∈ ps := by assumption) (p_host : Part.host ∈ ps := by assumption) (p_buf : Part.buf ∈ ps := by assumption) (p_pipe : Part.pipe ∈ ps := by assumption) (p_que : Part.que ∈ ps := by assumption) (p_tele : Part.tele ∈ ps := by assumption) :
    Touches ps s t := by
  have k := State.discardPackets_touches (ps := ps) (s := s) (x := x) h
  rwa [e] at k

/-! ### Machine/Banks.lean -/

theorem State.bankDegrade_touches {ps s x} {a1}
    (h : Touches ps s x) (p_regs : Part.regs ∈ ps := by assumption) (p_flt : Part.flt ∈ ps := by assumption) (p_buf : Part.buf ∈ ps := by assumption) :
    Touches ps s (State.bankDegrade x a1) := by
  unfold State.bankDegrade
  repeat' first
    | with_reducible assumption
    | intro _ _
    | intro _
    | with_reducible apply Touches.choose
    | with_reducible apply State.setB_touches
    | with_reducible apply State.fault_touches
    | split
    | dsimp only
    | with_reducible apply Touches.upd
    | exact Or.inl (by assumption)
    | exact Or.inr rfl

theorem State.migTrigger_touches {ps s x} {a1 a2}
    (h : Touches ps s x) (p_regs : Part.regs ∈ ps := by assumption) (p_flt : Part.flt ∈ ps := by assumption) (p_buf : Part.buf ∈ ps := by assumption) :
    Touches ps s (State.migTrigger x a1 a2) := by
  unfold State.migTrigger
  repeat' first
    | with_reducible assumption
    | intro _ _
    | intro _
    | with_reducible apply Touches.choose
    | with_reducible apply State.bankDegrade_touches
    | split
    | dsimp only
    | with_reducible apply Touches.upd
    | exact Or.inl (by assumption)
    | exact Or.inr rfl

theorem State.wordCorrected_touches {ps s x} {a1}
    (h : Touches ps s x) (p_regs : Part.regs ∈ ps := by assumption) (p_flt : Part.flt ∈ ps := by assumption) (p_buf : Part.buf ∈ ps := by assumption) :
    Touches ps s (State.wordCorrected x a1) := by
  unfold State.wordCorrected
  repeat' first
    | with_reducible assumption
    | intro _ _
    | intro _
    | with_reducible apply Touches.choose
    | with_reducible apply State.inc_touches
    | with_reducible apply State.migTrigger_touches
    | split
    | dsimp only
    | with_reducible apply Touches.upd
    | exact Or.inl (by assumption)
    | exact Or.inr rfl

theorem State.wordRebuilt_touches {ps s x} {a1}
    (h : Touches ps s x) (p_regs : Part.regs ∈ ps := by assumption) (p_flt : Part.flt ∈ ps := by assumption) (p_buf : Part.buf ∈ ps := by assumption) :
    Touches ps s (State.wordRebuilt x a1) := by
  unfold State.wordRebuilt
  repeat' first
    | with_reducible assumption
    | intro _ _
    | intro _
    | with_reducible apply State.inc_touches
    | with_reducible apply State.migTrigger_touches

theorem State.readRow_touches {ps s x} {a1 a2 a3 a4}
    (h : Touches ps s x) (p_regs : Part.regs ∈ ps := by assumption) (p_flt : Part.flt ∈ ps := by assumption) (p_buf : Part.buf ∈ ps := by assumption) :
    Touches ps s (State.readRow x a1 a2 a3 a4).2 := by
  unfold State.readRow
  repeat' first
    | with_reducible assumption
    | intro _ _
    | intro _
    | with_reducible apply Touches.choose
    | with_reducible apply Touches.foldl
    | with_reducible apply Touches.foldl_snd
    | with_reducible apply Touches.foldl_fst
    | with_reducible apply Touches.foldl_third
    | with_reducible apply State.inc_touches
    | with_reducible apply State.fault_touches
    | with_reducible apply State.faultInjected_touches
    | with_reducible apply State.wordCorrected_touches
    | with_reducible apply State.wordRebuilt_touches
    | split
    | dsimp only
theorem State.readRow_touchesE {ps s x} {a1 a2 a3 a4} {r0 t} (e : State.readRow x a1 a2 a3 a4 = (r0, t))
    (h : Touches ps s x) (p_regs : Part.regs ∈ ps := by assumption) (p_flt : Part.flt ∈ ps := by assumption) (p_buf : Part.buf ∈ ps := by assumption) :
    Touches ps s t := by
  have k := State.readRow_touches (ps := ps) (s := s) (x := x) (a1 := a1) (a2 := a2) (a3 := a3) (a4 := a4) h
  rwa [e] at k

theorem State.readFrame_touches {ps s x} {a1 a2 a3 a4 a5}
    (h : Touches ps s x) (p_regs : Part.regs ∈ ps := by assumption) (p_outbox : Part.outbox ∈ ps := by assumption) (p_flt : Part.flt ∈ ps := by assumption) (p_act : Part.act ∈ ps := by assumption) (p_host : Part.host ∈ ps := by assumption) (p_buf : Part.buf ∈ ps := by assumption) :
    Touches ps s (State.readFrame x a1 a2 a3 a4 a5).2 := by
  unfold State.readFrame
  repeat' first
    | with_reducible assumption
    | intro _ _
    | intro _
    | with_reducible apply Touches.choose
    | with_reducible apply Touches.foldl
    | with_reducible apply Touches.foldl_snd
    | with_reducible apply Touches.foldl_fst
    | with_reducible apply Touches.foldl_third
    | with_reducible apply State.tally_touches
    | with_reducible apply State.readRow_touches
    | refine State.readRow_touchesE (by with_reducible assumption) ?_
    | split
    | dsimp only
theorem State.readFrame_touchesE {ps s x} {a1 a2 a3 a4 a5} {r0 t} (e : State.readFrame x a1 a2 a3 a4 a5 = (r0, t))
    (h : Touches ps s x) (p_regs : Part.regs ∈ ps := by assumption) (p_outbox : Part.outbox ∈ ps := by assumption) (p_flt : Part.flt ∈ ps := by assumption) (p_act : Part.act ∈ ps := by assumption) (p_host : Part.host ∈ ps := by assumption) (p_buf : Part.buf ∈ ps := by assumption) :
    Touches ps s t := by
  have k := State.readFrame_touches (ps := ps) (s := s) (x := x) (a1 := a1) (a2 := a2) (a3 := a3) (a4 := a4) (a5 := a5) h
  rwa [e] at k

theorem State.segsWritten_touches {ps s x} {a1 a2 a3}
    (h : Touches ps s x) (p_flt : Part.flt ∈ ps := by assumption) (p_buf : Part.buf ∈ ps := by assumption) :
    Touches ps s (State.segsWritten x a1 a2 a3) := by
  unfold State.segsWritten
  repeat' first
    | with_reducible assumption
    | intro _ _
    | intro _
    | with_reducible apply Touches.choose
    | with_reducible apply State.putStore_touches
    | split
    | dsimp only
    | with_reducible apply Touches.upd
    | exact Or.inl (by assumption)
    | exact Or.inr rfl

theorem State.migrateCmd_touches {ps s x} {a1}
    (h : Touches ps s x) (p_regs : Part.regs ∈ ps := by assumption) (p_flt : Part.flt ∈ ps := by assumption) (p_buf : Part.buf ∈ ps := by assumption) :
    Touches ps s (State.migrateCmd x a1) := by
  unfold State.migrateCmd
  repeat' first
    | with_reducible assumption
    | intro _ _
    | intro _
    | with_reducible apply Touches.choose
    | with_reducible apply State.migTrigger_touches

theorem State.migStart_touches {ps s x}
    (h : Touches ps s x) (p_regs : Part.regs ∈ ps := by assumption) (p_flt : Part.flt ∈ ps := by assumption) (p_buf : Part.buf ∈ ps := by assumption) :
    Touches ps s (State.migStart x) := by
  unfold State.migStart
  repeat' first
    | with_reducible assumption
    | intro _ _
    | intro _
    | with_reducible apply Touches.choose
    | with_reducible apply State.set_touches
    | with_reducible apply State.setB_touches
    | with_reducible apply State.bankDegrade_touches
    | split
    | dsimp only
    | with_reducible apply Touches.upd
    | exact Or.inl (by assumption)
    | exact Or.inr rfl

theorem State.migRow_touches {ps s x} (h : Touches ps s x) (p_buf : Part.buf ∈ ps := by assumption) :
    Touches ps s (State.migRow x) := by
  unfold State.migRow
  repeat' first
    | with_reducible assumption
    | intro _ _
    | intro _
    | with_reducible apply Touches.choose
    | split
    | dsimp only
    | with_reducible apply Touches.upd
    | exact Or.inl (by assumption)
    | exact Or.inr rfl

theorem State.flipsDrop_touches {ps s x} {a1} (h : Touches ps s x) (p_buf : Part.buf ∈ ps := by assumption) :
    Touches ps s (State.flipsDrop x a1) := by
  unfold State.flipsDrop
  repeat' first
    | with_reducible assumption
    | intro _ _
    | intro _
    | split
    | dsimp only
    | with_reducible apply Touches.upd
    | exact Or.inl (by assumption)
    | exact Or.inr rfl

theorem State.migDone_touches {ps s x} {a1}
    (h : Touches ps s x) (p_regs : Part.regs ∈ ps := by assumption) (p_dev : Part.dev ∈ ps := by assumption) (p_outbox : Part.outbox ∈ ps := by assumption) (p_flt : Part.flt ∈ ps := by assumption) (p_anvil : Part.anvil ∈ ps := by assumption) (p_host : Part.host ∈ ps := by assumption) (p_buf : Part.buf ∈ ps := by assumption) :
    Touches ps s (State.migDone x a1) := by
  unfold State.migDone
  repeat' first
    | with_reducible assumption
    | intro _ _
    | intro _
    | with_reducible apply Touches.choose
    | with_reducible apply State.set_touches
    | with_reducible apply State.setB_touches
    | with_reducible apply State.event_touches
    | with_reducible apply State.storeWrite_touches
    | with_reducible apply State.flipsDrop_touches
    | refine State.storeWrite_touchesE (by with_reducible assumption) ?_
    | split
    | dsimp only
    | with_reducible apply Touches.upd
    | exact Or.inl (by assumption)
    | exact Or.inr rfl

theorem State.migrationAbandon_touches {ps s x}
    (h : Touches ps s x) (p_regs : Part.regs ∈ ps := by assumption) (p_buf : Part.buf ∈ ps := by assumption) :
    Touches ps s (State.migrationAbandon x) := by
  unfold State.migrationAbandon
  repeat' first
    | with_reducible assumption
    | intro _ _
    | intro _
    | with_reducible apply State.setB_touches
    | split
    | dsimp only
    | with_reducible apply Touches.upd
    | exact Or.inl (by assumption)
    | exact Or.inr rfl

/-! ### Machine/Telemetry.lean -/

theorem State.setDeltas_touches {ps s x} {a1 a2} (h : Touches ps s x) (p_tele : Part.tele ∈ ps := by assumption) :
    Touches ps s (State.setDeltas x a1 a2) := by
  unfold State.setDeltas
  repeat' first
    | with_reducible assumption
    | intro _ _
    | intro _
    | with_reducible apply Touches.choose
    | split
    | dsimp only
    | with_reducible apply Touches.upd
    | exact Or.inl (by assumption)
    | exact Or.inr rfl

theorem State.faultAt_touches {ps s x} {a1 a2 a3 a4} (h : Touches ps s x) (p_flt : Part.flt ∈ ps := by assumption) :
    Touches ps s (State.faultAt x a1 a2 a3 a4) := by
  unfold State.faultAt
  repeat' first
    | with_reducible assumption
    | intro _ _
    | intro _
    | with_reducible apply Touches.choose
    | with_reducible apply State.fault_touches
    | with_reducible apply State.faultInjected_touches

theorem State.pairAdd_touches {ps s x} {a1 a2}
    (h : Touches ps s x) (p_regs : Part.regs ∈ ps := by assumption) (p_dev : Part.dev ∈ ps := by assumption) (p_flt : Part.flt ∈ ps := by assumption) (p_act : Part.act ∈ ps := by assumption) :
    Touches ps s (State.pairAdd x a1 a2) := by
  unfold State.pairAdd
  repeat' first
    | with_reducible assumption
    | intro _ _
    | intro _
    | with_reducible apply Touches.choose
    | with_reducible apply State.inc_touches
    | with_reducible apply State.memSet_touches
    | with_reducible apply State.qdrOp_touches
    | with_reducible apply State.faultAt_touches

theorem State.deltaFlush_touches {ps s x} {a1 a2 a3}
    (h : Touches ps s x) (p_regs : Part.regs ∈ ps := by assumption) (p_dev : Part.dev ∈ ps := by assumption) (p_outbox : Part.outbox ∈ ps := by assumption) (p_flt : Part.flt ∈ ps := by assumption) (p_act : Part.act ∈ ps := by assumption) (p_host : Part.host ∈ ps := by assumption) (p_tele : Part.tele ∈ ps := by assumption) :
    Touches ps s (State.deltaFlush x a1 a2 a3) := by
  unfold State.deltaFlush
  repeat' first
    | with_reducible assumption
    | intro _ _
    | intro _
    | with_reducible apply State.tally_touches
    | with_reducible apply State.setDeltas_touches
    | with_reducible apply State.pairAdd_touches
    | split

theorem State.deltaPost_touches {ps s x} {a1 a2 a3}
    (h : Touches ps s x) (p_regs : Part.regs ∈ ps := by assumption) (p_dev : Part.dev ∈ ps := by assumption) (p_outbox : Part.outbox ∈ ps := by assumption) (p_flt : Part.flt ∈ ps := by assumption) (p_act : Part.act ∈ ps := by assumption) (p_host : Part.host ∈ ps := by assumption) (p_tele : Part.tele ∈ ps := by assumption) :
    Touches ps s (State.deltaPost x a1 a2 a3) := by
  unfold State.deltaPost
  repeat' first
    | with_reducible assumption
    | intro _ _
    | intro _
    | with_reducible apply State.when_touches
    | with_reducible apply State.when_touches
    | with_reducible apply State.setDeltas_touches
    | with_reducible apply State.deltaFlush_touches
    | split

theorem State.count_touches {ps s x} {a1 a2 a3}
    (h : Touches ps s x) (p_regs : Part.regs ∈ ps := by assumption) (p_dev : Part.dev ∈ ps := by assumption) (p_outbox : Part.outbox ∈ ps := by assumption) (p_flt : Part.flt ∈ ps := by assumption) (p_act : Part.act ∈ ps := by assumption) (p_host : Part.host ∈ ps := by assumption) (p_buf : Part.buf ∈ ps := by assumption) (p_tele : Part.tele ∈ ps := by assumption) :
    Touches ps s (State.count x a1 a2 a3) := by
  unfold State.count
  repeat' first
    | with_reducible assumption
    | intro _ _
    | intro _
    | with_reducible apply Touches.choose
    | with_reducible apply State.inc_touches
    | with_reducible apply State.putStore_touches
    | with_reducible apply State.deltaPost_touches

theorem State.counterFlush_touches {ps s x}
    (h : Touches ps s x) (p_regs : Part.regs ∈ ps := by assumption) (p_tele : Part.tele ∈ ps := by assumption) :
    Touches ps s (State.counterFlush x) := by
  unfold State.counterFlush
  repeat' first
    | with_reducible assumption
    | intro _ _
    | intro _
    | with_reducible apply State.setB_touches
    | split
    | dsimp only
    | with_reducible apply Touches.upd
    | exact Or.inl (by assumption)
    | exact Or.inr rfl

theorem State.counterFlushDone_touches {ps s x}
    (h : Touches ps s x) (p_regs : Part.regs ∈ ps := by assumption) (p_dev : Part.dev ∈ ps := by assumption) (p_outbox : Part.outbox ∈ ps := by assumption) (p_flt : Part.flt ∈ ps := by assumption) (p_act : Part.act ∈ ps := by assumption) (p_host : Part.host ∈ ps := by assumption) (p_tele : Part.tele ∈ ps := by assumption) :
    Touches ps s (State.counterFlushDone x) := by
  unfold State.counterFlushDone
  repeat' first
    | with_reducible assumption
    | intro _ _
    | intro _
    | with_reducible apply Touches.choose
    | with_reducible apply Touches.foldl
    | with_reducible apply Touches.foldl_snd
    | with_reducible apply Touches.foldl_fst
    | with_reducible apply Touches.foldl_third
    | with_reducible apply State.setB_touches
    | with_reducible apply State.event_touches
    | with_reducible apply State.deltaFlush_touches
    | split
    | dsimp only
    | with_reducible apply Touches.upd
    | exact Or.inl (by assumption)
    | exact Or.inr rfl

theorem State.flushPass_touches {ps s x}
    (h : Touches ps s x) (p_regs : Part.regs ∈ ps := by assumption) (p_flt : Part.flt ∈ ps := by assumption) (p_anvil : Part.anvil ∈ ps := by assumption) :
    Touches ps s (State.flushPass x) := by
  unfold State.flushPass
  repeat' first
    | with_reducible assumption
    | intro _ _
    | intro _
    | with_reducible apply State.when_touches
    | with_reducible apply State.set_touches
    | with_reducible apply State.when_touches
    | with_reducible apply State.passEnd_touches
    | with_reducible apply State.coverMiss_touches
    | refine State.passEnd_touchesE (by with_reducible assumption) ?_
    | split
    | dsimp only

theorem State.flushStep_touches {ps s x} {a1 a2}
    (h : Touches ps s x) (p_regs : Part.regs ∈ ps := by assumption) (p_dev : Part.dev ∈ ps := by assumption) (p_outbox : Part.outbox ∈ ps := by assumption) (p_flt : Part.flt ∈ ps := by assumption) (p_act : Part.act ∈ ps := by assumption) (p_anvil : Part.anvil ∈ ps := by assumption) (p_host : Part.host ∈ ps := by assumption) (p_tele : Part.tele ∈ ps := by assumption) :
    Touches ps s (State.flushStep x a1 a2) := by
  unfold State.flushStep
  repeat' first
    | with_reducible assumption
    | intro _ _
    | intro _
    | with_reducible apply Touches.choose
    | with_reducible apply Touches.foldl
    | with_reducible apply Touches.foldl_snd
    | with_reducible apply Touches.foldl_fst
    | with_reducible apply Touches.foldl_third
    | with_reducible apply Touches.upTo
    | with_reducible apply State.deltaFlush_touches
    | with_reducible apply State.flushPass_touches
    | split
    | dsimp only
    | with_reducible apply Touches.upd
    | exact Or.inl (by assumption)
    | exact Or.inr rfl

theorem State.fsStamp_touches {ps s x} {a1} (h : Touches ps s x) (p_tele : Part.tele ∈ ps := by assumption) :
    Touches ps s (State.fsStamp x a1) := by
  unfold State.fsStamp
  repeat' first
    | with_reducible assumption
    | intro _ _
    | intro _
    | with_reducible apply Touches.choose
    | split
    | dsimp only
    | with_reducible apply Touches.upd
    | exact Or.inl (by assumption)
    | exact Or.inr rfl

theorem State.fsPop_touches {ps s x} {a1 a2}
    (h : Touches ps s x) (p_regs : Part.regs ∈ ps := by assumption) (p_tele : Part.tele ∈ ps := by assumption) :
    Touches ps s (State.fsPop x a1 a2) := by
  unfold State.fsPop
  repeat' first
    | with_reducible assumption
    | intro _ _
    | intro _
    | with_reducible apply State.set_touches
    | split
    | dsimp only
    | with_reducible apply Touches.upd
    | exact Or.inl (by assumption)
    | exact Or.inr rfl

theorem State.fsWrite_touches {ps s x} {a1 a2}
    (h : Touches ps s x) (p_regs : Part.regs ∈ ps := by assumption) (p_dev : Part.dev ∈ ps := by assumption) (p_flt : Part.flt ∈ ps := by assumption) (p_act : Part.act ∈ ps := by assumption) (p_tele : Part.tele ∈ ps := by assumption) :
    Touches ps s (State.fsWrite x a1 a2) := by
  unfold State.fsWrite
  repeat' first
    | with_reducible assumption
    | intro _ _
    | intro _
    | with_reducible apply Touches.choose
    | with_reducible apply State.set_touches
    | with_reducible apply State.inc_touches
    | with_reducible apply State.memStore_touches
    | with_reducible apply State.qdrOp_touches
    | with_reducible apply State.fsStamp_touches
    | with_reducible apply State.fsPop_touches

theorem State.flowEvict_touches {ps s x} {a1 a2}
    (h : Touches ps s x) (p_regs : Part.regs ∈ ps := by assumption) (p_dev : Part.dev ∈ ps := by assumption) (p_outbox : Part.outbox ∈ ps := by assumption) (p_flt : Part.flt ∈ ps := by assumption) (p_act : Part.act ∈ ps := by assumption) (p_host : Part.host ∈ ps := by assumption) (p_tele : Part.tele ∈ ps := by assumption) :
    Touches ps s (State.flowEvict x a1 a2) := by
  unfold State.flowEvict
  repeat' first
    | with_reducible assumption
    | intro _ _
    | intro _
    | with_reducible apply State.inc_touches
    | with_reducible apply State.tally_touches
    | with_reducible apply State.fsWrite_touches
    | split
    | dsimp only
    | with_reducible apply Touches.upd
    | exact Or.inl (by assumption)
    | exact Or.inr rfl

theorem State.putFlow_touches {ps s x} {a1 a2} (h : Touches ps s x) (p_tele : Part.tele ∈ ps := by assumption) :
    Touches ps s (State.putFlow x a1 a2) := by
  unfold State.putFlow
  repeat' first
    | with_reducible assumption
    | intro _ _
    | intro _
    | split
    | dsimp only
    | with_reducible apply Touches.upd
    | exact Or.inl (by assumption)
    | exact Or.inr rfl

theorem State.flowFold_touches {ps s x} {a1 a2}
    (h : Touches ps s x) (p_regs : Part.regs ∈ ps := by assumption) (p_dev : Part.dev ∈ ps := by assumption) (p_outbox : Part.outbox ∈ ps := by assumption) (p_flt : Part.flt ∈ ps := by assumption) (p_act : Part.act ∈ ps := by assumption) (p_host : Part.host ∈ ps := by assumption) (p_tele : Part.tele ∈ ps := by assumption) :
    Touches ps s (State.flowFold x a1 a2) := by
  unfold State.flowFold
  repeat' first
    | with_reducible assumption
    | intro _ _
    | intro _
    | with_reducible apply Touches.choose
    | with_reducible apply State.set_touches
    | with_reducible apply State.add_touches
    | with_reducible apply State.tally_touches
    | with_reducible apply State.flowEvict_touches
    | with_reducible apply State.putFlow_touches
    | split
    | dsimp only

theorem State.flowBad_touches {ps s x} {a1}
    (h : Touches ps s x) (p_regs : Part.regs ∈ ps := by assumption) (p_flt : Part.flt ∈ ps := by assumption) (p_tele : Part.tele ∈ ps := by assumption) :
    Touches ps s (State.flowBad x a1) := by
  unfold State.flowBad
  repeat' first
    | with_reducible assumption
    | intro _ _
    | intro _
    | with_reducible apply Touches.choose
    | with_reducible apply State.inc_touches
    | with_reducible apply State.fault_touches
    | split
    | dsimp only
    | with_reducible apply Touches.upd
    | exact Or.inl (by assumption)
    | exact Or.inr rfl

theorem State.flowExpire_touches {ps s x} {a1 a2}
    (h : Touches ps s x) (p_regs : Part.regs ∈ ps := by assumption) (p_dev : Part.dev ∈ ps := by assumption) (p_outbox : Part.outbox ∈ ps := by assumption) (p_flt : Part.flt ∈ ps := by assumption) (p_act : Part.act ∈ ps := by assumption) (p_host : Part.host ∈ ps := by assumption) (p_tele : Part.tele ∈ ps := by assumption) :
    Touches ps s (State.flowExpire x a1 a2) := by
  unfold State.flowExpire
  repeat' first
    | with_reducible assumption
    | intro _ _
    | intro _
    | with_reducible apply State.flowEvict_touches
    | split

theorem State.setExpire_touches {ps s x} {a1}
    (h : Touches ps s x) (p_regs : Part.regs ∈ ps := by assumption) (p_dev : Part.dev ∈ ps := by assumption) (p_outbox : Part.outbox ∈ ps := by assumption) (p_flt : Part.flt ∈ ps := by assumption) (p_act : Part.act ∈ ps := by assumption) (p_host : Part.host ∈ ps := by assumption) (p_tele : Part.tele ∈ ps := by assumption) :
    Touches ps s (State.setExpire x a1) := by
  unfold State.setExpire
  repeat' first
    | with_reducible assumption
    | intro _ _
    | intro _
    | with_reducible apply Touches.upTo
    | with_reducible apply State.set_touches
    | with_reducible apply State.flowExpire_touches
    | split

theorem State.exportStep_touches {ps s x} {a1 a2}
    (h : Touches ps s x) (p_regs : Part.regs ∈ ps := by assumption) (p_dev : Part.dev ∈ ps := by assumption) (p_outbox : Part.outbox ∈ ps := by assumption) (p_flt : Part.flt ∈ ps := by assumption) (p_act : Part.act ∈ ps := by assumption) (p_host : Part.host ∈ ps := by assumption) (p_tele : Part.tele ∈ ps := by assumption) :
    Touches ps s (State.exportStep x a1 a2) := by
  unfold State.exportStep
  repeat' first
    | with_reducible assumption
    | intro _ _
    | intro _
    | with_reducible apply Touches.foldl
    | with_reducible apply Touches.foldl_snd
    | with_reducible apply Touches.foldl_fst
    | with_reducible apply Touches.foldl_third
    | with_reducible apply Touches.upTo
    | with_reducible apply State.set_touches
    | with_reducible apply State.flowBad_touches
    | with_reducible apply State.setExpire_touches

theorem State.fsReadPtr_touches {ps s x} {a1 a2} (h : Touches ps s x) (p_regs : Part.regs ∈ ps := by assumption) :
    Touches ps s (State.fsReadPtr x a1 a2) := by
  unfold State.fsReadPtr
  repeat' first
    | with_reducible assumption
    | intro _ _
    | intro _
    | with_reducible apply Touches.choose
    | with_reducible apply State.set_touches

theorem State.batchSend_touches {ps s x} {a1}
    (h : Touches ps s x) (p_regs : Part.regs ∈ ps := by assumption) (p_outbox : Part.outbox ∈ ps := by assumption) (p_act : Part.act ∈ ps := by assumption) (p_host : Part.host ∈ ps := by assumption) (p_tele : Part.tele ∈ ps := by assumption) :
    Touches ps s (State.batchSend x a1) := by
  unfold State.batchSend
  repeat' first
    | with_reducible assumption
    | intro _ _
    | intro _
    | with_reducible apply Touches.choose
    | with_reducible apply State.qdrOp_touches
    | with_reducible apply State.tally_touches
    | with_reducible apply State.colPush_touches
    | with_reducible apply State.fsPop_touches

/-! ### Machine/Queues.lean -/

theorem State.putBucket_touches {ps s x} {a1 a2} (h : Touches ps s x) (p_que : Part.que ∈ ps := by assumption) :
    Touches ps s (State.putBucket x a1 a2) := by
  unfold State.putBucket
  repeat' first
    | with_reducible assumption
    | intro _ _
    | intro _
    | split
    | dsimp only
    | with_reducible apply Touches.upd
    | exact Or.inl (by assumption)
    | exact Or.inr rfl

theorem State.shaperMove_touches {ps s x} {a1 a2} (h : Touches ps s x) (p_que : Part.que ∈ ps := by assumption) :
    Touches ps s (State.shaperMove x a1 a2) := by
  unfold State.shaperMove
  repeat' first
    | with_reducible assumption
    | intro _ _
    | intro _
    | with_reducible apply Touches.choose
    | with_reducible apply State.putBucket_touches

theorem State.shaperCharge_touches {ps s x} {a1 a2} (h : Touches ps s x) (p_que : Part.que ∈ ps := by assumption) :
    Touches ps s (State.shaperCharge x a1 a2) := by
  unfold State.shaperCharge
  repeat' first
    | with_reducible assumption
    | intro _ _
    | intro _
    | with_reducible apply State.shaperMove_touches

theorem State.debtRepaid_touches {ps s x} {a1} (h : Touches ps s x) (p_que : Part.que ∈ ps := by assumption) :
    Touches ps s (State.debtRepaid x a1) := by
  unfold State.debtRepaid
  repeat' first
    | with_reducible assumption
    | intro _ _
    | intro _
    | with_reducible apply Touches.choose
    | with_reducible apply State.putBucket_touches

theorem State.slowPut_touches {ps s x} {a1 a2 a3} (h : Touches ps s x) (p_buf : Part.buf ∈ ps := by assumption) :
    Touches ps s (State.slowPut x a1 a2 a3) := by
  unfold State.slowPut
  repeat' first
    | with_reducible assumption
    | intro _ _
    | intro _
    | split
    | dsimp only
    | with_reducible apply Touches.upd
    | exact Or.inl (by assumption)
    | exact Or.inr rfl

theorem State.slowPass_touches {ps s x} {a1 a2}
    (h : Touches ps s x) (p_regs : Part.regs ∈ ps := by assumption) (p_outbox : Part.outbox ∈ ps := by assumption) (p_act : Part.act ∈ ps := by assumption) (p_host : Part.host ∈ ps := by assumption) (p_buf : Part.buf ∈ ps := by assumption) :
    Touches ps s (State.slowPass x a1 a2).2 := by
  unfold State.slowPass
  repeat' first
    | with_reducible assumption
    | intro _ _
    | intro _
    | with_reducible apply Touches.choose
    | with_reducible apply State.inc_touches
    | with_reducible apply State.tally_touches
    | with_reducible apply State.slowPut_touches
    | split
    | dsimp only
theorem State.slowPass_touchesE {ps s x} {a1 a2} {r0 t} (e : State.slowPass x a1 a2 = (r0, t))
    (h : Touches ps s x) (p_regs : Part.regs ∈ ps := by assumption) (p_outbox : Part.outbox ∈ ps := by assumption) (p_act : Part.act ∈ ps := by assumption) (p_host : Part.host ∈ ps := by assumption) (p_buf : Part.buf ∈ ps := by assumption) :
    Touches ps s t := by
  have k := State.slowPass_touches (ps := ps) (s := s) (x := x) (a1 := a1) (a2 := a2) h
  rwa [e] at k

theorem State.policerMark_touches {ps s x} {a1 a2 a3} (h : Touches ps s x) (p_que : Part.que ∈ ps := by assumption) :
    Touches ps s (State.policerMark x a1 a2 a3).2 := by
  unfold State.policerMark
  repeat' first
    | with_reducible assumption
    | intro _ _
    | intro _
    | with_reducible apply Touches.choose
    | with_reducible apply State.putBucket_touches
    | split
    | dsimp only
theorem State.policerMark_touchesE {ps s x} {a1 a2 a3} {r0 t} (e : State.policerMark x a1 a2 a3 = (r0, t))
    (h : Touches ps s x) (p_que : Part.que ∈ ps := by assumption) :
    Touches ps s t := by
  have k := State.policerMark_touches (ps := ps) (s := s) (x := x) (a1 := a1) (a2 := a2) (a3 := a3) h
  rwa [e] at k

theorem State.policerEval_touches {ps s x} {a1 a2 a3 a4 a5}
    (h : Touches ps s x) (p_regs : Part.regs ∈ ps := by assumption) (p_dev : Part.dev ∈ ps := by assumption) (p_outbox : Part.outbox ∈ ps := by assumption) (p_flt : Part.flt ∈ ps := by assumption) (p_act : Part.act ∈ ps := by assumption) (p_host : Part.host ∈ ps := by assumption) (p_buf : Part.buf ∈ ps := by assumption) (p_que : Part.que ∈ ps := by assumption) (p_tele : Part.tele ∈ ps := by assumption) :
    Touches ps s (State.policerEval x a1 a2 a3 a4 a5).2.2 := by
  unfold State.policerEval
  repeat' first
    | with_reducible assumption
    | intro _ _
    | intro _
    | with_reducible apply State.when_touches
    | with_reducible apply State.inc_touches
    | with_reducible apply State.when_touches
    | with_reducible apply State.count_touches
    | with_reducible apply State.policerMark_touches
theorem State.policerEval_touchesE {ps s x} {a1 a2 a3 a4 a5} {r0 r1 t} (e : State.policerEval x a1 a2 a3 a4 a5 = (r0, r1, t))
    (h : Touches ps s x) (p_regs : Part.regs ∈ ps := by assumption) (p_dev : Part.dev ∈ ps := by assumption) (p_outbox : Part.outbox ∈ ps := by assumption) (p_flt : Part.flt ∈ ps := by assumption) (p_act : Part.act ∈ ps := by assumption) (p_host : Part.host ∈ ps := by assumption) (p_buf : Part.buf ∈ ps := by assumption) (p_que : Part.que ∈ ps := by assumption) (p_tele : Part.tele ∈ ps := by assumption) :
    Touches ps s t := by
  have k := State.policerEval_touches (ps := ps) (s := s) (x := x) (a1 := a1) (a2 := a2) (a3 := a3) (a4 := a4) (a5 := a5) h
  rwa [e] at k

theorem State.setQueue_touches {ps s x} {a1 a2} (h : Touches ps s x) (p_que : Part.que ∈ ps := by assumption) :
    Touches ps s (State.setQueue x a1 a2) := by
  unfold State.setQueue
  repeat' first
    | with_reducible assumption
    | intro _ _
    | intro _
    | with_reducible apply Touches.choose
    | split
    | dsimp only
    | with_reducible apply Touches.upd
    | exact Or.inl (by assumption)
    | exact Or.inr rfl

theorem State.ecnDecide_touches {ps s x} {a1 a2} (h : Touches ps s x) (p_draws : Part.draws ∈ ps := by assumption) :
    Touches ps s (State.ecnDecide x a1 a2).2 := by
  unfold State.ecnDecide
  repeat' first
    | with_reducible assumption
    | intro _ _
    | intro _
    | with_reducible apply Touches.choose
    | with_reducible apply State.draw_touches
    | split
    | dsimp only
theorem State.ecnDecide_touchesE {ps s x} {a1 a2} {r0 t} (e : State.ecnDecide x a1 a2 = (r0, t))
    (h : Touches ps s x) (p_draws : Part.draws ∈ ps := by assumption) :
    Touches ps s t := by
  have k := State.ecnDecide_touches (ps := ps) (s := s) (x := x) (a1 := a1) (a2 := a2) h
  rwa [e] at k

theorem State.link_touches {ps s x} {a1}
    (h : Touches ps s x) (p_regs : Part.regs ∈ ps := by assumption) (p_draws : Part.draws ∈ ps := by assumption) (p_outbox : Part.outbox ∈ ps := by assumption) (p_flt : Part.flt ∈ ps := by assumption) (p_act : Part.act ∈ ps := by assumption) (p_host : Part.host ∈ ps := by assumption) (p_buf : Part.buf ∈ ps := by assumption) (p_que : Part.que ∈ ps := by assumption) :
    Touches ps s (State.link x a1) := by
  unfold State.link
  repeat' first
    | with_reducible assumption
    | intro _ _
    | intro _
    | with_reducible apply Touches.choose
    | with_reducible apply State.when_touches
    | with_reducible apply State.inc_touches
    | with_reducible apply State.when_touches
    | with_reducible apply State.tally_touches
    | with_reducible apply State.handleErr_touches
    | with_reducible apply State.inflightDec_touches
    | with_reducible apply State.instEnd_touches
    | with_reducible apply State.setQueue_touches
    | with_reducible apply State.ecnDecide_touches

theorem State.setHolds_touches {ps s x} {a1 a2} (h : Touches ps s x) (p_que : Part.que ∈ ps := by assumption) :
    Touches ps s (State.setHolds x a1 a2) := by
  unfold State.setHolds
  repeat' first
    | with_reducible assumption
    | intro _ _
    | intro _
    | with_reducible apply Touches.choose
    | split
    | dsimp only
    | with_reducible apply Touches.upd
    | exact Or.inl (by assumption)
    | exact Or.inr rfl

theorem State.holdPut_touches {ps s x} {a1 a2 a3 a4}
    (h : Touches ps s x) (p_regs : Part.regs ∈ ps := by assumption) (p_que : Part.que ∈ ps := by assumption) :
    Touches ps s (State.holdPut x a1 a2 a3 a4) := by
  unfold State.holdPut
  repeat' first
    | with_reducible assumption
    | intro _ _
    | intro _
    | with_reducible apply State.when_touches
    | with_reducible apply State.inc_touches
    | with_reducible apply State.when_touches
    | with_reducible apply State.setHolds_touches

theorem State.holdJoin_touches {ps s x} {a1 a2}
    (h : Touches ps s x) (p_regs : Part.regs ∈ ps := by assumption) (p_que : Part.que ∈ ps := by assumption) :
    Touches ps s (State.holdJoin x a1 a2) := by
  unfold State.holdJoin
  repeat' first
    | with_reducible assumption
    | intro _ _
    | intro _
    | with_reducible apply State.holdPut_touches

theorem State.downDiscard_touches {ps s x} {a1}
    (h : Touches ps s x) (p_regs : Part.regs ∈ ps := by assumption) (p_outbox : Part.outbox ∈ ps := by assumption) (p_flt : Part.flt ∈ ps := by assumption) (p_act : Part.act ∈ ps := by assumption) (p_host : Part.host ∈ ps := by assumption) (p_buf : Part.buf ∈ ps := by assumption) :
    Touches ps s (State.downDiscard x a1) := by
  unfold State.downDiscard
  repeat' first
    | with_reducible assumption
    | intro _ _
    | intro _
    | with_reducible apply Touches.choose
    | with_reducible apply State.inc_touches
    | with_reducible apply State.instEnd_touches

theorem State.enqueue_touches {ps s x} {a1}
    (h : Touches ps s x) (p_regs : Part.regs ∈ ps := by assumption) (p_draws : Part.draws ∈ ps := by assumption) (p_outbox : Part.outbox ∈ ps := by assumption) (p_flt : Part.flt ∈ ps := by assumption) (p_act : Part.act ∈ ps := by assumption) (p_host : Part.host ∈ ps := by assumption) (p_buf : Part.buf ∈ ps := by assumption) (p_que : Part.que ∈ ps := by assumption) :
    Touches ps s (State.enqueue x a1) := by
  unfold State.enqueue
  repeat' first
    | with_reducible assumption
    | intro _ _
    | intro _
    | with_reducible apply Touches.choose
    | with_reducible apply State.inc_touches
    | with_reducible apply State.instEnd_touches
    | with_reducible apply State.link_touches
    | with_reducible apply State.holdJoin_touches
    | with_reducible apply State.downDiscard_touches

theorem State.setResidue_touches {ps s x} {a1 a2} (h : Touches ps s x) (p_que : Part.que ∈ ps := by assumption) :
    Touches ps s (State.setResidue x a1 a2) := by
  unfold State.setResidue
  repeat' first
    | with_reducible assumption
    | intro _ _
    | intro _
    | with_reducible apply Touches.choose
    | split
    | dsimp only
    | with_reducible apply Touches.upd
    | exact Or.inl (by assumption)
    | exact Or.inr rfl

theorem State.replicate_touches {ps s x i g full l}
    (h : Touches ps s x) (p_regs : Part.regs ∈ ps := by assumption) (p_draws : Part.draws ∈ ps := by assumption) (p_outbox : Part.outbox ∈ ps := by assumption) (p_flt : Part.flt ∈ ps := by assumption) (p_act : Part.act ∈ ps := by assumption) (p_host : Part.host ∈ ps := by assumption) (p_buf : Part.buf ∈ ps := by assumption) (p_que : Part.que ∈ ps := by assumption) :
    Touches ps s (State.replicate x i g full l) := by
  induction l generalizing x with
  | nil => exact h
  | cons n rest ih =>
    simp only [State.replicate]
    split
    · exact State.inc_touches (State.holdPut_touches h)
    · split
      · exact ih (State.instEnd_touches (State.inc_touches h))
      · split
        · exact ih (State.downDiscard_touches h)
        · split
          · exact ih (State.link_touches h)
          · exact ih (State.setResidue_touches h)

theorem State.multicast_touches {ps s x} {a1 a2 a3}
    (h : Touches ps s x) (p_regs : Part.regs ∈ ps := by assumption) (p_draws : Part.draws ∈ ps := by assumption) (p_outbox : Part.outbox ∈ ps := by assumption) (p_flt : Part.flt ∈ ps := by assumption) (p_act : Part.act ∈ ps := by assumption) (p_host : Part.host ∈ ps := by assumption) (p_buf : Part.buf ∈ ps := by assumption) (p_que : Part.que ∈ ps := by assumption) :
    Touches ps s (State.multicast x a1 a2 a3) := by
  unfold State.multicast
  repeat' first
    | with_reducible assumption
    | intro _ _
    | intro _
    | with_reducible apply Touches.choose
    | with_reducible apply State.holdJoin_touches
    | with_reducible apply State.replicate_touches

theorem State.holdServe_touches {ps s x} {a1}
    (h : Touches ps s x) (p_regs : Part.regs ∈ ps := by assumption) (p_draws : Part.draws ∈ ps := by assumption) (p_outbox : Part.outbox ∈ ps := by assumption) (p_flt : Part.flt ∈ ps := by assumption) (p_act : Part.act ∈ ps := by assumption) (p_host : Part.host ∈ ps := by assumption) (p_buf : Part.buf ∈ ps := by assumption) (p_que : Part.que ∈ ps := by assumption) :
    Touches ps s (State.holdServe x a1) := by
  unfold State.holdServe
  repeat' first
    | with_reducible assumption
    | intro _ _
    | intro _
    | with_reducible apply Touches.choose
    | with_reducible apply State.link_touches
    | with_reducible apply State.setHolds_touches
    | with_reducible apply State.downDiscard_touches
    | with_reducible apply State.replicate_touches
    | split

theorem State.replResume_touches {ps s x} {a1}
    (h : Touches ps s x) (p_regs : Part.regs ∈ ps := by assumption) (p_draws : Part.draws ∈ ps := by assumption) (p_outbox : Part.outbox ∈ ps := by assumption) (p_flt : Part.flt ∈ ps := by assumption) (p_act : Part.act ∈ ps := by assumption) (p_host : Part.host ∈ ps := by assumption) (p_buf : Part.buf ∈ ps := by assumption) (p_que : Part.que ∈ ps := by assumption) :
    Touches ps s (State.replResume x a1) := by
  unfold State.replResume
  repeat' first
    | with_reducible assumption
    | intro _ _
    | intro _
    | with_reducible apply State.holdServe_touches
    | split

theorem State.residueLink_touches {ps s x} {a1}
    (h : Touches ps s x) (p_regs : Part.regs ∈ ps := by assumption) (p_draws : Part.draws ∈ ps := by assumption) (p_outbox : Part.outbox ∈ ps := by assumption) (p_flt : Part.flt ∈ ps := by assumption) (p_act : Part.act ∈ ps := by assumption) (p_host : Part.host ∈ ps := by assumption) (p_buf : Part.buf ∈ ps := by assumption) (p_que : Part.que ∈ ps := by assumption) :
    Touches ps s (State.residueLink x a1) := by
  unfold State.residueLink
  repeat' first
    | with_reducible assumption
    | intro _ _
    | intro _
    | with_reducible apply Touches.choose
    | with_reducible apply State.link_touches
    | with_reducible apply State.setResidue_touches
    | split

theorem State.flushPort_touches {ps s x} {a1}
    (h : Touches ps s x) (p_regs : Part.regs ∈ ps := by assumption) (p_outbox : Part.outbox ∈ ps := by assumption) (p_flt : Part.flt ∈ ps := by assumption) (p_act : Part.act ∈ ps := by assumption) (p_host : Part.host ∈ ps := by assumption) (p_buf : Part.buf ∈ ps := by assumption) (p_pipe : Part.pipe ∈ ps := by assumption) (p_que : Part.que ∈ ps := by assumption) (p_tele : Part.tele ∈ ps := by assumption) :
    Touches ps s (State.flushPort x a1) := by
  unfold State.flushPort
  repeat' first
    | with_reducible assumption
    | intro _ _
    | intro _
    | with_reducible apply Touches.choose
    | with_reducible apply Touches.foldl
    | with_reducible apply Touches.foldl_snd
    | with_reducible apply Touches.foldl_fst
    | with_reducible apply Touches.foldl_third
    | with_reducible apply State.add_touches
    | with_reducible apply State.dropCards_touches
    | with_reducible apply State.instEnd_touches
    | split
    | dsimp only
    | with_reducible apply Touches.upd
    | exact Or.inl (by assumption)
    | exact Or.inr rfl

theorem State.portHold_touches {ps s x} {a1}
    (h : Touches ps s x) (p_regs : Part.regs ∈ ps := by assumption) (p_outbox : Part.outbox ∈ ps := by assumption) (p_flt : Part.flt ∈ ps := by assumption) (p_act : Part.act ∈ ps := by assumption) (p_host : Part.host ∈ ps := by assumption) (p_buf : Part.buf ∈ ps := by assumption) (p_pipe : Part.pipe ∈ ps := by assumption) (p_que : Part.que ∈ ps := by assumption) (p_tele : Part.tele ∈ ps := by assumption) :
    Touches ps s (State.portHold x a1) := by
  unfold State.portHold
  repeat' first
    | with_reducible assumption
    | intro _ _
    | intro _
    | with_reducible apply Touches.choose
    | with_reducible apply State.setB_touches
    | with_reducible apply State.link_touches
    | with_reducible apply State.flushPort_touches
    | split
    | dsimp only
    | with_reducible apply Touches.upd
    | exact Or.inl (by assumption)
    | exact Or.inr rfl

theorem State.holdExpire_touches {ps s x} {a1}
    (h : Touches ps s x) (p_regs : Part.regs ∈ ps := by assumption) (p_outbox : Part.outbox ∈ ps := by assumption) (p_flt : Part.flt ∈ ps := by assumption) (p_act : Part.act ∈ ps := by assumption) (p_host : Part.host ∈ ps := by assumption) (p_buf : Part.buf ∈ ps := by assumption) (p_pipe : Part.pipe ∈ ps := by assumption) (p_que : Part.que ∈ ps := by assumption) (p_tele : Part.tele ∈ ps := by assumption) :
    Touches ps s (State.holdExpire x a1) := by
  unfold State.holdExpire
  repeat' first
    | with_reducible assumption
    | intro _ _
    | intro _
    | with_reducible apply Touches.choose
    | with_reducible apply State.setB_touches
    | with_reducible apply State.link_touches
    | with_reducible apply State.flushPort_touches

theorem State.actionErr_touches {ps s x} {a1 a2 a3 a4 a5}
    (h : Touches ps s x) (p_regs : Part.regs ∈ ps := by assumption) (p_outbox : Part.outbox ∈ ps := by assumption) (p_flt : Part.flt ∈ ps := by assumption) (p_act : Part.act ∈ ps := by assumption) (p_host : Part.host ∈ ps := by assumption) :
    Touches ps s (State.actionErr x a1 a2 a3 a4 a5) := by
  unfold State.actionErr
  repeat' first
    | with_reducible assumption
    | intro _ _
    | intro _
    | with_reducible apply State.set_touches
    | with_reducible apply State.setB_touches
    | with_reducible apply State.inc_touches
    | with_reducible apply State.fault_touches
    | with_reducible apply State.tally_touches

theorem State.fateForward_touches {ps s x} {a1 a2}
    (h : Touches ps s x) (p_regs : Part.regs ∈ ps := by assumption) (p_flt : Part.flt ∈ ps := by assumption) :
    Touches ps s (State.fateForward x a1 a2).2 := by
  unfold State.fateForward
  repeat' first
    | with_reducible assumption
    | intro _ _
    | intro _
    | with_reducible apply Touches.choose
    | with_reducible apply State.inc_touches
    | with_reducible apply State.fault_touches
    | split
    | dsimp only
theorem State.fateForward_touchesE {ps s x} {a1 a2} {r0 t} (e : State.fateForward x a1 a2 = (r0, t))
    (h : Touches ps s x) (p_regs : Part.regs ∈ ps := by assumption) (p_flt : Part.flt ∈ ps := by assumption) :
    Touches ps s t := by
  have k := State.fateForward_touches (ps := ps) (s := s) (x := x) (a1 := a1) (a2 := a2) h
  rwa [e] at k

theorem State.fateCpu_touches {ps s x} {a1 a2 a3 a4 a5}
    (h : Touches ps s x) (p_regs : Part.regs ∈ ps := by assumption) (p_outbox : Part.outbox ∈ ps := by assumption) (p_act : Part.act ∈ ps := by assumption) (p_host : Part.host ∈ ps := by assumption) (p_buf : Part.buf ∈ ps := by assumption) :
    Touches ps s (State.fateCpu x a1 a2 a3 a4 a5).2 := by
  unfold State.fateCpu
  repeat' first
    | with_reducible assumption
    | intro _ _
    | intro _
    | with_reducible apply State.slowPass_touches
    | refine State.slowPass_touchesE (by with_reducible assumption) ?_
    | split
theorem State.fateCpu_touchesE {ps s x} {a1 a2 a3 a4 a5} {r0 t} (e : State.fateCpu x a1 a2 a3 a4 a5 = (r0, t))
    (h : Touches ps s x) (p_regs : Part.regs ∈ ps := by assumption) (p_outbox : Part.outbox ∈ ps := by assumption) (p_act : Part.act ∈ ps := by assumption) (p_host : Part.host ∈ ps := by assumption) (p_buf : Part.buf ∈ ps := by assumption) :
    Touches ps s t := by
  have k := State.fateCpu_touches (ps := ps) (s := s) (x := x) (a1 := a1) (a2 := a2) (a3 := a3) (a4 := a4) (a5 := a5) h
  rwa [e] at k

theorem State.fate_touches {ps s x} {a1 a2 a3}
    (h : Touches ps s x) (p_regs : Part.regs ∈ ps := by assumption) (p_dev : Part.dev ∈ ps := by assumption) (p_outbox : Part.outbox ∈ ps := by assumption) (p_flt : Part.flt ∈ ps := by assumption) (p_act : Part.act ∈ ps := by assumption) (p_host : Part.host ∈ ps := by assumption) (p_buf : Part.buf ∈ ps := by assumption) (p_que : Part.que ∈ ps := by assumption) (p_tele : Part.tele ∈ ps := by assumption) :
    Touches ps s (State.fate x a1 a2 a3).2.2 := by
  unfold State.fate
  repeat' first
    | with_reducible assumption
    | intro _ _
    | intro _
    | with_reducible apply Touches.choose
    | with_reducible apply State.inc_touches
    | with_reducible apply State.policerEval_touches
    | with_reducible apply State.fateForward_touches
    | with_reducible apply State.fateCpu_touches
    | refine State.policerEval_touchesE (by with_reducible assumption) ?_
    | refine State.fateForward_touchesE (by with_reducible assumption) ?_
    | refine State.fateCpu_touchesE (by with_reducible assumption) ?_
    | split
    | dsimp only
theorem State.fate_touchesE {ps s x} {a1 a2 a3} {r0 r1 t} (e : State.fate x a1 a2 a3 = (r0, r1, t))
    (h : Touches ps s x) (p_regs : Part.regs ∈ ps := by assumption) (p_dev : Part.dev ∈ ps := by assumption) (p_outbox : Part.outbox ∈ ps := by assumption) (p_flt : Part.flt ∈ ps := by assumption) (p_act : Part.act ∈ ps := by assumption) (p_host : Part.host ∈ ps := by assumption) (p_buf : Part.buf ∈ ps := by assumption) (p_que : Part.que ∈ ps := by assumption) (p_tele : Part.tele ∈ ps := by assumption) :
    Touches ps s t := by
  have k := State.fate_touches (ps := ps) (s := s) (x := x) (a1 := a1) (a2 := a2) (a3 := a3) h
  rwa [e] at k

theorem State.setRefs_touches {ps s x} {a1 a2}
    (h : Touches ps s x) (p_regs : Part.regs ∈ ps := by assumption) (p_outbox : Part.outbox ∈ ps := by assumption) (p_flt : Part.flt ∈ ps := by assumption) (p_act : Part.act ∈ ps := by assumption) (p_host : Part.host ∈ ps := by assumption) (p_buf : Part.buf ∈ ps := by assumption) :
    Touches ps s (State.setRefs x a1 a2) := by
  unfold State.setRefs
  repeat' first
    | with_reducible assumption
    | intro _ _
    | intro _
    | with_reducible apply Touches.choose
    | with_reducible apply State.set_touches
    | with_reducible apply State.putStore_touches
    | with_reducible apply State.release_touches
    | with_reducible apply State.inflightDec_touches

theorem State.launchCapture_touches {ps s x} {a1}
    (h : Touches ps s x) (p_regs : Part.regs ∈ ps := by assumption) (p_outbox : Part.outbox ∈ ps := by assumption) (p_flt : Part.flt ∈ ps := by assumption) (p_act : Part.act ∈ ps := by assumption) (p_host : Part.host ∈ ps := by assumption) :
    Touches ps s (State.launchCapture x a1).2 := by
  unfold State.launchCapture
  repeat' first
    | with_reducible assumption
    | intro _ _
    | intro _
    | with_reducible apply Touches.choose
    | with_reducible apply State.actionErr_touches
    | split
    | dsimp only
theorem State.launchCapture_touchesE {ps s x} {a1} {r0 t} (e : State.launchCapture x a1 = (r0, t))
    (h : Touches ps s x) (p_regs : Part.regs ∈ ps := by assumption) (p_outbox : Part.outbox ∈ ps := by assumption) (p_flt : Part.flt ∈ ps := by assumption) (p_act : Part.act ∈ ps := by assumption) (p_host : Part.host ∈ ps := by assumption) :
    Touches ps s t := by
  have k := State.launchCapture_touches (ps := ps) (s := s) (x := x) (a1 := a1) h
  rwa [e] at k

theorem State.endIngress_touches {ps s x} {a1}
    (h : Touches ps s x) (p_regs : Part.regs ∈ ps := by assumption) (p_dev : Part.dev ∈ ps := by assumption) (p_draws : Part.draws ∈ ps := by assumption) (p_outbox : Part.outbox ∈ ps := by assumption) (p_flt : Part.flt ∈ ps := by assumption) (p_act : Part.act ∈ ps := by assumption) (p_host : Part.host ∈ ps := by assumption) (p_buf : Part.buf ∈ ps := by assumption) (p_que : Part.que ∈ ps := by assumption) (p_tele : Part.tele ∈ ps := by assumption) :
    Touches ps s (State.endIngress x a1).2 := by
  unfold State.endIngress
  repeat' first
    | with_reducible assumption
    | intro _ _
    | intro _
    | with_reducible apply State.when_touches
    | with_reducible apply State.when_touches
    | with_reducible apply State.count_touches
    | with_reducible apply State.enqueue_touches
    | with_reducible apply State.multicast_touches
    | with_reducible apply State.fate_touches
    | with_reducible apply State.setRefs_touches
    | with_reducible apply State.launchCapture_touches
    | refine State.fate_touchesE (by with_reducible assumption) ?_
    | refine State.launchCapture_touchesE (by with_reducible assumption) ?_
    | split
    | dsimp only
theorem State.endIngress_touchesE {ps s x} {a1} {r0 t} (e : State.endIngress x a1 = (r0, t))
    (h : Touches ps s x) (p_regs : Part.regs ∈ ps := by assumption) (p_dev : Part.dev ∈ ps := by assumption) (p_draws : Part.draws ∈ ps := by assumption) (p_outbox : Part.outbox ∈ ps := by assumption) (p_flt : Part.flt ∈ ps := by assumption) (p_act : Part.act ∈ ps := by assumption) (p_host : Part.host ∈ ps := by assumption) (p_buf : Part.buf ∈ ps := by assumption) (p_que : Part.que ∈ ps := by assumption) (p_tele : Part.tele ∈ ps := by assumption) :
    Touches ps s t := by
  have k := State.endIngress_touches (ps := ps) (s := s) (x := x) (a1 := a1) h
  rwa [e] at k

/-! ### Machine/Parser.lean -/

theorem State.growChain_touches {ps s x y n}
    (h : Touches ps s x) (p_regs : Part.regs ∈ ps := by assumption) (p_buf : Part.buf ∈ ps := by assumption) :
    Touches ps s (State.growChain x y n).2.2 := by
  induction n generalizing x y with
  | zero => exact h
  | succ n ih =>
    simp only [State.growChain]
    split
    · exact ih (State.inc_touches h)
    · split
      · exact ih (State.when_touches (fun _ => State.inc_touches)
          (State.inc_touches (State.inc_touches (State.takeIngot_touchesE (by assumption) h))))
      · exact h

theorem State.growChain_touchesE {ps s x y n b r t} (e : State.growChain x y n = (b, r, t)) (h : Touches ps s x) (p_regs : Part.regs ∈ ps := by assumption) (p_buf : Part.buf ∈ ps := by assumption) :
    Touches ps s t := by
  have k := State.growChain_touches (y := y) (n := n) h
  rwa [e] at k

theorem State.fit_touches {ps s x} {a1 a2}
    (h : Touches ps s x) (p_regs : Part.regs ∈ ps := by assumption) (p_outbox : Part.outbox ∈ ps := by assumption) (p_flt : Part.flt ∈ ps := by assumption) (p_act : Part.act ∈ ps := by assumption) (p_host : Part.host ∈ ps := by assumption) (p_buf : Part.buf ∈ ps := by assumption) (p_pipe : Part.pipe ∈ ps := by assumption) (p_que : Part.que ∈ ps := by assumption) (p_tele : Part.tele ∈ ps := by assumption) :
    Touches ps s (State.fit x a1 a2).2 := by
  unfold State.fit
  repeat' first
    | with_reducible assumption
    | intro _ _
    | intro _
    | with_reducible apply State.inc_touches
    | with_reducible apply State.fault_touches
    | with_reducible apply State.putStore_touches
    | with_reducible apply State.purge_touches
    | with_reducible apply State.segsWritten_touches
    | with_reducible apply State.growChain_touches
    | refine State.growChain_touchesE (by with_reducible assumption) ?_
    | split
theorem State.fit_touchesE {ps s x} {a1 a2} {r0 t} (e : State.fit x a1 a2 = (r0, t))
    (h : Touches ps s x) (p_regs : Part.regs ∈ ps := by assumption) (p_outbox : Part.outbox ∈ ps := by assumption) (p_flt : Part.flt ∈ ps := by assumption) (p_act : Part.act ∈ ps := by assumption) (p_host : Part.host ∈ ps := by assumption) (p_buf : Part.buf ∈ ps := by assumption) (p_pipe : Part.pipe ∈ ps := by assumption) (p_que : Part.que ∈ ps := by assumption) (p_tele : Part.tele ∈ ps := by assumption) :
    Touches ps s t := by
  have k := State.fit_touches (ps := ps) (s := s) (x := x) (a1 := a1) (a2 := a2) h
  rwa [e] at k

theorem State.endAside_touches {ps s x} {a1} (h : Touches ps s x) (p_buf : Part.buf ∈ ps := by assumption) :
    Touches ps s (State.endAside x a1) := by
  unfold State.endAside
  repeat' first
    | with_reducible assumption
    | intro _ _
    | intro _
    | with_reducible apply Touches.foldl
    | with_reducible apply Touches.foldl_snd
    | with_reducible apply Touches.foldl_fst
    | with_reducible apply Touches.foldl_third
    | with_reducible apply State.putStore_touches
    | with_reducible apply State.giveIngot_touches

theorem State.grantRoom_touchesE {ps s x f d a b t} (e : State.grantRoom x f d = some (a, b, t))
    (h : Touches ps s x) (p_regs : Part.regs ∈ ps := by assumption) (p_buf : Part.buf ∈ ps := by assumption) :
    Touches ps s t := by
  unfold State.grantRoom at e
  split at e <;> split at e <;> cases e
  · exact State.allocDecl_touchesE (by assumption) h
  · exact State.allocChain_touchesE (by assumption) h

theorem State.countParse_touches {ps s x} {a1 a2 a3}
    (h : Touches ps s x) (p_regs : Part.regs ∈ ps := by assumption) (p_draws : Part.draws ∈ ps := by assumption) (p_outbox : Part.outbox ∈ ps := by assumption) (p_act : Part.act ∈ ps := by assumption) (p_host : Part.host ∈ ps := by assumption) :
    Touches ps s (State.countParse x a1 a2 a3) := by
  unfold State.countParse
  repeat' first
    | with_reducible assumption
    | intro _ _
    | intro _
    | with_reducible apply State.set_touches
    | with_reducible apply State.setB_touches
    | with_reducible apply State.inc_touches
    | with_reducible apply State.draw_touches
    | with_reducible apply State.tally_touches
    | split

theorem State.bypass_touches {ps s x} {a1}
    (h : Touches ps s x) (p_regs : Part.regs ∈ ps := by assumption) (p_draws : Part.draws ∈ ps := by assumption) (p_outbox : Part.outbox ∈ ps := by assumption) (p_flt : Part.flt ∈ ps := by assumption) (p_act : Part.act ∈ ps := by assumption) (p_host : Part.host ∈ ps := by assumption) (p_buf : Part.buf ∈ ps := by assumption) (p_que : Part.que ∈ ps := by assumption) :
    Touches ps s (State.bypass x a1) := by
  unfold State.bypass
  repeat' first
    | with_reducible assumption
    | intro _ _
    | intro _
    | with_reducible apply State.enqueue_touches
    | with_reducible apply State.setRefs_touches

theorem State.toRing_touches {ps s x} {a1 a2 a3 a4 a5}
    (h : Touches ps s x) (p_regs : Part.regs ∈ ps := by assumption) (p_draws : Part.draws ∈ ps := by assumption) (p_outbox : Part.outbox ∈ ps := by assumption) (p_flt : Part.flt ∈ ps := by assumption) (p_act : Part.act ∈ ps := by assumption) (p_host : Part.host ∈ ps := by assumption) (p_buf : Part.buf ∈ ps := by assumption) (p_que : Part.que ∈ ps := by assumption) :
    Touches ps s (State.toRing x a1 a2 a3 a4 a5) := by
  unfold State.toRing
  repeat' first
    | with_reducible assumption
    | intro _ _
    | intro _
    | with_reducible apply State.slowPass_touches
    | with_reducible apply State.setRefs_touches
    | with_reducible apply State.bypass_touches
    | refine State.slowPass_touchesE (by with_reducible assumption) ?_
    | split

theorem State.setIngress_touches {ps s x} {a1 a2} (h : Touches ps s x) (p_pipe : Part.pipe ∈ ps := by assumption) :
    Touches ps s (State.setIngress x a1 a2) := by
  unfold State.setIngress
  repeat' first
    | with_reducible assumption
    | intro _ _
    | intro _
    | with_reducible apply Touches.choose
    | split
    | dsimp only
    | with_reducible apply Touches.upd
    | exact Or.inl (by assumption)
    | exact Or.inr rfl

theorem State.route_touches {ps s x} {a1 a2 a3 a4}
    (h : Touches ps s x) (p_regs : Part.regs ∈ ps := by assumption) (p_draws : Part.draws ∈ ps := by assumption) (p_outbox : Part.outbox ∈ ps := by assumption) (p_flt : Part.flt ∈ ps := by assumption) (p_act : Part.act ∈ ps := by assumption) (p_host : Part.host ∈ ps := by assumption) (p_buf : Part.buf ∈ ps := by assumption) (p_pipe : Part.pipe ∈ ps := by assumption) (p_que : Part.que ∈ ps := by assumption) :
    Touches ps s (State.route x a1 a2 a3 a4) := by
  unfold State.route
  repeat' first
    | with_reducible assumption
    | intro _ _
    | intro _
    | with_reducible apply Touches.choose
    | with_reducible apply State.bypass_touches
    | with_reducible apply State.toRing_touches
    | with_reducible apply State.setIngress_touches
    | split

theorem State.lateShort_touches {ps s x} {a1 a2 a3} (h : Touches ps s x) (p_regs : Part.regs ∈ ps := by assumption) :
    Touches ps s (State.lateShort x a1 a2 a3) := by
  unfold State.lateShort
  repeat' first
    | with_reducible assumption
    | intro _ _
    | intro _
    | with_reducible apply State.when_touches
    | with_reducible apply State.inc_touches
    | with_reducible apply State.when_touches
    | split

theorem State.firstParse_touches {ps s x} {a1 a2 a3}
    (h : Touches ps s x) (p_regs : Part.regs ∈ ps := by assumption) (p_buf : Part.buf ∈ ps := by assumption) :
    Touches ps s (State.firstParse x a1 a2 a3) := by
  unfold State.firstParse
  repeat' first
    | with_reducible assumption
    | intro _ _
    | intro _
    | with_reducible apply State.putStore_touches
    | with_reducible apply State.inflightInc_touches

theorem State.rxMove_touches {ps s x} {a1 a2} (h : Touches ps s x) (p_buf : Part.buf ∈ ps := by assumption) :
    Touches ps s (State.rxMove x a1 a2) := by
  unfold State.rxMove
  repeat' first
    | with_reducible assumption
    | intro _ _
    | intro _
    | split
    | dsimp only
    | with_reducible apply Touches.upd
    | exact Or.inl (by assumption)
    | exact Or.inr rfl

theorem State.parseHead_touches {ps s x} {a1 a2 a3}
    (h : Touches ps s x) (p_regs : Part.regs ∈ ps := by assumption) (p_draws : Part.draws ∈ ps := by assumption) (p_outbox : Part.outbox ∈ ps := by assumption) (p_flt : Part.flt ∈ ps := by assumption) (p_act : Part.act ∈ ps := by assumption) (p_host : Part.host ∈ ps := by assumption) (p_buf : Part.buf ∈ ps := by assumption) (p_pipe : Part.pipe ∈ ps := by assumption) (p_que : Part.que ∈ ps := by assumption) (p_tele : Part.tele ∈ ps := by assumption) :
    Touches ps s (State.parseHead x a1 a2 a3) := by
  unfold State.parseHead
  repeat' first
    | with_reducible assumption
    | intro _ _
    | intro _
    | with_reducible apply Touches.choose
    | with_reducible apply State.when_touches
    | with_reducible apply State.inc_touches
    | with_reducible apply State.when_touches
    | with_reducible apply State.draw_touches
    | with_reducible apply State.tally_touches
    | with_reducible apply State.setList_touches
    | with_reducible apply State.xoffEval_touches
    | with_reducible apply State.uncharge_touches
    | with_reducible apply State.refuse_touches
    | with_reducible apply State.release_touches
    | with_reducible apply State.fit_touches
    | with_reducible apply State.endAside_touches
    | with_reducible apply State.countParse_touches
    | with_reducible apply State.route_touches
    | with_reducible apply State.lateShort_touches
    | with_reducible apply State.firstParse_touches
    | with_reducible apply State.rxMove_touches
    | refine State.fit_touchesE (by with_reducible assumption) ?_
    | refine State.grantRoom_touchesE (by with_reducible assumption) ?_
    | split
    | dsimp only

theorem State.parseRecirc_touches {ps s x} {a1 a2 a3}
    (h : Touches ps s x) (p_regs : Part.regs ∈ ps := by assumption) (p_draws : Part.draws ∈ ps := by assumption) (p_outbox : Part.outbox ∈ ps := by assumption) (p_flt : Part.flt ∈ ps := by assumption) (p_act : Part.act ∈ ps := by assumption) (p_host : Part.host ∈ ps := by assumption) (p_buf : Part.buf ∈ ps := by assumption) (p_pipe : Part.pipe ∈ ps := by assumption) (p_que : Part.que ∈ ps := by assumption) (p_tele : Part.tele ∈ ps := by assumption) :
    Touches ps s (State.parseRecirc x a1 a2 a3) := by
  unfold State.parseRecirc
  repeat' first
    | with_reducible assumption
    | intro _ _
    | intro _
    | with_reducible apply Touches.choose
    | with_reducible apply State.inc_touches
    | with_reducible apply State.draw_touches
    | with_reducible apply State.tally_touches
    | with_reducible apply State.xoffEval_touches
    | with_reducible apply State.refuse_touches
    | with_reducible apply State.decRef_touches
    | with_reducible apply State.instEnd_touches
    | with_reducible apply State.fit_touches
    | with_reducible apply State.endAside_touches
    | with_reducible apply State.countParse_touches
    | with_reducible apply State.route_touches
    | with_reducible apply State.lateShort_touches
    | refine State.chargeSegs_touchesE (by with_reducible assumption) ?_
    | refine State.fit_touchesE (by with_reducible assumption) ?_
    | refine State.grantRoom_touchesE (by with_reducible assumption) ?_
    | split
    | dsimp only
    | with_reducible apply Touches.upd
    | exact Or.inl (by assumption)
    | exact Or.inr rfl

theorem State.setCpuList_touches {ps s x} {a1 a2} (h : Touches ps s x) (p_buf : Part.buf ∈ ps := by assumption) :
    Touches ps s (State.setCpuList x a1 a2) := by
  unfold State.setCpuList
  repeat' first
    | with_reducible assumption
    | intro _ _
    | intro _
    | with_reducible apply Touches.choose
    | split
    | dsimp only
    | with_reducible apply Touches.upd
    | exact Or.inl (by assumption)
    | exact Or.inr rfl

theorem State.cpuDirect_touches {ps s x} {a1 a2 a3}
    (h : Touches ps s x) (p_regs : Part.regs ∈ ps := by assumption) (p_draws : Part.draws ∈ ps := by assumption) (p_outbox : Part.outbox ∈ ps := by assumption) (p_flt : Part.flt ∈ ps := by assumption) (p_act : Part.act ∈ ps := by assumption) (p_host : Part.host ∈ ps := by assumption) (p_buf : Part.buf ∈ ps := by assumption) (p_que : Part.que ∈ ps := by assumption) :
    Touches ps s (State.cpuDirect x a1 a2 a3) := by
  unfold State.cpuDirect
  repeat' first
    | with_reducible assumption
    | intro _ _
    | intro _
    | with_reducible apply State.bypass_touches
    | with_reducible apply State.firstParse_touches

theorem State.cpuRoute_touches {ps s x} {a1 a2 a3 a4 a5}
    (h : Touches ps s x) (p_regs : Part.regs ∈ ps := by assumption) (p_draws : Part.draws ∈ ps := by assumption) (p_outbox : Part.outbox ∈ ps := by assumption) (p_flt : Part.flt ∈ ps := by assumption) (p_act : Part.act ∈ ps := by assumption) (p_host : Part.host ∈ ps := by assumption) (p_buf : Part.buf ∈ ps := by assumption) (p_pipe : Part.pipe ∈ ps := by assumption) (p_que : Part.que ∈ ps := by assumption) :
    Touches ps s (State.cpuRoute x a1 a2 a3 a4 a5) := by
  unfold State.cpuRoute
  repeat' first
    | with_reducible assumption
    | intro _ _
    | intro _
    | with_reducible apply State.xoffEval_touches
    | with_reducible apply State.route_touches
    | with_reducible apply State.lateShort_touches
    | with_reducible apply State.firstParse_touches

theorem State.rechain_touchesE {ps s x n r b t} (e : State.rechain x n = some (r, b, t)) (h : Touches ps s x) (p_regs : Part.regs ∈ ps := by assumption) (p_outbox : Part.outbox ∈ ps := by assumption) (p_flt : Part.flt ∈ ps := by assumption) (p_act : Part.act ∈ ps := by assumption) (p_host : Part.host ∈ ps := by assumption) (p_buf : Part.buf ∈ ps := by assumption) (p_pipe : Part.pipe ∈ ps := by assumption) (p_que : Part.que ∈ ps := by assumption) (p_tele : Part.tele ∈ ps := by assumption) :
    Touches ps s t := by
  unfold State.rechain at e
  dsimp only at e
  split at e
  · cases e
  · cases e
    exact State.when_touches (fun _ => State.endAside_touches)
      (State.fit_touches (State.vacate_touches (State.grantRoom_touchesE (by assumption) h)))

theorem State.parseCpu_touches {ps s x} {a1 a2 a3}
    (h : Touches ps s x) (p_regs : Part.regs ∈ ps := by assumption) (p_draws : Part.draws ∈ ps := by assumption) (p_outbox : Part.outbox ∈ ps := by assumption) (p_flt : Part.flt ∈ ps := by assumption) (p_act : Part.act ∈ ps := by assumption) (p_host : Part.host ∈ ps := by assumption) (p_buf : Part.buf ∈ ps := by assumption) (p_pipe : Part.pipe ∈ ps := by assumption) (p_que : Part.que ∈ ps := by assumption) (p_tele : Part.tele ∈ ps := by assumption) :
    Touches ps s (State.parseCpu x a1 a2 a3) := by
  unfold State.parseCpu
  repeat' first
    | with_reducible assumption
    | intro _ _
    | intro _
    | with_reducible apply Touches.choose
    | with_reducible apply State.inc_touches
    | with_reducible apply State.draw_touches
    | with_reducible apply State.xoffEval_touches
    | with_reducible apply State.refuse_touches
    | with_reducible apply State.release_touches
    | with_reducible apply State.countParse_touches
    | with_reducible apply State.setCpuList_touches
    | with_reducible apply State.cpuDirect_touches
    | with_reducible apply State.cpuRoute_touches
    | refine State.rechain_touchesE (by with_reducible assumption) ?_
    | split

theorem State.setArbSrc_touches {ps s x} {a1 a2} (h : Touches ps s x) (p_buf : Part.buf ∈ ps := by assumption) :
    Touches ps s (State.setArbSrc x a1 a2) := by
  unfold State.setArbSrc
  repeat' first
    | with_reducible assumption
    | intro _ _
    | intro _
    | split
    | dsimp only
    | with_reducible apply Touches.upd
    | exact Or.inl (by assumption)
    | exact Or.inr rfl

theorem State.setArbList_touches {ps s x} {a1 a2} (h : Touches ps s x) (p_buf : Part.buf ∈ ps := by assumption) :
    Touches ps s (State.setArbList x a1 a2) := by
  unfold State.setArbList
  repeat' first
    | with_reducible assumption
    | intro _ _
    | intro _
    | split
    | dsimp only
    | with_reducible apply Touches.upd
    | exact Or.inl (by assumption)
    | exact Or.inr rfl

theorem State.parseFrom_touches {ps s x} {a1 a2 a3}
    (h : Touches ps s x) (p_regs : Part.regs ∈ ps := by assumption) (p_draws : Part.draws ∈ ps := by assumption) (p_outbox : Part.outbox ∈ ps := by assumption) (p_flt : Part.flt ∈ ps := by assumption) (p_act : Part.act ∈ ps := by assumption) (p_host : Part.host ∈ ps := by assumption) (p_buf : Part.buf ∈ ps := by assumption) (p_pipe : Part.pipe ∈ ps := by assumption) (p_que : Part.que ∈ ps := by assumption) (p_tele : Part.tele ∈ ps := by assumption) :
    Touches ps s (State.parseFrom x a1 a2 a3) := by
  unfold State.parseFrom
  repeat' first
    | with_reducible assumption
    | intro _ _
    | intro _
    | with_reducible apply State.tally_touches
    | with_reducible apply State.parseHead_touches
    | with_reducible apply State.parseRecirc_touches
    | with_reducible apply State.parseCpu_touches
    | with_reducible apply State.setArbList_touches
    | split
    | dsimp only

theorem State.arbTurn_touches {ps s x} {a1 a2} (h : Touches ps s x) (p_buf : Part.buf ∈ ps := by assumption) :
    Touches ps s (State.arbTurn x a1 a2) := by
  unfold State.arbTurn
  repeat' first
    | with_reducible assumption
    | intro _ _
    | intro _
    | with_reducible apply State.setArbSrc_touches
    | with_reducible apply State.setArbList_touches

theorem State.bubbleTally_touches {ps s x} {a1}
    (h : Touches ps s x) (p_regs : Part.regs ∈ ps := by assumption) (p_outbox : Part.outbox ∈ ps := by assumption) (p_act : Part.act ∈ ps := by assumption) (p_host : Part.host ∈ ps := by assumption) :
    Touches ps s (State.bubbleTally x a1) := by
  unfold State.bubbleTally
  repeat' first
    | with_reducible assumption
    | intro _ _
    | intro _
    | with_reducible apply Touches.choose
    | with_reducible apply State.tally_touches

theorem State.slotGrant_touches {ps s x} {a1 a2}
    (h : Touches ps s x) (p_regs : Part.regs ∈ ps := by assumption) (p_draws : Part.draws ∈ ps := by assumption) (p_outbox : Part.outbox ∈ ps := by assumption) (p_flt : Part.flt ∈ ps := by assumption) (p_act : Part.act ∈ ps := by assumption) (p_host : Part.host ∈ ps := by assumption) (p_buf : Part.buf ∈ ps := by assumption) (p_pipe : Part.pipe ∈ ps := by assumption) (p_que : Part.que ∈ ps := by assumption) (p_tele : Part.tele ∈ ps := by assumption) :
    Touches ps s (State.slotGrant x a1 a2) := by
  unfold State.slotGrant
  repeat' first
    | with_reducible assumption
    | intro _ _
    | intro _
    | with_reducible apply State.setArbSrc_touches
    | with_reducible apply State.parseFrom_touches
    | split
    | dsimp only

theorem State.parseSlot_touches {ps s x} {a1 a2}
    (h : Touches ps s x) (p_regs : Part.regs ∈ ps := by assumption) (p_draws : Part.draws ∈ ps := by assumption) (p_outbox : Part.outbox ∈ ps := by assumption) (p_flt : Part.flt ∈ ps := by assumption) (p_act : Part.act ∈ ps := by assumption) (p_host : Part.host ∈ ps := by assumption) (p_buf : Part.buf ∈ ps := by assumption) (p_pipe : Part.pipe ∈ ps := by assumption) (p_que : Part.que ∈ ps := by assumption) (p_tele : Part.tele ∈ ps := by assumption) :
    Touches ps s (State.parseSlot x a1 a2) := by
  unfold State.parseSlot
  repeat' first
    | with_reducible assumption
    | intro _ _
    | intro _
    | with_reducible apply Touches.choose
    | with_reducible apply State.when_touches
    | with_reducible apply State.when_touches
    | with_reducible apply State.slotUse_touches
    | with_reducible apply State.arbTurn_touches
    | with_reducible apply State.bubbleTally_touches
    | with_reducible apply State.slotGrant_touches

end Sys2Proof.Machine
end

