-- ==== Sys2Proof/Laws/TouchesTables.lean ====
section
/-!
SUPPORT. What the operations of the lookup structures touch: one lemma for each.
-/
namespace Sys2Proof.Machine
set_option Elab.async false

/-! ### Machine/Filigree.lean -/

theorem State.filLookup_touches {ps s x} {a1 a2 a3 a4 a5}
    (h : Touches ps s x) (p_regs : Part.regs ∈ ps := by assumption) (p_outbox : Part.outbox ∈ ps := by assumption) (p_flt : Part.flt ∈ ps := by assumption) (p_act : Part.act ∈ ps := by assumption) (p_host : Part.host ∈ ps := by assumption) :
    Touches ps s (State.filLookup x a1 a2 a3 a4 a5).2 := by
  unfold State.filLookup
  repeat' first
    | with_reducible assumption
    | intro _ _
    | intro _
    | with_reducible apply Touches.choose
    | with_reducible apply Touches.foldl
    | with_reducible apply Touches.foldl_snd
    | with_reducible apply Touches.foldl_fst
    | with_reducible apply Touches.foldl_third
    | with_reducible apply State.inc_touches
    | with_reducible apply State.injClear_touches
    | with_reducible apply State.fault_touches
    | with_reducible apply State.faultInjected_touches
    | with_reducible apply State.tally_touches
    | with_reducible apply State.bankOps_touches
    | split
    | dsimp only
theorem State.filLookup_touchesE {ps s x} {a1 a2 a3 a4 a5} {r0 t} (e : State.filLookup x a1 a2 a3 a4 a5 = (r0, t))
    (h : Touches ps s x) (p_regs : Part.regs ∈ ps := by assumption) (p_outbox : Part.outbox ∈ ps := by assumption) (p_flt : Part.flt ∈ ps := by assumption) (p_act : Part.act ∈ ps := by assumption) (p_host : Part.host ∈ ps := by assumption) :
    Touches ps s t := by
  have k := State.filLookup_touches (ps := ps) (s := s) (x := x) (a1 := a1) (a2 := a2) (a3 := a3) (a4 := a4) (a5 := a5) h
  rwa [e] at k

theorem State.filShow_touches {ps s x} (h : Touches ps s x) (p_regs : Part.regs ∈ ps := by assumption) :
    Touches ps s (State.filShow x) := by
  unfold State.filShow
  repeat' first
    | with_reducible assumption
    | intro _ _
    | intro _
    | with_reducible apply Touches.upTo
    | with_reducible apply State.set_touches

/-! ### Machine/ExactMatch.lean -/

theorem State.emPut_touches {ps s x} {a1 a2}
    (h : Touches ps s x) (p_dev : Part.dev ∈ ps := by assumption) (p_flt : Part.flt ∈ ps := by assumption) :
    Touches ps s (State.emPut x a1 a2) := by
  unfold State.emPut
  repeat' first
    | with_reducible assumption
    | intro _ _
    | intro _
    | with_reducible apply State.memStore_touches

theorem State.emFlags_touches {ps s x} {a1 a2 a3}
    (h : Touches ps s x) (p_dev : Part.dev ∈ ps := by assumption) (p_flt : Part.flt ∈ ps := by assumption) :
    Touches ps s (State.emFlags x a1 a2 a3) := by
  unfold State.emFlags
  repeat' first
    | with_reducible assumption
    | intro _ _
    | intro _
    | with_reducible apply State.memSet_touches

theorem State.emWork_touches {ps s x} {a1 a2 a3}
    (h : Touches ps s x) (p_regs : Part.regs ∈ ps := by assumption) (p_outbox : Part.outbox ∈ ps := by assumption) (p_act : Part.act ∈ ps := by assumption) (p_host : Part.host ∈ ps := by assumption) :
    Touches ps s (State.emWork x a1 a2 a3) := by
  unfold State.emWork
  repeat' first
    | with_reducible assumption
    | intro _ _
    | intro _
    | with_reducible apply State.bankWork_touches

theorem State.emScan_touches {ps s x} {a1 a2}
    (h : Touches ps s x) (p_regs : Part.regs ∈ ps := by assumption) (p_outbox : Part.outbox ∈ ps := by assumption) (p_act : Part.act ∈ ps := by assumption) (p_host : Part.host ∈ ps := by assumption) :
    Touches ps s (State.emScan x a1 a2) := by
  unfold State.emScan
  repeat' first
    | with_reducible assumption
    | intro _ _
    | intro _
    | with_reducible apply Touches.foldl
    | with_reducible apply Touches.foldl_snd
    | with_reducible apply Touches.foldl_fst
    | with_reducible apply Touches.foldl_third
    | with_reducible apply State.emWork_touches

theorem State.emCorrect_touches {ps s x} {a1 a2}
    (h : Touches ps s x) (p_regs : Part.regs ∈ ps := by assumption) (p_flt : Part.flt ∈ ps := by assumption) :
    Touches ps s (State.emCorrect x a1 a2) := by
  unfold State.emCorrect
  repeat' first
    | with_reducible assumption
    | intro _ _
    | intro _
    | with_reducible apply Touches.foldl
    | with_reducible apply Touches.foldl_snd
    | with_reducible apply Touches.foldl_fst
    | with_reducible apply Touches.foldl_third
    | with_reducible apply State.add_touches
    | with_reducible apply State.injClear_touches

theorem State.emHitSet_touches {ps s x} {a1 a2 a3}
    (h : Touches ps s x) (p_regs : Part.regs ∈ ps := by assumption) (p_dev : Part.dev ∈ ps := by assumption) (p_outbox : Part.outbox ∈ ps := by assumption) (p_flt : Part.flt ∈ ps := by assumption) (p_act : Part.act ∈ ps := by assumption) (p_host : Part.host ∈ ps := by assumption) :
    Touches ps s (State.emHitSet x a1 a2 a3) := by
  unfold State.emHitSet
  repeat' first
    | with_reducible assumption
    | intro _ _
    | intro _
    | with_reducible apply State.bankOps_touches
    | with_reducible apply State.emFlags_touches
    | split

theorem State.emLookup_touches {ps s x} {a1 a2 a3 a4}
    (h : Touches ps s x) (p_regs : Part.regs ∈ ps := by assumption) (p_dev : Part.dev ∈ ps := by assumption) (p_outbox : Part.outbox ∈ ps := by assumption) (p_flt : Part.flt ∈ ps := by assumption) (p_act : Part.act ∈ ps := by assumption) (p_host : Part.host ∈ ps := by assumption) :
    Touches ps s (State.emLookup x a1 a2 a3 a4).2 := by
  unfold State.emLookup
  repeat' first
    | with_reducible assumption
    | intro _ _
    | intro _
    | with_reducible apply Touches.choose
    | with_reducible apply State.when_touches
    | with_reducible apply Touches.foldl
    | with_reducible apply Touches.foldl_snd
    | with_reducible apply Touches.foldl_fst
    | with_reducible apply Touches.foldl_third
    | with_reducible apply State.inc_touches
    | with_reducible apply State.when_touches
    | with_reducible apply State.fault_touches
    | with_reducible apply State.faultInjected_touches
    | with_reducible apply State.tally_touches
    | with_reducible apply State.bankOps_touches
    | with_reducible apply State.emCorrect_touches
    | with_reducible apply State.emHitSet_touches
    | split
    | dsimp only
theorem State.emLookup_touchesE {ps s x} {a1 a2 a3 a4} {r0 t} (e : State.emLookup x a1 a2 a3 a4 = (r0, t))
    (h : Touches ps s x) (p_regs : Part.regs ∈ ps := by assumption) (p_dev : Part.dev ∈ ps := by assumption) (p_outbox : Part.outbox ∈ ps := by assumption) (p_flt : Part.flt ∈ ps := by assumption) (p_act : Part.act ∈ ps := by assumption) (p_host : Part.host ∈ ps := by assumption) :
    Touches ps s t := by
  have k := State.emLookup_touches (ps := ps) (s := s) (x := x) (a1 := a1) (a2 := a2) (a3 := a3) (a4 := a4) h
  rwa [e] at k

theorem State.emMove_touches {ps s x} {a1 a2 a3}
    (h : Touches ps s x) (p_regs : Part.regs ∈ ps := by assumption) (p_dev : Part.dev ∈ ps := by assumption) (p_outbox : Part.outbox ∈ ps := by assumption) (p_flt : Part.flt ∈ ps := by assumption) (p_act : Part.act ∈ ps := by assumption) (p_host : Part.host ∈ ps := by assumption) :
    Touches ps s (State.emMove x a1 a2 a3) := by
  unfold State.emMove
  repeat' first
    | with_reducible assumption
    | intro _ _
    | intro _
    | with_reducible apply State.bankWork_touches
    | with_reducible apply State.emPut_touches
    | with_reducible apply State.emFlags_touches
    | with_reducible apply State.emWork_touches

theorem State.emShift_touches {ps s x n l}
    (h : Touches ps s x) (p_regs : Part.regs ∈ ps := by assumption) (p_dev : Part.dev ∈ ps := by assumption) (p_outbox : Part.outbox ∈ ps := by assumption) (p_flt : Part.flt ∈ ps := by assumption) (p_act : Part.act ∈ ps := by assumption) (p_host : Part.host ∈ ps := by assumption) :
    Touches ps s (State.emShift x n l) := by
  fun_induction State.emShift x n l with
  | case1 a b rest ih => exact State.emMove_touches ih
  | case2 => exact h

theorem State.emInsert_touches {ps s x} {a1 a2}
    (h : Touches ps s x) (p_regs : Part.regs ∈ ps := by assumption) (p_dev : Part.dev ∈ ps := by assumption) (p_outbox : Part.outbox ∈ ps := by assumption) (p_flt : Part.flt ∈ ps := by assumption) (p_act : Part.act ∈ ps := by assumption) (p_host : Part.host ∈ ps := by assumption) :
    Touches ps s (State.emInsert x a1 a2).2 := by
  unfold State.emInsert
  repeat' first
    | with_reducible assumption
    | intro _ _
    | intro _
    | with_reducible apply Touches.choose
    | with_reducible apply State.memSet_touches
    | with_reducible apply State.memStore_touches
    | with_reducible apply State.emPut_touches
    | with_reducible apply State.emWork_touches
    | with_reducible apply State.emShift_touches
    | split
theorem State.emInsert_touchesE {ps s x} {a1 a2} {r0 t} (e : State.emInsert x a1 a2 = (r0, t))
    (h : Touches ps s x) (p_regs : Part.regs ∈ ps := by assumption) (p_dev : Part.dev ∈ ps := by assumption) (p_outbox : Part.outbox ∈ ps := by assumption) (p_flt : Part.flt ∈ ps := by assumption) (p_act : Part.act ∈ ps := by assumption) (p_host : Part.host ∈ ps := by assumption) :
    Touches ps s t := by
  have k := State.emInsert_touches (ps := ps) (s := s) (x := x) (a1 := a1) (a2 := a2) h
  rwa [e] at k

theorem State.emRemove_touches {ps s x} {a1 a2}
    (h : Touches ps s x) (p_dev : Part.dev ∈ ps := by assumption) (p_flt : Part.flt ∈ ps := by assumption) :
    Touches ps s (State.emRemove x a1 a2) := by
  unfold State.emRemove
  repeat' first
    | with_reducible assumption
    | intro _ _
    | intro _
    | with_reducible apply State.memSet_touches
    | with_reducible apply State.emFlags_touches
    | split

theorem State.emShow_touches {ps s x} {a1} (h : Touches ps s x) (p_regs : Part.regs ∈ ps := by assumption) :
    Touches ps s (State.emShow x a1) := by
  unfold State.emShow
  repeat' first
    | with_reducible assumption
    | intro _ _
    | intro _
    | with_reducible apply State.set_touches
    | with_reducible apply State.setB_touches
    | split

theorem State.emDone_touches {ps s x} {a1}
    (h : Touches ps s x) (p_regs : Part.regs ∈ ps := by assumption) (p_outbox : Part.outbox ∈ ps := by assumption) (p_host : Part.host ∈ ps := by assumption) :
    Touches ps s (State.emDone x a1) := by
  unfold State.emDone
  repeat' first
    | with_reducible assumption
    | intro _ _
    | intro _
    | with_reducible apply State.set_touches
    | with_reducible apply State.event_touches

theorem State.emEndCmd_touches {ps s r}
    (h : Touches ps s r.2) (p_regs : Part.regs ∈ ps := by assumption) (p_outbox : Part.outbox ∈ ps := by assumption) (p_host : Part.host ∈ ps := by assumption) :
    Touches ps s (State.emEndCmd r) := by
  unfold State.emEndCmd
  split
  · exact State.emDone_touches (State.emShow_touches h)
  · exact State.emDone_touches h
  · exact State.emDone_touches h

theorem State.emTable_touches {ps s x} {a1 a2} (h2 : ∀ y, Touches ps s y → Touches ps s (a2 y))
    (h : Touches ps s x) (p_regs : Part.regs ∈ ps := by assumption) (p_outbox : Part.outbox ∈ ps := by assumption) (p_host : Part.host ∈ ps := by assumption) :
    Touches ps s (State.emTable x a1 a2) := by
  unfold State.emTable
  repeat' first
    | with_reducible assumption
    | intro _ _
    | intro _
    | apply h2
    | with_reducible apply Touches.choose
    | with_reducible apply State.emDone_touches

theorem State.emCmdInsert_touches {ps s x} {a1}
    (h : Touches ps s x) (p_regs : Part.regs ∈ ps := by assumption) (p_dev : Part.dev ∈ ps := by assumption) (p_outbox : Part.outbox ∈ ps := by assumption) (p_flt : Part.flt ∈ ps := by assumption) (p_act : Part.act ∈ ps := by assumption) (p_host : Part.host ∈ ps := by assumption) :
    Touches ps s (State.emCmdInsert x a1) := by
  unfold State.emCmdInsert
  repeat' first
    | with_reducible assumption
    | intro _ _
    | intro _
    | with_reducible apply State.emInsert_touches
    | with_reducible apply State.emShow_touches
    | with_reducible apply State.emDone_touches
    | with_reducible apply State.emEndCmd_touches
    | with_reducible apply State.emTable_touches
    | refine State.emInsert_touchesE (by with_reducible assumption) ?_
    | split

theorem State.emCmdReplace_touches {ps s x} {a1}
    (h : Touches ps s x) (p_regs : Part.regs ∈ ps := by assumption) (p_dev : Part.dev ∈ ps := by assumption) (p_outbox : Part.outbox ∈ ps := by assumption) (p_flt : Part.flt ∈ ps := by assumption) (p_act : Part.act ∈ ps := by assumption) (p_host : Part.host ∈ ps := by assumption) :
    Touches ps s (State.emCmdReplace x a1) := by
  unfold State.emCmdReplace
  repeat' first
    | with_reducible assumption
    | intro _ _
    | intro _
    | with_reducible apply Touches.choose
    | with_reducible apply State.emPut_touches
    | with_reducible apply State.emInsert_touches
    | with_reducible apply State.emShow_touches
    | with_reducible apply State.emDone_touches
    | with_reducible apply State.emEndCmd_touches
    | with_reducible apply State.emTable_touches
    | refine State.emInsert_touchesE (by with_reducible assumption) ?_
    | split

theorem State.emCmdDelete_touches {ps s x} {a1}
    (h : Touches ps s x) (p_regs : Part.regs ∈ ps := by assumption) (p_dev : Part.dev ∈ ps := by assumption) (p_outbox : Part.outbox ∈ ps := by assumption) (p_flt : Part.flt ∈ ps := by assumption) (p_host : Part.host ∈ ps := by assumption) :
    Touches ps s (State.emCmdDelete x a1) := by
  unfold State.emCmdDelete
  repeat' first
    | with_reducible assumption
    | intro _ _
    | intro _
    | with_reducible apply Touches.choose
    | with_reducible apply State.emRemove_touches
    | with_reducible apply State.emShow_touches
    | with_reducible apply State.emDone_touches
    | with_reducible apply State.emTable_touches
    | split

theorem State.emCmdSearch_touches {ps s x} {a1}
    (h : Touches ps s x) (p_regs : Part.regs ∈ ps := by assumption) (p_outbox : Part.outbox ∈ ps := by assumption) (p_host : Part.host ∈ ps := by assumption) :
    Touches ps s (State.emCmdSearch x a1) := by
  unfold State.emCmdSearch
  repeat' first
    | with_reducible assumption
    | intro _ _
    | intro _
    | with_reducible apply State.set_touches
    | with_reducible apply State.emShow_touches
    | with_reducible apply State.emDone_touches
    | with_reducible apply State.emTable_touches
    | split

theorem State.emRun_touches {ps s x} {a1 a2}
    (h : Touches ps s x) (p_regs : Part.regs ∈ ps := by assumption) (p_dev : Part.dev ∈ ps := by assumption) (p_outbox : Part.outbox ∈ ps := by assumption) (p_flt : Part.flt ∈ ps := by assumption) (p_act : Part.act ∈ ps := by assumption) (p_host : Part.host ∈ ps := by assumption) :
    Touches ps s (State.emRun x a1 a2) := by
  unfold State.emRun
  repeat' first
    | with_reducible assumption
    | intro _ _
    | intro _
    | with_reducible apply State.when_touches
    | with_reducible apply State.when_touches
    | with_reducible apply State.emScan_touches
    | with_reducible apply State.emDone_touches
    | with_reducible apply State.emCmdInsert_touches
    | with_reducible apply State.emCmdReplace_touches
    | with_reducible apply State.emCmdDelete_touches
    | with_reducible apply State.emCmdSearch_touches
    | split

theorem State.emCommand_touches {ps s x} {a1 a2}
    (h : Touches ps s x) (p_regs : Part.regs ∈ ps := by assumption) (p_dev : Part.dev ∈ ps := by assumption) (p_outbox : Part.outbox ∈ ps := by assumption) (p_flt : Part.flt ∈ ps := by assumption) (p_act : Part.act ∈ ps := by assumption) (p_host : Part.host ∈ ps := by assumption) (p_pipe : Part.pipe ∈ ps := by assumption) :
    Touches ps s (State.emCommand x a1 a2) := by
  unfold State.emCommand
  repeat' first
    | with_reducible assumption
    | intro _ _
    | intro _
    | with_reducible apply Touches.choose
    | with_reducible apply State.setB_touches
    | with_reducible apply State.emRun_touches
    | split
    | dsimp only
    | with_reducible apply Touches.upd
    | exact Or.inl (by assumption)
    | exact Or.inr rfl

theorem State.emTurn_touches {ps s x}
    (h : Touches ps s x) (p_regs : Part.regs ∈ ps := by assumption) (p_dev : Part.dev ∈ ps := by assumption) (p_outbox : Part.outbox ∈ ps := by assumption) (p_flt : Part.flt ∈ ps := by assumption) (p_act : Part.act ∈ ps := by assumption) (p_host : Part.host ∈ ps := by assumption) (p_pipe : Part.pipe ∈ ps := by assumption) :
    Touches ps s (State.emTurn x) := by
  unfold State.emTurn
  repeat' first
    | with_reducible assumption
    | intro _ _
    | intro _
    | with_reducible apply Touches.choose
    | with_reducible apply State.emRun_touches
    | split
    | dsimp only
    | with_reducible apply Touches.upd
    | exact Or.inl (by assumption)
    | exact Or.inr rfl

theorem State.learnPut_touches {ps s x} {a1 a2} (h : Touches ps s x) (p_pipe : Part.pipe ∈ ps := by assumption) :
    Touches ps s (State.learnPut x a1 a2) := by
  unfold State.learnPut
  repeat' first
    | with_reducible assumption
    | intro _ _
    | intro _
    | split
    | dsimp only
    | with_reducible apply Touches.upd
    | exact Or.inl (by assumption)
    | exact Or.inr rfl

theorem State.learnRequest_touches {ps s x} {a1}
    (h : Touches ps s x) (p_regs : Part.regs ∈ ps := by assumption) (p_pipe : Part.pipe ∈ ps := by assumption) :
    Touches ps s (State.learnRequest x a1) := by
  unfold State.learnRequest
  repeat' first
    | with_reducible assumption
    | intro _ _
    | intro _
    | with_reducible apply Touches.choose
    | with_reducible apply State.inc_touches
    | with_reducible apply State.learnPut_touches
    | split
    | dsimp only
    | with_reducible apply Touches.upd
    | exact Or.inl (by assumption)
    | exact Or.inr rfl

theorem State.emNotice_touches {ps s x} {a1 a2 a3 a4}
    (h : Touches ps s x) (p_regs : Part.regs ∈ ps := by assumption) (p_dev : Part.dev ∈ ps := by assumption) (p_outbox : Part.outbox ∈ ps := by assumption) (p_flt : Part.flt ∈ ps := by assumption) (p_host : Part.host ∈ ps := by assumption) :
    Touches ps s (State.emNotice x a1 a2 a3 a4) := by
  unfold State.emNotice
  repeat' first
    | with_reducible assumption
    | intro _ _
    | intro _
    | with_reducible apply Touches.choose
    | with_reducible apply State.inc_touches
    | with_reducible apply State.eventRingWrite_touches
    | refine State.eventRingWrite_touchesE (by with_reducible assumption) ?_
    | split
    | dsimp only

theorem State.learnNew_touches {ps s x} {a1}
    (h : Touches ps s x) (p_regs : Part.regs ∈ ps := by assumption) (p_dev : Part.dev ∈ ps := by assumption) (p_outbox : Part.outbox ∈ ps := by assumption) (p_flt : Part.flt ∈ ps := by assumption) (p_act : Part.act ∈ ps := by assumption) (p_host : Part.host ∈ ps := by assumption) :
    Touches ps s (State.learnNew x a1) := by
  unfold State.learnNew
  repeat' first
    | with_reducible assumption
    | intro _ _
    | intro _
    | with_reducible apply State.inc_touches
    | with_reducible apply State.emInsert_touches
    | with_reducible apply State.emNotice_touches
    | refine State.emInsert_touchesE (by with_reducible assumption) ?_
    | split
    | dsimp only

theorem State.learnMove_touches {ps s x} {a1 a2}
    (h : Touches ps s x) (p_regs : Part.regs ∈ ps := by assumption) (p_dev : Part.dev ∈ ps := by assumption) (p_outbox : Part.outbox ∈ ps := by assumption) (p_flt : Part.flt ∈ ps := by assumption) (p_host : Part.host ∈ ps := by assumption) :
    Touches ps s (State.learnMove x a1 a2) := by
  unfold State.learnMove
  repeat' first
    | with_reducible assumption
    | intro _ _
    | intro _
    | with_reducible apply Touches.choose
    | with_reducible apply State.inc_touches
    | with_reducible apply State.emPut_touches
    | with_reducible apply State.emNotice_touches

theorem State.learnOne_touches {ps s x} {a1}
    (h : Touches ps s x) (p_regs : Part.regs ∈ ps := by assumption) (p_dev : Part.dev ∈ ps := by assumption) (p_outbox : Part.outbox ∈ ps := by assumption) (p_flt : Part.flt ∈ ps := by assumption) (p_act : Part.act ∈ ps := by assumption) (p_host : Part.host ∈ ps := by assumption) :
    Touches ps s (State.learnOne x a1) := by
  unfold State.learnOne
  repeat' first
    | with_reducible assumption
    | intro _ _
    | intro _
    | with_reducible apply Touches.choose
    | with_reducible apply State.emScan_touches
    | with_reducible apply State.learnNew_touches
    | with_reducible apply State.learnMove_touches
    | split
    | dsimp only

theorem State.learnServe_touches {ps s x}
    (h : Touches ps s x) (p_regs : Part.regs ∈ ps := by assumption) (p_dev : Part.dev ∈ ps := by assumption) (p_outbox : Part.outbox ∈ ps := by assumption) (p_flt : Part.flt ∈ ps := by assumption) (p_act : Part.act ∈ ps := by assumption) (p_host : Part.host ∈ ps := by assumption) (p_pipe : Part.pipe ∈ ps := by assumption) :
    Touches ps s (State.learnServe x) := by
  unfold State.learnServe
  repeat' first
    | with_reducible assumption
    | intro _ _
    | intro _
    | with_reducible apply State.emTurn_touches
    | with_reducible apply State.learnOne_touches
    | split
    | dsimp only
    | with_reducible apply Touches.upd
    | exact Or.inl (by assumption)
    | exact Or.inr rfl

theorem State.ageEntry_touches {ps s x} {a1 a2}
    (h : Touches ps s x) (p_regs : Part.regs ∈ ps := by assumption) (p_dev : Part.dev ∈ ps := by assumption) (p_outbox : Part.outbox ∈ ps := by assumption) (p_flt : Part.flt ∈ ps := by assumption) (p_host : Part.host ∈ ps := by assumption) :
    Touches ps s (State.ageEntry x a1 a2) := by
  unfold State.ageEntry
  repeat' first
    | with_reducible assumption
    | intro _ _
    | intro _
    | with_reducible apply Touches.choose
    | with_reducible apply State.inc_touches
    | with_reducible apply State.emFlags_touches
    | with_reducible apply State.emRemove_touches
    | with_reducible apply State.emNotice_touches

theorem State.ageVisit_touches {ps s x} {a1 a2}
    (h : Touches ps s x) (p_regs : Part.regs ∈ ps := by assumption) (p_dev : Part.dev ∈ ps := by assumption) (p_outbox : Part.outbox ∈ ps := by assumption) (p_flt : Part.flt ∈ ps := by assumption) (p_act : Part.act ∈ ps := by assumption) (p_host : Part.host ∈ ps := by assumption) :
    Touches ps s (State.ageVisit x a1 a2) := by
  unfold State.ageVisit
  repeat' first
    | with_reducible assumption
    | intro _ _
    | intro _
    | with_reducible apply State.bankWork_touches
    | with_reducible apply State.ageEntry_touches

theorem State.ageSkip_touches {ps s x} {a1 a2}
    (h : Touches ps s x) (p_regs : Part.regs ∈ ps := by assumption) (p_anvil : Part.anvil ∈ ps := by assumption) :
    Touches ps s (State.ageSkip x a1 a2) := by
  unfold State.ageSkip
  repeat' first
    | with_reducible assumption
    | intro _ _
    | intro _
    | with_reducible apply Touches.choose
    | with_reducible apply State.inc_touches
    | split
    | dsimp only
    | with_reducible apply Touches.upd
    | exact Or.inl (by assumption)
    | exact Or.inr rfl

theorem State.ageVisits_touches {ps s x} {a1 a2}
    (h : Touches ps s x) (p_regs : Part.regs ∈ ps := by assumption) (p_dev : Part.dev ∈ ps := by assumption) (p_outbox : Part.outbox ∈ ps := by assumption) (p_flt : Part.flt ∈ ps := by assumption) (p_act : Part.act ∈ ps := by assumption) (p_anvil : Part.anvil ∈ ps := by assumption) (p_host : Part.host ∈ ps := by assumption) :
    Touches ps s (State.ageVisits x a1 a2) := by
  unfold State.ageVisits
  repeat' first
    | with_reducible assumption
    | intro _ _
    | intro _
    | with_reducible apply Touches.choose
    | with_reducible apply Touches.upTo
    | with_reducible apply State.ageEntry_touches
    | with_reducible apply State.ageVisit_touches
    | with_reducible apply State.ageSkip_touches

theorem State.ageStep_touches {ps s x} {a1}
    (h : Touches ps s x) (p_regs : Part.regs ∈ ps := by assumption) (p_dev : Part.dev ∈ ps := by assumption) (p_outbox : Part.outbox ∈ ps := by assumption) (p_flt : Part.flt ∈ ps := by assumption) (p_act : Part.act ∈ ps := by assumption) (p_anvil : Part.anvil ∈ ps := by assumption) (p_host : Part.host ∈ ps := by assumption) :
    Touches ps s (State.ageStep x a1) := by
  unfold State.ageStep
  repeat' first
    | with_reducible assumption
    | intro _ _
    | intro _
    | with_reducible apply Touches.choose
    | with_reducible apply State.ageVisits_touches
    | split
    | dsimp only
    | with_reducible apply Touches.upd
    | exact Or.inl (by assumption)
    | exact Or.inr rfl

theorem State.emClaspReq_touches {ps s x} {a1} (h : Touches ps s x) (p_regs : Part.regs ∈ ps := by assumption) :
    Touches ps s (State.emClaspReq x a1) := by
  unfold State.emClaspReq
  repeat' first
    | with_reducible assumption
    | intro _ _
    | intro _
    | with_reducible apply State.setBit_touches

theorem State.emClaspGrant_touches {ps s x} {a1} (h : Touches ps s x) (p_regs : Part.regs ∈ ps := by assumption) :
    Touches ps s (State.emClaspGrant x a1) := by
  unfold State.emClaspGrant
  repeat' first
    | with_reducible assumption
    | intro _ _
    | intro _
    | with_reducible apply Touches.choose
    | with_reducible apply State.setBit_touches

theorem State.emClaspFree_touches {ps s x} {a1} (h : Touches ps s x) (p_regs : Part.regs ∈ ps := by assumption) :
    Touches ps s (State.emClaspFree x a1) := by
  unfold State.emClaspFree
  repeat' first
    | with_reducible assumption
    | intro _ _
    | intro _
    | with_reducible apply State.clearBit_touches

/-! ### Machine/Ase.lean -/

theorem State.slotSetFlags_touches {ps s x} {a1 a2 a3 a4}
    (h : Touches ps s x) (p_dev : Part.dev ∈ ps := by assumption) (p_flt : Part.flt ∈ ps := by assumption) :
    Touches ps s (State.slotSetFlags x a1 a2 a3 a4) := by
  unfold State.slotSetFlags
  repeat' first
    | with_reducible assumption
    | intro _ _
    | intro _
    | with_reducible apply Touches.choose
    | with_reducible apply State.memSet_touches

theorem State.slotClear_touches {ps s x} {a1 a2 a3}
    (h : Touches ps s x) (p_dev : Part.dev ∈ ps := by assumption) (p_flt : Part.flt ∈ ps := by assumption) :
    Touches ps s (State.slotClear x a1 a2 a3) := by
  unfold State.slotClear
  repeat' first
    | with_reducible assumption
    | intro _ _
    | intro _
    | with_reducible apply State.slotSetFlags_touches

theorem State.parityEvent_touches {ps s x} {a1 a2 a3 a4 a5 a6}
    (h : Touches ps s x) (p_regs : Part.regs ∈ ps := by assumption) (p_flt : Part.flt ∈ ps := by assumption) :
    Touches ps s (State.parityEvent x a1 a2 a3 a4 a5 a6) := by
  unfold State.parityEvent
  repeat' first
    | with_reducible assumption
    | intro _ _
    | intro _
    | with_reducible apply State.set_touches
    | with_reducible apply State.setB_touches
    | with_reducible apply State.inc_touches
    | with_reducible apply State.faultAt_touches

theorem State.slotMend_touches {ps s x} {a1 a2 a3 a4 a5} (h : Touches ps s x) (p_flt : Part.flt ∈ ps := by assumption) :
    Touches ps s (State.slotMend x a1 a2 a3 a4 a5) := by
  unfold State.slotMend
  repeat' first
    | with_reducible assumption
    | intro _ _
    | intro _
    | with_reducible apply Touches.foldl
    | with_reducible apply Touches.foldl_snd
    | with_reducible apply Touches.foldl_fst
    | with_reducible apply Touches.foldl_third
    | with_reducible apply State.injClear_touches

theorem State.slotFail_touches {ps s x} {a1 a2 a3 a4 a5 a6}
    (h : Touches ps s x) (p_regs : Part.regs ∈ ps := by assumption) (p_dev : Part.dev ∈ ps := by assumption) (p_flt : Part.flt ∈ ps := by assumption) :
    Touches ps s (State.slotFail x a1 a2 a3 a4 a5 a6) := by
  unfold State.slotFail
  repeat' first
    | with_reducible assumption
    | intro _ _
    | intro _
    | with_reducible apply State.slotClear_touches
    | with_reducible apply State.parityEvent_touches
    | with_reducible apply State.slotMend_touches

theorem State.slotBad_touches {ps s x} {a1 a2 a3 a4}
    (h : Touches ps s x) (p_regs : Part.regs ∈ ps := by assumption) (p_flt : Part.flt ∈ ps := by assumption) :
    Touches ps s (State.slotBad x a1 a2 a3 a4) := by
  unfold State.slotBad
  repeat' first
    | with_reducible assumption
    | intro _ _
    | intro _
    | with_reducible apply State.inc_touches
    | with_reducible apply State.faultAt_touches

theorem State.slotFix_touches {ps s x} {a1 a2 a3}
    (h : Touches ps s x) (p_regs : Part.regs ∈ ps := by assumption) (p_flt : Part.flt ∈ ps := by assumption) :
    Touches ps s (State.slotFix x a1 a2 a3) := by
  unfold State.slotFix
  repeat' first
    | with_reducible assumption
    | intro _ _
    | intro _
    | with_reducible apply State.inc_touches
    | with_reducible apply State.slotMend_touches

theorem State.aseAnswer_touches {ps s x} {a1 a2 a3 a4}
    (h : Touches ps s x) (p_regs : Part.regs ∈ ps := by assumption) (p_flt : Part.flt ∈ ps := by assumption) :
    Touches ps s (State.aseAnswer x a1 a2 a3 a4).2.2 := by
  unfold State.aseAnswer
  repeat' first
    | with_reducible assumption
    | intro _ _
    | intro _
    | with_reducible apply State.inc_touches
    | with_reducible apply State.slotBad_touches
    | with_reducible apply State.slotFix_touches
    | split
theorem State.aseAnswer_touchesE {ps s x} {a1 a2 a3 a4} {r0 r1 t} (e : State.aseAnswer x a1 a2 a3 a4 = (r0, r1, t))
    (h : Touches ps s x) (p_regs : Part.regs ∈ ps := by assumption) (p_flt : Part.flt ∈ ps := by assumption) :
    Touches ps s t := by
  have k := State.aseAnswer_touches (ps := ps) (s := s) (x := x) (a1 := a1) (a2 := a2) (a3 := a3) (a4 := a4) h
  rwa [e] at k

theorem State.aseOp_touches {ps s x} {a1 a2 a3}
    (h : Touches ps s x) (p_regs : Part.regs ∈ ps := by assumption) (p_outbox : Part.outbox ∈ ps := by assumption) (p_act : Part.act ∈ ps := by assumption) (p_host : Part.host ∈ ps := by assumption) (p_pipe : Part.pipe ∈ ps := by assumption) :
    Touches ps s (State.aseOp x a1 a2 a3) := by
  unfold State.aseOp
  repeat' first
    | with_reducible assumption
    | intro _ _
    | intro _
    | with_reducible apply Touches.choose
    | with_reducible apply State.bankOps_touches
    | with_reducible apply State.bankWork_touches
    | split
    | dsimp only
    | with_reducible apply Touches.upd
    | exact Or.inl (by assumption)
    | exact Or.inr rfl

theorem State.aseWork_touches {ps s x} {a1 a2 a3}
    (h : Touches ps s x) (p_regs : Part.regs ∈ ps := by assumption) (p_outbox : Part.outbox ∈ ps := by assumption) (p_act : Part.act ∈ ps := by assumption) (p_host : Part.host ∈ ps := by assumption) (p_pipe : Part.pipe ∈ ps := by assumption) :
    Touches ps s (State.aseWork x a1 a2 a3) := by
  unfold State.aseWork
  repeat' first
    | with_reducible assumption
    | intro _ _
    | intro _
    | with_reducible apply Touches.foldl
    | with_reducible apply Touches.foldl_snd
    | with_reducible apply Touches.foldl_fst
    | with_reducible apply Touches.foldl_third
    | with_reducible apply State.aseOp_touches

theorem State.aseOps_touches {ps s x} {a1 a2 a3}
    (h : Touches ps s x) (p_regs : Part.regs ∈ ps := by assumption) (p_outbox : Part.outbox ∈ ps := by assumption) (p_act : Part.act ∈ ps := by assumption) (p_host : Part.host ∈ ps := by assumption) (p_pipe : Part.pipe ∈ ps := by assumption) :
    Touches ps s (State.aseOps x a1 a2 a3) := by
  unfold State.aseOps
  repeat' first
    | with_reducible assumption
    | intro _ _
    | intro _
    | with_reducible apply Touches.foldl
    | with_reducible apply Touches.foldl_snd
    | with_reducible apply Touches.foldl_fst
    | with_reducible apply Touches.foldl_third
    | with_reducible apply State.aseOp_touches

theorem State.aseSearch_touches {ps s x} {a1 a2 a3 a4 a5}
    (h : Touches ps s x) (p_regs : Part.regs ∈ ps := by assumption) (p_dev : Part.dev ∈ ps := by assumption) (p_outbox : Part.outbox ∈ ps := by assumption) (p_flt : Part.flt ∈ ps := by assumption) (p_act : Part.act ∈ ps := by assumption) (p_host : Part.host ∈ ps := by assumption) (p_pipe : Part.pipe ∈ ps := by assumption) :
    Touches ps s (State.aseSearch x a1 a2 a3 a4 a5).2.2 := by
  unfold State.aseSearch
  repeat' first
    | with_reducible assumption
    | intro _ _
    | intro _
    | with_reducible apply Touches.choose
    | with_reducible apply State.when_touches
    | with_reducible apply State.inc_touches
    | with_reducible apply State.when_touches
    | with_reducible apply State.count_touches
    | with_reducible apply State.slotFail_touches
    | with_reducible apply State.aseAnswer_touches
    | with_reducible apply State.aseOps_touches
    | refine State.aseAnswer_touchesE (by with_reducible assumption) ?_
    | split
    | dsimp only
theorem State.aseSearch_touchesE {ps s x} {a1 a2 a3 a4 a5} {r0 r1 t} (e : State.aseSearch x a1 a2 a3 a4 a5 = (r0, r1, t))
    (h : Touches ps s x) (p_regs : Part.regs ∈ ps := by assumption) (p_dev : Part.dev ∈ ps := by assumption) (p_outbox : Part.outbox ∈ ps := by assumption) (p_flt : Part.flt ∈ ps := by assumption) (p_act : Part.act ∈ ps := by assumption) (p_host : Part.host ∈ ps := by assumption) (p_pipe : Part.pipe ∈ ps := by assumption) :
    Touches ps s t := by
  have k := State.aseSearch_touches (ps := ps) (s := s) (x := x) (a1 := a1) (a2 := a2) (a3 := a3) (a4 := a4) (a5 := a5) h
  rwa [e] at k

theorem State.aseLookup_touches {ps s x} {a1 a2 a3 a4 a5}
    (h : Touches ps s x) (p_regs : Part.regs ∈ ps := by assumption) (p_dev : Part.dev ∈ ps := by assumption) (p_outbox : Part.outbox ∈ ps := by assumption) (p_flt : Part.flt ∈ ps := by assumption) (p_act : Part.act ∈ ps := by assumption) (p_host : Part.host ∈ ps := by assumption) (p_pipe : Part.pipe ∈ ps := by assumption) :
    Touches ps s (State.aseLookup x a1 a2 a3 a4 a5).2 := by
  unfold State.aseLookup
  repeat' first
    | with_reducible assumption
    | intro _ _
    | intro _
    | with_reducible apply State.tally_touches
    | with_reducible apply State.aseSearch_touches
theorem State.aseLookup_touchesE {ps s x} {a1 a2 a3 a4 a5} {r0 t} (e : State.aseLookup x a1 a2 a3 a4 a5 = (r0, t))
    (h : Touches ps s x) (p_regs : Part.regs ∈ ps := by assumption) (p_dev : Part.dev ∈ ps := by assumption) (p_outbox : Part.outbox ∈ ps := by assumption) (p_flt : Part.flt ∈ ps := by assumption) (p_act : Part.act ∈ ps := by assumption) (p_host : Part.host ∈ ps := by assumption) (p_pipe : Part.pipe ∈ ps := by assumption) :
    Touches ps s t := by
  have k := State.aseLookup_touches (ps := ps) (s := s) (x := x) (a1 := a1) (a2 := a2) (a3 := a3) (a4 := a4) (a5 := a5) h
  rwa [e] at k

theorem State.aseDone_touches {ps s x} {a1}
    (h : Touches ps s x) (p_regs : Part.regs ∈ ps := by assumption) (p_outbox : Part.outbox ∈ ps := by assumption) (p_host : Part.host ∈ ps := by assumption) :
    Touches ps s (State.aseDone x a1) := by
  unfold State.aseDone
  repeat' first
    | with_reducible assumption
    | intro _ _
    | intro _
    | with_reducible apply State.set_touches
    | with_reducible apply State.event_touches

theorem State.asePut_touches {ps s x} {a1 a2 a3}
    (h : Touches ps s x) (p_regs : Part.regs ∈ ps := by assumption) (p_dev : Part.dev ∈ ps := by assumption) (p_outbox : Part.outbox ∈ ps := by assumption) (p_flt : Part.flt ∈ ps := by assumption) (p_act : Part.act ∈ ps := by assumption) (p_host : Part.host ∈ ps := by assumption) (p_pipe : Part.pipe ∈ ps := by assumption) :
    Touches ps s (State.asePut x a1 a2 a3) := by
  unfold State.asePut
  repeat' first
    | with_reducible assumption
    | intro _ _
    | intro _
    | with_reducible apply Touches.choose
    | with_reducible apply State.memStore_touches
    | with_reducible apply State.aseWork_touches

theorem State.asePos_touches {ps s x} {a1 a2} (h2 : ∀ y, Touches ps s y → Touches ps s (a2 y))
    (h : Touches ps s x) (p_regs : Part.regs ∈ ps := by assumption) (p_outbox : Part.outbox ∈ ps := by assumption) (p_host : Part.host ∈ ps := by assumption) :
    Touches ps s (State.asePos x a1 a2) := by
  unfold State.asePos
  repeat' first
    | with_reducible assumption
    | intro _ _
    | intro _
    | apply h2
    | with_reducible apply Touches.choose
    | with_reducible apply State.aseDone_touches

theorem State.aseChange_touches {ps s x} {a1 a2} (h2 : ∀ y, Touches ps s y → Touches ps s (a2 y))
    (h : Touches ps s x) (p_regs : Part.regs ∈ ps := by assumption) (p_outbox : Part.outbox ∈ ps := by assumption) (p_host : Part.host ∈ ps := by assumption) :
    Touches ps s (State.aseChange x a1 a2) := by
  unfold State.aseChange
  repeat' first
    | with_reducible assumption
    | intro _ _
    | intro _
    | apply h2
    | with_reducible apply Touches.choose
    | with_reducible apply State.aseDone_touches
    | with_reducible apply State.asePos_touches

theorem State.aseWriteAt_touches {ps s x} {a1}
    (h : Touches ps s x) (p_regs : Part.regs ∈ ps := by assumption) (p_dev : Part.dev ∈ ps := by assumption) (p_outbox : Part.outbox ∈ ps := by assumption) (p_flt : Part.flt ∈ ps := by assumption) (p_act : Part.act ∈ ps := by assumption) (p_host : Part.host ∈ ps := by assumption) (p_pipe : Part.pipe ∈ ps := by assumption) :
    Touches ps s (State.aseWriteAt x a1) := by
  unfold State.aseWriteAt
  repeat' first
    | with_reducible assumption
    | intro _ _
    | intro _
    | with_reducible apply Touches.foldl
    | with_reducible apply Touches.foldl_snd
    | with_reducible apply Touches.foldl_fst
    | with_reducible apply Touches.foldl_third
    | with_reducible apply State.aseDone_touches
    | with_reducible apply State.asePut_touches
    | with_reducible apply State.aseChange_touches

theorem State.aseDeleteAt_touches {ps s x} {a1}
    (h : Touches ps s x) (p_regs : Part.regs ∈ ps := by assumption) (p_dev : Part.dev ∈ ps := by assumption) (p_outbox : Part.outbox ∈ ps := by assumption) (p_flt : Part.flt ∈ ps := by assumption) (p_act : Part.act ∈ ps := by assumption) (p_host : Part.host ∈ ps := by assumption) (p_pipe : Part.pipe ∈ ps := by assumption) :
    Touches ps s (State.aseDeleteAt x a1) := by
  unfold State.aseDeleteAt
  repeat' first
    | with_reducible assumption
    | intro _ _
    | intro _
    | with_reducible apply Touches.foldl
    | with_reducible apply Touches.foldl_snd
    | with_reducible apply Touches.foldl_fst
    | with_reducible apply Touches.foldl_third
    | with_reducible apply State.slotClear_touches
    | with_reducible apply State.aseWork_touches
    | with_reducible apply State.aseDone_touches
    | with_reducible apply State.aseChange_touches

theorem State.moveHalf_touches {ps s x} {a1 a2 a3}
    (h : Touches ps s x) (p_dev : Part.dev ∈ ps := by assumption) (p_flt : Part.flt ∈ ps := by assumption) :
    Touches ps s (State.moveHalf x a1 a2 a3) := by
  unfold State.moveHalf
  repeat' first
    | with_reducible assumption
    | intro _ _
    | intro _
    | with_reducible apply State.memStore_touches

theorem State.moveCopy_touches {ps s x} {a1 a2 a3 a4}
    (h : Touches ps s x) (p_regs : Part.regs ∈ ps := by assumption) (p_dev : Part.dev ∈ ps := by assumption) (p_outbox : Part.outbox ∈ ps := by assumption) (p_flt : Part.flt ∈ ps := by assumption) (p_act : Part.act ∈ ps := by assumption) (p_host : Part.host ∈ ps := by assumption) (p_pipe : Part.pipe ∈ ps := by assumption) :
    Touches ps s (State.moveCopy x a1 a2 a3 a4) := by
  unfold State.moveCopy
  repeat' first
    | with_reducible assumption
    | intro _ _
    | intro _
    | with_reducible apply Touches.foldl
    | with_reducible apply Touches.foldl_snd
    | with_reducible apply Touches.foldl_fst
    | with_reducible apply Touches.foldl_third
    | with_reducible apply State.aseWork_touches
    | with_reducible apply State.moveHalf_touches
    | split
    | dsimp only
    | with_reducible apply Touches.upd
    | exact Or.inl (by assumption)
    | exact Or.inr rfl

theorem State.moveVacate_touches {ps s x} {a1 a2 a3}
    (h : Touches ps s x) (p_regs : Part.regs ∈ ps := by assumption) (p_dev : Part.dev ∈ ps := by assumption) (p_outbox : Part.outbox ∈ ps := by assumption) (p_flt : Part.flt ∈ ps := by assumption) (p_act : Part.act ∈ ps := by assumption) (p_host : Part.host ∈ ps := by assumption) (p_pipe : Part.pipe ∈ ps := by assumption) :
    Touches ps s (State.moveVacate x a1 a2 a3) := by
  unfold State.moveVacate
  repeat' first
    | with_reducible assumption
    | intro _ _
    | intro _
    | with_reducible apply State.slotClear_touches
    | with_reducible apply State.aseWork_touches

theorem State.moveSettle_touches {ps s x} {a1 a2 a3}
    (h : Touches ps s x) (p_regs : Part.regs ∈ ps := by assumption) (p_dev : Part.dev ∈ ps := by assumption) (p_outbox : Part.outbox ∈ ps := by assumption) (p_flt : Part.flt ∈ ps := by assumption) (p_act : Part.act ∈ ps := by assumption) (p_host : Part.host ∈ ps := by assumption) (p_pipe : Part.pipe ∈ ps := by assumption) :
    Touches ps s (State.moveSettle x a1 a2 a3) := by
  unfold State.moveSettle
  repeat' first
    | with_reducible assumption
    | intro _ _
    | intro _
    | with_reducible apply State.slotSetFlags_touches
    | with_reducible apply State.aseWork_touches
    | split
    | dsimp only
    | with_reducible apply Touches.upd
    | exact Or.inl (by assumption)
    | exact Or.inr rfl

theorem State.aseMove_touches {ps s x} {a1 a2 a3 a4}
    (h : Touches ps s x) (p_regs : Part.regs ∈ ps := by assumption) (p_dev : Part.dev ∈ ps := by assumption) (p_outbox : Part.outbox ∈ ps := by assumption) (p_flt : Part.flt ∈ ps := by assumption) (p_act : Part.act ∈ ps := by assumption) (p_host : Part.host ∈ ps := by assumption) (p_pipe : Part.pipe ∈ ps := by assumption) :
    Touches ps s (State.aseMove x a1 a2 a3 a4) := by
  unfold State.aseMove
  repeat' first
    | with_reducible assumption
    | intro _ _
    | intro _
    | with_reducible apply State.moveCopy_touches
    | with_reducible apply State.moveVacate_touches
    | with_reducible apply State.moveSettle_touches

theorem State.aseInsertBank_touches {ps s x} {a1 a2 a3 a4}
    (h : Touches ps s x) (p_regs : Part.regs ∈ ps := by assumption) (p_dev : Part.dev ∈ ps := by assumption) (p_outbox : Part.outbox ∈ ps := by assumption) (p_flt : Part.flt ∈ ps := by assumption) (p_act : Part.act ∈ ps := by assumption) (p_host : Part.host ∈ ps := by assumption) (p_pipe : Part.pipe ∈ ps := by assumption) :
    Touches ps s (State.aseInsertBank x a1 a2 a3 a4).2 := by
  unfold State.aseInsertBank
  repeat' first
    | with_reducible assumption
    | intro _ _
    | intro _
    | with_reducible apply Touches.choose
    | with_reducible apply Touches.foldl
    | with_reducible apply Touches.foldl_snd
    | with_reducible apply Touches.foldl_fst
    | with_reducible apply Touches.foldl_third
    | with_reducible apply State.asePut_touches
    | with_reducible apply State.aseMove_touches
    | split
theorem State.aseInsertBank_touchesE {ps s x} {a1 a2 a3 a4} {r0 t} (e : State.aseInsertBank x a1 a2 a3 a4 = (r0, t))
    (h : Touches ps s x) (p_regs : Part.regs ∈ ps := by assumption) (p_dev : Part.dev ∈ ps := by assumption) (p_outbox : Part.outbox ∈ ps := by assumption) (p_flt : Part.flt ∈ ps := by assumption) (p_act : Part.act ∈ ps := by assumption) (p_host : Part.host ∈ ps := by assumption) (p_pipe : Part.pipe ∈ ps := by assumption) :
    Touches ps s t := by
  have k := State.aseInsertBank_touches (ps := ps) (s := s) (x := x) (a1 := a1) (a2 := a2) (a3 := a3) (a4 := a4) h
  rwa [e] at k

theorem State.aseInsertAt_touches {ps s x} {a1}
    (h : Touches ps s x) (p_regs : Part.regs ∈ ps := by assumption) (p_dev : Part.dev ∈ ps := by assumption) (p_outbox : Part.outbox ∈ ps := by assumption) (p_flt : Part.flt ∈ ps := by assumption) (p_act : Part.act ∈ ps := by assumption) (p_host : Part.host ∈ ps := by assumption) (p_pipe : Part.pipe ∈ ps := by assumption) :
    Touches ps s (State.aseInsertAt x a1) := by
  unfold State.aseInsertAt
  repeat' first
    | with_reducible assumption
    | intro _ _
    | intro _
    | with_reducible apply Touches.choose
    | with_reducible apply Touches.foldl
    | with_reducible apply Touches.foldl_snd
    | with_reducible apply Touches.foldl_fst
    | with_reducible apply Touches.foldl_third
    | with_reducible apply State.set_touches
    | with_reducible apply State.add_touches
    | with_reducible apply State.aseDone_touches
    | with_reducible apply State.aseChange_touches
    | with_reducible apply State.aseInsertBank_touches
    | refine State.aseInsertBank_touchesE (by with_reducible assumption) ?_
    | split

theorem State.aseFound_touches {ps s x} {a1 a2} (h : Touches ps s x) (p_regs : Part.regs ∈ ps := by assumption) :
    Touches ps s (State.aseFound x a1 a2) := by
  unfold State.aseFound
  repeat' first
    | with_reducible assumption
    | intro _ _
    | intro _
    | with_reducible apply State.set_touches
    | with_reducible apply State.setB_touches

theorem State.aseReplica_touches {ps s x} {a1 a2 a3} (h3 : ∀ y, Touches ps s y → Touches ps s (a3 y))
    (h : Touches ps s x) (p_regs : Part.regs ∈ ps := by assumption) (p_outbox : Part.outbox ∈ ps := by assumption) (p_host : Part.host ∈ ps := by assumption) :
    Touches ps s (State.aseReplica x a1 a2 a3) := by
  unfold State.aseReplica
  repeat' first
    | with_reducible assumption
    | intro _ _
    | intro _
    | apply h3
    | with_reducible apply Touches.choose
    | with_reducible apply State.aseDone_touches

theorem State.aseCmdSearch_touches {ps s x} {a1 a2 a3}
    (h : Touches ps s x) (p_regs : Part.regs ∈ ps := by assumption) (p_dev : Part.dev ∈ ps := by assumption) (p_outbox : Part.outbox ∈ ps := by assumption) (p_flt : Part.flt ∈ ps := by assumption) (p_act : Part.act ∈ ps := by assumption) (p_host : Part.host ∈ ps := by assumption) (p_pipe : Part.pipe ∈ ps := by assumption) :
    Touches ps s (State.aseCmdSearch x a1 a2 a3) := by
  unfold State.aseCmdSearch
  repeat' first
    | with_reducible assumption
    | intro _ _
    | intro _
    | with_reducible apply Touches.choose
    | with_reducible apply State.setB_touches
    | with_reducible apply State.aseSearch_touches
    | with_reducible apply State.aseDone_touches
    | with_reducible apply State.aseFound_touches
    | with_reducible apply State.aseReplica_touches
    | refine State.aseSearch_touchesE (by with_reducible assumption) ?_
    | split
    | dsimp only
    | with_reducible apply Touches.upd
    | exact Or.inl (by assumption)
    | exact Or.inr rfl

theorem State.aseReport_touches {ps s x} {a1 a2 a3}
    (h : Touches ps s x) (p_regs : Part.regs ∈ ps := by assumption) (p_outbox : Part.outbox ∈ ps := by assumption) (p_host : Part.host ∈ ps := by assumption) (p_pipe : Part.pipe ∈ ps := by assumption) :
    Touches ps s (State.aseReport x a1 a2 a3) := by
  unfold State.aseReport
  repeat' first
    | with_reducible assumption
    | intro _ _
    | intro _
    | with_reducible apply State.aseDone_touches
    | with_reducible apply State.aseFound_touches
    | split
    | dsimp only
    | with_reducible apply Touches.upd
    | exact Or.inl (by assumption)
    | exact Or.inr rfl

theorem State.aseNone_touches {ps s x} {a1}
    (h : Touches ps s x) (p_regs : Part.regs ∈ ps := by assumption) (p_outbox : Part.outbox ∈ ps := by assumption) (p_host : Part.host ∈ ps := by assumption) :
    Touches ps s (State.aseNone x a1) := by
  unfold State.aseNone
  repeat' first
    | with_reducible assumption
    | intro _ _
    | intro _
    | with_reducible apply State.setB_touches
    | with_reducible apply State.aseDone_touches

theorem State.aseStep_touches {ps s x} {a1 a2 a3}
    (h : Touches ps s x) (p_regs : Part.regs ∈ ps := by assumption) (p_dev : Part.dev ∈ ps := by assumption) (p_outbox : Part.outbox ∈ ps := by assumption) (p_flt : Part.flt ∈ ps := by assumption) (p_act : Part.act ∈ ps := by assumption) (p_host : Part.host ∈ ps := by assumption) (p_pipe : Part.pipe ∈ ps := by assumption) :
    Touches ps s (State.aseStep x a1 a2 a3) := by
  unfold State.aseStep
  repeat' first
    | with_reducible assumption
    | intro _ _
    | intro _
    | with_reducible apply Touches.choose
    | with_reducible apply State.slotFail_touches
    | with_reducible apply State.slotBad_touches
    | with_reducible apply State.slotFix_touches
    | with_reducible apply State.aseOps_touches
    | with_reducible apply State.aseReport_touches
    | with_reducible apply State.aseNone_touches
    | split
    | dsimp only

theorem State.aseCmdStep_touches {ps s x} {a1 a2 a3}
    (h : Touches ps s x) (p_regs : Part.regs ∈ ps := by assumption) (p_dev : Part.dev ∈ ps := by assumption) (p_outbox : Part.outbox ∈ ps := by assumption) (p_flt : Part.flt ∈ ps := by assumption) (p_act : Part.act ∈ ps := by assumption) (p_host : Part.host ∈ ps := by assumption) (p_pipe : Part.pipe ∈ ps := by assumption) :
    Touches ps s (State.aseCmdStep x a1 a2 a3) := by
  unfold State.aseCmdStep
  repeat' first
    | with_reducible assumption
    | intro _ _
    | intro _
    | with_reducible apply Touches.choose
    | with_reducible apply State.aseDone_touches
    | with_reducible apply State.aseReplica_touches
    | with_reducible apply State.aseNone_touches
    | with_reducible apply State.aseStep_touches
    | split

theorem State.aseReadAt_touches {ps s x} {a1 a2}
    (h : Touches ps s x) (p_regs : Part.regs ∈ ps := by assumption) (p_outbox : Part.outbox ∈ ps := by assumption) (p_act : Part.act ∈ ps := by assumption) (p_host : Part.host ∈ ps := by assumption) (p_pipe : Part.pipe ∈ ps := by assumption) :
    Touches ps s (State.aseReadAt x a1 a2) := by
  unfold State.aseReadAt
  repeat' first
    | with_reducible assumption
    | intro _ _
    | intro _
    | with_reducible apply Touches.choose
    | with_reducible apply Touches.upTo
    | with_reducible apply State.set_touches
    | with_reducible apply State.setB_touches
    | with_reducible apply State.aseWork_touches
    | with_reducible apply State.aseDone_touches
    | with_reducible apply State.asePos_touches
    | with_reducible apply State.aseFound_touches
    | with_reducible apply State.aseReplica_touches

theorem State.aseCommand_touches {ps s x} {a1 a2 a3 a4}
    (h : Touches ps s x) (p_regs : Part.regs ∈ ps := by assumption) (p_dev : Part.dev ∈ ps := by assumption) (p_outbox : Part.outbox ∈ ps := by assumption) (p_flt : Part.flt ∈ ps := by assumption) (p_act : Part.act ∈ ps := by assumption) (p_host : Part.host ∈ ps := by assumption) (p_pipe : Part.pipe ∈ ps := by assumption) :
    Touches ps s (State.aseCommand x a1 a2 a3 a4) := by
  unfold State.aseCommand
  repeat' first
    | with_reducible assumption
    | intro _ _
    | intro _
    | with_reducible apply State.aseDone_touches
    | with_reducible apply State.aseWriteAt_touches
    | with_reducible apply State.aseDeleteAt_touches
    | with_reducible apply State.aseInsertAt_touches
    | with_reducible apply State.aseCmdSearch_touches
    | with_reducible apply State.aseCmdStep_touches
    | with_reducible apply State.aseReadAt_touches
    | split

theorem State.aseClaspReq_touches {ps s x} {a1} (h : Touches ps s x) (p_regs : Part.regs ∈ ps := by assumption) :
    Touches ps s (State.aseClaspReq x a1) := by
  unfold State.aseClaspReq
  repeat' first
    | with_reducible assumption
    | intro _ _
    | intro _
    | with_reducible apply State.setBit_touches

theorem State.aseClaspGrant_touches {ps s x} {a1} (h : Touches ps s x) (p_regs : Part.regs ∈ ps := by assumption) :
    Touches ps s (State.aseClaspGrant x a1) := by
  unfold State.aseClaspGrant
  repeat' first
    | with_reducible assumption
    | intro _ _
    | intro _
    | with_reducible apply Touches.choose
    | with_reducible apply State.setBit_touches

theorem State.aseClaspFree_touches {ps s x} {a1} (h : Touches ps s x) (p_regs : Part.regs ∈ ps := by assumption) :
    Touches ps s (State.aseClaspFree x a1) := by
  unfold State.aseClaspFree
  repeat' first
    | with_reducible assumption
    | intro _ _
    | intro _
    | with_reducible apply State.clearBit_touches

theorem State.planishRepair_touches {ps s x} {a1 a2 a3 a4 a5}
    (h : Touches ps s x) (p_regs : Part.regs ∈ ps := by assumption) (p_dev : Part.dev ∈ ps := by assumption) (p_outbox : Part.outbox ∈ ps := by assumption) (p_flt : Part.flt ∈ ps := by assumption) (p_act : Part.act ∈ ps := by assumption) (p_host : Part.host ∈ ps := by assumption) (p_pipe : Part.pipe ∈ ps := by assumption) :
    Touches ps s (State.planishRepair x a1 a2 a3 a4 a5) := by
  unfold State.planishRepair
  repeat' first
    | with_reducible assumption
    | intro _ _
    | intro _
    | with_reducible apply Touches.choose
    | with_reducible apply State.memStore_touches
    | with_reducible apply State.parityEvent_touches
    | with_reducible apply State.slotFail_touches
    | with_reducible apply State.aseWork_touches
    | split

theorem State.planishAse_touches {ps s x} {a1 a2 a3 a4}
    (h : Touches ps s x) (p_regs : Part.regs ∈ ps := by assumption) (p_dev : Part.dev ∈ ps := by assumption) (p_outbox : Part.outbox ∈ ps := by assumption) (p_flt : Part.flt ∈ ps := by assumption) (p_act : Part.act ∈ ps := by assumption) (p_host : Part.host ∈ ps := by assumption) (p_pipe : Part.pipe ∈ ps := by assumption) :
    Touches ps s (State.planishAse x a1 a2 a3 a4) := by
  unfold State.planishAse
  repeat' first
    | with_reducible assumption
    | intro _ _
    | intro _
    | with_reducible apply Touches.choose
    | with_reducible apply State.inc_touches
    | with_reducible apply State.slotBad_touches
    | with_reducible apply State.slotFix_touches
    | with_reducible apply State.aseWork_touches
    | with_reducible apply State.planishRepair_touches
    | split
    | dsimp only

/-! ### Machine/Planish.lean -/

theorem State.scrubWord_touches {ps s x} {a1 a2 a3}
    (h : Touches ps s x) (p_regs : Part.regs ∈ ps := by assumption) (p_flt : Part.flt ∈ ps := by assumption) :
    Touches ps s (State.scrubWord x a1 a2 a3) := by
  unfold State.scrubWord
  repeat' first
    | with_reducible assumption
    | intro _ _
    | intro _
    | with_reducible apply State.inc_touches
    | with_reducible apply State.injClear_touches
    | split

theorem State.scrubRow_touches {ps s x} {a1 a2 a3 a4}
    (h : Touches ps s x) (p_regs : Part.regs ∈ ps := by assumption) (p_flt : Part.flt ∈ ps := by assumption) (p_buf : Part.buf ∈ ps := by assumption) :
    Touches ps s (State.scrubRow x a1 a2 a3 a4) := by
  unfold State.scrubRow
  repeat' first
    | with_reducible assumption
    | intro _ _
    | intro _
    | with_reducible apply Touches.choose
    | with_reducible apply State.inc_touches
    | with_reducible apply State.wordCorrected_touches
    | with_reducible apply State.wordRebuilt_touches
    | split

theorem State.scrubAse_touches {ps s x} {a1 a2 a3 a4 a5}
    (h : Touches ps s x) (p_regs : Part.regs ∈ ps := by assumption) (p_dev : Part.dev ∈ ps := by assumption) (p_outbox : Part.outbox ∈ ps := by assumption) (p_flt : Part.flt ∈ ps := by assumption) (p_act : Part.act ∈ ps := by assumption) (p_host : Part.host ∈ ps := by assumption) (p_pipe : Part.pipe ∈ ps := by assumption) :
    Touches ps s (State.scrubAse x a1 a2 a3 a4 a5) := by
  unfold State.scrubAse
  repeat' first
    | with_reducible assumption
    | intro _ _
    | intro _
    | with_reducible apply Touches.choose
    | with_reducible apply State.inc_touches
    | with_reducible apply State.planishAse_touches
    | split

theorem State.scrubBank_touches {ps s x} {a1 a2 a3 a4}
    (h : Touches ps s x) (p_regs : Part.regs ∈ ps := by assumption) (p_outbox : Part.outbox ∈ ps := by assumption) (p_flt : Part.flt ∈ ps := by assumption) (p_act : Part.act ∈ ps := by assumption) (p_host : Part.host ∈ ps := by assumption) :
    Touches ps s (State.scrubBank x a1 a2 a3 a4) := by
  unfold State.scrubBank
  repeat' first
    | with_reducible assumption
    | intro _ _
    | intro _
    | with_reducible apply Touches.choose
    | with_reducible apply State.bankWork_touches
    | with_reducible apply State.scrubWord_touches

theorem State.scrub_touches {ps s x} {a1 a2}
    (h : Touches ps s x) (p_regs : Part.regs ∈ ps := by assumption) (p_dev : Part.dev ∈ ps := by assumption) (p_outbox : Part.outbox ∈ ps := by assumption) (p_flt : Part.flt ∈ ps := by assumption) (p_act : Part.act ∈ ps := by assumption) (p_host : Part.host ∈ ps := by assumption) (p_buf : Part.buf ∈ ps := by assumption) (p_pipe : Part.pipe ∈ ps := by assumption) :
    Touches ps s (State.scrub x a1 a2) := by
  unfold State.scrub
  repeat' first
    | with_reducible assumption
    | intro _ _
    | intro _
    | with_reducible apply State.scrubWord_touches
    | with_reducible apply State.scrubRow_touches
    | with_reducible apply State.scrubAse_touches
    | with_reducible apply State.scrubBank_touches
    | split

theorem State.scrubPass_touches {ps s x} {a1}
    (h : Touches ps s x) (p_regs : Part.regs ∈ ps := by assumption) (p_flt : Part.flt ∈ ps := by assumption) (p_anvil : Part.anvil ∈ ps := by assumption) :
    Touches ps s (State.scrubPass x a1) := by
  unfold State.scrubPass
  repeat' first
    | with_reducible assumption
    | intro _ _
    | intro _
    | with_reducible apply State.when_touches
    | with_reducible apply State.set_touches
    | with_reducible apply State.when_touches
    | with_reducible apply State.passEnd_touches
    | with_reducible apply State.coverMiss_touches
    | refine State.passEnd_touchesE (by with_reducible assumption) ?_
    | split

end Sys2Proof.Machine
end

