-- ==== Sys2Proof/Laws/TouchesPipes.lean ====
section
/-!
SUPPORT. What the operations of the stages, the ports, the gates and the schedulers touch: one lemma for each.
-/
namespace Sys2Proof.Machine
set_option Elab.async false

/-! ### Machine/Editor.lean -/

theorem State.editErr_touches {ps s x} {a1 a2 a3}
    (h : Touches ps s x) (p_regs : Part.regs ∈ ps := by assumption) (p_flt : Part.flt ∈ ps := by assumption) :
    Touches ps s (State.editErr x a1 a2 a3) := by
  unfold State.editErr
  repeat' first
    | with_reducible assumption
    | intro _ _
    | intro _
    | with_reducible apply State.set_touches
    | with_reducible apply State.setB_touches
    | with_reducible apply State.inc_touches
    | with_reducible apply State.fault_touches

theorem State.editRecord_touches {ps s x} {a1 a2 a3}
    (h : Touches ps s x) (p_regs : Part.regs ∈ ps := by assumption) (p_flt : Part.flt ∈ ps := by assumption) :
    Touches ps s (State.editRecord x a1 a2 a3).2 := by
  unfold State.editRecord
  repeat' first
    | with_reducible assumption
    | intro _ _
    | intro _
    | with_reducible apply Touches.choose
    | with_reducible apply State.editErr_touches
    | split
theorem State.editRecord_touchesE {ps s x} {a1 a2 a3} {r0 t} (e : State.editRecord x a1 a2 a3 = (r0, t))
    (h : Touches ps s x) (p_regs : Part.regs ∈ ps := by assumption) (p_flt : Part.flt ∈ ps := by assumption) :
    Touches ps s t := by
  have k := State.editRecord_touches (ps := ps) (s := s) (x := x) (a1 := a1) (a2 := a2) (a3 := a3) h
  rwa [e] at k

theorem State.stripRecord_touches {ps s x} {a1}
    (h : Touches ps s x) (p_regs : Part.regs ∈ ps := by assumption) (p_flt : Part.flt ∈ ps := by assumption) :
    Touches ps s (State.stripRecord x a1).2 := by
  unfold State.stripRecord
  repeat' first
    | with_reducible assumption
    | intro _ _
    | intro _
    | with_reducible apply State.editRecord_touches
    | refine State.editRecord_touchesE (by with_reducible assumption) ?_
    | split
theorem State.stripRecord_touchesE {ps s x} {a1} {r0 t} (e : State.stripRecord x a1 = (r0, t))
    (h : Touches ps s x) (p_regs : Part.regs ∈ ps := by assumption) (p_flt : Part.flt ∈ ps := by assumption) :
    Touches ps s t := by
  have k := State.stripRecord_touches (ps := ps) (s := s) (x := x) (a1 := a1) h
  rwa [e] at k

theorem State.ecnMark_touches {ps s x} {a1 a2}
    (h : Touches ps s x) (p_regs : Part.regs ∈ ps := by assumption) (p_dev : Part.dev ∈ ps := by assumption) (p_flt : Part.flt ∈ ps := by assumption) :
    Touches ps s (State.ecnMark x a1 a2).2 := by
  unfold State.ecnMark
  repeat' first
    | with_reducible assumption
    | intro _ _
    | intro _
    | with_reducible apply Touches.choose
    | with_reducible apply State.inc_touches
    | with_reducible apply State.memSet_touches
    | split
    | dsimp only
theorem State.ecnMark_touchesE {ps s x} {a1 a2} {r0 t} (e : State.ecnMark x a1 a2 = (r0, t))
    (h : Touches ps s x) (p_regs : Part.regs ∈ ps := by assumption) (p_dev : Part.dev ∈ ps := by assumption) (p_flt : Part.flt ∈ ps := by assumption) :
    Touches ps s t := by
  have k := State.ecnMark_touches (ps := ps) (s := s) (x := x) (a1 := a1) (a2 := a2) h
  rwa [e] at k

theorem State.hmIoam_touches {ps s x} {a1 a2 a3 a4 a5 a6} (h : Touches ps s x) (p_regs : Part.regs ∈ ps := by assumption) :
    Touches ps s (State.hmIoam x a1 a2 a3 a4 a5 a6).2 := by
  unfold State.hmIoam
  repeat' first
    | with_reducible assumption
    | intro _ _
    | intro _
    | with_reducible apply Touches.choose
    | with_reducible apply State.inc_touches
    | with_reducible apply State.hmSkip_touches
    | split
    | dsimp only
theorem State.hmIoam_touchesE {ps s x} {a1 a2 a3 a4 a5 a6} {r0 t} (e : State.hmIoam x a1 a2 a3 a4 a5 a6 = (r0, t))
    (h : Touches ps s x) (p_regs : Part.regs ∈ ps := by assumption) :
    Touches ps s t := by
  have k := State.hmIoam_touches (ps := ps) (s := s) (x := x) (a1 := a1) (a2 := a2) (a3 := a3) (a4 := a4) (a5 := a5) (a6 := a6) h
  rwa [e] at k

theorem State.hmShim_touches {ps s x} {a1 a2 a3 a4 a5 a6 a7} (h : Touches ps s x) (p_regs : Part.regs ∈ ps := by assumption) :
    Touches ps s (State.hmShim x a1 a2 a3 a4 a5 a6 a7).2 := by
  unfold State.hmShim
  repeat' first
    | with_reducible assumption
    | intro _ _
    | intro _
    | with_reducible apply Touches.choose
    | with_reducible apply State.inc_touches
    | with_reducible apply State.hmSkip_touches
    | split
    | dsimp only
theorem State.hmShim_touchesE {ps s x} {a1 a2 a3 a4 a5 a6 a7} {r0 t} (e : State.hmShim x a1 a2 a3 a4 a5 a6 a7 = (r0, t))
    (h : Touches ps s x) (p_regs : Part.regs ∈ ps := by assumption) :
    Touches ps s t := by
  have k := State.hmShim_touches (ps := ps) (s := s) (x := x) (a1 := a1) (a2 := a2) (a3 := a3) (a4 := a4) (a5 := a5) (a6 := a6) (a7 := a7) h
  rwa [e] at k

theorem State.hmPlan_touches {ps s x} {a1 a2 a3 a4} (h : Touches ps s x) (p_regs : Part.regs ∈ ps := by assumption) :
    Touches ps s (State.hmPlan x a1 a2 a3 a4).2 := by
  unfold State.hmPlan
  repeat' first
    | with_reducible assumption
    | intro _ _
    | intro _
    | with_reducible apply Touches.choose
    | with_reducible apply State.hmSkip_touches
    | with_reducible apply State.hmIoam_touches
    | with_reducible apply State.hmShim_touches
    | refine State.hmIoam_touchesE (by with_reducible assumption) ?_
    | refine State.hmShim_touchesE (by with_reducible assumption) ?_
    | split
    | dsimp only
theorem State.hmPlan_touchesE {ps s x} {a1 a2 a3 a4} {r0 t} (e : State.hmPlan x a1 a2 a3 a4 = (r0, t))
    (h : Touches ps s x) (p_regs : Part.regs ∈ ps := by assumption) :
    Touches ps s t := by
  have k := State.hmPlan_touches (ps := ps) (s := s) (x := x) (a1 := a1) (a2 := a2) (a3 := a3) (a4 := a4) h
  rwa [e] at k

theorem State.hmFix_touches {ps s x} {a1 a2 a3 a4 a5} (h : Touches ps s x) (p_regs : Part.regs ∈ ps := by assumption) :
    Touches ps s (State.hmFix x a1 a2 a3 a4 a5).2 := by
  unfold State.hmFix
  repeat' first
    | with_reducible assumption
    | intro _ _
    | intro _
    | with_reducible apply Touches.choose
    | with_reducible apply State.inc_touches
    | split
    | dsimp only
theorem State.hmFix_touchesE {ps s x} {a1 a2 a3 a4 a5} {r0 t} (e : State.hmFix x a1 a2 a3 a4 a5 = (r0, t))
    (h : Touches ps s x) (p_regs : Part.regs ∈ ps := by assumption) :
    Touches ps s t := by
  have k := State.hmFix_touches (ps := ps) (s := s) (x := x) (a1 := a1) (a2 := a2) (a3 := a3) (a4 := a4) (a5 := a5) h
  rwa [e] at k

theorem State.ptpTransparent_touches {ps s x} {a1 a2 a3 a4} (h : Touches ps s x) (p_regs : Part.regs ∈ ps := by assumption) :
    Touches ps s (State.ptpTransparent x a1 a2 a3 a4).2 := by
  unfold State.ptpTransparent
  repeat' first
    | with_reducible assumption
    | intro _ _
    | intro _
    | with_reducible apply Touches.choose
    | with_reducible apply State.inc_touches
    | split
    | dsimp only
theorem State.ptpTransparent_touchesE {ps s x} {a1 a2 a3 a4} {r0 t} (e : State.ptpTransparent x a1 a2 a3 a4 = (r0, t))
    (h : Touches ps s x) (p_regs : Part.regs ∈ ps := by assumption) :
    Touches ps s t := by
  have k := State.ptpTransparent_touches (ps := ps) (s := s) (x := x) (a1 := a1) (a2 := a2) (a3 := a3) (a4 := a4) h
  rwa [e] at k

theorem State.ptpRecord_touches {ps s x} {a1 a2 a3 a4}
    (h : Touches ps s x) (p_regs : Part.regs ∈ ps := by assumption) (p_dev : Part.dev ∈ ps := by assumption) (p_outbox : Part.outbox ∈ ps := by assumption) (p_flt : Part.flt ∈ ps := by assumption) (p_host : Part.host ∈ ps := by assumption) :
    Touches ps s (State.ptpRecord x a1 a2 a3 a4) := by
  unfold State.ptpRecord
  repeat' first
    | with_reducible assumption
    | intro _ _
    | intro _
    | with_reducible apply Touches.choose
    | with_reducible apply State.inc_touches
    | with_reducible apply State.eventRingWrite_touches

theorem State.ptpEgress_touches {ps s x} {a1 a2 a3}
    (h : Touches ps s x) (p_regs : Part.regs ∈ ps := by assumption) (p_dev : Part.dev ∈ ps := by assumption) (p_outbox : Part.outbox ∈ ps := by assumption) (p_flt : Part.flt ∈ ps := by assumption) (p_host : Part.host ∈ ps := by assumption) :
    Touches ps s (State.ptpEgress x a1 a2 a3).2 := by
  unfold State.ptpEgress
  repeat' first
    | with_reducible assumption
    | intro _ _
    | intro _
    | with_reducible apply Touches.choose
    | with_reducible apply State.ptpTransparent_touches
    | with_reducible apply State.ptpRecord_touches
    | refine State.ptpTransparent_touchesE (by with_reducible assumption) ?_
    | split
theorem State.ptpEgress_touchesE {ps s x} {a1 a2 a3} {r0 t} (e : State.ptpEgress x a1 a2 a3 = (r0, t))
    (h : Touches ps s x) (p_regs : Part.regs ∈ ps := by assumption) (p_dev : Part.dev ∈ ps := by assumption) (p_outbox : Part.outbox ∈ ps := by assumption) (p_flt : Part.flt ∈ ps := by assumption) (p_host : Part.host ∈ ps := by assumption) :
    Touches ps s t := by
  have k := State.ptpEgress_touches (ps := ps) (s := s) (x := x) (a1 := a1) (a2 := a2) (a3 := a3) h
  rwa [e] at k

theorem State.departHead_touches {ps s x} {a1 a2 a3}
    (h : Touches ps s x) (p_regs : Part.regs ∈ ps := by assumption) (p_dev : Part.dev ∈ ps := by assumption) (p_outbox : Part.outbox ∈ ps := by assumption) (p_flt : Part.flt ∈ ps := by assumption) (p_host : Part.host ∈ ps := by assumption) :
    Touches ps s (State.departHead x a1 a2 a3).2 := by
  unfold State.departHead
  repeat' first
    | with_reducible assumption
    | intro _ _
    | intro _
    | with_reducible apply Touches.choose
    | with_reducible apply State.ecnMark_touches
    | with_reducible apply State.hmPlan_touches
    | with_reducible apply State.hmFix_touches
    | with_reducible apply State.ptpEgress_touches
    | refine State.ecnMark_touchesE (by with_reducible assumption) ?_
    | refine State.hmPlan_touchesE (by with_reducible assumption) ?_
    | refine State.hmFix_touchesE (by with_reducible assumption) ?_
    | refine State.ptpEgress_touchesE (by with_reducible assumption) ?_
    | split
    | dsimp only
theorem State.departHead_touchesE {ps s x} {a1 a2 a3} {r0 t} (e : State.departHead x a1 a2 a3 = (r0, t))
    (h : Touches ps s x) (p_regs : Part.regs ∈ ps := by assumption) (p_dev : Part.dev ∈ ps := by assumption) (p_outbox : Part.outbox ∈ ps := by assumption) (p_flt : Part.flt ∈ ps := by assumption) (p_host : Part.host ∈ ps := by assumption) :
    Touches ps s t := by
  have k := State.departHead_touches (ps := ps) (s := s) (x := x) (a1 := a1) (a2 := a2) (a3 := a3) h
  rwa [e] at k

theorem State.ecnLate_touches {ps s x} {a1 a2}
    (h : Touches ps s x) (p_regs : Part.regs ∈ ps := by assumption) (p_dev : Part.dev ∈ ps := by assumption) (p_flt : Part.flt ∈ ps := by assumption) :
    Touches ps s (State.ecnLate x a1 a2).2 := by
  unfold State.ecnLate
  repeat' first
    | with_reducible assumption
    | intro _ _
    | intro _
    | with_reducible apply Touches.choose
    | with_reducible apply State.ecnMark_touches
    | refine State.ecnMark_touchesE (by with_reducible assumption) ?_
    | split
theorem State.ecnLate_touchesE {ps s x} {a1 a2} {r0 t} (e : State.ecnLate x a1 a2 = (r0, t))
    (h : Touches ps s x) (p_regs : Part.regs ∈ ps := by assumption) (p_dev : Part.dev ∈ ps := by assumption) (p_flt : Part.flt ∈ ps := by assumption) :
    Touches ps s t := by
  have k := State.ecnLate_touches (ps := ps) (s := s) (x := x) (a1 := a1) (a2 := a2) h
  rwa [e] at k

theorem State.foldRecord_touches {ps s x} {a1 a2}
    (h : Touches ps s x) (p_regs : Part.regs ∈ ps := by assumption) (p_dev : Part.dev ∈ ps := by assumption) (p_outbox : Part.outbox ∈ ps := by assumption) (p_flt : Part.flt ∈ ps := by assumption) (p_act : Part.act ∈ ps := by assumption) (p_host : Part.host ∈ ps := by assumption) (p_tele : Part.tele ∈ ps := by assumption) :
    Touches ps s (State.foldRecord x a1 a2) := by
  unfold State.foldRecord
  repeat' first
    | with_reducible assumption
    | intro _ _
    | intro _
    | with_reducible apply Touches.choose
    | with_reducible apply State.hmSkip_touches
    | with_reducible apply State.flowFold_touches

theorem State.cardAsk_touches {ps s x} {a1 a2}
    (h : Touches ps s x) (p_regs : Part.regs ∈ ps := by assumption) (p_draws : Part.draws ∈ ps := by assumption) (p_outbox : Part.outbox ∈ ps := by assumption) (p_act : Part.act ∈ ps := by assumption) (p_host : Part.host ∈ ps := by assumption) (p_tele : Part.tele ∈ ps := by assumption) :
    Touches ps s (State.cardAsk x a1 a2) := by
  unfold State.cardAsk
  repeat' first
    | with_reducible assumption
    | intro _ _
    | intro _
    | with_reducible apply Touches.choose
    | with_reducible apply State.draw_touches
    | with_reducible apply State.hmSkip_touches
    | with_reducible apply State.cardSend_touches

/-! ### Machine/Stages.lean -/

theorem State.directLook_touches {ps s x} {a1 a2 a3 a4}
    (h : Touches ps s x) (p_regs : Part.regs ∈ ps := by assumption) (p_outbox : Part.outbox ∈ ps := by assumption) (p_flt : Part.flt ∈ ps := by assumption) (p_act : Part.act ∈ ps := by assumption) (p_host : Part.host ∈ ps := by assumption) :
    Touches ps s (State.directLook x a1 a2 a3 a4).2 := by
  unfold State.directLook
  repeat' first
    | with_reducible assumption
    | intro _ _
    | intro _
    | with_reducible apply Touches.choose
    | with_reducible apply State.injClear_touches
    | with_reducible apply State.faultInjected_touches
    | with_reducible apply State.count_touches
    | with_reducible apply State.actionErr_touches
    | split
    | dsimp only
    | with_reducible apply Touches.upd
    | exact Or.inl (by assumption)
    | exact Or.inr rfl
theorem State.directLook_touchesE {ps s x} {a1 a2 a3 a4} {r0 t} (e : State.directLook x a1 a2 a3 a4 = (r0, t))
    (h : Touches ps s x) (p_regs : Part.regs ∈ ps := by assumption) (p_outbox : Part.outbox ∈ ps := by assumption) (p_flt : Part.flt ∈ ps := by assumption) (p_act : Part.act ∈ ps := by assumption) (p_host : Part.host ∈ ps := by assumption) :
    Touches ps s t := by
  have k := State.directLook_touches (ps := ps) (s := s) (x := x) (a1 := a1) (a2 := a2) (a3 := a3) (a4 := a4) h
  rwa [e] at k

theorem State.lookIssue_touches {ps s x} {a1 a2 a3}
    (h : Touches ps s x) (p_regs : Part.regs ∈ ps := by assumption) (p_dev : Part.dev ∈ ps := by assumption) (p_outbox : Part.outbox ∈ ps := by assumption) (p_flt : Part.flt ∈ ps := by assumption) (p_act : Part.act ∈ ps := by assumption) (p_host : Part.host ∈ ps := by assumption) (p_pipe : Part.pipe ∈ ps := by assumption) :
    Touches ps s (State.lookIssue x a1 a2 a3).2 := by
  unfold State.lookIssue
  repeat' first
    | with_reducible assumption
    | intro _ _
    | intro _
    | with_reducible apply Touches.choose
    | with_reducible apply State.count_touches
    | with_reducible apply State.filLookup_touches
    | with_reducible apply State.emLookup_touches
    | with_reducible apply State.aseLookup_touches
    | with_reducible apply State.directLook_touches
    | refine State.filLookup_touchesE (by with_reducible assumption) ?_
    | refine State.emLookup_touchesE (by with_reducible assumption) ?_
    | refine State.aseLookup_touchesE (by with_reducible assumption) ?_
    | refine State.directLook_touchesE (by with_reducible assumption) ?_
    | split
    | dsimp only
theorem State.lookIssue_touchesE {ps s x} {a1 a2 a3} {r0 t} (e : State.lookIssue x a1 a2 a3 = (r0, t))
    (h : Touches ps s x) (p_regs : Part.regs ∈ ps := by assumption) (p_dev : Part.dev ∈ ps := by assumption) (p_outbox : Part.outbox ∈ ps := by assumption) (p_flt : Part.flt ∈ ps := by assumption) (p_act : Part.act ∈ ps := by assumption) (p_host : Part.host ∈ ps := by assumption) (p_pipe : Part.pipe ∈ ps := by assumption) :
    Touches ps s t := by
  have k := State.lookIssue_touches (ps := ps) (s := s) (x := x) (a1 := a1) (a2 := a2) (a3 := a3) h
  rwa [e] at k

theorem State.looksIssue_touches {ps s x} {a1 a2}
    (h : Touches ps s x) (p_regs : Part.regs ∈ ps := by assumption) (p_dev : Part.dev ∈ ps := by assumption) (p_outbox : Part.outbox ∈ ps := by assumption) (p_flt : Part.flt ∈ ps := by assumption) (p_act : Part.act ∈ ps := by assumption) (p_host : Part.host ∈ ps := by assumption) (p_pipe : Part.pipe ∈ ps := by assumption) :
    Touches ps s (State.looksIssue x a1 a2).2 := by
  unfold State.looksIssue
  repeat' first
    | with_reducible assumption
    | intro _ _
    | intro _
    | with_reducible apply Touches.foldl
    | with_reducible apply Touches.foldl_snd
    | with_reducible apply Touches.foldl_fst
    | with_reducible apply Touches.foldl_third
    | with_reducible apply State.lookIssue_touches
theorem State.looksIssue_touchesE {ps s x} {a1 a2} {r0 t} (e : State.looksIssue x a1 a2 = (r0, t))
    (h : Touches ps s x) (p_regs : Part.regs ∈ ps := by assumption) (p_dev : Part.dev ∈ ps := by assumption) (p_outbox : Part.outbox ∈ ps := by assumption) (p_flt : Part.flt ∈ ps := by assumption) (p_act : Part.act ∈ ps := by assumption) (p_host : Part.host ∈ ps := by assumption) (p_pipe : Part.pipe ∈ ps := by assumption) :
    Touches ps s t := by
  have k := State.looksIssue_touches (ps := ps) (s := s) (x := x) (a1 := a1) (a2 := a2) h
  rwa [e] at k

theorem State.setEgress_touches {ps s x} {a1 a2} (h : Touches ps s x) (p_pipe : Part.pipe ∈ ps := by assumption) :
    Touches ps s (State.setEgress x a1 a2) := by
  unfold State.setEgress
  repeat' first
    | with_reducible assumption
    | intro _ _
    | intro _
    | with_reducible apply Touches.choose
    | split
    | dsimp only
    | with_reducible apply Touches.upd
    | exact Or.inl (by assumption)
    | exact Or.inr rfl

theorem State.stageIssue_touches {ps s x} {a1 a2 a3}
    (h : Touches ps s x) (p_regs : Part.regs ∈ ps := by assumption) (p_dev : Part.dev ∈ ps := by assumption) (p_outbox : Part.outbox ∈ ps := by assumption) (p_flt : Part.flt ∈ ps := by assumption) (p_act : Part.act ∈ ps := by assumption) (p_host : Part.host ∈ ps := by assumption) (p_pipe : Part.pipe ∈ ps := by assumption) :
    Touches ps s (State.stageIssue x a1 a2 a3) := by
  unfold State.stageIssue
  repeat' first
    | with_reducible assumption
    | intro _ _
    | intro _
    | with_reducible apply Touches.choose
    | with_reducible apply State.setIngress_touches
    | with_reducible apply State.looksIssue_touches
    | with_reducible apply State.setEgress_touches
    | refine State.looksIssue_touchesE (by with_reducible assumption) ?_
    | split
    | dsimp only

theorem State.verdictPut_touches {ps s x} {a1 a2 a3 a4}
    (h : Touches ps s x) (p_regs : Part.regs ∈ ps := by assumption) (p_outbox : Part.outbox ∈ ps := by assumption) (p_flt : Part.flt ∈ ps := by assumption) (p_act : Part.act ∈ ps := by assumption) (p_host : Part.host ∈ ps := by assumption) :
    Touches ps s (State.verdictPut x a1 a2 a3 a4).2 := by
  unfold State.verdictPut
  repeat' first
    | with_reducible assumption
    | intro _ _
    | intro _
    | with_reducible apply Touches.choose
    | with_reducible apply State.actionErr_touches
    | split
theorem State.verdictPut_touchesE {ps s x} {a1 a2 a3 a4} {r0 t} (e : State.verdictPut x a1 a2 a3 a4 = (r0, t))
    (h : Touches ps s x) (p_regs : Part.regs ∈ ps := by assumption) (p_outbox : Part.outbox ∈ ps := by assumption) (p_flt : Part.flt ∈ ps := by assumption) (p_act : Part.act ∈ ps := by assumption) (p_host : Part.host ∈ ps := by assumption) :
    Touches ps s t := by
  have k := State.verdictPut_touches (ps := ps) (s := s) (x := x) (a1 := a1) (a2 := a2) (a3 := a3) (a4 := a4) h
  rwa [e] at k

theorem State.loadAd_touches {ps s x} {a1 a2 a3 a4 a5 a6 a7 a8}
    (h : Touches ps s x) (p_regs : Part.regs ∈ ps := by assumption) (p_outbox : Part.outbox ∈ ps := by assumption) (p_flt : Part.flt ∈ ps := by assumption) (p_act : Part.act ∈ ps := by assumption) (p_host : Part.host ∈ ps := by assumption) :
    Touches ps s (State.loadAd x a1 a2 a3 a4 a5 a6 a7 a8).2 := by
  unfold State.loadAd
  repeat' first
    | with_reducible assumption
    | intro _ _
    | intro _
    | with_reducible apply Touches.choose
    | with_reducible apply State.injClear_touches
    | with_reducible apply State.faultInjected_touches
    | with_reducible apply State.tally_touches
    | with_reducible apply State.actionErr_touches
    | split
    | dsimp only
    | with_reducible apply Touches.upd
    | exact Or.inl (by assumption)
    | exact Or.inr rfl
theorem State.loadAd_touchesE {ps s x} {a1 a2 a3 a4 a5 a6 a7 a8} {r0 t} (e : State.loadAd x a1 a2 a3 a4 a5 a6 a7 a8 = (r0, t))
    (h : Touches ps s x) (p_regs : Part.regs ∈ ps := by assumption) (p_outbox : Part.outbox ∈ ps := by assumption) (p_flt : Part.flt ∈ ps := by assumption) (p_act : Part.act ∈ ps := by assumption) (p_host : Part.host ∈ ps := by assumption) :
    Touches ps s t := by
  have k := State.loadAd_touches (ps := ps) (s := s) (x := x) (a1 := a1) (a2 := a2) (a3 := a3) (a4 := a4) (a5 := a5) (a6 := a6) (a7 := a7) (a8 := a8) h
  rwa [e] at k

theorem State.learnWord_touches {ps s x} {a1 a2 a3}
    (h : Touches ps s x) (p_regs : Part.regs ∈ ps := by assumption) (p_pipe : Part.pipe ∈ ps := by assumption) :
    Touches ps s (State.learnWord x a1 a2 a3) := by
  unfold State.learnWord
  repeat' first
    | with_reducible assumption
    | intro _ _
    | intro _
    | with_reducible apply State.learnRequest_touches
    | split

theorem State.editWord_touches {ps s x} {a1 a2 a3 a4}
    (h : Touches ps s x) (p_regs : Part.regs ∈ ps := by assumption) (p_flt : Part.flt ∈ ps := by assumption) :
    Touches ps s (State.editWord x a1 a2 a3 a4).2 := by
  unfold State.editWord
  repeat' first
    | with_reducible assumption
    | intro _ _
    | intro _
    | with_reducible apply Touches.choose
    | with_reducible apply State.editErr_touches
    | with_reducible apply State.editRecord_touches
    | refine State.editRecord_touchesE (by with_reducible assumption) ?_
    | split
theorem State.editWord_touchesE {ps s x} {a1 a2 a3 a4} {r0 t} (e : State.editWord x a1 a2 a3 a4 = (r0, t))
    (h : Touches ps s x) (p_regs : Part.regs ∈ ps := by assumption) (p_flt : Part.flt ∈ ps := by assumption) :
    Touches ps s t := by
  have k := State.editWord_touches (ps := ps) (s := s) (x := x) (a1 := a1) (a2 := a2) (a3 := a3) (a4 := a4) h
  rwa [e] at k

theorem State.wordRun_touches {ps s x} {a1 a2 a3 a4 a5}
    (h : Touches ps s x) (p_regs : Part.regs ∈ ps := by assumption) (p_dev : Part.dev ∈ ps := by assumption) (p_outbox : Part.outbox ∈ ps := by assumption) (p_flt : Part.flt ∈ ps := by assumption) (p_act : Part.act ∈ ps := by assumption) (p_host : Part.host ∈ ps := by assumption) (p_buf : Part.buf ∈ ps := by assumption) (p_pipe : Part.pipe ∈ ps := by assumption) (p_tele : Part.tele ∈ ps := by assumption) :
    Touches ps s (State.wordRun x a1 a2 a3 a4 a5).2.2 := by
  unfold State.wordRun
  repeat' first
    | with_reducible assumption
    | intro _ _
    | intro _
    | with_reducible apply State.count_touches
    | with_reducible apply State.verdictPut_touches
    | with_reducible apply State.loadAd_touches
    | with_reducible apply State.learnWord_touches
    | with_reducible apply State.editWord_touches
    | refine State.verdictPut_touchesE (by with_reducible assumption) ?_
    | refine State.loadAd_touchesE (by with_reducible assumption) ?_
    | refine State.editWord_touchesE (by with_reducible assumption) ?_
    | split
theorem State.wordRun_touchesE {ps s x} {a1 a2 a3 a4 a5} {r0 r1 t} (e : State.wordRun x a1 a2 a3 a4 a5 = (r0, r1, t))
    (h : Touches ps s x) (p_regs : Part.regs ∈ ps := by assumption) (p_dev : Part.dev ∈ ps := by assumption) (p_outbox : Part.outbox ∈ ps := by assumption) (p_flt : Part.flt ∈ ps := by assumption) (p_act : Part.act ∈ ps := by assumption) (p_host : Part.host ∈ ps := by assumption) (p_buf : Part.buf ∈ ps := by assumption) (p_pipe : Part.pipe ∈ ps := by assumption) (p_tele : Part.tele ∈ ps := by assumption) :
    Touches ps s t := by
  have k := State.wordRun_touches (ps := ps) (s := s) (x := x) (a1 := a1) (a2 := a2) (a3 := a3) (a4 := a4) (a5 := a5) h
  rwa [e] at k

theorem State.wordsRun_touches {ps s x wk p pc n err l}
    (h : Touches ps s x) (p_regs : Part.regs ∈ ps := by assumption) (p_dev : Part.dev ∈ ps := by assumption) (p_draws : Part.draws ∈ ps := by assumption) (p_outbox : Part.outbox ∈ ps := by assumption) (p_flt : Part.flt ∈ ps := by assumption) (p_act : Part.act ∈ ps := by assumption) (p_host : Part.host ∈ ps := by assumption) (p_buf : Part.buf ∈ ps := by assumption) (p_pipe : Part.pipe ∈ ps := by assumption) (p_tele : Part.tele ∈ ps := by assumption) :
    Touches ps s (State.wordsRun x wk p pc n err l).2 := by
  induction l generalizing x wk p pc n with
  | zero => exact h
  | succ l ih =>
    simp only [State.wordsRun]
    split
    · exact h
    · split
      · split
        · exact State.actionErr_touches h
        · exact State.faultInjected_touches (Touches.flt (State.actionErr_touches h))
      · split
        · dsimp only
          split
          · exact State.wordRun_touches (State.injClear_touches h)
          · exact State.draw_touches (State.injClear_touches h)
        · refine ih (State.draw_touches ?_)
          split
          · exact State.wordRun_touches (State.injClear_touches h)
          · exact State.draw_touches (State.injClear_touches h)

theorem State.wordsRun_touchesE {ps s x wk p pc n err l r t} (e : State.wordsRun x wk p pc n err l = (r, t)) (h : Touches ps s x) (p_regs : Part.regs ∈ ps := by assumption) (p_dev : Part.dev ∈ ps := by assumption) (p_draws : Part.draws ∈ ps := by assumption) (p_outbox : Part.outbox ∈ ps := by assumption) (p_flt : Part.flt ∈ ps := by assumption) (p_act : Part.act ∈ ps := by assumption) (p_host : Part.host ∈ ps := by assumption) (p_buf : Part.buf ∈ ps := by assumption) (p_pipe : Part.pipe ∈ ps := by assumption) (p_tele : Part.tele ∈ ps := by assumption) :
    Touches ps s t := by
  have k := State.wordsRun_touches (wk := wk) (p := p) (pc := pc) (n := n) (err := err) (l := l) h
  rwa [e] at k

theorem State.programRun_touches {ps s x} {a1 a2}
    (h : Touches ps s x) (p_regs : Part.regs ∈ ps := by assumption) (p_dev : Part.dev ∈ ps := by assumption) (p_draws : Part.draws ∈ ps := by assumption) (p_outbox : Part.outbox ∈ ps := by assumption) (p_flt : Part.flt ∈ ps := by assumption) (p_act : Part.act ∈ ps := by assumption) (p_host : Part.host ∈ ps := by assumption) (p_buf : Part.buf ∈ ps := by assumption) (p_pipe : Part.pipe ∈ ps := by assumption) (p_tele : Part.tele ∈ ps := by assumption) :
    Touches ps s (State.programRun x a1 a2).2 := by
  unfold State.programRun
  repeat' first
    | with_reducible assumption
    | intro _ _
    | intro _
    | with_reducible apply Touches.choose
    | with_reducible apply State.actionErr_touches
    | with_reducible apply State.wordsRun_touches
    | refine State.wordsRun_touchesE (by with_reducible assumption) ?_
    | split
    | dsimp only
theorem State.programRun_touchesE {ps s x} {a1 a2} {r0 t} (e : State.programRun x a1 a2 = (r0, t))
    (h : Touches ps s x) (p_regs : Part.regs ∈ ps := by assumption) (p_dev : Part.dev ∈ ps := by assumption) (p_draws : Part.draws ∈ ps := by assumption) (p_outbox : Part.outbox ∈ ps := by assumption) (p_flt : Part.flt ∈ ps := by assumption) (p_act : Part.act ∈ ps := by assumption) (p_host : Part.host ∈ ps := by assumption) (p_buf : Part.buf ∈ ps := by assumption) (p_pipe : Part.pipe ∈ ps := by assumption) (p_tele : Part.tele ∈ ps := by assumption) :
    Touches ps s t := by
  have k := State.programRun_touches (ps := ps) (s := s) (x := x) (a1 := a1) (a2 := a2) h
  rwa [e] at k

theorem State.stageRun_touches {ps s x} {a1 a2}
    (h : Touches ps s x) (p_regs : Part.regs ∈ ps := by assumption) (p_dev : Part.dev ∈ ps := by assumption) (p_draws : Part.draws ∈ ps := by assumption) (p_outbox : Part.outbox ∈ ps := by assumption) (p_flt : Part.flt ∈ ps := by assumption) (p_act : Part.act ∈ ps := by assumption) (p_host : Part.host ∈ ps := by assumption) (p_buf : Part.buf ∈ ps := by assumption) (p_pipe : Part.pipe ∈ ps := by assumption) (p_tele : Part.tele ∈ ps := by assumption) :
    Touches ps s (State.stageRun x a1 a2).2 := by
  unfold State.stageRun
  repeat' first
    | with_reducible assumption
    | intro _ _
    | intro _
    | with_reducible apply Touches.foldl
    | with_reducible apply Touches.foldl_snd
    | with_reducible apply Touches.foldl_fst
    | with_reducible apply Touches.foldl_third
    | with_reducible apply State.count_touches
    | with_reducible apply State.programRun_touches
    | refine State.programRun_touchesE (by with_reducible assumption) ?_
    | split
theorem State.stageRun_touchesE {ps s x} {a1 a2} {r0 t} (e : State.stageRun x a1 a2 = (r0, t))
    (h : Touches ps s x) (p_regs : Part.regs ∈ ps := by assumption) (p_dev : Part.dev ∈ ps := by assumption) (p_draws : Part.draws ∈ ps := by assumption) (p_outbox : Part.outbox ∈ ps := by assumption) (p_flt : Part.flt ∈ ps := by assumption) (p_act : Part.act ∈ ps := by assumption) (p_host : Part.host ∈ ps := by assumption) (p_buf : Part.buf ∈ ps := by assumption) (p_pipe : Part.pipe ∈ ps := by assumption) (p_tele : Part.tele ∈ ps := by assumption) :
    Touches ps s t := by
  have k := State.stageRun_touches (ps := ps) (s := s) (x := x) (a1 := a1) (a2 := a2) h
  rwa [e] at k

theorem State.resolveList_touches {ps s x p b l}
    (h : Touches ps s x) (p_regs : Part.regs ∈ ps := by assumption) (p_dev : Part.dev ∈ ps := by assumption) (p_draws : Part.draws ∈ ps := by assumption) (p_outbox : Part.outbox ∈ ps := by assumption) (p_flt : Part.flt ∈ ps := by assumption) (p_act : Part.act ∈ ps := by assumption) (p_host : Part.host ∈ ps := by assumption) (p_buf : Part.buf ∈ ps := by assumption) (p_pipe : Part.pipe ∈ ps := by assumption) (p_que : Part.que ∈ ps := by assumption) (p_tele : Part.tele ∈ ps := by assumption) :
    Touches ps s (State.resolveList x p b l) := by
  induction l generalizing x b with
  | nil => exact h
  | cons k rest ih =>
    simp only [State.resolveList]
    split
    · exact ih h
    · split
      · exact ih h
      · split
        · exact ih (State.endIngress_touchesE (by assumption) (State.setIngress_touches h))
        · exact ih h

theorem State.resolve_touches {ps s x} {a1}
    (h : Touches ps s x) (p_regs : Part.regs ∈ ps := by assumption) (p_dev : Part.dev ∈ ps := by assumption) (p_draws : Part.draws ∈ ps := by assumption) (p_outbox : Part.outbox ∈ ps := by assumption) (p_flt : Part.flt ∈ ps := by assumption) (p_act : Part.act ∈ ps := by assumption) (p_host : Part.host ∈ ps := by assumption) (p_buf : Part.buf ∈ ps := by assumption) (p_pipe : Part.pipe ∈ ps := by assumption) (p_que : Part.que ∈ ps := by assumption) (p_tele : Part.tele ∈ ps := by assumption) :
    Touches ps s (State.resolve x a1) := by
  unfold State.resolve
  repeat' first
    | with_reducible assumption
    | intro _ _
    | intro _
    | with_reducible apply State.resolveList_touches

theorem State.egDiscard_touches {ps s x} {a1}
    (h : Touches ps s x) (p_regs : Part.regs ∈ ps := by assumption) (p_outbox : Part.outbox ∈ ps := by assumption) (p_flt : Part.flt ∈ ps := by assumption) (p_act : Part.act ∈ ps := by assumption) (p_host : Part.host ∈ ps := by assumption) (p_buf : Part.buf ∈ ps := by assumption) (p_tele : Part.tele ∈ ps := by assumption) :
    Touches ps s (State.egDiscard x a1) := by
  unfold State.egDiscard
  repeat' first
    | with_reducible assumption
    | intro _ _
    | intro _
    | with_reducible apply State.dropCard_touches
    | with_reducible apply State.instEnd_touches

theorem State.recircDepart_touches {ps s x} {a1 a2}
    (h : Touches ps s x) (p_regs : Part.regs ∈ ps := by assumption) (p_dev : Part.dev ∈ ps := by assumption) (p_draws : Part.draws ∈ ps := by assumption) (p_outbox : Part.outbox ∈ ps := by assumption) (p_flt : Part.flt ∈ ps := by assumption) (p_act : Part.act ∈ ps := by assumption) (p_host : Part.host ∈ ps := by assumption) (p_buf : Part.buf ∈ ps := by assumption) (p_tele : Part.tele ∈ ps := by assumption) :
    Touches ps s (State.recircDepart x a1 a2) := by
  unfold State.recircDepart
  repeat' first
    | with_reducible assumption
    | intro _ _
    | intro _
    | with_reducible apply Touches.choose
    | with_reducible apply State.when_touches
    | with_reducible apply State.inc_touches
    | with_reducible apply State.when_touches
    | with_reducible apply State.readFrame_touches
    | with_reducible apply State.departHead_touches
    | with_reducible apply State.foldRecord_touches
    | with_reducible apply State.cardAsk_touches
    | with_reducible apply State.egDiscard_touches
    | refine State.readFrame_touchesE (by with_reducible assumption) ?_
    | refine State.departHead_touchesE (by with_reducible assumption) ?_
    | split
    | dsimp only
    | with_reducible apply Touches.upd
    | exact Or.inl (by assumption)
    | exact Or.inr rfl

theorem State.setTxList_touches {ps s x} {a1 a2} (h : Touches ps s x) (p_que : Part.que ∈ ps := by assumption) :
    Touches ps s (State.setTxList x a1 a2) := by
  unfold State.setTxList
  repeat' first
    | with_reducible assumption
    | intro _ _
    | intro _
    | with_reducible apply Touches.choose
    | split
    | dsimp only
    | with_reducible apply Touches.upd
    | exact Or.inl (by assumption)
    | exact Or.inr rfl

theorem State.txDue_touches {ps s x} {a1} (h : Touches ps s x) (p_que : Part.que ∈ ps := by assumption) :
    Touches ps s (State.txDue x a1) := by
  unfold State.txDue
  repeat' first
    | with_reducible assumption
    | intro _ _
    | intro _
    | with_reducible apply Touches.choose
    | with_reducible apply State.setTxList_touches
    | split

theorem State.endEgress_touches {ps s x} {a1 a2}
    (h : Touches ps s x) (p_regs : Part.regs ∈ ps := by assumption) (p_dev : Part.dev ∈ ps := by assumption) (p_draws : Part.draws ∈ ps := by assumption) (p_outbox : Part.outbox ∈ ps := by assumption) (p_flt : Part.flt ∈ ps := by assumption) (p_act : Part.act ∈ ps := by assumption) (p_host : Part.host ∈ ps := by assumption) (p_buf : Part.buf ∈ ps := by assumption) (p_que : Part.que ∈ ps := by assumption) (p_tele : Part.tele ∈ ps := by assumption) :
    Touches ps s (State.endEgress x a1 a2) := by
  unfold State.endEgress
  repeat' first
    | with_reducible assumption
    | intro _ _
    | intro _
    | with_reducible apply Touches.choose
    | with_reducible apply State.inc_touches
    | with_reducible apply State.egDiscard_touches
    | with_reducible apply State.recircDepart_touches
    | with_reducible apply State.setTxList_touches
    | with_reducible apply State.txDue_touches

theorem State.ingressRun_touches {ps s x} {a1 a2 a3}
    (h : Touches ps s x) (p_regs : Part.regs ∈ ps := by assumption) (p_dev : Part.dev ∈ ps := by assumption) (p_draws : Part.draws ∈ ps := by assumption) (p_outbox : Part.outbox ∈ ps := by assumption) (p_flt : Part.flt ∈ ps := by assumption) (p_act : Part.act ∈ ps := by assumption) (p_host : Part.host ∈ ps := by assumption) (p_buf : Part.buf ∈ ps := by assumption) (p_pipe : Part.pipe ∈ ps := by assumption) (p_que : Part.que ∈ ps := by assumption) (p_tele : Part.tele ∈ ps := by assumption) :
    Touches ps s (State.ingressRun x a1 a2 a3) := by
  unfold State.ingressRun
  repeat' first
    | with_reducible assumption
    | intro _ _
    | intro _
    | with_reducible apply Touches.choose
    | with_reducible apply State.setRefs_touches
    | with_reducible apply State.setIngress_touches
    | with_reducible apply State.stageRun_touches
    | with_reducible apply State.resolve_touches
    | refine State.stageRun_touchesE (by with_reducible assumption) ?_
    | split

theorem State.egressRun_touches {ps s x} {a1 a2 a3 a4}
    (h : Touches ps s x) (p_regs : Part.regs ∈ ps := by assumption) (p_dev : Part.dev ∈ ps := by assumption) (p_draws : Part.draws ∈ ps := by assumption) (p_outbox : Part.outbox ∈ ps := by assumption) (p_flt : Part.flt ∈ ps := by assumption) (p_act : Part.act ∈ ps := by assumption) (p_host : Part.host ∈ ps := by assumption) (p_buf : Part.buf ∈ ps := by assumption) (p_pipe : Part.pipe ∈ ps := by assumption) (p_que : Part.que ∈ ps := by assumption) (p_tele : Part.tele ∈ ps := by assumption) :
    Touches ps s (State.egressRun x a1 a2 a3 a4) := by
  unfold State.egressRun
  repeat' first
    | with_reducible assumption
    | intro _ _
    | intro _
    | with_reducible apply Touches.choose
    | with_reducible apply State.setEgress_touches
    | with_reducible apply State.stageRun_touches
    | with_reducible apply State.egDiscard_touches
    | with_reducible apply State.endEgress_touches
    | refine State.stageRun_touchesE (by with_reducible assumption) ?_
    | split

theorem State.stageAct_touches {ps s x} {a1 a2 a3 a4}
    (h : Touches ps s x) (p_regs : Part.regs ∈ ps := by assumption) (p_dev : Part.dev ∈ ps := by assumption) (p_draws : Part.draws ∈ ps := by assumption) (p_outbox : Part.outbox ∈ ps := by assumption) (p_flt : Part.flt ∈ ps := by assumption) (p_act : Part.act ∈ ps := by assumption) (p_host : Part.host ∈ ps := by assumption) (p_buf : Part.buf ∈ ps := by assumption) (p_pipe : Part.pipe ∈ ps := by assumption) (p_que : Part.que ∈ ps := by assumption) (p_tele : Part.tele ∈ ps := by assumption) :
    Touches ps s (State.stageAct x a1 a2 a3 a4) := by
  unfold State.stageAct
  repeat' first
    | with_reducible assumption
    | intro _ _
    | intro _
    | with_reducible apply Touches.choose
    | with_reducible apply State.when_touches
    | with_reducible apply State.when_touches
    | with_reducible apply State.tally_touches
    | with_reducible apply State.ingressRun_touches
    | with_reducible apply State.egressRun_touches
    | split

/-! ### Machine/Ports.lean -/

theorem State.ffePut_touches {ps s x} {a1 a2 a3 a4} (h : Touches ps s x) (p_regs : Part.regs ∈ ps := by assumption) :
    Touches ps s (State.ffePut x a1 a2 a3 a4) := by
  unfold State.ffePut
  repeat' first
    | with_reducible assumption
    | intro _ _
    | intro _
    | with_reducible apply State.set_touches

theorem State.ffeWrite_touches {ps s x} {a1 a2} (h : Touches ps s x) (p_regs : Part.regs ∈ ps := by assumption) :
    Touches ps s (State.ffeWrite x a1 a2) := by
  unfold State.ffeWrite
  repeat' first
    | with_reducible assumption
    | intro _ _
    | intro _
    | with_reducible apply Touches.choose
    | with_reducible apply State.setB_touches
    | with_reducible apply State.ffePut_touches

theorem State.ltRequest_touches {ps s x} {a1 a2}
    (h : Touches ps s x) (p_regs : Part.regs ∈ ps := by assumption) (p_outbox : Part.outbox ∈ ps := by assumption) :
    Touches ps s (State.ltRequest x a1 a2) := by
  unfold State.ltRequest
  repeat' first
    | with_reducible assumption
    | intro _ _
    | intro _
    | with_reducible apply Touches.choose
    | with_reducible apply State.emit_touches
    | with_reducible apply State.ffePut_touches

theorem State.trainLane_touches {ps s x} {a1}
    (h : Touches ps s x) (p_regs : Part.regs ∈ ps := by assumption) (p_draws : Part.draws ∈ ps := by assumption) :
    Touches ps s (State.trainLane x a1) := by
  unfold State.trainLane
  repeat' first
    | with_reducible assumption
    | intro _ _
    | intro _
    | with_reducible apply State.setB_touches
    | with_reducible apply State.draw_touches
    | with_reducible apply State.ffePut_touches

theorem State.adaptRestart_touches {ps s x} {a1}
    (h : Touches ps s x) (p_regs : Part.regs ∈ ps := by assumption) (p_draws : Part.draws ∈ ps := by assumption) :
    Touches ps s (State.adaptRestart x a1) := by
  unfold State.adaptRestart
  repeat' first
    | with_reducible assumption
    | intro _ _
    | intro _
    | with_reducible apply Touches.choose
    | with_reducible apply State.set_touches
    | with_reducible apply State.setB_touches
    | with_reducible apply State.draw_touches

theorem State.calibrate_touches {ps s x} {a1 a2 a3} (h : Touches ps s x) (p_regs : Part.regs ∈ ps := by assumption) :
    Touches ps s (State.calibrate x a1 a2 a3) := by
  unfold State.calibrate
  repeat' first
    | with_reducible assumption
    | intro _ _
    | intro _
    | with_reducible apply Touches.choose
    | with_reducible apply State.set_touches
    | with_reducible apply State.setB_touches

theorem State.putPause_touches {ps s x} {a1 a2 a3} (h : Touches ps s x) (p_buf : Part.buf ∈ ps := by assumption) :
    Touches ps s (State.putPause x a1 a2 a3) := by
  unfold State.putPause
  repeat' first
    | with_reducible assumption
    | intro _ _
    | intro _
    | split
    | dsimp only
    | with_reducible apply Touches.upd
    | exact Or.inl (by assumption)
    | exact Or.inr rfl

theorem State.pauseLoad_touches {ps s x} {a1 a2 a3} (h : Touches ps s x) (p_buf : Part.buf ∈ ps := by assumption) :
    Touches ps s (State.pauseLoad x a1 a2 a3) := by
  unfold State.pauseLoad
  repeat' first
    | with_reducible assumption
    | intro _ _
    | intro _
    | with_reducible apply Touches.choose
    | with_reducible apply State.putPause_touches

theorem State.pauseRx_touches {ps s x} {a1 a2 a3 a4}
    (h : Touches ps s x) (p_regs : Part.regs ∈ ps := by assumption) (p_buf : Part.buf ∈ ps := by assumption) :
    Touches ps s (State.pauseRx x a1 a2 a3 a4) := by
  unfold State.pauseRx
  repeat' first
    | with_reducible assumption
    | intro _ _
    | intro _
    | with_reducible apply Touches.choose
    | with_reducible apply State.when_touches
    | with_reducible apply Touches.foldl
    | with_reducible apply Touches.foldl_snd
    | with_reducible apply Touches.foldl_fst
    | with_reducible apply Touches.foldl_third
    | with_reducible apply Touches.upTo
    | with_reducible apply State.inc_touches
    | with_reducible apply State.when_touches
    | with_reducible apply State.pauseLoad_touches

theorem State.pauseExpire_touches {ps s x} {a1 a2} (h : Touches ps s x) (p_buf : Part.buf ∈ ps := by assumption) :
    Touches ps s (State.pauseExpire x a1 a2) := by
  unfold State.pauseExpire
  repeat' first
    | with_reducible assumption
    | intro _ _
    | intro _
    | with_reducible apply Touches.choose
    | with_reducible apply State.putPause_touches
    | split
    | dsimp only

theorem State.pauseClear_touches {ps s x} {a1} (h : Touches ps s x) (p_buf : Part.buf ∈ ps := by assumption) :
    Touches ps s (State.pauseClear x a1) := by
  unfold State.pauseClear
  repeat' first
    | with_reducible assumption
    | intro _ _
    | intro _
    | with_reducible apply Touches.upTo
    | with_reducible apply State.pauseLoad_touches
    | split

theorem State.pauseStamp_touches {ps s x} {a1} (h : Touches ps s x) (p_buf : Part.buf ∈ ps := by assumption) :
    Touches ps s (State.pauseStamp x a1) := by
  unfold State.pauseStamp
  repeat' first
    | with_reducible assumption
    | intro _ _
    | intro _
    | with_reducible apply State.when_touches
    | with_reducible apply Touches.upTo
    | with_reducible apply State.when_touches
    | split
    | dsimp only
    | with_reducible apply Touches.upd
    | exact Or.inl (by assumption)
    | exact Or.inr rfl

theorem State.pauseSend_touches {ps s x} {a1}
    (h : Touches ps s x) (p_regs : Part.regs ∈ ps := by assumption) (p_outbox : Part.outbox ∈ ps := by assumption) (p_act : Part.act ∈ ps := by assumption) (p_buf : Part.buf ∈ ps := by assumption) (p_tele : Part.tele ∈ ps := by assumption) :
    Touches ps s (State.pauseSend x a1) := by
  unfold State.pauseSend
  repeat' first
    | with_reducible assumption
    | intro _ _
    | intro _
    | with_reducible apply Touches.choose
    | with_reducible apply State.when_touches
    | with_reducible apply Touches.upTo
    | with_reducible apply State.inc_touches
    | with_reducible apply State.emit_touches
    | with_reducible apply State.when_touches
    | with_reducible apply State.bwCount_touches
    | with_reducible apply State.pauseStamp_touches
    | split

theorem State.pauseTx_touches {ps s x} {a1}
    (h : Touches ps s x) (p_regs : Part.regs ∈ ps := by assumption) (p_outbox : Part.outbox ∈ ps := by assumption) (p_act : Part.act ∈ ps := by assumption) (p_buf : Part.buf ∈ ps := by assumption) (p_tele : Part.tele ∈ ps := by assumption) :
    Touches ps s (State.pauseTx x a1) := by
  unfold State.pauseTx
  repeat' first
    | with_reducible assumption
    | intro _ _
    | intro _
    | with_reducible apply Touches.choose
    | with_reducible apply State.pauseSend_touches
    | split
    | dsimp only
    | with_reducible apply Touches.upd
    | exact Or.inl (by assumption)
    | exact Or.inr rfl

theorem State.pauseRefresh_touches {ps s x} {a1 a2}
    (h : Touches ps s x) (p_regs : Part.regs ∈ ps := by assumption) (p_outbox : Part.outbox ∈ ps := by assumption) (p_act : Part.act ∈ ps := by assumption) (p_buf : Part.buf ∈ ps := by assumption) (p_tele : Part.tele ∈ ps := by assumption) :
    Touches ps s (State.pauseRefresh x a1 a2) := by
  unfold State.pauseRefresh
  repeat' first
    | with_reducible assumption
    | intro _ _
    | intro _
    | with_reducible apply Touches.choose
    | with_reducible apply State.pauseSend_touches

theorem State.stormBegin_touches {ps s x} {a1 a2}
    (h : Touches ps s x) (p_regs : Part.regs ∈ ps := by assumption) (p_outbox : Part.outbox ∈ ps := by assumption) (p_flt : Part.flt ∈ ps := by assumption) (p_host : Part.host ∈ ps := by assumption) :
    Touches ps s (State.stormBegin x a1 a2) := by
  unfold State.stormBegin
  repeat' first
    | with_reducible assumption
    | intro _ _
    | intro _
    | with_reducible apply State.setBit_touches
    | with_reducible apply State.portEvent_touches
    | with_reducible apply State.fault_touches

theorem State.stormEnter_touches {ps s x} {a1 a2}
    (h : Touches ps s x) (p_regs : Part.regs ∈ ps := by assumption) (p_draws : Part.draws ∈ ps := by assumption) (p_outbox : Part.outbox ∈ ps := by assumption) (p_flt : Part.flt ∈ ps := by assumption) (p_host : Part.host ∈ ps := by assumption) :
    Touches ps s (State.stormEnter x a1 a2) := by
  unfold State.stormEnter
  repeat' first
    | with_reducible assumption
    | intro _ _
    | intro _
    | with_reducible apply Touches.choose
    | with_reducible apply State.when_touches
    | with_reducible apply State.when_touches
    | with_reducible apply State.draw_touches
    | with_reducible apply State.stormBegin_touches
    | split

theorem State.stormEnd_touches {ps s x} {a1 a2}
    (h : Touches ps s x) (p_regs : Part.regs ∈ ps := by assumption) (p_outbox : Part.outbox ∈ ps := by assumption) (p_host : Part.host ∈ ps := by assumption) :
    Touches ps s (State.stormEnd x a1 a2) := by
  unfold State.stormEnd
  repeat' first
    | with_reducible assumption
    | intro _ _
    | intro _
    | with_reducible apply State.clearBit_touches
    | with_reducible apply State.portEvent_touches

theorem State.stormExit_touches {ps s x} {a1 a2}
    (h : Touches ps s x) (p_regs : Part.regs ∈ ps := by assumption) (p_outbox : Part.outbox ∈ ps := by assumption) (p_host : Part.host ∈ ps := by assumption) :
    Touches ps s (State.stormExit x a1 a2) := by
  unfold State.stormExit
  repeat' first
    | with_reducible assumption
    | intro _ _
    | intro _
    | with_reducible apply Touches.choose
    | with_reducible apply State.stormEnd_touches

theorem State.rxDrop_touches {ps s x} {a1}
    (h : Touches ps s x) (p_regs : Part.regs ∈ ps := by assumption) (p_outbox : Part.outbox ∈ ps := by assumption) (p_flt : Part.flt ∈ ps := by assumption) (p_act : Part.act ∈ ps := by assumption) (p_host : Part.host ∈ ps := by assumption) (p_buf : Part.buf ∈ ps := by assumption) (p_pipe : Part.pipe ∈ ps := by assumption) (p_que : Part.que ∈ ps := by assumption) (p_tele : Part.tele ∈ ps := by assumption) :
    Touches ps s (State.rxDrop x a1) := by
  unfold State.rxDrop
  repeat' first
    | with_reducible assumption
    | intro _ _
    | intro _
    | with_reducible apply Touches.choose
    | with_reducible apply State.setList_touches
    | with_reducible apply State.xoffEval_touches
    | with_reducible apply State.uncharge_touches
    | with_reducible apply State.purge_touches
    | split

theorem State.rxAbort_touches {ps s x} {a1}
    (h : Touches ps s x) (p_regs : Part.regs ∈ ps := by assumption) (p_outbox : Part.outbox ∈ ps := by assumption) (p_flt : Part.flt ∈ ps := by assumption) (p_act : Part.act ∈ ps := by assumption) (p_host : Part.host ∈ ps := by assumption) (p_buf : Part.buf ∈ ps := by assumption) (p_pipe : Part.pipe ∈ ps := by assumption) (p_que : Part.que ∈ ps := by assumption) (p_tele : Part.tele ∈ ps := by assumption) :
    Touches ps s (State.rxAbort x a1) := by
  unfold State.rxAbort
  repeat' first
    | with_reducible assumption
    | intro _ _
    | intro _
    | with_reducible apply Touches.choose
    | with_reducible apply State.inc_touches
    | with_reducible apply State.rxDrop_touches
    | split
    | dsimp only
    | with_reducible apply Touches.upd
    | exact Or.inl (by assumption)
    | exact Or.inr rfl

theorem State.txCut_touches {ps s x} {a1}
    (h : Touches ps s x) (p_regs : Part.regs ∈ ps := by assumption) (p_outbox : Part.outbox ∈ ps := by assumption) (p_flt : Part.flt ∈ ps := by assumption) (p_act : Part.act ∈ ps := by assumption) (p_host : Part.host ∈ ps := by assumption) (p_buf : Part.buf ∈ ps := by assumption) (p_que : Part.que ∈ ps := by assumption) (p_tele : Part.tele ∈ ps := by assumption) :
    Touches ps s (State.txCut x a1) := by
  unfold State.txCut
  repeat' first
    | with_reducible assumption
    | intro _ _
    | intro _
    | with_reducible apply State.instEnd_touches
    | with_reducible apply State.txStomp_touches
    | split
    | dsimp only
    | with_reducible apply Touches.upd
    | exact Or.inl (by assumption)
    | exact Or.inr rfl

theorem State.putLink_touches {ps s x} {a1 a2} (h : Touches ps s x) (p_buf : Part.buf ∈ ps := by assumption) :
    Touches ps s (State.putLink x a1 a2) := by
  unfold State.putLink
  repeat' first
    | with_reducible assumption
    | intro _ _
    | intro _
    | with_reducible apply State.link_touches
    | split
    | dsimp only
    | with_reducible apply Touches.upd
    | exact Or.inl (by assumption)
    | exact Or.inr rfl

theorem State.lineSend_touches {ps s x} {a1 a2}
    (h : Touches ps s x) (p_outbox : Part.outbox ∈ ps := by assumption) (p_buf : Part.buf ∈ ps := by assumption) :
    Touches ps s (State.lineSend x a1 a2) := by
  unfold State.lineSend
  repeat' first
    | with_reducible assumption
    | intro _ _
    | intro _
    | with_reducible apply Touches.choose
    | with_reducible apply State.emit_touches
    | split
    | dsimp only
    | with_reducible apply Touches.upd
    | exact Or.inl (by assumption)
    | exact Or.inr rfl

theorem State.portLine_touches {ps s x} {a1}
    (h : Touches ps s x) (p_outbox : Part.outbox ∈ ps := by assumption) (p_buf : Part.buf ∈ ps := by assumption) :
    Touches ps s (State.portLine x a1) := by
  unfold State.portLine
  repeat' first
    | with_reducible assumption
    | intro _ _
    | intro _
    | with_reducible apply Touches.foldl
    | with_reducible apply Touches.foldl_snd
    | with_reducible apply Touches.foldl_fst
    | with_reducible apply Touches.foldl_third
    | with_reducible apply State.lineSend_touches

theorem State.allLines_touches {ps s x}
    (h : Touches ps s x) (p_outbox : Part.outbox ∈ ps := by assumption) (p_buf : Part.buf ∈ ps := by assumption) :
    Touches ps s (State.allLines x) := by
  unfold State.allLines
  repeat' first
    | with_reducible assumption
    | intro _ _
    | intro _
    | with_reducible apply Touches.foldl
    | with_reducible apply Touches.foldl_snd
    | with_reducible apply Touches.foldl_fst
    | with_reducible apply Touches.foldl_third
    | with_reducible apply State.lineSend_touches
    | with_reducible apply State.portLine_touches

theorem State.linesOff_touches {ps s x}
    (h : Touches ps s x) (p_outbox : Part.outbox ∈ ps := by assumption) (p_buf : Part.buf ∈ ps := by assumption) :
    Touches ps s (State.linesOff x) := by
  unfold State.linesOff
  repeat' first
    | with_reducible assumption
    | intro _ _
    | intro _
    | with_reducible apply Touches.foldl
    | with_reducible apply Touches.foldl_snd
    | with_reducible apply Touches.foldl_fst
    | with_reducible apply Touches.foldl_third
    | with_reducible apply State.lineSend_touches

theorem State.lanesQuiet_touches {ps s x} {a1}
    (h : Touches ps s x) (p_regs : Part.regs ∈ ps := by assumption) (p_buf : Part.buf ∈ ps := by assumption) :
    Touches ps s (State.lanesQuiet x a1) := by
  unfold State.lanesQuiet
  repeat' first
    | with_reducible assumption
    | intro _ _
    | intro _
    | with_reducible apply Touches.foldl
    | with_reducible apply Touches.foldl_snd
    | with_reducible apply Touches.foldl_fst
    | with_reducible apply Touches.foldl_third
    | with_reducible apply State.setB_touches
    | split
    | dsimp only
    | with_reducible apply Touches.upd
    | exact Or.inl (by assumption)
    | exact Or.inr rfl

theorem State.genStart_touches {ps s x} {a1}
    (h : Touches ps s x) (p_draws : Part.draws ∈ ps := by assumption) (p_buf : Part.buf ∈ ps := by assumption) :
    Touches ps s (State.genStart x a1) := by
  unfold State.genStart
  repeat' first
    | with_reducible assumption
    | intro _ _
    | intro _
    | with_reducible apply State.draw_touches
    | split
    | dsimp only
    | with_reducible apply Touches.upd
    | exact Or.inl (by assumption)
    | exact Or.inr rfl

theorem State.linkGo_touches {ps s x} {a1 a2}
    (h : Touches ps s x) (p_regs : Part.regs ∈ ps := by assumption) (p_draws : Part.draws ∈ ps := by assumption) (p_outbox : Part.outbox ∈ ps := by assumption) (p_buf : Part.buf ∈ ps := by assumption) :
    Touches ps s (State.linkGo x a1 a2) := by
  unfold State.linkGo
  repeat' first
    | with_reducible assumption
    | intro _ _
    | intro _
    | with_reducible apply State.when_touches
    | with_reducible apply Touches.foldl
    | with_reducible apply Touches.foldl_snd
    | with_reducible apply Touches.foldl_fst
    | with_reducible apply Touches.foldl_third
    | with_reducible apply State.set_touches
    | with_reducible apply State.setB_touches
    | with_reducible apply State.when_touches
    | with_reducible apply State.trainLane_touches
    | with_reducible apply State.putLink_touches
    | with_reducible apply State.portLine_touches
    | with_reducible apply State.lanesQuiet_touches
    | with_reducible apply State.genStart_touches

theorem State.leaveUp_touches {ps s x} {a1}
    (h : Touches ps s x) (p_regs : Part.regs ∈ ps := by assumption) (p_outbox : Part.outbox ∈ ps := by assumption) (p_flt : Part.flt ∈ ps := by assumption) (p_act : Part.act ∈ ps := by assumption) (p_host : Part.host ∈ ps := by assumption) (p_buf : Part.buf ∈ ps := by assumption) (p_pipe : Part.pipe ∈ ps := by assumption) (p_que : Part.que ∈ ps := by assumption) (p_tele : Part.tele ∈ ps := by assumption) :
    Touches ps s (State.leaveUp x a1) := by
  unfold State.leaveUp
  repeat' first
    | with_reducible assumption
    | intro _ _
    | intro _
    | with_reducible apply Touches.choose
    | with_reducible apply State.set_touches
    | with_reducible apply State.setB_touches
    | with_reducible apply State.inc_touches
    | with_reducible apply State.portEvent_touches
    | with_reducible apply State.portHold_touches
    | with_reducible apply State.pauseClear_touches
    | with_reducible apply State.rxAbort_touches

theorem State.linkTo_touches {ps s x} {a1 a2}
    (h : Touches ps s x) (p_regs : Part.regs ∈ ps := by assumption) (p_draws : Part.draws ∈ ps := by assumption) (p_outbox : Part.outbox ∈ ps := by assumption) (p_flt : Part.flt ∈ ps := by assumption) (p_act : Part.act ∈ ps := by assumption) (p_host : Part.host ∈ ps := by assumption) (p_buf : Part.buf ∈ ps := by assumption) (p_pipe : Part.pipe ∈ ps := by assumption) (p_que : Part.que ∈ ps := by assumption) (p_tele : Part.tele ∈ ps := by assumption) :
    Touches ps s (State.linkTo x a1 a2) := by
  unfold State.linkTo
  repeat' first
    | with_reducible assumption
    | intro _ _
    | intro _
    | with_reducible apply State.linkGo_touches
    | with_reducible apply State.leaveUp_touches

theorem State.linkFirst_touches {ps s x} {a1}
    (h : Touches ps s x) (p_regs : Part.regs ∈ ps := by assumption) (p_draws : Part.draws ∈ ps := by assumption) (p_outbox : Part.outbox ∈ ps := by assumption) (p_flt : Part.flt ∈ ps := by assumption) (p_act : Part.act ∈ ps := by assumption) (p_host : Part.host ∈ ps := by assumption) (p_buf : Part.buf ∈ ps := by assumption) (p_pipe : Part.pipe ∈ ps := by assumption) (p_que : Part.que ∈ ps := by assumption) (p_tele : Part.tele ∈ ps := by assumption) :
    Touches ps s (State.linkFirst x a1) := by
  unfold State.linkFirst
  repeat' first
    | with_reducible assumption
    | intro _ _
    | intro _
    | with_reducible apply State.putLink_touches
    | with_reducible apply State.linkGo_touches
    | with_reducible apply State.leaveUp_touches

theorem State.enterUp_touches {ps s x} {a1}
    (h : Touches ps s x) (p_regs : Part.regs ∈ ps := by assumption) (p_outbox : Part.outbox ∈ ps := by assumption) (p_host : Part.host ∈ ps := by assumption) (p_buf : Part.buf ∈ ps := by assumption) :
    Touches ps s (State.enterUp x a1) := by
  unfold State.enterUp
  repeat' first
    | with_reducible assumption
    | intro _ _
    | intro _
    | with_reducible apply State.when_touches
    | with_reducible apply State.set_touches
    | with_reducible apply State.setB_touches
    | with_reducible apply State.when_touches
    | with_reducible apply State.portEvent_touches
    | with_reducible apply State.pauseOwe_touches
    | with_reducible apply State.portLine_touches

theorem State.portStart_touches {ps s x} {a1}
    (h : Touches ps s x) (p_regs : Part.regs ∈ ps := by assumption) (p_draws : Part.draws ∈ ps := by assumption) (p_outbox : Part.outbox ∈ ps := by assumption) (p_flt : Part.flt ∈ ps := by assumption) (p_act : Part.act ∈ ps := by assumption) (p_host : Part.host ∈ ps := by assumption) (p_buf : Part.buf ∈ ps := by assumption) (p_pipe : Part.pipe ∈ ps := by assumption) (p_que : Part.que ∈ ps := by assumption) (p_tele : Part.tele ∈ ps := by assumption) :
    Touches ps s (State.portStart x a1) := by
  unfold State.portStart
  repeat' first
    | with_reducible assumption
    | intro _ _
    | intro _
    | with_reducible apply Touches.choose
    | with_reducible apply State.linkGo_touches
    | with_reducible apply State.linkFirst_touches

theorem State.anFail_touches {ps s x} {a1}
    (h : Touches ps s x) (p_regs : Part.regs ∈ ps := by assumption) (p_draws : Part.draws ∈ ps := by assumption) (p_outbox : Part.outbox ∈ ps := by assumption) (p_flt : Part.flt ∈ ps := by assumption) (p_act : Part.act ∈ ps := by assumption) (p_host : Part.host ∈ ps := by assumption) (p_buf : Part.buf ∈ ps := by assumption) (p_pipe : Part.pipe ∈ ps := by assumption) (p_que : Part.que ∈ ps := by assumption) (p_tele : Part.tele ∈ ps := by assumption) :
    Touches ps s (State.anFail x a1) := by
  unfold State.anFail
  repeat' first
    | with_reducible assumption
    | intro _ _
    | intro _
    | with_reducible apply Touches.choose
    | with_reducible apply State.portEvent_touches
    | with_reducible apply State.linkFirst_touches

theorem State.anComplete_touches {ps s x} {a1 a2 a3}
    (h : Touches ps s x) (p_regs : Part.regs ∈ ps := by assumption) (p_draws : Part.draws ∈ ps := by assumption) (p_outbox : Part.outbox ∈ ps := by assumption) (p_flt : Part.flt ∈ ps := by assumption) (p_act : Part.act ∈ ps := by assumption) (p_host : Part.host ∈ ps := by assumption) (p_buf : Part.buf ∈ ps := by assumption) (p_pipe : Part.pipe ∈ ps := by assumption) (p_que : Part.que ∈ ps := by assumption) (p_tele : Part.tele ∈ ps := by assumption) :
    Touches ps s (State.anComplete x a1 a2 a3) := by
  unfold State.anComplete
  repeat' first
    | with_reducible assumption
    | intro _ _
    | intro _
    | with_reducible apply Touches.choose
    | with_reducible apply State.set_touches
    | with_reducible apply State.setB_touches
    | with_reducible apply State.linkGo_touches
    | with_reducible apply State.anFail_touches

theorem State.trainComplete_touches {ps s x} {a1}
    (h : Touches ps s x) (p_regs : Part.regs ∈ ps := by assumption) (p_draws : Part.draws ∈ ps := by assumption) (p_outbox : Part.outbox ∈ ps := by assumption) (p_buf : Part.buf ∈ ps := by assumption) :
    Touches ps s (State.trainComplete x a1) := by
  unfold State.trainComplete
  repeat' first
    | with_reducible assumption
    | intro _ _
    | intro _
    | with_reducible apply Touches.choose
    | with_reducible apply State.setB_touches
    | with_reducible apply State.linkGo_touches

theorem State.trainFail_touches {ps s x} {a1}
    (h : Touches ps s x) (p_regs : Part.regs ∈ ps := by assumption) (p_draws : Part.draws ∈ ps := by assumption) (p_outbox : Part.outbox ∈ ps := by assumption) (p_flt : Part.flt ∈ ps := by assumption) (p_act : Part.act ∈ ps := by assumption) (p_host : Part.host ∈ ps := by assumption) (p_buf : Part.buf ∈ ps := by assumption) (p_pipe : Part.pipe ∈ ps := by assumption) (p_que : Part.que ∈ ps := by assumption) (p_tele : Part.tele ∈ ps := by assumption) :
    Touches ps s (State.trainFail x a1) := by
  unfold State.trainFail
  repeat' first
    | with_reducible assumption
    | intro _ _
    | intro _
    | with_reducible apply Touches.choose
    | with_reducible apply State.portEvent_touches
    | with_reducible apply State.linkFirst_touches

theorem State.linkUpNow_touches {ps s x} {a1}
    (h : Touches ps s x) (p_regs : Part.regs ∈ ps := by assumption) (p_outbox : Part.outbox ∈ ps := by assumption) (p_host : Part.host ∈ ps := by assumption) (p_buf : Part.buf ∈ ps := by assumption) :
    Touches ps s (State.linkUpNow x a1) := by
  unfold State.linkUpNow
  repeat' first
    | with_reducible assumption
    | intro _ _
    | intro _
    | with_reducible apply Touches.choose
    | with_reducible apply State.enterUp_touches

theorem State.alignTimeout_touches {ps s x} {a1}
    (h : Touches ps s x) (p_regs : Part.regs ∈ ps := by assumption) (p_draws : Part.draws ∈ ps := by assumption) (p_outbox : Part.outbox ∈ ps := by assumption) (p_flt : Part.flt ∈ ps := by assumption) (p_act : Part.act ∈ ps := by assumption) (p_host : Part.host ∈ ps := by assumption) (p_buf : Part.buf ∈ ps := by assumption) (p_pipe : Part.pipe ∈ ps := by assumption) (p_que : Part.que ∈ ps := by assumption) (p_tele : Part.tele ∈ ps := by assumption) :
    Touches ps s (State.alignTimeout x a1) := by
  unfold State.alignTimeout
  repeat' first
    | with_reducible assumption
    | intro _ _
    | intro _
    | with_reducible apply Touches.choose
    | with_reducible apply State.portEvent_touches
    | with_reducible apply State.linkFirst_touches

theorem State.linkDownNow_touches {ps s x} {a1}
    (h : Touches ps s x) (p_regs : Part.regs ∈ ps := by assumption) (p_draws : Part.draws ∈ ps := by assumption) (p_outbox : Part.outbox ∈ ps := by assumption) (p_flt : Part.flt ∈ ps := by assumption) (p_act : Part.act ∈ ps := by assumption) (p_host : Part.host ∈ ps := by assumption) (p_buf : Part.buf ∈ ps := by assumption) (p_pipe : Part.pipe ∈ ps := by assumption) (p_que : Part.que ∈ ps := by assumption) (p_tele : Part.tele ∈ ps := by assumption) :
    Touches ps s (State.linkDownNow x a1) := by
  unfold State.linkDownNow
  repeat' first
    | with_reducible assumption
    | intro _ _
    | intro _
    | with_reducible apply Touches.choose
    | with_reducible apply State.linkTo_touches

theorem State.adminUp_touches {ps s x} {a1 a2}
    (h : Touches ps s x) (p_regs : Part.regs ∈ ps := by assumption) (p_draws : Part.draws ∈ ps := by assumption) (p_outbox : Part.outbox ∈ ps := by assumption) (p_flt : Part.flt ∈ ps := by assumption) (p_act : Part.act ∈ ps := by assumption) (p_host : Part.host ∈ ps := by assumption) (p_buf : Part.buf ∈ ps := by assumption) (p_pipe : Part.pipe ∈ ps := by assumption) (p_que : Part.que ∈ ps := by assumption) (p_tele : Part.tele ∈ ps := by assumption) :
    Touches ps s (State.adminUp x a1 a2) := by
  unfold State.adminUp
  repeat' first
    | with_reducible assumption
    | intro _ _
    | intro _
    | with_reducible apply Touches.choose
    | with_reducible apply State.setB_touches
    | with_reducible apply State.linkTo_touches
    | with_reducible apply State.portStart_touches

theorem State.testMode_touches {ps s x} {a1 a2}
    (h : Touches ps s x) (p_regs : Part.regs ∈ ps := by assumption) (p_draws : Part.draws ∈ ps := by assumption) (p_outbox : Part.outbox ∈ ps := by assumption) (p_flt : Part.flt ∈ ps := by assumption) (p_act : Part.act ∈ ps := by assumption) (p_host : Part.host ∈ ps := by assumption) (p_buf : Part.buf ∈ ps := by assumption) (p_pipe : Part.pipe ∈ ps := by assumption) (p_que : Part.que ∈ ps := by assumption) (p_tele : Part.tele ∈ ps := by assumption) :
    Touches ps s (State.testMode x a1 a2) := by
  unfold State.testMode
  repeat' first
    | with_reducible assumption
    | intro _ _
    | intro _
    | with_reducible apply Touches.choose
    | with_reducible apply State.setB_touches
    | with_reducible apply State.linkTo_touches
    | with_reducible apply State.portStart_touches

theorem State.portSettle_touches {ps s x} {a1}
    (h : Touches ps s x) (p_regs : Part.regs ∈ ps := by assumption) (p_draws : Part.draws ∈ ps := by assumption) (p_outbox : Part.outbox ∈ ps := by assumption) (p_flt : Part.flt ∈ ps := by assumption) (p_act : Part.act ∈ ps := by assumption) (p_host : Part.host ∈ ps := by assumption) (p_buf : Part.buf ∈ ps := by assumption) (p_pipe : Part.pipe ∈ ps := by assumption) (p_que : Part.que ∈ ps := by assumption) (p_tele : Part.tele ∈ ps := by assumption) :
    Touches ps s (State.portSettle x a1) := by
  unfold State.portSettle
  repeat' first
    | with_reducible assumption
    | intro _ _
    | intro _
    | with_reducible apply Touches.choose
    | with_reducible apply State.linkTo_touches
    | with_reducible apply State.testMode_touches

theorem State.portRestart_touches {ps s x} {a1}
    (h : Touches ps s x) (p_regs : Part.regs ∈ ps := by assumption) (p_draws : Part.draws ∈ ps := by assumption) (p_outbox : Part.outbox ∈ ps := by assumption) (p_flt : Part.flt ∈ ps := by assumption) (p_act : Part.act ∈ ps := by assumption) (p_host : Part.host ∈ ps := by assumption) (p_buf : Part.buf ∈ ps := by assumption) (p_pipe : Part.pipe ∈ ps := by assumption) (p_que : Part.que ∈ ps := by assumption) (p_tele : Part.tele ∈ ps := by assumption) :
    Touches ps s (State.portRestart x a1) := by
  unfold State.portRestart
  repeat' first
    | with_reducible assumption
    | intro _ _
    | intro _
    | with_reducible apply Touches.choose
    | with_reducible apply State.linkFirst_touches

theorem State.fecClear_touches {ps s x} {a1} (h : Touches ps s x) (p_regs : Part.regs ∈ ps := by assumption) :
    Touches ps s (State.fecClear x a1) := by
  unfold State.fecClear
  repeat' first
    | with_reducible assumption
    | intro _ _
    | intro _
    | with_reducible apply Touches.upTo
    | with_reducible apply State.set_touches

theorem State.fecCount_touches {ps s x} {a1 a2} (h : Touches ps s x) (p_regs : Part.regs ∈ ps := by assumption) :
    Touches ps s (State.fecCount x a1 a2) := by
  unfold State.fecCount
  repeat' first
    | with_reducible assumption
    | intro _ _
    | intro _
    | with_reducible apply State.when_touches
    | with_reducible apply Touches.foldl
    | with_reducible apply Touches.foldl_snd
    | with_reducible apply Touches.foldl_fst
    | with_reducible apply Touches.foldl_third
    | with_reducible apply State.add_touches
    | with_reducible apply State.inc_touches
    | with_reducible apply State.when_touches
    | split

theorem State.linkChange_touches {ps s x} {a1 a2 a3 a4 a5 a6 a7}
    (h : Touches ps s x) (p_regs : Part.regs ∈ ps := by assumption) (p_outbox : Part.outbox ∈ ps := by assumption) (p_host : Part.host ∈ ps := by assumption) (p_buf : Part.buf ∈ ps := by assumption) :
    Touches ps s (State.linkChange x a1 a2 a3 a4 a5 a6 a7) := by
  unfold State.linkChange
  repeat' first
    | with_reducible assumption
    | intro _ _
    | intro _
    | with_reducible apply Touches.choose
    | with_reducible apply State.when_touches
    | with_reducible apply State.set_touches
    | with_reducible apply State.setB_touches
    | with_reducible apply State.when_touches
    | with_reducible apply State.portEvent_touches
    | with_reducible apply State.putLink_touches
    | with_reducible apply State.portLine_touches
    | with_reducible apply State.fecCount_touches

theorem State.chipletLost_touches {ps s x} {a1}
    (h : Touches ps s x) (p_regs : Part.regs ∈ ps := by assumption) (p_outbox : Part.outbox ∈ ps := by assumption) (p_flt : Part.flt ∈ ps := by assumption) (p_buf : Part.buf ∈ ps := by assumption) :
    Touches ps s (State.chipletLost x a1) := by
  unfold State.chipletLost
  repeat' first
    | with_reducible assumption
    | intro _ _
    | intro _
    | with_reducible apply Touches.choose
    | with_reducible apply State.when_touches
    | with_reducible apply Touches.upTo
    | with_reducible apply State.set_touches
    | with_reducible apply State.setB_touches
    | with_reducible apply State.when_touches
    | with_reducible apply State.fault_touches
    | with_reducible apply State.putLink_touches
    | with_reducible apply State.portLine_touches

theorem State.portSafe_touches {ps s x} {a1 a2}
    (h : Touches ps s x) (p_regs : Part.regs ∈ ps := by assumption) (p_draws : Part.draws ∈ ps := by assumption) (p_outbox : Part.outbox ∈ ps := by assumption) (p_flt : Part.flt ∈ ps := by assumption) (p_act : Part.act ∈ ps := by assumption) (p_host : Part.host ∈ ps := by assumption) (p_buf : Part.buf ∈ ps := by assumption) (p_pipe : Part.pipe ∈ ps := by assumption) (p_que : Part.que ∈ ps := by assumption) (p_tele : Part.tele ∈ ps := by assumption) :
    Touches ps s (State.portSafe x a1 a2) := by
  unfold State.portSafe
  repeat' first
    | with_reducible assumption
    | intro _ _
    | intro _
    | with_reducible apply Touches.choose
    | with_reducible apply State.when_touches
    | with_reducible apply State.when_touches
    | with_reducible apply State.txCut_touches
    | with_reducible apply State.linkTo_touches

theorem State.portLeaveSafe_touches {ps s x} {a1}
    (h : Touches ps s x) (p_regs : Part.regs ∈ ps := by assumption) (p_draws : Part.draws ∈ ps := by assumption) (p_outbox : Part.outbox ∈ ps := by assumption) (p_flt : Part.flt ∈ ps := by assumption) (p_act : Part.act ∈ ps := by assumption) (p_host : Part.host ∈ ps := by assumption) (p_buf : Part.buf ∈ ps := by assumption) (p_pipe : Part.pipe ∈ ps := by assumption) (p_que : Part.que ∈ ps := by assumption) (p_tele : Part.tele ∈ ps := by assumption) :
    Touches ps s (State.portLeaveSafe x a1) := by
  unfold State.portLeaveSafe
  repeat' first
    | with_reducible assumption
    | intro _ _
    | intro _
    | with_reducible apply Touches.choose
    | with_reducible apply State.linkGo_touches
    | with_reducible apply State.portStart_touches

theorem State.portDown_touches {ps s x} {a1}
    (h : Touches ps s x) (p_regs : Part.regs ∈ ps := by assumption) (p_draws : Part.draws ∈ ps := by assumption) (p_outbox : Part.outbox ∈ ps := by assumption) (p_flt : Part.flt ∈ ps := by assumption) (p_act : Part.act ∈ ps := by assumption) (p_host : Part.host ∈ ps := by assumption) (p_buf : Part.buf ∈ ps := by assumption) (p_pipe : Part.pipe ∈ ps := by assumption) (p_que : Part.que ∈ ps := by assumption) (p_tele : Part.tele ∈ ps := by assumption) :
    Touches ps s (State.portDown x a1) := by
  unfold State.portDown
  repeat' first
    | with_reducible assumption
    | intro _ _
    | intro _
    | with_reducible apply Touches.choose
    | with_reducible apply State.linkTo_touches

theorem State.allPortsDisabled_touches {ps s x}
    (h : Touches ps s x) (p_regs : Part.regs ∈ ps := by assumption) (p_draws : Part.draws ∈ ps := by assumption) (p_outbox : Part.outbox ∈ ps := by assumption) (p_flt : Part.flt ∈ ps := by assumption) (p_act : Part.act ∈ ps := by assumption) (p_host : Part.host ∈ ps := by assumption) (p_buf : Part.buf ∈ ps := by assumption) (p_pipe : Part.pipe ∈ ps := by assumption) (p_que : Part.que ∈ ps := by assumption) (p_tele : Part.tele ∈ ps := by assumption) :
    Touches ps s (State.allPortsDisabled x) := by
  unfold State.allPortsDisabled
  repeat' first
    | with_reducible assumption
    | intro _ _
    | intro _
    | with_reducible apply Touches.foldl
    | with_reducible apply Touches.foldl_snd
    | with_reducible apply Touches.foldl_fst
    | with_reducible apply Touches.foldl_third
    | with_reducible apply State.portDown_touches

theorem State.portReset_touches {ps s x} {a1}
    (h : Touches ps s x) (p_regs : Part.regs ∈ ps := by assumption) (p_draws : Part.draws ∈ ps := by assumption) (p_outbox : Part.outbox ∈ ps := by assumption) (p_flt : Part.flt ∈ ps := by assumption) (p_act : Part.act ∈ ps := by assumption) (p_host : Part.host ∈ ps := by assumption) (p_buf : Part.buf ∈ ps := by assumption) (p_pipe : Part.pipe ∈ ps := by assumption) (p_que : Part.que ∈ ps := by assumption) (p_tele : Part.tele ∈ ps := by assumption) :
    Touches ps s (State.portReset x a1) := by
  unfold State.portReset
  repeat' first
    | with_reducible assumption
    | intro _ _
    | intro _
    | with_reducible apply Touches.choose
    | with_reducible apply State.when_touches
    | with_reducible apply Touches.foldl
    | with_reducible apply Touches.foldl_snd
    | with_reducible apply Touches.foldl_fst
    | with_reducible apply Touches.foldl_third
    | with_reducible apply State.set_touches
    | with_reducible apply State.setB_touches
    | with_reducible apply State.clearBit_touches
    | with_reducible apply State.when_touches
    | with_reducible apply State.portEvent_touches
    | with_reducible apply State.adaptRestart_touches
    | with_reducible apply State.pauseClear_touches
    | with_reducible apply State.txCut_touches
    | with_reducible apply State.linkGo_touches
    | with_reducible apply State.leaveUp_touches
    | with_reducible apply State.portStart_touches

theorem State.lanesReady_touches {ps s x}
    (h : Touches ps s x) (p_regs : Part.regs ∈ ps := by assumption) (p_draws : Part.draws ∈ ps := by assumption) (p_outbox : Part.outbox ∈ ps := by assumption) (p_flt : Part.flt ∈ ps := by assumption) (p_act : Part.act ∈ ps := by assumption) (p_host : Part.host ∈ ps := by assumption) (p_buf : Part.buf ∈ ps := by assumption) (p_pipe : Part.pipe ∈ ps := by assumption) (p_que : Part.que ∈ ps := by assumption) (p_tele : Part.tele ∈ ps := by assumption) :
    Touches ps s (State.lanesReady x) := by
  unfold State.lanesReady
  repeat' first
    | with_reducible assumption
    | intro _ _
    | intro _
    | with_reducible apply Touches.choose
    | with_reducible apply Touches.foldl
    | with_reducible apply Touches.foldl_snd
    | with_reducible apply Touches.foldl_fst
    | with_reducible apply Touches.foldl_third
    | with_reducible apply State.set_touches
    | with_reducible apply State.setB_touches
    | with_reducible apply State.portStart_touches

theorem State.genTake_touches {ps s x} {a1 a2} (h : Touches ps s x) (p_buf : Part.buf ∈ ps := by assumption) :
    Touches ps s (State.genTake x a1 a2).2 := by
  unfold State.genTake
  repeat' first
    | with_reducible assumption
    | intro _ _
    | intro _
    | split
    | dsimp only
    | with_reducible apply Touches.upd
    | exact Or.inl (by assumption)
    | exact Or.inr rfl
theorem State.genTake_touchesE {ps s x} {a1 a2} {r0 t} (e : State.genTake x a1 a2 = (r0, t))
    (h : Touches ps s x) (p_buf : Part.buf ∈ ps := by assumption) :
    Touches ps s t := by
  have k := State.genTake_touches (ps := ps) (s := s) (x := x) (a1 := a1) (a2 := a2) h
  rwa [e] at k

theorem State.chkSees_touches {ps s x} {a1 a2} (h : Touches ps s x) (p_buf : Part.buf ∈ ps := by assumption) :
    Touches ps s (State.chkSees x a1 a2).2 := by
  unfold State.chkSees
  repeat' first
    | with_reducible assumption
    | intro _ _
    | intro _
    | with_reducible apply Touches.choose
    | with_reducible apply State.genTake_touches
    | refine State.genTake_touchesE (by with_reducible assumption) ?_
    | split
theorem State.chkSees_touchesE {ps s x} {a1 a2} {r0 t} (e : State.chkSees x a1 a2 = (r0, t))
    (h : Touches ps s x) (p_buf : Part.buf ∈ ps := by assumption) :
    Touches ps s t := by
  have k := State.chkSees_touches (ps := ps) (s := s) (x := x) (a1 := a1) (a2 := a2) h
  rwa [e] at k

theorem State.chkFeed_touches {ps s x} {a1 a2}
    (h : Touches ps s x) (p_regs : Part.regs ∈ ps := by assumption) (p_buf : Part.buf ∈ ps := by assumption) :
    Touches ps s (State.chkFeed x a1 a2) := by
  unfold State.chkFeed
  repeat' first
    | with_reducible assumption
    | intro _ _
    | intro _
    | with_reducible apply Touches.choose
    | with_reducible apply State.when_touches
    | with_reducible apply Touches.foldl
    | with_reducible apply Touches.foldl_snd
    | with_reducible apply Touches.foldl_fst
    | with_reducible apply Touches.foldl_third
    | with_reducible apply State.setB_touches
    | with_reducible apply State.add_touches
    | with_reducible apply State.when_touches
    | with_reducible apply State.chkSees_touches
    | refine State.chkSees_touchesE (by with_reducible assumption) ?_
    | split
    | dsimp only
    | with_reducible apply Touches.upd
    | exact Or.inl (by assumption)
    | exact Or.inr rfl

theorem State.chkClear_touches {ps s x} {a1} (h : Touches ps s x) (p_regs : Part.regs ∈ ps := by assumption) :
    Touches ps s (State.chkClear x a1) := by
  unfold State.chkClear
  repeat' first
    | with_reducible assumption
    | intro _ _
    | intro _
    | with_reducible apply State.set_touches
    | with_reducible apply State.setB_touches

theorem State.laneInject_touches {ps s x} {a1} (h : Touches ps s x) (p_outbox : Part.outbox ∈ ps := by assumption) :
    Touches ps s (State.laneInject x a1) := by
  unfold State.laneInject
  repeat' first
    | with_reducible assumption
    | intro _ _
    | intro _
    | with_reducible apply State.emit_touches
    | split

theorem State.genInject_touches {ps s x} {a1}
    (h : Touches ps s x) (p_outbox : Part.outbox ∈ ps := by assumption) (p_buf : Part.buf ∈ ps := by assumption) :
    Touches ps s (State.genInject x a1) := by
  unfold State.genInject
  repeat' first
    | with_reducible assumption
    | intro _ _
    | intro _
    | with_reducible apply Touches.choose
    | with_reducible apply State.laneInject_touches
    | split
    | dsimp only
    | with_reducible apply Touches.upd
    | exact Or.inl (by assumption)
    | exact Or.inr rfl

theorem State.synceUpdate_touches {ps s x} {a1 a2}
    (h : Touches ps s x) (p_regs : Part.regs ∈ ps := by assumption) (p_time : Part.time ∈ ps := by assumption) :
    Touches ps s (State.synceUpdate x a1 a2) := by
  unfold State.synceUpdate
  repeat' first
    | with_reducible assumption
    | intro _ _
    | intro _
    | with_reducible apply State.when_touches
    | with_reducible apply State.setB_touches
    | with_reducible apply State.when_touches
    | split
    | dsimp only
    | with_reducible apply Touches.upd
    | exact Or.inl (by assumption)
    | exact Or.inr rfl

theorem State.cdrLock_touches {ps s x} {a1 a2 a3}
    (h : Touches ps s x) (p_regs : Part.regs ∈ ps := by assumption) (p_time : Part.time ∈ ps := by assumption) :
    Touches ps s (State.cdrLock x a1 a2 a3) := by
  unfold State.cdrLock
  repeat' first
    | with_reducible assumption
    | intro _ _
    | intro _
    | with_reducible apply Touches.upTo
    | with_reducible apply State.setB_touches
    | with_reducible apply State.synceUpdate_touches

/-! ### Machine/Ingress.lean -/

theorem State.putRx_touches {ps s x} {a1 a2} (h : Touches ps s x) (p_buf : Part.buf ∈ ps := by assumption) :
    Touches ps s (State.putRx x a1 a2) := by
  unfold State.putRx
  repeat' first
    | with_reducible assumption
    | intro _ _
    | intro _
    | split
    | dsimp only
    | with_reducible apply Touches.upd
    | exact Or.inl (by assumption)
    | exact Or.inr rfl

theorem State.rxDead_touches {ps s x} {a1} (h : Touches ps s x) (p_buf : Part.buf ∈ ps := by assumption) :
    Touches ps s (State.rxDead x a1) := by
  unfold State.rxDead
  repeat' first
    | with_reducible assumption
    | intro _ _
    | intro _
    | with_reducible apply State.putRx_touches

theorem State.rxBreach_touches {ps s x} {a1 a2}
    (h : Touches ps s x) (p_regs : Part.regs ∈ ps := by assumption) (p_outbox : Part.outbox ∈ ps := by assumption) (p_flt : Part.flt ∈ ps := by assumption) (p_act : Part.act ∈ ps := by assumption) (p_host : Part.host ∈ ps := by assumption) (p_buf : Part.buf ∈ ps := by assumption) (p_pipe : Part.pipe ∈ ps := by assumption) (p_que : Part.que ∈ ps := by assumption) (p_tele : Part.tele ∈ ps := by assumption) :
    Touches ps s (State.rxBreach x a1 a2) := by
  unfold State.rxBreach
  repeat' first
    | with_reducible assumption
    | intro _ _
    | intro _
    | with_reducible apply State.inc_touches
    | with_reducible apply State.fault_touches
    | with_reducible apply State.rxDrop_touches
    | with_reducible apply State.rxDead_touches

theorem State.rxBegin_touches {ps s x} {a1 a2}
    (h : Touches ps s x) (p_regs : Part.regs ∈ ps := by assumption) (p_outbox : Part.outbox ∈ ps := by assumption) (p_flt : Part.flt ∈ ps := by assumption) (p_act : Part.act ∈ ps := by assumption) (p_host : Part.host ∈ ps := by assumption) (p_buf : Part.buf ∈ ps := by assumption) (p_pipe : Part.pipe ∈ ps := by assumption) (p_que : Part.que ∈ ps := by assumption) (p_tele : Part.tele ∈ ps := by assumption) :
    Touches ps s (State.rxBegin x a1 a2) := by
  unfold State.rxBegin
  repeat' first
    | with_reducible assumption
    | intro _ _
    | intro _
    | with_reducible apply Touches.choose
    | with_reducible apply State.putStore_touches
    | with_reducible apply State.setList_touches
    | with_reducible apply State.xoffEval_touches
    | with_reducible apply State.putRx_touches
    | with_reducible apply State.rxBreach_touches
    | refine State.grantRoom_touchesE (by with_reducible assumption) ?_
    | split

theorem State.rxSegment_touches {ps s x} {a1 a2}
    (h : Touches ps s x) (p_regs : Part.regs ∈ ps := by assumption) (p_outbox : Part.outbox ∈ ps := by assumption) (p_flt : Part.flt ∈ ps := by assumption) (p_act : Part.act ∈ ps := by assumption) (p_host : Part.host ∈ ps := by assumption) (p_buf : Part.buf ∈ ps := by assumption) (p_pipe : Part.pipe ∈ ps := by assumption) (p_que : Part.que ∈ ps := by assumption) (p_tele : Part.tele ∈ ps := by assumption) :
    Touches ps s (State.rxSegment x a1 a2) := by
  unfold State.rxSegment
  repeat' first
    | with_reducible assumption
    | intro _ _
    | intro _
    | with_reducible apply Touches.choose
    | with_reducible apply State.tally_touches
    | with_reducible apply State.setList_touches
    | with_reducible apply State.xoffEval_touches
    | with_reducible apply State.fit_touches
    | with_reducible apply State.rxDead_touches
    | with_reducible apply State.rxBreach_touches
    | refine State.chargeSeg_touchesE (by with_reducible assumption) ?_
    | refine State.fit_touchesE (by with_reducible assumption) ?_
    | split
    | dsimp only

theorem State.rxPortion_touches {ps s x} {a1 a2}
    (h : Touches ps s x) (p_regs : Part.regs ∈ ps := by assumption) (p_outbox : Part.outbox ∈ ps := by assumption) (p_flt : Part.flt ∈ ps := by assumption) (p_act : Part.act ∈ ps := by assumption) (p_host : Part.host ∈ ps := by assumption) (p_buf : Part.buf ∈ ps := by assumption) (p_pipe : Part.pipe ∈ ps := by assumption) (p_que : Part.que ∈ ps := by assumption) (p_tele : Part.tele ∈ ps := by assumption) :
    Touches ps s (State.rxPortion x a1 a2) := by
  unfold State.rxPortion
  repeat' first
    | with_reducible assumption
    | intro _ _
    | intro _
    | with_reducible apply Touches.choose
    | with_reducible apply Touches.foldl
    | with_reducible apply Touches.foldl_snd
    | with_reducible apply Touches.foldl_fst
    | with_reducible apply Touches.foldl_third
    | with_reducible apply State.putRx_touches
    | with_reducible apply State.rxBegin_touches
    | with_reducible apply State.rxSegment_touches

theorem State.settleOne_touches {ps s x} {a1 a2}
    (h : Touches ps s x) (p_dev : Part.dev ∈ ps := by assumption) (p_flt : Part.flt ∈ ps := by assumption) (p_que : Part.que ∈ ps := by assumption) :
    Touches ps s (State.settleOne x a1 a2) := by
  unfold State.settleOne
  repeat' first
    | with_reducible assumption
    | intro _ _
    | intro _
    | with_reducible apply Touches.choose
    | with_reducible apply State.memSet_touches
    | with_reducible apply State.shaperMove_touches

theorem State.settleAll_touches {ps s x} {a1 a2}
    (h : Touches ps s x) (p_dev : Part.dev ∈ ps := by assumption) (p_flt : Part.flt ∈ ps := by assumption) (p_buf : Part.buf ∈ ps := by assumption) (p_que : Part.que ∈ ps := by assumption) :
    Touches ps s (State.settleAll x a1 a2) := by
  unfold State.settleAll
  repeat' first
    | with_reducible assumption
    | intro _ _
    | intro _
    | with_reducible apply Touches.foldl
    | with_reducible apply Touches.foldl_snd
    | with_reducible apply Touches.foldl_fst
    | with_reducible apply Touches.foldl_third
    | with_reducible apply State.putStore_touches
    | with_reducible apply State.settleOne_touches

theorem State.frameDone_touches {ps s x} {a1}
    (h : Touches ps s x) (p_regs : Part.regs ∈ ps := by assumption) (p_dev : Part.dev ∈ ps := by assumption) (p_draws : Part.draws ∈ ps := by assumption) (p_outbox : Part.outbox ∈ ps := by assumption) (p_flt : Part.flt ∈ ps := by assumption) (p_act : Part.act ∈ ps := by assumption) (p_host : Part.host ∈ ps := by assumption) (p_buf : Part.buf ∈ ps := by assumption) (p_pipe : Part.pipe ∈ ps := by assumption) (p_que : Part.que ∈ ps := by assumption) (p_tele : Part.tele ∈ ps := by assumption) :
    Touches ps s (State.frameDone x a1) := by
  unfold State.frameDone
  repeat' first
    | with_reducible assumption
    | intro _ _
    | intro _
    | with_reducible apply Touches.foldl
    | with_reducible apply Touches.foldl_snd
    | with_reducible apply Touches.foldl_fst
    | with_reducible apply Touches.foldl_third
    | with_reducible apply State.putStore_touches
    | with_reducible apply State.xoffEval_touches
    | with_reducible apply State.deltaPost_touches
    | with_reducible apply State.endAside_touches
    | with_reducible apply State.lateShort_touches
    | with_reducible apply State.resolve_touches
    | with_reducible apply State.settleAll_touches

theorem State.rxControl_touches {ps s x} {a1 a2}
    (h : Touches ps s x) (p_regs : Part.regs ∈ ps := by assumption) (p_buf : Part.buf ∈ ps := by assumption) :
    Touches ps s (State.rxControl x a1 a2) := by
  unfold State.rxControl
  repeat' first
    | with_reducible assumption
    | intro _ _
    | intro _
    | with_reducible apply State.inc_touches
    | with_reducible apply State.pauseRx_touches
    | split

theorem State.rxGood_touches {ps s x} {a1}
    (h : Touches ps s x) (p_regs : Part.regs ∈ ps := by assumption) (p_dev : Part.dev ∈ ps := by assumption) (p_draws : Part.draws ∈ ps := by assumption) (p_outbox : Part.outbox ∈ ps := by assumption) (p_flt : Part.flt ∈ ps := by assumption) (p_act : Part.act ∈ ps := by assumption) (p_host : Part.host ∈ ps := by assumption) (p_buf : Part.buf ∈ ps := by assumption) (p_pipe : Part.pipe ∈ ps := by assumption) (p_que : Part.que ∈ ps := by assumption) (p_tele : Part.tele ∈ ps := by assumption) :
    Touches ps s (State.rxGood x a1) := by
  unfold State.rxGood
  repeat' first
    | with_reducible assumption
    | intro _ _
    | intro _
    | with_reducible apply Touches.choose
    | with_reducible apply State.when_touches
    | with_reducible apply State.inc_touches
    | with_reducible apply State.when_touches
    | with_reducible apply State.setList_touches
    | with_reducible apply State.frameDone_touches
    | with_reducible apply State.rxControl_touches
    | split
    | dsimp only

theorem State.rxBad_touches {ps s x} {a1 a2}
    (h : Touches ps s x) (p_regs : Part.regs ∈ ps := by assumption) (p_dev : Part.dev ∈ ps := by assumption) (p_outbox : Part.outbox ∈ ps := by assumption) (p_flt : Part.flt ∈ ps := by assumption) (p_act : Part.act ∈ ps := by assumption) (p_host : Part.host ∈ ps := by assumption) (p_buf : Part.buf ∈ ps := by assumption) (p_pipe : Part.pipe ∈ ps := by assumption) (p_que : Part.que ∈ ps := by assumption) (p_tele : Part.tele ∈ ps := by assumption) :
    Touches ps s (State.rxBad x a1 a2) := by
  unfold State.rxBad
  repeat' first
    | with_reducible assumption
    | intro _ _
    | intro _
    | with_reducible apply Touches.choose
    | with_reducible apply State.inc_touches
    | with_reducible apply State.rxDrop_touches
    | with_reducible apply State.settleAll_touches
    | split

theorem State.rxEnd_touches {ps s x} {a1 a2}
    (h : Touches ps s x) (p_regs : Part.regs ∈ ps := by assumption) (p_dev : Part.dev ∈ ps := by assumption) (p_draws : Part.draws ∈ ps := by assumption) (p_outbox : Part.outbox ∈ ps := by assumption) (p_flt : Part.flt ∈ ps := by assumption) (p_act : Part.act ∈ ps := by assumption) (p_host : Part.host ∈ ps := by assumption) (p_buf : Part.buf ∈ ps := by assumption) (p_pipe : Part.pipe ∈ ps := by assumption) (p_que : Part.que ∈ ps := by assumption) (p_tele : Part.tele ∈ ps := by assumption) :
    Touches ps s (State.rxEnd x a1 a2) := by
  unfold State.rxEnd
  repeat' first
    | with_reducible assumption
    | intro _ _
    | intro _
    | with_reducible apply Touches.choose
    | with_reducible apply State.bwCount_touches
    | with_reducible apply State.rxGood_touches
    | with_reducible apply State.rxBad_touches
    | split
    | dsimp only
    | with_reducible apply Touches.upd
    | exact Or.inl (by assumption)
    | exact Or.inr rfl

theorem State.rxFrame_touches {ps s x} {a1 a2 a3}
    (h : Touches ps s x) (p_regs : Part.regs ∈ ps := by assumption) (p_dev : Part.dev ∈ ps := by assumption) (p_draws : Part.draws ∈ ps := by assumption) (p_outbox : Part.outbox ∈ ps := by assumption) (p_flt : Part.flt ∈ ps := by assumption) (p_act : Part.act ∈ ps := by assumption) (p_host : Part.host ∈ ps := by assumption) (p_buf : Part.buf ∈ ps := by assumption) (p_pipe : Part.pipe ∈ ps := by assumption) (p_que : Part.que ∈ ps := by assumption) (p_tele : Part.tele ∈ ps := by assumption) :
    Touches ps s (State.rxFrame x a1 a2 a3) := by
  unfold State.rxFrame
  repeat' first
    | with_reducible assumption
    | intro _ _
    | intro _
    | with_reducible apply Touches.choose
    | with_reducible apply State.rxPortion_touches
    | with_reducible apply State.rxEnd_touches
    | split

theorem State.listsDrop_touches {ps s x} {a1}
    (h : Touches ps s x) (p_regs : Part.regs ∈ ps := by assumption) (p_outbox : Part.outbox ∈ ps := by assumption) (p_flt : Part.flt ∈ ps := by assumption) (p_act : Part.act ∈ ps := by assumption) (p_host : Part.host ∈ ps := by assumption) (p_buf : Part.buf ∈ ps := by assumption) :
    Touches ps s (State.listsDrop x a1) := by
  unfold State.listsDrop
  repeat' first
    | with_reducible assumption
    | intro _ _
    | intro _
    | with_reducible apply Touches.foldl
    | with_reducible apply Touches.foldl_snd
    | with_reducible apply Touches.foldl_fst
    | with_reducible apply Touches.foldl_third
    | with_reducible apply State.uncharge_touches
    | with_reducible apply State.release_touches
    | split
    | dsimp only
    | with_reducible apply Touches.upd
    | exact Or.inl (by assumption)
    | exact Or.inr rfl

theorem State.holdsDrop_touches {ps s x} {a1}
    (h : Touches ps s x) (p_regs : Part.regs ∈ ps := by assumption) (p_outbox : Part.outbox ∈ ps := by assumption) (p_flt : Part.flt ∈ ps := by assumption) (p_act : Part.act ∈ ps := by assumption) (p_host : Part.host ∈ ps := by assumption) (p_buf : Part.buf ∈ ps := by assumption) (p_que : Part.que ∈ ps := by assumption) :
    Touches ps s (State.holdsDrop x a1) := by
  unfold State.holdsDrop
  repeat' first
    | with_reducible assumption
    | intro _ _
    | intro _
    | with_reducible apply Touches.foldl
    | with_reducible apply Touches.foldl_snd
    | with_reducible apply Touches.foldl_fst
    | with_reducible apply Touches.foldl_third
    | with_reducible apply State.instEnd_touches
    | split
    | dsimp only
    | with_reducible apply Touches.upd
    | exact Or.inl (by assumption)
    | exact Or.inr rfl

theorem State.egressDrop_touches {ps s x} {a1}
    (h : Touches ps s x) (p_regs : Part.regs ∈ ps := by assumption) (p_outbox : Part.outbox ∈ ps := by assumption) (p_flt : Part.flt ∈ ps := by assumption) (p_act : Part.act ∈ ps := by assumption) (p_host : Part.host ∈ ps := by assumption) (p_buf : Part.buf ∈ ps := by assumption) (p_pipe : Part.pipe ∈ ps := by assumption) (p_tele : Part.tele ∈ ps := by assumption) :
    Touches ps s (State.egressDrop x a1) := by
  unfold State.egressDrop
  repeat' first
    | with_reducible assumption
    | intro _ _
    | intro _
    | with_reducible apply Touches.foldl
    | with_reducible apply Touches.foldl_snd
    | with_reducible apply Touches.foldl_fst
    | with_reducible apply Touches.foldl_third
    | with_reducible apply State.setEgress_touches
    | with_reducible apply State.egDiscard_touches

theorem State.ingressDrop_touches {ps s x} {a1}
    (h : Touches ps s x) (p_regs : Part.regs ∈ ps := by assumption) (p_outbox : Part.outbox ∈ ps := by assumption) (p_flt : Part.flt ∈ ps := by assumption) (p_act : Part.act ∈ ps := by assumption) (p_host : Part.host ∈ ps := by assumption) (p_buf : Part.buf ∈ ps := by assumption) (p_pipe : Part.pipe ∈ ps := by assumption) :
    Touches ps s (State.ingressDrop x a1) := by
  unfold State.ingressDrop
  repeat' first
    | with_reducible assumption
    | intro _ _
    | intro _
    | with_reducible apply Touches.foldl
    | with_reducible apply Touches.foldl_snd
    | with_reducible apply Touches.foldl_fst
    | with_reducible apply Touches.foldl_third
    | with_reducible apply State.release_touches
    | with_reducible apply State.inflightDec_touches
    | with_reducible apply State.setIngress_touches

theorem State.pipeReset_touches {ps s x} {a1}
    (h : Touches ps s x) (p_regs : Part.regs ∈ ps := by assumption) (p_draws : Part.draws ∈ ps := by assumption) (p_outbox : Part.outbox ∈ ps := by assumption) (p_flt : Part.flt ∈ ps := by assumption) (p_act : Part.act ∈ ps := by assumption) (p_host : Part.host ∈ ps := by assumption) (p_buf : Part.buf ∈ ps := by assumption) (p_pipe : Part.pipe ∈ ps := by assumption) (p_que : Part.que ∈ ps := by assumption) (p_tele : Part.tele ∈ ps := by assumption) :
    Touches ps s (State.pipeReset x a1) := by
  unfold State.pipeReset
  repeat' first
    | with_reducible assumption
    | intro _ _
    | intro _
    | with_reducible apply Touches.foldl
    | with_reducible apply Touches.foldl_snd
    | with_reducible apply Touches.foldl_fst
    | with_reducible apply Touches.foldl_third
    | with_reducible apply State.xoffEval_touches
    | with_reducible apply State.portReset_touches
    | with_reducible apply State.listsDrop_touches
    | with_reducible apply State.holdsDrop_touches
    | with_reducible apply State.egressDrop_touches
    | with_reducible apply State.ingressDrop_touches
    | split
    | dsimp only
    | with_reducible apply Touches.upd
    | exact Or.inl (by assumption)
    | exact Or.inr rfl

/-! ### Machine/Gates.lean -/

theorem State.putGate_touches {ps s x} {a1 a2} (h : Touches ps s x) (p_que : Part.que ∈ ps := by assumption) :
    Touches ps s (State.putGate x a1 a2) := by
  unfold State.putGate
  repeat' first
    | with_reducible assumption
    | intro _ _
    | intro _
    | split
    | dsimp only
    | with_reducible apply Touches.upd
    | exact Or.inl (by assumption)
    | exact Or.inr rfl

theorem State.configChange_touches {ps s x} {a1}
    (h : Touches ps s x) (p_regs : Part.regs ∈ ps := by assumption) (p_que : Part.que ∈ ps := by assumption) :
    Touches ps s (State.configChange x a1) := by
  unfold State.configChange
  repeat' first
    | with_reducible assumption
    | intro _ _
    | intro _
    | with_reducible apply Touches.choose
    | with_reducible apply State.setB_touches
    | with_reducible apply State.putGate_touches

theorem State.gateDisable_touches {ps s x} {a1}
    (h : Touches ps s x) (p_regs : Part.regs ∈ ps := by assumption) (p_que : Part.que ∈ ps := by assumption) :
    Touches ps s (State.gateDisable x a1) := by
  unfold State.gateDisable
  repeat' first
    | with_reducible assumption
    | intro _ _
    | intro _
    | with_reducible apply Touches.choose
    | with_reducible apply State.setB_touches
    | split
    | dsimp only
    | with_reducible apply Touches.upd
    | exact Or.inl (by assumption)
    | exact Or.inr rfl

theorem State.gateRun_touches {ps s x} {a1 a2}
    (h : Touches ps s x) (p_regs : Part.regs ∈ ps := by assumption) (p_que : Part.que ∈ ps := by assumption) :
    Touches ps s (State.gateRun x a1 a2) := by
  unfold State.gateRun
  repeat' first
    | with_reducible assumption
    | intro _ _
    | intro _
    | with_reducible apply State.set_touches
    | with_reducible apply State.setB_touches
    | with_reducible apply State.putGate_touches

theorem State.gateStart_touches {ps s x} {a1}
    (h : Touches ps s x) (p_regs : Part.regs ∈ ps := by assumption) (p_que : Part.que ∈ ps := by assumption) :
    Touches ps s (State.gateStart x a1) := by
  unfold State.gateStart
  repeat' first
    | with_reducible assumption
    | intro _ _
    | intro _
    | with_reducible apply Touches.choose
    | with_reducible apply State.gateRun_touches
    | split

theorem State.gateEntry_touches {ps s x} {a1} (h : Touches ps s x) (p_que : Part.que ∈ ps := by assumption) :
    Touches ps s (State.gateEntry x a1) := by
  unfold State.gateEntry
  repeat' first
    | with_reducible assumption
    | intro _ _
    | intro _
    | with_reducible apply State.putGate_touches
    | split

theorem State.gatesRelocate_touches {ps s x}
    (h : Touches ps s x) (p_regs : Part.regs ∈ ps := by assumption) (p_que : Part.que ∈ ps := by assumption) :
    Touches ps s (State.gatesRelocate x) := by
  unfold State.gatesRelocate
  repeat' first
    | with_reducible assumption
    | intro _ _
    | intro _
    | with_reducible apply Touches.foldl
    | with_reducible apply Touches.foldl_snd
    | with_reducible apply Touches.foldl_fst
    | with_reducible apply Touches.foldl_third
    | with_reducible apply State.gateStart_touches
    | with_reducible apply State.gateEntry_touches

/-! ### Machine/Sched.lean -/

theorem State.putRr_touches {ps s x} {a1 a2} (h : Touches ps s x) (p_que : Part.que ∈ ps := by assumption) :
    Touches ps s (State.putRr x a1 a2) := by
  unfold State.putRr
  repeat' first
    | with_reducible assumption
    | intro _ _
    | intro _
    | split
    | dsimp only
    | with_reducible apply Touches.upd
    | exact Or.inl (by assumption)
    | exact Or.inr rfl

theorem State.enterEgress_touches {ps s x} {a1 a2 a3 a4}
    (h : Touches ps s x) (p_regs : Part.regs ∈ ps := by assumption) (p_draws : Part.draws ∈ ps := by assumption) (p_outbox : Part.outbox ∈ ps := by assumption) (p_flt : Part.flt ∈ ps := by assumption) (p_act : Part.act ∈ ps := by assumption) (p_host : Part.host ∈ ps := by assumption) (p_pipe : Part.pipe ∈ ps := by assumption) :
    Touches ps s (State.enterEgress x a1 a2 a3 a4) := by
  unfold State.enterEgress
  repeat' first
    | with_reducible assumption
    | intro _ _
    | intro _
    | with_reducible apply State.draw_touches
    | with_reducible apply State.tally_touches
    | with_reducible apply State.stripRecord_touches
    | with_reducible apply State.setEgress_touches

theorem State.subCommit_touches {ps s x} {a1 a2 a3 a4}
    (h : Touches ps s x) (p_dev : Part.dev ∈ ps := by assumption) (p_flt : Part.flt ∈ ps := by assumption) (p_que : Part.que ∈ ps := by assumption) :
    Touches ps s (State.subCommit x a1 a2 a3 a4) := by
  unfold State.subCommit
  repeat' first
    | with_reducible assumption
    | intro _ _
    | intro _
    | with_reducible apply Touches.choose
    | with_reducible apply Touches.foldl
    | with_reducible apply Touches.foldl_snd
    | with_reducible apply Touches.foldl_fst
    | with_reducible apply Touches.foldl_third
    | with_reducible apply State.memSet_touches
    | with_reducible apply State.putRr_touches
    | split
    | dsimp only
    | with_reducible apply Touches.upd
    | exact Or.inl (by assumption)
    | exact Or.inr rfl

theorem State.classCommit_touches {ps s x} {a1 a2 a3 a4}
    (h : Touches ps s x) (p_dev : Part.dev ∈ ps := by assumption) (p_flt : Part.flt ∈ ps := by assumption) (p_que : Part.que ∈ ps := by assumption) :
    Touches ps s (State.classCommit x a1 a2 a3 a4) := by
  unfold State.classCommit
  repeat' first
    | with_reducible assumption
    | intro _ _
    | intro _
    | with_reducible apply Touches.choose
    | with_reducible apply Touches.foldl
    | with_reducible apply Touches.foldl_snd
    | with_reducible apply Touches.foldl_fst
    | with_reducible apply Touches.foldl_third
    | with_reducible apply State.memSet_touches
    | with_reducible apply State.putRr_touches

theorem State.settleLater_touches {ps s x} {a1 a2 a3 a4} (h : Touches ps s x) (p_buf : Part.buf ∈ ps := by assumption) :
    Touches ps s (State.settleLater x a1 a2 a3 a4) := by
  unfold State.settleLater
  repeat' first
    | with_reducible assumption
    | intro _ _
    | intro _
    | with_reducible apply Touches.choose
    | with_reducible apply State.putStore_touches

theorem State.popQueue_touches {ps s x} {a1} (h : Touches ps s x) (p_que : Part.que ∈ ps := by assumption) :
    Touches ps s (State.popQueue x a1) := by
  unfold State.popQueue
  repeat' first
    | with_reducible assumption
    | intro _ _
    | intro _
    | with_reducible apply State.setQueue_touches

theorem State.readStart_touches {ps s x} {a1 a2} (h2 : ∀ y, Touches ps s y → Touches ps s (a2 y))
    (h : Touches ps s x) (p_regs : Part.regs ∈ ps := by assumption) (p_flt : Part.flt ∈ ps := by assumption) (p_buf : Part.buf ∈ ps := by assumption) :
    Touches ps s (State.readStart x a1 a2) := by
  unfold State.readStart
  repeat' first
    | with_reducible assumption
    | intro _ _
    | intro _
    | apply h2
    | with_reducible apply Touches.choose
    | with_reducible apply State.handleErr_touches
    | with_reducible apply State.inflightDec_touches

theorem State.sendInst_touches {ps s x} {a1 a2 a3}
    (h : Touches ps s x) (p_regs : Part.regs ∈ ps := by assumption) (p_draws : Part.draws ∈ ps := by assumption) (p_outbox : Part.outbox ∈ ps := by assumption) (p_flt : Part.flt ∈ ps := by assumption) (p_act : Part.act ∈ ps := by assumption) (p_host : Part.host ∈ ps := by assumption) (p_buf : Part.buf ∈ ps := by assumption) (p_pipe : Part.pipe ∈ ps := by assumption) :
    Touches ps s (State.sendInst x a1 a2 a3) := by
  unfold State.sendInst
  repeat' first
    | with_reducible assumption
    | intro _ _
    | intro _
    | with_reducible apply Touches.choose
    | with_reducible apply State.when_touches
    | with_reducible apply State.inc_touches
    | with_reducible apply State.when_touches
    | with_reducible apply State.instEnd_touches
    | with_reducible apply State.enterEgress_touches
    | with_reducible apply State.readStart_touches

theorem State.stormTake_touches {ps s x} {a1 a2 a3}
    (h : Touches ps s x) (p_regs : Part.regs ∈ ps := by assumption) (p_outbox : Part.outbox ∈ ps := by assumption) (p_flt : Part.flt ∈ ps := by assumption) (p_act : Part.act ∈ ps := by assumption) (p_host : Part.host ∈ ps := by assumption) (p_buf : Part.buf ∈ ps := by assumption) (p_que : Part.que ∈ ps := by assumption) (p_tele : Part.tele ∈ ps := by assumption) :
    Touches ps s (State.stormTake x a1 a2 a3) := by
  unfold State.stormTake
  repeat' first
    | with_reducible assumption
    | intro _ _
    | intro _
    | with_reducible apply Touches.choose
    | with_reducible apply State.inc_touches
    | with_reducible apply State.instEnd_touches
    | with_reducible apply State.popQueue_touches
    | split
    | dsimp only
    | with_reducible apply Touches.upd
    | exact Or.inl (by assumption)
    | exact Or.inr rfl

theorem State.take_touches {ps s x} {a1 a2 a3 a4}
    (h : Touches ps s x) (p_regs : Part.regs ∈ ps := by assumption) (p_draws : Part.draws ∈ ps := by assumption) (p_outbox : Part.outbox ∈ ps := by assumption) (p_flt : Part.flt ∈ ps := by assumption) (p_act : Part.act ∈ ps := by assumption) (p_host : Part.host ∈ ps := by assumption) (p_buf : Part.buf ∈ ps := by assumption) (p_pipe : Part.pipe ∈ ps := by assumption) (p_que : Part.que ∈ ps := by assumption) (p_tele : Part.tele ∈ ps := by assumption) :
    Touches ps s (State.take x a1 a2 a3 a4) := by
  unfold State.take
  repeat' first
    | with_reducible assumption
    | intro _ _
    | intro _
    | with_reducible apply Touches.choose
    | with_reducible apply State.tally_touches
    | with_reducible apply State.shaperCharge_touches
    | with_reducible apply State.setTxList_touches
    | with_reducible apply State.settleLater_touches
    | with_reducible apply State.popQueue_touches
    | with_reducible apply State.sendInst_touches
    | split
    | dsimp only
    | with_reducible apply Touches.upd
    | exact Or.inl (by assumption)
    | exact Or.inr rfl

theorem State.gateDrop_touches {ps s x p c k n}
    (h : Touches ps s x) (p_regs : Part.regs ∈ ps := by assumption) (p_outbox : Part.outbox ∈ ps := by assumption) (p_flt : Part.flt ∈ ps := by assumption) (p_act : Part.act ∈ ps := by assumption) (p_host : Part.host ∈ ps := by assumption) (p_buf : Part.buf ∈ ps := by assumption) (p_que : Part.que ∈ ps := by assumption) :
    Touches ps s (State.gateDrop x p c k n) := by
  induction n generalizing x with
  | zero => exact h
  | succ n ih =>
    simp only [State.gateDrop]
    split
    · split
      · exact ih (State.instEnd_touches (State.fault_touches (State.inc_touches (State.popQueue_touches h))))
      · exact h
    · exact h

theorem State.gateDrops_touches {ps s x} {a1}
    (h : Touches ps s x) (p_regs : Part.regs ∈ ps := by assumption) (p_outbox : Part.outbox ∈ ps := by assumption) (p_flt : Part.flt ∈ ps := by assumption) (p_act : Part.act ∈ ps := by assumption) (p_host : Part.host ∈ ps := by assumption) (p_buf : Part.buf ∈ ps := by assumption) (p_que : Part.que ∈ ps := by assumption) :
    Touches ps s (State.gateDrops x a1) := by
  unfold State.gateDrops
  repeat' first
    | with_reducible assumption
    | intro _ _
    | intro _
    | with_reducible apply Touches.choose
    | with_reducible apply Touches.upTo
    | with_reducible apply State.gateDrop_touches

theorem State.selectFront_touches {ps s x} {a1 a2}
    (h : Touches ps s x) (p_regs : Part.regs ∈ ps := by assumption) (p_dev : Part.dev ∈ ps := by assumption) (p_draws : Part.draws ∈ ps := by assumption) (p_outbox : Part.outbox ∈ ps := by assumption) (p_flt : Part.flt ∈ ps := by assumption) (p_act : Part.act ∈ ps := by assumption) (p_host : Part.host ∈ ps := by assumption) (p_buf : Part.buf ∈ ps := by assumption) (p_pipe : Part.pipe ∈ ps := by assumption) (p_que : Part.que ∈ ps := by assumption) (p_tele : Part.tele ∈ ps := by assumption) :
    Touches ps s (State.selectFront x a1 a2) := by
  unfold State.selectFront
  repeat' first
    | with_reducible assumption
    | intro _ _
    | intro _
    | with_reducible apply Touches.choose
    | with_reducible apply State.tally_touches
    | with_reducible apply State.subCommit_touches
    | with_reducible apply State.classCommit_touches
    | with_reducible apply State.stormTake_touches
    | with_reducible apply State.take_touches
    | split

theorem State.selectRecirc_touches {ps s x} {a1 a2}
    (h : Touches ps s x) (p_regs : Part.regs ∈ ps := by assumption) (p_dev : Part.dev ∈ ps := by assumption) (p_draws : Part.draws ∈ ps := by assumption) (p_outbox : Part.outbox ∈ ps := by assumption) (p_flt : Part.flt ∈ ps := by assumption) (p_act : Part.act ∈ ps := by assumption) (p_host : Part.host ∈ ps := by assumption) (p_buf : Part.buf ∈ ps := by assumption) (p_pipe : Part.pipe ∈ ps := by assumption) (p_que : Part.que ∈ ps := by assumption) :
    Touches ps s (State.selectRecirc x a1 a2) := by
  unfold State.selectRecirc
  repeat' first
    | with_reducible assumption
    | intro _ _
    | intro _
    | with_reducible apply State.tally_touches
    | with_reducible apply State.shaperCharge_touches
    | with_reducible apply State.enterEgress_touches
    | with_reducible apply State.classCommit_touches
    | with_reducible apply State.popQueue_touches
    | with_reducible apply State.readStart_touches
    | split
    | dsimp only

theorem State.ringWatch_touches {ps s x} {a1}
    (h : Touches ps s x) (p_regs : Part.regs ∈ ps := by assumption) (p_host : Part.host ∈ ps := by assumption) :
    Touches ps s (State.ringWatch x a1) := by
  unfold State.ringWatch
  repeat' first
    | with_reducible assumption
    | intro _ _
    | intro _
    | with_reducible apply Touches.choose
    | with_reducible apply State.setB_touches
    | split
    | dsimp only
    | with_reducible apply Touches.upd
    | exact Or.inl (by assumption)
    | exact Or.inr rfl

theorem State.selectCpu_touches {ps s x} {a1}
    (h : Touches ps s x) (p_regs : Part.regs ∈ ps := by assumption) (p_draws : Part.draws ∈ ps := by assumption) (p_outbox : Part.outbox ∈ ps := by assumption) (p_flt : Part.flt ∈ ps := by assumption) (p_act : Part.act ∈ ps := by assumption) (p_host : Part.host ∈ ps := by assumption) (p_buf : Part.buf ∈ ps := by assumption) (p_pipe : Part.pipe ∈ ps := by assumption) (p_que : Part.que ∈ ps := by assumption) (p_tele : Part.tele ∈ ps := by assumption) :
    Touches ps s (State.selectCpu x a1) := by
  unfold State.selectCpu
  repeat' first
    | with_reducible assumption
    | intro _ _
    | intro _
    | with_reducible apply Touches.choose
    | with_reducible apply Touches.upTo
    | with_reducible apply State.inc_touches
    | with_reducible apply State.tally_touches
    | with_reducible apply State.instEnd_touches
    | with_reducible apply State.setTxList_touches
    | with_reducible apply State.putRr_touches
    | with_reducible apply State.enterEgress_touches
    | with_reducible apply State.popQueue_touches
    | with_reducible apply State.readStart_touches
    | with_reducible apply State.ringWatch_touches
    | split
    | dsimp only
    | with_reducible apply Touches.upd
    | exact Or.inl (by assumption)
    | exact Or.inr rfl

theorem State.setArbEg_touches {ps s x} {a1 a2} (h : Touches ps s x) (p_que : Part.que ∈ ps := by assumption) :
    Touches ps s (State.setArbEg x a1 a2) := by
  unfold State.setArbEg
  repeat' first
    | with_reducible assumption
    | intro _ _
    | intro _
    | split
    | dsimp only
    | with_reducible apply Touches.upd
    | exact Or.inl (by assumption)
    | exact Or.inr rfl

theorem State.portSelect_touches {ps s x} {a1 a2}
    (h : Touches ps s x) (p_regs : Part.regs ∈ ps := by assumption) (p_dev : Part.dev ∈ ps := by assumption) (p_draws : Part.draws ∈ ps := by assumption) (p_outbox : Part.outbox ∈ ps := by assumption) (p_flt : Part.flt ∈ ps := by assumption) (p_act : Part.act ∈ ps := by assumption) (p_host : Part.host ∈ ps := by assumption) (p_buf : Part.buf ∈ ps := by assumption) (p_pipe : Part.pipe ∈ ps := by assumption) (p_que : Part.que ∈ ps := by assumption) (p_tele : Part.tele ∈ ps := by assumption) :
    Touches ps s (State.portSelect x a1 a2) := by
  unfold State.portSelect
  repeat' first
    | with_reducible assumption
    | intro _ _
    | intro _
    | with_reducible apply Touches.choose
    | with_reducible apply State.selectFront_touches
    | with_reducible apply State.selectRecirc_touches
    | with_reducible apply State.selectCpu_touches

theorem State.schedSelect_touches {ps s x} {a1 a2}
    (h : Touches ps s x) (p_regs : Part.regs ∈ ps := by assumption) (p_dev : Part.dev ∈ ps := by assumption) (p_draws : Part.draws ∈ ps := by assumption) (p_outbox : Part.outbox ∈ ps := by assumption) (p_flt : Part.flt ∈ ps := by assumption) (p_act : Part.act ∈ ps := by assumption) (p_host : Part.host ∈ ps := by assumption) (p_buf : Part.buf ∈ ps := by assumption) (p_pipe : Part.pipe ∈ ps := by assumption) (p_que : Part.que ∈ ps := by assumption) (p_tele : Part.tele ∈ ps := by assumption) :
    Touches ps s (State.schedSelect x a1 a2) := by
  unfold State.schedSelect
  repeat' first
    | with_reducible assumption
    | intro _ _
    | intro _
    | with_reducible apply Touches.choose
    | with_reducible apply State.when_touches
    | with_reducible apply State.when_touches
    | with_reducible apply State.gateDrops_touches
    | with_reducible apply State.setArbEg_touches
    | with_reducible apply State.portSelect_touches

theorem State.launchReached_touches {ps s x} {a1} (h : Touches ps s x) (p_que : Part.que ∈ ps := by assumption) :
    Touches ps s (State.launchReached x a1) := by
  unfold State.launchReached
  repeat' first
    | with_reducible assumption
    | intro _ _
    | intro _
    | with_reducible apply Touches.choose
    | with_reducible apply State.setQueue_touches
    | split

/-! ### Machine/Egress.lean -/

theorem State.putTx_touches {ps s x} {a1 a2} (h : Touches ps s x) (p_que : Part.que ∈ ps := by assumption) :
    Touches ps s (State.putTx x a1 a2) := by
  unfold State.putTx
  repeat' first
    | with_reducible assumption
    | intro _ _
    | intro _
    | split
    | dsimp only
    | with_reducible apply Touches.upd
    | exact Or.inl (by assumption)
    | exact Or.inr rfl

theorem State.delTx_touches {ps s x} {a1} (h : Touches ps s x) (p_que : Part.que ∈ ps := by assumption) :
    Touches ps s (State.delTx x a1) := by
  unfold State.delTx
  repeat' first
    | with_reducible assumption
    | intro _ _
    | intro _
    | with_reducible apply State.txDue_touches
    | split
    | dsimp only
    | with_reducible apply Touches.upd
    | exact Or.inl (by assumption)
    | exact Or.inr rfl

theorem State.departStart_touches {ps s x} {a1 a2} (h2 : ∀ y, Touches ps s y → Touches ps s (a2 y))
    (h : Touches ps s x) (p_regs : Part.regs ∈ ps := by assumption) (p_outbox : Part.outbox ∈ ps := by assumption) (p_flt : Part.flt ∈ ps := by assumption) (p_act : Part.act ∈ ps := by assumption) (p_host : Part.host ∈ ps := by assumption) (p_buf : Part.buf ∈ ps := by assumption) (p_tele : Part.tele ∈ ps := by assumption) :
    Touches ps s (State.departStart x a1 a2) := by
  unfold State.departStart
  repeat' first
    | with_reducible assumption
    | intro _ _
    | intro _
    | apply h2
    | with_reducible apply State.when_touches
    | with_reducible apply State.when_touches
    | with_reducible apply State.dropCard_touches
    | with_reducible apply State.readStart_touches

theorem State.departCards_touches {ps s x} {a1 a2}
    (h : Touches ps s x) (p_regs : Part.regs ∈ ps := by assumption) (p_dev : Part.dev ∈ ps := by assumption) (p_draws : Part.draws ∈ ps := by assumption) (p_outbox : Part.outbox ∈ ps := by assumption) (p_flt : Part.flt ∈ ps := by assumption) (p_act : Part.act ∈ ps := by assumption) (p_host : Part.host ∈ ps := by assumption) (p_tele : Part.tele ∈ ps := by assumption) :
    Touches ps s (State.departCards x a1 a2) := by
  unfold State.departCards
  repeat' first
    | with_reducible assumption
    | intro _ _
    | intro _
    | with_reducible apply State.foldRecord_touches
    | with_reducible apply State.cardAsk_touches

theorem State.txBegin_touches {ps s x} {a1 a2 a3}
    (h : Touches ps s x) (p_regs : Part.regs ∈ ps := by assumption) (p_dev : Part.dev ∈ ps := by assumption) (p_draws : Part.draws ∈ ps := by assumption) (p_outbox : Part.outbox ∈ ps := by assumption) (p_flt : Part.flt ∈ ps := by assumption) (p_act : Part.act ∈ ps := by assumption) (p_host : Part.host ∈ ps := by assumption) (p_buf : Part.buf ∈ ps := by assumption) (p_que : Part.que ∈ ps := by assumption) (p_tele : Part.tele ∈ ps := by assumption) :
    Touches ps s (State.txBegin x a1 a2 a3) := by
  unfold State.txBegin
  repeat' first
    | with_reducible assumption
    | intro _ _
    | intro _
    | with_reducible apply Touches.choose
    | with_reducible apply State.inc_touches
    | with_reducible apply State.readFrame_touches
    | with_reducible apply State.departHead_touches
    | with_reducible apply State.egDiscard_touches
    | with_reducible apply State.putTx_touches
    | with_reducible apply State.departCards_touches

theorem State.txStart_touches {ps s x} {a1 a2}
    (h : Touches ps s x) (p_regs : Part.regs ∈ ps := by assumption) (p_dev : Part.dev ∈ ps := by assumption) (p_draws : Part.draws ∈ ps := by assumption) (p_outbox : Part.outbox ∈ ps := by assumption) (p_flt : Part.flt ∈ ps := by assumption) (p_act : Part.act ∈ ps := by assumption) (p_host : Part.host ∈ ps := by assumption) (p_buf : Part.buf ∈ ps := by assumption) (p_que : Part.que ∈ ps := by assumption) (p_tele : Part.tele ∈ ps := by assumption) :
    Touches ps s (State.txStart x a1 a2) := by
  unfold State.txStart
  repeat' first
    | with_reducible assumption
    | intro _ _
    | intro _
    | with_reducible apply Touches.choose
    | with_reducible apply State.setTxList_touches
    | with_reducible apply State.txDue_touches
    | with_reducible apply State.putTx_touches
    | with_reducible apply State.departStart_touches
    | with_reducible apply State.txBegin_touches
    | split
    | dsimp only

theorem State.txBad_touches {ps s x} {a1 a2}
    (h : Touches ps s x) (p_regs : Part.regs ∈ ps := by assumption) (p_outbox : Part.outbox ∈ ps := by assumption) (p_flt : Part.flt ∈ ps := by assumption) (p_act : Part.act ∈ ps := by assumption) (p_host : Part.host ∈ ps := by assumption) (p_buf : Part.buf ∈ ps := by assumption) (p_que : Part.que ∈ ps := by assumption) (p_tele : Part.tele ∈ ps := by assumption) :
    Touches ps s (State.txBad x a1 a2) := by
  unfold State.txBad
  repeat' first
    | with_reducible assumption
    | intro _ _
    | intro _
    | with_reducible apply State.instEnd_touches
    | with_reducible apply State.txStomp_touches
    | with_reducible apply State.delTx_touches
    | split

theorem State.txUnderrun_touches {ps s x} {a1}
    (h : Touches ps s x) (p_regs : Part.regs ∈ ps := by assumption) (p_outbox : Part.outbox ∈ ps := by assumption) (p_flt : Part.flt ∈ ps := by assumption) (p_act : Part.act ∈ ps := by assumption) (p_host : Part.host ∈ ps := by assumption) (p_buf : Part.buf ∈ ps := by assumption) (p_que : Part.que ∈ ps := by assumption) (p_tele : Part.tele ∈ ps := by assumption) :
    Touches ps s (State.txUnderrun x a1) := by
  unfold State.txUnderrun
  repeat' first
    | with_reducible assumption
    | intro _ _
    | intro _
    | with_reducible apply State.inc_touches
    | with_reducible apply State.fault_touches
    | with_reducible apply State.txBad_touches
    | split

theorem State.txSent_touches {ps s x} {a1 a2}
    (h : Touches ps s x) (p_outbox : Part.outbox ∈ ps := by assumption) (p_act : Part.act ∈ ps := by assumption) (p_que : Part.que ∈ ps := by assumption) (p_tele : Part.tele ∈ ps := by assumption) :
    Touches ps s (State.txSent x a1 a2) := by
  unfold State.txSent
  repeat' first
    | with_reducible assumption
    | intro _ _
    | intro _
    | with_reducible apply State.emit_touches
    | with_reducible apply State.bwCount_touches
    | with_reducible apply State.delTx_touches

theorem State.txEnd_touches {ps s x} {a1 a2 a3 a4}
    (h : Touches ps s x) (p_regs : Part.regs ∈ ps := by assumption) (p_dev : Part.dev ∈ ps := by assumption) (p_draws : Part.draws ∈ ps := by assumption) (p_outbox : Part.outbox ∈ ps := by assumption) (p_flt : Part.flt ∈ ps := by assumption) (p_act : Part.act ∈ ps := by assumption) (p_host : Part.host ∈ ps := by assumption) (p_buf : Part.buf ∈ ps := by assumption) (p_que : Part.que ∈ ps := by assumption) (p_tele : Part.tele ∈ ps := by assumption) :
    Touches ps s (State.txEnd x a1 a2 a3 a4) := by
  unfold State.txEnd
  repeat' first
    | with_reducible assumption
    | intro _ _
    | intro _
    | with_reducible apply Touches.choose
    | with_reducible apply State.when_touches
    | with_reducible apply State.inc_touches
    | with_reducible apply State.when_touches
    | with_reducible apply State.instEnd_touches
    | with_reducible apply State.readFrame_touches
    | with_reducible apply State.ecnLate_touches
    | with_reducible apply State.departCards_touches
    | with_reducible apply State.txBad_touches
    | with_reducible apply State.txSent_touches

theorem State.txComplete_touches {ps s x} {a1 a2}
    (h : Touches ps s x) (p_regs : Part.regs ∈ ps := by assumption) (p_dev : Part.dev ∈ ps := by assumption) (p_draws : Part.draws ∈ ps := by assumption) (p_outbox : Part.outbox ∈ ps := by assumption) (p_flt : Part.flt ∈ ps := by assumption) (p_act : Part.act ∈ ps := by assumption) (p_host : Part.host ∈ ps := by assumption) (p_buf : Part.buf ∈ ps := by assumption) (p_que : Part.que ∈ ps := by assumption) (p_tele : Part.tele ∈ ps := by assumption) :
    Touches ps s (State.txComplete x a1 a2) := by
  unfold State.txComplete
  repeat' first
    | with_reducible assumption
    | intro _ _
    | intro _
    | with_reducible apply Touches.choose
    | with_reducible apply State.inc_touches
    | with_reducible apply State.txSent_touches
    | with_reducible apply State.txEnd_touches
    | split

theorem State.rxEntries_touches {ps s x r k f d n}
    (h : Touches ps s x) (p_regs : Part.regs ∈ ps := by assumption) (p_dev : Part.dev ∈ ps := by assumption) (p_outbox : Part.outbox ∈ ps := by assumption) (p_flt : Part.flt ∈ ps := by assumption) (p_host : Part.host ∈ ps := by assumption) :
    Touches ps s (State.rxEntries x r k f d n) := by
  induction n generalizing x k d with
  | zero => exact h
  | succ n ih => exact ih (State.ringComplete_touches (State.memStore_touches (State.memStore_touches h)))

theorem State.rxDeliver_touches {ps s x} {a1 a2 a3}
    (h : Touches ps s x) (p_regs : Part.regs ∈ ps := by assumption) (p_dev : Part.dev ∈ ps := by assumption) (p_outbox : Part.outbox ∈ ps := by assumption) (p_flt : Part.flt ∈ ps := by assumption) (p_host : Part.host ∈ ps := by assumption) :
    Touches ps s (State.rxDeliver x a1 a2 a3) := by
  unfold State.rxDeliver
  repeat' first
    | with_reducible assumption
    | intro _ _
    | intro _
    | with_reducible apply State.ringWatch_touches
    | with_reducible apply State.rxEntries_touches

theorem State.rxInst_touches {ps s x} {a1 a2 a3}
    (h : Touches ps s x) (p_regs : Part.regs ∈ ps := by assumption) (p_dev : Part.dev ∈ ps := by assumption) (p_draws : Part.draws ∈ ps := by assumption) (p_outbox : Part.outbox ∈ ps := by assumption) (p_flt : Part.flt ∈ ps := by assumption) (p_act : Part.act ∈ ps := by assumption) (p_host : Part.host ∈ ps := by assumption) (p_buf : Part.buf ∈ ps := by assumption) (p_tele : Part.tele ∈ ps := by assumption) :
    Touches ps s (State.rxInst x a1 a2 a3) := by
  unfold State.rxInst
  repeat' first
    | with_reducible assumption
    | intro _ _
    | intro _
    | with_reducible apply Touches.choose
    | with_reducible apply State.when_touches
    | with_reducible apply State.inc_touches
    | with_reducible apply State.when_touches
    | with_reducible apply State.instEnd_touches
    | with_reducible apply State.readFrame_touches
    | with_reducible apply State.departHead_touches
    | with_reducible apply State.egDiscard_touches
    | with_reducible apply State.take_touches
    | with_reducible apply State.departCards_touches
    | with_reducible apply State.rxDeliver_touches

theorem State.rxRingWrite_touches {ps s x} {a1 a2}
    (h : Touches ps s x) (p_regs : Part.regs ∈ ps := by assumption) (p_dev : Part.dev ∈ ps := by assumption) (p_draws : Part.draws ∈ ps := by assumption) (p_outbox : Part.outbox ∈ ps := by assumption) (p_flt : Part.flt ∈ ps := by assumption) (p_act : Part.act ∈ ps := by assumption) (p_host : Part.host ∈ ps := by assumption) (p_buf : Part.buf ∈ ps := by assumption) (p_que : Part.que ∈ ps := by assumption) (p_tele : Part.tele ∈ ps := by assumption) :
    Touches ps s (State.rxRingWrite x a1 a2) := by
  unfold State.rxRingWrite
  repeat' first
    | with_reducible assumption
    | intro _ _
    | intro _
    | with_reducible apply Touches.choose
    | with_reducible apply State.inc_touches
    | with_reducible apply State.draw_touches
    | with_reducible apply State.setTxList_touches
    | with_reducible apply State.take_touches
    | with_reducible apply State.departStart_touches
    | with_reducible apply State.rxDeliver_touches
    | with_reducible apply State.rxInst_touches
    | split
    | dsimp only

theorem State.rxStall_touches {ps s x} {a1}
    (h : Touches ps s x) (p_regs : Part.regs ∈ ps := by assumption) (p_flt : Part.flt ∈ ps := by assumption) (p_host : Part.host ∈ ps := by assumption) :
    Touches ps s (State.rxStall x a1) := by
  unfold State.rxStall
  repeat' first
    | with_reducible assumption
    | intro _ _
    | intro _
    | with_reducible apply Touches.choose
    | with_reducible apply State.setB_touches
    | with_reducible apply State.fault_touches
    | with_reducible apply State.ringWatch_touches
    | split
    | dsimp only

theorem State.txBack_touches {ps s x n st l}
    (h : Touches ps s x) (p_regs : Part.regs ∈ ps := by assumption) (p_dev : Part.dev ∈ ps := by assumption) (p_outbox : Part.outbox ∈ ps := by assumption) (p_flt : Part.flt ∈ ps := by assumption) (p_host : Part.host ∈ ps := by assumption) :
    Touches ps s (State.txBack x n st l) := by
  induction l generalizing x with
  | nil => exact h
  | cons b l ih => exact ih (State.ringComplete_touches h)

theorem State.txStore_touches {ps s x} {a1 a2 a3}
    (h : Touches ps s x) (p_regs : Part.regs ∈ ps := by assumption) (p_outbox : Part.outbox ∈ ps := by assumption) (p_flt : Part.flt ∈ ps := by assumption) (p_act : Part.act ∈ ps := by assumption) (p_host : Part.host ∈ ps := by assumption) (p_buf : Part.buf ∈ ps := by assumption) (p_pipe : Part.pipe ∈ ps := by assumption) (p_que : Part.que ∈ ps := by assumption) (p_tele : Part.tele ∈ ps := by assumption) :
    Touches ps s (State.txStore x a1 a2 a3).2 := by
  unfold State.txStore
  repeat' first
    | with_reducible assumption
    | intro _ _
    | intro _
    | with_reducible apply State.tally_touches
    | with_reducible apply State.xoffEval_touches
    | with_reducible apply State.refuse_touches
    | with_reducible apply State.fit_touches
    | refine State.chargeSegs_touchesE (by with_reducible assumption) ?_
    | refine State.fit_touchesE (by with_reducible assumption) ?_
    | refine State.grantRoom_touchesE (by with_reducible assumption) ?_
    | split
    | dsimp only
theorem State.txStore_touchesE {ps s x} {a1 a2 a3} {r0 t} (e : State.txStore x a1 a2 a3 = (r0, t))
    (h : Touches ps s x) (p_regs : Part.regs ∈ ps := by assumption) (p_outbox : Part.outbox ∈ ps := by assumption) (p_flt : Part.flt ∈ ps := by assumption) (p_act : Part.act ∈ ps := by assumption) (p_host : Part.host ∈ ps := by assumption) (p_buf : Part.buf ∈ ps := by assumption) (p_pipe : Part.pipe ∈ ps := by assumption) (p_que : Part.que ∈ ps := by assumption) (p_tele : Part.tele ∈ ps := by assumption) :
    Touches ps s t := by
  have k := State.txStore_touches (ps := ps) (s := s) (x := x) (a1 := a1) (a2 := a2) (a3 := a3) h
  rwa [e] at k

theorem State.txSend_touches {ps s x} {a1 a2 a3} (h : Touches ps s x) (p_buf : Part.buf ∈ ps := by assumption) :
    Touches ps s (State.txSend x a1 a2 a3) := by
  unfold State.txSend
  repeat' first
    | with_reducible assumption
    | intro _ _
    | intro _
    | with_reducible apply Touches.choose
    | with_reducible apply State.setCpuList_touches

theorem State.txTake_touches {ps s x} {a1}
    (h : Touches ps s x) (p_regs : Part.regs ∈ ps := by assumption) (p_dev : Part.dev ∈ ps := by assumption) (p_outbox : Part.outbox ∈ ps := by assumption) (p_flt : Part.flt ∈ ps := by assumption) (p_act : Part.act ∈ ps := by assumption) (p_host : Part.host ∈ ps := by assumption) (p_buf : Part.buf ∈ ps := by assumption) (p_pipe : Part.pipe ∈ ps := by assumption) (p_que : Part.que ∈ ps := by assumption) (p_tele : Part.tele ∈ ps := by assumption) :
    Touches ps s (State.txTake x a1) := by
  unfold State.txTake
  repeat' first
    | with_reducible assumption
    | intro _ _
    | intro _
    | with_reducible apply Touches.choose
    | with_reducible apply State.inc_touches
    | with_reducible apply State.txBack_touches
    | with_reducible apply State.txStore_touches
    | with_reducible apply State.txSend_touches
    | refine State.txStore_touchesE (by with_reducible assumption) ?_
    | split

theorem State.ringExamine_touches {ps s x} {a1}
    (h : Touches ps s x) (p_regs : Part.regs ∈ ps := by assumption) (p_dev : Part.dev ∈ ps := by assumption) (p_outbox : Part.outbox ∈ ps := by assumption) (p_flt : Part.flt ∈ ps := by assumption) (p_act : Part.act ∈ ps := by assumption) (p_host : Part.host ∈ ps := by assumption) (p_buf : Part.buf ∈ ps := by assumption) (p_pipe : Part.pipe ∈ ps := by assumption) (p_que : Part.que ∈ ps := by assumption) (p_tele : Part.tele ∈ ps := by assumption) :
    Touches ps s (State.ringExamine x a1) := by
  unfold State.ringExamine
  repeat' first
    | with_reducible assumption
    | intro _ _
    | intro _
    | with_reducible apply Touches.choose
    | with_reducible apply State.ringWatch_touches
    | with_reducible apply State.txTake_touches

theorem State.ringsPrompt_touches {ps s x} {a1 a2}
    (h : Touches ps s x) (p_regs : Part.regs ∈ ps := by assumption) (p_dev : Part.dev ∈ ps := by assumption) (p_outbox : Part.outbox ∈ ps := by assumption) (p_flt : Part.flt ∈ ps := by assumption) (p_act : Part.act ∈ ps := by assumption) (p_host : Part.host ∈ ps := by assumption) (p_buf : Part.buf ∈ ps := by assumption) (p_pipe : Part.pipe ∈ ps := by assumption) (p_que : Part.que ∈ ps := by assumption) (p_tele : Part.tele ∈ ps := by assumption) :
    Touches ps s (State.ringsPrompt x a1 a2) := by
  unfold State.ringsPrompt
  repeat' first
    | with_reducible assumption
    | intro _ _
    | intro _
    | with_reducible apply Touches.choose
    | with_reducible apply Touches.upTo
    | with_reducible apply State.ringExamine_touches

theorem State.bezelWrite_touches {ps s x} {a1 a2 a3}
    (h : Touches ps s x) (p_regs : Part.regs ∈ ps := by assumption) (p_dev : Part.dev ∈ ps := by assumption) (p_outbox : Part.outbox ∈ ps := by assumption) (p_flt : Part.flt ∈ ps := by assumption) (p_act : Part.act ∈ ps := by assumption) (p_host : Part.host ∈ ps := by assumption) (p_buf : Part.buf ∈ ps := by assumption) (p_pipe : Part.pipe ∈ ps := by assumption) (p_que : Part.que ∈ ps := by assumption) (p_tele : Part.tele ∈ ps := by assumption) :
    Touches ps s (State.bezelWrite x a1 a2 a3) := by
  unfold State.bezelWrite
  repeat' first
    | with_reducible assumption
    | intro _ _
    | intro _
    | with_reducible apply Touches.choose
    | with_reducible apply State.bezelStore_touches
    | with_reducible apply State.ringsPrompt_touches

theorem State.poisoned_touches {ps s x} {a1}
    (h : Touches ps s x) (p_regs : Part.regs ∈ ps := by assumption) (p_outbox : Part.outbox ∈ ps := by assumption) (p_flt : Part.flt ∈ ps := by assumption) (p_host : Part.host ∈ ps := by assumption) :
    Touches ps s (State.poisoned x a1) := by
  unfold State.poisoned
  repeat' first
    | with_reducible assumption
    | intro _ _
    | intro _
    | with_reducible apply Touches.choose
    | with_reducible apply State.hostEvent_touches
    | with_reducible apply State.fault_touches

end Sys2Proof.Machine
end

