-- ==== Sys2Proof/Laws/TouchesHost.lean ====
section
/-!
SUPPORT. What the operations of DMA and the image touch: one lemma for each.
-/
namespace Sys2Proof.Machine
set_option Elab.async false

/-! ### Machine/DeviceSpace.lean -/

theorem State.shaperBefore_touches {ps s x} {a1} (h : Touches ps s x) (p_que : Part.que ∈ ps := by assumption) :
    Touches ps s (State.shaperBefore x a1) := by
  unfold State.shaperBefore
  repeat' first
    | with_reducible assumption
    | intro _ _
    | intro _
    | with_reducible apply Touches.choose
    | with_reducible apply State.putBucket_touches
    | split
    | dsimp only
    | with_reducible apply Touches.upd
    | exact Or.inl (by assumption)
    | exact Or.inr rfl

theorem State.policerBefore_touches {ps s x} {a1} (h : Touches ps s x) (p_que : Part.que ∈ ps := by assumption) :
    Touches ps s (State.policerBefore x a1) := by
  unfold State.policerBefore
  repeat' first
    | with_reducible assumption
    | intro _ _
    | intro _
    | with_reducible apply Touches.choose
    | with_reducible apply State.putBucket_touches
    | split
    | dsimp only
    | with_reducible apply Touches.upd
    | exact Or.inl (by assumption)
    | exact Or.inr rfl

theorem State.pairDiscard_touches {ps s x} {a1} (h : Touches ps s x) (p_tele : Part.tele ∈ ps := by assumption) :
    Touches ps s (State.pairDiscard x a1) := by
  unfold State.pairDiscard
  repeat' first
    | with_reducible assumption
    | intro _ _
    | intro _
    | with_reducible apply Touches.upTo
    | with_reducible apply State.setDeltas_touches

theorem State.devCommit_touches {ps s x} {a1 a2}
    (h : Touches ps s x) (p_regs : Part.regs ∈ ps := by assumption) (p_dev : Part.dev ∈ ps := by assumption) (p_outbox : Part.outbox ∈ ps := by assumption) (p_flt : Part.flt ∈ ps := by assumption) (p_act : Part.act ∈ ps := by assumption) (p_host : Part.host ∈ ps := by assumption) (p_pipe : Part.pipe ∈ ps := by assumption) (p_que : Part.que ∈ ps := by assumption) (p_tele : Part.tele ∈ ps := by assumption) :
    Touches ps s (State.devCommit x a1 a2) := by
  unfold State.devCommit
  repeat' first
    | with_reducible assumption
    | intro _ _
    | intro _
    | with_reducible apply Touches.choose
    | with_reducible apply Touches.foldl
    | with_reducible apply Touches.foldl_snd
    | with_reducible apply Touches.foldl_fst
    | with_reducible apply Touches.foldl_third
    | with_reducible apply State.memStore_touches
    | with_reducible apply State.aseOp_touches
    | with_reducible apply State.take_touches
    | with_reducible apply State.shaperBefore_touches
    | with_reducible apply State.policerBefore_touches
    | with_reducible apply State.pairDiscard_touches
    | split

theorem State.devDeliver_touchesE {ps s x p a b t q} (e : State.devDeliver x p a b = .inl (t, q)) (h : Touches ps s x) (p_regs : Part.regs ∈ ps := by assumption) (p_dev : Part.dev ∈ ps := by assumption) (p_outbox : Part.outbox ∈ ps := by assumption) (p_flt : Part.flt ∈ ps := by assumption) (p_act : Part.act ∈ ps := by assumption) (p_host : Part.host ∈ ps := by assumption) (p_pipe : Part.pipe ∈ ps := by assumption) (p_que : Part.que ∈ ps := by assumption) (p_tele : Part.tele ∈ ps := by assumption) :
    Touches ps s t := by
  unfold State.devDeliver at e
  dsimp only at e
  split at e
  · cases e
  · split at e
    · cases e
    · split at e <;> cases e
      · exact State.devCommit_touches h
      · exact h

/-! ### Machine/Dma.lean -/

theorem State.dmaPut_touches {ps s x} {a1 a2} (h : Touches ps s x) (p_host : Part.host ∈ ps := by assumption) :
    Touches ps s (State.dmaPut x a1 a2) := by
  unfold State.dmaPut
  repeat' first
    | with_reducible assumption
    | intro _ _
    | intro _
    | split
    | dsimp only
    | with_reducible apply Touches.upd
    | exact Or.inl (by assumption)
    | exact Or.inr rfl

theorem State.dmaMessage_touches {ps s x} {a1}
    (h : Touches ps s x) (p_outbox : Part.outbox ∈ ps := by assumption) (p_host : Part.host ∈ ps := by assumption) :
    Touches ps s (State.dmaMessage x a1) := by
  unfold State.dmaMessage
  repeat' first
    | with_reducible assumption
    | intro _ _
    | intro _
    | with_reducible apply State.msixSend_touches

theorem State.dmaHalt_touches {ps s x} {a1 a2 a3}
    (h : Touches ps s x) (p_regs : Part.regs ∈ ps := by assumption) (p_outbox : Part.outbox ∈ ps := by assumption) (p_host : Part.host ∈ ps := by assumption) :
    Touches ps s (State.dmaHalt x a1 a2 a3) := by
  unfold State.dmaHalt
  repeat' first
    | with_reducible assumption
    | intro _ _
    | intro _
    | with_reducible apply State.set_touches
    | with_reducible apply State.setB_touches
    | with_reducible apply State.dmaPut_touches
    | with_reducible apply State.dmaMessage_touches

theorem State.dmaStart_touches {ps s x} {a1}
    (h : Touches ps s x) (p_regs : Part.regs ∈ ps := by assumption) (p_outbox : Part.outbox ∈ ps := by assumption) (p_host : Part.host ∈ ps := by assumption) :
    Touches ps s (State.dmaStart x a1) := by
  unfold State.dmaStart
  repeat' first
    | with_reducible assumption
    | intro _ _
    | intro _
    | with_reducible apply State.set_touches
    | with_reducible apply State.setB_touches
    | with_reducible apply State.dmaPut_touches
    | with_reducible apply State.dmaHalt_touches
    | split

theorem State.dmaHandover_touches {ps s x} {a1}
    (h : Touches ps s x) (p_regs : Part.regs ∈ ps := by assumption) (p_outbox : Part.outbox ∈ ps := by assumption) (p_host : Part.host ∈ ps := by assumption) :
    Touches ps s (State.dmaHandover x a1) := by
  unfold State.dmaHandover
  repeat' first
    | with_reducible assumption
    | intro _ _
    | intro _
    | with_reducible apply Touches.choose
    | with_reducible apply State.set_touches
    | with_reducible apply State.setB_touches
    | with_reducible apply State.inc_touches
    | with_reducible apply State.dmaStart_touches

theorem State.dmaGo_touches {ps s x} {a1}
    (h : Touches ps s x) (p_regs : Part.regs ∈ ps := by assumption) (p_outbox : Part.outbox ∈ ps := by assumption) (p_host : Part.host ∈ ps := by assumption) :
    Touches ps s (State.dmaGo x a1) := by
  unfold State.dmaGo
  repeat' first
    | with_reducible assumption
    | intro _ _
    | intro _
    | with_reducible apply Touches.choose
    | with_reducible apply State.setB_touches
    | with_reducible apply State.dmaStart_touches

theorem State.dmaAbort_touches {ps s x} {a1}
    (h : Touches ps s x) (p_regs : Part.regs ∈ ps := by assumption) (p_outbox : Part.outbox ∈ ps := by assumption) (p_host : Part.host ∈ ps := by assumption) :
    Touches ps s (State.dmaAbort x a1) := by
  unfold State.dmaAbort
  repeat' first
    | with_reducible assumption
    | intro _ _
    | intro _
    | with_reducible apply Touches.choose
    | with_reducible apply State.dmaHalt_touches

theorem State.dmaClearHalt_touches {ps s x} {a1}
    (h : Touches ps s x) (p_regs : Part.regs ∈ ps := by assumption) (p_outbox : Part.outbox ∈ ps := by assumption) (p_host : Part.host ∈ ps := by assumption) :
    Touches ps s (State.dmaClearHalt x a1) := by
  unfold State.dmaClearHalt
  repeat' first
    | with_reducible assumption
    | intro _ _
    | intro _
    | with_reducible apply Touches.choose
    | with_reducible apply State.set_touches
    | with_reducible apply State.dmaHandover_touches

theorem State.shadowArm_touches {ps s x} {a1}
    (h : Touches ps s x) (p_regs : Part.regs ∈ ps := by assumption) (p_outbox : Part.outbox ∈ ps := by assumption) (p_host : Part.host ∈ ps := by assumption) :
    Touches ps s (State.shadowArm x a1) := by
  unfold State.shadowArm
  repeat' first
    | with_reducible assumption
    | intro _ _
    | intro _
    | with_reducible apply Touches.choose
    | with_reducible apply State.setB_touches
    | with_reducible apply State.dmaHandover_touches

theorem shadowWord_touches {ps s x} {a1 a2 a3}
    (h : Touches ps s x) (p_regs : Part.regs ∈ ps := by assumption) (p_host : Part.host ∈ ps := by assumption) :
    Touches ps s (shadowWord x a1 a2 a3) := by
  unfold shadowWord
  repeat' first
    | with_reducible assumption
    | intro _ _
    | intro _
    | with_reducible apply Touches.choose
    | with_reducible apply State.set_touches
    | with_reducible apply State.setB_touches
    | split
    | dsimp only
    | with_reducible apply Touches.upd
    | exact Or.inl (by assumption)
    | exact Or.inr rfl

theorem State.dmaFlush_touches {ps s x} {a1}
    (h : Touches ps s x) (p_outbox : Part.outbox ∈ ps := by assumption) (p_host : Part.host ∈ ps := by assumption) :
    Touches ps s (State.dmaFlush x a1) := by
  unfold State.dmaFlush
  repeat' first
    | with_reducible assumption
    | intro _ _
    | intro _
    | with_reducible apply Touches.foldl
    | with_reducible apply Touches.foldl_snd
    | with_reducible apply Touches.foldl_fst
    | with_reducible apply Touches.foldl_third
    | with_reducible apply State.emit_touches
    | with_reducible apply State.dmaPut_touches
    | split

theorem State.dmaGather_touches {ps s x} {a1 a2 a3}
    (h : Touches ps s x) (p_outbox : Part.outbox ∈ ps := by assumption) (p_host : Part.host ∈ ps := by assumption) :
    Touches ps s (State.dmaGather x a1 a2 a3) := by
  unfold State.dmaGather
  repeat' first
    | with_reducible assumption
    | intro _ _
    | intro _
    | with_reducible apply Touches.choose
    | with_reducible apply State.dmaPut_touches
    | with_reducible apply State.dmaFlush_touches
    | split

theorem State.dmaUnits_touches {ps s x c p l}
    (h : Touches ps s x) (p_regs : Part.regs ∈ ps := by assumption) (p_dev : Part.dev ∈ ps := by assumption) (p_outbox : Part.outbox ∈ ps := by assumption) (p_flt : Part.flt ∈ ps := by assumption) (p_act : Part.act ∈ ps := by assumption) (p_host : Part.host ∈ ps := by assumption) (p_pipe : Part.pipe ∈ ps := by assumption) (p_que : Part.que ∈ ps := by assumption) (p_tele : Part.tele ∈ ps := by assumption) :
    Touches ps s (State.dmaUnits x c p l).1 := by
  induction l generalizing x p with
  | nil => exact h
  | cons b l ih =>
    simp only [State.dmaUnits]
    split
    · exact ih (State.dmaPut_touches (State.devDeliver_touchesE (by assumption) h))
    · exact h

theorem State.dmaDeliver_touches {ps s x} {a1 a2 a3}
    (h : Touches ps s x) (p_regs : Part.regs ∈ ps := by assumption) (p_dev : Part.dev ∈ ps := by assumption) (p_outbox : Part.outbox ∈ ps := by assumption) (p_flt : Part.flt ∈ ps := by assumption) (p_act : Part.act ∈ ps := by assumption) (p_host : Part.host ∈ ps := by assumption) (p_pipe : Part.pipe ∈ ps := by assumption) (p_que : Part.que ∈ ps := by assumption) (p_tele : Part.tele ∈ ps := by assumption) :
    Touches ps s (State.dmaDeliver x a1 a2 a3).1 := by
  unfold State.dmaDeliver
  repeat' first
    | with_reducible assumption
    | intro _ _
    | intro _
    | with_reducible apply Touches.choose
    | with_reducible apply State.dmaGather_touches
    | with_reducible apply State.dmaUnits_touches
    | split
    | dsimp only
theorem State.dmaDeliver_touchesE {ps s x} {a1 a2 a3} {t r1} (e : State.dmaDeliver x a1 a2 a3 = (t, r1))
    (h : Touches ps s x) (p_regs : Part.regs ∈ ps := by assumption) (p_dev : Part.dev ∈ ps := by assumption) (p_outbox : Part.outbox ∈ ps := by assumption) (p_flt : Part.flt ∈ ps := by assumption) (p_act : Part.act ∈ ps := by assumption) (p_host : Part.host ∈ ps := by assumption) (p_pipe : Part.pipe ∈ ps := by assumption) (p_que : Part.que ∈ ps := by assumption) (p_tele : Part.tele ∈ ps := by assumption) :
    Touches ps s t := by
  have k := State.dmaDeliver_touches (ps := ps) (s := s) (x := x) (a1 := a1) (a2 := a2) (a3 := a3) h
  rwa [e] at k

theorem State.dmaHalf_touches {ps s x} {a1}
    (h : Touches ps s x) (p_regs : Part.regs ∈ ps := by assumption) (p_outbox : Part.outbox ∈ ps := by assumption) (p_host : Part.host ∈ ps := by assumption) :
    Touches ps s (State.dmaHalf x a1) := by
  unfold State.dmaHalf
  repeat' first
    | with_reducible assumption
    | intro _ _
    | intro _
    | with_reducible apply Touches.choose
    | with_reducible apply State.setB_touches
    | with_reducible apply State.dmaMessage_touches
    | with_reducible apply State.dmaFlush_touches

theorem State.dmaMove_touches {ps s x c i d n}
    (h : Touches ps s x) (p_regs : Part.regs ∈ ps := by assumption) (p_dev : Part.dev ∈ ps := by assumption) (p_outbox : Part.outbox ∈ ps := by assumption) (p_flt : Part.flt ∈ ps := by assumption) (p_act : Part.act ∈ ps := by assumption) (p_host : Part.host ∈ ps := by assumption) (p_pipe : Part.pipe ∈ ps := by assumption) (p_que : Part.que ∈ ps := by assumption) (p_tele : Part.tele ∈ ps := by assumption) :
    Touches ps s (State.dmaMove x c i d n) := by
  induction n generalizing x i with
  | zero => exact h
  | succ n ih =>
    simp only [State.dmaMove]
    split
    · exact h
    · split
      · exact State.dmaHalt_touches (State.set_touches (State.dmaFlush_touches h))
      · split
        · exact State.dmaHalt_touches (State.set_touches (State.dmaDeliver_touchesE (by assumption) h))
        · exact ih (State.dmaHalf_touches (State.dmaPut_touches (State.dmaDeliver_touchesE (by assumption) h)))

theorem State.dmaPrompt_touches {ps s x} {a1}
    (h : Touches ps s x) (p_regs : Part.regs ∈ ps := by assumption) (p_dev : Part.dev ∈ ps := by assumption) (p_outbox : Part.outbox ∈ ps := by assumption) (p_flt : Part.flt ∈ ps := by assumption) (p_act : Part.act ∈ ps := by assumption) (p_host : Part.host ∈ ps := by assumption) (p_buf : Part.buf ∈ ps := by assumption) (p_pipe : Part.pipe ∈ ps := by assumption) (p_que : Part.que ∈ ps := by assumption) (p_tele : Part.tele ∈ ps := by assumption) :
    Touches ps s (State.dmaPrompt x a1) := by
  unfold State.dmaPrompt
  repeat' first
    | with_reducible assumption
    | intro _ _
    | intro _
    | with_reducible apply Touches.choose
    | with_reducible apply State.ringsPrompt_touches

theorem State.dmaBurst_touches {ps s x} {a1 a2}
    (h : Touches ps s x) (p_regs : Part.regs ∈ ps := by assumption) (p_dev : Part.dev ∈ ps := by assumption) (p_outbox : Part.outbox ∈ ps := by assumption) (p_flt : Part.flt ∈ ps := by assumption) (p_act : Part.act ∈ ps := by assumption) (p_host : Part.host ∈ ps := by assumption) (p_buf : Part.buf ∈ ps := by assumption) (p_pipe : Part.pipe ∈ ps := by assumption) (p_que : Part.que ∈ ps := by assumption) (p_tele : Part.tele ∈ ps := by assumption) :
    Touches ps s (State.dmaBurst x a1 a2) := by
  unfold State.dmaBurst
  repeat' first
    | with_reducible assumption
    | intro _ _
    | intro _
    | with_reducible apply Touches.choose
    | with_reducible apply State.dmaPut_touches
    | with_reducible apply State.dmaHalt_touches
    | with_reducible apply State.dmaFlush_touches
    | with_reducible apply State.dmaMove_touches
    | with_reducible apply State.dmaPrompt_touches
    | split
    | dsimp only
    | with_reducible apply Touches.upd
    | exact Or.inl (by assumption)
    | exact Or.inr rfl

theorem State.dmaReadback_touches {ps s x} {a1 a2}
    (h : Touches ps s x) (p_regs : Part.regs ∈ ps := by assumption) (p_outbox : Part.outbox ∈ ps := by assumption) (p_host : Part.host ∈ ps := by assumption) :
    Touches ps s (State.dmaReadback x a1 a2) := by
  unfold State.dmaReadback
  repeat' first
    | with_reducible assumption
    | intro _ _
    | intro _
    | with_reducible apply Touches.choose
    | with_reducible apply State.when_touches
    | with_reducible apply State.set_touches
    | with_reducible apply State.setB_touches
    | with_reducible apply State.when_touches
    | with_reducible apply State.dmaPut_touches
    | with_reducible apply State.dmaMessage_touches
    | with_reducible apply State.dmaHalt_touches
    | with_reducible apply State.dmaHandover_touches

theorem State.dmaLinkEnd_touches {ps s x} {a1}
    (h : Touches ps s x) (p_regs : Part.regs ∈ ps := by assumption) (p_outbox : Part.outbox ∈ ps := by assumption) (p_host : Part.host ∈ ps := by assumption) :
    Touches ps s (State.dmaLinkEnd x a1) := by
  unfold State.dmaLinkEnd
  repeat' first
    | with_reducible assumption
    | intro _ _
    | intro _
    | with_reducible apply Touches.choose
    | with_reducible apply Touches.upTo
    | with_reducible apply State.dmaHalt_touches

/-! ### Machine/ImageApply.lean -/

theorem State.fill_touches {ps s x} {a1 a2}
    (h : Touches ps s x) (p_dev : Part.dev ∈ ps := by assumption) (p_flt : Part.flt ∈ ps := by assumption) :
    Touches ps s (State.fill x a1 a2) := by
  unfold State.fill
  repeat' first
    | with_reducible assumption
    | intro _ _
    | intro _
    | with_reducible apply State.memStore_touches

theorem State.fillArea_touches {ps s x} {a1 a2 a3}
    (h : Touches ps s x) (p_dev : Part.dev ∈ ps := by assumption) (p_flt : Part.flt ∈ ps := by assumption) :
    Touches ps s (State.fillArea x a1 a2 a3) := by
  unfold State.fillArea
  repeat' first
    | with_reducible assumption
    | intro _ _
    | intro _
    | with_reducible apply State.injTake_touches
    | with_reducible apply State.memZero_touches
    | with_reducible apply State.fill_touches

theorem State.copyRange_touches {ps s x} {a1 a2 a3}
    (h : Touches ps s x) (p_dev : Part.dev ∈ ps := by assumption) (p_flt : Part.flt ∈ ps := by assumption) :
    Touches ps s (State.copyRange x a1 a2 a3) := by
  unfold State.copyRange
  repeat' first
    | with_reducible assumption
    | intro _ _
    | intro _
    | with_reducible apply Touches.foldl
    | with_reducible apply Touches.foldl_snd
    | with_reducible apply Touches.foldl_fst
    | with_reducible apply Touches.foldl_third
    | with_reducible apply State.injTake_touches
    | with_reducible apply State.memZero_touches
    | split
    | dsimp only
    | with_reducible apply Touches.upd
    | exact Or.inl (by assumption)
    | exact Or.inr rfl

theorem State.loadStop_touches {ps s x} {a1}
    (h : Touches ps s x) (p_regs : Part.regs ∈ ps := by assumption) (p_dev : Part.dev ∈ ps := by assumption) (p_draws : Part.draws ∈ ps := by assumption) (p_outbox : Part.outbox ∈ ps := by assumption) (p_flt : Part.flt ∈ ps := by assumption) (p_act : Part.act ∈ ps := by assumption) (p_host : Part.host ∈ ps := by assumption) (p_img : Part.img ∈ ps := by assumption) (p_buf : Part.buf ∈ ps := by assumption) (p_pipe : Part.pipe ∈ ps := by assumption) (p_que : Part.que ∈ ps := by assumption) (p_tele : Part.tele ∈ ps := by assumption) :
    Touches ps s (State.loadStop x a1) := by
  unfold State.loadStop
  repeat' first
    | with_reducible assumption
    | intro _ _
    | intro _
    | with_reducible apply Touches.foldl
    | with_reducible apply Touches.foldl_snd
    | with_reducible apply Touches.foldl_fst
    | with_reducible apply Touches.foldl_third
    | with_reducible apply State.set_touches
    | with_reducible apply State.setB_touches
    | with_reducible apply State.add_touches
    | with_reducible apply State.ringsStop_touches
    | with_reducible apply State.discardPackets_touches
    | with_reducible apply State.allLines_touches
    | with_reducible apply State.portDown_touches
    | with_reducible apply State.txComplete_touches
    | refine State.discardPackets_touchesE (by with_reducible assumption) ?_
    | split
    | dsimp only
    | with_reducible apply Touches.upd
    | exact Or.inl (by assumption)
    | exact Or.inr rfl

theorem State.portWindowsClear_touches {ps s x} {a1} (h : Touches ps s x) (p_regs : Part.regs ∈ ps := by assumption) :
    Touches ps s (State.portWindowsClear x a1) := by
  unfold State.portWindowsClear
  repeat' first
    | with_reducible assumption
    | intro _ _
    | intro _
    | split
    | dsimp only
    | with_reducible apply Touches.upd
    | exact Or.inl (by assumption)
    | exact Or.inr rfl

theorem State.loadClear_touches {ps s x}
    (h : Touches ps s x) (p_regs : Part.regs ∈ ps := by assumption) (p_dev : Part.dev ∈ ps := by assumption) (p_flt : Part.flt ∈ ps := by assumption) (p_anvil : Part.anvil ∈ ps := by assumption) (p_buf : Part.buf ∈ ps := by assumption) (p_pipe : Part.pipe ∈ ps := by assumption) (p_que : Part.que ∈ ps := by assumption) (p_tele : Part.tele ∈ ps := by assumption) :
    Touches ps s (State.loadClear x) := by
  unfold State.loadClear
  repeat' first
    | with_reducible assumption
    | intro _ _
    | intro _
    | with_reducible apply State.memZero_touches
    | with_reducible apply State.link_touches
    | split
    | dsimp only
    | with_reducible apply Touches.upd
    | exact Or.inl (by assumption)
    | exact Or.inr rfl

theorem State.portFresh_touches {ps s x} {a1} (h : Touches ps s x) (p_regs : Part.regs ∈ ps := by assumption) :
    Touches ps s (State.portFresh x a1) := by
  unfold State.portFresh
  repeat' first
    | with_reducible assumption
    | intro _ _
    | intro _
    | with_reducible apply State.when_touches
    | with_reducible apply State.set_touches
    | with_reducible apply State.setB_touches

theorem State.portsApply_touches {ps s x} (h : Touches ps s x) (p_regs : Part.regs ∈ ps := by assumption) :
    Touches ps s (State.portsApply x) := by
  unfold State.portsApply
  repeat' first
    | with_reducible assumption
    | intro _ _
    | intro _
    | with_reducible apply Touches.choose
    | with_reducible apply Touches.foldl
    | with_reducible apply Touches.foldl_snd
    | with_reducible apply Touches.foldl_fst
    | with_reducible apply Touches.foldl_third
    | with_reducible apply State.portFresh_touches

theorem State.parseApply_touches {ps s x} {a1} (h : Touches ps s x) (p_regs : Part.regs ∈ ps := by assumption) :
    Touches ps s (State.parseApply x a1) := by
  unfold State.parseApply
  repeat' first
    | with_reducible assumption
    | intro _ _
    | intro _
    | with_reducible apply Touches.foldl
    | with_reducible apply Touches.foldl_snd
    | with_reducible apply Touches.foldl_fst
    | with_reducible apply Touches.foldl_third
    | with_reducible apply Touches.upTo
    | with_reducible apply State.set_touches

theorem State.emApply_touches {ps s x} (h : Touches ps s x) (p_regs : Part.regs ∈ ps := by assumption) :
    Touches ps s (State.emApply x) := by
  unfold State.emApply
  repeat' first
    | with_reducible assumption
    | intro _ _
    | intro _
    | with_reducible apply Touches.upTo
    | with_reducible apply State.set_touches

theorem State.aseApply_touches {ps s x} (h : Touches ps s x) (p_regs : Part.regs ∈ ps := by assumption) :
    Touches ps s (State.aseApply x) := by
  unfold State.aseApply
  repeat' first
    | with_reducible assumption
    | intro _ _
    | intro _
    | with_reducible apply Touches.choose
    | with_reducible apply Touches.upTo
    | with_reducible apply State.set_touches
    | with_reducible apply State.setB_touches

theorem State.filApply_touches {ps s x} (h : Touches ps s x) (p_regs : Part.regs ∈ ps := by assumption) :
    Touches ps s (State.filApply x) := by
  unfold State.filApply
  repeat' first
    | with_reducible assumption
    | intro _ _
    | intro _
    | with_reducible apply Touches.choose
    | with_reducible apply Touches.upTo
    | with_reducible apply State.set_touches
    | with_reducible apply State.setB_touches

theorem State.stagesApply_touches {ps s x} (h : Touches ps s x) (p_regs : Part.regs ∈ ps := by assumption) :
    Touches ps s (State.stagesApply x) := by
  unfold State.stagesApply
  repeat' first
    | with_reducible assumption
    | intro _ _
    | intro _
    | with_reducible apply Touches.upTo
    | with_reducible apply State.set_touches

theorem State.programWrite_touches {ps s x} {a1 a2}
    (h : Touches ps s x) (p_dev : Part.dev ∈ ps := by assumption) (p_flt : Part.flt ∈ ps := by assumption) :
    Touches ps s (State.programWrite x a1 a2) := by
  unfold State.programWrite
  repeat' first
    | with_reducible assumption
    | intro _ _
    | intro _
    | with_reducible apply Touches.upTo
    | with_reducible apply State.fill_touches

theorem State.dataWrite_touches {ps s x} {a1 a2}
    (h : Touches ps s x) (p_dev : Part.dev ∈ ps := by assumption) (p_flt : Part.flt ∈ ps := by assumption) :
    Touches ps s (State.dataWrite x a1 a2) := by
  unfold State.dataWrite
  repeat' first
    | with_reducible assumption
    | intro _ _
    | intro _
    | with_reducible apply State.fillArea_touches

theorem State.treesWrite_touches {ps s x} {a1 a2}
    (h : Touches ps s x) (p_dev : Part.dev ∈ ps := by assumption) (p_flt : Part.flt ∈ ps := by assumption) (p_pipe : Part.pipe ∈ ps := by assumption) :
    Touches ps s (State.treesWrite x a1 a2) := by
  unfold State.treesWrite
  repeat' first
    | with_reducible assumption
    | intro _ _
    | intro _
    | with_reducible apply Touches.upTo
    | with_reducible apply State.fillArea_touches
    | split
    | dsimp only
    | with_reducible apply Touches.upd
    | exact Or.inl (by assumption)
    | exact Or.inr rfl

theorem State.programCopy_touches {ps s x} {a1}
    (h : Touches ps s x) (p_dev : Part.dev ∈ ps := by assumption) (p_flt : Part.flt ∈ ps := by assumption) :
    Touches ps s (State.programCopy x a1) := by
  unfold State.programCopy
  repeat' first
    | with_reducible assumption
    | intro _ _
    | intro _
    | with_reducible apply Touches.upTo
    | with_reducible apply State.copyRange_touches

theorem State.dataCopy_touches {ps s x} {a1}
    (h : Touches ps s x) (p_dev : Part.dev ∈ ps := by assumption) (p_flt : Part.flt ∈ ps := by assumption) :
    Touches ps s (State.dataCopy x a1) := by
  unfold State.dataCopy
  repeat' first
    | with_reducible assumption
    | intro _ _
    | intro _
    | with_reducible apply State.copyRange_touches

theorem State.treesCopy_touches {ps s x} {a1}
    (h : Touches ps s x) (p_dev : Part.dev ∈ ps := by assumption) (p_flt : Part.flt ∈ ps := by assumption) (p_pipe : Part.pipe ∈ ps := by assumption) :
    Touches ps s (State.treesCopy x a1) := by
  unfold State.treesCopy
  repeat' first
    | with_reducible assumption
    | intro _ _
    | intro _
    | with_reducible apply Touches.upTo
    | with_reducible apply State.copyRange_touches
    | split
    | dsimp only
    | with_reducible apply Touches.upd
    | exact Or.inl (by assumption)
    | exact Or.inr rfl

theorem State.updateWrite_touches {ps s x} {a1 a2}
    (h : Touches ps s x) (p_dev : Part.dev ∈ ps := by assumption) (p_flt : Part.flt ∈ ps := by assumption) (p_pipe : Part.pipe ∈ ps := by assumption) :
    Touches ps s (State.updateWrite x a1 a2) := by
  unfold State.updateWrite
  repeat' first
    | with_reducible assumption
    | intro _ _
    | intro _
    | with_reducible apply State.programWrite_touches
    | with_reducible apply State.dataWrite_touches
    | with_reducible apply State.treesWrite_touches
    | with_reducible apply State.programCopy_touches
    | with_reducible apply State.dataCopy_touches
    | with_reducible apply State.treesCopy_touches
    | split

theorem State.poolsApply_touches {ps s x} (h : Touches ps s x) (p_regs : Part.regs ∈ ps := by assumption) :
    Touches ps s (State.poolsApply x) := by
  unfold State.poolsApply
  repeat' first
    | with_reducible assumption
    | intro _ _
    | intro _
    | with_reducible apply Touches.foldl
    | with_reducible apply Touches.foldl_snd
    | with_reducible apply Touches.foldl_fst
    | with_reducible apply Touches.foldl_third
    | with_reducible apply Touches.upTo
    | with_reducible apply State.set_touches

theorem State.reqsApply_touches {ps s x}
    (h : Touches ps s x) (p_regs : Part.regs ∈ ps := by assumption) (p_outbox : Part.outbox ∈ ps := by assumption) (p_act : Part.act ∈ ps := by assumption) (p_host : Part.host ∈ ps := by assumption) (p_buf : Part.buf ∈ ps := by assumption) :
    Touches ps s (State.reqsApply x) := by
  unfold State.reqsApply
  repeat' first
    | with_reducible assumption
    | intro _ _
    | intro _
    | with_reducible apply State.xoffEval_touches
    | split
    | dsimp only
    | with_reducible apply Touches.upd
    | exact Or.inl (by assumption)
    | exact Or.inr rfl

theorem State.queuesApply_touches {ps s x}
    (h : Touches ps s x) (p_dev : Part.dev ∈ ps := by assumption) (p_flt : Part.flt ∈ ps := by assumption) :
    Touches ps s (State.queuesApply x) := by
  unfold State.queuesApply
  repeat' first
    | with_reducible assumption
    | intro _ _
    | intro _
    | with_reducible apply Touches.foldl
    | with_reducible apply Touches.foldl_snd
    | with_reducible apply Touches.foldl_fst
    | with_reducible apply Touches.foldl_third
    | with_reducible apply State.fill_touches

theorem State.teleApply_touches {ps s x} (h : Touches ps s x) (p_regs : Part.regs ∈ ps := by assumption) :
    Touches ps s (State.teleApply x) := by
  unfold State.teleApply
  repeat' first
    | with_reducible assumption
    | intro _ _
    | intro _
    | with_reducible apply State.set_touches

theorem State.hostApply_touches {ps s x} (h : Touches ps s x) (p_regs : Part.regs ∈ ps := by assumption) :
    Touches ps s (State.hostApply x) := by
  unfold State.hostApply
  repeat' first
    | with_reducible assumption
    | intro _ _
    | intro _
    | with_reducible apply Touches.choose
    | with_reducible apply Touches.upTo
    | with_reducible apply State.set_touches

theorem State.initEm_touches {ps s x} {a1}
    (h : Touches ps s x) (p_regs : Part.regs ∈ ps := by assumption) (p_dev : Part.dev ∈ ps := by assumption) (p_outbox : Part.outbox ∈ ps := by assumption) (p_flt : Part.flt ∈ ps := by assumption) (p_act : Part.act ∈ ps := by assumption) (p_host : Part.host ∈ ps := by assumption) :
    Touches ps s (State.initEm x a1) := by
  unfold State.initEm
  repeat' first
    | with_reducible assumption
    | intro _ _
    | intro _
    | with_reducible apply Touches.upTo
    | with_reducible apply State.emInsert_touches

theorem State.initAse_touches {ps s x} {a1}
    (h : Touches ps s x) (p_dev : Part.dev ∈ ps := by assumption) (p_flt : Part.flt ∈ ps := by assumption) :
    Touches ps s (State.initAse x a1) := by
  unfold State.initAse
  repeat' first
    | with_reducible assumption
    | intro _ _
    | intro _
    | with_reducible apply Touches.choose
    | with_reducible apply Touches.upTo
    | with_reducible apply State.take_touches
    | with_reducible apply State.fill_touches

theorem State.initDirect_touches {ps s x} {a1}
    (h : Touches ps s x) (p_dev : Part.dev ∈ ps := by assumption) (p_flt : Part.flt ∈ ps := by assumption) :
    Touches ps s (State.initDirect x a1) := by
  unfold State.initDirect
  repeat' first
    | with_reducible assumption
    | intro _ _
    | intro _
    | with_reducible apply Touches.foldl
    | with_reducible apply Touches.foldl_snd
    | with_reducible apply Touches.foldl_fst
    | with_reducible apply Touches.foldl_third
    | with_reducible apply State.fill_touches

theorem State.initApply_touches {ps s x}
    (h : Touches ps s x) (p_regs : Part.regs ∈ ps := by assumption) (p_dev : Part.dev ∈ ps := by assumption) (p_outbox : Part.outbox ∈ ps := by assumption) (p_flt : Part.flt ∈ ps := by assumption) (p_act : Part.act ∈ ps := by assumption) (p_host : Part.host ∈ ps := by assumption) :
    Touches ps s (State.initApply x) := by
  unfold State.initApply
  repeat' first
    | with_reducible assumption
    | intro _ _
    | intro _
    | with_reducible apply Touches.choose
    | with_reducible apply Touches.foldl
    | with_reducible apply Touches.foldl_snd
    | with_reducible apply Touches.foldl_fst
    | with_reducible apply Touches.foldl_third
    | with_reducible apply State.initEm_touches
    | with_reducible apply State.initAse_touches
    | with_reducible apply State.initDirect_touches

theorem State.runShow_touches {ps s x} {a1 a2} (h : Touches ps s x) (p_regs : Part.regs ∈ ps := by assumption) :
    Touches ps s (State.runShow x a1 a2) := by
  unfold State.runShow
  repeat' first
    | with_reducible assumption
    | intro _ _
    | intro _
    | with_reducible apply Touches.upTo
    | with_reducible apply State.set_touches
    | with_reducible apply State.setB_touches

theorem State.loadApply_touches {ps s x} {a1 a2}
    (h : Touches ps s x) (p_regs : Part.regs ∈ ps := by assumption) (p_dev : Part.dev ∈ ps := by assumption) (p_outbox : Part.outbox ∈ ps := by assumption) (p_time : Part.time ∈ ps := by assumption) (p_flt : Part.flt ∈ ps := by assumption) (p_act : Part.act ∈ ps := by assumption) (p_anvil : Part.anvil ∈ ps := by assumption) (p_host : Part.host ∈ ps := by assumption) (p_img : Part.img ∈ ps := by assumption) (p_buf : Part.buf ∈ ps := by assumption) (p_pipe : Part.pipe ∈ ps := by assumption) (p_que : Part.que ∈ ps := by assumption) (p_tele : Part.tele ∈ ps := by assumption) :
    Touches ps s (State.loadApply x a1 a2) := by
  unfold State.loadApply
  repeat' first
    | with_reducible assumption
    | intro _ _
    | intro _
    | with_reducible apply Touches.upTo
    | with_reducible apply State.applyAnvil_touches
    | with_reducible apply State.filShow_touches
    | with_reducible apply State.allLines_touches
    | with_reducible apply State.synceUpdate_touches
    | with_reducible apply State.portWindowsClear_touches
    | with_reducible apply State.loadClear_touches
    | with_reducible apply State.portsApply_touches
    | with_reducible apply State.parseApply_touches
    | with_reducible apply State.emApply_touches
    | with_reducible apply State.aseApply_touches
    | with_reducible apply State.filApply_touches
    | with_reducible apply State.stagesApply_touches
    | with_reducible apply State.programWrite_touches
    | with_reducible apply State.dataWrite_touches
    | with_reducible apply State.treesWrite_touches
    | with_reducible apply State.poolsApply_touches
    | with_reducible apply State.reqsApply_touches
    | with_reducible apply State.queuesApply_touches
    | with_reducible apply State.teleApply_touches
    | with_reducible apply State.hostApply_touches
    | with_reducible apply State.initApply_touches
    | with_reducible apply State.runShow_touches
    | split
    | dsimp only
    | with_reducible apply Touches.upd
    | exact Or.inl (by assumption)
    | exact Or.inr rfl

/-! ### Machine/Image.lean -/

theorem State.imgShow_touches {ps s x} {a1}
    (h : Touches ps s x) (p_regs : Part.regs ∈ ps := by assumption) (p_flt : Part.flt ∈ ps := by assumption) :
    Touches ps s (State.imgShow x a1) := by
  unfold State.imgShow
  repeat' first
    | with_reducible assumption
    | intro _ _
    | intro _
    | with_reducible apply State.when_touches
    | with_reducible apply State.set_touches
    | with_reducible apply State.when_touches
    | with_reducible apply State.fault_touches

theorem State.imgReport_touches {ps s x} {a1 a2}
    (h : Touches ps s x) (p_regs : Part.regs ∈ ps := by assumption) (p_outbox : Part.outbox ∈ ps := by assumption) (p_flt : Part.flt ∈ ps := by assumption) (p_host : Part.host ∈ ps := by assumption) :
    Touches ps s (State.imgReport x a1 a2) := by
  unfold State.imgReport
  repeat' first
    | with_reducible assumption
    | intro _ _
    | intro _
    | with_reducible apply State.set_touches
    | with_reducible apply State.event_touches
    | with_reducible apply State.imgShow_touches

theorem State.imgEnd_touches {ps s x} {a1}
    (h : Touches ps s x) (p_regs : Part.regs ∈ ps := by assumption) (p_outbox : Part.outbox ∈ ps := by assumption) (p_flt : Part.flt ∈ ps := by assumption) (p_host : Part.host ∈ ps := by assumption) (p_img : Part.img ∈ ps := by assumption) :
    Touches ps s (State.imgEnd x a1) := by
  unfold State.imgEnd
  repeat' first
    | with_reducible assumption
    | intro _ _
    | intro _
    | with_reducible apply Touches.choose
    | with_reducible apply State.set_touches
    | with_reducible apply State.imgReport_touches
    | split
    | dsimp only
    | with_reducible apply Touches.upd
    | exact Or.inl (by assumption)
    | exact Or.inr rfl

theorem State.imgStart_touches {ps s x} {a1 a2 a3}
    (h : Touches ps s x) (p_regs : Part.regs ∈ ps := by assumption) (p_img : Part.img ∈ ps := by assumption) :
    Touches ps s (State.imgStart x a1 a2 a3) := by
  unfold State.imgStart
  repeat' first
    | with_reducible assumption
    | intro _ _
    | intro _
    | with_reducible apply State.set_touches
    | split
    | dsimp only
    | with_reducible apply Touches.upd
    | exact Or.inl (by assumption)
    | exact Or.inr rfl

theorem State.bankInvalidate_touches {ps s x} {a1 a2}
    (h : Touches ps s x) (p_regs : Part.regs ∈ ps := by assumption) (p_dev : Part.dev ∈ ps := by assumption) (p_flt : Part.flt ∈ ps := by assumption) (p_anvil : Part.anvil ∈ ps := by assumption) :
    Touches ps s (State.bankInvalidate x a1 a2) := by
  unfold State.bankInvalidate
  repeat' first
    | with_reducible assumption
    | intro _ _
    | intro _
    | with_reducible apply State.commitWrite_touches

theorem State.imgCommand_touches {ps s x} {a1 a2 a3}
    (h : Touches ps s x) (p_regs : Part.regs ∈ ps := by assumption) (p_dev : Part.dev ∈ ps := by assumption) (p_outbox : Part.outbox ∈ ps := by assumption) (p_flt : Part.flt ∈ ps := by assumption) (p_anvil : Part.anvil ∈ ps := by assumption) (p_host : Part.host ∈ ps := by assumption) (p_img : Part.img ∈ ps := by assumption) :
    Touches ps s (State.imgCommand x a1 a2 a3) := by
  unfold State.imgCommand
  repeat' first
    | with_reducible assumption
    | intro _ _
    | intro _
    | with_reducible apply State.when_touches
    | with_reducible apply State.when_touches
    | with_reducible apply State.imgReport_touches
    | with_reducible apply State.imgStart_touches
    | with_reducible apply State.bankInvalidate_touches
    | split

theorem State.epochFlip_touches {ps s x}
    (h : Touches ps s x) (p_regs : Part.regs ∈ ps := by assumption) (p_outbox : Part.outbox ∈ ps := by assumption) (p_flt : Part.flt ∈ ps := by assumption) (p_host : Part.host ∈ ps := by assumption) (p_img : Part.img ∈ ps := by assumption) :
    Touches ps s (State.epochFlip x) := by
  unfold State.epochFlip
  repeat' first
    | with_reducible assumption
    | intro _ _
    | intro _
    | with_reducible apply State.set_touches
    | with_reducible apply State.setB_touches
    | with_reducible apply State.filShow_touches
    | with_reducible apply State.imgEnd_touches
    | split
    | dsimp only
    | with_reducible apply Touches.upd
    | exact Or.inl (by assumption)
    | exact Or.inr rfl

theorem State.swapTrigger_touches {ps s x} {a1}
    (h : Touches ps s x) (p_regs : Part.regs ∈ ps := by assumption) (p_outbox : Part.outbox ∈ ps := by assumption) (p_flt : Part.flt ∈ ps := by assumption) (p_host : Part.host ∈ ps := by assumption) (p_img : Part.img ∈ ps := by assumption) :
    Touches ps s (State.swapTrigger x a1) := by
  unfold State.swapTrigger
  repeat' first
    | with_reducible assumption
    | intro _ _
    | intro _
    | with_reducible apply Touches.choose
    | with_reducible apply State.epochFlip_touches
    | split

theorem State.epochRetired_touches {ps s x}
    (h : Touches ps s x) (p_regs : Part.regs ∈ ps := by assumption) (p_outbox : Part.outbox ∈ ps := by assumption) (p_host : Part.host ∈ ps := by assumption) :
    Touches ps s (State.epochRetired x) := by
  unfold State.epochRetired
  repeat' first
    | with_reducible assumption
    | intro _ _
    | intro _
    | with_reducible apply State.setB_touches
    | with_reducible apply State.event_touches

theorem State.retireOverdue_touches {ps s x}
    (h : Touches ps s x) (p_regs : Part.regs ∈ ps := by assumption) (p_flt : Part.flt ∈ ps := by assumption) (p_img : Part.img ∈ ps := by assumption) :
    Touches ps s (State.retireOverdue x) := by
  unfold State.retireOverdue
  repeat' first
    | with_reducible assumption
    | intro _ _
    | intro _
    | with_reducible apply Touches.choose
    | with_reducible apply State.setB_touches
    | with_reducible apply State.fault_touches
    | split
    | dsimp only
    | with_reducible apply Touches.upd
    | exact Or.inl (by assumption)
    | exact Or.inr rfl

theorem State.retireForce_touches {ps s x}
    (h : Touches ps s x) (p_regs : Part.regs ∈ ps := by assumption) (p_outbox : Part.outbox ∈ ps := by assumption) (p_flt : Part.flt ∈ ps := by assumption) (p_act : Part.act ∈ ps := by assumption) (p_host : Part.host ∈ ps := by assumption) (p_buf : Part.buf ∈ ps := by assumption) (p_pipe : Part.pipe ∈ ps := by assumption) (p_que : Part.que ∈ ps := by assumption) (p_tele : Part.tele ∈ ps := by assumption) :
    Touches ps s (State.retireForce x) := by
  unfold State.retireForce
  repeat' first
    | with_reducible assumption
    | intro _ _
    | intro _
    | with_reducible apply Touches.choose
    | with_reducible apply State.add_touches
    | with_reducible apply State.xoffEval_touches
    | with_reducible apply State.discardWhere_touches
    | with_reducible apply State.epochRetired_touches

theorem State.bankLines_touches {ps s x} {a1 a2 a3}
    (h : Touches ps s x) (p_regs : Part.regs ∈ ps := by assumption) (p_dev : Part.dev ∈ ps := by assumption) (p_flt : Part.flt ∈ ps := by assumption) (p_anvil : Part.anvil ∈ ps := by assumption) :
    Touches ps s (State.bankLines x a1 a2 a3).1 := by
  unfold State.bankLines
  repeat' first
    | with_reducible assumption
    | intro _ _
    | intro _
    | with_reducible apply Touches.foldl
    | with_reducible apply Touches.foldl_snd
    | with_reducible apply Touches.foldl_fst
    | with_reducible apply Touches.foldl_third
    | with_reducible apply State.storeWrite_touches
theorem State.bankLines_touchesE {ps s x} {a1 a2 a3} {t r1} (e : State.bankLines x a1 a2 a3 = (t, r1))
    (h : Touches ps s x) (p_regs : Part.regs ∈ ps := by assumption) (p_dev : Part.dev ∈ ps := by assumption) (p_flt : Part.flt ∈ ps := by assumption) (p_anvil : Part.anvil ∈ ps := by assumption) :
    Touches ps s t := by
  have k := State.bankLines_touches (ps := ps) (s := s) (x := x) (a1 := a1) (a2 := a2) (a3 := a3) h
  rwa [e] at k

theorem State.bankVerified_touches {ps s x} {a1 a2 a3}
    (h : Touches ps s x) (p_regs : Part.regs ∈ ps := by assumption) (p_dev : Part.dev ∈ ps := by assumption) (p_outbox : Part.outbox ∈ ps := by assumption) (p_flt : Part.flt ∈ ps := by assumption) (p_act : Part.act ∈ ps := by assumption) (p_anvil : Part.anvil ∈ ps := by assumption) (p_host : Part.host ∈ ps := by assumption) (p_img : Part.img ∈ ps := by assumption) :
    Touches ps s (State.bankVerified x a1 a2 a3) := by
  unfold State.bankVerified
  repeat' first
    | with_reducible assumption
    | intro _ _
    | intro _
    | with_reducible apply Touches.choose
    | with_reducible apply State.set_touches
    | with_reducible apply State.imgEnd_touches
    | with_reducible apply State.bankLines_touches
    | refine State.bankLines_touchesE (by with_reducible assumption) ?_
    | split
    | dsimp only
    | with_reducible apply Touches.upd
    | exact Or.inl (by assumption)
    | exact Or.inr rfl

theorem State.ruleWrite_touches {ps s x} {a1 a2 a3}
    (h : Touches ps s x) (p_dev : Part.dev ∈ ps := by assumption) (p_flt : Part.flt ∈ ps := by assumption) (p_pipe : Part.pipe ∈ ps := by assumption) :
    Touches ps s (State.ruleWrite x a1 a2 a3) := by
  unfold State.ruleWrite
  repeat' first
    | with_reducible assumption
    | intro _ _
    | intro _
    | with_reducible apply Touches.choose
    | with_reducible apply State.programWrite_touches
    | with_reducible apply State.dataWrite_touches
    | with_reducible apply State.treesWrite_touches

theorem State.swapPartial_touches {ps s x} {a1}
    (h : Touches ps s x) (p_regs : Part.regs ∈ ps := by assumption) (p_dev : Part.dev ∈ ps := by assumption) (p_draws : Part.draws ∈ ps := by assumption) (p_outbox : Part.outbox ∈ ps := by assumption) (p_flt : Part.flt ∈ ps := by assumption) (p_act : Part.act ∈ ps := by assumption) (p_host : Part.host ∈ ps := by assumption) (p_img : Part.img ∈ ps := by assumption) (p_pipe : Part.pipe ∈ ps := by assumption) :
    Touches ps s (State.swapPartial x a1) := by
  unfold State.swapPartial
  repeat' first
    | with_reducible assumption
    | intro _ _
    | intro _
    | with_reducible apply Touches.foldl
    | with_reducible apply Touches.foldl_snd
    | with_reducible apply Touches.foldl_fst
    | with_reducible apply Touches.foldl_third
    | with_reducible apply State.draw_touches
    | with_reducible apply State.take_touches
    | with_reducible apply State.ruleWrite_touches

theorem State.swapVerified_touches {ps s x} {a1 a2}
    (h : Touches ps s x) (p_regs : Part.regs ∈ ps := by assumption) (p_dev : Part.dev ∈ ps := by assumption) (p_outbox : Part.outbox ∈ ps := by assumption) (p_flt : Part.flt ∈ ps := by assumption) (p_host : Part.host ∈ ps := by assumption) (p_img : Part.img ∈ ps := by assumption) (p_pipe : Part.pipe ∈ ps := by assumption) :
    Touches ps s (State.swapVerified x a1 a2) := by
  unfold State.swapVerified
  repeat' first
    | with_reducible assumption
    | intro _ _
    | intro _
    | with_reducible apply Touches.choose
    | with_reducible apply State.set_touches
    | with_reducible apply State.updateWrite_touches
    | with_reducible apply State.epochFlip_touches
    | split
    | dsimp only
    | with_reducible apply Touches.upd
    | exact Or.inl (by assumption)
    | exact Or.inr rfl

theorem State.configure_touches {ps s x} {a1 a2}
    (h : Touches ps s x) (p_regs : Part.regs ∈ ps := by assumption) (p_dev : Part.dev ∈ ps := by assumption) (p_draws : Part.draws ∈ ps := by assumption) (p_outbox : Part.outbox ∈ ps := by assumption) (p_time : Part.time ∈ ps := by assumption) (p_flt : Part.flt ∈ ps := by assumption) (p_act : Part.act ∈ ps := by assumption) (p_anvil : Part.anvil ∈ ps := by assumption) (p_host : Part.host ∈ ps := by assumption) (p_img : Part.img ∈ ps := by assumption) (p_buf : Part.buf ∈ ps := by assumption) (p_pipe : Part.pipe ∈ ps := by assumption) (p_que : Part.que ∈ ps := by assumption) (p_tele : Part.tele ∈ ps := by assumption) :
    Touches ps s (State.configure x a1 a2) := by
  unfold State.configure
  repeat' first
    | with_reducible assumption
    | intro _ _
    | intro _
    | with_reducible apply Touches.choose
    | with_reducible apply State.when_touches
    | with_reducible apply State.set_touches
    | with_reducible apply State.setB_touches
    | with_reducible apply State.when_touches
    | with_reducible apply State.loadStop_touches
    | with_reducible apply State.loadApply_touches
    | split
    | dsimp only
    | with_reducible apply Touches.upd
    | exact Or.inl (by assumption)
    | exact Or.inr rfl

theorem State.bootTry_touches {ps s x l}
    (h : Touches ps s x) (p_regs : Part.regs ∈ ps := by assumption) (p_img : Part.img ∈ ps := by assumption) :
    Touches ps s (State.bootTry x l) := by
  induction l generalizing x with
  | nil => exact State.setB_touches (State.set_touches (Touches.img h))
  | cons b l ih =>
    simp only [State.bootTry]
    split
    · exact State.set_touches (Touches.img h)
    · exact ih (State.set_touches h)

theorem State.bootNext_touches {ps s x}
    (h : Touches ps s x) (p_regs : Part.regs ∈ ps := by assumption) (p_img : Part.img ∈ ps := by assumption) :
    Touches ps s (State.bootNext x) := by
  unfold State.bootNext
  repeat' first
    | with_reducible assumption
    | intro _ _
    | intro _
    | with_reducible apply State.bootTry_touches

theorem State.bootVerified_touches {ps s x} {a1} (h : Touches ps s x) (p_regs : Part.regs ∈ ps := by assumption) :
    Touches ps s (State.bootVerified x a1) := by
  unfold State.bootVerified
  repeat' first
    | with_reducible assumption
    | intro _ _
    | intro _
    | with_reducible apply Touches.choose
    | with_reducible apply State.set_touches

theorem State.imgJudge_touches {ps s x} {a1 a2 a3}
    (h : Touches ps s x) (p_regs : Part.regs ∈ ps := by assumption) (p_dev : Part.dev ∈ ps := by assumption) (p_draws : Part.draws ∈ ps := by assumption) (p_outbox : Part.outbox ∈ ps := by assumption) (p_time : Part.time ∈ ps := by assumption) (p_flt : Part.flt ∈ ps := by assumption) (p_act : Part.act ∈ ps := by assumption) (p_anvil : Part.anvil ∈ ps := by assumption) (p_host : Part.host ∈ ps := by assumption) (p_img : Part.img ∈ ps := by assumption) (p_buf : Part.buf ∈ ps := by assumption) (p_pipe : Part.pipe ∈ ps := by assumption) (p_que : Part.que ∈ ps := by assumption) (p_tele : Part.tele ∈ ps := by assumption) :
    Touches ps s (State.imgJudge x a1 a2 a3) := by
  unfold State.imgJudge
  repeat' first
    | with_reducible assumption
    | intro _ _
    | intro _
    | with_reducible apply Touches.choose
    | with_reducible apply State.when_touches
    | with_reducible apply State.set_touches
    | with_reducible apply State.when_touches
    | with_reducible apply State.imgShow_touches
    | with_reducible apply State.imgEnd_touches
    | with_reducible apply State.bankVerified_touches
    | with_reducible apply State.swapPartial_touches
    | with_reducible apply State.swapVerified_touches
    | with_reducible apply State.configure_touches
    | with_reducible apply State.bootNext_touches
    | with_reducible apply State.bootVerified_touches
    | split

theorem State.imgVerified_touches {ps s x} {a1 a2 a3}
    (h : Touches ps s x) (p_regs : Part.regs ∈ ps := by assumption) (p_dev : Part.dev ∈ ps := by assumption) (p_draws : Part.draws ∈ ps := by assumption) (p_outbox : Part.outbox ∈ ps := by assumption) (p_time : Part.time ∈ ps := by assumption) (p_flt : Part.flt ∈ ps := by assumption) (p_act : Part.act ∈ ps := by assumption) (p_anvil : Part.anvil ∈ ps := by assumption) (p_host : Part.host ∈ ps := by assumption) (p_img : Part.img ∈ ps := by assumption) (p_buf : Part.buf ∈ ps := by assumption) (p_pipe : Part.pipe ∈ ps := by assumption) (p_que : Part.que ∈ ps := by assumption) (p_tele : Part.tele ∈ ps := by assumption) :
    Touches ps s (State.imgVerified x a1 a2 a3) := by
  unfold State.imgVerified
  repeat' first
    | with_reducible assumption
    | intro _ _
    | intro _
    | with_reducible apply Touches.choose
    | with_reducible apply State.imgJudge_touches
    | split

theorem State.imgLinkEvent_touches {ps s x}
    (h : Touches ps s x) (p_regs : Part.regs ∈ ps := by assumption) (p_outbox : Part.outbox ∈ ps := by assumption) (p_flt : Part.flt ∈ ps := by assumption) (p_host : Part.host ∈ ps := by assumption) (p_img : Part.img ∈ ps := by assumption) :
    Touches ps s (State.imgLinkEvent x) := by
  unfold State.imgLinkEvent
  repeat' first
    | with_reducible assumption
    | intro _ _
    | intro _
    | with_reducible apply State.when_touches
    | with_reducible apply State.when_touches
    | with_reducible apply State.imgEnd_touches

theorem State.imgCut_touches {ps s x} {a1 a2}
    (h : Touches ps s x) (p_regs : Part.regs ∈ ps := by assumption) (p_dev : Part.dev ∈ ps := by assumption) (p_draws : Part.draws ∈ ps := by assumption) (p_outbox : Part.outbox ∈ ps := by assumption) (p_flt : Part.flt ∈ ps := by assumption) (p_act : Part.act ∈ ps := by assumption) (p_anvil : Part.anvil ∈ ps := by assumption) (p_host : Part.host ∈ ps := by assumption) (p_img : Part.img ∈ ps := by assumption) (p_pipe : Part.pipe ∈ ps := by assumption) :
    Touches ps s (State.imgCut x a1 a2) := by
  unfold State.imgCut
  repeat' first
    | with_reducible assumption
    | intro _ _
    | intro _
    | with_reducible apply Touches.choose
    | with_reducible apply State.take_touches
    | with_reducible apply State.bankLines_touches
    | with_reducible apply State.swapPartial_touches

theorem State.imgAbort_touches {ps s x} {a1}
    (h : Touches ps s x) (p_regs : Part.regs ∈ ps := by assumption) (p_dev : Part.dev ∈ ps := by assumption) (p_draws : Part.draws ∈ ps := by assumption) (p_outbox : Part.outbox ∈ ps := by assumption) (p_flt : Part.flt ∈ ps := by assumption) (p_act : Part.act ∈ ps := by assumption) (p_anvil : Part.anvil ∈ ps := by assumption) (p_host : Part.host ∈ ps := by assumption) (p_img : Part.img ∈ ps := by assumption) (p_pipe : Part.pipe ∈ ps := by assumption) :
    Touches ps s (State.imgAbort x a1) := by
  unfold State.imgAbort
  repeat' first
    | with_reducible assumption
    | intro _ _
    | intro _
    | with_reducible apply Touches.choose
    | with_reducible apply State.take_touches
    | with_reducible apply State.imgReport_touches
    | with_reducible apply State.imgEnd_touches
    | with_reducible apply State.imgCut_touches
    | split

theorem State.bankCommit_touches {ps s x} {a1}
    (h : Touches ps s x) (p_regs : Part.regs ∈ ps := by assumption) (p_dev : Part.dev ∈ ps := by assumption) (p_outbox : Part.outbox ∈ ps := by assumption) (p_flt : Part.flt ∈ ps := by assumption) (p_anvil : Part.anvil ∈ ps := by assumption) (p_host : Part.host ∈ ps := by assumption) (p_img : Part.img ∈ ps := by assumption) :
    Touches ps s (State.bankCommit x a1) := by
  unfold State.bankCommit
  repeat' first
    | with_reducible assumption
    | intro _ _
    | intro _
    | with_reducible apply Touches.choose
    | with_reducible apply State.commitWrite_touches
    | with_reducible apply State.imgEnd_touches
    | split

theorem State.imgStoreAbort_touches {ps s x}
    (h : Touches ps s x) (p_regs : Part.regs ∈ ps := by assumption) (p_outbox : Part.outbox ∈ ps := by assumption) (p_flt : Part.flt ∈ ps := by assumption) (p_host : Part.host ∈ ps := by assumption) (p_img : Part.img ∈ ps := by assumption) :
    Touches ps s (State.imgStoreAbort x) := by
  unfold State.imgStoreAbort
  repeat' first
    | with_reducible assumption
    | intro _ _
    | intro _
    | with_reducible apply Touches.choose
    | with_reducible apply State.imgEnd_touches
    | split
    | dsimp only
    | with_reducible apply Touches.upd
    | exact Or.inl (by assumption)
    | exact Or.inr rfl

theorem State.imgEndRunning_touches {ps s x} {a1}
    (h : Touches ps s x) (p_regs : Part.regs ∈ ps := by assumption) (p_outbox : Part.outbox ∈ ps := by assumption) (p_flt : Part.flt ∈ ps := by assumption) (p_host : Part.host ∈ ps := by assumption) (p_img : Part.img ∈ ps := by assumption) :
    Touches ps s (State.imgEndRunning x a1) := by
  unfold State.imgEndRunning
  repeat' first
    | with_reducible assumption
    | intro _ _
    | intro _
    | with_reducible apply State.imgEnd_touches
    | split
    | dsimp only
    | with_reducible apply Touches.upd
    | exact Or.inl (by assumption)
    | exact Or.inr rfl

theorem State.imgUnload_touches {ps s x}
    (h : Touches ps s x) (p_regs : Part.regs ∈ ps := by assumption) (p_time : Part.time ∈ ps := by assumption) (p_core : Part.core ∈ ps := by assumption) (p_img : Part.img ∈ ps := by assumption) :
    Touches ps s (State.imgUnload x) := by
  unfold State.imgUnload
  repeat' first
    | with_reducible assumption
    | intro _ _
    | intro _
    | with_reducible apply Touches.upTo
    | with_reducible apply State.set_touches
    | with_reducible apply State.setB_touches
    | with_reducible apply State.synceUpdate_touches
    | split
    | dsimp only
    | with_reducible apply Touches.upd
    | exact Or.inl (by assumption)
    | exact Or.inr rfl

end Sys2Proof.Machine
end

