-- ==== Sys2Proof/Laws/TouchesModule.lean ====
section
/-!
SUPPORT. What the operations of time, resets, faults, security and host accesses touch: one lemma for each.
-/
namespace Sys2Proof.Machine
set_option Elab.async false

/-! ### Machine/Touchstone.lean -/

theorem State.setOff_touches {ps s x} {a1}
    (h : Touches ps s x) (p_regs : Part.regs ∈ ps := by assumption) (p_time : Part.time ∈ ps := by assumption) :
    Touches ps s (State.setOff x a1) := by
  unfold State.setOff
  repeat' first
    | with_reducible assumption
    | intro _ _
    | intro _
    | with_reducible apply State.set_touches
    | split
    | dsimp only
    | with_reducible apply Touches.upd
    | exact Or.inl (by assumption)
    | exact Or.inr rfl

theorem State.timeUpdate_touches {ps s x}
    (h : Touches ps s x) (p_regs : Part.regs ∈ ps := by assumption) (p_time : Part.time ∈ ps := by assumption) :
    Touches ps s (State.timeUpdate x) := by
  unfold State.timeUpdate
  repeat' first
    | with_reducible assumption
    | intro _ _
    | intro _
    | with_reducible apply State.setB_touches
    | split
    | dsimp only
    | with_reducible apply Touches.upd
    | exact Or.inl (by assumption)
    | exact Or.inr rfl

theorem State.ppsSchedule_touches {ps s x} {a1 a2} (h : Touches ps s x) (p_time : Part.time ∈ ps := by assumption) :
    Touches ps s (State.ppsSchedule x a1 a2) := by
  unfold State.ppsSchedule
  repeat' first
    | with_reducible assumption
    | intro _ _
    | intro _
    | split
    | dsimp only
    | with_reducible apply Touches.upd
    | exact Or.inl (by assumption)
    | exact Or.inr rfl

theorem State.ppsCancel_touches {ps s x} {a1 a2} (h : Touches ps s x) (p_time : Part.time ∈ ps := by assumption) :
    Touches ps s (State.ppsCancel x a1 a2) := by
  unfold State.ppsCancel
  repeat' first
    | with_reducible assumption
    | intro _ _
    | intro _
    | split
    | dsimp only
    | with_reducible apply Touches.upd
    | exact Or.inl (by assumption)
    | exact Or.inr rfl

theorem State.trigArmed_touches {ps s x} {a1 a2}
    (h : Touches ps s x) (p_regs : Part.regs ∈ ps := by assumption) (p_time : Part.time ∈ ps := by assumption) :
    Touches ps s (State.trigArmed x a1 a2) := by
  unfold State.trigArmed
  repeat' first
    | with_reducible assumption
    | intro _ _
    | intro _
    | with_reducible apply State.setB_touches
    | with_reducible apply State.ppsSchedule_touches
    | split
    | dsimp only
    | with_reducible apply Touches.upd
    | exact Or.inl (by assumption)
    | exact Or.inr rfl

theorem State.trigDisarm_touches {ps s x} {a1}
    (h : Touches ps s x) (p_regs : Part.regs ∈ ps := by assumption) (p_time : Part.time ∈ ps := by assumption) :
    Touches ps s (State.trigDisarm x a1) := by
  unfold State.trigDisarm
  repeat' first
    | with_reducible assumption
    | intro _ _
    | intro _
    | with_reducible apply State.when_touches
    | with_reducible apply State.setB_touches
    | with_reducible apply State.when_touches
    | with_reducible apply State.ppsCancel_touches

theorem State.trigArm_touches {ps s x} {a1}
    (h : Touches ps s x) (p_regs : Part.regs ∈ ps := by assumption) (p_time : Part.time ∈ ps := by assumption) :
    Touches ps s (State.trigArm x a1) := by
  unfold State.trigArm
  repeat' first
    | with_reducible assumption
    | intro _ _
    | intro _
    | with_reducible apply Touches.choose
    | with_reducible apply State.setB_touches
    | with_reducible apply State.trigArmed_touches
    | with_reducible apply State.trigDisarm_touches

theorem State.trigConsumers_touches {ps s x} {a1}
    (h : Touches ps s x) (p_regs : Part.regs ∈ ps := by assumption) (p_outbox : Part.outbox ∈ ps := by assumption) (p_core : Part.core ∈ ps := by assumption) (p_pwr : Part.pwr ∈ ps := by assumption) (p_flt : Part.flt ∈ ps := by assumption) (p_host : Part.host ∈ ps := by assumption) (p_img : Part.img ∈ ps := by assumption) (p_tele : Part.tele ∈ ps := by assumption) :
    Touches ps s (State.trigConsumers x a1) := by
  unfold State.trigConsumers
  repeat' first
    | with_reducible assumption
    | intro _ _
    | intro _
    | with_reducible apply State.when_touches
    | with_reducible apply State.when_touches
    | with_reducible apply State.phaseSelect_touches
    | with_reducible apply State.loupeStart_touches
    | with_reducible apply State.swapTrigger_touches
    | split

theorem State.trigFire_touches {ps s x} {a1}
    (h : Touches ps s x) (p_regs : Part.regs ∈ ps := by assumption) (p_outbox : Part.outbox ∈ ps := by assumption) (p_core : Part.core ∈ ps := by assumption) (p_pwr : Part.pwr ∈ ps := by assumption) (p_flt : Part.flt ∈ ps := by assumption) (p_host : Part.host ∈ ps := by assumption) (p_img : Part.img ∈ ps := by assumption) (p_tele : Part.tele ∈ ps := by assumption) :
    Touches ps s (State.trigFire x a1) := by
  unfold State.trigFire
  repeat' first
    | with_reducible assumption
    | intro _ _
    | intro _
    | with_reducible apply State.incWrap_touches
    | with_reducible apply State.event_touches
    | with_reducible apply State.trigConsumers_touches

theorem State.trigRearm_touches {ps s x} {a1}
    (h : Touches ps s x) (p_regs : Part.regs ∈ ps := by assumption) (p_time : Part.time ∈ ps := by assumption) :
    Touches ps s (State.trigRearm x a1) := by
  unfold State.trigRearm
  repeat' first
    | with_reducible assumption
    | intro _ _
    | intro _
    | with_reducible apply Touches.choose
    | with_reducible apply State.setB_touches
    | with_reducible apply State.trigArmed_touches

theorem State.trigDue_touches {ps s x} {a1}
    (h : Touches ps s x) (p_regs : Part.regs ∈ ps := by assumption) (p_outbox : Part.outbox ∈ ps := by assumption) (p_time : Part.time ∈ ps := by assumption) (p_core : Part.core ∈ ps := by assumption) (p_pwr : Part.pwr ∈ ps := by assumption) (p_flt : Part.flt ∈ ps := by assumption) (p_host : Part.host ∈ ps := by assumption) (p_img : Part.img ∈ ps := by assumption) (p_tele : Part.tele ∈ ps := by assumption) :
    Touches ps s (State.trigDue x a1) := by
  unfold State.trigDue
  repeat' first
    | with_reducible assumption
    | intro _ _
    | intro _
    | with_reducible apply Touches.choose
    | with_reducible apply State.trigFire_touches
    | with_reducible apply State.trigRearm_touches

theorem State.trigsDue_touches {ps s x}
    (h : Touches ps s x) (p_regs : Part.regs ∈ ps := by assumption) (p_outbox : Part.outbox ∈ ps := by assumption) (p_time : Part.time ∈ ps := by assumption) (p_core : Part.core ∈ ps := by assumption) (p_pwr : Part.pwr ∈ ps := by assumption) (p_flt : Part.flt ∈ ps := by assumption) (p_host : Part.host ∈ ps := by assumption) (p_img : Part.img ∈ ps := by assumption) (p_que : Part.que ∈ ps := by assumption) (p_tele : Part.tele ∈ ps := by assumption) :
    Touches ps s (State.trigsDue x) := by
  unfold State.trigsDue
  repeat' first
    | with_reducible assumption
    | intro _ _
    | intro _
    | with_reducible apply Touches.upTo
    | with_reducible apply State.gatesRelocate_touches
    | with_reducible apply State.trigDue_touches

theorem State.trigStepped_touches {ps s x} {a1}
    (h : Touches ps s x) (p_regs : Part.regs ∈ ps := by assumption) (p_outbox : Part.outbox ∈ ps := by assumption) (p_time : Part.time ∈ ps := by assumption) (p_core : Part.core ∈ ps := by assumption) (p_pwr : Part.pwr ∈ ps := by assumption) (p_flt : Part.flt ∈ ps := by assumption) (p_host : Part.host ∈ ps := by assumption) (p_img : Part.img ∈ ps := by assumption) (p_tele : Part.tele ∈ ps := by assumption) :
    Touches ps s (State.trigStepped x a1) := by
  unfold State.trigStepped
  repeat' first
    | with_reducible assumption
    | intro _ _
    | intro _
    | with_reducible apply Touches.choose
    | with_reducible apply State.setB_touches
    | with_reducible apply State.add_touches
    | with_reducible apply State.trigArmed_touches
    | with_reducible apply State.trigFire_touches

theorem State.ppsRebase_touches {ps s x} (h : Touches ps s x) (p_time : Part.time ∈ ps := by assumption) :
    Touches ps s (State.ppsRebase x) := by
  unfold State.ppsRebase
  repeat' first
    | with_reducible assumption
    | intro _ _
    | intro _
    | with_reducible apply Touches.choose
    | split
    | dsimp only
    | with_reducible apply Touches.upd
    | exact Or.inl (by assumption)
    | exact Or.inr rfl

theorem State.ppsCtrl_touches {ps s x} {a1} (h : Touches ps s x) (p_time : Part.time ∈ ps := by assumption) :
    Touches ps s (State.ppsCtrl x a1) := by
  unfold State.ppsCtrl
  repeat' first
    | with_reducible assumption
    | intro _ _
    | intro _
    | with_reducible apply Touches.choose
    | with_reducible apply State.when_touches
    | with_reducible apply State.when_touches
    | with_reducible apply State.ppsRebase_touches
    | split
    | dsimp only
    | with_reducible apply Touches.upd
    | exact Or.inl (by assumption)
    | exact Or.inr rfl

theorem State.ppsPulse_touches {ps s x} (h : Touches ps s x) (p_time : Part.time ∈ ps := by assumption) :
    Touches ps s (State.ppsPulse x) := by
  unfold State.ppsPulse
  repeat' first
    | with_reducible assumption
    | intro _ _
    | intro _
    | split
    | dsimp only
    | with_reducible apply Touches.upd
    | exact Or.inl (by assumption)
    | exact Or.inr rfl

theorem State.ppsOut_touches {ps s x} (h : Touches ps s x) (p_time : Part.time ∈ ps := by assumption) :
    Touches ps s (State.ppsOut x) := by
  unfold State.ppsOut
  repeat' first
    | with_reducible assumption
    | intro _ _
    | intro _
    | with_reducible apply Touches.choose
    | with_reducible apply State.ppsCancel_touches
    | with_reducible apply State.ppsPulse_touches
    | split
    | dsimp only
    | with_reducible apply Touches.upd
    | exact Or.inl (by assumption)
    | exact Or.inr rfl

theorem State.afterJump_touches {ps s x}
    (h : Touches ps s x) (p_regs : Part.regs ∈ ps := by assumption) (p_outbox : Part.outbox ∈ ps := by assumption) (p_time : Part.time ∈ ps := by assumption) (p_core : Part.core ∈ ps := by assumption) (p_pwr : Part.pwr ∈ ps := by assumption) (p_flt : Part.flt ∈ ps := by assumption) (p_host : Part.host ∈ ps := by assumption) (p_img : Part.img ∈ ps := by assumption) (p_que : Part.que ∈ ps := by assumption) (p_tele : Part.tele ∈ ps := by assumption) :
    Touches ps s (State.afterJump x) := by
  unfold State.afterJump
  repeat' first
    | with_reducible assumption
    | intro _ _
    | intro _
    | with_reducible apply Touches.upTo
    | with_reducible apply State.gatesRelocate_touches
    | with_reducible apply State.trigStepped_touches
    | with_reducible apply State.ppsRebase_touches

theorem State.timeSet_touches {ps s x}
    (h : Touches ps s x) (p_regs : Part.regs ∈ ps := by assumption) (p_outbox : Part.outbox ∈ ps := by assumption) (p_time : Part.time ∈ ps := by assumption) (p_core : Part.core ∈ ps := by assumption) (p_pwr : Part.pwr ∈ ps := by assumption) (p_flt : Part.flt ∈ ps := by assumption) (p_host : Part.host ∈ ps := by assumption) (p_img : Part.img ∈ ps := by assumption) (p_que : Part.que ∈ ps := by assumption) (p_tele : Part.tele ∈ ps := by assumption) :
    Touches ps s (State.timeSet x) := by
  unfold State.timeSet
  repeat' first
    | with_reducible assumption
    | intro _ _
    | intro _
    | with_reducible apply State.setB_touches
    | with_reducible apply State.setOff_touches
    | with_reducible apply State.timeUpdate_touches
    | with_reducible apply State.trigsDue_touches
    | with_reducible apply State.afterJump_touches

theorem State.timeStep_touches {ps s x}
    (h : Touches ps s x) (p_regs : Part.regs ∈ ps := by assumption) (p_outbox : Part.outbox ∈ ps := by assumption) (p_time : Part.time ∈ ps := by assumption) (p_core : Part.core ∈ ps := by assumption) (p_pwr : Part.pwr ∈ ps := by assumption) (p_flt : Part.flt ∈ ps := by assumption) (p_host : Part.host ∈ ps := by assumption) (p_img : Part.img ∈ ps := by assumption) (p_que : Part.que ∈ ps := by assumption) (p_tele : Part.tele ∈ ps := by assumption) :
    Touches ps s (State.timeStep x) := by
  unfold State.timeStep
  repeat' first
    | with_reducible assumption
    | intro _ _
    | intro _
    | with_reducible apply Touches.choose
    | with_reducible apply State.setB_touches
    | with_reducible apply State.timeEvent_touches
    | with_reducible apply State.setOff_touches
    | with_reducible apply State.timeUpdate_touches
    | with_reducible apply State.trigsDue_touches
    | with_reducible apply State.afterJump_touches

theorem State.timeSnapshot_touches {ps s x} (h : Touches ps s x) (p_regs : Part.regs ∈ ps := by assumption) :
    Touches ps s (State.timeSnapshot x) := by
  unfold State.timeSnapshot
  repeat' first
    | with_reducible assumption
    | intro _ _
    | intro _
    | with_reducible apply State.set_touches

theorem State.rateCommit_touches {ps s x} {a1}
    (h : Touches ps s x) (p_regs : Part.regs ∈ ps := by assumption) (p_outbox : Part.outbox ∈ ps := by assumption) (p_time : Part.time ∈ ps := by assumption) (p_core : Part.core ∈ ps := by assumption) (p_pwr : Part.pwr ∈ ps := by assumption) (p_flt : Part.flt ∈ ps := by assumption) (p_host : Part.host ∈ ps := by assumption) (p_img : Part.img ∈ ps := by assumption) (p_que : Part.que ∈ ps := by assumption) (p_tele : Part.tele ∈ ps := by assumption) :
    Touches ps s (State.rateCommit x a1) := by
  unfold State.rateCommit
  repeat' first
    | with_reducible assumption
    | intro _ _
    | intro _
    | with_reducible apply State.set_touches
    | with_reducible apply State.setOff_touches
    | with_reducible apply State.timeUpdate_touches
    | with_reducible apply State.trigsDue_touches
    | split
    | dsimp only
    | with_reducible apply Touches.upd
    | exact Or.inl (by assumption)
    | exact Or.inr rfl

theorem State.holdover_touches {ps s x}
    (h : Touches ps s x) (p_regs : Part.regs ∈ ps := by assumption) (p_outbox : Part.outbox ∈ ps := by assumption) (p_flt : Part.flt ∈ ps := by assumption) (p_host : Part.host ∈ ps := by assumption) :
    Touches ps s (State.holdover x) := by
  unfold State.holdover
  repeat' first
    | with_reducible assumption
    | intro _ _
    | intro _
    | with_reducible apply Touches.choose
    | with_reducible apply State.setB_touches
    | with_reducible apply State.timeEvent_touches
    | with_reducible apply State.fault_touches

theorem State.refclkLost_touches {ps s x}
    (h : Touches ps s x) (p_regs : Part.regs ∈ ps := by assumption) (p_outbox : Part.outbox ∈ ps := by assumption) (p_flt : Part.flt ∈ ps := by assumption) (p_host : Part.host ∈ ps := by assumption) :
    Touches ps s (State.refclkLost x) := by
  unfold State.refclkLost
  repeat' first
    | with_reducible assumption
    | intro _ _
    | intro _
    | with_reducible apply Touches.choose
    | with_reducible apply State.setB_touches
    | with_reducible apply State.timeEvent_touches
    | with_reducible apply State.fault_touches

theorem State.pinCapture_touches {ps s x} {a1 a2}
    (h : Touches ps s x) (p_regs : Part.regs ∈ ps := by assumption) (p_outbox : Part.outbox ∈ ps := by assumption) (p_time : Part.time ∈ ps := by assumption) (p_core : Part.core ∈ ps := by assumption) (p_pwr : Part.pwr ∈ ps := by assumption) (p_host : Part.host ∈ ps := by assumption) (p_pins : Part.pins ∈ ps := by assumption) :
    Touches ps s (State.pinCapture x a1 a2) := by
  unfold State.pinCapture
  repeat' first
    | with_reducible assumption
    | intro _ _
    | intro _
    | with_reducible apply Touches.choose
    | with_reducible apply State.set_touches
    | with_reducible apply State.setB_touches
    | with_reducible apply State.inc_touches
    | with_reducible apply State.incWrap_touches
    | with_reducible apply State.eventBit_touches
    | with_reducible apply State.phaseSelect_touches
    | split
    | dsimp only
    | with_reducible apply Touches.upd
    | exact Or.inl (by assumption)
    | exact Or.inr rfl

/-! ### Machine/Startup.lean -/

theorem State.freshNonce_touches {ps s x}
    (h : Touches ps s x) (p_draws : Part.draws ∈ ps := by assumption) (p_mil : Part.mil ∈ ps := by assumption) :
    Touches ps s (State.freshNonce x) := by
  unfold State.freshNonce
  repeat' first
    | with_reducible assumption
    | intro _ _
    | intro _
    | with_reducible apply State.draw_touches
    | split
    | dsimp only
    | with_reducible apply Touches.upd
    | exact Or.inl (by assumption)
    | exact Or.inr rfl

theorem State.discardAll_touches {ps s x}
    (h : Touches ps s x) (p_regs : Part.regs ∈ ps := by assumption) (p_outbox : Part.outbox ∈ ps := by assumption) (p_flt : Part.flt ∈ ps := by assumption) (p_act : Part.act ∈ ps := by assumption) (p_host : Part.host ∈ ps := by assumption) (p_buf : Part.buf ∈ ps := by assumption) (p_pipe : Part.pipe ∈ ps := by assumption) (p_que : Part.que ∈ ps := by assumption) (p_tele : Part.tele ∈ ps := by assumption) :
    Touches ps s (State.discardAll x) := by
  unfold State.discardAll
  repeat' first
    | with_reducible assumption
    | intro _ _
    | intro _
    | with_reducible apply State.xoffEval_touches
    | with_reducible apply State.discardPackets_touches

theorem State.moduleSafe_touches {ps s x}
    (h : Touches ps s x) (p_regs : Part.regs ∈ ps := by assumption) (p_draws : Part.draws ∈ ps := by assumption) (p_outbox : Part.outbox ∈ ps := by assumption) (p_flt : Part.flt ∈ ps := by assumption) (p_act : Part.act ∈ ps := by assumption) (p_host : Part.host ∈ ps := by assumption) (p_buf : Part.buf ∈ ps := by assumption) (p_pipe : Part.pipe ∈ ps := by assumption) (p_que : Part.que ∈ ps := by assumption) (p_tele : Part.tele ∈ ps := by assumption) :
    Touches ps s (State.moduleSafe x) := by
  unfold State.moduleSafe
  repeat' first
    | with_reducible assumption
    | intro _ _
    | intro _
    | with_reducible apply Touches.foldl
    | with_reducible apply Touches.foldl_snd
    | with_reducible apply Touches.foldl_fst
    | with_reducible apply Touches.foldl_third
    | with_reducible apply State.setB_touches
    | with_reducible apply State.portSafe_touches
    | with_reducible apply State.discardAll_touches

theorem State.trigRecApply_touches {ps s x} {a1}
    (h : Touches ps s x) (p_regs : Part.regs ∈ ps := by assumption) (p_time : Part.time ∈ ps := by assumption) :
    Touches ps s (State.trigRecApply x a1) := by
  unfold State.trigRecApply
  repeat' first
    | with_reducible assumption
    | intro _ _
    | intro _
    | with_reducible apply State.when_touches
    | with_reducible apply State.set_touches
    | with_reducible apply State.setB_touches
    | with_reducible apply State.when_touches
    | with_reducible apply State.trigArm_touches

theorem State.gateRecApply_touches {ps s x} {a1}
    (h : Touches ps s x) (p_regs : Part.regs ∈ ps := by assumption) (p_dev : Part.dev ∈ ps := by assumption) (p_flt : Part.flt ∈ ps := by assumption) (p_que : Part.que ∈ ps := by assumption) :
    Touches ps s (State.gateRecApply x a1) := by
  unfold State.gateRecApply
  repeat' first
    | with_reducible assumption
    | intro _ _
    | intro _
    | with_reducible apply State.when_touches
    | with_reducible apply State.set_touches
    | with_reducible apply State.setB_touches
    | with_reducible apply State.when_touches
    | with_reducible apply State.configChange_touches
    | with_reducible apply State.fill_touches

theorem State.timingApply_touches {ps s x}
    (h : Touches ps s x) (p_regs : Part.regs ∈ ps := by assumption) (p_dev : Part.dev ∈ ps := by assumption) (p_time : Part.time ∈ ps := by assumption) (p_flt : Part.flt ∈ ps := by assumption) (p_que : Part.que ∈ ps := by assumption) :
    Touches ps s (State.timingApply x) := by
  unfold State.timingApply
  repeat' first
    | with_reducible assumption
    | intro _ _
    | intro _
    | with_reducible apply Touches.foldl
    | with_reducible apply Touches.foldl_snd
    | with_reducible apply Touches.foldl_fst
    | with_reducible apply Touches.foldl_third
    | with_reducible apply Touches.upTo
    | with_reducible apply State.setB_touches
    | with_reducible apply State.memZero_touches
    | with_reducible apply State.trigDisarm_touches
    | with_reducible apply State.trigRecApply_touches
    | with_reducible apply State.gateRecApply_touches
    | split
    | dsimp only
    | with_reducible apply Touches.upd
    | exact Or.inl (by assumption)
    | exact Or.inr rfl

theorem State.phasesApply_touches {ps s x}
    (h : Touches ps s x) (p_regs : Part.regs ∈ ps := by assumption) (p_outbox : Part.outbox ∈ ps := by assumption) (p_core : Part.core ∈ ps := by assumption) (p_pwr : Part.pwr ∈ ps := by assumption) (p_host : Part.host ∈ ps := by assumption) :
    Touches ps s (State.phasesApply x) := by
  unfold State.phasesApply
  repeat' first
    | with_reducible assumption
    | intro _ _
    | intro _
    | with_reducible apply Touches.choose
    | with_reducible apply Touches.upTo
    | with_reducible apply State.set_touches
    | with_reducible apply State.phaseApply_touches
    | split
    | dsimp only
    | with_reducible apply Touches.upd
    | exact Or.inl (by assumption)
    | exact Or.inr rfl

theorem State.resetRun_touches {ps s x} {a1}
    (h : Touches ps s x) (p_regs : Part.regs ∈ ps := by assumption) (p_draws : Part.draws ∈ ps := by assumption) (p_outbox : Part.outbox ∈ ps := by assumption) (p_flt : Part.flt ∈ ps := by assumption) (p_act : Part.act ∈ ps := by assumption) (p_host : Part.host ∈ ps := by assumption) (p_buf : Part.buf ∈ ps := by assumption) (p_pipe : Part.pipe ∈ ps := by assumption) (p_que : Part.que ∈ ps := by assumption) (p_tele : Part.tele ∈ ps := by assumption) :
    Touches ps s (State.resetRun x a1) := by
  unfold State.resetRun
  repeat' first
    | with_reducible assumption
    | intro _ _
    | intro _
    | with_reducible apply State.portReset_touches
    | with_reducible apply State.pipeReset_touches
    | split

theorem State.resetWaiting_touches {ps s x}
    (h : Touches ps s x) (p_regs : Part.regs ∈ ps := by assumption) (p_draws : Part.draws ∈ ps := by assumption) (p_outbox : Part.outbox ∈ ps := by assumption) (p_flt : Part.flt ∈ ps := by assumption) (p_act : Part.act ∈ ps := by assumption) (p_host : Part.host ∈ ps := by assumption) (p_boot : Part.boot ∈ ps := by assumption) (p_buf : Part.buf ∈ ps := by assumption) (p_pipe : Part.pipe ∈ ps := by assumption) (p_que : Part.que ∈ ps := by assumption) (p_tele : Part.tele ∈ ps := by assumption) :
    Touches ps s (State.resetWaiting x) := by
  unfold State.resetWaiting
  repeat' first
    | with_reducible assumption
    | intro _ _
    | intro _
    | with_reducible apply Touches.foldl
    | with_reducible apply Touches.foldl_snd
    | with_reducible apply Touches.foldl_fst
    | with_reducible apply Touches.foldl_third
    | with_reducible apply State.setB_touches
    | with_reducible apply State.resetRun_touches
    | split
    | dsimp only
    | with_reducible apply Touches.upd
    | exact Or.inl (by assumption)
    | exact Or.inr rfl

theorem State.loadReady_touches {ps s x} {a1}
    (h : Touches ps s x) (p_regs : Part.regs ∈ ps := by assumption) (p_dev : Part.dev ∈ ps := by assumption) (p_draws : Part.draws ∈ ps := by assumption) (p_outbox : Part.outbox ∈ ps := by assumption) (p_time : Part.time ∈ ps := by assumption) (p_core : Part.core ∈ ps := by assumption) (p_pwr : Part.pwr ∈ ps := by assumption) (p_flt : Part.flt ∈ ps := by assumption) (p_act : Part.act ∈ ps := by assumption) (p_host : Part.host ∈ ps := by assumption) (p_img : Part.img ∈ ps := by assumption) (p_boot : Part.boot ∈ ps := by assumption) (p_buf : Part.buf ∈ ps := by assumption) (p_pipe : Part.pipe ∈ ps := by assumption) (p_que : Part.que ∈ ps := by assumption) (p_tele : Part.tele ∈ ps := by assumption) :
    Touches ps s (State.loadReady x a1) := by
  unfold State.loadReady
  repeat' first
    | with_reducible assumption
    | intro _ _
    | intro _
    | with_reducible apply Touches.choose
    | with_reducible apply State.when_touches
    | with_reducible apply Touches.foldl
    | with_reducible apply Touches.foldl_snd
    | with_reducible apply Touches.foldl_fst
    | with_reducible apply Touches.foldl_third
    | with_reducible apply Touches.upTo
    | with_reducible apply State.set_touches
    | with_reducible apply State.setB_touches
    | with_reducible apply State.when_touches
    | with_reducible apply State.putLink_touches
    | with_reducible apply State.allLines_touches
    | with_reducible apply State.portStart_touches
    | with_reducible apply State.portSettle_touches
    | with_reducible apply State.synceUpdate_touches
    | with_reducible apply State.imgShow_touches
    | with_reducible apply State.imgEnd_touches
    | with_reducible apply State.timingApply_touches
    | with_reducible apply State.phasesApply_touches
    | with_reducible apply State.resetWaiting_touches
    | split
    | dsimp only
    | with_reducible apply Touches.upd
    | exact Or.inl (by assumption)
    | exact Or.inr rfl

theorem State.resetTo_touches {ps s x} {a1}
    (h : Touches ps s x) (p_regs : Part.regs ∈ ps := by assumption) (p_dev : Part.dev ∈ ps := by assumption) (p_draws : Part.draws ∈ ps := by assumption) (p_outbox : Part.outbox ∈ ps := by assumption) (p_time : Part.time ∈ ps := by assumption) (p_core : Part.core ∈ ps := by assumption) (p_pwr : Part.pwr ∈ ps := by assumption) (p_flt : Part.flt ∈ ps := by assumption) (p_act : Part.act ∈ ps := by assumption) (p_anvil : Part.anvil ∈ ps := by assumption) (p_host : Part.host ∈ ps := by assumption) (p_img : Part.img ∈ ps := by assumption) (p_mil : Part.mil ∈ ps := by assumption) (p_assay : Part.assay ∈ ps := by assumption) (p_boot : Part.boot ∈ ps := by assumption) (p_buf : Part.buf ∈ ps := by assumption) (p_pipe : Part.pipe ∈ ps := by assumption) (p_que : Part.que ∈ ps := by assumption) (p_tele : Part.tele ∈ ps := by assumption) :
    Touches ps s (State.resetTo x a1) := by
  unfold State.resetTo
  repeat' first
    | with_reducible assumption
    | intro _ _
    | intro _
    | with_reducible apply Touches.choose
    | with_reducible apply State.when_touches
    | with_reducible apply Touches.foldl
    | with_reducible apply Touches.foldl_snd
    | with_reducible apply Touches.foldl_fst
    | with_reducible apply Touches.foldl_third
    | with_reducible apply State.set_touches
    | with_reducible apply State.setB_touches
    | with_reducible apply State.when_touches
    | with_reducible apply State.refreshRow_touches
    | with_reducible apply State.ringsStop_touches
    | with_reducible apply State.txCut_touches
    | with_reducible apply State.linesOff_touches
    | with_reducible apply State.dmaLinkEnd_touches
    | with_reducible apply State.freshNonce_touches
    | split
    | dsimp only
    | with_reducible apply Touches.upd
    | exact Or.inl (by assumption)
    | exact Or.inr rfl

theorem State.bootOn_touches {ps s x}
    (h : Touches ps s x) (p_regs : Part.regs ∈ ps := by assumption) (p_img : Part.img ∈ ps := by assumption) (p_boot : Part.boot ∈ ps := by assumption) :
    Touches ps s (State.bootOn x) := by
  unfold State.bootOn
  repeat' first
    | with_reducible assumption
    | intro _ _
    | intro _
    | with_reducible apply Touches.choose
    | with_reducible apply State.set_touches
    | with_reducible apply State.storeSense_touches
    | with_reducible apply State.bootTry_touches
    | split
    | dsimp only
    | with_reducible apply Touches.upd
    | exact Or.inl (by assumption)
    | exact Or.inr rfl

theorem State.moduleReset_touches {ps s x} {a1}
    (h : Touches ps s x) (p_regs : Part.regs ∈ ps := by assumption) (p_dev : Part.dev ∈ ps := by assumption) (p_draws : Part.draws ∈ ps := by assumption) (p_outbox : Part.outbox ∈ ps := by assumption) (p_time : Part.time ∈ ps := by assumption) (p_core : Part.core ∈ ps := by assumption) (p_pwr : Part.pwr ∈ ps := by assumption) (p_flt : Part.flt ∈ ps := by assumption) (p_act : Part.act ∈ ps := by assumption) (p_anvil : Part.anvil ∈ ps := by assumption) (p_host : Part.host ∈ ps := by assumption) (p_img : Part.img ∈ ps := by assumption) (p_mil : Part.mil ∈ ps := by assumption) (p_assay : Part.assay ∈ ps := by assumption) (p_boot : Part.boot ∈ ps := by assumption) (p_buf : Part.buf ∈ ps := by assumption) (p_pipe : Part.pipe ∈ ps := by assumption) (p_que : Part.que ∈ ps := by assumption) (p_tele : Part.tele ∈ ps := by assumption) :
    Touches ps s (State.moduleReset x a1) := by
  unfold State.moduleReset
  repeat' first
    | with_reducible assumption
    | intro _ _
    | intro _
    | with_reducible apply State.when_touches
    | with_reducible apply State.set_touches
    | with_reducible apply State.setB_touches
    | with_reducible apply State.inc_touches
    | with_reducible apply State.resetTo_touches
    | with_reducible apply State.bootOn_touches

theorem State.softReset_touches {ps s x} {a1}
    (h : Touches ps s x) (p_regs : Part.regs ∈ ps := by assumption) (p_dev : Part.dev ∈ ps := by assumption) (p_draws : Part.draws ∈ ps := by assumption) (p_outbox : Part.outbox ∈ ps := by assumption) (p_time : Part.time ∈ ps := by assumption) (p_core : Part.core ∈ ps := by assumption) (p_pwr : Part.pwr ∈ ps := by assumption) (p_flt : Part.flt ∈ ps := by assumption) (p_act : Part.act ∈ ps := by assumption) (p_anvil : Part.anvil ∈ ps := by assumption) (p_host : Part.host ∈ ps := by assumption) (p_img : Part.img ∈ ps := by assumption) (p_mil : Part.mil ∈ ps := by assumption) (p_assay : Part.assay ∈ ps := by assumption) (p_boot : Part.boot ∈ ps := by assumption) (p_buf : Part.buf ∈ ps := by assumption) (p_pipe : Part.pipe ∈ ps := by assumption) (p_que : Part.que ∈ ps := by assumption) (p_tele : Part.tele ∈ ps := by assumption) :
    Touches ps s (State.softReset x a1) := by
  unfold State.softReset
  repeat' first
    | with_reducible assumption
    | intro _ _
    | intro _
    | with_reducible apply State.when_touches
    | with_reducible apply State.set_touches
    | with_reducible apply State.setB_touches
    | with_reducible apply State.inc_touches
    | with_reducible apply State.resetTo_touches

theorem State.softFinish_touches {ps s x}
    (h : Touches ps s x) (p_regs : Part.regs ∈ ps := by assumption) (p_img : Part.img ∈ ps := by assumption) (p_boot : Part.boot ∈ ps := by assumption) :
    Touches ps s (State.softFinish x) := by
  unfold State.softFinish
  repeat' first
    | with_reducible assumption
    | intro _ _
    | intro _
    | with_reducible apply Touches.choose
    | with_reducible apply State.bootOn_touches

theorem State.tick_touches {ps s x}
    (h : Touches ps s x) (p_regs : Part.regs ∈ ps := by assumption) (p_img : Part.img ∈ ps := by assumption) (p_boot : Part.boot ∈ ps := by assumption) :
    Touches ps s (State.tick x) := by
  unfold State.tick
  repeat' first
    | with_reducible assumption
    | intro _ _
    | intro _
    | with_reducible apply Touches.choose
    | with_reducible apply State.when_touches
    | with_reducible apply State.incWrap_touches
    | with_reducible apply State.when_touches
    | with_reducible apply State.softFinish_touches

theorem State.resetCommand_touches {ps s x} {a1 a2 a3}
    (h : Touches ps s x) (p_regs : Part.regs ∈ ps := by assumption) (p_dev : Part.dev ∈ ps := by assumption) (p_draws : Part.draws ∈ ps := by assumption) (p_outbox : Part.outbox ∈ ps := by assumption) (p_time : Part.time ∈ ps := by assumption) (p_core : Part.core ∈ ps := by assumption) (p_pwr : Part.pwr ∈ ps := by assumption) (p_flt : Part.flt ∈ ps := by assumption) (p_act : Part.act ∈ ps := by assumption) (p_anvil : Part.anvil ∈ ps := by assumption) (p_host : Part.host ∈ ps := by assumption) (p_img : Part.img ∈ ps := by assumption) (p_mil : Part.mil ∈ ps := by assumption) (p_assay : Part.assay ∈ ps := by assumption) (p_boot : Part.boot ∈ ps := by assumption) (p_buf : Part.buf ∈ ps := by assumption) (p_pipe : Part.pipe ∈ ps := by assumption) (p_que : Part.que ∈ ps := by assumption) (p_tele : Part.tele ∈ ps := by assumption) :
    Touches ps s (State.resetCommand x a1 a2 a3) := by
  unfold State.resetCommand
  repeat' first
    | with_reducible assumption
    | intro _ _
    | intro _
    | with_reducible apply Touches.choose
    | with_reducible apply State.moduleReset_touches
    | with_reducible apply State.softReset_touches

theorem State.powerOn_touches {ps s x} {a1 a2}
    (h : Touches ps s x) (p_regs : Part.regs ∈ ps := by assumption) (p_dev : Part.dev ∈ ps := by assumption) (p_draws : Part.draws ∈ ps := by assumption) (p_readData : Part.readData ∈ ps := by assumption) (p_outbox : Part.outbox ∈ ps := by assumption) (p_time : Part.time ∈ ps := by assumption) (p_core : Part.core ∈ ps := by assumption) (p_pwr : Part.pwr ∈ ps := by assumption) (p_flt : Part.flt ∈ ps := by assumption) (p_act : Part.act ∈ ps := by assumption) (p_anvil : Part.anvil ∈ ps := by assumption) (p_host : Part.host ∈ ps := by assumption) (p_img : Part.img ∈ ps := by assumption) (p_mil : Part.mil ∈ ps := by assumption) (p_assay : Part.assay ∈ ps := by assumption) (p_pins : Part.pins ∈ ps := by assumption) (p_boot : Part.boot ∈ ps := by assumption) (p_buf : Part.buf ∈ ps := by assumption) (p_pipe : Part.pipe ∈ ps := by assumption) (p_que : Part.que ∈ ps := by assumption) (p_tele : Part.tele ∈ ps := by assumption) :
    Touches ps s (State.powerOn x a1 a2) := by
  unfold State.powerOn
  repeat' first
    | with_reducible assumption
    | intro _ _
    | intro _
    | with_reducible apply Touches.choose
    | with_reducible apply State.set_touches
    | with_reducible apply State.setB_touches
    | with_reducible apply State.refreshRow_touches
    | with_reducible apply State.freshNonce_touches
    | with_reducible apply State.bootOn_touches
    | split
    | dsimp only
    | with_reducible apply Touches.upd
    | exact Or.inl (by assumption)

theorem State.resetAssert_touches {ps s x}
    (h : Touches ps s x) (p_regs : Part.regs ∈ ps := by assumption) (p_outbox : Part.outbox ∈ ps := by assumption) (p_flt : Part.flt ∈ ps := by assumption) (p_act : Part.act ∈ ps := by assumption) (p_host : Part.host ∈ ps := by assumption) (p_pins : Part.pins ∈ ps := by assumption) (p_boot : Part.boot ∈ ps := by assumption) (p_buf : Part.buf ∈ ps := by assumption) (p_pipe : Part.pipe ∈ ps := by assumption) (p_que : Part.que ∈ ps := by assumption) (p_tele : Part.tele ∈ ps := by assumption) :
    Touches ps s (State.resetAssert x) := by
  unfold State.resetAssert
  repeat' first
    | with_reducible assumption
    | intro _ _
    | intro _
    | with_reducible apply Touches.choose
    | with_reducible apply State.setB_touches
    | with_reducible apply State.inc_touches
    | with_reducible apply State.linesOff_touches
    | with_reducible apply State.discardAll_touches
    | split
    | dsimp only
    | with_reducible apply Touches.upd
    | exact Or.inl (by assumption)
    | exact Or.inr rfl

theorem State.resetRelease_touches {ps s x}
    (h : Touches ps s x) (p_regs : Part.regs ∈ ps := by assumption) (p_dev : Part.dev ∈ ps := by assumption) (p_draws : Part.draws ∈ ps := by assumption) (p_outbox : Part.outbox ∈ ps := by assumption) (p_time : Part.time ∈ ps := by assumption) (p_core : Part.core ∈ ps := by assumption) (p_pwr : Part.pwr ∈ ps := by assumption) (p_flt : Part.flt ∈ ps := by assumption) (p_act : Part.act ∈ ps := by assumption) (p_anvil : Part.anvil ∈ ps := by assumption) (p_host : Part.host ∈ ps := by assumption) (p_img : Part.img ∈ ps := by assumption) (p_mil : Part.mil ∈ ps := by assumption) (p_assay : Part.assay ∈ ps := by assumption) (p_pins : Part.pins ∈ ps := by assumption) (p_boot : Part.boot ∈ ps := by assumption) (p_buf : Part.buf ∈ ps := by assumption) (p_pipe : Part.pipe ∈ ps := by assumption) (p_que : Part.que ∈ ps := by assumption) (p_tele : Part.tele ∈ ps := by assumption) :
    Touches ps s (State.resetRelease x) := by
  unfold State.resetRelease
  repeat' first
    | with_reducible assumption
    | intro _ _
    | intro _
    | with_reducible apply Touches.choose
    | with_reducible apply State.when_touches
    | with_reducible apply State.setB_touches
    | with_reducible apply State.when_touches
    | with_reducible apply State.fault_touches
    | with_reducible apply State.bootOn_touches
    | with_reducible apply State.moduleReset_touches
    | split
    | dsimp only
    | with_reducible apply Touches.upd
    | exact Or.inl (by assumption)
    | exact Or.inr rfl

theorem State.resetRequest_touches {ps s x} {a1}
    (h : Touches ps s x) (p_regs : Part.regs ∈ ps := by assumption) (p_draws : Part.draws ∈ ps := by assumption) (p_outbox : Part.outbox ∈ ps := by assumption) (p_flt : Part.flt ∈ ps := by assumption) (p_act : Part.act ∈ ps := by assumption) (p_host : Part.host ∈ ps := by assumption) (p_boot : Part.boot ∈ ps := by assumption) (p_buf : Part.buf ∈ ps := by assumption) (p_pipe : Part.pipe ∈ ps := by assumption) (p_que : Part.que ∈ ps := by assumption) (p_tele : Part.tele ∈ ps := by assumption) :
    Touches ps s (State.resetRequest x a1) := by
  unfold State.resetRequest
  repeat' first
    | with_reducible assumption
    | intro _ _
    | intro _
    | with_reducible apply Touches.choose
    | with_reducible apply State.setB_touches
    | with_reducible apply State.resetRun_touches
    | split
    | dsimp only
    | with_reducible apply Touches.upd
    | exact Or.inl (by assumption)
    | exact Or.inr rfl

theorem State.pipeGo_touches {ps s x} {a1}
    (h : Touches ps s x) (p_regs : Part.regs ∈ ps := by assumption) (p_draws : Part.draws ∈ ps := by assumption) (p_outbox : Part.outbox ∈ ps := by assumption) (p_flt : Part.flt ∈ ps := by assumption) (p_act : Part.act ∈ ps := by assumption) (p_host : Part.host ∈ ps := by assumption) (p_boot : Part.boot ∈ ps := by assumption) (p_buf : Part.buf ∈ ps := by assumption) (p_pipe : Part.pipe ∈ ps := by assumption) (p_que : Part.que ∈ ps := by assumption) (p_tele : Part.tele ∈ ps := by assumption) :
    Touches ps s (State.pipeGo x a1) := by
  unfold State.pipeGo
  repeat' first
    | with_reducible assumption
    | intro _ _
    | intro _
    | with_reducible apply State.when_touches
    | with_reducible apply State.when_touches
    | with_reducible apply State.resetRequest_touches

theorem State.portGo_touches {ps s x} {a1}
    (h : Touches ps s x) (p_regs : Part.regs ∈ ps := by assumption) (p_draws : Part.draws ∈ ps := by assumption) (p_outbox : Part.outbox ∈ ps := by assumption) (p_flt : Part.flt ∈ ps := by assumption) (p_act : Part.act ∈ ps := by assumption) (p_host : Part.host ∈ ps := by assumption) (p_boot : Part.boot ∈ ps := by assumption) (p_buf : Part.buf ∈ ps := by assumption) (p_pipe : Part.pipe ∈ ps := by assumption) (p_que : Part.que ∈ ps := by assumption) (p_tele : Part.tele ∈ ps := by assumption) :
    Touches ps s (State.portGo x a1) := by
  unfold State.portGo
  repeat' first
    | with_reducible assumption
    | intro _ _
    | intro _
    | with_reducible apply Touches.choose
    | with_reducible apply State.when_touches
    | with_reducible apply State.setB_touches
    | with_reducible apply State.when_touches
    | with_reducible apply State.resetRequest_touches

theorem State.inputStuck_touches {ps s x} {a1}
    (h : Touches ps s x) (p_regs : Part.regs ∈ ps := by assumption) (p_outbox : Part.outbox ∈ ps := by assumption) (p_flt : Part.flt ∈ ps := by assumption) (p_host : Part.host ∈ ps := by assumption) :
    Touches ps s (State.inputStuck x a1) := by
  unfold State.inputStuck
  repeat' first
    | with_reducible assumption
    | intro _ _
    | intro _
    | with_reducible apply Touches.choose
    | with_reducible apply State.setB_touches
    | with_reducible apply State.event_touches
    | with_reducible apply State.fault_touches
    | split

theorem State.inputUnstuck_touches {ps s x} {a1}
    (h : Touches ps s x) (p_regs : Part.regs ∈ ps := by assumption) (p_pins : Part.pins ∈ ps := by assumption) :
    Touches ps s (State.inputUnstuck x a1) := by
  unfold State.inputUnstuck
  repeat' first
    | with_reducible assumption
    | intro _ _
    | intro _
    | with_reducible apply Touches.choose
    | with_reducible apply State.setB_touches
    | split
    | dsimp only
    | with_reducible apply Touches.upd
    | exact Or.inl (by assumption)
    | exact Or.inr rfl

theorem State.pfailRecords_touches {ps s x} {a1}
    (h : Touches ps s x) (p_regs : Part.regs ∈ ps := by assumption) (p_dev : Part.dev ∈ ps := by assumption) (p_flt : Part.flt ∈ ps := by assumption) (p_anvil : Part.anvil ∈ ps := by assumption) :
    Touches ps s (State.pfailRecords x a1) := by
  unfold State.pfailRecords
  repeat' first
    | with_reducible assumption
    | intro _ _
    | intro _
    | with_reducible apply State.when_touches
    | with_reducible apply Touches.upTo
    | with_reducible apply State.when_touches
    | with_reducible apply State.journalWrite_touches

theorem State.powerFail_touches {ps s x} {a1 a2}
    (h : Touches ps s x) (p_regs : Part.regs ∈ ps := by assumption) (p_dev : Part.dev ∈ ps := by assumption) (p_draws : Part.draws ∈ ps := by assumption) (p_outbox : Part.outbox ∈ ps := by assumption) (p_core : Part.core ∈ ps := by assumption) (p_pwr : Part.pwr ∈ ps := by assumption) (p_flt : Part.flt ∈ ps := by assumption) (p_act : Part.act ∈ ps := by assumption) (p_anvil : Part.anvil ∈ ps := by assumption) (p_host : Part.host ∈ ps := by assumption) (p_img : Part.img ∈ ps := by assumption) (p_assay : Part.assay ∈ ps := by assumption) (p_buf : Part.buf ∈ ps := by assumption) (p_pipe : Part.pipe ∈ ps := by assumption) (p_que : Part.que ∈ ps := by assumption) (p_tele : Part.tele ∈ ps := by assumption) :
    Touches ps s (State.powerFail x a1 a2) := by
  unfold State.powerFail
  repeat' first
    | with_reducible assumption
    | intro _ _
    | intro _
    | with_reducible apply State.setB_touches
    | with_reducible apply State.retarget_touches
    | with_reducible apply State.assayStop_touches
    | with_reducible apply State.hoursCommit_touches
    | with_reducible apply State.anvilOwn_touches
    | with_reducible apply State.ringsStop_touches
    | with_reducible apply State.migrationAbandon_touches
    | with_reducible apply State.allPortsDisabled_touches
    | with_reducible apply State.dmaLinkEnd_touches
    | with_reducible apply State.imgStoreAbort_touches
    | with_reducible apply State.pfailRecords_touches
    | split
    | dsimp only
    | with_reducible apply Touches.upd
    | exact Or.inl (by assumption)
    | exact Or.inr rfl

theorem State.powerFailEvent_touches {ps s x} {a1 a2 a3}
    (h : Touches ps s x) (p_regs : Part.regs ∈ ps := by assumption) (p_dev : Part.dev ∈ ps := by assumption) (p_draws : Part.draws ∈ ps := by assumption) (p_outbox : Part.outbox ∈ ps := by assumption) (p_core : Part.core ∈ ps := by assumption) (p_pwr : Part.pwr ∈ ps := by assumption) (p_flt : Part.flt ∈ ps := by assumption) (p_act : Part.act ∈ ps := by assumption) (p_anvil : Part.anvil ∈ ps := by assumption) (p_host : Part.host ∈ ps := by assumption) (p_img : Part.img ∈ ps := by assumption) (p_assay : Part.assay ∈ ps := by assumption) (p_pins : Part.pins ∈ ps := by assumption) (p_buf : Part.buf ∈ ps := by assumption) (p_pipe : Part.pipe ∈ ps := by assumption) (p_que : Part.que ∈ ps := by assumption) (p_tele : Part.tele ∈ ps := by assumption) :
    Touches ps s (State.powerFailEvent x a1 a2 a3) := by
  unfold State.powerFailEvent
  repeat' first
    | with_reducible assumption
    | intro _ _
    | intro _
    | with_reducible apply Touches.choose
    | with_reducible apply State.when_touches
    | with_reducible apply State.setB_touches
    | with_reducible apply State.inc_touches
    | with_reducible apply State.when_touches
    | with_reducible apply State.powerFail_touches
    | split
    | dsimp only
    | with_reducible apply Touches.upd
    | exact Or.inl (by assumption)
    | exact Or.inr rfl

theorem State.powerRecovery_touches {ps s x}
    (h : Touches ps s x) (p_regs : Part.regs ∈ ps := by assumption) (p_dev : Part.dev ∈ ps := by assumption) (p_draws : Part.draws ∈ ps := by assumption) (p_outbox : Part.outbox ∈ ps := by assumption) (p_time : Part.time ∈ ps := by assumption) (p_core : Part.core ∈ ps := by assumption) (p_pwr : Part.pwr ∈ ps := by assumption) (p_flt : Part.flt ∈ ps := by assumption) (p_act : Part.act ∈ ps := by assumption) (p_anvil : Part.anvil ∈ ps := by assumption) (p_host : Part.host ∈ ps := by assumption) (p_img : Part.img ∈ ps := by assumption) (p_mil : Part.mil ∈ ps := by assumption) (p_assay : Part.assay ∈ ps := by assumption) (p_boot : Part.boot ∈ ps := by assumption) (p_buf : Part.buf ∈ ps := by assumption) (p_pipe : Part.pipe ∈ ps := by assumption) (p_que : Part.que ∈ ps := by assumption) (p_tele : Part.tele ∈ ps := by assumption) :
    Touches ps s (State.powerRecovery x) := by
  unfold State.powerRecovery
  repeat' first
    | with_reducible assumption
    | intro _ _
    | intro _
    | with_reducible apply State.when_touches
    | with_reducible apply State.when_touches
    | with_reducible apply State.softReset_touches

/-! ### Machine/HostLink.lean -/

theorem State.linkEvent_touches {ps s x}
    (h : Touches ps s x) (p_regs : Part.regs ∈ ps := by assumption) (p_outbox : Part.outbox ∈ ps := by assumption) (p_flt : Part.flt ∈ ps := by assumption) (p_host : Part.host ∈ ps := by assumption) (p_img : Part.img ∈ ps := by assumption) :
    Touches ps s (State.linkEvent x) := by
  unfold State.linkEvent
  repeat' first
    | with_reducible assumption
    | intro _ _
    | intro _
    | with_reducible apply State.dmaLinkEnd_touches
    | with_reducible apply State.imgLinkEvent_touches

theorem State.pcieDown_touches {ps s x}
    (h : Touches ps s x) (p_regs : Part.regs ∈ ps := by assumption) (p_outbox : Part.outbox ∈ ps := by assumption) (p_flt : Part.flt ∈ ps := by assumption) (p_host : Part.host ∈ ps := by assumption) (p_img : Part.img ∈ ps := by assumption) :
    Touches ps s (State.pcieDown x) := by
  unfold State.pcieDown
  repeat' first
    | with_reducible assumption
    | intro _ _
    | intro _
    | with_reducible apply State.setB_touches
    | with_reducible apply State.hostEvent_touches
    | with_reducible apply State.linkEvent_touches
    | split
    | dsimp only
    | with_reducible apply Touches.upd
    | exact Or.inl (by assumption)
    | exact Or.inr rfl

theorem State.masterOff_touches {ps s x}
    (h : Touches ps s x) (p_regs : Part.regs ∈ ps := by assumption) (p_outbox : Part.outbox ∈ ps := by assumption) (p_flt : Part.flt ∈ ps := by assumption) (p_host : Part.host ∈ ps := by assumption) (p_img : Part.img ∈ ps := by assumption) :
    Touches ps s (State.masterOff x) := by
  unfold State.masterOff
  repeat' first
    | with_reducible assumption
    | intro _ _
    | intro _
    | with_reducible apply State.setB_touches
    | with_reducible apply State.linkEvent_touches

theorem State.d3Enter_touches {ps s x}
    (h : Touches ps s x) (p_regs : Part.regs ∈ ps := by assumption) (p_outbox : Part.outbox ∈ ps := by assumption) (p_flt : Part.flt ∈ ps := by assumption) (p_host : Part.host ∈ ps := by assumption) (p_img : Part.img ∈ ps := by assumption) :
    Touches ps s (State.d3Enter x) := by
  unfold State.d3Enter
  repeat' first
    | with_reducible assumption
    | intro _ _
    | intro _
    | with_reducible apply State.setB_touches
    | with_reducible apply State.linkEvent_touches

theorem State.cfgMaster_touches {ps s x} {a1}
    (h : Touches ps s x) (p_regs : Part.regs ∈ ps := by assumption) (p_outbox : Part.outbox ∈ ps := by assumption) (p_flt : Part.flt ∈ ps := by assumption) (p_host : Part.host ∈ ps := by assumption) (p_img : Part.img ∈ ps := by assumption) :
    Touches ps s (State.cfgMaster x a1) := by
  unfold State.cfgMaster
  repeat' first
    | with_reducible assumption
    | intro _ _
    | intro _
    | with_reducible apply Touches.choose
    | with_reducible apply State.when_touches
    | with_reducible apply State.setB_touches
    | with_reducible apply State.when_touches
    | with_reducible apply State.msixReleaseAll_touches
    | with_reducible apply State.masterOff_touches

theorem State.cfgPower_touches {ps s x} {a1}
    (h : Touches ps s x) (p_regs : Part.regs ∈ ps := by assumption) (p_outbox : Part.outbox ∈ ps := by assumption) (p_flt : Part.flt ∈ ps := by assumption) (p_host : Part.host ∈ ps := by assumption) (p_img : Part.img ∈ ps := by assumption) :
    Touches ps s (State.cfgPower x a1) := by
  unfold State.cfgPower
  repeat' first
    | with_reducible assumption
    | intro _ _
    | intro _
    | with_reducible apply Touches.choose
    | with_reducible apply State.when_touches
    | with_reducible apply State.setB_touches
    | with_reducible apply State.when_touches
    | with_reducible apply State.msixReleaseAll_touches
    | with_reducible apply State.d3Enter_touches

theorem State.cfgMask_touches {ps s x} {a1}
    (h : Touches ps s x) (p_outbox : Part.outbox ∈ ps := by assumption) (p_host : Part.host ∈ ps := by assumption) :
    Touches ps s (State.cfgMask x a1) := by
  unfold State.cfgMask
  repeat' first
    | with_reducible assumption
    | intro _ _
    | intro _
    | with_reducible apply State.msixReleaseAll_touches
    | split
    | dsimp only
    | with_reducible apply Touches.upd
    | exact Or.inl (by assumption)
    | exact Or.inr rfl

theorem State.cfgWrite_touches {ps s x} {a1 a2}
    (h : Touches ps s x) (p_regs : Part.regs ∈ ps := by assumption) (p_outbox : Part.outbox ∈ ps := by assumption) (p_flt : Part.flt ∈ ps := by assumption) (p_host : Part.host ∈ ps := by assumption) (p_img : Part.img ∈ ps := by assumption) :
    Touches ps s (State.cfgWrite x a1 a2) := by
  unfold State.cfgWrite
  repeat' first
    | with_reducible assumption
    | intro _ _
    | intro _
    | with_reducible apply Touches.choose
    | with_reducible apply State.cfgStore_touches
    | with_reducible apply State.cfgMaster_touches
    | with_reducible apply State.cfgPower_touches
    | with_reducible apply State.cfgMask_touches

/-! ### Machine/Faults.lean -/

theorem State.recWords_touches {ps s x} {a1 a2 a3 a4} (h : Touches ps s x) (p_regs : Part.regs ∈ ps := by assumption) :
    Touches ps s (State.recWords x a1 a2 a3 a4) := by
  unfold State.recWords
  repeat' first
    | with_reducible assumption
    | intro _ _
    | intro _
    | with_reducible apply Touches.choose
    | with_reducible apply Touches.upTo
    | with_reducible apply State.set_touches

theorem State.maskOpen_touches {ps s x} {a1 a2 a3 a4} (h : Touches ps s x) (p_flt : Part.flt ∈ ps := by assumption) :
    Touches ps s (State.maskOpen x a1 a2 a3 a4) := by
  unfold State.maskOpen
  repeat' first
    | with_reducible assumption
    | intro _ _
    | intro _
    | split
    | dsimp only
    | with_reducible apply Touches.upd
    | exact Or.inl (by assumption)
    | exact Or.inr rfl

theorem State.recQueue_touches {ps s x} {a1}
    (h : Touches ps s x) (p_regs : Part.regs ∈ ps := by assumption) (p_flt : Part.flt ∈ ps := by assumption) :
    Touches ps s (State.recQueue x a1) := by
  unfold State.recQueue
  repeat' first
    | with_reducible assumption
    | intro _ _
    | intro _
    | with_reducible apply Touches.choose
    | with_reducible apply State.inc_touches
    | split
    | dsimp only
    | with_reducible apply Touches.upd
    | exact Or.inl (by assumption)
    | exact Or.inr rfl

theorem State.firstCapture_touches {ps s x} {a1} (h : Touches ps s x) (p_regs : Part.regs ∈ ps := by assumption) :
    Touches ps s (State.firstCapture x a1) := by
  unfold State.firstCapture
  repeat' first
    | with_reducible assumption
    | intro _ _
    | intro _
    | with_reducible apply Touches.choose
    | with_reducible apply State.setB_touches
    | with_reducible apply State.recWords_touches

theorem State.escalate_touches {ps s x} {a1} (h : Touches ps s x) (p_flt : Part.flt ∈ ps := by assumption) :
    Touches ps s (State.escalate x a1).2.2 := by
  unfold State.escalate
  repeat' first
    | with_reducible assumption
    | intro _ _
    | intro _
    | with_reducible apply Touches.choose
    | split
    | dsimp only
    | with_reducible apply Touches.upd
    | exact Or.inl (by assumption)
    | exact Or.inr rfl
theorem State.escalate_touchesE {ps s x} {a1} {r0 r1 t} (e : State.escalate x a1 = (r0, r1, t))
    (h : Touches ps s x) (p_flt : Part.flt ∈ ps := by assumption) :
    Touches ps s t := by
  have k := State.escalate_touches (ps := ps) (s := s) (x := x) (a1 := a1) h
  rwa [e] at k

theorem State.decideMasked_touches {ps s x} {a1 a2 a3 a4}
    (h : Touches ps s x) (p_regs : Part.regs ∈ ps := by assumption) (p_flt : Part.flt ∈ ps := by assumption) :
    Touches ps s (State.decideMasked x a1 a2 a3 a4) := by
  unfold State.decideMasked
  repeat' first
    | with_reducible assumption
    | intro _ _
    | intro _
    | with_reducible apply Touches.choose
    | with_reducible apply State.set_touches
    | with_reducible apply State.inc_touches
    | with_reducible apply State.count_touches
    | with_reducible apply State.recQueue_touches
    | split
    | dsimp only
    | with_reducible apply Touches.upd
    | exact Or.inl (by assumption)
    | exact Or.inr rfl

theorem State.faultInt_touches {ps s x}
    (h : Touches ps s x) (p_regs : Part.regs ∈ ps := by assumption) (p_outbox : Part.outbox ∈ ps := by assumption) (p_host : Part.host ∈ ps := by assumption) :
    Touches ps s (State.faultInt x) := by
  unfold State.faultInt
  repeat' first
    | with_reducible assumption
    | intro _ _
    | intro _
    | with_reducible apply Touches.choose
    | with_reducible apply State.setB_touches
    | with_reducible apply State.msixSend_touches

theorem State.blockReset_touches {ps s x} {a1 a2}
    (h : Touches ps s x) (p_regs : Part.regs ∈ ps := by assumption) (p_draws : Part.draws ∈ ps := by assumption) (p_outbox : Part.outbox ∈ ps := by assumption) (p_flt : Part.flt ∈ ps := by assumption) (p_act : Part.act ∈ ps := by assumption) (p_host : Part.host ∈ ps := by assumption) (p_boot : Part.boot ∈ ps := by assumption) (p_buf : Part.buf ∈ ps := by assumption) (p_pipe : Part.pipe ∈ ps := by assumption) (p_que : Part.que ∈ ps := by assumption) (p_tele : Part.tele ∈ ps := by assumption) :
    Touches ps s (State.blockReset x a1 a2) := by
  unfold State.blockReset
  repeat' first
    | with_reducible assumption
    | intro _ _
    | intro _
    | with_reducible apply Touches.choose
    | with_reducible apply State.resetRequest_touches

theorem State.portSafeReact_touches {ps s x} {a1}
    (h : Touches ps s x) (p_regs : Part.regs ∈ ps := by assumption) (p_draws : Part.draws ∈ ps := by assumption) (p_outbox : Part.outbox ∈ ps := by assumption) (p_flt : Part.flt ∈ ps := by assumption) (p_act : Part.act ∈ ps := by assumption) (p_host : Part.host ∈ ps := by assumption) (p_buf : Part.buf ∈ ps := by assumption) (p_pipe : Part.pipe ∈ ps := by assumption) (p_que : Part.que ∈ ps := by assumption) (p_tele : Part.tele ∈ ps := by assumption) :
    Touches ps s (State.portSafeReact x a1) := by
  unfold State.portSafeReact
  repeat' first
    | with_reducible assumption
    | intro _ _
    | intro _
    | with_reducible apply Touches.choose
    | with_reducible apply State.setBit_touches
    | with_reducible apply State.portSafe_touches

theorem State.maskReact_touches {ps s x} {a1 a2 a3 a4} (h : Touches ps s x) (p_flt : Part.flt ∈ ps := by assumption) :
    Touches ps s (State.maskReact x a1 a2 a3 a4) := by
  unfold State.maskReact
  repeat' first
    | with_reducible assumption
    | intro _ _
    | intro _
    | with_reducible apply State.when_touches
    | with_reducible apply State.set_touches
    | with_reducible apply State.when_touches
    | with_reducible apply State.maskOpen_touches

theorem State.react_touches {ps s x} {a1 a2 a3 a4}
    (h : Touches ps s x) (p_regs : Part.regs ∈ ps := by assumption) (p_draws : Part.draws ∈ ps := by assumption) (p_outbox : Part.outbox ∈ ps := by assumption) (p_flt : Part.flt ∈ ps := by assumption) (p_act : Part.act ∈ ps := by assumption) (p_host : Part.host ∈ ps := by assumption) (p_boot : Part.boot ∈ ps := by assumption) (p_buf : Part.buf ∈ ps := by assumption) (p_pipe : Part.pipe ∈ ps := by assumption) (p_que : Part.que ∈ ps := by assumption) (p_tele : Part.tele ∈ ps := by assumption) :
    Touches ps s (State.react x a1 a2 a3 a4) := by
  unfold State.react
  repeat' first
    | with_reducible assumption
    | intro _ _
    | intro _
    | with_reducible apply State.when_touches
    | with_reducible apply State.set_touches
    | with_reducible apply State.setB_touches
    | with_reducible apply State.when_touches
    | with_reducible apply State.moduleSafe_touches
    | with_reducible apply State.faultInt_touches
    | with_reducible apply State.blockReset_touches
    | with_reducible apply State.portSafeReact_touches
    | with_reducible apply State.maskReact_touches
    | split
    | dsimp only
    | with_reducible apply Touches.upd
    | exact Or.inl (by assumption)
    | exact Or.inr rfl

theorem State.decideOpen_touches {ps s x} {a1 a2 a3}
    (h : Touches ps s x) (p_regs : Part.regs ∈ ps := by assumption) (p_draws : Part.draws ∈ ps := by assumption) (p_outbox : Part.outbox ∈ ps := by assumption) (p_flt : Part.flt ∈ ps := by assumption) (p_act : Part.act ∈ ps := by assumption) (p_host : Part.host ∈ ps := by assumption) (p_boot : Part.boot ∈ ps := by assumption) (p_buf : Part.buf ∈ ps := by assumption) (p_pipe : Part.pipe ∈ ps := by assumption) (p_que : Part.que ∈ ps := by assumption) (p_tele : Part.tele ∈ ps := by assumption) :
    Touches ps s (State.decideOpen x a1 a2 a3) := by
  unfold State.decideOpen
  repeat' first
    | with_reducible assumption
    | intro _ _
    | intro _
    | with_reducible apply Touches.choose
    | with_reducible apply State.set_touches
    | with_reducible apply State.inc_touches
    | with_reducible apply State.count_touches
    | with_reducible apply State.recQueue_touches
    | with_reducible apply State.firstCapture_touches
    | with_reducible apply State.escalate_touches
    | with_reducible apply State.react_touches
    | refine State.escalate_touchesE (by with_reducible assumption) ?_
    | split
    | dsimp only
    | with_reducible apply Touches.upd
    | exact Or.inl (by assumption)
    | exact Or.inr rfl

theorem State.faultDecide_touches {ps s x}
    (h : Touches ps s x) (p_regs : Part.regs ∈ ps := by assumption) (p_draws : Part.draws ∈ ps := by assumption) (p_outbox : Part.outbox ∈ ps := by assumption) (p_flt : Part.flt ∈ ps := by assumption) (p_act : Part.act ∈ ps := by assumption) (p_host : Part.host ∈ ps := by assumption) (p_boot : Part.boot ∈ ps := by assumption) (p_buf : Part.buf ∈ ps := by assumption) (p_pipe : Part.pipe ∈ ps := by assumption) (p_que : Part.que ∈ ps := by assumption) (p_tele : Part.tele ∈ ps := by assumption) :
    Touches ps s (State.faultDecide x) := by
  unfold State.faultDecide
  repeat' first
    | with_reducible assumption
    | intro _ _
    | intro _
    | with_reducible apply State.incWrap_touches
    | with_reducible apply State.decideMasked_touches
    | with_reducible apply State.decideOpen_touches
    | split
    | dsimp only
    | with_reducible apply Touches.upd
    | exact Or.inl (by assumption)
    | exact Or.inr rfl

theorem State.histWrite_touches {ps s x} {a1} (h : Touches ps s x) (p_regs : Part.regs ∈ ps := by assumption) :
    Touches ps s (State.histWrite x a1) := by
  unfold State.histWrite
  repeat' first
    | with_reducible assumption
    | intro _ _
    | intro _
    | with_reducible apply State.set_touches
    | with_reducible apply State.recWords_touches

theorem State.ringRecord_touches {ps s x} {a1}
    (h : Touches ps s x) (p_regs : Part.regs ∈ ps := by assumption) (p_dev : Part.dev ∈ ps := by assumption) (p_outbox : Part.outbox ∈ ps := by assumption) (p_flt : Part.flt ∈ ps := by assumption) (p_host : Part.host ∈ ps := by assumption) :
    Touches ps s (State.ringRecord x a1) := by
  unfold State.ringRecord
  repeat' first
    | with_reducible assumption
    | intro _ _
    | intro _
    | with_reducible apply Touches.choose
    | with_reducible apply State.inc_touches
    | with_reducible apply State.eventRingWrite_touches

theorem State.faultLine_touches {ps s x} {a1 a2}
    (h : Touches ps s x) (p_regs : Part.regs ∈ ps := by assumption) (p_dev : Part.dev ∈ ps := by assumption) (p_flt : Part.flt ∈ ps := by assumption) (p_anvil : Part.anvil ∈ ps := by assumption) :
    Touches ps s (State.faultLine x a1 a2) := by
  unfold State.faultLine
  repeat' first
    | with_reducible assumption
    | intro _ _
    | intro _
    | with_reducible apply State.journalWrite_touches

theorem State.storeRecord_touches {ps s x} {a1 a2}
    (h : Touches ps s x) (p_regs : Part.regs ∈ ps := by assumption) (p_dev : Part.dev ∈ ps := by assumption) (p_flt : Part.flt ∈ ps := by assumption) (p_anvil : Part.anvil ∈ ps := by assumption) :
    Touches ps s (State.storeRecord x a1 a2) := by
  unfold State.storeRecord
  repeat' first
    | with_reducible assumption
    | intro _ _
    | intro _
    | with_reducible apply Touches.choose
    | with_reducible apply State.inc_touches
    | with_reducible apply State.faultLine_touches
    | split
    | dsimp only
    | with_reducible apply Touches.upd
    | exact Or.inl (by assumption)
    | exact Or.inr rfl

theorem State.faultRecord_touches {ps s x} {a1}
    (h : Touches ps s x) (p_regs : Part.regs ∈ ps := by assumption) (p_dev : Part.dev ∈ ps := by assumption) (p_outbox : Part.outbox ∈ ps := by assumption) (p_flt : Part.flt ∈ ps := by assumption) (p_act : Part.act ∈ ps := by assumption) (p_anvil : Part.anvil ∈ ps := by assumption) (p_host : Part.host ∈ ps := by assumption) :
    Touches ps s (State.faultRecord x a1) := by
  unfold State.faultRecord
  repeat' first
    | with_reducible assumption
    | intro _ _
    | intro _
    | with_reducible apply State.tally_touches
    | with_reducible apply State.histWrite_touches
    | with_reducible apply State.ringRecord_touches
    | with_reducible apply State.storeRecord_touches
    | split
    | dsimp only
    | with_reducible apply Touches.upd
    | exact Or.inl (by assumption)
    | exact Or.inr rfl

theorem State.maskEnd_touches {ps s x} (h : Touches ps s x) (p_flt : Part.flt ∈ ps := by assumption) :
    Touches ps s (State.maskEnd x) := by
  unfold State.maskEnd
  repeat' first
    | with_reducible assumption
    | intro _ _
    | intro _
    | split
    | dsimp only
    | with_reducible apply Touches.upd
    | exact Or.inl (by assumption)
    | exact Or.inr rfl

theorem State.autoReset_touches {ps s x}
    (h : Touches ps s x) (p_regs : Part.regs ∈ ps := by assumption) (p_dev : Part.dev ∈ ps := by assumption) (p_draws : Part.draws ∈ ps := by assumption) (p_outbox : Part.outbox ∈ ps := by assumption) (p_time : Part.time ∈ ps := by assumption) (p_core : Part.core ∈ ps := by assumption) (p_pwr : Part.pwr ∈ ps := by assumption) (p_flt : Part.flt ∈ ps := by assumption) (p_act : Part.act ∈ ps := by assumption) (p_anvil : Part.anvil ∈ ps := by assumption) (p_host : Part.host ∈ ps := by assumption) (p_img : Part.img ∈ ps := by assumption) (p_mil : Part.mil ∈ ps := by assumption) (p_assay : Part.assay ∈ ps := by assumption) (p_boot : Part.boot ∈ ps := by assumption) (p_buf : Part.buf ∈ ps := by assumption) (p_pipe : Part.pipe ∈ ps := by assumption) (p_que : Part.que ∈ ps := by assumption) (p_tele : Part.tele ∈ ps := by assumption) :
    Touches ps s (State.autoReset x) := by
  unfold State.autoReset
  repeat' first
    | with_reducible assumption
    | intro _ _
    | intro _
    | with_reducible apply Touches.choose
    | with_reducible apply State.moduleReset_touches
    | split

theorem State.portSafeRelease_touches {ps s x} {a1}
    (h : Touches ps s x) (p_regs : Part.regs ∈ ps := by assumption) (p_draws : Part.draws ∈ ps := by assumption) (p_outbox : Part.outbox ∈ ps := by assumption) (p_flt : Part.flt ∈ ps := by assumption) (p_act : Part.act ∈ ps := by assumption) (p_host : Part.host ∈ ps := by assumption) (p_buf : Part.buf ∈ ps := by assumption) (p_pipe : Part.pipe ∈ ps := by assumption) (p_que : Part.que ∈ ps := by assumption) (p_tele : Part.tele ∈ ps := by assumption) :
    Touches ps s (State.portSafeRelease x a1) := by
  unfold State.portSafeRelease
  repeat' first
    | with_reducible assumption
    | intro _ _
    | intro _
    | with_reducible apply Touches.choose
    | with_reducible apply State.clearBit_touches
    | with_reducible apply State.portLeaveSafe_touches

theorem State.injGate_touches {ps s x} {a1} (h1 : ∀ y, Touches ps s y → Touches ps s (a1 y))
    (h : Touches ps s x) (p_regs : Part.regs ∈ ps := by assumption) :
    Touches ps s (State.injGate x a1) := by
  unfold State.injGate
  repeat' first
    | with_reducible assumption
    | intro _ _
    | intro _
    | apply h1
    | with_reducible apply Touches.choose
    | with_reducible apply State.setB_touches

theorem State.injEvent_touches {ps s x} (h : Touches ps s x) (p_flt : Part.flt ∈ ps := by assumption) :
    Touches ps s (State.injEvent x) := by
  unfold State.injEvent
  repeat' first
    | with_reducible assumption
    | intro _ _
    | intro _
    | split
    | dsimp only
    | with_reducible apply Touches.upd
    | exact Or.inl (by assumption)
    | exact Or.inr rfl

theorem State.injMemory_touches {ps s x} (h : Touches ps s x) (p_flt : Part.flt ∈ ps := by assumption) :
    Touches ps s (State.injMemory x) := by
  unfold State.injMemory
  repeat' first
    | with_reducible assumption
    | intro _ _
    | intro _
    | with_reducible apply Touches.choose
    | split
    | dsimp only
    | with_reducible apply Touches.upd
    | exact Or.inl (by assumption)
    | exact Or.inr rfl

theorem State.injLane_touches {ps s x} (h : Touches ps s x) (p_outbox : Part.outbox ∈ ps := by assumption) :
    Touches ps s (State.injLane x) := by
  unfold State.injLane
  repeat' first
    | with_reducible assumption
    | intro _ _
    | intro _
    | with_reducible apply Touches.choose
    | with_reducible apply State.laneInject_touches
    | split
    | dsimp only

theorem State.injGo_touches {ps s x}
    (h : Touches ps s x) (p_regs : Part.regs ∈ ps := by assumption) (p_outbox : Part.outbox ∈ ps := by assumption) (p_flt : Part.flt ∈ ps := by assumption) :
    Touches ps s (State.injGo x) := by
  unfold State.injGo
  repeat' first
    | with_reducible assumption
    | intro _ _
    | intro _
    | with_reducible apply State.injGate_touches
    | with_reducible apply State.injEvent_touches
    | with_reducible apply State.injMemory_touches
    | with_reducible apply State.injLane_touches
    | split

/-! ### Machine/Security.lean -/

theorem State.zeroMemories_touches {ps s x}
    (h : Touches ps s x) (p_dev : Part.dev ∈ ps := by assumption) (p_flt : Part.flt ∈ ps := by assumption) (p_tele : Part.tele ∈ ps := by assumption) :
    Touches ps s (State.zeroMemories x) := by
  unfold State.zeroMemories
  repeat' first
    | with_reducible assumption
    | intro _ _
    | intro _
    | with_reducible apply State.memZero_touches
    | split
    | dsimp only
    | with_reducible apply Touches.upd
    | exact Or.inl (by assumption)
    | exact Or.inr rfl

theorem State.stopTraffic_touches {ps s x}
    (h : Touches ps s x) (p_regs : Part.regs ∈ ps := by assumption) (p_draws : Part.draws ∈ ps := by assumption) (p_outbox : Part.outbox ∈ ps := by assumption) (p_flt : Part.flt ∈ ps := by assumption) (p_act : Part.act ∈ ps := by assumption) (p_host : Part.host ∈ ps := by assumption) (p_img : Part.img ∈ ps := by assumption) (p_buf : Part.buf ∈ ps := by assumption) (p_pipe : Part.pipe ∈ ps := by assumption) (p_que : Part.que ∈ ps := by assumption) (p_tele : Part.tele ∈ ps := by assumption) :
    Touches ps s (State.stopTraffic x) := by
  unfold State.stopTraffic
  repeat' first
    | with_reducible assumption
    | intro _ _
    | intro _
    | with_reducible apply State.ringsStop_touches
    | with_reducible apply State.allPortsDisabled_touches
    | with_reducible apply State.dmaLinkEnd_touches
    | with_reducible apply State.imgEndRunning_touches
    | with_reducible apply State.discardAll_touches

theorem State.milestEffect_touches {ps s x} {a1 a2}
    (h : Touches ps s x) (p_regs : Part.regs ∈ ps := by assumption) (p_dev : Part.dev ∈ ps := by assumption) (p_draws : Part.draws ∈ ps := by assumption) (p_outbox : Part.outbox ∈ ps := by assumption) (p_time : Part.time ∈ ps := by assumption) (p_core : Part.core ∈ ps := by assumption) (p_flt : Part.flt ∈ ps := by assumption) (p_act : Part.act ∈ ps := by assumption) (p_host : Part.host ∈ ps := by assumption) (p_img : Part.img ∈ ps := by assumption) (p_mil : Part.mil ∈ ps := by assumption) (p_buf : Part.buf ∈ ps := by assumption) (p_pipe : Part.pipe ∈ ps := by assumption) (p_que : Part.que ∈ ps := by assumption) (p_tele : Part.tele ∈ ps := by assumption) :
    Touches ps s (State.milestEffect x a1 a2) := by
  unfold State.milestEffect
  repeat' first
    | with_reducible assumption
    | intro _ _
    | intro _
    | with_reducible apply Touches.foldl
    | with_reducible apply Touches.foldl_snd
    | with_reducible apply Touches.foldl_fst
    | with_reducible apply Touches.foldl_third
    | with_reducible apply State.setB_touches
    | with_reducible apply State.imgUnload_touches
    | with_reducible apply State.zeroMemories_touches
    | with_reducible apply State.stopTraffic_touches
    | split
    | dsimp only
    | with_reducible apply Touches.upd
    | exact Or.inl (by assumption)
    | exact Or.inr rfl

theorem State.milestEnd_touches {ps s x} {a1 a2}
    (h : Touches ps s x) (p_regs : Part.regs ∈ ps := by assumption) (p_draws : Part.draws ∈ ps := by assumption) (p_outbox : Part.outbox ∈ ps := by assumption) (p_flt : Part.flt ∈ ps := by assumption) (p_host : Part.host ∈ ps := by assumption) (p_mil : Part.mil ∈ ps := by assumption) :
    Touches ps s (State.milestEnd x a1 a2) := by
  unfold State.milestEnd
  repeat' first
    | with_reducible assumption
    | intro _ _
    | intro _
    | with_reducible apply State.when_touches
    | with_reducible apply State.set_touches
    | with_reducible apply State.when_touches
    | with_reducible apply State.event_touches
    | with_reducible apply State.fault_touches
    | with_reducible apply State.freshNonce_touches

theorem State.milest_touches {ps s x} {a1 a2}
    (h : Touches ps s x) (p_regs : Part.regs ∈ ps := by assumption) (p_dev : Part.dev ∈ ps := by assumption) (p_draws : Part.draws ∈ ps := by assumption) (p_outbox : Part.outbox ∈ ps := by assumption) (p_time : Part.time ∈ ps := by assumption) (p_core : Part.core ∈ ps := by assumption) (p_flt : Part.flt ∈ ps := by assumption) (p_act : Part.act ∈ ps := by assumption) (p_host : Part.host ∈ ps := by assumption) (p_img : Part.img ∈ ps := by assumption) (p_mil : Part.mil ∈ ps := by assumption) (p_buf : Part.buf ∈ ps := by assumption) (p_pipe : Part.pipe ∈ ps := by assumption) (p_que : Part.que ∈ ps := by assumption) (p_tele : Part.tele ∈ ps := by assumption) :
    Touches ps s (State.milest x a1 a2) := by
  unfold State.milest
  repeat' first
    | with_reducible assumption
    | intro _ _
    | intro _
    | with_reducible apply Touches.choose
    | with_reducible apply State.milestEffect_touches
    | with_reducible apply State.milestEnd_touches

theorem State.milestRow_touches {ps s x} {a1 a2 a3}
    (h : Touches ps s x) (p_regs : Part.regs ∈ ps := by assumption) (p_dev : Part.dev ∈ ps := by assumption) (p_draws : Part.draws ∈ ps := by assumption) (p_outbox : Part.outbox ∈ ps := by assumption) (p_time : Part.time ∈ ps := by assumption) (p_core : Part.core ∈ ps := by assumption) (p_flt : Part.flt ∈ ps := by assumption) (p_act : Part.act ∈ ps := by assumption) (p_host : Part.host ∈ ps := by assumption) (p_img : Part.img ∈ ps := by assumption) (p_mil : Part.mil ∈ ps := by assumption) (p_buf : Part.buf ∈ ps := by assumption) (p_pipe : Part.pipe ∈ ps := by assumption) (p_que : Part.que ∈ ps := by assumption) (p_tele : Part.tele ∈ ps := by assumption) :
    Touches ps s (State.milestRow x a1 a2 a3) := by
  unfold State.milestRow
  repeat' first
    | with_reducible assumption
    | intro _ _
    | intro _
    | with_reducible apply Touches.choose
    | with_reducible apply State.milest_touches

theorem State.spdmAnswer_touches {ps s x} {a1 a2 a3} (h3 : ∀ y, Touches ps s y → Touches ps s (a3 y))
    (h : Touches ps s x) (p_outbox : Part.outbox ∈ ps := by assumption) :
    Touches ps s (State.spdmAnswer x a1 a2 a3) := by
  unfold State.spdmAnswer
  repeat' first
    | with_reducible assumption
    | intro _ _
    | intro _
    | apply h3
    | with_reducible apply Touches.choose
    | with_reducible apply State.emit_touches

theorem State.jtagLoad_touches {ps s x} {a1} (h : Touches ps s x) (p_pins : Part.pins ∈ ps := by assumption) :
    Touches ps s (State.jtagLoad x a1) := by
  unfold State.jtagLoad
  repeat' first
    | with_reducible assumption
    | intro _ _
    | intro _
    | split
    | dsimp only
    | with_reducible apply Touches.upd
    | exact Or.inl (by assumption)
    | exact Or.inr rfl

theorem State.jtagBypass_touches {ps s x}
    (h : Touches ps s x) (p_outbox : Part.outbox ∈ ps := by assumption) (p_pins : Part.pins ∈ ps := by assumption) :
    Touches ps s (State.jtagBypass x) := by
  unfold State.jtagBypass
  repeat' first
    | with_reducible assumption
    | intro _ _
    | intro _
    | with_reducible apply State.emit_touches
    | with_reducible apply State.bypass_touches
    | with_reducible apply State.jtagLoad_touches

theorem State.jtagIr_touches {ps s x} {a1 a2} (h2 : ∀ y, Touches ps s y → Touches ps s (a2 y))
    (h : Touches ps s x) (p_outbox : Part.outbox ∈ ps := by assumption) (p_pins : Part.pins ∈ ps := by assumption) :
    Touches ps s (State.jtagIr x a1 a2) := by
  unfold State.jtagIr
  repeat' first
    | with_reducible assumption
    | intro _ _
    | intro _
    | apply h2
    | with_reducible apply Touches.choose
    | with_reducible apply State.when_touches
    | with_reducible apply State.when_touches
    | with_reducible apply State.jtagBypass_touches

theorem State.assayEnter_touches {ps s x} {a1}
    (h : Touches ps s x) (p_regs : Part.regs ∈ ps := by assumption) (p_dev : Part.dev ∈ ps := by assumption) (p_draws : Part.draws ∈ ps := by assumption) (p_tele : Part.tele ∈ ps := by assumption) :
    Touches ps s (State.assayEnter x a1) := by
  unfold State.assayEnter
  repeat' first
    | with_reducible assumption
    | intro _ _
    | intro _
    | with_reducible apply Touches.choose
    | with_reducible apply Touches.foldl
    | with_reducible apply Touches.foldl_snd
    | with_reducible apply Touches.foldl_fst
    | with_reducible apply Touches.foldl_third
    | with_reducible apply State.set_touches
    | with_reducible apply State.draw_touches
    | split
    | dsimp only
    | with_reducible apply Touches.upd
    | exact Or.inl (by assumption)
    | exact Or.inr rfl

theorem State.assayStart_touches {ps s x}
    (h : Touches ps s x) (p_regs : Part.regs ∈ ps := by assumption) (p_dev : Part.dev ∈ ps := by assumption) (p_draws : Part.draws ∈ ps := by assumption) (p_outbox : Part.outbox ∈ ps := by assumption) (p_core : Part.core ∈ ps := by assumption) (p_flt : Part.flt ∈ ps := by assumption) (p_act : Part.act ∈ ps := by assumption) (p_host : Part.host ∈ ps := by assumption) (p_img : Part.img ∈ ps := by assumption) (p_assay : Part.assay ∈ ps := by assumption) (p_buf : Part.buf ∈ ps := by assumption) (p_pipe : Part.pipe ∈ ps := by assumption) (p_que : Part.que ∈ ps := by assumption) (p_tele : Part.tele ∈ ps := by assumption) :
    Touches ps s (State.assayStart x) := by
  unfold State.assayStart
  repeat' first
    | with_reducible assumption
    | intro _ _
    | intro _
    | with_reducible apply State.when_touches
    | with_reducible apply Touches.upTo
    | with_reducible apply State.set_touches
    | with_reducible apply State.setB_touches
    | with_reducible apply State.when_touches
    | with_reducible apply State.retarget_touches
    | with_reducible apply State.stopTraffic_touches
    | with_reducible apply State.assayEnter_touches
    | split
    | dsimp only
    | with_reducible apply Touches.upd
    | exact Or.inl (by assumption)
    | exact Or.inr rfl

theorem State.assayGo_touches {ps s x} {a1 a2}
    (h : Touches ps s x) (p_regs : Part.regs ∈ ps := by assumption) (p_dev : Part.dev ∈ ps := by assumption) (p_draws : Part.draws ∈ ps := by assumption) (p_outbox : Part.outbox ∈ ps := by assumption) (p_core : Part.core ∈ ps := by assumption) (p_flt : Part.flt ∈ ps := by assumption) (p_act : Part.act ∈ ps := by assumption) (p_host : Part.host ∈ ps := by assumption) (p_img : Part.img ∈ ps := by assumption) (p_assay : Part.assay ∈ ps := by assumption) (p_buf : Part.buf ∈ ps := by assumption) (p_pipe : Part.pipe ∈ ps := by assumption) (p_que : Part.que ∈ ps := by assumption) (p_tele : Part.tele ∈ ps := by assumption) :
    Touches ps s (State.assayGo x a1 a2) := by
  unfold State.assayGo
  repeat' first
    | with_reducible assumption
    | intro _ _
    | intro _
    | with_reducible apply Touches.choose
    | with_reducible apply State.set_touches
    | with_reducible apply State.assayStart_touches

theorem State.unitLost_touches {ps s y u} (h : Touches ps s y.2) (p_flt : Part.flt ∈ ps := by assumption) :
    Touches ps s (State.unitLost y u).2 :=
  State.fault_touches h

theorem State.unitFound_touches {ps s t y u}
    (h : Touches ps s y.2) (p_regs : Part.regs ∈ ps := by assumption) (p_flt : Part.flt ∈ ps := by assumption) (p_assay : Part.assay ∈ ps := by assumption) (p_buf : Part.buf ∈ ps := by assumption) :
    Touches ps s (State.unitFound t y u).2 := by
  unfold State.unitFound
  dsimp only
  split
  · split
    · exact State.migTrigger_touches h
    · exact State.unitLost_touches h
  · split
    · exact Touches.assay h
    · exact State.unitLost_touches h
  · exact State.unitLost_touches h

theorem State.assayCount_touches {ps s x t l}
    (h : Touches ps s x) (p_regs : Part.regs ∈ ps := by assumption) (p_flt : Part.flt ∈ ps := by assumption) (p_assay : Part.assay ∈ ps := by assumption) (p_buf : Part.buf ∈ ps := by assumption) :
    Touches ps s (State.assayCount x t l) := by
  have k : Touches ps s (l.foldl (State.unitFound t) (({} : AssayTally), x)).2 :=
    Touches.foldl_snd (fun _ _ hy => State.unitFound_touches hy) h
  unfold State.assayCount
  exact State.set_touches (State.set_touches
    (State.set_touches (State.set_touches k)))

theorem State.assayBuffer_touches {ps s x} {a1 a2}
    (h : Touches ps s x) (p_regs : Part.regs ∈ ps := by assumption) (p_draws : Part.draws ∈ ps := by assumption) (p_flt : Part.flt ∈ ps := by assumption) :
    Touches ps s (State.assayBuffer x a1 a2) := by
  unfold State.assayBuffer
  repeat' first
    | with_reducible assumption
    | intro _ _
    | intro _
    | with_reducible apply State.when_touches
    | with_reducible apply State.set_touches
    | with_reducible apply State.setB_touches
    | with_reducible apply State.when_touches
    | with_reducible apply State.draw_touches
    | with_reducible apply State.fault_touches

theorem State.assayTestDone_touches {ps s x} {a1 a2 a3}
    (h : Touches ps s x) (p_regs : Part.regs ∈ ps := by assumption) (p_dev : Part.dev ∈ ps := by assumption) (p_draws : Part.draws ∈ ps := by assumption) (p_outbox : Part.outbox ∈ ps := by assumption) (p_core : Part.core ∈ ps := by assumption) (p_flt : Part.flt ∈ ps := by assumption) (p_host : Part.host ∈ ps := by assumption) (p_assay : Part.assay ∈ ps := by assumption) (p_buf : Part.buf ∈ ps := by assumption) (p_tele : Part.tele ∈ ps := by assumption) :
    Touches ps s (State.assayTestDone x a1 a2 a3) := by
  unfold State.assayTestDone
  repeat' first
    | with_reducible assumption
    | intro _ _
    | intro _
    | with_reducible apply State.when_touches
    | with_reducible apply State.when_touches
    | with_reducible apply State.assayEnd_touches
    | with_reducible apply State.assayEnter_touches
    | with_reducible apply State.assayCount_touches
    | with_reducible apply State.assayBuffer_touches
    | split
    | dsimp only
    | with_reducible apply Touches.upd
    | exact Or.inl (by assumption)
    | exact Or.inr rfl

theorem State.assayFail_touches {ps s x} {a1}
    (h : Touches ps s x) (p_regs : Part.regs ∈ ps := by assumption) (p_outbox : Part.outbox ∈ ps := by assumption) (p_core : Part.core ∈ ps := by assumption) (p_host : Part.host ∈ ps := by assumption) (p_assay : Part.assay ∈ ps := by assumption) :
    Touches ps s (State.assayFail x a1) := by
  unfold State.assayFail
  repeat' first
    | with_reducible assumption
    | intro _ _
    | intro _
    | with_reducible apply State.when_touches
    | with_reducible apply State.when_touches
    | with_reducible apply State.assayStop_touches

/-! ### Machine/HostWrite.lean -/

theorem State.bucketBefore_touches {ps s x} {a1 a2 a3}
    (h : Touches ps s x) (p_buf : Part.buf ∈ ps := by assumption) (p_pipe : Part.pipe ∈ ps := by assumption) :
    Touches ps s (State.bucketBefore x a1 a2 a3) := by
  unfold State.bucketBefore
  repeat' first
    | with_reducible assumption
    | intro _ _
    | intro _
    | with_reducible apply Touches.choose
    | with_reducible apply State.slowPut_touches
    | with_reducible apply State.learnPut_touches

theorem State.fieldWrite_touches {ps s x} {a1 a2 a3 a4 a5}
    (h : Touches ps s x) (p_regs : Part.regs ∈ ps := by assumption) (p_buf : Part.buf ∈ ps := by assumption) (p_pipe : Part.pipe ∈ ps := by assumption) :
    Touches ps s (State.fieldWrite x a1 a2 a3 a4 a5) := by
  unfold State.fieldWrite
  repeat' first
    | with_reducible assumption
    | intro _ _
    | intro _
    | with_reducible apply Touches.choose
    | with_reducible apply State.set_touches
    | with_reducible apply State.bucketBefore_touches
    | split

theorem State.narrowWrite_touches {ps s x} {a1 a2}
    (h : Touches ps s x) (p_regs : Part.regs ∈ ps := by assumption) (p_buf : Part.buf ∈ ps := by assumption) (p_pipe : Part.pipe ∈ ps := by assumption) :
    Touches ps s (State.narrowWrite x a1 a2) := by
  unfold State.narrowWrite
  repeat' first
    | with_reducible assumption
    | intro _ _
    | intro _
    | with_reducible apply Touches.foldl
    | with_reducible apply Touches.foldl_snd
    | with_reducible apply Touches.foldl_fst
    | with_reducible apply Touches.foldl_third
    | with_reducible apply State.fieldWrite_touches

theorem State.wideCommit_touches {ps s x} {a1 a2}
    (h : Touches ps s x) (p_regs : Part.regs ∈ ps := by assumption) (p_outbox : Part.outbox ∈ ps := by assumption) (p_buf : Part.buf ∈ ps := by assumption) (p_pipe : Part.pipe ∈ ps := by assumption) :
    Touches ps s (State.wideCommit x a1 a2) := by
  unfold State.wideCommit
  repeat' first
    | with_reducible assumption
    | intro _ _
    | intro _
    | with_reducible apply Touches.choose
    | with_reducible apply State.sampleReload_touches
    | with_reducible apply State.lineSend_touches
    | with_reducible apply State.fieldWrite_touches

theorem State.wideWrite_touches {ps s x} {a1 a2 a3}
    (h : Touches ps s x) (p_regs : Part.regs ∈ ps := by assumption) (p_outbox : Part.outbox ∈ ps := by assumption) (p_time : Part.time ∈ ps := by assumption) (p_core : Part.core ∈ ps := by assumption) (p_pwr : Part.pwr ∈ ps := by assumption) (p_flt : Part.flt ∈ ps := by assumption) (p_host : Part.host ∈ ps := by assumption) (p_img : Part.img ∈ ps := by assumption) (p_buf : Part.buf ∈ ps := by assumption) (p_pipe : Part.pipe ∈ ps := by assumption) (p_que : Part.que ∈ ps := by assumption) (p_tele : Part.tele ∈ ps := by assumption) :
    Touches ps s (State.wideWrite x a1 a2 a3) := by
  unfold State.wideWrite
  repeat' first
    | with_reducible assumption
    | intro _ _
    | intro _
    | with_reducible apply Touches.choose
    | with_reducible apply State.rateCommit_touches
    | with_reducible apply State.wideCommit_touches
    | split
    | dsimp only
    | with_reducible apply Touches.upd
    | exact Or.inl (by assumption)
    | exact Or.inr rfl

theorem State.claspWord_touches {ps s x} {a1 a2 a3 a4} (h : Touches ps s x) (p_regs : Part.regs ∈ ps := by assumption) :
    Touches ps s (State.claspWord x a1 a2 a3 a4) := by
  unfold State.claspWord
  repeat' first
    | with_reducible assumption
    | intro _ _
    | intro _
    | with_reducible apply State.set_touches

theorem State.portCtrl_touches {ps s x} {a1 a2}
    (h : Touches ps s x) (p_regs : Part.regs ∈ ps := by assumption) (p_draws : Part.draws ∈ ps := by assumption) (p_outbox : Part.outbox ∈ ps := by assumption) (p_flt : Part.flt ∈ ps := by assumption) (p_act : Part.act ∈ ps := by assumption) (p_host : Part.host ∈ ps := by assumption) (p_buf : Part.buf ∈ ps := by assumption) (p_pipe : Part.pipe ∈ ps := by assumption) (p_que : Part.que ∈ ps := by assumption) (p_tele : Part.tele ∈ ps := by assumption) :
    Touches ps s (State.portCtrl x a1 a2) := by
  unfold State.portCtrl
  repeat' first
    | with_reducible assumption
    | intro _ _
    | intro _
    | with_reducible apply Touches.choose
    | with_reducible apply State.when_touches
    | with_reducible apply State.when_touches
    | with_reducible apply State.adminUp_touches
    | with_reducible apply State.testMode_touches
    | with_reducible apply State.portRestart_touches
    | with_reducible apply State.fecClear_touches

theorem State.actLine_touches {ps s x} {a1}
    (h : Touches ps s x) (p_outbox : Part.outbox ∈ ps := by assumption) (p_buf : Part.buf ∈ ps := by assumption) :
    Touches ps s (State.actLine x a1) := by
  unfold State.actLine
  repeat' first
    | with_reducible assumption
    | intro _ _
    | intro _
    | with_reducible apply State.lineSend_touches
    | with_reducible apply State.portLine_touches
    | split

theorem State.actPort_touches {ps s x} {a1 a2}
    (h : Touches ps s x) (p_regs : Part.regs ∈ ps := by assumption) (p_draws : Part.draws ∈ ps := by assumption) (p_outbox : Part.outbox ∈ ps := by assumption) (p_flt : Part.flt ∈ ps := by assumption) (p_act : Part.act ∈ ps := by assumption) (p_host : Part.host ∈ ps := by assumption) (p_buf : Part.buf ∈ ps := by assumption) (p_pipe : Part.pipe ∈ ps := by assumption) (p_que : Part.que ∈ ps := by assumption) (p_tele : Part.tele ∈ ps := by assumption) :
    Touches ps s (State.actPort x a1 a2) := by
  unfold State.actPort
  repeat' first
    | with_reducible assumption
    | intro _ _
    | intro _
    | with_reducible apply State.when_touches
    | with_reducible apply State.when_touches
    | with_reducible apply State.ffeWrite_touches
    | with_reducible apply State.adaptRestart_touches
    | with_reducible apply State.chkClear_touches
    | with_reducible apply State.genInject_touches
    | with_reducible apply State.portCtrl_touches
    | with_reducible apply State.actLine_touches
    | split

theorem State.actImage_touches {ps s x} {a1 a2}
    (h : Touches ps s x) (p_regs : Part.regs ∈ ps := by assumption) (p_dev : Part.dev ∈ ps := by assumption) (p_draws : Part.draws ∈ ps := by assumption) (p_outbox : Part.outbox ∈ ps := by assumption) (p_flt : Part.flt ∈ ps := by assumption) (p_act : Part.act ∈ ps := by assumption) (p_anvil : Part.anvil ∈ ps := by assumption) (p_host : Part.host ∈ ps := by assumption) (p_img : Part.img ∈ ps := by assumption) (p_buf : Part.buf ∈ ps := by assumption) (p_pipe : Part.pipe ∈ ps := by assumption) (p_que : Part.que ∈ ps := by assumption) (p_tele : Part.tele ∈ ps := by assumption) :
    Touches ps s (State.actImage x a1 a2) := by
  unfold State.actImage
  repeat' first
    | with_reducible assumption
    | intro _ _
    | intro _
    | with_reducible apply Touches.choose
    | with_reducible apply State.when_touches
    | with_reducible apply State.when_touches
    | with_reducible apply State.bootPrefWrite_touches
    | with_reducible apply State.imgCommand_touches
    | with_reducible apply State.retireForce_touches
    | with_reducible apply State.imgAbort_touches

theorem State.actLookup_touches {ps s x} {a1 a2}
    (h : Touches ps s x) (p_regs : Part.regs ∈ ps := by assumption) (p_dev : Part.dev ∈ ps := by assumption) (p_outbox : Part.outbox ∈ ps := by assumption) (p_flt : Part.flt ∈ ps := by assumption) (p_act : Part.act ∈ ps := by assumption) (p_host : Part.host ∈ ps := by assumption) (p_pipe : Part.pipe ∈ ps := by assumption) :
    Touches ps s (State.actLookup x a1 a2) := by
  unfold State.actLookup
  repeat' first
    | with_reducible assumption
    | intro _ _
    | intro _
    | with_reducible apply Touches.choose
    | with_reducible apply State.emCommand_touches
    | with_reducible apply State.aseCommand_touches
    | with_reducible apply State.claspWord_touches
    | split

theorem State.gateCtrl_touches {ps s x} {a1 a2}
    (h : Touches ps s x) (p_regs : Part.regs ∈ ps := by assumption) (p_que : Part.que ∈ ps := by assumption) :
    Touches ps s (State.gateCtrl x a1 a2) := by
  unfold State.gateCtrl
  repeat' first
    | with_reducible assumption
    | intro _ _
    | intro _
    | with_reducible apply Touches.choose
    | with_reducible apply State.when_touches
    | with_reducible apply State.setB_touches
    | with_reducible apply State.when_touches
    | with_reducible apply State.configChange_touches
    | with_reducible apply State.gateDisable_touches

theorem State.actQueues_touches {ps s x} {a1 a2}
    (h : Touches ps s x) (p_regs : Part.regs ∈ ps := by assumption) (p_outbox : Part.outbox ∈ ps := by assumption) (p_flt : Part.flt ∈ ps := by assumption) (p_act : Part.act ∈ ps := by assumption) (p_host : Part.host ∈ ps := by assumption) (p_buf : Part.buf ∈ ps := by assumption) (p_pipe : Part.pipe ∈ ps := by assumption) (p_que : Part.que ∈ ps := by assumption) (p_tele : Part.tele ∈ ps := by assumption) :
    Touches ps s (State.actQueues x a1 a2) := by
  unfold State.actQueues
  repeat' first
    | with_reducible assumption
    | intro _ _
    | intro _
    | with_reducible apply Touches.choose
    | with_reducible apply State.when_touches
    | with_reducible apply State.when_touches
    | with_reducible apply State.migrateCmd_touches
    | with_reducible apply State.holdExpire_touches
    | with_reducible apply State.gateCtrl_touches
    | split

theorem State.actTime_touches {ps s x} {a1 a2 a3}
    (h : Touches ps s x) (p_regs : Part.regs ∈ ps := by assumption) (p_outbox : Part.outbox ∈ ps := by assumption) (p_time : Part.time ∈ ps := by assumption) (p_core : Part.core ∈ ps := by assumption) (p_pwr : Part.pwr ∈ ps := by assumption) (p_flt : Part.flt ∈ ps := by assumption) (p_host : Part.host ∈ ps := by assumption) (p_img : Part.img ∈ ps := by assumption) (p_que : Part.que ∈ ps := by assumption) (p_tele : Part.tele ∈ ps := by assumption) :
    Touches ps s (State.actTime x a1 a2 a3) := by
  unfold State.actTime
  repeat' first
    | with_reducible assumption
    | intro _ _
    | intro _
    | with_reducible apply Touches.choose
    | with_reducible apply State.when_touches
    | with_reducible apply State.when_touches
    | with_reducible apply State.synceUpdate_touches
    | with_reducible apply State.trigArm_touches
    | with_reducible apply State.ppsCtrl_touches
    | with_reducible apply State.timeSet_touches
    | with_reducible apply State.timeStep_touches
    | with_reducible apply State.timeSnapshot_touches
    | split

theorem State.actTele_touches {ps s x} {a1 a2}
    (h : Touches ps s x) (p_regs : Part.regs ∈ ps := by assumption) (p_outbox : Part.outbox ∈ ps := by assumption) (p_host : Part.host ∈ ps := by assumption) (p_tele : Part.tele ∈ ps := by assumption) :
    Touches ps s (State.actTele x a1 a2) := by
  unfold State.actTele
  repeat' first
    | with_reducible assumption
    | intro _ _
    | intro _
    | with_reducible apply Touches.choose
    | with_reducible apply State.when_touches
    | with_reducible apply State.when_touches
    | with_reducible apply State.loupeStart_touches
    | with_reducible apply State.loupeStop_touches
    | with_reducible apply State.sampleCtrl_touches
    | with_reducible apply State.counterFlush_touches
    | with_reducible apply State.fsReadPtr_touches
    | split

theorem State.dmaCtrl_touches {ps s x} {a1 a2}
    (h : Touches ps s x) (p_regs : Part.regs ∈ ps := by assumption) (p_outbox : Part.outbox ∈ ps := by assumption) (p_host : Part.host ∈ ps := by assumption) :
    Touches ps s (State.dmaCtrl x a1 a2) := by
  unfold State.dmaCtrl
  repeat' first
    | with_reducible assumption
    | intro _ _
    | intro _
    | with_reducible apply State.when_touches
    | with_reducible apply State.when_touches
    | with_reducible apply State.dmaGo_touches
    | with_reducible apply State.dmaAbort_touches
    | with_reducible apply State.dmaClearHalt_touches

theorem State.actHost_touches {ps s x} {a1 a2}
    (h : Touches ps s x) (p_regs : Part.regs ∈ ps := by assumption) (p_outbox : Part.outbox ∈ ps := by assumption) (p_host : Part.host ∈ ps := by assumption) :
    Touches ps s (State.actHost x a1 a2) := by
  unfold State.actHost
  repeat' first
    | with_reducible assumption
    | intro _ _
    | intro _
    | with_reducible apply Touches.choose
    | with_reducible apply State.setB_touches
    | with_reducible apply State.ringEnable_touches
    | with_reducible apply State.ringDisable_touches
    | with_reducible apply State.shadowArm_touches
    | with_reducible apply State.dmaCtrl_touches
    | split

theorem State.actPower_touches {ps s x} {a1 a2}
    (h : Touches ps s x) (p_regs : Part.regs ∈ ps := by assumption) (p_outbox : Part.outbox ∈ ps := by assumption) (p_core : Part.core ∈ ps := by assumption) (p_pwr : Part.pwr ∈ ps := by assumption) (p_host : Part.host ∈ ps := by assumption) :
    Touches ps s (State.actPower x a1 a2) := by
  unfold State.actPower
  repeat' first
    | with_reducible assumption
    | intro _ _
    | intro _
    | with_reducible apply Touches.choose
    | with_reducible apply State.phaseSelect_touches
    | with_reducible apply State.phaseWrite_touches
    | with_reducible apply State.shareWrite_touches
    | split

theorem State.fltCommand_touches {ps s x} {a1} (h : Touches ps s x) (p_regs : Part.regs ∈ ps := by assumption) :
    Touches ps s (State.fltCommand x a1) := by
  unfold State.fltCommand
  repeat' first
    | with_reducible assumption
    | intro _ _
    | intro _
    | with_reducible apply State.when_touches
    | with_reducible apply State.set_touches
    | with_reducible apply State.setB_touches

theorem State.actFault_touches {ps s x} {a1 a2}
    (h : Touches ps s x) (p_regs : Part.regs ∈ ps := by assumption) (p_draws : Part.draws ∈ ps := by assumption) (p_outbox : Part.outbox ∈ ps := by assumption) (p_core : Part.core ∈ ps := by assumption) (p_flt : Part.flt ∈ ps := by assumption) (p_act : Part.act ∈ ps := by assumption) (p_host : Part.host ∈ ps := by assumption) (p_assay : Part.assay ∈ ps := by assumption) (p_buf : Part.buf ∈ ps := by assumption) (p_pipe : Part.pipe ∈ ps := by assumption) (p_que : Part.que ∈ ps := by assumption) (p_tele : Part.tele ∈ ps := by assumption) :
    Touches ps s (State.actFault x a1 a2) := by
  unfold State.actFault
  repeat' first
    | with_reducible assumption
    | intro _ _
    | intro _
    | with_reducible apply Touches.choose
    | with_reducible apply State.when_touches
    | with_reducible apply Touches.upTo
    | with_reducible apply State.when_touches
    | with_reducible apply State.assayStop_touches
    | with_reducible apply State.portSafeRelease_touches
    | with_reducible apply State.injGo_touches
    | with_reducible apply State.fltCommand_touches
    | split

theorem State.intEnWrite_touches {ps s x} {a1}
    (h : Touches ps s x) (p_regs : Part.regs ∈ ps := by assumption) (p_outbox : Part.outbox ∈ ps := by assumption) (p_host : Part.host ∈ ps := by assumption) :
    Touches ps s (State.intEnWrite x a1) := by
  unfold State.intEnWrite
  repeat' first
    | with_reducible assumption
    | intro _ _
    | intro _
    | with_reducible apply State.when_touches
    | with_reducible apply State.set_touches
    | with_reducible apply State.when_touches
    | with_reducible apply State.glbPend_touches

theorem State.actGlb_touches {ps s x} {a1 a2}
    (h : Touches ps s x) (p_regs : Part.regs ∈ ps := by assumption) (p_dev : Part.dev ∈ ps := by assumption) (p_draws : Part.draws ∈ ps := by assumption) (p_outbox : Part.outbox ∈ ps := by assumption) (p_time : Part.time ∈ ps := by assumption) (p_core : Part.core ∈ ps := by assumption) (p_pwr : Part.pwr ∈ ps := by assumption) (p_flt : Part.flt ∈ ps := by assumption) (p_act : Part.act ∈ ps := by assumption) (p_anvil : Part.anvil ∈ ps := by assumption) (p_host : Part.host ∈ ps := by assumption) (p_img : Part.img ∈ ps := by assumption) (p_mil : Part.mil ∈ ps := by assumption) (p_assay : Part.assay ∈ ps := by assumption) (p_boot : Part.boot ∈ ps := by assumption) (p_buf : Part.buf ∈ ps := by assumption) (p_pipe : Part.pipe ∈ ps := by assumption) (p_que : Part.que ∈ ps := by assumption) (p_tele : Part.tele ∈ ps := by assumption) :
    Touches ps s (State.actGlb x a1 a2) := by
  unfold State.actGlb
  repeat' first
    | with_reducible assumption
    | intro _ _
    | intro _
    | with_reducible apply Touches.choose
    | with_reducible apply State.when_touches
    | with_reducible apply State.when_touches
    | with_reducible apply State.resetCommand_touches
    | with_reducible apply State.pipeGo_touches
    | with_reducible apply State.portGo_touches
    | with_reducible apply State.intEnWrite_touches

theorem State.wordAct_touches {ps s x} {a1 a2 a3}
    (h : Touches ps s x) (p_regs : Part.regs ∈ ps := by assumption) (p_dev : Part.dev ∈ ps := by assumption) (p_draws : Part.draws ∈ ps := by assumption) (p_outbox : Part.outbox ∈ ps := by assumption) (p_time : Part.time ∈ ps := by assumption) (p_core : Part.core ∈ ps := by assumption) (p_pwr : Part.pwr ∈ ps := by assumption) (p_flt : Part.flt ∈ ps := by assumption) (p_act : Part.act ∈ ps := by assumption) (p_anvil : Part.anvil ∈ ps := by assumption) (p_host : Part.host ∈ ps := by assumption) (p_img : Part.img ∈ ps := by assumption) (p_mil : Part.mil ∈ ps := by assumption) (p_assay : Part.assay ∈ ps := by assumption) (p_boot : Part.boot ∈ ps := by assumption) (p_buf : Part.buf ∈ ps := by assumption) (p_pipe : Part.pipe ∈ ps := by assumption) (p_que : Part.que ∈ ps := by assumption) (p_tele : Part.tele ∈ ps := by assumption) :
    Touches ps s (State.wordAct x a1 a2 a3) := by
  unfold State.wordAct
  repeat' first
    | with_reducible assumption
    | intro _ _
    | intro _
    | with_reducible apply Touches.choose
    | with_reducible apply State.actPort_touches
    | with_reducible apply State.actImage_touches
    | with_reducible apply State.actLookup_touches
    | with_reducible apply State.actQueues_touches
    | with_reducible apply State.actTime_touches
    | with_reducible apply State.actTele_touches
    | with_reducible apply State.actHost_touches
    | with_reducible apply State.actPower_touches
    | with_reducible apply State.actFault_touches
    | with_reducible apply State.actGlb_touches

theorem State.chkRise_touches {ps s x} {a1 a2} (h : Touches ps s x) (p_regs : Part.regs ∈ ps := by assumption) :
    Touches ps s (State.chkRise x a1 a2) := by
  unfold State.chkRise
  repeat' first
    | with_reducible assumption
    | intro _ _
    | intro _
    | with_reducible apply State.when_touches
    | with_reducible apply State.when_touches
    | with_reducible apply State.chkClear_touches
    | split

theorem State.wordStore_touches {ps s x} {a1 a2}
    (h : Touches ps s x) (p_regs : Part.regs ∈ ps := by assumption) (p_dev : Part.dev ∈ ps := by assumption) (p_draws : Part.draws ∈ ps := by assumption) (p_outbox : Part.outbox ∈ ps := by assumption) (p_time : Part.time ∈ ps := by assumption) (p_core : Part.core ∈ ps := by assumption) (p_pwr : Part.pwr ∈ ps := by assumption) (p_flt : Part.flt ∈ ps := by assumption) (p_act : Part.act ∈ ps := by assumption) (p_anvil : Part.anvil ∈ ps := by assumption) (p_host : Part.host ∈ ps := by assumption) (p_img : Part.img ∈ ps := by assumption) (p_mil : Part.mil ∈ ps := by assumption) (p_assay : Part.assay ∈ ps := by assumption) (p_boot : Part.boot ∈ ps := by assumption) (p_buf : Part.buf ∈ ps := by assumption) (p_pipe : Part.pipe ∈ ps := by assumption) (p_que : Part.que ∈ ps := by assumption) (p_tele : Part.tele ∈ ps := by assumption) :
    Touches ps s (State.wordStore x a1 a2) := by
  unfold State.wordStore
  repeat' first
    | with_reducible assumption
    | intro _ _
    | intro _
    | with_reducible apply Touches.choose
    | with_reducible apply State.setB_touches
    | with_reducible apply shadowWord_touches
    | with_reducible apply State.narrowWrite_touches
    | with_reducible apply State.wideWrite_touches
    | with_reducible apply State.wordAct_touches
    | with_reducible apply State.chkRise_touches
    | split

theorem State.hostWrite_touches {ps s x} {a1 a2}
    (h : Touches ps s x) (p_regs : Part.regs ∈ ps := by assumption) (p_dev : Part.dev ∈ ps := by assumption) (p_draws : Part.draws ∈ ps := by assumption) (p_outbox : Part.outbox ∈ ps := by assumption) (p_time : Part.time ∈ ps := by assumption) (p_core : Part.core ∈ ps := by assumption) (p_pwr : Part.pwr ∈ ps := by assumption) (p_flt : Part.flt ∈ ps := by assumption) (p_act : Part.act ∈ ps := by assumption) (p_anvil : Part.anvil ∈ ps := by assumption) (p_host : Part.host ∈ ps := by assumption) (p_img : Part.img ∈ ps := by assumption) (p_mil : Part.mil ∈ ps := by assumption) (p_assay : Part.assay ∈ ps := by assumption) (p_boot : Part.boot ∈ ps := by assumption) (p_buf : Part.buf ∈ ps := by assumption) (p_pipe : Part.pipe ∈ ps := by assumption) (p_que : Part.que ∈ ps := by assumption) (p_tele : Part.tele ∈ ps := by assumption) :
    Touches ps s (State.hostWrite x a1 a2) := by
  unfold State.hostWrite
  repeat' first
    | with_reducible assumption
    | intro _ _
    | intro _
    | with_reducible apply Touches.choose
    | with_reducible apply State.wordStore_touches

/-! ### Machine/HostAccess.lean -/

theorem State.answer_touches {ps s x} {a1} (h : Touches ps s x) (p_readData : Part.readData ∈ ps := by assumption) :
    Touches ps s (State.answer x a1) := by
  unfold State.answer
  repeat' first
    | with_reducible assumption
    | intro _ _
    | intro _
    | split
    | dsimp only
    | with_reducible apply Touches.upd
    | exact Or.inl (by assumption)
    | exact Or.inr rfl

theorem State.rcClear_touches {ps s x} {a1} (h : Touches ps s x) (p_regs : Part.regs ∈ ps := by assumption) :
    Touches ps s (State.rcClear x a1) := by
  unfold State.rcClear
  repeat' first
    | with_reducible assumption
    | intro _ _
    | intro _
    | with_reducible apply Touches.choose
    | with_reducible apply State.set_touches

theorem State.lowRead_touches {ps s x} {a1}
    (h : Touches ps s x) (p_readData : Part.readData ∈ ps := by assumption) (p_host : Part.host ∈ ps := by assumption) :
    Touches ps s (State.lowRead x a1) := by
  unfold State.lowRead
  repeat' first
    | with_reducible assumption
    | intro _ _
    | intro _
    | with_reducible apply State.answer_touches
    | split
    | dsimp only
    | with_reducible apply Touches.upd
    | exact Or.inl (by assumption)
    | exact Or.inr rfl

theorem State.highRead_touches {ps s x} {a1}
    (h : Touches ps s x) (p_readData : Part.readData ∈ ps := by assumption) (p_host : Part.host ∈ ps := by assumption) :
    Touches ps s (State.highRead x a1) := by
  unfold State.highRead
  repeat' first
    | with_reducible assumption
    | intro _ _
    | intro _
    | with_reducible apply State.answer_touches
    | split
    | dsimp only
    | with_reducible apply Touches.upd
    | exact Or.inl (by assumption)
    | exact Or.inr rfl

theorem State.narrowRead_touches {ps s x} {a1}
    (h : Touches ps s x) (p_regs : Part.regs ∈ ps := by assumption) (p_readData : Part.readData ∈ ps := by assumption) :
    Touches ps s (State.narrowRead x a1) := by
  unfold State.narrowRead
  repeat' first
    | with_reducible assumption
    | intro _ _
    | intro _
    | with_reducible apply Touches.foldl
    | with_reducible apply Touches.foldl_snd
    | with_reducible apply Touches.foldl_fst
    | with_reducible apply Touches.foldl_third
    | with_reducible apply State.answer_touches
    | with_reducible apply State.rcClear_touches

theorem State.hostRead_touches {ps s x} {a1}
    (h : Touches ps s x) (p_regs : Part.regs ∈ ps := by assumption) (p_readData : Part.readData ∈ ps := by assumption) (p_host : Part.host ∈ ps := by assumption) :
    Touches ps s (State.hostRead x a1) := by
  unfold State.hostRead
  repeat' first
    | with_reducible assumption
    | intro _ _
    | intro _
    | with_reducible apply Touches.choose
    | with_reducible apply State.answer_touches
    | with_reducible apply State.lowRead_touches
    | with_reducible apply State.highRead_touches
    | with_reducible apply State.narrowRead_touches
    | split

theorem State.badAccess_touches {ps s x}
    (h : Touches ps s x) (p_regs : Part.regs ∈ ps := by assumption) (p_readData : Part.readData ∈ ps := by assumption) (p_outbox : Part.outbox ∈ ps := by assumption) (p_flt : Part.flt ∈ ps := by assumption) (p_host : Part.host ∈ ps := by assumption) :
    Touches ps s (State.badAccess x) := by
  unfold State.badAccess
  repeat' first
    | with_reducible assumption
    | intro _ _
    | intro _
    | with_reducible apply Touches.choose
    | with_reducible apply State.hostEvent_touches
    | with_reducible apply State.fault_touches
    | with_reducible apply State.answer_touches

theorem State.busRead_touches {ps s x} {a1 a2}
    (h : Touches ps s x) (p_regs : Part.regs ∈ ps := by assumption) (p_readData : Part.readData ∈ ps := by assumption) (p_outbox : Part.outbox ∈ ps := by assumption) (p_flt : Part.flt ∈ ps := by assumption) (p_host : Part.host ∈ ps := by assumption) :
    Touches ps s (State.busRead x a1 a2) := by
  unfold State.busRead
  repeat' first
    | with_reducible assumption
    | intro _ _
    | intro _
    | with_reducible apply Touches.choose
    | with_reducible apply State.answer_touches
    | with_reducible apply State.hostRead_touches
    | with_reducible apply State.badAccess_touches
    | split

theorem State.msixWrite_touches {ps s x} {a1 a2}
    (h : Touches ps s x) (p_outbox : Part.outbox ∈ ps := by assumption) (p_host : Part.host ∈ ps := by assumption) :
    Touches ps s (State.msixWrite x a1 a2) := by
  unfold State.msixWrite
  repeat' first
    | with_reducible assumption
    | intro _ _
    | intro _
    | with_reducible apply Touches.choose
    | with_reducible apply State.msixRelease_touches
    | split
    | dsimp only
    | with_reducible apply Touches.upd
    | exact Or.inl (by assumption)
    | exact Or.inr rfl

theorem State.busWrite_touches {ps s x} {a1 a2 a3}
    (h : Touches ps s x) (p_regs : Part.regs ∈ ps := by assumption) (p_dev : Part.dev ∈ ps := by assumption) (p_draws : Part.draws ∈ ps := by assumption) (p_readData : Part.readData ∈ ps := by assumption) (p_outbox : Part.outbox ∈ ps := by assumption) (p_time : Part.time ∈ ps := by assumption) (p_core : Part.core ∈ ps := by assumption) (p_pwr : Part.pwr ∈ ps := by assumption) (p_flt : Part.flt ∈ ps := by assumption) (p_act : Part.act ∈ ps := by assumption) (p_anvil : Part.anvil ∈ ps := by assumption) (p_host : Part.host ∈ ps := by assumption) (p_img : Part.img ∈ ps := by assumption) (p_mil : Part.mil ∈ ps := by assumption) (p_assay : Part.assay ∈ ps := by assumption) (p_boot : Part.boot ∈ ps := by assumption) (p_buf : Part.buf ∈ ps := by assumption) (p_pipe : Part.pipe ∈ ps := by assumption) (p_que : Part.que ∈ ps := by assumption) (p_tele : Part.tele ∈ ps := by assumption) :
    Touches ps s (State.busWrite x a1 a2 a3) := by
  unfold State.busWrite
  repeat' first
    | with_reducible assumption
    | intro _ _
    | intro _
    | with_reducible apply Touches.choose
    | with_reducible apply State.bezelWrite_touches
    | with_reducible apply State.cfgWrite_touches
    | with_reducible apply State.hostWrite_touches
    | with_reducible apply State.badAccess_touches
    | with_reducible apply State.msixWrite_touches
    | split

theorem State.smbLive_touches {ps s x} {a1} (h1 : ∀ y, Touches ps s y → Touches ps s (a1 y)) (h : Touches ps s x) :
    Touches ps s (State.smbLive x a1) := by
  unfold State.smbLive
  repeat' first
    | with_reducible assumption
    | intro _ _
    | intro _
    | apply h1
    | with_reducible apply State.when_touches

theorem State.smbWord_touches {ps s x} {a1} (h : Touches ps s x) (p_host : Part.host ∈ ps := by assumption) :
    Touches ps s (State.smbWord x a1).2 := by
  unfold State.smbWord
  repeat' first
    | with_reducible assumption
    | intro _ _
    | intro _
    | with_reducible apply Touches.choose
    | split
    | dsimp only
    | with_reducible apply Touches.upd
    | exact Or.inl (by assumption)
    | exact Or.inr rfl
theorem State.smbWord_touchesE {ps s x} {a1} {r0 t} (e : State.smbWord x a1 = (r0, t))
    (h : Touches ps s x) (p_host : Part.host ∈ ps := by assumption) :
    Touches ps s t := by
  have k := State.smbWord_touches (ps := ps) (s := s) (x := x) (a1 := a1) h
  rwa [e] at k

theorem State.smbPointer_touches {ps s x} {a1 a2}
    (h : Touches ps s x) (p_outbox : Part.outbox ∈ ps := by assumption) (p_host : Part.host ∈ ps := by assumption) :
    Touches ps s (State.smbPointer x a1 a2) := by
  unfold State.smbPointer
  repeat' first
    | with_reducible assumption
    | intro _ _
    | intro _
    | with_reducible apply Touches.choose
    | with_reducible apply State.emit_touches
    | split
    | dsimp only
    | with_reducible apply Touches.upd
    | exact Or.inl (by assumption)
    | exact Or.inr rfl

theorem State.smbRead_touches {ps s x}
    (h : Touches ps s x) (p_outbox : Part.outbox ∈ ps := by assumption) (p_host : Part.host ∈ ps := by assumption) :
    Touches ps s (State.smbRead x) := by
  unfold State.smbRead
  repeat' first
    | with_reducible assumption
    | intro _ _
    | intro _
    | with_reducible apply State.emit_touches
    | with_reducible apply State.smbWord_touches
    | refine State.smbWord_touchesE (by with_reducible assumption) ?_
    | split
    | dsimp only
    | with_reducible apply Touches.upd
    | exact Or.inl (by assumption)
    | exact Or.inr rfl

theorem State.smbWrite_touches {ps s x} {a1 a2 a3}
    (h : Touches ps s x) (p_regs : Part.regs ∈ ps := by assumption) (p_dev : Part.dev ∈ ps := by assumption) (p_draws : Part.draws ∈ ps := by assumption) (p_outbox : Part.outbox ∈ ps := by assumption) (p_time : Part.time ∈ ps := by assumption) (p_core : Part.core ∈ ps := by assumption) (p_pwr : Part.pwr ∈ ps := by assumption) (p_flt : Part.flt ∈ ps := by assumption) (p_act : Part.act ∈ ps := by assumption) (p_anvil : Part.anvil ∈ ps := by assumption) (p_host : Part.host ∈ ps := by assumption) (p_img : Part.img ∈ ps := by assumption) (p_mil : Part.mil ∈ ps := by assumption) (p_assay : Part.assay ∈ ps := by assumption) (p_boot : Part.boot ∈ ps := by assumption) (p_buf : Part.buf ∈ ps := by assumption) (p_pipe : Part.pipe ∈ ps := by assumption) (p_que : Part.que ∈ ps := by assumption) (p_tele : Part.tele ∈ ps := by assumption) :
    Touches ps s (State.smbWrite x a1 a2 a3) := by
  unfold State.smbWrite
  repeat' first
    | with_reducible assumption
    | intro _ _
    | intro _
    | with_reducible apply Touches.choose
    | with_reducible apply State.emit_touches
    | with_reducible apply State.hostWrite_touches

end Sys2Proof.Machine
end

