-- ==== Sys2Proof/Laws/TouchesExec.lean ====
section
/-!
SUPPORT. What the meaning of every command touches.
-/
namespace Sys2Proof.Machine
set_option Elab.async false

theorem execTrmWindowEnd_touches {s t} {a0 a1 a2} (e : execTrmWindowEnd a0 a1 a2 s = .next t) :
    Touches [.regs, .draws, .core, .flt, .pipe] s t := by
  obtain rfl := Host.Outcome.next.inj e
  repeat' first
    | with_reducible assumption
    | with_reducible exact Touches.refl _ _
    | intro _ _
    | intro _
    | with_reducible apply State.count_touches
    | with_reducible apply State.trmWindow_touches
    | split
    | dsimp only
    | decide

theorem execDroopDetect_touches {s t} {a0 a1} (e : execDroopDetect a0 a1 s = .next t) : Touches [.regs, .core] s t := by
  obtain rfl := Host.Outcome.next.inj e
  repeat' first
    | with_reducible assumption
    | with_reducible exact Touches.refl _ _
    | intro _ _
    | intro _
    | with_reducible apply State.droopSeen_touches
    | split
    | dsimp only
    | decide

theorem execDroopRecover_touches {s t} {a0} (e : execDroopRecover a0 s = .next t) : Touches [.core] s t := by
  obtain rfl := Host.Outcome.next.inj e
  repeat' first
    | with_reducible assumption
    | with_reducible exact Touches.refl _ _
    | intro _ _
    | intro _
    | with_reducible apply State.droopEnd_touches
    | split
    | dsimp only
    | decide

theorem execVcoreUndervolt_touches {s t} {a0} (e : execVcoreUndervolt a0 s = .next t) : Touches [.flt] s t := by
  obtain rfl := Host.Outcome.next.inj e
  repeat' first
    | with_reducible assumption
    | with_reducible exact Touches.refl _ _
    | intro _ _
    | intro _
    | with_reducible apply State.fault_touches
    | with_reducible apply State.when_touches
    | split
    | dsimp only
    | decide

theorem execOpTransitionDone_touches {s t} {a0} (e : execOpTransitionDone a0 s = .next t) : Touches [.regs, .core] s t := by
  obtain rfl := Host.Outcome.next.inj e
  repeat' first
    | with_reducible assumption
    | with_reducible exact Touches.refl _ _
    | intro _ _
    | intro _
    | with_reducible apply State.opSettled_touches
    | split
    | dsimp only
    | decide

theorem execPhaseSelect_touches {s t} {a0} (e : execPhaseSelect a0 s = .next t) :
    Touches [.regs, .outbox, .core, .pwr, .host] s t := by
  obtain rfl := Host.Outcome.next.inj e
  repeat' first
    | with_reducible assumption
    | with_reducible exact Touches.refl _ _
    | intro _ _
    | intro _
    | with_reducible apply State.viaHost_touches
    | with_reducible apply State.phaseSelect_touches
    | split
    | dsimp only
    | decide

theorem execPhaseEntryWrite_touches {s t} {a0 a1 a2} (e : execPhaseEntryWrite a0 a1 a2 s = .next t) :
    Touches [.regs, .outbox, .pwr, .host] s t := by
  obtain rfl := Host.Outcome.next.inj e
  repeat' first
    | with_reducible assumption
    | with_reducible exact Touches.refl _ _
    | intro _ _
    | intro _
    | with_reducible apply State.phaseWrite_touches
    | with_reducible apply State.viaHost_touches
    | split
    | dsimp only
    | decide

theorem execRailSample_touches {s t} {a0 a1 a2 a3} (e : execRailSample a0 a1 a2 a3 s = .next t) :
    Touches [.regs, .outbox, .core, .pwr, .flt, .act, .host, .assay, .pins] s t := by
  obtain rfl := Host.Outcome.next.inj e
  repeat' first
    | with_reducible assumption
    | with_reducible exact Touches.refl _ _
    | intro _ _
    | intro _
    | with_reducible apply State.railSample_touches
    | split
    | dsimp only
    | decide

theorem execPowerWindowEnd_touches {s t} (e : execPowerWindowEnd s = .next t) :
    Touches [.regs, .outbox, .core, .pwr, .flt, .act, .host] s t := by
  obtain rfl := Host.Outcome.next.inj e
  repeat' first
    | with_reducible assumption
    | with_reducible exact Touches.refl _ _
    | intro _ _
    | intro _
    | with_reducible apply State.powerWindow_touches
    | with_reducible apply State.when_touches
    | split
    | dsimp only
    | decide

theorem execLEnergyWindowEnd_touches {s t} (e : execLEnergyWindowEnd s = .next t) : Touches [.regs, .flt, .act] s t := by
  obtain rfl := Host.Outcome.next.inj e
  repeat' first
    | with_reducible assumption
    | with_reducible exact Touches.refl _ _
    | intro _ _
    | intro _
    | with_reducible apply State.energyWindow_touches
    | split
    | dsimp only
    | decide

theorem execTempSample_touches {s t} {a0} (e : execTempSample a0 s = .next t) :
    Touches [.regs, .outbox, .core, .pwr, .flt, .host, .assay] s t := by
  obtain rfl := Host.Outcome.next.inj e
  repeat' first
    | with_reducible assumption
    | with_reducible exact Touches.refl _ _
    | intro _ _
    | intro _
    | with_reducible apply State.tempSample_touches
    | split
    | dsimp only
    | decide

theorem execThermalStep_touches {s t} (e : execThermalStep s = .next t) :
    Touches [.regs, .outbox, .core, .pwr, .host] s t := by
  obtain rfl := Host.Outcome.next.inj e
  repeat' first
    | with_reducible assumption
    | with_reducible exact Touches.refl _ _
    | intro _ _
    | intro _
    | with_reducible apply State.thermalStep_touches
    | split
    | dsimp only
    | decide

theorem execBgStarved_touches {s t} {a0} (e : execBgStarved a0 s = .next t) : Touches [.regs, .flt, .anvil] s t := by
  obtain rfl := Host.Outcome.next.inj e
  repeat' first
    | with_reducible assumption
    | with_reducible exact Touches.refl _ _
    | intro _ _
    | intro _
    | with_reducible apply State.bgStarved_touches
    | split
    | dsimp only
    | decide

theorem execAnvilTrap_touches {s t} {a0 a1} (e : execAnvilTrap a0 a1 s = .next t) :
    Touches [.regs, .flt, .anvil, .buf] s t := by
  obtain rfl := Host.Outcome.next.inj e
  repeat' first
    | with_reducible assumption
    | with_reducible exact Touches.refl _ _
    | intro _ _
    | intro _
    | with_reducible apply State.anvilTrap_touches
    | split
    | dsimp only
    | decide

theorem execHoursIncrement_touches {s t} {a0 a1} (e : execHoursIncrement a0 a1 s = .next t) :
    Touches [.regs, .dev, .core, .pwr, .flt, .anvil, .buf] s t := by
  obtain rfl := Host.Outcome.next.inj e
  repeat' first
    | with_reducible assumption
    | with_reducible exact Touches.refl _ _
    | intro _ _
    | intro _
    | with_reducible apply State.hoursStep_touches
    | split
    | dsimp only
    | decide

theorem execVariantSwitch_touches {s t} {a0} (e : execVariantSwitch a0 s = .next t) : Touches [.regs, .anvil] s t := by
  obtain rfl := Host.Outcome.next.inj e
  repeat' first
    | with_reducible assumption
    | with_reducible exact Touches.refl _ _
    | intro _ _
    | intro _
    | with_reducible apply State.variantSwitch_touches
    | split
    | dsimp only
    | decide

theorem execWearLevelStep_touches {s t} {a0 a1 a2} (e : execWearLevelStep a0 a1 a2 s = .next t) :
    Touches [.regs, .dev, .flt, .anvil, .buf] s t := by
  obtain rfl := Host.Outcome.next.inj e
  repeat' first
    | with_reducible assumption
    | with_reducible exact Touches.refl _ _
    | intro _ _
    | intro _
    | with_reducible apply State.anvilStep_touches
    | with_reducible apply State.storeWrite_touches
    | split
    | dsimp only
    | decide

theorem execRingCoalExpire_touches {s t} {a0} (e : execRingCoalExpire a0 s = .next t) : Touches [.outbox, .host] s t := by
  obtain rfl := Host.Outcome.next.inj e
  repeat' first
    | with_reducible assumption
    | with_reducible exact Touches.refl _ _
    | intro _ _
    | intro _
    | with_reducible apply State.coalExpire_touches
    | split
    | dsimp only
    | decide

theorem execRingEnable_touches {s t} {a0} (e : execRingEnable a0 s = .next t) : Touches [.regs, .host] s t := by
  obtain rfl := Host.Outcome.next.inj e
  repeat' first
    | with_reducible assumption
    | with_reducible exact Touches.refl _ _
    | intro _ _
    | intro _
    | with_reducible apply State.ringEnable_touches
    | with_reducible apply State.viaHost_touches
    | split
    | dsimp only
    | decide

theorem execRingDisable_touches {s t} {a0} (e : execRingDisable a0 s = .next t) : Touches [.regs] s t := by
  obtain rfl := Host.Outcome.next.inj e
  repeat' first
    | with_reducible assumption
    | with_reducible exact Touches.refl _ _
    | intro _ _
    | intro _
    | with_reducible apply State.ringDisable_touches
    | with_reducible apply State.viaHost_touches
    | split
    | dsimp only
    | decide

theorem execLoupeCounterWrap_touches {s t} {a0 a1 a2} (e : execLoupeCounterWrap a0 a1 a2 s = .next t) :
    Touches [.regs] s t := by
  obtain rfl := Host.Outcome.next.inj e
  repeat' first
    | with_reducible assumption
    | with_reducible exact Touches.refl _ _
    | intro _ _
    | intro _
    | with_reducible apply State.loupeWrap_touches
    | split
    | dsimp only
    | decide

theorem execSamplingOverflow_touches {s t} {a0 a1} (e : execSamplingOverflow a0 a1 s = .next t) :
    Touches [.regs, .outbox, .host] s t := by
  obtain rfl := Host.Outcome.next.inj e
  repeat' first
    | with_reducible assumption
    | with_reducible exact Touches.refl _ _
    | intro _ _
    | intro _
    | with_reducible apply State.sampleOverflow_touches
    | split
    | dsimp only
    | decide

theorem execLoupeStart_touches {s t} (e : execLoupeStart s = .next t) : Touches [.regs, .tele] s t := by
  obtain rfl := Host.Outcome.next.inj e
  repeat' first
    | with_reducible assumption
    | with_reducible exact Touches.refl _ _
    | intro _ _
    | intro _
    | with_reducible apply State.loupeStart_touches
    | with_reducible apply State.viaHost_touches
    | split
    | dsimp only
    | decide

theorem execLoupeStop_touches {s t} (e : execLoupeStop s = .next t) : Touches [.regs, .outbox, .host] s t := by
  obtain rfl := Host.Outcome.next.inj e
  repeat' first
    | with_reducible assumption
    | with_reducible exact Touches.refl _ _
    | intro _ _
    | intro _
    | with_reducible apply State.loupeStop_touches
    | with_reducible apply State.viaHost_touches
    | split
    | dsimp only
    | decide

theorem execLoupeWindowEnd_touches {s t} (e : execLoupeWindowEnd s = .next t) : Touches [.regs, .outbox, .host] s t := by
  obtain rfl := Host.Outcome.next.inj e
  repeat' first
    | with_reducible assumption
    | with_reducible exact Touches.refl _ _
    | intro _ _
    | intro _
    | with_reducible apply State.loupeWindowEnd_touches
    | split
    | dsimp only
    | decide

theorem execSamplingCtrlWrite_touches {s t} {a0 a1 a2} (e : execSamplingCtrlWrite a0 a1 a2 s = .next t) :
    Touches [.regs] s t := by
  obtain rfl := Host.Outcome.next.inj e
  repeat' first
    | with_reducible assumption
    | with_reducible exact Touches.refl _ _
    | intro _ _
    | intro _
    | with_reducible apply Touches.choose
    | with_reducible apply State.sampleReload_touches
    | with_reducible apply State.sampleCtrl_touches
    | with_reducible apply State.viaHost_touches
    | split
    | dsimp only
    | decide

theorem execBwWindowEnd_touches {s t} (e : execBwWindowEnd s = .next t) : Touches [.regs, .tele] s t := by
  obtain rfl := Host.Outcome.next.inj e
  repeat' first
    | with_reducible assumption
    | with_reducible exact Touches.refl _ _
    | intro _ _
    | intro _
    | with_reducible apply State.bwEnd_touches
    | split
    | dsimp only
    | decide

theorem execMigrateCmd_touches {s t} {a0} (e : execMigrateCmd a0 s = .next t) : Touches [.regs, .flt, .buf] s t := by
  obtain rfl := Host.Outcome.next.inj e
  repeat' first
    | with_reducible assumption
    | with_reducible exact Touches.refl _ _
    | intro _ _
    | intro _
    | with_reducible apply State.migrateCmd_touches
    | with_reducible apply State.viaHost_touches
    | split
    | dsimp only
    | decide

theorem execBankMigrationStart_touches {s t} {a0} (e : execBankMigrationStart a0 s = .next t) :
    Touches [.regs, .flt, .anvil, .buf] s t := by
  obtain rfl := Host.Outcome.next.inj e
  repeat' first
    | with_reducible assumption
    | with_reducible exact Touches.refl _ _
    | intro _ _
    | intro _
    | with_reducible apply State.migStart_touches
    | with_reducible apply State.anvilStep_touches
    | split
    | dsimp only
    | decide

theorem execMigrationRowCopy_touches {s t} {a0} (e : execMigrationRowCopy a0 s = .next t) :
    Touches [.regs, .flt, .anvil, .buf] s t := by
  obtain rfl := Host.Outcome.next.inj e
  repeat' first
    | with_reducible assumption
    | with_reducible exact Touches.refl _ _
    | intro _ _
    | intro _
    | with_reducible apply State.migRow_touches
    | with_reducible apply State.anvilStep_touches
    | split
    | dsimp only
    | decide

theorem execBankMigrationDone_touches {s t} {a0 a1} (e : execBankMigrationDone a0 a1 s = .next t) :
    Touches [.regs, .dev, .outbox, .flt, .anvil, .host, .buf] s t := by
  obtain rfl := Host.Outcome.next.inj e
  repeat' first
    | with_reducible assumption
    | with_reducible exact Touches.refl _ _
    | intro _ _
    | intro _
    | with_reducible apply State.migDone_touches
    | with_reducible apply State.anvilStep_touches
    | split
    | dsimp only
    | decide

theorem execCounterFlush_touches {s t} (e : execCounterFlush s = .next t) : Touches [.regs, .tele] s t := by
  obtain rfl := Host.Outcome.next.inj e
  repeat' first
    | with_reducible assumption
    | with_reducible exact Touches.refl _ _
    | intro _ _
    | intro _
    | with_reducible apply State.counterFlush_touches
    | with_reducible apply State.viaHost_touches
    | split
    | dsimp only
    | decide

theorem execCounterFlushDone_touches {s t} (e : execCounterFlushDone s = .next t) :
    Touches [.regs, .dev, .outbox, .flt, .act, .host, .tele] s t := by
  obtain rfl := Host.Outcome.next.inj e
  repeat' first
    | with_reducible assumption
    | with_reducible exact Touches.refl _ _
    | intro _ _
    | intro _
    | with_reducible apply State.counterFlushDone_touches
    | split
    | dsimp only
    | decide

theorem execCounterFlushStep_touches {s t} {a0 a1 a2} (e : execCounterFlushStep a0 a1 a2 s = .next t) :
    Touches [.regs, .dev, .outbox, .flt, .act, .anvil, .host, .buf, .tele] s t := by
  obtain rfl := Host.Outcome.next.inj e
  repeat' first
    | with_reducible assumption
    | with_reducible exact Touches.refl _ _
    | intro _ _
    | intro _
    | with_reducible apply State.flushStep_touches
    | with_reducible apply State.anvilStep_touches
    | split
    | dsimp only
    | decide

theorem execTelemetryExportStep_touches {s t} {a0 a1 a2} (e : execTelemetryExportStep a0 a1 a2 s = .next t) :
    Touches [.regs, .dev, .outbox, .flt, .act, .anvil, .host, .buf, .tele] s t := by
  obtain rfl := Host.Outcome.next.inj e
  repeat' first
    | with_reducible assumption
    | with_reducible exact Touches.refl _ _
    | intro _ _
    | intro _
    | with_reducible apply State.exportStep_touches
    | with_reducible apply State.set_touches
    | with_reducible apply State.anvilStep_touches
    | split
    | dsimp only
    | decide

theorem execFsRdPtrWrite_touches {s t} {a0 a1} (e : execFsRdPtrWrite a0 a1 s = .next t) : Touches [.regs] s t := by
  obtain rfl := Host.Outcome.next.inj e
  repeat' first
    | with_reducible assumption
    | with_reducible exact Touches.refl _ _
    | intro _ _
    | intro _
    | with_reducible apply State.fsReadPtr_touches
    | with_reducible apply State.viaHost_touches
    | split
    | dsimp only
    | decide

theorem execFsBatchSend_touches {s t} {a0 a1} (e : execFsBatchSend a0 a1 s = .next t) :
    Touches [.regs, .outbox, .flt, .act, .anvil, .host, .buf, .tele] s t := by
  obtain rfl := Host.Outcome.next.inj e
  repeat' first
    | with_reducible assumption
    | with_reducible exact Touches.refl _ _
    | intro _ _
    | intro _
    | with_reducible apply State.batchSend_touches
    | with_reducible apply State.anvilStep_touches
    | split
    | dsimp only
    | decide

theorem execShaperDebtRepaid_touches {s t} {a0 a1} (e : execShaperDebtRepaid a0 a1 s = .next t) : Touches [.que] s t := by
  obtain rfl := Host.Outcome.next.inj e
  repeat' first
    | with_reducible assumption
    | with_reducible exact Touches.refl _ _
    | intro _ _
    | intro _
    | with_reducible apply State.debtRepaid_touches
    | split
    | dsimp only
    | decide

theorem execHoldListLink_touches {s t} {a0} (e : execHoldListLink a0 s = .next t) :
    Touches [.regs, .draws, .outbox, .flt, .act, .host, .buf, .que] s t := by
  obtain rfl := Host.Outcome.next.inj e
  repeat' first
    | with_reducible assumption
    | with_reducible exact Touches.refl _ _
    | intro _ _
    | intro _
    | with_reducible apply State.holdServe_touches
    | split
    | dsimp only
    | decide

theorem execReplResume_touches {s t} {a0} (e : execReplResume a0 s = .next t) :
    Touches [.regs, .draws, .outbox, .flt, .act, .host, .buf, .que] s t := by
  obtain rfl := Host.Outcome.next.inj e
  repeat' first
    | with_reducible assumption
    | with_reducible exact Touches.refl _ _
    | intro _ _
    | intro _
    | with_reducible apply State.replResume_touches
    | split
    | dsimp only
    | decide

theorem execResidueLink_touches {s t} {a0} (e : execResidueLink a0 s = .next t) :
    Touches [.regs, .draws, .outbox, .flt, .act, .host, .buf, .que] s t := by
  obtain rfl := Host.Outcome.next.inj e
  repeat' first
    | with_reducible assumption
    | with_reducible exact Touches.refl _ _
    | intro _ _
    | intro _
    | with_reducible apply State.residueLink_touches
    | split
    | dsimp only
    | decide

theorem execPortDownHoldExpire_touches {s t} {a0} (e : execPortDownHoldExpire a0 s = .next t) :
    Touches [.regs, .outbox, .flt, .act, .host, .buf, .pipe, .que, .tele] s t := by
  obtain rfl := Host.Outcome.next.inj e
  repeat' first
    | with_reducible assumption
    | with_reducible exact Touches.refl _ _
    | intro _ _
    | intro _
    | with_reducible apply State.holdExpire_touches
    | split
    | dsimp only
    | decide

theorem execParse_touches {s t} {a0 a1} (e : execParse a0 a1 s = .next t) :
    Touches [.regs, .draws, .outbox, .flt, .act, .host, .buf, .pipe, .que, .tele] s t := by
  obtain rfl := Host.Outcome.next.inj e
  repeat' first
    | with_reducible assumption
    | with_reducible exact Touches.refl _ _
    | intro _ _
    | intro _
    | with_reducible apply State.parseSlot_touches
    | split
    | dsimp only
    | decide

theorem execEmInsert_touches {s t} {a0} (e : execEmInsert a0 s = .next t) :
    Touches [.regs, .dev, .outbox, .flt, .act, .host, .pipe] s t := by
  obtain rfl := Host.Outcome.next.inj e
  repeat' first
    | with_reducible assumption
    | with_reducible exact Touches.refl _ _
    | intro _ _
    | intro _
    | with_reducible apply State.emCommand_touches
    | with_reducible apply State.viaHost_touches
    | split
    | dsimp only
    | decide

theorem execEmReplace_touches {s t} {a0} (e : execEmReplace a0 s = .next t) :
    Touches [.regs, .dev, .outbox, .flt, .act, .host, .pipe] s t := by
  obtain rfl := Host.Outcome.next.inj e
  repeat' first
    | with_reducible assumption
    | with_reducible exact Touches.refl _ _
    | intro _ _
    | intro _
    | with_reducible apply State.emCommand_touches
    | with_reducible apply State.viaHost_touches
    | split
    | dsimp only
    | decide

theorem execEmDelete_touches {s t} {a0} (e : execEmDelete a0 s = .next t) :
    Touches [.regs, .dev, .outbox, .flt, .act, .host, .pipe] s t := by
  obtain rfl := Host.Outcome.next.inj e
  repeat' first
    | with_reducible assumption
    | with_reducible exact Touches.refl _ _
    | intro _ _
    | intro _
    | with_reducible apply State.emCommand_touches
    | with_reducible apply State.viaHost_touches
    | split
    | dsimp only
    | decide

theorem execEmSearch_touches {s t} {a0} (e : execEmSearch a0 s = .next t) :
    Touches [.regs, .dev, .outbox, .flt, .act, .host, .pipe] s t := by
  obtain rfl := Host.Outcome.next.inj e
  repeat' first
    | with_reducible assumption
    | with_reducible exact Touches.refl _ _
    | intro _ _
    | intro _
    | with_reducible apply State.emCommand_touches
    | with_reducible apply State.viaHost_touches
    | split
    | dsimp only
    | decide

theorem execLearnInsert_touches {s t} (e : execLearnInsert s = .next t) :
    Touches [.regs, .dev, .outbox, .flt, .act, .host, .pipe] s t := by
  obtain rfl := Host.Outcome.next.inj e
  repeat' first
    | with_reducible assumption
    | with_reducible exact Touches.refl _ _
    | intro _ _
    | intro _
    | with_reducible apply State.learnServe_touches
    | split
    | dsimp only
    | decide

theorem execAgeVisit_touches {s t} {a0 a1} (e : execAgeVisit a0 a1 s = .next t) :
    Touches [.regs, .dev, .outbox, .flt, .act, .anvil, .host, .buf] s t := by
  obtain rfl := Host.Outcome.next.inj e
  repeat' first
    | with_reducible assumption
    | with_reducible exact Touches.refl _ _
    | intro _ _
    | intro _
    | with_reducible apply State.ageStep_touches
    | with_reducible apply State.anvilStep_touches
    | split
    | dsimp only
    | decide

theorem execEmClaspRequest_touches {s t} {a0} (e : execEmClaspRequest a0 s = .next t) : Touches [.regs] s t := by
  obtain rfl := Host.Outcome.next.inj e
  repeat' first
    | with_reducible assumption
    | with_reducible exact Touches.refl _ _
    | intro _ _
    | intro _
    | with_reducible apply State.emClaspReq_touches
    | with_reducible apply State.viaHost_touches
    | split
    | dsimp only
    | decide

theorem execEmClaspGrant_touches {s t} {a0} (e : execEmClaspGrant a0 s = .next t) : Touches [.regs] s t := by
  obtain rfl := Host.Outcome.next.inj e
  repeat' first
    | with_reducible assumption
    | with_reducible exact Touches.refl _ _
    | intro _ _
    | intro _
    | with_reducible apply State.emClaspGrant_touches
    | split
    | dsimp only
    | decide

theorem execEmClaspRelease_touches {s t} {a0} (e : execEmClaspRelease a0 s = .next t) : Touches [.regs] s t := by
  obtain rfl := Host.Outcome.next.inj e
  repeat' first
    | with_reducible assumption
    | with_reducible exact Touches.refl _ _
    | intro _ _
    | intro _
    | with_reducible apply State.emClaspFree_touches
    | with_reducible apply State.viaHost_touches
    | split
    | dsimp only
    | decide

theorem execAseWriteAt_touches {s t} {a0} (e : execAseWriteAt a0 s = .next t) :
    Touches [.regs, .dev, .outbox, .flt, .act, .host, .pipe] s t := by
  obtain rfl := Host.Outcome.next.inj e
  repeat' first
    | with_reducible assumption
    | with_reducible exact Touches.refl _ _
    | intro _ _
    | intro _
    | with_reducible apply State.aseWriteAt_touches
    | with_reducible apply State.viaHost_touches
    | split
    | dsimp only
    | decide

theorem execAseInsertAt_touches {s t} {a0} (e : execAseInsertAt a0 s = .next t) :
    Touches [.regs, .dev, .outbox, .flt, .act, .host, .pipe] s t := by
  obtain rfl := Host.Outcome.next.inj e
  repeat' first
    | with_reducible assumption
    | with_reducible exact Touches.refl _ _
    | intro _ _
    | intro _
    | with_reducible apply State.aseInsertAt_touches
    | with_reducible apply State.viaHost_touches
    | split
    | dsimp only
    | decide

theorem execAseDeleteAt_touches {s t} {a0} (e : execAseDeleteAt a0 s = .next t) :
    Touches [.regs, .dev, .outbox, .flt, .act, .host, .pipe] s t := by
  obtain rfl := Host.Outcome.next.inj e
  repeat' first
    | with_reducible assumption
    | with_reducible exact Touches.refl _ _
    | intro _ _
    | intro _
    | with_reducible apply State.aseDeleteAt_touches
    | with_reducible apply State.viaHost_touches
    | split
    | dsimp only
    | decide

theorem execAseSearchCmd_touches {s t} {a0 a1 a2} (e : execAseSearchCmd a0 a1 a2 s = .next t) :
    Touches [.regs, .dev, .outbox, .flt, .act, .host, .pipe] s t := by
  obtain rfl := Host.Outcome.next.inj e
  repeat' first
    | with_reducible assumption
    | with_reducible exact Touches.refl _ _
    | intro _ _
    | intro _
    | with_reducible apply State.viaHost_touches
    | with_reducible apply State.aseCmdSearch_touches
    | split
    | dsimp only
    | decide

theorem execAseStep_touches {s t} {a0 a1 a2} (e : execAseStep a0 a1 a2 s = .next t) :
    Touches [.regs, .dev, .outbox, .flt, .act, .host, .pipe] s t := by
  obtain rfl := Host.Outcome.next.inj e
  repeat' first
    | with_reducible assumption
    | with_reducible exact Touches.refl _ _
    | intro _ _
    | intro _
    | with_reducible apply State.aseCmdStep_touches
    | with_reducible apply State.viaHost_touches
    | split
    | dsimp only
    | decide

theorem execAseReadAt_touches {s t} {a0 a1} (e : execAseReadAt a0 a1 s = .next t) :
    Touches [.regs, .outbox, .act, .host, .pipe] s t := by
  obtain rfl := Host.Outcome.next.inj e
  repeat' first
    | with_reducible assumption
    | with_reducible exact Touches.refl _ _
    | intro _ _
    | intro _
    | with_reducible apply State.aseReadAt_touches
    | with_reducible apply State.viaHost_touches
    | split
    | dsimp only
    | decide

theorem execAseClaspRequest_touches {s t} {a0} (e : execAseClaspRequest a0 s = .next t) : Touches [.regs] s t := by
  obtain rfl := Host.Outcome.next.inj e
  repeat' first
    | with_reducible assumption
    | with_reducible exact Touches.refl _ _
    | intro _ _
    | intro _
    | with_reducible apply State.aseClaspReq_touches
    | with_reducible apply State.viaHost_touches
    | split
    | dsimp only
    | decide

theorem execAseClaspGrant_touches {s t} {a0} (e : execAseClaspGrant a0 s = .next t) : Touches [.regs] s t := by
  obtain rfl := Host.Outcome.next.inj e
  repeat' first
    | with_reducible assumption
    | with_reducible exact Touches.refl _ _
    | intro _ _
    | intro _
    | with_reducible apply State.aseClaspGrant_touches
    | split
    | dsimp only
    | decide

theorem execAseClaspRelease_touches {s t} {a0} (e : execAseClaspRelease a0 s = .next t) : Touches [.regs] s t := by
  obtain rfl := Host.Outcome.next.inj e
  repeat' first
    | with_reducible assumption
    | with_reducible exact Touches.refl _ _
    | intro _ _
    | intro _
    | with_reducible apply State.aseClaspFree_touches
    | with_reducible apply State.viaHost_touches
    | split
    | dsimp only
    | decide

theorem execPlanishScrubStep_touches {s t} {a0 a1 a2 a3} (e : execPlanishScrubStep a0 a1 a2 a3 s = .next t) :
    Touches [.regs, .dev, .outbox, .flt, .act, .anvil, .host, .buf, .pipe] s t := by
  obtain rfl := Host.Outcome.next.inj e
  repeat' first
    | with_reducible assumption
    | with_reducible exact Touches.refl _ _
    | intro _ _
    | intro _
    | with_reducible apply State.scrubPass_touches
    | with_reducible apply State.scrub_touches
    | with_reducible apply State.anvilStep_touches
    | with_reducible apply State.when_touches
    | split
    | dsimp only
    | decide

theorem execStageLookupIssue_touches {s t} {a0 a1 a2 a3 a4 a5} (e : execStageLookupIssue a0 a1 a2 a3 a4 a5 s = .next t) :
    Touches [.regs, .dev, .outbox, .flt, .act, .host, .pipe] s t := by
  obtain rfl := Host.Outcome.next.inj e
  repeat' first
    | with_reducible assumption
    | with_reducible exact Touches.refl _ _
    | intro _ _
    | intro _
    | with_reducible apply State.stageIssue_touches
    | split
    | dsimp only
    | decide

theorem execStageActionRun_touches {s t} {a0 a1 a2 a3} (e : execStageActionRun a0 a1 a2 a3 s = .next t) :
    Touches [.regs, .dev, .draws, .outbox, .flt, .act, .host, .buf, .pipe, .que, .tele] s t := by
  obtain rfl := Host.Outcome.next.inj e
  repeat' first
    | with_reducible assumption
    | with_reducible exact Touches.refl _ _
    | intro _ _
    | intro _
    | with_reducible apply State.stageAct_touches
    | split
    | dsimp only
    | decide

theorem execTxFfeWrite_touches {s t} {a0 a1} (e : execTxFfeWrite a0 a1 s = .next t) : Touches [.regs] s t := by
  obtain rfl := Host.Outcome.next.inj e
  repeat' first
    | with_reducible assumption
    | with_reducible exact Touches.refl _ _
    | intro _ _
    | intro _
    | with_reducible apply State.ffeWrite_touches
    | with_reducible apply State.viaHost_touches
    | split
    | dsimp only
    | decide

theorem execLtCoeffRequest_touches {s t} {a0 a1} (e : execLtCoeffRequest a0 a1 s = .next t) :
    Touches [.regs, .outbox] s t := by
  obtain rfl := Host.Outcome.next.inj e
  repeat' first
    | with_reducible assumption
    | with_reducible exact Touches.refl _ _
    | intro _ _
    | intro _
    | with_reducible apply State.ltRequest_touches
    | split
    | dsimp only
    | decide

theorem execAdaptRestart_touches {s t} {a0} (e : execAdaptRestart a0 s = .next t) : Touches [.regs, .draws] s t := by
  obtain rfl := Host.Outcome.next.inj e
  repeat' first
    | with_reducible assumption
    | with_reducible exact Touches.refl _ _
    | intro _ _
    | intro _
    | with_reducible apply State.viaHost_touches
    | with_reducible apply State.adaptRestart_touches
    | split
    | dsimp only
    | decide

theorem execCalibrationStep_touches {s t} {a0 a1 a2 a3} (e : execCalibrationStep a0 a1 a2 a3 s = .next t) :
    Touches [.regs, .flt, .anvil, .buf] s t := by
  obtain rfl := Host.Outcome.next.inj e
  repeat' first
    | with_reducible assumption
    | with_reducible exact Touches.refl _ _
    | intro _ _
    | intro _
    | with_reducible apply State.calibrate_touches
    | with_reducible apply State.anvilStep_touches
    | split
    | dsimp only
    | decide

theorem execPauseFrameRx_touches {s t} {a0 a1 a2 a3 a4 a5 a6 a7 a8 a9 a10} (e : execPauseFrameRx a0 a1 a2 a3 a4 a5 a6 a7 a8 a9 a10 s = .next t) :
    Touches [.regs, .act, .buf, .tele] s t := by
  obtain rfl := Host.Outcome.next.inj e
  repeat' first
    | with_reducible assumption
    | with_reducible exact Touches.refl _ _
    | intro _ _
    | intro _
    | with_reducible apply State.pauseRx_touches
    | with_reducible apply State.when_touches
    | with_reducible apply State.bwCount_touches
    | split
    | dsimp only
    | decide

theorem execPauseTimerExpire_touches {s t} {a0 a1} (e : execPauseTimerExpire a0 a1 s = .next t) : Touches [.buf] s t := by
  obtain rfl := Host.Outcome.next.inj e
  repeat' first
    | with_reducible assumption
    | with_reducible exact Touches.refl _ _
    | intro _ _
    | intro _
    | with_reducible apply State.pauseExpire_touches
    | split
    | dsimp only
    | decide

theorem execPauseTx_touches {s t} {a0} (e : execPauseTx a0 s = .next t) :
    Touches [.regs, .outbox, .act, .buf, .tele] s t := by
  obtain rfl := Host.Outcome.next.inj e
  repeat' first
    | with_reducible assumption
    | with_reducible exact Touches.refl _ _
    | intro _ _
    | intro _
    | with_reducible apply State.pauseTx_touches
    | split
    | dsimp only
    | decide

theorem execPauseRefresh_touches {s t} {a0 a1} (e : execPauseRefresh a0 a1 s = .next t) :
    Touches [.regs, .outbox, .act, .buf, .tele] s t := by
  obtain rfl := Host.Outcome.next.inj e
  repeat' first
    | with_reducible assumption
    | with_reducible exact Touches.refl _ _
    | intro _ _
    | intro _
    | with_reducible apply State.pauseRefresh_touches
    | split
    | dsimp only
    | decide

theorem execStormEnter_touches {s t} {a0 a1} (e : execStormEnter a0 a1 s = .next t) :
    Touches [.regs, .draws, .outbox, .flt, .host] s t := by
  obtain rfl := Host.Outcome.next.inj e
  repeat' first
    | with_reducible assumption
    | with_reducible exact Touches.refl _ _
    | intro _ _
    | intro _
    | with_reducible apply State.stormEnter_touches
    | split
    | dsimp only
    | decide

theorem execStormExit_touches {s t} {a0 a1} (e : execStormExit a0 a1 s = .next t) :
    Touches [.regs, .outbox, .host] s t := by
  obtain rfl := Host.Outcome.next.inj e
  repeat' first
    | with_reducible assumption
    | with_reducible exact Touches.refl _ _
    | intro _ _
    | intro _
    | with_reducible apply State.stormExit_touches
    | split
    | dsimp only
    | decide

theorem execAnComplete_touches {s t} {a0 a1 a2} (e : execAnComplete a0 a1 a2 s = .next t) :
    Touches [.regs, .draws, .outbox, .flt, .act, .host, .buf, .pipe, .que, .tele] s t := by
  obtain rfl := Host.Outcome.next.inj e
  repeat' first
    | with_reducible assumption
    | with_reducible exact Touches.refl _ _
    | intro _ _
    | intro _
    | with_reducible apply State.anComplete_touches
    | split
    | dsimp only
    | decide

theorem execAnFail_touches {s t} {a0} (e : execAnFail a0 s = .next t) :
    Touches [.regs, .draws, .outbox, .flt, .act, .host, .buf, .pipe, .que, .tele] s t := by
  obtain rfl := Host.Outcome.next.inj e
  repeat' first
    | with_reducible assumption
    | with_reducible exact Touches.refl _ _
    | intro _ _
    | intro _
    | with_reducible apply State.anFail_touches
    | split
    | dsimp only
    | decide

theorem execTrainingComplete_touches {s t} {a0} (e : execTrainingComplete a0 s = .next t) :
    Touches [.regs, .draws, .outbox, .buf] s t := by
  obtain rfl := Host.Outcome.next.inj e
  repeat' first
    | with_reducible assumption
    | with_reducible exact Touches.refl _ _
    | intro _ _
    | intro _
    | with_reducible apply State.trainComplete_touches
    | split
    | dsimp only
    | decide

theorem execTrainFail_touches {s t} {a0} (e : execTrainFail a0 s = .next t) :
    Touches [.regs, .draws, .outbox, .flt, .act, .host, .buf, .pipe, .que, .tele] s t := by
  obtain rfl := Host.Outcome.next.inj e
  repeat' first
    | with_reducible assumption
    | with_reducible exact Touches.refl _ _
    | intro _ _
    | intro _
    | with_reducible apply State.trainFail_touches
    | split
    | dsimp only
    | decide

theorem execLinkUp_touches {s t} {a0} (e : execLinkUp a0 s = .next t) : Touches [.regs, .outbox, .host, .buf] s t := by
  obtain rfl := Host.Outcome.next.inj e
  repeat' first
    | with_reducible assumption
    | with_reducible exact Touches.refl _ _
    | intro _ _
    | intro _
    | with_reducible apply State.linkUpNow_touches
    | split
    | dsimp only
    | decide

theorem execAlignTimeout_touches {s t} {a0} (e : execAlignTimeout a0 s = .next t) :
    Touches [.regs, .draws, .outbox, .flt, .act, .host, .buf, .pipe, .que, .tele] s t := by
  obtain rfl := Host.Outcome.next.inj e
  repeat' first
    | with_reducible assumption
    | with_reducible exact Touches.refl _ _
    | intro _ _
    | intro _
    | with_reducible apply State.alignTimeout_touches
    | split
    | dsimp only
    | decide

theorem execLinkDown_touches {s t} {a0} (e : execLinkDown a0 s = .next t) :
    Touches [.regs, .draws, .outbox, .flt, .act, .host, .buf, .pipe, .que, .tele] s t := by
  obtain rfl := Host.Outcome.next.inj e
  repeat' first
    | with_reducible assumption
    | with_reducible exact Touches.refl _ _
    | intro _ _
    | intro _
    | with_reducible apply State.linkDownNow_touches
    | split
    | dsimp only
    | decide

theorem execPortEnable_touches {s t} {a0} (e : execPortEnable a0 s = .next t) :
    Touches [.regs, .draws, .outbox, .flt, .act, .host, .buf, .pipe, .que, .tele] s t := by
  obtain rfl := Host.Outcome.next.inj e
  repeat' first
    | with_reducible assumption
    | with_reducible exact Touches.refl _ _
    | intro _ _
    | intro _
    | with_reducible apply State.adminUp_touches
    | with_reducible apply State.viaHost_touches
    | split
    | dsimp only
    | decide

theorem execPortDisable_touches {s t} {a0} (e : execPortDisable a0 s = .next t) :
    Touches [.regs, .draws, .outbox, .flt, .act, .host, .buf, .pipe, .que, .tele] s t := by
  obtain rfl := Host.Outcome.next.inj e
  repeat' first
    | with_reducible assumption
    | with_reducible exact Touches.refl _ _
    | intro _ _
    | intro _
    | with_reducible apply State.adminUp_touches
    | with_reducible apply State.viaHost_touches
    | split
    | dsimp only
    | decide

theorem execTestEnter_touches {s t} {a0} (e : execTestEnter a0 s = .next t) :
    Touches [.regs, .draws, .outbox, .flt, .act, .host, .buf, .pipe, .que, .tele] s t := by
  obtain rfl := Host.Outcome.next.inj e
  repeat' first
    | with_reducible assumption
    | with_reducible exact Touches.refl _ _
    | intro _ _
    | intro _
    | with_reducible apply State.testMode_touches
    | with_reducible apply State.viaHost_touches
    | split
    | dsimp only
    | decide

theorem execTestExit_touches {s t} {a0} (e : execTestExit a0 s = .next t) :
    Touches [.regs, .draws, .outbox, .flt, .act, .host, .buf, .pipe, .que, .tele] s t := by
  obtain rfl := Host.Outcome.next.inj e
  repeat' first
    | with_reducible assumption
    | with_reducible exact Touches.refl _ _
    | intro _ _
    | intro _
    | with_reducible apply State.testMode_touches
    | with_reducible apply State.viaHost_touches
    | split
    | dsimp only
    | decide

theorem execPortRestart_touches {s t} {a0} (e : execPortRestart a0 s = .next t) :
    Touches [.regs, .draws, .outbox, .flt, .act, .host, .buf, .pipe, .que, .tele] s t := by
  obtain rfl := Host.Outcome.next.inj e
  repeat' first
    | with_reducible assumption
    | with_reducible exact Touches.refl _ _
    | intro _ _
    | intro _
    | with_reducible apply State.portRestart_touches
    | with_reducible apply State.viaHost_touches
    | split
    | dsimp only
    | decide

theorem execFecClear_touches {s t} {a0} (e : execFecClear a0 s = .next t) : Touches [.regs] s t := by
  obtain rfl := Host.Outcome.next.inj e
  repeat' first
    | with_reducible assumption
    | with_reducible exact Touches.refl _ _
    | intro _ _
    | intro _
    | with_reducible apply State.fecClear_touches
    | with_reducible apply State.when_touches
    | with_reducible apply State.viaHost_touches
    | split
    | dsimp only
    | decide

theorem execLinkOkChange_touches {s t} {a0 a1 a2 a3 a4 a5 a6} (e : execLinkOkChange a0 a1 a2 a3 a4 a5 a6 s = .next t) :
    Touches [.regs, .outbox, .host, .buf] s t := by
  obtain rfl := Host.Outcome.next.inj e
  repeat' first
    | with_reducible assumption
    | with_reducible exact Touches.refl _ _
    | intro _ _
    | intro _
    | with_reducible apply State.linkChange_touches
    | split
    | dsimp only
    | decide

theorem execLanesReady_touches {s t} (e : execLanesReady s = .next t) :
    Touches [.regs, .draws, .outbox, .flt, .act, .host, .buf, .pipe, .que, .tele] s t := by
  obtain rfl := Host.Outcome.next.inj e
  repeat' first
    | with_reducible assumption
    | with_reducible exact Touches.refl _ _
    | intro _ _
    | intro _
    | with_reducible apply State.lanesReady_touches
    | split
    | dsimp only
    | decide

theorem execChkLock_touches {s t} {a0 a1} (e : execChkLock a0 a1 s = .next t) : Touches [.regs, .buf] s t := by
  obtain rfl := Host.Outcome.next.inj e
  repeat' first
    | with_reducible assumption
    | with_reducible exact Touches.refl _ _
    | intro _ _
    | intro _
    | with_reducible apply State.chkFeed_touches
    | split
    | dsimp only
    | decide

theorem execLockLost_touches {s t} {a0 a1} (e : execLockLost a0 a1 s = .next t) : Touches [.regs, .buf] s t := by
  obtain rfl := Host.Outcome.next.inj e
  repeat' first
    | with_reducible assumption
    | with_reducible exact Touches.refl _ _
    | intro _ _
    | intro _
    | with_reducible apply State.chkFeed_touches
    | split
    | dsimp only
    | decide

theorem execChkClear_touches {s t} {a0} (e : execChkClear a0 s = .next t) : Touches [.regs] s t := by
  obtain rfl := Host.Outcome.next.inj e
  repeat' first
    | with_reducible assumption
    | with_reducible exact Touches.refl _ _
    | intro _ _
    | intro _
    | with_reducible apply State.chkClear_touches
    | with_reducible apply State.when_touches
    | with_reducible apply State.viaHost_touches
    | split
    | dsimp only
    | decide

theorem execInject_touches {s t} {a0} (e : execInject a0 s = .next t) : Touches [.outbox, .buf] s t := by
  obtain rfl := Host.Outcome.next.inj e
  repeat' first
    | with_reducible assumption
    | with_reducible exact Touches.refl _ _
    | intro _ _
    | intro _
    | with_reducible apply State.genInject_touches
    | with_reducible apply State.viaHost_touches
    | split
    | dsimp only
    | decide

theorem execCdrLockChange_touches {s t} {a0 a1 a2} (e : execCdrLockChange a0 a1 a2 s = .next t) :
    Touches [.regs, .time] s t := by
  obtain rfl := Host.Outcome.next.inj e
  repeat' first
    | with_reducible assumption
    | with_reducible exact Touches.refl _ _
    | intro _ _
    | intro _
    | with_reducible apply State.cdrLock_touches
    | split
    | dsimp only
    | decide

theorem execRxFrame_touches {s t} {a0 a1 a2} (e : execRxFrame a0 a1 a2 s = .next t) :
    Touches [.regs, .dev, .draws, .outbox, .flt, .act, .host, .buf, .pipe, .que, .tele] s t := by
  obtain rfl := Host.Outcome.next.inj e
  repeat' first
    | with_reducible assumption
    | with_reducible exact Touches.refl _ _
    | intro _ _
    | intro _
    | with_reducible apply State.rxFrame_touches
    | split
    | dsimp only
    | decide

theorem execConfigChange_touches {s t} {a0} (e : execConfigChange a0 s = .next t) : Touches [.regs, .que] s t := by
  obtain rfl := Host.Outcome.next.inj e
  repeat' first
    | with_reducible assumption
    | with_reducible exact Touches.refl _ _
    | intro _ _
    | intro _
    | with_reducible apply State.configChange_touches
    | with_reducible apply State.viaHost_touches
    | split
    | dsimp only
    | decide

theorem execGateDisable_touches {s t} {a0} (e : execGateDisable a0 s = .next t) : Touches [.regs, .que] s t := by
  obtain rfl := Host.Outcome.next.inj e
  repeat' first
    | with_reducible assumption
    | with_reducible exact Touches.refl _ _
    | intro _ _
    | intro _
    | with_reducible apply State.gateDisable_touches
    | with_reducible apply State.viaHost_touches
    | split
    | dsimp only
    | decide

theorem execGateConfigStart_touches {s t} {a0} (e : execGateConfigStart a0 s = .next t) : Touches [.regs, .que] s t := by
  obtain rfl := Host.Outcome.next.inj e
  repeat' first
    | with_reducible assumption
    | with_reducible exact Touches.refl _ _
    | intro _ _
    | intro _
    | with_reducible apply State.gateStart_touches
    | split
    | dsimp only
    | decide

theorem execGateEntryChange_touches {s t} {a0} (e : execGateEntryChange a0 s = .next t) : Touches [.que] s t := by
  obtain rfl := Host.Outcome.next.inj e
  repeat' first
    | with_reducible assumption
    | with_reducible exact Touches.refl _ _
    | intro _ _
    | intro _
    | with_reducible apply State.gateEntry_touches
    | split
    | dsimp only
    | decide

theorem execSchedSelect_touches {s t} {a0 a1 a2} (e : execSchedSelect a0 a1 a2 s = .next t) :
    Touches [.regs, .dev, .draws, .outbox, .flt, .act, .host, .buf, .pipe, .que, .tele] s t := by
  obtain rfl := Host.Outcome.next.inj e
  repeat' first
    | with_reducible assumption
    | with_reducible exact Touches.refl _ _
    | intro _ _
    | intro _
    | with_reducible apply State.schedSelect_touches
    | with_reducible apply State.fault_touches
    | with_reducible apply State.when_touches
    | split
    | dsimp only
    | decide

theorem execLaunchTimeReached_touches {s t} {a0} (e : execLaunchTimeReached a0 s = .next t) : Touches [.que] s t := by
  obtain rfl := Host.Outcome.next.inj e
  repeat' first
    | with_reducible assumption
    | with_reducible exact Touches.refl _ _
    | intro _ _
    | intro _
    | with_reducible apply State.launchReached_touches
    | split
    | dsimp only
    | decide

theorem execTxStart_touches {s t} {a0 a1} (e : execTxStart a0 a1 s = .next t) :
    Touches [.regs, .dev, .draws, .outbox, .flt, .act, .host, .buf, .que, .tele] s t := by
  obtain rfl := Host.Outcome.next.inj e
  repeat' first
    | with_reducible assumption
    | with_reducible exact Touches.refl _ _
    | intro _ _
    | intro _
    | with_reducible apply State.txStart_touches
    | split
    | dsimp only
    | decide

theorem execTxUnderrun_touches {s t} {a0} (e : execTxUnderrun a0 s = .next t) :
    Touches [.regs, .outbox, .flt, .act, .host, .buf, .que, .tele] s t := by
  obtain rfl := Host.Outcome.next.inj e
  repeat' first
    | with_reducible assumption
    | with_reducible exact Touches.refl _ _
    | intro _ _
    | intro _
    | with_reducible apply State.txUnderrun_touches
    | split
    | dsimp only
    | decide

theorem execTxComplete_touches {s t} {a0 a1} (e : execTxComplete a0 a1 s = .next t) :
    Touches [.regs, .dev, .draws, .outbox, .flt, .act, .host, .buf, .que, .tele] s t := by
  obtain rfl := Host.Outcome.next.inj e
  repeat' first
    | with_reducible assumption
    | with_reducible exact Touches.refl _ _
    | intro _ _
    | intro _
    | with_reducible apply State.txComplete_touches
    | split
    | dsimp only
    | decide

theorem execRxRingWrite_touches {s t} {a0 a1} (e : execRxRingWrite a0 a1 s = .next t) :
    Touches [.regs, .dev, .draws, .outbox, .flt, .act, .host, .buf, .que, .tele] s t := by
  obtain rfl := Host.Outcome.next.inj e
  repeat' first
    | with_reducible assumption
    | with_reducible exact Touches.refl _ _
    | intro _ _
    | intro _
    | with_reducible apply State.rxRingWrite_touches
    | split
    | dsimp only
    | decide

theorem execRxRingStall_touches {s t} {a0} (e : execRxRingStall a0 s = .next t) : Touches [.regs, .flt, .host] s t := by
  obtain rfl := Host.Outcome.next.inj e
  repeat' first
    | with_reducible assumption
    | with_reducible exact Touches.refl _ _
    | intro _ _
    | intro _
    | with_reducible apply State.rxStall_touches
    | split
    | dsimp only
    | decide

theorem execTxRingTake_touches {s t} {a0} (e : execTxRingTake a0 s = .next t) :
    Touches [.regs, .dev, .outbox, .flt, .act, .host, .buf, .pipe, .que, .tele] s t := by
  obtain rfl := Host.Outcome.next.inj e
  repeat' first
    | with_reducible assumption
    | with_reducible exact Touches.refl _ _
    | intro _ _
    | intro _
    | with_reducible apply State.txTake_touches
    | split
    | dsimp only
    | decide

theorem execRingPoll_touches {s t} {a0} (e : execRingPoll a0 s = .next t) :
    Touches [.regs, .dev, .outbox, .flt, .act, .host, .buf, .pipe, .que, .tele] s t := by
  obtain rfl := Host.Outcome.next.inj e
  repeat' first
    | with_reducible assumption
    | with_reducible exact Touches.refl _ _
    | intro _ _
    | intro _
    | with_reducible apply State.ringExamine_touches
    | with_reducible apply State.when_touches
    | split
    | dsimp only
    | decide

theorem execBezelWrite_touches {s t} {a0 a1 a2} (e : execBezelWrite a0 a1 a2 s = .next t) :
    Touches [.regs, .dev, .outbox, .flt, .act, .host, .buf, .pipe, .que, .tele] s t := by
  obtain rfl := Host.Outcome.next.inj e
  repeat' first
    | with_reducible assumption
    | with_reducible exact Touches.refl _ _
    | intro _ _
    | intro _
    | with_reducible apply State.bezelWrite_touches
    | split
    | dsimp only
    | decide

theorem execPoisonedWrite_touches {s t} {a0} (e : execPoisonedWrite a0 s = .next t) :
    Touches [.regs, .outbox, .flt, .host] s t := by
  obtain rfl := Host.Outcome.next.inj e
  repeat' first
    | with_reducible assumption
    | with_reducible exact Touches.refl _ _
    | intro _ _
    | intro _
    | with_reducible apply State.poisoned_touches
    | split
    | dsimp only
    | decide

theorem execDmaGo_touches {s t} {a0} (e : execDmaGo a0 s = .next t) : Touches [.regs, .outbox, .host] s t := by
  obtain rfl := Host.Outcome.next.inj e
  repeat' first
    | with_reducible assumption
    | with_reducible exact Touches.refl _ _
    | intro _ _
    | intro _
    | with_reducible apply State.dmaGo_touches
    | with_reducible apply State.viaHost_touches
    | split
    | dsimp only
    | decide

theorem execDmaAbort_touches {s t} {a0} (e : execDmaAbort a0 s = .next t) : Touches [.regs, .outbox, .host] s t := by
  obtain rfl := Host.Outcome.next.inj e
  repeat' first
    | with_reducible assumption
    | with_reducible exact Touches.refl _ _
    | intro _ _
    | intro _
    | with_reducible apply State.dmaAbort_touches
    | with_reducible apply State.viaHost_touches
    | split
    | dsimp only
    | decide

theorem execClearHalt_touches {s t} {a0} (e : execClearHalt a0 s = .next t) : Touches [.regs, .outbox, .host] s t := by
  obtain rfl := Host.Outcome.next.inj e
  repeat' first
    | with_reducible assumption
    | with_reducible exact Touches.refl _ _
    | intro _ _
    | intro _
    | with_reducible apply State.dmaClearHalt_touches
    | with_reducible apply State.viaHost_touches
    | split
    | dsimp only
    | decide

theorem execShadowArm_touches {s t} {a0} (e : execShadowArm a0 s = .next t) : Touches [.regs, .outbox, .host] s t := by
  obtain rfl := Host.Outcome.next.inj e
  repeat' first
    | with_reducible assumption
    | with_reducible exact Touches.refl _ _
    | intro _ _
    | intro _
    | with_reducible apply State.shadowArm_touches
    | with_reducible apply State.viaHost_touches
    | split
    | dsimp only
    | decide

theorem execShadowCancel_touches {s t} {a0} (e : execShadowCancel a0 s = .next t) : Touches [.regs] s t := by
  obtain rfl := Host.Outcome.next.inj e
  repeat' first
    | with_reducible assumption
    | with_reducible exact Touches.refl _ _
    | intro _ _
    | intro _
    | with_reducible apply State.setB_touches
    | with_reducible apply State.viaHost_touches
    | split
    | dsimp only
    | decide

theorem execShadowFieldWrite_touches {s t} {a0 a1 a2} (e : execShadowFieldWrite a0 a1 a2 s = .next t) :
    Touches [.regs, .host] s t := by
  obtain rfl := Host.Outcome.next.inj e
  repeat' first
    | with_reducible assumption
    | with_reducible exact Touches.refl _ _
    | intro _ _
    | intro _
    | with_reducible apply State.viaHost_touches
    | with_reducible apply shadowWord_touches
    | split
    | dsimp only
    | decide

theorem execDmaBurst_touches {s t} {a0 a1} (e : execDmaBurst a0 a1 s = .next t) :
    Touches [.regs, .dev, .outbox, .flt, .act, .host, .buf, .pipe, .que, .tele] s t := by
  obtain rfl := Host.Outcome.next.inj e
  repeat' first
    | with_reducible assumption
    | with_reducible exact Touches.refl _ _
    | intro _ _
    | intro _
    | with_reducible apply State.dmaBurst_touches
    | split
    | dsimp only
    | decide

theorem execDmaReadbackDone_touches {s t} {a0 a1} (e : execDmaReadbackDone a0 a1 s = .next t) :
    Touches [.regs, .outbox, .host] s t := by
  obtain rfl := Host.Outcome.next.inj e
  repeat' first
    | with_reducible assumption
    | with_reducible exact Touches.refl _ _
    | intro _ _
    | intro _
    | with_reducible apply State.dmaReadback_touches
    | split
    | dsimp only
    | decide

theorem execLoadBank_touches {s t} {a0} (e : execLoadBank a0 s = .next t) :
    Touches [.regs, .dev, .outbox, .flt, .anvil, .host, .img] s t := by
  obtain rfl := Host.Outcome.next.inj e
  repeat' first
    | with_reducible assumption
    | with_reducible exact Touches.refl _ _
    | intro _ _
    | intro _
    | with_reducible apply State.imgCommand_touches
    | with_reducible apply State.viaHost_touches
    | split
    | dsimp only
    | decide

theorem execLoadHost_touches {s t} (e : execLoadHost s = .next t) :
    Touches [.regs, .dev, .outbox, .flt, .anvil, .host, .img] s t := by
  obtain rfl := Host.Outcome.next.inj e
  repeat' first
    | with_reducible assumption
    | with_reducible exact Touches.refl _ _
    | intro _ _
    | intro _
    | with_reducible apply State.imgCommand_touches
    | with_reducible apply State.viaHost_touches
    | split
    | dsimp only
    | decide

theorem execWriteBank_touches {s t} {a0 a1} (e : execWriteBank a0 a1 s = .next t) :
    Touches [.regs, .dev, .outbox, .flt, .anvil, .host, .img] s t := by
  obtain rfl := Host.Outcome.next.inj e
  repeat' first
    | with_reducible assumption
    | with_reducible exact Touches.refl _ _
    | intro _ _
    | intro _
    | with_reducible apply State.imgCommand_touches
    | with_reducible apply State.viaHost_touches
    | split
    | dsimp only
    | decide

theorem execVerifyBank_touches {s t} {a0} (e : execVerifyBank a0 s = .next t) :
    Touches [.regs, .dev, .outbox, .flt, .anvil, .host, .img] s t := by
  obtain rfl := Host.Outcome.next.inj e
  repeat' first
    | with_reducible assumption
    | with_reducible exact Touches.refl _ _
    | intro _ _
    | intro _
    | with_reducible apply State.imgCommand_touches
    | with_reducible apply State.viaHost_touches
    | split
    | dsimp only
    | decide

theorem execSwap_touches {s t} (e : execSwap s = .next t) :
    Touches [.regs, .dev, .outbox, .flt, .anvil, .host, .img] s t := by
  obtain rfl := Host.Outcome.next.inj e
  repeat' first
    | with_reducible assumption
    | with_reducible exact Touches.refl _ _
    | intro _ _
    | intro _
    | with_reducible apply State.imgCommand_touches
    | with_reducible apply State.viaHost_touches
    | split
    | dsimp only
    | decide

theorem execEpochRetire_touches {s t} (e : execEpochRetire s = .next t) : Touches [.regs, .outbox, .host] s t := by
  obtain rfl := Host.Outcome.next.inj e
  repeat' first
    | with_reducible assumption
    | with_reducible exact Touches.refl _ _
    | intro _ _
    | intro _
    | with_reducible apply State.epochRetired_touches
    | with_reducible apply State.when_touches
    | split
    | dsimp only
    | decide

theorem execRetireOverdue_touches {s t} (e : execRetireOverdue s = .next t) : Touches [.regs, .flt, .img] s t := by
  obtain rfl := Host.Outcome.next.inj e
  repeat' first
    | with_reducible assumption
    | with_reducible exact Touches.refl _ _
    | intro _ _
    | intro _
    | with_reducible apply State.retireOverdue_touches
    | split
    | dsimp only
    | decide

theorem execRetireForce_touches {s t} (e : execRetireForce s = .next t) :
    Touches [.regs, .outbox, .flt, .act, .host, .buf, .pipe, .que, .tele] s t := by
  obtain rfl := Host.Outcome.next.inj e
  repeat' first
    | with_reducible assumption
    | with_reducible exact Touches.refl _ _
    | intro _ _
    | intro _
    | with_reducible apply State.retireForce_touches
    | with_reducible apply State.viaHost_touches
    | split
    | dsimp only
    | decide

theorem execImgVerifyComplete_touches {s t} {a0 a1} (e : execImgVerifyComplete a0 a1 s = .next t) :
    Touches (allBut [.readData, .core, .pwr, .mil, .assay, .pins, .boot]) s t := by
  obtain rfl := Host.Outcome.next.inj e
  repeat' first
    | with_reducible assumption
    | with_reducible exact Touches.refl _ _
    | intro _ _
    | intro _
    | with_reducible apply State.imgVerified_touches
    | split
    | dsimp only
    | decide

theorem execImgFetchError_touches {s t} {a0} (e : execImgFetchError a0 s = .next t) :
    Touches (allBut [.readData, .core, .pwr, .mil, .assay, .pins, .boot]) s t := by
  obtain rfl := Host.Outcome.next.inj e
  repeat' first
    | with_reducible assumption
    | with_reducible exact Touches.refl _ _
    | intro _ _
    | intro _
    | with_reducible apply State.take_touches
    | with_reducible apply State.imgVerified_touches
    | with_reducible apply State.when_touches
    | split
    | dsimp only
    | decide

theorem execImgAbort_touches {s t} {a0} (e : execImgAbort a0 s = .next t) :
    Touches [.regs, .dev, .draws, .outbox, .flt, .act, .anvil, .host, .img, .pipe] s t := by
  obtain rfl := Host.Outcome.next.inj e
  repeat' first
    | with_reducible assumption
    | with_reducible exact Touches.refl _ _
    | intro _ _
    | intro _
    | with_reducible apply State.viaHost_touches
    | with_reducible apply State.imgAbort_touches
    | split
    | dsimp only
    | decide

theorem execBankCommit_touches {s t} {a0} (e : execBankCommit a0 s = .next t) :
    Touches [.regs, .dev, .outbox, .flt, .anvil, .host, .img] s t := by
  obtain rfl := Host.Outcome.next.inj e
  repeat' first
    | with_reducible assumption
    | with_reducible exact Touches.refl _ _
    | intro _ _
    | intro _
    | with_reducible apply State.bankCommit_touches
    | split
    | dsimp only
    | decide

theorem execTriggerArm_touches {s t} {a0} (e : execTriggerArm a0 s = .next t) : Touches [.regs, .time] s t := by
  obtain rfl := Host.Outcome.next.inj e
  repeat' first
    | with_reducible assumption
    | with_reducible exact Touches.refl _ _
    | intro _ _
    | intro _
    | with_reducible apply State.trigArm_touches
    | with_reducible apply State.viaHost_touches
    | split
    | dsimp only
    | decide

theorem execTriggerFire_touches {s t} {a0} (e : execTriggerFire a0 s = .next t) :
    Touches [.regs, .outbox, .time, .core, .pwr, .flt, .host, .img, .tele] s t := by
  obtain rfl := Host.Outcome.next.inj e
  repeat' first
    | with_reducible assumption
    | with_reducible exact Touches.refl _ _
    | intro _ _
    | intro _
    | with_reducible apply State.trigDue_touches
    | split
    | dsimp only
    | decide

theorem execPpsOutPulse_touches {s t} (e : execPpsOutPulse s = .next t) : Touches [.time] s t := by
  obtain rfl := Host.Outcome.next.inj e
  repeat' first
    | with_reducible assumption
    | with_reducible exact Touches.refl _ _
    | intro _ _
    | intro _
    | with_reducible apply State.ppsOut_touches
    | split
    | dsimp only
    | decide

theorem execPpsOutPulseEnd_touches {s t} (e : execPpsOutPulseEnd s = .next t) : Touches [.time] s t := by
  obtain rfl := Host.Outcome.next.inj e
  repeat' first
    | with_reducible assumption
    | with_reducible exact Touches.refl _ _
    | intro _ _
    | intro _
    | with_reducible apply State.when_touches
    | split
    | dsimp only
    | with_reducible apply Touches.upd
    | decide
    | exact Or.inl (by decide)
    | exact Or.inr rfl

theorem execTimeSet_touches {s t} (e : execTimeSet s = .next t) :
    Touches [.regs, .outbox, .time, .core, .pwr, .flt, .host, .img, .que, .tele] s t := by
  obtain rfl := Host.Outcome.next.inj e
  repeat' first
    | with_reducible assumption
    | with_reducible exact Touches.refl _ _
    | intro _ _
    | intro _
    | with_reducible apply State.timeSet_touches
    | with_reducible apply State.viaHost_touches
    | split
    | dsimp only
    | decide

theorem execTimeStep_touches {s t} (e : execTimeStep s = .next t) :
    Touches [.regs, .outbox, .time, .core, .pwr, .flt, .host, .img, .que, .tele] s t := by
  obtain rfl := Host.Outcome.next.inj e
  repeat' first
    | with_reducible assumption
    | with_reducible exact Touches.refl _ _
    | intro _ _
    | intro _
    | with_reducible apply State.timeStep_touches
    | with_reducible apply State.viaHost_touches
    | split
    | dsimp only
    | decide

theorem execTimeSnapshot_touches {s t} (e : execTimeSnapshot s = .next t) : Touches [.regs] s t := by
  obtain rfl := Host.Outcome.next.inj e
  repeat' first
    | with_reducible assumption
    | with_reducible exact Touches.refl _ _
    | intro _ _
    | intro _
    | with_reducible apply State.timeSnapshot_touches
    | with_reducible apply State.viaHost_touches
    | split
    | dsimp only
    | decide

theorem execTimeRateCommit_touches {s t} {a0} (e : execTimeRateCommit a0 s = .next t) :
    Touches [.regs, .outbox, .time, .core, .pwr, .flt, .host, .img, .que, .tele] s t := by
  obtain rfl := Host.Outcome.next.inj e
  repeat' first
    | with_reducible assumption
    | with_reducible exact Touches.refl _ _
    | intro _ _
    | intro _
    | with_reducible apply State.rateCommit_touches
    | with_reducible apply State.viaHost_touches
    | split
    | dsimp only
    | decide

theorem execHoldover_touches {s t} (e : execHoldover s = .next t) : Touches [.regs, .outbox, .flt, .host] s t := by
  obtain rfl := Host.Outcome.next.inj e
  repeat' first
    | with_reducible assumption
    | with_reducible exact Touches.refl _ _
    | intro _ _
    | intro _
    | with_reducible apply State.holdover_touches
    | split
    | dsimp only
    | decide

theorem execRefclkLost_touches {s t} (e : execRefclkLost s = .next t) : Touches [.regs, .outbox, .flt, .host] s t := by
  obtain rfl := Host.Outcome.next.inj e
  repeat' first
    | with_reducible assumption
    | with_reducible exact Touches.refl _ _
    | intro _ _
    | intro _
    | with_reducible apply State.refclkLost_touches
    | split
    | dsimp only
    | decide

theorem execRefclkRestored_touches {s t} (e : execRefclkRestored s = .next t) : Touches [.regs] s t := by
  obtain rfl := Host.Outcome.next.inj e
  repeat' first
    | with_reducible assumption
    | with_reducible exact Touches.refl _ _
    | intro _ _
    | intro _
    | with_reducible apply State.setB_touches
    | split
    | dsimp only
    | decide

theorem execPinCapture_touches {s t} {a0 a1} (e : execPinCapture a0 a1 s = .next t) :
    Touches [.regs, .outbox, .time, .core, .pwr, .host, .pins] s t := by
  obtain rfl := Host.Outcome.next.inj e
  repeat' first
    | with_reducible assumption
    | with_reducible exact Touches.refl _ _
    | intro _ _
    | intro _
    | with_reducible apply State.pinCapture_touches
    | split
    | dsimp only
    | decide

theorem execPpsAbsent_touches {s t} (e : execPpsAbsent s = .next t) : Touches [.regs, .flt] s t := by
  obtain rfl := Host.Outcome.next.inj e
  repeat' first
    | with_reducible assumption
    | with_reducible exact Touches.refl _ _
    | intro _ _
    | intro _
    | with_reducible apply State.setB_touches
    | with_reducible apply State.fault_touches
    | with_reducible apply State.when_touches
    | split
    | dsimp only
    | decide

theorem execChipletRefclkLost_touches {s t} {a0} (e : execChipletRefclkLost a0 s = .next t) :
    Touches [.regs, .outbox, .time, .flt, .buf] s t := by
  obtain rfl := Host.Outcome.next.inj e
  repeat' first
    | with_reducible assumption
    | with_reducible exact Touches.refl _ _
    | intro _ _
    | intro _
    | with_reducible apply Touches.upTo
    | with_reducible apply State.chipletLost_touches
    | with_reducible apply State.synceUpdate_touches
    | with_reducible apply State.when_touches
    | split
    | dsimp only
    | decide

theorem execFullLoadReady_touches {s t} (e : execFullLoadReady s = .next t) :
    Touches (allBut [.readData, .anvil, .mil, .assay, .pins]) s t := by
  obtain rfl := Host.Outcome.next.inj e
  repeat' first
    | with_reducible assumption
    | with_reducible exact Touches.refl _ _
    | intro _ _
    | intro _
    | with_reducible apply Touches.choose
    | with_reducible apply State.loadReady_touches
    | split
    | dsimp only
    | decide

theorem execModuleReset_touches {s t} {a0} (e : execModuleReset a0 s = .next t) :
    Touches (allBut [.readData, .pins]) s t := by
  obtain rfl := Host.Outcome.next.inj e
  repeat' first
    | with_reducible assumption
    | with_reducible exact Touches.refl _ _
    | intro _ _
    | intro _
    | with_reducible apply State.resetCommand_touches
    | with_reducible apply State.viaHost_touches
    | split
    | dsimp only
    | decide

theorem execSoftReset_touches {s t} {a0} (e : execSoftReset a0 s = .next t) : Touches (allBut [.readData, .pins]) s t := by
  obtain rfl := Host.Outcome.next.inj e
  repeat' first
    | with_reducible assumption
    | with_reducible exact Touches.refl _ _
    | intro _ _
    | intro _
    | with_reducible apply State.resetCommand_touches
    | with_reducible apply State.viaHost_touches
    | split
    | dsimp only
    | decide

theorem execPowerOn_touches {s t} {a0 a1} (e : execPowerOn a0 a1 s = .next t) : Touches (allBut []) s t := by
  obtain rfl := Host.Outcome.next.inj e
  repeat' first
    | with_reducible assumption
    | with_reducible exact Touches.refl _ _
    | intro _ _
    | intro _
    | with_reducible apply State.powerOn_touches
    | split
    | dsimp only
    | decide

theorem execResetNAssert_touches {s t} (e : execResetNAssert s = .next t) :
    Touches [.regs, .outbox, .flt, .act, .host, .pins, .boot, .buf, .pipe, .que, .tele] s t := by
  obtain rfl := Host.Outcome.next.inj e
  repeat' first
    | with_reducible assumption
    | with_reducible exact Touches.refl _ _
    | intro _ _
    | intro _
    | with_reducible apply State.resetAssert_touches
    | split
    | dsimp only
    | decide

theorem execResetNRelease_touches {s t} (e : execResetNRelease s = .next t) : Touches (allBut [.readData]) s t := by
  obtain rfl := Host.Outcome.next.inj e
  repeat' first
    | with_reducible assumption
    | with_reducible exact Touches.refl _ _
    | intro _ _
    | intro _
    | with_reducible apply State.resetRelease_touches
    | split
    | dsimp only
    | decide

theorem execPipeGo_touches {s t} {a0} (e : execPipeGo a0 s = .next t) :
    Touches [.regs, .draws, .outbox, .flt, .act, .host, .boot, .buf, .pipe, .que, .tele] s t := by
  obtain rfl := Host.Outcome.next.inj e
  repeat' first
    | with_reducible assumption
    | with_reducible exact Touches.refl _ _
    | intro _ _
    | intro _
    | with_reducible apply State.set_touches
    | with_reducible apply State.pipeGo_touches
    | with_reducible apply State.viaHost_touches
    | split
    | dsimp only
    | decide

theorem execPortGo_touches {s t} {a0} (e : execPortGo a0 s = .next t) :
    Touches [.regs, .draws, .outbox, .flt, .act, .host, .boot, .buf, .pipe, .que, .tele] s t := by
  obtain rfl := Host.Outcome.next.inj e
  repeat' first
    | with_reducible assumption
    | with_reducible exact Touches.refl _ _
    | intro _ _
    | intro _
    | with_reducible apply State.set_touches
    | with_reducible apply State.portGo_touches
    | with_reducible apply State.viaHost_touches
    | split
    | dsimp only
    | decide

theorem execInputGlitch_touches {s t} {a0 a1} (e : execInputGlitch a0 a1 s = .next t) : Touches [.regs] s t := by
  obtain rfl := Host.Outcome.next.inj e
  repeat' first
    | with_reducible assumption
    | with_reducible exact Touches.refl _ _
    | intro _ _
    | intro _
    | with_reducible apply Touches.choose
    | with_reducible apply State.inc_touches
    | with_reducible apply State.when_touches
    | split
    | dsimp only
    | decide

theorem execInputStuck_touches {s t} {a0} (e : execInputStuck a0 s = .next t) :
    Touches [.regs, .outbox, .flt, .host] s t := by
  obtain rfl := Host.Outcome.next.inj e
  repeat' first
    | with_reducible assumption
    | with_reducible exact Touches.refl _ _
    | intro _ _
    | intro _
    | with_reducible apply State.inputStuck_touches
    | split
    | dsimp only
    | decide

theorem execInputUnstuck_touches {s t} {a0} (e : execInputUnstuck a0 s = .next t) : Touches [.regs, .pins] s t := by
  obtain rfl := Host.Outcome.next.inj e
  repeat' first
    | with_reducible assumption
    | with_reducible exact Touches.refl _ _
    | intro _ _
    | intro _
    | with_reducible apply State.inputUnstuck_touches
    | split
    | dsimp only
    | decide

theorem execPowerFail_touches {s t} {a0 a1 a2} (e : execPowerFail a0 a1 a2 s = .next t) :
    Touches (allBut [.readData, .time, .mil, .boot]) s t := by
  obtain rfl := Host.Outcome.next.inj e
  repeat' first
    | with_reducible assumption
    | with_reducible exact Touches.refl _ _
    | intro _ _
    | intro _
    | with_reducible apply State.powerFailEvent_touches
    | split
    | dsimp only
    | decide

theorem execPfailDone_touches {s t} (e : execPfailDone s = .next t) : Touches [.regs] s t := by
  obtain rfl := Host.Outcome.next.inj e
  repeat' first
    | with_reducible assumption
    | with_reducible exact Touches.refl _ _
    | intro _ _
    | intro _
    | with_reducible apply State.setB_touches
    | with_reducible apply State.when_touches
    | split
    | dsimp only
    | decide

theorem execPowerRecovery_touches {s t} (e : execPowerRecovery s = .next t) : Touches (allBut [.readData, .pins]) s t := by
  obtain rfl := Host.Outcome.next.inj e
  repeat' first
    | with_reducible assumption
    | with_reducible exact Touches.refl _ _
    | intro _ _
    | intro _
    | with_reducible apply State.powerRecovery_touches
    | split
    | dsimp only
    | decide

theorem execPcieLinkDown_touches {s t} (e : execPcieLinkDown s = .next t) :
    Touches [.regs, .outbox, .flt, .host, .img] s t := by
  obtain rfl := Host.Outcome.next.inj e
  repeat' first
    | with_reducible assumption
    | with_reducible exact Touches.refl _ _
    | intro _ _
    | intro _
    | with_reducible apply State.pcieDown_touches
    | with_reducible apply State.when_touches
    | split
    | dsimp only
    | decide

theorem execPcieLinkUp_touches {s t} {a0 a1} (e : execPcieLinkUp a0 a1 s = .next t) : Touches [.regs] s t := by
  obtain rfl := Host.Outcome.next.inj e
  repeat' first
    | with_reducible assumption
    | with_reducible exact Touches.refl _ _
    | intro _ _
    | intro _
    | with_reducible apply State.set_touches
    | with_reducible apply State.setB_touches
    | with_reducible apply State.when_touches
    | split
    | dsimp only
    | decide

theorem execBusMasterDisable_touches {s t} (e : execBusMasterDisable s = .next t) :
    Touches [.regs, .outbox, .flt, .host, .img] s t := by
  obtain rfl := Host.Outcome.next.inj e
  repeat' first
    | with_reducible assumption
    | with_reducible exact Touches.refl _ _
    | intro _ _
    | intro _
    | with_reducible apply State.masterOff_touches
    | with_reducible apply State.when_touches
    | split
    | dsimp only
    | decide

theorem execD3hotEntry_touches {s t} (e : execD3hotEntry s = .next t) :
    Touches [.regs, .outbox, .flt, .host, .img] s t := by
  obtain rfl := Host.Outcome.next.inj e
  repeat' first
    | with_reducible assumption
    | with_reducible exact Touches.refl _ _
    | intro _ _
    | intro _
    | with_reducible apply State.d3Enter_touches
    | with_reducible apply State.when_touches
    | split
    | dsimp only
    | decide

theorem execHostResume_touches {s t} (e : execHostResume s = .next t) : Touches [.regs, .outbox, .host] s t := by
  obtain rfl := Host.Outcome.next.inj e
  repeat' first
    | with_reducible assumption
    | with_reducible exact Touches.refl _ _
    | intro _ _
    | intro _
    | with_reducible apply State.setB_touches
    | with_reducible apply State.msixReleaseAll_touches
    | with_reducible apply State.when_touches
    | split
    | dsimp only
    | decide

theorem execMsixUnmask_touches {s t} {a0} (e : execMsixUnmask a0 s = .next t) : Touches [.outbox, .host] s t := by
  obtain rfl := Host.Outcome.next.inj e
  repeat' first
    | with_reducible assumption
    | with_reducible exact Touches.refl _ _
    | intro _ _
    | intro _
    | with_reducible apply State.msixRelease_touches
    | with_reducible apply State.when_touches
    | split
    | dsimp only
    | with_reducible apply Touches.upd
    | decide
    | exact Or.inl (by decide)
    | exact Or.inr rfl

theorem execFaultDecision_touches {s t} (e : execFaultDecision s = .next t) :
    Touches [.regs, .draws, .outbox, .flt, .act, .host, .boot, .buf, .pipe, .que, .tele] s t := by
  obtain rfl := Host.Outcome.next.inj e
  repeat' first
    | with_reducible assumption
    | with_reducible exact Touches.refl _ _
    | intro _ _
    | intro _
    | with_reducible apply State.faultDecide_touches
    | with_reducible apply State.when_touches
    | split
    | dsimp only
    | decide

theorem execFaultRecord_touches {s t} {a0} (e : execFaultRecord a0 s = .next t) :
    Touches [.regs, .dev, .outbox, .flt, .act, .anvil, .host] s t := by
  obtain rfl := Host.Outcome.next.inj e
  repeat' first
    | with_reducible assumption
    | with_reducible exact Touches.refl _ _
    | intro _ _
    | intro _
    | with_reducible apply State.faultRecord_touches
    | split
    | dsimp only
    | decide

theorem execMaskWindowEnd_touches {s t} (e : execMaskWindowEnd s = .next t) : Touches [.flt] s t := by
  obtain rfl := Host.Outcome.next.inj e
  repeat' first
    | with_reducible assumption
    | with_reducible exact Touches.refl _ _
    | intro _ _
    | intro _
    | with_reducible apply State.maskEnd_touches
    | split
    | dsimp only
    | decide

theorem execAutoReset_touches {s t} (e : execAutoReset s = .next t) : Touches (allBut [.readData, .pins]) s t := by
  obtain rfl := Host.Outcome.next.inj e
  repeat' first
    | with_reducible assumption
    | with_reducible exact Touches.refl _ _
    | intro _ _
    | intro _
    | with_reducible apply State.autoReset_touches
    | split
    | dsimp only
    | decide

theorem execFirstClr_touches {s t} (e : execFirstClr s = .next t) : Touches [.regs] s t := by
  obtain rfl := Host.Outcome.next.inj e
  repeat' first
    | with_reducible assumption
    | with_reducible exact Touches.refl _ _
    | intro _ _
    | intro _
    | with_reducible apply State.set_touches
    | with_reducible apply State.setB_touches
    | with_reducible apply State.viaHost_touches
    | split
    | dsimp only
    | decide

theorem execFaultNClr_touches {s t} (e : execFaultNClr s = .next t) : Touches [.regs] s t := by
  obtain rfl := Host.Outcome.next.inj e
  repeat' first
    | with_reducible assumption
    | with_reducible exact Touches.refl _ _
    | intro _ _
    | intro _
    | with_reducible apply State.setB_touches
    | with_reducible apply State.when_touches
    | with_reducible apply State.viaHost_touches
    | split
    | dsimp only
    | decide

theorem execAliveRestart_touches {s t} (e : execAliveRestart s = .next t) : Touches [.regs] s t := by
  obtain rfl := Host.Outcome.next.inj e
  repeat' first
    | with_reducible assumption
    | with_reducible exact Touches.refl _ _
    | intro _ _
    | intro _
    | with_reducible apply State.setB_touches
    | with_reducible apply State.when_touches
    | with_reducible apply State.viaHost_touches
    | split
    | dsimp only
    | decide

theorem execPortSafeRelease_touches {s t} {a0} (e : execPortSafeRelease a0 s = .next t) :
    Touches [.regs, .draws, .outbox, .flt, .act, .host, .buf, .pipe, .que, .tele] s t := by
  obtain rfl := Host.Outcome.next.inj e
  repeat' first
    | with_reducible assumption
    | with_reducible exact Touches.refl _ _
    | intro _ _
    | intro _
    | with_reducible apply State.portSafeRelease_touches
    | with_reducible apply State.viaHost_touches
    | split
    | dsimp only
    | decide

theorem execInjectEvent_touches {s t} (e : execInjectEvent s = .next t) : Touches [.regs, .flt] s t := by
  obtain rfl := Host.Outcome.next.inj e
  repeat' first
    | with_reducible assumption
    | with_reducible exact Touches.refl _ _
    | intro _ _
    | intro _
    | with_reducible apply Touches.choose
    | with_reducible apply State.injGate_touches
    | with_reducible apply State.injEvent_touches
    | with_reducible apply State.viaHost_touches
    | split
    | dsimp only
    | decide

theorem execInjectMemory_touches {s t} (e : execInjectMemory s = .next t) : Touches [.regs, .flt] s t := by
  obtain rfl := Host.Outcome.next.inj e
  repeat' first
    | with_reducible assumption
    | with_reducible exact Touches.refl _ _
    | intro _ _
    | intro _
    | with_reducible apply Touches.choose
    | with_reducible apply State.injGate_touches
    | with_reducible apply State.injMemory_touches
    | with_reducible apply State.viaHost_touches
    | split
    | dsimp only
    | decide

theorem execInjectLane_touches {s t} (e : execInjectLane s = .next t) : Touches [.regs, .outbox] s t := by
  obtain rfl := Host.Outcome.next.inj e
  repeat' first
    | with_reducible assumption
    | with_reducible exact Touches.refl _ _
    | intro _ _
    | intro _
    | with_reducible apply Touches.choose
    | with_reducible apply State.injLane_touches
    | with_reducible apply State.injGate_touches
    | with_reducible apply State.viaHost_touches
    | split
    | dsimp only
    | decide

theorem execFuseSlot_touches {s t} {a0 a1} (e : execFuseSlot a0 a1 s = .next t) :
    Touches (allBut [.readData, .pwr, .anvil, .assay, .pins, .boot]) s t := by
  obtain rfl := Host.Outcome.next.inj e
  repeat' first
    | with_reducible assumption
    | with_reducible exact Touches.refl _ _
    | intro _ _
    | intro _
    | with_reducible apply State.milestRow_touches
    | with_reducible apply State.viaHost_touches
    | split
    | dsimp only
    | decide

theorem execFuseImageKey_touches {s t} {a0 a1} (e : execFuseImageKey a0 a1 s = .next t) :
    Touches (allBut [.readData, .pwr, .anvil, .assay, .pins, .boot]) s t := by
  obtain rfl := Host.Outcome.next.inj e
  repeat' first
    | with_reducible assumption
    | with_reducible exact Touches.refl _ _
    | intro _ _
    | intro _
    | with_reducible apply State.milestRow_touches
    | with_reducible apply State.viaHost_touches
    | split
    | dsimp only
    | decide

theorem execEnterField_touches {s t} {a0 a1} (e : execEnterField a0 a1 s = .next t) :
    Touches (allBut [.readData, .pwr, .anvil, .assay, .pins, .boot]) s t := by
  obtain rfl := Host.Outcome.next.inj e
  repeat' first
    | with_reducible assumption
    | with_reducible exact Touches.refl _ _
    | intro _ _
    | intro _
    | with_reducible apply State.milestRow_touches
    | with_reducible apply State.viaHost_touches
    | split
    | dsimp only
    | decide

theorem execEnterService_touches {s t} {a0} (e : execEnterService a0 s = .next t) :
    Touches (allBut [.readData, .pwr, .anvil, .assay, .pins, .boot]) s t := by
  obtain rfl := Host.Outcome.next.inj e
  repeat' first
    | with_reducible assumption
    | with_reducible exact Touches.refl _ _
    | intro _ _
    | intro _
    | with_reducible apply State.milestRow_touches
    | with_reducible apply State.viaHost_touches
    | split
    | dsimp only
    | decide

theorem execRevokeSlot_touches {s t} {a0 a1} (e : execRevokeSlot a0 a1 s = .next t) :
    Touches (allBut [.readData, .pwr, .anvil, .assay, .pins, .boot]) s t := by
  obtain rfl := Host.Outcome.next.inj e
  repeat' first
    | with_reducible assumption
    | with_reducible exact Touches.refl _ _
    | intro _ _
    | intro _
    | with_reducible apply State.milestRow_touches
    | with_reducible apply State.viaHost_touches
    | split
    | dsimp only
    | decide

theorem execRaiseFloor_touches {s t} {a0 a1} (e : execRaiseFloor a0 a1 s = .next t) :
    Touches (allBut [.readData, .pwr, .anvil, .assay, .pins, .boot]) s t := by
  obtain rfl := Host.Outcome.next.inj e
  repeat' first
    | with_reducible assumption
    | with_reducible exact Touches.refl _ _
    | intro _ _
    | intro _
    | with_reducible apply State.milestRow_touches
    | with_reducible apply State.viaHost_touches
    | split
    | dsimp only
    | decide

theorem execRetire_touches {s t} {a0 a1} (e : execRetire a0 a1 s = .next t) :
    Touches (allBut [.readData, .pwr, .anvil, .assay, .pins, .boot]) s t := by
  obtain rfl := Host.Outcome.next.inj e
  repeat' first
    | with_reducible assumption
    | with_reducible exact Touches.refl _ _
    | intro _ _
    | intro _
    | with_reducible apply State.milestRow_touches
    | with_reducible apply State.viaHost_touches
    | split
    | dsimp only
    | decide

theorem execGetVersion_touches {s t} (e : execGetVersion s = .next t) : Touches [.outbox, .mil] s t := by
  obtain rfl := Host.Outcome.next.inj e
  repeat' first
    | with_reducible assumption
    | with_reducible exact Touches.refl _ _
    | intro _ _
    | intro _
    | with_reducible apply State.spdmAnswer_touches
    | with_reducible apply State.emit_touches
    | split
    | dsimp only
    | with_reducible apply Touches.mil
    | decide

theorem execGetCapabilities_touches {s t} (e : execGetCapabilities s = .next t) : Touches [.outbox, .mil] s t := by
  obtain rfl := Host.Outcome.next.inj e
  repeat' first
    | with_reducible assumption
    | with_reducible exact Touches.refl _ _
    | intro _ _
    | intro _
    | with_reducible apply State.spdmAnswer_touches
    | with_reducible apply State.emit_touches
    | split
    | dsimp only
    | with_reducible apply Touches.mil
    | decide

theorem execNegotiateAlgorithms_touches {s t} (e : execNegotiateAlgorithms s = .next t) : Touches [.outbox, .mil] s t := by
  obtain rfl := Host.Outcome.next.inj e
  repeat' first
    | with_reducible assumption
    | with_reducible exact Touches.refl _ _
    | intro _ _
    | intro _
    | with_reducible apply State.spdmAnswer_touches
    | with_reducible apply State.emit_touches
    | split
    | dsimp only
    | with_reducible apply Touches.mil
    | decide

theorem execGetDigests_touches {s t} (e : execGetDigests s = .next t) : Touches [.outbox] s t := by
  obtain rfl := Host.Outcome.next.inj e
  repeat' first
    | with_reducible assumption
    | with_reducible exact Touches.refl _ _
    | intro _ _
    | intro _
    | with_reducible apply State.spdmAnswer_touches
    | with_reducible apply State.emit_touches
    | split
    | dsimp only
    | decide

theorem execGetCertificate_touches {s t} {a0 a1} (e : execGetCertificate a0 a1 s = .next t) : Touches [.outbox] s t := by
  obtain rfl := Host.Outcome.next.inj e
  repeat' first
    | with_reducible assumption
    | with_reducible exact Touches.refl _ _
    | intro _ _
    | intro _
    | with_reducible apply Touches.choose
    | with_reducible apply State.spdmAnswer_touches
    | with_reducible apply State.emit_touches
    | split
    | dsimp only
    | decide

theorem execChallenge_touches {s t} {a0} (e : execChallenge a0 s = .next t) : Touches [.draws, .outbox] s t := by
  obtain rfl := Host.Outcome.next.inj e
  repeat' first
    | with_reducible assumption
    | with_reducible exact Touches.refl _ _
    | intro _ _
    | intro _
    | with_reducible apply Touches.choose
    | with_reducible apply State.spdmAnswer_touches
    | with_reducible apply State.draw_touches
    | with_reducible apply State.emit_touches
    | split
    | dsimp only
    | decide

theorem execGetMeasurements_touches {s t} {a0 a1} (e : execGetMeasurements a0 a1 s = .next t) :
    Touches [.draws, .outbox] s t := by
  obtain rfl := Host.Outcome.next.inj e
  repeat' first
    | with_reducible assumption
    | with_reducible exact Touches.refl _ _
    | intro _ _
    | intro _
    | with_reducible apply Touches.choose
    | with_reducible apply State.spdmAnswer_touches
    | with_reducible apply State.draw_touches
    | with_reducible apply State.emit_touches
    | split
    | dsimp only
    | decide

theorem execBypass_touches {s t} (e : execBypass s = .next t) : Touches [.outbox, .pins] s t := by
  obtain rfl := Host.Outcome.next.inj e
  repeat' first
    | with_reducible assumption
    | with_reducible exact Touches.refl _ _
    | intro _ _
    | intro _
    | with_reducible apply State.jtagIr_touches
    | with_reducible apply State.jtagBypass_touches
    | split
    | dsimp only
    | decide

theorem execIdcode_touches {s t} (e : execIdcode s = .next t) : Touches [.outbox, .pins] s t := by
  obtain rfl := Host.Outcome.next.inj e
  repeat' first
    | with_reducible assumption
    | with_reducible exact Touches.refl _ _
    | intro _ _
    | intro _
    | with_reducible apply State.jtagLoad_touches
    | with_reducible apply State.jtagIr_touches
    | with_reducible apply State.emit_touches
    | split
    | dsimp only
    | decide

theorem execSamplePreload_touches {s t} {a0 a1} (e : execSamplePreload a0 a1 s = .next t) :
    Touches [.outbox, .pins] s t := by
  obtain rfl := Host.Outcome.next.inj e
  repeat' first
    | with_reducible assumption
    | with_reducible exact Touches.refl _ _
    | intro _ _
    | intro _
    | with_reducible apply Touches.choose
    | with_reducible apply State.jtagLoad_touches
    | with_reducible apply State.jtagIr_touches
    | with_reducible apply State.emit_touches
    | split
    | dsimp only
    | with_reducible apply Touches.upd
    | decide
    | exact Or.inl (by decide)
    | exact Or.inr rfl

theorem execExtest_touches {s t} (e : execExtest s = .next t) :
    Touches [.regs, .draws, .outbox, .flt, .act, .host, .pins, .buf, .pipe, .que, .tele] s t := by
  obtain rfl := Host.Outcome.next.inj e
  repeat' first
    | with_reducible assumption
    | with_reducible exact Touches.refl _ _
    | intro _ _
    | intro _
    | with_reducible apply State.moduleSafe_touches
    | with_reducible apply State.fault_touches
    | with_reducible apply State.jtagLoad_touches
    | with_reducible apply State.jtagIr_touches
    | with_reducible apply State.when_touches
    | split
    | dsimp only
    | decide

theorem execInternalScan_touches {s t} (e : execInternalScan s = .next t) : Touches [.outbox, .pins] s t := by
  obtain rfl := Host.Outcome.next.inj e
  repeat' first
    | with_reducible assumption
    | with_reducible exact Touches.refl _ _
    | intro _ _
    | intro _
    | with_reducible apply State.jtagLoad_touches
    | with_reducible apply State.jtagIr_touches
    | split
    | dsimp only
    | decide

theorem execAssayGo_touches {s t} {a0 a1} (e : execAssayGo a0 a1 s = .next t) :
    Touches (allBut [.readData, .time, .pwr, .anvil, .mil, .pins, .boot]) s t := by
  obtain rfl := Host.Outcome.next.inj e
  repeat' first
    | with_reducible assumption
    | with_reducible exact Touches.refl _ _
    | intro _ _
    | intro _
    | with_reducible apply State.assayGo_touches
    | with_reducible apply State.viaHost_touches
    | split
    | dsimp only
    | decide

theorem execAssayTestDone_touches {s t} {a0 a1 a2} (e : execAssayTestDone a0 a1 a2 s = .next t) :
    Touches [.regs, .dev, .draws, .outbox, .core, .flt, .host, .assay, .buf, .tele] s t := by
  obtain rfl := Host.Outcome.next.inj e
  repeat' first
    | with_reducible assumption
    | with_reducible exact Touches.refl _ _
    | intro _ _
    | intro _
    | with_reducible apply State.assayTestDone_touches
    | split
    | dsimp only
    | decide

theorem execAssayAbort_touches {s t} (e : execAssayAbort s = .next t) :
    Touches [.regs, .outbox, .core, .host, .assay] s t := by
  obtain rfl := Host.Outcome.next.inj e
  repeat' first
    | with_reducible assumption
    | with_reducible exact Touches.refl _ _
    | intro _ _
    | intro _
    | with_reducible apply State.assayStop_touches
    | with_reducible apply State.viaHost_touches
    | split
    | dsimp only
    | decide

theorem execAssayConditionFail_touches {s t} {a0} (e : execAssayConditionFail a0 s = .next t) :
    Touches [.regs, .outbox, .core, .host, .assay] s t := by
  obtain rfl := Host.Outcome.next.inj e
  repeat' first
    | with_reducible assumption
    | with_reducible exact Touches.refl _ _
    | intro _ _
    | intro _
    | with_reducible apply State.assayFail_touches
    | split
    | dsimp only
    | decide

theorem execRcFieldRead_touches {s t} {a0 a1} (e : execRcFieldRead a0 a1 s = .next t) :
    Touches [.regs, .readData, .outbox, .flt, .host] s t := by
  obtain rfl := Host.Outcome.next.inj e
  repeat' first
    | with_reducible assumption
    | with_reducible exact Touches.refl _ _
    | intro _ _
    | intro _
    | with_reducible apply State.busRead_touches
    | split
    | dsimp only
    | decide

theorem execLowWordRead_touches {s t} {a0} (e : execLowWordRead a0 s = .next t) :
    Touches [.regs, .readData, .outbox, .flt, .host] s t := by
  obtain rfl := Host.Outcome.next.inj e
  repeat' first
    | with_reducible assumption
    | with_reducible exact Touches.refl _ _
    | intro _ _
    | intro _
    | with_reducible apply State.busRead_touches
    | split
    | dsimp only
    | decide

theorem execHighWordRead_touches {s t} {a0} (e : execHighWordRead a0 s = .next t) :
    Touches [.regs, .readData, .outbox, .flt, .host] s t := by
  obtain rfl := Host.Outcome.next.inj e
  repeat' first
    | with_reducible assumption
    | with_reducible exact Touches.refl _ _
    | intro _ _
    | intro _
    | with_reducible apply State.busRead_touches
    | split
    | dsimp only
    | decide

theorem execBar0BadAccess_touches {s t} (e : execBar0BadAccess s = .next t) :
    Touches [.regs, .readData, .outbox, .flt, .host] s t := by
  obtain rfl := Host.Outcome.next.inj e
  repeat' first
    | with_reducible assumption
    | with_reducible exact Touches.refl _ _
    | intro _ _
    | intro _
    | with_reducible apply State.badAccess_touches
    | split
    | dsimp only
    | decide

theorem execBar4BadAccess_touches {s t} (e : execBar4BadAccess s = .next t) :
    Touches [.regs, .readData, .outbox, .flt, .host] s t := by
  obtain rfl := Host.Outcome.next.inj e
  repeat' first
    | with_reducible assumption
    | with_reducible exact Touches.refl _ _
    | intro _ _
    | intro _
    | with_reducible apply State.badAccess_touches
    | split
    | dsimp only
    | decide

theorem execRegWrite_touches {s t} {a0 a1 a2} (e : execRegWrite a0 a1 a2 s = .next t) : Touches (allBut [.pins]) s t := by
  obtain rfl := Host.Outcome.next.inj e
  repeat' first
    | with_reducible assumption
    | with_reducible exact Touches.refl _ _
    | intro _ _
    | intro _
    | with_reducible apply State.busWrite_touches
    | split
    | dsimp only
    | decide

theorem execHighWordWrite_touches {s t} {a0 a1} (e : execHighWordWrite a0 a1 s = .next t) :
    Touches (allBut [.pins]) s t := by
  obtain rfl := Host.Outcome.next.inj e
  repeat' first
    | with_reducible assumption
    | with_reducible exact Touches.refl _ _
    | intro _ _
    | intro _
    | with_reducible apply State.busWrite_touches
    | split
    | dsimp only
    | decide

theorem execGlbIntEnWrite_touches {s t} {a0} (e : execGlbIntEnWrite a0 s = .next t) :
    Touches [.regs, .outbox, .host] s t := by
  obtain rfl := Host.Outcome.next.inj e
  repeat' first
    | with_reducible assumption
    | with_reducible exact Touches.refl _ _
    | intro _ _
    | intro _
    | with_reducible apply State.intEnWrite_touches
    | with_reducible apply State.viaHost_touches
    | split
    | dsimp only
    | decide

theorem execSmbSetPointer_touches {s t} {a0 a1} (e : execSmbSetPointer a0 a1 s = .next t) :
    Touches [.outbox, .host] s t := by
  obtain rfl := Host.Outcome.next.inj e
  repeat' first
    | with_reducible assumption
    | with_reducible exact Touches.refl _ _
    | intro _ _
    | intro _
    | with_reducible apply State.smbPointer_touches
    | with_reducible apply State.smbLive_touches
    | split
    | dsimp only
    | decide

theorem execSmbRead_touches {s t} (e : execSmbRead s = .next t) : Touches [.outbox, .host] s t := by
  obtain rfl := Host.Outcome.next.inj e
  repeat' first
    | with_reducible assumption
    | with_reducible exact Touches.refl _ _
    | intro _ _
    | intro _
    | with_reducible apply State.smbRead_touches
    | with_reducible apply State.smbLive_touches
    | split
    | dsimp only
    | decide

theorem execSmbWrite_touches {s t} {a0 a1 a2} (e : execSmbWrite a0 a1 a2 s = .next t) :
    Touches (allBut [.readData, .pins]) s t := by
  obtain rfl := Host.Outcome.next.inj e
  repeat' first
    | with_reducible assumption
    | with_reducible exact Touches.refl _ _
    | intro _ _
    | intro _
    | with_reducible apply State.smbWrite_touches
    | with_reducible apply State.smbLive_touches
    | split
    | dsimp only
    | decide

theorem execSmbAlertResponse_touches {s t} (e : execSmbAlertResponse s = .next t) : Touches [.outbox] s t := by
  obtain rfl := Host.Outcome.next.inj e
  repeat' first
    | with_reducible assumption
    | with_reducible exact Touches.refl _ _
    | intro _ _
    | intro _
    | with_reducible apply State.smbLive_touches
    | with_reducible apply State.emit_touches
    | split
    | dsimp only
    | decide

end Sys2Proof.Machine
end

