-- ==== Sys2Proof/Laws/Writes.lean ====
section
/-!
SUPPORT. Which register fields an operation writes: how such frames compose. The files beside this one hold one lemma for each
operation of the machine. A field stands in them as its place, which `fldAt` reads.
-/
namespace Sys2Proof.Machine
set_option Elab.async false

/-- The register fields of a block. -/
def regBlock : Nat → List Fld
  | 0 => Reg.CORE.fields
  | 1 => Reg.IMG.fields
  | 2 => Reg.LANE.fields
  | 3 => Reg.PORT.fields
  | 4 => Reg.PARSE.fields
  | 5 => Reg.FIL.fields
  | 6 => Reg.EM.fields
  | 7 => Reg.ASE.fields
  | 8 => Reg.MAP.fields
  | 9 => Reg.CRUC.fields
  | 10 => Reg.QSCH.fields
  | 11 => Reg.TIME.fields
  | 12 => Reg.TELE.fields
  | 13 => Reg.HOST.fields
  | 14 => Reg.PWR.fields
  | 15 => Reg.ANVL.fields
  | 16 => Reg.FLT.fields
  | 17 => Reg.MIL.fields
  | 18 => Reg.ASY.fields
  | 19 => Reg.GLB.fields
  | _ => []

/-- The field at a place: 256 times its block's number, and its place in the block. -/
def fldAt (n : Nat) : Fld := (regBlock (n / 256)).getD (n % 256) Reg.GLB.SCRATCH

/-- Every register but the instances of the fields at the places listed holds the same value in `s` and `t`. -/
structure Writes (F : List Nat) (s t : State) : Prop where
  only : OnlyWrites (F.map fldAt) s t

/-- A field is among those at the places listed. -/
def Has (F : List Nat) (f : Fld) : Prop := ∃ n, [n] ⊆ F ∧ fldAt n = f

/-- Each number of the first list stands in the second. Both are rising. -/
def subList : List Nat → List Nat → Bool
  | [], _ => true
  | _, [] => false
  | a :: as, b :: bs => if Nat.beq a b then subList as bs else subList (a :: as) bs

theorem subTrans {a b F : List Nat} (w : b ⊆ F) (h : subList a b = true) : a ⊆ F := by
  induction b generalizing a with
  | nil =>
    cases a with
    | nil => exact List.nil_subset _
    | cons => simp [subList] at h
  | cons y ys ih =>
    cases a with
    | nil => exact List.nil_subset _
    | cons x xs =>
      have hy : ys ⊆ F := fun z m => w (List.mem_cons_of_mem _ m)
      simp only [subList] at h
      split at h
      · rename_i e
        have e : x = y := Nat.eq_of_beq_eq_true e
        intro z m
        rcases List.mem_cons.mp m with rfl | m
        · exact w (by simp [e])
        · exact ih hy h m
      · exact ih hy h

namespace Writes

theorem refl (F : List Nat) (s : State) : Writes F s s := ⟨fun _ _ => rfl⟩

theorem trans {F : List Nat} {s t u : State} (h : Writes F s t) (k : Writes F t u) : Writes F s u :=
  ⟨fun x m => (k.only x m).trans (h.only x m)⟩

/-- An update that leaves the registers alone. -/
theorem upd {F : List Nat} {s x : State} {pending dev draws readData outbox time core pwr flt act anvil host img mil assay pins boot buf pipe que tele}
    (h : Writes F s x) :
    Writes F s (State.mk pending x.regs dev draws readData outbox time core pwr flt act anvil host img mil assay pins boot buf pipe que tele) := ⟨h.only⟩

/-- A choice writes what its outcomes write. -/
theorem choose {F : List Nat} {s x y : State} {c : Prop} [Decidable c] (h : Writes F s x) (k : Writes F s y) :
    Writes F s (if c then x else y) := by
  split
  · exact h
  · exact k

theorem foldl {F : List Nat} {α : Type} {s x : State} {f : State → α → State} {l : List α}
    (hf : ∀ y b, Writes F s y → Writes F s (f y b)) (h : Writes F s x) : Writes F s (l.foldl f x) :=
  foldl_keeps (Writes F s) f hf l x h

theorem foldl_snd {F : List Nat} {α β : Type} {s : State} {x : β × State} {f : β × State → α → β × State} {l : List α}
    (hf : ∀ y b, Writes F s y.2 → Writes F s (f y b).2) (h : Writes F s x.2) : Writes F s (l.foldl f x).2 :=
  foldl_keeps (fun y : β × State => Writes F s y.2) f hf l x h

theorem foldl_fst {F : List Nat} {α β : Type} {s : State} {x : State × β} {f : State × β → α → State × β} {l : List α}
    (hf : ∀ y b, Writes F s y.1 → Writes F s (f y b).1) (h : Writes F s x.1) : Writes F s (l.foldl f x).1 :=
  foldl_keeps (fun y : State × β => Writes F s y.1) f hf l x h

theorem foldl_third {F : List Nat} {α β γ : Type} {s : State} {x : β × γ × State}
    {f : β × γ × State → α → β × γ × State} {l : List α}
    (hf : ∀ y b, Writes F s y.2.2 → Writes F s (f y b).2.2) (h : Writes F s x.2.2) :
    Writes F s (l.foldl f x).2.2 :=
  foldl_keeps (fun y : β × γ × State => Writes F s y.2.2) f hf l x h

theorem upTo {F : List Nat} {s x : State} {n : Nat} {f : Nat → State → State}
    (hf : ∀ k y, Writes F s y → Writes F s (f k y)) (h : Writes F s x) : Writes F s (Machine.upTo n f x) :=
  upTo_keeps (Writes F s) n f x hf h

theorem iterate {F : List Nat} {s x : State} {n : Nat} {f : State → State}
    (hf : ∀ y, Writes F s y → Writes F s (f y)) (h : Writes F s x) : Writes F s (Machine.iterate f n x) :=
  iterate_keeps (Writes F s) f hf n x h

/-- The fields of the places that an operation writes, whatever else may be written. -/
theorem only_of {fs : List Fld} {s t : State} (a b : List Nat) (k : a.all (fun n => b.contains n) = true) (e : b.map fldAt = fs)
    (h : ∀ F, a ⊆ F → Writes F s t) : OnlyWrites fs s t := by
  have m : a ⊆ b := fun n hn => by simpa using List.all_eq_true.mp k n hn
  exact e ▸ (h b m).only

end Writes

theorem State.when_writes {F : List Nat} {s x : State} {c : Bool} {f : State → State}
    (hf : ∀ y, Writes F s y → Writes F s (f y)) (h : Writes F s x) : Writes F s (x.when c f) :=
  State.when_cases x c f h (fun _ => hf x h)

theorem State.set_writes {F : List Nat} {s x : State} {f : Fld} {v i j : Nat} (k : Has F f) (h : Writes F s x) :
    Writes F s (x.set f v i j) := by
  obtain ⟨n, m, rfl⟩ := k
  refine h.trans ⟨fun q hq => ?_⟩
  show tabFind (tabPut _ _ _) q = _
  rw [tabFind_tabPut, if_neg (hq _ (List.mem_map_of_mem (m (by simp))) i j)]

/-! Each field at its place. -/

theorem Has.CORE_CUR_OP {F} (w : [0] ⊆ F := by exact subTrans (by assumption) (by decide)) : Has F Reg.CORE.CUR_OP := ⟨0, w, rfl⟩
theorem Has.CORE_TGT_OP {F} (w : [1] ⊆ F := by exact subTrans (by assumption) (by decide)) : Has F Reg.CORE.TGT_OP := ⟨1, w, rfl⟩
theorem Has.CORE_IN_TRANSITION {F} (w : [2] ⊆ F := by exact subTrans (by assumption) (by decide)) : Has F Reg.CORE.IN_TRANSITION := ⟨2, w, rfl⟩
theorem Has.CORE_V_BASE {F} (w : [6] ⊆ F := by exact subTrans (by assumption) (by decide)) : Has F Reg.CORE.V_BASE := ⟨6, w, rfl⟩
theorem Has.CORE_TRIM {F} (w : [7] ⊆ F := by exact subTrans (by assumption) (by decide)) : Has F Reg.CORE.TRIM := ⟨7, w, rfl⟩
theorem Has.CORE_V_SET {F} (w : [8] ⊆ F := by exact subTrans (by assumption) (by decide)) : Has F Reg.CORE.V_SET := ⟨8, w, rfl⟩
theorem Has.CORE_V_MEAS {F} (w : [9] ⊆ F := by exact subTrans (by assumption) (by decide)) : Has F Reg.CORE.V_MEAS := ⟨9, w, rfl⟩
theorem Has.CORE_HOURS {F} (w : [10] ⊆ F := by exact subTrans (by assumption) (by decide)) : Has F Reg.CORE.HOURS := ⟨10, w, rfl⟩
theorem Has.CORE_LOOP_EN {F} (w : [12] ⊆ F := by exact subTrans (by assumption) (by decide)) : Has F Reg.CORE.LOOP_EN := ⟨12, w, rfl⟩
theorem Has.CORE_FLOOR_MISS {F} (w : [15] ⊆ F := by exact subTrans (by assumption) (by decide)) : Has F Reg.CORE.FLOOR_MISS := ⟨15, w, rfl⟩
theorem Has.CORE_TRIM_LIMIT_HIT {F} (w : [16] ⊆ F := by exact subTrans (by assumption) (by decide)) : Has F Reg.CORE.TRIM_LIMIT_HIT := ⟨16, w, rfl⟩
theorem Has.CORE_MISS_WINDOWS {F} (w : [17] ⊆ F := by exact subTrans (by assumption) (by decide)) : Has F Reg.CORE.MISS_WINDOWS := ⟨17, w, rfl⟩
theorem Has.CORE_DROOP_EVENTS {F} (w : [21] ⊆ F := by exact subTrans (by assumption) (by decide)) : Has F Reg.CORE.DROOP_EVENTS := ⟨21, w, rfl⟩
theorem Has.CORE_BG_STARVED_EVENTS {F} (w : [23] ⊆ F := by exact subTrans (by assumption) (by decide)) : Has F Reg.CORE.BG_STARVED_EVENTS := ⟨23, w, rfl⟩
theorem Has.CORE_MIN_COUNT {F} (w : [24] ⊆ F := by exact subTrans (by assumption) (by decide)) : Has F Reg.CORE.MIN_COUNT := ⟨24, w, rfl⟩
theorem Has.CORE_MIN_INDEX {F} (w : [25] ⊆ F := by exact subTrans (by assumption) (by decide)) : Has F Reg.CORE.MIN_INDEX := ⟨25, w, rfl⟩
theorem Has.CORE_TRM_COUNT {F} (w : [29] ⊆ F := by exact subTrans (by assumption) (by decide)) : Has F Reg.CORE.TRM_COUNT := ⟨29, w, rfl⟩
theorem Has.CORE_TRM_REPLICA {F} (w : [30] ⊆ F := by exact subTrans (by assumption) (by decide)) : Has F Reg.CORE.TRM_REPLICA := ⟨30, w, rfl⟩
theorem Has.CORE_TRM_LCORE {F} (w : [31] ⊆ F := by exact subTrans (by assumption) (by decide)) : Has F Reg.CORE.TRM_LCORE := ⟨31, w, rfl⟩
theorem Has.CORE_SKIPPED {F} (w : [32] ⊆ F := by exact subTrans (by assumption) (by decide)) : Has F Reg.CORE.SKIPPED := ⟨32, w, rfl⟩
theorem Has.CORE_TRM_LOW {F} (w : [33] ⊆ F := by exact subTrans (by assumption) (by decide)) : Has F Reg.CORE.TRM_LOW := ⟨33, w, rfl⟩
theorem Has.IMG_ACTIVITY {F} (w : [256] ⊆ F := by exact subTrans (by assumption) (by decide)) : Has F Reg.IMG.ACTIVITY := ⟨256, w, rfl⟩
theorem Has.IMG_RUN_SRC {F} (w : [257] ⊆ F := by exact subTrans (by assumption) (by decide)) : Has F Reg.IMG.RUN_SRC := ⟨257, w, rfl⟩
theorem Has.IMG_READY {F} (w : [258] ⊆ F := by exact subTrans (by assumption) (by decide)) : Has F Reg.IMG.READY := ⟨258, w, rfl⟩
theorem Has.IMG_SWAP_ENABLED {F} (w : [259] ⊆ F := by exact subTrans (by assumption) (by decide)) : Has F Reg.IMG.SWAP_ENABLED := ⟨259, w, rfl⟩
theorem Has.IMG_EPOCH {F} (w : [260] ⊆ F := by exact subTrans (by assumption) (by decide)) : Has F Reg.IMG.EPOCH := ⟨260, w, rfl⟩
theorem Has.IMG_RETIRING {F} (w : [261] ⊆ F := by exact subTrans (by assumption) (by decide)) : Has F Reg.IMG.RETIRING := ⟨261, w, rfl⟩
theorem Has.IMG_RETIRE_OVERDUE {F} (w : [262] ⊆ F := by exact subTrans (by assumption) (by decide)) : Has F Reg.IMG.RETIRE_OVERDUE := ⟨262, w, rfl⟩
theorem Has.IMG_RESULT {F} (w : [265] ⊆ F := by exact subTrans (by assumption) (by decide)) : Has F Reg.IMG.RESULT := ⟨265, w, rfl⟩
theorem Has.IMG_FAIL_SECTION {F} (w : [266] ⊆ F := by exact subTrans (by assumption) (by decide)) : Has F Reg.IMG.FAIL_SECTION := ⟨266, w, rfl⟩
theorem Has.IMG_LAST_OPCODE {F} (w : [267] ⊆ F := by exact subTrans (by assumption) (by decide)) : Has F Reg.IMG.LAST_OPCODE := ⟨267, w, rfl⟩
theorem Has.IMG_CMD_DONE {F} (w : [268] ⊆ F := by exact subTrans (by assumption) (by decide)) : Has F Reg.IMG.CMD_DONE := ⟨268, w, rfl⟩
theorem Has.IMG_RETIRED {F} (w : [269] ⊆ F := by exact subTrans (by assumption) (by decide)) : Has F Reg.IMG.RETIRED := ⟨269, w, rfl⟩
theorem Has.IMG_DETAIL {F} (w : [270] ⊆ F := by exact subTrans (by assumption) (by decide)) : Has F Reg.IMG.DETAIL := ⟨270, w, rfl⟩
theorem Has.IMG_BOOT_PREF {F} (w : [273] ⊆ F := by exact subTrans (by assumption) (by decide)) : Has F Reg.IMG.BOOT_PREF := ⟨273, w, rfl⟩
theorem Has.IMG_A_VALID {F} (w : [274] ⊆ F := by exact subTrans (by assumption) (by decide)) : Has F Reg.IMG.A_VALID := ⟨274, w, rfl⟩
theorem Has.IMG_B_VALID {F} (w : [275] ⊆ F := by exact subTrans (by assumption) (by decide)) : Has F Reg.IMG.B_VALID := ⟨275, w, rfl⟩
theorem Has.IMG_A_SEQUENCE {F} (w : [276] ⊆ F := by exact subTrans (by assumption) (by decide)) : Has F Reg.IMG.A_SEQUENCE := ⟨276, w, rfl⟩
theorem Has.IMG_B_SEQUENCE {F} (w : [277] ⊆ F := by exact subTrans (by assumption) (by decide)) : Has F Reg.IMG.B_SEQUENCE := ⟨277, w, rfl⟩
theorem Has.IMG_IMAGE_ID {F} (w : [278] ⊆ F := by exact subTrans (by assumption) (by decide)) : Has F Reg.IMG.IMAGE_ID := ⟨278, w, rfl⟩
theorem Has.IMG_SECVER {F} (w : [279] ⊆ F := by exact subTrans (by assumption) (by decide)) : Has F Reg.IMG.SECVER := ⟨279, w, rfl⟩
theorem Has.IMG_DIGEST {F} (w : [280] ⊆ F := by exact subTrans (by assumption) (by decide)) : Has F Reg.IMG.DIGEST := ⟨280, w, rfl⟩
theorem Has.IMG_INFLIGHT {F} (w : [283] ⊆ F := by exact subTrans (by assumption) (by decide)) : Has F Reg.IMG.INFLIGHT := ⟨283, w, rfl⟩
theorem Has.IMG_RETIRE_DISCARDS {F} (w : [286] ⊆ F := by exact subTrans (by assumption) (by decide)) : Has F Reg.IMG.RETIRE_DISCARDS := ⟨286, w, rfl⟩
theorem Has.IMG_LOAD_DISCARDS {F} (w : [287] ⊆ F := by exact subTrans (by assumption) (by decide)) : Has F Reg.IMG.LOAD_DISCARDS := ⟨287, w, rfl⟩
theorem Has.LANE_SIGNAL_DETECT {F} (w : [516] ⊆ F := by exact subTrans (by assumption) (by decide)) : Has F Reg.LANE.SIGNAL_DETECT := ⟨516, w, rfl⟩
theorem Has.LANE_CDR_LOCK {F} (w : [517] ⊆ F := by exact subTrans (by assumption) (by decide)) : Has F Reg.LANE.CDR_LOCK := ⟨517, w, rfl⟩
theorem Has.LANE_ADAPT_CONVERGED {F} (w : [518] ⊆ F := by exact subTrans (by assumption) (by decide)) : Has F Reg.LANE.ADAPT_CONVERGED := ⟨518, w, rfl⟩
theorem Has.LANE_FFE_REJECT {F} (w : [519] ⊆ F := by exact subTrans (by assumption) (by decide)) : Has F Reg.LANE.FFE_REJECT := ⟨519, w, rfl⟩
theorem Has.LANE_TRAINING_ACTIVE {F} (w : [520] ⊆ F := by exact subTrans (by assumption) (by decide)) : Has F Reg.LANE.TRAINING_ACTIVE := ⟨520, w, rfl⟩
theorem Has.LANE_PRE {F} (w : [521] ⊆ F := by exact subTrans (by assumption) (by decide)) : Has F Reg.LANE.PRE := ⟨521, w, rfl⟩
theorem Has.LANE_MAIN {F} (w : [522] ⊆ F := by exact subTrans (by assumption) (by decide)) : Has F Reg.LANE.MAIN := ⟨522, w, rfl⟩
theorem Has.LANE_POST {F} (w : [523] ⊆ F := by exact subTrans (by assumption) (by decide)) : Has F Reg.LANE.POST := ⟨523, w, rfl⟩
theorem Has.LANE_CTLE_PEAK {F} (w : [524] ⊆ F := by exact subTrans (by assumption) (by decide)) : Has F Reg.LANE.CTLE_PEAK := ⟨524, w, rfl⟩
theorem Has.LANE_DFE_TAP1 {F} (w : [525] ⊆ F := by exact subTrans (by assumption) (by decide)) : Has F Reg.LANE.DFE_TAP1 := ⟨525, w, rfl⟩
theorem Has.LANE_RX_FFE_PRE {F} (w : [526] ⊆ F := by exact subTrans (by assumption) (by decide)) : Has F Reg.LANE.RX_FFE_PRE := ⟨526, w, rfl⟩
theorem Has.LANE_SNR {F} (w : [527] ⊆ F := by exact subTrans (by assumption) (by decide)) : Has F Reg.LANE.SNR := ⟨527, w, rfl⟩
theorem Has.LANE_CHK_LOCK {F} (w : [540] ⊆ F := by exact subTrans (by assumption) (by decide)) : Has F Reg.LANE.CHK_LOCK := ⟨540, w, rfl⟩
theorem Has.LANE_LOCK_LOST {F} (w : [541] ⊆ F := by exact subTrans (by assumption) (by decide)) : Has F Reg.LANE.LOCK_LOST := ⟨541, w, rfl⟩
theorem Has.LANE_BIT_ERRORS {F} (w : [542] ⊆ F := by exact subTrans (by assumption) (by decide)) : Has F Reg.LANE.BIT_ERRORS := ⟨542, w, rfl⟩
theorem Has.LANE_SYM_ERRORS {F} (w : [543] ⊆ F := by exact subTrans (by assumption) (by decide)) : Has F Reg.LANE.SYM_ERRORS := ⟨543, w, rfl⟩
theorem Has.LANE_BITS_CHECKED {F} (w : [544] ⊆ F := by exact subTrans (by assumption) (by decide)) : Has F Reg.LANE.BITS_CHECKED := ⟨544, w, rfl⟩
theorem Has.PORT_ADMIN_UP {F} (w : [768] ⊆ F := by exact subTrans (by assumption) (by decide)) : Has F Reg.PORT.ADMIN_UP := ⟨768, w, rfl⟩
theorem Has.PORT_AN_EN {F} (w : [769] ⊆ F := by exact subTrans (by assumption) (by decide)) : Has F Reg.PORT.AN_EN := ⟨769, w, rfl⟩
theorem Has.PORT_LT_EN {F} (w : [770] ⊆ F := by exact subTrans (by assumption) (by decide)) : Has F Reg.PORT.LT_EN := ⟨770, w, rfl⟩
theorem Has.PORT_TEST_MODE {F} (w : [771] ⊆ F := by exact subTrans (by assumption) (by decide)) : Has F Reg.PORT.TEST_MODE := ⟨771, w, rfl⟩
theorem Has.PORT_LINK_STATE {F} (w : [775] ⊆ F := by exact subTrans (by assumption) (by decide)) : Has F Reg.PORT.LINK_STATE := ⟨775, w, rfl⟩
theorem Has.PORT_LINK_UP {F} (w : [776] ⊆ F := by exact subTrans (by assumption) (by decide)) : Has F Reg.PORT.LINK_UP := ⟨776, w, rfl⟩
theorem Has.PORT_LF_RX {F} (w : [777] ⊆ F := by exact subTrans (by assumption) (by decide)) : Has F Reg.PORT.LF_RX := ⟨777, w, rfl⟩
theorem Has.PORT_RF_RX {F} (w : [778] ⊆ F := by exact subTrans (by assumption) (by decide)) : Has F Reg.PORT.RF_RX := ⟨778, w, rfl⟩
theorem Has.PORT_HI_SER {F} (w : [779] ⊆ F := by exact subTrans (by assumption) (by decide)) : Has F Reg.PORT.HI_SER := ⟨779, w, rfl⟩
theorem Has.PORT_DESKEW_OK {F} (w : [780] ⊆ F := by exact subTrans (by assumption) (by decide)) : Has F Reg.PORT.DESKEW_OK := ⟨780, w, rfl⟩
theorem Has.PORT_AM_LOCKED {F} (w : [781] ⊆ F := by exact subTrans (by assumption) (by decide)) : Has F Reg.PORT.AM_LOCKED := ⟨781, w, rfl⟩
theorem Has.PORT_PCS_LANES {F} (w : [782] ⊆ F := by exact subTrans (by assumption) (by decide)) : Has F Reg.PORT.PCS_LANES := ⟨782, w, rfl⟩
theorem Has.PORT_LP_PAUSE {F} (w : [783] ⊆ F := by exact subTrans (by assumption) (by decide)) : Has F Reg.PORT.LP_PAUSE := ⟨783, w, rfl⟩
theorem Has.PORT_AN_DONE {F} (w : [784] ⊆ F := by exact subTrans (by assumption) (by decide)) : Has F Reg.PORT.AN_DONE := ⟨784, w, rfl⟩
theorem Has.PORT_TRAIN_DONE {F} (w : [785] ⊆ F := by exact subTrans (by assumption) (by decide)) : Has F Reg.PORT.TRAIN_DONE := ⟨785, w, rfl⟩
theorem Has.PORT_EV_LINK_UP_EVT {F} (w : [786] ⊆ F := by exact subTrans (by assumption) (by decide)) : Has F Reg.PORT.EV_LINK_UP_EVT := ⟨786, w, rfl⟩
theorem Has.PORT_EV_LINK_DOWN_EVT {F} (w : [788] ⊆ F := by exact subTrans (by assumption) (by decide)) : Has F Reg.PORT.EV_LINK_DOWN_EVT := ⟨788, w, rfl⟩
theorem Has.PORT_EV_AN_FAIL {F} (w : [790] ⊆ F := by exact subTrans (by assumption) (by decide)) : Has F Reg.PORT.EV_AN_FAIL := ⟨790, w, rfl⟩
theorem Has.PORT_EV_TRAIN_FAIL {F} (w : [792] ⊆ F := by exact subTrans (by assumption) (by decide)) : Has F Reg.PORT.EV_TRAIN_FAIL := ⟨792, w, rfl⟩
theorem Has.PORT_EV_ALIGN_TIMEOUT_EVT {F} (w : [794] ⊆ F := by exact subTrans (by assumption) (by decide)) : Has F Reg.PORT.EV_ALIGN_TIMEOUT_EVT := ⟨794, w, rfl⟩
theorem Has.PORT_EV_STORM_ENTER {F} (w : [796] ⊆ F := by exact subTrans (by assumption) (by decide)) : Has F Reg.PORT.EV_STORM_ENTER := ⟨796, w, rfl⟩
theorem Has.PORT_EV_STORM_EXIT {F} (w : [798] ⊆ F := by exact subTrans (by assumption) (by decide)) : Has F Reg.PORT.EV_STORM_EXIT := ⟨798, w, rfl⟩
theorem Has.PORT_EV_HI_SER_EVT {F} (w : [800] ⊆ F := by exact subTrans (by assumption) (by decide)) : Has F Reg.PORT.EV_HI_SER_EVT := ⟨800, w, rfl⟩
theorem Has.PORT_FC_MODE {F} (w : [805] ⊆ F := by exact subTrans (by assumption) (by decide)) : Has F Reg.PORT.FC_MODE := ⟨805, w, rfl⟩
theorem Has.PORT_STORM_ACTIVE {F} (w : [812] ⊆ F := by exact subTrans (by assumption) (by decide)) : Has F Reg.PORT.STORM_ACTIVE := ⟨812, w, rfl⟩
theorem Has.PORT_FCS_ERR {F} (w : [816] ⊆ F := by exact subTrans (by assumption) (by decide)) : Has F Reg.PORT.FCS_ERR := ⟨816, w, rfl⟩
theorem Has.PORT_RUNT {F} (w : [817] ⊆ F := by exact subTrans (by assumption) (by decide)) : Has F Reg.PORT.RUNT := ⟨817, w, rfl⟩
theorem Has.PORT_OVERSIZE {F} (w : [818] ⊆ F := by exact subTrans (by assumption) (by decide)) : Has F Reg.PORT.OVERSIZE := ⟨818, w, rfl⟩
theorem Has.PORT_RX_ERRORS {F} (w : [819] ⊆ F := by exact subTrans (by assumption) (by decide)) : Has F Reg.PORT.RX_ERRORS := ⟨819, w, rfl⟩
theorem Has.PORT_MAC_CTRL_OTHER {F} (w : [820] ⊆ F := by exact subTrans (by assumption) (by decide)) : Has F Reg.PORT.MAC_CTRL_OTHER := ⟨820, w, rfl⟩
theorem Has.PORT_PAUSE_IGNORED {F} (w : [821] ⊆ F := by exact subTrans (by assumption) (by decide)) : Has F Reg.PORT.PAUSE_IGNORED := ⟨821, w, rfl⟩
theorem Has.PORT_TX_UNDERRUN {F} (w : [822] ⊆ F := by exact subTrans (by assumption) (by decide)) : Has F Reg.PORT.TX_UNDERRUN := ⟨822, w, rfl⟩
theorem Has.PORT_LINK_FLAPS {F} (w : [823] ⊆ F := by exact subTrans (by assumption) (by decide)) : Has F Reg.PORT.LINK_FLAPS := ⟨823, w, rfl⟩
theorem Has.PORT_PAUSE_RX {F} (w : [824] ⊆ F := by exact subTrans (by assumption) (by decide)) : Has F Reg.PORT.PAUSE_RX := ⟨824, w, rfl⟩
theorem Has.PORT_PAUSE_TX {F} (w : [825] ⊆ F := by exact subTrans (by assumption) (by decide)) : Has F Reg.PORT.PAUSE_TX := ⟨825, w, rfl⟩
theorem Has.PORT_XON_RX {F} (w : [826] ⊆ F := by exact subTrans (by assumption) (by decide)) : Has F Reg.PORT.XON_RX := ⟨826, w, rfl⟩
theorem Has.PORT_XON_TX {F} (w : [827] ⊆ F := by exact subTrans (by assumption) (by decide)) : Has F Reg.PORT.XON_TX := ⟨827, w, rfl⟩
theorem Has.PORT_PFC_RX_XOFF {F} (w : [828] ⊆ F := by exact subTrans (by assumption) (by decide)) : Has F Reg.PORT.PFC_RX_XOFF := ⟨828, w, rfl⟩
theorem Has.PORT_PFC_TX_XOFF {F} (w : [829] ⊆ F := by exact subTrans (by assumption) (by decide)) : Has F Reg.PORT.PFC_TX_XOFF := ⟨829, w, rfl⟩
theorem Has.PORT_STORM_DISCARDS {F} (w : [830] ⊆ F := by exact subTrans (by assumption) (by decide)) : Has F Reg.PORT.STORM_DISCARDS := ⟨830, w, rfl⟩
theorem Has.PORT_CW_TOTAL {F} (w : [831] ⊆ F := by exact subTrans (by assumption) (by decide)) : Has F Reg.PORT.CW_TOTAL := ⟨831, w, rfl⟩
theorem Has.PORT_CW_CORR {F} (w : [832] ⊆ F := by exact subTrans (by assumption) (by decide)) : Has F Reg.PORT.CW_CORR := ⟨832, w, rfl⟩
theorem Has.PORT_CW_UNCORR {F} (w : [833] ⊆ F := by exact subTrans (by assumption) (by decide)) : Has F Reg.PORT.CW_UNCORR := ⟨833, w, rfl⟩
theorem Has.PORT_SYM_CORR {F} (w : [834] ⊆ F := by exact subTrans (by assumption) (by decide)) : Has F Reg.PORT.SYM_CORR := ⟨834, w, rfl⟩
theorem Has.PORT_FEC_BIN {F} (w : [835] ⊆ F := by exact subTrans (by assumption) (by decide)) : Has F Reg.PORT.FEC_BIN := ⟨835, w, rfl⟩
theorem Has.PARSE_GRAPH {F} (w : [1024] ⊆ F := by exact subTrans (by assumption) (by decide)) : Has F Reg.PARSE.GRAPH := ⟨1024, w, rfl⟩
theorem Has.PARSE_START_STATE {F} (w : [1025] ⊆ F := by exact subTrans (by assumption) (by decide)) : Has F Reg.PARSE.START_STATE := ⟨1025, w, rfl⟩
theorem Has.PARSE_CAUSE_ACTION {F} (w : [1026] ⊆ F := by exact subTrans (by assumption) (by decide)) : Has F Reg.PARSE.CAUSE_ACTION := ⟨1026, w, rfl⟩
theorem Has.PARSE_MALF_RING {F} (w : [1027] ⊆ F := by exact subTrans (by assumption) (by decide)) : Has F Reg.PARSE.MALF_RING := ⟨1027, w, rfl⟩
theorem Has.PARSE_SP_ENABLE {F} (w : [1028] ⊆ F := by exact subTrans (by assumption) (by decide)) : Has F Reg.PARSE.SP_ENABLE := ⟨1028, w, rfl⟩
theorem Has.PARSE_SP_RING1 {F} (w : [1029] ⊆ F := by exact subTrans (by assumption) (by decide)) : Has F Reg.PARSE.SP_RING1 := ⟨1029, w, rfl⟩
theorem Has.PARSE_SP_RING2 {F} (w : [1030] ⊆ F := by exact subTrans (by assumption) (by decide)) : Has F Reg.PARSE.SP_RING2 := ⟨1030, w, rfl⟩
theorem Has.PARSE_SP_RING3 {F} (w : [1031] ⊆ F := by exact subTrans (by assumption) (by decide)) : Has F Reg.PARSE.SP_RING3 := ⟨1031, w, rfl⟩
theorem Has.PARSE_SP_RING4 {F} (w : [1032] ⊆ F := by exact subTrans (by assumption) (by decide)) : Has F Reg.PARSE.SP_RING4 := ⟨1032, w, rfl⟩
theorem Has.PARSE_SP_RING5 {F} (w : [1033] ⊆ F := by exact subTrans (by assumption) (by decide)) : Has F Reg.PARSE.SP_RING5 := ⟨1033, w, rfl⟩
theorem Has.PARSE_SP_RING6 {F} (w : [1034] ⊆ F := by exact subTrans (by assumption) (by decide)) : Has F Reg.PARSE.SP_RING6 := ⟨1034, w, rfl⟩
theorem Has.PARSE_MIRROR_QUEUE {F} (w : [1035] ⊆ F := by exact subTrans (by assumption) (by decide)) : Has F Reg.PARSE.MIRROR_QUEUE := ⟨1035, w, rfl⟩
theorem Has.PARSE_RUNT_MIN {F} (w : [1036] ⊆ F := by exact subTrans (by assumption) (by decide)) : Has F Reg.PARSE.RUNT_MIN := ⟨1036, w, rfl⟩
theorem Has.PARSE_PASSES {F} (w : [1037] ⊆ F := by exact subTrans (by assumption) (by decide)) : Has F Reg.PARSE.PASSES := ⟨1037, w, rfl⟩
theorem Has.PARSE_LM_CAUSE {F} (w : [1038] ⊆ F := by exact subTrans (by assumption) (by decide)) : Has F Reg.PARSE.LM_CAUSE := ⟨1038, w, rfl⟩
theorem Has.PARSE_LM_STATE {F} (w : [1039] ⊆ F := by exact subTrans (by assumption) (by decide)) : Has F Reg.PARSE.LM_STATE := ⟨1039, w, rfl⟩
theorem Has.PARSE_LM_CURSOR {F} (w : [1040] ⊆ F := by exact subTrans (by assumption) (by decide)) : Has F Reg.PARSE.LM_CURSOR := ⟨1040, w, rfl⟩
theorem Has.PARSE_LM_VALID {F} (w : [1041] ⊆ F := by exact subTrans (by assumption) (by decide)) : Has F Reg.PARSE.LM_VALID := ⟨1041, w, rfl⟩
theorem Has.PARSE_MALF_COUNT {F} (w : [1042] ⊆ F := by exact subTrans (by assumption) (by decide)) : Has F Reg.PARSE.MALF_COUNT := ⟨1042, w, rfl⟩
theorem Has.PARSE_LATE_SHORT {F} (w : [1043] ⊆ F := by exact subTrans (by assumption) (by decide)) : Has F Reg.PARSE.LATE_SHORT := ⟨1043, w, rfl⟩
theorem Has.PARSE_SP_COUNT {F} (w : [1044] ⊆ F := by exact subTrans (by assumption) (by decide)) : Has F Reg.PARSE.SP_COUNT := ⟨1044, w, rfl⟩
theorem Has.PARSE_SP_POLICED {F} (w : [1045] ⊆ F := by exact subTrans (by assumption) (by decide)) : Has F Reg.PARSE.SP_POLICED := ⟨1045, w, rfl⟩
theorem Has.PARSE_POL_RATE {F} (w : [1046] ⊆ F := by exact subTrans (by assumption) (by decide)) : Has F Reg.PARSE.POL_RATE := ⟨1046, w, rfl⟩
theorem Has.PARSE_POL_BURST {F} (w : [1047] ⊆ F := by exact subTrans (by assumption) (by decide)) : Has F Reg.PARSE.POL_BURST := ⟨1047, w, rfl⟩
theorem Has.FIL_SPLIT {F} (w : [1280] ⊆ F := by exact subTrans (by assumption) (by decide)) : Has F Reg.FIL.SPLIT := ⟨1280, w, rfl⟩
theorem Has.FIL_SET_COUNT {F} (w : [1281] ⊆ F := by exact subTrans (by assumption) (by decide)) : Has F Reg.FIL.SET_COUNT := ⟨1281, w, rfl⟩
theorem Has.FIL_NODE_BASE {F} (w : [1282] ⊆ F := by exact subTrans (by assumption) (by decide)) : Has F Reg.FIL.NODE_BASE := ⟨1282, w, rfl⟩
theorem Has.FIL_KEY_BITS {F} (w : [1283] ⊆ F := by exact subTrans (by assumption) (by decide)) : Has F Reg.FIL.KEY_BITS := ⟨1283, w, rfl⟩
theorem Has.FIL_RULE_COUNT {F} (w : [1284] ⊆ F := by exact subTrans (by assumption) (by decide)) : Has F Reg.FIL.RULE_COUNT := ⟨1284, w, rfl⟩
theorem Has.FIL_ROOT {F} (w : [1285] ⊆ F := by exact subTrans (by assumption) (by decide)) : Has F Reg.FIL.ROOT := ⟨1285, w, rfl⟩
theorem Has.FIL_LOOKUPS {F} (w : [1286] ⊆ F := by exact subTrans (by assumption) (by decide)) : Has F Reg.FIL.LOOKUPS := ⟨1286, w, rfl⟩
theorem Has.FIL_HITS {F} (w : [1287] ⊆ F := by exact subTrans (by assumption) (by decide)) : Has F Reg.FIL.HITS := ⟨1287, w, rfl⟩
theorem Has.FIL_ERRORS {F} (w : [1288] ⊆ F := by exact subTrans (by assumption) (by decide)) : Has F Reg.FIL.ERRORS := ⟨1288, w, rfl⟩
theorem Has.EM_TABLE_COUNT {F} (w : [1536] ⊆ F := by exact subTrans (by assumption) (by decide)) : Has F Reg.EM.TABLE_COUNT := ⟨1536, w, rfl⟩
theorem Has.EM_ECC_CORR {F} (w : [1538] ⊆ F := by exact subTrans (by assumption) (by decide)) : Has F Reg.EM.ECC_CORR := ⟨1538, w, rfl⟩
theorem Has.EM_CMD_CODE {F} (w : [1541] ⊆ F := by exact subTrans (by assumption) (by decide)) : Has F Reg.EM.CMD_CODE := ⟨1541, w, rfl⟩
theorem Has.EM_CMD_DONE {F} (w : [1543] ⊆ F := by exact subTrans (by assumption) (by decide)) : Has F Reg.EM.CMD_DONE := ⟨1543, w, rfl⟩
theorem Has.EM_CMD_CMD_OVERRUN {F} (w : [1544] ⊆ F := by exact subTrans (by assumption) (by decide)) : Has F Reg.EM.CMD_CMD_OVERRUN := ⟨1544, w, rfl⟩
theorem Has.EM_CMD_LOCATION {F} (w : [1545] ⊆ F := by exact subTrans (by assumption) (by decide)) : Has F Reg.EM.CMD_LOCATION := ⟨1545, w, rfl⟩
theorem Has.EM_CMD_IN_STASH {F} (w : [1546] ⊆ F := by exact subTrans (by assumption) (by decide)) : Has F Reg.EM.CMD_IN_STASH := ⟨1546, w, rfl⟩
theorem Has.EM_CMD_RESULT {F} (w : [1548] ⊆ F := by exact subTrans (by assumption) (by decide)) : Has F Reg.EM.CMD_RESULT := ⟨1548, w, rfl⟩
theorem Has.EM_CMD_FLAGS {F} (w : [1549] ⊆ F := by exact subTrans (by assumption) (by decide)) : Has F Reg.EM.CMD_FLAGS := ⟨1549, w, rfl⟩
theorem Has.EM_T_AGE_PERIOD {F} (w : [1552] ⊆ F := by exact subTrans (by assumption) (by decide)) : Has F Reg.EM.T_AGE_PERIOD := ⟨1552, w, rfl⟩
theorem Has.EM_T_LEARN_RATE {F} (w : [1553] ⊆ F := by exact subTrans (by assumption) (by decide)) : Has F Reg.EM.T_LEARN_RATE := ⟨1553, w, rfl⟩
theorem Has.EM_T_LEARN_BURST {F} (w : [1554] ⊆ F := by exact subTrans (by assumption) (by decide)) : Has F Reg.EM.T_LEARN_BURST := ⟨1554, w, rfl⟩
theorem Has.EM_T_LOOKUPS {F} (w : [1555] ⊆ F := by exact subTrans (by assumption) (by decide)) : Has F Reg.EM.T_LOOKUPS := ⟨1555, w, rfl⟩
theorem Has.EM_T_HITS {F} (w : [1556] ⊆ F := by exact subTrans (by assumption) (by decide)) : Has F Reg.EM.T_HITS := ⟨1556, w, rfl⟩
theorem Has.EM_T_LEARNS {F} (w : [1557] ⊆ F := by exact subTrans (by assumption) (by decide)) : Has F Reg.EM.T_LEARNS := ⟨1557, w, rfl⟩
theorem Has.EM_T_LEARN_DROP {F} (w : [1558] ⊆ F := by exact subTrans (by assumption) (by decide)) : Has F Reg.EM.T_LEARN_DROP := ⟨1558, w, rfl⟩
theorem Has.EM_T_LEARN_FAIL {F} (w : [1559] ⊆ F := by exact subTrans (by assumption) (by decide)) : Has F Reg.EM.T_LEARN_FAIL := ⟨1559, w, rfl⟩
theorem Has.EM_T_AGED {F} (w : [1560] ⊆ F := by exact subTrans (by assumption) (by decide)) : Has F Reg.EM.T_AGED := ⟨1560, w, rfl⟩
theorem Has.EM_T_AGE_SKIPPED {F} (w : [1561] ⊆ F := by exact subTrans (by assumption) (by decide)) : Has F Reg.EM.T_AGE_SKIPPED := ⟨1561, w, rfl⟩
theorem Has.EM_T_NOTICE_LOST {F} (w : [1562] ⊆ F := by exact subTrans (by assumption) (by decide)) : Has F Reg.EM.T_NOTICE_LOST := ⟨1562, w, rfl⟩
theorem Has.EM_T_DUPLICATES {F} (w : [1563] ⊆ F := by exact subTrans (by assumption) (by decide)) : Has F Reg.EM.T_DUPLICATES := ⟨1563, w, rfl⟩
theorem Has.EM_T_ERRORS {F} (w : [1564] ⊆ F := by exact subTrans (by assumption) (by decide)) : Has F Reg.EM.T_ERRORS := ⟨1564, w, rfl⟩
theorem Has.EM_REQ {F} (w : [1565] ⊆ F := by exact subTrans (by assumption) (by decide)) : Has F Reg.EM.REQ := ⟨1565, w, rfl⟩
theorem Has.EM_HELD {F} (w : [1566] ⊆ F := by exact subTrans (by assumption) (by decide)) : Has F Reg.EM.HELD := ⟨1566, w, rfl⟩
theorem Has.ASE_PART_COUNT {F} (w : [1792] ⊆ F := by exact subTrans (by assumption) (by decide)) : Has F Reg.ASE.PART_COUNT := ⟨1792, w, rfl⟩
theorem Has.ASE_SRAM_CORR {F} (w : [1794] ⊆ F := by exact subTrans (by assumption) (by decide)) : Has F Reg.ASE.SRAM_CORR := ⟨1794, w, rfl⟩
theorem Has.ASE_PL_BANK {F} (w : [1795] ⊆ F := by exact subTrans (by assumption) (by decide)) : Has F Reg.ASE.PL_BANK := ⟨1795, w, rfl⟩
theorem Has.ASE_PL_INDEX {F} (w : [1796] ⊆ F := by exact subTrans (by assumption) (by decide)) : Has F Reg.ASE.PL_INDEX := ⟨1796, w, rfl⟩
theorem Has.ASE_PL_REPAIRED {F} (w : [1797] ⊆ F := by exact subTrans (by assumption) (by decide)) : Has F Reg.ASE.PL_REPAIRED := ⟨1797, w, rfl⟩
theorem Has.ASE_PL_BY_SEARCH {F} (w : [1798] ⊆ F := by exact subTrans (by assumption) (by decide)) : Has F Reg.ASE.PL_BY_SEARCH := ⟨1798, w, rfl⟩
theorem Has.ASE_PL_VALID {F} (w : [1799] ⊆ F := by exact subTrans (by assumption) (by decide)) : Has F Reg.ASE.PL_VALID := ⟨1799, w, rfl⟩
theorem Has.ASE_CMD_CODE {F} (w : [1805] ⊆ F := by exact subTrans (by assumption) (by decide)) : Has F Reg.ASE.CMD_CODE := ⟨1805, w, rfl⟩
theorem Has.ASE_CMD_DONE {F} (w : [1807] ⊆ F := by exact subTrans (by assumption) (by decide)) : Has F Reg.ASE.CMD_DONE := ⟨1807, w, rfl⟩
theorem Has.ASE_CMD_MULTI {F} (w : [1809] ⊆ F := by exact subTrans (by assumption) (by decide)) : Has F Reg.ASE.CMD_MULTI := ⟨1809, w, rfl⟩
theorem Has.ASE_CMD_MOVES {F} (w : [1810] ⊆ F := by exact subTrans (by assumption) (by decide)) : Has F Reg.ASE.CMD_MOVES := ⟨1810, w, rfl⟩
theorem Has.ASE_OP_KEY {F} (w : [1811] ⊆ F := by exact subTrans (by assumption) (by decide)) : Has F Reg.ASE.OP_KEY := ⟨1811, w, rfl⟩
theorem Has.ASE_OP_MASK {F} (w : [1812] ⊆ F := by exact subTrans (by assumption) (by decide)) : Has F Reg.ASE.OP_MASK := ⟨1812, w, rfl⟩
theorem Has.ASE_OP_PRIORITY {F} (w : [1813] ⊆ F := by exact subTrans (by assumption) (by decide)) : Has F Reg.ASE.OP_PRIORITY := ⟨1813, w, rfl⟩
theorem Has.ASE_OP_USER {F} (w : [1814] ⊆ F := by exact subTrans (by assumption) (by decide)) : Has F Reg.ASE.OP_USER := ⟨1814, w, rfl⟩
theorem Has.ASE_OP_RESULT {F} (w : [1815] ⊆ F := by exact subTrans (by assumption) (by decide)) : Has F Reg.ASE.OP_RESULT := ⟨1815, w, rfl⟩
theorem Has.ASE_F_BANK {F} (w : [1816] ⊆ F := by exact subTrans (by assumption) (by decide)) : Has F Reg.ASE.F_BANK := ⟨1816, w, rfl⟩
theorem Has.ASE_F_INDEX {F} (w : [1817] ⊆ F := by exact subTrans (by assumption) (by decide)) : Has F Reg.ASE.F_INDEX := ⟨1817, w, rfl⟩
theorem Has.ASE_F_SHADOW {F} (w : [1818] ⊆ F := by exact subTrans (by assumption) (by decide)) : Has F Reg.ASE.F_SHADOW := ⟨1818, w, rfl⟩
theorem Has.ASE_F_FOUND {F} (w : [1819] ⊆ F := by exact subTrans (by assumption) (by decide)) : Has F Reg.ASE.F_FOUND := ⟨1819, w, rfl⟩
theorem Has.ASE_P_BANK_BASE {F} (w : [1821] ⊆ F := by exact subTrans (by assumption) (by decide)) : Has F Reg.ASE.P_BANK_BASE := ⟨1821, w, rfl⟩
theorem Has.ASE_P_BANK_COUNT {F} (w : [1822] ⊆ F := by exact subTrans (by assumption) (by decide)) : Has F Reg.ASE.P_BANK_COUNT := ⟨1822, w, rfl⟩
theorem Has.ASE_P_WIDE {F} (w : [1823] ⊆ F := by exact subTrans (by assumption) (by decide)) : Has F Reg.ASE.P_WIDE := ⟨1823, w, rfl⟩
theorem Has.ASE_P_GAPPED {F} (w : [1824] ⊆ F := by exact subTrans (by assumption) (by decide)) : Has F Reg.ASE.P_GAPPED := ⟨1824, w, rfl⟩
theorem Has.ASE_P_REPLICAS {F} (w : [1825] ⊆ F := by exact subTrans (by assumption) (by decide)) : Has F Reg.ASE.P_REPLICAS := ⟨1825, w, rfl⟩
theorem Has.ASE_P_GAP {F} (w : [1826] ⊆ F := by exact subTrans (by assumption) (by decide)) : Has F Reg.ASE.P_GAP := ⟨1826, w, rfl⟩
theorem Has.ASE_P_SEL_BITS {F} (w : [1827] ⊆ F := by exact subTrans (by assumption) (by decide)) : Has F Reg.ASE.P_SEL_BITS := ⟨1827, w, rfl⟩
theorem Has.ASE_P_MISS_RESULT {F} (w : [1828] ⊆ F := by exact subTrans (by assumption) (by decide)) : Has F Reg.ASE.P_MISS_RESULT := ⟨1828, w, rfl⟩
theorem Has.ASE_P_SEARCHES {F} (w : [1829] ⊆ F := by exact subTrans (by assumption) (by decide)) : Has F Reg.ASE.P_SEARCHES := ⟨1829, w, rfl⟩
theorem Has.ASE_P_HITS {F} (w : [1830] ⊆ F := by exact subTrans (by assumption) (by decide)) : Has F Reg.ASE.P_HITS := ⟨1830, w, rfl⟩
theorem Has.ASE_P_MULTI_HITS {F} (w : [1831] ⊆ F := by exact subTrans (by assumption) (by decide)) : Has F Reg.ASE.P_MULTI_HITS := ⟨1831, w, rfl⟩
theorem Has.ASE_P_ERRORS {F} (w : [1832] ⊆ F := by exact subTrans (by assumption) (by decide)) : Has F Reg.ASE.P_ERRORS := ⟨1832, w, rfl⟩
theorem Has.ASE_P_MOVES {F} (w : [1833] ⊆ F := by exact subTrans (by assumption) (by decide)) : Has F Reg.ASE.P_MOVES := ⟨1833, w, rfl⟩
theorem Has.ASE_P_OVERLOAD {F} (w : [1834] ⊆ F := by exact subTrans (by assumption) (by decide)) : Has F Reg.ASE.P_OVERLOAD := ⟨1834, w, rfl⟩
theorem Has.ASE_P_PEAK_BANK {F} (w : [1835] ⊆ F := by exact subTrans (by assumption) (by decide)) : Has F Reg.ASE.P_PEAK_BANK := ⟨1835, w, rfl⟩
theorem Has.ASE_P_PEAK_LOAD {F} (w : [1836] ⊆ F := by exact subTrans (by assumption) (by decide)) : Has F Reg.ASE.P_PEAK_LOAD := ⟨1836, w, rfl⟩
theorem Has.ASE_REQ {F} (w : [1837] ⊆ F := by exact subTrans (by assumption) (by decide)) : Has F Reg.ASE.REQ := ⟨1837, w, rfl⟩
theorem Has.ASE_HELD {F} (w : [1838] ⊆ F := by exact subTrans (by assumption) (by decide)) : Has F Reg.ASE.HELD := ⟨1838, w, rfl⟩
theorem Has.MAP_PROFILE_COUNT {F} (w : [2048] ⊆ F := by exact subTrans (by assumption) (by decide)) : Has F Reg.MAP.PROFILE_COUNT := ⟨2048, w, rfl⟩
theorem Has.MAP_AREA_WORDS {F} (w : [2049] ⊆ F := by exact subTrans (by assumption) (by decide)) : Has F Reg.MAP.AREA_WORDS := ⟨2049, w, rfl⟩
theorem Has.MAP_PROFILE {F} (w : [2050] ⊆ F := by exact subTrans (by assumption) (by decide)) : Has F Reg.MAP.PROFILE := ⟨2050, w, rfl⟩
theorem Has.MAP_RECIRC_OUT {F} (w : [2051] ⊆ F := by exact subTrans (by assumption) (by decide)) : Has F Reg.MAP.RECIRC_OUT := ⟨2051, w, rfl⟩
theorem Has.MAP_RECIRC_LIMIT {F} (w : [2052] ⊆ F := by exact subTrans (by assumption) (by decide)) : Has F Reg.MAP.RECIRC_LIMIT := ⟨2052, w, rfl⟩
theorem Has.MAP_VERDICT_DROPS {F} (w : [2053] ⊆ F := by exact subTrans (by assumption) (by decide)) : Has F Reg.MAP.VERDICT_DROPS := ⟨2053, w, rfl⟩
theorem Has.MAP_NO_DEST {F} (w : [2054] ⊆ F := by exact subTrans (by assumption) (by decide)) : Has F Reg.MAP.NO_DEST := ⟨2054, w, rfl⟩
theorem Has.MAP_EG_DROPS {F} (w : [2055] ⊆ F := by exact subTrans (by assumption) (by decide)) : Has F Reg.MAP.EG_DROPS := ⟨2055, w, rfl⟩
theorem Has.MAP_ACTION_ERR {F} (w : [2056] ⊆ F := by exact subTrans (by assumption) (by decide)) : Has F Reg.MAP.ACTION_ERR := ⟨2056, w, rfl⟩
theorem Has.MAP_COUNT_RANGE {F} (w : [2057] ⊆ F := by exact subTrans (by assumption) (by decide)) : Has F Reg.MAP.COUNT_RANGE := ⟨2057, w, rfl⟩
theorem Has.MAP_EDIT_ERR {F} (w : [2058] ⊆ F := by exact subTrans (by assumption) (by decide)) : Has F Reg.MAP.EDIT_ERR := ⟨2058, w, rfl⟩
theorem Has.MAP_EDIT_OVERSIZE {F} (w : [2059] ⊆ F := by exact subTrans (by assumption) (by decide)) : Has F Reg.MAP.EDIT_OVERSIZE := ⟨2059, w, rfl⟩
theorem Has.MAP_EDIT_PAD {F} (w : [2060] ⊆ F := by exact subTrans (by assumption) (by decide)) : Has F Reg.MAP.EDIT_PAD := ⟨2060, w, rfl⟩
theorem Has.MAP_LE_STAGE {F} (w : [2061] ⊆ F := by exact subTrans (by assumption) (by decide)) : Has F Reg.MAP.LE_STAGE := ⟨2061, w, rfl⟩
theorem Has.MAP_LE_KIND {F} (w : [2062] ⊆ F := by exact subTrans (by assumption) (by decide)) : Has F Reg.MAP.LE_KIND := ⟨2062, w, rfl⟩
theorem Has.MAP_LE_WORD {F} (w : [2063] ⊆ F := by exact subTrans (by assumption) (by decide)) : Has F Reg.MAP.LE_WORD := ⟨2063, w, rfl⟩
theorem Has.MAP_LE_VALID {F} (w : [2064] ⊆ F := by exact subTrans (by assumption) (by decide)) : Has F Reg.MAP.LE_VALID := ⟨2064, w, rfl⟩
theorem Has.CRUC_LEGACY_ARB {F} (w : [2304] ⊆ F := by exact subTrans (by assumption) (by decide)) : Has F Reg.CRUC.LEGACY_ARB := ⟨2304, w, rfl⟩
theorem Has.CRUC_SHARED_SIZE {F} (w : [2307] ⊆ F := by exact subTrans (by assumption) (by decide)) : Has F Reg.CRUC.SHARED_SIZE := ⟨2307, w, rfl⟩
theorem Has.CRUC_BASE_UNIT {F} (w : [2308] ⊆ F := by exact subTrans (by assumption) (by decide)) : Has F Reg.CRUC.BASE_UNIT := ⟨2308, w, rfl⟩
theorem Has.CRUC_UNITS {F} (w : [2309] ⊆ F := by exact subTrans (by assumption) (by decide)) : Has F Reg.CRUC.UNITS := ⟨2309, w, rfl⟩
theorem Has.CRUC_SIZE {F} (w : [2310] ⊆ F := by exact subTrans (by assumption) (by decide)) : Has F Reg.CRUC.SIZE := ⟨2310, w, rfl⟩
theorem Has.CRUC_INGOTS {F} (w : [2311] ⊆ F := by exact subTrans (by assumption) (by decide)) : Has F Reg.CRUC.INGOTS := ⟨2311, w, rfl⟩
theorem Has.CRUC_HR_RESERVE {F} (w : [2314] ⊆ F := by exact subTrans (by assumption) (by decide)) : Has F Reg.CRUC.HR_RESERVE := ⟨2314, w, rfl⟩
theorem Has.CRUC_ALLOC {F} (w : [2316] ⊆ F := by exact subTrans (by assumption) (by decide)) : Has F Reg.CRUC.ALLOC := ⟨2316, w, rfl⟩
theorem Has.CRUC_FALLBACK {F} (w : [2317] ⊆ F := by exact subTrans (by assumption) (by decide)) : Has F Reg.CRUC.FALLBACK := ⟨2317, w, rfl⟩
theorem Has.CRUC_EXHAUSTED {F} (w : [2318] ⊆ F := by exact subTrans (by assumption) (by decide)) : Has F Reg.CRUC.EXHAUSTED := ⟨2318, w, rfl⟩
theorem Has.CRUC_CHAIN_FRAMES {F} (w : [2319] ⊆ F := by exact subTrans (by assumption) (by decide)) : Has F Reg.CRUC.CHAIN_FRAMES := ⟨2319, w, rfl⟩
theorem Has.CRUC_SPILL_FRAMES {F} (w : [2320] ⊆ F := by exact subTrans (by assumption) (by decide)) : Has F Reg.CRUC.SPILL_FRAMES := ⟨2320, w, rfl⟩
theorem Has.CRUC_SPILL_SEGS {F} (w : [2321] ⊆ F := by exact subTrans (by assumption) (by decide)) : Has F Reg.CRUC.SPILL_SEGS := ⟨2321, w, rfl⟩
theorem Has.CRUC_SPILL_FAIL {F} (w : [2322] ⊆ F := by exact subTrans (by assumption) (by decide)) : Has F Reg.CRUC.SPILL_FAIL := ⟨2322, w, rfl⟩
theorem Has.CRUC_HANDLE_ERR {F} (w : [2323] ⊆ F := by exact subTrans (by assumption) (by decide)) : Has F Reg.CRUC.HANDLE_ERR := ⟨2323, w, rfl⟩
theorem Has.CRUC_CT_FRAMES {F} (w : [2324] ⊆ F := by exact subTrans (by assumption) (by decide)) : Has F Reg.CRUC.CT_FRAMES := ⟨2324, w, rfl⟩
theorem Has.CRUC_CT_STOMPED {F} (w : [2325] ⊆ F := by exact subTrans (by assumption) (by decide)) : Has F Reg.CRUC.CT_STOMPED := ⟨2325, w, rfl⟩
theorem Has.CRUC_PARSE_ABANDON {F} (w : [2326] ⊆ F := by exact subTrans (by assumption) (by decide)) : Has F Reg.CRUC.PARSE_ABANDON := ⟨2326, w, rfl⟩
theorem Has.CRUC_HOLD_FULL {F} (w : [2327] ⊆ F := by exact subTrans (by assumption) (by decide)) : Has F Reg.CRUC.HOLD_FULL := ⟨2327, w, rfl⟩
theorem Has.CRUC_SEG_LOST {F} (w : [2328] ⊆ F := by exact subTrans (by assumption) (by decide)) : Has F Reg.CRUC.SEG_LOST := ⟨2328, w, rfl⟩
theorem Has.CRUC_CORR {F} (w : [2329] ⊆ F := by exact subTrans (by assumption) (by decide)) : Has F Reg.CRUC.CORR := ⟨2329, w, rfl⟩
theorem Has.CRUC_REBUILT {F} (w : [2330] ⊆ F := by exact subTrans (by assumption) (by decide)) : Has F Reg.CRUC.REBUILT := ⟨2330, w, rfl⟩
theorem Has.CRUC_QL_SLOT {F} (w : [2331] ⊆ F := by exact subTrans (by assumption) (by decide)) : Has F Reg.CRUC.QL_SLOT := ⟨2331, w, rfl⟩
theorem Has.CRUC_QL_POOL {F} (w : [2332] ⊆ F := by exact subTrans (by assumption) (by decide)) : Has F Reg.CRUC.QL_POOL := ⟨2332, w, rfl⟩
theorem Has.CRUC_QL_CHECK {F} (w : [2333] ⊆ F := by exact subTrans (by assumption) (by decide)) : Has F Reg.CRUC.QL_CHECK := ⟨2333, w, rfl⟩
theorem Has.CRUC_QL_VALID {F} (w : [2334] ⊆ F := by exact subTrans (by assumption) (by decide)) : Has F Reg.CRUC.QL_VALID := ⟨2334, w, rfl⟩
theorem Has.CRUC_MS_BANK {F} (w : [2339] ⊆ F := by exact subTrans (by assumption) (by decide)) : Has F Reg.CRUC.MS_BANK := ⟨2339, w, rfl⟩
theorem Has.CRUC_MS_ACTIVE {F} (w : [2340] ⊆ F := by exact subTrans (by assumption) (by decide)) : Has F Reg.CRUC.MS_ACTIVE := ⟨2340, w, rfl⟩
theorem Has.CRUC_MS_DONE {F} (w : [2341] ⊆ F := by exact subTrans (by assumption) (by decide)) : Has F Reg.CRUC.MS_DONE := ⟨2341, w, rfl⟩
theorem Has.CRUC_MS_DEGRADED {F} (w : [2343] ⊆ F := by exact subTrans (by assumption) (by decide)) : Has F Reg.CRUC.MS_DEGRADED := ⟨2343, w, rfl⟩
theorem Has.CRUC_SM_REPLACES {F} (w : [2344] ⊆ F := by exact subTrans (by assumption) (by decide)) : Has F Reg.CRUC.SM_REPLACES := ⟨2344, w, rfl⟩
theorem Has.CRUC_SM_USED {F} (w : [2345] ⊆ F := by exact subTrans (by assumption) (by decide)) : Has F Reg.CRUC.SM_USED := ⟨2345, w, rfl⟩
theorem Has.CRUC_RP_MIN {F} (w : [2346] ⊆ F := by exact subTrans (by assumption) (by decide)) : Has F Reg.CRUC.RP_MIN := ⟨2346, w, rfl⟩
theorem Has.CRUC_RP_HDRM {F} (w : [2347] ⊆ F := by exact subTrans (by assumption) (by decide)) : Has F Reg.CRUC.RP_HDRM := ⟨2347, w, rfl⟩
theorem Has.CRUC_RP_FIFO_XOFF {F} (w : [2348] ⊆ F := by exact subTrans (by assumption) (by decide)) : Has F Reg.CRUC.RP_FIFO_XOFF := ⟨2348, w, rfl⟩
theorem Has.CRUC_RP_FIFO_XON {F} (w : [2349] ⊆ F := by exact subTrans (by assumption) (by decide)) : Has F Reg.CRUC.RP_FIFO_XON := ⟨2349, w, rfl⟩
theorem Has.CRUC_RP_XON_DELTA {F} (w : [2350] ⊆ F := by exact subTrans (by assumption) (by decide)) : Has F Reg.CRUC.RP_XON_DELTA := ⟨2350, w, rfl⟩
theorem Has.CRUC_RP_ALPHA {F} (w : [2351] ⊆ F := by exact subTrans (by assumption) (by decide)) : Has F Reg.CRUC.RP_ALPHA := ⟨2351, w, rfl⟩
theorem Has.CRUC_RP_SHR_MAX {F} (w : [2352] ⊆ F := by exact subTrans (by assumption) (by decide)) : Has F Reg.CRUC.RP_SHR_MAX := ⟨2352, w, rfl⟩
theorem Has.CRUC_Q_MIN {F} (w : [2353] ⊆ F := by exact subTrans (by assumption) (by decide)) : Has F Reg.CRUC.Q_MIN := ⟨2353, w, rfl⟩
theorem Has.CRUC_BETA {F} (w : [2354] ⊆ F := by exact subTrans (by assumption) (by decide)) : Has F Reg.CRUC.BETA := ⟨2354, w, rfl⟩
theorem Has.CRUC_MAP_PROFILE0 {F} (w : [2355] ⊆ F := by exact subTrans (by assumption) (by decide)) : Has F Reg.CRUC.MAP_PROFILE0 := ⟨2355, w, rfl⟩
theorem Has.CRUC_MAP_PROFILE1 {F} (w : [2356] ⊆ F := by exact subTrans (by assumption) (by decide)) : Has F Reg.CRUC.MAP_PROFILE1 := ⟨2356, w, rfl⟩
theorem Has.CRUC_MAP_PROFILE2 {F} (w : [2357] ⊆ F := by exact subTrans (by assumption) (by decide)) : Has F Reg.CRUC.MAP_PROFILE2 := ⟨2357, w, rfl⟩
theorem Has.CRUC_MAP_PROFILE3 {F} (w : [2358] ⊆ F := by exact subTrans (by assumption) (by decide)) : Has F Reg.CRUC.MAP_PROFILE3 := ⟨2358, w, rfl⟩
theorem Has.CRUC_CT_MASK {F} (w : [2359] ⊆ F := by exact subTrans (by assumption) (by decide)) : Has F Reg.CRUC.CT_MASK := ⟨2359, w, rfl⟩
theorem Has.CRUC_MIN_USED {F} (w : [2360] ⊆ F := by exact subTrans (by assumption) (by decide)) : Has F Reg.CRUC.MIN_USED := ⟨2360, w, rfl⟩
theorem Has.CRUC_SHR_USED {F} (w : [2362] ⊆ F := by exact subTrans (by assumption) (by decide)) : Has F Reg.CRUC.SHR_USED := ⟨2362, w, rfl⟩
theorem Has.CRUC_HDRM_USED {F} (w : [2363] ⊆ F := by exact subTrans (by assumption) (by decide)) : Has F Reg.CRUC.HDRM_USED := ⟨2363, w, rfl⟩
theorem Has.CRUC_XOFF {F} (w : [2364] ⊆ F := by exact subTrans (by assumption) (by decide)) : Has F Reg.CRUC.XOFF := ⟨2364, w, rfl⟩
theorem Has.CRUC_HELD {F} (w : [2365] ⊆ F := by exact subTrans (by assumption) (by decide)) : Has F Reg.CRUC.HELD := ⟨2365, w, rfl⟩
theorem Has.CRUC_BREACH {F} (w : [2367] ⊆ F := by exact subTrans (by assumption) (by decide)) : Has F Reg.CRUC.BREACH := ⟨2367, w, rfl⟩
theorem Has.QSCH_POLICER_DROPS {F} (w : [2561] ⊆ F := by exact subTrans (by assumption) (by decide)) : Has F Reg.QSCH.POLICER_DROPS := ⟨2561, w, rfl⟩
theorem Has.QSCH_MC_INVALID {F} (w : [2562] ⊆ F := by exact subTrans (by assumption) (by decide)) : Has F Reg.QSCH.MC_INVALID := ⟨2562, w, rfl⟩
theorem Has.QSCH_MC_NO_COPY {F} (w : [2563] ⊆ F := by exact subTrans (by assumption) (by decide)) : Has F Reg.QSCH.MC_NO_COPY := ⟨2563, w, rfl⟩
theorem Has.QSCH_REPL_STALLS {F} (w : [2564] ⊆ F := by exact subTrans (by assumption) (by decide)) : Has F Reg.QSCH.REPL_STALLS := ⟨2564, w, rfl⟩
theorem Has.QSCH_ECN_SKIPPED {F} (w : [2565] ⊆ F := by exact subTrans (by assumption) (by decide)) : Has F Reg.QSCH.ECN_SKIPPED := ⟨2565, w, rfl⟩
theorem Has.QSCH_BAD_QUEUE {F} (w : [2566] ⊆ F := by exact subTrans (by assumption) (by decide)) : Has F Reg.QSCH.BAD_QUEUE := ⟨2566, w, rfl⟩
theorem Has.QSCH_HOLD_ACTIVE {F} (w : [2569] ⊆ F := by exact subTrans (by assumption) (by decide)) : Has F Reg.QSCH.HOLD_ACTIVE := ⟨2569, w, rfl⟩
theorem Has.QSCH_GATE_EN {F} (w : [2570] ⊆ F := by exact subTrans (by assumption) (by decide)) : Has F Reg.QSCH.GATE_EN := ⟨2570, w, rfl⟩
theorem Has.QSCH_ADMIN_LIST {F} (w : [2571] ⊆ F := by exact subTrans (by assumption) (by decide)) : Has F Reg.QSCH.ADMIN_LIST := ⟨2571, w, rfl⟩
theorem Has.QSCH_OPER_LIST {F} (w : [2572] ⊆ F := by exact subTrans (by assumption) (by decide)) : Has F Reg.QSCH.OPER_LIST := ⟨2572, w, rfl⟩
theorem Has.QSCH_OPER_VALID {F} (w : [2573] ⊆ F := by exact subTrans (by assumption) (by decide)) : Has F Reg.QSCH.OPER_VALID := ⟨2573, w, rfl⟩
theorem Has.QSCH_CONFIG_PENDING {F} (w : [2574] ⊆ F := by exact subTrans (by assumption) (by decide)) : Has F Reg.QSCH.CONFIG_PENDING := ⟨2574, w, rfl⟩
theorem Has.QSCH_CONFIG_ERR {F} (w : [2576] ⊆ F := by exact subTrans (by assumption) (by decide)) : Has F Reg.QSCH.CONFIG_ERR := ⟨2576, w, rfl⟩
theorem Has.QSCH_ADMIN_LEN {F} (w : [2577] ⊆ F := by exact subTrans (by assumption) (by decide)) : Has F Reg.QSCH.ADMIN_LEN := ⟨2577, w, rfl⟩
theorem Has.QSCH_ADMIN_CYCLE {F} (w : [2578] ⊆ F := by exact subTrans (by assumption) (by decide)) : Has F Reg.QSCH.ADMIN_CYCLE := ⟨2578, w, rfl⟩
theorem Has.QSCH_ADMIN_BASE_NS {F} (w : [2579] ⊆ F := by exact subTrans (by assumption) (by decide)) : Has F Reg.QSCH.ADMIN_BASE_NS := ⟨2579, w, rfl⟩
theorem Has.QSCH_ADMIN_BASE_SEC {F} (w : [2580] ⊆ F := by exact subTrans (by assumption) (by decide)) : Has F Reg.QSCH.ADMIN_BASE_SEC := ⟨2580, w, rfl⟩
theorem Has.QSCH_FLUSHED {F} (w : [2584] ⊆ F := by exact subTrans (by assumption) (by decide)) : Has F Reg.QSCH.FLUSHED := ⟨2584, w, rfl⟩
theorem Has.QSCH_DOWN_DISCARDS {F} (w : [2585] ⊆ F := by exact subTrans (by assumption) (by decide)) : Has F Reg.QSCH.DOWN_DISCARDS := ⟨2585, w, rfl⟩
theorem Has.QSCH_MC_RESIDUE_DISCARDS {F} (w : [2586] ⊆ F := by exact subTrans (by assumption) (by decide)) : Has F Reg.QSCH.MC_RESIDUE_DISCARDS := ⟨2586, w, rfl⟩
theorem Has.QSCH_LATE_SENT {F} (w : [2587] ⊆ F := by exact subTrans (by assumption) (by decide)) : Has F Reg.QSCH.LATE_SENT := ⟨2587, w, rfl⟩
theorem Has.QSCH_LATE_DISCARDS {F} (w : [2588] ⊆ F := by exact subTrans (by assumption) (by decide)) : Has F Reg.QSCH.LATE_DISCARDS := ⟨2588, w, rfl⟩
theorem Has.QSCH_GATE_OVERSIZE {F} (w : [2589] ⊆ F := by exact subTrans (by assumption) (by decide)) : Has F Reg.QSCH.GATE_OVERSIZE := ⟨2589, w, rfl⟩
theorem Has.QSCH_LAUNCH_REFUSED {F} (w : [2590] ⊆ F := by exact subTrans (by assumption) (by decide)) : Has F Reg.QSCH.LAUNCH_REFUSED := ⟨2590, w, rfl⟩
theorem Has.TIME_TOD_VALID {F} (w : [2816] ⊆ F := by exact subTrans (by assumption) (by decide)) : Has F Reg.TIME.TOD_VALID := ⟨2816, w, rfl⟩
theorem Has.TIME_HOLDOVER {F} (w : [2817] ⊆ F := by exact subTrans (by assumption) (by decide)) : Has F Reg.TIME.HOLDOVER := ⟨2817, w, rfl⟩
theorem Has.TIME_REFCLK_LOST {F} (w : [2818] ⊆ F := by exact subTrans (by assumption) (by decide)) : Has F Reg.TIME.REFCLK_LOST := ⟨2818, w, rfl⟩
theorem Has.TIME_PPS_ABSENT {F} (w : [2819] ⊆ F := by exact subTrans (by assumption) (by decide)) : Has F Reg.TIME.PPS_ABSENT := ⟨2819, w, rfl⟩
theorem Has.TIME_HOLDOVER_EVT {F} (w : [2820] ⊆ F := by exact subTrans (by assumption) (by decide)) : Has F Reg.TIME.HOLDOVER_EVT := ⟨2820, w, rfl⟩
theorem Has.TIME_REFCLK_LOST_EVT {F} (w : [2821] ⊆ F := by exact subTrans (by assumption) (by decide)) : Has F Reg.TIME.REFCLK_LOST_EVT := ⟨2821, w, rfl⟩
theorem Has.TIME_CAPTURE_EVT {F} (w : [2822] ⊆ F := by exact subTrans (by assumption) (by decide)) : Has F Reg.TIME.CAPTURE_EVT := ⟨2822, w, rfl⟩
theorem Has.TIME_STEP_ERR {F} (w : [2823] ⊆ F := by exact subTrans (by assumption) (by decide)) : Has F Reg.TIME.STEP_ERR := ⟨2823, w, rfl⟩
theorem Has.TIME_FRC {F} (w : [2825] ⊆ F := by exact subTrans (by assumption) (by decide)) : Has F Reg.TIME.FRC := ⟨2825, w, rfl⟩
theorem Has.TIME_RATE {F} (w : [2831] ⊆ F := by exact subTrans (by assumption) (by decide)) : Has F Reg.TIME.RATE := ⟨2831, w, rfl⟩
theorem Has.TIME_OFF_SEC {F} (w : [2833] ⊆ F := by exact subTrans (by assumption) (by decide)) : Has F Reg.TIME.OFF_SEC := ⟨2833, w, rfl⟩
theorem Has.TIME_OFF_NS {F} (w : [2834] ⊆ F := by exact subTrans (by assumption) (by decide)) : Has F Reg.TIME.OFF_NS := ⟨2834, w, rfl⟩
theorem Has.TIME_OFF_FRAC {F} (w : [2835] ⊆ F := by exact subTrans (by assumption) (by decide)) : Has F Reg.TIME.OFF_FRAC := ⟨2835, w, rfl⟩
theorem Has.TIME_REF {F} (w : [2836] ⊆ F := by exact subTrans (by assumption) (by decide)) : Has F Reg.TIME.REF := ⟨2836, w, rfl⟩
theorem Has.TIME_SNAP_FRC {F} (w : [2837] ⊆ F := by exact subTrans (by assumption) (by decide)) : Has F Reg.TIME.SNAP_FRC := ⟨2837, w, rfl⟩
theorem Has.TIME_SNAP_SEC {F} (w : [2838] ⊆ F := by exact subTrans (by assumption) (by decide)) : Has F Reg.TIME.SNAP_SEC := ⟨2838, w, rfl⟩
theorem Has.TIME_SNAP_NS {F} (w : [2839] ⊆ F := by exact subTrans (by assumption) (by decide)) : Has F Reg.TIME.SNAP_NS := ⟨2839, w, rfl⟩
theorem Has.TIME_SNAP_FRAC {F} (w : [2840] ⊆ F := by exact subTrans (by assumption) (by decide)) : Has F Reg.TIME.SNAP_FRAC := ⟨2840, w, rfl⟩
theorem Has.TIME_C_COUNT {F} (w : [2842] ⊆ F := by exact subTrans (by assumption) (by decide)) : Has F Reg.TIME.C_COUNT := ⟨2842, w, rfl⟩
theorem Has.TIME_C_CAP_SEC {F} (w : [2843] ⊆ F := by exact subTrans (by assumption) (by decide)) : Has F Reg.TIME.C_CAP_SEC := ⟨2843, w, rfl⟩
theorem Has.TIME_C_CAP_NS {F} (w : [2844] ⊆ F := by exact subTrans (by assumption) (by decide)) : Has F Reg.TIME.C_CAP_NS := ⟨2844, w, rfl⟩
theorem Has.TIME_C_CAP_FRAC {F} (w : [2845] ⊆ F := by exact subTrans (by assumption) (by decide)) : Has F Reg.TIME.C_CAP_FRAC := ⟨2845, w, rfl⟩
theorem Has.TIME_SY_SQUELCHED {F} (w : [2854] ⊆ F := by exact subTrans (by assumption) (by decide)) : Has F Reg.TIME.SY_SQUELCHED := ⟨2854, w, rfl⟩
theorem Has.TIME_T_EN {F} (w : [2855] ⊆ F := by exact subTrans (by assumption) (by decide)) : Has F Reg.TIME.T_EN := ⟨2855, w, rfl⟩
theorem Has.TIME_T_PERIODIC {F} (w : [2856] ⊆ F := by exact subTrans (by assumption) (by decide)) : Has F Reg.TIME.T_PERIODIC := ⟨2856, w, rfl⟩
theorem Has.TIME_T_ARMED {F} (w : [2858] ⊆ F := by exact subTrans (by assumption) (by decide)) : Has F Reg.TIME.T_ARMED := ⟨2858, w, rfl⟩
theorem Has.TIME_T_FIRED {F} (w : [2859] ⊆ F := by exact subTrans (by assumption) (by decide)) : Has F Reg.TIME.T_FIRED := ⟨2859, w, rfl⟩
theorem Has.TIME_T_LATE_ARM {F} (w : [2860] ⊆ F := by exact subTrans (by assumption) (by decide)) : Has F Reg.TIME.T_LATE_ARM := ⟨2860, w, rfl⟩
theorem Has.TIME_T_PERIOD {F} (w : [2862] ⊆ F := by exact subTrans (by assumption) (by decide)) : Has F Reg.TIME.T_PERIOD := ⟨2862, w, rfl⟩
theorem Has.TIME_T_TIME_SEC {F} (w : [2863] ⊆ F := by exact subTrans (by assumption) (by decide)) : Has F Reg.TIME.T_TIME_SEC := ⟨2863, w, rfl⟩
theorem Has.TIME_T_TIME_NS {F} (w : [2864] ⊆ F := by exact subTrans (by assumption) (by decide)) : Has F Reg.TIME.T_TIME_NS := ⟨2864, w, rfl⟩
theorem Has.TIME_T_MISSED {F} (w : [2865] ⊆ F := by exact subTrans (by assumption) (by decide)) : Has F Reg.TIME.T_MISSED := ⟨2865, w, rfl⟩
theorem Has.TIME_T_FIRINGS {F} (w : [2866] ⊆ F := by exact subTrans (by assumption) (by decide)) : Has F Reg.TIME.T_FIRINGS := ⟨2866, w, rfl⟩
theorem Has.TIME_TS_LOST {F} (w : [2877] ⊆ F := by exact subTrans (by assumption) (by decide)) : Has F Reg.TIME.TS_LOST := ⟨2877, w, rfl⟩
theorem Has.TIME_PTP_RX {F} (w : [2878] ⊆ F := by exact subTrans (by assumption) (by decide)) : Has F Reg.TIME.PTP_RX := ⟨2878, w, rfl⟩
theorem Has.TIME_TS_CAPTURED {F} (w : [2879] ⊆ F := by exact subTrans (by assumption) (by decide)) : Has F Reg.TIME.TS_CAPTURED := ⟨2879, w, rfl⟩
theorem Has.TIME_TC_UPDATED {F} (w : [2880] ⊆ F := by exact subTrans (by assumption) (by decide)) : Has F Reg.TIME.TC_UPDATED := ⟨2880, w, rfl⟩
theorem Has.TIME_TC_SKIPPED {F} (w : [2881] ⊆ F := by exact subTrans (by assumption) (by decide)) : Has F Reg.TIME.TC_SKIPPED := ⟨2881, w, rfl⟩
theorem Has.TELE_FLAGS {F} (w : [3072] ⊆ F := by exact subTrans (by assumption) (by decide)) : Has F Reg.TELE.FLAGS := ⟨3072, w, rfl⟩
theorem Has.TELE_HOP_ID {F} (w : [3073] ⊆ F := by exact subTrans (by assumption) (by decide)) : Has F Reg.TELE.HOP_ID := ⟨3073, w, rfl⟩
theorem Has.TELE_FC_IDLE {F} (w : [3074] ⊆ F := by exact subTrans (by assumption) (by decide)) : Has F Reg.TELE.FC_IDLE := ⟨3074, w, rfl⟩
theorem Has.TELE_FC_ACTIVE {F} (w : [3075] ⊆ F := by exact subTrans (by assumption) (by decide)) : Has F Reg.TELE.FC_ACTIVE := ⟨3075, w, rfl⟩
theorem Has.TELE_HM_SKIPPED {F} (w : [3076] ⊆ F := by exact subTrans (by assumption) (by decide)) : Has F Reg.TELE.HM_SKIPPED := ⟨3076, w, rfl⟩
theorem Has.TELE_IOAM_FULL {F} (w : [3077] ⊆ F := by exact subTrans (by assumption) (by decide)) : Has F Reg.TELE.IOAM_FULL := ⟨3077, w, rfl⟩
theorem Has.TELE_SHIM_FULL {F} (w : [3078] ⊆ F := by exact subTrans (by assumption) (by decide)) : Has F Reg.TELE.SHIM_FULL := ⟨3078, w, rfl⟩
theorem Has.TELE_HM_FIXUP_SKIPPED {F} (w : [3079] ⊆ F := by exact subTrans (by assumption) (by decide)) : Has F Reg.TELE.HM_FIXUP_SKIPPED := ⟨3079, w, rfl⟩
theorem Has.TELE_FC_EVICTED {F} (w : [3080] ⊆ F := by exact subTrans (by assumption) (by decide)) : Has F Reg.TELE.FC_EVICTED := ⟨3080, w, rfl⟩
theorem Has.TELE_FC_ECC {F} (w : [3081] ⊆ F := by exact subTrans (by assumption) (by decide)) : Has F Reg.TELE.FC_ECC := ⟨3081, w, rfl⟩
theorem Has.TELE_CNT_ECC {F} (w : [3082] ⊆ F := by exact subTrans (by assumption) (by decide)) : Has F Reg.TELE.CNT_ECC := ⟨3082, w, rfl⟩
theorem Has.TELE_HM_REASON {F} (w : [3083] ⊆ F := by exact subTrans (by assumption) (by decide)) : Has F Reg.TELE.HM_REASON := ⟨3083, w, rfl⟩
theorem Has.TELE_HM_EG_PORT {F} (w : [3084] ⊆ F := by exact subTrans (by assumption) (by decide)) : Has F Reg.TELE.HM_EG_PORT := ⟨3084, w, rfl⟩
theorem Has.TELE_HM_VALID {F} (w : [3085] ⊆ F := by exact subTrans (by assumption) (by decide)) : Has F Reg.TELE.HM_VALID := ⟨3085, w, rfl⟩
theorem Has.TELE_FL_BUSY {F} (w : [3087] ⊆ F := by exact subTrans (by assumption) (by decide)) : Has F Reg.TELE.FL_BUSY := ⟨3087, w, rfl⟩
theorem Has.TELE_FL_DONE {F} (w : [3088] ⊆ F := by exact subTrans (by assumption) (by decide)) : Has F Reg.TELE.FL_DONE := ⟨3088, w, rfl⟩
theorem Has.TELE_LP_RUNNING {F} (w : [3094] ⊆ F := by exact subTrans (by assumption) (by decide)) : Has F Reg.TELE.LP_RUNNING := ⟨3094, w, rfl⟩
theorem Has.TELE_LP_DONE {F} (w : [3095] ⊆ F := by exact subTrans (by assumption) (by decide)) : Has F Reg.TELE.LP_DONE := ⟨3095, w, rfl⟩
theorem Has.TELE_LP_START_MISSED {F} (w : [3096] ⊆ F := by exact subTrans (by assumption) (by decide)) : Has F Reg.TELE.LP_START_MISSED := ⟨3096, w, rfl⟩
theorem Has.TELE_FS_WR_PTR {F} (w : [3100] ⊆ F := by exact subTrans (by assumption) (by decide)) : Has F Reg.TELE.FS_WR_PTR := ⟨3100, w, rfl⟩
theorem Has.TELE_FS_RD_PTR {F} (w : [3101] ⊆ F := by exact subTrans (by assumption) (by decide)) : Has F Reg.TELE.FS_RD_PTR := ⟨3101, w, rfl⟩
theorem Has.TELE_FS_FS_LOST {F} (w : [3102] ⊆ F := by exact subTrans (by assumption) (by decide)) : Has F Reg.TELE.FS_FS_LOST := ⟨3102, w, rfl⟩
theorem Has.TELE_COL_SENT {F} (w : [3103] ⊆ F := by exact subTrans (by assumption) (by decide)) : Has F Reg.TELE.COL_SENT := ⟨3103, w, rfl⟩
theorem Has.TELE_COL_LOST {F} (w : [3104] ⊆ F := by exact subTrans (by assumption) (by decide)) : Has F Reg.TELE.COL_LOST := ⟨3104, w, rfl⟩
theorem Has.TELE_S_UNIT {F} (w : [3106] ⊆ F := by exact subTrans (by assumption) (by decide)) : Has F Reg.TELE.S_UNIT := ⟨3106, w, rfl⟩
theorem Has.TELE_S_EVENT {F} (w : [3107] ⊆ F := by exact subTrans (by assumption) (by decide)) : Has F Reg.TELE.S_EVENT := ⟨3107, w, rfl⟩
theorem Has.TELE_S_EN {F} (w : [3108] ⊆ F := by exact subTrans (by assumption) (by decide)) : Has F Reg.TELE.S_EN := ⟨3108, w, rfl⟩
theorem Has.TELE_S_IE {F} (w : [3109] ⊆ F := by exact subTrans (by assumption) (by decide)) : Has F Reg.TELE.S_IE := ⟨3109, w, rfl⟩
theorem Has.TELE_S_OVF {F} (w : [3110] ⊆ F := by exact subTrans (by assumption) (by decide)) : Has F Reg.TELE.S_OVF := ⟨3110, w, rfl⟩
theorem Has.TELE_S_PRIV_REJECT {F} (w : [3111] ⊆ F := by exact subTrans (by assumption) (by decide)) : Has F Reg.TELE.S_PRIV_REJECT := ⟨3111, w, rfl⟩
theorem Has.TELE_S_RELOAD {F} (w : [3112] ⊆ F := by exact subTrans (by assumption) (by decide)) : Has F Reg.TELE.S_RELOAD := ⟨3112, w, rfl⟩
theorem Has.TELE_S_VALUE {F} (w : [3113] ⊆ F := by exact subTrans (by assumption) (by decide)) : Has F Reg.TELE.S_VALUE := ⟨3113, w, rfl⟩
theorem Has.TELE_S_LOST {F} (w : [3114] ⊆ F := by exact subTrans (by assumption) (by decide)) : Has F Reg.TELE.S_LOST := ⟨3114, w, rfl⟩
theorem Has.TELE_U_WRAP {F} (w : [3123] ⊆ F := by exact subTrans (by assumption) (by decide)) : Has F Reg.TELE.U_WRAP := ⟨3123, w, rfl⟩
theorem Has.TELE_U_TICKS {F} (w : [3124] ⊆ F := by exact subTrans (by assumption) (by decide)) : Has F Reg.TELE.U_TICKS := ⟨3124, w, rfl⟩
theorem Has.TELE_U_CNT {F} (w : [3125] ⊆ F := by exact subTrans (by assumption) (by decide)) : Has F Reg.TELE.U_CNT := ⟨3125, w, rfl⟩
theorem Has.TELE_RX_LAST {F} (w : [3126] ⊆ F := by exact subTrans (by assumption) (by decide)) : Has F Reg.TELE.RX_LAST := ⟨3126, w, rfl⟩
theorem Has.TELE_RX_PEAK {F} (w : [3127] ⊆ F := by exact subTrans (by assumption) (by decide)) : Has F Reg.TELE.RX_PEAK := ⟨3127, w, rfl⟩
theorem Has.TELE_RX_EWMA {F} (w : [3128] ⊆ F := by exact subTrans (by assumption) (by decide)) : Has F Reg.TELE.RX_EWMA := ⟨3128, w, rfl⟩
theorem Has.TELE_TX_LAST {F} (w : [3129] ⊆ F := by exact subTrans (by assumption) (by decide)) : Has F Reg.TELE.TX_LAST := ⟨3129, w, rfl⟩
theorem Has.TELE_TX_PEAK {F} (w : [3130] ⊆ F := by exact subTrans (by assumption) (by decide)) : Has F Reg.TELE.TX_PEAK := ⟨3130, w, rfl⟩
theorem Has.TELE_TX_EWMA {F} (w : [3131] ⊆ F := by exact subTrans (by assumption) (by decide)) : Has F Reg.TELE.TX_EWMA := ⟨3131, w, rfl⟩
theorem Has.HOST_LINK_SPEED {F} (w : [3328] ⊆ F := by exact subTrans (by assumption) (by decide)) : Has F Reg.HOST.LINK_SPEED := ⟨3328, w, rfl⟩
theorem Has.HOST_LINK_WIDTH {F} (w : [3329] ⊆ F := by exact subTrans (by assumption) (by decide)) : Has F Reg.HOST.LINK_WIDTH := ⟨3329, w, rfl⟩
theorem Has.HOST_LINK_UP {F} (w : [3330] ⊆ F := by exact subTrans (by assumption) (by decide)) : Has F Reg.HOST.LINK_UP := ⟨3330, w, rfl⟩
theorem Has.HOST_BUS_MASTER {F} (w : [3331] ⊆ F := by exact subTrans (by assumption) (by decide)) : Has F Reg.HOST.BUS_MASTER := ⟨3331, w, rfl⟩
theorem Has.HOST_D3HOT {F} (w : [3332] ⊆ F := by exact subTrans (by assumption) (by decide)) : Has F Reg.HOST.D3HOT := ⟨3332, w, rfl⟩
theorem Has.HOST_LINK_DOWN_EVT {F} (w : [3333] ⊆ F := by exact subTrans (by assumption) (by decide)) : Has F Reg.HOST.LINK_DOWN_EVT := ⟨3333, w, rfl⟩
theorem Has.HOST_POISONED {F} (w : [3334] ⊆ F := by exact subTrans (by assumption) (by decide)) : Has F Reg.HOST.POISONED := ⟨3334, w, rfl⟩
theorem Has.HOST_ACCESS_ERR {F} (w : [3335] ⊆ F := by exact subTrans (by assumption) (by decide)) : Has F Reg.HOST.ACCESS_ERR := ⟨3335, w, rfl⟩
theorem Has.HOST_R_EN {F} (w : [3339] ⊆ F := by exact subTrans (by assumption) (by decide)) : Has F Reg.HOST.R_EN := ⟨3339, w, rfl⟩
theorem Has.HOST_R_INDEX {F} (w : [3345] ⊆ F := by exact subTrans (by assumption) (by decide)) : Has F Reg.HOST.R_INDEX := ⟨3345, w, rfl⟩
theorem Has.HOST_R_GEN {F} (w : [3346] ⊆ F := by exact subTrans (by assumption) (by decide)) : Has F Reg.HOST.R_GEN := ⟨3346, w, rfl⟩
theorem Has.HOST_R_STALLED {F} (w : [3348] ⊆ F := by exact subTrans (by assumption) (by decide)) : Has F Reg.HOST.R_STALLED := ⟨3348, w, rfl⟩
theorem Has.HOST_R_PENDING {F} (w : [3349] ⊆ F := by exact subTrans (by assumption) (by decide)) : Has F Reg.HOST.R_PENDING := ⟨3349, w, rfl⟩
theorem Has.HOST_R_CONFIG_ERR {F} (w : [3350] ⊆ F := by exact subTrans (by assumption) (by decide)) : Has F Reg.HOST.R_CONFIG_ERR := ⟨3350, w, rfl⟩
theorem Has.HOST_R_STALL_EVT {F} (w : [3351] ⊆ F := by exact subTrans (by assumption) (by decide)) : Has F Reg.HOST.R_STALL_EVT := ⟨3351, w, rfl⟩
theorem Has.HOST_R_PIPE {F} (w : [3353] ⊆ F := by exact subTrans (by assumption) (by decide)) : Has F Reg.HOST.R_PIPE := ⟨3353, w, rfl⟩
theorem Has.HOST_R_COMPLETED {F} (w : [3354] ⊆ F := by exact subTrans (by assumption) (by decide)) : Has F Reg.HOST.R_COMPLETED := ⟨3354, w, rfl⟩
theorem Has.HOST_R_DISCARDS {F} (w : [3355] ⊆ F := by exact subTrans (by assumption) (by decide)) : Has F Reg.HOST.R_DISCARDS := ⟨3355, w, rfl⟩
theorem Has.HOST_D_SRC {F} (w : [3356] ⊆ F := by exact subTrans (by assumption) (by decide)) : Has F Reg.HOST.D_SRC := ⟨3356, w, rfl⟩
theorem Has.HOST_D_DST {F} (w : [3357] ⊆ F := by exact subTrans (by assumption) (by decide)) : Has F Reg.HOST.D_DST := ⟨3357, w, rfl⟩
theorem Has.HOST_D_COUNT {F} (w : [3358] ⊆ F := by exact subTrans (by assumption) (by decide)) : Has F Reg.HOST.D_COUNT := ⟨3358, w, rfl⟩
theorem Has.HOST_D_SRC_W {F} (w : [3359] ⊆ F := by exact subTrans (by assumption) (by decide)) : Has F Reg.HOST.D_SRC_W := ⟨3359, w, rfl⟩
theorem Has.HOST_D_DST_W {F} (w : [3360] ⊆ F := by exact subTrans (by assumption) (by decide)) : Has F Reg.HOST.D_DST_W := ⟨3360, w, rfl⟩
theorem Has.HOST_D_NARROW_OK {F} (w : [3361] ⊆ F := by exact subTrans (by assumption) (by decide)) : Has F Reg.HOST.D_NARROW_OK := ⟨3361, w, rfl⟩
theorem Has.HOST_D_HALF_IE {F} (w : [3362] ⊆ F := by exact subTrans (by assumption) (by decide)) : Has F Reg.HOST.D_HALF_IE := ⟨3362, w, rfl⟩
theorem Has.HOST_D_FULL_IE {F} (w : [3363] ⊆ F := by exact subTrans (by assumption) (by decide)) : Has F Reg.HOST.D_FULL_IE := ⟨3363, w, rfl⟩
theorem Has.HOST_D_STATE {F} (w : [3368] ⊆ F := by exact subTrans (by assumption) (by decide)) : Has F Reg.HOST.D_STATE := ⟨3368, w, rfl⟩
theorem Has.HOST_D_RESULT {F} (w : [3369] ⊆ F := by exact subTrans (by assumption) (by decide)) : Has F Reg.HOST.D_RESULT := ⟨3369, w, rfl⟩
theorem Has.HOST_D_DONE {F} (w : [3370] ⊆ F := by exact subTrans (by assumption) (by decide)) : Has F Reg.HOST.D_DONE := ⟨3370, w, rfl⟩
theorem Has.HOST_D_HALF {F} (w : [3371] ⊆ F := by exact subTrans (by assumption) (by decide)) : Has F Reg.HOST.D_HALF := ⟨3371, w, rfl⟩
theorem Has.HOST_D_OVERLAP_DESC {F} (w : [3372] ⊆ F := by exact subTrans (by assumption) (by decide)) : Has F Reg.HOST.D_OVERLAP_DESC := ⟨3372, w, rfl⟩
theorem Has.HOST_D_WRITE_REJECTED {F} (w : [3373] ⊆ F := by exact subTrans (by assumption) (by decide)) : Has F Reg.HOST.D_WRITE_REJECTED := ⟨3373, w, rfl⟩
theorem Has.HOST_D_BUSY_WRITE {F} (w : [3374] ⊆ F := by exact subTrans (by assumption) (by decide)) : Has F Reg.HOST.D_BUSY_WRITE := ⟨3374, w, rfl⟩
theorem Has.HOST_D_TAKEN {F} (w : [3375] ⊆ F := by exact subTrans (by assumption) (by decide)) : Has F Reg.HOST.D_TAKEN := ⟨3375, w, rfl⟩
theorem Has.HOST_D_RESIDUE {F} (w : [3376] ⊆ F := by exact subTrans (by assumption) (by decide)) : Has F Reg.HOST.D_RESIDUE := ⟨3376, w, rfl⟩
theorem Has.HOST_D_FAIL_ADDR {F} (w : [3377] ⊆ F := by exact subTrans (by assumption) (by decide)) : Has F Reg.HOST.D_FAIL_ADDR := ⟨3377, w, rfl⟩
theorem Has.HOST_D_SH_SRC {F} (w : [3378] ⊆ F := by exact subTrans (by assumption) (by decide)) : Has F Reg.HOST.D_SH_SRC := ⟨3378, w, rfl⟩
theorem Has.HOST_D_SH_DST {F} (w : [3379] ⊆ F := by exact subTrans (by assumption) (by decide)) : Has F Reg.HOST.D_SH_DST := ⟨3379, w, rfl⟩
theorem Has.HOST_D_SH_COUNT {F} (w : [3380] ⊆ F := by exact subTrans (by assumption) (by decide)) : Has F Reg.HOST.D_SH_COUNT := ⟨3380, w, rfl⟩
theorem Has.HOST_D_SH_CFG {F} (w : [3381] ⊆ F := by exact subTrans (by assumption) (by decide)) : Has F Reg.HOST.D_SH_CFG := ⟨3381, w, rfl⟩
theorem Has.HOST_D_SHADOW_VALID {F} (w : [3382] ⊆ F := by exact subTrans (by assumption) (by decide)) : Has F Reg.HOST.D_SHADOW_VALID := ⟨3382, w, rfl⟩
theorem Has.HOST_D_HANDOVERS {F} (w : [3383] ⊆ F := by exact subTrans (by assumption) (by decide)) : Has F Reg.HOST.D_HANDOVERS := ⟨3383, w, rfl⟩
theorem Has.PWR_PHASE {F} (w : [3584] ⊆ F := by exact subTrans (by assumption) (by decide)) : Has F Reg.PWR.PHASE := ⟨3584, w, rfl⟩
theorem Has.PWR_LIMIT {F} (w : [3585] ⊆ F := by exact subTrans (by assumption) (by decide)) : Has F Reg.PWR.LIMIT := ⟨3585, w, rfl⟩
theorem Has.PWR_Q_LIMIT {F} (w : [3586] ⊆ F := by exact subTrans (by assumption) (by decide)) : Has F Reg.PWR.Q_LIMIT := ⟨3586, w, rfl⟩
theorem Has.PWR_T_LIMIT {F} (w : [3587] ⊆ F := by exact subTrans (by assumption) (by decide)) : Has F Reg.PWR.T_LIMIT := ⟨3587, w, rfl⟩
theorem Has.PWR_QUENCH_ACTIVE {F} (w : [3588] ⊆ F := by exact subTrans (by assumption) (by decide)) : Has F Reg.PWR.QUENCH_ACTIVE := ⟨3588, w, rfl⟩
theorem Has.PWR_DISAGREE {F} (w : [3589] ⊆ F := by exact subTrans (by assumption) (by decide)) : Has F Reg.PWR.DISAGREE := ⟨3589, w, rfl⟩
theorem Has.PWR_MEAS_FAIL {F} (w : [3590] ⊆ F := by exact subTrans (by assumption) (by decide)) : Has F Reg.PWR.MEAS_FAIL := ⟨3590, w, rfl⟩
theorem Has.PWR_THERM_LEVEL {F} (w : [3591] ⊆ F := by exact subTrans (by assumption) (by decide)) : Has F Reg.PWR.THERM_LEVEL := ⟨3591, w, rfl⟩
theorem Has.PWR_PFAIL {F} (w : [3592] ⊆ F := by exact subTrans (by assumption) (by decide)) : Has F Reg.PWR.PFAIL := ⟨3592, w, rfl⟩
theorem Has.PWR_PFAIL_DONE {F} (w : [3593] ⊆ F := by exact subTrans (by assumption) (by decide)) : Has F Reg.PWR.PFAIL_DONE := ⟨3593, w, rfl⟩
theorem Has.PWR_QUENCH_BUBBLES {F} (w : [3594] ⊆ F := by exact subTrans (by assumption) (by decide)) : Has F Reg.PWR.QUENCH_BUBBLES := ⟨3594, w, rfl⟩
theorem Has.PWR_PHASE_ERR {F} (w : [3596] ⊆ F := by exact subTrans (by assumption) (by decide)) : Has F Reg.PWR.PHASE_ERR := ⟨3596, w, rfl⟩
theorem Has.PWR_OV_EVT {F} (w : [3597] ⊆ F := by exact subTrans (by assumption) (by decide)) : Has F Reg.PWR.OV_EVT := ⟨3597, w, rfl⟩
theorem Has.PWR_THERM_WARN_EVT {F} (w : [3598] ⊆ F := by exact subTrans (by assumption) (by decide)) : Has F Reg.PWR.THERM_WARN_EVT := ⟨3598, w, rfl⟩
theorem Has.PWR_SENSOR_FAIL_EVT {F} (w : [3599] ⊆ F := by exact subTrans (by assumption) (by decide)) : Has F Reg.PWR.SENSOR_FAIL_EVT := ⟨3599, w, rfl⟩
theorem Has.PWR_QUENCH_EVT {F} (w : [3600] ⊆ F := by exact subTrans (by assumption) (by decide)) : Has F Reg.PWR.QUENCH_EVT := ⟨3600, w, rfl⟩
theorem Has.PWR_LIMIT_EVT {F} (w : [3601] ⊆ F := by exact subTrans (by assumption) (by decide)) : Has F Reg.PWR.LIMIT_EVT := ⟨3601, w, rfl⟩
theorem Has.PWR_PHASE_CHANGES {F} (w : [3607] ⊆ F := by exact subTrans (by assumption) (by decide)) : Has F Reg.PWR.PHASE_CHANGES := ⟨3607, w, rfl⟩
theorem Has.PWR_E_PREF_OP {F} (w : [3611] ⊆ F := by exact subTrans (by assumption) (by decide)) : Has F Reg.PWR.E_PREF_OP := ⟨3611, w, rfl⟩
theorem Has.PWR_E_MIN_OP {F} (w : [3612] ⊆ F := by exact subTrans (by assumption) (by decide)) : Has F Reg.PWR.E_MIN_OP := ⟨3612, w, rfl⟩
theorem Has.PWR_E_VALID {F} (w : [3613] ⊆ F := by exact subTrans (by assumption) (by decide)) : Has F Reg.PWR.E_VALID := ⟨3613, w, rfl⟩
theorem Has.PWR_E_CAP {F} (w : [3614] ⊆ F := by exact subTrans (by assumption) (by decide)) : Has F Reg.PWR.E_CAP := ⟨3614, w, rfl⟩
theorem Has.PWR_E_K {F} (w : [3615] ⊆ F := by exact subTrans (by assumption) (by decide)) : Has F Reg.PWR.E_K := ⟨3615, w, rfl⟩
theorem Has.PWR_E_B_MAX {F} (w : [3616] ⊆ F := by exact subTrans (by assumption) (by decide)) : Has F Reg.PWR.E_B_MAX := ⟨3616, w, rfl⟩
theorem Has.PWR_P_MEAS {F} (w : [3617] ⊆ F := by exact subTrans (by assumption) (by decide)) : Has F Reg.PWR.P_MEAS := ⟨3617, w, rfl⟩
theorem Has.PWR_P_EST {F} (w : [3618] ⊆ F := by exact subTrans (by assumption) (by decide)) : Has F Reg.PWR.P_EST := ⟨3618, w, rfl⟩
theorem Has.PWR_P_USED {F} (w : [3619] ⊆ F := by exact subTrans (by assumption) (by decide)) : Has F Reg.PWR.P_USED := ⟨3619, w, rfl⟩
theorem Has.PWR_P_PEAK {F} (w : [3620] ⊆ F := by exact subTrans (by assumption) (by decide)) : Has F Reg.PWR.P_PEAK := ⟨3620, w, rfl⟩
theorem Has.PWR_L_ENERGY {F} (w : [3621] ⊆ F := by exact subTrans (by assumption) (by decide)) : Has F Reg.PWR.L_ENERGY := ⟨3621, w, rfl⟩
theorem Has.PWR_L_ENERGY_VALID {F} (w : [3622] ⊆ F := by exact subTrans (by assumption) (by decide)) : Has F Reg.PWR.L_ENERGY_VALID := ⟨3622, w, rfl⟩
theorem Has.PWR_RAIL_V {F} (w : [3624] ⊆ F := by exact subTrans (by assumption) (by decide)) : Has F Reg.PWR.RAIL_V := ⟨3624, w, rfl⟩
theorem Has.PWR_RAIL_I {F} (w : [3625] ⊆ F := by exact subTrans (by assumption) (by decide)) : Has F Reg.PWR.RAIL_I := ⟨3625, w, rfl⟩
theorem Has.PWR_TG_LEVEL {F} (w : [3629] ⊆ F := by exact subTrans (by assumption) (by decide)) : Has F Reg.PWR.TG_LEVEL := ⟨3629, w, rfl⟩
theorem Has.PWR_TG_HOTTEST {F} (w : [3630] ⊆ F := by exact subTrans (by assumption) (by decide)) : Has F Reg.PWR.TG_HOTTEST := ⟨3630, w, rfl⟩
theorem Has.PWR_TG_HOT_SENSOR {F} (w : [3631] ⊆ F := by exact subTrans (by assumption) (by decide)) : Has F Reg.PWR.TG_HOT_SENSOR := ⟨3631, w, rfl⟩
theorem Has.PWR_TEMP {F} (w : [3632] ⊆ F := by exact subTrans (by assumption) (by decide)) : Has F Reg.PWR.TEMP := ⟨3632, w, rfl⟩
theorem Has.PWR_FAILED {F} (w : [3633] ⊆ F := by exact subTrans (by assumption) (by decide)) : Has F Reg.PWR.FAILED := ⟨3633, w, rfl⟩
theorem Has.ANVL_VARIANTS_LOADED {F} (w : [3842] ⊆ F := by exact subTrans (by assumption) (by decide)) : Has F Reg.ANVL.VARIANTS_LOADED := ⟨3842, w, rfl⟩
theorem Has.ANVL_SET_ID {F} (w : [3843] ⊆ F := by exact subTrans (by assumption) (by decide)) : Has F Reg.ANVL.SET_ID := ⟨3843, w, rfl⟩
theorem Has.ANVL_ACT_HALTED {F} (w : [3844] ⊆ F := by exact subTrans (by assumption) (by decide)) : Has F Reg.ANVL.ACT_HALTED := ⟨3844, w, rfl⟩
theorem Has.ANVL_PFAIL_COMMIT {F} (w : [3845] ⊆ F := by exact subTrans (by assumption) (by decide)) : Has F Reg.ANVL.PFAIL_COMMIT := ⟨3845, w, rfl⟩
theorem Has.ANVL_MC_CORR {F} (w : [3846] ⊆ F := by exact subTrans (by assumption) (by decide)) : Has F Reg.ANVL.MC_CORR := ⟨3846, w, rfl⟩
theorem Has.ANVL_MC_UNCORR {F} (w : [3847] ⊆ F := by exact subTrans (by assumption) (by decide)) : Has F Reg.ANVL.MC_UNCORR := ⟨3847, w, rfl⟩
theorem Has.ANVL_MS_LOW {F} (w : [3848] ⊆ F := by exact subTrans (by assumption) (by decide)) : Has F Reg.ANVL.MS_LOW := ⟨3848, w, rfl⟩
theorem Has.ANVL_MC_LIST_FULL {F} (w : [3849] ⊆ F := by exact subTrans (by assumption) (by decide)) : Has F Reg.ANVL.MC_LIST_FULL := ⟨3849, w, rfl⟩
theorem Has.ANVL_COVER_MISS {F} (w : [3850] ⊆ F := by exact subTrans (by assumption) (by decide)) : Has F Reg.ANVL.COVER_MISS := ⟨3850, w, rfl⟩
theorem Has.ANVL_ML_UPC {F} (w : [3851] ⊆ F := by exact subTrans (by assumption) (by decide)) : Has F Reg.ANVL.ML_UPC := ⟨3851, w, rfl⟩
theorem Has.ANVL_ML_SECOND {F} (w : [3852] ⊆ F := by exact subTrans (by assumption) (by decide)) : Has F Reg.ANVL.ML_SECOND := ⟨3852, w, rfl⟩
theorem Has.ANVL_ML_REDIRECTED {F} (w : [3853] ⊆ F := by exact subTrans (by assumption) (by decide)) : Has F Reg.ANVL.ML_REDIRECTED := ⟨3853, w, rfl⟩
theorem Has.ANVL_ML_ACTIVITY {F} (w : [3854] ⊆ F := by exact subTrans (by assumption) (by decide)) : Has F Reg.ANVL.ML_ACTIVITY := ⟨3854, w, rfl⟩
theorem Has.ANVL_ML_VALID {F} (w : [3855] ⊆ F := by exact subTrans (by assumption) (by decide)) : Has F Reg.ANVL.ML_VALID := ⟨3855, w, rfl⟩
theorem Has.ANVL_MC_COUNT {F} (w : [3856] ⊆ F := by exact subTrans (by assumption) (by decide)) : Has F Reg.ANVL.MC_COUNT := ⟨3856, w, rfl⟩
theorem Has.ANVL_TRAPS {F} (w : [3857] ⊆ F := by exact subTrans (by assumption) (by decide)) : Has F Reg.ANVL.TRAPS := ⟨3857, w, rfl⟩
theorem Has.ANVL_REDIRECT_USED {F} (w : [3858] ⊆ F := by exact subTrans (by assumption) (by decide)) : Has F Reg.ANVL.REDIRECT_USED := ⟨3858, w, rfl⟩
theorem Has.ANVL_SHARE {F} (w : [3859] ⊆ F := by exact subTrans (by assumption) (by decide)) : Has F Reg.ANVL.SHARE := ⟨3859, w, rfl⟩
theorem Has.ANVL_PLANISH_MS {F} (w : [3861] ⊆ F := by exact subTrans (by assumption) (by decide)) : Has F Reg.ANVL.PLANISH_MS := ⟨3861, w, rfl⟩
theorem Has.ANVL_ASE_PASS_US {F} (w : [3862] ⊆ F := by exact subTrans (by assumption) (by decide)) : Has F Reg.ANVL.ASE_PASS_US := ⟨3862, w, rfl⟩
theorem Has.ANVL_FLUSH_PASS_US {F} (w : [3863] ⊆ F := by exact subTrans (by assumption) (by decide)) : Has F Reg.ANVL.FLUSH_PASS_US := ⟨3863, w, rfl⟩
theorem Has.ANVL_SCRUB_CORR {F} (w : [3864] ⊆ F := by exact subTrans (by assumption) (by decide)) : Has F Reg.ANVL.SCRUB_CORR := ⟨3864, w, rfl⟩
theorem Has.ANVL_SCRUB_UNCORR {F} (w : [3865] ⊆ F := by exact subTrans (by assumption) (by decide)) : Has F Reg.ANVL.SCRUB_UNCORR := ⟨3865, w, rfl⟩
theorem Has.ANVL_MS_WRITES {F} (w : [3868] ⊆ F := by exact subTrans (by assumption) (by decide)) : Has F Reg.ANVL.MS_WRITES := ⟨3868, w, rfl⟩
theorem Has.ANVL_SELECTED {F} (w : [3870] ⊆ F := by exact subTrans (by assumption) (by decide)) : Has F Reg.ANVL.SELECTED := ⟨3870, w, rfl⟩
theorem Has.FLT_WORST {F} (w : [4096] ⊆ F := by exact subTrans (by assumption) (by decide)) : Has F Reg.FLT.WORST := ⟨4096, w, rfl⟩
theorem Has.FLT_FIRST_VALID {F} (w : [4097] ⊆ F := by exact subTrans (by assumption) (by decide)) : Has F Reg.FLT.FIRST_VALID := ⟨4097, w, rfl⟩
theorem Has.FLT_FAULT_ACTIVE {F} (w : [4098] ⊆ F := by exact subTrans (by assumption) (by decide)) : Has F Reg.FLT.FAULT_ACTIVE := ⟨4098, w, rfl⟩
theorem Has.FLT_ALIVE_STOPPED {F} (w : [4099] ⊆ F := by exact subTrans (by assumption) (by decide)) : Has F Reg.FLT.ALIVE_STOPPED := ⟨4099, w, rfl⟩
theorem Has.FLT_MODULE_SAFE {F} (w : [4100] ⊆ F := by exact subTrans (by assumption) (by decide)) : Has F Reg.FLT.MODULE_SAFE := ⟨4100, w, rfl⟩
theorem Has.FLT_INT_PENDING {F} (w : [4101] ⊆ F := by exact subTrans (by assumption) (by decide)) : Has F Reg.FLT.INT_PENDING := ⟨4101, w, rfl⟩
theorem Has.FLT_INJ_REFUSED {F} (w : [4102] ⊆ F := by exact subTrans (by assumption) (by decide)) : Has F Reg.FLT.INJ_REFUSED := ⟨4102, w, rfl⟩
theorem Has.FLT_LOST {F} (w : [4111] ⊆ F := by exact subTrans (by assumption) (by decide)) : Has F Reg.FLT.LOST := ⟨4111, w, rfl⟩
theorem Has.FLT_EVR_LOST {F} (w : [4112] ⊆ F := by exact subTrans (by assumption) (by decide)) : Has F Reg.FLT.EVR_LOST := ⟨4112, w, rfl⟩
theorem Has.FLT_FLOG_LOST {F} (w : [4113] ⊆ F := by exact subTrans (by assumption) (by decide)) : Has F Reg.FLT.FLOG_LOST := ⟨4113, w, rfl⟩
theorem Has.FLT_SEQ {F} (w : [4114] ⊆ F := by exact subTrans (by assumption) (by decide)) : Has F Reg.FLT.SEQ := ⟨4114, w, rfl⟩
theorem Has.FLT_HIST_HEAD {F} (w : [4115] ⊆ F := by exact subTrans (by assumption) (by decide)) : Has F Reg.FLT.HIST_HEAD := ⟨4115, w, rfl⟩
theorem Has.FLT_HIST_COUNT {F} (w : [4116] ⊆ F := by exact subTrans (by assumption) (by decide)) : Has F Reg.FLT.HIST_COUNT := ⟨4116, w, rfl⟩
theorem Has.FLT_FIRST {F} (w : [4119] ⊆ F := by exact subTrans (by assumption) (by decide)) : Has F Reg.FLT.FIRST := ⟨4119, w, rfl⟩
theorem Has.FLT_PORT_SAFE {F} (w : [4120] ⊆ F := by exact subTrans (by assumption) (by decide)) : Has F Reg.FLT.PORT_SAFE := ⟨4120, w, rfl⟩
theorem Has.FLT_HIST {F} (w : [4121] ⊆ F := by exact subTrans (by assumption) (by decide)) : Has F Reg.FLT.HIST := ⟨4121, w, rfl⟩
theorem Has.FLT_S_EVENTS {F} (w : [4136] ⊆ F := by exact subTrans (by assumption) (by decide)) : Has F Reg.FLT.S_EVENTS := ⟨4136, w, rfl⟩
theorem Has.FLT_S_SUPPRESSED {F} (w : [4137] ⊆ F := by exact subTrans (by assumption) (by decide)) : Has F Reg.FLT.S_SUPPRESSED := ⟨4137, w, rfl⟩
theorem Has.MIL_RESULT {F} (w : [4363] ⊆ F := by exact subTrans (by assumption) (by decide)) : Has F Reg.MIL.RESULT := ⟨4363, w, rfl⟩
theorem Has.MIL_LAST_COMMAND {F} (w : [4364] ⊆ F := by exact subTrans (by assumption) (by decide)) : Has F Reg.MIL.LAST_COMMAND := ⟨4364, w, rfl⟩
theorem Has.MIL_DONE {F} (w : [4365] ⊆ F := by exact subTrans (by assumption) (by decide)) : Has F Reg.MIL.DONE := ⟨4365, w, rfl⟩
theorem Has.ASY_STATE {F} (w : [4612] ⊆ F := by exact subTrans (by assumption) (by decide)) : Has F Reg.ASY.STATE := ⟨4612, w, rfl⟩
theorem Has.ASY_REFUSAL {F} (w : [4613] ⊆ F := by exact subTrans (by assumption) (by decide)) : Has F Reg.ASY.REFUSAL := ⟨4613, w, rfl⟩
theorem Has.ASY_CURRENT {F} (w : [4614] ⊆ F := by exact subTrans (by assumption) (by decide)) : Has F Reg.ASY.CURRENT := ⟨4614, w, rfl⟩
theorem Has.ASY_DONE {F} (w : [4615] ⊆ F := by exact subTrans (by assumption) (by decide)) : Has F Reg.ASY.DONE := ⟨4615, w, rfl⟩
theorem Has.ASY_ABORTED {F} (w : [4616] ⊆ F := by exact subTrans (by assumption) (by decide)) : Has F Reg.ASY.ABORTED := ⟨4616, w, rfl⟩
theorem Has.ASY_WORST_PPM {F} (w : [4617] ⊆ F := by exact subTrans (by assumption) (by decide)) : Has F Reg.ASY.WORST_PPM := ⟨4617, w, rfl⟩
theorem Has.ASY_WORST_CLK {F} (w : [4618] ⊆ F := by exact subTrans (by assumption) (by decide)) : Has F Reg.ASY.WORST_CLK := ⟨4618, w, rfl⟩
theorem Has.ASY_LBUF {F} (w : [4619] ⊆ F := by exact subTrans (by assumption) (by decide)) : Has F Reg.ASY.LBUF := ⟨4619, w, rfl⟩
theorem Has.ASY_LBUF_VALID {F} (w : [4620] ⊆ F := by exact subTrans (by assumption) (by decide)) : Has F Reg.ASY.LBUF_VALID := ⟨4620, w, rfl⟩
theorem Has.ASY_FAILS {F} (w : [4621] ⊆ F := by exact subTrans (by assumption) (by decide)) : Has F Reg.ASY.FAILS := ⟨4621, w, rfl⟩
theorem Has.ASY_REPAIRED {F} (w : [4622] ⊆ F := by exact subTrans (by assumption) (by decide)) : Has F Reg.ASY.REPAIRED := ⟨4622, w, rfl⟩
theorem Has.ASY_UNREPAIRED {F} (w : [4623] ⊆ F := by exact subTrans (by assumption) (by decide)) : Has F Reg.ASY.UNREPAIRED := ⟨4623, w, rfl⟩
theorem Has.ASY_SPARES_LEFT {F} (w : [4624] ⊆ F := by exact subTrans (by assumption) (by decide)) : Has F Reg.ASY.SPARES_LEFT := ⟨4624, w, rfl⟩
theorem Has.GLB_RESULT_FIRST {F} (w : [4867] ⊆ F := by exact subTrans (by assumption) (by decide)) : Has F Reg.GLB.RESULT_FIRST := ⟨4867, w, rfl⟩
theorem Has.GLB_RESULT_SECOND {F} (w : [4868] ⊆ F := by exact subTrans (by assumption) (by decide)) : Has F Reg.GLB.RESULT_SECOND := ⟨4868, w, rfl⟩
theorem Has.GLB_FIRST_BANK {F} (w : [4869] ⊆ F := by exact subTrans (by assumption) (by decide)) : Has F Reg.GLB.FIRST_BANK := ⟨4869, w, rfl⟩
theorem Has.GLB_WAIT_HOST {F} (w : [4870] ⊆ F := by exact subTrans (by assumption) (by decide)) : Has F Reg.GLB.WAIT_HOST := ⟨4870, w, rfl⟩
theorem Has.GLB_LANES_READY {F} (w : [4871] ⊆ F := by exact subTrans (by assumption) (by decide)) : Has F Reg.GLB.LANES_READY := ⟨4871, w, rfl⟩
theorem Has.GLB_STEP {F} (w : [4872] ⊆ F := by exact subTrans (by assumption) (by decide)) : Has F Reg.GLB.STEP := ⟨4872, w, rfl⟩
theorem Has.GLB_TARGET {F} (w : [4876] ⊆ F := by exact subTrans (by assumption) (by decide)) : Has F Reg.GLB.TARGET := ⟨4876, w, rfl⟩
theorem Has.GLB_BUSY {F} (w : [4879] ⊆ F := by exact subTrans (by assumption) (by decide)) : Has F Reg.GLB.BUSY := ⟨4879, w, rfl⟩
theorem Has.GLB_IGNORED {F} (w : [4880] ⊆ F := by exact subTrans (by assumption) (by decide)) : Has F Reg.GLB.IGNORED := ⟨4880, w, rfl⟩
theorem Has.GLB_PIN_LEVEL {F} (w : [4881] ⊆ F := by exact subTrans (by assumption) (by decide)) : Has F Reg.GLB.PIN_LEVEL := ⟨4881, w, rfl⟩
theorem Has.GLB_PIN_STUCK {F} (w : [4882] ⊆ F := by exact subTrans (by assumption) (by decide)) : Has F Reg.GLB.PIN_STUCK := ⟨4882, w, rfl⟩
theorem Has.GLB_PIN_STUCK_EVT {F} (w : [4883] ⊆ F := by exact subTrans (by assumption) (by decide)) : Has F Reg.GLB.PIN_STUCK_EVT := ⟨4883, w, rfl⟩
theorem Has.GLB_PIN_GLITCHES {F} (w : [4884] ⊆ F := by exact subTrans (by assumption) (by decide)) : Has F Reg.GLB.PIN_GLITCHES := ⟨4884, w, rfl⟩
theorem Has.GLB_PIN_EXCESS {F} (w : [4885] ⊆ F := by exact subTrans (by assumption) (by decide)) : Has F Reg.GLB.PIN_EXCESS := ⟨4885, w, rfl⟩
theorem Has.GLB_INT_EN {F} (w : [4906] ⊆ F := by exact subTrans (by assumption) (by decide)) : Has F Reg.GLB.INT_EN := ⟨4906, w, rfl⟩
theorem Has.GLB_PENDING {F} (w : [4907] ⊆ F := by exact subTrans (by assumption) (by decide)) : Has F Reg.GLB.PENDING := ⟨4907, w, rfl⟩

end Sys2Proof.Machine
end

