-- ==== Sys2Proof/Laws/WritesCore.lean ====
section
/-!
SUPPORT. What the operations of the core, power, Anvil, the rings and Loupe write: one lemma for each.
-/
namespace Sys2Proof.Machine
set_option Elab.async false

/-! ### Machine/Ops.lean -/

theorem State.setB_writes {F s x} {a1 a2 a3 a4} (f1 : Has F a1) (h : Writes F s x) :
    Writes F s (State.setB x a1 a2 a3 a4) := by
  unfold State.setB
  repeat' first
    | with_reducible assumption
    | intro _ _
    | intro _
    | with_reducible apply State.set_writes

theorem State.add_writes {F s x} {a1 a2 a3 a4} (f1 : Has F a1) (h : Writes F s x) :
    Writes F s (State.add x a1 a2 a3 a4) := by
  unfold State.add
  repeat' first
    | with_reducible assumption
    | intro _ _
    | intro _
    | with_reducible apply State.set_writes

theorem State.inc_writes {F s x} {a1 a2 a3} (f1 : Has F a1) (h : Writes F s x) : Writes F s (State.inc x a1 a2 a3) := by
  unfold State.inc
  repeat' first
    | with_reducible assumption
    | intro _ _
    | intro _
    | with_reducible apply State.add_writes

theorem State.incWrap_writes {F s x} {a1 a2 a3} (f1 : Has F a1) (h : Writes F s x) :
    Writes F s (State.incWrap x a1 a2 a3) := by
  unfold State.incWrap
  repeat' first
    | with_reducible assumption
    | intro _ _
    | intro _
    | with_reducible apply State.set_writes

theorem State.setBit_writes {F s x} {a1 a2 a3 a4} (f1 : Has F a1) (h : Writes F s x) :
    Writes F s (State.setBit x a1 a2 a3 a4) := by
  unfold State.setBit
  repeat' first
    | with_reducible assumption
    | intro _ _
    | intro _
    | with_reducible apply State.set_writes

theorem State.clearBit_writes {F s x} {a1 a2 a3 a4} (f1 : Has F a1) (h : Writes F s x) :
    Writes F s (State.clearBit x a1 a2 a3 a4) := by
  unfold State.clearBit
  repeat' first
    | with_reducible assumption
    | intro _ _
    | intro _
    | with_reducible apply State.set_writes

theorem State.injTake_writes {F s x} {a1 a2} (h : Writes F s x) : Writes F s (State.injTake x a1 a2) := by
  unfold State.injTake
  repeat' first
    | with_reducible assumption
    | intro _ _
    | intro _
    | with_reducible apply Writes.choose
    | split
    | dsimp only
    | with_reducible apply Writes.upd

theorem State.injClear_writes {F s x} {a1 a2} (h : Writes F s x) : Writes F s (State.injClear x a1 a2) := by
  unfold State.injClear
  repeat' first
    | with_reducible assumption
    | intro _ _
    | intro _
    | split
    | dsimp only
    | with_reducible apply Writes.upd

theorem State.memSet_writes {F s x} {a1 a2 a3} (h : Writes F s x) : Writes F s (State.memSet x a1 a2 a3) := by
  unfold State.memSet
  repeat' first
    | with_reducible assumption
    | intro _ _
    | intro _
    | with_reducible apply State.injTake_writes
    | split
    | dsimp only
    | with_reducible apply Writes.upd

theorem State.memStore_writes {F s x} {a1 a2} (h : Writes F s x) : Writes F s (State.memStore x a1 a2) := by
  unfold State.memStore
  repeat' first
    | with_reducible assumption
    | intro _ _
    | intro _
    | with_reducible apply State.injTake_writes
    | split
    | dsimp only
    | with_reducible apply Writes.upd

theorem State.memZero_writes {F s x} {a1 a2} (h : Writes F s x) : Writes F s (State.memZero x a1 a2) := by
  unfold State.memZero
  repeat' first
    | with_reducible assumption
    | intro _ _
    | intro _
    | split
    | dsimp only
    | with_reducible apply Writes.upd

theorem State.emit_writes {F s x} {a1} (h : Writes F s x) : Writes F s (State.emit x a1) := by
  unfold State.emit
  repeat' first
    | with_reducible assumption
    | intro _ _
    | intro _
    | split
    | dsimp only
    | with_reducible apply Writes.upd

theorem State.draw_writes {F s x} (h : Writes F s x) : Writes F s (State.draw x) := by
  unfold State.draw
  repeat' first
    | with_reducible assumption
    | intro _ _
    | intro _
    | split
    | dsimp only
    | with_reducible apply Writes.upd

theorem State.viaHost_writes {F s x} {a1 a2} (h2 : ∀ y, Writes F s y → Writes F s (a2 y)) (h : Writes F s x) :
    Writes F s (State.viaHost x a1 a2) := by
  unfold State.viaHost
  repeat' first
    | with_reducible assumption
    | intro _ _
    | intro _
    | apply h2
    | with_reducible apply Writes.choose

/-! ### Machine/Flags.lean -/

theorem State.msixEmit_writes {F s x} {a1} (h : Writes F s x) : Writes F s (State.msixEmit x a1) := by
  unfold State.msixEmit
  repeat' first
    | with_reducible assumption
    | intro _ _
    | intro _
    | with_reducible apply State.emit_writes

theorem State.msixSend_writes {F s x} {a1} (h : Writes F s x) : Writes F s (State.msixSend x a1) := by
  unfold State.msixSend
  repeat' first
    | with_reducible assumption
    | intro _ _
    | intro _
    | with_reducible apply Writes.choose
    | with_reducible apply State.msixEmit_writes
    | split
    | dsimp only
    | with_reducible apply Writes.upd

theorem State.msixRelease_writes {F s x} {a1} (h : Writes F s x) : Writes F s (State.msixRelease x a1) := by
  unfold State.msixRelease
  repeat' first
    | with_reducible assumption
    | intro _ _
    | intro _
    | with_reducible apply Writes.choose
    | with_reducible apply State.msixEmit_writes
    | split
    | dsimp only
    | with_reducible apply Writes.upd

theorem State.msixReleaseAll_writes {F s x} (h : Writes F s x) : Writes F s (State.msixReleaseAll x) := by
  unfold State.msixReleaseAll
  repeat' first
    | with_reducible assumption
    | intro _ _
    | intro _
    | with_reducible apply Writes.upTo
    | with_reducible apply State.msixRelease_writes

theorem State.glbPend_writes {F s x} (h : Writes F s x) (w : [4907] ⊆ F := by exact subTrans (by assumption) (by decide)) :
    Writes F s (State.glbPend x) := by
  unfold State.glbPend
  repeat' first
    | with_reducible assumption
    | exact subTrans w (by decide)
    | intro _ _
    | intro _
    | with_reducible apply Writes.choose
    | with_reducible apply State.setB_writes
    | with_reducible apply State.msixSend_writes
    | with_reducible exact Has.GLB_PENDING (subTrans w (by decide))

theorem State.glbRaise_writes {F s x} {a1} (h : Writes F s x) (w : [4907] ⊆ F := by exact subTrans (by assumption) (by decide)) :
    Writes F s (State.glbRaise x a1) := by
  unfold State.glbRaise
  repeat' first
    | with_reducible assumption
    | exact subTrans w (by decide)
    | intro _ _
    | intro _
    | with_reducible apply Writes.choose
    | with_reducible apply State.glbPend_writes

theorem State.event_writes {F s x} {a1 a2 a3 a4} (f1 : Has F a1)
    (h : Writes F s x) (w : [4907] ⊆ F := by exact subTrans (by assumption) (by decide)) :
    Writes F s (State.event x a1 a2 a3 a4) := by
  unfold State.event
  repeat' first
    | with_reducible assumption
    | exact subTrans w (by decide)
    | intro _ _
    | intro _
    | with_reducible apply Writes.choose
    | with_reducible apply State.when_writes
    | with_reducible apply State.setB_writes
    | with_reducible apply State.when_writes
    | with_reducible apply State.glbRaise_writes

theorem State.eventBit_writes {F s x} {a1 a2 a3 a4} (f1 : Has F a1)
    (h : Writes F s x) (w : [4907] ⊆ F := by exact subTrans (by assumption) (by decide)) :
    Writes F s (State.eventBit x a1 a2 a3 a4) := by
  unfold State.eventBit
  repeat' first
    | with_reducible assumption
    | exact subTrans w (by decide)
    | intro _ _
    | intro _
    | with_reducible apply Writes.choose
    | with_reducible apply State.when_writes
    | with_reducible apply State.setBit_writes
    | with_reducible apply State.when_writes
    | with_reducible apply State.glbRaise_writes

theorem State.pwrEvent_writes {F s x} {a1} (f1 : Has F a1)
    (h : Writes F s x) (w : [4907] ⊆ F := by exact subTrans (by assumption) (by decide)) :
    Writes F s (State.pwrEvent x a1) := by
  unfold State.pwrEvent
  repeat' first
    | with_reducible assumption
    | exact subTrans w (by decide)
    | intro _ _
    | intro _
    | with_reducible apply State.event_writes

theorem State.timeEvent_writes {F s x} {a1} (f1 : Has F a1)
    (h : Writes F s x) (w : [4907] ⊆ F := by exact subTrans (by assumption) (by decide)) :
    Writes F s (State.timeEvent x a1) := by
  unfold State.timeEvent
  repeat' first
    | with_reducible assumption
    | exact subTrans w (by decide)
    | intro _ _
    | intro _
    | with_reducible apply State.event_writes

theorem State.hostEvent_writes {F s x} {a1} (f1 : Has F a1)
    (h : Writes F s x) (w : [4907] ⊆ F := by exact subTrans (by assumption) (by decide)) :
    Writes F s (State.hostEvent x a1) := by
  unfold State.hostEvent
  repeat' first
    | with_reducible assumption
    | exact subTrans w (by decide)
    | intro _ _
    | intro _
    | with_reducible apply State.event_writes

theorem State.portEvent_writes {F s x} {a1 a2 a3} (f1 : Has F a1)
    (h : Writes F s x) (w : [4907] ⊆ F := by exact subTrans (by assumption) (by decide)) :
    Writes F s (State.portEvent x a1 a2 a3) := by
  unfold State.portEvent
  repeat' first
    | with_reducible assumption
    | exact subTrans w (by decide)
    | intro _ _
    | intro _
    | with_reducible apply State.event_writes

theorem State.fault_writes {F s x} {a1 a2 a3} (h : Writes F s x) : Writes F s (State.fault x a1 a2 a3) := by
  unfold State.fault
  repeat' first
    | with_reducible assumption
    | intro _ _
    | intro _
    | split
    | dsimp only
    | with_reducible apply Writes.upd

theorem State.faultInjected_writes {F s x} {a1 a2 a3} (h : Writes F s x) : Writes F s (State.faultInjected x a1 a2 a3) := by
  unfold State.faultInjected
  repeat' first
    | with_reducible assumption
    | intro _ _
    | intro _
    | split
    | dsimp only
    | with_reducible apply Writes.upd

/-! ### Machine/ConfigWords.lean -/

theorem State.cfgStore_writes {F s x} {a1 a2} (h : Writes F s x) : Writes F s (State.cfgStore x a1 a2) := by
  unfold State.cfgStore
  repeat' first
    | with_reducible assumption
    | intro _ _
    | intro _
    | split
    | dsimp only
    | with_reducible apply Writes.upd

/-! ### Machine/Power.lean -/

theorem State.setTrim_writes {F s x} {a1 a2} (h : Writes F s x) (w : [7, 8] ⊆ F := by exact subTrans (by assumption) (by decide)) :
    Writes F s (State.setTrim x a1 a2) := by
  unfold State.setTrim
  repeat' first
    | with_reducible assumption
    | exact subTrans w (by decide)
    | intro _ _
    | intro _
    | with_reducible apply Writes.choose
    | with_reducible apply State.set_writes
    | with_reducible exact Has.CORE_TRIM (subTrans w (by decide))
    | with_reducible exact Has.CORE_V_SET (subTrans w (by decide))
    | split
    | dsimp only
    | with_reducible apply Writes.upd

theorem State.refreshRow_writes {F s x} (h : Writes F s x) (w : [6, 7, 8] ⊆ F := by exact subTrans (by assumption) (by decide)) :
    Writes F s (State.refreshRow x) := by
  unfold State.refreshRow
  repeat' first
    | with_reducible assumption
    | exact subTrans w (by decide)
    | intro _ _
    | intro _
    | with_reducible apply State.set_writes
    | with_reducible apply State.setTrim_writes
    | with_reducible exact Has.CORE_V_BASE (subTrans w (by decide))

theorem State.loopStep_writes {F s x} {a1} (h : Writes F s x) (w : [7, 8, 15, 16, 17] ⊆ F := by exact subTrans (by assumption) (by decide)) :
    Writes F s (State.loopStep x a1) := by
  unfold State.loopStep
  repeat' first
    | with_reducible assumption
    | exact subTrans w (by decide)
    | intro _ _
    | intro _
    | with_reducible apply Writes.choose
    | with_reducible apply State.setB_writes
    | with_reducible apply State.inc_writes
    | with_reducible apply State.fault_writes
    | with_reducible apply State.setTrim_writes
    | with_reducible exact Has.CORE_FLOOR_MISS (subTrans w (by decide))
    | with_reducible exact Has.CORE_TRIM_LIMIT_HIT (subTrans w (by decide))
    | with_reducible exact Has.CORE_MISS_WINDOWS (subTrans w (by decide))
    | split
    | dsimp only
    | with_reducible apply Writes.upd

theorem State.loopEval_writes {F s x}
    (h : Writes F s x) (w : [7, 8, 15, 16, 17, 24, 25] ⊆ F := by exact subTrans (by assumption) (by decide)) :
    Writes F s (State.loopEval x) := by
  unfold State.loopEval
  repeat' first
    | with_reducible assumption
    | exact subTrans w (by decide)
    | intro _ _
    | intro _
    | with_reducible apply Writes.choose
    | with_reducible apply State.set_writes
    | with_reducible apply State.loopStep_writes
    | with_reducible exact Has.CORE_MIN_COUNT (subTrans w (by decide))
    | with_reducible exact Has.CORE_MIN_INDEX (subTrans w (by decide))
    | split

theorem State.aseWindow_writes {F s x} (h : Writes F s x) (w : [1834, 1835, 1836] ⊆ F := by exact subTrans (by assumption) (by decide)) :
    Writes F s (State.aseWindow x) := by
  unfold State.aseWindow
  repeat' first
    | with_reducible assumption
    | exact subTrans w (by decide)
    | intro _ _
    | intro _
    | with_reducible apply Writes.choose
    | with_reducible apply State.when_writes
    | with_reducible apply Writes.foldl
    | with_reducible apply Writes.foldl_snd
    | with_reducible apply Writes.foldl_fst
    | with_reducible apply Writes.foldl_third
    | with_reducible apply Writes.upTo
    | with_reducible apply State.set_writes
    | with_reducible apply State.inc_writes
    | with_reducible apply State.when_writes
    | with_reducible exact Has.ASE_P_OVERLOAD (subTrans w (by decide))
    | with_reducible exact Has.ASE_P_PEAK_BANK (subTrans w (by decide))
    | with_reducible exact Has.ASE_P_PEAK_LOAD (subTrans w (by decide))
    | split
    | dsimp only
    | with_reducible apply Writes.upd

theorem State.trmWindow_writes {F s x} {a1 a2 a3}
    (h : Writes F s x) (w : [7, 8, 15, 16, 17, 24, 25, 29, 30, 31, 32, 33, 1834, 1835, 1836] ⊆ F := by exact subTrans (by assumption) (by decide)) :
    Writes F s (State.trmWindow x a1 a2 a3) := by
  unfold State.trmWindow
  repeat' first
    | with_reducible assumption
    | exact subTrans w (by decide)
    | intro _ _
    | intro _
    | with_reducible apply Writes.choose
    | with_reducible apply State.when_writes
    | with_reducible apply State.set_writes
    | with_reducible apply State.setB_writes
    | with_reducible apply State.when_writes
    | with_reducible apply State.draw_writes
    | with_reducible apply State.fault_writes
    | with_reducible apply State.loopEval_writes
    | with_reducible apply State.aseWindow_writes
    | with_reducible exact Has.CORE_TRM_COUNT (subTrans w (by decide))
    | with_reducible exact Has.CORE_TRM_REPLICA (subTrans w (by decide))
    | with_reducible exact Has.CORE_TRM_LCORE (subTrans w (by decide))
    | with_reducible exact Has.CORE_SKIPPED (subTrans w (by decide))
    | with_reducible exact Has.CORE_TRM_LOW (subTrans w (by decide))
    | split
    | dsimp only
    | with_reducible apply Writes.upd

theorem State.vcoreSeen_writes {F s x} {a1} (h : Writes F s x) : Writes F s (State.vcoreSeen x a1) := by
  unfold State.vcoreSeen
  repeat' first
    | with_reducible assumption
    | intro _ _
    | intro _
    | with_reducible apply Writes.choose
    | split
    | dsimp only
    | with_reducible apply Writes.upd

theorem State.droopSeen_writes {F s x} {a1 a2} (h : Writes F s x) (w : [21] ⊆ F := by exact subTrans (by assumption) (by decide)) :
    Writes F s (State.droopSeen x a1 a2) := by
  unfold State.droopSeen
  repeat' first
    | with_reducible assumption
    | exact subTrans w (by decide)
    | intro _ _
    | intro _
    | with_reducible apply Writes.choose
    | with_reducible apply State.inc_writes
    | with_reducible apply State.vcoreSeen_writes
    | with_reducible exact Has.CORE_DROOP_EVENTS (subTrans w (by decide))
    | split
    | dsimp only
    | with_reducible apply Writes.upd

theorem State.droopEnd_writes {F s x} {a1} (h : Writes F s x) : Writes F s (State.droopEnd x a1) := by
  unfold State.droopEnd
  repeat' first
    | with_reducible assumption
    | intro _ _
    | intro _
    | with_reducible apply Writes.choose
    | split
    | dsimp only
    | with_reducible apply Writes.upd

theorem State.slotUse_writes {F s x} {a1} (h : Writes F s x) : Writes F s (State.slotUse x a1) := by
  unfold State.slotUse
  repeat' first
    | with_reducible assumption
    | intro _ _
    | intro _
    | with_reducible apply Writes.choose
    | split
    | dsimp only
    | with_reducible apply Writes.upd

theorem State.moveTo_writes {F s x} {a1} (h : Writes F s x) (w : [1, 2] ⊆ F := by exact subTrans (by assumption) (by decide)) :
    Writes F s (State.moveTo x a1) := by
  unfold State.moveTo
  repeat' first
    | with_reducible assumption
    | exact subTrans w (by decide)
    | intro _ _
    | intro _
    | with_reducible apply Writes.choose
    | with_reducible apply State.set_writes
    | with_reducible apply State.setB_writes
    | with_reducible exact Has.CORE_TGT_OP (subTrans w (by decide))
    | with_reducible exact Has.CORE_IN_TRANSITION (subTrans w (by decide))
    | split
    | dsimp only
    | with_reducible apply Writes.upd

theorem State.retarget_writes {F s x} (h : Writes F s x) (w : [1, 2, 3585, 3601, 4907] ⊆ F := by exact subTrans (by assumption) (by decide)) :
    Writes F s (State.retarget x) := by
  unfold State.retarget
  repeat' first
    | with_reducible assumption
    | exact subTrans w (by decide)
    | intro _ _
    | intro _
    | with_reducible apply State.when_writes
    | with_reducible apply Writes.foldl
    | with_reducible apply Writes.foldl_snd
    | with_reducible apply Writes.foldl_fst
    | with_reducible apply Writes.foldl_third
    | with_reducible apply State.set_writes
    | with_reducible apply State.when_writes
    | with_reducible apply State.pwrEvent_writes
    | with_reducible apply State.moveTo_writes
    | with_reducible exact Has.PWR_LIMIT (subTrans w (by decide))
    | with_reducible exact Has.PWR_LIMIT_EVT (subTrans w (by decide))

theorem State.assayEnd_writes {F s x}
    (h : Writes F s x) (w : [1, 2, 258, 3585, 3601, 4612, 4615, 4907] ⊆ F := by exact subTrans (by assumption) (by decide)) :
    Writes F s (State.assayEnd x) := by
  unfold State.assayEnd
  repeat' first
    | with_reducible assumption
    | exact subTrans w (by decide)
    | intro _ _
    | intro _
    | with_reducible apply State.set_writes
    | with_reducible apply State.setB_writes
    | with_reducible apply State.event_writes
    | with_reducible apply State.retarget_writes
    | with_reducible exact Has.IMG_READY (subTrans w (by decide))
    | with_reducible exact Has.ASY_STATE (subTrans w (by decide))
    | with_reducible exact Has.ASY_DONE (subTrans w (by decide))
    | split
    | dsimp only
    | with_reducible apply Writes.upd

theorem State.assayStop_writes {F s x} {a1}
    (h : Writes F s x) (w : [1, 2, 258, 3585, 3601, 4612, 4613, 4615, 4616, 4907] ⊆ F := by exact subTrans (by assumption) (by decide)) :
    Writes F s (State.assayStop x a1) := by
  unfold State.assayStop
  repeat' first
    | with_reducible assumption
    | exact subTrans w (by decide)
    | intro _ _
    | intro _
    | with_reducible apply Writes.choose
    | with_reducible apply State.set_writes
    | with_reducible apply State.setB_writes
    | with_reducible apply State.assayEnd_writes
    | with_reducible exact Has.ASY_REFUSAL (subTrans w (by decide))
    | with_reducible exact Has.ASY_ABORTED (subTrans w (by decide))

theorem State.assayWatch_writes {F s x}
    (h : Writes F s x) (w : [1, 2, 258, 3585, 3601, 4612, 4613, 4615, 4616, 4907] ⊆ F := by exact subTrans (by assumption) (by decide)) :
    Writes F s (State.assayWatch x) := by
  unfold State.assayWatch
  repeat' first
    | with_reducible assumption
    | exact subTrans w (by decide)
    | intro _ _
    | intro _
    | with_reducible apply State.when_writes
    | with_reducible apply State.when_writes
    | with_reducible apply State.assayStop_writes

theorem State.opSettled_writes {F s x} {a1} (h : Writes F s x) (w : [0, 2, 6, 7, 8] ⊆ F := by exact subTrans (by assumption) (by decide)) :
    Writes F s (State.opSettled x a1) := by
  unfold State.opSettled
  repeat' first
    | with_reducible assumption
    | exact subTrans w (by decide)
    | intro _ _
    | intro _
    | with_reducible apply Writes.choose
    | with_reducible apply State.set_writes
    | with_reducible apply State.setB_writes
    | with_reducible apply State.refreshRow_writes
    | with_reducible exact Has.CORE_CUR_OP (subTrans w (by decide))
    | with_reducible exact Has.CORE_IN_TRANSITION (subTrans w (by decide))
    | split
    | dsimp only
    | with_reducible apply Writes.upd

theorem State.phaseApply_writes {F s x} {a1}
    (h : Writes F s x) (w : [1, 2, 3584, 3585, 3586, 3601, 3607, 4907] ⊆ F := by exact subTrans (by assumption) (by decide)) :
    Writes F s (State.phaseApply x a1) := by
  unfold State.phaseApply
  repeat' first
    | with_reducible assumption
    | exact subTrans w (by decide)
    | intro _ _
    | intro _
    | with_reducible apply State.set_writes
    | with_reducible apply State.inc_writes
    | with_reducible apply State.retarget_writes
    | with_reducible exact Has.PWR_PHASE (subTrans w (by decide))
    | with_reducible exact Has.PWR_Q_LIMIT (subTrans w (by decide))
    | with_reducible exact Has.PWR_PHASE_CHANGES (subTrans w (by decide))
    | split
    | dsimp only
    | with_reducible apply Writes.upd

theorem State.phaseUndo_writes {F s x} {a1} (h : Writes F s x) (w : [3584, 3586, 3607] ⊆ F := by exact subTrans (by assumption) (by decide)) :
    Writes F s (State.phaseUndo x a1) := by
  unfold State.phaseUndo
  repeat' first
    | with_reducible assumption
    | exact subTrans w (by decide)
    | intro _ _
    | intro _
    | with_reducible apply Writes.choose
    | with_reducible apply State.set_writes
    | with_reducible exact Has.PWR_PHASE (subTrans w (by decide))
    | with_reducible exact Has.PWR_Q_LIMIT (subTrans w (by decide))
    | with_reducible exact Has.PWR_PHASE_CHANGES (subTrans w (by decide))
    | split
    | dsimp only
    | with_reducible apply Writes.upd

theorem State.phaseTake_writes {F s x} {a1 a2}
    (h : Writes F s x) (w : [1, 2, 3584, 3585, 3586, 3596, 3601, 3607, 4907] ⊆ F := by exact subTrans (by assumption) (by decide)) :
    Writes F s (State.phaseTake x a1 a2) := by
  unfold State.phaseTake
  repeat' first
    | with_reducible assumption
    | exact subTrans w (by decide)
    | intro _ _
    | intro _
    | with_reducible apply Writes.choose
    | with_reducible apply State.pwrEvent_writes
    | with_reducible apply State.phaseApply_writes
    | with_reducible exact Has.PWR_PHASE (subTrans w (by decide))
    | with_reducible exact Has.PWR_Q_LIMIT (subTrans w (by decide))
    | with_reducible exact Has.PWR_PHASE_ERR (subTrans w (by decide))
    | split
    | dsimp only
    | with_reducible apply Writes.upd

theorem State.phaseSelect_writes {F s x} {a1 a2}
    (h : Writes F s x) (w : [1, 2, 3584, 3585, 3586, 3596, 3601, 3607, 4907] ⊆ F := by exact subTrans (by assumption) (by decide)) :
    Writes F s (State.phaseSelect x a1 a2) := by
  unfold State.phaseSelect
  repeat' first
    | with_reducible assumption
    | exact subTrans w (by decide)
    | intro _ _
    | intro _
    | with_reducible apply Writes.choose
    | with_reducible apply State.phaseUndo_writes
    | with_reducible apply State.phaseTake_writes
    | split

theorem State.phaseWrite_writes {F s x} {a1 a2 a3}
    (h : Writes F s x) (w : [3596, 3611, 3612, 3613, 3614, 3615, 3616, 4907] ⊆ F := by exact subTrans (by assumption) (by decide)) :
    Writes F s (State.phaseWrite x a1 a2 a3) := by
  unfold State.phaseWrite
  repeat' first
    | with_reducible assumption
    | exact subTrans w (by decide)
    | intro _ _
    | intro _
    | with_reducible apply Writes.choose
    | with_reducible apply State.when_writes
    | with_reducible apply State.set_writes
    | with_reducible apply State.when_writes
    | with_reducible apply State.pwrEvent_writes
    | with_reducible exact Has.PWR_PHASE_ERR (subTrans w (by decide))
    | with_reducible exact Has.PWR_E_PREF_OP (subTrans w (by decide))
    | with_reducible exact Has.PWR_E_MIN_OP (subTrans w (by decide))
    | with_reducible exact Has.PWR_E_VALID (subTrans w (by decide))
    | with_reducible exact Has.PWR_E_CAP (subTrans w (by decide))
    | with_reducible exact Has.PWR_E_K (subTrans w (by decide))
    | with_reducible exact Has.PWR_E_B_MAX (subTrans w (by decide))
    | split
    | dsimp only
    | with_reducible apply Writes.upd

theorem State.vinSample_writes {F s x} {a1 a2 a3}
    (h : Writes F s x) (w : [1, 2, 258, 3585, 3590, 3597, 3601, 4612, 4613, 4615, 4616, 4907] ⊆ F := by exact subTrans (by assumption) (by decide)) :
    Writes F s (State.vinSample x a1 a2 a3) := by
  unfold State.vinSample
  repeat' first
    | with_reducible assumption
    | exact subTrans w (by decide)
    | intro _ _
    | intro _
    | with_reducible apply Writes.choose
    | with_reducible apply State.when_writes
    | with_reducible apply State.setB_writes
    | with_reducible apply State.when_writes
    | with_reducible apply State.pwrEvent_writes
    | with_reducible apply State.fault_writes
    | with_reducible apply State.assayWatch_writes
    | with_reducible exact Has.PWR_MEAS_FAIL (subTrans w (by decide))
    | with_reducible exact Has.PWR_OV_EVT (subTrans w (by decide))
    | split
    | dsimp only
    | with_reducible apply Writes.upd

theorem State.railSample_writes {F s x} {a1 a2 a3 a4}
    (h : Writes F s x) (w : [1, 2, 9, 258, 3585, 3590, 3597, 3601, 3624, 3625, 4612, 4613, 4615, 4616, 4907] ⊆ F := by exact subTrans (by assumption) (by decide)) :
    Writes F s (State.railSample x a1 a2 a3 a4) := by
  unfold State.railSample
  repeat' first
    | with_reducible assumption
    | exact subTrans w (by decide)
    | intro _ _
    | intro _
    | with_reducible apply Writes.choose
    | with_reducible apply State.when_writes
    | with_reducible apply State.set_writes
    | with_reducible apply State.when_writes
    | with_reducible apply State.fault_writes
    | with_reducible apply State.vcoreSeen_writes
    | with_reducible apply State.vinSample_writes
    | with_reducible exact Has.CORE_V_MEAS (subTrans w (by decide))
    | with_reducible exact Has.PWR_RAIL_V (subTrans w (by decide))
    | with_reducible exact Has.PWR_RAIL_I (subTrans w (by decide))
    | split
    | dsimp only
    | with_reducible apply Writes.upd

theorem State.measFlags_writes {F s x} {a1 a2 a3} (h : Writes F s x) (w : [3589, 3590] ⊆ F := by exact subTrans (by assumption) (by decide)) :
    Writes F s (State.measFlags x a1 a2 a3) := by
  unfold State.measFlags
  repeat' first
    | with_reducible assumption
    | exact subTrans w (by decide)
    | intro _ _
    | intro _
    | with_reducible apply Writes.choose
    | with_reducible apply State.when_writes
    | with_reducible apply State.setB_writes
    | with_reducible apply State.when_writes
    | with_reducible apply State.fault_writes
    | with_reducible exact Has.PWR_DISAGREE (subTrans w (by decide))
    | with_reducible exact Has.PWR_MEAS_FAIL (subTrans w (by decide))
    | split
    | dsimp only
    | with_reducible apply Writes.upd

theorem State.setBubbles_writes {F s x} {a1}
    (h : Writes F s x) (w : [3588, 3594, 3600, 4907] ⊆ F := by exact subTrans (by assumption) (by decide)) :
    Writes F s (State.setBubbles x a1) := by
  unfold State.setBubbles
  repeat' first
    | with_reducible assumption
    | exact subTrans w (by decide)
    | intro _ _
    | intro _
    | with_reducible apply State.when_writes
    | with_reducible apply State.set_writes
    | with_reducible apply State.setB_writes
    | with_reducible apply State.when_writes
    | with_reducible apply State.pwrEvent_writes
    | with_reducible exact Has.PWR_QUENCH_ACTIVE (subTrans w (by decide))
    | with_reducible exact Has.PWR_QUENCH_BUBBLES (subTrans w (by decide))
    | with_reducible exact Has.PWR_QUENCH_EVT (subTrans w (by decide))
    | split
    | dsimp only
    | with_reducible apply Writes.upd

theorem State.qLimitStep_writes {F s x} {a1 a2}
    (h : Writes F s x) (w : [1, 2, 3585, 3586, 3601, 4907] ⊆ F := by exact subTrans (by assumption) (by decide)) :
    Writes F s (State.qLimitStep x a1 a2) := by
  unfold State.qLimitStep
  repeat' first
    | with_reducible assumption
    | exact subTrans w (by decide)
    | intro _ _
    | intro _
    | with_reducible apply Writes.choose
    | with_reducible apply State.set_writes
    | with_reducible apply State.retarget_writes
    | with_reducible exact Has.PWR_Q_LIMIT (subTrans w (by decide))
    | split
    | dsimp only
    | with_reducible apply Writes.upd

theorem State.reloadPhase_writes {F s x} (h : Writes F s x) : Writes F s (State.reloadPhase x) := by
  unfold State.reloadPhase
  repeat' first
    | with_reducible assumption
    | intro _ _
    | intro _
    | split
    | dsimp only
    | with_reducible apply Writes.upd

theorem State.powerWindow_writes {F s x}
    (h : Writes F s x) (w : [1, 2, 3585, 3586, 3588, 3589, 3590, 3594, 3600, 3601, 3617, 3618, 3619, 3620, 4907] ⊆ F := by exact subTrans (by assumption) (by decide)) :
    Writes F s (State.powerWindow x) := by
  unfold State.powerWindow
  repeat' first
    | with_reducible assumption
    | exact subTrans w (by decide)
    | intro _ _
    | intro _
    | with_reducible apply Writes.choose
    | with_reducible apply State.set_writes
    | with_reducible apply State.retarget_writes
    | with_reducible apply State.measFlags_writes
    | with_reducible apply State.setBubbles_writes
    | with_reducible apply State.qLimitStep_writes
    | with_reducible apply State.reloadPhase_writes
    | with_reducible exact Has.PWR_P_MEAS (subTrans w (by decide))
    | with_reducible exact Has.PWR_P_EST (subTrans w (by decide))
    | with_reducible exact Has.PWR_P_USED (subTrans w (by decide))
    | with_reducible exact Has.PWR_P_PEAK (subTrans w (by decide))
    | split
    | dsimp only
    | with_reducible apply Writes.upd

theorem State.energyWindow_writes {F s x} (h : Writes F s x) (w : [3621, 3622] ⊆ F := by exact subTrans (by assumption) (by decide)) :
    Writes F s (State.energyWindow x) := by
  unfold State.energyWindow
  repeat' first
    | with_reducible assumption
    | exact subTrans w (by decide)
    | intro _ _
    | intro _
    | with_reducible apply Writes.choose
    | with_reducible apply State.when_writes
    | with_reducible apply State.set_writes
    | with_reducible apply State.setB_writes
    | with_reducible apply State.when_writes
    | with_reducible apply State.fault_writes
    | with_reducible exact Has.PWR_L_ENERGY (subTrans w (by decide))
    | with_reducible exact Has.PWR_L_ENERGY_VALID (subTrans w (by decide))
    | split
    | dsimp only
    | with_reducible apply Writes.upd

theorem State.sensorState_writes {F s x} {a1 a2}
    (h : Writes F s x) (w : [3599, 3633, 4907] ⊆ F := by exact subTrans (by assumption) (by decide)) :
    Writes F s (State.sensorState x a1 a2) := by
  unfold State.sensorState
  repeat' first
    | with_reducible assumption
    | exact subTrans w (by decide)
    | intro _ _
    | intro _
    | with_reducible apply State.when_writes
    | with_reducible apply State.setB_writes
    | with_reducible apply State.when_writes
    | with_reducible apply State.pwrEvent_writes
    | with_reducible apply State.fault_writes
    | with_reducible exact Has.PWR_SENSOR_FAIL_EVT (subTrans w (by decide))
    | with_reducible exact Has.PWR_FAILED (subTrans w (by decide))

theorem State.sensorRead_writes {F s x} {a1 a2}
    (h : Writes F s x) (w : [3599, 3632, 3633, 4907] ⊆ F := by exact subTrans (by assumption) (by decide)) :
    Writes F s (State.sensorRead x a1 a2) := by
  unfold State.sensorRead
  repeat' first
    | with_reducible assumption
    | exact subTrans w (by decide)
    | intro _ _
    | intro _
    | with_reducible apply State.set_writes
    | with_reducible apply State.sensorState_writes
    | with_reducible exact Has.PWR_TEMP (subTrans w (by decide))
    | split
    | dsimp only
    | with_reducible apply Writes.upd

theorem State.sensorsLate_writes {F s x} (h : Writes F s x) (w : [3599, 3633, 4907] ⊆ F := by exact subTrans (by assumption) (by decide)) :
    Writes F s (State.sensorsLate x) := by
  unfold State.sensorsLate
  repeat' first
    | with_reducible assumption
    | exact subTrans w (by decide)
    | intro _ _
    | intro _
    | with_reducible apply Writes.choose
    | with_reducible apply Writes.upTo
    | with_reducible apply State.sensorState_writes

theorem State.showThermLevel_writes {F s x} (h : Writes F s x) (w : [3591] ⊆ F := by exact subTrans (by assumption) (by decide)) :
    Writes F s (State.showThermLevel x) := by
  unfold State.showThermLevel
  repeat' first
    | with_reducible assumption
    | exact subTrans w (by decide)
    | intro _ _
    | intro _
    | with_reducible apply Writes.foldl
    | with_reducible apply Writes.foldl_snd
    | with_reducible apply Writes.foldl_fst
    | with_reducible apply Writes.foldl_third
    | with_reducible apply State.set_writes
    | with_reducible exact Has.PWR_THERM_LEVEL (subTrans w (by decide))

theorem State.judgeGroup_writes {F s x} {a1}
    (h : Writes F s x) (w : [3587, 3598, 3629, 3630, 3631, 4907] ⊆ F := by exact subTrans (by assumption) (by decide)) :
    Writes F s (State.judgeGroup x a1) := by
  unfold State.judgeGroup
  repeat' first
    | with_reducible assumption
    | exact subTrans w (by decide)
    | intro _ _
    | intro _
    | with_reducible apply Writes.choose
    | with_reducible apply State.when_writes
    | with_reducible apply State.set_writes
    | with_reducible apply State.when_writes
    | with_reducible apply State.pwrEvent_writes
    | with_reducible apply State.fault_writes
    | with_reducible exact Has.PWR_T_LIMIT (subTrans w (by decide))
    | with_reducible exact Has.PWR_THERM_WARN_EVT (subTrans w (by decide))
    | with_reducible exact Has.PWR_TG_LEVEL (subTrans w (by decide))
    | with_reducible exact Has.PWR_TG_HOTTEST (subTrans w (by decide))
    | with_reducible exact Has.PWR_TG_HOT_SENSOR (subTrans w (by decide))
    | split
    | dsimp only
    | with_reducible apply Writes.upd

theorem State.leaveQuench_writes {F s x} (h : Writes F s x) (w : [3629] ⊆ F := by exact subTrans (by assumption) (by decide)) :
    Writes F s (State.leaveQuench x) := by
  unfold State.leaveQuench
  repeat' first
    | with_reducible assumption
    | exact subTrans w (by decide)
    | intro _ _
    | intro _
    | with_reducible apply Writes.choose
    | with_reducible apply Writes.upTo
    | with_reducible apply State.set_writes
    | with_reducible exact Has.PWR_TG_LEVEL (subTrans w (by decide))
    | split
    | dsimp only
    | with_reducible apply Writes.upd

theorem State.tempSample_writes {F s x} {a1}
    (h : Writes F s x) (w : [1, 2, 258, 3585, 3587, 3591, 3598, 3599, 3601, 3629, 3630, 3631, 3632, 3633, 4612, 4613, 4615, 4616, 4907] ⊆ F := by exact subTrans (by assumption) (by decide)) :
    Writes F s (State.tempSample x a1) := by
  unfold State.tempSample
  repeat' first
    | with_reducible assumption
    | exact subTrans w (by decide)
    | intro _ _
    | intro _
    | with_reducible apply Writes.foldl
    | with_reducible apply Writes.foldl_snd
    | with_reducible apply Writes.foldl_fst
    | with_reducible apply Writes.foldl_third
    | with_reducible apply Writes.upTo
    | with_reducible apply State.retarget_writes
    | with_reducible apply State.assayWatch_writes
    | with_reducible apply State.sensorRead_writes
    | with_reducible apply State.sensorsLate_writes
    | with_reducible apply State.showThermLevel_writes
    | with_reducible apply State.judgeGroup_writes
    | with_reducible apply State.leaveQuench_writes

theorem State.thermalStep_writes {F s x}
    (h : Writes F s x) (w : [1, 2, 3585, 3587, 3588, 3594, 3600, 3601, 4907] ⊆ F := by exact subTrans (by assumption) (by decide)) :
    Writes F s (State.thermalStep x) := by
  unfold State.thermalStep
  repeat' first
    | with_reducible assumption
    | exact subTrans w (by decide)
    | intro _ _
    | intro _
    | with_reducible apply Writes.choose
    | with_reducible apply State.set_writes
    | with_reducible apply State.retarget_writes
    | with_reducible apply State.setBubbles_writes
    | with_reducible exact Has.PWR_T_LIMIT (subTrans w (by decide))
    | split
    | dsimp only
    | with_reducible apply Writes.upd

/-! ### Machine/Anvil.lean -/

theorem State.storePut_writes {F s x} {a1 a2} (h : Writes F s x) (w : [3868] ⊆ F := by exact subTrans (by assumption) (by decide)) :
    Writes F s (State.storePut x a1 a2) := by
  unfold State.storePut
  repeat' first
    | with_reducible assumption
    | exact subTrans w (by decide)
    | intro _ _
    | intro _
    | with_reducible apply State.inc_writes
    | with_reducible apply State.memStore_writes
    | with_reducible exact Has.ANVL_MS_WRITES (subTrans w (by decide))

theorem State.storeRemap_writes {F s x} {a1} (h : Writes F s x) (w : [3848] ⊆ F := by exact subTrans (by assumption) (by decide)) :
    Writes F s (State.storeRemap x a1) := by
  unfold State.storeRemap
  repeat' first
    | with_reducible assumption
    | exact subTrans w (by decide)
    | intro _ _
    | intro _
    | with_reducible apply State.when_writes
    | with_reducible apply State.setB_writes
    | with_reducible apply State.when_writes
    | with_reducible apply State.fault_writes
    | with_reducible exact Has.ANVL_MS_LOW (subTrans w (by decide))
    | split
    | dsimp only
    | with_reducible apply Writes.upd

theorem State.storeSettle_writes {F s n x a l} (h : Writes F s x) (w : [3848, 3868] ⊆ F := by exact subTrans (by assumption) (by decide)) :
    Writes F s (State.storeSettle n x a l).1 := by
  induction n generalizing x with
  | zero => exact h
  | succ n ih =>
    simp only [State.storeSettle]
    split
    · exact h
    · split
      · exact h
      · exact ih (State.storePut_writes (State.storeRemap_writes h))

theorem State.storeWrite_writes {F s x} {a1 a2 a3}
    (h : Writes F s x) (w : [3848, 3868] ⊆ F := by exact subTrans (by assumption) (by decide)) :
    Writes F s (State.storeWrite x a1 a2 a3).1 := by
  unfold State.storeWrite
  repeat' first
    | with_reducible assumption
    | exact subTrans w (by decide)
    | intro _ _
    | intro _
    | with_reducible apply Writes.choose
    | with_reducible apply State.storePut_writes
    | with_reducible apply State.storeRemap_writes
    | with_reducible apply State.storeSettle_writes
    | split
    | dsimp only

theorem State.storeWrite_writesE {F s x} {a1 a2 a3} {t r1} (e : State.storeWrite x a1 a2 a3 = (t, r1))
    (h : Writes F s x) (w : [3848, 3868] ⊆ F := by exact subTrans (by assumption) (by decide)) :
    Writes F s t := by
  have k := State.storeWrite_writes (F := F) (s := s) (x := x) (a1 := a1) (a2 := a2) (a3 := a3) h
  rwa [e] at k

theorem State.journalWrite_writes {F s x} {a1 a2 a3}
    (h : Writes F s x) (w : [3848, 3868] ⊆ F := by exact subTrans (by assumption) (by decide)) :
    Writes F s (State.journalWrite x a1 a2 a3) := by
  unfold State.journalWrite
  repeat' first
    | with_reducible assumption
    | exact subTrans w (by decide)
    | intro _ _
    | intro _
    | with_reducible apply Writes.choose
    | with_reducible apply State.storePut_writes
    | with_reducible apply State.storeWrite_writes
    | refine State.storeWrite_writesE (by with_reducible assumption) ?_
    | split
    | dsimp only
    | with_reducible apply Writes.upd

theorem State.showBanks_writes {F s x} (h : Writes F s x) (w : [274, 275, 276, 277] ⊆ F := by exact subTrans (by assumption) (by decide)) :
    Writes F s (State.showBanks x) := by
  unfold State.showBanks
  repeat' first
    | with_reducible assumption
    | exact subTrans w (by decide)
    | intro _ _
    | intro _
    | with_reducible apply State.set_writes
    | with_reducible apply State.setB_writes
    | with_reducible exact Has.IMG_A_VALID (subTrans w (by decide))
    | with_reducible exact Has.IMG_B_VALID (subTrans w (by decide))
    | with_reducible exact Has.IMG_A_SEQUENCE (subTrans w (by decide))
    | with_reducible exact Has.IMG_B_SEQUENCE (subTrans w (by decide))

theorem State.commitWrite_writes {F s x} {a1 a2 a3}
    (h : Writes F s x) (w : [274, 275, 276, 277, 3848, 3868] ⊆ F := by exact subTrans (by assumption) (by decide)) :
    Writes F s (State.commitWrite x a1 a2 a3) := by
  unfold State.commitWrite
  repeat' first
    | with_reducible assumption
    | exact subTrans w (by decide)
    | intro _ _
    | intro _
    | with_reducible apply State.journalWrite_writes
    | with_reducible apply State.showBanks_writes

theorem State.bootPrefWrite_writes {F s x} {a1}
    (h : Writes F s x) (w : [273, 3848, 3868] ⊆ F := by exact subTrans (by assumption) (by decide)) :
    Writes F s (State.bootPrefWrite x a1) := by
  unfold State.bootPrefWrite
  repeat' first
    | with_reducible assumption
    | exact subTrans w (by decide)
    | intro _ _
    | intro _
    | with_reducible apply State.set_writes
    | with_reducible apply State.journalWrite_writes
    | with_reducible exact Has.IMG_BOOT_PREF (subTrans w (by decide))

theorem State.hoursCommit_writes {F s x} {a1} (h : Writes F s x) (w : [3848, 3868] ⊆ F := by exact subTrans (by assumption) (by decide)) :
    Writes F s (State.hoursCommit x a1) := by
  unfold State.hoursCommit
  repeat' first
    | with_reducible assumption
    | exact subTrans w (by decide)
    | intro _ _
    | intro _
    | with_reducible apply State.journalWrite_writes

theorem State.storeSense_writes {F s x}
    (h : Writes F s x) (w : [10, 273, 274, 275, 276, 277, 2344, 2345] ⊆ F := by exact subTrans (by assumption) (by decide)) :
    Writes F s (State.storeSense x) := by
  unfold State.storeSense
  repeat' first
    | with_reducible assumption
    | exact subTrans w (by decide)
    | intro _ _
    | intro _
    | with_reducible apply Writes.choose
    | with_reducible apply Writes.upTo
    | with_reducible apply State.set_writes
    | with_reducible apply State.setB_writes
    | with_reducible apply State.showBanks_writes
    | with_reducible exact Has.CORE_HOURS (subTrans w (by decide))
    | with_reducible exact Has.IMG_BOOT_PREF (subTrans w (by decide))
    | with_reducible exact Has.CRUC_SM_REPLACES (subTrans w (by decide))
    | with_reducible exact Has.CRUC_SM_USED (subTrans w (by decide))

theorem State.mcLast_writes {F s x} {a1 a2 a3 a4}
    (h : Writes F s x) (w : [3851, 3852, 3853, 3854, 3855, 3856] ⊆ F := by exact subTrans (by assumption) (by decide)) :
    Writes F s (State.mcLast x a1 a2 a3 a4) := by
  unfold State.mcLast
  repeat' first
    | with_reducible assumption
    | exact subTrans w (by decide)
    | intro _ _
    | intro _
    | with_reducible apply State.set_writes
    | with_reducible apply State.setB_writes
    | with_reducible apply State.inc_writes
    | with_reducible exact Has.ANVL_ML_UPC (subTrans w (by decide))
    | with_reducible exact Has.ANVL_ML_SECOND (subTrans w (by decide))
    | with_reducible exact Has.ANVL_ML_REDIRECTED (subTrans w (by decide))
    | with_reducible exact Has.ANVL_ML_ACTIVITY (subTrans w (by decide))
    | with_reducible exact Has.ANVL_ML_VALID (subTrans w (by decide))
    | with_reducible exact Has.ANVL_MC_COUNT (subTrans w (by decide))

theorem State.mcCorrected_writes {F s x} {a1 a2}
    (h : Writes F s x) (w : [3846, 3849, 3851, 3852, 3853, 3854, 3855, 3856, 3858] ⊆ F := by exact subTrans (by assumption) (by decide)) :
    Writes F s (State.mcCorrected x a1 a2) := by
  unfold State.mcCorrected
  repeat' first
    | with_reducible assumption
    | exact subTrans w (by decide)
    | intro _ _
    | intro _
    | with_reducible apply Writes.choose
    | with_reducible apply State.set_writes
    | with_reducible apply State.setB_writes
    | with_reducible apply State.fault_writes
    | with_reducible apply State.mcLast_writes
    | with_reducible exact Has.ANVL_MC_CORR (subTrans w (by decide))
    | with_reducible exact Has.ANVL_MC_LIST_FULL (subTrans w (by decide))
    | with_reducible exact Has.ANVL_REDIRECT_USED (subTrans w (by decide))
    | split
    | dsimp only
    | with_reducible apply Writes.upd

theorem State.routineRestart_writes {F s x} {a1} (h : Writes F s x) : Writes F s (State.routineRestart x a1) := by
  unfold State.routineRestart
  repeat' first
    | with_reducible assumption
    | intro _ _
    | intro _
    | with_reducible apply Writes.choose
    | split
    | dsimp only
    | with_reducible apply Writes.upd

theorem State.mcFailed_writes {F s x} {a1 a2}
    (h : Writes F s x) (w : [3844, 3847, 3851, 3852, 3853, 3854, 3855, 3856] ⊆ F := by exact subTrans (by assumption) (by decide)) :
    Writes F s (State.mcFailed x a1 a2) := by
  unfold State.mcFailed
  repeat' first
    | with_reducible assumption
    | exact subTrans w (by decide)
    | intro _ _
    | intro _
    | with_reducible apply State.when_writes
    | with_reducible apply State.setB_writes
    | with_reducible apply State.setBit_writes
    | with_reducible apply State.when_writes
    | with_reducible apply State.fault_writes
    | with_reducible apply State.mcLast_writes
    | with_reducible apply State.routineRestart_writes
    | with_reducible exact Has.ANVL_ACT_HALTED (subTrans w (by decide))
    | with_reducible exact Has.ANVL_MC_UNCORR (subTrans w (by decide))
    | split
    | dsimp only
    | with_reducible apply Writes.upd

theorem State.anvilOwn_writes {F s x} {a1 a2} (h2 : ∀ y, Writes F s y → Writes F s (a2 y))
    (h : Writes F s x) (w : [3844, 3846, 3847, 3849, 3851, 3852, 3853, 3854, 3855, 3856, 3858] ⊆ F := by exact subTrans (by assumption) (by decide)) :
    Writes F s (State.anvilOwn x a1 a2) := by
  unfold State.anvilOwn
  repeat' first
    | with_reducible assumption
    | exact subTrans w (by decide)
    | intro _ _
    | intro _
    | apply h2
    | with_reducible apply State.mcCorrected_writes
    | with_reducible apply State.mcFailed_writes
    | split

theorem State.stepTake_writes {F s x} {a1} (h : Writes F s x) : Writes F s (State.stepTake x a1) := by
  unfold State.stepTake
  repeat' first
    | with_reducible assumption
    | intro _ _
    | intro _
    | with_reducible apply Writes.choose
    | split
    | dsimp only
    | with_reducible apply Writes.upd

theorem State.accessWaits_writes {F s x} {a1} (h : Writes F s x) : Writes F s (State.accessWaits x a1) := by
  unfold State.accessWaits
  repeat' first
    | with_reducible assumption
    | intro _ _
    | intro _
    | with_reducible apply Writes.choose
    | split
    | dsimp only
    | with_reducible apply Writes.upd

theorem State.accessGranted_writes {F s x} {a1} (h : Writes F s x) : Writes F s (State.accessGranted x a1) := by
  unfold State.accessGranted
  repeat' first
    | with_reducible assumption
    | intro _ _
    | intro _
    | split
    | dsimp only
    | with_reducible apply Writes.upd

theorem State.anvilStep_writes {F s x} {a1 a2 a3} (h3 : ∀ y, Writes F s y → Writes F s (a3 y))
    (h : Writes F s x) (w : [3844, 3846, 3847, 3849, 3851, 3852, 3853, 3854, 3855, 3856, 3858] ⊆ F := by exact subTrans (by assumption) (by decide)) :
    Writes F s (State.anvilStep x a1 a2 a3) := by
  unfold State.anvilStep
  repeat' first
    | with_reducible assumption
    | exact subTrans w (by decide)
    | intro _ _
    | intro _
    | apply h3
    | with_reducible apply Writes.choose
    | with_reducible apply State.mcCorrected_writes
    | with_reducible apply State.mcFailed_writes
    | with_reducible apply State.stepTake_writes
    | with_reducible apply State.accessWaits_writes
    | with_reducible apply State.accessGranted_writes
    | with_reducible exact Has.ANVL_ACT_HALTED (subTrans w (by decide))
    | split
    | dsimp only

theorem State.bgStarved_writes {F s x} {a1} (h : Writes F s x) (w : [23] ⊆ F := by exact subTrans (by assumption) (by decide)) :
    Writes F s (State.bgStarved x a1) := by
  unfold State.bgStarved
  repeat' first
    | with_reducible assumption
    | exact subTrans w (by decide)
    | intro _ _
    | intro _
    | with_reducible apply Writes.choose
    | with_reducible apply State.inc_writes
    | with_reducible apply State.fault_writes
    | with_reducible exact Has.CORE_BG_STARVED_EVENTS (subTrans w (by decide))
    | split
    | dsimp only
    | with_reducible apply Writes.upd

theorem State.trapEnter_writes {F s x} {a1}
    (h : Writes F s x) (w : [3844, 3846, 3847, 3849, 3851, 3852, 3853, 3854, 3855, 3856, 3857, 3858] ⊆ F := by exact subTrans (by assumption) (by decide)) :
    Writes F s (State.trapEnter x a1) := by
  unfold State.trapEnter
  repeat' first
    | with_reducible assumption
    | exact subTrans w (by decide)
    | intro _ _
    | intro _
    | with_reducible apply State.inc_writes
    | with_reducible apply State.anvilOwn_writes
    | with_reducible exact Has.ANVL_TRAPS (subTrans w (by decide))
    | split
    | dsimp only
    | with_reducible apply Writes.upd

theorem State.trapReturn_writes {F s x} (h : Writes F s x) : Writes F s (State.trapReturn x) := by
  unfold State.trapReturn
  repeat' first
    | with_reducible assumption
    | intro _ _
    | intro _
    | split
    | dsimp only
    | with_reducible apply Writes.upd

theorem State.anvilTrap_writes {F s x} {a1 a2}
    (h : Writes F s x) (w : [3844, 3846, 3847, 3849, 3851, 3852, 3853, 3854, 3855, 3856, 3857, 3858] ⊆ F := by exact subTrans (by assumption) (by decide)) :
    Writes F s (State.anvilTrap x a1 a2) := by
  unfold State.anvilTrap
  repeat' first
    | with_reducible assumption
    | exact subTrans w (by decide)
    | intro _ _
    | intro _
    | with_reducible apply Writes.choose
    | with_reducible apply Writes.iterate
    | with_reducible apply State.trapEnter_writes
    | with_reducible apply State.trapReturn_writes
    | split
    | dsimp only
    | with_reducible apply Writes.upd

theorem State.hoursStep_writes {F s x} {a1 a2}
    (h : Writes F s x) (w : [6, 7, 8, 10, 3844, 3846, 3847, 3848, 3849, 3851, 3852, 3853, 3854, 3855, 3856, 3858, 3868] ⊆ F := by exact subTrans (by assumption) (by decide)) :
    Writes F s (State.hoursStep x a1 a2) := by
  unfold State.hoursStep
  repeat' first
    | with_reducible assumption
    | exact subTrans w (by decide)
    | intro _ _
    | intro _
    | with_reducible apply Writes.choose
    | with_reducible apply State.set_writes
    | with_reducible apply State.refreshRow_writes
    | with_reducible apply State.hoursCommit_writes
    | with_reducible apply State.anvilOwn_writes
    | with_reducible exact Has.CORE_HOURS (subTrans w (by decide))
    | split
    | dsimp only
    | with_reducible apply Writes.upd

theorem State.variantSwitch_writes {F s x} {a1} (h : Writes F s x) (w : [3870] ⊆ F := by exact subTrans (by assumption) (by decide)) :
    Writes F s (State.variantSwitch x a1) := by
  unfold State.variantSwitch
  repeat' first
    | with_reducible assumption
    | exact subTrans w (by decide)
    | intro _ _
    | intro _
    | with_reducible apply State.set_writes
    | with_reducible exact Has.ANVL_SELECTED (subTrans w (by decide))
    | split
    | dsimp only
    | with_reducible apply Writes.upd

theorem State.shareWrite_writes {F s x} {a1 a2} (h : Writes F s x) (w : [3859] ⊆ F := by exact subTrans (by assumption) (by decide)) :
    Writes F s (State.shareWrite x a1 a2) := by
  unfold State.shareWrite
  repeat' first
    | with_reducible assumption
    | exact subTrans w (by decide)
    | intro _ _
    | intro _
    | with_reducible apply Writes.choose
    | with_reducible apply Writes.foldl
    | with_reducible apply Writes.foldl_snd
    | with_reducible apply Writes.foldl_fst
    | with_reducible apply Writes.foldl_third
    | with_reducible apply State.set_writes
    | with_reducible exact Has.ANVL_SHARE (subTrans w (by decide))

theorem State.passEnd_writes {F s x} {a1} (h : Writes F s x) : Writes F s (State.passEnd x a1).2 := by
  unfold State.passEnd
  repeat' first
    | with_reducible assumption
    | intro _ _
    | intro _
    | split
    | dsimp only
    | with_reducible apply Writes.upd

theorem State.passEnd_writesE {F s x} {a1} {r0 t} (e : State.passEnd x a1 = (r0, t)) (h : Writes F s x) : Writes F s t := by
  have k := State.passEnd_writes (F := F) (s := s) (x := x) (a1 := a1) h
  rwa [e] at k

theorem State.coverMiss_writes {F s x} {a1} (h : Writes F s x) (w : [3850] ⊆ F := by exact subTrans (by assumption) (by decide)) :
    Writes F s (State.coverMiss x a1) := by
  unfold State.coverMiss
  repeat' first
    | with_reducible assumption
    | exact subTrans w (by decide)
    | intro _ _
    | intro _
    | with_reducible apply State.setBit_writes
    | with_reducible apply State.fault_writes
    | with_reducible exact Has.ANVL_COVER_MISS (subTrans w (by decide))

theorem State.applyAnvil_writes {F s x} {a1}
    (h : Writes F s x) (w : [3842, 3843, 3859] ⊆ F := by exact subTrans (by assumption) (by decide)) :
    Writes F s (State.applyAnvil x a1) := by
  unfold State.applyAnvil
  repeat' first
    | with_reducible assumption
    | exact subTrans w (by decide)
    | intro _ _
    | intro _
    | with_reducible apply Writes.choose
    | with_reducible apply Writes.foldl
    | with_reducible apply Writes.foldl_snd
    | with_reducible apply Writes.foldl_fst
    | with_reducible apply Writes.foldl_third
    | with_reducible apply Writes.upTo
    | with_reducible apply State.set_writes
    | with_reducible apply State.setB_writes
    | with_reducible exact Has.ANVL_VARIANTS_LOADED (subTrans w (by decide))
    | with_reducible exact Has.ANVL_SET_ID (subTrans w (by decide))
    | with_reducible exact Has.ANVL_SHARE (subTrans w (by decide))
    | split
    | dsimp only
    | with_reducible apply Writes.upd

/-! ### Machine/Rings.lean -/

theorem State.ringPend_writes {F s x} {a1} (h : Writes F s x) (w : [3349] ⊆ F := by exact subTrans (by assumption) (by decide)) :
    Writes F s (State.ringPend x a1) := by
  unfold State.ringPend
  repeat' first
    | with_reducible assumption
    | exact subTrans w (by decide)
    | intro _ _
    | intro _
    | with_reducible apply Writes.choose
    | with_reducible apply State.setB_writes
    | with_reducible apply State.msixSend_writes
    | with_reducible exact Has.HOST_R_PENDING (subTrans w (by decide))
    | split
    | dsimp only
    | with_reducible apply Writes.upd

theorem State.ringComplete_writes {F s x} {a1 a2 a3 a4}
    (h : Writes F s x) (w : [3345, 3346, 3349, 3354] ⊆ F := by exact subTrans (by assumption) (by decide)) :
    Writes F s (State.ringComplete x a1 a2 a3 a4) := by
  unfold State.ringComplete
  repeat' first
    | with_reducible assumption
    | exact subTrans w (by decide)
    | intro _ _
    | intro _
    | with_reducible apply Writes.choose
    | with_reducible apply State.when_writes
    | with_reducible apply State.set_writes
    | with_reducible apply State.inc_writes
    | with_reducible apply State.memSet_writes
    | with_reducible apply State.when_writes
    | with_reducible apply State.ringPend_writes
    | with_reducible exact Has.HOST_R_INDEX (subTrans w (by decide))
    | with_reducible exact Has.HOST_R_GEN (subTrans w (by decide))
    | with_reducible exact Has.HOST_R_COMPLETED (subTrans w (by decide))
    | split
    | dsimp only
    | with_reducible apply Writes.upd

theorem State.coalExpire_writes {F s x} {a1} (h : Writes F s x) : Writes F s (State.coalExpire x a1) := by
  unfold State.coalExpire
  repeat' first
    | with_reducible assumption
    | intro _ _
    | intro _
    | with_reducible apply Writes.choose
    | with_reducible apply State.msixSend_writes
    | split
    | dsimp only
    | with_reducible apply Writes.upd

theorem State.ringEnable_writes {F s x} {a1}
    (h : Writes F s x) (w : [3339, 3345, 3346, 3350] ⊆ F := by exact subTrans (by assumption) (by decide)) :
    Writes F s (State.ringEnable x a1) := by
  unfold State.ringEnable
  repeat' first
    | with_reducible assumption
    | exact subTrans w (by decide)
    | intro _ _
    | intro _
    | with_reducible apply Writes.choose
    | with_reducible apply State.set_writes
    | with_reducible apply State.setB_writes
    | with_reducible exact Has.HOST_R_EN (subTrans w (by decide))
    | with_reducible exact Has.HOST_R_INDEX (subTrans w (by decide))
    | with_reducible exact Has.HOST_R_GEN (subTrans w (by decide))
    | with_reducible exact Has.HOST_R_CONFIG_ERR (subTrans w (by decide))
    | split
    | dsimp only
    | with_reducible apply Writes.upd

theorem State.ringDisable_writes {F s x} {a1} (h : Writes F s x) (w : [3339] ⊆ F := by exact subTrans (by assumption) (by decide)) :
    Writes F s (State.ringDisable x a1) := by
  unfold State.ringDisable
  repeat' first
    | with_reducible assumption
    | exact subTrans w (by decide)
    | intro _ _
    | intro _
    | with_reducible apply State.setB_writes
    | with_reducible exact Has.HOST_R_EN (subTrans w (by decide))

theorem State.ringsStop_writes {F s x} (h : Writes F s x) (w : [3339] ⊆ F := by exact subTrans (by assumption) (by decide)) :
    Writes F s (State.ringsStop x) := by
  unfold State.ringsStop
  repeat' first
    | with_reducible assumption
    | exact subTrans w (by decide)
    | intro _ _
    | intro _
    | with_reducible apply Writes.upTo
    | with_reducible apply State.ringDisable_writes

theorem State.eventRingWrite_writes {F s x} {a1 a2}
    (h : Writes F s x) (w : [3345, 3346, 3349, 3354, 3355] ⊆ F := by exact subTrans (by assumption) (by decide)) :
    Writes F s (State.eventRingWrite x a1 a2).1 := by
  unfold State.eventRingWrite
  repeat' first
    | with_reducible assumption
    | exact subTrans w (by decide)
    | intro _ _
    | intro _
    | with_reducible apply Writes.choose
    | with_reducible apply State.inc_writes
    | with_reducible apply State.memStore_writes
    | with_reducible apply State.ringComplete_writes
    | with_reducible exact Has.HOST_R_DISCARDS (subTrans w (by decide))
    | split
    | dsimp only

theorem State.eventRingWrite_writesE {F s x} {a1 a2} {t r1} (e : State.eventRingWrite x a1 a2 = (t, r1))
    (h : Writes F s x) (w : [3345, 3346, 3349, 3354, 3355] ⊆ F := by exact subTrans (by assumption) (by decide)) :
    Writes F s t := by
  have k := State.eventRingWrite_writes (F := F) (s := s) (x := x) (a1 := a1) (a2 := a2) h
  rwa [e] at k

theorem State.bezelStore_writes {F s x} {o l e} (h : Writes F s x)  : Writes F s (State.bezelStore x o l e) := by
  fun_induction State.bezelStore x o l e with
  | case1 x o b bs e es ih =>
    apply ih
    split
    · exact State.memStore_writes h
    · exact h
  | case2 => exact h

/-! ### Machine/Loupe.lean -/

theorem State.loupeAdd_writes {F s x} {a1 a2 a3} (h : Writes F s x) (w : [3123, 3125] ⊆ F := by exact subTrans (by assumption) (by decide)) :
    Writes F s (State.loupeAdd x a1 a2 a3) := by
  unfold State.loupeAdd
  repeat' first
    | with_reducible assumption
    | exact subTrans w (by decide)
    | intro _ _
    | intro _
    | with_reducible apply State.when_writes
    | with_reducible apply State.set_writes
    | with_reducible apply State.setBit_writes
    | with_reducible apply State.when_writes
    | with_reducible exact Has.TELE_U_WRAP (subTrans w (by decide))
    | with_reducible exact Has.TELE_U_CNT (subTrans w (by decide))

theorem State.sampleAdd_writes {F s x} {a1 a2}
    (h : Writes F s x) (w : [3110, 3113, 3114, 4907] ⊆ F := by exact subTrans (by assumption) (by decide)) :
    Writes F s (State.sampleAdd x a1 a2) := by
  unfold State.sampleAdd
  repeat' first
    | with_reducible assumption
    | exact subTrans w (by decide)
    | intro _ _
    | intro _
    | with_reducible apply Writes.choose
    | with_reducible apply State.set_writes
    | with_reducible apply State.add_writes
    | with_reducible apply State.event_writes
    | with_reducible exact Has.TELE_S_OVF (subTrans w (by decide))
    | with_reducible exact Has.TELE_S_VALUE (subTrans w (by decide))
    | with_reducible exact Has.TELE_S_LOST (subTrans w (by decide))

theorem State.activityAdd_writes {F s x} {a1 a2} (h : Writes F s x) : Writes F s (State.activityAdd x a1 a2) := by
  unfold State.activityAdd
  repeat' first
    | with_reducible assumption
    | intro _ _
    | intro _
    | with_reducible apply Writes.choose
    | split
    | dsimp only
    | with_reducible apply Writes.upd

theorem State.qdrOp_writes {F s x} {a1} (h : Writes F s x) : Writes F s (State.qdrOp x a1) := by
  unfold State.qdrOp
  repeat' first
    | with_reducible assumption
    | intro _ _
    | intro _
    | split
    | dsimp only
    | with_reducible apply Writes.upd

theorem State.tally_writes {F s x} {a1 a2 a3}
    (h : Writes F s x) (w : [3110, 3113, 3114, 3123, 3125, 4907] ⊆ F := by exact subTrans (by assumption) (by decide)) :
    Writes F s (State.tally x a1 a2 a3) := by
  unfold State.tally
  repeat' first
    | with_reducible assumption
    | exact subTrans w (by decide)
    | intro _ _
    | intro _
    | with_reducible apply Writes.choose
    | with_reducible apply Writes.upTo
    | with_reducible apply State.loupeAdd_writes
    | with_reducible apply State.sampleAdd_writes
    | with_reducible apply State.activityAdd_writes

theorem State.bankOps_writes {F s x} {a1 a2}
    (h : Writes F s x) (w : [3110, 3113, 3114, 3123, 3125, 4907] ⊆ F := by exact subTrans (by assumption) (by decide)) :
    Writes F s (State.bankOps x a1 a2) := by
  unfold State.bankOps
  repeat' first
    | with_reducible assumption
    | exact subTrans w (by decide)
    | intro _ _
    | intro _
    | with_reducible apply State.tally_writes

theorem State.bankWork_writes {F s x} {a1 a2}
    (h : Writes F s x) (w : [3110, 3113, 3114, 3123, 3125, 4907] ⊆ F := by exact subTrans (by assumption) (by decide)) :
    Writes F s (State.bankWork x a1 a2) := by
  unfold State.bankWork
  repeat' first
    | with_reducible assumption
    | exact subTrans w (by decide)
    | intro _ _
    | intro _
    | with_reducible apply State.tally_writes

theorem State.loupeWrap_writes {F s x} {a1 a2 a3} (h : Writes F s x) (w : [3123, 3125] ⊆ F := by exact subTrans (by assumption) (by decide)) :
    Writes F s (State.loupeWrap x a1 a2 a3) := by
  unfold State.loupeWrap
  repeat' first
    | with_reducible assumption
    | exact subTrans w (by decide)
    | intro _ _
    | intro _
    | with_reducible apply Writes.choose
    | with_reducible apply State.loupeAdd_writes

theorem State.sampleOverflow_writes {F s x} {a1 a2}
    (h : Writes F s x) (w : [3110, 3113, 3114, 4907] ⊆ F := by exact subTrans (by assumption) (by decide)) :
    Writes F s (State.sampleOverflow x a1 a2) := by
  unfold State.sampleOverflow
  repeat' first
    | with_reducible assumption
    | exact subTrans w (by decide)
    | intro _ _
    | intro _
    | with_reducible apply Writes.choose
    | with_reducible apply State.sampleAdd_writes

theorem State.loupeStart_writes {F s x}
    (h : Writes F s x) (w : [3094, 3096, 3123, 3124, 3125] ⊆ F := by exact subTrans (by assumption) (by decide)) :
    Writes F s (State.loupeStart x) := by
  unfold State.loupeStart
  repeat' first
    | with_reducible assumption
    | exact subTrans w (by decide)
    | intro _ _
    | intro _
    | with_reducible apply Writes.choose
    | with_reducible apply Writes.upTo
    | with_reducible apply State.set_writes
    | with_reducible apply State.setB_writes
    | with_reducible exact Has.TELE_LP_RUNNING (subTrans w (by decide))
    | with_reducible exact Has.TELE_LP_START_MISSED (subTrans w (by decide))
    | with_reducible exact Has.TELE_U_WRAP (subTrans w (by decide))
    | with_reducible exact Has.TELE_U_TICKS (subTrans w (by decide))
    | with_reducible exact Has.TELE_U_CNT (subTrans w (by decide))
    | split
    | dsimp only
    | with_reducible apply Writes.upd

theorem State.loupeEnd_writes {F s x} {a1}
    (h : Writes F s x) (w : [3094, 3095, 3124, 4907] ⊆ F := by exact subTrans (by assumption) (by decide)) :
    Writes F s (State.loupeEnd x a1) := by
  unfold State.loupeEnd
  repeat' first
    | with_reducible assumption
    | exact subTrans w (by decide)
    | intro _ _
    | intro _
    | with_reducible apply Writes.upTo
    | with_reducible apply State.set_writes
    | with_reducible apply State.setB_writes
    | with_reducible apply State.event_writes
    | with_reducible exact Has.TELE_LP_RUNNING (subTrans w (by decide))
    | with_reducible exact Has.TELE_LP_DONE (subTrans w (by decide))
    | with_reducible exact Has.TELE_U_TICKS (subTrans w (by decide))

theorem State.loupeStop_writes {F s x}
    (h : Writes F s x) (w : [3094, 3095, 3124, 4907] ⊆ F := by exact subTrans (by assumption) (by decide)) :
    Writes F s (State.loupeStop x) := by
  unfold State.loupeStop
  repeat' first
    | with_reducible assumption
    | exact subTrans w (by decide)
    | intro _ _
    | intro _
    | with_reducible apply Writes.choose
    | with_reducible apply State.loupeEnd_writes

theorem State.loupeWindowEnd_writes {F s x}
    (h : Writes F s x) (w : [3094, 3095, 3124, 4907] ⊆ F := by exact subTrans (by assumption) (by decide)) :
    Writes F s (State.loupeWindowEnd x) := by
  unfold State.loupeWindowEnd
  repeat' first
    | with_reducible assumption
    | exact subTrans w (by decide)
    | intro _ _
    | intro _
    | with_reducible apply Writes.choose
    | with_reducible apply State.loupeEnd_writes

theorem State.sampleCtrl_writes {F s x} {a1 a2}
    (h : Writes F s x) (w : [3106, 3107, 3108, 3109, 3110, 3111, 3113] ⊆ F := by exact subTrans (by assumption) (by decide)) :
    Writes F s (State.sampleCtrl x a1 a2) := by
  unfold State.sampleCtrl
  repeat' first
    | with_reducible assumption
    | exact subTrans w (by decide)
    | intro _ _
    | intro _
    | with_reducible apply Writes.choose
    | with_reducible apply State.when_writes
    | with_reducible apply State.set_writes
    | with_reducible apply State.setB_writes
    | with_reducible apply State.when_writes
    | with_reducible exact Has.TELE_S_UNIT (subTrans w (by decide))
    | with_reducible exact Has.TELE_S_EVENT (subTrans w (by decide))
    | with_reducible exact Has.TELE_S_EN (subTrans w (by decide))
    | with_reducible exact Has.TELE_S_IE (subTrans w (by decide))
    | with_reducible exact Has.TELE_S_OVF (subTrans w (by decide))
    | with_reducible exact Has.TELE_S_PRIV_REJECT (subTrans w (by decide))
    | with_reducible exact Has.TELE_S_VALUE (subTrans w (by decide))

theorem State.sampleReload_writes {F s x} {a1 a2} (h : Writes F s x) (w : [3111, 3112] ⊆ F := by exact subTrans (by assumption) (by decide)) :
    Writes F s (State.sampleReload x a1 a2) := by
  unfold State.sampleReload
  repeat' first
    | with_reducible assumption
    | exact subTrans w (by decide)
    | intro _ _
    | intro _
    | with_reducible apply Writes.choose
    | with_reducible apply State.set_writes
    | with_reducible apply State.setB_writes
    | with_reducible exact Has.TELE_S_PRIV_REJECT (subTrans w (by decide))
    | with_reducible exact Has.TELE_S_RELOAD (subTrans w (by decide))

theorem State.bwCount_writes {F s x} {a1 a2 a3} (h : Writes F s x) : Writes F s (State.bwCount x a1 a2 a3) := by
  unfold State.bwCount
  repeat' first
    | with_reducible assumption
    | intro _ _
    | intro _
    | with_reducible apply Writes.choose
    | split
    | dsimp only
    | with_reducible apply Writes.upd

theorem State.bwUpdate_writes {F s x} {a1 a2 a3 a4 a5} (f3 : Has F a3) (f4 : Has F a4) (f5 : Has F a5) (h : Writes F s x) :
    Writes F s (State.bwUpdate x a1 a2 a3 a4 a5) := by
  unfold State.bwUpdate
  repeat' first
    | with_reducible assumption
    | intro _ _
    | intro _
    | with_reducible apply State.set_writes
    | split
    | dsimp only
    | with_reducible apply Writes.upd

theorem State.bwEnd_writes {F s x}
    (h : Writes F s x) (w : [3126, 3127, 3128, 3129, 3130, 3131] ⊆ F := by exact subTrans (by assumption) (by decide)) :
    Writes F s (State.bwEnd x) := by
  unfold State.bwEnd
  repeat' first
    | with_reducible assumption
    | exact subTrans w (by decide)
    | intro _ _
    | intro _
    | with_reducible apply Writes.choose
    | with_reducible apply Writes.foldl
    | with_reducible apply Writes.foldl_snd
    | with_reducible apply Writes.foldl_fst
    | with_reducible apply Writes.foldl_third
    | with_reducible apply State.bwUpdate_writes
    | with_reducible exact Has.TELE_RX_LAST (subTrans w (by decide))
    | with_reducible exact Has.TELE_RX_PEAK (subTrans w (by decide))
    | with_reducible exact Has.TELE_RX_EWMA (subTrans w (by decide))
    | with_reducible exact Has.TELE_TX_LAST (subTrans w (by decide))
    | with_reducible exact Has.TELE_TX_PEAK (subTrans w (by decide))
    | with_reducible exact Has.TELE_TX_EWMA (subTrans w (by decide))
    | split
    | dsimp only
    | with_reducible apply Writes.upd

/-! ### Machine/Cards.lean -/

theorem State.colPush_writes {F s x} {a1 a2} (h : Writes F s x) : Writes F s (State.colPush x a1 a2) := by
  unfold State.colPush
  repeat' first
    | with_reducible assumption
    | intro _ _
    | intro _
    | split
    | dsimp only
    | with_reducible apply Writes.upd

theorem State.postcard_writes {F s x} {a1 a2 a3}
    (h : Writes F s x) (w : [3104, 3110, 3113, 3114, 3123, 3125, 4907] ⊆ F := by exact subTrans (by assumption) (by decide)) :
    Writes F s (State.postcard x a1 a2 a3) := by
  unfold State.postcard
  repeat' first
    | with_reducible assumption
    | exact subTrans w (by decide)
    | intro _ _
    | intro _
    | with_reducible apply Writes.choose
    | with_reducible apply State.inc_writes
    | with_reducible apply State.tally_writes
    | with_reducible apply State.colPush_writes
    | with_reducible exact Has.TELE_COL_LOST (subTrans w (by decide))

theorem State.hmSkip_writes {F s x} {a1 a2}
    (h : Writes F s x) (w : [3076, 3083, 3084, 3085] ⊆ F := by exact subTrans (by assumption) (by decide)) :
    Writes F s (State.hmSkip x a1 a2) := by
  unfold State.hmSkip
  repeat' first
    | with_reducible assumption
    | exact subTrans w (by decide)
    | intro _ _
    | intro _
    | with_reducible apply State.set_writes
    | with_reducible apply State.setB_writes
    | with_reducible apply State.inc_writes
    | with_reducible exact Has.TELE_HM_SKIPPED (subTrans w (by decide))
    | with_reducible exact Has.TELE_HM_REASON (subTrans w (by decide))
    | with_reducible exact Has.TELE_HM_EG_PORT (subTrans w (by decide))
    | with_reducible exact Has.TELE_HM_VALID (subTrans w (by decide))

theorem State.cardSend_writes {F s x} {a1 a2}
    (h : Writes F s x) (w : [3076, 3083, 3084, 3085, 3104, 3110, 3113, 3114, 3123, 3125, 4907] ⊆ F := by exact subTrans (by assumption) (by decide)) :
    Writes F s (State.cardSend x a1 a2) := by
  unfold State.cardSend
  repeat' first
    | with_reducible assumption
    | exact subTrans w (by decide)
    | intro _ _
    | intro _
    | with_reducible apply Writes.choose
    | with_reducible apply State.inc_writes
    | with_reducible apply State.postcard_writes
    | with_reducible apply State.hmSkip_writes
    | with_reducible exact Has.TELE_COL_LOST (subTrans w (by decide))

theorem State.dropCard_writes {F s x} {a1}
    (h : Writes F s x) (w : [3076, 3083, 3084, 3085, 3104, 3110, 3113, 3114, 3123, 3125, 4907] ⊆ F := by exact subTrans (by assumption) (by decide)) :
    Writes F s (State.dropCard x a1) := by
  unfold State.dropCard
  repeat' first
    | with_reducible assumption
    | exact subTrans w (by decide)
    | intro _ _
    | intro _
    | with_reducible apply Writes.choose
    | with_reducible apply State.cardSend_writes

theorem State.dropCards_writes {F s x} {a1}
    (h : Writes F s x) (w : [3076, 3083, 3084, 3085, 3104, 3110, 3113, 3114, 3123, 3125, 4907] ⊆ F := by exact subTrans (by assumption) (by decide)) :
    Writes F s (State.dropCards x a1) := by
  unfold State.dropCards
  repeat' first
    | with_reducible assumption
    | exact subTrans w (by decide)
    | intro _ _
    | intro _
    | with_reducible apply Writes.foldl
    | with_reducible apply Writes.foldl_snd
    | with_reducible apply Writes.foldl_fst
    | with_reducible apply Writes.foldl_third
    | with_reducible apply State.dropCard_writes

theorem State.txDrop_writes {F s x} {a1}
    (h : Writes F s x) (w : [3076, 3083, 3084, 3085, 3104, 3110, 3113, 3114, 3123, 3125, 4907] ⊆ F := by exact subTrans (by assumption) (by decide)) :
    Writes F s (State.txDrop x a1) := by
  unfold State.txDrop
  repeat' first
    | with_reducible assumption
    | exact subTrans w (by decide)
    | intro _ _
    | intro _
    | with_reducible apply State.when_writes
    | with_reducible apply State.when_writes
    | with_reducible apply State.dropCard_writes
    | split

end Sys2Proof.Machine
end

