-- ==== Sys2Proof/Laws/WritesBuffer.lean ====
section
/-!
SUPPORT. What the operations of Crucible, its banks, telemetry, the queue engine and the parser write: one lemma for each.
-/
namespace Sys2Proof.Machine
set_option Elab.async false

/-! ### Machine/Crucible.lean -/

theorem State.putStore_writes {F s x} {a1 a2} (h : Writes F s x) : Writes F s (State.putStore x a1 a2) := by
  unfold State.putStore
  repeat' first
    | with_reducible assumption
    | intro _ _
    | intro _
    | split
    | dsimp only
    | with_reducible apply Writes.upd

theorem State.setList_writes {F s x} {a1 a2} (h : Writes F s x) : Writes F s (State.setList x a1 a2) := by
  unfold State.setList
  repeat' first
    | with_reducible assumption
    | intro _ _
    | intro _
    | with_reducible apply Writes.choose
    | split
    | dsimp only
    | with_reducible apply Writes.upd

theorem State.pauseOwe_writes {F s x} {a1} (h : Writes F s x) : Writes F s (State.pauseOwe x a1) := by
  unfold State.pauseOwe
  repeat' first
    | with_reducible assumption
    | intro _ _
    | intro _
    | with_reducible apply Writes.choose
    | split
    | dsimp only
    | with_reducible apply Writes.upd

theorem State.xoffPut_writes {F s x} {a1 a2}
    (h : Writes F s x) (w : [2364, 3110, 3113, 3114, 3123, 3125, 4907] ⊆ F := by exact subTrans (by assumption) (by decide)) :
    Writes F s (State.xoffPut x a1 a2) := by
  unfold State.xoffPut
  repeat' first
    | with_reducible assumption
    | exact subTrans w (by decide)
    | intro _ _
    | intro _
    | with_reducible apply Writes.choose
    | with_reducible apply State.when_writes
    | with_reducible apply State.setB_writes
    | with_reducible apply State.when_writes
    | with_reducible apply State.tally_writes
    | with_reducible apply State.pauseOwe_writes
    | with_reducible exact Has.CRUC_XOFF (subTrans w (by decide))
    | split
    | dsimp only
    | with_reducible apply Writes.upd

theorem State.heldPut_writes {F s x} {a1 a2} (h : Writes F s x) (w : [2365] ⊆ F := by exact subTrans (by assumption) (by decide)) :
    Writes F s (State.heldPut x a1 a2) := by
  unfold State.heldPut
  repeat' first
    | with_reducible assumption
    | exact subTrans w (by decide)
    | intro _ _
    | intro _
    | with_reducible apply Writes.choose
    | with_reducible apply State.setB_writes
    | with_reducible exact Has.CRUC_HELD (subTrans w (by decide))

theorem State.xoffEval_writes {F s x}
    (h : Writes F s x) (w : [2364, 2365, 3110, 3113, 3114, 3123, 3125, 4907] ⊆ F := by exact subTrans (by assumption) (by decide)) :
    Writes F s (State.xoffEval x) := by
  unfold State.xoffEval
  repeat' first
    | with_reducible assumption
    | exact subTrans w (by decide)
    | intro _ _
    | intro _
    | with_reducible apply Writes.choose
    | with_reducible apply Writes.foldl
    | with_reducible apply Writes.foldl_snd
    | with_reducible apply Writes.foldl_fst
    | with_reducible apply Writes.foldl_third
    | with_reducible apply State.xoffPut_writes
    | with_reducible apply State.heldPut_writes

theorem State.chargeSeg_writesE {F s x f p r t} (e : State.chargeSeg x f p = some (r, t))
    (h : Writes F s x) (w : [2360, 2362, 2363, 2364, 2365, 3110, 3113, 3114, 3123, 3125, 4907] ⊆ F := by exact subTrans (by assumption) (by decide)) :
    Writes F s t := by
  unfold State.chargeSeg at e
  dsimp only at e
  split at e <;> simp only [Option.some.injEq, Prod.mk.injEq, reduceCtorEq] at e
  all_goals obtain ⟨-, rfl⟩ := e
  · exact State.xoffEval_writes (State.set_writes Has.CRUC_HDRM_USED h)
  · exact State.xoffEval_writes (State.set_writes Has.CRUC_MIN_USED h)
  · exact State.xoffEval_writes (State.set_writes Has.CRUC_SHR_USED h)

theorem State.chargeSegs_writesE {F s x f p n r t} (e : State.chargeSegs x f p n = some (r, t)) (h : Writes F s x) (w : [2360, 2362, 2363, 2364, 2365, 3110, 3113, 3114, 3123, 3125, 4907] ⊆ F := by exact subTrans (by assumption) (by decide)) :
    Writes F s t := by
  induction n generalizing x f with
  | zero => cases e; exact h
  | succ n ih =>
    simp only [State.chargeSegs] at e
    split at e
    · exact ih e (State.chargeSeg_writesE (by assumption) h)
    · cases e

theorem State.uncharge_writes {F s x} {a1}
    (h : Writes F s x) (w : [2360, 2362, 2363, 2364, 2365, 3110, 3113, 3114, 3123, 3125, 4907] ⊆ F := by exact subTrans (by assumption) (by decide)) :
    Writes F s (State.uncharge x a1) := by
  unfold State.uncharge
  repeat' first
    | with_reducible assumption
    | exact subTrans w (by decide)
    | intro _ _
    | intro _
    | with_reducible apply State.set_writes
    | with_reducible apply State.xoffEval_writes
    | with_reducible exact Has.CRUC_MIN_USED (subTrans w (by decide))
    | with_reducible exact Has.CRUC_SHR_USED (subTrans w (by decide))
    | with_reducible exact Has.CRUC_HDRM_USED (subTrans w (by decide))

theorem State.setPool_writes {F s x} {a1 a2} (h : Writes F s x) : Writes F s (State.setPool x a1 a2) := by
  unfold State.setPool
  repeat' first
    | with_reducible assumption
    | intro _ _
    | intro _
    | split
    | dsimp only
    | with_reducible apply Writes.upd

theorem State.takeIngot_writesE {F s x n r t} (e : State.takeIngot x n = some (r, t)) (h : Writes F s x)  : Writes F s t := by
  unfold State.takeIngot at e
  dsimp only at e
  split at e
  · cases e; exact State.setPool_writes h
  · split at e <;> cases e
    exact State.setPool_writes h

theorem State.takeS_writes {F s x n} (h : Writes F s x)  : Writes F s (State.takeS x n).2 := by
  induction n generalizing x with
  | zero => exact h
  | succ n ih =>
    simp only [State.takeS]
    split
    · exact ih (State.takeIngot_writesE (by assumption) h)
    · exact h

theorem State.takeS_writesE {F s x n r t} (e : State.takeS x n = (r, t)) (h : Writes F s x)  : Writes F s t := by
  have k := State.takeS_writes (n := n) h
  rwa [e] at k

theorem State.giveIngot_writes {F s x} {a1} (h : Writes F s x) : Writes F s (State.giveIngot x a1) := by
  unfold State.giveIngot
  repeat' first
    | with_reducible assumption
    | intro _ _
    | intro _
    | with_reducible apply Writes.choose
    | with_reducible apply State.setPool_writes
    | split
    | dsimp only
    | with_reducible apply Writes.upd

theorem State.allocDecl_writesE {F s x a b r q t} (e : State.allocDecl x a b = some (r, q, t)) (h : Writes F s x) (w : [2316, 2317] ⊆ F := by exact subTrans (by assumption) (by decide)) :
    Writes F s t := by
  unfold State.allocDecl at e
  dsimp only at e
  split at e
  · split at e <;> cases e
    exact State.when_writes (fun _ => State.inc_writes Has.CRUC_FALLBACK) (State.inc_writes Has.CRUC_ALLOC (State.takeIngot_writesE (by assumption) h))
  · cases e

theorem State.allocChain_writesE {F s x a b r t} (e : State.allocChain x a b = some (r, t))
    (h : Writes F s x) (w : [2316, 2319] ⊆ F := by exact subTrans (by assumption) (by decide)) :
    Writes F s t := by
  unfold State.allocChain at e
  by_cases c : (if b then ceilDiv a 256 else ceilDiv a 256 + x.get Reg.CRUC.HR_RESERVE) ≤ x.poolFreeCount 0
  · simp only [c, if_true] at e
    cases e
    exact State.inc_writes Has.CRUC_CHAIN_FRAMES (State.inc_writes Has.CRUC_ALLOC (State.takeS_writes h))
  · simp only [c, if_false] at e
    cases e

theorem State.refuse_writes {F s x} {a1 a2} (h : Writes F s x) (w : [2318] ⊆ F := by exact subTrans (by assumption) (by decide)) :
    Writes F s (State.refuse x a1 a2) := by
  unfold State.refuse
  repeat' first
    | with_reducible assumption
    | exact subTrans w (by decide)
    | intro _ _
    | intro _
    | with_reducible apply State.inc_writes
    | with_reducible exact Has.CRUC_EXHAUSTED (subTrans w (by decide))
    | split
    | dsimp only
    | with_reducible apply Writes.upd

theorem State.quarantine_writes {F s x} {a1} (h : Writes F s x) : Writes F s (State.quarantine x a1) := by
  unfold State.quarantine
  repeat' first
    | with_reducible assumption
    | intro _ _
    | intro _
    | with_reducible apply Writes.choose
    | with_reducible apply State.setPool_writes
    | split
    | dsimp only
    | with_reducible apply Writes.upd

theorem State.handleErr_writes {F s x} {a1 a2}
    (h : Writes F s x) (w : [2323, 2331, 2332, 2333, 2334] ⊆ F := by exact subTrans (by assumption) (by decide)) :
    Writes F s (State.handleErr x a1 a2) := by
  unfold State.handleErr
  repeat' first
    | with_reducible assumption
    | exact subTrans w (by decide)
    | intro _ _
    | intro _
    | with_reducible apply State.set_writes
    | with_reducible apply State.setB_writes
    | with_reducible apply State.inc_writes
    | with_reducible apply State.fault_writes
    | with_reducible apply State.quarantine_writes
    | with_reducible exact Has.CRUC_HANDLE_ERR (subTrans w (by decide))
    | with_reducible exact Has.CRUC_QL_SLOT (subTrans w (by decide))
    | with_reducible exact Has.CRUC_QL_POOL (subTrans w (by decide))
    | with_reducible exact Has.CRUC_QL_CHECK (subTrans w (by decide))
    | with_reducible exact Has.CRUC_QL_VALID (subTrans w (by decide))

theorem State.vacate_writes {F s x} {a1} (h : Writes F s x) : Writes F s (State.vacate x a1) := by
  unfold State.vacate
  repeat' first
    | with_reducible assumption
    | intro _ _
    | intro _
    | with_reducible apply Writes.foldl
    | with_reducible apply Writes.foldl_snd
    | with_reducible apply Writes.foldl_fst
    | with_reducible apply Writes.foldl_third
    | with_reducible apply State.giveIngot_writes
    | split
    | dsimp only
    | with_reducible apply Writes.upd

theorem State.release_writes {F s x} {a1}
    (h : Writes F s x) (w : [2323, 2331, 2332, 2333, 2334, 2360, 2362, 2363, 2364, 2365, 3110, 3113, 3114, 3123, 3125, 4907] ⊆ F := by exact subTrans (by assumption) (by decide)) :
    Writes F s (State.release x a1) := by
  unfold State.release
  repeat' first
    | with_reducible assumption
    | exact subTrans w (by decide)
    | intro _ _
    | intro _
    | with_reducible apply Writes.choose
    | with_reducible apply State.uncharge_writes
    | with_reducible apply State.handleErr_writes
    | with_reducible apply State.vacate_writes

theorem State.inflightDec_writes {F s x} {a1} (h : Writes F s x) (w : [283] ⊆ F := by exact subTrans (by assumption) (by decide)) :
    Writes F s (State.inflightDec x a1) := by
  unfold State.inflightDec
  repeat' first
    | with_reducible assumption
    | exact subTrans w (by decide)
    | intro _ _
    | intro _
    | with_reducible apply State.set_writes
    | with_reducible exact Has.IMG_INFLIGHT (subTrans w (by decide))

theorem State.inflightInc_writes {F s x} {a1} (h : Writes F s x) (w : [283] ⊆ F := by exact subTrans (by assumption) (by decide)) :
    Writes F s (State.inflightInc x a1) := by
  unfold State.inflightInc
  repeat' first
    | with_reducible assumption
    | exact subTrans w (by decide)
    | intro _ _
    | intro _
    | with_reducible apply State.set_writes
    | with_reducible exact Has.IMG_INFLIGHT (subTrans w (by decide))

theorem State.decRef_writes {F s x} {a1}
    (h : Writes F s x) (w : [2323, 2331, 2332, 2333, 2334, 2360, 2362, 2363, 2364, 2365, 3110, 3113, 3114, 3123, 3125, 4907] ⊆ F := by exact subTrans (by assumption) (by decide)) :
    Writes F s (State.decRef x a1) := by
  unfold State.decRef
  repeat' first
    | with_reducible assumption
    | exact subTrans w (by decide)
    | intro _ _
    | intro _
    | with_reducible apply Writes.choose
    | with_reducible apply State.putStore_writes
    | with_reducible apply State.handleErr_writes
    | with_reducible apply State.release_writes

theorem State.instEnd_writes {F s x} {a1}
    (h : Writes F s x) (w : [283, 2323, 2331, 2332, 2333, 2334, 2360, 2362, 2363, 2364, 2365, 3110, 3113, 3114, 3123, 3125, 4907] ⊆ F := by exact subTrans (by assumption) (by decide)) :
    Writes F s (State.instEnd x a1) := by
  unfold State.instEnd
  repeat' first
    | with_reducible assumption
    | exact subTrans w (by decide)
    | intro _ _
    | intro _
    | with_reducible apply State.inflightDec_writes
    | with_reducible apply State.decRef_writes

theorem State.pullInsts_writes {F s x} {a1}
    (h : Writes F s x) (w : [3076, 3083, 3084, 3085, 3104, 3110, 3113, 3114, 3123, 3125, 4907] ⊆ F := by exact subTrans (by assumption) (by decide)) :
    Writes F s (State.pullInsts x a1).2 := by
  unfold State.pullInsts
  repeat' first
    | with_reducible assumption
    | exact subTrans w (by decide)
    | intro _ _
    | intro _
    | with_reducible apply State.dropCards_writes
    | split
    | dsimp only
    | with_reducible apply Writes.upd

theorem State.pullInsts_writesE {F s x} {a1} {r0 t} (e : State.pullInsts x a1 = (r0, t))
    (h : Writes F s x) (w : [3076, 3083, 3084, 3085, 3104, 3110, 3113, 3114, 3123, 3125, 4907] ⊆ F := by exact subTrans (by assumption) (by decide)) :
    Writes F s t := by
  have k := State.pullInsts_writes (F := F) (s := s) (x := x) (a1 := a1) h
  rwa [e] at k

theorem State.txStomp_writes {F s x} {a1 a2}
    (h : Writes F s x) (w : [3076, 3083, 3084, 3085, 3104, 3110, 3113, 3114, 3123, 3125, 4907] ⊆ F := by exact subTrans (by assumption) (by decide)) :
    Writes F s (State.txStomp x a1 a2) := by
  unfold State.txStomp
  repeat' first
    | with_reducible assumption
    | exact subTrans w (by decide)
    | intro _ _
    | intro _
    | with_reducible apply State.emit_writes
    | with_reducible apply State.bwCount_writes
    | with_reducible apply State.txDrop_writes

theorem State.stompTx_writes {F s x} {a1}
    (h : Writes F s x) (w : [3076, 3083, 3084, 3085, 3104, 3110, 3113, 3114, 3123, 3125, 4907] ⊆ F := by exact subTrans (by assumption) (by decide)) :
    Writes F s (State.stompTx x a1).2 := by
  unfold State.stompTx
  repeat' first
    | with_reducible assumption
    | exact subTrans w (by decide)
    | intro _ _
    | intro _
    | with_reducible apply Writes.foldl
    | with_reducible apply Writes.foldl_snd
    | with_reducible apply Writes.foldl_fst
    | with_reducible apply Writes.foldl_third
    | with_reducible apply State.txStomp_writes
    | split
    | dsimp only
    | with_reducible apply Writes.upd

theorem State.stompTx_writesE {F s x} {a1} {r0 t} (e : State.stompTx x a1 = (r0, t))
    (h : Writes F s x) (w : [3076, 3083, 3084, 3085, 3104, 3110, 3113, 3114, 3123, 3125, 4907] ⊆ F := by exact subTrans (by assumption) (by decide)) :
    Writes F s t := by
  have k := State.stompTx_writes (F := F) (s := s) (x := x) (a1 := a1) h
  rwa [e] at k

theorem State.pullPkts_writes {F s x} {a1} (h : Writes F s x) : Writes F s (State.pullPkts x a1).2 := by
  unfold State.pullPkts
  repeat' first
    | with_reducible assumption
    | intro _ _
    | intro _
    | split
    | dsimp only
    | with_reducible apply Writes.upd

theorem State.pullPkts_writesE {F s x} {a1} {r0 t} (e : State.pullPkts x a1 = (r0, t)) (h : Writes F s x) :
    Writes F s t := by
  have k := State.pullPkts_writes (F := F) (s := s) (x := x) (a1 := a1) h
  rwa [e] at k

theorem State.purge_writes {F s x} {a1}
    (h : Writes F s x) (w : [283, 2323, 2325, 2331, 2332, 2333, 2334, 2360, 2362, 2363, 2364, 2365, 3076, 3083, 3084, 3085, 3104, 3110, 3113, 3114, 3123, 3125, 4907] ⊆ F := by exact subTrans (by assumption) (by decide)) :
    Writes F s (State.purge x a1) := by
  unfold State.purge
  repeat' first
    | with_reducible assumption
    | exact subTrans w (by decide)
    | intro _ _
    | intro _
    | with_reducible apply Writes.iterate
    | with_reducible apply State.add_writes
    | with_reducible apply State.release_writes
    | with_reducible apply State.inflightDec_writes
    | with_reducible apply State.pullInsts_writes
    | with_reducible apply State.stompTx_writes
    | with_reducible apply State.pullPkts_writes
    | refine State.pullInsts_writesE (by with_reducible assumption) ?_
    | refine State.stompTx_writesE (by with_reducible assumption) ?_
    | refine State.pullPkts_writesE (by with_reducible assumption) ?_
    | with_reducible exact Has.CRUC_CT_STOMPED (subTrans w (by decide))
    | split
    | dsimp only
    | with_reducible apply Writes.upd

theorem State.discardWhere_writes {F s x} {a1 a2}
    (h : Writes F s x) (w : [283, 2323, 2331, 2332, 2333, 2334, 2360, 2362, 2363, 2364, 2365, 3076, 3083, 3084, 3085, 3104, 3110, 3113, 3114, 3123, 3125, 4907] ⊆ F := by exact subTrans (by assumption) (by decide)) :
    Writes F s (State.discardWhere x a1 a2).2 := by
  unfold State.discardWhere
  repeat' first
    | with_reducible assumption
    | exact subTrans w (by decide)
    | intro _ _
    | intro _
    | with_reducible apply Writes.foldl
    | with_reducible apply Writes.foldl_snd
    | with_reducible apply Writes.foldl_fst
    | with_reducible apply Writes.foldl_third
    | with_reducible apply State.release_writes
    | with_reducible apply State.inflightDec_writes
    | with_reducible apply State.instEnd_writes
    | with_reducible apply State.pullInsts_writes
    | with_reducible apply State.stompTx_writes
    | with_reducible apply State.pullPkts_writes

theorem State.discardWhere_writesE {F s x} {a1 a2} {r0 t} (e : State.discardWhere x a1 a2 = (r0, t))
    (h : Writes F s x) (w : [283, 2323, 2331, 2332, 2333, 2334, 2360, 2362, 2363, 2364, 2365, 3076, 3083, 3084, 3085, 3104, 3110, 3113, 3114, 3123, 3125, 4907] ⊆ F := by exact subTrans (by assumption) (by decide)) :
    Writes F s t := by
  have k := State.discardWhere_writes (F := F) (s := s) (x := x) (a1 := a1) (a2 := a2) h
  rwa [e] at k

theorem State.discardPackets_writes {F s x}
    (h : Writes F s x) (w : [283, 2323, 2331, 2332, 2333, 2334, 2360, 2362, 2363, 2364, 2365, 3076, 3083, 3084, 3085, 3104, 3110, 3113, 3114, 3123, 3125, 4907] ⊆ F := by exact subTrans (by assumption) (by decide)) :
    Writes F s (State.discardPackets x).2 := by
  unfold State.discardPackets
  repeat' first
    | with_reducible assumption
    | exact subTrans w (by decide)
    | intro _ _
    | intro _
    | with_reducible apply Writes.foldl
    | with_reducible apply Writes.foldl_snd
    | with_reducible apply Writes.foldl_fst
    | with_reducible apply Writes.foldl_third
    | with_reducible apply State.uncharge_writes
    | with_reducible apply State.release_writes
    | with_reducible apply State.discardWhere_writes
    | refine State.discardWhere_writesE (by with_reducible assumption) ?_
    | split
    | dsimp only
    | with_reducible apply Writes.upd

theorem State.discardPackets_writesE {F s x} {r0 t} (e : State.discardPackets x = (r0, t))
    (h : Writes F s x) (w : [283, 2323, 2331, 2332, 2333, 2334, 2360, 2362, 2363, 2364, 2365, 3076, 3083, 3084, 3085, 3104, 3110, 3113, 3114, 3123, 3125, 4907] ⊆ F := by exact subTrans (by assumption) (by decide)) :
    Writes F s t := by
  have k := State.discardPackets_writes (F := F) (s := s) (x := x) h
  rwa [e] at k

/-! ### Machine/Banks.lean -/

theorem State.bankDegrade_writes {F s x} {a1} (h : Writes F s x) (w : [2343] ⊆ F := by exact subTrans (by assumption) (by decide)) :
    Writes F s (State.bankDegrade x a1) := by
  unfold State.bankDegrade
  repeat' first
    | with_reducible assumption
    | exact subTrans w (by decide)
    | intro _ _
    | intro _
    | with_reducible apply Writes.choose
    | with_reducible apply State.setB_writes
    | with_reducible apply State.fault_writes
    | with_reducible exact Has.CRUC_MS_DEGRADED (subTrans w (by decide))
    | split
    | dsimp only
    | with_reducible apply Writes.upd

theorem State.migTrigger_writes {F s x} {a1 a2} (h : Writes F s x) (w : [2343] ⊆ F := by exact subTrans (by assumption) (by decide)) :
    Writes F s (State.migTrigger x a1 a2) := by
  unfold State.migTrigger
  repeat' first
    | with_reducible assumption
    | exact subTrans w (by decide)
    | intro _ _
    | intro _
    | with_reducible apply Writes.choose
    | with_reducible apply State.bankDegrade_writes
    | split
    | dsimp only
    | with_reducible apply Writes.upd

theorem State.wordCorrected_writes {F s x} {a1} (h : Writes F s x) (w : [2329, 2343] ⊆ F := by exact subTrans (by assumption) (by decide)) :
    Writes F s (State.wordCorrected x a1) := by
  unfold State.wordCorrected
  repeat' first
    | with_reducible assumption
    | exact subTrans w (by decide)
    | intro _ _
    | intro _
    | with_reducible apply Writes.choose
    | with_reducible apply State.inc_writes
    | with_reducible apply State.migTrigger_writes
    | with_reducible exact Has.CRUC_CORR (subTrans w (by decide))
    | split
    | dsimp only
    | with_reducible apply Writes.upd

theorem State.wordRebuilt_writes {F s x} {a1} (h : Writes F s x) (w : [2330, 2343] ⊆ F := by exact subTrans (by assumption) (by decide)) :
    Writes F s (State.wordRebuilt x a1) := by
  unfold State.wordRebuilt
  repeat' first
    | with_reducible assumption
    | exact subTrans w (by decide)
    | intro _ _
    | intro _
    | with_reducible apply State.inc_writes
    | with_reducible apply State.migTrigger_writes
    | with_reducible exact Has.CRUC_REBUILT (subTrans w (by decide))

theorem State.readRow_writes {F s x} {a1 a2 a3 a4}
    (h : Writes F s x) (w : [2328, 2329, 2330, 2343] ⊆ F := by exact subTrans (by assumption) (by decide)) :
    Writes F s (State.readRow x a1 a2 a3 a4).2 := by
  unfold State.readRow
  repeat' first
    | with_reducible assumption
    | exact subTrans w (by decide)
    | intro _ _
    | intro _
    | with_reducible apply Writes.choose
    | with_reducible apply Writes.foldl
    | with_reducible apply Writes.foldl_snd
    | with_reducible apply Writes.foldl_fst
    | with_reducible apply Writes.foldl_third
    | with_reducible apply State.inc_writes
    | with_reducible apply State.fault_writes
    | with_reducible apply State.faultInjected_writes
    | with_reducible apply State.wordCorrected_writes
    | with_reducible apply State.wordRebuilt_writes
    | with_reducible exact Has.CRUC_SEG_LOST (subTrans w (by decide))
    | split
    | dsimp only

theorem State.readRow_writesE {F s x} {a1 a2 a3 a4} {r0 t} (e : State.readRow x a1 a2 a3 a4 = (r0, t))
    (h : Writes F s x) (w : [2328, 2329, 2330, 2343] ⊆ F := by exact subTrans (by assumption) (by decide)) :
    Writes F s t := by
  have k := State.readRow_writes (F := F) (s := s) (x := x) (a1 := a1) (a2 := a2) (a3 := a3) (a4 := a4) h
  rwa [e] at k

theorem State.readFrame_writes {F s x} {a1 a2 a3 a4 a5}
    (h : Writes F s x) (w : [2328, 2329, 2330, 2343, 3110, 3113, 3114, 3123, 3125, 4907] ⊆ F := by exact subTrans (by assumption) (by decide)) :
    Writes F s (State.readFrame x a1 a2 a3 a4 a5).2 := by
  unfold State.readFrame
  repeat' first
    | with_reducible assumption
    | exact subTrans w (by decide)
    | intro _ _
    | intro _
    | with_reducible apply Writes.choose
    | with_reducible apply Writes.foldl
    | with_reducible apply Writes.foldl_snd
    | with_reducible apply Writes.foldl_fst
    | with_reducible apply Writes.foldl_third
    | with_reducible apply State.tally_writes
    | with_reducible apply State.readRow_writes
    | refine State.readRow_writesE (by with_reducible assumption) ?_
    | split
    | dsimp only

theorem State.readFrame_writesE {F s x} {a1 a2 a3 a4 a5} {r0 t} (e : State.readFrame x a1 a2 a3 a4 a5 = (r0, t))
    (h : Writes F s x) (w : [2328, 2329, 2330, 2343, 3110, 3113, 3114, 3123, 3125, 4907] ⊆ F := by exact subTrans (by assumption) (by decide)) :
    Writes F s t := by
  have k := State.readFrame_writes (F := F) (s := s) (x := x) (a1 := a1) (a2 := a2) (a3 := a3) (a4 := a4) (a5 := a5) h
  rwa [e] at k

theorem State.segsWritten_writes {F s x} {a1 a2 a3} (h : Writes F s x) : Writes F s (State.segsWritten x a1 a2 a3) := by
  unfold State.segsWritten
  repeat' first
    | with_reducible assumption
    | intro _ _
    | intro _
    | with_reducible apply Writes.choose
    | with_reducible apply State.putStore_writes
    | split
    | dsimp only
    | with_reducible apply Writes.upd

theorem State.migrateCmd_writes {F s x} {a1} (h : Writes F s x) (w : [2343] ⊆ F := by exact subTrans (by assumption) (by decide)) :
    Writes F s (State.migrateCmd x a1) := by
  unfold State.migrateCmd
  repeat' first
    | with_reducible assumption
    | exact subTrans w (by decide)
    | intro _ _
    | intro _
    | with_reducible apply Writes.choose
    | with_reducible apply State.migTrigger_writes

theorem State.migStart_writes {F s x} (h : Writes F s x) (w : [2339, 2340, 2343] ⊆ F := by exact subTrans (by assumption) (by decide)) :
    Writes F s (State.migStart x) := by
  unfold State.migStart
  repeat' first
    | with_reducible assumption
    | exact subTrans w (by decide)
    | intro _ _
    | intro _
    | with_reducible apply Writes.choose
    | with_reducible apply State.set_writes
    | with_reducible apply State.setB_writes
    | with_reducible apply State.bankDegrade_writes
    | with_reducible exact Has.CRUC_MS_BANK (subTrans w (by decide))
    | with_reducible exact Has.CRUC_MS_ACTIVE (subTrans w (by decide))
    | split
    | dsimp only
    | with_reducible apply Writes.upd

theorem State.migRow_writes {F s x} (h : Writes F s x) : Writes F s (State.migRow x) := by
  unfold State.migRow
  repeat' first
    | with_reducible assumption
    | intro _ _
    | intro _
    | with_reducible apply Writes.choose
    | split
    | dsimp only
    | with_reducible apply Writes.upd

theorem State.flipsDrop_writes {F s x} {a1} (h : Writes F s x) : Writes F s (State.flipsDrop x a1) := by
  unfold State.flipsDrop
  repeat' first
    | with_reducible assumption
    | intro _ _
    | intro _
    | split
    | dsimp only
    | with_reducible apply Writes.upd

theorem State.migDone_writes {F s x} {a1}
    (h : Writes F s x) (w : [2340, 2341, 2344, 2345, 3848, 3868, 4907] ⊆ F := by exact subTrans (by assumption) (by decide)) :
    Writes F s (State.migDone x a1) := by
  unfold State.migDone
  repeat' first
    | with_reducible assumption
    | exact subTrans w (by decide)
    | intro _ _
    | intro _
    | with_reducible apply Writes.choose
    | with_reducible apply State.set_writes
    | with_reducible apply State.setB_writes
    | with_reducible apply State.event_writes
    | with_reducible apply State.storeWrite_writes
    | with_reducible apply State.flipsDrop_writes
    | refine State.storeWrite_writesE (by with_reducible assumption) ?_
    | with_reducible exact Has.CRUC_MS_ACTIVE (subTrans w (by decide))
    | with_reducible exact Has.CRUC_MS_DONE (subTrans w (by decide))
    | with_reducible exact Has.CRUC_SM_REPLACES (subTrans w (by decide))
    | with_reducible exact Has.CRUC_SM_USED (subTrans w (by decide))
    | split
    | dsimp only
    | with_reducible apply Writes.upd

theorem State.migrationAbandon_writes {F s x} (h : Writes F s x) (w : [2340] ⊆ F := by exact subTrans (by assumption) (by decide)) :
    Writes F s (State.migrationAbandon x) := by
  unfold State.migrationAbandon
  repeat' first
    | with_reducible assumption
    | exact subTrans w (by decide)
    | intro _ _
    | intro _
    | with_reducible apply State.setB_writes
    | with_reducible exact Has.CRUC_MS_ACTIVE (subTrans w (by decide))
    | split
    | dsimp only
    | with_reducible apply Writes.upd

/-! ### Machine/Telemetry.lean -/

theorem State.setDeltas_writes {F s x} {a1 a2} (h : Writes F s x) : Writes F s (State.setDeltas x a1 a2) := by
  unfold State.setDeltas
  repeat' first
    | with_reducible assumption
    | intro _ _
    | intro _
    | with_reducible apply Writes.choose
    | split
    | dsimp only
    | with_reducible apply Writes.upd

theorem State.faultAt_writes {F s x} {a1 a2 a3 a4} (h : Writes F s x) : Writes F s (State.faultAt x a1 a2 a3 a4) := by
  unfold State.faultAt
  repeat' first
    | with_reducible assumption
    | intro _ _
    | intro _
    | with_reducible apply Writes.choose
    | with_reducible apply State.fault_writes
    | with_reducible apply State.faultInjected_writes

theorem State.pairAdd_writes {F s x} {a1 a2} (h : Writes F s x) (w : [3082] ⊆ F := by exact subTrans (by assumption) (by decide)) :
    Writes F s (State.pairAdd x a1 a2) := by
  unfold State.pairAdd
  repeat' first
    | with_reducible assumption
    | exact subTrans w (by decide)
    | intro _ _
    | intro _
    | with_reducible apply Writes.choose
    | with_reducible apply State.inc_writes
    | with_reducible apply State.memSet_writes
    | with_reducible apply State.qdrOp_writes
    | with_reducible apply State.faultAt_writes
    | with_reducible exact Has.TELE_CNT_ECC (subTrans w (by decide))

theorem State.deltaFlush_writes {F s x} {a1 a2 a3}
    (h : Writes F s x) (w : [3082, 3110, 3113, 3114, 3123, 3125, 4907] ⊆ F := by exact subTrans (by assumption) (by decide)) :
    Writes F s (State.deltaFlush x a1 a2 a3) := by
  unfold State.deltaFlush
  repeat' first
    | with_reducible assumption
    | exact subTrans w (by decide)
    | intro _ _
    | intro _
    | with_reducible apply State.tally_writes
    | with_reducible apply State.setDeltas_writes
    | with_reducible apply State.pairAdd_writes
    | split

theorem State.deltaPost_writes {F s x} {a1 a2 a3}
    (h : Writes F s x) (w : [3082, 3110, 3113, 3114, 3123, 3125, 4907] ⊆ F := by exact subTrans (by assumption) (by decide)) :
    Writes F s (State.deltaPost x a1 a2 a3) := by
  unfold State.deltaPost
  repeat' first
    | with_reducible assumption
    | exact subTrans w (by decide)
    | intro _ _
    | intro _
    | with_reducible apply State.when_writes
    | with_reducible apply State.when_writes
    | with_reducible apply State.setDeltas_writes
    | with_reducible apply State.deltaFlush_writes
    | split

theorem State.count_writes {F s x} {a1 a2 a3}
    (h : Writes F s x) (w : [2057, 3082, 3110, 3113, 3114, 3123, 3125, 4907] ⊆ F := by exact subTrans (by assumption) (by decide)) :
    Writes F s (State.count x a1 a2 a3) := by
  unfold State.count
  repeat' first
    | with_reducible assumption
    | exact subTrans w (by decide)
    | intro _ _
    | intro _
    | with_reducible apply Writes.choose
    | with_reducible apply State.inc_writes
    | with_reducible apply State.putStore_writes
    | with_reducible apply State.deltaPost_writes
    | with_reducible exact Has.MAP_COUNT_RANGE (subTrans w (by decide))

theorem State.counterFlush_writes {F s x} (h : Writes F s x) (w : [3087] ⊆ F := by exact subTrans (by assumption) (by decide)) :
    Writes F s (State.counterFlush x) := by
  unfold State.counterFlush
  repeat' first
    | with_reducible assumption
    | exact subTrans w (by decide)
    | intro _ _
    | intro _
    | with_reducible apply State.setB_writes
    | with_reducible exact Has.TELE_FL_BUSY (subTrans w (by decide))
    | split
    | dsimp only
    | with_reducible apply Writes.upd

theorem State.counterFlushDone_writes {F s x}
    (h : Writes F s x) (w : [3082, 3087, 3088, 3110, 3113, 3114, 3123, 3125, 4907] ⊆ F := by exact subTrans (by assumption) (by decide)) :
    Writes F s (State.counterFlushDone x) := by
  unfold State.counterFlushDone
  repeat' first
    | with_reducible assumption
    | exact subTrans w (by decide)
    | intro _ _
    | intro _
    | with_reducible apply Writes.choose
    | with_reducible apply Writes.foldl
    | with_reducible apply Writes.foldl_snd
    | with_reducible apply Writes.foldl_fst
    | with_reducible apply Writes.foldl_third
    | with_reducible apply State.setB_writes
    | with_reducible apply State.event_writes
    | with_reducible apply State.deltaFlush_writes
    | with_reducible exact Has.TELE_FL_BUSY (subTrans w (by decide))
    | with_reducible exact Has.TELE_FL_DONE (subTrans w (by decide))
    | split
    | dsimp only
    | with_reducible apply Writes.upd

theorem State.flushPass_writes {F s x} (h : Writes F s x) (w : [3850, 3863] ⊆ F := by exact subTrans (by assumption) (by decide)) :
    Writes F s (State.flushPass x) := by
  unfold State.flushPass
  repeat' first
    | with_reducible assumption
    | exact subTrans w (by decide)
    | intro _ _
    | intro _
    | with_reducible apply State.when_writes
    | with_reducible apply State.set_writes
    | with_reducible apply State.when_writes
    | with_reducible apply State.passEnd_writes
    | with_reducible apply State.coverMiss_writes
    | refine State.passEnd_writesE (by with_reducible assumption) ?_
    | with_reducible exact Has.ANVL_FLUSH_PASS_US (subTrans w (by decide))
    | split
    | dsimp only

theorem State.flushStep_writes {F s x} {a1 a2}
    (h : Writes F s x) (w : [3082, 3110, 3113, 3114, 3123, 3125, 3850, 3863, 4907] ⊆ F := by exact subTrans (by assumption) (by decide)) :
    Writes F s (State.flushStep x a1 a2) := by
  unfold State.flushStep
  repeat' first
    | with_reducible assumption
    | exact subTrans w (by decide)
    | intro _ _
    | intro _
    | with_reducible apply Writes.choose
    | with_reducible apply Writes.foldl
    | with_reducible apply Writes.foldl_snd
    | with_reducible apply Writes.foldl_fst
    | with_reducible apply Writes.foldl_third
    | with_reducible apply Writes.upTo
    | with_reducible apply State.deltaFlush_writes
    | with_reducible apply State.flushPass_writes
    | split
    | dsimp only
    | with_reducible apply Writes.upd

theorem State.fsStamp_writes {F s x} {a1} (h : Writes F s x) : Writes F s (State.fsStamp x a1) := by
  unfold State.fsStamp
  repeat' first
    | with_reducible assumption
    | intro _ _
    | intro _
    | with_reducible apply Writes.choose
    | split
    | dsimp only
    | with_reducible apply Writes.upd

theorem State.fsPop_writes {F s x} {a1 a2} (h : Writes F s x) (w : [3101] ⊆ F := by exact subTrans (by assumption) (by decide)) :
    Writes F s (State.fsPop x a1 a2) := by
  unfold State.fsPop
  repeat' first
    | with_reducible assumption
    | exact subTrans w (by decide)
    | intro _ _
    | intro _
    | with_reducible apply State.set_writes
    | with_reducible exact Has.TELE_FS_RD_PTR (subTrans w (by decide))
    | split
    | dsimp only
    | with_reducible apply Writes.upd

theorem State.fsWrite_writes {F s x} {a1 a2}
    (h : Writes F s x) (w : [3100, 3101, 3102] ⊆ F := by exact subTrans (by assumption) (by decide)) :
    Writes F s (State.fsWrite x a1 a2) := by
  unfold State.fsWrite
  repeat' first
    | with_reducible assumption
    | exact subTrans w (by decide)
    | intro _ _
    | intro _
    | with_reducible apply Writes.choose
    | with_reducible apply State.set_writes
    | with_reducible apply State.inc_writes
    | with_reducible apply State.memStore_writes
    | with_reducible apply State.qdrOp_writes
    | with_reducible apply State.fsStamp_writes
    | with_reducible apply State.fsPop_writes
    | with_reducible exact Has.TELE_FS_WR_PTR (subTrans w (by decide))
    | with_reducible exact Has.TELE_FS_FS_LOST (subTrans w (by decide))

theorem State.flowEvict_writes {F s x} {a1 a2}
    (h : Writes F s x) (w : [3080, 3100, 3101, 3102, 3110, 3113, 3114, 3123, 3125, 4907] ⊆ F := by exact subTrans (by assumption) (by decide)) :
    Writes F s (State.flowEvict x a1 a2) := by
  unfold State.flowEvict
  repeat' first
    | with_reducible assumption
    | exact subTrans w (by decide)
    | intro _ _
    | intro _
    | with_reducible apply State.inc_writes
    | with_reducible apply State.tally_writes
    | with_reducible apply State.fsWrite_writes
    | with_reducible exact Has.TELE_FC_EVICTED (subTrans w (by decide))
    | split
    | dsimp only
    | with_reducible apply Writes.upd

theorem State.putFlow_writes {F s x} {a1 a2} (h : Writes F s x) : Writes F s (State.putFlow x a1 a2) := by
  unfold State.putFlow
  repeat' first
    | with_reducible assumption
    | intro _ _
    | intro _
    | split
    | dsimp only
    | with_reducible apply Writes.upd

theorem State.flowFold_writes {F s x} {a1 a2}
    (h : Writes F s x) (w : [3080, 3100, 3101, 3102, 3110, 3113, 3114, 3123, 3125, 4907] ⊆ F := by exact subTrans (by assumption) (by decide)) :
    Writes F s (State.flowFold x a1 a2) := by
  unfold State.flowFold
  repeat' first
    | with_reducible assumption
    | exact subTrans w (by decide)
    | intro _ _
    | intro _
    | with_reducible apply Writes.choose
    | with_reducible apply State.set_writes
    | with_reducible apply State.add_writes
    | with_reducible apply State.tally_writes
    | with_reducible apply State.flowEvict_writes
    | with_reducible apply State.putFlow_writes
    | split
    | dsimp only

theorem State.flowBad_writes {F s x} {a1} (h : Writes F s x) (w : [3081] ⊆ F := by exact subTrans (by assumption) (by decide)) :
    Writes F s (State.flowBad x a1) := by
  unfold State.flowBad
  repeat' first
    | with_reducible assumption
    | exact subTrans w (by decide)
    | intro _ _
    | intro _
    | with_reducible apply Writes.choose
    | with_reducible apply State.inc_writes
    | with_reducible apply State.fault_writes
    | with_reducible exact Has.TELE_FC_ECC (subTrans w (by decide))
    | split
    | dsimp only
    | with_reducible apply Writes.upd

theorem State.flowExpire_writes {F s x} {a1 a2}
    (h : Writes F s x) (w : [3080, 3100, 3101, 3102, 3110, 3113, 3114, 3123, 3125, 4907] ⊆ F := by exact subTrans (by assumption) (by decide)) :
    Writes F s (State.flowExpire x a1 a2) := by
  unfold State.flowExpire
  repeat' first
    | with_reducible assumption
    | exact subTrans w (by decide)
    | intro _ _
    | intro _
    | with_reducible apply State.flowEvict_writes
    | split

theorem State.setExpire_writes {F s x} {a1}
    (h : Writes F s x) (w : [3080, 3100, 3101, 3102, 3110, 3113, 3114, 3123, 3125, 4907] ⊆ F := by exact subTrans (by assumption) (by decide)) :
    Writes F s (State.setExpire x a1) := by
  unfold State.setExpire
  repeat' first
    | with_reducible assumption
    | exact subTrans w (by decide)
    | intro _ _
    | intro _
    | with_reducible apply Writes.upTo
    | with_reducible apply State.set_writes
    | with_reducible apply State.flowExpire_writes
    | split

theorem State.exportStep_writes {F s x} {a1 a2}
    (h : Writes F s x) (w : [3080, 3081, 3100, 3101, 3102, 3110, 3113, 3114, 3123, 3125, 4907] ⊆ F := by exact subTrans (by assumption) (by decide)) :
    Writes F s (State.exportStep x a1 a2) := by
  unfold State.exportStep
  repeat' first
    | with_reducible assumption
    | exact subTrans w (by decide)
    | intro _ _
    | intro _
    | with_reducible apply Writes.foldl
    | with_reducible apply Writes.foldl_snd
    | with_reducible apply Writes.foldl_fst
    | with_reducible apply Writes.foldl_third
    | with_reducible apply Writes.upTo
    | with_reducible apply State.set_writes
    | with_reducible apply State.flowBad_writes
    | with_reducible apply State.setExpire_writes

theorem State.fsReadPtr_writes {F s x} {a1 a2} (h : Writes F s x) (w : [3101] ⊆ F := by exact subTrans (by assumption) (by decide)) :
    Writes F s (State.fsReadPtr x a1 a2) := by
  unfold State.fsReadPtr
  repeat' first
    | with_reducible assumption
    | exact subTrans w (by decide)
    | intro _ _
    | intro _
    | with_reducible apply Writes.choose
    | with_reducible apply State.set_writes
    | with_reducible exact Has.TELE_FS_RD_PTR (subTrans w (by decide))

theorem State.batchSend_writes {F s x} {a1}
    (h : Writes F s x) (w : [3101, 3110, 3113, 3114, 3123, 3125, 4907] ⊆ F := by exact subTrans (by assumption) (by decide)) :
    Writes F s (State.batchSend x a1) := by
  unfold State.batchSend
  repeat' first
    | with_reducible assumption
    | exact subTrans w (by decide)
    | intro _ _
    | intro _
    | with_reducible apply Writes.choose
    | with_reducible apply State.qdrOp_writes
    | with_reducible apply State.tally_writes
    | with_reducible apply State.colPush_writes
    | with_reducible apply State.fsPop_writes

/-! ### Machine/Queues.lean -/

theorem State.putBucket_writes {F s x} {a1 a2} (h : Writes F s x) : Writes F s (State.putBucket x a1 a2) := by
  unfold State.putBucket
  repeat' first
    | with_reducible assumption
    | intro _ _
    | intro _
    | split
    | dsimp only
    | with_reducible apply Writes.upd

theorem State.shaperMove_writes {F s x} {a1 a2} (h : Writes F s x) : Writes F s (State.shaperMove x a1 a2) := by
  unfold State.shaperMove
  repeat' first
    | with_reducible assumption
    | intro _ _
    | intro _
    | with_reducible apply Writes.choose
    | with_reducible apply State.putBucket_writes

theorem State.shaperCharge_writes {F s x} {a1 a2} (h : Writes F s x) : Writes F s (State.shaperCharge x a1 a2) := by
  unfold State.shaperCharge
  repeat' first
    | with_reducible assumption
    | intro _ _
    | intro _
    | with_reducible apply State.shaperMove_writes

theorem State.debtRepaid_writes {F s x} {a1} (h : Writes F s x) : Writes F s (State.debtRepaid x a1) := by
  unfold State.debtRepaid
  repeat' first
    | with_reducible assumption
    | intro _ _
    | intro _
    | with_reducible apply Writes.choose
    | with_reducible apply State.putBucket_writes

theorem State.slowPut_writes {F s x} {a1 a2 a3} (h : Writes F s x) : Writes F s (State.slowPut x a1 a2 a3) := by
  unfold State.slowPut
  repeat' first
    | with_reducible assumption
    | intro _ _
    | intro _
    | split
    | dsimp only
    | with_reducible apply Writes.upd

theorem State.slowPass_writes {F s x} {a1 a2}
    (h : Writes F s x) (w : [1044, 1045, 3110, 3113, 3114, 3123, 3125, 4907] ⊆ F := by exact subTrans (by assumption) (by decide)) :
    Writes F s (State.slowPass x a1 a2).2 := by
  unfold State.slowPass
  repeat' first
    | with_reducible assumption
    | exact subTrans w (by decide)
    | intro _ _
    | intro _
    | with_reducible apply Writes.choose
    | with_reducible apply State.inc_writes
    | with_reducible apply State.tally_writes
    | with_reducible apply State.slowPut_writes
    | with_reducible exact Has.PARSE_SP_COUNT (subTrans w (by decide))
    | with_reducible exact Has.PARSE_SP_POLICED (subTrans w (by decide))
    | split
    | dsimp only

theorem State.slowPass_writesE {F s x} {a1 a2} {r0 t} (e : State.slowPass x a1 a2 = (r0, t))
    (h : Writes F s x) (w : [1044, 1045, 3110, 3113, 3114, 3123, 3125, 4907] ⊆ F := by exact subTrans (by assumption) (by decide)) :
    Writes F s t := by
  have k := State.slowPass_writes (F := F) (s := s) (x := x) (a1 := a1) (a2 := a2) h
  rwa [e] at k

theorem State.policerMark_writes {F s x} {a1 a2 a3} (h : Writes F s x) : Writes F s (State.policerMark x a1 a2 a3).2 := by
  unfold State.policerMark
  repeat' first
    | with_reducible assumption
    | intro _ _
    | intro _
    | with_reducible apply Writes.choose
    | with_reducible apply State.putBucket_writes
    | split
    | dsimp only

theorem State.policerMark_writesE {F s x} {a1 a2 a3} {r0 t} (e : State.policerMark x a1 a2 a3 = (r0, t)) (h : Writes F s x) :
    Writes F s t := by
  have k := State.policerMark_writes (F := F) (s := s) (x := x) (a1 := a1) (a2 := a2) (a3 := a3) h
  rwa [e] at k

theorem State.policerEval_writes {F s x} {a1 a2 a3 a4 a5}
    (h : Writes F s x) (w : [2057, 2561, 3082, 3110, 3113, 3114, 3123, 3125, 4907] ⊆ F := by exact subTrans (by assumption) (by decide)) :
    Writes F s (State.policerEval x a1 a2 a3 a4 a5).2.2 := by
  unfold State.policerEval
  repeat' first
    | with_reducible assumption
    | exact subTrans w (by decide)
    | intro _ _
    | intro _
    | with_reducible apply State.when_writes
    | with_reducible apply State.inc_writes
    | with_reducible apply State.when_writes
    | with_reducible apply State.count_writes
    | with_reducible apply State.policerMark_writes
    | refine State.policerMark_writesE (by with_reducible assumption) ?_
    | with_reducible exact Has.QSCH_POLICER_DROPS (subTrans w (by decide))

theorem State.policerEval_writesE {F s x} {a1 a2 a3 a4 a5} {r0 r1 t} (e : State.policerEval x a1 a2 a3 a4 a5 = (r0, r1, t))
    (h : Writes F s x) (w : [2057, 2561, 3082, 3110, 3113, 3114, 3123, 3125, 4907] ⊆ F := by exact subTrans (by assumption) (by decide)) :
    Writes F s t := by
  have k := State.policerEval_writes (F := F) (s := s) (x := x) (a1 := a1) (a2 := a2) (a3 := a3) (a4 := a4) (a5 := a5) h
  rwa [e] at k

theorem State.setQueue_writes {F s x} {a1 a2} (h : Writes F s x) : Writes F s (State.setQueue x a1 a2) := by
  unfold State.setQueue
  repeat' first
    | with_reducible assumption
    | intro _ _
    | intro _
    | with_reducible apply Writes.choose
    | split
    | dsimp only
    | with_reducible apply Writes.upd

theorem State.ecnDecide_writes {F s x} {a1 a2} (h : Writes F s x) : Writes F s (State.ecnDecide x a1 a2).2 := by
  unfold State.ecnDecide
  repeat' first
    | with_reducible assumption
    | intro _ _
    | intro _
    | with_reducible apply Writes.choose
    | with_reducible apply State.draw_writes
    | split
    | dsimp only

theorem State.ecnDecide_writesE {F s x} {a1 a2} {r0 t} (e : State.ecnDecide x a1 a2 = (r0, t)) (h : Writes F s x) :
    Writes F s t := by
  have k := State.ecnDecide_writes (F := F) (s := s) (x := x) (a1 := a1) (a2 := a2) h
  rwa [e] at k

theorem State.link_writes {F s x} {a1}
    (h : Writes F s x) (w : [283, 2051, 2323, 2324, 2331, 2332, 2333, 2334, 2360, 2362, 2363, 2364, 2365, 2590, 3110, 3113, 3114, 3123, 3125, 4907] ⊆ F := by exact subTrans (by assumption) (by decide)) :
    Writes F s (State.link x a1) := by
  unfold State.link
  repeat' first
    | with_reducible assumption
    | exact subTrans w (by decide)
    | intro _ _
    | intro _
    | with_reducible apply Writes.choose
    | with_reducible apply State.when_writes
    | with_reducible apply State.inc_writes
    | with_reducible apply State.when_writes
    | with_reducible apply State.tally_writes
    | with_reducible apply State.handleErr_writes
    | with_reducible apply State.inflightDec_writes
    | with_reducible apply State.instEnd_writes
    | with_reducible apply State.setQueue_writes
    | with_reducible apply State.ecnDecide_writes
    | refine State.ecnDecide_writesE (by with_reducible assumption) ?_
    | with_reducible exact Has.MAP_RECIRC_OUT (subTrans w (by decide))
    | with_reducible exact Has.CRUC_CT_FRAMES (subTrans w (by decide))
    | with_reducible exact Has.QSCH_LAUNCH_REFUSED (subTrans w (by decide))

theorem State.setHolds_writes {F s x} {a1 a2} (h : Writes F s x) : Writes F s (State.setHolds x a1 a2) := by
  unfold State.setHolds
  repeat' first
    | with_reducible assumption
    | intro _ _
    | intro _
    | with_reducible apply Writes.choose
    | split
    | dsimp only
    | with_reducible apply Writes.upd

theorem State.holdPut_writes {F s x} {a1 a2 a3 a4} (h : Writes F s x) (w : [2327] ⊆ F := by exact subTrans (by assumption) (by decide)) :
    Writes F s (State.holdPut x a1 a2 a3 a4) := by
  unfold State.holdPut
  repeat' first
    | with_reducible assumption
    | exact subTrans w (by decide)
    | intro _ _
    | intro _
    | with_reducible apply State.when_writes
    | with_reducible apply State.inc_writes
    | with_reducible apply State.when_writes
    | with_reducible apply State.setHolds_writes
    | with_reducible exact Has.CRUC_HOLD_FULL (subTrans w (by decide))

theorem State.holdJoin_writes {F s x} {a1 a2} (h : Writes F s x) (w : [2327] ⊆ F := by exact subTrans (by assumption) (by decide)) :
    Writes F s (State.holdJoin x a1 a2) := by
  unfold State.holdJoin
  repeat' first
    | with_reducible assumption
    | exact subTrans w (by decide)
    | intro _ _
    | intro _
    | with_reducible apply State.holdPut_writes

theorem State.downDiscard_writes {F s x} {a1}
    (h : Writes F s x) (w : [283, 2323, 2331, 2332, 2333, 2334, 2360, 2362, 2363, 2364, 2365, 2585, 2586, 3110, 3113, 3114, 3123, 3125, 4907] ⊆ F := by exact subTrans (by assumption) (by decide)) :
    Writes F s (State.downDiscard x a1) := by
  unfold State.downDiscard
  repeat' first
    | with_reducible assumption
    | exact subTrans w (by decide)
    | intro _ _
    | intro _
    | with_reducible apply Writes.choose
    | with_reducible apply State.inc_writes
    | with_reducible apply State.instEnd_writes
    | with_reducible exact Has.QSCH_DOWN_DISCARDS (subTrans w (by decide))
    | with_reducible exact Has.QSCH_MC_RESIDUE_DISCARDS (subTrans w (by decide))

theorem State.enqueue_writes {F s x} {a1}
    (h : Writes F s x) (w : [283, 2051, 2323, 2324, 2327, 2331, 2332, 2333, 2334, 2360, 2362, 2363, 2364, 2365, 2566, 2585, 2586, 2590, 3110, 3113, 3114, 3123, 3125, 4907] ⊆ F := by exact subTrans (by assumption) (by decide)) :
    Writes F s (State.enqueue x a1) := by
  unfold State.enqueue
  repeat' first
    | with_reducible assumption
    | exact subTrans w (by decide)
    | intro _ _
    | intro _
    | with_reducible apply Writes.choose
    | with_reducible apply State.inc_writes
    | with_reducible apply State.instEnd_writes
    | with_reducible apply State.link_writes
    | with_reducible apply State.holdJoin_writes
    | with_reducible apply State.downDiscard_writes
    | with_reducible exact Has.QSCH_BAD_QUEUE (subTrans w (by decide))

theorem State.setResidue_writes {F s x} {a1 a2} (h : Writes F s x) : Writes F s (State.setResidue x a1 a2) := by
  unfold State.setResidue
  repeat' first
    | with_reducible assumption
    | intro _ _
    | intro _
    | with_reducible apply Writes.choose
    | split
    | dsimp only
    | with_reducible apply Writes.upd

theorem State.replicate_writes {F s x i g full l}
    (h : Writes F s x) (w : [283, 2051, 2323, 2324, 2327, 2331, 2332, 2333, 2334, 2360, 2362, 2363, 2364, 2365, 2564, 2566, 2585, 2586, 2590, 3110, 3113, 3114, 3123, 3125, 4907] ⊆ F := by exact subTrans (by assumption) (by decide)) :
    Writes F s (State.replicate x i g full l) := by
  induction l generalizing x with
  | nil => exact h
  | cons n rest ih =>
    simp only [State.replicate]
    split
    · exact State.inc_writes Has.QSCH_REPL_STALLS (State.holdPut_writes h)
    · split
      · exact ih (State.instEnd_writes (State.inc_writes Has.QSCH_BAD_QUEUE h))
      · split
        · exact ih (State.downDiscard_writes h)
        · split
          · exact ih (State.link_writes h)
          · exact ih (State.setResidue_writes h)

theorem State.multicast_writes {F s x} {a1 a2 a3}
    (h : Writes F s x) (w : [283, 2051, 2323, 2324, 2327, 2331, 2332, 2333, 2334, 2360, 2362, 2363, 2364, 2365, 2564, 2566, 2585, 2586, 2590, 3110, 3113, 3114, 3123, 3125, 4907] ⊆ F := by exact subTrans (by assumption) (by decide)) :
    Writes F s (State.multicast x a1 a2 a3) := by
  unfold State.multicast
  repeat' first
    | with_reducible assumption
    | exact subTrans w (by decide)
    | intro _ _
    | intro _
    | with_reducible apply Writes.choose
    | with_reducible apply State.holdJoin_writes
    | with_reducible apply State.replicate_writes

theorem State.holdServe_writes {F s x} {a1}
    (h : Writes F s x) (w : [283, 2051, 2323, 2324, 2327, 2331, 2332, 2333, 2334, 2360, 2362, 2363, 2364, 2365, 2564, 2566, 2585, 2586, 2590, 3110, 3113, 3114, 3123, 3125, 4907] ⊆ F := by exact subTrans (by assumption) (by decide)) :
    Writes F s (State.holdServe x a1) := by
  unfold State.holdServe
  repeat' first
    | with_reducible assumption
    | exact subTrans w (by decide)
    | intro _ _
    | intro _
    | with_reducible apply Writes.choose
    | with_reducible apply State.link_writes
    | with_reducible apply State.setHolds_writes
    | with_reducible apply State.downDiscard_writes
    | with_reducible apply State.replicate_writes
    | split

theorem State.replResume_writes {F s x} {a1}
    (h : Writes F s x) (w : [283, 2051, 2323, 2324, 2327, 2331, 2332, 2333, 2334, 2360, 2362, 2363, 2364, 2365, 2564, 2566, 2585, 2586, 2590, 3110, 3113, 3114, 3123, 3125, 4907] ⊆ F := by exact subTrans (by assumption) (by decide)) :
    Writes F s (State.replResume x a1) := by
  unfold State.replResume
  repeat' first
    | with_reducible assumption
    | exact subTrans w (by decide)
    | intro _ _
    | intro _
    | with_reducible apply State.holdServe_writes
    | split

theorem State.residueLink_writes {F s x} {a1}
    (h : Writes F s x) (w : [283, 2051, 2323, 2324, 2331, 2332, 2333, 2334, 2360, 2362, 2363, 2364, 2365, 2590, 3110, 3113, 3114, 3123, 3125, 4907] ⊆ F := by exact subTrans (by assumption) (by decide)) :
    Writes F s (State.residueLink x a1) := by
  unfold State.residueLink
  repeat' first
    | with_reducible assumption
    | exact subTrans w (by decide)
    | intro _ _
    | intro _
    | with_reducible apply Writes.choose
    | with_reducible apply State.link_writes
    | with_reducible apply State.setResidue_writes
    | split

theorem State.flushPort_writes {F s x} {a1}
    (h : Writes F s x) (w : [283, 2323, 2331, 2332, 2333, 2334, 2360, 2362, 2363, 2364, 2365, 2584, 2586, 3076, 3083, 3084, 3085, 3104, 3110, 3113, 3114, 3123, 3125, 4907] ⊆ F := by exact subTrans (by assumption) (by decide)) :
    Writes F s (State.flushPort x a1) := by
  unfold State.flushPort
  repeat' first
    | with_reducible assumption
    | exact subTrans w (by decide)
    | intro _ _
    | intro _
    | with_reducible apply Writes.choose
    | with_reducible apply Writes.foldl
    | with_reducible apply Writes.foldl_snd
    | with_reducible apply Writes.foldl_fst
    | with_reducible apply Writes.foldl_third
    | with_reducible apply State.add_writes
    | with_reducible apply State.dropCards_writes
    | with_reducible apply State.instEnd_writes
    | with_reducible exact Has.QSCH_FLUSHED (subTrans w (by decide))
    | with_reducible exact Has.QSCH_MC_RESIDUE_DISCARDS (subTrans w (by decide))
    | split
    | dsimp only
    | with_reducible apply Writes.upd

theorem State.portHold_writes {F s x} {a1}
    (h : Writes F s x) (w : [283, 2323, 2331, 2332, 2333, 2334, 2360, 2362, 2363, 2364, 2365, 2569, 2584, 2586, 3076, 3083, 3084, 3085, 3104, 3110, 3113, 3114, 3123, 3125, 4907] ⊆ F := by exact subTrans (by assumption) (by decide)) :
    Writes F s (State.portHold x a1) := by
  unfold State.portHold
  repeat' first
    | with_reducible assumption
    | exact subTrans w (by decide)
    | intro _ _
    | intro _
    | with_reducible apply Writes.choose
    | with_reducible apply State.setB_writes
    | with_reducible apply State.link_writes
    | with_reducible apply State.flushPort_writes
    | with_reducible exact Has.QSCH_HOLD_ACTIVE (subTrans w (by decide))
    | split
    | dsimp only
    | with_reducible apply Writes.upd

theorem State.holdExpire_writes {F s x} {a1}
    (h : Writes F s x) (w : [283, 2323, 2331, 2332, 2333, 2334, 2360, 2362, 2363, 2364, 2365, 2569, 2584, 2586, 3076, 3083, 3084, 3085, 3104, 3110, 3113, 3114, 3123, 3125, 4907] ⊆ F := by exact subTrans (by assumption) (by decide)) :
    Writes F s (State.holdExpire x a1) := by
  unfold State.holdExpire
  repeat' first
    | with_reducible assumption
    | exact subTrans w (by decide)
    | intro _ _
    | intro _
    | with_reducible apply Writes.choose
    | with_reducible apply State.setB_writes
    | with_reducible apply State.link_writes
    | with_reducible apply State.flushPort_writes
    | with_reducible exact Has.QSCH_HOLD_ACTIVE (subTrans w (by decide))

theorem State.actionErr_writes {F s x} {a1 a2 a3 a4 a5}
    (h : Writes F s x) (w : [2056, 2061, 2062, 2063, 2064, 3110, 3113, 3114, 3123, 3125, 4907] ⊆ F := by exact subTrans (by assumption) (by decide)) :
    Writes F s (State.actionErr x a1 a2 a3 a4 a5) := by
  unfold State.actionErr
  repeat' first
    | with_reducible assumption
    | exact subTrans w (by decide)
    | intro _ _
    | intro _
    | with_reducible apply State.set_writes
    | with_reducible apply State.setB_writes
    | with_reducible apply State.inc_writes
    | with_reducible apply State.fault_writes
    | with_reducible apply State.tally_writes
    | with_reducible exact Has.MAP_ACTION_ERR (subTrans w (by decide))
    | with_reducible exact Has.MAP_LE_STAGE (subTrans w (by decide))
    | with_reducible exact Has.MAP_LE_KIND (subTrans w (by decide))
    | with_reducible exact Has.MAP_LE_WORD (subTrans w (by decide))
    | with_reducible exact Has.MAP_LE_VALID (subTrans w (by decide))

theorem State.fateForward_writes {F s x} {a1 a2}
    (h : Writes F s x) (w : [2052, 2054, 2562, 2563] ⊆ F := by exact subTrans (by assumption) (by decide)) :
    Writes F s (State.fateForward x a1 a2).2 := by
  unfold State.fateForward
  repeat' first
    | with_reducible assumption
    | exact subTrans w (by decide)
    | intro _ _
    | intro _
    | with_reducible apply Writes.choose
    | with_reducible apply State.inc_writes
    | with_reducible apply State.fault_writes
    | with_reducible exact Has.MAP_RECIRC_LIMIT (subTrans w (by decide))
    | with_reducible exact Has.MAP_NO_DEST (subTrans w (by decide))
    | with_reducible exact Has.QSCH_MC_INVALID (subTrans w (by decide))
    | with_reducible exact Has.QSCH_MC_NO_COPY (subTrans w (by decide))
    | split
    | dsimp only

theorem State.fateForward_writesE {F s x} {a1 a2} {r0 t} (e : State.fateForward x a1 a2 = (r0, t))
    (h : Writes F s x) (w : [2052, 2054, 2562, 2563] ⊆ F := by exact subTrans (by assumption) (by decide)) :
    Writes F s t := by
  have k := State.fateForward_writes (F := F) (s := s) (x := x) (a1 := a1) (a2 := a2) h
  rwa [e] at k

theorem State.fateCpu_writes {F s x} {a1 a2 a3 a4 a5}
    (h : Writes F s x) (w : [1044, 1045, 3110, 3113, 3114, 3123, 3125, 4907] ⊆ F := by exact subTrans (by assumption) (by decide)) :
    Writes F s (State.fateCpu x a1 a2 a3 a4 a5).2 := by
  unfold State.fateCpu
  repeat' first
    | with_reducible assumption
    | exact subTrans w (by decide)
    | intro _ _
    | intro _
    | with_reducible apply State.slowPass_writes
    | refine State.slowPass_writesE (by with_reducible assumption) ?_
    | split

theorem State.fateCpu_writesE {F s x} {a1 a2 a3 a4 a5} {r0 t} (e : State.fateCpu x a1 a2 a3 a4 a5 = (r0, t))
    (h : Writes F s x) (w : [1044, 1045, 3110, 3113, 3114, 3123, 3125, 4907] ⊆ F := by exact subTrans (by assumption) (by decide)) :
    Writes F s t := by
  have k := State.fateCpu_writes (F := F) (s := s) (x := x) (a1 := a1) (a2 := a2) (a3 := a3) (a4 := a4) (a5 := a5) h
  rwa [e] at k

theorem State.fate_writes {F s x} {a1 a2 a3}
    (h : Writes F s x) (w : [1044, 1045, 2052, 2053, 2054, 2057, 2561, 2562, 2563, 3082, 3110, 3113, 3114, 3123, 3125, 4907] ⊆ F := by exact subTrans (by assumption) (by decide)) :
    Writes F s (State.fate x a1 a2 a3).2.2 := by
  unfold State.fate
  repeat' first
    | with_reducible assumption
    | exact subTrans w (by decide)
    | intro _ _
    | intro _
    | with_reducible apply Writes.choose
    | with_reducible apply State.inc_writes
    | with_reducible apply State.policerEval_writes
    | with_reducible apply State.fateForward_writes
    | with_reducible apply State.fateCpu_writes
    | refine State.policerEval_writesE (by with_reducible assumption) ?_
    | refine State.fateForward_writesE (by with_reducible assumption) ?_
    | refine State.fateCpu_writesE (by with_reducible assumption) ?_
    | with_reducible exact Has.MAP_VERDICT_DROPS (subTrans w (by decide))
    | split
    | dsimp only

theorem State.fate_writesE {F s x} {a1 a2 a3} {r0 r1 t} (e : State.fate x a1 a2 a3 = (r0, r1, t))
    (h : Writes F s x) (w : [1044, 1045, 2052, 2053, 2054, 2057, 2561, 2562, 2563, 3082, 3110, 3113, 3114, 3123, 3125, 4907] ⊆ F := by exact subTrans (by assumption) (by decide)) :
    Writes F s t := by
  have k := State.fate_writes (F := F) (s := s) (x := x) (a1 := a1) (a2 := a2) (a3 := a3) h
  rwa [e] at k

theorem State.setRefs_writes {F s x} {a1 a2}
    (h : Writes F s x) (w : [283, 2323, 2331, 2332, 2333, 2334, 2360, 2362, 2363, 2364, 2365, 3110, 3113, 3114, 3123, 3125, 4907] ⊆ F := by exact subTrans (by assumption) (by decide)) :
    Writes F s (State.setRefs x a1 a2) := by
  unfold State.setRefs
  repeat' first
    | with_reducible assumption
    | exact subTrans w (by decide)
    | intro _ _
    | intro _
    | with_reducible apply Writes.choose
    | with_reducible apply State.set_writes
    | with_reducible apply State.putStore_writes
    | with_reducible apply State.release_writes
    | with_reducible apply State.inflightDec_writes
    | with_reducible exact Has.IMG_INFLIGHT (subTrans w (by decide))

theorem State.launchCapture_writes {F s x} {a1}
    (h : Writes F s x) (w : [2056, 2061, 2062, 2063, 2064, 3110, 3113, 3114, 3123, 3125, 4907] ⊆ F := by exact subTrans (by assumption) (by decide)) :
    Writes F s (State.launchCapture x a1).2 := by
  unfold State.launchCapture
  repeat' first
    | with_reducible assumption
    | exact subTrans w (by decide)
    | intro _ _
    | intro _
    | with_reducible apply Writes.choose
    | with_reducible apply State.actionErr_writes
    | split
    | dsimp only

theorem State.launchCapture_writesE {F s x} {a1} {r0 t} (e : State.launchCapture x a1 = (r0, t))
    (h : Writes F s x) (w : [2056, 2061, 2062, 2063, 2064, 3110, 3113, 3114, 3123, 3125, 4907] ⊆ F := by exact subTrans (by assumption) (by decide)) :
    Writes F s t := by
  have k := State.launchCapture_writes (F := F) (s := s) (x := x) (a1 := a1) h
  rwa [e] at k

theorem State.endIngress_writes {F s x} {a1}
    (h : Writes F s x) (w : [283, 1044, 1045, 2051, 2052, 2053, 2054, 2056, 2057, 2061, 2062, 2063, 2064, 2323, 2324, 2327, 2331, 2332, 2333, 2334, 2360, 2362, 2363, 2364, 2365, 2561, 2562, 2563, 2564, 2566, 2585, 2586, 2590, 3082, 3110, 3113, 3114, 3123, 3125, 4907] ⊆ F := by exact subTrans (by assumption) (by decide)) :
    Writes F s (State.endIngress x a1).2 := by
  unfold State.endIngress
  repeat' first
    | with_reducible assumption
    | exact subTrans w (by decide)
    | intro _ _
    | intro _
    | with_reducible apply State.when_writes
    | with_reducible apply State.when_writes
    | with_reducible apply State.count_writes
    | with_reducible apply State.enqueue_writes
    | with_reducible apply State.multicast_writes
    | with_reducible apply State.fate_writes
    | with_reducible apply State.setRefs_writes
    | with_reducible apply State.launchCapture_writes
    | refine State.fate_writesE (by with_reducible assumption) ?_
    | refine State.launchCapture_writesE (by with_reducible assumption) ?_
    | split
    | dsimp only

theorem State.endIngress_writesE {F s x} {a1} {r0 t} (e : State.endIngress x a1 = (r0, t))
    (h : Writes F s x) (w : [283, 1044, 1045, 2051, 2052, 2053, 2054, 2056, 2057, 2061, 2062, 2063, 2064, 2323, 2324, 2327, 2331, 2332, 2333, 2334, 2360, 2362, 2363, 2364, 2365, 2561, 2562, 2563, 2564, 2566, 2585, 2586, 2590, 3082, 3110, 3113, 3114, 3123, 3125, 4907] ⊆ F := by exact subTrans (by assumption) (by decide)) :
    Writes F s t := by
  have k := State.endIngress_writes (F := F) (s := s) (x := x) (a1 := a1) h
  rwa [e] at k

/-! ### Machine/Parser.lean -/

theorem State.growChain_writes {F s x y n} (h : Writes F s x) (w : [2316, 2320, 2321] ⊆ F := by exact subTrans (by assumption) (by decide)) :
    Writes F s (State.growChain x y n).2.2 := by
  induction n generalizing x y with
  | zero => exact h
  | succ n ih =>
    simp only [State.growChain]
    split
    · exact ih (State.inc_writes Has.CRUC_ALLOC h)
    · split
      · exact ih (State.when_writes (fun _ => State.inc_writes Has.CRUC_SPILL_FRAMES)
          (State.inc_writes Has.CRUC_SPILL_SEGS (State.inc_writes Has.CRUC_ALLOC (State.takeIngot_writesE (by assumption) h))))
      · exact h

theorem State.growChain_writesE {F s x y n b r t} (e : State.growChain x y n = (b, r, t)) (h : Writes F s x) (w : [2316, 2320, 2321] ⊆ F := by exact subTrans (by assumption) (by decide)) :
    Writes F s t := by
  have k := State.growChain_writes (y := y) (n := n) h
  rwa [e] at k

theorem State.fit_writes {F s x} {a1 a2}
    (h : Writes F s x) (w : [283, 2316, 2320, 2321, 2322, 2323, 2325, 2331, 2332, 2333, 2334, 2360, 2362, 2363, 2364, 2365, 3076, 3083, 3084, 3085, 3104, 3110, 3113, 3114, 3123, 3125, 4907] ⊆ F := by exact subTrans (by assumption) (by decide)) :
    Writes F s (State.fit x a1 a2).2 := by
  unfold State.fit
  repeat' first
    | with_reducible assumption
    | exact subTrans w (by decide)
    | intro _ _
    | intro _
    | with_reducible apply State.inc_writes
    | with_reducible apply State.fault_writes
    | with_reducible apply State.putStore_writes
    | with_reducible apply State.purge_writes
    | with_reducible apply State.segsWritten_writes
    | with_reducible apply State.growChain_writes
    | refine State.growChain_writesE (by with_reducible assumption) ?_
    | with_reducible exact Has.CRUC_SPILL_FAIL (subTrans w (by decide))
    | split

theorem State.fit_writesE {F s x} {a1 a2} {r0 t} (e : State.fit x a1 a2 = (r0, t))
    (h : Writes F s x) (w : [283, 2316, 2320, 2321, 2322, 2323, 2325, 2331, 2332, 2333, 2334, 2360, 2362, 2363, 2364, 2365, 3076, 3083, 3084, 3085, 3104, 3110, 3113, 3114, 3123, 3125, 4907] ⊆ F := by exact subTrans (by assumption) (by decide)) :
    Writes F s t := by
  have k := State.fit_writes (F := F) (s := s) (x := x) (a1 := a1) (a2 := a2) h
  rwa [e] at k

theorem State.endAside_writes {F s x} {a1} (h : Writes F s x) : Writes F s (State.endAside x a1) := by
  unfold State.endAside
  repeat' first
    | with_reducible assumption
    | intro _ _
    | intro _
    | with_reducible apply Writes.foldl
    | with_reducible apply Writes.foldl_snd
    | with_reducible apply Writes.foldl_fst
    | with_reducible apply Writes.foldl_third
    | with_reducible apply State.putStore_writes
    | with_reducible apply State.giveIngot_writes

theorem State.grantRoom_writesE {F s x f d a b t} (e : State.grantRoom x f d = some (a, b, t))
    (h : Writes F s x) (w : [2316, 2317, 2319] ⊆ F := by exact subTrans (by assumption) (by decide)) :
    Writes F s t := by
  unfold State.grantRoom at e
  split at e <;> split at e <;> cases e
  · exact State.allocDecl_writesE (by assumption) h
  · exact State.allocChain_writesE (by assumption) h

theorem State.countParse_writes {F s x} {a1 a2 a3}
    (h : Writes F s x) (w : [1037, 1038, 1039, 1040, 1041, 1042, 3110, 3113, 3114, 3123, 3125, 4907] ⊆ F := by exact subTrans (by assumption) (by decide)) :
    Writes F s (State.countParse x a1 a2 a3) := by
  unfold State.countParse
  repeat' first
    | with_reducible assumption
    | exact subTrans w (by decide)
    | intro _ _
    | intro _
    | with_reducible apply State.set_writes
    | with_reducible apply State.setB_writes
    | with_reducible apply State.inc_writes
    | with_reducible apply State.draw_writes
    | with_reducible apply State.tally_writes
    | with_reducible exact Has.PARSE_PASSES (subTrans w (by decide))
    | with_reducible exact Has.PARSE_LM_CAUSE (subTrans w (by decide))
    | with_reducible exact Has.PARSE_LM_STATE (subTrans w (by decide))
    | with_reducible exact Has.PARSE_LM_CURSOR (subTrans w (by decide))
    | with_reducible exact Has.PARSE_LM_VALID (subTrans w (by decide))
    | with_reducible exact Has.PARSE_MALF_COUNT (subTrans w (by decide))
    | split

theorem State.bypass_writes {F s x} {a1}
    (h : Writes F s x) (w : [283, 2051, 2323, 2324, 2327, 2331, 2332, 2333, 2334, 2360, 2362, 2363, 2364, 2365, 2566, 2585, 2586, 2590, 3110, 3113, 3114, 3123, 3125, 4907] ⊆ F := by exact subTrans (by assumption) (by decide)) :
    Writes F s (State.bypass x a1) := by
  unfold State.bypass
  repeat' first
    | with_reducible assumption
    | exact subTrans w (by decide)
    | intro _ _
    | intro _
    | with_reducible apply State.enqueue_writes
    | with_reducible apply State.setRefs_writes

theorem State.toRing_writes {F s x} {a1 a2 a3 a4 a5}
    (h : Writes F s x) (w : [283, 1044, 1045, 2051, 2323, 2324, 2327, 2331, 2332, 2333, 2334, 2360, 2362, 2363, 2364, 2365, 2566, 2585, 2586, 2590, 3110, 3113, 3114, 3123, 3125, 4907] ⊆ F := by exact subTrans (by assumption) (by decide)) :
    Writes F s (State.toRing x a1 a2 a3 a4 a5) := by
  unfold State.toRing
  repeat' first
    | with_reducible assumption
    | exact subTrans w (by decide)
    | intro _ _
    | intro _
    | with_reducible apply State.slowPass_writes
    | with_reducible apply State.setRefs_writes
    | with_reducible apply State.bypass_writes
    | refine State.slowPass_writesE (by with_reducible assumption) ?_
    | split

theorem State.setIngress_writes {F s x} {a1 a2} (h : Writes F s x) : Writes F s (State.setIngress x a1 a2) := by
  unfold State.setIngress
  repeat' first
    | with_reducible assumption
    | intro _ _
    | intro _
    | with_reducible apply Writes.choose
    | split
    | dsimp only
    | with_reducible apply Writes.upd

theorem State.route_writes {F s x} {a1 a2 a3 a4}
    (h : Writes F s x) (w : [283, 1044, 1045, 2051, 2323, 2324, 2327, 2331, 2332, 2333, 2334, 2360, 2362, 2363, 2364, 2365, 2566, 2585, 2586, 2590, 3110, 3113, 3114, 3123, 3125, 4907] ⊆ F := by exact subTrans (by assumption) (by decide)) :
    Writes F s (State.route x a1 a2 a3 a4) := by
  unfold State.route
  repeat' first
    | with_reducible assumption
    | exact subTrans w (by decide)
    | intro _ _
    | intro _
    | with_reducible apply Writes.choose
    | with_reducible apply State.bypass_writes
    | with_reducible apply State.toRing_writes
    | with_reducible apply State.setIngress_writes
    | split

theorem State.lateShort_writes {F s x} {a1 a2 a3} (h : Writes F s x) (w : [1043] ⊆ F := by exact subTrans (by assumption) (by decide)) :
    Writes F s (State.lateShort x a1 a2 a3) := by
  unfold State.lateShort
  repeat' first
    | with_reducible assumption
    | exact subTrans w (by decide)
    | intro _ _
    | intro _
    | with_reducible apply State.when_writes
    | with_reducible apply State.inc_writes
    | with_reducible apply State.when_writes
    | with_reducible exact Has.PARSE_LATE_SHORT (subTrans w (by decide))
    | split

theorem State.firstParse_writes {F s x} {a1 a2 a3} (h : Writes F s x) (w : [283] ⊆ F := by exact subTrans (by assumption) (by decide)) :
    Writes F s (State.firstParse x a1 a2 a3) := by
  unfold State.firstParse
  repeat' first
    | with_reducible assumption
    | exact subTrans w (by decide)
    | intro _ _
    | intro _
    | with_reducible apply State.putStore_writes
    | with_reducible apply State.inflightInc_writes

theorem State.rxMove_writes {F s x} {a1 a2} (h : Writes F s x) : Writes F s (State.rxMove x a1 a2) := by
  unfold State.rxMove
  repeat' first
    | with_reducible assumption
    | intro _ _
    | intro _
    | split
    | dsimp only
    | with_reducible apply Writes.upd

theorem State.parseHead_writes {F s x} {a1 a2 a3}
    (h : Writes F s x) (w : [283, 1037, 1038, 1039, 1040, 1041, 1042, 1043, 1044, 1045, 2051, 2316, 2317, 2318, 2319, 2320, 2321, 2322, 2323, 2324, 2325, 2326, 2327, 2331, 2332, 2333, 2334, 2360, 2362, 2363, 2364, 2365, 2566, 2585, 2586, 2590, 3076, 3083, 3084, 3085, 3104, 3110, 3113, 3114, 3123, 3125, 4907] ⊆ F := by exact subTrans (by assumption) (by decide)) :
    Writes F s (State.parseHead x a1 a2 a3) := by
  unfold State.parseHead
  repeat' first
    | with_reducible assumption
    | exact subTrans w (by decide)
    | intro _ _
    | intro _
    | with_reducible apply Writes.choose
    | with_reducible apply State.when_writes
    | with_reducible apply State.inc_writes
    | with_reducible apply State.when_writes
    | with_reducible apply State.draw_writes
    | with_reducible apply State.tally_writes
    | with_reducible apply State.setList_writes
    | with_reducible apply State.xoffEval_writes
    | with_reducible apply State.uncharge_writes
    | with_reducible apply State.refuse_writes
    | with_reducible apply State.release_writes
    | with_reducible apply State.fit_writes
    | with_reducible apply State.endAside_writes
    | with_reducible apply State.countParse_writes
    | with_reducible apply State.route_writes
    | with_reducible apply State.lateShort_writes
    | with_reducible apply State.firstParse_writes
    | with_reducible apply State.rxMove_writes
    | refine State.fit_writesE (by with_reducible assumption) ?_
    | refine State.grantRoom_writesE (by with_reducible assumption) ?_
    | with_reducible exact Has.CRUC_PARSE_ABANDON (subTrans w (by decide))
    | split
    | dsimp only

theorem State.parseRecirc_writes {F s x} {a1 a2 a3}
    (h : Writes F s x) (w : [283, 1037, 1038, 1039, 1040, 1041, 1042, 1043, 1044, 1045, 2051, 2316, 2317, 2318, 2319, 2320, 2321, 2322, 2323, 2324, 2325, 2326, 2327, 2331, 2332, 2333, 2334, 2360, 2362, 2363, 2364, 2365, 2566, 2585, 2586, 2590, 3076, 3083, 3084, 3085, 3104, 3110, 3113, 3114, 3123, 3125, 4907] ⊆ F := by exact subTrans (by assumption) (by decide)) :
    Writes F s (State.parseRecirc x a1 a2 a3) := by
  unfold State.parseRecirc
  repeat' first
    | with_reducible assumption
    | exact subTrans w (by decide)
    | intro _ _
    | intro _
    | with_reducible apply Writes.choose
    | with_reducible apply State.inc_writes
    | with_reducible apply State.draw_writes
    | with_reducible apply State.tally_writes
    | with_reducible apply State.xoffEval_writes
    | with_reducible apply State.refuse_writes
    | with_reducible apply State.decRef_writes
    | with_reducible apply State.instEnd_writes
    | with_reducible apply State.fit_writes
    | with_reducible apply State.endAside_writes
    | with_reducible apply State.countParse_writes
    | with_reducible apply State.route_writes
    | with_reducible apply State.lateShort_writes
    | refine State.chargeSegs_writesE (by with_reducible assumption) ?_
    | refine State.fit_writesE (by with_reducible assumption) ?_
    | refine State.grantRoom_writesE (by with_reducible assumption) ?_
    | with_reducible exact Has.CRUC_PARSE_ABANDON (subTrans w (by decide))
    | split
    | dsimp only
    | with_reducible apply Writes.upd

theorem State.setCpuList_writes {F s x} {a1 a2} (h : Writes F s x) : Writes F s (State.setCpuList x a1 a2) := by
  unfold State.setCpuList
  repeat' first
    | with_reducible assumption
    | intro _ _
    | intro _
    | with_reducible apply Writes.choose
    | split
    | dsimp only
    | with_reducible apply Writes.upd

theorem State.cpuDirect_writes {F s x} {a1 a2 a3}
    (h : Writes F s x) (w : [283, 2051, 2323, 2324, 2327, 2331, 2332, 2333, 2334, 2360, 2362, 2363, 2364, 2365, 2566, 2585, 2586, 2590, 3110, 3113, 3114, 3123, 3125, 4907] ⊆ F := by exact subTrans (by assumption) (by decide)) :
    Writes F s (State.cpuDirect x a1 a2 a3) := by
  unfold State.cpuDirect
  repeat' first
    | with_reducible assumption
    | exact subTrans w (by decide)
    | intro _ _
    | intro _
    | with_reducible apply State.bypass_writes
    | with_reducible apply State.firstParse_writes

theorem State.cpuRoute_writes {F s x} {a1 a2 a3 a4 a5}
    (h : Writes F s x) (w : [283, 1043, 1044, 1045, 2051, 2323, 2324, 2327, 2331, 2332, 2333, 2334, 2360, 2362, 2363, 2364, 2365, 2566, 2585, 2586, 2590, 3110, 3113, 3114, 3123, 3125, 4907] ⊆ F := by exact subTrans (by assumption) (by decide)) :
    Writes F s (State.cpuRoute x a1 a2 a3 a4 a5) := by
  unfold State.cpuRoute
  repeat' first
    | with_reducible assumption
    | exact subTrans w (by decide)
    | intro _ _
    | intro _
    | with_reducible apply State.xoffEval_writes
    | with_reducible apply State.route_writes
    | with_reducible apply State.lateShort_writes
    | with_reducible apply State.firstParse_writes

theorem State.rechain_writesE {F s x n r b t} (e : State.rechain x n = some (r, b, t)) (h : Writes F s x) (w : [283, 2316, 2317, 2319, 2320, 2321, 2322, 2323, 2325, 2331, 2332, 2333, 2334, 2360, 2362, 2363, 2364, 2365, 3076, 3083, 3084, 3085, 3104, 3110, 3113, 3114, 3123, 3125, 4907] ⊆ F := by exact subTrans (by assumption) (by decide)) :
    Writes F s t := by
  unfold State.rechain at e
  dsimp only at e
  split at e
  · cases e
  · cases e
    exact State.when_writes (fun _ => State.endAside_writes)
      (State.fit_writes (State.vacate_writes (State.grantRoom_writesE (by assumption) h)))

theorem State.parseCpu_writes {F s x} {a1 a2 a3}
    (h : Writes F s x) (w : [283, 1037, 1038, 1039, 1040, 1041, 1042, 1043, 1044, 1045, 2051, 2316, 2317, 2318, 2319, 2320, 2321, 2322, 2323, 2324, 2325, 2326, 2327, 2331, 2332, 2333, 2334, 2360, 2362, 2363, 2364, 2365, 2566, 2585, 2586, 2590, 3076, 3083, 3084, 3085, 3104, 3110, 3113, 3114, 3123, 3125, 4907] ⊆ F := by exact subTrans (by assumption) (by decide)) :
    Writes F s (State.parseCpu x a1 a2 a3) := by
  unfold State.parseCpu
  repeat' first
    | with_reducible assumption
    | exact subTrans w (by decide)
    | intro _ _
    | intro _
    | with_reducible apply Writes.choose
    | with_reducible apply State.inc_writes
    | with_reducible apply State.draw_writes
    | with_reducible apply State.xoffEval_writes
    | with_reducible apply State.refuse_writes
    | with_reducible apply State.release_writes
    | with_reducible apply State.countParse_writes
    | with_reducible apply State.setCpuList_writes
    | with_reducible apply State.cpuDirect_writes
    | with_reducible apply State.cpuRoute_writes
    | refine State.rechain_writesE (by with_reducible assumption) ?_
    | with_reducible exact Has.CRUC_PARSE_ABANDON (subTrans w (by decide))
    | split

theorem State.setArbSrc_writes {F s x} {a1 a2} (h : Writes F s x) : Writes F s (State.setArbSrc x a1 a2) := by
  unfold State.setArbSrc
  repeat' first
    | with_reducible assumption
    | intro _ _
    | intro _
    | split
    | dsimp only
    | with_reducible apply Writes.upd

theorem State.setArbList_writes {F s x} {a1 a2} (h : Writes F s x) : Writes F s (State.setArbList x a1 a2) := by
  unfold State.setArbList
  repeat' first
    | with_reducible assumption
    | intro _ _
    | intro _
    | split
    | dsimp only
    | with_reducible apply Writes.upd

theorem State.parseFrom_writes {F s x} {a1 a2 a3}
    (h : Writes F s x) (w : [283, 1037, 1038, 1039, 1040, 1041, 1042, 1043, 1044, 1045, 2051, 2316, 2317, 2318, 2319, 2320, 2321, 2322, 2323, 2324, 2325, 2326, 2327, 2331, 2332, 2333, 2334, 2360, 2362, 2363, 2364, 2365, 2566, 2585, 2586, 2590, 3076, 3083, 3084, 3085, 3104, 3110, 3113, 3114, 3123, 3125, 4907] ⊆ F := by exact subTrans (by assumption) (by decide)) :
    Writes F s (State.parseFrom x a1 a2 a3) := by
  unfold State.parseFrom
  repeat' first
    | with_reducible assumption
    | exact subTrans w (by decide)
    | intro _ _
    | intro _
    | with_reducible apply State.tally_writes
    | with_reducible apply State.parseHead_writes
    | with_reducible apply State.parseRecirc_writes
    | with_reducible apply State.parseCpu_writes
    | with_reducible apply State.setArbList_writes
    | split
    | dsimp only

theorem State.arbTurn_writes {F s x} {a1 a2} (h : Writes F s x) : Writes F s (State.arbTurn x a1 a2) := by
  unfold State.arbTurn
  repeat' first
    | with_reducible assumption
    | intro _ _
    | intro _
    | with_reducible apply State.setArbSrc_writes
    | with_reducible apply State.setArbList_writes

theorem State.bubbleTally_writes {F s x} {a1}
    (h : Writes F s x) (w : [3110, 3113, 3114, 3123, 3125, 4907] ⊆ F := by exact subTrans (by assumption) (by decide)) :
    Writes F s (State.bubbleTally x a1) := by
  unfold State.bubbleTally
  repeat' first
    | with_reducible assumption
    | exact subTrans w (by decide)
    | intro _ _
    | intro _
    | with_reducible apply Writes.choose
    | with_reducible apply State.tally_writes

theorem State.slotGrant_writes {F s x} {a1 a2}
    (h : Writes F s x) (w : [283, 1037, 1038, 1039, 1040, 1041, 1042, 1043, 1044, 1045, 2051, 2316, 2317, 2318, 2319, 2320, 2321, 2322, 2323, 2324, 2325, 2326, 2327, 2331, 2332, 2333, 2334, 2360, 2362, 2363, 2364, 2365, 2566, 2585, 2586, 2590, 3076, 3083, 3084, 3085, 3104, 3110, 3113, 3114, 3123, 3125, 4907] ⊆ F := by exact subTrans (by assumption) (by decide)) :
    Writes F s (State.slotGrant x a1 a2) := by
  unfold State.slotGrant
  repeat' first
    | with_reducible assumption
    | exact subTrans w (by decide)
    | intro _ _
    | intro _
    | with_reducible apply State.setArbSrc_writes
    | with_reducible apply State.parseFrom_writes
    | split
    | dsimp only

theorem State.parseSlot_writes {F s x} {a1 a2}
    (h : Writes F s x) (w : [283, 1037, 1038, 1039, 1040, 1041, 1042, 1043, 1044, 1045, 2051, 2316, 2317, 2318, 2319, 2320, 2321, 2322, 2323, 2324, 2325, 2326, 2327, 2331, 2332, 2333, 2334, 2360, 2362, 2363, 2364, 2365, 2566, 2585, 2586, 2590, 3076, 3083, 3084, 3085, 3104, 3110, 3113, 3114, 3123, 3125, 4907] ⊆ F := by exact subTrans (by assumption) (by decide)) :
    Writes F s (State.parseSlot x a1 a2) := by
  unfold State.parseSlot
  repeat' first
    | with_reducible assumption
    | exact subTrans w (by decide)
    | intro _ _
    | intro _
    | with_reducible apply Writes.choose
    | with_reducible apply State.when_writes
    | with_reducible apply State.when_writes
    | with_reducible apply State.slotUse_writes
    | with_reducible apply State.arbTurn_writes
    | with_reducible apply State.bubbleTally_writes
    | with_reducible apply State.slotGrant_writes

end Sys2Proof.Machine
end

