-- ==== Sys2Proof/Laws/WritesTables.lean ====
section
/-!
SUPPORT. What the operations of the lookup structures write: one lemma for each.
-/
namespace Sys2Proof.Machine
set_option Elab.async false

/-! ### Machine/Filigree.lean -/

theorem State.filLookup_writes {F s x} {a1 a2 a3 a4 a5}
    (h : Writes F s x) (w : [1286, 1287, 1288, 3110, 3113, 3114, 3123, 3125, 4907] ⊆ F := by exact subTrans (by assumption) (by decide)) :
    Writes F s (State.filLookup x a1 a2 a3 a4 a5).2 := by
  unfold State.filLookup
  repeat' first
    | with_reducible assumption
    | exact subTrans w (by decide)
    | intro _ _
    | intro _
    | with_reducible apply Writes.choose
    | with_reducible apply Writes.foldl
    | with_reducible apply Writes.foldl_snd
    | with_reducible apply Writes.foldl_fst
    | with_reducible apply Writes.foldl_third
    | with_reducible apply State.inc_writes
    | with_reducible apply State.injClear_writes
    | with_reducible apply State.fault_writes
    | with_reducible apply State.faultInjected_writes
    | with_reducible apply State.tally_writes
    | with_reducible apply State.bankOps_writes
    | with_reducible exact Has.FIL_LOOKUPS (subTrans w (by decide))
    | with_reducible exact Has.FIL_HITS (subTrans w (by decide))
    | with_reducible exact Has.FIL_ERRORS (subTrans w (by decide))
    | split
    | dsimp only

theorem State.filLookup_writesE {F s x} {a1 a2 a3 a4 a5} {r0 t} (e : State.filLookup x a1 a2 a3 a4 a5 = (r0, t))
    (h : Writes F s x) (w : [1286, 1287, 1288, 3110, 3113, 3114, 3123, 3125, 4907] ⊆ F := by exact subTrans (by assumption) (by decide)) :
    Writes F s t := by
  have k := State.filLookup_writes (F := F) (s := s) (x := x) (a1 := a1) (a2 := a2) (a3 := a3) (a4 := a4) (a5 := a5) h
  rwa [e] at k

theorem State.filShow_writes {F s x} (h : Writes F s x) (w : [1284, 1285] ⊆ F := by exact subTrans (by assumption) (by decide)) :
    Writes F s (State.filShow x) := by
  unfold State.filShow
  repeat' first
    | with_reducible assumption
    | exact subTrans w (by decide)
    | intro _ _
    | intro _
    | with_reducible apply Writes.upTo
    | with_reducible apply State.set_writes
    | with_reducible exact Has.FIL_RULE_COUNT (subTrans w (by decide))
    | with_reducible exact Has.FIL_ROOT (subTrans w (by decide))

/-! ### Machine/ExactMatch.lean -/

theorem State.emPut_writes {F s x} {a1 a2} (h : Writes F s x) : Writes F s (State.emPut x a1 a2) := by
  unfold State.emPut
  repeat' first
    | with_reducible assumption
    | intro _ _
    | intro _
    | with_reducible apply State.memStore_writes

theorem State.emFlags_writes {F s x} {a1 a2 a3} (h : Writes F s x) : Writes F s (State.emFlags x a1 a2 a3) := by
  unfold State.emFlags
  repeat' first
    | with_reducible assumption
    | intro _ _
    | intro _
    | with_reducible apply State.memSet_writes

theorem State.emWork_writes {F s x} {a1 a2 a3}
    (h : Writes F s x) (w : [3110, 3113, 3114, 3123, 3125, 4907] ⊆ F := by exact subTrans (by assumption) (by decide)) :
    Writes F s (State.emWork x a1 a2 a3) := by
  unfold State.emWork
  repeat' first
    | with_reducible assumption
    | exact subTrans w (by decide)
    | intro _ _
    | intro _
    | with_reducible apply State.bankWork_writes

theorem State.emScan_writes {F s x} {a1 a2}
    (h : Writes F s x) (w : [3110, 3113, 3114, 3123, 3125, 4907] ⊆ F := by exact subTrans (by assumption) (by decide)) :
    Writes F s (State.emScan x a1 a2) := by
  unfold State.emScan
  repeat' first
    | with_reducible assumption
    | exact subTrans w (by decide)
    | intro _ _
    | intro _
    | with_reducible apply Writes.foldl
    | with_reducible apply Writes.foldl_snd
    | with_reducible apply Writes.foldl_fst
    | with_reducible apply Writes.foldl_third
    | with_reducible apply State.emWork_writes

theorem State.emCorrect_writes {F s x} {a1 a2} (h : Writes F s x) (w : [1538] ⊆ F := by exact subTrans (by assumption) (by decide)) :
    Writes F s (State.emCorrect x a1 a2) := by
  unfold State.emCorrect
  repeat' first
    | with_reducible assumption
    | exact subTrans w (by decide)
    | intro _ _
    | intro _
    | with_reducible apply Writes.foldl
    | with_reducible apply Writes.foldl_snd
    | with_reducible apply Writes.foldl_fst
    | with_reducible apply Writes.foldl_third
    | with_reducible apply State.add_writes
    | with_reducible apply State.injClear_writes
    | with_reducible exact Has.EM_ECC_CORR (subTrans w (by decide))

theorem State.emHitSet_writes {F s x} {a1 a2 a3}
    (h : Writes F s x) (w : [3110, 3113, 3114, 3123, 3125, 4907] ⊆ F := by exact subTrans (by assumption) (by decide)) :
    Writes F s (State.emHitSet x a1 a2 a3) := by
  unfold State.emHitSet
  repeat' first
    | with_reducible assumption
    | exact subTrans w (by decide)
    | intro _ _
    | intro _
    | with_reducible apply State.bankOps_writes
    | with_reducible apply State.emFlags_writes
    | split

theorem State.emLookup_writes {F s x} {a1 a2 a3 a4}
    (h : Writes F s x) (w : [1538, 1555, 1556, 1563, 1564, 3110, 3113, 3114, 3123, 3125, 4907] ⊆ F := by exact subTrans (by assumption) (by decide)) :
    Writes F s (State.emLookup x a1 a2 a3 a4).2 := by
  unfold State.emLookup
  repeat' first
    | with_reducible assumption
    | exact subTrans w (by decide)
    | intro _ _
    | intro _
    | with_reducible apply Writes.choose
    | with_reducible apply State.when_writes
    | with_reducible apply Writes.foldl
    | with_reducible apply Writes.foldl_snd
    | with_reducible apply Writes.foldl_fst
    | with_reducible apply Writes.foldl_third
    | with_reducible apply State.inc_writes
    | with_reducible apply State.when_writes
    | with_reducible apply State.fault_writes
    | with_reducible apply State.faultInjected_writes
    | with_reducible apply State.tally_writes
    | with_reducible apply State.bankOps_writes
    | with_reducible apply State.emCorrect_writes
    | with_reducible apply State.emHitSet_writes
    | with_reducible exact Has.EM_T_LOOKUPS (subTrans w (by decide))
    | with_reducible exact Has.EM_T_HITS (subTrans w (by decide))
    | with_reducible exact Has.EM_T_DUPLICATES (subTrans w (by decide))
    | with_reducible exact Has.EM_T_ERRORS (subTrans w (by decide))
    | split
    | dsimp only

theorem State.emLookup_writesE {F s x} {a1 a2 a3 a4} {r0 t} (e : State.emLookup x a1 a2 a3 a4 = (r0, t))
    (h : Writes F s x) (w : [1538, 1555, 1556, 1563, 1564, 3110, 3113, 3114, 3123, 3125, 4907] ⊆ F := by exact subTrans (by assumption) (by decide)) :
    Writes F s t := by
  have k := State.emLookup_writes (F := F) (s := s) (x := x) (a1 := a1) (a2 := a2) (a3 := a3) (a4 := a4) h
  rwa [e] at k

theorem State.emMove_writes {F s x} {a1 a2 a3}
    (h : Writes F s x) (w : [3110, 3113, 3114, 3123, 3125, 4907] ⊆ F := by exact subTrans (by assumption) (by decide)) :
    Writes F s (State.emMove x a1 a2 a3) := by
  unfold State.emMove
  repeat' first
    | with_reducible assumption
    | exact subTrans w (by decide)
    | intro _ _
    | intro _
    | with_reducible apply State.bankWork_writes
    | with_reducible apply State.emPut_writes
    | with_reducible apply State.emFlags_writes
    | with_reducible apply State.emWork_writes

theorem State.emShift_writes {F s x n l}
    (h : Writes F s x) (w : [3110, 3113, 3114, 3123, 3125, 4907] ⊆ F := by exact subTrans (by assumption) (by decide)) :
    Writes F s (State.emShift x n l) := by
  fun_induction State.emShift x n l with
  | case1 a b rest ih => exact State.emMove_writes ih
  | case2 => exact h

theorem State.emInsert_writes {F s x} {a1 a2}
    (h : Writes F s x) (w : [3110, 3113, 3114, 3123, 3125, 4907] ⊆ F := by exact subTrans (by assumption) (by decide)) :
    Writes F s (State.emInsert x a1 a2).2 := by
  unfold State.emInsert
  repeat' first
    | with_reducible assumption
    | exact subTrans w (by decide)
    | intro _ _
    | intro _
    | with_reducible apply Writes.choose
    | with_reducible apply State.memSet_writes
    | with_reducible apply State.memStore_writes
    | with_reducible apply State.emPut_writes
    | with_reducible apply State.emWork_writes
    | with_reducible apply State.emShift_writes
    | split

theorem State.emInsert_writesE {F s x} {a1 a2} {r0 t} (e : State.emInsert x a1 a2 = (r0, t))
    (h : Writes F s x) (w : [3110, 3113, 3114, 3123, 3125, 4907] ⊆ F := by exact subTrans (by assumption) (by decide)) :
    Writes F s t := by
  have k := State.emInsert_writes (F := F) (s := s) (x := x) (a1 := a1) (a2 := a2) h
  rwa [e] at k

theorem State.emRemove_writes {F s x} {a1 a2} (h : Writes F s x) : Writes F s (State.emRemove x a1 a2) := by
  unfold State.emRemove
  repeat' first
    | with_reducible assumption
    | intro _ _
    | intro _
    | with_reducible apply State.memSet_writes
    | with_reducible apply State.emFlags_writes
    | split

theorem State.emShow_writes {F s x} {a1} (h : Writes F s x) (w : [1545, 1546] ⊆ F := by exact subTrans (by assumption) (by decide)) :
    Writes F s (State.emShow x a1) := by
  unfold State.emShow
  repeat' first
    | with_reducible assumption
    | exact subTrans w (by decide)
    | intro _ _
    | intro _
    | with_reducible apply State.set_writes
    | with_reducible apply State.setB_writes
    | with_reducible exact Has.EM_CMD_LOCATION (subTrans w (by decide))
    | with_reducible exact Has.EM_CMD_IN_STASH (subTrans w (by decide))
    | split

theorem State.emDone_writes {F s x} {a1} (h : Writes F s x) (w : [1541, 1543, 4907] ⊆ F := by exact subTrans (by assumption) (by decide)) :
    Writes F s (State.emDone x a1) := by
  unfold State.emDone
  repeat' first
    | with_reducible assumption
    | exact subTrans w (by decide)
    | intro _ _
    | intro _
    | with_reducible apply State.set_writes
    | with_reducible apply State.event_writes
    | with_reducible exact Has.EM_CMD_CODE (subTrans w (by decide))
    | with_reducible exact Has.EM_CMD_DONE (subTrans w (by decide))

theorem State.emEndCmd_writes {F s r}
    (h : Writes F s r.2) (w : [1541, 1543, 1545, 1546, 4907] ⊆ F := by exact subTrans (by assumption) (by decide)) :
    Writes F s (State.emEndCmd r) := by
  unfold State.emEndCmd
  split
  · exact State.emDone_writes (State.emShow_writes h)
  · exact State.emDone_writes h
  · exact State.emDone_writes h

theorem State.emTable_writes {F s x} {a1 a2} (h2 : ∀ y, Writes F s y → Writes F s (a2 y))
    (h : Writes F s x) (w : [1541, 1543, 4907] ⊆ F := by exact subTrans (by assumption) (by decide)) :
    Writes F s (State.emTable x a1 a2) := by
  unfold State.emTable
  repeat' first
    | with_reducible assumption
    | exact subTrans w (by decide)
    | intro _ _
    | intro _
    | apply h2
    | with_reducible apply Writes.choose
    | with_reducible apply State.emDone_writes

theorem State.emCmdInsert_writes {F s x} {a1}
    (h : Writes F s x) (w : [1541, 1543, 1545, 1546, 3110, 3113, 3114, 3123, 3125, 4907] ⊆ F := by exact subTrans (by assumption) (by decide)) :
    Writes F s (State.emCmdInsert x a1) := by
  unfold State.emCmdInsert
  repeat' first
    | with_reducible assumption
    | exact subTrans w (by decide)
    | intro _ _
    | intro _
    | with_reducible apply State.emInsert_writes
    | with_reducible apply State.emShow_writes
    | with_reducible apply State.emDone_writes
    | with_reducible apply State.emEndCmd_writes
    | with_reducible apply State.emTable_writes
    | refine State.emInsert_writesE (by with_reducible assumption) ?_
    | split

theorem State.emCmdReplace_writes {F s x} {a1}
    (h : Writes F s x) (w : [1541, 1543, 1545, 1546, 3110, 3113, 3114, 3123, 3125, 4907] ⊆ F := by exact subTrans (by assumption) (by decide)) :
    Writes F s (State.emCmdReplace x a1) := by
  unfold State.emCmdReplace
  repeat' first
    | with_reducible assumption
    | exact subTrans w (by decide)
    | intro _ _
    | intro _
    | with_reducible apply Writes.choose
    | with_reducible apply State.emPut_writes
    | with_reducible apply State.emInsert_writes
    | with_reducible apply State.emShow_writes
    | with_reducible apply State.emDone_writes
    | with_reducible apply State.emEndCmd_writes
    | with_reducible apply State.emTable_writes
    | refine State.emInsert_writesE (by with_reducible assumption) ?_
    | split

theorem State.emCmdDelete_writes {F s x} {a1}
    (h : Writes F s x) (w : [1541, 1543, 1545, 1546, 4907] ⊆ F := by exact subTrans (by assumption) (by decide)) :
    Writes F s (State.emCmdDelete x a1) := by
  unfold State.emCmdDelete
  repeat' first
    | with_reducible assumption
    | exact subTrans w (by decide)
    | intro _ _
    | intro _
    | with_reducible apply Writes.choose
    | with_reducible apply State.emRemove_writes
    | with_reducible apply State.emShow_writes
    | with_reducible apply State.emDone_writes
    | with_reducible apply State.emTable_writes
    | split

theorem State.emCmdSearch_writes {F s x} {a1}
    (h : Writes F s x) (w : [1541, 1543, 1545, 1546, 1548, 1549, 4907] ⊆ F := by exact subTrans (by assumption) (by decide)) :
    Writes F s (State.emCmdSearch x a1) := by
  unfold State.emCmdSearch
  repeat' first
    | with_reducible assumption
    | exact subTrans w (by decide)
    | intro _ _
    | intro _
    | with_reducible apply State.set_writes
    | with_reducible apply State.emShow_writes
    | with_reducible apply State.emDone_writes
    | with_reducible apply State.emTable_writes
    | with_reducible exact Has.EM_CMD_RESULT (subTrans w (by decide))
    | with_reducible exact Has.EM_CMD_FLAGS (subTrans w (by decide))
    | split

theorem State.emRun_writes {F s x} {a1 a2}
    (h : Writes F s x) (w : [1541, 1543, 1545, 1546, 1548, 1549, 3110, 3113, 3114, 3123, 3125, 4907] ⊆ F := by exact subTrans (by assumption) (by decide)) :
    Writes F s (State.emRun x a1 a2) := by
  unfold State.emRun
  repeat' first
    | with_reducible assumption
    | exact subTrans w (by decide)
    | intro _ _
    | intro _
    | with_reducible apply State.when_writes
    | with_reducible apply State.when_writes
    | with_reducible apply State.emScan_writes
    | with_reducible apply State.emDone_writes
    | with_reducible apply State.emCmdInsert_writes
    | with_reducible apply State.emCmdReplace_writes
    | with_reducible apply State.emCmdDelete_writes
    | with_reducible apply State.emCmdSearch_writes
    | split

theorem State.emCommand_writes {F s x} {a1 a2}
    (h : Writes F s x) (w : [1541, 1543, 1544, 1545, 1546, 1548, 1549, 3110, 3113, 3114, 3123, 3125, 4907] ⊆ F := by exact subTrans (by assumption) (by decide)) :
    Writes F s (State.emCommand x a1 a2) := by
  unfold State.emCommand
  repeat' first
    | with_reducible assumption
    | exact subTrans w (by decide)
    | intro _ _
    | intro _
    | with_reducible apply Writes.choose
    | with_reducible apply State.setB_writes
    | with_reducible apply State.emRun_writes
    | with_reducible exact Has.EM_CMD_CMD_OVERRUN (subTrans w (by decide))
    | split
    | dsimp only
    | with_reducible apply Writes.upd

theorem State.emTurn_writes {F s x}
    (h : Writes F s x) (w : [1541, 1543, 1545, 1546, 1548, 1549, 3110, 3113, 3114, 3123, 3125, 4907] ⊆ F := by exact subTrans (by assumption) (by decide)) :
    Writes F s (State.emTurn x) := by
  unfold State.emTurn
  repeat' first
    | with_reducible assumption
    | exact subTrans w (by decide)
    | intro _ _
    | intro _
    | with_reducible apply Writes.choose
    | with_reducible apply State.emRun_writes
    | split
    | dsimp only
    | with_reducible apply Writes.upd

theorem State.learnPut_writes {F s x} {a1 a2} (h : Writes F s x) : Writes F s (State.learnPut x a1 a2) := by
  unfold State.learnPut
  repeat' first
    | with_reducible assumption
    | intro _ _
    | intro _
    | split
    | dsimp only
    | with_reducible apply Writes.upd

theorem State.learnRequest_writes {F s x} {a1} (h : Writes F s x) (w : [1558] ⊆ F := by exact subTrans (by assumption) (by decide)) :
    Writes F s (State.learnRequest x a1) := by
  unfold State.learnRequest
  repeat' first
    | with_reducible assumption
    | exact subTrans w (by decide)
    | intro _ _
    | intro _
    | with_reducible apply Writes.choose
    | with_reducible apply State.inc_writes
    | with_reducible apply State.learnPut_writes
    | with_reducible exact Has.EM_T_LEARN_DROP (subTrans w (by decide))
    | split
    | dsimp only
    | with_reducible apply Writes.upd

theorem State.emNotice_writes {F s x} {a1 a2 a3 a4}
    (h : Writes F s x) (w : [1562, 3345, 3346, 3349, 3354, 3355] ⊆ F := by exact subTrans (by assumption) (by decide)) :
    Writes F s (State.emNotice x a1 a2 a3 a4) := by
  unfold State.emNotice
  repeat' first
    | with_reducible assumption
    | exact subTrans w (by decide)
    | intro _ _
    | intro _
    | with_reducible apply Writes.choose
    | with_reducible apply State.inc_writes
    | with_reducible apply State.eventRingWrite_writes
    | refine State.eventRingWrite_writesE (by with_reducible assumption) ?_
    | with_reducible exact Has.EM_T_NOTICE_LOST (subTrans w (by decide))
    | split
    | dsimp only

theorem State.learnNew_writes {F s x} {a1}
    (h : Writes F s x) (w : [1557, 1559, 1562, 3110, 3113, 3114, 3123, 3125, 3345, 3346, 3349, 3354, 3355, 4907] ⊆ F := by exact subTrans (by assumption) (by decide)) :
    Writes F s (State.learnNew x a1) := by
  unfold State.learnNew
  repeat' first
    | with_reducible assumption
    | exact subTrans w (by decide)
    | intro _ _
    | intro _
    | with_reducible apply State.inc_writes
    | with_reducible apply State.emInsert_writes
    | with_reducible apply State.emNotice_writes
    | refine State.emInsert_writesE (by with_reducible assumption) ?_
    | with_reducible exact Has.EM_T_LEARNS (subTrans w (by decide))
    | with_reducible exact Has.EM_T_LEARN_FAIL (subTrans w (by decide))
    | split
    | dsimp only

theorem State.learnMove_writes {F s x} {a1 a2}
    (h : Writes F s x) (w : [1557, 1559, 1562, 3345, 3346, 3349, 3354, 3355] ⊆ F := by exact subTrans (by assumption) (by decide)) :
    Writes F s (State.learnMove x a1 a2) := by
  unfold State.learnMove
  repeat' first
    | with_reducible assumption
    | exact subTrans w (by decide)
    | intro _ _
    | intro _
    | with_reducible apply Writes.choose
    | with_reducible apply State.inc_writes
    | with_reducible apply State.emPut_writes
    | with_reducible apply State.emNotice_writes
    | with_reducible exact Has.EM_T_LEARNS (subTrans w (by decide))
    | with_reducible exact Has.EM_T_LEARN_FAIL (subTrans w (by decide))

theorem State.learnOne_writes {F s x} {a1}
    (h : Writes F s x) (w : [1557, 1559, 1562, 3110, 3113, 3114, 3123, 3125, 3345, 3346, 3349, 3354, 3355, 4907] ⊆ F := by exact subTrans (by assumption) (by decide)) :
    Writes F s (State.learnOne x a1) := by
  unfold State.learnOne
  repeat' first
    | with_reducible assumption
    | exact subTrans w (by decide)
    | intro _ _
    | intro _
    | with_reducible apply Writes.choose
    | with_reducible apply State.emScan_writes
    | with_reducible apply State.learnNew_writes
    | with_reducible apply State.learnMove_writes
    | split
    | dsimp only

theorem State.learnServe_writes {F s x}
    (h : Writes F s x) (w : [1541, 1543, 1545, 1546, 1548, 1549, 1557, 1559, 1562, 3110, 3113, 3114, 3123, 3125, 3345, 3346, 3349, 3354, 3355, 4907] ⊆ F := by exact subTrans (by assumption) (by decide)) :
    Writes F s (State.learnServe x) := by
  unfold State.learnServe
  repeat' first
    | with_reducible assumption
    | exact subTrans w (by decide)
    | intro _ _
    | intro _
    | with_reducible apply State.emTurn_writes
    | with_reducible apply State.learnOne_writes
    | split
    | dsimp only
    | with_reducible apply Writes.upd

theorem State.ageEntry_writes {F s x} {a1 a2}
    (h : Writes F s x) (w : [1560, 1562, 3345, 3346, 3349, 3354, 3355] ⊆ F := by exact subTrans (by assumption) (by decide)) :
    Writes F s (State.ageEntry x a1 a2) := by
  unfold State.ageEntry
  repeat' first
    | with_reducible assumption
    | exact subTrans w (by decide)
    | intro _ _
    | intro _
    | with_reducible apply Writes.choose
    | with_reducible apply State.inc_writes
    | with_reducible apply State.emFlags_writes
    | with_reducible apply State.emRemove_writes
    | with_reducible apply State.emNotice_writes
    | with_reducible exact Has.EM_T_AGED (subTrans w (by decide))

theorem State.ageVisit_writes {F s x} {a1 a2}
    (h : Writes F s x) (w : [1560, 1562, 3110, 3113, 3114, 3123, 3125, 3345, 3346, 3349, 3354, 3355, 4907] ⊆ F := by exact subTrans (by assumption) (by decide)) :
    Writes F s (State.ageVisit x a1 a2) := by
  unfold State.ageVisit
  repeat' first
    | with_reducible assumption
    | exact subTrans w (by decide)
    | intro _ _
    | intro _
    | with_reducible apply State.bankWork_writes
    | with_reducible apply State.ageEntry_writes

theorem State.ageSkip_writes {F s x} {a1 a2} (h : Writes F s x) (w : [1561] ⊆ F := by exact subTrans (by assumption) (by decide)) :
    Writes F s (State.ageSkip x a1 a2) := by
  unfold State.ageSkip
  repeat' first
    | with_reducible assumption
    | exact subTrans w (by decide)
    | intro _ _
    | intro _
    | with_reducible apply Writes.choose
    | with_reducible apply State.inc_writes
    | with_reducible exact Has.EM_T_AGE_SKIPPED (subTrans w (by decide))
    | split
    | dsimp only
    | with_reducible apply Writes.upd

theorem State.ageVisits_writes {F s x} {a1 a2}
    (h : Writes F s x) (w : [1560, 1561, 1562, 3110, 3113, 3114, 3123, 3125, 3345, 3346, 3349, 3354, 3355, 4907] ⊆ F := by exact subTrans (by assumption) (by decide)) :
    Writes F s (State.ageVisits x a1 a2) := by
  unfold State.ageVisits
  repeat' first
    | with_reducible assumption
    | exact subTrans w (by decide)
    | intro _ _
    | intro _
    | with_reducible apply Writes.choose
    | with_reducible apply Writes.upTo
    | with_reducible apply State.ageEntry_writes
    | with_reducible apply State.ageVisit_writes
    | with_reducible apply State.ageSkip_writes

theorem State.ageStep_writes {F s x} {a1}
    (h : Writes F s x) (w : [1560, 1561, 1562, 3110, 3113, 3114, 3123, 3125, 3345, 3346, 3349, 3354, 3355, 4907] ⊆ F := by exact subTrans (by assumption) (by decide)) :
    Writes F s (State.ageStep x a1) := by
  unfold State.ageStep
  repeat' first
    | with_reducible assumption
    | exact subTrans w (by decide)
    | intro _ _
    | intro _
    | with_reducible apply Writes.choose
    | with_reducible apply State.ageVisits_writes
    | split
    | dsimp only
    | with_reducible apply Writes.upd

theorem State.emClaspReq_writes {F s x} {a1} (h : Writes F s x) (w : [1565] ⊆ F := by exact subTrans (by assumption) (by decide)) :
    Writes F s (State.emClaspReq x a1) := by
  unfold State.emClaspReq
  repeat' first
    | with_reducible assumption
    | exact subTrans w (by decide)
    | intro _ _
    | intro _
    | with_reducible apply State.setBit_writes
    | with_reducible exact Has.EM_REQ (subTrans w (by decide))

theorem State.emClaspGrant_writes {F s x} {a1} (h : Writes F s x) (w : [1566] ⊆ F := by exact subTrans (by assumption) (by decide)) :
    Writes F s (State.emClaspGrant x a1) := by
  unfold State.emClaspGrant
  repeat' first
    | with_reducible assumption
    | exact subTrans w (by decide)
    | intro _ _
    | intro _
    | with_reducible apply Writes.choose
    | with_reducible apply State.setBit_writes
    | with_reducible exact Has.EM_HELD (subTrans w (by decide))

theorem State.emClaspFree_writes {F s x} {a1} (h : Writes F s x) (w : [1565, 1566] ⊆ F := by exact subTrans (by assumption) (by decide)) :
    Writes F s (State.emClaspFree x a1) := by
  unfold State.emClaspFree
  repeat' first
    | with_reducible assumption
    | exact subTrans w (by decide)
    | intro _ _
    | intro _
    | with_reducible apply State.clearBit_writes
    | with_reducible exact Has.EM_REQ (subTrans w (by decide))
    | with_reducible exact Has.EM_HELD (subTrans w (by decide))

/-! ### Machine/Ase.lean -/

theorem State.slotSetFlags_writes {F s x} {a1 a2 a3 a4} (h : Writes F s x) :
    Writes F s (State.slotSetFlags x a1 a2 a3 a4) := by
  unfold State.slotSetFlags
  repeat' first
    | with_reducible assumption
    | intro _ _
    | intro _
    | with_reducible apply Writes.choose
    | with_reducible apply State.memSet_writes

theorem State.slotClear_writes {F s x} {a1 a2 a3} (h : Writes F s x) : Writes F s (State.slotClear x a1 a2 a3) := by
  unfold State.slotClear
  repeat' first
    | with_reducible assumption
    | intro _ _
    | intro _
    | with_reducible apply State.slotSetFlags_writes

theorem State.parityEvent_writes {F s x} {a1 a2 a3 a4 a5 a6}
    (h : Writes F s x) (w : [1795, 1796, 1797, 1798, 1799, 1832] ⊆ F := by exact subTrans (by assumption) (by decide)) :
    Writes F s (State.parityEvent x a1 a2 a3 a4 a5 a6) := by
  unfold State.parityEvent
  repeat' first
    | with_reducible assumption
    | exact subTrans w (by decide)
    | intro _ _
    | intro _
    | with_reducible apply State.set_writes
    | with_reducible apply State.setB_writes
    | with_reducible apply State.inc_writes
    | with_reducible apply State.faultAt_writes
    | with_reducible exact Has.ASE_PL_BANK (subTrans w (by decide))
    | with_reducible exact Has.ASE_PL_INDEX (subTrans w (by decide))
    | with_reducible exact Has.ASE_PL_REPAIRED (subTrans w (by decide))
    | with_reducible exact Has.ASE_PL_BY_SEARCH (subTrans w (by decide))
    | with_reducible exact Has.ASE_PL_VALID (subTrans w (by decide))
    | with_reducible exact Has.ASE_P_ERRORS (subTrans w (by decide))

theorem State.slotMend_writes {F s x} {a1 a2 a3 a4 a5} (h : Writes F s x) :
    Writes F s (State.slotMend x a1 a2 a3 a4 a5) := by
  unfold State.slotMend
  repeat' first
    | with_reducible assumption
    | intro _ _
    | intro _
    | with_reducible apply Writes.foldl
    | with_reducible apply Writes.foldl_snd
    | with_reducible apply Writes.foldl_fst
    | with_reducible apply Writes.foldl_third
    | with_reducible apply State.injClear_writes

theorem State.slotFail_writes {F s x} {a1 a2 a3 a4 a5 a6}
    (h : Writes F s x) (w : [1795, 1796, 1797, 1798, 1799, 1832] ⊆ F := by exact subTrans (by assumption) (by decide)) :
    Writes F s (State.slotFail x a1 a2 a3 a4 a5 a6) := by
  unfold State.slotFail
  repeat' first
    | with_reducible assumption
    | exact subTrans w (by decide)
    | intro _ _
    | intro _
    | with_reducible apply State.slotClear_writes
    | with_reducible apply State.parityEvent_writes
    | with_reducible apply State.slotMend_writes

theorem State.slotBad_writes {F s x} {a1 a2 a3 a4} (h : Writes F s x) (w : [1832] ⊆ F := by exact subTrans (by assumption) (by decide)) :
    Writes F s (State.slotBad x a1 a2 a3 a4) := by
  unfold State.slotBad
  repeat' first
    | with_reducible assumption
    | exact subTrans w (by decide)
    | intro _ _
    | intro _
    | with_reducible apply State.inc_writes
    | with_reducible apply State.faultAt_writes
    | with_reducible exact Has.ASE_P_ERRORS (subTrans w (by decide))

theorem State.slotFix_writes {F s x} {a1 a2 a3} (h : Writes F s x) (w : [1794] ⊆ F := by exact subTrans (by assumption) (by decide)) :
    Writes F s (State.slotFix x a1 a2 a3) := by
  unfold State.slotFix
  repeat' first
    | with_reducible assumption
    | exact subTrans w (by decide)
    | intro _ _
    | intro _
    | with_reducible apply State.inc_writes
    | with_reducible apply State.slotMend_writes
    | with_reducible exact Has.ASE_SRAM_CORR (subTrans w (by decide))

theorem State.aseAnswer_writes {F s x} {a1 a2 a3 a4}
    (h : Writes F s x) (w : [1794, 1830, 1832] ⊆ F := by exact subTrans (by assumption) (by decide)) :
    Writes F s (State.aseAnswer x a1 a2 a3 a4).2.2 := by
  unfold State.aseAnswer
  repeat' first
    | with_reducible assumption
    | exact subTrans w (by decide)
    | intro _ _
    | intro _
    | with_reducible apply State.inc_writes
    | with_reducible apply State.slotBad_writes
    | with_reducible apply State.slotFix_writes
    | with_reducible exact Has.ASE_P_HITS (subTrans w (by decide))
    | split

theorem State.aseAnswer_writesE {F s x} {a1 a2 a3 a4} {r0 r1 t} (e : State.aseAnswer x a1 a2 a3 a4 = (r0, r1, t))
    (h : Writes F s x) (w : [1794, 1830, 1832] ⊆ F := by exact subTrans (by assumption) (by decide)) :
    Writes F s t := by
  have k := State.aseAnswer_writes (F := F) (s := s) (x := x) (a1 := a1) (a2 := a2) (a3 := a3) (a4 := a4) h
  rwa [e] at k

theorem State.aseOp_writes {F s x} {a1 a2 a3}
    (h : Writes F s x) (w : [3110, 3113, 3114, 3123, 3125, 4907] ⊆ F := by exact subTrans (by assumption) (by decide)) :
    Writes F s (State.aseOp x a1 a2 a3) := by
  unfold State.aseOp
  repeat' first
    | with_reducible assumption
    | exact subTrans w (by decide)
    | intro _ _
    | intro _
    | with_reducible apply Writes.choose
    | with_reducible apply State.bankOps_writes
    | with_reducible apply State.bankWork_writes
    | split
    | dsimp only
    | with_reducible apply Writes.upd

theorem State.aseWork_writes {F s x} {a1 a2 a3}
    (h : Writes F s x) (w : [3110, 3113, 3114, 3123, 3125, 4907] ⊆ F := by exact subTrans (by assumption) (by decide)) :
    Writes F s (State.aseWork x a1 a2 a3) := by
  unfold State.aseWork
  repeat' first
    | with_reducible assumption
    | exact subTrans w (by decide)
    | intro _ _
    | intro _
    | with_reducible apply Writes.foldl
    | with_reducible apply Writes.foldl_snd
    | with_reducible apply Writes.foldl_fst
    | with_reducible apply Writes.foldl_third
    | with_reducible apply State.aseOp_writes

theorem State.aseOps_writes {F s x} {a1 a2 a3}
    (h : Writes F s x) (w : [3110, 3113, 3114, 3123, 3125, 4907] ⊆ F := by exact subTrans (by assumption) (by decide)) :
    Writes F s (State.aseOps x a1 a2 a3) := by
  unfold State.aseOps
  repeat' first
    | with_reducible assumption
    | exact subTrans w (by decide)
    | intro _ _
    | intro _
    | with_reducible apply Writes.foldl
    | with_reducible apply Writes.foldl_snd
    | with_reducible apply Writes.foldl_fst
    | with_reducible apply Writes.foldl_third
    | with_reducible apply State.aseOp_writes

theorem State.aseSearch_writes {F s x} {a1 a2 a3 a4 a5}
    (h : Writes F s x) (w : [1794, 1795, 1796, 1797, 1798, 1799, 1829, 1830, 1831, 1832, 3110, 3113, 3114, 3123, 3125, 4907] ⊆ F := by exact subTrans (by assumption) (by decide)) :
    Writes F s (State.aseSearch x a1 a2 a3 a4 a5).2.2 := by
  unfold State.aseSearch
  repeat' first
    | with_reducible assumption
    | exact subTrans w (by decide)
    | intro _ _
    | intro _
    | with_reducible apply Writes.choose
    | with_reducible apply State.when_writes
    | with_reducible apply State.inc_writes
    | with_reducible apply State.when_writes
    | with_reducible apply State.count_writes
    | with_reducible apply State.slotFail_writes
    | with_reducible apply State.aseAnswer_writes
    | with_reducible apply State.aseOps_writes
    | refine State.aseAnswer_writesE (by with_reducible assumption) ?_
    | with_reducible exact Has.ASE_P_SEARCHES (subTrans w (by decide))
    | with_reducible exact Has.ASE_P_MULTI_HITS (subTrans w (by decide))
    | split
    | dsimp only

theorem State.aseSearch_writesE {F s x} {a1 a2 a3 a4 a5} {r0 r1 t} (e : State.aseSearch x a1 a2 a3 a4 a5 = (r0, r1, t))
    (h : Writes F s x) (w : [1794, 1795, 1796, 1797, 1798, 1799, 1829, 1830, 1831, 1832, 3110, 3113, 3114, 3123, 3125, 4907] ⊆ F := by exact subTrans (by assumption) (by decide)) :
    Writes F s t := by
  have k := State.aseSearch_writes (F := F) (s := s) (x := x) (a1 := a1) (a2 := a2) (a3 := a3) (a4 := a4) (a5 := a5) h
  rwa [e] at k

theorem State.aseLookup_writes {F s x} {a1 a2 a3 a4 a5}
    (h : Writes F s x) (w : [1794, 1795, 1796, 1797, 1798, 1799, 1829, 1830, 1831, 1832, 3110, 3113, 3114, 3123, 3125, 4907] ⊆ F := by exact subTrans (by assumption) (by decide)) :
    Writes F s (State.aseLookup x a1 a2 a3 a4 a5).2 := by
  unfold State.aseLookup
  repeat' first
    | with_reducible assumption
    | exact subTrans w (by decide)
    | intro _ _
    | intro _
    | with_reducible apply State.tally_writes
    | with_reducible apply State.aseSearch_writes

theorem State.aseLookup_writesE {F s x} {a1 a2 a3 a4 a5} {r0 t} (e : State.aseLookup x a1 a2 a3 a4 a5 = (r0, t))
    (h : Writes F s x) (w : [1794, 1795, 1796, 1797, 1798, 1799, 1829, 1830, 1831, 1832, 3110, 3113, 3114, 3123, 3125, 4907] ⊆ F := by exact subTrans (by assumption) (by decide)) :
    Writes F s t := by
  have k := State.aseLookup_writes (F := F) (s := s) (x := x) (a1 := a1) (a2 := a2) (a3 := a3) (a4 := a4) (a5 := a5) h
  rwa [e] at k

theorem State.aseDone_writes {F s x} {a1} (h : Writes F s x) (w : [1805, 1807, 4907] ⊆ F := by exact subTrans (by assumption) (by decide)) :
    Writes F s (State.aseDone x a1) := by
  unfold State.aseDone
  repeat' first
    | with_reducible assumption
    | exact subTrans w (by decide)
    | intro _ _
    | intro _
    | with_reducible apply State.set_writes
    | with_reducible apply State.event_writes
    | with_reducible exact Has.ASE_CMD_CODE (subTrans w (by decide))
    | with_reducible exact Has.ASE_CMD_DONE (subTrans w (by decide))

theorem State.asePut_writes {F s x} {a1 a2 a3}
    (h : Writes F s x) (w : [3110, 3113, 3114, 3123, 3125, 4907] ⊆ F := by exact subTrans (by assumption) (by decide)) :
    Writes F s (State.asePut x a1 a2 a3) := by
  unfold State.asePut
  repeat' first
    | with_reducible assumption
    | exact subTrans w (by decide)
    | intro _ _
    | intro _
    | with_reducible apply Writes.choose
    | with_reducible apply State.memStore_writes
    | with_reducible apply State.aseWork_writes

theorem State.asePos_writes {F s x} {a1 a2} (h2 : ∀ y, Writes F s y → Writes F s (a2 y))
    (h : Writes F s x) (w : [1805, 1807, 4907] ⊆ F := by exact subTrans (by assumption) (by decide)) :
    Writes F s (State.asePos x a1 a2) := by
  unfold State.asePos
  repeat' first
    | with_reducible assumption
    | exact subTrans w (by decide)
    | intro _ _
    | intro _
    | apply h2
    | with_reducible apply Writes.choose
    | with_reducible apply State.aseDone_writes

theorem State.aseChange_writes {F s x} {a1 a2} (h2 : ∀ y, Writes F s y → Writes F s (a2 y))
    (h : Writes F s x) (w : [1805, 1807, 4907] ⊆ F := by exact subTrans (by assumption) (by decide)) :
    Writes F s (State.aseChange x a1 a2) := by
  unfold State.aseChange
  repeat' first
    | with_reducible assumption
    | exact subTrans w (by decide)
    | intro _ _
    | intro _
    | apply h2
    | with_reducible apply Writes.choose
    | with_reducible apply State.aseDone_writes
    | with_reducible apply State.asePos_writes

theorem State.aseWriteAt_writes {F s x} {a1}
    (h : Writes F s x) (w : [1805, 1807, 3110, 3113, 3114, 3123, 3125, 4907] ⊆ F := by exact subTrans (by assumption) (by decide)) :
    Writes F s (State.aseWriteAt x a1) := by
  unfold State.aseWriteAt
  repeat' first
    | with_reducible assumption
    | exact subTrans w (by decide)
    | intro _ _
    | intro _
    | with_reducible apply Writes.foldl
    | with_reducible apply Writes.foldl_snd
    | with_reducible apply Writes.foldl_fst
    | with_reducible apply Writes.foldl_third
    | with_reducible apply State.aseDone_writes
    | with_reducible apply State.asePut_writes
    | with_reducible apply State.aseChange_writes

theorem State.aseDeleteAt_writes {F s x} {a1}
    (h : Writes F s x) (w : [1805, 1807, 3110, 3113, 3114, 3123, 3125, 4907] ⊆ F := by exact subTrans (by assumption) (by decide)) :
    Writes F s (State.aseDeleteAt x a1) := by
  unfold State.aseDeleteAt
  repeat' first
    | with_reducible assumption
    | exact subTrans w (by decide)
    | intro _ _
    | intro _
    | with_reducible apply Writes.foldl
    | with_reducible apply Writes.foldl_snd
    | with_reducible apply Writes.foldl_fst
    | with_reducible apply Writes.foldl_third
    | with_reducible apply State.slotClear_writes
    | with_reducible apply State.aseWork_writes
    | with_reducible apply State.aseDone_writes
    | with_reducible apply State.aseChange_writes

theorem State.moveHalf_writes {F s x} {a1 a2 a3} (h : Writes F s x) : Writes F s (State.moveHalf x a1 a2 a3) := by
  unfold State.moveHalf
  repeat' first
    | with_reducible assumption
    | intro _ _
    | intro _
    | with_reducible apply State.memStore_writes

theorem State.moveCopy_writes {F s x} {a1 a2 a3 a4}
    (h : Writes F s x) (w : [3110, 3113, 3114, 3123, 3125, 4907] ⊆ F := by exact subTrans (by assumption) (by decide)) :
    Writes F s (State.moveCopy x a1 a2 a3 a4) := by
  unfold State.moveCopy
  repeat' first
    | with_reducible assumption
    | exact subTrans w (by decide)
    | intro _ _
    | intro _
    | with_reducible apply Writes.foldl
    | with_reducible apply Writes.foldl_snd
    | with_reducible apply Writes.foldl_fst
    | with_reducible apply Writes.foldl_third
    | with_reducible apply State.aseWork_writes
    | with_reducible apply State.moveHalf_writes
    | split
    | dsimp only
    | with_reducible apply Writes.upd

theorem State.moveVacate_writes {F s x} {a1 a2 a3}
    (h : Writes F s x) (w : [3110, 3113, 3114, 3123, 3125, 4907] ⊆ F := by exact subTrans (by assumption) (by decide)) :
    Writes F s (State.moveVacate x a1 a2 a3) := by
  unfold State.moveVacate
  repeat' first
    | with_reducible assumption
    | exact subTrans w (by decide)
    | intro _ _
    | intro _
    | with_reducible apply State.slotClear_writes
    | with_reducible apply State.aseWork_writes

theorem State.moveSettle_writes {F s x} {a1 a2 a3}
    (h : Writes F s x) (w : [3110, 3113, 3114, 3123, 3125, 4907] ⊆ F := by exact subTrans (by assumption) (by decide)) :
    Writes F s (State.moveSettle x a1 a2 a3) := by
  unfold State.moveSettle
  repeat' first
    | with_reducible assumption
    | exact subTrans w (by decide)
    | intro _ _
    | intro _
    | with_reducible apply State.slotSetFlags_writes
    | with_reducible apply State.aseWork_writes
    | split
    | dsimp only
    | with_reducible apply Writes.upd

theorem State.aseMove_writes {F s x} {a1 a2 a3 a4}
    (h : Writes F s x) (w : [3110, 3113, 3114, 3123, 3125, 4907] ⊆ F := by exact subTrans (by assumption) (by decide)) :
    Writes F s (State.aseMove x a1 a2 a3 a4) := by
  unfold State.aseMove
  repeat' first
    | with_reducible assumption
    | exact subTrans w (by decide)
    | intro _ _
    | intro _
    | with_reducible apply State.moveCopy_writes
    | with_reducible apply State.moveVacate_writes
    | with_reducible apply State.moveSettle_writes

theorem State.aseInsertBank_writes {F s x} {a1 a2 a3 a4}
    (h : Writes F s x) (w : [3110, 3113, 3114, 3123, 3125, 4907] ⊆ F := by exact subTrans (by assumption) (by decide)) :
    Writes F s (State.aseInsertBank x a1 a2 a3 a4).2 := by
  unfold State.aseInsertBank
  repeat' first
    | with_reducible assumption
    | exact subTrans w (by decide)
    | intro _ _
    | intro _
    | with_reducible apply Writes.choose
    | with_reducible apply Writes.foldl
    | with_reducible apply Writes.foldl_snd
    | with_reducible apply Writes.foldl_fst
    | with_reducible apply Writes.foldl_third
    | with_reducible apply State.asePut_writes
    | with_reducible apply State.aseMove_writes
    | split

theorem State.aseInsertBank_writesE {F s x} {a1 a2 a3 a4} {r0 t} (e : State.aseInsertBank x a1 a2 a3 a4 = (r0, t))
    (h : Writes F s x) (w : [3110, 3113, 3114, 3123, 3125, 4907] ⊆ F := by exact subTrans (by assumption) (by decide)) :
    Writes F s t := by
  have k := State.aseInsertBank_writes (F := F) (s := s) (x := x) (a1 := a1) (a2 := a2) (a3 := a3) (a4 := a4) h
  rwa [e] at k

theorem State.aseInsertAt_writes {F s x} {a1}
    (h : Writes F s x) (w : [1805, 1807, 1810, 1833, 3110, 3113, 3114, 3123, 3125, 4907] ⊆ F := by exact subTrans (by assumption) (by decide)) :
    Writes F s (State.aseInsertAt x a1) := by
  unfold State.aseInsertAt
  repeat' first
    | with_reducible assumption
    | exact subTrans w (by decide)
    | intro _ _
    | intro _
    | with_reducible apply Writes.choose
    | with_reducible apply Writes.foldl
    | with_reducible apply Writes.foldl_snd
    | with_reducible apply Writes.foldl_fst
    | with_reducible apply Writes.foldl_third
    | with_reducible apply State.set_writes
    | with_reducible apply State.add_writes
    | with_reducible apply State.aseDone_writes
    | with_reducible apply State.aseChange_writes
    | with_reducible apply State.aseInsertBank_writes
    | refine State.aseInsertBank_writesE (by with_reducible assumption) ?_
    | with_reducible exact Has.ASE_CMD_MOVES (subTrans w (by decide))
    | with_reducible exact Has.ASE_P_MOVES (subTrans w (by decide))
    | split

theorem State.aseFound_writes {F s x} {a1 a2}
    (h : Writes F s x) (w : [1813, 1814, 1815, 1816, 1817, 1819] ⊆ F := by exact subTrans (by assumption) (by decide)) :
    Writes F s (State.aseFound x a1 a2) := by
  unfold State.aseFound
  repeat' first
    | with_reducible assumption
    | exact subTrans w (by decide)
    | intro _ _
    | intro _
    | with_reducible apply State.set_writes
    | with_reducible apply State.setB_writes
    | with_reducible exact Has.ASE_OP_PRIORITY (subTrans w (by decide))
    | with_reducible exact Has.ASE_OP_USER (subTrans w (by decide))
    | with_reducible exact Has.ASE_OP_RESULT (subTrans w (by decide))
    | with_reducible exact Has.ASE_F_BANK (subTrans w (by decide))
    | with_reducible exact Has.ASE_F_INDEX (subTrans w (by decide))
    | with_reducible exact Has.ASE_F_FOUND (subTrans w (by decide))

theorem State.aseReplica_writes {F s x} {a1 a2 a3} (h3 : ∀ y, Writes F s y → Writes F s (a3 y))
    (h : Writes F s x) (w : [1805, 1807, 4907] ⊆ F := by exact subTrans (by assumption) (by decide)) :
    Writes F s (State.aseReplica x a1 a2 a3) := by
  unfold State.aseReplica
  repeat' first
    | with_reducible assumption
    | exact subTrans w (by decide)
    | intro _ _
    | intro _
    | apply h3
    | with_reducible apply Writes.choose
    | with_reducible apply State.aseDone_writes

theorem State.aseCmdSearch_writes {F s x} {a1 a2 a3}
    (h : Writes F s x) (w : [1794, 1795, 1796, 1797, 1798, 1799, 1805, 1807, 1809, 1813, 1814, 1815, 1816, 1817, 1819, 1829, 1830, 1831, 1832, 3110, 3113, 3114, 3123, 3125, 4907] ⊆ F := by exact subTrans (by assumption) (by decide)) :
    Writes F s (State.aseCmdSearch x a1 a2 a3) := by
  unfold State.aseCmdSearch
  repeat' first
    | with_reducible assumption
    | exact subTrans w (by decide)
    | intro _ _
    | intro _
    | with_reducible apply Writes.choose
    | with_reducible apply State.setB_writes
    | with_reducible apply State.aseSearch_writes
    | with_reducible apply State.aseDone_writes
    | with_reducible apply State.aseFound_writes
    | with_reducible apply State.aseReplica_writes
    | refine State.aseSearch_writesE (by with_reducible assumption) ?_
    | with_reducible exact Has.ASE_CMD_MULTI (subTrans w (by decide))
    | with_reducible exact Has.ASE_F_FOUND (subTrans w (by decide))
    | split
    | dsimp only
    | with_reducible apply Writes.upd

theorem State.aseReport_writes {F s x} {a1 a2 a3}
    (h : Writes F s x) (w : [1805, 1807, 1813, 1814, 1815, 1816, 1817, 1819, 4907] ⊆ F := by exact subTrans (by assumption) (by decide)) :
    Writes F s (State.aseReport x a1 a2 a3) := by
  unfold State.aseReport
  repeat' first
    | with_reducible assumption
    | exact subTrans w (by decide)
    | intro _ _
    | intro _
    | with_reducible apply State.aseDone_writes
    | with_reducible apply State.aseFound_writes
    | split
    | dsimp only
    | with_reducible apply Writes.upd

theorem State.aseNone_writes {F s x} {a1}
    (h : Writes F s x) (w : [1805, 1807, 1819, 4907] ⊆ F := by exact subTrans (by assumption) (by decide)) :
    Writes F s (State.aseNone x a1) := by
  unfold State.aseNone
  repeat' first
    | with_reducible assumption
    | exact subTrans w (by decide)
    | intro _ _
    | intro _
    | with_reducible apply State.setB_writes
    | with_reducible apply State.aseDone_writes
    | with_reducible exact Has.ASE_F_FOUND (subTrans w (by decide))

theorem State.aseStep_writes {F s x} {a1 a2 a3}
    (h : Writes F s x) (w : [1794, 1795, 1796, 1797, 1798, 1799, 1805, 1807, 1813, 1814, 1815, 1816, 1817, 1819, 1832, 3110, 3113, 3114, 3123, 3125, 4907] ⊆ F := by exact subTrans (by assumption) (by decide)) :
    Writes F s (State.aseStep x a1 a2 a3) := by
  unfold State.aseStep
  repeat' first
    | with_reducible assumption
    | exact subTrans w (by decide)
    | intro _ _
    | intro _
    | with_reducible apply Writes.choose
    | with_reducible apply State.slotFail_writes
    | with_reducible apply State.slotBad_writes
    | with_reducible apply State.slotFix_writes
    | with_reducible apply State.aseOps_writes
    | with_reducible apply State.aseReport_writes
    | with_reducible apply State.aseNone_writes
    | split
    | dsimp only

theorem State.aseCmdStep_writes {F s x} {a1 a2 a3}
    (h : Writes F s x) (w : [1794, 1795, 1796, 1797, 1798, 1799, 1805, 1807, 1813, 1814, 1815, 1816, 1817, 1819, 1832, 3110, 3113, 3114, 3123, 3125, 4907] ⊆ F := by exact subTrans (by assumption) (by decide)) :
    Writes F s (State.aseCmdStep x a1 a2 a3) := by
  unfold State.aseCmdStep
  repeat' first
    | with_reducible assumption
    | exact subTrans w (by decide)
    | intro _ _
    | intro _
    | with_reducible apply Writes.choose
    | with_reducible apply State.aseDone_writes
    | with_reducible apply State.aseReplica_writes
    | with_reducible apply State.aseNone_writes
    | with_reducible apply State.aseStep_writes
    | split

theorem State.aseReadAt_writes {F s x} {a1 a2}
    (h : Writes F s x) (w : [1805, 1807, 1811, 1812, 1813, 1814, 1815, 1816, 1817, 1818, 1819, 3110, 3113, 3114, 3123, 3125, 4907] ⊆ F := by exact subTrans (by assumption) (by decide)) :
    Writes F s (State.aseReadAt x a1 a2) := by
  unfold State.aseReadAt
  repeat' first
    | with_reducible assumption
    | exact subTrans w (by decide)
    | intro _ _
    | intro _
    | with_reducible apply Writes.choose
    | with_reducible apply Writes.upTo
    | with_reducible apply State.set_writes
    | with_reducible apply State.setB_writes
    | with_reducible apply State.aseWork_writes
    | with_reducible apply State.aseDone_writes
    | with_reducible apply State.asePos_writes
    | with_reducible apply State.aseFound_writes
    | with_reducible apply State.aseReplica_writes
    | with_reducible exact Has.ASE_OP_KEY (subTrans w (by decide))
    | with_reducible exact Has.ASE_OP_MASK (subTrans w (by decide))
    | with_reducible exact Has.ASE_F_SHADOW (subTrans w (by decide))
    | with_reducible exact Has.ASE_F_FOUND (subTrans w (by decide))

theorem State.aseCommand_writes {F s x} {a1 a2 a3 a4}
    (h : Writes F s x) (w : [1794, 1795, 1796, 1797, 1798, 1799, 1805, 1807, 1809, 1810, 1811, 1812, 1813, 1814, 1815, 1816, 1817, 1818, 1819, 1829, 1830, 1831, 1832, 1833, 3110, 3113, 3114, 3123, 3125, 4907] ⊆ F := by exact subTrans (by assumption) (by decide)) :
    Writes F s (State.aseCommand x a1 a2 a3 a4) := by
  unfold State.aseCommand
  repeat' first
    | with_reducible assumption
    | exact subTrans w (by decide)
    | intro _ _
    | intro _
    | with_reducible apply State.aseDone_writes
    | with_reducible apply State.aseWriteAt_writes
    | with_reducible apply State.aseDeleteAt_writes
    | with_reducible apply State.aseInsertAt_writes
    | with_reducible apply State.aseCmdSearch_writes
    | with_reducible apply State.aseCmdStep_writes
    | with_reducible apply State.aseReadAt_writes
    | split

theorem State.aseClaspReq_writes {F s x} {a1} (h : Writes F s x) (w : [1837] ⊆ F := by exact subTrans (by assumption) (by decide)) :
    Writes F s (State.aseClaspReq x a1) := by
  unfold State.aseClaspReq
  repeat' first
    | with_reducible assumption
    | exact subTrans w (by decide)
    | intro _ _
    | intro _
    | with_reducible apply State.setBit_writes
    | with_reducible exact Has.ASE_REQ (subTrans w (by decide))

theorem State.aseClaspGrant_writes {F s x} {a1} (h : Writes F s x) (w : [1838] ⊆ F := by exact subTrans (by assumption) (by decide)) :
    Writes F s (State.aseClaspGrant x a1) := by
  unfold State.aseClaspGrant
  repeat' first
    | with_reducible assumption
    | exact subTrans w (by decide)
    | intro _ _
    | intro _
    | with_reducible apply Writes.choose
    | with_reducible apply State.setBit_writes
    | with_reducible exact Has.ASE_HELD (subTrans w (by decide))

theorem State.aseClaspFree_writes {F s x} {a1} (h : Writes F s x) (w : [1837, 1838] ⊆ F := by exact subTrans (by assumption) (by decide)) :
    Writes F s (State.aseClaspFree x a1) := by
  unfold State.aseClaspFree
  repeat' first
    | with_reducible assumption
    | exact subTrans w (by decide)
    | intro _ _
    | intro _
    | with_reducible apply State.clearBit_writes
    | with_reducible exact Has.ASE_REQ (subTrans w (by decide))
    | with_reducible exact Has.ASE_HELD (subTrans w (by decide))

theorem State.planishRepair_writes {F s x} {a1 a2 a3 a4 a5}
    (h : Writes F s x) (w : [1795, 1796, 1797, 1798, 1799, 1832, 3110, 3113, 3114, 3123, 3125, 4907] ⊆ F := by exact subTrans (by assumption) (by decide)) :
    Writes F s (State.planishRepair x a1 a2 a3 a4 a5) := by
  unfold State.planishRepair
  repeat' first
    | with_reducible assumption
    | exact subTrans w (by decide)
    | intro _ _
    | intro _
    | with_reducible apply Writes.choose
    | with_reducible apply State.memStore_writes
    | with_reducible apply State.parityEvent_writes
    | with_reducible apply State.slotFail_writes
    | with_reducible apply State.aseWork_writes
    | split

theorem State.planishAse_writes {F s x} {a1 a2 a3 a4}
    (h : Writes F s x) (w : [1794, 1795, 1796, 1797, 1798, 1799, 1832, 3110, 3113, 3114, 3123, 3125, 4907] ⊆ F := by exact subTrans (by assumption) (by decide)) :
    Writes F s (State.planishAse x a1 a2 a3 a4) := by
  unfold State.planishAse
  repeat' first
    | with_reducible assumption
    | exact subTrans w (by decide)
    | intro _ _
    | intro _
    | with_reducible apply Writes.choose
    | with_reducible apply State.inc_writes
    | with_reducible apply State.slotBad_writes
    | with_reducible apply State.slotFix_writes
    | with_reducible apply State.aseWork_writes
    | with_reducible apply State.planishRepair_writes
    | with_reducible exact Has.ASE_SRAM_CORR (subTrans w (by decide))
    | split
    | dsimp only

/-! ### Machine/Planish.lean -/

theorem State.scrubWord_writes {F s x} {a1 a2 a3} (h : Writes F s x) (w : [3864, 3865] ⊆ F := by exact subTrans (by assumption) (by decide)) :
    Writes F s (State.scrubWord x a1 a2 a3) := by
  unfold State.scrubWord
  repeat' first
    | with_reducible assumption
    | exact subTrans w (by decide)
    | intro _ _
    | intro _
    | with_reducible apply State.inc_writes
    | with_reducible apply State.injClear_writes
    | with_reducible exact Has.ANVL_SCRUB_CORR (subTrans w (by decide))
    | with_reducible exact Has.ANVL_SCRUB_UNCORR (subTrans w (by decide))
    | split

theorem State.scrubRow_writes {F s x} {a1 a2 a3 a4}
    (h : Writes F s x) (w : [2329, 2330, 2343, 3864] ⊆ F := by exact subTrans (by assumption) (by decide)) :
    Writes F s (State.scrubRow x a1 a2 a3 a4) := by
  unfold State.scrubRow
  repeat' first
    | with_reducible assumption
    | exact subTrans w (by decide)
    | intro _ _
    | intro _
    | with_reducible apply Writes.choose
    | with_reducible apply State.inc_writes
    | with_reducible apply State.wordCorrected_writes
    | with_reducible apply State.wordRebuilt_writes
    | with_reducible exact Has.ANVL_SCRUB_CORR (subTrans w (by decide))
    | split

theorem State.scrubAse_writes {F s x} {a1 a2 a3 a4 a5}
    (h : Writes F s x) (w : [1794, 1795, 1796, 1797, 1798, 1799, 1832, 3110, 3113, 3114, 3123, 3125, 3864, 3865, 4907] ⊆ F := by exact subTrans (by assumption) (by decide)) :
    Writes F s (State.scrubAse x a1 a2 a3 a4 a5) := by
  unfold State.scrubAse
  repeat' first
    | with_reducible assumption
    | exact subTrans w (by decide)
    | intro _ _
    | intro _
    | with_reducible apply Writes.choose
    | with_reducible apply State.inc_writes
    | with_reducible apply State.planishAse_writes
    | with_reducible exact Has.ANVL_SCRUB_CORR (subTrans w (by decide))
    | with_reducible exact Has.ANVL_SCRUB_UNCORR (subTrans w (by decide))
    | split

theorem State.scrubBank_writes {F s x} {a1 a2 a3 a4}
    (h : Writes F s x) (w : [3110, 3113, 3114, 3123, 3125, 3864, 3865, 4907] ⊆ F := by exact subTrans (by assumption) (by decide)) :
    Writes F s (State.scrubBank x a1 a2 a3 a4) := by
  unfold State.scrubBank
  repeat' first
    | with_reducible assumption
    | exact subTrans w (by decide)
    | intro _ _
    | intro _
    | with_reducible apply Writes.choose
    | with_reducible apply State.bankWork_writes
    | with_reducible apply State.scrubWord_writes

theorem State.scrub_writes {F s x} {a1 a2}
    (h : Writes F s x) (w : [1794, 1795, 1796, 1797, 1798, 1799, 1832, 2329, 2330, 2343, 3110, 3113, 3114, 3123, 3125, 3864, 3865, 4907] ⊆ F := by exact subTrans (by assumption) (by decide)) :
    Writes F s (State.scrub x a1 a2) := by
  unfold State.scrub
  repeat' first
    | with_reducible assumption
    | exact subTrans w (by decide)
    | intro _ _
    | intro _
    | with_reducible apply State.scrubWord_writes
    | with_reducible apply State.scrubRow_writes
    | with_reducible apply State.scrubAse_writes
    | with_reducible apply State.scrubBank_writes
    | split

theorem State.scrubPass_writes {F s x} {a1} (h : Writes F s x) (w : [3850, 3861, 3862] ⊆ F := by exact subTrans (by assumption) (by decide)) :
    Writes F s (State.scrubPass x a1) := by
  unfold State.scrubPass
  repeat' first
    | with_reducible assumption
    | exact subTrans w (by decide)
    | intro _ _
    | intro _
    | with_reducible apply State.when_writes
    | with_reducible apply State.set_writes
    | with_reducible apply State.when_writes
    | with_reducible apply State.passEnd_writes
    | with_reducible apply State.coverMiss_writes
    | refine State.passEnd_writesE (by with_reducible assumption) ?_
    | with_reducible exact Has.ANVL_PLANISH_MS (subTrans w (by decide))
    | with_reducible exact Has.ANVL_ASE_PASS_US (subTrans w (by decide))
    | split

end Sys2Proof.Machine
end

