-- ==== Sys2Proof/Laws/WritesPipes.lean ====
section
/-!
SUPPORT. What the operations of the stages, the ports, the gates and the schedulers write: one lemma for each.
-/
namespace Sys2Proof.Machine
set_option Elab.async false

/-! ### Machine/Editor.lean -/

theorem State.editErr_writes {F s x} {a1 a2 a3}
    (h : Writes F s x) (w : [2058, 2061, 2062, 2063, 2064] ⊆ F := by exact subTrans (by assumption) (by decide)) :
    Writes F s (State.editErr x a1 a2 a3) := by
  unfold State.editErr
  repeat' first
    | with_reducible assumption
    | exact subTrans w (by decide)
    | intro _ _
    | intro _
    | with_reducible apply State.set_writes
    | with_reducible apply State.setB_writes
    | with_reducible apply State.inc_writes
    | with_reducible apply State.fault_writes
    | with_reducible exact Has.MAP_EDIT_ERR (subTrans w (by decide))
    | with_reducible exact Has.MAP_LE_STAGE (subTrans w (by decide))
    | with_reducible exact Has.MAP_LE_KIND (subTrans w (by decide))
    | with_reducible exact Has.MAP_LE_WORD (subTrans w (by decide))
    | with_reducible exact Has.MAP_LE_VALID (subTrans w (by decide))

theorem State.editRecord_writes {F s x} {a1 a2 a3}
    (h : Writes F s x) (w : [2058, 2061, 2062, 2063, 2064] ⊆ F := by exact subTrans (by assumption) (by decide)) :
    Writes F s (State.editRecord x a1 a2 a3).2 := by
  unfold State.editRecord
  repeat' first
    | with_reducible assumption
    | exact subTrans w (by decide)
    | intro _ _
    | intro _
    | with_reducible apply Writes.choose
    | with_reducible apply State.editErr_writes
    | split

theorem State.editRecord_writesE {F s x} {a1 a2 a3} {r0 t} (e : State.editRecord x a1 a2 a3 = (r0, t))
    (h : Writes F s x) (w : [2058, 2061, 2062, 2063, 2064] ⊆ F := by exact subTrans (by assumption) (by decide)) :
    Writes F s t := by
  have k := State.editRecord_writes (F := F) (s := s) (x := x) (a1 := a1) (a2 := a2) (a3 := a3) h
  rwa [e] at k

theorem State.stripRecord_writes {F s x} {a1}
    (h : Writes F s x) (w : [2058, 2061, 2062, 2063, 2064] ⊆ F := by exact subTrans (by assumption) (by decide)) :
    Writes F s (State.stripRecord x a1).2 := by
  unfold State.stripRecord
  repeat' first
    | with_reducible assumption
    | exact subTrans w (by decide)
    | intro _ _
    | intro _
    | with_reducible apply State.editRecord_writes
    | refine State.editRecord_writesE (by with_reducible assumption) ?_
    | split

theorem State.stripRecord_writesE {F s x} {a1} {r0 t} (e : State.stripRecord x a1 = (r0, t))
    (h : Writes F s x) (w : [2058, 2061, 2062, 2063, 2064] ⊆ F := by exact subTrans (by assumption) (by decide)) :
    Writes F s t := by
  have k := State.stripRecord_writes (F := F) (s := s) (x := x) (a1 := a1) h
  rwa [e] at k

theorem State.ecnMark_writes {F s x} {a1 a2} (h : Writes F s x) (w : [2565] ⊆ F := by exact subTrans (by assumption) (by decide)) :
    Writes F s (State.ecnMark x a1 a2).2 := by
  unfold State.ecnMark
  repeat' first
    | with_reducible assumption
    | exact subTrans w (by decide)
    | intro _ _
    | intro _
    | with_reducible apply Writes.choose
    | with_reducible apply State.inc_writes
    | with_reducible apply State.memSet_writes
    | with_reducible exact Has.QSCH_ECN_SKIPPED (subTrans w (by decide))
    | split
    | dsimp only

theorem State.ecnMark_writesE {F s x} {a1 a2} {r0 t} (e : State.ecnMark x a1 a2 = (r0, t))
    (h : Writes F s x) (w : [2565] ⊆ F := by exact subTrans (by assumption) (by decide)) :
    Writes F s t := by
  have k := State.ecnMark_writes (F := F) (s := s) (x := x) (a1 := a1) (a2 := a2) h
  rwa [e] at k

theorem State.hmIoam_writes {F s x} {a1 a2 a3 a4 a5 a6}
    (h : Writes F s x) (w : [3076, 3077, 3083, 3084, 3085] ⊆ F := by exact subTrans (by assumption) (by decide)) :
    Writes F s (State.hmIoam x a1 a2 a3 a4 a5 a6).2 := by
  unfold State.hmIoam
  repeat' first
    | with_reducible assumption
    | exact subTrans w (by decide)
    | intro _ _
    | intro _
    | with_reducible apply Writes.choose
    | with_reducible apply State.inc_writes
    | with_reducible apply State.hmSkip_writes
    | with_reducible exact Has.TELE_IOAM_FULL (subTrans w (by decide))
    | split
    | dsimp only

theorem State.hmIoam_writesE {F s x} {a1 a2 a3 a4 a5 a6} {r0 t} (e : State.hmIoam x a1 a2 a3 a4 a5 a6 = (r0, t))
    (h : Writes F s x) (w : [3076, 3077, 3083, 3084, 3085] ⊆ F := by exact subTrans (by assumption) (by decide)) :
    Writes F s t := by
  have k := State.hmIoam_writes (F := F) (s := s) (x := x) (a1 := a1) (a2 := a2) (a3 := a3) (a4 := a4) (a5 := a5) (a6 := a6) h
  rwa [e] at k

theorem State.hmShim_writes {F s x} {a1 a2 a3 a4 a5 a6 a7}
    (h : Writes F s x) (w : [3076, 3078, 3083, 3084, 3085] ⊆ F := by exact subTrans (by assumption) (by decide)) :
    Writes F s (State.hmShim x a1 a2 a3 a4 a5 a6 a7).2 := by
  unfold State.hmShim
  repeat' first
    | with_reducible assumption
    | exact subTrans w (by decide)
    | intro _ _
    | intro _
    | with_reducible apply Writes.choose
    | with_reducible apply State.inc_writes
    | with_reducible apply State.hmSkip_writes
    | with_reducible exact Has.TELE_SHIM_FULL (subTrans w (by decide))
    | split
    | dsimp only

theorem State.hmShim_writesE {F s x} {a1 a2 a3 a4 a5 a6 a7} {r0 t} (e : State.hmShim x a1 a2 a3 a4 a5 a6 a7 = (r0, t))
    (h : Writes F s x) (w : [3076, 3078, 3083, 3084, 3085] ⊆ F := by exact subTrans (by assumption) (by decide)) :
    Writes F s t := by
  have k := State.hmShim_writes (F := F) (s := s) (x := x) (a1 := a1) (a2 := a2) (a3 := a3) (a4 := a4) (a5 := a5) (a6 := a6) (a7 := a7) h
  rwa [e] at k

theorem State.hmPlan_writes {F s x} {a1 a2 a3 a4}
    (h : Writes F s x) (w : [3076, 3077, 3078, 3083, 3084, 3085] ⊆ F := by exact subTrans (by assumption) (by decide)) :
    Writes F s (State.hmPlan x a1 a2 a3 a4).2 := by
  unfold State.hmPlan
  repeat' first
    | with_reducible assumption
    | exact subTrans w (by decide)
    | intro _ _
    | intro _
    | with_reducible apply Writes.choose
    | with_reducible apply State.hmSkip_writes
    | with_reducible apply State.hmIoam_writes
    | with_reducible apply State.hmShim_writes
    | refine State.hmIoam_writesE (by with_reducible assumption) ?_
    | refine State.hmShim_writesE (by with_reducible assumption) ?_
    | split
    | dsimp only

theorem State.hmPlan_writesE {F s x} {a1 a2 a3 a4} {r0 t} (e : State.hmPlan x a1 a2 a3 a4 = (r0, t))
    (h : Writes F s x) (w : [3076, 3077, 3078, 3083, 3084, 3085] ⊆ F := by exact subTrans (by assumption) (by decide)) :
    Writes F s t := by
  have k := State.hmPlan_writes (F := F) (s := s) (x := x) (a1 := a1) (a2 := a2) (a3 := a3) (a4 := a4) h
  rwa [e] at k

theorem State.hmFix_writes {F s x} {a1 a2 a3 a4 a5} (h : Writes F s x) (w : [3079] ⊆ F := by exact subTrans (by assumption) (by decide)) :
    Writes F s (State.hmFix x a1 a2 a3 a4 a5).2 := by
  unfold State.hmFix
  repeat' first
    | with_reducible assumption
    | exact subTrans w (by decide)
    | intro _ _
    | intro _
    | with_reducible apply Writes.choose
    | with_reducible apply State.inc_writes
    | with_reducible exact Has.TELE_HM_FIXUP_SKIPPED (subTrans w (by decide))
    | split
    | dsimp only

theorem State.hmFix_writesE {F s x} {a1 a2 a3 a4 a5} {r0 t} (e : State.hmFix x a1 a2 a3 a4 a5 = (r0, t))
    (h : Writes F s x) (w : [3079] ⊆ F := by exact subTrans (by assumption) (by decide)) :
    Writes F s t := by
  have k := State.hmFix_writes (F := F) (s := s) (x := x) (a1 := a1) (a2 := a2) (a3 := a3) (a4 := a4) (a5 := a5) h
  rwa [e] at k

theorem State.ptpTransparent_writes {F s x} {a1 a2 a3 a4}
    (h : Writes F s x) (w : [2880, 2881] ⊆ F := by exact subTrans (by assumption) (by decide)) :
    Writes F s (State.ptpTransparent x a1 a2 a3 a4).2 := by
  unfold State.ptpTransparent
  repeat' first
    | with_reducible assumption
    | exact subTrans w (by decide)
    | intro _ _
    | intro _
    | with_reducible apply Writes.choose
    | with_reducible apply State.inc_writes
    | with_reducible exact Has.TIME_TC_UPDATED (subTrans w (by decide))
    | with_reducible exact Has.TIME_TC_SKIPPED (subTrans w (by decide))
    | split
    | dsimp only

theorem State.ptpTransparent_writesE {F s x} {a1 a2 a3 a4} {r0 t} (e : State.ptpTransparent x a1 a2 a3 a4 = (r0, t))
    (h : Writes F s x) (w : [2880, 2881] ⊆ F := by exact subTrans (by assumption) (by decide)) :
    Writes F s t := by
  have k := State.ptpTransparent_writes (F := F) (s := s) (x := x) (a1 := a1) (a2 := a2) (a3 := a3) (a4 := a4) h
  rwa [e] at k

theorem State.ptpRecord_writes {F s x} {a1 a2 a3 a4}
    (h : Writes F s x) (w : [2877, 2879, 3345, 3346, 3349, 3354, 3355] ⊆ F := by exact subTrans (by assumption) (by decide)) :
    Writes F s (State.ptpRecord x a1 a2 a3 a4) := by
  unfold State.ptpRecord
  repeat' first
    | with_reducible assumption
    | exact subTrans w (by decide)
    | intro _ _
    | intro _
    | with_reducible apply Writes.choose
    | with_reducible apply State.inc_writes
    | with_reducible apply State.eventRingWrite_writes
    | refine State.eventRingWrite_writesE (by with_reducible assumption) ?_
    | with_reducible exact Has.TIME_TS_LOST (subTrans w (by decide))
    | with_reducible exact Has.TIME_TS_CAPTURED (subTrans w (by decide))
    | split

theorem State.ptpEgress_writes {F s x} {a1 a2 a3}
    (h : Writes F s x) (w : [2877, 2879, 2880, 2881, 3345, 3346, 3349, 3354, 3355] ⊆ F := by exact subTrans (by assumption) (by decide)) :
    Writes F s (State.ptpEgress x a1 a2 a3).2 := by
  unfold State.ptpEgress
  repeat' first
    | with_reducible assumption
    | exact subTrans w (by decide)
    | intro _ _
    | intro _
    | with_reducible apply Writes.choose
    | with_reducible apply State.ptpTransparent_writes
    | with_reducible apply State.ptpRecord_writes
    | refine State.ptpTransparent_writesE (by with_reducible assumption) ?_
    | split

theorem State.ptpEgress_writesE {F s x} {a1 a2 a3} {r0 t} (e : State.ptpEgress x a1 a2 a3 = (r0, t))
    (h : Writes F s x) (w : [2877, 2879, 2880, 2881, 3345, 3346, 3349, 3354, 3355] ⊆ F := by exact subTrans (by assumption) (by decide)) :
    Writes F s t := by
  have k := State.ptpEgress_writes (F := F) (s := s) (x := x) (a1 := a1) (a2 := a2) (a3 := a3) h
  rwa [e] at k

theorem State.departHead_writes {F s x} {a1 a2 a3}
    (h : Writes F s x) (w : [2565, 2877, 2879, 2880, 2881, 3076, 3077, 3078, 3079, 3083, 3084, 3085, 3345, 3346, 3349, 3354, 3355] ⊆ F := by exact subTrans (by assumption) (by decide)) :
    Writes F s (State.departHead x a1 a2 a3).2 := by
  unfold State.departHead
  repeat' first
    | with_reducible assumption
    | exact subTrans w (by decide)
    | intro _ _
    | intro _
    | with_reducible apply Writes.choose
    | with_reducible apply State.ecnMark_writes
    | with_reducible apply State.hmPlan_writes
    | with_reducible apply State.hmFix_writes
    | with_reducible apply State.ptpEgress_writes
    | refine State.ecnMark_writesE (by with_reducible assumption) ?_
    | refine State.hmPlan_writesE (by with_reducible assumption) ?_
    | refine State.hmFix_writesE (by with_reducible assumption) ?_
    | refine State.ptpEgress_writesE (by with_reducible assumption) ?_
    | split
    | dsimp only

theorem State.departHead_writesE {F s x} {a1 a2 a3} {r0 t} (e : State.departHead x a1 a2 a3 = (r0, t))
    (h : Writes F s x) (w : [2565, 2877, 2879, 2880, 2881, 3076, 3077, 3078, 3079, 3083, 3084, 3085, 3345, 3346, 3349, 3354, 3355] ⊆ F := by exact subTrans (by assumption) (by decide)) :
    Writes F s t := by
  have k := State.departHead_writes (F := F) (s := s) (x := x) (a1 := a1) (a2 := a2) (a3 := a3) h
  rwa [e] at k

theorem State.ecnLate_writes {F s x} {a1 a2} (h : Writes F s x) (w : [2565] ⊆ F := by exact subTrans (by assumption) (by decide)) :
    Writes F s (State.ecnLate x a1 a2).2 := by
  unfold State.ecnLate
  repeat' first
    | with_reducible assumption
    | exact subTrans w (by decide)
    | intro _ _
    | intro _
    | with_reducible apply Writes.choose
    | with_reducible apply State.ecnMark_writes
    | refine State.ecnMark_writesE (by with_reducible assumption) ?_
    | split

theorem State.ecnLate_writesE {F s x} {a1 a2} {r0 t} (e : State.ecnLate x a1 a2 = (r0, t))
    (h : Writes F s x) (w : [2565] ⊆ F := by exact subTrans (by assumption) (by decide)) :
    Writes F s t := by
  have k := State.ecnLate_writes (F := F) (s := s) (x := x) (a1 := a1) (a2 := a2) h
  rwa [e] at k

theorem State.foldRecord_writes {F s x} {a1 a2}
    (h : Writes F s x) (w : [3076, 3080, 3083, 3084, 3085, 3100, 3101, 3102, 3110, 3113, 3114, 3123, 3125, 4907] ⊆ F := by exact subTrans (by assumption) (by decide)) :
    Writes F s (State.foldRecord x a1 a2) := by
  unfold State.foldRecord
  repeat' first
    | with_reducible assumption
    | exact subTrans w (by decide)
    | intro _ _
    | intro _
    | with_reducible apply Writes.choose
    | with_reducible apply State.hmSkip_writes
    | with_reducible apply State.flowFold_writes

theorem State.cardAsk_writes {F s x} {a1 a2}
    (h : Writes F s x) (w : [3076, 3083, 3084, 3085, 3104, 3110, 3113, 3114, 3123, 3125, 4907] ⊆ F := by exact subTrans (by assumption) (by decide)) :
    Writes F s (State.cardAsk x a1 a2) := by
  unfold State.cardAsk
  repeat' first
    | with_reducible assumption
    | exact subTrans w (by decide)
    | intro _ _
    | intro _
    | with_reducible apply Writes.choose
    | with_reducible apply State.draw_writes
    | with_reducible apply State.hmSkip_writes
    | with_reducible apply State.cardSend_writes

/-! ### Machine/Stages.lean -/

theorem State.directLook_writes {F s x} {a1 a2 a3 a4}
    (h : Writes F s x) (w : [2056, 2061, 2062, 2063, 2064, 3110, 3113, 3114, 3123, 3125, 4907] ⊆ F := by exact subTrans (by assumption) (by decide)) :
    Writes F s (State.directLook x a1 a2 a3 a4).2 := by
  unfold State.directLook
  repeat' first
    | with_reducible assumption
    | exact subTrans w (by decide)
    | intro _ _
    | intro _
    | with_reducible apply Writes.choose
    | with_reducible apply State.injClear_writes
    | with_reducible apply State.faultInjected_writes
    | with_reducible apply State.count_writes
    | with_reducible apply State.actionErr_writes
    | split
    | dsimp only
    | with_reducible apply Writes.upd

theorem State.directLook_writesE {F s x} {a1 a2 a3 a4} {r0 t} (e : State.directLook x a1 a2 a3 a4 = (r0, t))
    (h : Writes F s x) (w : [2056, 2061, 2062, 2063, 2064, 3110, 3113, 3114, 3123, 3125, 4907] ⊆ F := by exact subTrans (by assumption) (by decide)) :
    Writes F s t := by
  have k := State.directLook_writes (F := F) (s := s) (x := x) (a1 := a1) (a2 := a2) (a3 := a3) (a4 := a4) h
  rwa [e] at k

theorem State.lookIssue_writes {F s x} {a1 a2 a3}
    (h : Writes F s x) (w : [1286, 1287, 1288, 1538, 1555, 1556, 1563, 1564, 1794, 1795, 1796, 1797, 1798, 1799, 1829, 1830, 1831, 1832, 2056, 2061, 2062, 2063, 2064, 3110, 3113, 3114, 3123, 3125, 4907] ⊆ F := by exact subTrans (by assumption) (by decide)) :
    Writes F s (State.lookIssue x a1 a2 a3).2 := by
  unfold State.lookIssue
  repeat' first
    | with_reducible assumption
    | exact subTrans w (by decide)
    | intro _ _
    | intro _
    | with_reducible apply Writes.choose
    | with_reducible apply State.count_writes
    | with_reducible apply State.filLookup_writes
    | with_reducible apply State.emLookup_writes
    | with_reducible apply State.aseLookup_writes
    | with_reducible apply State.directLook_writes
    | refine State.filLookup_writesE (by with_reducible assumption) ?_
    | refine State.emLookup_writesE (by with_reducible assumption) ?_
    | refine State.aseLookup_writesE (by with_reducible assumption) ?_
    | refine State.directLook_writesE (by with_reducible assumption) ?_
    | split
    | dsimp only

theorem State.lookIssue_writesE {F s x} {a1 a2 a3} {r0 t} (e : State.lookIssue x a1 a2 a3 = (r0, t))
    (h : Writes F s x) (w : [1286, 1287, 1288, 1538, 1555, 1556, 1563, 1564, 1794, 1795, 1796, 1797, 1798, 1799, 1829, 1830, 1831, 1832, 2056, 2061, 2062, 2063, 2064, 3110, 3113, 3114, 3123, 3125, 4907] ⊆ F := by exact subTrans (by assumption) (by decide)) :
    Writes F s t := by
  have k := State.lookIssue_writes (F := F) (s := s) (x := x) (a1 := a1) (a2 := a2) (a3 := a3) h
  rwa [e] at k

theorem State.looksIssue_writes {F s x} {a1 a2}
    (h : Writes F s x) (w : [1286, 1287, 1288, 1538, 1555, 1556, 1563, 1564, 1794, 1795, 1796, 1797, 1798, 1799, 1829, 1830, 1831, 1832, 2056, 2061, 2062, 2063, 2064, 3110, 3113, 3114, 3123, 3125, 4907] ⊆ F := by exact subTrans (by assumption) (by decide)) :
    Writes F s (State.looksIssue x a1 a2).2 := by
  unfold State.looksIssue
  repeat' first
    | with_reducible assumption
    | exact subTrans w (by decide)
    | intro _ _
    | intro _
    | with_reducible apply Writes.foldl
    | with_reducible apply Writes.foldl_snd
    | with_reducible apply Writes.foldl_fst
    | with_reducible apply Writes.foldl_third
    | with_reducible apply State.lookIssue_writes

theorem State.looksIssue_writesE {F s x} {a1 a2} {r0 t} (e : State.looksIssue x a1 a2 = (r0, t))
    (h : Writes F s x) (w : [1286, 1287, 1288, 1538, 1555, 1556, 1563, 1564, 1794, 1795, 1796, 1797, 1798, 1799, 1829, 1830, 1831, 1832, 2056, 2061, 2062, 2063, 2064, 3110, 3113, 3114, 3123, 3125, 4907] ⊆ F := by exact subTrans (by assumption) (by decide)) :
    Writes F s t := by
  have k := State.looksIssue_writes (F := F) (s := s) (x := x) (a1 := a1) (a2 := a2) h
  rwa [e] at k

theorem State.setEgress_writes {F s x} {a1 a2} (h : Writes F s x) : Writes F s (State.setEgress x a1 a2) := by
  unfold State.setEgress
  repeat' first
    | with_reducible assumption
    | intro _ _
    | intro _
    | with_reducible apply Writes.choose
    | split
    | dsimp only
    | with_reducible apply Writes.upd

theorem State.stageIssue_writes {F s x} {a1 a2 a3}
    (h : Writes F s x) (w : [1286, 1287, 1288, 1538, 1555, 1556, 1563, 1564, 1794, 1795, 1796, 1797, 1798, 1799, 1829, 1830, 1831, 1832, 2056, 2061, 2062, 2063, 2064, 3110, 3113, 3114, 3123, 3125, 4907] ⊆ F := by exact subTrans (by assumption) (by decide)) :
    Writes F s (State.stageIssue x a1 a2 a3) := by
  unfold State.stageIssue
  repeat' first
    | with_reducible assumption
    | exact subTrans w (by decide)
    | intro _ _
    | intro _
    | with_reducible apply Writes.choose
    | with_reducible apply State.setIngress_writes
    | with_reducible apply State.looksIssue_writes
    | with_reducible apply State.setEgress_writes
    | refine State.looksIssue_writesE (by with_reducible assumption) ?_
    | split
    | dsimp only

theorem State.verdictPut_writes {F s x} {a1 a2 a3 a4}
    (h : Writes F s x) (w : [2056, 2061, 2062, 2063, 2064, 3110, 3113, 3114, 3123, 3125, 4907] ⊆ F := by exact subTrans (by assumption) (by decide)) :
    Writes F s (State.verdictPut x a1 a2 a3 a4).2 := by
  unfold State.verdictPut
  repeat' first
    | with_reducible assumption
    | exact subTrans w (by decide)
    | intro _ _
    | intro _
    | with_reducible apply Writes.choose
    | with_reducible apply State.actionErr_writes
    | split

theorem State.verdictPut_writesE {F s x} {a1 a2 a3 a4} {r0 t} (e : State.verdictPut x a1 a2 a3 a4 = (r0, t))
    (h : Writes F s x) (w : [2056, 2061, 2062, 2063, 2064, 3110, 3113, 3114, 3123, 3125, 4907] ⊆ F := by exact subTrans (by assumption) (by decide)) :
    Writes F s t := by
  have k := State.verdictPut_writes (F := F) (s := s) (x := x) (a1 := a1) (a2 := a2) (a3 := a3) (a4 := a4) h
  rwa [e] at k

theorem State.loadAd_writes {F s x} {a1 a2 a3 a4 a5 a6 a7 a8}
    (h : Writes F s x) (w : [2056, 2061, 2062, 2063, 2064, 3110, 3113, 3114, 3123, 3125, 4907] ⊆ F := by exact subTrans (by assumption) (by decide)) :
    Writes F s (State.loadAd x a1 a2 a3 a4 a5 a6 a7 a8).2 := by
  unfold State.loadAd
  repeat' first
    | with_reducible assumption
    | exact subTrans w (by decide)
    | intro _ _
    | intro _
    | with_reducible apply Writes.choose
    | with_reducible apply State.injClear_writes
    | with_reducible apply State.faultInjected_writes
    | with_reducible apply State.tally_writes
    | with_reducible apply State.actionErr_writes
    | split
    | dsimp only
    | with_reducible apply Writes.upd

theorem State.loadAd_writesE {F s x} {a1 a2 a3 a4 a5 a6 a7 a8} {r0 t} (e : State.loadAd x a1 a2 a3 a4 a5 a6 a7 a8 = (r0, t))
    (h : Writes F s x) (w : [2056, 2061, 2062, 2063, 2064, 3110, 3113, 3114, 3123, 3125, 4907] ⊆ F := by exact subTrans (by assumption) (by decide)) :
    Writes F s t := by
  have k := State.loadAd_writes (F := F) (s := s) (x := x) (a1 := a1) (a2 := a2) (a3 := a3) (a4 := a4) (a5 := a5) (a6 := a6) (a7 := a7) (a8 := a8) h
  rwa [e] at k

theorem State.learnWord_writes {F s x} {a1 a2 a3} (h : Writes F s x) (w : [1558] ⊆ F := by exact subTrans (by assumption) (by decide)) :
    Writes F s (State.learnWord x a1 a2 a3) := by
  unfold State.learnWord
  repeat' first
    | with_reducible assumption
    | exact subTrans w (by decide)
    | intro _ _
    | intro _
    | with_reducible apply State.learnRequest_writes
    | split

theorem State.editWord_writes {F s x} {a1 a2 a3 a4}
    (h : Writes F s x) (w : [2058, 2061, 2062, 2063, 2064] ⊆ F := by exact subTrans (by assumption) (by decide)) :
    Writes F s (State.editWord x a1 a2 a3 a4).2 := by
  unfold State.editWord
  repeat' first
    | with_reducible assumption
    | exact subTrans w (by decide)
    | intro _ _
    | intro _
    | with_reducible apply Writes.choose
    | with_reducible apply State.editErr_writes
    | with_reducible apply State.editRecord_writes
    | refine State.editRecord_writesE (by with_reducible assumption) ?_
    | split

theorem State.editWord_writesE {F s x} {a1 a2 a3 a4} {r0 t} (e : State.editWord x a1 a2 a3 a4 = (r0, t))
    (h : Writes F s x) (w : [2058, 2061, 2062, 2063, 2064] ⊆ F := by exact subTrans (by assumption) (by decide)) :
    Writes F s t := by
  have k := State.editWord_writes (F := F) (s := s) (x := x) (a1 := a1) (a2 := a2) (a3 := a3) (a4 := a4) h
  rwa [e] at k

theorem State.wordRun_writes {F s x} {a1 a2 a3 a4 a5}
    (h : Writes F s x) (w : [1558, 2056, 2057, 2058, 2061, 2062, 2063, 2064, 3082, 3110, 3113, 3114, 3123, 3125, 4907] ⊆ F := by exact subTrans (by assumption) (by decide)) :
    Writes F s (State.wordRun x a1 a2 a3 a4 a5).2.2 := by
  unfold State.wordRun
  repeat' first
    | with_reducible assumption
    | exact subTrans w (by decide)
    | intro _ _
    | intro _
    | with_reducible apply State.count_writes
    | with_reducible apply State.verdictPut_writes
    | with_reducible apply State.loadAd_writes
    | with_reducible apply State.learnWord_writes
    | with_reducible apply State.editWord_writes
    | refine State.verdictPut_writesE (by with_reducible assumption) ?_
    | refine State.loadAd_writesE (by with_reducible assumption) ?_
    | refine State.editWord_writesE (by with_reducible assumption) ?_
    | split

theorem State.wordRun_writesE {F s x} {a1 a2 a3 a4 a5} {r0 r1 t} (e : State.wordRun x a1 a2 a3 a4 a5 = (r0, r1, t))
    (h : Writes F s x) (w : [1558, 2056, 2057, 2058, 2061, 2062, 2063, 2064, 3082, 3110, 3113, 3114, 3123, 3125, 4907] ⊆ F := by exact subTrans (by assumption) (by decide)) :
    Writes F s t := by
  have k := State.wordRun_writes (F := F) (s := s) (x := x) (a1 := a1) (a2 := a2) (a3 := a3) (a4 := a4) (a5 := a5) h
  rwa [e] at k

theorem State.wordsRun_writes {F s x wk p pc n err l}
    (h : Writes F s x) (w : [1558, 2056, 2057, 2058, 2061, 2062, 2063, 2064, 3082, 3110, 3113, 3114, 3123, 3125, 4907] ⊆ F := by exact subTrans (by assumption) (by decide)) :
    Writes F s (State.wordsRun x wk p pc n err l).2 := by
  induction l generalizing x wk p pc n with
  | zero => exact h
  | succ l ih =>
    simp only [State.wordsRun]
    split
    · exact h
    · split
      · split
        · exact State.actionErr_writes h
        · exact State.faultInjected_writes (Writes.upd (State.actionErr_writes h))
      · split
        · dsimp only
          split
          · exact State.wordRun_writes (State.injClear_writes h)
          · exact State.draw_writes (State.injClear_writes h)
        · refine ih (State.draw_writes ?_)
          split
          · exact State.wordRun_writes (State.injClear_writes h)
          · exact State.draw_writes (State.injClear_writes h)

theorem State.wordsRun_writesE {F s x wk p pc n err l r t} (e : State.wordsRun x wk p pc n err l = (r, t)) (h : Writes F s x) (w : [1558, 2056, 2057, 2058, 2061, 2062, 2063, 2064, 3082, 3110, 3113, 3114, 3123, 3125, 4907] ⊆ F := by exact subTrans (by assumption) (by decide)) :
    Writes F s t := by
  have k := State.wordsRun_writes (wk := wk) (p := p) (pc := pc) (n := n) (err := err) (l := l) h
  rwa [e] at k

theorem State.programRun_writes {F s x} {a1 a2}
    (h : Writes F s x) (w : [1558, 2056, 2057, 2058, 2061, 2062, 2063, 2064, 3082, 3110, 3113, 3114, 3123, 3125, 4907] ⊆ F := by exact subTrans (by assumption) (by decide)) :
    Writes F s (State.programRun x a1 a2).2 := by
  unfold State.programRun
  repeat' first
    | with_reducible assumption
    | exact subTrans w (by decide)
    | intro _ _
    | intro _
    | with_reducible apply Writes.choose
    | with_reducible apply State.actionErr_writes
    | with_reducible apply State.wordsRun_writes
    | refine State.wordsRun_writesE (by with_reducible assumption) ?_
    | split
    | dsimp only

theorem State.programRun_writesE {F s x} {a1 a2} {r0 t} (e : State.programRun x a1 a2 = (r0, t))
    (h : Writes F s x) (w : [1558, 2056, 2057, 2058, 2061, 2062, 2063, 2064, 3082, 3110, 3113, 3114, 3123, 3125, 4907] ⊆ F := by exact subTrans (by assumption) (by decide)) :
    Writes F s t := by
  have k := State.programRun_writes (F := F) (s := s) (x := x) (a1 := a1) (a2 := a2) h
  rwa [e] at k

theorem State.stageRun_writes {F s x} {a1 a2}
    (h : Writes F s x) (w : [1558, 2056, 2057, 2058, 2061, 2062, 2063, 2064, 3082, 3110, 3113, 3114, 3123, 3125, 4907] ⊆ F := by exact subTrans (by assumption) (by decide)) :
    Writes F s (State.stageRun x a1 a2).2 := by
  unfold State.stageRun
  repeat' first
    | with_reducible assumption
    | exact subTrans w (by decide)
    | intro _ _
    | intro _
    | with_reducible apply Writes.foldl
    | with_reducible apply Writes.foldl_snd
    | with_reducible apply Writes.foldl_fst
    | with_reducible apply Writes.foldl_third
    | with_reducible apply State.count_writes
    | with_reducible apply State.programRun_writes
    | refine State.programRun_writesE (by with_reducible assumption) ?_
    | split

theorem State.stageRun_writesE {F s x} {a1 a2} {r0 t} (e : State.stageRun x a1 a2 = (r0, t))
    (h : Writes F s x) (w : [1558, 2056, 2057, 2058, 2061, 2062, 2063, 2064, 3082, 3110, 3113, 3114, 3123, 3125, 4907] ⊆ F := by exact subTrans (by assumption) (by decide)) :
    Writes F s t := by
  have k := State.stageRun_writes (F := F) (s := s) (x := x) (a1 := a1) (a2 := a2) h
  rwa [e] at k

theorem State.resolveList_writes {F s x p b l}
    (h : Writes F s x) (w : [283, 1044, 1045, 2051, 2052, 2053, 2054, 2056, 2057, 2061, 2062, 2063, 2064, 2323, 2324, 2327, 2331, 2332, 2333, 2334, 2360, 2362, 2363, 2364, 2365, 2561, 2562, 2563, 2564, 2566, 2585, 2586, 2590, 3082, 3110, 3113, 3114, 3123, 3125, 4907] ⊆ F := by exact subTrans (by assumption) (by decide)) :
    Writes F s (State.resolveList x p b l) := by
  induction l generalizing x b with
  | nil => exact h
  | cons k rest ih =>
    simp only [State.resolveList]
    split
    · exact ih h
    · split
      · exact ih h
      · split
        · exact ih (State.endIngress_writesE (by assumption) (State.setIngress_writes h))
        · exact ih h

theorem State.resolve_writes {F s x} {a1}
    (h : Writes F s x) (w : [283, 1044, 1045, 2051, 2052, 2053, 2054, 2056, 2057, 2061, 2062, 2063, 2064, 2323, 2324, 2327, 2331, 2332, 2333, 2334, 2360, 2362, 2363, 2364, 2365, 2561, 2562, 2563, 2564, 2566, 2585, 2586, 2590, 3082, 3110, 3113, 3114, 3123, 3125, 4907] ⊆ F := by exact subTrans (by assumption) (by decide)) :
    Writes F s (State.resolve x a1) := by
  unfold State.resolve
  repeat' first
    | with_reducible assumption
    | exact subTrans w (by decide)
    | intro _ _
    | intro _
    | with_reducible apply State.resolveList_writes

theorem State.egDiscard_writes {F s x} {a1}
    (h : Writes F s x) (w : [283, 2323, 2331, 2332, 2333, 2334, 2360, 2362, 2363, 2364, 2365, 3076, 3083, 3084, 3085, 3104, 3110, 3113, 3114, 3123, 3125, 4907] ⊆ F := by exact subTrans (by assumption) (by decide)) :
    Writes F s (State.egDiscard x a1) := by
  unfold State.egDiscard
  repeat' first
    | with_reducible assumption
    | exact subTrans w (by decide)
    | intro _ _
    | intro _
    | with_reducible apply State.dropCard_writes
    | with_reducible apply State.instEnd_writes

theorem State.recircDepart_writes {F s x} {a1 a2}
    (h : Writes F s x) (w : [283, 2059, 2060, 2323, 2328, 2329, 2330, 2331, 2332, 2333, 2334, 2343, 2360, 2362, 2363, 2364, 2365, 2565, 2877, 2879, 2880, 2881, 3076, 3077, 3078, 3079, 3080, 3083, 3084, 3085, 3100, 3101, 3102, 3104, 3110, 3113, 3114, 3123, 3125, 3345, 3346, 3349, 3354, 3355, 4907] ⊆ F := by exact subTrans (by assumption) (by decide)) :
    Writes F s (State.recircDepart x a1 a2) := by
  unfold State.recircDepart
  repeat' first
    | with_reducible assumption
    | exact subTrans w (by decide)
    | intro _ _
    | intro _
    | with_reducible apply Writes.choose
    | with_reducible apply State.when_writes
    | with_reducible apply State.inc_writes
    | with_reducible apply State.when_writes
    | with_reducible apply State.readFrame_writes
    | with_reducible apply State.departHead_writes
    | with_reducible apply State.foldRecord_writes
    | with_reducible apply State.cardAsk_writes
    | with_reducible apply State.egDiscard_writes
    | refine State.readFrame_writesE (by with_reducible assumption) ?_
    | refine State.departHead_writesE (by with_reducible assumption) ?_
    | with_reducible exact Has.MAP_EDIT_OVERSIZE (subTrans w (by decide))
    | with_reducible exact Has.MAP_EDIT_PAD (subTrans w (by decide))
    | split
    | dsimp only
    | with_reducible apply Writes.upd

theorem State.setTxList_writes {F s x} {a1 a2} (h : Writes F s x) : Writes F s (State.setTxList x a1 a2) := by
  unfold State.setTxList
  repeat' first
    | with_reducible assumption
    | intro _ _
    | intro _
    | with_reducible apply Writes.choose
    | split
    | dsimp only
    | with_reducible apply Writes.upd

theorem State.txDue_writes {F s x} {a1} (h : Writes F s x) : Writes F s (State.txDue x a1) := by
  unfold State.txDue
  repeat' first
    | with_reducible assumption
    | intro _ _
    | intro _
    | with_reducible apply Writes.choose
    | with_reducible apply State.setTxList_writes
    | split

theorem State.endEgress_writes {F s x} {a1 a2}
    (h : Writes F s x) (w : [283, 2055, 2059, 2060, 2323, 2328, 2329, 2330, 2331, 2332, 2333, 2334, 2343, 2360, 2362, 2363, 2364, 2365, 2565, 2877, 2879, 2880, 2881, 3076, 3077, 3078, 3079, 3080, 3083, 3084, 3085, 3100, 3101, 3102, 3104, 3110, 3113, 3114, 3123, 3125, 3345, 3346, 3349, 3354, 3355, 4907] ⊆ F := by exact subTrans (by assumption) (by decide)) :
    Writes F s (State.endEgress x a1 a2) := by
  unfold State.endEgress
  repeat' first
    | with_reducible assumption
    | exact subTrans w (by decide)
    | intro _ _
    | intro _
    | with_reducible apply Writes.choose
    | with_reducible apply State.inc_writes
    | with_reducible apply State.egDiscard_writes
    | with_reducible apply State.recircDepart_writes
    | with_reducible apply State.setTxList_writes
    | with_reducible apply State.txDue_writes
    | with_reducible exact Has.MAP_EG_DROPS (subTrans w (by decide))

theorem State.ingressRun_writes {F s x} {a1 a2 a3}
    (h : Writes F s x) (w : [283, 1044, 1045, 1558, 2051, 2052, 2053, 2054, 2056, 2057, 2058, 2061, 2062, 2063, 2064, 2323, 2324, 2327, 2331, 2332, 2333, 2334, 2360, 2362, 2363, 2364, 2365, 2561, 2562, 2563, 2564, 2566, 2585, 2586, 2590, 3082, 3110, 3113, 3114, 3123, 3125, 4907] ⊆ F := by exact subTrans (by assumption) (by decide)) :
    Writes F s (State.ingressRun x a1 a2 a3) := by
  unfold State.ingressRun
  repeat' first
    | with_reducible assumption
    | exact subTrans w (by decide)
    | intro _ _
    | intro _
    | with_reducible apply Writes.choose
    | with_reducible apply State.setRefs_writes
    | with_reducible apply State.setIngress_writes
    | with_reducible apply State.stageRun_writes
    | with_reducible apply State.resolve_writes
    | refine State.stageRun_writesE (by with_reducible assumption) ?_
    | split

theorem State.egressRun_writes {F s x} {a1 a2 a3 a4}
    (h : Writes F s x) (w : [283, 1558, 2055, 2056, 2057, 2058, 2059, 2060, 2061, 2062, 2063, 2064, 2323, 2328, 2329, 2330, 2331, 2332, 2333, 2334, 2343, 2360, 2362, 2363, 2364, 2365, 2565, 2877, 2879, 2880, 2881, 3076, 3077, 3078, 3079, 3080, 3082, 3083, 3084, 3085, 3100, 3101, 3102, 3104, 3110, 3113, 3114, 3123, 3125, 3345, 3346, 3349, 3354, 3355, 4907] ⊆ F := by exact subTrans (by assumption) (by decide)) :
    Writes F s (State.egressRun x a1 a2 a3 a4) := by
  unfold State.egressRun
  repeat' first
    | with_reducible assumption
    | exact subTrans w (by decide)
    | intro _ _
    | intro _
    | with_reducible apply Writes.choose
    | with_reducible apply State.setEgress_writes
    | with_reducible apply State.stageRun_writes
    | with_reducible apply State.egDiscard_writes
    | with_reducible apply State.endEgress_writes
    | refine State.stageRun_writesE (by with_reducible assumption) ?_
    | split

theorem State.stageAct_writes {F s x} {a1 a2 a3 a4}
    (h : Writes F s x) (w : [283, 1044, 1045, 1558, 2051, 2052, 2053, 2054, 2055, 2056, 2057, 2058, 2059, 2060, 2061, 2062, 2063, 2064, 2323, 2324, 2327, 2328, 2329, 2330, 2331, 2332, 2333, 2334, 2343, 2360, 2362, 2363, 2364, 2365, 2561, 2562, 2563, 2564, 2565, 2566, 2585, 2586, 2590, 2877, 2879, 2880, 2881, 3076, 3077, 3078, 3079, 3080, 3082, 3083, 3084, 3085, 3100, 3101, 3102, 3104, 3110, 3113, 3114, 3123, 3125, 3345, 3346, 3349, 3354, 3355, 4907] ⊆ F := by exact subTrans (by assumption) (by decide)) :
    Writes F s (State.stageAct x a1 a2 a3 a4) := by
  unfold State.stageAct
  repeat' first
    | with_reducible assumption
    | exact subTrans w (by decide)
    | intro _ _
    | intro _
    | with_reducible apply Writes.choose
    | with_reducible apply State.when_writes
    | with_reducible apply State.when_writes
    | with_reducible apply State.tally_writes
    | with_reducible apply State.ingressRun_writes
    | with_reducible apply State.egressRun_writes
    | split

/-! ### Machine/Ports.lean -/

theorem State.ffePut_writes {F s x} {a1 a2 a3 a4}
    (h : Writes F s x) (w : [521, 522, 523] ⊆ F := by exact subTrans (by assumption) (by decide)) :
    Writes F s (State.ffePut x a1 a2 a3 a4) := by
  unfold State.ffePut
  repeat' first
    | with_reducible assumption
    | exact subTrans w (by decide)
    | intro _ _
    | intro _
    | with_reducible apply State.set_writes
    | with_reducible exact Has.LANE_PRE (subTrans w (by decide))
    | with_reducible exact Has.LANE_MAIN (subTrans w (by decide))
    | with_reducible exact Has.LANE_POST (subTrans w (by decide))

theorem State.ffeWrite_writes {F s x} {a1 a2}
    (h : Writes F s x) (w : [519, 521, 522, 523] ⊆ F := by exact subTrans (by assumption) (by decide)) :
    Writes F s (State.ffeWrite x a1 a2) := by
  unfold State.ffeWrite
  repeat' first
    | with_reducible assumption
    | exact subTrans w (by decide)
    | intro _ _
    | intro _
    | with_reducible apply Writes.choose
    | with_reducible apply State.setB_writes
    | with_reducible apply State.ffePut_writes
    | with_reducible exact Has.LANE_FFE_REJECT (subTrans w (by decide))

theorem State.ltRequest_writes {F s x} {a1 a2} (h : Writes F s x) (w : [521, 522, 523] ⊆ F := by exact subTrans (by assumption) (by decide)) :
    Writes F s (State.ltRequest x a1 a2) := by
  unfold State.ltRequest
  repeat' first
    | with_reducible assumption
    | exact subTrans w (by decide)
    | intro _ _
    | intro _
    | with_reducible apply Writes.choose
    | with_reducible apply State.emit_writes
    | with_reducible apply State.ffePut_writes

theorem State.trainLane_writes {F s x} {a1}
    (h : Writes F s x) (w : [520, 521, 522, 523] ⊆ F := by exact subTrans (by assumption) (by decide)) :
    Writes F s (State.trainLane x a1) := by
  unfold State.trainLane
  repeat' first
    | with_reducible assumption
    | exact subTrans w (by decide)
    | intro _ _
    | intro _
    | with_reducible apply State.setB_writes
    | with_reducible apply State.draw_writes
    | with_reducible apply State.ffePut_writes
    | with_reducible exact Has.LANE_TRAINING_ACTIVE (subTrans w (by decide))

theorem State.adaptRestart_writes {F s x} {a1}
    (h : Writes F s x) (w : [518, 524, 525, 526, 527] ⊆ F := by exact subTrans (by assumption) (by decide)) :
    Writes F s (State.adaptRestart x a1) := by
  unfold State.adaptRestart
  repeat' first
    | with_reducible assumption
    | exact subTrans w (by decide)
    | intro _ _
    | intro _
    | with_reducible apply Writes.choose
    | with_reducible apply State.set_writes
    | with_reducible apply State.setB_writes
    | with_reducible apply State.draw_writes
    | with_reducible exact Has.LANE_ADAPT_CONVERGED (subTrans w (by decide))
    | with_reducible exact Has.LANE_CTLE_PEAK (subTrans w (by decide))
    | with_reducible exact Has.LANE_DFE_TAP1 (subTrans w (by decide))
    | with_reducible exact Has.LANE_RX_FFE_PRE (subTrans w (by decide))
    | with_reducible exact Has.LANE_SNR (subTrans w (by decide))

theorem State.calibrate_writes {F s x} {a1 a2 a3}
    (h : Writes F s x) (w : [518, 524, 525, 526, 527] ⊆ F := by exact subTrans (by assumption) (by decide)) :
    Writes F s (State.calibrate x a1 a2 a3) := by
  unfold State.calibrate
  repeat' first
    | with_reducible assumption
    | exact subTrans w (by decide)
    | intro _ _
    | intro _
    | with_reducible apply Writes.choose
    | with_reducible apply State.set_writes
    | with_reducible apply State.setB_writes
    | with_reducible exact Has.LANE_ADAPT_CONVERGED (subTrans w (by decide))
    | with_reducible exact Has.LANE_CTLE_PEAK (subTrans w (by decide))
    | with_reducible exact Has.LANE_DFE_TAP1 (subTrans w (by decide))
    | with_reducible exact Has.LANE_RX_FFE_PRE (subTrans w (by decide))
    | with_reducible exact Has.LANE_SNR (subTrans w (by decide))

theorem State.putPause_writes {F s x} {a1 a2 a3} (h : Writes F s x) : Writes F s (State.putPause x a1 a2 a3) := by
  unfold State.putPause
  repeat' first
    | with_reducible assumption
    | intro _ _
    | intro _
    | split
    | dsimp only
    | with_reducible apply Writes.upd

theorem State.pauseLoad_writes {F s x} {a1 a2 a3} (h : Writes F s x) : Writes F s (State.pauseLoad x a1 a2 a3) := by
  unfold State.pauseLoad
  repeat' first
    | with_reducible assumption
    | intro _ _
    | intro _
    | with_reducible apply Writes.choose
    | with_reducible apply State.putPause_writes

theorem State.pauseRx_writes {F s x} {a1 a2 a3 a4}
    (h : Writes F s x) (w : [821, 824, 826, 828] ⊆ F := by exact subTrans (by assumption) (by decide)) :
    Writes F s (State.pauseRx x a1 a2 a3 a4) := by
  unfold State.pauseRx
  repeat' first
    | with_reducible assumption
    | exact subTrans w (by decide)
    | intro _ _
    | intro _
    | with_reducible apply Writes.choose
    | with_reducible apply State.when_writes
    | with_reducible apply Writes.foldl
    | with_reducible apply Writes.foldl_snd
    | with_reducible apply Writes.foldl_fst
    | with_reducible apply Writes.foldl_third
    | with_reducible apply Writes.upTo
    | with_reducible apply State.inc_writes
    | with_reducible apply State.when_writes
    | with_reducible apply State.pauseLoad_writes
    | with_reducible exact Has.PORT_PAUSE_IGNORED (subTrans w (by decide))
    | with_reducible exact Has.PORT_PAUSE_RX (subTrans w (by decide))
    | with_reducible exact Has.PORT_XON_RX (subTrans w (by decide))
    | with_reducible exact Has.PORT_PFC_RX_XOFF (subTrans w (by decide))
    | split

theorem State.pauseExpire_writes {F s x} {a1 a2} (h : Writes F s x) : Writes F s (State.pauseExpire x a1 a2) := by
  unfold State.pauseExpire
  repeat' first
    | with_reducible assumption
    | intro _ _
    | intro _
    | with_reducible apply Writes.choose
    | with_reducible apply State.putPause_writes
    | split
    | dsimp only

theorem State.pauseClear_writes {F s x} {a1} (h : Writes F s x) : Writes F s (State.pauseClear x a1) := by
  unfold State.pauseClear
  repeat' first
    | with_reducible assumption
    | intro _ _
    | intro _
    | with_reducible apply Writes.upTo
    | with_reducible apply State.pauseLoad_writes
    | split

theorem State.pauseStamp_writes {F s x} {a1} (h : Writes F s x) : Writes F s (State.pauseStamp x a1) := by
  unfold State.pauseStamp
  repeat' first
    | with_reducible assumption
    | intro _ _
    | intro _
    | with_reducible apply State.when_writes
    | with_reducible apply Writes.upTo
    | with_reducible apply State.when_writes
    | split
    | dsimp only
    | with_reducible apply Writes.upd

theorem State.pauseSend_writes {F s x} {a1} (h : Writes F s x) (w : [825, 827, 829] ⊆ F := by exact subTrans (by assumption) (by decide)) :
    Writes F s (State.pauseSend x a1) := by
  unfold State.pauseSend
  repeat' first
    | with_reducible assumption
    | exact subTrans w (by decide)
    | intro _ _
    | intro _
    | with_reducible apply Writes.choose
    | with_reducible apply State.when_writes
    | with_reducible apply Writes.upTo
    | with_reducible apply State.inc_writes
    | with_reducible apply State.emit_writes
    | with_reducible apply State.when_writes
    | with_reducible apply State.bwCount_writes
    | with_reducible apply State.pauseStamp_writes
    | with_reducible exact Has.PORT_PAUSE_TX (subTrans w (by decide))
    | with_reducible exact Has.PORT_XON_TX (subTrans w (by decide))
    | with_reducible exact Has.PORT_PFC_TX_XOFF (subTrans w (by decide))
    | split

theorem State.pauseTx_writes {F s x} {a1} (h : Writes F s x) (w : [825, 827, 829] ⊆ F := by exact subTrans (by assumption) (by decide)) :
    Writes F s (State.pauseTx x a1) := by
  unfold State.pauseTx
  repeat' first
    | with_reducible assumption
    | exact subTrans w (by decide)
    | intro _ _
    | intro _
    | with_reducible apply Writes.choose
    | with_reducible apply State.pauseSend_writes
    | split
    | dsimp only
    | with_reducible apply Writes.upd

theorem State.pauseRefresh_writes {F s x} {a1 a2}
    (h : Writes F s x) (w : [825, 827, 829] ⊆ F := by exact subTrans (by assumption) (by decide)) :
    Writes F s (State.pauseRefresh x a1 a2) := by
  unfold State.pauseRefresh
  repeat' first
    | with_reducible assumption
    | exact subTrans w (by decide)
    | intro _ _
    | intro _
    | with_reducible apply Writes.choose
    | with_reducible apply State.pauseSend_writes

theorem State.stormBegin_writes {F s x} {a1 a2}
    (h : Writes F s x) (w : [796, 812, 4907] ⊆ F := by exact subTrans (by assumption) (by decide)) :
    Writes F s (State.stormBegin x a1 a2) := by
  unfold State.stormBegin
  repeat' first
    | with_reducible assumption
    | exact subTrans w (by decide)
    | intro _ _
    | intro _
    | with_reducible apply State.setBit_writes
    | with_reducible apply State.portEvent_writes
    | with_reducible apply State.fault_writes
    | with_reducible exact Has.PORT_EV_STORM_ENTER (subTrans w (by decide))
    | with_reducible exact Has.PORT_STORM_ACTIVE (subTrans w (by decide))

theorem State.stormEnter_writes {F s x} {a1 a2}
    (h : Writes F s x) (w : [796, 812, 4907] ⊆ F := by exact subTrans (by assumption) (by decide)) :
    Writes F s (State.stormEnter x a1 a2) := by
  unfold State.stormEnter
  repeat' first
    | with_reducible assumption
    | exact subTrans w (by decide)
    | intro _ _
    | intro _
    | with_reducible apply Writes.choose
    | with_reducible apply State.when_writes
    | with_reducible apply State.when_writes
    | with_reducible apply State.draw_writes
    | with_reducible apply State.stormBegin_writes
    | split

theorem State.stormEnd_writes {F s x} {a1 a2} (h : Writes F s x) (w : [798, 812, 4907] ⊆ F := by exact subTrans (by assumption) (by decide)) :
    Writes F s (State.stormEnd x a1 a2) := by
  unfold State.stormEnd
  repeat' first
    | with_reducible assumption
    | exact subTrans w (by decide)
    | intro _ _
    | intro _
    | with_reducible apply State.clearBit_writes
    | with_reducible apply State.portEvent_writes
    | with_reducible exact Has.PORT_EV_STORM_EXIT (subTrans w (by decide))
    | with_reducible exact Has.PORT_STORM_ACTIVE (subTrans w (by decide))

theorem State.stormExit_writes {F s x} {a1 a2}
    (h : Writes F s x) (w : [798, 812, 4907] ⊆ F := by exact subTrans (by assumption) (by decide)) :
    Writes F s (State.stormExit x a1 a2) := by
  unfold State.stormExit
  repeat' first
    | with_reducible assumption
    | exact subTrans w (by decide)
    | intro _ _
    | intro _
    | with_reducible apply Writes.choose
    | with_reducible apply State.stormEnd_writes

theorem State.rxDrop_writes {F s x} {a1}
    (h : Writes F s x) (w : [283, 2323, 2325, 2331, 2332, 2333, 2334, 2360, 2362, 2363, 2364, 2365, 3076, 3083, 3084, 3085, 3104, 3110, 3113, 3114, 3123, 3125, 4907] ⊆ F := by exact subTrans (by assumption) (by decide)) :
    Writes F s (State.rxDrop x a1) := by
  unfold State.rxDrop
  repeat' first
    | with_reducible assumption
    | exact subTrans w (by decide)
    | intro _ _
    | intro _
    | with_reducible apply Writes.choose
    | with_reducible apply State.setList_writes
    | with_reducible apply State.xoffEval_writes
    | with_reducible apply State.uncharge_writes
    | with_reducible apply State.purge_writes
    | split

theorem State.rxAbort_writes {F s x} {a1}
    (h : Writes F s x) (w : [283, 819, 2323, 2325, 2331, 2332, 2333, 2334, 2360, 2362, 2363, 2364, 2365, 3076, 3083, 3084, 3085, 3104, 3110, 3113, 3114, 3123, 3125, 4907] ⊆ F := by exact subTrans (by assumption) (by decide)) :
    Writes F s (State.rxAbort x a1) := by
  unfold State.rxAbort
  repeat' first
    | with_reducible assumption
    | exact subTrans w (by decide)
    | intro _ _
    | intro _
    | with_reducible apply Writes.choose
    | with_reducible apply State.inc_writes
    | with_reducible apply State.rxDrop_writes
    | with_reducible exact Has.PORT_RX_ERRORS (subTrans w (by decide))
    | split
    | dsimp only
    | with_reducible apply Writes.upd

theorem State.txCut_writes {F s x} {a1}
    (h : Writes F s x) (w : [283, 2323, 2331, 2332, 2333, 2334, 2360, 2362, 2363, 2364, 2365, 3076, 3083, 3084, 3085, 3104, 3110, 3113, 3114, 3123, 3125, 4907] ⊆ F := by exact subTrans (by assumption) (by decide)) :
    Writes F s (State.txCut x a1) := by
  unfold State.txCut
  repeat' first
    | with_reducible assumption
    | exact subTrans w (by decide)
    | intro _ _
    | intro _
    | with_reducible apply State.instEnd_writes
    | with_reducible apply State.txStomp_writes
    | split
    | dsimp only
    | with_reducible apply Writes.upd

theorem State.putLink_writes {F s x} {a1 a2} (h : Writes F s x) : Writes F s (State.putLink x a1 a2) := by
  unfold State.putLink
  repeat' first
    | with_reducible assumption
    | intro _ _
    | intro _
    | with_reducible apply State.link_writes
    | split
    | dsimp only
    | with_reducible apply Writes.upd

theorem State.lineSend_writes {F s x} {a1 a2} (h : Writes F s x) : Writes F s (State.lineSend x a1 a2) := by
  unfold State.lineSend
  repeat' first
    | with_reducible assumption
    | intro _ _
    | intro _
    | with_reducible apply Writes.choose
    | with_reducible apply State.emit_writes
    | split
    | dsimp only
    | with_reducible apply Writes.upd

theorem State.portLine_writes {F s x} {a1} (h : Writes F s x) : Writes F s (State.portLine x a1) := by
  unfold State.portLine
  repeat' first
    | with_reducible assumption
    | intro _ _
    | intro _
    | with_reducible apply Writes.foldl
    | with_reducible apply Writes.foldl_snd
    | with_reducible apply Writes.foldl_fst
    | with_reducible apply Writes.foldl_third
    | with_reducible apply State.lineSend_writes

theorem State.allLines_writes {F s x} (h : Writes F s x) : Writes F s (State.allLines x) := by
  unfold State.allLines
  repeat' first
    | with_reducible assumption
    | intro _ _
    | intro _
    | with_reducible apply Writes.foldl
    | with_reducible apply Writes.foldl_snd
    | with_reducible apply Writes.foldl_fst
    | with_reducible apply Writes.foldl_third
    | with_reducible apply State.lineSend_writes
    | with_reducible apply State.portLine_writes

theorem State.linesOff_writes {F s x} (h : Writes F s x) : Writes F s (State.linesOff x) := by
  unfold State.linesOff
  repeat' first
    | with_reducible assumption
    | intro _ _
    | intro _
    | with_reducible apply Writes.foldl
    | with_reducible apply Writes.foldl_snd
    | with_reducible apply Writes.foldl_fst
    | with_reducible apply Writes.foldl_third
    | with_reducible apply State.lineSend_writes

theorem State.lanesQuiet_writes {F s x} {a1} (h : Writes F s x) (w : [520, 540] ⊆ F := by exact subTrans (by assumption) (by decide)) :
    Writes F s (State.lanesQuiet x a1) := by
  unfold State.lanesQuiet
  repeat' first
    | with_reducible assumption
    | exact subTrans w (by decide)
    | intro _ _
    | intro _
    | with_reducible apply Writes.foldl
    | with_reducible apply Writes.foldl_snd
    | with_reducible apply Writes.foldl_fst
    | with_reducible apply Writes.foldl_third
    | with_reducible apply State.setB_writes
    | with_reducible exact Has.LANE_TRAINING_ACTIVE (subTrans w (by decide))
    | with_reducible exact Has.LANE_CHK_LOCK (subTrans w (by decide))
    | split
    | dsimp only
    | with_reducible apply Writes.upd

theorem State.genStart_writes {F s x} {a1} (h : Writes F s x) : Writes F s (State.genStart x a1) := by
  unfold State.genStart
  repeat' first
    | with_reducible assumption
    | intro _ _
    | intro _
    | with_reducible apply State.draw_writes
    | split
    | dsimp only
    | with_reducible apply Writes.upd

theorem State.linkGo_writes {F s x} {a1 a2}
    (h : Writes F s x) (w : [520, 521, 522, 523, 540, 775, 776, 784, 785] ⊆ F := by exact subTrans (by assumption) (by decide)) :
    Writes F s (State.linkGo x a1 a2) := by
  unfold State.linkGo
  repeat' first
    | with_reducible assumption
    | exact subTrans w (by decide)
    | intro _ _
    | intro _
    | with_reducible apply State.when_writes
    | with_reducible apply Writes.foldl
    | with_reducible apply Writes.foldl_snd
    | with_reducible apply Writes.foldl_fst
    | with_reducible apply Writes.foldl_third
    | with_reducible apply State.set_writes
    | with_reducible apply State.setB_writes
    | with_reducible apply State.when_writes
    | with_reducible apply State.trainLane_writes
    | with_reducible apply State.putLink_writes
    | with_reducible apply State.portLine_writes
    | with_reducible apply State.lanesQuiet_writes
    | with_reducible apply State.genStart_writes
    | with_reducible exact Has.PORT_LINK_STATE (subTrans w (by decide))
    | with_reducible exact Has.PORT_LINK_UP (subTrans w (by decide))
    | with_reducible exact Has.PORT_AN_DONE (subTrans w (by decide))
    | with_reducible exact Has.PORT_TRAIN_DONE (subTrans w (by decide))

theorem State.leaveUp_writes {F s x} {a1}
    (h : Writes F s x) (w : [283, 775, 776, 788, 819, 823, 2323, 2325, 2331, 2332, 2333, 2334, 2360, 2362, 2363, 2364, 2365, 2569, 2584, 2586, 3076, 3083, 3084, 3085, 3104, 3110, 3113, 3114, 3123, 3125, 4907] ⊆ F := by exact subTrans (by assumption) (by decide)) :
    Writes F s (State.leaveUp x a1) := by
  unfold State.leaveUp
  repeat' first
    | with_reducible assumption
    | exact subTrans w (by decide)
    | intro _ _
    | intro _
    | with_reducible apply Writes.choose
    | with_reducible apply State.set_writes
    | with_reducible apply State.setB_writes
    | with_reducible apply State.inc_writes
    | with_reducible apply State.portEvent_writes
    | with_reducible apply State.portHold_writes
    | with_reducible apply State.pauseClear_writes
    | with_reducible apply State.rxAbort_writes
    | with_reducible exact Has.PORT_LINK_STATE (subTrans w (by decide))
    | with_reducible exact Has.PORT_LINK_UP (subTrans w (by decide))
    | with_reducible exact Has.PORT_EV_LINK_DOWN_EVT (subTrans w (by decide))
    | with_reducible exact Has.PORT_LINK_FLAPS (subTrans w (by decide))

theorem State.linkTo_writes {F s x} {a1 a2}
    (h : Writes F s x) (w : [283, 520, 521, 522, 523, 540, 775, 776, 784, 785, 788, 819, 823, 2323, 2325, 2331, 2332, 2333, 2334, 2360, 2362, 2363, 2364, 2365, 2569, 2584, 2586, 3076, 3083, 3084, 3085, 3104, 3110, 3113, 3114, 3123, 3125, 4907] ⊆ F := by exact subTrans (by assumption) (by decide)) :
    Writes F s (State.linkTo x a1 a2) := by
  unfold State.linkTo
  repeat' first
    | with_reducible assumption
    | exact subTrans w (by decide)
    | intro _ _
    | intro _
    | with_reducible apply State.linkGo_writes
    | with_reducible apply State.leaveUp_writes

theorem State.linkFirst_writes {F s x} {a1}
    (h : Writes F s x) (w : [283, 520, 521, 522, 523, 540, 775, 776, 784, 785, 788, 819, 823, 2323, 2325, 2331, 2332, 2333, 2334, 2360, 2362, 2363, 2364, 2365, 2569, 2584, 2586, 3076, 3083, 3084, 3085, 3104, 3110, 3113, 3114, 3123, 3125, 4907] ⊆ F := by exact subTrans (by assumption) (by decide)) :
    Writes F s (State.linkFirst x a1) := by
  unfold State.linkFirst
  repeat' first
    | with_reducible assumption
    | exact subTrans w (by decide)
    | intro _ _
    | intro _
    | with_reducible apply State.putLink_writes
    | with_reducible apply State.linkGo_writes
    | with_reducible apply State.leaveUp_writes

theorem State.enterUp_writes {F s x} {a1}
    (h : Writes F s x) (w : [775, 776, 786, 2569, 4907] ⊆ F := by exact subTrans (by assumption) (by decide)) :
    Writes F s (State.enterUp x a1) := by
  unfold State.enterUp
  repeat' first
    | with_reducible assumption
    | exact subTrans w (by decide)
    | intro _ _
    | intro _
    | with_reducible apply State.when_writes
    | with_reducible apply State.set_writes
    | with_reducible apply State.setB_writes
    | with_reducible apply State.when_writes
    | with_reducible apply State.portEvent_writes
    | with_reducible apply State.pauseOwe_writes
    | with_reducible apply State.portLine_writes
    | with_reducible exact Has.PORT_LINK_STATE (subTrans w (by decide))
    | with_reducible exact Has.PORT_LINK_UP (subTrans w (by decide))
    | with_reducible exact Has.PORT_EV_LINK_UP_EVT (subTrans w (by decide))
    | with_reducible exact Has.QSCH_HOLD_ACTIVE (subTrans w (by decide))

theorem State.portStart_writes {F s x} {a1}
    (h : Writes F s x) (w : [283, 520, 521, 522, 523, 540, 775, 776, 784, 785, 788, 819, 823, 2323, 2325, 2331, 2332, 2333, 2334, 2360, 2362, 2363, 2364, 2365, 2569, 2584, 2586, 3076, 3083, 3084, 3085, 3104, 3110, 3113, 3114, 3123, 3125, 4907] ⊆ F := by exact subTrans (by assumption) (by decide)) :
    Writes F s (State.portStart x a1) := by
  unfold State.portStart
  repeat' first
    | with_reducible assumption
    | exact subTrans w (by decide)
    | intro _ _
    | intro _
    | with_reducible apply Writes.choose
    | with_reducible apply State.linkGo_writes
    | with_reducible apply State.linkFirst_writes

theorem State.anFail_writes {F s x} {a1}
    (h : Writes F s x) (w : [283, 520, 521, 522, 523, 540, 775, 776, 784, 785, 788, 790, 819, 823, 2323, 2325, 2331, 2332, 2333, 2334, 2360, 2362, 2363, 2364, 2365, 2569, 2584, 2586, 3076, 3083, 3084, 3085, 3104, 3110, 3113, 3114, 3123, 3125, 4907] ⊆ F := by exact subTrans (by assumption) (by decide)) :
    Writes F s (State.anFail x a1) := by
  unfold State.anFail
  repeat' first
    | with_reducible assumption
    | exact subTrans w (by decide)
    | intro _ _
    | intro _
    | with_reducible apply Writes.choose
    | with_reducible apply State.portEvent_writes
    | with_reducible apply State.linkFirst_writes
    | with_reducible exact Has.PORT_EV_AN_FAIL (subTrans w (by decide))

theorem State.anComplete_writes {F s x} {a1 a2 a3}
    (h : Writes F s x) (w : [283, 520, 521, 522, 523, 540, 775, 776, 783, 784, 785, 788, 790, 819, 823, 2323, 2325, 2331, 2332, 2333, 2334, 2360, 2362, 2363, 2364, 2365, 2569, 2584, 2586, 3076, 3083, 3084, 3085, 3104, 3110, 3113, 3114, 3123, 3125, 4907] ⊆ F := by exact subTrans (by assumption) (by decide)) :
    Writes F s (State.anComplete x a1 a2 a3) := by
  unfold State.anComplete
  repeat' first
    | with_reducible assumption
    | exact subTrans w (by decide)
    | intro _ _
    | intro _
    | with_reducible apply Writes.choose
    | with_reducible apply State.set_writes
    | with_reducible apply State.setB_writes
    | with_reducible apply State.linkGo_writes
    | with_reducible apply State.anFail_writes
    | with_reducible exact Has.PORT_LP_PAUSE (subTrans w (by decide))
    | with_reducible exact Has.PORT_AN_DONE (subTrans w (by decide))

theorem State.trainComplete_writes {F s x} {a1}
    (h : Writes F s x) (w : [520, 521, 522, 523, 540, 775, 776, 784, 785] ⊆ F := by exact subTrans (by assumption) (by decide)) :
    Writes F s (State.trainComplete x a1) := by
  unfold State.trainComplete
  repeat' first
    | with_reducible assumption
    | exact subTrans w (by decide)
    | intro _ _
    | intro _
    | with_reducible apply Writes.choose
    | with_reducible apply State.setB_writes
    | with_reducible apply State.linkGo_writes
    | with_reducible exact Has.PORT_TRAIN_DONE (subTrans w (by decide))

theorem State.trainFail_writes {F s x} {a1}
    (h : Writes F s x) (w : [283, 520, 521, 522, 523, 540, 775, 776, 784, 785, 788, 792, 819, 823, 2323, 2325, 2331, 2332, 2333, 2334, 2360, 2362, 2363, 2364, 2365, 2569, 2584, 2586, 3076, 3083, 3084, 3085, 3104, 3110, 3113, 3114, 3123, 3125, 4907] ⊆ F := by exact subTrans (by assumption) (by decide)) :
    Writes F s (State.trainFail x a1) := by
  unfold State.trainFail
  repeat' first
    | with_reducible assumption
    | exact subTrans w (by decide)
    | intro _ _
    | intro _
    | with_reducible apply Writes.choose
    | with_reducible apply State.portEvent_writes
    | with_reducible apply State.linkFirst_writes
    | with_reducible exact Has.PORT_EV_TRAIN_FAIL (subTrans w (by decide))

theorem State.linkUpNow_writes {F s x} {a1}
    (h : Writes F s x) (w : [775, 776, 786, 2569, 4907] ⊆ F := by exact subTrans (by assumption) (by decide)) :
    Writes F s (State.linkUpNow x a1) := by
  unfold State.linkUpNow
  repeat' first
    | with_reducible assumption
    | exact subTrans w (by decide)
    | intro _ _
    | intro _
    | with_reducible apply Writes.choose
    | with_reducible apply State.enterUp_writes

theorem State.alignTimeout_writes {F s x} {a1}
    (h : Writes F s x) (w : [283, 520, 521, 522, 523, 540, 775, 776, 784, 785, 788, 794, 819, 823, 2323, 2325, 2331, 2332, 2333, 2334, 2360, 2362, 2363, 2364, 2365, 2569, 2584, 2586, 3076, 3083, 3084, 3085, 3104, 3110, 3113, 3114, 3123, 3125, 4907] ⊆ F := by exact subTrans (by assumption) (by decide)) :
    Writes F s (State.alignTimeout x a1) := by
  unfold State.alignTimeout
  repeat' first
    | with_reducible assumption
    | exact subTrans w (by decide)
    | intro _ _
    | intro _
    | with_reducible apply Writes.choose
    | with_reducible apply State.portEvent_writes
    | with_reducible apply State.linkFirst_writes
    | with_reducible exact Has.PORT_EV_ALIGN_TIMEOUT_EVT (subTrans w (by decide))

theorem State.linkDownNow_writes {F s x} {a1}
    (h : Writes F s x) (w : [283, 520, 521, 522, 523, 540, 775, 776, 784, 785, 788, 819, 823, 2323, 2325, 2331, 2332, 2333, 2334, 2360, 2362, 2363, 2364, 2365, 2569, 2584, 2586, 3076, 3083, 3084, 3085, 3104, 3110, 3113, 3114, 3123, 3125, 4907] ⊆ F := by exact subTrans (by assumption) (by decide)) :
    Writes F s (State.linkDownNow x a1) := by
  unfold State.linkDownNow
  repeat' first
    | with_reducible assumption
    | exact subTrans w (by decide)
    | intro _ _
    | intro _
    | with_reducible apply Writes.choose
    | with_reducible apply State.linkTo_writes

theorem State.adminUp_writes {F s x} {a1 a2}
    (h : Writes F s x) (w : [283, 520, 521, 522, 523, 540, 768, 775, 776, 784, 785, 788, 819, 823, 2323, 2325, 2331, 2332, 2333, 2334, 2360, 2362, 2363, 2364, 2365, 2569, 2584, 2586, 3076, 3083, 3084, 3085, 3104, 3110, 3113, 3114, 3123, 3125, 4907] ⊆ F := by exact subTrans (by assumption) (by decide)) :
    Writes F s (State.adminUp x a1 a2) := by
  unfold State.adminUp
  repeat' first
    | with_reducible assumption
    | exact subTrans w (by decide)
    | intro _ _
    | intro _
    | with_reducible apply Writes.choose
    | with_reducible apply State.setB_writes
    | with_reducible apply State.linkTo_writes
    | with_reducible apply State.portStart_writes
    | with_reducible exact Has.PORT_ADMIN_UP (subTrans w (by decide))

theorem State.testMode_writes {F s x} {a1 a2}
    (h : Writes F s x) (w : [283, 520, 521, 522, 523, 540, 771, 775, 776, 784, 785, 788, 819, 823, 2323, 2325, 2331, 2332, 2333, 2334, 2360, 2362, 2363, 2364, 2365, 2569, 2584, 2586, 3076, 3083, 3084, 3085, 3104, 3110, 3113, 3114, 3123, 3125, 4907] ⊆ F := by exact subTrans (by assumption) (by decide)) :
    Writes F s (State.testMode x a1 a2) := by
  unfold State.testMode
  repeat' first
    | with_reducible assumption
    | exact subTrans w (by decide)
    | intro _ _
    | intro _
    | with_reducible apply Writes.choose
    | with_reducible apply State.setB_writes
    | with_reducible apply State.linkTo_writes
    | with_reducible apply State.portStart_writes
    | with_reducible exact Has.PORT_TEST_MODE (subTrans w (by decide))

theorem State.portSettle_writes {F s x} {a1}
    (h : Writes F s x) (w : [283, 520, 521, 522, 523, 540, 771, 775, 776, 784, 785, 788, 819, 823, 2323, 2325, 2331, 2332, 2333, 2334, 2360, 2362, 2363, 2364, 2365, 2569, 2584, 2586, 3076, 3083, 3084, 3085, 3104, 3110, 3113, 3114, 3123, 3125, 4907] ⊆ F := by exact subTrans (by assumption) (by decide)) :
    Writes F s (State.portSettle x a1) := by
  unfold State.portSettle
  repeat' first
    | with_reducible assumption
    | exact subTrans w (by decide)
    | intro _ _
    | intro _
    | with_reducible apply Writes.choose
    | with_reducible apply State.linkTo_writes
    | with_reducible apply State.testMode_writes

theorem State.portRestart_writes {F s x} {a1}
    (h : Writes F s x) (w : [283, 520, 521, 522, 523, 540, 775, 776, 784, 785, 788, 819, 823, 2323, 2325, 2331, 2332, 2333, 2334, 2360, 2362, 2363, 2364, 2365, 2569, 2584, 2586, 3076, 3083, 3084, 3085, 3104, 3110, 3113, 3114, 3123, 3125, 4907] ⊆ F := by exact subTrans (by assumption) (by decide)) :
    Writes F s (State.portRestart x a1) := by
  unfold State.portRestart
  repeat' first
    | with_reducible assumption
    | exact subTrans w (by decide)
    | intro _ _
    | intro _
    | with_reducible apply Writes.choose
    | with_reducible apply State.linkFirst_writes

theorem State.fecClear_writes {F s x} {a1}
    (h : Writes F s x) (w : [831, 832, 833, 834, 835] ⊆ F := by exact subTrans (by assumption) (by decide)) :
    Writes F s (State.fecClear x a1) := by
  unfold State.fecClear
  repeat' first
    | with_reducible assumption
    | exact subTrans w (by decide)
    | intro _ _
    | intro _
    | with_reducible apply Writes.upTo
    | with_reducible apply State.set_writes
    | with_reducible exact Has.PORT_CW_TOTAL (subTrans w (by decide))
    | with_reducible exact Has.PORT_CW_CORR (subTrans w (by decide))
    | with_reducible exact Has.PORT_CW_UNCORR (subTrans w (by decide))
    | with_reducible exact Has.PORT_SYM_CORR (subTrans w (by decide))
    | with_reducible exact Has.PORT_FEC_BIN (subTrans w (by decide))

theorem State.fecCount_writes {F s x} {a1 a2}
    (h : Writes F s x) (w : [831, 832, 833, 834, 835] ⊆ F := by exact subTrans (by assumption) (by decide)) :
    Writes F s (State.fecCount x a1 a2) := by
  unfold State.fecCount
  repeat' first
    | with_reducible assumption
    | exact subTrans w (by decide)
    | intro _ _
    | intro _
    | with_reducible apply State.when_writes
    | with_reducible apply Writes.foldl
    | with_reducible apply Writes.foldl_snd
    | with_reducible apply Writes.foldl_fst
    | with_reducible apply Writes.foldl_third
    | with_reducible apply State.add_writes
    | with_reducible apply State.inc_writes
    | with_reducible apply State.when_writes
    | with_reducible exact Has.PORT_CW_TOTAL (subTrans w (by decide))
    | with_reducible exact Has.PORT_CW_CORR (subTrans w (by decide))
    | with_reducible exact Has.PORT_CW_UNCORR (subTrans w (by decide))
    | with_reducible exact Has.PORT_SYM_CORR (subTrans w (by decide))
    | with_reducible exact Has.PORT_FEC_BIN (subTrans w (by decide))
    | split

theorem State.linkChange_writes {F s x} {a1 a2 a3 a4 a5 a6 a7}
    (h : Writes F s x) (w : [777, 778, 779, 780, 781, 800, 831, 832, 833, 834, 835, 4907] ⊆ F := by exact subTrans (by assumption) (by decide)) :
    Writes F s (State.linkChange x a1 a2 a3 a4 a5 a6 a7) := by
  unfold State.linkChange
  repeat' first
    | with_reducible assumption
    | exact subTrans w (by decide)
    | intro _ _
    | intro _
    | with_reducible apply Writes.choose
    | with_reducible apply State.when_writes
    | with_reducible apply State.set_writes
    | with_reducible apply State.setB_writes
    | with_reducible apply State.when_writes
    | with_reducible apply State.portEvent_writes
    | with_reducible apply State.putLink_writes
    | with_reducible apply State.portLine_writes
    | with_reducible apply State.fecCount_writes
    | with_reducible exact Has.PORT_LF_RX (subTrans w (by decide))
    | with_reducible exact Has.PORT_RF_RX (subTrans w (by decide))
    | with_reducible exact Has.PORT_HI_SER (subTrans w (by decide))
    | with_reducible exact Has.PORT_DESKEW_OK (subTrans w (by decide))
    | with_reducible exact Has.PORT_AM_LOCKED (subTrans w (by decide))
    | with_reducible exact Has.PORT_EV_HI_SER_EVT (subTrans w (by decide))

theorem State.chipletLost_writes {F s x} {a1} (h : Writes F s x) (w : [517, 780, 781] ⊆ F := by exact subTrans (by assumption) (by decide)) :
    Writes F s (State.chipletLost x a1) := by
  unfold State.chipletLost
  repeat' first
    | with_reducible assumption
    | exact subTrans w (by decide)
    | intro _ _
    | intro _
    | with_reducible apply Writes.choose
    | with_reducible apply State.when_writes
    | with_reducible apply Writes.upTo
    | with_reducible apply State.set_writes
    | with_reducible apply State.setB_writes
    | with_reducible apply State.when_writes
    | with_reducible apply State.fault_writes
    | with_reducible apply State.putLink_writes
    | with_reducible apply State.portLine_writes
    | with_reducible exact Has.LANE_CDR_LOCK (subTrans w (by decide))
    | with_reducible exact Has.PORT_DESKEW_OK (subTrans w (by decide))
    | with_reducible exact Has.PORT_AM_LOCKED (subTrans w (by decide))

theorem State.portSafe_writes {F s x} {a1 a2}
    (h : Writes F s x) (w : [283, 520, 521, 522, 523, 540, 775, 776, 784, 785, 788, 819, 823, 2323, 2325, 2331, 2332, 2333, 2334, 2360, 2362, 2363, 2364, 2365, 2569, 2584, 2586, 3076, 3083, 3084, 3085, 3104, 3110, 3113, 3114, 3123, 3125, 4907] ⊆ F := by exact subTrans (by assumption) (by decide)) :
    Writes F s (State.portSafe x a1 a2) := by
  unfold State.portSafe
  repeat' first
    | with_reducible assumption
    | exact subTrans w (by decide)
    | intro _ _
    | intro _
    | with_reducible apply Writes.choose
    | with_reducible apply State.when_writes
    | with_reducible apply State.when_writes
    | with_reducible apply State.txCut_writes
    | with_reducible apply State.linkTo_writes

theorem State.portLeaveSafe_writes {F s x} {a1}
    (h : Writes F s x) (w : [283, 520, 521, 522, 523, 540, 775, 776, 784, 785, 788, 819, 823, 2323, 2325, 2331, 2332, 2333, 2334, 2360, 2362, 2363, 2364, 2365, 2569, 2584, 2586, 3076, 3083, 3084, 3085, 3104, 3110, 3113, 3114, 3123, 3125, 4907] ⊆ F := by exact subTrans (by assumption) (by decide)) :
    Writes F s (State.portLeaveSafe x a1) := by
  unfold State.portLeaveSafe
  repeat' first
    | with_reducible assumption
    | exact subTrans w (by decide)
    | intro _ _
    | intro _
    | with_reducible apply Writes.choose
    | with_reducible apply State.linkGo_writes
    | with_reducible apply State.portStart_writes

theorem State.portDown_writes {F s x} {a1}
    (h : Writes F s x) (w : [283, 520, 521, 522, 523, 540, 775, 776, 784, 785, 788, 819, 823, 2323, 2325, 2331, 2332, 2333, 2334, 2360, 2362, 2363, 2364, 2365, 2569, 2584, 2586, 3076, 3083, 3084, 3085, 3104, 3110, 3113, 3114, 3123, 3125, 4907] ⊆ F := by exact subTrans (by assumption) (by decide)) :
    Writes F s (State.portDown x a1) := by
  unfold State.portDown
  repeat' first
    | with_reducible assumption
    | exact subTrans w (by decide)
    | intro _ _
    | intro _
    | with_reducible apply Writes.choose
    | with_reducible apply State.linkTo_writes

theorem State.allPortsDisabled_writes {F s x}
    (h : Writes F s x) (w : [283, 520, 521, 522, 523, 540, 775, 776, 784, 785, 788, 819, 823, 2323, 2325, 2331, 2332, 2333, 2334, 2360, 2362, 2363, 2364, 2365, 2569, 2584, 2586, 3076, 3083, 3084, 3085, 3104, 3110, 3113, 3114, 3123, 3125, 4907] ⊆ F := by exact subTrans (by assumption) (by decide)) :
    Writes F s (State.allPortsDisabled x) := by
  unfold State.allPortsDisabled
  repeat' first
    | with_reducible assumption
    | exact subTrans w (by decide)
    | intro _ _
    | intro _
    | with_reducible apply Writes.foldl
    | with_reducible apply Writes.foldl_snd
    | with_reducible apply Writes.foldl_fst
    | with_reducible apply Writes.foldl_third
    | with_reducible apply State.portDown_writes

theorem State.portReset_writes {F s x} {a1}
    (h : Writes F s x) (w : [283, 518, 520, 521, 522, 523, 524, 525, 526, 527, 540, 775, 776, 777, 778, 779, 780, 781, 783, 784, 785, 788, 798, 812, 819, 823, 2323, 2325, 2331, 2332, 2333, 2334, 2360, 2362, 2363, 2364, 2365, 2569, 2584, 2586, 3076, 3083, 3084, 3085, 3104, 3110, 3113, 3114, 3123, 3125, 4120, 4907] ⊆ F := by exact subTrans (by assumption) (by decide)) :
    Writes F s (State.portReset x a1) := by
  unfold State.portReset
  repeat' first
    | with_reducible assumption
    | exact subTrans w (by decide)
    | intro _ _
    | intro _
    | with_reducible apply Writes.choose
    | with_reducible apply State.when_writes
    | with_reducible apply Writes.foldl
    | with_reducible apply Writes.foldl_snd
    | with_reducible apply Writes.foldl_fst
    | with_reducible apply Writes.foldl_third
    | with_reducible apply State.set_writes
    | with_reducible apply State.setB_writes
    | with_reducible apply State.clearBit_writes
    | with_reducible apply State.when_writes
    | with_reducible apply State.portEvent_writes
    | with_reducible apply State.adaptRestart_writes
    | with_reducible apply State.pauseClear_writes
    | with_reducible apply State.txCut_writes
    | with_reducible apply State.linkGo_writes
    | with_reducible apply State.leaveUp_writes
    | with_reducible apply State.portStart_writes
    | with_reducible exact Has.PORT_LF_RX (subTrans w (by decide))
    | with_reducible exact Has.PORT_RF_RX (subTrans w (by decide))
    | with_reducible exact Has.PORT_HI_SER (subTrans w (by decide))
    | with_reducible exact Has.PORT_DESKEW_OK (subTrans w (by decide))
    | with_reducible exact Has.PORT_AM_LOCKED (subTrans w (by decide))
    | with_reducible exact Has.PORT_LP_PAUSE (subTrans w (by decide))
    | with_reducible exact Has.PORT_AN_DONE (subTrans w (by decide))
    | with_reducible exact Has.PORT_TRAIN_DONE (subTrans w (by decide))
    | with_reducible exact Has.PORT_EV_STORM_EXIT (subTrans w (by decide))
    | with_reducible exact Has.PORT_STORM_ACTIVE (subTrans w (by decide))
    | with_reducible exact Has.FLT_PORT_SAFE (subTrans w (by decide))

theorem State.lanesReady_writes {F s x}
    (h : Writes F s x) (w : [283, 520, 521, 522, 523, 540, 775, 776, 784, 785, 788, 819, 823, 2323, 2325, 2331, 2332, 2333, 2334, 2360, 2362, 2363, 2364, 2365, 2569, 2584, 2586, 3076, 3083, 3084, 3085, 3104, 3110, 3113, 3114, 3123, 3125, 4871, 4872, 4907] ⊆ F := by exact subTrans (by assumption) (by decide)) :
    Writes F s (State.lanesReady x) := by
  unfold State.lanesReady
  repeat' first
    | with_reducible assumption
    | exact subTrans w (by decide)
    | intro _ _
    | intro _
    | with_reducible apply Writes.choose
    | with_reducible apply Writes.foldl
    | with_reducible apply Writes.foldl_snd
    | with_reducible apply Writes.foldl_fst
    | with_reducible apply Writes.foldl_third
    | with_reducible apply State.set_writes
    | with_reducible apply State.setB_writes
    | with_reducible apply State.portStart_writes
    | with_reducible exact Has.GLB_LANES_READY (subTrans w (by decide))
    | with_reducible exact Has.GLB_STEP (subTrans w (by decide))

theorem State.genTake_writes {F s x} {a1 a2} (h : Writes F s x) : Writes F s (State.genTake x a1 a2).2 := by
  unfold State.genTake
  repeat' first
    | with_reducible assumption
    | intro _ _
    | intro _
    | split
    | dsimp only
    | with_reducible apply Writes.upd

theorem State.genTake_writesE {F s x} {a1 a2} {r0 t} (e : State.genTake x a1 a2 = (r0, t)) (h : Writes F s x) :
    Writes F s t := by
  have k := State.genTake_writes (F := F) (s := s) (x := x) (a1 := a1) (a2 := a2) h
  rwa [e] at k

theorem State.chkSees_writes {F s x} {a1 a2} (h : Writes F s x) : Writes F s (State.chkSees x a1 a2).2 := by
  unfold State.chkSees
  repeat' first
    | with_reducible assumption
    | intro _ _
    | intro _
    | with_reducible apply Writes.choose
    | with_reducible apply State.genTake_writes
    | refine State.genTake_writesE (by with_reducible assumption) ?_
    | split

theorem State.chkSees_writesE {F s x} {a1 a2} {r0 t} (e : State.chkSees x a1 a2 = (r0, t)) (h : Writes F s x) :
    Writes F s t := by
  have k := State.chkSees_writes (F := F) (s := s) (x := x) (a1 := a1) (a2 := a2) h
  rwa [e] at k

theorem State.chkFeed_writes {F s x} {a1 a2}
    (h : Writes F s x) (w : [540, 541, 542, 543, 544] ⊆ F := by exact subTrans (by assumption) (by decide)) :
    Writes F s (State.chkFeed x a1 a2) := by
  unfold State.chkFeed
  repeat' first
    | with_reducible assumption
    | exact subTrans w (by decide)
    | intro _ _
    | intro _
    | with_reducible apply Writes.choose
    | with_reducible apply State.when_writes
    | with_reducible apply Writes.foldl
    | with_reducible apply Writes.foldl_snd
    | with_reducible apply Writes.foldl_fst
    | with_reducible apply Writes.foldl_third
    | with_reducible apply State.setB_writes
    | with_reducible apply State.add_writes
    | with_reducible apply State.when_writes
    | with_reducible apply State.chkSees_writes
    | refine State.chkSees_writesE (by with_reducible assumption) ?_
    | with_reducible exact Has.LANE_CHK_LOCK (subTrans w (by decide))
    | with_reducible exact Has.LANE_LOCK_LOST (subTrans w (by decide))
    | with_reducible exact Has.LANE_BIT_ERRORS (subTrans w (by decide))
    | with_reducible exact Has.LANE_SYM_ERRORS (subTrans w (by decide))
    | with_reducible exact Has.LANE_BITS_CHECKED (subTrans w (by decide))
    | split
    | dsimp only
    | with_reducible apply Writes.upd

theorem State.chkClear_writes {F s x} {a1}
    (h : Writes F s x) (w : [541, 542, 543, 544] ⊆ F := by exact subTrans (by assumption) (by decide)) :
    Writes F s (State.chkClear x a1) := by
  unfold State.chkClear
  repeat' first
    | with_reducible assumption
    | exact subTrans w (by decide)
    | intro _ _
    | intro _
    | with_reducible apply State.set_writes
    | with_reducible apply State.setB_writes
    | with_reducible exact Has.LANE_LOCK_LOST (subTrans w (by decide))
    | with_reducible exact Has.LANE_BIT_ERRORS (subTrans w (by decide))
    | with_reducible exact Has.LANE_SYM_ERRORS (subTrans w (by decide))
    | with_reducible exact Has.LANE_BITS_CHECKED (subTrans w (by decide))

theorem State.laneInject_writes {F s x} {a1} (h : Writes F s x) : Writes F s (State.laneInject x a1) := by
  unfold State.laneInject
  repeat' first
    | with_reducible assumption
    | intro _ _
    | intro _
    | with_reducible apply State.emit_writes
    | split

theorem State.genInject_writes {F s x} {a1} (h : Writes F s x) : Writes F s (State.genInject x a1) := by
  unfold State.genInject
  repeat' first
    | with_reducible assumption
    | intro _ _
    | intro _
    | with_reducible apply Writes.choose
    | with_reducible apply State.laneInject_writes
    | split
    | dsimp only
    | with_reducible apply Writes.upd

theorem State.synceUpdate_writes {F s x} {a1 a2} (h : Writes F s x) (w : [2854] ⊆ F := by exact subTrans (by assumption) (by decide)) :
    Writes F s (State.synceUpdate x a1 a2) := by
  unfold State.synceUpdate
  repeat' first
    | with_reducible assumption
    | exact subTrans w (by decide)
    | intro _ _
    | intro _
    | with_reducible apply State.when_writes
    | with_reducible apply State.setB_writes
    | with_reducible apply State.when_writes
    | with_reducible exact Has.TIME_SY_SQUELCHED (subTrans w (by decide))
    | split
    | dsimp only
    | with_reducible apply Writes.upd

theorem State.cdrLock_writes {F s x} {a1 a2 a3}
    (h : Writes F s x) (w : [516, 517, 2854] ⊆ F := by exact subTrans (by assumption) (by decide)) :
    Writes F s (State.cdrLock x a1 a2 a3) := by
  unfold State.cdrLock
  repeat' first
    | with_reducible assumption
    | exact subTrans w (by decide)
    | intro _ _
    | intro _
    | with_reducible apply Writes.upTo
    | with_reducible apply State.setB_writes
    | with_reducible apply State.synceUpdate_writes
    | with_reducible exact Has.LANE_SIGNAL_DETECT (subTrans w (by decide))
    | with_reducible exact Has.LANE_CDR_LOCK (subTrans w (by decide))

/-! ### Machine/Ingress.lean -/

theorem State.putRx_writes {F s x} {a1 a2} (h : Writes F s x) : Writes F s (State.putRx x a1 a2) := by
  unfold State.putRx
  repeat' first
    | with_reducible assumption
    | intro _ _
    | intro _
    | split
    | dsimp only
    | with_reducible apply Writes.upd

theorem State.rxDead_writes {F s x} {a1} (h : Writes F s x) : Writes F s (State.rxDead x a1) := by
  unfold State.rxDead
  repeat' first
    | with_reducible assumption
    | intro _ _
    | intro _
    | with_reducible apply State.putRx_writes

theorem State.rxBreach_writes {F s x} {a1 a2}
    (h : Writes F s x) (w : [283, 2323, 2325, 2331, 2332, 2333, 2334, 2360, 2362, 2363, 2364, 2365, 2367, 3076, 3083, 3084, 3085, 3104, 3110, 3113, 3114, 3123, 3125, 4907] ⊆ F := by exact subTrans (by assumption) (by decide)) :
    Writes F s (State.rxBreach x a1 a2) := by
  unfold State.rxBreach
  repeat' first
    | with_reducible assumption
    | exact subTrans w (by decide)
    | intro _ _
    | intro _
    | with_reducible apply State.inc_writes
    | with_reducible apply State.fault_writes
    | with_reducible apply State.rxDrop_writes
    | with_reducible apply State.rxDead_writes
    | with_reducible exact Has.CRUC_BREACH (subTrans w (by decide))

theorem State.rxBegin_writes {F s x} {a1 a2}
    (h : Writes F s x) (w : [283, 2316, 2317, 2319, 2323, 2325, 2331, 2332, 2333, 2334, 2360, 2362, 2363, 2364, 2365, 2367, 3076, 3083, 3084, 3085, 3104, 3110, 3113, 3114, 3123, 3125, 4907] ⊆ F := by exact subTrans (by assumption) (by decide)) :
    Writes F s (State.rxBegin x a1 a2) := by
  unfold State.rxBegin
  repeat' first
    | with_reducible assumption
    | exact subTrans w (by decide)
    | intro _ _
    | intro _
    | with_reducible apply Writes.choose
    | with_reducible apply State.putStore_writes
    | with_reducible apply State.setList_writes
    | with_reducible apply State.xoffEval_writes
    | with_reducible apply State.putRx_writes
    | with_reducible apply State.rxBreach_writes
    | refine State.grantRoom_writesE (by with_reducible assumption) ?_
    | split

theorem State.rxSegment_writes {F s x} {a1 a2}
    (h : Writes F s x) (w : [283, 2316, 2320, 2321, 2322, 2323, 2325, 2331, 2332, 2333, 2334, 2360, 2362, 2363, 2364, 2365, 2367, 3076, 3083, 3084, 3085, 3104, 3110, 3113, 3114, 3123, 3125, 4907] ⊆ F := by exact subTrans (by assumption) (by decide)) :
    Writes F s (State.rxSegment x a1 a2) := by
  unfold State.rxSegment
  repeat' first
    | with_reducible assumption
    | exact subTrans w (by decide)
    | intro _ _
    | intro _
    | with_reducible apply Writes.choose
    | with_reducible apply State.tally_writes
    | with_reducible apply State.setList_writes
    | with_reducible apply State.xoffEval_writes
    | with_reducible apply State.fit_writes
    | with_reducible apply State.rxDead_writes
    | with_reducible apply State.rxBreach_writes
    | refine State.chargeSeg_writesE (by with_reducible assumption) ?_
    | refine State.fit_writesE (by with_reducible assumption) ?_
    | split
    | dsimp only

theorem State.rxPortion_writes {F s x} {a1 a2}
    (h : Writes F s x) (w : [283, 2316, 2317, 2319, 2320, 2321, 2322, 2323, 2325, 2331, 2332, 2333, 2334, 2360, 2362, 2363, 2364, 2365, 2367, 3076, 3083, 3084, 3085, 3104, 3110, 3113, 3114, 3123, 3125, 4907] ⊆ F := by exact subTrans (by assumption) (by decide)) :
    Writes F s (State.rxPortion x a1 a2) := by
  unfold State.rxPortion
  repeat' first
    | with_reducible assumption
    | exact subTrans w (by decide)
    | intro _ _
    | intro _
    | with_reducible apply Writes.choose
    | with_reducible apply Writes.foldl
    | with_reducible apply Writes.foldl_snd
    | with_reducible apply Writes.foldl_fst
    | with_reducible apply Writes.foldl_third
    | with_reducible apply State.putRx_writes
    | with_reducible apply State.rxBegin_writes
    | with_reducible apply State.rxSegment_writes

theorem State.settleOne_writes {F s x} {a1 a2} (h : Writes F s x) : Writes F s (State.settleOne x a1 a2) := by
  unfold State.settleOne
  repeat' first
    | with_reducible assumption
    | intro _ _
    | intro _
    | with_reducible apply Writes.choose
    | with_reducible apply State.memSet_writes
    | with_reducible apply State.shaperMove_writes

theorem State.settleAll_writes {F s x} {a1 a2} (h : Writes F s x) : Writes F s (State.settleAll x a1 a2) := by
  unfold State.settleAll
  repeat' first
    | with_reducible assumption
    | intro _ _
    | intro _
    | with_reducible apply Writes.foldl
    | with_reducible apply Writes.foldl_snd
    | with_reducible apply Writes.foldl_fst
    | with_reducible apply Writes.foldl_third
    | with_reducible apply State.putStore_writes
    | with_reducible apply State.settleOne_writes

theorem State.frameDone_writes {F s x} {a1}
    (h : Writes F s x) (w : [283, 1043, 1044, 1045, 2051, 2052, 2053, 2054, 2056, 2057, 2061, 2062, 2063, 2064, 2323, 2324, 2327, 2331, 2332, 2333, 2334, 2360, 2362, 2363, 2364, 2365, 2561, 2562, 2563, 2564, 2566, 2585, 2586, 2590, 3082, 3110, 3113, 3114, 3123, 3125, 4907] ⊆ F := by exact subTrans (by assumption) (by decide)) :
    Writes F s (State.frameDone x a1) := by
  unfold State.frameDone
  repeat' first
    | with_reducible assumption
    | exact subTrans w (by decide)
    | intro _ _
    | intro _
    | with_reducible apply Writes.foldl
    | with_reducible apply Writes.foldl_snd
    | with_reducible apply Writes.foldl_fst
    | with_reducible apply Writes.foldl_third
    | with_reducible apply State.putStore_writes
    | with_reducible apply State.xoffEval_writes
    | with_reducible apply State.deltaPost_writes
    | with_reducible apply State.endAside_writes
    | with_reducible apply State.lateShort_writes
    | with_reducible apply State.resolve_writes
    | with_reducible apply State.settleAll_writes

theorem State.rxControl_writes {F s x} {a1 a2}
    (h : Writes F s x) (w : [820, 821, 824, 826, 828] ⊆ F := by exact subTrans (by assumption) (by decide)) :
    Writes F s (State.rxControl x a1 a2) := by
  unfold State.rxControl
  repeat' first
    | with_reducible assumption
    | exact subTrans w (by decide)
    | intro _ _
    | intro _
    | with_reducible apply State.inc_writes
    | with_reducible apply State.pauseRx_writes
    | with_reducible exact Has.PORT_MAC_CTRL_OTHER (subTrans w (by decide))
    | split

theorem State.rxGood_writes {F s x} {a1}
    (h : Writes F s x) (w : [283, 820, 821, 824, 826, 828, 1043, 1044, 1045, 2051, 2052, 2053, 2054, 2056, 2057, 2061, 2062, 2063, 2064, 2323, 2324, 2327, 2331, 2332, 2333, 2334, 2360, 2362, 2363, 2364, 2365, 2561, 2562, 2563, 2564, 2566, 2585, 2586, 2590, 2878, 3082, 3110, 3113, 3114, 3123, 3125, 4907] ⊆ F := by exact subTrans (by assumption) (by decide)) :
    Writes F s (State.rxGood x a1) := by
  unfold State.rxGood
  repeat' first
    | with_reducible assumption
    | exact subTrans w (by decide)
    | intro _ _
    | intro _
    | with_reducible apply Writes.choose
    | with_reducible apply State.when_writes
    | with_reducible apply State.inc_writes
    | with_reducible apply State.when_writes
    | with_reducible apply State.setList_writes
    | with_reducible apply State.frameDone_writes
    | with_reducible apply State.rxControl_writes
    | with_reducible exact Has.TIME_PTP_RX (subTrans w (by decide))
    | split
    | dsimp only

theorem State.rxBad_writes {F s x} {a1 a2} (f2 : Has F a2)
    (h : Writes F s x) (w : [283, 2323, 2325, 2331, 2332, 2333, 2334, 2360, 2362, 2363, 2364, 2365, 3076, 3083, 3084, 3085, 3104, 3110, 3113, 3114, 3123, 3125, 4907] ⊆ F := by exact subTrans (by assumption) (by decide)) :
    Writes F s (State.rxBad x a1 a2) := by
  unfold State.rxBad
  repeat' first
    | with_reducible assumption
    | exact subTrans w (by decide)
    | intro _ _
    | intro _
    | with_reducible apply Writes.choose
    | with_reducible apply State.inc_writes
    | with_reducible apply State.rxDrop_writes
    | with_reducible apply State.settleAll_writes
    | split

theorem State.rxEnd_writes {F s x} {a1 a2}
    (h : Writes F s x) (w : [283, 816, 817, 818, 819, 820, 821, 824, 826, 828, 1043, 1044, 1045, 2051, 2052, 2053, 2054, 2056, 2057, 2061, 2062, 2063, 2064, 2323, 2324, 2325, 2327, 2331, 2332, 2333, 2334, 2360, 2362, 2363, 2364, 2365, 2561, 2562, 2563, 2564, 2566, 2585, 2586, 2590, 2878, 3076, 3082, 3083, 3084, 3085, 3104, 3110, 3113, 3114, 3123, 3125, 4907] ⊆ F := by exact subTrans (by assumption) (by decide)) :
    Writes F s (State.rxEnd x a1 a2) := by
  unfold State.rxEnd
  repeat' first
    | with_reducible assumption
    | exact subTrans w (by decide)
    | intro _ _
    | intro _
    | with_reducible apply Writes.choose
    | with_reducible apply State.bwCount_writes
    | with_reducible apply State.rxGood_writes
    | with_reducible apply State.rxBad_writes
    | with_reducible exact Has.PORT_FCS_ERR (subTrans w (by decide))
    | with_reducible exact Has.PORT_RUNT (subTrans w (by decide))
    | with_reducible exact Has.PORT_OVERSIZE (subTrans w (by decide))
    | with_reducible exact Has.PORT_RX_ERRORS (subTrans w (by decide))
    | split
    | dsimp only
    | with_reducible apply Writes.upd

theorem State.rxFrame_writes {F s x} {a1 a2 a3}
    (h : Writes F s x) (w : [283, 816, 817, 818, 819, 820, 821, 824, 826, 828, 1043, 1044, 1045, 2051, 2052, 2053, 2054, 2056, 2057, 2061, 2062, 2063, 2064, 2316, 2317, 2319, 2320, 2321, 2322, 2323, 2324, 2325, 2327, 2331, 2332, 2333, 2334, 2360, 2362, 2363, 2364, 2365, 2367, 2561, 2562, 2563, 2564, 2566, 2585, 2586, 2590, 2878, 3076, 3082, 3083, 3084, 3085, 3104, 3110, 3113, 3114, 3123, 3125, 4907] ⊆ F := by exact subTrans (by assumption) (by decide)) :
    Writes F s (State.rxFrame x a1 a2 a3) := by
  unfold State.rxFrame
  repeat' first
    | with_reducible assumption
    | exact subTrans w (by decide)
    | intro _ _
    | intro _
    | with_reducible apply Writes.choose
    | with_reducible apply State.rxPortion_writes
    | with_reducible apply State.rxEnd_writes
    | split

theorem State.listsDrop_writes {F s x} {a1}
    (h : Writes F s x) (w : [2323, 2331, 2332, 2333, 2334, 2360, 2362, 2363, 2364, 2365, 3110, 3113, 3114, 3123, 3125, 4907] ⊆ F := by exact subTrans (by assumption) (by decide)) :
    Writes F s (State.listsDrop x a1) := by
  unfold State.listsDrop
  repeat' first
    | with_reducible assumption
    | exact subTrans w (by decide)
    | intro _ _
    | intro _
    | with_reducible apply Writes.foldl
    | with_reducible apply Writes.foldl_snd
    | with_reducible apply Writes.foldl_fst
    | with_reducible apply Writes.foldl_third
    | with_reducible apply State.uncharge_writes
    | with_reducible apply State.release_writes
    | split
    | dsimp only
    | with_reducible apply Writes.upd

theorem State.holdsDrop_writes {F s x} {a1}
    (h : Writes F s x) (w : [283, 2323, 2331, 2332, 2333, 2334, 2360, 2362, 2363, 2364, 2365, 3110, 3113, 3114, 3123, 3125, 4907] ⊆ F := by exact subTrans (by assumption) (by decide)) :
    Writes F s (State.holdsDrop x a1) := by
  unfold State.holdsDrop
  repeat' first
    | with_reducible assumption
    | exact subTrans w (by decide)
    | intro _ _
    | intro _
    | with_reducible apply Writes.foldl
    | with_reducible apply Writes.foldl_snd
    | with_reducible apply Writes.foldl_fst
    | with_reducible apply Writes.foldl_third
    | with_reducible apply State.instEnd_writes
    | split
    | dsimp only
    | with_reducible apply Writes.upd

theorem State.egressDrop_writes {F s x} {a1}
    (h : Writes F s x) (w : [283, 2323, 2331, 2332, 2333, 2334, 2360, 2362, 2363, 2364, 2365, 3076, 3083, 3084, 3085, 3104, 3110, 3113, 3114, 3123, 3125, 4907] ⊆ F := by exact subTrans (by assumption) (by decide)) :
    Writes F s (State.egressDrop x a1) := by
  unfold State.egressDrop
  repeat' first
    | with_reducible assumption
    | exact subTrans w (by decide)
    | intro _ _
    | intro _
    | with_reducible apply Writes.foldl
    | with_reducible apply Writes.foldl_snd
    | with_reducible apply Writes.foldl_fst
    | with_reducible apply Writes.foldl_third
    | with_reducible apply State.setEgress_writes
    | with_reducible apply State.egDiscard_writes

theorem State.ingressDrop_writes {F s x} {a1}
    (h : Writes F s x) (w : [283, 2323, 2331, 2332, 2333, 2334, 2360, 2362, 2363, 2364, 2365, 3110, 3113, 3114, 3123, 3125, 4907] ⊆ F := by exact subTrans (by assumption) (by decide)) :
    Writes F s (State.ingressDrop x a1) := by
  unfold State.ingressDrop
  repeat' first
    | with_reducible assumption
    | exact subTrans w (by decide)
    | intro _ _
    | intro _
    | with_reducible apply Writes.foldl
    | with_reducible apply Writes.foldl_snd
    | with_reducible apply Writes.foldl_fst
    | with_reducible apply Writes.foldl_third
    | with_reducible apply State.release_writes
    | with_reducible apply State.inflightDec_writes
    | with_reducible apply State.setIngress_writes

theorem State.pipeReset_writes {F s x} {a1}
    (h : Writes F s x) (w : [283, 518, 520, 521, 522, 523, 524, 525, 526, 527, 540, 775, 776, 777, 778, 779, 780, 781, 783, 784, 785, 788, 798, 812, 819, 823, 2323, 2325, 2331, 2332, 2333, 2334, 2360, 2362, 2363, 2364, 2365, 2569, 2584, 2586, 3076, 3083, 3084, 3085, 3104, 3110, 3113, 3114, 3123, 3125, 4120, 4907] ⊆ F := by exact subTrans (by assumption) (by decide)) :
    Writes F s (State.pipeReset x a1) := by
  unfold State.pipeReset
  repeat' first
    | with_reducible assumption
    | exact subTrans w (by decide)
    | intro _ _
    | intro _
    | with_reducible apply Writes.foldl
    | with_reducible apply Writes.foldl_snd
    | with_reducible apply Writes.foldl_fst
    | with_reducible apply Writes.foldl_third
    | with_reducible apply State.xoffEval_writes
    | with_reducible apply State.portReset_writes
    | with_reducible apply State.listsDrop_writes
    | with_reducible apply State.holdsDrop_writes
    | with_reducible apply State.egressDrop_writes
    | with_reducible apply State.ingressDrop_writes
    | split
    | dsimp only
    | with_reducible apply Writes.upd

/-! ### Machine/Gates.lean -/

theorem State.putGate_writes {F s x} {a1 a2} (h : Writes F s x) : Writes F s (State.putGate x a1 a2) := by
  unfold State.putGate
  repeat' first
    | with_reducible assumption
    | intro _ _
    | intro _
    | split
    | dsimp only
    | with_reducible apply Writes.upd

theorem State.configChange_writes {F s x} {a1} (h : Writes F s x) (w : [2574, 2576] ⊆ F := by exact subTrans (by assumption) (by decide)) :
    Writes F s (State.configChange x a1) := by
  unfold State.configChange
  repeat' first
    | with_reducible assumption
    | exact subTrans w (by decide)
    | intro _ _
    | intro _
    | with_reducible apply Writes.choose
    | with_reducible apply State.setB_writes
    | with_reducible apply State.putGate_writes
    | with_reducible exact Has.QSCH_CONFIG_PENDING (subTrans w (by decide))
    | with_reducible exact Has.QSCH_CONFIG_ERR (subTrans w (by decide))

theorem State.gateDisable_writes {F s x} {a1}
    (h : Writes F s x) (w : [2570, 2573, 2574] ⊆ F := by exact subTrans (by assumption) (by decide)) :
    Writes F s (State.gateDisable x a1) := by
  unfold State.gateDisable
  repeat' first
    | with_reducible assumption
    | exact subTrans w (by decide)
    | intro _ _
    | intro _
    | with_reducible apply Writes.choose
    | with_reducible apply State.setB_writes
    | with_reducible exact Has.QSCH_GATE_EN (subTrans w (by decide))
    | with_reducible exact Has.QSCH_OPER_VALID (subTrans w (by decide))
    | with_reducible exact Has.QSCH_CONFIG_PENDING (subTrans w (by decide))
    | split
    | dsimp only
    | with_reducible apply Writes.upd

theorem State.gateRun_writes {F s x} {a1 a2}
    (h : Writes F s x) (w : [2572, 2573, 2574] ⊆ F := by exact subTrans (by assumption) (by decide)) :
    Writes F s (State.gateRun x a1 a2) := by
  unfold State.gateRun
  repeat' first
    | with_reducible assumption
    | exact subTrans w (by decide)
    | intro _ _
    | intro _
    | with_reducible apply State.set_writes
    | with_reducible apply State.setB_writes
    | with_reducible apply State.putGate_writes
    | with_reducible exact Has.QSCH_OPER_LIST (subTrans w (by decide))
    | with_reducible exact Has.QSCH_OPER_VALID (subTrans w (by decide))
    | with_reducible exact Has.QSCH_CONFIG_PENDING (subTrans w (by decide))

theorem State.gateStart_writes {F s x} {a1} (h : Writes F s x) (w : [2572, 2573, 2574] ⊆ F := by exact subTrans (by assumption) (by decide)) :
    Writes F s (State.gateStart x a1) := by
  unfold State.gateStart
  repeat' first
    | with_reducible assumption
    | exact subTrans w (by decide)
    | intro _ _
    | intro _
    | with_reducible apply Writes.choose
    | with_reducible apply State.gateRun_writes
    | split

theorem State.gateEntry_writes {F s x} {a1} (h : Writes F s x) : Writes F s (State.gateEntry x a1) := by
  unfold State.gateEntry
  repeat' first
    | with_reducible assumption
    | intro _ _
    | intro _
    | with_reducible apply State.putGate_writes
    | split

theorem State.gatesRelocate_writes {F s x} (h : Writes F s x) (w : [2572, 2573, 2574] ⊆ F := by exact subTrans (by assumption) (by decide)) :
    Writes F s (State.gatesRelocate x) := by
  unfold State.gatesRelocate
  repeat' first
    | with_reducible assumption
    | exact subTrans w (by decide)
    | intro _ _
    | intro _
    | with_reducible apply Writes.foldl
    | with_reducible apply Writes.foldl_snd
    | with_reducible apply Writes.foldl_fst
    | with_reducible apply Writes.foldl_third
    | with_reducible apply State.gateStart_writes
    | with_reducible apply State.gateEntry_writes

/-! ### Machine/Sched.lean -/

theorem State.putRr_writes {F s x} {a1 a2} (h : Writes F s x) : Writes F s (State.putRr x a1 a2) := by
  unfold State.putRr
  repeat' first
    | with_reducible assumption
    | intro _ _
    | intro _
    | split
    | dsimp only
    | with_reducible apply Writes.upd

theorem State.enterEgress_writes {F s x} {a1 a2 a3 a4}
    (h : Writes F s x) (w : [2058, 2061, 2062, 2063, 2064, 3110, 3113, 3114, 3123, 3125, 4907] ⊆ F := by exact subTrans (by assumption) (by decide)) :
    Writes F s (State.enterEgress x a1 a2 a3 a4) := by
  unfold State.enterEgress
  repeat' first
    | with_reducible assumption
    | exact subTrans w (by decide)
    | intro _ _
    | intro _
    | with_reducible apply State.draw_writes
    | with_reducible apply State.tally_writes
    | with_reducible apply State.stripRecord_writes
    | with_reducible apply State.setEgress_writes

theorem State.subCommit_writes {F s x} {a1 a2 a3 a4} (h : Writes F s x) : Writes F s (State.subCommit x a1 a2 a3 a4) := by
  unfold State.subCommit
  repeat' first
    | with_reducible assumption
    | intro _ _
    | intro _
    | with_reducible apply Writes.choose
    | with_reducible apply Writes.foldl
    | with_reducible apply Writes.foldl_snd
    | with_reducible apply Writes.foldl_fst
    | with_reducible apply Writes.foldl_third
    | with_reducible apply State.memSet_writes
    | with_reducible apply State.putRr_writes
    | split
    | dsimp only
    | with_reducible apply Writes.upd

theorem State.classCommit_writes {F s x} {a1 a2 a3 a4} (h : Writes F s x) :
    Writes F s (State.classCommit x a1 a2 a3 a4) := by
  unfold State.classCommit
  repeat' first
    | with_reducible assumption
    | intro _ _
    | intro _
    | with_reducible apply Writes.choose
    | with_reducible apply Writes.foldl
    | with_reducible apply Writes.foldl_snd
    | with_reducible apply Writes.foldl_fst
    | with_reducible apply Writes.foldl_third
    | with_reducible apply State.memSet_writes
    | with_reducible apply State.putRr_writes

theorem State.settleLater_writes {F s x} {a1 a2 a3 a4} (h : Writes F s x) :
    Writes F s (State.settleLater x a1 a2 a3 a4) := by
  unfold State.settleLater
  repeat' first
    | with_reducible assumption
    | intro _ _
    | intro _
    | with_reducible apply Writes.choose
    | with_reducible apply State.putStore_writes

theorem State.popQueue_writes {F s x} {a1} (h : Writes F s x) : Writes F s (State.popQueue x a1) := by
  unfold State.popQueue
  repeat' first
    | with_reducible assumption
    | intro _ _
    | intro _
    | with_reducible apply State.setQueue_writes

theorem State.readStart_writes {F s x} {a1 a2} (h2 : ∀ y, Writes F s y → Writes F s (a2 y))
    (h : Writes F s x) (w : [283, 2323, 2331, 2332, 2333, 2334] ⊆ F := by exact subTrans (by assumption) (by decide)) :
    Writes F s (State.readStart x a1 a2) := by
  unfold State.readStart
  repeat' first
    | with_reducible assumption
    | exact subTrans w (by decide)
    | intro _ _
    | intro _
    | apply h2
    | with_reducible apply Writes.choose
    | with_reducible apply State.handleErr_writes
    | with_reducible apply State.inflightDec_writes

theorem State.sendInst_writes {F s x} {a1 a2 a3}
    (h : Writes F s x) (w : [283, 2058, 2061, 2062, 2063, 2064, 2323, 2331, 2332, 2333, 2334, 2360, 2362, 2363, 2364, 2365, 2587, 2588, 3110, 3113, 3114, 3123, 3125, 4907] ⊆ F := by exact subTrans (by assumption) (by decide)) :
    Writes F s (State.sendInst x a1 a2 a3) := by
  unfold State.sendInst
  repeat' first
    | with_reducible assumption
    | exact subTrans w (by decide)
    | intro _ _
    | intro _
    | with_reducible apply Writes.choose
    | with_reducible apply State.when_writes
    | with_reducible apply State.inc_writes
    | with_reducible apply State.when_writes
    | with_reducible apply State.instEnd_writes
    | with_reducible apply State.enterEgress_writes
    | with_reducible apply State.readStart_writes
    | with_reducible exact Has.QSCH_LATE_SENT (subTrans w (by decide))
    | with_reducible exact Has.QSCH_LATE_DISCARDS (subTrans w (by decide))

theorem State.stormTake_writes {F s x} {a1 a2 a3}
    (h : Writes F s x) (w : [283, 830, 2323, 2331, 2332, 2333, 2334, 2360, 2362, 2363, 2364, 2365, 3110, 3113, 3114, 3123, 3125, 4907] ⊆ F := by exact subTrans (by assumption) (by decide)) :
    Writes F s (State.stormTake x a1 a2 a3) := by
  unfold State.stormTake
  repeat' first
    | with_reducible assumption
    | exact subTrans w (by decide)
    | intro _ _
    | intro _
    | with_reducible apply Writes.choose
    | with_reducible apply State.inc_writes
    | with_reducible apply State.instEnd_writes
    | with_reducible apply State.popQueue_writes
    | with_reducible exact Has.PORT_STORM_DISCARDS (subTrans w (by decide))
    | split
    | dsimp only
    | with_reducible apply Writes.upd

theorem State.take_writes {F s x} {a1 a2 a3 a4}
    (h : Writes F s x) (w : [283, 2058, 2061, 2062, 2063, 2064, 2323, 2331, 2332, 2333, 2334, 2360, 2362, 2363, 2364, 2365, 2587, 2588, 3110, 3113, 3114, 3123, 3125, 4907] ⊆ F := by exact subTrans (by assumption) (by decide)) :
    Writes F s (State.take x a1 a2 a3 a4) := by
  unfold State.take
  repeat' first
    | with_reducible assumption
    | exact subTrans w (by decide)
    | intro _ _
    | intro _
    | with_reducible apply Writes.choose
    | with_reducible apply State.tally_writes
    | with_reducible apply State.shaperCharge_writes
    | with_reducible apply State.setTxList_writes
    | with_reducible apply State.settleLater_writes
    | with_reducible apply State.popQueue_writes
    | with_reducible apply State.sendInst_writes
    | split
    | dsimp only
    | with_reducible apply Writes.upd

theorem State.gateDrop_writes {F s x p c k n}
    (h : Writes F s x) (w : [283, 2323, 2331, 2332, 2333, 2334, 2360, 2362, 2363, 2364, 2365, 2589, 3110, 3113, 3114, 3123, 3125, 4907] ⊆ F := by exact subTrans (by assumption) (by decide)) :
    Writes F s (State.gateDrop x p c k n) := by
  induction n generalizing x with
  | zero => exact h
  | succ n ih =>
    simp only [State.gateDrop]
    split
    · split
      · exact ih (State.instEnd_writes (State.fault_writes (State.inc_writes Has.QSCH_GATE_OVERSIZE (State.popQueue_writes h))))
      · exact h
    · exact h

theorem State.gateDrops_writes {F s x} {a1}
    (h : Writes F s x) (w : [283, 2323, 2331, 2332, 2333, 2334, 2360, 2362, 2363, 2364, 2365, 2589, 3110, 3113, 3114, 3123, 3125, 4907] ⊆ F := by exact subTrans (by assumption) (by decide)) :
    Writes F s (State.gateDrops x a1) := by
  unfold State.gateDrops
  repeat' first
    | with_reducible assumption
    | exact subTrans w (by decide)
    | intro _ _
    | intro _
    | with_reducible apply Writes.choose
    | with_reducible apply Writes.upTo
    | with_reducible apply State.gateDrop_writes

theorem State.selectFront_writes {F s x} {a1 a2}
    (h : Writes F s x) (w : [283, 830, 2058, 2061, 2062, 2063, 2064, 2323, 2331, 2332, 2333, 2334, 2360, 2362, 2363, 2364, 2365, 2587, 2588, 3110, 3113, 3114, 3123, 3125, 4907] ⊆ F := by exact subTrans (by assumption) (by decide)) :
    Writes F s (State.selectFront x a1 a2) := by
  unfold State.selectFront
  repeat' first
    | with_reducible assumption
    | exact subTrans w (by decide)
    | intro _ _
    | intro _
    | with_reducible apply Writes.choose
    | with_reducible apply State.tally_writes
    | with_reducible apply State.subCommit_writes
    | with_reducible apply State.classCommit_writes
    | with_reducible apply State.stormTake_writes
    | with_reducible apply State.take_writes
    | split

theorem State.selectRecirc_writes {F s x} {a1 a2}
    (h : Writes F s x) (w : [283, 2058, 2061, 2062, 2063, 2064, 2323, 2331, 2332, 2333, 2334, 3110, 3113, 3114, 3123, 3125, 4907] ⊆ F := by exact subTrans (by assumption) (by decide)) :
    Writes F s (State.selectRecirc x a1 a2) := by
  unfold State.selectRecirc
  repeat' first
    | with_reducible assumption
    | exact subTrans w (by decide)
    | intro _ _
    | intro _
    | with_reducible apply State.tally_writes
    | with_reducible apply State.shaperCharge_writes
    | with_reducible apply State.enterEgress_writes
    | with_reducible apply State.classCommit_writes
    | with_reducible apply State.popQueue_writes
    | with_reducible apply State.readStart_writes
    | split
    | dsimp only

theorem State.ringWatch_writes {F s x} {a1} (h : Writes F s x) (w : [3348] ⊆ F := by exact subTrans (by assumption) (by decide)) :
    Writes F s (State.ringWatch x a1) := by
  unfold State.ringWatch
  repeat' first
    | with_reducible assumption
    | exact subTrans w (by decide)
    | intro _ _
    | intro _
    | with_reducible apply Writes.choose
    | with_reducible apply State.setB_writes
    | with_reducible exact Has.HOST_R_STALLED (subTrans w (by decide))
    | split
    | dsimp only
    | with_reducible apply Writes.upd

theorem State.selectCpu_writes {F s x} {a1}
    (h : Writes F s x) (w : [283, 2058, 2061, 2062, 2063, 2064, 2323, 2331, 2332, 2333, 2334, 2360, 2362, 2363, 2364, 2365, 3110, 3113, 3114, 3123, 3125, 3348, 3355, 4907] ⊆ F := by exact subTrans (by assumption) (by decide)) :
    Writes F s (State.selectCpu x a1) := by
  unfold State.selectCpu
  repeat' first
    | with_reducible assumption
    | exact subTrans w (by decide)
    | intro _ _
    | intro _
    | with_reducible apply Writes.choose
    | with_reducible apply Writes.upTo
    | with_reducible apply State.inc_writes
    | with_reducible apply State.tally_writes
    | with_reducible apply State.instEnd_writes
    | with_reducible apply State.setTxList_writes
    | with_reducible apply State.putRr_writes
    | with_reducible apply State.enterEgress_writes
    | with_reducible apply State.popQueue_writes
    | with_reducible apply State.readStart_writes
    | with_reducible apply State.ringWatch_writes
    | with_reducible exact Has.HOST_R_STALLED (subTrans w (by decide))
    | with_reducible exact Has.HOST_R_DISCARDS (subTrans w (by decide))
    | split
    | dsimp only
    | with_reducible apply Writes.upd

theorem State.setArbEg_writes {F s x} {a1 a2} (h : Writes F s x) : Writes F s (State.setArbEg x a1 a2) := by
  unfold State.setArbEg
  repeat' first
    | with_reducible assumption
    | intro _ _
    | intro _
    | split
    | dsimp only
    | with_reducible apply Writes.upd

theorem State.portSelect_writes {F s x} {a1 a2}
    (h : Writes F s x) (w : [283, 830, 2058, 2061, 2062, 2063, 2064, 2323, 2331, 2332, 2333, 2334, 2360, 2362, 2363, 2364, 2365, 2587, 2588, 3110, 3113, 3114, 3123, 3125, 3348, 3355, 4907] ⊆ F := by exact subTrans (by assumption) (by decide)) :
    Writes F s (State.portSelect x a1 a2) := by
  unfold State.portSelect
  repeat' first
    | with_reducible assumption
    | exact subTrans w (by decide)
    | intro _ _
    | intro _
    | with_reducible apply Writes.choose
    | with_reducible apply State.selectFront_writes
    | with_reducible apply State.selectRecirc_writes
    | with_reducible apply State.selectCpu_writes

theorem State.schedSelect_writes {F s x} {a1 a2}
    (h : Writes F s x) (w : [283, 830, 2058, 2061, 2062, 2063, 2064, 2323, 2331, 2332, 2333, 2334, 2360, 2362, 2363, 2364, 2365, 2587, 2588, 2589, 3110, 3113, 3114, 3123, 3125, 3348, 3355, 4907] ⊆ F := by exact subTrans (by assumption) (by decide)) :
    Writes F s (State.schedSelect x a1 a2) := by
  unfold State.schedSelect
  repeat' first
    | with_reducible assumption
    | exact subTrans w (by decide)
    | intro _ _
    | intro _
    | with_reducible apply Writes.choose
    | with_reducible apply State.when_writes
    | with_reducible apply State.when_writes
    | with_reducible apply State.gateDrops_writes
    | with_reducible apply State.setArbEg_writes
    | with_reducible apply State.portSelect_writes

theorem State.launchReached_writes {F s x} {a1} (h : Writes F s x) : Writes F s (State.launchReached x a1) := by
  unfold State.launchReached
  repeat' first
    | with_reducible assumption
    | intro _ _
    | intro _
    | with_reducible apply Writes.choose
    | with_reducible apply State.setQueue_writes
    | split

/-! ### Machine/Egress.lean -/

theorem State.putTx_writes {F s x} {a1 a2} (h : Writes F s x) : Writes F s (State.putTx x a1 a2) := by
  unfold State.putTx
  repeat' first
    | with_reducible assumption
    | intro _ _
    | intro _
    | split
    | dsimp only
    | with_reducible apply Writes.upd

theorem State.delTx_writes {F s x} {a1} (h : Writes F s x) : Writes F s (State.delTx x a1) := by
  unfold State.delTx
  repeat' first
    | with_reducible assumption
    | intro _ _
    | intro _
    | with_reducible apply State.txDue_writes
    | split
    | dsimp only
    | with_reducible apply Writes.upd

theorem State.departStart_writes {F s x} {a1 a2} (h2 : ∀ y, Writes F s y → Writes F s (a2 y))
    (h : Writes F s x) (w : [283, 2323, 2331, 2332, 2333, 2334, 3076, 3083, 3084, 3085, 3104, 3110, 3113, 3114, 3123, 3125, 4907] ⊆ F := by exact subTrans (by assumption) (by decide)) :
    Writes F s (State.departStart x a1 a2) := by
  unfold State.departStart
  repeat' first
    | with_reducible assumption
    | exact subTrans w (by decide)
    | intro _ _
    | intro _
    | apply h2
    | with_reducible apply State.when_writes
    | with_reducible apply State.when_writes
    | with_reducible apply State.dropCard_writes
    | with_reducible apply State.readStart_writes

theorem State.departCards_writes {F s x} {a1 a2}
    (h : Writes F s x) (w : [3076, 3080, 3083, 3084, 3085, 3100, 3101, 3102, 3104, 3110, 3113, 3114, 3123, 3125, 4907] ⊆ F := by exact subTrans (by assumption) (by decide)) :
    Writes F s (State.departCards x a1 a2) := by
  unfold State.departCards
  repeat' first
    | with_reducible assumption
    | exact subTrans w (by decide)
    | intro _ _
    | intro _
    | with_reducible apply State.foldRecord_writes
    | with_reducible apply State.cardAsk_writes

theorem State.txBegin_writes {F s x} {a1 a2 a3}
    (h : Writes F s x) (w : [283, 2059, 2323, 2328, 2329, 2330, 2331, 2332, 2333, 2334, 2343, 2360, 2362, 2363, 2364, 2365, 2565, 2877, 2879, 2880, 2881, 3076, 3077, 3078, 3079, 3080, 3083, 3084, 3085, 3100, 3101, 3102, 3104, 3110, 3113, 3114, 3123, 3125, 3345, 3346, 3349, 3354, 3355, 4907] ⊆ F := by exact subTrans (by assumption) (by decide)) :
    Writes F s (State.txBegin x a1 a2 a3) := by
  unfold State.txBegin
  repeat' first
    | with_reducible assumption
    | exact subTrans w (by decide)
    | intro _ _
    | intro _
    | with_reducible apply Writes.choose
    | with_reducible apply State.inc_writes
    | with_reducible apply State.readFrame_writes
    | with_reducible apply State.departHead_writes
    | with_reducible apply State.egDiscard_writes
    | with_reducible apply State.putTx_writes
    | with_reducible apply State.departCards_writes
    | refine State.readFrame_writesE (by with_reducible assumption) ?_
    | refine State.departHead_writesE (by with_reducible assumption) ?_
    | with_reducible exact Has.MAP_EDIT_OVERSIZE (subTrans w (by decide))

theorem State.txStart_writes {F s x} {a1 a2}
    (h : Writes F s x) (w : [283, 2059, 2323, 2328, 2329, 2330, 2331, 2332, 2333, 2334, 2343, 2360, 2362, 2363, 2364, 2365, 2565, 2877, 2879, 2880, 2881, 3076, 3077, 3078, 3079, 3080, 3083, 3084, 3085, 3100, 3101, 3102, 3104, 3110, 3113, 3114, 3123, 3125, 3345, 3346, 3349, 3354, 3355, 4907] ⊆ F := by exact subTrans (by assumption) (by decide)) :
    Writes F s (State.txStart x a1 a2) := by
  unfold State.txStart
  repeat' first
    | with_reducible assumption
    | exact subTrans w (by decide)
    | intro _ _
    | intro _
    | with_reducible apply Writes.choose
    | with_reducible apply State.setTxList_writes
    | with_reducible apply State.txDue_writes
    | with_reducible apply State.putTx_writes
    | with_reducible apply State.departStart_writes
    | with_reducible apply State.txBegin_writes
    | split
    | dsimp only

theorem State.txBad_writes {F s x} {a1 a2}
    (h : Writes F s x) (w : [283, 2323, 2331, 2332, 2333, 2334, 2360, 2362, 2363, 2364, 2365, 3076, 3083, 3084, 3085, 3104, 3110, 3113, 3114, 3123, 3125, 4907] ⊆ F := by exact subTrans (by assumption) (by decide)) :
    Writes F s (State.txBad x a1 a2) := by
  unfold State.txBad
  repeat' first
    | with_reducible assumption
    | exact subTrans w (by decide)
    | intro _ _
    | intro _
    | with_reducible apply State.instEnd_writes
    | with_reducible apply State.txStomp_writes
    | with_reducible apply State.delTx_writes
    | split

theorem State.txUnderrun_writes {F s x} {a1}
    (h : Writes F s x) (w : [283, 822, 2323, 2331, 2332, 2333, 2334, 2360, 2362, 2363, 2364, 2365, 3076, 3083, 3084, 3085, 3104, 3110, 3113, 3114, 3123, 3125, 4907] ⊆ F := by exact subTrans (by assumption) (by decide)) :
    Writes F s (State.txUnderrun x a1) := by
  unfold State.txUnderrun
  repeat' first
    | with_reducible assumption
    | exact subTrans w (by decide)
    | intro _ _
    | intro _
    | with_reducible apply State.inc_writes
    | with_reducible apply State.fault_writes
    | with_reducible apply State.txBad_writes
    | with_reducible exact Has.PORT_TX_UNDERRUN (subTrans w (by decide))
    | split

theorem State.txSent_writes {F s x} {a1 a2} (h : Writes F s x) : Writes F s (State.txSent x a1 a2) := by
  unfold State.txSent
  repeat' first
    | with_reducible assumption
    | intro _ _
    | intro _
    | with_reducible apply State.emit_writes
    | with_reducible apply State.bwCount_writes
    | with_reducible apply State.delTx_writes

theorem State.txEnd_writes {F s x} {a1 a2 a3 a4}
    (h : Writes F s x) (w : [283, 2059, 2060, 2323, 2328, 2329, 2330, 2331, 2332, 2333, 2334, 2343, 2360, 2362, 2363, 2364, 2365, 2565, 3076, 3080, 3083, 3084, 3085, 3100, 3101, 3102, 3104, 3110, 3113, 3114, 3123, 3125, 4907] ⊆ F := by exact subTrans (by assumption) (by decide)) :
    Writes F s (State.txEnd x a1 a2 a3 a4) := by
  unfold State.txEnd
  repeat' first
    | with_reducible assumption
    | exact subTrans w (by decide)
    | intro _ _
    | intro _
    | with_reducible apply Writes.choose
    | with_reducible apply State.when_writes
    | with_reducible apply State.inc_writes
    | with_reducible apply State.when_writes
    | with_reducible apply State.instEnd_writes
    | with_reducible apply State.readFrame_writes
    | with_reducible apply State.ecnLate_writes
    | with_reducible apply State.departCards_writes
    | with_reducible apply State.txBad_writes
    | with_reducible apply State.txSent_writes
    | refine State.readFrame_writesE (by with_reducible assumption) ?_
    | refine State.ecnLate_writesE (by with_reducible assumption) ?_
    | with_reducible exact Has.MAP_EDIT_OVERSIZE (subTrans w (by decide))
    | with_reducible exact Has.MAP_EDIT_PAD (subTrans w (by decide))

theorem State.txComplete_writes {F s x} {a1 a2}
    (h : Writes F s x) (w : [283, 2059, 2060, 2323, 2328, 2329, 2330, 2331, 2332, 2333, 2334, 2343, 2360, 2362, 2363, 2364, 2365, 2565, 3076, 3080, 3083, 3084, 3085, 3100, 3101, 3102, 3103, 3104, 3110, 3113, 3114, 3123, 3125, 4907] ⊆ F := by exact subTrans (by assumption) (by decide)) :
    Writes F s (State.txComplete x a1 a2) := by
  unfold State.txComplete
  repeat' first
    | with_reducible assumption
    | exact subTrans w (by decide)
    | intro _ _
    | intro _
    | with_reducible apply Writes.choose
    | with_reducible apply State.inc_writes
    | with_reducible apply State.txSent_writes
    | with_reducible apply State.txEnd_writes
    | with_reducible exact Has.TELE_COL_SENT (subTrans w (by decide))
    | split

theorem State.rxEntries_writes {F s x r k f d n}
    (h : Writes F s x) (w : [3345, 3346, 3349, 3354] ⊆ F := by exact subTrans (by assumption) (by decide)) :
    Writes F s (State.rxEntries x r k f d n) := by
  induction n generalizing x k d with
  | zero => exact h
  | succ n ih => exact ih (State.ringComplete_writes (State.memStore_writes (State.memStore_writes h)))

theorem State.rxDeliver_writes {F s x} {a1 a2 a3}
    (h : Writes F s x) (w : [3345, 3346, 3348, 3349, 3354] ⊆ F := by exact subTrans (by assumption) (by decide)) :
    Writes F s (State.rxDeliver x a1 a2 a3) := by
  unfold State.rxDeliver
  repeat' first
    | with_reducible assumption
    | exact subTrans w (by decide)
    | intro _ _
    | intro _
    | with_reducible apply State.ringWatch_writes
    | with_reducible apply State.rxEntries_writes

theorem State.rxInst_writes {F s x} {a1 a2 a3}
    (h : Writes F s x) (w : [283, 2059, 2060, 2323, 2328, 2329, 2330, 2331, 2332, 2333, 2334, 2343, 2360, 2362, 2363, 2364, 2365, 2565, 2877, 2879, 2880, 2881, 3076, 3077, 3078, 3079, 3080, 3083, 3084, 3085, 3100, 3101, 3102, 3104, 3110, 3113, 3114, 3123, 3125, 3345, 3346, 3348, 3349, 3354, 3355, 4907] ⊆ F := by exact subTrans (by assumption) (by decide)) :
    Writes F s (State.rxInst x a1 a2 a3) := by
  unfold State.rxInst
  repeat' first
    | with_reducible assumption
    | exact subTrans w (by decide)
    | intro _ _
    | intro _
    | with_reducible apply Writes.choose
    | with_reducible apply State.when_writes
    | with_reducible apply State.inc_writes
    | with_reducible apply State.when_writes
    | with_reducible apply State.instEnd_writes
    | with_reducible apply State.readFrame_writes
    | with_reducible apply State.departHead_writes
    | with_reducible apply State.egDiscard_writes
    | with_reducible apply State.take_writes
    | with_reducible apply State.departCards_writes
    | with_reducible apply State.rxDeliver_writes
    | refine State.readFrame_writesE (by with_reducible assumption) ?_
    | refine State.departHead_writesE (by with_reducible assumption) ?_
    | with_reducible exact Has.MAP_EDIT_OVERSIZE (subTrans w (by decide))
    | with_reducible exact Has.MAP_EDIT_PAD (subTrans w (by decide))

theorem State.rxRingWrite_writes {F s x} {a1 a2}
    (h : Writes F s x) (w : [283, 2059, 2060, 2323, 2328, 2329, 2330, 2331, 2332, 2333, 2334, 2343, 2360, 2362, 2363, 2364, 2365, 2565, 2877, 2879, 2880, 2881, 3076, 3077, 3078, 3079, 3080, 3083, 3084, 3085, 3100, 3101, 3102, 3103, 3104, 3110, 3113, 3114, 3123, 3125, 3345, 3346, 3348, 3349, 3354, 3355, 4907] ⊆ F := by exact subTrans (by assumption) (by decide)) :
    Writes F s (State.rxRingWrite x a1 a2) := by
  unfold State.rxRingWrite
  repeat' first
    | with_reducible assumption
    | exact subTrans w (by decide)
    | intro _ _
    | intro _
    | with_reducible apply Writes.choose
    | with_reducible apply State.inc_writes
    | with_reducible apply State.draw_writes
    | with_reducible apply State.setTxList_writes
    | with_reducible apply State.take_writes
    | with_reducible apply State.departStart_writes
    | with_reducible apply State.rxDeliver_writes
    | with_reducible apply State.rxInst_writes
    | with_reducible exact Has.TELE_COL_SENT (subTrans w (by decide))
    | split
    | dsimp only

theorem State.rxStall_writes {F s x} {a1} (h : Writes F s x) (w : [3348, 3351] ⊆ F := by exact subTrans (by assumption) (by decide)) :
    Writes F s (State.rxStall x a1) := by
  unfold State.rxStall
  repeat' first
    | with_reducible assumption
    | exact subTrans w (by decide)
    | intro _ _
    | intro _
    | with_reducible apply Writes.choose
    | with_reducible apply State.setB_writes
    | with_reducible apply State.fault_writes
    | with_reducible apply State.ringWatch_writes
    | with_reducible exact Has.HOST_R_STALLED (subTrans w (by decide))
    | with_reducible exact Has.HOST_R_STALL_EVT (subTrans w (by decide))
    | split
    | dsimp only

theorem State.txBack_writes {F s x n st l}
    (h : Writes F s x) (w : [3345, 3346, 3349, 3354] ⊆ F := by exact subTrans (by assumption) (by decide)) :
    Writes F s (State.txBack x n st l) := by
  induction l generalizing x with
  | nil => exact h
  | cons b l ih => exact ih (State.ringComplete_writes h)

theorem State.txStore_writes {F s x} {a1 a2 a3}
    (h : Writes F s x) (w : [283, 2316, 2317, 2318, 2319, 2320, 2321, 2322, 2323, 2325, 2331, 2332, 2333, 2334, 2360, 2362, 2363, 2364, 2365, 3076, 3083, 3084, 3085, 3104, 3110, 3113, 3114, 3123, 3125, 4907] ⊆ F := by exact subTrans (by assumption) (by decide)) :
    Writes F s (State.txStore x a1 a2 a3).2 := by
  unfold State.txStore
  repeat' first
    | with_reducible assumption
    | exact subTrans w (by decide)
    | intro _ _
    | intro _
    | with_reducible apply State.tally_writes
    | with_reducible apply State.xoffEval_writes
    | with_reducible apply State.refuse_writes
    | with_reducible apply State.fit_writes
    | refine State.chargeSegs_writesE (by with_reducible assumption) ?_
    | refine State.fit_writesE (by with_reducible assumption) ?_
    | refine State.grantRoom_writesE (by with_reducible assumption) ?_
    | split
    | dsimp only

theorem State.txStore_writesE {F s x} {a1 a2 a3} {r0 t} (e : State.txStore x a1 a2 a3 = (r0, t))
    (h : Writes F s x) (w : [283, 2316, 2317, 2318, 2319, 2320, 2321, 2322, 2323, 2325, 2331, 2332, 2333, 2334, 2360, 2362, 2363, 2364, 2365, 3076, 3083, 3084, 3085, 3104, 3110, 3113, 3114, 3123, 3125, 4907] ⊆ F := by exact subTrans (by assumption) (by decide)) :
    Writes F s t := by
  have k := State.txStore_writes (F := F) (s := s) (x := x) (a1 := a1) (a2 := a2) (a3 := a3) h
  rwa [e] at k

theorem State.txSend_writes {F s x} {a1 a2 a3} (h : Writes F s x) : Writes F s (State.txSend x a1 a2 a3) := by
  unfold State.txSend
  repeat' first
    | with_reducible assumption
    | intro _ _
    | intro _
    | with_reducible apply Writes.choose
    | with_reducible apply State.setCpuList_writes

theorem State.txTake_writes {F s x} {a1}
    (h : Writes F s x) (w : [283, 2316, 2317, 2318, 2319, 2320, 2321, 2322, 2323, 2325, 2331, 2332, 2333, 2334, 2360, 2362, 2363, 2364, 2365, 3076, 3083, 3084, 3085, 3104, 3110, 3113, 3114, 3123, 3125, 3345, 3346, 3349, 3354, 3355, 4907] ⊆ F := by exact subTrans (by assumption) (by decide)) :
    Writes F s (State.txTake x a1) := by
  unfold State.txTake
  repeat' first
    | with_reducible assumption
    | exact subTrans w (by decide)
    | intro _ _
    | intro _
    | with_reducible apply Writes.choose
    | with_reducible apply State.inc_writes
    | with_reducible apply State.txBack_writes
    | with_reducible apply State.txStore_writes
    | with_reducible apply State.txSend_writes
    | refine State.txStore_writesE (by with_reducible assumption) ?_
    | with_reducible exact Has.HOST_R_DISCARDS (subTrans w (by decide))
    | split

theorem State.ringExamine_writes {F s x} {a1}
    (h : Writes F s x) (w : [283, 2316, 2317, 2318, 2319, 2320, 2321, 2322, 2323, 2325, 2331, 2332, 2333, 2334, 2360, 2362, 2363, 2364, 2365, 3076, 3083, 3084, 3085, 3104, 3110, 3113, 3114, 3123, 3125, 3345, 3346, 3348, 3349, 3354, 3355, 4907] ⊆ F := by exact subTrans (by assumption) (by decide)) :
    Writes F s (State.ringExamine x a1) := by
  unfold State.ringExamine
  repeat' first
    | with_reducible assumption
    | exact subTrans w (by decide)
    | intro _ _
    | intro _
    | with_reducible apply Writes.choose
    | with_reducible apply State.ringWatch_writes
    | with_reducible apply State.txTake_writes

theorem State.ringsPrompt_writes {F s x} {a1 a2}
    (h : Writes F s x) (w : [283, 2316, 2317, 2318, 2319, 2320, 2321, 2322, 2323, 2325, 2331, 2332, 2333, 2334, 2360, 2362, 2363, 2364, 2365, 3076, 3083, 3084, 3085, 3104, 3110, 3113, 3114, 3123, 3125, 3345, 3346, 3348, 3349, 3354, 3355, 4907] ⊆ F := by exact subTrans (by assumption) (by decide)) :
    Writes F s (State.ringsPrompt x a1 a2) := by
  unfold State.ringsPrompt
  repeat' first
    | with_reducible assumption
    | exact subTrans w (by decide)
    | intro _ _
    | intro _
    | with_reducible apply Writes.choose
    | with_reducible apply Writes.upTo
    | with_reducible apply State.ringExamine_writes

theorem State.bezelWrite_writes {F s x} {a1 a2 a3}
    (h : Writes F s x) (w : [283, 2316, 2317, 2318, 2319, 2320, 2321, 2322, 2323, 2325, 2331, 2332, 2333, 2334, 2360, 2362, 2363, 2364, 2365, 3076, 3083, 3084, 3085, 3104, 3110, 3113, 3114, 3123, 3125, 3345, 3346, 3348, 3349, 3354, 3355, 4907] ⊆ F := by exact subTrans (by assumption) (by decide)) :
    Writes F s (State.bezelWrite x a1 a2 a3) := by
  unfold State.bezelWrite
  repeat' first
    | with_reducible assumption
    | exact subTrans w (by decide)
    | intro _ _
    | intro _
    | with_reducible apply Writes.choose
    | with_reducible apply State.bezelStore_writes
    | with_reducible apply State.ringsPrompt_writes

theorem State.poisoned_writes {F s x} {a1} (h : Writes F s x) (w : [3334, 4907] ⊆ F := by exact subTrans (by assumption) (by decide)) :
    Writes F s (State.poisoned x a1) := by
  unfold State.poisoned
  repeat' first
    | with_reducible assumption
    | exact subTrans w (by decide)
    | intro _ _
    | intro _
    | with_reducible apply Writes.choose
    | with_reducible apply State.hostEvent_writes
    | with_reducible apply State.fault_writes
    | with_reducible exact Has.HOST_POISONED (subTrans w (by decide))

end Sys2Proof.Machine
end

