-- ==== Sys2Proof/Laws/WritesHost.lean ====
section
/-!
SUPPORT. What the operations of DMA and the image write: one lemma for each.
-/
namespace Sys2Proof.Machine
set_option Elab.async false

/-! ### Machine/DeviceSpace.lean -/

theorem State.shaperBefore_writes {F s x} {a1} (h : Writes F s x) : Writes F s (State.shaperBefore x a1) := by
  unfold State.shaperBefore
  repeat' first
    | with_reducible assumption
    | intro _ _
    | intro _
    | with_reducible apply Writes.choose
    | with_reducible apply State.putBucket_writes
    | split
    | dsimp only
    | with_reducible apply Writes.upd

theorem State.policerBefore_writes {F s x} {a1} (h : Writes F s x) : Writes F s (State.policerBefore x a1) := by
  unfold State.policerBefore
  repeat' first
    | with_reducible assumption
    | intro _ _
    | intro _
    | with_reducible apply Writes.choose
    | with_reducible apply State.putBucket_writes
    | split
    | dsimp only
    | with_reducible apply Writes.upd

theorem State.pairDiscard_writes {F s x} {a1} (h : Writes F s x) : Writes F s (State.pairDiscard x a1) := by
  unfold State.pairDiscard
  repeat' first
    | with_reducible assumption
    | intro _ _
    | intro _
    | with_reducible apply Writes.upTo
    | with_reducible apply State.setDeltas_writes

theorem State.devCommit_writes {F s x} {a1 a2}
    (h : Writes F s x) (w : [3110, 3113, 3114, 3123, 3125, 4907] ⊆ F := by exact subTrans (by assumption) (by decide)) :
    Writes F s (State.devCommit x a1 a2) := by
  unfold State.devCommit
  repeat' first
    | with_reducible assumption
    | exact subTrans w (by decide)
    | intro _ _
    | intro _
    | with_reducible apply Writes.choose
    | with_reducible apply Writes.foldl
    | with_reducible apply Writes.foldl_snd
    | with_reducible apply Writes.foldl_fst
    | with_reducible apply Writes.foldl_third
    | with_reducible apply State.memStore_writes
    | with_reducible apply State.aseOp_writes
    | with_reducible apply State.take_writes
    | with_reducible apply State.shaperBefore_writes
    | with_reducible apply State.policerBefore_writes
    | with_reducible apply State.pairDiscard_writes
    | split

theorem State.devDeliver_writesE {F s x p a b t q} (e : State.devDeliver x p a b = .inl (t, q)) (h : Writes F s x) (w : [3110, 3113, 3114, 3123, 3125, 4907] ⊆ F := by exact subTrans (by assumption) (by decide)) :
    Writes F s t := by
  unfold State.devDeliver at e
  dsimp only at e
  split at e
  · cases e
  · split at e
    · cases e
    · split at e <;> cases e
      · exact State.devCommit_writes h
      · exact h

/-! ### Machine/Dma.lean -/

theorem State.dmaPut_writes {F s x} {a1 a2} (h : Writes F s x) : Writes F s (State.dmaPut x a1 a2) := by
  unfold State.dmaPut
  repeat' first
    | with_reducible assumption
    | intro _ _
    | intro _
    | split
    | dsimp only
    | with_reducible apply Writes.upd

theorem State.dmaMessage_writes {F s x} {a1} (h : Writes F s x) : Writes F s (State.dmaMessage x a1) := by
  unfold State.dmaMessage
  repeat' first
    | with_reducible assumption
    | intro _ _
    | intro _
    | with_reducible apply State.msixSend_writes

theorem State.dmaHalt_writes {F s x} {a1 a2 a3}
    (h : Writes F s x) (w : [3368, 3369, 3370, 3376] ⊆ F := by exact subTrans (by assumption) (by decide)) :
    Writes F s (State.dmaHalt x a1 a2 a3) := by
  unfold State.dmaHalt
  repeat' first
    | with_reducible assumption
    | exact subTrans w (by decide)
    | intro _ _
    | intro _
    | with_reducible apply State.set_writes
    | with_reducible apply State.setB_writes
    | with_reducible apply State.dmaPut_writes
    | with_reducible apply State.dmaMessage_writes
    | with_reducible exact Has.HOST_D_STATE (subTrans w (by decide))
    | with_reducible exact Has.HOST_D_RESULT (subTrans w (by decide))
    | with_reducible exact Has.HOST_D_DONE (subTrans w (by decide))
    | with_reducible exact Has.HOST_D_RESIDUE (subTrans w (by decide))

theorem State.dmaStart_writes {F s x} {a1}
    (h : Writes F s x) (w : [3368, 3369, 3370, 3372, 3376] ⊆ F := by exact subTrans (by assumption) (by decide)) :
    Writes F s (State.dmaStart x a1) := by
  unfold State.dmaStart
  repeat' first
    | with_reducible assumption
    | exact subTrans w (by decide)
    | intro _ _
    | intro _
    | with_reducible apply State.set_writes
    | with_reducible apply State.setB_writes
    | with_reducible apply State.dmaPut_writes
    | with_reducible apply State.dmaHalt_writes
    | with_reducible exact Has.HOST_D_STATE (subTrans w (by decide))
    | with_reducible exact Has.HOST_D_OVERLAP_DESC (subTrans w (by decide))
    | split

theorem State.dmaHandover_writes {F s x} {a1}
    (h : Writes F s x) (w : [3356, 3357, 3358, 3359, 3360, 3361, 3362, 3363, 3368, 3369, 3370, 3372, 3375, 3376, 3382, 3383] ⊆ F := by exact subTrans (by assumption) (by decide)) :
    Writes F s (State.dmaHandover x a1) := by
  unfold State.dmaHandover
  repeat' first
    | with_reducible assumption
    | exact subTrans w (by decide)
    | intro _ _
    | intro _
    | with_reducible apply Writes.choose
    | with_reducible apply State.set_writes
    | with_reducible apply State.setB_writes
    | with_reducible apply State.inc_writes
    | with_reducible apply State.dmaStart_writes
    | with_reducible exact Has.HOST_D_SRC (subTrans w (by decide))
    | with_reducible exact Has.HOST_D_DST (subTrans w (by decide))
    | with_reducible exact Has.HOST_D_COUNT (subTrans w (by decide))
    | with_reducible exact Has.HOST_D_SRC_W (subTrans w (by decide))
    | with_reducible exact Has.HOST_D_DST_W (subTrans w (by decide))
    | with_reducible exact Has.HOST_D_NARROW_OK (subTrans w (by decide))
    | with_reducible exact Has.HOST_D_HALF_IE (subTrans w (by decide))
    | with_reducible exact Has.HOST_D_FULL_IE (subTrans w (by decide))
    | with_reducible exact Has.HOST_D_TAKEN (subTrans w (by decide))
    | with_reducible exact Has.HOST_D_SHADOW_VALID (subTrans w (by decide))
    | with_reducible exact Has.HOST_D_HANDOVERS (subTrans w (by decide))

theorem State.dmaGo_writes {F s x} {a1}
    (h : Writes F s x) (w : [3368, 3369, 3370, 3372, 3374, 3376] ⊆ F := by exact subTrans (by assumption) (by decide)) :
    Writes F s (State.dmaGo x a1) := by
  unfold State.dmaGo
  repeat' first
    | with_reducible assumption
    | exact subTrans w (by decide)
    | intro _ _
    | intro _
    | with_reducible apply Writes.choose
    | with_reducible apply State.setB_writes
    | with_reducible apply State.dmaStart_writes
    | with_reducible exact Has.HOST_D_STATE (subTrans w (by decide))
    | with_reducible exact Has.HOST_D_BUSY_WRITE (subTrans w (by decide))

theorem State.dmaAbort_writes {F s x} {a1}
    (h : Writes F s x) (w : [3368, 3369, 3370, 3376] ⊆ F := by exact subTrans (by assumption) (by decide)) :
    Writes F s (State.dmaAbort x a1) := by
  unfold State.dmaAbort
  repeat' first
    | with_reducible assumption
    | exact subTrans w (by decide)
    | intro _ _
    | intro _
    | with_reducible apply Writes.choose
    | with_reducible apply State.dmaHalt_writes

theorem State.dmaClearHalt_writes {F s x} {a1}
    (h : Writes F s x) (w : [3356, 3357, 3358, 3359, 3360, 3361, 3362, 3363, 3368, 3369, 3370, 3372, 3375, 3376, 3382, 3383] ⊆ F := by exact subTrans (by assumption) (by decide)) :
    Writes F s (State.dmaClearHalt x a1) := by
  unfold State.dmaClearHalt
  repeat' first
    | with_reducible assumption
    | exact subTrans w (by decide)
    | intro _ _
    | intro _
    | with_reducible apply Writes.choose
    | with_reducible apply State.set_writes
    | with_reducible apply State.dmaHandover_writes
    | with_reducible exact Has.HOST_D_STATE (subTrans w (by decide))

theorem State.shadowArm_writes {F s x} {a1}
    (h : Writes F s x) (w : [3356, 3357, 3358, 3359, 3360, 3361, 3362, 3363, 3368, 3369, 3370, 3372, 3375, 3376, 3382, 3383] ⊆ F := by exact subTrans (by assumption) (by decide)) :
    Writes F s (State.shadowArm x a1) := by
  unfold State.shadowArm
  repeat' first
    | with_reducible assumption
    | exact subTrans w (by decide)
    | intro _ _
    | intro _
    | with_reducible apply Writes.choose
    | with_reducible apply State.setB_writes
    | with_reducible apply State.dmaHandover_writes
    | with_reducible exact Has.HOST_D_STATE (subTrans w (by decide))
    | with_reducible exact Has.HOST_D_SHADOW_VALID (subTrans w (by decide))

theorem shadowWord_writes {F s x} {a1 a2 a3}
    (h : Writes F s x) (w : [3373, 3378, 3379, 3380, 3381] ⊆ F := by exact subTrans (by assumption) (by decide)) :
    Writes F s (shadowWord x a1 a2 a3) := by
  unfold shadowWord
  repeat' first
    | with_reducible assumption
    | exact subTrans w (by decide)
    | intro _ _
    | intro _
    | with_reducible apply Writes.choose
    | with_reducible apply State.set_writes
    | with_reducible apply State.setB_writes
    | with_reducible exact Has.HOST_D_WRITE_REJECTED (subTrans w (by decide))
    | with_reducible exact Has.HOST_D_SH_SRC (subTrans w (by decide))
    | with_reducible exact Has.HOST_D_SH_DST (subTrans w (by decide))
    | with_reducible exact Has.HOST_D_SH_COUNT (subTrans w (by decide))
    | with_reducible exact Has.HOST_D_SH_CFG (subTrans w (by decide))
    | split
    | dsimp only
    | with_reducible apply Writes.upd

theorem State.dmaFlush_writes {F s x} {a1} (h : Writes F s x) : Writes F s (State.dmaFlush x a1) := by
  unfold State.dmaFlush
  repeat' first
    | with_reducible assumption
    | intro _ _
    | intro _
    | with_reducible apply Writes.foldl
    | with_reducible apply Writes.foldl_snd
    | with_reducible apply Writes.foldl_fst
    | with_reducible apply Writes.foldl_third
    | with_reducible apply State.emit_writes
    | with_reducible apply State.dmaPut_writes
    | split

theorem State.dmaGather_writes {F s x} {a1 a2 a3} (h : Writes F s x) : Writes F s (State.dmaGather x a1 a2 a3) := by
  unfold State.dmaGather
  repeat' first
    | with_reducible assumption
    | intro _ _
    | intro _
    | with_reducible apply Writes.choose
    | with_reducible apply State.dmaPut_writes
    | with_reducible apply State.dmaFlush_writes
    | split

theorem State.dmaUnits_writes {F s x c p l}
    (h : Writes F s x) (w : [3110, 3113, 3114, 3123, 3125, 4907] ⊆ F := by exact subTrans (by assumption) (by decide)) :
    Writes F s (State.dmaUnits x c p l).1 := by
  induction l generalizing x p with
  | nil => exact h
  | cons b l ih =>
    simp only [State.dmaUnits]
    split
    · exact ih (State.dmaPut_writes (State.devDeliver_writesE (by assumption) h))
    · exact h

theorem State.dmaDeliver_writes {F s x} {a1 a2 a3}
    (h : Writes F s x) (w : [3110, 3113, 3114, 3123, 3125, 4907] ⊆ F := by exact subTrans (by assumption) (by decide)) :
    Writes F s (State.dmaDeliver x a1 a2 a3).1 := by
  unfold State.dmaDeliver
  repeat' first
    | with_reducible assumption
    | exact subTrans w (by decide)
    | intro _ _
    | intro _
    | with_reducible apply Writes.choose
    | with_reducible apply State.dmaGather_writes
    | with_reducible apply State.dmaUnits_writes
    | split
    | dsimp only

theorem State.dmaDeliver_writesE {F s x} {a1 a2 a3} {t r1} (e : State.dmaDeliver x a1 a2 a3 = (t, r1))
    (h : Writes F s x) (w : [3110, 3113, 3114, 3123, 3125, 4907] ⊆ F := by exact subTrans (by assumption) (by decide)) :
    Writes F s t := by
  have k := State.dmaDeliver_writes (F := F) (s := s) (x := x) (a1 := a1) (a2 := a2) (a3 := a3) h
  rwa [e] at k

theorem State.dmaHalf_writes {F s x} {a1} (h : Writes F s x) (w : [3371] ⊆ F := by exact subTrans (by assumption) (by decide)) :
    Writes F s (State.dmaHalf x a1) := by
  unfold State.dmaHalf
  repeat' first
    | with_reducible assumption
    | exact subTrans w (by decide)
    | intro _ _
    | intro _
    | with_reducible apply Writes.choose
    | with_reducible apply State.setB_writes
    | with_reducible apply State.dmaMessage_writes
    | with_reducible apply State.dmaFlush_writes
    | with_reducible exact Has.HOST_D_HALF (subTrans w (by decide))

theorem State.dmaMove_writes {F s x c i d n}
    (h : Writes F s x) (w : [3110, 3113, 3114, 3123, 3125, 3368, 3369, 3370, 3371, 3376, 3377, 4907] ⊆ F := by exact subTrans (by assumption) (by decide)) :
    Writes F s (State.dmaMove x c i d n) := by
  induction n generalizing x i with
  | zero => exact h
  | succ n ih =>
    simp only [State.dmaMove]
    split
    · exact h
    · split
      · exact State.dmaHalt_writes (State.set_writes Has.HOST_D_FAIL_ADDR (State.dmaFlush_writes h))
      · split
        · exact State.dmaHalt_writes (State.set_writes Has.HOST_D_FAIL_ADDR (State.dmaDeliver_writesE (by assumption) h))
        · exact ih (State.dmaHalf_writes (State.dmaPut_writes (State.dmaDeliver_writesE (by assumption) h)))

theorem State.dmaPrompt_writes {F s x} {a1}
    (h : Writes F s x) (w : [283, 2316, 2317, 2318, 2319, 2320, 2321, 2322, 2323, 2325, 2331, 2332, 2333, 2334, 2360, 2362, 2363, 2364, 2365, 3076, 3083, 3084, 3085, 3104, 3110, 3113, 3114, 3123, 3125, 3345, 3346, 3348, 3349, 3354, 3355, 4907] ⊆ F := by exact subTrans (by assumption) (by decide)) :
    Writes F s (State.dmaPrompt x a1) := by
  unfold State.dmaPrompt
  repeat' first
    | with_reducible assumption
    | exact subTrans w (by decide)
    | intro _ _
    | intro _
    | with_reducible apply Writes.choose
    | with_reducible apply State.ringsPrompt_writes

theorem State.dmaBurst_writes {F s x} {a1 a2}
    (h : Writes F s x) (w : [283, 2316, 2317, 2318, 2319, 2320, 2321, 2322, 2323, 2325, 2331, 2332, 2333, 2334, 2360, 2362, 2363, 2364, 2365, 3076, 3083, 3084, 3085, 3104, 3110, 3113, 3114, 3123, 3125, 3345, 3346, 3348, 3349, 3354, 3355, 3368, 3369, 3370, 3371, 3376, 3377, 4907] ⊆ F := by exact subTrans (by assumption) (by decide)) :
    Writes F s (State.dmaBurst x a1 a2) := by
  unfold State.dmaBurst
  repeat' first
    | with_reducible assumption
    | exact subTrans w (by decide)
    | intro _ _
    | intro _
    | with_reducible apply Writes.choose
    | with_reducible apply State.dmaPut_writes
    | with_reducible apply State.dmaHalt_writes
    | with_reducible apply State.dmaFlush_writes
    | with_reducible apply State.dmaMove_writes
    | with_reducible apply State.dmaPrompt_writes
    | with_reducible exact Has.HOST_D_STATE (subTrans w (by decide))
    | split
    | dsimp only
    | with_reducible apply Writes.upd

theorem State.dmaReadback_writes {F s x} {a1 a2}
    (h : Writes F s x) (w : [3356, 3357, 3358, 3359, 3360, 3361, 3362, 3363, 3368, 3369, 3370, 3372, 3375, 3376, 3382, 3383] ⊆ F := by exact subTrans (by assumption) (by decide)) :
    Writes F s (State.dmaReadback x a1 a2) := by
  unfold State.dmaReadback
  repeat' first
    | with_reducible assumption
    | exact subTrans w (by decide)
    | intro _ _
    | intro _
    | with_reducible apply Writes.choose
    | with_reducible apply State.when_writes
    | with_reducible apply State.set_writes
    | with_reducible apply State.setB_writes
    | with_reducible apply State.when_writes
    | with_reducible apply State.dmaPut_writes
    | with_reducible apply State.dmaMessage_writes
    | with_reducible apply State.dmaHalt_writes
    | with_reducible apply State.dmaHandover_writes
    | with_reducible exact Has.HOST_D_FULL_IE (subTrans w (by decide))
    | with_reducible exact Has.HOST_D_STATE (subTrans w (by decide))
    | with_reducible exact Has.HOST_D_RESULT (subTrans w (by decide))
    | with_reducible exact Has.HOST_D_DONE (subTrans w (by decide))
    | with_reducible exact Has.HOST_D_RESIDUE (subTrans w (by decide))

theorem State.dmaLinkEnd_writes {F s x} {a1}
    (h : Writes F s x) (w : [3368, 3369, 3370, 3376] ⊆ F := by exact subTrans (by assumption) (by decide)) :
    Writes F s (State.dmaLinkEnd x a1) := by
  unfold State.dmaLinkEnd
  repeat' first
    | with_reducible assumption
    | exact subTrans w (by decide)
    | intro _ _
    | intro _
    | with_reducible apply Writes.choose
    | with_reducible apply Writes.upTo
    | with_reducible apply State.dmaHalt_writes

/-! ### Machine/ImageApply.lean -/

theorem State.fill_writes {F s x} {a1 a2} (h : Writes F s x) : Writes F s (State.fill x a1 a2) := by
  unfold State.fill
  repeat' first
    | with_reducible assumption
    | intro _ _
    | intro _
    | with_reducible apply State.memStore_writes

theorem State.fillArea_writes {F s x} {a1 a2 a3} (h : Writes F s x) : Writes F s (State.fillArea x a1 a2 a3) := by
  unfold State.fillArea
  repeat' first
    | with_reducible assumption
    | intro _ _
    | intro _
    | with_reducible apply State.injTake_writes
    | with_reducible apply State.memZero_writes
    | with_reducible apply State.fill_writes

theorem State.copyRange_writes {F s x} {a1 a2 a3} (h : Writes F s x) : Writes F s (State.copyRange x a1 a2 a3) := by
  unfold State.copyRange
  repeat' first
    | with_reducible assumption
    | intro _ _
    | intro _
    | with_reducible apply Writes.foldl
    | with_reducible apply Writes.foldl_snd
    | with_reducible apply Writes.foldl_fst
    | with_reducible apply Writes.foldl_third
    | with_reducible apply State.injTake_writes
    | with_reducible apply State.memZero_writes
    | split
    | dsimp only
    | with_reducible apply Writes.upd

theorem State.loadStop_writes {F s x} {a1}
    (h : Writes F s x) (w : [256, 258, 283, 287, 520, 521, 522, 523, 540, 775, 776, 784, 785, 788, 819, 823, 2059, 2060, 2323, 2325, 2328, 2329, 2330, 2331, 2332, 2333, 2334, 2343, 2360, 2362, 2363, 2364, 2365, 2565, 2569, 2584, 2586, 3076, 3080, 3083, 3084, 3085, 3100, 3101, 3102, 3103, 3104, 3110, 3113, 3114, 3123, 3125, 3339, 4907] ⊆ F := by exact subTrans (by assumption) (by decide)) :
    Writes F s (State.loadStop x a1) := by
  unfold State.loadStop
  repeat' first
    | with_reducible assumption
    | exact subTrans w (by decide)
    | intro _ _
    | intro _
    | with_reducible apply Writes.foldl
    | with_reducible apply Writes.foldl_snd
    | with_reducible apply Writes.foldl_fst
    | with_reducible apply Writes.foldl_third
    | with_reducible apply State.set_writes
    | with_reducible apply State.setB_writes
    | with_reducible apply State.add_writes
    | with_reducible apply State.ringsStop_writes
    | with_reducible apply State.discardPackets_writes
    | with_reducible apply State.allLines_writes
    | with_reducible apply State.portDown_writes
    | with_reducible apply State.txComplete_writes
    | refine State.discardPackets_writesE (by with_reducible assumption) ?_
    | with_reducible exact Has.IMG_ACTIVITY (subTrans w (by decide))
    | with_reducible exact Has.IMG_READY (subTrans w (by decide))
    | with_reducible exact Has.IMG_LOAD_DISCARDS (subTrans w (by decide))
    | split
    | dsimp only
    | with_reducible apply Writes.upd

theorem State.portFresh_writes {F s x} {a1}
    (h : Writes F s x) (w : [768, 769, 770, 775, 782, 805] ⊆ F := by exact subTrans (by assumption) (by decide)) :
    Writes F s (State.portFresh x a1) := by
  unfold State.portFresh
  repeat' first
    | with_reducible assumption
    | exact subTrans w (by decide)
    | intro _ _
    | intro _
    | with_reducible apply State.when_writes
    | with_reducible apply State.set_writes
    | with_reducible apply State.setB_writes
    | with_reducible apply State.when_writes
    | with_reducible exact Has.PORT_ADMIN_UP (subTrans w (by decide))
    | with_reducible exact Has.PORT_AN_EN (subTrans w (by decide))
    | with_reducible exact Has.PORT_LT_EN (subTrans w (by decide))
    | with_reducible exact Has.PORT_LINK_STATE (subTrans w (by decide))
    | with_reducible exact Has.PORT_PCS_LANES (subTrans w (by decide))
    | with_reducible exact Has.PORT_FC_MODE (subTrans w (by decide))

theorem State.portsApply_writes {F s x}
    (h : Writes F s x) (w : [768, 769, 770, 775, 782, 805] ⊆ F := by exact subTrans (by assumption) (by decide)) :
    Writes F s (State.portsApply x) := by
  unfold State.portsApply
  repeat' first
    | with_reducible assumption
    | exact subTrans w (by decide)
    | intro _ _
    | intro _
    | with_reducible apply Writes.choose
    | with_reducible apply Writes.foldl
    | with_reducible apply Writes.foldl_snd
    | with_reducible apply Writes.foldl_fst
    | with_reducible apply Writes.foldl_third
    | with_reducible apply State.portFresh_writes

theorem State.parseApply_writes {F s x} {a1}
    (h : Writes F s x) (w : [1024, 1025, 1026, 1027, 1028, 1029, 1030, 1031, 1032, 1033, 1034, 1035, 1036, 1046, 1047] ⊆ F := by exact subTrans (by assumption) (by decide)) :
    Writes F s (State.parseApply x a1) := by
  unfold State.parseApply
  repeat' first
    | with_reducible assumption
    | exact subTrans w (by decide)
    | intro _ _
    | intro _
    | with_reducible apply Writes.foldl
    | with_reducible apply Writes.foldl_snd
    | with_reducible apply Writes.foldl_fst
    | with_reducible apply Writes.foldl_third
    | with_reducible apply Writes.upTo
    | with_reducible apply State.set_writes
    | with_reducible exact Has.PARSE_GRAPH (subTrans w (by decide))
    | with_reducible exact Has.PARSE_START_STATE (subTrans w (by decide))
    | with_reducible exact Has.PARSE_CAUSE_ACTION (subTrans w (by decide))
    | with_reducible exact Has.PARSE_MALF_RING (subTrans w (by decide))
    | with_reducible exact Has.PARSE_SP_ENABLE (subTrans w (by decide))
    | with_reducible exact Has.PARSE_SP_RING1 (subTrans w (by decide))
    | with_reducible exact Has.PARSE_SP_RING2 (subTrans w (by decide))
    | with_reducible exact Has.PARSE_SP_RING3 (subTrans w (by decide))
    | with_reducible exact Has.PARSE_SP_RING4 (subTrans w (by decide))
    | with_reducible exact Has.PARSE_SP_RING5 (subTrans w (by decide))
    | with_reducible exact Has.PARSE_SP_RING6 (subTrans w (by decide))
    | with_reducible exact Has.PARSE_MIRROR_QUEUE (subTrans w (by decide))
    | with_reducible exact Has.PARSE_RUNT_MIN (subTrans w (by decide))
    | with_reducible exact Has.PARSE_POL_RATE (subTrans w (by decide))
    | with_reducible exact Has.PARSE_POL_BURST (subTrans w (by decide))

theorem State.emApply_writes {F s x} (h : Writes F s x) (w : [1536, 1552, 1553, 1554] ⊆ F := by exact subTrans (by assumption) (by decide)) :
    Writes F s (State.emApply x) := by
  unfold State.emApply
  repeat' first
    | with_reducible assumption
    | exact subTrans w (by decide)
    | intro _ _
    | intro _
    | with_reducible apply Writes.upTo
    | with_reducible apply State.set_writes
    | with_reducible exact Has.EM_TABLE_COUNT (subTrans w (by decide))
    | with_reducible exact Has.EM_T_AGE_PERIOD (subTrans w (by decide))
    | with_reducible exact Has.EM_T_LEARN_RATE (subTrans w (by decide))
    | with_reducible exact Has.EM_T_LEARN_BURST (subTrans w (by decide))

theorem State.aseApply_writes {F s x}
    (h : Writes F s x) (w : [1792, 1821, 1822, 1823, 1824, 1825, 1826, 1827, 1828, 1835, 1836] ⊆ F := by exact subTrans (by assumption) (by decide)) :
    Writes F s (State.aseApply x) := by
  unfold State.aseApply
  repeat' first
    | with_reducible assumption
    | exact subTrans w (by decide)
    | intro _ _
    | intro _
    | with_reducible apply Writes.choose
    | with_reducible apply Writes.upTo
    | with_reducible apply State.set_writes
    | with_reducible apply State.setB_writes
    | with_reducible exact Has.ASE_PART_COUNT (subTrans w (by decide))
    | with_reducible exact Has.ASE_P_BANK_BASE (subTrans w (by decide))
    | with_reducible exact Has.ASE_P_BANK_COUNT (subTrans w (by decide))
    | with_reducible exact Has.ASE_P_WIDE (subTrans w (by decide))
    | with_reducible exact Has.ASE_P_GAPPED (subTrans w (by decide))
    | with_reducible exact Has.ASE_P_REPLICAS (subTrans w (by decide))
    | with_reducible exact Has.ASE_P_GAP (subTrans w (by decide))
    | with_reducible exact Has.ASE_P_SEL_BITS (subTrans w (by decide))
    | with_reducible exact Has.ASE_P_MISS_RESULT (subTrans w (by decide))
    | with_reducible exact Has.ASE_P_PEAK_BANK (subTrans w (by decide))
    | with_reducible exact Has.ASE_P_PEAK_LOAD (subTrans w (by decide))

theorem State.filApply_writes {F s x}
    (h : Writes F s x) (w : [1280, 1281, 1282, 1283, 1284, 1285] ⊆ F := by exact subTrans (by assumption) (by decide)) :
    Writes F s (State.filApply x) := by
  unfold State.filApply
  repeat' first
    | with_reducible assumption
    | exact subTrans w (by decide)
    | intro _ _
    | intro _
    | with_reducible apply Writes.choose
    | with_reducible apply Writes.upTo
    | with_reducible apply State.set_writes
    | with_reducible apply State.setB_writes
    | with_reducible exact Has.FIL_SPLIT (subTrans w (by decide))
    | with_reducible exact Has.FIL_SET_COUNT (subTrans w (by decide))
    | with_reducible exact Has.FIL_NODE_BASE (subTrans w (by decide))
    | with_reducible exact Has.FIL_KEY_BITS (subTrans w (by decide))
    | with_reducible exact Has.FIL_RULE_COUNT (subTrans w (by decide))
    | with_reducible exact Has.FIL_ROOT (subTrans w (by decide))

theorem State.stagesApply_writes {F s x} (h : Writes F s x) (w : [2048, 2049, 2050] ⊆ F := by exact subTrans (by assumption) (by decide)) :
    Writes F s (State.stagesApply x) := by
  unfold State.stagesApply
  repeat' first
    | with_reducible assumption
    | exact subTrans w (by decide)
    | intro _ _
    | intro _
    | with_reducible apply Writes.upTo
    | with_reducible apply State.set_writes
    | with_reducible exact Has.MAP_PROFILE_COUNT (subTrans w (by decide))
    | with_reducible exact Has.MAP_AREA_WORDS (subTrans w (by decide))
    | with_reducible exact Has.MAP_PROFILE (subTrans w (by decide))

theorem State.programWrite_writes {F s x} {a1 a2} (h : Writes F s x) : Writes F s (State.programWrite x a1 a2) := by
  unfold State.programWrite
  repeat' first
    | with_reducible assumption
    | intro _ _
    | intro _
    | with_reducible apply Writes.upTo
    | with_reducible apply State.fill_writes

theorem State.dataWrite_writes {F s x} {a1 a2} (h : Writes F s x) : Writes F s (State.dataWrite x a1 a2) := by
  unfold State.dataWrite
  repeat' first
    | with_reducible assumption
    | intro _ _
    | intro _
    | with_reducible apply State.fillArea_writes

theorem State.treesWrite_writes {F s x} {a1 a2} (h : Writes F s x) : Writes F s (State.treesWrite x a1 a2) := by
  unfold State.treesWrite
  repeat' first
    | with_reducible assumption
    | intro _ _
    | intro _
    | with_reducible apply Writes.upTo
    | with_reducible apply State.fillArea_writes
    | split
    | dsimp only
    | with_reducible apply Writes.upd

theorem State.programCopy_writes {F s x} {a1} (h : Writes F s x) : Writes F s (State.programCopy x a1) := by
  unfold State.programCopy
  repeat' first
    | with_reducible assumption
    | intro _ _
    | intro _
    | with_reducible apply Writes.upTo
    | with_reducible apply State.copyRange_writes

theorem State.dataCopy_writes {F s x} {a1} (h : Writes F s x) : Writes F s (State.dataCopy x a1) := by
  unfold State.dataCopy
  repeat' first
    | with_reducible assumption
    | intro _ _
    | intro _
    | with_reducible apply State.copyRange_writes

theorem State.treesCopy_writes {F s x} {a1} (h : Writes F s x) : Writes F s (State.treesCopy x a1) := by
  unfold State.treesCopy
  repeat' first
    | with_reducible assumption
    | intro _ _
    | intro _
    | with_reducible apply Writes.upTo
    | with_reducible apply State.copyRange_writes
    | split
    | dsimp only
    | with_reducible apply Writes.upd

theorem State.updateWrite_writes {F s x} {a1 a2} (h : Writes F s x) : Writes F s (State.updateWrite x a1 a2) := by
  unfold State.updateWrite
  repeat' first
    | with_reducible assumption
    | intro _ _
    | intro _
    | with_reducible apply State.programWrite_writes
    | with_reducible apply State.dataWrite_writes
    | with_reducible apply State.treesWrite_writes
    | with_reducible apply State.programCopy_writes
    | with_reducible apply State.dataCopy_writes
    | with_reducible apply State.treesCopy_writes
    | split

theorem State.poolsApply_writes {F s x}
    (h : Writes F s x) (w : [2304, 2307, 2308, 2309, 2310, 2311, 2314, 2346, 2347, 2348, 2349, 2350, 2351, 2352, 2353, 2354, 2355, 2356, 2357, 2358, 2359] ⊆ F := by exact subTrans (by assumption) (by decide)) :
    Writes F s (State.poolsApply x) := by
  unfold State.poolsApply
  repeat' first
    | with_reducible assumption
    | exact subTrans w (by decide)
    | intro _ _
    | intro _
    | with_reducible apply Writes.foldl
    | with_reducible apply Writes.foldl_snd
    | with_reducible apply Writes.foldl_fst
    | with_reducible apply Writes.foldl_third
    | with_reducible apply Writes.upTo
    | with_reducible apply State.set_writes
    | with_reducible exact Has.CRUC_LEGACY_ARB (subTrans w (by decide))
    | with_reducible exact Has.CRUC_SHARED_SIZE (subTrans w (by decide))
    | with_reducible exact Has.CRUC_BASE_UNIT (subTrans w (by decide))
    | with_reducible exact Has.CRUC_UNITS (subTrans w (by decide))
    | with_reducible exact Has.CRUC_SIZE (subTrans w (by decide))
    | with_reducible exact Has.CRUC_INGOTS (subTrans w (by decide))
    | with_reducible exact Has.CRUC_HR_RESERVE (subTrans w (by decide))
    | with_reducible exact Has.CRUC_RP_MIN (subTrans w (by decide))
    | with_reducible exact Has.CRUC_RP_HDRM (subTrans w (by decide))
    | with_reducible exact Has.CRUC_RP_FIFO_XOFF (subTrans w (by decide))
    | with_reducible exact Has.CRUC_RP_FIFO_XON (subTrans w (by decide))
    | with_reducible exact Has.CRUC_RP_XON_DELTA (subTrans w (by decide))
    | with_reducible exact Has.CRUC_RP_ALPHA (subTrans w (by decide))
    | with_reducible exact Has.CRUC_RP_SHR_MAX (subTrans w (by decide))
    | with_reducible exact Has.CRUC_Q_MIN (subTrans w (by decide))
    | with_reducible exact Has.CRUC_BETA (subTrans w (by decide))
    | with_reducible exact Has.CRUC_MAP_PROFILE0 (subTrans w (by decide))
    | with_reducible exact Has.CRUC_MAP_PROFILE1 (subTrans w (by decide))
    | with_reducible exact Has.CRUC_MAP_PROFILE2 (subTrans w (by decide))
    | with_reducible exact Has.CRUC_MAP_PROFILE3 (subTrans w (by decide))
    | with_reducible exact Has.CRUC_CT_MASK (subTrans w (by decide))

theorem State.reqsApply_writes {F s x}
    (h : Writes F s x) (w : [2364, 2365, 3110, 3113, 3114, 3123, 3125, 4907] ⊆ F := by exact subTrans (by assumption) (by decide)) :
    Writes F s (State.reqsApply x) := by
  unfold State.reqsApply
  repeat' first
    | with_reducible assumption
    | exact subTrans w (by decide)
    | intro _ _
    | intro _
    | with_reducible apply State.xoffEval_writes
    | split
    | dsimp only
    | with_reducible apply Writes.upd

theorem State.queuesApply_writes {F s x} (h : Writes F s x) : Writes F s (State.queuesApply x) := by
  unfold State.queuesApply
  repeat' first
    | with_reducible assumption
    | intro _ _
    | intro _
    | with_reducible apply Writes.foldl
    | with_reducible apply Writes.foldl_snd
    | with_reducible apply Writes.foldl_fst
    | with_reducible apply Writes.foldl_third
    | with_reducible apply State.fill_writes

theorem State.teleApply_writes {F s x}
    (h : Writes F s x) (w : [3072, 3073, 3074, 3075] ⊆ F := by exact subTrans (by assumption) (by decide)) :
    Writes F s (State.teleApply x) := by
  unfold State.teleApply
  repeat' first
    | with_reducible assumption
    | exact subTrans w (by decide)
    | intro _ _
    | intro _
    | with_reducible apply State.set_writes
    | with_reducible exact Has.TELE_FLAGS (subTrans w (by decide))
    | with_reducible exact Has.TELE_HOP_ID (subTrans w (by decide))
    | with_reducible exact Has.TELE_FC_IDLE (subTrans w (by decide))
    | with_reducible exact Has.TELE_FC_ACTIVE (subTrans w (by decide))

theorem State.hostApply_writes {F s x} (h : Writes F s x) (w : [3353] ⊆ F := by exact subTrans (by assumption) (by decide)) :
    Writes F s (State.hostApply x) := by
  unfold State.hostApply
  repeat' first
    | with_reducible assumption
    | exact subTrans w (by decide)
    | intro _ _
    | intro _
    | with_reducible apply Writes.choose
    | with_reducible apply Writes.upTo
    | with_reducible apply State.set_writes
    | with_reducible exact Has.HOST_R_PIPE (subTrans w (by decide))

theorem State.initEm_writes {F s x} {a1}
    (h : Writes F s x) (w : [3110, 3113, 3114, 3123, 3125, 4907] ⊆ F := by exact subTrans (by assumption) (by decide)) :
    Writes F s (State.initEm x a1) := by
  unfold State.initEm
  repeat' first
    | with_reducible assumption
    | exact subTrans w (by decide)
    | intro _ _
    | intro _
    | with_reducible apply Writes.upTo
    | with_reducible apply State.emInsert_writes

theorem State.initAse_writes {F s x} {a1} (h : Writes F s x) : Writes F s (State.initAse x a1) := by
  unfold State.initAse
  repeat' first
    | with_reducible assumption
    | intro _ _
    | intro _
    | with_reducible apply Writes.choose
    | with_reducible apply Writes.upTo
    | with_reducible apply State.take_writes
    | with_reducible apply State.fill_writes

theorem State.initDirect_writes {F s x} {a1} (h : Writes F s x) : Writes F s (State.initDirect x a1) := by
  unfold State.initDirect
  repeat' first
    | with_reducible assumption
    | intro _ _
    | intro _
    | with_reducible apply Writes.foldl
    | with_reducible apply Writes.foldl_snd
    | with_reducible apply Writes.foldl_fst
    | with_reducible apply Writes.foldl_third
    | with_reducible apply State.fill_writes

theorem State.initApply_writes {F s x}
    (h : Writes F s x) (w : [3110, 3113, 3114, 3123, 3125, 4907] ⊆ F := by exact subTrans (by assumption) (by decide)) :
    Writes F s (State.initApply x) := by
  unfold State.initApply
  repeat' first
    | with_reducible assumption
    | exact subTrans w (by decide)
    | intro _ _
    | intro _
    | with_reducible apply Writes.choose
    | with_reducible apply Writes.foldl
    | with_reducible apply Writes.foldl_snd
    | with_reducible apply Writes.foldl_fst
    | with_reducible apply Writes.foldl_third
    | with_reducible apply State.initEm_writes
    | with_reducible apply State.initAse_writes
    | with_reducible apply State.initDirect_writes

theorem State.runShow_writes {F s x} {a1 a2}
    (h : Writes F s x) (w : [257, 259, 278, 279, 280] ⊆ F := by exact subTrans (by assumption) (by decide)) :
    Writes F s (State.runShow x a1 a2) := by
  unfold State.runShow
  repeat' first
    | with_reducible assumption
    | exact subTrans w (by decide)
    | intro _ _
    | intro _
    | with_reducible apply Writes.upTo
    | with_reducible apply State.set_writes
    | with_reducible apply State.setB_writes
    | with_reducible exact Has.IMG_RUN_SRC (subTrans w (by decide))
    | with_reducible exact Has.IMG_SWAP_ENABLED (subTrans w (by decide))
    | with_reducible exact Has.IMG_IMAGE_ID (subTrans w (by decide))
    | with_reducible exact Has.IMG_SECVER (subTrans w (by decide))
    | with_reducible exact Has.IMG_DIGEST (subTrans w (by decide))

/-! ### Machine/Image.lean -/

theorem State.imgShow_writes {F s x} {a1} (h : Writes F s x) (w : [265, 266, 270] ⊆ F := by exact subTrans (by assumption) (by decide)) :
    Writes F s (State.imgShow x a1) := by
  unfold State.imgShow
  repeat' first
    | with_reducible assumption
    | exact subTrans w (by decide)
    | intro _ _
    | intro _
    | with_reducible apply State.when_writes
    | with_reducible apply State.set_writes
    | with_reducible apply State.when_writes
    | with_reducible apply State.fault_writes
    | with_reducible exact Has.IMG_RESULT (subTrans w (by decide))
    | with_reducible exact Has.IMG_FAIL_SECTION (subTrans w (by decide))
    | with_reducible exact Has.IMG_DETAIL (subTrans w (by decide))

theorem State.imgReport_writes {F s x} {a1 a2}
    (h : Writes F s x) (w : [265, 266, 267, 268, 270, 4907] ⊆ F := by exact subTrans (by assumption) (by decide)) :
    Writes F s (State.imgReport x a1 a2) := by
  unfold State.imgReport
  repeat' first
    | with_reducible assumption
    | exact subTrans w (by decide)
    | intro _ _
    | intro _
    | with_reducible apply State.set_writes
    | with_reducible apply State.event_writes
    | with_reducible apply State.imgShow_writes
    | with_reducible exact Has.IMG_LAST_OPCODE (subTrans w (by decide))
    | with_reducible exact Has.IMG_CMD_DONE (subTrans w (by decide))

theorem State.imgEnd_writes {F s x} {a1}
    (h : Writes F s x) (w : [256, 265, 266, 267, 268, 270, 4907] ⊆ F := by exact subTrans (by assumption) (by decide)) :
    Writes F s (State.imgEnd x a1) := by
  unfold State.imgEnd
  repeat' first
    | with_reducible assumption
    | exact subTrans w (by decide)
    | intro _ _
    | intro _
    | with_reducible apply Writes.choose
    | with_reducible apply State.set_writes
    | with_reducible apply State.imgReport_writes
    | with_reducible exact Has.IMG_ACTIVITY (subTrans w (by decide))
    | split
    | dsimp only
    | with_reducible apply Writes.upd

theorem State.imgStart_writes {F s x} {a1 a2 a3}
    (h : Writes F s x) (w : [256, 265, 266, 267, 270] ⊆ F := by exact subTrans (by assumption) (by decide)) :
    Writes F s (State.imgStart x a1 a2 a3) := by
  unfold State.imgStart
  repeat' first
    | with_reducible assumption
    | exact subTrans w (by decide)
    | intro _ _
    | intro _
    | with_reducible apply State.set_writes
    | with_reducible exact Has.IMG_ACTIVITY (subTrans w (by decide))
    | with_reducible exact Has.IMG_RESULT (subTrans w (by decide))
    | with_reducible exact Has.IMG_FAIL_SECTION (subTrans w (by decide))
    | with_reducible exact Has.IMG_LAST_OPCODE (subTrans w (by decide))
    | with_reducible exact Has.IMG_DETAIL (subTrans w (by decide))
    | split
    | dsimp only
    | with_reducible apply Writes.upd

theorem State.bankInvalidate_writes {F s x} {a1 a2}
    (h : Writes F s x) (w : [274, 275, 276, 277, 3848, 3868] ⊆ F := by exact subTrans (by assumption) (by decide)) :
    Writes F s (State.bankInvalidate x a1 a2) := by
  unfold State.bankInvalidate
  repeat' first
    | with_reducible assumption
    | exact subTrans w (by decide)
    | intro _ _
    | intro _
    | with_reducible apply State.commitWrite_writes

theorem State.imgCommand_writes {F s x} {a1 a2 a3}
    (h : Writes F s x) (w : [256, 265, 266, 267, 268, 270, 274, 275, 276, 277, 3848, 3868, 4907] ⊆ F := by exact subTrans (by assumption) (by decide)) :
    Writes F s (State.imgCommand x a1 a2 a3) := by
  unfold State.imgCommand
  repeat' first
    | with_reducible assumption
    | exact subTrans w (by decide)
    | intro _ _
    | intro _
    | with_reducible apply State.when_writes
    | with_reducible apply State.when_writes
    | with_reducible apply State.imgReport_writes
    | with_reducible apply State.imgStart_writes
    | with_reducible apply State.bankInvalidate_writes
    | split

theorem State.epochFlip_writes {F s x}
    (h : Writes F s x) (w : [256, 260, 261, 265, 266, 267, 268, 270, 1284, 1285, 4907] ⊆ F := by exact subTrans (by assumption) (by decide)) :
    Writes F s (State.epochFlip x) := by
  unfold State.epochFlip
  repeat' first
    | with_reducible assumption
    | exact subTrans w (by decide)
    | intro _ _
    | intro _
    | with_reducible apply State.set_writes
    | with_reducible apply State.setB_writes
    | with_reducible apply State.filShow_writes
    | with_reducible apply State.imgEnd_writes
    | with_reducible exact Has.IMG_EPOCH (subTrans w (by decide))
    | with_reducible exact Has.IMG_RETIRING (subTrans w (by decide))
    | split
    | dsimp only
    | with_reducible apply Writes.upd

theorem State.swapTrigger_writes {F s x} {a1}
    (h : Writes F s x) (w : [256, 260, 261, 265, 266, 267, 268, 270, 1284, 1285, 4907] ⊆ F := by exact subTrans (by assumption) (by decide)) :
    Writes F s (State.swapTrigger x a1) := by
  unfold State.swapTrigger
  repeat' first
    | with_reducible assumption
    | exact subTrans w (by decide)
    | intro _ _
    | intro _
    | with_reducible apply Writes.choose
    | with_reducible apply State.epochFlip_writes
    | split

theorem State.epochRetired_writes {F s x} (h : Writes F s x) (w : [261, 269, 4907] ⊆ F := by exact subTrans (by assumption) (by decide)) :
    Writes F s (State.epochRetired x) := by
  unfold State.epochRetired
  repeat' first
    | with_reducible assumption
    | exact subTrans w (by decide)
    | intro _ _
    | intro _
    | with_reducible apply State.setB_writes
    | with_reducible apply State.event_writes
    | with_reducible exact Has.IMG_RETIRING (subTrans w (by decide))
    | with_reducible exact Has.IMG_RETIRED (subTrans w (by decide))

theorem State.retireOverdue_writes {F s x} (h : Writes F s x) (w : [262] ⊆ F := by exact subTrans (by assumption) (by decide)) :
    Writes F s (State.retireOverdue x) := by
  unfold State.retireOverdue
  repeat' first
    | with_reducible assumption
    | exact subTrans w (by decide)
    | intro _ _
    | intro _
    | with_reducible apply Writes.choose
    | with_reducible apply State.setB_writes
    | with_reducible apply State.fault_writes
    | with_reducible exact Has.IMG_RETIRE_OVERDUE (subTrans w (by decide))
    | split
    | dsimp only
    | with_reducible apply Writes.upd

theorem State.retireForce_writes {F s x}
    (h : Writes F s x) (w : [261, 269, 283, 286, 2323, 2331, 2332, 2333, 2334, 2360, 2362, 2363, 2364, 2365, 3076, 3083, 3084, 3085, 3104, 3110, 3113, 3114, 3123, 3125, 4907] ⊆ F := by exact subTrans (by assumption) (by decide)) :
    Writes F s (State.retireForce x) := by
  unfold State.retireForce
  repeat' first
    | with_reducible assumption
    | exact subTrans w (by decide)
    | intro _ _
    | intro _
    | with_reducible apply Writes.choose
    | with_reducible apply State.add_writes
    | with_reducible apply State.xoffEval_writes
    | with_reducible apply State.discardWhere_writes
    | with_reducible apply State.epochRetired_writes
    | refine State.discardWhere_writesE (by with_reducible assumption) ?_
    | with_reducible exact Has.IMG_RETIRING (subTrans w (by decide))
    | with_reducible exact Has.IMG_RETIRE_DISCARDS (subTrans w (by decide))

theorem State.bankLines_writes {F s x} {a1 a2 a3} (h : Writes F s x) (w : [3848, 3868] ⊆ F := by exact subTrans (by assumption) (by decide)) :
    Writes F s (State.bankLines x a1 a2 a3).1 := by
  unfold State.bankLines
  repeat' first
    | with_reducible assumption
    | exact subTrans w (by decide)
    | intro _ _
    | intro _
    | with_reducible apply Writes.foldl
    | with_reducible apply Writes.foldl_snd
    | with_reducible apply Writes.foldl_fst
    | with_reducible apply Writes.foldl_third
    | with_reducible apply State.storeWrite_writes

theorem State.bankLines_writesE {F s x} {a1 a2 a3} {t r1} (e : State.bankLines x a1 a2 a3 = (t, r1))
    (h : Writes F s x) (w : [3848, 3868] ⊆ F := by exact subTrans (by assumption) (by decide)) :
    Writes F s t := by
  have k := State.bankLines_writes (F := F) (s := s) (x := x) (a1 := a1) (a2 := a2) (a3 := a3) h
  rwa [e] at k

theorem State.bankVerified_writes {F s x} {a1 a2 a3}
    (h : Writes F s x) (w : [256, 265, 266, 267, 268, 270, 3110, 3113, 3114, 3123, 3125, 3848, 3868, 4907] ⊆ F := by exact subTrans (by assumption) (by decide)) :
    Writes F s (State.bankVerified x a1 a2 a3) := by
  unfold State.bankVerified
  repeat' first
    | with_reducible assumption
    | exact subTrans w (by decide)
    | intro _ _
    | intro _
    | with_reducible apply Writes.choose
    | with_reducible apply State.set_writes
    | with_reducible apply State.imgEnd_writes
    | with_reducible apply State.bankLines_writes
    | refine State.bankLines_writesE (by with_reducible assumption) ?_
    | with_reducible exact Has.IMG_ACTIVITY (subTrans w (by decide))
    | split
    | dsimp only
    | with_reducible apply Writes.upd

theorem State.ruleWrite_writes {F s x} {a1 a2 a3} (h : Writes F s x) : Writes F s (State.ruleWrite x a1 a2 a3) := by
  unfold State.ruleWrite
  repeat' first
    | with_reducible assumption
    | intro _ _
    | intro _
    | with_reducible apply Writes.choose
    | with_reducible apply State.programWrite_writes
    | with_reducible apply State.dataWrite_writes
    | with_reducible apply State.treesWrite_writes

theorem State.swapPartial_writes {F s x} {a1}
    (h : Writes F s x) (w : [3110, 3113, 3114, 3123, 3125, 4907] ⊆ F := by exact subTrans (by assumption) (by decide)) :
    Writes F s (State.swapPartial x a1) := by
  unfold State.swapPartial
  repeat' first
    | with_reducible assumption
    | exact subTrans w (by decide)
    | intro _ _
    | intro _
    | with_reducible apply Writes.foldl
    | with_reducible apply Writes.foldl_snd
    | with_reducible apply Writes.foldl_fst
    | with_reducible apply Writes.foldl_third
    | with_reducible apply State.draw_writes
    | with_reducible apply State.take_writes
    | with_reducible apply State.ruleWrite_writes

theorem State.swapVerified_writes {F s x} {a1 a2}
    (h : Writes F s x) (w : [256, 260, 261, 265, 266, 267, 268, 270, 1284, 1285, 4907] ⊆ F := by exact subTrans (by assumption) (by decide)) :
    Writes F s (State.swapVerified x a1 a2) := by
  unfold State.swapVerified
  repeat' first
    | with_reducible assumption
    | exact subTrans w (by decide)
    | intro _ _
    | intro _
    | with_reducible apply Writes.choose
    | with_reducible apply State.set_writes
    | with_reducible apply State.updateWrite_writes
    | with_reducible apply State.epochFlip_writes
    | with_reducible exact Has.IMG_ACTIVITY (subTrans w (by decide))
    | split
    | dsimp only
    | with_reducible apply Writes.upd

theorem State.bootTry_writes {F s x l} (h : Writes F s x) (w : [256, 4867, 4868, 4870] ⊆ F := by exact subTrans (by assumption) (by decide)) :
    Writes F s (State.bootTry x l) := by
  induction l generalizing x with
  | nil => exact State.setB_writes Has.GLB_WAIT_HOST (State.set_writes Has.IMG_ACTIVITY (Writes.upd h))
  | cons b l ih =>
    simp only [State.bootTry]
    split
    · exact State.set_writes Has.IMG_ACTIVITY (Writes.upd h)
    · refine ih (State.set_writes ?_ h)
      split
      · exact Has.GLB_RESULT_SECOND
      · exact Has.GLB_RESULT_FIRST

theorem State.bootNext_writes {F s x} (h : Writes F s x) (w : [256, 4867, 4868, 4870] ⊆ F := by exact subTrans (by assumption) (by decide)) :
    Writes F s (State.bootNext x) := by
  unfold State.bootNext
  repeat' first
    | with_reducible assumption
    | exact subTrans w (by decide)
    | intro _ _
    | intro _
    | with_reducible apply State.bootTry_writes

theorem State.bootVerified_writes {F s x} {a1}
    (h : Writes F s x) (w : [4867, 4868, 4872] ⊆ F := by exact subTrans (by assumption) (by decide)) :
    Writes F s (State.bootVerified x a1) := by
  unfold State.bootVerified
  repeat' first
    | with_reducible assumption
    | exact subTrans w (by decide)
    | intro _ _
    | intro _
    | with_reducible apply Writes.choose
    | with_reducible apply State.set_writes
    | with_reducible exact Has.GLB_RESULT_FIRST (subTrans w (by decide))
    | with_reducible exact Has.GLB_RESULT_SECOND (subTrans w (by decide))
    | with_reducible exact Has.GLB_STEP (subTrans w (by decide))
    | split

theorem State.imgLinkEvent_writes {F s x}
    (h : Writes F s x) (w : [256, 265, 266, 267, 268, 270, 4907] ⊆ F := by exact subTrans (by assumption) (by decide)) :
    Writes F s (State.imgLinkEvent x) := by
  unfold State.imgLinkEvent
  repeat' first
    | with_reducible assumption
    | exact subTrans w (by decide)
    | intro _ _
    | intro _
    | with_reducible apply State.when_writes
    | with_reducible apply State.when_writes
    | with_reducible apply State.imgEnd_writes

theorem State.imgCut_writes {F s x} {a1 a2}
    (h : Writes F s x) (w : [3110, 3113, 3114, 3123, 3125, 3848, 3868, 4907] ⊆ F := by exact subTrans (by assumption) (by decide)) :
    Writes F s (State.imgCut x a1 a2) := by
  unfold State.imgCut
  repeat' first
    | with_reducible assumption
    | exact subTrans w (by decide)
    | intro _ _
    | intro _
    | with_reducible apply Writes.choose
    | with_reducible apply State.take_writes
    | with_reducible apply State.bankLines_writes
    | with_reducible apply State.swapPartial_writes

theorem State.imgAbort_writes {F s x} {a1}
    (h : Writes F s x) (w : [256, 265, 266, 267, 268, 270, 3110, 3113, 3114, 3123, 3125, 3848, 3868, 4907] ⊆ F := by exact subTrans (by assumption) (by decide)) :
    Writes F s (State.imgAbort x a1) := by
  unfold State.imgAbort
  repeat' first
    | with_reducible assumption
    | exact subTrans w (by decide)
    | intro _ _
    | intro _
    | with_reducible apply Writes.choose
    | with_reducible apply State.take_writes
    | with_reducible apply State.imgReport_writes
    | with_reducible apply State.imgEnd_writes
    | with_reducible apply State.imgCut_writes
    | split

theorem State.bankCommit_writes {F s x} {a1}
    (h : Writes F s x) (w : [256, 265, 266, 267, 268, 270, 274, 275, 276, 277, 3848, 3868, 4907] ⊆ F := by exact subTrans (by assumption) (by decide)) :
    Writes F s (State.bankCommit x a1) := by
  unfold State.bankCommit
  repeat' first
    | with_reducible assumption
    | exact subTrans w (by decide)
    | intro _ _
    | intro _
    | with_reducible apply Writes.choose
    | with_reducible apply State.commitWrite_writes
    | with_reducible apply State.imgEnd_writes
    | split

theorem State.imgStoreAbort_writes {F s x}
    (h : Writes F s x) (w : [256, 265, 266, 267, 268, 270, 4907] ⊆ F := by exact subTrans (by assumption) (by decide)) :
    Writes F s (State.imgStoreAbort x) := by
  unfold State.imgStoreAbort
  repeat' first
    | with_reducible assumption
    | exact subTrans w (by decide)
    | intro _ _
    | intro _
    | with_reducible apply Writes.choose
    | with_reducible apply State.imgEnd_writes
    | split
    | dsimp only
    | with_reducible apply Writes.upd

theorem State.imgEndRunning_writes {F s x} {a1}
    (h : Writes F s x) (w : [256, 265, 266, 267, 268, 270, 4907] ⊆ F := by exact subTrans (by assumption) (by decide)) :
    Writes F s (State.imgEndRunning x a1) := by
  unfold State.imgEndRunning
  repeat' first
    | with_reducible assumption
    | exact subTrans w (by decide)
    | intro _ _
    | intro _
    | with_reducible apply State.imgEnd_writes
    | split
    | dsimp only
    | with_reducible apply Writes.upd

theorem State.imgUnload_writes {F s x} (h : Writes F s x) (w : [257, 258, 259, 2854] ⊆ F := by exact subTrans (by assumption) (by decide)) :
    Writes F s (State.imgUnload x) := by
  unfold State.imgUnload
  repeat' first
    | with_reducible assumption
    | exact subTrans w (by decide)
    | intro _ _
    | intro _
    | with_reducible apply Writes.upTo
    | with_reducible apply State.set_writes
    | with_reducible apply State.setB_writes
    | with_reducible apply State.synceUpdate_writes
    | with_reducible exact Has.IMG_RUN_SRC (subTrans w (by decide))
    | with_reducible exact Has.IMG_READY (subTrans w (by decide))
    | with_reducible exact Has.IMG_SWAP_ENABLED (subTrans w (by decide))
    | split
    | dsimp only
    | with_reducible apply Writes.upd

end Sys2Proof.Machine
end

