-- ==== Sys2Proof/Laws/WritesModule.lean ====
section
/-!
SUPPORT. What the operations of time, resets, faults, security and host accesses write: one lemma for each.
-/
namespace Sys2Proof.Machine
set_option Elab.async false

/-! ### Machine/Touchstone.lean -/

theorem State.setOff_writes {F s x} {a1}
    (h : Writes F s x) (w : [2833, 2834, 2835, 2836] ⊆ F := by exact subTrans (by assumption) (by decide)) :
    Writes F s (State.setOff x a1) := by
  unfold State.setOff
  repeat' first
    | with_reducible assumption
    | exact subTrans w (by decide)
    | intro _ _
    | intro _
    | with_reducible apply State.set_writes
    | with_reducible exact Has.TIME_OFF_SEC (subTrans w (by decide))
    | with_reducible exact Has.TIME_OFF_NS (subTrans w (by decide))
    | with_reducible exact Has.TIME_OFF_FRAC (subTrans w (by decide))
    | with_reducible exact Has.TIME_REF (subTrans w (by decide))
    | split
    | dsimp only
    | with_reducible apply Writes.upd

theorem State.timeUpdate_writes {F s x} (h : Writes F s x) (w : [2817] ⊆ F := by exact subTrans (by assumption) (by decide)) :
    Writes F s (State.timeUpdate x) := by
  unfold State.timeUpdate
  repeat' first
    | with_reducible assumption
    | exact subTrans w (by decide)
    | intro _ _
    | intro _
    | with_reducible apply State.setB_writes
    | with_reducible exact Has.TIME_HOLDOVER (subTrans w (by decide))
    | split
    | dsimp only
    | with_reducible apply Writes.upd

theorem State.ppsSchedule_writes {F s x} {a1 a2} (h : Writes F s x) : Writes F s (State.ppsSchedule x a1 a2) := by
  unfold State.ppsSchedule
  repeat' first
    | with_reducible assumption
    | intro _ _
    | intro _
    | split
    | dsimp only
    | with_reducible apply Writes.upd

theorem State.ppsCancel_writes {F s x} {a1 a2} (h : Writes F s x) : Writes F s (State.ppsCancel x a1 a2) := by
  unfold State.ppsCancel
  repeat' first
    | with_reducible assumption
    | intro _ _
    | intro _
    | split
    | dsimp only
    | with_reducible apply Writes.upd

theorem State.trigArmed_writes {F s x} {a1 a2} (h : Writes F s x) (w : [2858] ⊆ F := by exact subTrans (by assumption) (by decide)) :
    Writes F s (State.trigArmed x a1 a2) := by
  unfold State.trigArmed
  repeat' first
    | with_reducible assumption
    | exact subTrans w (by decide)
    | intro _ _
    | intro _
    | with_reducible apply State.setB_writes
    | with_reducible apply State.ppsSchedule_writes
    | with_reducible exact Has.TIME_T_ARMED (subTrans w (by decide))
    | split
    | dsimp only
    | with_reducible apply Writes.upd

theorem State.trigDisarm_writes {F s x} {a1} (h : Writes F s x) (w : [2858] ⊆ F := by exact subTrans (by assumption) (by decide)) :
    Writes F s (State.trigDisarm x a1) := by
  unfold State.trigDisarm
  repeat' first
    | with_reducible assumption
    | exact subTrans w (by decide)
    | intro _ _
    | intro _
    | with_reducible apply State.when_writes
    | with_reducible apply State.setB_writes
    | with_reducible apply State.when_writes
    | with_reducible apply State.ppsCancel_writes
    | with_reducible exact Has.TIME_T_ARMED (subTrans w (by decide))

theorem State.trigArm_writes {F s x} {a1} (h : Writes F s x) (w : [2858, 2860] ⊆ F := by exact subTrans (by assumption) (by decide)) :
    Writes F s (State.trigArm x a1) := by
  unfold State.trigArm
  repeat' first
    | with_reducible assumption
    | exact subTrans w (by decide)
    | intro _ _
    | intro _
    | with_reducible apply Writes.choose
    | with_reducible apply State.setB_writes
    | with_reducible apply State.trigArmed_writes
    | with_reducible apply State.trigDisarm_writes
    | with_reducible exact Has.TIME_T_LATE_ARM (subTrans w (by decide))

theorem State.trigConsumers_writes {F s x} {a1}
    (h : Writes F s x) (w : [1, 2, 256, 260, 261, 265, 266, 267, 268, 270, 1284, 1285, 3094, 3096, 3123, 3124, 3125, 3584, 3585, 3586, 3596, 3601, 3607, 4907] ⊆ F := by exact subTrans (by assumption) (by decide)) :
    Writes F s (State.trigConsumers x a1) := by
  unfold State.trigConsumers
  repeat' first
    | with_reducible assumption
    | exact subTrans w (by decide)
    | intro _ _
    | intro _
    | with_reducible apply State.when_writes
    | with_reducible apply State.when_writes
    | with_reducible apply State.phaseSelect_writes
    | with_reducible apply State.loupeStart_writes
    | with_reducible apply State.swapTrigger_writes
    | split

theorem State.trigFire_writes {F s x} {a1}
    (h : Writes F s x) (w : [1, 2, 256, 260, 261, 265, 266, 267, 268, 270, 1284, 1285, 2859, 2866, 3094, 3096, 3123, 3124, 3125, 3584, 3585, 3586, 3596, 3601, 3607, 4907] ⊆ F := by exact subTrans (by assumption) (by decide)) :
    Writes F s (State.trigFire x a1) := by
  unfold State.trigFire
  repeat' first
    | with_reducible assumption
    | exact subTrans w (by decide)
    | intro _ _
    | intro _
    | with_reducible apply State.incWrap_writes
    | with_reducible apply State.event_writes
    | with_reducible apply State.trigConsumers_writes
    | with_reducible exact Has.TIME_T_FIRED (subTrans w (by decide))
    | with_reducible exact Has.TIME_T_FIRINGS (subTrans w (by decide))

theorem State.trigRearm_writes {F s x} {a1} (h : Writes F s x) (w : [2858] ⊆ F := by exact subTrans (by assumption) (by decide)) :
    Writes F s (State.trigRearm x a1) := by
  unfold State.trigRearm
  repeat' first
    | with_reducible assumption
    | exact subTrans w (by decide)
    | intro _ _
    | intro _
    | with_reducible apply Writes.choose
    | with_reducible apply State.setB_writes
    | with_reducible apply State.trigArmed_writes
    | with_reducible exact Has.TIME_T_ARMED (subTrans w (by decide))

theorem State.trigDue_writes {F s x} {a1}
    (h : Writes F s x) (w : [1, 2, 256, 260, 261, 265, 266, 267, 268, 270, 1284, 1285, 2858, 2859, 2866, 3094, 3096, 3123, 3124, 3125, 3584, 3585, 3586, 3596, 3601, 3607, 4907] ⊆ F := by exact subTrans (by assumption) (by decide)) :
    Writes F s (State.trigDue x a1) := by
  unfold State.trigDue
  repeat' first
    | with_reducible assumption
    | exact subTrans w (by decide)
    | intro _ _
    | intro _
    | with_reducible apply Writes.choose
    | with_reducible apply State.trigFire_writes
    | with_reducible apply State.trigRearm_writes

theorem State.trigsDue_writes {F s x}
    (h : Writes F s x) (w : [1, 2, 256, 260, 261, 265, 266, 267, 268, 270, 1284, 1285, 2572, 2573, 2574, 2858, 2859, 2866, 3094, 3096, 3123, 3124, 3125, 3584, 3585, 3586, 3596, 3601, 3607, 4907] ⊆ F := by exact subTrans (by assumption) (by decide)) :
    Writes F s (State.trigsDue x) := by
  unfold State.trigsDue
  repeat' first
    | with_reducible assumption
    | exact subTrans w (by decide)
    | intro _ _
    | intro _
    | with_reducible apply Writes.upTo
    | with_reducible apply State.gatesRelocate_writes
    | with_reducible apply State.trigDue_writes

theorem State.trigStepped_writes {F s x} {a1}
    (h : Writes F s x) (w : [1, 2, 256, 260, 261, 265, 266, 267, 268, 270, 1284, 1285, 2858, 2859, 2865, 2866, 3094, 3096, 3123, 3124, 3125, 3584, 3585, 3586, 3596, 3601, 3607, 4907] ⊆ F := by exact subTrans (by assumption) (by decide)) :
    Writes F s (State.trigStepped x a1) := by
  unfold State.trigStepped
  repeat' first
    | with_reducible assumption
    | exact subTrans w (by decide)
    | intro _ _
    | intro _
    | with_reducible apply Writes.choose
    | with_reducible apply State.setB_writes
    | with_reducible apply State.add_writes
    | with_reducible apply State.trigArmed_writes
    | with_reducible apply State.trigFire_writes
    | with_reducible exact Has.TIME_T_ARMED (subTrans w (by decide))
    | with_reducible exact Has.TIME_T_MISSED (subTrans w (by decide))

theorem State.ppsRebase_writes {F s x} (h : Writes F s x) : Writes F s (State.ppsRebase x) := by
  unfold State.ppsRebase
  repeat' first
    | with_reducible assumption
    | intro _ _
    | intro _
    | with_reducible apply Writes.choose
    | split
    | dsimp only
    | with_reducible apply Writes.upd

theorem State.ppsCtrl_writes {F s x} {a1} (h : Writes F s x) : Writes F s (State.ppsCtrl x a1) := by
  unfold State.ppsCtrl
  repeat' first
    | with_reducible assumption
    | intro _ _
    | intro _
    | with_reducible apply Writes.choose
    | with_reducible apply State.when_writes
    | with_reducible apply State.when_writes
    | with_reducible apply State.ppsRebase_writes
    | split
    | dsimp only
    | with_reducible apply Writes.upd

theorem State.ppsPulse_writes {F s x} (h : Writes F s x) : Writes F s (State.ppsPulse x) := by
  unfold State.ppsPulse
  repeat' first
    | with_reducible assumption
    | intro _ _
    | intro _
    | split
    | dsimp only
    | with_reducible apply Writes.upd

theorem State.ppsOut_writes {F s x} (h : Writes F s x) : Writes F s (State.ppsOut x) := by
  unfold State.ppsOut
  repeat' first
    | with_reducible assumption
    | intro _ _
    | intro _
    | with_reducible apply Writes.choose
    | with_reducible apply State.ppsCancel_writes
    | with_reducible apply State.ppsPulse_writes
    | split
    | dsimp only
    | with_reducible apply Writes.upd

theorem State.afterJump_writes {F s x}
    (h : Writes F s x) (w : [1, 2, 256, 260, 261, 265, 266, 267, 268, 270, 1284, 1285, 2572, 2573, 2574, 2858, 2859, 2865, 2866, 3094, 3096, 3123, 3124, 3125, 3584, 3585, 3586, 3596, 3601, 3607, 4907] ⊆ F := by exact subTrans (by assumption) (by decide)) :
    Writes F s (State.afterJump x) := by
  unfold State.afterJump
  repeat' first
    | with_reducible assumption
    | exact subTrans w (by decide)
    | intro _ _
    | intro _
    | with_reducible apply Writes.upTo
    | with_reducible apply State.gatesRelocate_writes
    | with_reducible apply State.trigStepped_writes
    | with_reducible apply State.ppsRebase_writes

theorem State.timeSet_writes {F s x}
    (h : Writes F s x) (w : [1, 2, 256, 260, 261, 265, 266, 267, 268, 270, 1284, 1285, 2572, 2573, 2574, 2816, 2817, 2833, 2834, 2835, 2836, 2858, 2859, 2865, 2866, 3094, 3096, 3123, 3124, 3125, 3584, 3585, 3586, 3596, 3601, 3607, 4907] ⊆ F := by exact subTrans (by assumption) (by decide)) :
    Writes F s (State.timeSet x) := by
  unfold State.timeSet
  repeat' first
    | with_reducible assumption
    | exact subTrans w (by decide)
    | intro _ _
    | intro _
    | with_reducible apply State.setB_writes
    | with_reducible apply State.setOff_writes
    | with_reducible apply State.timeUpdate_writes
    | with_reducible apply State.trigsDue_writes
    | with_reducible apply State.afterJump_writes
    | with_reducible exact Has.TIME_TOD_VALID (subTrans w (by decide))

theorem State.timeStep_writes {F s x}
    (h : Writes F s x) (w : [1, 2, 256, 260, 261, 265, 266, 267, 268, 270, 1284, 1285, 2572, 2573, 2574, 2816, 2817, 2823, 2833, 2834, 2835, 2836, 2858, 2859, 2865, 2866, 3094, 3096, 3123, 3124, 3125, 3584, 3585, 3586, 3596, 3601, 3607, 4907] ⊆ F := by exact subTrans (by assumption) (by decide)) :
    Writes F s (State.timeStep x) := by
  unfold State.timeStep
  repeat' first
    | with_reducible assumption
    | exact subTrans w (by decide)
    | intro _ _
    | intro _
    | with_reducible apply Writes.choose
    | with_reducible apply State.setB_writes
    | with_reducible apply State.timeEvent_writes
    | with_reducible apply State.setOff_writes
    | with_reducible apply State.timeUpdate_writes
    | with_reducible apply State.trigsDue_writes
    | with_reducible apply State.afterJump_writes
    | with_reducible exact Has.TIME_TOD_VALID (subTrans w (by decide))
    | with_reducible exact Has.TIME_STEP_ERR (subTrans w (by decide))

theorem State.timeSnapshot_writes {F s x}
    (h : Writes F s x) (w : [2837, 2838, 2839, 2840] ⊆ F := by exact subTrans (by assumption) (by decide)) :
    Writes F s (State.timeSnapshot x) := by
  unfold State.timeSnapshot
  repeat' first
    | with_reducible assumption
    | exact subTrans w (by decide)
    | intro _ _
    | intro _
    | with_reducible apply State.set_writes
    | with_reducible exact Has.TIME_SNAP_FRC (subTrans w (by decide))
    | with_reducible exact Has.TIME_SNAP_SEC (subTrans w (by decide))
    | with_reducible exact Has.TIME_SNAP_NS (subTrans w (by decide))
    | with_reducible exact Has.TIME_SNAP_FRAC (subTrans w (by decide))

theorem State.rateCommit_writes {F s x} {a1}
    (h : Writes F s x) (w : [1, 2, 256, 260, 261, 265, 266, 267, 268, 270, 1284, 1285, 2572, 2573, 2574, 2817, 2831, 2833, 2834, 2835, 2836, 2858, 2859, 2866, 3094, 3096, 3123, 3124, 3125, 3584, 3585, 3586, 3596, 3601, 3607, 4907] ⊆ F := by exact subTrans (by assumption) (by decide)) :
    Writes F s (State.rateCommit x a1) := by
  unfold State.rateCommit
  repeat' first
    | with_reducible assumption
    | exact subTrans w (by decide)
    | intro _ _
    | intro _
    | with_reducible apply State.set_writes
    | with_reducible apply State.setOff_writes
    | with_reducible apply State.timeUpdate_writes
    | with_reducible apply State.trigsDue_writes
    | with_reducible exact Has.TIME_RATE (subTrans w (by decide))
    | split
    | dsimp only
    | with_reducible apply Writes.upd

theorem State.holdover_writes {F s x} (h : Writes F s x) (w : [2817, 2820, 4907] ⊆ F := by exact subTrans (by assumption) (by decide)) :
    Writes F s (State.holdover x) := by
  unfold State.holdover
  repeat' first
    | with_reducible assumption
    | exact subTrans w (by decide)
    | intro _ _
    | intro _
    | with_reducible apply Writes.choose
    | with_reducible apply State.setB_writes
    | with_reducible apply State.timeEvent_writes
    | with_reducible apply State.fault_writes
    | with_reducible exact Has.TIME_HOLDOVER (subTrans w (by decide))
    | with_reducible exact Has.TIME_HOLDOVER_EVT (subTrans w (by decide))

theorem State.refclkLost_writes {F s x} (h : Writes F s x) (w : [2818, 2821, 4907] ⊆ F := by exact subTrans (by assumption) (by decide)) :
    Writes F s (State.refclkLost x) := by
  unfold State.refclkLost
  repeat' first
    | with_reducible assumption
    | exact subTrans w (by decide)
    | intro _ _
    | intro _
    | with_reducible apply Writes.choose
    | with_reducible apply State.setB_writes
    | with_reducible apply State.timeEvent_writes
    | with_reducible apply State.fault_writes
    | with_reducible exact Has.TIME_REFCLK_LOST (subTrans w (by decide))
    | with_reducible exact Has.TIME_REFCLK_LOST_EVT (subTrans w (by decide))

theorem State.pinCapture_writes {F s x} {a1 a2}
    (h : Writes F s x) (w : [1, 2, 2819, 2822, 2842, 2843, 2844, 2845, 3584, 3585, 3586, 3596, 3601, 3607, 4881, 4885, 4907] ⊆ F := by exact subTrans (by assumption) (by decide)) :
    Writes F s (State.pinCapture x a1 a2) := by
  unfold State.pinCapture
  repeat' first
    | with_reducible assumption
    | exact subTrans w (by decide)
    | intro _ _
    | intro _
    | with_reducible apply Writes.choose
    | with_reducible apply State.set_writes
    | with_reducible apply State.setB_writes
    | with_reducible apply State.inc_writes
    | with_reducible apply State.incWrap_writes
    | with_reducible apply State.eventBit_writes
    | with_reducible apply State.phaseSelect_writes
    | with_reducible exact Has.TIME_PPS_ABSENT (subTrans w (by decide))
    | with_reducible exact Has.TIME_CAPTURE_EVT (subTrans w (by decide))
    | with_reducible exact Has.TIME_C_COUNT (subTrans w (by decide))
    | with_reducible exact Has.TIME_C_CAP_SEC (subTrans w (by decide))
    | with_reducible exact Has.TIME_C_CAP_NS (subTrans w (by decide))
    | with_reducible exact Has.TIME_C_CAP_FRAC (subTrans w (by decide))
    | with_reducible exact Has.GLB_PIN_LEVEL (subTrans w (by decide))
    | with_reducible exact Has.GLB_PIN_EXCESS (subTrans w (by decide))
    | split
    | dsimp only
    | with_reducible apply Writes.upd

/-! ### Machine/Startup.lean -/

theorem State.freshNonce_writes {F s x} (h : Writes F s x) : Writes F s (State.freshNonce x) := by
  unfold State.freshNonce
  repeat' first
    | with_reducible assumption
    | intro _ _
    | intro _
    | with_reducible apply State.draw_writes
    | split
    | dsimp only
    | with_reducible apply Writes.upd

theorem State.discardAll_writes {F s x}
    (h : Writes F s x) (w : [283, 2323, 2331, 2332, 2333, 2334, 2360, 2362, 2363, 2364, 2365, 3076, 3083, 3084, 3085, 3104, 3110, 3113, 3114, 3123, 3125, 4907] ⊆ F := by exact subTrans (by assumption) (by decide)) :
    Writes F s (State.discardAll x) := by
  unfold State.discardAll
  repeat' first
    | with_reducible assumption
    | exact subTrans w (by decide)
    | intro _ _
    | intro _
    | with_reducible apply State.xoffEval_writes
    | with_reducible apply State.discardPackets_writes

theorem State.moduleSafe_writes {F s x}
    (h : Writes F s x) (w : [283, 520, 521, 522, 523, 540, 775, 776, 784, 785, 788, 819, 823, 2323, 2325, 2331, 2332, 2333, 2334, 2360, 2362, 2363, 2364, 2365, 2569, 2584, 2586, 3076, 3083, 3084, 3085, 3104, 3110, 3113, 3114, 3123, 3125, 4100, 4907] ⊆ F := by exact subTrans (by assumption) (by decide)) :
    Writes F s (State.moduleSafe x) := by
  unfold State.moduleSafe
  repeat' first
    | with_reducible assumption
    | exact subTrans w (by decide)
    | intro _ _
    | intro _
    | with_reducible apply Writes.foldl
    | with_reducible apply Writes.foldl_snd
    | with_reducible apply Writes.foldl_fst
    | with_reducible apply Writes.foldl_third
    | with_reducible apply State.setB_writes
    | with_reducible apply State.portSafe_writes
    | with_reducible apply State.discardAll_writes
    | with_reducible exact Has.FLT_MODULE_SAFE (subTrans w (by decide))

theorem State.trigRecApply_writes {F s x} {a1}
    (h : Writes F s x) (w : [2855, 2856, 2858, 2860, 2862, 2863, 2864] ⊆ F := by exact subTrans (by assumption) (by decide)) :
    Writes F s (State.trigRecApply x a1) := by
  unfold State.trigRecApply
  repeat' first
    | with_reducible assumption
    | exact subTrans w (by decide)
    | intro _ _
    | intro _
    | with_reducible apply State.when_writes
    | with_reducible apply State.set_writes
    | with_reducible apply State.setB_writes
    | with_reducible apply State.when_writes
    | with_reducible apply State.trigArm_writes
    | with_reducible exact Has.TIME_T_EN (subTrans w (by decide))
    | with_reducible exact Has.TIME_T_PERIODIC (subTrans w (by decide))
    | with_reducible exact Has.TIME_T_PERIOD (subTrans w (by decide))
    | with_reducible exact Has.TIME_T_TIME_SEC (subTrans w (by decide))
    | with_reducible exact Has.TIME_T_TIME_NS (subTrans w (by decide))

theorem State.gateRecApply_writes {F s x} {a1}
    (h : Writes F s x) (w : [2570, 2571, 2574, 2576, 2577, 2578, 2579, 2580] ⊆ F := by exact subTrans (by assumption) (by decide)) :
    Writes F s (State.gateRecApply x a1) := by
  unfold State.gateRecApply
  repeat' first
    | with_reducible assumption
    | exact subTrans w (by decide)
    | intro _ _
    | intro _
    | with_reducible apply State.when_writes
    | with_reducible apply State.set_writes
    | with_reducible apply State.setB_writes
    | with_reducible apply State.when_writes
    | with_reducible apply State.configChange_writes
    | with_reducible apply State.fill_writes
    | with_reducible exact Has.QSCH_GATE_EN (subTrans w (by decide))
    | with_reducible exact Has.QSCH_ADMIN_LIST (subTrans w (by decide))
    | with_reducible exact Has.QSCH_ADMIN_LEN (subTrans w (by decide))
    | with_reducible exact Has.QSCH_ADMIN_CYCLE (subTrans w (by decide))
    | with_reducible exact Has.QSCH_ADMIN_BASE_NS (subTrans w (by decide))
    | with_reducible exact Has.QSCH_ADMIN_BASE_SEC (subTrans w (by decide))

theorem State.timingApply_writes {F s x}
    (h : Writes F s x) (w : [2570, 2571, 2573, 2574, 2576, 2577, 2578, 2579, 2580, 2855, 2856, 2858, 2860, 2862, 2863, 2864] ⊆ F := by exact subTrans (by assumption) (by decide)) :
    Writes F s (State.timingApply x) := by
  unfold State.timingApply
  repeat' first
    | with_reducible assumption
    | exact subTrans w (by decide)
    | intro _ _
    | intro _
    | with_reducible apply Writes.foldl
    | with_reducible apply Writes.foldl_snd
    | with_reducible apply Writes.foldl_fst
    | with_reducible apply Writes.foldl_third
    | with_reducible apply Writes.upTo
    | with_reducible apply State.setB_writes
    | with_reducible apply State.memZero_writes
    | with_reducible apply State.trigDisarm_writes
    | with_reducible apply State.trigRecApply_writes
    | with_reducible apply State.gateRecApply_writes
    | with_reducible exact Has.QSCH_GATE_EN (subTrans w (by decide))
    | with_reducible exact Has.QSCH_OPER_VALID (subTrans w (by decide))
    | with_reducible exact Has.QSCH_CONFIG_PENDING (subTrans w (by decide))
    | split
    | dsimp only
    | with_reducible apply Writes.upd

theorem State.resetRun_writes {F s x} {a1}
    (h : Writes F s x) (w : [283, 518, 520, 521, 522, 523, 524, 525, 526, 527, 540, 775, 776, 777, 778, 779, 780, 781, 783, 784, 785, 788, 798, 812, 819, 823, 2323, 2325, 2331, 2332, 2333, 2334, 2360, 2362, 2363, 2364, 2365, 2569, 2584, 2586, 3076, 3083, 3084, 3085, 3104, 3110, 3113, 3114, 3123, 3125, 4120, 4907] ⊆ F := by exact subTrans (by assumption) (by decide)) :
    Writes F s (State.resetRun x a1) := by
  unfold State.resetRun
  repeat' first
    | with_reducible assumption
    | exact subTrans w (by decide)
    | intro _ _
    | intro _
    | with_reducible apply State.portReset_writes
    | with_reducible apply State.pipeReset_writes
    | split

theorem State.resetWaiting_writes {F s x}
    (h : Writes F s x) (w : [283, 518, 520, 521, 522, 523, 524, 525, 526, 527, 540, 775, 776, 777, 778, 779, 780, 781, 783, 784, 785, 788, 798, 812, 819, 823, 2323, 2325, 2331, 2332, 2333, 2334, 2360, 2362, 2363, 2364, 2365, 2569, 2584, 2586, 3076, 3083, 3084, 3085, 3104, 3110, 3113, 3114, 3123, 3125, 4120, 4879, 4907] ⊆ F := by exact subTrans (by assumption) (by decide)) :
    Writes F s (State.resetWaiting x) := by
  unfold State.resetWaiting
  repeat' first
    | with_reducible assumption
    | exact subTrans w (by decide)
    | intro _ _
    | intro _
    | with_reducible apply Writes.foldl
    | with_reducible apply Writes.foldl_snd
    | with_reducible apply Writes.foldl_fst
    | with_reducible apply Writes.foldl_third
    | with_reducible apply State.setB_writes
    | with_reducible apply State.resetRun_writes
    | with_reducible exact Has.GLB_BUSY (subTrans w (by decide))
    | split
    | dsimp only
    | with_reducible apply Writes.upd

theorem State.bootOn_writes {F s x}
    (h : Writes F s x) (w : [10, 256, 273, 274, 275, 276, 277, 2344, 2345, 4867, 4868, 4869, 4870, 4872] ⊆ F := by exact subTrans (by assumption) (by decide)) :
    Writes F s (State.bootOn x) := by
  unfold State.bootOn
  repeat' first
    | with_reducible assumption
    | exact subTrans w (by decide)
    | intro _ _
    | intro _
    | with_reducible apply Writes.choose
    | with_reducible apply State.set_writes
    | with_reducible apply State.storeSense_writes
    | with_reducible apply State.bootTry_writes
    | with_reducible exact Has.IMG_BOOT_PREF (subTrans w (by decide))
    | with_reducible exact Has.GLB_RESULT_FIRST (subTrans w (by decide))
    | with_reducible exact Has.GLB_RESULT_SECOND (subTrans w (by decide))
    | with_reducible exact Has.GLB_FIRST_BANK (subTrans w (by decide))
    | with_reducible exact Has.GLB_STEP (subTrans w (by decide))
    | split
    | dsimp only
    | with_reducible apply Writes.upd

theorem State.softFinish_writes {F s x}
    (h : Writes F s x) (w : [10, 256, 273, 274, 275, 276, 277, 2344, 2345, 4867, 4868, 4869, 4870, 4872] ⊆ F := by exact subTrans (by assumption) (by decide)) :
    Writes F s (State.softFinish x) := by
  unfold State.softFinish
  repeat' first
    | with_reducible assumption
    | exact subTrans w (by decide)
    | intro _ _
    | intro _
    | with_reducible apply Writes.choose
    | with_reducible apply State.bootOn_writes

theorem State.tick_writes {F s x}
    (h : Writes F s x) (w : [10, 256, 273, 274, 275, 276, 277, 2344, 2345, 2825, 4867, 4868, 4869, 4870, 4872] ⊆ F := by exact subTrans (by assumption) (by decide)) :
    Writes F s (State.tick x) := by
  unfold State.tick
  repeat' first
    | with_reducible assumption
    | exact subTrans w (by decide)
    | intro _ _
    | intro _
    | with_reducible apply Writes.choose
    | with_reducible apply State.when_writes
    | with_reducible apply State.incWrap_writes
    | with_reducible apply State.when_writes
    | with_reducible apply State.softFinish_writes
    | with_reducible exact Has.TIME_FRC (subTrans w (by decide))

theorem State.resetAssert_writes {F s x}
    (h : Writes F s x) (w : [283, 2323, 2331, 2332, 2333, 2334, 2360, 2362, 2363, 2364, 2365, 3076, 3083, 3084, 3085, 3104, 3110, 3113, 3114, 3123, 3125, 4881, 4885, 4907] ⊆ F := by exact subTrans (by assumption) (by decide)) :
    Writes F s (State.resetAssert x) := by
  unfold State.resetAssert
  repeat' first
    | with_reducible assumption
    | exact subTrans w (by decide)
    | intro _ _
    | intro _
    | with_reducible apply Writes.choose
    | with_reducible apply State.setB_writes
    | with_reducible apply State.inc_writes
    | with_reducible apply State.linesOff_writes
    | with_reducible apply State.discardAll_writes
    | with_reducible exact Has.GLB_PIN_LEVEL (subTrans w (by decide))
    | with_reducible exact Has.GLB_PIN_EXCESS (subTrans w (by decide))
    | split
    | dsimp only
    | with_reducible apply Writes.upd

theorem State.resetRequest_writes {F s x} {a1}
    (h : Writes F s x) (w : [283, 518, 520, 521, 522, 523, 524, 525, 526, 527, 540, 775, 776, 777, 778, 779, 780, 781, 783, 784, 785, 788, 798, 812, 819, 823, 2323, 2325, 2331, 2332, 2333, 2334, 2360, 2362, 2363, 2364, 2365, 2569, 2584, 2586, 3076, 3083, 3084, 3085, 3104, 3110, 3113, 3114, 3123, 3125, 4120, 4879, 4880, 4907] ⊆ F := by exact subTrans (by assumption) (by decide)) :
    Writes F s (State.resetRequest x a1) := by
  unfold State.resetRequest
  repeat' first
    | with_reducible assumption
    | exact subTrans w (by decide)
    | intro _ _
    | intro _
    | with_reducible apply Writes.choose
    | with_reducible apply State.setB_writes
    | with_reducible apply State.resetRun_writes
    | with_reducible exact Has.GLB_BUSY (subTrans w (by decide))
    | with_reducible exact Has.GLB_IGNORED (subTrans w (by decide))
    | split
    | dsimp only
    | with_reducible apply Writes.upd

theorem State.pipeGo_writes {F s x} {a1}
    (h : Writes F s x) (w : [283, 518, 520, 521, 522, 523, 524, 525, 526, 527, 540, 775, 776, 777, 778, 779, 780, 781, 783, 784, 785, 788, 798, 812, 819, 823, 2323, 2325, 2331, 2332, 2333, 2334, 2360, 2362, 2363, 2364, 2365, 2569, 2584, 2586, 3076, 3083, 3084, 3085, 3104, 3110, 3113, 3114, 3123, 3125, 4120, 4879, 4880, 4907] ⊆ F := by exact subTrans (by assumption) (by decide)) :
    Writes F s (State.pipeGo x a1) := by
  unfold State.pipeGo
  repeat' first
    | with_reducible assumption
    | exact subTrans w (by decide)
    | intro _ _
    | intro _
    | with_reducible apply State.when_writes
    | with_reducible apply State.when_writes
    | with_reducible apply State.resetRequest_writes

theorem State.portGo_writes {F s x} {a1}
    (h : Writes F s x) (w : [283, 518, 520, 521, 522, 523, 524, 525, 526, 527, 540, 775, 776, 777, 778, 779, 780, 781, 783, 784, 785, 788, 798, 812, 819, 823, 2323, 2325, 2331, 2332, 2333, 2334, 2360, 2362, 2363, 2364, 2365, 2569, 2584, 2586, 3076, 3083, 3084, 3085, 3104, 3110, 3113, 3114, 3123, 3125, 4120, 4879, 4880, 4907] ⊆ F := by exact subTrans (by assumption) (by decide)) :
    Writes F s (State.portGo x a1) := by
  unfold State.portGo
  repeat' first
    | with_reducible assumption
    | exact subTrans w (by decide)
    | intro _ _
    | intro _
    | with_reducible apply Writes.choose
    | with_reducible apply State.when_writes
    | with_reducible apply State.setB_writes
    | with_reducible apply State.when_writes
    | with_reducible apply State.resetRequest_writes
    | with_reducible exact Has.GLB_IGNORED (subTrans w (by decide))

theorem State.inputStuck_writes {F s x} {a1}
    (h : Writes F s x) (w : [4881, 4882, 4883, 4907] ⊆ F := by exact subTrans (by assumption) (by decide)) :
    Writes F s (State.inputStuck x a1) := by
  unfold State.inputStuck
  repeat' first
    | with_reducible assumption
    | exact subTrans w (by decide)
    | intro _ _
    | intro _
    | with_reducible apply Writes.choose
    | with_reducible apply State.setB_writes
    | with_reducible apply State.event_writes
    | with_reducible apply State.fault_writes
    | with_reducible exact Has.GLB_PIN_LEVEL (subTrans w (by decide))
    | with_reducible exact Has.GLB_PIN_STUCK (subTrans w (by decide))
    | with_reducible exact Has.GLB_PIN_STUCK_EVT (subTrans w (by decide))
    | split

theorem State.inputUnstuck_writes {F s x} {a1} (h : Writes F s x) (w : [4881, 4882] ⊆ F := by exact subTrans (by assumption) (by decide)) :
    Writes F s (State.inputUnstuck x a1) := by
  unfold State.inputUnstuck
  repeat' first
    | with_reducible assumption
    | exact subTrans w (by decide)
    | intro _ _
    | intro _
    | with_reducible apply Writes.choose
    | with_reducible apply State.setB_writes
    | with_reducible exact Has.GLB_PIN_LEVEL (subTrans w (by decide))
    | with_reducible exact Has.GLB_PIN_STUCK (subTrans w (by decide))
    | split
    | dsimp only
    | with_reducible apply Writes.upd

theorem State.pfailRecords_writes {F s x} {a1} (h : Writes F s x) (w : [3848, 3868] ⊆ F := by exact subTrans (by assumption) (by decide)) :
    Writes F s (State.pfailRecords x a1) := by
  unfold State.pfailRecords
  repeat' first
    | with_reducible assumption
    | exact subTrans w (by decide)
    | intro _ _
    | intro _
    | with_reducible apply State.when_writes
    | with_reducible apply Writes.upTo
    | with_reducible apply State.when_writes
    | with_reducible apply State.journalWrite_writes

theorem State.powerFail_writes {F s x} {a1 a2}
    (h : Writes F s x) (w : [1, 2, 256, 258, 265, 266, 267, 268, 270, 283, 520, 521, 522, 523, 540, 775, 776, 784, 785, 788, 819, 823, 2323, 2325, 2331, 2332, 2333, 2334, 2340, 2360, 2362, 2363, 2364, 2365, 2569, 2584, 2586, 3076, 3083, 3084, 3085, 3104, 3110, 3113, 3114, 3123, 3125, 3339, 3368, 3369, 3370, 3376, 3585, 3592, 3601, 3844, 3845, 3846, 3847, 3848, 3849, 3851, 3852, 3853, 3854, 3855, 3856, 3858, 3868, 4612, 4613, 4615, 4616, 4907] ⊆ F := by exact subTrans (by assumption) (by decide)) :
    Writes F s (State.powerFail x a1 a2) := by
  unfold State.powerFail
  repeat' first
    | with_reducible assumption
    | exact subTrans w (by decide)
    | intro _ _
    | intro _
    | with_reducible apply State.setB_writes
    | with_reducible apply State.retarget_writes
    | with_reducible apply State.assayStop_writes
    | with_reducible apply State.hoursCommit_writes
    | with_reducible apply State.anvilOwn_writes
    | with_reducible apply State.ringsStop_writes
    | with_reducible apply State.migrationAbandon_writes
    | with_reducible apply State.allPortsDisabled_writes
    | with_reducible apply State.dmaLinkEnd_writes
    | with_reducible apply State.imgStoreAbort_writes
    | with_reducible apply State.pfailRecords_writes
    | with_reducible exact Has.PWR_PFAIL (subTrans w (by decide))
    | with_reducible exact Has.ANVL_PFAIL_COMMIT (subTrans w (by decide))
    | split
    | dsimp only
    | with_reducible apply Writes.upd

theorem State.powerFailEvent_writes {F s x} {a1 a2 a3}
    (h : Writes F s x) (w : [1, 2, 256, 258, 265, 266, 267, 268, 270, 283, 520, 521, 522, 523, 540, 775, 776, 784, 785, 788, 819, 823, 2323, 2325, 2331, 2332, 2333, 2334, 2340, 2360, 2362, 2363, 2364, 2365, 2569, 2584, 2586, 3076, 3083, 3084, 3085, 3104, 3110, 3113, 3114, 3123, 3125, 3339, 3368, 3369, 3370, 3376, 3585, 3592, 3601, 3844, 3845, 3846, 3847, 3848, 3849, 3851, 3852, 3853, 3854, 3855, 3856, 3858, 3868, 4612, 4613, 4615, 4616, 4881, 4885, 4907] ⊆ F := by exact subTrans (by assumption) (by decide)) :
    Writes F s (State.powerFailEvent x a1 a2 a3) := by
  unfold State.powerFailEvent
  repeat' first
    | with_reducible assumption
    | exact subTrans w (by decide)
    | intro _ _
    | intro _
    | with_reducible apply Writes.choose
    | with_reducible apply State.when_writes
    | with_reducible apply State.setB_writes
    | with_reducible apply State.inc_writes
    | with_reducible apply State.when_writes
    | with_reducible apply State.powerFail_writes
    | with_reducible exact Has.PWR_PFAIL (subTrans w (by decide))
    | with_reducible exact Has.GLB_PIN_LEVEL (subTrans w (by decide))
    | with_reducible exact Has.GLB_PIN_EXCESS (subTrans w (by decide))
    | split
    | dsimp only
    | with_reducible apply Writes.upd

/-! ### Machine/HostLink.lean -/

theorem State.linkEvent_writes {F s x}
    (h : Writes F s x) (w : [256, 265, 266, 267, 268, 270, 3368, 3369, 3370, 3376, 4907] ⊆ F := by exact subTrans (by assumption) (by decide)) :
    Writes F s (State.linkEvent x) := by
  unfold State.linkEvent
  repeat' first
    | with_reducible assumption
    | exact subTrans w (by decide)
    | intro _ _
    | intro _
    | with_reducible apply State.dmaLinkEnd_writes
    | with_reducible apply State.imgLinkEvent_writes

theorem State.pcieDown_writes {F s x}
    (h : Writes F s x) (w : [256, 265, 266, 267, 268, 270, 3330, 3331, 3332, 3333, 3368, 3369, 3370, 3376, 4907] ⊆ F := by exact subTrans (by assumption) (by decide)) :
    Writes F s (State.pcieDown x) := by
  unfold State.pcieDown
  repeat' first
    | with_reducible assumption
    | exact subTrans w (by decide)
    | intro _ _
    | intro _
    | with_reducible apply State.setB_writes
    | with_reducible apply State.hostEvent_writes
    | with_reducible apply State.linkEvent_writes
    | with_reducible exact Has.HOST_LINK_UP (subTrans w (by decide))
    | with_reducible exact Has.HOST_BUS_MASTER (subTrans w (by decide))
    | with_reducible exact Has.HOST_D3HOT (subTrans w (by decide))
    | with_reducible exact Has.HOST_LINK_DOWN_EVT (subTrans w (by decide))
    | split
    | dsimp only
    | with_reducible apply Writes.upd

theorem State.masterOff_writes {F s x}
    (h : Writes F s x) (w : [256, 265, 266, 267, 268, 270, 3331, 3368, 3369, 3370, 3376, 4907] ⊆ F := by exact subTrans (by assumption) (by decide)) :
    Writes F s (State.masterOff x) := by
  unfold State.masterOff
  repeat' first
    | with_reducible assumption
    | exact subTrans w (by decide)
    | intro _ _
    | intro _
    | with_reducible apply State.setB_writes
    | with_reducible apply State.linkEvent_writes
    | with_reducible exact Has.HOST_BUS_MASTER (subTrans w (by decide))

theorem State.d3Enter_writes {F s x}
    (h : Writes F s x) (w : [256, 265, 266, 267, 268, 270, 3332, 3368, 3369, 3370, 3376, 4907] ⊆ F := by exact subTrans (by assumption) (by decide)) :
    Writes F s (State.d3Enter x) := by
  unfold State.d3Enter
  repeat' first
    | with_reducible assumption
    | exact subTrans w (by decide)
    | intro _ _
    | intro _
    | with_reducible apply State.setB_writes
    | with_reducible apply State.linkEvent_writes
    | with_reducible exact Has.HOST_D3HOT (subTrans w (by decide))

theorem State.cfgMaster_writes {F s x} {a1}
    (h : Writes F s x) (w : [256, 265, 266, 267, 268, 270, 3331, 3368, 3369, 3370, 3376, 4907] ⊆ F := by exact subTrans (by assumption) (by decide)) :
    Writes F s (State.cfgMaster x a1) := by
  unfold State.cfgMaster
  repeat' first
    | with_reducible assumption
    | exact subTrans w (by decide)
    | intro _ _
    | intro _
    | with_reducible apply Writes.choose
    | with_reducible apply State.when_writes
    | with_reducible apply State.setB_writes
    | with_reducible apply State.when_writes
    | with_reducible apply State.msixReleaseAll_writes
    | with_reducible apply State.masterOff_writes
    | with_reducible exact Has.HOST_BUS_MASTER (subTrans w (by decide))

theorem State.cfgPower_writes {F s x} {a1}
    (h : Writes F s x) (w : [256, 265, 266, 267, 268, 270, 3332, 3368, 3369, 3370, 3376, 4907] ⊆ F := by exact subTrans (by assumption) (by decide)) :
    Writes F s (State.cfgPower x a1) := by
  unfold State.cfgPower
  repeat' first
    | with_reducible assumption
    | exact subTrans w (by decide)
    | intro _ _
    | intro _
    | with_reducible apply Writes.choose
    | with_reducible apply State.when_writes
    | with_reducible apply State.setB_writes
    | with_reducible apply State.when_writes
    | with_reducible apply State.msixReleaseAll_writes
    | with_reducible apply State.d3Enter_writes
    | with_reducible exact Has.HOST_D3HOT (subTrans w (by decide))

theorem State.cfgMask_writes {F s x} {a1} (h : Writes F s x) : Writes F s (State.cfgMask x a1) := by
  unfold State.cfgMask
  repeat' first
    | with_reducible assumption
    | intro _ _
    | intro _
    | with_reducible apply State.msixReleaseAll_writes
    | split
    | dsimp only
    | with_reducible apply Writes.upd

theorem State.cfgWrite_writes {F s x} {a1 a2}
    (h : Writes F s x) (w : [256, 265, 266, 267, 268, 270, 3331, 3332, 3368, 3369, 3370, 3376, 4907] ⊆ F := by exact subTrans (by assumption) (by decide)) :
    Writes F s (State.cfgWrite x a1 a2) := by
  unfold State.cfgWrite
  repeat' first
    | with_reducible assumption
    | exact subTrans w (by decide)
    | intro _ _
    | intro _
    | with_reducible apply Writes.choose
    | with_reducible apply State.cfgStore_writes
    | with_reducible apply State.cfgMaster_writes
    | with_reducible apply State.cfgPower_writes
    | with_reducible apply State.cfgMask_writes

/-! ### Machine/Faults.lean -/

theorem State.recWords_writes {F s x} {a1 a2 a3 a4} (f1 : Has F a1) (h : Writes F s x) :
    Writes F s (State.recWords x a1 a2 a3 a4) := by
  unfold State.recWords
  repeat' first
    | with_reducible assumption
    | intro _ _
    | intro _
    | with_reducible apply Writes.choose
    | with_reducible apply Writes.upTo
    | with_reducible apply State.set_writes

theorem State.maskOpen_writes {F s x} {a1 a2 a3 a4} (h : Writes F s x) : Writes F s (State.maskOpen x a1 a2 a3 a4) := by
  unfold State.maskOpen
  repeat' first
    | with_reducible assumption
    | intro _ _
    | intro _
    | split
    | dsimp only
    | with_reducible apply Writes.upd

theorem State.recQueue_writes {F s x} {a1} (h : Writes F s x) (w : [4111] ⊆ F := by exact subTrans (by assumption) (by decide)) :
    Writes F s (State.recQueue x a1) := by
  unfold State.recQueue
  repeat' first
    | with_reducible assumption
    | exact subTrans w (by decide)
    | intro _ _
    | intro _
    | with_reducible apply Writes.choose
    | with_reducible apply State.inc_writes
    | with_reducible exact Has.FLT_LOST (subTrans w (by decide))
    | split
    | dsimp only
    | with_reducible apply Writes.upd

theorem State.firstCapture_writes {F s x} {a1} (h : Writes F s x) (w : [4097, 4119] ⊆ F := by exact subTrans (by assumption) (by decide)) :
    Writes F s (State.firstCapture x a1) := by
  unfold State.firstCapture
  repeat' first
    | with_reducible assumption
    | exact subTrans w (by decide)
    | intro _ _
    | intro _
    | with_reducible apply Writes.choose
    | with_reducible apply State.setB_writes
    | with_reducible apply State.recWords_writes
    | with_reducible exact Has.FLT_FIRST_VALID (subTrans w (by decide))
    | with_reducible exact Has.FLT_FIRST (subTrans w (by decide))

theorem State.escalate_writes {F s x} {a1} (h : Writes F s x) : Writes F s (State.escalate x a1).2.2 := by
  unfold State.escalate
  repeat' first
    | with_reducible assumption
    | intro _ _
    | intro _
    | with_reducible apply Writes.choose
    | split
    | dsimp only
    | with_reducible apply Writes.upd

theorem State.escalate_writesE {F s x} {a1} {r0 r1 t} (e : State.escalate x a1 = (r0, r1, t)) (h : Writes F s x) :
    Writes F s t := by
  have k := State.escalate_writes (F := F) (s := s) (x := x) (a1 := a1) h
  rwa [e] at k

theorem State.decideMasked_writes {F s x} {a1 a2 a3 a4}
    (h : Writes F s x) (w : [4096, 4111, 4136, 4137] ⊆ F := by exact subTrans (by assumption) (by decide)) :
    Writes F s (State.decideMasked x a1 a2 a3 a4) := by
  unfold State.decideMasked
  repeat' first
    | with_reducible assumption
    | exact subTrans w (by decide)
    | intro _ _
    | intro _
    | with_reducible apply Writes.choose
    | with_reducible apply State.set_writes
    | with_reducible apply State.inc_writes
    | with_reducible apply State.count_writes
    | with_reducible apply State.recQueue_writes
    | with_reducible exact Has.FLT_WORST (subTrans w (by decide))
    | with_reducible exact Has.FLT_S_EVENTS (subTrans w (by decide))
    | with_reducible exact Has.FLT_S_SUPPRESSED (subTrans w (by decide))
    | split
    | dsimp only
    | with_reducible apply Writes.upd

theorem State.faultInt_writes {F s x} (h : Writes F s x) (w : [4101] ⊆ F := by exact subTrans (by assumption) (by decide)) :
    Writes F s (State.faultInt x) := by
  unfold State.faultInt
  repeat' first
    | with_reducible assumption
    | exact subTrans w (by decide)
    | intro _ _
    | intro _
    | with_reducible apply Writes.choose
    | with_reducible apply State.setB_writes
    | with_reducible apply State.msixSend_writes
    | with_reducible exact Has.FLT_INT_PENDING (subTrans w (by decide))

theorem State.blockReset_writes {F s x} {a1 a2}
    (h : Writes F s x) (w : [283, 518, 520, 521, 522, 523, 524, 525, 526, 527, 540, 775, 776, 777, 778, 779, 780, 781, 783, 784, 785, 788, 798, 812, 819, 823, 2323, 2325, 2331, 2332, 2333, 2334, 2360, 2362, 2363, 2364, 2365, 2569, 2584, 2586, 3076, 3083, 3084, 3085, 3104, 3110, 3113, 3114, 3123, 3125, 4120, 4879, 4880, 4907] ⊆ F := by exact subTrans (by assumption) (by decide)) :
    Writes F s (State.blockReset x a1 a2) := by
  unfold State.blockReset
  repeat' first
    | with_reducible assumption
    | exact subTrans w (by decide)
    | intro _ _
    | intro _
    | with_reducible apply Writes.choose
    | with_reducible apply State.resetRequest_writes

theorem State.portSafeReact_writes {F s x} {a1}
    (h : Writes F s x) (w : [283, 520, 521, 522, 523, 540, 775, 776, 784, 785, 788, 819, 823, 2323, 2325, 2331, 2332, 2333, 2334, 2360, 2362, 2363, 2364, 2365, 2569, 2584, 2586, 3076, 3083, 3084, 3085, 3104, 3110, 3113, 3114, 3123, 3125, 4120, 4907] ⊆ F := by exact subTrans (by assumption) (by decide)) :
    Writes F s (State.portSafeReact x a1) := by
  unfold State.portSafeReact
  repeat' first
    | with_reducible assumption
    | exact subTrans w (by decide)
    | intro _ _
    | intro _
    | with_reducible apply Writes.choose
    | with_reducible apply State.setBit_writes
    | with_reducible apply State.portSafe_writes
    | with_reducible exact Has.FLT_PORT_SAFE (subTrans w (by decide))

theorem State.maskReact_writes {F s x} {a1 a2 a3 a4} (h : Writes F s x) : Writes F s (State.maskReact x a1 a2 a3 a4) := by
  unfold State.maskReact
  repeat' first
    | with_reducible assumption
    | intro _ _
    | intro _
    | with_reducible apply State.when_writes
    | with_reducible apply State.set_writes
    | with_reducible apply State.when_writes
    | with_reducible apply State.maskOpen_writes

theorem State.react_writes {F s x} {a1 a2 a3 a4}
    (h : Writes F s x) (w : [283, 518, 520, 521, 522, 523, 524, 525, 526, 527, 540, 775, 776, 777, 778, 779, 780, 781, 783, 784, 785, 788, 798, 812, 819, 823, 2323, 2325, 2331, 2332, 2333, 2334, 2360, 2362, 2363, 2364, 2365, 2569, 2584, 2586, 3076, 3083, 3084, 3085, 3104, 3110, 3113, 3114, 3123, 3125, 4098, 4099, 4100, 4101, 4120, 4879, 4880, 4907] ⊆ F := by exact subTrans (by assumption) (by decide)) :
    Writes F s (State.react x a1 a2 a3 a4) := by
  unfold State.react
  repeat' first
    | with_reducible assumption
    | exact subTrans w (by decide)
    | intro _ _
    | intro _
    | with_reducible apply State.when_writes
    | with_reducible apply State.set_writes
    | with_reducible apply State.setB_writes
    | with_reducible apply State.when_writes
    | with_reducible apply State.moduleSafe_writes
    | with_reducible apply State.faultInt_writes
    | with_reducible apply State.blockReset_writes
    | with_reducible apply State.portSafeReact_writes
    | with_reducible apply State.maskReact_writes
    | with_reducible exact Has.FLT_FAULT_ACTIVE (subTrans w (by decide))
    | with_reducible exact Has.FLT_ALIVE_STOPPED (subTrans w (by decide))
    | split
    | dsimp only
    | with_reducible apply Writes.upd

theorem State.decideOpen_writes {F s x} {a1 a2 a3}
    (h : Writes F s x) (w : [283, 518, 520, 521, 522, 523, 524, 525, 526, 527, 540, 775, 776, 777, 778, 779, 780, 781, 783, 784, 785, 788, 798, 812, 819, 823, 2323, 2325, 2331, 2332, 2333, 2334, 2360, 2362, 2363, 2364, 2365, 2569, 2584, 2586, 3076, 3083, 3084, 3085, 3104, 3110, 3113, 3114, 3123, 3125, 4096, 4097, 4098, 4099, 4100, 4101, 4111, 4119, 4120, 4136, 4879, 4880, 4907] ⊆ F := by exact subTrans (by assumption) (by decide)) :
    Writes F s (State.decideOpen x a1 a2 a3) := by
  unfold State.decideOpen
  repeat' first
    | with_reducible assumption
    | exact subTrans w (by decide)
    | intro _ _
    | intro _
    | with_reducible apply Writes.choose
    | with_reducible apply State.set_writes
    | with_reducible apply State.inc_writes
    | with_reducible apply State.count_writes
    | with_reducible apply State.recQueue_writes
    | with_reducible apply State.firstCapture_writes
    | with_reducible apply State.escalate_writes
    | with_reducible apply State.react_writes
    | refine State.escalate_writesE (by with_reducible assumption) ?_
    | with_reducible exact Has.FLT_WORST (subTrans w (by decide))
    | with_reducible exact Has.FLT_S_EVENTS (subTrans w (by decide))
    | split
    | dsimp only
    | with_reducible apply Writes.upd

theorem State.faultDecide_writes {F s x}
    (h : Writes F s x) (w : [283, 518, 520, 521, 522, 523, 524, 525, 526, 527, 540, 775, 776, 777, 778, 779, 780, 781, 783, 784, 785, 788, 798, 812, 819, 823, 2323, 2325, 2331, 2332, 2333, 2334, 2360, 2362, 2363, 2364, 2365, 2569, 2584, 2586, 3076, 3083, 3084, 3085, 3104, 3110, 3113, 3114, 3123, 3125, 4096, 4097, 4098, 4099, 4100, 4101, 4111, 4114, 4119, 4120, 4136, 4137, 4879, 4880, 4907] ⊆ F := by exact subTrans (by assumption) (by decide)) :
    Writes F s (State.faultDecide x) := by
  unfold State.faultDecide
  repeat' first
    | with_reducible assumption
    | exact subTrans w (by decide)
    | intro _ _
    | intro _
    | with_reducible apply State.incWrap_writes
    | with_reducible apply State.decideMasked_writes
    | with_reducible apply State.decideOpen_writes
    | with_reducible exact Has.FLT_SEQ (subTrans w (by decide))
    | split
    | dsimp only
    | with_reducible apply Writes.upd

theorem State.histWrite_writes {F s x} {a1} (h : Writes F s x) (w : [4115, 4116, 4121] ⊆ F := by exact subTrans (by assumption) (by decide)) :
    Writes F s (State.histWrite x a1) := by
  unfold State.histWrite
  repeat' first
    | with_reducible assumption
    | exact subTrans w (by decide)
    | intro _ _
    | intro _
    | with_reducible apply State.set_writes
    | with_reducible apply State.recWords_writes
    | with_reducible exact Has.FLT_HIST_HEAD (subTrans w (by decide))
    | with_reducible exact Has.FLT_HIST_COUNT (subTrans w (by decide))
    | with_reducible exact Has.FLT_HIST (subTrans w (by decide))

theorem State.ringRecord_writes {F s x} {a1}
    (h : Writes F s x) (w : [3345, 3346, 3349, 3354, 3355, 4112] ⊆ F := by exact subTrans (by assumption) (by decide)) :
    Writes F s (State.ringRecord x a1) := by
  unfold State.ringRecord
  repeat' first
    | with_reducible assumption
    | exact subTrans w (by decide)
    | intro _ _
    | intro _
    | with_reducible apply Writes.choose
    | with_reducible apply State.inc_writes
    | with_reducible apply State.eventRingWrite_writes
    | with_reducible apply State.take_writes
    | refine State.eventRingWrite_writesE (by with_reducible assumption) ?_
    | with_reducible exact Has.FLT_EVR_LOST (subTrans w (by decide))

theorem State.faultLine_writes {F s x} {a1 a2} (h : Writes F s x) (w : [3848, 3868] ⊆ F := by exact subTrans (by assumption) (by decide)) :
    Writes F s (State.faultLine x a1 a2) := by
  unfold State.faultLine
  repeat' first
    | with_reducible assumption
    | exact subTrans w (by decide)
    | intro _ _
    | intro _
    | with_reducible apply State.journalWrite_writes

theorem State.storeRecord_writes {F s x} {a1 a2}
    (h : Writes F s x) (w : [3848, 3868, 4113] ⊆ F := by exact subTrans (by assumption) (by decide)) :
    Writes F s (State.storeRecord x a1 a2) := by
  unfold State.storeRecord
  repeat' first
    | with_reducible assumption
    | exact subTrans w (by decide)
    | intro _ _
    | intro _
    | with_reducible apply Writes.choose
    | with_reducible apply State.inc_writes
    | with_reducible apply State.faultLine_writes
    | with_reducible exact Has.FLT_FLOG_LOST (subTrans w (by decide))
    | split
    | dsimp only
    | with_reducible apply Writes.upd

theorem State.faultRecord_writes {F s x} {a1}
    (h : Writes F s x) (w : [3110, 3113, 3114, 3123, 3125, 3345, 3346, 3349, 3354, 3355, 3848, 3868, 4112, 4113, 4115, 4116, 4121, 4907] ⊆ F := by exact subTrans (by assumption) (by decide)) :
    Writes F s (State.faultRecord x a1) := by
  unfold State.faultRecord
  repeat' first
    | with_reducible assumption
    | exact subTrans w (by decide)
    | intro _ _
    | intro _
    | with_reducible apply State.tally_writes
    | with_reducible apply State.histWrite_writes
    | with_reducible apply State.ringRecord_writes
    | with_reducible apply State.storeRecord_writes
    | split
    | dsimp only
    | with_reducible apply Writes.upd

theorem State.maskEnd_writes {F s x} (h : Writes F s x) : Writes F s (State.maskEnd x) := by
  unfold State.maskEnd
  repeat' first
    | with_reducible assumption
    | intro _ _
    | intro _
    | split
    | dsimp only
    | with_reducible apply Writes.upd

theorem State.portSafeRelease_writes {F s x} {a1}
    (h : Writes F s x) (w : [283, 520, 521, 522, 523, 540, 775, 776, 784, 785, 788, 819, 823, 2323, 2325, 2331, 2332, 2333, 2334, 2360, 2362, 2363, 2364, 2365, 2569, 2584, 2586, 3076, 3083, 3084, 3085, 3104, 3110, 3113, 3114, 3123, 3125, 4120, 4907] ⊆ F := by exact subTrans (by assumption) (by decide)) :
    Writes F s (State.portSafeRelease x a1) := by
  unfold State.portSafeRelease
  repeat' first
    | with_reducible assumption
    | exact subTrans w (by decide)
    | intro _ _
    | intro _
    | with_reducible apply Writes.choose
    | with_reducible apply State.clearBit_writes
    | with_reducible apply State.portLeaveSafe_writes
    | with_reducible exact Has.FLT_PORT_SAFE (subTrans w (by decide))

theorem State.injGate_writes {F s x} {a1} (h1 : ∀ y, Writes F s y → Writes F s (a1 y))
    (h : Writes F s x) (w : [4102] ⊆ F := by exact subTrans (by assumption) (by decide)) :
    Writes F s (State.injGate x a1) := by
  unfold State.injGate
  repeat' first
    | with_reducible assumption
    | exact subTrans w (by decide)
    | intro _ _
    | intro _
    | apply h1
    | with_reducible apply Writes.choose
    | with_reducible apply State.setB_writes
    | with_reducible exact Has.FLT_INJ_REFUSED (subTrans w (by decide))

theorem State.injEvent_writes {F s x} (h : Writes F s x) : Writes F s (State.injEvent x) := by
  unfold State.injEvent
  repeat' first
    | with_reducible assumption
    | intro _ _
    | intro _
    | split
    | dsimp only
    | with_reducible apply Writes.upd

theorem State.injMemory_writes {F s x} (h : Writes F s x) : Writes F s (State.injMemory x) := by
  unfold State.injMemory
  repeat' first
    | with_reducible assumption
    | intro _ _
    | intro _
    | with_reducible apply Writes.choose
    | split
    | dsimp only
    | with_reducible apply Writes.upd

theorem State.injLane_writes {F s x} (h : Writes F s x) : Writes F s (State.injLane x) := by
  unfold State.injLane
  repeat' first
    | with_reducible assumption
    | intro _ _
    | intro _
    | with_reducible apply Writes.choose
    | with_reducible apply State.laneInject_writes
    | split
    | dsimp only

theorem State.injGo_writes {F s x} (h : Writes F s x) (w : [4102] ⊆ F := by exact subTrans (by assumption) (by decide)) :
    Writes F s (State.injGo x) := by
  unfold State.injGo
  repeat' first
    | with_reducible assumption
    | exact subTrans w (by decide)
    | intro _ _
    | intro _
    | with_reducible apply State.injGate_writes
    | with_reducible apply State.injEvent_writes
    | with_reducible apply State.injMemory_writes
    | with_reducible apply State.injLane_writes
    | split

/-! ### Machine/Security.lean -/

theorem State.zeroMemories_writes {F s x} (h : Writes F s x) : Writes F s (State.zeroMemories x) := by
  unfold State.zeroMemories
  repeat' first
    | with_reducible assumption
    | intro _ _
    | intro _
    | with_reducible apply State.memZero_writes
    | split
    | dsimp only
    | with_reducible apply Writes.upd

theorem State.stopTraffic_writes {F s x}
    (h : Writes F s x) (w : [256, 265, 266, 267, 268, 270, 283, 520, 521, 522, 523, 540, 775, 776, 784, 785, 788, 819, 823, 2323, 2325, 2331, 2332, 2333, 2334, 2360, 2362, 2363, 2364, 2365, 2569, 2584, 2586, 3076, 3083, 3084, 3085, 3104, 3110, 3113, 3114, 3123, 3125, 3339, 3368, 3369, 3370, 3376, 4907] ⊆ F := by exact subTrans (by assumption) (by decide)) :
    Writes F s (State.stopTraffic x) := by
  unfold State.stopTraffic
  repeat' first
    | with_reducible assumption
    | exact subTrans w (by decide)
    | intro _ _
    | intro _
    | with_reducible apply State.ringsStop_writes
    | with_reducible apply State.allPortsDisabled_writes
    | with_reducible apply State.dmaLinkEnd_writes
    | with_reducible apply State.imgEndRunning_writes
    | with_reducible apply State.discardAll_writes

theorem State.milestEffect_writes {F s x} {a1 a2}
    (h : Writes F s x) (w : [12, 256, 257, 258, 259, 265, 266, 267, 268, 270, 283, 520, 521, 522, 523, 540, 768, 775, 776, 784, 785, 788, 819, 823, 2323, 2325, 2331, 2332, 2333, 2334, 2360, 2362, 2363, 2364, 2365, 2569, 2584, 2586, 2854, 3076, 3083, 3084, 3085, 3104, 3110, 3113, 3114, 3123, 3125, 3339, 3368, 3369, 3370, 3376, 4100, 4907] ⊆ F := by exact subTrans (by assumption) (by decide)) :
    Writes F s (State.milestEffect x a1 a2) := by
  unfold State.milestEffect
  repeat' first
    | with_reducible assumption
    | exact subTrans w (by decide)
    | intro _ _
    | intro _
    | with_reducible apply Writes.foldl
    | with_reducible apply Writes.foldl_snd
    | with_reducible apply Writes.foldl_fst
    | with_reducible apply Writes.foldl_third
    | with_reducible apply State.setB_writes
    | with_reducible apply State.imgUnload_writes
    | with_reducible apply State.zeroMemories_writes
    | with_reducible apply State.stopTraffic_writes
    | with_reducible exact Has.CORE_LOOP_EN (subTrans w (by decide))
    | with_reducible exact Has.PORT_ADMIN_UP (subTrans w (by decide))
    | with_reducible exact Has.FLT_MODULE_SAFE (subTrans w (by decide))
    | split
    | dsimp only
    | with_reducible apply Writes.upd

theorem State.milestEnd_writes {F s x} {a1 a2}
    (h : Writes F s x) (w : [4363, 4364, 4365, 4907] ⊆ F := by exact subTrans (by assumption) (by decide)) :
    Writes F s (State.milestEnd x a1 a2) := by
  unfold State.milestEnd
  repeat' first
    | with_reducible assumption
    | exact subTrans w (by decide)
    | intro _ _
    | intro _
    | with_reducible apply State.when_writes
    | with_reducible apply State.set_writes
    | with_reducible apply State.when_writes
    | with_reducible apply State.event_writes
    | with_reducible apply State.fault_writes
    | with_reducible apply State.freshNonce_writes
    | with_reducible exact Has.MIL_RESULT (subTrans w (by decide))
    | with_reducible exact Has.MIL_LAST_COMMAND (subTrans w (by decide))
    | with_reducible exact Has.MIL_DONE (subTrans w (by decide))

theorem State.milest_writes {F s x} {a1 a2}
    (h : Writes F s x) (w : [12, 256, 257, 258, 259, 265, 266, 267, 268, 270, 283, 520, 521, 522, 523, 540, 768, 775, 776, 784, 785, 788, 819, 823, 2323, 2325, 2331, 2332, 2333, 2334, 2360, 2362, 2363, 2364, 2365, 2569, 2584, 2586, 2854, 3076, 3083, 3084, 3085, 3104, 3110, 3113, 3114, 3123, 3125, 3339, 3368, 3369, 3370, 3376, 4100, 4363, 4364, 4365, 4907] ⊆ F := by exact subTrans (by assumption) (by decide)) :
    Writes F s (State.milest x a1 a2) := by
  unfold State.milest
  repeat' first
    | with_reducible assumption
    | exact subTrans w (by decide)
    | intro _ _
    | intro _
    | with_reducible apply Writes.choose
    | with_reducible apply State.milestEffect_writes
    | with_reducible apply State.milestEnd_writes

theorem State.milestRow_writes {F s x} {a1 a2 a3}
    (h : Writes F s x) (w : [12, 256, 257, 258, 259, 265, 266, 267, 268, 270, 283, 520, 521, 522, 523, 540, 768, 775, 776, 784, 785, 788, 819, 823, 2323, 2325, 2331, 2332, 2333, 2334, 2360, 2362, 2363, 2364, 2365, 2569, 2584, 2586, 2854, 3076, 3083, 3084, 3085, 3104, 3110, 3113, 3114, 3123, 3125, 3339, 3368, 3369, 3370, 3376, 4100, 4363, 4364, 4365, 4907] ⊆ F := by exact subTrans (by assumption) (by decide)) :
    Writes F s (State.milestRow x a1 a2 a3) := by
  unfold State.milestRow
  repeat' first
    | with_reducible assumption
    | exact subTrans w (by decide)
    | intro _ _
    | intro _
    | with_reducible apply Writes.choose
    | with_reducible apply State.milest_writes

theorem State.spdmAnswer_writes {F s x} {a1 a2 a3} (h3 : ∀ y, Writes F s y → Writes F s (a3 y)) (h : Writes F s x) :
    Writes F s (State.spdmAnswer x a1 a2 a3) := by
  unfold State.spdmAnswer
  repeat' first
    | with_reducible assumption
    | intro _ _
    | intro _
    | apply h3
    | with_reducible apply Writes.choose
    | with_reducible apply State.emit_writes

theorem State.jtagLoad_writes {F s x} {a1} (h : Writes F s x) : Writes F s (State.jtagLoad x a1) := by
  unfold State.jtagLoad
  repeat' first
    | with_reducible assumption
    | intro _ _
    | intro _
    | split
    | dsimp only
    | with_reducible apply Writes.upd

theorem State.jtagBypass_writes {F s x} (h : Writes F s x) : Writes F s (State.jtagBypass x) := by
  unfold State.jtagBypass
  repeat' first
    | with_reducible assumption
    | intro _ _
    | intro _
    | with_reducible apply State.emit_writes
    | with_reducible apply State.bypass_writes
    | with_reducible apply State.jtagLoad_writes

theorem State.jtagIr_writes {F s x} {a1 a2} (h2 : ∀ y, Writes F s y → Writes F s (a2 y)) (h : Writes F s x) :
    Writes F s (State.jtagIr x a1 a2) := by
  unfold State.jtagIr
  repeat' first
    | with_reducible assumption
    | intro _ _
    | intro _
    | apply h2
    | with_reducible apply Writes.choose
    | with_reducible apply State.when_writes
    | with_reducible apply State.when_writes
    | with_reducible apply State.jtagBypass_writes

theorem State.assayEnter_writes {F s x} {a1} (h : Writes F s x) (w : [4614] ⊆ F := by exact subTrans (by assumption) (by decide)) :
    Writes F s (State.assayEnter x a1) := by
  unfold State.assayEnter
  repeat' first
    | with_reducible assumption
    | exact subTrans w (by decide)
    | intro _ _
    | intro _
    | with_reducible apply Writes.choose
    | with_reducible apply Writes.foldl
    | with_reducible apply Writes.foldl_snd
    | with_reducible apply Writes.foldl_fst
    | with_reducible apply Writes.foldl_third
    | with_reducible apply State.set_writes
    | with_reducible apply State.draw_writes
    | with_reducible exact Has.ASY_CURRENT (subTrans w (by decide))
    | split
    | dsimp only
    | with_reducible apply Writes.upd

theorem State.assayStart_writes {F s x}
    (h : Writes F s x) (w : [1, 2, 256, 265, 266, 267, 268, 270, 283, 520, 521, 522, 523, 540, 775, 776, 784, 785, 788, 819, 823, 2323, 2325, 2331, 2332, 2333, 2334, 2360, 2362, 2363, 2364, 2365, 2569, 2584, 2586, 3076, 3083, 3084, 3085, 3104, 3110, 3113, 3114, 3123, 3125, 3339, 3368, 3369, 3370, 3376, 3585, 3601, 4612, 4613, 4614, 4620, 4621, 4622, 4623, 4624, 4907] ⊆ F := by exact subTrans (by assumption) (by decide)) :
    Writes F s (State.assayStart x) := by
  unfold State.assayStart
  repeat' first
    | with_reducible assumption
    | exact subTrans w (by decide)
    | intro _ _
    | intro _
    | with_reducible apply State.when_writes
    | with_reducible apply Writes.upTo
    | with_reducible apply State.set_writes
    | with_reducible apply State.setB_writes
    | with_reducible apply State.when_writes
    | with_reducible apply State.retarget_writes
    | with_reducible apply State.stopTraffic_writes
    | with_reducible apply State.assayEnter_writes
    | with_reducible exact Has.ASY_STATE (subTrans w (by decide))
    | with_reducible exact Has.ASY_REFUSAL (subTrans w (by decide))
    | with_reducible exact Has.ASY_LBUF_VALID (subTrans w (by decide))
    | with_reducible exact Has.ASY_FAILS (subTrans w (by decide))
    | with_reducible exact Has.ASY_REPAIRED (subTrans w (by decide))
    | with_reducible exact Has.ASY_UNREPAIRED (subTrans w (by decide))
    | with_reducible exact Has.ASY_SPARES_LEFT (subTrans w (by decide))
    | split
    | dsimp only
    | with_reducible apply Writes.upd

theorem State.assayGo_writes {F s x} {a1 a2}
    (h : Writes F s x) (w : [1, 2, 256, 265, 266, 267, 268, 270, 283, 520, 521, 522, 523, 540, 775, 776, 784, 785, 788, 819, 823, 2323, 2325, 2331, 2332, 2333, 2334, 2360, 2362, 2363, 2364, 2365, 2569, 2584, 2586, 3076, 3083, 3084, 3085, 3104, 3110, 3113, 3114, 3123, 3125, 3339, 3368, 3369, 3370, 3376, 3585, 3601, 4612, 4613, 4614, 4617, 4618, 4620, 4621, 4622, 4623, 4624, 4907] ⊆ F := by exact subTrans (by assumption) (by decide)) :
    Writes F s (State.assayGo x a1 a2) := by
  unfold State.assayGo
  repeat' first
    | with_reducible assumption
    | exact subTrans w (by decide)
    | intro _ _
    | intro _
    | with_reducible apply Writes.choose
    | with_reducible apply State.set_writes
    | with_reducible apply State.assayStart_writes
    | with_reducible exact Has.ASY_REFUSAL (subTrans w (by decide))
    | with_reducible exact Has.ASY_WORST_PPM (subTrans w (by decide))
    | with_reducible exact Has.ASY_WORST_CLK (subTrans w (by decide))

theorem State.unitLost_writes {F s y u} (h : Writes F s y.2)  : Writes F s (State.unitLost y u).2 :=
  State.fault_writes h

theorem State.unitFound_writes {F s t y u} (h : Writes F s y.2) (w : [2343] ⊆ F := by exact subTrans (by assumption) (by decide)) :
    Writes F s (State.unitFound t y u).2 := by
  unfold State.unitFound
  dsimp only
  split
  · split
    · exact State.migTrigger_writes h
    · exact State.unitLost_writes h
  · split
    · exact Writes.upd h
    · exact State.unitLost_writes h
  · exact State.unitLost_writes h

theorem State.assayCount_writes {F s x t l}
    (h : Writes F s x) (w : [2343, 4621, 4622, 4623, 4624] ⊆ F := by exact subTrans (by assumption) (by decide)) :
    Writes F s (State.assayCount x t l) := by
  have k : Writes F s (l.foldl (State.unitFound t) (({} : AssayTally), x)).2 :=
    Writes.foldl_snd (fun _ _ hy => State.unitFound_writes hy) h
  unfold State.assayCount
  exact State.set_writes Has.ASY_SPARES_LEFT (State.set_writes Has.ASY_UNREPAIRED
    (State.set_writes Has.ASY_REPAIRED (State.set_writes Has.ASY_FAILS k)))

theorem State.assayBuffer_writes {F s x} {a1 a2} (h : Writes F s x) (w : [4619, 4620] ⊆ F := by exact subTrans (by assumption) (by decide)) :
    Writes F s (State.assayBuffer x a1 a2) := by
  unfold State.assayBuffer
  repeat' first
    | with_reducible assumption
    | exact subTrans w (by decide)
    | intro _ _
    | intro _
    | with_reducible apply State.when_writes
    | with_reducible apply State.set_writes
    | with_reducible apply State.setB_writes
    | with_reducible apply State.when_writes
    | with_reducible apply State.draw_writes
    | with_reducible apply State.fault_writes
    | with_reducible exact Has.ASY_LBUF (subTrans w (by decide))
    | with_reducible exact Has.ASY_LBUF_VALID (subTrans w (by decide))

theorem State.assayTestDone_writes {F s x} {a1 a2 a3}
    (h : Writes F s x) (w : [1, 2, 258, 2343, 3585, 3601, 4612, 4614, 4615, 4619, 4620, 4621, 4622, 4623, 4624, 4907] ⊆ F := by exact subTrans (by assumption) (by decide)) :
    Writes F s (State.assayTestDone x a1 a2 a3) := by
  unfold State.assayTestDone
  repeat' first
    | with_reducible assumption
    | exact subTrans w (by decide)
    | intro _ _
    | intro _
    | with_reducible apply State.when_writes
    | with_reducible apply State.when_writes
    | with_reducible apply State.assayEnd_writes
    | with_reducible apply State.assayEnter_writes
    | with_reducible apply State.assayCount_writes
    | with_reducible apply State.assayBuffer_writes
    | split
    | dsimp only
    | with_reducible apply Writes.upd

theorem State.assayFail_writes {F s x} {a1}
    (h : Writes F s x) (w : [1, 2, 258, 3585, 3601, 4612, 4613, 4615, 4616, 4907] ⊆ F := by exact subTrans (by assumption) (by decide)) :
    Writes F s (State.assayFail x a1) := by
  unfold State.assayFail
  repeat' first
    | with_reducible assumption
    | exact subTrans w (by decide)
    | intro _ _
    | intro _
    | with_reducible apply State.when_writes
    | with_reducible apply State.when_writes
    | with_reducible apply State.assayStop_writes

/-! ### Machine/HostWrite.lean -/

theorem State.bucketBefore_writes {F s x} {a1 a2 a3} (h : Writes F s x) : Writes F s (State.bucketBefore x a1 a2 a3) := by
  unfold State.bucketBefore
  repeat' first
    | with_reducible assumption
    | intro _ _
    | intro _
    | with_reducible apply Writes.choose
    | with_reducible apply State.slowPut_writes
    | with_reducible apply State.learnPut_writes

theorem State.fieldWrite_writes {F s x} {a1 a2 a3 a4 a5} (f1 : Has F a1) (h : Writes F s x) :
    Writes F s (State.fieldWrite x a1 a2 a3 a4 a5) := by
  unfold State.fieldWrite
  repeat' first
    | with_reducible assumption
    | intro _ _
    | intro _
    | with_reducible apply Writes.choose
    | with_reducible apply State.set_writes
    | with_reducible apply State.bucketBefore_writes
    | split

theorem State.claspWord_writes {F s x} {a1 a2 a3 a4} (f1 : Has F a1) (f2 : Has F a2) (h : Writes F s x) :
    Writes F s (State.claspWord x a1 a2 a3 a4) := by
  unfold State.claspWord
  repeat' first
    | with_reducible assumption
    | intro _ _
    | intro _
    | with_reducible apply State.set_writes

theorem State.portCtrl_writes {F s x} {a1 a2}
    (h : Writes F s x) (w : [283, 520, 521, 522, 523, 540, 768, 771, 775, 776, 784, 785, 788, 819, 823, 831, 832, 833, 834, 835, 2323, 2325, 2331, 2332, 2333, 2334, 2360, 2362, 2363, 2364, 2365, 2569, 2584, 2586, 3076, 3083, 3084, 3085, 3104, 3110, 3113, 3114, 3123, 3125, 4907] ⊆ F := by exact subTrans (by assumption) (by decide)) :
    Writes F s (State.portCtrl x a1 a2) := by
  unfold State.portCtrl
  repeat' first
    | with_reducible assumption
    | exact subTrans w (by decide)
    | intro _ _
    | intro _
    | with_reducible apply Writes.choose
    | with_reducible apply State.when_writes
    | with_reducible apply State.when_writes
    | with_reducible apply State.adminUp_writes
    | with_reducible apply State.testMode_writes
    | with_reducible apply State.portRestart_writes
    | with_reducible apply State.fecClear_writes

theorem State.actLine_writes {F s x} {a1} (h : Writes F s x) : Writes F s (State.actLine x a1) := by
  unfold State.actLine
  repeat' first
    | with_reducible assumption
    | intro _ _
    | intro _
    | with_reducible apply State.lineSend_writes
    | with_reducible apply State.portLine_writes
    | split

theorem State.actPort_writes {F s x} {a1 a2}
    (h : Writes F s x) (w : [283, 518, 519, 520, 521, 522, 523, 524, 525, 526, 527, 540, 541, 542, 543, 544, 768, 771, 775, 776, 784, 785, 788, 819, 823, 831, 832, 833, 834, 835, 2323, 2325, 2331, 2332, 2333, 2334, 2360, 2362, 2363, 2364, 2365, 2569, 2584, 2586, 3076, 3083, 3084, 3085, 3104, 3110, 3113, 3114, 3123, 3125, 4907] ⊆ F := by exact subTrans (by assumption) (by decide)) :
    Writes F s (State.actPort x a1 a2) := by
  unfold State.actPort
  repeat' first
    | with_reducible assumption
    | exact subTrans w (by decide)
    | intro _ _
    | intro _
    | with_reducible apply State.when_writes
    | with_reducible apply State.when_writes
    | with_reducible apply State.ffeWrite_writes
    | with_reducible apply State.adaptRestart_writes
    | with_reducible apply State.chkClear_writes
    | with_reducible apply State.genInject_writes
    | with_reducible apply State.portCtrl_writes
    | with_reducible apply State.actLine_writes
    | with_reducible exact Has.LANE_PRE (subTrans w (by decide))
    | with_reducible exact Has.PORT_ADMIN_UP (subTrans w (by decide))
    | split

theorem State.actImage_writes {F s x} {a1 a2}
    (h : Writes F s x) (w : [256, 261, 265, 266, 267, 268, 269, 270, 273, 274, 275, 276, 277, 283, 286, 2323, 2331, 2332, 2333, 2334, 2360, 2362, 2363, 2364, 2365, 3076, 3083, 3084, 3085, 3104, 3110, 3113, 3114, 3123, 3125, 3848, 3868, 4907] ⊆ F := by exact subTrans (by assumption) (by decide)) :
    Writes F s (State.actImage x a1 a2) := by
  unfold State.actImage
  repeat' first
    | with_reducible assumption
    | exact subTrans w (by decide)
    | intro _ _
    | intro _
    | with_reducible apply Writes.choose
    | with_reducible apply State.when_writes
    | with_reducible apply State.when_writes
    | with_reducible apply State.bootPrefWrite_writes
    | with_reducible apply State.imgCommand_writes
    | with_reducible apply State.retireForce_writes
    | with_reducible apply State.imgAbort_writes

theorem State.actLookup_writes {F s x} {a1 a2}
    (h : Writes F s x) (w : [1541, 1543, 1544, 1545, 1546, 1548, 1549, 1565, 1566, 1794, 1795, 1796, 1797, 1798, 1799, 1805, 1807, 1809, 1810, 1811, 1812, 1813, 1814, 1815, 1816, 1817, 1818, 1819, 1829, 1830, 1831, 1832, 1833, 1837, 1838, 3110, 3113, 3114, 3123, 3125, 4907] ⊆ F := by exact subTrans (by assumption) (by decide)) :
    Writes F s (State.actLookup x a1 a2) := by
  unfold State.actLookup
  repeat' first
    | with_reducible assumption
    | exact subTrans w (by decide)
    | intro _ _
    | intro _
    | with_reducible apply Writes.choose
    | with_reducible apply State.emCommand_writes
    | with_reducible apply State.aseCommand_writes
    | with_reducible apply State.claspWord_writes
    | with_reducible exact Has.EM_REQ (subTrans w (by decide))
    | with_reducible exact Has.EM_HELD (subTrans w (by decide))
    | with_reducible exact Has.ASE_REQ (subTrans w (by decide))
    | with_reducible exact Has.ASE_HELD (subTrans w (by decide))
    | split

theorem State.gateCtrl_writes {F s x} {a1 a2}
    (h : Writes F s x) (w : [2570, 2573, 2574, 2576] ⊆ F := by exact subTrans (by assumption) (by decide)) :
    Writes F s (State.gateCtrl x a1 a2) := by
  unfold State.gateCtrl
  repeat' first
    | with_reducible assumption
    | exact subTrans w (by decide)
    | intro _ _
    | intro _
    | with_reducible apply Writes.choose
    | with_reducible apply State.when_writes
    | with_reducible apply State.setB_writes
    | with_reducible apply State.when_writes
    | with_reducible apply State.configChange_writes
    | with_reducible apply State.gateDisable_writes
    | with_reducible exact Has.QSCH_GATE_EN (subTrans w (by decide))

theorem State.actQueues_writes {F s x} {a1 a2}
    (h : Writes F s x) (w : [283, 2323, 2331, 2332, 2333, 2334, 2343, 2360, 2362, 2363, 2364, 2365, 2569, 2570, 2573, 2574, 2576, 2584, 2586, 3076, 3083, 3084, 3085, 3104, 3110, 3113, 3114, 3123, 3125, 4907] ⊆ F := by exact subTrans (by assumption) (by decide)) :
    Writes F s (State.actQueues x a1 a2) := by
  unfold State.actQueues
  repeat' first
    | with_reducible assumption
    | exact subTrans w (by decide)
    | intro _ _
    | intro _
    | with_reducible apply Writes.choose
    | with_reducible apply State.when_writes
    | with_reducible apply State.when_writes
    | with_reducible apply State.migrateCmd_writes
    | with_reducible apply State.holdExpire_writes
    | with_reducible apply State.gateCtrl_writes
    | with_reducible exact Has.QSCH_GATE_EN (subTrans w (by decide))
    | split

theorem State.actTime_writes {F s x} {a1 a2 a3}
    (h : Writes F s x) (w : [1, 2, 256, 260, 261, 265, 266, 267, 268, 270, 1284, 1285, 2572, 2573, 2574, 2816, 2817, 2823, 2833, 2834, 2835, 2836, 2837, 2838, 2839, 2840, 2854, 2858, 2859, 2860, 2865, 2866, 3094, 3096, 3123, 3124, 3125, 3584, 3585, 3586, 3596, 3601, 3607, 4907] ⊆ F := by exact subTrans (by assumption) (by decide)) :
    Writes F s (State.actTime x a1 a2 a3) := by
  unfold State.actTime
  repeat' first
    | with_reducible assumption
    | exact subTrans w (by decide)
    | intro _ _
    | intro _
    | with_reducible apply Writes.choose
    | with_reducible apply State.when_writes
    | with_reducible apply State.when_writes
    | with_reducible apply State.synceUpdate_writes
    | with_reducible apply State.trigArm_writes
    | with_reducible apply State.ppsCtrl_writes
    | with_reducible apply State.timeSet_writes
    | with_reducible apply State.timeStep_writes
    | with_reducible apply State.timeSnapshot_writes
    | split

theorem State.actTele_writes {F s x} {a1 a2}
    (h : Writes F s x) (w : [3087, 3094, 3095, 3096, 3101, 3106, 3107, 3108, 3109, 3110, 3111, 3113, 3123, 3124, 3125, 4907] ⊆ F := by exact subTrans (by assumption) (by decide)) :
    Writes F s (State.actTele x a1 a2) := by
  unfold State.actTele
  repeat' first
    | with_reducible assumption
    | exact subTrans w (by decide)
    | intro _ _
    | intro _
    | with_reducible apply Writes.choose
    | with_reducible apply State.when_writes
    | with_reducible apply State.when_writes
    | with_reducible apply State.loupeStart_writes
    | with_reducible apply State.loupeStop_writes
    | with_reducible apply State.sampleCtrl_writes
    | with_reducible apply State.counterFlush_writes
    | with_reducible apply State.fsReadPtr_writes
    | with_reducible exact Has.TELE_FS_RD_PTR (subTrans w (by decide))
    | with_reducible exact Has.TELE_S_EN (subTrans w (by decide))
    | split

theorem State.dmaCtrl_writes {F s x} {a1 a2}
    (h : Writes F s x) (w : [3356, 3357, 3358, 3359, 3360, 3361, 3362, 3363, 3368, 3369, 3370, 3372, 3374, 3375, 3376, 3382, 3383] ⊆ F := by exact subTrans (by assumption) (by decide)) :
    Writes F s (State.dmaCtrl x a1 a2) := by
  unfold State.dmaCtrl
  repeat' first
    | with_reducible assumption
    | exact subTrans w (by decide)
    | intro _ _
    | intro _
    | with_reducible apply State.when_writes
    | with_reducible apply State.when_writes
    | with_reducible apply State.dmaGo_writes
    | with_reducible apply State.dmaAbort_writes
    | with_reducible apply State.dmaClearHalt_writes

theorem State.actHost_writes {F s x} {a1 a2}
    (h : Writes F s x) (w : [3339, 3345, 3346, 3350, 3356, 3357, 3358, 3359, 3360, 3361, 3362, 3363, 3368, 3369, 3370, 3372, 3374, 3375, 3376, 3382, 3383] ⊆ F := by exact subTrans (by assumption) (by decide)) :
    Writes F s (State.actHost x a1 a2) := by
  unfold State.actHost
  repeat' first
    | with_reducible assumption
    | exact subTrans w (by decide)
    | intro _ _
    | intro _
    | with_reducible apply Writes.choose
    | with_reducible apply State.setB_writes
    | with_reducible apply State.ringEnable_writes
    | with_reducible apply State.ringDisable_writes
    | with_reducible apply State.shadowArm_writes
    | with_reducible apply State.dmaCtrl_writes
    | with_reducible exact Has.HOST_R_EN (subTrans w (by decide))
    | with_reducible exact Has.HOST_D_SHADOW_VALID (subTrans w (by decide))
    | split

theorem State.actPower_writes {F s x} {a1 a2}
    (h : Writes F s x) (w : [1, 2, 3584, 3585, 3586, 3596, 3601, 3607, 3611, 3612, 3613, 3614, 3615, 3616, 3859, 4907] ⊆ F := by exact subTrans (by assumption) (by decide)) :
    Writes F s (State.actPower x a1 a2) := by
  unfold State.actPower
  repeat' first
    | with_reducible assumption
    | exact subTrans w (by decide)
    | intro _ _
    | intro _
    | with_reducible apply Writes.choose
    | with_reducible apply State.phaseSelect_writes
    | with_reducible apply State.phaseWrite_writes
    | with_reducible apply State.shareWrite_writes
    | with_reducible exact Has.PWR_E_PREF_OP (subTrans w (by decide))
    | with_reducible exact Has.PWR_E_CAP (subTrans w (by decide))
    | with_reducible exact Has.ANVL_SHARE (subTrans w (by decide))
    | split

theorem State.fltCommand_writes {F s x} {a1}
    (h : Writes F s x) (w : [4096, 4097, 4098, 4099] ⊆ F := by exact subTrans (by assumption) (by decide)) :
    Writes F s (State.fltCommand x a1) := by
  unfold State.fltCommand
  repeat' first
    | with_reducible assumption
    | exact subTrans w (by decide)
    | intro _ _
    | intro _
    | with_reducible apply State.when_writes
    | with_reducible apply State.set_writes
    | with_reducible apply State.setB_writes
    | with_reducible apply State.when_writes
    | with_reducible exact Has.FLT_WORST (subTrans w (by decide))
    | with_reducible exact Has.FLT_FIRST_VALID (subTrans w (by decide))
    | with_reducible exact Has.FLT_FAULT_ACTIVE (subTrans w (by decide))
    | with_reducible exact Has.FLT_ALIVE_STOPPED (subTrans w (by decide))

theorem State.actFault_writes {F s x} {a1 a2}
    (h : Writes F s x) (w : [1, 2, 258, 283, 520, 521, 522, 523, 540, 775, 776, 784, 785, 788, 819, 823, 2323, 2325, 2331, 2332, 2333, 2334, 2360, 2362, 2363, 2364, 2365, 2569, 2584, 2586, 3076, 3083, 3084, 3085, 3104, 3110, 3113, 3114, 3123, 3125, 3585, 3601, 4096, 4097, 4098, 4099, 4102, 4120, 4612, 4613, 4615, 4616, 4907] ⊆ F := by exact subTrans (by assumption) (by decide)) :
    Writes F s (State.actFault x a1 a2) := by
  unfold State.actFault
  repeat' first
    | with_reducible assumption
    | exact subTrans w (by decide)
    | intro _ _
    | intro _
    | with_reducible apply Writes.choose
    | with_reducible apply State.when_writes
    | with_reducible apply Writes.upTo
    | with_reducible apply State.when_writes
    | with_reducible apply State.assayStop_writes
    | with_reducible apply State.portSafeRelease_writes
    | with_reducible apply State.injGo_writes
    | with_reducible apply State.fltCommand_writes
    | with_reducible exact Has.FLT_PORT_SAFE (subTrans w (by decide))
    | split

theorem State.intEnWrite_writes {F s x} {a1} (h : Writes F s x) (w : [4906, 4907] ⊆ F := by exact subTrans (by assumption) (by decide)) :
    Writes F s (State.intEnWrite x a1) := by
  unfold State.intEnWrite
  repeat' first
    | with_reducible assumption
    | exact subTrans w (by decide)
    | intro _ _
    | intro _
    | with_reducible apply State.when_writes
    | with_reducible apply State.set_writes
    | with_reducible apply State.when_writes
    | with_reducible apply State.glbPend_writes
    | with_reducible exact Has.GLB_INT_EN (subTrans w (by decide))

theorem State.chkRise_writes {F s x} {a1 a2}
    (h : Writes F s x) (w : [541, 542, 543, 544] ⊆ F := by exact subTrans (by assumption) (by decide)) :
    Writes F s (State.chkRise x a1 a2) := by
  unfold State.chkRise
  repeat' first
    | with_reducible assumption
    | exact subTrans w (by decide)
    | intro _ _
    | intro _
    | with_reducible apply State.when_writes
    | with_reducible apply State.when_writes
    | with_reducible apply State.chkClear_writes
    | split

/-! ### Machine/HostAccess.lean -/

theorem State.answer_writes {F s x} {a1} (h : Writes F s x) : Writes F s (State.answer x a1) := by
  unfold State.answer
  repeat' first
    | with_reducible assumption
    | intro _ _
    | intro _
    | split
    | dsimp only
    | with_reducible apply Writes.upd

theorem State.lowRead_writes {F s x} {a1} (h : Writes F s x) : Writes F s (State.lowRead x a1) := by
  unfold State.lowRead
  repeat' first
    | with_reducible assumption
    | intro _ _
    | intro _
    | with_reducible apply State.answer_writes
    | split
    | dsimp only
    | with_reducible apply Writes.upd

theorem State.highRead_writes {F s x} {a1} (h : Writes F s x) : Writes F s (State.highRead x a1) := by
  unfold State.highRead
  repeat' first
    | with_reducible assumption
    | intro _ _
    | intro _
    | with_reducible apply State.answer_writes
    | split
    | dsimp only
    | with_reducible apply Writes.upd

theorem State.badAccess_writes {F s x} (h : Writes F s x) (w : [3335, 4907] ⊆ F := by exact subTrans (by assumption) (by decide)) :
    Writes F s (State.badAccess x) := by
  unfold State.badAccess
  repeat' first
    | with_reducible assumption
    | exact subTrans w (by decide)
    | intro _ _
    | intro _
    | with_reducible apply Writes.choose
    | with_reducible apply State.hostEvent_writes
    | with_reducible apply State.fault_writes
    | with_reducible apply State.answer_writes
    | with_reducible exact Has.HOST_ACCESS_ERR (subTrans w (by decide))

theorem State.msixWrite_writes {F s x} {a1 a2} (h : Writes F s x) : Writes F s (State.msixWrite x a1 a2) := by
  unfold State.msixWrite
  repeat' first
    | with_reducible assumption
    | intro _ _
    | intro _
    | with_reducible apply Writes.choose
    | with_reducible apply State.msixRelease_writes
    | split
    | dsimp only
    | with_reducible apply Writes.upd

theorem State.smbLive_writes {F s x} {a1} (h1 : ∀ y, Writes F s y → Writes F s (a1 y)) (h : Writes F s x) :
    Writes F s (State.smbLive x a1) := by
  unfold State.smbLive
  repeat' first
    | with_reducible assumption
    | intro _ _
    | intro _
    | apply h1
    | with_reducible apply State.when_writes

theorem State.smbWord_writes {F s x} {a1} (h : Writes F s x) : Writes F s (State.smbWord x a1).2 := by
  unfold State.smbWord
  repeat' first
    | with_reducible assumption
    | intro _ _
    | intro _
    | with_reducible apply Writes.choose
    | split
    | dsimp only
    | with_reducible apply Writes.upd

theorem State.smbWord_writesE {F s x} {a1} {r0 t} (e : State.smbWord x a1 = (r0, t)) (h : Writes F s x) : Writes F s t := by
  have k := State.smbWord_writes (F := F) (s := s) (x := x) (a1 := a1) h
  rwa [e] at k

theorem State.smbPointer_writes {F s x} {a1 a2} (h : Writes F s x) : Writes F s (State.smbPointer x a1 a2) := by
  unfold State.smbPointer
  repeat' first
    | with_reducible assumption
    | intro _ _
    | intro _
    | with_reducible apply Writes.choose
    | with_reducible apply State.emit_writes
    | split
    | dsimp only
    | with_reducible apply Writes.upd

theorem State.smbRead_writes {F s x} (h : Writes F s x) : Writes F s (State.smbRead x) := by
  unfold State.smbRead
  repeat' first
    | with_reducible assumption
    | intro _ _
    | intro _
    | with_reducible apply State.emit_writes
    | with_reducible apply State.smbWord_writes
    | refine State.smbWord_writesE (by with_reducible assumption) ?_
    | split
    | dsimp only
    | with_reducible apply Writes.upd

end Sys2Proof.Machine
end

