-- ==== Sys2Proof/Laws/WritesExec.lean ====
section
/-!
SUPPORT. Which register fields the meaning of every command writes.
-/
namespace Sys2Proof.Machine
set_option Elab.async false

theorem execTrmWindowEnd_writes {s t} {a0 a1 a2} (e : execTrmWindowEnd a0 a1 a2 s = .next t) :
    OnlyWrites ([Reg.CORE.TRIM, Reg.CORE.V_SET, Reg.CORE.FLOOR_MISS, Reg.CORE.TRIM_LIMIT_HIT, Reg.CORE.MISS_WINDOWS, Reg.CORE.MIN_COUNT, Reg.CORE.MIN_INDEX, Reg.CORE.TRM_COUNT, Reg.CORE.TRM_REPLICA, Reg.CORE.TRM_LCORE, Reg.CORE.SKIPPED, Reg.CORE.TRM_LOW, Reg.ASE.P_OVERLOAD, Reg.ASE.P_PEAK_BANK, Reg.ASE.P_PEAK_LOAD]) s t := by
  obtain rfl := Host.Outcome.next.inj e
  refine Writes.only_of [7, 8, 15, 16, 17, 24, 25, 29, 30, 31, 32, 33, 1834, 1835, 1836] [7, 8, 15, 16, 17, 24, 25, 29, 30, 31, 32, 33, 1834, 1835, 1836] (by decide) rfl (fun F w => ?_)
  have h := Writes.refl F s
  repeat' first
    | with_reducible assumption
    | with_reducible exact Writes.refl _ _
    | exact subTrans w (by decide)
    | intro _ _
    | intro _
    | with_reducible apply State.trmWindow_writes

theorem execDroopDetect_writes {s t} {a0 a1} (e : execDroopDetect a0 a1 s = .next t) :
    OnlyWrites ([Reg.CORE.DROOP_EVENTS]) s t := by
  obtain rfl := Host.Outcome.next.inj e
  refine Writes.only_of [21] [21] (by decide) rfl (fun F w => ?_)
  have h := Writes.refl F s
  repeat' first
    | with_reducible assumption
    | with_reducible exact Writes.refl _ _
    | exact subTrans w (by decide)
    | intro _ _
    | intro _
    | with_reducible apply State.droopSeen_writes

theorem execDroopRecover_writes {s t} {a0} (e : execDroopRecover a0 s = .next t) :
    OnlyWrites ([]) s t := by
  obtain rfl := Host.Outcome.next.inj e
  refine Writes.only_of [] [] (by decide) rfl (fun F w => ?_)
  have h := Writes.refl F s
  repeat' first
    | with_reducible assumption
    | with_reducible exact Writes.refl _ _
    | exact subTrans w (by decide)
    | intro _ _
    | intro _
    | with_reducible apply State.droopEnd_writes

theorem execVcoreUndervolt_writes {s t} {a0} (e : execVcoreUndervolt a0 s = .next t) :
    OnlyWrites ([]) s t := by
  obtain rfl := Host.Outcome.next.inj e
  refine Writes.only_of [] [] (by decide) rfl (fun F w => ?_)
  have h := Writes.refl F s
  repeat' first
    | with_reducible assumption
    | with_reducible exact Writes.refl _ _
    | exact subTrans w (by decide)
    | intro _ _
    | intro _
    | with_reducible apply State.fault_writes
    | with_reducible apply State.when_writes

theorem execOpTransitionDone_writes {s t} {a0} (e : execOpTransitionDone a0 s = .next t) :
    OnlyWrites ([Reg.CORE.CUR_OP, Reg.CORE.IN_TRANSITION, Reg.CORE.V_BASE, Reg.CORE.TRIM, Reg.CORE.V_SET]) s t := by
  obtain rfl := Host.Outcome.next.inj e
  refine Writes.only_of [0, 2, 6, 7, 8] [0, 2, 6, 7, 8] (by decide) rfl (fun F w => ?_)
  have h := Writes.refl F s
  repeat' first
    | with_reducible assumption
    | with_reducible exact Writes.refl _ _
    | exact subTrans w (by decide)
    | intro _ _
    | intro _
    | with_reducible apply State.opSettled_writes

theorem execPhaseSelect_writes {s t} {a0} (e : execPhaseSelect a0 s = .next t) :
    OnlyWrites (targetFields ++ [Reg.PWR.PHASE, Reg.PWR.Q_LIMIT, Reg.PWR.PHASE_ERR, Reg.PWR.PHASE_CHANGES, Reg.GLB.PENDING]) s t := by
  obtain rfl := Host.Outcome.next.inj e
  refine Writes.only_of [1, 2, 3584, 3585, 3586, 3596, 3601, 3607, 4907] [2, 1, 3585, 3601, 3584, 3586, 3596, 3607, 4907] (by decide) rfl (fun F w => ?_)
  have h := Writes.refl F s
  repeat' first
    | with_reducible assumption
    | with_reducible exact Writes.refl _ _
    | exact subTrans w (by decide)
    | intro _ _
    | intro _
    | with_reducible apply State.viaHost_writes
    | with_reducible apply State.phaseSelect_writes

theorem execPhaseEntryWrite_writes {s t} {a0 a1 a2} (e : execPhaseEntryWrite a0 a1 a2 s = .next t) :
    OnlyWrites ([Reg.PWR.PHASE_ERR, Reg.PWR.E_PREF_OP, Reg.PWR.E_MIN_OP, Reg.PWR.E_VALID, Reg.PWR.E_CAP, Reg.PWR.E_K, Reg.PWR.E_B_MAX, Reg.GLB.PENDING]) s t := by
  obtain rfl := Host.Outcome.next.inj e
  refine Writes.only_of [3596, 3611, 3612, 3613, 3614, 3615, 3616, 4907] [3596, 3611, 3612, 3613, 3614, 3615, 3616, 4907] (by decide) rfl (fun F w => ?_)
  have h := Writes.refl F s
  repeat' first
    | with_reducible assumption
    | with_reducible exact Writes.refl _ _
    | exact subTrans w (by decide)
    | intro _ _
    | intro _
    | with_reducible apply State.viaHost_writes
    | with_reducible apply State.phaseWrite_writes

theorem execRailSample_writes {s t} {a0 a1 a2 a3} (e : execRailSample a0 a1 a2 a3 s = .next t) :
    OnlyWrites (targetFields ++ [Reg.CORE.V_MEAS, Reg.IMG.READY, Reg.PWR.MEAS_FAIL, Reg.PWR.OV_EVT, Reg.PWR.RAIL_V, Reg.PWR.RAIL_I, Reg.ASY.STATE, Reg.ASY.REFUSAL, Reg.ASY.DONE, Reg.ASY.ABORTED, Reg.GLB.PENDING]) s t := by
  obtain rfl := Host.Outcome.next.inj e
  refine Writes.only_of [1, 2, 9, 258, 3585, 3590, 3597, 3601, 3624, 3625, 4612, 4613, 4615, 4616, 4907] [2, 1, 3585, 3601, 9, 258, 3590, 3597, 3624, 3625, 4612, 4613, 4615, 4616, 4907] (by decide) rfl (fun F w => ?_)
  have h := Writes.refl F s
  repeat' first
    | with_reducible assumption
    | with_reducible exact Writes.refl _ _
    | exact subTrans w (by decide)
    | intro _ _
    | intro _
    | with_reducible apply State.railSample_writes

theorem execPowerWindowEnd_writes {s t} (e : execPowerWindowEnd s = .next t) :
    OnlyWrites (targetFields ++ [Reg.PWR.Q_LIMIT, Reg.PWR.QUENCH_ACTIVE, Reg.PWR.DISAGREE, Reg.PWR.MEAS_FAIL, Reg.PWR.QUENCH_BUBBLES, Reg.PWR.QUENCH_EVT, Reg.PWR.P_MEAS, Reg.PWR.P_EST, Reg.PWR.P_USED, Reg.PWR.P_PEAK, Reg.GLB.PENDING]) s t := by
  obtain rfl := Host.Outcome.next.inj e
  refine Writes.only_of [1, 2, 3585, 3586, 3588, 3589, 3590, 3594, 3600, 3601, 3617, 3618, 3619, 3620, 4907] [2, 1, 3585, 3601, 3586, 3588, 3589, 3590, 3594, 3600, 3617, 3618, 3619, 3620, 4907] (by decide) rfl (fun F w => ?_)
  have h := Writes.refl F s
  repeat' first
    | with_reducible assumption
    | with_reducible exact Writes.refl _ _
    | exact subTrans w (by decide)
    | intro _ _
    | intro _
    | with_reducible apply State.powerWindow_writes
    | with_reducible apply State.when_writes

theorem execLEnergyWindowEnd_writes {s t} (e : execLEnergyWindowEnd s = .next t) :
    OnlyWrites ([Reg.PWR.L_ENERGY, Reg.PWR.L_ENERGY_VALID]) s t := by
  obtain rfl := Host.Outcome.next.inj e
  refine Writes.only_of [3621, 3622] [3621, 3622] (by decide) rfl (fun F w => ?_)
  have h := Writes.refl F s
  repeat' first
    | with_reducible assumption
    | with_reducible exact Writes.refl _ _
    | exact subTrans w (by decide)
    | intro _ _
    | intro _
    | with_reducible apply State.energyWindow_writes

theorem execTempSample_writes {s t} {a0} (e : execTempSample a0 s = .next t) :
    OnlyWrites (targetFields ++ [Reg.IMG.READY, Reg.PWR.T_LIMIT, Reg.PWR.THERM_LEVEL, Reg.PWR.THERM_WARN_EVT, Reg.PWR.SENSOR_FAIL_EVT, Reg.PWR.TG_LEVEL, Reg.PWR.TG_HOTTEST, Reg.PWR.TG_HOT_SENSOR, Reg.PWR.TEMP, Reg.PWR.FAILED, Reg.ASY.STATE, Reg.ASY.REFUSAL, Reg.ASY.DONE, Reg.ASY.ABORTED, Reg.GLB.PENDING]) s t := by
  obtain rfl := Host.Outcome.next.inj e
  refine Writes.only_of [1, 2, 258, 3585, 3587, 3591, 3598, 3599, 3601, 3629, 3630, 3631, 3632, 3633, 4612, 4613, 4615, 4616, 4907] [2, 1, 3585, 3601, 258, 3587, 3591, 3598, 3599, 3629, 3630, 3631, 3632, 3633, 4612, 4613, 4615, 4616, 4907] (by decide) rfl (fun F w => ?_)
  have h := Writes.refl F s
  repeat' first
    | with_reducible assumption
    | with_reducible exact Writes.refl _ _
    | exact subTrans w (by decide)
    | intro _ _
    | intro _
    | with_reducible apply State.tempSample_writes

theorem execThermalStep_writes {s t} (e : execThermalStep s = .next t) :
    OnlyWrites (targetFields ++ [Reg.PWR.T_LIMIT, Reg.PWR.QUENCH_ACTIVE, Reg.PWR.QUENCH_BUBBLES, Reg.PWR.QUENCH_EVT, Reg.GLB.PENDING]) s t := by
  obtain rfl := Host.Outcome.next.inj e
  refine Writes.only_of [1, 2, 3585, 3587, 3588, 3594, 3600, 3601, 4907] [2, 1, 3585, 3601, 3587, 3588, 3594, 3600, 4907] (by decide) rfl (fun F w => ?_)
  have h := Writes.refl F s
  repeat' first
    | with_reducible assumption
    | with_reducible exact Writes.refl _ _
    | exact subTrans w (by decide)
    | intro _ _
    | intro _
    | with_reducible apply State.thermalStep_writes

theorem execBgStarved_writes {s t} {a0} (e : execBgStarved a0 s = .next t) :
    OnlyWrites ([Reg.CORE.BG_STARVED_EVENTS]) s t := by
  obtain rfl := Host.Outcome.next.inj e
  refine Writes.only_of [23] [23] (by decide) rfl (fun F w => ?_)
  have h := Writes.refl F s
  repeat' first
    | with_reducible assumption
    | with_reducible exact Writes.refl _ _
    | exact subTrans w (by decide)
    | intro _ _
    | intro _
    | with_reducible apply State.bgStarved_writes

theorem execAnvilTrap_writes {s t} {a0 a1} (e : execAnvilTrap a0 a1 s = .next t) :
    OnlyWrites (checkFields ++ [Reg.ANVL.TRAPS]) s t := by
  obtain rfl := Host.Outcome.next.inj e
  refine Writes.only_of [3844, 3846, 3847, 3849, 3851, 3852, 3853, 3854, 3855, 3856, 3857, 3858] [3844, 3846, 3856, 3849, 3847, 3854, 3853, 3852, 3851, 3855, 3858, 3857] (by decide) rfl (fun F w => ?_)
  have h := Writes.refl F s
  repeat' first
    | with_reducible assumption
    | with_reducible exact Writes.refl _ _
    | exact subTrans w (by decide)
    | intro _ _
    | intro _
    | with_reducible apply State.anvilTrap_writes

theorem execHoursIncrement_writes {s t} {a0 a1} (e : execHoursIncrement a0 a1 s = .next t) :
    OnlyWrites (checkFields ++ storeFields ++ [Reg.CORE.V_BASE, Reg.CORE.TRIM, Reg.CORE.V_SET, Reg.CORE.HOURS]) s t := by
  obtain rfl := Host.Outcome.next.inj e
  refine Writes.only_of [6, 7, 8, 10, 3844, 3846, 3847, 3848, 3849, 3851, 3852, 3853, 3854, 3855, 3856, 3858, 3868] [3844, 3846, 3856, 3849, 3847, 3854, 3853, 3852, 3851, 3855, 3858, 3848, 3868, 6, 7, 8, 10] (by decide) rfl (fun F w => ?_)
  have h := Writes.refl F s
  repeat' first
    | with_reducible assumption
    | with_reducible exact Writes.refl _ _
    | exact subTrans w (by decide)
    | intro _ _
    | intro _
    | with_reducible apply State.hoursStep_writes

theorem execVariantSwitch_writes {s t} {a0} (e : execVariantSwitch a0 s = .next t) :
    OnlyWrites ([Reg.ANVL.SELECTED]) s t := by
  obtain rfl := Host.Outcome.next.inj e
  refine Writes.only_of [3870] [3870] (by decide) rfl (fun F w => ?_)
  have h := Writes.refl F s
  repeat' first
    | with_reducible assumption
    | with_reducible exact Writes.refl _ _
    | exact subTrans w (by decide)
    | intro _ _
    | intro _
    | with_reducible apply State.variantSwitch_writes

theorem execWearLevelStep_writes {s t} {a0 a1 a2} (e : execWearLevelStep a0 a1 a2 s = .next t) :
    OnlyWrites (checkFields ++ storeFields) s t := by
  obtain rfl := Host.Outcome.next.inj e
  refine Writes.only_of [3844, 3846, 3847, 3848, 3849, 3851, 3852, 3853, 3854, 3855, 3856, 3858, 3868] [3844, 3846, 3856, 3849, 3847, 3854, 3853, 3852, 3851, 3855, 3858, 3848, 3868] (by decide) rfl (fun F w => ?_)
  have h := Writes.refl F s
  repeat' first
    | with_reducible assumption
    | with_reducible exact Writes.refl _ _
    | exact subTrans w (by decide)
    | intro _ _
    | intro _
    | with_reducible apply State.storeWrite_writes
    | with_reducible apply State.anvilStep_writes

theorem execRingCoalExpire_writes {s t} {a0} (e : execRingCoalExpire a0 s = .next t) :
    OnlyWrites ([]) s t := by
  obtain rfl := Host.Outcome.next.inj e
  refine Writes.only_of [] [] (by decide) rfl (fun F w => ?_)
  have h := Writes.refl F s
  repeat' first
    | with_reducible assumption
    | with_reducible exact Writes.refl _ _
    | exact subTrans w (by decide)
    | intro _ _
    | intro _
    | with_reducible apply State.coalExpire_writes

theorem execRingEnable_writes {s t} {a0} (e : execRingEnable a0 s = .next t) :
    OnlyWrites ([Reg.HOST.R_EN, Reg.HOST.R_INDEX, Reg.HOST.R_GEN, Reg.HOST.R_CONFIG_ERR]) s t := by
  obtain rfl := Host.Outcome.next.inj e
  refine Writes.only_of [3339, 3345, 3346, 3350] [3339, 3345, 3346, 3350] (by decide) rfl (fun F w => ?_)
  have h := Writes.refl F s
  repeat' first
    | with_reducible assumption
    | with_reducible exact Writes.refl _ _
    | exact subTrans w (by decide)
    | intro _ _
    | intro _
    | with_reducible apply State.viaHost_writes
    | with_reducible apply State.ringEnable_writes

theorem execRingDisable_writes {s t} {a0} (e : execRingDisable a0 s = .next t) :
    OnlyWrites ([Reg.HOST.R_EN]) s t := by
  obtain rfl := Host.Outcome.next.inj e
  refine Writes.only_of [3339] [3339] (by decide) rfl (fun F w => ?_)
  have h := Writes.refl F s
  repeat' first
    | with_reducible assumption
    | with_reducible exact Writes.refl _ _
    | exact subTrans w (by decide)
    | intro _ _
    | intro _
    | with_reducible apply State.viaHost_writes
    | with_reducible apply State.ringDisable_writes

theorem execLoupeCounterWrap_writes {s t} {a0 a1 a2} (e : execLoupeCounterWrap a0 a1 a2 s = .next t) :
    OnlyWrites ([Reg.TELE.U_WRAP, Reg.TELE.U_CNT]) s t := by
  obtain rfl := Host.Outcome.next.inj e
  refine Writes.only_of [3123, 3125] [3123, 3125] (by decide) rfl (fun F w => ?_)
  have h := Writes.refl F s
  repeat' first
    | with_reducible assumption
    | with_reducible exact Writes.refl _ _
    | exact subTrans w (by decide)
    | intro _ _
    | intro _
    | with_reducible apply State.loupeWrap_writes

theorem execSamplingOverflow_writes {s t} {a0 a1} (e : execSamplingOverflow a0 a1 s = .next t) :
    OnlyWrites ([Reg.TELE.S_OVF, Reg.TELE.S_VALUE, Reg.TELE.S_LOST, Reg.GLB.PENDING]) s t := by
  obtain rfl := Host.Outcome.next.inj e
  refine Writes.only_of [3110, 3113, 3114, 4907] [3110, 3113, 3114, 4907] (by decide) rfl (fun F w => ?_)
  have h := Writes.refl F s
  repeat' first
    | with_reducible assumption
    | with_reducible exact Writes.refl _ _
    | exact subTrans w (by decide)
    | intro _ _
    | intro _
    | with_reducible apply State.sampleOverflow_writes

theorem execLoupeStart_writes {s t} (e : execLoupeStart s = .next t) :
    OnlyWrites ([Reg.TELE.LP_RUNNING, Reg.TELE.LP_START_MISSED, Reg.TELE.U_WRAP, Reg.TELE.U_TICKS, Reg.TELE.U_CNT]) s t := by
  obtain rfl := Host.Outcome.next.inj e
  refine Writes.only_of [3094, 3096, 3123, 3124, 3125] [3094, 3096, 3123, 3124, 3125] (by decide) rfl (fun F w => ?_)
  have h := Writes.refl F s
  repeat' first
    | with_reducible assumption
    | with_reducible exact Writes.refl _ _
    | exact subTrans w (by decide)
    | intro _ _
    | intro _
    | with_reducible apply State.viaHost_writes
    | with_reducible apply State.loupeStart_writes

theorem execLoupeStop_writes {s t} (e : execLoupeStop s = .next t) :
    OnlyWrites ([Reg.TELE.LP_RUNNING, Reg.TELE.LP_DONE, Reg.TELE.U_TICKS, Reg.GLB.PENDING]) s t := by
  obtain rfl := Host.Outcome.next.inj e
  refine Writes.only_of [3094, 3095, 3124, 4907] [3094, 3095, 3124, 4907] (by decide) rfl (fun F w => ?_)
  have h := Writes.refl F s
  repeat' first
    | with_reducible assumption
    | with_reducible exact Writes.refl _ _
    | exact subTrans w (by decide)
    | intro _ _
    | intro _
    | with_reducible apply State.viaHost_writes
    | with_reducible apply State.loupeStop_writes

theorem execLoupeWindowEnd_writes {s t} (e : execLoupeWindowEnd s = .next t) :
    OnlyWrites ([Reg.TELE.LP_RUNNING, Reg.TELE.LP_DONE, Reg.TELE.U_TICKS, Reg.GLB.PENDING]) s t := by
  obtain rfl := Host.Outcome.next.inj e
  refine Writes.only_of [3094, 3095, 3124, 4907] [3094, 3095, 3124, 4907] (by decide) rfl (fun F w => ?_)
  have h := Writes.refl F s
  repeat' first
    | with_reducible assumption
    | with_reducible exact Writes.refl _ _
    | exact subTrans w (by decide)
    | intro _ _
    | intro _
    | with_reducible apply State.loupeWindowEnd_writes

theorem execSamplingCtrlWrite_writes {s t} {a0 a1 a2} (e : execSamplingCtrlWrite a0 a1 a2 s = .next t) :
    OnlyWrites ([Reg.TELE.S_UNIT, Reg.TELE.S_EVENT, Reg.TELE.S_EN, Reg.TELE.S_IE, Reg.TELE.S_OVF, Reg.TELE.S_PRIV_REJECT, Reg.TELE.S_RELOAD, Reg.TELE.S_VALUE]) s t := by
  obtain rfl := Host.Outcome.next.inj e
  refine Writes.only_of [3106, 3107, 3108, 3109, 3110, 3111, 3112, 3113] [3106, 3107, 3108, 3109, 3110, 3111, 3112, 3113] (by decide) rfl (fun F w => ?_)
  have h := Writes.refl F s
  repeat' first
    | with_reducible assumption
    | with_reducible exact Writes.refl _ _
    | exact subTrans w (by decide)
    | intro _ _
    | intro _
    | with_reducible apply Writes.choose
    | with_reducible apply State.viaHost_writes
    | with_reducible apply State.sampleCtrl_writes
    | with_reducible apply State.sampleReload_writes

theorem execBwWindowEnd_writes {s t} (e : execBwWindowEnd s = .next t) :
    OnlyWrites ([Reg.TELE.RX_LAST, Reg.TELE.RX_PEAK, Reg.TELE.RX_EWMA, Reg.TELE.TX_LAST, Reg.TELE.TX_PEAK, Reg.TELE.TX_EWMA]) s t := by
  obtain rfl := Host.Outcome.next.inj e
  refine Writes.only_of [3126, 3127, 3128, 3129, 3130, 3131] [3126, 3127, 3128, 3129, 3130, 3131] (by decide) rfl (fun F w => ?_)
  have h := Writes.refl F s
  repeat' first
    | with_reducible assumption
    | with_reducible exact Writes.refl _ _
    | exact subTrans w (by decide)
    | intro _ _
    | intro _
    | with_reducible apply State.bwEnd_writes

theorem execMigrateCmd_writes {s t} {a0} (e : execMigrateCmd a0 s = .next t) :
    OnlyWrites ([Reg.CRUC.MS_DEGRADED]) s t := by
  obtain rfl := Host.Outcome.next.inj e
  refine Writes.only_of [2343] [2343] (by decide) rfl (fun F w => ?_)
  have h := Writes.refl F s
  repeat' first
    | with_reducible assumption
    | with_reducible exact Writes.refl _ _
    | exact subTrans w (by decide)
    | intro _ _
    | intro _
    | with_reducible apply State.viaHost_writes
    | with_reducible apply State.migrateCmd_writes

theorem execBankMigrationStart_writes {s t} {a0} (e : execBankMigrationStart a0 s = .next t) :
    OnlyWrites (checkFields ++ [Reg.CRUC.MS_BANK, Reg.CRUC.MS_ACTIVE, Reg.CRUC.MS_DEGRADED]) s t := by
  obtain rfl := Host.Outcome.next.inj e
  refine Writes.only_of [2339, 2340, 2343, 3844, 3846, 3847, 3849, 3851, 3852, 3853, 3854, 3855, 3856, 3858] [3844, 3846, 3856, 3849, 3847, 3854, 3853, 3852, 3851, 3855, 3858, 2339, 2340, 2343] (by decide) rfl (fun F w => ?_)
  have h := Writes.refl F s
  repeat' first
    | with_reducible assumption
    | with_reducible exact Writes.refl _ _
    | exact subTrans w (by decide)
    | intro _ _
    | intro _
    | with_reducible apply State.anvilStep_writes
    | with_reducible apply State.migStart_writes

theorem execMigrationRowCopy_writes {s t} {a0} (e : execMigrationRowCopy a0 s = .next t) :
    OnlyWrites (checkFields) s t := by
  obtain rfl := Host.Outcome.next.inj e
  refine Writes.only_of [3844, 3846, 3847, 3849, 3851, 3852, 3853, 3854, 3855, 3856, 3858] [3844, 3846, 3856, 3849, 3847, 3854, 3853, 3852, 3851, 3855, 3858] (by decide) rfl (fun F w => ?_)
  have h := Writes.refl F s
  repeat' first
    | with_reducible assumption
    | with_reducible exact Writes.refl _ _
    | exact subTrans w (by decide)
    | intro _ _
    | intro _
    | with_reducible apply State.anvilStep_writes
    | with_reducible apply State.migRow_writes

theorem execBankMigrationDone_writes {s t} {a0 a1} (e : execBankMigrationDone a0 a1 s = .next t) :
    OnlyWrites (checkFields ++ storeFields ++ [Reg.CRUC.MS_ACTIVE, Reg.CRUC.MS_DONE, Reg.CRUC.SM_REPLACES, Reg.CRUC.SM_USED, Reg.GLB.PENDING]) s t := by
  obtain rfl := Host.Outcome.next.inj e
  refine Writes.only_of [2340, 2341, 2344, 2345, 3844, 3846, 3847, 3848, 3849, 3851, 3852, 3853, 3854, 3855, 3856, 3858, 3868, 4907] [3844, 3846, 3856, 3849, 3847, 3854, 3853, 3852, 3851, 3855, 3858, 3848, 3868, 2340, 2341, 2344, 2345, 4907] (by decide) rfl (fun F w => ?_)
  have h := Writes.refl F s
  repeat' first
    | with_reducible assumption
    | with_reducible exact Writes.refl _ _
    | exact subTrans w (by decide)
    | intro _ _
    | intro _
    | with_reducible apply State.anvilStep_writes
    | with_reducible apply State.migDone_writes

theorem execCounterFlush_writes {s t} (e : execCounterFlush s = .next t) :
    OnlyWrites ([Reg.TELE.FL_BUSY]) s t := by
  obtain rfl := Host.Outcome.next.inj e
  refine Writes.only_of [3087] [3087] (by decide) rfl (fun F w => ?_)
  have h := Writes.refl F s
  repeat' first
    | with_reducible assumption
    | with_reducible exact Writes.refl _ _
    | exact subTrans w (by decide)
    | intro _ _
    | intro _
    | with_reducible apply State.viaHost_writes
    | with_reducible apply State.counterFlush_writes

theorem execCounterFlushDone_writes {s t} (e : execCounterFlushDone s = .next t) :
    OnlyWrites (tallyFields ++ [Reg.TELE.CNT_ECC, Reg.TELE.FL_BUSY, Reg.TELE.FL_DONE]) s t := by
  obtain rfl := Host.Outcome.next.inj e
  refine Writes.only_of [3082, 3087, 3088, 3110, 3113, 3114, 3123, 3125, 4907] [4907, 3114, 3110, 3113, 3125, 3123, 3082, 3087, 3088] (by decide) rfl (fun F w => ?_)
  have h := Writes.refl F s
  repeat' first
    | with_reducible assumption
    | with_reducible exact Writes.refl _ _
    | exact subTrans w (by decide)
    | intro _ _
    | intro _
    | with_reducible apply State.counterFlushDone_writes

theorem execCounterFlushStep_writes {s t} {a0 a1 a2} (e : execCounterFlushStep a0 a1 a2 s = .next t) :
    OnlyWrites (tallyFields ++ checkFields ++ [Reg.TELE.CNT_ECC, Reg.ANVL.COVER_MISS, Reg.ANVL.FLUSH_PASS_US]) s t := by
  obtain rfl := Host.Outcome.next.inj e
  refine Writes.only_of [3082, 3110, 3113, 3114, 3123, 3125, 3844, 3846, 3847, 3849, 3850, 3851, 3852, 3853, 3854, 3855, 3856, 3858, 3863, 4907] [4907, 3114, 3110, 3113, 3125, 3123, 3844, 3846, 3856, 3849, 3847, 3854, 3853, 3852, 3851, 3855, 3858, 3082, 3850, 3863] (by decide) rfl (fun F w => ?_)
  have h := Writes.refl F s
  repeat' first
    | with_reducible assumption
    | with_reducible exact Writes.refl _ _
    | exact subTrans w (by decide)
    | intro _ _
    | intro _
    | with_reducible apply State.anvilStep_writes
    | with_reducible apply State.flushStep_writes

theorem execTelemetryExportStep_writes {s t} {a0 a1 a2} (e : execTelemetryExportStep a0 a1 a2 s = .next t) :
    OnlyWrites (tallyFields ++ checkFields ++ [Reg.TELE.FC_EVICTED, Reg.TELE.FC_ECC, Reg.TELE.FS_WR_PTR, Reg.TELE.FS_RD_PTR, Reg.TELE.FS_FS_LOST]) s t := by
  obtain rfl := Host.Outcome.next.inj e
  refine Writes.only_of [3080, 3081, 3100, 3101, 3102, 3110, 3113, 3114, 3123, 3125, 3844, 3846, 3847, 3849, 3851, 3852, 3853, 3854, 3855, 3856, 3858, 4907] [4907, 3114, 3110, 3113, 3125, 3123, 3844, 3846, 3856, 3849, 3847, 3854, 3853, 3852, 3851, 3855, 3858, 3080, 3081, 3100, 3101, 3102] (by decide) rfl (fun F w => ?_)
  have h := Writes.refl F s
  repeat' first
    | with_reducible assumption
    | with_reducible exact Writes.refl _ _
    | exact subTrans w (by decide)
    | intro _ _
    | intro _
    | with_reducible apply State.anvilStep_writes
    | with_reducible apply State.exportStep_writes

theorem execFsRdPtrWrite_writes {s t} {a0 a1} (e : execFsRdPtrWrite a0 a1 s = .next t) :
    OnlyWrites ([Reg.TELE.FS_RD_PTR]) s t := by
  obtain rfl := Host.Outcome.next.inj e
  refine Writes.only_of [3101] [3101] (by decide) rfl (fun F w => ?_)
  have h := Writes.refl F s
  repeat' first
    | with_reducible assumption
    | with_reducible exact Writes.refl _ _
    | exact subTrans w (by decide)
    | intro _ _
    | intro _
    | with_reducible apply State.viaHost_writes
    | with_reducible apply State.fsReadPtr_writes

theorem execFsBatchSend_writes {s t} {a0 a1} (e : execFsBatchSend a0 a1 s = .next t) :
    OnlyWrites (tallyFields ++ checkFields ++ [Reg.TELE.FS_RD_PTR]) s t := by
  obtain rfl := Host.Outcome.next.inj e
  refine Writes.only_of [3101, 3110, 3113, 3114, 3123, 3125, 3844, 3846, 3847, 3849, 3851, 3852, 3853, 3854, 3855, 3856, 3858, 4907] [4907, 3114, 3110, 3113, 3125, 3123, 3844, 3846, 3856, 3849, 3847, 3854, 3853, 3852, 3851, 3855, 3858, 3101] (by decide) rfl (fun F w => ?_)
  have h := Writes.refl F s
  repeat' first
    | with_reducible assumption
    | with_reducible exact Writes.refl _ _
    | exact subTrans w (by decide)
    | intro _ _
    | intro _
    | with_reducible apply State.anvilStep_writes
    | with_reducible apply State.batchSend_writes

theorem execShaperDebtRepaid_writes {s t} {a0 a1} (e : execShaperDebtRepaid a0 a1 s = .next t) :
    OnlyWrites ([]) s t := by
  obtain rfl := Host.Outcome.next.inj e
  refine Writes.only_of [] [] (by decide) rfl (fun F w => ?_)
  have h := Writes.refl F s
  repeat' first
    | with_reducible assumption
    | with_reducible exact Writes.refl _ _
    | exact subTrans w (by decide)
    | intro _ _
    | intro _
    | with_reducible apply State.debtRepaid_writes

theorem execHoldListLink_writes {s t} {a0} (e : execHoldListLink a0 s = .next t) :
    OnlyWrites (tallyFields ++ releaseFields ++ [Reg.MAP.RECIRC_OUT, Reg.CRUC.CT_FRAMES, Reg.CRUC.HOLD_FULL, Reg.QSCH.REPL_STALLS, Reg.QSCH.BAD_QUEUE, Reg.QSCH.DOWN_DISCARDS, Reg.QSCH.MC_RESIDUE_DISCARDS, Reg.QSCH.LAUNCH_REFUSED]) s t := by
  obtain rfl := Host.Outcome.next.inj e
  refine Writes.only_of [283, 2051, 2323, 2324, 2327, 2331, 2332, 2333, 2334, 2360, 2362, 2363, 2364, 2365, 2564, 2566, 2585, 2586, 2590, 3110, 3113, 3114, 3123, 3125, 4907] [4907, 3114, 3110, 3113, 3125, 3123, 2323, 2363, 2365, 2360, 2333, 2332, 2331, 2334, 2362, 2364, 283, 2051, 2324, 2327, 2564, 2566, 2585, 2586, 2590] (by decide) rfl (fun F w => ?_)
  have h := Writes.refl F s
  repeat' first
    | with_reducible assumption
    | with_reducible exact Writes.refl _ _
    | exact subTrans w (by decide)
    | intro _ _
    | intro _
    | with_reducible apply State.holdServe_writes

theorem execReplResume_writes {s t} {a0} (e : execReplResume a0 s = .next t) :
    OnlyWrites (tallyFields ++ releaseFields ++ [Reg.MAP.RECIRC_OUT, Reg.CRUC.CT_FRAMES, Reg.CRUC.HOLD_FULL, Reg.QSCH.REPL_STALLS, Reg.QSCH.BAD_QUEUE, Reg.QSCH.DOWN_DISCARDS, Reg.QSCH.MC_RESIDUE_DISCARDS, Reg.QSCH.LAUNCH_REFUSED]) s t := by
  obtain rfl := Host.Outcome.next.inj e
  refine Writes.only_of [283, 2051, 2323, 2324, 2327, 2331, 2332, 2333, 2334, 2360, 2362, 2363, 2364, 2365, 2564, 2566, 2585, 2586, 2590, 3110, 3113, 3114, 3123, 3125, 4907] [4907, 3114, 3110, 3113, 3125, 3123, 2323, 2363, 2365, 2360, 2333, 2332, 2331, 2334, 2362, 2364, 283, 2051, 2324, 2327, 2564, 2566, 2585, 2586, 2590] (by decide) rfl (fun F w => ?_)
  have h := Writes.refl F s
  repeat' first
    | with_reducible assumption
    | with_reducible exact Writes.refl _ _
    | exact subTrans w (by decide)
    | intro _ _
    | intro _
    | with_reducible apply State.replResume_writes

theorem execResidueLink_writes {s t} {a0} (e : execResidueLink a0 s = .next t) :
    OnlyWrites (tallyFields ++ releaseFields ++ [Reg.MAP.RECIRC_OUT, Reg.CRUC.CT_FRAMES, Reg.QSCH.LAUNCH_REFUSED]) s t := by
  obtain rfl := Host.Outcome.next.inj e
  refine Writes.only_of [283, 2051, 2323, 2324, 2331, 2332, 2333, 2334, 2360, 2362, 2363, 2364, 2365, 2590, 3110, 3113, 3114, 3123, 3125, 4907] [4907, 3114, 3110, 3113, 3125, 3123, 2323, 2363, 2365, 2360, 2333, 2332, 2331, 2334, 2362, 2364, 283, 2051, 2324, 2590] (by decide) rfl (fun F w => ?_)
  have h := Writes.refl F s
  repeat' first
    | with_reducible assumption
    | with_reducible exact Writes.refl _ _
    | exact subTrans w (by decide)
    | intro _ _
    | intro _
    | with_reducible apply State.residueLink_writes

theorem execPortDownHoldExpire_writes {s t} {a0} (e : execPortDownHoldExpire a0 s = .next t) :
    OnlyWrites (tallyFields ++ releaseFields ++ cardFields ++ [Reg.QSCH.HOLD_ACTIVE, Reg.QSCH.FLUSHED, Reg.QSCH.MC_RESIDUE_DISCARDS]) s t := by
  obtain rfl := Host.Outcome.next.inj e
  refine Writes.only_of [283, 2323, 2331, 2332, 2333, 2334, 2360, 2362, 2363, 2364, 2365, 2569, 2584, 2586, 3076, 3083, 3084, 3085, 3104, 3110, 3113, 3114, 3123, 3125, 4907] [4907, 3114, 3110, 3113, 3125, 3123, 2323, 2363, 2365, 2360, 2333, 2332, 2331, 2334, 2362, 2364, 283, 3104, 3084, 3083, 3076, 3085, 2569, 2584, 2586] (by decide) rfl (fun F w => ?_)
  have h := Writes.refl F s
  repeat' first
    | with_reducible assumption
    | with_reducible exact Writes.refl _ _
    | exact subTrans w (by decide)
    | intro _ _
    | intro _
    | with_reducible apply State.holdExpire_writes

theorem execParse_writes {s t} {a0 a1} (e : execParse a0 a1 s = .next t) :
    OnlyWrites (tallyFields ++ releaseFields ++ allocFields ++ cardFields ++ [Reg.PARSE.PASSES, Reg.PARSE.LM_CAUSE, Reg.PARSE.LM_STATE, Reg.PARSE.LM_CURSOR, Reg.PARSE.LM_VALID, Reg.PARSE.MALF_COUNT, Reg.PARSE.LATE_SHORT, Reg.PARSE.SP_COUNT, Reg.PARSE.SP_POLICED, Reg.MAP.RECIRC_OUT, Reg.CRUC.EXHAUSTED, Reg.CRUC.CT_FRAMES, Reg.CRUC.CT_STOMPED, Reg.CRUC.PARSE_ABANDON, Reg.CRUC.HOLD_FULL, Reg.QSCH.BAD_QUEUE, Reg.QSCH.DOWN_DISCARDS, Reg.QSCH.MC_RESIDUE_DISCARDS, Reg.QSCH.LAUNCH_REFUSED]) s t := by
  obtain rfl := Host.Outcome.next.inj e
  refine Writes.only_of [283, 1037, 1038, 1039, 1040, 1041, 1042, 1043, 1044, 1045, 2051, 2316, 2317, 2318, 2319, 2320, 2321, 2322, 2323, 2324, 2325, 2326, 2327, 2331, 2332, 2333, 2334, 2360, 2362, 2363, 2364, 2365, 2566, 2585, 2586, 2590, 3076, 3083, 3084, 3085, 3104, 3110, 3113, 3114, 3123, 3125, 4907] [4907, 3114, 3110, 3113, 3125, 3123, 2323, 2363, 2365, 2360, 2333, 2332, 2331, 2334, 2362, 2364, 283, 2316, 2319, 2317, 2322, 2320, 2321, 3104, 3084, 3083, 3076, 3085, 1037, 1038, 1039, 1040, 1041, 1042, 1043, 1044, 1045, 2051, 2318, 2324, 2325, 2326, 2327, 2566, 2585, 2586, 2590] (by decide) rfl (fun F w => ?_)
  have h := Writes.refl F s
  repeat' first
    | with_reducible assumption
    | with_reducible exact Writes.refl _ _
    | exact subTrans w (by decide)
    | intro _ _
    | intro _
    | with_reducible apply State.parseSlot_writes

theorem execEmInsert_writes {s t} {a0} (e : execEmInsert a0 s = .next t) :
    OnlyWrites (tallyFields ++ emEndFields ++ [Reg.EM.CMD_CMD_OVERRUN]) s t := by
  obtain rfl := Host.Outcome.next.inj e
  refine Writes.only_of [1541, 1543, 1544, 1545, 1546, 1548, 1549, 3110, 3113, 3114, 3123, 3125, 4907] [4907, 3114, 3110, 3113, 3125, 3123, 1541, 1543, 1549, 1546, 1545, 1548, 1544] (by decide) rfl (fun F w => ?_)
  have h := Writes.refl F s
  repeat' first
    | with_reducible assumption
    | with_reducible exact Writes.refl _ _
    | exact subTrans w (by decide)
    | intro _ _
    | intro _
    | with_reducible apply State.viaHost_writes
    | with_reducible apply State.emCommand_writes

theorem execEmReplace_writes {s t} {a0} (e : execEmReplace a0 s = .next t) :
    OnlyWrites (tallyFields ++ emEndFields ++ [Reg.EM.CMD_CMD_OVERRUN]) s t := by
  obtain rfl := Host.Outcome.next.inj e
  refine Writes.only_of [1541, 1543, 1544, 1545, 1546, 1548, 1549, 3110, 3113, 3114, 3123, 3125, 4907] [4907, 3114, 3110, 3113, 3125, 3123, 1541, 1543, 1549, 1546, 1545, 1548, 1544] (by decide) rfl (fun F w => ?_)
  have h := Writes.refl F s
  repeat' first
    | with_reducible assumption
    | with_reducible exact Writes.refl _ _
    | exact subTrans w (by decide)
    | intro _ _
    | intro _
    | with_reducible apply State.viaHost_writes
    | with_reducible apply State.emCommand_writes

theorem execEmDelete_writes {s t} {a0} (e : execEmDelete a0 s = .next t) :
    OnlyWrites (tallyFields ++ emEndFields ++ [Reg.EM.CMD_CMD_OVERRUN]) s t := by
  obtain rfl := Host.Outcome.next.inj e
  refine Writes.only_of [1541, 1543, 1544, 1545, 1546, 1548, 1549, 3110, 3113, 3114, 3123, 3125, 4907] [4907, 3114, 3110, 3113, 3125, 3123, 1541, 1543, 1549, 1546, 1545, 1548, 1544] (by decide) rfl (fun F w => ?_)
  have h := Writes.refl F s
  repeat' first
    | with_reducible assumption
    | with_reducible exact Writes.refl _ _
    | exact subTrans w (by decide)
    | intro _ _
    | intro _
    | with_reducible apply State.viaHost_writes
    | with_reducible apply State.emCommand_writes

theorem execEmSearch_writes {s t} {a0} (e : execEmSearch a0 s = .next t) :
    OnlyWrites (tallyFields ++ emEndFields ++ [Reg.EM.CMD_CMD_OVERRUN]) s t := by
  obtain rfl := Host.Outcome.next.inj e
  refine Writes.only_of [1541, 1543, 1544, 1545, 1546, 1548, 1549, 3110, 3113, 3114, 3123, 3125, 4907] [4907, 3114, 3110, 3113, 3125, 3123, 1541, 1543, 1549, 1546, 1545, 1548, 1544] (by decide) rfl (fun F w => ?_)
  have h := Writes.refl F s
  repeat' first
    | with_reducible assumption
    | with_reducible exact Writes.refl _ _
    | exact subTrans w (by decide)
    | intro _ _
    | intro _
    | with_reducible apply State.viaHost_writes
    | with_reducible apply State.emCommand_writes

theorem execLearnInsert_writes {s t} (e : execLearnInsert s = .next t) :
    OnlyWrites (tallyFields ++ emEndFields ++ [Reg.EM.T_LEARNS, Reg.EM.T_LEARN_FAIL, Reg.EM.T_NOTICE_LOST, Reg.HOST.R_INDEX, Reg.HOST.R_GEN, Reg.HOST.R_PENDING, Reg.HOST.R_COMPLETED, Reg.HOST.R_DISCARDS]) s t := by
  obtain rfl := Host.Outcome.next.inj e
  refine Writes.only_of [1541, 1543, 1545, 1546, 1548, 1549, 1557, 1559, 1562, 3110, 3113, 3114, 3123, 3125, 3345, 3346, 3349, 3354, 3355, 4907] [4907, 3114, 3110, 3113, 3125, 3123, 1541, 1543, 1549, 1546, 1545, 1548, 1557, 1559, 1562, 3345, 3346, 3349, 3354, 3355] (by decide) rfl (fun F w => ?_)
  have h := Writes.refl F s
  repeat' first
    | with_reducible assumption
    | with_reducible exact Writes.refl _ _
    | exact subTrans w (by decide)
    | intro _ _
    | intro _
    | with_reducible apply State.learnServe_writes

theorem execAgeVisit_writes {s t} {a0 a1} (e : execAgeVisit a0 a1 s = .next t) :
    OnlyWrites (tallyFields ++ checkFields ++ [Reg.EM.T_AGED, Reg.EM.T_AGE_SKIPPED, Reg.EM.T_NOTICE_LOST, Reg.HOST.R_INDEX, Reg.HOST.R_GEN, Reg.HOST.R_PENDING, Reg.HOST.R_COMPLETED, Reg.HOST.R_DISCARDS]) s t := by
  obtain rfl := Host.Outcome.next.inj e
  refine Writes.only_of [1560, 1561, 1562, 3110, 3113, 3114, 3123, 3125, 3345, 3346, 3349, 3354, 3355, 3844, 3846, 3847, 3849, 3851, 3852, 3853, 3854, 3855, 3856, 3858, 4907] [4907, 3114, 3110, 3113, 3125, 3123, 3844, 3846, 3856, 3849, 3847, 3854, 3853, 3852, 3851, 3855, 3858, 1560, 1561, 1562, 3345, 3346, 3349, 3354, 3355] (by decide) rfl (fun F w => ?_)
  have h := Writes.refl F s
  repeat' first
    | with_reducible assumption
    | with_reducible exact Writes.refl _ _
    | exact subTrans w (by decide)
    | intro _ _
    | intro _
    | with_reducible apply State.anvilStep_writes
    | with_reducible apply State.ageStep_writes

theorem execEmClaspRequest_writes {s t} {a0} (e : execEmClaspRequest a0 s = .next t) :
    OnlyWrites ([Reg.EM.REQ]) s t := by
  obtain rfl := Host.Outcome.next.inj e
  refine Writes.only_of [1565] [1565] (by decide) rfl (fun F w => ?_)
  have h := Writes.refl F s
  repeat' first
    | with_reducible assumption
    | with_reducible exact Writes.refl _ _
    | exact subTrans w (by decide)
    | intro _ _
    | intro _
    | with_reducible apply State.viaHost_writes
    | with_reducible apply State.emClaspReq_writes

theorem execEmClaspGrant_writes {s t} {a0} (e : execEmClaspGrant a0 s = .next t) :
    OnlyWrites ([Reg.EM.HELD]) s t := by
  obtain rfl := Host.Outcome.next.inj e
  refine Writes.only_of [1566] [1566] (by decide) rfl (fun F w => ?_)
  have h := Writes.refl F s
  repeat' first
    | with_reducible assumption
    | with_reducible exact Writes.refl _ _
    | exact subTrans w (by decide)
    | intro _ _
    | intro _
    | with_reducible apply State.emClaspGrant_writes

theorem execEmClaspRelease_writes {s t} {a0} (e : execEmClaspRelease a0 s = .next t) :
    OnlyWrites ([Reg.EM.REQ, Reg.EM.HELD]) s t := by
  obtain rfl := Host.Outcome.next.inj e
  refine Writes.only_of [1565, 1566] [1565, 1566] (by decide) rfl (fun F w => ?_)
  have h := Writes.refl F s
  repeat' first
    | with_reducible assumption
    | with_reducible exact Writes.refl _ _
    | exact subTrans w (by decide)
    | intro _ _
    | intro _
    | with_reducible apply State.viaHost_writes
    | with_reducible apply State.emClaspFree_writes

theorem execAseWriteAt_writes {s t} {a0} (e : execAseWriteAt a0 s = .next t) :
    OnlyWrites (tallyFields ++ [Reg.ASE.CMD_CODE, Reg.ASE.CMD_DONE]) s t := by
  obtain rfl := Host.Outcome.next.inj e
  refine Writes.only_of [1805, 1807, 3110, 3113, 3114, 3123, 3125, 4907] [4907, 3114, 3110, 3113, 3125, 3123, 1805, 1807] (by decide) rfl (fun F w => ?_)
  have h := Writes.refl F s
  repeat' first
    | with_reducible assumption
    | with_reducible exact Writes.refl _ _
    | exact subTrans w (by decide)
    | intro _ _
    | intro _
    | with_reducible apply State.viaHost_writes
    | with_reducible apply State.aseWriteAt_writes

theorem execAseInsertAt_writes {s t} {a0} (e : execAseInsertAt a0 s = .next t) :
    OnlyWrites (tallyFields ++ [Reg.ASE.CMD_CODE, Reg.ASE.CMD_DONE, Reg.ASE.CMD_MOVES, Reg.ASE.P_MOVES]) s t := by
  obtain rfl := Host.Outcome.next.inj e
  refine Writes.only_of [1805, 1807, 1810, 1833, 3110, 3113, 3114, 3123, 3125, 4907] [4907, 3114, 3110, 3113, 3125, 3123, 1805, 1807, 1810, 1833] (by decide) rfl (fun F w => ?_)
  have h := Writes.refl F s
  repeat' first
    | with_reducible assumption
    | with_reducible exact Writes.refl _ _
    | exact subTrans w (by decide)
    | intro _ _
    | intro _
    | with_reducible apply State.viaHost_writes
    | with_reducible apply State.aseInsertAt_writes

theorem execAseDeleteAt_writes {s t} {a0} (e : execAseDeleteAt a0 s = .next t) :
    OnlyWrites (tallyFields ++ [Reg.ASE.CMD_CODE, Reg.ASE.CMD_DONE]) s t := by
  obtain rfl := Host.Outcome.next.inj e
  refine Writes.only_of [1805, 1807, 3110, 3113, 3114, 3123, 3125, 4907] [4907, 3114, 3110, 3113, 3125, 3123, 1805, 1807] (by decide) rfl (fun F w => ?_)
  have h := Writes.refl F s
  repeat' first
    | with_reducible assumption
    | with_reducible exact Writes.refl _ _
    | exact subTrans w (by decide)
    | intro _ _
    | intro _
    | with_reducible apply State.viaHost_writes
    | with_reducible apply State.aseDeleteAt_writes

theorem execAseSearchCmd_writes {s t} {a0 a1 a2} (e : execAseSearchCmd a0 a1 a2 s = .next t) :
    OnlyWrites (tallyFields ++ repairFields ++ [Reg.ASE.CMD_CODE, Reg.ASE.CMD_DONE, Reg.ASE.CMD_MULTI, Reg.ASE.OP_PRIORITY, Reg.ASE.OP_USER, Reg.ASE.OP_RESULT, Reg.ASE.F_BANK, Reg.ASE.F_INDEX, Reg.ASE.F_FOUND, Reg.ASE.P_SEARCHES, Reg.ASE.P_HITS, Reg.ASE.P_MULTI_HITS]) s t := by
  obtain rfl := Host.Outcome.next.inj e
  refine Writes.only_of [1794, 1795, 1796, 1797, 1798, 1799, 1805, 1807, 1809, 1813, 1814, 1815, 1816, 1817, 1819, 1829, 1830, 1831, 1832, 3110, 3113, 3114, 3123, 3125, 4907] [4907, 3114, 3110, 3113, 3125, 3123, 1795, 1798, 1796, 1797, 1799, 1832, 1794, 1805, 1807, 1809, 1813, 1814, 1815, 1816, 1817, 1819, 1829, 1830, 1831] (by decide) rfl (fun F w => ?_)
  have h := Writes.refl F s
  repeat' first
    | with_reducible assumption
    | with_reducible exact Writes.refl _ _
    | exact subTrans w (by decide)
    | intro _ _
    | intro _
    | with_reducible apply State.viaHost_writes
    | with_reducible apply State.aseCmdSearch_writes

theorem execAseStep_writes {s t} {a0 a1 a2} (e : execAseStep a0 a1 a2 s = .next t) :
    OnlyWrites (tallyFields ++ repairFields ++ [Reg.ASE.CMD_CODE, Reg.ASE.CMD_DONE, Reg.ASE.OP_PRIORITY, Reg.ASE.OP_USER, Reg.ASE.OP_RESULT, Reg.ASE.F_BANK, Reg.ASE.F_INDEX, Reg.ASE.F_FOUND]) s t := by
  obtain rfl := Host.Outcome.next.inj e
  refine Writes.only_of [1794, 1795, 1796, 1797, 1798, 1799, 1805, 1807, 1813, 1814, 1815, 1816, 1817, 1819, 1832, 3110, 3113, 3114, 3123, 3125, 4907] [4907, 3114, 3110, 3113, 3125, 3123, 1795, 1798, 1796, 1797, 1799, 1832, 1794, 1805, 1807, 1813, 1814, 1815, 1816, 1817, 1819] (by decide) rfl (fun F w => ?_)
  have h := Writes.refl F s
  repeat' first
    | with_reducible assumption
    | with_reducible exact Writes.refl _ _
    | exact subTrans w (by decide)
    | intro _ _
    | intro _
    | with_reducible apply State.viaHost_writes
    | with_reducible apply State.aseCmdStep_writes

theorem execAseReadAt_writes {s t} {a0 a1} (e : execAseReadAt a0 a1 s = .next t) :
    OnlyWrites (tallyFields ++ [Reg.ASE.CMD_CODE, Reg.ASE.CMD_DONE, Reg.ASE.OP_KEY, Reg.ASE.OP_MASK, Reg.ASE.OP_PRIORITY, Reg.ASE.OP_USER, Reg.ASE.OP_RESULT, Reg.ASE.F_BANK, Reg.ASE.F_INDEX, Reg.ASE.F_SHADOW, Reg.ASE.F_FOUND]) s t := by
  obtain rfl := Host.Outcome.next.inj e
  refine Writes.only_of [1805, 1807, 1811, 1812, 1813, 1814, 1815, 1816, 1817, 1818, 1819, 3110, 3113, 3114, 3123, 3125, 4907] [4907, 3114, 3110, 3113, 3125, 3123, 1805, 1807, 1811, 1812, 1813, 1814, 1815, 1816, 1817, 1818, 1819] (by decide) rfl (fun F w => ?_)
  have h := Writes.refl F s
  repeat' first
    | with_reducible assumption
    | with_reducible exact Writes.refl _ _
    | exact subTrans w (by decide)
    | intro _ _
    | intro _
    | with_reducible apply State.viaHost_writes
    | with_reducible apply State.aseReadAt_writes

theorem execAseClaspRequest_writes {s t} {a0} (e : execAseClaspRequest a0 s = .next t) :
    OnlyWrites ([Reg.ASE.REQ]) s t := by
  obtain rfl := Host.Outcome.next.inj e
  refine Writes.only_of [1837] [1837] (by decide) rfl (fun F w => ?_)
  have h := Writes.refl F s
  repeat' first
    | with_reducible assumption
    | with_reducible exact Writes.refl _ _
    | exact subTrans w (by decide)
    | intro _ _
    | intro _
    | with_reducible apply State.viaHost_writes
    | with_reducible apply State.aseClaspReq_writes

theorem execAseClaspGrant_writes {s t} {a0} (e : execAseClaspGrant a0 s = .next t) :
    OnlyWrites ([Reg.ASE.HELD]) s t := by
  obtain rfl := Host.Outcome.next.inj e
  refine Writes.only_of [1838] [1838] (by decide) rfl (fun F w => ?_)
  have h := Writes.refl F s
  repeat' first
    | with_reducible assumption
    | with_reducible exact Writes.refl _ _
    | exact subTrans w (by decide)
    | intro _ _
    | intro _
    | with_reducible apply State.aseClaspGrant_writes

theorem execAseClaspRelease_writes {s t} {a0} (e : execAseClaspRelease a0 s = .next t) :
    OnlyWrites ([Reg.ASE.REQ, Reg.ASE.HELD]) s t := by
  obtain rfl := Host.Outcome.next.inj e
  refine Writes.only_of [1837, 1838] [1837, 1838] (by decide) rfl (fun F w => ?_)
  have h := Writes.refl F s
  repeat' first
    | with_reducible assumption
    | with_reducible exact Writes.refl _ _
    | exact subTrans w (by decide)
    | intro _ _
    | intro _
    | with_reducible apply State.viaHost_writes
    | with_reducible apply State.aseClaspFree_writes

theorem execPlanishScrubStep_writes {s t} {a0 a1 a2 a3} (e : execPlanishScrubStep a0 a1 a2 a3 s = .next t) :
    OnlyWrites (tallyFields ++ checkFields ++ repairFields ++ [Reg.CRUC.CORR, Reg.CRUC.REBUILT, Reg.CRUC.MS_DEGRADED, Reg.ANVL.COVER_MISS, Reg.ANVL.PLANISH_MS, Reg.ANVL.ASE_PASS_US, Reg.ANVL.SCRUB_CORR, Reg.ANVL.SCRUB_UNCORR]) s t := by
  obtain rfl := Host.Outcome.next.inj e
  refine Writes.only_of [1794, 1795, 1796, 1797, 1798, 1799, 1832, 2329, 2330, 2343, 3110, 3113, 3114, 3123, 3125, 3844, 3846, 3847, 3849, 3850, 3851, 3852, 3853, 3854, 3855, 3856, 3858, 3861, 3862, 3864, 3865, 4907] [4907, 3114, 3110, 3113, 3125, 3123, 3844, 3846, 3856, 3849, 3847, 3854, 3853, 3852, 3851, 3855, 3858, 1795, 1798, 1796, 1797, 1799, 1832, 1794, 2329, 2330, 2343, 3850, 3861, 3862, 3864, 3865] (by decide) rfl (fun F w => ?_)
  have h := Writes.refl F s
  repeat' first
    | with_reducible assumption
    | with_reducible exact Writes.refl _ _
    | exact subTrans w (by decide)
    | intro _ _
    | intro _
    | with_reducible apply State.anvilStep_writes
    | with_reducible apply State.scrub_writes
    | with_reducible apply State.scrubPass_writes
    | with_reducible apply State.when_writes

theorem execStageLookupIssue_writes {s t} {a0 a1 a2 a3 a4 a5} (e : execStageLookupIssue a0 a1 a2 a3 a4 a5 s = .next t) :
    OnlyWrites (tallyFields ++ repairFields ++ [Reg.FIL.LOOKUPS, Reg.FIL.HITS, Reg.FIL.ERRORS, Reg.EM.ECC_CORR, Reg.EM.T_LOOKUPS, Reg.EM.T_HITS, Reg.EM.T_DUPLICATES, Reg.EM.T_ERRORS, Reg.ASE.P_SEARCHES, Reg.ASE.P_HITS, Reg.ASE.P_MULTI_HITS, Reg.MAP.ACTION_ERR, Reg.MAP.LE_STAGE, Reg.MAP.LE_KIND, Reg.MAP.LE_WORD, Reg.MAP.LE_VALID]) s t := by
  obtain rfl := Host.Outcome.next.inj e
  refine Writes.only_of [1286, 1287, 1288, 1538, 1555, 1556, 1563, 1564, 1794, 1795, 1796, 1797, 1798, 1799, 1829, 1830, 1831, 1832, 2056, 2061, 2062, 2063, 2064, 3110, 3113, 3114, 3123, 3125, 4907] [4907, 3114, 3110, 3113, 3125, 3123, 1795, 1798, 1796, 1797, 1799, 1832, 1794, 1286, 1287, 1288, 1538, 1555, 1556, 1563, 1564, 1829, 1830, 1831, 2056, 2061, 2062, 2063, 2064] (by decide) rfl (fun F w => ?_)
  have h := Writes.refl F s
  repeat' first
    | with_reducible assumption
    | with_reducible exact Writes.refl _ _
    | exact subTrans w (by decide)
    | intro _ _
    | intro _
    | with_reducible apply State.stageIssue_writes

theorem execStageActionRun_writes {s t} {a0 a1 a2 a3} (e : execStageActionRun a0 a1 a2 a3 s = .next t) :
    OnlyWrites (tallyFields ++ releaseFields ++ cardFields ++ editFields ++ [Reg.PARSE.SP_COUNT, Reg.PARSE.SP_POLICED, Reg.EM.T_LEARN_DROP, Reg.MAP.RECIRC_OUT, Reg.MAP.RECIRC_LIMIT, Reg.MAP.VERDICT_DROPS, Reg.MAP.NO_DEST, Reg.MAP.EG_DROPS, Reg.MAP.ACTION_ERR, Reg.MAP.COUNT_RANGE, Reg.MAP.EDIT_ERR, Reg.MAP.EDIT_OVERSIZE, Reg.MAP.EDIT_PAD, Reg.MAP.LE_STAGE, Reg.MAP.LE_KIND, Reg.MAP.LE_WORD, Reg.MAP.LE_VALID, Reg.CRUC.CT_FRAMES, Reg.CRUC.HOLD_FULL, Reg.CRUC.SEG_LOST, Reg.CRUC.CORR, Reg.CRUC.REBUILT, Reg.CRUC.MS_DEGRADED, Reg.QSCH.POLICER_DROPS, Reg.QSCH.MC_INVALID, Reg.QSCH.MC_NO_COPY, Reg.QSCH.REPL_STALLS, Reg.QSCH.BAD_QUEUE, Reg.QSCH.DOWN_DISCARDS, Reg.QSCH.MC_RESIDUE_DISCARDS, Reg.QSCH.LAUNCH_REFUSED, Reg.TELE.FC_EVICTED, Reg.TELE.CNT_ECC, Reg.TELE.FS_WR_PTR, Reg.TELE.FS_RD_PTR, Reg.TELE.FS_FS_LOST, Reg.HOST.R_INDEX, Reg.HOST.R_GEN, Reg.HOST.R_PENDING, Reg.HOST.R_COMPLETED, Reg.HOST.R_DISCARDS]) s t := by
  obtain rfl := Host.Outcome.next.inj e
  refine Writes.only_of [283, 1044, 1045, 1558, 2051, 2052, 2053, 2054, 2055, 2056, 2057, 2058, 2059, 2060, 2061, 2062, 2063, 2064, 2323, 2324, 2327, 2328, 2329, 2330, 2331, 2332, 2333, 2334, 2343, 2360, 2362, 2363, 2364, 2365, 2561, 2562, 2563, 2564, 2565, 2566, 2585, 2586, 2590, 2877, 2879, 2880, 2881, 3076, 3077, 3078, 3079, 3080, 3082, 3083, 3084, 3085, 3100, 3101, 3102, 3104, 3110, 3113, 3114, 3123, 3125, 3345, 3346, 3349, 3354, 3355, 4907] [4907, 3114, 3110, 3113, 3125, 3123, 2323, 2363, 2365, 2360, 2333, 2332, 2331, 2334, 2362, 2364, 283, 3104, 3084, 3083, 3076, 3085, 2565, 3079, 3077, 3078, 2881, 2880, 2879, 2877, 1044, 1045, 1558, 2051, 2052, 2053, 2054, 2055, 2056, 2057, 2058, 2059, 2060, 2061, 2062, 2063, 2064, 2324, 2327, 2328, 2329, 2330, 2343, 2561, 2562, 2563, 2564, 2566, 2585, 2586, 2590, 3080, 3082, 3100, 3101, 3102, 3345, 3346, 3349, 3354, 3355] (by decide) rfl (fun F w => ?_)
  have h := Writes.refl F s
  repeat' first
    | with_reducible assumption
    | with_reducible exact Writes.refl _ _
    | exact subTrans w (by decide)
    | intro _ _
    | intro _
    | with_reducible apply State.stageAct_writes

theorem execTxFfeWrite_writes {s t} {a0 a1} (e : execTxFfeWrite a0 a1 s = .next t) :
    OnlyWrites ([Reg.LANE.FFE_REJECT, Reg.LANE.PRE, Reg.LANE.MAIN, Reg.LANE.POST]) s t := by
  obtain rfl := Host.Outcome.next.inj e
  refine Writes.only_of [519, 521, 522, 523] [519, 521, 522, 523] (by decide) rfl (fun F w => ?_)
  have h := Writes.refl F s
  repeat' first
    | with_reducible assumption
    | with_reducible exact Writes.refl _ _
    | exact subTrans w (by decide)
    | intro _ _
    | intro _
    | with_reducible apply State.viaHost_writes
    | with_reducible apply State.ffeWrite_writes

theorem execLtCoeffRequest_writes {s t} {a0 a1} (e : execLtCoeffRequest a0 a1 s = .next t) :
    OnlyWrites ([Reg.LANE.PRE, Reg.LANE.MAIN, Reg.LANE.POST]) s t := by
  obtain rfl := Host.Outcome.next.inj e
  refine Writes.only_of [521, 522, 523] [521, 522, 523] (by decide) rfl (fun F w => ?_)
  have h := Writes.refl F s
  repeat' first
    | with_reducible assumption
    | with_reducible exact Writes.refl _ _
    | exact subTrans w (by decide)
    | intro _ _
    | intro _
    | with_reducible apply State.ltRequest_writes

theorem execAdaptRestart_writes {s t} {a0} (e : execAdaptRestart a0 s = .next t) :
    OnlyWrites ([Reg.LANE.ADAPT_CONVERGED, Reg.LANE.CTLE_PEAK, Reg.LANE.DFE_TAP1, Reg.LANE.RX_FFE_PRE, Reg.LANE.SNR]) s t := by
  obtain rfl := Host.Outcome.next.inj e
  refine Writes.only_of [518, 524, 525, 526, 527] [518, 524, 525, 526, 527] (by decide) rfl (fun F w => ?_)
  have h := Writes.refl F s
  repeat' first
    | with_reducible assumption
    | with_reducible exact Writes.refl _ _
    | exact subTrans w (by decide)
    | intro _ _
    | intro _
    | with_reducible apply State.viaHost_writes
    | with_reducible apply State.adaptRestart_writes

theorem execCalibrationStep_writes {s t} {a0 a1 a2 a3} (e : execCalibrationStep a0 a1 a2 a3 s = .next t) :
    OnlyWrites (checkFields ++ [Reg.LANE.ADAPT_CONVERGED, Reg.LANE.CTLE_PEAK, Reg.LANE.DFE_TAP1, Reg.LANE.RX_FFE_PRE, Reg.LANE.SNR]) s t := by
  obtain rfl := Host.Outcome.next.inj e
  refine Writes.only_of [518, 524, 525, 526, 527, 3844, 3846, 3847, 3849, 3851, 3852, 3853, 3854, 3855, 3856, 3858] [3844, 3846, 3856, 3849, 3847, 3854, 3853, 3852, 3851, 3855, 3858, 518, 524, 525, 526, 527] (by decide) rfl (fun F w => ?_)
  have h := Writes.refl F s
  repeat' first
    | with_reducible assumption
    | with_reducible exact Writes.refl _ _
    | exact subTrans w (by decide)
    | intro _ _
    | intro _
    | with_reducible apply State.anvilStep_writes
    | with_reducible apply State.calibrate_writes

theorem execPauseFrameRx_writes {s t} {a0 a1 a2 a3 a4 a5 a6 a7 a8 a9 a10} (e : execPauseFrameRx a0 a1 a2 a3 a4 a5 a6 a7 a8 a9 a10 s = .next t) :
    OnlyWrites ([Reg.PORT.PAUSE_IGNORED, Reg.PORT.PAUSE_RX, Reg.PORT.XON_RX, Reg.PORT.PFC_RX_XOFF]) s t := by
  obtain rfl := Host.Outcome.next.inj e
  refine Writes.only_of [821, 824, 826, 828] [821, 824, 826, 828] (by decide) rfl (fun F w => ?_)
  have h := Writes.refl F s
  repeat' first
    | with_reducible assumption
    | with_reducible exact Writes.refl _ _
    | exact subTrans w (by decide)
    | intro _ _
    | intro _
    | with_reducible apply State.bwCount_writes
    | with_reducible apply State.pauseRx_writes
    | with_reducible apply State.when_writes

theorem execPauseTimerExpire_writes {s t} {a0 a1} (e : execPauseTimerExpire a0 a1 s = .next t) :
    OnlyWrites ([]) s t := by
  obtain rfl := Host.Outcome.next.inj e
  refine Writes.only_of [] [] (by decide) rfl (fun F w => ?_)
  have h := Writes.refl F s
  repeat' first
    | with_reducible assumption
    | with_reducible exact Writes.refl _ _
    | exact subTrans w (by decide)
    | intro _ _
    | intro _
    | with_reducible apply State.pauseExpire_writes

theorem execPauseTx_writes {s t} {a0} (e : execPauseTx a0 s = .next t) :
    OnlyWrites ([Reg.PORT.PAUSE_TX, Reg.PORT.XON_TX, Reg.PORT.PFC_TX_XOFF]) s t := by
  obtain rfl := Host.Outcome.next.inj e
  refine Writes.only_of [825, 827, 829] [825, 827, 829] (by decide) rfl (fun F w => ?_)
  have h := Writes.refl F s
  repeat' first
    | with_reducible assumption
    | with_reducible exact Writes.refl _ _
    | exact subTrans w (by decide)
    | intro _ _
    | intro _
    | with_reducible apply State.pauseTx_writes

theorem execPauseRefresh_writes {s t} {a0 a1} (e : execPauseRefresh a0 a1 s = .next t) :
    OnlyWrites ([Reg.PORT.PAUSE_TX, Reg.PORT.XON_TX, Reg.PORT.PFC_TX_XOFF]) s t := by
  obtain rfl := Host.Outcome.next.inj e
  refine Writes.only_of [825, 827, 829] [825, 827, 829] (by decide) rfl (fun F w => ?_)
  have h := Writes.refl F s
  repeat' first
    | with_reducible assumption
    | with_reducible exact Writes.refl _ _
    | exact subTrans w (by decide)
    | intro _ _
    | intro _
    | with_reducible apply State.pauseRefresh_writes

theorem execStormEnter_writes {s t} {a0 a1} (e : execStormEnter a0 a1 s = .next t) :
    OnlyWrites ([Reg.PORT.EV_STORM_ENTER, Reg.PORT.STORM_ACTIVE, Reg.GLB.PENDING]) s t := by
  obtain rfl := Host.Outcome.next.inj e
  refine Writes.only_of [796, 812, 4907] [796, 812, 4907] (by decide) rfl (fun F w => ?_)
  have h := Writes.refl F s
  repeat' first
    | with_reducible assumption
    | with_reducible exact Writes.refl _ _
    | exact subTrans w (by decide)
    | intro _ _
    | intro _
    | with_reducible apply State.stormEnter_writes

theorem execStormExit_writes {s t} {a0 a1} (e : execStormExit a0 a1 s = .next t) :
    OnlyWrites ([Reg.PORT.EV_STORM_EXIT, Reg.PORT.STORM_ACTIVE, Reg.GLB.PENDING]) s t := by
  obtain rfl := Host.Outcome.next.inj e
  refine Writes.only_of [798, 812, 4907] [798, 812, 4907] (by decide) rfl (fun F w => ?_)
  have h := Writes.refl F s
  repeat' first
    | with_reducible assumption
    | with_reducible exact Writes.refl _ _
    | exact subTrans w (by decide)
    | intro _ _
    | intro _
    | with_reducible apply State.stormExit_writes

theorem execAnComplete_writes {s t} {a0 a1 a2} (e : execAnComplete a0 a1 a2 s = .next t) :
    OnlyWrites (tallyFields ++ releaseFields ++ cardFields ++ linkFields ++ leaveFields ++ [Reg.PORT.LP_PAUSE, Reg.PORT.EV_AN_FAIL]) s t := by
  obtain rfl := Host.Outcome.next.inj e
  refine Writes.only_of [283, 520, 521, 522, 523, 540, 775, 776, 783, 784, 785, 788, 790, 819, 823, 2323, 2325, 2331, 2332, 2333, 2334, 2360, 2362, 2363, 2364, 2365, 2569, 2584, 2586, 3076, 3083, 3084, 3085, 3104, 3110, 3113, 3114, 3123, 3125, 4907] [4907, 3114, 3110, 3113, 3125, 3123, 2323, 2363, 2365, 2360, 2333, 2332, 2331, 2334, 2362, 2364, 283, 3104, 3084, 3083, 3076, 3085, 540, 522, 523, 521, 520, 784, 775, 776, 785, 2325, 788, 823, 819, 2584, 2569, 2586, 783, 790] (by decide) rfl (fun F w => ?_)
  have h := Writes.refl F s
  repeat' first
    | with_reducible assumption
    | with_reducible exact Writes.refl _ _
    | exact subTrans w (by decide)
    | intro _ _
    | intro _
    | with_reducible apply State.anComplete_writes

theorem execAnFail_writes {s t} {a0} (e : execAnFail a0 s = .next t) :
    OnlyWrites (tallyFields ++ releaseFields ++ cardFields ++ linkFields ++ leaveFields ++ [Reg.PORT.EV_AN_FAIL]) s t := by
  obtain rfl := Host.Outcome.next.inj e
  refine Writes.only_of [283, 520, 521, 522, 523, 540, 775, 776, 784, 785, 788, 790, 819, 823, 2323, 2325, 2331, 2332, 2333, 2334, 2360, 2362, 2363, 2364, 2365, 2569, 2584, 2586, 3076, 3083, 3084, 3085, 3104, 3110, 3113, 3114, 3123, 3125, 4907] [4907, 3114, 3110, 3113, 3125, 3123, 2323, 2363, 2365, 2360, 2333, 2332, 2331, 2334, 2362, 2364, 283, 3104, 3084, 3083, 3076, 3085, 540, 522, 523, 521, 520, 784, 775, 776, 785, 2325, 788, 823, 819, 2584, 2569, 2586, 790] (by decide) rfl (fun F w => ?_)
  have h := Writes.refl F s
  repeat' first
    | with_reducible assumption
    | with_reducible exact Writes.refl _ _
    | exact subTrans w (by decide)
    | intro _ _
    | intro _
    | with_reducible apply State.anFail_writes

theorem execTrainingComplete_writes {s t} {a0} (e : execTrainingComplete a0 s = .next t) :
    OnlyWrites (linkFields) s t := by
  obtain rfl := Host.Outcome.next.inj e
  refine Writes.only_of [520, 521, 522, 523, 540, 775, 776, 784, 785] [540, 522, 523, 521, 520, 784, 775, 776, 785] (by decide) rfl (fun F w => ?_)
  have h := Writes.refl F s
  repeat' first
    | with_reducible assumption
    | with_reducible exact Writes.refl _ _
    | exact subTrans w (by decide)
    | intro _ _
    | intro _
    | with_reducible apply State.trainComplete_writes

theorem execTrainFail_writes {s t} {a0} (e : execTrainFail a0 s = .next t) :
    OnlyWrites (tallyFields ++ releaseFields ++ cardFields ++ linkFields ++ leaveFields ++ [Reg.PORT.EV_TRAIN_FAIL]) s t := by
  obtain rfl := Host.Outcome.next.inj e
  refine Writes.only_of [283, 520, 521, 522, 523, 540, 775, 776, 784, 785, 788, 792, 819, 823, 2323, 2325, 2331, 2332, 2333, 2334, 2360, 2362, 2363, 2364, 2365, 2569, 2584, 2586, 3076, 3083, 3084, 3085, 3104, 3110, 3113, 3114, 3123, 3125, 4907] [4907, 3114, 3110, 3113, 3125, 3123, 2323, 2363, 2365, 2360, 2333, 2332, 2331, 2334, 2362, 2364, 283, 3104, 3084, 3083, 3076, 3085, 540, 522, 523, 521, 520, 784, 775, 776, 785, 2325, 788, 823, 819, 2584, 2569, 2586, 792] (by decide) rfl (fun F w => ?_)
  have h := Writes.refl F s
  repeat' first
    | with_reducible assumption
    | with_reducible exact Writes.refl _ _
    | exact subTrans w (by decide)
    | intro _ _
    | intro _
    | with_reducible apply State.trainFail_writes

theorem execLinkUp_writes {s t} {a0} (e : execLinkUp a0 s = .next t) :
    OnlyWrites ([Reg.PORT.LINK_STATE, Reg.PORT.LINK_UP, Reg.PORT.EV_LINK_UP_EVT, Reg.QSCH.HOLD_ACTIVE, Reg.GLB.PENDING]) s t := by
  obtain rfl := Host.Outcome.next.inj e
  refine Writes.only_of [775, 776, 786, 2569, 4907] [775, 776, 786, 2569, 4907] (by decide) rfl (fun F w => ?_)
  have h := Writes.refl F s
  repeat' first
    | with_reducible assumption
    | with_reducible exact Writes.refl _ _
    | exact subTrans w (by decide)
    | intro _ _
    | intro _
    | with_reducible apply State.linkUpNow_writes

theorem execAlignTimeout_writes {s t} {a0} (e : execAlignTimeout a0 s = .next t) :
    OnlyWrites (tallyFields ++ releaseFields ++ cardFields ++ linkFields ++ leaveFields ++ [Reg.PORT.EV_ALIGN_TIMEOUT_EVT]) s t := by
  obtain rfl := Host.Outcome.next.inj e
  refine Writes.only_of [283, 520, 521, 522, 523, 540, 775, 776, 784, 785, 788, 794, 819, 823, 2323, 2325, 2331, 2332, 2333, 2334, 2360, 2362, 2363, 2364, 2365, 2569, 2584, 2586, 3076, 3083, 3084, 3085, 3104, 3110, 3113, 3114, 3123, 3125, 4907] [4907, 3114, 3110, 3113, 3125, 3123, 2323, 2363, 2365, 2360, 2333, 2332, 2331, 2334, 2362, 2364, 283, 3104, 3084, 3083, 3076, 3085, 540, 522, 523, 521, 520, 784, 775, 776, 785, 2325, 788, 823, 819, 2584, 2569, 2586, 794] (by decide) rfl (fun F w => ?_)
  have h := Writes.refl F s
  repeat' first
    | with_reducible assumption
    | with_reducible exact Writes.refl _ _
    | exact subTrans w (by decide)
    | intro _ _
    | intro _
    | with_reducible apply State.alignTimeout_writes

theorem execLinkDown_writes {s t} {a0} (e : execLinkDown a0 s = .next t) :
    OnlyWrites (tallyFields ++ releaseFields ++ cardFields ++ linkFields ++ leaveFields) s t := by
  obtain rfl := Host.Outcome.next.inj e
  refine Writes.only_of [283, 520, 521, 522, 523, 540, 775, 776, 784, 785, 788, 819, 823, 2323, 2325, 2331, 2332, 2333, 2334, 2360, 2362, 2363, 2364, 2365, 2569, 2584, 2586, 3076, 3083, 3084, 3085, 3104, 3110, 3113, 3114, 3123, 3125, 4907] [4907, 3114, 3110, 3113, 3125, 3123, 2323, 2363, 2365, 2360, 2333, 2332, 2331, 2334, 2362, 2364, 283, 3104, 3084, 3083, 3076, 3085, 540, 522, 523, 521, 520, 784, 775, 776, 785, 2325, 788, 823, 819, 2584, 2569, 2586] (by decide) rfl (fun F w => ?_)
  have h := Writes.refl F s
  repeat' first
    | with_reducible assumption
    | with_reducible exact Writes.refl _ _
    | exact subTrans w (by decide)
    | intro _ _
    | intro _
    | with_reducible apply State.linkDownNow_writes

theorem execPortEnable_writes {s t} {a0} (e : execPortEnable a0 s = .next t) :
    OnlyWrites (tallyFields ++ releaseFields ++ cardFields ++ linkFields ++ leaveFields ++ [Reg.PORT.ADMIN_UP]) s t := by
  obtain rfl := Host.Outcome.next.inj e
  refine Writes.only_of [283, 520, 521, 522, 523, 540, 768, 775, 776, 784, 785, 788, 819, 823, 2323, 2325, 2331, 2332, 2333, 2334, 2360, 2362, 2363, 2364, 2365, 2569, 2584, 2586, 3076, 3083, 3084, 3085, 3104, 3110, 3113, 3114, 3123, 3125, 4907] [4907, 3114, 3110, 3113, 3125, 3123, 2323, 2363, 2365, 2360, 2333, 2332, 2331, 2334, 2362, 2364, 283, 3104, 3084, 3083, 3076, 3085, 540, 522, 523, 521, 520, 784, 775, 776, 785, 2325, 788, 823, 819, 2584, 2569, 2586, 768] (by decide) rfl (fun F w => ?_)
  have h := Writes.refl F s
  repeat' first
    | with_reducible assumption
    | with_reducible exact Writes.refl _ _
    | exact subTrans w (by decide)
    | intro _ _
    | intro _
    | with_reducible apply State.viaHost_writes
    | with_reducible apply State.adminUp_writes

theorem execPortDisable_writes {s t} {a0} (e : execPortDisable a0 s = .next t) :
    OnlyWrites (tallyFields ++ releaseFields ++ cardFields ++ linkFields ++ leaveFields ++ [Reg.PORT.ADMIN_UP]) s t := by
  obtain rfl := Host.Outcome.next.inj e
  refine Writes.only_of [283, 520, 521, 522, 523, 540, 768, 775, 776, 784, 785, 788, 819, 823, 2323, 2325, 2331, 2332, 2333, 2334, 2360, 2362, 2363, 2364, 2365, 2569, 2584, 2586, 3076, 3083, 3084, 3085, 3104, 3110, 3113, 3114, 3123, 3125, 4907] [4907, 3114, 3110, 3113, 3125, 3123, 2323, 2363, 2365, 2360, 2333, 2332, 2331, 2334, 2362, 2364, 283, 3104, 3084, 3083, 3076, 3085, 540, 522, 523, 521, 520, 784, 775, 776, 785, 2325, 788, 823, 819, 2584, 2569, 2586, 768] (by decide) rfl (fun F w => ?_)
  have h := Writes.refl F s
  repeat' first
    | with_reducible assumption
    | with_reducible exact Writes.refl _ _
    | exact subTrans w (by decide)
    | intro _ _
    | intro _
    | with_reducible apply State.viaHost_writes
    | with_reducible apply State.adminUp_writes

theorem execTestEnter_writes {s t} {a0} (e : execTestEnter a0 s = .next t) :
    OnlyWrites (tallyFields ++ releaseFields ++ cardFields ++ linkFields ++ leaveFields ++ [Reg.PORT.TEST_MODE]) s t := by
  obtain rfl := Host.Outcome.next.inj e
  refine Writes.only_of [283, 520, 521, 522, 523, 540, 771, 775, 776, 784, 785, 788, 819, 823, 2323, 2325, 2331, 2332, 2333, 2334, 2360, 2362, 2363, 2364, 2365, 2569, 2584, 2586, 3076, 3083, 3084, 3085, 3104, 3110, 3113, 3114, 3123, 3125, 4907] [4907, 3114, 3110, 3113, 3125, 3123, 2323, 2363, 2365, 2360, 2333, 2332, 2331, 2334, 2362, 2364, 283, 3104, 3084, 3083, 3076, 3085, 540, 522, 523, 521, 520, 784, 775, 776, 785, 2325, 788, 823, 819, 2584, 2569, 2586, 771] (by decide) rfl (fun F w => ?_)
  have h := Writes.refl F s
  repeat' first
    | with_reducible assumption
    | with_reducible exact Writes.refl _ _
    | exact subTrans w (by decide)
    | intro _ _
    | intro _
    | with_reducible apply State.viaHost_writes
    | with_reducible apply State.testMode_writes

theorem execTestExit_writes {s t} {a0} (e : execTestExit a0 s = .next t) :
    OnlyWrites (tallyFields ++ releaseFields ++ cardFields ++ linkFields ++ leaveFields ++ [Reg.PORT.TEST_MODE]) s t := by
  obtain rfl := Host.Outcome.next.inj e
  refine Writes.only_of [283, 520, 521, 522, 523, 540, 771, 775, 776, 784, 785, 788, 819, 823, 2323, 2325, 2331, 2332, 2333, 2334, 2360, 2362, 2363, 2364, 2365, 2569, 2584, 2586, 3076, 3083, 3084, 3085, 3104, 3110, 3113, 3114, 3123, 3125, 4907] [4907, 3114, 3110, 3113, 3125, 3123, 2323, 2363, 2365, 2360, 2333, 2332, 2331, 2334, 2362, 2364, 283, 3104, 3084, 3083, 3076, 3085, 540, 522, 523, 521, 520, 784, 775, 776, 785, 2325, 788, 823, 819, 2584, 2569, 2586, 771] (by decide) rfl (fun F w => ?_)
  have h := Writes.refl F s
  repeat' first
    | with_reducible assumption
    | with_reducible exact Writes.refl _ _
    | exact subTrans w (by decide)
    | intro _ _
    | intro _
    | with_reducible apply State.viaHost_writes
    | with_reducible apply State.testMode_writes

theorem execPortRestart_writes {s t} {a0} (e : execPortRestart a0 s = .next t) :
    OnlyWrites (tallyFields ++ releaseFields ++ cardFields ++ linkFields ++ leaveFields) s t := by
  obtain rfl := Host.Outcome.next.inj e
  refine Writes.only_of [283, 520, 521, 522, 523, 540, 775, 776, 784, 785, 788, 819, 823, 2323, 2325, 2331, 2332, 2333, 2334, 2360, 2362, 2363, 2364, 2365, 2569, 2584, 2586, 3076, 3083, 3084, 3085, 3104, 3110, 3113, 3114, 3123, 3125, 4907] [4907, 3114, 3110, 3113, 3125, 3123, 2323, 2363, 2365, 2360, 2333, 2332, 2331, 2334, 2362, 2364, 283, 3104, 3084, 3083, 3076, 3085, 540, 522, 523, 521, 520, 784, 775, 776, 785, 2325, 788, 823, 819, 2584, 2569, 2586] (by decide) rfl (fun F w => ?_)
  have h := Writes.refl F s
  repeat' first
    | with_reducible assumption
    | with_reducible exact Writes.refl _ _
    | exact subTrans w (by decide)
    | intro _ _
    | intro _
    | with_reducible apply State.viaHost_writes
    | with_reducible apply State.portRestart_writes

theorem execFecClear_writes {s t} {a0} (e : execFecClear a0 s = .next t) :
    OnlyWrites ([Reg.PORT.CW_TOTAL, Reg.PORT.CW_CORR, Reg.PORT.CW_UNCORR, Reg.PORT.SYM_CORR, Reg.PORT.FEC_BIN]) s t := by
  obtain rfl := Host.Outcome.next.inj e
  refine Writes.only_of [831, 832, 833, 834, 835] [831, 832, 833, 834, 835] (by decide) rfl (fun F w => ?_)
  have h := Writes.refl F s
  repeat' first
    | with_reducible assumption
    | with_reducible exact Writes.refl _ _
    | exact subTrans w (by decide)
    | intro _ _
    | intro _
    | with_reducible apply State.viaHost_writes
    | with_reducible apply State.fecClear_writes
    | with_reducible apply State.when_writes

theorem execLinkOkChange_writes {s t} {a0 a1 a2 a3 a4 a5 a6} (e : execLinkOkChange a0 a1 a2 a3 a4 a5 a6 s = .next t) :
    OnlyWrites ([Reg.PORT.LF_RX, Reg.PORT.RF_RX, Reg.PORT.HI_SER, Reg.PORT.DESKEW_OK, Reg.PORT.AM_LOCKED, Reg.PORT.EV_HI_SER_EVT, Reg.PORT.CW_TOTAL, Reg.PORT.CW_CORR, Reg.PORT.CW_UNCORR, Reg.PORT.SYM_CORR, Reg.PORT.FEC_BIN, Reg.GLB.PENDING]) s t := by
  obtain rfl := Host.Outcome.next.inj e
  refine Writes.only_of [777, 778, 779, 780, 781, 800, 831, 832, 833, 834, 835, 4907] [777, 778, 779, 780, 781, 800, 831, 832, 833, 834, 835, 4907] (by decide) rfl (fun F w => ?_)
  have h := Writes.refl F s
  repeat' first
    | with_reducible assumption
    | with_reducible exact Writes.refl _ _
    | exact subTrans w (by decide)
    | intro _ _
    | intro _
    | with_reducible apply State.linkChange_writes

theorem execLanesReady_writes {s t} (e : execLanesReady s = .next t) :
    OnlyWrites (tallyFields ++ releaseFields ++ cardFields ++ linkFields ++ leaveFields ++ [Reg.GLB.LANES_READY, Reg.GLB.STEP]) s t := by
  obtain rfl := Host.Outcome.next.inj e
  refine Writes.only_of [283, 520, 521, 522, 523, 540, 775, 776, 784, 785, 788, 819, 823, 2323, 2325, 2331, 2332, 2333, 2334, 2360, 2362, 2363, 2364, 2365, 2569, 2584, 2586, 3076, 3083, 3084, 3085, 3104, 3110, 3113, 3114, 3123, 3125, 4871, 4872, 4907] [4907, 3114, 3110, 3113, 3125, 3123, 2323, 2363, 2365, 2360, 2333, 2332, 2331, 2334, 2362, 2364, 283, 3104, 3084, 3083, 3076, 3085, 540, 522, 523, 521, 520, 784, 775, 776, 785, 2325, 788, 823, 819, 2584, 2569, 2586, 4871, 4872] (by decide) rfl (fun F w => ?_)
  have h := Writes.refl F s
  repeat' first
    | with_reducible assumption
    | with_reducible exact Writes.refl _ _
    | exact subTrans w (by decide)
    | intro _ _
    | intro _
    | with_reducible apply State.lanesReady_writes

theorem execChkLock_writes {s t} {a0 a1} (e : execChkLock a0 a1 s = .next t) :
    OnlyWrites ([Reg.LANE.CHK_LOCK, Reg.LANE.LOCK_LOST, Reg.LANE.BIT_ERRORS, Reg.LANE.SYM_ERRORS, Reg.LANE.BITS_CHECKED]) s t := by
  obtain rfl := Host.Outcome.next.inj e
  refine Writes.only_of [540, 541, 542, 543, 544] [540, 541, 542, 543, 544] (by decide) rfl (fun F w => ?_)
  have h := Writes.refl F s
  repeat' first
    | with_reducible assumption
    | with_reducible exact Writes.refl _ _
    | exact subTrans w (by decide)
    | intro _ _
    | intro _
    | with_reducible apply State.chkFeed_writes

theorem execLockLost_writes {s t} {a0 a1} (e : execLockLost a0 a1 s = .next t) :
    OnlyWrites ([Reg.LANE.CHK_LOCK, Reg.LANE.LOCK_LOST, Reg.LANE.BIT_ERRORS, Reg.LANE.SYM_ERRORS, Reg.LANE.BITS_CHECKED]) s t := by
  obtain rfl := Host.Outcome.next.inj e
  refine Writes.only_of [540, 541, 542, 543, 544] [540, 541, 542, 543, 544] (by decide) rfl (fun F w => ?_)
  have h := Writes.refl F s
  repeat' first
    | with_reducible assumption
    | with_reducible exact Writes.refl _ _
    | exact subTrans w (by decide)
    | intro _ _
    | intro _
    | with_reducible apply State.chkFeed_writes

theorem execChkClear_writes {s t} {a0} (e : execChkClear a0 s = .next t) :
    OnlyWrites ([Reg.LANE.LOCK_LOST, Reg.LANE.BIT_ERRORS, Reg.LANE.SYM_ERRORS, Reg.LANE.BITS_CHECKED]) s t := by
  obtain rfl := Host.Outcome.next.inj e
  refine Writes.only_of [541, 542, 543, 544] [541, 542, 543, 544] (by decide) rfl (fun F w => ?_)
  have h := Writes.refl F s
  repeat' first
    | with_reducible assumption
    | with_reducible exact Writes.refl _ _
    | exact subTrans w (by decide)
    | intro _ _
    | intro _
    | with_reducible apply State.viaHost_writes
    | with_reducible apply State.chkClear_writes
    | with_reducible apply State.when_writes

theorem execInject_writes {s t} {a0} (e : execInject a0 s = .next t) :
    OnlyWrites ([]) s t := by
  obtain rfl := Host.Outcome.next.inj e
  refine Writes.only_of [] [] (by decide) rfl (fun F w => ?_)
  have h := Writes.refl F s
  repeat' first
    | with_reducible assumption
    | with_reducible exact Writes.refl _ _
    | exact subTrans w (by decide)
    | intro _ _
    | intro _
    | with_reducible apply State.viaHost_writes
    | with_reducible apply State.genInject_writes

theorem execCdrLockChange_writes {s t} {a0 a1 a2} (e : execCdrLockChange a0 a1 a2 s = .next t) :
    OnlyWrites ([Reg.LANE.SIGNAL_DETECT, Reg.LANE.CDR_LOCK, Reg.TIME.SY_SQUELCHED]) s t := by
  obtain rfl := Host.Outcome.next.inj e
  refine Writes.only_of [516, 517, 2854] [516, 517, 2854] (by decide) rfl (fun F w => ?_)
  have h := Writes.refl F s
  repeat' first
    | with_reducible assumption
    | with_reducible exact Writes.refl _ _
    | exact subTrans w (by decide)
    | intro _ _
    | intro _
    | with_reducible apply State.cdrLock_writes

theorem execRxFrame_writes {s t} {a0 a1 a2} (e : execRxFrame a0 a1 a2 s = .next t) :
    OnlyWrites (tallyFields ++ releaseFields ++ allocFields ++ cardFields ++ [Reg.PORT.FCS_ERR, Reg.PORT.RUNT, Reg.PORT.OVERSIZE, Reg.PORT.RX_ERRORS, Reg.PORT.MAC_CTRL_OTHER, Reg.PORT.PAUSE_IGNORED, Reg.PORT.PAUSE_RX, Reg.PORT.XON_RX, Reg.PORT.PFC_RX_XOFF, Reg.PARSE.LATE_SHORT, Reg.PARSE.SP_COUNT, Reg.PARSE.SP_POLICED, Reg.MAP.RECIRC_OUT, Reg.MAP.RECIRC_LIMIT, Reg.MAP.VERDICT_DROPS, Reg.MAP.NO_DEST, Reg.MAP.ACTION_ERR, Reg.MAP.COUNT_RANGE, Reg.MAP.LE_STAGE, Reg.MAP.LE_KIND, Reg.MAP.LE_WORD, Reg.MAP.LE_VALID, Reg.CRUC.CT_FRAMES, Reg.CRUC.CT_STOMPED, Reg.CRUC.HOLD_FULL, Reg.CRUC.BREACH, Reg.QSCH.POLICER_DROPS, Reg.QSCH.MC_INVALID, Reg.QSCH.MC_NO_COPY, Reg.QSCH.REPL_STALLS, Reg.QSCH.BAD_QUEUE, Reg.QSCH.DOWN_DISCARDS, Reg.QSCH.MC_RESIDUE_DISCARDS, Reg.QSCH.LAUNCH_REFUSED, Reg.TIME.PTP_RX, Reg.TELE.CNT_ECC]) s t := by
  obtain rfl := Host.Outcome.next.inj e
  refine Writes.only_of [283, 816, 817, 818, 819, 820, 821, 824, 826, 828, 1043, 1044, 1045, 2051, 2052, 2053, 2054, 2056, 2057, 2061, 2062, 2063, 2064, 2316, 2317, 2319, 2320, 2321, 2322, 2323, 2324, 2325, 2327, 2331, 2332, 2333, 2334, 2360, 2362, 2363, 2364, 2365, 2367, 2561, 2562, 2563, 2564, 2566, 2585, 2586, 2590, 2878, 3076, 3082, 3083, 3084, 3085, 3104, 3110, 3113, 3114, 3123, 3125, 4907] [4907, 3114, 3110, 3113, 3125, 3123, 2323, 2363, 2365, 2360, 2333, 2332, 2331, 2334, 2362, 2364, 283, 2316, 2319, 2317, 2322, 2320, 2321, 3104, 3084, 3083, 3076, 3085, 816, 817, 818, 819, 820, 821, 824, 826, 828, 1043, 1044, 1045, 2051, 2052, 2053, 2054, 2056, 2057, 2061, 2062, 2063, 2064, 2324, 2325, 2327, 2367, 2561, 2562, 2563, 2564, 2566, 2585, 2586, 2590, 2878, 3082] (by decide) rfl (fun F w => ?_)
  have h := Writes.refl F s
  repeat' first
    | with_reducible assumption
    | with_reducible exact Writes.refl _ _
    | exact subTrans w (by decide)
    | intro _ _
    | intro _
    | with_reducible apply State.rxFrame_writes

theorem execConfigChange_writes {s t} {a0} (e : execConfigChange a0 s = .next t) :
    OnlyWrites ([Reg.QSCH.CONFIG_PENDING, Reg.QSCH.CONFIG_ERR]) s t := by
  obtain rfl := Host.Outcome.next.inj e
  refine Writes.only_of [2574, 2576] [2574, 2576] (by decide) rfl (fun F w => ?_)
  have h := Writes.refl F s
  repeat' first
    | with_reducible assumption
    | with_reducible exact Writes.refl _ _
    | exact subTrans w (by decide)
    | intro _ _
    | intro _
    | with_reducible apply State.viaHost_writes
    | with_reducible apply State.configChange_writes

theorem execGateDisable_writes {s t} {a0} (e : execGateDisable a0 s = .next t) :
    OnlyWrites ([Reg.QSCH.GATE_EN, Reg.QSCH.OPER_VALID, Reg.QSCH.CONFIG_PENDING]) s t := by
  obtain rfl := Host.Outcome.next.inj e
  refine Writes.only_of [2570, 2573, 2574] [2570, 2573, 2574] (by decide) rfl (fun F w => ?_)
  have h := Writes.refl F s
  repeat' first
    | with_reducible assumption
    | with_reducible exact Writes.refl _ _
    | exact subTrans w (by decide)
    | intro _ _
    | intro _
    | with_reducible apply State.viaHost_writes
    | with_reducible apply State.gateDisable_writes

theorem execGateConfigStart_writes {s t} {a0} (e : execGateConfigStart a0 s = .next t) :
    OnlyWrites ([Reg.QSCH.OPER_LIST, Reg.QSCH.OPER_VALID, Reg.QSCH.CONFIG_PENDING]) s t := by
  obtain rfl := Host.Outcome.next.inj e
  refine Writes.only_of [2572, 2573, 2574] [2572, 2573, 2574] (by decide) rfl (fun F w => ?_)
  have h := Writes.refl F s
  repeat' first
    | with_reducible assumption
    | with_reducible exact Writes.refl _ _
    | exact subTrans w (by decide)
    | intro _ _
    | intro _
    | with_reducible apply State.gateStart_writes

theorem execGateEntryChange_writes {s t} {a0} (e : execGateEntryChange a0 s = .next t) :
    OnlyWrites ([]) s t := by
  obtain rfl := Host.Outcome.next.inj e
  refine Writes.only_of [] [] (by decide) rfl (fun F w => ?_)
  have h := Writes.refl F s
  repeat' first
    | with_reducible assumption
    | with_reducible exact Writes.refl _ _
    | exact subTrans w (by decide)
    | intro _ _
    | intro _
    | with_reducible apply State.gateEntry_writes

theorem execSchedSelect_writes {s t} {a0 a1 a2} (e : execSchedSelect a0 a1 a2 s = .next t) :
    OnlyWrites (tallyFields ++ releaseFields ++ [Reg.PORT.STORM_DISCARDS, Reg.MAP.EDIT_ERR, Reg.MAP.LE_STAGE, Reg.MAP.LE_KIND, Reg.MAP.LE_WORD, Reg.MAP.LE_VALID, Reg.QSCH.LATE_SENT, Reg.QSCH.LATE_DISCARDS, Reg.QSCH.GATE_OVERSIZE, Reg.HOST.R_STALLED, Reg.HOST.R_DISCARDS]) s t := by
  obtain rfl := Host.Outcome.next.inj e
  refine Writes.only_of [283, 830, 2058, 2061, 2062, 2063, 2064, 2323, 2331, 2332, 2333, 2334, 2360, 2362, 2363, 2364, 2365, 2587, 2588, 2589, 3110, 3113, 3114, 3123, 3125, 3348, 3355, 4907] [4907, 3114, 3110, 3113, 3125, 3123, 2323, 2363, 2365, 2360, 2333, 2332, 2331, 2334, 2362, 2364, 283, 830, 2058, 2061, 2062, 2063, 2064, 2587, 2588, 2589, 3348, 3355] (by decide) rfl (fun F w => ?_)
  have h := Writes.refl F s
  repeat' first
    | with_reducible assumption
    | with_reducible exact Writes.refl _ _
    | exact subTrans w (by decide)
    | intro _ _
    | intro _
    | with_reducible apply State.fault_writes
    | with_reducible apply State.schedSelect_writes
    | with_reducible apply State.when_writes
    | split

theorem execLaunchTimeReached_writes {s t} {a0} (e : execLaunchTimeReached a0 s = .next t) :
    OnlyWrites ([]) s t := by
  obtain rfl := Host.Outcome.next.inj e
  refine Writes.only_of [] [] (by decide) rfl (fun F w => ?_)
  have h := Writes.refl F s
  repeat' first
    | with_reducible assumption
    | with_reducible exact Writes.refl _ _
    | exact subTrans w (by decide)
    | intro _ _
    | intro _
    | with_reducible apply State.launchReached_writes

theorem execTxStart_writes {s t} {a0 a1} (e : execTxStart a0 a1 s = .next t) :
    OnlyWrites (tallyFields ++ releaseFields ++ cardFields ++ editFields ++ [Reg.MAP.EDIT_OVERSIZE, Reg.CRUC.SEG_LOST, Reg.CRUC.CORR, Reg.CRUC.REBUILT, Reg.CRUC.MS_DEGRADED, Reg.TELE.FC_EVICTED, Reg.TELE.FS_WR_PTR, Reg.TELE.FS_RD_PTR, Reg.TELE.FS_FS_LOST, Reg.HOST.R_INDEX, Reg.HOST.R_GEN, Reg.HOST.R_PENDING, Reg.HOST.R_COMPLETED, Reg.HOST.R_DISCARDS]) s t := by
  obtain rfl := Host.Outcome.next.inj e
  refine Writes.only_of [283, 2059, 2323, 2328, 2329, 2330, 2331, 2332, 2333, 2334, 2343, 2360, 2362, 2363, 2364, 2365, 2565, 2877, 2879, 2880, 2881, 3076, 3077, 3078, 3079, 3080, 3083, 3084, 3085, 3100, 3101, 3102, 3104, 3110, 3113, 3114, 3123, 3125, 3345, 3346, 3349, 3354, 3355, 4907] [4907, 3114, 3110, 3113, 3125, 3123, 2323, 2363, 2365, 2360, 2333, 2332, 2331, 2334, 2362, 2364, 283, 3104, 3084, 3083, 3076, 3085, 2565, 3079, 3077, 3078, 2881, 2880, 2879, 2877, 2059, 2328, 2329, 2330, 2343, 3080, 3100, 3101, 3102, 3345, 3346, 3349, 3354, 3355] (by decide) rfl (fun F w => ?_)
  have h := Writes.refl F s
  repeat' first
    | with_reducible assumption
    | with_reducible exact Writes.refl _ _
    | exact subTrans w (by decide)
    | intro _ _
    | intro _
    | with_reducible apply State.txStart_writes

theorem execTxUnderrun_writes {s t} {a0} (e : execTxUnderrun a0 s = .next t) :
    OnlyWrites (tallyFields ++ releaseFields ++ cardFields ++ [Reg.PORT.TX_UNDERRUN]) s t := by
  obtain rfl := Host.Outcome.next.inj e
  refine Writes.only_of [283, 822, 2323, 2331, 2332, 2333, 2334, 2360, 2362, 2363, 2364, 2365, 3076, 3083, 3084, 3085, 3104, 3110, 3113, 3114, 3123, 3125, 4907] [4907, 3114, 3110, 3113, 3125, 3123, 2323, 2363, 2365, 2360, 2333, 2332, 2331, 2334, 2362, 2364, 283, 3104, 3084, 3083, 3076, 3085, 822] (by decide) rfl (fun F w => ?_)
  have h := Writes.refl F s
  repeat' first
    | with_reducible assumption
    | with_reducible exact Writes.refl _ _
    | exact subTrans w (by decide)
    | intro _ _
    | intro _
    | with_reducible apply State.txUnderrun_writes

theorem execTxComplete_writes {s t} {a0 a1} (e : execTxComplete a0 a1 s = .next t) :
    OnlyWrites (tallyFields ++ releaseFields ++ cardFields ++ [Reg.MAP.EDIT_OVERSIZE, Reg.MAP.EDIT_PAD, Reg.CRUC.SEG_LOST, Reg.CRUC.CORR, Reg.CRUC.REBUILT, Reg.CRUC.MS_DEGRADED, Reg.QSCH.ECN_SKIPPED, Reg.TELE.FC_EVICTED, Reg.TELE.FS_WR_PTR, Reg.TELE.FS_RD_PTR, Reg.TELE.FS_FS_LOST, Reg.TELE.COL_SENT]) s t := by
  obtain rfl := Host.Outcome.next.inj e
  refine Writes.only_of [283, 2059, 2060, 2323, 2328, 2329, 2330, 2331, 2332, 2333, 2334, 2343, 2360, 2362, 2363, 2364, 2365, 2565, 3076, 3080, 3083, 3084, 3085, 3100, 3101, 3102, 3103, 3104, 3110, 3113, 3114, 3123, 3125, 4907] [4907, 3114, 3110, 3113, 3125, 3123, 2323, 2363, 2365, 2360, 2333, 2332, 2331, 2334, 2362, 2364, 283, 3104, 3084, 3083, 3076, 3085, 2059, 2060, 2328, 2329, 2330, 2343, 2565, 3080, 3100, 3101, 3102, 3103] (by decide) rfl (fun F w => ?_)
  have h := Writes.refl F s
  repeat' first
    | with_reducible assumption
    | with_reducible exact Writes.refl _ _
    | exact subTrans w (by decide)
    | intro _ _
    | intro _
    | with_reducible apply State.txComplete_writes

theorem execRxRingWrite_writes {s t} {a0 a1} (e : execRxRingWrite a0 a1 s = .next t) :
    OnlyWrites (tallyFields ++ releaseFields ++ cardFields ++ editFields ++ [Reg.MAP.EDIT_OVERSIZE, Reg.MAP.EDIT_PAD, Reg.CRUC.SEG_LOST, Reg.CRUC.CORR, Reg.CRUC.REBUILT, Reg.CRUC.MS_DEGRADED, Reg.TELE.FC_EVICTED, Reg.TELE.FS_WR_PTR, Reg.TELE.FS_RD_PTR, Reg.TELE.FS_FS_LOST, Reg.TELE.COL_SENT, Reg.HOST.R_INDEX, Reg.HOST.R_GEN, Reg.HOST.R_STALLED, Reg.HOST.R_PENDING, Reg.HOST.R_COMPLETED, Reg.HOST.R_DISCARDS]) s t := by
  obtain rfl := Host.Outcome.next.inj e
  refine Writes.only_of [283, 2059, 2060, 2323, 2328, 2329, 2330, 2331, 2332, 2333, 2334, 2343, 2360, 2362, 2363, 2364, 2365, 2565, 2877, 2879, 2880, 2881, 3076, 3077, 3078, 3079, 3080, 3083, 3084, 3085, 3100, 3101, 3102, 3103, 3104, 3110, 3113, 3114, 3123, 3125, 3345, 3346, 3348, 3349, 3354, 3355, 4907] [4907, 3114, 3110, 3113, 3125, 3123, 2323, 2363, 2365, 2360, 2333, 2332, 2331, 2334, 2362, 2364, 283, 3104, 3084, 3083, 3076, 3085, 2565, 3079, 3077, 3078, 2881, 2880, 2879, 2877, 2059, 2060, 2328, 2329, 2330, 2343, 3080, 3100, 3101, 3102, 3103, 3345, 3346, 3348, 3349, 3354, 3355] (by decide) rfl (fun F w => ?_)
  have h := Writes.refl F s
  repeat' first
    | with_reducible assumption
    | with_reducible exact Writes.refl _ _
    | exact subTrans w (by decide)
    | intro _ _
    | intro _
    | with_reducible apply State.rxRingWrite_writes

theorem execRxRingStall_writes {s t} {a0} (e : execRxRingStall a0 s = .next t) :
    OnlyWrites ([Reg.HOST.R_STALLED, Reg.HOST.R_STALL_EVT]) s t := by
  obtain rfl := Host.Outcome.next.inj e
  refine Writes.only_of [3348, 3351] [3348, 3351] (by decide) rfl (fun F w => ?_)
  have h := Writes.refl F s
  repeat' first
    | with_reducible assumption
    | with_reducible exact Writes.refl _ _
    | exact subTrans w (by decide)
    | intro _ _
    | intro _
    | with_reducible apply State.rxStall_writes

theorem execTxRingTake_writes {s t} {a0} (e : execTxRingTake a0 s = .next t) :
    OnlyWrites (tallyFields ++ releaseFields ++ allocFields ++ cardFields ++ [Reg.CRUC.EXHAUSTED, Reg.CRUC.CT_STOMPED, Reg.HOST.R_INDEX, Reg.HOST.R_GEN, Reg.HOST.R_PENDING, Reg.HOST.R_COMPLETED, Reg.HOST.R_DISCARDS]) s t := by
  obtain rfl := Host.Outcome.next.inj e
  refine Writes.only_of [283, 2316, 2317, 2318, 2319, 2320, 2321, 2322, 2323, 2325, 2331, 2332, 2333, 2334, 2360, 2362, 2363, 2364, 2365, 3076, 3083, 3084, 3085, 3104, 3110, 3113, 3114, 3123, 3125, 3345, 3346, 3349, 3354, 3355, 4907] [4907, 3114, 3110, 3113, 3125, 3123, 2323, 2363, 2365, 2360, 2333, 2332, 2331, 2334, 2362, 2364, 283, 2316, 2319, 2317, 2322, 2320, 2321, 3104, 3084, 3083, 3076, 3085, 2318, 2325, 3345, 3346, 3349, 3354, 3355] (by decide) rfl (fun F w => ?_)
  have h := Writes.refl F s
  repeat' first
    | with_reducible assumption
    | with_reducible exact Writes.refl _ _
    | exact subTrans w (by decide)
    | intro _ _
    | intro _
    | with_reducible apply State.txTake_writes

theorem execRingPoll_writes {s t} {a0} (e : execRingPoll a0 s = .next t) :
    OnlyWrites (tallyFields ++ releaseFields ++ allocFields ++ cardFields ++ [Reg.CRUC.EXHAUSTED, Reg.CRUC.CT_STOMPED, Reg.HOST.R_INDEX, Reg.HOST.R_GEN, Reg.HOST.R_STALLED, Reg.HOST.R_PENDING, Reg.HOST.R_COMPLETED, Reg.HOST.R_DISCARDS]) s t := by
  obtain rfl := Host.Outcome.next.inj e
  refine Writes.only_of [283, 2316, 2317, 2318, 2319, 2320, 2321, 2322, 2323, 2325, 2331, 2332, 2333, 2334, 2360, 2362, 2363, 2364, 2365, 3076, 3083, 3084, 3085, 3104, 3110, 3113, 3114, 3123, 3125, 3345, 3346, 3348, 3349, 3354, 3355, 4907] [4907, 3114, 3110, 3113, 3125, 3123, 2323, 2363, 2365, 2360, 2333, 2332, 2331, 2334, 2362, 2364, 283, 2316, 2319, 2317, 2322, 2320, 2321, 3104, 3084, 3083, 3076, 3085, 2318, 2325, 3345, 3346, 3348, 3349, 3354, 3355] (by decide) rfl (fun F w => ?_)
  have h := Writes.refl F s
  repeat' first
    | with_reducible assumption
    | with_reducible exact Writes.refl _ _
    | exact subTrans w (by decide)
    | intro _ _
    | intro _
    | with_reducible apply State.ringExamine_writes
    | with_reducible apply State.when_writes

theorem execBezelWrite_writes {s t} {a0 a1 a2} (e : execBezelWrite a0 a1 a2 s = .next t) :
    OnlyWrites (tallyFields ++ releaseFields ++ allocFields ++ cardFields ++ [Reg.CRUC.EXHAUSTED, Reg.CRUC.CT_STOMPED, Reg.HOST.R_INDEX, Reg.HOST.R_GEN, Reg.HOST.R_STALLED, Reg.HOST.R_PENDING, Reg.HOST.R_COMPLETED, Reg.HOST.R_DISCARDS]) s t := by
  obtain rfl := Host.Outcome.next.inj e
  refine Writes.only_of [283, 2316, 2317, 2318, 2319, 2320, 2321, 2322, 2323, 2325, 2331, 2332, 2333, 2334, 2360, 2362, 2363, 2364, 2365, 3076, 3083, 3084, 3085, 3104, 3110, 3113, 3114, 3123, 3125, 3345, 3346, 3348, 3349, 3354, 3355, 4907] [4907, 3114, 3110, 3113, 3125, 3123, 2323, 2363, 2365, 2360, 2333, 2332, 2331, 2334, 2362, 2364, 283, 2316, 2319, 2317, 2322, 2320, 2321, 3104, 3084, 3083, 3076, 3085, 2318, 2325, 3345, 3346, 3348, 3349, 3354, 3355] (by decide) rfl (fun F w => ?_)
  have h := Writes.refl F s
  repeat' first
    | with_reducible assumption
    | with_reducible exact Writes.refl _ _
    | exact subTrans w (by decide)
    | intro _ _
    | intro _
    | with_reducible apply State.bezelWrite_writes

theorem execPoisonedWrite_writes {s t} {a0} (e : execPoisonedWrite a0 s = .next t) :
    OnlyWrites ([Reg.HOST.POISONED, Reg.GLB.PENDING]) s t := by
  obtain rfl := Host.Outcome.next.inj e
  refine Writes.only_of [3334, 4907] [3334, 4907] (by decide) rfl (fun F w => ?_)
  have h := Writes.refl F s
  repeat' first
    | with_reducible assumption
    | with_reducible exact Writes.refl _ _
    | exact subTrans w (by decide)
    | intro _ _
    | intro _
    | with_reducible apply State.poisoned_writes

theorem execDmaGo_writes {s t} {a0} (e : execDmaGo a0 s = .next t) :
    OnlyWrites (dmaEndFields ++ [Reg.HOST.D_OVERLAP_DESC, Reg.HOST.D_BUSY_WRITE]) s t := by
  obtain rfl := Host.Outcome.next.inj e
  refine Writes.only_of [3368, 3369, 3370, 3372, 3374, 3376] [3370, 3376, 3369, 3368, 3372, 3374] (by decide) rfl (fun F w => ?_)
  have h := Writes.refl F s
  repeat' first
    | with_reducible assumption
    | with_reducible exact Writes.refl _ _
    | exact subTrans w (by decide)
    | intro _ _
    | intro _
    | with_reducible apply State.viaHost_writes
    | with_reducible apply State.dmaGo_writes

theorem execDmaAbort_writes {s t} {a0} (e : execDmaAbort a0 s = .next t) :
    OnlyWrites (dmaEndFields) s t := by
  obtain rfl := Host.Outcome.next.inj e
  refine Writes.only_of [3368, 3369, 3370, 3376] [3370, 3376, 3369, 3368] (by decide) rfl (fun F w => ?_)
  have h := Writes.refl F s
  repeat' first
    | with_reducible assumption
    | with_reducible exact Writes.refl _ _
    | exact subTrans w (by decide)
    | intro _ _
    | intro _
    | with_reducible apply State.viaHost_writes
    | with_reducible apply State.dmaAbort_writes

theorem execClearHalt_writes {s t} {a0} (e : execClearHalt a0 s = .next t) :
    OnlyWrites (dmaEndFields ++ shadowFields ++ [Reg.HOST.D_OVERLAP_DESC, Reg.HOST.D_SHADOW_VALID]) s t := by
  obtain rfl := Host.Outcome.next.inj e
  refine Writes.only_of [3356, 3357, 3358, 3359, 3360, 3361, 3362, 3363, 3368, 3369, 3370, 3372, 3375, 3376, 3382, 3383] [3370, 3376, 3369, 3368, 3358, 3357, 3360, 3363, 3362, 3383, 3361, 3356, 3359, 3375, 3372, 3382] (by decide) rfl (fun F w => ?_)
  have h := Writes.refl F s
  repeat' first
    | with_reducible assumption
    | with_reducible exact Writes.refl _ _
    | exact subTrans w (by decide)
    | intro _ _
    | intro _
    | with_reducible apply State.viaHost_writes
    | with_reducible apply State.dmaClearHalt_writes

theorem execShadowArm_writes {s t} {a0} (e : execShadowArm a0 s = .next t) :
    OnlyWrites (dmaEndFields ++ shadowFields ++ [Reg.HOST.D_OVERLAP_DESC, Reg.HOST.D_SHADOW_VALID]) s t := by
  obtain rfl := Host.Outcome.next.inj e
  refine Writes.only_of [3356, 3357, 3358, 3359, 3360, 3361, 3362, 3363, 3368, 3369, 3370, 3372, 3375, 3376, 3382, 3383] [3370, 3376, 3369, 3368, 3358, 3357, 3360, 3363, 3362, 3383, 3361, 3356, 3359, 3375, 3372, 3382] (by decide) rfl (fun F w => ?_)
  have h := Writes.refl F s
  repeat' first
    | with_reducible assumption
    | with_reducible exact Writes.refl _ _
    | exact subTrans w (by decide)
    | intro _ _
    | intro _
    | with_reducible apply State.viaHost_writes
    | with_reducible apply State.shadowArm_writes

theorem execShadowCancel_writes {s t} {a0} (e : execShadowCancel a0 s = .next t) :
    OnlyWrites ([Reg.HOST.D_SHADOW_VALID]) s t := by
  obtain rfl := Host.Outcome.next.inj e
  refine Writes.only_of [3382] [3382] (by decide) rfl (fun F w => ?_)
  have h := Writes.refl F s
  repeat' first
    | with_reducible assumption
    | with_reducible exact Writes.refl _ _
    | exact subTrans w (by decide)
    | intro _ _
    | intro _
    | with_reducible apply State.setB_writes
    | with_reducible apply State.viaHost_writes
    | with_reducible exact Has.HOST_D_SHADOW_VALID (subTrans w (by decide))

theorem execShadowFieldWrite_writes {s t} {a0 a1 a2} (e : execShadowFieldWrite a0 a1 a2 s = .next t) :
    OnlyWrites ([Reg.HOST.D_WRITE_REJECTED, Reg.HOST.D_SH_SRC, Reg.HOST.D_SH_DST, Reg.HOST.D_SH_COUNT, Reg.HOST.D_SH_CFG]) s t := by
  obtain rfl := Host.Outcome.next.inj e
  refine Writes.only_of [3373, 3378, 3379, 3380, 3381] [3373, 3378, 3379, 3380, 3381] (by decide) rfl (fun F w => ?_)
  have h := Writes.refl F s
  repeat' first
    | with_reducible assumption
    | with_reducible exact Writes.refl _ _
    | exact subTrans w (by decide)
    | intro _ _
    | intro _
    | with_reducible apply State.viaHost_writes
    | with_reducible apply shadowWord_writes

theorem execDmaBurst_writes {s t} {a0 a1} (e : execDmaBurst a0 a1 s = .next t) :
    OnlyWrites (tallyFields ++ releaseFields ++ allocFields ++ cardFields ++ dmaEndFields ++ [Reg.CRUC.EXHAUSTED, Reg.CRUC.CT_STOMPED, Reg.HOST.R_INDEX, Reg.HOST.R_GEN, Reg.HOST.R_STALLED, Reg.HOST.R_PENDING, Reg.HOST.R_COMPLETED, Reg.HOST.R_DISCARDS, Reg.HOST.D_HALF, Reg.HOST.D_FAIL_ADDR]) s t := by
  obtain rfl := Host.Outcome.next.inj e
  refine Writes.only_of [283, 2316, 2317, 2318, 2319, 2320, 2321, 2322, 2323, 2325, 2331, 2332, 2333, 2334, 2360, 2362, 2363, 2364, 2365, 3076, 3083, 3084, 3085, 3104, 3110, 3113, 3114, 3123, 3125, 3345, 3346, 3348, 3349, 3354, 3355, 3368, 3369, 3370, 3371, 3376, 3377, 4907] [4907, 3114, 3110, 3113, 3125, 3123, 2323, 2363, 2365, 2360, 2333, 2332, 2331, 2334, 2362, 2364, 283, 2316, 2319, 2317, 2322, 2320, 2321, 3104, 3084, 3083, 3076, 3085, 3370, 3376, 3369, 3368, 2318, 2325, 3345, 3346, 3348, 3349, 3354, 3355, 3371, 3377] (by decide) rfl (fun F w => ?_)
  have h := Writes.refl F s
  repeat' first
    | with_reducible assumption
    | with_reducible exact Writes.refl _ _
    | exact subTrans w (by decide)
    | intro _ _
    | intro _
    | with_reducible apply State.dmaBurst_writes

theorem execDmaReadbackDone_writes {s t} {a0 a1} (e : execDmaReadbackDone a0 a1 s = .next t) :
    OnlyWrites (dmaEndFields ++ shadowFields ++ [Reg.HOST.D_OVERLAP_DESC, Reg.HOST.D_SHADOW_VALID]) s t := by
  obtain rfl := Host.Outcome.next.inj e
  refine Writes.only_of [3356, 3357, 3358, 3359, 3360, 3361, 3362, 3363, 3368, 3369, 3370, 3372, 3375, 3376, 3382, 3383] [3370, 3376, 3369, 3368, 3358, 3357, 3360, 3363, 3362, 3383, 3361, 3356, 3359, 3375, 3372, 3382] (by decide) rfl (fun F w => ?_)
  have h := Writes.refl F s
  repeat' first
    | with_reducible assumption
    | with_reducible exact Writes.refl _ _
    | exact subTrans w (by decide)
    | intro _ _
    | intro _
    | with_reducible apply State.dmaReadback_writes

theorem execLoadBank_writes {s t} {a0} (e : execLoadBank a0 s = .next t) :
    OnlyWrites (resultFields ++ storeFields ++ commitFields ++ [Reg.GLB.PENDING]) s t := by
  obtain rfl := Host.Outcome.next.inj e
  refine Writes.only_of [256, 265, 266, 267, 268, 270, 274, 275, 276, 277, 3848, 3868, 4907] [256, 268, 270, 266, 267, 265, 3848, 3868, 276, 274, 277, 275, 4907] (by decide) rfl (fun F w => ?_)
  have h := Writes.refl F s
  repeat' first
    | with_reducible assumption
    | with_reducible exact Writes.refl _ _
    | exact subTrans w (by decide)
    | intro _ _
    | intro _
    | with_reducible apply State.viaHost_writes
    | with_reducible apply State.imgCommand_writes

theorem execLoadHost_writes {s t} (e : execLoadHost s = .next t) :
    OnlyWrites (resultFields ++ storeFields ++ commitFields ++ [Reg.GLB.PENDING]) s t := by
  obtain rfl := Host.Outcome.next.inj e
  refine Writes.only_of [256, 265, 266, 267, 268, 270, 274, 275, 276, 277, 3848, 3868, 4907] [256, 268, 270, 266, 267, 265, 3848, 3868, 276, 274, 277, 275, 4907] (by decide) rfl (fun F w => ?_)
  have h := Writes.refl F s
  repeat' first
    | with_reducible assumption
    | with_reducible exact Writes.refl _ _
    | exact subTrans w (by decide)
    | intro _ _
    | intro _
    | with_reducible apply State.viaHost_writes
    | with_reducible apply State.imgCommand_writes

theorem execWriteBank_writes {s t} {a0 a1} (e : execWriteBank a0 a1 s = .next t) :
    OnlyWrites (resultFields ++ storeFields ++ commitFields ++ [Reg.GLB.PENDING]) s t := by
  obtain rfl := Host.Outcome.next.inj e
  refine Writes.only_of [256, 265, 266, 267, 268, 270, 274, 275, 276, 277, 3848, 3868, 4907] [256, 268, 270, 266, 267, 265, 3848, 3868, 276, 274, 277, 275, 4907] (by decide) rfl (fun F w => ?_)
  have h := Writes.refl F s
  repeat' first
    | with_reducible assumption
    | with_reducible exact Writes.refl _ _
    | exact subTrans w (by decide)
    | intro _ _
    | intro _
    | with_reducible apply State.viaHost_writes
    | with_reducible apply State.imgCommand_writes

theorem execVerifyBank_writes {s t} {a0} (e : execVerifyBank a0 s = .next t) :
    OnlyWrites (resultFields ++ storeFields ++ commitFields ++ [Reg.GLB.PENDING]) s t := by
  obtain rfl := Host.Outcome.next.inj e
  refine Writes.only_of [256, 265, 266, 267, 268, 270, 274, 275, 276, 277, 3848, 3868, 4907] [256, 268, 270, 266, 267, 265, 3848, 3868, 276, 274, 277, 275, 4907] (by decide) rfl (fun F w => ?_)
  have h := Writes.refl F s
  repeat' first
    | with_reducible assumption
    | with_reducible exact Writes.refl _ _
    | exact subTrans w (by decide)
    | intro _ _
    | intro _
    | with_reducible apply State.viaHost_writes
    | with_reducible apply State.imgCommand_writes

theorem execSwap_writes {s t} (e : execSwap s = .next t) :
    OnlyWrites (resultFields ++ storeFields ++ commitFields ++ [Reg.GLB.PENDING]) s t := by
  obtain rfl := Host.Outcome.next.inj e
  refine Writes.only_of [256, 265, 266, 267, 268, 270, 274, 275, 276, 277, 3848, 3868, 4907] [256, 268, 270, 266, 267, 265, 3848, 3868, 276, 274, 277, 275, 4907] (by decide) rfl (fun F w => ?_)
  have h := Writes.refl F s
  repeat' first
    | with_reducible assumption
    | with_reducible exact Writes.refl _ _
    | exact subTrans w (by decide)
    | intro _ _
    | intro _
    | with_reducible apply State.viaHost_writes
    | with_reducible apply State.imgCommand_writes

theorem execEpochRetire_writes {s t} (e : execEpochRetire s = .next t) :
    OnlyWrites ([Reg.IMG.RETIRING, Reg.IMG.RETIRED, Reg.GLB.PENDING]) s t := by
  obtain rfl := Host.Outcome.next.inj e
  refine Writes.only_of [261, 269, 4907] [261, 269, 4907] (by decide) rfl (fun F w => ?_)
  have h := Writes.refl F s
  repeat' first
    | with_reducible assumption
    | with_reducible exact Writes.refl _ _
    | exact subTrans w (by decide)
    | intro _ _
    | intro _
    | with_reducible apply State.epochRetired_writes
    | with_reducible apply State.when_writes

theorem execRetireOverdue_writes {s t} (e : execRetireOverdue s = .next t) :
    OnlyWrites ([Reg.IMG.RETIRE_OVERDUE]) s t := by
  obtain rfl := Host.Outcome.next.inj e
  refine Writes.only_of [262] [262] (by decide) rfl (fun F w => ?_)
  have h := Writes.refl F s
  repeat' first
    | with_reducible assumption
    | with_reducible exact Writes.refl _ _
    | exact subTrans w (by decide)
    | intro _ _
    | intro _
    | with_reducible apply State.retireOverdue_writes

theorem execRetireForce_writes {s t} (e : execRetireForce s = .next t) :
    OnlyWrites (tallyFields ++ releaseFields ++ cardFields ++ [Reg.IMG.RETIRING, Reg.IMG.RETIRED, Reg.IMG.RETIRE_DISCARDS]) s t := by
  obtain rfl := Host.Outcome.next.inj e
  refine Writes.only_of [261, 269, 283, 286, 2323, 2331, 2332, 2333, 2334, 2360, 2362, 2363, 2364, 2365, 3076, 3083, 3084, 3085, 3104, 3110, 3113, 3114, 3123, 3125, 4907] [4907, 3114, 3110, 3113, 3125, 3123, 2323, 2363, 2365, 2360, 2333, 2332, 2331, 2334, 2362, 2364, 283, 3104, 3084, 3083, 3076, 3085, 261, 269, 286] (by decide) rfl (fun F w => ?_)
  have h := Writes.refl F s
  repeat' first
    | with_reducible assumption
    | with_reducible exact Writes.refl _ _
    | exact subTrans w (by decide)
    | intro _ _
    | intro _
    | with_reducible apply State.viaHost_writes
    | with_reducible apply State.retireForce_writes

theorem execImgAbort_writes {s t} {a0} (e : execImgAbort a0 s = .next t) :
    OnlyWrites (tallyFields ++ resultFields ++ storeFields) s t := by
  obtain rfl := Host.Outcome.next.inj e
  refine Writes.only_of [256, 265, 266, 267, 268, 270, 3110, 3113, 3114, 3123, 3125, 3848, 3868, 4907] [4907, 3114, 3110, 3113, 3125, 3123, 256, 268, 270, 266, 267, 265, 3848, 3868] (by decide) rfl (fun F w => ?_)
  have h := Writes.refl F s
  repeat' first
    | with_reducible assumption
    | with_reducible exact Writes.refl _ _
    | exact subTrans w (by decide)
    | intro _ _
    | intro _
    | with_reducible apply State.viaHost_writes
    | with_reducible apply State.imgAbort_writes

theorem execBankCommit_writes {s t} {a0} (e : execBankCommit a0 s = .next t) :
    OnlyWrites (resultFields ++ storeFields ++ commitFields ++ [Reg.GLB.PENDING]) s t := by
  obtain rfl := Host.Outcome.next.inj e
  refine Writes.only_of [256, 265, 266, 267, 268, 270, 274, 275, 276, 277, 3848, 3868, 4907] [256, 268, 270, 266, 267, 265, 3848, 3868, 276, 274, 277, 275, 4907] (by decide) rfl (fun F w => ?_)
  have h := Writes.refl F s
  repeat' first
    | with_reducible assumption
    | with_reducible exact Writes.refl _ _
    | exact subTrans w (by decide)
    | intro _ _
    | intro _
    | with_reducible apply State.bankCommit_writes

theorem execTriggerArm_writes {s t} {a0} (e : execTriggerArm a0 s = .next t) :
    OnlyWrites ([Reg.TIME.T_ARMED, Reg.TIME.T_LATE_ARM]) s t := by
  obtain rfl := Host.Outcome.next.inj e
  refine Writes.only_of [2858, 2860] [2858, 2860] (by decide) rfl (fun F w => ?_)
  have h := Writes.refl F s
  repeat' first
    | with_reducible assumption
    | with_reducible exact Writes.refl _ _
    | exact subTrans w (by decide)
    | intro _ _
    | intro _
    | with_reducible apply State.viaHost_writes
    | with_reducible apply State.trigArm_writes

theorem execTriggerFire_writes {s t} {a0} (e : execTriggerFire a0 s = .next t) :
    OnlyWrites (resultFields ++ targetFields ++ [Reg.IMG.EPOCH, Reg.IMG.RETIRING, Reg.FIL.RULE_COUNT, Reg.FIL.ROOT, Reg.TIME.T_ARMED, Reg.TIME.T_FIRED, Reg.TIME.T_FIRINGS, Reg.TELE.LP_RUNNING, Reg.TELE.LP_START_MISSED, Reg.TELE.U_WRAP, Reg.TELE.U_TICKS, Reg.TELE.U_CNT, Reg.PWR.PHASE, Reg.PWR.Q_LIMIT, Reg.PWR.PHASE_ERR, Reg.PWR.PHASE_CHANGES, Reg.GLB.PENDING]) s t := by
  obtain rfl := Host.Outcome.next.inj e
  refine Writes.only_of [1, 2, 256, 260, 261, 265, 266, 267, 268, 270, 1284, 1285, 2858, 2859, 2866, 3094, 3096, 3123, 3124, 3125, 3584, 3585, 3586, 3596, 3601, 3607, 4907] [256, 268, 270, 266, 267, 265, 2, 1, 3585, 3601, 260, 261, 1284, 1285, 2858, 2859, 2866, 3094, 3096, 3123, 3124, 3125, 3584, 3586, 3596, 3607, 4907] (by decide) rfl (fun F w => ?_)
  have h := Writes.refl F s
  repeat' first
    | with_reducible assumption
    | with_reducible exact Writes.refl _ _
    | exact subTrans w (by decide)
    | intro _ _
    | intro _
    | with_reducible apply State.trigDue_writes

theorem execPpsOutPulse_writes {s t} (e : execPpsOutPulse s = .next t) :
    OnlyWrites ([]) s t := by
  obtain rfl := Host.Outcome.next.inj e
  refine Writes.only_of [] [] (by decide) rfl (fun F w => ?_)
  have h := Writes.refl F s
  repeat' first
    | with_reducible assumption
    | with_reducible exact Writes.refl _ _
    | exact subTrans w (by decide)
    | intro _ _
    | intro _
    | with_reducible apply State.ppsOut_writes

theorem execPpsOutPulseEnd_writes {s t} (e : execPpsOutPulseEnd s = .next t) :
    OnlyWrites ([]) s t := by
  obtain rfl := Host.Outcome.next.inj e
  refine Writes.only_of [] [] (by decide) rfl (fun F w => ?_)
  have h := Writes.refl F s
  repeat' first
    | with_reducible assumption
    | with_reducible exact Writes.refl _ _
    | exact subTrans w (by decide)
    | intro _ _
    | intro _
    | with_reducible apply State.when_writes
    | split
    | dsimp only
    | with_reducible apply Writes.upd

theorem execTimeSet_writes {s t} (e : execTimeSet s = .next t) :
    OnlyWrites (resultFields ++ targetFields ++ [Reg.IMG.EPOCH, Reg.IMG.RETIRING, Reg.FIL.RULE_COUNT, Reg.FIL.ROOT, Reg.QSCH.OPER_LIST, Reg.QSCH.OPER_VALID, Reg.QSCH.CONFIG_PENDING, Reg.TIME.TOD_VALID, Reg.TIME.HOLDOVER, Reg.TIME.OFF_SEC, Reg.TIME.OFF_NS, Reg.TIME.OFF_FRAC, Reg.TIME.REF, Reg.TIME.T_ARMED, Reg.TIME.T_FIRED, Reg.TIME.T_MISSED, Reg.TIME.T_FIRINGS, Reg.TELE.LP_RUNNING, Reg.TELE.LP_START_MISSED, Reg.TELE.U_WRAP, Reg.TELE.U_TICKS, Reg.TELE.U_CNT, Reg.PWR.PHASE, Reg.PWR.Q_LIMIT, Reg.PWR.PHASE_ERR, Reg.PWR.PHASE_CHANGES, Reg.GLB.PENDING]) s t := by
  obtain rfl := Host.Outcome.next.inj e
  refine Writes.only_of [1, 2, 256, 260, 261, 265, 266, 267, 268, 270, 1284, 1285, 2572, 2573, 2574, 2816, 2817, 2833, 2834, 2835, 2836, 2858, 2859, 2865, 2866, 3094, 3096, 3123, 3124, 3125, 3584, 3585, 3586, 3596, 3601, 3607, 4907] [256, 268, 270, 266, 267, 265, 2, 1, 3585, 3601, 260, 261, 1284, 1285, 2572, 2573, 2574, 2816, 2817, 2833, 2834, 2835, 2836, 2858, 2859, 2865, 2866, 3094, 3096, 3123, 3124, 3125, 3584, 3586, 3596, 3607, 4907] (by decide) rfl (fun F w => ?_)
  have h := Writes.refl F s
  repeat' first
    | with_reducible assumption
    | with_reducible exact Writes.refl _ _
    | exact subTrans w (by decide)
    | intro _ _
    | intro _
    | with_reducible apply State.viaHost_writes
    | with_reducible apply State.timeSet_writes

theorem execTimeStep_writes {s t} (e : execTimeStep s = .next t) :
    OnlyWrites (resultFields ++ targetFields ++ [Reg.IMG.EPOCH, Reg.IMG.RETIRING, Reg.FIL.RULE_COUNT, Reg.FIL.ROOT, Reg.QSCH.OPER_LIST, Reg.QSCH.OPER_VALID, Reg.QSCH.CONFIG_PENDING, Reg.TIME.TOD_VALID, Reg.TIME.HOLDOVER, Reg.TIME.STEP_ERR, Reg.TIME.OFF_SEC, Reg.TIME.OFF_NS, Reg.TIME.OFF_FRAC, Reg.TIME.REF, Reg.TIME.T_ARMED, Reg.TIME.T_FIRED, Reg.TIME.T_MISSED, Reg.TIME.T_FIRINGS, Reg.TELE.LP_RUNNING, Reg.TELE.LP_START_MISSED, Reg.TELE.U_WRAP, Reg.TELE.U_TICKS, Reg.TELE.U_CNT, Reg.PWR.PHASE, Reg.PWR.Q_LIMIT, Reg.PWR.PHASE_ERR, Reg.PWR.PHASE_CHANGES, Reg.GLB.PENDING]) s t := by
  obtain rfl := Host.Outcome.next.inj e
  refine Writes.only_of [1, 2, 256, 260, 261, 265, 266, 267, 268, 270, 1284, 1285, 2572, 2573, 2574, 2816, 2817, 2823, 2833, 2834, 2835, 2836, 2858, 2859, 2865, 2866, 3094, 3096, 3123, 3124, 3125, 3584, 3585, 3586, 3596, 3601, 3607, 4907] [256, 268, 270, 266, 267, 265, 2, 1, 3585, 3601, 260, 261, 1284, 1285, 2572, 2573, 2574, 2816, 2817, 2823, 2833, 2834, 2835, 2836, 2858, 2859, 2865, 2866, 3094, 3096, 3123, 3124, 3125, 3584, 3586, 3596, 3607, 4907] (by decide) rfl (fun F w => ?_)
  have h := Writes.refl F s
  repeat' first
    | with_reducible assumption
    | with_reducible exact Writes.refl _ _
    | exact subTrans w (by decide)
    | intro _ _
    | intro _
    | with_reducible apply State.viaHost_writes
    | with_reducible apply State.timeStep_writes

theorem execTimeSnapshot_writes {s t} (e : execTimeSnapshot s = .next t) :
    OnlyWrites ([Reg.TIME.SNAP_FRC, Reg.TIME.SNAP_SEC, Reg.TIME.SNAP_NS, Reg.TIME.SNAP_FRAC]) s t := by
  obtain rfl := Host.Outcome.next.inj e
  refine Writes.only_of [2837, 2838, 2839, 2840] [2837, 2838, 2839, 2840] (by decide) rfl (fun F w => ?_)
  have h := Writes.refl F s
  repeat' first
    | with_reducible assumption
    | with_reducible exact Writes.refl _ _
    | exact subTrans w (by decide)
    | intro _ _
    | intro _
    | with_reducible apply State.viaHost_writes
    | with_reducible apply State.timeSnapshot_writes

theorem execTimeRateCommit_writes {s t} {a0} (e : execTimeRateCommit a0 s = .next t) :
    OnlyWrites (resultFields ++ targetFields ++ [Reg.IMG.EPOCH, Reg.IMG.RETIRING, Reg.FIL.RULE_COUNT, Reg.FIL.ROOT, Reg.QSCH.OPER_LIST, Reg.QSCH.OPER_VALID, Reg.QSCH.CONFIG_PENDING, Reg.TIME.HOLDOVER, Reg.TIME.RATE, Reg.TIME.OFF_SEC, Reg.TIME.OFF_NS, Reg.TIME.OFF_FRAC, Reg.TIME.REF, Reg.TIME.T_ARMED, Reg.TIME.T_FIRED, Reg.TIME.T_FIRINGS, Reg.TELE.LP_RUNNING, Reg.TELE.LP_START_MISSED, Reg.TELE.U_WRAP, Reg.TELE.U_TICKS, Reg.TELE.U_CNT, Reg.PWR.PHASE, Reg.PWR.Q_LIMIT, Reg.PWR.PHASE_ERR, Reg.PWR.PHASE_CHANGES, Reg.GLB.PENDING]) s t := by
  obtain rfl := Host.Outcome.next.inj e
  refine Writes.only_of [1, 2, 256, 260, 261, 265, 266, 267, 268, 270, 1284, 1285, 2572, 2573, 2574, 2817, 2831, 2833, 2834, 2835, 2836, 2858, 2859, 2866, 3094, 3096, 3123, 3124, 3125, 3584, 3585, 3586, 3596, 3601, 3607, 4907] [256, 268, 270, 266, 267, 265, 2, 1, 3585, 3601, 260, 261, 1284, 1285, 2572, 2573, 2574, 2817, 2831, 2833, 2834, 2835, 2836, 2858, 2859, 2866, 3094, 3096, 3123, 3124, 3125, 3584, 3586, 3596, 3607, 4907] (by decide) rfl (fun F w => ?_)
  have h := Writes.refl F s
  repeat' first
    | with_reducible assumption
    | with_reducible exact Writes.refl _ _
    | exact subTrans w (by decide)
    | intro _ _
    | intro _
    | with_reducible apply State.viaHost_writes
    | with_reducible apply State.rateCommit_writes

theorem execHoldover_writes {s t} (e : execHoldover s = .next t) :
    OnlyWrites ([Reg.TIME.HOLDOVER, Reg.TIME.HOLDOVER_EVT, Reg.GLB.PENDING]) s t := by
  obtain rfl := Host.Outcome.next.inj e
  refine Writes.only_of [2817, 2820, 4907] [2817, 2820, 4907] (by decide) rfl (fun F w => ?_)
  have h := Writes.refl F s
  repeat' first
    | with_reducible assumption
    | with_reducible exact Writes.refl _ _
    | exact subTrans w (by decide)
    | intro _ _
    | intro _
    | with_reducible apply State.holdover_writes

theorem execRefclkLost_writes {s t} (e : execRefclkLost s = .next t) :
    OnlyWrites ([Reg.TIME.REFCLK_LOST, Reg.TIME.REFCLK_LOST_EVT, Reg.GLB.PENDING]) s t := by
  obtain rfl := Host.Outcome.next.inj e
  refine Writes.only_of [2818, 2821, 4907] [2818, 2821, 4907] (by decide) rfl (fun F w => ?_)
  have h := Writes.refl F s
  repeat' first
    | with_reducible assumption
    | with_reducible exact Writes.refl _ _
    | exact subTrans w (by decide)
    | intro _ _
    | intro _
    | with_reducible apply State.refclkLost_writes

theorem execRefclkRestored_writes {s t} (e : execRefclkRestored s = .next t) :
    OnlyWrites ([Reg.TIME.REFCLK_LOST]) s t := by
  obtain rfl := Host.Outcome.next.inj e
  refine Writes.only_of [2818] [2818] (by decide) rfl (fun F w => ?_)
  have h := Writes.refl F s
  repeat' first
    | with_reducible assumption
    | with_reducible exact Writes.refl _ _
    | exact subTrans w (by decide)
    | intro _ _
    | intro _
    | with_reducible apply State.setB_writes
    | with_reducible exact Has.TIME_REFCLK_LOST (subTrans w (by decide))

theorem execPinCapture_writes {s t} {a0 a1} (e : execPinCapture a0 a1 s = .next t) :
    OnlyWrites (targetFields ++ [Reg.TIME.PPS_ABSENT, Reg.TIME.CAPTURE_EVT, Reg.TIME.C_COUNT, Reg.TIME.C_CAP_SEC, Reg.TIME.C_CAP_NS, Reg.TIME.C_CAP_FRAC, Reg.PWR.PHASE, Reg.PWR.Q_LIMIT, Reg.PWR.PHASE_ERR, Reg.PWR.PHASE_CHANGES, Reg.GLB.PIN_LEVEL, Reg.GLB.PIN_EXCESS, Reg.GLB.PENDING]) s t := by
  obtain rfl := Host.Outcome.next.inj e
  refine Writes.only_of [1, 2, 2819, 2822, 2842, 2843, 2844, 2845, 3584, 3585, 3586, 3596, 3601, 3607, 4881, 4885, 4907] [2, 1, 3585, 3601, 2819, 2822, 2842, 2843, 2844, 2845, 3584, 3586, 3596, 3607, 4881, 4885, 4907] (by decide) rfl (fun F w => ?_)
  have h := Writes.refl F s
  repeat' first
    | with_reducible assumption
    | with_reducible exact Writes.refl _ _
    | exact subTrans w (by decide)
    | intro _ _
    | intro _
    | with_reducible apply State.pinCapture_writes

theorem execPpsAbsent_writes {s t} (e : execPpsAbsent s = .next t) :
    OnlyWrites ([Reg.TIME.PPS_ABSENT]) s t := by
  obtain rfl := Host.Outcome.next.inj e
  refine Writes.only_of [2819] [2819] (by decide) rfl (fun F w => ?_)
  have h := Writes.refl F s
  repeat' first
    | with_reducible assumption
    | with_reducible exact Writes.refl _ _
    | exact subTrans w (by decide)
    | intro _ _
    | intro _
    | with_reducible apply State.setB_writes
    | with_reducible apply State.fault_writes
    | with_reducible apply State.when_writes
    | with_reducible exact Has.TIME_PPS_ABSENT (subTrans w (by decide))

theorem execChipletRefclkLost_writes {s t} {a0} (e : execChipletRefclkLost a0 s = .next t) :
    OnlyWrites ([Reg.LANE.CDR_LOCK, Reg.PORT.DESKEW_OK, Reg.PORT.AM_LOCKED, Reg.TIME.SY_SQUELCHED]) s t := by
  obtain rfl := Host.Outcome.next.inj e
  refine Writes.only_of [517, 780, 781, 2854] [517, 780, 781, 2854] (by decide) rfl (fun F w => ?_)
  have h := Writes.refl F s
  repeat' first
    | with_reducible assumption
    | with_reducible exact Writes.refl _ _
    | exact subTrans w (by decide)
    | intro _ _
    | intro _
    | with_reducible apply Writes.upTo
    | with_reducible apply State.chipletLost_writes
    | with_reducible apply State.synceUpdate_writes
    | with_reducible apply State.when_writes

theorem execResetNAssert_writes {s t} (e : execResetNAssert s = .next t) :
    OnlyWrites (tallyFields ++ releaseFields ++ cardFields ++ [Reg.GLB.PIN_LEVEL, Reg.GLB.PIN_EXCESS]) s t := by
  obtain rfl := Host.Outcome.next.inj e
  refine Writes.only_of [283, 2323, 2331, 2332, 2333, 2334, 2360, 2362, 2363, 2364, 2365, 3076, 3083, 3084, 3085, 3104, 3110, 3113, 3114, 3123, 3125, 4881, 4885, 4907] [4907, 3114, 3110, 3113, 3125, 3123, 2323, 2363, 2365, 2360, 2333, 2332, 2331, 2334, 2362, 2364, 283, 3104, 3084, 3083, 3076, 3085, 4881, 4885] (by decide) rfl (fun F w => ?_)
  have h := Writes.refl F s
  repeat' first
    | with_reducible assumption
    | with_reducible exact Writes.refl _ _
    | exact subTrans w (by decide)
    | intro _ _
    | intro _
    | with_reducible apply State.resetAssert_writes

theorem execPipeGo_writes {s t} {a0} (e : execPipeGo a0 s = .next t) :
    OnlyWrites (tallyFields ++ releaseFields ++ cardFields ++ linkFields ++ leaveFields ++ [Reg.LANE.ADAPT_CONVERGED, Reg.LANE.CTLE_PEAK, Reg.LANE.DFE_TAP1, Reg.LANE.RX_FFE_PRE, Reg.LANE.SNR, Reg.PORT.LF_RX, Reg.PORT.RF_RX, Reg.PORT.HI_SER, Reg.PORT.DESKEW_OK, Reg.PORT.AM_LOCKED, Reg.PORT.LP_PAUSE, Reg.PORT.EV_STORM_EXIT, Reg.PORT.STORM_ACTIVE, Reg.FLT.PORT_SAFE, Reg.GLB.TARGET, Reg.GLB.BUSY, Reg.GLB.IGNORED]) s t := by
  obtain rfl := Host.Outcome.next.inj e
  refine Writes.only_of [283, 518, 520, 521, 522, 523, 524, 525, 526, 527, 540, 775, 776, 777, 778, 779, 780, 781, 783, 784, 785, 788, 798, 812, 819, 823, 2323, 2325, 2331, 2332, 2333, 2334, 2360, 2362, 2363, 2364, 2365, 2569, 2584, 2586, 3076, 3083, 3084, 3085, 3104, 3110, 3113, 3114, 3123, 3125, 4120, 4876, 4879, 4880, 4907] [4907, 3114, 3110, 3113, 3125, 3123, 2323, 2363, 2365, 2360, 2333, 2332, 2331, 2334, 2362, 2364, 283, 3104, 3084, 3083, 3076, 3085, 540, 522, 523, 521, 520, 784, 775, 776, 785, 2325, 788, 823, 819, 2584, 2569, 2586, 518, 524, 525, 526, 527, 777, 778, 779, 780, 781, 783, 798, 812, 4120, 4876, 4879, 4880] (by decide) rfl (fun F w => ?_)
  have h := Writes.refl F s
  repeat' first
    | with_reducible assumption
    | with_reducible exact Writes.refl _ _
    | exact subTrans w (by decide)
    | intro _ _
    | intro _
    | with_reducible apply State.viaHost_writes
    | with_reducible apply State.pipeGo_writes
    | with_reducible apply State.set_writes
    | with_reducible exact Has.GLB_TARGET (subTrans w (by decide))

theorem execPortGo_writes {s t} {a0} (e : execPortGo a0 s = .next t) :
    OnlyWrites (tallyFields ++ releaseFields ++ cardFields ++ linkFields ++ leaveFields ++ [Reg.LANE.ADAPT_CONVERGED, Reg.LANE.CTLE_PEAK, Reg.LANE.DFE_TAP1, Reg.LANE.RX_FFE_PRE, Reg.LANE.SNR, Reg.PORT.LF_RX, Reg.PORT.RF_RX, Reg.PORT.HI_SER, Reg.PORT.DESKEW_OK, Reg.PORT.AM_LOCKED, Reg.PORT.LP_PAUSE, Reg.PORT.EV_STORM_EXIT, Reg.PORT.STORM_ACTIVE, Reg.FLT.PORT_SAFE, Reg.GLB.TARGET, Reg.GLB.BUSY, Reg.GLB.IGNORED]) s t := by
  obtain rfl := Host.Outcome.next.inj e
  refine Writes.only_of [283, 518, 520, 521, 522, 523, 524, 525, 526, 527, 540, 775, 776, 777, 778, 779, 780, 781, 783, 784, 785, 788, 798, 812, 819, 823, 2323, 2325, 2331, 2332, 2333, 2334, 2360, 2362, 2363, 2364, 2365, 2569, 2584, 2586, 3076, 3083, 3084, 3085, 3104, 3110, 3113, 3114, 3123, 3125, 4120, 4876, 4879, 4880, 4907] [4907, 3114, 3110, 3113, 3125, 3123, 2323, 2363, 2365, 2360, 2333, 2332, 2331, 2334, 2362, 2364, 283, 3104, 3084, 3083, 3076, 3085, 540, 522, 523, 521, 520, 784, 775, 776, 785, 2325, 788, 823, 819, 2584, 2569, 2586, 518, 524, 525, 526, 527, 777, 778, 779, 780, 781, 783, 798, 812, 4120, 4876, 4879, 4880] (by decide) rfl (fun F w => ?_)
  have h := Writes.refl F s
  repeat' first
    | with_reducible assumption
    | with_reducible exact Writes.refl _ _
    | exact subTrans w (by decide)
    | intro _ _
    | intro _
    | with_reducible apply State.viaHost_writes
    | with_reducible apply State.portGo_writes
    | with_reducible apply State.set_writes
    | with_reducible exact Has.GLB_TARGET (subTrans w (by decide))

theorem execInputGlitch_writes {s t} {a0 a1} (e : execInputGlitch a0 a1 s = .next t) :
    OnlyWrites ([Reg.GLB.PIN_GLITCHES, Reg.GLB.PIN_EXCESS]) s t := by
  obtain rfl := Host.Outcome.next.inj e
  refine Writes.only_of [4884, 4885] [4884, 4885] (by decide) rfl (fun F w => ?_)
  have h := Writes.refl F s
  repeat' first
    | with_reducible assumption
    | with_reducible exact Writes.refl _ _
    | exact subTrans w (by decide)
    | intro _ _
    | intro _
    | with_reducible apply Writes.choose
    | with_reducible apply State.inc_writes
    | with_reducible apply State.when_writes
    | with_reducible exact Has.GLB_PIN_GLITCHES (subTrans w (by decide))
    | with_reducible exact Has.GLB_PIN_EXCESS (subTrans w (by decide))
    | split

theorem execInputStuck_writes {s t} {a0} (e : execInputStuck a0 s = .next t) :
    OnlyWrites ([Reg.GLB.PIN_LEVEL, Reg.GLB.PIN_STUCK, Reg.GLB.PIN_STUCK_EVT, Reg.GLB.PENDING]) s t := by
  obtain rfl := Host.Outcome.next.inj e
  refine Writes.only_of [4881, 4882, 4883, 4907] [4881, 4882, 4883, 4907] (by decide) rfl (fun F w => ?_)
  have h := Writes.refl F s
  repeat' first
    | with_reducible assumption
    | with_reducible exact Writes.refl _ _
    | exact subTrans w (by decide)
    | intro _ _
    | intro _
    | with_reducible apply State.inputStuck_writes

theorem execInputUnstuck_writes {s t} {a0} (e : execInputUnstuck a0 s = .next t) :
    OnlyWrites ([Reg.GLB.PIN_LEVEL, Reg.GLB.PIN_STUCK]) s t := by
  obtain rfl := Host.Outcome.next.inj e
  refine Writes.only_of [4881, 4882] [4881, 4882] (by decide) rfl (fun F w => ?_)
  have h := Writes.refl F s
  repeat' first
    | with_reducible assumption
    | with_reducible exact Writes.refl _ _
    | exact subTrans w (by decide)
    | intro _ _
    | intro _
    | with_reducible apply State.inputUnstuck_writes

theorem execPowerFail_writes {s t} {a0 a1 a2} (e : execPowerFail a0 a1 a2 s = .next t) :
    OnlyWrites (tallyFields ++ releaseFields ++ cardFields ++ resultFields ++ checkFields ++ storeFields ++ linkFields ++ targetFields ++ dmaEndFields ++ leaveFields ++ [Reg.IMG.READY, Reg.CRUC.MS_ACTIVE, Reg.HOST.R_EN, Reg.PWR.PFAIL, Reg.ANVL.PFAIL_COMMIT, Reg.ASY.STATE, Reg.ASY.REFUSAL, Reg.ASY.DONE, Reg.ASY.ABORTED, Reg.GLB.PIN_LEVEL, Reg.GLB.PIN_EXCESS]) s t := by
  obtain rfl := Host.Outcome.next.inj e
  refine Writes.only_of [1, 2, 256, 258, 265, 266, 267, 268, 270, 283, 520, 521, 522, 523, 540, 775, 776, 784, 785, 788, 819, 823, 2323, 2325, 2331, 2332, 2333, 2334, 2340, 2360, 2362, 2363, 2364, 2365, 2569, 2584, 2586, 3076, 3083, 3084, 3085, 3104, 3110, 3113, 3114, 3123, 3125, 3339, 3368, 3369, 3370, 3376, 3585, 3592, 3601, 3844, 3845, 3846, 3847, 3848, 3849, 3851, 3852, 3853, 3854, 3855, 3856, 3858, 3868, 4612, 4613, 4615, 4616, 4881, 4885, 4907] [4907, 3114, 3110, 3113, 3125, 3123, 2323, 2363, 2365, 2360, 2333, 2332, 2331, 2334, 2362, 2364, 283, 3104, 3084, 3083, 3076, 3085, 256, 268, 270, 266, 267, 265, 3844, 3846, 3856, 3849, 3847, 3854, 3853, 3852, 3851, 3855, 3858, 3848, 3868, 540, 522, 523, 521, 520, 784, 775, 776, 785, 2, 1, 3585, 3601, 3370, 3376, 3369, 3368, 2325, 788, 823, 819, 2584, 2569, 2586, 258, 2340, 3339, 3592, 3845, 4612, 4613, 4615, 4616, 4881, 4885] (by decide) rfl (fun F w => ?_)
  have h := Writes.refl F s
  repeat' first
    | with_reducible assumption
    | with_reducible exact Writes.refl _ _
    | exact subTrans w (by decide)
    | intro _ _
    | intro _
    | with_reducible apply State.powerFailEvent_writes

theorem execPfailDone_writes {s t} (e : execPfailDone s = .next t) :
    OnlyWrites ([Reg.PWR.PFAIL_DONE]) s t := by
  obtain rfl := Host.Outcome.next.inj e
  refine Writes.only_of [3593] [3593] (by decide) rfl (fun F w => ?_)
  have h := Writes.refl F s
  repeat' first
    | with_reducible assumption
    | with_reducible exact Writes.refl _ _
    | exact subTrans w (by decide)
    | intro _ _
    | intro _
    | with_reducible apply State.setB_writes
    | with_reducible apply State.when_writes
    | with_reducible exact Has.PWR_PFAIL_DONE (subTrans w (by decide))

theorem execPcieLinkDown_writes {s t} (e : execPcieLinkDown s = .next t) :
    OnlyWrites (resultFields ++ dmaEndFields ++ [Reg.HOST.LINK_UP, Reg.HOST.BUS_MASTER, Reg.HOST.D3HOT, Reg.HOST.LINK_DOWN_EVT, Reg.GLB.PENDING]) s t := by
  obtain rfl := Host.Outcome.next.inj e
  refine Writes.only_of [256, 265, 266, 267, 268, 270, 3330, 3331, 3332, 3333, 3368, 3369, 3370, 3376, 4907] [256, 268, 270, 266, 267, 265, 3370, 3376, 3369, 3368, 3330, 3331, 3332, 3333, 4907] (by decide) rfl (fun F w => ?_)
  have h := Writes.refl F s
  repeat' first
    | with_reducible assumption
    | with_reducible exact Writes.refl _ _
    | exact subTrans w (by decide)
    | intro _ _
    | intro _
    | with_reducible apply State.pcieDown_writes
    | with_reducible apply State.when_writes

theorem execPcieLinkUp_writes {s t} {a0 a1} (e : execPcieLinkUp a0 a1 s = .next t) :
    OnlyWrites ([Reg.HOST.LINK_SPEED, Reg.HOST.LINK_WIDTH, Reg.HOST.LINK_UP]) s t := by
  obtain rfl := Host.Outcome.next.inj e
  refine Writes.only_of [3328, 3329, 3330] [3328, 3329, 3330] (by decide) rfl (fun F w => ?_)
  have h := Writes.refl F s
  repeat' first
    | with_reducible assumption
    | with_reducible exact Writes.refl _ _
    | exact subTrans w (by decide)
    | intro _ _
    | intro _
    | with_reducible apply State.setB_writes
    | with_reducible apply State.when_writes
    | with_reducible apply State.set_writes
    | with_reducible exact Has.HOST_LINK_SPEED (subTrans w (by decide))
    | with_reducible exact Has.HOST_LINK_WIDTH (subTrans w (by decide))
    | with_reducible exact Has.HOST_LINK_UP (subTrans w (by decide))

theorem execBusMasterDisable_writes {s t} (e : execBusMasterDisable s = .next t) :
    OnlyWrites (resultFields ++ dmaEndFields ++ [Reg.HOST.BUS_MASTER, Reg.GLB.PENDING]) s t := by
  obtain rfl := Host.Outcome.next.inj e
  refine Writes.only_of [256, 265, 266, 267, 268, 270, 3331, 3368, 3369, 3370, 3376, 4907] [256, 268, 270, 266, 267, 265, 3370, 3376, 3369, 3368, 3331, 4907] (by decide) rfl (fun F w => ?_)
  have h := Writes.refl F s
  repeat' first
    | with_reducible assumption
    | with_reducible exact Writes.refl _ _
    | exact subTrans w (by decide)
    | intro _ _
    | intro _
    | with_reducible apply State.masterOff_writes
    | with_reducible apply State.when_writes

theorem execD3hotEntry_writes {s t} (e : execD3hotEntry s = .next t) :
    OnlyWrites (resultFields ++ dmaEndFields ++ [Reg.HOST.D3HOT, Reg.GLB.PENDING]) s t := by
  obtain rfl := Host.Outcome.next.inj e
  refine Writes.only_of [256, 265, 266, 267, 268, 270, 3332, 3368, 3369, 3370, 3376, 4907] [256, 268, 270, 266, 267, 265, 3370, 3376, 3369, 3368, 3332, 4907] (by decide) rfl (fun F w => ?_)
  have h := Writes.refl F s
  repeat' first
    | with_reducible assumption
    | with_reducible exact Writes.refl _ _
    | exact subTrans w (by decide)
    | intro _ _
    | intro _
    | with_reducible apply State.d3Enter_writes
    | with_reducible apply State.when_writes

theorem execHostResume_writes {s t} (e : execHostResume s = .next t) :
    OnlyWrites ([Reg.HOST.BUS_MASTER, Reg.HOST.D3HOT]) s t := by
  obtain rfl := Host.Outcome.next.inj e
  refine Writes.only_of [3331, 3332] [3331, 3332] (by decide) rfl (fun F w => ?_)
  have h := Writes.refl F s
  repeat' first
    | with_reducible assumption
    | with_reducible exact Writes.refl _ _
    | exact subTrans w (by decide)
    | intro _ _
    | intro _
    | with_reducible apply State.setB_writes
    | with_reducible apply State.msixReleaseAll_writes
    | with_reducible apply State.when_writes
    | with_reducible exact Has.HOST_BUS_MASTER (subTrans w (by decide))
    | with_reducible exact Has.HOST_D3HOT (subTrans w (by decide))

theorem execMsixUnmask_writes {s t} {a0} (e : execMsixUnmask a0 s = .next t) :
    OnlyWrites ([]) s t := by
  obtain rfl := Host.Outcome.next.inj e
  refine Writes.only_of [] [] (by decide) rfl (fun F w => ?_)
  have h := Writes.refl F s
  repeat' first
    | with_reducible assumption
    | with_reducible exact Writes.refl _ _
    | exact subTrans w (by decide)
    | intro _ _
    | intro _
    | with_reducible apply State.msixRelease_writes
    | with_reducible apply State.when_writes
    | split
    | dsimp only
    | with_reducible apply Writes.upd

theorem execFaultDecision_writes {s t} (e : execFaultDecision s = .next t) :
    OnlyWrites (tallyFields ++ releaseFields ++ cardFields ++ linkFields ++ leaveFields ++ [Reg.LANE.ADAPT_CONVERGED, Reg.LANE.CTLE_PEAK, Reg.LANE.DFE_TAP1, Reg.LANE.RX_FFE_PRE, Reg.LANE.SNR, Reg.PORT.LF_RX, Reg.PORT.RF_RX, Reg.PORT.HI_SER, Reg.PORT.DESKEW_OK, Reg.PORT.AM_LOCKED, Reg.PORT.LP_PAUSE, Reg.PORT.EV_STORM_EXIT, Reg.PORT.STORM_ACTIVE, Reg.FLT.WORST, Reg.FLT.FIRST_VALID, Reg.FLT.FAULT_ACTIVE, Reg.FLT.ALIVE_STOPPED, Reg.FLT.MODULE_SAFE, Reg.FLT.INT_PENDING, Reg.FLT.LOST, Reg.FLT.SEQ, Reg.FLT.FIRST, Reg.FLT.PORT_SAFE, Reg.FLT.S_EVENTS, Reg.FLT.S_SUPPRESSED, Reg.GLB.BUSY, Reg.GLB.IGNORED]) s t := by
  obtain rfl := Host.Outcome.next.inj e
  refine Writes.only_of [283, 518, 520, 521, 522, 523, 524, 525, 526, 527, 540, 775, 776, 777, 778, 779, 780, 781, 783, 784, 785, 788, 798, 812, 819, 823, 2323, 2325, 2331, 2332, 2333, 2334, 2360, 2362, 2363, 2364, 2365, 2569, 2584, 2586, 3076, 3083, 3084, 3085, 3104, 3110, 3113, 3114, 3123, 3125, 4096, 4097, 4098, 4099, 4100, 4101, 4111, 4114, 4119, 4120, 4136, 4137, 4879, 4880, 4907] [4907, 3114, 3110, 3113, 3125, 3123, 2323, 2363, 2365, 2360, 2333, 2332, 2331, 2334, 2362, 2364, 283, 3104, 3084, 3083, 3076, 3085, 540, 522, 523, 521, 520, 784, 775, 776, 785, 2325, 788, 823, 819, 2584, 2569, 2586, 518, 524, 525, 526, 527, 777, 778, 779, 780, 781, 783, 798, 812, 4096, 4097, 4098, 4099, 4100, 4101, 4111, 4114, 4119, 4120, 4136, 4137, 4879, 4880] (by decide) rfl (fun F w => ?_)
  have h := Writes.refl F s
  repeat' first
    | with_reducible assumption
    | with_reducible exact Writes.refl _ _
    | exact subTrans w (by decide)
    | intro _ _
    | intro _
    | with_reducible apply State.faultDecide_writes
    | with_reducible apply State.when_writes

theorem execFaultRecord_writes {s t} {a0} (e : execFaultRecord a0 s = .next t) :
    OnlyWrites (tallyFields ++ storeFields ++ [Reg.HOST.R_INDEX, Reg.HOST.R_GEN, Reg.HOST.R_PENDING, Reg.HOST.R_COMPLETED, Reg.HOST.R_DISCARDS, Reg.FLT.EVR_LOST, Reg.FLT.FLOG_LOST, Reg.FLT.HIST_HEAD, Reg.FLT.HIST_COUNT, Reg.FLT.HIST]) s t := by
  obtain rfl := Host.Outcome.next.inj e
  refine Writes.only_of [3110, 3113, 3114, 3123, 3125, 3345, 3346, 3349, 3354, 3355, 3848, 3868, 4112, 4113, 4115, 4116, 4121, 4907] [4907, 3114, 3110, 3113, 3125, 3123, 3848, 3868, 3345, 3346, 3349, 3354, 3355, 4112, 4113, 4115, 4116, 4121] (by decide) rfl (fun F w => ?_)
  have h := Writes.refl F s
  repeat' first
    | with_reducible assumption
    | with_reducible exact Writes.refl _ _
    | exact subTrans w (by decide)
    | intro _ _
    | intro _
    | with_reducible apply State.faultRecord_writes

theorem execMaskWindowEnd_writes {s t} (e : execMaskWindowEnd s = .next t) :
    OnlyWrites ([]) s t := by
  obtain rfl := Host.Outcome.next.inj e
  refine Writes.only_of [] [] (by decide) rfl (fun F w => ?_)
  have h := Writes.refl F s
  repeat' first
    | with_reducible assumption
    | with_reducible exact Writes.refl _ _
    | exact subTrans w (by decide)
    | intro _ _
    | intro _
    | with_reducible apply State.maskEnd_writes

theorem execFirstClr_writes {s t} (e : execFirstClr s = .next t) :
    OnlyWrites ([Reg.FLT.WORST, Reg.FLT.FIRST_VALID]) s t := by
  obtain rfl := Host.Outcome.next.inj e
  refine Writes.only_of [4096, 4097] [4096, 4097] (by decide) rfl (fun F w => ?_)
  have h := Writes.refl F s
  repeat' first
    | with_reducible assumption
    | with_reducible exact Writes.refl _ _
    | exact subTrans w (by decide)
    | intro _ _
    | intro _
    | with_reducible apply State.setB_writes
    | with_reducible apply State.viaHost_writes
    | with_reducible apply State.set_writes
    | with_reducible exact Has.FLT_WORST (subTrans w (by decide))
    | with_reducible exact Has.FLT_FIRST_VALID (subTrans w (by decide))

theorem execFaultNClr_writes {s t} (e : execFaultNClr s = .next t) :
    OnlyWrites ([Reg.FLT.FAULT_ACTIVE]) s t := by
  obtain rfl := Host.Outcome.next.inj e
  refine Writes.only_of [4098] [4098] (by decide) rfl (fun F w => ?_)
  have h := Writes.refl F s
  repeat' first
    | with_reducible assumption
    | with_reducible exact Writes.refl _ _
    | exact subTrans w (by decide)
    | intro _ _
    | intro _
    | with_reducible apply State.setB_writes
    | with_reducible apply State.viaHost_writes
    | with_reducible apply State.when_writes
    | with_reducible exact Has.FLT_FAULT_ACTIVE (subTrans w (by decide))

theorem execAliveRestart_writes {s t} (e : execAliveRestart s = .next t) :
    OnlyWrites ([Reg.FLT.ALIVE_STOPPED]) s t := by
  obtain rfl := Host.Outcome.next.inj e
  refine Writes.only_of [4099] [4099] (by decide) rfl (fun F w => ?_)
  have h := Writes.refl F s
  repeat' first
    | with_reducible assumption
    | with_reducible exact Writes.refl _ _
    | exact subTrans w (by decide)
    | intro _ _
    | intro _
    | with_reducible apply State.setB_writes
    | with_reducible apply State.viaHost_writes
    | with_reducible apply State.when_writes
    | with_reducible exact Has.FLT_ALIVE_STOPPED (subTrans w (by decide))

theorem execPortSafeRelease_writes {s t} {a0} (e : execPortSafeRelease a0 s = .next t) :
    OnlyWrites (tallyFields ++ releaseFields ++ cardFields ++ linkFields ++ leaveFields ++ [Reg.FLT.PORT_SAFE]) s t := by
  obtain rfl := Host.Outcome.next.inj e
  refine Writes.only_of [283, 520, 521, 522, 523, 540, 775, 776, 784, 785, 788, 819, 823, 2323, 2325, 2331, 2332, 2333, 2334, 2360, 2362, 2363, 2364, 2365, 2569, 2584, 2586, 3076, 3083, 3084, 3085, 3104, 3110, 3113, 3114, 3123, 3125, 4120, 4907] [4907, 3114, 3110, 3113, 3125, 3123, 2323, 2363, 2365, 2360, 2333, 2332, 2331, 2334, 2362, 2364, 283, 3104, 3084, 3083, 3076, 3085, 540, 522, 523, 521, 520, 784, 775, 776, 785, 2325, 788, 823, 819, 2584, 2569, 2586, 4120] (by decide) rfl (fun F w => ?_)
  have h := Writes.refl F s
  repeat' first
    | with_reducible assumption
    | with_reducible exact Writes.refl _ _
    | exact subTrans w (by decide)
    | intro _ _
    | intro _
    | with_reducible apply State.viaHost_writes
    | with_reducible apply State.portSafeRelease_writes

theorem execInjectEvent_writes {s t} (e : execInjectEvent s = .next t) :
    OnlyWrites ([Reg.FLT.INJ_REFUSED]) s t := by
  obtain rfl := Host.Outcome.next.inj e
  refine Writes.only_of [4102] [4102] (by decide) rfl (fun F w => ?_)
  have h := Writes.refl F s
  repeat' first
    | with_reducible assumption
    | with_reducible exact Writes.refl _ _
    | exact subTrans w (by decide)
    | intro _ _
    | intro _
    | with_reducible apply Writes.choose
    | with_reducible apply State.viaHost_writes
    | with_reducible apply State.injGate_writes
    | with_reducible apply State.injEvent_writes

theorem execInjectMemory_writes {s t} (e : execInjectMemory s = .next t) :
    OnlyWrites ([Reg.FLT.INJ_REFUSED]) s t := by
  obtain rfl := Host.Outcome.next.inj e
  refine Writes.only_of [4102] [4102] (by decide) rfl (fun F w => ?_)
  have h := Writes.refl F s
  repeat' first
    | with_reducible assumption
    | with_reducible exact Writes.refl _ _
    | exact subTrans w (by decide)
    | intro _ _
    | intro _
    | with_reducible apply Writes.choose
    | with_reducible apply State.viaHost_writes
    | with_reducible apply State.injGate_writes
    | with_reducible apply State.injMemory_writes

theorem execInjectLane_writes {s t} (e : execInjectLane s = .next t) :
    OnlyWrites ([Reg.FLT.INJ_REFUSED]) s t := by
  obtain rfl := Host.Outcome.next.inj e
  refine Writes.only_of [4102] [4102] (by decide) rfl (fun F w => ?_)
  have h := Writes.refl F s
  repeat' first
    | with_reducible assumption
    | with_reducible exact Writes.refl _ _
    | exact subTrans w (by decide)
    | intro _ _
    | intro _
    | with_reducible apply Writes.choose
    | with_reducible apply State.viaHost_writes
    | with_reducible apply State.injGate_writes
    | with_reducible apply State.injLane_writes

theorem execFuseSlot_writes {s t} {a0 a1} (e : execFuseSlot a0 a1 s = .next t) :
    OnlyWrites (tallyFields ++ releaseFields ++ cardFields ++ resultFields ++ linkFields ++ dmaEndFields ++ leaveFields ++ milestFields ++ [Reg.CORE.LOOP_EN, Reg.IMG.RUN_SRC, Reg.IMG.READY, Reg.IMG.SWAP_ENABLED, Reg.PORT.ADMIN_UP, Reg.TIME.SY_SQUELCHED, Reg.HOST.R_EN, Reg.FLT.MODULE_SAFE]) s t := by
  obtain rfl := Host.Outcome.next.inj e
  refine Writes.only_of [12, 256, 257, 258, 259, 265, 266, 267, 268, 270, 283, 520, 521, 522, 523, 540, 768, 775, 776, 784, 785, 788, 819, 823, 2323, 2325, 2331, 2332, 2333, 2334, 2360, 2362, 2363, 2364, 2365, 2569, 2584, 2586, 2854, 3076, 3083, 3084, 3085, 3104, 3110, 3113, 3114, 3123, 3125, 3339, 3368, 3369, 3370, 3376, 4100, 4363, 4364, 4365, 4907] [4907, 3114, 3110, 3113, 3125, 3123, 2323, 2363, 2365, 2360, 2333, 2332, 2331, 2334, 2362, 2364, 283, 3104, 3084, 3083, 3076, 3085, 256, 268, 270, 266, 267, 265, 540, 522, 523, 521, 520, 784, 775, 776, 785, 3370, 3376, 3369, 3368, 2325, 788, 823, 819, 2584, 2569, 2586, 4365, 4364, 4363, 12, 257, 258, 259, 768, 2854, 3339, 4100] (by decide) rfl (fun F w => ?_)
  have h := Writes.refl F s
  repeat' first
    | with_reducible assumption
    | with_reducible exact Writes.refl _ _
    | exact subTrans w (by decide)
    | intro _ _
    | intro _
    | with_reducible apply State.viaHost_writes
    | with_reducible apply State.milestRow_writes

theorem execFuseImageKey_writes {s t} {a0 a1} (e : execFuseImageKey a0 a1 s = .next t) :
    OnlyWrites (tallyFields ++ releaseFields ++ cardFields ++ resultFields ++ linkFields ++ dmaEndFields ++ leaveFields ++ milestFields ++ [Reg.CORE.LOOP_EN, Reg.IMG.RUN_SRC, Reg.IMG.READY, Reg.IMG.SWAP_ENABLED, Reg.PORT.ADMIN_UP, Reg.TIME.SY_SQUELCHED, Reg.HOST.R_EN, Reg.FLT.MODULE_SAFE]) s t := by
  obtain rfl := Host.Outcome.next.inj e
  refine Writes.only_of [12, 256, 257, 258, 259, 265, 266, 267, 268, 270, 283, 520, 521, 522, 523, 540, 768, 775, 776, 784, 785, 788, 819, 823, 2323, 2325, 2331, 2332, 2333, 2334, 2360, 2362, 2363, 2364, 2365, 2569, 2584, 2586, 2854, 3076, 3083, 3084, 3085, 3104, 3110, 3113, 3114, 3123, 3125, 3339, 3368, 3369, 3370, 3376, 4100, 4363, 4364, 4365, 4907] [4907, 3114, 3110, 3113, 3125, 3123, 2323, 2363, 2365, 2360, 2333, 2332, 2331, 2334, 2362, 2364, 283, 3104, 3084, 3083, 3076, 3085, 256, 268, 270, 266, 267, 265, 540, 522, 523, 521, 520, 784, 775, 776, 785, 3370, 3376, 3369, 3368, 2325, 788, 823, 819, 2584, 2569, 2586, 4365, 4364, 4363, 12, 257, 258, 259, 768, 2854, 3339, 4100] (by decide) rfl (fun F w => ?_)
  have h := Writes.refl F s
  repeat' first
    | with_reducible assumption
    | with_reducible exact Writes.refl _ _
    | exact subTrans w (by decide)
    | intro _ _
    | intro _
    | with_reducible apply State.viaHost_writes
    | with_reducible apply State.milestRow_writes

theorem execEnterField_writes {s t} {a0 a1} (e : execEnterField a0 a1 s = .next t) :
    OnlyWrites (tallyFields ++ releaseFields ++ cardFields ++ resultFields ++ linkFields ++ dmaEndFields ++ leaveFields ++ milestFields ++ [Reg.CORE.LOOP_EN, Reg.IMG.RUN_SRC, Reg.IMG.READY, Reg.IMG.SWAP_ENABLED, Reg.PORT.ADMIN_UP, Reg.TIME.SY_SQUELCHED, Reg.HOST.R_EN, Reg.FLT.MODULE_SAFE]) s t := by
  obtain rfl := Host.Outcome.next.inj e
  refine Writes.only_of [12, 256, 257, 258, 259, 265, 266, 267, 268, 270, 283, 520, 521, 522, 523, 540, 768, 775, 776, 784, 785, 788, 819, 823, 2323, 2325, 2331, 2332, 2333, 2334, 2360, 2362, 2363, 2364, 2365, 2569, 2584, 2586, 2854, 3076, 3083, 3084, 3085, 3104, 3110, 3113, 3114, 3123, 3125, 3339, 3368, 3369, 3370, 3376, 4100, 4363, 4364, 4365, 4907] [4907, 3114, 3110, 3113, 3125, 3123, 2323, 2363, 2365, 2360, 2333, 2332, 2331, 2334, 2362, 2364, 283, 3104, 3084, 3083, 3076, 3085, 256, 268, 270, 266, 267, 265, 540, 522, 523, 521, 520, 784, 775, 776, 785, 3370, 3376, 3369, 3368, 2325, 788, 823, 819, 2584, 2569, 2586, 4365, 4364, 4363, 12, 257, 258, 259, 768, 2854, 3339, 4100] (by decide) rfl (fun F w => ?_)
  have h := Writes.refl F s
  repeat' first
    | with_reducible assumption
    | with_reducible exact Writes.refl _ _
    | exact subTrans w (by decide)
    | intro _ _
    | intro _
    | with_reducible apply State.viaHost_writes
    | with_reducible apply State.milestRow_writes

theorem execEnterService_writes {s t} {a0} (e : execEnterService a0 s = .next t) :
    OnlyWrites (tallyFields ++ releaseFields ++ cardFields ++ resultFields ++ linkFields ++ dmaEndFields ++ leaveFields ++ milestFields ++ [Reg.CORE.LOOP_EN, Reg.IMG.RUN_SRC, Reg.IMG.READY, Reg.IMG.SWAP_ENABLED, Reg.PORT.ADMIN_UP, Reg.TIME.SY_SQUELCHED, Reg.HOST.R_EN, Reg.FLT.MODULE_SAFE]) s t := by
  obtain rfl := Host.Outcome.next.inj e
  refine Writes.only_of [12, 256, 257, 258, 259, 265, 266, 267, 268, 270, 283, 520, 521, 522, 523, 540, 768, 775, 776, 784, 785, 788, 819, 823, 2323, 2325, 2331, 2332, 2333, 2334, 2360, 2362, 2363, 2364, 2365, 2569, 2584, 2586, 2854, 3076, 3083, 3084, 3085, 3104, 3110, 3113, 3114, 3123, 3125, 3339, 3368, 3369, 3370, 3376, 4100, 4363, 4364, 4365, 4907] [4907, 3114, 3110, 3113, 3125, 3123, 2323, 2363, 2365, 2360, 2333, 2332, 2331, 2334, 2362, 2364, 283, 3104, 3084, 3083, 3076, 3085, 256, 268, 270, 266, 267, 265, 540, 522, 523, 521, 520, 784, 775, 776, 785, 3370, 3376, 3369, 3368, 2325, 788, 823, 819, 2584, 2569, 2586, 4365, 4364, 4363, 12, 257, 258, 259, 768, 2854, 3339, 4100] (by decide) rfl (fun F w => ?_)
  have h := Writes.refl F s
  repeat' first
    | with_reducible assumption
    | with_reducible exact Writes.refl _ _
    | exact subTrans w (by decide)
    | intro _ _
    | intro _
    | with_reducible apply State.viaHost_writes
    | with_reducible apply State.milestRow_writes

theorem execRevokeSlot_writes {s t} {a0 a1} (e : execRevokeSlot a0 a1 s = .next t) :
    OnlyWrites (tallyFields ++ releaseFields ++ cardFields ++ resultFields ++ linkFields ++ dmaEndFields ++ leaveFields ++ milestFields ++ [Reg.CORE.LOOP_EN, Reg.IMG.RUN_SRC, Reg.IMG.READY, Reg.IMG.SWAP_ENABLED, Reg.PORT.ADMIN_UP, Reg.TIME.SY_SQUELCHED, Reg.HOST.R_EN, Reg.FLT.MODULE_SAFE]) s t := by
  obtain rfl := Host.Outcome.next.inj e
  refine Writes.only_of [12, 256, 257, 258, 259, 265, 266, 267, 268, 270, 283, 520, 521, 522, 523, 540, 768, 775, 776, 784, 785, 788, 819, 823, 2323, 2325, 2331, 2332, 2333, 2334, 2360, 2362, 2363, 2364, 2365, 2569, 2584, 2586, 2854, 3076, 3083, 3084, 3085, 3104, 3110, 3113, 3114, 3123, 3125, 3339, 3368, 3369, 3370, 3376, 4100, 4363, 4364, 4365, 4907] [4907, 3114, 3110, 3113, 3125, 3123, 2323, 2363, 2365, 2360, 2333, 2332, 2331, 2334, 2362, 2364, 283, 3104, 3084, 3083, 3076, 3085, 256, 268, 270, 266, 267, 265, 540, 522, 523, 521, 520, 784, 775, 776, 785, 3370, 3376, 3369, 3368, 2325, 788, 823, 819, 2584, 2569, 2586, 4365, 4364, 4363, 12, 257, 258, 259, 768, 2854, 3339, 4100] (by decide) rfl (fun F w => ?_)
  have h := Writes.refl F s
  repeat' first
    | with_reducible assumption
    | with_reducible exact Writes.refl _ _
    | exact subTrans w (by decide)
    | intro _ _
    | intro _
    | with_reducible apply State.viaHost_writes
    | with_reducible apply State.milestRow_writes

theorem execRaiseFloor_writes {s t} {a0 a1} (e : execRaiseFloor a0 a1 s = .next t) :
    OnlyWrites (tallyFields ++ releaseFields ++ cardFields ++ resultFields ++ linkFields ++ dmaEndFields ++ leaveFields ++ milestFields ++ [Reg.CORE.LOOP_EN, Reg.IMG.RUN_SRC, Reg.IMG.READY, Reg.IMG.SWAP_ENABLED, Reg.PORT.ADMIN_UP, Reg.TIME.SY_SQUELCHED, Reg.HOST.R_EN, Reg.FLT.MODULE_SAFE]) s t := by
  obtain rfl := Host.Outcome.next.inj e
  refine Writes.only_of [12, 256, 257, 258, 259, 265, 266, 267, 268, 270, 283, 520, 521, 522, 523, 540, 768, 775, 776, 784, 785, 788, 819, 823, 2323, 2325, 2331, 2332, 2333, 2334, 2360, 2362, 2363, 2364, 2365, 2569, 2584, 2586, 2854, 3076, 3083, 3084, 3085, 3104, 3110, 3113, 3114, 3123, 3125, 3339, 3368, 3369, 3370, 3376, 4100, 4363, 4364, 4365, 4907] [4907, 3114, 3110, 3113, 3125, 3123, 2323, 2363, 2365, 2360, 2333, 2332, 2331, 2334, 2362, 2364, 283, 3104, 3084, 3083, 3076, 3085, 256, 268, 270, 266, 267, 265, 540, 522, 523, 521, 520, 784, 775, 776, 785, 3370, 3376, 3369, 3368, 2325, 788, 823, 819, 2584, 2569, 2586, 4365, 4364, 4363, 12, 257, 258, 259, 768, 2854, 3339, 4100] (by decide) rfl (fun F w => ?_)
  have h := Writes.refl F s
  repeat' first
    | with_reducible assumption
    | with_reducible exact Writes.refl _ _
    | exact subTrans w (by decide)
    | intro _ _
    | intro _
    | with_reducible apply State.viaHost_writes
    | with_reducible apply State.milestRow_writes

theorem execRetire_writes {s t} {a0 a1} (e : execRetire a0 a1 s = .next t) :
    OnlyWrites (tallyFields ++ releaseFields ++ cardFields ++ resultFields ++ linkFields ++ dmaEndFields ++ leaveFields ++ milestFields ++ [Reg.CORE.LOOP_EN, Reg.IMG.RUN_SRC, Reg.IMG.READY, Reg.IMG.SWAP_ENABLED, Reg.PORT.ADMIN_UP, Reg.TIME.SY_SQUELCHED, Reg.HOST.R_EN, Reg.FLT.MODULE_SAFE]) s t := by
  obtain rfl := Host.Outcome.next.inj e
  refine Writes.only_of [12, 256, 257, 258, 259, 265, 266, 267, 268, 270, 283, 520, 521, 522, 523, 540, 768, 775, 776, 784, 785, 788, 819, 823, 2323, 2325, 2331, 2332, 2333, 2334, 2360, 2362, 2363, 2364, 2365, 2569, 2584, 2586, 2854, 3076, 3083, 3084, 3085, 3104, 3110, 3113, 3114, 3123, 3125, 3339, 3368, 3369, 3370, 3376, 4100, 4363, 4364, 4365, 4907] [4907, 3114, 3110, 3113, 3125, 3123, 2323, 2363, 2365, 2360, 2333, 2332, 2331, 2334, 2362, 2364, 283, 3104, 3084, 3083, 3076, 3085, 256, 268, 270, 266, 267, 265, 540, 522, 523, 521, 520, 784, 775, 776, 785, 3370, 3376, 3369, 3368, 2325, 788, 823, 819, 2584, 2569, 2586, 4365, 4364, 4363, 12, 257, 258, 259, 768, 2854, 3339, 4100] (by decide) rfl (fun F w => ?_)
  have h := Writes.refl F s
  repeat' first
    | with_reducible assumption
    | with_reducible exact Writes.refl _ _
    | exact subTrans w (by decide)
    | intro _ _
    | intro _
    | with_reducible apply State.viaHost_writes
    | with_reducible apply State.milestRow_writes

theorem execGetVersion_writes {s t} (e : execGetVersion s = .next t) :
    OnlyWrites ([]) s t := by
  obtain rfl := Host.Outcome.next.inj e
  refine Writes.only_of [] [] (by decide) rfl (fun F w => ?_)
  have h := Writes.refl F s
  repeat' first
    | with_reducible assumption
    | with_reducible exact Writes.refl _ _
    | exact subTrans w (by decide)
    | intro _ _
    | intro _
    | with_reducible apply State.emit_writes
    | with_reducible apply State.spdmAnswer_writes
    | split
    | dsimp only
    | with_reducible apply Writes.upd

theorem execGetCapabilities_writes {s t} (e : execGetCapabilities s = .next t) :
    OnlyWrites ([]) s t := by
  obtain rfl := Host.Outcome.next.inj e
  refine Writes.only_of [] [] (by decide) rfl (fun F w => ?_)
  have h := Writes.refl F s
  repeat' first
    | with_reducible assumption
    | with_reducible exact Writes.refl _ _
    | exact subTrans w (by decide)
    | intro _ _
    | intro _
    | with_reducible apply State.emit_writes
    | with_reducible apply State.spdmAnswer_writes
    | split
    | dsimp only
    | with_reducible apply Writes.upd

theorem execNegotiateAlgorithms_writes {s t} (e : execNegotiateAlgorithms s = .next t) :
    OnlyWrites ([]) s t := by
  obtain rfl := Host.Outcome.next.inj e
  refine Writes.only_of [] [] (by decide) rfl (fun F w => ?_)
  have h := Writes.refl F s
  repeat' first
    | with_reducible assumption
    | with_reducible exact Writes.refl _ _
    | exact subTrans w (by decide)
    | intro _ _
    | intro _
    | with_reducible apply State.emit_writes
    | with_reducible apply State.spdmAnswer_writes
    | split
    | dsimp only
    | with_reducible apply Writes.upd

theorem execGetDigests_writes {s t} (e : execGetDigests s = .next t) :
    OnlyWrites ([]) s t := by
  obtain rfl := Host.Outcome.next.inj e
  refine Writes.only_of [] [] (by decide) rfl (fun F w => ?_)
  have h := Writes.refl F s
  repeat' first
    | with_reducible assumption
    | with_reducible exact Writes.refl _ _
    | exact subTrans w (by decide)
    | intro _ _
    | intro _
    | with_reducible apply State.emit_writes
    | with_reducible apply State.spdmAnswer_writes

theorem execGetCertificate_writes {s t} {a0 a1} (e : execGetCertificate a0 a1 s = .next t) :
    OnlyWrites ([]) s t := by
  obtain rfl := Host.Outcome.next.inj e
  refine Writes.only_of [] [] (by decide) rfl (fun F w => ?_)
  have h := Writes.refl F s
  repeat' first
    | with_reducible assumption
    | with_reducible exact Writes.refl _ _
    | exact subTrans w (by decide)
    | intro _ _
    | intro _
    | with_reducible apply Writes.choose
    | with_reducible apply State.emit_writes
    | with_reducible apply State.spdmAnswer_writes

theorem execChallenge_writes {s t} {a0} (e : execChallenge a0 s = .next t) :
    OnlyWrites ([]) s t := by
  obtain rfl := Host.Outcome.next.inj e
  refine Writes.only_of [] [] (by decide) rfl (fun F w => ?_)
  have h := Writes.refl F s
  repeat' first
    | with_reducible assumption
    | with_reducible exact Writes.refl _ _
    | exact subTrans w (by decide)
    | intro _ _
    | intro _
    | with_reducible apply Writes.choose
    | with_reducible apply State.emit_writes
    | with_reducible apply State.draw_writes
    | with_reducible apply State.spdmAnswer_writes

theorem execGetMeasurements_writes {s t} {a0 a1} (e : execGetMeasurements a0 a1 s = .next t) :
    OnlyWrites ([]) s t := by
  obtain rfl := Host.Outcome.next.inj e
  refine Writes.only_of [] [] (by decide) rfl (fun F w => ?_)
  have h := Writes.refl F s
  repeat' first
    | with_reducible assumption
    | with_reducible exact Writes.refl _ _
    | exact subTrans w (by decide)
    | intro _ _
    | intro _
    | with_reducible apply Writes.choose
    | with_reducible apply State.emit_writes
    | with_reducible apply State.draw_writes
    | with_reducible apply State.spdmAnswer_writes

theorem execBypass_writes {s t} (e : execBypass s = .next t) :
    OnlyWrites ([]) s t := by
  obtain rfl := Host.Outcome.next.inj e
  refine Writes.only_of [] [] (by decide) rfl (fun F w => ?_)
  have h := Writes.refl F s
  repeat' first
    | with_reducible assumption
    | with_reducible exact Writes.refl _ _
    | exact subTrans w (by decide)
    | intro _ _
    | intro _
    | with_reducible apply State.jtagBypass_writes
    | with_reducible apply State.jtagIr_writes

theorem execIdcode_writes {s t} (e : execIdcode s = .next t) :
    OnlyWrites ([]) s t := by
  obtain rfl := Host.Outcome.next.inj e
  refine Writes.only_of [] [] (by decide) rfl (fun F w => ?_)
  have h := Writes.refl F s
  repeat' first
    | with_reducible assumption
    | with_reducible exact Writes.refl _ _
    | exact subTrans w (by decide)
    | intro _ _
    | intro _
    | with_reducible apply State.emit_writes
    | with_reducible apply State.jtagLoad_writes
    | with_reducible apply State.jtagIr_writes

theorem execSamplePreload_writes {s t} {a0 a1} (e : execSamplePreload a0 a1 s = .next t) :
    OnlyWrites ([]) s t := by
  obtain rfl := Host.Outcome.next.inj e
  refine Writes.only_of [] [] (by decide) rfl (fun F w => ?_)
  have h := Writes.refl F s
  repeat' first
    | with_reducible assumption
    | with_reducible exact Writes.refl _ _
    | exact subTrans w (by decide)
    | intro _ _
    | intro _
    | with_reducible apply Writes.choose
    | with_reducible apply State.emit_writes
    | with_reducible apply State.jtagLoad_writes
    | with_reducible apply State.jtagIr_writes
    | split
    | dsimp only
    | with_reducible apply Writes.upd

theorem execExtest_writes {s t} (e : execExtest s = .next t) :
    OnlyWrites (tallyFields ++ releaseFields ++ cardFields ++ linkFields ++ leaveFields ++ [Reg.FLT.MODULE_SAFE]) s t := by
  obtain rfl := Host.Outcome.next.inj e
  refine Writes.only_of [283, 520, 521, 522, 523, 540, 775, 776, 784, 785, 788, 819, 823, 2323, 2325, 2331, 2332, 2333, 2334, 2360, 2362, 2363, 2364, 2365, 2569, 2584, 2586, 3076, 3083, 3084, 3085, 3104, 3110, 3113, 3114, 3123, 3125, 4100, 4907] [4907, 3114, 3110, 3113, 3125, 3123, 2323, 2363, 2365, 2360, 2333, 2332, 2331, 2334, 2362, 2364, 283, 3104, 3084, 3083, 3076, 3085, 540, 522, 523, 521, 520, 784, 775, 776, 785, 2325, 788, 823, 819, 2584, 2569, 2586, 4100] (by decide) rfl (fun F w => ?_)
  have h := Writes.refl F s
  repeat' first
    | with_reducible assumption
    | with_reducible exact Writes.refl _ _
    | exact subTrans w (by decide)
    | intro _ _
    | intro _
    | with_reducible apply State.fault_writes
    | with_reducible apply State.moduleSafe_writes
    | with_reducible apply State.jtagLoad_writes
    | with_reducible apply State.jtagIr_writes
    | with_reducible apply State.when_writes

theorem execInternalScan_writes {s t} (e : execInternalScan s = .next t) :
    OnlyWrites ([]) s t := by
  obtain rfl := Host.Outcome.next.inj e
  refine Writes.only_of [] [] (by decide) rfl (fun F w => ?_)
  have h := Writes.refl F s
  repeat' first
    | with_reducible assumption
    | with_reducible exact Writes.refl _ _
    | exact subTrans w (by decide)
    | intro _ _
    | intro _
    | with_reducible apply State.jtagLoad_writes
    | with_reducible apply State.jtagIr_writes

theorem execAssayGo_writes {s t} {a0 a1} (e : execAssayGo a0 a1 s = .next t) :
    OnlyWrites (tallyFields ++ releaseFields ++ cardFields ++ resultFields ++ linkFields ++ targetFields ++ dmaEndFields ++ leaveFields ++ [Reg.HOST.R_EN, Reg.ASY.STATE, Reg.ASY.REFUSAL, Reg.ASY.CURRENT, Reg.ASY.WORST_PPM, Reg.ASY.WORST_CLK, Reg.ASY.LBUF_VALID, Reg.ASY.FAILS, Reg.ASY.REPAIRED, Reg.ASY.UNREPAIRED, Reg.ASY.SPARES_LEFT]) s t := by
  obtain rfl := Host.Outcome.next.inj e
  refine Writes.only_of [1, 2, 256, 265, 266, 267, 268, 270, 283, 520, 521, 522, 523, 540, 775, 776, 784, 785, 788, 819, 823, 2323, 2325, 2331, 2332, 2333, 2334, 2360, 2362, 2363, 2364, 2365, 2569, 2584, 2586, 3076, 3083, 3084, 3085, 3104, 3110, 3113, 3114, 3123, 3125, 3339, 3368, 3369, 3370, 3376, 3585, 3601, 4612, 4613, 4614, 4617, 4618, 4620, 4621, 4622, 4623, 4624, 4907] [4907, 3114, 3110, 3113, 3125, 3123, 2323, 2363, 2365, 2360, 2333, 2332, 2331, 2334, 2362, 2364, 283, 3104, 3084, 3083, 3076, 3085, 256, 268, 270, 266, 267, 265, 540, 522, 523, 521, 520, 784, 775, 776, 785, 2, 1, 3585, 3601, 3370, 3376, 3369, 3368, 2325, 788, 823, 819, 2584, 2569, 2586, 3339, 4612, 4613, 4614, 4617, 4618, 4620, 4621, 4622, 4623, 4624] (by decide) rfl (fun F w => ?_)
  have h := Writes.refl F s
  repeat' first
    | with_reducible assumption
    | with_reducible exact Writes.refl _ _
    | exact subTrans w (by decide)
    | intro _ _
    | intro _
    | with_reducible apply State.viaHost_writes
    | with_reducible apply State.assayGo_writes

theorem execAssayTestDone_writes {s t} {a0 a1 a2} (e : execAssayTestDone a0 a1 a2 s = .next t) :
    OnlyWrites (targetFields ++ [Reg.IMG.READY, Reg.CRUC.MS_DEGRADED, Reg.ASY.STATE, Reg.ASY.CURRENT, Reg.ASY.DONE, Reg.ASY.LBUF, Reg.ASY.LBUF_VALID, Reg.ASY.FAILS, Reg.ASY.REPAIRED, Reg.ASY.UNREPAIRED, Reg.ASY.SPARES_LEFT, Reg.GLB.PENDING]) s t := by
  obtain rfl := Host.Outcome.next.inj e
  refine Writes.only_of [1, 2, 258, 2343, 3585, 3601, 4612, 4614, 4615, 4619, 4620, 4621, 4622, 4623, 4624, 4907] [2, 1, 3585, 3601, 258, 2343, 4612, 4614, 4615, 4619, 4620, 4621, 4622, 4623, 4624, 4907] (by decide) rfl (fun F w => ?_)
  have h := Writes.refl F s
  repeat' first
    | with_reducible assumption
    | with_reducible exact Writes.refl _ _
    | exact subTrans w (by decide)
    | intro _ _
    | intro _
    | with_reducible apply State.assayTestDone_writes

theorem execAssayAbort_writes {s t} (e : execAssayAbort s = .next t) :
    OnlyWrites (targetFields ++ [Reg.IMG.READY, Reg.ASY.STATE, Reg.ASY.REFUSAL, Reg.ASY.DONE, Reg.ASY.ABORTED, Reg.GLB.PENDING]) s t := by
  obtain rfl := Host.Outcome.next.inj e
  refine Writes.only_of [1, 2, 258, 3585, 3601, 4612, 4613, 4615, 4616, 4907] [2, 1, 3585, 3601, 258, 4612, 4613, 4615, 4616, 4907] (by decide) rfl (fun F w => ?_)
  have h := Writes.refl F s
  repeat' first
    | with_reducible assumption
    | with_reducible exact Writes.refl _ _
    | exact subTrans w (by decide)
    | intro _ _
    | intro _
    | with_reducible apply State.viaHost_writes
    | with_reducible apply State.assayStop_writes

theorem execAssayConditionFail_writes {s t} {a0} (e : execAssayConditionFail a0 s = .next t) :
    OnlyWrites (targetFields ++ [Reg.IMG.READY, Reg.ASY.STATE, Reg.ASY.REFUSAL, Reg.ASY.DONE, Reg.ASY.ABORTED, Reg.GLB.PENDING]) s t := by
  obtain rfl := Host.Outcome.next.inj e
  refine Writes.only_of [1, 2, 258, 3585, 3601, 4612, 4613, 4615, 4616, 4907] [2, 1, 3585, 3601, 258, 4612, 4613, 4615, 4616, 4907] (by decide) rfl (fun F w => ?_)
  have h := Writes.refl F s
  repeat' first
    | with_reducible assumption
    | with_reducible exact Writes.refl _ _
    | exact subTrans w (by decide)
    | intro _ _
    | intro _
    | with_reducible apply State.assayFail_writes

theorem execBar0BadAccess_writes {s t} (e : execBar0BadAccess s = .next t) :
    OnlyWrites ([Reg.HOST.ACCESS_ERR, Reg.GLB.PENDING]) s t := by
  obtain rfl := Host.Outcome.next.inj e
  refine Writes.only_of [3335, 4907] [3335, 4907] (by decide) rfl (fun F w => ?_)
  have h := Writes.refl F s
  repeat' first
    | with_reducible assumption
    | with_reducible exact Writes.refl _ _
    | exact subTrans w (by decide)
    | intro _ _
    | intro _
    | with_reducible apply State.badAccess_writes

theorem execBar4BadAccess_writes {s t} (e : execBar4BadAccess s = .next t) :
    OnlyWrites ([Reg.HOST.ACCESS_ERR, Reg.GLB.PENDING]) s t := by
  obtain rfl := Host.Outcome.next.inj e
  refine Writes.only_of [3335, 4907] [3335, 4907] (by decide) rfl (fun F w => ?_)
  have h := Writes.refl F s
  repeat' first
    | with_reducible assumption
    | with_reducible exact Writes.refl _ _
    | exact subTrans w (by decide)
    | intro _ _
    | intro _
    | with_reducible apply State.badAccess_writes

theorem execGlbIntEnWrite_writes {s t} {a0} (e : execGlbIntEnWrite a0 s = .next t) :
    OnlyWrites ([Reg.GLB.INT_EN, Reg.GLB.PENDING]) s t := by
  obtain rfl := Host.Outcome.next.inj e
  refine Writes.only_of [4906, 4907] [4906, 4907] (by decide) rfl (fun F w => ?_)
  have h := Writes.refl F s
  repeat' first
    | with_reducible assumption
    | with_reducible exact Writes.refl _ _
    | exact subTrans w (by decide)
    | intro _ _
    | intro _
    | with_reducible apply State.viaHost_writes
    | with_reducible apply State.intEnWrite_writes

theorem execSmbSetPointer_writes {s t} {a0 a1} (e : execSmbSetPointer a0 a1 s = .next t) :
    OnlyWrites ([]) s t := by
  obtain rfl := Host.Outcome.next.inj e
  refine Writes.only_of [] [] (by decide) rfl (fun F w => ?_)
  have h := Writes.refl F s
  repeat' first
    | with_reducible assumption
    | with_reducible exact Writes.refl _ _
    | exact subTrans w (by decide)
    | intro _ _
    | intro _
    | with_reducible apply State.smbLive_writes
    | with_reducible apply State.smbPointer_writes

theorem execSmbRead_writes {s t} (e : execSmbRead s = .next t) :
    OnlyWrites ([]) s t := by
  obtain rfl := Host.Outcome.next.inj e
  refine Writes.only_of [] [] (by decide) rfl (fun F w => ?_)
  have h := Writes.refl F s
  repeat' first
    | with_reducible assumption
    | with_reducible exact Writes.refl _ _
    | exact subTrans w (by decide)
    | intro _ _
    | intro _
    | with_reducible apply State.smbLive_writes
    | with_reducible apply State.smbRead_writes

theorem execSmbAlertResponse_writes {s t} (e : execSmbAlertResponse s = .next t) :
    OnlyWrites ([]) s t := by
  obtain rfl := Host.Outcome.next.inj e
  refine Writes.only_of [] [] (by decide) rfl (fun F w => ?_)
  have h := Writes.refl F s
  repeat' first
    | with_reducible assumption
    | with_reducible exact Writes.refl _ _
    | exact subTrans w (by decide)
    | intro _ _
    | intro _
    | with_reducible apply State.emit_writes
    | with_reducible apply State.smbLive_writes

end Sys2Proof.Machine
end

