-- ==== Sys2Proof/Machine/Contacts.lean ====
section
/-!
DEFINITION. The contacts of the land grid (R458 to R461): column and row of every lane, clock, PCIe and control contact. The map
is fixed; no command changes it.
-/
namespace Sys2Proof.Machine

/-- Contacts in the grid: 120 columns of 120 rows (R458). -/
def gridSide : Nat := 120

/-- A contact of a lane. -/
inductive LaneContact where
  | txP | txN | rxP | rxN
  deriving DecidableEq, Repr

/-- Column and row of a lane's contact, in the south field for chiplets 0 to 3 and in the north field for 4 to 7 (R460). -/
def laneContact (lane : Nat) (c : LaneContact) : Nat × Nat :=
  let n := lane / 128
  let k := lane % 128
  let x := 30 * (n % 4) + 3 * (k % 10)
  let r := 3 * (k / 10)
  let south := decide (n < 4)
  match c with
  | .txP => (x, if south then r else 119 - r)
  | .txN => (x + 1, if south then r else 119 - r)
  | .rxP => (x, if south then r + 2 else 117 - r)
  | .rxN => (x + 1, if south then r + 2 else 117 - r)

/-- Contacts of REFCLK_P[n] (`neg` false) and REFCLK_N[n] (R459). -/
def refclkContact (n : Nat) (neg : Bool) : Nat × Nat := (30 * (n % 4) + 14 + (if neg then 1 else 0), if n < 4 then 40 else 79)

/-- Contacts of a PCIe lane: receive (`tx` false) or transmit, positive or negative (R459). -/
def pcieContact (i : Nat) (tx neg : Bool) : Nat × Nat := (44 + 4 * i + (if neg then 1 else 0), if tx then 61 else 58)

/-- Contacts of PCIE_REFCLK_P, PCIE_REFCLK_N and PERST_N (R459). -/
def pcieClock : List (String × Nat × Nat) := [("PCIE_REFCLK_P", 76, 58), ("PCIE_REFCLK_N", 77, 58), ("PERST_N", 76, 61)]

/-- The control, time and management pins in the order of R461. -/
def controlPins : List String := [
  "RESET_N", "PWR_WARN_N", "PPS_IN", "TRIG_IN[0]", "TRIG_IN[1]", "PPS_OUT", "SYNCE_CLK_OUT[0]", "SYNCE_CLK_OUT[1]",
  "PGOOD", "ALIVE", "FAULT_N", "THERM_TRIP_N", "SMB_CLK", "SMB_DAT", "SMB_ALERT_N", "SMB_ADDR[0]",
  "SMB_ADDR[1]", "TCK", "TMS", "TDI", "TDO", "TRST_N"]

/-- Contact of control pin `i`: row Y070, column 040 + 2 i (R461). -/
def controlContact (i : Nat) : Nat × Nat := (40 + 2 * i, 70)

/-- A contact is reserved: X040 to X070 of row Y050 (R459). -/
def reservedContact (x y : Nat) : Bool := y == 50 && decide (40 ≤ x) && decide (x ≤ 70)

end Sys2Proof.Machine
end

