-- ==== Sys2Proof/WellFormed.lean ====
section
/-!
DEFINITION. Which commands can occur: relations between operands that their types leave open. A meaning is total all the same.
-/
namespace Sys2Proof
open Machine

/-- The BAR0 word at an offset holds a field of type RC. -/
def rcWord (off : Nat) : Bool := off % 4 == 0 && (wordHits off).any (fun h => h.fld.ty == .rc)

/-- The low, or the high, word of a 64-bit register is at an offset (R12). -/
def wideWord (off : Nat) (high : Bool) : Bool :=
  off % 4 == 0 && (match wideHit off with | some h => h.high == high | none => false)

/-- An aligned word of a BAR (R10, R319, R447) or of configuration space. -/
def barWord (b : Bar) (off : Nat) : Bool :=
  off % 4 == 0 && (match b with
    | .bar0 => true
    | .bar2 => decide (off < 0x1000000)
    | .bar4 => decide (off < 0x10000)
    | .cfg => decide (off < 0x1000))

/-- A host write to the window (R317, R320): up to 512 bytes, one enable each, within BAR2. -/
def bezelFits (off : Nat) (data : List Byte) (en : List Bool) : Bool :=
  decide (1 ≤ data.length) && decide (data.length ≤ 512) && data.length == en.length &&
    decide (off + data.length ≤ 0x1000000)

/-- The block that a Milest command's row carries: short where the fetch failed, otherwise 256 bytes with the row's code, or
with a code that is no command's (R411 to R413). -/
def milestBlock (code : Nat) (b : List Byte) : Bool :=
  decide (b.length < 256) || (b.length == 256 && (blkCommand b == code || !inRange 1 8 (blkCommand b)))

/-- A list of keys without repeats. -/
def distinct : List Nat → Bool
  | [] => true
  | k :: l => !l.contains k && distinct l

/-- The index of a shaper's node is in its range (R243). -/
def shaperIndex (kind index : Nat) : Bool :=
  if kind = 0 then decide (index < 263248) else if kind = 1 then decide (index < 17408) else decide (index < 1089)

/-- The operands of a command fit each other and the spec's ranges. -/
def Instr.wf : Instr → Bool
  | .regWrite b off _ => barWord b off.toNat
  | .rcFieldRead b off => if b = .bar0 then rcWord off.toNat else barWord b off.toNat
  | .lowWordRead off => wideWord off.toNat false
  | .highWordRead off => wideWord off.toNat true
  | .highWordWrite off _ => wideWord off.toNat true
  | .rxFrame _ data _ => !data.isEmpty
  | .launchTimeReached queue => decide (queue.toNat < 263248)
  | .bezelWrite off data en => bezelFits off.toNat data en
  | .poisonedWrite b => b == .bar0 || b == .bar2
  | .shadowFieldWrite _ off _ => off.toNat % 4 == 0 && inRange 0x40 0x58 off.toNat
  | .samplingCtrlWrite _ reload v => reload && decide (v.toNat < 2 ^ 48) || !reload && decide (v.toNat < 2 ^ 32)
  | .dmaBurst _ data => decide (data.length ≤ 4096)
  | .tempSample readings => distinct (readings.map (fun r => r.1.val))
  | .fuseSlot b _ => milestBlock 1 b
  | .fuseImageKey b _ => milestBlock 2 b
  | .enterField b _ => milestBlock 3 b
  | .enterService b => milestBlock 4 b
  | .revokeSlot b _ => milestBlock 5 b
  | .raiseFloor b _ => milestBlock 6 b
  | .retire b _ => milestBlock 7 b
  | .assayGo ppm _ => ppm.length == 8
  | .pcieLinkUp speed width =>
    decide (1 ≤ speed.toNat) && decide (speed.toNat ≤ 5) && [1, 2, 4, 8].contains width.toNat
  | .shaperDebtRepaid kind index => shaperIndex kind.val index.toNat
  | .bar0BadAccess .. | .bar4BadAccess .. | .parse .. | .stageLookupIssue .. | .stageActionRun .. | .holdListLink ..
  | .residueLink .. | .replResume .. | .schedSelect .. | .txStart .. | .txUnderrun .. | .txComplete ..
  | .trmWindowEnd .. | .hoursIncrement .. | .droopDetect .. | .droopRecover .. | .vcoreUndervolt .. | .bgStarved ..
  | .loadBank .. | .loadHost .. | .writeBank .. | .verifyBank .. | .swap .. | .imgAbort .. | .imgFetchError ..
  | .imgVerifyComplete .. | .fullLoadReady .. | .bankCommit .. | .epochRetire .. | .retireOverdue .. | .retireForce ..
  | .anComplete .. | .anFail .. | .ltCoeffRequest .. | .trainingComplete .. | .trainFail .. | .linkUp ..
  | .alignTimeout .. | .linkDown .. | .portDownHoldExpire .. | .portEnable .. | .portDisable .. | .testEnter ..
  | .testExit .. | .portRestart .. | .fecClear .. | .txFfeWrite .. | .adaptRestart .. | .pauseFrameRx ..
  | .pauseTimerExpire .. | .pauseTx .. | .pauseRefresh .. | .stormEnter .. | .stormExit .. | .chkLock .. | .lockLost ..
  | .chkClear .. | .inject .. | .emInsert .. | .emReplace .. | .emDelete .. | .emSearch .. | .learnInsert ..
  | .ageVisit .. | .emClaspRequest .. | .emClaspGrant .. | .emClaspRelease .. | .aseWriteAt .. | .aseInsertAt ..
  | .aseDeleteAt .. | .aseSearchCmd .. | .aseStep .. | .aseReadAt .. | .aseClaspRequest .. | .aseClaspGrant ..
  | .aseClaspRelease .. | .migrateCmd .. | .bankMigrationStart .. | .bankMigrationDone .. | .planishScrubStep ..
  | .calibrationStep .. | .counterFlushStep .. | .wearLevelStep .. | .telemetryExportStep .. | .migrationRowCopy ..
  | .anvilTrap .. | .variantSwitch .. | .timeSet .. | .timeStep .. | .timeSnapshot .. | .timeRateCommit ..
  | .holdover .. | .refclkLost .. | .refclkRestored .. | .chipletRefclkLost .. | .triggerArm .. | .triggerFire ..
  | .pinCapture .. | .ppsAbsent .. | .ppsOutPulse .. | .ppsOutPulseEnd .. | .configChange .. | .gateDisable ..
  | .gateConfigStart .. | .gateEntryChange .. | .fsRdPtrWrite .. | .fsBatchSend .. | .counterFlush ..
  | .counterFlushDone .. | .loupeStart .. | .loupeStop .. | .loupeWindowEnd .. | .loupeCounterWrap ..
  | .samplingOverflow .. | .bwWindowEnd .. | .ringPoll .. | .ringEnable .. | .ringDisable .. | .ringCoalExpire ..
  | .rxRingWrite .. | .rxRingStall .. | .txRingTake .. | .dmaGo .. | .dmaReadbackDone .. | .dmaAbort .. | .clearHalt ..
  | .shadowArm .. | .shadowCancel .. | .pcieLinkDown .. | .busMasterDisable .. | .d3hotEntry .. | .hostResume ..
  | .msixUnmask .. | .glbIntEnWrite .. | .railSample .. | .powerWindowEnd .. | .phaseSelect .. | .phaseEntryWrite ..
  | .opTransitionDone .. | .thermalStep .. | .powerFail .. | .pfailDone .. | .powerRecovery .. | .faultDecision ..
  | .faultRecord .. | .maskWindowEnd .. | .autoReset .. | .firstClr .. | .faultNClr .. | .aliveRestart ..
  | .portSafeRelease .. | .injectEvent .. | .injectMemory .. | .injectLane .. | .getVersion .. | .getCapabilities ..
  | .negotiateAlgorithms .. | .getDigests .. | .getCertificate .. | .challenge .. | .getMeasurements .. | .bypass ..
  | .idcode .. | .samplePreload .. | .extest .. | .internalScan .. | .assayTestDone .. | .assayAbort ..
  | .assayConditionFail .. | .powerOn .. | .resetNAssert .. | .resetNRelease .. | .moduleReset .. | .softReset ..
  | .pipeGo .. | .portGo .. | .inputGlitch .. | .inputStuck .. | .inputUnstuck .. | .smbSetPointer .. | .smbRead ..
  | .smbWrite .. | .smbAlertResponse .. | .linkOkChange .. | .cdrLockChange .. | .lEnergyWindowEnd .. | .lanesReady .. => true

end Sys2Proof
end

