-- ==== Sys2Proof/Tests/Slice0.lean ====
section
/-!
SUPPORT. Tests: ill-formed commands, the worked examples of the spec, and a witness for every statement that has hypotheses.
-/
namespace Sys2Proof.Tests
open Sys2Proof Sys2Proof.Machine Sys2Proof.Machine.Reg
set_option maxRecDepth 20000
set_option exponentiation.threshold 400

/-- Registers set one after another: field, instance, value. -/
def put (s : State) (l : List (Fld × Nat × Nat)) : State := l.foldl (fun s x => s.set x.1 x.2.2 x.2.1) s

/-- A powered module. -/
def on : State := { boot := { powered := true } }

/-- A fetch whose word is good in copy A and whose access is granted, and one whose word fails in both copies. -/
def go : Fetch := ⟨0, 0, 0, false⟩
def lost : Fetch := ⟨5, 1, 1, false⟩

/-- A module that runs an image whose only port is port 0, of one lane, with its link in state `st`. -/
def port (st : Nat) : State :=
  put { on with img := { run := [(secPortMap, zeros 8 ++ [1] ++ zeros 15)] } }
    [(IMG.RUN_SRC, 0, 1), (IMG.READY, 0, 1), (GLB.LANES_READY, 0, 1), (PORT.LINK_STATE, 0, st)]

/-- A module with a section of the running image. -/
def sec (t : Nat) (l : List Nat) : State := { on with img := { run := [(t, l.map (fun n => BitVec.ofNat 8 n))] } }

/-- One exact-match table of one region, keys of 80 bits, ageing enabled (R138). -/
def em : State := put (sec secEm (List.replicate 16 0 ++ [0, 0, 1, 0, 80, 8])) [(EM.TABLE_COUNT, 0, 1)]

/-- One narrow partition of one bank, one replica (R167). -/
def ase : State := put (sec secAse (List.replicate 16 0 ++ [0, 0, 1, 0, 0, 0, 1])) [(ASE.PART_COUNT, 0, 1)]

/-- Pool S holds one ingot, in use; queue profile 0 admits everything. -/
def crucible (s : State) : State :=
  put { s with buf := { s.buf with store := [(0, { f := { done := true } })] } } [(CRUC.INGOTS, 0, 1), (CRUC.BETA, 0, 15)]

/-- Port 0 UP at OP7, with one frame waiting in its queue 0x50, of class 5 in group 7. -/
def sched : State := { crucible (put (port linkUp) [(CORE.CUR_OP, 0, 7)]) with
  dev := [(classAddr 0 5, 7)], que := { queues := [(0x50, [{ h := 0, queue := 0x50, launched := true }])] } }

/-- Ring `n` enabled with 8 entries at the start of the window, and its first entry given with ring word `w`. -/
def ring (s : State) (n : Nat) (w : Byte) : State :=
  { put s [(HOST.R_EN, n, 1), (HOST.R_LOG2_COUNT, n, 3), (HOST.R_GEN, n, 1)] with dev := [(28, w)] }

/-- Transmit ring 0 holds one entry of a frame of 60 bytes. -/
def sent : State :=
  { ring (put (port linkUp) [(CRUC.INGOTS, 0, 2), (CRUC.RP_MIN, 0, 4)]) 64 15 with dev := [(2, 60), (28, 15)] }

/-- A public key and a signature of the ENTER_SERVICE block below: the nonce and the key were solved for after choosing
u2 = 1 and u1 = 2 in the ECDSA equation, so r = s. -/
def keyX : Nat := 0xe651b5693fdee835d53858b25c80bd8ac72c18b1c253b4fa981e9b79fa82a175a2714fce41b525742f1040e0e65f79d8
def keyY : Nat :=
  0x340df8772c6825766a8078c4295cf00733f70ec7c9387c51c33d2669d5d59006840ee6ea35be121b01bdf179b8a33ca5
def sigR : Nat :=
  0x128b23b435b1e739ea6ef91f3abe4b934f217fcc787ae1389fdbfd2dd48a69f67391c0a33d60446f9ad9308563bfa97f

/-- A Milest block (R411) with serial 0 and nonce 0. -/
def blk (code slot arg : Nat) : List Byte :=
  leBytes 4 0x4D434C4D ++ leBytes 2 code ++ leBytes 2 slot ++ zeros 24 ++ leBytes 32 arg ++ beBytes 48 keyX ++ beBytes 48 keyY ++
    beBytes 48 sigR ++ beBytes 48 sigR

/-- A FIELD module whose slot 0 holds the hash of that key. -/
def fielded : State :=
  { on with mil := { fused := .field, slots := [(0, sha384 (beBytes 48 keyX ++ beBytes 48 keyY))] } }

/-- An image command that runs. -/
def loading (op : Nat) (p : ImgPhase) : State := { on with img := { cmd := some ⟨op, 0, p, 0⟩ } }

/-- What `c` makes of `s` meets `P`. -/
def after (c : Instr) (s : State) (P : State → Bool) : Bool :=
  match exec c s with
  | .next t => P t
  | _ => false

/-! ### WellFormed: each check refuses an ill-formed command -/

theorem test_wf_reg_write : Instr.wf (.regWrite .bar2 0x1000000 0) = false ∧ Instr.wf (.regWrite .bar0 2 0) = false := by decide
theorem test_wf_rc_read : Instr.wf (.rcFieldRead .bar0 0x18) = false ∧ Instr.wf (.rcFieldRead .bar0 0xC00020) = true ∧
    Instr.wf (.rcFieldRead .bar4 2) = false := by decide
theorem test_wf_low_read : Instr.wf (.lowWordRead 0xB00024) = false ∧ Instr.wf (.lowWordRead 0xB00020) = true := by decide
theorem test_wf_high_read : Instr.wf (.highWordRead 0xB00020) = false ∧ Instr.wf (.highWordRead 0xB00024) = true := by decide
theorem test_wf_high_write : Instr.wf (.highWordWrite 0x18 0) = false ∧ Instr.wf (.highWordWrite 0xB00024 0) = true := by decide
theorem test_wf_rx_frame : Instr.wf (.rxFrame 0 [] .more) = false := by decide
theorem test_wf_launch_time : Instr.wf (.launchTimeReached 263248) = false ∧ Instr.wf (.launchTimeReached 263247) = true := by decide
theorem test_wf_bezel_write : Instr.wf (.bezelWrite 0xFFFFFF [0, 0] [true, true]) = false ∧
    Instr.wf (.bezelWrite 0 [0] []) = false ∧ Instr.wf (.bezelWrite 0 [] []) = false ∧
    Instr.wf (.bezelWrite 0 (List.replicate 513 0) (List.replicate 513 true)) = false := by decide
theorem test_wf_poisoned_write : Instr.wf (.poisonedWrite .bar4) = false := by decide
theorem test_wf_shadow_field : Instr.wf (.shadowFieldWrite 0 0x58 0) = false ∧ Instr.wf (.shadowFieldWrite 0 0x42 0) = false := by
  decide
theorem test_wf_sampling : Instr.wf (.samplingCtrlWrite 0 true 0x1000000000000) = false ∧
    Instr.wf (.samplingCtrlWrite 0 false 0x100000000) = false := by decide
theorem test_wf_dma_burst : Instr.wf (.dmaBurst 0 (List.replicate 4097 0)) = false := by decide
theorem test_wf_temp_sample : Instr.wf (.tempSample [(5, 0), (5, 1)]) = false := by decide
theorem test_wf_fuse_slot : Instr.wf (.fuseSlot (blk 2 0 0) true) = false := by decide
theorem test_wf_fuse_image_key : Instr.wf (.fuseImageKey (blk 1 0 0) true) = false := by decide
theorem test_wf_enter_field : Instr.wf (.enterField (blk 1 0 0) true) = false := by decide
theorem test_wf_enter_service : Instr.wf (.enterService (blk 1 0 0)) = false ∧ Instr.wf (.enterService (blk 4 0 0)) = true := by
  decide
theorem test_wf_revoke_slot : Instr.wf (.revokeSlot (blk 1 0 0) true) = false := by decide
theorem test_wf_raise_floor : Instr.wf (.raiseFloor (blk 1 0 0) true) = false := by decide
theorem test_wf_retire : Instr.wf (.retire (blk 1 0 0) true) = false := by decide
theorem test_wf_assay_go : Instr.wf (.assayGo [1, 2] true) = false := by decide
theorem test_wf_pcie_link_up : Instr.wf (.pcieLinkUp 0 4) = false ∧ Instr.wf (.pcieLinkUp 6 4) = false ∧
    Instr.wf (.pcieLinkUp 5 3) = false := by decide
theorem test_wf_shaper : Instr.wf (.shaperDebtRepaid 0 263248) = false ∧ Instr.wf (.shaperDebtRepaid 1 17408) = false ∧
    Instr.wf (.shaperDebtRepaid 2 1089) = false := by decide

/-! ### Single steps and operations against the worked examples of the spec -/

/-- Chapter 00, lane 837: pipe 52, shard 6. -/
theorem test_lane_837 : pipeOf 837 = 52 ∧ shardOf 837 = 6 := by decide

/-- Chapter 02, the loop response: H_EOL 87,600 h, 21,900.0 h run, 780 mV to 830 mV. -/
def midLife : State := put on [(CORE.H_EOL, 0, 87600), (CORE.HOURS, 0, 219000), (CORE.V_SOL, 7, 780), (CORE.V_EOL, 7, 830),
  (CORE.TRIM_MAX, 7, 20), (CORE.RELAX_MARGIN, 0, 3), (CORE.RELAX_WINDOWS, 0, 100), (CORE.CUR_OP, 0, 7), (CORE.LOOP_EN, 0, 1),
  (CORE.V_BASE, 0, 794)]
theorem test_base_voltage : midLife.baseVoltage 7 = 794 := by decide

/-- The same example: the last monitor's window ends the round with the lowest count 29,820 at pipe 17. -/
theorem test_loop_raises : after (.trmWindowEnd 17 29820 29820)
    { put midLife ((TIME.FRC, 0, 12500) :: (List.range 81).map (fun n => (CORE.TRM_COUNT, n, 31000))) with
      core := { ended := (List.range 81).filter (fun n => n != 17) } }
    (fun t => t.get CORE.TRIM == 1 && t.get CORE.V_SET == 796 && t.get CORE.MIN_COUNT == 29820 && t.get CORE.MIN_INDEX == 17) =
    true := by decide

/-- Chapter 06, one endpoint: bank 300, row 4,000. -/
theorem test_em_address : emAddr 4096300 = 0x0103E812C0 := by decide

/-- Chapter 06: the request of row 4,000 is bit 0 of EM_CLASP_REQ_125. -/
theorem test_em_clasp_request : after (.emClaspRequest 4000) on (fun t => t.get EM.REQ 125 == 1) = true := by decide

/-- Chapter 10: a debt of 3,020 B at 2 Gbit/s is repaid 12,080 ns later, and not one tick earlier. The FRC counts 0.8 ns and a
level is held in units of 10^-7 B. -/
theorem test_shaper_debt : bucketLevel (some ⟨-30200000000, 0⟩) 2000000 40000000000 15100 = 0 ∧
    bucketLevel (some ⟨-30200000000, 0⟩) 2000000 40000000000 15099 < 0 := by decide

/-- Chapter 11: SET at FRC 1,250,000,000. -/
theorem test_time_set : after .timeSet (put on [(TIME.FRC, 0, 1250000000), (TIME.SET_SEC, 0, 1700000000)])
    (fun t => t.get TIME.REF == 1250000000 && t.now == timeOf 1700000000 0 0 && t.flag TIME.TOD_VALID) = true := by decide

/-- Chapter 11: the commit of the rate folds the offset. -/
def beforeRate : State := { put on [(TIME.FRC, 0, 1262500000), (TIME.REF, 0, 1250000000), (TIME.OFF_SEC, 0, 1700000000)] with
  host := { low := [(rateOffset, 0x5C91D14E)] } }
theorem test_rate_commit : after (.timeRateCommit 0xFE) beforeRate (fun t => t.get TIME.RATE == 0xFE5C91D14E &&
    t.get TIME.OFF_NS == 10000000 && t.get TIME.OFF_SEC == 1700000000 && t.get TIME.REF == 1262500000) = true := by decide

/-- Chapter 11: one second later the clock has lost 25 us. -/
theorem test_time_at : (put on [(TIME.OFF_SEC, 0, 1700000000), (TIME.OFF_NS, 0, 10000000), (TIME.REF, 0, 1262500000),
    (TIME.RATE, 0, 0xFE5C91D14E)]).timeAt 2512500000 = timeOf 1700000001 9974999 0xFFFF := by decide

/-- Chapter 10, the gate list of port 64: the start is 100.000 250 s. -/
theorem test_gate_start : (put on [(TIME.OFF_SEC, 0, 100), (TIME.OFF_NS, 0, 5000)]).gateStartInstant (timeOf 99 0 0)
    (nsUnits 250000) = timeOf 100 250000 0 := by decide

/-- Chapter 14: gain 4 on a cap of 1,600 W. -/
theorem test_quench : quenchBubbles { pref := 7, min := 5, cap := 1600, k := 64, bMax := 128 } 1680 = 52 ∧
    quenchBubbles { pref := 7, min := 5, cap := 1600, k := 64, bMax := 128 } 1800 = 128 ∧
    quenchBubbles { pref := 7, min := 5, cap := 1600, k := 64, bMax := 128 } 1560 = 0 := by decide

/-- Chapter 16: the first breach of port 836, priority 3. -/
theorem test_first_breach : after .faultDecision
    { put on [(FLT.S_N, 0x62, 8), (FLT.S_W, 0x62, 100), (FLT.S_REACT_BASE, 0x62, 1)] with
      flt := { reported := [{ src := 0x62, index := 836, detail := 0x1A23 }] } }
    (fun t => match t.flt.queue with
      | [r] => r.src == 0x62 && r.cls == 1 && r.react == 1 && 4096 * r.kind + r.index == 0x1344 && r.count == 1 &&
          r.detail == 0x1A23
      | _ => false) = true := by decide

/-- Chapter 19: entry 10 of receive ring 5. -/
theorem test_ring_entry : (put on [(HOST.R_DESC_BASE, 5, 0xF92800), (HOST.R_LOG2_COUNT, 5, 6), (HOST.R_INDEX, 5, 10)]).ringEntry 5 0 =
    0xF92940 := by decide

/-- R342: a host write is split at a 4 KiB boundary and at the maximum payload. -/
theorem test_split_host : (splitHost 256 600 0xFF0 (List.replicate 600 0)).map (fun x => (x.1, x.2.length)) =
    [(0xFF0, 16), (0x1000, 256), (0x1100, 256), (0x1200, 72)] := by decide

/-- R349: a rejected write of a low word discards the low word that waits. -/
theorem test_shadow_reject : after (.shadowFieldWrite 0 0x40 7)
    { put on [(HOST.D_SHADOW_VALID, 0, 1)] with host := { low := [(0xD10040, 5)] } }
    (fun t => t.host.low.isEmpty && t.flag HOST.D_WRITE_REJECTED 0) = true := by decide

/-- R240: HELD reads 0 before an image is loaded. -/
theorem test_held_before_load : on.fieldRead CRUC.HELD 0 0 = 0 := by decide

/-- The check values of the standards that the spec names: CRC-32C of "123456789". -/
theorem test_crc32c : crc32c ([0x31, 0x32, 0x33, 0x34, 0x35, 0x36, 0x37, 0x38, 0x39].map (fun n => BitVec.ofNat 8 n)) = 0xE3069283 := by
  decide

/-- No row of the table has bits, so the host's word changes nothing. -/
theorem test_fetch_word : decodeTableWord 32 0 = none ∧ State.reset.withFetchWord 32 0 = State.reset := ⟨rfl, rfl⟩

/-! ### Witnesses: for each statement with hypotheses, operands and a state that meet them, clause by clause -/

theorem witness_CoreMonitorsReport :
    (∃ (s : State) (n : Fin 81) (count : Word) (replica : Word), s.trmDue n = true ∧ s.core.skip = false ∧ s.disturbed = false ∧ s.core.ended.length < 80 ∧ lcoreOpen count.toNat replica.toNat = false ∧ 29492 * replica.toNat ≤ 32768 * count.toNat) ∧
    (∃ (s : State) (n : Fin 81), s.trmDue n = false) ∧
    (∃ (s : State) (d : Fin 32) (mv : BitVec 12), mv.toNat + s.get CORE.DROOP_THRESH < s.get CORE.V_SET ∧ tabFind s.core.droop (d.val / 4) = none) ∧
    (∃ (s : State) (shard : Fin 8) (start : Nat) (since : Nat), tabFind s.core.droop shard = some { start := start, band := some since } ∧ start + s.get CORE.MIN_HOLD * 1250 ≤ s.frc ∧ since + s.get CORE.MIN_HOLD * 1250 ≤ s.frc) ∧
    (∃ (s : State) (shard : Fin 8) (start : Nat), tabFind s.core.droop shard = some { start := start, band := none }) ∧
    (∃ (mv : BitVec 12), mv.toNat < 450) ∧
    (∃ (s : State) (a : Fin 7) (at_ : Nat), tabFind s.anvil.waitAt a = some at_ ∧ s.anvil.starved.contains a.val = false ∧ at_ + s.get CORE.BG_WAIT_LIMIT * 1250 < s.frc) ∧
    (∃ (s : State) (mv : BitVec 12), s.flag CORE.IN_TRANSITION = true ∧ s.get CORE.TGT_OP < 8 ∧ mv.toNat ≤ s.rowVoltage (s.get CORE.TGT_OP) + 5 ∧ s.rowVoltage (s.get CORE.TGT_OP) ≤ mv.toNat + 5) :=
  ⟨⟨put on [(TIME.FRC, 0, 1250000)], 80, 9001, 10000, by decide⟩,
    ⟨on, 80, by decide⟩,
    ⟨on, 31, 519, by decide⟩,
    ⟨{ put on [(TIME.FRC, 0, 10 ^ 9)] with core := { droop := [(7, { start := 0, band := some 0 })] } }, 7, 0, 0, by decide⟩,
    ⟨{ on with core := { droop := [(7, { start := 0, band := none })] } }, 7, 0, by decide⟩,
    ⟨449, by decide⟩,
    ⟨{ put on [(TIME.FRC, 0, 10 ^ 12)] with anvil := { waitAt := [(6, 0)] } }, 6, 0, by decide⟩,
    ⟨put on [(CORE.IN_TRANSITION, 0, 1), (CORE.TGT_OP, 0, 0)], 555, by decide⟩⟩

theorem witness_PowerCommandsTakeEffect :
    (∃ (s : State) (n : Fin 16), s.regOpen PWR.PHASE_SEL.off = true ∧ s.phaseValid n = true ∧ s.pwr.edge.map PhaseEdge.at_ ≠ some s.frc) ∧
    (∃ (s : State) (n : Fin 16), s.regOpen PWR.PHASE_SEL.off = true ∧ s.phaseValid n = false ∧ s.pwr.edge.map PhaseEdge.at_ ≠ some s.frc) ∧
    (∃ (s : State) (e : PhaseEdge), s.regOpen PWR.PHASE_SEL.off = true ∧ s.pwr.edge = some e ∧ e.at_ = s.frc ∧ e.rank < 6) ∧
    (∃ (s : State), s.regOpen PWR.E_PREF_OP.off = true) ∧
    (∃ (s : State), s.regOpen PWR.E_PREF_OP.off = true) ∧
    (∃ (rail : Fin 7), rail.val ≠ 0) ∧
    (∃ (s : State), s.powerDue = true ∧ s.pwr.winCount ≠ 0) ∧
    (∃ (s : State), s.powerDue = false) ∧
    (∃ (s : State), s.boot.powered = true ∧ s.act.secAt + 1250000000 ≤ s.frc) ∧
    (∃ (s : State), s.frc < s.act.secAt + 1250000000) ∧
    (∃ (s : State), s.pwr.thermNext ≤ s.frc ∧ s.anyQuench = true ∧ 1 < s.get PWR.T_LIMIT ∧ s.get PWR.T_LIMIT < 8) :=
  ⟨⟨put on [(PWR.E_VALID, 15, 1), (PWR.E_PREF_OP, 15, 7), (PWR.E_MIN_OP, 15, 4), (PWR.E_CAP, 15, 1900), (PWR.E_K, 15, 64), (PWR.E_B_MAX, 15, 128)], 15, by decide⟩,
    ⟨on, 15, by decide⟩,
    ⟨{ on with pwr := { edge := some { at_ := 0, rank := 5, done := true, phase := 0, govern := on.pwr.govern, qLimit := 0, over_ := 0, under := 0 } } }, { at_ := 0, rank := 5, done := true, phase := 0, govern := on.pwr.govern, qLimit := 0, over_ := 0, under := 0 }, by decide⟩,
    ⟨on, by decide⟩,
    ⟨on, by decide⟩,
    ⟨6, by decide⟩,
    ⟨{ put on [(TIME.FRC, 0, 1250000)] with pwr := { winSum := 480000000, winCount := 100 } }, by decide⟩,
    ⟨on, by decide⟩,
    ⟨put on [(TIME.FRC, 0, 1250000000)], by decide⟩,
    ⟨on, by decide⟩,
    ⟨put on [(PWR.TG_LEVEL, 17, 2), (PWR.T_LIMIT, 0, 7)], by decide⟩⟩

theorem witness_AnvilCommandsTakeEffect :
    (∃ (s : State), s.boot.powered = true ∧ s.flag PWR.PFAIL = false ∧ 450000000000 ≤ s.hoursTime ∧ s.get CORE.HOURS + 1 < 2 ^ 32) ∧
    (∃ (s : State), s.hoursTime < 450000000000) ∧
    (∃ (s : State) (f : Fetch), s.flag ANVL.PFAIL_COMMIT = false ∧ s.boot.powered = true ∧ s.fetched f = .runs) ∧
    (∃ (s : State), s.flag ANVL.PFAIL_COMMIT = true) ∧
    (∃ (s : State) (r : Fin 256) (v : Nat), tabFind s.anvil.selected r = some v) ∧
    (∃ (s : State) (f : Fetch), AnvilRuns s actWear ∧ FetchClean s f ∧ s.flt.injMem = []) ∧
    (∃ (s : State) (f : Fetch), AnvilRuns s actWear ∧ s.fetched f = .lost) ∧
    (∃ (s : State), (s.bitOf ANVL.ACT_HALTED actWear = true ∨ s.flag ANVL.PFAIL_COMMIT = true ∨ s.stepGranted actWear = false)) ∧
    (∃ (s : State) (b : Fin 4096), s.regOpen CRUC.MC_GO.off = true ∧ b.val < 2304 ∧ s.buf.mig.cur = none ∧ s.buf.mig.queue = [] ∧ s.buf.mig.failing = [] ∧ s.sparesLeft ≠ 0) ∧
    (∃ (s : State) (f : Fetch) (b : Nat) (k : Nat) (own : Bool) (rest : List (Nat × Bool)), AnvilRuns s actMigration ∧ FetchClean s f ∧ s.buf.mig.cur = none ∧ s.buf.mig.queue = (b, own) :: rest ∧ s.freeSpare = some k) ∧
    (∃ (s : State) (f : Fetch) (b : Nat) (k : Nat) (r : Nat), AnvilRuns s actMigration ∧ FetchClean s f ∧ s.buf.mig.cur = some (b, k, r) ∧ r < 8192) ∧
    (∃ (s : State) (f : Fetch) (b : Nat) (k : Nat) (r : Nat), AnvilRuns s actMigration ∧ FetchClean s f ∧ s.buf.mig.cur = some (b, k, r) ∧ 8192 ≤ r ∧ k < 64) :=
  ⟨⟨put on [(CORE.HOURS, 0, 2 ^ 32 - 2), (TIME.FRC, 0, 450000000000)], by decide⟩,
    ⟨on, by decide⟩,
    ⟨on, go, by decide⟩,
    ⟨put on [(ANVL.PFAIL_COMMIT, 0, 1)], by decide⟩,
    ⟨{ on with anvil := { selected := [(255, 1)] } }, 255, 1, by decide⟩,
    ⟨on, go, by decide⟩,
    ⟨on, lost, by decide⟩,
    ⟨put on [(ANVL.ACT_HALTED, 0, 127)], by decide⟩,
    ⟨on, 2303, by decide⟩,
    ⟨{ on with buf := { mig := { queue := [(7, false)] } } }, go, 7, 0, false, [], by decide⟩,
    ⟨{ on with buf := { mig := { cur := some (7, 0, 8191) } } }, go, 7, 0, 8191, by decide⟩,
    ⟨{ on with buf := { mig := { cur := some (7, 63, 8192) } } }, go, 7, 63, 8192, by decide⟩⟩

theorem witness_RingAndLoupeCommandsTakeEffect :
    (∃ (s : State) (n : Fin 88) (due : Nat), tabFind s.host.coalAt n = some due ∧ due ≤ s.frc ∧ s.msixOpen = true ∧ s.msixMasked (s.get HOST.R_VECTOR n) = false) ∧
    (∃ (s : State) (n : Fin 88), s.regOpen HOST.R_EN.off = true ∧ s.flag HOST.R_EN n = false ∧ s.ringConfigOk n = true) ∧
    (∃ (s : State), s.regOpen HOST.R_EN.off = true) ∧
    (∃ (s : State), s.regOpen TELE.LP_START.off = true ∧ s.flag TELE.LP_RUNNING = false) ∧
    (∃ (s : State), s.regOpen TELE.LP_STOP.off = true ∧ s.flag TELE.LP_RUNNING = true) ∧
    (∃ (s : State), s.flag TELE.LP_RUNNING = true ∧ s.get TELE.LOUPE_LEN ≠ 0 ∧ s.tele.loupeAt + s.get TELE.LOUPE_LEN ≤ s.frc) ∧
    (∃ (s : State) (u : Fin 72) (i : Fin 8) (n : BitVec 48), s.flag TELE.LP_RUNNING = true ∧ s.get (evField i) u ≠ 0 ∧ 2 ^ 48 ≤ s.get TELE.U_CNT u i + n.toNat) ∧
    (∃ (s : State) (k : Fin 8) (n : BitVec 48), s.flag TELE.S_EN k = true ∧ 2 ^ 48 ≤ s.get TELE.S_VALUE k + n.toNat ∧ s.flag TELE.S_OVF k = false) ∧
    (∃ (s : State), s.regOpen TELE.S_EN.off = true ∧ s.samplingOpen = true) ∧
    (∃ (s : State), s.regOpen TELE.S_EN.off = true ∧ s.samplingOpen = true) ∧
    (∃ (s : State), (s.tele.bwAt / (1250 * s.get TELE.BW_WINDOW) + 1) * (1250 * s.get TELE.BW_WINDOW) ≤ s.frc) :=
  ⟨⟨{ put on [(HOST.BUS_MASTER, 0, 1)] with host := { coalAt := [(87, 0)], msix := [(4 * 87 + 3, 0), (4 * 0 + 3, 0)] } }, 87, 0, by decide⟩,
    ⟨put on [(HOST.R_LOG2_COUNT, 87, 12)], 87, by decide⟩,
    ⟨on, by decide⟩,
    ⟨on, by decide⟩,
    ⟨put on [(TELE.LP_RUNNING, 0, 1)], by decide⟩,
    ⟨put on [(TELE.LP_RUNNING, 0, 1), (TELE.LOUPE_LEN, 0, 1), (TIME.FRC, 0, 1)], by decide⟩,
    ⟨(put on [(TELE.LP_RUNNING, 0, 1), (evField 7, 71, 1)]).set TELE.U_CNT (2 ^ 48 - 1) 71 7, 71, 7, 1, by decide⟩,
    ⟨put on [(TELE.S_EN, 7, 1), (TELE.S_VALUE, 7, 2 ^ 48 - 1)], 7, 1, by decide⟩,
    ⟨on, by decide⟩,
    ⟨on, by decide⟩,
    ⟨put on [(TIME.FRC, 0, 10 ^ 9)], by decide⟩⟩

theorem witness_TelemetryCommandsTakeEffect :
    (∃ (s : State), s.regOpen TELE.FLUSH.off = true) ∧
    (∃ (s : State), s.flag TELE.FL_BUSY = true) ∧
    (∃ (s : State) (f : Fetch) (e : Fin 8) (d : Delta), AnvilRuns s actFlush ∧ FetchClean s f ∧ tabGet 0 s.anvil.cursor actFlush < 2047 ∧ s.tele.deltas = [(e.val, [d])]) ∧
    (∃ (s : State) (f : Fetch) (e : Fin 8) (set : Fin 16384) (x : Flow) (r : Nat), AnvilRuns s actExport ∧ FetchClean s f ∧ s.tele.flows = [(4 * (16384 * e.val + set.val), x)] ∧ s.flowDue x = some r) ∧
    (∃ (s : State), s.regOpen TELE.FS_RD_PTR.off = true ∧ bit (s.get TELE.FLAGS) 2 = false) ∧
    (∃ (s : State) (u : State) (f : Fetch) (shard : Fin 8), AnvilRuns s actExport ∧ FetchClean s f ∧ u = s.stepped actExport ∧ bit (u.get TELE.FLAGS) 2 = true ∧ u.colRoom (le (u.sect secTele) 0x18 1) = true ∧ 4 ≤ u.fsWaiting shard) :=
  ⟨⟨on, by decide⟩,
    ⟨put on [(TELE.FL_BUSY, 0, 1)], by decide⟩,
    ⟨{ on with tele := { deltas := [(7, [{ index := 0, packets := 1, bytes := 64 }])] } }, go, 7, { index := 0, packets := 1, bytes := 64 }, by decide⟩,
    ⟨{ put on [(TIME.FRC, 0, 10 ^ 13)] with tele := { flows := [(4 * 131071, { id := 9 })] } }, go, 7, 16383, { id := 9 }, 0, by decide⟩,
    ⟨on, by decide⟩,
    ⟨put (sec secTele (List.replicate 0x120 0 ++ [1])) [(TELE.FLAGS, 0, 4), (TELE.FS_WR_PTR, 7, 4)], (put (sec secTele (List.replicate 0x120 0 ++ [1])) [(TELE.FLAGS, 0, 4), (TELE.FS_WR_PTR, 7, 4)]).stepped actExport, go, 7, by decide, by decide, rfl, by decide⟩⟩

theorem witness_QueueCommandsTakeEffect :
    (∃ (s : State) (k : Fin 3) (n : BitVec 19), (s.shaperNode k n.toNat).enabled = true ∧ (tabFind s.que.buckets (s.shaperNode k n.toNat).status).isSome = true ∧ 0 ≤ s.shaperLevel (s.shaperNode k n.toNat)) ∧
    (∃ (s : State) (r : Fin 8712) (i : Inst) (rest : List Hold), s.holdList r = .inst i :: rest ∧ s.portGate i.queue ≠ .down ∧ s.linkable i = true ∧ s.handleCheck i.h = 0 ∧ s.launchRefused i = false) ∧
    (∃ (s : State) (p : Fin 1088) (i : Inst) (rest : List Inst), s.residueOf p = i :: rest ∧ s.memberReady i.depth p i.queue = true ∧ s.handleCheck i.h = 0 ∧ s.launchRefused i = false) ∧
    (∃ (s : State) (r : Fin 8712) (x : Stall) (n : Nat) (rest : List Hold), s.holdList r = .repl x :: rest ∧ x.left = [n] ∧ s.queueListed (s.copyQueue x.group n) = true ∧ s.portGate (s.copyQueue x.group n) ≠ .down ∧ s.residueOf n = [] ∧ s.memberReady x.group n (s.copyQueue x.group n) = true ∧ s.handleCheck x.i.h = 0 ∧ x.i.launch = none) ∧
    (∃ (s : State) (p : Fin 1024), s.holdActive p = true ∧ s.portUp p = false ∧ (tabGet {} s.buf.link p).holdAt + s.get QSCH.PORT_DOWN_HOLD p * 1250000 ≤ s.frc) :=
  ⟨⟨{ on with dev := [(queueBase + 1, 1)], que := { buckets := [(queueBase + 0x28, ⟨0, 0⟩)] } }, 0, 0, by decide⟩,
    ⟨crucible { on with que := { holds := [(8711, [.inst { h := 0, queue := 0x40400 }])] } }, 8711, { h := 0, queue := 0x40400 }, [], by decide⟩,
    ⟨crucible { on with que := { residue := [(1087, [{ h := 0, queue := 0x403F0 }])] } }, 1087, { h := 0, queue := 0x403F0 }, [], by decide⟩,
    ⟨crucible { on with que := { holds := [(0, [.repl { i := { h := 0, queue := 0 }, left := [1087], group := 0 }])] } }, 0, { i := { h := 0, queue := 0 }, left := [1087], group := 0 }, 1087, [], by decide⟩,
    ⟨put (port linkAlign) [(QSCH.HOLD_ACTIVE, 0, 1), (QSCH.PORT_DOWN_HOLD, 0, 1), (TIME.FRC, 0, 1250000)], 0, by decide⟩⟩

theorem witness_ExactMatchCommandsTakeEffect :
    (∃ (s : State) (t : Fin 16) (e : Nat), s.regOpen EM.CMD_OPCODE.off = true ∧ s.emBusy = false ∧ t.val < s.get EM.TABLE_COUNT ∧ s.emFind t (s.emOpKey t) = [] ∧ s.emPlace true t (s.emOpKey t) = some [e]) ∧
    (∃ (s : State) (t : Fin 16) (x : EmAt) (more : List EmAt), s.regOpen EM.CMD_OPCODE.off = true ∧ s.emBusy = false ∧ t.val < s.get EM.TABLE_COUNT ∧ s.emFind t (s.emOpKey t) = x :: more ∧ s.emWritable x = true) ∧
    (∃ (s : State) (t : Fin 16) (e : Nat) (more : List EmAt), s.regOpen EM.CMD_OPCODE.off = true ∧ s.emBusy = false ∧ t.val < s.get EM.TABLE_COUNT ∧ s.emFind t (s.emOpKey t) = .row e :: more ∧ s.emHeld e = false) ∧
    (∃ (s : State) (t : Fin 16) (x : EmAt) (more : List EmAt), s.regOpen EM.CMD_OPCODE.off = true ∧ s.emBusy = false ∧ t.val < s.get EM.TABLE_COUNT ∧ s.emFind t (s.emOpKey t) = x :: more) ∧
    (∃ (s : State), s.regOpen EM.CMD_OPCODE.off = true ∧ s.pipe.emCmd = none ∧ s.pipe.learnQ ≠ []) ∧
    (∃ (s : State), s.regOpen EM.CMD_OPCODE.off = true ∧ s.pipe.emCmd.isSome = true) ∧
    (∃ (s : State) (x : Learn) (rest : List Learn) (e : Nat), s.pipe.emCmd = none ∧ s.pipe.learnQ = x :: rest ∧ s.emFind x.table x.key = [] ∧ s.emPlace true x.table x.key = some [e]) ∧
    (∃ (s : State) (f : Fetch) (t : Fin 16) (j : Nat) (e : Nat), AnvilRuns s actTarnish ∧ FetchClean s f ∧ t.val < s.get EM.TABLE_COUNT ∧ s.emAgeEn t = true ∧ tabGet 0 s.anvil.cursor (16 + t) = 0 ∧ (tabGet 0 s.anvil.passAt (80 + t) = 0 ∨ tabGet 0 s.anvil.passAt (16 + t) + tabGet 0 s.anvil.passAt (80 + t) ≤ s.frc) ∧ s.emField t 2 2 ≠ 0 ∧ s.emHeld (1024 * s.emField t 0 2) = false ∧ j < 4 ∧ e = 1024 * s.emField t 0 2 + s.emCost t * j ∧ (∀ k < 4, k ≠ j → (s.emRead t (emAddr (1024 * s.emField t 0 2 + s.emCost t * k))).valid = false) ∧ (s.emRead t (emAddr e)).valid = true ∧ bit (s.emRead t (emAddr e)).flags 1 = false ∧ bit (s.emRead t (emAddr e)).flags 3 = true) :=
  ⟨⟨em, 0, 0, by decide⟩,
    ⟨{ em with dev := [(emAddr 0 + 14, 1)] }, 0, .row 0, [], by decide⟩,
    ⟨{ em with dev := [(emAddr 0 + 14, 1)] }, 0, 0, [], by decide⟩,
    ⟨{ em with dev := [(emAddr 0 + 14, 1)] }, 0, .row 0, [], by decide⟩,
    ⟨{ on with pipe := { learnQ := [⟨0, zeros 10, 5, false⟩] } }, by decide⟩,
    ⟨{ on with pipe := { emCmd := some ⟨0, 1, 1⟩ } }, by decide⟩,
    ⟨{ em with pipe := { learnQ := [⟨0, zeros 10, 5, false⟩] } }, ⟨0, zeros 10, 5, false⟩, [], 0, by decide⟩,
    ⟨{ em with dev := [(emAddr 0 + 14, 9)] }, go, 0, 0, 0, by decide⟩⟩

theorem witness_ClaspCommandsTakeEffect :
    (∃ (s : State), s.regOpen EM.REQ.off = true) ∧
    (∃ (s : State) (r : Fin 8192), s.bitOf EM.REQ (r % 32) (r / 32) = true) ∧
    (∃ (s : State), s.regOpen EM.REQ.off = true) ∧
    (∃ (s : State), s.regOpen ASE.REQ.off = true) ∧
    (∃ (s : State) (b : Fin 1024), s.bitOf ASE.REQ (b % 32) (b / 32) = true) ∧
    (∃ (s : State), s.regOpen ASE.REQ.off = true) :=
  ⟨⟨on, by decide⟩,
    ⟨(on.setBit EM.REQ 31 255), 8191, by decide⟩,
    ⟨on, by decide⟩,
    ⟨on, by decide⟩,
    ⟨(on.setBit ASE.REQ 31 31), 1023, by decide⟩,
    ⟨on, by decide⟩⟩

theorem witness_AseCommandsTakeEffect :
    ∃ (s : State) (p : Fin 64) (b : Nat), s.regOpen ASE.CMD_OPCODE.off = true ∧ p.val < s.get ASE.PART_COUNT ∧ s.get ASE.POS_BANK < s.aseField p 2 2 ∧ s.aseWide p = false ∧ s.aseReplicas p = 1 ∧ b = s.aseBank p 0 + s.get ASE.POS_BANK :=
  ⟨ase, 0, 0, by decide⟩

theorem witness_AseSearchesTakeEffect :
    (∃ (s : State) (p : Fin 64) (b : Nat) (i : Nat) (multi : Bool), s.regOpen ASE.CMD_OPCODE.off = true ∧ p.val < s.get ASE.PART_COUNT ∧ s.aseReplicas p ≠ 0 ∧ s.flt.injHit = [] ∧ s.aseMatch p (leNat (s.aseOperand ASE.OP_KEY) % 2 ^ s.aseKeyBits p) (s.aseCover p 0 (leNat (s.aseOperand ASE.OP_KEY) % 2 ^ s.aseKeyBits p)) = (some (b, i), multi)) ∧
    (∃ (s : State) (p : Fin 64) (r : Fin 128) (c : AseCursor) (b : Nat) (o : Nat) (k : Nat) (i : Nat), s.regOpen ASE.CMD_OPCODE.off = true ∧ p.val < s.get ASE.PART_COUNT ∧ r.val < s.aseReplicas p ∧ s.pipe.ase = some c ∧ r.val < s.aseReplicas c.part ∧ s.flt.injHit = [] ∧ c.banks = [(o, k)] ∧ b = s.aseBank c.part r + o ∧ (s.bankMatches (s.aseWide c.part) b c.key).find? (fun j => decide (k ≤ j) && !bit (s.slotFlags b j) 2) = some i) ∧
    (∃ (s : State) (p : Fin 64) (r : Fin 128), s.regOpen ASE.CMD_OPCODE.off = true ∧ p.val < s.get ASE.PART_COUNT ∧ r.val < s.aseReplicas p ∧ s.pipe.ase = none) :=
  ⟨⟨{ ase with dev := [(slotAddr 0 2047 + 42, 1)] }, 0, 0, 2047, false, by decide⟩,
    ⟨{ ase with dev := [(slotAddr 0 2047 + 42, 1)], pipe := { ase := some ⟨0, 0, [(0, 5)]⟩ } }, 0, 0, ⟨0, 0, [(0, 5)]⟩, 0, 0, 5, 2047, by decide⟩,
    ⟨ase, 0, 0, by decide⟩⟩

theorem witness_PipeCommandsTakeEffect :
    (∃ (s : State) (n : Fin 64) (g : CpuFrame) (rest : List CpuFrame), s.flag PWR.PFAIL = false ∧ s.bubbleNext n = false ∧ s.listsReady n = [] ∧ tabFind s.buf.recirc n = none ∧ s.cpuList n = g :: rest ∧ (g.queue.isSome = true ∨ s.notRefused (s.getStore g.h).f.req = true) ∧ (s.arbSrc n).losers = []) ∧
    (∃ (s : State) (n : Fin 64), s.flag PWR.PFAIL = false ∧ s.bubbleNext n = true) ∧
    (∃ (s : State), s.flag PWR.PFAIL = true) ∧
    (∃ (s : State) (n : Fin 64) (st : Fin 32) (k : Pkt), st.val < 20 ∧ s.ingress n = [k] ∧ k.stage = st.val ∧ k.issued = false) ∧
    (∃ (s : State) (n : Fin 64) (st : Fin 32) (k : Pkt) (w : Nat), st.val < 19 ∧ s.ingress n = [k] ∧ k.pipe = n.val ∧ k.stage = st.val ∧ k.issued = true ∧ k.looks = [] ∧ s.flt.injHit = [] ∧ s.stageField n st 0x82 1 = 0 ∧ s.stageField n st 0x84 2 < s.areaSize actionWords ∧ w = s.mem (s.wordAddr k.work (s.stageField n st 0x84 2)) 8 ∧ awOp w = 1 ∧ awPred w = false ∧ awEnd w = true) ∧
    (∃ (s : State) (f : Fetch), AnvilRuns s actPlanish ∧ FetchClean s f ∧ s.flt.injHit = []) :=
  ⟨⟨crucible { on with buf := { cpuIn := [(63, [{ h := 0 }])] } }, 63, { h := 0 }, [], by decide⟩,
    ⟨{ on with pwr := { bubbles := 192 }, buf := { slots := [(63, 64)] } }, 63, by decide⟩,
    ⟨put on [(PWR.PFAIL, 0, 1)], by decide⟩,
    ⟨{ on with pipe := { ing := [(63, [{ h := 0, pipe := 63, stage := 19 }])] } }, 63, 19, { h := 0, pipe := 63, stage := 19 }, by decide⟩,
    ⟨{ on with pipe := { ing := [(0, [{ h := 0, pipe := 0, stage := 18, issued := true }])] }, dev := [(actionBase + 0x2000 * 18 + 7, 12)] }, 0, 18, { h := 0, pipe := 0, stage := 18, issued := true }, 0x0C00000000000000, by decide⟩,
    ⟨on, go, by decide⟩⟩

theorem witness_LinkCommandsTakeEffect :
    (∃ (s : State) (p : Fin 1024) (tech : Byte), s.inState p linkAn = true ∧ tech.toNat = s.desc p 2 1 ∧ (s.linkRec p).lt = false) ∧
    (∃ (s : State) (p : Fin 1024) (tech : Byte), s.inState p linkAn = true ∧ tech.toNat ≠ s.desc p 2 1) ∧
    (∃ (s : State) (p : Fin 1024), s.inState p linkAn = true) ∧
    (∃ (s : State) (p : Fin 1024), s.inState p linkTraining = true) ∧
    (∃ (s : State) (p : Fin 1024), s.inState p linkTraining = true) ∧
    (∃ (s : State) (p : Fin 1024), s.inState p linkAlign = true ∧ s.linkOk p = true ∧ (s.linkRec p).okAt + 1250000 ≤ s.frc) ∧
    (∃ (s : State) (p : Fin 1024), s.inState p linkAlign = true ∧ (s.linkRec p).alignAt + s.get PORT.ALIGN_TIMEOUT p * 1250000 ≤ s.frc) ∧
    (∃ (s : State) (p : Fin 1024), s.inState p linkUp = true ∧ s.linkOk p = false ∧ (s.linkRec p).okAt + s.get PORT.LINK_DEBOUNCE p * 125000 ≤ s.frc) ∧
    (∃ (s : State) (p : Fin 1024), s.isPort p = true ∧ s.live = true) :=
  ⟨⟨port linkAn, 0, 0, by decide⟩,
    ⟨port linkAn, 0, 1, by decide⟩,
    ⟨port linkAn, 0, by decide⟩,
    ⟨port linkTraining, 0, by decide⟩,
    ⟨put (port linkTraining) [(PORT.AN_EN, 0, 1)], 0, by decide⟩,
    ⟨put (port linkAlign) [(PORT.DESKEW_OK, 0, 1), (TIME.FRC, 0, 1250000)], 0, by decide⟩,
    ⟨put (port linkAlign) [(PORT.AN_EN, 0, 1), (PORT.ALIGN_TIMEOUT, 0, 0)], 0, by decide⟩,
    ⟨put (port linkUp) [(PORT.LINK_DEBOUNCE, 0, 1), (TIME.FRC, 0, 125000)], 0, by decide⟩,
    ⟨port linkAlign, 0, by decide⟩⟩

theorem witness_PortCommandsTakeEffect :
    (∃ (s : State) (p : Fin 1024), s.regOpen PORT.ADMIN_UP.off = true ∧ s.isPort p = true ∧ s.frozen p = false ∧ s.linkState p = linkDisabled ∧ s.lcState ≠ lcRetired ∧ s.flag PORT.TEST_MODE p = false ∧ s.flag PORT.AN_EN p = true ∧ s.bitOf FLT.PORT_SAFE (p % 32) (p / 32) = false ∧ s.portsGo = true) ∧
    (∃ (s : State) (p : Fin 1024), s.regOpen PORT.ADMIN_UP.off = true ∧ s.isPort p = true ∧ s.frozen p = false ∧ s.lcState ≠ lcService ∧ linkAn ≤ s.linkState p ∧ s.linkState p ≤ linkUp) ∧
    (∃ (s : State) (p : Fin 1024), s.regOpen PORT.TEST_MODE.off = true ∧ s.isPort p = true ∧ s.frozen p = false ∧ s.lcState ≠ lcRetired ∧ s.linkState p ≤ linkUp) ∧
    (∃ (s : State) (p : Fin 1024), s.regOpen PORT.TEST_MODE.off = true ∧ s.isPort p = true ∧ s.frozen p = false ∧ s.lcState ≠ lcRetired ∧ s.linkState p = linkTest ∧ s.flag PORT.ADMIN_UP p = false) ∧
    (∃ (s : State) (p : Fin 1024), s.regOpen PORT.RESTART.off = true ∧ s.isPort p = true ∧ s.frozen p = false ∧ linkAn ≤ s.linkState p ∧ s.linkState p ≤ linkUp) ∧
    (∃ (s : State) (p : Fin 1024), s.regOpen PORT.FEC_CLEAR.off = true ∧ s.isPort p = true) ∧
    (∃ (s : State), s.live = true ∧ s.flag IMG.READY = true ∧ s.flag GLB.LANES_READY = false) ∧
    (∃ (s : State), s.live = true) :=
  ⟨⟨put (port linkDisabled) [(PORT.AN_EN, 0, 1)], 0, by decide⟩,
    ⟨port linkAlign, 0, by decide⟩,
    ⟨port linkUp, 0, by decide⟩,
    ⟨port linkTest, 0, by decide⟩,
    ⟨put (port linkUp) [(PORT.AN_EN, 0, 1)], 0, by decide⟩,
    ⟨port linkUp, 0, by decide⟩,
    ⟨put (port linkUp) [(GLB.LANES_READY, 0, 0)], by decide⟩,
    ⟨on, by decide⟩⟩

theorem witness_LaneCommandsTakeEffect :
    (∃ (s : State) (l : Fin 1024) (v : Word), s.regOpen LANE.PRE.off = true ∧ (s.portOfLane l).isSome = true ∧ s.flag LANE.TRAINING_ACTIVE l = false ∧ ffeOk (signed (bits v.toNat 0 7) 7) (bits v.toNat 8 7 : Nat) (signed (bits v.toNat 16 7) 7) = true) ∧
    (∃ (s : State) (l : Fin 1024) (v : Word), s.regOpen LANE.PRE.off = true ∧ (s.portOfLane l).isSome = true ∧ ffeOk (signed (bits v.toNat 0 7) 7) (bits v.toNat 8 7 : Nat) (signed (bits v.toNat 16 7) 7) = false) ∧
    (∃ (s : State) (l : Fin 1024), s.flag LANE.TRAINING_ACTIVE l = true) ∧
    (∃ (s : State) (l : Fin 1024), s.regOpen LANE.ADAPT_RESTART.off = true ∧ (s.portOfLane l).isSome = true) ∧
    (∃ (s : State) (f : Fetch) (l : Fin 1024), AnvilRuns s actCalibration ∧ FetchClean s f ∧ (s.portOfLane l).isSome = true ∧ s.flag LANE.ADAPT_FREEZE l = false ∧ s.flag LANE.CDR_LOCK l = true) ∧
    (∃ (s : State) (l : Fin 1024), s.laneTest l = true ∧ s.flag LANE.CHK_EN l = true ∧ s.chkLoops l = false) ∧
    (∃ (s : State) (l : Fin 1024) (syms : List (Fin 4)), s.laneTest l = true ∧ s.flag LANE.CHK_EN l = true ∧ s.chkLoops l = false ∧ (s.chkRun l syms).lost = true) ∧
    (∃ (s : State) (l : Fin 1024), s.regOpen LANE.CHK_CLEAR.off = true ∧ (s.portOfLane l).isSome = true) ∧
    (∃ (s : State) (l : Fin 1024), s.regOpen LANE.INJECT.off = true ∧ s.laneTest l = true ∧ s.flag LANE.GEN_EN l = true ∧ s.get LANE.INJ_MODE l = 1) :=
  ⟨⟨port linkUp, 0, 0x00004000, by decide⟩,
    ⟨port linkUp, 0, 0x00001F00, by decide⟩,
    ⟨put (port linkTraining) [(LANE.TRAINING_ACTIVE, 0, 1)], 0, by decide⟩,
    ⟨port linkUp, 0, by decide⟩,
    ⟨put (port linkUp) [(LANE.CDR_LOCK, 0, 1)], go, 0, by decide⟩,
    ⟨put (port linkTest) [(LANE.CHK_EN, 0, 1)], 0, by decide⟩,
    ⟨{ put (port linkTest) [(LANE.CHK_EN, 0, 1), (LANE.CHK_LOCK, 0, 1), (LANE.CHK_PATTERN, 0, 5)] with buf := { chk := [(0, { wrong := List.replicate 255 1000 })] } }, 0, [1], by decide⟩,
    ⟨port linkUp, 0, by decide⟩,
    ⟨put (port linkTest) [(LANE.GEN_EN, 0, 1), (LANE.INJ_MODE, 0, 1)], 0, by decide⟩⟩

theorem witness_PauseCommandsTakeEffect :
    (∃ (s : State) (p : Fin 1024) (q0 : BitVec 16), s.portUp p = true ∧ s.live = true ∧ s.get PORT.FC_MODE p = 2 ∧ q0 ≠ 0) ∧
    (∃ (s : State) (p : Fin 1024) (q : Fin 8) (at_ : Nat), (s.pauseOf p q).until_ = some at_ ∧ at_ ≤ s.frc) ∧
    (∃ (s : State) (p : Fin 1024), s.portUp p = true ∧ s.live = true ∧ s.buf.pauseDue.contains p.val = true ∧ s.get PORT.FC_MODE p = 2) ∧
    (∃ (s : State) (p : Fin 1024) (q : Fin 8), s.portUp p = true ∧ s.live = true ∧ s.asserted p q = true ∧ s.get PORT.FC_MODE p = 2 ∧ tabGet 0 s.buf.pauseAt (8 * p + q) + s.quantaTicks p (s.get PORT.REFRESH p) ≤ s.frc) ∧
    (∃ (s : State) (p : Fin 1024) (q : Fin 8), s.isPort p = true ∧ s.flag PORT.STORM_EN p = true ∧ s.stormActive p q = false ∧ s.live = true ∧ s.stormDue p q = some true) ∧
    (∃ (s : State) (p : Fin 1024) (q : Fin 8), s.stormActive p q = true ∧ (s.pauseOf p q).until_ = none ∧ (s.pauseOf p q).clearAt + s.get PORT.HYST p * 1250000 ≤ s.frc) :=
  ⟨⟨put (port linkUp) [(PORT.FC_MODE, 0, 2)], 0, 1, by decide⟩,
    ⟨{ on with buf := { pause := [(8191, { until_ := some 0 })] } }, 1023, 7, 0, by decide⟩,
    ⟨{ put (port linkUp) [(PORT.FC_MODE, 0, 2)] with buf := { pauseDue := [0] } }, 0, by decide⟩,
    ⟨put (port linkUp) [(PORT.FC_MODE, 0, 2), (CRUC.XOFF, 7, 1), (PORT.REFRESH, 0, 1), (TIME.FRC, 0, 4)], 0, 7, by decide⟩,
    ⟨{ put (port linkUp) [(PORT.STORM_EN, 0, 1), (PORT.T_STORM, 0, 1), (TIME.FRC, 0, 1250000)] with buf := { pause := [(7, { until_ := some 1250001 })] } }, 0, 7, by decide⟩,
    ⟨put (port linkUp) [(PORT.STORM_ACTIVE, 0, 128), (PORT.HYST, 0, 1), (TIME.FRC, 0, 1250000)], 0, 7, by decide⟩⟩

theorem witness_IngressAndGateCommandsTakeEffect :
    (∃ (s : State) (p : Fin 1024) (b : List Byte) (r : Nat) (f : Frame) (x : Rx), s.portUp p = true ∧ s.portsGo = true ∧ tabFind s.buf.rx p = some x ∧ x.at_ = .fifo r ∧ s.inList r = [.fifo f] ∧ f.port = p.val ∧ f.done = false ∧ b ≠ [] ∧ b.length ≤ 256 ∧ (s.chargeSeg f false).isSome = true) ∧
    (∃ (s : State) (p : Fin 1024) (start : Nat), s.regOpen QSCH.CONFIG_CHANGE.off = true ∧ s.isPort p = true ∧ s.flag QSCH.GATE_EN p = true ∧ 1 ≤ s.get QSCH.ADMIN_LEN p ∧ s.get QSCH.ADMIN_LEN p ≤ 256 ∧ 1000 ≤ s.get QSCH.ADMIN_CYCLE p ∧ s.get QSCH.ADMIN_CYCLE p ≤ 1000000000 ∧ s.get QSCH.ADMIN_BASE_NS p < 1000000000 ∧ start = s.gateStartInstant (timeOf (s.get QSCH.ADMIN_BASE_SEC p) (s.get QSCH.ADMIN_BASE_NS p) 0) (nsUnits (s.get QSCH.ADMIN_CYCLE p))) ∧
    (∃ (s : State) (p : Fin 1024), s.regOpen QSCH.GATE_EN.off = true ∧ s.isPort p = true) ∧
    (∃ (s : State) (p : Fin 1024) (g : GateList), (s.gate p).next = some g ∧ g.start ≤ s.now) ∧
    (∃ (s : State) (p : Fin 1024) (g : GateList), (s.gate p).oper = some g) ∧
    (∃ (s : State) (q : BitVec 19) (i : Inst) (rest : List Inst), s.queue q.toNat = i :: rest ∧ i.launched = false ∧ i.launchAt ≤ s.now) ∧
    (∃ (s : State) (p : Fin 1089) (copies : Copies) (g : Nat) (k : Nat) (l : List Member) (m : List Member) (c : Nat) (j : Nat), p.val < 1024 ∧ s.isPort p = true ∧ s.live = true ∧ copies ≠ .neither ∧ s.flag QSCH.GATE_EN p = false ∧ s.portOk p = true ∧ s.topGroup p ((List.range 16).map (fun c => s.classMember p c)) = some g ∧ dwrrChoose (((List.range 16).map (fun c => s.classMember p c)).filter (fun x => s.classGroup p x.id == g)) (s.rrPtr (groupPtr p g)) = some (l, c) ∧ s.subChoose p c = some (m, j) ∧ k = s.classPrio p c ∧ s.stormActive p k = false ∧ (s.arbEg (pipeOf p)).granted = [] ∧ (s.arbEg (pipeOf p)).pick 18 (s.egReady (pipeOf p)) = some (p % 16)) ∧
    (∃ (s : State) (p : Fin 1089) (copies : Copies), p.val < 1024 ∧ s.isPort p = true ∧ s.live = true ∧ copies ≠ .neither ∧ s.flag QSCH.GATE_EN p = false ∧ s.slotless p = false ∧ (s.arbEg (pipeOf p)).granted = [] ∧ (s.arbEg (pipeOf p)).pick 18 (s.egReady (pipeOf p)) ≠ some (p % 16)) ∧
    (∃ (s : State), s.live = true) :=
  ⟨⟨{ put (port linkUp) [(CRUC.RP_MIN, 0, 1)] with buf := { rx := [(0, { at_ := .fifo 0 })], lists := [(0, [.fifo {}])] } }, 0, [1], 0, {}, { at_ := .fifo 0 }, by decide⟩,
    ⟨put (port linkUp) [(QSCH.GATE_EN, 0, 1), (QSCH.ADMIN_LEN, 0, 256), (QSCH.ADMIN_CYCLE, 0, 1000)], 0, 131072000, by decide⟩,
    ⟨port linkUp, 0, by decide⟩,
    ⟨{ on with que := { gates := [(1023, { next := some ⟨0, 1, 1000, 0⟩ })] } }, 1023, ⟨0, 1, 1000, 0⟩, by decide⟩,
    ⟨{ on with que := { gates := [(1023, { oper := some ⟨0, 1, 1000, 0⟩ })] } }, 1023, ⟨0, 1, 1000, 0⟩, by decide⟩,
    ⟨{ on with que := { queues := [(0x4043F, [{ h := 0, queue := 0x4043F }])] } }, 0x4043F, { h := 0, queue := 0x4043F }, [], by decide⟩,
    ⟨sched, 0, .one, 7, 2, [⟨5, true, false, 0, 64, 0⟩], ⟨0, true, false, 0, 64, 0⟩ :: (List.range 15).map (fun k => ⟨k + 1, false, true, 0, 64, 0⟩), 5, 0, by decide⟩,
    ⟨port linkUp, 0, .one, by decide⟩,
    ⟨on, by decide⟩⟩

theorem witness_EgressCommandsTakeEffect :
    (∃ (s : State) (p : Fin 1024) (c : Nat) (b : List Byte) (rest : List Item), s.portUp p = true ∧ s.live = true ∧ tabFind s.que.tx p = none ∧ s.txList p = .card c b :: rest) ∧
    (∃ (s : State) (p : Fin 1024) (e : Eg) (rest : List Item), s.portUp p = true ∧ s.live = true ∧ tabFind s.que.tx p = none ∧ (s.txDue p).txList p = .inst e :: rest ∧ s.startReady (.inst e) = true ∧ s.handleCheck e.i.h = 0) ∧
    (∃ (s : State) (p : Fin 1024) (e : Eg) (rest : List Item), s.portUp p = true ∧ s.live = true ∧ tabFind s.que.tx p = none ∧ s.txList p = .inst e :: rest ∧ e.due = none ∧ (s.getStore e.i.h).f.done = false ∧ ((s.getStore e.i.h).f.bytes.length < 512 ∨ s.governingOp < 4)) ∧
    (∃ (s : State) (p : Fin 1024) (x : Tx), tabFind s.que.tx p = some x) ∧
    (∃ (s : State) (p : Fin 1024) (x : Tx) (c : Nat) (b : List Byte), tabFind s.que.tx p = some x ∧ x.item = .card c b) ∧
    (∃ (s : State) (p : Fin 1024) (x : Tx) (e : Eg), tabFind s.que.tx p = some x ∧ x.item = .inst e ∧ (s.getStore e.i.h).f.done = true) ∧
    (∃ (s : State) (r : Fin 64) (c : Nat) (b : List Byte), s.txList cpuPort = [.card c b] ∧ s.itemRing (.card c b) = r.val ∧ s.ringOpen r (ceilDiv b.length 2048) = true) ∧
    (∃ (s : State) (r : Fin 64) (e : Eg), s.txList cpuPort = [.inst e] ∧ s.itemRing (.inst e) = r.val ∧ s.ringOpen r (ringNeed (s.storedLen e.i.h)) = true ∧ s.handleCheck e.i.h = 0) ∧
    (∃ (s : State) (r : Fin 64) (at_ : Nat), (s.queue (cpuQueue r)).isEmpty = false ∧ s.ringAccepts r = false ∧ tabFind s.host.stallSince r = some at_ ∧ s.get HOST.R_RX_STALL r ≠ 0 ∧ s.flag HOST.R_STALLED r = false ∧ at_ + s.get HOST.R_RX_STALL r * 1250000 ≤ s.frc) ∧
    (∃ (s : State) (u : State) (n : Fin 16) (l : List (List Byte)) (h : Nat), s.flag HOST.R_EN (64 + n) = true ∧ s.portsGo = true ∧ s.txGather (64 + n) [] 5 = .frame l ∧ s.txStatus l = 0 ∧ s.heldIn (8 * cpuPort + byteAt (l.headD []) 5 % 8) (s.get HOST.R_PIPE (64 + n)) = false ∧ s.txStore (s.get HOST.R_PIPE (64 + n)) (8 * cpuPort + byteAt (l.headD []) 5 % 8) (s.txData l) = (some h, u)) ∧
    (∃ (s : State) (n : Fin 88), s.live = true ∧ n.val < 64 ∧ s.flag HOST.R_STALLED n = true ∧ s.ringAccepts n = true) ∧
    (∃ (s : State), s.regOpen HOST.LINK_UP.off = true ∧ (∀ n, n < 88 → s.flag HOST.R_EN n = false)) ∧
    (∃ (s : State) (b : Bar), s.live = true ∧ (b = .bar0 ∨ b = .bar2)) ∧
    (∃ (b : Bar), b ≠ .bar0 ∧ b ≠ .bar2) :=
  ⟨⟨{ port linkUp with que := { txq := [(0, [.card 15 [1]])] } }, 0, 15, [1], [], by decide⟩,
    ⟨crucible { port linkUp with que := { txq := [(0, [.inst { i := { h := 0, queue := 0 }, port := 0, pipe := 0, due := some true }])] } }, 0, { i := { h := 0, queue := 0 }, port := 0, pipe := 0, due := some true }, [], by decide⟩,
    ⟨{ port linkUp with buf := { store := [(0, {})] }, que := { txq := [(0, [.inst { i := { h := 0, queue := 0 }, port := 0, pipe := 0 }])] } }, 0, { i := { h := 0, queue := 0 }, port := 0, pipe := 0 }, [], by decide⟩,
    ⟨{ on with que := { tx := [(1023, { item := .card 0 [] })] } }, 1023, { item := .card 0 [] }, by decide⟩,
    ⟨{ on with que := { tx := [(1023, { item := .card 15 [] })] } }, 1023, { item := .card 15 [] }, 15, [], by decide⟩,
    ⟨crucible { on with que := { tx := [(1023, { item := .inst { i := { h := 0, queue := 0 }, port := 1023, pipe := 63 } })] } }, 1023, { item := .inst { i := { h := 0, queue := 0 }, port := 1023, pipe := 63 } }, { i := { h := 0, queue := 0 }, port := 1023, pipe := 63 }, by decide⟩,
    ⟨ring { on with que := { txq := [(cpuPort, [.card 0 [1, 2, 3, 4, 5]])] } } 0 3, 0, 0, [1, 2, 3, 4, 5], by decide⟩,
    ⟨crucible (ring { on with que := { txq := [(cpuPort, [.inst { i := { h := 0, queue := 0x4043F }, port := cpuPort, pipe := 0 }])] } } 63 3), 63, { i := { h := 0, queue := 0x4043F }, port := cpuPort, pipe := 0 }, by decide⟩,
    ⟨{ put on [(HOST.R_RX_STALL, 63, 1), (TIME.FRC, 0, 1250000)] with que := { queues := [(0x4043F, [{ h := 0, queue := 0x4043F }])] }, host := { stallSince := [(63, 0)] } }, 63, 0, by decide⟩,
    ⟨sent, (sent.txStore 0 8704 (sent.txData [sent.memAt 0 32])).2, 0, [sent.memAt 0 32], 0, by decide, by decide, by decide, by decide, by decide, Prod.ext (by decide) rfl⟩,
    ⟨ring (put on [(HOST.R_STALLED, 63, 1)]) 63 3, 63, by decide⟩,
    ⟨on, by decide⟩,
    ⟨on, .bar2, by decide⟩,
    ⟨.cfg, by decide⟩⟩

theorem witness_DmaCommandsTakeEffect :
    (∃ (s : State) (c : Fin 32), s.regOpen HOST.D_GO.off = true ∧ s.get HOST.D_STATE c = dmaIdle ∧ s.dmaCheck c = none) ∧
    (∃ (s : State) (c : Fin 32), s.regOpen HOST.D_GO.off = true ∧ s.get HOST.D_STATE c ≠ dmaIdle) ∧
    (∃ (s : State) (c : Fin 32) (data : List Byte), s.get HOST.D_STATE c = dmaRunning ∧ s.dmaTurn = some c.val ∧ s.dmaRec c = {} ∧ s.msixOpen = true ∧ s.get HOST.D_COUNT c = 1 ∧ addrSpace (s.get HOST.D_SRC c) = 0 ∧ addrSpace (s.get HOST.D_DST c) = 0 ∧ s.get HOST.D_DST_W c ≤ 63 ∧ s.dmaSw c = s.dmaDw c ∧ data.length = s.dmaDw c ∧ s.flag HOST.D_HALF_IE c = false) ∧
    (∃ (s : State) (c : Fin 32), s.dmaTurn ≠ some c.val) ∧
    (∃ (s : State) (c : Fin 32), s.get HOST.D_STATE c = dmaRunning ∧ (s.dmaRec c).readback = true ∧ s.flag HOST.D_SHADOW_VALID c = false) ∧
    (∃ (s : State) (c : Fin 32), s.get HOST.D_STATE c = dmaRunning ∧ (s.dmaRec c).readback = true) ∧
    (∃ (s : State) (c : Fin 32), s.regOpen HOST.D_ABORT.off = true ∧ s.get HOST.D_STATE c = dmaRunning) ∧
    (∃ (s : State) (c : Fin 32), s.regOpen HOST.D_CLEAR_HALT.off = true ∧ s.get HOST.D_STATE c = dmaHalted ∧ s.flag HOST.D_SHADOW_VALID c = false) ∧
    (∃ (s : State), s.regOpen HOST.D_SHADOW_VALID.off = true) ∧
    (∃ (s : State), s.regOpen HOST.D_SHADOW_VALID.off = true) ∧
    (∃ (s : State) (c : Fin 32), s.regOpen HOST.D_SH_SRC.off = true ∧ s.flag HOST.D_SHADOW_VALID c = false) ∧
    (∃ (s : State) (c : Fin 32), s.regOpen HOST.D_SH_SRC.off = true ∧ s.flag HOST.D_SHADOW_VALID c = true) :=
  ⟨⟨put on [(HOST.D_COUNT, 31, 1)], 31, by decide⟩,
    ⟨put on [(HOST.D_STATE, 31, 2)], 31, by decide⟩,
    ⟨put on [(HOST.D_STATE, 31, 1), (HOST.BUS_MASTER, 0, 1), (HOST.D_COUNT, 31, 1)], 31, [5], by decide⟩,
    ⟨on, 31, by decide⟩,
    ⟨{ put on [(HOST.D_STATE, 31, 1)] with host := { dma := [(31, { readback := true })] } }, 31, by decide⟩,
    ⟨{ put on [(HOST.D_STATE, 31, 1)] with host := { dma := [(31, { readback := true })] } }, 31, by decide⟩,
    ⟨put on [(HOST.D_STATE, 31, 1)], 31, by decide⟩,
    ⟨put on [(HOST.D_STATE, 31, 2)], 31, by decide⟩,
    ⟨on, by decide⟩,
    ⟨on, by decide⟩,
    ⟨on, 31, by decide⟩,
    ⟨put on [(HOST.D_SHADOW_VALID, 31, 1)], 31, by decide⟩⟩

theorem witness_ImageCommandsTakeEffect :
    (∃ (s : State) (b : Fin 2), s.regOpen IMG.OPCODE.off = true ∧ s.imgRefusal opLoadBank b = none) ∧
    (∃ (s : State), s.regOpen IMG.OPCODE.off = true ∧ s.imgRefusal opLoadHost 0 = none) ∧
    (∃ (s : State) (b : Fin 2), s.regOpen IMG.OPCODE.off = true ∧ s.imgRefusal opWriteBank b = none) ∧
    (∃ (s : State) (b : Fin 2), s.regOpen IMG.OPCODE.off = true ∧ s.imgRefusal opVerifyBank b = none) ∧
    (∃ (s : State), s.regOpen IMG.OPCODE.off = true ∧ s.imgRefusal opSwap 0 = none) ∧
    (∃ (s : State) (c : ImgCmd), s.regOpen IMG.OPCODE.off = true ∧ s.img.cmd = some c ∧ c.op ≠ 0 ∧ c.phase ≠ .configuring) ∧
    (∃ (s : State) (u : State) (c : ImgCmd) (bytes : List Byte) (f : VFail), s.img.cmd = some c ∧ c.phase = .verifying ∧ c.op = opLoadHost ∧ s.live = true ∧ u = s.set IMG.VERIFY_US (satTo 0xFFFF ((s.frc - c.at_) / 1250)) ∧ u.verify (s.imgSource c (bytes.take (s.get IMG.SRC_LEN - 1)) true) true = .inl f) ∧
    (∃ (s : State) (u : State) (c : ImgCmd), s.img.cmd = some c ∧ c.phase = .verifying ∧ c.op = opVerifyBank ∧ s.live = true ∧ u = s.set IMG.VERIFY_US (satTo 0xFFFF ((s.frc - c.at_) / 1250))) ∧
    (∃ (s : State) (c : ImgCmd), s.img.cmd = some c ∧ c.phase = .bankWritten ∧ c.op ≠ 0) ∧
    (∃ (s : State), s.flag IMG.RETIRING = true ∧ s.get IMG.INFLIGHT s.oldEpoch = 0) ∧
    (∃ (s : State), s.flag IMG.RETIRING = true ∧ s.img.overdue = false ∧ s.img.flipAt + s.get IMG.RETIRE_TIMEOUT * 1250000 ≤ s.frc) ∧
    (∃ (s : State), s.regOpen IMG.RETIRE_FORCE.off = true ∧ s.flag IMG.RETIRING = true) :=
  ⟨⟨on, 1, by decide⟩,
    ⟨on, by decide⟩,
    ⟨on, 1, by decide⟩,
    ⟨on, 1, by decide⟩,
    ⟨put on [(IMG.READY, 0, 1), (IMG.SWAP_ENABLED, 0, 1)], by decide⟩,
    ⟨loading opSwap .waitTrigger, ⟨opSwap, 0, .waitTrigger, 0⟩, by decide⟩,
    ⟨loading opLoadHost .verifying, (loading opLoadHost .verifying).set IMG.VERIFY_US 0, ⟨opLoadHost, 0, .verifying, 0⟩, [], { code := resFetch }, by decide, by decide, by decide, by decide, rfl, by decide⟩,
    ⟨loading opVerifyBank .verifying, (loading opVerifyBank .verifying).set IMG.VERIFY_US 0, ⟨opVerifyBank, 0, .verifying, 0⟩, by decide, by decide, by decide, by decide, rfl⟩,
    ⟨loading opWriteBank .bankWritten, ⟨opWriteBank, 0, .bankWritten, 0⟩, by decide⟩,
    ⟨put on [(IMG.RETIRING, 0, 1)], by decide⟩,
    ⟨put on [(IMG.RETIRING, 0, 1), (IMG.RETIRE_TIMEOUT, 0, 0)], by decide⟩,
    ⟨put on [(IMG.RETIRING, 0, 1)], by decide⟩⟩

theorem witness_TimeCommandsTakeEffect :
    (∃ (s : State), s.regOpen TIME.CMD_OPCODE.off = true ∧ s.frc < 2 ^ 64 ∧ (∀ n, n < 16 → s.flag TIME.T_ARMED n = false) ∧ s.que.gates = [] ∧ s.get TIME.SET_SEC < 2 ^ 48 ∧ s.get TIME.SET_NS < 1000000000 ∧ s.get TIME.SET_FRAC < 65536) ∧
    (∃ (s : State) (n : Nat), s.regOpen TIME.CMD_OPCODE.off = true ∧ s.frc < 2 ^ 64 ∧ (∀ n, n < 16 → s.flag TIME.T_ARMED n = false) ∧ s.que.gates = [] ∧ (n : Int) = (s.now : Int) + signed (s.get TIME.ADJ_DELTA) 64 ∧ timeSec n < 2 ^ 48) ∧
    (∃ (s : State), s.regOpen TIME.CMD_OPCODE.off = true ∧ (s.now : Int) + signed (s.get TIME.ADJ_DELTA) 64 < 0 ∧ (∀ n, n < 16 → s.flag TIME.T_ARMED n = false)) ∧
    (∃ (s : State), s.regOpen TIME.CMD_OPCODE.off = true) ∧
    (∃ (s : State), s.regOpen TIME.RATE.off = true ∧ s.frc < 2 ^ 64 ∧ (∀ n, n < 16 → s.flag TIME.T_ARMED n = false) ∧ timeSec s.now < 2 ^ 48 ∧ tabFind s.host.low rateOffset = none) :=
  ⟨⟨put on [(TIME.SET_NS, 0, 999999999)], by decide⟩,
    ⟨put on [(TIME.ADJ_DELTA, 0, 5)], 5, by decide⟩,
    ⟨put on [(TIME.ADJ_DELTA, 0, 2 ^ 64 - 1)], by decide⟩,
    ⟨on, by decide⟩,
    ⟨on, by decide⟩⟩

theorem witness_TimingEventsTakeEffect :
    (∃ (s : State), s.flag TIME.TOD_VALID = true ∧ s.get TIME.HOLD_TIMEOUT ≠ 0 ∧ s.flag TIME.HOLDOVER = false ∧ s.time.lastUpdate + s.get TIME.HOLD_TIMEOUT * 1250000 ≤ s.frc) ∧
    (∃ (s : State), s.flag TIME.REFCLK_LOST = false) ∧
    (∃ (s : State) (n : Fin 16), s.regOpen TIME.T_ARM.off = true ∧ s.flag TIME.T_EN n = true ∧ s.flag TIME.T_PERIODIC n = false ∧ s.now + nsUnits 2000 ≤ timeOf (s.get TIME.T_TIME_SEC n) (s.get TIME.T_TIME_NS n) 0) ∧
    (∃ (s : State) (n : Fin 16), s.flag TIME.T_ARMED n = true ∧ (s.trigRec n).pend ≤ s.now ∧ (s.trigRec n).periodic = false ∧ s.img.cmd = none ∧ (∀ k, k < 4 → s.flag PWR.PT_EN k = false) ∧ s.flag TELE.LP_TRIG_EN = false) ∧
    (∃ (s : State), s.flag GLB.PIN_STUCK 2 = false ∧ tabGet 0 s.pins.acceptedAt 2 = 0) ∧
    (∃ (s : State), s.time.ppsSeen = true ∧ s.flag TIME.PPS_ABSENT = false ∧ s.time.ppsLast + 1875000000 ≤ s.frc) ∧
    (∃ (s : State), s.flag TIME.PO_PPS_OUT_EN = true ∧ s.flag TIME.PO_SRC = false ∧ s.time.ppsSecond < s.ppsSecondNow) ∧
    (∃ (s : State), s.time.ppsHigh = true ∧ s.time.ppsEnd ≤ s.frc) :=
  ⟨⟨put on [(TIME.TOD_VALID, 0, 1), (TIME.HOLD_TIMEOUT, 0, 1), (TIME.FRC, 0, 1250000)], by decide⟩,
    ⟨on, by decide⟩,
    ⟨put on [(TIME.T_EN, 15, 1), (TIME.T_TIME_NS, 15, 2000)], 15, by decide⟩,
    ⟨put on [(TIME.T_ARMED, 15, 1)], 15, by decide⟩,
    ⟨on, by decide⟩,
    ⟨{ put on [(TIME.FRC, 0, 1875000000)] with time := { ppsSeen := true } }, by decide⟩,
    ⟨put on [(TIME.PO_PPS_OUT_EN, 0, 1), (TIME.FRC, 0, 10)], by decide⟩,
    ⟨{ on with time := { ppsHigh := true } }, by decide⟩⟩

theorem witness_ResetCommandsTakeEffect :
    (∃ (s : State), s.boot.powered = true ∧ s.boot.held = false ∧ tabGet 0 s.pins.releasedAt 0 = 0) ∧
    (∃ (s : State), s.boot.held = true ∧ s.boot.cold = false) ∧
    (∃ (s : State), s.regOpen GLB.MODULE_RESET.off = true) ∧
    (∃ (s : State) (c : BitVec 16), s.regOpen GLB.MODULE_RESET.off = true ∧ c ≠ 0xD124) ∧
    (∃ (s : State), s.regOpen GLB.SOFT_RESET.off = true ∧ s.boot.soft = false) ∧
    (∃ (s : State) (at_ : Nat), s.flt.autoResetAt = some at_ ∧ at_ ≤ s.frc) :=
  ⟨⟨on, by decide⟩,
    ⟨{ on with boot := { powered := true, held := true } }, by decide⟩,
    ⟨on, by decide⟩,
    ⟨on, 0xD125, by decide⟩,
    ⟨on, by decide⟩,
    ⟨{ on with flt := { autoResetAt := some 0 } }, 0, by decide⟩⟩

theorem witness_StartupCommandsTakeEffect :
    (∃ (s : State) (n : BitVec 11), s.regOpen GLB.PIPE_GO.off = true ∧ s.boot.soft = false ∧ n.toNat < 64 ∧ s.lcState ≠ lcRetired ∧ s.get IMG.RUN_SRC ≠ 0 ∧ s.imgConfiguring = false) ∧
    (∃ (s : State) (n : BitVec 11), s.regOpen GLB.PORT_GO.off = true ∧ s.boot.soft = false ∧ s.isPort n.toNat = true ∧ s.lcState ≠ lcRetired ∧ s.get IMG.RUN_SRC ≠ 0 ∧ s.imgConfiguring = false) ∧
    (∃ (s : State) (n : BitVec 11), s.regOpen GLB.PIPE_GO.off = true ∧ s.boot.soft = false ∧ n.toNat < 64 ∧ s.lcState ≠ lcRetired ∧ s.imgConfiguring = true) ∧
    (∃ (s : State) (c : ImgCmd), s.img.cmd = some c ∧ c.phase = .configuring ∧ s.live = true) ∧
    (∃ (s : State), s.boot.powered = true) ∧
    (∃ (s : State) (pin : Fin 5), 2 ≤ pin.val ∧ s.flag GLB.PIN_STUCK pin = false ∧ s.activeLong pin = true) ∧
    (∃ (pin : Fin 5), pin ≠ 0) ∧
    (∃ (s : State), s.flag PWR.PFAIL = false ∧ s.boot.powered = true ∧ s.flag GLB.PIN_STUCK 1 = false ∧ tabGet 0 s.pins.releasedAt 1 = 0) ∧
    (∃ (s : State), s.flag PWR.PFAIL = true ∧ s.boot.powered = true ∧ s.flag GLB.PIN_STUCK 1 = false) ∧
    (∃ (s : State), s.flag PWR.PFAIL = true) ∧
    (∃ (s : State) (at_ : Nat), s.flag PWR.PFAIL = true ∧ s.flag GLB.PIN_LEVEL 1 = false ∧ s.pwr.goodSince = some at_ ∧ at_ + 12500000 ≤ s.frc) :=
  ⟨⟨put on [(IMG.RUN_SRC, 0, 1)], 63, by decide⟩,
    ⟨port linkUp, 0, by decide⟩,
    ⟨loading 0 .configuring, 63, by decide⟩,
    ⟨loading 0 .configuring, ⟨0, 0, .configuring, 0⟩, by decide⟩,
    ⟨on, by decide⟩,
    ⟨on, 4, by decide⟩,
    ⟨4, by decide⟩,
    ⟨on, by decide⟩,
    ⟨put on [(PWR.PFAIL, 0, 1)], by decide⟩,
    ⟨put on [(PWR.PFAIL, 0, 1)], by decide⟩,
    ⟨{ put on [(PWR.PFAIL, 0, 1), (TIME.FRC, 0, 12500000)] with pwr := { goodSince := some 0 } }, 0, by decide⟩⟩

theorem witness_HostLinkEventsTakeEffect :
    (∃ (s : State), s.live = true) ∧
    (∃ (s : State), s.live = true) ∧
    (∃ (s : State), s.live = true) ∧
    (∃ (s : State), s.live = true) ∧
    (∃ (s : State), s.live = true) ∧
    (∃ (s : State) (v : Fin 256), s.live = true ∧ s.msixOpen = true ∧ s.host.funcMask = false ∧ bit s.host.pba v = true) :=
  ⟨⟨on, by decide⟩,
    ⟨on, by decide⟩,
    ⟨on, by decide⟩,
    ⟨on, by decide⟩,
    ⟨on, by decide⟩,
    ⟨{ put on [(HOST.BUS_MASTER, 0, 1)] with host := { pba := 2 ^ 255 } }, 255, by decide⟩⟩

theorem witness_FaultCommandsTakeEffect :
    (∃ (s : State) (e : FaultEvt) (rest : List FaultEvt), s.flt.reported = e :: rest ∧ s.flt.masks = [] ∧ e.src < 256 ∧ s.get FLT.S_BASE_CLASS e.src ≤ 1 ∧ s.get FLT.S_N e.src = 0 ∧ s.get FLT.S_REACT_BASE e.src = 0 ∧ s.flag FLT.FIRST_VALID = true ∧ s.flt.queue.length < 64 ∧ s.live = true) ∧
    (∃ (s : State) (r : FaultRec) (rest : List FaultRec), s.flt.queue = r :: rest ∧ s.get FLT.HIST_HEAD < 32 ∧ s.flag FLT.FAULT_RING_EN = false ∧ r.cls < s.get FLT.FLOG_MIN) ∧
    (∃ (s : State), s.regOpen FLT.FIRST_CLR.off = true) ∧
    (∃ (s : State), s.regOpen FLT.FAULT_N_CLR.off = true ∧ s.flt.fatal = false) ∧
    (∃ (s : State), s.regOpen FLT.ALIVE_RESTART.off = true ∧ s.flt.fatal = false) ∧
    (∃ (s : State), s.flt.fatal = true) ∧
    (∃ (s : State) (p : Fin 1024), s.regOpen FLT.PORT_SAFE.off = true ∧ s.bitOf FLT.PORT_SAFE (p % 32) (p / 32) = true ∧ s.flag FLT.MODULE_SAFE = false ∧ s.isPort p = true ∧ s.linkState p = linkSafe ∧ s.flag PORT.ADMIN_UP p = false ∧ s.flag PORT.TEST_MODE p = false) ∧
    (∃ (s : State), s.regOpen FLT.INJ_GO.off = true ∧ s.lcState = lcManufacture ∧ s.get FLT.INJ_KIND = 1 ∧ s.flag FLT.S_IMPLEMENTED (s.get FLT.INJ_SRC) = true) ∧
    (∃ (s : State), s.regOpen FLT.INJ_GO.off = true ∧ s.lcState = lcManufacture ∧ s.get FLT.INJ_KIND = 2) ∧
    (∃ (s : State) (p : Nat), s.regOpen FLT.INJ_GO.off = true ∧ s.lcState = lcManufacture ∧ s.get FLT.INJ_KIND = 3 ∧ s.portOfLane (s.get FLT.INJ_TARGET % 1024) = some p ∧ s.portUp p = true ∧ s.get LANE.INJ_MODE (s.get FLT.INJ_TARGET % 1024) = 1) :=
  ⟨⟨{ put on [(FLT.FIRST_VALID, 0, 1)] with flt := { reported := [{ src := 255, index := 0, detail := 0 }] } }, { src := 255, index := 0, detail := 0 }, [], by decide⟩,
    ⟨{ put on [(FLT.HIST_HEAD, 0, 31), (FLT.FLOG_MIN, 0, 1)] with flt := { queue := [{ src := 1, cls := 0, escalated := false, suppressed := false, injected := false, react := 0, kind := 0, index := 0, count := 1, frc := 0, detail := 0, seq := 0 }] } }, { src := 1, cls := 0, escalated := false, suppressed := false, injected := false, react := 0, kind := 0, index := 0, count := 1, frc := 0, detail := 0, seq := 0 }, [], by decide⟩,
    ⟨on, by decide⟩,
    ⟨on, by decide⟩,
    ⟨on, by decide⟩,
    ⟨{ on with flt := { fatal := true } }, by decide⟩,
    ⟨put (port linkSafe) [(FLT.PORT_SAFE, 0, 1)], 0, by decide⟩,
    ⟨put on [(FLT.INJ_KIND, 0, 1), (FLT.INJ_SRC, 0, 0x13)], by decide⟩,
    ⟨put on [(FLT.INJ_KIND, 0, 2)], by decide⟩,
    ⟨put (port linkUp) [(FLT.INJ_KIND, 0, 3), (LANE.INJ_MODE, 0, 1)], 0, by decide⟩⟩

theorem witness_MilestCommandsTakeEffect :
    (∃ (s : State) (b : List Byte), s.regOpen MIL.GO.off = true ∧ 256 ≤ b.length ∧ s.milestCheck b = 0 ∧ blkCommand b = 4) ∧
    (∀ c ∈ [(1, 3), (2, 5), (3, 0), (5, 3), (6, 255), (7, 0)], on.regOpen MIL.GO.off = true ∧ 256 ≤ (blk c.1 0 c.2).length ∧
      on.milestCheck (blk c.1 0 c.2) = 0 ∧ blkCommand (blk c.1 0 c.2) = c.1) :=
  ⟨⟨fielded, blk 4 0 0, by decide, by decide, by decide, by decide⟩, by decide⟩

theorem witness_MilestFailureLeavesFuses :
    (∃ (s : State) (b : List Byte) (ok : Bool), s.regOpen MIL.GO.off = true ∧ s.milestCheck b ≠ 0 ∧ b.length < 256 ∧ ok = true) ∧
    (∀ c ∈ [(1, 3), (2, 5), (3, 0), (5, 3), (6, 255), (7, 0)], on.regOpen MIL.GO.off = true ∧
      on.milestCheck (blk c.1 0 c.2) = 0 ∧ blkCommand (blk c.1 0 c.2) = c.1) :=
  ⟨⟨on, [], true, by decide⟩, by decide⟩

theorem witness_AttestationRequestsAreAnswered :
    (∃ (s : State), s.live = true) ∧
    (∃ (s : State), s.live = true ∧ 1 ≤ s.mil.spdm) ∧
    (∃ (s : State), s.live = true ∧ s.lcState ≠ lcRetired ∧ 2 ≤ s.mil.spdm) ∧
    (∃ (s : State), s.live = true ∧ s.lcState ≠ lcRetired ∧ 3 ≤ s.mil.spdm) ∧
    (∃ (s : State), s.live = true ∧ 3 ≤ s.mil.spdm) ∧
    (∃ (s : State), s.live = true ∧ s.lcState ≠ lcRetired ∧ 3 ≤ s.mil.spdm) ∧
    (∃ (s : State), s.live = true ∧ s.lcState ≠ lcRetired ∧ 3 ≤ s.mil.spdm) :=
  ⟨⟨on, by decide⟩,
    ⟨{ on with mil := { spdm := 1 } }, by decide⟩,
    ⟨{ on with mil := { spdm := 2 } }, by decide⟩,
    ⟨{ on with mil := { spdm := 3 } }, by decide⟩,
    ⟨{ on with mil := { spdm := 3 } }, by decide⟩,
    ⟨{ on with mil := { spdm := 3 } }, by decide⟩,
    ⟨{ on with mil := { spdm := 3 } }, by decide⟩⟩

theorem witness_JtagAndAssayCommandsTakeEffect :
    (∃ (s : State), s.boot.powered = true) ∧
    (∃ (s : State), s.boot.powered = true) ∧
    (∃ (s : State), s.boot.powered = true ∧ s.lcState ≠ lcRetired) ∧
    (∃ (s : State), s.boot.powered = true ∧ s.lcState = lcManufacture) ∧
    (∃ (s : State), s.boot.powered = true ∧ s.lcState ≠ lcManufacture ∧ s.lcState ≠ lcRetired) ∧
    (∃ (s : State) (ppm : List (BitVec 9)), s.regOpen ASY.CMD_GO.off = true ∧ s.assayCheck = 0 ∧ (worstPpm ppm).1 ≤ 100) ∧
    (∃ (s : State), s.regOpen ASY.CMD_GO.off = true ∧ s.assayCheck ≠ 0) ∧
    (∃ (s : State) (n : Fin 5), s.assay.left = [n.val]) ∧
    (∃ (s : State) (accesses : BitVec 64) (tokens : BitVec 64), s.assay.left = [4] ∧ lbufOpen accesses.toNat tokens.toNat = false) ∧
    (∃ (s : State) (m : BitVec 24), s.assay.left = [0] ∧ s.assay.repair ≠ 0 ∧ s.sparesUsed 0 m.toNat < 4) ∧
    (∃ (s : State) (m : BitVec 24), s.assay.left = [0] ∧ (s.assay.repair = 0 ∨ 4 ≤ s.sparesUsed 0 m.toNat)) ∧
    (∃ (s : State), s.regOpen ASY.CMD_ABORT.off = true ∧ s.assay.running = true) ∧
    (∃ (s : State) (order : Fin 5), s.assay.running = true ∧ order.val < 3 ∧ s.assayUnmet ≠ 5 + order.val) ∧
    (∃ (s : State) (order : Fin 5), s.assay.running = true ∧ (3 ≤ order.val ∨ s.assayUnmet = 5 + order.val)) :=
  ⟨⟨on, by decide⟩,
    ⟨on, by decide⟩,
    ⟨on, by decide⟩,
    ⟨on, by decide⟩,
    ⟨fielded, by decide⟩,
    ⟨{ put on [(ASY.CMD_TESTS, 0, 31)] with pwr := { vin := 40000 } }, [100], by decide⟩,
    ⟨on, by decide⟩,
    ⟨{ on with assay := { left := [3] } }, 3, by decide⟩,
    ⟨{ on with assay := { left := [4] } }, 500, 10, by decide⟩,
    ⟨{ on with assay := { left := [0], repair := 2 } }, 0xFFFFFF, by decide⟩,
    ⟨{ on with assay := { left := [0] } }, 0xFFFFFF, by decide⟩,
    ⟨{ on with assay := { running := true } }, by decide⟩,
    ⟨{ on with assay := { running := true } }, 0, by decide⟩,
    ⟨{ on with assay := { running := true } }, 4, by decide⟩⟩

theorem witness_HostAccessesTakeEffect :
    (∃ (s : State), s.live = true) ∧
    (∃ (s : State) (off : BitVec 26), s.live = true ∧ off.toNat < 0x1000 ∧ off.toNat % 16 = 8 ∧ bit s.host.pba (off.toNat / 16) = false) ∧
    (∃ (s : State), s.regOpen 0xC00020 = true) ∧
    (∃ (s : State) (off : BitVec 26) (h : FldAt), s.regOpen off.toNat = true ∧ off.toNat % 4 = 0 ∧ wideHit off.toNat = some h ∧ h.high = false) ∧
    (∃ (s : State) (off : BitVec 26) (h : FldAt) (v : Nat), s.regOpen off.toNat = true ∧ off.toNat % 4 = 0 ∧ wideHit off.toNat = some h ∧ h.high = true ∧ tabFind s.host.latch (off.toNat - 4) = some v ∧ v < 2 ^ 32) ∧
    (∃ (s : State) (low : Nat), s.regOpen 0xB00024 = true ∧ tabFind s.host.low 0xB00020 = some low) ∧
    (∃ (s : State), s.live = true) ∧
    (∃ (s : State), s.regOpen GLB.INT_EN.off = true) ∧
    (∃ (s : State) (p : Word), s.boot.powered = true ∧ p.toNat % 4 = 0) ∧
    (∃ (s : State), s.boot.powered = true) ∧
    (∃ (s : State), s.live = true) ∧
    (∃ (s : State), s.boot.powered = true) :=
  ⟨⟨on, by decide⟩,
    ⟨on, 0xFF8, by decide⟩,
    ⟨on, by decide⟩,
    ⟨on, 0xB00020, ⟨TIME.SET_SEC, 0, 0, false⟩, by decide⟩,
    ⟨{ on with host := { latch := [(0xB00020, 5)] } }, 0xB00024, ⟨TIME.SET_SEC, 0, 0, true⟩, 5, by decide⟩,
    ⟨{ on with host := { low := [(0xB00020, 0xFFFFFFFF)] } }, 0xFFFFFFFF, by decide⟩,
    ⟨on, by decide⟩,
    ⟨on, by decide⟩,
    ⟨on, 0x280, by decide⟩,
    ⟨on, by decide⟩,
    ⟨on, by decide⟩,
    ⟨on, by decide⟩⟩

theorem witness_StepRunsFrontCommand :
    ∃ (s : State) (c : Instr) (rest : List Instr), s.pending = c :: rest :=
  ⟨{ on with pending := [.pfailDone, .swap] }, .pfailDone, [.swap], by decide⟩

theorem witness_EmptyQueueLetsTimePass :
    (∃ (s : State), s.pending = [] ∧ s.boot.powered = false) ∧
    (∃ (s : State), s.pending = [] ∧ s.boot.powered = true ∧ s.boot.soft = false) ∧
    (∃ (s : State), s.pending = [] ∧ s.boot.powered = true) :=
  ⟨⟨State.reset, by decide⟩,
    ⟨put on [(TIME.FRC, 0, 2 ^ 64 - 1)], by decide⟩,
    ⟨{ on with boot := { powered := true, soft := true } }, by decide⟩⟩

theorem witness_CommandsTouchOnlyTheirParts :
    ∃ (c : Instr) (s : State) (t : State), exec c s = .next t :=
  ⟨.pfailDone, on, on, rfl⟩

theorem witness_CommandsWriteOnlyTheirRegisters :
    ∃ (c : Instr) (s : State) (t : State), writesAtLarge c = false ∧ exec c s = .next t :=
  ⟨.pfailDone, on, on, by decide, rfl⟩

theorem witness_OutputsAreOnlyAppended :
    ∃ (c : Instr) (s : State) (t : State), exec c s = .next t :=
  ⟨.pfailDone, on, on, rfl⟩

theorem witness_StepKeepsMemoryCanonical :
    ∃ (s : State) (t : State), MemInv s ∧ step s = .next t :=
  ⟨State.reset, State.reset, by decide, rfl⟩

theorem witness_LifeCycleFollowsItsPaths :
    ∃ (c : Instr) (s : State) (t : State), ServiceInv s ∧ exec c s = .next t :=
  ⟨.pfailDone, fielded, fielded, by decide, rfl⟩

theorem witness_FusesNeverGoBack :
    ∃ (s : State) (t : State), step s = .next t :=
  ⟨State.reset, State.reset, rfl⟩

theorem witness_TargetIsTheLowestLimit :
    ∃ (s : State) (q : Nat) (t : Nat) (m : Nat), s.pwr.govern.pref ≤ 7 ∧ s.assay.hold = false ∧ s.core.idle = false ∧ q = max (s.get PWR.Q_LIMIT) s.pwr.govern.min ∧ t = max (s.get PWR.T_LIMIT) 1 ∧ m = (if s.flag PWR.PFAIL then 0 else min s.pwr.govern.pref (min q t)) :=
  ⟨put { on with pwr := { govern := { on.pwr.govern with pref := 7 } }, core := { idle := false } } [(PWR.Q_LIMIT, 0, 7), (PWR.T_LIMIT, 0, 5)], 7, 5, 5, by decide⟩

theorem witness_PhaseSelectionGoverns :
    (∃ (s : State) (n : Fin 16), s.regOpen PWR.PHASE_SEL.off = true ∧ s.phaseValid n = true ∧ (∀ e, s.pwr.edge = some e → e.at_ ≠ s.frc ∨ e.rank = rankWrite)) ∧
    (∃ (s : State) (e : PhaseEdge), s.regOpen PWR.PHASE_SEL.off = true ∧ s.pwr.edge = some e ∧ e.at_ = s.frc ∧ e.rank < rankWrite) :=
  ⟨⟨put on [(PWR.E_VALID, 15, 1), (PWR.E_CAP, 15, 500), (PWR.E_K, 15, 128), (PWR.E_PREF_OP, 15, 7), (PWR.E_MIN_OP, 15, 1)], 15, by decide⟩,
    ⟨{ on with pwr := { edge := some { at_ := 0, rank := 5, done := true, phase := 0, govern := on.pwr.govern, qLimit := 0, over_ := 0, under := 0 } } }, { at_ := 0, rank := 5, done := true, phase := 0, govern := on.pwr.govern, qLimit := 0, over_ := 0, under := 0 }, by decide⟩⟩

theorem witness_TenBadSamplesRaiseAFault :
    (∃ (s : State) (rail : Fin 7) (mv : BitVec 18), 2 ≤ rail.val ∧ railOut rail mv.toNat = true ∧ tabGet 0 s.pwr.railRun rail = 9) ∧
    (∃ (rail : Fin 7) (mv : BitVec 18), 2 ≤ rail.val ∧ railOut rail mv.toNat = false) ∧
    (∃ (s : State) (mv : BitVec 18), 76000 < mv.toNat ∧ s.pwr.vinHigh = 9) ∧
    (∃ (mv : BitVec 18), mv.toNat ≤ 76000) :=
  ⟨⟨{ on with pwr := { railRun := [(6, 9)] } }, 6, 0, by decide⟩,
    ⟨2, BitVec.ofNat 18 (railNominal 2), by decide⟩,
    ⟨{ on with pwr := { vinHigh := 9 } }, 76001, by decide⟩,
    ⟨76000, by decide⟩⟩

theorem witness_DmaAbortEndsTheTransfer :
    (∃ (s : State) (c : Fin 32), s.regOpen HOST.D_ABORT.off = true ∧ s.get HOST.D_STATE c = dmaRunning) ∧
    (∃ (s : State) (c : Fin 32), s.get HOST.D_STATE c ≠ dmaRunning) :=
  ⟨⟨put on [(HOST.D_STATE, 31, 1), (HOST.D_COUNT, 31, 5)], 31, by decide⟩,
    ⟨on, 31, by decide⟩⟩

theorem witness_ServiceEndsWithThePower :
    ∃ (s : State), s.mil.fused = .field :=
  ⟨{ fielded with mil := { fielded.mil with service := true } }, by decide⟩

theorem witness_PortSummaryShowsEnabledEvents :
    (∃ (s : State) (w : Fin 32), s.boot.powered = true ∧ s.host.smbPtr = 0x280 + 4 * w.val) ∧
    (∃ (s : State) (p : Nat), p < 1024 ∧ s.boot.powered = true ∧ s.host.smbPtr = 0x200 ∧ s.isPort p = true ∧ s.flag PORT.EV_LINK_DOWN_EVT p = true ∧ s.flag PORT.IE_LINK_DOWN_EVT p = true) :=
  ⟨⟨{ port linkUp with host := { smbPtr := 0x2FC } }, 31, by decide⟩,
    ⟨put { port linkUp with host := { smbPtr := 0x200 } } [(PORT.EV_LINK_DOWN_EVT, 0, 1), (PORT.IE_LINK_DOWN_EVT, 0, 1)], 0, by decide⟩⟩

theorem witness_SmbAlertFollowsItsConditions :
    ∃ (s : State), s.boot.powered = true :=
  ⟨on, by decide⟩

theorem witness_SmbAccessesLeaveRegistersAlone :
    (∃ (s : State) (off : Word) (ok : Bool), s.boot.powered = true ∧ (ok = false ∨ (off.toNat ≠ GLB.MODULE_RESET.off ∧ off.toNat ≠ GLB.SCRATCH.off ∧ off.toNat ≠ PWR.PHASE_SEL.off))) ∧
    (∃ (s : State), s.boot.powered = true) :=
  ⟨⟨on, 4, true, by decide⟩,
    ⟨on, by decide⟩⟩

theorem witness_WriteBankSparesTheLastValidBank :
    (∃ (s : State) (b : Fin 2), s.regOpen IMG.OPCODE.off = true ∧ (s.commitRec b).valid = true ∧ (s.commitRec (1 - b.val)).valid = false) ∧
    (∃ (s : State), (s.commitRec 0).valid = false ∧ (s.commitRec 1).valid = false ∧ s.lcState ≠ lcRetired ∧ s.img.cmd = none ∧ s.get IMG.SRC_ADDR % 64 = 0) :=
  ⟨⟨on.journalWrite 1 (zeros 3 ++ [128] ++ zeros 52) true, 0, by decide⟩,
    ⟨on, by decide⟩⟩

theorem witness_ImageCommandsAreRefused :
    ∃ (s : State) (c : Instr) (op : Nat) (bank : Nat) (r : Nat), s.regOpen IMG.OPCODE.off = true ∧ imageCommand c = some (op, bank) ∧ s.imgRefusal op bank = some r :=
  ⟨put on [(IMG.SRC_ADDR, 0, 1)], .loadHost, opLoadHost, 0, resFetch, by decide⟩

theorem witness_FlushReplacesAnUnreadablePair :
    (∃ (s : State) (d : Delta) (e : EccState) (a : Nat), a = counterBase + 16 * d.index ∧ s.eccOf a 16 e = .uncorrectable) ∧
    (∃ (a : Nat), counterBase ≤ a ∧ a < flowBase) :=
  ⟨⟨on, ⟨2 ^ 23 - 1, 1, 64⟩, .uncorrectable, 0x607FFFFF0, by decide⟩,
    ⟨flowBase - 1, by decide⟩⟩

theorem witness_FlushAddsToItsPair :
    ∃ (s : State) (d : Delta) (e : EccState) (a : Nat), a = counterBase + 16 * d.index ∧ s.eccOf a 16 e ≠ .uncorrectable :=
  ⟨on, ⟨2 ^ 23 - 1, 1, 64⟩, .corrected, 0x607FFFFF0, by decide⟩

theorem witness_MaskedKeyBitsAreStoredAsZero :
    (∃ (x : Item448) (b : List Byte) (k : Nat), x.region = .ase ∧ x.size = 64 ∧ b.length = 64 ∧ k < 160 ∧ bit (le b 20 20) k = false) ∧
    (∃ (x : Item448) (b : List Byte), x.region = .ase ∧ x.size = 64 ∧ b.length = 64) ∧
    (∃ (mask : Nat) (k : Nat), bit mask k = false ∧ k < 160) :=
  ⟨⟨⟨.ase, aseBase, 64⟩, zeros 64, 159, by decide⟩,
    ⟨⟨.ase, aseBase, 64⟩, zeros 64, by decide⟩,
    ⟨2 ^ 159 - 1, 159, by decide⟩⟩

theorem witness_EventRingsTakeOrLoseEvents :
    (∃ (s : State) (e : Nat), s.flag HOST.R_EN (eventRing e) = true ∧ s.ringGiven (eventRing e) 0 = true ∧ e = 15) ∧
    (∃ (s : State) (e : Nat), (s.flag HOST.R_EN (eventRing e) = false ∨ s.ringGiven (eventRing e) 0 = false) ∧ e = 15) :=
  ⟨⟨ring on (eventRing 15) 3, 15, by decide⟩, on, 15, by decide⟩

theorem witness_VcoreStaysInRange :
    (∃ (s : State), VcoreInv s) ∧
    (∃ (s : State), VcoreInv s) ∧
    (∃ (s : State), VcoreInv s) ∧
    (∃ (s : State), s.regOpen GLB.MODULE_RESET.off = true) ∧
    (∃ (c : Instr) (s : State) (t : State), writesAtLarge c = false ∧ CORE.V_SET ∉ writtenBy c ∧ exec c s = .next t) :=
  ⟨⟨on, by decide⟩,
    ⟨on, by decide⟩,
    ⟨on, by decide⟩,
    ⟨on, by decide⟩,
    ⟨.pfailDone, on, on, by decide, by decide, rfl⟩⟩

theorem witness_TimeSurvivesResets :
    (∃ (c : Instr) (s : State) (t : State), writesAtLarge c = false ∧ exec c s = .next t) ∧
    (∃ (c : Instr) (s : State) (t : State), writesAtLarge c = false ∧ s.flag TIME.TOD_VALID = true ∧ exec c s = .next t) ∧
    (∃ (s : State), s.boot.cold = false) :=
  ⟨⟨.pfailDone, on, on, by decide, rfl⟩,
    ⟨.pfailDone, put on [(TIME.TOD_VALID, 0, 1)], put on [(TIME.TOD_VALID, 0, 1)], by decide, by decide, rfl⟩,
    ⟨on, by decide⟩⟩

theorem witness_LoopEnableIsLocked :
    (∃ (s : State), (s.lcState = lcField ∨ s.lcState = lcRetired) ∧ s.get CORE.LOOP_EN = 1) ∧
    (∃ (s : State), s.live = true ∧ s.boot.soft = false ∧ (s.lcState = lcManufacture ∨ s.lcState = lcService)) ∧
    (∃ (c : Instr) (s : State) (t : State), writesAtLarge c = false ∧ CORE.LOOP_EN ∉ writtenBy c ∧ exec c s = .next t) ∧
    (∃ (s : State), s.regOpen GLB.MODULE_RESET.off = true) :=
  ⟨⟨fielded, by decide⟩,
    ⟨on, by decide⟩,
    ⟨.pfailDone, on, on, by decide, by decide, rfl⟩,
    ⟨on, by decide⟩⟩

theorem witness_PairWriteDiscardsItsDeltas :
    ∃ (x : Item448) (b : List Byte) (n : Nat), x.region = .counter ∧ x.size = 16 ∧ x.base = counterBase + 16 * n ∧ b.length = 16 :=
  ⟨⟨.counter, 0x607FFFFF0, 16⟩, zeros 16, 2 ^ 23 - 1, by decide⟩

theorem witness_StoresKeepToTheirRegion :
    (∃ (c : Instr) (s t : State), storesInModuleStore c = true ∧ exec c s = .next t) ∧
    (∃ (c : Instr) (s t : State), storesCounters c = true ∧ exec c s = .next t) :=
  ⟨⟨.hoursIncrement go true, on, _, by decide, rfl⟩, .counterFlushDone, on, _, by decide, rfl⟩

end Sys2Proof.Tests
end

section
/-!
Proofs of O50 (R65). What the report of an IMG command writes, when WRITE_BANK is refused, and from the two that it spares the only
valid bank.
-/
namespace Sys2Proof.Machine
open Reg

/-! ### The report of an IMG command -/

/-- A report leaves everything but registers, outputs, reported faults and the host's interface as it was. -/
theorem State.imgReport_frame (s : State) (op : Nat) (f : VFail) :
    Touches [.regs, .outbox, .flt, .host] s (s.imgReport op f) :=
  State.imgReport_touches (.refl _ s) (by decide) (by decide) (by decide) (by decide)

/-- The report shows its result code. -/
theorem State.get_RESULT_imgReport (s : State) (op : Nat) (f : VFail) :
    (s.imgReport op f).get IMG.RESULT = f.code % 256 := by
  unfold State.imgReport State.imgShow
  rw [State.get_event_of_ne (by decide) (by decide), State.get_set_of_ne _ _ _ _ _ _ _ _ (by decide),
    State.get_when_of (State.get_fault _ _ _ _ _ _ _), State.get_set_of_ne _ _ _ _ _ _ _ _ (by decide),
    State.get_set_of_ne _ _ _ _ _ _ _ _ (by decide), State.get_set_self]
  rfl

/-- The report shows the opcode of its command. -/
theorem State.get_LAST_OPCODE_imgReport (s : State) (op : Nat) (f : VFail) :
    (s.imgReport op f).get IMG.LAST_OPCODE = op % 16 := by
  unfold State.imgReport
  rw [State.get_event_of_ne (by decide) (by decide), State.get_set_self]
  rfl

/-- The report sets CMD_DONE. -/
theorem State.flag_CMD_DONE_imgReport (s : State) (op : Nat) (f : VFail) :
    (s.imgReport op f).flag IMG.CMD_DONE = true :=
  State.flag_event_self (by decide) (by decide)

/-! ### The refusal of WRITE_BANK -/

/-- The only valid bank: its record is valid and that of the other bank is not. -/
theorem State.onlyValid_iff (s : State) (bank : Nat) :
    s.onlyValid bank = true ↔ (s.commitRec bank).valid = true ∧ (s.commitRec (1 - bank)).valid = false := by
  simp [State.onlyValid]

/-- Why WRITE_BANK is refused: the tests of the other opcodes fall away. -/
theorem State.imgRefusal_writeBank (s : State) (bank : Nat) :
    s.imgRefusal opWriteBank bank =
      if s.lcState = lcRetired ∨ s.img.cmd.isSome ∨ s.onlyValid bank then some resState
      else if s.get IMG.SRC_ADDR % 64 ≠ 0 then some resFetch else none := by
  by_cases hl : s.lcState = lcRetired
  · simp [State.imgRefusal, hl]
  · cases hc : s.img.cmd with
    | some c => simp [State.imgRefusal, hc]
    | none => simp [State.imgRefusal, hl, hc, opLoadBank, opLoadHost, opWriteBank, opSwap]

/-- WRITE_BANK to the only valid bank is refused with STATE, whatever else holds (R65). -/
theorem State.imgRefusal_writeBank_of_onlyValid {s : State} {bank : Nat} (h : s.onlyValid bank = true) :
    s.imgRefusal opWriteBank bank = some resState := by
  rw [State.imgRefusal_writeBank, if_pos (.inr (.inr h))]

/-- A refused command does nothing but report the cause. -/
theorem State.imgCommand_of_refused {s : State} {op bank r : Nat} (ok : Bool) (hr : s.imgRefusal op bank = some r) :
    s.imgCommand op bank ok = s.imgReport op { code := r } := by
  rw [State.imgCommand, hr]

/-- A WRITE_BANK that reaches its block and is refused does nothing but report the cause. -/
theorem exec_writeBank_of_refused {s : State} {bank : Fin 2} {ok : Bool} {r : Nat} (ho : s.regOpen IMG.OPCODE.off = true)
    (hr : s.imgRefusal opWriteBank bank = some r) :
    exec (.writeBank bank ok) s = .next (s.imgReport opWriteBank { code := r }) := by
  change execWriteBank bank ok s = _
  rw [execWriteBank, viaHost_open ho, State.imgCommand_of_refused ok hr]

/-- WRITE_BANK starts when no bank is valid, in a module that is not retired, with no command in progress and an aligned
source. -/
theorem State.imgRefusal_writeBank_of_noneValid {s : State} (bank : Fin 2) (ha : (s.commitRec 0).valid = false)
    (hb : (s.commitRec 1).valid = false) (hl : s.lcState ≠ lcRetired) (hc : s.img.cmd = none)
    (hs : s.get IMG.SRC_ADDR % 64 = 0) : s.imgRefusal opWriteBank bank = none := by
  have hbank : (s.commitRec bank).valid = false := by
    match bank with
    | 0 => exact ha
    | 1 => exact hb
  simp [State.imgRefusal_writeBank, State.onlyValid, hbank, hl, hc, hs]

/-- Settles O50: the refusal reports STATE and touches neither memory, module store nor image state; with no valid bank there is
no only valid one. -/
theorem writeBankSparesTheLastValidBank : Obligations.WriteBankSparesTheLastValidBank := by
  unfold Obligations.WriteBankSparesTheLastValidBank
  constructor
  · intro s b ok ho hv hn
    have hr := State.imgRefusal_writeBank_of_onlyValid ((s.onlyValid_iff b).mpr ⟨hv, hn⟩)
    have hf := s.imgReport_frame opWriteBank { code := resState }
    exact ⟨_, exec_writeBank_of_refused ho hr, s.get_RESULT_imgReport _ _, s.get_LAST_OPCODE_imgReport _ _,
      s.flag_CMD_DONE_imgReport _ _, hf.same .dev (by decide), hf.same .anvil (by decide), hf.same .img (by decide)⟩
  · exact fun s b ha hb hl hc hs => State.imgRefusal_writeBank_of_noneValid b ha hb hl hc hs

end Sys2Proof.Machine
end

section
/-!
Proofs of O52 (R309). What clears a byte of the device memory, what power-on and a full load leave of the counter store, and what a
flush does with a pair that it cannot read.
-/
namespace Sys2Proof.Machine
open Reg

/-! ### Cleared bytes of the device memory -/

/-- A byte whose address a selection of the listed cells drops reads 0. -/
theorem memByte_filter_of_dropped {p : Host.Cell → Bool} {a : Nat} (hp : ∀ b, p (a, b) = false) (m : List Host.Cell) :
    memByte (m.filter p) a = 0 := by
  induction m with
  | nil => rfl
  | cons c m ih =>
    obtain ⟨k, b⟩ := c
    by_cases hk : k = a
    · subst hk
      rwa [List.filter_cons_of_neg (by simp [hp b])]
    · rw [List.filter_cons]
      split
      · simpa [memByte, tabGet, tabFind, hk] using ih
      · exact ih

/-- Zeroing a range clears each of its bytes. -/
theorem State.memByte_memZero_of_inRange (s : State) {lo hi a : Nat} (hlo : lo ≤ a) (hhi : a < hi) :
    memByte (s.memZero lo hi).dev a = 0 :=
  memByte_filter_of_dropped (by simp [inRange, hlo, hhi]) s.dev

/-! ### Power-on and a full load -/

/-- A full load clears every byte between the gate lists and the module store, the counter store among them (R68). -/
theorem State.memByte_loadClear_of_aboveGates (s : State) {a : Nat} (hlo : gateBase + 0x1000000 ≤ a) (hhi : a < storeBase) :
    memByte s.loadClear.dev a = 0 :=
  (s.memZero emBase gateBase).memByte_memZero_of_inRange hlo hhi

/-- Start-up changes nothing of the device memory before an image has been verified (R428, R429). -/
@[simp] theorem State.bootOn_dev (s : State) : s.bootOn.dev = s.dev :=
  (State.bootOn_touches (ps := [.regs, .img, .boot]) (.refl _ s) (by decide) (by decide) (by decide)).same .dev (by decide)

@[simp] theorem State.freshNonce_dev (s : State) : s.freshNonce.dev = s.dev := rfl
@[simp] theorem State.refreshRow_dev (s : State) : s.refreshRow.dev = s.dev := rfl

/-- Of the device memory, power-on keeps the module store alone (R431). -/
theorem State.powerOn_dev (s : State) (addr : Nat) (low : Bool) :
    (s.powerOn addr low).dev = s.dev.filter (fun c => decide (storeBase ≤ c.1)) := by
  unfold State.powerOn
  dsimp only
  split
  · simp [State.setB]
  · simp

/-- Every byte below the module store reads 0 after power-on. -/
theorem State.memByte_powerOn_of_belowStore (s : State) (addr : Nat) (low : Bool) {a : Nat} (h : a < storeBase) :
    memByte (s.powerOn addr low).dev a = 0 := by
  rw [State.powerOn_dev]
  exact memByte_filter_of_dropped (by simp [h]) s.dev

/-- The counter store lies above the gate lists and below the module store (R448). -/
theorem counterStore_between {a : Nat} (hlo : counterBase ≤ a) (hhi : a < flowBase) :
    gateBase + 0x1000000 ≤ a ∧ a < storeBase := by
  simp only [counterBase, flowBase, gateBase, storeBase] at *
  omega

/-! ### The report of an event at an address -/

@[simp] theorem State.get_faultAt (s : State) (src a n index : Nat) (g : Fld) (k l : Nat) :
    (s.faultAt src a n index).get g k l = s.get g k l := by
  unfold State.faultAt
  split <;> rfl

/-- The source reports one event more, INJECTED or not. -/
theorem State.reported_faultAt (s : State) (src a n index : Nat) :
    ∃ v, v.src = src ∧ (s.faultAt src a n index).flt.reported = s.flt.reported ++ [v] := by
  unfold State.faultAt
  split
  · exact ⟨_, rfl, rfl⟩
  · exact ⟨_, rfl, rfl⟩

/-- A store consumes injections, and no reported event. -/
@[simp] theorem State.reported_memSet (s : State) (a n v : Nat) : (s.memSet a n v).flt.reported = s.flt.reported := by
  unfold State.memSet State.injTake
  split <;> rfl

/-! ### A flush of a pair that cannot be read -/

@[simp] theorem State.get_qdrOp (s : State) (n : Nat) (g : Fld) (k l : Nat) : (s.qdrOp n).get g k l = s.get g k l := rfl
@[simp] theorem State.flt_qdrOp (s : State) (n : Nat) : (s.qdrOp n).flt = s.flt := rfl

/-- The count and the report of an unreadable pair at `a`, before its new value is stored. -/
def State.pairLost (s : State) (a : Nat) : State := ((s.inc TELE.CNT_ECC).faultAt srcCounterEcc a 16 0).qdrOp 4

/-- The new value of an unreadable pair is the delta alone. -/
theorem State.pairAdd_of_uncorrectable {s : State} {d : Delta} {e : EccState} {a : Nat} (ha : a = counterBase + 16 * d.index)
    (h : s.eccOf a 16 e = .uncorrectable) :
    s.pairAdd d e = ((s.pairLost a).memSet a 8 d.packets).memSet (a + 8) 8 d.bytes := by
  subst ha
  exact if_pos h

theorem State.get_CNT_ECC_pairLost (s : State) (a : Nat) :
    (s.pairLost a).get TELE.CNT_ECC = satTo (2 ^ 32 - 1) (s.get TELE.CNT_ECC + 1) := by
  rw [State.pairLost, State.get_qdrOp, State.get_faultAt, State.get_inc_self]
  rfl

theorem State.reported_pairLost (s : State) (a : Nat) :
    ∃ v, v.src = srcCounterEcc ∧ (s.pairLost a).flt.reported = s.flt.reported ++ [v] :=
  (s.inc TELE.CNT_ECC).reported_faultAt srcCounterEcc a 16 0

/-- The catalogue's class of the counter store's error is minor. -/
theorem counterEcc_class : State.reset.get FLT.S_BASE_CLASS srcCounterEcc = classMinor := by decide

/-- A flush of an unreadable pair stores the delta's halves, counts CNT_ECC and reports a minor fault. -/
theorem State.pairAdd_replaces {s : State} {d : Delta} {e : EccState} {a : Nat} (ha : a = counterBase + 16 * d.index)
    (h : s.eccOf a 16 e = .uncorrectable) :
    (s.pairAdd d e).mem a 8 = d.packets % 2 ^ 64 ∧ (s.pairAdd d e).mem (a + 8) 8 = d.bytes % 2 ^ 64 ∧
    (s.pairAdd d e).get TELE.CNT_ECC = satTo (2 ^ 32 - 1) (s.get TELE.CNT_ECC + 1) ∧
    ∃ l v, (s.pairAdd d e).flt.reported = l ++ [v] ∧ v.src = srcCounterEcc ∧
      State.reset.get FLT.S_BASE_CLASS v.src = classMinor := by
  rw [State.pairAdd_of_uncorrectable ha h]
  refine ⟨?_, ?_, ?_, ?_⟩
  · rw [State.mem_memSet_of_apart _ _ _ _ _ _ (by omega), State.mem_memSet_self]
    rfl
  · rw [State.mem_memSet_self]
    rfl
  · rw [State.get_memSet, State.get_memSet, State.get_CNT_ECC_pairLost]
  · obtain ⟨v, hsrc, hrep⟩ := s.reported_pairLost a
    exact ⟨s.flt.reported, v, by rw [State.reported_memSet, State.reported_memSet, hrep], hsrc, hsrc ▸ counterEcc_class⟩

/-- Settles O52: an unreadable pair takes the delta's halves, and power-on and a full load clear ranges that the counter store lies
in. -/
theorem flushReplacesAnUnreadablePair : Obligations.FlushReplacesAnUnreadablePair := by
  unfold Obligations.FlushReplacesAnUnreadablePair
  refine ⟨?_, ?_, ?_⟩
  · exact fun s d e a ha h => State.pairAdd_replaces ha h
  · intro s addr low
    exact ⟨_, rfl, fun a hlo hhi => s.memByte_powerOn_of_belowStore addr.toNat low (counterStore_between hlo hhi).2⟩
  · intro s a hlo hhi
    obtain ⟨hgates, hstore⟩ := counterStore_between hlo hhi
    exact s.memByte_loadClear_of_aboveGates hgates hstore

end Sys2Proof.Machine
end

section
/-!
Proofs of O45 (R346). What the end of a DMA transfer with a result other than OK writes, shows and sends, and from it what ABORT does
on a channel that runs and on one that does not.
-/
namespace Sys2Proof.Machine
open Reg

/-! ### Keys of fields that lie apart -/

/-- Two fields that stand side by side in every block of an array: they repeat at the same distance and begin at different bits. -/
abbrev Fld.Beside (f g : Fld) : Prop := f.s1 = g.s1 ∧ f.n1 = g.n1 ∧ f.off * 8 + f.lo ≠ g.off * 8 + g.lo

theorem Fld.Beside.key_ne {f g : Fld} (h : f.Beside g) (i : Nat) : f.key i 0 ≠ g.key i 0 := by
  obtain ⟨hstep, hcount, hbit⟩ := h
  simp only [Fld.key, hstep, hcount, Nat.zero_div]
  omega

theorem State.get_set_of_beside {s : State} {f g : Fld} {v i : Nat} (h : g.Beside f) : (s.set f v i).get g i = s.get g i :=
  State.get_set_of_ne _ _ _ _ _ _ _ _ (h.key_ne i)

theorem State.get_setB_of_beside {s : State} {f g : Fld} {b : Bool} {i : Nat} (h : g.Beside f) :
    (s.setB f b i).get g i = s.get g i := State.get_set_of_beside h

/-- A field below the first word of another lies apart from it at every index. -/
theorem Fld.key_ne_of_below {f g : Fld} (h : f.off * 8 + f.lo < g.off * 8) (i j : Nat) : f.key 0 0 ≠ g.key i j := by
  simp only [Fld.key, Nat.zero_div, Nat.mul_zero]
  omega

/-! ### The channel at the end of a transfer -/

@[simp] theorem State.get_dmaPut (s : State) (c : Nat) (d : Dma) (g : Fld) (k l : Nat) :
    (s.dmaPut c d).get g k l = s.get g k l := rfl

@[simp] theorem State.dmaRec_dmaPut_self (s : State) (c : Nat) (d : Dma) : (s.dmaPut c d).dmaRec c = d :=
  tabGet_tabPut_self _ _ _ _

@[simp] theorem State.dmaRec_msixSend (s : State) (v c : Nat) : (s.msixSend v).dmaRec c = s.dmaRec c := by
  unfold State.msixSend
  split <;> rfl

/-- The channel's status and record at the end of a transfer, before its message (R345). -/
def State.dmaEnded (s : State) (c result residue : Nat) : State :=
  ((((s.set HOST.D_RESULT result c).set HOST.D_RESIDUE residue c).setB HOST.D_DONE true c).set HOST.D_STATE dmaHalted c).dmaPut c {}

theorem State.dmaHalt_eq (s : State) (c result residue : Nat) :
    s.dmaHalt c result residue = (s.dmaEnded c result residue).dmaMessage c := rfl

@[simp] theorem State.get_dmaHalt (s : State) (c result residue : Nat) (g : Fld) (k l : Nat) :
    (s.dmaHalt c result residue).get g k l = (s.dmaEnded c result residue).get g k l := by
  rw [State.dmaHalt_eq, State.dmaMessage, State.get_msixSend]

theorem State.get_STATE_dmaHalt (s : State) (c result residue : Nat) :
    (s.dmaHalt c result residue).get HOST.D_STATE c = dmaHalted := by
  rw [State.get_dmaHalt, State.dmaEnded, State.get_dmaPut, State.get_set_self]
  rfl

theorem State.flag_DONE_dmaHalt (s : State) (c result residue : Nat) :
    (s.dmaHalt c result residue).flag HOST.D_DONE c = true := by
  rw [State.flag, State.get_dmaHalt, State.dmaEnded, State.get_dmaPut,
    State.get_set_of_beside (by decide)]
  exact State.flag_setB_self _ _ _ _ _ (by decide)

theorem State.get_RESIDUE_dmaHalt (s : State) (c result residue : Nat) :
    (s.dmaHalt c result residue).get HOST.D_RESIDUE c = residue % 2 ^ 24 := by
  rw [State.get_dmaHalt, State.dmaEnded, State.get_dmaPut,
    State.get_set_of_beside (by decide),
    State.get_setB_of_beside (by decide), State.get_set_self]
  rfl

theorem State.get_RESULT_dmaHalt (s : State) (c result residue : Nat) :
    (s.dmaHalt c result residue).get HOST.D_RESULT c = result % 2 ^ 4 := by
  rw [State.get_dmaHalt, State.dmaEnded, State.get_dmaPut,
    State.get_set_of_beside (by decide),
    State.get_setB_of_beside (by decide),
    State.get_set_of_beside (by decide), State.get_set_self]
  rfl

/-- The channel's record is cleared: no element is counted, and no read-back waits. -/
theorem State.dmaRec_dmaHalt (s : State) (c result residue : Nat) : (s.dmaHalt c result residue).dmaRec c = {} := by
  rw [State.dmaHalt_eq, State.dmaMessage, State.dmaRec_msixSend, State.dmaEnded, State.dmaRec_dmaPut_self]

/-- The end of a transfer leaves everything but registers, outputs and the host's interface as it was. -/
theorem State.dmaHalt_frame (s : State) (c result residue : Nat) :
    Touches [.regs, .outbox, .host] s (s.dmaHalt c result residue) :=
  State.dmaHalt_touches (.refl _ s) (by decide) (by decide) (by decide)

/-! ### The channel's message -/

/-- The status of an ended transfer is all that its end writes of the registers. -/
theorem State.get_dmaEnded_of_ne {s : State} {c result residue : Nat} {g : Fld} {k l : Nat}
    (h : ∀ f ∈ dmaEndFields, g.key k l ≠ f.key c 0) : (s.dmaEnded c result residue).get g k l = s.get g k l := by
  rw [State.dmaEnded, State.get_dmaPut, State.get_set_of_ne _ _ _ _ _ _ _ _ (h HOST.D_STATE (by decide)),
    State.get_setB_of_ne (h HOST.D_DONE (by decide)), State.get_set_of_ne _ _ _ _ _ _ _ _ (h HOST.D_RESIDUE (by decide)),
    State.get_set_of_ne _ _ _ _ _ _ _ _ (h HOST.D_RESULT (by decide))]

/-- VECTOR lies beside the status fields, in the same channel. -/
theorem State.get_VECTOR_dmaEnded (s : State) (c result residue : Nat) :
    (s.dmaEnded c result residue).get HOST.D_VECTOR c = s.get HOST.D_VECTOR c := by
  have beside : ∀ f ∈ dmaEndFields, HOST.D_VECTOR.Beside f := by decide
  exact State.get_dmaEnded_of_ne fun f hf => (beside f hf).key_ne c

/-- Whether messages leave the module is told by fields below all channels. -/
theorem State.msixOpen_dmaEnded (s : State) (c result residue : Nat) : (s.dmaEnded c result residue).msixOpen = s.msixOpen := by
  have master : ∀ f ∈ dmaEndFields, HOST.BUS_MASTER.off * 8 + HOST.BUS_MASTER.lo < f.off * 8 := by decide
  have power : ∀ f ∈ dmaEndFields, HOST.D3HOT.off * 8 + HOST.D3HOT.lo < f.off * 8 := by decide
  rw [State.msixOpen, State.flag, State.flag, State.get_dmaEnded_of_ne fun f hf => Fld.key_ne_of_below (master f hf) c 0,
    State.get_dmaEnded_of_ne fun f hf => Fld.key_ne_of_below (power f hf) c 0]
  rfl

/-- A message that nothing holds goes out. -/
theorem State.msixSend_of_unheld {s : State} {v : Nat} (ho : s.msixOpen = true) (hm : s.msixMasked v = false) :
    s.msixSend v = s.msixEmit v := by
  simp [State.msixSend, ho, hm]

/-- The end of a transfer sends the channel's message, where nothing holds it (R322, R323, R345). -/
theorem State.outbox_dmaHalt_of_unheld {s : State} {c result residue : Nat} (ho : s.msixOpen = true)
    (hm : s.msixMasked (s.get HOST.D_VECTOR c) = false) :
    (s.dmaHalt c result residue).outbox = s.outbox ++ [.msix (s.get HOST.D_VECTOR c)
      (s.msixWord (s.get HOST.D_VECTOR c) 0 + 2 ^ 32 * s.msixWord (s.get HOST.D_VECTOR c) 1)
      (s.msixWord (s.get HOST.D_VECTOR c) 2)] := by
  rw [State.dmaHalt_eq, State.dmaMessage, State.get_VECTOR_dmaEnded,
    State.msixSend_of_unheld ((s.msixOpen_dmaEnded c result residue).trans ho) hm]
  rfl

/-! ### ABORT -/

/-- ABORT ends the transfer of a channel that runs. -/
theorem exec_dmaAbort_of_running {s : State} {c : Fin 32} (ho : s.regOpen HOST.D_ABORT.off = true)
    (hr : s.get HOST.D_STATE c = dmaRunning) :
    exec (.dmaAbort c) s = .next (s.dmaHalt c dmaAborted (s.dmaLeft c)) := by
  change execDmaAbort c s = _
  rw [execDmaAbort, viaHost_open ho, State.dmaAbort, if_pos hr]

/-- ABORT passes over a channel that does not run, whether the write reaches the channel or not. -/
theorem exec_dmaAbort_of_notRunning {s : State} {c : Fin 32} (hr : s.get HOST.D_STATE c ≠ dmaRunning) :
    exec (.dmaAbort c) s = .next s := by
  change execDmaAbort c s = _
  rw [execDmaAbort, State.viaHost, State.dmaAbort, if_neg hr, ite_self]

/-- Settles O45: on a running channel ABORT is the end of a transfer with result ABORTED and the elements not written as residue. -/
theorem dmaAbortEndsTheTransfer : Obligations.DmaAbortEndsTheTransfer := by
  unfold Obligations.DmaAbortEndsTheTransfer
  constructor
  · intro s c ho hr
    exact ⟨_, exec_dmaAbort_of_running ho hr, s.get_RESULT_dmaHalt c _ _, s.get_RESIDUE_dmaHalt c _ _,
      s.get_STATE_dmaHalt c _ _, s.flag_DONE_dmaHalt c _ _, congrArg Dma.readback (s.dmaRec_dmaHalt c _ _),
      (s.dmaHalt_frame c _ _).same .dev (by decide), State.outbox_dmaHalt_of_unheld⟩
  · exact fun s c hr => exec_dmaAbort_of_notRunning hr

end Sys2Proof.Machine
end

section
/-!
Proofs of O42 (R360, R361) and O43 (R358, R359). The lowest limit and the first that equals it, what a recomputation of the target
shows and starts, and from these what a selected phase puts in force.
-/
namespace Sys2Proof.Machine
open Reg

/-! ### The lowest limit and the target -/

/-- The number of the limit that STATUS.LIMIT shows: the first in table order that equals the lowest. -/
def State.limitNumber (s : State) : Nat := s.opLimits.findIdx (fun x => x == s.opLimits.foldl min 7)

/-- The lowest limit, where the phase's own is an operating point: OP0 in a power failure, otherwise the lowest of the other
three. -/
theorem State.lowestLimit_eq {s : State} (hp : s.pwr.govern.pref ≤ 7) :
    s.opLimits.foldl min 7 = if s.flag PWR.PFAIL then 0 else
      min s.pwr.govern.pref (min (max (s.get PWR.Q_LIMIT) s.pwr.govern.min) (max (s.get PWR.T_LIMIT) 1)) := by
  simp only [State.opLimits, List.foldl_cons, List.foldl_nil]
  split <;> omega

/-- The place of the first of four values that equals `m`, where the last does if no other. -/
theorem findIdx_eq_of_four (a b c d m : Nat) (h : a = m ∨ b = m ∨ c = m ∨ d = m) :
    [a, b, c, d].findIdx (fun x => x == m) = if a = m then 0 else if b = m then 1 else if c = m then 2 else 3 := by
  simp only [List.findIdx_cons, List.findIdx_nil, Bool.cond_eq_ite, beq_iff_eq]
  split_ifs <;> tauto

/-- Some limit is the lowest, so that the first to equal it is found. -/
theorem State.limitNumber_eq {s : State} {m : Nat} (hp : s.pwr.govern.pref ≤ 7) (hm : s.opLimits.foldl min 7 = m) :
    s.limitNumber = if s.pwr.govern.pref = m then 0 else if max (s.get PWR.Q_LIMIT) s.pwr.govern.min = m then 1
      else if max (s.get PWR.T_LIMIT) 1 = m then 2 else 3 := by
  rw [State.limitNumber, hm]
  refine findIdx_eq_of_four _ _ _ _ m ?_
  rw [State.lowestLimit_eq hp] at hm
  by_cases hf : s.flag PWR.PFAIL = true
  · exact .inr (.inr (.inr ((if_pos hf).trans ((if_pos hf).symm.trans hm))))
  · rw [if_neg hf] at hm
    omega

/-- Every target is one of the operating points OP0 to OP7. -/
theorem State.opTarget_le (s : State) : s.opTarget ≤ 7 := by
  simp only [State.opTarget, State.opLimits, List.foldl_cons, List.foldl_nil]
  repeat' split
  all_goals omega

/-- Where nothing holds the operating point and an image runs, the target is the lowest limit, in a power failure too. -/
theorem State.opTarget_of_running {s : State} (hh : s.assay.hold = false) (hi : s.core.idle = false) :
    s.opTarget = s.opLimits.foldl min 7 := by
  cases hf : s.flag PWR.PFAIL <;> simp [State.opTarget, State.opLimits, hf, hh, hi]

/-! ### What the target depends on -/

/-- `t` holds the values of `s` that the limits and the target are computed from. -/
structure SameLimits (s t : State) : Prop where
  govern : t.pwr.govern = s.pwr.govern
  hold : t.assay.hold = s.assay.hold
  idle : t.core.idle = s.core.idle
  qLimit : t.get PWR.Q_LIMIT = s.get PWR.Q_LIMIT
  tLimit : t.get PWR.T_LIMIT = s.get PWR.T_LIMIT
  pfail : t.get PWR.PFAIL = s.get PWR.PFAIL

theorem SameLimits.opTarget {s t : State} (h : SameLimits s t) : t.opTarget = s.opTarget := by
  have flag : t.flag PWR.PFAIL = s.flag PWR.PFAIL := congrArg (· != 0) h.pfail
  simp only [State.opTarget, State.opLimits, flag, h.govern, h.hold, h.idle, h.qLimit, h.tLimit]

/-! ### A move to a target -/

/-- A move shows its target. -/
theorem State.get_TGT_OP_moveTo {s : State} {m : Nat} (h : m ≤ 7) : (s.moveTo m).get CORE.TGT_OP = m := by
  unfold State.moveTo
  split
  · exact Eq.symm ‹_›
  · calc ((s.set CORE.TGT_OP m).setB CORE.IN_TRANSITION true).get CORE.TGT_OP
      _ = (s.set CORE.TGT_OP m).get CORE.TGT_OP := State.get_setB_of_ne (by decide)
      _ = m % 2 ^ 3 := State.get_set_self s CORE.TGT_OP m 0 0
      _ = m := Nat.mod_eq_of_lt (by omega)

/-- A move to another target starts a transition. -/
theorem State.flag_IN_TRANSITION_moveTo {s : State} {m : Nat} (h : m ≠ s.get CORE.TGT_OP) :
    (s.moveTo m).flag CORE.IN_TRANSITION = true := by
  rw [State.moveTo, if_neg h]
  exact State.flag_setB_self (s.set CORE.TGT_OP m) CORE.IN_TRANSITION true 0 0 (by decide)

/-- A move changes TGT_OP and IN_TRANSITION, and no other field. -/
theorem State.get_moveTo_of_ne {s : State} {m : Nat} {g : Fld} {k l : Nat} (ht : g.key k l ≠ CORE.TGT_OP.key 0 0)
    (hi : g.key k l ≠ CORE.IN_TRANSITION.key 0 0) : (s.moveTo m).get g k l = s.get g k l := by
  unfold State.moveTo
  split
  · rfl
  · exact (State.get_setB_of_ne hi).trans (State.get_set_of_ne _ _ _ _ _ _ _ _ ht)

/-- A move leaves alone whether an image runs. -/
theorem State.idle_moveTo (s : State) (m : Nat) : (s.moveTo m).core.idle = s.core.idle := by
  unfold State.moveTo
  split <;> rfl

/-! ### A recomputation of the target -/

/-- LIMIT shows the limit of its number, with the event of a change. -/
def State.showLimit (s : State) : State :=
  (s.set PWR.LIMIT s.limitNumber).when (s.limitNumber != s.get PWR.LIMIT) (fun s => s.pwrEvent PWR.LIMIT_EVT)

/-- A recomputation shows the limit and moves to the target. -/
theorem State.retarget_eq (s : State) : s.retarget = s.showLimit.moveTo s.showLimit.opTarget := rfl

theorem State.showLimit_touches (s : State) : Touches [.regs, .outbox, .host] s s.showLimit :=
  State.when_touches (fun _ h => State.pwrEvent_touches h (by decide) (by decide) (by decide))
    (State.set_touches (.refl _ s) (by decide))

/-- Showing the limit changes LIMIT, its event and PENDING, and no other field. -/
theorem State.get_showLimit_of_ne {s : State} {g : Fld} {k l : Nat} (hl : g.key k l ≠ PWR.LIMIT.key 0 0)
    (he : g.key k l ≠ PWR.LIMIT_EVT.key 0 0) (hp : g.key k l ≠ GLB.PENDING.key 0 0) :
    s.showLimit.get g k l = s.get g k l :=
  (State.get_when_of (f := fun s => s.pwrEvent PWR.LIMIT_EVT) (State.get_pwrEvent_of_ne he hp)).trans
    (State.get_set_of_ne _ _ _ _ _ _ _ _ hl)

theorem State.get_LIMIT_showLimit (s : State) : s.showLimit.get PWR.LIMIT = s.limitNumber % 4 :=
  (State.get_when_of (f := fun s => s.pwrEvent PWR.LIMIT_EVT) (State.get_pwrEvent_of_ne (by decide) (by decide))).trans
    (State.get_set_self s PWR.LIMIT _ 0 0)

theorem State.showLimit_sameLimits (s : State) : SameLimits s s.showLimit where
  govern := congrArg PwrSt.govern (s.showLimit_touches.same .pwr (by decide))
  hold := congrArg AssaySt.hold (s.showLimit_touches.same .assay (by decide))
  idle := congrArg CoreSt.idle (s.showLimit_touches.same .core (by decide))
  qLimit := State.get_showLimit_of_ne (by decide) (by decide) (by decide)
  tLimit := State.get_showLimit_of_ne (by decide) (by decide) (by decide)
  pfail := State.get_showLimit_of_ne (by decide) (by decide) (by decide)

/-- A recomputation touches registers, outputs, the core's record and the host's interface. -/
theorem State.retarget_frame (s : State) : Touches [.regs, .outbox, .core, .host] s s.retarget :=
  State.retarget_touches (.refl _ s) (by decide) (by decide) (by decide) (by decide)

/-- A recomputation leaves what it computes from as it was. -/
theorem State.retarget_sameLimits (s : State) : SameLimits s s.retarget where
  govern := congrArg PwrSt.govern (s.retarget_frame.same .pwr (by decide))
  hold := congrArg AssaySt.hold (s.retarget_frame.same .assay (by decide))
  idle := (State.idle_moveTo _ _).trans s.showLimit_sameLimits.idle
  qLimit := State.get_retarget_of_ne (by decide) (by decide) (by decide) (by decide) (by decide)
  tLimit := State.get_retarget_of_ne (by decide) (by decide) (by decide) (by decide) (by decide)
  pfail := State.get_retarget_of_ne (by decide) (by decide) (by decide) (by decide) (by decide)

/-- TGT_OP shows the target. -/
theorem State.get_TGT_OP_retarget (s : State) : s.retarget.get CORE.TGT_OP = s.opTarget := by
  rw [State.retarget_eq, State.get_TGT_OP_moveTo (State.opTarget_le _), s.showLimit_sameLimits.opTarget]

/-- LIMIT shows the number of the limit that sets the target. -/
theorem State.get_LIMIT_retarget (s : State) : s.retarget.get PWR.LIMIT = s.limitNumber % 4 := by
  rw [State.retarget_eq, State.get_moveTo_of_ne (by decide) (by decide), State.get_LIMIT_showLimit]

/-- A changed target starts a transition (R361). -/
theorem State.flag_IN_TRANSITION_retarget {s : State} (h : s.opTarget ≠ s.get CORE.TGT_OP) :
    s.retarget.flag CORE.IN_TRANSITION = true := by
  rw [State.retarget_eq]
  refine State.flag_IN_TRANSITION_moveTo ?_
  rwa [s.showLimit_sameLimits.opTarget, State.get_showLimit_of_ne (by decide) (by decide) (by decide)]

/-- Settles O42: the target is the lowest limit, LIMIT the number of the first limit that equals it, and a target other than the
one that TGT_OP showed starts a transition. -/
theorem targetIsTheLowestLimit : Obligations.TargetIsTheLowestLimit := by
  unfold Obligations.TargetIsTheLowestLimit
  intro s q t m hp hh hi hq ht hm
  subst hq ht
  have lowest : s.opLimits.foldl min 7 = m := (State.lowestLimit_eq hp).trans hm.symm
  have target : s.opTarget = m := (State.opTarget_of_running hh hi).trans lowest
  refine ⟨s.get_TGT_OP_retarget.trans target, ?_, fun hc => State.flag_IN_TRANSITION_retarget (target ▸ hc)⟩
  rw [State.get_LIMIT_retarget, State.limitNumber_eq hp lowest]
  refine Nat.mod_eq_of_lt ?_
  repeat' split
  all_goals omega

/-! ### A selection among those of its edge (R358, log 89) -/

/-- A write is taken where no selection was recorded on its edge, or where that was a write too. -/
theorem State.phaseSelect_of_unranked {s : State} {n : Nat}
    (h : ∀ e, s.pwr.edge = some e → e.at_ ≠ s.frc ∨ e.rank = rankWrite) :
    s.phaseSelect n rankWrite = s.phaseTake n rankWrite := by
  unfold State.phaseSelect
  split
  · exact if_pos (by simpa using h _ ‹_›)
  · rfl

/-- A write after a selection of higher rank on its edge is passed over. -/
theorem State.phaseSelect_of_outranked {s : State} {n : Nat} {e : PhaseEdge} (he : s.pwr.edge = some e) (ha : e.at_ = s.frc)
    (hr : e.rank < rankWrite) : s.phaseSelect n rankWrite = s := by
  simp [State.phaseSelect, he, ha, hr.ne, hr.le]

/-! ### A phase that takes effect (R359) -/

/-- The values of a selected phase are in force, and the target is not recomputed yet. -/
def State.phaseLoad (s : State) (n : Nat) : State :=
  let x := (s.set PWR.PHASE n).inc PWR.PHASE_CHANGES
  State.set { x with pwr := { x.pwr with govern := s.phaseVal n, nextGovern := none, overRun := 0, underRun := 0 } }
    PWR.Q_LIMIT (s.phaseVal n).pref

/-- The selection is recorded with its edge. -/
def State.recordEdge (s : State) (e : PhaseEdge) : State := { s with pwr := { s.pwr with edge := some e } }

/-- A valid phase is loaded, the target recomputed, and the selection recorded. -/
theorem State.phaseTake_of_valid {s : State} {n rank : Nat} (hv : s.phaseValid n = true) :
    ∃ e, s.phaseTake n rank = (s.phaseLoad n).retarget.recordEdge e := by
  unfold State.phaseTake
  simp only [hv, if_true]
  exact ⟨_, rfl⟩

theorem State.govern_phaseLoad (s : State) (n : Nat) : (s.phaseLoad n).pwr.govern = s.phaseVal n := rfl

theorem State.get_Q_LIMIT_phaseLoad (s : State) (n : Nat) : (s.phaseLoad n).get PWR.Q_LIMIT = (s.phaseVal n).pref % 8 :=
  State.get_set_self _ PWR.Q_LIMIT _ 0 0

theorem State.get_PHASE_CHANGES_phaseLoad (s : State) (n : Nat) :
    (s.phaseLoad n).get PWR.PHASE_CHANGES = satTo (2 ^ 32 - 1) (s.get PWR.PHASE_CHANGES + 1) :=
  calc (s.phaseLoad n).get PWR.PHASE_CHANGES
    _ = ((s.set PWR.PHASE n).inc PWR.PHASE_CHANGES).get PWR.PHASE_CHANGES := State.get_set_of_ne _ _ _ _ _ _ _ _ (by decide)
    _ = satTo (2 ^ 32 - 1) ((s.set PWR.PHASE n).get PWR.PHASE_CHANGES + 1) := State.get_inc_self _ _ _ _
    _ = satTo (2 ^ 32 - 1) (s.get PWR.PHASE_CHANGES + 1) := by rw [State.get_set_of_ne _ _ _ _ _ _ _ _ (by decide)]

@[simp] theorem State.get_recordEdge (s : State) (e : PhaseEdge) (g : Fld) (k l : Nat) :
    (s.recordEdge e).get g k l = s.get g k l := rfl
@[simp] theorem State.govern_recordEdge (s : State) (e : PhaseEdge) : (s.recordEdge e).pwr.govern = s.pwr.govern := rfl
@[simp] theorem State.opTarget_recordEdge (s : State) (e : PhaseEdge) : (s.recordEdge e).opTarget = s.opTarget := rfl

/-- What a valid phase puts in force when its selection is taken. -/
theorem State.phaseTake_governs {s : State} {n rank : Nat} (hv : s.phaseValid n = true) :
    (s.phaseTake n rank).pwr.govern = s.phaseVal n ∧
    (s.phaseTake n rank).get PWR.Q_LIMIT = (s.phaseVal n).pref % 8 ∧
    (s.phaseTake n rank).get CORE.TGT_OP = (s.phaseTake n rank).opTarget ∧
    (s.phaseTake n rank).get PWR.PHASE_CHANGES = satTo (2 ^ 32 - 1) (s.get PWR.PHASE_CHANGES + 1) := by
  obtain ⟨e, he⟩ := State.phaseTake_of_valid (rank := rank) hv
  have same := (s.phaseLoad n).retarget_sameLimits
  simp only [he, State.govern_recordEdge, State.get_recordEdge, State.opTarget_recordEdge]
  refine ⟨same.govern.trans (s.govern_phaseLoad n), same.qLimit.trans (s.get_Q_LIMIT_phaseLoad n), ?_, ?_⟩
  · rw [State.get_TGT_OP_retarget, same.opTarget]
  · rw [State.get_retarget_of_ne (by decide) (by decide) (by decide) (by decide) (by decide), State.get_PHASE_CHANGES_phaseLoad]

/-! ### PHASE_SELECT -/

/-- A write of PHASE_SEL that reaches its block selects the phase, as a register write. -/
theorem exec_phaseSelect_of_open {s : State} (n : Fin 16) (ho : s.regOpen PWR.PHASE_SEL.off = true) :
    exec (.phaseSelect n) s = .next (s.phaseSelect n rankWrite) := by
  change execPhaseSelect n s = _
  rw [execPhaseSelect, viaHost_open ho]

/-- A selection leaves everything but registers, outputs, the records of core and power, and the host's interface as it was. -/
theorem State.phaseSelect_frame (s : State) (n rank : Nat) :
    Touches [.regs, .outbox, .core, .pwr, .host] s (s.phaseSelect n rank) :=
  State.phaseSelect_touches (.refl _ s) (by decide) (by decide) (by decide) (by decide) (by decide)

/-- Settles O43: a write that no selection of its edge outranks is taken, and its phase governs; one that is outranked changes
nothing. -/
theorem phaseSelectionGoverns : Obligations.PhaseSelectionGoverns := by
  unfold Obligations.PhaseSelectionGoverns
  refine ⟨fun s n ho hv he => ⟨?_, ?_⟩, fun s n e ho he ha hr => ?_⟩
  · obtain ⟨hgov, hq, htgt, hcount⟩ := State.phaseTake_governs (rank := rankWrite) hv
    refine ⟨s.phaseTake n rankWrite, ?_, by rw [hgov]; rfl, by rw [hgov]; rfl, by rw [hgov]; rfl, hq, ?_, hcount⟩
    · rw [exec_phaseSelect_of_open n ho, State.phaseSelect_of_unranked he]
    · rw [htgt, Nat.mod_eq_of_lt (Nat.lt_succ_of_le (State.opTarget_le _))]
  · have frame := s.phaseSelect_frame n rankWrite
    exact ⟨_, exec_phaseSelect_of_open n ho, frame.same .dev (by decide), frame.same .que (by decide),
      frame.same .buf (by decide)⟩
  · rw [exec_phaseSelect_of_open n ho, State.phaseSelect_of_outranked he ha hr]

end Sys2Proof.Machine
end

section
/-!
Proofs of O46 (R415). What power-on leaves of the records of Milest, telemetry and the shared buffer, and from it the life-cycle
state after a power loss. The memory below the module store was cleared above (`State.memByte_powerOn_of_belowStore`).
-/
namespace Sys2Proof.Machine
open Reg

/-- Power-on starts telemetry and the buffer afresh and ends SERVICE, with the fuses kept; the start-up that follows leaves these
records alone (R428, R431). -/
theorem State.powerOn_startsAfresh (s : State) (addr : Nat) (low : Bool) :
    ∃ x : State, Touches [.regs, .core, .img, .boot] x (s.powerOn addr low) ∧
      x.mil.fused = s.mil.fused ∧ x.mil.service = false ∧ x.tele = {} ∧ x.buf = {} := by
  have row := fun x : State => State.refreshRow_touches (ps := [.regs, .core, .img, .boot]) (.refl _ x) (by decide) (by decide)
  unfold State.powerOn
  apply Exists.intro
  constructor
  · dsimp only
    split
    · exact State.setB_touches (State.set_touches (row (State.freshNonce _)) (by decide)) (by decide)
    · exact State.bootOn_touches (row _) (by decide) (by decide) (by decide)
  · exact ⟨rfl, rfl, rfl, rfl⟩

/-- After power-on the fuses alone say the life-cycle state: SERVICE, which is not fused, has ended (R408, R415). -/
theorem State.lcState_powerOn (s : State) (addr : Nat) (low : Bool) :
    (s.powerOn addr low).lcState = s.mil.fused.code := by
  obtain ⟨x, frame, hfused, hservice, -, -⟩ := s.powerOn_startsAfresh addr low
  have hmil : (s.powerOn addr low).mil = x.mil := frame.same .mil (by decide)
  rw [State.lcState, hmil, hservice, hfused]
  rfl

/-- Telemetry holds nothing after power-on, no flow among it. -/
theorem State.tele_powerOn (s : State) (addr : Nat) (low : Bool) : (s.powerOn addr low).tele = {} := by
  obtain ⟨x, frame, -, -, htele, -⟩ := s.powerOn_startsAfresh addr low
  exact Eq.trans (frame.same .tele (by decide)) htele

/-- The shared buffer is empty after power-on. -/
theorem State.buf_powerOn (s : State) (addr : Nat) (low : Bool) : (s.powerOn addr low).buf = {} := by
  obtain ⟨x, frame, -, -, -, hbuf⟩ := s.powerOn_startsAfresh addr low
  exact Eq.trans (frame.same .buf (by decide)) hbuf

/-- Settles O46: SERVICE is volatile, so that FIELD fuses alone say the state; telemetry, buffer and the memory below the module
store start empty. -/
theorem serviceEndsWithThePower : Obligations.ServiceEndsWithThePower := by
  unfold Obligations.ServiceEndsWithThePower
  intro s addr low hfield
  refine ⟨s.powerOn addr.toNat low, rfl, ?_, ?_, s.buf_powerOn _ _, fun a ha => s.memByte_powerOn_of_belowStore _ _ ha⟩
  · rw [State.lcState_powerOn, hfield]
    rfl
  · rw [State.tele_powerOn]

end Sys2Proof.Machine
end

section
/-!
Proofs of O47 (R446). A word built bit by bit shows those bits; GLB_PORT_SUM_w and GLB_INT_SUM are such words; and an SMBus read of a
word of the GLB block answers the word's value.
-/
namespace Sys2Proof.Machine
open Reg

/-! ### A word built bit by bit -/

/-- The word of `k` bits whose bit `j` is `p j`. -/
def maskWord (p : Nat → Bool) (k : Nat) : Nat := (List.range k).foldl (fun n j => if p j then n + 2 ^ j else n) 0

theorem maskWord_succ (p : Nat → Bool) (k : Nat) :
    maskWord p (k + 1) = if p k then maskWord p k + 2 ^ k else maskWord p k := by
  simp [maskWord, List.range_succ]

theorem maskWord_lt (p : Nat → Bool) (k : Nat) : maskWord p k < 2 ^ k := by
  induction k with
  | zero => exact Nat.one_pos
  | succ k ih =>
    rw [maskWord_succ, Nat.pow_succ]
    split <;> omega

/-- Bit `j` of the word is `p j`: the bits that come after it leave it alone. -/
theorem bit_maskWord {p : Nat → Bool} {k j : Nat} (h : j < k) : bit (maskWord p k) j = p j := by
  unfold bit
  induction k with
  | zero => omega
  | succ k ih =>
    rw [maskWord_succ, Nat.add_comm (maskWord p k)]
    obtain hj | rfl := Nat.lt_succ_iff_lt_or_eq.mp h
    · rw [apply_ite (Nat.testBit · j), Nat.testBit_two_pow_add_gt hj, ite_self, ih hj]
    · have top := Nat.testBit_lt_two_pow (maskWord_lt p j)
      rw [apply_ite (Nat.testBit · j), Nat.testBit_two_pow_add_eq, top]
      cases p j <;> rfl

/-! ### Fields of the GLB block -/

/-- A field below the blocks with windows is shown whatever the ports are (R440). -/
theorem State.windowUsed_of_glb (s : State) {f : Fld} (i : Nat) (h : f.off < 0x100000) : s.windowUsed f i = true := by
  have below : ∀ lo hi, 0x100000 ≤ lo → inRange lo hi f.off = false := fun lo hi hlo => by
    simp only [inRange, Bool.and_eq_false_iff, decide_eq_false_iff_not]
    omega
  simp [State.windowUsed, below]

/-- What a field of the GLB block that is not write-only reads as, where it shows live state. -/
theorem State.fieldRead_of_viewGlb {s : State} {f : Fld} {i j v : Nat} (ho : f.off < 0x100000) (ht : (f.ty == .wo) = false)
    (hv : s.viewGlb f i j = some v) : s.fieldRead f i j = v % 2 ^ f.wd := by
  simp [State.fieldRead, State.windowUsed_of_glb s i ho, ht, State.view, ho, hv]

/-! ### GLB_PORT_SUM (R446) -/

/-- A port is summed when it is configured and one of its events is set and enabled. -/
theorem State.portSum_iff (s : State) (p : Nat) :
    s.portSum p = true ↔ s.isPort p = true ∧ ∃ x ∈ portEventPairs, s.flag x.1 p = true ∧ s.flag x.2 p = true := by
  change (s.isPort p && portEventPairs.any (fun x => s.flag x.1 p && s.flag x.2 p)) = true ↔ _
  simp only [Bool.and_eq_true, List.any_eq_true]

theorem State.portSumWord_eq (s : State) (w : Nat) : s.portSumWord w = maskWord (fun j => s.portSum (32 * w + j)) 32 := rfl

/-- GLB_PORT_SUM_w has its word to itself. -/
theorem wordHits_portSum : ∀ w : Fin 32, wordHits (0x280 + 4 * w.val) = [⟨GLB.PORT_SUM, w, 0, false⟩] := by decide

theorem State.wordRead_portSum (s : State) (w : Fin 32) : s.wordRead (0x280 + 4 * w.val) = s.portSumWord w := by
  have small : s.portSumWord w % 2 ^ 32 = s.portSumWord w := Nat.mod_eq_of_lt (maskWord_lt _ 32)
  have read : s.fieldRead GLB.PORT_SUM w 0 = s.portSumWord w :=
    (State.fieldRead_of_viewGlb (by decide) rfl rfl).trans small
  rw [State.wordRead, wordHits_portSum]
  change (0 + s.fieldRead GLB.PORT_SUM w 0 % 2 ^ 32 * 2 ^ 0) % 2 ^ 32 = _
  rw [read, Nat.zero_add, Nat.pow_zero, Nat.mul_one, Nat.mod_mod, small]

/-! ### GLB_INT_SUM (R444) -/

/-- A bit of GLB_INT_SUM: a read-only field of one bit in its word. -/
abbrev SumHit (h : FldAt) : Prop :=
  h.fld.off = 0x200 ∧ h.fld.wd = 1 ∧ h.fld.ty = .ro ∧ h.high = false

theorem sumHit_of_mem : ∀ h ∈ wordHits 0x200, SumHit h := by decide

/-- The bits of GLB_INT_SUM, in their order. -/
theorem wordHits_intSum_lo : (wordHits 0x200).map (fun h => h.fld.lo) = List.range 14 := by decide

/-- Each field of GLB_INT_SUM adds the summary bit of its place. -/
theorem State.add_hitRead_of_sumHit (s : State) {h : FldAt} (hs : SumHit h) (n : Nat) :
    n + s.hitRead h = if s.sumBit h.fld.lo then n + 2 ^ h.fld.lo else n := by
  obtain ⟨ho, hw, ht, hh⟩ := hs
  have read : s.fieldRead h.fld h.i h.j = b2n (s.sumBit h.fld.lo) % 2 ^ h.fld.wd :=
    State.fieldRead_of_viewGlb (by omega) (by rw [ht]; rfl) (if_pos ho)
  rw [State.hitRead, read, hw, hh]
  cases s.sumBit h.fld.lo <;> simp [b2n]

theorem State.wordRead_intSum (s : State) : s.wordRead 0x200 = maskWord s.sumBit 14 := by
  have fold : (wordHits 0x200).foldl (fun n h => n + s.hitRead h) 0 = maskWord s.sumBit 14 := by
    rw [maskWord, ← wordHits_intSum_lo, List.foldl_map]
    exact List.foldl_ext _ _ _ fun n h hm => s.add_hitRead_of_sumHit (sumHit_of_mem h hm) n
  rw [State.wordRead, fold]
  exact Nat.mod_eq_of_lt ((maskWord_lt _ 14).trans (by decide))

/-- A summed port shows in the PORT bit of GLB_INT_SUM. -/
theorem State.sumBit_port {s : State} {p : Nat} (hp : p < 1024) (h : s.portSum p = true) : s.sumBit 1 = true :=
  List.any_eq_true.mpr ⟨p, List.mem_range.mpr hp, h⟩

/-! ### An SMBus read (R456) -/

/-- An SMBus read of a GLB word that is no part of a 64-bit register answers the word's value, also during a soft reset. -/
theorem exec_smbRead_of_glb {s : State} (hp : s.boot.powered = true) (ho : s.host.smbPtr < 0x100000)
    (hw : wideHit s.host.smbPtr = none) :
    Completes .smbRead s (fun t => t.outbox = s.outbox ++ [.smb (leBytes 4 (s.wordRead s.host.smbPtr))]) := by
  have word : s.smbWord s.host.smbPtr = (s.wordRead s.host.smbPtr, s) := by
    have inBar : ¬ 0x4000000 ≤ s.host.smbPtr := by omega
    simp [State.smbWord, openInSoft, ho, inBar, hw]
  refine ⟨s.smbRead, ?_, ?_⟩
  · change execSmbRead s = _
    rw [execSmbRead, State.smbLive, hp, State.when_true]
  · rw [State.smbRead, word]
    rfl

/-- Settles O47: the word that the read answers is built of the summaries of the ports, and a port with an enabled link loss is
summed. -/
theorem portSummaryShowsEnabledEvents : Obligations.PortSummaryShowsEnabledEvents := by
  unfold Obligations.PortSummaryShowsEnabledEvents
  constructor
  · intro s w hp hptr
    have narrow : wideHit s.host.smbPtr = none := by
      rw [hptr, wideHit, wordHits_portSum]
      rfl
    obtain ⟨t, run, out⟩ := exec_smbRead_of_glb hp (by omega) narrow
    rw [hptr, State.wordRead_portSum] at out
    refine ⟨t, run, s.portSumWord w, out, maskWord_lt _ 32, fun j hj => ?_⟩
    rw [State.portSumWord_eq, bit_maskWord hj, State.portSum_iff]
  · intro s p hlt hp hptr hport hevent henable
    obtain ⟨t, run, out⟩ := exec_smbRead_of_glb hp (by omega) (by rw [hptr]; decide)
    rw [hptr, State.wordRead_intSum] at out
    have summed : s.portSum p = true :=
      (s.portSum_iff p).mpr ⟨hport, _, .tail _ (.head _), hevent, henable⟩
    exact ⟨t, run, maskWord s.sumBit 14, out, (bit_maskWord (by decide)).trans (State.sumBit_port hlt summed)⟩

end Sys2Proof.Machine
end

section
/-!
Register fields that lie apart: a field keeps its value where only fields that lie apart from it are written. Whether two fields lie
apart is decided from the places, widths and strides of the register map.
-/
namespace Sys2Proof.Machine

/-! ### The bit addresses of a field -/

/-- The first and the last bit address under which a member of a field is held. -/
def Fld.first (f : Fld) : Nat := f.off * 8 + f.lo
def Fld.last (f : Fld) : Nat := f.first + 8 * (f.s1 * (f.n1 - 1) + f.s2 * (f.n2 - 1))

/-- The common stride of two fields. -/
def Fld.stride (f g : Fld) : Nat := 8 * Nat.gcd (Nat.gcd f.s1 f.s2) (Nat.gcd g.s1 g.s2)

/-- No member of `f`, inside its array or not, lies where a member of `g` of its array lies: the fields take different ranges,
or their instances alternate. -/
def Fld.apart (g f : Fld) : Bool :=
  decide (0 < f.n1 ∧ 0 < f.n2 ∧ g.last < 2 ^ 40) &&
    (decide (g.last < f.first) || decide (f.last < g.first) || f.first % f.stride g != g.first % f.stride g)

/-- A member of a field's array. -/
abbrev Fld.Inst (f : Fld) (i j : Nat) : Prop := i < f.n1 ∧ j < f.n2

theorem Fld.key_of_inst {f : Fld} {i j : Nat} (h : f.Inst i j) : f.key i j = f.first + 8 * (f.s1 * i + f.s2 * j) := by
  obtain ⟨hi, hj⟩ := h
  rw [Fld.key, Nat.div_eq_of_lt hi, Nat.div_eq_of_lt hj, Fld.first]
  ring

theorem Fld.first_le_key (f : Fld) (i j : Nat) : f.first ≤ f.key i j := by
  rw [Fld.first, Fld.key]
  nlinarith [Nat.zero_le (f.s1 * i), Nat.zero_le (f.s2 * j), Nat.zero_le (2 ^ 40 * (i / f.n1 + j / f.n2))]

theorem Fld.key_le_last {f : Fld} {i j : Nat} (h : f.Inst i j) : f.key i j ≤ f.last := by
  rw [Fld.key_of_inst h, Fld.last]
  have hi := Nat.mul_le_mul_left f.s1 (Nat.le_sub_one_of_lt h.1)
  have hj := Nat.mul_le_mul_left f.s2 (Nat.le_sub_one_of_lt h.2)
  omega

/-- An index outside the array lies above every register. -/
theorem Fld.le_key_of_not_inst {f : Fld} {i j : Nat} (h1 : 0 < f.n1) (h2 : 0 < f.n2) (h : ¬ f.Inst i j) : 2 ^ 40 ≤ f.key i j := by
  have outside : 1 ≤ i / f.n1 + j / f.n2 := by
    by_cases hi : i < f.n1
    · exact Nat.le_add_left_of_le (Nat.div_pos (Nat.le_of_not_lt fun hj => h ⟨hi, hj⟩) h2)
    · exact Nat.le_add_right_of_le (Nat.div_pos (Nat.le_of_not_lt hi) h1)
  have := Nat.mul_le_mul_left (2 ^ 40) outside
  rw [Fld.key]
  omega

/-- The instances of a field's array agree modulo every stride that divides its own. -/
theorem Fld.key_mod {f : Fld} {i j m : Nat} (h : f.Inst i j) (h1 : m ∣ 8 * f.s1) (h2 : m ∣ 8 * f.s2) :
    f.key i j % m = f.first % m := by
  have multiple : m ∣ 8 * (f.s1 * i + f.s2 * j) := by
    rw [Nat.mul_add, ← Nat.mul_assoc, ← Nat.mul_assoc]
    exact (h1.mul_right i).add (h2.mul_right j)
  rw [Fld.key_of_inst h, Nat.add_mod, Nat.mod_eq_zero_of_dvd multiple, Nat.add_zero, Nat.mod_mod]

theorem Fld.key_ne_of_apart {f g : Fld} {i j k l : Nat} (h : g.apart f = true) (hg : g.Inst k l) : g.key k l ≠ f.key i j := by
  simp only [Fld.apart, Bool.and_eq_true, Bool.or_eq_true, decide_eq_true_eq, bne_iff_ne] at h
  obtain ⟨⟨hn1, hn2, hlast⟩, hsep⟩ := h
  have above := Fld.key_le_last hg
  have below := g.first_le_key k l
  by_cases hf : f.Inst i j
  · obtain (hlt | hlt) | hne := hsep
    · exact (Nat.lt_of_le_of_lt above (Nat.lt_of_lt_of_le hlt (f.first_le_key i j))).ne
    · exact (Nat.lt_of_le_of_lt (Fld.key_le_last hf) (Nat.lt_of_lt_of_le hlt below)).ne'
    · intro e
      rw [Fld.stride] at hne
      have hff := Nat.gcd_dvd_left (Nat.gcd f.s1 f.s2) (Nat.gcd g.s1 g.s2)
      have hgg := Nat.gcd_dvd_right (Nat.gcd f.s1 f.s2) (Nat.gcd g.s1 g.s2)
      rw [← Fld.key_mod hf (Nat.mul_dvd_mul_left 8 (hff.trans (Nat.gcd_dvd_left _ _)))
          (Nat.mul_dvd_mul_left 8 (hff.trans (Nat.gcd_dvd_right _ _))),
        ← Fld.key_mod hg (Nat.mul_dvd_mul_left 8 (hgg.trans (Nat.gcd_dvd_left _ _)))
          (Nat.mul_dvd_mul_left 8 (hgg.trans (Nat.gcd_dvd_right _ _))), e] at hne
      exact hne rfl
  · have := Fld.le_key_of_not_inst hn1 hn2 hf
    omega

/-- Different instances of a field of one index have different addresses. -/
theorem Fld.key_inj {f : Fld} {i k : Nat} (hs : 0 < f.s1) (hi : i < f.n1) (hk : k < f.n1) (h : i ≠ k) : f.key i 0 ≠ f.key k 0 := by
  rw [Fld.key, Fld.key, Nat.div_eq_of_lt hi, Nat.div_eq_of_lt hk]
  intro e
  exact h (Nat.eq_of_mul_eq_mul_left hs (by omega))

/-! ### What a field reads after others have been written -/

theorem State.get_set_of_apart {s : State} {f g : Fld} {v i j k l : Nat} (h : g.apart f = true) (hg : g.Inst k l) :
    (s.set f v i j).get g k l = s.get g k l := State.get_set_of_ne s f g v i j k l (Fld.key_ne_of_apart h hg)

/-- What a frame of fields that lie apart leaves of a field. -/
theorem OnlyWrites.get_eq {fs : List Fld} {s t : State} (h : OnlyWrites fs s t) {g : Fld} {k l : Nat}
    (ha : ∀ f ∈ fs, g.apart f = true) (hg : g.Inst k l) : t.get g k l = s.get g k l := by
  rw [State.get, State.get, h (g.key k l) fun f hf i j => Fld.key_ne_of_apart (ha f hf) hg]

theorem OnlyWrites.flag_eq {fs : List Fld} {s t : State} (h : OnlyWrites fs s t) {g : Fld} {k l : Nat}
    (ha : ∀ f ∈ fs, g.apart f = true) (hg : g.Inst k l) : t.flag g k l = s.flag g k l := by
  rw [State.flag, State.flag, h.get_eq ha hg]

/-- What an operation that writes the fields at these places leaves of a field. -/
theorem Writes.get_eq {F : List Nat} {s t : State} (h : Writes F s t) {g : Fld} {k l : Nat}
    (ha : F.all (fun n => g.apart (fldAt n)) = true) (hg : g.Inst k l) : t.get g k l = s.get g k l :=
  h.only.get_eq (fun f hf => by
    obtain ⟨n, hn, rfl⟩ := List.mem_map.mp hf
    exact List.all_eq_true.mp ha n hn) hg

theorem Writes.flag_eq {F : List Nat} {s t : State} (h : Writes F s t) {g : Fld} {k l : Nat}
    (ha : F.all (fun n => g.apart (fldAt n)) = true) (hg : g.Inst k l) : t.flag g k l = s.flag g k l := by
  rw [State.flag, State.flag, h.get_eq ha hg]

theorem Writes.bitOf_eq {F : List Nat} {s t : State} (h : Writes F s t) {g : Fld} {b k l : Nat}
    (ha : F.all (fun n => g.apart (fldAt n)) = true) (hg : g.Inst k l) : t.bitOf g b k l = s.bitOf g b k l := by
  rw [State.bitOf, State.bitOf, h.get_eq ha hg]

end Sys2Proof.Machine
end


section
/-!
Proofs of O3, O4, O5, O6, O8, O9 and O11: what holds of every command, by cases over the commands, from the lemma that the Laws files hold
of each command's meaning.
-/
namespace Sys2Proof.Machine
open Reg

/-- Every command answers a next state, and keeps what every operation keeps. -/
theorem exec_keeps (c : Instr) (s : State) : ∃ t, exec c s = .next t ∧ Keeps s t := by
  cases c with
  | regWrite => exact execRegWrite_keeps
  | rcFieldRead => exact execRcFieldRead_keeps
  | lowWordRead => exact execLowWordRead_keeps
  | highWordRead => exact execHighWordRead_keeps
  | highWordWrite => exact execHighWordWrite_keeps
  | bar0BadAccess => exact execBar0BadAccess_keeps
  | bar4BadAccess => exact execBar4BadAccess_keeps
  | rxFrame => exact execRxFrame_keeps
  | parse => exact execParse_keeps
  | stageLookupIssue => exact execStageLookupIssue_keeps
  | stageActionRun => exact execStageActionRun_keeps
  | holdListLink => exact execHoldListLink_keeps
  | residueLink => exact execResidueLink_keeps
  | replResume => exact execReplResume_keeps
  | schedSelect => exact execSchedSelect_keeps
  | launchTimeReached => exact execLaunchTimeReached_keeps
  | txStart => exact execTxStart_keeps
  | txUnderrun => exact execTxUnderrun_keeps
  | txComplete => exact execTxComplete_keeps
  | trmWindowEnd => exact execTrmWindowEnd_keeps
  | hoursIncrement => exact execHoursIncrement_keeps
  | droopDetect => exact execDroopDetect_keeps
  | droopRecover => exact execDroopRecover_keeps
  | vcoreUndervolt => exact execVcoreUndervolt_keeps
  | bgStarved => exact execBgStarved_keeps
  | loadBank => exact execLoadBank_keeps
  | loadHost => exact execLoadHost_keeps
  | writeBank => exact execWriteBank_keeps
  | verifyBank => exact execVerifyBank_keeps
  | swap => exact execSwap_keeps
  | imgAbort => exact execImgAbort_keeps
  | imgFetchError => exact execImgFetchError_keeps
  | imgVerifyComplete => exact execImgVerifyComplete_keeps
  | fullLoadReady => exact execFullLoadReady_keeps
  | bankCommit => exact execBankCommit_keeps
  | epochRetire => exact execEpochRetire_keeps
  | retireOverdue => exact execRetireOverdue_keeps
  | retireForce => exact execRetireForce_keeps
  | anComplete => exact execAnComplete_keeps
  | anFail => exact execAnFail_keeps
  | ltCoeffRequest => exact execLtCoeffRequest_keeps
  | trainingComplete => exact execTrainingComplete_keeps
  | trainFail => exact execTrainFail_keeps
  | linkUp => exact execLinkUp_keeps
  | alignTimeout => exact execAlignTimeout_keeps
  | linkDown => exact execLinkDown_keeps
  | portDownHoldExpire => exact execPortDownHoldExpire_keeps
  | portEnable => exact execPortEnable_keeps
  | portDisable => exact execPortDisable_keeps
  | testEnter => exact execTestEnter_keeps
  | testExit => exact execTestExit_keeps
  | portRestart => exact execPortRestart_keeps
  | fecClear => exact execFecClear_keeps
  | txFfeWrite => exact execTxFfeWrite_keeps
  | adaptRestart => exact execAdaptRestart_keeps
  | pauseFrameRx => exact execPauseFrameRx_keeps
  | pauseTimerExpire => exact execPauseTimerExpire_keeps
  | pauseTx => exact execPauseTx_keeps
  | pauseRefresh => exact execPauseRefresh_keeps
  | stormEnter => exact execStormEnter_keeps
  | stormExit => exact execStormExit_keeps
  | chkLock => exact execChkLock_keeps
  | lockLost => exact execLockLost_keeps
  | chkClear => exact execChkClear_keeps
  | inject => exact execInject_keeps
  | emInsert => exact execEmInsert_keeps
  | emReplace => exact execEmReplace_keeps
  | emDelete => exact execEmDelete_keeps
  | emSearch => exact execEmSearch_keeps
  | learnInsert => exact execLearnInsert_keeps
  | ageVisit => exact execAgeVisit_keeps
  | emClaspRequest => exact execEmClaspRequest_keeps
  | emClaspGrant => exact execEmClaspGrant_keeps
  | emClaspRelease => exact execEmClaspRelease_keeps
  | aseWriteAt => exact execAseWriteAt_keeps
  | aseInsertAt => exact execAseInsertAt_keeps
  | aseDeleteAt => exact execAseDeleteAt_keeps
  | aseSearchCmd => exact execAseSearchCmd_keeps
  | aseStep => exact execAseStep_keeps
  | aseReadAt => exact execAseReadAt_keeps
  | aseClaspRequest => exact execAseClaspRequest_keeps
  | aseClaspGrant => exact execAseClaspGrant_keeps
  | aseClaspRelease => exact execAseClaspRelease_keeps
  | migrateCmd => exact execMigrateCmd_keeps
  | bankMigrationStart => exact execBankMigrationStart_keeps
  | bankMigrationDone => exact execBankMigrationDone_keeps
  | planishScrubStep => exact execPlanishScrubStep_keeps
  | calibrationStep => exact execCalibrationStep_keeps
  | counterFlushStep => exact execCounterFlushStep_keeps
  | wearLevelStep => exact execWearLevelStep_keeps
  | telemetryExportStep => exact execTelemetryExportStep_keeps
  | migrationRowCopy => exact execMigrationRowCopy_keeps
  | anvilTrap => exact execAnvilTrap_keeps
  | variantSwitch => exact execVariantSwitch_keeps
  | timeSet => exact execTimeSet_keeps
  | timeStep => exact execTimeStep_keeps
  | timeSnapshot => exact execTimeSnapshot_keeps
  | timeRateCommit => exact execTimeRateCommit_keeps
  | holdover => exact execHoldover_keeps
  | refclkLost => exact execRefclkLost_keeps
  | refclkRestored => exact execRefclkRestored_keeps
  | chipletRefclkLost => exact execChipletRefclkLost_keeps
  | triggerArm => exact execTriggerArm_keeps
  | triggerFire => exact execTriggerFire_keeps
  | pinCapture => exact execPinCapture_keeps
  | ppsAbsent => exact execPpsAbsent_keeps
  | ppsOutPulse => exact execPpsOutPulse_keeps
  | ppsOutPulseEnd => exact execPpsOutPulseEnd_keeps
  | configChange => exact execConfigChange_keeps
  | gateDisable => exact execGateDisable_keeps
  | gateConfigStart => exact execGateConfigStart_keeps
  | gateEntryChange => exact execGateEntryChange_keeps
  | fsRdPtrWrite => exact execFsRdPtrWrite_keeps
  | fsBatchSend => exact execFsBatchSend_keeps
  | counterFlush => exact execCounterFlush_keeps
  | counterFlushDone => exact execCounterFlushDone_keeps
  | loupeStart => exact execLoupeStart_keeps
  | loupeStop => exact execLoupeStop_keeps
  | loupeWindowEnd => exact execLoupeWindowEnd_keeps
  | loupeCounterWrap => exact execLoupeCounterWrap_keeps
  | samplingOverflow => exact execSamplingOverflow_keeps
  | samplingCtrlWrite => exact execSamplingCtrlWrite_keeps
  | bwWindowEnd => exact execBwWindowEnd_keeps
  | bezelWrite => exact execBezelWrite_keeps
  | poisonedWrite => exact execPoisonedWrite_keeps
  | ringPoll => exact execRingPoll_keeps
  | ringEnable => exact execRingEnable_keeps
  | ringDisable => exact execRingDisable_keeps
  | ringCoalExpire => exact execRingCoalExpire_keeps
  | rxRingWrite => exact execRxRingWrite_keeps
  | rxRingStall => exact execRxRingStall_keeps
  | txRingTake => exact execTxRingTake_keeps
  | dmaGo => exact execDmaGo_keeps
  | dmaBurst => exact execDmaBurst_keeps
  | dmaReadbackDone => exact execDmaReadbackDone_keeps
  | dmaAbort => exact execDmaAbort_keeps
  | clearHalt => exact execClearHalt_keeps
  | shadowArm => exact execShadowArm_keeps
  | shadowCancel => exact execShadowCancel_keeps
  | shadowFieldWrite => exact execShadowFieldWrite_keeps
  | pcieLinkDown => exact execPcieLinkDown_keeps
  | busMasterDisable => exact execBusMasterDisable_keeps
  | d3hotEntry => exact execD3hotEntry_keeps
  | hostResume => exact execHostResume_keeps
  | msixUnmask => exact execMsixUnmask_keeps
  | glbIntEnWrite => exact execGlbIntEnWrite_keeps
  | railSample => exact execRailSample_keeps
  | powerWindowEnd => exact execPowerWindowEnd_keeps
  | phaseSelect => exact execPhaseSelect_keeps
  | phaseEntryWrite => exact execPhaseEntryWrite_keeps
  | opTransitionDone => exact execOpTransitionDone_keeps
  | tempSample => exact execTempSample_keeps
  | thermalStep => exact execThermalStep_keeps
  | powerFail => exact execPowerFail_keeps
  | pfailDone => exact execPfailDone_keeps
  | powerRecovery => exact execPowerRecovery_keeps
  | faultDecision => exact execFaultDecision_keeps
  | faultRecord => exact execFaultRecord_keeps
  | maskWindowEnd => exact execMaskWindowEnd_keeps
  | autoReset => exact execAutoReset_keeps
  | firstClr => exact execFirstClr_keeps
  | faultNClr => exact execFaultNClr_keeps
  | aliveRestart => exact execAliveRestart_keeps
  | portSafeRelease => exact execPortSafeRelease_keeps
  | injectEvent => exact execInjectEvent_keeps
  | injectMemory => exact execInjectMemory_keeps
  | injectLane => exact execInjectLane_keeps
  | fuseSlot => exact execFuseSlot_keeps
  | fuseImageKey => exact execFuseImageKey_keeps
  | enterField => exact execEnterField_keeps
  | enterService => exact execEnterService_keeps
  | revokeSlot => exact execRevokeSlot_keeps
  | raiseFloor => exact execRaiseFloor_keeps
  | retire => exact execRetire_keeps
  | getVersion => exact execGetVersion_keeps
  | getCapabilities => exact execGetCapabilities_keeps
  | negotiateAlgorithms => exact execNegotiateAlgorithms_keeps
  | getDigests => exact execGetDigests_keeps
  | getCertificate => exact execGetCertificate_keeps
  | challenge => exact execChallenge_keeps
  | getMeasurements => exact execGetMeasurements_keeps
  | bypass => exact execBypass_keeps
  | idcode => exact execIdcode_keeps
  | samplePreload => exact execSamplePreload_keeps
  | extest => exact execExtest_keeps
  | internalScan => exact execInternalScan_keeps
  | assayGo => exact execAssayGo_keeps
  | assayTestDone => exact execAssayTestDone_keeps
  | assayAbort => exact execAssayAbort_keeps
  | assayConditionFail => exact execAssayConditionFail_keeps
  | powerOn => exact execPowerOn_keeps
  | resetNAssert => exact execResetNAssert_keeps
  | resetNRelease => exact execResetNRelease_keeps
  | moduleReset => exact execModuleReset_keeps
  | softReset => exact execSoftReset_keeps
  | pipeGo => exact execPipeGo_keeps
  | portGo => exact execPortGo_keeps
  | inputGlitch => exact execInputGlitch_keeps
  | inputStuck => exact execInputStuck_keeps
  | inputUnstuck => exact execInputUnstuck_keeps
  | smbSetPointer => exact execSmbSetPointer_keeps
  | smbRead => exact execSmbRead_keeps
  | smbWrite => exact execSmbWrite_keeps
  | smbAlertResponse => exact execSmbAlertResponse_keeps
  | linkOkChange => exact execLinkOkChange_keeps
  | cdrLockChange => exact execCdrLockChange_keeps
  | pcieLinkUp => exact execPcieLinkUp_keeps
  | shaperDebtRepaid => exact execShaperDebtRepaid_keeps
  | lEnergyWindowEnd => exact execLEnergyWindowEnd_keeps
  | lanesReady => exact execLanesReady_keeps

/-- Every command touches only its own parts of the state. -/
theorem exec_touches {c : Instr} {s t : State} (h : exec c s = .next t) : Touches (touchedBy c) s t := by
  cases c with
  | regWrite => exact execRegWrite_touches h
  | rcFieldRead => exact execRcFieldRead_touches h
  | lowWordRead => exact execLowWordRead_touches h
  | highWordRead => exact execHighWordRead_touches h
  | highWordWrite => exact execHighWordWrite_touches h
  | bar0BadAccess => exact execBar0BadAccess_touches h
  | bar4BadAccess => exact execBar4BadAccess_touches h
  | rxFrame => exact execRxFrame_touches h
  | parse => exact execParse_touches h
  | stageLookupIssue => exact execStageLookupIssue_touches h
  | stageActionRun => exact execStageActionRun_touches h
  | holdListLink => exact execHoldListLink_touches h
  | residueLink => exact execResidueLink_touches h
  | replResume => exact execReplResume_touches h
  | schedSelect => exact execSchedSelect_touches h
  | launchTimeReached => exact execLaunchTimeReached_touches h
  | txStart => exact execTxStart_touches h
  | txUnderrun => exact execTxUnderrun_touches h
  | txComplete => exact execTxComplete_touches h
  | trmWindowEnd => exact execTrmWindowEnd_touches h
  | hoursIncrement => exact execHoursIncrement_touches h
  | droopDetect => exact execDroopDetect_touches h
  | droopRecover => exact execDroopRecover_touches h
  | vcoreUndervolt => exact execVcoreUndervolt_touches h
  | bgStarved => exact execBgStarved_touches h
  | loadBank => exact execLoadBank_touches h
  | loadHost => exact execLoadHost_touches h
  | writeBank => exact execWriteBank_touches h
  | verifyBank => exact execVerifyBank_touches h
  | swap => exact execSwap_touches h
  | imgAbort => exact execImgAbort_touches h
  | imgFetchError => exact execImgFetchError_touches h
  | imgVerifyComplete => exact execImgVerifyComplete_touches h
  | fullLoadReady => exact execFullLoadReady_touches h
  | bankCommit => exact execBankCommit_touches h
  | epochRetire => exact execEpochRetire_touches h
  | retireOverdue => exact execRetireOverdue_touches h
  | retireForce => exact execRetireForce_touches h
  | anComplete => exact execAnComplete_touches h
  | anFail => exact execAnFail_touches h
  | ltCoeffRequest => exact execLtCoeffRequest_touches h
  | trainingComplete => exact execTrainingComplete_touches h
  | trainFail => exact execTrainFail_touches h
  | linkUp => exact execLinkUp_touches h
  | alignTimeout => exact execAlignTimeout_touches h
  | linkDown => exact execLinkDown_touches h
  | portDownHoldExpire => exact execPortDownHoldExpire_touches h
  | portEnable => exact execPortEnable_touches h
  | portDisable => exact execPortDisable_touches h
  | testEnter => exact execTestEnter_touches h
  | testExit => exact execTestExit_touches h
  | portRestart => exact execPortRestart_touches h
  | fecClear => exact execFecClear_touches h
  | txFfeWrite => exact execTxFfeWrite_touches h
  | adaptRestart => exact execAdaptRestart_touches h
  | pauseFrameRx => exact execPauseFrameRx_touches h
  | pauseTimerExpire => exact execPauseTimerExpire_touches h
  | pauseTx => exact execPauseTx_touches h
  | pauseRefresh => exact execPauseRefresh_touches h
  | stormEnter => exact execStormEnter_touches h
  | stormExit => exact execStormExit_touches h
  | chkLock => exact execChkLock_touches h
  | lockLost => exact execLockLost_touches h
  | chkClear => exact execChkClear_touches h
  | inject => exact execInject_touches h
  | emInsert => exact execEmInsert_touches h
  | emReplace => exact execEmReplace_touches h
  | emDelete => exact execEmDelete_touches h
  | emSearch => exact execEmSearch_touches h
  | learnInsert => exact execLearnInsert_touches h
  | ageVisit => exact execAgeVisit_touches h
  | emClaspRequest => exact execEmClaspRequest_touches h
  | emClaspGrant => exact execEmClaspGrant_touches h
  | emClaspRelease => exact execEmClaspRelease_touches h
  | aseWriteAt => exact execAseWriteAt_touches h
  | aseInsertAt => exact execAseInsertAt_touches h
  | aseDeleteAt => exact execAseDeleteAt_touches h
  | aseSearchCmd => exact execAseSearchCmd_touches h
  | aseStep => exact execAseStep_touches h
  | aseReadAt => exact execAseReadAt_touches h
  | aseClaspRequest => exact execAseClaspRequest_touches h
  | aseClaspGrant => exact execAseClaspGrant_touches h
  | aseClaspRelease => exact execAseClaspRelease_touches h
  | migrateCmd => exact execMigrateCmd_touches h
  | bankMigrationStart => exact execBankMigrationStart_touches h
  | bankMigrationDone => exact execBankMigrationDone_touches h
  | planishScrubStep => exact execPlanishScrubStep_touches h
  | calibrationStep => exact execCalibrationStep_touches h
  | counterFlushStep => exact execCounterFlushStep_touches h
  | wearLevelStep => exact execWearLevelStep_touches h
  | telemetryExportStep => exact execTelemetryExportStep_touches h
  | migrationRowCopy => exact execMigrationRowCopy_touches h
  | anvilTrap => exact execAnvilTrap_touches h
  | variantSwitch => exact execVariantSwitch_touches h
  | timeSet => exact execTimeSet_touches h
  | timeStep => exact execTimeStep_touches h
  | timeSnapshot => exact execTimeSnapshot_touches h
  | timeRateCommit => exact execTimeRateCommit_touches h
  | holdover => exact execHoldover_touches h
  | refclkLost => exact execRefclkLost_touches h
  | refclkRestored => exact execRefclkRestored_touches h
  | chipletRefclkLost => exact execChipletRefclkLost_touches h
  | triggerArm => exact execTriggerArm_touches h
  | triggerFire => exact execTriggerFire_touches h
  | pinCapture => exact execPinCapture_touches h
  | ppsAbsent => exact execPpsAbsent_touches h
  | ppsOutPulse => exact execPpsOutPulse_touches h
  | ppsOutPulseEnd => exact execPpsOutPulseEnd_touches h
  | configChange => exact execConfigChange_touches h
  | gateDisable => exact execGateDisable_touches h
  | gateConfigStart => exact execGateConfigStart_touches h
  | gateEntryChange => exact execGateEntryChange_touches h
  | fsRdPtrWrite => exact execFsRdPtrWrite_touches h
  | fsBatchSend => exact execFsBatchSend_touches h
  | counterFlush => exact execCounterFlush_touches h
  | counterFlushDone => exact execCounterFlushDone_touches h
  | loupeStart => exact execLoupeStart_touches h
  | loupeStop => exact execLoupeStop_touches h
  | loupeWindowEnd => exact execLoupeWindowEnd_touches h
  | loupeCounterWrap => exact execLoupeCounterWrap_touches h
  | samplingOverflow => exact execSamplingOverflow_touches h
  | samplingCtrlWrite => exact execSamplingCtrlWrite_touches h
  | bwWindowEnd => exact execBwWindowEnd_touches h
  | bezelWrite => exact execBezelWrite_touches h
  | poisonedWrite => exact execPoisonedWrite_touches h
  | ringPoll => exact execRingPoll_touches h
  | ringEnable => exact execRingEnable_touches h
  | ringDisable => exact execRingDisable_touches h
  | ringCoalExpire => exact execRingCoalExpire_touches h
  | rxRingWrite => exact execRxRingWrite_touches h
  | rxRingStall => exact execRxRingStall_touches h
  | txRingTake => exact execTxRingTake_touches h
  | dmaGo => exact execDmaGo_touches h
  | dmaBurst => exact execDmaBurst_touches h
  | dmaReadbackDone => exact execDmaReadbackDone_touches h
  | dmaAbort => exact execDmaAbort_touches h
  | clearHalt => exact execClearHalt_touches h
  | shadowArm => exact execShadowArm_touches h
  | shadowCancel => exact execShadowCancel_touches h
  | shadowFieldWrite => exact execShadowFieldWrite_touches h
  | pcieLinkDown => exact execPcieLinkDown_touches h
  | busMasterDisable => exact execBusMasterDisable_touches h
  | d3hotEntry => exact execD3hotEntry_touches h
  | hostResume => exact execHostResume_touches h
  | msixUnmask => exact execMsixUnmask_touches h
  | glbIntEnWrite => exact execGlbIntEnWrite_touches h
  | railSample => exact execRailSample_touches h
  | powerWindowEnd => exact execPowerWindowEnd_touches h
  | phaseSelect => exact execPhaseSelect_touches h
  | phaseEntryWrite => exact execPhaseEntryWrite_touches h
  | opTransitionDone => exact execOpTransitionDone_touches h
  | tempSample => exact execTempSample_touches h
  | thermalStep => exact execThermalStep_touches h
  | powerFail => exact execPowerFail_touches h
  | pfailDone => exact execPfailDone_touches h
  | powerRecovery => exact execPowerRecovery_touches h
  | faultDecision => exact execFaultDecision_touches h
  | faultRecord => exact execFaultRecord_touches h
  | maskWindowEnd => exact execMaskWindowEnd_touches h
  | autoReset => exact execAutoReset_touches h
  | firstClr => exact execFirstClr_touches h
  | faultNClr => exact execFaultNClr_touches h
  | aliveRestart => exact execAliveRestart_touches h
  | portSafeRelease => exact execPortSafeRelease_touches h
  | injectEvent => exact execInjectEvent_touches h
  | injectMemory => exact execInjectMemory_touches h
  | injectLane => exact execInjectLane_touches h
  | fuseSlot => exact execFuseSlot_touches h
  | fuseImageKey => exact execFuseImageKey_touches h
  | enterField => exact execEnterField_touches h
  | enterService => exact execEnterService_touches h
  | revokeSlot => exact execRevokeSlot_touches h
  | raiseFloor => exact execRaiseFloor_touches h
  | retire => exact execRetire_touches h
  | getVersion => exact execGetVersion_touches h
  | getCapabilities => exact execGetCapabilities_touches h
  | negotiateAlgorithms => exact execNegotiateAlgorithms_touches h
  | getDigests => exact execGetDigests_touches h
  | getCertificate => exact execGetCertificate_touches h
  | challenge => exact execChallenge_touches h
  | getMeasurements => exact execGetMeasurements_touches h
  | bypass => exact execBypass_touches h
  | idcode => exact execIdcode_touches h
  | samplePreload => exact execSamplePreload_touches h
  | extest => exact execExtest_touches h
  | internalScan => exact execInternalScan_touches h
  | assayGo => exact execAssayGo_touches h
  | assayTestDone => exact execAssayTestDone_touches h
  | assayAbort => exact execAssayAbort_touches h
  | assayConditionFail => exact execAssayConditionFail_touches h
  | powerOn => exact execPowerOn_touches h
  | resetNAssert => exact execResetNAssert_touches h
  | resetNRelease => exact execResetNRelease_touches h
  | moduleReset => exact execModuleReset_touches h
  | softReset => exact execSoftReset_touches h
  | pipeGo => exact execPipeGo_touches h
  | portGo => exact execPortGo_touches h
  | inputGlitch => exact execInputGlitch_touches h
  | inputStuck => exact execInputStuck_touches h
  | inputUnstuck => exact execInputUnstuck_touches h
  | smbSetPointer => exact execSmbSetPointer_touches h
  | smbRead => exact execSmbRead_touches h
  | smbWrite => exact execSmbWrite_touches h
  | smbAlertResponse => exact execSmbAlertResponse_touches h
  | linkOkChange => exact execLinkOkChange_touches h
  | cdrLockChange => exact execCdrLockChange_touches h
  | pcieLinkUp => exact execPcieLinkUp_touches h
  | shaperDebtRepaid => exact execShaperDebtRepaid_touches h
  | lEnergyWindowEnd => exact execLEnergyWindowEnd_touches h
  | lanesReady => exact execLanesReady_touches h

/-- Every command but those that write registers at large writes only its own register fields. -/
theorem exec_writes {c : Instr} {s t : State} (hc : writesAtLarge c = false) (h : exec c s = .next t) :
    OnlyWrites (writtenBy c) s t := by
  cases c with
  | regWrite => exact nomatch hc
  | rcFieldRead => exact nomatch hc
  | lowWordRead => exact nomatch hc
  | highWordRead => exact nomatch hc
  | highWordWrite => exact nomatch hc
  | bar0BadAccess => exact execBar0BadAccess_writes h
  | bar4BadAccess => exact execBar4BadAccess_writes h
  | rxFrame => exact execRxFrame_writes h
  | parse => exact execParse_writes h
  | stageLookupIssue => exact execStageLookupIssue_writes h
  | stageActionRun => exact execStageActionRun_writes h
  | holdListLink => exact execHoldListLink_writes h
  | residueLink => exact execResidueLink_writes h
  | replResume => exact execReplResume_writes h
  | schedSelect => exact execSchedSelect_writes h
  | launchTimeReached => exact execLaunchTimeReached_writes h
  | txStart => exact execTxStart_writes h
  | txUnderrun => exact execTxUnderrun_writes h
  | txComplete => exact execTxComplete_writes h
  | trmWindowEnd => exact execTrmWindowEnd_writes h
  | hoursIncrement => exact execHoursIncrement_writes h
  | droopDetect => exact execDroopDetect_writes h
  | droopRecover => exact execDroopRecover_writes h
  | vcoreUndervolt => exact execVcoreUndervolt_writes h
  | bgStarved => exact execBgStarved_writes h
  | loadBank => exact execLoadBank_writes h
  | loadHost => exact execLoadHost_writes h
  | writeBank => exact execWriteBank_writes h
  | verifyBank => exact execVerifyBank_writes h
  | swap => exact execSwap_writes h
  | imgAbort => exact execImgAbort_writes h
  | imgFetchError => exact nomatch hc
  | imgVerifyComplete => exact nomatch hc
  | fullLoadReady => exact nomatch hc
  | bankCommit => exact execBankCommit_writes h
  | epochRetire => exact execEpochRetire_writes h
  | retireOverdue => exact execRetireOverdue_writes h
  | retireForce => exact execRetireForce_writes h
  | anComplete => exact execAnComplete_writes h
  | anFail => exact execAnFail_writes h
  | ltCoeffRequest => exact execLtCoeffRequest_writes h
  | trainingComplete => exact execTrainingComplete_writes h
  | trainFail => exact execTrainFail_writes h
  | linkUp => exact execLinkUp_writes h
  | alignTimeout => exact execAlignTimeout_writes h
  | linkDown => exact execLinkDown_writes h
  | portDownHoldExpire => exact execPortDownHoldExpire_writes h
  | portEnable => exact execPortEnable_writes h
  | portDisable => exact execPortDisable_writes h
  | testEnter => exact execTestEnter_writes h
  | testExit => exact execTestExit_writes h
  | portRestart => exact execPortRestart_writes h
  | fecClear => exact execFecClear_writes h
  | txFfeWrite => exact execTxFfeWrite_writes h
  | adaptRestart => exact execAdaptRestart_writes h
  | pauseFrameRx => exact execPauseFrameRx_writes h
  | pauseTimerExpire => exact execPauseTimerExpire_writes h
  | pauseTx => exact execPauseTx_writes h
  | pauseRefresh => exact execPauseRefresh_writes h
  | stormEnter => exact execStormEnter_writes h
  | stormExit => exact execStormExit_writes h
  | chkLock => exact execChkLock_writes h
  | lockLost => exact execLockLost_writes h
  | chkClear => exact execChkClear_writes h
  | inject => exact execInject_writes h
  | emInsert => exact execEmInsert_writes h
  | emReplace => exact execEmReplace_writes h
  | emDelete => exact execEmDelete_writes h
  | emSearch => exact execEmSearch_writes h
  | learnInsert => exact execLearnInsert_writes h
  | ageVisit => exact execAgeVisit_writes h
  | emClaspRequest => exact execEmClaspRequest_writes h
  | emClaspGrant => exact execEmClaspGrant_writes h
  | emClaspRelease => exact execEmClaspRelease_writes h
  | aseWriteAt => exact execAseWriteAt_writes h
  | aseInsertAt => exact execAseInsertAt_writes h
  | aseDeleteAt => exact execAseDeleteAt_writes h
  | aseSearchCmd => exact execAseSearchCmd_writes h
  | aseStep => exact execAseStep_writes h
  | aseReadAt => exact execAseReadAt_writes h
  | aseClaspRequest => exact execAseClaspRequest_writes h
  | aseClaspGrant => exact execAseClaspGrant_writes h
  | aseClaspRelease => exact execAseClaspRelease_writes h
  | migrateCmd => exact execMigrateCmd_writes h
  | bankMigrationStart => exact execBankMigrationStart_writes h
  | bankMigrationDone => exact execBankMigrationDone_writes h
  | planishScrubStep => exact execPlanishScrubStep_writes h
  | calibrationStep => exact execCalibrationStep_writes h
  | counterFlushStep => exact execCounterFlushStep_writes h
  | wearLevelStep => exact execWearLevelStep_writes h
  | telemetryExportStep => exact execTelemetryExportStep_writes h
  | migrationRowCopy => exact execMigrationRowCopy_writes h
  | anvilTrap => exact execAnvilTrap_writes h
  | variantSwitch => exact execVariantSwitch_writes h
  | timeSet => exact execTimeSet_writes h
  | timeStep => exact execTimeStep_writes h
  | timeSnapshot => exact execTimeSnapshot_writes h
  | timeRateCommit => exact execTimeRateCommit_writes h
  | holdover => exact execHoldover_writes h
  | refclkLost => exact execRefclkLost_writes h
  | refclkRestored => exact execRefclkRestored_writes h
  | chipletRefclkLost => exact execChipletRefclkLost_writes h
  | triggerArm => exact execTriggerArm_writes h
  | triggerFire => exact execTriggerFire_writes h
  | pinCapture => exact execPinCapture_writes h
  | ppsAbsent => exact execPpsAbsent_writes h
  | ppsOutPulse => exact execPpsOutPulse_writes h
  | ppsOutPulseEnd => exact execPpsOutPulseEnd_writes h
  | configChange => exact execConfigChange_writes h
  | gateDisable => exact execGateDisable_writes h
  | gateConfigStart => exact execGateConfigStart_writes h
  | gateEntryChange => exact execGateEntryChange_writes h
  | fsRdPtrWrite => exact execFsRdPtrWrite_writes h
  | fsBatchSend => exact execFsBatchSend_writes h
  | counterFlush => exact execCounterFlush_writes h
  | counterFlushDone => exact execCounterFlushDone_writes h
  | loupeStart => exact execLoupeStart_writes h
  | loupeStop => exact execLoupeStop_writes h
  | loupeWindowEnd => exact execLoupeWindowEnd_writes h
  | loupeCounterWrap => exact execLoupeCounterWrap_writes h
  | samplingOverflow => exact execSamplingOverflow_writes h
  | samplingCtrlWrite => exact execSamplingCtrlWrite_writes h
  | bwWindowEnd => exact execBwWindowEnd_writes h
  | bezelWrite => exact execBezelWrite_writes h
  | poisonedWrite => exact execPoisonedWrite_writes h
  | ringPoll => exact execRingPoll_writes h
  | ringEnable => exact execRingEnable_writes h
  | ringDisable => exact execRingDisable_writes h
  | ringCoalExpire => exact execRingCoalExpire_writes h
  | rxRingWrite => exact execRxRingWrite_writes h
  | rxRingStall => exact execRxRingStall_writes h
  | txRingTake => exact execTxRingTake_writes h
  | dmaGo => exact execDmaGo_writes h
  | dmaBurst => exact execDmaBurst_writes h
  | dmaReadbackDone => exact execDmaReadbackDone_writes h
  | dmaAbort => exact execDmaAbort_writes h
  | clearHalt => exact execClearHalt_writes h
  | shadowArm => exact execShadowArm_writes h
  | shadowCancel => exact execShadowCancel_writes h
  | shadowFieldWrite => exact execShadowFieldWrite_writes h
  | pcieLinkDown => exact execPcieLinkDown_writes h
  | busMasterDisable => exact execBusMasterDisable_writes h
  | d3hotEntry => exact execD3hotEntry_writes h
  | hostResume => exact execHostResume_writes h
  | msixUnmask => exact execMsixUnmask_writes h
  | glbIntEnWrite => exact execGlbIntEnWrite_writes h
  | railSample => exact execRailSample_writes h
  | powerWindowEnd => exact execPowerWindowEnd_writes h
  | phaseSelect => exact execPhaseSelect_writes h
  | phaseEntryWrite => exact execPhaseEntryWrite_writes h
  | opTransitionDone => exact execOpTransitionDone_writes h
  | tempSample => exact execTempSample_writes h
  | thermalStep => exact execThermalStep_writes h
  | powerFail => exact execPowerFail_writes h
  | pfailDone => exact execPfailDone_writes h
  | powerRecovery => exact nomatch hc
  | faultDecision => exact execFaultDecision_writes h
  | faultRecord => exact execFaultRecord_writes h
  | maskWindowEnd => exact execMaskWindowEnd_writes h
  | autoReset => exact nomatch hc
  | firstClr => exact execFirstClr_writes h
  | faultNClr => exact execFaultNClr_writes h
  | aliveRestart => exact execAliveRestart_writes h
  | portSafeRelease => exact execPortSafeRelease_writes h
  | injectEvent => exact execInjectEvent_writes h
  | injectMemory => exact execInjectMemory_writes h
  | injectLane => exact execInjectLane_writes h
  | fuseSlot => exact execFuseSlot_writes h
  | fuseImageKey => exact execFuseImageKey_writes h
  | enterField => exact execEnterField_writes h
  | enterService => exact execEnterService_writes h
  | revokeSlot => exact execRevokeSlot_writes h
  | raiseFloor => exact execRaiseFloor_writes h
  | retire => exact execRetire_writes h
  | getVersion => exact execGetVersion_writes h
  | getCapabilities => exact execGetCapabilities_writes h
  | negotiateAlgorithms => exact execNegotiateAlgorithms_writes h
  | getDigests => exact execGetDigests_writes h
  | getCertificate => exact execGetCertificate_writes h
  | challenge => exact execChallenge_writes h
  | getMeasurements => exact execGetMeasurements_writes h
  | bypass => exact execBypass_writes h
  | idcode => exact execIdcode_writes h
  | samplePreload => exact execSamplePreload_writes h
  | extest => exact execExtest_writes h
  | internalScan => exact execInternalScan_writes h
  | assayGo => exact execAssayGo_writes h
  | assayTestDone => exact execAssayTestDone_writes h
  | assayAbort => exact execAssayAbort_writes h
  | assayConditionFail => exact execAssayConditionFail_writes h
  | powerOn => exact nomatch hc
  | resetNAssert => exact execResetNAssert_writes h
  | resetNRelease => exact nomatch hc
  | moduleReset => exact nomatch hc
  | softReset => exact nomatch hc
  | pipeGo => exact execPipeGo_writes h
  | portGo => exact execPortGo_writes h
  | inputGlitch => exact execInputGlitch_writes h
  | inputStuck => exact execInputStuck_writes h
  | inputUnstuck => exact execInputUnstuck_writes h
  | smbSetPointer => exact execSmbSetPointer_writes h
  | smbRead => exact execSmbRead_writes h
  | smbWrite => exact nomatch hc
  | smbAlertResponse => exact execSmbAlertResponse_writes h
  | linkOkChange => exact execLinkOkChange_writes h
  | cdrLockChange => exact execCdrLockChange_writes h
  | pcieLinkUp => exact execPcieLinkUp_writes h
  | shaperDebtRepaid => exact execShaperDebtRepaid_writes h
  | lEnergyWindowEnd => exact execLEnergyWindowEnd_writes h
  | lanesReady => exact execLanesReady_writes h

/-- What the state after a command keeps of the state before. -/
theorem Keeps.of_exec {c : Instr} {s t : State} (h : exec c s = .next t) : Keeps s t := by
  obtain ⟨u, hu, k⟩ := exec_keeps c s
  obtain rfl := Host.Outcome.next.inj (h.symm.trans hu)
  exact k

/-- A part that a command does not list is the same after it. -/
theorem Touches.same_of_not_contains {ps : List Part} {s t : State} (h : Touches ps s t) {p : Part} (hp : ps.contains p = false) :
    p.Same s t :=
  h.same p (by simpa using hp)

/-- Settles O4: each command's meaning touches only the parts listed for it. -/
theorem commandsTouchOnlyTheirParts : Obligations.CommandsTouchOnlyTheirParts := by
  unfold Obligations.CommandsTouchOnlyTheirParts
  exact fun c s t h => exec_touches h

/-- Settles O5: each command's meaning writes only the fields listed for it. -/
theorem commandsWriteOnlyTheirRegisters : Obligations.CommandsWriteOnlyTheirRegisters := by
  unfold Obligations.CommandsWriteOnlyTheirRegisters
  exact fun c s t hc h => exec_writes hc h

/-- Settles O3: every meaning answers a next state. -/
theorem everyCommandCompletes : Obligations.EveryCommandCompletes := by
  unfold Obligations.EveryCommandCompletes
  intro c s
  obtain ⟨t, run, keeps⟩ := exec_keeps c s
  exact ⟨t, run, keeps.pending⟩

/-- Settles O6: no meaning takes an output back. -/
theorem outputsAreOnlyAppended : Obligations.OutputsAreOnlyAppended := by
  unfold Obligations.OutputsAreOnlyAppended
  exact fun c s t h => (Keeps.of_exec h).outbox

/-! ### Steps -/

/-- A step with a command waiting runs it on the queue's rest. -/
theorem step_of_cons {s : State} {c : Instr} {rest : List Instr} (h : s.pending = c :: rest) :
    step s = exec c { s with pending := rest } := by
  rw [step, h]

/-- A step with nothing waiting lets time pass. -/
theorem step_of_nil {s : State} (h : s.pending = []) : step s = .next s.tick := by
  rw [step, h]

/-- A step keeps the canonical form of the memory, and no fuse goes back: the queue alone differs between the state of the step
and that of its command. -/
theorem step_keeps {s t : State} (h : step s = .next t) : (MemInv s → MemInv t) ∧ FusesGrow s.mil t.mil := by
  cases hq : s.pending with
  | nil =>
    obtain rfl := Host.Outcome.next.inj ((step_of_nil hq).symm.trans h)
    have keeps : Keeps s s.tick := State.tick_keeps (.refl s)
    exact ⟨keeps.mem, keeps.fuses⟩
  | cons c rest =>
    have keeps := Keeps.of_exec ((step_of_cons hq).symm.trans h)
    exact ⟨keeps.mem, keeps.fuses⟩

/-- Settles O9: a step is one command or one tick, and both keep the form. -/
theorem stepKeepsMemoryCanonical : Obligations.StepKeepsMemoryCanonical := by
  unfold Obligations.StepKeepsMemoryCanonical
  exact fun s t hm h => (step_keeps h).1 hm

/-- Settles O11: a step is one command or one tick, and under both the fuses only grow. -/
theorem fusesNeverGoBack : Obligations.FusesNeverGoBack := by
  unfold Obligations.FusesNeverGoBack
  exact fun s t h => (step_keeps h).2

/-- Settles O1: that is how a step is defined on a queue that is not empty. -/
theorem stepRunsFrontCommand : Obligations.StepRunsFrontCommand := by
  unfold Obligations.StepRunsFrontCommand
  exact fun s c rest h => step_of_cons h

/-! ### Time that passes -/

theorem State.tick_of_unpowered {s : State} (h : s.boot.powered = false) : s.tick = s := by
  simp [State.tick, h]

/-- A tick counts the FRC, and nothing else where no soft reset runs. -/
theorem State.tick_of_powered {s : State} (h : s.boot.powered = true) :
    s.tick = (s.set TIME.FRC (s.frc + 1)).when (!s.boot.held) State.softFinish := by
  simp [State.tick, h, State.incWrap, State.frc, State.set_boot]

theorem State.softFinish_of_hard {s : State} (h : s.boot.soft = false) : s.softFinish = s := by
  simp [State.softFinish, h]

/-- A soft reset that goes on leaves the FRC alone. -/
theorem State.frc_softFinish (s : State) : s.softFinish.frc = s.frc :=
  (State.softFinish_writes (.refl _ s) (List.Subset.refl _)).get_eq (by decide) (by decide)

/-- A tick of a powered module raises the FRC by one, modulo 2^64. -/
theorem State.frc_tick {s : State} (h : s.boot.powered = true) : s.tick.frc = (s.frc + 1) % 2 ^ 64 := by
  rw [State.tick_of_powered h]
  have counted : (s.set TIME.FRC (s.frc + 1)).frc = (s.frc + 1) % 2 ^ 64 := State.get_set_self s TIME.FRC _ 0 0
  exact State.when_cases (P := fun t => t.frc = (s.frc + 1) % 2 ^ 64) _ _ _ counted
    fun _ => (State.frc_softFinish _).trans counted

/-- Settles O2: a step on an empty queue is a tick. -/
theorem emptyQueueLetsTimePass : Obligations.EmptyQueueLetsTimePass := by
  unfold Obligations.EmptyQueueLetsTimePass
  refine ⟨fun s hq hp => ?_, fun s hq hp hs => ?_, fun s hq hp => ?_⟩
  · rw [step_of_nil hq, State.tick_of_unpowered hp]
  · have hard := State.softFinish_of_hard (s := s.set TIME.FRC (s.frc + 1)) hs
    rw [step_of_nil hq, State.tick_of_powered hp]
    exact congrArg _ (State.when_cases (P := fun t => t = s.set TIME.FRC (s.frc + 1)) _ _ _ rfl fun _ => hard)
  · have keeps : Keeps s s.tick := State.tick_keeps (.refl s)
    exact ⟨s.tick, step_of_nil hq, keeps.pending.trans hq, State.frc_tick hp⟩

/-! ### The state before power-on -/

/-- Every register field of the state before power-on holds its reset value, since none is listed. -/
theorem State.get_reset (f : Fld) (i j : Nat) : State.reset.get f i j = f.reset i := rfl

/-- Settles O7: the state before power-on is written out in its definition. -/
theorem resetHoldsTheSpecsValues : Obligations.ResetHoldsTheSpecsValues := by
  unfold Obligations.ResetHoldsTheSpecsValues
  exact ⟨State.get_reset, rfl, rfl, rfl, fun _ => rfl, rfl, rfl, rfl, rfl, rfl, rfl, rfl, rfl, rfl⟩

/-- Settles O8: an empty memory has the canonical form. -/
theorem resetMemoryIsCanonical : Obligations.ResetMemoryIsCanonical := by
  unfold Obligations.ResetMemoryIsCanonical
  exact (memWf_iff []).mpr ⟨.nil, nofun⟩

end Sys2Proof.Machine
end


section
/-!
Proofs of O10 (R408). What Milest's commands make of the fuses, and that nothing else does more to the life cycle than a reset, which
ends SERVICE.
-/
namespace Sys2Proof.Machine
open Reg

/-! ### What a reset may do -/

/-- The fuses say what they said, and SERVICE stands as it stood or has ended. -/
structure ServiceMayEnd (s t : State) : Prop where
  fused : t.mil.fused = s.mil.fused
  service : t.mil.service = s.mil.service ∨ t.mil.service = false

theorem ServiceMayEnd.of_mil {s t : State} (h : t.mil = s.mil) : ServiceMayEnd s t :=
  ⟨congrArg MilSt.fused h, .inl (congrArg MilSt.service h)⟩

theorem ServiceMayEnd.of_touches {ps : List Part} {s t : State} (h : Touches ps s t) (hp : ps.contains .mil = false) :
    ServiceMayEnd s t := .of_mil (h.same_of_not_contains hp)

theorem ServiceMayEnd.trans {s t u : State} (h : ServiceMayEnd s t) (k : ServiceMayEnd t u) : ServiceMayEnd s u where
  fused := k.fused.trans h.fused
  service := by
    obtain e | e := k.service
    · rw [e]
      exact h.service
    · exact .inr e

/-! ### Module resets (R431) -/

/-- What a module reset does before it starts anything afresh: transmissions end, lanes fall silent, and before a soft reset DMA and
rings stop. -/
def State.resetStop (s : State) (soft : Bool) : State :=
  ((s.portList.foldl (fun s p => s.txCut p) s).linesOff).when soft (fun s => (s.dmaLinkEnd true).ringsStop)

theorem State.resetStop_touches (s : State) (soft : Bool) :
    Touches [.regs, .outbox, .flt, .act, .host, .buf, .que, .tele] s (s.resetStop soft) := by
  refine State.when_touches (fun y h => State.ringsStop_touches (State.dmaLinkEnd_touches h ?_ ?_ ?_) ?_)
    (State.linesOff_touches (Touches.foldl (fun y p h => State.txCut_touches h ?_ ?_ ?_ ?_ ?_ ?_ ?_ ?_) (.refl _ s)) ?_ ?_)
  all_goals decide

/-- The records that a module reset starts afresh, in the state from which the registers of the reset itself are set. -/
structure ResetRecords (s x : State) (soft : Bool) : Prop where
  regs : x.regs = resetRegs soft s.regs
  fused : x.mil.fused = s.mil.fused
  service : x.mil.service = false
  boot : x.boot = { powered := s.boot.powered, soft := soft }
  host : soft = false → x.host = {}
  que : x.que = {}
  buf : x.buf = {}

/-- The places of the registers that a module reset sets after the records: V_BASE, TRIM and V_SET, SHARE, MODULE_SAFE and
THERM_HELD. -/
abbrev resetPlaces : List Nat := [6, 7, 8, 3859, 4100, 4866]

/-- A module reset starts the records afresh, then sets registers alone, and the trim of the core's row. -/
theorem State.resetTo_startsAfresh (s : State) (soft : Bool) :
    ∃ x : State, Touches [.regs, .core] x (s.resetTo soft) ∧ Writes resetPlaces x (s.resetTo soft) ∧
      ResetRecords (s.resetStop soft) x soft := by
  have all := List.Subset.refl resetPlaces
  unfold State.resetTo
  apply Exists.intro
  refine ⟨?_, ?_, ?_⟩
  · refine State.refreshRow_touches (State.when_touches (fun y h => State.setB_touches h ?_) (State.setB_touches
      (Touches.foldl (fun y b h => State.set_touches h ?_) (.refl _ (State.freshNonce _))) ?_)) ?_ ?_
    all_goals decide
  · exact State.refreshRow_writes (State.when_writes (fun y h => State.setB_writes .FLT_MODULE_SAFE h)
      (State.setB_writes ⟨4866, by decide, rfl⟩
        (Writes.foldl (fun y b h => State.set_writes .ANVL_SHARE h) (.refl _ (State.freshNonce _)))))
  · exact ⟨rfl, rfl, rfl, rfl, fun h => by subst h; rfl, rfl, rfl⟩


theorem ServiceMayEnd.of_resetRecords {s x t : State} {soft : Bool} (h : ResetRecords (s.resetStop soft) x soft) (k : t.mil = x.mil) :
    ServiceMayEnd s t := by
  have stopped := ServiceMayEnd.of_touches (s.resetStop_touches soft) rfl
  exact ⟨by rw [k, h.fused, stopped.fused], .inr (by rw [k, h.service])⟩

theorem State.resetTo_serviceMayEnd (s : State) (soft : Bool) : ServiceMayEnd s (s.resetTo soft) := by
  obtain ⟨x, frame, -, records⟩ := s.resetTo_startsAfresh soft
  exact .of_resetRecords records (frame.same_of_not_contains (p := .mil) rfl)

/-- What follows the records of a module reset: its registers, and the start-up that goes on. -/
theorem State.moduleReset_touches_resetTo (s : State) (kind : Nat) :
    Touches [.regs, .img, .boot] (s.resetTo false) (s.moduleReset kind) := by
  refine State.bootOn_touches (State.when_touches (fun y h => State.setB_touches (State.setB_touches h ?_) ?_)
    (State.inc_touches (State.set_touches (.refl _ _) ?_) ?_)) ?_ ?_ ?_
  all_goals decide

theorem State.softReset_touches_resetTo (s : State) (kind : Nat) : Touches [.regs] (s.resetTo true) (s.softReset kind) := by
  refine State.set_touches (State.when_touches (fun y h => State.setB_touches (State.setB_touches h ?_) ?_)
    (State.inc_touches (State.set_touches (.refl _ _) ?_) ?_)) ?_
  all_goals decide

theorem State.moduleReset_serviceMayEnd (s : State) (kind : Nat) : ServiceMayEnd s (s.moduleReset kind) :=
  (s.resetTo_serviceMayEnd false).trans (.of_touches (s.moduleReset_touches_resetTo kind) rfl)

theorem State.softReset_serviceMayEnd (s : State) (kind : Nat) : ServiceMayEnd s (s.softReset kind) :=
  (s.resetTo_serviceMayEnd true).trans (.of_touches (s.softReset_touches_resetTo kind) rfl)

theorem State.resetCommand_serviceMayEnd (s : State) (m f : Bool) (confirm : Nat) :
    ServiceMayEnd s (s.resetCommand m f confirm) := by
  unfold State.resetCommand
  split
  · exact .of_mil rfl
  · split
    · exact s.moduleReset_serviceMayEnd 3
    · split
      · exact s.softReset_serviceMayEnd 4
      · exact .of_mil rfl

theorem State.powerOn_serviceMayEnd (s : State) (addr : Nat) (low : Bool) : ServiceMayEnd s (s.powerOn addr low) := by
  obtain ⟨x, frame, hfused, hservice, -, -⟩ := s.powerOn_startsAfresh addr low
  have same : (s.powerOn addr low).mil = x.mil := frame.same .mil (by decide)
  exact ⟨by rw [same, hfused], .inr (by rw [same, hservice])⟩

/-- The pin RESET_N is released: the module is held no more. -/
def State.resetReleased (s : State) : State :=
  { s with
    pins := { s.pins with releasedAt := tabPut s.pins.releasedAt 0 (s.frc + 1) }
    boot := { s.boot with held := false, cold := false } }

theorem State.mil_resetReleased (s : State) : s.resetReleased.mil = s.mil := rfl

/-- The end of a module reset by RESET_N: a power-on that was held goes on, or the module resets. -/
def State.resetGoesOn (s : State) : State := if s.boot.cold then s.resetReleased.bootOn else s.resetReleased.moduleReset 1

theorem State.resetRelease_eq {s : State} (h : s.boot.held = true) :
    s.resetRelease = (s.resetGoesOn.setB GLB.PIN_LEVEL false 0).when (s.flag GLB.PIN_STUCK 0) (fun y =>
      (y.setB GLB.PIN_STUCK false 0).fault srcResetStuck 0
        (satTo 0xFFFFFFFF ((y.frc - (tabGet 0 s.pins.acceptedAt 0 - 1)) / ticksPerMs))) := by
  simp only [State.resetRelease, h, Bool.not_true, Bool.false_eq_true, if_false]
  rfl

/-- Of the state, the release changes the pin's registers and reports beyond the reset itself. -/
theorem State.resetRelease_touches_resetGoesOn {s : State} (h : s.boot.held = true) :
    Touches [.regs, .flt] s.resetGoesOn s.resetRelease := by
  rw [State.resetRelease_eq h]
  refine State.when_touches (fun y k => State.fault_touches (State.setB_touches k ?_) ?_) (State.setB_touches (.refl _ _) ?_)
  all_goals decide

theorem State.resetRelease_writes_resetGoesOn {s : State} (h : s.boot.held = true) :
    Writes [4881, 4882] s.resetGoesOn s.resetRelease := by
  have all := List.Subset.refl [4881, 4882]
  rw [State.resetRelease_eq h]
  exact State.when_writes (fun y k => State.fault_writes (State.setB_writes .GLB_PIN_STUCK k)) (State.setB_writes .GLB_PIN_LEVEL (.refl _ _))

theorem State.resetRelease_of_notHeld {s : State} (h : s.boot.held = false) : s.resetRelease = s := by
  simp [State.resetRelease, h]

theorem State.resetGoesOn_serviceMayEnd (s : State) : ServiceMayEnd s s.resetGoesOn := by
  have released := ServiceMayEnd.of_mil s.mil_resetReleased
  unfold State.resetGoesOn
  split
  · refine released.trans (.of_touches (ps := [.regs, .img, .boot]) (State.bootOn_touches (.refl _ _) ?_ ?_ ?_) rfl) <;> decide
  · exact released.trans (State.moduleReset_serviceMayEnd _ 1)

theorem State.resetRelease_serviceMayEnd (s : State) : ServiceMayEnd s s.resetRelease := by
  cases h : s.boot.held with
  | false => rw [State.resetRelease_of_notHeld h]; exact .of_mil rfl
  | true => exact s.resetGoesOn_serviceMayEnd.trans (.of_touches (State.resetRelease_touches_resetGoesOn h) rfl)

/-! ### Host writes (R438) -/

/-- A word above the GLB block sets off no reset. -/
theorem State.wordAct_touches_of_notGlb {s o : State} {w v : Nat} (h : 0x100000 ≤ w) :
    Touches (allBut [.mil]) s (s.wordAct o w v) := by
  have start := Touches.refl (allBut [.mil]) s
  rw [State.wordAct, if_neg (by omega)]
  split
  · refine State.actImage_touches start ?_ ?_ ?_ ?_ ?_ ?_ ?_ ?_ ?_ ?_ ?_ ?_ ?_ <;> decide
  split
  · exact start
  split
  · refine State.actPort_touches start ?_ ?_ ?_ ?_ ?_ ?_ ?_ ?_ ?_ ?_ <;> decide
  split
  · exact start
  split
  · refine State.actLookup_touches start ?_ ?_ ?_ ?_ ?_ ?_ ?_ <;> decide
  split
  · exact start
  split
  · refine State.actQueues_touches start ?_ ?_ ?_ ?_ ?_ ?_ ?_ ?_ ?_ <;> decide
  split
  · refine State.actTime_touches start ?_ ?_ ?_ ?_ ?_ ?_ ?_ ?_ ?_ ?_ <;> decide
  split
  · refine State.actTele_touches start ?_ ?_ ?_ ?_ <;> decide
  split
  · refine State.actHost_touches start ?_ ?_ ?_ <;> decide
  split
  · refine State.actPower_touches start ?_ ?_ ?_ ?_ ?_ <;> decide
  · refine State.actFault_touches start ?_ ?_ ?_ ?_ ?_ ?_ ?_ ?_ ?_ ?_ ?_ ?_ <;> decide

/-- In the GLB block, the write of GLB_RESET_CMD alone resets. -/
theorem State.actGlb_serviceMayEnd (s : State) (w v : Nat) : ServiceMayEnd s (s.actGlb w v) := by
  have start := Touches.refl (allBut [.mil]) s
  unfold State.actGlb
  split
  · exact s.resetCommand_serviceMayEnd _ _ _
  split
  · refine .of_touches (ps := allBut [.mil]) (State.when_touches (fun y h => ?_) (State.when_touches (fun y h => ?_) start)) rfl
    · refine State.portGo_touches h ?_ ?_ ?_ ?_ ?_ ?_ ?_ ?_ ?_ ?_ ?_ <;> decide
    · refine State.pipeGo_touches h ?_ ?_ ?_ ?_ ?_ ?_ ?_ ?_ ?_ ?_ ?_ <;> decide
  split
  · refine .of_touches (ps := allBut [.mil]) ?_ rfl
    refine State.intEnWrite_touches start ?_ ?_ ?_ <;> decide
  · exact .of_mil rfl

theorem State.wordAct_serviceMayEnd (s o : State) (w v : Nat) : ServiceMayEnd s (s.wordAct o w v) := by
  by_cases h : w < 0x100000
  · rw [State.wordAct, if_pos h]
    exact s.actGlb_serviceMayEnd w v
  · exact .of_touches (State.wordAct_touches_of_notGlb (Nat.le_of_not_lt h)) rfl

/-- What a write stores in a word of a 64-bit register, or in any other. -/
theorem State.wordFields_touches (s : State) (w v : Nat) :
    Touches (allBut [.mil]) s (match wideHit w with | some h => s.wideWrite h w v | none => s.narrowWrite w v) := by
  split
  · refine State.wideWrite_touches (.refl _ s) ?_ ?_ ?_ ?_ ?_ ?_ ?_ ?_ ?_ ?_ ?_ ?_ <;> decide
  · refine State.narrowWrite_touches (.refl _ s) ?_ ?_ ?_ <;> decide

theorem State.wordStore_serviceMayEnd (s : State) (w v : Nat) : ServiceMayEnd s (s.wordStore w v) := by
  have fields : ServiceMayEnd s (match wideHit w with | some h => s.wideWrite h w v | none => s.narrowWrite w v) :=
    .of_touches (s.wordFields_touches w v) rfl
  unfold State.wordStore
  split
  · split
    · exact .of_mil rfl
    · exact fields
  · refine .of_touches (ps := allBut [.mil]) ?_ rfl
    refine shadowWord_touches (.refl _ s) ?_ ?_ <;> decide
  · split
    · refine .of_touches (ps := allBut [.mil]) ?_ rfl
      refine State.wideWrite_touches (.refl _ s) ?_ ?_ ?_ ?_ ?_ ?_ ?_ ?_ ?_ ?_ ?_ ?_ <;> decide
    · split
      · exact .of_mil rfl
      · refine ServiceMayEnd.trans (.of_touches (ps := allBut [.mil]) ?_ rfl) (State.wordAct_serviceMayEnd _ s w v)
        exact State.narrowWrite_touches (State.chkRise_touches (.refl _ s) (by decide)) (by decide) (by decide) (by decide)

theorem State.hostWrite_serviceMayEnd (s : State) (w v : Nat) : ServiceMayEnd s (s.hostWrite w v) := by
  unfold State.hostWrite
  split
  · exact s.wordStore_serviceMayEnd w v
  · exact .of_mil rfl

theorem State.busWrite_serviceMayEnd (s : State) (b : Bar) (off v : Nat) : ServiceMayEnd s (s.busWrite b off v) := by
  have bad : ServiceMayEnd s s.badAccess := by
    refine .of_touches (ps := allBut [.mil]) ?_ rfl
    refine State.badAccess_touches (.refl _ s) ?_ ?_ ?_ ?_ ?_ <;> decide
  cases b with
  | bar0 =>
    unfold State.busWrite
    dsimp only
    split
    · exact s.hostWrite_serviceMayEnd off v
    · exact bad
  | bar2 =>
    refine .of_touches (ps := allBut [.mil]) ?_ rfl
    refine State.bezelWrite_touches (.refl _ s) ?_ ?_ ?_ ?_ ?_ ?_ ?_ ?_ ?_ ?_ <;> decide
  | bar4 =>
    unfold State.busWrite
    dsimp only
    split
    · refine .of_touches (ps := allBut [.mil]) ?_ rfl
      refine State.msixWrite_touches (.refl _ s) ?_ ?_ <;> decide
    · exact bad
  | cfg =>
    unfold State.busWrite
    dsimp only
    split
    · refine .of_touches (ps := allBut [.mil]) ?_ rfl
      refine State.cfgWrite_touches (.refl _ s) ?_ ?_ ?_ ?_ ?_ <;> decide
    · exact .of_mil rfl


end Sys2Proof.Machine
end

section
/-!
Proofs of O10, O37 and O38: Milest's commands (R407 to R416, R425).
-/
namespace Sys2Proof.Machine
open Reg

/-- A host write that reaches its block answers the state after its effect. -/
theorem next_viaHost {s : State} {f : Fld} {g : State → State} (h : s.regOpen f.off = true) :
    (.next (s.viaHost f g) : Result) = .next (g s) := congrArg _ (viaHost_open h)

/-! ### The end of a command (R425) -/

/-- What the end of a command shows and reports, before the nonce is renewed. -/
def State.milestShow (s : State) (result code : Nat) : State :=
  ((((s.set MIL.RESULT result).set MIL.LAST_COMMAND code).event MIL.DONE 0 true sumMilest).when
    ([2, 3, 5, 6, 7].contains result) (fun s => s.fault srcMilest)).when (result == 0x0A) (fun s => s.fault srcFuse)

theorem State.milestEnd_eq (s : State) (result code : Nat) : s.milestEnd result code = (s.milestShow result code).freshNonce := rfl

theorem State.milestShow_touches (s : State) (result code : Nat) :
    Touches [.regs, .outbox, .flt, .host] s (s.milestShow result code) := by
  refine State.when_touches (fun y h => State.fault_touches h ?_) (State.when_touches (fun y h => State.fault_touches h ?_)
    (State.event_touches (State.set_touches (State.set_touches (.refl _ s) ?_) ?_) ?_ ?_ ?_))
  all_goals decide

/-- The end of a command changes of Milest's state the nonce alone. -/
theorem State.mil_milestEnd (s : State) (result code : Nat) :
    (s.milestEnd result code).mil = { s.mil with nonce := (Config.freeNonce s.draws).toNat % 2 ^ 128 } := by
  have shown := s.milestShow_touches result code
  have mil : (s.milestShow result code).mil = s.mil := shown.same_of_not_contains (p := .mil) rfl
  have draws : (s.milestShow result code).draws = s.draws := shown.same_of_not_contains (p := .draws) rfl
  rw [State.milestEnd_eq, State.freshNonce, mil, draws]
  rfl

theorem State.fused_milestEnd (s : State) (result code : Nat) : (s.milestEnd result code).mil.fused = s.mil.fused := by
  rw [State.mil_milestEnd]

theorem State.service_milestEnd (s : State) (result code : Nat) : (s.milestEnd result code).mil.service = s.mil.service := by
  rw [State.mil_milestEnd]

/-- Of a command's end, a field apart from DONE and PENDING shows what RESULT and LAST_COMMAND were set to. -/
theorem State.get_milestEnd {s : State} {result code : Nat} {g : Fld} (h : g.apart MIL.DONE = true)
    (hp : g.apart GLB.PENDING = true) (hg : g.Inst 0 0) :
    (s.milestEnd result code).get g = ((s.set MIL.RESULT result).set MIL.LAST_COMMAND code).get g := by
  rw [State.milestEnd_eq]
  refine Eq.trans (b := (s.milestShow result code).get g) rfl ?_
  rw [State.milestShow, State.get_when_of (State.get_fault _ _ _ _ _ _ _), State.get_when_of (State.get_fault _ _ _ _ _ _ _)]
  exact State.get_event_of_ne (Fld.key_ne_of_apart h hg) (Fld.key_ne_of_apart hp hg)

theorem State.get_RESULT_milestEnd {s : State} {result code : Nat} (h : result < 256) :
    (s.milestEnd result code).get MIL.RESULT = result := by
  rw [State.get_milestEnd (by decide) (by decide) (by decide), State.get_set_of_apart (by decide) (by decide), State.get_set_self]
  exact Nat.mod_eq_of_lt h

theorem State.get_LAST_COMMAND_milestEnd {s : State} {result code : Nat} (h : code < 256) :
    (s.milestEnd result code).get MIL.LAST_COMMAND = code := by
  rw [State.get_milestEnd (by decide) (by decide) (by decide), State.get_set_self]
  exact Nat.mod_eq_of_lt h

/-! ### A command's block (R412, R413) -/

/-- A row of the table takes the blocks that name it, and those that name no row. -/
theorem State.milestRow_of_named {s : State} {code : Nat} {b : List Byte} {ok : Bool}
    (h : b.length < 256 ∨ blkCommand b = code ∨ inRange 1 8 (blkCommand b) = false) : s.milestRow code b ok = s.milest b ok := by
  rw [State.milestRow, if_pos]
  simpa [or_assoc] using h

theorem State.milest_of_refused {s : State} {b : List Byte} (ok : Bool) (h : s.milestCheck b ≠ 0) :
    s.milest b ok = s.milestEnd (s.milestCheck b) (blkCommand b) := by
  simp [State.milest, h]

theorem State.milest_of_unverified {s : State} {b : List Byte} (h : s.milestCheck b = 0) (hc : blkCommand b ≠ 4) :
    s.milest b false = s.milestEnd 0x0A (blkCommand b) := by
  simp [State.milest, h, hc]

theorem State.milest_of_good {s : State} {b : List Byte} {ok : Bool} (h : s.milestCheck b = 0) (hok : ok = true ∨ blkCommand b = 4) :
    s.milest b ok = (s.milestEffect (blkCommand b) b).milestEnd 0 (blkCommand b) := by
  obtain rfl | hc := hok
  · simp [State.milest, h]
  · simp [State.milest, h, hc]

/-- What a block that passes has shown: it is whole, names a row, and the row allows the life-cycle state. -/
theorem State.milestCheck_passed {s : State} {b : List Byte} (h : s.milestCheck b = 0) :
    256 ≤ b.length ∧ 1 ≤ blkCommand b ∧ blkCommand b ≤ 7 ∧ commandAllowed (blkCommand b) s.lcState = true := by
  unfold State.milestCheck at h
  dsimp only at h
  split at h
  · cases h
  next whole =>
  split at h
  · cases h
  next named =>
  split at h
  · cases h
  split at h
  · cases h
  split at h
  · cases h
  next allowed =>
  simp only [Bool.or_eq_true, decide_eq_true_eq, beq_iff_eq, not_or] at whole named
  simp only [Bool.not_eq_true', Bool.not_eq_false] at allowed
  exact ⟨by omega, by omega, by omega, allowed⟩

theorem State.milestCheck_le (s : State) (b : List Byte) : s.milestCheck b ≤ 9 := by
  unfold State.milestCheck
  dsimp only
  repeat' split
  all_goals decide

/-- What a row may make of a block: nothing, a refusal, or the row's effect. -/
theorem State.milestRow_cases (s : State) (code : Nat) (b : List Byte) (ok : Bool) (t : State)
    (h : s.viaHost MIL.GO (fun s => s.milestRow code b ok) = t) :
    t = s ∨ (∃ r c, t = s.milestEnd r c) ∨
      (s.milestCheck b = 0 ∧ blkCommand b = code ∧ t = (s.milestEffect code b).milestEnd 0 code) := by
  subst h
  unfold State.viaHost State.milestRow
  split
  swap
  · exact .inl rfl
  split
  swap
  · exact .inl rfl
  next named =>
  by_cases passed : s.milestCheck b = 0
  swap
  · exact .inr (.inl ⟨_, _, State.milest_of_refused ok passed⟩)
  obtain ⟨whole, low, high, -⟩ := State.milestCheck_passed passed
  have code_eq : blkCommand b = code := by
    simp only [Bool.or_eq_true, decide_eq_true_eq, inRange, Bool.not_eq_true', Bool.and_eq_false_iff, decide_eq_false_iff_not] at named
    omega
  by_cases done : ok = true ∨ blkCommand b = 4
  · exact .inr (.inr ⟨passed, code_eq, code_eq ▸ State.milest_of_good passed done⟩)
  · obtain ⟨hok, hc⟩ := not_or.mp done
    obtain rfl := Bool.eq_false_of_not_eq_true hok
    exact .inr (.inl ⟨_, _, State.milest_of_unverified passed hc⟩)

/-! ### The effects (R413 to R416) -/

/-- Stopping the traffic and zeroing the memories is none of Milest's. -/
theorem State.mil_stopTraffic (s : State) : s.stopTraffic.mil = s.mil := by
  refine Touches.same_of_not_contains (ps := allBut [.mil]) (p := .mil) ?_ rfl
  refine State.stopTraffic_touches (.refl _ s) ?_ ?_ ?_ ?_ ?_ ?_ ?_ ?_ ?_ ?_ ?_ <;> decide

/-- The state in which ENTER_SERVICE and RETIRE set their fuses: the traffic stopped, the memories zeroed (R414). -/
def State.stoppedAndZeroed (s : State) : State := s.stopTraffic.zeroMemories

theorem State.zeroMemories_frame (s : State) : Touches [.dev, .flt, .tele] s s.zeroMemories :=
  State.zeroMemories_touches (.refl _ s) (by decide) (by decide) (by decide)

theorem State.mil_stoppedAndZeroed (s : State) : s.stoppedAndZeroed.mil = s.mil := by
  have zeroed : s.stoppedAndZeroed.mil = s.stopTraffic.mil := s.stopTraffic.zeroMemories_frame.same_of_not_contains (p := .mil) rfl
  rw [zeroed, s.mil_stopTraffic]

/-- No port that ENTER_SERVICE leaves has ADMIN_UP set. -/
def State.portsDown (s : State) : State := s.portList.foldl (fun s p => s.setB PORT.ADMIN_UP false p) s

theorem State.portsDown_touches (s : State) : Touches [.regs] s s.portsDown :=
  Touches.foldl (fun _ _ h => State.setB_touches h (by decide)) (.refl _ s)

theorem State.milestEffect_enterService (s : State) (b : List Byte) :
    s.milestEffect 4 b = { s.stoppedAndZeroed.portsDown with mil := { s.stoppedAndZeroed.portsDown.mil with service := true } } := by
  unfold State.milestEffect State.stoppedAndZeroed State.portsDown
  rfl

theorem State.milestEffect_retire (s : State) (b : List Byte) :
    s.milestEffect 7 b = State.setB { (s.stoppedAndZeroed.setB FLT.MODULE_SAFE true).imgUnload with
      mil := { (s.stoppedAndZeroed.setB FLT.MODULE_SAFE true).imgUnload.mil with
        fused := .retired, service := false, idKey := none, imageKey := none } } CORE.LOOP_EN true := by
  unfold State.milestEffect State.stoppedAndZeroed
  rfl

/-- ENTER_SERVICE sets the bit that says that SERVICE stands, and nothing else of Milest's. -/
theorem State.mil_milestEffect_enterService (s : State) (b : List Byte) :
    (s.milestEffect 4 b).mil = { s.mil with service := true } := by
  have down : s.stoppedAndZeroed.portsDown.mil = s.stoppedAndZeroed.mil :=
    (State.portsDown_touches _).same_of_not_contains (p := .mil) rfl
  rw [State.milestEffect_enterService, down, State.mil_stoppedAndZeroed]

/-- RETIRE fuses RETIRED and destroys the identity and the image key (R410). -/
theorem State.mil_milestEffect_retire (s : State) (b : List Byte) :
    (s.milestEffect 7 b).mil = { s.mil with fused := .retired, service := false, idKey := none, imageKey := none } := by
  have unloaded : (s.stoppedAndZeroed.setB FLT.MODULE_SAFE true).imgUnload.mil = s.stoppedAndZeroed.mil :=
    (State.imgUnload_touches (ps := [.regs, .time, .core, .img]) (State.setB_touches (.refl _ _) (by decide)) (by decide) (by decide)
      (by decide) (by decide)).same_of_not_contains (p := .mil) rfl
  rw [State.milestEffect_retire, State.setB, State.set_mil, unloaded, State.mil_stoppedAndZeroed]

/-! ### O10: the paths of the life cycle (R408) -/

/-- The life-cycle state of fuses under SERVICE. -/
theorem State.lcState_of_fuses {s t : State} (hf : t.mil.fused = s.mil.fused) (hs : t.mil.service = s.mil.service) :
    t.lcState = s.lcState := by
  rw [State.lcState, State.lcState, hf, hs]

/-- A command follows the paths of R408, and SERVICE stands only over FIELD after it. -/
abbrev FollowsPaths (c : Instr) (s t : State) : Prop :=
  ServiceInv t ∧
    (t.lcState = s.lcState ∨
     (s.lcState = lcManufacture ∧ t.lcState = lcField ∧ ∃ b ok, c = .enterField b ok) ∨
     (s.lcState = lcField ∧ t.lcState = lcService ∧ ∃ b, c = .enterService b) ∨
     (s.lcState = lcService ∧ t.lcState = lcField ∧ mayReset c = true) ∨
     (s.lcState ≠ lcRetired ∧ t.lcState = lcRetired ∧ ∃ b ok, c = .retire b ok))

theorem FollowsPaths.of_fuses {c : Instr} {s t : State} (inv : ServiceInv s) (hf : t.mil.fused = s.mil.fused)
    (hs : t.mil.service = s.mil.service) : FollowsPaths c s t :=
  ⟨fun h => hf.trans (inv (hs.symm.trans h)), .inl (State.lcState_of_fuses hf hs)⟩

theorem FollowsPaths.of_mil {c : Instr} {s t : State} (inv : ServiceInv s) (h : t.mil = s.mil) : FollowsPaths c s t :=
  .of_fuses inv (congrArg _ h) (congrArg _ h)

/-- Where a reset may end SERVICE, the fused FIELD state shows again. -/
theorem FollowsPaths.of_serviceMayEnd {c : Instr} {s t : State} (inv : ServiceInv s) (hc : mayReset c = true)
    (h : ServiceMayEnd s t) : FollowsPaths c s t := by
  obtain ⟨hf, hs | hs⟩ := h
  · exact .of_fuses inv hf hs
  refine ⟨fun e => absurd (hs.symm.trans e) (by decide), ?_⟩
  cases service : s.mil.service with
  | false => exact .inl (State.lcState_of_fuses hf (hs.trans service.symm))
  | true =>
    have field := inv service
    exact .inr (.inr (.inr (.inl ⟨by simp [State.lcState, service, lcService], by simp [State.lcState, hs, hf, field, LifeFuse.code, lcField], hc⟩)))

/-- A row whose effect follows the paths follows them, whatever its block. -/
theorem FollowsPaths.of_milestRow {c : Instr} {s t : State} {code : Nat} {b : List Byte} {ok : Bool} (inv : ServiceInv s)
    (h : s.viaHost MIL.GO (fun s => s.milestRow code b ok) = t)
    (effect : commandAllowed code s.lcState = true → ∀ u : State, u.mil.fused = (s.milestEffect code b).mil.fused →
      u.mil.service = (s.milestEffect code b).mil.service → FollowsPaths c s u) : FollowsPaths c s t := by
  obtain rfl | ⟨r, k, rfl⟩ | ⟨passed, rfl, rfl⟩ := State.milestRow_cases s code b ok t h
  · exact .of_mil inv rfl
  · exact .of_fuses inv (s.fused_milestEnd r k) (s.service_milestEnd r k)
  · obtain ⟨-, -, -, allowed⟩ := State.milestCheck_passed passed
    exact effect allowed _ (State.fused_milestEnd _ _ _) (State.service_milestEnd _ _ _)


/-- The state that `commandAllowed` reads in, from the fuses. -/
theorem State.lcState_of_service {s : State} (h : s.mil.service = true) : s.lcState = lcService := by
  simp [State.lcState, h, lcService]

theorem State.lcState_of_noService {s : State} (h : s.mil.service = false) : s.lcState = s.mil.fused.code := by
  simp [State.lcState, h]

/-- SERVICE does not stand where the state is another. -/
theorem State.noService_of_lcState {s : State} (h : s.lcState ≠ lcService) : s.mil.service = false := by
  cases hs : s.mil.service with
  | false => rfl
  | true => exact absurd (State.lcState_of_service hs) h

theorem followsPaths_enterField {s t : State} {b : List Byte} {ok : Bool} (inv : ServiceInv s)
    (h : s.viaHost MIL.GO (fun s => s.milestRow 3 b ok) = t) : FollowsPaths (.enterField b ok) s t := by
  refine .of_milestRow inv h fun allowed u hf hs => ?_
  have manufacture : s.lcState = lcManufacture := by simpa [commandAllowed] using allowed
  have closed : u.mil.service = false :=
    hs.trans (State.noService_of_lcState (s := s) (by rw [manufacture]; decide))
  exact ⟨fun e => absurd (closed.symm.trans e) (by decide),
    .inr (.inl ⟨manufacture, by rw [State.lcState_of_noService closed, hf]; rfl, b, ok, rfl⟩)⟩

theorem followsPaths_enterService {s t : State} {b : List Byte} (inv : ServiceInv s)
    (h : s.viaHost MIL.GO (fun s => s.milestRow 4 b true) = t) : FollowsPaths (.enterService b) s t := by
  refine .of_milestRow inv h fun allowed u hf hs => ?_
  rw [State.mil_milestEffect_enterService] at hf hs
  have field : s.lcState = lcField := by simpa [commandAllowed] using allowed
  have fused : s.mil.fused = .field := by
    have code := (State.lcState_of_noService (State.noService_of_lcState (s := s) (by rw [field]; decide))).symm.trans field
    cases e : s.mil.fused with
    | field => rfl
    | manufacture => exact absurd (e ▸ code) (by decide)
    | retired => exact absurd (e ▸ code) (by decide)
  exact ⟨fun _ => hf.trans fused, .inr (.inr (.inl ⟨field, State.lcState_of_service hs, b, rfl⟩))⟩

theorem followsPaths_retire {s t : State} {b : List Byte} {ok : Bool} (inv : ServiceInv s)
    (h : s.viaHost MIL.GO (fun s => s.milestRow 7 b ok) = t) : FollowsPaths (.retire b ok) s t := by
  refine .of_milestRow inv h fun allowed u hf hs => ?_
  rw [State.mil_milestEffect_retire] at hf hs
  have standing : s.lcState ≠ lcRetired := by simpa [commandAllowed] using allowed
  have closed : u.mil.service = false := hs
  exact ⟨fun e => absurd (closed.symm.trans e) (by decide),
    .inr (.inr (.inr (.inr ⟨standing, by rw [State.lcState_of_noService closed, hf]; rfl, b, ok, rfl⟩)))⟩

/-- An answer of the attestation leaves the fuses alone. -/
theorem followsPaths_spdmAnswer {c : Instr} {s : State} {need : Nat} {retired : Bool} {f : State → State} (inv : ServiceInv s)
    (hf : (f s).mil.fused = s.mil.fused) (hs : (f s).mil.service = s.mil.service) :
    FollowsPaths c s (s.spdmAnswer need retired f) := by
  unfold State.spdmAnswer
  split
  · exact .of_mil inv rfl
  split
  · exact .of_mil inv rfl
  split
  · exact .of_mil inv rfl
  · exact .of_fuses inv hf hs


/-- A command that may reset the module may end SERVICE, and does no more to the life cycle. -/
theorem exec_serviceMayEnd {c : Instr} {s t : State} (hc : mayReset c = true) (h : exec c s = .next t) : ServiceMayEnd s t := by
  have same := ServiceMayEnd.of_mil (s := s) (t := s) rfl
  have viaHost : ∀ {f : Fld} {g : State → State}, ServiceMayEnd s (g s) → ServiceMayEnd s (s.viaHost f g) := fun hg => by
    unfold State.viaHost
    split
    · exact hg
    · exact same
  cases c
  case regWrite b off v => exact Host.Outcome.next.inj h ▸ s.busWrite_serviceMayEnd b off.toNat v.toNat
  case highWordWrite off v => exact Host.Outcome.next.inj h ▸ s.busWrite_serviceMayEnd .bar0 off.toNat v.toNat
  case powerOn addr low => exact Host.Outcome.next.inj h ▸ s.powerOn_serviceMayEnd addr.toNat low
  case resetNRelease => exact Host.Outcome.next.inj h ▸ s.resetRelease_serviceMayEnd
  case moduleReset confirm => exact Host.Outcome.next.inj h ▸ viaHost (s.resetCommand_serviceMayEnd true false confirm.toNat)
  case softReset confirm => exact Host.Outcome.next.inj h ▸ viaHost (s.resetCommand_serviceMayEnd false true confirm.toNat)
  case smbWrite off v pecOk =>
    refine Host.Outcome.next.inj h ▸ State.when_cases (P := ServiceMayEnd s) _ _ _ same fun _ => ?_
    unfold State.smbWrite
    split
    · exact .of_mil rfl
    · have answered : ServiceMayEnd s (s.emit (.smb [])) := .of_mil rfl
      exact answered.trans ((s.emit (.smb [])).hostWrite_serviceMayEnd off.toNat v.toNat)
  case autoReset =>
    refine Host.Outcome.next.inj h ▸ ?_
    unfold State.autoReset
    split
    · split
      · exact s.moduleReset_serviceMayEnd 2
      · exact same
    · exact same
  case powerRecovery =>
    refine Host.Outcome.next.inj h ▸ ?_
    unfold State.powerRecovery
    exact State.when_cases (P := ServiceMayEnd s) _ _ _ same fun _ => s.softReset_serviceMayEnd 5
  all_goals exact nomatch hc

/-- Milest's row of a command whose effect leaves the life cycle alone. -/
theorem followsPaths_fuseRow {c : Instr} {s t : State} {code : Nat} {b : List Byte} {ok : Bool} (inv : ServiceInv s)
    (h : s.viaHost MIL.GO (fun s => s.milestRow code b ok) = t) (hf : (s.milestEffect code b).mil.fused = s.mil.fused)
    (hs : (s.milestEffect code b).mil.service = s.mil.service) : FollowsPaths c s t :=
  .of_milestRow inv h fun _ _ ef es => .of_fuses inv (ef.trans hf) (es.trans hs)

/-- Every command follows the paths: Milest's rows by their effects, resets because they end SERVICE, the attestation because it
changes its own progress alone, and the others because they leave Milest's state alone. -/
theorem exec_followsPaths (c : Instr) (s t : State) (inv : ServiceInv s) (h : exec c s = .next t) : FollowsPaths c s t := by
  by_cases reset : mayReset c = true
  · exact .of_serviceMayEnd inv reset (exec_serviceMayEnd reset h)
  by_cases other : (touchedBy c).contains .mil = false
  · exact .of_mil inv ((exec_touches h).same_of_not_contains (p := .mil) other)
  cases c
  case fuseSlot b ok => exact followsPaths_fuseRow inv (Host.Outcome.next.inj h) rfl rfl
  case fuseImageKey b ok => exact followsPaths_fuseRow inv (Host.Outcome.next.inj h) rfl rfl
  case enterField b ok => exact followsPaths_enterField inv (Host.Outcome.next.inj h)
  case enterService b => exact followsPaths_enterService inv (Host.Outcome.next.inj h)
  case revokeSlot b ok => exact followsPaths_fuseRow inv (Host.Outcome.next.inj h) rfl rfl
  case raiseFloor b ok => exact followsPaths_fuseRow inv (Host.Outcome.next.inj h) rfl rfl
  case retire b ok => exact followsPaths_retire inv (Host.Outcome.next.inj h)
  case getVersion => exact Host.Outcome.next.inj h ▸ followsPaths_spdmAnswer inv rfl rfl
  case getCapabilities => exact Host.Outcome.next.inj h ▸ followsPaths_spdmAnswer inv rfl rfl
  case negotiateAlgorithms => exact Host.Outcome.next.inj h ▸ followsPaths_spdmAnswer inv rfl rfl
  all_goals first
    | exact absurd rfl reset
    | exact absurd rfl other

/-- Settles O10: the state before power-on is written out in its definition, and every command follows the paths. -/
theorem lifeCycleFollowsItsPaths : Obligations.LifeCycleFollowsItsPaths := by
  unfold Obligations.LifeCycleFollowsItsPaths
  exact ⟨⟨rfl, rfl, rfl, rfl⟩, exec_followsPaths⟩


/-! ### O37 and O38 -/

/-- A row's command with a block of its own answers what the block's checks and its fuses make of it. -/
theorem completes_milestRow {c : Instr} {s : State} {code : Nat} {b : List Byte} {ok : Bool} {P : State → Prop}
    (hc : exec c s = .next (s.viaHost MIL.GO (fun s => s.milestRow code b ok))) (ho : s.regOpen MIL.GO.off = true)
    (named : b.length < 256 ∨ blkCommand b = code ∨ inRange 1 8 (blkCommand b) = false) (h : P (s.milest b ok)) : Completes c s P :=
  ⟨s.milest b ok, by rw [hc, next_viaHost ho, State.milestRow_of_named named], h⟩

/-- A block that fails, or fuses that do not verify: the result is shown, and only the nonce is another. -/
theorem State.milest_of_failed {s : State} {b : List Byte} {ok : Bool} {r : Nat}
    (hr : r = if s.milestCheck b ≠ 0 then s.milestCheck b else 0x0A) (h : s.milestCheck b ≠ 0 ∨ (ok = false ∧ blkCommand b ≠ 4)) :
    (s.milest b ok).get MIL.RESULT = r ∧
      (s.milest b ok).mil = { s.mil with nonce := (Config.freeNonce s.draws).toNat % 2 ^ 128 } := by
  have ended : s.milest b ok = s.milestEnd r (blkCommand b) := by
    by_cases passed : s.milestCheck b = 0
    · obtain ⟨rfl, hc⟩ := h.resolve_left (not_not_intro passed)
      rw [State.milest_of_unverified passed hc, hr, if_neg (not_not_intro passed)]
    · rw [State.milest_of_refused ok passed, hr, if_pos passed]
  have small : r < 256 := by
    have := s.milestCheck_le b
    rw [hr]
    split <;> omega
  rw [ended]
  exact ⟨State.get_RESULT_milestEnd small, s.mil_milestEnd r _⟩

/-- Settles O38: whichever check fails first, and whichever row is sent, the command ends with its result alone. -/
theorem milestFailureLeavesFuses : Obligations.MilestFailureLeavesFuses := by
  unfold Obligations.MilestFailureLeavesFuses
  intro s b ok r n ho hr hfail hn
  subst hn
  have row : ∀ code, code ≠ 4 → b.length < 256 ∨ blkCommand b = code ∨ inRange 1 8 (blkCommand b) = false →
      s.milestCheck b ≠ 0 ∨ (ok = false ∧ blkCommand b ≠ 4) := by
    intro code hc named
    by_cases passed : s.milestCheck b = 0
    · obtain ⟨whole, low, high, -⟩ := State.milestCheck_passed passed
      refine .inr ⟨hfail.resolve_left (not_not_intro passed), ?_⟩
      simp only [inRange, Bool.and_eq_false_iff, decide_eq_false_iff_not] at named
      omega
    · exact .inl passed
  refine ⟨fun named => ?_, fun named => ?_, fun named => ?_, fun named => ?_, fun named => ?_, fun named => ?_, fun failed named => ?_⟩
  · exact completes_milestRow rfl ho named (State.milest_of_failed hr (row 1 (by decide) named))
  · exact completes_milestRow rfl ho named (State.milest_of_failed hr (row 2 (by decide) named))
  · exact completes_milestRow rfl ho named (State.milest_of_failed hr (row 3 (by decide) named))
  · exact completes_milestRow rfl ho named (State.milest_of_failed hr (row 5 (by decide) named))
  · exact completes_milestRow rfl ho named (State.milest_of_failed hr (row 6 (by decide) named))
  · exact completes_milestRow rfl ho named (State.milest_of_failed hr (row 7 (by decide) named))
  · exact completes_milestRow rfl ho named (State.milest_of_failed hr (.inl failed))

/-- A block that passes has its row's effect, and shows the result 0 and the command. -/
theorem completes_milestRow_of_good {c : Instr} {s : State} {code : Nat} {b : List Byte} {P : State → Prop}
    (hc : exec c s = .next (s.viaHost MIL.GO (fun s => s.milestRow code b true))) (ho : s.regOpen MIL.GO.off = true)
    (passed : s.milestCheck b = 0) (named : blkCommand b = code) (h : P ((s.milestEffect code b).milestEnd 0 code)) :
    Completes c s (fun t => t.get MIL.RESULT = 0 ∧ t.get MIL.LAST_COMMAND = code ∧ P t) := by
  obtain ⟨-, -, small, -⟩ := State.milestCheck_passed passed
  have ended := State.milest_of_good passed (ok := true) (.inl rfl)
  refine completes_milestRow hc ho (.inr (.inl named)) ?_
  rw [ended, named]
  exact ⟨State.get_RESULT_milestEnd (by decide), State.get_LAST_COMMAND_milestEnd (by omega), h⟩

/-- The end of a command leaves the device memory and the flow caches. -/
theorem State.milestEnd_frame (s : State) (result code : Nat) :
    (s.milestEnd result code).dev = s.dev ∧ (s.milestEnd result code).tele = s.tele :=
  have shown := s.milestShow_touches result code
  ⟨shown.same_of_not_contains (p := .dev) rfl, shown.same_of_not_contains (p := .tele) rfl⟩

/-- ENTER_FIELD locks the loop (R42), and the end of the command leaves it locked. -/
theorem State.flag_LOOP_EN_enterField (s : State) (b : List Byte) :
    ((s.milestEffect 3 b).milestEnd 0 3).flag CORE.LOOP_EN = true := by
  have kept : ((s.milestEffect 3 b).milestEnd 0 3).get CORE.LOOP_EN = (s.milestEffect 3 b).get CORE.LOOP_EN := by
    rw [State.get_milestEnd (by decide) (by decide) (by decide), State.get_set_of_apart (by decide) (by decide),
      State.get_set_of_apart (by decide) (by decide)]
  rw [State.flag, kept]
  exact State.flag_setB_self _ CORE.LOOP_EN true 0 0 (by decide)

/-- Zeroing the memories leaves no byte below the queue records (R414). -/
theorem State.memByte_zeroMemories (s : State) {a : Nat} (h : a < queueBase) : memByte s.zeroMemories.dev a = 0 := by
  have zeroed : s.zeroMemories.dev =
      (s.dev.filter fun c => !inRange 0 queueBase c.1).filter fun c => !inRange counterBase storeBase c.1 := rfl
  rw [zeroed, List.filter_filter]
  exact memByte_filter_of_dropped (by simp [inRange, h]) _

/-- ENTER_SERVICE leaves no flow and, below the queue records, no byte (R414). -/
theorem State.enterService_zeroes (s : State) (b : List Byte) :
    ((s.milestEffect 4 b).milestEnd 0 4).tele.flows = [] ∧
      ∀ a, a < queueBase → memByte ((s.milestEffect 4 b).milestEnd 0 4).dev a = 0 := by
  obtain ⟨dev, tele⟩ := (s.milestEffect 4 b).milestEnd_frame 0 4
  have down := s.stoppedAndZeroed.portsDown_touches
  rw [dev, tele, State.milestEffect_enterService, show s.stoppedAndZeroed.portsDown.dev = _ from down.same .dev (by decide),
    show s.stoppedAndZeroed.portsDown.tele = _ from down.same .tele (by decide)]
  exact ⟨rfl, fun a ha => s.stopTraffic.memByte_zeroMemories ha⟩

/-- Settles O37: each row's effect is what R413 to R416 say of it, and the end of a command adds its result and the nonce. -/
theorem milestCommandsTakeEffect : Obligations.MilestCommandsTakeEffect := by
  unfold Obligations.MilestCommandsTakeEffect
  intro s b n ho whole passed hn
  subst hn
  refine ⟨fun named => ?_, fun named => ?_, fun named => ?_, fun named => ?_, fun named => ?_, fun named => ?_, fun named => ?_⟩
  · exact completes_milestRow_of_good rfl ho passed named (State.mil_milestEnd _ _ _)
  · exact completes_milestRow_of_good rfl ho passed named (State.mil_milestEnd _ _ _)
  · exact completes_milestRow_of_good rfl ho passed named ⟨s.flag_LOOP_EN_enterField b, State.mil_milestEnd _ _ _⟩
  · refine completes_milestRow_of_good rfl ho passed named ⟨?_, s.enterService_zeroes b⟩
    exact State.lcState_of_service (by rw [State.service_milestEnd, State.mil_milestEffect_enterService])
  · exact completes_milestRow_of_good rfl ho passed named (State.mil_milestEnd _ _ _)
  · exact completes_milestRow_of_good rfl ho passed named (State.mil_milestEnd _ _ _)
  · refine completes_milestRow_of_good rfl ho passed named ?_
    rw [State.mil_milestEnd, State.mil_milestEffect_retire, State.lcState, State.mil_milestEnd, State.mil_milestEffect_retire]
    exact ⟨rfl, rfl, rfl, rfl⟩

end Sys2Proof.Machine
end

section
/-!
Proofs of O19, O39, O44, O48 and O49: Clasp, attestation, rail samples and the SMBus. What a bit of a number reads after bits of it have
been put stands first.
-/
namespace Sys2Proof.Machine
open Reg

/-! ### Bits of a number -/

/-- A bit of a number into which bits have been put is that of the bits put, where they lie, and the number's own elsewhere. -/
theorem bit_putBits (v lo wd x j : Nat) :
    bit (putBits v lo wd x) j = if lo ≤ j ∧ j < lo + wd then bit x (j - lo) else bit v j := by
  have low : v % 2 ^ lo < 2 ^ lo := Nat.mod_lt _ (Nat.two_pow_pos lo)
  have mid : x % 2 ^ wd < 2 ^ wd := Nat.mod_lt _ (Nat.two_pow_pos wd)
  have parts : 2 ^ lo * (2 ^ wd * (v / 2 ^ lo / 2 ^ wd)) + 2 ^ lo * (v / 2 ^ lo % 2 ^ wd) + v % 2 ^ lo = v := by
    rw [← Nat.mul_add, Nat.div_add_mod, Nat.div_add_mod]
  have put : putBits v lo wd x = 2 ^ lo * (2 ^ wd * (v / 2 ^ lo / 2 ^ wd) + x % 2 ^ wd) + v % 2 ^ lo := by
    rw [putBits, Nat.mul_add]
    omega
  rw [put, bit, bit, bit, Nat.testBit_two_pow_mul_add _ low, Nat.testBit_two_pow_mul_add _ mid]
  by_cases below : j < lo
  · simp [below, Nat.testBit_mod_two_pow]
  · by_cases inside : j - lo < wd
    · simp [below, inside, Nat.testBit_mod_two_pow, show lo ≤ j by omega, show j < lo + wd by omega]
    · simp only [below, inside, if_false, Nat.testBit_div_two_pow, show ¬ (lo ≤ j ∧ j < lo + wd) by omega]
      congr 1
      omega

theorem bit_bitSet (n k j : Nat) : bit (bitSet n k) j = (decide (j = k) || bit n j) := by
  rw [bitSet, bit_putBits]
  by_cases h : j = k
  · subst h
    simp [bit]
  · rw [if_neg (by omega), decide_eq_false h, Bool.false_or]

theorem bit_bitClear (n k j : Nat) : bit (bitClear n k) j = (decide (j ≠ k) && bit n j) := by
  rw [bitClear, bit_putBits]
  by_cases h : j = k
  · subst h
    simp [bit]
  · rw [if_neg (by omega), decide_eq_true h, Bool.true_and]

/-- A bit within a field reads what it was set to. -/
theorem bit_mod_two_pow {v w j : Nat} (h : j < w) : bit (v % 2 ^ w) j = bit v j := by
  simp [bit, Nat.testBit_mod_two_pow, h]

theorem State.bitOf_setBit_self {s : State} {f : Fld} {b i j : Nat} (h : b < f.wd) : (s.setBit f b i j).bitOf f b i j = true := by
  rw [State.bitOf, State.setBit, State.get_set_self, bit_mod_two_pow h, bit_bitSet_self]

theorem State.bitOf_clearBit_self {s : State} {f : Fld} {b i j : Nat} (h : b < f.wd) : (s.clearBit f b i j).bitOf f b i j = false := by
  rw [State.bitOf, State.clearBit, State.get_set_self, bit_mod_two_pow h, bit_bitClear]
  simp

/-! ### O19: Clasp (R154, R172) -/

/-- Setting a field changes its own register alone. -/
theorem State.set_regsSame (s : State) (f : Fld) (v i j : Nat) : RegsSame s (s.set f v i j) [f.key i j] := fun k hk =>
  tabFind_tabPut_of_ne _ _ _ _ (by simpa using hk)

theorem RegsSame.append {s t u : State} {ks ls : List Nat} (h : RegsSame s t ks) (k : RegsSame t u ls) : RegsSame s u (ks ++ ls) :=
  fun n hn => by
    rw [List.mem_append, not_or] at hn
    exact (k n hn.2).trans (h n hn.1)

theorem State.set_touchesRegs (s : State) (f : Fld) (v i j : Nat) : Touches [.regs] s (s.set f v i j) :=
  State.set_touches (.refl _ s) (by decide)

/-- A bit that is set: it reads 1, and its register alone changes. -/
theorem State.setBit_sets (s : State) (f : Fld) {b : Nat} (i : Nat) (h : b < f.wd) :
    Touches [.regs] s (s.setBit f b i) ∧ (s.setBit f b i).bitOf f b i = true ∧ RegsSame s (s.setBit f b i) [f.key i 0] :=
  ⟨s.set_touchesRegs _ _ _ _, State.bitOf_setBit_self h, s.set_regsSame _ _ _ _⟩

/-- Two bits of two registers that are cleared: they read 0, and their registers alone change. -/
theorem State.clearBits_clears (s : State) {f g : Fld} {b i : Nat} (hf : b < f.wd) (hg : b < g.wd) (apart : f.apart g = true)
    (hi : f.Inst i 0) :
    Touches [.regs] s ((s.clearBit f b i).clearBit g b i) ∧ ((s.clearBit f b i).clearBit g b i).bitOf f b i = false ∧
      ((s.clearBit f b i).clearBit g b i).bitOf g b i = false ∧
      RegsSame s ((s.clearBit f b i).clearBit g b i) [f.key i 0, g.key i 0] := by
  refine ⟨State.set_touches (s.set_touchesRegs _ _ _ _) (by decide), ?_, State.bitOf_clearBit_self hg,
    (s.set_regsSame _ _ _ _).append (State.set_regsSame _ _ _ _ _)⟩
  have kept : ((s.clearBit f b i).clearBit g b i).bitOf f b i = (s.clearBit f b i).bitOf f b i := by
    rw [State.bitOf, State.clearBit, State.get_set_of_apart apart hi, State.bitOf]
  rw [kept]
  exact State.bitOf_clearBit_self hf

/-- Settles O19: a request and a grant set one bit of one register each, and a release clears both. -/
theorem claspCommandsTakeEffect : Obligations.ClaspCommandsTakeEffect := by
  unfold Obligations.ClaspCommandsTakeEffect
  refine ⟨fun s r ho => ?_, fun s r hr => ?_, fun s r ho => ?_, fun s b ho => ?_, fun s b hb => ?_, fun s b ho => ?_⟩
  · exact ⟨_, next_viaHost ho, s.setBit_sets EM.REQ _ (Nat.mod_lt _ (by decide))⟩
  · exact ⟨_, congrArg Host.Outcome.next (if_pos hr), s.setBit_sets EM.HELD _ (Nat.mod_lt _ (by decide))⟩
  · exact ⟨_, next_viaHost ho, s.clearBits_clears (f := EM.REQ) (g := EM.HELD) (Nat.mod_lt _ (by decide)) (Nat.mod_lt _ (by decide))
      (by decide) ⟨Nat.div_lt_of_lt_mul r.isLt, by decide⟩⟩
  · exact ⟨_, next_viaHost ho, s.setBit_sets ASE.REQ _ (Nat.mod_lt _ (by decide))⟩
  · exact ⟨_, congrArg Host.Outcome.next (if_pos hb), s.setBit_sets ASE.HELD _ (Nat.mod_lt _ (by decide))⟩
  · exact ⟨_, next_viaHost ho, s.clearBits_clears (f := ASE.REQ) (g := ASE.HELD) (Nat.mod_lt _ (by decide))
      (Nat.mod_lt _ (by decide)) (by decide) ⟨Nat.div_lt_of_lt_mul b.isLt, by decide⟩⟩

/-! ### O48 and O49: the SMBus target (R455 to R457) -/

/-- What the SMBus target does, where the module is powered. -/
theorem next_smbLive {s : State} {f : State → State} (h : s.boot.powered = true) : (.next (s.smbLive f) : Result) = .next (f s) := by
  rw [State.smbLive, h, State.when_true]

/-- Whether the alert is asserted reads from the registers alone. -/
theorem State.smbAlert_congr {s t : State} (h : t.regs = s.regs) : t.smbAlert = s.smbAlert := by
  simp only [State.smbAlert, State.flag, State.get_congr_regs h]

/-- Settles O48: the alert is the disjunction of its four conditions, and an alert response sets no register. -/
theorem smbAlertFollowsItsConditions : Obligations.SmbAlertFollowsItsConditions := by
  unfold Obligations.SmbAlertFollowsItsConditions
  refine ⟨fun s => ?_, fun s hp => ⟨_, next_smbLive hp, State.smbAlert_congr rfl, rfl⟩⟩
  simp [State.smbAlert, State.flag, Nat.one_le_iff_ne_zero, or_assoc]

/-- A read over the SMBus changes the SMBus latches alone. -/
theorem State.smbWord_frame (s : State) (w : Nat) :
    (s.smbWord w).2.regs = s.regs ∧ (s.smbWord w).2.host.latch = s.host.latch ∧ (s.smbWord w).2.dev = s.dev := by
  unfold State.smbWord
  repeat' split
  all_goals exact ⟨rfl, rfl, rfl⟩

/-- Settles O49: a write that is refused answers a NACK, and a read changes the SMBus latches and the pointer alone. -/
theorem smbAccessesLeaveRegistersAlone : Obligations.SmbAccessesLeaveRegistersAlone := by
  unfold Obligations.SmbAccessesLeaveRegistersAlone
  refine ⟨fun s off v ok hp refused => ?_, fun s hp => ⟨_, next_smbLive hp, s.smbWord_frame s.host.smbPtr⟩⟩
  have nack : s.smbWrite off.toNat v.toNat ok = s.emit .smbNack := by
    rw [State.smbWrite, if_pos]
    simpa [and_assoc] using refused
  exact (next_smbLive hp).trans (congrArg _ nack)

/-! ### O39: attestation (R416 to R418) -/

/-- A request that the negotiation has reached and that the life-cycle state allows is answered. -/
theorem next_spdmAnswer {s : State} {need : Nat} {retired : Bool} {f : State → State} (hl : s.live = true)
    (hr : s.lcState ≠ lcRetired ∨ retired = true) (hn : need ≤ s.mil.spdm) :
    (.next (s.spdmAnswer need retired f) : Result) = .next (f s) := by
  rw [State.spdmAnswer, hl, if_neg (by decide), if_neg, if_neg (by omega)]
  obtain h | rfl := hr
  · simp [h]
  · simp

/-- Settles O39: each request that is allowed answers one response, built as its definition says. -/
theorem attestationRequestsAreAnswered : Obligations.AttestationRequestsAreAnswered := by
  unfold Obligations.AttestationRequestsAreAnswered
  refine ⟨fun s hl => ?_, fun s hl hn => ?_, fun s hl hr hn => ?_, fun s hl hr hn => ?_, fun s off len hl hn => ?_,
    fun s sum hl hr hn => ?_, fun s signed hl hr hn => ?_⟩
  · exact ⟨_, next_spdmAnswer hl (.inr rfl) (Nat.zero_le _), rfl, _, rfl⟩
  · exact ⟨_, next_spdmAnswer hl (.inr rfl) hn, rfl, _, rfl⟩
  · exact ⟨_, next_spdmAnswer hl (.inl hr) hn, rfl, _, rfl⟩
  · exact ⟨_, next_spdmAnswer hl (.inl hr) hn, _, rfl⟩
  · have reached : (if s.lcState = lcRetired then 2 else 3) ≤ s.mil.spdm := by split <;> omega
    exact ⟨_, next_spdmAnswer hl (.inr rfl) reached, _, rfl⟩
  · refine ⟨_, next_spdmAnswer hl (.inl hr) hn, rfl, rfl, spdmHeader 0x03 0 1,
      beBytes 32 (Config.freeNonce s.draws).toNat ++
        ((if sum = 0 then [] else sha384 ((List.range 5).flatMap (fun k => s.measurement (k + 1)))) ++
          (zeros 2 ++ beBytes 96 (Config.freeSignature (s.draws + 1)).toNat)), ?_⟩
    simp [State.emit, List.append_assoc]
  · refine ⟨_, next_spdmAnswer hl (.inl hr) hn, rfl, spdmHeader 0x60 0 0 ++ leBytes 1 5 ++
      leBytes 3 ([1, 2, 3, 4, 5].flatMap fun k => s.measurement k).length, beBytes 32 (Config.freeNonce s.draws).toNat ++
        (zeros 2 ++ if signed then beBytes 96 (Config.freeSignature (s.draws + 1)).toNat else []), ?_⟩
    simp [State.emit, List.append_assoc]

/-- What the fault unit holds after a report depends on what it held before alone. -/
theorem State.flt_fault_congr {s t : State} {src index detail : Nat} (h : t.flt = s.flt) :
    (t.fault src index detail).flt = (s.fault src index detail).flt := by
  simp only [State.fault, h]

/-! ### O44: samples outside the band (R353) -/

/-- What a valid sample of the input notes, before the flags that follow from it (R353 to R355). -/
def State.vinNoted (s : State) (mv da : Nat) : State :=
  { s with pwr := { s.pwr with
    vin := mv, vinHigh := runOf (decide (76000 < mv)) s.pwr.vinHigh, vinLow := runOf (decide (mv < 34000)) s.pwr.vinLow
    goodSince := if decide (36000 < mv) then some (s.pwr.goodSince.getD s.frc) else none
    winSum := s.pwr.winSum + mv * da, winCount := s.pwr.winCount + 1, badSamples := 0 } }

/-- The over-voltage event of the tenth sample. -/
def State.vinOver (s : State) : State := (s.pwrEvent PWR.OV_EVT).fault srcOverVoltage

theorem State.vinSample_of_valid (s : State) (mv da : Nat) : s.vinSample mv da true =
    ((s.vinNoted mv da).when (runOf (decide (76000 < mv)) s.pwr.vinHigh == 10 && s.pwr.vinHigh == 9) State.vinOver).assayWatch := by
  have quiet : ∀ x : State, x.pwr.badSamples = 0 → x.when (decide (10 ≤ x.pwr.badSamples) && !x.flag PWR.MEAS_FAIL) (fun y =>
      (y.setB PWR.MEAS_FAIL true).fault srcMeasFail) = x := fun x h => by simp [h]
  have kept : ∀ x : State, x.vinOver.pwr = x.pwr := fun x =>
    (State.pwrEvent_touches (ps := [.regs, .outbox, .host]) (.refl _ x) (by decide) (by decide) (by decide)).same .pwr (by decide)
  unfold State.vinSample
  simp only [Bool.true_and, if_true, Bool.not_true, Bool.or_false]
  rw [quiet]
  · rfl
  · exact State.when_cases (P := fun x => x.pwr.badSamples = 0) _ _ _ rfl fun _ => congrArg PwrSt.badSamples (kept _)

/-- The condition that Assay watches changes no count of samples and reports no fault. -/
theorem State.assayWatch_touchesOwn (s : State) : Touches [.regs, .outbox, .core, .host, .assay] s s.assayWatch :=
  State.assayWatch_touches (.refl _ s) (by decide) (by decide) (by decide) (by decide) (by decide)

/-- A valid sample shows its voltage and its current. -/
def State.railShown (s : State) (rail mv da : Nat) : State := (s.set PWR.RAIL_V mv rail).set PWR.RAIL_I da rail

theorem State.railSample_vin (s : State) (mv da : Nat) : s.railSample 0 mv da true = (s.railShown 0 mv da).vinSample mv da true := by
  unfold State.railSample
  rfl

/-- What a valid sample of rail 2 to 6 leaves: the run of its rail, and the fault of the tenth. -/
theorem State.railSample_of_rail (s : State) {i : Nat} (mv da : Nat) (h : 2 ≤ i) :
    ∃ x : State, s.railSample i mv da true =
        x.when (runOf (railOut i mv) (tabGet 0 s.pwr.railRun i) == 10) (fun y => y.fault srcRail) ∧
      x.flt = s.flt ∧ x.pwr.railRun = tabPut s.pwr.railRun i (runOf (railOut i mv) (tabGet 0 s.pwr.railRun i)) := by
  unfold State.railSample
  dsimp only
  have energy := State.when_cases (P := fun y => y.flt = s.flt ∧ y.pwr = s.pwr) ((s.set PWR.RAIL_V mv i).set PWR.RAIL_I da i)
    (true && (i == 1 || i == 2)) (fun y : State => { y with act := { y.act with energy := y.act.energy + mv * da } }) ⟨rfl, rfl⟩
    fun _ => ⟨rfl, rfl⟩
  rw [if_neg (by omega), if_neg (by decide), if_neg (by omega), if_pos rfl]
  generalize ((s.set PWR.RAIL_V mv i).set PWR.RAIL_I da i).when (true && (i == 1 || i == 2)) (fun y : State =>
    { y with act := { y.act with energy := y.act.energy + mv * da } }) = y at energy ⊢
  obtain ⟨flt, pwr⟩ := energy
  rw [← pwr, ← flt]
  exact ⟨_, rfl, rfl, rfl⟩

/-- Settles O44: the tenth sample of a run reports its fault, and a sample in the band starts the run afresh. -/
theorem tenBadSamplesRaiseAFault : Obligations.TenBadSamplesRaiseAFault := by
  unfold Obligations.TenBadSamplesRaiseAFault
  refine ⟨fun s rail mv da h out nine => ?_, fun s rail mv da h good => ?_, fun s mv da high nine => ?_, fun s mv da low => ?_,
    rfl, rfl⟩
  · obtain ⟨x, run, flt, -⟩ := s.railSample_of_rail mv.toNat da.toNat h
    rw [out, nine] at run
    refine ⟨_, congrArg Host.Outcome.next run, ?_⟩
    exact State.flt_fault_congr flt
  · obtain ⟨x, run, flt, railRun⟩ := s.railSample_of_rail mv.toNat da.toNat h
    rw [good] at run railRun
    exact ⟨x, congrArg Host.Outcome.next run, flt, by rw [railRun, tabGet_tabPut_self]; rfl⟩
  · have shown : (s.railShown 0 mv.toNat da.toNat).pwr.vinHigh = 9 := nine
    have tenth : (runOf true 9 == 10 && (9 : Nat) == 9) = true := rfl
    refine ⟨_, congrArg Host.Outcome.next (s.railSample_vin mv.toNat da.toNat), ?_⟩
    rw [State.vinSample_of_valid, shown, decide_eq_true high, tenth, State.when_true]
    have event := State.pwrEvent_touches (ps := [.regs, .outbox, .host]) (a1 := PWR.OV_EVT)
      (.refl _ ((s.railShown 0 mv.toNat da.toNat).vinNoted mv.toNat da.toNat)) (by decide) (by decide) (by decide)
    have watch := State.assayWatch_touchesOwn (((s.railShown 0 mv.toNat da.toNat).vinNoted mv.toNat da.toNat).vinOver)
    refine ⟨?_, ?_⟩
    · rw [(State.assayWatch_writes (.refl _ _) (List.Subset.refl _)).flag_eq (g := PWR.OV_EVT) (by decide) (by decide)]
      exact State.flag_event_self (by decide) (by decide)
    · refine Eq.trans (watch.same .flt (by decide)) ?_
      exact State.flt_fault_congr (event.same .flt (by decide))
  · have none (x : State) : (runOf false x.pwr.vinHigh == 10 && x.pwr.vinHigh == 9) = false := rfl
    refine ⟨_, congrArg Host.Outcome.next (s.railSample_vin mv.toNat da.toNat), ?_⟩
    rw [State.vinSample_of_valid, decide_eq_false (Nat.not_lt.mpr low), none, State.when_false]
    have watch := ((s.railShown 0 mv.toNat da.toNat).vinNoted mv.toNat da.toNat).assayWatch_touchesOwn
    refine ⟨watch.same .flt (by decide), (congrArg PwrSt.vinHigh (watch.same .pwr (by decide))).trans ?_⟩
    rw [State.vinNoted, decide_eq_false (Nat.not_lt.mpr low)]
    rfl

end Sys2Proof.Machine
end

section
/-!
Proofs of O33, O57 and O58, and what O56 says of resets: what a module reset and a power-on leave of the registers (R431).
-/
namespace Sys2Proof.Machine
open Reg

/-! ### Reading past a reset -/

/-- A filter of a table by its keys. -/
theorem tabFind_filter {α : Type} (p : Nat → Bool) (t : Tab α) (k : Nat) :
    tabFind (t.filter fun c => p c.1) k = if p k then tabFind t k else none := by
  induction t with
  | nil => simp [tabFind]
  | cons c t ih =>
    obtain ⟨a, x⟩ := c
    rw [List.filter_cons]
    by_cases h : a = k
    · subst h
      cases hp : p a <;> simp [tabFind, hp, ih]
    · cases hp : p a <;> simp [tabFind, h, ih]

/-- A field that a reset keeps reads what it read, and another reads its reset value (R431). -/
theorem State.get_of_resetRegs {s x : State} {soft : Bool} (h : x.regs = resetRegs soft s.regs) (f : Fld) (i j : Nat) :
    x.get f i j = if keepsValue (f.key i j) || (soft && inHostBlock (f.key i j)) then s.get f i j else f.reset i := by
  rw [State.get, h, resetRegs, tabFind_filter fun k => keepsValue k || (soft && inHostBlock k)]
  split <;> rfl

/-- The registers that the stops before a module reset write. -/
abbrev stopPlaces : List Nat :=
  [283, 2323, 2331, 2332, 2333, 2334, 2360, 2362, 2363, 2364, 2365, 3076, 3083, 3084, 3085, 3104, 3110, 3113, 3114, 3123, 3125, 3339,
    3368, 3369, 3370, 3376, 4907]

theorem State.resetStop_writes (s : State) (soft : Bool) : Writes stopPlaces s (s.resetStop soft) := by
  have all := List.Subset.refl stopPlaces
  exact State.when_writes (fun y h => State.ringsStop_writes (State.dmaLinkEnd_writes h))
    (State.linesOff_writes (Writes.foldl (fun y p h => State.txCut_writes h) (.refl _ s)))

/-- A field that the stops and the reset's own registers leave alone: kept, or back at its reset value. -/
theorem State.get_resetTo (s : State) (soft : Bool) {g : Fld} {k l : Nat} (hstop : stopPlaces.all (fun n => g.apart (fldAt n)) = true)
    (hreset : resetPlaces.all (fun n => g.apart (fldAt n)) = true) (hg : g.Inst k l) :
    (s.resetTo soft).get g k l =
      if keepsValue (g.key k l) || (soft && inHostBlock (g.key k l)) then s.get g k l else g.reset k := by
  obtain ⟨x, -, writes, records⟩ := s.resetTo_startsAfresh soft
  rw [writes.get_eq hreset hg, State.get_of_resetRegs records.regs, (s.resetStop_writes soft).get_eq hstop hg]

/-! ### After the reset: LAST_KIND, the count of resets, a power failure that lasts, and start-up -/

/-- The registers that start-up writes (R428, R429). -/
abbrev bootPlaces : List Nat := [10, 256, 273, 274, 275, 276, 277, 2344, 2345, 4867, 4868, 4869, 4870, 4872]

theorem State.bootOn_writesOwn (s : State) : Writes bootPlaces s s.bootOn :=
  State.bootOn_writes (.refl _ s) (List.Subset.refl _)

/-- The registers that a module reset sets itself. -/
abbrev kindPlaces : List Nat := [3592, 3845, 4864, 4865]

/-- A module reset's kind and count, and a power failure that lasts. -/
def State.resetShown (s : State) (kind : Nat) (fails : Bool) : State :=
  ((s.set GLB.LAST_KIND kind).inc GLB.MODULE_RESETS).when fails (fun s => (s.setB PWR.PFAIL true).setB ANVL.PFAIL_COMMIT true)

theorem State.moduleReset_eq (s : State) (kind : Nat) :
    s.moduleReset kind = ((s.resetTo false).resetShown kind (s.flag PWR.PFAIL)).bootOn := rfl

theorem State.softReset_eq (s : State) (kind : Nat) :
    s.softReset kind = ((s.resetTo true).resetShown kind (s.flag PWR.PFAIL && kind != 5)).set GLB.STEP 2 := rfl

theorem State.resetShown_writes (s : State) (kind : Nat) (fails : Bool) : Writes kindPlaces s (s.resetShown kind fails) := by
  have all := List.Subset.refl kindPlaces
  exact State.when_writes (fun y h => State.setB_writes .ANVL_PFAIL_COMMIT (State.setB_writes .PWR_PFAIL h))
    (State.inc_writes ⟨4865, by decide, rfl⟩ (State.set_writes ⟨4864, by decide, rfl⟩ (.refl _ s)))

theorem State.resetShown_touches (s : State) (kind : Nat) (fails : Bool) : Touches [.regs] s (s.resetShown kind fails) :=
  State.when_touches (fun y h => State.setB_touches (State.setB_touches h (by decide)) (by decide))
    (State.inc_touches (State.set_touches (.refl _ s) (by decide)) (by decide))

theorem State.get_LAST_KIND_resetShown {s : State} {kind : Nat} {fails : Bool} (h : kind < 2 ^ GLB.LAST_KIND.wd) :
    (s.resetShown kind fails).get GLB.LAST_KIND = kind := by
  have shown : ((s.set GLB.LAST_KIND kind).inc GLB.MODULE_RESETS).get GLB.LAST_KIND = kind := by
    rw [State.inc, State.add, State.get_set_of_apart (by decide) (by decide), State.get_set_self, Nat.mod_eq_of_lt h]
  refine State.when_cases (P := fun t => t.get GLB.LAST_KIND = kind) _ _ _ shown fun _ => ?_
  rw [State.setB, State.get_set_of_apart (by decide) (by decide), State.setB, State.get_set_of_apart (by decide) (by decide), shown]

/-- The registers that a module reset writes beyond those it starts afresh. -/
abbrev moduleResetPlaces : List Nat := stopPlaces ++ resetPlaces ++ kindPlaces ++ bootPlaces

/-- A register that a module reset does not set itself is kept or back at its reset value. -/
theorem State.get_moduleReset (s : State) (kind : Nat) {g : Fld} {k l : Nat}
    (h : moduleResetPlaces.all (fun n => g.apart (fldAt n)) = true) (hg : g.Inst k l) :
    (s.moduleReset kind).get g k l = if keepsValue (g.key k l) then s.get g k l else g.reset k := by
  simp only [moduleResetPlaces, List.all_append, Bool.and_eq_true] at h
  obtain ⟨⟨⟨hstop, hreset⟩, hkind⟩, hboot⟩ := h
  rw [State.moduleReset_eq, (State.bootOn_writesOwn _).get_eq hboot hg, (State.resetShown_writes _ _ _).get_eq hkind hg,
    s.get_resetTo false hstop hreset hg, Bool.false_and, Bool.or_false]

theorem State.get_softReset (s : State) (kind : Nat) {g : Fld} {k l : Nat}
    (h : moduleResetPlaces.all (fun n => g.apart (fldAt n)) = true) (hs : g.apart GLB.STEP = true) (hg : g.Inst k l) :
    (s.softReset kind).get g k l =
      if keepsValue (g.key k l) || inHostBlock (g.key k l) then s.get g k l else g.reset k := by
  simp only [moduleResetPlaces, List.all_append, Bool.and_eq_true] at h
  obtain ⟨⟨⟨hstop, hreset⟩, hkind⟩, -⟩ := h
  rw [State.softReset_eq, State.get_set_of_apart hs hg, (State.resetShown_writes _ _ _).get_eq hkind hg,
    s.get_resetTo true hstop hreset hg, Bool.true_and]

/-! ### O57: the FRC and the validity of time (R9, R277, R431) -/

/-- The count stands as it stood, and so does the validity of time. -/
abbrev KeepsTime (s t : State) : Prop := t.frc = s.frc ∧ t.flag TIME.TOD_VALID = s.flag TIME.TOD_VALID

theorem keepsTime_of_writes {F : List Nat} {s t : State} (h : Writes F s t)
    (hf : F.all (fun n => TIME.FRC.apart (fldAt n)) = true) (hv : F.all (fun n => TIME.TOD_VALID.apart (fldAt n)) = true) :
    KeepsTime s t := ⟨h.get_eq hf (by decide), h.flag_eq hv (by decide)⟩

theorem State.moduleReset_keepsTime (s : State) (kind : Nat) : KeepsTime s (s.moduleReset kind) :=
  ⟨s.get_moduleReset kind (g := TIME.FRC) (by decide) (by decide), congrArg (· != 0)
    (s.get_moduleReset kind (g := TIME.TOD_VALID) (by decide) (by decide))⟩

theorem State.softReset_keepsTime (s : State) (kind : Nat) : KeepsTime s (s.softReset kind) :=
  ⟨s.get_softReset kind (g := TIME.FRC) (by decide) (by decide) (by decide), congrArg (· != 0)
    (s.get_softReset kind (g := TIME.TOD_VALID) (by decide) (by decide) (by decide))⟩

theorem State.resetCommand_keepsTime (s : State) (m f : Bool) (confirm : Nat) : KeepsTime s (s.resetCommand m f confirm) := by
  unfold State.resetCommand
  split
  · exact ⟨rfl, rfl⟩
  · split
    · exact s.moduleReset_keepsTime 3
    · split
      · exact s.softReset_keepsTime 4
      · exact ⟨rfl, rfl⟩

theorem State.viaHost_keepsTime {s : State} {f : Fld} {g : State → State} (h : KeepsTime s (g s)) : KeepsTime s (s.viaHost f g) := by
  unfold State.viaHost
  split
  · exact h
  · exact ⟨rfl, rfl⟩

theorem State.autoReset_keepsTime (s : State) : KeepsTime s s.autoReset := by
  unfold State.autoReset
  split
  · split
    · exact s.moduleReset_keepsTime 2
    · exact ⟨rfl, rfl⟩
  · exact ⟨rfl, rfl⟩

theorem State.powerRecovery_keepsTime (s : State) : KeepsTime s s.powerRecovery := by
  unfold State.powerRecovery
  exact State.when_cases (P := KeepsTime s) _ _ _ ⟨rfl, rfl⟩ fun _ => s.softReset_keepsTime 5

/-- The release of RESET_N runs the sequence of R432, which keeps time. -/
theorem State.resetGoesOn_keepsTime (s : State) : KeepsTime s s.resetGoesOn := by
  have same : KeepsTime s s.resetReleased := ⟨rfl, rfl⟩
  unfold State.resetGoesOn
  split
  · obtain ⟨frc, valid⟩ := keepsTime_of_writes s.resetReleased.bootOn_writesOwn (by decide) (by decide)
    exact ⟨frc.trans same.1, valid.trans same.2⟩
  · obtain ⟨frc, valid⟩ := s.resetReleased.moduleReset_keepsTime 1
    exact ⟨frc.trans same.1, valid.trans same.2⟩

theorem State.resetRelease_keepsTime (s : State) : KeepsTime s s.resetRelease := by
  cases h : s.boot.held with
  | false => rw [State.resetRelease_of_notHeld h]; exact ⟨rfl, rfl⟩
  | true =>
    obtain ⟨frc, valid⟩ := s.resetGoesOn_keepsTime
    obtain ⟨frc', valid'⟩ := keepsTime_of_writes (State.resetRelease_writes_resetGoesOn h) (by decide) (by decide)
    exact ⟨frc'.trans frc, valid'.trans valid⟩

/-- A register that power-on does not set itself is back at its reset value (R431). -/
theorem State.get_powerOn (s : State) (addr : Nat) (low : Bool) {g : Fld} {k l : Nat}
    (h : (6 :: 7 :: 8 :: 4881 :: bootPlaces).all (fun n => g.apart (fldAt n)) = true) (hg : g.Inst k l) :
    (s.powerOn addr low).get g k l = g.reset k := by
  have all := List.Subset.refl (6 :: 7 :: 8 :: 4881 :: bootPlaces)
  have fresh : ∃ x : State, Writes (6 :: 7 :: 8 :: 4881 :: bootPlaces) x (s.powerOn addr low) ∧ x.regs = [] := by
    unfold State.powerOn
    apply Exists.intro
    refine ⟨?_, ?_⟩
    · dsimp only
      split
      · exact State.setB_writes (.GLB_PIN_LEVEL (by decide)) (State.set_writes (.GLB_STEP (by decide))
          (State.refreshRow_writes (.refl _ (State.freshNonce _)) (by decide)))
      · exact State.bootOn_writes (State.refreshRow_writes (.refl _ (State.freshNonce _)) (by decide)) (by decide)
    · rfl
  obtain ⟨x, writes, regs⟩ := fresh
  rw [writes.get_eq h hg, State.get, regs]
  rfl

/-- A field that lies apart from all that a command writes reads what it read. -/
theorem get_of_exec {c : Instr} {s t : State} (hc : writesAtLarge c = false) (h : exec c s = .next t) {g : Fld} {k l : Nat}
    (apart : (writtenBy c).all (fun f => g.apart f) = true) (hg : g.Inst k l) : t.get g k l = s.get g k l :=
  (exec_writes hc h).get_eq (fun f hf => List.all_eq_true.mp apart f hf) hg

/-- Of the commands that do not reach registers at large, none writes the FRC. -/
theorem writtenBy_apart_FRC (c : Instr) : (writesAtLarge c || (writtenBy c).all (fun f => TIME.FRC.apart f)) = true := by
  cases c <;> rfl

/-- The commands that set corrected time. -/
def setsTime : Instr → Bool
  | .timeSet => true
  | .timeStep => true
  | _ => false

/-- Of the commands that do not reach registers at large, those that set time alone write TOD_VALID. -/
theorem writtenBy_apart_TOD_VALID (c : Instr) :
    (writesAtLarge c || setsTime c || (writtenBy c).all (fun f => TIME.TOD_VALID.apart f)) = true := by
  cases c <;> rfl

/-- Time that is set is valid. -/
theorem State.flag_TOD_VALID_setOff (s : State) (n : Nat) :
    ((((s.setOff n).setB TIME.TOD_VALID true).timeUpdate).afterJump).flag TIME.TOD_VALID = true := by
  rw [(State.afterJump_writes (.refl _ _) (List.Subset.refl _)).flag_eq (by decide) (by decide),
    (State.timeUpdate_writes (.refl _ _) (List.Subset.refl _)).flag_eq (by decide) (by decide)]
  exact State.flag_setB_self _ _ true 0 0 (by decide)

theorem State.flag_TOD_VALID_trigsDue (s : State) : s.trigsDue.flag TIME.TOD_VALID = s.flag TIME.TOD_VALID :=
  (State.trigsDue_writes (.refl _ s) (List.Subset.refl _)).flag_eq (by decide) (by decide)

/-- A step of time leaves valid time valid. -/
theorem State.flag_TOD_VALID_timeStep {s : State} (h : s.flag TIME.TOD_VALID = true) : s.timeStep.flag TIME.TOD_VALID = true := by
  unfold State.timeStep
  dsimp only
  split
  · rw [State.flag, State.timeEvent, State.get_event_of_ne (by decide) (by decide)]
    exact (State.flag_TOD_VALID_trigsDue s).trans h
  · exact State.flag_TOD_VALID_setOff _ _

theorem flag_TOD_VALID_of_setsTime {c : Instr} {s t : State} (hc : setsTime c = true) (hv : s.flag TIME.TOD_VALID = true)
    (h : exec c s = .next t) : t.flag TIME.TOD_VALID = true := by
  have viaHost : ∀ {g : State → State}, (g s).flag TIME.TOD_VALID = true → (s.viaHost TIME.CMD_OPCODE g).flag TIME.TOD_VALID = true :=
    fun hg => by
      unfold State.viaHost
      split
      · exact hg
      · exact hv
  cases c
  case timeSet => exact Host.Outcome.next.inj h ▸ viaHost (State.flag_TOD_VALID_setOff _ _)
  case timeStep => exact Host.Outcome.next.inj h ▸ viaHost (State.flag_TOD_VALID_timeStep hv)
  all_goals exact nomatch hc

/-- Corrected time before the first setting reads 0. -/
theorem State.now_powerOn (s : State) (addr : Nat) (low : Bool) : (s.powerOn addr low).now = 0 := by
  have reads {g : Fld} (h : (6 :: 7 :: 8 :: 4881 :: bootPlaces).all (fun n => g.apart (fldAt n)) = true) (hg : g.Inst 0 0)
      (hz : g.reset 0 = 0) : (s.powerOn addr low).get g = 0 := (s.get_powerOn addr low h hg).trans hz
  rw [State.now, State.frc, State.timeAt, reads (g := TIME.FRC) (by decide) (by decide) rfl,
    reads (g := TIME.OFF_SEC) (by decide) (by decide) rfl, reads (g := TIME.OFF_NS) (by decide) (by decide) rfl,
    reads (g := TIME.OFF_FRAC) (by decide) (by decide) rfl]
  simp [timeOf]

/-- Settles O57: no command lists the FRC, the two that set time leave it valid, and every reset but power-on keeps both. -/
theorem timeSurvivesResets : Obligations.TimeSurvivesResets := by
  unfold Obligations.TimeSurvivesResets
  refine ⟨fun c s t hc h => ?_, fun c s t hc hv h => ?_, fun s v => ⟨_, rfl, State.viaHost_keepsTime (s.resetCommand_keepsTime _ _ _)⟩,
    fun s v => ⟨_, rfl, State.viaHost_keepsTime (s.resetCommand_keepsTime _ _ _)⟩, fun s => ⟨_, rfl, s.autoReset_keepsTime⟩,
    fun s => ⟨_, rfl, s.powerRecovery_keepsTime⟩, fun s _ => ⟨_, rfl, s.resetRelease_keepsTime⟩, fun s addr low => ?_⟩
  · exact get_of_exec hc h (by simpa [hc] using writtenBy_apart_FRC c) (by decide)
  · have listed := writtenBy_apart_TOD_VALID c
    rw [hc, Bool.false_or, Bool.or_eq_true] at listed
    obtain sets | apart := listed
    · exact flag_TOD_VALID_of_setsTime sets hv h
    · rw [State.flag, get_of_exec hc h apart (by decide)]
      exact hv
  · exact ⟨_, rfl, s.get_powerOn _ low (g := TIME.FRC) (by decide) (by decide),
      congrArg (· != 0) (s.get_powerOn _ low (g := TIME.TOD_VALID) (by decide) (by decide)), s.now_powerOn _ low⟩

end Sys2Proof.Machine
end

section
/-!
Proof of O58, and what a host write of an ordinary word of BAR0 does (R10 to R13).
-/
namespace Sys2Proof.Machine
open Reg

/-! ### The fields of a word -/

theorem State.get_bucketBefore (s : State) (f : Fld) (i j : Nat) (g : Fld) (k l : Nat) :
    (s.bucketBefore f i j).get g k l = s.get g k l :=
  State.get_congr _ _ _ _ _ ((State.bucketBefore_touches (ps := [.buf, .pipe]) (.refl _ s) (by decide) (by decide)).same .regs
    (by decide))

/-- The write of a field leaves the fields that lie apart from it. -/
theorem State.get_fieldWrite_of_apart {s : State} {f g : Fld} {i j v x k l : Nat} (h : g.apart f = true) (hg : g.Inst k l) :
    (s.fieldWrite f i j v x).get g k l = s.get g k l := by
  unfold State.fieldWrite
  split
  · rfl
  split
  · rw [State.get_set_of_apart h hg, State.get_bucketBefore]
  · exact State.get_set_of_apart h hg
  · rfl

/-- A field that the write of its register stores: not a register's own operation, no place of a ring, no operand of EM_CMD. -/
def plainField (f : Fld) : Bool := f.ty == .rw && !ownWrite.contains f && !ringPlace f && !emOperandField f

theorem State.fieldWrite_of_plain {s : State} {f : Fld} {i j v x : Nat} (h : plainField f = true) (hw : s.windowUsed f i = true) :
    s.fieldWrite f i j v x = (s.bucketBefore f i j).set f (s.rwStored f i v x) i j := by
  simp only [plainField, Bool.and_eq_true, Bool.not_eq_true', beq_iff_eq] at h
  obtain ⟨⟨⟨ty, own⟩, ring⟩, operand⟩ := h
  have own' : f ∉ ownWrite := by simpa using own
  simp [State.fieldWrite, hw, own', ring, operand, ty]

theorem State.get_fieldWrite_self {s : State} {f : Fld} {i j v x : Nat} (h : plainField f = true) (hw : s.windowUsed f i = true) :
    (s.fieldWrite f i j v x).get f i j = s.rwStored f i v x % 2 ^ f.wd := by
  rw [State.fieldWrite_of_plain h hw, State.get_set_self]

/-! ### The words that a write stores and that set off nothing -/

/-- A word of BAR0 whose write stores its fields and sets off nothing, whatever it holds. -/
def plainWord (w : Nat) : Bool :=
  w % 4 == 0 && (activeSet w).isNone && (shadowSet w).isNone && (wideHit w).isNone && (LANE.GEN_EN.index w).isNone &&
    (LANE.CHK_EN.index w).isNone &&
    ((decide (w < 0x100000) && w != GLB.MODULE_RESET.off && w != GLB.PIPE_GO.off && w != GLB.INT_EN.off) || inRange 0x200000 0x400000 w)

theorem State.wordAct_of_plain {s o : State} {w v : Nat}
    (h : (decide (w < 0x100000) && w != GLB.MODULE_RESET.off && w != GLB.PIPE_GO.off && w != GLB.INT_EN.off ||
      inRange 0x200000 0x400000 w) = true) : s.wordAct o w v = s := by
  simp only [Bool.or_eq_true, Bool.and_eq_true, decide_eq_true_eq, bne_iff_ne, inRange] at h
  obtain ⟨⟨⟨glb, reset⟩, pipe⟩, en⟩ | ⟨low, high⟩ := h
  · rw [State.wordAct, if_pos glb, State.actGlb, if_neg reset, if_neg pipe, if_neg en]
  · rw [State.wordAct, if_neg (by omega), if_neg (by omega), if_pos high]

/-- A host write of such a word stores the word's fields. -/
theorem exec_regWrite_of_plain {s : State} {off : BitVec 26} {v : Word} (h : plainWord off.toNat = true) :
    exec (.regWrite .bar0 off v) s = .next (if s.regOpen off.toNat then s.narrowWrite off.toNat v.toNat else s) := by
  simp only [plainWord, Bool.and_eq_true, beq_iff_eq, Option.isNone_iff_eq_none] at h
  obtain ⟨⟨⟨⟨⟨⟨aligned, active⟩, shadow⟩, wide⟩, gen⟩, chk⟩, quiet⟩ := h
  have stored : s.wordStore off.toNat v.toNat = s.narrowWrite off.toNat v.toNat := by
    simp only [State.wordStore, active, shadow, wide, patternReserved, gen, chk, State.chkRise]
    exact State.wordAct_of_plain quiet
  have write : s.hostWrite off.toNat v.toNat = if s.regOpen off.toNat then s.narrowWrite off.toNat v.toNat else s := by
    rw [State.hostWrite, stored]
  exact congrArg Host.Outcome.next ((if_pos aligned).trans write)

/-! ### O58: LOOP_EN (R42) -/

theorem wordHits_loop : wordHits 0x200020 =
    [⟨CORE.LOOP_EN, 0, 0, false⟩, ⟨CORE.RELAX_MARGIN, 0, 0, false⟩, ⟨CORE.RELAX_WINDOWS, 0, 0, false⟩] := by decide

/-- The write of the word of LOOP_EN stores its bit, or 1 where the loop is locked. -/
theorem State.get_LOOP_EN_narrowWrite (s : State) (v : Nat) : (s.narrowWrite 0x200020 v).get CORE.LOOP_EN =
    (if s.lcState = lcManufacture || s.lcState = lcService then bits v 0 1 else 1) % 2 := by
  rw [State.narrowWrite, wordHits_loop, List.foldl_cons, List.foldl_cons, List.foldl_cons, List.foldl_nil,
    State.get_fieldWrite_of_apart (by decide) (by decide), State.get_fieldWrite_of_apart (by decide) (by decide),
    State.get_fieldWrite_self (by decide) rfl]
  rfl

/-- Of the commands that do not reach registers at large, those that list LOOP_EN alone write it. -/
theorem writtenBy_apart_LOOP_EN (c : Instr) :
    (writesAtLarge c || ((writtenBy c).contains CORE.LOOP_EN || (writtenBy c).all (fun f => CORE.LOOP_EN.apart f))) = true := by
  cases c <;> rfl

/-- Settles O58: the write's rule of LOOP_EN, the fields that commands list, and its reset value. -/
theorem loopEnableIsLocked : Obligations.LoopEnableIsLocked := by
  unfold Obligations.LoopEnableIsLocked
  refine ⟨fun s v locked on => ?_, fun s v live hard open_ => ?_, fun c s t hc hl h => ?_, fun s ho => ?_⟩
  · refine ⟨_, exec_regWrite_of_plain (by decide), ?_⟩
    split
    · rw [show (0x200020 : BitVec 26).toNat = 0x200020 from rfl, State.get_LOOP_EN_narrowWrite, if_neg]
      obtain h | h := locked <;> rw [h] <;> decide
    · exact on
  · have reached : s.regOpen 0x200020 = true := by simp [State.regOpen, live, hard]
    refine ⟨_, exec_regWrite_of_plain (by decide), ?_⟩
    rw [show (0x200020 : BitVec 26).toNat = 0x200020 from rfl, if_pos reached]
    refine (s.get_LOOP_EN_narrowWrite v.toNat).trans ?_
    rw [if_pos (by simpa using open_)]
    exact Nat.mod_mod_of_dvd _ (dvd_refl 2)
  · have listed := writtenBy_apart_LOOP_EN c
    rw [hc, Bool.false_or, Bool.or_eq_true, List.contains_iff_mem] at listed
    exact get_of_exec hc h (listed.resolve_left hl) (by decide)
  · exact ⟨_, next_viaHost ho, s.get_moduleReset 3 (g := CORE.LOOP_EN) (by decide) (by decide)⟩

end Sys2Proof.Machine
end

section
/-!
Proofs of O53, O54, O55 and O59: bytes and numbers of the device memory, counter pairs, ASE slots and event rings.
-/
namespace Sys2Proof.Machine
open Reg

/-! ### Numbers in byte lists -/

@[simp] theorem length_leBytes (n v : Nat) : (leBytes n v).length = n := by
  induction n generalizing v with
  | zero => rfl
  | succ n ih => simp [leBytes, ih]

@[simp] theorem length_zeros (n : Nat) : (zeros n).length = n := List.length_replicate

/-- The bytes of a number are the number, as far as they reach. -/
theorem leNat_leBytes (n v : Nat) : leNat (leBytes n v) = v % 256 ^ n := by
  induction n generalizing v with
  | zero => simp [leBytes, leNat, Nat.mod_one]
  | succ n ih =>
    rw [leBytes, leNat, ih, Nat.pow_succ', Nat.mod_mul, BitVec.toNat_ofNat]

theorem le_append_left {l r : List Byte} {p n : Nat} (h : p + n ≤ l.length) : le (l ++ r) p n = le l p n := by
  have first : n ≤ (l.drop p).length := by rw [List.length_drop]; omega
  rw [le, le, slice, slice, List.drop_append_of_le_length (by omega), List.take_append_of_le_length first]

theorem le_append_right {l r : List Byte} {p n k : Nat} (h : l.length + k = p) : le (l ++ r) p n = le r k n := by
  subst h
  rw [le, le, slice, slice, List.drop_append, List.drop_eq_nil_of_le (by omega), List.nil_append, Nat.add_sub_cancel_left]

theorem le_self {l : List Byte} {n : Nat} (h : l.length = n) : le l 0 n = leNat l := by
  rw [le, slice, List.drop_zero, ← h, List.take_length]

/-- The first byte of a number is its lowest. -/
theorem le_succ {l : List Byte} {p n : Nat} (h : p < l.length) : le l p (n + 1) = (l.getD p 0).toNat + 256 * le l (p + 1) n := by
  rw [le, le, slice, slice, List.drop_eq_getElem_cons h, List.take_succ_cons, leNat, List.getD_eq_getElem l 0 h]

/-- A number read where a list of bytes has been stored. -/
theorem memRead_memStore {m : List Host.Cell} {a : Nat} {l : List Byte} {p n : Nat} (h : p + n ≤ l.length) :
    memRead (memStore m a l) (a + p) n = le l p n := by
  induction n generalizing p with
  | zero => rfl
  | succ n ih =>
    rw [memRead, memByte_memStore, if_pos ⟨by omega, by omega⟩, Nat.add_sub_cancel_left, Nat.add_assoc, ih (by omega),
      le_succ (by omega)]

/-! ### O53: a flush adds to its pair (R307) -/

/-- The flush of a pair that can be read. -/
theorem State.pairAdd_of_readable {s : State} {d : Delta} {e : EccState} {a : Nat} (ha : a = counterBase + 16 * d.index)
    (h : s.eccOf a 16 e ≠ .uncorrectable) :
    s.pairAdd d e = ((s.qdrOp 4).memSet a 8 (s.mem a 8 + d.packets)).memSet (a + 8) 8 (s.mem (a + 8) 8 + d.bytes) := by
  subst ha
  exact if_neg h

/-- Settles O53: the two halves of the pair are stored one after the other. -/
theorem flushAddsToItsPair : Obligations.FlushAddsToItsPair := by
  unfold Obligations.FlushAddsToItsPair
  intro s d e a ha h
  rw [State.pairAdd_of_readable ha h]
  refine ⟨?_, State.mem_memSet_self _ _ _ _, fun b hb => ?_, ?_⟩
  · rw [State.mem_memSet_of_apart _ _ _ _ _ _ (by omega)]
    exact State.mem_memSet_self _ _ _ _
  · rw [State.memSet_dev, memByte_memWrite_of_outside _ _ _ _ _ (by omega), State.memSet_dev,
      memByte_memWrite_of_outside _ _ _ _ _ (by omega)]
    rfl
  · rw [State.memSet_regs, State.memSet_regs]
    rfl

/-! ### O54: masked key bits (R160) -/

/-- The key of a slot built of a key and a mask is stored under the mask. -/
theorem le_slotBytes_key (key mask prio flags result : Nat) :
    le (slotBytes key mask prio flags result) 0 20 = (key &&& mask) % 256 ^ 20 := by
  simp only [slotBytes, List.append_assoc]
  rw [le_append_left (by simp), le_self (by simp), leNat_leBytes]

theorem le_slotStored_key (b : List Byte) : le (slotStored b) 0 20 = (le b 0 20 &&& le b 20 20) % 256 ^ 20 := by
  simp only [slotStored, List.append_assoc]
  rw [le_append_left (by simp), le_self (by simp), leNat_leBytes]

theorem length_slice {l : List Byte} {p n : Nat} (h : p + n ≤ l.length) : (slice l p n).length = n := by
  rw [slice, List.length_take, List.length_drop]
  omega

theorem le_slotStored_flags {b : List Byte} (h : b.length = 64) : le (slotStored b) 42 2 = (le b 42 2 &&& 0xFF03) % 256 ^ 2 := by
  have head : (leBytes 20 (le b 0 20 &&& le b 20 20) ++ slice b 20 22).length + 0 = 42 := by
    rw [List.length_append, length_leBytes, length_slice (by omega)]
  rw [slotStored, List.append_assoc (_ ++ _ ++ _), List.append_assoc (_ ++ _), le_append_right head, le_append_left (by simp),
    le_self (by simp), leNat_leBytes]

theorem length_slotStored {b : List Byte} (h : b.length = 64) : (slotStored b).length = 64 := by
  simp [slotStored, length_slice (show 20 + 22 ≤ b.length by omega), length_slice (show 44 + 4 ≤ b.length by omega)]

/-- A 64-byte slot that DMA writes is stored in its stored form. -/
theorem State.mem_devCommit_slot {s : State} {x : Item448} {b : List Byte} (hr : x.region = .ase) (hs : x.size = 64)
    (hb : b.length = 64) {p n : Nat} (h : p + n ≤ 64) : (s.devCommit x b).mem (x.base + p) n = le (slotStored b) p n := by
  have wide : ¬ x.size = 128 := by omega
  rw [State.mem, State.devCommit, hr]
  simp only [if_neg wide, State.memStore_dev]
  exact memRead_memStore (by rw [length_slotStored hb]; omega)

theorem bit_and (a b k : Nat) : bit (a &&& b) k = (bit a k && bit b k) := Nat.testBit_and a b k

/-- A key bit under a mask bit of 0 is 0. -/
theorem bit_masked {key mask k n : Nat} (h : bit mask k = false) (hk : k < 8 * n) : bit ((key &&& mask) % 256 ^ n) k = false := by
  rw [show 256 ^ n = 2 ^ (8 * n) from by rw [Nat.pow_mul], bit_mod_two_pow hk, bit_and, h, Bool.and_false]

/-- Settles O54: the stored form and the built slot hold the key under its mask, and the stored form leaves MOVE_SHADOW out. -/
theorem maskedKeyBitsAreStoredAsZero : Obligations.MaskedKeyBitsAreStoredAsZero := by
  unfold Obligations.MaskedKeyBitsAreStoredAsZero
  refine ⟨fun s x b k hr hs hb hk hm => ?_, fun s x b hr hs hb => ?_, fun key mask prio flags result k hm hk => ?_⟩
  · have stored := State.mem_devCommit_slot (s := s) hr hs hb (p := 0) (n := 20) (by decide)
    rw [Nat.add_zero] at stored
    rw [stored, le_slotStored_key]
    exact bit_masked hm hk
  · rw [State.mem_devCommit_slot hr hs hb (by decide), le_slotStored_flags hb]
    exact bit_masked (by decide) (by decide)
  · rw [le_slotBytes_key]
    exact bit_masked hm hk

/-! ### O55: event rings (R336) -/

theorem length_padTo (n : Nat) (l : List Byte) : (padTo n l).length = n := by
  simp only [padTo, List.length_append, List.length_take, length_zeros]
  omega

/-- An update of the host's records alone. -/
theorem Touches.putHost {ps : List Part} {s x : State} {v : HostSt} (h : Touches ps s x) (hp : Part.host ∈ ps) :
    Touches ps s { x with host := v } where
  pending := h.pending
  same p hn := by
    cases p with
    | host => exact absurd hp hn
    | _ => exact h.same _ hn

/-- The ring word of the entry that the module completes next (R326). -/
def State.doneWord (s : State) (n status : Nat) (sop eop : Bool) : Nat :=
  2 * s.get HOST.R_GEN n + 4 * b2n sop + 8 * b2n eop + 16 * (status % 16) + 65536 * ((tabGet 0 s.host.ringSeq n + 1) % 65536)

/-- INDEX, SEQ and GEN go on from the entry that `s` completes, and its message falls due (R324, R327). -/
def State.ringAdvance (x s : State) (n : Nat) : State :=
  let y : State := { x with host := { x.host with ringSeq := tabPut x.host.ringSeq n (tabGet 0 s.host.ringSeq n + 1) } }
  let wrap := s.get HOST.R_INDEX n + 1 == y.ringSize n
  State.ringPend (((y.set HOST.R_INDEX (if wrap then 0 else s.get HOST.R_INDEX n + 1) n).when wrap
    (fun z => z.set HOST.R_GEN (1 - s.get HOST.R_GEN n) n)).inc HOST.R_COMPLETED n) n

theorem State.ringComplete_eq (s : State) (n status : Nat) (sop eop : Bool) :
    s.ringComplete n status sop eop = (s.memSet (s.ringEntry n 0 + 28) 4 (s.doneWord n status sop eop)).ringAdvance s n := rfl

theorem State.ringAdvance_touches (x s : State) (n : Nat) : Touches [.regs, .outbox, .host] x (x.ringAdvance s n) := by
  unfold State.ringAdvance
  refine State.ringPend_touches (State.inc_touches (State.when_touches (fun y h => State.set_touches h ?_)
    (State.set_touches (.putHost (.refl _ x) ?_) ?_)) ?_) ?_ ?_ ?_
  all_goals decide

/-- The completion of an entry stores its ring word alone. -/
theorem State.dev_ringComplete (s : State) (n status : Nat) (sop eop : Bool) :
    (s.ringComplete n status sop eop).dev = memWrite s.dev (s.ringEntry n 0 + 28) 4 (s.doneWord n status sop eop) := by
  rw [State.ringComplete_eq, ← State.memSet_dev]
  exact (State.ringAdvance_touches _ _ _).same .dev (by decide)

/-- The place of an entry follows from the registers. -/
theorem State.ringEntry_congr {s t : State} (h : t.regs = s.regs) (n k : Nat) : t.ringEntry n k = s.ringEntry n k := by
  simp only [State.ringEntry, State.ringPos, State.ringSize, State.get_congr_regs h]

/-- Settles O55: the record is stored before its ring word, which lies beyond it. -/
theorem eventRingsTakeOrLoseEvents : Obligations.EventRingsTakeOrLoseEvents := by
  unfold Obligations.EventRingsTakeOrLoseEvents
  refine ⟨fun s e rec_ on given => ?_, fun s e rec_ closed => ?_⟩
  · have taken : s.eventRingWrite e rec_ =
        ((s.memStore (s.ringEntry (eventRing e) 0) (padTo 28 rec_)).ringComplete (eventRing e) 0 true true, true) := by
      rw [State.eventRingWrite, on, given]
      rfl
    rw [taken]
    refine ⟨rfl, fun k hk => ?_⟩
    have entry : (s.memStore (s.ringEntry (eventRing e) 0) (padTo 28 rec_)).ringEntry (eventRing e) 0 = s.ringEntry (eventRing e) 0 :=
      State.ringEntry_congr (by simp) _ _
    rw [State.dev_ringComplete, entry, memByte_memWrite_of_outside _ _ _ _ _ (by omega), State.memStore_dev, memByte_memStore,
      if_pos ⟨by omega, by rw [length_padTo]; omega⟩, Nat.add_sub_cancel_left]
  · have lost : (s.flag HOST.R_EN (eventRing e) && s.ringGiven (eventRing e) 0) = false := by
      obtain h | h := closed <;> simp [h]
    rw [State.eventRingWrite]
    simp only [lost]
    rfl

/-! ### O59: a DMA write of a counter pair (R308) -/

theorem State.deltaList_setDeltas (s : State) (k j : Nat) (l : List Delta) :
    (s.setDeltas k l).deltaList j = if j = k then l else s.deltaList j := by
  unfold State.setDeltas State.deltaList
  by_cases h : j = k
  · subst h
    cases l <;> simp
  · rw [if_neg h]
    cases l
    · exact tabGet_tabDel_of_ne _ _ _ _ h
    · exact tabGet_tabPut_of_ne _ _ _ _ _ h

theorem upTo_succ {α : Type} (n : Nat) (f : Nat → α → α) (x : α) : upTo (n + 1) f x = f n (upTo n f x) := by
  rw [upTo, List.range_succ, List.foldl_append]
  rfl

/-- Discarding what waits for a pair leaves no delta of it in the shards that have been gone through. -/
theorem State.deltaList_discarded (s : State) (n i j : Nat) (h : j < n) :
    (upTo n (fun k s => s.setDeltas k ((s.deltaList k).filter (fun d => d.index != i))) s).deltaList j =
      (s.deltaList j).filter (fun d => d.index != i) := by
  have rest : ∀ n ≤ j, (upTo n (fun k s => s.setDeltas k ((s.deltaList k).filter (fun d => d.index != i))) s).deltaList j =
      s.deltaList j := by
    intro n hn
    induction n with
    | zero => rfl
    | succ n ih => rw [upTo_succ, State.deltaList_setDeltas, if_neg (by omega), ih (by omega)]
  induction n with
  | zero => exact absurd h (Nat.not_lt_zero j)
  | succ n ih =>
    rw [upTo_succ, State.deltaList_setDeltas]
    by_cases e : j = n
    · subst e
      rw [if_pos rfl, rest j (Nat.le_refl j)]
    · rw [if_neg e, ih (by omega)]

theorem State.dev_pairDiscard (s : State) (i : Nat) : (s.pairDiscard i).dev = s.dev :=
  upTo_keeps (fun x : State => x.dev = s.dev) _ _ _ (fun _ _ h => h) rfl

/-- Settles O59: the write discards the deltas of its pair, then stores its bytes. -/
theorem pairWriteDiscardsItsDeltas : Obligations.PairWriteDiscardsItsDeltas := by
  unfold Obligations.PairWriteDiscardsItsDeltas
  intro s x b n hr hs hbase hb
  have pair : (x.base - counterBase) / 16 = n := by omega
  have written : s.devCommit x b = (s.pairDiscard n).memStore x.base b := by
    rw [State.devCommit, hr, pair]
  have dev : (s.devCommit x b).dev = memStore s.dev x.base b := by
    rw [written, State.memStore_dev, State.dev_pairDiscard]
  refine ⟨fun k hk => ?_, fun a ha => ?_, fun shard hshard d hd => ?_⟩
  · rw [dev, memByte_memStore, if_pos ⟨by omega, by omega⟩, Nat.add_sub_cancel_left]
  · rw [dev, memByte_memStore_of_outside _ _ _ _ (by omega)]
  · have list : (s.devCommit x b).deltaList shard = (s.deltaList shard).filter (fun d => d.index != n) := by
      rw [written, State.deltaList, State.memStore_tele]
      exact s.deltaList_discarded 8 n shard hshard
    rw [list, List.mem_filter] at hd
    simpa using hd.2

end Sys2Proof.Machine
end

section
/-!
Proof of O51: image commands that are refused (R65, R70, R77).
-/
namespace Sys2Proof.Machine
open Reg

/-- An IMG command that reaches its block and is refused does nothing but report the cause. -/
theorem exec_imageCommand_of_refused {s : State} {c : Instr} {op bank r : Nat} (ho : s.regOpen IMG.OPCODE.off = true)
    (hc : imageCommand c = some (op, bank)) (hr : s.imgRefusal op bank = some r) :
    exec c s = .next (s.imgReport op { code := r }) ∧ op ≤ 5 := by
  have run (ok : Bool) : (.next (s.viaHost IMG.OPCODE fun s => s.imgCommand op bank ok) : Result) =
      .next (s.imgReport op { code := r }) :=
    (next_viaHost ho).trans (congrArg _ (State.imgCommand_of_refused ok hr))
  have named {o k : Nat} (h : some (o, k) = some (op, bank)) : o = op ∧ k = bank := Prod.mk.inj (Option.some.inj h)
  cases c
  case loadBank => obtain ⟨rfl, rfl⟩ := named hc; exact ⟨run true, by decide⟩
  case loadHost => obtain ⟨rfl, rfl⟩ := named hc; exact ⟨run true, by decide⟩
  case writeBank ok => obtain ⟨rfl, rfl⟩ := named hc; exact ⟨run ok, by decide⟩
  case verifyBank => obtain ⟨rfl, rfl⟩ := named hc; exact ⟨run true, by decide⟩
  case swap => obtain ⟨rfl, rfl⟩ := named hc; exact ⟨run true, by decide⟩
  all_goals exact nomatch hc

/-- The report of a refusal names no section. -/
theorem State.get_FAIL_SECTION_imgReport (s : State) (op r : Nat) :
    (s.imgReport op { code := r }).get IMG.FAIL_SECTION = 0xFF := by
  unfold State.imgReport State.imgShow
  rw [State.get_event_of_ne (by decide) (by decide), State.get_set_of_ne _ _ _ _ _ _ _ _ (by decide),
    State.get_when_of (State.get_fault _ _ _ _ _ _ _), State.get_set_of_ne _ _ _ _ _ _ _ _ (by decide), State.get_set_self]
  rfl

/-- While a command runs, and for a SWAP that is not enabled, the cause is STATE (log 77). -/
theorem State.imgRefusal_state {s : State} {op bank r : Nat} (hr : s.imgRefusal op bank = some r) :
    (s.img.cmd.isSome = true → r = resState) ∧ (op = opSwap → s.flag IMG.SWAP_ENABLED = false → r = resState) := by
  refine ⟨fun running => ?_, fun swap off => ?_⟩
  · have first : s.imgRefusal op bank = some resState := by simp [State.imgRefusal, running]
    exact Option.some.inj (hr.symm.trans first)
  · have state : s.imgRefusal op bank = some resState := by
      unfold State.imgRefusal
      dsimp only
      split
      · rfl
      split
      · rfl
      rw [if_pos (by simp [swap, off])]
    exact Option.some.inj (hr.symm.trans state)

/-- Settles O51: the refusal reports its cause, and the report changes neither image state, memory nor ACTIVITY. -/
theorem imageCommandsAreRefused : Obligations.ImageCommandsAreRefused := by
  unfold Obligations.ImageCommandsAreRefused
  intro s c op bank r ho hc hr
  obtain ⟨run, small⟩ := exec_imageCommand_of_refused ho hc hr
  have frame := s.imgReport_frame op { code := r }
  have activity := (State.imgReport_writes (a1 := op) (a2 := { code := r }) (.refl _ s) (List.Subset.refl _)).get_eq
    (g := IMG.ACTIVITY) (k := 0) (l := 0) (by decide) (by decide)
  obtain ⟨running, swap⟩ := State.imgRefusal_state hr
  refine ⟨⟨_, run, s.get_RESULT_imgReport _ _, s.get_FAIL_SECTION_imgReport _ _, ?_, s.flag_CMD_DONE_imgReport _ _,
    frame.same .img (by decide), frame.same .dev (by decide), activity⟩, running, fun hop _ => swap hop⟩
  rw [State.get_LAST_OPCODE_imgReport, Nat.mod_eq_of_lt (by omega)]

end Sys2Proof.Machine
end

section
/-!
Proof of O60: the commands that store in the module store, and those that store counters and flow records, leave the memory below
alone (R63, R302, R307, R381).
-/
namespace Sys2Proof.Machine
open Reg

/-- Every byte below an address is the same in `t` as in `s`. -/
def KeepsBelow (n : Nat) (s t : State) : Prop := ∀ a, a < n → memByte t.dev a = memByte s.dev a

namespace KeepsBelow

theorem of_dev {n : Nat} {s t : State} (h : t.dev = s.dev) : KeepsBelow n s t := fun a _ => by rw [h]

theorem trans {n : Nat} {s t u : State} (h : KeepsBelow n s t) (k : KeepsBelow n t u) : KeepsBelow n s u :=
  fun a ha => (k a ha).trans (h a ha)

/-- A step that leaves the memory alone, at the end. -/
theorem thenDev {n : Nat} {s t u : State} (h : KeepsBelow n s t) (k : u.dev = t.dev) : KeepsBelow n s u := h.trans (.of_dev k)

theorem when {n : Nat} {s : State} {c : Bool} {f : State → State} (h : KeepsBelow n s (f s)) : KeepsBelow n s (s.when c f) :=
  State.when_cases (P := KeepsBelow n s) _ _ _ (.of_dev rfl) fun _ => h

theorem foldl {n : Nat} {α : Type} {f : State → α → State} (hf : ∀ y b, KeepsBelow n y (f y b)) (l : List α) (s : State) :
    KeepsBelow n s (l.foldl f s) :=
  foldl_keeps (KeepsBelow n s) f (fun y b h => h.trans (hf y b)) l s (.of_dev rfl)

theorem upTo {n m : Nat} {f : Nat → State → State} (hf : ∀ k y, KeepsBelow n y (f k y)) (s : State) :
    KeepsBelow n s (Machine.upTo m f s) :=
  upTo_keeps (KeepsBelow n s) m f s (fun k y h => h.trans (hf k y)) (.of_dev rfl)

theorem viaHost {n : Nat} {s : State} {f : Fld} {g : State → State} (h : KeepsBelow n s (g s)) : KeepsBelow n s (s.viaHost f g) := by
  unfold State.viaHost
  split
  · exact h
  · exact .of_dev rfl

end KeepsBelow

/-! ### Work of Anvil (R372 to R379) -/

theorem State.dev_mcFailed (s : State) (upc act : Nat) : (s.mcFailed upc act).dev = s.dev :=
  (State.mcFailed_touches (ps := [.regs, .flt, .anvil, .buf]) (.refl _ s) (by decide) (by decide) (by decide) (by decide)).same .dev
    (by decide)

theorem State.dev_mcCorrected (s : State) (upc act : Nat) : (s.mcCorrected upc act).dev = s.dev :=
  (State.mcCorrected_touches (ps := [.regs, .flt, .anvil]) (.refl _ s) (by decide) (by decide) (by decide)).same .dev (by decide)

theorem State.dev_accessWaits (s : State) (act : Nat) : (s.accessWaits act).dev = s.dev := by
  unfold State.accessWaits
  split <;> rfl

theorem State.dev_stepTake (s : State) (act : Nat) : (s.stepTake act).dev = s.dev := by
  unfold State.stepTake
  dsimp only
  split <;> rfl

/-- A routine of its own does to the memory what its work does. -/
theorem State.anvilOwn_below {n : Nat} {s : State} {f : Fetch} {w : State → State} (hw : ∀ y, KeepsBelow n y (w y)) :
    KeepsBelow n s (s.anvilOwn f w) := by
  unfold State.anvilOwn
  split
  · exact hw s
  · exact (KeepsBelow.of_dev (s.dev_mcCorrected _ _)).trans (hw _)
  · exact (KeepsBelow.of_dev (s.dev_mcFailed _ _)).trans (hw _)

/-- A step of an activity does to the memory what its work does. -/
theorem State.anvilStep_below {n : Nat} {s : State} {act : Nat} {f : Fetch} {w : State → State} (hw : ∀ y, KeepsBelow n y (w y)) :
    KeepsBelow n s (s.anvilStep act f w) := by
  have granted : ∀ y : State, y.dev = s.dev → KeepsBelow n s (if f.waits then y.accessWaits act else w (y.accessGranted act)) := by
    intro y hy
    split
    · exact .of_dev ((y.dev_accessWaits act).trans hy)
    · exact (KeepsBelow.of_dev (t := y.accessGranted act) hy).trans (hw _)
  unfold State.anvilStep
  split
  · exact .of_dev rfl
  dsimp only
  split
  · exact .of_dev ((State.dev_mcFailed _ _ _).trans (s.dev_stepTake act))
  · exact granted _ ((State.dev_mcCorrected _ _ _).trans (s.dev_stepTake act))
  · exact granted _ (s.dev_stepTake act)

/-! ### The module store (R381 to R384) -/

/-- The module store lies above every other region of the device memory. -/
theorem State.storePut_below (s : State) (off : Nat) (line : List Byte) : KeepsBelow storeBase s (s.storePut off line) := by
  intro a ha
  have put : (s.storePut off line).dev = Machine.memStore s.dev (storeBase + s.storeAt off) (padTo 64 line) := State.memStore_dev _ _ _
  rw [put, memByte_memStore_of_outside _ _ _ _ (.inl (by omega))]

theorem State.dev_storeRemap (s : State) (off : Nat) : (s.storeRemap off).dev = s.dev :=
  (State.storeRemap_touches (ps := [.regs, .flt, .anvil]) (.refl _ s) (by decide) (by decide) (by decide)).same .dev (by decide)

theorem State.storeRemapPut_below (s : State) (off : Nat) (line : List Byte) :
    KeepsBelow storeBase s ((s.storeRemap off).storePut off line) :=
  (KeepsBelow.of_dev (s.dev_storeRemap off)).trans (State.storePut_below _ off line)

theorem State.storeSettle_below (n : Nat) (s : State) (off : Nat) (line : List Byte) :
    KeepsBelow storeBase s (State.storeSettle n s off line).1 := by
  induction n generalizing s with
  | zero => exact .of_dev rfl
  | succ n ih =>
    unfold State.storeSettle
    split
    · exact .of_dev rfl
    · split
      · exact .of_dev rfl
      · exact (s.storeRemapPut_below off line).trans (ih _)

theorem State.storeWrite_below (s : State) (off : Nat) (line : List Byte) (ok : Bool) :
    KeepsBelow storeBase s (s.storeWrite off line ok).1 := by
  have put := s.storePut_below off line
  unfold State.storeWrite
  dsimp only
  split
  · exact put.trans (State.storeSettle_below _ _ _ _)
  · split
    · exact put
    · exact put.trans ((State.storeRemapPut_below _ _ _).trans (State.storeSettle_below _ _ _ _))

/-- A journal record goes to its line of the ring, or to the next one. -/
theorem State.journalWrite_below (s : State) (kind : Nat) (payload : List Byte) (ok : Bool) :
    KeepsBelow storeBase s (s.journalWrite kind payload ok) := by
  unfold State.journalWrite
  extract_lets n cur pos seq line pos2
  have write := s.storeWrite_below (journalBase kind + 64 * pos) line ok
  generalize s.storeWrite (journalBase kind + 64 * pos) line ok = w at write ⊢
  obtain ⟨x, done⟩ := w
  cases done
  case true => exact write.thenDev rfl
  case false => exact (write.trans (State.storePut_below x _ _)).thenDev rfl

theorem State.commitWrite_below (s : State) (bank : Nat) (c : CommitRec) (ok : Bool) :
    KeepsBelow storeBase s (s.commitWrite bank c ok) :=
  (s.journalWrite_below _ _ ok).thenDev rfl

/-- A command of the IMG block stores at most a commit record. -/
theorem State.imgCommand_below (s : State) (op bank : Nat) (ok : Bool) : KeepsBelow storeBase s (s.imgCommand op bank ok) := by
  unfold State.imgCommand
  split
  · exact .of_dev ((s.imgReport_frame _ _).same .dev (by decide))
  · exact (KeepsBelow.of_dev (t := s.imgStart op bank (startActivity op)) rfl).trans (.when (State.commitWrite_below _ _ _ _))

theorem State.dev_imgEnd (s : State) (r : VFail) : (s.imgEnd r).dev = s.dev :=
  (State.imgEnd_touches (ps := [.regs, .outbox, .flt, .host, .img]) (.refl _ _) (by decide) (by decide) (by decide) (by decide)
    (by decide)).same .dev (by decide)

theorem State.bankCommit_below (s : State) (ok : Bool) : KeepsBelow storeBase s (s.bankCommit ok) := by
  unfold State.bankCommit
  split
  next c _ =>
    split
    · extract_lets seq x
      have write : KeepsBelow storeBase s x := s.commitWrite_below _ _ ok
      clear_value x
      exact write.thenDev (x.dev_imgEnd _)
    · exact .of_dev rfl
  · exact .of_dev rfl

theorem State.hoursStep_below (s : State) (f : Fetch) (ok : Bool) : KeepsBelow storeBase s (s.hoursStep f ok) := by
  unfold State.hoursStep
  split
  · exact .of_dev rfl
  · refine KeepsBelow.trans (t := { s with pwr := { s.pwr with hoursBank := s.hoursTime - hoursTicks, hoursAt := s.frc } })
      (.of_dev rfl) (State.anvilOwn_below fun y => ?_)
    exact (State.journalWrite_below (y.set CORE.HOURS _) _ _ ok).thenDev (State.refreshRow_dev _)

theorem State.dev_event (s : State) (f : Fld) (i : Nat) (e : Bool) (n : Nat) : (s.event f i e n).dev = s.dev :=
  (State.event_touches (ps := [.regs, .outbox, .host]) (.refl _ _) (by decide) (by decide) (by decide)).same .dev (by decide)

theorem State.migDone_below (s : State) (ok : Bool) : KeepsBelow storeBase s (s.migDone ok) := by
  unfold State.migDone
  split
  · split
    · exact .of_dev rfl
    · extract_lets mig0 m buf0 x y z
      have shown : y.dev = s.dev := rfl
      have write : KeepsBelow storeBase y z := y.storeWrite_below _ _ ok
      clear_value y z
      exact ((KeepsBelow.of_dev shown).trans write).thenDev (State.dev_event _ _ _ _ _)
  · exact .of_dev rfl

/-! ### Counters and flow records (R302, R307) -/

theorem State.memSet_below {n a k v : Nat} (s : State) (h : n ≤ a) : KeepsBelow n s (s.memSet a k v) := fun b hb => by
  rw [State.memSet_dev, memByte_memWrite_of_outside _ _ _ _ _ (.inl (by omega))]

theorem State.memStore_below {n a : Nat} (s : State) (l : List Byte) (h : n ≤ a) : KeepsBelow n s (s.memStore a l) := fun b hb => by
  rw [State.memStore_dev, memByte_memStore_of_outside _ _ _ _ (.inl (by omega))]

theorem State.pairAdd_below (s : State) (d : Delta) (e : EccState) : KeepsBelow counterBase s (s.pairAdd d e) := by
  have pair (x : State) (u v : Nat) : KeepsBelow counterBase x
      ((x.memSet (counterBase + 16 * d.index) 8 u).memSet (counterBase + 16 * d.index + 8) 8 v) :=
    (x.memSet_below (by omega)).trans (State.memSet_below _ (by omega))
  by_cases h : s.eccOf (counterBase + 16 * d.index) 16 e = .uncorrectable
  · rw [State.pairAdd_of_uncorrectable rfl h]
    refine KeepsBelow.trans (.of_dev ?_) (pair _ _ _)
    unfold State.pairLost State.faultAt
    split <;> rfl
  · rw [State.pairAdd_of_readable rfl h]
    exact KeepsBelow.trans (t := s.qdrOp 4) (.of_dev rfl) (pair _ _ _)

theorem State.dev_tally (s : State) (u code n : Nat) : (s.tally u code n).dev = s.dev :=
  (State.tally_touches (ps := [.regs, .outbox, .act, .host]) (.refl _ s) (by decide) (by decide) (by decide) (by decide)).same .dev
    (by decide)

theorem State.deltaFlush_below (s : State) (shard index : Nat) (e : EccState) :
    KeepsBelow counterBase s (s.deltaFlush shard index e) := by
  unfold State.deltaFlush
  split
  · exact ((KeepsBelow.of_dev rfl).trans (State.pairAdd_below (s.setDeltas shard _) _ e)).thenDev (State.dev_tally _ _ _ _)
  · exact .of_dev rfl

theorem State.flushPass_dev (s : State) : s.flushPass.dev = s.dev :=
  (State.flushPass_touches (ps := [.regs, .flt, .anvil]) (.refl _ s) (by decide) (by decide) (by decide)).same .dev (by decide)

theorem State.flushStep_below (s : State) (shard : Nat) (e : EccState) : KeepsBelow counterBase s (s.flushStep shard e) := by
  unfold State.flushStep
  extract_lets c x
  have flushed : KeepsBelow counterBase s x := .upTo (fun k y => .foldl (fun z d => z.deltaFlush_below _ _ _) _ y) s
  clear_value x
  split
  · exact flushed.thenDev rfl
  · exact flushed.thenDev x.flushPass_dev

theorem State.counterFlushDone_below (s : State) : KeepsBelow counterBase s s.counterFlushDone := by
  unfold State.counterFlushDone
  split
  · extract_lets x tele y
    have flushed : KeepsBelow counterBase s x := .foldl (fun z d => z.deltaFlush_below _ _ _) _ s
    clear_value x
    have ended : (y.setB TELE.FL_BUSY false).dev = x.dev := rfl
    exact flushed.thenDev ((State.dev_event _ _ _ _ _).trans ended)
  · exact .of_dev rfl

theorem counterBase_le_flowAddr (shard i : Nat) : counterBase ≤ flowAddr shard i :=
  Nat.le_trans (by decide : counterBase ≤ flowBase) (Nat.le_add_right _ _)

theorem State.dev_fsStamp (s : State) (shard : Nat) : (s.fsStamp shard).dev = s.dev := by
  unfold State.fsStamp
  split <;> rfl

theorem State.dev_inc (s : State) (f : Fld) (i j : Nat) : (s.inc f i j).dev = s.dev := s.set_dev f _ i j

theorem State.dev_fsPop (s : State) (shard k : Nat) : (s.fsPop shard k).dev = s.dev := rfl

theorem State.dev_qdrOp (s : State) (n : Nat) : (s.qdrOp n).dev = s.dev := rfl

/-- A full flow store that overwrites gives up its oldest record (R303). -/
def State.fsRoom (s : State) (shard : Nat) : State :=
  if (s.fsWaiting shard == 524288) = true then (s.inc TELE.FS_FS_LOST shard).fsPop shard 1 else s

/-- The record goes to the write pointer (R303). -/
def State.fsStored (s : State) (shard : Nat) (rec_ : List Byte) : State :=
  (((s.qdrOp 4).memStore (flowAddr shard (s.get TELE.FS_WR_PTR shard)) rec_).set TELE.FS_WR_PTR (s.get TELE.FS_WR_PTR shard + 1)
    shard).fsStamp shard

theorem State.fsWrite_eq (s : State) (shard : Nat) (rec_ : List Byte) :
    s.fsWrite shard rec_ = if (s.fsWaiting shard == 524288 && !bit (s.get TELE.FLAGS) 3) = true then s.inc TELE.FS_FS_LOST shard
      else (s.fsRoom shard).fsStored shard rec_ := rfl

theorem State.dev_fsRoom (s : State) (shard : Nat) : (s.fsRoom shard).dev = s.dev := by
  unfold State.fsRoom
  split
  · exact (State.dev_fsPop _ _ _).trans (s.dev_inc _ _ _)
  · rfl

theorem State.fsStored_below (s : State) (shard : Nat) (rec_ : List Byte) : KeepsBelow counterBase s (s.fsStored shard rec_) := by
  have stored := (KeepsBelow.of_dev (s.dev_qdrOp 4)).trans
    ((s.qdrOp 4).memStore_below rec_ (counterBase_le_flowAddr shard (s.get TELE.FS_WR_PTR shard)))
  exact (stored.thenDev (State.set_dev _ TELE.FS_WR_PTR _ shard 0)).thenDev (State.dev_fsStamp _ _)

theorem State.fsWrite_below (s : State) (shard : Nat) (rec_ : List Byte) : KeepsBelow counterBase s (s.fsWrite shard rec_) := by
  rw [State.fsWrite_eq]
  split
  · exact .of_dev (s.dev_inc _ _ _)
  · exact (KeepsBelow.of_dev (s.dev_fsRoom _)).trans (State.fsStored_below _ _ _)

theorem State.flowEvict_below (s : State) (key reason : Nat) : KeepsBelow counterBase s (s.flowEvict key reason) := by
  unfold State.flowEvict
  split
  · extract_lets shard tele x
    have taken : x.dev = s.dev := rfl
    clear_value x
    exact (((KeepsBelow.of_dev taken).trans (x.fsWrite_below _ _)).thenDev (State.dev_inc _ _ _ _)).thenDev (State.dev_tally _ _ _ _)
  · exact .of_dev rfl

theorem State.exportStep_below (s : State) (set : Nat) (bad : List (Fin 8 × Fin 4)) :
    KeepsBelow counterBase s (s.exportStep set bad) := by
  have dropped (y : State) (key : Nat) : (y.flowBad key).dev = y.dev := by
    unfold State.flowBad
    split <;> rfl
  have expired (y : State) (key : Nat) (r : Option Nat) : KeepsBelow counterBase y (y.flowExpire key r) := by
    cases r with
    | some r => exact y.flowEvict_below key r
    | none => exact .of_dev rfl
  refine KeepsBelow.trans (.foldl (fun y x => .of_dev (dropped y _)) bad s) (.upTo (fun k y => .upTo (fun w z => ?_) y) _)
  split
  · exact expired z _ _
  · exact .of_dev rfl

/-- Settles O60: each store of these commands goes to a line of the module store, a counter pair or a record of the flow store. -/
theorem storesKeepToTheirRegion : Obligations.StoresKeepToTheirRegion := by
  unfold Obligations.StoresKeepToTheirRegion
  refine ⟨fun c s t hc h => ?_, fun c s t hc h => ?_⟩
  · change KeepsBelow storeBase s t
    cases c
    case hoursIncrement f ok => exact Host.Outcome.next.inj h ▸ s.hoursStep_below f ok
    case loadBank b => exact Host.Outcome.next.inj h ▸ .viaHost (s.imgCommand_below _ _ _)
    case loadHost => exact Host.Outcome.next.inj h ▸ .viaHost (s.imgCommand_below _ _ _)
    case writeBank b ok => exact Host.Outcome.next.inj h ▸ .viaHost (s.imgCommand_below _ _ _)
    case verifyBank b => exact Host.Outcome.next.inj h ▸ .viaHost (s.imgCommand_below _ _ _)
    case swap => exact Host.Outcome.next.inj h ▸ .viaHost (s.imgCommand_below _ _ _)
    case bankCommit ok => exact Host.Outcome.next.inj h ▸ s.bankCommit_below ok
    case wearLevelStep f line ok =>
      exact Host.Outcome.next.inj h ▸ State.anvilStep_below fun y => y.storeWrite_below _ _ ok
    case bankMigrationDone f ok => exact Host.Outcome.next.inj h ▸ State.anvilStep_below fun y => y.migDone_below ok
    all_goals exact nomatch hc
  · change KeepsBelow counterBase s t
    cases c
    case counterFlushStep f shard e => exact Host.Outcome.next.inj h ▸ State.anvilStep_below fun y => y.flushStep_below shard.val e
    case counterFlushDone => exact Host.Outcome.next.inj h ▸ s.counterFlushDone_below
    case telemetryExportStep f set bad =>
      exact Host.Outcome.next.inj h ▸ State.anvilStep_below fun y => y.exportStep_below set.val bad
    all_goals exact nomatch hc

end Sys2Proof.Machine
end

section
/-!
Proof of O31: corrected time is set, stepped, shown and steered (R274 to R276).
-/
namespace Sys2Proof.Machine
open Reg

/-! ### Corrected time as the registers give it (R274) -/

/-- The fields that give corrected time. -/
abbrev timeFields : List Fld := [TIME.FRC, TIME.OFF_SEC, TIME.OFF_NS, TIME.OFF_FRAC, TIME.REF, TIME.RATE]

theorem State.now_congr {s t : State} (h : ∀ f ∈ timeFields, t.get f = s.get f) : t.now = s.now := by
  simp only [timeFields, List.forall_mem_cons] at h
  obtain ⟨frc, sec, ns, frac, ref, rate, -⟩ := h
  rw [State.now, State.now, State.timeAt, State.timeAt, State.frc, State.frc, frc, sec, ns, frac, ref, rate]

/-- What writes none of those fields leaves corrected time. -/
theorem Writes.now_eq {F : List Nat} {s t : State} (h : Writes F s t)
    (ha : timeFields.all (fun g => F.all fun n => g.apart (fldAt n)) = true) : t.now = s.now :=
  State.now_congr fun f hf => h.get_eq (List.all_eq_true.mp ha f hf)
    (List.all_eq_true.mp (by decide : timeFields.all (fun g => decide (g.Inst 0 0)) = true) f hf |> of_decide_eq_true)

theorem timeOf_parts (t : Nat) : timeOf (timeSec t) (timeNs t) (timeFrac t) = t := by
  unfold timeOf timeSec timeNs timeFrac
  omega

theorem timeNs_lt (t : Nat) : timeNs t < 2 ^ 30 := Nat.lt_of_lt_of_le (Nat.mod_lt _ (by decide)) (by decide)

theorem timeFrac_lt (t : Nat) : timeFrac t < 2 ^ 16 := Nat.mod_lt _ (by decide)

theorem timeSec_timeOf {sec ns frac : Nat} (hn : ns < 1000000000) (hf : frac < 65536) : timeSec (timeOf sec ns frac) = sec := by
  unfold timeOf timeSec
  omega

/-- Corrected time at the instant of the last commit. -/
theorem State.now_of_ref {s : State} {t : Nat} (hr : s.get TIME.REF = s.frc) (hs : s.get TIME.OFF_SEC = timeSec t)
    (hn : s.get TIME.OFF_NS = timeNs t) (hf : s.get TIME.OFF_FRAC = timeFrac t) : s.now = t := by
  rw [State.now, State.timeAt, hr, hs, hn, hf, Nat.sub_self, timeOf_parts]
  simp

theorem State.get_REF_setOff {s : State} (t : Nat) (hf : s.frc < 2 ^ 64) : (s.setOff t).get TIME.REF = s.frc := by
  unfold State.setOff
  rw [State.get_set_self]
  exact Nat.mod_eq_of_lt hf

theorem State.setOff_writesOwn (s : State) (t : Nat) : Writes [2833, 2834, 2835, 2836] s (s.setOff t) :=
  State.setOff_writes (.refl _ s) (List.Subset.refl _)

theorem State.get_OFF_setOff {s : State} {t : Nat} (ht : timeSec t < 2 ^ 48) :
    (s.setOff t).get TIME.OFF_SEC = timeSec t ∧ (s.setOff t).get TIME.OFF_NS = timeNs t ∧
      (s.setOff t).get TIME.OFF_FRAC = timeFrac t := by
  unfold State.setOff
  refine ⟨?_, ?_, ?_⟩ <;> simp (disch := decide) only [State.get_set_self, State.get_set_of_ne]
  · exact Nat.mod_eq_of_lt ht
  · exact Nat.mod_eq_of_lt (timeNs_lt t)
  · exact Nat.mod_eq_of_lt (timeFrac_lt t)

/-- Corrected time that is set reads as it was set, whatever the rate becomes. -/
theorem State.now_of_setOff {F : List Nat} {s u : State} {t : Nat} (w : Writes F (s.setOff t) u) (hf : s.frc < 2 ^ 64)
    (ht : timeSec t < 2 ^ 48)
    (ha : [TIME.FRC, TIME.OFF_SEC, TIME.OFF_NS, TIME.OFF_FRAC, TIME.REF].all (fun g => F.all fun n => g.apart (fldAt n)) = true) :
    u.now = t := by
  simp only [List.all_cons, Bool.and_eq_true] at ha
  obtain ⟨frc, sec, ns, frac, ref, -⟩ := ha
  obtain ⟨hs, hn, hr⟩ := State.get_OFF_setOff (s := s) ht
  have count : u.frc = s.frc := (w.get_eq frc (by decide)).trans ((s.setOff_writesOwn t).get_eq (g := TIME.FRC) (by decide) (by decide))
  refine State.now_of_ref ?_ ((w.get_eq sec (by decide)).trans hs) ((w.get_eq ns (by decide)).trans hn)
    ((w.get_eq frac (by decide)).trans hr)
  rw [w.get_eq ref (by decide), State.get_REF_setOff t hf, count]

/-! ### No trigger is armed: what a commit and a jump set off (R276, R286) -/

/-- No trigger is armed. -/
def State.Unarmed (s : State) : Prop := ∀ n, n < 16 → s.flag TIME.T_ARMED n = false

theorem upTo_self {α : Type} {n : Nat} {f : Nat → α → α} {x : α} (h : ∀ k, k < n → f k x = x) : upTo n f x = x := by
  induction n with
  | zero => rfl
  | succ n ih => rw [upTo_succ, ih fun k hk => h k (by omega), h n (by omega)]

theorem State.trigsDue_of_unarmed {s : State} (h : s.Unarmed) : s.trigsDue = s.gatesRelocate := by
  unfold State.trigsDue
  rw [upTo_self]
  intro k hk
  rw [State.trigDue, h k hk, Bool.false_and, if_neg Bool.false_ne_true]

theorem State.afterJump_of_unarmed {s : State} (h : s.Unarmed) : s.afterJump = s.gatesRelocate.ppsRebase := by
  unfold State.afterJump
  rw [upTo_self]
  intro k hk
  unfold State.trigStepped
  rw [h k hk]
  rfl

theorem State.gatesRelocate_of_none {s : State} (h : s.que.gates = []) : s.gatesRelocate = s := by
  rw [State.gatesRelocate, h]
  rfl

/-- What relocating the gates writes leaves corrected time and the triggers. -/
theorem State.gatesRelocate_writesOwn (s : State) : Writes [2572, 2573, 2574] s s.gatesRelocate :=
  State.gatesRelocate_writes (.refl _ s) (List.Subset.refl _)

theorem State.Unarmed.of_writes {F : List Nat} {s t : State} (h : s.Unarmed) (w : Writes F s t)
    (ha : F.all (fun n => TIME.T_ARMED.apart (fldAt n)) = true) : t.Unarmed := fun n hn => by
  rw [w.flag_eq ha ⟨hn, by decide⟩, h n hn]

/-! ### Setting, stepping, showing and steering (R276) -/

/-- What SET and STEP do once the instant is known. -/
def State.timeJump (s : State) (t : Nat) : State := (((s.setOff t).setB TIME.TOD_VALID true).timeUpdate).afterJump

/-- A jump with no trigger armed and no gate running makes corrected time the instant, valid and out of holdover. -/
theorem State.timeJump_of_unarmed {s : State} {t : Nat} (hf : s.frc < 2 ^ 64) (ha : s.Unarmed) (hg : s.que.gates = [])
    (ht : timeSec t < 2 ^ 48) :
    (s.timeJump t).now = t ∧ (s.timeJump t).get TIME.REF = s.frc ∧ (s.timeJump t).flag TIME.TOD_VALID = true ∧
      (s.timeJump t).flag TIME.HOLDOVER = false ∧ (s.timeJump t).time.lastUpdate = s.frc := by
  have set : Writes [2816, 2817] (s.setOff t) (((s.setOff t).setB TIME.TOD_VALID true).timeUpdate) :=
    State.timeUpdate_writes (State.setB_writes (.TIME_TOD_VALID (by decide)) (.refl _ _)) (by decide)
  have unarmed := (ha.of_writes (s.setOff_writesOwn t) (by decide)).of_writes set (by decide)
  have now := State.now_of_setOff set hf ht (by decide)
  have frc : ((s.setOff t).setB TIME.TOD_VALID true).frc = s.frc :=
    (State.setB_writes (F := [2816]) (.TIME_TOD_VALID (by decide)) (.refl _ _)).get_eq (g := TIME.FRC) (by decide) (by decide) |>.trans
      ((s.setOff_writesOwn t).get_eq (g := TIME.FRC) (by decide) (by decide))
  have jump : s.timeJump t = (((s.setOff t).setB TIME.TOD_VALID true).timeUpdate).ppsRebase := by
    rw [State.timeJump, State.afterJump_of_unarmed unarmed,
      State.gatesRelocate_of_none (s := ((s.setOff t).setB TIME.TOD_VALID true).timeUpdate) hg]
  refine ⟨?_, ?_, State.flag_TOD_VALID_setOff s t, ?_, ?_⟩ <;> rw [jump]
  · exact now
  · exact (set.get_eq (g := TIME.REF) (by decide) (by decide)).trans (State.get_REF_setOff t hf)
  · exact State.flag_setB_self _ _ false 0 0 (by decide)
  · exact frc

theorem State.timeSet_of_unarmed {s : State} (ha : s.Unarmed) (hg : s.que.gates = []) :
    s.timeSet = s.timeJump (timeOf (s.get TIME.SET_SEC) (s.get TIME.SET_NS) (s.get TIME.SET_FRAC)) := by
  unfold State.timeSet
  rw [State.trigsDue_of_unarmed ha, State.gatesRelocate_of_none hg]
  rfl

/-- What STEP sets corrected time to. -/
def State.steppedTime (s : State) : Int := (s.now : Int) + signed (s.get TIME.ADJ_DELTA) 64

theorem State.timeStep_eq (s : State) :
    s.timeStep = if s.trigsDue.steppedTime < 0 then s.trigsDue.timeEvent TIME.STEP_ERR
      else s.trigsDue.timeJump s.trigsDue.steppedTime.toNat := rfl

theorem State.steppedTime_gatesRelocate (s : State) : s.gatesRelocate.steppedTime = s.steppedTime := by
  rw [State.steppedTime, s.gatesRelocate_writesOwn.now_eq (by decide),
    s.gatesRelocate_writesOwn.get_eq (g := TIME.ADJ_DELTA) (by decide) (by decide)]
  rfl

theorem State.timeStep_of_negative {s : State} (ha : s.Unarmed) (hn : s.steppedTime < 0) :
    s.timeStep.now = s.now ∧ s.timeStep.flag TIME.STEP_ERR = true := by
  rw [State.timeStep_eq, State.trigsDue_of_unarmed ha, s.steppedTime_gatesRelocate, if_pos hn]
  refine ⟨?_, State.flag_event_self (by decide) (by decide)⟩
  have event : Writes [2823, 4907] s.gatesRelocate (s.gatesRelocate.timeEvent TIME.STEP_ERR) :=
    State.timeEvent_writes (.TIME_STEP_ERR (by decide)) (.refl _ _) (by decide)
  exact (event.now_eq (by decide)).trans (s.gatesRelocate_writesOwn.now_eq (by decide))

theorem State.timeStep_of_positive {s : State} (ha : s.Unarmed) (hg : s.que.gates = []) {n : Nat} (hn : (n : Int) = s.steppedTime) :
    s.timeStep = s.timeJump n := by
  rw [State.timeStep_eq, State.trigsDue_of_unarmed ha, State.gatesRelocate_of_none hg, ← hn, if_neg (by omega), Int.toNat_natCast]

theorem State.timeSnapshot_shows (s : State) :
    s.timeSnapshot.get TIME.SNAP_FRC = s.frc % 2 ^ 64 ∧ s.timeSnapshot.get TIME.SNAP_SEC = timeSec s.now % 2 ^ 48 ∧
      s.timeSnapshot.get TIME.SNAP_NS = timeNs s.now ∧ s.timeSnapshot.get TIME.SNAP_FRAC = timeFrac s.now := by
  unfold State.timeSnapshot
  refine ⟨?_, ?_, ?_, ?_⟩ <;> simp (disch := decide) only [State.get_set_self, State.get_set_of_ne]
  · rfl
  · rfl
  · exact Nat.mod_eq_of_lt (timeNs_lt _)
  · exact Nat.mod_eq_of_lt (timeFrac_lt _)

/-- The low word of the rate that waited has been taken. -/
def State.lowTaken (s : State) : State := { s with host := { s.host with low := tabDel s.host.low rateOffset } }

theorem State.now_lowTaken (s : State) : s.lowTaken.now = s.now := State.now_congr fun _ _ => rfl

/-- What the commit of a rate does once the triggers and gates that are due have acted: the old rate is folded into OFF. -/
def State.rateFolded (s : State) (high : Nat) : State :=
  ((s.lowTaken.setOff s.lowTaken.now).set TIME.RATE
    ((tabFind s.host.low rateOffset).getD (s.get TIME.RATE % 2 ^ 32) + 2 ^ 32 * high)).timeUpdate

theorem State.rateCommit_eq (s : State) (high : Nat) : s.rateCommit high = s.trigsDue.rateFolded high := by
  unfold State.rateCommit State.rateFolded State.lowTaken
  rfl

theorem State.rateFolded_shows {s : State} (high : Nat) (hf : s.frc < 2 ^ 64) (ht : timeSec s.now < 2 ^ 48) :
    (s.rateFolded high).now = s.now ∧ (s.rateFolded high).flag TIME.HOLDOVER = false ∧ (s.rateFolded high).get TIME.RATE =
      ((tabFind s.host.low rateOffset).getD (s.get TIME.RATE % 2 ^ 32) + 2 ^ 32 * high) % 2 ^ 40 := by
  have update {F : List Nat} {y : State} (w : [2817] ⊆ F) : Writes F y y.timeUpdate := State.timeUpdate_writes (.refl F y) w
  unfold State.rateFolded
  rw [s.now_lowTaken]
  refine ⟨?_, State.flag_setB_self _ _ false 0 0 (by decide), ?_⟩
  · exact State.now_of_setOff (s := s.lowTaken)
      ((State.set_writes (F := [2817, 2831]) (.TIME_RATE (by decide)) (.refl _ _)).trans (update (by decide))) hf ht (by decide)
  · rw [(update (List.Subset.refl _)).get_eq (by decide) (by decide), State.get_set_self]
    rfl

/-- Settles O31: with no trigger armed each command is the jump or the folding of the rate. -/
theorem timeCommandsTakeEffect : Obligations.TimeCommandsTakeEffect := by
  unfold Obligations.TimeCommandsTakeEffect
  refine ⟨fun s ho hf ha hg hs hn hr => ⟨_, next_viaHost ho, ?_⟩, fun s n ho hf ha hg hn hs => ⟨_, next_viaHost ho, ?_⟩,
    fun s ho hn ha => ⟨_, next_viaHost ho, s.timeStep_of_negative ha hn⟩, fun s ho => ⟨_, next_viaHost ho, ?_⟩,
    fun s high ho hf ha ht hl => ⟨_, next_viaHost ho, ?_⟩⟩
  · rw [State.timeSet_of_unarmed ha hg]
    exact State.timeJump_of_unarmed hf ha hg (by rwa [timeSec_timeOf hn hr])
  · rw [State.timeStep_of_positive ha hg hn]
    obtain ⟨now, ref, valid, -, -⟩ := State.timeJump_of_unarmed hf ha hg hs
    exact ⟨now, ref, valid⟩
  · obtain ⟨frc, sec, ns, frac⟩ := s.timeSnapshot_shows
    exact ⟨frc, sec, ns, frac, (State.timeSnapshot_writes (.refl _ s) (List.Subset.refl _)).now_eq (by decide)⟩
  · have same := s.gatesRelocate_writesOwn
    have now := same.now_eq (by decide)
    have frc : s.gatesRelocate.frc = s.frc := same.get_eq (g := TIME.FRC) (by decide) (by decide)
    have host : s.gatesRelocate.host = s.host :=
      (State.gatesRelocate_touches (ps := [.regs, .que]) (.refl _ s) (by decide) (by decide)).same .host (by decide)
    have shown := State.rateFolded_shows (s := s.gatesRelocate) high.toNat (by rwa [frc]) (by rwa [now])
    rw [host, hl, same.get_eq (g := TIME.RATE) (by decide) (by decide), now] at shown
    rw [State.rateCommit_eq, State.trigsDue_of_unarmed ha]
    exact shown

end Sys2Proof.Machine
end

section
/-!
Proof of O32: holdover, the reference, triggers, capture pins and PPS_OUT (R273, R278, R284, R285, R288 to R290).
-/
namespace Sys2Proof.Machine
open Reg

/-! ### Events with their faults (R273, R278, R288) -/

/-- A register is set to 1, its event raised and its fault reported. -/
def State.raised (s : State) (f e : Fld) (src : Nat) : State := ((s.setB f true).timeEvent e).fault src

theorem State.raised_shows {s : State} {f e : Fld} {src : Nat} (hf : f.wd ≠ 0) (he : e.wd ≠ 0) (apart : f.apart e = true)
    (hp : f.apart GLB.PENDING = true) (hep : e.apart GLB.PENDING = true) (hi : f.Inst 0 0) (hei : e.Inst 0 0) :
    (s.raised f e src).flag f = true ∧ (s.raised f e src).flag e = true ∧ (s.raised f e src).flt = (s.fault src).flt := by
  have flt : ((s.setB f true).timeEvent e).flt = s.flt :=
    (State.timeEvent_touches (ps := [.regs, .outbox, .host]) (.refl _ (s.setB f true)) (by decide) (by decide) (by decide)).same .flt
      (by decide)
  refine ⟨?_, State.flag_event_self he (Fld.key_ne_of_apart hep hei), State.flt_fault_congr flt⟩
  refine Eq.trans (congrArg (· != 0) (State.get_event_of_ne (Fld.key_ne_of_apart apart hi) (Fld.key_ne_of_apart hp hi))) ?_
  exact State.flag_setB_self s f true 0 0 hf

theorem State.holdover_of_late {s : State} (hv : s.flag TIME.TOD_VALID = true) (ht : s.get TIME.HOLD_TIMEOUT ≠ 0)
    (hh : s.flag TIME.HOLDOVER = false) (hl : s.time.lastUpdate + s.get TIME.HOLD_TIMEOUT * 1250000 ≤ s.frc) :
    s.holdover = s.raised TIME.HOLDOVER TIME.HOLDOVER_EVT srcHoldover := by
  have late : s.elapsed s.time.lastUpdate (s.get TIME.HOLD_TIMEOUT * ticksPerMs) = true := decide_eq_true hl
  unfold State.holdover
  rw [hv, hh, late, bne_iff_ne.mpr ht]
  rfl

theorem State.refclkLost_of_good {s : State} (h : s.flag TIME.REFCLK_LOST = false) :
    s.refclkLost = s.raised TIME.REFCLK_LOST TIME.REFCLK_LOST_EVT srcRefclk := by
  unfold State.refclkLost
  rw [h]
  rfl

/-! ### Triggers (R284, R285) -/

theorem State.trigDisarm_writesOwn (s : State) (n : Nat) : Writes [2858] s (s.trigDisarm n) :=
  State.trigDisarm_writes (.refl _ s) (List.Subset.refl _)

/-- A one-shot trigger that is enabled, far enough ahead, is armed for its time. -/
theorem State.trigArm_of_oneShot {s : State} {n : Nat} (hn : n < 16) (he : s.flag TIME.T_EN n = true)
    (hp : s.flag TIME.T_PERIODIC n = false) {base : Nat} (hb : base = timeOf (s.get TIME.T_TIME_SEC n) (s.get TIME.T_TIME_NS n) 0)
    (hl : s.now + nsUnits 2000 ≤ base) :
    s.trigArm n = (s.trigDisarm n).trigArmed n { periodic := false, period := 0, base := base, pend := base } := by
  have enabled : (s.trigDisarm n).flag TIME.T_EN n = true := by
    rw [(s.trigDisarm_writesOwn n).flag_eq (by decide) ⟨hn, by decide⟩, he]
  unfold State.trigArm
  simp only [enabled, hp, ← hb, hl, Bool.not_true, Bool.not_false, Bool.false_eq_true, if_true, if_false]

theorem State.trigRec_trigArmed (s : State) (n : Nat) (t : Trig) : (s.trigArmed n t).trigRec n = t :=
  tabGet_tabPut_self _ _ _ _

theorem State.flag_T_ARMED_trigArmed (s : State) (n : Nat) (t : Trig) : (s.trigArmed n t).flag TIME.T_ARMED n = true :=
  State.flag_setB_self { s with time := { s.time with trig := tabPut s.time.trig n t } } TIME.T_ARMED true n 0 (by decide)

theorem State.swapTrigger_of_none {s : State} (n : Nat) (h : s.img.cmd = none) : s.swapTrigger n = s := by
  unfold State.swapTrigger
  rw [h]

/-- With no consumer selected a firing has no consequence. -/
theorem State.trigConsumers_of_none {s : State} (n : Nat) (hi : s.img.cmd = none)
    (hp : ∀ k, k < 4 → s.flag PWR.PT_EN k = false) (hl : s.flag TELE.LP_TRIG_EN = false) : s.trigConsumers n = s := by
  have none : (List.range 4).find? (fun k => s.flag PWR.PT_EN k && s.get PWR.PT_TRIG_SEL k == n) = none := by
    refine List.find?_eq_none.mpr fun k hk => ?_
    rw [hp k (List.mem_range.mp hk)]
    exact Bool.false_ne_true
  unfold State.trigConsumers
  rw [s.swapTrigger_of_none n hi]
  dsimp only
  rw [none]
  dsimp only
  rw [hl]
  rfl

/-- The event and the count of a firing. -/
def State.trigCounted (s : State) (n : Nat) : State :=
  (s.event TIME.T_FIRED n (s.flag TIME.T_IE n) sumTrig).incWrap TIME.T_FIRINGS n

theorem State.trigCounted_writes (s : State) (n : Nat) : Writes [2859, 2866, 4907] s (s.trigCounted n) :=
  State.incWrap_writes (.TIME_T_FIRINGS (by decide)) (State.event_writes (.TIME_T_FIRED (by decide)) (.refl _ s) (by decide))

theorem State.trigCounted_touches (s : State) (n : Nat) : Touches [.regs, .outbox, .host] s (s.trigCounted n) :=
  State.incWrap_touches (State.event_touches (.refl _ s) (by decide) (by decide) (by decide)) (by decide)

/-- A one-shot trigger that is due and selected by no consumer fires once and is disarmed. -/
theorem State.trigDue_of_oneShot {s : State} {n : Nat} (ha : s.flag TIME.T_ARMED n = true) (hd : (s.trigRec n).pend ≤ s.now)
    (hp : (s.trigRec n).periodic = false) (hi : s.img.cmd = none) (hk : ∀ k, k < 4 → s.flag PWR.PT_EN k = false)
    (hl : s.flag TELE.LP_TRIG_EN = false) : s.trigDue n = (s.trigCounted n).setB TIME.T_ARMED false n := by
  have writes := s.trigCounted_writes n
  have touches := s.trigCounted_touches n
  have fired : s.trigFire n = s.trigCounted n :=
    State.trigConsumers_of_none n ((congrArg ImgSt.cmd (touches.same .img (by decide))).trans hi)
      (fun k h => (writes.flag_eq (by decide) ⟨h, by decide⟩).trans (hk k h)) ((writes.flag_eq (by decide) (by decide)).trans hl)
  have rec_ : (s.trigCounted n).trigRec n = s.trigRec n := by
    rw [State.trigRec, State.trigRec, show (s.trigCounted n).time = s.time from touches.same .time (by decide)]
  unfold State.trigDue
  rw [ha, decide_eq_true hd, Bool.and_true, if_pos rfl, fired, State.trigRearm, rec_, hp]
  rfl

theorem State.trigCounted_shows {s : State} {n : Nat} (hn : n < 16) :
    ((s.trigCounted n).setB TIME.T_ARMED false n).flag TIME.T_ARMED n = false ∧
      ((s.trigCounted n).setB TIME.T_ARMED false n).flag TIME.T_FIRED n = true ∧
      ((s.trigCounted n).setB TIME.T_ARMED false n).get TIME.T_FIRINGS n = (s.get TIME.T_FIRINGS n + 1) % 2 ^ 32 := by
  have inst {f : Fld} (h : n < f.n1) (h2 : 0 < f.n2) : f.Inst n 0 := ⟨h, h2⟩
  refine ⟨State.flag_setB_self _ _ false n 0 (by decide), ?_, ?_⟩
  · rw [State.flag, State.setB, State.get_set_of_apart (by decide) ⟨hn, by decide⟩, State.trigCounted, State.incWrap,
      State.get_set_of_apart (by decide) ⟨hn, by decide⟩]
    exact State.flag_event_self (by decide) (Fld.key_ne_of_apart (by decide) ⟨hn, by decide⟩)
  · rw [State.setB, State.get_set_of_apart (by decide) ⟨hn, by decide⟩, State.trigCounted, State.incWrap, State.get_set_self,
      State.get_event_of_ne (Fld.key_ne_of_apart (by decide) ⟨hn, by decide⟩) (Fld.key_ne_of_apart (by decide) ⟨hn, by decide⟩)]
    rfl

/-! ### Pins and lanes (R288, R290) -/

/-- What an accepted edge of PPS_IN shows: its instant, its count and its level (R288). -/
def State.ppsCaptured (s : State) : State :=
  let s' : State := { s with pins := { s.pins with acceptedAt := tabPut s.pins.acceptedAt 2 (s.frc + 1) } }
  ((((s'.set TIME.C_CAP_SEC (timeSec (s.timeAgo acceptTicks))).set TIME.C_CAP_NS (timeNs (s.timeAgo acceptTicks))).set TIME.C_CAP_FRAC
    (timeFrac (s.timeAgo acceptTicks))).incWrap TIME.C_COUNT).setB GLB.PIN_LEVEL true 2

/-- The edge raises its event, and PPS_IN is seen. -/
def State.ppsSeenAt (s : State) : State :=
  State.setB { s with time := { s.time with ppsSeen := true, ppsLast := s.frc } } TIME.PPS_ABSENT false

theorem State.pinCapture_of_first {s : State} (hs : s.flag GLB.PIN_STUCK 2 = false) (ha : tabGet 0 s.pins.acceptedAt 2 = 0) :
    s.pinCapture 0 false =
      (s.ppsCaptured.eventBit TIME.CAPTURE_EVT 0 (s.ppsCaptured.bitOf TIME.INT_EN 2) sumTime).ppsSeenAt := by
  unfold State.pinCapture
  dsimp only
  rw [hs, ha]
  rfl

theorem State.ppsCaptured_shows (s : State) :
    s.ppsCaptured.get TIME.C_CAP_SEC = timeSec (s.timeAgo acceptTicks) % 2 ^ 48 ∧
      s.ppsCaptured.get TIME.C_CAP_NS = timeNs (s.timeAgo acceptTicks) ∧
      s.ppsCaptured.get TIME.C_CAP_FRAC = timeFrac (s.timeAgo acceptTicks) ∧
      s.ppsCaptured.get TIME.C_COUNT = (s.get TIME.C_COUNT + 1) % 2 ^ 32 ∧ s.ppsCaptured.frc = s.frc := by
  unfold State.ppsCaptured State.setB State.incWrap State.frc
  refine ⟨?_, ?_, ?_, ?_, ?_⟩ <;> simp (disch := decide) only [State.get_set_self, State.get_set_of_ne]
  · rfl
  · exact Nat.mod_eq_of_lt (timeNs_lt _)
  · exact Nat.mod_eq_of_lt (timeFrac_lt _)
  · rfl
  · rfl

/-- What follows the capture of PPS_IN leaves its registers, and notes the instant. -/
theorem State.ppsSeenAt_shows (s : State) (b : Bool) :
    Writes [2819, 2822, 4907] s (s.eventBit TIME.CAPTURE_EVT 0 b sumTime).ppsSeenAt ∧
      (s.eventBit TIME.CAPTURE_EVT 0 b sumTime).ppsSeenAt.flag TIME.PPS_ABSENT = false ∧
      (s.eventBit TIME.CAPTURE_EVT 0 b sumTime).ppsSeenAt.time.ppsSeen = true ∧
      (s.eventBit TIME.CAPTURE_EVT 0 b sumTime).ppsSeenAt.time.ppsLast = s.frc := by
  have event : Writes [2819, 2822, 4907] s (s.eventBit TIME.CAPTURE_EVT 0 b sumTime) :=
    State.eventBit_writes (.TIME_CAPTURE_EVT (by decide)) (.refl _ s) (by decide)
  generalize s.eventBit TIME.CAPTURE_EVT 0 b sumTime = x at event
  refine ⟨?_, State.flag_setB_self _ _ false 0 0 (by decide), rfl, event.get_eq (g := TIME.FRC) (by decide) (by decide)⟩
  exact State.setB_writes (.TIME_PPS_ABSENT (by decide))
    (x := { x with time := { x.time with ppsSeen := true, ppsLast := x.frc } }) ⟨event.only⟩

theorem State.cdrLock_flags {s : State} {l : Nat} (signal lock : Bool) (hl : l < 1024) :
    (s.cdrLock l signal lock).flag LANE.CDR_LOCK l = (signal && lock) ∧ (s.cdrLock l signal lock).flag LANE.SIGNAL_DETECT l = signal := by
  have synce : Writes [2854] ((s.setB LANE.SIGNAL_DETECT signal l).setB LANE.CDR_LOCK (signal && lock) l) (s.cdrLock l signal lock) :=
    Writes.upTo (fun k y h => State.synceUpdate_writes h (by decide)) (.refl _ _)
  rw [synce.flag_eq (by decide) ⟨hl, by decide⟩, synce.flag_eq (by decide) ⟨hl, by decide⟩]
  refine ⟨State.flag_setB_self _ _ _ _ _ (by decide), ?_⟩
  rw [State.flag, State.setB, State.get_set_of_apart (by decide) ⟨hl, by decide⟩]
  exact State.flag_setB_self _ _ _ _ _ (by decide)

/-- Settles O32: each event is the change of registers that the spec gives, under its conditions. -/
theorem timingEventsTakeEffect : Obligations.TimingEventsTakeEffect := by
  unfold Obligations.TimingEventsTakeEffect
  refine ⟨fun s hv ht hh hl => ?_, fun s h => ?_, fun s => rfl, fun s n ho he hp hl => ⟨_, next_viaHost ho, ?_⟩,
    fun s n ha hd hp hi hk hl => ?_, fun s hs ha => ?_, fun s hs ha hl => ?_, fun s he hsrc hl => ?_, fun s hh he => ?_,
    fun s l signal lock => ⟨_, rfl, State.cdrLock_flags signal lock l.isLt⟩⟩
  · refine ⟨_, congrArg Host.Outcome.next (State.holdover_of_late hv ht hh hl), ?_⟩
    exact State.raised_shows (by decide) (by decide) (by decide) (by decide) (by decide) (by decide) (by decide)
  · refine ⟨_, congrArg Host.Outcome.next (State.refclkLost_of_good h), ?_⟩
    exact State.raised_shows (by decide) (by decide) (by decide) (by decide) (by decide) (by decide) (by decide)
  · rw [State.trigArm_of_oneShot n.isLt he hp rfl hl]
    have record := State.trigRec_trigArmed (s.trigDisarm n) n
    exact ⟨State.flag_T_ARMED_trigArmed _ _ _, congrArg Trig.periodic (record _), congrArg Trig.pend (record _)⟩
  · exact ⟨_, congrArg Host.Outcome.next (State.trigDue_of_oneShot ha hd hp hi hk hl), State.trigCounted_shows n.isLt⟩
  · refine ⟨_, congrArg Host.Outcome.next (State.pinCapture_of_first hs ha), ?_⟩
    have shown := s.ppsCaptured_shows
    have after := s.ppsCaptured.ppsSeenAt_shows (s.ppsCaptured.bitOf TIME.INT_EN 2)
    generalize s.ppsCaptured = x at shown after
    obtain ⟨sec, ns, frac, count, frc⟩ := shown
    obtain ⟨writes, absent, seen, last⟩ := after
    exact ⟨(writes.get_eq (by decide) (by decide)).trans sec, (writes.get_eq (by decide) (by decide)).trans ns,
      (writes.get_eq (by decide) (by decide)).trans frac, (writes.get_eq (by decide) (by decide)).trans count, absent, seen,
      last.trans frc⟩
  · have absent : s.elapsed s.time.ppsLast (1500 * ticksPerMs) = true := decide_eq_true hl
    refine ⟨(s.setB TIME.PPS_ABSENT true).fault srcPpsAbsent, ?_, State.flag_setB_self s TIME.PPS_ABSENT true 0 0 (by decide),
      State.flt_fault_congr rfl⟩
    show (.next (s.when (s.time.ppsSeen && !s.flag TIME.PPS_ABSENT && s.elapsed s.time.ppsLast (1500 * ticksPerMs))
      fun s => (s.setB TIME.PPS_ABSENT true).fault srcPpsAbsent) : Result) = _
    rw [hs, ha, absent]
    rfl
  · refine congrArg Host.Outcome.next ?_
    unfold State.ppsOut
    rw [he, hsrc, if_pos hl]
    rfl
  · have ended : (s.time.ppsHigh && decide (s.time.ppsEnd ≤ s.frc)) = true := by rw [hh, decide_eq_true he]; rfl
    exact congrArg Host.Outcome.next (if_pos ended)

end Sys2Proof.Machine
end

section
/-!
What the link state machine of a port does to its registers (R89 to R91), and the proofs of O23 and O24.
-/
namespace Sys2Proof.Machine
open Reg

/-! ### Entering a state (R90) -/

/-- The state is shown, and the port is not UP. -/
def State.linkShown (s : State) (p st : Nat) : State := ((s.lanesQuiet p).set PORT.LINK_STATE st p).setB PORT.LINK_UP false p

/-- What AN, TRAINING and TEST prepare at their entry. -/
def State.linkPrepared (s : State) (p st : Nat) : State :=
  let s := s.when (st == linkAn) (fun s => s.setB PORT.AN_DONE false p)
  let s := s.when (st == linkAn || st == linkTraining) (fun s => s.setB PORT.TRAIN_DONE false p)
  let s := s.when (st == linkTraining) (fun s => (s.portLanes p).foldl (fun s l => s.trainLane l) s)
  s.when (st == linkTest) (fun s => (s.portLanes p).foldl (fun s l => s.genStart l) s)

/-- The instant of the entry is noted, and the lanes send what the state says. -/
def State.linkNoted (s : State) (p : Nat) : State := (s.putLink p { s.linkRec p with alignAt := s.frc }).portLine p

theorem State.linkGo_eq (s : State) (p st : Nat) : s.linkGo p st = ((s.linkShown p st).linkPrepared p st).linkNoted p := rfl

theorem State.linkPrepared_writes (s : State) (p st : Nat) : Writes [520, 521, 522, 523, 784, 785] s (s.linkPrepared p st) := by
  unfold State.linkPrepared
  exact State.when_writes (fun _ h => .foldl (fun _ _ k => State.genStart_writes k) h)
    (State.when_writes (fun _ h => .foldl (fun _ _ k => State.trainLane_writes k (by decide)) h)
      (State.when_writes (fun _ h => State.setB_writes (.PORT_TRAIN_DONE (by decide)) h)
        (State.when_writes (fun _ h => State.setB_writes (.PORT_AN_DONE (by decide)) h) (.refl _ s))))

theorem State.linkNoted_writes (s : State) (p : Nat) : Writes [] s (s.linkNoted p) :=
  State.portLine_writes (State.putLink_writes (.refl _ s))

/-- ALIGN, DISABLED and SAFE prepare nothing. -/
theorem State.linkPrepared_of_plain {st : Nat} (s : State) (p : Nat) (h : st ∈ [linkAlign, linkDisabled, linkSafe]) :
    s.linkPrepared p st = s := by
  simp only [List.mem_cons, List.not_mem_nil, or_false] at h
  obtain rfl | rfl | rfl := h <;> rfl

theorem Writes.widen {F G : List Nat} {s t : State} (h : Writes F s t) (sub : F ⊆ G) : Writes G s t :=
  ⟨fun k hk => h.only k fun f hf => hk f (List.map_subset _ sub hf)⟩

/-- What follows the change of LINK_STATE writes neither it nor LINK_UP. -/
theorem State.linkGo_writes_shown (s : State) (p st : Nat) : Writes [520, 521, 522, 523, 784, 785] (s.linkShown p st) (s.linkGo p st) :=
  (State.linkPrepared_writes _ p st).trans ((State.linkNoted_writes _ p).widen (by decide))

theorem State.linkShown_writes (s : State) (p st : Nat) : Writes [520, 540, 775, 776] s (s.linkShown p st) :=
  State.setB_writes (.PORT_LINK_UP (by decide)) (State.set_writes (.PORT_LINK_STATE (by decide))
    (State.lanesQuiet_writes (.refl _ s) (by decide)))

/-- The entry of ALIGN, DISABLED or SAFE changes only what shows the state. -/
theorem State.linkGo_writes_plain {st : Nat} (s : State) (p : Nat) (h : st ∈ [linkAlign, linkDisabled, linkSafe]) :
    Writes [520, 540, 775, 776] s (s.linkGo p st) := by
  rw [State.linkGo_eq, State.linkPrepared_of_plain _ p h]
  exact (s.linkShown_writes p st).trans ((State.linkNoted_writes _ p).widen (by decide))

theorem State.linkState_linkGo (s : State) {p st : Nat} (hp : p < 1024) (hs : st < 8) : (s.linkGo p st).linkState p = st := by
  rw [State.linkState, (s.linkGo_writes_shown p st).get_eq (by decide) ⟨hp, by decide⟩, State.linkShown, State.setB,
    State.get_set_of_apart (by decide) ⟨hp, by decide⟩, State.get_set_self]
  exact Nat.mod_eq_of_lt hs

theorem State.flag_LINK_UP_linkGo (s : State) {p : Nat} (st : Nat) (hp : p < 1024) : (s.linkGo p st).flag PORT.LINK_UP p = false := by
  rw [(s.linkGo_writes_shown p st).flag_eq (by decide) ⟨hp, by decide⟩]
  exact State.flag_setB_self _ _ false p 0 (by decide)

/-- The registers that a change of a port's state writes. -/
abbrev linkPlaces : List Nat := [520, 521, 522, 523, 540, 775, 776, 784, 785]

theorem State.linkGo_writesOwn (s : State) (p st : Nat) : Writes linkPlaces s (s.linkGo p st) :=
  State.linkGo_writes (.refl _ s) (List.Subset.refl _)

/-! ### Leaving UP (R91) and the first state (R90) -/

theorem State.firstState_lt (s : State) (p : Nat) : s.firstState p < 8 := by
  unfold State.firstState
  split
  · decide
  · split <;> decide

theorem State.leaveUp_of_notUp {s : State} {p : Nat} (h : s.linkState p ≠ linkUp) : s.leaveUp p = s := by
  unfold State.leaveUp State.portUp
  rw [beq_eq_false_iff_ne.mpr h, Bool.and_false]
  rfl

/-- The registers that leaving UP writes. -/
abbrev leavePlaces : List Nat :=
  [283, 775, 776, 788, 819, 823, 2323, 2325, 2331, 2332, 2333, 2334, 2360, 2362, 2363, 2364, 2365, 2569, 2584, 2586, 3076, 3083, 3084,
    3085, 3104, 3110, 3113, 3114, 3123, 3125, 4907]

theorem State.leaveUp_writesOwn (s : State) (p : Nat) : Writes leavePlaces s (s.leaveUp p) :=
  State.leaveUp_writes (.refl _ s) (List.Subset.refl _)

/-- The settings of a port that its first state depends on. -/
theorem State.firstState_congr {s t : State} {p : Nat} (ha : t.flag PORT.AN_EN p = s.flag PORT.AN_EN p)
    (hl : t.flag PORT.LT_EN p = s.flag PORT.LT_EN p) : t.firstState p = s.firstState p := by
  rw [State.firstState, State.firstState, ha, hl]

theorem Writes.firstState_eq {F : List Nat} {s t : State} (h : Writes F s t) {p : Nat} (hp : p < 1024)
    (ha : F.all (fun n => PORT.AN_EN.apart (fldAt n)) = true) (hl : F.all (fun n => PORT.LT_EN.apart (fldAt n)) = true) :
    t.firstState p = s.firstState p :=
  State.firstState_congr (h.flag_eq ha ⟨hp, by decide⟩) (h.flag_eq hl ⟨hp, by decide⟩)

/-- From any state a port goes to the first state that its settings allow. -/
theorem State.linkState_linkFirst (s : State) {p : Nat} (hp : p < 1024) :
    (s.linkFirst p).linkState p = s.firstState p ∧ (s.linkFirst p).flag PORT.LINK_UP p = false := by
  have left : (s.leaveUp p).firstState p = s.firstState p :=
    (s.leaveUp_writesOwn p).firstState_eq hp (by decide) (by decide)
  unfold State.linkFirst
  exact ⟨(State.linkState_linkGo _ hp (State.firstState_lt _ p)).trans left, State.flag_LINK_UP_linkGo _ _ hp⟩

theorem State.linkState_linkTo (s : State) {p st : Nat} (hp : p < 1024) (hs : st < 8) :
    (s.linkTo p st).linkState p = st ∧ (s.linkTo p st).flag PORT.LINK_UP p = false :=
  ⟨State.linkState_linkGo _ hp hs, State.flag_LINK_UP_linkGo _ _ hp⟩

/-! ### What a port keeps beside its state -/

theorem State.link_lineSend (s : State) (l : Nat) (x : LineSig) : (s.lineSend l x).buf.link = s.buf.link := by
  unfold State.lineSend
  split <;> rfl

theorem State.link_foldl {f : State → Nat → State} (hf : ∀ y l, (f y l).buf.link = y.buf.link) (ls : List Nat) (s : State) :
    (ls.foldl f s).buf.link = s.buf.link :=
  foldl_keeps (fun y => y.buf.link = s.buf.link) f (fun y l h => (hf y l).trans h) ls s rfl

theorem State.link_when {s : State} {c : Bool} {f : State → State} (hf : (f s).buf.link = s.buf.link) :
    (s.when c f).buf.link = s.buf.link :=
  State.when_cases (P := fun y => y.buf.link = s.buf.link) _ _ _ rfl fun _ => hf

theorem State.link_portLine (s : State) (p : Nat) : (s.portLine p).buf.link = s.buf.link :=
  State.link_foldl (fun y l => y.link_lineSend l _) _ s

theorem State.buf_trainLane (s : State) (l : Nat) : (s.trainLane l).buf = s.buf :=
  (State.trainLane_touches (ps := [.regs, .draws]) (.refl _ s) (by decide) (by decide)).same .buf (by decide)

theorem State.link_linkPrepared (s : State) (p st : Nat) : (s.linkPrepared p st).buf.link = s.buf.link := by
  unfold State.linkPrepared
  rw [State.link_when (State.link_foldl (f := fun s l => s.genStart l) (fun y l => rfl) _ _),
    State.link_when (State.link_foldl (f := fun s l => s.trainLane l) (fun y l => congrArg BufSt.link (y.buf_trainLane l)) _ _),
    State.link_when rfl, State.link_when rfl]

theorem State.link_linkShown (s : State) (p st : Nat) : (s.linkShown p st).buf.link = s.buf.link := by
  have quiet : (s.lanesQuiet p).buf.link = s.buf.link := by
    unfold State.lanesQuiet
    refine State.link_foldl (fun y l => ?_) _ s
    rfl
  exact quiet

/-- The entry of a state leaves LT_EN as it was taken at the entry of the first state. -/
theorem State.lt_linkGo (s : State) (p st : Nat) : ((s.linkGo p st).linkRec p).lt = (s.linkRec p).lt := by
  rw [State.linkGo_eq, State.linkNoted, State.linkRec, State.link_portLine, State.putLink, tabGet_tabPut_self]
  exact congrArg (fun t => (tabGet {} t p : LinkSt).lt) ((State.link_linkPrepared _ p st).trans (s.link_linkShown p st))

/-! ### What the lanes of a port send (R80) -/

theorem State.laneSig_lineSend (s : State) (l k : Nat) (x : LineSig) : (s.lineSend l x).laneSig k = s.laneSig k := by
  unfold State.lineSend
  split <;> rfl

theorem State.line_lineSend_self (s : State) (l : Nat) (x : LineSig) : tabGet .electricalIdle (s.lineSend l x).buf.line l = x := by
  unfold State.lineSend
  split
  · assumption
  · dsimp only [State.emit]
    split
    · next h => rw [tabGet_tabDel_self, h]
    · rw [tabGet_tabPut_self]

theorem State.line_lineSend_of_ne (s : State) {l k : Nat} (x : LineSig) (h : k ≠ l) :
    tabGet .electricalIdle (s.lineSend l x).buf.line k = tabGet .electricalIdle s.buf.line k := by
  unfold State.lineSend
  split
  · rfl
  · dsimp only [State.emit]
    split
    · rw [tabGet_tabDel_of_ne _ _ _ _ h]
    · rw [tabGet_tabPut_of_ne _ _ _ _ _ h]

/-- The lanes of a list that are told to send what the state says send it, and those that sent it before still do. -/
theorem State.line_sent (ls : List Nat) (s : State) {k : Nat}
    (h : k ∈ ls ∨ tabGet .electricalIdle s.buf.line k = s.laneSig k) :
    tabGet .electricalIdle (ls.foldl (fun s l => s.lineSend l (s.laneSig l)) s).buf.line k =
      (ls.foldl (fun s l => s.lineSend l (s.laneSig l)) s).laneSig k := by
  induction ls generalizing s with
  | nil => exact h.resolve_left List.not_mem_nil
  | cons l ls ih =>
    refine ih (s.lineSend l (s.laneSig l)) ?_
    rw [State.laneSig_lineSend]
    by_cases e : k = l
    · exact .inr (e ▸ s.line_lineSend_self k _)
    · rw [s.line_lineSend_of_ne _ e]
      exact h.imp_left fun m => (List.mem_cons.mp m).resolve_left e

theorem State.line_portLine (s : State) (p : Nat) :
    ∀ l ∈ s.portLanes p, tabGet .electricalIdle (s.portLine p).buf.line l = (s.portLine p).laneSig l :=
  fun _ hl => State.line_sent _ s (.inl hl)

/-! ### The state machine (R80, R89 to R91) -/

theorem State.inState_iff {s : State} {p st : Nat} :
    s.inState p st = true ↔ s.isPort p = true ∧ s.live = true ∧ s.linkState p = st ∧ s.frozen p = false := by
  unfold State.inState
  simp [and_assoc]

/-- An event of a port leaves what its state machine depends on. -/
theorem State.portEvent_writesOwn {e : Fld} {n : Nat} (s : State) (ie : Fld) (p : Nat) (h : fldAt n = e) :
    Writes [n, 4907] s (s.portEvent e ie p) :=
  State.portEvent_writes ⟨n, by simp, h⟩ (.refl _ s) (by simp)

theorem State.linkFirst_writesOwn (s : State) (p : Nat) : Writes (linkPlaces ++ leavePlaces) s (s.linkFirst p) :=
  State.linkFirst_writes (.refl _ s) (by decide)

/-- An event and the first state again. -/
theorem State.linkFirst_portEvent_shows {e : Fld} {n : Nat} (s : State) (ie : Fld) {p : Nat} (hp : p < 1024) (h : fldAt n = e)
    (he : e.wd ≠ 0) (hi : e.Inst p 0) (hq : e.apart GLB.PENDING = true)
    (ha : (PORT.AN_EN.apart (fldAt n) && PORT.LT_EN.apart (fldAt n)) = true)
    (hf : (linkPlaces ++ leavePlaces).all (fun n => e.apart (fldAt n)) = true) :
    ((s.portEvent e ie p).linkFirst p).linkState p = s.firstState p ∧ ((s.portEvent e ie p).linkFirst p).flag e p = true := by
  rw [Bool.and_eq_true] at ha
  obtain ⟨an, lt⟩ := ha
  have event := s.portEvent_writesOwn ie p h
  refine ⟨(State.linkState_linkFirst _ hp).1.trans (event.firstState_eq hp ?_ ?_), ?_⟩
  · simpa only [List.all_cons, List.all_nil, Bool.and_true, Bool.and_eq_true] using ⟨an, by decide⟩
  · simpa only [List.all_cons, List.all_nil, Bool.and_true, Bool.and_eq_true] using ⟨lt, by decide⟩
  · rw [(State.linkFirst_writesOwn _ p).flag_eq hf hi]
    exact State.flag_event_self he (Fld.key_ne_of_apart hq hi)

theorem State.anFail_of_in {s : State} {p : Nat} (h : s.inState p linkAn = true) :
    s.anFail p = (s.portEvent PORT.EV_AN_FAIL PORT.IE_AN_FAIL p).linkFirst p := if_pos h

theorem State.anFail_shows {s : State} {p : Nat} (hp : p < 1024) (h : s.inState p linkAn = true) :
    (s.anFail p).linkState p = s.firstState p ∧ (s.anFail p).flag PORT.EV_AN_FAIL p = true := by
  rw [State.anFail_of_in h]
  exact s.linkFirst_portEvent_shows (n := 790) _ hp rfl (by decide) ⟨hp, by decide⟩ (by decide) (by decide) (by decide)

/-- The first state takes LT_EN anew, where the port was not UP. -/
theorem State.lt_linkFirst {s : State} {p : Nat} (h : s.linkState p ≠ linkUp) :
    ((s.linkFirst p).linkRec p).lt = s.flag PORT.LT_EN p := by
  unfold State.linkFirst
  rw [State.leaveUp_of_notUp h, State.lt_linkGo, State.linkRec, State.putLink, tabGet_tabPut_self]

/-- The state machine does not see what the partner's pause ability is. -/
theorem State.inState_set {s : State} {f : Fld} {v i p st : Nat} (hp : p < 1024) (h : PORT.LINK_STATE.apart f = true) :
    (s.set f v i).inState p st = s.inState p st := by
  rw [State.inState, State.inState, State.linkState, State.linkState, State.get_set_of_apart h ⟨hp, by decide⟩]
  rfl

theorem State.anComplete_of_own {s : State} {p tech lp : Nat} (h : s.inState p linkAn = true) (ht : tech = s.desc p 2 1)
    (hl : (s.linkRec p).lt = false) :
    s.anComplete p tech lp = ((s.set PORT.LP_PAUSE lp p).setB PORT.AN_DONE true p).linkGo p linkAlign := by
  have own : (tech != (s.set PORT.LP_PAUSE lp p).desc p 2 1) = false := bne_eq_false_iff_eq.mpr ht
  have align : (s.set PORT.LP_PAUSE lp p).afterAn p = linkAlign := by
    rw [State.afterAn, show (s.set PORT.LP_PAUSE lp p).linkRec p = s.linkRec p from rfl, hl]
    rfl
  unfold State.anComplete
  rw [h]
  dsimp only
  rw [own, align]
  rfl

theorem State.anComplete_of_other {s : State} {p tech lp : Nat} (h : s.inState p linkAn = true) (ht : tech ≠ s.desc p 2 1) :
    s.anComplete p tech lp = (s.set PORT.LP_PAUSE lp p).anFail p := by
  have other : (tech != (s.set PORT.LP_PAUSE lp p).desc p 2 1) = true := bne_iff_ne.mpr ht
  unfold State.anComplete
  rw [h]
  dsimp only
  rw [other]
  rfl

/-- A state that has lasted long enough. -/
theorem State.elapsed_of_le {s : State} {a n : Nat} (h : a + n ≤ s.frc) : s.elapsed a n = true := decide_eq_true h

theorem State.linkUpNow_of_good {s : State} {p : Nat} (h : s.inState p linkAlign = true) (hok : s.linkOk p = true)
    (hat : (s.linkRec p).okAt + 1250000 ≤ s.frc) : s.linkUpNow p = s.enterUp p := by
  unfold State.linkUpNow
  rw [h, hok, s.elapsed_of_le (n := ticksPerMs) hat]
  rfl

/-- The registers of a port that enters UP. -/
def State.upShown (s : State) (p : Nat) : State :=
  ((s.set PORT.LINK_STATE linkUp p).setB PORT.LINK_UP true p).setB QSCH.HOLD_ACTIVE false p

theorem State.enterUp_writes_upShown (s : State) (p : Nat) : Writes [786, 4907] (s.upShown p) (s.enterUp p) := by
  have lines : Writes [786, 4907] (s.upShown p) (((s.upShown p).portEvent PORT.EV_LINK_UP_EVT PORT.IE_LINK_UP_EVT p).portLine p) :=
    State.portLine_writes ((s.upShown p).portEvent_writesOwn _ p rfl)
  unfold State.enterUp
  exact State.when_writes (fun _ h => State.pauseOwe_writes h) lines

theorem State.enterUp_shows (s : State) {p : Nat} (hp : p < 1024) :
    (s.enterUp p).linkState p = linkUp ∧ (s.enterUp p).flag PORT.LINK_UP p = true ∧ (s.enterUp p).holdActive p = false := by
  have after := s.enterUp_writes_upShown p
  refine ⟨(after.get_eq (by decide) ⟨hp, by decide⟩).trans ?_, (after.flag_eq (by decide) ⟨hp, by decide⟩).trans ?_,
    (after.flag_eq (by decide) ⟨hp, by decide⟩).trans (State.flag_setB_self _ _ false p 0 (by decide))⟩
  · rw [State.upShown, State.setB, State.get_set_of_apart (by decide) ⟨hp, by decide⟩, State.setB,
      State.get_set_of_apart (by decide) ⟨hp, by decide⟩, State.get_set_self]
    rfl
  · rw [State.flag, State.upShown, State.setB, State.get_set_of_apart (by decide) ⟨hp, by decide⟩]
    exact State.flag_setB_self _ _ true p 0 (by decide)

theorem State.alignTimeout_of_late {s : State} {p : Nat} (h : s.inState p linkAlign = true)
    (hat : (s.linkRec p).alignAt + s.get PORT.ALIGN_TIMEOUT p * 1250000 ≤ s.frc) :
    s.alignTimeout p = (s.portEvent PORT.EV_ALIGN_TIMEOUT_EVT PORT.IE_ALIGN_TIMEOUT_EVT p).linkFirst p := by
  unfold State.alignTimeout
  rw [h, s.elapsed_of_le (n := s.get PORT.ALIGN_TIMEOUT p * ticksPerMs) hat]
  rfl

theorem State.linkDownNow_of_late {s : State} {p : Nat} (h : s.inState p linkUp = true) (hok : s.linkOk p = false)
    (hat : (s.linkRec p).okAt + s.get PORT.LINK_DEBOUNCE p * 125000 ≤ s.frc) : s.linkDownNow p = s.linkTo p linkAlign := by
  unfold State.linkDownNow
  rw [h, hok, s.elapsed_of_le hat]
  rfl

/-! ### The inputs of the link (R89) -/

/-- What the receiver reports is shown. -/
def State.linkInputs (s : State) (p : Nat) (lf rf deskew : Bool) (am : Nat) : State :=
  ((((s.setB PORT.LF_RX lf p).setB PORT.RF_RX rf p).setB PORT.HI_SER false p).setB PORT.DESKEW_OK deskew p).set PORT.AM_LOCKED am p

/-- The instant at which LINK_OK changed is noted. -/
def State.okNoted (s : State) (p : Nat) (was : Bool) : State :=
  s.when (s.linkOk p != was) (fun s => s.putLink p { s.linkRec p with okAt := s.frc })

theorem State.linkChange_of_quiet {s : State} {p : Nat} (lf rf deskew : Bool) (am : Nat) (hp : s.isPort p = true)
    (hl : s.live = true) :
    s.linkChange p lf rf false deskew am [] = ((s.linkInputs p lf rf deskew am).okNoted p (s.linkOk p)).portLine p := by
  unfold State.linkChange
  rw [hp, hl]
  rfl

theorem State.linkInputs_shows (s : State) {p : Nat} (lf rf deskew : Bool) {am : Nat} (hp : p < 1024) (ha : am < 64) :
    (s.linkInputs p lf rf deskew am).flag PORT.LF_RX p = lf ∧ (s.linkInputs p lf rf deskew am).flag PORT.RF_RX p = rf ∧
      (s.linkInputs p lf rf deskew am).flag PORT.HI_SER p = false ∧
      (s.linkInputs p lf rf deskew am).flag PORT.DESKEW_OK p = deskew ∧
      (s.linkInputs p lf rf deskew am).get PORT.AM_LOCKED p = am := by
  have past {g f : Fld} {y : State} {v : Nat} {b : Bool} (apart : g.apart f = true) (hi : g.Inst p 0) (h : y.flag g p = b) :
      (y.set f v p).flag g p = b := by rw [State.flag, State.get_set_of_apart apart hi]; exact h
  have shown {y : State} {f : Fld} {b : Bool} (h : f.wd ≠ 0) : (y.setB f b p).flag f p = b := State.flag_setB_self y f b p 0 h
  unfold State.linkInputs
  refine ⟨?_, ?_, ?_, ?_, ?_⟩
  · exact past (by decide) ⟨hp, by decide⟩ (past (by decide) ⟨hp, by decide⟩ (past (by decide) ⟨hp, by decide⟩
      (past (by decide) ⟨hp, by decide⟩ (shown (by decide)))))
  · exact past (by decide) ⟨hp, by decide⟩ (past (by decide) ⟨hp, by decide⟩ (past (by decide) ⟨hp, by decide⟩ (shown (by decide))))
  · exact past (by decide) ⟨hp, by decide⟩ (past (by decide) ⟨hp, by decide⟩ (shown (by decide)))
  · exact past (by decide) ⟨hp, by decide⟩ (shown (by decide))
  · rw [State.get_set_self]
    exact Nat.mod_eq_of_lt ha

theorem State.okNoted_writes (s : State) (p : Nat) (was : Bool) : Writes [] s (s.okNoted p was) :=
  State.when_writes (fun _ h => State.putLink_writes h) (.refl _ s)

theorem State.linkOk_congr {s t : State} (p : Nat) (h : t.regs = s.regs) : t.linkOk p = s.linkOk p := by
  simp only [State.linkOk, State.flag, State.get, h]

theorem State.okNoted_of_changed {s : State} {p : Nat} {was : Bool} (h : s.linkOk p ≠ was) :
    ((s.okNoted p was).linkRec p).okAt = s.frc := by
  rw [State.okNoted, bne_iff_ne.mpr h, State.when_true, State.linkRec, State.putLink, tabGet_tabPut_self]

theorem State.regs_portLine (s : State) (p : Nat) : (s.portLine p).regs = s.regs :=
  (State.portLine_touches (ps := [.outbox, .buf]) (.refl _ s) (by decide) (by decide)).same .regs (by decide)

theorem State.regs_okNoted (s : State) (p : Nat) (was : Bool) : (s.okNoted p was).regs = s.regs :=
  State.when_cases (P := fun y => y.regs = s.regs) _ _ _ rfl fun _ => rfl

theorem State.portLanes_okNoted (s : State) (p : Nat) (was : Bool) : (s.okNoted p was).portLanes p = s.portLanes p :=
  State.when_cases (P := fun y => y.portLanes p = s.portLanes p) _ _ _ rfl fun _ => rfl

theorem State.linkRec_portLine (s : State) (p : Nat) : (s.portLine p).linkRec p = s.linkRec p := by
  rw [State.linkRec, State.linkRec, State.link_portLine]

theorem State.linkInputs_writes (s : State) (p : Nat) (lf rf deskew : Bool) (am : Nat) :
    Writes [777, 778, 779, 780, 781] s (s.linkInputs p lf rf deskew am) := by
  unfold State.linkInputs
  exact State.set_writes (.PORT_AM_LOCKED (by decide)) (State.setB_writes (.PORT_DESKEW_OK (by decide))
    (State.setB_writes (.PORT_HI_SER (by decide)) (State.setB_writes (.PORT_RF_RX (by decide))
      (State.setB_writes (.PORT_LF_RX (by decide)) (.refl _ s)))))

/-- Settles O23: each transition is the entry of one state, with the event that belongs to it. -/
theorem linkCommandsTakeEffect : Obligations.LinkCommandsTakeEffect := by
  unfold Obligations.LinkCommandsTakeEffect
  refine ⟨fun s p tech lp h ht hl => ?_, fun s p tech lp h ht => ?_, fun s p h => ?_, fun s p h => ?_, fun s p h => ?_,
    fun s p h hok hat => ?_, fun s p h hat => ?_, fun s p h hok hat => ?_, fun s p lf rf deskew am hp hl => ?_⟩
  · refine ⟨_, congrArg Host.Outcome.next (State.anComplete_of_own h ht hl), State.linkState_linkGo _ p.isLt (by decide), ?_, ?_⟩
    · rw [(State.linkGo_writes_plain _ p (by decide)).flag_eq (by decide) ⟨p.isLt, by decide⟩]
      exact State.flag_setB_self _ _ true p 0 (by decide)
    · rw [(State.linkGo_writes_plain _ p (by decide)).get_eq (by decide) ⟨p.isLt, by decide⟩, State.setB,
        State.get_set_of_apart (by decide) ⟨p.isLt, by decide⟩, State.get_set_self]
      exact Nat.mod_eq_of_lt lp.isLt
  · have paused : Writes [783] s (s.set PORT.LP_PAUSE lp.toNat p) := State.set_writes (.PORT_LP_PAUSE (by decide)) (.refl _ s)
    have still := (State.inState_set (v := lp.toNat) (i := p) p.isLt (by decide : PORT.LINK_STATE.apart PORT.LP_PAUSE = true)).trans h
    obtain ⟨first, event⟩ := State.anFail_shows p.isLt still
    refine ⟨_, congrArg Host.Outcome.next (State.anComplete_of_other h ht),
      first.trans (paused.firstState_eq p.isLt (by decide) (by decide)), event, ?_⟩
    have raised := State.portEvent_writesOwn (e := PORT.EV_AN_FAIL) (n := 790) (s.set PORT.LP_PAUSE lp.toNat p) PORT.IE_AN_FAIL p rfl
    rw [State.anFail_of_in still, (State.linkFirst_writesOwn _ p).get_eq (by decide) ⟨p.isLt, by decide⟩]
    refine (raised.get_eq (by decide) ⟨p.isLt, by decide⟩).trans ?_
    rw [State.get_set_self]
    exact Nat.mod_eq_of_lt lp.isLt
  · obtain ⟨first, event⟩ := State.anFail_shows p.isLt h
    obtain ⟨-, -, state, -⟩ := State.inState_iff.mp h
    refine ⟨_, rfl, first, event, ?_⟩
    have past := State.portEvent_writesOwn (e := PORT.EV_AN_FAIL) (n := 790) s PORT.IE_AN_FAIL p rfl
    rw [State.anFail_of_in h, State.lt_linkFirst, past.flag_eq (by decide) ⟨p.isLt, by decide⟩]
    rw [State.linkState, past.get_eq (by decide) ⟨p.isLt, by decide⟩]
    exact fun e => absurd (state.symm.trans e) (by decide)
  · refine ⟨_, congrArg Host.Outcome.next (if_pos h), ?_, State.flag_setB_self _ _ true p 0 (by decide)⟩
    rw [State.linkState, State.setB, State.get_set_of_apart (by decide) ⟨p.isLt, by decide⟩]
    exact State.linkState_linkGo _ p.isLt (by decide)
  · refine ⟨_, congrArg Host.Outcome.next (if_pos h), ?_⟩
    exact s.linkFirst_portEvent_shows (n := 792) _ p.isLt rfl (by decide) ⟨p.isLt, by decide⟩ (by decide) (by decide) (by decide)
  · exact ⟨_, congrArg Host.Outcome.next (State.linkUpNow_of_good h hok hat), s.enterUp_shows p.isLt⟩
  · refine ⟨_, congrArg Host.Outcome.next (State.alignTimeout_of_late h hat), ?_⟩
    exact s.linkFirst_portEvent_shows (n := 794) _ p.isLt rfl (by decide) ⟨p.isLt, by decide⟩ (by decide) (by decide) (by decide)
  · exact ⟨_, congrArg Host.Outcome.next (State.linkDownNow_of_late h hok hat), State.linkState_linkTo _ p.isLt (by decide)⟩
  · refine ⟨_, congrArg Host.Outcome.next (State.linkChange_of_quiet lf rf deskew am.toNat hp hl), ?_⟩
    obtain ⟨local_, remote, ser, desk, locked⟩ := s.linkInputs_shows lf rf deskew p.isLt am.isLt
    have lanes : (s.linkInputs p lf rf deskew am.toNat).portLanes p = s.portLanes p := rfl
    have frc : (s.linkInputs p lf rf deskew am.toNat).frc = s.frc := (s.linkInputs_writes p lf rf deskew am.toNat).get_eq
      (g := TIME.FRC) (by decide) (by decide)
    generalize s.linkInputs p lf rf deskew am.toNat = x at local_ remote ser desk locked lanes frc
    have regs : ((x.okNoted p (s.linkOk p)).portLine p).regs = x.regs := (State.regs_portLine _ p).trans (x.regs_okNoted p _)
    refine ⟨(State.flag_congr _ _ _ _ _ regs).trans local_, (State.flag_congr _ _ _ _ _ regs).trans remote,
      (State.flag_congr _ _ _ _ _ regs).trans ser, (State.flag_congr _ _ _ _ _ regs).trans desk,
      (State.get_congr _ _ _ _ _ regs).trans locked, ?_, fun changed => ?_⟩
    · rw [← lanes, ← x.portLanes_okNoted p (s.linkOk p)]
      exact State.line_portLine _ p
    · rw [State.linkOk_congr p regs] at changed
      rw [State.linkRec_portLine, State.okNoted_of_changed changed, frc]

end Sys2Proof.Machine
end

section
/-!
Proof of O24: what software commands a port to do (R90, R91, R414, R416, R428), and the loss of a chiplet's reference (R454).
-/
namespace Sys2Proof.Machine
open Reg

/-! ### ADMIN_UP and TEST_MODE (R90, R91) -/

theorem State.linkState_set {s : State} {f : Fld} {v i p : Nat} (hp : p < 1024) (h : PORT.LINK_STATE.apart f = true) :
    (s.set f v i).linkState p = s.linkState p := by
  rw [State.linkState, State.linkState, State.get_set_of_apart h ⟨hp, by decide⟩]

theorem State.linkTo_writesOwn (s : State) (p st : Nat) : Writes (linkPlaces ++ leavePlaces) s (s.linkTo p st) :=
  State.linkTo_writes (.refl _ s) (by decide)

/-- A DISABLED port with neither ADMIN_UP nor TEST_MODE stays where it is. -/
theorem State.portStart_of_idle {s : State} {p : Nat} (ht : s.flag PORT.TEST_MODE p = false) (ha : s.flag PORT.ADMIN_UP p = false) :
    s.portStart p = s := by
  unfold State.portStart
  rw [ht, ha]
  split
  · rfl
  · rfl

/-- What lets a DISABLED port proceed. -/
theorem State.portStart_of_up {s : State} {p : Nat} (hp : s.isPort p = true) (hr : s.lcState ≠ lcRetired)
    (hs : s.linkState p = linkDisabled) (hsafe : s.bitOf FLT.PORT_SAFE (p % 32) (p / 32) = false)
    (ht : s.flag PORT.TEST_MODE p = false) (ha : s.flag PORT.ADMIN_UP p = true) (hg : s.portsGo = true) :
    s.portStart p = s.linkFirst p := by
  unfold State.portStart
  rw [hp, bne_iff_ne.mpr hr, hs, hsafe, ht, ha, hg]
  rfl

theorem State.noService_of_portsGo {s : State} (h : s.portsGo = true) : s.lcState ≠ lcService := by
  unfold State.portsGo at h
  simp only [Bool.and_eq_true, bne_iff_ne] at h
  exact h.1.1.1.1.1.2

/-- ADMIN_UP does not hold the ports back. -/
theorem State.portsGo_adminUp (s : State) (b : Bool) (p : Nat) : (s.setB PORT.ADMIN_UP b p).portsGo = s.portsGo := by
  have same {g : Fld} (h : g.apart PORT.ADMIN_UP = true) (hi : g.Inst 0 0) : (s.setB PORT.ADMIN_UP b p).get g = s.get g :=
    State.get_set_of_apart h hi
  unfold State.portsGo State.flag
  rw [same (g := IMG.READY) (by decide) (by decide), same (g := GLB.LANES_READY) (by decide) (by decide),
    same (g := FLT.MODULE_SAFE) (by decide) (by decide), same (g := PWR.PFAIL) (by decide) (by decide),
    same (g := IMG.RUN_SRC) (by decide) (by decide)]
  rfl

theorem State.adminUp_true {s : State} {p : Nat} (hp : s.isPort p = true) (hf : s.frozen p = false) (hl : s.lcState ≠ lcService) :
    s.adminUp p true = (s.setB PORT.ADMIN_UP true p).portStart p := by
  have running : (s.setB PORT.ADMIN_UP true p).frozen p = false := hf
  unfold State.adminUp
  dsimp only
  rw [hp, beq_eq_false_iff_ne.mpr hl, running]
  rfl

theorem State.adminUp_false {s : State} {p : Nat} (hp : p < 1024) (hport : s.isPort p = true) (hf : s.frozen p = false)
    (hl : s.lcState ≠ lcService) (hlo : linkAn ≤ s.linkState p) (hhi : s.linkState p ≤ linkUp) :
    s.adminUp p false = (s.setB PORT.ADMIN_UP false p).linkTo p linkDisabled := by
  have running : (s.setB PORT.ADMIN_UP false p).frozen p = false := hf
  have state : (s.setB PORT.ADMIN_UP false p).linkState p = s.linkState p := State.linkState_set hp (by decide)
  have other {n : Nat} (h : n < linkAn ∨ linkUp < n) : (s.linkState p == n) = false := beq_eq_false_iff_ne.mpr (by omega)
  unfold State.adminUp
  dsimp only
  rw [hport, beq_eq_false_iff_ne.mpr hl, running, state, other (n := linkTest) (by decide), other (n := linkSafe) (by decide),
    other (n := linkDisabled) (by decide)]
  rfl

theorem State.testMode_true {s : State} {p : Nat} (hp : p < 1024) (hport : s.isPort p = true) (hf : s.frozen p = false)
    (hl : s.lcState ≠ lcRetired) (hhi : s.linkState p ≤ linkUp) :
    s.testMode p true = (s.setB PORT.TEST_MODE true p).linkTo p linkTest := by
  have running : (s.setB PORT.TEST_MODE true p).frozen p = false := hf
  have state : (s.setB PORT.TEST_MODE true p).linkState p = s.linkState p := State.linkState_set hp (by decide)
  have cycle : (s.setB PORT.TEST_MODE true p).lcState = s.lcState := rfl
  have other {n : Nat} (h : linkUp < n) : (s.linkState p == n) = false := beq_eq_false_iff_ne.mpr (by omega)
  unfold State.testMode
  dsimp only
  rw [hport, running, cycle, beq_eq_false_iff_ne.mpr hl, state, other (n := linkTest) (by decide), other (n := linkSafe) (by decide)]
  rfl

theorem State.testMode_false {s : State} {p : Nat} (hp : p < 1024) (hport : s.isPort p = true) (hf : s.frozen p = false)
    (hl : s.lcState ≠ lcRetired) (hs : s.linkState p = linkTest) :
    s.testMode p false = ((s.setB PORT.TEST_MODE false p).linkTo p linkDisabled).portStart p := by
  have running : (s.setB PORT.TEST_MODE false p).frozen p = false := hf
  have state : (s.setB PORT.TEST_MODE false p).linkState p = linkTest := (State.linkState_set hp (by decide)).trans hs
  have cycle : (s.setB PORT.TEST_MODE false p).lcState = s.lcState := rfl
  unfold State.testMode
  dsimp only
  rw [hport, running, cycle, beq_eq_false_iff_ne.mpr hl, state]
  rfl

theorem State.portRestart_of_running {s : State} {p : Nat} (hp : s.isPort p = true) (hf : s.frozen p = false)
    (hlo : linkAn ≤ s.linkState p) (hhi : s.linkState p ≤ linkUp) : s.portRestart p = s.linkFirst p := by
  unfold State.portRestart
  dsimp only
  rw [hp, hf, decide_eq_true hlo, decide_eq_true hhi]
  rfl

/-! ### FEC_CLEAR, LANES_READY and chiplet references -/

/-- What holds of the start and is passed on by each step holds after all steps. -/
theorem upTo_induct {α : Type} {P : Nat → α → Prop} {f : Nat → α → α} {x : α} {n : Nat} (zero : P 0 x)
    (succ : ∀ k y, k < n → P k y → P (k + 1) (f k y)) : P n (upTo n f x) := by
  induction n with
  | zero => exact zero
  | succ n ih => rw [upTo_succ]; exact succ n _ (by omega) (ih fun k y hk => succ k y (by omega))

/-- A field that reads 0 still does after some member of it has been set to 0. -/
theorem State.get_set_zero {s : State} {f : Fld} {i j k l : Nat} (h : f.key k l = f.key i j ∨ s.get f k l = 0) :
    (s.set f 0 i j).get f k l = 0 := by
  rw [State.get_set]
  split
  · exact Nat.zero_mod _
  · exact h.resolve_left ‹_›

/-- The bins of a port lie above its other FEC counters. -/
theorem key_lt_FEC_BIN {g : Fld} (hoff : g.off < PORT.FEC_BIN.off) (hlo : g.lo = 0) (hs : g.s1 = PORT.FEC_BIN.s1)
    (hn : g.n1 = PORT.FEC_BIN.n1) (p b : Nat) : g.key p 0 < PORT.FEC_BIN.key p b := by
  simp only [Fld.key, hlo, hs, hn, PORT.FEC_BIN, Nat.zero_div] at hoff ⊢
  omega

/-- Clearing the bins leaves the other FEC counters. -/
theorem State.get_binsCleared (s : State) {g : Fld} (hoff : g.off < PORT.FEC_BIN.off) (hlo : g.lo = 0) (hs : g.s1 = PORT.FEC_BIN.s1)
    (hn : g.n1 = PORT.FEC_BIN.n1) (p : Nat) : (upTo 16 (fun b s => s.set PORT.FEC_BIN 0 p b) s).get g p = s.get g p :=
  upTo_keeps (fun y : State => y.get g p = s.get g p) _ _ _ (fun b y h =>
    (State.get_set_of_ne y _ _ _ _ _ _ _ (key_lt_FEC_BIN hoff hlo hs hn p b).ne).trans h) rfl

theorem State.get_FEC_BIN_binsCleared (s : State) (p : Nat) :
    ∀ b, b < 16 → (upTo 16 (fun b s => s.set PORT.FEC_BIN 0 p b) s).get PORT.FEC_BIN p b = 0 := by
  have step (k : Nat) (y : State) (h : ∀ b, b < k → y.get PORT.FEC_BIN p b = 0) :
      ∀ b, b < k + 1 → (y.set PORT.FEC_BIN 0 p k).get PORT.FEC_BIN p b = 0 := by
    intro b hb
    refine State.get_set_zero ?_
    obtain rfl | hb := Nat.lt_succ_iff_lt_or_eq.mp hb |>.symm
    · exact .inl rfl
    · exact .inr (h b hb)
  exact upTo_induct (P := fun n (y : State) => ∀ b, b < n → y.get PORT.FEC_BIN p b = 0) (fun b hb => absurd hb (Nat.not_lt_zero b))
    fun k y _ h => step k y h

/-- The counters beside the bins are cleared. -/
def State.fecCleared (s : State) (p : Nat) : State :=
  (((s.set PORT.CW_TOTAL 0 p).set PORT.CW_CORR 0 p).set PORT.CW_UNCORR 0 p).set PORT.SYM_CORR 0 p

theorem State.fecClear_eq (s : State) (p : Nat) :
    s.fecClear p = upTo 16 (fun b s => s.set PORT.FEC_BIN 0 p b) (s.fecCleared p) := rfl

theorem State.fecCleared_shows (s : State) {p : Nat} (hp : p < 1024) :
    (s.fecCleared p).get PORT.CW_TOTAL p = 0 ∧ (s.fecCleared p).get PORT.CW_CORR p = 0 ∧
      (s.fecCleared p).get PORT.CW_UNCORR p = 0 ∧ (s.fecCleared p).get PORT.SYM_CORR p = 0 := by
  have past {g f : Fld} {y : State} (apart : g.apart f = true) (hi : g.Inst p 0) (h : y.get g p = 0) : (y.set f 0 p).get g p = 0 :=
    (State.get_set_of_apart apart hi).trans h
  have zero {f : Fld} {y : State} : (y.set f 0 p).get f p = 0 := State.get_set_zero (.inl rfl)
  unfold State.fecCleared
  refine ⟨?_, ?_, ?_, zero⟩
  · exact past (by decide) ⟨hp, by decide⟩ (past (by decide) ⟨hp, by decide⟩ (past (by decide) ⟨hp, by decide⟩ zero))
  · exact past (by decide) ⟨hp, by decide⟩ (past (by decide) ⟨hp, by decide⟩ zero)
  · exact past (by decide) ⟨hp, by decide⟩ zero

theorem State.fecClear_shows (s : State) {p : Nat} (hp : p < 1024) :
    (s.fecClear p).get PORT.CW_TOTAL p = 0 ∧ (s.fecClear p).get PORT.CW_CORR p = 0 ∧ (s.fecClear p).get PORT.CW_UNCORR p = 0 ∧
      (s.fecClear p).get PORT.SYM_CORR p = 0 ∧ ∀ b, b < 16 → (s.fecClear p).get PORT.FEC_BIN p b = 0 := by
  obtain ⟨total, corr, uncorr, sym⟩ := s.fecCleared_shows hp
  rw [State.fecClear_eq]
  have past {g : Fld} (h : (s.fecCleared p).get g p = 0) (hoff : g.off < PORT.FEC_BIN.off) (hlo : g.lo = 0)
      (hs : g.s1 = PORT.FEC_BIN.s1) (hn : g.n1 = PORT.FEC_BIN.n1) := (State.get_binsCleared _ hoff hlo hs hn p).trans h
  exact ⟨past total (by decide) rfl rfl rfl, past corr (by decide) rfl rfl rfl, past uncorr (by decide) rfl rfl rfl,
    past sym (by decide) rfl rfl rfl, State.get_FEC_BIN_binsCleared _ p⟩

theorem State.lanesReady_of_image {s : State} (hl : s.live = true) (hr : s.flag IMG.READY = true)
    (hn : s.flag GLB.LANES_READY = false) :
    s.lanesReady = ((s.setB GLB.LANES_READY true).set GLB.STEP 9).portList.foldl (fun s p => s.portStart p)
      ((s.setB GLB.LANES_READY true).set GLB.STEP 9) := by
  unfold State.lanesReady
  rw [hl, hr, hn]
  rfl

/-- What the loss of a reference does to one lane. -/
def State.laneLost (s : State) (lane : Nat) : State :=
  let s := s.setB LANE.CDR_LOCK false lane
  if s.isPort lane then
    let was := s.linkOk lane
    let s := (s.setB PORT.DESKEW_OK false lane).set PORT.AM_LOCKED 0 lane
    (s.when was (fun s => s.putLink lane { s.linkRec lane with okAt := s.frc })).portLine lane
  else s

theorem State.chipletLost_eq (s : State) (n : Nat) :
    s.chipletLost n = (upTo 128 (fun k s => s.laneLost (128 * n + k)) s).fault srcChipletRef n := rfl

theorem State.laneLost_writes (s : State) (lane : Nat) : Writes [780, 781] (s.setB LANE.CDR_LOCK false lane) (s.laneLost lane) := by
  unfold State.laneLost
  dsimp only
  split
  · exact State.portLine_writes (State.when_writes (fun _ h => State.putLink_writes h)
      (State.set_writes (.PORT_AM_LOCKED (by decide)) (State.setB_writes (.PORT_DESKEW_OK (by decide)) (.refl _ _))))
  · exact .refl _ _

theorem State.flt_laneLost (s : State) (lane : Nat) : (s.laneLost lane).flt = s.flt := by
  have keep (y : State) : (y.portLine lane).flt = y.flt :=
    (State.portLine_touches (ps := [.outbox, .buf]) (.refl _ y) (by decide) (by decide)).same .flt (by decide)
  unfold State.laneLost
  dsimp only
  split
  · rw [keep]
    exact State.when_cases (P := fun y => y.flt = s.flt) _ _ _ rfl fun _ => rfl
  · rfl

theorem State.CDR_LOCK_laneLost {s : State} {lane m : Nat} (hm : m < 1024) (h : m = lane ∨ s.get LANE.CDR_LOCK m = 0) :
    (s.laneLost lane).get LANE.CDR_LOCK m = 0 := by
  rw [(s.laneLost_writes lane).get_eq (by decide) ⟨hm, by decide⟩]
  refine State.get_set_zero (h.imp_left fun e => ?_)
  rw [e]

theorem State.CDR_LOCK_chipletLost (s : State) {n : Nat} (hn : n < 8) :
    ∀ k, k < 128 → (s.chipletLost n).get LANE.CDR_LOCK (128 * n + k) = 0 := by
  have lanes : ∀ k, k < 128 → (upTo 128 (fun k s => s.laneLost (128 * n + k)) s).get LANE.CDR_LOCK (128 * n + k) = 0 := by
    refine upTo_induct (P := fun m (y : State) => ∀ k, k < m → y.get LANE.CDR_LOCK (128 * n + k) = 0)
      (fun k hk => absurd hk (Nat.not_lt_zero k)) fun m y hm h k hk => State.CDR_LOCK_laneLost (by omega) ?_
    obtain rfl | hk := Nat.lt_succ_iff_lt_or_eq.mp hk |>.symm
    · exact .inl rfl
    · exact .inr (h k hk)
  intro k hk
  rw [State.chipletLost_eq, State.get_fault, lanes k hk]

theorem State.flt_chipletLost (s : State) (n : Nat) : (s.chipletLost n).flt = (s.fault srcChipletRef n).flt := by
  rw [State.chipletLost_eq]
  exact State.flt_fault_congr (upTo_keeps (fun y : State => y.flt = s.flt) _ _ _ (fun k y h => (y.flt_laneLost _).trans h) rfl)

/-- Settles O24: a port is led to a state, and the registers beside it are kept. -/
theorem portCommandsTakeEffect : Obligations.PortCommandsTakeEffect := by
  unfold Obligations.PortCommandsTakeEffect
  refine ⟨fun s p ho hp hf hs hr ht ha hsafe hg => ?_, fun s p ho hp hf hl hlo hhi => ?_, fun s p ho hp hf hr hhi => ?_,
    fun s p ho hp hf hr hs ha => ?_, fun s p ho hp hf hlo hhi => ?_, fun s p ho hp => ?_, fun s hl hr hn => ?_, fun s n hl => ?_⟩
  · refine ⟨_, next_viaHost ho, ?_⟩
    have past {g : Fld} (h : g.apart PORT.ADMIN_UP = true) (hi : g.Inst p 0) :
        (s.setB PORT.ADMIN_UP true p).flag g p = s.flag g p := congrArg (· != 0) (State.get_set_of_apart h hi)
    have safe : (s.setB PORT.ADMIN_UP true p).bitOf FLT.PORT_SAFE (p % 32) (p / 32) = false := by
      rw [State.bitOf, State.setB, State.get_set_of_apart (by decide) ⟨Nat.div_lt_of_lt_mul p.isLt, by decide⟩]
      exact hsafe
    have start := State.portStart_of_up (s := s.setB PORT.ADMIN_UP true p) (p := p) hp hr
      ((State.linkState_set p.isLt (by decide)).trans hs) safe ((past (by decide) ⟨p.isLt, by decide⟩).trans ht)
      (State.flag_setB_self s _ true p 0 (by decide)) ((s.portsGo_adminUp true p).trans hg)
    have first : (s.setB PORT.ADMIN_UP true p).firstState p = linkAn := by
      rw [State.firstState, past (by decide) ⟨p.isLt, by decide⟩, ha]
      rfl
    rw [State.adminUp_true hp hf (State.noService_of_portsGo hg), start]
    refine ⟨(State.linkState_linkFirst _ p.isLt).1.trans first, ?_⟩
    rw [(State.linkFirst_writesOwn _ p).flag_eq (by decide) ⟨p.isLt, by decide⟩]
    exact State.flag_setB_self s _ true p 0 (by decide)
  · refine ⟨_, next_viaHost ho, ?_⟩
    rw [State.adminUp_false p.isLt hp hf hl hlo hhi]
    obtain ⟨state, up⟩ := State.linkState_linkTo (s.setB PORT.ADMIN_UP false p) p.isLt (by decide : linkDisabled < 8)
    refine ⟨state, up, fun _ => ?_⟩
    rw [(State.linkTo_writesOwn _ p _).flag_eq (by decide) ⟨p.isLt, by decide⟩]
    exact State.flag_setB_self s _ false p 0 (by decide)
  · refine ⟨_, next_viaHost ho, ?_⟩
    rw [State.testMode_true p.isLt hp hf hr hhi]
    exact State.linkState_linkTo _ p.isLt (by decide)
  · refine ⟨_, next_viaHost ho, ?_⟩
    have kept := State.linkTo_writesOwn (s.setB PORT.TEST_MODE false p) p linkDisabled
    have test : ((s.setB PORT.TEST_MODE false p).linkTo p linkDisabled).flag PORT.TEST_MODE p = false :=
      (kept.flag_eq (by decide) ⟨p.isLt, by decide⟩).trans (State.flag_setB_self s _ false p 0 (by decide))
    have admin : ((s.setB PORT.TEST_MODE false p).linkTo p linkDisabled).flag PORT.ADMIN_UP p = false :=
      (kept.flag_eq (by decide) ⟨p.isLt, by decide⟩).trans
        ((congrArg (· != 0) (State.get_set_of_apart (by decide) ⟨p.isLt, by decide⟩)).trans ha)
    rw [State.testMode_false p.isLt hp hf hr hs, State.portStart_of_idle test admin]
    exact ⟨(State.linkState_linkTo _ p.isLt (by decide)).1, test⟩
  · refine ⟨_, next_viaHost ho, ?_⟩
    rw [State.portRestart_of_running hp hf hlo hhi]
    exact State.linkState_linkFirst s p.isLt
  · refine ⟨_, next_viaHost ho, ?_⟩
    rw [hp, State.when_true]
    exact s.fecClear_shows p.isLt
  · refine ⟨_, congrArg Host.Outcome.next (State.lanesReady_of_image hl hr hn), ?_⟩
    have started := Writes.foldl (F := linkPlaces ++ leavePlaces) (f := fun (s : State) (p : Nat) => s.portStart p)
      (l := ((s.setB GLB.LANES_READY true).set GLB.STEP 9).portList) (fun _ _ h => State.portStart_writes h (by decide))
      (.refl _ ((s.setB GLB.LANES_READY true).set GLB.STEP 9))
    refine ⟨(started.flag_eq (by decide) (by decide)).trans ?_, (started.get_eq (by decide) (by decide)).trans ?_⟩
    · rw [State.flag, State.get_set_of_apart (by decide) (by decide)]
      exact State.flag_setB_self s _ true 0 0 (by decide)
    · rw [State.get_set_self]
      rfl
  · have synce := Writes.upTo (n := 2) (F := [2854]) (f := fun k (s : State) => s.synceUpdate k false)
      (fun _ _ h => State.synceUpdate_writes h (by decide)) (.refl _ (s.chipletLost n))
    have kept := Touches.upTo (n := 2) (ps := [.regs, .time]) (f := fun k (s : State) => s.synceUpdate k false)
      (fun _ _ h => State.synceUpdate_touches h (by decide) (by decide)) (.refl _ (s.chipletLost n))
    have flt : (upTo 2 (fun k s => s.synceUpdate k false) (s.chipletLost n)).flt = (s.chipletLost n).flt := kept.same .flt (by decide)
    refine ⟨upTo 2 (fun k s => s.synceUpdate k false) (s.chipletLost n), congrArg Host.Outcome.next (if_pos hl),
      flt.trans (s.flt_chipletLost n), fun k hk => ?_⟩
    have lane : 128 * n.val + k < 1024 := by have := n.isLt; omega
    rw [State.flag, synce.get_eq (by decide) ⟨lane, by decide⟩, s.CDR_LOCK_chipletLost n.isLt k hk]
    rfl

end Sys2Proof.Machine
end

section
/-!
Proof of O36: the fault unit decides, records, masks, obeys its commands and injects (R392 to R405).
-/
namespace Sys2Proof.Machine
open Reg

/-! ### Deciding (R391 to R397) -/

theorem State.maskFor_of_none {s : State} (src kind index : Nat) (h : s.flt.masks = []) : s.maskFor src kind index = [] := by
  unfold State.maskFor
  split
  · rfl
  · rw [h]
    rfl

/-- The escalation counts become `esc`. -/
def State.escNoted (s : State) (esc : Tab (Nat × Nat)) : State := { s with flt := { s.flt with esc := esc } }

/-- A record enters the recorder queue. -/
def State.queued (s : State) (r : FaultRec) : State := { s with flt := { s.flt with queue := s.flt.queue ++ [r] } }

/-- A source that never escalates only counts. -/
theorem State.escalate_of_never {s : State} {src : Nat} (h : s.get FLT.S_N src = 0) :
    ∃ cnt esc, s.escalate src = (cnt, false, s.escNoted esc) := by
  unfold State.escalate
  rw [h]
  exact ⟨_, _, rfl⟩

/-- No reaction is set: none is performed. -/
theorem State.reactSet_of_none {s : State} {src cls : Nat} (kind : Nat) (h : s.get FLT.S_REACT_BASE src = 0) (hc : cls ≤ 1) :
    s.reactSet src kind cls false = 0 := by
  unfold State.reactSet
  rw [h, if_neg Bool.false_ne_true, if_neg (by omega)]
  split <;> split <;> rfl

theorem State.react_zero (s : State) (src kind index : Nat) : s.react src kind index 0 = s := rfl

theorem State.firstCapture_of_taken {s : State} (r : FaultRec) (h : s.flag FLT.FIRST_VALID = true) : s.firstCapture r = s := by
  unfold State.firstCapture
  rw [h]
  rfl

theorem State.recQueue_of_room {s : State} (r : FaultRec) (h : s.flt.queue.length < 64) :
    s.recQueue r = s.queued r := if_neg (by omega)

/-- The counts of a decided event. -/
def State.decided (s : State) (src cls : Nat) : State :=
  let s := (s.inc FLT.S_EVENTS src).set FLT.WORST (max cls (s.get FLT.WORST))
  { s with flt := { s.flt with fatal := s.flt.fatal || cls == 3 } }

theorem State.decided_writes (s : State) (src cls : Nat) : Writes [4096, 4136] s (s.decided src cls) := by
  have counted := State.set_writes (v := max cls (s.get FLT.WORST)) (i := 0) (j := 0) (.FLT_WORST (by decide))
    (State.inc_writes (a2 := src) (a3 := 0) (.FLT_S_EVENTS (by decide)) (.refl [4096, 4136] s))
  exact ⟨counted.only⟩

/-- The record of an event that does not escalate. -/
def State.lowRecord (s : State) (e : FaultEvt) (kind cnt seq set : Nat) : FaultRec where
  src := e.src
  cls := s.get FLT.S_BASE_CLASS e.src
  escalated := false
  suppressed := false
  injected := e.injected
  react := set
  kind := kind
  index := e.index
  count := cnt
  frc := s.frc
  detail := e.detail
  seq := seq

theorem State.decideOpen_of_not_escalated {s : State} {e : FaultEvt} {cnt : Nat} {esc : Tab (Nat × Nat)} (kind seq : Nat)
    (hb : s.get FLT.S_BASE_CLASS e.src ≤ 1) (h : s.escalate e.src = (cnt, false, s.escNoted esc)) :
    s.decideOpen e kind seq =
      ((((s.escNoted esc).decided e.src (s.get FLT.S_BASE_CLASS e.src)).firstCapture (s.lowRecord e kind cnt seq
        ((s.escNoted esc).reactSet e.src kind (s.get FLT.S_BASE_CLASS e.src) false))).recQueue (s.lowRecord e kind cnt seq
        ((s.escNoted esc).reactSet e.src kind (s.get FLT.S_BASE_CLASS e.src) false))).react e.src kind e.index
        ((s.escNoted esc).reactSet e.src kind (s.get FLT.S_BASE_CLASS e.src) false) := by
  unfold State.decideOpen
  extract_lets base
  rw [if_pos hb, h]
  rfl

/-- A note or minor event of a source that neither escalates nor reacts is counted and queued. -/
theorem State.decideOpen_of_low {s : State} {e : FaultEvt} (kind seq : Nat) (hb : s.get FLT.S_BASE_CLASS e.src ≤ 1)
    (hn : s.get FLT.S_N e.src = 0) (hr : s.get FLT.S_REACT_BASE e.src = 0) (hf : s.flag FLT.FIRST_VALID = true)
    (hq : s.flt.queue.length < 64) :
    ∃ esc r, s.decideOpen e kind seq = ((s.escNoted esc).decided e.src (s.get FLT.S_BASE_CLASS e.src)).queued r ∧
      r.src = e.src ∧ r.cls = s.get FLT.S_BASE_CLASS e.src ∧ r.seq = seq ∧ r.frc = s.frc ∧ r.suppressed = false := by
  obtain ⟨cnt, esc, escalated⟩ := State.escalate_of_never hn
  have set : (s.escNoted esc).reactSet e.src kind (s.get FLT.S_BASE_CLASS e.src) false = 0 := State.reactSet_of_none kind hr hb
  have valid : ((s.escNoted esc).decided e.src (s.get FLT.S_BASE_CLASS e.src)).flag FLT.FIRST_VALID = true :=
    (State.decided_writes _ _ _).flag_eq (by decide) (by decide) |>.trans hf
  refine ⟨esc, s.lowRecord e kind cnt seq 0, ?_, rfl, rfl, rfl, rfl, rfl⟩
  rw [State.decideOpen_of_not_escalated kind seq hb escalated, set, State.react_zero, State.firstCapture_of_taken _ valid]
  exact State.recQueue_of_room _ hq

/-- The front event leaves the queue of reports and takes the next number. -/
def State.eventTaken (s : State) (rest : List FaultEvt) : State :=
  State.incWrap { s with flt := { s.flt with reported := rest } } FLT.SEQ

theorem State.eventTaken_writes (s : State) (rest : List FaultEvt) : Writes [4114] s (s.eventTaken rest) :=
  ⟨(State.incWrap_writes (F := [4114]) (a2 := 0) (a3 := 0) (.FLT_SEQ (by decide))
    (.refl _ { s with flt := { s.flt with reported := rest } })).only⟩

theorem State.faultDecide_of_unmasked {s : State} {e : FaultEvt} {rest : List FaultEvt} (h : s.flt.reported = e :: rest)
    (hm : s.flt.masks = []) :
    s.faultDecide = (s.eventTaken rest).decideOpen e (e.kind.getD (s.get FLT.S_SCOPE_KIND e.src)) (s.get FLT.SEQ) := by
  have none : ∀ kind, (s.eventTaken rest).maskFor e.src kind e.index = [] := fun kind => State.maskFor_of_none _ _ _ hm
  unfold State.faultDecide
  rw [h]
  exact congrArg (fun ws => match ws with
    | [] => (s.eventTaken rest).decideOpen e (e.kind.getD (s.get FLT.S_SCOPE_KIND e.src)) (s.get FLT.SEQ)
    | ws => (s.eventTaken rest).decideMasked e (e.kind.getD (s.get FLT.S_SCOPE_KIND e.src)) (s.get FLT.SEQ) ws)
    (none (e.kind.getD (s.get FLT.S_SCOPE_KIND e.src)))

theorem State.get_S_EVENTS_decided (s : State) {src : Nat} (cls : Nat) (h : src < 256) :
    (s.decided src cls).get FLT.S_EVENTS src = satTo (2 ^ 32 - 1) (s.get FLT.S_EVENTS src + 1) := by
  have set : ((s.inc FLT.S_EVENTS src).set FLT.WORST (max cls (s.get FLT.WORST))).get FLT.S_EVENTS src =
      satTo (2 ^ 32 - 1) (s.get FLT.S_EVENTS src + 1) := by
    rw [State.get_set_of_apart (by decide) ⟨h, by decide⟩, State.get_inc_self]
    rfl
  exact set

/-! ### The recorder (R394, R395) and the masks (R403) -/

theorem State.histWrite_shows (s : State) (r : FaultRec) :
    (s.histWrite r).get FLT.HIST_HEAD = (s.get FLT.HIST_HEAD + 1) % 32 ∧
      (s.histWrite r).get FLT.HIST_COUNT = min 32 (s.get FLT.HIST_COUNT + 1) := by
  have words (n : Nat) : Writes [4121] s (s.recWords FLT.HIST r n false) := State.recWords_writes (.FLT_HIST (by decide)) (.refl _ s)
  unfold State.histWrite
  refine ⟨?_, ?_⟩
  · rw [State.get_set_of_apart (by decide) (by decide), State.get_set_self]
    exact Nat.mod_eq_of_lt (Nat.lt_of_lt_of_le (Nat.mod_lt _ (by decide)) (by decide))
  · rw [State.get_set_self, (words _).get_eq (by decide) (by decide)]
    exact Nat.mod_eq_of_lt (Nat.lt_of_le_of_lt (Nat.min_le_left _ _) (by decide))

/-- The front record leaves the recorder queue. -/
def State.recTaken (s : State) (rest : List FaultRec) : State := { s with flt := { s.flt with queue := rest } }

/-- The event ring off, and a class below FLOG_MIN: only the history takes the record. -/
theorem State.faultRecord_of_quiet {s : State} {r : FaultRec} {rest : List FaultRec} (ok : Bool) (hq : s.flt.queue = r :: rest)
    (hr : s.flag FLT.FAULT_RING_EN = false) (hc : r.cls < s.get FLT.FLOG_MIN) :
    s.faultRecord ok = ((s.recTaken rest).histWrite r).tally 127 evFault := by
  have writes : Writes [3110, 3113, 3114, 3123, 3125, 4115, 4116, 4121, 4907] (s.recTaken rest)
      (((s.recTaken rest).histWrite r).tally 127 evFault) :=
    State.tally_writes (State.histWrite_writes (.refl _ (s.recTaken rest)) (by decide)) (by decide)
  have ring : ∀ y : State, y.flag FLT.FAULT_RING_EN = false → y.ringRecord r = y := fun y h => by
    unfold State.ringRecord
    rw [h]
    rfl
  unfold State.faultRecord
  rw [hq]
  show (((((s.recTaken rest).histWrite r).tally 127 evFault).ringRecord r).storeRecord r ok) = _
  rw [ring _ ((writes.flag_eq (by decide) (by decide)).trans hr)]
  refine if_pos (Nat.lt_of_lt_of_eq hc ?_)
  exact (writes.get_eq (g := FLT.FLOG_MIN) (by decide) (by decide)).symm

theorem State.flt_recorded (s : State) (r : FaultRec) (rest : List FaultRec) :
    (((s.recTaken rest).histWrite r).tally 127 evFault).flt = { s.flt with queue := rest } := by
  have hist : ((s.recTaken rest).histWrite r).flt = (s.recTaken rest).flt :=
    (State.histWrite_touches (ps := [.regs]) (.refl _ _) (by decide)).same .flt (by decide)
  have tally : ((((s.recTaken rest).histWrite r).tally 127 evFault)).flt = ((s.recTaken rest).histWrite r).flt :=
    (State.tally_touches (ps := [.regs, .outbox, .act, .host]) (.refl _ _) (by decide) (by decide) (by decide) (by decide)).same .flt
      (by decide)
  rw [tally, hist]
  rfl

theorem State.mem_masks_maskEnd (s : State) (w : MaskWin) :
    w ∈ s.maskEnd.flt.masks ↔ w ∈ s.flt.masks ∧ (w.until_ = none ∨ ∃ e, w.until_ = some e ∧ s.frc < e) := by
  unfold State.maskEnd
  simp only [List.mem_filter]
  refine and_congr_right fun _ => ?_
  cases w.until_ with
  | none => simp
  | some e => simp

/-! ### Commands of the block (R399, R400, R405) -/

/-- A port in SAFE that nothing leads further is DISABLED. -/
theorem State.portSafeRelease_of_idle {s : State} {p : Nat} (hp : p < 1024) (hb : s.bitOf FLT.PORT_SAFE (p % 32) (p / 32) = true)
    (hm : s.flag FLT.MODULE_SAFE = false) (hport : s.isPort p = true) (hs : s.linkState p = linkSafe)
    (ha : s.flag PORT.ADMIN_UP p = false) (ht : s.flag PORT.TEST_MODE p = false) :
    s.portSafeRelease p = (s.clearBit FLT.PORT_SAFE (p % 32) (p / 32)).linkGo p linkDisabled := by
  have past {g : Fld} (h : g.apart FLT.PORT_SAFE = true) (k : Nat) (hi : g.Inst k 0) :
      (s.clearBit FLT.PORT_SAFE (p % 32) (p / 32)).get g k = s.get g k := State.get_set_of_apart h hi
  have isPort : (s.clearBit FLT.PORT_SAFE (p % 32) (p / 32)).isPort p = true := hport
  have safe : (s.clearBit FLT.PORT_SAFE (p % 32) (p / 32)).flag FLT.MODULE_SAFE = false := by
    rw [State.flag, past (by decide) 0 (by decide)]; exact hm
  have state : (s.clearBit FLT.PORT_SAFE (p % 32) (p / 32)).linkState p = linkSafe :=
    (past (by decide) p ⟨hp, by decide⟩).trans hs
  have entered := State.linkGo_writesOwn (s.clearBit FLT.PORT_SAFE (p % 32) (p / 32)) p linkDisabled
  have idle : ((s.clearBit FLT.PORT_SAFE (p % 32) (p / 32)).linkGo p linkDisabled).portStart p =
      (s.clearBit FLT.PORT_SAFE (p % 32) (p / 32)).linkGo p linkDisabled := by
    refine State.portStart_of_idle ?_ ?_
    · rw [entered.flag_eq (by decide) ⟨hp, by decide⟩, State.flag, past (by decide) p ⟨hp, by decide⟩]; exact ht
    · rw [entered.flag_eq (by decide) ⟨hp, by decide⟩, State.flag, past (by decide) p ⟨hp, by decide⟩]; exact ha
  unfold State.portSafeRelease State.portLeaveSafe
  rw [hb]
  dsimp only
  rw [if_pos rfl, safe, if_neg Bool.false_ne_true, isPort, state]
  exact idle

theorem State.injGate_of_open {s : State} {f : State → State} (hl : s.lcState = lcManufacture) (hk : s.get FLT.INJ_KIND ≠ 0)
    (hs : s.get FLT.INJ_KIND = 1 → s.flag FLT.S_IMPLEMENTED (s.get FLT.INJ_SRC) = true) : s.injGate f = f s := by
  have kind : (s.get FLT.INJ_KIND == 0) = false := beq_eq_false_iff_ne.mpr hk
  have source : (s.get FLT.INJ_KIND == 1 && !s.flag FLT.S_IMPLEMENTED (s.get FLT.INJ_SRC)) = false := by
    rw [Bool.and_eq_false_imp]
    intro h
    rw [hs (beq_iff_eq.mp h)]
    rfl
  unfold State.injGate
  dsimp only
  rw [hl, kind, source]
  rfl

theorem State.injLane_of_single {s : State} {p : Nat} (hp : s.portOfLane (s.get FLT.INJ_TARGET % 1024) = some p)
    (hu : s.portUp p = true) (hm : s.get LANE.INJ_MODE (s.get FLT.INJ_TARGET % 1024) = 1) :
    s.injLane = s.emit (.flip (s.get FLT.INJ_TARGET % 1024) 1) := by
  unfold State.injLane State.laneInject
  dsimp only
  rw [hp]
  dsimp only
  rw [hu, hm]
  rfl

/-- Settles O36: each command is one of the steps above. -/
theorem faultCommandsTakeEffect : Obligations.FaultCommandsTakeEffect := by
  unfold Obligations.FaultCommandsTakeEffect
  refine ⟨fun s e rest hrep hm hsrc hb hn hr hf hq hl => ?_, fun s r rest ok hq hh hr hc => ?_, fun s => ?_, fun s ho => ?_,
    fun s ho hf => ?_, fun s ho hf => ?_, fun s hf => ?_, fun s p ho hb hm hp hs ha ht => ?_, fun s ho hl hk hi => ?_,
    fun s ho hl hk => ?_, fun s p ho hl hk hp hu hm => ?_⟩
  · obtain ⟨esc, r, decided, src, cls, seq, frc, suppressed⟩ := State.decideOpen_of_low (s := s.eventTaken rest) (e := e)
      (e.kind.getD (s.get FLT.S_SCOPE_KIND e.src)) (s.get FLT.SEQ)
      (((s.eventTaken_writes rest).get_eq (by decide) ⟨hsrc, by decide⟩).trans_le hb)
      (((s.eventTaken_writes rest).get_eq (by decide) ⟨hsrc, by decide⟩).trans hn)
      (((s.eventTaken_writes rest).get_eq (by decide) ⟨hsrc, by decide⟩).trans hr)
      (((s.eventTaken_writes rest).flag_eq (by decide) (by decide)).trans hf) hq
    have run : s.when s.live (fun s => s.faultDecide) = _ :=
      (if_pos hl).trans ((State.faultDecide_of_unmasked hrep hm).trans decided)
    refine ⟨_, congrArg Host.Outcome.next run, rfl, ?_, ?_, r, rfl, src, ?_, seq, ?_, suppressed⟩
    · refine (State.get_S_EVENTS_decided _ _ hsrc).trans ?_
      exact congrArg (fun n => satTo (2 ^ 32 - 1) (n + 1)) ((s.eventTaken_writes rest).get_eq (by decide) ⟨hsrc, by decide⟩)
    · refine ((State.decided_writes ((s.eventTaken rest).escNoted esc) e.src _).get_eq (g := FLT.SEQ) (by decide) (by decide)).trans ?_
      exact State.get_set_self _ _ _ _ _
    · exact cls.trans ((s.eventTaken_writes rest).get_eq (by decide) ⟨hsrc, by decide⟩)
    · exact frc.trans ((s.eventTaken_writes rest).get_eq (by decide) (by decide))
  · refine ⟨_, congrArg Host.Outcome.next (State.faultRecord_of_quiet ok hq hr hc), ?_⟩
    obtain ⟨head, count⟩ := (s.recTaken rest).histWrite_shows r
    have kept : Writes [3110, 3113, 3114, 3123, 3125, 4907] ((s.recTaken rest).histWrite r) _ :=
      State.tally_writes (a1 := 127) (a2 := evFault) (a3 := 1) (.refl _ _) (by decide)
    exact ⟨State.flt_recorded s r rest, (kept.get_eq (by decide) (by decide)).trans head,
      (kept.get_eq (by decide) (by decide)).trans count⟩
  · exact ⟨_, rfl, State.maskEnd_touches (.refl _ s) (by decide), s.mem_masks_maskEnd⟩
  · refine ⟨_, next_viaHost ho, ?_, State.get_set_self _ _ _ _ _⟩
    rw [State.flag, State.get_set_of_apart (by decide) (by decide)]
    exact State.flag_setB_self _ _ false 0 0 (by decide)
  · refine (next_viaHost ho).trans (congrArg Host.Outcome.next ?_)
    rw [hf]
    rfl
  · refine (next_viaHost ho).trans (congrArg Host.Outcome.next ?_)
    rw [hf]
    rfl
  · have same (f : Fld) (g : State → State) : s.viaHost f (fun s => s.when (!s.flt.fatal) g) = s := by
      unfold State.viaHost
      split
      · exact if_neg (by rw [hf]; exact Bool.false_ne_true)
      · rfl
    exact ⟨congrArg Host.Outcome.next (same _ _), congrArg Host.Outcome.next (same _ _)⟩
  · refine ⟨_, next_viaHost ho, ?_⟩
    rw [State.portSafeRelease_of_idle p.isLt hb hm hp hs ha ht]
    refine ⟨State.linkState_linkGo _ p.isLt (by decide), ?_⟩
    rw [(State.linkGo_writesOwn _ p linkDisabled).bitOf_eq (by decide) ⟨Nat.div_lt_of_lt_mul p.isLt, by decide⟩]
    exact State.bitOf_clearBit_self (Nat.mod_lt _ (by decide))
  · refine ⟨_, next_viaHost ho, ?_⟩
    rw [State.injGate_of_open hl (by omega) fun _ => hi, if_pos hk]
    exact ⟨_, rfl, rfl, rfl, rfl⟩
  · refine (next_viaHost ho).trans (congrArg Host.Outcome.next ?_)
    rw [State.injGate_of_open hl (by omega) (by omega), if_pos hk]
    rfl
  · refine (next_viaHost ho).trans (congrArg Host.Outcome.next ?_)
    rw [State.injGate_of_open hl (by omega) (by omega), if_pos hk]
    exact State.injLane_of_single hp hu hm

end Sys2Proof.Machine
end

section
/-!
Proof of O41: register accesses over BAR0, BAR4 and the SMBus (R10 to R13, R445, R447, R455 to R457).
-/
namespace Sys2Proof.Machine
open Reg

/-! ### Writes (R10 to R13, R447) -/

theorem wordHits_scratch : wordHits 0x18 = [⟨GLB.SCRATCH, 0, 0, false⟩] := by decide

theorem State.regOpen_of_live {s : State} {off : Nat} (h : s.live = true) (ho : openInSoft off = true) : s.regOpen off = true := by
  rw [State.regOpen, h, ho, Bool.or_true]
  rfl

/-- SCRATCH takes what is written. -/
theorem State.narrowWrite_scratch (s : State) (v : Nat) : s.narrowWrite 0x18 v = s.set GLB.SCRATCH (bits v 0 32) := by
  rw [State.narrowWrite, wordHits_scratch, List.foldl_cons, List.foldl_nil, State.fieldWrite_of_plain (by decide) rfl]
  rfl

theorem bits_word (v : Word) : bits v.toNat 0 32 % 2 ^ 32 = v.toNat := by
  have := v.isLt
  simp only [bits, pow_zero, Nat.div_one]
  omega

theorem State.get_SCRATCH_narrowWrite (s : State) (v : Word) : (s.narrowWrite 0x18 v.toNat).get GLB.SCRATCH = v.toNat := by
  rw [State.narrowWrite_scratch, State.get_set_self]
  exact bits_word v

/-- A word of the MSI-X table is stored, and a message that does not wait is not sent. -/
theorem State.msixWrite_data {s : State} {off v : Nat} (hl : s.live = true) (ho : off < 0x1000) (h8 : off % 16 = 8)
    (hp : bit s.host.pba (off / 16) = false) :
    s.msixWrite off v = { s with host := { s.host with msix := tabPut s.host.msix (off / 4) v } } := by
  have data : msixMask (off / 4 % 4) v = v := by
    rw [show off / 4 % 4 = 2 by omega]
    rfl
  have vector : off / 4 / 4 = off / 16 := by omega
  unfold State.msixWrite
  rw [decide_eq_true ho, hl, Bool.true_and, if_pos rfl]
  dsimp only
  rw [data, vector]
  unfold State.msixRelease
  dsimp only
  rw [hp]
  rfl

theorem wideHit_setSec : wideHit 0xB00024 = some ⟨TIME.SET_SEC, 0, 0, true⟩ := by decide

/-- The low word of SET_SEC that waited has been taken. -/
def State.setSecTaken (s : State) : State := { s with host := { s.host with low := tabDel s.host.low 0xB00020 } }

/-- The high word of SET_SEC commits both. -/
theorem State.hostWrite_setSec {s : State} {low v : Nat} (ho : s.regOpen 0xB00024 = true)
    (hl : tabFind s.host.low 0xB00020 = some low) :
    s.hostWrite 0xB00024 v = s.setSecTaken.set TIME.SET_SEC (low + 2 ^ 32 * v) := by
  have commit : s.hostWrite 0xB00024 v = s.wideWrite ⟨TIME.SET_SEC, 0, 0, true⟩ 0xB00024 v := by
    rw [State.hostWrite, if_pos ho, State.wordStore, wideHit_setSec]
    rfl
  have write : s.wideWrite ⟨TIME.SET_SEC, 0, 0, true⟩ 0xB00024 v =
      s.setSecTaken.fieldWrite TIME.SET_SEC 0 0 (low + 2 ^ 32 * v) (low + 2 ^ 32 * v) := by
    have taken : (tabFind s.host.low (0xB00024 - 4)).getD (s.get TIME.SET_SEC 0 0 % 2 ^ 32) = low := by
      rw [show 0xB00024 - 4 = 0xB00020 from rfl, hl]
      rfl
    have run : s.wideWrite ⟨TIME.SET_SEC, 0, 0, true⟩ 0xB00024 v = s.setSecTaken.wideCommit ⟨TIME.SET_SEC, 0, 0, true⟩
        ((tabFind s.host.low (0xB00024 - 4)).getD (s.get TIME.SET_SEC 0 0 % 2 ^ 32) + 2 ^ 32 * v) := rfl
    rw [run, taken]
    rfl
  rw [commit, write, State.fieldWrite_of_plain (by decide) rfl]
  rfl

/-! ### Reads (R12, R13) -/

theorem toNat_answer {s : State} {v : Nat} (h : v < 2 ^ 64) : (s.answer v).readData.toNat = v := by
  simp only [State.answer, BitVec.toNat_ofNat]
  exact Nat.mod_eq_of_lt h

theorem State.wordRead_lt (s : State) (w : Nat) : s.wordRead w < 2 ^ 32 := Nat.mod_lt _ (by decide)

theorem wordHits_evicted : wordHits 0xC00020 = [⟨TELE.FC_EVICTED, 0, 0, false⟩] := by decide

theorem State.wordRead_evicted (s : State) : s.wordRead 0xC00020 = s.get TELE.FC_EVICTED % 2 ^ 32 := by
  rw [State.wordRead, wordHits_evicted]
  show (0 + s.get TELE.FC_EVICTED % 2 ^ 32 % 2 ^ 32 * 2 ^ 0) % 2 ^ 32 = _
  omega

theorem State.hostRead_of_wide {s : State} {w : Nat} {h : FldAt} (ho : s.regOpen w = true) (hw : wideHit w = some h) :
    s.hostRead w = if h.high then s.highRead w else s.lowRead w := by
  unfold State.hostRead
  rw [ho, hw]
  rfl

theorem busRead_bar0 {s : State} {w : Nat} (h : w % 4 = 0) : s.busRead .bar0 w = s.hostRead w := if_pos h

/-- The read of a counter that a read clears answers it and clears it. -/
theorem State.busRead_evicted {s : State} (ho : s.regOpen 0xC00020 = true) :
    s.busRead .bar0 0xC00020 = (s.answer (s.wordRead 0xC00020)).set TELE.FC_EVICTED (TELE.FC_EVICTED.reset 0) := by
  have narrow : wideHit 0xC00020 = none := by
    rw [wideHit, wordHits_evicted]
    rfl
  rw [busRead_bar0 (by decide), State.hostRead, ho, narrow]
  show s.narrowRead 0xC00020 = _
  rw [State.narrowRead, wordHits_evicted, List.foldl_cons, List.foldl_nil]
  rfl

/-! ### The SMBus (R455 to R457) -/

theorem State.outbox_smbWord (s : State) (w : Nat) : (s.smbWord w).2.outbox = s.outbox :=
  (State.smbWord_touches (ps := [.host]) (.refl _ s) (by decide)).same .outbox (by decide)

/-- A bad access reads 0, shows and is reported. -/
theorem State.badAccess_shows {s : State} (h : s.live = true) :
    s.badAccess.readData = 0 ∧ s.badAccess.flag HOST.ACCESS_ERR = true ∧ s.badAccess.flt = (s.fault srcAccess).flt := by
  have event := State.hostEvent_touches (ps := [.regs, .outbox, .host]) (a1 := HOST.ACCESS_ERR) (.refl _ (s.answer 0)) (by decide)
    (by decide) (by decide)
  unfold State.badAccess
  rw [if_pos h]
  refine ⟨(event.same .readData (by decide) :), ?_, State.flt_fault_congr (event.same .flt (by decide))⟩
  exact State.flag_event_self (s := s.answer 0) (by decide) (by decide)

/-- A write of INT_EN is stored, whatever it sets off. -/
theorem State.get_INT_EN_intEnWrite (s : State) {v : Nat} (h : v < 2 ^ 14) : (s.intEnWrite v).get GLB.INT_EN = v := by
  have pend : Writes [4907] (s.set GLB.INT_EN v) (s.intEnWrite v) := by
    unfold State.intEnWrite
    exact State.when_writes (fun _ k => State.glbPend_writes k (by decide)) (.refl _ _)
  rw [pend.get_eq (by decide) (by decide), State.get_set_self]
  exact Nat.mod_eq_of_lt h

/-- Settles O41: each access is the operation above that belongs to its word. -/
theorem hostAccessesTakeEffect : Obligations.HostAccessesTakeEffect := by
  unfold Obligations.HostAccessesTakeEffect
  refine ⟨fun s v hl => ?_, fun s off v hl ho h8 hp => ?_, fun s ho => ?_, fun s off h ho h4 hw hh => ?_,
    fun s off h v ho h4 hw hh hv hlt => ?_, fun s low v ho hl => ?_,
    fun s hl => ⟨⟨_, rfl, State.badAccess_shows hl⟩, ⟨_, rfl, State.badAccess_shows hl⟩⟩,
    fun s en ho => ⟨_, next_viaHost ho, s.get_INT_EN_intEnWrite en.isLt⟩, fun s p hp h4 => ?_, fun s hp => ?_, fun s v hl => ?_,
    fun s hp => next_smbLive hp⟩
  · refine ⟨_, exec_regWrite_of_plain (by decide), ?_⟩
    rw [show (0x18 : BitVec 26).toNat = 0x18 from rfl, if_pos (State.regOpen_of_live hl (by decide))]
    refine ⟨s.get_SCRATCH_narrowWrite v, ?_⟩
    rw [State.narrowWrite_scratch]
    exact ⟨rfl, s.set_regsSame _ _ _ _⟩
  · have low : off.toNat % 0x10000 = off.toNat := Nat.mod_eq_of_lt (by omega)
    have run : s.busWrite .bar4 off.toNat v.toNat = _ :=
      (if_pos (by omega : off.toNat % 4 = 0)).trans ((congrArg (fun w => s.msixWrite w v.toNat) low).trans
        (State.msixWrite_data hl ho h8 hp))
    refine ⟨_, congrArg Host.Outcome.next run, Touches.putHost (.refl _ s) (by decide), ?_⟩
    · rw [State.msixWord, show off.toNat / 4 = 4 * (off.toNat / 16) + 2 by omega, tabGet_tabPut_self]
  · refine ⟨_, congrArg Host.Outcome.next (State.busRead_evicted ho), ?_, State.get_set_self _ _ _ _ _⟩
    refine (toNat_answer (s := s) (Nat.lt_of_lt_of_le (s.wordRead_lt _) (by decide))).trans s.wordRead_evicted
  · have run : s.busRead .bar0 off.toNat = s.lowRead off.toNat := by
      rw [busRead_bar0 h4, State.hostRead_of_wide ho hw, hh]
      rfl
    refine ⟨_, congrArg Host.Outcome.next run, toNat_answer ?_, tabFind_tabPut_self _ _ _⟩
    exact Nat.lt_of_lt_of_le (s.wordRead_lt _) (by decide)
  · have run : s.busRead .bar0 off.toNat =
        State.answer { s with host := { s.host with latch := tabDel s.host.latch (off.toNat - 4) } } v := by
      rw [busRead_bar0 h4, State.hostRead_of_wide ho hw, hh, if_pos rfl, State.highRead, hv]
    exact ⟨_, congrArg Host.Outcome.next run, toNat_answer (Nat.lt_of_lt_of_le hlt (by decide)), tabFind_tabDel_self _ _⟩
  · refine ⟨_, congrArg Host.Outcome.next (State.hostWrite_setSec ho hl), ?_, tabFind_tabDel_self _ _⟩
    rw [State.get_set_self]
    rfl
  · refine (next_smbLive hp).trans (congrArg Host.Outcome.next ?_)
    unfold State.smbPointer
    rw [bne_eq_false_iff_eq.mpr h4]
    rfl
  · refine ⟨_, next_smbLive hp, rfl, ?_⟩
    show (s.smbWord s.host.smbPtr).2.outbox ++ [.smb (leBytes 4 (s.smbWord s.host.smbPtr).1)] = _
    rw [State.outbox_smbWord]
  · have powered : s.boot.powered = true := by
      unfold State.live at hl
      exact (Bool.and_eq_true_iff.mp hl).1
    have reached : (s.emit (.smb [])).regOpen 0x18 = true := State.regOpen_of_live hl (by decide)
    have run : s.smbWrite (0x18 : Word).toNat v.toNat true = (s.emit (.smb [])).narrowWrite 0x18 v.toNat := by
      have stored : exec (.regWrite .bar0 0x18 v) (s.emit (.smb [])) = _ := exec_regWrite_of_plain (by decide)
      rw [show (0x18 : BitVec 26).toNat = 0x18 from rfl, if_pos reached] at stored
      exact Host.Outcome.next.inj stored
    refine ⟨_, (next_smbLive powered).trans (congrArg Host.Outcome.next run), State.get_SCRATCH_narrowWrite _ v, ?_⟩
    rw [State.narrowWrite_scratch]
    rfl

end Sys2Proof.Machine
end

section
/-!
Proofs of O12 and O13: the monitors of the self-timed core (R39 to R51), and power, phases and temperature (R352 to R371).
-/
namespace Sys2Proof.Machine
open Reg

/-! ### Windows of the monitors (R39, R43) -/

theorem State.trmWindow_of_notDue {s : State} {n : Nat} (count replica : Nat) (h : s.trmDue n = false) :
    s.trmWindow n count replica = s := by
  unfold State.trmWindow
  rw [h]
  rfl

/-- A ratio that is stated and good is no ratio below 0.90. -/
theorem lcoreLow_of_good {count replica : Nat} (draw : Nat) (ho : lcoreOpen count replica = false)
    (hg : 29492 * replica ≤ 32768 * count) : lcoreLow count replica draw = false := by
  have pos : replica ≠ 0 := by
    rintro rfl
    exact absurd ho (by simp [lcoreOpen])
  unfold lcoreLow
  rw [if_neg pos, decide_eq_false]
  exact Nat.not_lt.mpr ((Nat.le_div_iff_mul_le (Nat.pos_of_ne_zero pos)).mpr hg)

theorem lcoreRatio_of_stated {count replica : Nat} (draw : Nat) (ho : lcoreOpen count replica = false) :
    lcoreRatio count replica draw = 32768 * count / replica := by
  unfold lcoreRatio
  rw [ho]
  rfl

/-- The registers of a monitor whose window counts. -/
def State.trmShown (s : State) (n count replica : Nat) : State :=
  ((((s.set CORE.TRM_COUNT count n).set CORE.TRM_REPLICA replica n).set CORE.TRM_LCORE (32768 * count / replica) n).setB
    CORE.SKIPPED false n)

theorem State.get_TRM_LOW_trmShown (s : State) {n : Nat} (count replica : Nat) (hn : n < 81) :
    (s.trmShown n count replica).get CORE.TRM_LOW n = s.get CORE.TRM_LOW n := by
  unfold State.trmShown State.setB
  rw [State.get_set_of_apart (by decide) ⟨hn, by decide⟩, State.get_set_of_apart (by decide) ⟨hn, by decide⟩,
    State.get_set_of_apart (by decide) ⟨hn, by decide⟩, State.get_set_of_apart (by decide) ⟨hn, by decide⟩]

/-- A window that counts, with a good ratio, and is not the last of its round. -/
theorem State.trmWindow_of_good {s : State} {n count replica : Nat} (hn : n < 81) (hd : s.trmDue n = true) (hs : s.core.skip = false)
    (hq : s.disturbed = false) (hl : s.core.ended.length < 80) (ho : lcoreOpen count replica = false)
    (hg : 29492 * replica ≤ 32768 * count) :
    s.trmWindow n count replica =
      { (s.trmShown n count replica).set CORE.TRM_LOW (min count (s.get CORE.TRM_LOW n)) n with
        core := { s.core with ended := n :: s.core.ended } } := by
  have more : ¬ (n :: s.core.ended).length = 81 := by
    rw [List.length_cons]
    omega
  unfold State.trmWindow
  rw [hd, lcoreRatio_of_stated _ ho, lcoreLow_of_good _ ho hg, ho, hs, hq]
  refine (if_neg more).trans ?_
  rw [← s.get_TRM_LOW_trmShown count replica hn]
  rfl

/-! ### Droop (R44 to R47) -/

theorem tabFind_map {α β : Type} (f : α → β) (t : Tab α) (k : Nat) :
    tabFind (t.map fun x => (x.1, f x.2)) k = (tabFind t k).map f := by
  induction t with
  | nil => rfl
  | cons x t ih =>
    obtain ⟨a, y⟩ := x
    by_cases h : a = k
    · simp [tabFind, h]
    · simpa [tabFind, h] using ih

/-- A reading of VCORE starts and ends no response. -/
theorem State.droop_vcoreSeen (s : State) (mv e : Nat) :
    (tabFind (s.vcoreSeen mv).core.droop e).isSome = (tabFind s.core.droop e).isSome := by
  have seen := tabFind_map (fun d : Droop => ({ d with
    band := if decide (s.get CORE.V_SET ≤ mv + s.get CORE.RECOVER_THRESH) then some (d.band.getD s.frc) else none } : Droop))
    s.core.droop e
  exact (congrArg Option.isSome seen).trans Option.isSome_map

/-- A response of a shard starts, and is counted. -/
def State.droopStarted (s : State) (shard : Nat) : State :=
  State.inc { s with core := { s.core with droop := tabPut s.core.droop shard { start := s.frc }, skip := true } } CORE.DROOP_EVENTS

theorem State.droopSeen_of_start {s : State} {shard mv : Nat} (hlow : mv + s.get CORE.DROOP_THRESH < s.get CORE.V_SET)
    (hn : tabFind s.core.droop shard = none) : s.droopSeen shard mv = (s.vcoreSeen mv).droopStarted shard := by
  have quiet : tabFind (s.vcoreSeen mv).core.droop shard = none := by
    rw [← Option.not_isSome_iff_eq_none, State.droop_vcoreSeen, hn]
    exact Bool.false_ne_true
  unfold State.droopSeen
  refine (if_pos hlow).trans ?_
  rw [quiet]
  rfl

/-- A detector of a shard with no response that reads a droop starts one. -/
theorem State.droopSeen_of_low {s : State} {shard mv : Nat} (hlow : mv + s.get CORE.DROOP_THRESH < s.get CORE.V_SET)
    (hn : tabFind s.core.droop shard = none) :
    tabFind (s.droopSeen shard mv).core.droop shard = some { start := s.frc } ∧ (s.droopSeen shard mv).core.skip = true ∧
      (s.droopSeen shard mv).get CORE.DROOP_EVENTS = satTo (2 ^ 32 - 1) (s.get CORE.DROOP_EVENTS + 1) ∧
      ∀ e, e ≠ shard → (tabFind (s.droopSeen shard mv).core.droop e).isSome = (tabFind s.core.droop e).isSome := by
  rw [State.droopSeen_of_start hlow hn]
  refine ⟨tabFind_tabPut_self _ _ _, rfl, State.get_inc_self _ _ _ _, fun e he => ?_⟩
  refine (congrArg Option.isSome (tabFind_tabPut_of_ne _ _ _ _ he)).trans (s.droop_vcoreSeen mv e)

theorem State.droopEnd_of_held {s : State} {shard start since : Nat}
    (h : tabFind s.core.droop shard = some { start := start, band := some since }) (hs : start + s.get CORE.MIN_HOLD * 1250 ≤ s.frc)
    (hb : since + s.get CORE.MIN_HOLD * 1250 ≤ s.frc) :
    s.droopEnd shard = { s with core := { s.core with droop := tabDel s.core.droop shard } } := by
  unfold State.droopEnd
  rw [h]
  dsimp only
  rw [s.elapsed_of_le (n := s.get CORE.MIN_HOLD * ticksPerUs) hs, s.elapsed_of_le (n := s.get CORE.MIN_HOLD * ticksPerUs) hb]
  rfl

theorem State.droopEnd_of_below {s : State} {shard start : Nat}
    (h : tabFind s.core.droop shard = some { start := start, band := none }) : s.droopEnd shard = s := by
  unfold State.droopEnd
  rw [h]

theorem State.bgStarved_of_late {s : State} {a at_ : Nat} (h : tabFind s.anvil.waitAt a = some at_)
    (hn : s.anvil.starved.contains a = false) (hl : at_ + s.get CORE.BG_WAIT_LIMIT * 1250 < s.frc) :
    s.bgStarved a = (State.inc { s with anvil := { s.anvil with starved := a :: s.anvil.starved } } CORE.BG_STARVED_EVENTS).fault
      0x02 := by
  unfold State.bgStarved
  rw [h]
  dsimp only
  rw [hn, s.elapsed_of_le (n := s.get CORE.BG_WAIT_LIMIT * ticksPerUs + 1) (by unfold ticksPerUs; omega)]
  rfl

/-! ### The operating point (R361) -/

/-- A transition ends: the row of the target is in force. -/
def State.opDeclared (s : State) (t : Nat) : State :=
  let s := (s.set CORE.CUR_OP t).setB CORE.IN_TRANSITION false
  { s with core := { s.core with relaxRun := 0, skip := true } }

theorem State.opSettled_of_near {s : State} {mv : Nat} (hi : s.flag CORE.IN_TRANSITION = true)
    (hhi : mv ≤ s.rowVoltage (s.get CORE.TGT_OP) + 5) (hlo : s.rowVoltage (s.get CORE.TGT_OP) ≤ mv + 5) :
    s.opSettled mv = (s.opDeclared (s.get CORE.TGT_OP)).refreshRow := by
  unfold State.opSettled
  dsimp only
  rw [hi, decide_eq_true hhi, decide_eq_true hlo]
  rfl

theorem State.core_refreshRow (s : State) :
    s.refreshRow.core.relaxRun = s.core.relaxRun ∧ s.refreshRow.core.skip = s.core.skip := ⟨rfl, rfl⟩

theorem State.refreshRow_writesOwn (s : State) : Writes [6, 7, 8] s s.refreshRow :=
  State.refreshRow_writes (.refl _ s) (List.Subset.refl _)

theorem State.opDeclared_shows (s : State) {t : Nat} (h : t < 8) :
    (s.opDeclared t).refreshRow.get CORE.CUR_OP = t ∧ (s.opDeclared t).refreshRow.flag CORE.IN_TRANSITION = false ∧
      (s.opDeclared t).refreshRow.core.relaxRun = 0 ∧ (s.opDeclared t).refreshRow.core.skip = true := by
  have row := (s.opDeclared t).refreshRow_writesOwn
  obtain ⟨run, skip⟩ := (s.opDeclared t).core_refreshRow
  refine ⟨(row.get_eq (by decide) (by decide)).trans ?_, (row.flag_eq (by decide) (by decide)).trans ?_, run, skip⟩
  · refine (State.get_set_of_apart (s := s.set CORE.CUR_OP t) (f := CORE.IN_TRANSITION) (by decide) (by decide)).trans ?_
    rw [State.get_set_self]
    exact Nat.mod_eq_of_lt h
  · exact State.flag_setB_self (s.set CORE.CUR_OP t) CORE.IN_TRANSITION false 0 0 (by decide)

/-- Settles O12: each monitor's command is the report that its rule gives. -/
theorem coreMonitorsReport : Obligations.CoreMonitorsReport := by
  unfold Obligations.CoreMonitorsReport
  refine ⟨fun s n count replica hd hs hq hl ho hg => congrArg Host.Outcome.next (State.trmWindow_of_good n.isLt hd hs hq hl ho hg),
    fun s n count replica h => congrArg Host.Outcome.next (State.trmWindow_of_notDue _ _ h),
    fun s d mv hlow hn => ⟨_, rfl, State.droopSeen_of_low hlow hn⟩,
    fun s shard start since h hs hb => congrArg Host.Outcome.next (State.droopEnd_of_held h hs hb),
    fun s shard start h => congrArg Host.Outcome.next (State.droopEnd_of_below h),
    fun s mv h => congrArg Host.Outcome.next (if_pos (decide_eq_true h)),
    fun s a at_ h hn hl => congrArg Host.Outcome.next (State.bgStarved_of_late h hn hl),
    fun s mv hi ht hhi hlo => ⟨_, congrArg Host.Outcome.next (State.opSettled_of_near hi hhi hlo), s.opDeclared_shows ht⟩⟩

end Sys2Proof.Machine
end

section
/-!
Proofs of O13: phases, samples, windows and temperature (R30, R352 to R371).
-/
namespace Sys2Proof.Machine
open Reg

/-! ### Phases (R356 to R359, R371) -/

/-- What a selection of a valid phase shows when it is taken. -/
theorem State.phaseTake_shows {s : State} {n : Nat} (rank : Nat) (hn : n < 16) (hv : s.phaseValid n = true) :
    (s.phaseTake n rank).pwr.govern = s.phaseVal n ∧ (s.phaseTake n rank).pwr.overRun = 0 ∧
      (s.phaseTake n rank).pwr.underRun = 0 ∧ (s.phaseTake n rank).get PWR.PHASE = n ∧
      (s.phaseTake n rank).get PWR.PHASE_CHANGES = satTo (2 ^ 32 - 1) (s.get PWR.PHASE_CHANGES + 1) := by
  obtain ⟨-, -, -, count⟩ := State.phaseTake_governs (rank := rank) hv
  obtain ⟨e, he⟩ := State.phaseTake_of_valid (rank := rank) hv
  rw [he] at count ⊢
  have pwr : (s.phaseLoad n).retarget.pwr = (s.phaseLoad n).pwr := (s.phaseLoad n).retarget_frame.same .pwr (by decide)
  have phase : (s.phaseLoad n).retarget.get PWR.PHASE = n := by
    rw [State.get_retarget_of_ne (by decide) (by decide) (by decide) (by decide) (by decide)]
    refine (State.get_set_of_ne _ PWR.Q_LIMIT PWR.PHASE _ 0 0 0 0 (by decide)).trans ?_
    refine (State.get_inc_of_ne (s := s.set PWR.PHASE n) (by decide)).trans ?_
    rw [State.get_set_self]
    exact Nat.mod_eq_of_lt hn
  exact ⟨congrArg PwrSt.govern pwr, congrArg PwrSt.overRun pwr, congrArg PwrSt.underRun pwr, phase, count⟩

/-- A selection of an invalid phase is an error that leaves the phase in force. -/
theorem State.phaseTake_of_invalid {s : State} {n : Nat} (rank : Nat) (hv : s.phaseValid n = false) :
    ∃ e, s.phaseTake n rank = (s.pwrEvent PWR.PHASE_ERR).recordEdge e := by
  unfold State.phaseTake
  simp only [hv, Bool.false_eq_true, if_false]
  exact ⟨_, rfl⟩

theorem State.phaseTake_refuses {s : State} {n : Nat} (rank : Nat) (hv : s.phaseValid n = false) :
    (s.phaseTake n rank).flag PWR.PHASE_ERR = true ∧ (s.phaseTake n rank).pwr.govern = s.pwr.govern ∧
      (s.phaseTake n rank).get PWR.PHASE = s.get PWR.PHASE := by
  obtain ⟨e, he⟩ := State.phaseTake_of_invalid rank hv
  have frame : Touches [.regs, .outbox, .host] s (s.pwrEvent PWR.PHASE_ERR) :=
    State.pwrEvent_touches (.refl _ s) (by decide) (by decide) (by decide)
  rw [he]
  exact ⟨State.flag_event_self (by decide) (by decide),
    (congrArg PwrSt.govern (frame.same .pwr (by decide)) : (s.pwrEvent PWR.PHASE_ERR).pwr.govern = s.pwr.govern),
    State.get_event_of_ne (by decide) (by decide)⟩

/-- A selection is recorded on this edge only where the edge's instant is now. -/
theorem PhaseEdge.ne_now {o : Option PhaseEdge} {t : Nat} (h : o.map PhaseEdge.at_ ≠ some t) :
    ∀ e, o = some e → e.at_ ≠ t ∨ e.rank = rankWrite := by
  rintro e rfl
  exact .inl fun he => h (congrArg some he)

/-- Word 0 and word 1 of a phase entry are stored. -/
def State.phaseWord0 (s : State) (n v : Nat) : State :=
  ((s.set PWR.E_PREF_OP (bits v 0 3) n).set PWR.E_MIN_OP (bits v 8 3) n).set PWR.E_VALID (bits v 16 1) n
def State.phaseWord1 (s : State) (n v : Nat) : State :=
  ((s.set PWR.E_CAP (bits v 0 16) n).set PWR.E_K (bits v 16 8) n).set PWR.E_B_MAX (bits v 24 8) n

/-- What a write of an entry does once its fields are stored: the values may govern, or be an error. -/
def State.phaseChecked (s : State) (n : Nat) : State :=
  let s := s.when (s.phaseValid n && n == s.get PWR.PHASE) (fun s =>
    { s with pwr := { s.pwr with nextGovern := some (s.phaseVal n) } })
  s.when (s.flag PWR.E_VALID n && !phaseOk (s.phaseVal n)) (fun s => s.pwrEvent PWR.PHASE_ERR)

theorem State.phaseWrite_0 (s : State) (n v : Nat) : s.phaseWrite n 0 v = (s.phaseWord0 n v).phaseChecked n := rfl
theorem State.phaseWrite_1 (s : State) (n v : Nat) : s.phaseWrite n 1 v = (s.phaseWord1 n v).phaseChecked n := rfl

theorem State.phaseChecked_writes (s : State) (n : Nat) : Writes [3596, 4907] s (s.phaseChecked n) :=
  State.when_writes (fun _ h => State.pwrEvent_writes (.PWR_PHASE_ERR (by decide)) h (by decide))
    (State.when_writes (fun _ h => ⟨h.only⟩) (.refl _ s))

theorem bits_lt (v lo wd : Nat) : bits v lo wd < 2 ^ wd := Nat.mod_lt _ (Nat.two_pow_pos wd)

theorem State.phaseWord0_shows (s : State) {n : Nat} (v : Nat) (hn : n < 16) :
    (s.phaseWord0 n v).get PWR.E_PREF_OP n = bits v 0 3 ∧ (s.phaseWord0 n v).get PWR.E_MIN_OP n = bits v 8 3 ∧
      (s.phaseWord0 n v).get PWR.E_VALID n = bits v 16 1 := by
  unfold State.phaseWord0
  refine ⟨?_, ?_, ?_⟩
  · rw [State.get_set_of_apart (by decide) ⟨hn, by decide⟩, State.get_set_of_apart (by decide) ⟨hn, by decide⟩,
      State.get_set_self]
    exact Nat.mod_eq_of_lt (bits_lt v 0 3)
  · rw [State.get_set_of_apart (by decide) ⟨hn, by decide⟩, State.get_set_self]
    exact Nat.mod_eq_of_lt (bits_lt v 8 3)
  · rw [State.get_set_self]
    exact Nat.mod_eq_of_lt (bits_lt v 16 1)

theorem State.phaseWord1_shows (s : State) {n : Nat} (v : Nat) (hn : n < 16) :
    (s.phaseWord1 n v).get PWR.E_CAP n = bits v 0 16 ∧ (s.phaseWord1 n v).get PWR.E_K n = bits v 16 8 ∧
      (s.phaseWord1 n v).get PWR.E_B_MAX n = bits v 24 8 := by
  unfold State.phaseWord1
  refine ⟨?_, ?_, ?_⟩
  · rw [State.get_set_of_apart (by decide) ⟨hn, by decide⟩, State.get_set_of_apart (by decide) ⟨hn, by decide⟩,
      State.get_set_self]
    exact Nat.mod_eq_of_lt (bits_lt v 0 16)
  · rw [State.get_set_of_apart (by decide) ⟨hn, by decide⟩, State.get_set_self]
    exact Nat.mod_eq_of_lt (bits_lt v 16 8)
  · rw [State.get_set_self]
    exact Nat.mod_eq_of_lt (bits_lt v 24 8)

theorem State.phaseWrite_shows0 (s : State) {n : Nat} (v : Nat) (hn : n < 16) :
    (s.phaseWrite n 0 v).get PWR.E_PREF_OP n = bits v 0 3 ∧ (s.phaseWrite n 0 v).get PWR.E_MIN_OP n = bits v 8 3 ∧
      (s.phaseWrite n 0 v).get PWR.E_VALID n = bits v 16 1 := by
  have w := (s.phaseWord0 n v).phaseChecked_writes n
  obtain ⟨pref, min, valid⟩ := s.phaseWord0_shows v hn
  rw [State.phaseWrite_0]
  exact ⟨(w.get_eq (by decide) ⟨hn, by decide⟩).trans pref, (w.get_eq (by decide) ⟨hn, by decide⟩).trans min,
    (w.get_eq (by decide) ⟨hn, by decide⟩).trans valid⟩

theorem State.phaseWrite_shows1 (s : State) {n : Nat} (v : Nat) (hn : n < 16) :
    (s.phaseWrite n 1 v).get PWR.E_CAP n = bits v 0 16 ∧ (s.phaseWrite n 1 v).get PWR.E_K n = bits v 16 8 ∧
      (s.phaseWrite n 1 v).get PWR.E_B_MAX n = bits v 24 8 := by
  have w := (s.phaseWord1 n v).phaseChecked_writes n
  obtain ⟨cap, k, bMax⟩ := s.phaseWord1_shows v hn
  rw [State.phaseWrite_1]
  exact ⟨(w.get_eq (by decide) ⟨hn, by decide⟩).trans cap, (w.get_eq (by decide) ⟨hn, by decide⟩).trans k,
    (w.get_eq (by decide) ⟨hn, by decide⟩).trans bMax⟩

/-! ### Rail samples (R352 to R355) -/

/-- Whatever a valid sample leads to, the sample stays in its registers. -/
theorem State.railSample_writesAfter (s : State) (i mv da : Nat) :
    Writes [1, 2, 9, 258, 3585, 3590, 3597, 3601, 4612, 4613, 4615, 4616, 4907] (s.railShown i mv da)
      (s.railSample i mv da true) := by
  unfold State.railSample
  dsimp only
  rw [if_pos rfl, if_neg (by decide : ¬ (!true) = true)]
  have energy := State.when_writes (c := true && (i == 1 || i == 2))
    (f := fun y : State => { y with act := { y.act with energy := y.act.energy + mv * da } }) (fun _ h => ⟨h.only⟩)
    (.refl [1, 2, 9, 258, 3585, 3590, 3597, 3601, 4612, 4613, 4615, 4616, 4907] (s.railShown i mv da))
  split
  · exact State.vinSample_writes energy (by decide)
  split
  · exact State.vcoreSeen_writes (State.set_writes (.CORE_V_MEAS (by decide)) energy)
  · refine State.when_writes (fun _ h => State.fault_writes h) ?_
    exact ⟨energy.only⟩

theorem State.railShown_shows (s : State) {i : Nat} (mv : BitVec 18) (da : BitVec 14) (hi : i < 7) :
    (s.railShown i mv.toNat da.toNat).get PWR.RAIL_V i = mv.toNat ∧ (s.railShown i mv.toNat da.toNat).get PWR.RAIL_I i = da.toNat := by
  unfold State.railShown
  refine ⟨?_, ?_⟩
  · rw [State.get_set_of_apart (by decide) ⟨hi, by decide⟩, State.get_set_self]
    exact Nat.mod_eq_of_lt mv.isLt
  · rw [State.get_set_self]
    exact Nat.mod_eq_of_lt da.isLt

theorem State.railSample_of_invalid (s : State) {i : Nat} (mv da : Nat) (h : i ≠ 0) : s.railSample i mv da false = s := by
  unfold State.railSample
  exact if_neg h

/-! ### The power window (R354, R355, R362, R363) -/

theorem State.pwr_pwrEvent (s : State) (e : Fld) : (s.pwrEvent e).pwr = s.pwr :=
  (State.pwrEvent_touches (ps := [.regs, .outbox, .host]) (.refl _ s) (by decide) (by decide) (by decide)).same .pwr (by decide)

theorem satTo_lt {m n : Nat} (v : Nat) (h : m < n) : satTo m v < n := by
  rw [satTo_eq]
  exact Nat.lt_of_le_of_lt (Nat.min_le_left _ _) h

/-- What the power window has counted, and when it began. -/
def PwrSt.window (p : PwrSt) : Nat × Nat × Bool × Nat := (p.winSum, p.winCount, p.winBad, p.winAt)

theorem State.window_setBubbles (s : State) (n : Nat) : (s.setBubbles n).pwr.window = s.pwr.window := by
  unfold State.setBubbles
  refine State.when_cases (P := fun y => y.pwr.window = s.pwr.window) _ _ _ rfl fun _ => ?_
  exact (congrArg PwrSt.window (State.pwr_pwrEvent _ _)).trans rfl

theorem State.window_retarget (s : State) : s.retarget.pwr.window = s.pwr.window :=
  congrArg PwrSt.window (s.retarget_frame.same .pwr (by decide))

theorem State.window_qLimitStep (s : State) (used n : Nat) : (s.qLimitStep used n).pwr.window = s.pwr.window := by
  unfold State.qLimitStep
  dsimp only
  split
  · rw [State.window_retarget]
    rfl
  split
  · rw [State.window_retarget]
    rfl
  · rfl

theorem State.estimate_lt (s : State) : s.estimate < 2 ^ 16 :=
  satTo_lt _ (by decide)

/-- The window's mean and estimate are shown. -/
def State.windowShown (s : State) : State :=
  let x : State := { s with act := { s.act with segs := 0, banks := 0, qdr := 0 } }
  (x.set PWR.P_MEAS (if s.pwr.winCount = 0 then x.get PWR.P_MEAS else s.pwr.winSum / (s.pwr.winCount * 10000))).set PWR.P_EST
    s.estimate

/-- A window shows its values, starts the next one, and only then judges its bubbles and limits. -/
theorem State.powerWindow_judged (s : State) : ∃ (x : State) (n used : Nat),
    s.powerWindow = ((x.setBubbles n).qLimitStep used n).retarget ∧ Writes [3589, 3590, 3619, 3620] s.windowShown x ∧
      x.pwr.window = (0, 0, false, s.pwr.winAt + windowTicks) := by
  unfold State.powerWindow
  extract_lets p est act idle meas shown flags used peak loaded n0 n pwr x
  have base : shown = s.windowShown := rfl
  have judged : Writes [3589, 3590, 3619, 3620] shown loaded :=
    State.reloadPhase_writes (State.set_writes (.PWR_P_PEAK (by decide)) (State.set_writes (.PWR_P_USED (by decide))
      (State.measFlags_writes (.refl _ _) (by decide))))
  have window : x.pwr.window = (0, 0, false, s.pwr.winAt + windowTicks) := rfl
  have regs : Writes [3589, 3590, 3619, 3620] shown x := ⟨judged.only⟩
  clear_value x shown used n
  subst base
  exact ⟨x, n, used, rfl, regs, window⟩

theorem State.powerWindow_shows (s : State) (h : s.pwr.winCount ≠ 0) :
    s.powerWindow.get PWR.P_EST = s.estimate ∧
      s.powerWindow.get PWR.P_MEAS = s.pwr.winSum / (s.pwr.winCount * 10000) % 2 ^ 16 ∧
      s.powerWindow.pwr.window = (0, 0, false, s.pwr.winAt + windowTicks) := by
  obtain ⟨x, n, used, run, shown, window⟩ := s.powerWindow_judged
  have after : Writes [1, 2, 3585, 3586, 3588, 3589, 3590, 3594, 3600, 3601, 3619, 3620, 4907] s.windowShown s.powerWindow := by
    rw [run]
    exact State.retarget_writes (State.qLimitStep_writes (State.setBubbles_writes (shown.widen (by decide)) (by decide)) (by decide))
      (by decide)
  refine ⟨?_, ?_, ?_⟩
  · rw [after.get_eq (by decide) (by decide), State.windowShown, State.get_set_self]
    exact Nat.mod_eq_of_lt s.estimate_lt
  · rw [after.get_eq (by decide) (by decide), State.windowShown, State.get_set_of_ne _ _ _ _ _ _ _ _ (by decide),
      State.get_set_self, if_neg h]
    rfl
  · rw [run, State.window_retarget, State.window_qLimitStep, State.window_setBubbles, window]

/-! ### The energy window (R30) -/

/-- The next second starts, with the condition of the traffic shown. -/
def State.secondStarted (s : State) : State :=
  State.setB { s with act := { s.act with secAt := s.act.secAt + 1000 * ticksPerMs, energy := 0, bytes := 0 } } PWR.L_ENERGY_VALID
    s.trafficMet

theorem State.energyWindow_of_due {s : State} (hp : s.boot.powered = true) (h : s.act.secAt + 1250000000 ≤ s.frc) :
    s.energyWindow = s.secondStarted.when s.trafficMet (fun y =>
      (y.set PWR.L_ENERGY (satTo 0xFFFF s.lEnergy)).when (decide (10240 < s.lEnergy)) (fun y => y.fault srcRatio)) := by
  unfold State.energyWindow
  rw [hp, s.elapsed_of_le (n := 1000 * ticksPerMs) h]
  rfl

theorem State.energyWindow_of_early {s : State} (h : s.frc < s.act.secAt + 1250000000) : s.energyWindow = s := by
  have early : s.elapsed s.act.secAt (1000 * ticksPerMs) = false := decide_eq_false (Nat.not_le.mpr h)
  unfold State.energyWindow
  rw [early]
  exact if_pos (Bool.or_true _)

theorem State.secondStarted_shows (s : State) : s.secondStarted.flag PWR.L_ENERGY_VALID = s.trafficMet ∧
    s.secondStarted.get PWR.L_ENERGY = s.get PWR.L_ENERGY :=
  ⟨State.flag_setB_self _ PWR.L_ENERGY_VALID _ 0 0 (by decide), State.get_set_of_ne _ PWR.L_ENERGY_VALID _ _ _ _ _ _ (by decide)⟩

/-- A second with the traffic shows its ratio. -/
def State.ratioShown (s : State) : State := s.secondStarted.set PWR.L_ENERGY (satTo 0xFFFF s.lEnergy)

theorem State.ratioShown_shows (s : State) (met : s.trafficMet = true) : s.ratioShown.flag PWR.L_ENERGY_VALID = true ∧
    s.ratioShown.get PWR.L_ENERGY = min 65535 s.lEnergy := by
  obtain ⟨valid, -⟩ := s.secondStarted_shows
  rw [State.ratioShown]
  have small : satTo 0xFFFF s.lEnergy < 2 ^ 16 := satTo_lt _ (by decide)
  refine ⟨(State.flag_set_of_ne _ _ _ _ _ _ _ _ (by decide)).trans (valid.trans met), ?_⟩
  rw [State.get_set_self, ← satTo_eq]
  exact Nat.mod_eq_of_lt small

theorem State.secondStarted_flt (s : State) : s.secondStarted.flt = s.flt := by
  rw [State.secondStarted, State.setB, State.set_flt]

theorem State.ratioShown_keeps (s : State) : s.ratioShown.flt = s.flt ∧ s.ratioShown.act = s.secondStarted.act := by
  rw [State.ratioShown]
  exact ⟨(State.set_flt _ _ _ _ _).trans s.secondStarted_flt, State.set_act _ _ _ _ _⟩

theorem State.energyWindow_of_met {s : State} (hp : s.boot.powered = true) (h : s.act.secAt + 1250000000 ≤ s.frc)
    (met : s.trafficMet = true) :
    s.energyWindow = s.ratioShown.when (decide (10240 < s.lEnergy)) (fun y => y.fault srcRatio) := by
  rw [State.energyWindow_of_due hp h, met, State.when_true, State.ratioShown]

theorem State.energyWindow_shows {s : State} (hp : s.boot.powered = true) (h : s.act.secAt + 1250000000 ≤ s.frc) :
    s.energyWindow.flag PWR.L_ENERGY_VALID = s.trafficMet ∧
      s.energyWindow.get PWR.L_ENERGY = (if s.trafficMet then min 65535 s.lEnergy else s.get PWR.L_ENERGY) ∧
      s.energyWindow.flt = (if s.trafficMet = true ∧ 10240 < s.lEnergy then s.fault 0x00 else s).flt ∧
      s.energyWindow.act = s.secondStarted.act := by
  by_cases met : s.trafficMet = true
  · obtain ⟨valid, ratio⟩ := s.ratioShown_shows met
    obtain ⟨flt, act⟩ := s.ratioShown_keeps
    rw [State.energyWindow_of_met hp h met, met, if_pos rfl]
    by_cases high : 10240 < s.lEnergy
    · rw [decide_eq_true high, State.when_true, if_pos ⟨rfl, high⟩]
      have same := (State.fault_touches (a1 := srcRatio) (a2 := 0) (a3 := 0) (ps := [.flt]) (.refl _ s.ratioShown) (by decide)).same .act (by decide)
      refine ⟨?_, ?_, State.flt_fault_congr flt, Eq.trans same act⟩
      · rw [State.flag, State.get_fault]
        exact valid
      · rw [State.get_fault, ratio]
    · rw [decide_eq_false high, State.when_false, if_neg fun c => high c.2]
      exact ⟨valid, ratio, flt, act⟩
  · obtain ⟨valid, ratio⟩ := s.secondStarted_shows
    rw [State.energyWindow_of_due hp h]
    rw [Bool.not_eq_true] at met
    rw [met] at valid
    rw [met, State.when_false, if_neg Bool.false_ne_true, if_neg fun c => Bool.false_ne_true c.1]
    exact ⟨valid, ratio, s.secondStarted_flt, rfl⟩

/-! ### Temperature (R364 to R366) -/

/-- What is judged once the readings of a sample have been taken. -/
def State.tempJudged (s : State) : State :=
  (((upTo 18 (fun g s => s.judgeGroup g) s.sensorsLate).leaveQuench.showThermLevel).assayWatch).retarget

theorem State.tempSample_append (s : State) (rs : List (Fin 288 × BitVec 16)) (n : Fin 288) (r : BitVec 16) :
    s.tempSample (rs ++ [(n, r)]) =
      ((rs.foldl (fun s r => s.sensorRead r.1.val r.2.toNat) s).sensorRead n.val r.toNat).tempJudged := by
  rw [State.tempSample, List.foldl_append]
  rfl

theorem State.tempJudged_writes (s : State) :
    Writes [1, 2, 258, 3585, 3587, 3591, 3598, 3599, 3601, 3629, 3630, 3631, 3633, 4612, 4613, 4615, 4616, 4907] s s.tempJudged :=
  State.retarget_writes (State.assayWatch_writes (State.showThermLevel_writes (State.leaveQuench_writes
    (Writes.upTo (fun _ _ h => State.judgeGroup_writes h (by decide)) (State.sensorsLate_writes (.refl _ s) (by decide)))
    (by decide)) (by decide)) (by decide)) (by decide)

theorem State.sensorAt_judgeGroup (s : State) (g : Nat) : (s.judgeGroup g).pwr.sensorAt = s.pwr.sensorAt := by
  unfold State.judgeGroup
  extract_lets old new hot stepping sensor hottest shown warned quenched
  have shows : shown.pwr.sensorAt = s.pwr.sensorAt := by
    change hottest.pwr.sensorAt = _
    clear_value hot
    cases hot <;> rfl
  have warns : warned.pwr.sensorAt = s.pwr.sensorAt :=
    State.when_cases (P := fun y => y.pwr.sensorAt = s.pwr.sensorAt) _ _ _ shows fun _ => (congrArg PwrSt.sensorAt
      (shown.pwr_pwrEvent PWR.THERM_WARN_EVT)).trans shows
  have quenches : quenched.pwr.sensorAt = s.pwr.sensorAt :=
    State.when_cases (P := fun y => y.pwr.sensorAt = s.pwr.sensorAt) _ _ _ warns fun _ => warns
  exact State.when_cases (P := fun y => y.pwr.sensorAt = s.pwr.sensorAt) _ _ _ quenches fun _ => quenches

theorem State.pwr_levelsLeft (s : State) : (upTo 18 (fun g s =>
    if s.get PWR.TG_LEVEL g = 2 then s.set PWR.TG_LEVEL (b2n (!belowThr (s.hottest g) (s.get PWR.TG_WARN g) 5)) g
    else s) s).pwr = s.pwr := by
  refine upTo_keeps (fun y : State => y.pwr = s.pwr) 18 _ s (fun g y hy => ?_) rfl
  split
  · exact hy
  · exact hy

theorem State.sensorAt_judgeGroups (s : State) : (upTo 18 (fun g s => s.judgeGroup g) s).pwr.sensorAt = s.pwr.sensorAt :=
  upTo_keeps (fun y : State => y.pwr.sensorAt = s.pwr.sensorAt) 18 (fun g s => s.judgeGroup g) s
    (fun g y hy => (y.sensorAt_judgeGroup g).trans hy) rfl

theorem State.sensorAt_leaveQuench (s : State) : s.leaveQuench.pwr.sensorAt = s.pwr.sensorAt := by
  unfold State.leaveQuench
  extract_lets below since cool pwr noted hot left
  have keeps : noted.pwr.sensorAt = s.pwr.sensorAt := rfl
  have lefts : left.pwr.sensorAt = noted.pwr.sensorAt := congrArg PwrSt.sensorAt noted.pwr_levelsLeft
  clear_value left noted since
  cases since with
  | none => exact keeps
  | some t =>
    dsimp only
    split
    · exact lefts.trans keeps
    · exact keeps

theorem State.sensorAt_tempJudged (s : State) : s.tempJudged.pwr.sensorAt = s.pwr.sensorAt := by
  have late : s.sensorsLate.pwr = s.pwr :=
    (State.sensorsLate_touches (ps := [.regs, .outbox, .flt, .host]) (.refl _ s) (by decide) (by decide) (by decide)
      (by decide)).same .pwr (by decide)
  have judged := s.sensorsLate.sensorAt_judgeGroups.trans (congrArg PwrSt.sensorAt late)
  rw [State.tempJudged]
  generalize upTo 18 (fun g s => s.judgeGroup g) s.sensorsLate = x at judged
  have shown := congrArg PwrSt.sensorAt ((State.showThermLevel_touches (ps := [.regs]) (.refl _ x.leaveQuench) (by decide)).same
    .pwr (by decide))
  have watched := congrArg PwrSt.sensorAt (x.leaveQuench.showThermLevel.assayWatch_touchesOwn.same .pwr (by decide))
  have ended := congrArg PwrSt.sensorAt (x.leaveQuench.showThermLevel.assayWatch.retarget_frame.same .pwr (by decide))
  exact ended.trans (watched.trans (shown.trans (x.sensorAt_leaveQuench.trans judged)))

theorem State.sensorState_writesOwn (s : State) (n : Nat) (bad : Bool) : Writes [3599, 3633, 4907] s (s.sensorState n bad) :=
  State.sensorState_writes (.refl _ s) (List.Subset.refl _)

theorem State.sensorRead_shows (s : State) {n : Nat} (r : BitVec 16) (hn : n < 288) :
    (s.sensorRead n r.toNat).get PWR.TEMP n = r.toNat ∧ tabFind (s.sensorRead n r.toNat).pwr.sensorAt n = some s.frc := by
  unfold State.sensorRead
  refine ⟨?_, ?_⟩
  · rw [(State.sensorState_writesOwn _ n _).get_eq (by decide) ⟨hn, by decide⟩, State.get_set_self]
    exact Nat.mod_eq_of_lt r.isLt
  · have frame := fun y : State => State.sensorState_touches (ps := [.regs, .outbox, .flt, .host]) (a1 := n)
      (a2 := readingBad r.toNat) (.refl _ y) (by decide) (by decide) (by decide) (by decide)
    rw [(frame _).same .pwr (by decide)]
    exact tabFind_tabPut_self _ _ _

theorem State.frc_sensorReads (s : State) (rs : List (Fin 288 × BitVec 16)) :
    (rs.foldl (fun s r => s.sensorRead r.1.val r.2.toNat) s).frc = s.frc :=
  (Writes.foldl (F := [3599, 3632, 3633, 4907]) (fun _ _ h => State.sensorRead_writes h (List.Subset.refl _))
    (.refl _ s)).get_eq (by decide) (by decide)

theorem State.tempSample_shows (s : State) (rs : List (Fin 288 × BitVec 16)) (n : Fin 288) (r : BitVec 16) :
    (s.tempSample (rs ++ [(n, r)])).get PWR.TEMP n = r.toNat ∧
      tabFind (s.tempSample (rs ++ [(n, r)])).pwr.sensorAt n = some s.frc := by
  obtain ⟨shown, noted⟩ := State.sensorRead_shows (rs.foldl (fun s r => s.sensorRead r.1.val r.2.toNat) s) r n.isLt
  rw [State.frc_sensorReads] at noted
  rw [State.tempSample_append, State.sensorAt_tempJudged,
    (State.tempJudged_writes _).get_eq (by decide) ⟨n.isLt, by decide⟩]
  exact ⟨shown, noted⟩

/-- A step that is due lowers the limit by one. -/
theorem State.thermalStep_of_quench {s : State} (hd : s.pwr.thermNext ≤ s.frc) (hq : s.anyQuench = true)
    (ht : 1 < s.get PWR.T_LIMIT) : s.thermalStep =
      (State.set { s with pwr := { s.pwr with thermNext := s.frc + 10 * ticksPerMs } } PWR.T_LIMIT
        (s.get PWR.T_LIMIT - 1)).retarget := by
  unfold State.thermalStep
  exact (if_neg (Nat.not_lt.mpr hd)).trans ((if_pos hq).trans (if_pos ht))

theorem State.thermalStep_shows {s : State} (hd : s.pwr.thermNext ≤ s.frc) (hq : s.anyQuench = true)
    (ht : 1 < s.get PWR.T_LIMIT) (hm : s.get PWR.T_LIMIT < 8) :
    s.thermalStep.get PWR.T_LIMIT = s.get PWR.T_LIMIT - 1 ∧ s.thermalStep.pwr.thermNext = s.frc + 12500000 := by
  rw [State.thermalStep_of_quench hd hq ht]
  refine ⟨?_, congrArg PwrSt.thermNext ((State.retarget_frame _).same .pwr (by decide))⟩
  rw [State.get_retarget_of_ne (by decide) (by decide) (by decide) (by decide) (by decide), State.get_set_self]
  exact Nat.mod_eq_of_lt (Nat.lt_of_le_of_lt (Nat.sub_le _ _) hm)

/-- Settles O13: a selection, a sample and the end of a window each leave what their rule gives. -/
theorem powerCommandsTakeEffect : Obligations.PowerCommandsTakeEffect := by
  unfold Obligations.PowerCommandsTakeEffect
  refine ⟨fun s n ho hv he => ⟨s.phaseTake n rankWrite, ?_, State.phaseTake_shows _ n.isLt hv⟩,
    fun s n ho hv he => ⟨s.phaseTake n rankWrite, ?_, State.phaseTake_refuses _ hv⟩, fun s n e ho he ha hr => ?_,
    fun s n v ho => ⟨_, next_viaHost ho, s.phaseWrite_shows0 _ n.isLt⟩,
    fun s n v ho => ⟨_, next_viaHost ho, s.phaseWrite_shows1 _ n.isLt⟩,
    fun s rail mv da => ⟨_, rfl, ?_⟩,
    fun s rail mv da h => congrArg Host.Outcome.next (s.railSample_of_invalid _ _ h),
    fun s hd hc => ⟨s.powerWindow, ?_, ?_⟩, fun s hd => ?_,
    fun s hp h => ?_, fun s h => congrArg Host.Outcome.next (State.energyWindow_of_early h),
    fun s rs n r => ⟨_, rfl, s.tempSample_shows rs n r⟩,
    fun s hd hq ht hm => ⟨_, rfl, State.thermalStep_shows hd hq ht hm⟩⟩
  · rw [exec_phaseSelect_of_open n ho, State.phaseSelect_of_unranked (PhaseEdge.ne_now he)]
  · rw [exec_phaseSelect_of_open n ho, State.phaseSelect_of_unranked (PhaseEdge.ne_now he)]
  · rw [exec_phaseSelect_of_open n ho, State.phaseSelect_of_outranked he ha hr]
  · have after := s.railSample_writesAfter rail mv.toNat da.toNat
    obtain ⟨voltage, current⟩ := s.railShown_shows mv da rail.isLt
    exact ⟨(after.get_eq (by decide) ⟨rail.isLt, by decide⟩).trans voltage,
      (after.get_eq (by decide) ⟨rail.isLt, by decide⟩).trans current⟩
  · refine congrArg Host.Outcome.next ?_
    rw [hd, State.when_true]
  · obtain ⟨estimate, measured, window⟩ := s.powerWindow_shows hc
    simp only [PwrSt.window, Prod.mk.injEq] at window
    exact ⟨estimate, measured, window⟩
  · refine congrArg Host.Outcome.next ?_
    rw [hd, State.when_false]
  · obtain ⟨valid, ratio, flt, act⟩ := State.energyWindow_shows hp h
    exact ⟨_, rfl, valid, ratio, flt, congrArg ActSt.energy act, congrArg ActSt.bytes act, congrArg ActSt.secAt act⟩

end Sys2Proof.Machine
end

section
/-!
Proofs of O56 (R35, R38, R40). Two operations set the core's voltage: a recomputation of the row, which holds it to the range from any
state, and a step of the rate loop, which keeps it there.
-/
namespace Sys2Proof.Machine
open Reg

/-! ### What the range is about -/

theorem vcoreInv_congr {s t : State} (inv : VcoreInv s) (base : t.get CORE.V_BASE = s.get CORE.V_BASE)
    (point : t.get CORE.V_SET = s.get CORE.V_SET) (row : t.get CORE.CUR_OP = s.get CORE.CUR_OP)
    (trim : t.core.trim = s.core.trim) : VcoreInv t := by
  rw [VcoreInv, State.trimOf] at inv ⊢
  rwa [base, point, row, trim]

/-- No field at these places is the base voltage, the set point or the row. -/
abbrev leavesVcore (F : List Nat) : Bool :=
  F.all fun n => CORE.V_BASE.apart (fldAt n) && CORE.V_SET.apart (fldAt n) && CORE.CUR_OP.apart (fldAt n)

theorem vcoreInv_of_writes {F : List Nat} {s t : State} (inv : VcoreInv s) (w : Writes F s t) (hF : leavesVcore F = true)
    (trim : t.core.trim = s.core.trim) : VcoreInv t := by
  simp only [leavesVcore, List.all_eq_true, Bool.and_eq_true] at hF
  exact vcoreInv_congr inv (w.get_eq (List.all_eq_true.mpr fun n hn => (hF n hn).1.1) (by decide))
    (w.get_eq (List.all_eq_true.mpr fun n hn => (hF n hn).1.2) (by decide))
    (w.get_eq (List.all_eq_true.mpr fun n hn => (hF n hn).2) (by decide)) trim

/-! ### The trim of a row (R38, R40) -/

theorem State.baseVoltage_range (s : State) (op : Nat) : 550 ≤ s.baseVoltage op ∧ s.baseVoltage op ≤ 850 :=
  ⟨le_min (le_max_right _ _) (by decide), min_le_right _ _⟩

theorem State.setTrim_sets (s : State) (op t : Nat) :
    (s.setTrim op t).get CORE.V_BASE = s.get CORE.V_BASE ∧
      (s.setTrim op t).get CORE.V_SET = (s.get CORE.V_BASE + 2 * t) % 2 ^ 12 ∧
      (s.setTrim op t).get CORE.CUR_OP = s.get CORE.CUR_OP := by
  unfold State.setTrim
  refine ⟨?_, State.get_set_self _ CORE.V_SET _ 0 0, ?_⟩
  · rw [State.get_set_of_apart (by decide) (by decide), State.get_set_of_apart (by decide) (by decide)]
    rfl
  · rw [State.get_set_of_apart (by decide) (by decide), State.get_set_of_apart (by decide) (by decide)]
    rfl

theorem State.trimOf_setTrim (s : State) (op t : Nat) : (s.setTrim op t).trimOf op ≤ t := by
  unfold State.setTrim State.trimOf
  split
  · exact (tabGet_tabPut_self _ _ _ _).le
  · exact Nat.zero_le t

/-- A trim that fits over a base in the range keeps to the range. -/
theorem State.setTrim_vcoreInv {s : State} {t : Nat} (lo : 550 ≤ s.get CORE.V_BASE) (hi : s.get CORE.V_BASE + 2 * t ≤ 850) :
    VcoreInv (s.setTrim (s.get CORE.CUR_OP) t) := by
  obtain ⟨base, point, row⟩ := s.setTrim_sets (s.get CORE.CUR_OP) t
  have trim := s.trimOf_setTrim (s.get CORE.CUR_OP) t
  rw [Nat.mod_eq_of_lt (Nat.lt_of_le_of_lt hi (by decide))] at point
  rw [VcoreInv, base, point, row]
  omega

/-- The base voltage of the current row is shown. -/
def State.baseShown (s : State) : State := s.set CORE.V_BASE (s.baseVoltage (s.get CORE.CUR_OP))

theorem State.get_V_BASE_baseShown (s : State) : s.baseShown.get CORE.V_BASE = s.baseVoltage (s.get CORE.CUR_OP) := by
  rw [State.baseShown, State.get_set_self]
  exact Nat.mod_eq_of_lt (Nat.lt_of_le_of_lt (s.baseVoltage_range _).2 (by decide))

theorem State.get_CUR_OP_baseShown (s : State) : s.baseShown.get CORE.CUR_OP = s.get CORE.CUR_OP := by
  rw [State.baseShown, State.get_set_of_apart (by decide) (by decide)]

theorem State.refreshRow_eq (s : State) : s.refreshRow = s.baseShown.setTrim (s.get CORE.CUR_OP)
    (min (s.baseShown.trimOf (s.get CORE.CUR_OP)) ((850 - s.baseVoltage (s.get CORE.CUR_OP)) / 2)) := rfl

/-- A recomputed row lies in the range, whatever stood there before. -/
theorem State.refreshRow_vcoreInv (s : State) : VcoreInv s.refreshRow := by
  obtain ⟨lo, hi⟩ := s.baseVoltage_range (s.get CORE.CUR_OP)
  rw [State.refreshRow_eq, ← s.get_V_BASE_baseShown, ← s.get_CUR_OP_baseShown]
  rw [← s.get_V_BASE_baseShown] at lo hi
  have fits := Nat.min_le_right (s.baseShown.trimOf (s.baseShown.get CORE.CUR_OP)) ((850 - s.baseShown.get CORE.V_BASE) / 2)
  exact State.setTrim_vcoreInv lo (by omega)

/-! ### The rate loop (R40, R41) -/

theorem State.loopStep_vcoreInv {s : State} (c : Nat) (inv : VcoreInv s) : VcoreInv (s.loopStep c) := by
  have kept : ∀ run : Nat, VcoreInv { s with core := { s.core with relaxRun := run } } := fun _ => inv
  unfold State.loopStep
  extract_lets op floor t core missed run
  have trim : s.trimOf (s.get CORE.CUR_OP) = t := rfl
  have ⟨lo, _, _, sum⟩ := inv
  rw [trim] at sum
  split
  · have counts : Writes [17] s missed := ⟨(State.inc_writes ⟨17, by decide, rfl⟩ (.refl [17] _)).only⟩
    have counted : VcoreInv missed := vcoreInv_of_writes inv counts (by decide) rfl
    split
    · rename_i fits
      simp only [Bool.and_eq_true, decide_eq_true_eq] at fits
      have base : missed.get CORE.V_BASE = s.get CORE.V_BASE := counts.get_eq (by decide) (by decide)
      have row : missed.get CORE.CUR_OP = op := counts.get_eq (by decide) (by decide)
      rw [← row]
      exact State.setTrim_vcoreInv (base ▸ lo) fits.2
    · exact vcoreInv_of_writes (F := [15, 16]) counted (State.fault_writes (State.setB_writes ⟨16, by decide, rfl⟩
        (State.setB_writes ⟨15, by decide, rfl⟩ (.refl _ _)))) (by decide) rfl
  split
  · split
    · exact State.setTrim_vcoreInv (s := { s with core := { s.core with relaxRun := 0 } }) lo
        ((Nat.add_le_add_left (Nat.mul_le_mul_left 2 (Nat.sub_le t 1)) _).trans sum)
    · exact kept run
  · exact kept 0

theorem State.loopEval_vcoreInv {s : State} (inv : VcoreInv s) : VcoreInv s.loopEval := by
  unfold State.loopEval
  split
  · exact inv
  · have shown : ∀ c n : Nat, VcoreInv ((s.set CORE.MIN_COUNT c).set CORE.MIN_INDEX n) := fun c n =>
      vcoreInv_of_writes (F := [24, 25]) inv (State.set_writes ⟨25, by decide, rfl⟩ (State.set_writes ⟨24, by decide, rfl⟩
        (.refl _ s))) (by decide) rfl
    dsimp only
    split
    · exact State.loopStep_vcoreInv _ (shown _ _)
    · exact shown _ _

theorem State.aseWindow_vcoreInv {s : State} (inv : VcoreInv s) : VcoreInv s.aseWindow := by
  refine vcoreInv_of_writes (F := [1834, 1835, 1836]) inv (State.aseWindow_writes (.refl _ s) (by decide)) (by decide) ?_
  exact congrArg CoreSt.trim ((State.aseWindow_touches (ps := [.regs, .pipe]) (.refl _ s) (by decide) (by decide)).same .core
    (by decide))

/-- A round of windows: the loop evaluates once every monitor has ended its window. -/
def State.windowEnded (s : State) (ended : List Nat) : State :=
  if ended.length = 81 then
    let s := s.loopEval.aseWindow
    { s with core := { s.core with ended := [], skip := s.disturbed, trmAt := s.core.trmAt + windowTicks } }
  else { s with core := { s.core with ended := ended } }

theorem State.windowEnded_vcoreInv {s : State} (ended : List Nat) (inv : VcoreInv s) : VcoreInv (s.windowEnded ended) := by
  unfold State.windowEnded
  split
  · have round := State.aseWindow_vcoreInv (State.loopEval_vcoreInv inv)
    generalize s.loopEval.aseWindow = y at round ⊢
    exact round
  · exact inv

/-- What the end of a monitor's window shows before the round may end. -/
theorem State.trmWindow_evaluates {s : State} {n : Nat} (count replica : Nat) (h : s.trmDue n = true) :
    ∃ (x : State) (ended : List Nat), Writes [29, 30, 31, 32, 33] s x ∧ Touches [.regs, .draws, .flt] s x ∧
      s.trmWindow n count replica = x.windowEnded ended := by
  unfold State.trmWindow
  rw [if_neg (by simp [h])]
  refine ⟨_, _, ?_, ?_, rfl⟩
  · exact State.when_writes (fun _ h => State.when_writes (fun _ h => State.fault_writes h) (State.set_writes ⟨33, by decide, rfl⟩ h))
      (State.setB_writes ⟨32, by decide, rfl⟩ (State.set_writes ⟨31, by decide, rfl⟩ (State.set_writes ⟨30, by decide, rfl⟩
        (State.set_writes ⟨29, by decide, rfl⟩ (State.when_writes (fun _ h => ⟨h.only⟩) (.refl _ s))))))
  · exact State.when_touches (fun _ h => State.when_touches (fun _ h => State.fault_touches h (by decide))
      (State.set_touches h (by decide))) (State.setB_touches (State.set_touches (State.set_touches (State.set_touches
        (State.when_touches (fun _ h => State.draw_touches h (by decide)) (.refl _ s)) (by decide)) (by decide)) (by decide)) (by decide))

theorem State.trmWindow_vcoreInv {s : State} (n count replica : Nat) (inv : VcoreInv s) : VcoreInv (s.trmWindow n count replica) := by
  cases h : s.trmDue n with
  | false => rwa [State.trmWindow_of_notDue _ _ h]
  | true =>
    obtain ⟨x, ended, writes, frame, run⟩ := State.trmWindow_evaluates count replica h
    rw [run]
    exact State.windowEnded_vcoreInv _ (vcoreInv_of_writes inv writes (by decide)
      (congrArg CoreSt.trim (frame.same .core (by decide))))

/-! ### Hours, transitions and resets -/

/-- A routine with a word of its own does its work, whatever the fetch of the word. -/
theorem State.anvilOwn_of {P : State → Prop} {s : State} {work : State → State} (f : Fetch) (h : ∀ y, P (work y)) :
    P (s.anvilOwn f work) := by
  unfold State.anvilOwn
  split
  · exact h _
  · exact h _
  · exact h _

theorem State.hoursStep_vcoreInv {s : State} (f : Fetch) (ok : Bool) (inv : VcoreInv s) : VcoreInv (s.hoursStep f ok) := by
  unfold State.hoursStep
  split
  · exact inv
  · exact State.anvilOwn_of f fun y => State.refreshRow_vcoreInv _

theorem State.opSettled_vcoreInv {s : State} (mv : Nat) (inv : VcoreInv s) : VcoreInv (s.opSettled mv) := by
  unfold State.opSettled
  dsimp only
  split
  · exact State.refreshRow_vcoreInv _
  · exact inv

theorem State.bootOn_vcoreInv {s : State} (inv : VcoreInv s) : VcoreInv s.bootOn :=
  vcoreInv_of_writes inv s.bootOn_writesOwn (by decide) (congrArg CoreSt.trim ((State.bootOn_touches (ps := [.regs, .img, .boot])
    (.refl _ s) (by decide) (by decide) (by decide)).same .core (by decide)))

/-- A module reset ends with a recomputation of the row. -/
theorem State.resetTo_refreshes (s : State) (soft : Bool) : ∃ x : State, s.resetTo soft = x.refreshRow := ⟨_, rfl⟩

theorem State.moduleReset_vcoreInv (s : State) (kind : Nat) : VcoreInv (s.moduleReset kind) := by
  obtain ⟨x, reset⟩ := s.resetTo_refreshes false
  have shown := x.refreshRow.resetShown_writes kind (s.flag PWR.PFAIL)
  have frame := x.refreshRow.resetShown_touches kind (s.flag PWR.PFAIL)
  rw [State.moduleReset_eq, reset]
  exact State.bootOn_vcoreInv (vcoreInv_of_writes x.refreshRow_vcoreInv shown (by decide)
    (congrArg CoreSt.trim (frame.same .core (by decide))))

theorem State.powerOn_refreshes (s : State) (addr : Nat) (low : Bool) : ∃ x : State, s.powerOn addr low =
    if low then (x.refreshRow.set GLB.STEP 2).setB GLB.PIN_LEVEL true 0 else x.refreshRow.bootOn := ⟨_, rfl⟩

theorem State.powerOn_vcoreInv (s : State) (addr : Nat) (low : Bool) : VcoreInv (s.powerOn addr low) := by
  obtain ⟨x, run⟩ := s.powerOn_refreshes addr low
  rw [run]
  split
  · exact vcoreInv_of_writes (F := [4872, 4881]) x.refreshRow_vcoreInv (State.setB_writes ⟨4881, by decide, rfl⟩
      (State.set_writes ⟨4872, by decide, rfl⟩ (.refl _ _))) (by decide) rfl
  · exact State.bootOn_vcoreInv x.refreshRow_vcoreInv

/-! ### Every other command -/

/-- A command that names its registers and not V_SET names no other field over the set point or the base voltage. -/
theorem leavesVcore_of_noVSet (c : Instr) (h : writesAtLarge c = false) (hn : CORE.V_SET ∉ writtenBy c) :
    ∀ f ∈ writtenBy c, CORE.V_SET.apart f = true ∧ CORE.V_BASE.apart f = true := by
  have all : (writesAtLarge c || (writtenBy c).contains CORE.V_SET ||
      (writtenBy c).all fun f => CORE.V_SET.apart f && CORE.V_BASE.apart f) = true := by
    cases c <;> rfl
  rw [h, Bool.false_or, Bool.or_eq_true, List.contains_iff_mem] at all
  intro f hf
  exact (Bool.and_eq_true _ _).mp (List.all_eq_true.mp (all.resolve_left hn) f hf)

/-- Settles O56: whatever sets the core's voltage holds it to its range, and no command that names its registers moves it unnamed. -/
theorem vcoreStaysInRange : Obligations.VcoreStaysInRange := by
  unfold Obligations.VcoreStaysInRange
  refine ⟨fun s f ok inv => ⟨_, rfl, State.hoursStep_vcoreInv f ok inv⟩,
    fun s mv inv => ⟨_, rfl, State.opSettled_vcoreInv _ inv⟩,
    fun s n count replica inv => ⟨_, rfl, State.trmWindow_vcoreInv _ _ _ inv⟩,
    fun s addr low => ⟨_, rfl, s.powerOn_vcoreInv _ _⟩,
    fun s ho => ⟨s.moduleReset 3, next_viaHost ho, s.moduleReset_vcoreInv 3⟩, fun c s t hc hn h => ?_⟩
  have apart := leavesVcore_of_noVSet c hc hn
  exact ⟨get_of_exec hc h (List.all_eq_true.mpr fun f hf => (apart f hf).1) (by decide),
    get_of_exec hc h (List.all_eq_true.mpr fun f hf => (apart f hf).2) (by decide)⟩

end Sys2Proof.Machine
end

section
/-!
What of the host's interface messages leave as it was: the MSI-X table, the function mask, configuration space as software wrote it, and
the rings whose messages wait (R322, R323). Whatever ends transmissions or transfers sends messages alone.
-/
namespace Sys2Proof.Machine
open Reg

/-- The host's interface is as it was, but for held messages, the records of DMA channels and rings, and words half written. -/
structure SameTable (s t : State) : Prop where
  msix : t.host.msix = s.host.msix
  funcMask : t.host.funcMask = s.host.funcMask
  cfg : t.host.cfg = s.host.cfg
  coalAt : t.host.coalAt = s.host.coalAt

theorem SameTable.of_host {s x t : State} (h : SameTable s x) (e : t.host = x.host) : SameTable s t :=
  ⟨e ▸ h.msix, e ▸ h.funcMask, e ▸ h.cfg, e ▸ h.coalAt⟩

theorem SameTable.refl (s : State) : SameTable s s := ⟨rfl, rfl, rfl, rfl⟩

theorem SameTable.of_touches {ps : List Part} {s x t : State} (k : Touches ps x t) (h : SameTable s x)
    (hp : ps.contains .host = false := by rfl) : SameTable s t := h.of_host (k.same_of_not_contains (p := .host) hp)

theorem SameTable.when {s x : State} {c : Bool} {f : State → State} (hf : ∀ y, SameTable s y → SameTable s (f y))
    (h : SameTable s x) : SameTable s (x.when c f) := State.when_cases _ _ _ h fun _ => hf x h

theorem SameTable.foldl {β : Type} {f : State → β → State} {s x : State} {l : List β}
    (hf : ∀ y b, SameTable s y → SameTable s (f y b)) (h : SameTable s x) : SameTable s (l.foldl f x) :=
  foldl_keeps (SameTable s) f hf l x h

theorem SameTable.upTo {n : Nat} {f : Nat → State → State} {s x : State} (hf : ∀ k y, SameTable s y → SameTable s (f k y))
    (h : SameTable s x) : SameTable s (upTo n f x) := upTo_keeps (SameTable s) n f x hf h

variable {s x : State}

/-! ### Messages and events -/

theorem State.set_table {f : Fld} {v i j : Nat} (h : SameTable s x) : SameTable s (x.set f v i j) := h.of_host rfl

theorem State.setB_table {f : Fld} {v : Bool} {i j : Nat} (h : SameTable s x) : SameTable s (x.setB f v i j) := h.of_host rfl

theorem State.add_table {f : Fld} {n i j : Nat} (h : SameTable s x) : SameTable s (x.add f n i j) := h.of_host rfl

theorem State.msixSend_table {v : Nat} (h : SameTable s x) : SameTable s (x.msixSend v) := by
  unfold State.msixSend
  split
  · exact h.of_host rfl
  · exact ⟨h.msix, h.funcMask, h.cfg, h.coalAt⟩

theorem State.glbRaise_table {b : Nat} (h : SameTable s x) : SameTable s (x.glbRaise b) := by
  unfold State.glbRaise State.glbPend
  split
  · split
    · exact h
    · exact State.msixSend_table (State.setB_table h)
  · exact h

theorem State.event_table {f : Fld} {i : Nat} {en : Bool} {b : Nat} (h : SameTable s x) : SameTable s (x.event f i en b) := by
  unfold State.event
  split
  · exact h
  · exact .when (fun _ k => State.glbRaise_table k) (State.setB_table h)

theorem State.hostEvent_table {f : Fld} (h : SameTable s x) : SameTable s (x.hostEvent f) := State.event_table h

/-! ### Counts and postcards -/

theorem State.sampleAdd_table {k n : Nat} (h : SameTable s x) : SameTable s (x.sampleAdd k n) := by
  unfold State.sampleAdd
  extract_lets v reload lap passes y
  split
  · exact State.set_table h
  · have shown : SameTable s y := State.set_table h
    split
    · exact State.add_table shown
    · exact State.add_table (State.event_table shown)

theorem State.tally_table {u code n : Nat} (h : SameTable s x) : SameTable s (x.tally u code n) := by
  unfold State.tally
  extract_lets y z
  have act : SameTable s y := .of_touches (ps := [.act]) (State.activityAdd_touches (.refl _ x) (by decide)) h
  have counted : SameTable s z := by
    unfold z
    split
    · refine .upTo (fun i y h => ?_) act
      split
      · exact .of_touches (ps := [.regs]) (State.loupeAdd_touches (.refl _ y) (by decide)) h
      · exact h
    · exact act
  refine .upTo (fun i y h => ?_) counted
  split
  · exact State.sampleAdd_table h
  · exact h

theorem State.postcard_table {shard c : Nat} {payload : List Byte} (h : SameTable s x) :
    SameTable s (x.postcard shard c payload) := by
  unfold State.postcard
  extract_lets y
  have counted : SameTable s y := State.tally_table h
  split
  · exact .of_touches (ps := [.tele]) (State.colPush_touches (.refl _ y) (by decide)) counted
  · exact State.add_table counted

theorem State.cardSend_table {e : Eg} {rec_ : List Byte} (h : SameTable s x) : SameTable s (x.cardSend e rec_) := by
  unfold State.cardSend
  dsimp only
  split
  · exact State.postcard_table h
  · exact State.add_table (.of_touches (ps := [.regs]) (State.hmSkip_touches (.refl _ x) (by decide)) h)

theorem State.dropCard_table {e : Eg} (h : SameTable s x) : SameTable s (x.dropCard e) := by
  unfold State.dropCard
  split
  · exact State.cardSend_table h
  · exact h

/-! ### Instances that end -/

theorem State.xoffPut_table {r : Nat} {v : Bool} (h : SameTable s x) : SameTable s (x.xoffPut r v) := by
  unfold State.xoffPut
  extract_lets port prio others y z buf w
  have counted : SameTable s z := .when (fun _ k => State.tally_table k) (State.setB_table h)
  have noted : SameTable s w := counted.of_host rfl
  split
  · exact .of_touches (ps := [.buf]) (State.pauseOwe_touches (.refl _ w) (by decide)) noted
  · exact noted

theorem State.xoffEval_table (h : SameTable s x) : SameTable s x.xoffEval := by
  refine .foldl (fun y r k => ?_) h
  extract_lets z
  have held : SameTable s z := .of_touches (ps := [.regs]) (State.heldPut_touches (.refl _ y) (by decide)) k
  split
  · split
    · exact held
    · exact State.xoffPut_table held
  · split
    · exact State.xoffPut_table held
    · exact held

theorem State.uncharge_table {f : Frame} (h : SameTable s x) : SameTable s (x.uncharge f) :=
  State.xoffEval_table (State.set_table (State.set_table (State.set_table h)))

theorem State.handleErr_table {e c : Nat} (h : SameTable s x) : SameTable s (x.handleErr e c) :=
  .of_touches (ps := [.regs, .flt, .buf]) (State.handleErr_touches (.refl _ x) (by decide) (by decide) (by decide)) h

theorem State.release_table {e : Nat} (h : SameTable s x) : SameTable s (x.release e) := by
  unfold State.release
  dsimp only
  split
  · exact State.handleErr_table h
  · exact State.uncharge_table (.of_touches (ps := [.buf]) (State.vacate_touches (.refl _ x) (by decide)) h)

theorem State.decRef_table {e : Nat} (h : SameTable s x) : SameTable s (x.decRef e) := by
  unfold State.decRef
  dsimp only
  split
  · exact State.handleErr_table h
  split
  · exact State.handleErr_table h
  split
  · exact State.release_table h
  · exact .of_touches (ps := [.buf]) (State.putStore_touches (.refl _ x) (by decide)) h

theorem State.instEnd_table {i : Inst} (h : SameTable s x) : SameTable s (x.instEnd i) :=
  State.decRef_table (.of_touches (ps := [.regs]) (State.inflightDec_touches (.refl _ x) (by decide)) h)

theorem State.txDrop_table {t : Tx} (h : SameTable s x) : SameTable s (x.txDrop t) := by
  unfold State.txDrop
  split
  · exact .when (fun _ k => State.dropCard_table k) h
  · exact h

theorem State.txStomp_table {p : Nat} {t : Tx} (h : SameTable s x) : SameTable s (x.txStomp p t) :=
  State.txDrop_table (.of_touches (ps := [.outbox, .act, .tele]) (State.bwCount_touches (State.emit_touches (.refl _ x) (by decide))
    (by decide) (by decide)) h)

theorem State.txCut_table {p : Nat} (h : SameTable s x) : SameTable s (x.txCut p) := by
  unfold State.txCut
  split
  · extract_lets y que z
    have stomped : SameTable s z := (State.txStomp_table h).of_host rfl
    split
    · exact State.instEnd_table stomped
    · exact stomped
  · exact h

/-! ### Transfers that end -/

theorem State.dmaHalt_table {c result residue : Nat} (h : SameTable s x) : SameTable s (x.dmaHalt c result residue) :=
  State.msixSend_table ⟨h.msix, h.funcMask, h.cfg, h.coalAt⟩

theorem State.dmaLinkEnd_table {all : Bool} (h : SameTable s x) : SameTable s (x.dmaLinkEnd all) := by
  refine .upTo (fun c y k => ?_) h
  split
  · exact State.dmaHalt_table k
  · exact k

theorem State.imgShow_table {f : VFail} (h : SameTable s x) : SameTable s (x.imgShow f) :=
  .of_touches (ps := [.regs, .flt]) (State.imgShow_touches (.refl _ x) (by decide) (by decide)) h

theorem State.imgEnd_table {f : VFail} (h : SameTable s x) : SameTable s (x.imgEnd f) := by
  unfold State.imgEnd
  split
  · extract_lets img y
    have ended : SameTable s y := h.of_host rfl
    split
    · exact ended
    · exact State.event_table (State.set_table (State.imgShow_table ended))
  · exact h

theorem State.imgLinkEvent_table (h : SameTable s x) : SameTable s x.imgLinkEvent := by
  unfold State.imgLinkEvent
  exact .when (fun _ k => State.imgEnd_table k) h

theorem State.linkEvent_table (h : SameTable s x) : SameTable s x.linkEvent := by
  unfold State.linkEvent
  exact State.imgLinkEvent_table (State.dmaLinkEnd_table h)

/-- Whatever a module reset stops sends messages alone. -/
theorem State.portsCut_table (h : SameTable s x) (l : List Nat) : SameTable s (l.foldl (fun s p => s.txCut p) x) :=
  .foldl (fun _ _ k => State.txCut_table k) h

theorem State.linesOff_table (h : SameTable s x) : SameTable s x.linesOff :=
  .of_touches (ps := [.outbox, .buf]) (State.linesOff_touches (.refl _ x) (by decide) (by decide)) h

theorem State.ringsStop_table (h : SameTable s x) : SameTable s x.ringsStop :=
  .of_touches (ps := [.regs]) (State.ringsStop_touches (.refl _ x) (by decide)) h

theorem State.resetStop_table (s : State) (soft : Bool) : SameTable s (s.resetStop soft) :=
  .when (fun _ k => State.ringsStop_table (State.dmaLinkEnd_table k))
    (State.linesOff_table (State.portsCut_table (.refl s) s.portList))

end Sys2Proof.Machine
end

section
/-!
Proofs of O33: power-on and the resets (R427 to R432, R438).
-/
namespace Sys2Proof.Machine
open Reg

/-! ### Start-up goes on (R428) -/

theorem State.bootTry_img (s : State) (l : List Nat) : Touches [.regs, .img] s (s.bootTry l) :=
  State.bootTry_touches (.refl _ s) (by decide) (by decide)

/-- Start-up has read the module's store, and shows its step and the bank that comes first. -/
def State.bootPrepared (s : State) : State :=
  let y := (State.storeSense { s with boot := { s.boot with soft := false } }).set GLB.STEP 4
  y.set GLB.FIRST_BANK (y.get IMG.BOOT_PREF)

theorem State.boot_bootPrepared (s : State) : s.bootPrepared.boot = { s.boot with soft := false } := by
  rw [State.bootPrepared, State.set_boot, State.set_boot]
  exact (State.storeSense_touches (ps := [.regs]) (.refl _ { s with boot := { s.boot with soft := false } })
    (by decide)).same .boot (by decide)

theorem State.bootOn_tries (s : State) (h : s.flag PWR.PFAIL = false) : Touches [.regs, .img] s.bootPrepared s.bootOn := by
  unfold State.bootOn
  rw [if_neg (by rw [h]; exact Bool.false_ne_true)]
  extract_lets boot x y a z
  have base : z = s.bootPrepared := rfl
  clear_value z
  subst base
  split
  · exact State.bootTry_touches (State.set_touches (State.set_touches (.refl _ _) (by decide)) (by decide)) (by decide) (by decide)
  · exact State.bootTry_img _ _

/-- What goes on of start-up ends a soft reset, and changes no other record of it. -/
theorem State.boot_bootOn (s : State) : s.bootOn.boot = if s.flag PWR.PFAIL then s.boot else { s.boot with soft := false } := by
  cases h : s.flag PWR.PFAIL with
  | true =>
    rw [State.bootOn, h]
    rfl
  | false => exact Eq.trans ((s.bootOn_tries h).same .boot (by decide)) s.boot_bootPrepared

theorem State.bootOn_frame (s : State) : Touches [.regs, .img, .boot] s s.bootOn :=
  State.bootOn_touches (.refl _ s) (by decide) (by decide) (by decide)

theorem State.refreshRow_frame (s : State) : Touches [.regs, .core] s s.refreshRow :=
  State.refreshRow_touches (.refl _ s) (by decide) (by decide)

/-! ### Power-on (R427, R428, R431) -/

/-- The records that power-on starts from. -/
structure PowerRecords (s x : State) (addr : Nat) (low : Bool) : Prop where
  boot : x.boot = { powered := true, held := low, cold := low }
  addr : x.pins.smbAddr = addr % 4
  fused : x.mil.fused = s.mil.fused
  service : x.mil.service = false
  que : x.que = {}
  buf : x.buf = {}

/-- Power-on, once its records stand: step 2, where RESET_N holds the module, or the rest of start-up. -/
def State.powerGoesOn (s : State) (low : Bool) : State :=
  if low then (s.set GLB.STEP 2).setB GLB.PIN_LEVEL true 0 else s.bootOn

theorem State.powerOn_records (s : State) (addr : Nat) (low : Bool) : ∃ x : State,
    s.powerOn addr low = x.refreshRow.powerGoesOn low ∧ PowerRecords s x addr low :=
  ⟨_, rfl, ⟨rfl, rfl, rfl, rfl, rfl, rfl⟩⟩

theorem State.powerGoesOn_frame (s : State) (low : Bool) : Touches [.regs, .img, .boot] s (s.powerGoesOn low) := by
  unfold State.powerGoesOn
  split
  · exact State.setB_touches (State.set_touches (.refl _ s) (by decide)) (by decide)
  · exact s.bootOn_frame

theorem State.boot_powerGoesOn {s : State} {low : Bool} (h : s.boot = { powered := true, held := low, cold := low }) :
    (s.powerGoesOn low).boot.powered = true ∧ (s.powerGoesOn low).boot.held = low := by
  cases low with
  | true => exact ⟨congrArg BootSt.powered h, congrArg BootSt.held h⟩
  | false =>
    have boot : (s.powerGoesOn false).boot = _ := s.boot_bootOn
    rw [boot, h]
    split <;> exact ⟨rfl, rfl⟩

theorem State.powerOn_shows (s : State) (addr : BitVec 2) (low : Bool) :
    (s.powerOn addr.toNat low).boot.powered = true ∧ (s.powerOn addr.toNat low).boot.held = low ∧
      (s.powerOn addr.toNat low).pins.smbAddr = addr.toNat ∧ (s.powerOn addr.toNat low).mil.fused = s.mil.fused ∧
      (s.powerOn addr.toNat low).mil.service = false ∧ (s.powerOn addr.toNat low).que = {} ∧
      (s.powerOn addr.toNat low).buf = {} ∧ (low = true → (s.powerOn addr.toNat low).get GLB.STEP = 2) := by
  obtain ⟨x, run, records⟩ := s.powerOn_records addr.toNat low
  have row := x.refreshRow_frame
  have rest := x.refreshRow.powerGoesOn_frame low
  obtain ⟨powered, held⟩ := State.boot_powerGoesOn (s := x.refreshRow) (Eq.trans (row.same .boot (by decide)) records.boot)
  have mil : (x.refreshRow.powerGoesOn low).mil = x.mil := Eq.trans (rest.same .mil (by decide)) (row.same .mil (by decide))
  have pins : (x.refreshRow.powerGoesOn low).pins = x.pins := Eq.trans (rest.same .pins (by decide)) (row.same .pins (by decide))
  rw [run]
  refine ⟨powered, held, ?_, by rw [mil, records.fused], by rw [mil, records.service],
    Eq.trans (rest.same .que (by decide)) (Eq.trans (row.same .que (by decide)) records.que),
    Eq.trans (rest.same .buf (by decide)) (Eq.trans (row.same .buf (by decide)) records.buf), ?_⟩
  · rw [pins, records.addr]
    exact Nat.mod_eq_of_lt addr.isLt
  · rintro rfl
    refine (State.get_set_of_ne _ GLB.PIN_LEVEL GLB.STEP _ 0 0 0 0 (by decide)).trans ?_
    exact State.get_set_self _ GLB.STEP 2 0 0

/-! ### RESET_N (R430, R432, R436) -/

/-- The instant of the assertion is noted. -/
def State.resetNoted (s : State) : State := { s with pins := { s.pins with acceptedAt := tabPut s.pins.acceptedAt 0 (s.frc + 1) } }

/-- RESET_N is accepted: the module stops. -/
def State.resetAccepted (s : State) : State := ((s.resetNoted.setB GLB.PIN_LEVEL true 0).discardAll).linesOff

/-- The module is held in reset. -/
def State.heldInReset (s : State) : State := { s with boot := { s.boot with held := true } }

theorem State.heldInReset_keeps (s : State) : s.heldInReset.boot = { s.boot with held := true } ∧ s.heldInReset.pins = s.pins :=
  ⟨rfl, rfl⟩

theorem State.resetAssert_of_running {s : State} (hp : s.boot.powered = true) (hh : s.boot.held = false)
    (hr : tabGet 0 s.pins.releasedAt 0 = 0) : s.resetAssert = s.resetAccepted.heldInReset := by
  unfold State.resetAssert
  extract_lets rel pins noted stopped
  have fresh : rel = 0 := hr
  have base : stopped = s.resetAccepted := rfl
  clear_value stopped rel
  rw [if_neg (by simp [hp, hh]), if_neg (by simp [fresh])]
  change stopped.heldInReset = _
  rw [base]

theorem State.resetAccepted_frame (s : State) :
    Touches [.regs, .outbox, .flt, .act, .host, .buf, .pipe, .que, .tele] s.resetNoted s.resetAccepted :=
  State.linesOff_touches (State.discardAll_touches (State.setB_touches (.refl _ _) (by decide)) (by decide) (by decide) (by decide)
    (by decide) (by decide) (by decide) (by decide) (by decide) (by decide)) (by decide) (by decide)

theorem State.resetAccepted_shows (s : State) : s.resetAccepted.boot = s.boot ∧
    tabGet 0 s.resetAccepted.pins.acceptedAt 0 = s.frc + 1 := by
  have pins := s.resetAccepted_frame.same .pins (by decide)
  refine ⟨s.resetAccepted_frame.same .boot (by decide), ?_⟩
  rw [pins]
  exact tabGet_tabPut_self _ _ _ _

/-! ### Module resets (R431, R438) -/

theorem State.moduleReset_records (s : State) (kind : Nat) : ∃ x : State,
    ResetRecords (s.resetStop false) x false ∧ Touches [.regs, .core, .img, .boot] x (s.moduleReset kind) := by
  obtain ⟨x, frame, -, records⟩ := s.resetTo_startsAfresh false
  refine ⟨x, records, ?_⟩
  rw [State.moduleReset_eq]
  have widened : Touches [.regs, .core, .img, .boot] x (s.resetTo false) :=
    ⟨frame.pending, fun p hp => frame.same p fun h => hp ((by decide : [Part.regs, .core] ⊆ [.regs, .core, .img, .boot]) h)⟩
  refine State.bootOn_touches ?_ (by decide) (by decide) (by decide)
  exact State.when_touches (fun y h => State.setB_touches (State.setB_touches h (by decide)) (by decide))
    (State.inc_touches (State.set_touches widened (by decide)) (by decide))

theorem State.moduleReset_shows (s : State) (kind : Nat) (hk : kind < 2 ^ GLB.LAST_KIND.wd) :
    (s.moduleReset kind).get GLB.LAST_KIND = kind ∧ (s.moduleReset kind).que = {} ∧ (s.moduleReset kind).buf = {} ∧
      (s.moduleReset kind).host = {} ∧ (s.moduleReset kind).mil.fused = s.mil.fused ∧
      (s.moduleReset kind).mil.service = false := by
  obtain ⟨x, records, frame⟩ := s.moduleReset_records kind
  have stopped : (s.resetStop false).mil = s.mil := (s.resetStop_touches false).same .mil (by decide)
  have mil : (s.moduleReset kind).mil = x.mil := frame.same .mil (by decide)
  refine ⟨?_, Eq.trans (frame.same .que (by decide)) records.que, Eq.trans (frame.same .buf (by decide)) records.buf,
    Eq.trans (frame.same .host (by decide)) (records.host rfl), by rw [mil, records.fused, stopped],
    by rw [mil, records.service]⟩
  rw [State.moduleReset_eq, (State.bootOn_writesOwn _).get_eq (by decide) (by decide)]
  exact State.get_LAST_KIND_resetShown hk

/-- A module reset that goes on holds the module no longer. -/
theorem State.held_moduleReset (s : State) (kind : Nat) : (s.moduleReset kind).boot.held = false := by
  obtain ⟨x, frame, -, records⟩ := s.resetTo_startsAfresh false
  have reset : (s.resetTo false).boot = x.boot := frame.same .boot (by decide)
  have shown : ((s.resetTo false).resetShown kind (s.flag PWR.PFAIL)).boot = x.boot :=
    Eq.trans ((State.resetShown_touches _ _ _).same .boot (by decide)) reset
  rw [State.moduleReset_eq, State.boot_bootOn, shown, records.boot]
  split <;> rfl

theorem State.softReset_shows (s : State) (kind : Nat) (hk : kind < 2 ^ GLB.LAST_KIND.wd) :
    (s.softReset kind).get GLB.LAST_KIND = kind ∧ (s.softReset kind).boot.soft = true ∧ (s.softReset kind).get GLB.STEP = 2 ∧
      (s.softReset kind).que = {} ∧ (s.softReset kind).buf = {} := by
  obtain ⟨x, frame, -, records⟩ := s.resetTo_startsAfresh true
  have shown := s.softReset_touches_resetTo kind
  have boot : (s.softReset kind).boot = x.boot := Eq.trans (shown.same .boot (by decide)) (frame.same .boot (by decide))
  refine ⟨?_, by rw [boot, records.boot], ?_, Eq.trans (shown.same .que (by decide)) (Eq.trans (frame.same .que (by decide)) records.que),
    Eq.trans (shown.same .buf (by decide)) (Eq.trans (frame.same .buf (by decide)) records.buf)⟩
  · rw [State.softReset_eq, State.get_set_of_ne _ _ _ _ _ _ _ _ (by decide), State.get_LAST_KIND_resetShown hk]
  · rw [State.softReset_eq, State.get_set_self]
    rfl

/-- A reset starts the host's interface afresh; a soft one keeps it, with its transfers ended. -/
theorem State.resetTo_host (s : State) (soft : Bool) : ∃ x : State, Touches [.regs, .core] x (s.resetTo soft) ∧
    x.host = if soft then { (s.resetStop soft).host with dma := [], low := [], stallSince := [], coalAt := [] } else {} := by
  unfold State.resetTo
  apply Exists.intro
  refine ⟨?_, ?_⟩
  · refine State.refreshRow_touches (State.when_touches (fun y h => State.setB_touches h ?_) (State.setB_touches
      (Touches.foldl (fun y b h => State.set_touches h ?_) (.refl _ (State.freshNonce _))) ?_)) ?_ ?_
    all_goals decide
  · rfl

/-- A soft reset keeps the MSI-X table. -/
theorem State.resetTo_msix (s : State) : (s.resetTo true).host.msix = s.host.msix := by
  obtain ⟨x, frame, host⟩ := s.resetTo_host true
  have kept : x.host.msix = (s.resetStop true).host.msix := by rw [host, if_pos rfl]
  exact (congrArg HostSt.msix (frame.same .host (by decide))).trans (kept.trans (s.resetStop_table true).msix)

theorem State.softReset_msix (s : State) (kind : Nat) : (s.softReset kind).host.msix = s.host.msix :=
  (congrArg HostSt.msix ((s.softReset_touches_resetTo kind).same .host (by decide))).trans s.resetTo_msix

theorem State.resetGoesOn_of_warm {s : State} (h : s.boot.cold = false) : s.resetGoesOn = s.resetReleased.moduleReset 1 := by
  unfold State.resetGoesOn
  rw [h]
  rfl

theorem State.resetRelease_shows {s : State} (hh : s.boot.held = true) (hc : s.boot.cold = false) :
    s.resetRelease.boot.held = false ∧ s.resetRelease.get GLB.LAST_KIND = 1 ∧ s.resetRelease.que = {} ∧
      s.resetRelease.buf = {} ∧ s.resetRelease.mil.fused = s.mil.fused ∧ s.resetRelease.mil.service = false := by
  have frame := State.resetRelease_touches_resetGoesOn hh
  have regs := State.resetRelease_writes_resetGoesOn hh
  rw [State.resetGoesOn_of_warm hc] at frame regs
  obtain ⟨kind, que, buf, -, fused, service⟩ := s.resetReleased.moduleReset_shows 1 (by decide)
  have mil : s.resetRelease.mil = (s.resetReleased.moduleReset 1).mil := frame.same .mil (by decide)
  refine ⟨?_, ?_, Eq.trans (frame.same .que (by decide)) que, Eq.trans (frame.same .buf (by decide)) buf, ?_, by rw [mil, service]⟩
  · rw [frame.same .boot (by decide)]
    exact State.held_moduleReset _ 1
  · rw [regs.get_eq (by decide) (by decide), kind]
  · rw [mil, fused, State.mil_resetReleased]

theorem State.resetCommand_of_wrongConfirm (s : State) (m f : Bool) {c : BitVec 16} (h : c ≠ 0xD124) :
    s.resetCommand m f c.toNat = s := by
  have wrong : (c.toNat != resetConfirm) = true :=
    bne_iff_ne.mpr fun e => h (BitVec.eq_of_toNat_eq e)
  unfold State.resetCommand
  rw [wrong]
  rfl

theorem State.autoReset_of_due {s : State} {t : Nat} (h : s.flt.autoResetAt = some t) (hd : t ≤ s.frc) :
    s.autoReset = s.moduleReset 2 := by
  unfold State.autoReset
  rw [h]
  exact if_pos hd

theorem exec_moduleReset {s : State} (c : BitVec 16) (h : s.regOpen GLB.MODULE_RESET.off = true) :
    exec (.moduleReset c) s = .next (s.resetCommand true false c.toNat) := by
  change execModuleReset c s = _
  rw [execModuleReset, viaHost_open h]

theorem exec_softReset {s : State} (c : BitVec 16) (h : s.regOpen GLB.SOFT_RESET.off = true) :
    exec (.softReset c) s = .next (s.resetCommand false true c.toNat) := by
  change execSoftReset c s = _
  rw [execSoftReset, viaHost_open h]

theorem State.resetCommand_soft {s : State} (h : s.boot.soft = false) : s.resetCommand false true 0xD124 = s.softReset 4 := by
  unfold State.resetCommand
  rw [h]
  rfl

/-- Settles O33: each reset leaves what its kind says. -/
theorem resetCommandsTakeEffect : Obligations.ResetCommandsTakeEffect := by
  unfold Obligations.ResetCommandsTakeEffect
  refine ⟨fun s addr low => ⟨_, rfl, s.powerOn_shows addr low⟩, fun s hp hh hr => ?_,
    fun s hh hc => ⟨_, rfl, State.resetRelease_shows hh hc⟩,
    fun s ho => ⟨s.moduleReset 3, exec_moduleReset _ ho, s.moduleReset_shows 3 (by decide)⟩, fun s c ho hc => ⟨?_, ?_⟩,
    fun s ho hs => ⟨s.softReset 4, ?_, ?_⟩, fun s t h hd => ?_⟩
  · obtain ⟨boot, accepted⟩ := s.resetAccepted_shows
    obtain ⟨held, pins⟩ := s.resetAccepted.heldInReset_keeps
    rw [boot] at held
    rw [← pins] at accepted
    exact ⟨_, congrArg Host.Outcome.next (State.resetAssert_of_running hp hh hr), held, accepted⟩
  · rw [exec_moduleReset c ho, s.resetCommand_of_wrongConfirm true false hc]
  · rw [exec_softReset c ho, s.resetCommand_of_wrongConfirm false true hc]
  · exact (exec_softReset _ ho).trans (congrArg Host.Outcome.next (State.resetCommand_soft hs))
  · obtain ⟨kind, soft, step, que, buf⟩ := s.softReset_shows 4 (by decide)
    exact ⟨kind, soft, step, que, buf, s.softReset_msix 4⟩
  · obtain ⟨kind, que, buf, -⟩ := s.moduleReset_shows 2 (by decide)
    exact ⟨_, congrArg Host.Outcome.next (State.autoReset_of_due h hd), kind, que, buf⟩

end Sys2Proof.Machine
end

section
/-!
Proofs of O34 and O35: pipe and port resets, the end of a full load, the input filters and power failure (R67, R368, R369, R433 to R438),
and the events of the host link (R317, R322, R323).
-/
namespace Sys2Proof.Machine
open Reg

/-! ### Requests for pipe and port resets (R435) -/

theorem State.resetRequest_of_running {s : State} (r : WaitReset) (hs : s.boot.soft = false) (hl : s.lcState ≠ lcRetired)
    (hr : s.get IMG.RUN_SRC ≠ 0) (hc : s.imgConfiguring = false) : s.resetRequest r = s.resetRun r := by
  unfold State.resetRequest
  rw [if_neg (by rw [hs]; exact Bool.false_ne_true), hc, if_neg (by simp [hl, hr]), if_neg Bool.false_ne_true]

/-- A request waits for a full load. -/
def State.resetWaits (s : State) (r : WaitReset) : State :=
  State.setB { s with boot := { s.boot with waiting := s.boot.waiting ++ [r] } } GLB.BUSY true

theorem State.resetRequest_of_configuring {s : State} (r : WaitReset) (hs : s.boot.soft = false) (hl : s.lcState ≠ lcRetired)
    (hc : s.imgConfiguring = true) : s.resetRequest r = s.resetWaits r := by
  unfold State.resetRequest
  rw [if_neg (by rw [hs]; exact Bool.false_ne_true), hc, if_neg (by simp [hl]), if_pos rfl]
  rfl

theorem State.pipeGo_of_pipe {s : State} {n : Nat} (h : n < 64) : s.pipeGo n = s.resetRequest (.pipe n) := by
  rw [State.pipeGo, decide_eq_true h, State.when_true]

theorem State.portGo_of_port {s : State} {n : Nat} (hs : s.boot.soft = false) (hp : s.isPort n = true) (hl : s.lcState ≠ lcRetired)
    (hr : s.get IMG.RUN_SRC ≠ 0) : s.portGo n = s.resetRequest (.port n) := by
  unfold State.portGo
  rw [if_neg (by rw [hs]; exact Bool.false_ne_true), if_neg (by simp [hl, hr]), hp, State.when_true]

/-- TARGET shows the pipe or port that is named. -/
abbrev State.targeted (s : State) (n : Nat) : State := s.set GLB.TARGET n

theorem State.get_RUN_SRC_targeted (s : State) (n : Nat) : (s.targeted n).get IMG.RUN_SRC = s.get IMG.RUN_SRC :=
  State.get_set_of_ne _ _ _ _ _ _ _ _ (by decide)

/-! ### The end of a full load (R67) -/

/-- The command in progress ends, whether or not it reports. -/
theorem State.img_imgEnd {s : State} {c : ImgCmd} (f : VFail) (h : s.img.cmd = some c) :
    (s.imgEnd f).img = { s.img with cmd := none } := by
  unfold State.imgEnd
  rw [h]
  dsimp only
  split
  · rfl
  · exact (State.event_touches (ps := [.regs, .outbox, .flt, .host]) (State.set_touches (State.imgShow_touches (.refl _ _) (by decide)
      (by decide)) (by decide)) (by decide) (by decide) (by decide)).same .img (by decide)

theorem State.imgShow_frame (s : State) (f : VFail) : Touches [.regs, .flt] s (s.imgShow f) :=
  State.imgShow_touches (.refl _ s) (by decide) (by decide)

/-- What a full load does before its command ends. -/
def State.loadApplied (s : State) (c : ImgCmd) : State :=
  let s := (s.setB IMG.READY true).set IMG.CONFIG_US (satTo 0xFFFF ((s.frc - c.at_) / (10 * ticksPerUs)))
  let s := s.img.frozen.foldl (fun s p => if s.linkOk p then s else s.putLink p { s.linkRec p with okAt := s.frc }) s
  let s := { s with img := { s.img with frozen := [] }, core := { s.core with idle := false } }
  let s := State.phasesApply (State.timingApply s)
  s.when (s.get GLB.STEP == 7) (fun s => s.set GLB.STEP 8)

/-- The command of a full load ends. -/
def State.loadEnded (s : State) (op : Nat) : State :=
  if op = 0 then (s.imgEnd { code := resOk }).imgShow { code := resOk } else s.imgEnd { code := resOk }

/-- Ports start, and what waited runs. -/
def State.loadStarts (s : State) (kept : List Nat) : State :=
  let s := kept.foldl (fun s p => s.portSettle p) (upTo 2 (fun k s => s.synceUpdate k false) s)
  let s := s.allLines
  (s.portList.foldl (fun s p => s.portStart p) s).resetWaiting

theorem State.loadReady_eq (s : State) (c : ImgCmd) :
    s.loadReady c = ((s.loadApplied c).loadEnded c.op).loadStarts
      ((s.setB IMG.READY true).set IMG.CONFIG_US (satTo 0xFFFF ((s.frc - c.at_) / (10 * ticksPerUs)))).img.frozen := rfl

theorem State.img_loadApplied (s : State) (c : ImgCmd) : (s.loadApplied c).img = { s.img with frozen := [] } := by
  have applied : ∀ y : State, (State.phasesApply (State.timingApply y)).img = y.img := fun y =>
    (State.phasesApply_touches (ps := allBut [.img]) (State.timingApply_touches (.refl _ y) (by decide) (by decide) (by decide)
      (by decide) (by decide)) (by decide) (by decide) (by decide) (by decide) (by decide)).same .img (by decide)
  have noted : ∀ (y : State) (l : List Nat),
      (l.foldl (fun s p => if s.linkOk p then s else s.putLink p { s.linkRec p with okAt := s.frc }) y).img = y.img := fun y l => by
    refine foldl_keeps (fun z : State => z.img = y.img) _ (fun z p hz => ?_) l y rfl
    dsimp only
    split
    · exact hz
    · exact hz
  unfold State.loadApplied
  extract_lets x y img core z u
  have shown : x.img = s.img := rfl
  have kept : y.img = s.img := (noted x _).trans shown
  have thawed : z.img = { y.img with frozen := [] } := rfl
  have done : u.img = { s.img with frozen := [] } := by rw [← kept, ← thawed, ← applied z]
  clear_value u
  exact State.when_cases (P := fun v => v.img = { s.img with frozen := [] }) u _ _ done fun _ => done

theorem State.img_loadEnded {s : State} {c : ImgCmd} (op : Nat) (h : s.img.cmd = some c) :
    (s.loadEnded op).img = { s.img with cmd := none } := by
  unfold State.loadEnded
  split
  · exact Eq.trans ((State.imgShow_frame _ _).same .img (by decide)) (State.img_imgEnd _ h)
  · exact State.img_imgEnd _ h

theorem State.loadStarts_frame (s : State) (kept : List Nat) :
    Touches (allBut [.img]) s (s.loadStarts kept) := by
  unfold State.loadStarts
  refine State.resetWaiting_touches (Touches.foldl (fun y p h => State.portStart_touches h ?_ ?_ ?_ ?_ ?_ ?_ ?_ ?_ ?_ ?_)
    (State.allLines_touches (Touches.foldl (fun y p h => State.portSettle_touches h ?_ ?_ ?_ ?_ ?_ ?_ ?_ ?_ ?_ ?_)
      (Touches.upTo (fun k y h => State.synceUpdate_touches h ?_ ?_) (.refl _ s))) ?_ ?_)) ?_ ?_ ?_ ?_ ?_ ?_ ?_ ?_ ?_ ?_ ?_
  all_goals decide

/-- The requests that waited run once, and none waits then. -/
theorem State.waiting_resetWaiting (s : State) : s.resetWaiting.boot.waiting = [] := by
  have run : ∀ (y : State) (l : List WaitReset), (l.foldl (fun s r => s.resetRun r) y).boot = y.boot := fun y l => by
    refine (Touches.foldl (ps := allBut [.boot]) (fun z r h => State.resetRun_touches h ?_ ?_ ?_ ?_ ?_ ?_ ?_ ?_ ?_ ?_)
      (.refl _ y)).same .boot ?_
    all_goals decide
  rw [State.resetWaiting, State.setB, State.set_boot, run]

theorem State.fullLoadReady_shows {s : State} {c : ImgCmd} (h : s.img.cmd = some c) :
    (s.loadReady c).img = { s.img with cmd := none, frozen := [] } ∧ (s.loadReady c).boot.waiting = [] := by
  have applied := s.img_loadApplied c
  have cmd : (s.loadApplied c).img.cmd = some c := by rw [applied, h]
  rw [State.loadReady_eq]
  refine ⟨?_, State.waiting_resetWaiting _⟩
  rw [(State.loadStarts_frame _ _).same .img (by decide), State.img_loadEnded _ cmd, applied]

theorem exec_fullLoadReady {s : State} {c : ImgCmd} (h : s.img.cmd = some c) (hp : c.phase = .configuring) (hl : s.live = true) :
    exec .fullLoadReady s = .next (s.loadReady c) := by
  change execFullLoadReady s = _
  unfold execFullLoadReady
  rw [h]
  dsimp only
  rw [hp, hl]
  rfl

/-! ### Input filters (R436, R437) -/

/-- An input is stuck, with its event. -/
def State.pinStuck (s : State) (pin : Nat) : State :=
  ((s.setB GLB.PIN_LEVEL true pin).setB GLB.PIN_STUCK true pin).event GLB.PIN_STUCK_EVT pin true sumPin

theorem stuckSource_of_pulse {pin : Nat} (h : 2 ≤ pin) : stuckSource pin = some (if pin = 2 then srcPpsStuck else srcTrigStuck) := by
  unfold stuckSource
  rw [if_neg (by omega), if_neg (by omega)]
  split <;> rfl

theorem State.inputStuck_of_long {s : State} {pin : Nat} (h : 2 ≤ pin) (hs : s.flag GLB.PIN_STUCK pin = false)
    (hl : s.activeLong pin = true) :
    s.inputStuck pin = (s.pinStuck pin).fault (if pin = 2 then srcPpsStuck else srcTrigStuck) := by
  have other : (pin == 1) = false := beq_eq_false_iff_ne.mpr (by omega)
  unfold State.inputStuck
  rw [hs, hl, other, stuckSource_of_pulse h]
  rfl

theorem State.pinStuck_shows (s : State) {pin : Nat} (h : pin < 5) :
    (s.pinStuck pin).flag GLB.PIN_STUCK pin = true ∧ (s.pinStuck pin).flag GLB.PIN_STUCK_EVT pin = true ∧
      (s.pinStuck pin).flag GLB.PIN_LEVEL pin = true ∧ (s.pinStuck pin).flt = s.flt := by
  have inst : ∀ n, n = 5 → pin < n := fun n hn => hn ▸ h
  have event : Writes [4883, 4907] ((s.setB GLB.PIN_LEVEL true pin).setB GLB.PIN_STUCK true pin) (s.pinStuck pin) :=
    State.event_writes ⟨4883, by decide, rfl⟩ (.refl _ _) (by decide)
  refine ⟨?_, ?_, ?_, ?_⟩
  · rw [event.flag_eq (by decide) ⟨inst _ rfl, by decide⟩, State.flag_setB_self _ _ _ _ _ (by decide)]
  · exact State.flag_event_self (by decide) (Fld.key_ne_of_apart (by decide) ⟨inst _ rfl, by decide⟩)
  · rw [event.flag_eq (by decide) ⟨inst _ rfl, by decide⟩]
    refine (congrArg (· != 0) (State.get_set_of_apart (by decide) ⟨inst _ rfl, by decide⟩)).trans ?_
    exact State.flag_setB_self s GLB.PIN_LEVEL true pin 0 (by decide)
  · exact (State.event_touches (ps := [.regs, .outbox, .host]) (.refl _ _) (by decide) (by decide) (by decide)).same .flt (by decide)

theorem State.inputUnstuck_shows (s : State) {pin : Nat} (h : pin < 5) (h0 : pin ≠ 0) :
    (s.inputUnstuck pin).flag GLB.PIN_STUCK pin = false ∧ (s.inputUnstuck pin).flag GLB.PIN_LEVEL pin = false ∧
      tabGet 0 (s.inputUnstuck pin).pins.releasedAt pin = s.frc + 1 := by
  have inst : ∀ n, n = 5 → pin < n := fun n hn => hn ▸ h
  unfold State.inputUnstuck
  rw [if_neg h0]
  refine ⟨State.flag_setB_self _ GLB.PIN_STUCK false pin 0 (by decide), ?_, tabGet_tabPut_self _ _ _ _⟩
  refine (congrArg (· != 0) (State.get_set_of_apart (by decide) ⟨inst _ rfl, by decide⟩)).trans ?_
  exact State.flag_setB_self _ GLB.PIN_LEVEL false pin 0 (by decide)

/-! ### Power failure (R368, R387) -/

theorem State.flag_setB_of_ne {s : State} {f g : Fld} {v : Bool} {i j k l : Nat} (h : g.key k l ≠ f.key i j) :
    (s.setB f v i j).flag g k l = s.flag g k l := State.flag_set_of_ne s f g _ i j k l h

theorem State.opTarget_of_pfail {s : State} (h : s.flag PWR.PFAIL = true) : s.opTarget = 0 := by
  rw [State.opTarget, if_pos h]

theorem State.retarget_of_pfail {s : State} (h : s.flag PWR.PFAIL = true) : s.retarget.get CORE.TGT_OP = 0 := by
  rw [State.get_TGT_OP_retarget, State.opTarget_of_pfail h]

theorem State.assayIdled_event (s : State) : Writes [4612, 4613, 4615, 4616, 4907] s
    ((State.set { s with assay := { s.assay with running := false, left := [], hold := false } } ASY.STATE 3).event ASY.DONE 0 true
      sumAssay) :=
  ⟨(State.event_writes (F := [4612, 4613, 4615, 4616, 4907]) ⟨4615, by decide, rfl⟩ (State.set_writes ⟨4612, by decide, rfl⟩
    (.refl _ { s with assay := { s.assay with running := false, left := [], hold := false } })) (by decide)).only⟩

/-- The end of Assay, if it runs, leaves the target of a power failure. -/
theorem State.assayStop_of_pfail {s : State} (reason : Nat) (h : s.flag PWR.PFAIL = true) (ht : s.get CORE.TGT_OP = 0) :
    (s.assayStop reason).get CORE.TGT_OP = 0 := by
  unfold State.assayStop
  split
  · refine State.retarget_of_pfail ?_
    rw [State.flag_setB_of_ne (by decide)]
    have refused : Writes [4612, 4613, 4615, 4616, 4907] s ((s.setB ASY.ABORTED true).set ASY.REFUSAL reason) :=
      State.set_writes ⟨4613, by decide, rfl⟩ (State.setB_writes ⟨4616, by decide, rfl⟩ (.refl _ s))
    generalize (s.setB ASY.ABORTED true).set ASY.REFUSAL reason = y at refused ⊢
    exact (refused.trans (y.assayIdled_event)).flag_eq (by decide) (by decide) |>.trans h
  · exact ht

/-- Disabled rings: none of the first `k` is enabled. -/
theorem State.ringsStop_shows (s : State) {n : Nat} (hn : n < 88) : s.ringsStop.flag HOST.R_EN n = false := by
  refine upTo_induct (P := fun k (y : State) => ∀ m, m < k → m < 88 → y.flag HOST.R_EN m = false)
    (fun m hm => absurd hm (Nat.not_lt_zero m)) (fun k y hk ih m hm h88 => ?_) n hn hn
  obtain rfl | hne := eq_or_ne m k
  · exact State.flag_setB_self y HOST.R_EN false m 0 (by decide)
  · refine (State.flag_setB_of_ne (Fld.key_inj (by decide) h88 hk hne)).trans (ih m (by omega) h88)

/-- PFAIL stands, with the hours that have not been counted. -/
def State.pfailSet (s : State) : State := State.setB { s with pwr := { s.pwr with hoursBank := s.hoursTime } } PWR.PFAIL true

/-- Rings, transfers, a store command and ports have stopped. -/
def State.pfailStopped (s : State) : State := (((s.ringsStop).dmaLinkEnd true).imgStoreAbort).allPortsDisabled

/-- The commit begins. -/
def State.pfailCommits (s : State) : State :=
  State.setB { s with anvil := { s.anvil with frame := none, traps := 0, waitAt := [], starved := [] } } ANVL.PFAIL_COMMIT true

theorem State.pfailCommits_writes (s : State) : Writes [3845] s s.pfailCommits :=
  ⟨(State.setB_writes (F := [3845]) ⟨3845, by decide, rfl⟩
    (.refl _ { s with anvil := { s.anvil with frame := none, traps := 0, waitAt := [], starved := [] } })).only⟩

/-- Anvil's commit of hours and records. -/
def State.pfailRecorded (s : State) (f : Fetch) (ok : Bool) : State :=
  s.anvilOwn f (fun s => ((s.hoursCommit ok).migrationAbandon).pfailRecords ok)

theorem State.powerFail_eq (s : State) (f : Fetch) (ok : Bool) :
    s.powerFail f ok = ((s.pfailSet.pfailStopped.retarget.assayStop 5).pfailCommits).pfailRecorded f ok := by
  unfold State.powerFail
  extract_lets pwr x set halted aimed stopped anvil y commits
  have hset : set = s.pfailSet := rfl
  clear_value set
  have haimed : aimed = set.pfailStopped.retarget := rfl
  have hstopped : stopped = aimed.assayStop 5 := rfl
  clear_value aimed stopped
  have hcommits : commits = stopped.pfailCommits := rfl
  clear_value commits
  rw [← hset, ← haimed, ← hstopped, ← hcommits]
  rfl

abbrev recordPlaces : List Nat := [2340, 3844, 3846, 3847, 3848, 3849, 3851, 3852, 3853, 3854, 3855, 3856, 3858, 3868]

theorem State.pfailRecorded_writes (s : State) (f : Fetch) (ok : Bool) : Writes recordPlaces s (s.pfailRecorded f ok) :=
  State.anvilOwn_writes (fun _ h => State.pfailRecords_writes (State.migrationAbandon_writes (State.hoursCommit_writes h (by decide))
    (by decide)) (by decide)) (.refl _ s) (by decide)

abbrev stoppedPlaces : List Nat := [256, 265, 266, 267, 268, 270, 283, 520, 521, 522, 523, 540, 775, 776, 784, 785, 788, 819, 823, 2323,
  2325, 2331, 2332, 2333, 2334, 2360, 2362, 2363, 2364, 2365, 2569, 2584, 2586, 3076, 3083, 3084, 3085, 3104, 3110, 3113, 3114, 3123,
  3125, 3368, 3369, 3370, 3376, 4907]

/-- What stops after the rings leaves them, and PFAIL, as they are. -/
theorem State.pfailStopped_writes (s : State) : Writes stoppedPlaces s.ringsStop s.pfailStopped :=
  State.allPortsDisabled_writes (State.imgStoreAbort_writes (State.dmaLinkEnd_writes (.refl _ s.ringsStop) (by decide)) (by decide))
    (by decide)

abbrev targetPlaces : List Nat := [1, 2, 258, 3585, 3601, 4612, 4613, 4615, 4616, 4907]

theorem State.assayStop_writesOwn (s : State) (reason : Nat) : Writes targetPlaces s (s.assayStop reason) :=
  State.assayStop_writes (.refl _ s) (by decide)

theorem State.retarget_writesOwn (s : State) : Writes targetPlaces s s.retarget := State.retarget_writes (.refl _ s) (by decide)

/-- What the sequence of a power failure leaves once everything has stopped. -/
theorem State.pfail_shows {s : State} (h : s.flag PWR.PFAIL = true) (f : Fetch) (ok : Bool) :
    (((s.pfailStopped.retarget.assayStop 5).pfailCommits).pfailRecorded f ok).flag PWR.PFAIL = true ∧
      (((s.pfailStopped.retarget.assayStop 5).pfailCommits).pfailRecorded f ok).flag ANVL.PFAIL_COMMIT = true ∧
      (((s.pfailStopped.retarget.assayStop 5).pfailCommits).pfailRecorded f ok).get CORE.TGT_OP = 0 ∧
      ∀ n, n < 88 → (((s.pfailStopped.retarget.assayStop 5).pfailCommits).pfailRecorded f ok).flag HOST.R_EN n = false := by
  have rings : Writes [3339] s s.ringsStop := State.ringsStop_writes (.refl _ s) (by decide)
  have stopped := s.pfailStopped_writes
  have target := s.pfailStopped.retarget_writesOwn
  have assay := s.pfailStopped.retarget.assayStop_writesOwn 5
  have commits := (s.pfailStopped.retarget.assayStop 5).pfailCommits_writes
  have recorded := (s.pfailStopped.retarget.assayStop 5).pfailCommits.pfailRecorded_writes f ok
  have failsStopped : s.pfailStopped.flag PWR.PFAIL = true :=
    (stopped.flag_eq (by decide) (by decide)).trans ((rings.flag_eq (by decide) (by decide)).trans h)
  have failsTarget : s.pfailStopped.retarget.flag PWR.PFAIL = true := (target.flag_eq (by decide) (by decide)).trans failsStopped
  refine ⟨?_, ?_, ?_, fun n hn => ?_⟩
  · rw [recorded.flag_eq (by decide) (by decide), commits.flag_eq (by decide) (by decide), assay.flag_eq (by decide) (by decide)]
    exact failsTarget
  · rw [recorded.flag_eq (by decide) (by decide)]
    exact State.flag_setB_self _ ANVL.PFAIL_COMMIT true 0 0 (by decide)
  · rw [recorded.get_eq (by decide) (by decide), commits.get_eq (by decide) (by decide)]
    exact State.assayStop_of_pfail 5 failsTarget (State.retarget_of_pfail failsStopped)
  · rw [recorded.flag_eq (by decide) ⟨hn, by decide⟩, commits.flag_eq (by decide) ⟨hn, by decide⟩,
      assay.flag_eq (by decide) ⟨hn, by decide⟩, target.flag_eq (by decide) ⟨hn, by decide⟩, stopped.flag_eq (by decide) ⟨hn, by decide⟩]
    exact s.ringsStop_shows hn

theorem State.powerFail_shows (s : State) (f : Fetch) (ok : Bool) :
    (s.powerFail f ok).flag PWR.PFAIL = true ∧ (s.powerFail f ok).flag ANVL.PFAIL_COMMIT = true ∧
      (s.powerFail f ok).flag GLB.PIN_LEVEL 1 = s.flag GLB.PIN_LEVEL 1 ∧ (s.powerFail f ok).get CORE.TGT_OP = 0 ∧
      ∀ n, n < 88 → (s.powerFail f ok).flag HOST.R_EN n = false := by
  have level : (s.powerFail f ok).flag GLB.PIN_LEVEL 1 = s.flag GLB.PIN_LEVEL 1 :=
    (State.powerFail_writes (.refl _ s) (List.Subset.refl _)).flag_eq (by decide) (by decide)
  have set : s.pfailSet.flag PWR.PFAIL = true := State.flag_setB_self _ PWR.PFAIL true 0 0 (by decide)
  obtain ⟨fails, commits, target, rings⟩ := State.pfail_shows set f ok
  rw [← State.powerFail_eq] at fails commits target rings
  exact ⟨fails, commits, level, target, rings⟩

/-- The pin's assertion is accepted. -/
def State.warnNoted (s : State) : State := { s with pins := { s.pins with acceptedAt := tabPut s.pins.acceptedAt 1 (s.frc + 1) } }
def State.warnAccepted (s : State) : State := (s.setB GLB.PIN_LEVEL true 1).warnNoted

theorem State.flag_PFAIL_pinLevel (s : State) : (s.setB GLB.PIN_LEVEL true 1).flag PWR.PFAIL = s.flag PWR.PFAIL :=
  State.flag_setB_of_ne (by decide)

theorem State.powerFailEvent_first {s : State} (f : Fetch) (ok : Bool) (hf : s.flag PWR.PFAIL = false) (hp : s.boot.powered = true)
    (hs : s.flag GLB.PIN_STUCK 1 = false) (hr : tabGet 0 s.pins.releasedAt 1 = 0) :
    s.powerFailEvent true f ok = s.warnAccepted.powerFail f ok := by
  have level := s.flag_PFAIL_pinLevel
  rw [hf] at level
  unfold State.powerFailEvent
  dsimp only
  rw [hp, hs, hr, level, if_neg (by simp), if_pos rfl, if_neg (by simp), if_neg (by simp), if_neg (by simp), State.warnAccepted]
  rfl

theorem State.powerFailEvent_again {s : State} (f : Fetch) (ok : Bool) (hf : s.flag PWR.PFAIL = true) (hp : s.boot.powered = true)
    (hs : s.flag GLB.PIN_STUCK 1 = false) : s.powerFailEvent true f ok = s.setB GLB.PIN_LEVEL true 1 := by
  have level := s.flag_PFAIL_pinLevel
  rw [hf] at level
  unfold State.powerFailEvent
  dsimp only
  rw [hp, hs, level]
  rfl

theorem State.powerRecovery_of_good {s : State} {t : Nat} (hf : s.flag PWR.PFAIL = true) (hl : s.flag GLB.PIN_LEVEL 1 = false)
    (hg : s.pwr.goodSince = some t) (hd : t + 12500000 ≤ s.frc) : s.powerRecovery = s.softReset 5 := by
  unfold State.powerRecovery
  rw [hf, hl, hg]
  dsimp only
  rw [s.elapsed_of_le (n := 10 * ticksPerMs) hd]
  rfl

/-- Settles O34: requests, the end of a full load, inputs and a power failure each do what their rule says. -/
theorem startupCommandsTakeEffect : Obligations.StartupCommandsTakeEffect := by
  unfold Obligations.StartupCommandsTakeEffect
  refine ⟨fun s n ho hs hn hl hr hc => ?_, fun s n ho hs hp hl hr hc => ?_, fun s n ho hs hn hl hc => ?_,
    fun s c h hp hl => ⟨s.loadReady c, exec_fullLoadReady h hp hl, State.fullLoadReady_shows h⟩, fun s pin hp => ⟨?_, ?_⟩,
    fun s pin h2 hs hl => ⟨_, congrArg Host.Outcome.next (State.inputStuck_of_long h2 hs hl), ?_⟩,
    fun s pin h0 => ⟨_, rfl, s.inputUnstuck_shows pin.isLt fun h => h0 (Fin.ext h)⟩,
    fun s f ok hf hp hs hr => ⟨_, congrArg Host.Outcome.next (State.powerFailEvent_first f ok hf hp hs hr), ?_⟩,
    fun s f ok hf hp hs => congrArg Host.Outcome.next (State.powerFailEvent_again f ok hf hp hs), fun s hf => ?_,
    fun s t hf hl hg hd => ⟨_, congrArg Host.Outcome.next (State.powerRecovery_of_good hf hl hg hd), ?_⟩⟩
  · refine (next_viaHost (f := GLB.PIPE_GO) ho).trans (congrArg Host.Outcome.next ?_)
    rw [State.pipeGo_of_pipe hn, State.resetRequest_of_running _ (s := s.targeted n.toNat) hs hl
      (by rw [State.get_RUN_SRC_targeted]; exact hr) hc]
    rfl
  · have source : (s.targeted n.toNat).get IMG.RUN_SRC ≠ 0 := by rw [State.get_RUN_SRC_targeted]; exact hr
    refine (next_viaHost (f := GLB.PORT_GO) ho).trans (congrArg Host.Outcome.next ?_)
    rw [State.portGo_of_port (s := s.targeted n.toNat) hs hp hl source,
      State.resetRequest_of_running _ (s := s.targeted n.toNat) hs hl source hc]
    rfl
  · refine ⟨(s.targeted n.toNat).resetWaits (.pipe n.toNat),
      (next_viaHost (f := GLB.PIPE_GO) ho).trans (congrArg Host.Outcome.next ?_), rfl,
      State.flag_setB_self _ GLB.BUSY true 0 0 (by decide)⟩
    rw [State.pipeGo_of_pipe hn, State.resetRequest_of_configuring _ (s := s.targeted n.toNat) hs hl hc]
  · refine congrArg Host.Outcome.next ?_
    rw [hp, State.when_true]
    rfl
  · refine congrArg Host.Outcome.next ?_
    rw [hp, State.when_true]
    rfl
  · obtain ⟨stuck, event, level, flt⟩ := s.pinStuck_shows pin.isLt
    exact ⟨stuck, event, level, State.flt_fault_congr flt⟩
  · obtain ⟨fails, commits, level, target, rings⟩ := s.warnAccepted.powerFail_shows f ok
    refine ⟨fails, commits, level.trans ?_, target, rings⟩
    exact State.flag_setB_self s GLB.PIN_LEVEL true 1 0 (by decide)
  · refine congrArg Host.Outcome.next ?_
    rw [hf, State.when_true]
  · obtain ⟨kind, soft, step, -, -⟩ := s.softReset_shows 5 (by decide)
    exact ⟨kind, soft, step⟩

/-! ### The host link (R317, R322, R323) -/

/-- The function is out of the link. -/
def State.linkOff (s : State) : State := (((s.setB HOST.LINK_UP false).setB HOST.BUS_MASTER false).setB HOST.D3HOT false).linkEvent

/-- Configuration space and the MSI-X table are back at their reset values. -/
def State.tableReset (s : State) : State :=
  { s with host := { s.host with msix := [], pba := 0, funcMask := false, cfg := [], coalAt := [] } }

theorem State.tableReset_host (s : State) : s.tableReset.host.msix = [] ∧ s.tableReset.host.coalAt = [] ∧
    s.tableReset.host.cfg = [] ∧ s.tableReset.host.funcMask = false := ⟨rfl, rfl, rfl, rfl⟩

theorem State.flag_tableReset (s : State) (g : Fld) : s.tableReset.flag g = s.flag g := rfl

theorem State.pcieDown_eq (s : State) : s.pcieDown = s.linkOff.tableReset.hostEvent HOST.LINK_DOWN_EVT := by
  unfold State.pcieDown
  extract_lets x host
  have off : x = s.linkOff := rfl
  clear_value x
  rw [← off]
  rfl

theorem State.linkEvent_writesOwn (s : State) :
    Writes [256, 265, 266, 267, 268, 270, 3368, 3369, 3370, 3376, 4907] s s.linkEvent :=
  State.linkEvent_writes (.refl _ s) (List.Subset.refl _)

theorem State.linkOff_shows (s : State) : s.linkOff.flag HOST.LINK_UP = false ∧ s.linkOff.flag HOST.BUS_MASTER = false ∧
    s.linkOff.flag HOST.D3HOT = false := by
  have w := (((s.setB HOST.LINK_UP false).setB HOST.BUS_MASTER false).setB HOST.D3HOT false).linkEvent_writesOwn
  refine ⟨(w.flag_eq (by decide) (by decide)).trans ?_, (w.flag_eq (by decide) (by decide)).trans ?_,
    (w.flag_eq (by decide) (by decide)).trans ?_⟩
  · rw [State.flag_setB_of_ne (by decide), State.flag_setB_of_ne (by decide),
      State.flag_setB_self _ _ _ _ _ (by decide)]
  · rw [State.flag_setB_of_ne (by decide), State.flag_setB_self _ _ _ _ _ (by decide)]
  · rw [State.flag_setB_self _ _ _ _ _ (by decide)]

theorem State.pcieDown_shows (s : State) : s.pcieDown.flag HOST.LINK_UP = false ∧ s.pcieDown.flag HOST.BUS_MASTER = false ∧
    s.pcieDown.flag HOST.D3HOT = false ∧ s.pcieDown.flag HOST.LINK_DOWN_EVT = true ∧ s.pcieDown.host.msix = [] ∧
    s.pcieDown.host.coalAt = [] ∧ s.pcieDown.host.cfg = [] ∧ s.pcieDown.host.funcMask = false := by
  obtain ⟨up, master, d3⟩ := s.linkOff_shows
  rw [← State.flag_tableReset] at up master d3
  have event : Writes [3333, 4907] s.linkOff.tableReset (s.linkOff.tableReset.hostEvent HOST.LINK_DOWN_EVT) :=
    State.hostEvent_writes ⟨3333, by decide, rfl⟩ (.refl _ _) (by decide)
  have table : SameTable s.linkOff.tableReset _ := State.hostEvent_table (f := HOST.LINK_DOWN_EVT) (.refl _)
  obtain ⟨msix, coalAt, cfg, funcMask⟩ := s.linkOff.tableReset_host
  rw [State.pcieDown_eq]
  exact ⟨(event.flag_eq (by decide) (by decide)).trans up, (event.flag_eq (by decide) (by decide)).trans master,
    (event.flag_eq (by decide) (by decide)).trans d3, State.flag_event_self (by decide) (by decide), table.msix.trans msix,
    table.coalAt.trans coalAt, table.cfg.trans cfg, table.funcMask.trans funcMask⟩

theorem State.msixReleaseAll_frame (s : State) : Touches [.outbox, .host] s s.msixReleaseAll :=
  State.msixReleaseAll_touches (.refl _ s) (by decide) (by decide)

/-- The vector is not masked any more. -/
def State.vectorUnmasked (s : State) (v : Nat) : State := { s with host := { s.host with msix := tabPut s.host.msix (4 * v + 3) 0 } }

theorem State.msixWord_vectorUnmasked (s : State) (v : Nat) {w : Nat} (h : w < 3) :
    (s.vectorUnmasked v).msixWord v w = s.msixWord v w := tabGet_tabPut_of_ne _ _ _ _ _ (by omega)

theorem State.msixMasked_vectorUnmasked {s : State} (v : Nat) (h : s.host.funcMask = false) :
    (s.vectorUnmasked v).msixMasked v = false := by
  have word : (s.vectorUnmasked v).msixWord v 3 = 0 := tabGet_tabPut_self _ _ _ _
  have mask : (s.vectorUnmasked v).host.funcMask = false := h
  rw [State.msixMasked, mask, word]
  rfl

/-- The held message of a vector goes out. -/
theorem State.msixRelease_of_held {s : State} {v : Nat} (hb : bit s.host.pba v = true) (ho : s.msixOpen = true)
    (hm : s.msixMasked v = false) :
    s.msixRelease v = State.msixEmit { s with host := { s.host with pba := bitClear s.host.pba v } } v := by
  unfold State.msixRelease
  rw [hb, ho, hm]
  rfl

theorem State.msixUnmask_shows {s : State} {v : Nat} (ho : s.msixOpen = true) (hf : s.host.funcMask = false)
    (hb : bit s.host.pba v = true) :
    bit ((s.vectorUnmasked v).msixRelease v).host.pba v = false ∧ ((s.vectorUnmasked v).msixRelease v).msixMasked v = false ∧
      ((s.vectorUnmasked v).msixRelease v).outbox =
        s.outbox ++ [.msix v (s.msixWord v 0 + 2 ^ 32 * s.msixWord v 1) (s.msixWord v 2)] := by
  have masked := State.msixMasked_vectorUnmasked v hf
  rw [State.msixRelease_of_held (s := s.vectorUnmasked v) hb ho masked]
  refine ⟨(bit_bitClear _ _ _).trans (by simp), masked, ?_⟩
  rw [← s.msixWord_vectorUnmasked v (w := 0) (by decide), ← s.msixWord_vectorUnmasked v (w := 1) (by decide),
    ← s.msixWord_vectorUnmasked v (w := 2) (by decide)]
  rfl

/-- What a command of the live module does. -/
theorem next_live {s : State} {f : State → State} (h : s.live = true) : (.next (s.when s.live f) : Result) = .next (f s) := by
  rw [h, State.when_true]

/-- Settles O35: an event of the link shows, and ends what it ends; an unmasked vector sends its message once. -/
theorem hostLinkEventsTakeEffect : Obligations.HostLinkEventsTakeEffect := by
  unfold Obligations.HostLinkEventsTakeEffect
  refine ⟨fun s h => ⟨_, next_live h, s.pcieDown_shows⟩, fun s speed width h => ⟨_, next_live h, ?_, ?_, ?_⟩,
    fun s h => ⟨_, next_live h, ?_⟩, fun s h => ⟨_, next_live h, ?_⟩, fun s h => ⟨_, next_live h, ?_, ?_⟩,
    fun s v h ho hf hb => ⟨_, next_live h, State.msixUnmask_shows ho hf hb⟩⟩
  · rw [State.setB, State.get_set_of_ne _ _ _ _ _ _ _ _ (by decide), State.get_set_of_ne _ _ _ _ _ _ _ _ (by decide),
      State.get_set_self]
    exact Nat.mod_eq_of_lt speed.isLt
  · rw [State.setB, State.get_set_of_ne _ _ _ _ _ _ _ _ (by decide), State.get_set_self]
    exact Nat.mod_eq_of_lt width.isLt
  · exact State.flag_setB_self _ HOST.LINK_UP true 0 0 (by decide)
  · exact ((State.linkEvent_writesOwn _).flag_eq (by decide) (by decide)).trans
      (State.flag_setB_self s HOST.BUS_MASTER false 0 0 (by decide))
  · exact ((State.linkEvent_writesOwn _).flag_eq (by decide) (by decide)).trans
      (State.flag_setB_self s HOST.D3HOT true 0 0 (by decide))
  · have regs := ((s.setB HOST.BUS_MASTER true).setB HOST.D3HOT false).msixReleaseAll_frame.same .regs (by decide)
    rw [State.flag, State.get, regs]
    refine (State.flag_setB_of_ne (s := s.setB HOST.BUS_MASTER true) (f := HOST.D3HOT) (g := HOST.BUS_MASTER) (by decide)).trans ?_
    exact State.flag_setB_self s HOST.BUS_MASTER true 0 0 (by decide)
  · have regs := ((s.setB HOST.BUS_MASTER true).setB HOST.D3HOT false).msixReleaseAll_frame.same .regs (by decide)
    rw [State.flag, State.get, regs]
    exact State.flag_setB_self _ HOST.D3HOT false 0 0 (by decide)

end Sys2Proof.Machine
end

section
/-!
Proofs of O40 (R419, R421 to R424): JTAG's instructions, and how Assay starts, counts, repairs and ends.
-/
namespace Sys2Proof.Machine
open Reg

/-! ### JTAG (R419) -/

theorem State.jtagIr_of_offered {s : State} {f : State → State} (h : s.boot.powered = true) : s.jtagIr true f = f s := by
  rw [State.jtagIr, h, State.when_true, if_pos rfl]

theorem bne_lc {a b : Nat} (h : a ≠ b) : (a != b) = true := bne_iff_ne.mpr h

theorem State.moduleSafe_frame (s : State) : Touches [.regs, .draws, .outbox, .flt, .act, .host, .buf, .pipe, .que, .tele] s s.moduleSafe :=
  State.moduleSafe_touches (.refl _ s) (by decide) (by decide) (by decide) (by decide) (by decide) (by decide) (by decide) (by decide)
    (by decide) (by decide)

/-- EXTEST outside MANUFACTURE: safe state, with its fault. -/
def State.extestSafe (s : State) : State := (s.jtagLoad .extest).moduleSafe.fault srcExtest

theorem State.extestSafe_shows (s : State) : s.extestSafe.pins.jtag = .extest ∧
    ∃ l, s.extestSafe.flt.reported = l ++ [{ src := srcExtest, index := 0, detail := 0 }] := by
  have pins := (s.jtagLoad .extest).moduleSafe_frame.same .pins (by decide)
  unfold State.extestSafe
  generalize (s.jtagLoad .extest).moduleSafe = y at pins ⊢
  exact ⟨congrArg PinSt.jtag pins, y.flt.reported, rfl⟩

/-! ### The end of Assay (R423) -/

theorem State.retarget_assay (s : State) : s.retarget.assay = s.assay ∧ s.retarget.flt = s.flt :=
  ⟨s.retarget_frame.same .assay (by decide), s.retarget_frame.same .flt (by decide)⟩

/-- Assay is idle again, and shows that it is done. -/
def State.assayDone (s : State) : State :=
  ((State.set { s with assay := { s.assay with running := false, left := [], hold := false } } ASY.STATE 3).event ASY.DONE 0 true
    sumAssay).setB IMG.READY false

theorem State.assayEnd_eq (s : State) : s.assayEnd = s.assayDone.retarget := rfl

theorem State.assayDone_shows (s : State) : s.assayDone.get ASY.STATE = 3 ∧ s.assayDone.flag ASY.DONE = true ∧
    s.assayDone.flag IMG.READY = false ∧ s.assayDone.assay = { s.assay with running := false, left := [], hold := false } ∧
    s.assayDone.flt = s.flt := by
  have event : ∀ y : State, Touches [.regs, .outbox, .host] y ((y.event ASY.DONE 0 true sumAssay).setB IMG.READY false) := fun y =>
    State.setB_touches (State.event_touches (.refl _ y) (by decide) (by decide) (by decide)) (by decide)
  unfold State.assayDone
  refine ⟨?_, ?_, State.flag_setB_self _ IMG.READY false 0 0 (by decide), (event _).same .assay (by decide),
    (event _).same .flt (by decide)⟩
  · refine (State.get_set_of_ne _ IMG.READY ASY.STATE _ 0 0 0 0 (by decide)).trans ?_
    refine (State.get_event_of_ne (by decide) (by decide)).trans ?_
    exact State.get_set_self _ ASY.STATE 3 0 0
  · rw [State.flag_setB_of_ne (by decide)]
    exact State.flag_event_self (by decide) (by decide)

theorem State.assayEnd_shows (s : State) : s.assayEnd.get ASY.STATE = 3 ∧ s.assayEnd.flag ASY.DONE = true ∧
    s.assayEnd.flag IMG.READY = false ∧ s.assayEnd.assay = { s.assay with running := false, left := [], hold := false } ∧
    s.assayEnd.flt = s.flt := by
  obtain ⟨state, done, ready, assay, flt⟩ := s.assayDone_shows
  obtain ⟨assay', flt'⟩ := s.assayDone.retarget_assay
  rw [State.assayEnd_eq]
  refine ⟨?_, ?_, ?_, assay'.trans assay, flt'.trans flt⟩
  · rw [State.get_retarget_of_ne (by decide) (by decide) (by decide) (by decide) (by decide), state]
  · rw [State.flag, State.get_retarget_of_ne (by decide) (by decide) (by decide) (by decide) (by decide)]
    exact done
  · rw [State.flag, State.get_retarget_of_ne (by decide) (by decide) (by decide) (by decide) (by decide)]
    exact ready

theorem State.assayEnd_writesOwn (s : State) : Writes [1, 2, 258, 3585, 3601, 4612, 4615, 4907] s s.assayEnd :=
  State.assayEnd_writes (.refl _ s) (List.Subset.refl _)

theorem State.assayStop_shows {s : State} {reason : Nat} (h : s.assay.running = true) (hr : reason < 16) :
    (s.assayStop reason).flag ASY.ABORTED = true ∧ (s.assayStop reason).get ASY.REFUSAL = reason ∧
      (s.assayStop reason).get ASY.STATE = 3 ∧ (s.assayStop reason).assay.running = false := by
  have stop : s.assayStop reason = ((s.setB ASY.ABORTED true).set ASY.REFUSAL reason).assayEnd := by
    rw [State.assayStop, if_pos h]
  have w := ((s.setB ASY.ABORTED true).set ASY.REFUSAL reason).assayEnd_writesOwn
  obtain ⟨state, -, -, assay, -⟩ := ((s.setB ASY.ABORTED true).set ASY.REFUSAL reason).assayEnd_shows
  rw [stop]
  refine ⟨?_, ?_, state, congrArg AssaySt.running assay⟩
  · rw [w.flag_eq (by decide) (by decide), State.flag_set_of_ne _ _ _ _ _ _ _ _ (by decide)]
    exact State.flag_setB_self s ASY.ABORTED true 0 0 (by decide)
  · rw [w.get_eq (by decide) (by decide), State.get_set_self]
    exact Nat.mod_eq_of_lt hr

/-! ### The end of a test (R421, R424) -/

/-- No test is left. -/
def State.testLeft (s : State) : State := { s with assay := { s.assay with left := [] } }

/-- What test `t` has counted is shown. -/
def State.assayCounted (s : State) (t fails : Nat) (n : AssayTally) : State :=
  (((s.set ASY.FAILS fails t).set ASY.REPAIRED n.repaired t).set ASY.UNREPAIRED n.unrepaired t).set ASY.SPARES_LEFT (n.left.getD 0) t

theorem State.assayCount_eq (s : State) (t : Nat) (units : List AssayUnit) :
    s.assayCount t units =
      (units.foldl (State.unitFound t) ({}, s)).2.assayCounted t units.length (units.foldl (State.unitFound t) ({}, s)).1 := rfl

theorem State.assayTestDone_last {s : State} {t : Nat} (units : List AssayUnit) (accesses tokens : Nat) (h : s.assay.left = [t]) :
    s.assayTestDone units accesses tokens =
      ((s.testLeft.assayCount t units).when (t == 4) (fun y => y.assayBuffer accesses tokens)).assayEnd := by
  unfold State.assayTestDone
  rw [h]
  rfl

theorem State.assayCounted_shows (s : State) {t fails : Nat} {n : AssayTally} (ht : t < 5) (hf : fails < 2 ^ 32)
    (hr : n.repaired < 2 ^ 32) (hu : n.unrepaired < 2 ^ 32) (hl : n.left.getD 0 < 2 ^ 32) :
    (s.assayCounted t fails n).get ASY.FAILS t = fails ∧ (s.assayCounted t fails n).get ASY.REPAIRED t = n.repaired ∧
      (s.assayCounted t fails n).get ASY.UNREPAIRED t = n.unrepaired ∧
      (s.assayCounted t fails n).get ASY.SPARES_LEFT t = n.left.getD 0 := by
  unfold State.assayCounted
  refine ⟨?_, ?_, ?_, ?_⟩
  · rw [State.get_set_of_apart (by decide) ⟨ht, by decide⟩, State.get_set_of_apart (by decide) ⟨ht, by decide⟩,
      State.get_set_of_apart (by decide) ⟨ht, by decide⟩, State.get_set_self]
    exact Nat.mod_eq_of_lt hf
  · rw [State.get_set_of_apart (by decide) ⟨ht, by decide⟩, State.get_set_of_apart (by decide) ⟨ht, by decide⟩, State.get_set_self]
    exact Nat.mod_eq_of_lt hr
  · rw [State.get_set_of_apart (by decide) ⟨ht, by decide⟩, State.get_set_self]
    exact Nat.mod_eq_of_lt hu
  · rw [State.get_set_self]
    exact Nat.mod_eq_of_lt hl

theorem State.assayCounted_keeps (s : State) (t fails : Nat) (n : AssayTally) :
    (s.assayCounted t fails n).assay = s.assay ∧ (s.assayCounted t fails n).flt = s.flt := by
  unfold State.assayCounted
  simp only [State.set_assay, State.set_flt, and_self]

/-- The last test of a run, other than the buffer's, shows its counts. -/
theorem State.assayTestDone_counts {s : State} {t : Nat} {units : List AssayUnit} {x : AssayTally} {y : State} (accesses tokens : Nat)
    (h : s.assay.left = [t]) (ht : t < 4) (found : units.foldl (State.unitFound t) ({}, s.testLeft) = (x, y))
    (hf : units.length < 2 ^ 32) (hr : x.repaired < 2 ^ 32) (hu : x.unrepaired < 2 ^ 32) (hl : x.left.getD 0 < 2 ^ 32) :
    (s.assayTestDone units accesses tokens).get ASY.FAILS t = units.length ∧
      (s.assayTestDone units accesses tokens).get ASY.REPAIRED t = x.repaired ∧
      (s.assayTestDone units accesses tokens).get ASY.UNREPAIRED t = x.unrepaired ∧
      (s.assayTestDone units accesses tokens).get ASY.SPARES_LEFT t = x.left.getD 0 ∧
      (s.assayTestDone units accesses tokens).assay = { y.assay with running := false, left := [], hold := false } ∧
      (s.assayTestDone units accesses tokens).flt = y.flt := by
  have other : (t == 4) = false := beq_eq_false_iff_ne.mpr ht.ne
  have inst : t < 5 := ht.trans (by decide)
  rw [State.assayTestDone_last units accesses tokens h, State.assayCount_eq, found, other, State.when_false]
  obtain ⟨fails, repaired, unrepaired, left⟩ := y.assayCounted_shows inst hf hr hu hl
  obtain ⟨assay, flt⟩ := y.assayCounted_keeps t units.length x
  have w := (y.assayCounted t units.length x).assayEnd_writesOwn
  obtain ⟨-, -, -, assay', flt'⟩ := (y.assayCounted t units.length x).assayEnd_shows
  rw [assay] at assay'
  exact ⟨(w.get_eq (by decide) ⟨inst, by decide⟩).trans fails, (w.get_eq (by decide) ⟨inst, by decide⟩).trans repaired,
    (w.get_eq (by decide) ⟨inst, by decide⟩).trans unrepaired, (w.get_eq (by decide) ⟨inst, by decide⟩).trans left, assay',
    flt'.trans flt⟩

/-- Whatever the last test is, its fault-free end shows no failure. -/
theorem State.assayTestDone_clean {s : State} {t : Nat} (accesses tokens : Nat) (h : s.assay.left = [t]) (ht : t < 5) :
    (s.assayTestDone [] accesses tokens).get ASY.STATE = 3 ∧ (s.assayTestDone [] accesses tokens).flag ASY.DONE = true ∧
      (s.assayTestDone [] accesses tokens).get ASY.FAILS t = 0 ∧ (s.assayTestDone [] accesses tokens).flag IMG.READY = false ∧
      (s.assayTestDone [] accesses tokens).assay = { s.assay with running := false, left := [], hold := false } := by
  rw [State.assayTestDone_last [] accesses tokens h, State.assayCount_eq, List.foldl_nil]
  obtain ⟨fails, -⟩ := s.testLeft.assayCounted_shows (t := t) (fails := 0) (n := {}) ht (by decide) (by decide) (by decide) (by decide)
  obtain ⟨assay, -⟩ := s.testLeft.assayCounted_keeps t 0 {}
  have buffer : ∀ y : State, Writes [4619, 4620] y (y.when (t == 4) (fun y => y.assayBuffer accesses tokens)) := fun y =>
    State.when_writes (fun _ k => State.assayBuffer_writes k (List.Subset.refl _)) (.refl _ y)
  have kept : ∀ y : State, (y.when (t == 4) (fun y => y.assayBuffer accesses tokens)).assay = y.assay := fun y =>
    (State.when_touches (ps := [.regs, .draws, .flt]) (fun _ k => State.assayBuffer_touches k (by decide) (by decide) (by decide))
      (.refl _ y)).same .assay (by decide)
  have same := (kept _).trans assay
  have shows := ((buffer (s.testLeft.assayCounted t 0 {})).get_eq (g := ASY.FAILS) (k := t) (l := 0) (by decide)
    ⟨ht, by decide⟩).trans fails
  change (State.assayEnd ((s.testLeft.assayCounted t 0 {}).when _ _)).get _ = _ ∧ _
  generalize (s.testLeft.assayCounted t 0 {}).when (t == 4) (fun y => y.assayBuffer accesses tokens) = y at same shows ⊢
  obtain ⟨state, done, ready, ended, -⟩ := y.assayEnd_shows
  rw [same] at ended
  exact ⟨state, done, (y.assayEnd_writesOwn.get_eq (by decide) ⟨ht, by decide⟩).trans shows, ready, ended⟩

/-- The ratio of the buffer's test, where it fits. -/
theorem State.assayBuffer_shows (s : State) {accesses tokens : Nat} (h : lbufOpen accesses tokens = false) :
    (s.assayBuffer accesses tokens).flag ASY.LBUF_VALID = true ∧
      (s.assayBuffer accesses tokens).get ASY.LBUF = accesses * 4096 / (64 * tokens) := by
  have ratio : lbufRatio accesses tokens s.draws = accesses * 4096 / (64 * tokens) := by
    rw [lbufRatio, h, if_neg Bool.false_ne_true]
  have small : accesses * 4096 / (64 * tokens) < 2 ^ 16 := by
    simp only [lbufOpen, Bool.or_eq_false_iff, decide_eq_false_iff_not, Nat.not_le] at h
    exact h.2
  unfold State.assayBuffer
  dsimp only
  rw [ratio, h, State.when_false]
  generalize accesses * 4096 / (64 * tokens) = r at small ⊢
  have fault : ∀ y : State, Writes [] y (y.when (decide (r < 3481)) (fun s => s.fault srcRatio)) := fun y =>
    State.when_writes (fun _ k => State.fault_writes k) (.refl _ y)
  refine ⟨?_, ?_⟩
  · rw [(fault _).flag_eq (by decide) (by decide)]
    exact State.flag_setB_self _ ASY.LBUF_VALID true 0 0 (by decide)
  · rw [(fault _).get_eq (by decide) (by decide), State.setB, State.get_set_of_ne _ _ _ _ _ _ _ _ (by decide), State.get_set_self]
    exact Nat.mod_eq_of_lt small

theorem State.assayTestDone_buffer {s : State} {accesses tokens : Nat} (h : s.assay.left = [4])
    (hl : lbufOpen accesses tokens = false) :
    (s.assayTestDone [] accesses tokens).flag ASY.LBUF_VALID = true ∧
      (s.assayTestDone [] accesses tokens).get ASY.LBUF = accesses * 4096 / (64 * tokens) := by
  rw [State.assayTestDone_last [] accesses tokens h, beq_self_eq_true, State.when_true]
  generalize s.testLeft.assayCount 4 [] = y
  obtain ⟨valid, ratio⟩ := y.assayBuffer_shows hl
  have w := (y.assayBuffer accesses tokens).assayEnd_writesOwn
  exact ⟨(w.flag_eq (by decide) (by decide)).trans valid, (w.get_eq (by decide) (by decide)).trans ratio⟩

/-- A failing row takes a spare. -/
def State.rowMended (s : State) (m l : Nat) : State :=
  { s with assay := { s.assay with repairs := s.assay.repairs ++ [⟨0, m, l, s.assay.repair == 2⟩] } }

theorem unitFound_mended {s : State} (m : BitVec 24) (g : Fin 16) (l : Word) (hr : s.assay.repair ≠ 0)
    (hs : s.sparesUsed 0 m.toNat < 4) :
    State.unitFound 0 ({}, s) (.row m g l) =
      ({ repaired := 1, unrepaired := 0, left := some (3 - s.sparesUsed 0 m.toNat) }, s.rowMended m.toNat l.toNat) := by
  have one : 4 - s.sparesUsed 0 m.toNat - 1 = 3 - s.sparesUsed 0 m.toNat := by omega
  simp only [State.unitFound, assaySpares, assayPlace, bne_iff_ne.mpr hr, decide_eq_true hs, Bool.and_self, if_true,
    AssayTally.mended, one, Option.getD_none, Nat.min_self]
  rfl

theorem unitFound_lost {s : State} (m : BitVec 24) (g : Fin 16) (l : Word) (h : s.assay.repair = 0 ∨ 4 ≤ s.sparesUsed 0 m.toNat) :
    State.unitFound 0 ({}, s) (.row m g l) =
      ({ repaired := 0, unrepaired := 1, left := none }, s.fault (assaySource g) 0 l.toNat) := by
  have none : (s.assay.repair != 0 && decide (s.sparesUsed 0 m.toNat < 4)) = false := by
    rw [Bool.and_eq_false_iff, decide_eq_false_iff_not, Nat.not_lt]
    exact h.imp_left fun e => by rw [e]; rfl
  simp only [State.unitFound, assaySpares, none, Bool.false_eq_true, if_false]
  rfl

/-! ### The start of Assay (R421, R422) -/

/-- The result of the last run is cleared. -/
def State.testsCleared (s : State) : State :=
  upTo 5 (fun t s =>
    (((s.set ASY.FAILS 0 t).set ASY.REPAIRED 0 t).set ASY.UNREPAIRED 0 t).set ASY.SPARES_LEFT 0 t) s

/-- Assay runs the tests that the command names. -/
def State.assayRuns (s : State) (tests : List Nat) (repair : Nat) : State :=
  { s with assay := { s.assay with running := true, left := tests, hold := true, repair := repair } }

/-- The tests that the command names. -/
def State.testsNamed (s : State) : List Nat := (List.range 5).filter (fun t => s.bitOf ASY.CMD_TESTS t)

/-- In MANUFACTURE traffic stops first. -/
def State.assayQuiet (s : State) : State := s.when (s.lcState == lcManufacture) (fun s => s.stopTraffic)

theorem State.assayStart_eq (s : State) : s.assayStart =
    ((((((s.assayQuiet.assayRuns s.testsNamed (s.assayQuiet.get ASY.CMD_REPAIR)).set ASY.STATE 2).set ASY.REFUSAL 0).testsCleared).setB
      ASY.LBUF_VALID false).retarget).assayEnter (s.testsNamed.headD 0) := by
  unfold State.assayStart State.testsNamed
  extract_lets tests x assay y z u
  have quiet : x = s.assayQuiet := rfl
  clear_value x
  rw [← quiet]
  rfl

theorem State.assayQuiet_writes (s : State) : Writes [256, 265, 266, 267, 268, 270, 283, 520, 521, 522, 523, 540, 775, 776, 784, 785,
    788, 819, 823, 2323, 2325, 2331, 2332, 2333, 2334, 2360, 2362, 2363, 2364, 2365, 2569, 2584, 2586, 3076, 3083, 3084, 3085, 3104,
    3110, 3113, 3114, 3123, 3125, 3339, 3368, 3369, 3370, 3376, 4907] s s.assayQuiet :=
  State.when_writes (fun _ k => State.stopTraffic_writes k (List.Subset.refl _)) (.refl _ s)

theorem State.assayQuiet_assay (s : State) : s.assayQuiet.assay = s.assay :=
  (State.when_touches (ps := allBut [.assay]) (fun _ k => State.stopTraffic_touches k (by decide) (by decide) (by decide) (by decide)
    (by decide) (by decide) (by decide) (by decide) (by decide) (by decide) (by decide)) (.refl _ s)).same .assay (by decide)

/-- What starts after the command's state is shown: the counts are cleared, the target moves, and the first test begins. -/
def State.assayBegins (s : State) (t : Nat) : State := (((s.testsCleared).setB ASY.LBUF_VALID false).retarget).assayEnter t

theorem State.assayBegins_writes (s : State) (t : Nat) :
    Writes [1, 2, 3585, 3601, 4614, 4620, 4621, 4622, 4623, 4624, 4907] s (s.assayBegins t) := by
  refine State.assayEnter_writes (State.retarget_writes (State.setB_writes ⟨4620, by decide, rfl⟩ (Writes.upTo (fun k y h => ?_)
    (.refl _ s))) (by decide)) (by decide)
  exact State.set_writes ⟨4624, by decide, rfl⟩ (State.set_writes ⟨4623, by decide, rfl⟩ (State.set_writes ⟨4622, by decide, rfl⟩
    (State.set_writes ⟨4621, by decide, rfl⟩ h)))

theorem State.assayBegins_assay (s : State) (t : Nat) : (s.assayBegins t).assay = s.assay := by
  refine (State.assayEnter_touches (ps := allBut [.assay]) (State.retarget_touches (State.setB_touches (Touches.upTo (fun k y h => ?_)
    (.refl _ s)) ?_) ?_ ?_ ?_ ?_) ?_ ?_ ?_ ?_).same .assay ?_
  · exact State.set_touches (State.set_touches (State.set_touches (State.set_touches h (by decide)) (by decide)) (by decide)) (by decide)
  all_goals decide

theorem State.assayStart_shows (s : State) : s.assayStart.get ASY.STATE = 2 ∧ s.assayStart.get ASY.REFUSAL = 0 ∧
    s.assayStart.assay = { s.assay with running := true, left := s.testsNamed, hold := true, repair := s.get ASY.CMD_REPAIR } := by
  have start : s.assayStart = (((s.assayQuiet.assayRuns s.testsNamed (s.assayQuiet.get ASY.CMD_REPAIR)).set ASY.STATE 2).set
      ASY.REFUSAL 0).assayBegins (s.testsNamed.headD 0) := s.assayStart_eq
  have repair : s.assayQuiet.get ASY.CMD_REPAIR = s.get ASY.CMD_REPAIR := s.assayQuiet_writes.get_eq (by decide) (by decide)
  have assay := s.assayQuiet_assay
  rw [start, State.assayBegins_assay, State.set_assay, State.set_assay, (State.assayBegins_writes _ _).get_eq (by decide) (by decide),
    (State.assayBegins_writes _ _).get_eq (by decide) (by decide), State.get_set_self, State.get_set_of_ne _ _ _ _ _ _ _ _ (by decide),
    State.get_set_self, repair]
  refine ⟨rfl, rfl, ?_⟩
  rw [← assay]
  rfl

/-- The references' difference is shown. -/
def State.worstShown (s : State) (w : Nat × Nat) : State := (s.set ASY.WORST_PPM w.1).set ASY.WORST_CLK w.2

theorem State.assayGo_of_good {s : State} {ppm : List (BitVec 9)} (hc : s.assayCheck = 0) (hw : (worstPpm ppm).1 ≤ 100) :
    s.assayGo ppm true = (s.worstShown (worstPpm ppm)).assayStart := by
  unfold State.assayGo
  rw [hc]
  exact (if_neg (by decide)).trans ((if_neg (Nat.not_lt.mpr hw)).trans (if_neg (by decide)))

theorem State.assayGo_of_refused {s : State} (ppm : List (BitVec 9)) (ok : Bool) (h : s.assayCheck ≠ 0) :
    s.assayGo ppm ok = s.set ASY.REFUSAL s.assayCheck := if_pos (bne_iff_ne.mpr h)

theorem State.worstShown_writes (s : State) (w : Nat × Nat) : Writes [4617, 4618] s (s.worstShown w) :=
  State.set_writes ⟨4618, by decide, rfl⟩ (State.set_writes ⟨4617, by decide, rfl⟩ (.refl _ s))

theorem State.testsNamed_worstShown (s : State) (w : Nat × Nat) : (s.worstShown w).testsNamed = s.testsNamed := by
  simp only [State.testsNamed, (s.worstShown_writes w).bitOf_eq (g := ASY.CMD_TESTS) (k := 0) (l := 0) (by decide) (by decide)]

theorem State.assayGo_shows (s : State) (w : Nat × Nat) :
    (s.worstShown w).assayStart.get ASY.STATE = 2 ∧ (s.worstShown w).assayStart.get ASY.REFUSAL = 0 ∧
      (s.worstShown w).assayStart.assay =
        { s.assay with running := true, left := s.testsNamed, hold := true, repair := s.get ASY.CMD_REPAIR } := by
  obtain ⟨state, refusal, assay⟩ := (s.worstShown w).assayStart_shows
  rw [s.testsNamed_worstShown, (s.worstShown_writes w).get_eq (by decide) (by decide)] at assay
  exact ⟨state, refusal, assay⟩

theorem State.assayFail_of_met {s : State} {order : Nat} (hl : order < 8) (h : s.assayUnmet ≠ order) : s.assayFail order = s := by
  rw [State.assayFail, decide_eq_false (Nat.not_le.mpr hl), beq_eq_false_iff_ne.mpr h, Bool.or_false, State.when_false]

theorem State.assayFail_of_unmet {s : State} {order : Nat} (h : 8 ≤ order ∨ s.assayUnmet = order) :
    s.assayFail order = s.assayStop order := by
  have fails : (decide (8 ≤ order) || s.assayUnmet == order) = true := by
    rw [Bool.or_eq_true, decide_eq_true_eq, beq_iff_eq]
    exact h
  rw [State.assayFail, fails, State.when_true]

/-- Settles O40: JTAG's instructions answer their bits, and Assay starts, counts, repairs and ends as its rules say. -/
theorem jtagAndAssayCommandsTakeEffect : Obligations.JtagAndAssayCommandsTakeEffect := by
  unfold Obligations.JtagAndAssayCommandsTakeEffect
  refine ⟨fun s h => congrArg Host.Outcome.next (State.jtagIr_of_offered h),
    fun s h => congrArg Host.Outcome.next (State.jtagIr_of_offered h), fun s pre c h hl => ?_, fun s h hl => ⟨?_, ?_⟩,
    fun s h hm hr => ⟨s.extestSafe, ?_, s.extestSafe_shows⟩,
    fun s ppm ho hc hw => ⟨_, (next_viaHost ho).trans (congrArg Host.Outcome.next (State.assayGo_of_good hc hw)), s.assayGo_shows _⟩,
    fun s ppm ok ho hc => (next_viaHost ho).trans (congrArg Host.Outcome.next (State.assayGo_of_refused ppm ok hc)),
    fun s n accesses tokens h => ⟨_, rfl, State.assayTestDone_clean _ _ h n.isLt⟩,
    fun s accesses tokens h hl => ⟨_, rfl, State.assayTestDone_buffer h hl⟩,
    fun s m g l accesses tokens h hr hs => ⟨_, rfl, ?_⟩, fun s m g l accesses tokens h hn => ⟨_, rfl, ?_⟩,
    fun s ho hr => ⟨_, next_viaHost ho, State.assayStop_shows hr (by decide)⟩,
    fun s order hr ho hn => congrArg Host.Outcome.next (State.assayFail_of_met (by omega) hn),
    fun s order hr h => ⟨_, congrArg Host.Outcome.next (State.assayFail_of_unmet (h.imp_left fun _ => by omega)),
      State.assayStop_shows hr (by omega)⟩⟩
  · refine congrArg Host.Outcome.next ?_
    rw [bne_lc hl, State.jtagIr_of_offered h]
    rfl
  · refine congrArg Host.Outcome.next ?_
    have offered : (s.lcState != lcRetired) = true := by rw [hl]; rfl
    rw [offered, State.jtagIr_of_offered h, hl, bne_self_eq_false, State.when_false]
    rfl
  · refine congrArg Host.Outcome.next ?_
    rw [hl, beq_self_eq_true, State.jtagIr_of_offered h]
    rfl
  · refine congrArg Host.Outcome.next ?_
    rw [bne_lc hr, State.jtagIr_of_offered h, bne_lc hm, State.when_true]
    rfl
  · have used : s.testLeft.sparesUsed 0 m.toNat = s.sparesUsed 0 m.toNat := rfl
    have found : [AssayUnit.row m g l].foldl (State.unitFound 0) ({}, s.testLeft) = _ :=
      unitFound_mended (s := s.testLeft) m g l hr hs
    rw [used] at found
    obtain ⟨fails, repaired, unrepaired, left, assay, -⟩ := State.assayTestDone_counts accesses.toNat tokens.toNat h (by decide) found
      (show 1 < 2 ^ 32 by decide) (show 1 < 2 ^ 32 by decide) (show 0 < 2 ^ 32 by decide) (Nat.lt_of_le_of_lt (Nat.sub_le 3 _) (by decide))
    exact ⟨fails, repaired, unrepaired, left, congrArg AssaySt.repairs assay⟩
  · have found : [AssayUnit.row m g l].foldl (State.unitFound 0) ({}, s.testLeft) = _ := unitFound_lost (s := s.testLeft) m g l hn
    obtain ⟨fails, repaired, unrepaired, -, assay, flt⟩ := State.assayTestDone_counts accesses.toNat tokens.toNat h (by decide) found
      (show 1 < 2 ^ 32 by decide) (show 0 < 2 ^ 32 by decide) (show 1 < 2 ^ 32 by decide) (show 0 < 2 ^ 32 by decide)
    refine ⟨fails, repaired, unrepaired, flt, ?_⟩
    rw [assay]
    rfl

end Sys2Proof.Machine
end

section
/-!
Proofs of O15 (R311 to R313, R324, R329): rings, Loupe's windows and counters, the sampling counters, and the bandwidth of ports.
-/
namespace Sys2Proof.Machine
open Reg

/-! ### Rings and their messages (R324, R329) -/

theorem State.msixSend_of_open {s : State} {v : Nat} (ho : s.msixOpen = true) (hm : s.msixMasked v = false) :
    s.msixSend v = s.msixEmit v := by
  unfold State.msixSend
  rw [ho, hm]
  rfl

/-- The message of a ring waits no longer. -/
def State.coalEnded (s : State) (n : Nat) : State := { s with host := { s.host with coalAt := tabDel s.host.coalAt n } }

theorem State.coalExpire_of_due {s : State} {n due : Nat} (h : tabFind s.host.coalAt n = some due) (hd : due ≤ s.frc)
    (ho : s.msixOpen = true) (hm : s.msixMasked (s.get HOST.R_VECTOR n) = false) :
    s.coalExpire n = (s.coalEnded n).msixEmit (s.get HOST.R_VECTOR n) := by
  unfold State.coalExpire
  rw [h]
  exact (if_pos hd).trans (State.msixSend_of_open (s := s.coalEnded n) ho hm)

/-- A ring is enabled at its first entry. -/
def State.ringStarted (s : State) (n : Nat) : State :=
  let s := { s with host := { s.host with ringSeq := tabDel s.host.ringSeq n, stallSince := tabDel s.host.stallSince n } }
  ((s.setB HOST.R_EN true n).set HOST.R_INDEX 0 n).set HOST.R_GEN 1 n

theorem State.ringEnable_of_good {s : State} {n : Nat} (he : s.flag HOST.R_EN n = false) (hc : s.ringConfigOk n = true) :
    s.ringEnable n = s.ringStarted n := by
  unfold State.ringEnable
  rw [he, hc]
  rfl

theorem State.ringStarted_shows (s : State) {n : Nat} (hn : n < 88) : (s.ringStarted n).flag HOST.R_EN n = true ∧
    (s.ringStarted n).get HOST.R_INDEX n = 0 ∧ (s.ringStarted n).get HOST.R_GEN n = 1 := by
  unfold State.ringStarted
  refine ⟨?_, ?_, State.get_set_self _ HOST.R_GEN 1 n 0⟩
  · rw [State.flag, State.get_set_of_apart (by decide) ⟨hn, by decide⟩, State.get_set_of_apart (by decide) ⟨hn, by decide⟩]
    exact State.flag_setB_self _ HOST.R_EN true n 0 (by decide)
  · rw [State.get_set_of_apart (by decide) ⟨hn, by decide⟩]
    exact State.get_set_self _ HOST.R_INDEX 0 n 0

/-! ### Loupe (R311) -/

/-- A counter's place in its unit is neither the unit's ticks nor its WRAP. -/
theorem key_U_CNT_ne {u i v : Nat} (hu : u < 72) (hi : i < 8) (hv : v < 72) :
    TELE.U_CNT.key u i ≠ TELE.U_TICKS.key v 0 ∧ TELE.U_CNT.key u i ≠ TELE.U_WRAP.key v 0 := by
  rw [Fld.key_of_inst ⟨hu, hi⟩, Fld.key_of_inst (f := TELE.U_TICKS) ⟨hv, by decide⟩, Fld.key_of_inst (f := TELE.U_WRAP) ⟨hv, by decide⟩]
  simp only [Fld.first, TELE.U_CNT, TELE.U_TICKS, TELE.U_WRAP]
  omega

/-- The counters of a unit are cleared. -/
def State.unitCleared (s : State) (u : Nat) : State :=
  upTo 8 (fun i s => s.set TELE.U_CNT 0 u i) ((s.set TELE.U_TICKS 0 u).set TELE.U_WRAP 0 u)

/-- A counter that reads 0, or is of the unit, reads 0 once the unit is cleared. -/
theorem State.unitCleared_zero (s : State) {u v i : Nat} (hu : u < 72) (hv : v < 72) (hi : i < 8)
    (h : v = u ∨ s.get TELE.U_CNT v i = 0) : (s.unitCleared u).get TELE.U_CNT v i = 0 := by
  obtain ⟨ticks, wrap⟩ := key_U_CNT_ne hv hi hu
  refine upTo_induct (P := fun n (y : State) => v ≠ u ∨ i < n → y.get TELE.U_CNT v i = 0) (n := 8) (fun hn => ?_)
    (fun k y _ ih hn => State.get_set_zero ?_) (.inr hi)
  · rw [State.get_set_of_ne _ _ _ _ _ _ _ _ wrap, State.get_set_of_ne _ _ _ _ _ _ _ _ ticks]
    exact h.resolve_left (hn.resolve_right (Nat.not_lt_zero i))
  · by_cases same : v = u ∧ i = k
    · obtain ⟨rfl, rfl⟩ := same
      exact .inl rfl
    · exact .inr (ih (by omega))

/-- Every unit is cleared. -/
def State.unitsCleared (s : State) : State := upTo 72 (fun u s => s.unitCleared u) s

theorem State.unitsCleared_zero (s : State) {u i : Nat} (hu : u < 72) (hi : i < 8) : s.unitsCleared.get TELE.U_CNT u i = 0 := by
  refine upTo_induct (P := fun n (y : State) => u < n → y.get TELE.U_CNT u i = 0) (n := 72)
    (fun hn => absurd hn (Nat.not_lt_zero u)) (fun k y hk ih hn => ?_) hu
  exact State.unitCleared_zero y hk hu hi ((Nat.lt_succ_iff_lt_or_eq.mp hn).elim (fun lt => .inr (ih lt)) .inl)

/-- The window starts now. -/
def State.windowStarted (s : State) : State := State.setB { s with tele := { s.tele with loupeAt := s.frc } } TELE.LP_RUNNING true

theorem State.windowStarted_shows (s : State) : s.windowStarted.flag TELE.LP_RUNNING = true ∧ s.windowStarted.tele.loupeAt = s.frc ∧
    ∀ u < 72, ∀ i < 8, s.windowStarted.get TELE.U_CNT u i = s.get TELE.U_CNT u i :=
  ⟨State.flag_setB_self _ TELE.LP_RUNNING true 0 0 (by decide), rfl, fun _ hu _ hi =>
    State.get_set_of_apart (f := TELE.LP_RUNNING) (by decide) ⟨hu, hi⟩⟩

theorem State.loupeStart_of_idle {s : State} (h : s.flag TELE.LP_RUNNING = false) :
    s.loupeStart = s.unitsCleared.windowStarted := by
  unfold State.loupeStart
  rw [h]
  rfl

theorem State.unitsCleared_writes (s : State) : Writes [3123, 3124, 3125] s s.unitsCleared :=
  .upTo (fun _ _ h => .upTo (fun _ _ k => State.set_writes ⟨3125, by decide, rfl⟩ k)
    (State.set_writes ⟨3123, by decide, rfl⟩ (State.set_writes ⟨3124, by decide, rfl⟩ h))) (.refl _ s)

theorem State.loupeStart_shows {s : State} (h : s.flag TELE.LP_RUNNING = false) :
    s.loupeStart.flag TELE.LP_RUNNING = true ∧ s.loupeStart.tele.loupeAt = s.frc ∧
      ∀ u < 72, ∀ i < 8, s.loupeStart.get TELE.U_CNT u i = 0 := by
  obtain ⟨running, start, counts⟩ := s.unitsCleared.windowStarted_shows
  have frc : s.unitsCleared.frc = s.frc := s.unitsCleared_writes.get_eq (by decide) (by decide)
  rw [State.loupeStart_of_idle h]
  exact ⟨running, start.trans frc, fun u hu i hi => (counts u hu i hi).trans (s.unitsCleared_zero hu hi)⟩

theorem State.loupeEnd_shows (s : State) (ticks : Nat) :
    (s.loupeEnd ticks).flag TELE.LP_RUNNING = false ∧ (s.loupeEnd ticks).flag TELE.LP_DONE = true := by
  unfold State.loupeEnd
  refine ⟨?_, State.flag_event_self (by decide) (by decide)⟩
  rw [State.flag, State.get_event_of_ne (by decide) (by decide)]
  exact State.flag_setB_self _ TELE.LP_RUNNING false 0 0 (by decide)

theorem State.loupeStop_of_running {s : State} (h : s.flag TELE.LP_RUNNING = true) :
    s.loupeStop = s.loupeEnd (s.frc - s.tele.loupeAt) := if_pos h

theorem State.loupeWindowEnd_of_due {s : State} (h : s.flag TELE.LP_RUNNING = true) (hn : s.get TELE.LOUPE_LEN ≠ 0)
    (hd : s.tele.loupeAt + s.get TELE.LOUPE_LEN ≤ s.frc) : s.loupeWindowEnd = s.loupeEnd (s.get TELE.LOUPE_LEN) := by
  unfold State.loupeWindowEnd
  dsimp only
  rw [h, s.elapsed_of_le hd, bne_iff_ne.mpr hn]
  exact if_pos rfl

theorem State.loupeWrap_of_passed {s : State} {u i n : Nat} (h : s.flag TELE.LP_RUNNING = true) (he : s.get (evField i) u ≠ 0)
    (hv : 2 ^ 48 ≤ s.get TELE.U_CNT u i + n) :
    s.loupeWrap u i n = (s.set TELE.U_CNT (s.get TELE.U_CNT u i + n) u i).setBit TELE.U_WRAP i u := by
  unfold State.loupeWrap State.loupeAdd
  dsimp only
  rw [h, bne_iff_ne.mpr he, decide_eq_true hv, State.when_true]
  exact if_pos rfl

theorem State.loupeWrap_shows {s : State} {u i n : Nat} (hu : u < 72) (hi : i < 8) (h : s.flag TELE.LP_RUNNING = true)
    (he : s.get (evField i) u ≠ 0) (hv : 2 ^ 48 ≤ s.get TELE.U_CNT u i + n) :
    (s.loupeWrap u i n).get TELE.U_CNT u i = (s.get TELE.U_CNT u i + n) % 2 ^ 48 ∧
      (s.loupeWrap u i n).bitOf TELE.U_WRAP i u = true := by
  rw [State.loupeWrap_of_passed h he hv]
  refine ⟨?_, State.bitOf_setBit_self hi⟩
  rw [State.setBit, State.get_set_of_ne _ _ _ _ _ _ _ _ (key_U_CNT_ne hu hi hu).2, State.get_set_self]
  rfl

/-! ### Sampling counters (R312) -/

/-- A counter that passes its limit goes on from RELOAD. -/
def State.sampleLapped (s : State) (k v : Nat) : State :=
  s.set TELE.S_VALUE (s.get TELE.S_RELOAD k + (v - 2 ^ 48) % (2 ^ 48 - s.get TELE.S_RELOAD k)) k

theorem State.sampleOverflow_of_passed {s : State} {k n : Nat} (hk : k < 8) (he : s.flag TELE.S_EN k = true)
    (hv : 2 ^ 48 ≤ s.get TELE.S_VALUE k + n) (ho : s.flag TELE.S_OVF k = false) :
    s.sampleOverflow k n =
      ((s.sampleLapped k (s.get TELE.S_VALUE k + n)).event TELE.S_OVF k ((s.sampleLapped k (s.get TELE.S_VALUE k + n)).flag TELE.S_IE k)
        sumSampling).add TELE.S_LOST
        (1 + (s.get TELE.S_VALUE k + n - 2 ^ 48) / (2 ^ 48 - s.get TELE.S_RELOAD k) - 1) k := by
  have clear : (s.sampleLapped k (s.get TELE.S_VALUE k + n)).flag TELE.S_OVF k = false :=
    (congrArg (· != 0) (State.get_set_of_apart (by decide) ⟨hk, by decide⟩)).trans ho
  unfold State.sampleOverflow
  rw [he, decide_eq_true hv, Bool.and_true, if_pos rfl]
  unfold State.sampleAdd
  refine (if_neg (Nat.not_lt.mpr hv)).trans (if_neg ?_)
  change ¬ (s.sampleLapped k (s.get TELE.S_VALUE k + n)).flag TELE.S_OVF k = true
  rw [clear]
  exact Bool.false_ne_true

theorem State.sampleOverflow_shows {s : State} {k n : Nat} (hk : k < 8) (he : s.flag TELE.S_EN k = true)
    (hv : 2 ^ 48 ≤ s.get TELE.S_VALUE k + n) (ho : s.flag TELE.S_OVF k = false) :
    (s.sampleOverflow k n).flag TELE.S_OVF k = true ∧
      (s.sampleOverflow k n).get TELE.S_VALUE k = (s.get TELE.S_RELOAD k +
        (s.get TELE.S_VALUE k + n - 2 ^ 48) % (2 ^ 48 - s.get TELE.S_RELOAD k)) % 2 ^ 48 ∧
      (s.sampleOverflow k n).get TELE.S_LOST k = satTo (2 ^ TELE.S_LOST.wd - 1) (s.get TELE.S_LOST k +
        (s.get TELE.S_VALUE k + n - 2 ^ 48) / (2 ^ 48 - s.get TELE.S_RELOAD k)) := by
  rw [State.sampleOverflow_of_passed hk he hv ho, Nat.add_sub_cancel_left]
  have event := State.event_writes (F := [3110, 4907]) (a1 := TELE.S_OVF) (a2 := k) (a3 := (s.sampleLapped k (s.get TELE.S_VALUE k + n)).flag TELE.S_IE k)
    (a4 := sumSampling) ⟨3110, by decide, rfl⟩ (.refl _ (s.sampleLapped k (s.get TELE.S_VALUE k + n))) (by decide)
  refine ⟨?_, ?_, ?_⟩
  · rw [State.flag, State.add, State.get_set_of_apart (by decide) ⟨hk, by decide⟩]
    exact State.flag_event_self (by decide) (Fld.key_ne_of_apart (by decide) ⟨hk, by decide⟩)
  · rw [State.add, State.get_set_of_apart (by decide) ⟨hk, by decide⟩, event.get_eq (by decide) ⟨hk, by decide⟩, State.sampleLapped,
      State.get_set_self]
    rfl
  · rw [State.add, State.get_set_self, Nat.mod_eq_of_lt (satTo_lt _ (by decide)), event.get_eq (by decide) ⟨hk, by decide⟩, State.sampleLapped,
      State.get_set_of_apart (by decide) ⟨hk, by decide⟩]

/-- The bits of a word stand in any number that agrees with it there. -/
theorem bits_mod {v lo wd n : Nat} (h : lo + wd ≤ n) : bits (v % 2 ^ n) lo wd = bits v lo wd := by
  refine Nat.eq_of_testBit_eq fun j => ?_
  simp only [bits, Nat.testBit_mod_two_pow, Nat.testBit_div_two_pow]
  by_cases hj : j < wd
  · rw [decide_eq_true (by omega : j + lo < n), Bool.true_and]
  · rw [decide_eq_false hj, Bool.false_and, Bool.false_and]

/-- The fields of a CTRL word are stored. -/
def State.sampleFields (s : State) (k v : Nat) : State :=
  (((s.set TELE.S_UNIT (bits v 0 7) k).set TELE.S_EVENT (sampleCode (bits v 0 7) (bits v 8 8)) k).setB TELE.S_EN (bit v 16) k).setB
    TELE.S_IE (bit v 17) k

theorem State.sampleCtrl_fields {s : State} (k v : Nat) (h : s.samplingOpen = true) :
    Writes [3110, 3111, 3113] (s.sampleFields k v) (s.sampleCtrl k v) := by
  unfold State.sampleCtrl
  rw [if_pos h]
  refine State.when_writes (fun _ k => State.set_writes ⟨3113, by decide, rfl⟩ k) (State.when_writes
    (fun _ k => State.setB_writes ⟨3111, by decide, rfl⟩ k) (State.when_writes
      (fun _ k => State.setB_writes ⟨3110, by decide, rfl⟩ k) (.refl _ (s.sampleFields k v))))

theorem sampleCode_lt (u : Nat) {c : Nat} (h : c < 256) : sampleCode u c < 256 := by
  unfold sampleCode
  repeat' split
  all_goals omega

theorem b2n_ne_zero (b : Bool) : (b2n b != 0) = b := by cases b <;> rfl

theorem State.sampleFields_shows (s : State) {k : Nat} (v : Nat) (hk : k < 8) :
    (s.sampleFields k v).get TELE.S_UNIT k = bits v 0 7 ∧
      (s.sampleFields k v).get TELE.S_EVENT k = sampleCode (bits v 0 7) (bits v 8 8) ∧
      (s.sampleFields k v).flag TELE.S_EN k = bit v 16 ∧ (s.sampleFields k v).flag TELE.S_IE k = bit v 17 := by
  unfold State.sampleFields
  refine ⟨?_, ?_, ?_, State.flag_setB_self _ TELE.S_IE _ k 0 (by decide)⟩
  · rw [State.setB, State.setB, State.get_set_of_apart (by decide) ⟨hk, by decide⟩, State.get_set_of_apart (by decide) ⟨hk, by decide⟩,
      State.get_set_of_apart (by decide) ⟨hk, by decide⟩, State.get_set_self]
    exact Nat.mod_eq_of_lt (bits_lt v 0 7)
  · rw [State.setB, State.setB, State.get_set_of_apart (by decide) ⟨hk, by decide⟩, State.get_set_of_apart (by decide) ⟨hk, by decide⟩,
      State.get_set_self]
    exact Nat.mod_eq_of_lt (sampleCode_lt _ (bits_lt v 8 8))
  · rw [State.flag, State.setB, State.get_set_of_apart (by decide) ⟨hk, by decide⟩]
    exact State.flag_setB_self _ TELE.S_EN _ k 0 (by decide)

theorem State.sampleCtrl_shows {s : State} {k : Nat} (v : Quad) (hk : k < 8) (h : s.samplingOpen = true) :
    (s.sampleCtrl k (v.toNat % 2 ^ 32)).get TELE.S_UNIT k = bits v.toNat 0 7 ∧
      (s.sampleCtrl k (v.toNat % 2 ^ 32)).get TELE.S_EVENT k = sampleCode (bits v.toNat 0 7) (bits v.toNat 8 8) ∧
      (s.sampleCtrl k (v.toNat % 2 ^ 32)).flag TELE.S_EN k = bit v.toNat 16 ∧
      (s.sampleCtrl k (v.toNat % 2 ^ 32)).flag TELE.S_IE k = bit v.toNat 17 := by
  have w := State.sampleCtrl_fields k (v.toNat % 2 ^ 32) h
  obtain ⟨unit, event, en, ie⟩ := s.sampleFields_shows (v.toNat % 2 ^ 32) hk
  rw [bits_mod (by decide)] at unit
  rw [bits_mod (by decide), bits_mod (by decide)] at event
  rw [bit_mod_two_pow (by decide)] at en ie
  exact ⟨(w.get_eq (by decide) ⟨hk, by decide⟩).trans unit, (w.get_eq (by decide) ⟨hk, by decide⟩).trans event,
    (w.flag_eq (by decide) ⟨hk, by decide⟩).trans en, (w.flag_eq (by decide) ⟨hk, by decide⟩).trans ie⟩

theorem State.sampleReload_of_open {s : State} (k v : Nat) (h : s.samplingOpen = true) :
    s.sampleReload k v = s.set TELE.S_RELOAD v k := if_pos h

/-! ### Port bandwidth (R313) -/

/-- A port's tallies of the window that ends are shown, and start again. -/
def State.bwPort (s : State) (p : Nat) : State :=
  (s.bwUpdate p 0 TELE.RX_LAST TELE.RX_PEAK TELE.RX_EWMA).bwUpdate p 1 TELE.TX_LAST TELE.TX_PEAK TELE.TX_EWMA

theorem State.bw_bwPort (s : State) (p : Nat) : (s.bwPort p).tele.bw = tabDel (tabDel s.tele.bw (2 * p)) (2 * p + 1) := rfl

/-- A tally that is empty, or is deleted, is empty. -/
theorem tabFind_tabDel_none {α : Type} {t : Tab α} {k l : Nat} (h : l = k ∨ tabFind t l = none) : tabFind (tabDel t k) l = none := by
  by_cases e : l = k
  · rw [e, tabFind_tabDel_self]
  · rw [tabFind_tabDel_of_ne _ _ _ e]
    exact h.resolve_left e

/-- The tallies of every port of the list start again. -/
theorem State.bwPorts_none (l : List Nat) (s : State) (k : Nat) (h : (∃ p ∈ l, k = 2 * p ∨ k = 2 * p + 1) ∨ tabFind s.tele.bw k = none) :
    tabFind (l.foldl (fun s p => s.bwPort p) s).tele.bw k = none := by
  induction l generalizing s with
  | nil => exact h.resolve_left fun ⟨p, hp, _⟩ => absurd hp List.not_mem_nil
  | cons a l ih =>
    refine ih (s.bwPort a) ?_
    obtain ⟨p, hp, hk⟩ | none := h
    · obtain rfl | hp := List.mem_cons.mp hp
      · refine .inr ?_
        rw [State.bw_bwPort]
        obtain rfl | rfl := hk
        · exact tabFind_tabDel_none (.inr (tabFind_tabDel_none (.inl rfl)))
        · exact tabFind_tabDel_none (.inl rfl)
      · exact .inl ⟨p, hp, hk⟩
    · refine .inr ?_
      rw [State.bw_bwPort]
      exact tabFind_tabDel_none (.inr (tabFind_tabDel_none (.inr none)))

/-- The next window of all ports starts on a multiple of its length. -/
def State.bwStarted (s : State) (len : Nat) : State := { s with tele := { s.tele with bwAt := s.frc / len * len } }

theorem State.bwEnd_of_due {s : State}
    (h : (s.tele.bwAt / (1250 * s.get TELE.BW_WINDOW) + 1) * (1250 * s.get TELE.BW_WINDOW) ≤ s.frc) :
    s.bwEnd = (s.portList.foldl (fun s p => s.bwPort p) s).bwStarted (1250 * s.get TELE.BW_WINDOW) := by
  have ticks : ticksPerUs = 1250 := rfl
  unfold State.bwEnd
  rw [ticks]
  extract_lets len x tele
  have shown : x = s.portList.foldl (fun s p => s.bwPort p) s := rfl
  clear_value x
  rw [if_pos h, ← shown]
  rfl

theorem State.frc_bwPorts (s : State) (l : List Nat) : (l.foldl (fun s p => s.bwPort p) s).frc = s.frc :=
  (Writes.foldl (F := [3126, 3127, 3128, 3129, 3130, 3131]) (fun _ _ h => State.bwUpdate_writes ⟨3129, by decide, rfl⟩
    ⟨3130, by decide, rfl⟩ ⟨3131, by decide, rfl⟩ (State.bwUpdate_writes ⟨3126, by decide, rfl⟩ ⟨3127, by decide, rfl⟩
      ⟨3128, by decide, rfl⟩ h)) (.refl _ s)).get_eq (g := TIME.FRC) (by decide) (by decide)

theorem State.bwEnd_shows {s : State}
    (h : (s.tele.bwAt / (1250 * s.get TELE.BW_WINDOW) + 1) * (1250 * s.get TELE.BW_WINDOW) ≤ s.frc) :
    s.bwEnd.tele.bwAt = s.frc / (1250 * s.get TELE.BW_WINDOW) * (1250 * s.get TELE.BW_WINDOW) ∧
      ∀ p ∈ s.portList, tabFind s.bwEnd.tele.bw (2 * p) = none ∧ tabFind s.bwEnd.tele.bw (2 * p + 1) = none := by
  have none := fun k => State.bwPorts_none s.portList s k
  have frc := s.frc_bwPorts s.portList
  rw [State.bwEnd_of_due h]
  generalize s.portList.foldl (fun s p => s.bwPort p) s = y at none frc ⊢
  rw [← frc]
  exact ⟨rfl, fun p hp => ⟨none _ (.inl ⟨p, hp, .inl rfl⟩), none _ (.inl ⟨p, hp, .inr rfl⟩)⟩⟩

/-- Settles O15: rings, windows and counters each do what their rule says. -/
theorem ringAndLoupeCommandsTakeEffect : Obligations.RingAndLoupeCommandsTakeEffect := by
  unfold Obligations.RingAndLoupeCommandsTakeEffect
  refine ⟨fun s n due h hd ho hm => congrArg Host.Outcome.next (State.coalExpire_of_due h hd ho hm),
    fun s n ho he hc => ⟨_, (next_viaHost ho).trans (congrArg Host.Outcome.next (State.ringEnable_of_good he hc)),
      s.ringStarted_shows n.isLt⟩,
    fun s n ho => next_viaHost ho, fun s ho h => ⟨_, next_viaHost (f := TELE.LP_START) ho, State.loupeStart_shows h⟩,
    fun s ho h => ⟨_, (next_viaHost (f := TELE.LP_STOP) ho).trans (congrArg Host.Outcome.next (State.loupeStop_of_running h)),
      s.loupeEnd_shows _⟩,
    fun s h hn hd => ⟨_, congrArg Host.Outcome.next (State.loupeWindowEnd_of_due h hn hd), s.loupeEnd_shows _⟩,
    fun s u i n h he hv => ⟨_, rfl, State.loupeWrap_shows u.isLt i.isLt h he hv⟩,
    fun s k n he hv ho => ⟨_, rfl, State.sampleOverflow_shows k.isLt he hv ho⟩,
    fun s k v ho h => (next_viaHost ho).trans (congrArg Host.Outcome.next (State.sampleReload_of_open _ _ h)),
    fun s k v ho h => ⟨_, next_viaHost ho, State.sampleCtrl_shows v k.isLt h⟩,
    fun s h => ⟨_, rfl, State.bwEnd_shows h⟩⟩

end Sys2Proof.Machine
end

section
/-!
Proofs of O16 (R302 to R304, R307, R308): flushes of the delta caches, exports of the flow caches, read pointers and batches.
-/
namespace Sys2Proof.Machine
open Reg

/-! ### A granted step (R379) -/

theorem State.stepTake_frame (s : State) (act : Nat) : Touches [.anvil] s (s.stepTake act) := State.stepTake_touches (.refl _ s) (by decide)

theorem State.stepped_frame (s : State) (act : Nat) : Touches [.anvil] s (s.stepped act) :=
  State.accessGranted_touches (s.stepTake_frame act) (by decide)

theorem State.regs_stepped (s : State) (act : Nat) : (s.stepped act).regs = s.regs := (s.stepped_frame act).same .regs (by decide)

theorem State.get_stepped (s : State) (act : Nat) (g : Fld) (k l : Nat) : (s.stepped act).get g k l = s.get g k l := by
  rw [State.get, State.get, s.regs_stepped]

theorem State.cursor_stepped (s : State) (act : Nat) : (s.stepped act).anvil.cursor = s.anvil.cursor := by
  unfold State.stepped State.stepTake State.accessGranted
  dsimp only
  split <;> rfl

/-! ### Flushes of the delta caches (R307, R308) -/

/-- A delta that waits is listed for the flush. -/
theorem mem_flushing {t : Tab (List Delta)} {shard : Nat} {d : Delta} (h : d ∈ tabGet [] t shard) :
    (shard, d.index) ∈ t.flatMap (fun x => x.2.map (fun d => (x.1, d.index))) := by
  induction t with
  | nil => exact absurd h List.not_mem_nil
  | cons x t ih =>
    obtain ⟨a, l⟩ := x
    rw [List.flatMap_cons, List.mem_append]
    by_cases e : a = shard
    · subst e
      refine .inl (List.mem_map.mpr ⟨d, ?_, rfl⟩)
      simpa [tabGet, tabFind] using h
    · refine .inr (ih ?_)
      simpa [tabGet, tabFind, e] using h

theorem State.counterFlush_shows (s : State) : s.counterFlush.flag TELE.FL_BUSY = true ∧
    ∀ shard, ∀ d ∈ s.deltaList shard, (shard, d.index) ∈ s.counterFlush.tele.flushing :=
  ⟨State.flag_setB_self _ TELE.FL_BUSY true 0 0 (by decide), fun _ _ hd => mem_flushing hd⟩

/-- No delta waits to be flushed. -/
def State.flushEnded (s : State) : State :=
  (State.setB { s with tele := { s.tele with flushing := [] } } TELE.FL_BUSY false).event TELE.FL_DONE 0 true sumTele

theorem State.flushEnded_shows (s : State) : s.flushEnded.flag TELE.FL_BUSY = false ∧ s.flushEnded.flag TELE.FL_DONE = true ∧
    s.flushEnded.tele.flushing = [] := by
  unfold State.flushEnded
  refine ⟨?_, State.flag_event_self (by decide) (by decide), ?_⟩
  · rw [State.flag, State.get_event_of_ne (by decide) (by decide)]
    exact State.flag_setB_self _ TELE.FL_BUSY false 0 0 (by decide)
  · exact congrArg TeleSt.flushing ((State.event_touches (ps := [.regs, .outbox, .host]) (.refl _ (State.setB
      { s with tele := { s.tele with flushing := [] } } TELE.FL_BUSY false)) (by decide) (by decide) (by decide)).same .tele (by decide))

theorem State.counterFlushDone_of_busy {s : State} (h : s.flag TELE.FL_BUSY = true) :
    s.counterFlushDone = (s.tele.flushing.foldl (fun s x => s.deltaFlush x.1 x.2 .clean) s).flushEnded := if_pos h

/-- What a flush of a pair does once its delta has left the cache. -/
theorem State.pairFlush_keeps (s : State) (d : Delta) (e : EccState) (u : Nat) :
    ((s.pairAdd d e).tally u evFlush).tele = s.tele ∧ ((s.pairAdd d e).tally u evFlush).anvil = s.anvil := by
  have frame : Touches [.regs, .dev, .outbox, .flt, .act, .host] s ((s.pairAdd d e).tally u evFlush) :=
    State.tally_touches (State.pairAdd_touches (.refl _ s) (by decide) (by decide) (by decide) (by decide)) (by decide) (by decide)
      (by decide) (by decide)
  exact ⟨frame.same .tele (by decide), frame.same .anvil (by decide)⟩

/-- The only delta that waits is flushed: none waits then. -/
theorem State.deltaFlush_only {s : State} {shard : Nat} {d : Delta} (e : EccState) (h : s.tele.deltas = [(shard, [d])]) :
    (s.deltaFlush shard d.index e).tele.deltas = [] ∧ (s.deltaFlush shard d.index e).anvil = s.anvil := by
  have list : s.deltaList shard = [d] := by
    rw [State.deltaList, h]
    simp [tabGet, tabFind]
  have found : (s.deltaList shard).find? (fun x => x.index == d.index) = some d := by simp [list]
  have rest : (s.deltaList shard).filter (fun x => x.index != d.index) = [] := by simp [list]
  obtain ⟨tele, anvil⟩ := (s.setDeltas shard []).pairFlush_keeps d e (64 + shard)
  unfold State.deltaFlush
  rw [found]
  dsimp only
  rw [rest, tele, anvil]
  refine ⟨?_, rfl⟩
  simp [State.setDeltas, h, tabDel]

/-- The first eight deltas of a shard are flushed. -/
def State.shardFlush (s : State) (shard : Nat) (e : EccState) (k : Nat) : State :=
  ((s.deltaList k).take 8).foldl (fun s d => s.deltaFlush k d.index (if k = shard then e else .clean)) s

theorem State.shardFlush_of_none {s : State} {k : Nat} (shard : Nat) (e : EccState) (h : s.deltaList k = []) :
    s.shardFlush shard e k = s := by
  rw [State.shardFlush, h]
  rfl

/-- Of the eight shards, the one with the only delta flushes it. -/
theorem State.shardsFlush_only {s : State} {shard : Nat} {d : Delta} (e : EccState) (hs : shard < 8)
    (h : s.tele.deltas = [(shard, [d])]) :
    (upTo 8 (fun k s => s.shardFlush shard e k) s).tele.deltas = [] ∧
      (upTo 8 (fun k s => s.shardFlush shard e k) s).anvil = s.anvil := by
  have all := upTo_induct (n := 8) (f := fun k (y : State) => y.shardFlush shard e k) (x := s)
    (P := fun n (y : State) => y.tele.deltas = (if shard < n then [] else [(shard, [d])]) ∧ y.anvil = s.anvil)
    ⟨by rw [h, if_neg (Nat.not_lt_zero _)], rfl⟩ (fun k y _ ih => ?_)
  · rwa [if_pos hs] at all
  obtain ⟨deltas, anvil⟩ := ih
  have list (hk : k ≠ shard) : y.deltaList k = [] := by
    rw [State.deltaList, deltas]
    split
    · rfl
    · simp [tabGet, tabFind, hk.symm]
  by_cases hk : k = shard
  · subst hk
    rw [if_neg (Nat.lt_irrefl k)] at deltas
    have one : y.shardFlush k e k = y.deltaFlush k d.index e := by
      simp [State.shardFlush, State.deltaList, deltas, tabGet, tabFind]
    obtain ⟨none, same⟩ := State.deltaFlush_only e deltas
    rw [one, if_pos (Nat.lt_succ_self k)]
    exact ⟨none, same.trans anvil⟩
  · rw [State.shardFlush_of_none _ _ (list hk), deltas]
    refine ⟨?_, anvil⟩
    congr 1
    exact propext (by omega)

theorem State.flushStep_eq {s x : State} {shard : Nat} {e : EccState} (hx : upTo 8 (fun k s => s.shardFlush shard e k) s = x) :
    s.flushStep shard e = if tabGet 0 s.anvil.cursor actFlush + 1 < 2048 then
      { x with anvil := { x.anvil with cursor := tabPut x.anvil.cursor actFlush (tabGet 0 s.anvil.cursor actFlush + 1) } }
      else x.flushPass := by
  unfold State.flushStep
  extract_lets c y
  have named : y = x := hx
  clear_value y
  subst named
  rfl

theorem State.flushStep_of_more {s : State} {shard : Nat} {d : Delta} (e : EccState) (hs : shard < 8)
    (h : s.tele.deltas = [(shard, [d])]) (hc : tabGet 0 s.anvil.cursor actFlush < 2047) :
    (s.flushStep shard e).tele.deltas = [] ∧
      tabGet 0 (s.flushStep shard e).anvil.cursor actFlush = tabGet 0 s.anvil.cursor actFlush + 1 := by
  obtain ⟨deltas, -⟩ := State.shardsFlush_only e hs h
  generalize hx : upTo 8 (fun k s => s.shardFlush shard e k) s = x at deltas
  rw [State.flushStep_eq hx, if_pos (by omega)]
  exact ⟨deltas, tabGet_tabPut_self _ _ _ _⟩

/-! ### Exports of the flow caches (R302) -/

theorem State.setExpire_of_none {s : State} {set : Nat} (h : ∀ w, w < 4 → tabFind s.tele.flows (4 * set + w) = none) :
    s.setExpire set = s := by
  refine upTo_self fun w hw => ?_
  rw [h w hw]

theorem State.tele_inc (s : State) (f : Fld) (i j : Nat) : (s.inc f i j).tele = s.tele := s.set_tele f _ i j

theorem State.tele_qdrOp (s : State) (n : Nat) : (s.qdrOp n).tele = s.tele := rfl

theorem State.flows_fsStamp (s : State) (shard : Nat) : (s.fsStamp shard).tele.flows = s.tele.flows := by
  unfold State.fsStamp
  split <;> rfl

theorem State.flows_fsPop (s : State) (shard k : Nat) : (s.fsPop shard k).tele.flows = s.tele.flows := rfl

theorem State.flows_fsRoom (s : State) (shard : Nat) : (s.fsRoom shard).tele.flows = s.tele.flows := by
  unfold State.fsRoom
  split
  · rw [State.flows_fsPop, State.tele_inc]
  · rfl

/-- The flow store takes a record and no flow leaves its way. -/
theorem State.flows_fsWrite (s : State) (shard : Nat) (l : List Byte) : (s.fsWrite shard l).tele.flows = s.tele.flows := by
  rw [State.fsWrite_eq]
  split
  · rw [State.tele_inc]
  · rw [State.fsStored, State.flows_fsStamp, State.set_tele, State.memStore_tele, State.tele_qdrOp, State.flows_fsRoom]

/-- What an eviction does once the flow has left its way. -/
def State.flowStored (s : State) (shard : Nat) (l : List Byte) : State :=
  ((s.fsWrite shard l).inc TELE.FC_EVICTED).tally (64 + shard) evEvict

theorem State.flowEvict_of_found {s : State} {key : Nat} {x : Flow} (r : Nat) (h : tabFind s.tele.flows key = some x) :
    s.flowEvict key r = { s with tele := { s.tele with flows := tabDel s.tele.flows key } }.flowStored (key / 65536) (x.bytes32 r) := by
  unfold State.flowEvict
  rw [h]
  rfl

theorem State.get_flowStored_evicted (s : State) (shard : Nat) (l : List Byte) :
    (s.flowStored shard l).get TELE.FC_EVICTED = satTo (2 ^ 32 - 1) (s.get TELE.FC_EVICTED + 1) := by
  have kept : (s.fsWrite shard l).get TELE.FC_EVICTED = s.get TELE.FC_EVICTED :=
    (State.fsWrite_writes (.refl _ s) (List.Subset.refl _)).get_eq (by decide) (by decide)
  have after := (State.tally_writes (a1 := 64 + shard) (a2 := evEvict) (a3 := 1) (.refl _ ((s.fsWrite shard l).inc TELE.FC_EVICTED))
    (List.Subset.refl _)).get_eq (g := TELE.FC_EVICTED) (k := 0) (l := 0) (by decide) (by decide)
  refine after.trans ((State.get_inc_self _ _ _ _).trans ?_)
  rw [kept]
  rfl

theorem State.flows_flowStored (s : State) (shard : Nat) (l : List Byte) : (s.flowStored shard l).tele.flows = s.tele.flows := by
  have tallied : ((s.fsWrite shard l).inc TELE.FC_EVICTED |>.tally (64 + shard) evEvict).tele = ((s.fsWrite shard l).inc TELE.FC_EVICTED).tele :=
    (State.tally_touches (ps := [.regs, .outbox, .act, .host]) (.refl _ ((s.fsWrite shard l).inc TELE.FC_EVICTED)) (by decide) (by decide)
      (by decide) (by decide)).same .tele (by decide)
  rw [State.flowStored, tallied, State.tele_inc, State.flows_fsWrite]

/-- Evicting the only flow leaves none, and counts it. -/
theorem State.flowEvict_only {s : State} {key : Nat} {x : Flow} (r : Nat) (h : s.tele.flows = [(key, x)]) :
    (s.flowEvict key r).tele.flows = [] ∧
      (s.flowEvict key r).get TELE.FC_EVICTED = satTo (2 ^ 32 - 1) (s.get TELE.FC_EVICTED + 1) := by
  have found : tabFind s.tele.flows key = some x := by simp [h, tabFind]
  have gone : tabDel s.tele.flows key = [] := by simp [h, tabDel]
  rw [State.flowEvict_of_found r found, gone]
  exact ⟨State.flows_flowStored _ _ _, State.get_flowStored_evicted _ _ _⟩

/-- In a set with one flow, which is due and stands in way 0, the flow is evicted. -/
theorem State.setExpire_only {s : State} {set r : Nat} {x : Flow} (h : s.tele.flows = [(4 * set, x)]) (due : s.flowDue x = some r) :
    s.setExpire set = s.flowEvict (4 * set) r := by
  obtain ⟨flows, -⟩ := State.flowEvict_only r h
  have way (n : Nat) (hn : n < 4) : upTo (n + 1) (fun w (s : State) =>
      match tabFind s.tele.flows (4 * set + w) with
      | some f => s.flowExpire (4 * set + w) (s.flowDue f)
      | none => s) s = s.flowEvict (4 * set) r := by
    induction n with
    | zero =>
      have found : tabFind s.tele.flows (4 * set + 0) = some x := by simp [h, tabFind]
      rw [upTo_succ]
      change (match tabFind s.tele.flows (4 * set + 0) with
        | some f => s.flowExpire (4 * set + 0) (s.flowDue f)
        | none => s) = _
      rw [found]
      dsimp only
      rw [due]
      rfl
    | succ n ih =>
      have none : tabFind (s.flowEvict (4 * set) r).tele.flows (4 * set + (n + 1)) = none := by rw [flows]; rfl
      rw [upTo_succ, ih (by omega), none]
  exact way 3 (by omega)

theorem State.exportStep_only {s : State} {shard set r : Nat} {x : Flow} (hs : shard < 8)
    (h : s.tele.flows = [(4 * (16384 * shard + set), x)]) (due : s.flowDue x = some r) :
    s.exportStep set [] = s.flowEvict (4 * (16384 * shard + set)) r := by
  obtain ⟨flows, -⟩ := State.flowEvict_only r h
  have all := upTo_induct (n := 8) (f := fun k (y : State) => y.setExpire (16384 * k + set)) (x := s)
    (P := fun n (y : State) => y = if shard < n then s.flowEvict (4 * (16384 * shard + set)) r else s)
    (if_neg (Nat.not_lt_zero _)).symm (fun k y _ ih => ?_)
  · exact all.trans (if_pos hs)
  subst ih
  by_cases hk : k = shard
  · subst hk
    rw [if_neg (Nat.lt_irrefl k), if_pos (Nat.lt_succ_self k), State.setExpire_only h due]
  · rw [State.setExpire_of_none]
    · congr 1
      exact propext (by omega)
    · intro w hw
      split
      · rw [flows]
        rfl
      · rw [h]
        have key : 4 * (16384 * shard + set) ≠ 4 * (16384 * k + set) + w := by omega
        simp [tabFind, key]

theorem State.flowDue_stepped (s : State) (act : Nat) (x : Flow) : (s.stepped act).flowDue x = s.flowDue x := by
  have frc : (s.stepped act).frc = s.frc := s.get_stepped act _ _ _
  rw [State.flowDue, State.flowDue, State.frcShort, State.frcShort, frc, s.get_stepped, s.get_stepped]

/-! ### Read pointers and batches (R303, R304) -/

theorem State.get_fsReadPtr {s : State} {shard : Nat} (v : BitVec 20) (h : bit (s.get TELE.FLAGS) 2 = false) :
    (s.fsReadPtr shard v.toNat).get TELE.FS_RD_PTR shard =
      if (v.toNat + 2 ^ 20 - s.get TELE.FS_RD_PTR shard) % 2 ^ 20 ≤ s.fsWaiting shard then v.toNat
      else s.get TELE.FS_WR_PTR shard % 2 ^ 20 := by
  unfold State.fsReadPtr
  rw [h, if_neg (by decide)]
  extract_lets step
  have set := s.get_set_self TELE.FS_RD_PTR (if step ≤ s.fsWaiting shard then v.toNat else s.get TELE.FS_WR_PTR shard) shard 0
  refine set.trans ?_
  split
  · exact Nat.mod_eq_of_lt v.isLt
  · rfl

theorem State.batchSend_of_four {s : State} {shard : Nat} (h : bit (s.get TELE.FLAGS) 2 = true)
    (room : s.colRoom (le (s.sect secTele) 0x18 1) = true) (four : 4 ≤ s.fsWaiting shard) :
    s.batchSend shard = (((s.qdrOp 16).tally (64 + shard) evCard).colPush (le (s.sect secTele) 0x18 1)
      (s.cardBytes (le (s.sect secTele) 0x18 1) ((List.range 4).flatMap (fun j =>
        s.memAt (flowAddr shard (s.get TELE.FS_RD_PTR shard + j)) 32)))).fsPop shard 4 := by
  have all : min 4 (s.fsWaiting shard) = 4 := Nat.min_eq_left four
  unfold State.batchSend
  dsimp only
  rw [all, if_pos (by rw [h, room, decide_eq_true four]; rfl)]

/-- Settles O16: flushes, exports, read pointers and batches each do what their rule says. -/
theorem telemetryCommandsTakeEffect : Obligations.TelemetryCommandsTakeEffect := by
  unfold Obligations.TelemetryCommandsTakeEffect
  refine ⟨fun s ho => ⟨_, next_viaHost (f := TELE.FLUSH) ho, s.counterFlush_shows⟩,
    fun s h => ⟨_, congrArg Host.Outcome.next (State.counterFlushDone_of_busy h), State.flushEnded_shows _⟩,
    fun s f e d h hf hc hd => ⟨_, congrArg Host.Outcome.next (anvil_good h hf), ?_⟩,
    fun s f e set x r h hf hx due => ⟨_, congrArg Host.Outcome.next (anvil_good h hf), ?_⟩,
    fun s shard v ho h => ⟨_, next_viaHost (f := TELE.FS_RD_PTR) ho, State.get_fsReadPtr v h⟩,
    fun s u f shard h hf hu hg room four => ?_⟩
  · have same := s.cursor_stepped actFlush
    rw [← same] at hc ⊢
    exact State.flushStep_of_more .clean e.isLt (hd ▸ congrArg TeleSt.deltas ((s.stepped_frame actFlush).same .tele (by decide))) hc
  · have tele : (s.stepped actExport).tele = s.tele := (s.stepped_frame actExport).same .tele (by decide)
    have flows : (s.stepped actExport).tele.flows = [(4 * (16384 * e.val + set.val), x)] := (congrArg TeleSt.flows tele).trans hx
    obtain ⟨none, counted⟩ := State.flowEvict_only r flows
    rw [State.exportStep_only e.isLt flows ((s.flowDue_stepped _ _).trans due)]
    exact ⟨none, counted.trans (by rw [s.get_stepped])⟩
  · subst hu
    exact (congrArg Host.Outcome.next (anvil_good h hf)).trans (congrArg Host.Outcome.next (State.batchSend_of_four hg room four))

end Sys2Proof.Machine
end

section
/-!
Proofs of O14 (R37, R236, R374, R376, R379, R384): the hours count, traps, variants, the module store and the migration of banks.
-/
namespace Sys2Proof.Machine
open Reg

/-! ### The hours count (R37) -/

/-- A word of a routine without a share lets the routine work after its machine check, if there is one. -/
theorem State.anvilOwn_works (s : State) (f : Fetch) : ∃ y : State, Touches [.regs, .flt, .anvil, .buf] s y ∧
    Writes [3844, 3846, 3847, 3849, 3851, 3852, 3853, 3854, 3855, 3856, 3858] s y ∧
    ∀ work : State → State, s.anvilOwn f work = work y := by
  cases h : s.fetched f with
  | runs => exact ⟨s, .refl _ s, .refl _ s, fun work => by rw [State.anvilOwn, h]⟩
  | corrected =>
    exact ⟨s.mcCorrected f.upc.toNat 7, State.mcCorrected_touches (.refl _ s) (by decide) (by decide) (by decide),
      State.mcCorrected_writes (.refl _ s) (by decide), fun work => by rw [State.anvilOwn, h]⟩
  | lost =>
    exact ⟨s.mcFailed f.upc.toNat 7, State.mcFailed_touches (.refl _ s) (by decide) (by decide) (by decide) (by decide),
      State.mcFailed_writes (.refl _ s) (by decide), fun work => by rw [State.anvilOwn, h]⟩

/-- One more hour, committed, with the row of the set point it leads to. -/
def State.hourMore (s : State) (ok : Bool) : State :=
  ((s.set CORE.HOURS (satTo 0xFFFFFFFF (s.get CORE.HOURS + 1))).hoursCommit ok).refreshRow

/-- The time of an hour has been taken off the bank. -/
def State.hourTaken (s : State) : State :=
  { s with pwr := { s.pwr with hoursBank := s.hoursTime - hoursTicks, hoursAt := s.frc } }

theorem State.hoursStep_of_due {s : State} (f : Fetch) (ok : Bool) (hp : s.boot.powered = true) (hf : s.flag PWR.PFAIL = false)
    (h : 450000000000 ≤ s.hoursTime) : s.hoursStep f ok = s.hourTaken.anvilOwn f (fun s => s.hourMore ok) := by
  unfold State.hoursStep
  rw [if_neg]
  · rfl
  · rw [hp, hf, decide_eq_false (show ¬ s.hoursTime < hoursTicks from Nat.not_lt.mpr h)]
    decide

theorem State.hoursStep_of_early {s : State} (f : Fetch) (ok : Bool) (h : s.hoursTime < 450000000000) : s.hoursStep f ok = s := by
  unfold State.hoursStep
  rw [if_pos]
  rw [decide_eq_true (show s.hoursTime < hoursTicks from h), Bool.or_true]

theorem State.hourMore_frame (s : State) (ok : Bool) : Touches [.regs, .dev, .flt, .anvil, .core] s (s.hourMore ok) :=
  State.refreshRow_touches (State.hoursCommit_touches (State.set_touches (.refl _ s) (by decide)) (by decide) (by decide) (by decide)
    (by decide)) (by decide) (by decide)

theorem State.hourMore_writes (s : State) (ok : Bool) :
    Writes [3848, 3868, 6, 7, 8] (s.set CORE.HOURS (satTo 0xFFFFFFFF (s.get CORE.HOURS + 1))) (s.hourMore ok) :=
  State.refreshRow_writes (State.hoursCommit_writes (.refl _ _) (by decide)) (by decide)

theorem State.hourMore_shows {s : State} (ok : Bool) (h : s.get CORE.HOURS + 1 < 2 ^ 32) :
    (s.hourMore ok).get CORE.HOURS = s.get CORE.HOURS + 1 ∧ (s.hourMore ok).frc = s.frc := by
  have w := s.hourMore_writes ok
  refine ⟨?_, (w.get_eq (g := TIME.FRC) (by decide) (by decide)).trans (State.get_set_of_apart (by decide) (by decide))⟩
  rw [w.get_eq (g := CORE.HOURS) (by decide) (by decide), State.get_set_self, satTo_eq, Nat.min_eq_right (Nat.le_of_lt_succ h)]
  exact Nat.mod_eq_of_lt h

theorem State.hoursTime_of_taken {s t : State} (hp : t.pwr = s.hourTaken.pwr) (hf : t.frc = s.frc) :
    t.hoursTime = s.hoursTime - 450000000000 := by
  rw [State.hoursTime, hp, hf]
  exact Nat.add_eq_left.mpr (Nat.sub_self _)

theorem State.hoursStep_shows {s : State} (f : Fetch) (ok : Bool) (hp : s.boot.powered = true) (hf : s.flag PWR.PFAIL = false)
    (h : 450000000000 ≤ s.hoursTime) (room : s.get CORE.HOURS + 1 < 2 ^ 32) :
    (s.hoursStep f ok).get CORE.HOURS = s.get CORE.HOURS + 1 ∧ (s.hoursStep f ok).hoursTime = s.hoursTime - 450000000000 := by
  obtain ⟨y, frame, writes, works⟩ := s.hourTaken.anvilOwn_works f
  rw [State.hoursStep_of_due f ok hp hf h, works]
  have hours : y.get CORE.HOURS = s.get CORE.HOURS := writes.get_eq (g := CORE.HOURS) (by decide) (by decide)
  have frc : y.frc = s.frc := writes.get_eq (g := TIME.FRC) (by decide) (by decide)
  have pwr : y.pwr = s.hourTaken.pwr := frame.same .pwr (by decide)
  rw [← hours] at room ⊢
  obtain ⟨more, kept⟩ := State.hourMore_shows ok room
  exact ⟨more, State.hoursTime_of_taken (Eq.trans ((y.hourMore_frame ok).same .pwr (by decide)) pwr) (kept.trans frc)⟩

/-! ### Traps (R374) and variants (R376) -/

theorem State.anvilOwn_of_runs {s : State} {f : Fetch} (work : State → State) (h : s.fetched f = .runs) :
    s.anvilOwn f work = work s := by rw [State.anvilOwn, h]

/-- The frame of a trap is saved, and the trap is counted. -/
def State.trapFramed (s : State) : State :=
  State.inc { s with anvil := { s.anvil with
    frame := some (s.anvil.upc, s.anvil.work, s.anvil.loops), traps := s.anvil.traps - 1 } } ANVL.TRAPS

theorem State.trapEnter_eq (s : State) (f : Fetch) : s.trapEnter f = s.trapFramed.anvilOwn f (fun s => s) := rfl

theorem State.fetched_trapFramed (s : State) (f : Fetch) : s.trapFramed.fetched f = s.fetched f := rfl

/-- A handler whose fetch is clean counts its trap and leaves the interrupted routine as it was. -/
theorem State.trapServed {s : State} {f : Fetch} (h : s.fetched f = .runs) :
    (s.trapEnter f).trapReturn = State.inc { s with anvil := { s.anvil with frame := none, traps := s.anvil.traps - 1 } } ANVL.TRAPS := by
  rw [State.trapEnter_eq, State.anvilOwn_of_runs _ ((s.fetched_trapFramed f).trans h)]
  rfl

/-- All traps that wait are served in turn. -/
theorem State.trapsServed {f : Fetch} (n : Nat) : ∀ {s : State}, s.fetched f = .runs →
    (iterate (fun s => (State.trapEnter s f).trapReturn) (n + 1) s).get ANVL.TRAPS = satTo (2 ^ 32 - 1) (s.get ANVL.TRAPS + (n + 1)) ∧
      (iterate (fun s => (State.trapEnter s f).trapReturn) (n + 1) s).anvil =
        { s.anvil with frame := none, traps := s.anvil.traps - (n + 1) } := by
  induction n with
  | zero =>
    intro s h
    rw [iterate, iterate, State.trapServed h]
    exact ⟨State.get_inc_self _ _ _ _, rfl⟩
  | succ n ih =>
    intro s h
    have clean : ((s.trapEnter f).trapReturn).fetched f = .runs := by
      rw [State.trapServed h]
      exact h
    obtain ⟨count, anvil⟩ := ih clean
    rw [iterate, count, anvil, State.trapServed h]
    refine ⟨?_, ?_⟩
    · rw [State.get_inc_self]
      simp only [satTo_eq]
      change min (2 ^ 32 - 1) (min (2 ^ 32 - 1) (s.get ANVL.TRAPS + 1) + (n + 1)) = _
      omega
    · rw [State.inc, State.add, State.set_anvil, Nat.sub_sub, Nat.add_comm 1]

theorem State.anvilTrap_shows {s : State} {f : Fetch} (raised : Nat) (hc : s.flag ANVL.PFAIL_COMMIT = false)
    (hp : s.boot.powered = true) (h : s.fetched f = .runs) :
    (s.anvilTrap f raised).get ANVL.TRAPS = satTo (2 ^ 32 - 1) (s.get ANVL.TRAPS + (1 + raised)) ∧
      (s.anvilTrap f raised).anvil = { s.anvil with frame := none, traps := 0 } := by
  have served := State.trapsServed (f := f) raised (s := { s with anvil := { s.anvil with traps := 1 + raised } }) h
  rw [Nat.add_comm raised 1] at served
  unfold State.anvilTrap
  rw [hc, hp, if_neg (by decide)]
  refine ⟨served.1, served.2.trans ?_⟩
  rw [Nat.sub_self]

theorem State.variantSwitch_of_selected {s : State} {r v : Nat} (h : tabFind s.anvil.selected r = some v) :
    s.variantSwitch r = State.set { s with anvil := { s.anvil with selected := tabDel s.anvil.selected r } } ANVL.SELECTED v r := by
  rw [State.variantSwitch, h]

/-! ### The module store (R379, R384) -/

/-- The bytes of a line are kept together. -/
theorem State.storeAt_add (s : State) {off k : Nat} (aligned : off % 64 = 0) (hk : k < 64) : s.storeAt (off + k) = s.storeAt off + k := by
  have line : (off + k) / 64 = off / 64 := by omega
  unfold State.storeAt
  rw [line]
  split
  · omega
  · rfl

theorem padTo_of_length {n : Nat} {l : List Byte} (h : l.length = n) : padTo n l = l := by
  rw [padTo, h, Nat.sub_self, ← h, List.take_length]
  exact List.append_nil l

/-- Where a line is kept is Anvil's to say. -/
theorem State.storeAt_congr {s t : State} (h : t.anvil = s.anvil) (off : Nat) : t.storeAt off = s.storeAt off := by
  rw [State.storeAt, State.storeAt, h]

theorem State.storePut_anvil (s : State) (off : Nat) (line : List Byte) : (s.storePut off line).anvil = s.anvil :=
  (State.set_anvil _ _ _ _ _).trans (State.memStore_anvil _ _ _)

/-- A line that is written as it reads leaves every byte as it was. -/
theorem State.memByte_storePut_read (s : State) {off : Nat} (aligned : off % 64 = 0) (a : Nat) :
    memByte (s.storePut off (s.storeRead off 64)).dev a = memByte s.dev a := by
  have length : (s.storeRead off 64).length = 64 := by simp [State.storeRead]
  have padded : padTo 64 (s.storeRead off 64) = s.storeRead off 64 := padTo_of_length length
  rw [State.storePut, State.inc, State.add, State.set_dev, State.memStore_dev, memByte_memStore, padded, length]
  split
  · next h =>
    obtain ⟨low, high⟩ := h
    have at_ := s.storeAt_add aligned (k := a - (storeBase + s.storeAt off)) (by omega)
    have here : storeBase + s.storeAt (off + (a - (storeBase + s.storeAt off))) = a := by omega
    simp [State.storeRead, show a - (storeBase + s.storeAt off) < 64 by omega, here]
  · rfl

/-- With no injection armed, a write leaves no inverted bits in what it writes. -/
theorem State.injAt_memStore {s : State} (h : s.flt.injMem = []) (a : Nat) (l : List Byte) : (s.memStore a l).injAt a l.length = 0 := by
  have zero (t : List (Nat × Nat)) : (t.filter (fun h => !(decide (a ≤ h.1) && decide (h.1 < a + l.length)))).foldl
      (fun k h => if a ≤ h.1 && h.1 < a + l.length then max k h.2 else k) 0 = 0 := by
    induction t with
    | nil => rfl
    | cons x t ih =>
      by_cases hx : (decide (a ≤ x.1) && decide (x.1 < a + l.length)) = true
      · rw [List.filter_cons_of_neg (by simp [hx]), ih]
      · rw [List.filter_cons_of_pos (by simp [hx]), List.foldl_cons, if_neg (by simpa using hx), ih]
  unfold State.memStore State.injTake
  split
  · next none =>
    rw [Bool.and_eq_true, List.isEmpty_iff, List.isEmpty_iff] at none
    simp [State.injAt, none.2]
  · rw [h]
    simp only [State.injAt, List.filter_nil, List.map_nil, List.append_nil]
    exact zero s.flt.injHit

/-- A line that reads back is written once. -/
theorem State.storeWrite_of_clean {s : State} {off : Nat} (line : List Byte) (aligned : off % 64 = 0) (h : s.flt.injMem = [])
    (length : line.length = 64) : (s.storeWrite off line true).1 = s.storePut off line := by
  have back : (s.storePut off line).readsBack off = true := by
    have clean := State.injAt_memStore h (storeBase + s.storeAt off) line
    rw [length] at clean
    rw [State.readsBack, show off / 64 * 64 = off by omega, State.storeAt_congr (s.storePut_anvil off line), State.storePut,
      padTo_of_length length]
    exact beq_iff_eq.mpr clean
  unfold State.storeWrite
  rw [h]
  simp only [List.length_nil, Nat.add_zero, if_true]
  rw [State.storeSettle, if_pos back]

theorem State.wearLevel_shows {s : State} (line : Nat) (h : s.flt.injMem = []) :
    ((s.storeWrite (64 * line) (s.storeRead (64 * line) 64) true).1).get ANVL.MS_WRITES =
        satTo (2 ^ 32 - 1) (s.get ANVL.MS_WRITES + 1) ∧
      ∀ a, memByte (s.storeWrite (64 * line) (s.storeRead (64 * line) 64) true).1.dev a = memByte s.dev a := by
  have aligned : 64 * line % 64 = 0 := by omega
  rw [State.storeWrite_of_clean _ aligned h (by simp [State.storeRead])]
  refine ⟨(State.get_inc_self _ _ _ _).trans ?_, s.memByte_storePut_read aligned⟩
  rw [State.get_congr_regs (State.memStore_regs _ _ _)]
  rfl

/-! ### Steps that are lost or not given (R375, R379) -/

theorem State.fetched_stepTake (s : State) (act : Nat) (f : Fetch) : (s.stepTake act).fetched f = s.fetched f := by
  unfold State.stepTake
  dsimp only
  split <;> rfl

theorem State.anvilStep_of_lost {s : State} {act : Nat} {f : Fetch} (work : State → State) (h : AnvilRuns s act) (lost : s.fetched f = .lost) :
    s.anvilStep act f work = (s.stepTake act).mcFailed f.upc.toNat act := by
  obtain ⟨run, commit, power, granted⟩ := h
  unfold State.anvilStep
  rw [run, commit, power, granted, if_neg (by decide)]
  dsimp only
  rw [s.fetched_stepTake, lost]

theorem State.anvilStep_of_barred {s : State} {act : Nat} (f : Fetch) (work : State → State)
    (h : s.bitOf ANVL.ACT_HALTED act = true ∨ s.flag ANVL.PFAIL_COMMIT = true ∨ s.stepGranted act = false) :
    s.anvilStep act f work = s := by
  unfold State.anvilStep
  refine if_pos ?_
  obtain h | h | h := h <;> simp [h]

/-! ### The migration of banks (R236) -/

theorem State.buf_stepped (s : State) (act : Nat) : (s.stepped act).buf = s.buf := (s.stepped_frame act).same .buf (by decide)

theorem State.migrateCmd_of_free {s : State} {b : Nat} (hb : b < 2304) (cur : s.buf.mig.cur = none) (queue : s.buf.mig.queue = [])
    (failing : s.buf.mig.failing = []) (spare : s.sparesLeft ≠ 0) :
    s.migrateCmd b = { s with buf := { s.buf with mig := { s.buf.mig with queue := [(b, false)] } } } := by
  unfold State.migrateCmd State.migTrigger
  simp [hb, cur, queue, failing, spare]

/-- The front of the queue moves to spare `k`. -/
theorem State.migStart_of_free {s : State} {b k : Nat} {own : Bool} {rest : List (Nat × Bool)} (cur : s.buf.mig.cur = none)
    (queue : s.buf.mig.queue = (b, own) :: rest) (free : s.freeSpare = some k) :
    s.migStart = (State.set { s with buf := { s.buf with mig := { s.buf.mig with queue := rest, cur := some (b, k, 0) } } }
      CRUC.MS_BANK b).setB CRUC.MS_ACTIVE true := by
  have same : (State.freeSpare { s with buf := { s.buf with mig := { s.buf.mig with queue := rest } } }) = some k := free
  unfold State.migStart
  rw [cur, queue]
  dsimp only at same ⊢
  rw [same]

theorem State.migRow_of_left {s : State} {b k r : Nat} (cur : s.buf.mig.cur = some (b, k, r)) (h : r < 8192) :
    s.migRow = { s with buf := { s.buf with mig := { s.buf.mig with cur := some (b, k, r + 1) } } } := by
  unfold State.migRow
  rw [cur]
  exact if_pos h

/-- The spare stands for the bank in the spare map. -/
def State.spareTaken (s : State) (b k : Nat) : State :=
  (State.setB (State.set { s with buf := { s.buf with mig := { s.buf.mig with cur := none, ce := tabDel s.buf.mig.ce b } } }
    CRUC.SM_REPLACES b k) CRUC.SM_USED true k).flipsDrop b

/-- The migration is reported as done. -/
def State.migShown (s : State) : State := (s.setB CRUC.MS_ACTIVE false).event CRUC.MS_DONE 0 true sumCruc

theorem State.migDone_of_copied {s : State} {b k r : Nat} (ok : Bool) (cur : s.buf.mig.cur = some (b, k, r)) (h : 8192 ≤ r) :
    s.migDone ok = ((s.spareTaken b k).storeWrite (0x0E003000 + 64 * k) (storeLine 4 0 (leBytes 2 b)) ok).1.migShown := by
  unfold State.migDone
  rw [cur]
  exact if_neg (Nat.not_lt.mpr h)

theorem State.regs_flipsDrop (s : State) (b : Nat) : (s.flipsDrop b).regs = s.regs := rfl

theorem State.cur_spareTaken (s : State) (b k : Nat) : (s.spareTaken b k).buf.mig.cur = none := rfl

theorem State.spareTaken_shows (s : State) (b : Nat) {k : Nat} (hk : k < 64) :
    (s.spareTaken b k).get CRUC.SM_REPLACES k = b % 2 ^ 12 ∧ (s.spareTaken b k).flag CRUC.SM_USED k = true := by
  unfold State.spareTaken
  rw [State.flag, State.get_congr_regs (State.regs_flipsDrop _ b), State.get_congr_regs (State.regs_flipsDrop _ b)]
  refine ⟨?_, State.flag_setB_self _ CRUC.SM_USED true k 0 (by decide)⟩
  exact (State.get_set_of_apart (by decide) ⟨hk, by decide⟩).trans (State.get_set_self _ CRUC.SM_REPLACES _ _ _)

theorem State.migShown_writes (s : State) : Writes [2340, 2341, 4907] s s.migShown :=
  State.event_writes ⟨2341, by decide, rfl⟩ (State.setB_writes ⟨2340, by decide, rfl⟩ (.refl _ s)) (by decide)

theorem State.migShown_shows (s : State) : s.migShown.flag CRUC.MS_ACTIVE = false ∧ s.migShown.flag CRUC.MS_DONE = true := by
  unfold State.migShown
  refine ⟨?_, State.flag_event_self (by decide) (by decide)⟩
  rw [State.flag, State.get_event_of_ne (by decide) (by decide)]
  exact State.flag_setB_self s CRUC.MS_ACTIVE false 0 0 (by decide)

theorem State.migDone_shows {s : State} {b k r : Nat} (ok : Bool) (cur : s.buf.mig.cur = some (b, k, r)) (h : 8192 ≤ r) (hk : k < 64) :
    (s.migDone ok).get CRUC.SM_REPLACES k = b % 2 ^ 12 ∧ (s.migDone ok).flag CRUC.SM_USED k = true ∧
      (s.migDone ok).flag CRUC.MS_ACTIVE = false ∧ (s.migDone ok).flag CRUC.MS_DONE = true ∧ (s.migDone ok).buf.mig.cur = none := by
  rw [State.migDone_of_copied ok cur h]
  obtain ⟨replaces, used⟩ := s.spareTaken_shows b hk
  have gone := s.cur_spareTaken b k
  generalize s.spareTaken b k = x at replaces used gone ⊢
  have writes : Writes [2340, 2341, 3848, 3868, 4907] x (x.storeWrite (0x0E003000 + 64 * k) (storeLine 4 0 (leBytes 2 b)) ok).1 :=
    State.storeWrite_writes (.refl _ x) (by decide)
  have frame : Touches [.regs, .dev, .flt, .anvil] x (x.storeWrite (0x0E003000 + 64 * k) (storeLine 4 0 (leBytes 2 b)) ok).1 :=
    State.storeWrite_touches (.refl _ x) (by decide) (by decide) (by decide) (by decide)
  generalize (x.storeWrite (0x0E003000 + 64 * k) (storeLine 4 0 (leBytes 2 b)) ok).1 = y at writes frame ⊢
  have all := writes.trans (y.migShown_writes.widen (by decide))
  have shown : Touches [.regs, .outbox, .host] y y.migShown :=
    State.event_touches (State.setB_touches (.refl _ y) (by decide)) (by decide) (by decide) (by decide)
  obtain ⟨active, done⟩ := y.migShown_shows
  refine ⟨(all.get_eq (by decide) ⟨hk, by decide⟩).trans replaces, (all.flag_eq (by decide) ⟨hk, by decide⟩).trans used, active, done, ?_⟩
  have buf : y.migShown.buf = x.buf := Eq.trans (shown.same .buf (by decide)) (frame.same .buf (by decide))
  rw [buf, gone]

/-- Settles O14: hours, traps, variants, the module store and migrations each do what their rule says. -/
theorem anvilCommandsTakeEffect : Obligations.AnvilCommandsTakeEffect := by
  unfold Obligations.AnvilCommandsTakeEffect
  refine ⟨fun s f ok hp hf h room => ⟨_, rfl, State.hoursStep_shows f ok hp hf h room⟩,
    fun s f ok h => congrArg Host.Outcome.next (State.hoursStep_of_early f ok h),
    fun s f raised hc hp h => ⟨_, rfl, State.anvilTrap_shows raised.toNat hc hp h⟩,
    fun s f raised h => congrArg Host.Outcome.next (if_pos (by rw [h]; rfl)),
    fun s r v h => congrArg Host.Outcome.next (State.variantSwitch_of_selected h),
    fun s f line h hf none => ⟨_, congrArg Host.Outcome.next (anvil_good h hf), ?_⟩,
    fun s f line ok h lost => congrArg Host.Outcome.next (State.anvilStep_of_lost _ h lost),
    fun s f line ok h => congrArg Host.Outcome.next (State.anvilStep_of_barred _ _ h),
    fun s b ho hb cur queue failing spare =>
      (next_viaHost (f := CRUC.MC_GO) ho).trans (congrArg Host.Outcome.next (State.migrateCmd_of_free hb cur queue failing spare)),
    fun s f b k own rest h hf cur queue free => ?_,
    fun s f b k r h hf cur left => ?_,
    fun s f b k r h hf cur copied hk => ⟨_, congrArg Host.Outcome.next (anvil_good h hf), ?_⟩⟩
  · obtain ⟨writes, bytes⟩ := State.wearLevel_shows (s := s.stepped actWear) line.toNat
      ((congrArg FltSt.injMem ((s.stepped_frame actWear).same .flt (by decide))).trans none)
    have dev : (s.stepped actWear).dev = s.dev := (s.stepped_frame actWear).same .dev (by decide)
    exact ⟨writes.trans (by rw [s.get_stepped]), fun a => (bytes a).trans (by rw [dev])⟩
  · refine (congrArg Host.Outcome.next (anvil_good h hf)).trans (congrArg Host.Outcome.next ?_)
    have buf := s.buf_stepped actMigration
    rw [State.migStart_of_free (by rw [buf, cur]) (by rw [buf, queue]) ?_, buf]
    have spares : (s.stepped actMigration).freeSpare = s.freeSpare := by
      simp only [State.freeSpare, State.flag, s.get_stepped]
    exact spares.trans free
  · refine (congrArg Host.Outcome.next (anvil_good h hf)).trans (congrArg Host.Outcome.next ?_)
    have buf := s.buf_stepped actMigration
    rw [State.migRow_of_left (by rw [buf, cur]) left, buf]
  · exact State.migDone_shows true (by rw [s.buf_stepped, cur]) copied hk

end Sys2Proof.Machine
end

section
/-!
Proofs of O30 (R61, R64, R67, R72, R77): image commands that start, end and are aborted, and the retirement of an epoch.
-/
namespace Sys2Proof.Machine
open Reg

/-! ### Commands that start (R61, R77) -/

theorem State.imgStart_shows (s : State) {op act : Nat} (bank : Nat) (hop : op < 16) (hact : act < 8) :
    (s.imgStart op bank act).get IMG.RESULT = resRunning ∧ (s.imgStart op bank act).get IMG.LAST_OPCODE = op ∧
      (s.imgStart op bank act).get IMG.ACTIVITY = act := by
  unfold State.imgStart
  refine ⟨?_, ?_, ?_⟩
  · rw [State.get_set_of_apart (by decide) (by decide), State.get_set_of_apart (by decide) (by decide),
      State.get_set_of_apart (by decide) (by decide), State.get_set_of_apart (by decide) (by decide), State.get_set_self]
    rfl
  · rw [State.get_set_of_apart (by decide) (by decide), State.get_set_self]
    exact Nat.mod_eq_of_lt hop
  · rw [State.get_set_self]
    exact Nat.mod_eq_of_lt (Nat.lt_of_lt_of_le hact (by decide))

theorem State.img_imgStart (s : State) (op bank act : Nat) :
    (s.imgStart op bank act).img.cmd = some ⟨op, bank, .verifying, s.frc⟩ := rfl

theorem State.imgCommand_of_accepted {s : State} {op bank : Nat} (ok : Bool) (h : s.imgRefusal op bank = none) :
    s.imgCommand op bank ok =
      (s.imgStart op bank (startActivity op)).when (op == opWriteBank) (fun s => s.bankInvalidate bank ok) := by
  rw [State.imgCommand, h]

/-- A command that is not refused runs and shows what it does. -/
theorem State.imgCommand_shows {s : State} {op bank : Nat} (ok : Bool) (h : s.imgRefusal op bank = none) (hop : op < 16)
    (hact : startActivity op < 8) : (s.imgCommand op bank ok).img.cmd = some ⟨op, bank, .verifying, s.frc⟩ ∧
      (s.imgCommand op bank ok).get IMG.RESULT = resRunning ∧ (s.imgCommand op bank ok).get IMG.LAST_OPCODE = op ∧
      (s.imgCommand op bank ok).get IMG.ACTIVITY = startActivity op := by
  rw [State.imgCommand_of_accepted ok h]
  obtain ⟨result, last, activity⟩ := s.imgStart_shows bank hop hact
  have cmd := s.img_imgStart op bank (startActivity op)
  generalize s.imgStart op bank (startActivity op) = x at result last activity cmd ⊢
  have writes : Writes [274, 275, 276, 277, 3848, 3868] x (x.when (op == opWriteBank) fun s => s.bankInvalidate bank ok) :=
    State.when_writes (fun y hy => State.bankInvalidate_writes hy (by decide)) (.refl _ x)
  have frame : Touches [.regs, .dev, .flt, .anvil] x (x.when (op == opWriteBank) fun s => s.bankInvalidate bank ok) :=
    State.when_touches (fun y hy => State.bankInvalidate_touches hy (by decide) (by decide) (by decide) (by decide)) (.refl _ x)
  exact ⟨(congrArg ImgSt.cmd (frame.same .img (by decide))).trans cmd, (writes.get_eq (by decide) (by decide)).trans result,
    (writes.get_eq (by decide) (by decide)).trans last, (writes.get_eq (by decide) (by decide)).trans activity⟩

/-! ### Commands that end (R64, R77) -/

theorem State.imgEnd_of_running {s : State} {c : ImgCmd} (f : VFail) (h : s.img.cmd = some c) (hc : c.op ≠ 0) :
    s.imgEnd f = (State.set { s with img := { s.img with cmd := none } } IMG.ACTIVITY 0).imgReport c.op f := by
  unfold State.imgEnd
  rw [h]
  exact if_neg hc

/-- The end of a host's command reports its result. -/
theorem State.imgEnd_shows {s : State} {c : ImgCmd} (f : VFail) (h : s.img.cmd = some c) (hc : c.op ≠ 0) :
    (s.imgEnd f).img.cmd = none ∧ (s.imgEnd f).get IMG.RESULT = f.code % 2 ^ 8 ∧ (s.imgEnd f).get IMG.LAST_OPCODE = c.op % 16 ∧
      (s.imgEnd f).get IMG.ACTIVITY = 0 ∧ (s.imgEnd f).flag IMG.CMD_DONE = true := by
  refine ⟨congrArg ImgSt.cmd (State.img_imgEnd f h), ?_⟩
  rw [State.imgEnd_of_running f h hc]
  refine ⟨State.get_RESULT_imgReport _ _ _, State.get_LAST_OPCODE_imgReport _ _ _, ?_, State.flag_CMD_DONE_imgReport _ _ _⟩
  exact ((State.imgReport_writes (.refl _ _) (List.Subset.refl _)).get_eq (by decide) (by decide)).trans (State.get_set_self _ IMG.ACTIVITY _ _ _)

/-- What an update leaves written leaves the running command as it was. -/
theorem State.swapPartial_frame (s : State) (v : VImage) : Touches [.dev, .draws, .flt, .pipe] s (s.swapPartial v) :=
  Touches.foldl (fun _ _ hy => State.ruleWrite_touches hy (by decide) (by decide) (by decide)) (State.draw_touches (.refl _ s) (by decide))

theorem State.img_imgCut (s : State) (c : ImgCmd) (bytes : List Byte) : (s.imgCut c bytes).img = s.img := by
  unfold State.imgCut
  split
  · rfl
  split
  · exact (State.bankLines_touches (ps := [.regs, .dev, .flt, .anvil]) (.refl _ s) (by decide) (by decide) (by decide) (by decide)).same .img
      (by decide)
  split
  · exact (s.swapPartial_frame _).same .img (by decide)
  · rfl

theorem State.imgAbort_of_running {s : State} {c : ImgCmd} (bytes : List Byte) (h : s.img.cmd = some c) (hc : c.op ≠ 0)
    (hp : c.phase ≠ .configuring) :
    s.imgAbort bytes = (s.imgCut c (bytes.take (s.get IMG.SRC_LEN - 1))).imgEnd { code := resAborted } := by
  unfold State.imgAbort
  rw [h]
  exact if_neg (by simp [hc, hp])

/-- LOAD_HOST that fails its checks, and VERIFY_BANK however it ends, report what the checks say. -/
theorem State.imgVerified_of_verifying {s : State} {c : ImgCmd} (bytes : List Byte) (cut : Bool) (bad : Option Nat)
    (h : s.img.cmd = some c) (hp : c.phase = .verifying) (live : s.live = true) :
    s.imgVerified bytes cut bad = s.imgJudge c (s.imgSource c bytes cut) bad := by
  unfold State.imgVerified
  rw [h]
  exact if_pos (by rw [hp, live]; rfl)

theorem State.imgJudge_of_failedLoad {s u : State} {c : ImgCmd} {v : VImage} {f : VFail} (bad : Option Nat) (hop : c.op = opLoadHost)
    (hu : u = s.set IMG.VERIFY_US (satTo 0xFFFF ((s.frc - c.at_) / 1250))) (hv : u.verify v true = .inl f) :
    s.imgJudge c v bad = u.imgEnd f := by
  subst hu
  unfold State.imgJudge
  dsimp only
  rw [hop, if_neg (by decide)]
  change (match (s.set IMG.VERIFY_US (satTo 0xFFFF ((s.frc - c.at_) / 1250))).verify v true with | .inl f => _ | .inr x => _) = _
  rw [hv]
  rfl

theorem State.imgJudge_of_verifyBank {s u : State} {c : ImgCmd} (v : VImage) (bad : Option Nat) (hop : c.op = opVerifyBank)
    (hu : u = s.set IMG.VERIFY_US (satTo 0xFFFF ((s.frc - c.at_) / 1250))) :
    s.imgJudge c v bad = match u.verify v false with | .inl f => u.imgEnd f | .inr _ => u.imgEnd { code := resOk } := by
  subst hu
  unfold State.imgJudge
  dsimp only
  rw [hop, if_neg (by decide)]
  change (match (s.set IMG.VERIFY_US (satTo 0xFFFF ((s.frc - c.at_) / 1250))).verify v false with | .inl f => _ | .inr x => _) = _
  split <;> rfl

/-- VERIFY_BANK ends with the result of its checks. -/
theorem State.verifyBank_shows {s u : State} {c : ImgCmd} (v : VImage) (bad : Option Nat) (h : s.img.cmd = some c)
    (hop : c.op = opVerifyBank) (hu : u = s.set IMG.VERIFY_US (satTo 0xFFFF ((s.frc - c.at_) / 1250))) :
    (s.imgJudge c v bad).img.cmd = none ∧
      (s.imgJudge c v bad).get IMG.RESULT = (match u.verify v false with | .inl f => f.code % 2 ^ 8 | .inr _ => resOk) ∧
      (s.imgJudge c v bad).get IMG.LAST_OPCODE = opVerifyBank ∧ (s.imgJudge c v bad).flag IMG.CMD_DONE = true := by
  have ended (f : VFail) := State.imgEnd_shows (s := u) f (show u.img.cmd = some c by rw [hu]; exact h) (by rw [hop]; decide)
  rw [hop] at ended
  rw [State.imgJudge_of_verifyBank v bad hop hu]
  split
  · next f _ =>
    obtain ⟨cmd, result, last, -, done⟩ := ended f
    exact ⟨cmd, result, last, done⟩
  · obtain ⟨cmd, result, last, -, done⟩ := ended { code := resOk }
    exact ⟨cmd, result, last, done⟩

/-- The commit record of the bank that has been written (R64 step 4). -/
def State.writtenRec (s : State) : CommitRec :=
  { valid := true, length := s.img.nextLen, seq := (max (s.commitRec 0).seq (s.commitRec 1).seq + 1) % 2 ^ 32, digest := s.img.nextDigest }

theorem State.bankCommit_of_written {s : State} {c : ImgCmd} (ok : Bool) (h : s.img.cmd = some c) (hp : c.phase = .bankWritten) :
    s.bankCommit ok = (s.commitWrite c.bank s.writtenRec ok).imgEnd { code := resOk } := by
  unfold State.bankCommit
  rw [h]
  exact if_pos (by rw [hp]; rfl)

theorem State.commitWrite_frame (s : State) (bank : Nat) (c : CommitRec) (ok : Bool) :
    Touches [.regs, .dev, .flt, .anvil] s (s.commitWrite bank c ok) :=
  State.commitWrite_touches (.refl _ s) (by decide) (by decide) (by decide) (by decide)

/-! ### Retirement (R72) -/

theorem State.epochRetired_shows (s : State) : s.epochRetired.flag IMG.RETIRING = false ∧ s.epochRetired.flag IMG.RETIRED = true := by
  unfold State.epochRetired
  refine ⟨?_, State.flag_event_self (by decide) (by decide)⟩
  rw [State.flag, State.get_event_of_ne (by decide) (by decide)]
  exact State.flag_setB_self s IMG.RETIRING false 0 0 (by decide)

theorem State.retireOverdue_of_late {s : State} (h : s.flag IMG.RETIRING = true) (first : s.img.overdue = false)
    (late : s.img.flipAt + s.get IMG.RETIRE_TIMEOUT * 1250000 ≤ s.frc) :
    s.retireOverdue = (State.setB { s with img := { s.img with overdue := true } } IMG.RETIRE_OVERDUE true).fault srcRetire := by
  unfold State.retireOverdue
  refine if_pos ?_
  rw [h, first, show s.elapsed s.img.flipAt (s.get IMG.RETIRE_TIMEOUT * ticksPerMs) = true from decide_eq_true late]
  rfl

/-- What is left of the old epoch is discarded. -/
def State.epochDiscards (s : State) : Nat × State :=
  s.discardWhere (fun k => (s.getStore k.h).epoch == s.oldEpoch) (fun i => i.epoch == s.oldEpoch)

theorem State.retireForce_of_retiring {s : State} (h : s.flag IMG.RETIRING = true) :
    s.retireForce = ((s.epochDiscards.2.add IMG.RETIRE_DISCARDS s.epochDiscards.1).epochRetired).xoffEval := if_pos h

theorem State.retireForce_shows {s : State} (h : s.flag IMG.RETIRING = true) :
    s.retireForce.flag IMG.RETIRING = false ∧ s.retireForce.flag IMG.RETIRED = true := by
  rw [State.retireForce_of_retiring h]
  obtain ⟨retiring, retired⟩ := (s.epochDiscards.2.add IMG.RETIRE_DISCARDS s.epochDiscards.1).epochRetired_shows
  generalize (s.epochDiscards.2.add IMG.RETIRE_DISCARDS s.epochDiscards.1).epochRetired = x at retiring retired ⊢
  have writes := State.xoffEval_writes (.refl _ x) (List.Subset.refl _)
  exact ⟨(writes.flag_eq (by decide) (by decide)).trans retiring, (writes.flag_eq (by decide) (by decide)).trans retired⟩

/-- Settles O30: image commands and epochs each do what their rule says. -/
theorem imageCommandsTakeEffect : Obligations.ImageCommandsTakeEffect := by
  unfold Obligations.ImageCommandsTakeEffect
  refine ⟨fun s b ho h => ⟨_, next_viaHost ho, State.imgCommand_shows true h (by decide) (by decide)⟩,
    fun s ho h => ⟨_, next_viaHost (f := IMG.OPCODE) ho, State.imgCommand_shows true h (by decide) (by decide)⟩,
    fun s b ok ho h => ⟨_, next_viaHost ho, State.imgCommand_shows ok h (by decide) (by decide)⟩,
    fun s b ho h => ⟨_, next_viaHost ho, State.imgCommand_shows true h (by decide) (by decide)⟩,
    fun s ho h => ⟨_, next_viaHost (f := IMG.OPCODE) ho, State.imgCommand_shows true h (by decide) (by decide)⟩,
    fun s c bytes ho h hop hp => ⟨_, next_viaHost (f := IMG.OPCODE) ho, ?_⟩,
    fun s u c bytes f h hp hop live hu hv => ⟨_, rfl, ?_⟩,
    fun s u c bytes h hp hop live hu => ⟨_, rfl, ?_⟩,
    fun s c ok h hp hop => ⟨_, rfl, ?_⟩,
    fun s h none => ⟨_, rfl, ?_⟩,
    fun s h first late => ⟨_, congrArg Host.Outcome.next (State.retireOverdue_of_late h first late), ?_, rfl, State.flt_fault_congr rfl⟩,
    fun s ho h => ⟨_, next_viaHost (f := IMG.RETIRE_FORCE) ho, State.retireForce_shows h⟩⟩
  · rw [State.imgAbort_of_running bytes h hop hp]
    exact State.imgEnd_shows _ ((congrArg ImgSt.cmd (s.img_imgCut _ _)).trans h) hop
  · have fetches : s.imgFetching = true := by simp [State.imgFetching, h, hp, hop]
    rw [State.when, fetches, if_pos rfl, State.imgVerified_of_verifying _ _ _ h hp live, State.imgJudge_of_failedLoad _ hop hu hv]
    obtain ⟨cmd, result, last, -, done⟩ := State.imgEnd_shows (s := u) f (show u.img.cmd = some c by rw [hu]; exact h) (by rw [hop]; decide)
    rw [hop] at last
    exact ⟨cmd, result, last, done⟩
  · rw [Option.map_none]
    rw [State.imgVerified_of_verifying _ _ _ h hp live]
    exact State.verifyBank_shows _ _ h hop hu
  · rw [State.bankCommit_of_written ok h hp]
    obtain ⟨cmd, result, -, -, done⟩ := State.imgEnd_shows { code := resOk }
      ((congrArg ImgSt.cmd ((s.commitWrite_frame c.bank s.writtenRec ok).same .img (by decide))).trans h) hop
    exact ⟨cmd, result, done⟩
  · rw [State.when, if_pos (by rw [h, none]; rfl)]
    exact s.epochRetired_shows
  · exact State.flag_setB_self _ IMG.RETIRE_OVERDUE true 0 0 (by decide)

end Sys2Proof.Machine
end

section
/-!
Proofs of O26 (R94 to R99): pause frames received and sent, their timers, and the storm guard.
-/
namespace Sys2Proof.Machine
open Reg

/-! ### Pause frames received (R94, R96) -/

theorem State.pauseOf_putPause_self (s : State) (p q : Nat) (x : Pause) : (s.putPause p q x).pauseOf p q = x :=
  tabGet_tabPut_self _ _ _ _

theorem State.pauseOf_putPause_of_ne {p q r : Nat} (s : State) (x : Pause) (h : r ≠ q) : (s.putPause p q x).pauseOf p r = s.pauseOf p r :=
  tabGet_tabPut_of_ne _ _ _ _ _ (by omega)

/-- The timer of a priority is loaded with quanta. -/
def State.pauseLoaded (s : State) (p q n : Nat) : State :=
  s.putPause p q { s.pauseOf p q with
    until_ := some (s.frc + s.quantaTicks p n), since := if s.rxPaused p q then (s.pauseOf p q).since else s.frc }

theorem State.pauseLoad_of_quanta {s : State} {p q n : Nat} (h : n ≠ 0) : s.pauseLoad p q n = s.pauseLoaded p q n := if_neg h

/-- A port's rate is in the image that runs. -/
theorem State.portRate_congr {s t : State} (h : t.img = s.img) (p : Nat) : t.portRate p = s.portRate p := by
  unfold State.portRate State.lanesOf State.desc State.sect
  rw [h]

/-- All eight timers of a port are loaded alike. -/
theorem State.pauseLoads_until (s : State) (p : Nat) {n : Nat} (h : n ≠ 0) {q : Nat} (hq : q < 8) :
    ((upTo 8 (fun q s => s.pauseLoad p q n) s).pauseOf p q).until_ = some (s.frc + s.quantaTicks p n) := by
  have all := upTo_induct (n := 8) (f := fun q (y : State) => y.pauseLoad p q n) (x := s)
    (P := fun k (y : State) => y.regs = s.regs ∧ y.img = s.img ∧
      ∀ q, q < k → (y.pauseOf p q).until_ = some (s.frc + s.quantaTicks p n))
    ⟨rfl, rfl, fun _ hq => absurd hq (Nat.not_lt_zero _)⟩ (fun k y _ ih => ?_)
  · exact all.2.2 q hq
  obtain ⟨regs, img, loaded⟩ := ih
  have frc : y.frc = s.frc := State.get_congr_regs regs _ _ _
  have ticks : y.quantaTicks p n = s.quantaTicks p n := by
    rw [State.quantaTicks, State.quantaTicks, State.portRate_congr img]
  rw [State.pauseLoad_of_quanta h]
  refine ⟨regs, img, fun q hq => ?_⟩
  rw [State.pauseLoaded]
  by_cases e : q = k
  · subst e
    rw [State.pauseOf_putPause_self, frc, ticks]
  · rw [State.pauseOf_putPause_of_ne y _ e]
    exact loaded q (by omega)

theorem State.pauseRx_of_link {s : State} {p v : Nat} {quanta : Nat → Nat} (h : s.get PORT.FC_MODE p = 2) (h0 : quanta 0 ≠ 0) :
    s.pauseRx p false v quanta = upTo 8 (fun q s => s.pauseLoad p q (quanta 0)) (s.inc PORT.PAUSE_RX p) := by
  unfold State.pauseRx
  rw [h]
  dsimp only
  rw [if_neg (by decide), if_neg (by decide), if_neg h0]

theorem State.pauseRx_shows {s : State} {p v : Nat} {quanta : Nat → Nat} (h : s.get PORT.FC_MODE p = 2)
    (h0 : quanta 0 ≠ 0) {q : Nat} (hq : q < 8) :
    (((s.bwCount p 0 64).pauseRx p false v quanta).pauseOf p q).until_ = some (s.frc + s.quantaTicks p (quanta 0)) := by
  rw [State.pauseRx_of_link (s := s.bwCount p 0 64) h h0, State.pauseLoads_until _ _ h0 hq]
  have frc : ((s.bwCount p 0 64).inc PORT.PAUSE_RX p).frc = s.frc := State.get_set_of_apart (f := PORT.PAUSE_RX) (by decide) (by decide)
  rw [frc]
  rfl

theorem State.pauseExpire_of_past {s : State} {p q t : Nat} (h : (s.pauseOf p q).until_ = some t) (past : t ≤ s.frc) :
    s.pauseExpire p q = s.putPause p q { s.pauseOf p q with until_ := none, clearAt := t } := by
  unfold State.pauseExpire
  dsimp only
  rw [h]
  exact if_pos past

theorem State.rxPaused_of_none {s : State} {p q : Nat} (h : (s.pauseOf p q).until_ = none) : s.rxPaused p q = false := by
  rw [State.rxPaused, h]

/-! ### Pause frames sent (R95) -/

/-- The link-level pause frame that a port sends as things stand. -/
def State.linkPause (s : State) (p : Nat) : List Byte :=
  s.pauseFrame p (beBytes 2 1 ++ beBytes 2 (if s.assertedMask p = 0 then 0 else s.get PORT.XOFF_QUANTA p))

theorem State.pauseStamp_frame (s : State) (p : Nat) : Touches [.buf] s (s.pauseStamp p) := State.pauseStamp_touches (.refl _ s) (by decide)

theorem State.pauseDue_pauseStamp (s : State) (p : Nat) : (s.pauseStamp p).buf.pauseDue = s.buf.pauseDue := by
  unfold State.pauseStamp
  refine upTo_keeps (fun y : State => y.buf.pauseDue = s.buf.pauseDue) 8 _ s (fun k y hy => ?_) rfl
  exact State.when_cases (P := fun y : State => y.buf.pauseDue = s.buf.pauseDue) y _ _ hy fun _ => hy

/-- The frame is sent, its bytes counted, and the announcement of the asserted priorities noted. -/
def State.pauseSent (s : State) (p : Nat) (f : List Byte) : State := ((s.emit (.pause p f)).bwCount p 1 f.length).pauseStamp p

theorem State.outbox_pauseSent (s : State) (p : Nat) (f : List Byte) : (s.pauseSent p f).outbox = s.outbox ++ [.pause p f] :=
  (State.pauseStamp_frame _ p).same .outbox (by decide)

theorem State.pauseDue_pauseSent (s : State) (p : Nat) (f : List Byte) : (s.pauseSent p f).buf.pauseDue = s.buf.pauseDue := by
  rw [State.pauseSent, State.pauseDue_pauseStamp]
  rfl

theorem State.pauseSend_of_link {s : State} {p : Nat} (h : s.get PORT.FC_MODE p = 2) : ∃ f : Fld,
    s.pauseSend p = (s.pauseSent p (s.linkPause p)).inc f p := by
  unfold State.pauseSend
  rw [h]
  exact ⟨_, rfl⟩

theorem State.pauseSend_shows {s : State} {p : Nat} (h : s.get PORT.FC_MODE p = 2) :
    (s.pauseSend p).outbox = s.outbox ++ [.pause p (s.linkPause p)] ∧ (s.pauseSend p).buf.pauseDue = s.buf.pauseDue := by
  obtain ⟨f, sent⟩ := State.pauseSend_of_link h
  rw [sent, State.inc, State.add, State.set_outbox, State.set_buf]
  exact ⟨s.outbox_pauseSent p _, s.pauseDue_pauseSent p _⟩

/-- The port owes a pause frame no longer. -/
def State.pausePaid (s : State) (p : Nat) : State :=
  { s with buf := { s.buf with pauseDue := s.buf.pauseDue.filter (fun x => x != p) } }

theorem State.pauseTx_of_due {s : State} {p : Nat} (up : s.portUp p = true) (live : s.live = true)
    (due : s.buf.pauseDue.contains p = true) : s.pauseTx p = (s.pausePaid p).pauseSend p := if_pos (by rw [up, live, due]; rfl)

theorem State.contains_pausePaid (s : State) (p : Nat) : (s.pausePaid p).buf.pauseDue.contains p = false := by
  simp [State.pausePaid]

theorem State.pauseRefresh_of_due {s : State} {p q : Nat} (up : s.portUp p = true) (live : s.live = true) (h : s.asserted p q = true)
    (mode : s.get PORT.FC_MODE p = 2) (due : tabGet 0 s.buf.pauseAt (8 * p + q) + s.quantaTicks p (s.get PORT.REFRESH p) ≤ s.frc) :
    s.pauseRefresh p q = s.pauseSend p := by
  have member : s.pauseMember p q = true := by simp [State.pauseMember, mode]
  unfold State.pauseRefresh
  rw [up, live, h, member, State.elapsed, decide_eq_true due]
  rfl

/-! ### The storm guard (R98, R99) -/

theorem State.stormBegin_shows (s : State) {p q : Nat} (hp : p < 1024) (hq : q < 8) : (s.stormBegin p q).stormActive p q = true ∧
    (s.stormBegin p q).flag PORT.EV_STORM_ENTER p = true ∧ (s.stormBegin p q).flt = (s.fault srcStorm p).flt := by
  have event := State.portEvent_writesOwn (e := PORT.EV_STORM_ENTER) (n := 796) (s.setBit PORT.STORM_ACTIVE q p) PORT.IE_STORM_ENTER p rfl
  have frame : Touches [.regs, .outbox, .host] (s.setBit PORT.STORM_ACTIVE q p)
      ((s.setBit PORT.STORM_ACTIVE q p).portEvent PORT.EV_STORM_ENTER PORT.IE_STORM_ENTER p) :=
    State.portEvent_touches (.refl _ _) (by decide) (by decide) (by decide)
  refine ⟨(event.bitOf_eq (by decide) ⟨hp, by decide⟩).trans (State.bitOf_setBit_self hq),
    State.flag_event_self (by decide) (Fld.key_ne_of_apart (by decide) ⟨hp, by decide⟩), State.flt_fault_congr ?_⟩
  exact Eq.trans (frame.same .flt (by decide)) (State.set_flt _ _ _ _ _)

theorem State.stormEnter_of_due {s : State} {p q : Nat} (port : s.isPort p = true) (en : s.flag PORT.STORM_EN p = true)
    (calm : s.stormActive p q = false) (live : s.live = true) (due : s.stormDue p q = some true) : s.stormEnter p q = s.stormBegin p q := by
  unfold State.stormEnter
  rw [if_pos (by rw [port, en, calm, live]; rfl), due]

theorem State.stormEnd_shows (s : State) {p q : Nat} (hp : p < 1024) (hq : q < 8) :
    (s.stormEnd p q).stormActive p q = false ∧ (s.stormEnd p q).flag PORT.EV_STORM_EXIT p = true := by
  have event := State.portEvent_writesOwn (e := PORT.EV_STORM_EXIT) (n := 798) (s.clearBit PORT.STORM_ACTIVE q p) PORT.IE_STORM_EXIT p rfl
  exact ⟨(event.bitOf_eq (by decide) ⟨hp, by decide⟩).trans (State.bitOf_clearBit_self hq),
    State.flag_event_self (by decide) (Fld.key_ne_of_apart (by decide) ⟨hp, by decide⟩)⟩

theorem State.stormExit_of_calm {s : State} {p q : Nat} (active : s.stormActive p q = true) (none : (s.pauseOf p q).until_ = none)
    (calm : (s.pauseOf p q).clearAt + s.get PORT.HYST p * 1250000 ≤ s.frc) : s.stormExit p q = s.stormEnd p q := by
  unfold State.stormExit
  have passed : s.elapsed (s.pauseOf p q).clearAt (s.get PORT.HYST p * ticksPerMs) = true := State.elapsed_of_le calm
  dsimp only
  rw [none, active, State.rxPaused_of_none none]
  dsimp only
  rw [passed]
  rfl

/-- Settles O26: pause frames, their timers and the storm guard each do what their rule says. -/
theorem pauseCommandsTakeEffect : Obligations.PauseCommandsTakeEffect := by
  unfold Obligations.PauseCommandsTakeEffect
  refine ⟨fun s p v q0 q1 q2 q3 q4 q5 q6 q7 up live mode h0 => ⟨_, congrArg Host.Outcome.next (if_pos (by rw [up, live]; rfl)), fun q hq =>
      State.pauseRx_shows mode (fun h => h0 (BitVec.eq_of_toNat_eq h)) hq⟩,
    fun s p q t h past => ⟨_, congrArg Host.Outcome.next (State.pauseExpire_of_past h past), ?_⟩,
    fun s p up live due mode => ⟨_, congrArg Host.Outcome.next (State.pauseTx_of_due up live due), ?_⟩,
    fun s p q up live h mode due =>
      ⟨_, congrArg Host.Outcome.next (State.pauseRefresh_of_due up live h mode due), (State.pauseSend_shows mode).1⟩,
    fun s p q port en calm live due =>
      ⟨_, congrArg Host.Outcome.next (State.stormEnter_of_due port en calm live due), s.stormBegin_shows p.isLt q.isLt⟩,
    fun s p q active none calm =>
      ⟨_, congrArg Host.Outcome.next (State.stormExit_of_calm active none calm), s.stormEnd_shows p.isLt q.isLt⟩⟩
  · have put := s.pauseOf_putPause_self p q { s.pauseOf p q with until_ := none, clearAt := t }
    exact ⟨State.putPause_touches (.refl _ s) (by decide), State.rxPaused_of_none (by rw [put]), by rw [put]⟩
  · obtain ⟨sent, owed⟩ := State.pauseSend_shows (s := s.pausePaid p) mode
    exact ⟨(congrArg (fun l => l.contains p.val) owed).trans (s.contains_pausePaid p), sent⟩

end Sys2Proof.Machine
end

section
/-!
Proofs of O25 (R85 to R88, R100 to R102, R379): equalisation, training, adaptation, checkers and error injection of a lane.
-/
namespace Sys2Proof.Machine
open Reg

/-! ### The transmit equaliser (R85 to R87) -/

/-- A coefficient field keeps its bits through its signed value. -/
theorem wrapInt_signed {v wd : Nat} (h : v < 2 ^ wd) : wrapInt (signed v wd) wd = v := by
  have pos : (0 : Int) < ((2 ^ wd : Nat) : Int) := by exact_mod_cast Nat.two_pow_pos wd
  have small : (v : Int) % ((2 ^ wd : Nat) : Int) = v := Int.emod_eq_of_lt (by omega) (by exact_mod_cast h)
  have cast : ((2 : Int) ^ wd) = ((2 ^ wd : Nat) : Int) := by norm_cast
  unfold wrapInt signed
  rw [Nat.mod_eq_of_lt h, cast]
  split
  · exact (congrArg Int.toNat small).trans (Int.toNat_natCast v)
  · have shift : (Int.ofNat v - Int.ofNat (2 ^ wd)) % ((2 ^ wd : Nat) : Int) = (v : Int) % ((2 ^ wd : Nat) : Int) := Int.sub_emod_right _ _
    rw [shift, small]
    exact Int.toNat_natCast v

theorem wrapInt_natCast {v wd : Nat} (h : v < 2 ^ wd) : wrapInt (v : Int) wd = v := by
  have small : (v : Int) % ((2 : Int) ^ wd) = v := Int.emod_eq_of_lt (by omega) (by exact_mod_cast h)
  rw [wrapInt, small]
  exact Int.toNat_natCast v

theorem State.ffePut_shows (s : State) {l : Nat} (hl : l < 1024) (pre main post : Int) :
    (s.ffePut l pre main post).get LANE.PRE l = wrapInt pre 7 % 2 ^ 7 ∧
      (s.ffePut l pre main post).get LANE.MAIN l = wrapInt main 7 % 2 ^ 7 ∧
      (s.ffePut l pre main post).get LANE.POST l = wrapInt post 7 % 2 ^ 7 := by
  unfold State.ffePut
  refine ⟨?_, ?_, State.get_set_self _ LANE.POST _ _ _⟩
  · rw [State.get_set_of_apart (by decide) ⟨hl, by decide⟩, State.get_set_of_apart (by decide) ⟨hl, by decide⟩]
    exact State.get_set_self _ LANE.PRE _ _ _
  · rw [State.get_set_of_apart (by decide) ⟨hl, by decide⟩]
    exact State.get_set_self _ LANE.MAIN _ _ _

theorem State.ffeWrite_of_valid {s : State} {l v : Nat} (port : (s.portOfLane l).isSome = true)
    (rest : s.flag LANE.TRAINING_ACTIVE l = false)
    (ok : ffeOk (signed (bits v 0 7) 7) (bits v 8 7 : Nat) (signed (bits v 16 7) 7) = true) :
    s.ffeWrite l v = s.ffePut l (signed (bits v 0 7) 7) (bits v 8 7 : Nat) (signed (bits v 16 7) 7) := by
  unfold State.ffeWrite
  rw [if_neg (by simp [Option.isSome_iff_ne_none.mp port])]
  exact if_pos (by rw [rest, ok]; rfl)

theorem State.ffeWrite_of_invalid {s : State} {l v : Nat} (port : (s.portOfLane l).isSome = true)
    (bad : ffeOk (signed (bits v 0 7) 7) (bits v 8 7 : Nat) (signed (bits v 16 7) 7) = false) :
    s.ffeWrite l v = s.setB LANE.FFE_REJECT true l := by
  unfold State.ffeWrite
  rw [if_neg (by simp [Option.isSome_iff_ne_none.mp port])]
  exact if_neg (by rw [bad, Bool.and_false]; decide)

theorem State.ffeWrite_shows {s : State} {l v : Nat} (hl : l < 1024) (port : (s.portOfLane l).isSome = true)
    (rest : s.flag LANE.TRAINING_ACTIVE l = false)
    (ok : ffeOk (signed (bits v 0 7) 7) (bits v 8 7 : Nat) (signed (bits v 16 7) 7) = true) :
    (s.ffeWrite l v).get LANE.PRE l = bits v 0 7 ∧ (s.ffeWrite l v).get LANE.MAIN l = bits v 8 7 ∧
      (s.ffeWrite l v).get LANE.POST l = bits v 16 7 := by
  rw [State.ffeWrite_of_valid port rest ok]
  obtain ⟨pre, main, post⟩ := s.ffePut_shows hl (signed (bits v 0 7) 7) (bits v 8 7 : Nat) (signed (bits v 16 7) 7)
  rw [wrapInt_signed (bits_lt _ _ _), Nat.mod_eq_of_lt (bits_lt _ _ _)] at pre post
  rw [wrapInt_natCast (bits_lt _ _ _), Nat.mod_eq_of_lt (bits_lt _ _ _)] at main
  exact ⟨pre, main, post⟩

theorem State.ffe_reject (s : State) {l : Nat} (hl : l < 1024) : (s.setB LANE.FFE_REJECT true l).ffe l = s.ffe l := by
  rw [State.ffe, State.ffe, State.setB, State.get_set_of_apart (by decide) ⟨hl, by decide⟩,
    State.get_set_of_apart (by decide) ⟨hl, by decide⟩, State.get_set_of_apart (by decide) ⟨hl, by decide⟩]

/-- A request in link training is answered once; only one that is accepted changes coefficients. -/
theorem State.ltRequest_answers {s : State} {l : Nat} (r : CoeffReq) (h : s.flag LANE.TRAINING_ACTIVE l = true) :
    ∃ a, a ≤ 2 ∧ (s.ltRequest l r).outbox = s.outbox ++ [.coeff l a] ∧ (a ≠ 0 → (s.ltRequest l r).regs = s.regs) := by
  unfold State.ltRequest
  rw [h, if_neg (by decide)]
  dsimp only
  split
  · exact ⟨1, by decide, rfl, fun _ => rfl⟩
  split
  · exact ⟨2, by decide, rfl, fun _ => rfl⟩
  · exact ⟨0, by decide, rfl, fun h => absurd rfl h⟩

theorem State.lanesOf_congr {s t : State} (h : t.img = s.img) (p : Nat) : t.lanesOf p = s.lanesOf p := by
  unfold State.lanesOf State.desc State.sect
  rw [h]

/-! ### The receiver (R88, R379) -/

theorem State.adaptRestart_shows {s : State} {l : Nat} (hl : l < 1024) (port : (s.portOfLane l).isSome = true) :
    (s.adaptRestart l).flag LANE.ADAPT_CONVERGED l = false ∧ (s.adaptRestart l).draws = s.draws + 1 := by
  unfold State.adaptRestart
  rw [if_neg (by simp [Option.isSome_iff_ne_none.mp port])]
  refine ⟨?_, rfl⟩
  rw [State.flag, State.get_set_of_apart (by decide) ⟨hl, by decide⟩, State.get_set_of_apart (by decide) ⟨hl, by decide⟩,
    State.get_set_of_apart (by decide) ⟨hl, by decide⟩, State.get_set_of_apart (by decide) ⟨hl, by decide⟩]
  exact State.flag_setB_self _ LANE.ADAPT_CONVERGED false l 0 (by decide)

theorem State.calibrate_shows {s : State} {l : Nat} (eq : Nat) (snr : BitVec 16) (hl : l < 1024) (port : (s.portOfLane l).isSome = true)
    (free : s.flag LANE.ADAPT_FREEZE l = false) (lock : s.flag LANE.CDR_LOCK l = true) :
    (s.calibrate l eq snr.toNat).flag LANE.ADAPT_CONVERGED l = true ∧ (s.calibrate l eq snr.toNat).get LANE.SNR l = snr.toNat := by
  unfold State.calibrate
  rw [free, lock, if_neg (by simp [Option.isSome_iff_ne_none.mp port])]
  refine ⟨State.flag_setB_self _ LANE.ADAPT_CONVERGED true l 0 (by decide), ?_⟩
  rw [State.setB, State.get_set_of_apart (by decide) ⟨hl, by decide⟩, State.get_set_self]
  exact Nat.mod_eq_of_lt snr.isLt

/-! ### Checkers and generators (R100 to R103) -/

theorem State.get_add_self (s : State) (f : Fld) (n i j : Nat) : (s.add f n i j).get f i j = satTo (2 ^ f.wd - 1) (s.get f i j + n) := by
  rw [State.add, State.get_set_self, Nat.mod_eq_of_lt (satTo_lt _ (Nat.sub_one_lt (Nat.two_pow_pos _).ne'))]

theorem State.chkSees_of_line {s : State} {l : Nat} (syms : List (Fin 4)) (test : s.laneTest l = true) (line : s.chkLoops l = false) :
    s.chkSees l (syms.map (fun x => x.val)) = (syms.map (fun x => polarity (s.flag LANE.RX_POL l) x.val), s) := by
  unfold State.laneTest at test
  unfold State.chkLoops at line
  unfold State.chkSees
  cases port : s.portOfLane l with
  | none => simp [port] at test
  | some p =>
    rw [port] at line
    have loop : ¬ (s.get PORT.LOOPBACK p = 1 ∧ s.flag LANE.GEN_EN l = true) := by simpa using line
    dsimp only
    rw [if_neg (by simpa using loop), List.map_map]
    rfl

/-- A checker's count of a run goes into its registers. -/
def State.chkCounted (s : State) (l : Nat) (r : ChkRun) : State :=
  ((State.add { s with buf := { s.buf with chk := tabPut s.buf.chk l r.c } } LANE.BITS_CHECKED r.bits l).add
    LANE.BIT_ERRORS r.errs l).add LANE.SYM_ERRORS r.syms l

theorem State.chkFeed_of_line {s : State} {l : Nat} (syms : List (Fin 4)) (test : s.laneTest l = true) (en : s.flag LANE.CHK_EN l = true)
    (line : s.chkLoops l = false) : s.chkFeed l (syms.map (fun x => x.val)) =
      ((s.chkCounted l (s.chkRun l syms)).setB LANE.CHK_LOCK (s.chkRun l syms).lock l).when (s.chkRun l syms).lost
        (fun s => s.setB LANE.LOCK_LOST true l) := by
  unfold State.chkFeed
  rw [test, en, if_neg (by decide), State.chkSees_of_line syms test line]
  rfl

theorem State.chkCounted_shows (s : State) {l : Nat} (hl : l < 1024) (r : ChkRun) :
    (s.chkCounted l r).get LANE.BIT_ERRORS l = satTo (2 ^ LANE.BIT_ERRORS.wd - 1) (s.get LANE.BIT_ERRORS l + r.errs) ∧
      (s.chkCounted l r).get LANE.BITS_CHECKED l = satTo (2 ^ LANE.BITS_CHECKED.wd - 1) (s.get LANE.BITS_CHECKED l + r.bits) := by
  have other {f g : Fld} (y : State) (n : Nat) (h : f.apart g = true) (hf : f.Inst l 0) : (y.add g n l).get f l = y.get f l :=
    State.get_set_of_apart h hf
  unfold State.chkCounted
  refine ⟨?_, ?_⟩
  · rw [other _ _ (by decide) ⟨hl, by decide⟩, State.get_add_self, other _ _ (by decide) ⟨hl, by decide⟩]
    rfl
  · rw [other _ _ (by decide) ⟨hl, by decide⟩, other _ _ (by decide) ⟨hl, by decide⟩]
    exact State.get_add_self _ LANE.BITS_CHECKED _ _ _

/-- What a checker's run shows. -/
theorem State.chkFeed_shows {s : State} {l : Nat} (syms : List (Fin 4)) (hl : l < 1024) (test : s.laneTest l = true)
    (en : s.flag LANE.CHK_EN l = true) (line : s.chkLoops l = false) :
    (s.chkFeed l (syms.map (fun x => x.val))).flag LANE.CHK_LOCK l = (s.chkRun l syms).lock ∧
      (s.chkFeed l (syms.map (fun x => x.val))).get LANE.BIT_ERRORS l =
        satTo (2 ^ LANE.BIT_ERRORS.wd - 1) (s.get LANE.BIT_ERRORS l + (s.chkRun l syms).errs) ∧
      (s.chkFeed l (syms.map (fun x => x.val))).get LANE.BITS_CHECKED l =
        satTo (2 ^ LANE.BITS_CHECKED.wd - 1) (s.get LANE.BITS_CHECKED l + (s.chkRun l syms).bits) ∧
      ((s.chkRun l syms).lost = true → (s.chkFeed l (syms.map (fun x => x.val))).flag LANE.LOCK_LOST l = true) := by
  rw [State.chkFeed_of_line syms test en line]
  generalize s.chkRun l syms = r
  obtain ⟨errs, bits⟩ := s.chkCounted_shows hl r
  generalize s.chkCounted l r = x at errs bits ⊢
  have other {f : Fld} (h : f.apart LANE.LOCK_LOST = true) (hf : f.Inst l 0) :
      ((x.setB LANE.CHK_LOCK r.lock l).when r.lost fun s => s.setB LANE.LOCK_LOST true l).get f l = (x.setB LANE.CHK_LOCK r.lock l).get f l :=
    State.get_when_of (f := fun s => s.setB LANE.LOCK_LOST true l) (State.get_set_of_apart h hf)
  have counter {f : Fld} (h : f.apart LANE.CHK_LOCK = true) (hf : f.Inst l 0) : (x.setB LANE.CHK_LOCK r.lock l).get f l = x.get f l :=
    State.get_set_of_apart h hf
  refine ⟨?_, ?_, ?_, fun lost => ?_⟩
  · rw [State.flag, other (by decide) ⟨hl, by decide⟩]
    exact State.flag_setB_self x LANE.CHK_LOCK r.lock l 0 (by decide)
  · rw [other (by decide) ⟨hl, by decide⟩, counter (by decide) ⟨hl, by decide⟩, errs]
  · rw [other (by decide) ⟨hl, by decide⟩, counter (by decide) ⟨hl, by decide⟩, bits]
  · rw [lost]
    exact State.flag_setB_self _ LANE.LOCK_LOST true l 0 (by decide)

theorem State.chkClear_shows (s : State) {l : Nat} (hl : l < 1024) : (s.chkClear l).get LANE.BIT_ERRORS l = 0 ∧
    (s.chkClear l).get LANE.SYM_ERRORS l = 0 ∧ (s.chkClear l).get LANE.BITS_CHECKED l = 0 ∧ (s.chkClear l).flag LANE.LOCK_LOST l = false := by
  have other {f g : Fld} (y : State) (n : Nat) (h : f.apart g = true) (hf : f.Inst l 0) : (y.set g n l).get f l = y.get f l :=
    State.get_set_of_apart h hf
  unfold State.chkClear State.setB
  refine ⟨?_, ?_, ?_, State.flag_setB_self _ LANE.LOCK_LOST false l 0 (by decide)⟩
  · rw [other _ _ (by decide) ⟨hl, by decide⟩, other _ _ (by decide) ⟨hl, by decide⟩, other _ _ (by decide) ⟨hl, by decide⟩]
    exact State.get_set_self _ LANE.BIT_ERRORS _ _ _
  · rw [other _ _ (by decide) ⟨hl, by decide⟩, other _ _ (by decide) ⟨hl, by decide⟩]
    exact State.get_set_self _ LANE.SYM_ERRORS _ _ _
  · rw [other _ _ (by decide) ⟨hl, by decide⟩]
    exact State.get_set_self _ LANE.BITS_CHECKED _ _ _

theorem Touches.withBuf (s : State) (b : BufSt) : Touches [.outbox, .buf] s { s with buf := b } := by
  apply Touches.upd (.refl _ s) <;> simp

/-- The generator of a lane with one more bit to invert. -/
def State.genFlipped (s : State) (l : Nat) : Gen :=
  let g := tabGet {} s.buf.gen l
  { g with flips := g.flips + 1 }

/-- In single-error mode one bit of the generated pattern is inverted. -/
theorem State.genInject_of_single {s : State} {l : Nat} (test : s.laneTest l = true) (en : s.flag LANE.GEN_EN l = true)
    (mode : s.get LANE.INJ_MODE l = 1) :
    s.genInject l = State.emit { s with buf := { s.buf with gen := tabPut s.buf.gen l (s.genFlipped l) } } (.flip l 1) := by
  have same (b : BufSt) : ({ s with buf := b } : State).get LANE.INJ_MODE l = 1 := mode
  unfold State.genInject
  rw [test, en, mode, if_pos (by decide)]
  unfold State.laneInject
  dsimp only at same ⊢
  rw [same]
  rfl

/-- Settles O25: the equaliser, the receiver, the checkers and error injection each do what their rule says. -/
theorem laneCommandsTakeEffect : Obligations.LaneCommandsTakeEffect := by
  unfold Obligations.LaneCommandsTakeEffect
  refine ⟨fun s l v ho port rest ok => ⟨_, next_viaHost (f := LANE.PRE) ho, State.ffeWrite_shows l.isLt port rest ok⟩,
    fun s l v ho port bad => ⟨_, (next_viaHost (f := LANE.PRE) ho).trans (congrArg Host.Outcome.next (State.ffeWrite_of_invalid port bad)),
      s.ffe_reject l.isLt, State.flag_setB_self s LANE.FFE_REJECT true l 0 (by decide)⟩,
    fun s l r h => ⟨_, rfl, State.ltRequest_answers r h⟩,
    fun s l ho port => ⟨_, next_viaHost (f := LANE.ADAPT_RESTART) ho, State.adaptRestart_shows l.isLt port⟩,
    fun s f l eq snr h hf port free lock => ⟨_, congrArg Host.Outcome.next (anvil_good h hf), ?_⟩,
    fun s l syms test en line => ⟨_, rfl, ?_⟩, fun s l syms test en line lost => ⟨_, rfl, ?_⟩,
    fun s l ho port => ⟨_, (next_viaHost (f := LANE.CHK_CLEAR) ho).trans (congrArg Host.Outcome.next (if_pos port)), s.chkClear_shows l.isLt⟩,
    fun s l ho test en mode => ⟨_, (next_viaHost (f := LANE.INJECT) ho).trans
      (congrArg Host.Outcome.next (State.genInject_of_single test en mode)), ?_, rfl, congrArg Gen.flips (tabGet_tabPut_self _ _ _ _)⟩⟩
  · have same : (s.stepped actCalibration).portOfLane l = s.portOfLane l := by
      have lanes (p : Nat) : (s.stepped actCalibration).lanesOf p = s.lanesOf p :=
        State.lanesOf_congr ((s.stepped_frame actCalibration).same .img (by decide)) p
      simp only [State.portOfLane, State.isPort, lanes]
    exact State.calibrate_shows eq.toNat snr l.isLt (by rw [same]; exact port) (by rw [State.flag, s.get_stepped]; exact free)
      (by rw [State.flag, s.get_stepped]; exact lock)
  · obtain ⟨lock, errs, -, -⟩ := State.chkFeed_shows syms l.isLt test en line
    exact ⟨lock, errs⟩
  · obtain ⟨lock, -, bits, gone⟩ := State.chkFeed_shows syms l.isLt test en line
    exact ⟨gone lost, lock, bits⟩
  · exact State.emit_touches (.withBuf s _) (by decide)

end Sys2Proof.Machine
end

section
/-!
Proofs of O20 (R173 to R177): WRITE_AT, INSERT_AT, DELETE_AT and READ_AT on a narrow partition of one replica.
-/
namespace Sys2Proof.Machine
open Reg

/-! ### Operations of the banks (R170, R182) -/

theorem State.aseWork_frame (s : State) (wide : Bool) (b n : Nat) :
    Touches [.regs, .outbox, .act, .host, .pipe] s (s.aseWork wide b n) :=
  State.aseWork_touches (.refl _ s) (by decide) (by decide) (by decide) (by decide) (by decide)

theorem State.aseWork_writesOwn (s : State) (wide : Bool) (b n : Nat) :
    Writes [3110, 3113, 3114, 3123, 3125, 4907] s (s.aseWork wide b n) :=
  State.aseWork_writes (.refl _ s) (by decide)

theorem State.aseField_congr {s t : State} (h : t.img = s.img) (p k n : Nat) : t.aseField p k n = s.aseField p k n := by
  unfold State.aseField State.sect
  rw [h]

theorem State.mem_congr {s t : State} (h : t.dev = s.dev) (a n : Nat) : t.mem a n = s.mem a n := by
  rw [State.mem, State.mem, h]

theorem State.slotFlags_congr {s t : State} (h : t.dev = s.dev) (b i : Nat) : t.slotFlags b i = s.slotFlags b i := State.mem_congr h _ _

theorem State.slotValid_congr {s t : State} (h : t.dev = s.dev) (b i : Nat) : t.slotValid b i = s.slotValid b i := by
  rw [State.slotValid, State.slotValid, State.slotFlags_congr h]

theorem State.freeSlot_congr {s t : State} (h : t.dev = s.dev) (b i lo hi : Nat) : t.freeSlot b i lo hi = s.freeSlot b i lo hi := by
  have valid : t.slotValid b = s.slotValid b := funext (State.slotValid_congr h b)
  unfold State.freeSlot
  rw [valid]

theorem State.aseFree_congr {s t : State} (h : t.dev = s.dev) (himg : t.img = s.img) (p b i : Nat) : t.aseFree p b i = s.aseFree p b i := by
  have field : t.aseField p = s.aseField p := funext fun k => funext fun n => State.aseField_congr himg p k n
  have free : t.freeSlot b i = s.freeSlot b i := funext fun lo => funext fun hi => State.freeSlot_congr h b i lo hi
  unfold State.aseFree
  rw [field, free]

/-! ### Commands that name a position (R173) -/

theorem State.aseDone_shows (s : State) {code : Nat} (h : code < 16) : (s.aseDone code).get ASE.CMD_CODE = code ∧
    (s.aseDone code).flag ASE.CMD_DONE = true := by
  unfold State.aseDone
  refine ⟨?_, State.flag_event_self (by decide) (by decide)⟩
  rw [State.get_event_of_ne (by decide) (by decide), State.get_set_self]
  exact Nat.mod_eq_of_lt h

theorem State.aseDone_writesOwn (s : State) (code : Nat) : Writes [1805, 1807, 4907] s (s.aseDone code) :=
  State.aseDone_writes (.refl _ s) (by decide)

theorem State.aseDone_frame (s : State) (code : Nat) : Touches [.regs, .outbox, .host] s (s.aseDone code) :=
  State.aseDone_touches (.refl _ s) (by decide) (by decide) (by decide)

theorem State.asePos_of_good {s : State} {p : Nat} (f : State → State) (part : p < s.get ASE.PART_COUNT)
    (bank : s.get ASE.POS_BANK < s.aseField p 2 2) (narrow : s.aseWide p = false) : s.asePos p f = f s := by
  unfold State.asePos
  rw [decide_eq_true part, if_neg (by decide), narrow, decide_eq_false (Nat.not_le.mpr bank), if_neg (by simp)]

theorem State.asePosBanks_of_one {s : State} {p : Nat} (one : s.aseReplicas p = 1) :
    s.asePosBanks p = [s.aseBank p 0 + s.get ASE.POS_BANK] := by
  rw [State.asePosBanks, one]
  rfl

theorem State.aseChange_of_good {s : State} {p : Nat} (f : State → State) (part : p < s.get ASE.PART_COUNT)
    (bank : s.get ASE.POS_BANK < s.aseField p 2 2) (narrow : s.aseWide p = false) (one : s.aseReplicas p = 1)
    (free : s.aseHeld false (s.aseBank p 0 + s.get ASE.POS_BANK) = false) : s.aseChange p f = f s := by
  unfold State.aseChange
  rw [State.asePos_of_good _ part bank narrow, State.asePosBanks_of_one one, narrow]
  refine if_neg ?_
  simp [free]

/-! ### Writes of a slot (R173) -/

theorem State.aseOperand_of_writes {F : List Nat} {s t : State} (w : Writes F s t) {f : Fld} (h : F.all (fun n => f.apart (fldAt n)) = true)
    (hf : ∀ k, k < 10 → f.Inst k 0) : t.aseOperand f = s.aseOperand f := by
  unfold State.aseOperand
  refine List.flatMap_congr fun k hk => ?_
  rw [w.get_eq h (hf k (List.mem_range.mp hk))]

/-- The bytes of a narrow slot with the operand's entry. -/
def State.operandSlot (s : State) : List Byte :=
  slotBytes (leNat (s.aseOperand ASE.OP_KEY) % 2 ^ 160) (leNat (s.aseOperand ASE.OP_MASK) % 2 ^ 160) (s.get ASE.OP_PRIORITY)
    (1 + 256 * s.get ASE.OP_USER) (s.get ASE.OP_RESULT)

theorem State.operandSlot_of_writes {F : List Nat} {s t : State} (w : Writes F s t)
    (h : [ASE.OP_KEY, ASE.OP_MASK, ASE.OP_PRIORITY, ASE.OP_USER, ASE.OP_RESULT].all (fun g => F.all (fun n => g.apart (fldAt n))) = true) :
    t.operandSlot = s.operandSlot := by
  simp only [List.all_cons, List.all_nil, Bool.and_true, Bool.and_eq_true] at h
  obtain ⟨key, mask, prio, user, result⟩ := h
  unfold State.operandSlot
  rw [State.aseOperand_of_writes w key fun k hk => ⟨hk, by decide⟩, State.aseOperand_of_writes w mask fun k hk => ⟨hk, by decide⟩,
    w.get_eq prio (by decide), w.get_eq user (by decide), w.get_eq result (by decide)]

theorem State.dev_asePut_narrow (s : State) (b i : Nat) : (s.asePut false b i).dev = Machine.memStore s.dev (slotAddr b i) s.operandSlot := by
  have writes := s.aseWork_writesOwn false b 1
  have dev : (s.aseWork false b 1).dev = s.dev := (s.aseWork_frame false b 1).same .dev (by decide)
  change ((s.aseWork false b 1).memStore (slotAddr b i) (s.aseWork false b 1).operandSlot).dev = _
  rw [State.memStore_dev, dev, State.operandSlot_of_writes writes (by decide)]

theorem State.dev_aseDone (s : State) (code : Nat) : (s.aseDone code).dev = s.dev := (s.aseDone_frame code).same .dev (by decide)

theorem State.aseWriteAt_of_good {s : State} {p : Nat} (part : p < s.get ASE.PART_COUNT) (bank : s.get ASE.POS_BANK < s.aseField p 2 2)
    (narrow : s.aseWide p = false) (one : s.aseReplicas p = 1) (free : s.aseHeld false (s.aseBank p 0 + s.get ASE.POS_BANK) = false) :
    s.aseWriteAt p = (s.asePut false (s.aseBank p 0 + s.get ASE.POS_BANK) (s.get ASE.POS_INDEX)).aseDone aseOk := by
  unfold State.aseWriteAt
  rw [State.aseChange_of_good _ part bank narrow one free, State.asePosBanks_of_one one, ← narrow]
  rfl

theorem State.aseDeleteAt_of_good {s : State} {p : Nat} (part : p < s.get ASE.PART_COUNT) (bank : s.get ASE.POS_BANK < s.aseField p 2 2)
    (narrow : s.aseWide p = false) (one : s.aseReplicas p = 1) (free : s.aseHeld false (s.aseBank p 0 + s.get ASE.POS_BANK) = false) :
    s.aseDeleteAt p = ((s.aseWork false (s.aseBank p 0 + s.get ASE.POS_BANK) 1).slotClear false
      (s.aseBank p 0 + s.get ASE.POS_BANK) (s.get ASE.POS_INDEX)).aseDone aseOk := by
  unfold State.aseDeleteAt
  rw [State.aseChange_of_good _ part bank narrow one free, State.asePosBanks_of_one one, ← narrow]
  rfl

theorem State.slotValid_of_clear (s : State) (b i : Nat) : (s.slotClear false b i).slotValid b i = false := by
  change bit (memRead (s.memSet (slotAddr b i + 42) 2 (bitClear (s.slotFlags b i) 0)).dev (slotAddr b i + 42) 2) 0 = false
  rw [State.memSet_dev, memRead_memWrite_self, show 256 ^ 2 = 2 ^ 16 by decide, bit_mod_two_pow (by decide), bit_bitClear]
  rfl

theorem State.memByte_slotClear (s : State) {b i a : Nat} (h : a < slotAddr b i + 42 ∨ slotAddr b i + 44 ≤ a) :
    memByte (s.slotClear false b i).dev a = memByte s.dev a := by
  change memByte (s.memSet (slotAddr b i + 42) 2 (bitClear (s.slotFlags b i) 0)).dev a = _
  rw [State.memSet_dev, memByte_memWrite_of_outside _ _ _ _ _ h]

/-! ### INSERT_AT at a free position (R174) -/

/-- The one bank's entry is in place, without a move. -/
def State.insertShown (s : State) (p : Nat) : State := ((s.set ASE.CMD_MOVES 0).add ASE.P_MOVES 0 p).aseDone aseOk

theorem State.aseInsertBank_of_free (s : State) (wide : Bool) (b i : Nat) : s.aseInsertBank wide b i i = (0, s.asePut wide b i) := by
  unfold State.aseInsertBank
  rw [if_neg (Nat.lt_irrefl i), Nat.sub_self]
  rfl

/-- The insertion itself, in the banks of the position. -/
def State.aseInsert (s : State) (p : Nat) : State :=
  let i := s.get ASE.POS_INDEX
  let banks := s.asePosBanks p
  if banks.any (fun b => (s.aseFree p b i).isNone) then s.aseDone aseFull
  else
    let (n, s) := banks.foldl (fun (x : Nat × State) b =>
      match x.2.aseFree p b i with
      | some f => let y := x.2.aseInsertBank (x.2.aseWide p) b i f; (x.1 + y.1, y.2)
      | none => x) (0, s)
    ((s.set ASE.CMD_MOVES n).add ASE.P_MOVES n p).aseDone aseOk

theorem State.aseInsertAt_eq (s : State) (p : Nat) : s.aseInsertAt p = (s.set ASE.CMD_MOVES 0).aseChange p (fun s => s.aseInsert p) := rfl

theorem State.aseInsert_of_free {s : State} {p : Nat} (narrow : s.aseWide p = false) (one : s.aseReplicas p = 1)
    (free : s.aseFree p (s.aseBank p 0 + s.get ASE.POS_BANK) (s.get ASE.POS_INDEX) = some (s.get ASE.POS_INDEX)) :
    s.aseInsert p = (s.asePut false (s.aseBank p 0 + s.get ASE.POS_BANK) (s.get ASE.POS_INDEX)).insertShown p := by
  unfold State.aseInsert
  rw [State.asePosBanks_of_one one]
  simp only [List.any_cons, List.any_nil, List.foldl_cons, List.foldl_nil, free, narrow, State.aseInsertBank_of_free,
    Option.isNone_some, Bool.or_false, Bool.false_eq_true, if_false, Nat.add_zero, State.insertShown]

/-- A register above the command's is as it was when the moves are counted anew. -/
theorem State.get_set_moves (s : State) {g : Fld} (k l : Nat) (h : ASE.CMD_MOVES.key 0 0 < g.first) :
    (s.set ASE.CMD_MOVES 0).get g k l = s.get g k l :=
  State.get_set_of_ne _ _ _ _ _ _ _ _ (Nat.lt_of_lt_of_le h (g.first_le_key k l)).ne'

theorem State.aseInsertAt_of_free {s : State} {p : Nat} (part : p < s.get ASE.PART_COUNT) (bank : s.get ASE.POS_BANK < s.aseField p 2 2)
    (narrow : s.aseWide p = false) (one : s.aseReplicas p = 1) (held : s.aseHeld false (s.aseBank p 0 + s.get ASE.POS_BANK) = false)
    (free : s.aseFree p (s.aseBank p 0 + s.get ASE.POS_BANK) (s.get ASE.POS_INDEX) = some (s.get ASE.POS_INDEX)) :
    s.aseInsertAt p =
      ((s.set ASE.CMD_MOVES 0).asePut false (s.aseBank p 0 + s.get ASE.POS_BANK) (s.get ASE.POS_INDEX)).insertShown p := by
  have posBank : (s.set ASE.CMD_MOVES 0).get ASE.POS_BANK = s.get ASE.POS_BANK := State.get_set_of_apart (by decide) (by decide)
  have index : (s.set ASE.CMD_MOVES 0).get ASE.POS_INDEX = s.get ASE.POS_INDEX := State.get_set_of_apart (by decide) (by decide)
  have parts : (s.set ASE.CMD_MOVES 0).get ASE.PART_COUNT = s.get ASE.PART_COUNT := State.get_set_of_apart (by decide) (by decide)
  have field := fun k n => State.aseField_congr (show (s.set ASE.CMD_MOVES 0).img = s.img from rfl) p k n
  have first : (s.set ASE.CMD_MOVES 0).aseBank p 0 = s.aseBank p 0 := by rw [State.aseBank, State.aseBank, field, field]
  have narrow' : (s.set ASE.CMD_MOVES 0).aseWide p = false := by rw [State.aseWide, field]; exact narrow
  have one' : (s.set ASE.CMD_MOVES 0).aseReplicas p = 1 := by rw [State.aseReplicas, field]; exact one
  rw [State.aseInsertAt_eq, State.aseChange_of_good _ (by rw [parts]; exact part) (by rw [posBank, field]; exact bank) narrow' one' ?_,
    State.aseInsert_of_free narrow' one' ?_, first, posBank, index]
  · rw [first, posBank, index, State.aseFree_congr (s.set_dev ..) rfl]
    exact free
  · rw [first, posBank]
    unfold State.aseHeld State.bitOf at held ⊢
    rw [s.get_set_moves _ _ (by decide), s.get_set_moves _ _ (by decide)]
    exact held

theorem State.insertShown_shows (s : State) (p : Nat) : (s.insertShown p).get ASE.CMD_CODE = 0 ∧ (s.insertShown p).get ASE.CMD_MOVES = 0 ∧
    (s.insertShown p).dev = s.dev := by
  unfold State.insertShown
  obtain ⟨code, -⟩ := State.aseDone_shows ((s.set ASE.CMD_MOVES 0).add ASE.P_MOVES 0 p) (code := aseOk) (by decide)
  refine ⟨code, ?_, State.dev_aseDone _ _⟩
  rw [(State.aseDone_writesOwn _ _).get_eq (by decide) (by decide), State.add, State.get_set_of_apart (by decide) (by decide),
    State.get_set_self]
  rfl

/-! ### READ_AT (R177) -/

/-- A slot is shown, valid or not. -/
def State.slotShown (s : State) (b i : Nat) : State := (s.aseFound b i).setB ASE.F_FOUND (s.slotValid b i)

/-- The read is complete. -/
def State.readShown (s : State) (b i : Nat) : State :=
  ((s.slotShown b i).setB ASE.F_SHADOW (bit ((s.slotShown b i).slotFlags b i) 2)).aseDone aseOk

theorem State.aseFound_shows (s : State) (b i : Nat) : (s.aseFound b i).flag ASE.F_FOUND = true ∧
    (s.aseFound b i).get ASE.F_BANK = b % 2 ^ 10 ∧ (s.aseFound b i).get ASE.F_INDEX = i % 2 ^ 11 ∧
    (s.aseFound b i).get ASE.OP_PRIORITY = s.slotPrio b i % 2 ^ 16 ∧
    (s.aseFound b i).get ASE.OP_RESULT = s.mem (slotAddr b i + 44) 4 % 2 ^ 32 := by
  have other {f g : Fld} (y : State) (n : Nat) (h : f.apart g = true) (hf : f.Inst 0 0) : (y.set g n).get f = y.get f :=
    State.get_set_of_apart h hf
  unfold State.aseFound
  dsimp only
  refine ⟨?_, ?_, ?_, ?_, State.get_set_self _ ASE.OP_RESULT _ _ _⟩
  · rw [State.flag, other _ _ (by decide) (by decide), other _ _ (by decide) (by decide), other _ _ (by decide) (by decide)]
    exact State.flag_setB_self _ ASE.F_FOUND true 0 0 (by decide)
  · rw [other _ _ (by decide) (by decide), other _ _ (by decide) (by decide), other _ _ (by decide) (by decide), State.setB,
      other _ _ (by decide) (by decide), other _ _ (by decide) (by decide)]
    exact State.get_set_self _ ASE.F_BANK _ _ _
  · rw [other _ _ (by decide) (by decide), other _ _ (by decide) (by decide), other _ _ (by decide) (by decide), State.setB,
      other _ _ (by decide) (by decide)]
    exact State.get_set_self _ ASE.F_INDEX _ _ _
  · rw [other _ _ (by decide) (by decide), other _ _ (by decide) (by decide)]
    exact State.get_set_self _ ASE.OP_PRIORITY _ _ _

theorem State.dev_aseFound (s : State) (b i : Nat) : (s.aseFound b i).dev = s.dev := rfl

theorem State.dev_readShown (s : State) (b i : Nat) : (s.readShown b i).dev = s.dev := State.dev_aseDone _ _

theorem State.readShown_shows (s : State) (b i : Nat) : (s.readShown b i).get ASE.CMD_CODE = 0 ∧
    (s.readShown b i).flag ASE.F_FOUND = s.slotValid b i ∧ (s.readShown b i).get ASE.OP_PRIORITY = s.slotPrio b i % 2 ^ 16 ∧
    (s.readShown b i).get ASE.OP_RESULT = s.mem (slotAddr b i + 44) 4 % 2 ^ 32 := by
  obtain ⟨-, -, -, prio, result⟩ := s.aseFound_shows b i
  unfold State.readShown
  obtain ⟨code, -⟩ := State.aseDone_shows ((s.slotShown b i).setB ASE.F_SHADOW (bit ((s.slotShown b i).slotFlags b i) 2))
    (code := aseOk) (by decide)
  have after := State.aseDone_writesOwn ((s.slotShown b i).setB ASE.F_SHADOW (bit ((s.slotShown b i).slotFlags b i) 2)) aseOk
  have other {f : Fld} (v : Bool) (y : State) (h : f.apart ASE.F_SHADOW = true) (hf : f.Inst 0 0) :
    (y.setB ASE.F_SHADOW v).get f = y.get f := State.get_set_of_apart h hf
  have shown {f : Fld} (h : f.apart ASE.F_FOUND = true) (hf : f.Inst 0 0) : (s.slotShown b i).get f = (s.aseFound b i).get f :=
    State.get_set_of_apart h hf
  refine ⟨code, ?_, ?_, ?_⟩
  · rw [after.flag_eq (by decide) (by decide), State.flag, other _ _ (by decide) (by decide)]
    exact State.flag_setB_self _ ASE.F_FOUND _ 0 0 (by decide)
  · rw [after.get_eq (by decide) (by decide), other _ _ (by decide) (by decide), shown (by decide) (by decide), prio]
  · rw [after.get_eq (by decide) (by decide), other _ _ (by decide) (by decide), shown (by decide) (by decide), result]

theorem State.aseReplica_of_good {s : State} {p r : Nat} (f : State → State) (part : p < s.get ASE.PART_COUNT) (replica : r < s.aseReplicas p) :
    s.aseReplica p r f = f s := by
  unfold State.aseReplica
  rw [decide_eq_true part, if_neg (by decide), if_neg (Nat.not_le.mpr replica)]

/-- A read moves the slot's key and mask into the operand and shows the rest of it. -/
theorem State.aseReadAt_of_good {s : State} {p : Nat} (part : p < s.get ASE.PART_COUNT) (bank : s.get ASE.POS_BANK < s.aseField p 2 2)
    (narrow : s.aseWide p = false) (one : s.aseReplicas p = 1) :
    ∃ y : State, y.dev = s.dev ∧ s.aseReadAt p 0 = y.readShown (s.aseBank p 0 + s.get ASE.POS_BANK) (s.get ASE.POS_INDEX) := by
  have work : (s.aseWork (s.aseWide p) (s.aseBank p 0 + s.get ASE.POS_BANK) 1).dev = s.dev := (s.aseWork_frame _ _ _).same .dev (by decide)
  unfold State.aseReadAt
  rw [State.asePos_of_good _ part bank narrow, State.aseReplica_of_good _ part (by rw [one]; decide)]
  extract_lets b i x a two key mask y
  have dev : y.dev = s.dev := upTo_keeps (fun y : State => y.dev = s.dev) _ _ x (fun k y hy => hy) work
  clear_value y
  exact ⟨y, dev, rfl⟩

/-- Settles O20: the four commands each do what their rule says. -/
theorem aseCommandsTakeEffect : Obligations.AseCommandsTakeEffect := by
  unfold Obligations.AseCommandsTakeEffect
  intro s p b ho part bank narrow one hb
  subst hb
  refine ⟨fun held => ⟨_, next_viaHost (f := ASE.CMD_OPCODE) ho, ?_⟩, fun held free => ⟨_, next_viaHost (f := ASE.CMD_OPCODE) ho, ?_⟩,
    fun held => ⟨_, next_viaHost (f := ASE.CMD_OPCODE) ho, ?_⟩, ⟨_, next_viaHost (f := ASE.CMD_OPCODE) ho, ?_⟩⟩
  · rw [State.aseWriteAt_of_good part bank narrow one held]
    obtain ⟨code, done⟩ := State.aseDone_shows (s.asePut false (s.aseBank p 0 + s.get ASE.POS_BANK) (s.get ASE.POS_INDEX))
      (code := aseOk) (by decide)
    exact ⟨code, done, (State.dev_aseDone _ _).trans (s.dev_asePut_narrow _ _)⟩
  · rw [State.aseInsertAt_of_free part bank narrow one held free]
    obtain ⟨code, moves, dev⟩ := State.insertShown_shows
      ((s.set ASE.CMD_MOVES 0).asePut false (s.aseBank p 0 + s.get ASE.POS_BANK) (s.get ASE.POS_INDEX)) p
    refine ⟨code, moves, dev.trans ((State.dev_asePut_narrow _ _ _).trans ?_)⟩
    have writes : Writes [1810] s (s.set ASE.CMD_MOVES 0) := State.set_writes ⟨1810, by decide, rfl⟩ (.refl _ s)
    rw [State.operandSlot_of_writes writes (by decide)]
    rfl
  · rw [State.aseDeleteAt_of_good part bank narrow one held]
    have dev : (s.aseWork false (s.aseBank p 0 + s.get ASE.POS_BANK) 1).dev = s.dev := (s.aseWork_frame _ _ _).same .dev (by decide)
    generalize s.aseWork false (s.aseBank p 0 + s.get ASE.POS_BANK) 1 = x at dev ⊢
    obtain ⟨code, -⟩ := State.aseDone_shows (x.slotClear false (s.aseBank p 0 + s.get ASE.POS_BANK) (s.get ASE.POS_INDEX))
      (code := aseOk) (by decide)
    refine ⟨code, (State.slotValid_congr (State.dev_aseDone _ _) _ _).trans (x.slotValid_of_clear _ _), fun a ha => ?_⟩
    rw [State.dev_aseDone, x.memByte_slotClear ha, dev]
  · obtain ⟨y, dev, read⟩ := State.aseReadAt_of_good part bank narrow one
    rw [show ((0 : Fin 128) : Nat) = 0 from rfl, read]
    obtain ⟨code, found, prio, result⟩ := y.readShown_shows (s.aseBank p 0 + s.get ASE.POS_BANK) (s.get ASE.POS_INDEX)
    rw [State.slotValid_congr dev] at found
    rw [State.slotPrio, State.mem_congr dev] at prio
    rw [State.mem_congr dev] at result
    exact ⟨code, (y.dev_readShown _ _).trans dev, found, prio, result⟩

end Sys2Proof.Machine
end

section
/-!
Proofs of O21 (R163, R173, R177, R182): SEARCH and STEP.
-/
namespace Sys2Proof.Machine
open Reg

/-! ### What a search reads (R161 to R163) -/

/-- What searches read: the slots, the image, and the move in progress. -/
structure SameSlots (s t : State) : Prop where
  dev : t.dev = s.dev
  img : t.img = s.img
  move : t.pipe.move = s.pipe.move

theorem State.aseWide_congr {s t : State} (h : t.img = s.img) (p : Nat) : t.aseWide p = s.aseWide p := by
  rw [State.aseWide, State.aseWide, State.aseField_congr h]

theorem State.aseBank_congr {s t : State} (h : t.img = s.img) (p r : Nat) : t.aseBank p r = s.aseBank p r := by
  rw [State.aseBank, State.aseBank, State.aseField_congr h, State.aseField_congr h]

theorem State.halfMatch_congr {s t : State} (h : t.dev = s.dev) : t.halfMatch = s.halfMatch := by
  funext b i key
  simp only [State.halfMatch, State.slotValid_congr h, State.mem_congr h]

theorem State.bankMatches_congr {s t : State} (h : t.dev = s.dev) : t.bankMatches = s.bankMatches := by
  have slot : t.slotMatch = s.slotMatch := by
    funext wide b i key
    rw [State.slotMatch, State.slotMatch, State.halfMatch_congr h]
  funext wide b key
  unfold State.bankMatches
  rw [slot]

theorem State.slotBest_congr {s t : State} (h : t.dev = s.dev) : t.slotBest = s.slotBest := by
  have prio : t.slotPrio = s.slotPrio := funext fun b => funext fun i => State.mem_congr h _ _
  have before : t.slotBefore = s.slotBefore := by
    funext x y
    unfold State.slotBefore
    rw [prio]
  funext l
  unfold State.slotBest
  rw [before]

theorem SameSlots.slotCopy {s t : State} (h : SameSlots s t) : t.slotCopy = s.slotCopy := by
  funext b i
  simp only [State.slotCopy, State.slotFlags_congr h.dev, State.slotValid_congr h.dev, h.move]

theorem SameSlots.aseMatch {s t : State} (h : SameSlots s t) (p key : Nat) (banks : List Nat) :
    t.aseMatch p key banks = s.aseMatch p key banks := by
  unfold State.aseMatch
  rw [State.bankMatches_congr h.dev, State.slotBest_congr h.dev, h.slotCopy, State.aseWide_congr h.img]

theorem State.tally_sameSlots {s x : State} (u e n : Nat) (h : SameSlots s x) (ase : x.pipe.ase = s.pipe.ase) :
    SameSlots s (x.tally u e n) ∧ (x.tally u e n).pipe.ase = s.pipe.ase := by
  have frame : Touches [.regs, .outbox, .act, .host] x (x.tally u e n) :=
    State.tally_touches (.refl _ x) (by decide) (by decide) (by decide) (by decide)
  have pipe : (x.tally u e n).pipe = x.pipe := frame.same .pipe (by decide)
  exact ⟨⟨Eq.trans (frame.same .dev (by decide)) h.dev, Eq.trans (frame.same .img (by decide)) h.img,
    (congrArg PipeSt.move pipe).trans h.move⟩, (congrArg PipeSt.ase pipe).trans ase⟩

/-- The operations are noted in the window that runs. -/
def State.aseNoted (s : State) (n b : Nat) : State :=
  { s with pipe := { s.pipe with aseOps := tabPut s.pipe.aseOps b (tabGet 0 s.pipe.aseOps b + n) } }

theorem State.aseOp_eq (s : State) (bg : Bool) (n b : Nat) :
    s.aseOp bg n b = if bg then (s.aseNoted n b).bankWork b n else (s.aseNoted n b).bankOps b n := rfl

theorem State.aseOp_sameSlots (s : State) (bg : Bool) (n b : Nat) : SameSlots s (s.aseOp bg n b) ∧ (s.aseOp bg n b).pipe.ase = s.pipe.ase := by
  have noted : SameSlots s (s.aseNoted n b) := ⟨rfl, rfl, rfl⟩
  have ase : (s.aseNoted n b).pipe.ase = s.pipe.ase := rfl
  rw [State.aseOp_eq]
  generalize s.aseNoted n b = x at noted ase ⊢
  split
  · rw [State.bankWork]
    exact State.tally_sameSlots _ _ _ noted ase
  · rw [State.bankOps]
    exact State.tally_sameSlots _ _ _ noted ase

/-- The operations of a search are counted; nothing that a search reads changes. -/
theorem State.aseOps_sameSlots (s : State) (bg wide : Bool) (banks : List Nat) :
    SameSlots s (s.aseOps bg wide banks) ∧ (s.aseOps bg wide banks).pipe.ase = s.pipe.ase := by
  unfold State.aseOps
  refine foldl_keeps (fun y : State => SameSlots s y ∧ y.pipe.ase = s.pipe.ase) _ (fun y b hy => ?_) _ s ⟨⟨rfl, rfl, rfl⟩, rfl⟩
  obtain ⟨same, ase⟩ := hy
  obtain ⟨op, opAse⟩ := y.aseOp_sameSlots bg 1 b
  exact ⟨⟨op.dev.trans same.dev, op.img.trans same.img, op.move.trans same.move⟩, opAse.trans ase⟩

theorem State.flt_aseOps (s : State) (bg wide : Bool) (banks : List Nat) : (s.aseOps bg wide banks).flt = s.flt :=
  (State.aseOps_touches (ps := [.regs, .outbox, .act, .host, .pipe]) (.refl _ s) (by decide) (by decide) (by decide) (by decide)
    (by decide)).same .flt (by decide)

/-- With no injected bits the checks of an entry find nothing of their own. -/
theorem State.slotErr_of_clean {s : State} (h : s.flt.injHit = []) (wide : Bool) (b i : Nat) : s.slotErr wide b i .clean = .clean := by
  have zero (a n : Nat) : s.injAt a n = 0 := by rw [State.injAt, h]; rfl
  have look (a n : Nat) : s.lookErr a n .clean = .clean := by
    unfold State.lookErr
    rw [zero]
    rfl
  unfold State.slotErr
  cases wide <;> simp [slotBanks, zero, look]

/-! ### SEARCH (R163, R177) -/

/-- The searched state: counted, with its operations. -/
def State.searched (s : State) (p r key : Nat) : State :=
  (s.inc ASE.P_SEARCHES p).aseOps true (s.aseWide p) (s.aseCover p r key)

/-- The counts of a hit. -/
def State.hitCounted (s : State) (p : Nat) (multi : Bool) : State :=
  (s.inc ASE.P_HITS p).when multi (fun s => s.inc ASE.P_MULTI_HITS p)

theorem State.searched_sameSlots (s : State) (p r key : Nat) : SameSlots s (s.searched p r key) := by
  obtain ⟨same, -⟩ := (s.inc ASE.P_SEARCHES p).aseOps_sameSlots true (s.aseWide p) (s.aseCover p r key)
  exact ⟨same.dev, same.img, same.move⟩

theorem State.flt_searched (s : State) (p r key : Nat) : (s.searched p r key).flt = s.flt := State.flt_aseOps _ _ _ _

theorem State.slotHit_multi (s : State) (b i : Nat) (multi : Bool) : (s.slotHit b i multi).multi = multi := rfl

theorem State.aseAnswer_of_clean {s : State} (p b i : Nat) (multi : Bool) (clean : s.flt.injHit = []) :
    s.aseAnswer p (some (b, i)) multi .clean = (s.slotHit b i multi, some (b, i), s.inc ASE.P_HITS p) := by
  unfold State.aseAnswer
  dsimp only
  rw [State.slotErr_of_clean clean]

theorem State.aseSearch_of_match {s : State} {p r key b i : Nat} {multi : Bool} (small : key % 2 ^ s.aseKeyBits p = key)
    (clean : s.flt.injHit = []) (found : s.aseMatch p key (s.aseCover p r key) = (some (b, i), multi)) :
    s.aseSearch true p r key .clean =
      ((s.searched p r key).slotHit b i multi, some (b, i), (s.searched p r key).hitCounted p multi) := by
  have found' := ((s.searched_sameSlots p r key).aseMatch p key (s.aseCover p r key)).trans found
  have hit : (s.searched p r key).flt.injHit = [] := (congrArg FltSt.injHit (s.flt_searched p r key)).trans clean
  have err := State.slotErr_of_clean hit (s.aseWide p) b i
  have answer := State.aseAnswer_of_clean p b i multi hit
  unfold State.aseSearch
  extract_lets k wide banks x count
  have hk : k = key := small
  have hbanks : banks = s.aseCover p r key := congrArg (s.aseCover p r) hk
  have hx : x = s.searched p r key := congrArg (fun l => (s.inc ASE.P_SEARCHES p).aseOps true (s.aseWide p) l) hbanks
  have hwide : wide = s.aseWide p := rfl
  clear_value x banks k wide
  rw [hx, hk, hwide, hbanks]
  generalize s.searched p r key = y at found' err answer ⊢
  simp only [found', err, answer]
  rfl

/-- The cursor that a search leaves. -/
def State.searchCursor (s : State) (p r key : Nat) : AseCursor :=
  { part := p, key := key, banks := (s.aseCover p r key).map (fun b => (b - s.aseBank p r, 0)) }

theorem State.aseCmdSearch_of_found {s t : State} {p r key b i : Nat} {h : Hit} {e : LookErr} (part : p < s.get ASE.PART_COUNT)
    (replica : r < s.aseReplicas p) (hkey : leNat (s.aseOperand ASE.OP_KEY) % 2 ^ s.aseKeyBits p = key)
    (found : s.aseSearch true p r key e = (h, some (b, i), t)) : ∃ x : State,
      s.aseCmdSearch p r e = (x.aseFound b i).aseDone aseOk ∧ x.dev = t.dev ∧ x.regs = (t.setB ASE.CMD_MULTI h.multi).regs := by
  unfold State.aseCmdSearch
  rw [State.aseReplica_of_good _ part replica]
  dsimp only
  rw [hkey, found]
  exact ⟨_, rfl, rfl, rfl⟩

theorem State.aseFound_writesOwn (s : State) (b i : Nat) : Writes [1813, 1814, 1815, 1816, 1817, 1819] s (s.aseFound b i) :=
  State.aseFound_writes (.refl _ s) (by decide)

/-- A found entry is shown, and the command is done. -/
theorem State.foundDone_shows (s : State) (b i : Nat) : ((s.aseFound b i).aseDone aseOk).get ASE.CMD_CODE = 0 ∧
    ((s.aseFound b i).aseDone aseOk).flag ASE.F_FOUND = true ∧ ((s.aseFound b i).aseDone aseOk).get ASE.F_BANK = b % 2 ^ 10 ∧
    ((s.aseFound b i).aseDone aseOk).get ASE.F_INDEX = i % 2 ^ 11 ∧
    ((s.aseFound b i).aseDone aseOk).get ASE.OP_RESULT = s.mem (slotAddr b i + 44) 4 % 2 ^ 32 ∧
    ((s.aseFound b i).aseDone aseOk).flag ASE.CMD_MULTI = s.flag ASE.CMD_MULTI ∧ ((s.aseFound b i).aseDone aseOk).dev = s.dev := by
  obtain ⟨found, bank, index, -, result⟩ := s.aseFound_shows b i
  have done := State.aseDone_writesOwn (s.aseFound b i) aseOk
  exact ⟨(State.aseDone_shows _ (by decide)).1, (done.flag_eq (by decide) (by decide)).trans found,
    (done.get_eq (by decide) (by decide)).trans bank, (done.get_eq (by decide) (by decide)).trans index,
    (done.get_eq (by decide) (by decide)).trans result,
    (done.flag_eq (by decide) (by decide)).trans ((s.aseFound_writesOwn b i).flag_eq (by decide) (by decide)),
    (State.dev_aseDone _ _).trans (s.dev_aseFound b i)⟩

theorem State.dev_hitCounted (s : State) (p : Nat) (multi : Bool) : (s.hitCounted p multi).dev = s.dev :=
  State.when_cases (P := fun y : State => y.dev = s.dev) (s.inc ASE.P_HITS p) multi _ rfl fun _ => rfl

theorem State.aseCmdSearch_shows {s : State} {p key b i : Nat} {multi : Bool} (part : p < s.get ASE.PART_COUNT)
    (replica : s.aseReplicas p ≠ 0) (clean : s.flt.injHit = []) (hkey : leNat (s.aseOperand ASE.OP_KEY) % 2 ^ s.aseKeyBits p = key)
    (found : s.aseMatch p key (s.aseCover p 0 key) = (some (b, i), multi)) :
    (s.aseCmdSearch p 0 .clean).get ASE.CMD_CODE = 0 ∧ (s.aseCmdSearch p 0 .clean).flag ASE.F_FOUND = true ∧
      (s.aseCmdSearch p 0 .clean).get ASE.F_BANK = b % 2 ^ 10 ∧ (s.aseCmdSearch p 0 .clean).get ASE.F_INDEX = i % 2 ^ 11 ∧
      (s.aseCmdSearch p 0 .clean).flag ASE.CMD_MULTI = multi ∧
      (s.aseCmdSearch p 0 .clean).get ASE.OP_RESULT = s.mem (slotAddr b i + 44) 4 % 2 ^ 32 ∧ (s.aseCmdSearch p 0 .clean).dev = s.dev := by
  have small : key % 2 ^ s.aseKeyBits p = key := by rw [← hkey, Nat.mod_mod]
  obtain ⟨x, done, dev, regs⟩ := State.aseCmdSearch_of_found part (Nat.pos_of_ne_zero replica) hkey
    (State.aseSearch_of_match small clean found)
  have same : x.dev = s.dev := dev.trans ((State.dev_hitCounted _ _ _).trans (s.searched_sameSlots p 0 key).dev)
  have both : x.flag ASE.CMD_MULTI = multi := by
    rw [State.flag, State.get_congr_regs regs]
    exact State.flag_setB_self _ ASE.CMD_MULTI multi 0 0 (by decide)
  obtain ⟨code, shown, bank, index, result, more, kept⟩ := x.foundDone_shows b i
  rw [done]
  exact ⟨code, shown, bank, index, more.trans both, result.trans (by rw [State.mem_congr same]), kept.trans same⟩

/-! ### STEP (R177) -/

theorem State.slotBest_single (s : State) (w : Nat × Nat) : s.slotBest [w] = some w := rfl

theorem State.aseRest_congr {s t : State} (h : SameSlots s t) (c : AseCursor) (r : Nat) : t.aseRest c r = s.aseRest c r := by
  have flags : t.slotFlags = s.slotFlags := funext fun b => funext fun i => State.slotFlags_congr h.dev b i
  unfold State.aseRest
  rw [State.aseBank_congr h.img, State.bankMatches_congr h.dev, State.aseWide_congr h.img, flags]

theorem State.aseRest_of_one {s : State} {c : AseCursor} {r o k b i : Nat} (banks : c.banks = [(o, k)]) (hb : b = s.aseBank c.part r + o)
    (next : (s.bankMatches (s.aseWide c.part) b c.key).find? (fun j => decide (k ≤ j) && !bit (s.slotFlags b j) 2) = some i) :
    s.aseRest c r = [(b, i)] := by
  subst hb
  unfold State.aseRest
  rw [banks, List.filterMap_cons]
  dsimp only
  rw [next]
  rfl

theorem AseCursor.report_of_one {c : AseCursor} {o k i : Nat} (banks : c.banks = [(o, k)]) : c.report o i = { c with banks := [(o, i + 1)] } := by
  rw [AseCursor.report, banks]
  simp

/-- The operations of a step. -/
def State.stepWorked (s : State) (c : AseCursor) (r : Nat) : State :=
  s.aseOps true (s.aseWide c.part) (c.banks.map (fun x => s.aseBank c.part r + x.1))

theorem State.aseStep_of_match {s : State} {c : AseCursor} {r b i : Nat} (clean : s.flt.injHit = []) (rest : s.aseRest c r = [(b, i)]) :
    s.aseStep c r .clean = (s.stepWorked c r).aseReport c r (b, i) := by
  obtain ⟨same, -⟩ := s.aseOps_sameSlots true (s.aseWide c.part) (c.banks.map (fun x => s.aseBank c.part r + x.1))
  have best : (s.stepWorked c r).slotBest ((s.stepWorked c r).aseRest c r) = some (b, i) := by
    rw [State.stepWorked, State.aseRest_congr same, rest, State.slotBest_single]
  have err : (s.stepWorked c r).slotErr (s.aseWide c.part) b i .clean = .clean :=
    State.slotErr_of_clean ((congrArg FltSt.injHit (s.flt_aseOps _ _ _)).trans clean) _ _ _
  unfold State.aseStep
  extract_lets p wide banks x
  have hx : x = s.stepWorked c r := rfl
  have hwide : wide = s.aseWide c.part := rfl
  clear_value x wide
  rw [hx, hwide, best]
  dsimp only
  rw [err]

theorem State.aseCmdStep_of_cursor {s : State} {p r : Nat} {c : AseCursor} (e : LookErr) (part : p < s.get ASE.PART_COUNT)
    (replica : r < s.aseReplicas p) (cursor : s.pipe.ase = some c) (replica' : r < s.aseReplicas c.part) :
    s.aseCmdStep p r e = s.aseStep c r e := by
  unfold State.aseCmdStep
  rw [State.aseReplica_of_good _ part replica, cursor]
  exact if_neg (Nat.not_le.mpr replica')

theorem State.aseCmdStep_of_none {s : State} {p r : Nat} (e : LookErr) (part : p < s.get ASE.PART_COUNT) (replica : r < s.aseReplicas p)
    (cursor : s.pipe.ase = none) : s.aseCmdStep p r e = s.aseNone aseEnd := by
  unfold State.aseCmdStep
  rw [State.aseReplica_of_good _ part replica, cursor]

theorem State.aseNone_shows (s : State) : (s.aseNone aseEnd).get ASE.CMD_CODE = 7 ∧ (s.aseNone aseEnd).flag ASE.F_FOUND = false :=
  ⟨(State.aseDone_shows _ (by decide)).1, ((State.aseDone_writesOwn _ _).flag_eq (by decide) (by decide)).trans
    (State.flag_setB_self s ASE.F_FOUND false 0 0 (by decide))⟩

/-- The cursor stands past the reported entry. -/
def State.cursorPast (s : State) (c : AseCursor) (r b i : Nat) : State :=
  { s with pipe := { s.pipe with ase := some (c.report (b - s.aseBank c.part r) i) } }

theorem State.aseReport_eq (s : State) (c : AseCursor) (r b i : Nat) :
    s.aseReport c r (b, i) = ((s.cursorPast c r b i).aseFound b i).aseDone aseOk := rfl

theorem State.pipe_foundDone (s : State) (b i : Nat) : ((s.aseFound b i).aseDone aseOk).pipe = s.pipe :=
  Eq.trans ((State.aseDone_frame _ _).same .pipe (by decide)) rfl

theorem State.cursor_aseReport {s : State} {c : AseCursor} {r b o k i : Nat} (banks : c.banks = [(o, k)]) (hb : b = s.aseBank c.part r + o) :
    (s.aseReport c r (b, i)).pipe.ase = some { c with banks := [(o, i + 1)] } := by
  rw [State.aseReport_eq, State.pipe_foundDone]
  change some (c.report (b - s.aseBank c.part r) i) = _
  rw [hb, Nat.add_sub_cancel_left, AseCursor.report_of_one banks]

/-- Settles O21: SEARCH and STEP answer the match that the rules give. -/
theorem aseSearchesTakeEffect : Obligations.AseSearchesTakeEffect := by
  unfold Obligations.AseSearchesTakeEffect
  refine ⟨fun s p b i multi ho part replica clean found => ⟨_, next_viaHost (f := ASE.CMD_OPCODE) ho,
      State.aseCmdSearch_shows part replica clean rfl found⟩,
    fun s p r c b o k i ho part replica cursor replica' clean banks hb next => ⟨_, (next_viaHost (f := ASE.CMD_OPCODE) ho).trans
      (congrArg Host.Outcome.next (State.aseCmdStep_of_cursor .clean part replica cursor replica')), ?_⟩,
    fun s p r e ho part replica none => ⟨_, (next_viaHost (f := ASE.CMD_OPCODE) ho).trans
      (congrArg Host.Outcome.next (State.aseCmdStep_of_none e part replica none)), s.aseNone_shows⟩⟩
  obtain ⟨same, -⟩ := s.aseOps_sameSlots true (s.aseWide c.part) (c.banks.map (fun x => s.aseBank c.part r + x.1))
  have first : b = (s.stepWorked c r).aseBank c.part r + o := hb.trans (by rw [State.stepWorked, State.aseBank_congr same.img])
  rw [State.aseStep_of_match clean (State.aseRest_of_one banks hb next)]
  have past := State.cursor_aseReport (i := i) banks first
  rw [State.aseReport_eq] at past ⊢
  obtain ⟨code, found, bank, index, -⟩ := State.foundDone_shows ((s.stepWorked c r).cursorPast c r b i) b i
  exact ⟨code, found, bank, index, past⟩

end Sys2Proof.Machine
end

section
/-!
Refutation of O18: a learn whose table asks for notices writes its notice into the event ring as well (R150, R151).
-/
namespace Sys2Proof.Machine
open Reg

/-- One learn waits for table 0, whose NOTIFY asks for learn events in event ring 0; that ring is enabled at window offset 0, and its
entry 0 has been given (OWN = 1, GEN = 1). -/
def noticeGiven : State := { State.reset with
  regs := [(HOST.R_EN.key 80 0, 1)]
  dev := [(28, 3)]
  img := { State.reset.img with run := [(secEm, zeros 45 ++ [1])] }
  pipe := { State.reset.pipe with learnQ := [{ table := 0, key := [], result := 0, move := false }] } }

/-- The key is absent, and entry 0 is free for it. -/
theorem noticeGiven_free : noticeGiven.emFind 0 [] = [] ∧ noticeGiven.emPlace true 0 [] = some [0] := by decide +kernel

/-- The learn leaves its notice, an event of kind 1, in the ring's entry. -/
theorem noticeGiven_noted : memByte noticeGiven.learnServe.dev 0 = 1 := by decide +kernel

/-- Refutes O18: with a notice due in a given entry of an event ring, a learn changes the ring's bytes too, so the device memory is not
the old one with the learnt entry alone. -/
theorem not_exactMatchCommandsTakeEffect : ¬ Obligations.ExactMatchCommandsTakeEffect := by
  unfold Obligations.ExactMatchCommandsTakeEffect
  rintro ⟨-, -, -, -, -, -, learns, -⟩
  obtain ⟨absent, free⟩ := noticeGiven_free
  obtain ⟨u, run, -, dev⟩ := learns noticeGiven { table := 0, key := [], result := 0, move := false } [] 0 rfl rfl absent free
  have served : noticeGiven.learnServe = u := Host.Outcome.next.inj run
  have noted := noticeGiven_noted
  rw [served, dev, memByte_memStore_of_outside _ _ _ _ (.inl (by decide))] at noted
  exact absurd noted (by decide)

end Sys2Proof.Machine
end

section
/-!
Proofs of O17 (R228, R245, R258 to R260): shapers, hold lists, residue, replication, and the hold of a port that is down.
-/
namespace Sys2Proof.Machine
open Reg

/-! ### Linking (R228, R231, R268) -/

theorem State.que_tally (s : State) (u e n : Nat) : (s.tally u e n).que = s.que :=
  (State.tally_touches (ps := [.regs, .outbox, .act, .host]) (.refl _ s) (by decide) (by decide) (by decide) (by decide)).same .que (by decide)

theorem State.que_ecnDecide (s : State) (q d : Nat) : (s.ecnDecide q d).2.que = s.que :=
  (State.ecnDecide_touches (ps := [.draws]) (.refl _ s) (by decide)).same .que (by decide)

theorem State.que_when_inc (s : State) (c : Bool) (f : Fld) (k : Nat) : (s.when c fun s => s.inc f k).que = s.que := by
  cases c <;> rfl

/-- What is linked joins the end of its queue; what waits elsewhere stays. -/
theorem State.link_joins {s : State} {i : Inst} (good : s.handleCheck i.h = 0) (launch : s.launchRefused i = false) :
    ∃ (x : State) (j : Inst), x.que = s.que ∧ j.h = i.h ∧ j.copy = i.copy ∧
      s.link i = (x.setQueue i.queue (x.queue i.queue ++ [j])).tally 127 evLink := by
  unfold State.link
  dsimp only
  rw [good, launch, if_neg (by decide), if_neg (by decide)]
  generalize hm : s.ecnDecide i.queue (s.depth i.queue) = m
  have que : m.2.que = s.que := hm ▸ s.que_ecnDecide _ _
  refine ⟨_, _, ?_, ?_, ?_, rfl⟩
  · rw [State.que_when_inc, State.que_when_inc, que]
  · rfl
  · rfl

theorem State.queue_setQueue_self (s : State) (q : Nat) (l : List Inst) : (s.setQueue q l).queue q = l := by
  unfold State.setQueue State.queue
  cases l <;> simp

theorem State.holds_setQueue (s : State) (q : Nat) (l : List Inst) : (s.setQueue q l).que.holds = s.que.holds := rfl

theorem State.residue_setQueue (s : State) (q : Nat) (l : List Inst) : (s.setQueue q l).que.residue = s.que.residue := rfl

theorem State.link_shows {s : State} {i : Inst} (good : s.handleCheck i.h = 0) (launch : s.launchRefused i = false) :
    (∃ j, (s.link i).queue i.queue = s.queue i.queue ++ [j] ∧ j.h = i.h ∧ j.copy = i.copy) ∧
      (s.link i).que.holds = s.que.holds ∧ (s.link i).que.residue = s.que.residue := by
  obtain ⟨x, j, que, h, copy, link⟩ := State.link_joins good launch
  have old : x.queue i.queue = s.queue i.queue := by rw [State.queue, State.queue, que]
  have new : (s.link i).que = (x.setQueue i.queue (x.queue i.queue ++ [j])).que := by rw [link, State.que_tally]
  refine ⟨⟨j, ?_, h, copy⟩, ?_, ?_⟩
  · rw [State.queue, new, ← old]
    exact State.queue_setQueue_self _ _ _
  · rw [new, State.holds_setQueue, que]
  · rw [new, State.residue_setQueue, que]

/-! ### Hold lists and residue (R228, R258) -/

theorem State.holdList_setHolds_self (s : State) (r : Nat) (l : List Hold) : (s.setHolds r l).holdList r = l := by
  unfold State.setHolds State.holdList
  cases l <;> simp

theorem State.residueOf_setResidue_self (s : State) (p : Nat) (l : List Inst) : (s.setResidue p l).residueOf p = l := by
  unfold State.setResidue State.residueOf
  cases l <;> simp

/-- A handle's check and a launch time's depend on registers and the buffer alone. -/
theorem State.handleCheck_setHolds (s : State) (r h : Nat) (l : List Hold) : (s.setHolds r l).handleCheck h = s.handleCheck h := rfl

theorem State.launchRefused_setHolds (s : State) (r : Nat) (l : List Hold) (i : Inst) : (s.setHolds r l).launchRefused i = s.launchRefused i := rfl

theorem State.queue_setHolds (s : State) (r q : Nat) (l : List Hold) : (s.setHolds r l).queue q = s.queue q := rfl

theorem State.handleCheck_setResidue (s : State) (p h : Nat) (l : List Inst) : (s.setResidue p l).handleCheck h = s.handleCheck h := rfl

theorem State.launchRefused_setResidue (s : State) (p : Nat) (l : List Inst) (i : Inst) :
    (s.setResidue p l).launchRefused i = s.launchRefused i := rfl

theorem State.queue_setResidue (s : State) (p q : Nat) (l : List Inst) : (s.setResidue p l).queue q = s.queue q := rfl

/-- A hold list's element has left it and it is linked. -/
theorem State.heldLink_shows {s : State} {r : Nat} {rest : List Hold} {i : Inst} (good : s.handleCheck i.h = 0)
    (launch : s.launchRefused i = false) : ((s.setHolds r rest).link i).holdList r = rest ∧
      ∃ j, ((s.setHolds r rest).link i).queue i.queue = s.queue i.queue ++ [j] ∧ j.h = i.h ∧ j.copy = i.copy := by
  obtain ⟨joined, holds, -⟩ := State.link_shows (s := s.setHolds r rest) ((s.handleCheck_setHolds r i.h rest).trans good)
    ((s.launchRefused_setHolds r rest i).trans launch)
  rw [s.queue_setHolds] at joined
  refine ⟨?_, joined⟩
  rw [State.holdList, holds]
  exact s.holdList_setHolds_self r rest

theorem State.holdServe_of_inst {s : State} {r : Nat} {i : Inst} {rest : List Hold} (h : s.holdList r = .inst i :: rest)
    (gate : s.portGate i.queue ≠ .down) (ok : s.linkable i = true) : s.holdServe r = (s.setHolds r rest).link i := by
  unfold State.holdServe
  rw [h]
  dsimp only
  rw [if_neg gate, if_pos ok]

theorem State.residueLink_of_ready {s : State} {p : Nat} {i : Inst} {rest : List Inst} (h : s.residueOf p = i :: rest)
    (ready : s.memberReady i.depth p i.queue = true) : s.residueLink p = (s.setResidue p rest).link i := by
  unfold State.residueLink
  rw [h]
  exact if_pos ready

theorem State.residueLink_shows {s : State} {p : Nat} {i : Inst} {rest : List Inst} (h : s.residueOf p = i :: rest)
    (ready : s.memberReady i.depth p i.queue = true) (good : s.handleCheck i.h = 0) (launch : s.launchRefused i = false) :
    (s.residueLink p).residueOf p = rest ∧ ∃ j, (s.residueLink p).queue i.queue = s.queue i.queue ++ [j] ∧ j.h = i.h := by
  rw [State.residueLink_of_ready h ready]
  obtain ⟨⟨j, joined, handle, -⟩, -, residue⟩ := State.link_shows (s := s.setResidue p rest)
    ((s.handleCheck_setResidue p i.h rest).trans good) ((s.launchRefused_setResidue p rest i).trans launch)
  rw [s.queue_setResidue] at joined
  refine ⟨?_, j, joined, handle⟩
  rw [State.residueOf, residue]
  exact s.residueOf_setResidue_self p rest

/-! ### Replication (R257 to R259) -/

/-- The copy of a replicated frame at a member. -/
def copyAt (i : Inst) (g q : Nat) : Inst := { i with queue := q, copy := 1, depth := g }

theorem State.replicate_of_ready {s : State} {i : Inst} {g n : Nat} (full : Bool) (listed : s.queueListed (s.copyQueue g n) = true)
    (gate : s.portGate (s.copyQueue g n) ≠ .down) (empty : s.residueOf n = []) (ready : s.memberReady g n (s.copyQueue g n) = true) :
    s.replicate i g full [n] = s.link (copyAt i g (s.copyQueue g n)) := by
  have free : s.replBlocked g n = false := by
    unfold State.replBlocked
    simp [empty, ready]
  unfold State.replicate
  dsimp only
  rw [if_neg (by rw [free]; decide), if_neg (by rw [listed]; decide), if_neg gate, if_pos (by rw [empty, ready]; rfl)]
  rfl

theorem State.replStopped_of_ready {s : State} {x : Stall} {n : Nat} (left : x.left = [n]) (empty : s.residueOf n = [])
    (ready : s.memberReady x.group n (s.copyQueue x.group n) = true) : s.replStopped x = false := by
  have free : s.replBlocked x.group n = false := by
    unfold State.replBlocked
    simp [empty, ready]
  unfold State.replStopped
  rw [left]
  dsimp only
  rw [free, Bool.and_false]

theorem State.replResume_of_ready {s : State} {r n : Nat} {x : Stall} {rest : List Hold} (h : s.holdList r = .repl x :: rest)
    (left : x.left = [n]) (listed : s.queueListed (s.copyQueue x.group n) = true) (gate : s.portGate (s.copyQueue x.group n) ≠ .down)
    (empty : s.residueOf n = []) (ready : s.memberReady x.group n (s.copyQueue x.group n) = true) :
    s.replResume r = (s.setHolds r rest).link (copyAt x.i x.group (s.copyQueue x.group n)) := by
  have going := State.replStopped_of_ready left empty ready
  unfold State.replResume
  rw [h]
  dsimp only
  unfold State.holdServe
  rw [h]
  dsimp only
  rw [going, if_neg (by decide), left]
  exact State.replicate_of_ready (s := s.setHolds r rest) _ listed gate empty ready

/-! ### Ports that stay down (R260) -/

theorem State.que_instEnd (s : State) (i : Inst) : (s.instEnd i).que = s.que :=
  (State.instEnd_touches (ps := [.regs, .outbox, .flt, .act, .host, .buf]) (.refl _ s) (by decide) (by decide) (by decide) (by decide)
    (by decide) (by decide)).same .que (by decide)

/-- What is queued for a port, its residue and what it is about to send are gone. -/
def State.portEmptied (s : State) (p : Nat) : State :=
  { s with
    que := { s.que with queues := s.que.queues.filter (fun x => !(x.1 / 256 = p && x.1 < 0x40000)),
                        residue := tabDel s.que.residue p, txq := tabDel s.que.txq p }
    pipe := { s.pipe with eg := tabFilter (fun e => e.port != p) s.pipe.eg } }

theorem State.flushPort_que (s : State) (p : Nat) : ∃ x : State, (s.flushPort p).que = (x.portEmptied p).que := by
  unfold State.flushPort
  extract_lets queued out res x pipe que y z
  refine ⟨x, ?_⟩
  have emptied : z.que = (x.portEmptied p).que := rfl
  rw [← emptied]
  clear_value z
  exact foldl_keeps (fun t : State => t.que = z.que) _ (fun t i h => (t.que_instEnd i).trans h) _ z rfl

theorem State.flushPort_empties (s : State) (p : Nat) :
    (s.flushPort p).residueOf p = [] ∧ ∀ q, q / 256 = p → q < 0x40000 → (s.flushPort p).queue q = [] := by
  obtain ⟨x, que⟩ := s.flushPort_que p
  refine ⟨?_, fun q hq small => ?_⟩
  · rw [State.residueOf, que]
    exact tabGet_tabDel_self _ _ _
  · have gone : tabFind (x.portEmptied p).que.queues q = none := by
      refine (tabFind_filter (fun k => !(k / 256 = p && k < 0x40000)) x.que.queues q).trans (if_neg ?_)
      simp [hq, small]
    rw [State.queue, que, tabGet, gone]
    rfl

theorem State.holdExpire_of_due {s : State} {p : Nat} (active : s.holdActive p = true) (down : s.portUp p = false)
    (due : (tabGet {} s.buf.link p).holdAt + s.get QSCH.PORT_DOWN_HOLD p * 1250000 ≤ s.frc) :
    s.holdExpire p = (s.setB QSCH.HOLD_ACTIVE false p).flushPort p := by
  have passed : s.elapsed (tabGet {} s.buf.link p).holdAt (s.get QSCH.PORT_DOWN_HOLD p * ticksPerMs) = true := State.elapsed_of_le due
  unfold State.holdExpire
  rw [active, down, passed]
  rfl

/-! ### Shapers (R245) -/

theorem State.debtRepaid_of_refilled {s : State} {x : Shaper} (en : x.enabled = true) (listed : (tabFind s.que.buckets x.status).isSome = true)
    (level : 0 ≤ s.shaperLevel x) : s.debtRepaid x = s.putBucket x.status (s.shaperLevel x) :=
  if_pos (by rw [en, listed, decide_eq_true level]; rfl)

/-- Settles O17: shapers, hold lists, residue, replication and the hold of a port each do what their rule says. -/
theorem queueCommandsTakeEffect : Obligations.QueueCommandsTakeEffect := by
  unfold Obligations.QueueCommandsTakeEffect
  refine ⟨fun s k n en listed level => ⟨_, congrArg Host.Outcome.next (State.debtRepaid_of_refilled en listed level),
      State.putBucket_touches (.refl _ s) (by decide), tabFind_tabPut_self _ _ _⟩,
    fun s r i rest h gate ok good launch => ⟨_, congrArg Host.Outcome.next (State.holdServe_of_inst h gate ok),
      State.heldLink_shows good launch⟩,
    fun s p i rest h ready good launch => ⟨_, rfl, State.residueLink_shows h ready good launch⟩,
    fun s r x n rest h left listed gate empty ready good launch =>
      ⟨_, congrArg Host.Outcome.next (State.replResume_of_ready h left listed gate empty ready), ?_⟩,
    fun s p active down due => ⟨_, congrArg Host.Outcome.next (State.holdExpire_of_due active down due), State.flushPort_empties _ _⟩⟩
  have free : s.launchRefused (copyAt x.i x.group (s.copyQueue x.group n)) = false := by
    unfold State.launchRefused copyAt
    rw [launch]
  obtain ⟨list, j, joined, handle, copy⟩ :=
    State.heldLink_shows (r := r) (rest := rest) (i := copyAt x.i x.group (s.copyQueue x.group n)) good free
  exact ⟨list, j, joined, handle, copy⟩

end Sys2Proof.Machine
end

section
/-!
Proofs of O29 (R339 to R349): DMA channels and their shadow set.
-/
namespace Sys2Proof.Machine
open Reg

/-! ### Channels (R341, R345, R349) -/

theorem State.get_dmaMessage (s : State) (c : Nat) (f : Fld) (k l : Nat) : (s.dmaMessage c).get f k l = s.get f k l :=
  s.get_msixSend _ _ _ _

/-- A register of a channel is as it was when another of its registers is written. -/
theorem State.get_set_channel {f g : Fld} {c : Nat} (s : State) (v : Nat) (h : f.apart g = true) (hf : f.Inst c 0) :
    (s.set g v c).get f c = s.get f c := State.get_set_of_apart h hf

theorem State.dmaStart_of_good {s : State} {c : Nat} (good : s.dmaCheck c = none) :
    s.dmaStart c = ((s.setB HOST.D_OVERLAP_DESC (s.dmaOverlap c && decide (s.get HOST.D_SRC c < s.get HOST.D_DST c)) c).set HOST.D_STATE
      dmaRunning c).dmaPut c {} := by
  rw [State.dmaStart, good]

theorem State.dmaHalt_shows (s : State) (c : Nat) {result : Nat} (residue : Nat) (hr : result < 2 ^ 4) :
    (s.dmaHalt c result residue).get HOST.D_STATE c = dmaHalted ∧ (s.dmaHalt c result residue).get HOST.D_RESULT c = result ∧
      (s.dmaHalt c result residue).get HOST.D_RESIDUE c = residue % 2 ^ 24 ∧ (s.dmaHalt c result residue).flag HOST.D_DONE c = true :=
  ⟨s.get_STATE_dmaHalt c result residue, (s.get_RESULT_dmaHalt c result residue).trans (Nat.mod_eq_of_lt hr),
    s.get_RESIDUE_dmaHalt c result residue, s.flag_DONE_dmaHalt c result residue⟩

/-! ### The shadow set (R348, R349) -/

theorem State.dmaHandover_of_none {s : State} {c : Nat} (h : s.flag HOST.D_SHADOW_VALID c = false) : s.dmaHandover c = s := by
  rw [State.dmaHandover, h, if_neg (by decide)]

/-- The shadow set has been taken into the channel. -/
def State.shadowTaken (s : State) (c : Nat) : State :=
  let cfg := s.get HOST.D_SH_CFG c
  let s := ((s.set HOST.D_SRC (s.get HOST.D_SH_SRC c) c).set HOST.D_DST (s.get HOST.D_SH_DST c) c).set HOST.D_COUNT
    (s.get HOST.D_SH_COUNT c) c
  let s := ((s.set HOST.D_SRC_W (bits cfg 0 6) c).set HOST.D_DST_W (bits cfg 8 6) c).setB HOST.D_NARROW_OK (bit cfg 16) c
  let s := (s.setB HOST.D_HALF_IE (bit cfg 17) c).setB HOST.D_FULL_IE (bit cfg 18) c
  ((s.setB HOST.D_SHADOW_VALID false c).setB HOST.D_TAKEN true c).inc HOST.D_HANDOVERS c

theorem State.dmaHandover_of_valid {s : State} {c : Nat} (h : s.flag HOST.D_SHADOW_VALID c = true) :
    s.dmaHandover c = (s.shadowTaken c).dmaStart c := by
  rw [State.dmaHandover, h, if_pos rfl]
  rfl

theorem State.shadowTaken_shows (s : State) {c : Nat} (hc : c < 32) : (s.shadowTaken c).flag HOST.D_SHADOW_VALID c = false ∧
    (s.shadowTaken c).flag HOST.D_TAKEN c = true ∧ (s.shadowTaken c).get HOST.D_SRC c = s.get HOST.D_SH_SRC c % 2 ^ 64 ∧
    (s.shadowTaken c).get HOST.D_DST c = s.get HOST.D_SH_DST c % 2 ^ 64 := by
  unfold State.shadowTaken State.inc State.add State.setB
  dsimp only
  refine ⟨?_, ?_, ?_, ?_⟩
  · rw [State.flag, State.get_set_channel _ _ (by decide) ⟨hc, by decide⟩, State.get_set_channel _ _ (by decide) ⟨hc, by decide⟩]
    exact State.flag_setB_self _ HOST.D_SHADOW_VALID false c 0 (by decide)
  · rw [State.flag, State.get_set_channel _ _ (by decide) ⟨hc, by decide⟩]
    exact State.flag_setB_self _ HOST.D_TAKEN true c 0 (by decide)
  · iterate 10 rw [State.get_set_channel _ _ (by decide) ⟨hc, by decide⟩]
    exact State.get_set_self _ HOST.D_SRC _ _ _
  · iterate 9 rw [State.get_set_channel _ _ (by decide) ⟨hc, by decide⟩]
    exact State.get_set_self _ HOST.D_DST _ _ _

theorem State.shadowArm_shows {s : State} {c : Nat} (hc : c < 32) :
    (s.shadowArm c).flag HOST.D_SHADOW_VALID c = decide (s.get HOST.D_STATE c ≠ dmaIdle) ∧
      (s.get HOST.D_STATE c = dmaIdle → (s.shadowArm c).flag HOST.D_TAKEN c = true ∧
        (s.shadowArm c).get HOST.D_SRC c = s.get HOST.D_SH_SRC c % 2 ^ 64 ∧
        (s.shadowArm c).get HOST.D_DST c = s.get HOST.D_SH_DST c % 2 ^ 64) := by
  have armed : (s.setB HOST.D_SHADOW_VALID true c).flag HOST.D_SHADOW_VALID c = true :=
    State.flag_setB_self s HOST.D_SHADOW_VALID true c 0 (by decide)
  have other {f : Fld} (h : f.apart HOST.D_SHADOW_VALID = true) (hf : f.Inst c 0) :
      (s.setB HOST.D_SHADOW_VALID true c).get f c = s.get f c := State.get_set_channel s _ h hf
  unfold State.shadowArm
  dsimp only
  rw [other (by decide) ⟨hc, by decide⟩]
  by_cases idle : s.get HOST.D_STATE c = dmaIdle
  · obtain ⟨valid, taken, src, dst⟩ := (s.setB HOST.D_SHADOW_VALID true c).shadowTaken_shows hc
    have start := State.dmaStart_writes (.refl _ ((s.setB HOST.D_SHADOW_VALID true c).shadowTaken c)) (a1 := c) (List.Subset.refl _)
    rw [if_pos idle, State.dmaHandover_of_valid armed]
    rw [other (by decide) ⟨hc, by decide⟩] at src dst
    refine ⟨(start.flag_eq (by decide) ⟨hc, by decide⟩).trans (valid.trans (by simp [idle])), fun _ =>
      ⟨(start.flag_eq (by decide) ⟨hc, by decide⟩).trans taken, (start.get_eq (by decide) ⟨hc, by decide⟩).trans src,
        (start.get_eq (by decide) ⟨hc, by decide⟩).trans dst⟩⟩
  · rw [if_neg idle]
    exact ⟨armed.trans (by simp [idle]), fun h => absurd h idle⟩

/-- A write of the shadow set while it is armed is rejected whole. -/
theorem shadowWord_of_armed {s : State} {c off v : Nat} (h : s.flag HOST.D_SHADOW_VALID c = true) :
    (shadowWord s c off v).flag HOST.D_WRITE_REJECTED c = true ∧
      ∀ f : Fld, f.apart HOST.D_WRITE_REJECTED = true → f.Inst c 0 → (shadowWord s c off v).get f c = s.get f c := by
  unfold shadowWord
  rw [h]
  exact ⟨State.flag_setB_self s HOST.D_WRITE_REJECTED true c 0 (by decide), fun f apart hf => State.get_set_channel s _ apart hf⟩

theorem shadowWord_count {s : State} {c v : Nat} (h : s.flag HOST.D_SHADOW_VALID c = false) :
    shadowWord s c 0x50 v = s.set HOST.D_SH_COUNT v c := by
  unfold shadowWord
  rw [h]
  rfl

/-! ### Bursts (R339, R342) -/

/-- The element gathered for the host, and counted. -/
def State.elemMoved (s : State) (c : Nat) (data : List Byte) : State :=
  (s.dmaPut c { gather := some (addrOffset (s.get HOST.D_DST c), data) }).dmaPut c
    { moved := 1, gather := some (addrOffset (s.get HOST.D_DST c), data) }

theorem State.dmaSource_of_host {s : State} {c : Nat} {data : List Byte} (src : addrSpace (s.get HOST.D_SRC c) = 0)
    (length : data.length = s.dmaSw c) : s.dmaSource c 0 0 data = .inl data := by
  have all : slice data (0 * s.dmaSw c) (s.dmaSw c) = data := by
    rw [slice, Nat.zero_mul, List.drop_zero, ← length, List.take_length]
  unfold State.dmaSource
  dsimp only
  rw [all, if_pos (by rw [Nat.zero_mul, Nat.add_zero]; exact src), if_pos (by omega)]

theorem State.dmaDeliver_of_host {s : State} {c : Nat} (data : List Byte) (fresh : s.dmaRec c = {})
    (dst : addrSpace (s.get HOST.D_DST c) = 0) :
    s.dmaDeliver c 0 data = (s.dmaPut c { gather := some (addrOffset (s.get HOST.D_DST c), data) }, none) := by
  unfold State.dmaDeliver State.dmaGather
  simp [dst, fresh]

theorem State.dmaHalf_of_off {s : State} {c : Nat} (h : s.flag HOST.D_HALF_IE c = false) : s.dmaHalf c = s := by
  rw [State.dmaHalf, h]
  rfl

/-- A transfer of one host-to-host element has moved it after any burst. -/
theorem State.dmaMove_of_one {s : State} {c : Nat} {data : List Byte} (n : Nat) (fresh : s.dmaRec c = {}) (one : s.get HOST.D_COUNT c = 1)
    (src : addrSpace (s.get HOST.D_SRC c) = 0) (dst : addrSpace (s.get HOST.D_DST c) = 0) (width : s.dmaSw c = s.dmaDw c)
    (length : data.length = s.dmaDw c) (half : s.flag HOST.D_HALF_IE c = false) : s.dmaMove c 0 data (n + 1) = s.elemMoved c data := by
  have elem : s.dmaElem c 0 = 0 := by simp [State.dmaElem, one]
  have fit : fitElem (s.dmaDw c) data = data := padTo_of_length length
  have stop : State.dmaMove (s.elemMoved c data) c 1 data n = s.elemMoved c data := by
    cases n with
    | zero => rfl
    | succ n =>
      unfold State.dmaMove
      refine if_pos ?_
      rw [State.elemMoved, State.dmaRec_dmaPut_self]
      exact Nat.le_of_eq one
  unfold State.dmaMove
  dsimp only
  rw [fresh]
  dsimp only
  rw [if_neg (by omega), elem, State.dmaSource_of_host src (length.trans width.symm)]
  dsimp only
  rw [fit, State.dmaDeliver_of_host data fresh dst]
  dsimp only
  rw [State.dmaRec_dmaPut_self, State.dmaHalf_of_off (by exact half)]
  exact stop

theorem State.foldl_emit {α : Type} (f : α → Out) (l : List α) (s : State) :
    l.foldl (fun s x => s.emit (f x)) s = { s with outbox := s.outbox ++ l.map f } := by
  induction l generalizing s with
  | nil => rw [List.map_nil, List.append_nil]; rfl
  | cons x l ih => rw [List.foldl_cons, ih, State.emit, List.append_assoc]; rfl

/-- The requests of the gathered element. -/
def State.elemRequests (s : State) (c : Nat) (data : List Byte) : List Out :=
  (splitHost s.maxPayload data.length (addrOffset (s.get HOST.D_DST c)) data).map (fun x => .hostWrite x.1 x.2)

/-- The element has left in its requests. -/
def State.elemSent (s : State) (c : Nat) (data : List Byte) : State :=
  { (s.elemMoved c data).dmaPut c { moved := 1 } with outbox := s.outbox ++ s.elemRequests c data }

theorem State.get_elemSent (s : State) (c : Nat) (data : List Byte) (f : Fld) (k l : Nat) :
    (s.elemSent c data).get f k l = s.get f k l := State.get_congr_regs rfl f k l

theorem State.dmaRec_elemSent (s : State) (c : Nat) (data : List Byte) : (s.elemSent c data).dmaRec c = { moved := 1 } :=
  State.dmaRec_dmaPut_self (s.elemMoved c data) c _

theorem State.dmaFlush_elemMoved (s : State) (c : Nat) (data : List Byte) : (s.elemMoved c data).dmaFlush c = s.elemSent c data := by
  have gathered : (s.elemMoved c data).dmaRec c = { moved := 1, gather := some (addrOffset (s.get HOST.D_DST c), data) } :=
    State.dmaRec_dmaPut_self _ _ _
  rw [State.dmaFlush, gathered]
  dsimp only
  exact State.foldl_emit _ _ _

/-- A burst into host space prompts no ring. -/
theorem State.dmaPrompt_of_host {s : State} {c : Nat} (dst : addrSpace (s.get HOST.D_DST c) = 0) : s.dmaPrompt c = s := by
  unfold State.dmaPrompt
  dsimp only
  rw [dst]
  rfl

/-- The turn has gone on from channel `c`. -/
def State.turnPast (s : State) (c : Nat) : State := { s with host := { s.host with dmaNext := (c + 1) % 32 } }

/-- After its last element a running channel waits for the read-back. -/
def State.burstEnd (s : State) (c : Nat) : State :=
  if s.get HOST.D_STATE c = dmaRunning && s.dmaLeft c == 0 then s.dmaPut c { s.dmaRec c with readback := true } else s

theorem State.dmaBurst_of_turn {s : State} {c : Nat} (data : List Byte) (turn : s.dmaTurn = some c)
    (reached : (s.turnPast c).dmaBlocked c = false) : s.dmaBurst c data =
      ((((s.turnPast c).dmaMove c 0 data (burstElems (s.dmaDw c))).dmaFlush c).dmaPrompt c).burstEnd c := by
  unfold State.dmaBurst
  rw [turn, if_neg (by simp)]
  change (if (s.turnPast c).dmaBlocked c then _ else _) = _
  rw [reached, if_neg (by decide)]
  rfl

theorem State.dmaBurst_of_one {s : State} {c : Nat} {data : List Byte} (running : s.get HOST.D_STATE c = dmaRunning)
    (turn : s.dmaTurn = some c) (fresh : s.dmaRec c = {}) (linked : s.msixOpen = true) (one : s.get HOST.D_COUNT c = 1)
    (src : addrSpace (s.get HOST.D_SRC c) = 0) (dst : addrSpace (s.get HOST.D_DST c) = 0) (wide : s.get HOST.D_DST_W c ≤ 63)
    (width : s.dmaSw c = s.dmaDw c) (length : data.length = s.dmaDw c) (half : s.flag HOST.D_HALF_IE c = false) :
    s.dmaBurst c data = ((s.turnPast c).elemSent c data).dmaPut c { moved := 1, readback := true } := by
  have some_elems : burstElems (s.dmaDw c) = (burstElems (s.dmaDw c) - 1) + 1 :=
    (Nat.sub_add_cancel ((Nat.le_div_iff_mul_le (Nat.succ_pos _)).2 (by rw [Nat.succ_eq_add_one]; omega))).symm
  have reached : (s.turnPast c).dmaBlocked c = false := by
    rw [State.dmaBlocked, show (s.turnPast c).msixOpen = true from linked]
    rfl
  have moved : (s.turnPast c).dmaMove c 0 data (burstElems (s.dmaDw c)) = (s.turnPast c).elemMoved c data := by
    rw [some_elems]
    exact State.dmaMove_of_one _ fresh one src dst width length half
  have flushed := (s.turnPast c).dmaFlush_elemMoved c data
  have regs (f : Fld) : ((s.turnPast c).elemSent c data).get f c = s.get f c := State.get_elemSent _ _ _ _ _ _
  have counted := (s.turnPast c).dmaRec_elemSent c data
  generalize (s.turnPast c).elemSent c data = x at regs counted flushed ⊢
  have ended : (x.get HOST.D_STATE c = dmaRunning && x.dmaLeft c == 0) = true := by
    rw [State.dmaLeft, counted, regs, regs, running, one]
    rfl
  rw [State.dmaBurst_of_turn data turn reached, moved, flushed, State.dmaPrompt_of_host ((congrArg addrSpace (regs _)).trans dst),
    State.burstEnd, if_pos ended, counted]

/-! ### The end of a transfer (R344, R346) -/

/-- The status of a transfer that ended OK. -/
def State.statusOk (s : State) (c : Nat) : State :=
  (((s.set HOST.D_RESULT dmaOk c).set HOST.D_RESIDUE 0 c).setB HOST.D_DONE true c).set HOST.D_STATE dmaIdle c

theorem State.statusOk_shows (s : State) {c : Nat} (hc : c < 32) : (s.statusOk c).get HOST.D_STATE c = dmaIdle ∧
    (s.statusOk c).get HOST.D_RESULT c = dmaOk ∧ (s.statusOk c).get HOST.D_RESIDUE c = 0 ∧ (s.statusOk c).flag HOST.D_DONE c = true := by
  unfold State.statusOk
  refine ⟨State.get_set_self _ HOST.D_STATE _ _ _, ?_, ?_, ?_⟩
  · rw [State.get_set_channel _ _ (by decide) ⟨hc, by decide⟩, State.setB, State.get_set_channel _ _ (by decide) ⟨hc, by decide⟩,
      State.get_set_channel _ _ (by decide) ⟨hc, by decide⟩]
    exact State.get_set_self _ HOST.D_RESULT _ _ _
  · rw [State.get_set_channel _ _ (by decide) ⟨hc, by decide⟩, State.setB, State.get_set_channel _ _ (by decide) ⟨hc, by decide⟩]
    exact State.get_set_self _ HOST.D_RESIDUE _ _ _
  · rw [State.flag, State.get_set_channel _ _ (by decide) ⟨hc, by decide⟩]
    exact State.flag_setB_self _ HOST.D_DONE true c 0 (by decide)

theorem State.shadowValid_statusOk (s : State) {c : Nat} (hc : c < 32) :
    (s.statusOk c).flag HOST.D_SHADOW_VALID c = s.flag HOST.D_SHADOW_VALID c := by
  unfold State.statusOk State.setB State.flag
  iterate 4 rw [State.get_set_channel _ _ (by decide) ⟨hc, by decide⟩]

/-- A message sends, or waits, and writes no register of its channel. -/
theorem State.get_when_dmaMessage (s : State) (b : Bool) (c : Nat) (f : Fld) (k l : Nat) :
    (s.when b (fun s => s.dmaMessage c)).get f k l = s.get f k l := by
  cases b with
  | false => rfl
  | true => exact s.get_dmaMessage c f k l

theorem State.dmaReadback_of_ok {s : State} {c : Nat} (hc : c < 32) (running : s.get HOST.D_STATE c = dmaRunning)
    (waits : (s.dmaRec c).readback = true) (unarmed : s.flag HOST.D_SHADOW_VALID c = false) :
    ∃ t : State, s.dmaReadback c true = t ∧ ∀ f : Fld, t.get f c = (s.statusOk c).get f c := by
  have kept (b : Bool) (f : Fld) : (((s.statusOk c).dmaPut c {}).when b (fun s => s.dmaMessage c)).get f c = (s.statusOk c).get f c :=
    State.get_when_dmaMessage _ _ _ _ _ _
  have still (b : Bool) : (((s.statusOk c).dmaPut c {}).when b (fun s => s.dmaMessage c)).flag HOST.D_SHADOW_VALID c = false := by
    rw [State.flag, kept]
    exact (s.shadowValid_statusOk hc).trans unarmed
  refine ⟨_, ?_, kept ((((s.set HOST.D_RESULT dmaOk c).set HOST.D_RESIDUE 0 c).setB HOST.D_DONE true c).flag HOST.D_FULL_IE c)⟩
  unfold State.dmaReadback
  rw [running, waits, if_neg (by decide), if_neg (by decide)]
  exact State.dmaHandover_of_none (still _)

theorem State.dmaReadback_of_bad {s : State} {c : Nat} (running : s.get HOST.D_STATE c = dmaRunning)
    (waits : (s.dmaRec c).readback = true) : s.dmaReadback c false = s.dmaHalt c dmaReadbackErr 0 := by
  rw [State.dmaReadback, running, waits]
  rfl

/-- Settles O29: GO, bursts, the read-back, ABORT, CLEAR_HALT and the shadow set do what R339 to R349 say. -/
theorem dmaCommandsTakeEffect : Obligations.DmaCommandsTakeEffect := by
  unfold Obligations.DmaCommandsTakeEffect
  refine ⟨fun s c hb idle good => ⟨_, next_viaHost hb, ?_⟩, fun s c hb busy => (next_viaHost hb).trans (congrArg _ (if_neg busy)),
    fun s c data running turn fresh linked one src dst wide width length half => ⟨_, congrArg Host.Outcome.next
      (State.dmaBurst_of_one running turn fresh linked one src dst wide width length half), ?_⟩,
    fun s c data turn => congrArg Host.Outcome.next (if_pos (bne_iff_ne.2 turn)),
    fun s c running waits unarmed => ?_,
    fun s c running waits => ⟨_, congrArg Host.Outcome.next (State.dmaReadback_of_bad running waits), ?_⟩,
    fun s c hb running => ⟨_, exec_dmaAbort_of_running hb running, s.dmaHalt_shows c _ (by decide)⟩,
    fun s c hb halted unarmed => (next_viaHost hb).trans (congrArg _ ?_),
    fun s c hb => ⟨_, next_viaHost hb, State.shadowArm_shows c.isLt⟩, fun s c hb => next_viaHost hb,
    fun s c v hb unarmed => (next_viaHost hb).trans (congrArg _ (shadowWord_count unarmed)),
    fun s c off v hb armed => ⟨_, next_viaHost hb, ?_⟩⟩
  · rw [State.dmaGo, if_pos idle, State.dmaStart_of_good good]
    exact ⟨State.get_set_self _ HOST.D_STATE _ _ _, State.dmaRec_dmaPut_self _ _ _⟩
  · have counted := State.dmaRec_dmaPut_self ((s.turnPast c).elemSent c data) c { moved := 1, readback := true }
    exact ⟨congrArg Dma.moved counted, congrArg Dma.readback counted, rfl, rfl⟩
  · obtain ⟨t, same, kept⟩ := State.dmaReadback_of_ok c.isLt running waits unarmed
    obtain ⟨state, result, residue, done⟩ := s.statusOk_shows c.isLt
    refine ⟨t, congrArg Host.Outcome.next same, (kept _).trans state, (kept _).trans result, (kept _).trans residue, ?_⟩
    rw [State.flag, kept]
    exact done
  · obtain ⟨state, result, -, done⟩ := s.dmaHalt_shows c 0 (result := dmaReadbackErr) (by decide)
    exact ⟨state, result, done⟩
  · rw [State.dmaClearHalt, if_pos halted]
    exact State.dmaHandover_of_none (by rw [State.flag, State.get_set_channel _ _ (by decide) ⟨c.isLt, by decide⟩]; exact unarmed)
  · obtain ⟨rejected, kept⟩ := shadowWord_of_armed (off := off.toNat) (v := v.toNat) armed
    exact ⟨rejected, kept _ (by decide) ⟨c.isLt, by decide⟩, kept _ (by decide) ⟨c.isLt, by decide⟩,
      kept _ (by decide) ⟨c.isLt, by decide⟩, kept _ (by decide) ⟨c.isLt, by decide⟩⟩

end Sys2Proof.Machine
end

section
/-!
Proofs of O28 (R22, R23, R230, R320, R328 to R334): transmission, the rings that carry frames, and the host's window.
-/
namespace Sys2Proof.Machine
open Reg

/-! ### Egress FIFOs (R22) -/

theorem State.txList_setTxList_self (s : State) (p : Nat) (l : List Item) : (s.setTxList p l).txList p = l := by
  unfold State.setTxList State.txList
  cases l <;> simp

/-- A frame that falls due is at most noted in its port's list. -/
theorem State.txDue_cases (s : State) (p : Nat) : s.txDue p = s ∨ ∃ l, s.txDue p = s.setTxList p l := by
  unfold State.txDue
  split
  · split
    · exact .inl rfl
    · exact .inr ⟨_, rfl⟩
  · exact .inl rfl

theorem State.tx_txDue (s : State) (p : Nat) : (s.txDue p).que.tx = s.que.tx := by
  rcases s.txDue_cases p with h | ⟨l, h⟩
  · rw [h]
  · rw [h]; rfl

theorem State.getStore_txDue (s : State) (p h : Nat) : (s.txDue p).getStore h = s.getStore h := by
  rcases s.txDue_cases p with e | ⟨l, e⟩
  · rw [e]
  · rw [e]; rfl

theorem State.handleCheck_txDue (s : State) (p h : Nat) : (s.txDue p).handleCheck h = s.handleCheck h := by
  rcases s.txDue_cases p with e | ⟨l, e⟩
  · rw [e]
  · rw [e]; rfl

theorem State.txDue_of_card {s : State} {p c : Nat} {b : List Byte} {rest : List Item} (h : s.txList p = .card c b :: rest) :
    s.txDue p = s := by
  rw [State.txDue, h]

theorem State.txDue_of_inst {s : State} {p : Nat} {e : Eg} {rest : List Item} (front : p < 1024) (idle : tabFind s.que.tx p = none)
    (h : s.txList p = .inst e :: rest) (undecided : e.due = none) :
    s.txDue p = s.setTxList p (.inst { e with due := some (decide (4 ≤ s.governingOp)) } :: rest) := by
  rw [State.txDue, h]
  dsimp only
  rw [idle, undecided, if_neg (by simp; omega)]

/-- What an idle port that is up does with the item at the head of its list. -/
theorem State.txStart_of_idle {s : State} {p : Nat} (rd : ReadErr) (up : s.portUp p = true) (live : s.live = true)
    (idle : tabFind s.que.tx p = none) : s.txStart p rd =
      match (s.txDue p).txList p with
      | x :: rest =>
        if !(s.txDue p).startReady x then s.txDue p
        else
          match x with
          | .card _ _ => ((s.txDue p).setTxList p rest).putTx p { item := x, at_ := ((s.txDue p).setTxList p rest).frc }
          | .inst e => ((s.txDue p).setTxList p rest).departStart e (fun s => s.txBegin p e rd)
      | [] => s.txDue p := by
  rw [State.txStart, up, live, idle]
  rfl

theorem State.departStart_of_good {s : State} {e : Eg} (go : State → State) (good : s.handleCheck e.i.h = 0) :
    s.departStart e go = go s := by
  have passed : (s.handleCheck e.i.h != 0) = false := by rw [good]; rfl
  unfold State.departStart State.readStart
  dsimp only
  rw [passed, show s.when false (fun s => s.dropCard e) = s from rfl, passed]
  rfl

theorem State.txStart_of_card {s : State} {p c : Nat} {b : List Byte} {rest : List Item} (rd : ReadErr) (up : s.portUp p = true)
    (live : s.live = true) (idle : tabFind s.que.tx p = none) (h : s.txList p = .card c b :: rest) :
    s.txStart p rd = (s.setTxList p rest).putTx p { item := .card c b, at_ := s.frc } := by
  rw [State.txStart_of_idle rd up live idle, State.txDue_of_card h, h]
  rfl

theorem State.txStart_of_ready {s : State} {p : Nat} {e : Eg} {rest : List Item} (rd : ReadErr) (up : s.portUp p = true)
    (live : s.live = true) (idle : tabFind s.que.tx p = none) (h : (s.txDue p).txList p = .inst e :: rest)
    (ready : s.startReady (.inst e) = true) (good : s.handleCheck e.i.h = 0) :
    s.txStart p rd = ((s.txDue p).setTxList p rest).txBegin p e rd := by
  have ready' : (s.txDue p).startReady (.inst e) = true := by
    refine Eq.trans ?_ ready
    rw [State.startReady, State.startReady, s.getStore_txDue]
  rw [State.txStart_of_idle rd up live idle, h]
  dsimp only
  rw [ready', if_neg (by decide)]
  exact State.departStart_of_good _ ((s.handleCheck_txDue p e.i.h).trans good)

theorem State.txStart_of_short {s : State} {p : Nat} {e : Eg} {rest : List Item} (rd : ReadErr) (front : p < 1024)
    (up : s.portUp p = true) (live : s.live = true) (idle : tabFind s.que.tx p = none) (h : s.txList p = .inst e :: rest)
    (undecided : e.due = none) (open_ : (s.getStore e.i.h).f.done = false)
    (short : (s.getStore e.i.h).f.bytes.length < 512 ∨ s.governingOp < 4) :
    s.txStart p rd = s.setTxList p (.inst { e with due := some (decide (4 ≤ s.governingOp)) } :: rest) := by
  have waits : (s.setTxList p (.inst { e with due := some (decide (4 ≤ s.governingOp)) } :: rest)).startReady
      (.inst { e with due := some (decide (4 ≤ s.governingOp)) }) = false := by
    change ((s.getStore e.i.h).f.done || (some (decide (4 ≤ s.governingOp)) == some true &&
      decide (512 ≤ (s.getStore e.i.h).f.bytes.length))) = false
    rw [open_]
    rcases short with few | low
    · simp [few]
    · simp [low]
  rw [State.txStart_of_idle rd up live idle, State.txDue_of_inst front idle h undecided, State.txList_setTxList_self]
  dsimp only
  rw [waits]
  rfl

/-! ### The end of a transmission (R23) -/

theorem State.tx_delTx (s : State) (p : Nat) : tabFind (s.delTx p).que.tx p = none := by
  rw [State.delTx, State.tx_txDue]
  exact tabFind_tabDel_self _ _

theorem State.tx_txBad (s : State) (p : Nat) (x : Tx) : tabFind (s.txBad p x).que.tx p = none := by
  unfold State.txBad
  dsimp only
  cases x.item with
  | card c b => exact State.tx_delTx _ _
  | inst e =>
    dsimp only
    rw [State.que_instEnd]
    exact State.tx_delTx _ _

/-- What a departing frame still asks for leaves the transmissions alone. -/
theorem State.que_departed (s : State) (e : Eg) (late : Bool) (ts : Nat) :
    ((s.when late (fun s => s.departCards e ts)).instEnd e.i).que = s.que := by
  rw [State.que_instEnd]
  cases late with
  | false => rfl
  | true =>
    exact (State.departCards_touches (ps := allBut [.que]) (.refl _ s) (by decide) (by decide) (by decide) (by decide) (by decide)
      (by decide) (by decide) (by decide)).same .que (by decide)

theorem State.tx_txSent (s : State) (p : Nat) (b : List Byte) : tabFind (s.txSent p b).que.tx p = none :=
  State.tx_delTx (s.emit (.frame p b false)) p

theorem State.tx_txEnd (s : State) (p : Nat) (x : Tx) (e : Eg) (rd : ReadErr) : tabFind (s.txEnd p x e rd).que.tx p = none := by
  unfold State.txEnd
  dsimp only
  split
  · exact State.tx_txBad _ _ _
  · split
    · exact State.tx_txBad _ _ _
    · rw [State.que_departed]
      exact State.tx_txSent _ _ _

/-- A transmission that ends badly sends its bytes with the inverted FCS, and only adds outputs after them. -/
theorem State.outbox_txBad (s : State) (p : Nat) (x : Tx) : s.outbox ++ [.frame p (s.txSoFar x) true] <+: (s.txBad p x).outbox := by
  have sent : Keeps (s.emit (.frame p (s.txSoFar x) true)) (s.txStomp p x) := State.txDrop_keeps (State.bwCount_keeps (.refl _))
  have ended : Keeps (s.emit (.frame p (s.txSoFar x) true)) (s.txBad p x) := by
    unfold State.txBad
    dsimp only
    cases x.item with
    | card c b => exact State.delTx_keeps sent
    | inst e => exact State.instEnd_keeps (State.delTx_keeps sent)
  exact ended.outbox

theorem State.txUnderrun_shows {s : State} {p : Nat} {x : Tx} (h : tabFind s.que.tx p = some x) :
    tabFind (s.txUnderrun p).que.tx p = none ∧ ∃ l, (s.txUnderrun p).outbox = s.outbox ++ .frame p (s.txSoFar x) true :: l := by
  have run : s.txUnderrun p = ((s.txBad p x).inc PORT.TX_UNDERRUN p).fault srcUnderrun p := by rw [State.txUnderrun, h]
  obtain ⟨l, sent⟩ := s.outbox_txBad p x
  rw [run]
  refine ⟨s.tx_txBad p x, l, ?_⟩
  rw [List.append_assoc] at sent
  exact sent.symm

theorem State.txComplete_of_card {s : State} {p c : Nat} {x : Tx} {b : List Byte} (rd : ReadErr) (h : tabFind s.que.tx p = some x)
    (card : x.item = .card c b) : s.txComplete p rd = (s.txSent p b).inc TELE.COL_SENT c := by
  rw [State.txComplete, h]
  dsimp only
  rw [card]

theorem State.txComplete_of_inst {s : State} {p : Nat} {x : Tx} {e : Eg} (rd : ReadErr) (h : tabFind s.que.tx p = some x)
    (inst : x.item = .inst e) (done : (s.getStore e.i.h).f.done = true) : s.txComplete p rd = s.txEnd p x e rd := by
  rw [State.txComplete, h]
  dsimp only
  rw [inst]
  exact if_pos done

/-- A frame that leaves is one output, and registers stay. -/
theorem State.txSent_shows (s : State) (p : Nat) (b : List Byte) : (s.txSent p b).outbox = s.outbox ++ [.frame p b false] ∧
    (s.txSent p b).regs = s.regs := by
  have due (y : State) : (y.txDue p).outbox = y.outbox ∧ (y.txDue p).regs = y.regs := by
    rcases y.txDue_cases p with h | ⟨l, h⟩ <;> (rw [h]; exact ⟨rfl, rfl⟩)
  exact due { s.emit (.frame p b false) with que := { s.que with tx := tabDel s.que.tx p } }

/-! ### Receive rings (R328, R330 to R332) -/

theorem dropFirst_singleton {α : Type} {p : α → Bool} {x : α} (h : p x = true) : dropFirst p [x] = [] := by
  rw [dropFirst, if_pos h]

theorem State.rxRingWrite_of_card {s : State} {r c : Nat} {b : List Byte} (rd : ReadErr) (list : s.txList cpuPort = [.card c b])
    (ring : s.itemRing (.card c b) = r) (open_ : s.ringOpen r (ceilDiv b.length 2048) = true) :
    s.rxRingWrite r rd = (((s.setTxList cpuPort []).draw.rxDeliver r ((s.setTxList cpuPort []).cardMeta (b.length - 4))
      (b.take (b.length - 4))).inc TELE.COL_SENT c) := by
  have found : [Item.card c b].find? (fun x => s.itemRing x == r) = some (.card c b) := List.find?_cons_of_pos (beq_iff_eq.2 ring)
  have gone : dropFirst (fun x => s.itemRing x == r) [Item.card c b] = [] := dropFirst_singleton (beq_iff_eq.2 ring)
  unfold State.rxRingWrite
  dsimp only
  rw [list, found, gone]
  dsimp only
  rw [open_, if_pos rfl]

theorem State.rxRingWrite_of_inst {s : State} {r : Nat} {e : Eg} (rd : ReadErr) (list : s.txList cpuPort = [.inst e])
    (ring : s.itemRing (.inst e) = r) (open_ : s.ringOpen r (ringNeed (s.storedLen e.i.h)) = true) (good : s.handleCheck e.i.h = 0) :
    s.rxRingWrite r rd = (s.setTxList cpuPort []).rxInst r e rd := by
  have found : [Item.inst e].find? (fun x => s.itemRing x == r) = some (.inst e) := List.find?_cons_of_pos (beq_iff_eq.2 ring)
  have gone : dropFirst (fun x => s.itemRing x == r) [Item.inst e] = [] := dropFirst_singleton (beq_iff_eq.2 ring)
  unfold State.rxRingWrite
  dsimp only
  rw [list, found, gone]
  dsimp only
  rw [open_, if_pos rfl]
  exact State.departStart_of_good _ good

/-- A frame that is delivered to a ring leaves queues and free values alone. -/
theorem State.rxDeliver_frame (s : State) (r : Nat) (first data : List Byte) :
    Touches [.regs, .dev, .outbox, .flt, .host] s (s.rxDeliver r first data) :=
  State.rxDeliver_touches (.refl _ s) (by decide) (by decide) (by decide) (by decide) (by decide)

theorem State.rxStall_of_due {s : State} {r at_ : Nat} (waits : (s.queue (cpuQueue r)).isEmpty = false)
    (full : s.ringAccepts r = false) (since : tabFind s.host.stallSince r = some at_) (limit : s.get HOST.R_RX_STALL r ≠ 0)
    (flows : s.flag HOST.R_STALLED r = false) (due : at_ + s.get HOST.R_RX_STALL r * 1250000 ≤ s.frc) :
    s.rxStall r = ((s.setB HOST.R_STALLED true r).setB HOST.R_STALL_EVT true r).fault srcStalled r := by
  have watch : s.ringWatch r = s := by
    rw [State.ringWatch, waits, full, since]
    rfl
  have passed : s.elapsed at_ (s.get HOST.R_RX_STALL r * ticksPerMs) = true := State.elapsed_of_le due
  unfold State.rxStall
  rw [watch]
  dsimp only
  rw [since]
  dsimp only
  rw [flows, passed, bne_iff_ne.2 limit]
  rfl

/-- A ring that can accept a frame is not STALLED, and no time is kept. -/
theorem State.ringWatch_of_accepts {s : State} {r : Nat} (accepts : s.ringAccepts r = true) :
    (s.ringWatch r).flag HOST.R_STALLED r = false ∧ tabFind (s.ringWatch r).host.stallSince r = none := by
  have cleared (stalled : Bool) (h : s.flag HOST.R_STALLED r = stalled) :
      (if stalled && true then s.setB HOST.R_STALLED false r else s).flag HOST.R_STALLED r = false := by
    cases stalled with
    | false => exact h
    | true => exact State.flag_setB_self s HOST.R_STALLED false r 0 (by decide)
  unfold State.ringWatch
  rw [accepts, Bool.or_true, if_pos rfl]
  exact ⟨cleared _ rfl, tabFind_tabDel_self _ _⟩

/-! ### Transmit rings (R333 to R335) -/

theorem State.txTake_of_frame {s u : State} {n h : Nat} {l : List (List Byte)} (en : s.flag HOST.R_EN (64 + n) = true)
    (go : s.portsGo = true) (gathered : s.txGather (64 + n) [] 5 = .frame l) (good : s.txStatus l = 0)
    (free : s.heldIn (8 * cpuPort + byteAt (l.headD []) 5 % 8) (s.get HOST.R_PIPE (64 + n)) = false)
    (stored : s.txStore (s.get HOST.R_PIPE (64 + n)) (8 * cpuPort + byteAt (l.headD []) 5 % 8) (s.txData l) = (some h, u)) :
    s.txTake n = (u.txBack (64 + n) 0 l).txSend (s.get HOST.R_PIPE (64 + n)) h (l.headD []) := by
  unfold State.txTake
  dsimp only
  rw [en, go, if_neg (by decide), gathered]
  dsimp only
  rw [good, if_neg (by decide), free, if_neg (by decide), stored]

/-! ### The host's window (R320) -/

/-- Where no ring is enabled, a write prompts none. -/
theorem State.ringsPrompt_of_off {s : State} (off len : Nat) (h : ∀ n, n < 88 → s.flag HOST.R_EN n = false) :
    s.ringsPrompt off len = s := by
  unfold State.ringsPrompt
  refine upTo_induct (P := fun _ t => t = s) (n := 88) (x := s) rfl fun n t hn same => ?_
  dsimp only
  rw [same, h n hn]
  rfl

theorem State.memByte_bezelWrite {s : State} {off : Nat} (b : Byte) (linked : s.regOpen HOST.LINK_UP.off = true) (inside : off < 0x1000000)
    (h : ∀ n, n < 88 → s.flag HOST.R_EN n = false) (a : Nat) :
    memByte (s.bezelWrite off [b] [true]).dev a = if a = off then b else memByte s.dev a := by
  have stored : s.bezelStore off [b] [true] = s.memStore off [b] := by
    rw [State.bezelStore, decide_eq_true inside]
    rfl
  have off_ (n : Nat) (hn : n < 88) : (s.memStore off [b]).flag HOST.R_EN n = false := by
    rw [State.flag, State.get_memStore]
    exact h n hn
  rw [State.bezelWrite, if_pos linked, stored, State.ringsPrompt_of_off off _ off_, State.memStore_dev, memByte_memStore]
  by_cases same : a = off
  · simp [same]
  · rw [if_neg same, if_neg (by simp only [List.length_singleton]; omega)]

/-- Settles O28: transmission, the rings that carry frames, host writes to the window and poisoned writes do what their rules say. -/
theorem egressCommandsTakeEffect : Obligations.EgressCommandsTakeEffect := by
  unfold Obligations.EgressCommandsTakeEffect
  refine ⟨fun s p rd c b rest up live idle list => ⟨_, congrArg Host.Outcome.next (State.txStart_of_card rd up live idle list), ?_⟩,
    fun s p rd e rest up live idle list ready good => congrArg Host.Outcome.next (State.txStart_of_ready rd up live idle list ready good),
    fun s p rd e rest up live idle list undecided open_ short => ⟨_, congrArg Host.Outcome.next
      (State.txStart_of_short rd p.isLt up live idle list undecided open_ short), ?_⟩,
    fun s p x h => ⟨_, rfl, State.txUnderrun_shows h⟩,
    fun s p rd x c b h card => ⟨_, congrArg Host.Outcome.next (State.txComplete_of_card rd h card), ?_⟩,
    fun s p rd x e h inst done => ⟨_, congrArg Host.Outcome.next (State.txComplete_of_inst rd h inst done), State.tx_txEnd _ _ _ _ _⟩,
    fun s r rd c b list ring open_ => ⟨_, congrArg Host.Outcome.next (State.rxRingWrite_of_card rd list ring open_), ?_⟩,
    fun s r rd e list ring open_ good => congrArg Host.Outcome.next (State.rxRingWrite_of_inst rd list ring open_ good),
    fun s r at_ waits full since limit flows due => ⟨_, congrArg Host.Outcome.next
      (State.rxStall_of_due waits full since limit flows due), ?_⟩,
    fun s u n l h en go gathered good free stored => congrArg Host.Outcome.next
      (State.txTake_of_frame en go gathered good free stored),
    fun s n live rx stalled accepts => ⟨_, rfl, ?_⟩,
    fun s off b linked none => ⟨_, rfl, State.memByte_bezelWrite b linked off.isLt none⟩,
    fun s b live bar => ⟨_, rfl, ?_⟩, fun s b zero two => congrArg Host.Outcome.next (if_neg ?_)⟩
  · exact ⟨State.putTx_touches (State.setTxList_touches (.refl _ s) (by decide)) (by decide), tabFind_tabPut_self _ _ _,
      State.txList_setTxList_self _ _ _⟩
  · exact ⟨State.setTxList_touches (.refl _ s) (by decide), idle, State.txList_setTxList_self _ _ _⟩
  · obtain ⟨sent, regs⟩ := s.txSent_shows p b
    refine ⟨s.tx_txSent p b, sent, ?_⟩
    rw [State.get_inc_self, State.get_congr_regs regs]
    rfl
  · have frame := (s.setTxList cpuPort []).draw.rxDeliver_frame r ((s.setTxList cpuPort []).cardMeta (b.length - 4))
      (b.take (b.length - 4))
    refine ⟨?_, frame.same .draws (by decide)⟩
    exact (congrArg (fun q : QueSt => tabGet [] q.txq cpuPort) (frame.same .que (by decide))).trans
      (s.txList_setTxList_self cpuPort [])
  · exact ⟨(State.flag_setB_of_ne (Fld.key_ne_of_apart (by decide) ⟨r.isLt.trans (by decide), by decide⟩)).trans
        (State.flag_setB_self s HOST.R_STALLED true r 0 (by decide)),
      State.flag_setB_self _ HOST.R_STALL_EVT true r 0 (by decide), State.flt_fault_congr rfl⟩
  · have run : s.when s.live (fun s => s.ringExamine n) = s.ringWatch n := by
      rw [live]
      exact if_pos rx
    rw [run]
    exact State.ringWatch_of_accepts accepts
  · have hit : s.poisoned b = (s.hostEvent HOST.POISONED).fault srcPoisoned := by
      rw [State.poisoned, live]
      rcases bar with rfl | rfl <;> rfl
    have frame : Touches [.regs, .outbox, .host] s (s.hostEvent HOST.POISONED) :=
      State.hostEvent_touches (.refl _ s) (by decide) (by decide) (by decide)
    rw [hit]
    exact ⟨State.flag_event_self (by decide) (by decide), State.flt_fault_congr (frame.same .flt (by decide))⟩
  · simp [zero, two]

end Sys2Proof.Machine
end

section
/-!
Proofs of O27 (R18, R93, R246, R262 to R267): received bytes, gate lists, launch times and selections.
-/
namespace Sys2Proof.Machine
open Reg

/-! ### Frames that arrive (R18, R93) -/

/-- What has arrived and what still arrives is as it was. -/
structure SameArrivals (s t : State) : Prop where
  lists : t.buf.lists = s.buf.lists
  rx : t.buf.rx = s.buf.rx

theorem SameArrivals.of_buf {s x t : State} (h : SameArrivals s x) (e : t.buf = x.buf) : SameArrivals s t := ⟨e ▸ h.lists, e ▸ h.rx⟩

theorem State.buf_tally (s : State) (u e n : Nat) : (s.tally u e n).buf = s.buf :=
  (State.tally_touches (ps := [.regs, .outbox, .act, .host]) (.refl _ s) (by decide) (by decide) (by decide) (by decide)).same .buf
    (by decide)

theorem SameArrivals.xoffPut {s x : State} {r : Nat} {v : Bool} (h : SameArrivals s x) : SameArrivals s (x.xoffPut r v) := by
  unfold State.xoffPut
  extract_lets port prio others y z buf w
  have counted : z.buf = x.buf := State.when_cases (P := fun t : State => t.buf = x.buf) _ _ _ rfl fun _ => State.buf_tally _ _ _ _
  have noted : SameArrivals s w := ⟨(congrArg BufSt.lists counted).trans h.lists, (congrArg BufSt.rx counted).trans h.rx⟩
  split
  · unfold State.pauseOwe
    split
    · exact noted
    · exact ⟨noted.lists, noted.rx⟩
  · exact noted

theorem SameArrivals.xoffEval {s x : State} (h : SameArrivals s x) : SameArrivals s x.xoffEval := by
  refine foldl_keeps (SameArrivals s) _ (fun y r k => ?_) _ x h
  extract_lets z
  have held : SameArrivals s z := k.of_buf ((State.heldPut_touches (ps := [.regs]) (.refl _ y) (by decide)).same .buf (by decide))
  split
  · split
    · exact held
    · exact held.xoffPut
  · split
    · exact held.xoffPut
    · exact held

/-- A charge changes the charges of its frame alone. -/
theorem State.chargeSeg_some {s u : State} {f g : Frame} {parked : Bool} (h : s.chargeSeg f parked = some (g, u)) :
    g.bytes = f.bytes ∧ g.done = f.done ∧ SameArrivals s u := by
  have same (t : State) (e : t.buf = s.buf) : SameArrivals s t.xoffEval := SameArrivals.xoffEval ⟨e ▸ rfl, e ▸ rfl⟩
  unfold State.chargeSeg at h
  dsimp only at h
  split at h
  · cases h
  all_goals
    injection h with h
    obtain ⟨rfl, rfl⟩ := Prod.mk.inj h
    exact ⟨rfl, rfl, same _ rfl⟩

/-- The frame with the segment `b`. -/
def Frame.grown (f : Frame) (b : List Byte) : Frame := { f with bytes := f.bytes ++ b }

theorem segments_of_one {b : List Byte} (some_ : b ≠ []) (one : b.length ≤ 256) : segments b = [b] := by
  have count : segsOf b.length = 1 := by
    have := List.length_pos_iff.2 some_
    rw [segsOf, ceilDiv]
    omega
  have whole : slice b (256 * 0) 256 = b := List.take_of_length_le one
  rw [segments, count]
  exact congrArg (fun x => [x]) whole

theorem State.inList_setList_self (s : State) (r : Nat) (l : List Arr) : (s.setList r l).inList r = l := by
  unfold State.setList State.inList
  cases l <;> simp

theorem State.rx_setList (s : State) (r : Nat) (l : List Arr) : (s.setList r l).buf.rx = s.buf.rx := rfl

/-- A segment joins the one frame of its list. -/
theorem State.rxSegment_fifo {s : State} {p r : Nat} {b : List Byte} {f : Frame} {x : Rx} (rx : tabFind s.buf.rx p = some x)
    (at_ : x.at_ = .fifo r) (list : s.inList r = [.fifo f]) (port : f.port = p) (open_ : f.done = false)
    (room : (s.chargeSeg f false).isSome = true) : ∃ g, g.bytes = f.bytes ++ b ∧ g.done = false ∧
      (s.rxSegment p b).inList r = [.fifo g] ∧ (s.rxSegment p b).buf.rx = s.buf.rx := by
  obtain ⟨⟨g, u⟩, charged⟩ := Option.isSome_iff_exists.1 room
  obtain ⟨bytes, done, same⟩ := State.chargeSeg_some charged
  have kept : u.inList r = [.fifo f] := by rw [State.inList, same.lists]; exact list
  have run : s.rxSegment p b = ((u.setList r [.fifo (g.grown b)]).tally (pipeOf p) evFifo).xoffEval := by
    have rec_ : s.rxOf p = x := by rw [State.rxOf, tabGet, rx]; rfl
    have passed : (f.port != p || f.done) = false := by rw [port, open_]; simp
    unfold State.rxSegment
    rw [rec_]
    dsimp only
    rw [at_]
    dsimp only
    rw [list, List.getLast?_singleton]
    dsimp only
    rw [passed, if_neg (by decide), charged]
    dsimp only
    rw [kept]
    rfl
  have after : SameArrivals (u.setList r [.fifo (g.grown b)]) (s.rxSegment p b) := by
    rw [run]
    exact SameArrivals.xoffEval (SameArrivals.of_buf ⟨rfl, rfl⟩ (State.buf_tally _ _ _ _))
  refine ⟨g.grown b, congrArg (· ++ b) bytes, done.trans open_, ?_, after.rx.trans same.rx⟩
  rw [State.inList, after.lists]
  exact u.inList_setList_self r _

theorem State.rxFrame_more {s : State} {p : Nat} {b : List Byte} (up : s.portUp p = true) (go : s.portsGo = true)
    (begun : (tabFind s.buf.rx p).isSome = true) (some_ : b ≠ []) (one : b.length ≤ 256) :
    s.rxFrame p b .more = (s.rxSegment p b).putRx p { (s.rxSegment p b).rxOf p with
      len := ((s.rxSegment p b).rxOf p).len + b.length, crc := crcWith polyCrc32 ((s.rxSegment p b).rxOf p).crc b } := by
  rw [State.rxFrame, up, go, State.rxPortion, begun, segments_of_one some_ one]
  rfl

theorem State.rxFrame_more_shows {s : State} {p r : Nat} {b : List Byte} {f : Frame} {x : Rx} (up : s.portUp p = true)
    (go : s.portsGo = true) (rx : tabFind s.buf.rx p = some x) (at_ : x.at_ = .fifo r) (list : s.inList r = [.fifo f])
    (port : f.port = p) (open_ : f.done = false) (some_ : b ≠ []) (one : b.length ≤ 256)
    (room : (s.chargeSeg f false).isSome = true) : ((s.rxFrame p b .more).rxOf p).len = x.len + b.length ∧
      ((s.rxFrame p b .more).rxOf p).crc = crcWith polyCrc32 x.crc b ∧
      ∃ g, (s.rxFrame p b .more).inList r = [.fifo g] ∧ g.bytes = f.bytes ++ b ∧ g.done = false := by
  obtain ⟨g, bytes, done, joined, kept⟩ := State.rxSegment_fifo (b := b) rx at_ list port open_ room
  have rec_ : (s.rxSegment p b).rxOf p = x := by rw [State.rxOf, kept, tabGet, rx]; rfl
  have run := State.rxFrame_more up go (by rw [rx]; rfl) some_ one
  rw [rec_] at run
  have shown : (s.rxFrame p b .more).rxOf p = { x with len := x.len + b.length, crc := crcWith polyCrc32 x.crc b } := by
    rw [run]
    exact tabGet_tabPut_self _ _ _ _
  exact ⟨congrArg Rx.len shown, congrArg Rx.crc shown, g, by rw [run]; exact joined, bytes, done⟩

/-! ### Gate lists (R262 to R266) -/

theorem State.gate_putGate_self (s : State) (p : Nat) (g : Gate) : (s.putGate p g).gate p = g := tabGet_tabPut_self _ _ _ _

theorem State.configChange_of_legal {s : State} {p : Nat} (port : s.isPort p = true) (en : s.flag QSCH.GATE_EN p = true)
    (some_ : 1 ≤ s.get QSCH.ADMIN_LEN p) (few : s.get QSCH.ADMIN_LEN p ≤ 256) (long : 1000 ≤ s.get QSCH.ADMIN_CYCLE p)
    (short : s.get QSCH.ADMIN_CYCLE p ≤ 1000000000) (ns : s.get QSCH.ADMIN_BASE_NS p < 1000000000) :
    s.configChange p = (s.putGate p { s.gate p with next := some ⟨s.get QSCH.ADMIN_LIST p, s.get QSCH.ADMIN_LEN p,
      s.get QSCH.ADMIN_CYCLE p, s.gateStartInstant (timeOf (s.get QSCH.ADMIN_BASE_SEC p) (s.get QSCH.ADMIN_BASE_NS p) 0)
        (nsUnits (s.get QSCH.ADMIN_CYCLE p))⟩ }).setB QSCH.CONFIG_PENDING true p := by
  unfold State.configChange
  dsimp only
  rw [port, en, if_neg (by decide), if_neg (by simp; omega)]

theorem State.gateDisable_of_port {s : State} {p : Nat} (port : s.isPort p = true) :
    s.gateDisable p = { ((s.setB QSCH.GATE_EN false p).setB QSCH.CONFIG_PENDING false p).setB QSCH.OPER_VALID false p with
      que := { s.que with gates := tabDel s.que.gates p } } := by
  rw [State.gateDisable, port]
  rfl

theorem State.flags_gateDisable {s : State} {p : Nat} (hp : p < 1024) (port : s.isPort p = true) :
    (s.gateDisable p).flag QSCH.GATE_EN p = false ∧ (s.gateDisable p).flag QSCH.CONFIG_PENDING p = false ∧
      (s.gateDisable p).flag QSCH.OPER_VALID p = false := by
  have shown (f : Fld) : (s.gateDisable p).flag f p =
      (((s.setB QSCH.GATE_EN false p).setB QSCH.CONFIG_PENDING false p).setB QSCH.OPER_VALID false p).flag f p := by
    rw [State.gateDisable_of_port port]
    rfl
  have beside {f g : Fld} {x : State} (h : f.apart g = true) (hi : f.Inst p 0) : (x.setB g false p).flag f p = x.flag f p :=
    State.flag_setB_of_ne (Fld.key_ne_of_apart h hi)
  rw [shown, shown, shown, beside (f := QSCH.GATE_EN) (by decide) ⟨hp, by decide⟩, beside (by decide) ⟨hp, by decide⟩,
    beside (f := QSCH.CONFIG_PENDING) (by decide) ⟨hp, by decide⟩]
  exact ⟨State.flag_setB_self s QSCH.GATE_EN false p 0 (by decide), State.flag_setB_self _ QSCH.CONFIG_PENDING false p 0 (by decide),
    State.flag_setB_self _ QSCH.OPER_VALID false p 0 (by decide)⟩

theorem State.gateOpen_of_off {s : State} {p : Nat} (off_ : s.flag QSCH.GATE_EN p = false) (c : Nat) : s.gateOpen p c = true := by
  rw [State.gateOpen, off_]
  rfl

theorem State.gateStart_of_due {s : State} {p : Nat} {g : GateList} (next : (s.gate p).next = some g) (due : g.start ≤ s.now) :
    s.gateStart p = s.gateRun p g := by
  rw [State.gateStart, next]
  exact if_pos due

theorem State.gateRun_shows (s : State) {p : Nat} (hp : p < 1024) (g : GateList) :
    (s.gateRun p g).gate p = { oper := some g, next := none, entry := s.gateEntryAt p g s.now } ∧
      (s.gateRun p g).flag QSCH.CONFIG_PENDING p = false ∧ (s.gateRun p g).flag QSCH.OPER_VALID p = true := by
  unfold State.gateRun
  dsimp only
  refine ⟨tabGet_tabPut_self _ _ _ _, ?_, ?_⟩
  · rw [State.flag_set_of_ne _ _ _ _ _ _ _ _ (Fld.key_ne_of_apart (by decide) ⟨hp, by decide⟩),
      State.flag_setB_of_ne (Fld.key_ne_of_apart (by decide) ⟨hp, by decide⟩)]
    exact State.flag_setB_self _ QSCH.CONFIG_PENDING false p 0 (by decide)
  · rw [State.flag_set_of_ne _ _ _ _ _ _ _ _ (Fld.key_ne_of_apart (by decide) ⟨hp, by decide⟩)]
    exact State.flag_setB_self _ QSCH.OPER_VALID true p 0 (by decide)

theorem State.gateEntry_of_oper {s : State} {p : Nat} {g : GateList} (oper : (s.gate p).oper = some g) :
    s.gateEntry p = s.putGate p { s.gate p with entry := s.gateEntryAt p g s.now } := by
  rw [State.gateEntry, oper]

/-! ### Launch times (R267) -/

theorem State.launchReached_of_due {s : State} {q : Nat} {i : Inst} {rest : List Inst} (queue : s.queue q = i :: rest)
    (waits : i.launched = false) (due : i.launchAt ≤ s.now) :
    s.launchReached q = s.setQueue q ({ i with launched := true } :: rest) := by
  rw [State.launchReached, queue]
  exact if_pos (by rw [waits, decide_eq_true due]; rfl)

/-! ### Selections (R246) -/

theorem State.frontPick_of {s : State} {p g c j : Nat} {l m : List Member} (port : s.isPort p = true) (ok : s.portOk p = true)
    (top : s.topGroup p ((List.range 16).map (fun c => s.classMember p c)) = some g)
    (classes : dwrrChoose (((List.range 16).map (fun c => s.classMember p c)).filter (fun x => s.classGroup p x.id == g))
      (s.rrPtr (groupPtr p g)) = some (l, c)) (subs : s.subChoose p c = some (m, j)) :
    s.frontPick p = some { g := g, classes := l, c := c, subs := m, k := j } := by
  unfold State.frontPick
  dsimp only
  rw [port, ok, if_neg (by decide), top]
  dsimp only
  rw [classes]
  dsimp only
  rw [subs]

/-- Counting an event leaves alone which classes are in storm state. -/
theorem State.pickStorms_tally (s : State) (u e n : Nat) {p : Nat} (hp : p < 1024) (x : Pick) :
    (s.tally u e n).pickStorms p x = s.pickStorms p x := by
  have prio : (s.tally u e n).classPrio p x.c = s.classPrio p x.c := by
    have dev := s.dev_tally u e n
    unfold State.classPrio
    dsimp only
    rw [State.mem_congr dev, State.mem_congr dev]
  have frame : Writes [3110, 3113, 3114, 3123, 3125, 4907] s (s.tally u e n) :=
    State.tally_writes (.refl _ s) (List.Subset.refl _)
  rw [State.pickStorms, State.pickStorms, prio]
  exact frame.bitOf_eq (by decide) ⟨hp, by decide⟩

theorem State.selectFront_of_pick {s : State} {p slot : Nat} {x : Pick} (hp : p < 1024) (pick : s.frontPick p = some x)
    (calm : s.pickStorms p x = false) : s.selectFront p slot =
      (((s.tally 127 evSelect).classCommit p x.g x.classes x.c).subCommit p x.c x.subs x.k).take p slot x.c x.k := by
  unfold State.selectFront
  rw [pick]
  dsimp only
  rw [State.pickStorms_tally s _ _ _ hp, calm]
  rfl

/-- Where no gate runs and nothing has been granted, a front port that needs a slot selects where the arbitration picks it. -/
theorem State.schedSelect_of_front {s : State} {p slot : Nat} (hp : p < 1024) (live : s.live = true)
    (gates : s.flag QSCH.GATE_EN p = false) (slots : s.slotless p = false) (fresh : (s.arbEg (pipeOf p)).granted = []) :
    s.schedSelect p slot =
      if (s.arbEg (pipeOf p)).pick 18 (s.egReady (pipeOf p)) = some (p % 16) then
        ((s.selectFront p slot).setArbEg (pipeOf p) ((s.arbEg (pipeOf p)).grant 18 (p % 16))).when (slot == 1)
          (fun s => s.setArbEg (pipeOf p) ((s.arbEg (pipeOf p)).settle 18 (s.egReady (pipeOf p))))
      else s := by
  have undropped (b : Bool) : s.when b (fun s => s.gateDrops p) = s := by
    cases b with
    | false => rfl
    | true =>
      change s.gateDrops p = s
      exact if_neg (by rw [gates]; decide)
  have source : s.egSource p = (pipeOf p, p % 16) := if_pos hp
  have all : (s.egReady (pipeOf p)).filter (fun y => !(s.arbEg (pipeOf p)).granted.contains y) = s.egReady (pipeOf p) := by
    rw [fresh]
    exact List.filter_eq_self.2 fun _ _ => rfl
  have closed (f : State → State) : s.when (slot == 0 && !(s.arbEg (pipeOf p)).granted.isEmpty) f = s := by
    rw [fresh]
    cases slot == 0 <;> rfl
  unfold State.schedSelect
  rw [live, if_neg (by decide)]
  dsimp only
  rw [undropped, source]
  dsimp only
  rw [closed, slots, all, if_neg (by rw [fresh]; simp), if_neg (by decide), State.portSelect, if_pos hp]

/-- Settles O27: received bytes, gate lists, launch times and selections do what their rules say. -/
theorem ingressAndGateCommandsTakeEffect : Obligations.IngressAndGateCommandsTakeEffect := by
  unfold Obligations.IngressAndGateCommandsTakeEffect
  refine ⟨fun s p b r f x up go rx at_ list port open_ some_ one room =>
      ⟨_, rfl, State.rxFrame_more_shows up go rx at_ list port open_ some_ one room⟩,
    fun s p start hb port en some_ few long short ns instant => ⟨_, (next_viaHost hb).trans (congrArg Host.Outcome.next
      (State.configChange_of_legal port en some_ few long short ns)), ?_⟩,
    fun s p hb port => ⟨_, next_viaHost hb, ?_⟩,
    fun s p g next due => ⟨_, congrArg Host.Outcome.next (State.gateStart_of_due next due), s.gateRun_shows p.isLt g⟩,
    fun s p g oper => ⟨_, congrArg Host.Outcome.next (State.gateEntry_of_oper oper),
      State.putGate_touches (.refl _ s) (by decide), s.gate_putGate_self _ _⟩,
    fun s q i rest queue waits due => ⟨_, congrArg Host.Outcome.next (State.launchReached_of_due queue waits due),
      State.setQueue_touches (.refl _ s) (by decide), s.queue_setQueue_self _ _⟩,
    fun s p copies g k l m c j hp port live good gates ok top classes subs prio calm fresh pick => ?_,
    fun s p slot copies hp port live good gates slots fresh pick => ?_,
    fun s p slot live => congrArg Host.Outcome.next (by rw [live]; rfl)⟩
  · rw [instant]
    have noted (y : State) (g : Gate) : ((y.putGate p g).setB QSCH.CONFIG_PENDING true p).gate p = g := y.gate_putGate_self p g
    exact ⟨State.flag_setB_self _ QSCH.CONFIG_PENDING true p 0 (by decide), (congrArg Gate.oper (noted _ _)).trans rfl,
      congrArg Gate.next (noted _ _)⟩
  · obtain ⟨en, pending, valid⟩ := State.flags_gateDisable p.isLt port
    refine ⟨en, pending, valid, ?_, State.gateOpen_of_off en⟩
    rw [State.gateDisable_of_port port]
    exact tabGet_tabDel_self _ _ _
  · have choice := State.frontPick_of port ok top classes subs
    have calm' : s.pickStorms p { g := g, classes := l, c := c, subs := m, k := j } = false := by
      rw [prio] at calm
      exact calm
    have pick' : (s.arbEg (pipeOf p)).pick 18 (s.egReady (pipeOf p)) = some (p.val % 16) := pick
    have slots : s.slotless p = false := by rw [State.slotless, if_pos hp, choice]; exact calm'
    have run : exec (.schedSelect p 0 copies) s = .next (s.schedSelect p 0) := by
      cases copies with
      | neither => exact absurd rfl good
      | _ => rfl
    rw [run, State.schedSelect_of_front hp live gates slots fresh, if_pos pick', State.selectFront_of_pick hp choice calm']
    rfl
  · have run : exec (.schedSelect p slot copies) s = .next (s.schedSelect p slot) := by
      cases copies with
      | neither => exact absurd rfl good
      | _ => rfl
    have pick' : (s.arbEg (pipeOf p)).pick 18 (s.egReady (pipeOf p)) ≠ some (p.val % 16) := pick
    rw [run, State.schedSelect_of_front hp live gates slots fresh, if_neg pick']

end Sys2Proof.Machine
end

section
/-!
Proofs of O22 (R25, R45, R184, R197, R368, R379): slots of a pipe, the stages, and a scrub of a Filigree node.
-/
namespace Sys2Proof.Machine
open Reg

/-! ### Lookups leave the packets of the ingress stages (R184) -/

theorem State.pipe_tally (s : State) (u e n : Nat) : (s.tally u e n).pipe = s.pipe :=
  (State.tally_touches (ps := [.regs, .outbox, .act, .host]) (.refl _ s) (by decide) (by decide) (by decide) (by decide)).same .pipe
    (by decide)

theorem State.ing_aseOp (s : State) (bg : Bool) (n b : Nat) : (s.aseOp bg n b).pipe.ing = s.pipe.ing := by
  unfold State.aseOp
  extract_lets ops y
  have noted : y.pipe.ing = s.pipe.ing := rfl
  clear_value y
  refine Eq.trans ?_ noted
  cases bg with
  | false => exact congrArg PipeSt.ing (y.pipe_tally (bankUnit b) evLookup n)
  | true => exact congrArg PipeSt.ing (y.pipe_tally (bankUnit b) evBackground n)

theorem State.ing_aseOps (s : State) (bg wide : Bool) (banks : List Nat) : (s.aseOps bg wide banks).pipe.ing = s.pipe.ing :=
  foldl_keeps (fun t : State => t.pipe.ing = s.pipe.ing) _ (fun t b h => (t.ing_aseOp bg 1 b).trans h) _ s rfl

theorem State.pipe_slotFail (s : State) (p : Nat) (wide : Bool) (b i : Nat) (bySearch : Bool) (src : Nat) :
    (s.slotFail p wide b i bySearch src).pipe = s.pipe :=
  (State.slotFail_touches (ps := [.regs, .dev, .flt]) (.refl _ s) (by decide) (by decide) (by decide)).same .pipe (by decide)

theorem State.pipe_aseAnswer (s : State) (p : Nat) (w : Option (Nat × Nat)) (multi : Bool) (e : LookErr) :
    (s.aseAnswer p w multi e).2.2.pipe = s.pipe :=
  (State.aseAnswer_touches (ps := [.regs, .flt]) (.refl _ s) (by decide) (by decide)).same .pipe (by decide)

theorem State.ing_aseSearch (s : State) (bg : Bool) (p r key : Nat) (e : LookErr) :
    (s.aseSearch bg p r key e).2.2.pipe.ing = s.pipe.ing := by
  have counted (x : State) (b : Bool) : (x.when b fun s => s.inc ASE.P_MULTI_HITS p).pipe = x.pipe := by
    cases b <;> rfl
  unfold State.aseSearch
  extract_lets key' wide banks x count
  have first : x.pipe.ing = s.pipe.ing := State.ing_aseOps _ _ _ _
  have answered (y : State) (w : Option (Nat × Nat)) (multi : Bool) (e : LookErr) :
      (count (y.aseAnswer p w multi e)).2.2.pipe.ing = y.pipe.ing :=
    congrArg PipeSt.ing ((counted _ _).trans (y.pipe_aseAnswer p w multi e))
  have failed (y : State) (b i : Nat) : (y.slotFail p wide b i true srcAseParity).pipe.ing = y.pipe.ing :=
    congrArg PipeSt.ing (y.pipe_slotFail p wide b i true srcAseParity)
  have again (b i : Nat) : ((x.slotFail p wide b i true srcAseParity).aseOps bg wide banks).pipe.ing = s.pipe.ing :=
    (State.ing_aseOps _ _ _ _).trans ((failed x b i).trans first)
  clear_value x count
  split
  extract_lets e1
  clear_value e1
  split
  case h_3 => exact (answered _ _ _ _).trans first
  case h_1 =>
    extract_lets y
    have second : y.pipe.ing = s.pipe.ing := again _ _
    clear_value y
    split
    split
    · exact (failed _ _ _).trans second
    · split
      · exact (failed _ _ _).trans second
      · exact (answered _ _ _ _).trans second
    · exact (answered _ _ _ _).trans second
  case h_2 =>
    extract_lets y
    have second : y.pipe.ing = s.pipe.ing := again _ _
    clear_value y
    split
    split
    · exact (failed _ _ _).trans second
    · exact (failed _ _ _).trans second
    · exact (answered _ _ _ _).trans second

theorem State.ing_aseLookup (s : State) (pipe slot p key : Nat) (e : LookErr) : (s.aseLookup pipe slot p key e).2.pipe.ing = s.pipe.ing := by
  have found := s.ing_aseSearch false p ((2 * pipe + slot) % s.aseReplicas p) key e
  unfold State.aseLookup
  dsimp only
  generalize s.aseSearch false p ((2 * pipe + slot) % s.aseReplicas p) key e = m at found ⊢
  obtain ⟨hit, place, t⟩ := m
  rw [State.pipe_tally]
  exact found

/-- A lookup leaves the packets of the ingress stages where they are. -/
theorem State.ing_lookIssue (s : State) (w : Work) (l : Nat) (e : LookErr) : (s.lookIssue w l e).2.pipe.ing = s.pipe.ing := by
  have em (t key : Nat) : (s.emLookup w.pipe t key e).2.pipe = s.pipe :=
    (State.emLookup_touches (ps := allBut [.pipe]) (.refl _ s) (by decide) (by decide) (by decide) (by decide) (by decide) (by decide)).same
      .pipe (by decide)
  have fil (i key : Nat) : (s.filLookup w.pipe w.epoch i key e).2.pipe = s.pipe :=
    (State.filLookup_touches (ps := allBut [.pipe]) (.refl _ s) (by decide) (by decide) (by decide) (by decide) (by decide)).same .pipe
      (by decide)
  have direct (key : Nat) : (s.directLook w l key e).2.pipe = s.pipe :=
    (State.directLook_touches (ps := allBut [.pipe]) (.refl _ s) (by decide) (by decide) (by decide) (by decide) (by decide)).same .pipe
      (by decide)
  unfold State.lookIssue
  extract_lets ty tgt cond dst key issued emKey
  split
  · rfl
  · split
    · rfl
    · split
      · exact congrArg PipeSt.ing (direct key)
      · split
        rename_i found
        refine (congrArg (fun m : Hit × State => m.2.pipe.ing) found.symm).trans ?_
        split
        · exact congrArg PipeSt.ing (em tgt key)
        · split
          · exact s.ing_aseLookup _ _ _ _ _
          · exact congrArg PipeSt.ing (fil tgt key)

theorem foldl_counts {α β : Type} {f : α → β → α} {n : α → Nat} (h : ∀ a b, n (f a b) = n a + 1) (l : List β) (a : α) :
    n (l.foldl f a) = n a + l.length := by
  induction l generalizing a with
  | nil => rfl
  | cons b l ih => rw [List.foldl_cons, ih, h, List.length_cons]; omega

/-- The lookups of a stage give four results. -/
theorem State.looksIssue_shows (s : State) (w : Work) (errs : List LookErr) :
    (s.looksIssue w errs).1.length = 4 ∧ (s.looksIssue w errs).2.pipe.ing = s.pipe.ing := by
  unfold State.looksIssue
  refine ⟨foldl_counts (n := fun a : List Look × State => a.1.length) (fun a l => ?_) (List.range 4) ([], s),
    foldl_keeps (fun a : List Look × State => a.2.pipe.ing = s.pipe.ing) _ (fun a l h => ?_) (List.range 4) ([], s) rfl⟩
  · exact List.length_append
  · exact (a.2.ing_lookIssue w l (errs.getD l .clean)).trans h

theorem replaceFirst_singleton {α : Type} {p : α → Bool} {x : α} (f : α → α) (h : p x = true) : replaceFirst p f [x] = [f x] := by
  rw [replaceFirst, if_pos h]

theorem State.ingress_setIngress_self (s : State) (n : Nat) (l : List Pkt) : (s.setIngress n l).ingress n = l := by
  unfold State.setIngress State.ingress
  cases l <;> simp

theorem State.stageIssue_shows {s : State} {n st : Nat} {k : Pkt} (errs : List LookErr) (hs : st < 20) (list : s.ingress n = [k])
    (at_ : k.stage = st) (waits : k.issued = false) :
    ∃ l, l.length = 4 ∧ (s.stageIssue n st errs).ingress n = [{ k with issued := true, looks := l }] := by
  obtain ⟨four, kept⟩ := s.looksIssue_shows k.work errs
  have found : [k].find? (fun k => k.stage == st && !k.issued) = some k := List.find?_cons_of_pos (by rw [at_, waits]; simp)
  have list' : (s.looksIssue k.work errs).2.ingress n = [k] := by rw [State.ingress, kept]; exact list
  refine ⟨(s.looksIssue k.work errs).1, four, ?_⟩
  unfold State.stageIssue
  dsimp only
  rw [if_pos hs, list, found]
  dsimp only
  rw [list', replaceFirst_singleton _ (by rw [at_, waits]; simp)]
  exact State.ingress_setIngress_self _ _ _

/-! ### Slots of a pipe (R25, R45, R368) -/

/-- Where only the source 2 waits and none has lost, a token's first slot is granted to it. -/
theorem Arb.open_grants {a : Arb} (h : a.losers = []) : (a.open_ 3 [2]).pick 3 [2] = some 2 ∧
    (a.open_ 3 [2]).grant 3 2 = { ptr := 0, losers := [], granted := [2] } := by
  have granted : (a.open_ 3 [2]).granted = [] := by
    unfold Arb.open_
    split
    · exact List.isEmpty_iff.1 ‹_›
    · rfl
  have losers : ∀ x ∈ (a.open_ 3 [2]).losers, x = 2 := by
    unfold Arb.open_
    split
    · rw [h]; simp
    · unfold Arb.settle
      dsimp only
      rw [h]
      simp +contextual
  generalize a.open_ 3 [2] = b at granted losers
  have rotation : ((List.range 3).map (fun k => (b.ptr + k) % 3)).find? (fun x => [2].contains x) = some 2 := by
    cases hf : ((List.range 3).map (fun k => (b.ptr + k) % 3)).find? (fun x => [2].contains x) with
    | some x => simpa using List.find?_some hf
    | none =>
      have here : 2 ∈ (List.range 3).map (fun k => (b.ptr + k) % 3) :=
        List.mem_map.2 ⟨(5 - b.ptr % 3) % 3, List.mem_range.2 (by omega), by omega⟩
      exact absurd rfl (List.find?_eq_none.1 hf 2 here)
  constructor
  · unfold Arb.pick
    cases hl : b.losers with
    | nil =>
      rw [List.find?_nil]
      dsimp only
      rw [rotation]
    | cons x l =>
      have two : x = 2 := losers x (by rw [hl]; exact List.mem_cons_self)
      rw [two]
      rfl
  · have none : b.losers.filter (fun y => y != 2) = [] := List.filter_eq_nil_iff.2 fun x hx => by rw [losers x hx]; simp
    unfold Arb.grant
    rw [none, granted]

/-- The state in which a token's first slot is granted, or carries a bubble. -/
def State.slotBegun (s : State) (n : Nat) : State := (s.arbTurn n Arb.open_).slotUse n

theorem State.parseSlot_of_free {s : State} {n : Nat} (power : s.flag PWR.PFAIL = false) (free : s.bubbleNext n = false) :
    s.parseSlot n 0 = (s.slotBegun n).slotGrant n 0 := by
  have free' : (s.arbTurn n Arb.open_).bubbleNext n = false := free
  unfold State.parseSlot
  rw [power, if_neg (by decide)]
  change (if (s.arbTurn n Arb.open_).bubbleNext n then _ else _) = _
  rw [free', if_neg (by decide)]
  rfl

theorem State.parseSlot_of_bubble {s : State} {n : Nat} (power : s.flag PWR.PFAIL = false) (bubble : s.bubbleNext n = true) :
    s.parseSlot n 0 = (s.slotBegun n).bubbleTally n := by
  have bubble' : (s.arbTurn n Arb.open_).bubbleNext n = true := bubble
  unfold State.parseSlot
  rw [power, if_neg (by decide)]
  change (if (s.arbTurn n Arb.open_).bubbleNext n then _ else _) = _
  rw [bubble', if_pos rfl]
  rfl

theorem State.sourcesReady_of_cpu {s : State} {n : Nat} {g : CpuFrame} {rest : List CpuFrame} (lists : s.listsReady n = [])
    (recirc : tabFind s.buf.recirc n = none) (list : s.cpuList n = g :: rest)
    (free : g.queue.isSome = true ∨ s.notRefused (s.getStore g.h).f.req = true) : s.sourcesReady n = [2] := by
  have contends : (g.queue.isSome || s.notRefused (s.getStore g.h).f.req) = true := by
    rcases free with h | h <;> rw [h]
    · exact Bool.true_or _
    · exact Bool.or_true _
  unfold State.sourcesReady
  rw [lists, recirc, list]
  dsimp only
  rw [contends]
  rfl

theorem State.sourcesReady_slotBegun (s : State) (n : Nat) : (s.slotBegun n).sourcesReady n = s.sourcesReady n := rfl

theorem State.arbSrc_slotBegun (s : State) (n : Nat) : (s.slotBegun n).arbSrc n = (s.arbSrc n).open_ 3 (s.sourcesReady n) :=
  tabGet_tabPut_self _ _ _ _

theorem State.slotGrant_of_cpu {s : State} {n : Nat} {g : CpuFrame} {rest : List CpuFrame} (lists : s.listsReady n = [])
    (recirc : tabFind s.buf.recirc n = none) (list : s.cpuList n = g :: rest)
    (free : g.queue.isSome = true ∨ s.notRefused (s.getStore g.h).f.req = true) (losers : (s.arbSrc n).losers = []) :
    (s.slotBegun n).slotGrant n 0 =
      (((s.slotBegun n).setArbSrc n { ptr := 0, losers := [], granted := [2] }).tally n evIngress).parseCpu n 0 g := by
  obtain ⟨pick, grant⟩ := Arb.open_grants losers
  have ready : (s.slotBegun n).sourcesReady n = [2] :=
    (s.sourcesReady_slotBegun n).trans (State.sourcesReady_of_cpu lists recirc list free)
  have arb := s.arbSrc_slotBegun n
  rw [State.sourcesReady_of_cpu lists recirc list free] at arb
  have waits (a : Arb) : (((s.slotBegun n).setArbSrc n a).tally n evIngress).cpuList n = g :: rest := by
    rw [State.cpuList, State.buf_tally]
    exact list
  unfold State.slotGrant
  dsimp only
  rw [ready, arb, pick]
  dsimp only
  rw [grant]
  unfold State.parseFrom
  dsimp only
  rw [waits]
  rfl

/-- A slot that carries a bubble moves no frame. -/
theorem State.bubbleTally_shows (s : State) (n : Nat) : ((s.slotBegun n).bubbleTally n).que = s.que ∧
    ((s.slotBegun n).bubbleTally n).pipe = s.pipe ∧ ((s.slotBegun n).bubbleTally n).dev = s.dev ∧
    ((s.slotBegun n).bubbleTally n).buf = (s.slotBegun n).buf := by
  have frame (e : Nat) : Touches [.regs, .outbox, .act, .host] (s.slotBegun n) ((s.slotBegun n).tally n e) :=
    State.tally_touches (.refl _ _) (by decide) (by decide) (by decide) (by decide)
  exact ⟨(frame _).same .que (by decide), (frame _).same .pipe (by decide), (frame _).same .dev (by decide),
    (frame _).same .buf (by decide)⟩

theorem State.slots_slotUse (s : State) (n : Nat) :
    tabGet 0 (s.slotUse n).buf.slots n = (tabGet 0 s.buf.slots n + s.bubbles n) % 256 := by
  unfold State.slotUse
  dsimp only
  split
  · rename_i zero
    rw [zero]
    exact tabGet_tabDel_self _ _ _
  · exact tabGet_tabPut_self _ _ _ _

/-! ### Actions of a stage (R194, R197) -/

theorem State.injAt_of_none {s : State} (h : s.flt.injHit = []) (a n : Nat) : s.injAt a n = 0 := by
  rw [State.injAt, h]
  rfl

/-- The work whose record has the immediate of an action word in the word's field. -/
def Work.setImm (w : Work) (word : Nat) : Work :=
  { w with rec_ := fieldSet w.rec_ (awBe word) (awDst word) (awWidth word) (awImm word % 2 ^ awWidth word) }

theorem State.wordRun_setImm (s : State) (w : Work) (p : Bool) (pc : Nat) {word : Nat} {bad : Bool} (op : awOp word = 1) :
    s.wordRun w p pc word bad = (w.setImm word, p, s) := by
  have once : fieldSet w.rec_ (awBe word) (awDst word) (awWidth word) (awImm word % 2 ^ awWidth word % 2 ^ awWidth word) =
      fieldSet w.rec_ (awBe word) (awDst word) (awWidth word) (awImm word % 2 ^ awWidth word) := by rw [Nat.mod_mod]
  unfold State.wordRun
  rw [op]
  exact congrArg (fun r => ({ w with rec_ := r }, p, s)) once

/-- The one word of a program that sets an immediate and ends. -/
theorem State.wordsRun_setImm {s : State} {w : Work} {pc word : Nat} (inside : pc < s.areaSize actionWords) (none : s.flt.injHit = [])
    (at_ : word = s.mem (s.wordAddr w pc) 8) (op : awOp word = 1) (pred : awPred word = false) (last : awEnd word = true) (fuel : Nat) :
    s.wordsRun w true pc 0 .clean (fuel + 1) = (some (w.setImm word), s.injClear (s.wordAddr w pc) 8) := by
  have clean : (ActErr.clean == .word (Fin.ofNat 16 0) || decide (2 ≤ s.injAt (s.wordAddr w pc) 8)) = false := by
    rw [State.injAt_of_none none]
    rfl
  have same : (s.injClear (s.wordAddr w pc) 8).mem (s.wordAddr w pc) 8 = word := at_.symm
  unfold State.wordsRun
  rw [if_neg (Nat.not_le.2 inside)]
  dsimp only
  rw [clean, if_neg (by decide), same, pred, last]
  rw [if_pos rfl, if_pos (by decide), State.wordRun_setImm _ _ _ _ op]

theorem State.stageRun_setImm {s : State} {w : Work} {word : Nat} (looks : w.looks = []) (none : s.flt.injHit = [])
    (direct : s.stageField w.pipe w.stage 0x82 1 = 0) (inside : s.stageField w.pipe w.stage 0x84 2 < s.areaSize actionWords)
    (at_ : word = s.mem (s.wordAddr w (s.stageField w.pipe w.stage 0x84 2)) 8) (op : awOp word = 1) (pred : awPred word = false)
    (last : awEnd word = true) : ∃ t : State, t.pipe = s.pipe ∧ s.stageRun w .clean = (some (w.setImm word), t) := by
  refine ⟨s.injClear (s.wordAddr w (s.stageField w.pipe w.stage 0x84 2)) 8, rfl, ?_⟩
  have program : s.stageRun w .clean = s.programRun w .clean := by
    cases w
    cases looks
    rfl
  rw [program]
  unfold State.programRun
  dsimp only
  rw [direct, if_pos rfl, Nat.add_zero, if_neg (Nat.not_le.2 inside)]
  exact State.wordsRun_setImm (w := w) inside none at_ op pred last 15

/-- The packet at the head of a stage has run its program: it stands before the next stage. -/
def Pkt.ran (k : Pkt) (w : Work) : Pkt := { k with rec_ := w.rec_, v := w.v, stage := k.stage + 1, issued := false, looks := [] }

theorem State.stageAct_moves {s t : State} {n st : Nat} {k : Pkt} {w : Work} {err : ActErr} (rd : ReadErr) (hs : st < 19)
    (list : s.ingress n = [k]) (at_ : k.stage = st) (issued : k.issued = true) (run : s.stageRun k.work err = (some w, t))
    (same : t.pipe = s.pipe) : (s.stageAct n st err rd).ingress n = [k.ran w] := by
  have found : [k].find? (fun k => k.stage == st && k.issued) = some k := List.find?_cons_of_pos (by rw [at_, issued]; simp)
  have list' : t.ingress n = [k] := by rw [State.ingress, same]; exact list
  unfold State.stageAct
  rw [if_pos (by omega), list, found]
  dsimp only
  unfold State.ingressRun
  rw [run]
  dsimp only
  rw [list', replaceFirst_singleton (p := fun x => x == k) _ (beq_self_eq_true k), if_neg (by omega)]
  exact State.ingress_setIngress_self _ _ _

/-! ### A scrub of a Filigree node (R379) -/

/-- A correctable word is counted and stays as it reads. -/
theorem State.scrubWord_of_corrected {s : State} (a n : Nat) (none : s.flt.injHit = []) : (s.scrubWord a n .corrected).dev = s.dev ∧
    (s.scrubWord a n .corrected).get ANVL.SCRUB_CORR = satTo (2 ^ 32 - 1) (s.get ANVL.SCRUB_CORR + 1) := by
  have seen : s.eccOf a n .corrected = .corrected := by
    unfold State.eccOf
    rw [State.injAt_of_none none]
    rfl
  have run : s.scrubWord a n .corrected = (s.inc ANVL.SCRUB_CORR).injClear a n := by rw [State.scrubWord, seen]
  rw [run]
  exact ⟨rfl, (State.get_congr_regs (s := s.inc ANVL.SCRUB_CORR) rfl _ _ _).trans (State.get_inc_self s ANVL.SCRUB_CORR 0 0)⟩

/-- The operations of a bank that a check takes are counted elsewhere. -/
theorem State.bankWork_shows (s : State) (b n : Nat) : (s.bankWork b n).dev = s.dev ∧ (s.bankWork b n).flt = s.flt ∧
    (s.bankWork b n).get ANVL.SCRUB_CORR = s.get ANVL.SCRUB_CORR := by
  have frame : Touches [.regs, .outbox, .act, .host] s (s.bankWork b n) :=
    State.bankWork_touches (.refl _ s) (by decide) (by decide) (by decide) (by decide)
  have writes : Writes [3110, 3113, 3114, 3123, 3125, 4907] s (s.bankWork b n) := State.bankWork_writes (.refl _ s) (List.Subset.refl _)
  exact ⟨frame.same .dev (by decide), frame.same .flt (by decide), writes.get_eq (by decide) (by decide)⟩

theorem State.scrub_filigree (s : State) (k : BitVec 19) (none : s.flt.injHit = []) : (s.scrub (.filigree k) .corrected).dev = s.dev ∧
    (s.scrub (.filigree k) .corrected).get ANVL.SCRUB_CORR = satTo (2 ^ 32 - 1) (s.get ANVL.SCRUB_CORR + 1) := by
  have run (b n a : Nat) : ((s.bankWork b n).scrubWord a 64 .corrected).dev = s.dev ∧
      ((s.bankWork b n).scrubWord a 64 .corrected).get ANVL.SCRUB_CORR = satTo (2 ^ 32 - 1) (s.get ANVL.SCRUB_CORR + 1) := by
    obtain ⟨dev, flt, count⟩ := s.bankWork_shows b n
    generalize s.bankWork b n = x at dev flt count ⊢
    obtain ⟨same, counted⟩ := State.scrubWord_of_corrected (s := x) a 64 (by rw [flt]; exact none)
    exact ⟨same.trans dev, by rw [counted, count]⟩
  rw [State.scrub, State.scrubBank]
  exact run _ _ _

/-- Settles O22: slots of a pipe, the lookups and actions of a stage, and a scrub step do what their rules say. -/
theorem pipeCommandsTakeEffect : Obligations.PipeCommandsTakeEffect := by
  unfold Obligations.PipeCommandsTakeEffect
  refine ⟨fun s n g rest power free lists recirc list first losers => congrArg Host.Outcome.next
      ((State.parseSlot_of_free power free).trans (State.slotGrant_of_cpu lists recirc list first losers)),
    fun s n power bubble => ⟨_, congrArg Host.Outcome.next (State.parseSlot_of_bubble power bubble), ?_⟩,
    fun s n slot off_ => congrArg Host.Outcome.next (if_pos off_),
    fun s n st k e0 e1 e2 e3 hs list at_ waits => ⟨_, rfl, State.stageIssue_shows [e0, e1, e2, e3] hs list at_ waits⟩,
    fun s n st k rd w hs list pipe at_ issued looks none direct inside word op pred last => ⟨_, rfl, ?_⟩,
    fun s f k runs clean none => ⟨_, congrArg Host.Outcome.next ((anvil_good runs clean).trans (State.when_false _ _)), ?_⟩⟩
  · obtain ⟨que, same, dev, buf⟩ := s.bubbleTally_shows n
    refine ⟨que, same, dev, (congrArg BufSt.store buf).trans rfl, (congrArg BufSt.lists buf).trans rfl, (congrArg BufSt.recirc buf).trans rfl,
      (congrArg BufSt.cpuIn buf).trans rfl, ?_⟩
    rw [buf]
    exact (s.arbTurn n Arb.open_).slots_slotUse n
  · have here : k.work.pipe = n.val ∧ k.work.stage = st.val := ⟨pipe, at_⟩
    obtain ⟨t, same, run⟩ := State.stageRun_setImm (s := s) (w := k.work) (word := w) looks none (by rw [here.1, here.2]; exact direct)
      (by rw [here.1, here.2]; exact inside) (by rw [here.1, here.2]; exact word) op pred last
    have moved : k.ran (k.work.setImm w) =
        { k with stage := k.stage + 1, issued := false, rec_ := fieldSet k.rec_ (awBe w) (awDst w) (awWidth w) (awImm w % 2 ^ awWidth w) } := by
      rw [Pkt.ran, ← looks]
      rfl
    rw [← moved]
    exact State.stageAct_moves rd hs list at_ issued run same
  · have kept : (s.stepped actPlanish).flt = s.flt := (s.stepped_frame actPlanish).same .flt (by decide)
    obtain ⟨dev, count⟩ := (s.stepped actPlanish).scrub_filigree k (by rw [kept]; exact none)
    exact ⟨dev.trans ((s.stepped_frame actPlanish).same .dev (by decide)), count.trans (by rw [s.get_stepped])⟩

end Sys2Proof.Machine
end
